-- ==== Sys2Proof/Word.lean ====
section
/-! DEFINITION. The word types of the HL7 model: what the spec treats as bits. Quantities that are never masked or wrapped
by the spec (counts, indices, exact intermediate sums) are `Nat` or `Int`. -/

namespace Sys2Proof

/-- One byte of memory or of a record. -/
abbrev Byte := BitVec 8

/-- A 16-bit field. -/
abbrev Half := BitVec 16

/-- A 32-bit register (R13). -/
abbrev Word := BitVec 32

/-- A 64-bit value: a DT value, an epoch, an ID, a device or host address in a record. -/
abbrev DWord := BitVec 64

end Sys2Proof
end

