-- ==== Sys2Proof/Syntax.lean ====
section
/-! DEFINITION. The commands of the HL7: one constructor of `Instr` per row of the table of operations and events, with the
operands the row's chapter gives it. Everything that reaches the block from outside (a register access, a packet, a pin
edge, a link message, a fault report, the end of an engine's run, the expiry of a timer) is a command. -/

namespace Sys2Proof

/-- Who makes an access: the host over PCIe, firmware on the active control pair, or the AOM. -/
inductive Agent where
  | host | firmware | aom
deriving DecidableEq, Repr

/-- A BAR0 access: a write of up to 8 bytes with byte enables from its 8-byte-aligned address (R13), or a read of 4 or 8
bytes. `sets` are the bits of the two registers that hardware sets in the cycle of the write (R4). -/
inductive RegAccess where
  | write (be : BitVec 8) (value sets : DWord)
  | read4
  | read8
deriving DecidableEq, Repr

/-- The announced data set of an IEEE 1588 master, compared field by field in this order, lower values better (R44). -/
structure Announce where
  priority1 : Nat
  clockClass : Nat
  accuracy : Nat
  variance : Nat
  priority2 : Nat
  identity : DWord
  stepsRemoved : Nat
  domain : Byte
  logSync : Int
  logAnnounce : Int
deriving DecidableEq, Repr

/-- A PTP message as it crosses the PCS at the DT of its command (R42 to R44). Times are nanoseconds; `correction` is
correctionField in whole nanoseconds. -/
inductive PtpMsg where
  | announce (a : Announce)
  | sync (seq : Half) (master : DWord) (twoStep : Bool) (origin : DWord) (correction : Int)
  | followUp (seq : Half) (master : DWord) (origin : DWord) (correction : Int)
  | delayResp (seq : Half) (master : DWord) (receive : DWord) (correction : Int)
  | pdelayReq (seq : Half)
  | pdelayResp (seq : Half) (twoStep : Bool) (receipt : DWord) (correction : Int)
  | pdelayRespFollowUp (seq : Half) (origin : DWord) (correction : Int)
deriving DecidableEq, Repr

/-- A PTP message that the device sends (R42): its sequence, with the stamp that belongs to it: the transmit stamp of a
Delay_Req or Pdelay_Req, the receive stamp a Pdelay_Resp returns, the transmit stamp of that response in its follow-up. -/
inductive PtpSent where
  | delayReq (seq : Half) (stamp : DWord)
  | pdelayReq (seq : Half) (stamp : DWord)
  | pdelayResp (seq : Half) (receipt : DWord)
  | pdelayRespFollowUp (seq : Half) (origin : DWord)
deriving DecidableEq, Repr

/-- The modes of `DT_STEP_CTRL` that arm or commit a step (R53). -/
inductive StepMode where
  | relative | absolute | source
deriving DecidableEq, Repr

/-- The operations of the semaphore memory (R78). -/
inductive SemKind where
  | add | sub | wait | waitsub | set
deriving DecidableEq, Repr

/-- An operation that a requester presents to a bank (R80). -/
structure SemReq where
  req : Fin 14
  kind : SemKind
  idx : BitVec 12
  n : Word
deriving DecidableEq, Repr

/-- A field write of `SEM_SHADOWk_CFG` of one slot, or of `SEM_SHADOW_CTRL` (R93). -/
inductive ShadowCfg where
  | slot (k : Fin 64)
  | ctrl
deriving DecidableEq, Repr

/-- A stream that can be lost: a frame slot or an inertial slot (R122). -/
inductive Stream where
  | frame (n : Fin 16)
  | inertial (i : Fin 4)
deriving DecidableEq, Repr

/-- The two calibration engines: SDE pair tables and PJE slot tables (R203). -/
inductive CalUnit where
  | sde (p : Fin 4)
  | pje (n : Fin 16)
deriving DecidableEq, Repr

/-- The vision engines (R150, R182). -/
inductive VisionUnit where
  | fdd (e : Fin 2)
  | tme (e : Fin 2)
  | sde
  | pje
deriving DecidableEq, Repr

/-- The units that run jobs of frame graphs (R218). -/
inductive UnitId where
  | vision (u : VisionUnit)
  | tiles
  | copyGroup (g : Fin 2)
  | tfu
  | lse
  | prs
  | mst
deriving DecidableEq, Repr

/-- Where a tile pass finds or puts a matrix: the job's input or output region, its state slots, or the local memory of a
logical tile. -/
inductive TileRef where
  | input
  | output
  | slots
  | local (tile : Nat)
deriving DecidableEq, Repr

/-- One 32 × 32 pass of a tile program (R229): the logical tile, the mode, K, the zero point, where the activations (`aOff`,
row pitch `aPitch`), the weights (`wOff` in the tile's local memory, pitch `wPitch` between values of k, or between pairs of
k in mode 1) and the 32 channel records (`chOff`) lie, where the outputs go, the banks of the non-linear unit loaded before
it (bank, offset of the 1 KiB table in local memory), and the monitored channel of each column, if any. -/
structure TilePass where
  tile : Nat
  mode : Nat
  k : Nat
  zpA : Int
  a : TileRef
  aOff : Nat
  aPitch : Nat
  wOff : Nat
  wPitch : Nat
  chOff : Nat
  dst : TileRef
  dOff : Nat
  dPitch : Nat
  nl : List (Nat × Nat)
  mon : List (Option Nat)
deriving DecidableEq, Repr

/-- A tile program of a package: its logical tiles, its region sizes, its greatest number of state slots (0 where it uses
none), the place of its slots, its monitored channels, its saturation budget and its passes in order. -/
structure TileProg where
  tiles : List Nat
  inSize : Nat
  outSize : Nat
  maxSlots : Nat
  slotBase : Nat
  monitored : Nat
  satBudget : Nat
  passes : List TilePass
deriving DecidableEq, Repr

/-- What a fault has added to an accumulator of a tile's array since the last comparison (R246): cell (row, col), where column 32
is the checksum column and row 32 the checksum row. -/
structure AccErr where
  row : Fin 33
  col : Fin 33
  delta : Int
deriving DecidableEq, Repr

/-- How a PCIe reset comes about (R472, R552, R554). -/
inductive PcieReset where
  | perst | linkDown | functionLevel
deriving DecidableEq, Repr

/-- An engine whose fault ends its job and restarts it (R480). -/
inductive Engine where
  | vision (u : VisionUnit)
  | lse
  | schuss (n : Fin 8)
deriving DecidableEq, Repr

/-- A BAR4 access to the debug window (R445). -/
inductive Bar4Access where
  | read (n : Nat)
  | write (bytes : List Byte)
deriving DecidableEq, Repr

/-- An auxiliary element of the ego filter: the exponent of its unit and its noise density per second in Q8.24 of that unit
squared (R287). -/
structure AuxDecl where
  unit : Int
  dens : Int
deriving DecidableEq, Repr

/-- A supernode of a schedule: its variables in order, the variables with rows below its diagonal block, the exponents of
its groups A, P, L, G, Y and X, and PMIN (R337, R352). -/
structure SuperNode where
  vars : List Nat
  below : List Nat
  exps : List Int
  pmin : Int
deriving DecidableEq, Repr

/-- A schedule (R331 to R349): class, V, F and structure hash of its pattern, the supernodes in order of elimination, e_C,
DFLOOR, the damping values, and the exponents of the evaluated residuals by factor type and Jacobian elements by factor type
and slot (R344). -/
structure Schedule where
  cls : Nat
  v : Nat
  f : Nat
  hash : DWord
  nodes : List SuperNode
  expC : Int
  dfloor : Int
  lamInit : Int
  down : Int
  up : Int
  lamMin : Int
  lamMax : Int
  resExp : List Int
  jacExp : List (List Int)
deriving DecidableEq, Repr


/-- How a codeword of a flash page is decoded (R405): at which stage, with how many bits corrected, or not at all. -/
inductive CwRead where
  | hard (bits : Nat)
  | retry (bits : Nat)
  | soft (bits : Nat)
  | uncorrectable
deriving DecidableEq, Repr


/-- What a latent-fault injection can find broken: the checker of a tile, of a control pair, of a TFU lane, of the filter
chain, of the pose and event writers, of other fabric control logic, or of an engine (R481). -/
inductive CheckedUnit where
  | tile (t : Fin 68)
  | activePair
  | standbyPair
  | tfuLane (b : Bool)
  | ifc
  | writers
  | fabricLogic
  | engine (e : Engine)
deriving DecidableEq, Repr

/-- A schedule slot of a package: its index, its schedule where it carries one, the declarations a build keeps, whether the
builder may fill it and how far (R331, R333). -/
structure SchedDecl where
  index : Nat
  sched : Option Schedule
  decl : Schedule
  buildable : Bool
  maxPoses : Nat
  maxFactors : Nat
deriving DecidableEq, Repr

/-- Data placed at load: the address, the bytes, and where in them device addresses stand. -/
structure PkgDatum where
  addr : Nat
  bytes : List Byte
  fixups : List Nat
deriving DecidableEq, Repr

/-- What a package body holds (R256 to R269, R210, R331, R365): demand per tier in quota units, neighbour slots, the logical
tiles it names, graph images (header and gate entries), copy plans, tile programs, schedules, solve slots, auxiliary
declarations of the ego filter, and the data placed at load. Its addresses are those that firmware has still to relocate
(R256, R262): a tier's own base plus the place in the window; range l of the tile-local space for logical tile l, range 64 + s
for neighbour slot s (DESIGN CHOICE, log entry 23). -/
structure Package where
  tile : Nat
  slab : Nat
  lse : Nat
  gdr : Nat
  nbr : Nat
  tiles : List Nat
  graphs : List (List Byte)
  plans : List (Nat × List (List Byte))
  progs : List (Nat × TileProg)
  scheds : List SchedDecl
  solves : List (Nat × List Byte)
  aux : List AuxDecl
  data : List PkgDatum
deriving DecidableEq, Repr


/-- A command: one row of the table of operations and events. -/
inductive Instr where
  -- GLB, captures, PTP and the servo
  | registerWrite (who : Agent) (addr : BitVec 24) (acc : RegAccess)
  | glbEpochLoRead
  | dtNowLoRead
  | dtOffsetLoRead
  | dtPpsStampLoRead
  | sgFireLoRead (n : Fin 512)
  | sgTrigStampLoRead (p : Fin 16)
  | ingIsStampLoRead (i : Fin 4)
  | detPowerLoRead (k : Fin 32)
  | lseSchedHashLoRead
  | gdrErrAddrLoRead
  | mstPinLoRead (i : Fin 3)
  | ptpMessageRx (port : Fin 2) (layer2 : Bool) (msg : PtpMsg)
  | servoOffset
  | ppsEdge (rising : Bool)
  | servoLossTimeout
  | announceTimeout
  | dtCtrlWrite (v : Word)
  | dtPtpCfgWrite (v : Word)
  | stepArm (mode : StepMode)
  | stepCommit (mode : StepMode)
  | stepCancel (key : Byte)
  | dtStepValueWrite (hi : Bool) (v : Word)
  | stepArmLapse
  | timeStepped
  -- start gates and trigger pins
  | gateArm (who : Agent) (n : Fin 512) (ctrl : Word)
  | gateDisarm (who : Agent) (n : Fin 512) (ctrl : Word) (sameCycle : Bool)
  | gateEntryWrite (who : Agent) (n : Fin 512) (reg : Fin 5) (v : Word)
  | sgRun (v : Word)
  | gateDue (n : Fin 512)
  | gateDispatch (n : Fin 512)
  | trigPulseEnd (p : Fin 16)
  | trigInputEdge (p : Fin 16) (rising : Bool)
  -- semaphores; `rivals` are the operations that other requesters present to the same bank in the same cycle
  | semAdd (req : Fin 14) (idx : BitVec 12) (n : Word) (rivals : List SemReq)
  | semSub (req : Fin 14) (idx : BitVec 12) (n : Word) (rivals : List SemReq)
  | semWait (req : Fin 14) (idx : BitVec 12) (n : Word) (rivals : List SemReq)
  | semWaitsub (req : Fin 14) (idx : BitVec 12) (n : Word) (rivals : List SemReq)
  | semSet (req : Fin 14) (idx : BitVec 12) (v : Word) (rivals : List SemReq)
  | semPoll (waiter : Nat) (rivals : List SemReq)
  | semHostAdd (idx : BitVec 12)
  | semHostSub (idx : BitVec 12)
  | semHostSet (idx : BitVec 12)
  | semWindowWrite (off : BitVec 12) (v : Word)
  | semShadowCfgWrite (reg : ShadowCfg) (v : Word)
  | semShadowWrite (k : Fin 64)
  -- event controller
  | evcClaim (t : Fin 3) (sameCycle : Bool)
  | evcComplete (t : Fin 3) (id : BitVec 10)
  | evcPendSet (who : Agent) (k : Fin 16) (mask : Word)
  | evcPendClr (who : Agent) (k : Fin 16) (mask : Word)
  | wakeEdge (src : BitVec 9)
  | wakeLatchTake
  -- sensor ingress
  | csiFrameStart (p : Fin 4) (vc : Fin 4) (hdr : Fin 3)
  | csiLineStart (p : Fin 4) (vc : Fin 4) (hdr : Fin 3) (isEnd : Bool)
  | csiLine (p : Fin 4) (vc : Fin 4) (dtype : BitVec 6) (hdr : Fin 3) (crcOk : Bool) (payload : List Byte)
  | csiEmbeddedData (p : Fin 4) (vc : Fin 4) (hdr : Fin 3) (crcOk : Bool) (payload : List Byte)
  | csiFrameEnd (p : Fin 4) (vc : Fin 4) (hdr : Fin 3)
  | pairWaitExpire (p : Fin 4) (right : Bool)
  | ethFrameRx (e : Fin 2) (frame : List Byte)
  | imuDataReady (i : Fin 4) (high : Bool)
  | imuTransactionEnd (i : Fin 4) (data : List Byte)
  | streamLost (st : Stream)
  | ingConfigWrite (addr : BitVec 24) (v : Word)
  | ingCtrlWrite (v : Word)
  -- inertial filter chain
  | ifcOutputRecord (i : Fin 4)
  | ifcChannelSwitch (i : Fin 4) (c : Fin 8) (v : Word)
  | ifcConfigWrite (addr : BitVec 24) (v : Word)
  | ifcDetCfgWrite (k : Fin 32) (reg : Fin 3) (v : Word)
  | ifcCtrlWrite (v : Word)
  -- vision engines
  | fddPairWrite (e : Fin 2) (i : BitVec 8) (v : Word)
  | detect (e : Fin 2)
  | track (e : Fin 2)
  | seed (e : Fin 2)
  | matchSets (e : Fin 2)
  | depth
  | project
  | visionJobEnd (u : VisionUnit)
  | calArm (u : CalUnit)
  | calCheckEnd (u : CalUnit)
  | calDisarm (u : CalUnit)
  | calSwap
  -- frame graphs
  | gateEvaluate (run : Nat) (rivals : List Nat)
  | gateHoldExpire (run : Nat)
  | unitJobStart (u : UnitId)
  | gateEnd (run : Nat) (gate : Nat)
  | fgsAbort (v : Word)
  -- tensor tiles
  | tileRun
  | tilePassCheck (job : Nat) (tile : Fin 68) (errs : List AccErr) (residue : Bool)
  | tileJobEnd (job : Nat)
  | tileTakeover (tile : Fin 68)
  | tileTakeoverComplete (tile : Fin 68)
  -- memory tiers
  | fenceRelease (tile : Fin 68)
  | restore (grant : Nat)
  | copyJobStart (g : Fin 2)
  | copy (e : Fin 16)
  | fill (e : Fin 16)
  | plan (e : Fin 16)
  | copyJobEnd (e : Fin 16)
  | gdrRetrain (ch : Fin 16) (ok : Bool)
  | gdrScrubRead
  -- fusion
  | tfuPredict
  | tfuTimerPredict
  | update
  | tfuReset
  | motion
  | report
  | tfuAidTimeout
  | tfuEgoCfgWrite (v : Word)
  -- solver
  | solve
  | solveAccept
  | solveIterationEnd
  | solveDeadlineMiss
  | preint
  | build
  | buildEnd
  -- place recognition
  | query
  | prsCoarseEnd
  | prsPageScan (su : Fin 8)
  | prsQueryEnd
  | insert
  | prsDelete
  | filterSetAll
  | filterClearAll
  | filterSetRange
  | filterClearRange
  | define
  -- map store
  | put
  | mstDelete
  | commit
  | commitDurable
  | readWindow
  | readGraph
  | get
  | getBbx
  | pin
  | unpin
  | flashPageRead (ch : Fin 8) (seq : Nat) (cws : List CwRead)
  | flashProgramFail (ch : Fin 8) (erase : Bool) (block : Nat)
  | flashChannelLost (ch : Fin 8)
  | groomTask
  | mapMount
  | mstFormat (v : Word)
  | pwrFail
  -- host rings
  | sqTailDoorbell (k : Fin 64) (v : Word)
  | cqHeadDoorbell (k : Fin 64) (v : Word)
  | descriptorFetch (k : Fin 64) (ok : Bool) (rivals : List (Fin 64))
  | descriptorDispatch (k : Fin 64) (rivals : List (Fin 64))
  | descriptorDeadline (k : Fin 64)
  | descriptorComplete (d : Nat)
  | completionHoldRelease (k : Fin 64)
  | cqCoalesceTimer (k : Fin 64)
  | nop (d : Nat)
  | configPtpAsym (d : Nat)
  | configPtpAnnTmo (d : Nat)
  | load (d : Nat) (p : Package)
  | unload (d : Nat)
  | launch (d : Nat)
  | abort (d : Nat)
  | arm (d : Nat)
  | disarm (d : Nat) (sameCycle : Bool)
  | descCopy (d : Nat)
  | descSolve (d : Nat)
  | descPrs (d : Nat)
  | descMst (d : Nat)
  | sqConfigWrite (k : Fin 64) (v : Word)
  | cqConfigWrite (k : Fin 64) (v : Word)
  | poseRingConfigWrite (v : Word)
  | evtRingConfigWrite (v : Word)
  | msixUnmask (vec : Fin 128)
  | bar4Access (off : Nat) (acc : Bar4Access)
  | pcieReset (kind : PcieReset)
  | perstRelease
  -- faults
  | controlPairFault
  | watchdogExpire
  | switchoverComplete (mirrorOk : Bool)
  | standbySelftestEnd (pass : Bool)
  | standbyFault
  | tfuLaneMismatch (again : Bool)
  | tfuKatEnd (laneA laneB : Bool)
  | ifcMismatch (again : Bool)
  | hifWriterMismatch (again : Bool)
  | fabricLogicMismatch
  | engineFault (e : Engine)
  | engineSelftestEnd (e : Engine) (pass : Bool)
  | clockFault
  | railFault
  | periodicTest (fault : Option (Fin 2))
  | checkerTest (unit : CheckedUnit) (pass : Bool)
  | rotationStep (p : Fin 4)
  | rotationWaitTimeout (p : Fin 4)
  | rotationSelftestEnd (p : Fin 4) (pass : Bool)
  | bbxRecordWritten
  -- power and thermal
  | requestRun
  | requestGlide
  | requestHold
  | pstateChangeComplete
  | holdWake
  | holdWakeTimer
  | pwrParkWrite (v : Word)
  | powerSample (mw : Nat)
  | governorLimit
  | governorTick
  | thermalSample (tj : List Int) (aon : Int)
  | thermalStep (tenMs : Bool)
  -- security
  | secLockWrite (v : Word)
  | svnCommitFw (v : Word)
  | svnCommitVr (v : Word)
  -- Acser port
  | health (seq : Byte) (payload : List Byte) (crcOk : Bool)
  | bbxRead (seq : Byte) (payload : List Byte) (crcOk : Bool)
  | coreReset (seq : Byte) (payload : List Byte) (crcOk : Bool)
  | coreResetRelease (cpa cpb : Bool)
  | acserPower (seq : Byte) (payload : List Byte) (crcOk : Bool)
  | attest (seq : Byte) (payload : List Byte) (crcOk : Bool)
  | recoverBegin (seq : Byte) (payload : List Byte) (crcOk : Bool)
  | recoverData (seq : Byte) (payload : List Byte) (crcOk : Bool)
  | recoverEnd (seq : Byte) (payload : List Byte) (crcOk : Bool)
  | time (seq : Byte) (payload : List Byte) (crcOk : Bool)
  | acserSemSet (seq : Byte) (payload : List Byte) (crcOk : Bool)
  | challenge (seq : Byte) (payload : List Byte) (crcOk : Bool)
  | auth (seq : Byte) (payload : List Byte) (crcOk : Bool)
  | owner (seq : Byte) (payload : List Byte) (crcOk : Bool)
  | acserResponseRead (full : Bool)
  | acserSessionTimeout
  -- start-up
  | powerOnReset (rise : Bool)
  | pwrGoodCoreRise (cpa cpb : Bool)
  | pwrGoodTimeout
  | firmwareStart (badTiles : List Nat)
  | gddr6TrainingEnd (failed : Option (Fin 16))
  | startupReady
  | recoverWindowTimeout
  | pwrFailNRise
  | stripeProgrammed
  | linkUp (speed : Nat) (width : Nat)
  | ptpStatus
  | delayReq
  | avsTargetReached
  | schedulingBoundary
  | crystalStable (inWindow : Bool) (idFail : Option Nat)
deriving DecidableEq, Repr

end Sys2Proof
end

