-- ==== Sys2Proof/Decode.lean ====
section
/-! DEFINITION. The command that a word of the table of operations and events spells. The table gives no row any bits: a
command is something that happens at a port, a pin, an engine or a timer of the part, and none has an encoding. -/

namespace Sys2Proof

/-- No word spells a command. -/
def decodeTableWord (_nbits _w : Nat) : Option Instr := none

end Sys2Proof
end

