-- ==== Sys2Proof/Machine/Bits.lean ====
section
/-! DEFINITION. Bit fields, byte order, saturation, rounding, checksums: the small arithmetic every chapter shares
(R7, R10, R573). -/

namespace Sys2Proof.Machine

/-- Field [hi:lo] of a 32-bit word, as a number (the manual writes fields `[msb:lsb]`). -/
def fld (w : Word) (hi lo : Nat) : Nat := w.toNat / 2 ^ lo % 2 ^ (hi + 1 - lo)

/-- Bit `i` of a word. -/
def bit (w : Word) (i : Nat) : Bool := w.getLsbD i

/-- The word with field [hi:lo] replaced by the low bits of `v`. -/
def setFld (w : Word) (hi lo v : Nat) : Word :=
  let m : Word := BitVec.ofNat 32 ((2 ^ (hi + 1 - lo) - 1) * 2 ^ lo)
  (w &&& ~~~m) ||| (BitVec.ofNat 32 (v % 2 ^ (hi + 1 - lo) * 2 ^ lo))

/-- The word with bit `i` set to `b`. -/
def setBit (w : Word) (i : Nat) (b : Bool) : Word := setFld w i i b.toNat

/-- The word with only bit `i` set. -/
def bitW (i : Nat) : Word := BitVec.ofNat 32 (2 ^ i)

/-- A 64-bit value's lower and upper 32-bit halves. -/
def lo32 (v : DWord) : Word := v.setWidth 32
/-- The upper half. -/
def hi32 (v : DWord) : Word := (v >>> 32).setWidth 32
/-- A 64-bit value from its halves. -/
def join64 (hi lo : Word) : DWord := (hi ++ lo : BitVec 64)

/-- Counting with saturation at 0xFFFF_FFFF (the counters the manual says saturate). -/
def incSat (w : Word) : Word := if w = 0xFFFFFFFF then w else w + 1

/-- Adding `n` with saturation at 0xFFFF_FFFF. -/
def addSat (w : Word) (n : Nat) : Word := BitVec.ofNat 32 (min (w.toNat + n) 0xFFFFFFFF)

/-- Saturation of an exact integer to a signed field of `n` bits. -/
def satS (n : Nat) (x : Int) : Int := max (-(2 ^ (n - 1))) (min x (2 ^ (n - 1) - 1))

/-- Saturation of an exact integer to an unsigned field of `n` bits. -/
def satU (n : Nat) (x : Int) : Nat := (max 0 (min x (2 ^ n - 1))).toNat

/-- Whether an exact integer lies outside a signed field of `n` bits. -/
def ovfS (n : Nat) (x : Int) : Bool := decide (satS n x ≠ x)

/-- R10, RNE: `n` low bits discarded, to the nearest value, a tie to the even value. -/
def rne (x : Int) (n : Nat) : Int :=
  let q := x / 2 ^ n
  let r := x % 2 ^ n
  if n = 0 then x
  else if 2 * r < 2 ^ n then q
  else if 2 * r > 2 ^ n then q + 1
  else if q % 2 = 0 then q else q + 1

/-- R10, RHA: `n` low bits discarded, to the nearest value, a tie away from zero. -/
def rha (x : Int) (n : Nat) : Int :=
  if n = 0 then x
  else if 0 ≤ x then (x + 2 ^ (n - 1)) / 2 ^ n else -((-x + 2 ^ (n - 1)) / 2 ^ n)

/-- R10, SR: the 16-bit draw `l` added at the 16 most significant discarded bits, then truncated towards minus infinity. -/
def srRound (x : Int) (n : Nat) (l : Nat) : Int :=
  if n = 0 then x
  else if 16 ≤ n then (x + l * 2 ^ (n - 16)) / 2 ^ n
  else (x * 2 ^ (16 - n) + l) / 2 ^ 16

/-- Division of exact integers rounded to the nearest, a tie to the even quotient (the denominator is positive). -/
def divRne (a : Int) (b : Nat) : Int :=
  if b = 0 then 0 else
  let q := a / b
  let r := a % b
  if 2 * r < b then q else if 2 * r > b then q + 1 else if q % 2 = 0 then q else q + 1

/-- Division of exact integers rounded to the nearest, a tie away from zero. -/
def divRha (a : Int) (b : Nat) : Int :=
  if b = 0 then 0 else
  if 0 ≤ a then (2 * a + b) / (2 * b) else -((2 * (-a) + b) / (2 * b))

/-- The `n` bytes of a value, least significant first (R573). -/
def leBytes : Nat → Nat → List Byte
  | 0, _ => []
  | n + 1, v => BitVec.ofNat 8 v :: leBytes n (v / 256)

/-- The `n` bytes of an exact integer in two's complement, least significant first. -/
def leBytesI (n : Nat) (v : Int) : List Byte := leBytes n (v % 2 ^ (8 * n)).toNat

/-- The value of bytes stored least significant first. -/
def leVal : List Byte → Nat
  | [] => 0
  | b :: t => b.toNat + 256 * leVal t

/-- The value of bytes stored most significant first. -/
def beVal (l : List Byte) : Nat := leVal l.reverse

/-- A number of `n` bits read as two's complement. -/
def sext (n : Nat) (v : Nat) : Int :=
  let w := v % 2 ^ n
  if w < 2 ^ (n - 1) then w else (w : Int) - 2 ^ n

/-- Field [hi:lo] of a natural number. -/
def bitsOf (v hi lo : Nat) : Nat := v / 2 ^ lo % 2 ^ (hi + 1 - lo)

/-- A slice of a byte list. -/
def slice {α : Type} (l : List α) (off n : Nat) : List α := (l.drop off).take n

/-- A little-endian field of a record given as bytes; bytes past the end read 0. -/
def rec8 (l : List Byte) (off n : Nat) : Nat := leVal (slice l off n)

/-- A signed little-endian field of a record of `n` bytes. -/
def recS (l : List Byte) (off n : Nat) : Int := sext (8 * n) (rec8 l off n)

/-- A byte list padded with zeros or cut to length `n`. -/
def padTo (n : Nat) (l : List Byte) : List Byte := l.take n ++ List.replicate (n - l.length) 0

/-- One bit step of a reflected CRC of the given polynomial. -/
def crcBit (poly : Nat) (c : Nat) : Nat := if c % 2 = 1 then Nat.xor (c / 2) poly else c / 2

/-- Eight bit steps. -/
def crcByte (poly c : Nat) (b : Byte) : Nat :=
  (List.range 8).foldl (fun c _ => crcBit poly c) (Nat.xor c b.toNat)

/-- CRC-32C (Castagnoli): reflected polynomial, initial value and final inversion of all ones. -/
def crc32c (l : List Byte) : Nat :=
  Nat.xor (l.foldl (crcByte 0x82F63B78) 0xFFFFFFFF) 0xFFFFFFFF

/-- Ceiling of a quotient. -/
def ceilDiv (a b : Nat) : Nat := if b = 0 then 0 else (a + b - 1) / b

/-- Integer square root by bisection over `n` result bits. -/
def isqrtGo : Nat → Nat → Nat → Nat
  | 0, _, r => r
  | n + 1, v, r => if (r + 2 ^ n) * (r + 2 ^ n) ≤ v then isqrtGo n v (r + 2 ^ n) else isqrtGo n v r

/-- Integer square root (floor) of a value below 2^128. -/
def isqrt (v : Nat) : Nat := isqrtGo 64 v 0

/-- Population count of the low `n` bits. -/
def popcount : Nat → Nat → Nat
  | 0, _ => 0
  | n + 1, v => v % 2 + popcount n (v / 2)

/-- The list updated at one position (unchanged past its end). -/
def listSet {α : Type} (l : List α) (i : Nat) (v : α) : List α := l.set i v

/-- The element at a position, or a default past the end. -/
def listGet {α : Type} (d : α) (l : List α) (i : Nat) : α := l.getD i d

end Sys2Proof.Machine
end

