-- ==== Sys2Proof/Machine/Crypto.lean ====
section
/-! DEFINITION. SHA-384 and the verification of an ECDSA P-384 signature, which the spec names for images, records and the
Acser port (R522 to R530, R538). Multi-byte integers of a hash and a signature are big-endian. -/

namespace Sys2Proof.Machine

/-! ### SHA-384

The standard the spec names by SHA-384 takes its constants from the primes: a constant is the first 64 bits of the fractional
part of a root, so it is computed here and not listed. -/

/-- The first eighty primes. -/
def shaPrimes : List Nat := (List.range 410).filter fun p => decide (2 ≤ p) && (List.range' 2 19).all fun d => decide (p ≤ d) || p % d != 0

/-- The bits of the largest `x` below `2 ^ n` with `x ^ e` at most `v`, from the highest down, added to `x`. -/
def rootFrom (e v : Nat) : Nat → Nat → Nat
  | 0, x => x
  | n + 1, x => rootFrom e v n (if (x + 2 ^ n) ^ e ≤ v then x + 2 ^ n else x)

/-- The first 64 bits of the fractional part of the `e`-th root of a number below 512. -/
def rootFraction (e p : Nat) : DWord := BitVec.ofNat 64 (rootFrom e (p * 2 ^ (64 * e)) 69 0)

/-- The constants of the eighty rounds: cube roots of the first eighty primes. -/
def shaK : List DWord := shaPrimes.map (rootFraction 3)

/-- The initial hash value of SHA-384: square roots of the ninth to the sixteenth prime. -/
def shaInit : List DWord := ((shaPrimes.drop 8).take 8).map (rootFraction 2)

/-- The sum without carry of a word's rotations to the right. -/
def rotations (l : List Nat) (x : DWord) : DWord := l.foldl (fun v n => v ^^^ x.rotateRight n) 0

/-- The word that enters the window of sixteen, newest first, when the oldest has been used. -/
def shaNext (w : List DWord) : DWord :=
  let x := w.getD 1 0
  let y := w.getD 14 0
  w.getD 15 0 + w.getD 6 0 + (rotations [19, 61] x ^^^ x >>> 6) + (rotations [1, 8] y ^^^ y >>> 7)

/-- The rounds of a block. A round makes one new word of each half of the working state; a half keeps its last four words,
newest first. -/
def shaRounds : List DWord → List DWord → List DWord → List DWord → List DWord
  | [], _, p, q => p ++ q
  | k :: ks, w, p, q =>
    let q0 := q.getD 0 0
    let p0 := p.getD 0 0
    let pick := q.getD 2 0 ^^^ (q0 &&& (q.getD 1 0 ^^^ q.getD 2 0))
    let most := (p0 &&& p.getD 1 0) ||| (p.getD 2 0 &&& (p0 ||| p.getD 1 0))
    let t := k + w.getD 15 0 + q.getD 3 0 + pick + rotations [14, 18, 41] q0
    shaRounds ks (shaNext w :: w.take 15) ((t + most + rotations [28, 34, 39] p0) :: p.take 3) ((p.getD 3 0 + t) :: q.take 3)

/-- A number as `n` big-endian bytes. -/
def beBytes (n v : Nat) : List Byte := (leBytes n v).reverse

/-- A block of 128 bytes: its rounds run from the hash value, and their result is added to it word by word. -/
def shaBlock (h : List DWord) (b : List Byte) : List DWord :=
  let w := (List.range 16).map fun k => BitVec.ofNat 64 (beVal (slice b (120 - 8 * k) 8))
  List.zipWith (fun x y => x + y) h (shaRounds shaK w (h.take 4) (h.drop 4))

/-- The hash value after `n` blocks. -/
def shaBlocks : Nat → List Byte → List DWord → List DWord
  | 0, _, h => h
  | n + 1, l, h => shaBlocks n (l.drop 128) (shaBlock h (l.take 128))

/-- The message padded: a 1 bit, zeros, its length in bits as 16 bytes. -/
def shaPad (l : List Byte) : List Byte :=
  l ++ [0x80] ++ List.replicate ((239 - l.length % 128) % 128) 0 ++ beBytes 16 (8 * l.length)

/-- SHA-384: the first six words of the hash value after the last block. -/
def sha384 (l : List Byte) : List Byte :=
  (((shaBlocks ((shaPad l).length / 128) (shaPad l) shaInit).take 6).map fun w => beBytes 8 w.toNat).flatten

/-! ### P-384 -/

/-- The field prime, the order of the base point, the coefficient b, and the base point of P-384. -/
def p384 : Nat := 2 ^ 384 - 2 ^ 128 - 2 ^ 96 + 2 ^ 32 - 1
def n384 : Nat := 0xffffffffffffffffffffffffffffffffffffffffffffffffc7634d81f4372ddf581a0db248b0a77aecec196accc52973
def b384 : Nat := 0xb3312fa7e23ee7e4988e056be3f82d19181d9c6efe8141120314088f5013875ac656398d8a2ed19d2a85c8edd3ec2aef
def gx384 : Nat := 0xaa87ca22be8b05378eb1c71ef320ad746e1d3b628ba79b9859f741e082542a385502f25dbf55296c3a545e3872760ab7
def gy384 : Nat := 0x3617de4a96262c6f5d9e98bf9292dc29f8f41dbd289a147ce9da3113b5f0b8c00a60b1ce1d7e819d7a431d7c90ea0e5f

/-- `x` to the power whose bits, least significant first, are the `n` bits of `e`. -/
def powMod (m : Nat) : Nat → Nat → Nat → Nat
  | 0, _, _ => 1 % m
  | n + 1, x, e =>
    let r := powMod m n (x * x % m) (e / 2)
    if e % 2 = 1 then x * r % m else r

/-- The inverse modulo a prime of 384 bits. -/
def invMod (m x : Nat) : Nat := powMod m 384 (x % m) (m - 2)

/-- A point in Jacobian coordinates: (X, Y, Z) stands for (X / Z², Y / Z³), Z = 0 for the point at infinity. -/
abbrev Point := Nat × Nat × Nat

/-- Difference modulo the field prime of values below it. -/
def subP (x y : Nat) : Nat := (x + p384 - y) % p384

/-- A point doubled. -/
def dblPt (p : Point) : Point :=
  match p with
  | (x, y, z) =>
    let d := z * z % p384
    let g := y * y % p384
    let b := 4 * x * g % p384
    let a := 3 * subP x d * (x + d) % p384
    let x3 := subP (a * a % p384) (2 * b % p384)
    (x3, subP (a * subP b x3 % p384) (8 * g * g % p384), 2 * y * z % p384)

/-- Point addition. -/
def addPt (p q : Point) : Point :=
  match p, q with
  | (x1, y1, z1), (x2, y2, z2) =>
    if z1 = 0 then (x2, y2, z2)
    else if z2 = 0 then (x1, y1, z1)
    else
      let u1 := x1 * z2 * z2 % p384
      let u2 := x2 * z1 * z1 % p384
      let s1 := y1 * z2 * z2 * z2 % p384
      let s2 := y2 * z1 * z1 * z1 % p384
      if u1 = u2 then (if s1 = s2 then dblPt (x1, y1, z1) else (1, 1, 0))
      else
        let h := subP u2 u1
        let r := subP s2 s1
        let h2 := h * h % p384
        let h3 := h2 * h % p384
        let v := u1 * h2 % p384
        let x3 := subP (subP (r * r % p384) h3) (2 * v % p384)
        (x3, subP (r * subP v x3 % p384) (s1 * h3 % p384), z1 * z2 * h % p384)

/-- `k` times a point, over the `n` low bits of `k`. -/
def mulPt : Nat → Nat → Point → Point
  | 0, _, _ => (1, 1, 0)
  | n + 1, k, p =>
    let r := mulPt n (k / 2) (dblPt p)
    if k % 2 = 1 then addPt p r else r

/-- Whether (x, y) lies on the curve y² = x³ − 3x + b. -/
def onCurve (x y : Nat) : Bool :=
  decide (x < p384) && decide (y < p384) && decide (y * y % p384 = (x * x * x + (p384 - 3) * x + b384) % p384)

/-- Whether `sig` = r ‖ s is a signature of a message by key x ‖ y (48 bytes each, big-endian) over its SHA-384. -/
def ecdsaVerify (key msg sig : List Byte) : Bool :=
  let x := beVal (slice key 0 48)
  let y := beVal (slice key 48 48)
  let r := beVal (slice sig 0 48)
  let s := beVal (slice sig 48 48)
  let w := invMod n384 s
  let u1 := beVal (sha384 msg) * w % n384
  let u2 := r * w % n384
  onCurve x y && decide (0 < r) && decide (r < n384) && decide (0 < s) && decide (s < n384) &&
    (match addPt (mulPt 384 u1 (gx384, gy384, 1)) (mulPt 384 u2 (x, y, 1)) with
     | (vx, _, vz) => decide (vz ≠ 0) && decide (vx * invMod p384 (vz * vz) % p384 % n384 = r))

end Sys2Proof.Machine
end

