-- ==== Sys2Proof/Config.lean ====
section
/-! DEFINITION. What the spec leaves open: opaque constants with no body, so that nothing can evaluate them and a claim holds
for whatever value they have. Each is named in a log entry. -/

namespace Sys2Proof.Config

/-- A fresh unconstrained number: applied to the state's counter of draws. -/
opaque freeNat : Nat → Nat

/-- A fresh unconstrained signed number. -/
opaque freeInt : Nat → Int

/-- An error that the environment brings upon memory at a clock edge, by number of draw: kind (1: an error within what the code
of a protected unit corrects; 2: one beyond it; 3: failing bursts on a link; else none), physical address or channel, count
(R255, R277, R279). -/
opaque upset : Nat → Nat × Nat × Nat

/-- Which always-on register stands at an offset of the AON mirror, where one does (R15 gives no map of the block). -/
opaque aonMirror : Nat → Option Nat

/-- Whether 2cos of the detector's bin frequency, derived to 2^−30, is the multiple of 2^−30 above its value and not the one
below (R144 gives the precision, and no rounding). -/
opaque detCosUp : Word → Bool

/-- The departure of the detector's power from its exact value, before the bound of R145 is applied: the block's sums of x cos ωn
and −x sin ωn, `DET_N`. -/
opaque detErr : Int → Int → Nat → Int

/-- The detector's phase in units of 2^−16 turn, before the bound of R145 is applied, from the same sums and `DET_N`. -/
opaque detPhase : Int → Int → Nat → Nat

/-- When the feature engine produces the candidates of a row of a level: the spec lets reduced levels run beside level 0 and
does not order them (R161, R166). -/
opaque candTime : Nat → Nat → Nat → Nat → Nat

/-- The step of a track window whose gradient matrix is singular (R170 gives no result there). -/
opaque singularStep : Int → Int → Int

/-- The departure of a projected coordinate from its exact value in 2^−16 px, before the bound of R197 is applied. -/
opaque projErr : Int → Int → Int → Int

/-- The value of an invalid working pixel where the cost of a path compares it (R188 gives none). -/
opaque invalidPixel : Nat → Nat → Nat

/-- Whether an invalid neighbour with two equally near valid pixels in its row takes the one on the left (R187). -/
opaque censusLeft : Nat → Nat → Bool

/-- A product or sum of the projection engine that does not fit its 64 bits (R196). -/
opaque projWide : Int → Int

/-- Sweep time and count in the header of a PROJECT job whose lidar slot never delivered a sweep: the spec states none
(R194); one value per pair of slots and field, as equal inputs give equal outputs (R151). -/
opaque neverSweep : Nat → Nat → Nat

/-- The width in bytes that a reserved width code of a packet or inertial field selects (R111, R113). -/
opaque reservedWidth : Nat

/-- Whether the sweep field of a packet has its most significant byte first (R112 names no byte order). -/
opaque sweepBig : Bool

/-- Whether an inexact point time offset is rounded up to the next 16 ns (R112 names no rounding). -/
opaque pointUp : Int → Bool

/-- The departure of an integrated field of the ego state from the strapdown formula: field number, exact value (R292 gives
neither the integration scheme nor a rounding). -/
opaque tfuDev : Nat → Int → Int

/-- The process noise of an inertial error-state element over a period in ns, as a Q8.24 covariance increment (R292 names no
densities). -/
opaque tfuNoise : Nat → Nat → Int

/-- The departure of an evaluated residual or Jacobian element from its exact value, before the bound of R344 is applied:
what it is, exact value. -/
opaque lseDev : Nat → Int → Int

/-- The relative departure of a square root or logarithm of a robust kernel, in 2^−100, before the bound of 2^−20 of R323. -/
opaque lseRel : Nat → Int → Int

/-- An evaluated element or correction that does not fit its 32-bit field at the exponent the package fixed (R344 states no
result). -/
opaque lseWide : Int → Int

/-- A bias row divided by the σ of a variance code of 0 or 0xFFFF (R320 states no result). -/
opaque lseNoSigma : Int → Int

/-- Where a package says so, the camera slot that a CAL solve refines, by context and schedule slot (16 or above: none), and the
table indices of its INTRIN, its camera EXTRIN and the lidar EXTRIN (R308 names the solve and not the variables). -/
opaque calrefSlot : Nat → Nat → Nat
opaque calrefVar : Nat → Nat → Nat → Nat

/-- The page of firmware's slab region that holds the refinement buffers of the camera slots (R308). -/
opaque calrefBuf : Nat

/-- Whether a PREINT field whose value under R324 lies between two counts of its format is stored as the upper one: the spec
gives no rounding. -/
opaque preUp : Nat → Int → Bool

/-- Approximate minimum degree (R333 names no algorithm): the rank of a variable of a pose graph with the given pairs of
neighbours, and whether a supernode starts at a place of the order. -/
opaque amdRank : List (Nat × Nat) → Nat → Nat
opaque nodeCut : List (Nat × Nat) → Nat → Bool

/-- The scale-group exponents and PMIN that a builder gives a supernode, by structure and supernode (R343 gives the bounds to
Glaroth; R333 names none). -/
opaque buildExp : List (Nat × Nat) → Nat → Nat → Int

/-- Byte `i` of the Palevehel firmware key, x ‖ y: the boot ROM holds its hash, the spec not its value (R523). -/
opaque fwKey : Nat → Byte

/-- Byte `i` of the device's identity public key, x ‖ y, which the PUF of the part fixes (R529). -/
opaque idKey : Nat → Byte

/-- Whether firmware has a logical tile that no package names parked when a load looks for tiles to lend, by number of draw
(R264 gives no rule for it). -/
opaque parks : Nat → Nat → Bool

/-- The VDD_CORE target in steps of 5 mV above 0.65 V for an ARRAY_CLK step (R566 gives no table). -/
opaque avsStep : Nat → Nat

end Sys2Proof.Config
end

