-- ==== Sys2Proof/Machine/RegMap.lean ====
section
/-! DEFINITION. The register map of BAR0 (R12, R16 and the block maps of every chapter): the byte offset of every register
by name, and, for each, its reset value and the bits each access code of R3 covers. Indices follow the spec's letters. -/

namespace Sys2Proof.Machine

/-- One row of a block map: a register or a regular array of registers in one or two indices. `outer` and `inner` are
(count, stride) pairs; the masks say which bits carry RW, RWL, W1C and write-acting (WO, W1S) codes (R3); bits in no
writable mask ignore writes (RO and reserved, R5). -/
structure RegRow where
  name : String
  base : Nat
  outer : Nat × Nat
  inner : Nat × Nat
  reset : Word
  rw : Word
  rwl : Word
  w1c : Word
  act : Word
deriving DecidableEq, Repr

/-- GLB_ID: part, stepping and grade (01_organisation.md, R16). -/
abbrev R.glbId : Nat := 0x0
/-- GLB_STRAP: strap values read at reset (01_organisation.md, R16). -/
abbrev R.glbStrap : Nat := 0x4
/-- GLB_CAP: resources found at start-up (01_organisation.md, R16). -/
abbrev R.glbCap : Nat := 0x8
/-- GLB_STATUS: global state (01_organisation.md, R16). -/
abbrev R.glbStatus : Nat := 0xc
/-- GLB_ERR: register-access errors (01_organisation.md, R16). -/
abbrev R.glbErr : Nat := 0x10
/-- GLB_ERR_ADDR: offset of the first access error (01_organisation.md, R16). -/
abbrev R.glbErrAddr : Nat := 0x14
/-- GLB_EPOCH_LO: last committed epoch, bits [31:0] (01_organisation.md, R16). -/
abbrev R.glbEpochLo : Nat := 0x18
/-- GLB_EPOCH_HI: last committed epoch, bits [63:32] (01_organisation.md, R16). -/
abbrev R.glbEpochHi : Nat := 0x1c
/-- GLB_TAKEOVER_CNT: takeovers since reset (01_organisation.md, R16). -/
abbrev R.glbTakeoverCnt : Nat := 0x20
/-- GLB_SCRATCH: free for host use (01_organisation.md, R16). -/
abbrev R.glbScratch : Nat := 0x24
/-- SG_GATEn_CTRL: arming, action, context, flags (02_device_time.md, R57); one per index 0 to 511. -/
abbrev R.sgGateCtrl (n : Nat) : Nat := 0x21000 + 0x20 * n
/-- SG_GATEn_FIRE_LO: next fire DT, bits [31:0] (02_device_time.md, R57); one per index 0 to 511. -/
abbrev R.sgGateFireLo (n : Nat) : Nat := 0x21004 + 0x20 * n
/-- SG_GATEn_FIRE_HI: next fire DT, bits [63:32] (02_device_time.md, R57); one per index 0 to 511. -/
abbrev R.sgGateFireHi (n : Nat) : Nat := 0x21008 + 0x20 * n
/-- SG_GATEn_PERIOD_NS: whole nanoseconds of the period (02_device_time.md, R57); one per index 0 to 511. -/
abbrev R.sgGatePeriodNs (n : Nat) : Nat := 0x2100c + 0x20 * n
/-- SG_GATEn_PT: [31:16] TARGET; [15:0] PERIOD_FRAC, UQ0.16 ns (02_device_time.md, R57); one per index 0 to 511. -/
abbrev R.sgGatePt (n : Nat) : Nat := 0x21010 + 0x20 * n
/-- SG_GATEn_ARG: argument of the action (02_device_time.md, R57); one per index 0 to 511. -/
abbrev R.sgGateArg (n : Nat) : Nat := 0x21014 + 0x20 * n
/-- SG_GATEn_SKIPS: periods skipped; saturates at 0xFFFF_FFFF (02_device_time.md, R57); one per index 0 to 511. -/
abbrev R.sgGateSkips (n : Nat) : Nat := 0x21018 + 0x20 * n
/-- SG_GATEn_FIRES: firings; wraps (02_device_time.md, R57); one per index 0 to 511. -/
abbrev R.sgGateFires (n : Nat) : Nat := 0x2101c + 0x20 * n
/-- DT_NOW_LO: DT [31:0]; a read captures (02_device_time.md, R73). -/
abbrev R.dtNowLo : Nat := 0x10000
/-- DT_NOW_HI: captured DT [63:32] (02_device_time.md, R73). -/
abbrev R.dtNowHi : Nat := 0x10004
/-- DT_NOW_FRAC: captured `frac` (02_device_time.md, R73). -/
abbrev R.dtNowFrac : Nat := 0x10008
/-- DT_RATE: trim applied, signed, parts per 2^32 (02_device_time.md, R73). -/
abbrev R.dtRate : Nat := 0x1000c
/-- DT_FREQ: frequency estimate, signed, parts per 2^32 (02_device_time.md, R73). -/
abbrev R.dtFreq : Nat := 0x10010
/-- DT_CTRL: source and servo set-up (02_device_time.md, R73). -/
abbrev R.dtCtrl : Nat := 0x10014
/-- DT_STATUS: servo state (02_device_time.md, R73). -/
abbrev R.dtStatus : Nat := 0x10018
/-- DT_EVENT: time events; each bit drives one EVC source (02_device_time.md, R73). -/
abbrev R.dtEvent : Nat := 0x1001c
/-- DT_JUMP_MAX: refusal threshold, ns (1,000,000) (02_device_time.md, R73). -/
abbrev R.dtJumpMax : Nat := 0x10020
/-- DT_LOCK_THR: lock threshold, ns (1,000) (02_device_time.md, R73). -/
abbrev R.dtLockThr : Nat := 0x10024
/-- DT_OFFSET_LO: last offset [31:0], signed 64-bit; a read captures (02_device_time.md, R73). -/
abbrev R.dtOffsetLo : Nat := 0x10028
/-- DT_OFFSET_HI: captured offset [63:32] (02_device_time.md, R73). -/
abbrev R.dtOffsetHi : Nat := 0x1002c
/-- DT_REFUSE_CNT: refused offsets since reset; saturates (02_device_time.md, R73). -/
abbrev R.dtRefuseCnt : Nat := 0x10030
/-- DT_STEP_LO: step value [31:0] (02_device_time.md, R73). -/
abbrev R.dtStepLo : Nat := 0x10034
/-- DT_STEP_HI: step value [63:32] (02_device_time.md, R73). -/
abbrev R.dtStepHi : Nat := 0x10038
/-- DT_STEP_CTRL: arm and commit (02_device_time.md, R73). -/
abbrev R.dtStepCtrl : Nat := 0x1003c
/-- DT_PPS_CFG: PPS input (02_device_time.md, R73). -/
abbrev R.dtPpsCfg : Nat := 0x10040
/-- DT_PPS_PHASE: expected edge phase, 0 to 999,999,999 ns (02_device_time.md, R73). -/
abbrev R.dtPpsPhase : Nat := 0x10044
/-- DT_PPS_SEC_LO: second count for the initial set [31:0] (02_device_time.md, R73). -/
abbrev R.dtPpsSecLo : Nat := 0x10048
/-- DT_PPS_SEC_HI: second count [63:32] (02_device_time.md, R73). -/
abbrev R.dtPpsSecHi : Nat := 0x1004c
/-- DT_PPS_STAMP_LO: last PPS stamp [31:0]; a read captures (02_device_time.md, R73). -/
abbrev R.dtPpsStampLo : Nat := 0x10050
/-- DT_PPS_STAMP_HI: captured stamp [63:32] (02_device_time.md, R73). -/
abbrev R.dtPpsStampHi : Nat := 0x10054
/-- DT_PTP_CFG: IEEE 1588 set-up (02_device_time.md, R73). -/
abbrev R.dtPtpCfg : Nat := 0x10058
/-- DT_PTP_LAT: [31:16] TX latency ns; [15:0] RX latency ns (02_device_time.md, R73). -/
abbrev R.dtPtpLat : Nat := 0x1005c
/-- SG_CTRL: [0] RUN: 1 lets gates fire; other bits reserved (02_device_time.md, R74). -/
abbrev R.sgCtrl : Nat := 0x20000
/-- SG_LATE_TOL: lateness tolerance, ns (100,000) (02_device_time.md, R74). -/
abbrev R.sgLateTol : Nat := 0x20004
/-- SG_ERR: gate errors (02_device_time.md, R74). -/
abbrev R.sgErr : Nat := 0x20008
/-- SG_ERR_GATE: gate index of the first error while `SG_ERR` was 0 (02_device_time.md, R74). -/
abbrev R.sgErrGate : Nat := 0x2000c
/-- SG_LATE_CNT: late firings; saturates (02_device_time.md, R74). -/
abbrev R.sgLateCnt : Nat := 0x20010
/-- SG_SKIP_CNT: skipped periods, all gates; saturates (02_device_time.md, R74). -/
abbrev R.sgSkipCnt : Nat := 0x20014
/-- SG_DELAY_CNT: delayed firings; saturates (02_device_time.md, R74). -/
abbrev R.sgDelayCnt : Nat := 0x20018
/-- SG_TRIG_OVL_CNT: overlapping pulses; saturates (02_device_time.md, R74). -/
abbrev R.sgTrigOvlCnt : Nat := 0x2001c
/-- SG_COMP_GRAPH: 24 ns (02_device_time.md, R74). -/
abbrev R.sgCompGraph : Nat := 0x20020
/-- SG_COMP_SEM: 20 ns (02_device_time.md, R74). -/
abbrev R.sgCompSem : Nat := 0x20024
/-- SG_COMP_TRIG: 16 ns (02_device_time.md, R74). -/
abbrev R.sgCompTrig : Nat := 0x20028
/-- SG_COMP_COPY: 28 ns (02_device_time.md, R74). -/
abbrev R.sgCompCopy : Nat := 0x2002c
/-- SG_COMP_SOLVE: 32 ns (02_device_time.md, R74). -/
abbrev R.sgCompSolve : Nat := 0x20030
/-- SG_TRIGn_CFG: set-up of TRIGn, n = 0 to 15 (02_device_time.md, R74); one per index 0 to 15. -/
abbrev R.sgTrigCfg (n : Nat) : Nat := 0x20040 + 0x4 * n
/-- SG_TRIGn_STAMP_LO: active edge stamp [31:0], input or output under R71; a read captures (02_device_time.md, R74); one per index 0 to 15. -/
abbrev R.sgTrigStampLo (n : Nat) : Nat := 0x20100 + 0x8 * n
/-- SG_TRIGn_STAMP_HI: captured stamp [63:32] (02_device_time.md, R74); one per index 0 to 15. -/
abbrev R.sgTrigStampHi (n : Nat) : Nat := 0x20104 + 0x8 * n
/-- SEM_STATUS: flags; OVF and UNF drive EVC sources (03_semaphores_and_events.md, R93). -/
abbrev R.semStatus : Nat := 0x30000
/-- SEM_ERR_IDX: [11:0] semaphore of the first flagged event while `SEM_STATUS` was 0, under R574 (03_semaphores_and_events.md, R93). -/
abbrev R.semErrIdx : Nat := 0x30004
/-- SEM_OVF_CNT: saturating ADDs; saturates (03_semaphores_and_events.md, R93). -/
abbrev R.semOvfCnt : Nat := 0x30008
/-- SEM_UNF_CNT: saturating SUBs; saturates (03_semaphores_and_events.md, R93). -/
abbrev R.semUnfCnt : Nat := 0x3000c
/-- SEM_POLL: [9:0] INTERVAL in FABRIC_CLK cycles, 8 to 1023; values below 8 are taken as 8 (03_semaphores_and_events.md, R93). -/
abbrev R.semPoll : Nat := 0x30010
/-- SEM_HAND_CNT: SET operations; saturates (03_semaphores_and_events.md, R93). -/
abbrev R.semHandCnt : Nat := 0x30014
/-- SEM_HOST_N: argument of the next host operation (03_semaphores_and_events.md, R93). -/
abbrev R.semHostN : Nat := 0x30020
/-- SEM_HOST_OP: issues a host operation (03_semaphores_and_events.md, R93). -/
abbrev R.semHostOp : Nat := 0x30024
/-- SEM_SHADOW_BASE_LO: host address [31:0]; bits [5:0] read 0 (03_semaphores_and_events.md, R93). -/
abbrev R.semShadowBaseLo : Nat := 0x30040
/-- SEM_SHADOW_BASE_HI: host address [63:32] (03_semaphores_and_events.md, R93). -/
abbrev R.semShadowBaseHi : Nat := 0x30044
/-- SEM_SHADOW_CTRL: [0] EN: shadow writes enabled (03_semaphores_and_events.md, R93). -/
abbrev R.semShadowCtrl : Nat := 0x30048
/-- SEM_SHADOWk_CFG: slot k, k = 0 to 63 (03_semaphores_and_events.md, R93); one per index 0 to 63. -/
abbrev R.semShadowCfg (n : Nat) : Nat := 0x30100 + 0x4 * n
/-- EVC_CTRL: [0] EN: delivery enabled; while 0, every interrupt line is low (03_semaphores_and_events.md, R105). -/
abbrev R.evcCtrl : Nat := 0x50000
/-- EVC_ERR: [1] HOST_WR; [0] BAD_COMPLETE; other bits reserved (03_semaphores_and_events.md, R105). -/
abbrev R.evcErr : Nat := 0x50004
/-- EVC_ERR_INFO: [17:16] target, [9:0] ID of the first error while `EVC_ERR` was 0 (03_semaphores_and_events.md, R105). -/
abbrev R.evcErrInfo : Nat := 0x50008
/-- EVC_LEVELk: raw levels (03_semaphores_and_events.md, R105); one per index 0 to 15. -/
abbrev R.evcLevel (n : Nat) : Nat := 0x50040 + 0x4 * n
/-- EVC_PENDk: pending states (03_semaphores_and_events.md, R105); one per index 0 to 15. -/
abbrev R.evcPend (n : Nat) : Nat := 0x50080 + 0x4 * n
/-- EVC_PEND_SETk: reads pending states; 1 sets the software latch (03_semaphores_and_events.md, R105); one per index 0 to 15. -/
abbrev R.evcPendSet (n : Nat) : Nat := 0x500c0 + 0x4 * n
/-- EVC_PEND_CLRk: reads pending states; 1 clears the software latch (03_semaphores_and_events.md, R105); one per index 0 to 15. -/
abbrev R.evcPendClr (n : Nat) : Nat := 0x50100 + 0x4 * n
/-- EVC_EN_SETt_k: reads enables of target t; 1 enables (03_semaphores_and_events.md, R105); 3 by 16 of them. -/
abbrev R.evcEnSet (n : Nat) (j : Nat) : Nat := 0x50200 + 0x80 * n + 0x4 * j
/-- EVC_EN_CLRt_k: reads enables of target t; 1 disables (03_semaphores_and_events.md, R105); 3 by 16 of them. -/
abbrev R.evcEnClr (n : Nat) (j : Nat) : Nat := 0x50240 + 0x80 * n + 0x4 * j
/-- EVC_ACTIVEt_k: sources active at target t (03_semaphores_and_events.md, R105); 3 by 16 of them. -/
abbrev R.evcActive (n : Nat) (j : Nat) : Nat := 0x50400 + 0x40 * n + 0x4 * j
/-- EVC_SRCn_CFG: source n, n = 1 to 511 (03_semaphores_and_events.md, R105); one per index 0 to 510. -/
abbrev R.evcSrcCfg (n : Nat) : Nat := 0x51004 + 0x4 * n
/-- EVC_Tt_CLAIM: claim under R100 (03_semaphores_and_events.md, R105); one per index 0 to 2. -/
abbrev R.evcTClaim (n : Nat) : Nat := 0x52000 + 0x100 * n
/-- EVC_Tt_COMPLETE: [9:0] ID completed, the full width of a claim ID (03_semaphores_and_events.md, R105); one per index 0 to 2. -/
abbrev R.evcTComplete (n : Nat) : Nat := 0x52004 + 0x100 * n
/-- EVC_Tt_PRIGROUP: [2:0] p (03_semaphores_and_events.md, R105); one per index 0 to 2. -/
abbrev R.evcTPrigroup (n : Nat) : Nat := 0x52008 + 0x100 * n
/-- EVC_Tt_RUNNING: [8] IDLE; [7:0] running group (03_semaphores_and_events.md, R105); one per index 0 to 2. -/
abbrev R.evcTRunning (n : Nat) : Nat := 0x5200c + 0x100 * n
/-- EVC_Tt_BEST: [9:0] the ID a claim would return now, without claiming (03_semaphores_and_events.md, R105); one per index 0 to 2. -/
abbrev R.evcTBest (n : Nat) : Nat := 0x52010 + 0x100 * n
/-- ING_CTRL: [0] EN: ingress enabled (04_sensor_ingress.md, R578). -/
abbrev R.ingCtrl : Nat := 0x60000
/-- ING_ERR: [2] PAIR; [1] BUSY; [0] CFG: an enable was refused for an invalid field (04_sensor_ingress.md, R578). -/
abbrev R.ingErr : Nat := 0x60004
/-- ING_ERR_INFO: offset of the first error while `ING_ERR` was 0 (04_sensor_ingress.md, R578). -/
abbrev R.ingErrInfo : Nat := 0x60008
/-- ING_CSIp_CFG: [31] EN; [2:0] LANES: 1, 2 or 4 (04_sensor_ingress.md, R578); one per index 0 to 3. -/
abbrev R.ingCsiCfg (n : Nat) : Nat := 0x60100 + 0x40 * n
/-- ING_CSIp_ECC_CORR: corrected headers; saturates (04_sensor_ingress.md, R578); one per index 0 to 3. -/
abbrev R.ingCsiEccCorr (n : Nat) : Nat := 0x60104 + 0x40 * n
/-- ING_CSIp_ECC_UNCORR: discarded packets; saturates (04_sensor_ingress.md, R578); one per index 0 to 3. -/
abbrev R.ingCsiEccUncorr (n : Nat) : Nat := 0x60108 + 0x40 * n
/-- ING_CSIp_CRC: CRC failures; saturates (04_sensor_ingress.md, R578); one per index 0 to 3. -/
abbrev R.ingCsiCrc (n : Nat) : Nat := 0x6010c + 0x40 * n
/-- ING_CSIp_UNMATCHED: unmatched packets; saturates (04_sensor_ingress.md, R578); one per index 0 to 3. -/
abbrev R.ingCsiUnmatched (n : Nat) : Nat := 0x60110 + 0x40 * n
/-- ING_PAIRp_CFG: [31] EN; [19:16] RIGHT slot; [3:0] LEFT slot (04_sensor_ingress.md, R578); one per index 0 to 3. -/
abbrev R.ingPairCfg (n : Nat) : Nat := 0x60200 + 0x10 * n
/-- ING_PAIRp_WAIT: pairing wait, ns (33,333,333) (04_sensor_ingress.md, R578); one per index 0 to 3. -/
abbrev R.ingPairWait (n : Nat) : Nat := 0x60204 + 0x10 * n
/-- ING_PAIRp_SEM: [15:0] pair semaphore; 0xFFFF none (04_sensor_ingress.md, R578); one per index 0 to 3. -/
abbrev R.ingPairSem (n : Nat) : Nat := 0x60208 + 0x10 * n
/-- ING_PAIRp_SKIP: MONO frames; saturates (04_sensor_ingress.md, R578); one per index 0 to 3. -/
abbrev R.ingPairSkip (n : Nat) : Nat := 0x6020c + 0x10 * n
/-- ING_FSn_CFG: slot set-up (04_sensor_ingress.md, R578); one per index 0 to 15. -/
abbrev R.ingFsCfg (n : Nat) : Nat := 0x61000 + 0x80 * n
/-- ING_FSn_SIZE: camera: [31:16] HEIGHT, [15:0] WIDTH; lidar: points, 1 to 4,194,304 (04_sensor_ingress.md, R578); one per index 0 to 15. -/
abbrev R.ingFsSize (n : Nat) : Nat := 0x61004 + 0x80 * n
/-- ING_FSn_PERIOD: nominal frame period, ns (04_sensor_ingress.md, R578); one per index 0 to 15. -/
abbrev R.ingFsPeriod (n : Nat) : Nat := 0x61008 + 0x80 * n
/-- ING_FSn_LAT: fixed latency `LAT`, ns (04_sensor_ingress.md, R578); one per index 0 to 15. -/
abbrev R.ingFsLat (n : Nat) : Nat := 0x6100c + 0x80 * n
/-- ING_FSn_TICK: sensor tick, UQ16.16 ns (04_sensor_ingress.md, R578); one per index 0 to 15. -/
abbrev R.ingFsTick (n : Nat) : Nat := 0x61010 + 0x80 * n
/-- ING_FSn_TSLOC: [31:16] byte offset in embedded data; [11:8] width, 1 to 8 bytes; [0] 1: big-endian (04_sensor_ingress.md, R578); one per index 0 to 15. -/
abbrev R.ingFsTsloc (n : Nat) : Nat := 0x61014 + 0x80 * n
/-- ING_FSn_EXPOFS: signed ns added to the trigger edge (04_sensor_ingress.md, R578); one per index 0 to 15. -/
abbrev R.ingFsExpofs (n : Nat) : Nat := 0x61018 + 0x80 * n
/-- ING_FSn_MAP: [15:8] LOSS, 1 to 255; [5:0] WIN, 4 to 32 (04_sensor_ingress.md, R578); one per index 0 to 15. -/
abbrev R.ingFsMap (n : Nat) : Nat := 0x6101c + 0x80 * n
/-- ING_FSn_BUF_LO: buffer ring device address [31:0]; bits [15:0] read 0 (04_sensor_ingress.md, R578); one per index 0 to 15. -/
abbrev R.ingFsBufLo (n : Nat) : Nat := 0x61020 + 0x80 * n
/-- ING_FSn_BUF_HI: [15:0] device address [47:32] (04_sensor_ingress.md, R578); one per index 0 to 15. -/
abbrev R.ingFsBufHi (n : Nat) : Nat := 0x61024 + 0x80 * n
/-- ING_FSn_BUFCFG: [31:8] STRIDE in 64 KiB; [3:0] NBUF, 2 to 8 (04_sensor_ingress.md, R578); one per index 0 to 15. -/
abbrev R.ingFsBufcfg (n : Nat) : Nat := 0x61028 + 0x80 * n
/-- ING_FSn_SEM: [31:16] free semaphore; [15:0] end semaphore; 0xFFFF none (04_sensor_ingress.md, R578); one per index 0 to 15. -/
abbrev R.ingFsSem (n : Nat) : Nat := 0x6102c + 0x80 * n
/-- ING_FSn_STATUS: [23:16] good count; [15:8] outlier count; [3] LOST; [2] DRIFT; [1] map valid; [0] frame open (04_sensor_ingress.md, R578); one per index 0 to 15. -/
abbrev R.ingFsStatus (n : Nat) : Nat := 0x61030 + 0x80 * n
/-- ING_FSn_EVENT: [5] SIZE; [4] DROP; [3] DRIFT_CLEARED; [2] DRIFT; [1] RETURNED; [0] LOST (04_sensor_ingress.md, R578); one per index 0 to 15. -/
abbrev R.ingFsEvent (n : Nat) : Nat := 0x61034 + 0x80 * n
/-- ING_FSn_FRAMES: frames started; wraps (04_sensor_ingress.md, R578); one per index 0 to 15. -/
abbrev R.ingFsFrames (n : Nat) : Nat := 0x61038 + 0x80 * n
/-- ING_FSn_DROPS: frames dropped under R118; saturates (04_sensor_ingress.md, R578); one per index 0 to 15. -/
abbrev R.ingFsDrops (n : Nat) : Nat := 0x6103c + 0x80 * n
/-- ING_FSn_OUTLIERS: outlier frames; saturates (04_sensor_ingress.md, R578); one per index 0 to 15. -/
abbrev R.ingFsOutliers (n : Nat) : Nat := 0x61040 + 0x80 * n
/-- ING_FSn_RESID: last residual, signed ns, saturated (04_sensor_ingress.md, R578); one per index 0 to 15. -/
abbrev R.ingFsResid (n : Nat) : Nat := 0x61044 + 0x80 * n
/-- ING_ETHe_Tt_CFG: [31] EN; [27:24] slot; [15:0] UDP destination port (04_sensor_ingress.md, R578); 2 by 8 of them. -/
abbrev R.ingEthTCfg (n : Nat) (j : Nat) : Nat := 0x62000 + 0x400 * n + 0x80 * j
/-- ING_ETHe_Tt_SRC: source IPv4 address; 0 matches any (04_sensor_ingress.md, R578); 2 by 8 of them. -/
abbrev R.ingEthTSrc (n : Nat) (j : Nat) : Nat := 0x62004 + 0x400 * n + 0x80 * j
/-- ING_ETHe_Tt_MAGIC: magic bytes, first byte in [31:24] (04_sensor_ingress.md, R578); 2 by 8 of them. -/
abbrev R.ingEthTMagic (n : Nat) (j : Nat) : Nat := 0x62008 + 0x400 * n + 0x80 * j
/-- ING_ETHe_Tt_MAGLOC: [31:16] payload offset; [3:0] byte mask; mask 0 matches any (04_sensor_ingress.md, R578); 2 by 8 of them. -/
abbrev R.ingEthTMagloc (n : Nat) (j : Nat) : Nat := 0x6200c + 0x400 * n + 0x80 * j
/-- ING_ETHe_Tt_LAYOUT: [31:16] HDR_LEN; [15:0] STRIDE, bytes (04_sensor_ingress.md, R578); 2 by 8 of them. -/
abbrev R.ingEthTLayout (n : Nat) (j : Nat) : Nat := 0x62010 + 0x400 * n + 0x80 * j
/-- ING_ETHe_Tt_NPTS: [10:0] points per packet, 1 to 1,024 (04_sensor_ingress.md, R578); 2 by 8 of them. -/
abbrev R.ingEthTNpts (n : Nat) (j : Nat) : Nat := 0x62014 + 0x400 * n + 0x80 * j
/-- ING_ETHe_Tt_XYZ_FMT: [31:24] X, [23:16] Y, [15:8] Z offset in point; [7] ZDROP; [5:4] width 0b00 16, 0b01 24, 0b10 32 bits; [1] big-endian; [0] signed (04_sensor_ingress.md, R578); 2 by 8 of them. -/
abbrev R.ingEthTXyzFmt (n : Nat) (j : Nat) : Nat := 0x62018 + 0x400 * n + 0x80 * j
/-- ING_ETHe_Tt_XYZ_MUL: coordinate multiplier, UQ16.16 (04_sensor_ingress.md, R578); 2 by 8 of them. -/
abbrev R.ingEthTXyzMul (n : Nat) (j : Nat) : Nat := 0x6201c + 0x400 * n + 0x80 * j
/-- ING_ETHe_Tt_INT: [31] EN; [15:8] intensity offset in point (04_sensor_ingress.md, R578); 2 by 8 of them. -/
abbrev R.ingEthTInt (n : Nat) (j : Nat) : Nat := 0x62020 + 0x400 * n + 0x80 * j
/-- ING_ETHe_Tt_TS: [31:16] payload offset; [5:4] width 0b00 32, 0b01 48, 0b10 64 bits; [1] big-endian (04_sensor_ingress.md, R578); 2 by 8 of them. -/
abbrev R.ingEthTTs (n : Nat) (j : Nat) : Nat := 0x62024 + 0x400 * n + 0x80 * j
/-- ING_ETHe_Tt_PT_DT: time step between points, UQ16.16 ns (04_sensor_ingress.md, R578); 2 by 8 of them. -/
abbrev R.ingEthTPtDt (n : Nat) (j : Nat) : Nat := 0x62028 + 0x400 * n + 0x80 * j
/-- ING_ETHe_Tt_SWEEP: [31:30] rule; [29:16] COUNT, packets; [15:0] FIELD offset (04_sensor_ingress.md, R578); 2 by 8 of them. -/
abbrev R.ingEthTSweep (n : Nat) (j : Nat) : Nat := 0x6202c + 0x400 * n + 0x80 * j
/-- ING_ETHe_Tt_PKTS: packets taken; wraps (04_sensor_ingress.md, R578); 2 by 8 of them. -/
abbrev R.ingEthTPkts (n : Nat) (j : Nat) : Nat := 0x62030 + 0x400 * n + 0x80 * j
/-- ING_ETHe_DISCARD: frames discarded under R110; saturates (04_sensor_ingress.md, R578); one per index 0 to 1. -/
abbrev R.ingEthDiscard (n : Nat) : Nat := 0x623f8 + 0x400 * n
/-- ING_ISn_CFG: [31] EN; [30:29] SPI mode; [28] data-ready active low; [23:16] DIV; [7:4] channels, 1 to 8 (04_sensor_ingress.md, R578); one per index 0 to 3. -/
abbrev R.ingIsCfg (n : Nat) : Nat := 0x63000 + 0x100 * n
/-- ING_ISn_XFER: [31:24] READ_LEN, 1 to 32; [23:21] CMD_LEN, 0 to 4 (04_sensor_ingress.md, R578); one per index 0 to 3. -/
abbrev R.ingIsXfer (n : Nat) : Nat := 0x63004 + 0x100 * n
/-- ING_ISn_CMD: command bytes, first in [31:24] (04_sensor_ingress.md, R578); one per index 0 to 3. -/
abbrev R.ingIsCmd (n : Nat) : Nat := 0x63008 + 0x100 * n
/-- ING_ISn_PERIOD: nominal sample period, ns (04_sensor_ingress.md, R578); one per index 0 to 3. -/
abbrev R.ingIsPeriod (n : Nat) : Nat := 0x6300c + 0x100 * n
/-- ING_ISn_LOSS: [7:0] LOSS periods, 1 to 255 (04_sensor_ingress.md, R578); one per index 0 to 3. -/
abbrev R.ingIsLoss (n : Nat) : Nat := 0x63010 + 0x100 * n
/-- ING_ISn_CHc: [31] EN; [12:8] byte offset; [5:4] width 0b00 8, 0b01 16, 0b10 24 bits; [1] big-endian; [0] signed (04_sensor_ingress.md, R578); 4 by 8 of them. -/
abbrev R.ingIsCh (n : Nat) (j : Nat) : Nat := 0x63020 + 0x100 * n + 0x4 * j
/-- ING_ISn_STATUS: [1] LOST; [0] transaction running (04_sensor_ingress.md, R578); one per index 0 to 3. -/
abbrev R.ingIsStatus (n : Nat) : Nat := 0x63040 + 0x100 * n
/-- ING_ISn_EVENT: [2] OVR; [1] RETURNED; [0] LOST (04_sensor_ingress.md, R578); one per index 0 to 3. -/
abbrev R.ingIsEvent (n : Nat) : Nat := 0x63044 + 0x100 * n
/-- ING_ISn_SAMPLES: transactions completed; wraps (04_sensor_ingress.md, R578); one per index 0 to 3. -/
abbrev R.ingIsSamples (n : Nat) : Nat := 0x63048 + 0x100 * n
/-- ING_ISn_OVR: overrun edges; saturates (04_sensor_ingress.md, R578); one per index 0 to 3. -/
abbrev R.ingIsOvr (n : Nat) : Nat := 0x6304c + 0x100 * n
/-- ING_ISn_STAMP_LO: last data-ready stamp [31:0]; a read captures (04_sensor_ingress.md, R578); one per index 0 to 3. -/
abbrev R.ingIsStampLo (n : Nat) : Nat := 0x63050 + 0x100 * n
/-- ING_ISn_STAMP_HI: captured stamp [63:32] (04_sensor_ingress.md, R578); one per index 0 to 3. -/
abbrev R.ingIsStampHi (n : Nat) : Nat := 0x63054 + 0x100 * n
/-- IFC_CTRL: [0] EN: filter chain enabled (05_inertial_filter_chain.md, R147). -/
abbrev R.ifcCtrl : Nat := 0x70000
/-- IFC_ERR: [1] BUSY; [0] CFG: an enable was refused (05_inertial_filter_chain.md, R147). -/
abbrev R.ifcErr : Nat := 0x70004
/-- IFC_ERR_INFO: offset of the first error while `IFC_ERR` was 0 (05_inertial_filter_chain.md, R147). -/
abbrev R.ifcErrInfo : Nat := 0x70008
/-- IFC_DET_EVENT: bit k: a block of IFC channel k ended (05_inertial_filter_chain.md, R147). -/
abbrev R.ifcDetEvent : Nat := 0x70010
/-- IFC_DET_ALARM: bit k: IFC channel k exceeded `DET_THR` (05_inertial_filter_chain.md, R147). -/
abbrev R.ifcDetAlarm : Nat := 0x70014
/-- IFC_ISi_CFG: slot set-up (05_inertial_filter_chain.md, R147); one per index 0 to 3. -/
abbrev R.ifcIsCfg (n : Nat) : Nat := 0x70100 + 0x100 * n
/-- IFC_ISi_GDELAY: output time offset, ns (05_inertial_filter_chain.md, R147); one per index 0 to 3. -/
abbrev R.ifcIsGdelay (n : Nat) : Nat := 0x70104 + 0x100 * n
/-- IFC_ISi_OUT_LO: ring device address [31:0]; bits [5:0] read 0 (05_inertial_filter_chain.md, R147); one per index 0 to 3. -/
abbrev R.ifcIsOutLo (n : Nat) : Nat := 0x70108 + 0x100 * n
/-- IFC_ISi_OUT_HI: [15:0] device address [47:32] (05_inertial_filter_chain.md, R147); one per index 0 to 3. -/
abbrev R.ifcIsOutHi (n : Nat) : Nat := 0x7010c + 0x100 * n
/-- IFC_ISi_OUTCFG: [31:16] OUT_SEM, 0xFFFF none; [3:0] NOUT, 4 to 12 (05_inertial_filter_chain.md, R147); one per index 0 to 3. -/
abbrev R.ifcIsOutcfg (n : Nat) : Nat := 0x70110 + 0x100 * n
/-- IFC_ISi_STATUS: [15:8] UNSETTLED outputs still to come; [1] SCS; [0] RUNNING (05_inertial_filter_chain.md, R147); one per index 0 to 3. -/
abbrev R.ifcIsStatus (n : Nat) : Nat := 0x70114 + 0x100 * n
/-- IFC_ISi_EVENT: [3] SWITCH; [2] SAT; [1] GAP; [0] RESTART (05_inertial_filter_chain.md, R147); one per index 0 to 3. -/
abbrev R.ifcIsEvent (n : Nat) : Nat := 0x70118 + 0x100 * n
/-- IFC_ISi_SEQ: sequence of the last output (05_inertial_filter_chain.md, R147); one per index 0 to 3. -/
abbrev R.ifcIsSeq (n : Nat) : Nat := 0x7011c + 0x100 * n
/-- IFC_ISi_SAT_CNT: saturations; saturates (05_inertial_filter_chain.md, R147); one per index 0 to 3. -/
abbrev R.ifcIsSatCnt (n : Nat) : Nat := 0x70120 + 0x100 * n
/-- IFC_ISi_GAP_CNT: gap markers; saturates (05_inertial_filter_chain.md, R147); one per index 0 to 3. -/
abbrev R.ifcIsGapCnt (n : Nat) : Nat := 0x70124 + 0x100 * n
/-- IFC_ISi_CHc_CFG: [31] EN; [18:16] SRC; [2:0] BANK (05_inertial_filter_chain.md, R147); 4 by 8 of them. -/
abbrev R.ifcIsChCfg (n : Nat) (j : Nat) : Nat := 0x70140 + 0x100 * n + 0x4 * j
/-- IFC_DETk_CFG: [31] EN; [30] TAP; [16:0] DET_N, 64 to 65,536 (05_inertial_filter_chain.md, R147); one per index 0 to 31. -/
abbrev R.ifcDetCfg (n : Nat) : Nat := 0x72000 + 0x40 * n
/-- IFC_DETk_W: `DET_W`, UQ0.32 turn per sample (05_inertial_filter_chain.md, R147); one per index 0 to 31. -/
abbrev R.ifcDetW (n : Nat) : Nat := 0x72004 + 0x40 * n
/-- IFC_DETk_THR: alarm threshold against P[63:32] (05_inertial_filter_chain.md, R147); one per index 0 to 31. -/
abbrev R.ifcDetThr (n : Nat) : Nat := 0x72008 + 0x40 * n
/-- IFC_DETk_POWER_LO: P [31:0]; a read captures (05_inertial_filter_chain.md, R147); one per index 0 to 31. -/
abbrev R.ifcDetPowerLo (n : Nat) : Nat := 0x7200c + 0x40 * n
/-- IFC_DETk_POWER_HI: captured P [63:32] (05_inertial_filter_chain.md, R147); one per index 0 to 31. -/
abbrev R.ifcDetPowerHi (n : Nat) : Nat := 0x72010 + 0x40 * n
/-- IFC_DETk_PHASE: captured [15:0] φ (05_inertial_filter_chain.md, R147); one per index 0 to 31. -/
abbrev R.ifcDetPhase (n : Nat) : Nat := 0x72014 + 0x40 * n
/-- IFC_DETk_START_LO: captured block-start stamp [31:0] (05_inertial_filter_chain.md, R147); one per index 0 to 31. -/
abbrev R.ifcDetStartLo (n : Nat) : Nat := 0x72018 + 0x40 * n
/-- IFC_DETk_START_HI: captured block-start stamp [63:32] (05_inertial_filter_chain.md, R147); one per index 0 to 31. -/
abbrev R.ifcDetStartHi (n : Nat) : Nat := 0x7201c + 0x40 * n
/-- IFC_DETk_INFO: captured [31:1] block count, wraps; [0] GAP (05_inertial_filter_chain.md, R147); one per index 0 to 31. -/
abbrev R.ifcDetInfo (n : Nat) : Nat := 0x72020 + 0x40 * n
/-- IFC_BANKb_H_j: FIR tap h[j], j = 0 to 63; [23:0] Q2.22 (05_inertial_filter_chain.md, R147); 8 by 64 of them. -/
abbrev R.ifcBankH (n : Nat) (j : Nat) : Nat := 0x74000 + 0x200 * n + 0x4 * j
/-- IFC_BANKb_G_j: half-band g[j], j = 0 to 7; [23:0] Q1.23 (05_inertial_filter_chain.md, R147); 8 by 8 of them. -/
abbrev R.ifcBankG (n : Nat) (j : Nat) : Nat := 0x74100 + 0x200 * n + 0x4 * j
/-- FDD_CTRL: [0] EN: jobs accepted and builder running (06_feature_tracking.md, R179); one per index 0 to 1. -/
abbrev R.fddCtrl (n : Nat) : Nat := 0x80000 + 0x10000 * n
/-- FDD_STATUS: [1] BUILDING: a pyramid frame is open; [0] BUSY: a job is running (06_feature_tracking.md, R179); one per index 0 to 1. -/
abbrev R.fddStatus (n : Nat) : Nat := 0x80004 + 0x10000 * n
/-- FDD_ERR: [3] PYR; [2] TABLE; [1] BUSY; [0] JOB (06_feature_tracking.md, R179); one per index 0 to 1. -/
abbrev R.fddErr (n : Nat) : Nat := 0x80008 + 0x10000 * n
/-- FDD_ERR_INFO: [31:16] job-block byte or register offset; [3:0] slot, of the first error while `FDD_ERR` was 0 (06_feature_tracking.md, R179); one per index 0 to 1. -/
abbrev R.fddErrInfo (n : Nat) : Nat := 0x8000c + 0x10000 * n
/-- FDD_JOBS: jobs completed; wraps (06_feature_tracking.md, R179); one per index 0 to 1. -/
abbrev R.fddJobs (n : Nat) : Nat := 0x80010 + 0x10000 * n
/-- FDD_FEATURES: features written; saturates (06_feature_tracking.md, R179); one per index 0 to 1. -/
abbrev R.fddFeatures (n : Nat) : Nat := 0x80014 + 0x10000 * n
/-- FDD_CAND: candidates; saturates (06_feature_tracking.md, R179); one per index 0 to 1. -/
abbrev R.fddCand (n : Nat) : Nat := 0x80018 + 0x10000 * n
/-- FDD_PYRn_LO: pyramid ring device address [31:0]; bits [15:0] read 0 (06_feature_tracking.md, R179); 2 by 16 of them. -/
abbrev R.fddPyrLo (n : Nat) (j : Nat) : Nat := 0x80100 + 0x10000 * n + 0x10 * j
/-- FDD_PYRn_HI: [15:0] device address [47:32] (06_feature_tracking.md, R179); 2 by 16 of them. -/
abbrev R.fddPyrHi (n : Nat) (j : Nat) : Nat := 0x80104 + 0x10000 * n + 0x10 * j
/-- FDD_PYRn_CFG: builder set-up for slot n (06_feature_tracking.md, R179); 2 by 16 of them. -/
abbrev R.fddPyrCfg (n : Nat) (j : Nat) : Nat := 0x80108 + 0x10000 * n + 0x10 * j
/-- FDD_PYRn_PTR: buffer pointer of slot n (06_feature_tracking.md, R179); 2 by 16 of them. -/
abbrev R.fddPyrPtr (n : Nat) (j : Nat) : Nat := 0x8010c + 0x10000 * n + 0x10 * j
/-- FDD_PAIRi: pair-table entry i, i = 0 to 255 (06_feature_tracking.md, R179); 2 by 256 of them. -/
abbrev R.fddPair (n : Nat) (j : Nat) : Nat := 0x81000 + 0x10000 * n + 0x4 * j
/-- TME_CTRL: [0] EN: jobs accepted (06_feature_tracking.md, R180); one per index 0 to 1. -/
abbrev R.tmeCtrl (n : Nat) : Nat := 0xa0000 + 0x10000 * n
/-- TME_STATUS: [0] BUSY: a job is running (06_feature_tracking.md, R180); one per index 0 to 1. -/
abbrev R.tmeStatus (n : Nat) : Nat := 0xa0004 + 0x10000 * n
/-- TME_ERR: [0] JOB; other bits reserved (06_feature_tracking.md, R180); one per index 0 to 1. -/
abbrev R.tmeErr (n : Nat) : Nat := 0xa0008 + 0x10000 * n
/-- TME_ERR_INFO: [31:16] job-block byte offset; [7:0] opcode, of the first error while `TME_ERR` was 0 (06_feature_tracking.md, R180); one per index 0 to 1. -/
abbrev R.tmeErrInfo (n : Nat) : Nat := 0xa000c + 0x10000 * n
/-- TME_JOBS: jobs completed; wraps (06_feature_tracking.md, R180); one per index 0 to 1. -/
abbrev R.tmeJobs (n : Nat) : Nat := 0xa0010 + 0x10000 * n
/-- TME_TRACKED: tracks ending TRACKED; saturates (06_feature_tracking.md, R180); one per index 0 to 1. -/
abbrev R.tmeTracked (n : Nat) : Nat := 0xa0014 + 0x10000 * n
/-- TME_LOST: tracks ending in any LOST status; saturates (06_feature_tracking.md, R180); one per index 0 to 1. -/
abbrev R.tmeLost (n : Nat) : Nat := 0xa0018 + 0x10000 * n
/-- TME_SEEDED: tracks seeded; saturates (06_feature_tracking.md, R180); one per index 0 to 1. -/
abbrev R.tmeSeeded (n : Nat) : Nat := 0xa001c + 0x10000 * n
/-- TME_MATCHED: queries accepted; saturates (06_feature_tracking.md, R180); one per index 0 to 1. -/
abbrev R.tmeMatched (n : Nat) : Nat := 0xa0020 + 0x10000 * n
/-- SDE_CTRL: [0] EN: jobs accepted (07_stereo_and_projection.md, R207). -/
abbrev R.sdeCtrl : Nat := 0xc0000
/-- SDE_STATUS: [0] BUSY: a job is running (07_stereo_and_projection.md, R207). -/
abbrev R.sdeStatus : Nat := 0xc0004
/-- SDE_ERR: [2] BUSY; [1] CAL; [0] JOB (07_stereo_and_projection.md, R207). -/
abbrev R.sdeErr : Nat := 0xc0008
/-- SDE_ERR_INFO: [31:16] job-block byte or register offset; [1:0] pair, of the first error while `SDE_ERR` was 0 (07_stereo_and_projection.md, R207). -/
abbrev R.sdeErrInfo : Nat := 0xc000c
/-- SDE_JOBS: jobs completed; wraps (07_stereo_and_projection.md, R207). -/
abbrev R.sdeJobs : Nat := 0xc0010
/-- SDE_VALID: valid pixels; saturates (07_stereo_and_projection.md, R207). -/
abbrev R.sdeValid : Nat := 0xc0014
/-- SDE_NOTEX: pixels coded 0xFFFF; saturates (07_stereo_and_projection.md, R207). -/
abbrev R.sdeNotex : Nat := 0xc0018
/-- SDE_OCCL: pixels coded 0xFFFE; saturates (07_stereo_and_projection.md, R207). -/
abbrev R.sdeOccl : Nat := 0xc001c
/-- SDE_RANGE: pixels coded 0xFFFD; saturates (07_stereo_and_projection.md, R207). -/
abbrev R.sdeRange : Nat := 0xc0020
/-- SDE_CAL_EVENT: bit p: pair p made a table active, at once or at a swap, R204 (07_stereo_and_projection.md, R207). -/
abbrev R.sdeCalEvent : Nat := 0xc0024
/-- SDE_PAIRp_LATCH: [31] VALID; [30] PAIRED; [19:16] right buffer; [3:0] left buffer (07_stereo_and_projection.md, R207); one per index 0 to 3. -/
abbrev R.sdePairLatch (n : Nat) : Nat := 0xc0100 + 0x10 * n
/-- SDE_PAIRp_OVR: latches replaced before a job took them; saturates (07_stereo_and_projection.md, R207); one per index 0 to 3. -/
abbrev R.sdePairOvr (n : Nat) : Nat := 0xc0104 + 0x10 * n
/-- PJE_CTRL: [0] EN: jobs accepted (07_stereo_and_projection.md, R208). -/
abbrev R.pjeCtrl : Nat := 0xd0000
/-- PJE_STATUS: [0] BUSY: a job is running (07_stereo_and_projection.md, R208). -/
abbrev R.pjeStatus : Nat := 0xd0004
/-- PJE_ERR: [2] BUSY; [1] CAL; [0] JOB (07_stereo_and_projection.md, R208). -/
abbrev R.pjeErr : Nat := 0xd0008
/-- PJE_ERR_INFO: [31:16] job-block byte or register offset; [3:0] camera slot, of the first error while `PJE_ERR` was 0 (07_stereo_and_projection.md, R208). -/
abbrev R.pjeErrInfo : Nat := 0xd000c
/-- PJE_JOBS: jobs completed; wraps (07_stereo_and_projection.md, R208). -/
abbrev R.pjeJobs : Nat := 0xd0010
/-- PJE_POINTS: points read; saturates (07_stereo_and_projection.md, R208). -/
abbrev R.pjePoints : Nat := 0xd0014
/-- PJE_LANDED: points landed; saturates (07_stereo_and_projection.md, R208). -/
abbrev R.pjeLanded : Nat := 0xd0018
/-- PJE_DROPPED: points dropped for any reason; saturates (07_stereo_and_projection.md, R208). -/
abbrev R.pjeDropped : Nat := 0xd001c
/-- PJE_CAL_EVENT: bit n: slot n made a table active, at once or at a swap, R204 (07_stereo_and_projection.md, R208). -/
abbrev R.pjeCalEvent : Nat := 0xd0020
/-- PJE_SLOTn_LATCH: [31] VALID; [3:0] buffer of the last frame record of slot n (07_stereo_and_projection.md, R208); one per index 0 to 15. -/
abbrev R.pjeSlotLatch (n : Nat) : Nat := 0xd0100 + 0x4 * n
/-- CAL_CTRL: [1] DISARM; [0] ARM (07_stereo_and_projection.md, R208); one per index 0 to 3. -/
abbrev R.sdeCalCtrl (n : Nat) : Nat := 0xc0200 + 0x40 * n
/-- CAL_CTRL: [1] DISARM; [0] ARM (07_stereo_and_projection.md, R208); one per index 0 to 15. -/
abbrev R.pjeCalCtrl (n : Nat) : Nat := 0xd0400 + 0x40 * n
/-- CAL_STATUS: [3] CHECKING; [2] RET_HELD; [1] ACTIVE; [0] ARMED (07_stereo_and_projection.md, R208); one per index 0 to 3. -/
abbrev R.sdeCalStatus (n : Nat) : Nat := 0xc0204 + 0x40 * n
/-- CAL_STATUS: [3] CHECKING; [2] RET_HELD; [1] ACTIVE; [0] ARMED (07_stereo_and_projection.md, R208); one per index 0 to 15. -/
abbrev R.pjeCalStatus (n : Nat) : Nat := 0xd0404 + 0x40 * n
/-- CAL_STG_LO: staged table address [31:0]; bits [5:0] read 0 (07_stereo_and_projection.md, R208); one per index 0 to 3. -/
abbrev R.sdeCalStgLo (n : Nat) : Nat := 0xc0208 + 0x40 * n
/-- CAL_STG_LO: staged table address [31:0]; bits [5:0] read 0 (07_stereo_and_projection.md, R208); one per index 0 to 15. -/
abbrev R.pjeCalStgLo (n : Nat) : Nat := 0xd0408 + 0x40 * n
/-- CAL_STG_HI: [15:0] staged table address [47:32] (07_stereo_and_projection.md, R208); one per index 0 to 3. -/
abbrev R.sdeCalStgHi (n : Nat) : Nat := 0xc020c + 0x40 * n
/-- CAL_STG_HI: [15:0] staged table address [47:32] (07_stereo_and_projection.md, R208); one per index 0 to 15. -/
abbrev R.pjeCalStgHi (n : Nat) : Nat := 0xd040c + 0x40 * n
/-- CAL_STG_VER: version of the armed table (07_stereo_and_projection.md, R208); one per index 0 to 3. -/
abbrev R.sdeCalStgVer (n : Nat) : Nat := 0xc0210 + 0x40 * n
/-- CAL_STG_VER: version of the armed table (07_stereo_and_projection.md, R208); one per index 0 to 15. -/
abbrev R.pjeCalStgVer (n : Nat) : Nat := 0xd0410 + 0x40 * n
/-- CAL_ACT_VER: active version; 0 if none (07_stereo_and_projection.md, R208); one per index 0 to 3. -/
abbrev R.sdeCalActVer (n : Nat) : Nat := 0xc0214 + 0x40 * n
/-- CAL_ACT_VER: active version; 0 if none (07_stereo_and_projection.md, R208); one per index 0 to 15. -/
abbrev R.pjeCalActVer (n : Nat) : Nat := 0xd0414 + 0x40 * n
/-- CAL_RET_VER: version retired at the last swap (07_stereo_and_projection.md, R208); one per index 0 to 3. -/
abbrev R.sdeCalRetVer (n : Nat) : Nat := 0xc0218 + 0x40 * n
/-- CAL_RET_VER: version retired at the last swap (07_stereo_and_projection.md, R208); one per index 0 to 15. -/
abbrev R.pjeCalRetVer (n : Nat) : Nat := 0xd0418 + 0x40 * n
/-- CAL_SWAP_EPOCH: epoch [31:0] at which the active table took effect; 0 if at once (07_stereo_and_projection.md, R208); one per index 0 to 3. -/
abbrev R.sdeCalSwapEpoch (n : Nat) : Nat := 0xc021c + 0x40 * n
/-- CAL_SWAP_EPOCH: epoch [31:0] at which the active table took effect; 0 if at once (07_stereo_and_projection.md, R208); one per index 0 to 15. -/
abbrev R.pjeCalSwapEpoch (n : Nat) : Nat := 0xd041c + 0x40 * n
/-- CAL_ACT_LO: active table address [31:0] (07_stereo_and_projection.md, R208); one per index 0 to 3. -/
abbrev R.sdeCalActLo (n : Nat) : Nat := 0xc0220 + 0x40 * n
/-- CAL_ACT_LO: active table address [31:0] (07_stereo_and_projection.md, R208); one per index 0 to 15. -/
abbrev R.pjeCalActLo (n : Nat) : Nat := 0xd0420 + 0x40 * n
/-- CAL_ACT_HI: [15:0] active table address [47:32] (07_stereo_and_projection.md, R208); one per index 0 to 3. -/
abbrev R.sdeCalActHi (n : Nat) : Nat := 0xc0224 + 0x40 * n
/-- CAL_ACT_HI: [15:0] active table address [47:32] (07_stereo_and_projection.md, R208); one per index 0 to 15. -/
abbrev R.pjeCalActHi (n : Nat) : Nat := 0xd0424 + 0x40 * n
/-- FGS_CTRL: [0] EN: launches accepted (08_frame_graphs.md, R224). -/
abbrev R.fgsCtrl : Nat := 0xe0000
/-- FGS_STATUS: [7:0] runs in flight, 0 to 128 (08_frame_graphs.md, R224). -/
abbrev R.fgsStatus : Nat := 0xe0004
/-- FGS_ERR: [1] ABORT_BAD: an abort named a graph that is not resident; [0] LAUNCH: a launch was refused under R214 (08_frame_graphs.md, R224). -/
abbrev R.fgsErr : Nat := 0xe0008
/-- FGS_ERR_INFO: [21:16] graph; [8:0] start-gate index, of the first error while `FGS_ERR` was 0 (08_frame_graphs.md, R224). -/
abbrev R.fgsErrInfo : Nat := 0xe000c
/-- FGS_RUNS: runs ended; wraps (08_frame_graphs.md, R224). -/
abbrev R.fgsRuns : Nat := 0xe0010
/-- FGS_DISPATCHED: jobs enqueued; saturates (08_frame_graphs.md, R224). -/
abbrev R.fgsDispatched : Nat := 0xe0014
/-- FGS_SKIPPED: gates skipped; saturates (08_frame_graphs.md, R224). -/
abbrev R.fgsSkipped : Nat := 0xe0018
/-- FGS_WAIT_TMO: waits and holds that reached their expiry; saturates (08_frame_graphs.md, R224). -/
abbrev R.fgsWaitTmo : Nat := 0xe001c
/-- FGS_ABORT: [31] GO; [5:0] graph to abort (08_frame_graphs.md, R224). -/
abbrev R.fgsAbort : Nat := 0xe0030
/-- FGS_GSTORE_ADDR: [19:2] word offset in the gate store, which holds 528,384 bytes (08_frame_graphs.md, R224). -/
abbrev R.fgsGstoreAddr : Nat := 0xe0040
/-- FGS_GSTORE_DATA: the gate-store word at `FGS_GSTORE_ADDR` (08_frame_graphs.md, R224). -/
abbrev R.fgsGstoreData : Nat := 0xe0044
/-- FGS_GRAPHg_CFG: graph set-up, from the header (08_frame_graphs.md, R224); one per index 0 to 63. -/
abbrev R.fgsGraphCfg (n : Nat) : Nat := 0xe0100 + 0x20 * n
/-- FGS_GRAPHg_STATE: [18:16] runs in flight; [7:0] cursor gate of the oldest run (08_frame_graphs.md, R224); one per index 0 to 63. -/
abbrev R.fgsGraphState (n : Nat) : Nat := 0xe0104 + 0x20 * n
/-- FGS_GRAPHg_LAUNCHES: accepted launches; wraps (08_frame_graphs.md, R224); one per index 0 to 63. -/
abbrev R.fgsGraphLaunches (n : Nat) : Nat := 0xe0108 + 0x20 * n
/-- FGS_GRAPHg_OVR: launches refused for MAXRUN or the 128-run limit; saturates (08_frame_graphs.md, R224); one per index 0 to 63. -/
abbrev R.fgsGraphOvr (n : Nat) : Nat := 0xe010c + 0x20 * n
/-- FGS_GRAPHg_EVENT: [2] ABORTED; [1] FAILED: a run ended with worst status 0x20 or above; [0] OVR (08_frame_graphs.md, R224); one per index 0 to 63. -/
abbrev R.fgsGraphEvent (n : Nat) : Nat := 0xe0110 + 0x20 * n
/-- FGS_GRAPHg_LAST: last run: [31:24] worst status; [15:0] gates skipped (08_frame_graphs.md, R224); one per index 0 to 63. -/
abbrev R.fgsGraphLast (n : Nat) : Nat := 0xe0114 + 0x20 * n
/-- TT_ID: [9:8] piste; [6:0] physical index n (09_tensor_tiles.md, R252); one per index 0 to 67. -/
abbrev R.ttId (n : Nat) : Nat := 0x100000 + 0x1000 * n
/-- TT_STATUS: logical tiles held and state (09_tensor_tiles.md, R252); one per index 0 to 67. -/
abbrev R.ttStatus (n : Nat) : Nat := 0x100004 + 0x1000 * n
/-- TT_EVENT: tile events (09_tensor_tiles.md, R252); one per index 0 to 67. -/
abbrev R.ttEvent (n : Nat) : Nat := 0x100008 + 0x1000 * n
/-- TT_CHK_LAST: last mismatch (09_tensor_tiles.md, R252); one per index 0 to 67. -/
abbrev R.ttChkLast (n : Nat) : Nat := 0x10000c + 0x1000 * n
/-- TT_PASSES: passes checked; wraps (09_tensor_tiles.md, R252); one per index 0 to 67. -/
abbrev R.ttPasses (n : Nat) : Nat := 0x100010 + 0x1000 * n
/-- TT_CHK_TRANSIENT: transient mismatches; saturates (09_tensor_tiles.md, R252); one per index 0 to 67. -/
abbrev R.ttChkTransient (n : Nat) : Nat := 0x100014 + 0x1000 * n
/-- TT_SAT_RQ: requantiser saturations; saturates (09_tensor_tiles.md, R252); one per index 0 to 67. -/
abbrev R.ttSatRq (n : Nat) : Nat := 0x100018 + 0x1000 * n
/-- TT_SAT_NL: non-linear saturations; saturates (09_tensor_tiles.md, R252); one per index 0 to 67. -/
abbrev R.ttSatNl (n : Nat) : Nat := 0x10001c + 0x1000 * n
/-- TT_ECC_CORR: corrected tile-local memory errors; saturates (09_tensor_tiles.md, R252); one per index 0 to 67. -/
abbrev R.ttEccCorr (n : Nat) : Nat := 0x100020 + 0x1000 * n
/-- TT_JOBS: jobs in which the tile ran; wraps (09_tensor_tiles.md, R252); one per index 0 to 67. -/
abbrev R.ttJobs (n : Nat) : Nat := 0x100024 + 0x1000 * n
/-- TT_LAST_SEED: [15:0] S of the last job (09_tensor_tiles.md, R252); one per index 0 to 67. -/
abbrev R.ttLastSeed (n : Nat) : Nat := 0x100028 + 0x1000 * n
/-- TT_NL0_i: bank NL0 entry i, i = 0 to 255 (09_tensor_tiles.md, R252); 68 by 256 of them. -/
abbrev R.ttNl0 (n : Nat) (j : Nat) : Nat := 0x100800 + 0x1000 * n + 0x4 * j
/-- TT_NL1_i: bank NL1 entry i, i = 0 to 255 (09_tensor_tiles.md, R252); 68 by 256 of them. -/
abbrev R.ttNl1 (n : Nat) (j : Nat) : Nat := 0x100c00 + 0x1000 * n + 0x4 * j
/-- MEM_CTRL: [0] EN: copy engines accept jobs (10_memory_tiers.md, R283). -/
abbrev R.memCtrl : Nat := 0x180000
/-- MEM_ERR: [3] GLIDE_GDR: an access reached GDDR6 in GLIDE, R507; [2] RANGE; [1] BUSY; [0] HOST_WR: a write to a register the host may not write (10_memory_tiers.md, R283). -/
abbrev R.memErr : Nat := 0x180004
/-- MEM_ERR_INFO: [27:24] context; [15:0] register offset or entry index, of the first error while `MEM_ERR` was 0 (10_memory_tiers.md, R283). -/
abbrev R.memErrInfo : Nat := 0x180008
/-- MEM_EVENT: [2] SG_WAIT; [1] RESTORED; [0] EVACUATED (10_memory_tiers.md, R283). -/
abbrev R.memEvent : Nat := 0x18000c
/-- MEM_COPIES: copy jobs ended; wraps (10_memory_tiers.md, R283). -/
abbrev R.memCopies : Nat := 0x180010
/-- MEM_LINES: lines written by copy engines; saturates (10_memory_tiers.md, R283). -/
abbrev R.memLines : Nat := 0x180014
/-- MEM_SG_WAIT_CNT: start-gate copies that waited; saturates (10_memory_tiers.md, R283). -/
abbrev R.memSgWaitCnt : Nat := 0x180018
/-- MEM_SLAB_ECC_CORR: corrected slab words; saturates (10_memory_tiers.md, R283). -/
abbrev R.memSlabEccCorr : Nat := 0x18001c
/-- MEM_SLAB_ECC_UNCORR: uncorrectable slab words; saturates (10_memory_tiers.md, R283). -/
abbrev R.memSlabEccUncorr : Nat := 0x180020
/-- MEM_EVAC_CNT: evacuations; saturates (10_memory_tiers.md, R283). -/
abbrev R.memEvacCnt : Nat := 0x180024
/-- MEM_FW_GDR: firmware GDDR6 region size, 1 MiB units, under R575 (10_memory_tiers.md, R283). -/
abbrev R.memFwGdr : Nat := 0x180028
/-- MEM_SYS_SLAB: [25:16] base; [9:0] size; 64 KiB units (10_memory_tiers.md, R283). -/
abbrev R.memSysSlab : Nat := 0x180040
/-- MEM_SYS_GDR: [31:16] base; [15:0] size; 1 MiB units (10_memory_tiers.md, R283). -/
abbrev R.memSysGdr : Nat := 0x180044
/-- MEM_CTXc_QUOTA_TILE: [7:0] 4 KiB units, 0 to 128 (10_memory_tiers.md, R283); one per index 0 to 15. -/
abbrev R.memCtxQuotaTile (n : Nat) : Nat := 0x180100 + 0x40 * n
/-- MEM_CTXc_QUOTA_SLAB: [9:0] 64 KiB units, 0 to 704 (10_memory_tiers.md, R283); one per index 0 to 15. -/
abbrev R.memCtxQuotaSlab (n : Nat) : Nat := 0x180104 + 0x40 * n
/-- MEM_CTXc_QUOTA_LSE: [7:0] 64 KiB units, 0 to 128 (10_memory_tiers.md, R283); one per index 0 to 15. -/
abbrev R.memCtxQuotaLse (n : Nat) : Nat := 0x180108 + 0x40 * n
/-- MEM_CTXc_QUOTA_GDR: [15:0] 1 MiB units, 0 to 30,720 (10_memory_tiers.md, R283); one per index 0 to 15. -/
abbrev R.memCtxQuotaGdr (n : Nat) : Nat := 0x18010c + 0x40 * n
/-- MEM_CTXc_WIN_TILE: [31:16] base; [15:0] size (10_memory_tiers.md, R283); one per index 0 to 15. -/
abbrev R.memCtxWinTile (n : Nat) : Nat := 0x180110 + 0x40 * n
/-- MEM_CTXc_WIN_SLAB: [31:16] base; [15:0] size (10_memory_tiers.md, R283); one per index 0 to 15. -/
abbrev R.memCtxWinSlab (n : Nat) : Nat := 0x180114 + 0x40 * n
/-- MEM_CTXc_WIN_LSE: [31:16] base; [15:0] size (10_memory_tiers.md, R283); one per index 0 to 15. -/
abbrev R.memCtxWinLse (n : Nat) : Nat := 0x180118 + 0x40 * n
/-- MEM_CTXc_WIN_GDR: [31:16] base; [15:0] size (10_memory_tiers.md, R283); one per index 0 to 15. -/
abbrev R.memCtxWinGdr (n : Nat) : Nat := 0x18011c + 0x40 * n
/-- MEM_CTXc_STATE: [31] LOADED; [19:16] neighbour slots; [15:0] copy plans loaded (10_memory_tiers.md, R283); one per index 0 to 15. -/
abbrev R.memCtxState (n : Nat) : Nat := 0x180120 + 0x40 * n
/-- MEM_NBRj: grant j, per the MEM_NBRj field table (10_memory_tiers.md, R283); one per index 0 to 15. -/
abbrev R.memNbr (n : Nat) : Nat := 0x180800 + 0x4 * n
/-- MEM_REDIRn: redirect of TTn's range, per the MEM_REDIRn field table (10_memory_tiers.md, R283); one per index 0 to 67. -/
abbrev R.memRedir (n : Nat) : Nat := 0x180900 + 0x4 * n
/-- MEM_CEe_STATUS: engine e = 0 to 15: [31] BUSY; [27:24] context; [15:0] entries done (10_memory_tiers.md, R283); one per index 0 to 15. -/
abbrev R.memCeStatus (n : Nat) : Nat := 0x180b00 + 0x4 * n
/-- GDR_CFG: [8] DENS from the strap; [4:0] data rate, Gb/s per pin, 14 to 20 (10_memory_tiers.md, R284). -/
abbrev R.gdrCfg : Nat := 0x190000
/-- GDR_STATUS: [31:16] channels trained, bit k for Gk; [2] SELF_REFRESH; [0] READY (10_memory_tiers.md, R284). -/
abbrev R.gdrStatus : Nat := 0x190004
/-- GDR_EVENT: [3] RETRAIN_FAIL; [2] EDC_FAIL; [1] UNCORR; [0] CORR (10_memory_tiers.md, R284). -/
abbrev R.gdrEvent : Nat := 0x190008
/-- GDR_ECC_CORR: corrected lines; saturates (10_memory_tiers.md, R284). -/
abbrev R.gdrEccCorr : Nat := 0x19000c
/-- GDR_ECC_UNCORR: uncorrectable lines; saturates (10_memory_tiers.md, R284). -/
abbrev R.gdrEccUncorr : Nat := 0x190010
/-- GDR_ERR_ADDR_LO: device address [31:0] of the first uncorrectable line while `UNCORR` was 0; a read captures (10_memory_tiers.md, R284). -/
abbrev R.gdrErrAddrLo : Nat := 0x190014
/-- GDR_ERR_ADDR_HI: captured [47:32] (10_memory_tiers.md, R284). -/
abbrev R.gdrErrAddrHi : Nat := 0x190018
/-- GDR_EDC_RETRY: repeated bursts; saturates (10_memory_tiers.md, R284). -/
abbrev R.gdrEdcRetry : Nat := 0x19001c
/-- GDR_RETRY: [2:0] MAX, 1 to 7; 0 is taken as 1 (10_memory_tiers.md, R284). -/
abbrev R.gdrRetry : Nat := 0x190020
/-- GDR_RETRAIN: [15:0] INT, ms, 16 to 65,535; smaller values are taken as 16 (10_memory_tiers.md, R284). -/
abbrev R.gdrRetrain : Nat := 0x190024
/-- GDR_RETRAIN_CNT: periodic and forced retrains; saturates (10_memory_tiers.md, R284). -/
abbrev R.gdrRetrainCnt : Nat := 0x190028
/-- GDR_SCRUB: [31] EN; [15:0] PASS, minutes, 10 to 65,535 (10_memory_tiers.md, R284). -/
abbrev R.gdrScrub : Nat := 0x19002c
/-- GDR_SCRUB_POS: patrol position, 1 MiB units (10_memory_tiers.md, R284). -/
abbrev R.gdrScrubPos : Nat := 0x190030
/-- GDR_CHk_STATUS: channel k = 0 to 15: [31:16] EDC retries, saturating; [1] HELD: retraining; [0] TRAINED (10_memory_tiers.md, R284); one per index 0 to 15. -/
abbrev R.gdrChStatus (n : Nat) : Nat := 0x190100 + 0x4 * n
/-- TFU_CTRL: [0] EN: jobs accepted (11_fusion_and_tracks.md, R310). -/
abbrev R.tfuCtrl : Nat := 0x1a0000
/-- TFU_STATUS: [8] BUSY; [5:4] IMU source; [1:0] MODE (11_fusion_and_tracks.md, R310). -/
abbrev R.tfuStatus : Nat := 0x1a0004
/-- TFU_ERR: [2] BUSY; [1] CFG; [0] JOB (11_fusion_and_tracks.md, R310). -/
abbrev R.tfuErr : Nat := 0x1a0008
/-- TFU_ERR_INFO: [31:16] job-block byte or register offset; [7:0] opcode, of the first error while `TFU_ERR` was 0 (11_fusion_and_tracks.md, R310). -/
abbrev R.tfuErrInfo : Nat := 0x1a000c
/-- TFU_EVENT: [6] CALREF; [5] COV_SAT; [4] NUMERIC; [3] MODE; [2] IMU_SWITCH; [1] IMU_LOST; [0] RESET applied (11_fusion_and_tracks.md, R310). -/
abbrev R.tfuEvent : Nat := 0x1a0010
/-- TFU_EGO_CFG: ego filter set-up (11_fusion_and_tracks.md, R310). -/
abbrev R.tfuEgoCfg : Nat := 0x1a0014
/-- TFU_AID_TMO: aiding timeout, ns (100,000,000) (11_fusion_and_tracks.md, R310). -/
abbrev R.tfuAidTmo : Nat := 0x1a0018
/-- TFU_GRAV: gravity magnitude, UQ16.16 m/s² (9.8066) (11_fusion_and_tracks.md, R310). -/
abbrev R.tfuGrav : Nat := 0x1a001c
/-- TFU_GYRO_FS: gyro full scale, UQ16.16 rad/s (11_fusion_and_tracks.md, R310). -/
abbrev R.tfuGyroFs : Nat := 0x1a0020
/-- TFU_ACC_FS: accelerometer full scale, UQ16.16 m/s² (11_fusion_and_tracks.md, R310). -/
abbrev R.tfuAccFs : Nat := 0x1a0024
/-- TFU_POSE_SEQ: sequence of the last pose record (11_fusion_and_tracks.md, R310). -/
abbrev R.tfuPoseSeq : Nat := 0x1a0028
/-- TFU_UPDATES: updates applied; wraps (11_fusion_and_tracks.md, R310). -/
abbrev R.tfuUpdates : Nat := 0x1a002c
/-- TFU_NUMERIC_CNT: floored diagonals and refused updates; saturates (11_fusion_and_tracks.md, R310). -/
abbrev R.tfuNumericCnt : Nat := 0x1a0030
/-- TFU_COVSAT_CNT: covariance saturations; saturates (11_fusion_and_tracks.md, R310). -/
abbrev R.tfuCovsatCnt : Nat := 0x1a0034
/-- TFU_INNOV_LO: innovation ring device address [31:0]; bits [5:0] read 0 (11_fusion_and_tracks.md, R310). -/
abbrev R.tfuInnovLo : Nat := 0x1a0040
/-- TFU_INNOV_HI: [15:0] device address [47:32] (11_fusion_and_tracks.md, R310). -/
abbrev R.tfuInnovHi : Nat := 0x1a0044
/-- TFU_INNOV_CFG: [31:16] INNOV_SEM, 0xFFFF none; [3:0] NINNOV, 4 to 12 (11_fusion_and_tracks.md, R310). -/
abbrev R.tfuInnovCfg : Nat := 0x1a0048
/-- TFU_INNOV_SEQ: sequence of the last innovation record (11_fusion_and_tracks.md, R310). -/
abbrev R.tfuInnovSeq : Nat := 0x1a004c
/-- TFU_CALREF: bit n: refinement enabled for camera slot n (11_fusion_and_tracks.md, R310). -/
abbrev R.tfuCalref : Nat := 0x1a0060
/-- TFU_CALREF_ROT: rotation limit per epoch, UQ0.32 rad (0.5 mrad) (11_fusion_and_tracks.md, R310). -/
abbrev R.tfuCalrefRot : Nat := 0x1a0064
/-- TFU_CALREF_TRANS: translation limit per epoch, 2^−16 m (2 mm) (11_fusion_and_tracks.md, R310). -/
abbrev R.tfuCalrefTrans : Nat := 0x1a0068
/-- TFU_CALREF_FOCAL: relative focal limit per epoch, UQ0.32 (0.001) (11_fusion_and_tracks.md, R310). -/
abbrev R.tfuCalrefFocal : Nat := 0x1a006c
/-- TFU_CALREF_CENTRE: centre limit per epoch, UQ16.16 px (0.25) (11_fusion_and_tracks.md, R310). -/
abbrev R.tfuCalrefCentre : Nat := 0x1a0070
/-- TFU_CALREF_CLAMP_CNT: clamped refinements; saturates (11_fusion_and_tracks.md, R310). -/
abbrev R.tfuCalrefClampCnt : Nat := 0x1a0074
/-- TFU_CALREF_SKIP_CNT: skipped refinements; saturates (11_fusion_and_tracks.md, R310). -/
abbrev R.tfuCalrefSkipCnt : Nat := 0x1a0078
/-- TFU_OBJk_CFG: [31] EN; [30] CA; [29] INIT, read only (11_fusion_and_tracks.md, R310); one per index 0 to 30. -/
abbrev R.tfuObjCfg (n : Nat) : Nat := 0x1a0100 + 0x10 * n
/-- TFU_OBJk_TRACK: track ID (11_fusion_and_tracks.md, R310); one per index 0 to 30. -/
abbrev R.tfuObjTrack (n : Nat) : Nat := 0x1a0104 + 0x10 * n
/-- TFU_OBJk_Q: process noise density, UQ16.16 (11_fusion_and_tracks.md, R310); one per index 0 to 30. -/
abbrev R.tfuObjQ (n : Nat) : Nat := 0x1a0108 + 0x10 * n
/-- TFU_OBJk_VINIT: initial velocity variance, covariance code in [15:0] (11_fusion_and_tracks.md, R310); one per index 0 to 30. -/
abbrev R.tfuObjVinit (n : Nat) : Nat := 0x1a010c + 0x10 * n
/-- TFU_SENSs_NIS: NIS average, UQ16.16 (11_fusion_and_tracks.md, R310); one per index 0 to 15. -/
abbrev R.tfuSensNis (n : Nat) : Nat := 0x1a0300 + 0x8 * n
/-- TFU_SENSs_CNT: updates from sensor s; wraps (11_fusion_and_tracks.md, R310); one per index 0 to 15. -/
abbrev R.tfuSensCnt (n : Nat) : Nat := 0x1a0304 + 0x8 * n
/-- TFU_EGO_DIAGi: P_ii as stored, Q8.24; 0 beyond n (11_fusion_and_tracks.md, R310); one per index 0 to 23. -/
abbrev R.tfuEgoDiag (n : Nat) : Nat := 0x1a0400 + 0x4 * n
/-- LSE_CTRL: [0] EN: LSE jobs accepted (12_solver_problems.md, R335). -/
abbrev R.lseCtrl : Nat := 0x1c0000
/-- LSE_STATUS: [2] BUILDING; [1] FU_BUSY; [0] AFS_BUSY (12_solver_problems.md, R335). -/
abbrev R.lseStatus : Nat := 0x1c0004
/-- LSE_ERR: [1] HOST_WR; [0] JOB: a job ended with ERR_DESCRIPTOR (12_solver_problems.md, R335). -/
abbrev R.lseErr : Nat := 0x1c0008
/-- LSE_ERR_INFO: [31:16] byte offset in the record or job block; [9:8] 0 header, 1 variable, 2 factor, 3 job block; [7:0] opcode, of the first error while `LSE_ERR` was 0 (12_solver_problems.md, R335). -/
abbrev R.lseErrInfo : Nat := 0x1c000c
/-- LSE_ERR_INDEX: table index of the record that `LSE_ERR_INFO` names (12_solver_problems.md, R335). -/
abbrev R.lseErrIndex : Nat := 0x1c0010
/-- LSE_EVENT: [2] BUILT; [1] PATTERN; [0] DANGLING (12_solver_problems.md, R335). -/
abbrev R.lseEvent : Nat := 0x1c0014
/-- LSE_ASM_PASSES: assembly passes; wraps (12_solver_problems.md, R335). -/
abbrev R.lseAsmPasses : Nat := 0x1c0018
/-- LSE_ASM_FACTORS: factors assembled under rule 4 of R327; saturates (12_solver_problems.md, R335). -/
abbrev R.lseAsmFactors : Nat := 0x1c001c
/-- LSE_DANGLING_CNT: factors skipped for TOMB; saturates (12_solver_problems.md, R335). -/
abbrev R.lseDanglingCnt : Nat := 0x1c0020
/-- LSE_BADMEAS_CNT: INERTIAL factors skipped; saturates (12_solver_problems.md, R335). -/
abbrev R.lseBadmeasCnt : Nat := 0x1c0024
/-- LSE_CHEIRAL_CNT: camera factors under R322; saturates (12_solver_problems.md, R335). -/
abbrev R.lseCheiralCnt : Nat := 0x1c0028
/-- LSE_PREINT_CNT: PREINT jobs ended; wraps (12_solver_problems.md, R335). -/
abbrev R.lsePreintCnt : Nat := 0x1c002c
/-- LSE_BUILD_CNT: BUILD jobs completed with OK; wraps (12_solver_problems.md, R335). -/
abbrev R.lseBuildCnt : Nat := 0x1c0030
/-- LSE_SCHED_SEL: [19:16] context; [5:0] slot shown at 0x0044 to 0x005C (12_solver_problems.md, R335). -/
abbrev R.lseSchedSel : Nat := 0x1c0040
/-- LSE_SCHED_INFO: selected slot, per the LSE_SCHED_INFO field table (12_solver_problems.md, R335). -/
abbrev R.lseSchedInfo : Nat := 0x1c0044
/-- LSE_SCHED_HASH_LO: structure hash [31:0]; a read captures (12_solver_problems.md, R335). -/
abbrev R.lseSchedHashLo : Nat := 0x1c0048
/-- LSE_SCHED_HASH_HI: captured hash [63:32] (12_solver_problems.md, R335). -/
abbrev R.lseSchedHashHi : Nat := 0x1c004c
/-- LSE_SCHED_VARS: V of the schedule (12_solver_problems.md, R335). -/
abbrev R.lseSchedVars : Nat := 0x1c0050
/-- LSE_SCHED_FACTORS: F of the schedule (12_solver_problems.md, R335). -/
abbrev R.lseSchedFactors : Nat := 0x1c0054
/-- LSE_SCHED_GEN: completed builds of the slot since load (12_solver_problems.md, R335). -/
abbrev R.lseSchedGen : Nat := 0x1c0058
/-- LSE_SCHED_MAX: buildable slot: [31:20] reserved; [19:0] maximum poses (12_solver_problems.md, R335). -/
abbrev R.lseSchedMax : Nat := 0x1c005c
/-- LSE_AR_EVENT: [3] COST_SAT: R346; [2] SAT: R345, R354 or R356; [1] CLAMP: R352; [0] RESCALE: R355 or R345 (13_solver_arithmetic.md, R358). -/
abbrev R.lseArEvent : Nat := 0x1c0400
/-- LSE_RESCALE_CNT: rescales since reset; saturates (13_solver_arithmetic.md, R358). -/
abbrev R.lseRescaleCnt : Nat := 0x1c0404
/-- LSE_SAT_CNT: solves ended with ERR_SATURATION; saturates (13_solver_arithmetic.md, R358). -/
abbrev R.lseSatCnt : Nat := 0x1c0408
/-- LSE_CLAMP_CNT: pivots clamped; saturates (13_solver_arithmetic.md, R358). -/
abbrev R.lseClampCnt : Nat := 0x1c040c
/-- LSE_AR_LAST: last rescale: [26:24] group kind; [22:20] k; [19:0] supernode (13_solver_arithmetic.md, R358). -/
abbrev R.lseArLast : Nat := 0x1c0410
/-- LSE_CLAMP_LAST: last clamp: [28:20] column within the supernode, 0 to 383; [19:0] supernode (13_solver_arithmetic.md, R358). -/
abbrev R.lseClampLast : Nat := 0x1c0414
/-- LSE_LAMBDA: [7:0] Λ of the running or last solve, signed (13_solver_arithmetic.md, R358). -/
abbrev R.lseLambda : Nat := 0x1c0418
/-- LSE_MEM_ECC_CORR: corrected LSE memory words, R255; saturates (13_solver_arithmetic.md, R358). -/
abbrev R.lseMemEccCorr : Nat := 0x1c041c
/-- LSE_MEM_ECC_UNCORR: uncorrectable LSE memory words; saturates (13_solver_arithmetic.md, R358). -/
abbrev R.lseMemEccUncorr : Nat := 0x1c0420
/-- LSE_HRg: headroom of group kind g = 0 to 6, per the LSE_HRg field table (13_solver_arithmetic.md, R358); one per index 0 to 6. -/
abbrev R.lseHr (n : Nat) : Nat := 0x1c0440 + 0x4 * n
/-- LSE_SOLVE_STATE: running solve, per the LSE_SOLVE_STATE field table (14_solver_control.md, R376). -/
abbrev R.lseSolveState : Nat := 0x1c0800
/-- LSE_SOLVES: solves ended; wraps (14_solver_control.md, R376). -/
abbrev R.lseSolves : Nat := 0x1c0804
/-- LSE_CTL_EVENT: [3] FAULT; [2] COLD; [1] CAPPED; [0] DEADLINE (14_solver_control.md, R376). -/
abbrev R.lseCtlEvent : Nat := 0x1c0808
/-- LSE_DL_MISS_CNT: solves ended with ERR_DEADLINE; saturates (14_solver_control.md, R376). -/
abbrev R.lseDlMissCnt : Nat := 0x1c080c
/-- LSE_CAPPED_CNT: solves ended on the cap; saturates (14_solver_control.md, R376). -/
abbrev R.lseCappedCnt : Nat := 0x1c0810
/-- LSE_WARM_PARTIAL_CNT: partial warm starts; saturates (14_solver_control.md, R376). -/
abbrev R.lseWarmPartialCnt : Nat := 0x1c0814
/-- LSE_COLD_CNT: warm starts dropped; saturates (14_solver_control.md, R376). -/
abbrev R.lseColdCnt : Nat := 0x1c0818
/-- LSE_PATTERN_CNT: solves ended with ERR_PATTERN; saturates (14_solver_control.md, R376). -/
abbrev R.lsePatternCnt : Nat := 0x1c081c
/-- LSE_WS_MATCHED: M of the running or last solve (14_solver_control.md, R376). -/
abbrev R.lseWsMatched : Nat := 0x1c0820
/-- LSE_LAST_MARGIN: deadline less end DT of the last solve with a deadline, signed ns, saturated (14_solver_control.md, R376). -/
abbrev R.lseLastMargin : Nat := 0x1c0824
/-- LSE_LAST_END: last solve: [31:24] status; [15:8] iterations accepted; [7:0] iterations completed (14_solver_control.md, R376). -/
abbrev R.lseLastEnd : Nat := 0x1c0828
/-- PRS_CTRL: [0] EN: jobs accepted (15_place_recognition.md, R402). -/
abbrev R.prsCtrl : Nat := 0x2a0000
/-- PRS_STATUS: [8] DEGRADED: a channel is lost; [4] SIDE_FULL; [1] BUSY; [0] DEFINED: an index is defined in the committed epoch (15_place_recognition.md, R402). -/
abbrev R.prsStatus : Nat := 0x2a0004
/-- PRS_ERR: [1] HOST_WR; [0] JOB (15_place_recognition.md, R402). -/
abbrev R.prsErr : Nat := 0x2a0008
/-- PRS_ERR_INFO: [31:16] job-block byte offset; [7:0] opcode, of the first error while `PRS_ERR` was 0 (15_place_recognition.md, R402). -/
abbrev R.prsErrInfo : Nat := 0x2a000c
/-- PRS_EVENT: [3] PAGE_LOST; [2] MARGIN_CAPPED; [1] SIDE_HIGH: `PRS_SIDE_USED` reached `PRS_SIDE_HIGH`; [0] SIDE_FULL (15_place_recognition.md, R402). -/
abbrev R.prsEvent : Nat := 0x2a0010
/-- PRS_QUERIES: queries ended; wraps (15_place_recognition.md, R402). -/
abbrev R.prsQueries : Nat := 0x2a0014
/-- PRS_SHORT_CNT: queries ended with OK_SHORT; saturates (15_place_recognition.md, R402). -/
abbrev R.prsShortCnt : Nat := 0x2a0018
/-- PRS_CAPPED_CNT: queries with MARGIN_CAPPED; saturates (15_place_recognition.md, R402). -/
abbrev R.prsCappedCnt : Nat := 0x2a001c
/-- PRS_PAGE_LOST_CNT: pages skipped under R397; saturates (15_place_recognition.md, R402). -/
abbrev R.prsPageLostCnt : Nat := 0x2a0020
/-- PRS_INSERTS: inserts appended; saturates (15_place_recognition.md, R402). -/
abbrev R.prsInserts : Nat := 0x2a0024
/-- PRS_TOMBS: tombstones appended; saturates (15_place_recognition.md, R402). -/
abbrev R.prsTombs : Nat := 0x2a0028
/-- PRS_SIDE_USED: side-list entries held, 0 to 16,777,216 (15_place_recognition.md, R402). -/
abbrev R.prsSideUsed : Nat := 0x2a002c
/-- PRS_SIDE_HIGH: side-list warning level, entries (12,582,912) (15_place_recognition.md, R402). -/
abbrev R.prsSideHigh : Nat := 0x2a0030
/-- PRS_CFG: [27:24] CTX, index context; [9:0] CPROG, centroid program (15_place_recognition.md, R402). -/
abbrev R.prsCfg : Nat := 0x2a0034
/-- PRS_INDEX: [31:16] C − 1; [11:8] DSH; [3:0] TSH; 0 when no index is defined (15_place_recognition.md, R402). -/
abbrev R.prsIndex : Nat := 0x2a0038
/-- PRS_LAST_QUERY: last query: [31:24] status; [23:16] flags [7:0]; [8:0] count (15_place_recognition.md, R402). -/
abbrev R.prsLastQuery : Nat := 0x2a003c
/-- PRS_LAST_US: end DT less accept DT of the last query, µs; saturates (15_place_recognition.md, R402). -/
abbrev R.prsLastUs : Nat := 0x2a0040
/-- PRS_SUs_PAGES: pages scanned by SUs, s = 0 to 7; saturates (15_place_recognition.md, R402); one per index 0 to 7. -/
abbrev R.prsSuPages (n : Nat) : Nat := 0x2a0100 + 0x4 * n
/-- PRS_SUs_STATUS: [31] BUSY; [30] OFF: channel powered down or lost; [15:0] pages queued (15_place_recognition.md, R402); one per index 0 to 7. -/
abbrev R.prsSuStatus (n : Nat) : Nat := 0x2a0120 + 0x4 * n
/-- MST_CTRL: [1] GROOM_EN; [0] EN: jobs accepted (16_map_store.md, R440). -/
abbrev R.mstCtrl : Nat := 0x280000
/-- MST_STATUS: [10] NOROOT; [9] REPROTECTED; [8] READONLY; [7] DEGRADED; [6:4] lost channel; [3] STOPPED; [2] GROOMING; [1] BUSY; [0] MOUNTED (16_map_store.md, R440). -/
abbrev R.mstStatus : Nat := 0x280004
/-- MST_ERR: [2] PINS; [1] HOST_WR; [0] JOB (16_map_store.md, R440). -/
abbrev R.mstErr : Nat := 0x280008
/-- MST_ERR_INFO: [31:16] job-block byte offset; [7:0] opcode, of the first error while `MST_ERR` was 0 (16_map_store.md, R440). -/
abbrev R.mstErrInfo : Nat := 0x28000c
/-- MST_EVENT: [5] PWR_FAIL; [4] RECOVERED; [3] CHANNEL_LOST; [2] JRNL_FULL; [1] PIN: a PIN or UNPIN completed; [0] COMMIT (16_map_store.md, R440). -/
abbrev R.mstEvent : Nat := 0x280010
/-- MST_FORMAT: [31:24] KEY (16_map_store.md, R440). -/
abbrev R.mstFormat : Nat := 0x280014
/-- MST_COMMITS: commits since mount; wraps (16_map_store.md, R440). -/
abbrev R.mstCommits : Nat := 0x280018
/-- MST_PINS: [1:0] epochs pinned (16_map_store.md, R440). -/
abbrev R.mstPins : Nat := 0x28001c
/-- MST_PINi_LO: pinned epoch i [31:0], i = 0 to 2; 0 none; a read captures (16_map_store.md, R440); one per index 0 to 2. -/
abbrev R.mstPinLo (n : Nat) : Nat := 0x280020 + 0x8 * n
/-- MST_PINi_HI: captured [63:32] (16_map_store.md, R440); one per index 0 to 2. -/
abbrev R.mstPinHi (n : Nat) : Nat := 0x280024 + 0x8 * n
/-- MST_JRNL_USED: journal stripes since the checkpoint (16_map_store.md, R440). -/
abbrev R.mstJrnlUsed : Nat := 0x280040
/-- MST_JRNL_MAX: journal limit, stripes, 256 to 65,535 (4,096) (16_map_store.md, R440). -/
abbrev R.mstJrnlMax : Nat := 0x280044
/-- MST_GROOM_BW: [7:0] groomer cap, 1/256 of channel time (64) (16_map_store.md, R440). -/
abbrev R.mstGroomBw : Nat := 0x280048
/-- MST_GROOM_SIDE: side-list fold level, entries (8,388,608) (16_map_store.md, R440). -/
abbrev R.mstGroomSide : Nat := 0x28004c
/-- MST_GROOM_FREE: free-zone target (64) (16_map_store.md, R440). -/
abbrev R.mstGroomFree : Nat := 0x280050
/-- MST_WEAR_GAP: erase-count spread, 16 to 65,535 (200) (16_map_store.md, R440). -/
abbrev R.mstWearGap : Nat := 0x280054
/-- MST_REFRESH_THR: corrected bits per codeword, 16 to 140 (96) (16_map_store.md, R440). -/
abbrev R.mstRefreshThr : Nat := 0x280058
/-- MST_CAP: usable native capacity, MiB (16_map_store.md, R440). -/
abbrev R.mstCap : Nat := 0x28005c
/-- MST_FREE: free native capacity, MiB (16_map_store.md, R440). -/
abbrev R.mstFree : Nat := 0x280060
/-- MST_ZONES_FREE: free zones (16_map_store.md, R440). -/
abbrev R.mstZonesFree : Nat := 0x280064
/-- MST_ERASE_SPREAD: [31:16] greatest; [15:0] least erase count, saturating (16_map_store.md, R440). -/
abbrev R.mstEraseSpread : Nat := 0x280068
/-- MST_DANGLING: edges of the committed epoch that name a tombstoned KEYFRAME (16_map_store.md, R440). -/
abbrev R.mstDangling : Nat := 0x28006c
/-- MST_MOUNT_US: duration of the last mount, µs (16_map_store.md, R440). -/
abbrev R.mstMountUs : Nat := 0x280070
/-- MST_BBX_DROP: black-box records not mirrored; saturates (16_map_store.md, R440). -/
abbrev R.mstBbxDrop : Nat := 0x280074
/-- MST_PAGES_LOST: pages lost under R438; saturates (16_map_store.md, R440). -/
abbrev R.mstPagesLost : Nat := 0x280078
/-- MST_REPROT_LEFT: stripes still to re-protect (16_map_store.md, R440). -/
abbrev R.mstReprotLeft : Nat := 0x28007c
/-- FLC_CTRL: [1] IO18: 1.8 V I/O parts; [0] EN (16_map_store.md, R441); one per index 0 to 7. -/
abbrev R.flcCtrl (n : Nat) : Nat := 0x200000 + 0x10000 * n
/-- FLC_STATUS: [31] LOST; [30:18] reserved; [17] BUSY; [16] TRAINED; [15:0] dies answering, bit 4 × CE + LUN, 0 to 15 (16_map_store.md, R441); one per index 0 to 7. -/
abbrev R.flcStatus (n : Nat) : Nat := 0x200004 + 0x10000 * n
/-- FLC_EVENT: [4] LOST; [3] BAD_BLOCK; [2] UNCORR; [1] RETRY: stage 2 or 3 used; [0] CORR (16_map_store.md, R441); one per index 0 to 7. -/
abbrev R.flcEvent (n : Nat) : Nat := 0x200008 + 0x10000 * n
/-- FLC_RATE: [11:0] MT/s, 800 to 2,400 (2,400) (16_map_store.md, R441); one per index 0 to 7. -/
abbrev R.flcRate (n : Nat) : Nat := 0x20000c + 0x10000 * n
/-- FLC_CORR_CW: codewords corrected at stage 1; saturates (16_map_store.md, R441); one per index 0 to 7. -/
abbrev R.flcCorrCw (n : Nat) : Nat := 0x200010 + 0x10000 * n
/-- FLC_RETRY_CW: codewords corrected at stage 2 or 3; saturates (16_map_store.md, R441); one per index 0 to 7. -/
abbrev R.flcRetryCw (n : Nat) : Nat := 0x200014 + 0x10000 * n
/-- FLC_UNCORR_CW: uncorrectable codewords; saturates (16_map_store.md, R441); one per index 0 to 7. -/
abbrev R.flcUncorrCw (n : Nat) : Nat := 0x200018 + 0x10000 * n
/-- FLC_MAX_BITS: [7:0] most bits corrected in one codeword since reset (16_map_store.md, R441); one per index 0 to 7. -/
abbrev R.flcMaxBits (n : Nat) : Nat := 0x20001c + 0x10000 * n
/-- FLC_PROG_FAIL: failed programs; saturates (16_map_store.md, R441); one per index 0 to 7. -/
abbrev R.flcProgFail (n : Nat) : Nat := 0x200020 + 0x10000 * n
/-- FLC_ERASE_FAIL: failed erases; saturates (16_map_store.md, R441); one per index 0 to 7. -/
abbrev R.flcEraseFail (n : Nat) : Nat := 0x200024 + 0x10000 * n
/-- FLC_BAD_BLOCKS: [31:16] grown; [15:0] factory (16_map_store.md, R441); one per index 0 to 7. -/
abbrev R.flcBadBlocks (n : Nat) : Nat := 0x200028 + 0x10000 * n
/-- FLC_TIMEOUTS: ready timeouts; saturates (16_map_store.md, R441); one per index 0 to 7. -/
abbrev R.flcTimeouts (n : Nat) : Nat := 0x20002c + 0x10000 * n
/-- FLC_READS: pages read; wraps (16_map_store.md, R441); one per index 0 to 7. -/
abbrev R.flcReads (n : Nat) : Nat := 0x200030 + 0x10000 * n
/-- FLC_PROGS: pages programmed; wraps (16_map_store.md, R441); one per index 0 to 7. -/
abbrev R.flcProgs (n : Nat) : Nat := 0x200034 + 0x10000 * n
/-- FLC_ERASES: blocks erased; wraps (16_map_store.md, R441); one per index 0 to 7. -/
abbrev R.flcErases (n : Nat) : Nat := 0x200038 + 0x10000 * n
/-- FLC_ERR_ADDR: [31:28] die; [27:0] page address of the first uncorrectable codeword while `UNCORR` was 0 (16_map_store.md, R441); one per index 0 to 7. -/
abbrev R.flcErrAddr (n : Nat) : Nat := 0x20003c + 0x10000 * n
/-- HIF_CTRL: [0] EN: descriptors fetched (17_host_rings.md, R473). -/
abbrev R.hifCtrl : Nat := 0x300000
/-- HIF_STATUS: [23:20] link speed, 1 to 5; [19:16] link width; [0] LINK_UP (17_host_rings.md, R473). -/
abbrev R.hifStatus : Nat := 0x300004
/-- HIF_ERR: [4] WIN_RANGE; [3] FETCH; [2] DB_RANGE; [1] BUSY; [0] CFG (17_host_rings.md, R473). -/
abbrev R.hifErr : Nat := 0x300008
/-- HIF_ERR_INFO: [21:16] ring; [15:0] register or doorbell offset, of the first error while `HIF_ERR` was 0 (17_host_rings.md, R473). -/
abbrev R.hifErrInfo : Nat := 0x30000c
/-- HIF_EVENT: [0] CQ_STALL (17_host_rings.md, R473). -/
abbrev R.hifEvent : Nat := 0x300010
/-- HIF_ERR_VEC: [31] EN; [6:0] vector sent when `HIF_ERR` leaves 0 (17_host_rings.md, R473). -/
abbrev R.hifErrVec : Nat := 0x300014
/-- HIF_WIN_BASE: [21:0] BAR4 window base, device address [47:26] (17_host_rings.md, R473). -/
abbrev R.hifWinBase : Nat := 0x300018
/-- HIF_DESC_CNT: completions written; wraps (17_host_rings.md, R473). -/
abbrev R.hifDescCnt : Nat := 0x30001c
/-- HIF_DISCARD_CNT: completions discarded under R450 and R472; kept through the events of R472; saturates (17_host_rings.md, R473). -/
abbrev R.hifDiscardCnt : Nat := 0x300020
/-- HIF_POSE_LO: pose ring host address [31:0]; bits [6:0] read 0 (17_host_rings.md, R473). -/
abbrev R.hifPoseLo : Nat := 0x300040
/-- HIF_POSE_HI: host address [63:32] (17_host_rings.md, R473). -/
abbrev R.hifPoseHi : Nat := 0x300044
/-- HIF_POSE_CFG: [31] EN; [22:16] vector; [15:8] PINT; [4:0] NPOSE, 4 to 16 (17_host_rings.md, R473). -/
abbrev R.hifPoseCfg : Nat := 0x300048
/-- HIF_POSE_DROP: records not written; saturates (17_host_rings.md, R473). -/
abbrev R.hifPoseDrop : Nat := 0x30004c
/-- HIF_EVT_LO: event ring host address [31:0]; bits [4:0] read 0 (17_host_rings.md, R473). -/
abbrev R.hifEvtLo : Nat := 0x300050
/-- HIF_EVT_HI: host address [63:32] (17_host_rings.md, R473). -/
abbrev R.hifEvtHi : Nat := 0x300054
/-- HIF_EVT_CFG: [31] EN; [22:16] vector; [4:0] NEVT, 4 to 16 (17_host_rings.md, R473). -/
abbrev R.hifEvtCfg : Nat := 0x300058
/-- HIF_EVT_SEQ: sequence of the last event (17_host_rings.md, R473). -/
abbrev R.hifEvtSeq : Nat := 0x30005c
/-- HIF_EVT_DROP: events not written; saturates (17_host_rings.md, R473). -/
abbrev R.hifEvtDrop : Nat := 0x300060
/-- HIF_SQk_BASE_LO: host address [31:0]; bits [5:0] read 0 (17_host_rings.md, R473); one per index 0 to 63. -/
abbrev R.hifSqBaseLo (n : Nat) : Nat := 0x301000 + 0x20 * n
/-- HIF_SQk_BASE_HI: host address [63:32] (17_host_rings.md, R473); one per index 0 to 63. -/
abbrev R.hifSqBaseHi (n : Nat) : Nat := 0x301004 + 0x20 * n
/-- HIF_SQk_CFG: SQ set-up (17_host_rings.md, R473); one per index 0 to 63. -/
abbrev R.hifSqCfg (n : Nat) : Nat := 0x301008 + 0x20 * n
/-- HIF_SQk_STATUS: [31] ACTIVE; [30] WAITING: head held under R455; [29] STALLED: R450; [15:0] head (17_host_rings.md, R473); one per index 0 to 63. -/
abbrev R.hifSqStatus (n : Nat) : Nat := 0x30100c + 0x20 * n
/-- HIF_SQk_TAIL: [15:0] last tail doorbell (17_host_rings.md, R473); one per index 0 to 63. -/
abbrev R.hifSqTail (n : Nat) : Nat := 0x301010 + 0x20 * n
/-- HIF_SQk_FETCHED: descriptors fetched; wraps (17_host_rings.md, R473); one per index 0 to 63. -/
abbrev R.hifSqFetched (n : Nat) : Nat := 0x301014 + 0x20 * n
/-- HIF_CQk_BASE_LO: host address [31:0]; bits [4:0] read 0 (17_host_rings.md, R473); one per index 0 to 63. -/
abbrev R.hifCqBaseLo (n : Nat) : Nat := 0x302000 + 0x20 * n
/-- HIF_CQk_BASE_HI: host address [63:32] (17_host_rings.md, R473); one per index 0 to 63. -/
abbrev R.hifCqBaseHi (n : Nat) : Nat := 0x302004 + 0x20 * n
/-- HIF_CQk_CFG: CQ set-up (17_host_rings.md, R473); one per index 0 to 63. -/
abbrev R.hifCqCfg (n : Nat) : Nat := 0x302008 + 0x20 * n
/-- HIF_CQk_COAL: [31:16] TIME, µs; [7:0] COUNT, 1 to 255; 0 is taken as 1 (17_host_rings.md, R473); one per index 0 to 63. -/
abbrev R.hifCqCoal (n : Nat) : Nat := 0x30200c + 0x20 * n
/-- HIF_CQk_STATUS: [31] phase; [30] FULL; [29] ARMED; [15:0] tail (17_host_rings.md, R473); one per index 0 to 63. -/
abbrev R.hifCqStatus (n : Nat) : Nat := 0x302010 + 0x20 * n
/-- HIF_CQk_HEAD: [15:0] last head doorbell (17_host_rings.md, R473); one per index 0 to 63. -/
abbrev R.hifCqHead (n : Nat) : Nat := 0x302014 + 0x20 * n
/-- MSI-X table entry v: v = 0 to 127 (17_host_rings.md, R473); one per index 0 to 511. -/
abbrev R.hifMsixTable (n : Nat) : Nat := 0x308000 + 0x4 * n
/-- MSI-X pending-bit array: 128 bits (17_host_rings.md, R473); one per index 0 to 3. -/
abbrev R.hifMsixPba (n : Nat) : Nat := 0x309000 + 0x4 * n
/-- SAFE_CTRL: [0] ROT_EN (18_faults_and_black_box.md, R497). -/
abbrev R.safeCtrl : Nat := 0x310000
/-- SAFE_STATUS: unit states (18_faults_and_black_box.md, R497). -/
abbrev R.safeStatus : Nat := 0x310004
/-- SAFE_EVENT: [6] BBX_DROP; [5] LATENT_FAIL; [4] UNIT_FAILED; [3] STANDBY_LOST; [2] SELFTEST_FAIL; [1] TAKEOVER; [0] TRANSIENT (18_faults_and_black_box.md, R497). -/
abbrev R.safeEvent : Nat := 0x310008
/-- SAFE_ERR: [0] HOST_WR (18_faults_and_black_box.md, R497). -/
abbrev R.safeErr : Nat := 0x31000c
/-- SAFE_TRANSIENT_CNT: transients; saturates (18_faults_and_black_box.md, R497). -/
abbrev R.safeTransientCnt : Nat := 0x310010
/-- SAFE_SWITCH_CNT: control-pair switchovers; saturates (18_faults_and_black_box.md, R497). -/
abbrev R.safeSwitchCnt : Nat := 0x310014
/-- SAFE_ROT_INT: rotation step interval per piste, µs, 4,000 to 1,000,000 (16,000) (18_faults_and_black_box.md, R497). -/
abbrev R.safeRotInt : Nat := 0x310018
/-- SAFE_ROT_WAIT: job-boundary wait, µs, 100 to 100,000 (2,000) (18_faults_and_black_box.md, R497). -/
abbrev R.safeRotWait : Nat := 0x31001c
/-- SAFE_ROT_SKIP: skipped steps; saturates (18_faults_and_black_box.md, R497). -/
abbrev R.safeRotSkip : Nat := 0x310020
/-- SAFE_ROT_POS: next logical tile: [27:21] P3; [20:14] P2; [13:7] P1; [6:0] P0 (18_faults_and_black_box.md, R497). -/
abbrev R.safeRotPos : Nat := 0x310024
/-- SAFE_RETIRE: [31:16] WINDOW, s (600); [7:0] COUNT, 1 to 255 (4) (18_faults_and_black_box.md, R497). -/
abbrev R.safeRetire : Nat := 0x310028
/-- SAFE_PTEST_INT: periodic test interval, µs, 500 to 4,000 (4,000) (18_faults_and_black_box.md, R497). -/
abbrev R.safePtestInt : Nat := 0x31002c
/-- SAFE_LATENT_INT: checker injection interval, ms, 10 to 1,000 (100) (18_faults_and_black_box.md, R497). -/
abbrev R.safeLatentInt : Nat := 0x310030
/-- SAFE_MIRROR_AGE: µs since the last mirror; saturates (18_faults_and_black_box.md, R497). -/
abbrev R.safeMirrorAge : Nat := 0x310034
/-- SAFE_LAST_FAULT: [31:16] event code; [15:0] unit, of the last record of this chapter (18_faults_and_black_box.md, R497). -/
abbrev R.safeLastFault : Nat := 0x310038
/-- SAFE_BBX_SEQ: next black-box sequence (18_faults_and_black_box.md, R497). -/
abbrev R.safeBbxSeq : Nat := 0x31003c
/-- SAFE_BBX_DROP: records dropped under R495; saturates (18_faults_and_black_box.md, R497). -/
abbrev R.safeBbxDrop : Nat := 0x310040
/-- SAFE_BBX_PINNED: [31] PIN_OVERLAP; [9:0] records pinned (18_faults_and_black_box.md, R497). -/
abbrev R.safeBbxPinned : Nat := 0x310044
/-- SAFE_BOOT_CNT: boot count (18_faults_and_black_box.md, R497). -/
abbrev R.safeBootCnt : Nat := 0x310048
/-- PWR_STATUS: state and clock (19_power_clocks_thermal.md, R520). -/
abbrev R.pwrStatus : Nat := 0x320000
/-- PWR_REQ: [1:0] target: 0b00 RUN; 0b01 GLIDE; 0b10 HOLD; 0b11 refused (19_power_clocks_thermal.md, R520). -/
abbrev R.pwrReq : Nat := 0x320004
/-- PWR_ERR: [1] PARK; [0] REQ (19_power_clocks_thermal.md, R520). -/
abbrev R.pwrErr : Nat := 0x320008
/-- PWR_ERR_INFO: [3:0] reason of the first refusal while `PWR_ERR` was 0 (19_power_clocks_thermal.md, R520). -/
abbrev R.pwrErrInfo : Nat := 0x32000c
/-- PWR_EVENT: [4] PSTATE; [3] THROTTLE; [2] ALARM; [1] LIMIT; [0] PWR_FAIL (19_power_clocks_thermal.md, R520). -/
abbrev R.pwrEvent : Nat := 0x320010
/-- PWR_GLIDE_CFG: [9:8] inertial slot; [3:0] frame stream slot (19_power_clocks_thermal.md, R520). -/
abbrev R.pwrGlideCfg : Nat := 0x320014
/-- PWR_CAP: sustained cap, mW, 10,000 to 40,000; other values taken as 40,000 (19_power_clocks_thermal.md, R520). -/
abbrev R.pwrCap : Nat := 0x320018
/-- PWR_NOW: last sample, mW (19_power_clocks_thermal.md, R520). -/
abbrev R.pwrNow : Nat := 0x32001c
/-- PWR_AVG: window mean, mW (19_power_clocks_thermal.md, R520). -/
abbrev R.pwrAvg : Nat := 0x320020
/-- PWR_EXCESS: E, µs (19_power_clocks_thermal.md, R520). -/
abbrev R.pwrExcess : Nat := 0x320024
/-- PWR_TJ: [20:16] hottest sensor; [15:0] Tj, signed, 1/16 °C (19_power_clocks_thermal.md, R520). -/
abbrev R.pwrTj : Nat := 0x320028
/-- PWR_TJ_MAX: [15:0] highest Tj since power-on, 1/16 °C (19_power_clocks_thermal.md, R520). -/
abbrev R.pwrTjMax : Nat := 0x32002c
/-- PWR_TALARM: alarm, °C, 60 to 104 (19_power_clocks_thermal.md, R520). -/
abbrev R.pwrTalarm : Nat := 0x320030
/-- PWR_LIMIT_CNT: entries to LIMIT; saturates (19_power_clocks_thermal.md, R520). -/
abbrev R.pwrLimitCnt : Nat := 0x320034
/-- PWR_THROT_US: µs with ARRAY_CLK below 2.0 GHz; saturates (19_power_clocks_thermal.md, R520). -/
abbrev R.pwrThrotUs : Nat := 0x320038
/-- PWR_WAKE_EN: [4] timer; [3] PCIe wake; [2] Acser chip select; [1] TRIG inputs with `WAKE`; [0] PPS (19_power_clocks_thermal.md, R520). -/
abbrev R.pwrWakeEn : Nat := 0x32003c
/-- PWR_WAKE_TIMER: HOLD wake delay, s; 0 none (19_power_clocks_thermal.md, R520). -/
abbrev R.pwrWakeTimer : Nat := 0x320040
/-- PWR_WAKE_CAUSE: [4:0] bits of `PWR_WAKE_EN` that woke the last exit (19_power_clocks_thermal.md, R520). -/
abbrev R.pwrWakeCause : Nat := 0x320044
/-- PWR_DOM_ONw: w = 0 to 2: bit b set while domain 32w + b is on (19_power_clocks_thermal.md, R520); one per index 0 to 2. -/
abbrev R.pwrDomOn (n : Nat) : Nat := 0x320050 + 0x4 * n
/-- PWR_PARK: [10:8] domains 92 to 94; [7:0] domains 76 to 83, with bits 6 and 7 set and cleared together (19_power_clocks_thermal.md, R520). -/
abbrev R.pwrPark : Nat := 0x320060
/-- SEC_STATUS: security state (20_security_and_acser.md, R543). -/
abbrev R.secStatus : Nat := 0x330000
/-- SEC_LOCK: [31:24] KEY; 0x3C sets the lock (20_security_and_acser.md, R543). -/
abbrev R.secLock : Nat := 0x330004
/-- SEC_ERR: [2] HOST_WR; [1] LOCK; [0] COMMIT (20_security_and_acser.md, R543). -/
abbrev R.secErr : Nat := 0x330008
/-- SEC_EVENT: [3] ACSER_AUTH; [2] AUTH_FAIL; [1] LOCKED; [0] FALLBACK (20_security_and_acser.md, R543). -/
abbrev R.secEvent : Nat := 0x33000c
/-- SEC_FW_SVN: SVN of the running firmware (20_security_and_acser.md, R543). -/
abbrev R.secFwSvn : Nat := 0x330010
/-- SEC_FUSE_SVN: minimum firmware SVN, 0 to 64 (20_security_and_acser.md, R543). -/
abbrev R.secFuseSvn : Nat := 0x330014
/-- SEC_VR_CNT: minimum version-record counter, 0 to 64 (20_security_and_acser.md, R543). -/
abbrev R.secVrCnt : Nat := 0x330018
/-- SEC_SVN_COMMIT: [31:24] KEY 0x96; [1] VR; [0] FW (20_security_and_acser.md, R543). -/
abbrev R.secSvnCommit : Nat := 0x33001c
/-- SEC_AUTH_FAIL_CNT: LOADs ended with ERR_AUTH; saturates (20_security_and_acser.md, R543). -/
abbrev R.secAuthFailCnt : Nat := 0x330020
/-- SEC_LAST_AUTH: [27:24] context; [7:0] reason, of the last ERR_AUTH (20_security_and_acser.md, R543). -/
abbrev R.secLastAuth : Nat := 0x330024
/-- SEC_DEVIDw: w = 0 to 11: identity key hash, bytes 4w to 4w + 3 (20_security_and_acser.md, R543); one per index 0 to 11. -/
abbrev R.secDevid (n : Nat) : Nat := 0x330040 + 0x4 * n
/-- SEC_FWHASHw: w = 0 to 11: SHA-384 of the running firmware header (20_security_and_acser.md, R543); one per index 0 to 11. -/
abbrev R.secFwhash (n : Nat) : Nat := 0x330080 + 0x4 * n

/-- Rows of the block map at base 0x00000 (R12). -/
def regRows00 : List RegRow := [
  ⟨"GLB_ID", 0x0, (1, 0x1000000), (1, 0x1000000), 0x4807b043, 0x0, 0x0, 0x0, 0x0⟩,
  ⟨"GLB_STRAP", 0x4, (1, 0x1000000), (1, 0x1000000), 0x0, 0x0, 0x0, 0x0, 0x0⟩,
  ⟨"GLB_CAP", 0x8, (1, 0x1000000), (1, 0x1000000), 0x0, 0x0, 0x0, 0x0, 0x0⟩,
  ⟨"GLB_STATUS", 0xc, (1, 0x1000000), (1, 0x1000000), 0x0, 0x0, 0x0, 0x0, 0x0⟩,
  ⟨"GLB_ERR", 0x10, (1, 0x1000000), (1, 0x1000000), 0x0, 0x0, 0x0, 0xf, 0x0⟩,
  ⟨"GLB_ERR_ADDR", 0x14, (1, 0x1000000), (1, 0x1000000), 0x0, 0x0, 0x0, 0x0, 0x0⟩,
  ⟨"GLB_EPOCH_LO", 0x18, (1, 0x1000000), (1, 0x1000000), 0x0, 0x0, 0x0, 0x0, 0x0⟩,
  ⟨"GLB_EPOCH_HI", 0x1c, (1, 0x1000000), (1, 0x1000000), 0x0, 0x0, 0x0, 0x0, 0x0⟩,
  ⟨"GLB_TAKEOVER_CNT", 0x20, (1, 0x1000000), (1, 0x1000000), 0x0, 0x0, 0x0, 0x0, 0x0⟩,
  ⟨"GLB_SCRATCH", 0x24, (1, 0x1000000), (1, 0x1000000), 0x0, 0xffffffff, 0x0, 0x0, 0x0⟩]

/-- Rows of the block map at base 0x10000 (R12). -/
def regRows01_a : List RegRow := [
  ⟨"DT_NOW_LO", 0x10000, (1, 0x1000000), (1, 0x1000000), 0x0, 0x0, 0x0, 0x0, 0x0⟩,
  ⟨"DT_NOW_HI", 0x10004, (1, 0x1000000), (1, 0x1000000), 0x0, 0x0, 0x0, 0x0, 0x0⟩,
  ⟨"DT_NOW_FRAC", 0x10008, (1, 0x1000000), (1, 0x1000000), 0x0, 0x0, 0x0, 0x0, 0x0⟩,
  ⟨"DT_RATE", 0x1000c, (1, 0x1000000), (1, 0x1000000), 0x0, 0x0, 0x0, 0x0, 0x0⟩,
  ⟨"DT_FREQ", 0x10010, (1, 0x1000000), (1, 0x1000000), 0x0, 0x0, 0x0, 0x0, 0x0⟩,
  ⟨"DT_CTRL", 0x10014, (1, 0x1000000), (1, 0x1000000), 0x40420, 0xf0ff3, 0x0, 0x0, 0x0⟩,
  ⟨"DT_STATUS", 0x10018, (1, 0x1000000), (1, 0x1000000), 0x0, 0x0, 0x0, 0x0, 0x0⟩,
  ⟨"DT_EVENT", 0x1001c, (1, 0x1000000), (1, 0x1000000), 0x0, 0x0, 0x0, 0x7f, 0x0⟩,
  ⟨"DT_JUMP_MAX", 0x10020, (1, 0x1000000), (1, 0x1000000), 0xf4240, 0xffffffff, 0x0, 0x0, 0x0⟩,
  ⟨"DT_LOCK_THR", 0x10024, (1, 0x1000000), (1, 0x1000000), 0x3e8, 0xffffffff, 0x0, 0x0, 0x0⟩,
  ⟨"DT_OFFSET_LO", 0x10028, (1, 0x1000000), (1, 0x1000000), 0x0, 0x0, 0x0, 0x0, 0x0⟩,
  ⟨"DT_OFFSET_HI", 0x1002c, (1, 0x1000000), (1, 0x1000000), 0x0, 0x0, 0x0, 0x0, 0x0⟩]
/-- Rows of the block map at base 0x10000, continued. -/
def regRows01_b : List RegRow := [
  ⟨"DT_REFUSE_CNT", 0x10030, (1, 0x1000000), (1, 0x1000000), 0x0, 0x0, 0x0, 0x0, 0x0⟩,
  ⟨"DT_STEP_LO", 0x10034, (1, 0x1000000), (1, 0x1000000), 0x0, 0xffffffff, 0x0, 0x0, 0x0⟩,
  ⟨"DT_STEP_HI", 0x10038, (1, 0x1000000), (1, 0x1000000), 0x0, 0xffffffff, 0x0, 0x0, 0x0⟩,
  ⟨"DT_STEP_CTRL", 0x1003c, (1, 0x1000000), (1, 0x1000000), 0x0, 0x0, 0x0, 0x0, 0xff000003⟩,
  ⟨"DT_PPS_CFG", 0x10040, (1, 0x1000000), (1, 0x1000000), 0x0, 0x3, 0x0, 0x0, 0x0⟩,
  ⟨"DT_PPS_PHASE", 0x10044, (1, 0x1000000), (1, 0x1000000), 0x0, 0xffffffff, 0x0, 0x0, 0x0⟩,
  ⟨"DT_PPS_SEC_LO", 0x10048, (1, 0x1000000), (1, 0x1000000), 0x0, 0xffffffff, 0x0, 0x0, 0x0⟩,
  ⟨"DT_PPS_SEC_HI", 0x1004c, (1, 0x1000000), (1, 0x1000000), 0x0, 0xffffffff, 0x0, 0x0, 0x0⟩,
  ⟨"DT_PPS_STAMP_LO", 0x10050, (1, 0x1000000), (1, 0x1000000), 0x0, 0x0, 0x0, 0x0, 0x0⟩,
  ⟨"DT_PPS_STAMP_HI", 0x10054, (1, 0x1000000), (1, 0x1000000), 0x0, 0x0, 0x0, 0x0, 0x0⟩,
  ⟨"DT_PTP_CFG", 0x10058, (1, 0x1000000), (1, 0x1000000), 0x0, 0xfff, 0x0, 0x0, 0x0⟩,
  ⟨"DT_PTP_LAT", 0x1005c, (1, 0x1000000), (1, 0x1000000), 0x0, 0xffffffff, 0x0, 0x0, 0x0⟩]
/-- Rows of the block map at base 0x10000, continued. -/
def regRows01 : List RegRow := regRows01_a ++ regRows01_b

/-- Rows of the block map at base 0x20000 (R12). -/
def regRows02_a : List RegRow := [
  ⟨"SG_GATEn_CTRL", 0x21000, (1, 0x1000000), (512, 0x20), 0x0, 0xf03d, 0x0, 0x0, 0x0⟩,
  ⟨"SG_GATEn_FIRE_LO", 0x21004, (1, 0x1000000), (512, 0x20), 0x0, 0xffffffff, 0x0, 0x0, 0x0⟩,
  ⟨"SG_GATEn_FIRE_HI", 0x21008, (1, 0x1000000), (512, 0x20), 0x0, 0xffffffff, 0x0, 0x0, 0x0⟩,
  ⟨"SG_GATEn_PERIOD_NS", 0x2100c, (1, 0x1000000), (512, 0x20), 0x0, 0xffffffff, 0x0, 0x0, 0x0⟩,
  ⟨"SG_GATEn_PT", 0x21010, (1, 0x1000000), (512, 0x20), 0x0, 0xffffffff, 0x0, 0x0, 0x0⟩,
  ⟨"SG_GATEn_ARG", 0x21014, (1, 0x1000000), (512, 0x20), 0x0, 0xffffffff, 0x0, 0x0, 0x0⟩,
  ⟨"SG_GATEn_SKIPS", 0x21018, (1, 0x1000000), (512, 0x20), 0x0, 0x0, 0x0, 0x0, 0x0⟩,
  ⟨"SG_GATEn_FIRES", 0x2101c, (1, 0x1000000), (512, 0x20), 0x0, 0x0, 0x0, 0x0, 0x0⟩,
  ⟨"SG_CTRL", 0x20000, (1, 0x1000000), (1, 0x1000000), 0x0, 0x1, 0x0, 0x0, 0x0⟩,
  ⟨"SG_LATE_TOL", 0x20004, (1, 0x1000000), (1, 0x1000000), 0x186a0, 0xffffffff, 0x0, 0x0, 0x0⟩,
  ⟨"SG_ERR", 0x20008, (1, 0x1000000), (1, 0x1000000), 0x0, 0x0, 0x0, 0xf, 0x0⟩,
  ⟨"SG_ERR_GATE", 0x2000c, (1, 0x1000000), (1, 0x1000000), 0x0, 0x0, 0x0, 0x0, 0x0⟩]
/-- Rows of the block map at base 0x20000, continued. -/
def regRows02_b : List RegRow := [
  ⟨"SG_LATE_CNT", 0x20010, (1, 0x1000000), (1, 0x1000000), 0x0, 0x0, 0x0, 0x0, 0x0⟩,
  ⟨"SG_SKIP_CNT", 0x20014, (1, 0x1000000), (1, 0x1000000), 0x0, 0x0, 0x0, 0x0, 0x0⟩,
  ⟨"SG_DELAY_CNT", 0x20018, (1, 0x1000000), (1, 0x1000000), 0x0, 0x0, 0x0, 0x0, 0x0⟩,
  ⟨"SG_TRIG_OVL_CNT", 0x2001c, (1, 0x1000000), (1, 0x1000000), 0x0, 0x0, 0x0, 0x0, 0x0⟩,
  ⟨"SG_COMP_GRAPH", 0x20020, (1, 0x1000000), (1, 0x1000000), 0x18, 0x0, 0x0, 0x0, 0x0⟩,
  ⟨"SG_COMP_SEM", 0x20024, (1, 0x1000000), (1, 0x1000000), 0x14, 0x0, 0x0, 0x0, 0x0⟩,
  ⟨"SG_COMP_TRIG", 0x20028, (1, 0x1000000), (1, 0x1000000), 0x10, 0x0, 0x0, 0x0, 0x0⟩,
  ⟨"SG_COMP_COPY", 0x2002c, (1, 0x1000000), (1, 0x1000000), 0x1c, 0x0, 0x0, 0x0, 0x0⟩,
  ⟨"SG_COMP_SOLVE", 0x20030, (1, 0x1000000), (1, 0x1000000), 0x20, 0x0, 0x0, 0x0, 0x0⟩,
  ⟨"SG_TRIGn_CFG", 0x20040, (1, 0x1000000), (16, 0x4), 0x1, 0x1f7, 0x0, 0x0, 0x0⟩,
  ⟨"SG_TRIGn_STAMP_LO", 0x20100, (1, 0x1000000), (16, 0x8), 0x0, 0x0, 0x0, 0x0, 0x0⟩,
  ⟨"SG_TRIGn_STAMP_HI", 0x20104, (1, 0x1000000), (16, 0x8), 0x0, 0x0, 0x0, 0x0, 0x0⟩]
/-- Rows of the block map at base 0x20000, continued. -/
def regRows02 : List RegRow := regRows02_a ++ regRows02_b

/-- Rows of the block map at base 0x30000 (R12). -/
def regRows03 : List RegRow := [
  ⟨"SEM_STATUS", 0x30000, (1, 0x1000000), (1, 0x1000000), 0x0, 0x0, 0x0, 0x3f, 0x0⟩,
  ⟨"SEM_ERR_IDX", 0x30004, (1, 0x1000000), (1, 0x1000000), 0x0, 0x0, 0x0, 0x0, 0x0⟩,
  ⟨"SEM_OVF_CNT", 0x30008, (1, 0x1000000), (1, 0x1000000), 0x0, 0x0, 0x0, 0x0, 0x0⟩,
  ⟨"SEM_UNF_CNT", 0x3000c, (1, 0x1000000), (1, 0x1000000), 0x0, 0x0, 0x0, 0x0, 0x0⟩,
  ⟨"SEM_POLL", 0x30010, (1, 0x1000000), (1, 0x1000000), 0x20, 0x3ff, 0x0, 0x0, 0x0⟩,
  ⟨"SEM_HAND_CNT", 0x30014, (1, 0x1000000), (1, 0x1000000), 0x0, 0x0, 0x0, 0x0, 0x0⟩,
  ⟨"SEM_HOST_N", 0x30020, (1, 0x1000000), (1, 0x1000000), 0x0, 0xffffffff, 0x0, 0x0, 0x0⟩,
  ⟨"SEM_HOST_OP", 0x30024, (1, 0x1000000), (1, 0x1000000), 0x0, 0x0, 0x0, 0x0, 0xe0000fff⟩,
  ⟨"SEM_SHADOW_BASE_LO", 0x30040, (1, 0x1000000), (1, 0x1000000), 0x0, 0xffffffc0, 0x0, 0x0, 0x0⟩,
  ⟨"SEM_SHADOW_BASE_HI", 0x30044, (1, 0x1000000), (1, 0x1000000), 0x0, 0xffffffff, 0x0, 0x0, 0x0⟩,
  ⟨"SEM_SHADOW_CTRL", 0x30048, (1, 0x1000000), (1, 0x1000000), 0x0, 0x1, 0x0, 0x0, 0x0⟩,
  ⟨"SEM_SHADOWk_CFG", 0x30100, (1, 0x1000000), (64, 0x4), 0x0, 0x80000fff, 0x0, 0x0, 0x0⟩]

/-- Rows of the block map at base 0x50000 (R12). -/
def regRows05_a : List RegRow := [
  ⟨"EVC_CTRL", 0x50000, (1, 0x1000000), (1, 0x1000000), 0x0, 0x1, 0x0, 0x0, 0x0⟩,
  ⟨"EVC_ERR", 0x50004, (1, 0x1000000), (1, 0x1000000), 0x0, 0x0, 0x0, 0x3, 0x0⟩,
  ⟨"EVC_ERR_INFO", 0x50008, (1, 0x1000000), (1, 0x1000000), 0x0, 0x0, 0x0, 0x0, 0x0⟩,
  ⟨"EVC_LEVELk", 0x50040, (1, 0x1000000), (16, 0x4), 0x0, 0x0, 0x0, 0x0, 0x0⟩,
  ⟨"EVC_PENDk", 0x50080, (1, 0x1000000), (16, 0x4), 0x0, 0x0, 0x0, 0x0, 0x0⟩,
  ⟨"EVC_PEND_SETk", 0x500c0, (1, 0x1000000), (16, 0x4), 0x0, 0x0, 0x0, 0x0, 0xffffffff⟩,
  ⟨"EVC_PEND_CLRk", 0x50100, (1, 0x1000000), (16, 0x4), 0x0, 0x0, 0x0, 0xffffffff, 0x0⟩,
  ⟨"EVC_EN_SETt_k", 0x50200, (3, 0x80), (16, 0x4), 0x0, 0x0, 0x0, 0x0, 0xffffffff⟩,
  ⟨"EVC_EN_CLRt_k", 0x50240, (3, 0x80), (16, 0x4), 0x0, 0x0, 0x0, 0xffffffff, 0x0⟩,
  ⟨"EVC_ACTIVEt_k", 0x50400, (3, 0x40), (16, 0x4), 0x0, 0x0, 0x0, 0x0, 0x0⟩,
  ⟨"EVC_SRCn_CFG", 0x51004, (1, 0x1000000), (511, 0x4), 0x0, 0x7ff, 0x0, 0x0, 0x0⟩,
  ⟨"EVC_Tt_CLAIM", 0x52000, (1, 0x1000000), (3, 0x100), 0x0, 0x0, 0x0, 0x0, 0x0⟩]
/-- Rows of the block map at base 0x50000, continued. -/
def regRows05_b : List RegRow := [
  ⟨"EVC_Tt_COMPLETE", 0x52004, (1, 0x1000000), (3, 0x100), 0x0, 0x0, 0x0, 0x0, 0x3ff⟩,
  ⟨"EVC_Tt_PRIGROUP", 0x52008, (1, 0x1000000), (3, 0x100), 0x0, 0x7, 0x0, 0x0, 0x0⟩,
  ⟨"EVC_Tt_RUNNING", 0x5200c, (1, 0x1000000), (3, 0x100), 0x100, 0x0, 0x0, 0x0, 0x0⟩,
  ⟨"EVC_Tt_BEST", 0x52010, (1, 0x1000000), (3, 0x100), 0x0, 0x0, 0x0, 0x0, 0x0⟩]
/-- Rows of the block map at base 0x50000, continued. -/
def regRows05 : List RegRow := regRows05_a ++ regRows05_b

/-- Rows of the block map at base 0x60000 (R12). -/
def regRows06_a : List RegRow := [
  ⟨"ING_CTRL", 0x60000, (1, 0x1000000), (1, 0x1000000), 0x0, 0x1, 0x0, 0x0, 0x0⟩,
  ⟨"ING_ERR", 0x60004, (1, 0x1000000), (1, 0x1000000), 0x0, 0x0, 0x0, 0x7, 0x0⟩,
  ⟨"ING_ERR_INFO", 0x60008, (1, 0x1000000), (1, 0x1000000), 0x0, 0x0, 0x0, 0x0, 0x0⟩,
  ⟨"ING_CSIp_CFG", 0x60100, (1, 0x1000000), (4, 0x40), 0x0, 0x80000007, 0x0, 0x0, 0x0⟩,
  ⟨"ING_CSIp_ECC_CORR", 0x60104, (1, 0x1000000), (4, 0x40), 0x0, 0x0, 0x0, 0x0, 0x0⟩,
  ⟨"ING_CSIp_ECC_UNCORR", 0x60108, (1, 0x1000000), (4, 0x40), 0x0, 0x0, 0x0, 0x0, 0x0⟩,
  ⟨"ING_CSIp_CRC", 0x6010c, (1, 0x1000000), (4, 0x40), 0x0, 0x0, 0x0, 0x0, 0x0⟩,
  ⟨"ING_CSIp_UNMATCHED", 0x60110, (1, 0x1000000), (4, 0x40), 0x0, 0x0, 0x0, 0x0, 0x0⟩,
  ⟨"ING_PAIRp_CFG", 0x60200, (1, 0x1000000), (4, 0x10), 0x0, 0x800f000f, 0x0, 0x0, 0x0⟩,
  ⟨"ING_PAIRp_WAIT", 0x60204, (1, 0x1000000), (4, 0x10), 0x1fca055, 0xffffffff, 0x0, 0x0, 0x0⟩,
  ⟨"ING_PAIRp_SEM", 0x60208, (1, 0x1000000), (4, 0x10), 0xffff, 0xffff, 0x0, 0x0, 0x0⟩,
  ⟨"ING_PAIRp_SKIP", 0x6020c, (1, 0x1000000), (4, 0x10), 0x0, 0x0, 0x0, 0x0, 0x0⟩]
/-- Rows of the block map at base 0x60000, continued. -/
def regRows06_b : List RegRow := [
  ⟨"ING_FSn_CFG", 0x61000, (1, 0x1000000), (16, 0x80), 0x0, 0xfffffc00, 0x0, 0x0, 0x0⟩,
  ⟨"ING_FSn_SIZE", 0x61004, (1, 0x1000000), (16, 0x80), 0x0, 0xffffffff, 0x0, 0x0, 0x0⟩,
  ⟨"ING_FSn_PERIOD", 0x61008, (1, 0x1000000), (16, 0x80), 0x0, 0xffffffff, 0x0, 0x0, 0x0⟩,
  ⟨"ING_FSn_LAT", 0x6100c, (1, 0x1000000), (16, 0x80), 0x0, 0xffffffff, 0x0, 0x0, 0x0⟩,
  ⟨"ING_FSn_TICK", 0x61010, (1, 0x1000000), (16, 0x80), 0x10000, 0xffffffff, 0x0, 0x0, 0x0⟩,
  ⟨"ING_FSn_TSLOC", 0x61014, (1, 0x1000000), (16, 0x80), 0x0, 0xffff0f01, 0x0, 0x0, 0x0⟩,
  ⟨"ING_FSn_EXPOFS", 0x61018, (1, 0x1000000), (16, 0x80), 0x0, 0xffffffff, 0x0, 0x0, 0x0⟩,
  ⟨"ING_FSn_MAP", 0x6101c, (1, 0x1000000), (16, 0x80), 0x310, 0xff3f, 0x0, 0x0, 0x0⟩,
  ⟨"ING_FSn_BUF_LO", 0x61020, (1, 0x1000000), (16, 0x80), 0x0, 0xffff0000, 0x0, 0x0, 0x0⟩,
  ⟨"ING_FSn_BUF_HI", 0x61024, (1, 0x1000000), (16, 0x80), 0x0, 0xffff, 0x0, 0x0, 0x0⟩,
  ⟨"ING_FSn_BUFCFG", 0x61028, (1, 0x1000000), (16, 0x80), 0x2, 0xffffff0f, 0x0, 0x0, 0x0⟩,
  ⟨"ING_FSn_SEM", 0x6102c, (1, 0x1000000), (16, 0x80), 0xffffffff, 0xffffffff, 0x0, 0x0, 0x0⟩]
/-- Rows of the block map at base 0x60000, continued. -/
def regRows06_c : List RegRow := [
  ⟨"ING_FSn_STATUS", 0x61030, (1, 0x1000000), (16, 0x80), 0x0, 0x0, 0x0, 0x0, 0x0⟩,
  ⟨"ING_FSn_EVENT", 0x61034, (1, 0x1000000), (16, 0x80), 0x0, 0x0, 0x0, 0x3f, 0x0⟩,
  ⟨"ING_FSn_FRAMES", 0x61038, (1, 0x1000000), (16, 0x80), 0x0, 0x0, 0x0, 0x0, 0x0⟩,
  ⟨"ING_FSn_DROPS", 0x6103c, (1, 0x1000000), (16, 0x80), 0x0, 0x0, 0x0, 0x0, 0x0⟩,
  ⟨"ING_FSn_OUTLIERS", 0x61040, (1, 0x1000000), (16, 0x80), 0x0, 0x0, 0x0, 0x0, 0x0⟩,
  ⟨"ING_FSn_RESID", 0x61044, (1, 0x1000000), (16, 0x80), 0x0, 0x0, 0x0, 0x0, 0x0⟩,
  ⟨"ING_ETHe_Tt_CFG", 0x62000, (2, 0x400), (8, 0x80), 0x0, 0x8f00ffff, 0x0, 0x0, 0x0⟩,
  ⟨"ING_ETHe_Tt_SRC", 0x62004, (2, 0x400), (8, 0x80), 0x0, 0xffffffff, 0x0, 0x0, 0x0⟩,
  ⟨"ING_ETHe_Tt_MAGIC", 0x62008, (2, 0x400), (8, 0x80), 0x0, 0xffffffff, 0x0, 0x0, 0x0⟩,
  ⟨"ING_ETHe_Tt_MAGLOC", 0x6200c, (2, 0x400), (8, 0x80), 0x0, 0xffff000f, 0x0, 0x0, 0x0⟩,
  ⟨"ING_ETHe_Tt_LAYOUT", 0x62010, (2, 0x400), (8, 0x80), 0x0, 0xffffffff, 0x0, 0x0, 0x0⟩,
  ⟨"ING_ETHe_Tt_NPTS", 0x62014, (2, 0x400), (8, 0x80), 0x1, 0x7ff, 0x0, 0x0, 0x0⟩]
/-- Rows of the block map at base 0x60000, continued. -/
def regRows06_d : List RegRow := [
  ⟨"ING_ETHe_Tt_XYZ_FMT", 0x62018, (2, 0x400), (8, 0x80), 0x0, 0xffffffb3, 0x0, 0x0, 0x0⟩,
  ⟨"ING_ETHe_Tt_XYZ_MUL", 0x6201c, (2, 0x400), (8, 0x80), 0x10000, 0xffffffff, 0x0, 0x0, 0x0⟩,
  ⟨"ING_ETHe_Tt_INT", 0x62020, (2, 0x400), (8, 0x80), 0x0, 0x8000ff00, 0x0, 0x0, 0x0⟩,
  ⟨"ING_ETHe_Tt_TS", 0x62024, (2, 0x400), (8, 0x80), 0x0, 0xffff0032, 0x0, 0x0, 0x0⟩,
  ⟨"ING_ETHe_Tt_PT_DT", 0x62028, (2, 0x400), (8, 0x80), 0x0, 0xffffffff, 0x0, 0x0, 0x0⟩,
  ⟨"ING_ETHe_Tt_SWEEP", 0x6202c, (2, 0x400), (8, 0x80), 0x0, 0xffffffff, 0x0, 0x0, 0x0⟩,
  ⟨"ING_ETHe_Tt_PKTS", 0x62030, (2, 0x400), (8, 0x80), 0x0, 0x0, 0x0, 0x0, 0x0⟩,
  ⟨"ING_ETHe_DISCARD", 0x623f8, (1, 0x1000000), (2, 0x400), 0x0, 0x0, 0x0, 0x0, 0x0⟩,
  ⟨"ING_ISn_CFG", 0x63000, (1, 0x1000000), (4, 0x100), 0x270000, 0xf0ff00f0, 0x0, 0x0, 0x0⟩,
  ⟨"ING_ISn_XFER", 0x63004, (1, 0x1000000), (4, 0x100), 0x0, 0xffe00000, 0x0, 0x0, 0x0⟩,
  ⟨"ING_ISn_CMD", 0x63008, (1, 0x1000000), (4, 0x100), 0x0, 0xffffffff, 0x0, 0x0, 0x0⟩,
  ⟨"ING_ISn_PERIOD", 0x6300c, (1, 0x1000000), (4, 0x100), 0x0, 0xffffffff, 0x0, 0x0, 0x0⟩]
/-- Rows of the block map at base 0x60000, continued. -/
def regRows06_e : List RegRow := [
  ⟨"ING_ISn_LOSS", 0x63010, (1, 0x1000000), (4, 0x100), 0x3, 0xff, 0x0, 0x0, 0x0⟩,
  ⟨"ING_ISn_CHc", 0x63020, (4, 0x100), (8, 0x4), 0x0, 0x80001f33, 0x0, 0x0, 0x0⟩,
  ⟨"ING_ISn_STATUS", 0x63040, (1, 0x1000000), (4, 0x100), 0x0, 0x0, 0x0, 0x0, 0x0⟩,
  ⟨"ING_ISn_EVENT", 0x63044, (1, 0x1000000), (4, 0x100), 0x0, 0x0, 0x0, 0x7, 0x0⟩,
  ⟨"ING_ISn_SAMPLES", 0x63048, (1, 0x1000000), (4, 0x100), 0x0, 0x0, 0x0, 0x0, 0x0⟩,
  ⟨"ING_ISn_OVR", 0x6304c, (1, 0x1000000), (4, 0x100), 0x0, 0x0, 0x0, 0x0, 0x0⟩,
  ⟨"ING_ISn_STAMP_LO", 0x63050, (1, 0x1000000), (4, 0x100), 0x0, 0x0, 0x0, 0x0, 0x0⟩,
  ⟨"ING_ISn_STAMP_HI", 0x63054, (1, 0x1000000), (4, 0x100), 0x0, 0x0, 0x0, 0x0, 0x0⟩]
/-- Rows of the block map at base 0x60000, continued. -/
def regRows06 : List RegRow := regRows06_a ++ regRows06_b ++ regRows06_c ++ regRows06_d ++ regRows06_e

/-- Rows of the block map at base 0x70000 (R12). -/
def regRows07_a : List RegRow := [
  ⟨"IFC_CTRL", 0x70000, (1, 0x1000000), (1, 0x1000000), 0x0, 0x1, 0x0, 0x0, 0x0⟩,
  ⟨"IFC_ERR", 0x70004, (1, 0x1000000), (1, 0x1000000), 0x0, 0x0, 0x0, 0x3, 0x0⟩,
  ⟨"IFC_ERR_INFO", 0x70008, (1, 0x1000000), (1, 0x1000000), 0x0, 0x0, 0x0, 0x0, 0x0⟩,
  ⟨"IFC_DET_EVENT", 0x70010, (1, 0x1000000), (1, 0x1000000), 0x0, 0x0, 0x0, 0xffffffff, 0x0⟩,
  ⟨"IFC_DET_ALARM", 0x70014, (1, 0x1000000), (1, 0x1000000), 0x0, 0x0, 0x0, 0xffffffff, 0x0⟩,
  ⟨"IFC_ISi_CFG", 0x70100, (1, 0x1000000), (4, 0x100), 0x20000, 0xce7f07ff, 0x0, 0x0, 0x0⟩,
  ⟨"IFC_ISi_GDELAY", 0x70104, (1, 0x1000000), (4, 0x100), 0x0, 0xffffffff, 0x0, 0x0, 0x0⟩,
  ⟨"IFC_ISi_OUT_LO", 0x70108, (1, 0x1000000), (4, 0x100), 0x0, 0xffffffc0, 0x0, 0x0, 0x0⟩,
  ⟨"IFC_ISi_OUT_HI", 0x7010c, (1, 0x1000000), (4, 0x100), 0x0, 0xffff, 0x0, 0x0, 0x0⟩,
  ⟨"IFC_ISi_OUTCFG", 0x70110, (1, 0x1000000), (4, 0x100), 0xffff0004, 0xffff000f, 0x0, 0x0, 0x0⟩,
  ⟨"IFC_ISi_STATUS", 0x70114, (1, 0x1000000), (4, 0x100), 0x0, 0x0, 0x0, 0x0, 0x0⟩,
  ⟨"IFC_ISi_EVENT", 0x70118, (1, 0x1000000), (4, 0x100), 0x0, 0x0, 0x0, 0xf, 0x0⟩]
/-- Rows of the block map at base 0x70000, continued. -/
def regRows07_b : List RegRow := [
  ⟨"IFC_ISi_SEQ", 0x7011c, (1, 0x1000000), (4, 0x100), 0x0, 0x0, 0x0, 0x0, 0x0⟩,
  ⟨"IFC_ISi_SAT_CNT", 0x70120, (1, 0x1000000), (4, 0x100), 0x0, 0x0, 0x0, 0x0, 0x0⟩,
  ⟨"IFC_ISi_GAP_CNT", 0x70124, (1, 0x1000000), (4, 0x100), 0x0, 0x0, 0x0, 0x0, 0x0⟩,
  ⟨"IFC_ISi_CHc_CFG", 0x70140, (4, 0x100), (8, 0x4), 0x0, 0x80070007, 0x0, 0x0, 0x0⟩,
  ⟨"IFC_DETk_CFG", 0x72000, (1, 0x1000000), (32, 0x40), 0x40, 0xc001ffff, 0x0, 0x0, 0x0⟩,
  ⟨"IFC_DETk_W", 0x72004, (1, 0x1000000), (32, 0x40), 0x0, 0xffffffff, 0x0, 0x0, 0x0⟩,
  ⟨"IFC_DETk_THR", 0x72008, (1, 0x1000000), (32, 0x40), 0xffffffff, 0xffffffff, 0x0, 0x0, 0x0⟩,
  ⟨"IFC_DETk_POWER_LO", 0x7200c, (1, 0x1000000), (32, 0x40), 0x0, 0x0, 0x0, 0x0, 0x0⟩,
  ⟨"IFC_DETk_POWER_HI", 0x72010, (1, 0x1000000), (32, 0x40), 0x0, 0x0, 0x0, 0x0, 0x0⟩,
  ⟨"IFC_DETk_PHASE", 0x72014, (1, 0x1000000), (32, 0x40), 0x0, 0x0, 0x0, 0x0, 0x0⟩,
  ⟨"IFC_DETk_START_LO", 0x72018, (1, 0x1000000), (32, 0x40), 0x0, 0x0, 0x0, 0x0, 0x0⟩,
  ⟨"IFC_DETk_START_HI", 0x7201c, (1, 0x1000000), (32, 0x40), 0x0, 0x0, 0x0, 0x0, 0x0⟩]
/-- Rows of the block map at base 0x70000, continued. -/
def regRows07_c : List RegRow := [
  ⟨"IFC_DETk_INFO", 0x72020, (1, 0x1000000), (32, 0x40), 0x0, 0x0, 0x0, 0x0, 0x0⟩,
  ⟨"IFC_BANKb_H_j", 0x74000, (8, 0x200), (64, 0x4), 0x0, 0xffffff, 0x0, 0x0, 0x0⟩,
  ⟨"IFC_BANKb_G_j", 0x74100, (8, 0x200), (8, 0x4), 0x0, 0xffffff, 0x0, 0x0, 0x0⟩]
/-- Rows of the block map at base 0x70000, continued. -/
def regRows07 : List RegRow := regRows07_a ++ regRows07_b ++ regRows07_c

/-- Rows of the block map at base 0x80000 (R12). -/
def regRows08 : List RegRow := [
  ⟨"FDD_CTRL", 0x80000, (2, 0x10000), (1, 0x1000000), 0x0, 0x1, 0x0, 0x0, 0x0⟩,
  ⟨"FDD_STATUS", 0x80004, (2, 0x10000), (1, 0x1000000), 0x0, 0x0, 0x0, 0x0, 0x0⟩,
  ⟨"FDD_ERR", 0x80008, (2, 0x10000), (1, 0x1000000), 0x0, 0x0, 0x0, 0xf, 0x0⟩,
  ⟨"FDD_ERR_INFO", 0x8000c, (2, 0x10000), (1, 0x1000000), 0x0, 0x0, 0x0, 0x0, 0x0⟩,
  ⟨"FDD_JOBS", 0x80010, (2, 0x10000), (1, 0x1000000), 0x0, 0x0, 0x0, 0x0, 0x0⟩,
  ⟨"FDD_FEATURES", 0x80014, (2, 0x10000), (1, 0x1000000), 0x0, 0x0, 0x0, 0x0, 0x0⟩,
  ⟨"FDD_CAND", 0x80018, (2, 0x10000), (1, 0x1000000), 0x0, 0x0, 0x0, 0x0, 0x0⟩,
  ⟨"FDD_PYRn_LO", 0x80100, (2, 0x10000), (16, 0x10), 0x0, 0xffff0000, 0x0, 0x0, 0x0⟩,
  ⟨"FDD_PYRn_HI", 0x80104, (2, 0x10000), (16, 0x10), 0x0, 0xffff, 0x0, 0x0, 0x0⟩,
  ⟨"FDD_PYRn_CFG", 0x80108, (2, 0x10000), (16, 0x10), 0x1, 0xffffff17, 0x0, 0x0, 0x0⟩,
  ⟨"FDD_PYRn_PTR", 0x8010c, (2, 0x10000), (16, 0x10), 0x0, 0x0, 0x0, 0x0, 0x0⟩,
  ⟨"FDD_PAIRi", 0x81000, (2, 0x10000), (256, 0x4), 0x0, 0x1f1f1f1f, 0x0, 0x0, 0x0⟩]

/-- Rows of the block map at base 0xa0000 (R12). -/
def regRows0A : List RegRow := [
  ⟨"TME_CTRL", 0xa0000, (2, 0x10000), (1, 0x1000000), 0x0, 0x1, 0x0, 0x0, 0x0⟩,
  ⟨"TME_STATUS", 0xa0004, (2, 0x10000), (1, 0x1000000), 0x0, 0x0, 0x0, 0x0, 0x0⟩,
  ⟨"TME_ERR", 0xa0008, (2, 0x10000), (1, 0x1000000), 0x0, 0x0, 0x0, 0x1, 0x0⟩,
  ⟨"TME_ERR_INFO", 0xa000c, (2, 0x10000), (1, 0x1000000), 0x0, 0x0, 0x0, 0x0, 0x0⟩,
  ⟨"TME_JOBS", 0xa0010, (2, 0x10000), (1, 0x1000000), 0x0, 0x0, 0x0, 0x0, 0x0⟩,
  ⟨"TME_TRACKED", 0xa0014, (2, 0x10000), (1, 0x1000000), 0x0, 0x0, 0x0, 0x0, 0x0⟩,
  ⟨"TME_LOST", 0xa0018, (2, 0x10000), (1, 0x1000000), 0x0, 0x0, 0x0, 0x0, 0x0⟩,
  ⟨"TME_SEEDED", 0xa001c, (2, 0x10000), (1, 0x1000000), 0x0, 0x0, 0x0, 0x0, 0x0⟩,
  ⟨"TME_MATCHED", 0xa0020, (2, 0x10000), (1, 0x1000000), 0x0, 0x0, 0x0, 0x0, 0x0⟩]

/-- Rows of the block map at base 0xc0000 (R12). -/
def regRows0C_a : List RegRow := [
  ⟨"SDE_CTRL", 0xc0000, (1, 0x1000000), (1, 0x1000000), 0x0, 0x1, 0x0, 0x0, 0x0⟩,
  ⟨"SDE_STATUS", 0xc0004, (1, 0x1000000), (1, 0x1000000), 0x0, 0x0, 0x0, 0x0, 0x0⟩,
  ⟨"SDE_ERR", 0xc0008, (1, 0x1000000), (1, 0x1000000), 0x0, 0x0, 0x0, 0x7, 0x0⟩,
  ⟨"SDE_ERR_INFO", 0xc000c, (1, 0x1000000), (1, 0x1000000), 0x0, 0x0, 0x0, 0x0, 0x0⟩,
  ⟨"SDE_JOBS", 0xc0010, (1, 0x1000000), (1, 0x1000000), 0x0, 0x0, 0x0, 0x0, 0x0⟩,
  ⟨"SDE_VALID", 0xc0014, (1, 0x1000000), (1, 0x1000000), 0x0, 0x0, 0x0, 0x0, 0x0⟩,
  ⟨"SDE_NOTEX", 0xc0018, (1, 0x1000000), (1, 0x1000000), 0x0, 0x0, 0x0, 0x0, 0x0⟩,
  ⟨"SDE_OCCL", 0xc001c, (1, 0x1000000), (1, 0x1000000), 0x0, 0x0, 0x0, 0x0, 0x0⟩,
  ⟨"SDE_RANGE", 0xc0020, (1, 0x1000000), (1, 0x1000000), 0x0, 0x0, 0x0, 0x0, 0x0⟩,
  ⟨"SDE_CAL_EVENT", 0xc0024, (1, 0x1000000), (1, 0x1000000), 0x0, 0x0, 0x0, 0xffffffff, 0x0⟩,
  ⟨"SDE_PAIRp_LATCH", 0xc0100, (1, 0x1000000), (4, 0x10), 0x0, 0x0, 0x0, 0x0, 0x0⟩,
  ⟨"SDE_PAIRp_OVR", 0xc0104, (1, 0x1000000), (4, 0x10), 0x0, 0x0, 0x0, 0x0, 0x0⟩]
/-- Rows of the block map at base 0xc0000, continued. -/
def regRows0C_b : List RegRow := [
  ⟨"CAL_CTRL", 0xc0200, (1, 0x1000000), (4, 0x40), 0x0, 0x0, 0x0, 0x0, 0x3⟩,
  ⟨"CAL_STATUS", 0xc0204, (1, 0x1000000), (4, 0x40), 0x0, 0x0, 0x0, 0x0, 0x0⟩,
  ⟨"CAL_STG_LO", 0xc0208, (1, 0x1000000), (4, 0x40), 0x0, 0xffffffc0, 0x0, 0x0, 0x0⟩,
  ⟨"CAL_STG_HI", 0xc020c, (1, 0x1000000), (4, 0x40), 0x0, 0xffff, 0x0, 0x0, 0x0⟩,
  ⟨"CAL_STG_VER", 0xc0210, (1, 0x1000000), (4, 0x40), 0x0, 0x0, 0x0, 0x0, 0x0⟩,
  ⟨"CAL_ACT_VER", 0xc0214, (1, 0x1000000), (4, 0x40), 0x0, 0x0, 0x0, 0x0, 0x0⟩,
  ⟨"CAL_RET_VER", 0xc0218, (1, 0x1000000), (4, 0x40), 0x0, 0x0, 0x0, 0x0, 0x0⟩,
  ⟨"CAL_SWAP_EPOCH", 0xc021c, (1, 0x1000000), (4, 0x40), 0x0, 0x0, 0x0, 0x0, 0x0⟩,
  ⟨"CAL_ACT_LO", 0xc0220, (1, 0x1000000), (4, 0x40), 0x0, 0x0, 0x0, 0x0, 0x0⟩,
  ⟨"CAL_ACT_HI", 0xc0224, (1, 0x1000000), (4, 0x40), 0x0, 0x0, 0x0, 0x0, 0x0⟩]
/-- Rows of the block map at base 0xc0000, continued. -/
def regRows0C : List RegRow := regRows0C_a ++ regRows0C_b

/-- Rows of the block map at base 0xd0000 (R12). -/
def regRows0D_a : List RegRow := [
  ⟨"PJE_CTRL", 0xd0000, (1, 0x1000000), (1, 0x1000000), 0x0, 0x1, 0x0, 0x0, 0x0⟩,
  ⟨"PJE_STATUS", 0xd0004, (1, 0x1000000), (1, 0x1000000), 0x0, 0x0, 0x0, 0x0, 0x0⟩,
  ⟨"PJE_ERR", 0xd0008, (1, 0x1000000), (1, 0x1000000), 0x0, 0x0, 0x0, 0x7, 0x0⟩,
  ⟨"PJE_ERR_INFO", 0xd000c, (1, 0x1000000), (1, 0x1000000), 0x0, 0x0, 0x0, 0x0, 0x0⟩,
  ⟨"PJE_JOBS", 0xd0010, (1, 0x1000000), (1, 0x1000000), 0x0, 0x0, 0x0, 0x0, 0x0⟩,
  ⟨"PJE_POINTS", 0xd0014, (1, 0x1000000), (1, 0x1000000), 0x0, 0x0, 0x0, 0x0, 0x0⟩,
  ⟨"PJE_LANDED", 0xd0018, (1, 0x1000000), (1, 0x1000000), 0x0, 0x0, 0x0, 0x0, 0x0⟩,
  ⟨"PJE_DROPPED", 0xd001c, (1, 0x1000000), (1, 0x1000000), 0x0, 0x0, 0x0, 0x0, 0x0⟩,
  ⟨"PJE_CAL_EVENT", 0xd0020, (1, 0x1000000), (1, 0x1000000), 0x0, 0x0, 0x0, 0xffffffff, 0x0⟩,
  ⟨"PJE_SLOTn_LATCH", 0xd0100, (1, 0x1000000), (16, 0x4), 0x0, 0x0, 0x0, 0x0, 0x0⟩,
  ⟨"CAL_CTRL", 0xd0400, (1, 0x1000000), (16, 0x40), 0x0, 0x0, 0x0, 0x0, 0x3⟩,
  ⟨"CAL_STATUS", 0xd0404, (1, 0x1000000), (16, 0x40), 0x0, 0x0, 0x0, 0x0, 0x0⟩]
/-- Rows of the block map at base 0xd0000, continued. -/
def regRows0D_b : List RegRow := [
  ⟨"CAL_STG_LO", 0xd0408, (1, 0x1000000), (16, 0x40), 0x0, 0xffffffc0, 0x0, 0x0, 0x0⟩,
  ⟨"CAL_STG_HI", 0xd040c, (1, 0x1000000), (16, 0x40), 0x0, 0xffff, 0x0, 0x0, 0x0⟩,
  ⟨"CAL_STG_VER", 0xd0410, (1, 0x1000000), (16, 0x40), 0x0, 0x0, 0x0, 0x0, 0x0⟩,
  ⟨"CAL_ACT_VER", 0xd0414, (1, 0x1000000), (16, 0x40), 0x0, 0x0, 0x0, 0x0, 0x0⟩,
  ⟨"CAL_RET_VER", 0xd0418, (1, 0x1000000), (16, 0x40), 0x0, 0x0, 0x0, 0x0, 0x0⟩,
  ⟨"CAL_SWAP_EPOCH", 0xd041c, (1, 0x1000000), (16, 0x40), 0x0, 0x0, 0x0, 0x0, 0x0⟩,
  ⟨"CAL_ACT_LO", 0xd0420, (1, 0x1000000), (16, 0x40), 0x0, 0x0, 0x0, 0x0, 0x0⟩,
  ⟨"CAL_ACT_HI", 0xd0424, (1, 0x1000000), (16, 0x40), 0x0, 0x0, 0x0, 0x0, 0x0⟩]
/-- Rows of the block map at base 0xd0000, continued. -/
def regRows0D : List RegRow := regRows0D_a ++ regRows0D_b

/-- Rows of the block map at base 0xe0000 (R12). -/
def regRows0E_a : List RegRow := [
  ⟨"FGS_CTRL", 0xe0000, (1, 0x1000000), (1, 0x1000000), 0x0, 0x1, 0x0, 0x0, 0x0⟩,
  ⟨"FGS_STATUS", 0xe0004, (1, 0x1000000), (1, 0x1000000), 0x0, 0x0, 0x0, 0x0, 0x0⟩,
  ⟨"FGS_ERR", 0xe0008, (1, 0x1000000), (1, 0x1000000), 0x0, 0x0, 0x0, 0x3, 0x0⟩,
  ⟨"FGS_ERR_INFO", 0xe000c, (1, 0x1000000), (1, 0x1000000), 0x0, 0x0, 0x0, 0x0, 0x0⟩,
  ⟨"FGS_RUNS", 0xe0010, (1, 0x1000000), (1, 0x1000000), 0x0, 0x0, 0x0, 0x0, 0x0⟩,
  ⟨"FGS_DISPATCHED", 0xe0014, (1, 0x1000000), (1, 0x1000000), 0x0, 0x0, 0x0, 0x0, 0x0⟩,
  ⟨"FGS_SKIPPED", 0xe0018, (1, 0x1000000), (1, 0x1000000), 0x0, 0x0, 0x0, 0x0, 0x0⟩,
  ⟨"FGS_WAIT_TMO", 0xe001c, (1, 0x1000000), (1, 0x1000000), 0x0, 0x0, 0x0, 0x0, 0x0⟩,
  ⟨"FGS_ABORT", 0xe0030, (1, 0x1000000), (1, 0x1000000), 0x0, 0x0, 0x0, 0x0, 0x8000003f⟩,
  ⟨"FGS_GSTORE_ADDR", 0xe0040, (1, 0x1000000), (1, 0x1000000), 0x0, 0xffffc, 0x0, 0x0, 0x0⟩,
  ⟨"FGS_GSTORE_DATA", 0xe0044, (1, 0x1000000), (1, 0x1000000), 0x0, 0x0, 0x0, 0x0, 0x0⟩,
  ⟨"FGS_GRAPHg_CFG", 0xe0100, (1, 0x1000000), (64, 0x20), 0x0, 0x0, 0x0, 0x0, 0x0⟩]
/-- Rows of the block map at base 0xe0000, continued. -/
def regRows0E_b : List RegRow := [
  ⟨"FGS_GRAPHg_STATE", 0xe0104, (1, 0x1000000), (64, 0x20), 0x0, 0x0, 0x0, 0x0, 0x0⟩,
  ⟨"FGS_GRAPHg_LAUNCHES", 0xe0108, (1, 0x1000000), (64, 0x20), 0x0, 0x0, 0x0, 0x0, 0x0⟩,
  ⟨"FGS_GRAPHg_OVR", 0xe010c, (1, 0x1000000), (64, 0x20), 0x0, 0x0, 0x0, 0x0, 0x0⟩,
  ⟨"FGS_GRAPHg_EVENT", 0xe0110, (1, 0x1000000), (64, 0x20), 0x0, 0x0, 0x0, 0x7, 0x0⟩,
  ⟨"FGS_GRAPHg_LAST", 0xe0114, (1, 0x1000000), (64, 0x20), 0x0, 0x0, 0x0, 0x0, 0x0⟩]
/-- Rows of the block map at base 0xe0000, continued. -/
def regRows0E : List RegRow := regRows0E_a ++ regRows0E_b

/-- Rows of the block map at base 0x100000 (R12). -/
def regRows10_a : List RegRow := [
  ⟨"TT_ID", 0x100000, (1, 0x1000000), (68, 0x1000), 0x0, 0x0, 0x0, 0x0, 0x0⟩,
  ⟨"TT_STATUS", 0x100004, (1, 0x1000000), (68, 0x1000), 0xffff0000, 0x0, 0x0, 0x0, 0x0⟩,
  ⟨"TT_EVENT", 0x100008, (1, 0x1000000), (68, 0x1000), 0x0, 0x0, 0x0, 0x3f, 0x0⟩,
  ⟨"TT_CHK_LAST", 0x10000c, (1, 0x1000000), (68, 0x1000), 0x0, 0x0, 0x0, 0x0, 0x0⟩,
  ⟨"TT_PASSES", 0x100010, (1, 0x1000000), (68, 0x1000), 0x0, 0x0, 0x0, 0x0, 0x0⟩,
  ⟨"TT_CHK_TRANSIENT", 0x100014, (1, 0x1000000), (68, 0x1000), 0x0, 0x0, 0x0, 0x0, 0x0⟩,
  ⟨"TT_SAT_RQ", 0x100018, (1, 0x1000000), (68, 0x1000), 0x0, 0x0, 0x0, 0x0, 0x0⟩,
  ⟨"TT_SAT_NL", 0x10001c, (1, 0x1000000), (68, 0x1000), 0x0, 0x0, 0x0, 0x0, 0x0⟩,
  ⟨"TT_ECC_CORR", 0x100020, (1, 0x1000000), (68, 0x1000), 0x0, 0x0, 0x0, 0x0, 0x0⟩,
  ⟨"TT_JOBS", 0x100024, (1, 0x1000000), (68, 0x1000), 0x0, 0x0, 0x0, 0x0, 0x0⟩,
  ⟨"TT_LAST_SEED", 0x100028, (1, 0x1000000), (68, 0x1000), 0x0, 0x0, 0x0, 0x0, 0x0⟩,
  ⟨"TT_NL0_i", 0x100800, (68, 0x1000), (256, 0x4), 0x0, 0x0, 0x0, 0x0, 0x0⟩]
/-- Rows of the block map at base 0x100000, continued. -/
def regRows10_b : List RegRow := [
  ⟨"TT_NL1_i", 0x100c00, (68, 0x1000), (256, 0x4), 0x0, 0x0, 0x0, 0x0, 0x0⟩]
/-- Rows of the block map at base 0x100000, continued. -/
def regRows10 : List RegRow := regRows10_a ++ regRows10_b

/-- Rows of the block map at base 0x180000 (R12). -/
def regRows18_a : List RegRow := [
  ⟨"MEM_CTRL", 0x180000, (1, 0x1000000), (1, 0x1000000), 0x0, 0x1, 0x0, 0x0, 0x0⟩,
  ⟨"MEM_ERR", 0x180004, (1, 0x1000000), (1, 0x1000000), 0x0, 0x0, 0x0, 0xf, 0x0⟩,
  ⟨"MEM_ERR_INFO", 0x180008, (1, 0x1000000), (1, 0x1000000), 0x0, 0x0, 0x0, 0x0, 0x0⟩,
  ⟨"MEM_EVENT", 0x18000c, (1, 0x1000000), (1, 0x1000000), 0x0, 0x0, 0x0, 0x7, 0x0⟩,
  ⟨"MEM_COPIES", 0x180010, (1, 0x1000000), (1, 0x1000000), 0x0, 0x0, 0x0, 0x0, 0x0⟩,
  ⟨"MEM_LINES", 0x180014, (1, 0x1000000), (1, 0x1000000), 0x0, 0x0, 0x0, 0x0, 0x0⟩,
  ⟨"MEM_SG_WAIT_CNT", 0x180018, (1, 0x1000000), (1, 0x1000000), 0x0, 0x0, 0x0, 0x0, 0x0⟩,
  ⟨"MEM_SLAB_ECC_CORR", 0x18001c, (1, 0x1000000), (1, 0x1000000), 0x0, 0x0, 0x0, 0x0, 0x0⟩,
  ⟨"MEM_SLAB_ECC_UNCORR", 0x180020, (1, 0x1000000), (1, 0x1000000), 0x0, 0x0, 0x0, 0x0, 0x0⟩,
  ⟨"MEM_EVAC_CNT", 0x180024, (1, 0x1000000), (1, 0x1000000), 0x0, 0x0, 0x0, 0x0, 0x0⟩,
  ⟨"MEM_FW_GDR", 0x180028, (1, 0x1000000), (1, 0x1000000), 0x0, 0x0, 0x0, 0x0, 0x0⟩,
  ⟨"MEM_SYS_SLAB", 0x180040, (1, 0x1000000), (1, 0x1000000), 0x0, 0x3ff03ff, 0x0, 0x0, 0x0⟩]
/-- Rows of the block map at base 0x180000, continued. -/
def regRows18_b : List RegRow := [
  ⟨"MEM_SYS_GDR", 0x180044, (1, 0x1000000), (1, 0x1000000), 0x0, 0xffffffff, 0x0, 0x0, 0x0⟩,
  ⟨"MEM_CTXc_QUOTA_TILE", 0x180100, (1, 0x1000000), (16, 0x40), 0x0, 0xff, 0x0, 0x0, 0x0⟩,
  ⟨"MEM_CTXc_QUOTA_SLAB", 0x180104, (1, 0x1000000), (16, 0x40), 0x0, 0x3ff, 0x0, 0x0, 0x0⟩,
  ⟨"MEM_CTXc_QUOTA_LSE", 0x180108, (1, 0x1000000), (16, 0x40), 0x0, 0xff, 0x0, 0x0, 0x0⟩,
  ⟨"MEM_CTXc_QUOTA_GDR", 0x18010c, (1, 0x1000000), (16, 0x40), 0x0, 0xffff, 0x0, 0x0, 0x0⟩,
  ⟨"MEM_CTXc_WIN_TILE", 0x180110, (1, 0x1000000), (16, 0x40), 0x0, 0x0, 0x0, 0x0, 0x0⟩,
  ⟨"MEM_CTXc_WIN_SLAB", 0x180114, (1, 0x1000000), (16, 0x40), 0x0, 0x0, 0x0, 0x0, 0x0⟩,
  ⟨"MEM_CTXc_WIN_LSE", 0x180118, (1, 0x1000000), (16, 0x40), 0x0, 0x0, 0x0, 0x0, 0x0⟩,
  ⟨"MEM_CTXc_WIN_GDR", 0x18011c, (1, 0x1000000), (16, 0x40), 0x0, 0x0, 0x0, 0x0, 0x0⟩,
  ⟨"MEM_CTXc_STATE", 0x180120, (1, 0x1000000), (16, 0x40), 0x0, 0x0, 0x0, 0x0, 0x0⟩,
  ⟨"MEM_NBRj", 0x180800, (1, 0x1000000), (16, 0x4), 0x0, 0x0, 0x0, 0x0, 0x0⟩,
  ⟨"MEM_REDIRn", 0x180900, (1, 0x1000000), (68, 0x4), 0x0, 0x0, 0x0, 0x0, 0x0⟩]
/-- Rows of the block map at base 0x180000, continued. -/
def regRows18_c : List RegRow := [
  ⟨"MEM_CEe_STATUS", 0x180b00, (1, 0x1000000), (16, 0x4), 0x0, 0x0, 0x0, 0x0, 0x0⟩]
/-- Rows of the block map at base 0x180000, continued. -/
def regRows18 : List RegRow := regRows18_a ++ regRows18_b ++ regRows18_c

/-- Rows of the block map at base 0x190000 (R12). -/
def regRows19_a : List RegRow := [
  ⟨"GDR_CFG", 0x190000, (1, 0x1000000), (1, 0x1000000), 0x0, 0x0, 0x0, 0x0, 0x0⟩,
  ⟨"GDR_STATUS", 0x190004, (1, 0x1000000), (1, 0x1000000), 0x0, 0x0, 0x0, 0x0, 0x0⟩,
  ⟨"GDR_EVENT", 0x190008, (1, 0x1000000), (1, 0x1000000), 0x0, 0x0, 0x0, 0xf, 0x0⟩,
  ⟨"GDR_ECC_CORR", 0x19000c, (1, 0x1000000), (1, 0x1000000), 0x0, 0x0, 0x0, 0x0, 0x0⟩,
  ⟨"GDR_ECC_UNCORR", 0x190010, (1, 0x1000000), (1, 0x1000000), 0x0, 0x0, 0x0, 0x0, 0x0⟩,
  ⟨"GDR_ERR_ADDR_LO", 0x190014, (1, 0x1000000), (1, 0x1000000), 0x0, 0x0, 0x0, 0x0, 0x0⟩,
  ⟨"GDR_ERR_ADDR_HI", 0x190018, (1, 0x1000000), (1, 0x1000000), 0x0, 0x0, 0x0, 0x0, 0x0⟩,
  ⟨"GDR_EDC_RETRY", 0x19001c, (1, 0x1000000), (1, 0x1000000), 0x0, 0x0, 0x0, 0x0, 0x0⟩,
  ⟨"GDR_RETRY", 0x190020, (1, 0x1000000), (1, 0x1000000), 0x4, 0x0, 0x7, 0x0, 0x0⟩,
  ⟨"GDR_RETRAIN", 0x190024, (1, 0x1000000), (1, 0x1000000), 0x64, 0x0, 0xffff, 0x0, 0x0⟩,
  ⟨"GDR_RETRAIN_CNT", 0x190028, (1, 0x1000000), (1, 0x1000000), 0x0, 0x0, 0x0, 0x0, 0x0⟩,
  ⟨"GDR_SCRUB", 0x19002c, (1, 0x1000000), (1, 0x1000000), 0x8000003c, 0x0, 0x8000ffff, 0x0, 0x0⟩]
/-- Rows of the block map at base 0x190000, continued. -/
def regRows19_b : List RegRow := [
  ⟨"GDR_SCRUB_POS", 0x190030, (1, 0x1000000), (1, 0x1000000), 0x0, 0x0, 0x0, 0x0, 0x0⟩,
  ⟨"GDR_CHk_STATUS", 0x190100, (1, 0x1000000), (16, 0x4), 0x0, 0x0, 0x0, 0x0, 0x0⟩]
/-- Rows of the block map at base 0x190000, continued. -/
def regRows19 : List RegRow := regRows19_a ++ regRows19_b

/-- Rows of the block map at base 0x1a0000 (R12). -/
def regRows1A_a : List RegRow := [
  ⟨"TFU_CTRL", 0x1a0000, (1, 0x1000000), (1, 0x1000000), 0x0, 0x1, 0x0, 0x0, 0x0⟩,
  ⟨"TFU_STATUS", 0x1a0004, (1, 0x1000000), (1, 0x1000000), 0x0, 0x0, 0x0, 0x0, 0x0⟩,
  ⟨"TFU_ERR", 0x1a0008, (1, 0x1000000), (1, 0x1000000), 0x0, 0x0, 0x0, 0x7, 0x0⟩,
  ⟨"TFU_ERR_INFO", 0x1a000c, (1, 0x1000000), (1, 0x1000000), 0x0, 0x0, 0x0, 0x0, 0x0⟩,
  ⟨"TFU_EVENT", 0x1a0010, (1, 0x1000000), (1, 0x1000000), 0x0, 0x0, 0x0, 0x7f, 0x0⟩,
  ⟨"TFU_EGO_CFG", 0x1a0014, (1, 0x1000000), (1, 0x1000000), 0x10000, 0xfcffff00, 0x0, 0x0, 0x0⟩,
  ⟨"TFU_AID_TMO", 0x1a0018, (1, 0x1000000), (1, 0x1000000), 0x5f5e100, 0xffffffff, 0x0, 0x0, 0x0⟩,
  ⟨"TFU_GRAV", 0x1a001c, (1, 0x1000000), (1, 0x1000000), 0x9ce80, 0xffffffff, 0x0, 0x0, 0x0⟩,
  ⟨"TFU_GYRO_FS", 0x1a0020, (1, 0x1000000), (1, 0x1000000), 0x0, 0xffffffff, 0x0, 0x0, 0x0⟩,
  ⟨"TFU_ACC_FS", 0x1a0024, (1, 0x1000000), (1, 0x1000000), 0x0, 0xffffffff, 0x0, 0x0, 0x0⟩,
  ⟨"TFU_POSE_SEQ", 0x1a0028, (1, 0x1000000), (1, 0x1000000), 0x0, 0x0, 0x0, 0x0, 0x0⟩,
  ⟨"TFU_UPDATES", 0x1a002c, (1, 0x1000000), (1, 0x1000000), 0x0, 0x0, 0x0, 0x0, 0x0⟩]
/-- Rows of the block map at base 0x1a0000, continued. -/
def regRows1A_b : List RegRow := [
  ⟨"TFU_NUMERIC_CNT", 0x1a0030, (1, 0x1000000), (1, 0x1000000), 0x0, 0x0, 0x0, 0x0, 0x0⟩,
  ⟨"TFU_COVSAT_CNT", 0x1a0034, (1, 0x1000000), (1, 0x1000000), 0x0, 0x0, 0x0, 0x0, 0x0⟩,
  ⟨"TFU_INNOV_LO", 0x1a0040, (1, 0x1000000), (1, 0x1000000), 0x0, 0xffffffc0, 0x0, 0x0, 0x0⟩,
  ⟨"TFU_INNOV_HI", 0x1a0044, (1, 0x1000000), (1, 0x1000000), 0x0, 0xffff, 0x0, 0x0, 0x0⟩,
  ⟨"TFU_INNOV_CFG", 0x1a0048, (1, 0x1000000), (1, 0x1000000), 0xffff0004, 0xffff000f, 0x0, 0x0, 0x0⟩,
  ⟨"TFU_INNOV_SEQ", 0x1a004c, (1, 0x1000000), (1, 0x1000000), 0x0, 0x0, 0x0, 0x0, 0x0⟩,
  ⟨"TFU_CALREF", 0x1a0060, (1, 0x1000000), (1, 0x1000000), 0x0, 0xffff, 0x0, 0x0, 0x0⟩,
  ⟨"TFU_CALREF_ROT", 0x1a0064, (1, 0x1000000), (1, 0x1000000), 0x20c49c, 0xffffffff, 0x0, 0x0, 0x0⟩,
  ⟨"TFU_CALREF_TRANS", 0x1a0068, (1, 0x1000000), (1, 0x1000000), 0x83, 0xffffffff, 0x0, 0x0, 0x0⟩,
  ⟨"TFU_CALREF_FOCAL", 0x1a006c, (1, 0x1000000), (1, 0x1000000), 0x418937, 0xffffffff, 0x0, 0x0, 0x0⟩,
  ⟨"TFU_CALREF_CENTRE", 0x1a0070, (1, 0x1000000), (1, 0x1000000), 0x4000, 0xffffffff, 0x0, 0x0, 0x0⟩,
  ⟨"TFU_CALREF_CLAMP_CNT", 0x1a0074, (1, 0x1000000), (1, 0x1000000), 0x0, 0x0, 0x0, 0x0, 0x0⟩]
/-- Rows of the block map at base 0x1a0000, continued. -/
def regRows1A_c : List RegRow := [
  ⟨"TFU_CALREF_SKIP_CNT", 0x1a0078, (1, 0x1000000), (1, 0x1000000), 0x0, 0x0, 0x0, 0x0, 0x0⟩,
  ⟨"TFU_OBJk_CFG", 0x1a0100, (1, 0x1000000), (31, 0x10), 0x0, 0xc0000000, 0x0, 0x0, 0x0⟩,
  ⟨"TFU_OBJk_TRACK", 0x1a0104, (1, 0x1000000), (31, 0x10), 0x0, 0xffffffff, 0x0, 0x0, 0x0⟩,
  ⟨"TFU_OBJk_Q", 0x1a0108, (1, 0x1000000), (31, 0x10), 0x0, 0xffffffff, 0x0, 0x0, 0x0⟩,
  ⟨"TFU_OBJk_VINIT", 0x1a010c, (1, 0x1000000), (31, 0x10), 0x0, 0xffff, 0x0, 0x0, 0x0⟩,
  ⟨"TFU_SENSs_NIS", 0x1a0300, (1, 0x1000000), (16, 0x8), 0x0, 0x0, 0x0, 0x0, 0x0⟩,
  ⟨"TFU_SENSs_CNT", 0x1a0304, (1, 0x1000000), (16, 0x8), 0x0, 0x0, 0x0, 0x0, 0x0⟩,
  ⟨"TFU_EGO_DIAGi", 0x1a0400, (1, 0x1000000), (24, 0x4), 0x0, 0x0, 0x0, 0x0, 0x0⟩]
/-- Rows of the block map at base 0x1a0000, continued. -/
def regRows1A : List RegRow := regRows1A_a ++ regRows1A_b ++ regRows1A_c

/-- Rows of the block map at base 0x1c0000 (R12). -/
def regRows1C_a : List RegRow := [
  ⟨"LSE_CTRL", 0x1c0000, (1, 0x1000000), (1, 0x1000000), 0x0, 0x1, 0x0, 0x0, 0x0⟩,
  ⟨"LSE_STATUS", 0x1c0004, (1, 0x1000000), (1, 0x1000000), 0x0, 0x0, 0x0, 0x0, 0x0⟩,
  ⟨"LSE_ERR", 0x1c0008, (1, 0x1000000), (1, 0x1000000), 0x0, 0x0, 0x0, 0x3, 0x0⟩,
  ⟨"LSE_ERR_INFO", 0x1c000c, (1, 0x1000000), (1, 0x1000000), 0x0, 0x0, 0x0, 0x0, 0x0⟩,
  ⟨"LSE_ERR_INDEX", 0x1c0010, (1, 0x1000000), (1, 0x1000000), 0x0, 0x0, 0x0, 0x0, 0x0⟩,
  ⟨"LSE_EVENT", 0x1c0014, (1, 0x1000000), (1, 0x1000000), 0x0, 0x0, 0x0, 0x7, 0x0⟩,
  ⟨"LSE_ASM_PASSES", 0x1c0018, (1, 0x1000000), (1, 0x1000000), 0x0, 0x0, 0x0, 0x0, 0x0⟩,
  ⟨"LSE_ASM_FACTORS", 0x1c001c, (1, 0x1000000), (1, 0x1000000), 0x0, 0x0, 0x0, 0x0, 0x0⟩,
  ⟨"LSE_DANGLING_CNT", 0x1c0020, (1, 0x1000000), (1, 0x1000000), 0x0, 0x0, 0x0, 0x0, 0x0⟩,
  ⟨"LSE_BADMEAS_CNT", 0x1c0024, (1, 0x1000000), (1, 0x1000000), 0x0, 0x0, 0x0, 0x0, 0x0⟩,
  ⟨"LSE_CHEIRAL_CNT", 0x1c0028, (1, 0x1000000), (1, 0x1000000), 0x0, 0x0, 0x0, 0x0, 0x0⟩,
  ⟨"LSE_PREINT_CNT", 0x1c002c, (1, 0x1000000), (1, 0x1000000), 0x0, 0x0, 0x0, 0x0, 0x0⟩]
/-- Rows of the block map at base 0x1c0000, continued. -/
def regRows1C_b : List RegRow := [
  ⟨"LSE_BUILD_CNT", 0x1c0030, (1, 0x1000000), (1, 0x1000000), 0x0, 0x0, 0x0, 0x0, 0x0⟩,
  ⟨"LSE_SCHED_SEL", 0x1c0040, (1, 0x1000000), (1, 0x1000000), 0x0, 0xf003f, 0x0, 0x0, 0x0⟩,
  ⟨"LSE_SCHED_INFO", 0x1c0044, (1, 0x1000000), (1, 0x1000000), 0x0, 0x0, 0x0, 0x0, 0x0⟩,
  ⟨"LSE_SCHED_HASH_LO", 0x1c0048, (1, 0x1000000), (1, 0x1000000), 0x0, 0x0, 0x0, 0x0, 0x0⟩,
  ⟨"LSE_SCHED_HASH_HI", 0x1c004c, (1, 0x1000000), (1, 0x1000000), 0x0, 0x0, 0x0, 0x0, 0x0⟩,
  ⟨"LSE_SCHED_VARS", 0x1c0050, (1, 0x1000000), (1, 0x1000000), 0x0, 0x0, 0x0, 0x0, 0x0⟩,
  ⟨"LSE_SCHED_FACTORS", 0x1c0054, (1, 0x1000000), (1, 0x1000000), 0x0, 0x0, 0x0, 0x0, 0x0⟩,
  ⟨"LSE_SCHED_GEN", 0x1c0058, (1, 0x1000000), (1, 0x1000000), 0x0, 0x0, 0x0, 0x0, 0x0⟩,
  ⟨"LSE_SCHED_MAX", 0x1c005c, (1, 0x1000000), (1, 0x1000000), 0x0, 0x0, 0x0, 0x0, 0x0⟩,
  ⟨"LSE_AR_EVENT", 0x1c0400, (1, 0x1000000), (1, 0x1000000), 0x0, 0x0, 0x0, 0xf, 0x0⟩,
  ⟨"LSE_RESCALE_CNT", 0x1c0404, (1, 0x1000000), (1, 0x1000000), 0x0, 0x0, 0x0, 0x0, 0x0⟩,
  ⟨"LSE_SAT_CNT", 0x1c0408, (1, 0x1000000), (1, 0x1000000), 0x0, 0x0, 0x0, 0x0, 0x0⟩]
/-- Rows of the block map at base 0x1c0000, continued. -/
def regRows1C_c : List RegRow := [
  ⟨"LSE_CLAMP_CNT", 0x1c040c, (1, 0x1000000), (1, 0x1000000), 0x0, 0x0, 0x0, 0x0, 0x0⟩,
  ⟨"LSE_AR_LAST", 0x1c0410, (1, 0x1000000), (1, 0x1000000), 0x0, 0x0, 0x0, 0x0, 0x0⟩,
  ⟨"LSE_CLAMP_LAST", 0x1c0414, (1, 0x1000000), (1, 0x1000000), 0x0, 0x0, 0x0, 0x0, 0x0⟩,
  ⟨"LSE_LAMBDA", 0x1c0418, (1, 0x1000000), (1, 0x1000000), 0x80, 0x0, 0x0, 0x0, 0x0⟩,
  ⟨"LSE_MEM_ECC_CORR", 0x1c041c, (1, 0x1000000), (1, 0x1000000), 0x0, 0x0, 0x0, 0x0, 0x0⟩,
  ⟨"LSE_MEM_ECC_UNCORR", 0x1c0420, (1, 0x1000000), (1, 0x1000000), 0x0, 0x0, 0x0, 0x0, 0x0⟩,
  ⟨"LSE_HRg", 0x1c0440, (1, 0x1000000), (7, 0x4), 0x1f1f, 0x0, 0x0, 0x0, 0x0⟩,
  ⟨"LSE_SOLVE_STATE", 0x1c0800, (1, 0x1000000), (1, 0x1000000), 0x0, 0x0, 0x0, 0x0, 0x0⟩,
  ⟨"LSE_SOLVES", 0x1c0804, (1, 0x1000000), (1, 0x1000000), 0x0, 0x0, 0x0, 0x0, 0x0⟩,
  ⟨"LSE_CTL_EVENT", 0x1c0808, (1, 0x1000000), (1, 0x1000000), 0x0, 0x0, 0x0, 0xf, 0x0⟩,
  ⟨"LSE_DL_MISS_CNT", 0x1c080c, (1, 0x1000000), (1, 0x1000000), 0x0, 0x0, 0x0, 0x0, 0x0⟩,
  ⟨"LSE_CAPPED_CNT", 0x1c0810, (1, 0x1000000), (1, 0x1000000), 0x0, 0x0, 0x0, 0x0, 0x0⟩]
/-- Rows of the block map at base 0x1c0000, continued. -/
def regRows1C_d : List RegRow := [
  ⟨"LSE_WARM_PARTIAL_CNT", 0x1c0814, (1, 0x1000000), (1, 0x1000000), 0x0, 0x0, 0x0, 0x0, 0x0⟩,
  ⟨"LSE_COLD_CNT", 0x1c0818, (1, 0x1000000), (1, 0x1000000), 0x0, 0x0, 0x0, 0x0, 0x0⟩,
  ⟨"LSE_PATTERN_CNT", 0x1c081c, (1, 0x1000000), (1, 0x1000000), 0x0, 0x0, 0x0, 0x0, 0x0⟩,
  ⟨"LSE_WS_MATCHED", 0x1c0820, (1, 0x1000000), (1, 0x1000000), 0x0, 0x0, 0x0, 0x0, 0x0⟩,
  ⟨"LSE_LAST_MARGIN", 0x1c0824, (1, 0x1000000), (1, 0x1000000), 0x0, 0x0, 0x0, 0x0, 0x0⟩,
  ⟨"LSE_LAST_END", 0x1c0828, (1, 0x1000000), (1, 0x1000000), 0x0, 0x0, 0x0, 0x0, 0x0⟩]
/-- Rows of the block map at base 0x1c0000, continued. -/
def regRows1C : List RegRow := regRows1C_a ++ regRows1C_b ++ regRows1C_c ++ regRows1C_d

/-- Rows of the block map at base 0x200000 (R12). -/
def regRows20_a : List RegRow := [
  ⟨"FLC_CTRL", 0x200000, (8, 0x10000), (1, 0x1000000), 0x0, 0x0, 0x3, 0x0, 0x0⟩,
  ⟨"FLC_STATUS", 0x200004, (8, 0x10000), (1, 0x1000000), 0x0, 0x0, 0x0, 0x0, 0x0⟩,
  ⟨"FLC_EVENT", 0x200008, (8, 0x10000), (1, 0x1000000), 0x0, 0x0, 0x0, 0x1f, 0x0⟩,
  ⟨"FLC_RATE", 0x20000c, (8, 0x10000), (1, 0x1000000), 0x960, 0x0, 0xfff, 0x0, 0x0⟩,
  ⟨"FLC_CORR_CW", 0x200010, (8, 0x10000), (1, 0x1000000), 0x0, 0x0, 0x0, 0x0, 0x0⟩,
  ⟨"FLC_RETRY_CW", 0x200014, (8, 0x10000), (1, 0x1000000), 0x0, 0x0, 0x0, 0x0, 0x0⟩,
  ⟨"FLC_UNCORR_CW", 0x200018, (8, 0x10000), (1, 0x1000000), 0x0, 0x0, 0x0, 0x0, 0x0⟩,
  ⟨"FLC_MAX_BITS", 0x20001c, (8, 0x10000), (1, 0x1000000), 0x0, 0x0, 0x0, 0x0, 0x0⟩,
  ⟨"FLC_PROG_FAIL", 0x200020, (8, 0x10000), (1, 0x1000000), 0x0, 0x0, 0x0, 0x0, 0x0⟩,
  ⟨"FLC_ERASE_FAIL", 0x200024, (8, 0x10000), (1, 0x1000000), 0x0, 0x0, 0x0, 0x0, 0x0⟩,
  ⟨"FLC_BAD_BLOCKS", 0x200028, (8, 0x10000), (1, 0x1000000), 0x0, 0x0, 0x0, 0x0, 0x0⟩,
  ⟨"FLC_TIMEOUTS", 0x20002c, (8, 0x10000), (1, 0x1000000), 0x0, 0x0, 0x0, 0x0, 0x0⟩]
/-- Rows of the block map at base 0x200000, continued. -/
def regRows20_b : List RegRow := [
  ⟨"FLC_READS", 0x200030, (8, 0x10000), (1, 0x1000000), 0x0, 0x0, 0x0, 0x0, 0x0⟩,
  ⟨"FLC_PROGS", 0x200034, (8, 0x10000), (1, 0x1000000), 0x0, 0x0, 0x0, 0x0, 0x0⟩,
  ⟨"FLC_ERASES", 0x200038, (8, 0x10000), (1, 0x1000000), 0x0, 0x0, 0x0, 0x0, 0x0⟩,
  ⟨"FLC_ERR_ADDR", 0x20003c, (8, 0x10000), (1, 0x1000000), 0x0, 0x0, 0x0, 0x0, 0x0⟩]
/-- Rows of the block map at base 0x200000, continued. -/
def regRows20 : List RegRow := regRows20_a ++ regRows20_b

/-- Rows of the block map at base 0x280000 (R12). -/
def regRows28_a : List RegRow := [
  ⟨"MST_CTRL", 0x280000, (1, 0x1000000), (1, 0x1000000), 0x0, 0x3, 0x0, 0x0, 0x0⟩,
  ⟨"MST_STATUS", 0x280004, (1, 0x1000000), (1, 0x1000000), 0x0, 0x0, 0x0, 0x0, 0x0⟩,
  ⟨"MST_ERR", 0x280008, (1, 0x1000000), (1, 0x1000000), 0x0, 0x0, 0x0, 0x7, 0x0⟩,
  ⟨"MST_ERR_INFO", 0x28000c, (1, 0x1000000), (1, 0x1000000), 0x0, 0x0, 0x0, 0x0, 0x0⟩,
  ⟨"MST_EVENT", 0x280010, (1, 0x1000000), (1, 0x1000000), 0x0, 0x0, 0x0, 0x3f, 0x0⟩,
  ⟨"MST_FORMAT", 0x280014, (1, 0x1000000), (1, 0x1000000), 0x0, 0x0, 0x0, 0x0, 0xff000000⟩,
  ⟨"MST_COMMITS", 0x280018, (1, 0x1000000), (1, 0x1000000), 0x0, 0x0, 0x0, 0x0, 0x0⟩,
  ⟨"MST_PINS", 0x28001c, (1, 0x1000000), (1, 0x1000000), 0x0, 0x0, 0x0, 0x0, 0x0⟩,
  ⟨"MST_PINi_LO", 0x280020, (1, 0x1000000), (3, 0x8), 0x0, 0x0, 0x0, 0x0, 0x0⟩,
  ⟨"MST_PINi_HI", 0x280024, (1, 0x1000000), (3, 0x8), 0x0, 0x0, 0x0, 0x0, 0x0⟩,
  ⟨"MST_JRNL_USED", 0x280040, (1, 0x1000000), (1, 0x1000000), 0x0, 0x0, 0x0, 0x0, 0x0⟩,
  ⟨"MST_JRNL_MAX", 0x280044, (1, 0x1000000), (1, 0x1000000), 0x1000, 0x0, 0xffffffff, 0x0, 0x0⟩]
/-- Rows of the block map at base 0x280000, continued. -/
def regRows28_b : List RegRow := [
  ⟨"MST_GROOM_BW", 0x280048, (1, 0x1000000), (1, 0x1000000), 0x40, 0xff, 0x0, 0x0, 0x0⟩,
  ⟨"MST_GROOM_SIDE", 0x28004c, (1, 0x1000000), (1, 0x1000000), 0x800000, 0xffffffff, 0x0, 0x0, 0x0⟩,
  ⟨"MST_GROOM_FREE", 0x280050, (1, 0x1000000), (1, 0x1000000), 0x40, 0xffffffff, 0x0, 0x0, 0x0⟩,
  ⟨"MST_WEAR_GAP", 0x280054, (1, 0x1000000), (1, 0x1000000), 0xc8, 0x0, 0xffffffff, 0x0, 0x0⟩,
  ⟨"MST_REFRESH_THR", 0x280058, (1, 0x1000000), (1, 0x1000000), 0x60, 0x0, 0xffffffff, 0x0, 0x0⟩,
  ⟨"MST_CAP", 0x28005c, (1, 0x1000000), (1, 0x1000000), 0x0, 0x0, 0x0, 0x0, 0x0⟩,
  ⟨"MST_FREE", 0x280060, (1, 0x1000000), (1, 0x1000000), 0x0, 0x0, 0x0, 0x0, 0x0⟩,
  ⟨"MST_ZONES_FREE", 0x280064, (1, 0x1000000), (1, 0x1000000), 0x0, 0x0, 0x0, 0x0, 0x0⟩,
  ⟨"MST_ERASE_SPREAD", 0x280068, (1, 0x1000000), (1, 0x1000000), 0x0, 0x0, 0x0, 0x0, 0x0⟩,
  ⟨"MST_DANGLING", 0x28006c, (1, 0x1000000), (1, 0x1000000), 0x0, 0x0, 0x0, 0x0, 0x0⟩,
  ⟨"MST_MOUNT_US", 0x280070, (1, 0x1000000), (1, 0x1000000), 0x0, 0x0, 0x0, 0x0, 0x0⟩,
  ⟨"MST_BBX_DROP", 0x280074, (1, 0x1000000), (1, 0x1000000), 0x0, 0x0, 0x0, 0x0, 0x0⟩]
/-- Rows of the block map at base 0x280000, continued. -/
def regRows28_c : List RegRow := [
  ⟨"MST_PAGES_LOST", 0x280078, (1, 0x1000000), (1, 0x1000000), 0x0, 0x0, 0x0, 0x0, 0x0⟩,
  ⟨"MST_REPROT_LEFT", 0x28007c, (1, 0x1000000), (1, 0x1000000), 0x0, 0x0, 0x0, 0x0, 0x0⟩]
/-- Rows of the block map at base 0x280000, continued. -/
def regRows28 : List RegRow := regRows28_a ++ regRows28_b ++ regRows28_c

/-- Rows of the block map at base 0x2a0000 (R12). -/
def regRows2A_a : List RegRow := [
  ⟨"PRS_CTRL", 0x2a0000, (1, 0x1000000), (1, 0x1000000), 0x0, 0x1, 0x0, 0x0, 0x0⟩,
  ⟨"PRS_STATUS", 0x2a0004, (1, 0x1000000), (1, 0x1000000), 0x0, 0x0, 0x0, 0x0, 0x0⟩,
  ⟨"PRS_ERR", 0x2a0008, (1, 0x1000000), (1, 0x1000000), 0x0, 0x0, 0x0, 0x3, 0x0⟩,
  ⟨"PRS_ERR_INFO", 0x2a000c, (1, 0x1000000), (1, 0x1000000), 0x0, 0x0, 0x0, 0x0, 0x0⟩,
  ⟨"PRS_EVENT", 0x2a0010, (1, 0x1000000), (1, 0x1000000), 0x0, 0x0, 0x0, 0xf, 0x0⟩,
  ⟨"PRS_QUERIES", 0x2a0014, (1, 0x1000000), (1, 0x1000000), 0x0, 0x0, 0x0, 0x0, 0x0⟩,
  ⟨"PRS_SHORT_CNT", 0x2a0018, (1, 0x1000000), (1, 0x1000000), 0x0, 0x0, 0x0, 0x0, 0x0⟩,
  ⟨"PRS_CAPPED_CNT", 0x2a001c, (1, 0x1000000), (1, 0x1000000), 0x0, 0x0, 0x0, 0x0, 0x0⟩,
  ⟨"PRS_PAGE_LOST_CNT", 0x2a0020, (1, 0x1000000), (1, 0x1000000), 0x0, 0x0, 0x0, 0x0, 0x0⟩,
  ⟨"PRS_INSERTS", 0x2a0024, (1, 0x1000000), (1, 0x1000000), 0x0, 0x0, 0x0, 0x0, 0x0⟩,
  ⟨"PRS_TOMBS", 0x2a0028, (1, 0x1000000), (1, 0x1000000), 0x0, 0x0, 0x0, 0x0, 0x0⟩,
  ⟨"PRS_SIDE_USED", 0x2a002c, (1, 0x1000000), (1, 0x1000000), 0x0, 0x0, 0x0, 0x0, 0x0⟩]
/-- Rows of the block map at base 0x2a0000, continued. -/
def regRows2A_b : List RegRow := [
  ⟨"PRS_SIDE_HIGH", 0x2a0030, (1, 0x1000000), (1, 0x1000000), 0xc00000, 0xffffffff, 0x0, 0x0, 0x0⟩,
  ⟨"PRS_CFG", 0x2a0034, (1, 0x1000000), (1, 0x1000000), 0x0, 0x0, 0xf0003ff, 0x0, 0x0⟩,
  ⟨"PRS_INDEX", 0x2a0038, (1, 0x1000000), (1, 0x1000000), 0x0, 0x0, 0x0, 0x0, 0x0⟩,
  ⟨"PRS_LAST_QUERY", 0x2a003c, (1, 0x1000000), (1, 0x1000000), 0x0, 0x0, 0x0, 0x0, 0x0⟩,
  ⟨"PRS_LAST_US", 0x2a0040, (1, 0x1000000), (1, 0x1000000), 0x0, 0x0, 0x0, 0x0, 0x0⟩,
  ⟨"PRS_SUs_PAGES", 0x2a0100, (1, 0x1000000), (8, 0x4), 0x0, 0x0, 0x0, 0x0, 0x0⟩,
  ⟨"PRS_SUs_STATUS", 0x2a0120, (1, 0x1000000), (8, 0x4), 0x0, 0x0, 0x0, 0x0, 0x0⟩]
/-- Rows of the block map at base 0x2a0000, continued. -/
def regRows2A : List RegRow := regRows2A_a ++ regRows2A_b

/-- Rows of the block map at base 0x300000 (R12). -/
def regRows30_a : List RegRow := [
  ⟨"HIF_CTRL", 0x300000, (1, 0x1000000), (1, 0x1000000), 0x0, 0x1, 0x0, 0x0, 0x0⟩,
  ⟨"HIF_STATUS", 0x300004, (1, 0x1000000), (1, 0x1000000), 0x0, 0x0, 0x0, 0x0, 0x0⟩,
  ⟨"HIF_ERR", 0x300008, (1, 0x1000000), (1, 0x1000000), 0x0, 0x0, 0x0, 0x1f, 0x0⟩,
  ⟨"HIF_ERR_INFO", 0x30000c, (1, 0x1000000), (1, 0x1000000), 0x0, 0x0, 0x0, 0x0, 0x0⟩,
  ⟨"HIF_EVENT", 0x300010, (1, 0x1000000), (1, 0x1000000), 0x0, 0x0, 0x0, 0x1, 0x0⟩,
  ⟨"HIF_ERR_VEC", 0x300014, (1, 0x1000000), (1, 0x1000000), 0x0, 0x8000007f, 0x0, 0x0, 0x0⟩,
  ⟨"HIF_WIN_BASE", 0x300018, (1, 0x1000000), (1, 0x1000000), 0x0, 0x3fffff, 0x0, 0x0, 0x0⟩,
  ⟨"HIF_DESC_CNT", 0x30001c, (1, 0x1000000), (1, 0x1000000), 0x0, 0x0, 0x0, 0x0, 0x0⟩,
  ⟨"HIF_DISCARD_CNT", 0x300020, (1, 0x1000000), (1, 0x1000000), 0x0, 0x0, 0x0, 0x0, 0x0⟩,
  ⟨"HIF_POSE_LO", 0x300040, (1, 0x1000000), (1, 0x1000000), 0x0, 0xffffff80, 0x0, 0x0, 0x0⟩,
  ⟨"HIF_POSE_HI", 0x300044, (1, 0x1000000), (1, 0x1000000), 0x0, 0xffffffff, 0x0, 0x0, 0x0⟩,
  ⟨"HIF_POSE_CFG", 0x300048, (1, 0x1000000), (1, 0x1000000), 0x4, 0x807fff1f, 0x0, 0x0, 0x0⟩]
/-- Rows of the block map at base 0x300000, continued. -/
def regRows30_b : List RegRow := [
  ⟨"HIF_POSE_DROP", 0x30004c, (1, 0x1000000), (1, 0x1000000), 0x0, 0x0, 0x0, 0x0, 0x0⟩,
  ⟨"HIF_EVT_LO", 0x300050, (1, 0x1000000), (1, 0x1000000), 0x0, 0xffffffe0, 0x0, 0x0, 0x0⟩,
  ⟨"HIF_EVT_HI", 0x300054, (1, 0x1000000), (1, 0x1000000), 0x0, 0xffffffff, 0x0, 0x0, 0x0⟩,
  ⟨"HIF_EVT_CFG", 0x300058, (1, 0x1000000), (1, 0x1000000), 0x4, 0x807f001f, 0x0, 0x0, 0x0⟩,
  ⟨"HIF_EVT_SEQ", 0x30005c, (1, 0x1000000), (1, 0x1000000), 0x0, 0x0, 0x0, 0x0, 0x0⟩,
  ⟨"HIF_EVT_DROP", 0x300060, (1, 0x1000000), (1, 0x1000000), 0x0, 0x0, 0x0, 0x0, 0x0⟩,
  ⟨"HIF_SQk_BASE_LO", 0x301000, (1, 0x1000000), (64, 0x20), 0x0, 0xffffffc0, 0x0, 0x0, 0x0⟩,
  ⟨"HIF_SQk_BASE_HI", 0x301004, (1, 0x1000000), (64, 0x20), 0x0, 0xffffffff, 0x0, 0x0, 0x0⟩,
  ⟨"HIF_SQk_CFG", 0x301008, (1, 0x1000000), (64, 0x20), 0x4, 0xb03f001f, 0x0, 0x0, 0x0⟩,
  ⟨"HIF_SQk_STATUS", 0x30100c, (1, 0x1000000), (64, 0x20), 0x0, 0x0, 0x0, 0x0, 0x0⟩,
  ⟨"HIF_SQk_TAIL", 0x301010, (1, 0x1000000), (64, 0x20), 0x0, 0x0, 0x0, 0x0, 0x0⟩,
  ⟨"HIF_SQk_FETCHED", 0x301014, (1, 0x1000000), (64, 0x20), 0x0, 0x0, 0x0, 0x0, 0x0⟩]
/-- Rows of the block map at base 0x300000, continued. -/
def regRows30_c : List RegRow := [
  ⟨"HIF_CQk_BASE_LO", 0x302000, (1, 0x1000000), (64, 0x20), 0x0, 0xffffffe0, 0x0, 0x0, 0x0⟩,
  ⟨"HIF_CQk_BASE_HI", 0x302004, (1, 0x1000000), (64, 0x20), 0x0, 0xffffffff, 0x0, 0x0, 0x0⟩,
  ⟨"HIF_CQk_CFG", 0x302008, (1, 0x1000000), (64, 0x20), 0x4, 0xc07f001f, 0x0, 0x0, 0x0⟩,
  ⟨"HIF_CQk_COAL", 0x30200c, (1, 0x1000000), (64, 0x20), 0x1, 0xffff00ff, 0x0, 0x0, 0x0⟩,
  ⟨"HIF_CQk_STATUS", 0x302010, (1, 0x1000000), (64, 0x20), 0x80000000, 0x0, 0x0, 0x0, 0x0⟩,
  ⟨"HIF_CQk_HEAD", 0x302014, (1, 0x1000000), (64, 0x20), 0x0, 0x0, 0x0, 0x0, 0x0⟩,
  ⟨"MSI-X table entry v", 0x308000, (1, 0x1000000), (512, 0x4), 0x0, 0xffffffff, 0x0, 0x0, 0x0⟩,
  ⟨"MSI-X pending-bit array", 0x309000, (1, 0x1000000), (4, 0x4), 0x0, 0x0, 0x0, 0x0, 0x0⟩]
/-- Rows of the block map at base 0x300000, continued. -/
def regRows30 : List RegRow := regRows30_a ++ regRows30_b ++ regRows30_c

/-- Rows of the block map at base 0x310000 (R12). -/
def regRows31_a : List RegRow := [
  ⟨"SAFE_CTRL", 0x310000, (1, 0x1000000), (1, 0x1000000), 0x1, 0x0, 0x1, 0x0, 0x0⟩,
  ⟨"SAFE_STATUS", 0x310004, (1, 0x1000000), (1, 0x1000000), 0x0, 0x0, 0x0, 0x0, 0x0⟩,
  ⟨"SAFE_EVENT", 0x310008, (1, 0x1000000), (1, 0x1000000), 0x0, 0x0, 0x0, 0x7f, 0x0⟩,
  ⟨"SAFE_ERR", 0x31000c, (1, 0x1000000), (1, 0x1000000), 0x0, 0x0, 0x0, 0x1, 0x0⟩,
  ⟨"SAFE_TRANSIENT_CNT", 0x310010, (1, 0x1000000), (1, 0x1000000), 0x0, 0x0, 0x0, 0x0, 0x0⟩,
  ⟨"SAFE_SWITCH_CNT", 0x310014, (1, 0x1000000), (1, 0x1000000), 0x0, 0x0, 0x0, 0x0, 0x0⟩,
  ⟨"SAFE_ROT_INT", 0x310018, (1, 0x1000000), (1, 0x1000000), 0x3e80, 0x0, 0xffffffff, 0x0, 0x0⟩,
  ⟨"SAFE_ROT_WAIT", 0x31001c, (1, 0x1000000), (1, 0x1000000), 0x7d0, 0x0, 0xffffffff, 0x0, 0x0⟩,
  ⟨"SAFE_ROT_SKIP", 0x310020, (1, 0x1000000), (1, 0x1000000), 0x0, 0x0, 0x0, 0x0, 0x0⟩,
  ⟨"SAFE_ROT_POS", 0x310024, (1, 0x1000000), (1, 0x1000000), 0x0, 0x0, 0x0, 0x0, 0x0⟩,
  ⟨"SAFE_RETIRE", 0x310028, (1, 0x1000000), (1, 0x1000000), 0x2580004, 0x0, 0xffff00ff, 0x0, 0x0⟩,
  ⟨"SAFE_PTEST_INT", 0x31002c, (1, 0x1000000), (1, 0x1000000), 0xfa0, 0x0, 0xffffffff, 0x0, 0x0⟩]
/-- Rows of the block map at base 0x310000, continued. -/
def regRows31_b : List RegRow := [
  ⟨"SAFE_LATENT_INT", 0x310030, (1, 0x1000000), (1, 0x1000000), 0x64, 0x0, 0xffffffff, 0x0, 0x0⟩,
  ⟨"SAFE_MIRROR_AGE", 0x310034, (1, 0x1000000), (1, 0x1000000), 0x0, 0x0, 0x0, 0x0, 0x0⟩,
  ⟨"SAFE_LAST_FAULT", 0x310038, (1, 0x1000000), (1, 0x1000000), 0x0, 0x0, 0x0, 0x0, 0x0⟩,
  ⟨"SAFE_BBX_SEQ", 0x31003c, (1, 0x1000000), (1, 0x1000000), 0x0, 0x0, 0x0, 0x0, 0x0⟩,
  ⟨"SAFE_BBX_DROP", 0x310040, (1, 0x1000000), (1, 0x1000000), 0x0, 0x0, 0x0, 0x0, 0x0⟩,
  ⟨"SAFE_BBX_PINNED", 0x310044, (1, 0x1000000), (1, 0x1000000), 0x0, 0x0, 0x0, 0x0, 0x0⟩,
  ⟨"SAFE_BOOT_CNT", 0x310048, (1, 0x1000000), (1, 0x1000000), 0x0, 0x0, 0x0, 0x0, 0x0⟩]
/-- Rows of the block map at base 0x310000, continued. -/
def regRows31 : List RegRow := regRows31_a ++ regRows31_b

/-- Rows of the block map at base 0x320000 (R12). -/
def regRows32_a : List RegRow := [
  ⟨"PWR_STATUS", 0x320000, (1, 0x1000000), (1, 0x1000000), 0x0, 0x0, 0x0, 0x0, 0x0⟩,
  ⟨"PWR_REQ", 0x320004, (1, 0x1000000), (1, 0x1000000), 0x0, 0x0, 0x0, 0x0, 0x3⟩,
  ⟨"PWR_ERR", 0x320008, (1, 0x1000000), (1, 0x1000000), 0x0, 0x0, 0x0, 0x3, 0x0⟩,
  ⟨"PWR_ERR_INFO", 0x32000c, (1, 0x1000000), (1, 0x1000000), 0x0, 0x0, 0x0, 0x0, 0x0⟩,
  ⟨"PWR_EVENT", 0x320010, (1, 0x1000000), (1, 0x1000000), 0x0, 0x0, 0x0, 0x1f, 0x0⟩,
  ⟨"PWR_GLIDE_CFG", 0x320014, (1, 0x1000000), (1, 0x1000000), 0x0, 0x30f, 0x0, 0x0, 0x0⟩,
  ⟨"PWR_CAP", 0x320018, (1, 0x1000000), (1, 0x1000000), 0x9c40, 0x0, 0xffffffff, 0x0, 0x0⟩,
  ⟨"PWR_NOW", 0x32001c, (1, 0x1000000), (1, 0x1000000), 0x0, 0x0, 0x0, 0x0, 0x0⟩,
  ⟨"PWR_AVG", 0x320020, (1, 0x1000000), (1, 0x1000000), 0x0, 0x0, 0x0, 0x0, 0x0⟩,
  ⟨"PWR_EXCESS", 0x320024, (1, 0x1000000), (1, 0x1000000), 0x0, 0x0, 0x0, 0x0, 0x0⟩,
  ⟨"PWR_TJ", 0x320028, (1, 0x1000000), (1, 0x1000000), 0x0, 0x0, 0x0, 0x0, 0x0⟩,
  ⟨"PWR_TJ_MAX", 0x32002c, (1, 0x1000000), (1, 0x1000000), 0x0, 0x0, 0x0, 0x0, 0x0⟩]
/-- Rows of the block map at base 0x320000, continued. -/
def regRows32_b : List RegRow := [
  ⟨"PWR_TALARM", 0x320030, (1, 0x1000000), (1, 0x1000000), 0x64, 0x0, 0xffffffff, 0x0, 0x0⟩,
  ⟨"PWR_LIMIT_CNT", 0x320034, (1, 0x1000000), (1, 0x1000000), 0x0, 0x0, 0x0, 0x0, 0x0⟩,
  ⟨"PWR_THROT_US", 0x320038, (1, 0x1000000), (1, 0x1000000), 0x0, 0x0, 0x0, 0x0, 0x0⟩,
  ⟨"PWR_WAKE_EN", 0x32003c, (1, 0x1000000), (1, 0x1000000), 0x4, 0x1f, 0x0, 0x0, 0x0⟩,
  ⟨"PWR_WAKE_TIMER", 0x320040, (1, 0x1000000), (1, 0x1000000), 0x0, 0xffffffff, 0x0, 0x0, 0x0⟩,
  ⟨"PWR_WAKE_CAUSE", 0x320044, (1, 0x1000000), (1, 0x1000000), 0x0, 0x0, 0x0, 0x0, 0x0⟩,
  ⟨"PWR_DOM_ONw", 0x320050, (1, 0x1000000), (3, 0x4), 0x0, 0x0, 0x0, 0x0, 0x0⟩,
  ⟨"PWR_PARK", 0x320060, (1, 0x1000000), (1, 0x1000000), 0x0, 0x7ff, 0x0, 0x0, 0x0⟩]
/-- Rows of the block map at base 0x320000, continued. -/
def regRows32 : List RegRow := regRows32_a ++ regRows32_b

/-- Rows of the block map at base 0x330000 (R12). -/
def regRows33 : List RegRow := [
  ⟨"SEC_STATUS", 0x330000, (1, 0x1000000), (1, 0x1000000), 0x0, 0x0, 0x0, 0x0, 0x0⟩,
  ⟨"SEC_LOCK", 0x330004, (1, 0x1000000), (1, 0x1000000), 0x0, 0x0, 0x0, 0x0, 0xff000000⟩,
  ⟨"SEC_ERR", 0x330008, (1, 0x1000000), (1, 0x1000000), 0x0, 0x0, 0x0, 0x7, 0x0⟩,
  ⟨"SEC_EVENT", 0x33000c, (1, 0x1000000), (1, 0x1000000), 0x0, 0x0, 0x0, 0xf, 0x0⟩,
  ⟨"SEC_FW_SVN", 0x330010, (1, 0x1000000), (1, 0x1000000), 0x0, 0x0, 0x0, 0x0, 0x0⟩,
  ⟨"SEC_FUSE_SVN", 0x330014, (1, 0x1000000), (1, 0x1000000), 0x0, 0x0, 0x0, 0x0, 0x0⟩,
  ⟨"SEC_VR_CNT", 0x330018, (1, 0x1000000), (1, 0x1000000), 0x0, 0x0, 0x0, 0x0, 0x0⟩,
  ⟨"SEC_SVN_COMMIT", 0x33001c, (1, 0x1000000), (1, 0x1000000), 0x0, 0x0, 0x0, 0x0, 0xff000003⟩,
  ⟨"SEC_AUTH_FAIL_CNT", 0x330020, (1, 0x1000000), (1, 0x1000000), 0x0, 0x0, 0x0, 0x0, 0x0⟩,
  ⟨"SEC_LAST_AUTH", 0x330024, (1, 0x1000000), (1, 0x1000000), 0x0, 0x0, 0x0, 0x0, 0x0⟩,
  ⟨"SEC_DEVIDw", 0x330040, (1, 0x1000000), (12, 0x4), 0x0, 0x0, 0x0, 0x0, 0x0⟩,
  ⟨"SEC_FWHASHw", 0x330080, (1, 0x1000000), (12, 0x4), 0x0, 0x0, 0x0, 0x0, 0x0⟩]

/-- The block maps by 64 KiB block number. Blocks that repeat (FDD1, TME1, TT, FLC) name the first of their kind; TT spans
its tiles' 4 KiB windows (R12). -/
def blockRows (blk : Nat) : List RegRow :=
  match blk with
  | 0x0 => regRows00
  | 0x1 => regRows01
  | 0x2 => regRows02
  | 0x3 => regRows03
  | 0x5 => regRows05
  | 0x6 => regRows06
  | 0x7 => regRows07
  | 0x8 => regRows08
  | 0xa => regRows0A
  | 0xc => regRows0C
  | 0xd => regRows0D
  | 0xe => regRows0E
  | 0x10 => regRows10
  | 0x18 => regRows18
  | 0x19 => regRows19
  | 0x1a => regRows1A
  | 0x1c => regRows1C
  | 0x20 => regRows20
  | 0x28 => regRows28
  | 0x2a => regRows2A
  | 0x30 => regRows30
  | 0x31 => regRows31
  | 0x32 => regRows32
  | 0x33 => regRows33
  | 0x9 => regRows08
  | 0xb => regRows0A
  | 0x11 => regRows10
  | 0x12 => regRows10
  | 0x13 => regRows10
  | 0x14 => regRows10
  | 0x21 => regRows20
  | 0x22 => regRows20
  | 0x23 => regRows20
  | 0x24 => regRows20
  | 0x25 => regRows20
  | 0x26 => regRows20
  | 0x27 => regRows20
  | _ => []

/-- Whether BAR0 offset `a` is a register of the row. -/
def rowCovers (r : RegRow) (a : Nat) : Bool :=
  let off := a - r.base
  r.base ≤ a && off / r.outer.2 < r.outer.1 && off % r.outer.2 % r.inner.2 == 0 &&
    off % r.outer.2 / r.inner.2 < r.inner.1

/-- The row that defines BAR0 offset `a`, if any block does (R14). -/
def regRow? (a : Nat) : Option RegRow := (blockRows (a / 0x10000)).find? (fun r => rowCovers r a)

/-- The reset value of the register at offset `a` that no reset condition outside the map changes. TT_IDn holds its
tile's own number (R252), MEM_REDIRn names its own tile (R263, R283); every other value is the block map's. -/
def resetVal (a : Nat) : Word :=
  if 0x100000 ≤ a ∧ a < 0x144000 ∧ a % 0x1000 = 0 then
    let n := (a - 0x100000) / 0x1000
    BitVec.ofNat 32 (n / 17 * 256 + n)
  else if 0x180900 ≤ a ∧ a < 0x180900 + 4 * 68 ∧ a % 4 = 0 then BitVec.ofNat 32 ((a - 0x180900) / 4)
  else if 0x308000 ≤ a ∧ a < 0x308800 ∧ a % 16 = 12 then 1
  else
    match regRow? a with
    | some r => r.reset
    | none => 0

end Sys2Proof.Machine
end

