-- ==== Sys2Proof/Machine/State.lean ====
section
/-! DEFINITION. The state of the HL7 as plain data: every register of BAR0 in one sparse file keyed by offset, memory, and,
block by block, the state the chapters give beside the registers. `State.reset` is the device right after a power-on reset. -/

namespace Sys2Proof.Machine

/-- Why the machine stops. No command of the table stops this model: the constructor names the one stop a later model part
could raise, and nothing raises it (safe: no claim rests on a fault). -/
inductive Fault where
  /-- Raised by nobody: kept so that the type of outcomes has a named fault. Safe. -/
  | unreachable
deriving DecidableEq, Repr

/-- Why a command has no meaning. -/
inductive Refusal where
  /-- Raised by an arm of `exec` whose command is not modelled yet, with the row's mnemonic. Safe. -/
  | notModelled (mnemonic : String)
deriving DecidableEq, Repr

/-! ### Device time (R35 to R55) -/

/-- The servo states of the servo-state table (R48). -/
inductive Servo where
  | unset | free | acquire | locked | qualify | refusing | holdover
deriving DecidableEq, Repr

/-- The DT block beside its registers. `prev` is the DT of the clock edge before the present one; `offset` is the last measured offset with the DT of its measurement and its sync
interval; `lossFrom` is the DT since which no usable offset has come (R52); `commit` is a committed step that the next
TIME_CLK edge applies. -/
structure Dt where
  now : DWord
  prev : DWord
  frac : Word
  servo : Servo
  everSet : Bool
  lock : Nat
  unlock : Nat
  qual : Nat
  offset : Int
  offsetAt : Option DWord
  interval : Nat
  lossFrom : DWord
  armed : Option (StepMode × DWord)
  commit : Option StepMode
  ppsStamp : DWord
  ppsPrev : Option DWord
deriving DecidableEq, Repr

/-- What firmware keeps for PTP (R42 to R44, R459): the selected master with the DT of its last Announce, the half-received
exchanges, the mean path delay, the asymmetry and the announce-receipt timeout. `sync` is (sequence, receive stamp,
correction), `fwd` the receive stamp less origin and correction of the last whole Sync, `msOffset` the offset from it that the
servo has not yet taken, `delay` the sequence and transmit stamp of the last Delay_Req or Pdelay_Req, `pdelay` (t2, t4,
correction) of a two-step peer response; `sent` are the messages sent, with their ports. -/
structure Ptp where
  master : Option Announce
  annAt : DWord
  sync : Option (Half × DWord × Int)
  fwd : Option Int
  delay : Option (Half × DWord)
  pdelay : Option (DWord × DWord × Int)
  msOffset : Option Int
  pathDelay : Int
  asym : Int
  annTmo : Nat
  seq : Half
  sent : List (Fin 2 × PtpSent)
deriving DecidableEq, Repr

/-! ### Start gates (R56 to R75) -/

/-- A gate that has fallen due and waits for a dispatch slot: the DT at which it fell due, and whether a forward step or the
setting of RUN passed over its fire time (R65, R75). -/
structure DueGate where
  gate : Nat
  dueDt : DWord
  passed : Bool
deriving DecidableEq, Repr

/-- A trigger pin driven by a pulse: active until the given DT (R69). -/
structure Pulse where
  active : Bool
  ends : DWord
deriving DecidableEq, Repr

/-- The start gates beside their registers: phases of R64, gates due, the gates dispatched at the edge of DT `slotDt` (R61),
pulses, stamps. -/
structure Sg where
  phase : Tab Half
  due : List DueGate
  slotDt : DWord
  fired : List Nat
  pulse : Tab Pulse
  stamp : Tab DWord
deriving DecidableEq, Repr

/-! ### Semaphores (R76 to R93) -/

/-- Who owns a wait (R81). -/
inductive Waiting where
  | gate (run gate : Nat)
  | descriptor (d : Nat)
  | copyEngine (e : Nat)
  | lse
  | prs
deriving DecidableEq, Repr

/-- A poll in progress: WAIT or WAITSUB of `n` on a semaphore, with an optional expiry in ns of DT, which is never reached where
it does not fit 64 bits (R81, R82). -/
structure Waiter where
  id : Nat
  owner : Waiting
  idx : Nat
  n : Word
  sub : Bool
  expiry : Option Nat
deriving DecidableEq, Repr

/-- Counts, the banks' round-robin pointers, the waits in progress, the shadow slots whose next write is due, and the result
returned to the issuer of the last operation: requester, success, count. `results` are those of the operations a bank served
for one cycle's contending requesters, in the order served (R80). `done` holds the outcome of each ended wait until its owner
takes it. -/
structure Sem where
  count : Tab Word
  rr : Tab Nat
  waiters : List Waiter
  nextWaiter : Nat
  shadowDue : List Nat
  result : Option (Nat × Bool × Word)
  results : List (Nat × Bool × Word)
  done : List (Waiting × Bool)
deriving DecidableEq, Repr

/-! ### Event controller (R94 to R105) -/

/-- A claim of the present cycle (R100): its target, the source it took (0 or 0x3FF for none), and whether the source's
software latch was set. -/
structure ClaimRec where
  target : Nat
  source : Nat
  latched : Bool
deriving DecidableEq, Repr

/-- Software latches, sources held high by an edge or a wake latch until completed, per-target enables and active sources,
the wake latches of the always-on domain, the claims of the present cycle, and the last claim response of each target. -/
structure Evc where
  latch : BitVec 512
  held : BitVec 512
  en : Tab (BitVec 512)
  active : Tab (BitVec 512)
  wake : BitVec 512
  wakeMask : BitVec 512
  wakeArmed : Bool
  cycleClaims : List ClaimRec
  response : Tab Word
deriving DecidableEq, Repr

/-! ### Ingress (R106 to R128) -/

/-- What the time map gives a frame: frame time, flags, residual, the map in force (none while the frame carries the
fallback time), and, where the map took the frame's entry, the window without it (R577). -/
structure Judged where
  time : Int
  flags : Nat
  resid : Int
  map : Option (List (Nat × Int))
  undo : Option (List (Nat × Int))
deriving DecidableEq, Repr

/-- A frame being received into a slot. `buf` is none for a dropped frame; `rows` counts image lines taken, `points` records
written and `packets` packets of a sweep, whose last 16-bit sweep field is `prevField`; `sensor` is the unwrapped sensor time;
`embSeen` says that the first embedded-data packet has come; `judged` is what the time map gave the frame, once it has; `size`, `err` and
`trunc` are flags of the frame record; `count` is the frame count and `returned` its RETURNED flag. -/
structure OpenFrame where
  start : DWord
  last : DWord
  buf : Option Nat
  rows : Nat
  points : Nat
  packets : Nat
  prevField : Option Nat
  sensor : Option Nat
  embSeen : Bool
  judged : Option Judged
  size : Bool
  err : Bool
  trunc : Bool
  returned : Bool
  count : Nat
deriving DecidableEq, Repr

/-- A frame slot beside its registers: next buffer, frames since enable, time map window (newest first: sensor time × TICK in
2^−16 ns, fallback time), last unwrapped sensor time, judging counts, and the stamp that loss detection measures from. -/
structure FrameSlot where
  frame : Option OpenFrame
  nextBuf : Nat
  count : Nat
  window : List (Nat × Int)
  unwrapped : Option Nat
  outliers : Nat
  good : Nat
  drift : Bool
  lossFrom : DWord
deriving DecidableEq, Repr

/-- A closed frame of a stereo pair that waits for its partner (R125): its side, buffer, record and frame time, and the DT of
its end. -/
structure PairFrame where
  right : Bool
  slot : Nat
  buf : Nat
  time : Int
  ends : DWord
deriving DecidableEq, Repr

/-- An inertial slot: the stamp of the running transaction, the command bytes that the last transaction sent (R113), the last
stamp, the gap markers that wait behind the running transaction, and the stamp that loss detection measures from. -/
structure ImuSlot where
  running : Option DWord
  sent : List Byte
  stamp : DWord
  gaps : List DWord
  lossFrom : DWord
deriving DecidableEq, Repr

/-- Ingress: the slots, the undecided frames of each pair and the frame times of those already decided, by 2 × pair + side. -/
structure Ing where
  fs : Tab FrameSlot
  imu : Tab ImuSlot
  waiting : Tab (List PairFrame)
  decided : Tab (List Int)
deriving DecidableEq, Repr

/-! ### Inertial filter chain (R129 to R149) -/

/-- One channel's arithmetic: the CIC's integrator and comb registers as the spec's 48-bit words, the past inputs of the FIR
and of each half-band stage (newest first) with their counts, the sum of the averaging mode, the previous input, the source
in effect until a pending switch takes effect, the outputs still to carry SWITCH, the last output, and the saturations
since it. -/
structure IfcChan where
  integ : List (BitVec 48)
  comb : List (BitVec 48)
  fir : List Int
  firCount : Nat
  hb : List (List Int)
  hbCount : List Nat
  sum : Int
  prev : Int
  src : Nat
  pendingSrc : Bool
  switchLeft : Nat
  out : Int
  sat : Nat
deriving DecidableEq, Repr

/-- An output whose record is due: its time, flags, channel-enable mask, sequence and samples, all as of its forming (R137). -/
structure IfcDue where
  time : Int
  flags : Nat
  mask : Nat
  seq : Word
  samples : List Int
deriving DecidableEq, Repr

/-- A slot of the filter chain: inputs since restart, outputs since restart, inputs since the last filled sample, the next
output's sequence, and the outputs whose records are due. -/
structure IfcSlot where
  n : Nat
  k : Nat
  gapAge : Option Nat
  restart : Bool
  seq : Word
  due : List IfcDue
  ch : Tab IfcChan
deriving DecidableEq, Repr

/-- A single-frequency detector: samples taken in the block, the recurrence state in 2^−36, the block's exact sums of x cos ωn
and −x sin ωn in 2^−136 (the values R145 holds the results to), gap mark, block start, and the latched results (power, phase,
start, info) that a capture takes (R144 to R146). -/
structure Detector where
  n : Nat
  s1 : Int
  s2 : Int
  re : Int
  im : Int
  gap : Bool
  start : DWord
  blocks : Nat
  power : DWord
  phase : Half
  pstart : DWord
  info : Word
deriving DecidableEq, Repr

/-- An output of the filter chain delivered to the track filter unit (R137): slot, time, flags, samples. -/
structure IfcOut where
  slot : Nat
  time : Int
  flags : Nat
  samples : List Int
deriving DecidableEq, Repr

/-- The filter chain: slots, detectors, the outputs the track filter unit has not yet taken, whether its power domain or its
datapath is out of service (R488). -/
structure Ifc where
  slot : Tab IfcSlot
  det : Tab Detector
  delivered : List IfcOut
  failed : Bool
deriving DecidableEq, Repr

/-! ### Host interface and black box (the parts every block uses) -/

/-- A black-box record waiting in the AOM's queue: what the writer adds (sequence, boot count, CRC) is not yet in it.
`post` says whether its event is posted to the event ring when it is written (R495). -/
structure BbxRec where
  dt : DWord
  code : Nat
  unit : Nat
  args : List Byte
  post : Bool
deriving DecidableEq, Repr

/-! ### Jobs of the units (R150, R218) -/

/-- Whom a unit's completion report goes to: a gate of a run, a descriptor, a start gate,
the place-recognition coordinator, or firmware. -/
inductive Owner where
  | gate (run gate : Nat)
  | descriptor (d : Nat)
  | startGate (n : Nat)
  | coordinator
  | firmware
deriving DecidableEq, Repr

/-- A job at a unit: its owner, unit code, context, block address and block, the status its work has ended with, and what the
unit latched at its start (buffer indices, table addresses, versions). -/
structure Job where
  owner : Owner
  unit : Nat
  ctx : Nat
  addr : Nat
  block : List Byte
  status : Option Nat
  latch : List Nat
deriving DecidableEq, Repr

/-- A completion report: owner and status. -/
structure Report where
  owner : Owner
  status : Nat
deriving DecidableEq, Repr

/-! ### Vision engines (R150 to R209) -/

/-- The vision engines beside their registers: the running job of each unit code, the detect record of each slot (buffer and
frame count, newest first, R169), the slots whose builder runs, the pair latches a job has taken, and the epoch of a
durable commit that has not reached the engines yet (R204). -/
structure Vis where
  running : Tab (Option Job)
  detects : Tab (List (Nat × Nat))
  builder : Tab Bool
  pairTaken : Tab Bool
  swapDue : Option DWord
deriving DecidableEq, Repr

/-! ### Frame graphs (R210 to R226) -/

/-- A gate entry of a graph. -/
structure GateEntry where
  unit : Nat
  consume : Bool
  sigAlways : Bool
  pair : Nat
  dep : Nat
  waitSem : Nat
  sigSem : Nat
  waitN : Word
  sigAdd : Word
  needs : Nat
  timeout : Nat
  job : Nat
deriving DecidableEq, Repr

/-- A graph: its header and gates, with the raw bytes the gate store shows. -/
structure Graph where
  ngates : Nat
  ctx : Nat
  prio : Nat
  maxrun : Nat
  jring : Nat
  cq : Nat
  endSem : Nat
  endAdd : Word
  jstride : Nat
  deadline : Nat
  records : Nat
  gates : List GateEntry
  raw : List Byte
deriving DecidableEq, Repr

/-- How far a gate of a run has come. -/
inductive GateStage where
  | idle | depHold | waiting | queueHold | queued | running | final
deriving DecidableEq, Repr

/-- A gate of a run: stage, final status, its record flags (SKIPPED, WAIT_TIMEOUT, SIGNALLED, NOT_REACHED) and time. -/
structure GateRun where
  stage : GateStage
  status : Nat
  flags : Nat
  time : Nat
deriving DecidableEq, Repr

/-- A run of a graph (R215): `launchDt` is that of gate 0; `expiry` is that of the cursor's gate, where it has one, once its
evaluation has begun, which `begun` says; `causeIdx` is the start-gate index or the descriptor tag, `desc` the descriptor
that launched it; `recorded` says that the run record is written and only its completion waits (R222). -/
structure Run where
  id : Nat
  graph : Nat
  count : Nat
  accepted : DWord
  launchDt : Option DWord
  begun : Bool
  expiry : Option Nat
  cursor : Nat
  gates : List GateRun
  cause : Nat
  causeIdx : Nat
  desc : Option Nat
  aborted : Bool
  recorded : Bool
deriving DecidableEq, Repr

/-- The sequencer: resident graphs, runs in flight in order of acceptance, the job queues by unit code, of 8 entries each, the
start-gate solves and coarse jobs that wait to join a full queue, the jobs that each unit has started and not ended (vision
engines hold theirs apart), the owners whose jobs were asked to abort, and the reports that reached it. -/
structure Fgs where
  graphs : Tab (Option Graph)
  runCount : Tab Nat
  runs : List Run
  nextRun : Nat
  queues : Tab (List Job)
  joining : Tab (List Job)
  started : Tab (List Job)
  abortAsked : List Owner
  reports : List Report
deriving DecidableEq, Repr

/-! ### Power (the parts every unit asks, R500 to R507) -/

/-- Power states (R503). -/
inductive PState where
  | run | glide | hold
deriving DecidableEq, Repr

/-- Power: the present state, the state being entered, when that request was accepted and whether it came through the Acser
port; the power samples of the last 2 s, newest first (R512), the steps of the governor and of the thermal limit, LIMIT,
the boundaries since the governor last raised the clock; the VDD_CORE target in mV, the target requested over AVSBus and not
yet reported reached, and the ARRAY_CLK step that waits for it (R566). -/
structure Pwr where
  pstate : PState
  target : Option PState
  since : DWord
  acser : Bool
  window : List Nat
  gov : Nat
  therm : Nat
  limit : Bool
  sinceRaise : Nat
  volt : Nat
  avs : Option Nat
  raise : Option Nat
deriving DecidableEq, Repr

/-! ### Host rings (R443 to R474) -/

/-- How far a fetched descriptor has come: fetched, held by FENCE, held for a gate, released by the gate's firing, waiting on
its semaphore, past its wait, at its unit, its work ended, its signal applied. -/
inductive DescStage where
  | fetched | fenceHold | gateHold | gateFired | waitHold | waited | dispatched | ended | signalled
deriving DecidableEq, Repr

/-- A descriptor in the device: ring, completion ring, bytes, stage, and, once its work has ended, status, result words, DT of the end, and
whether it failed its header check, which applies no signal (R454). `gateLost` says that its gate was disarmed without
firing, `heldAt` when its hold for the gate began, `lost` that its completion is discarded after a link down (R472). -/
structure Desc where
  id : Nat
  sq : Nat
  cq : Nat
  bytes : List Byte
  stage : DescStage
  gateLost : Bool
  heldAt : DWord
  lost : Bool
  status : Nat
  result : List Byte
  endDt : DWord
  noSignal : Bool
deriving DecidableEq, Repr

/-- A completion on its way to a ring: of a descriptor of ring `sq`, or of a graph run where there is none. -/
structure Completion where
  cq : Nat
  sq : Option Nat
  tag : Nat
  status : Nat
  signalled : Bool
  dt : DWord
  result : List Byte
  noirq : Bool
deriving DecidableEq, Repr

/-- A completion ring beside its registers: for each entry between head and tail whether it was written with NOIRQ and when;
the DT of the last head doorbell, and that of its last message. -/
structure CqState where
  entries : List (Bool × DWord)
  doorbell : DWord
  sent : Option DWord
deriving DecidableEq, Repr

/-- The host interface: descriptors in the device in order of fetch, rings, completions held for full rings (R450), and the SQ
of each class that fetched and dispatched last (R453). -/
structure Hif where
  descs : List Desc
  nextDesc : Nat
  cq : Tab CqState
  hold : List Completion
  fetchTurn : List Nat
  dispatchTurn : List Nat
deriving DecidableEq, Repr

/-! ### Tensor tiles (R227 to R253) -/

/-- The monitor of a channel over a job (R240): least and greatest q, bits of the greatest magnitude of t, saturations. -/
structure TileMon where
  seen : Bool
  least : Int
  most : Int
  bits : Nat
  sat : Nat
deriving DecidableEq, Repr

/-- A pass in progress: the comparisons it has passed, and what faults have added to its accumulators without being seen
(R246). -/
structure PartPass where
  points : Nat
  errs : List AccErr
deriving DecidableEq, Repr

/-- A running tile job: program, start, seed, slots with their local copy, passes still to come, LFSR lanes by
32 × logical tile + lane, counts, monitors, the logical tiles whose failed pass runs again, the pass in progress on each logical
tile, whether a takeover took place, the status once decided, and the tile that last ran a pass. -/
structure TileJob where
  id : Nat
  job : Job
  prog : Nat
  p : TileProg
  startDt : DWord
  seed : Nat
  first : Nat
  slots : List Byte
  left : List TilePass
  lanes : Tab Nat
  satRq : Nat
  satNl : Nat
  mons : Tab TileMon
  passes : Nat
  reexec : Nat
  retry : List Nat
  part : Tab PartPass
  takeovers : Nat
  status : Option Nat
  lastTile : Nat
deriving DecidableEq, Repr

/-- The tile unit: its running jobs, and the non-linear banks of each logical tile, by 512 × logical tile + 256 × bank +
entry. -/
structure Tiles where
  running : List TileJob
  nextJob : Nat
  banks : Tab Word
deriving DecidableEq, Repr

/-! ### Memory tiers and copy engines (R254 to R285) -/

/-- A move of a tile range under a fence (R263): the redirect word it ends with, and the neighbour grant it evacuates or
restores. -/
structure Move where
  target : Word
  evac : Option Nat
  restore : Option Nat
deriving DecidableEq, Repr

/-- A job on a copy engine: its entries with the one in hand first, the index of that entry, lines written by it, and the
status its end carries once known. -/
structure CopyJob where
  job : Job
  entries : List (List Byte)
  idx : Nat
  lines : Nat
  status : Option Nat
deriving DecidableEq, Repr

/-- A loaded context: the logical tiles it names, copy plans, tile programs, graph slots, and for each neighbour slot the grant it holds (none on its
shadow from the load on). -/
structure Ctx where
  tiles : List Nat
  plans : Tab (List (List Byte))
  progs : Tab (Option TileProg)
  graphs : List Nat
  nbr : List (Option Nat)
deriving DecidableEq, Repr

/-- A byte of a store that a fence holds: which store it is of, its address and value (R263). -/
structure HeldByte where
  store : Nat
  addr : Nat
  byte : Byte
deriving DecidableEq, Repr

/-- A semaphore signal that waits until held stores have been acknowledged: which stores, requester, semaphore field, add
(R85). -/
structure LateSignal where
  stores : List Nat
  req : Nat
  field : Nat
  add : Word
deriving DecidableEq, Repr

/-- MEM and GDR beside their registers: contexts, moves under way by range, engines, the tile each grant is to be restored
to, the tiles firmware has parked, the patrol's next line, the channel retrained next, the held stores that each job still has
unacknowledged (R576), the completions that wait for such stores (owner, status, result), and the signals that do (R85, R274). -/
structure Mem where
  ctx : Tab (Option Ctx)
  moves : Tab (Option Move)
  ce : Tab (Option CopyJob)
  restore : Tab (Option Nat)
  parked : List Nat
  scrub : Nat
  retrain : Nat
  unacked : List (Owner × Nat)
  deferred : List (Owner × Nat × List Byte)
  signals : List LateSignal
deriving DecidableEq, Repr

/-! ### Faults and the black box (R475 to R498) -/

/-- A tile takeover under way (R249): the failed tile, the logical tile, the new tile, and how: 0 the free tile of the piste,
1 of another piste, 2 a fold; the ranges it moves. -/
structure Takeover where
  failed : Nat
  logical : Nat
  new : Nat
  how : Nat
  ranges : List Nat
deriving DecidableEq, Repr

/-- A rotation step of a piste (R489): the logical tile, the tile it leaves, its stand-in, since when it waits or runs, and
whether it waits for a boundary, moves, or tests the released tile. -/
inductive RotStage where
  | waiting | moving | testing
deriving DecidableEq, Repr
structure RotStep where
  logical : Nat
  old : Nat
  standIn : Nat
  since : DWord
  stage : RotStage
  grant : Option Nat
deriving DecidableEq, Repr

/-- SAFE beside its registers: transients of each unit instance in the window and when its last one was posted, the tile
takeover and the rotation steps under way, the last mirror, the switchover under way (failed pair, DT of detection), whether the next pose record carries TAKEOVER, safe state, and the retired control pairs. -/
structure Safe where
  recent : Tab (List DWord)
  posted : Tab (Option DWord)
  takeover : Option Takeover
  rot : Tab (Option RotStep)
  mirror : Option DWord
  switching : Option (Nat × DWord)
  katDue : Bool
  engineTest : List Nat
  engineFailed : List Nat
  coreTest : Option (Nat × Bool)
  poseTakeover : Bool
  inSafe : Bool
  retired : List Nat
deriving DecidableEq, Repr

/-- The MRAM black box (R494): its bytes and its slots; the writer's sequence, slot, boot count, generation, first pinned
slot, pinned count and flags, whether a pin set exists, and the pinned records read, by their place in the set (R496). -/
structure Bbx where
  mram : List Host.Cell
  seq : Word
  slot : Nat
  boot : Word
  gen : Word
  pinFirst : Nat
  pinned : Nat
  flags : Nat
  pinRead : List Nat
  slots : Nat
deriving DecidableEq, Repr

/-! ### Always-on domain (R533 to R576) -/

/-- How far a start-up has come (R545 to R559): supply off; always-on reset until the crystal is stable; PWR_EN_CORE held back
while PWR_FAIL_N is low; core rails coming up; boot ROM; waiting for a recovery image; firmware training memory; trained;
ready; core reset held; failed, with the core rails off or on; core rails off in HOLD. -/
inductive Boot where
  | off | aonReset | railDefer | rails | rom | recovery | training | trained | ready | coreHeld | railsFailed | failed | hold
deriving DecidableEq, Repr

/-- The always-on domain: the causes for which ALERT_N is low, how far the start-up has come, the levels of PWR_FAIL_N and
PERST_N (true: low), the always-on sensor in 1/16 °C, the DT of the last release of the fabric reset, whether HOLD came from
a thermal shutdown, the wake cause that waits for PWR_FAIL_N (R509), the wake enables and the wake cause as HOLD keeps them,
whether safe state is what the next core reset leaves, the recovery window still open (R559), and whether the crystal
failed in HOLD, which stops the holdover counter (R511); the last state change, from + 256 × to (R520). -/
structure Aon where
  alerts : List Nat
  boot : Boot
  failLow : Bool
  perstLow : Bool
  temp : Int
  released : DWord
  shutdown : Bool
  wakeDue : Option Nat
  wakeEn : Nat
  wakeTimer : Nat
  wakeCause : Nat
  fromSafe : Bool
  window : Bool
  clockLost : Bool
  lastChange : Nat
deriving DecidableEq, Repr

/-! ### Security and the Acser port (R522 to R544) -/

/-- A directory copy of the NOR: generation and active slot (0 A, 1 B, 2 recovery), where its CRC is good (R522). -/
structure NorDir where
  gen : Nat
  slot : Nat
deriving DecidableEq, Repr

/-- The boot flash: the two directory copies and the bytes of its other regions; an unlisted byte reads 0xFF. -/
structure Nor where
  dir0 : Option NorDir
  dir1 : Option NorDir
  bytes : List Host.Cell
deriving DecidableEq, Repr

/-- A RECOVER in progress (R541): image size, bytes received so far, and whether it goes to the slab. -/
structure Recovery where
  size : Nat
  got : Nat
  slab : Bool
deriving DecidableEq, Repr

/-- Security: fuses (firmware SVN counter, version-record counter, owner root hash, LOCK_REQUIRED), OWNER_SET as the last
power-on reset read it, the NOR where one answers, identity reconstructed, slot, header and FALLBACK of the running image, the
session, the latest unspent challenge, body hashes of the loaded packages by context, command and sequence of the last request run, the
response frame that can be read, and that of the last request run, the quote in hand, the recovery in progress,
and the image (2 recovery slot, 3 slab) that a recovery has left for the boot ROM to start. -/
structure Sec where
  fuseSvn : Nat
  fuseVr : Nat
  ownerHash : Option (List Byte)
  ownerSet : Bool
  lockFuse : Bool
  nor : Option Nor
  idOk : Bool
  slot : Nat
  header : List Byte
  fallback : Bool
  session : Bool
  challenge : Option (List Byte)
  pkg : Tab (List Byte)
  lastCmd : Nat
  lastSeq : Nat
  lastRun : Bool
  resp : List Byte
  lastResp : List Byte
  quote : List Byte
  recovery : Option Recovery
  recovered : Option Nat
deriving DecidableEq, Repr

/-! ### Track filter unit (R286 to R312) -/

/-- A nominal pose with its time: position in 2^−24 m, attitude in Q2.30, velocity in 2^−16 m/s. -/
structure TfuPose where
  time : Int
  pos : List Int
  att : List Int
  vel : List Int
deriving DecidableEq, Repr

/-- An object filter that has been initialised: state time, updates, state (position 2^−24 m, velocity and acceleration in
2^−24) and covariance by rows. -/
structure TfuObj where
  time : Int
  updates : Nat
  x : List Int
  p : List (List Int)
deriving DecidableEq, Repr

/-- The track filter: nominal state with its time, biases, auxiliary elements (normalised Q8.24), covariance by rows, the
history newest first, the angular rate last used, pose flags since the last record, predicts since it, the last settled
samples of each slot, the DT of the last applied update, the next pose and innovation sequences, the object filters, the
declared exponent and noise density of each auxiliary element, and whether IS_P has been declared lost and has not delivered
since (R290). -/
structure Tfu where
  pose : TfuPose
  bg : List Int
  ba : List Int
  aux : List Int
  p : List (List Int)
  hist : List TfuPose
  rate : List Int
  flags : Nat
  count : Nat
  good : Tab (List Int)
  aided : Option DWord
  seq : Word
  innov : Word
  objs : Tab (Option TfuObj)
  auxDecl : List AuxDecl
  alt : Bool
deriving DecidableEq, Repr

/-! ### Least-squares engine (R313 to R377) -/

/-- A schedule slot: its schedule, the package's declarations for it (the scalars and exponents that a build keeps), whether
the builder may fill it and how far, completed builds, whether one runs. -/
structure SchedSlot where
  sched : Option Schedule
  decl : Schedule
  buildable : Bool
  maxPoses : Nat
  maxFactors : Nat
  gen : Nat
  building : Bool
deriving DecidableEq, Repr

/-- The result of an assembly pass: the values it was made at, the blocks by row × 2^24 + column, the gradient, the exponents
of groups A and G of each supernode, and the cost accumulator. -/
structure Assembly where
  vals : List (List Byte)
  a : Tab Int
  g : Tab Int
  expA : List Int
  expG : List Int
  cost : Int
deriving DecidableEq, Repr

/-- A running solve: its job and block, accept DT and deadline, slot, schedule, structure hash, the accepted assembly, the
exponents [A, P, L, G, Y, X] of each supernode, damping code, iterations completed and accepted, flags of the solve record,
matched variables, the cost of iterate 0, rescales, clamps, the least headroom of each group kind, and the epoch committed
when it was accepted (R26). -/
structure Solve where
  job : Job
  accept : DWord
  deadline : Option DWord
  slot : Nat
  sched : Schedule
  hash : DWord
  asm : Assembly
  exps : List (List Int)
  lam : Int
  iters : Nat
  accepted : Nat
  flags : Nat
  matched : Nat
  cost0 : Int
  rescales : Nat
  clamps : Nat
  hr : List Nat
  epoch : Nat
deriving DecidableEq, Repr

/-- A BUILD in progress: job, schedule slot key, structure of the image. -/
structure Build where
  job : Job
  key : Nat
  tables : List Byte
deriving DecidableEq, Repr

/-- The least-squares engine: schedule slots by 64 × context + slot, solve slots likewise, the solve taken and not yet
accepted, the running solve, the builds in order. -/
structure Lse where
  sched : Tab (Option SchedSlot)
  slots : Tab (List Byte)
  taken : Option Job
  solve : Option Solve
  builds : List Build
deriving DecidableEq, Repr

/-! ### Flash and the map store (R404 to R442) -/

/-- The NAND parts the board carries (R404): by channel the die positions that answer (bit 4 × CE + LUN), erase blocks of a
die, pages of a block in native and in SLC mode, and the factory bad blocks as (channel, block). A block of die `d` is
numbered `d` × blocks + its place in the die. -/
structure Nand where
  dies : List Nat
  blocks : Nat
  natPages : Nat
  slcPages : Nat
  factory : List (Nat × Nat)
deriving DecidableEq, Repr

/-- A data page (R407): the number the model knows it by (0 once dead), kind, owner, index within the owner, open epoch when
written, the two halves of bytes 0 to 3, and the bytes used from byte 64 on. -/
structure FPage where
  pid : Nat
  kind : Nat
  owner : Nat
  index : Nat
  epoch : Nat
  head : Nat
  body : List Byte
deriving DecidableEq, Repr

/-- A stripe (R406): sequence, zone and place in it, the channels it spans in ascending order, its data pages, and the
channels whose page was found unreadable. -/
structure Stripe where
  seq : Nat
  zone : Nat
  row : Nat
  chans : List Nat
  pages : List FPage
  unread : List Nat
deriving DecidableEq, Repr

/-- A zone: native or SLC, one block of each channel as (channel, block), stripes written. -/
structure Zone where
  native : Bool
  blocks : List (Nat × Nat)
  written : Nat
deriving DecidableEq, Repr

/-- A root record (R434): generation, checkpoint epoch, sequence of the first journal stripe after its commit stripe. -/
structure Root where
  gen : Nat
  epoch : Nat
  start : Nat
deriving DecidableEq, Repr

/-- The flash: parts, erase counts and bad blocks (1 factory, 2 grown) by 2^24 × channel + block, zones, the zones being
filled (SLC, native), stripes oldest first, the next stripe sequence and page number, the valid root copies, the pages
queued for refresh as (stripe, channel), the directory and black-box pages of the checkpoint, the dies (channel, die) that did
not report ready in time on their last command, and the DT of each die's last uncorrectable codeword (R436). -/
structure Flash where
  nand : Nand
  erase : Tab Nat
  bad : Tab Nat
  zones : Tab (Option Zone)
  nextZone : Nat
  slcZone : Option Nat
  natZone : Option Nat
  stripes : List Stripe
  nextSeq : Nat
  nextPid : Nat
  roots : List Root
  refresh : List (Nat × Nat)
  dirs : List Nat
  late : List (Nat × Nat)
  uncorr : List (Nat × Nat × DWord)
deriving DecidableEq, Repr

/-- A map object (R410): type, ID, body, whether tombstoned, epoch of its last record, the page that holds it. -/
structure MapObj where
  type : Nat
  id : Nat
  body : List Byte
  tomb : Bool
  epoch : Nat
  page : Nat
deriving DecidableEq, Repr

/-- A list version (R417): its pages and its chain cut. -/
structure ListVer where
  pages : List Nat
  cut : Option Nat
deriving DecidableEq, Repr

/-- A retained or held epoch: its objects by 2^32 × type + ID, its index image (empty for none), its list versions. -/
structure View where
  epoch : Nat
  objs : Tab (Option MapObj)
  index : List Byte
  lists : Tab ListVer
deriving DecidableEq, Repr

/-- A record of the open epoch (R411). A VERSION record publishes a list version, new pages of objects (key, epoch of the
record moved, page), or removals. -/
inductive JRec where
  | put (o : MapObj)
  | tomb (type id page : Nat)
  | side (index : Nat)
  | index (image : List Byte)
  | version (list : Nat) (v : ListVer)
  | moved (objs : List (Nat × Nat × Nat))
  | removed (keys : List Nat)
deriving DecidableEq, Repr

/-- A side-list entry (R386): its index, item ID, segment, whether a tombstone, list, index of the previous entry of the
list, epoch stamp, code. -/
structure SideEntry where
  index : Nat
  id : Nat
  seg : Nat
  tomb : Bool
  list : Nat
  prev : Nat
  stamp : Nat
  code : List Byte
deriving DecidableEq, Repr

/-- A stripe being programmed: its sequence, and whether it is a journal, a commit or a pin stripe. -/
inductive ProgKind where
  | journal | commit | pin
deriving DecidableEq, Repr
structure Prog where
  seq : Nat
  kind : ProgKind
deriving DecidableEq, Repr

/-- The COMMIT, PIN or UNPIN of the write lane that waits for its stripe: job, epoch it concerns, and whether its own stripe
has been issued. -/
structure WriteJob where
  job : Job
  epoch : Nat
  issued : Bool
deriving DecidableEq, Repr

/-- An epoch that has committed since the checkpoint: its view, and the side-list entries that carry its stamp. -/
structure PastEpoch where
  view : View
  side : List SideEntry
deriving DecidableEq, Repr

/-- A PIN or UNPIN since the checkpoint: the open epoch and the stripe of its record, and the pins after it. -/
structure PinRec where
  epoch : Nat
  seq : Nat
  pins : List Nat
deriving DecidableEq, Repr

/-- What the checkpoint in force holds (R434): its epoch, the retained epochs' views, the pins, the side list. -/
structure Checkpoint where
  epoch : Nat
  views : List View
  pins : List Nat
  side : List SideEntry
deriving DecidableEq, Repr

/-- The map store beside its registers: flash, the views, the committed epoch (0: none), the pins, the open epoch's records
and its journal so far (open pages, sequence of its first stripe, stripes, records, the CRCs of its pages), the write job in
flight, the stripes being programmed, the side list oldest first, the black-box records not yet mirrored and those mirrored
by sequence, the records that the commit stripe in flight mirrors, and what the checkpoint and the journal hold for a recovery
(R427). -/
structure Mst where
  flash : Flash
  views : List View
  committed : Nat
  pins : List Nat
  records : List JRec
  pages : List FPage
  firstSeq : Nat
  nstripes : Nat
  crcs : List Byte
  write : Option WriteJob
  programming : List Prog
  side : List SideEntry
  nextSide : Nat
  bbxSince : List (List Byte)
  mirroring : List (List Byte)
  mirror : Tab (List Byte)
  base : Checkpoint
  past : List PastEpoch
  pinLog : List PinRec
deriving DecidableEq, Repr

/-! ### Place recognition (R378 to R403) -/

/-- A list page of the running query at a schuss unit: page, unit, whether it has arrived. -/
structure PrsPage where
  pid : Nat
  su : Nat
  arrived : Bool
deriving DecidableEq, Repr

/-- A candidate: D, item ID, list, segment, and, for a side-list entry, its index. -/
structure PlaceCand where
  d : Nat
  id : Nat
  list : Nat
  seg : Nat
  side : Option Nat
deriving DecidableEq, Repr

/-- The running QUERY or INSERT of the coordinator: job, accept DT, epoch E (the open epoch for an INSERT), status of its
coarse job once that has ended, flags of the result, probed lists, pages, each unit's candidates, counts, first entry of
the group in hand and the words and entries so far of an INSERT. -/
structure PrsRun where
  job : Job
  accept : DWord
  epoch : Nat
  coarse : Option Nat
  coarseDone : Bool
  flags : Nat
  lists : List Nat
  pages : List PrsPage
  cands : Tab (List PlaceCand)
  scored : Nat
  filtered : Nat
  read : Nat
  group : Nat
  words : List Nat
  appended : Nat
deriving DecidableEq, Repr

/-- The coordinator beside its registers: the running job, and the filter bitmap as the disjoint rising runs [first, end) of
bits that are 0. -/
structure Prs where
  run : Option PrsRun
  blocked : List (Nat × Nat)
deriving DecidableEq, Repr

/-- The state of the device. `up` says that the fabric domain runs and answers BAR0; `regs` holds every BAR0 register that
stands away from its reset value; `cap` holds the last capture of every capturing register pair (R18), keyed by the offset
of its LO register, and `capFrac` the fraction captured with it; `rdata` is the data of the last BAR0 or BAR4 read. `mem` is
all byte memory by device address (host memory at 2^47 and above), `poison` the protected units (8-byte words, 64-byte GDDR6
lines; by address) that cannot be corrected and `flips` those with an error that can be, `edc` how many bursts in a row each
GDDR6 channel is still to get wrong on its link (R255, R277, R279), `heldWrites` the stores held by a fence (R263). `fresh` counts the free values drawn. -/
structure State where
  pending : List Instr
  up : Bool
  straps : BitVec 5
  gradeX : Bool
  regs : Tab Word
  cap : Tab DWord
  capFrac : Tab Word
  rdata : DWord
  mem : List Host.Cell
  poison : List Nat
  flips : List Nat
  edc : Tab Nat
  heldWrites : List HeldByte
  msixSent : List Nat
  evtNext : Word
  bbxQueue : List BbxRec
  gated : Bool
  fresh : Nat
  dt : Dt
  ptp : Ptp
  sg : Sg
  sem : Sem
  evc : Evc
  ing : Ing
  ifc : Ifc
  vis : Vis
  fgs : Fgs
  pwr : Pwr
  hif : Hif
  tiles : Tiles
  memx : Mem
  tfu : Tfu
  lse : Lse
  mst : Mst
  prs : Prs
  safe : Safe
  bbx : Bbx
  aon : Aon
  sec : Sec
deriving DecidableEq, Repr

/-- DT after a power-on reset (R38). -/
def Dt.reset : Dt where
  now := 0
  prev := 0
  frac := 0
  servo := .unset
  everSet := false
  lock := 0
  unlock := 0
  qual := 0
  offset := 0
  offsetAt := none
  interval := 0
  lossFrom := 0
  armed := none
  commit := none
  ppsStamp := 0
  ppsPrev := none

/-- PTP after a reset of the fabric domain (R459). -/
def Ptp.reset : Ptp where
  master := none
  annAt := 0
  sync := none
  fwd := none
  delay := none
  pdelay := none
  msOffset := none
  pathDelay := 0
  asym := 0
  annTmo := 3
  seq := 0
  sent := []

/-- Start gates after a reset. -/
def Sg.reset : Sg where
  phase := []
  due := []
  slotDt := 0
  fired := []
  pulse := []
  stamp := []

/-- Semaphores after a reset: every count 0 (R77). -/
def Sem.reset : Sem where
  count := []
  rr := []
  waiters := []
  nextWaiter := 0
  shadowDue := []
  result := none
  results := []
  done := []

/-- The event controller after a reset. -/
def Evc.reset : Evc where
  latch := 0
  held := 0
  en := []
  active := []
  wake := 0
  wakeMask := 0
  wakeArmed := false
  cycleClaims := []
  response := []

/-- Ingress after a reset. -/
def Ing.reset : Ing where
  fs := []
  imu := []
  waiting := []
  decided := []

/-- The filter chain after a reset. -/
def Ifc.reset : Ifc where
  slot := []
  det := []
  delivered := []
  failed := false

/-- The vision engines after a reset. -/
def Vis.reset : Vis where
  running := []
  detects := []
  builder := []
  pairTaken := []
  swapDue := none

/-- The sequencer after a reset: every graph slot empty (R211). -/
def Fgs.reset : Fgs where
  graphs := []
  runCount := []
  runs := []
  nextRun := 0
  queues := []
  joining := []
  started := []
  abortAsked := []
  reports := []

/-- Power after a reset: RUN, full clock, VDD_CORE at the 0.72 V the regulator starts with (R566). -/
def Pwr.reset : Pwr where
  pstate := .run
  target := none
  since := 0
  acser := false
  window := []
  gov := 0
  therm := 0
  limit := false
  sinceRaise := 10
  volt := 720
  avs := none
  raise := none

/-- The host interface after a reset. -/
def Hif.reset : Hif where
  descs := []
  nextDesc := 0
  cq := []
  hold := []
  fetchTurn := [63, 63, 63, 63]
  dispatchTurn := [63, 63, 63, 63]

/-- The tile unit after a reset. -/
def Tiles.reset : Tiles where
  running := []
  nextJob := 0
  banks := []

/-- MEM and GDR after a reset: no context loaded. -/
def Mem.reset : Mem where
  ctx := []
  moves := []
  ce := []
  restore := []
  parked := []
  scrub := 0
  retrain := 0
  unacked := []
  deferred := []
  signals := []

/-- The track filter after a reset: INIT, cleared (R303). -/
def Tfu.reset : Tfu where
  pose := ⟨0, [0, 0, 0], [2 ^ 30, 0, 0, 0], [0, 0, 0]⟩
  bg := [0, 0, 0]
  ba := [0, 0, 0]
  aux := []
  p := []
  hist := []
  rate := [0, 0, 0]
  flags := 0
  count := 0
  good := []
  aided := none
  seq := 0
  innov := 0
  objs := []
  auxDecl := []
  alt := false

/-- The least-squares engine after a reset. -/
def Lse.reset : Lse where
  sched := []
  slots := []
  taken := none
  solve := none
  builds := []

/-- The NAND parts the model's board carries: one die on each channel (DESIGN CHOICE, log entry 21: the spec leaves the population to the
board within R404). -/
def Nand.board : Nand where
  dies := [1, 1, 1, 1, 1, 1, 1, 1]
  blocks := 1024
  natPages := 1536
  slcPages := 512
  factory := []

/-- A flash that holds nothing, not even a root record. -/
def Flash.blank : Flash where
  nand := Nand.board
  erase := []
  bad := []
  zones := []
  nextZone := 0
  slcZone := none
  natZone := none
  stripes := []
  nextSeq := 0
  nextPid := 1
  roots := []
  refresh := []
  dirs := []
  late := []
  uncorr := []

/-- The map store on a blank flash, not mounted. -/
def Mst.blank : Mst where
  flash := Flash.blank
  views := []
  committed := 0
  pins := [0, 0, 0]
  records := []
  pages := []
  firstSeq := 0
  nstripes := 0
  crcs := []
  write := none
  programming := []
  side := []
  nextSide := 0
  bbxSince := []
  mirroring := []
  mirror := []
  base := ⟨0, [], [0, 0, 0], []⟩
  past := []
  pinLog := []

/-- The coordinator after a reset: no job, every item enabled. -/
def Prs.reset : Prs where
  run := none
  blocked := []

/-- SAFE after a reset. -/
def Safe.reset : Safe where
  recent := []
  posted := []
  takeover := none
  rot := []
  mirror := none
  switching := none
  katDue := false
  engineTest := []
  engineFailed := []
  coreTest := none
  poseTakeover := false
  inSafe := false
  retired := []

/-- A black box that has never been written, of 4 Mbit (R494). -/
def Bbx.blank : Bbx where
  mram := []
  seq := 0
  slot := 0
  boot := 0
  gen := 0
  pinFirst := 0
  pinned := 0
  flags := 0
  pinRead := []
  slots := 8128

/-- The always-on domain at a power-on reset: held until the crystal is stable, PERST_N low as R552 asks of the board. -/
def Aon.reset : Aon where
  alerts := []
  boot := .aonReset
  failLow := false
  perstLow := true
  temp := 400
  released := 0
  shutdown := false
  wakeDue := none
  wakeEn := 4
  wakeTimer := 0
  wakeCause := 0
  fromSafe := false
  window := false
  clockLost := false
  lastChange := 0

/-- Security on a device with blank fuses and a blank NOR. -/
def Sec.blank : Sec where
  fuseSvn := 0
  fuseVr := 0
  ownerHash := none
  ownerSet := false
  lockFuse := false
  nor := some ⟨none, none, []⟩
  idOk := false
  slot := 0
  header := []
  fallback := false
  session := false
  challenge := none
  pkg := []
  lastCmd := 0
  lastSeq := 0
  lastRun := false
  resp := []
  lastResp := []
  quote := []
  recovery := none
  recovered := none

/-- The device right after a power-on reset (R38, R545, R555): the always-on reset is held, the fabric domain is off, nothing
waits in the queue of commands. -/
def State.reset : State where
  pending := []
  up := false
  straps := 0
  gradeX := false
  regs := []
  cap := []
  capFrac := []
  rdata := 0
  mem := []
  poison := []
  flips := []
  edc := []
  heldWrites := []
  msixSent := []
  evtNext := 0
  bbxQueue := []
  gated := false
  fresh := 0
  dt := Dt.reset
  ptp := Ptp.reset
  sg := Sg.reset
  sem := Sem.reset
  evc := Evc.reset
  ing := Ing.reset
  ifc := Ifc.reset
  vis := Vis.reset
  fgs := Fgs.reset
  pwr := Pwr.reset
  hif := Hif.reset
  tiles := Tiles.reset
  memx := Mem.reset
  tfu := Tfu.reset
  lse := Lse.reset
  mst := Mst.blank
  prs := Prs.reset
  safe := Safe.reset
  bbx := Bbx.blank
  aon := Aon.reset
  sec := Sec.blank

end Sys2Proof.Machine
end

