-- ==== Sys2Proof/Machine/Ops.lean ====
section
/-! DEFINITION. The operations every family shares: registers, memory, events, the event ring, the black-box queue,
semaphores, free values, and the wrapper that lets a command act only while the fabric domain runs. -/

namespace Sys2Proof.Machine

/-- What a meaning answers. -/
abbrev Out := Host.Outcome State Fault Refusal

/-- A command of the fabric domain acts only while that domain runs (R15: while the core is off or held in reset, nothing
of it responds). -/
def fabric (s : State) (f : State → State) : Out := if s.up then .next (f s) else .next s

/-- Apply `f` when `c` holds. -/
def when (c : Bool) (f : State → State) (s : State) : State := if c then f s else s

/-! ### Registers -/

/-- The stored value of the register at a BAR0 offset. -/
def rd (s : State) (a : Nat) : Word := tabGet (resetVal a) s.regs a

/-- The state with that register holding `v` (an update by the hardware itself: access codes do not apply). -/
def wr (s : State) (a : Nat) (v : Word) : State := { s with regs := tabSet (resetVal a) s.regs a v }

/-- Set bits of a register. -/
def setBits (s : State) (a : Nat) (m : Word) : State := wr s a (rd s a ||| m)

/-- Clear bits of a register. -/
def clrBits (s : State) (a : Nat) (m : Word) : State := wr s a (rd s a &&& ~~~m)

/-- Count one in a saturating counter register. -/
def bump (s : State) (a : Nat) : State := wr s a (incSat (rd s a))

/-- Count `n` in a saturating counter register. -/
def bumpN (s : State) (a n : Nat) : State := wr s a (addSat (rd s a) n)

/-- Count `n` in a wrapping counter register. -/
def bumpWrapN (s : State) (a n : Nat) : State := wr s a (rd s a + BitVec.ofNat 32 n)

/-- Count one in a wrapping counter register. -/
def bumpWrap (s : State) (a : Nat) : State := bumpWrapN s a 1

/-- Field [hi:lo] of a register. -/
def rf (s : State) (a hi lo : Nat) : Nat := fld (rd s a) hi lo

/-- Bit `i` of a register. -/
def rb (s : State) (a i : Nat) : Bool := bit (rd s a) i

/-- Replace field [hi:lo] of a register. -/
def wf (s : State) (a hi lo v : Nat) : State := wr s a (setFld (rd s a) hi lo v)

/-- A 64-bit quantity held in a LO and HI register pair. -/
def rd64 (s : State) (lo hi : Nat) : DWord := join64 (rd s hi) (rd s lo)

/-- Record an error: its bit, and, where no bit of the error register was set, the information register. -/
def errInfo (s : State) (errReg bitNo infoReg : Nat) (info : Word) : State :=
  setBits (if rd s errReg = 0 then wr s infoReg info else s) errReg (bitW bitNo)

/-- A GLB_ERR bit set by an access at offset `off` (R17). -/
def glbErr (s : State) (bitNo off : Nat) : State :=
  errInfo s R.glbErr bitNo R.glbErrAddr (BitVec.ofNat 32 off)

/-- R18: a read of the LO register at `loAddr` captures the 64-bit value `v`. -/
def capture (s : State) (loAddr : Nat) (v : DWord) : State :=
  { s with cap := tabSet 0 s.cap loAddr v, rdata := (lo32 v).setWidth 64 }

/-! ### Free values -/

/-- A free value the spec leaves open, and the state that has drawn it. -/
def drawNat (s : State) : Nat × State := (Config.freeNat s.fresh, { s with fresh := s.fresh + 1 })

/-- A signed free value. -/
def drawInt (s : State) : Int × State := (Config.freeInt s.fresh, { s with fresh := s.fresh + 1 })

/-- Record an error whose information register the spec gives no value for: the bit, and, where no bit was set, free bits of
the fields in `mask`. -/
def errFree (s : State) (errReg bitNo infoReg : Nat) (mask : Word) : State :=
  let (v, s1) := drawNat s
  errInfo s1 errReg bitNo infoReg (BitVec.ofNat 32 v &&& mask)

/-! ### Device memory (R20, R262, R263) -/

/-- Base of GDDR6, of the slab, of LSE memory, of semaphore memory, and of host memory in device addresses (R20). -/
def gdrBase : Nat := 0x001000000000
def slabBase : Nat := 0x000100000000
def lseBase : Nat := 0x000200000000
def semBase : Nat := 0x000300000000
def hostBase : Nat := 0x800000000000

/-- Bytes of usable GDDR6: 15 GiB or 30 GiB by the GDR_DENS strap (R16, R21). -/
def gdrBytes (s : State) : Nat := (if s.straps.getLsbD 4 then 30 else 15) * 0x40000000

/-- The range of the device-address table that holds address `a`: its first address and its size (R20). -/
def addrRange (s : State) (a : Nat) : Option (Nat × Nat) :=
  if a < 68 * 0x80000 then some (a / 0x80000 * 0x80000, 0x80000)
  else if slabBase ≤ a ∧ a < slabBase + 0x3000000 then some (slabBase, 0x3000000)
  else if lseBase ≤ a ∧ a < lseBase + 0x800000 then some (lseBase, 0x800000)
  else if semBase ≤ a ∧ a < semBase + 0x4000 then some (semBase, 0x4000)
  else if gdrBase ≤ a ∧ a < gdrBase + gdrBytes s then some (gdrBase, gdrBytes s)
  else if hostBase ≤ a ∧ a < hostBase + 0x800000000000 then some (hostBase, 0x800000000000)
  else none

/-- R22: whether `n` bytes from `a` lie wholly inside one range of the device-address table. -/
def rangeOk (s : State) (a n : Nat) : Bool :=
  match addrRange s a with
  | some (b, z) => decide (a + n ≤ b + z)
  | none => false

/-- Whether each of `n` bytes from `a` has a valid address, the ranges of the table adjoining where they do (R20); `k` bounds
how many ranges are looked at. -/
def bytesValid (s : State) : Nat → Nat → Nat → Bool
  | 0, _, n => n == 0
  | k + 1, a, n =>
    match addrRange s a with
    | some (b, z) => decide (a + n ≤ b + z) || bytesValid s k (b + z) (a + n - (b + z))
    | none => n == 0

/-- Whether the tile range that holds `a` is fenced (R263). -/
def fenced (s : State) (a : Nat) : Bool := decide (a < 68 * 0x80000) && rb s (R.memRedir (a / 0x80000)) 30

/-- R262: the place an access to device address `a` reaches, through the tile redirect table. -/
def physAddr (s : State) (a : Nat) : Nat :=
  if a < 68 * 0x80000 then
    let r := rd s (R.memRedir (a / 0x80000))
    if bit r 31 then gdrBase + fld r 15 0 * 0x80000 + a % 0x80000 else fld r 22 16 * 0x80000 + a % 0x80000
  else a

/-- The count of a semaphore. -/
def semCount (s : State) (i : Nat) : Word := tabGet 0 s.sem.count i

/-- One byte read at a device address: semaphore memory shows the counts (R23). A read of a fenced range gives what the held
read gives when it is released: the contents behind the stores held before it (R263). -/
def ldByte (s : State) (a : Nat) : Byte :=
  if semBase ≤ a ∧ a < semBase + 0x4000 then
    BitVec.ofNat 8 ((semCount s ((a - semBase) / 4)).toNat / 256 ^ ((a - semBase) % 4))
  else
    match (s.heldWrites.reverse.find? (fun e => e.addr == a)) with
    | some e => e.byte
    | none => tabGet 0 s.mem (physAddr s a)

/-- Place a byte at the place an address reaches. -/
def stPhys (s : State) (p : Nat) (b : Byte) : State := { s with mem := tabSet 0 s.mem p b }

/-- In GLIDE every access that reaches GDDR6 is refused (R507). -/
def gdrClosed (s : State) (p : Nat) : Bool :=
  decide (s.pwr.pstate = .glide) && decide (gdrBase ≤ p) && decide (p < gdrBase + gdrBytes s)

/-- MEM_ERR.GLIDE_GDR: an access reached GDDR6 in GLIDE (R283, R507). -/
def glideErr (s : State) : State := errFree s R.memErr 3 R.memErrInfo 0x0F00FFFF

/-- One byte stored: a fenced range holds it (R263), semaphore memory takes no store (R23). -/
def stByte (s : State) (a : Nat) (b : Byte) : State :=
  if semBase ≤ a ∧ a < semBase + 0x4000 then s
  else if fenced s a then { s with heldWrites := s.heldWrites ++ [⟨s.fresh, a, b⟩] }
  else if gdrClosed s (physAddr s a) then glideErr s
  else stPhys s (physAddr s a) b

/-- `n` bytes read from `a` upwards. -/
def ldBytes (s : State) : Nat → Nat → List Byte
  | _, 0 => []
  | a, n + 1 => ldByte s a :: ldBytes s (a + 1) n

/-- Bytes stored from `a` upwards. -/
def stAll : State → Nat → List Byte → State
  | s, _, [] => s
  | s, a, b :: t => stAll (stByte s a b) (a + 1) t

/-! ### Errors of memory (R255, R276 to R279) -/

/-- Bytes of the unit that a check code protects: a 64-byte line of GDDR6, a 64-bit word elsewhere (R255, R277). -/
def unitBytes (u : Nat) : Nat := if gdrBase ≤ u then 64 else 8

/-- The protected unit that holds a physical address. -/
def codeUnit (p : Nat) : Nat := p / unitBytes p * unitBytes p

/-- Those of a list of units that `n` bytes from physical address `p` touch. -/
def unitsIn (l : List Nat) (p n : Nat) : List Nat :=
  l.filter fun u => decide (0 < n) && decide (u < p + n) && decide (p < u + unitBytes u)

/-- A unit with an error that its code corrects is read: the counter of its memory, and, in GDDR6, the event and the line
written back (R255, R277). In the other memories the error stands until a store (DEDUCED, log entry 33). -/
def corrected (s : State) (u : Nat) : State :=
  if gdrBase ≤ u then
    let s1 := setBits (bump s R.gdrEccCorr) R.gdrEvent 1
    { s1 with flips := s1.flips.filter fun x => x != u }
  else if lseBase ≤ u then bump s R.lseMemEccCorr
  else if slabBase ≤ u then bump s R.memSlabEccCorr
  else bump s (R.ttEccCorr (u / 0x80000))

/-- An uncorrectable unit is read: the counter of its memory, and, in GDDR6, the event and, as the first, its address
(R255, R277). Tile-local memory has no such counter. -/
def uncorrectable (s : State) (u : Nat) : State :=
  if gdrBase ≤ u then
    let s1 := if rb s R.gdrEvent 1 then s
      else wr (wr s R.gdrErrAddrLo (BitVec.ofNat 32 u)) R.gdrErrAddrHi (BitVec.ofNat 32 (u / 2 ^ 32 % 65536))
    setBits (bump s1 R.gdrEccUncorr) R.gdrEvent 2
  else if lseBase ≤ u then bump s R.lseMemEccUncorr
  else if slabBase ≤ u then bump s R.memSlabEccUncorr
  else s

/-- The channel that serves a GDDR6 address: bits [11:8] XOR bits [19:16] (R276). -/
def channelOf (p : Nat) : Nat := (p / 0x100 % 16) ^^^ (p / 0x10000 % 16)

/-- The first line that an access to `n` bytes from `p` moves over channel `ch`; 31 granules on end meet every channel. -/
def firstOn (p n ch : Nat) : Option Nat :=
  if p < gdrBase ∨ hostBase ≤ p ∨ n = 0 then none
  else ((List.range (min 31 ((p + n - 1) / 256 + 1 - p / 256))).find? fun i => channelOf (p / 256 * 256 + 256 * i) == ch).map
    fun i => max (p / 64 * 64) (p / 256 * 256 + 256 * i)

/-- How often a failing burst is repeated (R279, R284). -/
def edcMax (s : State) : Nat := max 1 (rf s R.gdrRetry 2 0)

/-- Whether a burst that fails `m` times in a row fails for good: first issue, repeats, and the one after the retrain. -/
def edcFatal (s : State) (m : Nat) : Bool := decide (edcMax s + 1 < m)

/-- A retrain of channel `ch`: counted, HELD until the next clock edge, RETRAIN_FAIL where it fails (R279, R280, R284). -/
def retrain (s : State) (ch : Nat) (ok : Bool) : State :=
  let s1 := setBits (bump s R.gdrRetrainCnt) (R.gdrChStatus ch) 2
  if ok then s1 else setBits s1 R.gdrEvent 8

/-- The failing bursts of channel `ch` met by an access: repeats counted, a retrain when they are exhausted, and EDC_FAIL with,
for a write, the line marked uncorrectable when the burst after it fails too (R279). Whether the retrain itself succeeds is
open. -/
def edcMeet (write : Bool) (p n : Nat) (s : State) (e : Nat × Nat) : State :=
  match firstOn p n e.1 with
  | none => s
  | some line =>
    let m := e.2
    let k := min m (edcMax s)
    let s1 := bumpN { s with edc := tabSet 0 s.edc e.1 0 } R.gdrEdcRetry k
    let s2 := wf s1 (R.gdrChStatus e.1) 31 16 (min 65535 (rf s1 (R.gdrChStatus e.1) 31 16 + k))
    if edcMax s < m then
      let (v, s3) := drawNat s2
      let s4 := retrain s3 e.1 (v % 2 == 0)
      if edcFatal s m then
        let s5 := setBits s4 R.gdrEvent 4
        if write && !s5.poison.contains line then { s5 with poison := s5.poison ++ [line] } else s5
      else s4
    else s2

/-- What a read of `n` bytes from `a` does beside giving them: bursts repeated, errors corrected, uncorrectable units counted. -/
def noteRead (s : State) (a n : Nat) : State :=
  let p := physAddr s a
  let s1 := s.edc.foldl (edcMeet false p n) s
  let s2 := (unitsIn s1.flips p n).foldl corrected s1
  (unitsIn s2.poison p n).foldl uncorrectable s2

/-- What a store to `n` bytes from physical address `p` does beside placing them: a unit covered whole is without error after
it; one covered in part is read, merged and written, and stays uncorrectable if it was (R278; for the 64-bit words the same:
DEDUCED, log entry 33). -/
def noteWrite (s : State) (p n : Nat) : State :=
  let whole := fun (u : Nat) => decide (p ≤ u) && decide (u + unitBytes u ≤ p + n)
  let part := fun (l : List Nat) => (unitsIn l p n).filter fun u => !whole u
  let s1 := (part s.flips).foldl corrected s
  let s2 := (part s1.poison).foldl uncorrectable s1
  let s3 := { s2 with flips := s2.flips.filter fun u => !(unitsIn s2.flips p n).contains u
                      poison := s2.poison.filter fun u => !whole u }
  s3.edc.foldl (edcMeet true p n) s3

/-- Bytes stored from `a` upwards, with what that does to errors of memory. A store that a fence holds is placed when it is
released. -/
def stBytes (s : State) (a : Nat) (l : List Byte) : State :=
  let s1 := stAll s a l
  if semBase ≤ a ∧ a < semBase + 0x4000 then s1
  else if fenced s a then { s1 with fresh := s1.fresh + 1 }
  else if gdrClosed s (physAddr s a) then s1
  else noteWrite s1 (physAddr s a) l.length

/-- A little-endian value of `n` bytes at `a` (R573). -/
def ldN (s : State) (a n : Nat) : Nat := leVal (ldBytes s a n)

/-- A signed little-endian value of `n` bytes at `a`. -/
def ldS (s : State) (a n : Nat) : Int := sext (8 * n) (ldN s a n)

/-- A little-endian value stored in `n` bytes at `a`. -/
def stN (s : State) (a n v : Nat) : State := stBytes s a (leBytes n v)

/-- `n` zero bytes stored from `a`. -/
def stZero (s : State) (a n : Nat) : State := stBytes s a (List.replicate n 0)

/-- Whether a read of `n` bytes from `a` returns poisoned data: an uncorrectable unit, or a burst that fails for good
(R255, R277, R279). -/
def poisoned (s : State) (a n : Nat) : Bool :=
  let p := physAddr s a
  !(unitsIn s.poison p n).isEmpty || s.edc.any fun e => edcFatal s e.2 && (firstOn p n e.1).isSome

/-! ### Writes to host memory, MSI-X, the event ring, the black box -/

/-- Whether the writers of the HIF reach host memory: the link is up and safe state has not gated them (R472, R478). -/
def hostReach (s : State) : Bool := rb s R.hifStatus 0 && !s.gated

/-- A posted write to host memory at host address `h`; nothing lies at or above 2^47 (R20). -/
def hostWrite (s : State) (h : Nat) (bs : List Byte) : State :=
  if hostReach s ∧ h < 0x800000000000 then stBytes s (hostBase + h) bs else s

/-- R464: the message of a vector; a masked vector sets its pending bit instead. -/
def msixSend (s : State) (v : Nat) : State :=
  if rb s (R.hifMsixTable (4 * v + 3)) 0 then setBits s (R.hifMsixPba (v / 32)) (bitW (v % 32))
  else if hostReach s then { s with msixSent := s.msixSent ++ [v] } else s

/-- R467: an entry of the event ring, with its message; a disabled ring counts the drop. The sequence advances for both. -/
def postEvent (s : State) (dt : DWord) (code unit : Nat) (args : List Byte) : State :=
  let q := s.evtNext
  let cfg := rd s R.hifEvtCfg
  let body := leBytes 8 dt.toNat ++ leBytes 4 q.toNat ++ leBytes 2 code ++ leBytes 2 (unit % 256) ++ padTo 12 args
  let ent := body ++ leBytes 4 (crc32c body)
  let base := (rd64 s R.hifEvtLo R.hifEvtHi).toNat
  let s1 := wr { s with evtNext := q + 1 } R.hifEvtSeq q
  if bit cfg 31 then
    msixSend (hostWrite s1 (base + 32 * (q.toNat % 2 ^ fld cfg 4 0)) ent) (fld cfg 22 16)
  else bump s1 R.hifEvtDrop

/-- R495: a black-box record queued for the AOM; a full queue of 64 drops it and counts the drop. `unit` is bits [23:16] of
the block's base with the instance above them (R491). -/
def bbx (s : State) (code unit : Nat) (args : List Byte) (post : Bool) : State :=
  if 64 ≤ s.bbxQueue.length then
    bump (setBits s R.safeEvent (bitW 6)) R.safeBbxDrop
  else { s with bbxQueue := s.bbxQueue ++ [⟨s.dt.now, code, unit, padTo 36 args, post⟩] }

/-! ### Semaphores (R78, R79, R85, R87) -/

/-- Shadow slot `k` mirrors semaphore `i` (R93). -/
def shadows (s : State) (k i : Nat) : Bool :=
  rb s R.semShadowCtrl 0 && rb s (R.semShadowCfg k) 31 && rf s (R.semShadowCfg k) 11 0 == i

/-- The slots that mirror semaphore `i`. -/
def shadowSlots (s : State) (i : Nat) : List Nat := (List.range 64).filter (fun k => shadows s k i)

/-- A set of slots added to a list without repeats. -/
def addSlots (l m : List Nat) : List Nat := l ++ m.filter (fun k => !l.contains k)

/-- A new count of semaphore `i`: every slot that mirrors it owes a shadow write when the count changed (R87). -/
def semStore (s : State) (i : Nat) (v : Word) : State :=
  if semCount s i = v then s
  else { s with sem := { s.sem with
    count := tabSet 0 s.sem.count i v
    shadowDue := addSlots s.sem.shadowDue (shadowSlots s i) } }

/-- A flag of SEM_STATUS with the index of R574. -/
def semErr (s : State) (bitNo idx : Nat) : State :=
  errInfo s R.semStatus bitNo R.semErrIdx (BitVec.ofNat 32 (idx % 4096))

/-- The result returned to the issuer. -/
def semResult (s : State) (req : Nat) (ok : Bool) (i : Nat) : State :=
  { s with sem := { s.sem with result := some (req, ok, semCount s i) } }

/-- R80: the bank of semaphore `i` has served `req`; its pointer moves past it. -/
def semServe (s : State) (req i : Nat) : State :=
  { s with sem := { s.sem with rr := tabSet 0 s.sem.rr (i % 4) ((req + 1) % 14) } }

/-- ADD of R78 with the saturation of R79. -/
def semAddOp (s : State) (req i : Nat) (n : Word) : State :=
  let c := (semCount s i).toNat + n.toNat
  let s1 := semStore (semServe s req i) i (BitVec.ofNat 32 (min c 0xFFFFFFFF))
  let s2 := if 0xFFFFFFFF < c then semErr (bump s1 R.semOvfCnt) 0 i else s1
  semResult s2 req true i

/-- SUB of R78 with the saturation of R79. -/
def semSubOp (s : State) (req i : Nat) (n : Word) : State :=
  let c := (semCount s i).toNat
  let s1 := semStore (semServe s req i) i (BitVec.ofNat 32 (c - n.toNat))
  let s2 := if c < n.toNat then semErr (bump s1 R.semUnfCnt) 1 i else s1
  semResult s2 req true i

/-- Whether a WAIT or WAITSUB sample succeeds (R78). -/
def semTest (s : State) (i : Nat) (n : Word) : Bool := decide (n.toNat ≤ (semCount s i).toNat)

/-- WAIT of R78: a test that changes no count. -/
def semWaitOp (s : State) (req i : Nat) (n : Word) : State :=
  semResult (semServe s req i) req (semTest s i n) i

/-- WAITSUB of R78: subtracts on success. -/
def semWaitsubOp (s : State) (req i : Nat) (n : Word) : State :=
  let ok := semTest s i n
  let s1 := semServe s req i
  semResult (if ok then semStore s1 i (semCount s i - n) else s1) req ok i

/-- SET of R78 with the count and the record of R91; `path` is 0 for the host, 1 for the Acser port, 2 for another issuer. -/
def semSetOp (s : State) (req i : Nat) (v : Word) (path : Nat) : State :=
  let old := semCount s i
  let s1 := bump (semStore (semServe s req i) i v) R.semHandCnt
  let args := leBytes 2 i ++ leBytes 1 path ++ leBytes 1 0 ++ leBytes 4 old.toNat ++ leBytes 4 v.toNat
  semResult (bbx s1 0x0801 0x03 args true) req true i

/-- A unit's signal (R85): ADD `n` to semaphore field `f`, where 0xFFFF names none. -/
def signal (s : State) (req f : Nat) (n : Word) : State :=
  if f = 0xFFFF then s else semAddOp s req (f % 4096) n

/-- The held stores that write to one of a list of ranges. -/
def heldIn (s : State) (rs : List (Nat × Nat)) : List Nat :=
  ((s.heldWrites.filter fun e => rs.any fun r => decide (r.1 ≤ e.addr ∧ e.addr < r.1 + r.2)).map HeldByte.store).eraseDups

/-- The signal of a unit that has written the ranges `rs`: applied when none of those stores is held by a fence (R85, R263). -/
def signalAfter (s : State) (rs : List (Nat × Nat)) (req f : Nat) (n : Word) : State :=
  match heldIn s rs with
  | [] => signal s req f n
  | l => { s with memx := { s.memx with signals := s.memx.signals ++ [⟨l, req, f, n⟩] } }

/-- A semaphore field that an enable may name: 0xFFFF for none, or SEM256 to SEM4095 (R77, R127). -/
def semFieldOk (f : Nat) : Bool := f == 0xFFFF || (256 ≤ f && f ≤ 0x0FFF)

/-- Start a wait: the unit polls until success or expiry (R81). -/
def startWait (s : State) (owner : Waiting) (idx : Nat) (n : Word) (sub : Bool) (expiry : Option Nat) : State :=
  { s with sem := { s.sem with
    waiters := s.sem.waiters ++ [⟨s.sem.nextWaiter, owner, idx, n, sub, expiry⟩]
    nextWaiter := s.sem.nextWaiter + 1 } }

/-- End every wait of an owner. -/
def dropWaits (s : State) (owner : Waiting) : State :=
  { s with sem := { s.sem with waiters := s.sem.waiters.filter (fun w => w.owner ≠ owner) } }

/-! ### Power as every block sees it (R501 to R505) -/

/-- Whether a glide state holds or has been asked for: domains outside the glide set are off from the cycle in which the
request is accepted (R502). -/
def gliding (s : State) : Bool := decide (s.pwr.pstate = .glide) || decide (s.pwr.target = some .glide)

/-- Whether HOLD has been asked for. -/
def holding (s : State) : Bool := decide (s.pwr.target = some .hold)

/-- Whether a block that takes data from outside has its domain on: 8 the CSI block, 9 Ethernet, off in GLIDE too, 10 the IFC
(R501, R502, R505). -/
def blockOn (s : State) (b : Nat) : Bool := !rb s R.pwrPark b && !(b == 9 && gliding s)

end Sys2Proof.Machine
end

