-- ==== Sys2Proof/Machine/Events.lean ====
section
/-! DEFINITION. The event controller: levels, pending states, claims and completions, and the wake latches (R94 to R105). -/

namespace Sys2Proof.Machine

/-- A bit of a 512-bit set of sources. -/
def inSet (b : BitVec 512) (n : Nat) : Bool := b.getLsbD n

/-- The set with a source added. -/
def addSet (b : BitVec 512) (n : Nat) : BitVec 512 := b ||| (1#512 <<< n)

/-- The set with a source removed. -/
def delSet (b : BitVec 512) (n : Nat) : BitVec 512 := b &&& ~~~(1#512 <<< n)

/-- The register bits whose being set is the condition of source `n` (R95 and the source lists of the chapters). -/
def evcCause (n : Nat) : Option (Nat × Word) :=
  if 1 ≤ n ∧ n ≤ 7 then some (R.dtEvent, bitW (n - 1))
  else if 8 ≤ n ∧ n ≤ 11 then some (R.sgErr, bitW (n - 8))
  else if n = 29 then some (R.semStatus, 1)
  else if n = 30 then some (R.semStatus, 2)
  else if n = 31 then some (R.evcErr, 0xFFFFFFFF)
  else if 32 ≤ n ∧ n ≤ 47 then some (R.ingFsEvent (n - 32), 0xFFFFFFFF)
  else if 48 ≤ n ∧ n ≤ 51 then some (R.ingIsEvent (n - 48), 0xFFFFFFFF)
  else if n = 58 then some (R.ingErr, 0xFFFFFFFF)
  else if 64 ≤ n ∧ n ≤ 67 then some (R.ifcIsEvent (n - 64), 0xFFFFFFFF)
  else if n = 68 then some (R.ifcDetEvent, 0xFFFFFFFF)
  else if n = 69 then some (R.ifcDetAlarm, 0xFFFFFFFF)
  else if n = 70 then some (R.ifcErr, 0xFFFFFFFF)
  else if n = 80 then some (R.fddErr 0, 0xFFFFFFFF)
  else if n = 81 then some (R.fddErr 1, 0xFFFFFFFF)
  else if n = 82 then some (R.tmeErr 0, 0xFFFFFFFF)
  else if n = 83 then some (R.tmeErr 1, 0xFFFFFFFF)
  else if n = 84 then some (R.sdeErr, 0xFFFFFFFF)
  else if n = 85 then some (R.pjeErr, 0xFFFFFFFF)
  else if n = 86 then some (R.sdeCalEvent, 0xFFFFFFFF)
  else if n = 87 then some (R.pjeCalEvent, 0xFFFFFFFF)
  else if n = 96 then some (R.fgsErr, 0xFFFFFFFF)
  else if 112 ≤ n ∧ n ≤ 247 then
    some (R.ttEvent ((n - 112) / 2), if n % 2 = 0 then 0x23 else 0x1C)
  else if n = 248 then some (R.memErr, 0xFFFFFFFF)
  else if n = 249 then some (R.memEvent, 0xFFFFFFFF)
  else if n = 250 then some (R.gdrEvent, 1)
  else if n = 251 then some (R.gdrEvent, 0xE)
  else if n = 264 then some (R.tfuErr, 0xFFFFFFFF)
  else if n = 265 then some (R.tfuEvent, 0x06)
  else if n = 266 then some (R.tfuEvent, 0x30)
  else if n = 267 then some (R.tfuEvent, 0x09)
  else if n = 268 then some (R.tfuEvent, 0x40)
  else if n = 272 then some (R.lseErr, 0xFFFFFFFF)
  else if n = 273 then some (R.lseEvent, 0xFFFFFFFF)
  else if n = 274 then some (R.lseArEvent, 0xFFFFFFFF)
  else if n = 275 then some (R.lseCtlEvent, 0xFFFFFFFF)
  else if 288 ≤ n ∧ n ≤ 351 then
    match n % 8 with
    | 0 => some (R.flcEvent ((n - 288) / 8), 0x3)
    | 1 => some (R.flcEvent ((n - 288) / 8), 0x4)
    | 2 => some (R.flcEvent ((n - 288) / 8), 0x8)
    | 3 => some (R.flcEvent ((n - 288) / 8), 0x10)
    | _ => none
  else if n = 352 then some (R.mstErr, 0xFFFFFFFF)
  else if n = 353 then some (R.mstEvent, 0x03)
  else if n = 354 then some (R.mstEvent, 0x0C)
  else if n = 355 then some (R.mstEvent, 0x30)
  else if n = 368 then some (R.prsErr, 0xFFFFFFFF)
  else if n = 369 then some (R.prsEvent, 0x3)
  else if n = 370 then some (R.prsEvent, 0xC)
  else if n = 385 then some (R.hifErr, 0xFFFFFFFF)
  else if n = 386 then some (R.hifEvent, 0xFFFFFFFF)
  else if n = 416 then some (R.safeEvent, 0x01)
  else if n = 417 then some (R.safeEvent, 0x02)
  else if n = 418 then some (R.safeEvent, 0x24)
  else if n = 419 then some (R.safeEvent, 0x58)
  else if n = 420 then some (R.safeErr, 0xFFFFFFFF)
  else if n = 449 then some (R.pwrEvent, 0x04)
  else if n = 450 then some (R.pwrEvent, 0x1A)
  else if n = 451 then some (R.pwrErr, 0xFFFFFFFF)
  else if n = 465 then some (R.secErr, 0xFFFFFFFF)
  else if n = 466 then some (R.secEvent, 0xFFFFFFFF)
  else none

/-- Bit `b` of any graph's event register (R226: sources 97 to 99). -/
def anyGraphEvent (s : State) (b : Nat) : Bool := (List.range 64).any (fun g => rb s (R.fgsGraphEvent g) b)

/-- The level of a source (R94): its condition (of 448 that PWR_FAIL_N is low, R521), or an edge or wake latch held until
completion (R104). Reserved sources are 0 (R95). -/
def evcLevel (s : State) (n : Nat) : Bool :=
  inSet s.evc.held n || (n == 448 && s.aon.failLow) ||
    (match evcCause n with
     | some (a, m) => decide (rd s a &&& m ≠ 0)
     | none => decide (97 ≤ n ∧ n ≤ 99) && anyGraphEvent s (n - 97))

/-- Whether a source is active at any target. -/
def activeAny (s : State) (n : Nat) : Bool :=
  (List.range 3).any (fun t => inSet (tabGet 0 s.evc.active t) n)

/-- R96: pending. -/
def evcPending (s : State) (n : Nat) : Bool := !activeAny s n && (evcLevel s n || inSet s.evc.latch n)

/-- An edge source is raised: held high until completed; an edge on an active source makes it pending again after its
completion. While its wake latch is armed the latch alone catches the edge (R104). -/
def raiseEdge (s : State) (n : Nat) : State :=
  if s.evc.wakeArmed && inSet s.evc.wakeMask n then { s with evc := { s.evc with wake := addSet s.evc.wake n } }
  else if activeAny s n then { s with evc := { s.evc with latch := addSet s.evc.latch n } }
  else { s with evc := { s.evc with held := addSet s.evc.held n } }

/-- PRIO of a source. -/
def evcPrio (s : State) (n : Nat) : Nat := rf s (R.evcSrcCfg (n - 1)) 7 0

/-- The group part of a source for target `t` (R98). -/
def evcGroup (s : State) (t n : Nat) : Nat := evcPrio s n / 2 ^ rf s (R.evcTPrigroup t) 2 0

/-- The sources active at a target. -/
def activeAt (s : State) (t : Nat) : List Nat :=
  (List.range 512).filter (fun n => inSet (tabGet 0 s.evc.active t) n)

/-- R99: the running group of a target, none when idle. -/
def runningGroup (s : State) (t : Nat) : Option Nat :=
  match activeAt s t with
  | [] => none
  | l => some (l.foldl (fun m n => max m (evcGroup s t n)) 0)

/-- R97, R99: a source eligible for a target when `p` says it is pending, against running group `g`. -/
def evcEligible (s : State) (t n : Nat) (p : Bool) (g : Option Nat) : Bool :=
  p && inSet (tabGet 0 s.evc.en t) n && rb s (R.evcSrcCfg (n - 1)) (8 + t) && decide (evcPrio s n ≠ 0) &&
    (match g with
     | none => true
     | some g => decide (g < evcGroup s t n))

/-- The more urgent of two sources: higher PRIO, then lower ID (R98: the group part leads, then the sub-priority). -/
def moreUrgent (s : State) (a b : Nat) : Nat :=
  if evcPrio s b < evcPrio s a ∨ (evcPrio s a = evcPrio s b ∧ a < b) then a else b

/-- The most urgent of a list of sources; 0 for none. -/
def mostUrgent (s : State) : List Nat → Nat
  | [] => 0
  | [n] => n
  | n :: t => moreUrgent s n (mostUrgent s t)

/-- The source a claim by target `t` would find, where the sources claimed earlier in the same cycle still count as pending
and not as running (R100). -/
def evcBest (s : State) (t : Nat) (earlier : List Nat) : Nat :=
  let g := runningGroup s t
  mostUrgent s (((List.range 512).filter (fun n => decide (1 ≤ n))).filter fun n =>
    evcEligible s t n (evcPending s n || earlier.contains n) g)

/-- The interrupt line of a target: high while a source is eligible for it and delivery is enabled (R99, R105). -/
def evcLine (s : State) (t : Nat) : Bool := rb s R.evcCtrl 0 && decide (evcBest s t [] ≠ 0)

/-- The claim response: [23:16] PRIO, [9:0] ID. -/
def claimWord (s : State) (n : Nat) : Word :=
  BitVec.ofNat 32 ((if n = 0 ∨ n = 0x3FF then 0 else evcPrio s n) * 65536 + n)

/-- The response of a claim read kept for target `t`. -/
def claimAnswer (s : State) (t n : Nat) : State :=
  { s with evc := { s.evc with response := tabSet 0 s.evc.response t (claimWord s n) } }

/-- The sources taken by the claims of the present cycle evaluated so far. -/
def cycleTaken (s : State) : List Nat := (s.evc.cycleClaims.map fun c => c.source).filter fun n => decide (n ≠ 0 ∧ n ≠ 0x3FF)

/-- The claim sequence of R100 for one target, after those of its cycle already evaluated. -/
def claimOne (s : State) (t : Nat) : State :=
  let n := evcBest s t (cycleTaken s)
  let lost := (cycleTaken s).contains n
  let c : ClaimRec := ⟨t, if n ≠ 0 ∧ lost = true then 0x3FF else n, inSet s.evc.latch n⟩
  let s1 := { s with evc := { s.evc with cycleClaims := s.evc.cycleClaims ++ [c] } }
  if n = 0 then claimAnswer s1 t 0
  else if lost then claimAnswer s1 t 0x3FF
  else
    claimAnswer { s1 with evc := { s1.evc with
      active := tabSet 0 s.evc.active t (addSet (tabGet 0 s.evc.active t) n)
      latch := delSet s.evc.latch n } } t n

/-- A claim of the present cycle taken back, to be evaluated after one that goes before it. -/
def unclaim (s : State) (c : ClaimRec) : State :=
  if c.source = 0 ∨ c.source = 0x3FF then s
  else { s with evc := { s.evc with
    active := tabSet 0 s.evc.active c.target (delSet (tabGet 0 s.evc.active c.target) c.source)
    latch := if c.latched then addSet s.evc.latch c.source else s.evc.latch } }

/-- EVC_CLAIM by target `t`; `sameCycle` says that it arrives in the cycle of the claims just evaluated. Those of one cycle
are evaluated in the order CPA, CPB, AOM, whichever came first (R100). -/
def execEvcClaim (t : Fin 3) (sameCycle : Bool) (s : State) : Out :=
  fabric s fun s =>
    let kept := if sameCycle then s.evc.cycleClaims.filter fun c => c.target != t.val else []
    let before := kept.filter fun c => decide (c.target < t.val)
    let after := kept.filter fun c => decide (t.val < c.target)
    let s1 := after.foldl unclaim s
    let s2 := { s1 with evc := { s1.evc with cycleClaims := before } }
    (after.map fun c => c.target).foldl claimOne (claimOne s2 t.val)

/-- The completion of an active source: its active bit clears and a held edge ends; a level that stays high, or a latch set
while it was active, leaves it pending again (R101, R104). -/
def completeSource (s : State) (t n : Nat) : State :=
  { s with evc := { s.evc with
    active := tabSet 0 s.evc.active t (delSet (tabGet 0 s.evc.active t) n)
    held := delSet s.evc.held n } }

/-- EVC_COMPLETE: 0 and 0x3FF are ignored; another ID not active at the target sets BAD_COMPLETE (R101). -/
def execEvcComplete (t : Fin 3) (id : BitVec 10) (s : State) : Out :=
  fabric s fun s =>
    let n := id.toNat
    if n = 0 ∨ n = 0x3FF then s
    else if n < 512 ∧ inSet (tabGet 0 s.evc.active t.val) n then completeSource s t.val n
    else errInfo s R.evcErr 0 R.evcErrInfo (BitVec.ofNat 32 (t.val * 65536 + n))

/-- A host write to an EVC register is ignored and sets HOST_WR (R105). -/
def evcHostWr (s : State) : State := errFree s R.evcErr 1 R.evcErrInfo 0x303FF

/-- A mask of word `k` as a set of sources; source 0 does not exist (R105). -/
def wordSet (k : Nat) (m : Word) : BitVec 512 := ((m.setWidth 512) <<< (32 * k)) &&& ~~~(1#512)

/-- EVC_PEND_SET: software latches set (R96). -/
def execEvcPendSet (who : Agent) (k : Fin 16) (mask : Word) (s : State) : Out :=
  fabric s fun s =>
    if who = .host then evcHostWr s
    else { s with evc := { s.evc with latch := s.evc.latch ||| wordSet k.val mask } }

/-- EVC_PEND_CLR: software latches cleared (R96). -/
def execEvcPendClr (who : Agent) (k : Fin 16) (mask : Word) (s : State) : Out :=
  fabric s fun s =>
    if who = .host then evcHostWr s
    else { s with evc := { s.evc with latch := s.evc.latch &&& ~~~(wordSet k.val mask) } }

/-- The wake-capable sources (R95). -/
def wakeCapable (n : Nat) : Bool := (decide (12 ≤ n) && decide (n ≤ 28)) || n == 384 || n == 448 || n == 449 || n == 464

/-- The sources whose latches catch edges: a TRIG input only with its WAKE bit, the others always (R71, R104). -/
def wakeSources (s : State) : BitVec 512 :=
  (List.range 512).foldl (fun b n =>
    if wakeCapable n && (decide (n < 13 ∨ 28 < n) || (rb s (R.sgTrigCfg (n - 13)) 8 && rb s (R.sgTrigCfg (n - 13)) 0))
    then addSet b n else b) 0

/-- The EVC acknowledges a clock-stop request: the latches are armed (R103). -/
def armWake (s : State) : State :=
  { s with evc := { s.evc with wakeArmed := true, wake := 0, wakeMask := wakeSources s } }

/-- Whether a wake-capable input requests its source by the edge itself: PPS_IN while enabled (R45), a TRIG pin while an input
(R71), PCIe wake and Acser chip select; PWR_FAIL_N and the thermal alarm are levels (R521). -/
def edgeSource (s : State) (n : Nat) : Bool :=
  if n = 12 then rb s R.dtPpsCfg 0
  else if 13 ≤ n ∧ n ≤ 28 then rb s (R.sgTrigCfg (n - 13)) 0
  else n == 384 || n == 464

/-- WAKE_EDGE: an armed latch catches the edge; while disarmed, the edge takes the level path (R103, R104). -/
def execWakeEdge (src : BitVec 9) (s : State) : Out :=
  let n := src.toNat
  .next (if !wakeCapable n then s
    else if s.evc.wakeArmed then
      (if inSet s.evc.wakeMask n then { s with evc := { s.evc with wake := addSet s.evc.wake n } } else s)
    else if s.up && edgeSource s n then raiseEdge s n else s)

/-- WAKE_LATCH_TAKE: the EVC takes the latch contents; each holds its source's level high until completed (R104). -/
def execWakeLatchTake (s : State) : Out :=
  fabric s fun s =>
    { s with evc := { s.evc with held := s.evc.held ||| s.evc.wake, wake := 0, wakeArmed := false } }

end Sys2Proof.Machine
end

