-- ==== Sys2Proof/Machine/DeviceTime.lean ====
section
/-! DEFINITION. Device time: the counter, the servo, PTP and PPS sources, and forced steps (R35 to R55, R73). -/

namespace Sys2Proof.Machine

/-- `DT_CTRL.SEL` with 0b11 taken as none (R41). -/
def dtSel (s : State) : Nat := if rf s R.dtCtrl 1 0 = 3 then 0 else rf s R.dtCtrl 1 0

/-- The frequency estimate, signed parts per 2^32. -/
def dtFreq (s : State) : Int := (rd s R.dtFreq).toInt

/-- The trim applied. -/
def setRate (s : State) (r : Int) : State := wr s R.dtRate (BitVec.ofInt 32 r)

/-- A DT_EVENT bit raised. -/
def dtEvent (s : State) (b : Nat) : State := setBits s R.dtEvent (bitW b)

/-- The identity of the selected grandmaster, 0 where none is selected. -/
def gmIdentity (s : State) : DWord :=
  match s.ptp.master with
  | some m => m.identity
  | none => 0

/-- An edge of TIME_CLK (R35): `frac` takes 4 × DT_RATE, DT takes 4 plus the signed carry. While the fabric domain is held,
the holdover counter takes 40 ns plus the trim of the carried frequency estimate at an AON_CLK edge (R39). -/
def dtTick (s : State) : State :=
  let n : Int := if s.up then 4 else 40
  let rate : Int := if s.up then (rd s R.dtRate).toInt else dtFreq s
  let f : Int := s.dt.frac.toNat + n * rate
  { s with dt := { s.dt with
    prev := s.dt.now
    frac := BitVec.ofInt 32 f
    now := s.dt.now + BitVec.ofInt 64 (n + f / 2 ^ 32) } }

/-- The armed gates of the table. -/
def armedGates (s : State) : List Nat := (List.range 512).filter (fun n => rb s (R.sgGateCtrl n) 0)

/-- FIRE of a gate. -/
def gateFire (s : State) (n : Nat) : DWord := rd64 s (R.sgGateFireLo n) (R.sgGateFireHi n)

/-- The gates that a forward step or the setting of RUN passes over at DT `t`: armed, with FIRE earlier than `t`. They fall
due once, flagged as passed (R65, R75). -/
def passOver (s : State) (t : DWord) : State :=
  let ps := (armedGates s).filter (fun n => (gateFire s n).toNat < t.toNat)
  { s with sg := { s.sg with
    due := s.sg.due.filter (fun d => !ps.contains d.gate) ++ ps.map (fun n => ⟨n, t, true⟩) } }

/-- A backward step leaves FIRE unchanged and no gate due before its FIRE comes again (R67). -/
def unDue (s : State) (t : DWord) : State :=
  { s with sg := { s.sg with due := s.sg.due.filter (fun d => (gateFire s d.gate).toNat ≤ t.toNat) } }

/-- DT_PTP_CFG as it reads: under the 802.1AS profile Layer 2 transport and peer delay are forced (R42, R73). -/
def ptpCfg (s : State) : Word :=
  let v := rd s R.dtPtpCfg
  if bit v 10 then v ||| 0xA00 else v

/-- Whether the peer-delay mechanism measures the path, and whether messages travel on Layer 2 (R42). -/
def peerDelay (s : State) : Bool := bit (ptpCfg s) 11
def onLayer2 (s : State) : Bool := bit (ptpCfg s) 9

/-- R55: a step of DT by `delta`: the event, the record, the servo in ACQUIRE with its counts at 0, and the gates' view. The
mode is 0 RELATIVE, 1 ABSOLUTE, 2 SOURCE, 3 initial set. What firmware measures in sync intervals it measures in elapsed time:
those marks move with the step. -/
def stepDt (s : State) (delta : Int) (mode : Nat) : State :=
  let old := s.dt.now
  let new := old + BitVec.ofInt 64 delta
  let mv := new - old
  let s1 := { s with
    dt := { s.dt with
      now := new, prev := old, servo := .acquire, everSet := true, lock := 0, unlock := 0, qual := 0, commit := none
      lossFrom := s.dt.lossFrom + mv, offsetAt := s.dt.offsetAt.map (· + mv), ppsPrev := s.dt.ppsPrev.map (· + mv) }
    ptp := { s.ptp with annAt := s.ptp.annAt + mv } }
  let args := leBytes 8 (new - old).toNat ++ leBytes 8 old.toNat ++ leBytes 8 new.toNat ++ leBytes 1 mode
  let s2 := bbx (dtEvent s1 4) 0x0105 0x01 args true
  if old.toNat ≤ new.toNat then when (rb s2 R.sgCtrl 0) (fun s => passOver s new) s2 else unDue s2 new

/-- TIME_MASTER_CHANGED, with the grandmaster and the domain. -/
def masterChanged (s : State) : State :=
  postEvent (dtEvent s 3) s.dt.now 0x0103 0x01 (leBytes 8 (gmIdentity s).toNat ++ leBytes 1 (rf s R.dtPtpCfg 7 0))

/-- A new source or grandmaster (R51): QUALIFY and TIME_MASTER_CHANGED. While DT has never been set the initial-set path is
taken instead, also by the first offset after a HOLDOVER that the servo entered from UNSET. -/
def newSource (s : State) : State :=
  if s.dt.servo = .unset ∨ s.dt.everSet = false then { s with dt := { s.dt with servo := .unset } }
  else masterChanged (setRate { s with dt := { s.dt with servo := .qualify, qual := 0 } } (dtFreq s))

/-- The servo applies an accepted offset (the last part of the pseudocode of R47). -/
def servoApply (s : State) (o : Int) (t : Nat) : State :=
  let kp := rf s R.dtCtrl 7 4
  let ki := rf s R.dtCtrl 11 8
  let thr : Int := (rd s R.dtLockThr).toNat
  let e := divRne (o * 2 ^ 32) t
  let freq := max (-214748) (min 214748 (dtFreq s - e / 2 ^ ki))
  let slew := max (-858993) (min 858993 (-(e / 2 ^ kp)))
  let s1 := setRate (wr s R.dtFreq (BitVec.ofInt 32 freq)) (freq + slew)
  let lock := if o.natAbs ≤ thr then s.dt.lock + 1 else 0
  let enter : Bool := decide (s.dt.servo = .acquire ∧ 8 ≤ lock)
  let locked : Bool := enter || decide (s.dt.servo = .locked)
  let unlock := if locked then (if o.natAbs > thr then s.dt.unlock + 1 else 0) else s.dt.unlock
  let drop : Bool := locked && decide (8 ≤ unlock)
  let s2 := when enter (fun s => dtEvent s 0) s1
  { s2 with dt := { s2.dt with
    lock := if drop then 0 else lock
    unlock := unlock
    servo := if drop then .acquire else if locked then .locked else s2.dt.servo } }

/-- R49: the offset is refused. Entry to REFUSING raises TIME_JUMP_REFUSED with its record. -/
def servoRefuse (s : State) (o : Int) : State :=
  let s1 := bump (setRate { s with dt := { s.dt with servo := .refusing, qual := 0 } } (dtFreq s)) R.dtRefuseCnt
  let args := leBytesI 8 o ++ leBytes 1 (dtSel s) ++ leBytes 3 0 ++ leBytes 8 (gmIdentity s).toNat
  bbx (dtEvent s1 1) 0x0101 0x01 args true

/-- R47: the servo acts on offset `o` measured over interval `t`. -/
def servoOn (s : State) (o : Int) (t : Nat) : State :=
  let jm : Nat := (rd s R.dtJumpMax).toNat
  match s.dt.servo with
  | .unset => stepDt s (-o) 3
  | .qualify | .refusing =>
    let qual := if o.natAbs ≤ jm then s.dt.qual + 1 else 0
    let s1 := { s with dt := { s.dt with qual := qual } }
    if qual < 8 then
      setRate (when (jm < o.natAbs) (fun s => bump s R.dtRefuseCnt) s1) (dtFreq s)
    else
      let s2 := bbx (dtEvent { s1 with dt := { s1.dt with servo := .acquire } } 6) 0x0102 0x01 [] true
      servoApply s2 o t
  | _ => if jm < o.natAbs then servoRefuse s o else servoApply s o t

/-- A usable offset: recorded, then the servo acts; after HOLDOVER it counts as one from a new source (R52). -/
def measured (s : State) (o : Int) (t : Nat) : State :=
  let s1 := { s with dt := { s.dt with offset := o, offsetAt := some s.dt.now, interval := t, lossFrom := s.dt.now } }
  servoOn (if s.dt.servo = .holdover then newSource s1 else s1) o t

/-- The sync interval of a master in ns, from its log sync interval −7 to 1 (R43). -/
def syncInterval (l : Int) : Nat := if l < 0 then 1000000000 / 2 ^ l.natAbs else 1000000000 * 2 ^ l.natAbs

/-- The sync interval of the selected source: 1 s for PPS (R45), that of the selected master for PTP (R43); none while PTP has
no master. -/
def sourceInterval (s : State) : Option Nat :=
  if dtSel s = 2 then some 1000000000 else if dtSel s = 1 then s.ptp.master.map fun m => syncInterval m.logSync else none

/-- SERVO_OFFSET: firmware feeds the servo the offset of the last whole Sync, less the asymmetry, once per sync interval
(R44). A PPS offset is taken at its edge (R45). -/
def execServoOffset (s : State) : Out :=
  fabric s fun s =>
    if dtSel s ≠ 1 then s
    else match s.ptp.msOffset, s.ptp.master with
      | some o, some m => measured { s with ptp := { s.ptp with msOffset := none } } (o - s.ptp.asym) (syncInterval m.logSync)
      | _, _ => s

/-- R45, R46: the offset of a PPS edge stamped `t`. -/
def ppsOffset (s : State) (t : DWord) : Int :=
  let phase : Int := (rd s R.dtPpsPhase).toNat
  match s.dt.servo with
  | .unset => t.toNat - ((rd64 s R.dtPpsSecLo R.dtPpsSecHi).toNat * 1000000000 + phase)
  | _ => (t.toNat - phase + 500000000) % 1000000000 - 500000000

/-- PPS_EDGE: an edge of PPS_IN (R45). An inactive edge, a disabled input and an edge under 100 ns after the previous one
are ignored; the previous edge is the last one stamped, an ignored edge being none (DESIGN CHOICE, log entry 29). -/
def execPpsEdge (rising : Bool) (s : State) : Out :=
  fabric s fun s =>
    let active := rising != rb s R.dtPpsCfg 1
    let near : Bool := match s.dt.ppsPrev with
      | some p => decide ((s.dt.now - p).toNat < 100)
      | none => false
    if !(rb s R.dtPpsCfg 0) || !active || near then s
    else
      let s1 := raiseEdge { s with dt := { s.dt with ppsStamp := s.dt.now, ppsPrev := some s.dt.now } } 12
      if dtSel s = 2 then measured s1 (ppsOffset s s.dt.now) 1000000000 else s1

/-- The servo enters HOLDOVER (R52), where a source is selected. -/
def toHoldover (s : State) : State :=
  if dtSel s = 0 ∨ s.dt.servo = .holdover then s
  else
    let s1 := setRate { s with dt := { s.dt with servo := .holdover } } (dtFreq s)
    postEvent (dtEvent s1 2) s.dt.now 0x0104 0x01 []

/-- The silent sync intervals before HOLDOVER: 0 is taken as 1 (R73). -/
def lossCount (s : State) : Nat := max 1 (rf s R.dtCtrl 19 16)

/-- SERVO_LOSS_TIMEOUT: no usable offset for LOSS consecutive sync intervals of the selected source (R52). While PTP has no
master there is no interval to count. -/
def execServoLossTimeout (s : State) : Out :=
  fabric s fun s =>
    match sourceInterval s with
    | some t => if lossCount s * t ≤ (s.dt.now - s.dt.lossFrom).toNat then toHoldover s else s
    | none => s

/-- ANNOUNCE_TIMEOUT: no Announce of the master for PTP_ANN_TMO of its announce intervals, while PTP is selected (R52, R459);
the master is forgotten. With no master, the expiry is that of the wait for a first Announce, whose interval the spec does not
name, and is taken as come. -/
def execAnnounceTimeout (s : State) : Out :=
  fabric s fun s =>
    let due : Bool := match s.ptp.master with
      | some m => decide (s.ptp.annTmo * syncInterval m.logAnnounce ≤ (s.dt.now - s.ptp.annAt).toNat)
      | none => true
    if dtSel s = 1 ∧ due = true then { toHoldover s with ptp := { s.ptp with master := none } } else s

/-- The source has changed (R51): TIME_MASTER_CHANGED; FREE where none is selected (R48), else a new source. From UNSET the
initial-set path is taken instead. -/
def sourceChanged (s : State) : State :=
  let s1 := { s with dt := { s.dt with lossFrom := s.dt.now } }
  if dtSel s ≠ 0 then newSource s1
  else if s.dt.servo = .unset ∨ s.dt.everSet = false then setRate { s1 with dt := { s1.dt with servo := .unset } } 0
  else masterChanged (setRate { s1 with dt := { s1.dt with servo := .free } } (dtFreq s))

/-- DT_CTRL_WRITE (R41, R48, R51). -/
def execDtCtrlWrite (v : Word) (s : State) : Out :=
  fabric s fun s =>
    let s1 := wr s R.dtCtrl (v &&& 0x000F0FF3)
    if dtSel s1 = dtSel s then s1 else sourceChanged s1

/-- DT_PTP_CFG_WRITE: a change acts on the servo only while PTP is selected (R51). -/
def execDtPtpCfgWrite (v : Word) (s : State) : Out :=
  fabric s fun s =>
    let s1 := wr s R.dtPtpCfg (v &&& 0xFFF)
    if dtSel s = 1 ∧ ptpCfg s1 ≠ ptpCfg s then
      newSource { s1 with
        dt := { s1.dt with lossFrom := s1.dt.now }
        ptp := { s1.ptp with master := none, sync := none, fwd := none, msOffset := none, delay := none, pdelay := none } }
    else s1

/-! ### PTP messages (R42 to R44) -/

/-- The data-set comparison: lexicographic, lower is better. -/
def annKey (a : Announce) : List Nat :=
  [a.priority1, a.clockClass, a.accuracy, a.variance, a.priority2, a.identity.toNat, a.stepsRemoved]

/-- Lexicographic order of keys. -/
def keyLt : List Nat → List Nat → Bool
  | a :: as, b :: bs => decide (a < b) || (decide (a = b) && keyLt as bs)
  | _, _ => false

/-- An Announce takes part in selection when its domain is the configured one and its sync interval is in range (R43). The
better of it and the present master is selected; a change of identity puts the servo in QUALIFY (R51). -/
def announceRx (s : State) (a : Announce) : State :=
  if a.domain.toNat ≠ rf s R.dtPtpCfg 7 0 ∨ a.logSync < -7 ∨ 1 < a.logSync then s
  else
    let better : Bool := match s.ptp.master with
      | none => true
      | some m => decide (m.identity = a.identity) || keyLt (annKey a) (annKey m)
    let changed : Bool := match s.ptp.master with
      | none => false
      | some m => better && decide (m.identity ≠ a.identity)
    if !better then s
    else
      let s1 := { s with ptp := { s.ptp with master := some a, annAt := s.dt.now } }
      if changed && decide (dtSel s = 1) then newSource s1 else s1

/-- Whether a message comes from the selected master. -/
def fromMaster (s : State) (id : DWord) : Bool :=
  match s.ptp.master with
  | some m => decide (m.identity = id)
  | none => false

/-- A completed Sync: the offset of DT from the source, receive stamp less origin, correction and path delay (R44). -/
def syncDone (s : State) (t2 t1 : DWord) (corr : Int) : State :=
  let d := (t2 - t1).toInt - corr
  { s with ptp := { s.ptp with sync := none, fwd := some d, msOffset := some (d - s.ptp.pathDelay) } }

/-- The stamp of a message that crosses the PCS now, with `DT_PTP_RX_LAT` added (R37, R44). -/
def rxStamp (s : State) : DWord := s.dt.now + BitVec.ofNat 64 (rf s R.dtPtpLat 15 0)

/-- The transmit stamp of a message that leaves at `t`, with `DT_PTP_TX_LAT` subtracted (R44). -/
def txStamp (s : State) (t : DWord) : DWord := t - BitVec.ofNat 64 (rf s R.dtPtpLat 31 16)

/-- The mean path delay of an exchange, from its two differences: the half of an odd sum is rounded down (DESIGN CHOICE, log
entry 29: R44 names no rounding). -/
def meanDelay (a b : Int) : Int := (a + b) / 2

/-- A message sent on a port. -/
def ptpSend (s : State) (port : Fin 2) (m : PtpSent) : State := { s with ptp := { s.ptp with sent := s.ptp.sent ++ [(port, m)] } }

/-- The answer to a Pdelay_Req in two steps (R42): the response returns the receive stamp; the follow-up the DT at which the
response crossed the PCS, later by a turn-round that the spec does not give. -/
def answerPdelay (s : State) (port : Fin 2) (q : Half) : State :=
  let (k, s1) := drawNat s
  ptpSend (ptpSend s1 port (.pdelayResp q (rxStamp s))) port
    (.pdelayRespFollowUp q (txStamp s (s.dt.now + BitVec.ofNat 64 k)))

/-- Firmware's handling of one stamped message (R42 to R44): of the two path-delay mechanisms only the configured one takes
part. -/
def ptpRx (s : State) (port : Fin 2) (m : PtpMsg) : State :=
  match m with
  | .announce a => announceRx s a
  | .sync q id two origin corr =>
    if !fromMaster s id then s
    else if two then { s with ptp := { s.ptp with sync := some (q, rxStamp s, corr) } }
    else syncDone s (rxStamp s) origin corr
  | .followUp q id origin corr =>
    match s.ptp.sync with
    | some (q', t2, c) => if fromMaster s id ∧ q = q' then syncDone s t2 origin (c + corr) else s
    | none => s
  | .delayResp q id rcv corr =>
    match s.ptp.delay, s.ptp.fwd with
    | some (q', t3), some fwd =>
      if !peerDelay s ∧ fromMaster s id = true ∧ q = q' then
        { s with ptp := { s.ptp with delay := none, pathDelay := meanDelay fwd ((rcv - t3).toInt - corr) } }
      else s
    | _, _ => s
  | .pdelayReq q => if peerDelay s then answerPdelay s port q else s
  | .pdelayResp q two rcpt corr =>
    match s.ptp.delay with
    | some (q', t1) =>
      if q ≠ q' ∨ peerDelay s = false then s
      else if two then { s with ptp := { s.ptp with pdelay := some (rcpt, rxStamp s, corr) } }
      else { s with ptp := { s.ptp with
        delay := none, pathDelay := meanDelay ((rxStamp s - t1).toInt) (-corr) } }
    | none => s
  | .pdelayRespFollowUp q origin corr =>
    match s.ptp.delay, s.ptp.pdelay with
    | some (q', t1), some (t2, t4, c) =>
      if q = q' ∧ peerDelay s = true then { s with ptp := { s.ptp with
        delay := none, pdelay := none
        pathDelay := meanDelay ((t4 - t1).toInt) (-(origin - t2).toInt - c - corr) } }
      else s
    | _, _ => s

/-- PTP_MESSAGE_RX: a message on the port and over the transport of `DT_PTP_CFG` is stamped with DT and reaches firmware (R42,
R44). -/
def execPtpMessageRx (port : Fin 2) (layer2 : Bool) (msg : PtpMsg) (s : State) : Out :=
  fabric s fun s => if rf s R.dtPtpCfg 8 8 = port.val ∧ onLayer2 s = layer2 ∧ blockOn s 9 = true then ptpRx s port msg else s

/-- DELAY_REQ: a Delay_Req, or under peer delay a Pdelay_Req, leaves on the configured port at the present DT, and its transmit
stamp is kept (R42, R44). -/
def execDelayReq (s : State) : Out :=
  fabric s fun s =>
    let q := s.ptp.seq
    let t := txStamp s s.dt.now
    let port : Fin 2 := if rf s R.dtPtpCfg 8 8 = 0 then 0 else 1
    if !blockOn s 9 then s
    else ptpSend { s with ptp := { s.ptp with delay := some (q, t), pdelay := none, seq := q + 1 } } port
      (if peerDelay s then .pdelayReq q t else .delayReq q t)

/-- PTP_STATUS: once per second while PTP is selected, the event of R468. -/
def execPtpStatus (s : State) : Out :=
  fabric s fun s =>
    if dtSel s = 1 then
      postEvent s s.dt.now 0x0106 0x01
        (leBytes 8 (gmIdentity s).toNat ++ leBytesI 4 (satS 32 s.ptp.pathDelay))
    else s

/-! ### Captures (R40) -/

/-- DT_NOW_LO_READ captures DT and `frac` together. -/
def execDtNowLoRead (s : State) : Out :=
  fabric s fun s =>
    { capture s R.dtNowLo s.dt.now with capFrac := tabSet 0 s.capFrac R.dtNowLo s.dt.frac }

/-- DT_OFFSET_LO_READ captures the last offset. -/
def execDtOffsetLoRead (s : State) : Out :=
  fabric s fun s => capture s R.dtOffsetLo (BitVec.ofInt 64 s.dt.offset)

/-- DT_PPS_STAMP_LO_READ captures the last PPS stamp. -/
def execDtPpsStampLoRead (s : State) : Out := fabric s fun s => capture s R.dtPpsStampLo s.dt.ppsStamp

/-! ### Forcing a step (R53 to R55) -/

/-- The lapse of an armed step (R54). -/
def stepLapse (s : State) : State :=
  match s.dt.armed with
  | some _ => dtEvent { s with dt := { s.dt with armed := none } } 5
  | none => s

/-- Whether an offset was measured within the last 2 sync intervals (R54). -/
def offsetRecent (s : State) : Bool :=
  match s.dt.offsetAt with
  | some t => decide ((s.dt.now - t).toNat ≤ 2 * s.dt.interval)
  | none => false

/-- Whether a step armed at `t` stands no longer (R54): its commit has not come within 1,000,000 ns, or its mode is SOURCE and
no offset was measured within the last 2 sync intervals. -/
def armStale (s : State) (mode : StepMode) (t : DWord) : Bool :=
  decide (1000000 < (s.dt.now - t).toNat) || (decide (mode = .source) && !offsetRecent s)

/-- STEP_ARM: KEY 0xA5 with a mode. An armed step lapses first; then the write arms; a SOURCE step with no recent offset lapses
at once (R53, R54). -/
def execStepArm (mode : StepMode) (s : State) : Out :=
  fabric s fun s =>
    let s1 := stepLapse s
    let s2 := { s1 with dt := { s1.dt with armed := some (mode, s1.dt.now) } }
    if armStale s2 mode s1.dt.now then stepLapse s2 else s2

/-- STEP_COMMIT: KEY 0x5A with a mode. The matching commit of an armed step is taken; without one, or with no recent offset
for SOURCE, STEP_ABORT is set; a commit of another mode makes the armed step lapse and is then one without an arm. -/
def execStepCommit (mode : StepMode) (s : State) : Out :=
  fabric s fun s =>
    match s.dt.armed with
    | some (m, t) =>
      if m = mode ∧ armStale s m t = false then
        { s with dt := { s.dt with armed := none, commit := some mode } }
      else stepLapse s
    | none => dtEvent s 5

/-- STEP_CANCEL: MODE 0b11 with any key cancels an armed step and never arms (R54). -/
def execStepCancel (_key : Byte) (s : State) : Out := fabric s stepLapse

/-- DT_STEP_VALUE_WRITE: the value is written, an armed step lapses (R54). -/
def execDtStepValueWrite (hi : Bool) (v : Word) (s : State) : Out :=
  fabric s fun s => wr (stepLapse s) (if hi then R.dtStepHi else R.dtStepLo) v

/-- STEP_ARM_LAPSE: the commit has not come within 1,000,000 ns of the arm, or a SOURCE step's offset is no longer recent
(R54). -/
def execStepArmLapse (s : State) : Out :=
  fabric s fun s =>
    match s.dt.armed with
    | some (m, t) => if armStale s m t then stepLapse s else s
    | none => s

/-- The committed step takes effect at an edge (R53, R55). -/
def applyCommit (s : State) (m : StepMode) : State :=
  let v := rd64 s R.dtStepLo R.dtStepHi
  match m with
  | .relative => stepDt s v.toInt 0
  | .absolute => stepDt s ((v.toNat : Int) - s.dt.now.toNat) 1
  | .source => stepDt s (-s.dt.offset) 2

/-- TIME_STEPPED: the first TIME_CLK edge after a commit (R53, R55). -/
def execTimeStepped (s : State) : Out :=
  fabric s fun s =>
    match s.dt.commit with
    | some m => applyCommit s m
    | none => s

/-- Whether the clock that carries DT runs: TIME_CLK while the fabric domain runs, else AON_CLK, once the crystal is stable and
until it fails (R39, R511, R545). That the holdover counter also runs between the crystal's becoming stable and the first
release of the fabric domain is a DESIGN CHOICE (log entry 29). -/
def clockRuns (s : State) : Bool := s.up || (s.aon.boot != .off && s.aon.boot != .aonReset && !s.aon.clockLost)

/-- Whether the memory at a physical address has a check code: tile-local, slab, LSE, GDDR6 (R255, R277). -/
def coded (s : State) (p : Nat) : Bool :=
  (addrRange s p).isSome && decide (p < hostBase) && !(decide (semBase ≤ p) && decide (p < gdrBase))

/-- The environment's errors of memory: one may arrive at any clock edge, and nothing tells which (R255, R277, R279: log entry
33). A second error in a unit is beyond what its code corrects. -/
def upsetTick (s : State) : State :=
  let e := Config.upset s.fresh
  let s1 := { s with fresh := s.fresh + 1 }
  let u := codeUnit e.2.1
  if e.1 = 3 then { s1 with edc := tabSet 0 s.edc (e.2.1 % 16) e.2.2 }
  else if !coded s u || s.poison.contains u then s1
  else if e.1 = 1 && !s.flips.contains u then { s1 with flips := s.flips ++ [u] }
  else if e.1 = 1 || e.1 = 2 then { s1 with poison := s.poison ++ [u], flips := s.flips.filter fun x => x != u }
  else s1

/-- A retrain is over: the channels HELD by one are released (R280 bounds the hold by 2 µs and does not fix it; the next clock
edge ends it: DESIGN CHOICE, log entry 33). -/
def heldOver (s : State) : State :=
  (List.range 16).foldl (fun s k => when (rb s (R.gdrChStatus k) 1) (fun s => clrBits s (R.gdrChStatus k) 2) s) s

/-- What step does on an empty queue: one clock edge of device time, a committed step first (R35, R39, R53), with what the
environment does to memory meanwhile. -/
def idleTick (s : State) : State :=
  let s1 := when s.up (fun s => heldOver (upsetTick s)) s
  match s1.dt.commit with
  | some m => if s1.up then applyCommit s1 m else when (clockRuns s1) dtTick s1
  | none => when (clockRuns s1) dtTick s1

end Sys2Proof.Machine
end

