-- ==== Sys2Proof/Machine/FaultRecords.lean ====
section
/-! DEFINITION. What every fault action shares: black-box records of the fault chapter, transients, takeovers, safe state
(R32, R478, R482, R492 to R495). -/

namespace Sys2Proof.Machine

/-- A SAFE_EVENT bit. -/
def safeEvent (s : State) (b : Nat) : State := setBits s R.safeEvent (bitW b)

/-- A record of the fault chapter: queued for the AOM, and shown in SAFE_LAST_FAULT. -/
def faultRec (s : State) (code unit inst : Nat) (args : List Byte) (post : Bool) : State :=
  let u := unit + 256 * (inst % 256)
  bbx (wr s R.safeLastFault (BitVec.ofNat 32 (code * 0x10000 + u))) code u args post

/-- The key of a unit instance. -/
def instKey (unit inst : Nat) : Nat := unit * 256 + inst

/-- The transients of a unit instance within the last WINDOW seconds (R482). -/
def recentTransients (s : State) (unit inst : Nat) : List DWord :=
  (tabGet [] s.safe.recent (instKey unit inst)).filter fun t =>
    decide (s.dt.now.toNat ≤ t.toNat + rf s R.safeRetire 31 16 * 1000000000)

/-- Whether the next transient of an instance is treated as permanent (R482). -/
def transientExhausted (s : State) (unit inst : Nat) : Bool :=
  decide (rf s R.safeRetire 7 0 < (recentTransients s unit inst).length)

/-- A transient of a unit instance: record, count, event; posted at most once a second (R482, R493). -/
def transient (s : State) (unit inst checker : Nat) : State :=
  let k := instKey unit inst
  let l := recentTransients s unit inst ++ [s.dt.now]
  let post := match tabGet none s.safe.posted k with
    | some t => decide (t.toNat + 1000000000 ≤ s.dt.now.toNat)
    | none => true
  let s1 := { s with safe := { s.safe with
    recent := tabSet [] s.safe.recent k l
    posted := if post then tabSet none s.safe.posted k (some s.dt.now) else s.safe.posted } }
  let args := leBytes 1 checker ++ leBytes 3 0 ++ leBytes 4 l.length
  faultRec (safeEvent (bump s1 R.safeTransientCnt) 0) 0x0202 unit inst args post

/-- GLB_STATUS.DEGRADED (R32, R251): a logical tile is cross-piste or folded, or the TFU runs on one lane. -/
def syncDegraded (s : State) : State :=
  let tiles := (List.range 68).any fun n => rb s (R.ttStatus n) 4 || rf s (R.ttStatus n) 23 16 != 0xFF
  wf s R.glbStatus 5 5 (tiles || rb s R.safeStatus 9).toNat

/-- The actions of R32 at a completed takeover: record, count, event; the event is posted as soon as the record is queued
(R495). The next pose record carries TAKEOVER (R477). `kind` is 0 tile, 1 control pair, 2 TFU lane. -/
def takeoverDone (s : State) (unit failed new pose kind : Nat) : State :=
  let args := leBytes 2 failed ++ leBytes 2 new ++ leBytes 4 pose ++ leBytes 1 kind
  let s1 := faultRec (safeEvent (bump s R.glbTakeoverCnt) 1) 0x0201 unit failed args false
  let s2 := postEvent s1 s.dt.now 0x0201 unit (args.take 12)
  syncDegraded { s2 with safe := { s2.safe with poseTakeover := true } }

/-- ALERT_N falls for a cause: 0 safe state, 1 thermal shutdown, 2 a start-up failure (R478, R518, R540, R557). -/
def alertOn (s : State) (cause : Nat) : State :=
  if s.aon.alerts.contains cause then s else { s with aon := { s.aon with alerts := s.aon.alerts ++ [cause] } }

/-- Free bytes. -/
def freeBytes : Nat → State → List Byte × State
  | 0, s => ([], s)
  | n + 1, s =>
    let (v, s1) := drawNat s
    let (l, s2) := freeBytes n s1
    (BitVec.ofNat 8 v :: l, s2)

/-- SAFE_STATE (R478): the writers of the HIF are gated, a FATAL record is written (the unit-specific capture is not laid
out by the spec), ALERT_N falls, the fabric and every switched domain are held in reset. -/
def safeState (s : State) (row unit inst : Nat) : State :=
  let (cap, s0) := freeBytes 24 s
  let args := leBytes 1 row ++ leBytes 3 0 ++ leBytes 8 s.dt.now.toNat ++ cap
  let s1 := faultRec s0 0x0206 unit inst args false
  alertOn { s1 with gated := true, up := false, safe := { s1.safe with inSafe := true } } 0

end Sys2Proof.Machine
end

