-- ==== Sys2Proof/Machine/Frames.lean ====
section
/-! DEFINITION. Frame slots as every unit sees them: buffer geometry, pixels, availability of units, jobs and reports
(R117, R150, R152, R502). -/

namespace Sys2Proof.Machine

/-- `n` rounded up to a multiple of 64. -/
def up64 (n : Nat) : Nat := (n + 63) / 64 * 64

/-- Fields of a frame slot (R126). -/
def fsEn (s : State) (n : Nat) : Bool := rb s (R.ingFsCfg n) 31
def fsType (s : State) (n : Nat) : Nat := rf s (R.ingFsCfg n) 30 29
def fsPort (s : State) (n : Nat) : Nat := rf s (R.ingFsCfg n) 28 27
def fsVc (s : State) (n : Nat) : Nat := rf s (R.ingFsCfg n) 26 25
def fsDtype (s : State) (n : Nat) : Nat := rf s (R.ingFsCfg n) 24 19
def fsTsrc (s : State) (n : Nat) : Nat := rf s (R.ingFsCfg n) 18 17
def fsPyr (s : State) (n : Nat) : Nat := rf s (R.ingFsCfg n) 15 14
def fsWidth (s : State) (n : Nat) : Nat := rf s (R.ingFsSize n) 15 0
def fsHeight (s : State) (n : Nat) : Nat := rf s (R.ingFsSize n) 31 16
def fsNbuf (s : State) (n : Nat) : Nat := rf s (R.ingFsBufcfg n) 3 0
def fsPeriod (s : State) (n : Nat) : Nat := (rd s (R.ingFsPeriod n)).toNat

/-- Bytes per pixel held in memory (R107). -/
def bytesPerPixel (dt : Nat) : Nat := if dt = 0x2A then 1 else 2

/-- A data type the CSI ports accept as image data (R107). -/
def imageType (dt : Nat) : Bool := dt == 0x2A || dt == 0x2B || dt == 0x2C || dt == 0x2E || dt == 0x1E

/-- Line pitch of a slot's image: WIDTH × bytes per pixel, rounded up to 64 (R117). -/
def fsPitch (s : State) (n : Nat) : Nat := up64 (fsWidth s n * bytesPerPixel (fsDtype s n))

/-- Device address of buffer `k` of slot `n` (R117). -/
def fsBuf (s : State) (n k : Nat) : Nat :=
  (rd64 s (R.ingFsBufLo n) (R.ingFsBufHi n)).toNat + k * rf s (R.ingFsBufcfg n) 31 8 * 0x10000

/-- Address of line `y` of the image in a buffer. -/
def lineAddr (s : State) (n buf y : Nat) : Nat := buf + 0x1000 + y * fsPitch s n

/-- Address of the line-stamp table: the next 64-byte boundary after the image (R117). -/
def stampTable (s : State) (n buf : Nat) : Nat := buf + 0x1000 + up64 (fsHeight s n * fsPitch s n)

/-- Bytes a buffer of the slot needs (R112, R117). -/
def fsBytes (s : State) (n : Nat) : Nat :=
  if fsType s n = 0 then 0x1000 + up64 (fsHeight s n * fsPitch s n) + 8 * fsHeight s n
  else 0x1000 + 16 * (rd s (R.ingFsSize n)).toNat

/-- A level-0 pyramid pixel of a buffer, converted as it is read (R152). -/
def pixel0 (s : State) (n buf x y ypos : Nat) : Nat :=
  let a := lineAddr s n buf y + x * bytesPerPixel (fsDtype s n)
  match fsDtype s n with
  | 0x2A => ldN s a 1 * 256
  | 0x2B => ldN s a 2 * 64
  | 0x2C => ldN s a 2 * 16
  | 0x2E => ldN s a 2
  | _ => ldN s (a + ypos) 1 * 256

/-- The stage's unit enable bit (R502). -/
def unitEnabled (s : State) (u : Nat) : Bool :=
  match u with
  | 0x01 => rb s (R.fddCtrl 0) 0
  | 0x02 => rb s (R.fddCtrl 1) 0
  | 0x03 => rb s (R.tmeCtrl 0) 0
  | 0x04 => rb s (R.tmeCtrl 1) 0
  | 0x05 => rb s R.sdeCtrl 0
  | 0x06 => rb s R.pjeCtrl 0
  | 0x11 => rb s R.memCtrl 0
  | 0x12 => rb s R.tfuCtrl 0
  | 0x13 => rb s R.lseCtrl 0
  | 0x14 => rb s R.prsCtrl 0
  | 0x15 => rb s R.mstCtrl 0
  | _ => true

/-- The bit of `PWR_PARK` for a unit (R501), if it can be parked. -/
def parkBit (u : Nat) : Option Nat :=
  match u with
  | 0x01 => some 0
  | 0x02 => some 1
  | 0x03 => some 2
  | 0x04 => some 3
  | 0x05 => some 4
  | 0x06 => some 5
  | 0x13 => some 6
  | _ => none

/-- Whether a unit's power domain is on and not parked: in GLIDE only FDD0, TME0 and the units of the fabric domain run
(R501, R502, R506). -/
def unitPowered (s : State) (u : Nat) : Bool :=
  !holding s &&
  (match parkBit u with
   | some b => !rb s R.pwrPark b
   | none => true) &&
  (!gliding s || u == 0x01 || u == 0x03 || u == 0x11 || u == 0x12)

/-- Whether work may start at a unit (R502); an engine FAILED by its self-test is handled at the job's start (R480). -/
def unitReady (s : State) (u : Nat) : Bool := unitEnabled s u && unitPowered s u

/-- Whether an engine is held for its restart self-test, and whether it is FAILED (R480): unit codes, 0x40 + n for SUn. -/
def engineHeld (s : State) (u : Nat) : Bool := s.safe.engineTest.contains u
def engineDead (s : State) (u : Nat) : Bool := s.safe.engineFailed.contains u

/-- An SG_ERR bit with the gate of the first error (R74). -/
def sgErr (s : State) (b n : Nat) : State := errInfo s R.sgErr b R.sgErrGate (BitVec.ofNat 32 n)

/-- A descriptor in the device replaced. -/
def setDesc (s : State) (d : Nat) (f : Desc → Desc) : State :=
  { s with hif := { s.hif with descs := s.hif.descs.map fun x => if x.id = d then f x else x } }

/-- The descriptor of an id. -/
def findDesc (s : State) (d : Nat) : Option Desc := s.hif.descs.find? (fun x => x.id == d)

/-- The work of a job ends: a gate's completion report goes to the sequencer, a descriptor takes its outcome (R219, R456), the
place-recognition coordinator the status of its coarse job (R380). -/
def finishNow (s : State) (o : Owner) (st : Nat) (res : List Byte) : State :=
  match o with
  | .gate _ _ => { s with fgs := { s.fgs with
      reports := s.fgs.reports ++ [⟨o, st⟩], abortAsked := s.fgs.abortAsked.filter (fun x => x ≠ o) } }
  | .descriptor d =>
    setDesc { s with fgs := { s.fgs with abortAsked := s.fgs.abortAsked.filter (fun x => x ≠ o) } } d fun x =>
      { x with stage := .ended, status := st, result := padTo 16 res, endDt := s.dt.now }
  | .coordinator => { s with prs := { s.prs with run := s.prs.run.map fun r => { r with coarse := some st } } }
  | .startGate _ => { s with fgs := { s.fgs with abortAsked := s.fgs.abortAsked.filter (fun x => x ≠ o) } }
  | .firmware => s

/-- Whether stores of a job are still held by a fence, and so not acknowledged (R263, R576). -/
def unacked (s : State) (o : Owner) : Bool := s.memx.unacked.any fun e => decide (e.1 = o)

/-- The state `t` that a job's work has made of `s`, with those of its stores that a fence holds marked as the job's. -/
def issued (o : Owner) (s t : State) : State :=
  let new := ((t.heldWrites.drop s.heldWrites.length).map HeldByte.store).eraseDups
  { t with memx := { t.memx with unacked := t.memx.unacked ++ new.map fun q => (o, q) } }

/-- The end of a job is reported when every one of its stores has been acknowledged (R85, R150, R274): at once, or at the release
of the fence that holds the last of them. -/
def finish (s : State) (o : Owner) (st : Nat) (res : List Byte) : State :=
  if unacked s o then { s with memx := { s.memx with deferred := s.memx.deferred ++ [(o, st, res)] } }
  else finishNow s o st res

/-- A unit reports a completion without result words. -/
def report (s : State) (o : Owner) (st : Nat) : State := finish s o st []

/-- Whether a job was asked to abort (R223). -/
def abortAsked (s : State) (o : Owner) : Bool := s.fgs.abortAsked.contains o

/-- The jobs a unit code has started. -/
def startedAt (s : State) (u : Nat) : List Job := tabGet [] s.fgs.started u

/-- The jobs started at a unit code replaced. -/
def setStarted (s : State) (u : Nat) (l : List Job) : State :=
  { s with fgs := { s.fgs with started := tabSet [] s.fgs.started u l } }

/-- The queue of a unit code. -/
def queueOf (s : State) (u : Nat) : List Job := tabGet [] s.fgs.queues u

/-- The jobs that wait to join the queue of a unit code. -/
def joiningAt (s : State) (u : Nat) : List Job := tabGet [] s.fgs.joining u

/-- The queue of a unit code replaced by a list of up to 8 jobs; those that wait to join it take the places left (R218). -/
def setQueue (s : State) (u : Nat) (q : List Job) : State :=
  let k := 8 - q.length
  { s with fgs := { s.fgs with
    queues := tabSet [] s.fgs.queues u (q ++ (joiningAt s u).take k)
    joining := tabSet [] s.fgs.joining u ((joiningAt s u).drop k) } }

/-- A start gate's solve or a coarse job joins the queue of a unit, behind those that wait for a full one (R362, R380; DEDUCED: the
spec says only that it joins the queue, which holds 8). -/
def joinQueue (s : State) (u : Nat) (j : Job) : State :=
  setQueue { s with fgs := { s.fgs with joining := tabSet [] s.fgs.joining u (joiningAt s u ++ [j]) } } u (queueOf s u)

/-- The first of a list of checks that fails: the block byte it is about. -/
def firstBad : List (Nat × Bool) → Option Nat
  | [] => none
  | (b, ok) :: t => if ok then firstBad t else some b

/-- Bytes of a job block that must be zero. -/
def zeros (b : List Byte) (off n : Nat) : Bool := rec8 b off n == 0

/-- A range an engine may write or read: inside one valid range of R20, and not semaphore or host memory (R157). -/
def engineRange (s : State) (a n : Nat) : Bool :=
  rangeOk s a n && !(decide (semBase ≤ a) && decide (a < semBase + 0x4000)) && decide (a < hostBase)

/-- Whether two ranges overlap. -/
def overlaps (a n b m : Nat) : Bool := decide (a < b + m) && decide (b < a + n)

/-- Whether `n` bytes from `a` touch GDDR6 while GLIDE refuses it (R507). -/
def glideRefused (s : State) (a n : Nat) : Bool := gdrClosed s (physAddr s a) || gdrClosed s (physAddr s a + n - 1)

/-- Whether reading a list of ranges meets poison or a refused access: the consumer ends ERR_FAULT (R255, R277, R507). -/
def badData (s : State) (l : List (Nat × Nat)) : Bool := l.any fun r => poisoned s r.1 r.2 || glideRefused s r.1 r.2

/-- Whether a store to one of a list of ranges is refused in GLIDE (R507). -/
def badOut (s : State) (l : List (Nat × Nat)) : Bool := l.any fun r => glideRefused s r.1 r.2

/-- What reading a list of ranges, one after another until one is bad, does to the counters and events of memory (R255, R277,
R279, R507). -/
def noteReads (s : State) : List (Nat × Nat) → State
  | [] => s
  | r :: t =>
    if glideRefused s r.1 r.2 then glideErr s
    else if poisoned s r.1 r.2 then noteRead s r.1 r.2
    else noteReads (noteRead s r.1 r.2) t

/-- A store of a job's output. -/
def jobStore (j : Job) (s : State) (a : Nat) (l : List Byte) : State := issued j.owner s (stBytes s a l)

/-- The same with the ranges to be stored to, which GLIDE refuses in the same way. -/
def noteIo (s : State) (ins outs : List (Nat × Nat)) : State :=
  let s1 := noteReads s ins
  if !badData s ins && badOut s outs then glideErr s1 else s1

/-- A job reads its inputs: it ends by `bad` where data is poisoned, or where GLIDE refuses a read or a store (R255, R277, R507),
and goes on with `good` otherwise. -/
def jobIo (s : State) (ins outs : List (Nat × Nat)) (bad good : State → State) : State :=
  let s1 := noteIo s ins outs
  if badData s ins || badOut s outs then bad s1 else good s1

end Sys2Proof.Machine
end

