-- ==== Sys2Proof/Machine/Completions.lean ====
section
/-! DEFINITION. Completion rings: writing a completion, holding one for a full ring, and the interrupt of a ring
(R450, R451, R456, R457, R464, R465). -/

namespace Sys2Proof.Machine

/-- A completion ring that holds nothing. -/
def cqState0 : CqState where
  entries := []
  doorbell := 0
  sent := none

/-- Completion ring `k` beside its registers. -/
def cqOf (s : State) (k : Nat) : CqState := tabGet cqState0 s.hif.cq k

/-- Ring `k` replaced. -/
def setCq (s : State) (k : Nat) (c : CqState) : State := { s with hif := { s.hif with cq := tabSet cqState0 s.hif.cq k c } }

/-- Whether CQ `k` is enabled, its size, tail and head. -/
def cqEn (s : State) (k : Nat) : Bool := rb s (R.hifCqCfg k) 31
def cqSize (s : State) (k : Nat) : Nat := 2 ^ rf s (R.hifCqCfg k) 4 0
def cqTail (s : State) (k : Nat) : Nat := rf s (R.hifCqStatus k) 15 0
def cqHead (s : State) (k : Nat) : Nat := rf s (R.hifCqHead k) 15 0

/-- R450: full when the tail is one entry behind the head. -/
def cqFull (s : State) (k : Nat) : Bool := (cqTail s k + 1) % cqSize s k == cqHead s k

/-- FULL as the status register shows it. -/
def syncFull (s : State) (k : Nat) : State := wf s (R.hifCqStatus k) 30 30 (cqFull s k).toNat

/-- Whether a completion of SQ `q` waits for its ring: held by the HIF or in its producer (R450). -/
def sqStalled (s : State) (q : Nat) : Bool :=
  (s.hif.hold.any fun c => c.sq == some q) || s.hif.descs.any fun d => d.sq == q && decide (d.stage = .signalled)

/-- Whether the head of SQ `q` is held under R455. -/
def sqWaiting (s : State) (q : Nat) : Bool :=
  s.hif.descs.any fun d => d.sq == q && decide (d.stage = .fenceHold ∨ d.stage = .gateHold ∨ d.stage = .waitHold ∨ d.stage = .waited)

/-- ACTIVE of SQ `q`: it is enabled, or work or completions of it are still in the device (R452). -/
def sqActive (s : State) (q : Nat) : Bool :=
  rb s (R.hifSqCfg q) 31 || (s.hif.descs.any fun d => d.sq == q) || s.hif.hold.any fun c => c.sq == some q

/-- ACTIVE, WAITING and STALLED of SQ `q` as its status register shows them. -/
def syncSq (s : State) (q : Nat) : State :=
  wf s (R.hifSqStatus q) 31 29 (4 * (sqActive s q).toNat + 2 * (sqWaiting s q).toNat + (sqStalled s q).toNat)

/-- The same for the ring of a completion, where it has one. -/
def syncOwner (s : State) (c : Completion) : State := match c.sq with | some q => syncSq s q | none => s

/-- The entries of CQ `k` that count for its interrupt: those written without NOIRQ. -/
def cqPending (s : State) (k : Nat) : List (Bool × DWord) := (cqOf s k).entries.filter fun e => !e.1

/-- Whether TIME has passed since the later of the write of the first pending entry and the last head doorbell (R465). -/
def cqTimed (s : State) (k : Nat) : Bool :=
  match cqPending s k with
  | [] => false
  | e :: _ => decide (max e.2.toNat (cqOf s k).doorbell.toNat + 1000 * rf s (R.hifCqCoal k) 31 16 ≤ s.dt.now.toNat)

/-- R465: an armed CQ sends its message when the pending count reaches COUNT or TIME has passed, and is disarmed. A doorbell
counts as come before the completions of its cycle, so a message these have sent already is not sent again. -/
def cqEvaluate (s : State) (k : Nat) : State :=
  let cfg := rd s (R.hifCqCfg k)
  if bit cfg 31 && bit cfg 30 && rb s (R.hifCqStatus k) 29 &&
      (decide (max 1 (rf s (R.hifCqCoal k) 7 0) ≤ (cqPending s k).length) || cqTimed s k) then
    let c := cqOf s k
    let s1 := setCq (clrBits s (R.hifCqStatus k) (bitW 29)) k { c with sent := some s.dt.now }
    if c.sent = some s.dt.now ∧ c.doorbell = s.dt.now then s1 else msixSend s1 (fld cfg 22 16)
  else s

/-- The bytes of a completion as it is written (R222, R457). -/
def completionBytes (s : State) (c : Completion) : List Byte :=
  let phase := (rb s (R.hifCqStatus c.cq) 31).toNat
  let sq := match c.sq with | some q => 4 * q | none => 0
  let head := match c.sq with | some q => rf s (R.hifSqStatus q) 15 0 | none => 0
  leBytes 4 c.tag ++ leBytes 1 c.status ++ leBytes 1 (phase + 2 * c.signalled.toNat + sq) ++ leBytes 2 head ++
    leBytes 8 c.dt.toNat ++ padTo 16 c.result

/-- A completion written at the tail of its ring (R451); the phase inverts where the tail wraps. -/
def writeCompletion (s : State) (c : Completion) : State :=
  let k := c.cq
  let tail := cqTail s k
  let base := (rd64 s (R.hifCqBaseLo k) (R.hifCqBaseHi k)).toNat
  let s1 := bumpWrap (hostWrite s (base + 32 * tail) (completionBytes s c)) R.hifDescCnt
  let next := (tail + 1) % cqSize s k
  let s2 := wf s1 (R.hifCqStatus k) 15 0 next
  let s3 := if next = 0 then wr s2 (R.hifCqStatus k) (rd s2 (R.hifCqStatus k) ^^^ 0x80000000) else s2
  cqEvaluate (syncFull (setCq s3 k { cqOf s3 k with entries := (cqOf s3 k).entries ++ [(c.noirq, s.dt.now)] }) k) k

/-- Whether a completion for CQ `k` would have to be held: the ring is full, or others are held for it. -/
def cqBlocked (s : State) (k : Nat) : Bool := cqFull s k || s.hif.hold.any fun c => c.cq == k

/-- Whether a completion for CQ `k` can leave its producer (R450). -/
def cqRoom (s : State) (k : Nat) : Bool := !cqEn s k || !cqBlocked s k || decide (s.hif.hold.length < 512)

/-- CQ_STALL: the event bit, and its entry of the event ring (R450, R468). -/
def cqStall (s : State) (k : Nat) : State := postEvent (setBits s R.hifEvent 1) s.dt.now 0x0501 0x30 (leBytes 1 k)

/-- A completion leaves its producer: written, held, or, for a CQ that is not enabled, counted as discarded. -/
def postCompletion (s : State) (c : Completion) : State :=
  if !cqEn s c.cq then bump s R.hifDiscardCnt
  else if cqBlocked s c.cq then
    let first := !(s.hif.hold.any fun x => x.cq == c.cq)
    let s1 := syncOwner { s with hif := { s.hif with hold := s.hif.hold ++ [c] } } c
    if first then cqStall s1 c.cq else setBits s1 R.hifEvent 1
  else writeCompletion s c

/-- Completions held for CQ `k` written while it has room. -/
def releaseHeld : Nat → State → Nat → State
  | 0, s, _ => s
  | n + 1, s, k =>
    match s.hif.hold.find? (fun c => c.cq == k) with
    | none => s
    | some c =>
      if !cqEn s k then
        releaseHeld n (syncOwner (bump { s with hif := { s.hif with hold := s.hif.hold.erase c } } R.hifDiscardCnt) c) k
      else if cqFull s k then s
      else releaseHeld n (syncOwner (writeCompletion { s with hif := { s.hif with hold := s.hif.hold.erase c } } c) c) k

end Sys2Proof.Machine
end

