-- ==== Sys2Proof/Machine/Semaphores.lean ====
section
/-! DEFINITION. Counting semaphores: operations at the memory, host operations, polling, shadow slots (R76 to R93, R574). -/

namespace Sys2Proof.Machine

/-- A host operation naming SEM0 to SEM255 is ignored and flagged (R91, R574). -/
def hostSem (s : State) (i : Nat) (f : State → State) : State := if i < 256 then semErr s 2 i else f s

/-- SET: the hand-setting operation has two issuers, the host (requester 10) and the AOM (requester 12); it is not available to
engines (R78, R91). -/
def semSetBy (s : State) (req i : Nat) (v : Word) : State :=
  if req = 10 then hostSem s i fun s => semSetOp s 10 i v 0
  else if req = 12 then semSetOp s 12 i v 1
  else s

/-- An operation applied at the memory (R78). -/
def semApply (s : State) (q : SemReq) : State :=
  match q.kind with
  | .add => semAddOp s q.req.val q.idx.toNat q.n
  | .sub => semSubOp s q.req.val q.idx.toNat q.n
  | .wait => semWaitOp s q.req.val q.idx.toNat q.n
  | .waitsub => semWaitsubOp s q.req.val q.idx.toNat q.n
  | .set => semSetBy s q.req.val q.idx.toNat q.n

/-- How many places past the pointer of its bank a requester stands (R80). -/
def semTurn (s : State) (i req : Nat) : Nat := (req + 14 - tabGet 0 s.sem.rr (i % 4)) % 14

/-- An operation put among those presented to bank `i` mod 4 in the order the bank serves them. -/
def semInsert (s : State) (i : Nat) (q : SemReq) : List SemReq → List SemReq
  | [] => [q]
  | h :: t => if semTurn s i q.req.val < semTurn s i h.req.val then q :: h :: t else h :: semInsert s i q t

/-- The operations of one cycle at the bank of semaphore `i`, in round-robin order of requester (R80). -/
def semOrder (s : State) (i : Nat) (l : List SemReq) : List SemReq := l.foldr (semInsert s i) []

/-- The operation in hand, with its result kept among those of the cycle. -/
def semStep (s : State) (q : SemReq) : State :=
  let s1 := semApply { s with sem := { s.sem with result := none } } q
  { s1 with sem := { s1.sem with results := s1.sem.results ++ s1.sem.result.toList } }

/-- R80: the operations that contend for one bank in one cycle, served one after the other; `result` is left with that of the
first operand's own operation. -/
def semContend (s : State) (q : SemReq) (rivals : List SemReq) : State :=
  let i := q.idx.toNat
  let s1 := (semOrder s i (q :: rivals.filter fun x => x.idx.toNat % 4 == i % 4)).foldl semStep
    { s with sem := { s.sem with results := [] } }
  { s1 with sem := { s1.sem with result := (s1.sem.results.find? fun r => r.1 == q.req.val) } }

/-- An operation presented to its bank, alone or with rivals of the same cycle. -/
def semPresent (s : State) (q : SemReq) (rivals : List SemReq) : State :=
  if rivals.isEmpty then semApply s q else semContend s q rivals

/-- SEM_ADD (R78 to R80). -/
def execSemAdd (req : Fin 14) (idx : BitVec 12) (n : Word) (rivals : List SemReq) (s : State) : Out :=
  fabric s fun s => semPresent s ⟨req, .add, idx, n⟩ rivals

/-- SEM_SUB (R78 to R80). -/
def execSemSub (req : Fin 14) (idx : BitVec 12) (n : Word) (rivals : List SemReq) (s : State) : Out :=
  fabric s fun s => semPresent s ⟨req, .sub, idx, n⟩ rivals

/-- SEM_WAIT: one sample (R78). -/
def execSemWait (req : Fin 14) (idx : BitVec 12) (n : Word) (rivals : List SemReq) (s : State) : Out :=
  fabric s fun s => semPresent s ⟨req, .wait, idx, n⟩ rivals

/-- SEM_WAITSUB: one sample, subtracting on success (R78, R83). -/
def execSemWaitsub (req : Fin 14) (idx : BitVec 12) (n : Word) (rivals : List SemReq) (s : State) : Out :=
  fabric s fun s => semPresent s ⟨req, .waitsub, idx, n⟩ rivals

/-- SEM_SET: the hand-setting operation (R78, R91). -/
def execSemSet (req : Fin 14) (idx : BitVec 12) (v : Word) (rivals : List SemReq) (s : State) : Out :=
  fabric s fun s => semPresent s ⟨req, .set, idx, v⟩ rivals

/-- SEM_HOST_ADD: the value of SEM_HOST_N at that moment, as requester 10 (R90, R91). -/
def execSemHostAdd (idx : BitVec 12) (s : State) : Out :=
  fabric s fun s => hostSem s idx.toNat fun s => semAddOp s 10 idx.toNat (rd s R.semHostN)

/-- SEM_HOST_SUB. -/
def execSemHostSub (idx : BitVec 12) (s : State) : Out :=
  fabric s fun s => hostSem s idx.toNat fun s => semSubOp s 10 idx.toNat (rd s R.semHostN)

/-- SEM_HOST_SET (R88, R91). -/
def execSemHostSet (idx : BitVec 12) (s : State) : Out :=
  fabric s fun s => hostSem s idx.toNat fun s => semSetOp s 10 idx.toNat (rd s R.semHostN) 0

/-- SEM_WINDOW_WRITE: ignored, and flagged with the semaphore it would have changed (R89, R574). -/
def execSemWindowWrite (off : BitVec 12) (_v : Word) (s : State) : Out :=
  fabric s fun s => semErr s 3 off.toNat

/-- The requester number of a waiter's owner (R80). -/
def waiterReq : Waiting → Nat
  | .gate _ _ => 2
  | .descriptor _ => 10
  | .copyEngine _ => 5
  | .lse => 6
  | .prs => 8

/-- A wait ends with an outcome that its owner takes. -/
def endWait (s : State) (w : Waiter) (ok : Bool) : State :=
  { s with sem := { s.sem with
    waiters := s.sem.waiters.filter (fun x => x.id ≠ w.id)
    done := s.sem.done ++ [(w.owner, ok)] } }

/-- A waiter's next sample: succeeded, expired, or (none) still waiting. A failed sample alone is tested against the expiry,
with the DT the waiter sees, which lags the counter by 0 to 6 whole ns, the spec leaving which (R81, R82). -/
def pollWaiter (s : State) (w : Waiter) : State × Option Bool :=
  let ok := semTest s w.idx w.n
  let s1 := if w.sub then semWaitsubOp s (waiterReq w.owner) w.idx w.n
            else semWaitOp s (waiterReq w.owner) w.idx w.n
  if ok then (s1, some true)
  else
    let (lag, s2) := drawNat s1
    match w.expiry with
    | some e => if e ≤ s2.dt.now.toNat - lag % 7 then (s2, some false) else (s2, none)
    | none => (s2, none)

/-- A waiter's sample among the operations that contend for its bank in the same cycle (R80, R83): those before its turn are
served first, the others after it. -/
def pollAmong (s : State) (w : Waiter) (rivals : List SemReq) : State × Option Bool :=
  let mine := semTurn s w.idx (waiterReq w.owner)
  let l := semOrder s w.idx (rivals.filter fun x => x.idx.toNat % 4 == w.idx % 4)
  let (s1, r) := pollWaiter ((l.filter fun x => decide (semTurn s w.idx x.req.val < mine)).foldl semStep s) w
  ((l.filter fun x => decide (mine ≤ semTurn s w.idx x.req.val)).foldl semStep s1, r)

/-- A slot owes the first write of its mirroring (R93). -/
def startShadow (s : State) (ks : List Nat) : State :=
  { s with sem := { s.sem with shadowDue := addSlots s.sem.shadowDue ks } }

/-- SEM_SHADOW_CFG_WRITE: a slot starts mirroring in the three cases R93 lists. -/
def execSemShadowCfgWrite (reg : ShadowCfg) (v : Word) (s : State) : Out :=
  fabric s fun s =>
    match reg with
    | .slot k =>
      let old := rd s (R.semShadowCfg k.val)
      let new := v &&& 0x80000FFF
      let s1 := wr s (R.semShadowCfg k.val) new
      let starts := rb s R.semShadowCtrl 0 && bit new 31 &&
        (!bit old 31 || fld old 11 0 != fld new 11 0)
      if starts then startShadow s1 [k.val] else s1
    | .ctrl =>
      let s1 := wr s R.semShadowCtrl (v &&& 1)
      if bit v 0 && !rb s R.semShadowCtrl 0 then
        startShadow s1 ((List.range 64).filter (fun k => rb s (R.semShadowCfg k) 31))
      else s1

/-- SEM_SHADOW_WRITE: a due slot writes the present count to host memory; an address at or above 2^47 is flagged instead; no
write is made while the slot or the block is disabled (R87, R93, R574). -/
def execSemShadowWrite (k : Fin 64) (s : State) : Out :=
  fabric s fun s =>
    if !s.sem.shadowDue.contains k.val then s
    else
      let s1 := { s with sem := { s.sem with shadowDue := s.sem.shadowDue.filter (fun x => x ≠ k.val) } }
      let i := rf s (R.semShadowCfg k.val) 11 0
      let h := (rd64 s R.semShadowBaseLo R.semShadowBaseHi).toNat + 4 * k.val
      if !(rb s R.semShadowCtrl 0 && rb s (R.semShadowCfg k.val) 31) then s1
      else if 0x800000000000 ≤ h then semErr s1 5 i
      else hostWrite s1 h (leBytes 4 (semCount s i).toNat)

end Sys2Proof.Machine
end

