-- ==== Sys2Proof/Machine/Trig.lean ====
section
/-! DEFINITION. Square root, sine, cosine and arctangent in 2^−100, for the units whose results the spec states by formulas
(R144, R145, R197, R292). -/

namespace Sys2Proof.Machine

/-- 1 in 2^−100. -/
def fx1 : Int := 2 ^ 100

/-- Product. -/
def fxm (a b : Int) : Int := a * b / 2 ^ 100

/-- Σ (−h)^k (scale) with term k + 1 = −term × h / (d(k)): the series of cos and of sin x / x. -/
def altSeries (h : Int) (odd : Nat) : Nat → Nat → Int → Int
  | 0, _, _ => 0
  | n + 1, k, t => t + altSeries h odd n (k + 1) (-(fxm t h) / ((2 * k + 1 + odd) * (2 * k + 2 + odd)))

/-- cos x and sin x / x from x². -/
def fxCosSq (h : Int) : Int := altSeries h 0 60 0 fx1
def fxSincSq (h : Int) : Int := altSeries h 1 60 0 fx1

/-- Integer square root of a value below 2^512. -/
def isqrtBig (v : Nat) : Nat := isqrtGo 256 v 0

/-- π/2 in 2^−100. -/
def halfPi : Nat := 1991220906497848681844175556976

/-- atan of a small non-negative x in 2^−100 by its series. -/
def atanSeries (x : Int) : Nat → Nat → Int → Int
  | 0, _, _ => 0
  | n + 1, k, p => (if k % 2 = 0 then p else -p) / (2 * k + 1) + atanSeries x n (k + 1) (p * x / 2 ^ 100 * x / 2 ^ 100)

/-- atan by halving the angle: x ↦ x / (1 + √(1 + x²)). -/
def atanHalve : Nat → Nat → Int
  | 0, x => atanSeries x 24 0 x
  | n + 1, x => 2 * atanHalve n (x * 2 ^ 100 / (2 ^ 100 + isqrtBig (2 ^ 200 + x * x)))

/-- The angle of the direction (ρ, Z) from the optical axis in 2^−100 rad, both in the same unit, Z positive. -/
def atan2Pos (rho z : Nat) : Int :=
  if rho ≤ z then atanHalve 3 (rho * 2 ^ 100 / max 1 z) else halfPi - atanHalve 3 (z * 2 ^ 100 / rho)

/-- atan2 in (−π, π]. -/
def fxAtan2 (y x : Int) : Int :=
  let a := atan2Pos y.natAbs x.natAbs
  let b := if x < 0 then 2 * halfPi - a else a
  if y < 0 then -b else b

/-- cos and sin of the angle 2π w × 2^−32, in 2^−100. -/
def turnCosSin (w : Nat) : Int × Int :=
  let a : Int := 4 * halfPi * (w % 2 ^ 32) / 2 ^ 32
  let h := fxm a a
  (fxCosSq h, fxm (fxSincSq h) a)

end Sys2Proof.Machine
end

