-- ==== Sys2Proof/Machine/Vision.lean ====
section
/-! DEFINITION. The pyramid builder, the feature detect-and-describe engines and the track-and-match engines
(R150 to R181). -/

namespace Sys2Proof.Machine

/-- A grey image by coordinates, with its size. Coordinates outside it take the nearest pixel inside. -/
structure Img where
  w : Nat
  h : Nat
  px : Nat → Nat → Nat

/-- A pixel with its coordinates clamped into the image. -/
def Img.at (g : Img) (x y : Int) : Nat :=
  g.px (max 0 (min x (g.w - 1))).toNat (max 0 (min y (g.h - 1))).toNat

/-! ### The pyramid (R152 to R155) -/

/-- Width and height of level `l` (R153). -/
def levelW (s : State) (n l : Nat) : Nat := fsWidth s n / 2 ^ l
def levelH (s : State) (n l : Nat) : Nat := fsHeight s n / 2 ^ l

/-- Levels the builder builds for a slot, level 0 included: it stops before a width or height below 32 (R153). -/
def builtLevels (s : State) (e n : Nat) : Nat :=
  let want := max 1 (rf s (R.fddPyrCfg e n) 2 0)
  1 + (((List.range want).drop 1).takeWhile fun l => decide (32 ≤ levelW s n l ∧ 32 ≤ levelH s n l)).length

/-- Pitch of a reduced level (R155). -/
def levelPitch (s : State) (n l : Nat) : Nat := up64 (2 * levelW s n l)

/-- Offset of level `l` in a pyramid buffer, level 1 at 0 (R155). -/
def levelOfs (s : State) (n : Nat) : Nat → Nat
  | 0 => 0
  | 1 => 0
  | l + 1 => up64 (levelOfs s n l + levelH s n l * levelPitch s n l)

/-- Pyramid buffer `k` of slot `n` at engine `e` (R155). -/
def pyrBuf (s : State) (e n k : Nat) : Nat :=
  (rd64 s (R.fddPyrLo e n) (R.fddPyrHi e n)).toNat + k * rf s (R.fddPyrCfg e n) 31 8 * 0x10000

/-- What reading the first `used` levels of the frame in buffer `k` of slot `n` reads: record, image, pyramid. -/
def frameReads (s : State) (e n k used : Nat) : List (Nat × Nat) :=
  [(fsBuf s n k, 64), (fsBuf s n k + 0x1000, fsHeight s n * fsPitch s n), (pyrBuf s e n k, levelOfs s n used)]

/-- A level of the frame in ingress buffer `k` of slot `n`: level 0 converted from the buffer, others from the pyramid. -/
def levelImg (s : State) (e n k l : Nat) : Img :=
  let ypos := rf s (R.fddPyrCfg e n) 4 4
  if l = 0 then ⟨fsWidth s n, fsHeight s n, fun x y => pixel0 s n (fsBuf s n k) x y ypos⟩
  else ⟨levelW s n l, levelH s n l, fun x y =>
    ldN s (pyrBuf s e n k + levelOfs s n l + y * levelPitch s n l + 2 * x) 2⟩

/-- The binomial weights of R153. -/
def pyrTap (u : Int) : Int := if u = 0 then 6 else if u = 1 ∨ u = -1 then 4 else 1

/-- The offsets −r to r. -/
def offsets (r : Nat) : List Int := (List.range (2 * r + 1)).map fun k => (k : Int) - r

/-- Pixel (i, j) of the next level (R153). -/
def pyrPixel (g : Img) (i j : Nat) : Nat :=
  (rne (((offsets 2).map fun u => ((offsets 2).map fun v =>
    pyrTap u * pyrTap v * (g.at (2 * i + u) (2 * j + v) : Int)).sum).sum) 8).toNat

/-- Level `l` of buffer `k` computed from level `l − 1` and written. -/
def buildLevel (e n k : Nat) (s : State) (l : Nat) : State :=
  let g := levelImg s e n k (l - 1)
  (List.range (levelH s n l)).foldl (fun st y =>
    stBytes st (pyrBuf s e n k + levelOfs s n l + y * levelPitch s n l)
      ((List.range (levelW s n l)).map fun x => leBytes 2 (pyrPixel g x y)).flatten) s

/-- The engine whose builder a slot names, if any: Ethernet slots pass no lines (R152). -/
def pyrEngine (s : State) (n : Nat) : Option Nat :=
  if fsType s n = 0 then (match fsPyr s n with | 1 => some 0 | 2 => some 1 | _ => none) else none

/-- R155: whether the builder may run for a slot: every pyramid buffer in one range, STRIDE covering the levels. -/
def builderOk (s : State) (e n : Nat) : Bool :=
  let need := levelOfs s n (builtLevels s e n)
  decide (need ≤ rf s (R.fddPyrCfg e n) 31 8 * 0x10000) &&
    (List.range (fsNbuf s n)).all fun k => engineRange s (pyrBuf s e n k) need

/-- R155, R156, R169, at the enable of an ingress slot: both engines' pointers at buffer 0, the detect record cleared, the
builder's checks. -/
def builderEnable (s : State) (n : Nat) : State :=
  let s1 := wr (wr { s with vis := { s.vis with detects := tabSet [] s.vis.detects n [] } } (R.fddPyrPtr 0 n) 0) (R.fddPyrPtr 1 n) 0
  match pyrEngine s n with
  | none => s1
  | some e =>
    let s2 := { s1 with vis := { s1.vis with builder := tabSet false s1.vis.builder n (builderOk s e n) } }
    if builderOk s e n then s2
    else errInfo s2 (R.fddErr e) 3 (R.fddErrInfo e) (BitVec.ofNat 32 ((0x108 + 0x10 * n) * 0x10000 + n))

/-- R154: the pyramid of a frame written to buffer `k`, before its frame record. -/
def buildPyramid (s : State) (n k : Nat) : State :=
  match pyrEngine s n with
  | none => s
  | some e =>
    if tabGet false s.vis.builder n && rb s (R.fddCtrl e) 0 then
      ((List.range (builtLevels s e n)).drop 1).foldl (buildLevel e n k) s
    else s

/-! ### Running jobs -/

/-- The job running at a vision unit code. -/
def visJob (s : State) (u : Nat) : Option Job := tabGet none s.vis.running u

/-- The status register of a vision unit code: bit 0 is BUSY while a job runs. -/
def visStatusReg (u : Nat) : Nat :=
  match u with
  | 0x01 => R.fddStatus 0 | 0x02 => R.fddStatus 1 | 0x03 => R.tmeStatus 0 | 0x04 => R.tmeStatus 1
  | 0x05 => R.sdeStatus | _ => R.pjeStatus

/-- The running job replaced, with BUSY. -/
def setVisJob (s : State) (u : Nat) (j : Option Job) : State :=
  { wf s (visStatusReg u) 0 0 j.isSome.toNat with vis := { s.vis with running := tabSet none s.vis.running u j } }

/-- Where a vision job's output header stands. -/
def outHeader (j : Job) : Nat :=
  match j.unit with
  | 0x03 | 0x04 => if rec8 j.block 0 1 = 0x03 then rec8 j.block 32 8 else rec8 j.block 24 8
  | _ => rec8 j.block 24 8

/-- The status byte of the output header (R150). -/
def stampStatus (s : State) (j : Job) (st : Nat) : State :=
  if engineRange s (outHeader j) 64 then stN s (outHeader j + 13) 1 st else s

/-- The job's work ends with a status that its header carries; the completion report follows at VISION_JOB_END. -/
def visDone (s : State) (j : Job) (st : Nat) : State :=
  setVisJob (stampStatus s j st) j.unit (some { j with status := some st })

/-- A job reads its inputs: poisoned data, or a read or a store that GLIDE refuses, ends it with ERR_FAULT (R480, R507);
otherwise its work `f` goes on. -/
def visIo (s : State) (j : Job) (ins outs : List (Nat × Nat)) (f : State → State) : State :=
  jobIo s ins outs (fun s => visDone s j 0x26) f

/-- Registers of a vision unit by code: ERR, ERR_INFO. -/
def visErrReg (u : Nat) : Nat :=
  match u with
  | 0x01 => R.fddErr 0 | 0x02 => R.fddErr 1 | 0x03 => R.tmeErr 0 | 0x04 => R.tmeErr 1 | 0x05 => R.sdeErr | _ => R.pjeErr
def visInfoReg (u : Nat) : Nat :=
  match u with
  | 0x01 => R.fddErrInfo 0 | 0x02 => R.fddErrInfo 1 | 0x03 => R.tmeErrInfo 0 | 0x04 => R.tmeErrInfo 1
  | 0x05 => R.sdeErrInfo | _ => R.pjeErrInfo

/-- R150: a failed check ends the job with ERR_DESCRIPTOR and sets the engine's JOB error, with the block byte and the field
that the information register adds. -/
def visRefuse (s : State) (j : Job) (byte low : Nat) : State :=
  visDone (errInfo s (visErrReg j.unit) 0 (visInfoReg j.unit) (BitVec.ofNat 32 (byte * 0x10000 + low))) j 0x23

/-- Whether an opcode byte is one of the unit's. -/
def visOpcode (u o : Nat) : Bool := o == 1 || ((u == 3 || u == 4) && (o == 2 || o == 3))

/-- The work of the job running at unit `u`, when it has opcode `op` and has not been done yet. A block whose opcode is none
of the unit's is refused. -/
def visWork (u op : Nat) (f : State → Job → State) (s : State) : Out :=
  fabric s fun s =>
    match visJob s u with
    | some j =>
      let o := rec8 j.block 0 1
      if j.status.isSome || abortAsked s j.owner then s
      else if o = op then issued j.owner s (f s j)
      else if visOpcode u o then s
      else visRefuse s j 0 (if u = 3 ∨ u = 4 then o else if u = 5 then rec8 j.block 1 1 % 4 else rec8 j.block 1 1 % 16)
    | none => s

/-! ### DETECT (R157 to R166) -/

/-- q of R158: 12-bit value of a pixel. -/
def q12 (g : Img) (x y : Int) : Int := (g.at x y / 16 : Nat)

/-- The Sobel gradients of R158. -/
def sobelX (g : Img) (x y : Int) : Int :=
  q12 g (x + 1) (y - 1) + 2 * q12 g (x + 1) y + q12 g (x + 1) (y + 1) -
  q12 g (x - 1) (y - 1) - 2 * q12 g (x - 1) y - q12 g (x - 1) (y + 1)
def sobelY (g : Img) (x y : Int) : Int :=
  q12 g (x - 1) (y + 1) + 2 * q12 g x (y + 1) + q12 g (x + 1) (y + 1) -
  q12 g (x - 1) (y - 1) - 2 * q12 g x (y - 1) - q12 g (x + 1) (y - 1)

/-- Σ over the square of radius `r` around (x, y). -/
def boxSum (r : Nat) (x y : Int) (f : Int → Int → Int) : Int :=
  ((offsets r).map fun v => ((offsets r).map fun u => f (x + u) (y + v)).sum).sum

/-- The gradients at a coordinate clamped into the level: a window position outside takes the nearest pixel inside. -/
def gradAt (g : Img) (f : Img → Int → Int → Int) (x y : Int) : Int :=
  f g (max 0 (min x (g.w - 1))) (max 0 (min y (g.h - 1)))

/-- The Harris response of R158. -/
def harris (g : Img) (win mshift k : Nat) (x y : Int) : Int :=
  let ix := gradAt g sobelX
  let iy := gradAt g sobelY
  let a := satS 24 (rne (boxSum win x y fun u v => ix u v * ix u v) mshift)
  let b := satS 24 (rne (boxSum win x y fun u v => ix u v * iy u v) mshift)
  let c := satS 24 (rne (boxSum win x y fun u v => iy u v * iy u v) mshift)
  let t := a * c - b * b - rne (k * ((a + c) * (a + c))) 16
  satS 32 (rne t 16)

/-- A candidate: level, integer position, response, sub-pixel offsets in 2^−8 and flat flags. -/
structure Cand where
  level : Nat
  x : Nat
  y : Nat
  resp : Int
  dx : Int
  dy : Int
  flags : Nat
deriving DecidableEq, Repr

/-- A level-0 coordinate in UQ16.16 (R160). -/
def candX (c : Cand) : Int := (c.x * 256 + c.dx) * 256 * 2 ^ c.level
def candY (c : Cand) : Int := (c.y * 256 + c.dy) * 256 * 2 ^ c.level

/-- R159: whether (x, y) with response `r0` beats the square around it. -/
def isPeak (f : Int → Int → Int) (r : Nat) (x y : Int) : Bool :=
  let r0 := f x y
  (offsets r).all fun v => (offsets r).all fun u =>
    if v < 0 ∨ (v = 0 ∧ u < 0) then decide (f (x + u) (y + v) < r0)
    else if u = 0 ∧ v = 0 then true
    else decide (f (x + u) (y + v) ≤ r0)

/-- R160: the sub-pixel offset from three responses in units of 2^−8, with whether the peak is flat. -/
def subPix (l m r : Int) : Int × Bool :=
  let den := l - 2 * m + r
  if den < 0 then (max (-128) (min 128 (divRne (-(l - r) * 256) (2 * den.natAbs))), false) else (0, true)

/-- The candidates of one row of a level. -/
def rowCands (g : Img) (b : List Byte) (l y : Nat) : List Cand :=
  let win := rec8 b 3 1 % 4 + 1
  let f := harris g win (rec8 b 10 1) (rec8 b 8 2)
  let edge := rec8 b 14 1
  let thr := recS b 4 4
  let yi : Int := y
  ((List.range g.w).filter fun (x : Nat) =>
      decide (edge ≤ x ∧ x + edge < g.w ∧ edge ≤ y ∧ y + edge < g.h) && decide (thr ≤ f (x : Int) yi) &&
      isPeak f (rec8 b 11 1) (x : Int) yi).map fun (x : Nat) =>
    let xi : Int := x
    let px := subPix (f (xi - 1) yi) (f xi yi) (f (xi + 1) yi)
    let py := subPix (f xi (yi - 1)) (f xi yi) (f xi (yi + 1))
    Cand.mk l x y (f xi yi) px.1 py.1 (px.2.toNat + 2 * py.2.toNat)

/-- Insert a row's candidates by the time the engine produces them, later rows of equal time behind. -/
def insertTimed (t : Nat) (c : List Cand) : List (Nat × List Cand) → List (Nat × List Cand)
  | [] => [(t, c)]
  | (t', c') :: r => if t < t' then (t, c) :: (t', c') :: r else (t', c') :: insertTimed t c r

/-- All candidates in the order in which the engine produces them. -/
def allCands (imgs : List Img) (b : List Byte) : List Cand :=
  let rows := (imgs.zipIdx.map fun p => (List.range p.1.h).map fun y => (p.2, p.1, y)).flatten
  let w := (imgs.map Img.w).headD 0
  let h := (imgs.map Img.h).headD 0
  ((rows.foldl (fun acc r => insertTimed (Config.candTime w h r.1 r.2.2) (rowCands r.2.1 b r.1 r.2.2) acc) []).map
    Prod.snd).flatten

/-- The selection store of R161: a slot for each entry with its order of entry, and the counts. -/
structure Store where
  slots : List (Cand × Nat)
  seq : Nat
  cellRej : Nat
  capRej : Nat
deriving DecidableEq, Repr

/-- The cell of a candidate (R161). -/
def cellOf (cl : Nat) (c : Cand) : Int × Int := (candX c / 2 ^ (16 + cl), candY c / 2 ^ (16 + cl))

/-- The slot of the weakest entry among those `p` selects: lowest response, among equals the last entered. -/
def weakest (l : List (Cand × Nat)) (p : Cand → Bool) : Option (Nat × Cand × Nat) :=
  (l.zipIdx.filter fun e => p e.1.1).foldl (fun best e =>
    match best with
    | none => some (e.2, e.1.1, e.1.2)
    | some (i, c, q) =>
      if e.1.1.resp < c.resp ∨ (e.1.1.resp = c.resp ∧ q < e.1.2) then some (e.2, e.1.1, e.1.2) else some (i, c, q)) none

/-- One candidate enters the store (R161). -/
def storeStep (cl perCell maxf : Nat) (st : Store) (c : Cand) : Store :=
  let same := fun d => cellOf cl d == cellOf cl c
  let inCell := (st.slots.filter fun e => same e.1).length
  let take := fun (w : Option (Nat × Cand × Nat)) =>
    match w with
    | some (i, d, _) => if d.resp < c.resp then st.slots.set i (c, st.seq) else st.slots
    | none => st.slots
  if 0 < perCell ∧ perCell ≤ inCell then
    { st with slots := take (weakest st.slots same), seq := st.seq + 1, cellRej := st.cellRej + 1 }
  else if maxf ≤ st.slots.length then
    { st with slots := take (weakest st.slots fun _ => true), seq := st.seq + 1, capRej := st.capRej + 1 }
  else { st with slots := st.slots ++ [(c, st.seq)], seq := st.seq + 1 }

/-- tan of 5.625° + k × 11.25° in 2^−128, the boundaries between orientation indices of a quadrant (R162). -/
def octTan : List Nat :=
  [33514887855740716759829855827835503022, 103223527495523512709624842743617618042,
   181884714486934903449606142474060114911, 279262521424990302656317848470107286072,
   414635263788584896338732477214484049454, 636623531361310426814668901924467900151,
   1121760630030181274581459352287953012876, 3454944851247125256656013094120285567645]

/-- Index within a quadrant of the direction (a, b), both non-negative. -/
def quadIdx (a b : Nat) : Nat := (octTan.filter fun t => decide (a * t < b * 2 ^ 128)).length

/-- atan2(m01, m10) as an index of 1/32 turn (R162). -/
def orientIdx (m10 m01 : Int) : Nat :=
  if m10 = 0 ∧ m01 = 0 then 0
  else if 0 < m10 ∧ 0 ≤ m01 then quadIdx m10.natAbs m01.natAbs % 32
  else if m10 ≤ 0 ∧ 0 < m01 then (8 + quadIdx m01.natAbs m10.natAbs) % 32
  else if m10 < 0 ∧ m01 ≤ 0 then (16 + quadIdx m10.natAbs m01.natAbs) % 32
  else (24 + quadIdx m01.natAbs m10.natAbs) % 32

/-- cos(o/32 turn) in Q2.14 (R163). -/
def cos14 (o : Nat) : Int :=
  let q : List Int := [16384, 16069, 15137, 13623, 11585, 9102, 6270, 3196, 0]
  let m := o % 32
  if m ≤ 8 then q.getD m 0
  else if m ≤ 16 then -(q.getD (16 - m) 0)
  else if m ≤ 24 then -(q.getD (m - 16) 0)
  else q.getD (32 - m) 0

/-- sin(o/32 turn) in Q2.14. -/
def sin14 (o : Nat) : Int := cos14 (o + 24)

/-- The offsets of the orientation disc (R162). -/
def disc15 : List (Int × Int) :=
  ((offsets 15).map fun v => ((offsets 15).filter fun u => decide (u * u + v * v ≤ 225)).map fun u => (u, v)).flatten

/-- The orientation of a feature (R162). -/
def orientation (g : Img) (x y : Int) : Nat :=
  orientIdx ((disc15.map fun p => p.1 * (g.at (x + p.1) (y + p.2) : Int)).sum)
    ((disc15.map fun p => p.2 * (g.at (x + p.1) (y + p.2) : Int)).sum)

/-- A pair-table point rotated by o/32 turn (R163). -/
def rotPoint (o : Nat) (u v : Int) : Int × Int :=
  (rne (u * cos14 o - v * sin14 o) 14, rne (u * sin14 o + v * cos14 o) 14)

/-- A signed 5-bit field of a pair-table entry. -/
def pairField (w : Word) (lo : Nat) : Int := sext 5 (fld w (lo + 4) lo)

/-- Descriptor bit `i` (R163). -/
def descBit (s : State) (e : Nat) (g : Img) (o : Nat) (x y : Int) (i : Nat) : Bool :=
  let w := rd s (R.fddPair e i)
  let p1 := rotPoint o (pairField w 24) (pairField w 16)
  let p2 := rotPoint o (pairField w 8) (pairField w 0)
  let sm := fun (p : Int × Int) => boxSum 2 (x + p.1) (y + p.2) fun u v => (g.at u v : Int)
  decide (sm p1 < sm p2)

/-- The 32 descriptor bytes: bit i in byte i / 8 at position i mod 8 (R163). -/
def descriptor (s : State) (e : Nat) (g : Img) (o : Nat) (x y : Int) : List Byte :=
  (List.range 32).map fun k => BitVec.ofNat 8
    (((List.range 8).map fun j => (descBit s e g o x y (8 * k + j)).toNat * 2 ^ j).sum)

/-- The feature record of a selected candidate (R164). -/
def featureRec (s : State) (e : Nat) (imgs : List Img) (orient : Bool) (c : Cand) : List Byte :=
  let g := imgs.getD c.level ⟨0, 0, fun _ _ => 0⟩
  let o := if orient then orientation g c.x c.y else 0
  leBytesI 4 (candX c) ++ leBytesI 4 (candY c) ++ leBytesI 4 c.resp ++ leBytes 1 c.level ++ leBytes 1 (8 * o) ++
    leBytes 2 c.flags ++ descriptor s e g o c.x c.y

/-- floor(8 log2 r) as the floor of log2 of r^8 (R165). -/
def log8 (r : Int) : Nat := if r < 1 then 0 else min 255 (Nat.log2 (r.toNat ^ 8))

/-- One word of the confidence map (R165). -/
def mapWord (cs : List Cand) (cx cy : Nat) : Nat :=
  let l := cs.filter fun c => decide (candX c / 2 ^ 20 = cx ∧ candY c / 2 ^ 20 = cy)
  min 255 l.length * 256 + log8 (l.foldl (fun m c => max m c.resp) 0)

/-- The checks of a DETECT block in byte order (R157). -/
def detectChecks (s : State) (e : Nat) (b : List Byte) : List (Nat × Bool) :=
  let n := rec8 b 1 1
  let maxf := rec8 b 12 2
  let mapOn := rec8 b 3 1 / 8 % 2 = 1
  let mapLen := ceilDiv (fsWidth s n) 16 * ceilDiv (fsHeight s n) 16 * 2
  [(1, decide (n < 16) && fsEn s n && decide (pyrEngine s n = some e) && tabGet false s.vis.builder n),
   (2, decide (1 ≤ rec8 b 2 1 ∧ rec8 b 2 1 ≤ 6)),
   (3, decide (rec8 b 3 1 < 16 ∧ rec8 b 3 1 % 4 < 3)),
   (10, decide (rec8 b 10 1 ≤ 15)),
   (11, decide (1 ≤ rec8 b 11 1 ∧ rec8 b 11 1 ≤ 7)),
   (12, decide (1 ≤ maxf ∧ maxf ≤ 8192)),
   (14, decide (18 ≤ rec8 b 14 1 ∧ rec8 b 14 1 ≤ 63)),
   (15, decide (5 ≤ rec8 b 15 1 ∧ rec8 b 15 1 ≤ 8)),
   (16, decide (rec8 b 16 1 ≤ 63)),
   (17, zeros b 17 7),
   (24, engineRange s (rec8 b 24 8) (64 + 48 * maxf)),
   (32, !mapOn || engineRange s (rec8 b 32 8) mapLen),
   (40, zeros b 40 24)]

/-- The frame record of a buffer, as bytes. -/
def frameRecord (s : State) (n k : Nat) : List Byte := ldBytes s (fsBuf s n k) 64

/-- The work of a DETECT job (R157 to R165) on the buffer its start latched. -/
def detectJob (e : Nat) (s : State) (j : Job) : State :=
  let b := j.block
  match firstBad (detectChecks s e b) with
  | some byte => visRefuse s j byte (rec8 b 1 1 % 16)
  | none =>
    let n := rec8 b 1 1
    let k := j.latch.headD 0
    let used := min (rec8 b 2 1) (builtLevels s e n)
    let rec0 := frameRecord s n k
    let out := rec8 b 24 8
    let mapOn := rec8 b 3 1 / 8 % 2 = 1
    let mapLen := ceilDiv (fsWidth s n) 16 * ceilDiv (fsHeight s n) 16 * 2
    visIo s j ((j.addr, 64) :: frameReads s e n k used)
        ((out, 64 + 48 * rec8 b 12 2) :: (if mapOn then [(rec8 b 32 8, mapLen)] else [])) fun s =>
      let imgs := (List.range used).map fun l => levelImg s e n k l
      let cs := allCands imgs b
      let maxf := rec8 b 12 2
      let st := cs.foldl (storeStep (rec8 b 15 1) (rec8 b 16 1) maxf) ⟨[], 0, 0, 0⟩
      let fl := (if used < rec8 b 2 1 then 1 else 0) + (if 0 < st.capRej then 2 else 0) +
        (if (rec8 rec0 38 2 / 8) % 4 ≠ 0 then 4 else 0)
      let hdr := slice rec0 16 8 ++ slice rec0 32 4 ++ leBytes 1 n ++ leBytes 1 0 ++ leBytes 1 used ++ leBytes 1 fl ++
        leBytes 4 st.slots.length ++ leBytes 4 cs.length ++ leBytes 4 st.cellRej ++ leBytes 4 st.capRej ++
        leBytes 2 (fsWidth s n) ++ leBytes 2 (fsHeight s n) ++ leBytes 28 0
      let recs := (st.slots.map fun c => featureRec s e imgs (rec8 b 3 1 / 4 % 2 == 1) c.1).flatten
      let s1 := stBytes s out (hdr ++ recs)
      let s2 := if mapOn then
          stBytes s1 (rec8 b 32 8) ((List.range (ceilDiv (fsHeight s n) 16)).map fun cy =>
            ((List.range (ceilDiv (fsWidth s n) 16)).map fun cx => leBytes 2 (mapWord cs cx cy)).flatten).flatten
        else s1
      visDone (bumpN (bumpN s2 (R.fddFeatures e) st.slots.length) (R.fddCand e) cs.length) j 0

/-- DETECT: the FDD engine's running DETECT job does its work. -/
def execDetect (e : Fin 2) (s : State) : Out := visWork (1 + e.val) 1 (detectJob e.val) s

/-- R156: whether a DETECT job may use its slot, so that its start advances the slot's pointer. -/
def detectSlotOk (s : State) (e n : Nat) : Bool := decide (n < 16) && fsEn s n && decide (pyrEngine s n = some e)

/-- The start of an FDD job: it latches the buffer of the pointer and advances it modulo NBUF (R156). -/
def fddStart (s : State) (e : Nat) (j : Job) : State × Job :=
  let n := rec8 j.block 1 1
  if rec8 j.block 0 1 = 1 ∧ detectSlotOk s e n = true then
    let k := rf s (R.fddPyrPtr e n) 3 0
    (wf s (R.fddPyrPtr e n) 3 0 ((k + 1) % max 1 (fsNbuf s n)), { j with latch := [k] })
  else (s, { j with latch := [] })

/-- The end of an FDD job: the buffer of the last completed job, and the detect record when its status is below 0x20
(R156, R169). -/
def fddEnd (s : State) (e : Nat) (j : Job) (st : Nat) : State :=
  let n := rec8 j.block 1 1
  match j.latch with
  | [] => s
  | k :: _ =>
    let s1 := wf (wf s (R.fddPyrPtr e n) 19 16 k) (R.fddPyrPtr e n) 15 15 1
    if st < 0x20 then
      let cnt := rec8 (frameRecord s n k) 32 4
      { s1 with vis := { s1.vis with
        detects := tabSet [] s1.vis.detects n (((k, cnt) :: tabGet [] s1.vis.detects n).take 8) } }
    else s1

/-! ### Track tables (R167, R168) -/

/-- A track record: ID, position, age, status, level. -/
structure Track where
  id : Nat
  x : Int
  y : Int
  age : Nat
  st : Nat
  level : Nat
  desc : List Byte
deriving DecidableEq, Repr

/-- Bytes of a table of `n` slots. -/
def tableBytes (n : Nat) : Nat := 64 + 48 * n

/-- Slot `i` of the table of `n` slots at `a`. -/
def loadTrack (s : State) (a n i : Nat) : Track :=
  let r := a + 64 + 16 * i
  ⟨ldN s r 4, ldN s (r + 4) 4, ldN s (r + 8) 4, ldN s (r + 12) 2, ldN s (r + 14) 1, ldN s (r + 15) 1,
   ldBytes s (a + 64 + 16 * n + 32 * i) 32⟩

/-- All slots of the table at `a`. -/
def loadTracks (s : State) (a : Nat) : List Track :=
  let n := ldN s (a + 16) 4
  (List.range n).map (loadTrack s a n)

/-- A table's record bytes. -/
def trackBytes (t : Track) : List Byte :=
  leBytes 4 t.id ++ leBytesI 4 t.x ++ leBytesI 4 t.y ++ leBytes 2 t.age ++ leBytes 1 t.st ++ leBytes 1 t.level

/-- A whole table: header fields, then records, then descriptors (R167). -/
def tableImage (time : List Byte) (count slot flags nextId missed : Nat) (ts : List Track) : List Byte :=
  time ++ leBytes 4 count ++ leBytes 1 slot ++ leBytes 1 0 ++ leBytes 2 flags ++ leBytes 4 ts.length ++
    leBytes 4 (ts.filter fun t => t.st == 1 || t.st == 2).length ++ leBytes 4 nextId ++ leBytes 4 missed ++ leBytes 32 0 ++
    (ts.map trackBytes).flatten ++ (ts.map fun t => padTo 32 t.desc).flatten

/-- A live track (TRACKED or NEW). -/
def isLive (t : Track) : Bool := t.st == 1 || t.st == 2

/-- A lost track. -/
def isLost (t : Track) : Bool := decide (0x10 ≤ t.st)

/-- The empty slot. -/
def freeTrack : Track := ⟨0, 0, 0, 0, 0, 0, []⟩

/-- R168: the ID after one is taken: 0xFFFF_FFFF is skipped. -/
def nextTrackId (n : Nat) : Nat := if 0xFFFFFFFE ≤ n then 0 else n + 1

/-! ### TRACK (R169 to R172) -/

/-- A bilinear sample in UQ12.8 at a position in 2^−8, from 12-bit pixels; none when a neighbour lies outside (R170). -/
def bilin (g : Img) (x8 y8 : Int) : Option Int :=
  let x0 := x8 / 256
  let y0 := y8 / 256
  let fx := x8 % 256
  let fy := y8 % 256
  if 0 ≤ x0 ∧ x0 + 1 ≤ (g.w : Int) - 1 ∧ 0 ≤ y0 ∧ y0 + 1 ≤ (g.h : Int) - 1 then
    some (rne ((256 - fx) * (256 - fy) * q12 g x0 y0 + fx * (256 - fy) * q12 g (x0 + 1) y0 +
      (256 - fx) * fy * q12 g x0 (y0 + 1) + fx * fy * q12 g (x0 + 1) (y0 + 1)) 8)
  else none

/-- A list of optional samples, none if any is missing. -/
def allSome {α : Type} : List (Option α) → Option (List α)
  | [] => some []
  | none :: _ => none
  | some a :: t => (allSome t).map (a :: ·)

/-- The samples of the square of radius `r` around a position, in raster order. -/
def patch (g : Img) (r : Nat) (x8 y8 : Int) : Option (List Int) :=
  allSome (((offsets r).map fun v => (offsets r).map fun u => bilin g (x8 + 256 * u) (y8 + 256 * v)).flatten)

/-- Outcome of following one track: status code (1 for success), displacement in 2^−16 px of level 0, iterations, levels
completed, λ at level 0 in UQ16.16, Σ|e| over the level-0 window. -/
structure Follow where
  st : Nat
  dx : Int
  dy : Int
  iters : Nat
  levels : Nat
  lam : Nat
  res : Option Nat
deriving DecidableEq, Repr

/-- λ of R170 in UQ16.16: the smaller eigenvalue (S − √D) / 2 of G / w², G in doubled gradients of 2^−8, to the nearest value of
the exact number, a tie to the even one. -/
def eigMin (a b c : Int) (w : Nat) : Nat :=
  let s := a + c
  let d := (a - c) * (a - c) + 4 * b * b
  let m : Int := 8 * w * w
  let r : Int := isqrtGo 140 d.toNat 0
  let q := (s - (if r * r = d then r else r + 1)) / m
  let half := 2 * s - (2 * q + 1) * m
  if 0 ≤ half ∧ (4 * d < half * half ∨ half * half = 4 * d ∧ q % 2 = 1) then (q + 1).toNat else q.toNat

/-- One level's iterations: `n` left. Positions are level-l positions of the template centre; `d` is in 2^−16 px. Returns the
status (0 while running on), the displacement, the iterations run and whether it converged. -/
def levelIter (cur : Img) (t gx gy : List Int) (a b c : Int) (w : Nat) (px : Int → Int) (py : Int → Int) (eps : Nat) :
    Nat → Int → Int → Nat → Nat × Int × Int × Nat × Bool
  | 0, dx, dy, k => (0, dx, dy, k, false)
  | n + 1, dx, dy, k =>
    match patch cur (w / 2) (px dx) (py dy) with
    | none => (0x10, dx, dy, k, false)
    | some p =>
      let e := (p.zip t).map fun q => q.1 - q.2
      let sx := ((e.zip gx).map fun q => q.1 * q.2).sum
      let sy := ((e.zip gy).map fun q => q.1 * q.2).sum
      let det := a * c - b * b
      let stx := if det = 0 then Config.singularStep sx sy else divRne (2 * (c * sx - b * sy) * 2 ^ 16) det.toNat
      let sty := if det = 0 then Config.singularStep sy sx else divRne (2 * (a * sy - b * sx) * 2 ^ 16) det.toNat
      let dx' := dx - stx
      let dy' := dy - sty
      match patch cur (w / 2) (px dx') (py dy') with
      | none => (0x10, dx', dy', k + 1, false)
      | some _ =>
        if stx.natAbs < eps ∧ sty.natAbs < eps then (0, dx', dy', k + 1, true)
        else levelIter cur t gx gy a b c w px py eps n dx' dy' (k + 1)

/-- Follow a track through levels `l` down to 0 (R170). -/
def followLevels (prev cur : Nat → Img) (w iter eps eig : Nat) (x y : Int) : Nat → Int → Int → Nat → Nat → Follow
  | l, dx, dy, it, lv =>
    let r := w / 2
    let x8 := rne x (8 + l)
    let y8 := rne y (8 + l)
    match patch (prev l) (r + 1) x8 y8, patch (prev l) r x8 y8 with
    | some _, some t =>
      let grad := fun (du dv : Int) => (((offsets r).map fun v => (offsets r).map fun u =>
        (bilin (prev l) (x8 + 256 * (u + du)) (y8 + 256 * (v + dv))).getD 0 -
        (bilin (prev l) (x8 + 256 * (u - du)) (y8 + 256 * (v - dv))).getD 0).flatten)
      let gx := grad 1 0
      let gy := grad 0 1
      let a := (gx.map fun q => q * q).sum
      let b := ((gx.zip gy).map fun q => q.1 * q.2).sum
      let c := (gy.map fun q => q * q).sum
      let lam := eigMin a b c w
      if lam < eig then ⟨0x11, dx, dy, it, lv, if l = 0 then lam else 0, none⟩
      else
        let px := fun (d : Int) => rne (x + d * 2 ^ l) (8 + l)
        let py := fun (d : Int) => rne (y + d * 2 ^ l) (8 + l)
        match levelIter (cur l) t gx gy a b c w px py eps iter dx dy 0 with
        | (st, dx', dy', k, conv) =>
          if st ≠ 0 then ⟨st, dx', dy', it + k, lv, if l = 0 then lam else 0, none⟩
          else
            match l with
            | 0 =>
              if !conv then ⟨0x12, dx', dy', it + k, lv + 1, lam, none⟩
              else
                let e := match patch (cur 0) r (px dx') (py dy') with
                  | some p => ((p.zip t).map fun q => (q.1 - q.2).natAbs).sum
                  | none => 0
                ⟨1, dx', dy', it + k, lv + 1, lam, some e⟩
            | l' + 1 => followLevels prev cur w iter eps eig x y l' (2 * dx') (2 * dy') (it + k) (lv + 1)
    | _, _ => ⟨0x10, dx, dy, it, lv, 0, none⟩

/-- One live track followed and tested (R170, R171), with its cost record (R172). -/
def trackOne (prev cur : Nat → Img) (b : List Byte) (used : Nat) (pred : Option (Int × Int)) (t : Track) :
    Track × List Byte :=
  let w := rec8 b 3 1
  let iter := rec8 b 4 1
  let eps := rec8 b 6 2
  let eig := rec8 b 12 4
  let top := used - 1
  let d0 := match pred with
    | some (x, y) => (rne (x - t.x) top, rne (y - t.y) top)
    | none => (0, 0)
  let f := followLevels prev cur w iter eps eig t.x t.y top d0.1 d0.2 0 0
  let resid : Option Nat := f.res.map fun e => (divRne e (16 * w * w)).toNat
  let qx := t.x + f.dx
  let qy := t.y + f.dy
  let bad : Bool := match resid with | some r => decide (rec8 b 8 2 < r) | none => false
  let fbOn := rec8 b 5 1 % 2 == 1
  let back := followLevels cur prev w iter eps eig qx qy top (rne (t.x - qx) top) (rne (t.y - qy) top) 0 0
  let ddx := qx + back.dx - t.x
  let ddy := qy + back.dy - t.y
  let fbDist := isqrt ((ddx * ddx + ddy * ddy).toNat / 2 ^ 16)
  let fbFar : Bool := decide ((rec8 b 10 2 * 256) ^ 2 < (ddx * ddx + ddy * ddy).toNat)
  let st := if f.st ≠ 1 then f.st else if bad then 0x13
    else if fbOn && (decide (back.st ≠ 1) || fbFar) then 0x14 else 1
  let t' := if st = 1 then { t with x := qx, y := qy, st := 1, age := min 65535 (t.age + 1) } else { t with st := st }
  let fbRun := fbOn && decide (f.st = 1) && !bad
  let cost := leBytes 2 (match resid with | some r => min r 0xFFFF | none => 0xFFFF) ++ leBytes 1 f.iters ++
    leBytes 1 f.levels ++ leBytes 2 (if fbRun then min fbDist 0xFFFF else 0xFFFF) ++
    leBytes 2 (min 0xFFFF (f.lam / 256))
  (t', cost)

/-- The cost record of a slot that is not followed: all ones for a FREE slot. -/
def noCost (t : Track) : List Byte :=
  if t.st = 0 then List.replicate 8 0xFF
  else leBytes 2 0xFFFF ++ leBytes 2 0 ++ leBytes 2 0xFFFF ++ leBytes 2 0

/-- Whether an output range meets none of a list of ranges (R167, R177: DEDUCED, log entry 12). -/
def apart (o : Nat × Nat) (l : List (Nat × Nat)) : Bool := l.all fun r => !overlaps o.1 o.2 r.1 r.2

/-- The engine at which an FDD job has completed on a slot since its enable (R156, R169). -/
def trackEngine (s : State) (n : Nat) : Option Nat :=
  if rb s (R.fddPyrPtr 0 n) 15 then some 0 else if rb s (R.fddPyrPtr 1 n) 15 then some 1 else none

/-- The checks of a TRACK block; inputs may lie in any valid range, outputs where engines may write (R157, R177). -/
def trackChecks (s : State) (b : List Byte) : List (Nat × Bool) :=
  let n := rec8 b 1 1
  let i := rec8 b 16 8
  let o := rec8 b 24 8
  let sl := ldN s (i + 16) 4
  let pred := if rec8 b 5 1 / 2 % 2 = 1 then [(rec8 b 40 8, 8 * sl)] else []
  let inp := (i, tableBytes sl) :: pred
  [(1, decide (n < 16) && (trackEngine s n).isSome),
   (2, decide (1 ≤ rec8 b 2 1 ∧ rec8 b 2 1 ≤ 6)),
   (3, decide (7 ≤ rec8 b 3 1 ∧ rec8 b 3 1 ≤ 21 ∧ rec8 b 3 1 % 2 = 1)),
   (4, decide (1 ≤ rec8 b 4 1 ∧ rec8 b 4 1 ≤ 15)),
   (5, decide (rec8 b 5 1 < 4)),
   (16, rangeOk s i 64 && decide (1 ≤ sl ∧ sl ≤ 16384) && rangeOk s i (tableBytes sl)),
   (24, engineRange s o (tableBytes sl) && apart (o, tableBytes sl) inp),
   (32, engineRange s (rec8 b 32 8) (8 * sl) && apart (rec8 b 32 8, 8 * sl) ((o, tableBytes sl) :: inp)),
   (40, pred.all fun r => rangeOk s r.1 r.2),
   (48, zeros b 48 16)]

/-- The entry of a detect record of least frame count above `c` (R169). -/
def currentEntry (l : List (Nat × Nat)) (c : Nat) : Option (Nat × Nat) :=
  (l.filter fun e => decide (c < e.2)).foldl (fun best e =>
    match best with
    | none => some e
    | some b => if e.2 < b.2 then some e else some b) none

/-- The work of a TRACK job (R169 to R172). -/
def trackJob (e : Nat) (s : State) (j : Job) : State :=
  let b := j.block
  match firstBad (trackChecks s b) with
  | some byte => visRefuse s j byte (rec8 b 0 1)
  | none =>
    let n := rec8 b 1 1
    let inp := rec8 b 16 8
    let fe := (trackEngine s n).getD 0
    let recs := tabGet [] s.vis.detects n
    let c0 := ldN s (inp + 8) 4
    let tab := loadTracks s inp
    let used := min (rec8 b 2 1) (builtLevels s fe n)
    let len := tableBytes tab.length
    let cur := currentEntry recs c0
    let prevK := (recs.find? fun r => r.2 == c0).map Prod.fst
    let frames := ([cur.map Prod.fst, if cur.isSome then prevK else none].filterMap id).map fun k => frameReads s fe n k used
    let pred := if rec8 b 5 1 / 2 % 2 = 1 then [(rec8 b 40 8, 8 * tab.length)] else []
    visIo s j ([(j.addr, 64), (inp, len)] ++ pred ++ frames.flatten) [(rec8 b 24 8, len), (rec8 b 32 8, 8 * tab.length)] fun s =>
    match cur with
    | none => visDone s j 0x25
    | some (kc, cc) =>
      let rec1 := frameRecord s n kc
      let returned := rec8 rec1 38 2 / 256 % 2 == 1
      let follow := prevK.isSome && !returned
      let cur := fun l => levelImg s fe n kc l
      let prv := fun l => levelImg s fe n (prevK.getD 0) l
      let one := fun (p : Track × Nat) =>
        let t := p.1
        if isLost t then (freeTrack, noCost freeTrack)
        else if !isLive t then (t, noCost t)
        else if !follow then ({ t with st := 0x15 }, noCost t)
        else
          let pa := rec8 b 40 8 + 8 * p.2
          let pred := if rec8 b 5 1 / 2 % 2 = 1 ∧ ldN s pa 4 ≠ 0xFFFFFFFF then some ((ldN s pa 4 : Int), (ldN s (pa + 4) 4 : Int))
            else none
          trackOne prv cur b used pred t
      let out := tab.zipIdx.map one
      let ts := out.map Prod.fst
      let gap := follow && decide (c0 + 1 < cc)
      let fl := gap.toNat + 2 * returned.toNat + 8 * (!prevK.isSome).toNat
      let s1 := stBytes s (rec8 b 24 8)
        (tableImage (slice rec1 16 8) cc n fl (ldN s (inp + 24) 4) (if gap then cc - c0 - 1 else 0) ts)
      let s2 := stBytes s1 (rec8 b 32 8) (out.map Prod.snd).flatten
      let s3 := bumpN s2 (R.tmeTracked e) (ts.filter fun t => t.st == 1).length
      visDone (bumpN s3 (R.tmeLost e) (ts.filter isLost).length) j 0

/-- TRACK: the TME engine's running TRACK job does its work. -/
def execTrack (e : Fin 2) (s : State) : Out := visWork (3 + e.val) 1 (trackJob e.val) s

/-! ### SEED (R173) -/

/-- A feature of a list: index, position, response, level, descriptor. -/
structure Feat where
  x : Int
  y : Int
  resp : Int
  level : Nat
  desc : List Byte
deriving DecidableEq, Repr

/-- The features of the list at `a` (R164). -/
def loadFeats (s : State) (a : Nat) : List Feat :=
  (List.range (ldN s (a + 16) 4)).map fun i =>
    let r := a + 64 + 48 * i
    ⟨ldN s r 4, ldN s (r + 4) 4, ldS s (r + 8) 4, ldN s (r + 12) 1, ldBytes s (r + 16) 32⟩

/-- Chebyshev distance of two positions. -/
def cheby (x1 y1 x2 y2 : Int) : Nat := max (x1 - x2).natAbs (y1 - y2).natAbs

/-- Hamming distance of two descriptors. -/
def hamming (a b : List Byte) : Nat := ((a.zip b).map fun p => popcount 8 (p.1 ^^^ p.2).toNat).sum

/-- The nearest unused feature within `d` of a position, ties to the lower index. -/
def nearestFeat (fs : List Feat) (used : List Bool) (d : Nat) (x y : Int) : Option Nat :=
  (fs.zipIdx.filter fun p => !used.getD p.2 false && decide (cheby p.1.x p.1.y x y ≤ d * 65536)).foldl
    (fun best p =>
      match best with
      | none => some p.2
      | some i =>
        let f := fs.getD i ⟨0, 0, 0, 0, []⟩
        if cheby p.1.x p.1.y x y < cheby f.x f.y x y then some p.2 else some i) none

/-- Step 2 of SEED: descriptors refreshed in slot order. -/
def seedRefresh (fs : List Feat) (d dmax : Nat) : List Track → List Bool → List Track × List Bool
  | [], used => ([], used)
  | t :: ts, used =>
    let r := if isLive t then nearestFeat fs used d t.x t.y else none
    let (t', used') := match r with
      | some i =>
        let f := fs.getD i ⟨0, 0, 0, 0, []⟩
        if hamming f.desc t.desc ≤ dmax then ({ t with desc := f.desc }, used.set i true) else (t, used)
      | none => (t, used)
    let (ts', u) := seedRefresh fs d dmax ts used'
    (t' :: ts', u)

/-- Insert a feature index by descending response, ties by lower index. -/
def insResp (fs : List Feat) (i : Nat) : List Nat → List Nat
  | [] => [i]
  | k :: t =>
    if (fs.getD k ⟨0, 0, 0, 0, []⟩).resp < (fs.getD i ⟨0, 0, 0, 0, []⟩).resp then i :: k :: t else k :: insResp fs i t

/-- Steps 4 and 5: the remaining features in turn become NEW tracks in the lowest FREE slot. Returns the table, the next ID,
the number seeded and whether a feature found no slot. -/
def seedNew (d : Nat) : List Feat → List Track → Nat → List Track × Nat × Nat × Bool
  | [], ts, nid => (ts, nid, 0, false)
  | f :: fs, ts, nid =>
    if ts.any fun t => isLive t && decide (cheby f.x f.y t.x t.y ≤ d * 65536) then seedNew d fs ts nid
    else
      match ts.findIdx? (fun t => t.st == 0) with
      | none => (ts, nid, 0, true)
      | some i =>
        let (ts', n', k, full) := seedNew d fs (ts.set i ⟨nid, f.x, f.y, 0, 2, f.level, f.desc⟩) (nextTrackId nid)
        (ts', n', k + 1, full)

/-- The checks of a SEED block. -/
def seedChecks (s : State) (b : List Byte) : List (Nat × Bool) :=
  let nt := rec8 b 1 1 % 2 == 1
  let fl := rec8 b 8 8
  let i := rec8 b 16 8
  let o := rec8 b 24 8
  let sl := if nt then rec8 b 32 4 else ldN s (i + 16) 4
  [(1, decide (rec8 b 1 1 < 2)), (2, decide (1 ≤ rec8 b 2 2 ∧ rec8 b 2 2 ≤ 255)), (4, decide (rec8 b 4 2 ≤ 256)),
   (6, zeros b 6 2),
   (8, rangeOk s fl 64 && rangeOk s fl (64 + 48 * ldN s (fl + 16) 4)),
   (16, nt || (rangeOk s i 64 && decide (1 ≤ sl ∧ sl ≤ 16384) && rangeOk s i (tableBytes sl))),
   (24, engineRange s o (tableBytes sl) &&
      apart (o, tableBytes sl) ((fl, 64 + 48 * ldN s (fl + 16) 4) :: (if nt then [] else [(i, tableBytes sl)]))),
   (32, !nt || decide (1 ≤ sl ∧ sl ≤ 16384)), (36, zeros b 36 28)]

/-- The work of a SEED job (R173): of the input's header it keeps what the rule does not replace: GAP, RETURNED, NOPREV and the
frames missed. -/
def seedJob (e : Nat) (s : State) (j : Job) : State :=
  let b := j.block
  match firstBad (seedChecks s b) with
  | some byte => visRefuse s j byte (rec8 b 0 1)
  | none =>
    let nt := rec8 b 1 1 % 2 == 1
    let fl := rec8 b 8 8
    let inp := rec8 b 16 8
    let d := rec8 b 2 2
    let fs := loadFeats s fl
    let tab0 := if nt then List.replicate (rec8 b 32 4) freeTrack else loadTracks s inp
    let nid := if nt then 0 else ldN s (inp + 24) 4
    let slot := if nt then ldN s (fl + 12) 1 else ldN s (inp + 12) 1
    let len := tableBytes tab0.length
    visIo s j ([(j.addr, 64), (fl, 64 + 48 * fs.length)] ++ (if nt then [] else [(inp, len)])) [(rec8 b 24 8, len)] fun s =>
    let tab1 := tab0.map fun t => if isLost t then freeTrack else t
    let (tab2, used) := seedRefresh fs d (rec8 b 4 2) tab1 (List.replicate fs.length false)
    let rest := ((List.range fs.length).filter fun i => !used.getD i false).foldl (fun acc i => insResp fs i acc) []
    let (tab3, nid', k, full) := seedNew d (rest.map fun i => fs.getD i ⟨0, 0, 0, 0, []⟩) tab2 nid
    let flags := (if nt then 0 else ldN s (inp + 14) 2 % 16) / 8 * 8 + 4 * full.toNat + (if nt then 0 else ldN s (inp + 14) 2 % 4)
    let s1 := stBytes s (rec8 b 24 8)
      (tableImage (ldBytes s fl 8) (ldN s (fl + 8) 4) slot flags nid' (if nt then 0 else ldN s (inp + 28) 4) tab3)
    visDone (bumpN s1 (R.tmeSeeded e) k) j 0

/-- SEED: the TME engine's running SEED job does its work. -/
def execSeed (e : Fin 2) (s : State) : Out := visWork (3 + e.val) 2 (seedJob e.val) s

/-! ### MATCH (R174 to R176) -/

/-- An entry of a match set: index, position, level, descriptor. -/
structure MEntry where
  idx : Nat
  x : Int
  y : Int
  level : Nat
  desc : List Byte
deriving DecidableEq, Repr

/-- The entries a source selects (R174). -/
def matchSet (s : State) (src a : Nat) : List MEntry :=
  if src = 0 then (loadFeats s a).zipIdx.map fun p => ⟨p.2, p.1.x, p.1.y, p.1.level, p.1.desc⟩
  else ((loadTracks s a).zipIdx.filter fun p => if src = 1 then isLost p.1 else isLive p.1).map fun p =>
    ⟨p.2, p.1.x, p.1.y, p.1.level, p.1.desc⟩

/-- The candidates of a query, cut to CANDMAX, with whether they were cut (R174). -/
def matchCands (b : List Byte) (bs : List MEntry) (q : MEntry) : List MEntry × Bool :=
  let all := if rec8 b 1 1 % 2 = 1 then bs
    else bs.filter fun c => decide (cheby c.x c.y q.x q.y ≤ rec8 b 4 2 * 65536) &&
      decide (max c.level q.level - min c.level q.level ≤ rec8 b 6 1)
  (all.take (rec8 b 12 2), decide (rec8 b 12 2 < all.length))

/-- The best and second-best distances of a query: (best entry, d1, d2), ties to the lower index. -/
def bestTwo (q : MEntry) : List MEntry → Option (MEntry × Nat × Option Nat)
  | [] => none
  | c :: t =>
    let d := hamming q.desc c.desc
    match bestTwo q t with
    | none => some (c, d, none)
    | some (b, d1, d2) =>
      if d ≤ d1 then some (c, d, some (match d2 with | some x => min x d1 | none => d1))
      else some (b, d1, some (match d2 with | some x => min x d | none => d))

/-- Whether the query's best candidate has this query as its own best among the queries (R175). -/
def mutualOk (b : List Byte) (qs : List MEntry) (q c : MEntry) : Bool :=
  match bestTwo c (matchCands b qs c).1 with
  | some (r, _, _) => r.idx == q.idx
  | none => false

/-- The match record of a query (R175, R176) and whether it is accepted. -/
def matchOne (b : List Byte) (qs bs : List MEntry) (q : MEntry) : List Byte × Bool :=
  let (cs, trunc) := matchCands b bs q
  let tr := 16 * trunc.toNat
  match bestTwo q cs with
  | none => (leBytes 4 q.idx ++ leBytes 4 0xFFFFFFFF ++ leBytes 2 0xFFFF ++ leBytes 2 0xFFFF ++ leBytes 2 0 ++
      leBytes 2 (32 + 2 + tr), false)
  | some (c, d1, d2) =>
    let far := decide (rec8 b 10 2 < d1)
    let amb := match d2 with | some d => !decide (d1 * 256 < rec8 b 8 2 * d) | none => false
    let notMut := rec8 b 1 1 / 2 % 2 == 1 && !mutualOk b qs q c
    let fl := if far then 8 else if amb then 4 else if notMut then 64 else 1
    (leBytes 4 q.idx ++ leBytes 4 c.idx ++ leBytes 2 d1 ++ leBytes 2 (d2.getD 0xFFFF) ++ leBytes 2 cs.length ++
      leBytes 2 (fl + 2 * d2.isNone.toNat + tr), !(far || amb || notMut))

/-- The bytes of the structure a match source reads. -/
def sourceLen (s : State) (src a : Nat) : Nat :=
  if src = 0 then 64 + 48 * ldN s (a + 16) 4 else tableBytes (ldN s (a + 16) 4)

/-- The two sources of a MATCH block. -/
def matchReads (s : State) (b : List Byte) : List (Nat × Nat) :=
  [(rec8 b 16 8, sourceLen s (rec8 b 2 1) (rec8 b 16 8)), (rec8 b 24 8, sourceLen s (rec8 b 3 1) (rec8 b 24 8))]

/-- The checks of a MATCH block. -/
def matchChecks (s : State) (b : List Byte) : List (Nat × Bool) :=
  let na := (matchSet s (rec8 b 2 1) (rec8 b 16 8)).length
  let nb := (matchSet s (rec8 b 3 1) (rec8 b 24 8)).length
  [(1, decide (rec8 b 1 1 < 4)), (2, decide (rec8 b 2 1 ≤ 2)), (3, decide (rec8 b 3 1 ≤ 2)),
   (4, decide (1 ≤ rec8 b 4 2 ∧ rec8 b 4 2 ≤ 1023)), (6, decide (rec8 b 6 1 ≤ 5)), (7, zeros b 7 1),
   (8, decide (1 ≤ rec8 b 8 2 ∧ rec8 b 8 2 ≤ 256)), (10, decide (rec8 b 10 2 ≤ 256)),
   (12, decide (64 ≤ rec8 b 12 2 ∧ rec8 b 12 2 ≤ 1024)), (14, zeros b 14 2),
   (16, rangeOk s (rec8 b 16 8) (sourceLen s (rec8 b 2 1) (rec8 b 16 8)) && decide (na ≤ 16384)),
   (24, rangeOk s (rec8 b 24 8) (sourceLen s (rec8 b 3 1) (rec8 b 24 8)) && decide (nb ≤ 16384)),
   (32, engineRange s (rec8 b 32 8) (64 + 16 * na) && apart (rec8 b 32 8, 64 + 16 * na) (matchReads s b)), (40, zeros b 40 24)]

/-- The work of a MATCH job (R174 to R176). -/
def matchJob (e : Nat) (s : State) (j : Job) : State :=
  let b := j.block
  match firstBad (matchChecks s b) with
  | some byte => visRefuse s j byte (rec8 b 0 1)
  | none =>
    let qs := matchSet s (rec8 b 2 1) (rec8 b 16 8)
    visIo s j ((j.addr, 64) :: matchReads s b) [(rec8 b 32 8, 64 + 16 * qs.length)] fun s =>
    let bs := matchSet s (rec8 b 3 1) (rec8 b 24 8)
    let out := qs.map (matchOne b qs bs)
    let acc := (out.filter Prod.snd).length
    let s1 := stBytes s (rec8 b 32 8)
      (leBytes 4 qs.length ++ leBytes 4 acc ++ leBytes 56 0 ++ (out.map Prod.fst).flatten)
    visDone (bumpN s1 (R.tmeMatched e) acc) j 0

/-- MATCH: the TME engine's running MATCH job does its work. -/
def execMatchSets (e : Fin 2) (s : State) : Out := visWork (3 + e.val) 3 (matchJob e.val) s

/-- Whether both points of a pair-table entry lie in the disc (R163). -/
def pairInDisc (v : Word) : Bool :=
  let d := fun (u w : Int) => decide (u * u + w * w ≤ 225)
  d (pairField v 24) (pairField v 16) && d (pairField v 8) (pairField v 0)

/-- FDD_PAIR_WRITE: ignored with BUSY while a job runs, with TABLE when a point lies outside the disc (R163, R179). -/
def execFddPairWrite (e : Fin 2) (i : BitVec 8) (v : Word) (s : State) : Out :=
  fabric s fun s =>
    let info := BitVec.ofNat 32 ((0x1000 + 4 * i.toNat) * 0x10000)
    if (visJob s (1 + e.val)).isSome then errInfo s (R.fddErr e.val) 1 (R.fddErrInfo e.val) info
    else if !pairInDisc v then errInfo s (R.fddErr e.val) 2 (R.fddErrInfo e.val) info
    else wr s (R.fddPair e.val i.toNat) (v &&& 0x1F1F1F1F)

end Sys2Proof.Machine
end

