-- ==== Sys2Proof/Machine/Stereo.lean ====
section
/-! DEFINITION. The stereo depth engine, the projection engine, their calibration tables, and the completion of a vision job
(R150, R182 to R209). -/

namespace Sys2Proof.Machine

/-! ### Working images (R185, R186) -/

/-- A working image as rows of pixels; none marks an invalid pixel. -/
abbrev WImg := List (List (Option Int))

/-- A list's element, or a default past its end. -/
def rowAt {α : Type} (l : List (List α)) (y : Nat) : List α := l.getD y []

/-- The number of grid entries of a pair table's line (R201). -/
def gridW (rw gs : Nat) : Nat := ceilDiv rw (2 ^ gs) + 1

/-- A coordinate of the grid entry (a, b): `c` is 0 for X and 4 for Y. -/
def gridVal (s : State) (base rw gs c a b : Nat) : Int := ldS s (base + 8 * (b * gridW rw gs + a) + c) 4

/-- The source position of working pixel (x, y) in 2^−8 px of level 0 (R186). -/
def rectPos (s : State) (base rw gs c x y : Nat) : Int :=
  let g : Nat := 2 ^ gs
  let a := x / g
  let b := y / g
  let fx : Int := (x % g : Nat)
  let fy : Int := (y % g : Nat)
  rne ((g - fx) * (g - fy) * gridVal s base rw gs c a b + fx * (g - fy) * gridVal s base rw gs c (a + 1) b +
    (g - fx) * fy * gridVal s base rw gs c a (b + 1) + fx * fy * gridVal s base rw gs c (a + 1) (b + 1)) (2 * gs)

/-- A 12-bit bilinear sample at a position in 2^−n px, rounded to an integer; none when a neighbour lies outside (R186). -/
def rectSample (g : Img) (n : Nat) (px py : Int) : Option Int :=
  let one : Int := 2 ^ n
  let x0 := px / one
  let y0 := py / one
  let fx := px % one
  let fy := py % one
  if 0 ≤ x0 ∧ x0 + 1 ≤ (g.w : Int) - 1 ∧ 0 ≤ y0 ∧ y0 + 1 ≤ (g.h : Int) - 1 then
    some (rne ((one - fx) * (one - fy) * q12 g x0 y0 + fx * (one - fy) * q12 g (x0 + 1) y0 +
      (one - fx) * fy * q12 g x0 (y0 + 1) + fx * fy * q12 g (x0 + 1) (y0 + 1)) (2 * n))
  else none

/-- The rectified image of a camera from its grid (R186). -/
def rectImage (s : State) (g : Img) (base rw rh gs level : Nat) : WImg :=
  (List.range rh).map fun y => (List.range rw).map fun x =>
    rectSample g (8 + level) (rectPos s base rw gs 0 x y) (rectPos s base rw gs 4 x y)

/-- A pyramid level as it stands (R185). -/
def plainImage (g : Img) : WImg :=
  (List.range g.h).map fun y => (List.range g.w).map fun x => some (g.px x y : Int)

/-! ### Census codes (R187) -/

/-- The nearest valid pixel of a row to position `x`, among equals the side that `left` says. -/
def nearestValid (row : List (Option Int)) (left : Bool) (x : Nat) : Option Int :=
  (row.zipIdx.foldl (fun (best : Option (Nat × Int)) e =>
    match e.1 with
    | none => best
    | some v =>
      let d := max e.2 x - min e.2 x
      match best with
      | none => some (d, v)
      | some (db, _) => if d < db ∨ (d = db ∧ left = false) then some (d, v) else best) none).map Prod.snd

/-- A neighbour of a census window: coordinates clamped into the image, an invalid pixel replaced (R187). -/
def censusPix (img : WImg) (rw rh : Nat) (centre : Int) (x y : Int) : Int :=
  let cx := (max 0 (min x ((rw : Int) - 1))).toNat
  let cy := (max 0 (min y ((rh : Int) - 1))).toNat
  match (rowAt img cy).getD cx none with
  | some v => v
  | none => (nearestValid (rowAt img cy) (Config.censusLeft cx cy) cx).getD centre

/-- The offsets of the 9 × 7 window without its centre, in raster order. -/
def censusOffsets : List (Int × Int) :=
  (((offsets 3).map fun v => (offsets 4).map fun u => (u, v)).flatten).filter fun p => p != (0, 0)

/-- The census code of a valid pixel; none for an invalid one. -/
def census (img : WImg) (rw rh x y : Nat) : Option Nat :=
  ((rowAt img y).getD x none).map fun c =>
    censusOffsets.foldl (fun acc p => 2 * acc + (decide (censusPix img rw rh c (x + p.1) (y + p.2) < c)).toNat) 0

/-! ### Costs and paths (R187, R188) -/

/-- The costs of the disparities `dmin` to `dmin + nd − 1` at a left pixel; a cost that is not defined is 63 on the path. -/
def pixelCosts (left : Option Nat) (right : List (Option Nat)) (x dmin nd : Nat) : List Nat :=
  (List.range nd).map fun i =>
    match left with
    | none => 63
    | some c =>
      if x < dmin + i then 63
      else match right.getD (x - (dmin + i)) none with
        | some r => popcount 62 (Nat.xor c r)
        | none => 63

/-- The least of a list of costs. -/
def minList (l : List Nat) : Nat := l.foldl min (l.headD 0)

/-- One path step of R188 from the costs of the previous pixel, whose grey value differs by `di`. -/
def pathStep (p1 p2 p2shift : Nat) (c prev : List Nat) (di : Nat) : List Nat :=
  let m := minList prev
  let p2e := max (p1 + 1) (p2 - di / 2 ^ p2shift)
  let n := prev.length
  c.zipIdx.map fun e =>
    let i := e.2
    let a := prev.getD i 0
    let b := if 0 < i then min a (prev.getD (i - 1) 0 + p1) else a
    let d := if i + 1 < n then min b (prev.getD (i + 1) 0 + p1) else b
    e.1 + min d (m + p2e) - m

/-- What a row leaves for the next: the grey values, and the path costs from the top, the top left and the top right. -/
structure PathRow where
  grey : List Int
  down : List (List Nat)
  diagR : List (List Nat)
  diagL : List (List Nat)
deriving DecidableEq, Repr

/-- The path costs at `x` from neighbour `k` of the previous row, or the pixel's own costs where the path begins. -/
def fromPrev (p1 p2 sh : Nat) (prev : Option PathRow) (sel : PathRow → List (List Nat)) (rw : Nat) (c : List Nat) (g : Int)
    (k : Int) : List Nat :=
  match prev with
  | none => c
  | some r =>
    if 0 ≤ k ∧ k < rw then pathStep p1 p2 sh c ((sel r).getD k.toNat []) (g - r.grey.getD k.toNat 0).natAbs else c

/-- The left-to-right path of a row. -/
def rowPath (p1 p2 sh : Nat) : Option (List Nat × Int) → List (List Nat × Int) → List (List Nat)
  | _, [] => []
  | prev, (c, g) :: t =>
    let l := match prev with
      | none => c
      | some (q, h) => pathStep p1 p2 sh c q (g - h).natAbs
    l :: rowPath p1 p2 sh (some (l, g)) t

/-- Element-wise sum of path costs. -/
def addCosts (a b : List Nat) : List Nat := List.zipWith (· + ·) a b

/-- The totals of all rows (R188). -/
def aggregate (p1 p2 sh rw : Nat) : Option PathRow → List (List (List Nat × Int)) → List (List (List Nat))
  | _, [] => []
  | prev, row :: t =>
    let a := rowPath p1 p2 sh none row
    let b := row.zipIdx.map fun e => fromPrev p1 p2 sh prev PathRow.down rw e.1.1 e.1.2 e.2
    let c := row.zipIdx.map fun e => fromPrev p1 p2 sh prev PathRow.diagR rw e.1.1 e.1.2 ((e.2 : Int) - 1)
    let d := row.zipIdx.map fun e => fromPrev p1 p2 sh prev PathRow.diagL rw e.1.1 e.1.2 ((e.2 : Int) + 1)
    let tot := List.zipWith addCosts (List.zipWith addCosts a b) (List.zipWith addCosts c d)
    tot :: aggregate p1 p2 sh rw (some ⟨row.map Prod.snd, b, c, d⟩) t

/-! ### Disparity codes and confidence (R189, R190) -/

/-- The index of the least value, ties to the lower index. -/
def argMin (l : List (Nat × Nat)) : Option (Nat × Nat) :=
  l.foldl (fun best e =>
    match best with
    | none => some e
    | some b => if e.2 < b.2 then some e else some b) none

/-- The disparity code and the confidence of the pixel at `x` from the totals of its row (R189, R190). -/
def disparity (dmin nd flat lrtol rw : Nat) (valid : Bool) (row : List (List Nat)) (x : Nat) : Nat × Nat :=
  let sp := row.getD x []
  let cands := ((List.range nd).filter fun i => decide (dmin + i ≤ x)).map fun i => (i, sp.getD i 0)
  if !valid || decide (cands.length < 3) then (0xFFFD, 0)
  else
    match argMin cands with
    | none => (0xFFFD, 0)
    | some (i, m) =>
      let mean := (cands.map Prod.snd).sum / cands.length
      if mean < m + flat then (0xFFFF, 0)
      else if i + 1 = cands.length ∨ (i = 0 ∧ 0 < dmin) then (0xFFFD, 0)
      else
        let xr := x - (dmin + i)
        let r := argMin (((List.range nd).filter fun k => decide (xr + (dmin + k) < rw)).map fun k =>
          (k, (row.getD (xr + (dmin + k)) []).getD k 0))
        let dr := match r with | some (k, _) => k | none => i
        if lrtol < max i dr - min i dr then (0xFFFE, 0)
        else
          let lo : Int := sp.getD (i - 1) 0
          let hi : Int := sp.getD (i + 1) 0
          let delta : Int := if dmin + i = 0 then 0 else divRne (8 * (lo - hi)) (lo - 2 * m + hi).toNat
          let far := (cands.filter fun e => decide (e.1 + 2 ≤ i ∨ i + 2 ≤ e.1)).map Prod.snd
          let conf := match far with
            | [] => 0
            | _ => 256 * (minList far - m) / (minList far + 1)
          ((16 * (dmin + i : Nat) + delta).toNat, conf)

/-! ### DEPTH (R183 to R191) -/

/-- The slots of a pair (R124). -/
def pairLeft (s : State) (p : Nat) : Nat := rf s (R.ingPairCfg p) 3 0
def pairRight (s : State) (p : Nat) : Nat := rf s (R.ingPairCfg p) 19 16

/-- The FDD engine whose pyramid a stereo job reads; a slot without one is read at level 0 only. -/
def slotEngine (s : State) (n : Nat) : Nat := (pyrEngine s n).getD 0

/-- Whether the builder of a slot builds level 1 (R185). -/
def buildsTwo (s : State) (n : Nat) : Bool :=
  (pyrEngine s n).isSome && tabGet false s.vis.builder n && decide (2 ≤ builtLevels s (slotEngine s n) n)

/-- The size of the working image (R185): `tab` is the table the job latched. -/
def workSize (s : State) (b : List Byte) (tab : Nat) : Nat × Nat :=
  if rec8 b 2 1 / 2 % 2 = 1 then (ldN s (tab + 4) 2, ldN s (tab + 6) 2)
  else (levelW s (pairLeft s (rec8 b 1 1)) (rec8 b 2 1 % 2), levelH s (pairLeft s (rec8 b 1 1)) (rec8 b 2 1 % 2))

/-- The checks of a DEPTH block (R185). The job latched: the pair latch, the table address, its version, ACTIVE. -/
def depthChecks (s : State) (j : Job) : List (Nat × Bool) :=
  let b := j.block
  let p := rec8 b 1 1
  let (rw, rh) := workSize s b (j.latch.getD 1 0)
  let level := rec8 b 2 1 % 2
  let rect := rec8 b 2 1 / 2 % 2 = 1
  [(1, decide (p < 4) && rb s (R.ingPairCfg p) 31),
   (2, decide (rec8 b 2 1 < 4) && (!decide rect || j.latch.getD 3 0 == 1) &&
      (level == 0 || (buildsTwo s (pairLeft s p) && buildsTwo s (pairRight s p)))),
   (3, decide (rec8 b 3 1 ≤ 15)),
   (4, decide (rec8 b 4 2 ≤ 4080)),
   (6, decide (16 ≤ rec8 b 6 2 ∧ rec8 b 6 2 ≤ 256 ∧ rec8 b 6 2 % 16 = 0) && decide (rec8 b 4 2 + rec8 b 6 2 ≤ 4096) &&
      decide (rw * rec8 b 6 2 ≤ 524288)),
   (8, decide (1 ≤ rec8 b 8 1)),
   (9, decide (rec8 b 9 1 ≤ 15)),
   (10, decide (rec8 b 8 1 + 1 ≤ rec8 b 10 2 ∧ rec8 b 10 2 ≤ 1023)),
   (14, zeros b 14 10),
   (24, engineRange s (rec8 b 24 8) (64 + rh * up64 (2 * rw))),
   (32, engineRange s (rec8 b 32 8) (rh * up64 rw)),
   (40, zeros b 40 24)]

/-- The working image of one camera: slot `n`, buffer `k`, its grid at `grid`. -/
def workImage (s : State) (b : List Byte) (n k grid rw rh gs : Nat) : WImg :=
  let level := rec8 b 2 1 % 2
  let g := levelImg s (slotEngine s n) n k level
  if rec8 b 2 1 / 2 % 2 = 1 then rectImage s g grid rw rh gs level else plainImage g

/-- The disparity codes and confidences of a job, row by row. -/
def depthMap (b : List Byte) (rw rh : Nat) (left right : WImg) : List (List (Nat × Nat)) :=
  let dmin := rec8 b 4 2
  let nd := rec8 b 6 2
  let rows := (List.range rh).map fun y =>
    let rc := (List.range rw).map fun x => census right rw rh x y
    (List.range rw).map fun x =>
      (pixelCosts (census left rw rh x y) rc x dmin nd,
       ((rowAt left y).getD x none).getD (Config.invalidPixel x y % 4096 : Nat))
  let tot := aggregate (rec8 b 8 1) (rec8 b 10 2) (rec8 b 9 1) rw none rows
  tot.zipIdx.map fun r => (List.range rw).map fun x =>
    disparity dmin nd (rec8 b 12 2) (rec8 b 3 1) rw ((rowAt left r.2).getD x none).isSome r.1 x

/-- The work of a DEPTH job (R184 to R191). -/
def depthJob (s : State) (j : Job) : State :=
  let b := j.block
  let p := rec8 b 1 1
  match firstBad (depthChecks s j) with
  | some byte => visRefuse s j byte (p % 4)
  | none =>
    let lw := BitVec.ofNat 32 (j.latch.headD 0)
    if !(bit lw 31 && bit lw 30) then visDone s j 0x25
    else
    let tab := j.latch.getD 1 0
    let rect := decide (rec8 b 2 1 / 2 % 2 = 1)
    let (rw, rh) := workSize s b tab
    let gs := ldN s (tab + 8) 1
    let nl := pairLeft s p
    let nr := pairRight s p
    let kl := fld lw 3 0
    let kr := fld lw 19 16
    let glen := 8 * gridW rw gs * gridW rh gs
    let used := rec8 b 2 1 % 2 + 1
    visIo s j ((j.addr, 64) :: (if rect then [(tab, 64 + 2 * glen)] else []) ++ frameReads s (slotEngine s nl) nl kl used ++
        frameReads s (slotEngine s nr) nr kr used)
      [(rec8 b 24 8, 64 + rh * up64 (2 * rw)), (rec8 b 32 8, rh * up64 rw)] fun s =>
    let m := depthMap b rw rh (workImage s b nl kl (tab + 64) rw rh gs) (workImage s b nr kr (tab + 64 + glen) rw rh gs)
    let all := m.flatten.map Prod.fst
    let cnt := fun (c : Nat) => (all.filter fun d => d == c).length
    let nv := (all.filter fun d => decide (d < 0xFFFD)).length
    let rl := frameRecord s nl kl
    let rr := frameRecord s nr kr
    let flagged := decide (rec8 rl 38 2 / 8 % 4 ≠ 0) || decide (rec8 rr 38 2 / 8 % 4 ≠ 0)
    let hdr := slice rl 16 8 ++ slice rl 32 4 ++ leBytes 1 p ++ leBytes 1 0 ++
      leBytes 2 (rect.toNat + 2 * flagged.toNat) ++ leBytes 4 (if rect then j.latch.getD 2 0 else 0) ++ leBytes 2 rw ++
      leBytes 2 rh ++ leBytes 4 nv ++ leBytes 4 (cnt 0xFFFF) ++ leBytes 4 (cnt 0xFFFE) ++ leBytes 4 (cnt 0xFFFD) ++
      slice rr 16 8 ++ slice rr 32 4 ++ leBytes 12 0
    let s1 := stBytes s (rec8 b 24 8) hdr
    let s2 := m.zipIdx.foldl (fun st r =>
      stBytes (stBytes st (rec8 b 24 8 + 64 + r.2 * up64 (2 * rw)) ((r.1.map fun d => leBytes 2 d.1).flatten))
        (rec8 b 32 8 + r.2 * up64 rw) (r.1.map fun d => BitVec.ofNat 8 d.2)) s1
    let s3 := bumpN (bumpN s2 R.sdeValid nv) R.sdeNotex (cnt 0xFFFF)
    visDone (bumpN (bumpN s3 R.sdeOccl (cnt 0xFFFE)) R.sdeRange (cnt 0xFFFD)) j 0

/-- DEPTH: the SDE's running job does its work. -/
def execDepth (s : State) : Out := visWork 5 1 depthJob s

/-! ### Calibration entries (R201 to R205) -/

/-- Offset of a calibration entry's first register, the bit of its event register, its event and error registers, and the
low field of the information register. -/
def calBase (u : CalUnit) : Nat :=
  match u with
  | .sde p => R.sdeCalCtrl p.val
  | .pje n => R.pjeCalCtrl n.val
def calIdx (u : CalUnit) : Nat :=
  match u with
  | .sde p => p.val
  | .pje n => n.val
def calEventReg (u : CalUnit) : Nat :=
  match u with
  | .sde _ => R.sdeCalEvent
  | .pje _ => R.pjeCalEvent
def calErr (u : CalUnit) (bitNo : Nat) (off : Nat) (s : State) : State :=
  let info := BitVec.ofNat 32 (off % 0x10000 * 0x10000 + calIdx u)
  match u with
  | .sde _ => errInfo s R.sdeErr bitNo R.sdeErrInfo info
  | .pje _ => errInfo s R.pjeErr bitNo R.pjeErrInfo info

/-- CAL_STATUS bits and table addresses of an entry. -/
def calStatus (u : CalUnit) : Nat := calBase u + 4
def calStg (s : State) (u : CalUnit) : Nat := (rd64 s (calBase u + 8) (calBase u + 0xC)).toNat
def calAct (s : State) (u : CalUnit) : Nat := (rd64 s (calBase u + 0x20) (calBase u + 0x24)).toNat

/-- All calibration entries. -/
def calUnits : List CalUnit := (List.finRange 4).map CalUnit.sde ++ (List.finRange 16).map CalUnit.pje

/-- The checks of a pair table (R201). -/
def pairTableOk (s : State) (a : Nat) : Bool :=
  let rw := ldN s (a + 4) 2
  let rh := ldN s (a + 6) 2
  let gs := ldN s (a + 8) 1
  let n := 16 * gridW rw gs * gridW rh gs
  rangeOk s a 64 && decide (1 ≤ ldN s a 4) && decide (64 ≤ rw ∧ rw ≤ 4096) && decide (32 ≤ rh ∧ rh ≤ 4096) &&
    decide (4 ≤ gs ∧ gs ≤ 6) && decide (ldN s (a + 9) 51 = 0) && rangeOk s a (64 + n) &&
    crc32c (ldBytes s a 60 ++ ldBytes s (a + 64) n) == ldN s (a + 60) 4

/-- The checks of a camera table (R202). -/
def camTableOk (s : State) (a : Nat) : Bool :=
  rangeOk s a 128 && decide (1 ≤ ldN s a 4) && decide (ldN s (a + 4) 1 ≤ 1) &&
    decide (ldN s (a + 5) 3 = 0) && decide (ldN s (a + 8) 4 ≠ 0) && decide (ldN s (a + 12) 4 ≠ 0) &&
    (ldN s (a + 4) 1 == 0 || ldN s (a + 40) 4 == 0) && decide (ldN s (a + 44) 4 ≠ 0) && decide (ldN s (a + 96) 28 = 0) &&
    crc32c (ldBytes s a 124) == ldN s (a + 124) 4

/-- What the check of a staged table reads: a header whose range is bad stops it. -/
def calReads (s : State) (u : CalUnit) : List (Nat × Nat) :=
  let a := calStg s u
  match u with
  | .sde _ =>
    if rangeOk s a 64 then
      (a, 64) :: (let n := 16 * gridW (ldN s (a + 4) 2) (ldN s (a + 8) 1) * gridW (ldN s (a + 6) 2) (ldN s (a + 8) 1);
        if rangeOk s a (64 + n) then [(a + 64, n)] else [])
    else []
  | .pje _ => if rangeOk s a 128 then [(a, 128)] else []

/-- The check of a staged table (R203). Poisoned data or a read that GLIDE refuses fails it (DEDUCED: a check that cannot be
made does not pass). -/
def calTableOk (s : State) (u : CalUnit) : Bool :=
  !badData s (calReads s u) &&
  match u with
  | .sde _ => pairTableOk s (calStg s u)
  | .pje _ => camTableOk s (calStg s u)

/-- CAL_ARM (R203): the check starts; while one runs or the entry is armed the write is ignored with BUSY. -/
def execCalArm (u : CalUnit) (s : State) : Out :=
  fabric s fun s =>
    if rb s (calStatus u) 3 || rb s (calStatus u) 0 then calErr u 2 (calBase u) s
    else setBits s (calStatus u) 8

/-- The staged table becomes the active one (R204). -/
def calActivate (u : CalUnit) (epoch : Word) (s : State) : State :=
  let s1 := wr s (calBase u + 0x14) (rd s (calBase u + 0x10))
  let s2 := wr (wr s1 (calBase u + 0x20) (rd s (calBase u + 8))) (calBase u + 0x24) (rd s (calBase u + 0xC))
  let s3 := wr s2 (calBase u + 0x1C) epoch
  setBits (setBits (clrBits s3 (calStatus u) 1) (calStatus u) 2) (calEventReg u) (bitW (calIdx u))

/-- The two refinement buffers of each camera slot, in a page of firmware's slab region that firmware chooses (R308). -/
def calrefAddr (n b : Nat) : Nat := slabBase + 0x2C00000 + 4096 * (Config.calrefBuf % 1024) + 256 * n + 128 * b

/-- A table that firmware staged fails its check: the refinement is skipped (R309). -/
def calrefFailed (s : State) (u : CalUnit) : State :=
  match u with
  | .sde _ => s
  | .pje n =>
    if calStg s u = calrefAddr n.val 0 ∨ calStg s u = calrefAddr n.val 1 then
      setBits (bump s R.tfuCalrefSkipCnt) R.tfuEvent 0x40
    else s

/-- CAL_CHECK_END: the entry becomes ARMED, and active at once where no table is active (R203, R204). -/
def execCalCheckEnd (u : CalUnit) (s : State) : Out :=
  fabric s fun s =>
    if !rb s (calStatus u) 3 then s
    else
      let s1 := clrBits (noteReads s (calReads s u)) (calStatus u) 8
      if !calTableOk s u then calrefFailed (calErr u 1 (calBase u) s1) u
      else
        let s2 := wr s1 (calBase u + 0x10) (BitVec.ofNat 32 (ldN s (calStg s u) 4))
        if rb s (calStatus u) 1 then setBits s2 (calStatus u) 1 else calActivate u 0 s2

/-- CAL_DISARM: an armed entry is cancelled (R205). -/
def execCalDisarm (u : CalUnit) (s : State) : Out := fabric s fun s => clrBits s (calStatus u) 1

/-- The job that runs with an entry's active table: a rectified DEPTH job of the pair, or a PROJECT job of the camera
slot. -/
def calUser (s : State) (u : CalUnit) : Bool :=
  match u with
  | .sde p => match visJob s 5 with
    | some j => rec8 j.block 1 1 == p.val && rec8 j.block 2 1 / 2 % 2 == 1 && j.latch.getD 3 0 == 1
    | none => false
  | .pje n => match visJob s 6 with
    | some j => rec8 j.block 1 1 == n.val && j.latch.getD 5 0 == 1
    | none => false

/-- One entry at the swap (R204). -/
def calSwapOne (epoch : Word) (s : State) (u : CalUnit) : State :=
  if rb s (calStatus u) 0 then
    let s1 := wr s (calBase u + 0x18) (rd s (calBase u + 0x14))
    calActivate u epoch (if calUser s u then setBits s1 (calStatus u) 4 else s1)
  else s

/-- CAL_SWAP: a durable epoch commit reaches the engines and every armed table becomes active (R204). -/
def execCalSwap (s : State) : Out :=
  fabric s fun s =>
    match s.vis.swapDue with
    | none => s
    | some e => calUnits.foldl (calSwapOne (lo32 e)) { s with vis := { s.vis with swapDue := none } }

/-! ### PROJECT (R193 to R199) -/

/-- A product or sum of the engine: exact in 64 bits, unstated beyond (R196). -/
def wide64 (x : Int) : Int := if ovfS 64 x then satS 64 (Config.projWide x) else x

/-- Row `r` of a 3 × 3 matrix of Q2.30 elements times a vector, rounded to 2^−16 m. -/
def mulRow (m : List Int) (r : Nat) (v : List Int) : Int :=
  rne ((List.range 3).map fun c => wide64 (m.getD (3 * r + c) 0 * v.getD c 0)).sum 30

/-- The affine map R v + t of R196 step 3. -/
def affine (m t v : List Int) : List Int := (List.range 3).map fun r => mulRow m r v + t.getD r 0

/-- A knot of the motion table: time, rotation elements, translation. -/
structure Knot where
  t : Nat
  v : List Int
deriving DecidableEq, Repr

/-- The knots of a motion table. -/
def loadKnots (s : State) (a n : Nat) : List Knot :=
  (List.range n).map fun k => ⟨ldN s (a + 64 * k) 8, (List.range 12).map fun i => ldS s (a + 64 * k + 8 + 4 * i) 4⟩

/-- The interpolated elements at time `t`, with whether the time was clamped: before the first knot or after the last
(R196 step 2). -/
def motionAt (t : Int) : List Knot → Option Knot → List Int × Bool
  | [], none => ([], true)
  | [], some k => (k.v, decide (k.t < t))
  | k :: r, none => if t < k.t then (k.v, true) else motionAt t r (some k)
  | k :: r, some p =>
    if t < k.t then
      let al := divRne ((t - p.t) * 65536) (k.t - p.t)
      (List.zipWith (fun a b => a + rne (al * (b - a)) 16) p.v k.v, false)
    else motionAt t r (some k)

/-- A coordinate in 2^−16 px within 2^−6 px of the value that exact arithmetic gives (R197). -/
def nearExact (q a b c : Int) : Int := q + max (-1022) (min 1022 (Config.projErr a b c))

/-- The level-0 position of a camera-frame point in 2^−16 px; none beyond MAXR (R197). `cam` is the camera table. -/
def projectPoint (cam : List Byte) (x y z : Int) : Option (Int × Int) :=
  let f := fun (i : Nat) => recS cam (24 + 4 * i) 4
  let fx : Int := rec8 cam 8 4
  let fy : Int := rec8 cam 12 4
  let cx : Int := rec8 cam 16 4
  let cy : Int := rec8 cam 20 4
  let maxr : Int := rec8 cam 44 4
  let one : Int := 2 ^ 28
  let r2 := x * x + y * y
  if rec8 cam 4 1 = 0 then
    if maxr * maxr * (z * z) < r2 * (one * one) then none
    else
      let z2 := z * z
      let k := one * z2 ^ 3 + f 0 * r2 * z2 ^ 2 + f 1 * r2 ^ 2 * z2 + f 2 * r2 ^ 3
      let nx := x * k + z * z2 ^ 2 * (2 * f 3 * x * y + f 4 * (r2 + 2 * x * x))
      let ny := y * k + z * z2 ^ 2 * (f 3 * (r2 + 2 * y * y) + 2 * f 4 * x * y)
      let den := one * z2 ^ 3 * z
      some (nearExact (fx * nx / den + cx) x y z, nearExact (fy * ny / den + cy) y x z)
  else
    let th := atan2Pos (isqrtBig (r2.toNat * 2 ^ 200)) (z.toNat * 2 ^ 100)
    if maxr * 2 ^ 72 < th then none
    else if r2 = 0 then some (nearExact cx x y z, nearExact cy y x z)
    else
      let e : Int := 2 ^ 100
      let t2 := th * th / e
      let pol := one * e + f 0 * t2 + f 1 * (t2 * t2 / e) + f 2 * (t2 * t2 / e * t2 / e) +
        f 3 * (t2 * t2 / e * t2 / e * t2 / e)
      let td := th * pol / e
      let rho : Int := isqrtBig (r2.toNat * 2 ^ 200)
      some (nearExact (fx * td * x / rho / one + cx) x y z, nearExact (fy * td * y / rho / one + cy) y x z)

/-- A pixel on which points have landed: least and largest depth code, and count. -/
structure Hit where
  least : Nat
  most : Nat
  count : Nat
deriving DecidableEq, Repr

/-- The running counts of a PROJECT job. -/
structure Proj where
  hits : Tab Hit
  landed : Nat
  behind : Nat
  outside : Nat
  far : Nat
  clamped : Nat
  beyond : Nat
deriving DecidableEq, Repr

/-- A point that lands on pixel `i` with a depth code (R199). -/
def landOn (p : Proj) (i code : Nat) : Proj :=
  let h := tabGet ⟨0xFFFF, 0, 0⟩ p.hits i
  { p with hits := tabSet ⟨0xFFFF, 0, 0⟩ p.hits i ⟨min h.least code, max h.most code, h.count + 1⟩
           landed := p.landed + 1 }

/-- One point of the sweep (R196). -/
def projStep (cam : List Byte) (knots : List Knot) (t0 zmin l w h : Nat) (p : Proj) (pt : List Byte) : Proj :=
  let (mv, cl) := motionAt (t0 + 16 * (rec8 pt 12 3 : Nat) : Nat) knots none
  let p0 := { p with clamped := p.clamped + cl.toNat }
  let v := affine (mv.take 9) (mv.drop 9) [recS pt 0 4, recS pt 4 4, recS pt 8 4]
  let c := affine ((List.range 9).map fun i => recS cam (48 + 4 * i) 4) ((List.range 3).map fun i => recS cam (84 + 4 * i) 4) v
  let z := c.getD 2 0
  if z ≤ zmin then { p0 with behind := p0.behind + 1 }
  else
    match projectPoint cam (c.getD 0 0) (c.getD 1 0) z with
    | none => { p0 with beyond := p0.beyond + 1 }
    | some (u, v) =>
      let i := rne u (16 + l)
      let k := rne v (16 + l)
      if ¬(0 ≤ i ∧ i < w ∧ 0 ≤ k ∧ k < h) then { p0 with outside := p0.outside + 1 }
      else
        let code := rne z 9
        if 0xFFFE < code then { p0 with far := p0.far + 1 } else landOn p0 (k.toNat * w + i.toNat) code.toNat

/-- The checks of a PROJECT block (R194). The job latched: camera latch, lidar latch, lidar LOST, table address, version,
ACTIVE. -/
def projectChecks (s : State) (j : Job) : List (Nat × Bool) :=
  let b := j.block
  let n := rec8 b 1 1
  let m := rec8 b 2 1
  let l := rec8 b 3 1
  let nk := rec8 b 8 1
  let ts := (loadKnots s (rec8 b 16 8) (min nk 33)).map Knot.t
  let pitch := levelH s n l * up64 (2 * levelW s n l)
  [(1, decide (n < 16) && fsEn s n && fsType s n == 0 && j.latch.getD 5 0 == 1 &&
      bit (BitVec.ofNat 32 (j.latch.getD 0 0)) 31),
   (2, decide (m < 16) && fsEn s m && fsType s m == 1),
   (3, decide (l ≤ 3)),
   (4, decide (6554 ≤ rec8 b 4 4 ∧ rec8 b 4 4 < 0x80000000)),
   (8, decide (2 ≤ nk ∧ nk ≤ 33)),
   (9, zeros b 9 7),
   (16, engineRange s (rec8 b 16 8) (64 * nk) && (List.zipWith (fun a c => decide (a < c)) ts (ts.drop 1)).all id),
   (24, engineRange s (rec8 b 24 8) (64 + pitch)),
   (32, engineRange s (rec8 b 32 8) pitch),
   (40, zeros b 40 24)]

/-- The header, the depth map and the hit map of a PROJECT job (R198, R199). -/
def projectWrite (s : State) (j : Job) (hdr : List Byte) (w h : Nat) (hits : Tab Hit) : State :=
  let b := j.block
  let s1 := stBytes s (rec8 b 24 8) hdr
  (List.range h).foldl (fun st y =>
    let row := (List.range w).map fun x => tabGet ⟨0xFFFF, 0, 0⟩ hits (y * w + x)
    let s2 := stBytes st (rec8 b 24 8 + 64 + y * up64 (2 * w)) ((row.map fun e => leBytes 2 e.least).flatten)
    stBytes s2 (rec8 b 32 8 + y * up64 (2 * w)) ((row.map fun e =>
      leBytes 1 (if e.count = 0 then 0 else min 255 ((e.most - e.least) / 16)) ++ leBytes 1 (min 255 e.count)).flatten)) s1

/-- The header of a PROJECT job. -/
def projectHeader (j : Job) (cr : List Byte) (st points : Nat) (p : Proj) (time count : Nat) : List Byte :=
  let b := j.block
  slice cr 16 8 ++ slice cr 32 4 ++ leBytes 1 (rec8 b 1 1) ++ leBytes 1 st ++ leBytes 1 (rec8 b 2 1) ++
    leBytes 1 (rec8 b 3 1) ++ leBytes 4 (j.latch.getD 4 0) ++ leBytes 4 points ++ leBytes 4 p.landed ++ leBytes 4 p.behind ++
    leBytes 4 p.outside ++ leBytes 4 p.far ++ leBytes 4 p.clamped ++ leBytes 4 p.beyond ++ leBytes 8 time ++
    leBytes 4 count ++ leBytes 4 0

/-- The work of a PROJECT job (R194 to R199). -/
def projectJob (s : State) (j : Job) : State :=
  let b := j.block
  let n := rec8 b 1 1
  let m := rec8 b 2 1
  match firstBad (projectChecks s j) with
  | some byte => visRefuse s j byte (n % 16)
  | none =>
    let cw := BitVec.ofNat 32 (j.latch.getD 0 0)
    let lw := BitVec.ofNat 32 (j.latch.getD 1 0)
    let cr := frameRecord s n (fld cw 3 0)
    let camRec := (fsBuf s n (fld cw 3 0), 64)
    let sweep := fsBuf s m (fld lw 3 0)
    let sr := ldBytes s sweep 64
    let l := rec8 b 3 1
    let w := levelW s n l
    let h := levelH s n l
    let outs := [(rec8 b 24 8, 64 + h * up64 (2 * w)), (rec8 b 32 8, h * up64 (2 * w))]
    if !bit lw 31 || j.latch.getD 2 0 == 1 then
      let (time, count) :=
        if bit lw 31 then (rec8 sr 16 8, rec8 sr 32 4) else (Config.neverSweep n m, Config.neverSweep m (16 + n))
      visIo s j ([(j.addr, 64), camRec] ++ if bit lw 31 then [(sweep, 64)] else []) outs fun s =>
      visDone (projectWrite s j (projectHeader j cr 0x25 0 ⟨[], 0, 0, 0, 0, 0, 0⟩ time count) w h []) j 0x25
    else
    let pts := rec8 sr 40 4
    let tab := j.latch.getD 3 0
    visIo s j [(j.addr, 64), camRec, (rec8 b 16 8, 64 * rec8 b 8 1), (tab, 128), (sweep, 64), (sweep + 0x1000, 16 * pts)] outs fun s =>
    let cam := ldBytes s tab 128
    let knots := loadKnots s (rec8 b 16 8) (rec8 b 8 1)
    let p := (List.range pts).foldl (fun p i =>
      projStep cam knots (rec8 sr 16 8) (rec8 b 4 4) l w h p (ldBytes s (sweep + 0x1000 + 16 * i) 16)) ⟨[], 0, 0, 0, 0, 0, 0⟩
    let s1 := projectWrite s j (projectHeader j cr 0 pts p (rec8 sr 16 8) (rec8 sr 32 4)) w h p.hits
    let s2 := bumpN (bumpN s1 R.pjePoints pts) R.pjeLanded p.landed
    visDone (bumpN s2 R.pjeDropped (pts - p.landed)) j 0

/-- PROJECT: the PJE's running job does its work. -/
def execProject (s : State) : Out := visWork 6 1 projectJob s

/-! ### Start and completion of vision jobs -/

/-- The unit code of a vision engine. -/
def visCode (u : VisionUnit) : Nat :=
  match u with
  | .fdd e => 1 + e.val
  | .tme e => 3 + e.val
  | .sde => 5
  | .pje => 6

/-- The start of a vision job: what it latches (R156, R183, R193, R204). -/
def visStart (s : State) (u : VisionUnit) (j : Job) : State :=
  match u with
  | .fdd e => let (s1, j1) := fddStart s e.val j; setVisJob s1 j.unit (some j1)
  | .tme _ => setVisJob s j.unit (some { j with latch := [] })
  | .sde =>
    let p := rec8 j.block 1 1 % 4
    let cu := CalUnit.sde ⟨p, Nat.mod_lt _ (by decide)⟩
    let takes := decide (rec8 j.block 0 1 = 1) && decide (rec8 j.block 1 1 < 4)
    setVisJob (if takes then { s with vis := { s.vis with pairTaken := tabSet false s.vis.pairTaken p true } } else s) j.unit
      (some { j with latch := [(rd s (R.sdePairLatch p)).toNat, calAct s cu, (rd s (R.sdeCalActVer p)).toNat,
        (rb s (R.sdeCalStatus p) 1).toNat] })
  | .pje =>
    let n := rec8 j.block 1 1 % 16
    let m := rec8 j.block 2 1 % 16
    let cu := CalUnit.pje ⟨n, Nat.mod_lt _ (by decide)⟩
    setVisJob s j.unit (some { j with latch := [(rd s (R.pjeSlotLatch n)).toNat, (rd s (R.pjeSlotLatch m)).toNat,
      (rb s (R.ingFsStatus m) 3).toNat, calAct s cu, (rd s (R.pjeCalActVer n)).toNat, (rb s (R.pjeCalStatus n) 1).toNat] })

/-- The register that counts a vision unit's completed jobs. -/
def visJobsReg (u : VisionUnit) : Nat :=
  match u with
  | .fdd e => R.fddJobs e.val
  | .tme e => R.tmeJobs e.val
  | .sde => R.sdeJobs
  | .pje => R.pjeJobs

/-- What the end of a job releases: the feature engine's buffer, the retired table (R156, R204). -/
def visRelease (s : State) (u : VisionUnit) (j : Job) (st : Nat) : State :=
  match u with
  | .fdd e => fddEnd s e.val j st
  | .tme _ => s
  | .sde => clrBits s (R.sdeCalStatus (rec8 j.block 1 1 % 4)) 4
  | .pje => clrBits s (R.pjeCalStatus (rec8 j.block 1 1 % 16)) 4

/-- A vision job completes with a status and reports it. -/
def visComplete (s : State) (u : VisionUnit) (j : Job) (st : Nat) : State :=
  report (bumpWrap (setVisJob (visRelease s u j st) (visCode u) none) (visJobsReg u)) j.owner st

/-- VISION_JOB_END: a job whose work is done completes and reports (R150); one asked to abort before it completed ends with
ERR_ABORTED, its header carrying the status (R178). -/
def execVisionJobEnd (u : VisionUnit) (s : State) : Out :=
  fabric s fun s =>
    match visJob s (visCode u) with
    | some j =>
      if abortAsked s j.owner then visComplete (issued j.owner s (stampStatus s j 0x28)) u j 0x28
      else match j.status with
        | some st => visComplete s u j st
        | none => s
    | none => s

end Sys2Proof.Machine
end

