-- ==== Sys2Proof/Machine/FrameGraphs.lean ====
section
/-! DEFINITION. The slalom sequencer: launches, runs, gate evaluation, job queues, signals, run records and aborts
(R210 to R226). -/

namespace Sys2Proof.Machine

/-! ### Graphs and runs -/

/-- The graph in slot `g`, if one is resident. -/
def graphOf (s : State) (g : Nat) : Option Graph := tabGet none s.fgs.graphs g

/-- The runs of graph `g` in flight, oldest first. -/
def runsOf (s : State) (g : Nat) : List Run := s.fgs.runs.filter fun r => r.graph == g

/-- The run of an id. -/
def findRun (s : State) (id : Nat) : Option Run := s.fgs.runs.find? fun r => r.id == id

/-- The counts of runs in flight and the cursor of the oldest run as the registers show them (R224). -/
def syncRuns (s : State) (g : Nat) : State :=
  let rs := runsOf s g
  let s1 := wf s R.fgsStatus 7 0 s.fgs.runs.length
  wf (wf s1 (R.fgsGraphState g) 18 16 rs.length) (R.fgsGraphState g) 7 0 ((rs.map Run.cursor).headD 0)

/-- A run replaced. -/
def setRun (s : State) (r : Run) : State :=
  syncRuns { s with fgs := { s.fgs with runs := s.fgs.runs.map fun x => if x.id = r.id then r else x } } r.graph

/-- The gate entry of a graph. -/
def gateAt (g : Graph) (i : Nat) : GateEntry :=
  g.gates.getD i ⟨0, false, false, 0, 0xFF, 0xFFFF, 0xFFFF, 0, 0, 0, 0, 0⟩

/-- The gate of a run. -/
def gateRunAt (r : Run) (i : Nat) : GateRun := r.gates.getD i ⟨.idle, 0, 0, 0⟩

/-- A gate of a run replaced. -/
def setGate (r : Run) (i : Nat) (f : GateRun → GateRun) : Run := { r with gates := r.gates.modify i f }

/-- An FGS_ERR bit with graph and start gate (R224). -/
def fgsErr (s : State) (b graph sg : Nat) : State :=
  errInfo s R.fgsErr b R.fgsErrInfo (BitVec.ofNat 32 (graph % 64 * 0x10000 + sg % 512))

/-! ### Launch (R214, R215) -/

/-- How a launch ends. -/
inductive Launched where
  | accepted | failed | overrun
deriving DecidableEq, Repr

/-- The tests of R214 in order. -/
def launchTest (s : State) (g ctx : Nat) : Launched :=
  match graphOf s g with
  | none => .failed
  | some gr =>
    if !rb s R.fgsCtrl 0 || gr.ctx != ctx then .failed
    else if gr.maxrun ≤ (runsOf s g).length ∨ 128 ≤ s.fgs.runs.length then .overrun
    else .accepted

/-- An accepted launch creates a run (R215). -/
def createRun (s : State) (g cause idx : Nat) (desc : Option Nat) : State :=
  match graphOf s g with
  | none => s
  | some gr =>
    let n := tabGet 0 s.fgs.runCount g
    let r : Run := ⟨s.fgs.nextRun, g, n, s.dt.now, none, false, none, 0, List.replicate gr.ngates ⟨.idle, 0, 0, 0⟩, cause, idx,
      desc, false, false⟩
    let s1 := { s with fgs := { s.fgs with
      runCount := tabSet 0 s.fgs.runCount g ((n + 1) % 2 ^ 32), runs := s.fgs.runs ++ [r], nextRun := s.fgs.nextRun + 1 } }
    bumpWrap (syncRuns s1 g) (R.fgsGraphLaunches g)

/-- A launch refused for MAXRUN or for the 128-run limit is counted (R214, R224). -/
def launchOverrun (s : State) (g : Nat) : State := setBits (bump s (R.fgsGraphOvr (g % 64))) (R.fgsGraphEvent (g % 64)) 1

/-- GRAPH_LAUNCH by start gate `n`: whether it failed as a firing (R214). -/
def launchByGate (s : State) (g ctx n : Nat) : State × Bool :=
  match launchTest s g ctx with
  | .accepted => (createRun s g 0 n none, false)
  | .failed => (fgsErr s 0 g n, true)
  | .overrun => (launchOverrun s g, false)

/-! ### Ending a run (R222) -/

/-- The gates of a run with SKIPPED, and those with status 0x20 or above; the worst status. -/
def skippedGates (r : Run) : Nat := (r.gates.filter fun g => g.flags % 2 == 1).length
def failedGates (r : Run) : Nat := (r.gates.filter fun g => decide (0x20 ≤ g.status)).length
def worstStatus (r : Run) : Nat := r.gates.foldl (fun m g => max m g.status) 0

/-- Bytes of a run record (R212). -/
def recordSize (g : Graph) : Nat := 64 + 4 * g.ngates

/-- The run record. -/
def runRecord (s : State) (g : Graph) (r : Run) (launchDt : Nat) : List Byte :=
  let late := decide (g.deadline ≠ 0) && decide (launchDt + g.deadline ≤ s.dt.now.toNat)
  let body := leBytes 8 launchDt ++ leBytes 8 s.dt.now.toNat ++ leBytes 4 r.count ++ leBytes 1 r.graph ++
    leBytes 1 (worstStatus r) ++ leBytes 1 r.cause ++ leBytes 1 (r.aborted.toNat + 2 * late.toNat) ++
    leBytes 2 (skippedGates r) ++ leBytes 2 (failedGates r) ++ leBytes 4 r.causeIdx ++ leBytes 28 0
  body ++ leBytes 4 (crc32c body) ++
    (r.gates.map fun x => leBytes 1 x.status ++ leBytes 1 x.flags ++ leBytes 2 x.time).flatten

/-- The result words of a run (R222). -/
def runResult (r : Run) : List Byte :=
  leBytes 4 r.count ++ leBytes 1 r.graph ++ leBytes 1 0 ++ leBytes 2 (skippedGates r) ++ leBytes 2 (failedGates r)

/-- Step 3 of R222 and the end of the run: the graph's completion when its ring has room, then the descriptor. -/
def runLeave (s : State) (g : Graph) (r : Run) : State :=
  if g.cq ≠ 0xFF ∧ cqRoom s g.cq = false then setRun s { r with recorded := true }
  else
    let c : Completion := ⟨g.cq, none, r.graph * 0x1000000 + r.count % 0x1000000, worstStatus r, decide (g.endSem ≠ 0xFFFF),
      s.dt.now, runResult r, false⟩
    let s1 := if g.cq = 0xFF then s else postCompletion s c
    let s2 := syncRuns { s1 with fgs := { s1.fgs with runs := s1.fgs.runs.filter fun x => x.id ≠ r.id } } r.graph
    let s3 := wr (bumpWrap s2 R.fgsRuns) (R.fgsGraphLast r.graph)
      (BitVec.ofNat 32 (worstStatus r * 0x1000000 + skippedGates r))
    let s4 := when (decide (0x20 ≤ worstStatus r)) (fun s => setBits s (R.fgsGraphEvent r.graph) 2) s3
    let s5 := when r.aborted (fun s => setBits s (R.fgsGraphEvent r.graph) 4) s4
    match r.desc with
    | some d => finish s5 (.descriptor d) (worstStatus r) (runResult r)
    | none => s5

/-- RUN_END: the record, the end semaphore, then step 3 (R222). -/
def runEnd (s : State) (g : Graph) (r : Run) : State :=
  let (free, s0) := drawNat s
  let ldt := match r.launchDt with | some d => d.toNat | none => free % 2 ^ 64
  let a := g.records + r.count % max 1 g.jring * up64 (recordSize g)
  let s1 := stBytes s0 a (runRecord s0 g r ldt)
  runLeave (signalAfter s1 [(a, recordSize g)] 2 g.endSem g.endAdd) g r

/-- Whether every gate of a run is final. -/
def allFinal (r : Run) : Bool := r.gates.all fun g => decide (g.stage = .final)

/-- The signals of an aborted run: each SIGALWAYS gate that has not signalled, in gate order (R223). -/
def abortSignals (g : Graph) : Nat → Nat → State → Run → State × Run
  | 0, _, s, r => (s, r)
  | n + 1, i, s, r =>
    let e := gateAt g i
    if e.sigAlways && decide ((gateRunAt r i).flags / 4 % 2 = 0) && e.sigSem != 0xFFFF then
      abortSignals g n (i + 1) (signal s 2 e.sigSem e.sigAdd) (setGate r i fun x => { x with flags := x.flags + 4 })
    else abortSignals g n (i + 1) s r

/-- The run is stored, and ends when its cursor has passed the last gate and every gate is final. -/
def runCheck (s : State) (g : Graph) (r : Run) : State :=
  if r.recorded || !allFinal r || !(r.aborted || decide (g.ngates ≤ r.cursor)) then setRun s r
  else if r.aborted then
    let (s1, r1) := abortSignals g g.ngates 0 s r
    runEnd (setRun s1 r1) g r1
  else runEnd (setRun s r) g r

/-! ### Ending a gate (R219, R220) -/

/-- µs after the launch DT, rounded down, saturated; before the launch DT the value is open. -/
def gateTime (s : State) (r : Run) : Nat × State :=
  let (free, s1) := drawNat s
  let t0 := match r.launchDt with | some d => d.toNat | none => s.dt.now.toNat
  (if s.dt.now.toNat < t0 then free % 65536 else min 65535 ((s.dt.now.toNat - t0) / 1000), s1)

/-- A gate becomes final with a status and flags, and applies its signal where R219 says so; an aborted run leaves its
SIGALWAYS signals to its end. -/
def endGate (s : State) (g : Graph) (r : Run) (i st flags : Nat) : State × Run :=
  let e := gateAt g i
  let (t, s1) := gateTime s r
  let s2 := when (flags % 2 == 1) (fun s => bump s R.fgsSkipped) s1
  let s3 := when (flags / 2 % 2 == 1) (fun s => bump s R.fgsWaitTmo) s2
  let sig := ((decide (st < 0x20) && flags % 2 == 0) || (e.sigAlways && !r.aborted)) && e.sigSem != 0xFFFF
  let s4 := when sig (fun s => signal s 2 e.sigSem e.sigAdd) s3
  (s4, setGate r i fun _ => ⟨.final, st, flags + 4 * sig.toNat, t⟩)

/-- A gate ends at the cursor, which advances. -/
def decideGate (s : State) (g : Graph) (r : Run) (st flags : Nat) : State :=
  let (s1, r1) := endGate s g r r.cursor st flags
  runCheck s1 g { r1 with cursor := r1.cursor + 1, begun := false, expiry := none }

/-! ### Moving through the gates (R216 to R218) -/

/-- Whether a slot of a NEEDS set is lost (R122). -/
def needsLost (s : State) (needs : Nat) : Bool :=
  ((List.range 16).any fun n => needs / 2 ^ n % 2 == 1 && rb s (R.ingFsStatus n) 3) ||
  ((List.range 4).any fun i => needs / 2 ^ (16 + i) % 2 == 1 && rb s (R.ingIsStatus i) 1)

/-- Whether the pair decision differs from a gate's PAIR mode (R216). -/
def pairDiffers (s : State) (pair : Nat) : Bool :=
  let w := rd s (R.sdePairLatch (pair % 4))
  let paired := bit w 31 && bit w 30
  decide (128 ≤ pair) && !(if pair / 32 % 4 = 1 then paired else !paired)

/-- The job of a gate (R213). -/
def gateJob (g : Graph) (r : Run) (i : Nat) : Job :=
  let e := gateAt g i
  ⟨.gate r.id i, e.unit, g.ctx, e.job + r.count % max 1 g.jring * g.jstride, [], none, []⟩

/-- Precedence of a run at a queue: higher PRIO, then earlier launch DT, then lower graph index (R218). -/
def goesBefore (s : State) (a b : Run) : Bool :=
  let prio := fun (r : Run) => ((graphOf s r.graph).map Graph.prio).getD 0
  let ldt := fun (r : Run) => (r.launchDt.getD s.dt.now).toNat
  decide (prio b < prio a) || (prio a == prio b &&
    (decide (ldt a < ldt b) || (ldt a == ldt b && (decide (a.graph < b.graph) || (a.graph == b.graph && decide (a.id < b.id))))))

/-- The runs before `r` whose cursors hold at the full queue of unit code `u`. -/
def holdersBefore (s : State) (u : Nat) (r : Run) : List Run :=
  s.fgs.runs.filter fun q =>
    decide ((gateRunAt q q.cursor).stage = .queueHold) && goesBefore s q r &&
      (match graphOf s q.graph with
       | some g => (gateAt g q.cursor).unit == u
       | none => false)

/-- Past the wait: a SYNC gate ends, a powered-down unit skips the gate (R502), a full queue holds the cursor, as do cursors
that go before it and hold for the places there are, and otherwise the job is enqueued and the cursor advances (R218). -/
def enqueueGate (s : State) (g : Graph) (r : Run) : State :=
  let i := r.cursor
  let e := gateAt g i
  if e.unit = 0 then decideGate s g r 0 0
  else if !unitPowered s e.unit then decideGate s g r 0x28 1
  else if 8 ≤ (queueOf s e.unit).length + (holdersBefore s e.unit r).length then
    setRun s (setGate r i fun x => { x with stage := .queueHold })
  else
    let s1 := bump (setQueue s e.unit (queueOf s e.unit ++ [gateJob g r i])) R.fgsDispatched
    runCheck s1 g { setGate r i (fun x => { x with stage := .queued }) with cursor := i + 1, begun := false, expiry := none }

/-- The steps of R216 from the NEEDS test on. -/
def afterDep (s : State) (g : Graph) (r : Run) : State :=
  let i := r.cursor
  let e := gateAt g i
  if needsLost s e.needs then decideGate s g r 0x25 1
  else if pairDiffers s e.pair then decideGate s g r 0 1
  else if e.waitSem ≠ 0xFFFF then
    setRun (startWait s (.gate r.id i) (e.waitSem % 4096) e.waitN e.consume r.expiry)
      (setGate r i fun x => { x with stage := .waiting })
  else enqueueGate s g r

/-- The DEP step of R216. -/
def depStep (s : State) (g : Graph) (r : Run) : State :=
  let i := r.cursor
  let e := gateAt g i
  if e.dep = 0xFF then afterDep s g r
  else
    let d := gateRunAt r e.dep
    if d.stage ≠ .final then setRun s (setGate r i fun x => { x with stage := .depHold })
    else if d.flags % 2 = 1 then decideGate s g r d.status 1
    else if 0x20 ≤ d.status then decideGate s g r 0x28 1
    else afterDep s g r

/-- The start of an evaluation: launch DT and expiry, then the deadline test (R215, R216). -/
def beginGate (s : State) (g : Graph) (r : Run) : State :=
  let e := gateAt g r.cursor
  let ldt := r.launchDt.getD s.dt.now
  let due := ldt.toNat + g.deadline
  let tmo := s.dt.now.toNat + e.timeout
  let expiry :=
    if g.deadline = 0 ∧ e.timeout = 0 then none
    else if g.deadline = 0 then some tmo
    else if e.timeout = 0 then some due
    else some (min due tmo)
  let r1 := { r with launchDt := some ldt, begun := true, expiry := expiry }
  if g.deadline ≠ 0 ∧ due ≤ s.dt.now.toNat then decideGate s g r1 0x20 1 else depStep s g r1

/-- Whether the in-order rule lets the cursor of `r` evaluate its gate: every earlier run of its graph has passed it, one that
was aborted short of it only by leaving (R217). -/
def inOrder (s : State) (r : Run) : Bool :=
  (runsOf s r.graph).all fun q => decide (r.id ≤ q.id) || decide (r.cursor < q.cursor)

/-- What ends the hold of a cursor other than its expiry: its DEP gate is final, or its unit's queue has a place for it. A
cursor that holds at neither is left alone. -/
def endHold (s : State) (g : Graph) (r : Run) : Option State :=
  let e := gateAt g r.cursor
  match (gateRunAt r r.cursor).stage with
  | .depHold => if (gateRunAt r e.dep).stage = .final then some (depStep s g r) else none
  | .queueHold =>
    if 8 ≤ (queueOf s e.unit).length + (holdersBefore s e.unit r).length ∧ unitPowered s e.unit = true then none
    else some (enqueueGate s g r)
  | _ => none

/-- The cursor of a run evaluates its gate, or takes up a hold that has ended. A run whose completion alone is held goes on
when its ring has room (R222). -/
def evaluateRun (s : State) (run : Nat) : State :=
  match findRun s run with
  | none => s
  | some r =>
    match graphOf s r.graph with
    | none => s
    | some g =>
      if r.recorded then runLeave s g r
      else if r.aborted || decide (g.ngates ≤ r.cursor) then s
      else match (gateRunAt r r.cursor).stage with
        | .idle => if inOrder s r then beginGate s g r else s
        | _ => (endHold s g r).getD s

/-- A run put into a list by precedence. -/
def placeRun (s : State) (r : Run) : List Run → List Run
  | [] => [r]
  | q :: t => if goesBefore s r q then r :: q :: t else q :: placeRun s r t

/-- GATE_EVALUATE: the cursor of a run, and those of the other runs that reach the same point in the same cycle, in their order
of precedence (R217, R218). -/
def execGateEvaluate (run : Nat) (rivals : List Nat) (s : State) : Out :=
  fabric s fun s =>
    ((((run :: rivals).filterMap (findRun s)).foldl (fun l r => placeRun s r l) []).map Run.id).foldl evaluateRun s

/-- GATE_HOLD_EXPIRE: a hold at DEP or at a full queue has reached its expiry; what would end the hold itself comes first, as
the sample of a wait does (R82, R216). -/
def execGateHoldExpire (run : Nat) (s : State) : Out :=
  fabric s fun s =>
    match findRun s run with
    | none => s
    | some r =>
      match graphOf s r.graph, r.expiry with
      | some g, some e =>
        let st := (gateRunAt r r.cursor).stage
        if (st = .depHold ∨ st = .queueHold) ∧ e ≤ s.dt.now.toNat ∧ r.aborted = false then
          (endHold s g r).getD (decideGate s g r 0x20 2)
        else s
      | _, _ => s

/-- SEM_POLL: the next sample of a waiter, in its turn among the operations of the cycle (R80 to R83). A gate goes on at once: past its wait, skipped when a needed slot is
lost after a failing poll, or ended at its expiry (R216). Other owners take the outcome of their wait from the state. -/
def execSemPoll (waiter : Nat) (rivals : List SemReq) (s : State) : Out :=
  fabric s fun s =>
    match s.sem.waiters.find? (fun w => w.id == waiter) with
    | none => s
    | some w =>
      let (s1, res) := pollAmong s w rivals
      match w.owner with
      | .gate run i =>
        match findRun s1 run with
        | none => dropWaits s1 w.owner
        | some r =>
          match graphOf s1 r.graph with
          | none => dropWaits s1 w.owner
          | some g =>
            match res with
            | some true => enqueueGate (dropWaits s1 w.owner) g r
            | some false => if needsLost s1 (gateAt g i).needs then decideGate (dropWaits s1 w.owner) g r 0x25 1
                            else decideGate (dropWaits s1 w.owner) g r 0x20 2
            | none => if needsLost s1 (gateAt g i).needs then decideGate (dropWaits s1 w.owner) g r 0x25 1 else s1
      | _ => match res with
        | some ok => endWait s1 w ok
        | none => s1

/-! ### Units start jobs (R218, R502) -/

/-- The unit code of a unit. -/
def unitCode (u : UnitId) : Nat :=
  match u with
  | .vision v => visCode v
  | .tiles => 0x10
  | .copyGroup _ => 0x11
  | .tfu => 0x12
  | .lse => 0x13
  | .prs => 0x14
  | .mst => 0x15

/-- Work that does not run because its unit is off, parked or disabled: a gate ends ERR_ABORTED with SKIPPED, a descriptor
completes with ERR_ABORTED, a start gate's work counts as a failed firing (R59, R502). -/
def refuseWork (s : State) (o : Owner) : State :=
  match o with
  | .gate run i =>
    match findRun s run with
    | none => s
    | some r =>
      match graphOf s r.graph with
      | none => s
      | some g => let (s1, r1) := endGate s g r i 0x28 1; runCheck s1 g r1
  | .descriptor _ => finish s o 0x28 []
  | .startGate n => sgErr s 2 n
  | .coordinator => finish s o 0x28 []
  | .firmware => s

/-- A gate's job runs at its unit. -/
def markRunning (s : State) (o : Owner) : State :=
  match o with
  | .gate run i => match findRun s run with
    | some r => setRun s (setGate r i fun x => { x with stage := .running })
    | none => s
  | .descriptor _ | .startGate _ | .coordinator | .firmware => s

/-- The 64 bytes of a job block: a gate's job is read where it stands, another job carries its block. -/
def jobBlock (s : State) (j : Job) : List Byte :=
  match j.owner with
  | .gate _ _ => ldBytes s j.addr 64
  | .descriptor _ | .startGate _ | .coordinator | .firmware => j.block

/-- GATE_END: a unit's completion report ends its gate (R219). -/
def execGateEnd (run gate : Nat) (s : State) : Out :=
  fabric s fun s =>
    match s.fgs.reports.find? (fun x => decide (x.owner = .gate run gate)) with
    | none => s
    | some rep =>
      let s1 := { s with fgs := { s.fgs with reports := s.fgs.reports.filter fun x => decide (x.owner ≠ rep.owner) } }
      match findRun s1 run with
      | none => s1
      | some r =>
        match graphOf s1 r.graph with
        | none => s1
        | some g => let (s2, r2) := endGate s1 g r gate rep.status 0; runCheck s2 g r2

/-! ### Aborts (R223) -/

/-- A gate of a run being aborted: not reached, held or waiting at the cursor, queued, or running; a job whose report has
already come keeps its status (R223). -/
def abortGate (s : State) (g : Graph) (r : Run) (i : Nat) : State × Run :=
  let x := gateRunAt r i
  let o := Owner.gate r.id i
  let u := (gateAt g i).unit
  match x.stage with
  | .final => (s, r)
  | .idle => endGate s g r i 0x28 (if i = r.cursor then 1 else 9)
  | .depHold | .queueHold => endGate s g r i 0x28 1
  | .waiting => endGate (dropWaits s (.gate r.id i)) g r i 0x28 1
  | .queued => endGate (setQueue s u ((queueOf s u).filter fun j => decide (j.owner ≠ o))) g r i 0x28 0
  | .running =>
    if s.fgs.reports.any fun x => decide (x.owner = o) then (s, r)
    else ({ s with fgs := { s.fgs with abortAsked := s.fgs.abortAsked ++ [o] } }, r)

/-- All gates of a run, in order. -/
def abortGates (g : Graph) : Nat → Nat → State → Run → State × Run
  | 0, _, s, r => (s, r)
  | n + 1, i, s, r => let (s1, r1) := abortGate s g r i; abortGates g n (i + 1) s1 r1

/-- One run aborted. -/
def abortRun (s : State) (g : Graph) (r : Run) : State :=
  if r.recorded then s
  else
    let (s1, r1) := abortGates g g.ngates 0 s { r with aborted := true }
    runCheck s1 g r1

/-- Every run of a graph in flight aborted; the number of them. -/
def abortGraph (s : State) (g : Nat) : State × Nat :=
  match graphOf s g with
  | none => (s, 0)
  | some gr => ((runsOf s g).foldl (fun st r => abortRun st gr r) s, (runsOf s g).length)

/-- FGS_ABORT: a write of the register; GO aborts the runs of the graph named (R223, R225). -/
def execFgsAbort (v : Word) (s : State) : Out :=
  fabric s fun s =>
    if !bit v 31 then s
    else if (graphOf s (fld v 5 0)).isNone then fgsErr s 1 (fld v 5 0) 0
    else (abortGraph s (fld v 5 0)).1

end Sys2Proof.Machine
end

