-- ==== Sys2Proof/Machine/FilterChain.lean ====
section
/-! DEFINITION. The inertial filter chain: cascade and averaging modes, output records, settling flags, and the
single-frequency detector (R129 to R149). -/

namespace Sys2Proof.Machine

/-- A channel with every stage cleared (R140). -/
def ifcChan0 : IfcChan where
  integ := [0, 0, 0, 0]
  comb := [0, 0, 0, 0]
  fir := []
  firCount := 0
  hb := [[], [], []]
  hbCount := [0, 0, 0]
  sum := 0
  prev := 0
  src := 0
  pendingSrc := false
  switchLeft := 0
  out := 0
  sat := 0

/-- A slot that has taken no sample. -/
def ifcSlot0 : IfcSlot where
  n := 0
  k := 0
  gapAge := none
  restart := false
  seq := 0
  due := []
  ch := []

/-- A detector between blocks. -/
def detector0 : Detector where
  n := 0
  s1 := 0
  s2 := 0
  re := 0
  im := 0
  gap := false
  start := 0
  blocks := 0
  power := 0
  phase := 0
  pstart := 0
  info := 0

/-- The slot's state. -/
def ifcSlot (s : State) (i : Nat) : IfcSlot := tabGet ifcSlot0 s.ifc.slot i

/-- The slot's state replaced. -/
def setIfcSlot (s : State) (i : Nat) (x : IfcSlot) : State :=
  { s with ifc := { s.ifc with slot := tabSet ifcSlot0 s.ifc.slot i x } }

/-- A detector. -/
def detGet (s : State) (k : Nat) : Detector := tabGet detector0 s.ifc.det k

/-- A detector replaced. -/
def detSet (s : State) (k : Nat) (d : Detector) : State :=
  { s with ifc := { s.ifc with det := tabSet detector0 s.ifc.det k d } }

/-- Cascade ratios and mode of a slot, from `IFC_ISi_CFG`. -/
def ifcScs (s : State) (i : Nat) : Bool := rb s (R.ifcIsCfg i) 30
def ifcH (s : State) (i : Nat) : Nat := rf s (R.ifcIsCfg i) 27 26
def ifcFdec (s : State) (i : Nat) : Nat := rf s (R.ifcIsCfg i) 25 25 + 1
def ifcD (s : State) (i : Nat) : Nat := rf s (R.ifcIsCfg i) 22 16

/-- The total ratio R (R135, R142). -/
def ifcR (s : State) (i : Nat) : Nat :=
  if ifcScs s i then rf s (R.ifcIsCfg i) 10 0 else ifcD s i * ifcFdec s i * 2 ^ ifcH s i

/-- The span N of the cascade in input samples (R138); one output period in SCS mode. -/
def ifcSpan (s : State) (i : Nat) : Nat :=
  if ifcScs s i then ifcR s i
  else 4 * (ifcD s i - 1) + 1 + 63 * ifcD s i +
    ((List.range (ifcH s i)).map fun st => 30 * ifcD s i * ifcFdec s i * 2 ^ st).sum

/-- Outputs that carry UNSETTLED after a restart (R138); none in SCS mode (R143). -/
def ifcUnsettled (s : State) (i : Nat) : Nat := if ifcScs s i then 0 else ceilDiv (ifcSpan s i) (ifcR s i)

/-- The enable bit of channel `c` of slot `i`. -/
def ifcChEn (s : State) (i c : Nat) : Bool := rb s (R.ifcIsChCfg i c) 31

/-- A stage output rounded and saturated to Q2.30, with whether it saturated (R129). -/
def q230 (x : Int) : Int × Nat := (satS 32 x, (ovfS 32 x).toNat)

/-- The ceiling S of 4 log2 D: the least S with D^4 ≤ 2^S (R132). -/
def cicShift (d : Nat) : Nat := ((List.range 25).find? fun k => d ^ 4 ≤ 2 ^ k).getD 24

/-- One CIC input: the four integrators take it in turn, wrapping modulo 2^48 (R131). -/
def cicIntegrate (x : BitVec 48) : List (BitVec 48) → List (BitVec 48) × BitVec 48
  | [] => ([], x)
  | a :: t =>
    let a' := a + x
    let (t', o) := cicIntegrate a' t
    (a' :: t', o)

/-- The four combs at the reduced rate (R131). -/
def cicComb (v : BitVec 48) : List (BitVec 48) → List (BitVec 48) × BitVec 48
  | [] => ([], v)
  | c :: t =>
    let (t', o) := cicComb (v - c) t
    (v :: t', o)

/-- A tap or coefficient register: 24 bits, signed. -/
def tap (s : State) (a : Nat) : Int := sext 24 (rf s a 23 0)

/-- Σ h[j] q[m − j], q newest first (R133). -/
def firSum (s : State) (b : Nat) (q : List Int) : Int :=
  ((List.range 64).map fun j => tap s (R.ifcBankH b j) * q.getD j 0).sum

/-- The half-band sum with 0.5 at the centre in Q1.23 (R134). -/
def halfSum (s : State) (b : Nat) (q : List Int) : Int :=
  2 ^ 22 * q.getD 15 0 +
    ((List.range 8).map fun j =>
      tap s (R.ifcBankG b j) * (q.getD (15 - (2 * j + 1)) 0 + q.getD (15 + (2 * j + 1)) 0)).sum

/-- A sample enters a half-band stage; every second one gives an output. -/
def halfStage (s : State) (b : Nat) (st : Nat) (x : Int) (ch : IfcChan) : IfcChan × Option Int :=
  let q := (x :: ch.hb.getD st []).take 31
  let n := ch.hbCount.getD st 0 + 1
  let ch1 := { ch with hb := ch.hb.set st q, hbCount := ch.hbCount.set st n }
  if n % 2 = 0 then
    let (o, f) := q230 (rne (halfSum s b q) 23)
    ({ ch1 with sat := ch1.sat + f }, some o)
  else (ch1, none)

/-- The half-band stages from `st` on, `k` of them. -/
def halfStages (s : State) (b : Nat) : Nat → Nat → Int → IfcChan → IfcChan × Option Int
  | 0, _, x, ch => (ch, some x)
  | k + 1, st, x, ch =>
    match halfStage s b st x ch with
    | (ch1, some o) => halfStages s b k (st + 1) o ch1
    | (ch1, none) => (ch1, none)

/-- One input through the cascade of a channel; `n` is the number of this input since the restart (R131 to R134, R136).
Returns the channel and how many stage outputs saturated. -/
def cascade (s : State) (i b n : Nat) (x : Int) (ch : IfcChan) : IfcChan :=
  let d := ifcD s i
  let (ig, v) := cicIntegrate (BitVec.ofInt 48 x) ch.integ
  let ch0 := { ch with integ := ig }
  if (n + 1) % d ≠ 0 then ch0
  else
    let (cb, y) := cicComb v ch0.comb
    let sh := cicShift d
    let g := divRne (2 ^ (sh + 31)) (d ^ 4)
    let (q, f1) := q230 (rne (y.toInt * g) (sh + 24))
    let qs := (q :: ch0.fir).take 64
    let m := ch0.firCount + 1
    let ch1 := { ch0 with comb := cb, fir := qs, firCount := m, sat := ch0.sat + f1 }
    if m % ifcFdec s i ≠ 0 then ch1
    else
      let (o, f2) := q230 (rne (firSum s b qs) 22)
      let ch2 := { ch1 with sat := ch1.sat + f2 }
      match halfStages s b (ifcH s i) 0 o ch2 with
      | (ch3, some r) => { ch3 with out := r }
      | (ch3, none) => ch3

/-- One input of the averaging mode (R142). -/
def averageIn (s : State) (i n : Nat) (x : Int) (ch : IfcChan) : IfcChan :=
  let r := ifcR s i
  let sum := ch.sum + x
  if (n + 1) % r ≠ 0 then { ch with sum := sum }
  else
    let (o, f) := q230 (rne (sum * divRne (2 ^ 32) r) 25)
    { ch with sum := 0, out := o, sat := ch.sat + f }

/-- `m` saturations of the slot: counter and event (R129). -/
def ifcSatEvent (s : State) (i m : Nat) : State :=
  if m = 0 then s else setBits (bumpN s (R.ifcIsSatCnt i) m) (R.ifcIsEvent i) 4

/-! ### The detector (R144 to R146) -/

/-- 2cos ω of a bin in 2^−30 (R144): one of the two multiples of 2^−30 beside its value. -/
def detC (w : Word) : Int := 2 * (turnCosSin w.toNat).1 / 2 ^ 70 + (if Config.detCosUp w then 1 else 0)

/-- The power in UQ2.62: (2|X| / N)² from the exact sums, with a departure of at most 2^−40 + 2^−20 of it (R145). -/
def detPower (d : Detector) (nn : Nat) : DWord :=
  let p0 : Int := 4 * (d.re * d.re + d.im * d.im) / ((max 1 nn * max 1 nn : Nat) * 2 ^ 210)
  let bound : Int := 2 ^ 22 + p0 / 2 ^ 20
  BitVec.ofNat 64 (satU 64 (p0 + (Config.detErr d.re d.im nn % (2 * bound) - bound + 1)))

/-- The phase in 2^−16 turn: within 2 LSB of arg X where the power is at least 2^−40, free below (R145). -/
def detPhaseOf (d : Detector) (p : DWord) (nn : Nat) : Half :=
  let free := Config.detPhase d.re d.im nn
  if p.toNat < 2 ^ 22 then BitVec.ofNat 16 free
  else BitVec.ofInt 16 (fxAtan2 d.im d.re * 2 ^ 14 / halfPi - 1 + (free % 4 : Nat))

/-- The end of a block: results are taken into the detector together, the events set (R145, R146). -/
def detBlockEnd (s : State) (k : Nat) (d : Detector) (nn : Nat) : State :=
  let p := detPower d nn
  let blocks := (d.blocks + 1) % 2 ^ 31
  let s1 := detSet s k { d with
    n := 0, s1 := 0, s2 := 0, re := 0, im := 0, gap := false, blocks := blocks, power := p
    phase := detPhaseOf d p nn, pstart := d.start
    info := BitVec.ofNat 32 (blocks * 2 + d.gap.toNat) }
  let s2 := setBits s1 R.ifcDetEvent (bitW k)
  if (rd s (R.ifcDetThr k)).toNat < p.toNat / 2 ^ 32 then setBits s2 R.ifcDetAlarm (bitW k) else s2

/-- A sample of `x` in units of 2^−36 enters detector `k`, stamped `t`; `filled` where it is gap-filled (R144, R146). -/
def detSample (s : State) (k : Nat) (x : Int) (t : DWord) (filled : Bool) : State :=
  if !rb s (R.ifcDetCfg k) 31 then s
  else
    let d := detGet s k
    let w := rd s (R.ifcDetW k)
    let v := x + rne (detC w * d.s1) 30 - d.s2
    let (cs, sn) := turnCosSin (w.toNat * d.n)
    let d1 := { d with
      n := d.n + 1, s1 := v, s2 := d.s1, re := d.re + x * cs, im := d.im - x * sn, gap := d.gap || filled
      start := if d.n = 0 then t else d.start }
    let nn := rf s (R.ifcDetCfg k) 16 0
    if nn ≤ d1.n then detBlockEnd s k d1 nn else detSet s k d1

/-- The block in progress is abandoned without a result (R146). -/
def detAbandon (s : State) (k : Nat) : State :=
  detSet s k { detGet s k with n := 0, s1 := 0, s2 := 0, re := 0, im := 0, gap := false }

/-! ### Samples and outputs -/

/-- Input value for a channel: the sample of its source, or the previous input for a gap marker (R139). An ingress channel
that is not enabled has no sample: the value the filter sees there is left open. -/
def ifcInput (s : State) (i src : Nat) (xs : Option (List (Option Int))) (ch : IfcChan) : Int :=
  match xs with
  | none => ch.prev
  | some l =>
    match l.getD src none with
    | some x => x
    | none => sext 24 (Config.freeNat (s.fresh + i))

/-- One sample enters channel `c` of slot `i` as input number `n`, with its detector on the input stream. A pending switch
clears the channel's stages and leaves its outputs on the slot's numbering (R136, R141). -/
def chanSample (i n : Nat) (xs : Option (List (Option Int))) (t : DWord) (s : State) (c : Nat) : State :=
  if !ifcChEn s i c then s
  else
    let sl := ifcSlot s i
    let ch0 := tabGet ifcChan0 sl.ch c
    let takes := ch0.pendingSrc && (!ifcScs s i || n % ifcR s i == 0)
    let ch1 := if takes then
        { ifcChan0 with
          firCount := ch0.firCount, hbCount := ch0.hbCount, prev := ch0.prev, out := ch0.out, sat := ch0.sat
          switchLeft := if ifcScs s i then 1 else ceilDiv (ifcSpan s i) (ifcR s i) }
      else ch0
    let s0 := if takes then setBits (detAbandon s (8 * i + c)) (R.ifcIsEvent i) 8 else s
    let x := ifcInput s i (if ch1.pendingSrc then ch1.src else rf s (R.ifcIsChCfg i c) 18 16) xs ch1
    let b := rf s (R.ifcIsChCfg i c) 2 0
    let ch2 := if ifcScs s i then averageIn s i n x ch1 else cascade s i b n x ch1
    let s1 := ifcSatEvent s0 i (ch2.sat - ch1.sat)
    let s2 := setIfcSlot s1 i { ifcSlot s1 i with
      ch := tabSet ifcChan0 (ifcSlot s1 i).ch c { ch2 with prev := x } }
    if rb s (R.ifcDetCfg (8 * i + c)) 30 then s2
    else detSample s2 (8 * i + c) (x * 2 ^ 13) t xs.isNone

/-- Flags of an output (R137 to R143). -/
def outFlags (s : State) (i k : Nat) (sl : IfcSlot) (gap : Bool) : Nat :=
  let chs := (List.range 8).filter (fun c => ifcChEn s i c)
  let sw := chs.any fun c => decide (0 < (tabGet ifcChan0 sl.ch c).switchLeft)
  let sat := chs.any fun c => decide (0 < (tabGet ifcChan0 sl.ch c).sat)
  let uns := !ifcScs s i && (decide (k < ifcUnsettled s i) || sw)
  uns.toNat + 2 * gap.toNat + 4 * sat.toNat + 8 * sw.toNat + 16 * (ifcScs s i).toNat + 32 * sl.restart.toNat

/-- Byte 15 of an output record: the channels enabled (R137). -/
def ifcMask (s : State) (i : Nat) : Nat := ((List.range 8).map fun c => (ifcChEn s i c).toNat * 2 ^ c).sum

/-- The output formed when input kR + R − 1 has entered (R136): its record is due, its samples go to the detectors on the
output stream, where an output whose window holds a filled sample counts as gap-filled (R139, R146). -/
def formOutput (s : State) (i : Nat) (t : DWord) (gap : Bool) : State :=
  let sl := ifcSlot s i
  let vals := (List.range 8).map fun c => if ifcChEn s i c then (tabGet ifcChan0 sl.ch c).out else 0
  let tm : Int := t.toNat - (rd s (R.ifcIsGdelay i)).toNat
  let fl := outFlags s i sl.k sl gap
  let ch' := (List.range 8).foldl (fun tb c =>
    if ifcChEn s i c then
      let ch := tabGet ifcChan0 tb c
      tabSet ifcChan0 tb c { ch with switchLeft := ch.switchLeft - 1, sat := 0 }
    else tb) sl.ch
  let s1 := setIfcSlot s i { sl with
    k := sl.k + 1, restart := false, seq := sl.seq + 1, due := sl.due ++ [⟨tm, fl, ifcMask s i, sl.seq, vals⟩], ch := ch' }
  (List.range 8).foldl (fun s c =>
    if ifcChEn s i c && rb s (R.ifcDetCfg (8 * i + c)) 30 then
      detSample s (8 * i + c) (vals.getD c 0 * 2 ^ 6) (BitVec.ofInt 64 tm) gap
    else s) s1

/-- Whether slot `i` takes samples: none while ingress has it LOST (R140, R147). -/
def ifcTakes (s : State) (i : Nat) : Bool :=
  rb s R.ifcCtrl 0 && rb s (R.ifcIsCfg i) 31 && !rb s (R.ingIsStatus i) 1 && !s.ifc.failed && blockOn s 10

/-- IFC_SAMPLE: an input sample, or a gap marker where `xs` is none, enters slot `i` (R136, R139). -/
def ifcSample (s : State) (i : Nat) (xs : Option (List (Option Int))) (t : DWord) : State :=
  if !ifcTakes s i then s
  else
    let s0 := if xs.isNone then setBits (bump s (R.ifcIsGapCnt i)) (R.ifcIsEvent i) 2 else s
    let n := (ifcSlot s0 i).n
    let s1 := (List.range 8).foldl (chanSample i n xs t) s0
    let sl := ifcSlot s1 i
    let age : Option Nat := if xs.isNone then some 0 else sl.gapAge.map (· + 1)
    let s2 := setIfcSlot { s1 with fresh := s1.fresh + 4 } i { sl with n := n + 1, gapAge := age }
    if (n + 1) % ifcR s i = 0 then
      formOutput s2 i t (match age with | some a => decide (a < ifcSpan s i) | none => false)
    else s2

/-- R140: a restart of slot `i`: every stage cleared, numbering from 0, the detectors' blocks abandoned. -/
def ifcRestart (s : State) (i : Nat) : State :=
  let sl := ifcSlot s i
  let s1 := setIfcSlot s i { sl with n := 0, k := 0, gapAge := none, restart := true, ch := [] }
  setBits ((List.range 8).foldl (fun s c => detAbandon s (8 * i + c)) s1) (R.ifcIsEvent i) 1

/-- The 64-byte output record (R137). -/
def ifcRecord (i : Nat) (o : IfcDue) : List Byte :=
  let body := leBytesI 8 o.time ++ leBytes 4 o.seq.toNat ++ leBytes 2 o.flags ++ leBytes 1 i ++ leBytes 1 o.mask ++
    (o.samples.map (leBytesI 4)).flatten ++ leBytes 12 0
  body ++ leBytes 4 (crc32c body)

/-- IFC_OUTPUT_RECORD: the oldest due record of slot `i` is written to the ring, OUT_SEM is added behind it, and the samples
are delivered to the track filter unit (R85, R137). -/
def execIfcOutputRecord (i : Fin 4) (s : State) : Out :=
  fabric s fun s =>
    let sl := ifcSlot s i.val
    match sl.due with
    | [] => s
    | o :: rest =>
      let base := (rd64 s (R.ifcIsOutLo i.val) (R.ifcIsOutHi i.val)).toNat
      let slots := 2 ^ rf s (R.ifcIsOutcfg i.val) 3 0
      let a := base + 64 * (o.seq.toNat % slots)
      let s1 := stBytes s a (ifcRecord i.val o)
      let s2 := wr (setIfcSlot s1 i.val { sl with due := rest }) (R.ifcIsSeq i.val) o.seq
      let s3 := signalAfter s2 [(a, 64)] 13 (rf s (R.ifcIsOutcfg i.val) 31 16) 1
      { s3 with ifc := { s3.ifc with delivered := s3.ifc.delivered ++ [⟨i.val, o.time, o.flags, o.samples⟩] } }

/-! ### Configuration (R135, R141, R142, R146 to R148) -/

/-- An IFC_ERR bit with the offset of the first error. -/
def ifcErr (s : State) (b off : Nat) : State := errInfo s R.ifcErr b R.ifcErrInfo (BitVec.ofNat 32 (off % 0x10000))

/-- Whether the configuration of slot `i` may be enabled (R135, R142, R148). -/
def ifcEnableOk (s : State) (i : Nat) : Bool :=
  let per := ifcR s i * (rd s (R.ingIsPeriod i)).toNat
  let nout := rf s (R.ifcIsOutcfg i) 3 0
  let base := (rd64 s (R.ifcIsOutLo i) (R.ifcIsOutHi i)).toNat
  (List.range 8).any (fun c => ifcChEn s i c) &&
  (if ifcScs s i then
    decide (2 ≤ ifcR s i ∧ ifcR s i ≤ 1024 ∧ 1000000 ≤ per ∧ per ≤ 20000000)
   else decide (2 ≤ ifcD s i ∧ ifcD s i ≤ 64 ∧ 125000 ≤ per ∧ per ≤ 20000000)) &&
  semFieldOk (rf s (R.ifcIsOutcfg i) 31 16) && decide (4 ≤ nout ∧ nout ≤ 12) && rangeOk s base (64 * 2 ^ nout)

/-- A write of `IFC_ISi_CFG` (R135, R141): of an enabled slot, only one that clears EN is taken; an enable that fails its
checks leaves EN 0. -/
def ifcCfgWrite (s : State) (i : Nat) (v : Word) : State :=
  let a := R.ifcIsCfg i
  let new := v &&& 0xCE7F07FF
  if rb s a 31 then
    if !bit new 31 then wr s a new else if new = rd s a then s else ifcErr s 1 a
  else if !bit new 31 then wr s a new
  else
    let s1 := wr s a new
    if ifcEnableOk s1 i then
      ifcRestart (setIfcSlot s1 i { ifcSlot s1 i with seq := 0 }) i
    else ifcErr (wr s a (setBit new 31 false)) 0 a

/-- A channel switch: the source in effect stays until the next input sample, or, in SCS mode, until the next output-period
boundary (R141, R143). -/
def ifcSwitch (s : State) (i c : Nat) (new : Word) : State :=
  let a := R.ifcIsChCfg i c
  let sl := ifcSlot s i
  let ch := tabGet ifcChan0 sl.ch c
  wr (setIfcSlot s i { sl with
    ch := tabSet ifcChan0 sl.ch c
      { ch with pendingSrc := true, src := if ch.pendingSrc then ch.src else rf s a 18 16 } }) a new

/-- A write of a channel's configuration (R141): of an enabled channel, one that changes SRC alone is a channel switch, one that
clears EN is taken whole, and any other change is refused; so is one that enables a channel of an enabled slot. While the slot
is disabled the restart at its enable clears every stage, so a new SRC is just written. -/
def ifcChWrite (s : State) (i c : Nat) (v : Word) : State :=
  let a := R.ifcIsChCfg i c
  let new := v &&& 0x80070007
  let on := rb s (R.ifcIsCfg i) 31
  if !bit new 31 then wr s a new
  else if rb s a 31 then
    if new = rd s a then s
    else if fld new 2 0 ≠ rf s a 2 0 then ifcErr s 1 a
    else if on then ifcSwitch s i c new else wr s a new
  else if on then ifcErr s 1 a
  else wr s a new

/-- Whether an enabled channel names bank `b`; its slot's enable and mode are not asked (R147: DEDUCED, log entry 11). -/
def bankUsed (s : State) (b : Nat) : Bool :=
  (List.range 4).any fun i => (List.range 8).any fun c => ifcChEn s i c && rf s (R.ifcIsChCfg i c) 2 0 == b

/-- IFC_CONFIG_WRITE: a write to a slot, channel or bank configuration register at BAR0 offset `addr`. -/
def execIfcConfigWrite (addr : BitVec 24) (v : Word) (s : State) : Out :=
  fabric s fun s =>
    let a := addr.toNat
    match regRow? a with
    | none => s
    | some r =>
      let m := r.rw
      let i := (a - 0x70100) / 0x100
      if m = 0 then s
      else if 0x74000 ≤ a ∧ a < 0x75000 then
        if bankUsed s ((a - 0x74000) / 0x200) then ifcErr s 1 a else wr s a (v &&& m)
      else if a < 0x70100 ∨ 0x70500 ≤ a then s
      else if (a - 0x70100) % 0x100 = 0 then ifcCfgWrite s i v
      else if 0x40 ≤ (a - 0x70100) % 0x100 then ifcChWrite s i (((a - 0x70100) % 0x100 - 0x40) / 4) v
      else if rb s (R.ifcIsCfg i) 31 then (if v &&& m = rd s a then s else ifcErr s 1 a)
      else wr s a (v &&& m)

/-- IFC_CHANNEL_SWITCH: a write of the configuration register of channel `c` of slot `i` (R141, R143). -/
def execIfcChannelSwitch (i : Fin 4) (c : Fin 8) (v : Word) (s : State) : Out :=
  fabric s fun s => ifcChWrite s i.val c.val v

/-- The register of a detector that a write names: DET_CFG, DET_W, DET_THR. -/
def detReg (k : Nat) (r : Nat) : Nat :=
  match r with
  | 0 => R.ifcDetCfg k
  | 1 => R.ifcDetW k
  | _ => R.ifcDetThr k

/-- IFC_DET_CFG_WRITE (R146): of an enabled detector only a write of DET_CFG that clears EN is taken, and it abandons the
block. -/
def execIfcDetCfgWrite (k : Fin 32) (reg : Fin 3) (v : Word) (s : State) : Out :=
  fabric s fun s =>
    let a := detReg k.val reg.val
    let new := if reg.val = 0 then v &&& 0xC001FFFF else v
    if rb s (R.ifcDetCfg k.val) 31 then
      if reg.val = 0 ∧ !bit new 31 then wr (detAbandon s k.val) a new else ifcErr s 1 a
    else wr s a new

/-- IFC_CTRL_WRITE: setting EN restarts every enabled slot and abandons every detector block (R147). -/
def execIfcCtrlWrite (v : Word) (s : State) : Out :=
  fabric s fun s =>
    let s1 := wr s R.ifcCtrl (v &&& 1)
    if bit v 0 && !rb s R.ifcCtrl 0 then
      let s2 := (List.range 32).foldl detAbandon s1
      (List.range 4).foldl (fun s i => if rb s (R.ifcIsCfg i) 31 then ifcRestart s i else s) s2
    else s1

/-- DET_POWER_LO_READ: the block's results are captured together (R146). -/
def execDetPowerLoRead (k : Fin 32) (s : State) : Out :=
  fabric s fun s =>
    let d := detGet s k.val
    let s1 := capture s (R.ifcDetPowerLo k.val) d.power
    let s2 := wr s1 (R.ifcDetPhase k.val) (d.phase.setWidth 32)
    let s3 := wr (wr s2 (R.ifcDetStartLo k.val) (lo32 d.pstart)) (R.ifcDetStartHi k.val) (hi32 d.pstart)
    wr s3 (R.ifcDetInfo k.val) d.info

end Sys2Proof.Machine
end

