-- ==== Sys2Proof/Machine/Memory.lean ====
section
/-! DEFINITION. Contexts' windows, the tile redirect table, the copy engines and the GDDR6 controller (R254 to R285, R575,
R576). -/

namespace Sys2Proof.Machine

/-! ### Windows (R256, R260, R271) -/

/-- The windows of a context as (base, size) in the quota units of each tier, and the home tiles of its grants. -/
structure Win where
  tile : Nat × Nat
  slab : Nat × Nat
  lse : Nat × Nat
  gdr : Nat × Nat
  nbr : List Nat
deriving DecidableEq, Repr

/-- A window register as (base, size). -/
def winReg (s : State) (a : Nat) : Nat × Nat := (rf s a 31 16, rf s a 15 0)

/-- The home tiles of the grants of context `c` (R283). -/
def grantHomes (s : State) (c : Nat) : List Nat :=
  ((List.range 16).filter fun j => rb s (R.memNbr j) 31 && rf s (R.memNbr j) 27 24 == c).map fun j => rf s (R.memNbr j) 22 16

/-- The windows of context `c`. -/
def winOf (s : State) (c : Nat) : Win :=
  ⟨winReg s (R.memCtxWinTile c), winReg s (R.memCtxWinSlab c), winReg s (R.memCtxWinLse c), winReg s (R.memCtxWinGdr c),
    grantHomes s c⟩

/-- Whether `n` bytes from `a` lie in a run of units of size `u` from `b`. -/
def inRun (b u : Nat) (w : Nat × Nat) (a n : Nat) : Bool := decide (b + w.1 * u ≤ a) && decide (a + n ≤ b + (w.1 + w.2) * u)

/-- Whether a range lies in a window of the context, in a host system region or in host memory, on home addresses (R271). -/
def inWindow (s : State) (w : Win) (a n : Nat) : Bool :=
  let m := a / 0x80000
  let slab := rd s R.memSysSlab
  let gdr := rd s R.memSysGdr
  if a < 68 * 0x80000 then
    (m % 17 != 16 && inRun (m * 0x80000) 4096 w.tile a n) || w.nbr.contains m
  else if hostBase ≤ a then true
  else inRun slabBase 0x10000 w.slab a n || inRun lseBase 0x10000 w.lse a n || inRun gdrBase 0x100000 w.gdr a n ||
    inRun slabBase 0x10000 (fld slab 25 16, fld slab 9 0) a n || inRun gdrBase 0x100000 (fld gdr 31 16, fld gdr 15 0) a n

/-! ### Moves under a fence (R262, R263, R266, R267) -/

/-- The physical base that a redirect word names. -/
def redirBase (w : Word) : Nat := if bit w 31 then gdrBase + fld w 15 0 * 0x80000 else fld w 22 16 * 0x80000

/-- The redirect word of a physical tile, and of a GDDR6 area. -/
def toTile (t : Nat) : Word := BitVec.ofNat 32 (t % 128 * 0x10000)
def toArea (a : Nat) : Word := BitVec.ofNat 32 (0x80000000 + a % 65536)

/-- The units at the target of a move that take the poison of source unit `u`. -/
def movedUnits (a b u : Nat) : List Nat :=
  (List.range (max 1 (unitBytes u / unitBytes b))).map fun k => codeUnit (u - a + b + k * unitBytes b)

/-- The 512 KiB at physical address `a` moved to `b`: what can be corrected is, on the way, and what cannot is marked at the
target too (R255, R263). -/
def moveRange (s : State) (a b : Nat) : State :=
  if a = b then s
  else
    let here := fun (k base : Nat) => decide (base ≤ k) && decide (k < base + 0x80000)
    let src := s.mem.filter fun e => here e.1 a
    let m0 := s.mem.filter fun e => !here e.1 b
    let s1 := (s.flips.filter fun u => here u a).foldl corrected s
    let s2 := (s1.poison.filter fun u => here u a).foldl uncorrectable s1
    let new := ((s2.poison.filter fun u => here u a).map (movedUnits a b)).flatten.eraseDups
    { s2 with mem := src.foldl (fun m e => tabSet 0 m (e.1 - a + b) e.2) m0
              flips := s2.flips.filter fun u => !here u b
              poison := (s2.poison.filter fun u => !here u b) ++ new }

/-- A range is fenced and its move begins (R263). -/
def startMove (s : State) (r : Nat) (m : Move) : State :=
  setBits { s with memx := { s.memx with moves := tabSet none s.memx.moves r (some m) } } (R.memRedir r) (bitW 30)

/-- The GDDR6 area of grant `j`'s shadow (R265, R283). -/
def shadowArea (s : State) (j : Nat) : Nat :=
  2 * rf s (R.memCtxWinGdr (rf s (R.memNbr j) 27 24)) 31 16 + rf s (R.memNbr j) 15 0

/-- EVACUATION: grant `j` is moved from its tile to its shadow under a fence (R266). -/
def evacuate (s : State) (j : Nat) : State :=
  startMove s (rf s (R.memNbr j) 22 16) ⟨toArea (shadowArea s j), some j, none⟩

/-- The grant that lies on physical tile `t`. -/
def grantOn (s : State) (t : Nat) : Option Nat :=
  (List.range 16).find? fun j => rb s (R.memNbr j) 31 && !rb s (R.memNbr j) 30 &&
    !rb s (R.memRedir (rf s (R.memNbr j) 22 16)) 31 && rf s (R.memRedir (rf s (R.memNbr j) 22 16)) 22 16 == t

/-- The stores of a list of held bytes, in order of arrival: address and bytes. -/
def heldStores : List HeldByte → List (Nat × Nat × List Byte)
  | [] => []
  | e :: t =>
    match heldStores t with
    | (q, a, l) :: r => if q = e.store ∧ a = e.addr + 1 then (q, e.addr, e.byte :: l) :: r else (e.store, e.addr, [e.byte]) :: (q, a, l) :: r
    | [] => [(e.store, e.addr, [e.byte])]

/-- The held stores of a range issued in order and so acknowledged; the completions and the signals that waited for none but
these follow (R85, R263, R274, R576). -/
def releaseWrites (s : State) (r : Nat) : State :=
  let mine := fun (e : HeldByte) => decide (e.addr / 0x80000 = r)
  let l := s.heldWrites.filter mine
  let s1 := (heldStores l).foldl (fun st e => stBytes st e.2.1 e.2.2) { s with heldWrites := s.heldWrites.filter fun e => !mine e }
  let s2 := { s1 with memx := { s1.memx with
    unacked := s1.memx.unacked.filter fun e => s1.heldWrites.any fun h => h.store == e.2
    deferred := []
    signals := s1.memx.signals.filter fun e => s1.heldWrites.any fun h => e.stores.contains h.store } }
  let s3 := s1.memx.deferred.foldl (fun st d => finish st d.1 d.2.1 d.2.2) s2
  (s1.memx.signals.filter fun e => !s1.heldWrites.any fun h => e.stores.contains h.store).foldl
    (fun st e => signal st e.req e.field e.add) s3

/-- The move of a range ends: contents, redirect entry, held accesses, and the grant's state. -/
def finishMove (s : State) (r : Nat) (m : Move) : State :=
  let s1 := moveRange s (redirBase (rd s (R.memRedir r))) (redirBase m.target)
  let s2 := wr { s1 with memx := { s1.memx with moves := tabSet none s1.memx.moves r none } } (R.memRedir r) m.target
  let s3 := releaseWrites s2 r
  let s4 := match m.evac with
    | some j => bump (setBits (setBits s3 (R.memNbr j) (bitW 30)) R.memEvent 1) R.memEvacCnt
    | none => s3
  match m.restore with
  | some j => setBits (clrBits s4 (R.memNbr j) (bitW 30)) R.memEvent 2
  | none => s4

/-- Whether another range still lies where a move ends and is to be moved away from there first (R249). -/
def targetBusy (s : State) (r : Nat) (m : Move) : Bool :=
  s.memx.moves.any fun e => decide (e.1 ≠ r) && e.2.isSome &&
    decide (redirBase (rd s (R.memRedir e.1)) = redirBase m.target)

/-- RESTORE: a grant evacuated by a rotation step goes back onto the tile that the step released (R267). -/
def execRestore (grant : Nat) (s : State) : Out :=
  fabric s fun s =>
    match tabGet none s.memx.restore grant with
    | some t =>
      if rb s (R.memNbr grant) 31 && rb s (R.memNbr grant) 30 then
        let s1 := { s with memx := { s.memx with restore := tabSet none s.memx.restore grant none } }
        wf (startMove s1 (rf s (R.memNbr grant) 22 16) ⟨toTile t, none, some grant⟩) (R.ttStatus t) 3 0 4
      else s
    | none => s

/-! ### Copy entries (R269 to R273) -/

/-- The rows of an entry: (source, destination). -/
def entryRows (e : List Byte) : List (Nat × Nat) :=
  (List.range (rec8 e 8 4)).map fun i => (rec8 e 16 8 + i * rec8 e 32 4, rec8 e 24 8 + i * rec8 e 36 4)

/-- Whether an entry is a COPY. -/
def isCopy (e : List Byte) : Bool := rec8 e 0 1 == 1

/-- The checks of R271 but the last. -/
def entryForm (s : State) (e : List Byte) : Bool :=
  let n := rec8 e 4 4
  let rows := entryRows e
  decide (rec8 e 0 1 = 1 ∨ rec8 e 0 1 = 2) && decide (rec8 e 1 1 < 2) && decide (1 ≤ n ∧ n ≤ 16777216) &&
  decide (1 ≤ rec8 e 8 4 ∧ rec8 e 8 4 ≤ 65536) && (!isCopy e || decide (n ≤ rec8 e 32 4)) && decide (n ≤ rec8 e 36 4) &&
  zeros e 40 24 &&
  (rows.all fun r => rangeOk s r.2 n && !(decide (semBase ≤ r.2) && decide (r.2 < semBase + 0x4000)) &&
    (!isCopy e || rangeOk s r.1 n)) &&
  (!isCopy e || rows.all fun r => rows.all fun q => !overlaps r.1 n q.2 n)

/-- The last check of R271. -/
def entryInWindow (s : State) (w : Win) (e : List Byte) : Bool :=
  (entryRows e).all fun r => inWindow s w r.2 (rec8 e 4 4) && (!isCopy e || inWindow s w r.1 (rec8 e 4 4))

/-- A MEM_ERR bit with context and register offset or entry index. -/
def memErr (s : State) (b ctx low : Nat) : State :=
  errInfo s R.memErr b R.memErrInfo (BitVec.ofNat 32 (ctx % 16 * 0x1000000 + low % 65536))

/-- An entry checked: whether it stands, and MEM_ERR.RANGE where only the windows refuse it. -/
def checkEntry (s : State) (w : Win) (ctx idx : Nat) (e : List Byte) : Bool × State :=
  if !entryForm s e then (false, s)
  else if entryInWindow s w e then (true, s)
  else (false, memErr s 2 ctx idx)

/-- The lines of a row by destination line: (source, destination, length). -/
def rowLines : Nat → Nat → Nat → Nat → List (Nat × Nat × Nat)
  | 0, _, _, _ => []
  | k + 1, src, dst, n =>
    if n = 0 then []
    else
      let m := min n (64 - dst % 64)
      (src, dst, m) :: rowLines k (src + m) (dst + m) (n - m)

/-- The lines of an entry in order of issue (R272). -/
def entryLines (e : List Byte) : List (Nat × Nat × Nat) :=
  ((entryRows e).map fun r => rowLines (rec8 e 4 4) r.1 r.2 (rec8 e 4 4)).flatten

/-- The bytes of a line: copied, or the pattern repeated from the destination of its row. -/
def lineData (s : State) (e : List Byte) (l : Nat × Nat × Nat) : List Byte :=
  if isCopy e then ldBytes s l.1 l.2.2
  else
    let row := (entryRows e).foldl (fun d r => if r.2 ≤ l.2.1 then r.2 else d) l.2.1
    (List.range l.2.2).map fun i => BitVec.ofNat 8 (rec8 e 12 4 / 256 ^ ((l.2.1 - row + i) % 4))

/-- Lines moved in order until one reads poisoned or refused data; the lines written and whether all were (R272, R275). -/
def moveLines (e : List Byte) : List (Nat × Nat × Nat) → State → Nat → State × Nat × Bool
  | [], s, n => (s, n, true)
  | l :: t, s, n =>
    if (isCopy e && glideRefused s l.1 l.2.2) || glideRefused s l.2.1 l.2.2 then (glideErr s, n, false)
    else
      let s1 := if isCopy e then noteRead s l.1 l.2.2 else s
      if isCopy e && poisoned s l.1 l.2.2 then (s1, n, false)
      else moveLines e t (stBytes s1 l.2.1 (lineData s e l)) (n + 1)

/-! ### Copy jobs (R268, R274, R275) -/

/-- The job on engine `e`. -/
def ceJob (s : State) (e : Nat) : Option CopyJob := tabGet none s.memx.ce e

/-- The job on engine `e` replaced, with its status register: context and entries done (R283). -/
def setCe (s : State) (e : Nat) (j : Option CopyJob) : State :=
  let w := match j with
    | some c => 0x80000000 + c.job.ctx % 16 * 0x1000000 + (c.idx + (c.status == some 0).toNat) % 65536
    | none => 0
  wr { s with memx := { s.memx with ce := tabSet none s.memx.ce e j } } (R.memCeStatus e) (BitVec.ofNat 32 w)

/-- The key under which start-gate copies wait for an engine of their group. -/
def sgCopyKey : Nat := 0x1F

/-- The engines of a group: CE0 to CE11, and CE12 to CE15 for start gates (R268). -/
def groupEngines (g : Nat) : List Nat := if g = 0 then List.range 12 else [12, 13, 14, 15]

/-- The lowest idle engine of a group. -/
def idleEngine (s : State) (g : Nat) : Option Nat := (groupEngines g).find? fun e => (ceJob s e).isNone

/-- COPY_JOB_START: the first waiting job of a group takes the lowest idle engine (R268). -/
def execCopyJobStart (g : Fin 2) (s : State) : Out :=
  fabric s fun s =>
    let k := if g.val = 0 then 0x11 else sgCopyKey
    match startedAt s k, idleEngine s g.val with
    | j :: rest, some e => setCe (setStarted s k rest) e (some ⟨j, [j.block], 0, 0, none⟩)
    | _, _ => s

/-- A plan of a loaded context (R269). -/
def planOf (s : State) (c i : Nat) : Option (List (List Byte)) :=
  match tabGet none s.memx.ctx c with
  | some x => match tabGet [] x.plans i with
    | [] => none
    | l => some l
  | none => none

/-- The entry in hand: of an entry array it is read where it stands (R462). A job's `latch` is [n, address] for an array. -/
def curEntry (s : State) (c : CopyJob) : List Byte :=
  match c.job.latch with
  | [_, a] => ldBytes s (a + 64 * c.idx) 64
  | _ => c.entries.headD []

/-- The entries a job has. -/
def entryCount (c : CopyJob) : Nat :=
  match c.job.latch with
  | [n, _] => n
  | _ => c.idx + c.entries.length

/-- The entry in hand is done: the next comes, or the job's work has ended. -/
def nextEntry (c : CopyJob) (lines : Nat) : CopyJob :=
  if c.idx + 1 < entryCount c then { c with entries := c.entries.drop 1, idx := c.idx + 1, lines := 0 }
  else { c with lines := lines, status := some 0 }

/-- Whether an entry carries FENCE. -/
def fenceFlag (e : List Byte) : Bool := rec8 e 1 1 % 2 == 1

/-- The entry in hand of engine `e`, of opcode `op`, is checked and its lines move; one with FENCE waits until every store of
the earlier entries has been acknowledged (R272, R576). -/
def runEntry (op e : Nat) (s : State) : State :=
  match ceJob s e with
  | none => s
  | some c =>
    if c.status.isSome || abortAsked s c.job.owner then s
    else
      let x := curEntry s c
      if rec8 x 0 1 = 3 ∧ c.job.latch = [] ∧ c.entries.length = 1 ∧ c.idx = 0 then s
      else if rec8 x 0 1 ≠ op ∧ (rec8 x 0 1 = 1 ∨ rec8 x 0 1 = 2) then s
      else if fenceFlag x && unacked s c.job.owner then s
      else
        let (ok, s1) := checkEntry s (winOf s c.job.ctx) c.job.ctx c.idx x
        if !ok then setCe s1 e (some { c with lines := 0, status := some 0x23 })
        else
          let (s2, n, all) := moveLines x (entryLines x) s1 0
          let s3 := issued c.job.owner s (bumpN s2 R.memLines n)
          if all then setCe s3 e (some (nextEntry c n)) else setCe s3 e (some { c with lines := n, status := some 0x26 })

/-- COPY: the COPY entry in hand of an engine moves its row ranges. -/
def execCopy (e : Fin 16) (s : State) : Out := fabric s (runEntry 1 e.val)

/-- FILL: the FILL entry in hand of an engine writes its pattern. -/
def execFill (e : Fin 16) (s : State) : Out := fabric s (runEntry 2 e.val)

/-- PLAN: a PLAN job block on an engine takes the entries of the plan it names (R269). -/
def execPlan (e : Fin 16) (s : State) : Out :=
  fabric s fun s =>
    match ceJob s e.val with
    | none => s
    | some c =>
      let x := c.entries.headD []
      if c.status.isSome || abortAsked s c.job.owner || rec8 x 0 1 != 3 || c.job.latch != [] then s
      else if rec8 x 1 1 < 2 ∧ zeros x 40 24 = true then
        match planOf s c.job.ctx (rec8 x 2 2) with
        | some l => setCe s e.val (some { c with entries := l, idx := 0 })
        | none => setCe s e.val (some { c with status := some 0x23 })
      else setCe s e.val (some { c with status := some 0x23 })

/-- The end of the job on engine `e` with a status and the lines of its last entry. -/
def copyDone (s : State) (e : Nat) (c : CopyJob) (st lines : Nat) : State :=
  finish (bumpWrap (setCe s e none) R.memCopies) c.job.owner st (leBytes 4 lines ++ leBytes 2 c.idx)

/-- COPY_JOB_END: a job whose work has ended reports once every store it issued has been acknowledged; one asked to abort stops
after the line in flight, at a line the spec leaves open, and ends ERR_ABORTED (R273 to R275). -/
def execCopyJobEnd (e : Fin 16) (s : State) : Out :=
  fabric s fun s =>
    match ceJob s e.val with
    | none => s
    | some c => match c.status with
      | some st =>
        if unacked s c.job.owner then s else copyDone s e.val c (if abortAsked s c.job.owner then 0x28 else st) c.lines
      | none =>
        if abortAsked s c.job.owner then
          let x := curEntry s c
          let (ok, s1) := checkEntry s (winOf s c.job.ctx) c.job.ctx c.idx x
          let (k, s2) := drawNat s1
          let l := if ok && !(fenceFlag x && unacked s c.job.owner) then entryLines x else []
          let (s3, n, _) := moveLines x (l.take (k % (l.length + 1))) s2 0
          let s4 := issued c.job.owner s (bumpN s3 R.memLines n)
          if unacked s4 c.job.owner then setCe s4 e.val (some { c with lines := n, status := some 0x28 })
          else copyDone s4 e.val c 0x28 n
        else s

/-- A start gate's copy plan (R59, R268): whether the firing failed; a job that finds no idle engine waits and is counted. -/
def startGateCopy (s : State) (n c plan : Nat) : State × Bool :=
  if (planOf s c plan).isNone || !unitReady s 0x11 then (s, true)
  else
    let j : Job := ⟨.startGate n, 0x11, c, 0, [3, 0] ++ leBytes 2 plan ++ leBytes 60 0, none, []⟩
    let s1 := setStarted s sgCopyKey (startedAt s sgCopyKey ++ [j])
    let waits := decide (((groupEngines 1).filter fun e => (ceJob s e).isNone).length ≤ (startedAt s sgCopyKey).length)
    (when waits (fun s => setBits (bump s R.memSgWaitCnt) R.memEvent 4) s1, false)

/-! ### The GDDR6 controller (R277 to R281) -/

/-- GDR_RETRAIN: the interval expires and the channel whose turn it is is retrained. -/
def execGdrRetrain (ch : Fin 16) (ok : Bool) (s : State) : Out :=
  fabric s fun s =>
    if ch.val = s.memx.retrain % 16 ∧ rb s R.gdrStatus 0 = true then
      retrain { s with memx := { s.memx with retrain := (ch.val + 1) % 16 } } ch.val ok
    else s

/-- Lines of the fitted GDDR6 (R281). -/
def fittedLines (s : State) : Nat := (if s.straps.getLsbD 4 then 32 else 16) * 0x1000000

/-- GDR_SCRUB_READ: the patrol reads its next line, with all that a read of it does (R277, R279, R281). -/
def execGdrScrubRead (s : State) : Out :=
  fabric s fun s =>
    if !(rb s R.gdrScrub 31 && rb s R.gdrStatus 0) then s
    else
      let line := s.memx.scrub
      let next := (line + 1) % fittedLines s
      noteRead (wr { s with memx := { s.memx with scrub := next } } R.gdrScrubPos (BitVec.ofNat 32 (next / 16384)))
        (gdrBase + 64 * line) 64

/-- GDR_ERR_ADDR_LO_READ. -/
def execGdrErrAddrLoRead (s : State) : Out :=
  fabric s fun s => capture s R.gdrErrAddrLo (rd64 s R.gdrErrAddrLo R.gdrErrAddrHi)

end Sys2Proof.Machine
end

