-- ==== Sys2Proof/Machine/Tiles.lean ====
section
/-! DEFINITION. Tensor tiles: jobs, passes, the requantiser and the non-linear unit, stochastic rounding, monitors, checksum
outcomes, takeovers (R227 to R253). -/

namespace Sys2Proof.Machine

/-! ### The logical map (R227, R262) -/

/-- The home tile of a logical tile: LT(16p + k) at TT(17p + k). -/
def homeOf (l : Nat) : Nat := l / 16 * 17 + l % 16

/-- The device address of a logical tile's local memory: its home address, redirected as every access is. -/
def localBase (l : Nat) : Nat := homeOf l * 0x80000

/-- LOGICAL, LOGICAL2 and STATE of a physical tile. -/
def ttLogical (s : State) (n : Nat) : Nat := rf s (R.ttStatus n) 31 24
def ttLogical2 (s : State) (n : Nat) : Nat := rf s (R.ttStatus n) 23 16
def ttState (s : State) (n : Nat) : Nat := rf s (R.ttStatus n) 3 0

/-- STATE of a tile set. -/
def setTtState (s : State) (n v : Nat) : State := wf s (R.ttStatus n) 3 0 v

/-- Memory that loses its supply keeps nothing (R499); it reads then as memory that nothing has written (log entry 25). -/
def forget (s : State) (a n : Nat) : State :=
  let keep := fun (x : Nat) => !(decide (a ≤ x) && decide (x < a + n))
  { s with mem := s.mem.filter fun e => keep e.1, poison := s.poison.filter keep, flips := s.flips.filter keep }

/-- A tile is free, and switched off (R499, R500). -/
def tileFree (s : State) (n : Nat) : State := forget (setTtState s n 3) (0x80000 * n) 0x80000

/-- A TT_EVENT bit. -/
def ttEvent (s : State) (n b : Nat) : State := setBits s (R.ttEvent n) (bitW b)

/-- The physical tile that holds logical tile `l`, unless it is FAILED. -/
def tileOf (s : State) (l : Nat) : Option Nat :=
  (List.range 68).find? fun n => (ttLogical s n == l || ttLogical2 s n == l) && ttState s n != 7

/-- Whether a logical tile is cross-piste or folded, the second on its tile (R249, R251). -/
def remapped (s : State) (l : Nat) : Bool :=
  match tileOf s l with
  | some n => decide (n / 17 ≠ l / 16) || ttLogical2 s n == l
  | none => false

/-! ### The arithmetic of a pass (R229 to R235) -/

/-- The bytes of an activation in a mode. -/
def actBytes (mode : Nat) : Nat := if mode ≤ 1 then 1 else 2

/-- The device address of a region of a job (its state slots lie in the job's own copy, from 0). -/
def refBase (j : Job) : TileRef → Nat
  | .input => rec8 j.block 8 8
  | .output => rec8 j.block 16 8
  | .slots => 0
  | .local t => localBase t

/-- The bytes of a matrix element. -/
def refBytes (s : State) (t : TileJob) (r : TileRef) (off n : Nat) : List Byte :=
  match r with
  | .slots => slice t.slots off n
  | .input | .output | .local _ => ldBytes s (refBase t.job r + off) n

/-- a′: the activation of row `i` at `k`, less the zero point. -/
def activation (s : State) (t : TileJob) (p : TilePass) (i k : Nat) : Int :=
  let b := actBytes p.mode
  recS (refBytes s t p.a (p.aOff + i * p.aPitch + k * b) b) 0 b - p.zpA

/-- The weight at `k` of column `j`; mode 1 packs two values of k in a byte (R230). -/
def weight (s : State) (p : TilePass) (k j : Nat) : Int :=
  let base := localBase p.tile + p.wOff
  match p.mode with
  | 1 => sext 4 (ldN s (base + k / 2 * p.wPitch + j) 1 / 16 ^ (k % 2))
  | 3 => ldS s (base + k * p.wPitch + 2 * j) 2
  | _ => ldS s (base + k * p.wPitch + j) 1

/-- W of a mode: the width of an accumulator (R9). -/
def accWidth (mode : Nat) : Nat := if mode ≤ 1 then 32 else 48

/-- The products per cell that a pass has formed at its comparison number `q`, counted from 0: 16,384 cycles lie between two
comparisons, and the last is at the end (R229, R246). -/
def pointK (p : TilePass) (q : Nat) : Nat :=
  let step := match p.mode with | 0 => 16384 | 1 => 32768 | 2 => 8192 | _ => 4096
  min p.k ((q + 1) * step)

/-- What faults have added to an accumulator. -/
def errAt (errs : List AccErr) (i j : Nat) : Int := ((errs.filter fun e => e.row.val == i && e.col.val == j).map AccErr.delta).sum

/-- The sums of a pass over its first products: the accumulators C, and the sums of the checksum column and row, each with what
faults have added (R229 to R231, R246). -/
structure PassSums where
  cells : List (List Int)
  cCol : List Int
  cRow : List Int
deriving DecidableEq, Repr

/-- The sums of pass `p` over its first `n` products. -/
def passSums (s : State) (t : TileJob) (p : TilePass) (n : Nat) (errs : List AccErr) : PassSums :=
  let act := (List.range 32).map fun i => (List.range n).map fun k => activation s t p i k
  let wts := (List.range 32).map fun j => (List.range n).map fun k => weight s p k j
  let dot := fun (u v : List Int) => (List.zipWith (fun x y => x * y) u v).sum
  let total := fun (m : List (List Int)) => m.foldl (List.zipWith (fun x y => x + y)) (List.replicate n 0)
  let w := accWidth p.mode
  { cells := act.zipIdx.map fun a => wts.zipIdx.map fun b =>
      sext w ((dot a.1 b.1 + errAt errs a.2 b.2) % 2 ^ w).toNat
    cCol := act.zipIdx.map fun a => dot a.1 (total wts) + errAt errs a.2 32
    cRow := wts.zipIdx.map fun b => dot (total act) b.1 + errAt errs 32 b.2 }

/-- The rows and columns whose comparison fails, modulo 2^W (R246). -/
def failing (mode : Nat) (x : PassSums) : List Nat × List Nat :=
  let ne := fun (a b : Int) => decide ((a - b) % 2 ^ accWidth mode ≠ 0)
  ((List.range 32).filter fun i => ne (x.cells.getD i []).sum (x.cCol.getD i 0),
   (List.range 32).filter fun j => ne (x.cells.map fun r => r.getD j 0).sum (x.cRow.getD j 0))

/-- A channel record. -/
structure ChanRec where
  bias : Int
  shift : Nat
  rnd : Nat
  nl : Bool
  nlb : Nat
  nls : Nat
  m : Int
  zp : Int
  lo : Int
  hi : Int
  out : Nat
deriving DecidableEq, Repr

/-- A channel record from its 32 bytes. -/
def chanRec (b : List Byte) : ChanRec :=
  let f := rec8 b 7 1
  ⟨recS b 0 6, rec8 b 6 1 % 64, f % 4, f / 4 % 2 == 1, f / 8 % 2, f / 16, recS b 8 4, recS b 12 4, recS b 16 4, recS b 20 4,
    rec8 b 24 1 % 4⟩

/-- R232: whether a channel record keeps its ranges. -/
def chanOk (b : List Byte) : Bool :=
  let c := chanRec b
  let n := if c.out = 0 then 8 else if c.out = 1 then 16 else 32
  let inOut := fun (v : Int) => decide (satS n v = v)
  decide (rec8 b 6 1 ≤ 63) && decide (c.rnd ≤ 2) && decide (c.nls ≤ 8) && decide (rec8 b 24 1 ≤ 3) && zeros b 25 7 &&
    inOut c.zp && inOut c.lo && inOut c.hi && decide (c.lo ≤ c.hi)

/-- One step of the lane's Fibonacci LFSR, taps 16, 14, 13 and 11. -/
def lfsrStep (v : Nat) : Nat :=
  let b := (v + v / 4 + v / 8 + v / 32) % 2
  v / 2 + 32768 * b

/-- The seed of a lane (R237). -/
def laneSeed (sd lane : Nat) : Nat :=
  let l := (sd + 0x9E37 * lane) % 65536
  if l = 0 then 0xACE1 else l

/-- The non-linear unit: output and whether its clamp changed the value (R235). -/
def nlUnit (entry : Nat → Word) (x : Int) : Int × Bool :=
  let u := (x + 32768).toNat
  let e := entry (u / 256)
  let z := sext 16 (fld e 31 16) + rne (sext 16 (fld e 15 0) * (u % 256 : Nat)) 8
  (satS 16 z, ovfS 16 z)

/-- A requantised element: y, q for the monitors (t for RAW32), t, whether each saturation counted, and the lane's LFSR
after it (R233, R234, R237). -/
structure Requant where
  y : Int
  q : Int
  t : Int
  satRq : Bool
  satNl : Bool
  lane : Nat
deriving DecidableEq, Repr

/-- The requantiser. -/
def requant (entry : Nat → Word) (c : ChanRec) (lane : Nat) (acc : Int) : Requant :=
  let t := acc + c.bias
  if c.out = 3 then ⟨satS 32 t, satS 32 t, t, ovfS 32 t, false, lane⟩
  else
    let d := 31 + c.shift
    let r := if c.rnd = 0 then rne (t * c.m) d else if c.rnd = 1 then rha (t * c.m) d else srRound (t * c.m) d lane
    let q := satS 32 r
    let x := satS 16 q
    let z := nlUnit entry x
    let v := if c.nl then rne z.1 c.nls else q
    let y := max c.lo (min (v + c.zp) c.hi)
    ⟨y, q, t, ovfS 32 r || decide (y ≠ v + c.zp), c.nl && (ovfS 16 q || z.2), if c.rnd = 2 then lfsrStep lane else lane⟩

/-- Bytes of an output element. -/
def outBytes (o : Nat) : Nat := if o = 0 then 1 else if o = 1 then 2 else 4

/-- A monitor that has seen nothing. -/
def mon0 : TileMon := ⟨false, 0, 0, 0, 0⟩

/-- floor(log2 v) + 1; 0 for 0. -/
def bitLen (v : Nat) : Nat := if v = 0 then 0 else Nat.log2 v + 1

/-- A monitor takes an element (R240). -/
def monTake (m : TileMon) (r : Requant) : TileMon :=
  ⟨true, if m.seen then min m.least r.q else r.q, if m.seen then max m.most r.q else r.q, max m.bits (bitLen r.t.natAbs),
    m.sat + r.satRq.toNat⟩

/-- The bank entries of a logical tile. -/
def bankEntry (s : State) (l bank i : Nat) : Word := tabGet 0 s.tiles.banks (512 * l + 256 * (bank % 2) + i % 256)

/-- A bank of a logical tile loaded from its local memory; the tile's registers show it (R236). -/
def loadBank (s : State) (n l bank off : Nat) : State :=
  (List.range 256).foldl (fun st i =>
    let w := BitVec.ofNat 32 (ldN st (localBase l + off + 4 * i) 4)
    let st1 := { st with tiles := { st.tiles with banks := tabSet 0 st.tiles.banks (512 * l + 256 * (bank % 2) + i) w } }
    wr st1 (if bank % 2 = 0 then R.ttNl0 n i else R.ttNl1 n i) w) s

/-- What a pass leaves: the writes to make as (offset, bytes), lanes, counts and monitors. -/
structure PassAcc where
  writes : List (Nat × List Byte)
  lanes : Tab Nat
  satRq : Nat
  satNl : Nat
  mons : Tab TileMon
deriving DecidableEq, Repr

/-- One element of a pass. -/
def passElem (s : State) (t : TileJob) (p : TilePass) (cells : List (List Int)) (a : PassAcc) (i j : Nat) : PassAcc :=
  let c := chanRec (ldBytes s (localBase p.tile + p.chOff + 32 * j) 32)
  let key := 32 * p.tile + j
  let r := requant (bankEntry s p.tile c.nlb) c (tabGet (laneSeed t.seed key) a.lanes key) ((cells.getD i []).getD j 0)
  let n := outBytes c.out
  { writes := a.writes ++ [(p.dOff + i * p.dPitch + j * n, leBytesI n r.y)]
    lanes := tabSet (laneSeed t.seed key) a.lanes key r.lane
    satRq := a.satRq + r.satRq.toNat
    satNl := a.satNl + r.satNl.toNat
    mons := match p.mon.getD j none with
      | some ch => if rec8 t.job.block 1 1 % 2 = 1 then tabSet mon0 a.mons ch (monTake (tabGet mon0 a.mons ch) r) else a.mons
      | none => a.mons }

/-- The elements of a pass, column by column, rows rising. -/
def passElems (s : State) (t : TileJob) (p : TilePass) (cells : List (List Int)) : PassAcc :=
  (List.range 32).foldl (fun a j => (List.range 32).foldl (fun a i => passElem s t p cells a i j) a)
    ⟨[], t.lanes, 0, 0, t.mons⟩

/-- Bytes placed in the job's copy of its state slots. -/
def putSlots (l : List Byte) (off : Nat) (b : List Byte) : List Byte := l.take off ++ b ++ l.drop (off + b.length)

/-- The ranges that a pass reads: activations where they lie in memory, weights, channel records and tables (start, size). -/
def passReads (t : TileJob) (p : TilePass) : List (Nat × Nat) :=
  let rows := if p.mode = 1 then (p.k + 1) / 2 else p.k
  (if p.a = .slots then [] else [(refBase t.job p.a + p.aOff, 31 * p.aPitch + p.k * actBytes p.mode)]) ++
    [(localBase p.tile + p.wOff, (rows - 1) * p.wPitch + (if p.mode = 3 then 64 else 32)), (localBase p.tile + p.chOff, 1024)] ++
    p.nl.map fun b => (localBase p.tile + b.2, 1024)

/-! ### Jobs (R241, R242, R245) -/

/-- A running job replaced, or removed. -/
def setTileJob (s : State) (t : TileJob) : State :=
  { s with tiles := { s.tiles with running := s.tiles.running.map fun x => if x.id = t.id then t else x } }
def dropTileJob (s : State) (id : Nat) : State :=
  { s with tiles := { s.tiles with running := s.tiles.running.filter fun x => x.id ≠ id } }

/-- The program of a context. -/
def progOf (s : State) (c i : Nat) : Option TileProg :=
  match tabGet none s.memx.ctx c with
  | some x => tabGet none x.progs i
  | none => none

/-- Bytes of a job's record. -/
def tileRecordSize (p : TileProg) (mon : Bool) : Nat := if mon then 64 + 16 * p.monitored else 64

/-- The checks of R241 on a job block for a program. -/
def tileBlockOk (s : State) (b : List Byte) (p : TileProg) : Bool :=
  let region := fun (a n : Nat) => engineRange s a (max 1 n)
  let n := rec8 b 34 2
  decide (rec8 b 0 1 = 1) && decide (rec8 b 1 1 < 4) && zeros b 6 2 && zeros b 36 28 && decide (rec8 b 2 2 ≤ 1023) &&
    decide (rec8 b 32 2 ≤ 4095) && decide (n ≤ p.maxSlots) && decide (rec8 b 32 2 + n ≤ 4096) &&
    (decide (p.maxSlots = 0) == decide (n = 0)) &&
    region (rec8 b 8 8) p.inSize && region (rec8 b 16 8) p.outSize &&
    region (rec8 b 24 8) (tileRecordSize p (rec8 b 1 1 % 2 == 1))

/-- Whether the state slots of a block overlap those of a running job. -/
def slotsClash (b : List Byte) (t : TileJob) : Bool :=
  overlaps (rec8 b 32 2) (rec8 b 34 2) (rec8 t.job.block 32 2) (rec8 t.job.block 34 2)

/-! ### Where a logical tile goes when its tile fails (R249) -/

/-- Whether a rotation step is moving a logical tile onto physical tile `n` (R489). -/
def rotTakes (s : State) (n : Nat) : Bool :=
  match tabGet none s.safe.rot (n / 17) with
  | some r => decide (r.stage = .moving) && r.standIn == n
  | none => false

/-- The free tile of a piste, unless a rotation step is moving a logical tile onto it. -/
def freeTile (s : State) (p : Nat) : Option Nat :=
  ((List.range 17).map fun k => 17 * p + k).find? fun n =>
    ttLogical s n == 0xFF && (ttState s n == 3 || ttState s n == 4 || ttState s n == 5) && !rotTakes s n

/-- Whether a rotation step of piste `p` is moving its logical tile. -/
def rotMoving (s : State) (p : Nat) : Bool :=
  match tabGet none s.safe.rot p with
  | some r => decide (r.stage = .moving)
  | none => false

/-- The tile that a fold of logical tile `l` on tile `n` takes: that of the next logical tile of the piste that holds one. -/
def foldTile (s : State) (n l : Nat) : Option Nat :=
  ((List.range 15).map fun i => l / 16 * 16 + (l % 16 + 1 + i) % 16).findSome? fun l' =>
    match tileOf s l' with
    | some m => if m ≠ n ∧ ttLogical2 s m = 0xFF ∧ ttLogical s m = l' then some m else none
    | none => none

/-- Where the logical tile goes, with the way: 0 free tile of the piste, 1 of another piste, 2 a fold. -/
def takeoverTarget (s : State) (n l : Nat) : Option (Nat × Nat) :=
  match freeTile s (l / 16) with
  | some f => some (f, 0)
  | none =>
    match (List.range 4).findSome? fun p => freeTile s p with
    | some f => some (f, 1)
    | none => (foldTile s n l).map fun m => (m, 2)

/-! ### The start of a job (R242) -/

/-- Whether a logical tile lies on a halted tile that it is still to be moved from (R248, R249): it is not idle. -/
def awaitsMove (s : State) (l : Nat) : Bool :=
  (List.range 68).any fun n => (ttLogical s n == l || ttLogical2 s n == l) && rb s (R.ttChkLast n) 30 &&
    (takeoverTarget s n l).isSome

/-- R242: whether a job may start now. A block that names no loaded program may start, and fails its checks. -/
def tileMayStart (s : State) (c : Nat) (b : List Byte) : Bool :=
  match progOf s c (rec8 b 2 2) with
  | none => true
  | some p => decide (s.tiles.running.length < 16) &&
      (s.tiles.running.all fun t => !(p.tiles.any fun l => t.p.tiles.contains l) && !slotsClash b t) &&
      !p.tiles.any (awaitsMove s)

/-- A job that fails the checks of R241 writes only the status byte of its record. -/
def tileRefuse (s : State) (j : Job) : State :=
  let a := rec8 j.block 24 8 + 13
  report (if engineRange s a 1 then jobStore j s a [0x23] else s) j.owner 0x23

/-- The start of a job: seed, counters, state slots read into the tiles. -/
def tileStart (s : State) (j : Job) (p : TileProg) : State :=
  let b := j.block
  let sd := if rec8 b 1 1 / 2 % 2 = 1 then rec8 b 4 2 else s.dt.now.toNat / 16 % 65536
  let base := p.slotBase + 512 * rec8 b 32 2
  let bad := badData s [(base, 512 * rec8 b 34 2)] && decide (rec8 b 34 2 ≠ 0)
  let s0 := noteReads s [(base, 512 * rec8 b 34 2)]
  let noTile := p.tiles.any fun l => (tileOf s l).isNone
  let t : TileJob := ⟨s.tiles.nextJob, j, rec8 b 2 2, p, s.dt.now, sd, rec8 b 32 2, ldBytes s base (512 * rec8 b 34 2), p.passes,
    [], 0, 0, [], 0, 0, [], [], 0, if bad || noTile then some 0x26 else none, 0⟩
  let s1 := { s0 with tiles := { s.tiles with running := s.tiles.running ++ [t], nextJob := s.tiles.nextJob + 1 } }
  p.tiles.foldl (fun st l =>
    match tileOf st l with
    | some n => setTtState (wr (bumpWrap st (R.ttJobs n)) (R.ttLastSeed n) (BitVec.ofNat 32 sd)) n 2
    | none => st) s1

/-- TILE_RUN: the job that the tile unit has taken from its queue starts, when its tiles and state slots are free. -/
def execTileRun (s : State) : Out :=
  fabric s fun s =>
    match startedAt s 0x10 with
    | [] => s
    | j :: rest =>
      if !tileMayStart s j.ctx j.block then s
      else
        let s1 := setStarted s 0x10 rest
        match progOf s j.ctx (rec8 j.block 2 2) with
        | none => tileRefuse s1 j
        | some p => if tileBlockOk s j.block p then tileStart s1 j p else tileRefuse s1 j

/-! ### Passes (R246 to R248) -/

/-- Whether pass `p` has to wait for an earlier pass `q`: the same logical tile, or one reads what the other writes. -/
def passWaits (q p : TilePass) : Bool :=
  decide (q.tile = p.tile) || decide (q.dst = p.a) || decide (q.dst = .local p.tile) || decide (p.dst = q.a) ||
    decide (p.dst = .local q.tile)

/-- The next pass of a logical tile that no earlier pass holds back, with the others. -/
def nextPass (ls : List Nat) : List TilePass → List TilePass → Option (TilePass × List TilePass)
  | _, [] => none
  | before, p :: t =>
    if ls.contains p.tile && !(before.any fun q => passWaits q p) then some (p, before ++ t)
    else nextPass ls (before ++ [p]) t

/-- The logical tiles of a physical tile. -/
def tilesOn (s : State) (n : Nat) : List Nat :=
  [ttLogical s n, ttLogical2 s n].filter fun l => decide (l < 64)

/-- TT_CHK_LAST of a mismatch: the lowest failing row and column, 0 where none fails (R248). A residue mismatch beside no failing
comparison records none. -/
def chkWord (rows cols : List Nat) (perm : Bool) : Word :=
  let kind := (!rows.isEmpty).toNat + 2 * (!cols.isEmpty).toNat
  BitVec.ofNat 32 (0x80000000 + perm.toNat * 0x40000000 + kind * 0x10000000 + rows.headD 0 * 0x10000 + cols.headD 0 * 0x100)

/-- Whether a physical tile has halted on a permanent fault, whatever job or logical tile met it (R248). -/
def tileHalted (s : State) (n : Nat) : Bool := rb s (R.ttChkLast n) 30

/-- A job's pass on logical tile `l` begins from its start. -/
def restartPass (t : TileJob) (l : Nat) : TileJob := { t with part := tabSet ⟨0, []⟩ t.part l ⟨0, []⟩ }

/-- A pass whose check passed: banks, requantised outputs, counters (R233 to R240, R247). -/
def passDone (s : State) (n : Nat) (t : TileJob) (p : TilePass) (left : List TilePass) (cells : List (List Int)) : State :=
  let s1 := p.nl.foldl (fun st b => loadBank st n p.tile b.1 b.2) (noteReads s (passReads t p))
  let a := passElems s1 t p cells
  let t1 := restartPass { t with
    left := left, passes := t.passes + 1, lastTile := n, retry := t.retry.filter fun l => l ≠ p.tile } p.tile
  let s2 := bumpWrap s1 (R.ttPasses n)
  if badData s (passReads t p) then setTileJob s2 { t1 with status := some 0x26 }
  else
    let s3 := bumpN (bumpN s2 (R.ttSatRq n) a.satRq) (R.ttSatNl n) a.satNl
    let t2 := { t1 with lanes := a.lanes, mons := a.mons, satRq := t.satRq + a.satRq, satNl := t.satNl + a.satNl }
    match p.dst with
    | .slots => setTileJob s3 { t2 with slots := a.writes.foldl (fun l w => putSlots l w.1 w.2) t.slots }
    | .input | .output | .local _ =>
      setTileJob (issued t.job.owner s3 (a.writes.foldl (fun st w => stBytes st (refBase t.job p.dst + w.1) w.2) s3)) t2

/-- The tile halts on a permanent fault and waits for its takeover (R248). -/
def tileHalt (s : State) (n : Nat) : State := ttEvent (setBits s (R.ttChkLast n) 0x40000000) n 3

/-- The rows and columns of a pass fail: the pass runs again at once, and, failing again, halts the tile (R248). -/
def passMismatch (s : State) (n : Nat) (t : TileJob) (l : Nat) (rows cols : List Nat) : State :=
  let again := t.retry.contains l
  let s1 := wr s (R.ttChkLast n) (chkWord rows cols again)
  let t1 := restartPass t l
  if again then setTileJob (tileHalt s1 n) { t1 with retry := t.retry.filter fun x => x ≠ l }
  else setTileJob s1 { t1 with retry := t.retry ++ [l], reexec := t.reexec + 1 }

/-- The re-execution of a pass passed its check: a transient of the tile (R248, R482). -/
def passTransient (s : State) (n : Nat) : State :=
  transient (ttEvent (bump s (R.ttChkTransient n)) n 2) 0x10 n 0

/-- TILE_PASS_CHECK: the next pass of the job on a physical tile reaches its next comparison, faults having added `errs` to its
accumulators since the last, or, at its end, having made a residue of the requantiser or of the non-linear unit differ, which
counts as a mismatch (R246, R480). A tile whose home range is fenced, or that has halted, runs no pass; a job asked to abort
stops at the boundary (R244). After too many transients of the tile the next one is treated as permanent (R482). -/
def execTilePassCheck (job : Nat) (tile : Fin 68) (errs : List AccErr) (residue : Bool) (s : State) : Out :=
  fabric s fun s =>
    let n := tile.val
    match s.tiles.running.find? (fun t => t.id == job) with
    | none => s
    | some t =>
      match nextPass (tilesOn s n) [] t.left with
      | none => s
      | some (p, left) =>
        if t.status.isSome || abortAsked s t.job.owner || tileHalted s n || fenced s (localBase p.tile) || ttState s n == 7 then s
        else
          let at_ := tabGet ⟨0, []⟩ t.part p.tile
          let k := pointK p at_.points
          let sums := passSums s t p k (at_.errs ++ errs)
          let bad := failing p.mode sums
          if !bad.1.isEmpty || !bad.2.isEmpty || (residue && k == p.k) then passMismatch s n t p.tile bad.1 bad.2
          else if k < p.k then
            setTileJob s { t with part := tabSet ⟨0, []⟩ t.part p.tile ⟨at_.points + 1, at_.errs ++ errs⟩ }
          else if t.retry.contains p.tile then
            if transientExhausted s 0x10 n then
              setTileJob (tileHalt (passTransient s n) n)
                (restartPass { t with retry := t.retry.filter fun l => l ≠ p.tile } p.tile)
            else passDone (passTransient s n) n t p left sums.cells
          else passDone s n t p left sums.cells

/-! ### The end of a job (R239, R240, R243 to R245) -/

/-- The job record. -/
def tileRecord (s : State) (t : TileJob) (st committed : Nat) (remap : Bool) : List Byte :=
  let body := leBytes 8 t.startDt.toNat ++ leBytes 4 (min (s.dt.now - t.startDt).toNat 0xFFFFFFFF) ++ leBytes 1 t.job.ctx ++
    leBytes 1 st ++ leBytes 2 t.prog ++ leBytes 4 t.passes ++ leBytes 4 t.reexec ++ leBytes 4 t.satRq ++ leBytes 4 t.satNl ++
    leBytes 2 committed ++ leBytes 2 t.seed ++ leBytes 1 t.takeovers ++
    leBytes 1 (rec8 t.job.block 1 1 % 4 + 4 * remap.toNat) ++ leBytes 22 0
  body ++ leBytes 4 (crc32c body)

/-- A monitor entry. -/
def monBytes (m : TileMon) : List Byte :=
  leBytesI 4 m.least ++ leBytesI 4 m.most ++ leBytes 1 m.bits ++ leBytes 3 0 ++ leBytes 4 (min m.sat 0xFFFFFFFF)

/-- Whether a job other than `id` uses a tile. -/
def stillUsed (s : State) (id n : Nat) : Bool :=
  s.tiles.running.any fun x => decide (x.id ≠ id) && (tilesOn s n).any fun l => x.p.tiles.contains l

/-- The tiles of a job go back to IDLE. -/
def freeTiles (s : State) (t : TileJob) (err : Bool) : State :=
  t.p.tiles.foldl (fun st l =>
    match tileOf st l with
    | some n =>
      let st1 := if err then ttEvent st n 0 else st
      if ttState st1 n = 2 ∧ stillUsed st1 t.id n = false then setTtState st1 n 1 else st1
    | none => st) s

/-- The job ends with a status, its slots committed or not. -/
def tileEnd (s : State) (t : TileJob) (st : Nat) (commit : Bool) : State :=
  let n := rec8 t.job.block 34 2
  let remap := t.p.tiles.any fun l => remapped s l
  let c := if commit then n else 0
  let s1 := if commit then stBytes s (t.p.slotBase + 512 * t.first) t.slots else s
  let ra := rec8 t.job.block 24 8
  let s2 := stBytes s1 ra (tileRecord s t st c remap)
  let s3 := if rec8 t.job.block 1 1 % 2 = 1 then
      stBytes s2 (ra + 64) (((List.range t.p.monitored).map fun ch => monBytes (tabGet mon0 t.mons ch)).flatten)
    else s2
  let s3 := issued t.job.owner s s3
  let s4 := if t.p.satBudget < t.satRq then ttEvent s3 t.lastTile 1 else s3
  report (dropTileJob (freeTiles s4 t (decide (0x20 ≤ st))) t.id) t.job.owner st

/-- TILE_JOB_END: a job whose passes are done, whose status is decided, or that was asked to abort ends (R243 to R245,
R251). -/
def execTileJobEnd (job : Nat) (s : State) : Out :=
  fabric s fun s =>
    match s.tiles.running.find? (fun t => t.id == job) with
    | none => s
    | some t =>
      match t.status with
      | some st => tileEnd s t st false
      | none =>
        let degraded := decide (0 < t.takeovers) || t.p.tiles.any fun l => remapped s l
        if t.left = [] then
          tileEnd s t (if abortAsked s t.job.owner then 0x28 else if degraded then 0x05 else 0)
            (decide (rec8 t.job.block 34 2 ≠ 0))
        else if abortAsked s t.job.owner then tileEnd s t 0x28 false
        else s

/-! ### Takeovers (R249 to R251, R483) -/

/-- A restore that is moving range `r` is given up: the grant stays on its shadow, where the held accesses go on (R267). -/
def giveUp (s : State) (r : Nat) : State :=
  releaseWrites (clrBits { s with memx := { s.memx with moves := tabSet none s.memx.moves r none } } (R.memRedir r) 0x40000000) r

/-- A takeover claims tile `f`: a restore onto it, pending or moving, leaves the grant on its shadow (R267). -/
def dropRestores (s : State) (f : Nat) : State :=
  let s1 := { s with memx := { s.memx with restore := s.memx.restore.filter fun e => decide (e.2 ≠ some f) } }
  (s.memx.moves.filter fun e => match e.2 with
    | some m => m.restore.isSome && decide (m.target = toTile f)
    | none => false).foldl (fun st e => giveUp st e.1) s1

/-- The rotation step of piste `p` ends without effect. -/
def endRot (s : State) (p : Nat) : State :=
  clrBits { s with safe := { s.safe with rot := tabSet none s.safe.rot p none } } R.safeStatus (bitW p)

/-- A takeover of logical tile `l` claims tile `f`: a self-test that runs on it is abandoned (R490), and so is a waiting rotation
step that would use the tile or move `l` (R227). -/
def abandonTest (s : State) (l f : Nat) : State :=
  let s1 := dropRestores s f
  let stale : Nat → Bool := fun p => match tabGet none s1.safe.rot p with
    | some r => decide (r.stage = .waiting) && (r.standIn == f || r.logical == l)
    | none => false
  let s2 := (List.range 4).foldl (fun st p => if stale p then endRot st p else st) s1
  if ttState s f = 5 then endRot s2 (f / 17) else s2

/-- A job that uses logical tile `l` ends ERR_FAULT. -/
def jobFault (l : Nat) (t : TileJob) : TileJob :=
  if t.p.tiles.contains l && t.status.isNone then { t with status := some 0x26 } else t

/-- The jobs that use a logical tile end ERR_FAULT. -/
def failJobs (s : State) (l : Nat) : State :=
  { s with tiles := { s.tiles with running := s.tiles.running.map (jobFault l) } }

/-- The GDDR6 area, in 512 KiB units, that a folded tile's memory takes: firmware's own, at a place in its region at the top of
usable GDDR6 that the spec leaves open (R249, R254). -/
def foldArea (s : State) : Nat × State :=
  let (a, s1) := drawNat s
  let fw := (rd s R.memFwGdr).toNat
  (2 * (gdrBytes s / 0x100000 - fw) + a % max 1 (2 * fw), s1)

/-- TILE_TAKEOVER: firmware moves the logical tile of a permanently failed tile, one takeover at a time (R249, R483). -/
def execTileTakeover (tile : Fin 68) (s : State) : Out :=
  fabric s fun s =>
    let n := tile.val
    let l := ttLogical s n
    if s.safe.takeover.isSome || !rb s (R.ttChkLast n) 30 || decide (64 ≤ l) || rotMoving s (n / 17) then s
    else
      match takeoverTarget s n l with
      | none => setTtState (failJobs s l) n 7
      | some (f, how) =>
        if how = 2 then
          let (a, s1) := foldArea s
          let s2 := startMove s1 (homeOf l) ⟨toArea a, none, none⟩
          { s2 with safe := { s2.safe with takeover := some ⟨n, l, f, 2, [homeOf l]⟩ } }
        else
          let g := grantOn s f
          let s1 := abandonTest s l f
          let s2 := match g with | some j => evacuate s1 j | none => s1
          let s3 := startMove s2 (homeOf l) ⟨toTile f, none, none⟩
          let rs := match g with | some j => [rf s (R.memNbr j) 22 16, homeOf l] | none => [homeOf l]
          { setTtState s3 f 6 with safe := { s3.safe with takeover := some ⟨n, l, f, how, rs⟩ } }

/-- The non-linear banks of a logical tile shown in the registers of the tile that now holds it. -/
def showBanks (s : State) (n l : Nat) : State :=
  (List.range 256).foldl (fun st i => wr (wr st (R.ttNl0 n i) (bankEntry st l 0 i)) (R.ttNl1 n i) (bankEntry st l 1 i)) s

/-- The logical map after a takeover; the failed tile reads FAILED, still naming the second logical tile of a fold host until that
one is moved too (R250). -/
def remap (s : State) (t : Takeover) : State :=
  let busy := s.tiles.running.any fun j => j.p.tiles.contains t.logical
  let s1 := if t.how = 2 then
      let s0 := wf s (R.ttStatus t.new) 23 16 t.logical
      if busy then setTtState s0 t.new 2 else s0
    else
      let w := t.logical * 0x1000000 + 0xFF0000 + (decide (t.how = 1)).toNat * 16 + (if busy then 2 else 1)
      showBanks (wr s (R.ttStatus t.new) (BitVec.ofNat 32 w)) t.new t.logical
  let l2 := ttLogical2 s1 t.failed
  if l2 = 0xFF then wr s1 (R.ttStatus t.failed) 0xFFFF0007
  else wr s1 (R.ttStatus t.failed) (BitVec.ofNat 32 (l2 * 0x1000000 + 0xFF0007))

/-- A job whose logical tile `l` has moved. -/
def jobResume (l : Nat) (t : TileJob) : TileJob :=
  if t.p.tiles.contains l then { t with takeovers := t.takeovers + 1 } else t

/-- Jobs of a moved logical tile go on: the failed pass is issued again; poison met in the copy ends them. -/
def resumeJobs (s : State) (l : Nat) : State :=
  let bad := poisoned s (localBase l) 0x80000
  let s1 := { s with tiles := { s.tiles with running := s.tiles.running.map (jobResume l) } }
  if bad then failJobs s1 l else s1

/-- GLB_CAP at a takeover: SPARES_LEFT, or, for a fold, ACTIVE_TILES (R250). -/
def capDown (s : State) (how : Nat) : State :=
  if how = 2 then wf s R.glbCap 15 8 (rf s R.glbCap 15 8 - 1) else wf s R.glbCap 26 24 (rf s R.glbCap 26 24 - 1)

/-- TILE_TAKEOVER_COMPLETE: the moves of the takeover of a failed tile are done (R250). -/
def execTileTakeoverComplete (tile : Fin 68) (s : State) : Out :=
  fabric s fun s =>
    match s.safe.takeover with
    | none => s
    | some t =>
      if t.failed ≠ tile.val ∨ t.ranges.any (fun r => (tabGet none s.memx.moves r).isSome) then s
      else
        let s1 := resumeJobs (remap { s with safe := { s.safe with takeover := none } } t) t.logical
        takeoverDone (capDown (ttEvent s1 t.new 4) t.how) 0x10 t.failed t.new 0 0

end Sys2Proof.Machine
end

