-- ==== Sys2Proof/Machine/Real.lean ====
section
/-! DEFINITION. The real arithmetic behind units whose results the spec states by formulas: numbers in 2^−100, vectors, 3 × 3
and larger matrices, rotations. What the unit stores is rounded where its own chapter says. -/

namespace Sys2Proof.Machine

/-- `n` × 2^−k in 2^−100. -/
def fxOf (n : Int) (k : Nat) : Int := n * 2 ^ (100 - k)

/-- The nearest multiple of 2^−k, as a count of them (ties to even). -/
def fxTo (k : Nat) (x : Int) : Int := rne x (100 - k)

/-- Quotient and square root. -/
def fxd (a b : Int) : Int := if b = 0 then 0 else a * 2 ^ 100 / b
def fxSqrt (a : Int) : Int := isqrtBig (a.toNat * 2 ^ 100)

/-! ### Vectors and matrices -/

/-- Element of a vector, and of a matrix as a list of rows. -/
def vAt (v : List Int) (i : Nat) : Int := v.getD i 0
def mAt (m : List (List Int)) (i j : Nat) : Int := (m.getD i []).getD j 0

/-- Sum, difference, multiple, inner product, vector product. -/
def vAdd (a b : List Int) : List Int := List.zipWith (· + ·) a b
def vSub (a b : List Int) : List Int := List.zipWith (· - ·) a b
def vScale (k : Int) (a : List Int) : List Int := a.map fun x => fxm k x
def vNeg (a : List Int) : List Int := a.map fun x => -x
def vDot (a b : List Int) : Int := (List.zipWith (fun x y => x * y) a b).sum / 2 ^ 100
def vCross (a b : List Int) : List Int :=
  [fxm (vAt a 1) (vAt b 2) - fxm (vAt a 2) (vAt b 1), fxm (vAt a 2) (vAt b 0) - fxm (vAt a 0) (vAt b 2),
   fxm (vAt a 0) (vAt b 1) - fxm (vAt a 1) (vAt b 0)]
def vNorm (a : List Int) : Int := fxSqrt (vDot a a)

/-- Matrix of `r` × `c` elements by formula; transpose of one with `c` columns. -/
def mGen (r c : Nat) (f : Nat → Nat → Int) : List (List Int) :=
  (List.range r).map fun i => (List.range c).map fun j => f i j
def mTr (m : List (List Int)) : List (List Int) := mGen (m.headD []).length m.length fun i j => mAt m j i

/-- Products, sums and multiples of matrices. -/
def mVec (m : List (List Int)) (v : List Int) : List Int := m.map fun r => vDot r v
def mMul (a b : List (List Int)) : List (List Int) :=
  let bt := mTr b
  a.map fun r => bt.map fun c => vDot r c
def mAdd (a b : List (List Int)) : List (List Int) := List.zipWith vAdd a b
def mSub (a b : List (List Int)) : List (List Int) := List.zipWith vSub a b
def mScale (k : Int) (a : List (List Int)) : List (List Int) := a.map (vScale k)
def mNeg (a : List (List Int)) : List (List Int) := a.map vNeg
def mId (n : Nat) : List (List Int) := mGen n n fun i j => if i = j then fx1 else 0
def mZero (r c : Nat) : List (List Int) := mGen r c fun _ _ => 0

/-- [v]×. -/
def skew (v : List Int) : List (List Int) :=
  [[0, -vAt v 2, vAt v 1], [vAt v 2, 0, -vAt v 0], [-vAt v 1, vAt v 0, 0]]

/-- Matrices side by side, and one above another. -/
def mHcat (a b : List (List Int)) : List (List Int) := List.zipWith (· ++ ·) a b

/-! ### Rotations -/

/-- Exp of a rotation vector, as a quaternion w, x, y, z. -/
def quatExp (v : List Int) : List Int :=
  let h := vDot v v / 4
  fxCosSq h :: v.map fun x => fxm (fxSincSq h) x / 2

/-- Quaternion product, conjugate, normalisation. -/
def quatMul (a b : List Int) : List Int :=
  let p := fun i j => vAt a i * vAt b j
  [(p 0 0 - p 1 1 - p 2 2 - p 3 3) / 2 ^ 100, (p 0 1 + p 1 0 + p 2 3 - p 3 2) / 2 ^ 100,
   (p 0 2 - p 1 3 + p 2 0 + p 3 1) / 2 ^ 100, (p 0 3 + p 1 2 - p 2 1 + p 3 0) / 2 ^ 100]
def quatConj (q : List Int) : List Int := [vAt q 0, -vAt q 1, -vAt q 2, -vAt q 3]
def quatUnit (q : List Int) : List Int :=
  let n := vNorm q
  q.map fun x => fxd x n

/-- The matrix of a unit quaternion. -/
def quatMat (q : List Int) : List (List Int) :=
  let w := vAt q 0
  let v := q.drop 1
  let k := skew v
  mAdd (mId 3) (mAdd (mScale (2 * w) k) (mScale (2 * fx1) (mMul k k)))

/-- Log of a unit quaternion: the rotation vector of least magnitude. -/
def quatLog (q : List Int) : List Int :=
  let p := if vAt q 0 < 0 then vNeg q else q
  let v := p.drop 1
  let n := vNorm v
  if n = 0 then v.map fun x => 2 * x
  else
    let a := 2 * atan2Pos n.toNat (vAt p 0).toNat
    v.map fun x => x * a / n

/-- A unit quaternion of a rotation matrix, from its largest component. -/
def matQuat (m : List (List Int)) : List Int :=
  let d := fun i => mAt m i i
  let tr := d 0 + d 1 + d 2
  let c := [fx1 + tr, fx1 + d 0 - d 1 - d 2, fx1 + d 1 - d 0 - d 2, fx1 + d 2 - d 0 - d 1]
  let big := c.foldl max 0
  let s := 2 * fxSqrt big
  let a := [mAt m 2 1 - mAt m 1 2, mAt m 0 2 - mAt m 2 0, mAt m 1 0 - mAt m 0 1]
  let q :=
    if vAt c 0 = big then s / 4 :: a.map fun x => fxd x s
    else if vAt c 1 = big then [fxd (vAt a 0) s, s / 4, fxd (mAt m 0 1 + mAt m 1 0) s, fxd (mAt m 0 2 + mAt m 2 0) s]
    else if vAt c 2 = big then [fxd (vAt a 1) s, fxd (mAt m 0 1 + mAt m 1 0) s, s / 4, fxd (mAt m 1 2 + mAt m 2 1) s]
    else [fxd (vAt a 2) s, fxd (mAt m 0 2 + mAt m 2 0) s, fxd (mAt m 1 2 + mAt m 2 1) s, s / 4]
  quatUnit q

/-! ### Logarithms and powers -/

/-- Bits of the base-2 logarithm of a mantissa in [1, 2), most significant first. -/
def log2Bits : Nat → Int → Int → Int
  | 0, _, acc => acc
  | n + 1, m, acc =>
    let q := fxm m m
    if 2 * fx1 ≤ q then log2Bits n (q / 2) (2 * acc + 1) else log2Bits n q (2 * acc)

/-- log2 of a positive number, in 2^−100, to 60 fraction bits. -/
def fxLog2 (v : Int) : Int :=
  let n := bitLen v.toNat
  let m := if n ≤ 101 then v * 2 ^ (101 - n) else v / 2 ^ (n - 101)
  ((n : Int) - 101) * fx1 + log2Bits 60 m 0 * 2 ^ 40

/-- The natural logarithm. -/
def fxLn (v : Int) : Int := fxm (fxLog2 v) 878668439483319573618263538048

/-- 2^(2^−i) for the bits of a fraction of 10 bits, multiplied in. -/
def pow2Frac : Nat → Nat → Int → Int → Int
  | 0, _, _, acc => acc
  | n + 1, f, root, acc =>
    let r := fxSqrt root
    pow2Frac n f r (if f / 2 ^ n % 2 = 1 then fxm acc r else acc)

/-- 2^(c / 1024) as a mantissa in 2^−100 and an integer exponent. -/
def pow2Code (c : Int) : Int × Int := (pow2Frac 10 (c % 1024).toNat (2 * fx1) fx1, c / 1024)

/-- A mantissa times a power of two, the excess bits dropped. -/
def scale2 (m : Int) (e : Int) : Int := if 0 ≤ e then m * 2 ^ e.toNat else m / 2 ^ (-e).toNat

/-! ### Covariance codes (R301) -/

/-- The code of a variance given as `n` × 2^(−k) (k may be negative). -/
def covCode (n : Int) (k : Int) : Nat :=
  if n ≤ 0 then 0
  else
    let l := fxLog2 (n * fx1) - k * fx1
    if l < -32 * fx1 then 0 else (max 1 (min 65534 (rne (1024 * l) 100 + 32768))).toNat

/-- The variance of a code in 2^−100; 0xFFFF is read by the rule that uses it. -/
def covVal (c : Nat) : Int :=
  if c = 0 then 0
  else
    let (m, e) := pow2Code ((c : Int) - 32768)
    scale2 m e

end Sys2Proof.Machine
end

