-- ==== Sys2Proof/Machine/Fusion.lean ====
section
/-! DEFINITION. The track filter unit: predicts, measurement updates, RESET, MOTION and REPORT jobs, and the pose stream
(R286 to R312, R28 to R30, R466). -/

namespace Sys2Proof.Machine

/-! ### Covariance arithmetic in Q8.24 (R288) -/

/-- Results in 2^−24 saturated to Q8.24, with the number of saturations: a vector, a matrix. -/
def satVec (l : List Int) : List Int × Nat := (l.map (satS 32), (l.filter fun x => ovfS 32 x).length)
def satMat (m : List (List Int)) : List (List Int) × Nat := (m.map fun l => (satVec l).1, (m.map fun l => (satVec l).2).sum)

/-- A matrix of results rounded from 2^−48 to Q8.24 and saturated, with the number of saturations. -/
def gen24 (r c : Nat) (f : Nat → Nat → Int) : List (List Int) × Nat := satMat (mGen r c fun i j => rne (f i j) 24)

/-- The same for a symmetric matrix, of which the lower triangle alone is computed and stands for the whole (R288). -/
def sym24 (n : Nat) (f : Nat → Nat → Int) : List (List Int) × Nat :=
  let (low, k) := satMat ((List.range n).map fun i => (List.range (i + 1)).map fun j => rne (f i j) 24)
  (mGen n n fun i j => mAt low (max i j) (min i j), k)

/-- The exact sum of products of two rows. -/
def dot48 (a b : List Int) : Int := (List.zipWith (· * ·) a b).sum

/-- Row of a matrix. -/
def mRow (m : List (List Int)) (i : Nat) : List Int := m.getD i []

/-- A product of matrices, the second given by its rows transposed. -/
def mul24 (a bt : List (List Int)) : List (List Int) × Nat := gen24 a.length bt.length fun i j => dot48 (mRow a i) (mRow bt j)

/-- A real in 2^−100 in units of 2^−24 after division by 2^k, before and after saturation. -/
def raw24 (x : Int) (k : Int) : Int := if 0 ≤ k then rne x (76 + k.toNat) else rne (x * 2 ^ (-k).toNat) 76
def norm24 (x : Int) (k : Int) : Int := satS 32 (raw24 x k)

/-- A diagonal entry below 1 LSB is set to it; how many were. -/
def floorDiag (m : List (List Int)) : List (List Int) × Nat :=
  (mGen m.length m.length fun i j => if i = j then max 1 (mAt m i j) else mAt m i j,
   ((List.range m.length).filter fun i => decide (mAt m i i < 1)).length)

/-- The factors of S = L D L^T, unless a pivot is not positive (R298): the rows of L below its unit diagonal, and D. -/
def ldlRow (s : List (List Int)) (i : Nat) (ls : List (List Int)) (ds : List Int) : List Int × Nat :=
  (List.range i).foldl (fun (row : List Int × Nat) j =>
    let t := mAt s i j * 2 ^ 48 - ((List.range j).map fun k => vAt row.1 k * mAt ls j k * vAt ds k).sum
    let v := divRne t ((vAt ds j).toNat * 2 ^ 24)
    (row.1 ++ [satS 32 v], row.2 + (ovfS 32 v).toNat)) ([], 0)

/-- The factorisation, row by row, with the number of saturations. -/
def ldlGo (s : List (List Int)) : Nat → Nat → List (List Int) → List Int → Nat → Option (List (List Int) × List Int) × Nat
  | 0, _, ls, ds, c => (some (ls, ds), c)
  | n + 1, i, ls, ds, c =>
    let (row, k) := ldlRow s i ls ds
    let d := rne (mAt s i i * 2 ^ 48 - ((List.range i).map fun k => vAt row k * vAt row k * vAt ds k).sum) 48
    let c1 := c + k + (ovfS 32 d).toNat
    if d ≤ 0 then (none, c1) else ldlGo s n (i + 1) (ls ++ [row]) (ds ++ [satS 32 d]) c1

/-- L y = b. -/
def ldlForward (ls : List (List Int)) (b : List Int) : List Int :=
  (List.range b.length).foldl (fun y i =>
    y ++ [vAt b i - rne ((List.range i).map fun k => mAt ls i k * vAt y k).sum 24]) []

/-- L^T x = z. -/
def ldlBackward (ls : List (List Int)) (z : List Int) : List Int :=
  let n := z.length
  (List.range n).reverse.foldl (fun x i =>
    (vAt z i - rne ((List.range (n - 1 - i)).map fun k => mAt ls (i + 1 + k) i * vAt x k).sum 24) :: x) []

/-- S x = b, with the number of saturations. -/
def ldlSolve (ls : List (List Int)) (ds b : List Int) : List Int × Nat :=
  satVec (ldlBackward ls (List.zipWith (fun y d => divRne (y * 2 ^ 24) d.toNat) (ldlForward ls b) ds))

/-- ν^T S⁻¹ ν in UQ16.16 (R298). -/
def nisOf (ls : List (List Int)) (ds nu : List Int) : Nat :=
  satU 32 (rne ((List.zipWith (fun y (d : Int) => y * y * 2 ^ 76 / d) (ldlForward ls nu) ds).sum) 84)

/-- The result of a measurement update on a covariance. -/
structure Updated where
  delta : List Int
  p : List (List Int)
  nis : Nat
deriving DecidableEq, Repr

/-- R298: gain, Joseph form, correction; none when a pivot of D is not positive. `h` and `nu` come before their saturation; the
number counts every result that saturated (R288). -/
def kalman (p h r : List (List Int)) (nu : List Int) : Option Updated × Nat :=
  let n := p.length
  let m := h.length
  let (h, c0) := satMat h
  let (nu, c1) := satVec nu
  let (ph, c2) := mul24 p h
  let pht := mTr ph
  let (sm, c3) := sym24 m fun i j => dot48 (mRow h i) (mRow pht j) + mAt r i j * 2 ^ 24
  match ldlGo sm m 0 [] [] (c0 + c1 + c2 + c3) with
  | (none, c) => (none, c)
  | (some (ls, ds), c) =>
    let ks := ph.map fun row => ldlSolve ls ds row
    let k := ks.map Prod.fst
    let (a, c4) := gen24 n n fun i j => (if i = j then 2 ^ 48 else 0) -
      ((List.range m).map fun l => mAt k i l * mAt h l j).sum
    let (ap, c5) := gen24 n n fun i j => dot48 (mRow a i) (mRow p j)
    let (kr, c6) := gen24 n m fun i j => dot48 (mRow k i) (mRow r j)
    let (pn, c7) := sym24 n fun i j => dot48 (mRow ap i) (mRow a j) + dot48 (mRow kr i) (mRow k j)
    let (d, c8) := satVec ((List.range n).map fun i => rne (dot48 (mRow k i) nu) 24)
    (some ⟨d, pn, nisOf ls ds nu⟩, c + (ks.map Prod.snd).sum + c4 + c5 + c6 + c7 + c8)

/-! ### State of the unit -/

/-- MODE and the inertial source of TFU_STATUS. -/
def tfuMode (s : State) : Nat := rf s R.tfuStatus 1 0
def tfuSource (s : State) : Nat := rf s R.tfuStatus 5 4

/-- A TFU_EVENT bit. -/
def tfuEvent (s : State) (b : Nat) : State := setBits s R.tfuEvent (bitW b)

/-- A TFU_ERR bit with the information word. -/
def tfuErr (s : State) (b hi op : Nat) : State :=
  errInfo s R.tfuErr b R.tfuErrInfo (BitVec.ofNat 32 (hi % 65536 * 65536 + op % 256))

/-- A change of MODE (R303). -/
def setMode (s : State) (m : Nat) : State :=
  if tfuMode s = m then s else tfuEvent (wf s R.tfuStatus 1 0 m) 3

/-- Pose flags raised for the next record. -/
def poseFlag (s : State) (b : Nat) : State :=
  { s with tfu := { s.tfu with flags := Nat.lor s.tfu.flags (2 ^ b) } }

/-- Elements of the error state, and the exponents of their units (R287). -/
def tfuN (s : State) : Nat := 15 + rf s R.tfuEgoCfg 15 12
def tfuExp (s : State) (i : Nat) : Int :=
  if i < 3 then 3 else if i < 6 then -2 else if i < 9 then -6 else if i < 12 then -12 else if i < 15 then -8
  else (s.tfu.auxDecl.getD (i - 15) ⟨0, 0⟩).unit

/-- Saturations in the arithmetic of the ego filter: counted, with the event and the flag of the next record (R288). -/
def covSat (s : State) (n : Nat) : State := if n = 0 then s else poseFlag (tfuEvent (bumpN s R.tfuCovsatCnt n) 5) 8

/-- The covariance written back: floor, counts, flags, the diagonal registers (R288). -/
def setCov (s : State) (p : List (List Int)) (sat : Nat) : State :=
  let (pf, fl) := floorDiag p
  let s1 := bumpN { s with tfu := { s.tfu with p := pf } } R.tfuNumericCnt fl
  (List.range 24).foldl (fun st i => wr st (R.tfuEgoDiag i) (BitVec.ofInt 32 (mAt pf i i))) (covSat s1 sat)

/-- The nominal values as reals. -/
def poseQ (p : TfuPose) : List Int := quatUnit (p.att.map fun x => fxOf x 30)
def posePos (p : TfuPose) : List Int := p.pos.map fun x => fxOf x 24
def poseVel (p : TfuPose) : List Int := p.vel.map fun x => fxOf x 16

/-- A quaternion as stored: Q2.30, w not negative. -/
def storeQuat (q : List Int) : List Int :=
  let u := quatUnit q
  (if vAt u 0 < 0 then vNeg u else u).map fun x => satS 32 (fxTo 30 x)

/-- A cleared filter. -/
def pose0 : TfuPose where
  time := 0
  pos := [0, 0, 0]
  att := [2 ^ 30, 0, 0, 0]
  vel := [0, 0, 0]

/-! ### The pose record (R301 to R303, R466) -/

/-- The code of a diagonal entry of P; a saturated one reads 0xFFFF. -/
def diagCode (v : Int) (k : Int) : Nat := if v = 0x7FFFFFFF then 0xFFFF else covCode v k

/-- The record. -/
def poseRecord (s : State) (flags : Nat) : List Byte :=
  let t := s.tfu
  let init := decide (tfuMode s = 0)
  let code := fun (i : Nat) => if init then 0xFFFF else diagCode (mAt t.p i i) (24 - 2 * tfuExp s i)
  let codes := [code 0, code 1, code 2, code 6, code 7, code 8]
  let body := leBytesI 8 t.pose.time ++ leBytes 4 t.seq.toNat ++ leBytes 4 (rd s R.glbEpochLo).toNat ++
    leBytes 2 (tfuMode s + 4 * tfuSource s) ++ leBytes 2 flags ++
    ((if init then [0, 0, 0] else t.pose.pos).map (leBytesI 8)).flatten ++
    ((if init then [2 ^ 30, 0, 0, 0] else t.pose.att).map (leBytesI 4)).flatten ++
    ((if init then [0, 0, 0] else t.pose.vel).map (leBytesI 4)).flatten ++
    ((if init then [0, 0, 0] else t.rate).map (leBytesI 4)).flatten ++
    (codes.map (leBytes 2)).flatten ++ leBytes 28 0
  body ++ leBytes 4 (crc32c body)

/-- A pose record is formed and goes to the pose ring; a disabled ring counts it (R466). `timer` says that the predict just made
was one of the timer (R291). -/
def formPose (timer : Bool) (s : State) : State :=
  let cfg := rd s R.hifPoseCfg
  let undisc := match s.dt.servo with
    | .holdover | .refusing | .qualify | .unset => true
    | .free | .acquire | .locked => false
  let fl := s.tfu.flags % 512 / 2 * 2 % 512 + s.safe.poseTakeover.toNat
  let fl1 := Nat.lor fl (undisc.toNat * 2 + timer.toNat * 128 + (rb s R.glbStatus 5).toNat * 512)
  let q := s.tfu.seq
  let rec128 := poseRecord s fl1
  let base := (rd64 s R.hifPoseLo R.hifPoseHi).toNat
  let s1 := wr { s with tfu := { s.tfu with seq := q + 1, flags := 0, count := 0 }
                        safe := { s.safe with poseTakeover := false } } R.tfuPoseSeq q
  if bit cfg 31 then
    let s2 := hostWrite s1 (base + 128 * (q.toNat % 2 ^ fld cfg 4 0)) rec128
    if fld cfg 15 8 ≠ 0 ∧ q.toNat % fld cfg 15 8 = 0 then msixSend s2 (fld cfg 22 16) else s2
  else bump s1 R.hifPoseDrop

/-! ### Predict (R289 to R293) -/

/-- Φ in 2^−24 before its saturation: the first-order error-state model over τ (in 2^−100 s), with the rotation matrix and the
specific force in the map frame. -/
def phiMat (s : State) (rm : List (List Int)) (fmap : List Int) (tau : Int) : List (List Int) :=
  let n := tfuN s
  let sk := skew fmap
  mGen n n fun i j =>
    let v : Int :=
      if i = j then fx1
      else if i < 3 ∧ j = i + 3 then tau
      else if 3 ≤ i ∧ i < 6 ∧ 6 ≤ j ∧ j < 9 then -(fxm (mAt sk (i - 3) (j - 6)) tau)
      else if 3 ≤ i ∧ i < 6 ∧ 12 ≤ j ∧ j < 15 then -(fxm (mAt rm (i - 3) (j - 12)) tau)
      else if 6 ≤ i ∧ i < 9 ∧ 9 ≤ j ∧ j < 12 then -(fxm (mAt rm (i - 6) (j - 9)) tau)
      else 0
    raw24 v (tfuExp s i - tfuExp s j)

/-- Q in Q8.24 on the diagonal, scaled by 2^shift. -/
def noiseOf (s : State) (i ns shift : Nat) : Int :=
  (if i < 15 then Config.tfuNoise i ns
   else divRne ((s.tfu.auxDecl.getD (i - 15) ⟨0, 0⟩).dens * ns) 1000000000) * 2 ^ shift

/-- P ← Φ P Φ^T + Q. -/
def predictCov (s : State) (phi : List (List Int)) (ns shift : Nat) : State :=
  let n := tfuN s
  let p := s.tfu.p
  let (phi, c0) := satMat phi
  let (t, c1) := gen24 n n fun i j => dot48 (mRow phi i) (mRow p j)
  let (pn, c2) := sym24 n fun i j => dot48 (mRow t i) (mRow phi j) +
    (if i = j then noiseOf s i ns shift * 2 ^ 24 else 0)
  setCov s pn (c0 + c1 + c2)

/-- The history takes the pose after a predict (R293). -/
def pushHist (s : State) : State :=
  { s with tfu := { s.tfu with hist := (s.tfu.pose :: s.tfu.hist).take 2048 } }

/-- An integrated field as stored. -/
def integrated (k bits frac : Nat) (x : Int) : Int := satS bits (fxTo frac x + Config.tfuDev k x)

/-- The nominal state after τ with an angular rate and, in the map frame, an acceleration. -/
def strapdown (p : TfuPose) (t : Int) (w amap : List Int) (tau : Int) : TfuPose :=
  let pos := vAdd (posePos p) (vAdd (vScale tau (poseVel p)) (vScale (fxm tau tau / 2) amap))
  let vel := vAdd (poseVel p) (vScale tau amap)
  let q := quatUnit (quatMul (poseQ p) (quatExp (vScale tau w)))
  let qn := if vAt q 0 < 0 then vNeg q else q
  { time := t
    pos := [0, 1, 2].map fun i => integrated i 64 24 (vAt pos i)
    vel := [0, 1, 2].map fun i => integrated (3 + i) 32 16 (vAt vel i)
    att := [0, 1, 2, 3].map fun i => integrated (6 + i) 32 30 (vAt qn i) }

/-- The pose record after every PDIV-th predict (R302). -/
def afterPredict (timer : Bool) (s : State) : State :=
  let c := s.tfu.count + 1
  let s1 := pushHist { s with tfu := { s.tfu with count := c } }
  if max 1 (rf s R.tfuEgoCfg 23 16) ≤ c then formPose timer s1 else s1

/-- Nominal predict period: the output period of slot `IS_P` in ns. -/
def slotPeriod (s : State) (i : Nat) : Nat := ifcR s i * (rd s (R.ingIsPeriod i)).toNat
def predictPeriod (s : State) : Nat := slotPeriod s (rf s R.tfuEgoCfg 29 28)

/-- Whether a slot delivers outputs to the filter (R114, R122, R291, R488). -/
def delivering (s : State) (i : Nat) : Bool :=
  rb s R.ingCtrl 0 && rb s (R.ingIsCfg i) 31 && !rb s (R.ingIsStatus i) 1 && !s.ifc.failed && rb s R.ifcCtrl 0 &&
    rb s (R.ifcIsCfg i) 31

/-- The inertial slots that the filter is set up with: IS_P, and IS_A with ALT_EN. -/
def tfuPrimary (s : State) : Nat := rf s R.tfuEgoCfg 29 28
def tfuAlternate (s : State) : Nat := rf s R.tfuEgoCfg 27 26

/-- Whether no configured inertial slot is delivering (R291). -/
def noneDelivers (s : State) : Bool :=
  !delivering s (tfuPrimary s) && !(rb s R.tfuEgoCfg 30 && delivering s (tfuAlternate s))

/-- The source code of an output that the filter takes: 0 for IS_P, unless the filter has gone over to IS_A and IS_P has not
returned; 1 for IS_A once IS_P was declared lost (R290). None for an output that it passes over. -/
def takesOutput (s : State) (o : IfcOut) : Option Nat :=
  if !rb s R.tfuEgoCfg 31 then none
  else if o.slot = tfuPrimary s then
    (if s.tfu.alt && rb s (R.ingIsStatus o.slot) 1 && tfuSource s != 0 then none else some 0)
  else if s.tfu.alt && rb s R.tfuEgoCfg 30 && o.slot == tfuAlternate s then some 1
  else none

/-- Whether a predict is due from the filter chain (R294). -/
def predictDue (s : State) : Bool := s.ifc.delivered.any fun o => (takesOutput s o).isSome

/-- Whether a predict must wait: for the job that runs (R294), or for the known-answer test of the lanes (R31, R487). -/
def predictHeld (s : State) : Bool := !(startedAt s 0x12).isEmpty || s.safe.katDue

/-- The inertial source of the next record; a change of unit is flagged (R290). -/
def setSource (s : State) (c : Nat) : State :=
  if tfuSource s = c then s
  else
    let s1 := wf s R.tfuStatus 5 4 c
    if c = 2 then tfuEvent s1 1 else poseFlag (tfuEvent s1 2) 6

/-- The last output of each slot without UNSETTLED, which a later one with it is replaced by (R289). -/
def noteGood (s : State) (o : IfcOut) : State :=
  if o.flags % 2 = 1 then s
  else { s with tfu := { s.tfu with good := tabSet [0, 0, 0, 0, 0, 0] s.tfu.good o.slot (o.samples.take 6) } }

/-- The samples a predict uses: the output's, or, when it is UNSETTLED, the last settled ones of the slot (R289). -/
def usedSamples (s : State) (o : IfcOut) : List Int × State :=
  if o.flags % 2 = 1 then (tabGet [0, 0, 0, 0, 0, 0] s.tfu.good o.slot, poseFlag s 4) else (o.samples, noteGood s o)

/-- One predict from the samples of an output (R292). -/
def predictWith (s : State) (o : IfcOut) : State :=
  let (x, s0) := usedSamples s o
  let s1 := if o.flags / 2 % 4 = 0 then s0 else poseFlag s0 5
  let ns := slotPeriod s o.slot
  let tau := fxOf ns 0 / 1000000000
  let gfs : Int := (rd s R.tfuGyroFs).toNat
  let afs : Int := (rd s R.tfuAccFs).toNat
  let w := [0, 1, 2].map fun i => fxOf (vAt x i * gfs) 46 - fxOf (vAt s.tfu.bg i) 20
  let f := [0, 1, 2].map fun i => fxOf (vAt x (3 + i) * afs) 46 - fxOf (vAt s.tfu.ba i) 16
  let rm := quatMat (poseQ s.tfu.pose)
  let fm := mVec rm f
  let am := vAdd fm [0, 0, -(fxOf (rd s R.tfuGrav).toNat 16)]
  let s2 := { s1 with tfu := { s1.tfu with
    pose := strapdown s.tfu.pose o.time w am tau, rate := w.map fun v => satS 32 (fxTo 20 v) } }
  afterPredict false (predictCov s2 (phiMat s rm fm tau) ns 0)

/-- TFU_PREDICT: the oldest output that the filter chain has delivered. Outputs of other slots are passed over. -/
def execTfuPredict (s : State) : Out :=
  fabric s fun s =>
    match s.ifc.delivered with
    | [] => s
    | o :: rest =>
      if predictHeld s then s
      else
        let s1 := { s with ifc := { s.ifc with delivered := rest } }
        match takesOutput s o with
        | some c =>
          let s2 := { s1 with tfu := { s1.tfu with alt := s1.tfu.alt && rb s (R.ingIsStatus (tfuPrimary s)) 1 || decide (c = 1) } }
          predictWith (setSource s2 c) o
        | none => noteGood s1 o

/-- TFU_TIMER_PREDICT: no configured slot delivers; a predict with zero angular rate and velocity held (R291). -/
def execTfuTimerPredict (s : State) : Out :=
  fabric s fun s =>
    if !rb s R.tfuEgoCfg 31 || !noneDelivers s || predictHeld s then s
    else
      let s1 := setSource s 2
      let ns := predictPeriod s
      let tau := fxOf ns 0 / 1000000000
      let z := [0, 0, 0]
      let rm := quatMat (poseQ s.tfu.pose)
      let fm := [0, 0, fxOf (rd s R.tfuGrav).toNat 16]
      let s2 := { s1 with tfu := { s1.tfu with
        pose := { strapdown s.tfu.pose s.dt.now.toNat z z tau with vel := s.tfu.pose.vel }, rate := z } }
      afterPredict true (predictCov s2 (phiMat s rm fm tau) ns (rf s R.tfuEgoCfg 11 8))

/-- TFU_AID_TIMEOUT: no ego update applied for TFU_AID_TMO (R303). -/
def execTfuAidTimeout (s : State) : Out :=
  fabric s fun s =>
    match s.tfu.aided with
    | some t => if tfuMode s = 2 ∧ t.toNat + (rd s R.tfuAidTmo).toNat ≤ s.dt.now.toNat then setMode s 1 else s
    | none => s

/-! ### Jobs (R294, R295) -/

/-- The running job of the TFU does its work when it has opcode `op`; a block of another opcode that the unit does not know
is refused. -/
def tfuWork (op : Nat) (f : State → Job → State) (s : State) : Out :=
  fabric s fun s =>
    match startedAt s 0x12 with
    | [] => s
    | j :: rest =>
      let o := rec8 j.block 0 1
      if s.safe.katDue then s else
      let s1 := wf (setStarted s 0x12 rest) R.tfuStatus 8 8 (!rest.isEmpty).toNat
      if o = op then f s1 j
      else if 1 ≤ o ∧ o ≤ 4 then s
      else report (tfuErr s1 0 0 o) j.owner 0x23

/-- The status of a job done as asked: OK_DEGRADED while the unit runs on one lane (R33, R480). -/
def tfuOk (s : State) : Nat := if rb s R.safeStatus 9 then 0x05 else 0

/-- A failed check (R295). -/
def tfuRefuse (s : State) (j : Job) (byte : Nat) : State := report (tfuErr s 0 byte (rec8 j.block 0 1)) j.owner 0x23

/-! ### History (R296, R297) -/

/-- The pose at a time inside the history: position, attitude, velocity as reals. -/
structure PoseAt where
  pos : List Int
  q : List Int
  vel : List Int
deriving DecidableEq, Repr

/-- A stored pose as reals. -/
def poseAt (p : TfuPose) : PoseAt := ⟨posePos p, poseQ p, poseVel p⟩

/-- Linear in position and velocity, normalised linear in attitude, between two entries. -/
def lerpPose (a b : TfuPose) (t : Int) : PoseAt :=
  let al := fxd (fxOf (t - a.time) 0) (fxOf (b.time - a.time) 0)
  let mix := fun (x y : List Int) => vAdd x (vScale al (vSub y x))
  let qb := if vDot (poseQ a) (poseQ b) < 0 then vNeg (poseQ b) else poseQ b
  ⟨mix (posePos a) (posePos b), quatUnit (mix (poseQ a) qb), mix (poseVel a) (poseVel b)⟩

/-- The history (newest first) at time `t`; none before its oldest entry. A later time takes the newest. -/
def histAt (t : Int) : List TfuPose → Option TfuPose → Option PoseAt
  | [], _ => none
  | a :: rest, newer =>
    if a.time ≤ t then
      match newer with
      | some b => some (if a.time = t then poseAt a else lerpPose a b t)
      | none => some (poseAt a)
    else histAt t rest (some a)

/-! ### UPDATE (R296 to R299, R304) -/

/-- Rows and innovation-unit exponents of a measurement type; none for an undefined type. -/
def measUnits (ty : Nat) : Option (List Int) :=
  match ty with
  | 0x01 => some [3, 3, 3]
  | 0x02 | 0x03 => some [3, 3, 3, -6, -6, -6]
  | 0x04 | 0x05 => some [-2, -2, -2]
  | 0x06 => some [-6]
  | 0x10 => some [3, 3, 3]
  | 0x11 => some [3, 3, 3, -2, -2, -2]
  | _ => none

/-- z of a measurement record in 2^−k. -/
def measZ (r : List Byte) (i k : Nat) : Int := fxOf (recS r (16 + 8 * i) 8) k
def measZ3 (r : List Byte) (i k : Nat) : List Int := [measZ r i k, measZ r (i + 1) k, measZ r (i + 2) k]

/-- R in Q8.24 of a measurement record. -/
def measR (r : List Byte) (m : Nat) : List (List Int) :=
  mGen m m fun i j => let a := max i j; recS r (64 + 4 * (a * (a + 1) / 2 + min i j)) 4

/-- An angle brought into (−π, π]. -/
def wrapAngle (a : Int) : Int :=
  let p : Int := halfPi
  if 2 * p < a then a - 4 * p else if a ≤ -(2 * p) then a + 4 * p else a

/-- Innovation and H of an ego measurement, in physical units: rows by columns of the error state. `rp` is the pose at the
reference time of a RELPOSE. -/
def egoInnov (n ty : Nat) (r : List Byte) (h rp : PoseAt) : List Int × List (List Int) :=
  let rt := mTr (quatMat h.q)
  let put := fun (c : Nat) (m : List (List Int)) => m.map fun row => (List.range n).map fun j =>
    if c ≤ j ∧ j < c + 3 then vAt row (j - c) else 0
  match ty with
  | 0x01 => (vSub (measZ3 r 0 24) h.pos, put 0 (mId 3))
  | 0x02 =>
    (vSub (measZ3 r 0 24) h.pos ++ quatLog (quatMul (quatExp (measZ3 r 3 30)) (quatConj h.q)), put 0 (mId 3) ++ put 6 (mId 3))
  | 0x03 =>
    let rr := mTr (quatMat rp.q)
    let q := quatMul (quatConj rp.q) h.q
    (vSub (measZ3 r 0 24) (mVec rr (vSub h.pos rp.pos)) ++ quatLog (quatMul (quatExp (measZ3 r 3 30)) (quatConj q)),
      put 0 rr ++ put 6 rr)
  | 0x06 =>
    let m := quatMat h.q
    ([wrapAngle (measZ r 0 30 - fxAtan2 (mAt m 1 0) (mAt m 0 0))], [(List.range n).map fun j => if j = 8 then fx1 else 0])
  | _ =>
    let z := if ty = 0x04 then measZ3 r 0 24 else [0, 0, 0]
    (vSub z (mVec rt h.vel), mAdd (put 3 rt) (put 6 (mMul rt (skew h.vel))))

/-- The correction folded into the nominal state (R298): map-frame attitude, biases, auxiliary elements. The newest entry of the
history follows it, as the second update of the worked contradiction (11_fusion_and_tracks.md) shows. -/
def fold (t : Tfu) (d : List Int) : Tfu :=
  let g := fun (l : List Int) (o bits sh : Nat) => [0, 1, 2].map fun i => satS bits (vAt l i + rne (vAt d (o + i)) sh)
  let th := [6, 7, 8].map fun i => fxOf (vAt d i) 30
  let pose := { t.pose with
    pos := [0, 1, 2].map fun i => satS 64 (vAt t.pose.pos i + vAt d i * 8)
    vel := g t.pose.vel 3 32 10
    att := storeQuat (quatMul (quatExp th) (poseQ t.pose)) }
  { t with
    pose := pose, bg := g t.bg 9 32 16, ba := g t.ba 12 32 16
    aux := (List.range t.aux.length).map fun i => satS 32 (vAt t.aux i + vAt d (15 + i))
    hist := if t.hist.isEmpty then [] else pose :: t.hist.drop 1 }

/-- The innovation record and the sensor's statistics (R299). -/
def innovate (s : State) (j : Job) (r : List Byte) (st nis m flags : Nat) : State :=
  let b := j.block
  let q := s.tfu.innov
  let body := slice r 0 8 ++ leBytes 4 q.toNat ++ leBytes 1 (rec8 b 1 1) ++ leBytes 1 st ++ leBytes 1 (rec8 b 2 1) ++
    leBytes 1 (rec8 b 3 1) ++ leBytes 4 nis ++ leBytes 1 m ++ leBytes 1 flags ++ leBytes 2 0 ++ leBytes 4 s.tfu.seq.toNat
  let base := (rd64 s R.tfuInnovLo R.tfuInnovHi).toNat
  let a := base + 32 * (q.toNat % 2 ^ rf s R.tfuInnovCfg 3 0)
  let s1 := jobStore j s a (body ++ leBytes 4 (crc32c body))
  let s2 := wr { s1 with tfu := { s1.tfu with innov := q + 1 } } R.tfuInnovSeq q
  let s3 := signalAfter s2 [(a, 32)] 7 (rf s R.tfuInnovCfg 31 16) 1
  let n := rec8 b 3 1
  if 16 ≤ n then s3
  else
    let s4 := bumpWrap s3 (R.tfuSensCnt n)
    if flags / 2 % 2 = 1 then s4
    else
      let a : Int := (rd s4 (R.tfuSensNis n)).toNat
      wr s4 (R.tfuSensNis n) (BitVec.ofInt 32 (a + divRne (nis - a) 16))

/-- The checks of an UPDATE block (R295): the first byte that fails. -/
def updateChecks (s : State) (b : List Byte) : List (Nat × Bool) :=
  let f := rec8 b 1 1
  let ty := rec8 b 2 1
  [(1, decide (f ≤ 31) && (if f = 0 then rb s R.tfuEgoCfg 31 else rb s (R.tfuObjCfg (f - 1)) 31)),
   (2, (measUnits ty).isSome && (if f = 0 then decide (ty < 0x10) else decide (0x10 ≤ ty))),
   (8, engineRange s (rec8 b 8 8) 160), (24, zeros b 24 40)]

/-- What a measurement record holds as 0: its reserved bytes, the rows of z beyond m, and the reference time but for a RELPOSE
(R295). -/
def measForm (r : List Byte) (ty m : Nat) : Bool :=
  zeros r 148 12 && zeros r (16 + 8 * m) (48 - 8 * m) && (ty == 0x03 || zeros r 8 8)

/-- H in 2^−24 before its saturation, for column exponents `e` and innovation units `u`. -/
def normH (h : List (List Int)) (u e : List Int) : List (List Int) :=
  mGen h.length e.length fun i j => raw24 (mAt h i j) (vAt u i - vAt e j)

/-- An ego update at a pose of the history (R298). -/
def egoUpdate (s : State) (j : Job) (r : List Byte) (u : List Int) (h rp : PoseAt) (clamped : Bool) : State :=
  let ty := rec8 j.block 2 1
  let n := tfuN s
  let (nu, hm) := egoInnov n ty r h rp
  let m := u.length
  match kalman s.tfu.p (normH hm u ((List.range n).map (tfuExp s))) (measR r m) (List.zipWith raw24 nu u) with
  | (none, sat) =>
    let s1 := bump (tfuEvent (covSat s sat) 4) R.tfuNumericCnt
    report (innovate s1 j r 0x22 0xFFFFFFFF m (2 + clamped.toNat)) j.owner 0x22
  | (some x, sat) =>
    let s1 := setCov { s with tfu := { fold s.tfu x.delta with aided := some s.dt.now } } x.p sat
    let s2 := poseFlag (bumpWrap s1 R.tfuUpdates) 2
    let s3 := if tfuMode s2 = 0 then s2 else setMode s2 2
    let st := if clamped then 0x06 else tfuOk s
    report (innovate s3 j r st x.nis m clamped.toNat) j.owner st

/-- The unit exponents of an object filter's elements. -/
def objExp (i : Nat) : Int := if i < 3 then 3 else -2

/-- What object arithmetic has saturated and floored (R288). -/
structure ObjCounts where
  sat : Nat
  floored : Nat
deriving DecidableEq, Repr

/-- The prediction of an object filter over a time: constant velocity or acceleration with white noise (R304). -/
def objPredict (s : State) (k : Nat) (o : TfuObj) (t : Int) : TfuObj × ObjCounts :=
  if t ≤ o.time then (o, ⟨0, 0⟩)
  else
    let n := o.x.length
    let tau := fxOf (t - o.time) 0 / 1000000000
    let q := fxOf (rd s (R.tfuObjQ k)).toNat 16
    let pw := fun (e : Nat) => (List.range e).foldl (fun a _ => fxm a tau) fx1
    let fm := mGen n n fun i j => if i = j then fx1 else if j = i + 3 then tau else if j = i + 6 then pw 2 / 2 else 0
    let qm := mGen n n fun i j =>
      if i % 3 ≠ j % 3 then 0
      else
        let d := n / 3 - 1
        let a := d - i / 3
        let b := d - j / 3
        let fact := fun (e : Nat) => (List.range e).foldl (fun x y => x * (y + 1)) 1
        fxm q (pw (a + b + 1)) / ((a + b + 1) * (fact a * fact b) : Nat)
    let (f, c0) := satMat (mGen n n fun i j => raw24 (mAt fm i j) (objExp i - objExp j))
    let (t1, c1) := gen24 n n fun i j => dot48 (mRow f i) (mRow o.p j)
    let (pn, c2) := sym24 n fun i j => dot48 (mRow t1 i) (mRow f j) + raw24 (mAt qm i j) (objExp i + objExp j) * 2 ^ 24
    let x := (List.range n).map fun i => satS 64 (fxTo 24 (vDot (mRow fm i) (o.x.map fun v => fxOf v 24)))
    let (pf, fl) := floorDiag pn
    ({ o with time := t, x := x, p := pf }, ⟨c0 + c1 + c2, fl⟩)

/-- A covariance code as an entry in 2^−24, before its saturation, of an element with unit exponent `e`; 0xFFFF reads as the
largest value (R300). -/
def codeEntry (c : Nat) (e : Int) : Int :=
  if c = 0xFFFF then 0x7FFFFFFF else raw24 (covVal c) (2 * e)

/-- The first update of an object filter (R304). -/
def objInit (s : State) (k ty : Nat) (r : List Byte) (t : Int) (h : PoseAt) : TfuObj × ObjCounts × State :=
  let rm := quatMat h.q
  let pos := vAdd h.pos (mVec rm (measZ3 r 0 24))
  let n := if rb s (R.tfuObjCfg k) 30 then 9 else 6
  let rr := measR r (if ty = 0x10 then 3 else 6)
  let rq := mGen 3 3 fun i j => norm24 (mAt rm i j) 0
  let (t1, c0) := gen24 3 3 fun i j => ((List.range 3).map fun l => mAt rq i l * mAt rr l j).sum
  let (pp, c1) := sym24 3 fun i j => dot48 (mRow t1 i) (mRow rq j)
  let (free, s1) := drawNat s
  let (vs, c2) := satVec [codeEntry (rf s (R.tfuObjVinit k) 15 0) (-2)]
  let vv := vAt vs 0
  let p := mGen n n fun i j =>
    if i < 3 ∧ j < 3 then mAt pp i j
    else if i ≠ j then 0
    else if i < 6 then vv
    else (free % 2 ^ 31 : Nat)
  let (pf, fl) := floorDiag p
  (⟨t, 1, (pos.map fun x => satS 64 (fxTo 24 x)) ++ List.replicate (n - 3) 0, pf⟩, ⟨c0 + c1 + c2, fl⟩, s1)

/-- An object filter replaced. -/
def setObj (s : State) (k : Nat) (o : Option TfuObj) : State :=
  { s with tfu := { s.tfu with objs := tabSet none s.tfu.objs k o } }

/-- Covariance saturations and floored diagonals of an object filter, counted. -/
def objSat (s : State) (c : ObjCounts) : State :=
  bumpN (if c.sat = 0 then s else tfuEvent (bumpN s R.tfuCovsatCnt c.sat) 5) R.tfuNumericCnt c.floored

/-- An object update (R304). -/
def objUpdate (s : State) (j : Job) (r : List Byte) (u : List Int) (t : Int) (h : PoseAt) (clamped : Bool) : State :=
  let k := rec8 j.block 1 1 - 1
  let ty := rec8 j.block 2 1
  let m := u.length
  let st := if clamped then 0x06 else tfuOk s
  match tabGet none s.tfu.objs k with
  | none =>
    let (o, c, s1) := objInit s k ty r t h
    let s2 := wf (bumpWrap (setObj (objSat s1 c) k (some o)) R.tfuUpdates) (R.tfuObjCfg k) 29 29 1
    let (free, s3) := drawNat s2
    report (innovate s3 j r st (free % 2 ^ 32) m clamped.toNat) j.owner st
  | some o0 =>
    let (o, sat) := objPredict s k o0 t
    let n := o.x.length
    let rt := mTr (quatMat h.q)
    let x := o.x.map fun v => fxOf v 24
    let hm := mGen m n fun i c => if i < 3 ∧ c < 3 then mAt rt i c else if 3 ≤ i ∧ c = i then fx1 else 0
    let nu := vSub (measZ3 r 0 24) (mVec rt (vSub (x.take 3) h.pos)) ++
      (if ty = 0x11 then vSub (measZ3 r 3 24) ((x.drop 3).take 3) else [])
    let s0 := objSat s sat
    match kalman o.p (normH hm u ((List.range n).map objExp)) (measR r m) (List.zipWith raw24 nu u) with
    | (none, c) =>
      let s1 := bump (tfuEvent (objSat (setObj s0 k (some o)) ⟨c, 0⟩) 4) R.tfuNumericCnt
      report (innovate s1 j r 0x22 0xFFFFFFFF m (2 + clamped.toNat)) j.owner 0x22
    | (some y, c) =>
      let xn := (List.range n).map fun i => satS 64 (vAt o.x i + (if i < 3 then vAt y.delta i * 8 else rne (vAt y.delta i) 2))
      let (pf, fl) := floorDiag y.p
      let s1 := objSat (setObj s0 k (some { o with x := xn, p := pf, updates := o.updates + 1 })) ⟨c, fl⟩
      report (innovate (bumpWrap s1 R.tfuUpdates) j r st y.nis m clamped.toNat) j.owner st

/-- The work of an UPDATE job. -/
def updateJob (s : State) (j : Job) : State :=
  let b := j.block
  match firstBad (updateChecks s b), measUnits (rec8 b 2 1) with
  | some byte, _ => tfuRefuse s j byte
  | none, none => tfuRefuse s j 2
  | none, some u =>
    let a := rec8 b 8 8
    jobIo s [(a, 160)] [] (fun s => report s j.owner 0x26) fun s =>
      let r := ldBytes s a 160
      if !measForm r (rec8 b 2 1) u.length then tfuRefuse s j 8
      else
        let t0 : Int := rec8 r 0 8
        let last := s.tfu.pose.time
        let clamped := decide (last < t0)
        let t := if clamped then last else t0
        let ref := histAt (rec8 r 8 8) s.tfu.hist none
        match histAt t s.tfu.hist none with
        | none => report (innovate s j r 0x29 0xFFFFFFFF u.length 2) j.owner 0x29
        | some h =>
          if rec8 b 1 1 = 0 then
            if rec8 b 2 1 = 0x03 then
              match ref with
              | some rp => egoUpdate s j r u h rp clamped
              | none => report (innovate s j r 0x29 0xFFFFFFFF u.length 2) j.owner 0x29
            else egoUpdate s j r u h h clamped
          else objUpdate s j r u t h clamped

/-- UPDATE. -/
def execUpdate (s : State) : Out := tfuWork 1 updateJob s

/-! ### RESET (R300) -/

/-- The work of a RESET job. -/
def resetJob (s : State) (j : Job) : State :=
  let b := j.block
  let a := rec8 b 8 8
  match firstBad [(0, rb s R.tfuEgoCfg 31), (8, engineRange s a 128), (24, zeros b 24 40)] with
  | some byte => tfuRefuse s j byte
  | none =>
    jobIo s [(a, 128)] [] (fun s => report s j.owner 0x26) fun s =>
      let r := ldBytes s a 128
      let q := [0, 1, 2, 3].map fun i => recS r (32 + 4 * i) 4
      if q = [0, 0, 0, 0] ∨ zeros r 60 4 = false ∨ zeros r 112 16 = false then tfuRefuse s j 8
      else
        let n := tfuN s
        let pose : TfuPose := ⟨rec8 r 0 8, [0, 1, 2].map fun i => recS r (8 + 8 * i) 8, storeQuat (q.map fun x => fxOf x 30),
          [0, 1, 2].map fun i => recS r (48 + 4 * i) 4⟩
        let (p, sat) := satMat (mGen n n fun i k => if i = k then codeEntry (rec8 r (64 + 2 * i) 2) (tfuExp s i) else 0)
        let s1 := { s with tfu := { s.tfu with
          pose := pose, bg := [0, 0, 0], ba := [0, 0, 0], aux := List.replicate (n - 15) 0, hist := [] } }
        let s2 := poseFlag (tfuEvent (setCov s1 p sat) 0) 3
        report (if tfuMode s2 = 0 then setMode s2 1 else s2) j.owner (tfuOk s)

/-- TFU_RESET. -/
def execTfuReset (s : State) : Out := tfuWork 2 resetJob s

/-! ### MOTION (R307) -/

/-- The pose nearest a time, with whether the time lay outside the history. -/
def poseNear (s : State) (t : Int) : Option PoseAt × Bool :=
  match histAt t s.tfu.hist none with
  | some p => (some p, decide (((s.tfu.hist.map TfuPose.time).headD 0) < t))
  | none => (s.tfu.hist.getLast?.map poseAt, true)

/-- A knot of the motion table: time, nine elements of R_m in Q2.30, t_m in 2^−16 m. -/
def motionKnot (ext : List Byte) (pc pk : PoseAt) (tk : Int) : List Byte :=
  let rbl := mGen 3 3 fun i j => fxOf (recS ext (4 * (3 * i + j)) 4) 30
  let tbl := [0, 1, 2].map fun i => fxOf (recS ext (36 + 4 * i) 4) 16
  let rlt := mTr rbl
  let rct := mTr (quatMat pc.q)
  let rk := quatMat pk.q
  let rm := mMul rlt (mMul rct (mMul rk rbl))
  let tm := mVec rlt (vSub (mVec rct (vSub (vAdd (mVec rk tbl) pk.pos) pc.pos)) tbl)
  leBytesI 8 tk ++ (rm.flatten.map fun x => leBytesI 4 (satS 32 (fxTo 30 x))).flatten ++
    (tm.map fun x => leBytesI 4 (satS 32 (fxTo 16 x))).flatten ++ leBytes 8 0

/-- The work of a MOTION job, which latched the lidar's and the camera's latch (R193). -/
def motionJob (s : State) (j : Job) : State :=
  let b := j.block
  let m := rec8 b 1 1
  let n := rec8 b 2 1
  let nk := rec8 b 3 1
  let ea := rec8 b 8 8
  let ta := rec8 b 16 8
  match firstBad [(1, decide (m < 16) && fsEn s m && fsType s m == 1), (2, decide (n < 16) && fsEn s n && fsType s n == 0),
      (3, decide (2 ≤ nk ∧ nk ≤ 33)), (8, engineRange s ea 48), (16, engineRange s ta (64 * nk)), (24, zeros b 24 40)] with
  | some byte => tfuRefuse s j byte
  | none =>
    let lw := BitVec.ofNat 32 (j.latch.getD 0 0)
    let cw := BitVec.ofNat 32 (j.latch.getD 1 0)
    if !bit lw 31 || !bit cw 31 then report s j.owner 0x25
    else
      let la := fsBuf s m (fld lw 3 0)
      let ca := fsBuf s n (fld cw 3 0)
      jobIo s [(la, 64), (ca, 64), (ea, 48)] [(ta, 64 * nk)] (fun s => report s j.owner 0x26) fun s =>
        let lr := ldBytes s la 64
        let t0 : Int := rec8 lr 16 8
        let tc : Int := rec8 (ldBytes s ca 64) 16 8
        let t1 := max (t0 + ((rec8 lr 8 8 : Int) - rec8 lr 0 8) + rec8 b 4 4) (t0 + nk - 1)
        let ext := ldBytes s ea 48
        match poseNear s tc with
        | (none, _) => report s j.owner 0x25
        | (some pc, oc) =>
          let knots := (List.range nk).map fun k =>
            let tk := t0 + (k : Int) * (t1 - t0) / (nk - 1 : Nat)
            let (p, o) := poseNear s tk
            (motionKnot ext pc (p.getD pc) tk, o)
          let s1 := jobStore j s ta (knots.map Prod.fst).flatten
          report s1 j.owner (if oc || knots.any Prod.snd then 0x06 else tfuOk s)

/-- MOTION. -/
def execMotion (s : State) : Out := tfuWork 3 motionJob s

/-! ### REPORT (R305) -/

/-- An object record. -/
def objRecord (s : State) (k : Nat) (o : TfuObj) : List Byte :=
  let cfg := rd s (R.tfuObjCfg k)
  let code := fun (i : Nat) => diagCode (mAt o.p i i) (24 - 2 * objExp i)
  leBytes 4 (rd s (R.tfuObjTrack k)).toNat ++ leBytes 1 (3 + 4 * (bit cfg 30).toNat) ++ leBytes 1 o.x.length ++
    leBytes 2 (min o.updates 65535) ++ leBytesI 8 o.time ++ ((o.x.take 3).map (leBytesI 8)).flatten ++
    (((o.x.drop 3).take 3).map fun v => leBytesI 4 (satS 32 (rne v 8))).flatten ++
    ([0, 1, 2, 3, 4, 5].map fun i => leBytes 2 (code i)).flatten

/-- The filters predicted to a time, in order. -/
def predictAll (s : State) (t : Int) : State :=
  (List.range 31).foldl (fun st k =>
    match tabGet none st.tfu.objs k with
    | some o => if rb st (R.tfuObjCfg k) 31 then let (o1, n) := objPredict st k o t; objSat (setObj st k (some o1)) n else st
    | none => st) s

/-- The work of a REPORT job. -/
def reportJob (s : State) (j : Job) : State :=
  let b := j.block
  let a := rec8 b 8 8
  match firstBad [(8, engineRange s a 2048), (24, zeros b 24 40)] with
  | some byte => tfuRefuse s j byte
  | none =>
    jobIo s [] [(a, 2048)] (fun s => report s j.owner 0x26) fun s =>
    let t := s.tfu.pose.time
    let s1 := predictAll s t
    let en := ((List.range 31).filter fun k => rb s (R.tfuObjCfg k) 31).length
    let hdr := leBytesI 8 t ++ leBytes 5 0 ++ leBytes 1 (tfuOk s) ++ leBytes 2 0 ++ leBytes 1 en ++ leBytes 47 0
    let recs := (List.range 31).map fun k =>
      match tabGet none s1.tfu.objs k with
      | some o => if rb s1 (R.tfuObjCfg k) 31 then objRecord s1 k o else leBytes 64 0
      | none => leBytes 64 0
    report (jobStore j s1 a (hdr ++ recs.flatten)) j.owner (tfuOk s)

/-- REPORT. -/
def execReport (s : State) : Out := tfuWork 4 reportJob s

/-! ### Enable (R292, R302, R310, R311) -/

/-- The longest operation of R294 in FABRIC_CLK cycles. -/
def longestOp (n : Nat) : Nat := max (2 * n ^ 3 + 36 * n ^ 2 + 3216) 37600

/-- Whether an enable passes its checks, for a configuration word. -/
def egoEnableOk (s : State) (v : Word) : Bool :=
  let n := 15 + fld v 15 12
  let per := slotPeriod s (fld v 29 28)
  let sem := rf s R.tfuInnovCfg 31 16
  let nn := rf s R.tfuInnovCfg 3 0
  decide (fld v 23 16 ≠ 0) && decide (fld v 15 12 ≤ 9) && !(bit v 30 && fld v 29 28 == fld v 27 26) &&
    decide (rd s R.tfuGyroFs ≠ 0) && decide (rd s R.tfuAccFs ≠ 0) && semFieldOk sem && decide (4 ≤ nn ∧ nn ≤ 12) &&
    rangeOk s (rd64 s R.tfuInnovLo R.tfuInnovHi).toNat (32 * 2 ^ nn) &&
    decide (5 * (2 * n ^ 3 + 24 * n ^ 2 + 3000 + longestOp n) < 8 * per) && decide (1000000 ≤ fld v 23 16 * per)

/-- The filter cleared at an enable: MODE is INIT, the history is empty. -/
def egoClear (s : State) : State :=
  let n := tfuN s
  let s1 := { s with tfu := { s.tfu with
    pose := pose0, bg := [0, 0, 0], ba := [0, 0, 0], aux := List.replicate (n - 15) 0, p := mZero n n, hist := []
    rate := [0, 0, 0], flags := 0, count := 0, good := [], aided := none, innov := 0
    alt := rb s (R.ingIsStatus (tfuPrimary s)) 1 } }
  let s2 := (List.range 24).foldl (fun st i => wr st (R.tfuEgoDiag i) 0) s1
  wf (setMode s2 0) R.tfuStatus 5 4 0

/-- TFU_EGO_CFG_WRITE. -/
def execTfuEgoCfgWrite (v : Word) (s : State) : Out :=
  fabric s fun s =>
    let new := v &&& 0xFCFFFF00
    let off := R.tfuEgoCfg % 65536
    if rb s R.tfuEgoCfg 31 then
      if bit new 31 then tfuErr s 2 off 0 else wr s R.tfuEgoCfg new
    else if !bit new 31 then wr s R.tfuEgoCfg new
    else if egoEnableOk s new then egoClear (wr s R.tfuEgoCfg new)
    else tfuErr (wr s R.tfuEgoCfg (setBit new 31 false)) 1 off 0

end Sys2Proof.Machine
end

