-- ==== Sys2Proof/Machine/SolverArith.lean ====
section
/-! DEFINITION. The arithmetic of the least-squares engine: the accumulator, the writeback, the reciprocal square root, the
damping, the panels of the factor unit, substitution, and the guard band with its retry (R337 to R356). -/

namespace Sys2Proof.Machine

/-! ### Accumulator and writeback (R340 to R342) -/

/-- The 96-bit accumulator: exact contents and overflow flag. -/
structure Acc where
  v : Int
  ovf : Bool
deriving DecidableEq, Repr

/-- An empty accumulator. -/
def acc0 : Acc := ⟨0, false⟩

/-- A term added, already in accumulator units; `big` says that its shift moved significant bits beyond bit 95. -/
def accAdd (a : Acc) (x : Int) (big : Bool) : Acc := ⟨a.v + x, a.ovf || big || ovfS 96 (a.v + x)⟩

/-- A value shifted left, or right towards minus infinity, with whether a left shift passed bit 95. -/
def shiftTo (x s : Int) : Int × Bool :=
  if 0 ≤ s then (x * 2 ^ s.toNat, ovfS 96 (x * 2 ^ s.toNat)) else (x / 2 ^ (-s).toNat, false)

/-- An element enters the sum at output exponent `eo`. -/
def accElem (a : Acc) (m e eo : Int) : Acc :=
  let (x, b) := shiftTo m (32 + e - eo)
  accAdd a x b

/-- A product of two elements, added or subtracted. -/
def accProd (a : Acc) (sub : Bool) (m1 e1 m2 e2 eo : Int) : Acc :=
  let (x, b) := shiftTo (m1 * m2) (e1 + e2 - eo + 1)
  accAdd a (if sub then -x else x) b

/-- Width of a mantissa in two's complement, sign included. -/
def widthS (m : Int) : Nat := if 0 ≤ m then bitLen m.toNat + 1 else bitLen (-m - 1).toNat + 1

/-- The writeback: mantissa and width. -/
def writeback (a : Acc) : Int × Nat :=
  let m := rne a.v 32
  (m, if a.ovf then 97 else widthS m)

/-! ### The reciprocal square root (R350) -/

/-- T[i] = RNE(2^14 / √((i + 0.5) / 256)). -/
def rsqrtT (i : Nat) : Nat := (isqrt (2 ^ 39 / (2 * i + 1)) + 1) / 2

/-- One Newton step on y in UQ2.30 for x in UQ0.32. -/
def rsqrtStep (x y : Int) : Int :=
  let t := rne (y * y) 30
  let u := rne (x * t) 32
  y + rne (y * (2 ^ 30 - u)) 31

/-- 1/√d for a pivot of mantissa `m` (positive) at exponent `e`: mantissa and exponent. -/
def rsqrt (m : Nat) (e : Int) : Int × Int :=
  let n := bitLen m - 1
  let x0 : Nat := if n ≤ 31 then m * 2 ^ (31 - n) else m / 2 ^ (n - 31)
  let e0 : Int := n + e - 30
  let x := if e0 % 2 = 1 then x0 / 2 else x0
  let ee := if e0 % 2 = 1 then e0 + 1 else e0
  let y0 : Int := rsqrtT (x / 2 ^ 24) * 2 ^ 16
  let y := rsqrtStep x (rsqrtStep x y0)
  (rne y 1, 2 - ee / 2)

/-! ### Damping (R348) -/

/-- c_f. -/
def dampC (f : Nat) : Int := [0x8000, 0x9837, 0xB505, 0xD745].getD f 0

/-- The damping term of a diagonal element at exponent `eo`; none for Λ = −128. -/
def accDamp (a : Acc) (lam m e dfloor eo : Int) : Acc :=
  if lam = -128 then a
  else
    let q := lam / 4
    let c := dampC (lam % 4).toNat
    let small := decide (scale2 (m * fx1) (e - 31) < scale2 fx1 dfloor)
    let (x, b) := if small then shiftTo c (dfloor + q - 15 + 63 - eo) else shiftTo (m * c) (q - 15 + 32 + e - eo)
    accAdd a x b

/-! ### Panels -/

/-- The place of an element. -/
def elemKey (row col : Nat) : Nat := row * 2 ^ 24 + col

/-- A supernode as the factor unit runs it: its tangent columns, the rows below it, PIVOT_MIN's exponent. -/
structure PNode where
  cols : List Nat
  rows : List Nat
  pmin : Int
deriving DecidableEq, Repr

/-- A schedule laid out on the tangent columns of a problem: supernodes, the supernode of each column (plus one), the columns
of TOMB variables. -/
structure FPlan where
  nodes : List PNode
  nodeOf : Tab Nat
  tomb : List Nat
deriving DecidableEq, Repr

/-- What the factor unit reports besides its results. -/
inductive FEvent where
  | rescale (node k kind : Nat)
  | clamp (node col : Nat)
deriving DecidableEq, Repr

/-- The factor unit in the course of an iteration: factor, reciprocals, forward and backward values with the exponents they
were written at, group exponents [A, P, L, G, Y, X] of each supernode, supernodes retried, least headroom of each group kind,
events, the writeback that passed the guard band (width, kind), and the supernode at which a second pass stopped it. -/
structure FUnit where
  l : Tab Int
  r : Tab (Int × Int)
  y : Tab (Int × Int)
  x : Tab (Int × Int)
  exps : List (List Int)
  retried : List Nat
  hr : List Nat
  events : List FEvent
  guard : Option (Nat × Nat)
  stopped : Option Nat
deriving DecidableEq, Repr

/-- Exponent of a group of a supernode. -/
def grpExp (exps : List (List Int)) (node kind : Nat) : Int := (exps.getD node []).getD kind 0

/-- The least headroom of a kind lowered. -/
def lowHr (hr : List Nat) (kind h : Nat) : List Nat := hr.modify kind fun x => min x h

/-- A writeback of a kind: within the guard band the run goes on with its mantissa; past it the supernode stops. -/
def fuWrite (f : FUnit) (kind : Nat) (a : Acc) (k : Int → FUnit → FUnit) : FUnit :=
  if f.guard.isSome then f
  else
    let (m, b) := writeback a
    if b ≤ 32 then k m { f with hr := lowHr f.hr kind (32 - b) }
    else { f with hr := lowHr f.hr kind 0, guard := some (b, kind) }

/-- The supernode of a column. -/
def nodeOfCol (p : FPlan) (c : Nat) : Nat := tabGet 0 p.nodeOf c - 1

/-- The stored elements of a row, or of a column below its diagonal, of the factor. -/
def lRow (f : FUnit) (row : Nat) : List (Nat × Int) :=
  (f.l.filter fun e => decide (e.1 / 2 ^ 24 = row)).map fun e => (e.1 % 2 ^ 24, e.2)
def lCol (f : FUnit) (col : Nat) : List (Nat × Int) :=
  (f.l.filter fun e => decide (e.1 % 2 ^ 24 = col) && decide (e.1 / 2 ^ 24 ≠ col)).map fun e => (e.1 / 2 ^ 24, e.2)

/-- The updates of element (i, j) by the columns before j (R347 step 1). -/
def accUpdates (p : FPlan) (f : FUnit) (i j : Nat) (eo : Int) (a : Acc) : Acc :=
  (lRow f j).foldl (fun a e =>
    if j ≤ e.1 then a
    else
      let el := grpExp f.exps (nodeOfCol p e.1) 2
      accProd a true (tabGet 0 f.l (elemKey i e.1)) el e.2 el eo) a

/-- The mantissa of PIVOT_MIN at an exponent: 1 LSB where 2^PMIN lies below the resolution (R352). -/
def pivotMin (pmin e : Int) : Int := max 1 (satS 32 (scale2 1 (pmin - e + 31)))

/-- The assembled elements of a pass as the factor unit reads them. -/
structure ABlocks where
  a : Tab Int
  g : Tab Int
  expA : List Int
  expG : List Int
deriving DecidableEq, Repr

/-- Column `j` of supernode `s` (R347, R352): diagonal, then the rows below. -/
def factorCol (p : FPlan) (ab : ABlocks) (lam dfloor : Int) (s : Nat) (nd : PNode) (f : FUnit) (cj : Nat × Nat) : FUnit :=
  let (c, j) := cj
  if p.tomb.contains j then f
  else
    let ep := grpExp f.exps s 1
    let el := grpExp f.exps s 2
    let ea := ab.expA.getD s 0
    let ajj := tabGet 0 ab.a (elemKey j j)
    let a0 := accDamp (accElem acc0 ajj ea ep) lam ajj ea dfloor ep
    fuWrite f 1 (accUpdates p f j j ep a0) fun d0 f1 =>
      let pm := pivotMin nd.pmin ep
      let f2 := if d0 < pm then { f1 with events := f1.events ++ [.clamp s c] } else f1
      let d := max d0 pm
      let (mr, er) := rsqrt d.toNat ep
      fuWrite { f2 with r := tabSet (0, 0) f2.r j (mr, er) } 2 (accProd acc0 false d ep mr er el) fun m f3 =>
        let f4 := { f3 with l := tabSet 0 f3.l (elemKey j j) m }
        ((nd.cols.drop (c + 1) ++ nd.rows).filter fun i => !p.tomb.contains i).foldl (fun f i =>
          fuWrite f 1 (accUpdates p f i j ep (accElem acc0 (tabGet 0 ab.a (elemKey i j)) ea ep)) fun u f =>
            fuWrite f 2 (accProd acc0 false u ep mr er el) fun m f => { f with l := tabSet 0 f.l (elemKey i j) m }) f4

/-- Columns with their places in the supernode. -/
def indexed (l : List Nat) : List (Nat × Nat) := (List.range l.length).zip l

/-- The panel of a supernode. -/
def factorNode (p : FPlan) (ab : ABlocks) (lam dfloor : Int) (s : Nat) (nd : PNode) (f : FUnit) : FUnit :=
  (indexed nd.cols).foldl (factorCol p ab lam dfloor s nd) f

/-- The forward substitution of a supernode (R353). -/
def forwardNode (p : FPlan) (ab : ABlocks) (s : Nat) (nd : PNode) (f : FUnit) : FUnit :=
  (nd.cols.filter fun j => !p.tomb.contains j).foldl (fun f j =>
    let ey := grpExp f.exps s 4
    let a0 := accElem acc0 (tabGet 0 ab.g j) (ab.expG.getD s 0) ey
    let a := (lRow f j).foldl (fun a e =>
      if j ≤ e.1 then a
      else
        let (ym, ye) := tabGet (0, 0) f.y e.1
        accProd a true e.2 (grpExp f.exps (nodeOfCol p e.1) 2) ym ye ey) a0
    fuWrite f 4 a fun v f =>
      let (mr, er) := tabGet (0, 0) f.r j
      fuWrite f 4 (accProd acc0 false v ey mr er ey) fun m f => { f with y := tabSet (0, 0) f.y j (m, ey) }) f

/-- The backward substitution of a supernode, its columns in reverse order (R353). -/
def backwardNode (p : FPlan) (s : Nat) (nd : PNode) (f : FUnit) : FUnit :=
  (nd.cols.reverse.filter fun j => !p.tomb.contains j).foldl (fun f j =>
    let ex := grpExp f.exps s 5
    let (ym, ye) := tabGet (0, 0) f.y j
    let el := grpExp f.exps s 2
    let a := (lCol f j).foldl (fun a e =>
      let (xm, xe) := tabGet (0, 0) f.x e.1
      accProd a true e.2 el xm xe ex) (accElem acc0 ym ye ex)
    fuWrite f 5 a fun v f =>
      let (mr, er) := tabGet (0, 0) f.r j
      fuWrite f 5 (accProd acc0 false v ex mr er ex) fun m f => { f with x := tabSet (0, 0) f.x j (m, ex) }) f

/-- Groups of a pair raised by `k`, to at most 31. -/
def raisePair (exps : List (List Int)) (s kind k : Nat) : List (List Int) :=
  let up := fun (l : List Int) (i : Nat) => l.modify i fun e => min (e + k) 31
  exps.modify s fun l => if kind ≤ 2 then up (up l 1) 2 else up (up l 4) 5

/-- R355: a supernode's work, repeated once after a writeback that passes the guard band; a second pass stops the solve. -/
def runNode (s : Nat) (body : FUnit → FUnit) (f : FUnit) : FUnit :=
  if f.stopped.isSome then f
  else
    let f1 := body f
    match f1.guard with
    | none => f1
    | some (b, kind) =>
      let k := min (max (b - 32) 1) 4
      if f1.retried.contains s || decide (31 ≤ grpExp f1.exps s kind) then { f1 with guard := none, stopped := some s }
      else
        let f2 := body { f1 with
          guard := none, exps := raisePair f1.exps s kind k, retried := f1.retried ++ [s]
          events := f1.events ++ [.rescale s k kind] }
        match f2.guard with
        | none => f2
        | some _ => { f2 with guard := none, stopped := some s }

/-- The supernode steps of an iteration in order: factorisation, forward pass, backward pass. -/
def fuSteps (n : Nat) : List (Nat × Nat) :=
  ((List.range n).map fun s => (0, s)) ++ ((List.range n).map fun s => (1, s)) ++ ((List.range n).reverse.map fun s => (2, s))

/-- One supernode step. -/
def fuStep (p : FPlan) (ab : ABlocks) (lam dfloor : Int) (f : FUnit) (st : Nat × Nat) : FUnit :=
  match p.nodes[st.2]? with
  | none => f
  | some nd =>
    runNode st.2 (fun f =>
      if st.1 = 0 then factorNode p ab lam dfloor st.2 nd f
      else if st.1 = 1 then forwardNode p ab st.2 nd f
      else backwardNode p st.2 nd f) f

/-- The first `t` supernode steps of an iteration. -/
def fuRun (p : FPlan) (ab : ABlocks) (lam dfloor : Int) (exps : List (List Int)) (hr : List Nat) (t : Nat) : FUnit :=
  ((fuSteps p.nodes.length).take t).foldl (fuStep p ab lam dfloor) ⟨[], [], [], [], exps, [], hr, [], none, none⟩

end Sys2Proof.Machine
end

