-- ==== Sys2Proof/Machine/SolverFactors.lean ====
section
/-! DEFINITION. The factors of the least-squares engine: values of variables, measurement records, residuals, Jacobians,
square-root information and robust kernels (R313 to R323). -/

namespace Sys2Proof.Machine

/-! ### Variables (R313, R314) -/

/-- Dimension of a kind, and the unit exponents of its rows. -/
def kindDim (k : Nat) : Nat := [0, 6, 3, 9, 9, 6].getD k 0
def kindUnits (k : Nat) : List Int :=
  match k with
  | 1 => [3, 3, 3, -6, -6, -6]
  | 2 => [3, 3, 3]
  | 3 => [-2, -2, -2, -12, -12, -12, -8, -8, -8]
  | 4 => [4, 4, 4, 4, -8, -8, -8, -8, -8]
  | 5 => [-4, -4, -4, -10, -10, -10]
  | _ => []

/-- Kind and flags of a variable record. -/
def vKind (v : List Byte) : Nat := rec8 v 4 1
def vFixed (v : List Byte) : Bool := rec8 v 5 1 % 2 == 1
def vTomb (v : List Byte) : Bool := rec8 v 5 1 / 2 % 2 == 1
def vFree (v : List Byte) : Bool := !vFixed v

/-- `n` signed fields of `w` bytes from an offset, in 2^−k. -/
def fields (v : List Byte) (off n w k : Nat) : List Int := (List.range n).map fun i => fxOf (recS v (off + w * i) w) k

/-- Position or translation, and rotation, of a POSE, POINT or EXTRIN. -/
def vPos (v : List Byte) : List Int := if vKind v = 5 then fields v 8 3 4 16 else fields v 8 3 8 24
def vQuat (v : List Byte) : List Int := quatUnit (if vKind v = 5 then fields v 20 4 4 30 else fields v 32 4 4 30)
def vRot (v : List Byte) : List (List Int) := quatMat (vQuat v)

/-- Velocity and biases of a VELBIAS. -/
def vVel (v : List Byte) : List Int := fields v 8 3 4 16
def vBg (v : List Byte) : List Int := fields v 20 3 4 20
def vBa (v : List Byte) : List Int := fields v 32 3 4 16

/-- fx, fy, cx, cy; coefficients; MAXR; model of an INTRIN. -/
def vFocal (v : List Byte) (i : Nat) : Int := fxOf (rec8 v (8 + 4 * i) 4) 16
def vCoef (v : List Byte) (i : Nat) : Int := fxOf (recS v (24 + 4 * i) 4) 28
def vMaxr (v : List Byte) : Int := fxOf (rec8 v 44 4) 28
def vModel (v : List Byte) : Nat := rec8 v 48 1

/-! ### Projection with its derivatives (R197, R319, R321) -/

/-- (x_d, y_d) with its derivative in (x, y), and in the five coefficients. -/
structure Distort where
  x : Int
  y : Int
  d : List (List Int)
  k : List (List Int)
deriving DecidableEq, Repr

/-- Model 0. -/
def distort0 (c : Nat → Int) (x y : Int) : Distort :=
  let r2 := fxm x x + fxm y y
  let r4 := fxm r2 r2
  let r6 := fxm r4 r2
  let f := fx1 + fxm (c 0) r2 + fxm (c 1) r4 + fxm (c 2) r6
  let df := c 0 + 2 * fxm (c 1) r2 + 3 * fxm (c 2) r4
  let xy := fxm x y
  let off := 2 * fxm xy df + 2 * fxm (c 3) x + 2 * fxm (c 4) y
  { x := fxm x f + 2 * fxm (c 3) xy + fxm (c 4) (r2 + 2 * fxm x x)
    y := fxm y f + fxm (c 3) (r2 + 2 * fxm y y) + 2 * fxm (c 4) xy
    d := [[f + 2 * fxm (fxm x x) df + 2 * fxm (c 3) y + 6 * fxm (c 4) x, off],
          [off, f + 2 * fxm (fxm y y) df + 6 * fxm (c 3) y + 2 * fxm (c 4) x]]
    k := [[fxm x r2, fxm x r4, fxm x r6, 2 * xy, r2 + 2 * fxm x x], [fxm y r2, fxm y r4, fxm y r6, r2 + 2 * fxm y y, 2 * xy]] }

/-- The angle of a direction with tangent `r`. -/
def fxAtan (r : Int) : Int := atan2Pos r.toNat fx1.toNat

/-- Model 1. -/
def distort1 (c : Nat → Int) (x y : Int) : Distort :=
  let r2 := fxm x x + fxm y y
  let r := fxSqrt r2
  if r = 0 then { x := 0, y := 0, d := [[fx1, 0], [0, fx1]], k := [[0, 0, 0, 0, 0], [0, 0, 0, 0, 0]] }
  else
    let th := fxAtan r
    let t2 := fxm th th
    let t4 := fxm t2 t2
    let t6 := fxm t4 t2
    let t8 := fxm t4 t4
    let td := fxm th (fx1 + fxm (c 0) t2 + fxm (c 1) t4 + fxm (c 2) t6 + fxm (c 3) t8)
    let dtd := fx1 + 3 * fxm (c 0) t2 + 5 * fxm (c 1) t4 + 7 * fxm (c 2) t6 + 9 * fxm (c 3) t8
    let sc := fxd td r
    let g := fxd (fxd dtd (fx1 + r2) - sc) r2
    let kk := fun (a : Int) => [t2, t4, t6, t8].map (fun t => fxm (fxm (fxd th r) t) a) ++ [0]
    { x := fxm sc x, y := fxm sc y
      d := [[sc + fxm g (fxm x x), fxm g (fxm x y)], [fxm g (fxm x y), sc + fxm g (fxm y y)]], k := [kk x, kk y] }

/-- A projection: u, v, derivative in X_c (2 × 3), derivative in the INTRIN (2 × 9). -/
structure Projected where
  u : Int
  v : Int
  dx : List (List Int)
  dk : List (List Int)
deriving DecidableEq, Repr

/-- π_K, or π_0 with every coefficient 0; none where R322 drops the point. -/
def projectPi (intr : List Byte) (zeroCoef : Bool) (xc : List Int) : Option Projected :=
  let z := vAt xc 2
  if 10 * z ≤ fx1 then none
  else
    let x := fxd (vAt xc 0) z
    let y := fxd (vAt xc 1) z
    let r := fxSqrt (fxm x x + fxm y y)
    if vMaxr intr < (if vModel intr = 0 then r else fxAtan r) then none
    else
      let c := fun (i : Nat) => if zeroCoef then 0 else vCoef intr i
      let d := if vModel intr = 0 then distort0 c x y else distort1 c x y
      let fx := vFocal intr 0
      let fy := vFocal intr 1
      let row := fun (f : Int) (i : Nat) =>
        let a := mAt d.d i 0
        let b := mAt d.d i 1
        [fxd (fxm f a) z, fxd (fxm f b) z, -(fxd (fxm f (fxm a x + fxm b y)) z)]
      let kr := fun (f : Int) (i : Nat) => (mRowOf d.k i).map fun v => if zeroCoef then 0 else fxm f v
      some { u := fxm fx d.x + vFocal intr 2, v := fxm fy d.y + vFocal intr 3, dx := [row fx 0, row fy 1]
             dk := [[d.x, 0, fx1, 0] ++ kr fx 0, [0, d.y, 0, fx1] ++ kr fy 1] }
where
  /-- A row of a matrix. -/
  mRowOf (m : List (List Int)) (i : Nat) : List Int := m.getD i []

/-! ### Residuals and Jacobians before whitening (R319 to R321) -/

/-- A factor evaluated: its residual, and, for each slot, its derivative. -/
structure RawEval where
  res : List Int
  jac : List (Nat × List (List Int))
deriving DecidableEq, Repr

/-- Jr⁻¹(φ) as I + ½[φ]× (R321). -/
def jrInv (phi : List Int) : List (List Int) := mAdd (mId 3) (skew (phi.map fun x => x / 2))

/-- (θ − sin θ) / θ³ from θ², by its series. -/
def sineRest (h : Int) : Int := altSeries h 3 60 0 (fx1 / 6)

/-- The right Jacobian Jr(φ) = I − ((1 − cos θ) / θ²) [φ]× + ((θ − sin θ) / θ³) [φ]×². -/
def jrOf (phi : List Int) : List (List Int) :=
  let h := vDot phi phi
  let k := skew phi
  let c := fxSincSq (h / 4)
  mAdd (mId 3) (mAdd (mScale (-(fxm c c) / 2) k) (mScale (sineRest h) (mMul k k)))

/-- A camera factor seen from a pose: slots POSE, POINT, INTRIN, EXTRIN. `rowsOf` makes residual and derivatives from X_c. -/
def cameraEval (pose pt ext : List Byte) (rowsOf : List Int → Option (List Int × List (List Int) × List (List Int))) :
    Option RawEval :=
  let rt := mTr (vRot pose)
  let rb := mTr (vRot ext)
  let b := mVec rt (vSub (vPos pt) (vPos pose))
  let xc := mVec rb (vSub b (vPos ext))
  match rowsOf xc with
  | none => none
  | some (res, dx, dk) =>
    let m := mMul rb rt
    some ⟨res, [(0, mMul dx (mHcat (mNeg m) (mMul rb (skew b)))), (1, mMul dx m), (2, dk),
      (3, mMul dx (mHcat (mNeg rb) (skew xc)))]⟩

/-- PINHOLE and FISHEYE. -/
def evalPoint (vs : List (List Byte)) (m : List Byte) : Option RawEval :=
  let intr := vs.getD 2 []
  cameraEval (vs.getD 0 []) (vs.getD 1 []) (vs.getD 3 []) fun xc =>
    (projectPi intr false xc).map fun p =>
      ([p.u - fxOf (rec8 m 0 4) 16, p.v - fxOf (rec8 m 4 4) 16], p.dx, p.dk)

/-- STEREO. -/
def evalStereo (vs : List (List Byte)) (m : List Byte) : Option RawEval :=
  let intr := vs.getD 2 []
  let b := fxOf (recS m 16 4) 16
  cameraEval (vs.getD 0 []) (vs.getD 1 []) (vs.getD 3 []) fun xc =>
    (projectPi intr true xc).map fun p =>
      let z := vAt xc 2
      let fx := vFocal intr 0
      let sh := fxd (fxm fx b) z
      let d0 := p.dx.getD 0 []
      let k0 := p.dk.getD 0 []
      ([p.u - fxOf (rec8 m 0 4) 16, p.v - fxOf (rec8 m 4 4) 16, p.u - sh - fxOf (rec8 m 8 4) 16],
        p.dx ++ [[vAt d0 0, vAt d0 1, vAt d0 2 + fxd sh z]], p.dk ++ [(vAt k0 0 - fxd b z) :: k0.drop 1])

/-- w = R (R_bl q + t_bl) + p with its derivatives in the pose and in the extrinsic. -/
def worldPoint (pose ext : List Byte) (q : List Int) : List Int × List (List Int) × List (List Int) :=
  let r := vRot pose
  let rl := vRot ext
  let b := vAdd (mVec rl q) (vPos ext)
  (vAdd (mVec r b) (vPos pose), mHcat (mId 3) (mNeg (mMul r (skew b))), mHcat r (mNeg (mMul r (mMul rl (skew q)))))

/-- LIDAR_POINT. -/
def evalLidarPoint (vs : List (List Byte)) (hasJ : Bool) (m : List Byte) : RawEval :=
  let (w, dp, de) := worldPoint (vs.getD 0 []) (vs.getD 2 []) (fields m 0 3 4 16)
  if hasJ then
    let (w2, dp2, de2) := worldPoint (vs.getD 1 []) (vs.getD 2 []) (fields m 12 3 4 16)
    ⟨vSub w w2, [(0, dp), (1, mNeg dp2), (2, mSub de de2)]⟩
  else ⟨vSub w (fields m 12 3 4 16), [(0, dp), (2, de)]⟩

/-- LIDAR_PLANE. -/
def evalLidarPlane (vs : List (List Byte)) (hasJ : Bool) (m : List Byte) : RawEval :=
  let ext := vs.getD 2 []
  let (w, dp, de) := worldPoint (vs.getD 0 []) ext (fields m 0 3 4 16)
  let n := fields m 12 3 4 30
  let q := fields m 24 3 4 16
  if hasJ then
    let pj := vs.getD 1 []
    let rjt := mTr (vRot pj)
    let rlt := mTr (vRot ext)
    let z := mVec rjt (vSub w (vPos pj))
    let y := mVec rlt (vSub z (vPos ext))
    let k := mMul rlt rjt
    ⟨[vDot n (vSub y q)], [(0, mMul [n] (mMul k dp)), (1, mMul [n] (mHcat (mNeg k) (mMul rlt (skew z)))),
      (2, mMul [n] (mAdd (mHcat (mNeg rlt) (skew y)) (mMul k de)))]⟩
  else ⟨[vDot n (vSub w q)], [(0, mMul [n] dp), (2, mMul [n] de)]⟩

/-- RELPOSE. -/
def evalRelpose (vs : List (List Byte)) (m : List Byte) : RawEval :=
  let pi := vs.getD 0 []
  let pj := vs.getD 1 []
  let rit := mTr (vRot pi)
  let qz := quatUnit (fields m 12 4 4 30)
  let rzt := mTr (quatMat qz)
  let d := mVec rit (vSub (vPos pj) (vPos pi))
  let th := quatLog (quatMul (quatConj qz) (quatMul (quatConj (vQuat pi)) (vQuat pj)))
  let k := mMul rzt rit
  let ji := jrInv th
  let z := mZero 3 3
  ⟨mVec rzt (vSub d (fields m 0 3 4 16)) ++ th,
    [(0, mHcat (mNeg k) (mMul rzt (skew d)) ++ mHcat z (mNeg (mMul ji (mMul (mTr (vRot pj)) (vRot pi))))),
     (1, mHcat k z ++ mHcat z ji)]⟩

/-- x ⊟ x0 with its derivative. -/
def boxMinus (v x0 : List Byte) : RawEval :=
  match vKind v with
  | 2 => ⟨vSub (vPos v) (vPos x0), [(0, mId 3)]⟩
  | 3 => ⟨vSub (vVel v ++ vBg v ++ vBa v) (vVel x0 ++ vBg x0 ++ vBa x0), [(0, mId 9)]⟩
  | 4 =>
    let all := fun (r : List Byte) => (List.range 4).map (vFocal r) ++ (List.range 5).map (vCoef r)
    ⟨vSub (all v) (all x0), [(0, mId 9)]⟩
  | _ =>
    let th := quatLog (quatMul (quatConj (vQuat x0)) (vQuat v))
    ⟨vSub (vPos v) (vPos x0) ++ th, [(0, mHcat (mId 3) (mZero 3 3) ++ mHcat (mZero 3 3) (jrInv th))]⟩

/-- PRIOR: x0 lies as bytes 8 to 55 of a variable record. -/
def evalPrior (vs : List (List Byte)) (m : List Byte) : RawEval :=
  let v := vs.getD 0 []
  boxMinus v (slice v 0 8 ++ m.take 48 ++ leBytes 8 0)

/-- CALIB. -/
def evalCalib (vs : List (List Byte)) (m : List Byte) : Option RawEval :=
  let intr := vs.getD 0 []
  let cam := vs.getD 1 []
  let lid := vs.getD 2 []
  let rb := mTr (vRot cam)
  let rl := vRot lid
  let q := fields m 0 3 4 16
  let xc := mVec rb (vSub (vAdd (mVec rl q) (vPos lid)) (vPos cam))
  (projectPi intr false xc).map fun p =>
    ⟨[p.u - fxOf (rec8 m 12 4) 16, p.v - fxOf (rec8 m 16 4) 16],
      [(0, p.dk), (1, mMul p.dx (mHcat (mNeg rb) (skew xc))),
       (2, mMul p.dx (mHcat rb (mNeg (mMul rb (mMul rl (skew q))))))]⟩

/-- A 3 × 3 matrix of a PREINT record. -/
def preMat (m : List Byte) (off k : Nat) : List (List Int) := mGen 3 3 fun i j => fxOf (recS m (off + 4 * (3 * i + j)) 4) k

/-- INERTIAL, with g0 (R320). -/
def evalInertial (g0 : Int) (vs : List (List Byte)) (m : List Byte) : RawEval :=
  let pi := vs.getD 0 []
  let bi := vs.getD 1 []
  let pj := vs.getD 2 []
  let bj := vs.getD 3 []
  let dt := fxOf ((rec8 m 8 8 : Int) - rec8 m 0 8) 0 / 1000000000
  let g := [0, 0, -g0]
  let jrg := preMat m 108 24
  let jvg := preMat m 144 24
  let jva := preMat m 180 24
  let jpg := preMat m 216 24
  let jpa := preMat m 252 24
  let dbg := vSub (vBg bi) (fields m 84 3 4 20)
  let dba := vSub (vBa bi) (fields m 96 3 4 16)
  let w := mVec jrg dbg
  let dr := mMul (preMat m 24 30) (quatMat (quatExp w))
  let dv := vAdd (fields m 60 3 4 16) (vAdd (mVec jvg dbg) (mVec jva dba))
  let dp := vAdd (fields m 72 3 4 20) (vAdd (mVec jpg dbg) (mVec jpa dba))
  let ri := vRot pi
  let rit := mTr ri
  let p := mVec rit (vSub (vSub (vSub (vPos pj) (vPos pi)) (vScale dt (vVel bi))) (vScale (fxm dt dt / 2) g))
  let v := mVec rit (vSub (vSub (vVel bj) (vVel bi)) (vScale dt g))
  let e := mMul (mTr dr) (mMul rit (vRot pj))
  let th := quatLog (matQuat e)
  let ji := jrInv th
  let z := mZero 3 3
  let i3 := mId 3
  let rows := fun (l : List (List (List Int))) => l.foldl mHcat [[], [], []]
  let jb := mNeg (mMul ji (mMul (mTr e) (mMul (jrOf w) jrg)))
  ⟨vSub p dp ++ vSub v dv ++ th ++ vSub (vBg bj) (vBg bi) ++ vSub (vBa bj) (vBa bi),
    [(0, rows [mNeg rit, skew p] ++ rows [z, skew v] ++ rows [z, mNeg (mMul ji (mMul (mTr (vRot pj)) ri))] ++
        rows [z, z] ++ rows [z, z]),
     (1, rows [mNeg (mScale dt rit), mNeg jpg, mNeg jpa] ++ rows [mNeg rit, mNeg jvg, mNeg jva] ++ rows [z, jb, z] ++
        rows [z, mNeg i3, z] ++ rows [z, z, mNeg i3]),
     (2, rows [rit, z] ++ rows [z, z] ++ rows [z, ji] ++ rows [z, z] ++ rows [z, z]),
     (3, rows [z, z, z] ++ rows [rit, z, z] ++ rows [z, z, z] ++ rows [z, i3, z] ++ rows [z, z, i3])]⟩

/-! ### Whitening (R317) -/

/-- U from its stored upper triangle with exponent EU and row units. -/
def infoU (m : List Byte) (off euOff : Nat) (units : List Int) : List (List Int) :=
  let n := units.length
  let eu := recS m euOff 1
  mGen n n fun i j =>
    if j < i then 0
    else scale2 (recS m (off + 4 * (i * n - i * (i - 1) / 2 + (j - i))) 4) (100 + eu - 24 - vAt units j)

/-- A matrix applied to a residual and its derivatives. -/
def whitenBy (u : List (List Int)) (r : RawEval) : RawEval :=
  ⟨mVec u r.res, r.jac.map fun e => (e.1, mMul u e.2)⟩

/-- A scalar 1/σ in UQ16.16. -/
def whitenScalar (w : Nat) (r : RawEval) : RawEval :=
  let k := fxOf w 16
  ⟨vScale k r.res, r.jac.map fun e => (e.1, mScale k e.2)⟩

/-- A bias row divided by the σ of its variance code. -/
def overSigma (code : Nat) (x : Int) : Int :=
  if code = 0 ∨ code = 0xFFFF then Config.lseNoSigma x else fxd x (fxSqrt (covVal code))

/-- INERTIAL: rows 0 to 8 by U, the bias rows by their σ. -/
def whitenInertial (m : List Byte) (r : RawEval) : RawEval :=
  let u := infoU m 288 468 [3, 3, 3, -2, -2, -2, -6, -6, -6]
  let tail := fun (l : List (List Int)) =>
    (l.take 3).map (fun row => row.map (overSigma (rec8 m 472 2))) ++ (l.drop 3).map fun row => row.map (overSigma (rec8 m 474 2))
  ⟨mVec u (r.res.take 9) ++ ((tail (r.res.drop 9 |>.map fun x => [x])).map fun row => vAt row 0),
    r.jac.map fun e => (e.1, mMul u (e.2.take 9) ++ tail (e.2.drop 9))⟩

/-- A factor of a type at values of its slots: whitened residual and Jacobians; none where R322 drops it. -/
def evalFactor (g0 : Int) (ty : Nat) (vs : List (List Byte)) (hasJ : Bool) (m : List Byte) : Option RawEval :=
  match ty with
  | 1 | 2 => (evalPoint vs m).map (whitenScalar (rec8 m 8 4))
  | 3 => (evalStereo vs m).map (whitenScalar (rec8 m 12 4))
  | 4 => some (whitenScalar (rec8 m 36 4) (evalLidarPlane vs hasJ m))
  | 5 => some (whitenScalar (rec8 m 24 4) (evalLidarPoint vs hasJ m))
  | 6 => some (whitenInertial m (evalInertial g0 vs m))
  | 7 => some (whitenBy (infoU m 32 28 (kindUnits 1)) (evalRelpose vs m))
  | 8 => some (whitenBy (infoU m 52 48 (kindUnits (vKind (vs.getD 0 [])))) (evalPrior vs m))
  | 9 => (evalCalib vs m).map (whitenScalar (rec8 m 20 4))
  | _ => none

/-! ### Evaluated elements and kernels (R323, R344) -/

/-- An element as the AFS evaluates it at an exponent: within 2 LSB of its exact value. -/
def nearLsb (tag : Nat) (e x : Int) : Int :=
  let t := scale2 x (31 - e)
  let q := rne t 100
  let d := q + max (-2) (min 2 (Config.lseDev tag x))
  let m := if (d * fx1 - t).natAbs ≤ 2 * 2 ^ 100 then d else q
  if ovfS 32 m then satS 32 (Config.lseWide m) else m

/-- A root or logarithm evaluated to within 2^−20 relative. -/
def nearRel (tag : Nat) (x : Int) : Int := x + fxm x (max (-(2 ^ 80)) (min (2 ^ 80) (Config.lseRel tag x)))

/-- Kernel, cost and weight for s = |r_w|² and parameter k: ρ(s) and √w, in 2^−100; none where the cost is s itself. -/
def robust (kern : Nat) (k s : Int) : Option (Int × Int) :=
  if kern = 1 then
    let rs := nearRel 0 (fxSqrt s)
    if rs ≤ k then none
    else some (2 * fxm k rs - fxm k k, nearRel 1 (fxSqrt (fxd k rs)))
  else if kern = 2 then
    let k2 := fxm k k
    let t := fx1 + fxd s k2
    some (fxm k2 (nearRel 2 (fxLn t)), nearRel 1 (fxSqrt (fxd fx1 t)))
  else none

end Sys2Proof.Machine
end

