-- ==== Sys2Proof/Machine/SolverImage.lean ====
section
/-! DEFINITION. The problem image of the least-squares engine: reading it, its checks, the structure hash, the schedule laid out
on it, and the assembly pass (R314 to R332, R344 to R346). -/

namespace Sys2Proof.Machine

/-! ### The image -/

/-- A problem image as read: class, sizes, addresses, variable and factor records. -/
structure Problem where
  cls : Nat
  v : Nat
  f : Nat
  area : Nat
  vt : Nat
  ft : Nat
  ma : Nat
  vars : List (List Byte)
  facs : List (List Byte)
deriving DecidableEq, Repr

/-- `n` records of `z` bytes from an address. -/
def loadRecs (s : State) (a z n : Nat) : List (List Byte) := (List.range n).map fun i => ldBytes s (a + z * i) z

/-- The image at an address. -/
def loadProblem (s : State) (a : Nat) : Problem :=
  let h := ldBytes s a 64
  let v := rec8 h 4 4
  let f := rec8 h 8 4
  let vt := rec8 h 16 8
  let ft := rec8 h 24 8
  ⟨rec8 h 0 1, v, f, rec8 h 12 4, vt, ft, rec8 h 32 8, loadRecs s vt 64 v, loadRecs s ft 32 f⟩

/-- The ranges of memory an image takes. -/
def imageRanges (a : Nat) (h : List Byte) : List (Nat × Nat) :=
  [(a, 64), (rec8 h 16 8, 64 * rec8 h 4 4), (rec8 h 24 8, 32 * rec8 h 8 4), (rec8 h 32 8, rec8 h 12 4)]

/-! ### Checks (R315, R318, R323, R326) -/

/-- The most factors of a class, and the most variables where the class limits their number as such. -/
def maxFactors (cls : Nat) : Nat := if cls = 2 then 262144 else 1048576
def maxVars (cls : Nat) : Nat := [32928, 262144, 16546, 65536].getD cls 0

/-- The first byte of the header that breaks a rule. -/
def headerBad (s : State) (h : List Byte) : Option Nat :=
  let cls := rec8 h 0 1
  let inRange := fun (a n : Nat) => n == 0 || engineRange s a n
  firstBad [(0, decide (cls ≤ 3)), (1, zeros h 1 3), (4, decide (rec8 h 4 4 ≤ maxVars cls)),
    (8, decide (rec8 h 8 4 ≤ maxFactors cls)), (16, inRange (rec8 h 16 8) (64 * rec8 h 4 4)),
    (24, inRange (rec8 h 24 8) (32 * rec8 h 8 4)),
    (32, inRange (rec8 h 32 8) (rec8 h 12 4) && decide (rec8 h 32 8 % 64 = 0)), (40, zeros h 40 24)]

/-- Most variables of a kind in a class; INTRIN and EXTRIN of WBA count together. -/
def kindLimit (cls k : Nat) : Nat :=
  match cls, k with
  | 0, 1 | 0, 3 | 2, 1 | 2, 3 => 64
  | 0, 2 => 32768
  | 0, 4 | 0, 5 => 32
  | 1, 1 => 262144
  | 2, 2 => 16384
  | 2, 4 => 16
  | 2, 5 => 18
  | 3, _ => 65536
  | _, _ => 0

/-- Variables of the kinds that a limit counts together. -/
def countKind (cls k : Nat) (vs : List (List Byte)) : Nat :=
  (vs.filter fun v => vKind v == k || (cls == 0 && 4 ≤ k && 4 ≤ vKind v)).length

/-- First reserved byte of the value field of a kind. -/
def valueEnd (k : Nat) : Nat := [8, 48, 32, 44, 49, 36].getD k 56

/-- The first byte of variable `i` that breaks a rule. -/
def varBad (cls : Nat) (vars : List (List Byte)) (i : Nat) : Option Nat :=
  let v := vars.getD i []
  let k := vKind v
  let before := vars.take i
  let quat := if k = 1 then 32 else 20
  firstBad [(0, before.all fun w => rec8 w 0 4 != rec8 v 0 4),
    (4, decide (1 ≤ k ∧ k ≤ 5) && decide (countKind cls k before < kindLimit cls k)),
    (5, decide (rec8 v 5 1 < 4) && !(cls == 0 && 4 ≤ k && vFree v)), (6, zeros v 6 2),
    (8, k != 4 || (!zeros v 8 4 && !zeros v 12 4)), (quat, !(k == 1 || k == 5) || !zeros v quat 16),
    (44, k != 4 || !zeros v 44 4), (48, k != 4 || decide (vModel v ≤ 1)),
    (valueEnd k, zeros v (valueEnd k) (56 - valueEnd k)), (56, zeros v 56 8)]

/-- The kinds each slot of a factor type holds (0: unused), with INTRIN as 14 for model 0 and 24 for model 1. -/
def slotKinds (ty : Nat) : List Nat :=
  match ty with
  | 1 | 3 => [1, 2, 14, 5]
  | 2 => [1, 2, 24, 5]
  | 4 | 5 => [1, 11, 5, 0]
  | 6 => [1, 3, 1, 3]
  | 7 => [1, 1, 0, 0]
  | 8 => [9, 0, 0, 0]
  | 9 => [4, 5, 5, 0]
  | _ => []

/-- Bytes of a measurement record, and the alignment of its start. -/
def measBytes (ty : Nat) : Nat := [0, 16, 16, 32, 48, 32, 512, 128, 240, 32].getD ty 0
def measAlign (ty : Nat) : Nat := if ty = 6 then 64 else 16

/-- Slot `i` of a factor record. -/
def facSlot (fr : List Byte) (i : Nat) : Nat := rec8 fr (4 + 4 * i) 4

/-- Whether slot `i` of a factor holds what its type asks (kind 9: any; 11: POSE or none). -/
def slotOk (p : Problem) (fr : List Byte) (i : Nat) : Bool :=
  let want := (slotKinds (rec8 fr 0 1)).getD i 0
  let x := facSlot fr i
  let v := p.vars.getD x []
  let none_ := x == 0xFFFFFFFF
  let others := (List.range i).all fun j => facSlot fr j != x || none_
  if want = 0 then none_
  else if want = 11 then (none_ || (decide (x < p.v) && vKind v == 1)) && others
  else decide (x < p.v) && others &&
    (if want = 9 then true else if 10 < want then vKind v == 4 && vModel v == want / 10 - 1 else vKind v == want)

/-- Whether a PREINT record has failed or does not pass its CRC (R327). -/
def preintUnusable (m : List Byte) : Bool := decide (0x20 ≤ rec8 m 21 1) || crc32c (m.take 508) != rec8 m 508 4

/-- The reserved bytes and quaternions of a measurement record. DEDUCED: of a PREINT record that R327 skips, which a failed job
leaves unwritten but for its status, nothing more is checked. -/
def measOk (p : Problem) (fr m : List Byte) : Bool :=
  match rec8 fr 0 1 with
  | 1 | 2 => zeros m 12 4
  | 3 => zeros m 20 12
  | 4 => zeros m 40 8
  | 5 => zeros m 28 4
  | 7 => zeros m 29 3 && zeros m 116 12 && !zeros m 12 16
  | 8 =>
    let k := vKind (p.vars.getD (facSlot fr 0) [])
    let d := kindDim k
    let e := valueEnd k - 8
    let u := 52 + 2 * d * (d + 1)
    zeros m e (48 - e) && zeros m 49 3 && zeros m u (240 - u) && (k != 1 || !zeros m 24 16) && (k != 5 || !zeros m 12 16) &&
      (k != 4 || decide (rec8 m 40 1 ≤ 1))
  | 6 => preintUnusable m || (zeros m 469 3 && zeros m 476 32 && decide (rec8 m 22 2 < 2))
  | 9 => zeros m 24 8
  | _ => true

/-- The first byte of factor `i` that breaks a rule. -/
def facBad (s : State) (p : Problem) (i : Nat) : Option Nat :=
  let fr := p.facs.getD i []
  let ty := rec8 fr 0 1
  let off := rec8 fr 20 4
  let k := rec8 fr 1 1
  firstBad [(0, decide (1 ≤ ty ∧ ty ≤ 9) && (p.cls != 0 || ty != 9) && (p.cls != 1 || ty == 7 || ty == 8)), (1, decide (k ≤ 2)),
    (2, k == 0 || !zeros fr 2 2), (4, slotOk p fr 0), (8, slotOk p fr 1), (12, slotOk p fr 2), (16, slotOk p fr 3),
    (20, decide (off % measAlign ty = 0) && decide (off + measBytes ty ≤ p.area) &&
      measOk p fr (ldBytes s (p.ma + off) (measBytes ty))), (24, zeros fr 24 8)]

/-- The first index for which a check fails. -/
def firstIndex (n : Nat) (f : Nat → Option Nat) : Option (Nat × Nat) :=
  ((List.range n).findSome? fun i => (f i).map fun b => (i, b))

/-- The first offending record of an image: 0 header, 1 variable, 2 factor; its index; the byte. -/
def imageBad (s : State) (a : Nat) : Option (Nat × Nat × Nat) :=
  match headerBad s (ldBytes s a 64) with
  | some b => some (0, 0, b)
  | none =>
    let p := loadProblem s a
    match firstIndex p.v (varBad p.cls p.vars) with
    | some (i, b) => some (1, i, b)
    | none => (firstIndex p.f (facBad s p)).map fun e => (2, e.1, e.2)

/-! ### Structure hash (R331) -/

/-- CRC-64 of the ECMA-182 polynomial, reflected, with initial value and final XOR of all ones. -/
def crc64 (l : List Byte) : Nat :=
  Nat.xor (l.foldl (crcByte 0xC96C5795D7870F42) 0xFFFFFFFFFFFFFFFF) 0xFFFFFFFFFFFFFFFF

/-- The bytes the hash covers. -/
def structBytes (p : Problem) : List Byte :=
  leBytes 1 p.cls ++ leBytes 4 p.v ++ (p.vars.map fun v => leBytes 1 (vKind v) ++ leBytes 1 (vFixed v).toNat).flatten ++
    leBytes 4 p.f ++ (p.facs.map fun fr => leBytes 1 (rec8 fr 0 1) ++ slice fr 4 16).flatten

/-! ### The schedule on the problem -/

/-- Where the variables of a problem lie in a schedule: by variable, its supernode plus one, and its first tangent column. -/
structure Layout where
  node : Tab Nat
  base : Tab Nat
  plan : FPlan
deriving DecidableEq, Repr

/-- Tangent dimension of a variable in a schedule. -/
def tanDim (v : List Byte) : Nat := if vFree v then kindDim (vKind v) else 0

/-- Columns of a variable. -/
def varCols (vars : List (List Byte)) (base : Tab Nat) (v : Nat) : List Nat :=
  (List.range (tanDim (vars.getD v []))).map fun i => tabGet 0 base v + i

/-- A schedule laid out on the variables of an image. -/
def layout (sc : Schedule) (vars : List (List Byte)) : Layout :=
  let order := (sc.nodes.map SuperNode.vars).flatten
  let base : Tab Nat := (order.foldl (fun (st : Tab Nat × Nat) v =>
    (tabSet 0 st.1 v st.2, st.2 + tanDim (vars.getD v []))) ([], 0)).1
  let tagged := (List.range sc.nodes.length).zip sc.nodes
  let node : Tab Nat := tagged.foldl (fun t e => e.2.vars.foldl (fun t v => tabSet 0 t v (e.1 + 1)) t) []
  let cols := varCols vars base
  let nodeOf : Tab Nat := tagged.foldl (fun t e =>
    (e.2.vars.map cols).flatten.foldl (fun t c => tabSet 0 t c (e.1 + 1)) t) []
  { node := node, base := base
    plan := { nodes := sc.nodes.map fun n => ⟨(n.vars.map cols).flatten, (n.below.map cols).flatten, n.pmin⟩
              nodeOf := nodeOf
              tomb := ((order.filter fun v => vTomb (vars.getD v [])).map cols).flatten } }

/-- Whether the block of two free variables exists in the schedule (R332). -/
def blockIn (sc : Schedule) (ly : Layout) (a b : Nat) : Bool :=
  let na := tabGet 0 ly.node a
  let nb := tabGet 0 ly.node b
  let below := fun (n v : Nat) => ((sc.nodes[n - 1]?).map SuperNode.below |>.getD []).contains v
  na != 0 && nb != 0 && (na == nb || (decide (na < nb) && below na b) || (decide (nb < na) && below nb a))

/-! ### The assembly pass (R327 to R329, R345, R346) -/

/-- An assembly pass under way: blocks, gradient, cost, widths by which groups A and G of each supernode passed the guard band,
least headroom of kinds A and G, factors assembled, factors under R322, a block outside the schedule, the cost's carry. -/
structure Pass where
  a : Tab Int
  g : Tab Int
  cost : Int
  upA : Tab Nat
  upG : Tab Nat
  hrA : Nat
  hrG : Nat
  factors : Nat
  cheiral : Nat
  pattern : Bool
  costOvf : Bool
deriving DecidableEq, Repr

/-- The start of a pass. -/
def pass0 : Pass := ⟨[], [], 0, [], [], 31, 31, 0, 0, false, false⟩

/-- A contribution added to a stored mantissa: the new mantissa and the width of the sum. -/
def addStored (old : Int) (c : Acc) : Int × Nat :=
  let (m, b) := writeback c
  (satS 32 (old + m), max b (widthS (old + m)))

/-- The rise of a width beyond the guard band, and its headroom. -/
def riseOf (b : Nat) : Nat := if b ≤ 32 then 0 else min (max (b - 32) 1) 4
def headOf (b : Nat) : Nat := 32 - b

/-- A contribution to a block element of a supernode, and to a gradient element. -/
def addBlock (node key : Nat) (c : Acc) (p : Pass) : Pass :=
  let (m, b) := addStored (tabGet 0 p.a key) c
  { p with a := tabSet 0 p.a key m, upA := tabSet 0 p.upA node (max (tabGet 0 p.upA node) (riseOf b)), hrA := min p.hrA (headOf b) }
def addGrad (node col : Nat) (c : Acc) (p : Pass) : Pass :=
  let (m, b) := addStored (tabGet 0 p.g col) c
  { p with g := tabSet 0 p.g col m, upG := tabSet 0 p.upG node (max (tabGet 0 p.upG node) (riseOf b)), hrG := min p.hrG (headOf b) }

/-- Σ over rows of products of evaluated elements at an output exponent. -/
def accDot (x y : List Int) (ex ey eo : Int) : Acc :=
  (x.zip y).foldl (fun a e => accProd a false e.1 ex e.2 ey eo) acc0

/-- Column of a matrix. -/
def mCol (m : List (List Int)) (j : Nat) : List Int := m.map fun r => vAt r j

/-- The evaluated Jacobian of a free variable: variable, exponent, mantissas by row. -/
structure JacBlk where
  var : Nat
  e : Int
  m : List (List Int)
deriving DecidableEq, Repr

/-- The block of two free variables added, in the panel of the one eliminated first. -/
def addPair (ly : Layout) (expA : List Int) (x y : JacBlk) (p : Pass) : Pass :=
  let bx := tabGet 0 ly.base x.var
  let by_ := tabGet 0 ly.base y.var
  let (c, r) := if bx ≤ by_ then (x, y) else (y, x)
  let bc := min bx by_
  let br := max bx by_
  let node := tabGet 0 ly.node c.var - 1
  (List.range (r.m.headD []).length).foldl (fun p i =>
    (List.range (c.m.headD []).length).foldl (fun p j =>
      if bc = br ∧ i < j then p
      else addBlock node (elemKey (br + i) (bc + j)) (accDot (mCol r.m i) (mCol c.m j) r.e c.e (expA.getD node 0)) p) p) p

/-- The gradient segment of a free variable added. -/
def addSegment (ly : Layout) (expG : List Int) (res : List Int) (er : Int) (x : JacBlk) (p : Pass) : Pass :=
  let node := tabGet 0 ly.node x.var - 1
  (List.range (x.m.headD []).length).foldl (fun p j =>
    addGrad node (tabGet 0 ly.base x.var + j) (accDot (mCol x.m j) res x.e er (expG.getD node 0)) p) p

/-- All pairs of a list, each with itself too. -/
def allPairs {α : Type} : List α → List (α × α)
  | [] => []
  | x :: t => (x, x) :: t.map (fun y => (x, y)) ++ allPairs t

/-- The cost added to its accumulator. -/
def addCost (x : Int) (p : Pass) : Pass := { p with cost := p.cost + x, costOvf := p.costOvf || ovfS 96 (p.cost + x) }

/-- Whether rules 1 and 2 of R327 skip a factor. -/
def dangling (p : Problem) (fr : List Byte) : Bool :=
  (List.range 4).any fun i => facSlot fr i != 0xFFFFFFFF && vTomb (p.vars.getD (facSlot fr i) [])
def preintBad (s : State) (p : Problem) (fr : List Byte) : Bool :=
  rec8 fr 0 1 == 6 && preintUnusable (ldBytes s (p.ma + rec8 fr 20 4) 512)

/-- One factor of a pass. -/
def passFactor (s : State) (pr : Problem) (sc : Schedule) (ly : Layout) (expA expG : List Int) (vals : List (List Byte))
    (p : Pass) (fr : List Byte) : Pass :=
  let ty := rec8 fr 0 1
  if dangling pr fr || preintBad s pr fr then p
  else
    let slots := (List.range 4).map fun i => vals.getD (facSlot fr i) []
    let m := ldBytes s (pr.ma + rec8 fr 20 4) (measBytes ty)
    match evalFactor (fxOf (rd s R.tfuGrav).toNat 16) ty slots (facSlot fr 1 != 0xFFFFFFFF) m with
    | none => { p with cheiral := p.cheiral + 1 }
    | some ev =>
      let er := sc.resExp.getD ty 0
      let ej := fun (i : Nat) => (sc.jacExp.getD ty []).getD i 0
      let r0 := ev.res.map (nearLsb (16 * ty) er)
      let sq := scale2 ((r0.map fun x => x * x).sum * fx1) (2 * er - 62)
      let rob := robust (rec8 fr 1 1 % 4) (fxOf (rec8 fr 2 2) 8) sq
      let w := fun (x : Int) => match rob with | some (_, sw) => fxm sw x | none => x
      let res := match rob with | some _ => ev.res.map fun x => nearLsb (16 * ty) er (w x) | none => r0
      let costTerm := match rob with
        | some (rho, _) => scale2 rho (63 - sc.expC) / 2 ^ 100
        | none => (r0.map fun x => (shiftTo (x * x) (2 * er - sc.expC + 1)).1).sum
      let free := ev.jac.filter fun e => vFree (pr.vars.getD (facSlot fr e.1) [])
      let blks : List JacBlk := free.map fun e => ⟨facSlot fr e.1, ej e.1, e.2.map fun row => row.map fun x =>
        nearLsb (16 * ty + 1 + e.1) (ej e.1) (w x)⟩
      let pairs := allPairs blks
      if pairs.any fun e => !blockIn sc ly e.1.var e.2.var then { p with pattern := true }
      else
        let p1 := pairs.foldl (fun p e => addPair ly expA e.1 e.2 p) p
        let p2 := blks.foldl (fun p b => addSegment ly expG res er b p) p1
        addCost costTerm { p2 with factors := p2.factors + 1 }

/-- A pass over factors in table order. -/
def facPass (s : State) (pr : Problem) (sc : Schedule) (ly : Layout) (expA expG : List Int) (vals facs : List (List Byte)) :
    Pass := facs.foldl (passFactor s pr sc ly expA expG vals) pass0

/-- The counters of a pass. -/
def countPass (s : State) (p : Pass) : State :=
  bumpN (bumpN (bumpWrap s R.lseAsmPasses) R.lseAsmFactors p.factors) R.lseCheiralCnt p.cheiral

/-- A rescale of a group: counted, flagged, recorded (R345, R355, R358). -/
def rescaleEvent (s : State) (node k kind : Nat) : State :=
  let s1 := setBits (bump s R.lseRescaleCnt) R.lseArEvent 1
  wr s1 R.lseArLast (BitVec.ofNat 32 (kind * 0x1000000 + k % 8 * 0x100000 + node % 0x100000))

/-- How an assembly ends. -/
inductive Assembled where
  | ok (a : Assembly)
  | pattern
  | saturated (cost : Bool)
deriving DecidableEq, Repr

/-- Exponents raised by a pass. -/
def raised (e : List Int) (up : Tab Nat) : List Int :=
  (List.range e.length).map fun i => min (e.getD i 0 + tabGet 0 up i) 31

/-- The result of an assembly with its retry: outcome, exponents A and G, rescales, least headroom of A and G. -/
structure AsmRun where
  out : Assembled
  expA : List Int
  expG : List Int
  rescales : Nat
  hrA : Nat
  hrG : Nat
deriving DecidableEq, Repr

/-- An assembly at `vals` from exponents A and G: the pass, repeated once with raised exponents where a group passed the guard
band (R345). -/
def assemble (s : State) (pr : Problem) (sc : Schedule) (ly : Layout) (expA expG : List Int) (vals : List (List Byte)) :
    AsmRun × State :=
  let ending := fun (p : Pass) (a g : List Int) =>
    if p.pattern then Assembled.pattern
    else if p.costOvf then .saturated true
    else if p.upA ≠ [] ∨ p.upG ≠ [] then .saturated false
    else .ok ⟨vals, p.a, p.g, a, g, p.cost⟩
  let p := facPass s pr sc ly expA expG vals pr.facs
  let s1 := countPass s p
  if p.pattern ∨ p.costOvf = true ∨ (p.upA = [] ∧ p.upG = []) then
    (⟨ending p expA expG, expA, expG, 0, p.hrA, p.hrG⟩, s1)
  else
    let a2 := raised expA p.upA
    let g2 := raised expG p.upG
    let s2 := p.upA.foldl (fun s e => rescaleEvent s e.1 e.2 0) s1
    let s3 := p.upG.foldl (fun s e => rescaleEvent s e.1 e.2 3) s2
    let q := facPass s3 pr sc ly a2 g2 vals pr.facs
    (⟨ending q a2 g2, a2, g2, p.upA.length + p.upG.length, min p.hrA q.hrA, min p.hrG q.hrG⟩, countPass s3 q)

end Sys2Proof.Machine
end

