-- ==== Sys2Proof/Machine/Solver.lean ====
section
/-! DEFINITION. Solves, preintegration and the schedule builder of the least-squares engine (R324, R325, R333, R334, R354,
R360 to R376), and the refinement of camera tables from CAL solves (R308, R309). -/

namespace Sys2Proof.Machine

/-! ### Registers -/

/-- The engine replaced. -/
def setLse (s : State) (f : Lse → Lse) : State := { s with lse := f s.lse }

/-- A schedule slot. -/
def schedSlot (s : State) (key : Nat) : Option SchedSlot := tabGet none s.lse.sched key

/-- Key of a schedule or solve slot. -/
def slotKey (ctx slot : Nat) : Nat := 64 * ctx + slot

/-- The registers of the selected schedule slot (R335). -/
def syncSched (s : State) : State :=
  let key := slotKey (rf s R.lseSchedSel 19 16) (rf s R.lseSchedSel 5 0)
  let put := fun (info v f gen mx : Nat) (hash : DWord) =>
    let s1 := wr (wr s R.lseSchedInfo (BitVec.ofNat 32 info)) R.lseSchedVars (BitVec.ofNat 32 v)
    let s2 := wr (wr s1 R.lseSchedFactors (BitVec.ofNat 32 f)) R.lseSchedGen (BitVec.ofNat 32 gen)
    let s3 := wr s2 R.lseSchedMax (BitVec.ofNat 32 (mx % 0x100000))
    wr s3 R.lseSchedHashLo (lo32 hash)
  match schedSlot s key with
  | none => put 0 0 0 0 0 0
  | some x =>
    let flags := x.buildable.toNat * 0x40000000 + x.building.toNat * 0x20000000
    match x.sched with
    | none => put flags 0 0 0 0 0
    | some c => put (0x80000000 + flags + c.cls * 0x4000000 + min 0xFFFF c.nodes.length) c.v c.f x.gen
        (if x.buildable then x.maxPoses else 0) c.hash

/-- A schedule slot replaced. -/
def setSched (s : State) (key : Nat) (x : Option SchedSlot) : State :=
  syncSched (setLse s fun l => { l with sched := tabSet none l.sched key x })

/-- The structure hash of the selected slot: 0 while it holds no schedule. -/
def selectedHash (s : State) : DWord :=
  match schedSlot s (slotKey (rf s R.lseSchedSel 19 16) (rf s R.lseSchedSel 5 0)) with
  | some x => match x.sched with
    | some c => c.hash
    | none => 0
  | none => 0

/-- LSE_SCHED_HASH_LO_READ. -/
def execLseSchedHashLoRead (s : State) : Out := fabric s fun s => capture s R.lseSchedHashLo (selectedHash s)

/-- A job of the engine refused: kind of record, its index, the byte (R326, R335). -/
def lseErr (s : State) (kind index byte op : Nat) : State :=
  let s1 := if rd s R.lseErr = 0 then wr s R.lseErrIndex (BitVec.ofNat 32 index) else s
  errInfo s1 R.lseErr 0 R.lseErrInfo (BitVec.ofNat 32 (byte % 0x10000 * 0x10000 + kind * 0x100 + op))

/-- LSE_STATUS and LSE_SOLVE_STATE: a solve between two iteration ends stands in the factorisation of the next one. -/
def syncLse (s : State) : State :=
  let st := (!s.lse.builds.isEmpty).toNat * 4 + s.lse.solve.isSome.toNat * 2
  let w := match s.lse.solve with
    | some v => 3 * 0x10000000 + (v.iters + 1) % 256 * 0x100000
    | none => 0
  wr (wr s R.lseStatus (BitVec.ofNat 32 st)) R.lseSolveState (BitVec.ofNat 32 w)

/-- Least headroom since reset (R358). -/
def syncAll (s : State) (hr : List Nat) : State :=
  (List.range 7).foldl (fun s g => wf s (R.lseHr g) 7 0 (min (rf s (R.lseHr g) 7 0) (hr.getD g 31))) s

/-- Least headroom of the last solve that ended. -/
def syncLast (s : State) (hr : List Nat) : State :=
  (List.range 7).foldl (fun s g => wf s (R.lseHr g) 15 8 (hr.getD g 31)) s

/-- A job of the engine with the opcode of the command does its work; an opcode that the engine does not know is refused. -/
def lseWork (op : Nat) (f : State → Job → State) (s : State) : Out :=
  fabric s fun s =>
    match startedAt s 0x13 with
    | [] => s
    | j :: rest =>
      let o := rec8 j.block 0 1
      let s1 := setStarted s 0x13 rest
      if o = op then f s1 j
      else if o = 0x10 ∨ o = 0x11 ∨ o = 0x20 then s
      else report (lseErr s1 3 0 0 o) j.owner 0x23

/-! ### Refinement of camera tables (R308, R309) -/

/-- An element that firmware computes for a table: the spec gives no rounding. -/
def tableField (tag k : Nat) (x : Int) : Int := satS 32 (fxTo k x + Config.tfuDev (100 + tag) x)

/-- A value limited to ±m, with whether it was. -/
def limitTo (m x : Int) : Int × Bool := (max (-m) (min m x), decide (x < -m ∨ m < x))

/-- A vector limited to a norm. -/
def limitNorm (m : Int) (v : List Int) : List Int × Bool :=
  let n := vNorm v
  if m < n then (v.map fun x => fxd (fxm x m) n, true) else (v, false)

/-- The refined table and whether a change was clamped. -/
def refinedTable (s : State) (act intr cam lid : List Byte) : List Byte × Bool :=
  let ra := mGen 3 3 fun i j => fxOf (recS act (48 + 4 * (3 * i + j)) 4) 30
  let ta := fields act 84 3 4 16
  let rc := mTr (vRot cam)
  let (phi, c0) := limitNorm (fxOf (rd s R.tfuCalrefRot).toNat 32) (quatLog (matQuat (mMul (mMul rc (vRot lid)) (mTr ra))))
  let (dt, c1) := limitNorm (fxOf (rd s R.tfuCalrefTrans).toNat 16) (vSub (mVec rc (vSub (vPos lid) (vPos cam))) ta)
  let fmax := fxOf (rd s R.tfuCalrefFocal).toNat 32
  let cmax := fxOf (rd s R.tfuCalrefCentre).toNat 16
  let a := (List.range 4).map (fun i => fxOf (rec8 act (8 + 4 * i) 4) 16)
  let lim := (List.range 4).map fun i =>
    limitTo (if i < 2 then fxm fmax (vAt a i) else cmax) (vFocal intr i - vAt a i)
  let foc := (List.range 4).map fun i => satU 32 (fxTo 16 (vAt a i + ((lim.map Prod.fst).getD i 0)) +
    Config.tfuDev (112 + i) (vAt a i + ((lim.map Prod.fst).getD i 0)))
  let rn := mMul (quatMat (quatExp phi)) ra
  let ver := if rec8 act 0 4 = 0xFFFFFFFF then 1 else rec8 act 0 4 + 1
  let body := leBytes 4 ver ++ slice act 4 4 ++ (foc.map (leBytes 4)).flatten ++ slice act 24 24 ++
    ((indexed rn.flatten).map fun e => leBytesI 4 (tableField e.1 30 (e.2 : Int))).flatten ++
    ((indexed (vAdd ta dt)).map fun e => leBytesI 4 (tableField (9 + e.1) 16 (e.2 : Int))).flatten ++ leBytes 28 0
  (body ++ leBytes 4 (crc32c body), c0 || c1 || (lim.map Prod.snd).any id)
where
  /-- Elements with their places. -/
  indexed (l : List Int) : List (Nat × Int) := (List.range l.length).zip l

/-- A refinement skipped. -/
def calrefSkip (s : State) : State := tfuEvent (bump s R.tfuCalrefSkipCnt) 6

/-- CALREF_REFINE: a CAL solve for camera slot `n` completed (R308, R309). -/
def calrefRefine (s : State) (ctx slot : Nat) (vals : List (List Byte)) : State :=
  let n := Config.calrefSlot ctx slot
  let var := fun (w : Nat) => vals.getD (Config.calrefVar ctx slot w) []
  if h : n < 16 then
    let u := CalUnit.pje ⟨n, h⟩
    if !rb s R.tfuCalref n || vKind (var 0) != 4 || vKind (var 1) != 5 || vKind (var 2) != 5 then s
    else if rf s (calStatus u) 3 0 % 2 = 1 ∨ rb s (calStatus u) 2 = true ∨ rb s (calStatus u) 3 = true ∨
        rb s (calStatus u) 1 = false then calrefSkip s
    else
      let b := if calAct s u = calrefAddr n 0 then 1 else 0
      let a := calrefAddr n b
      let (tab, clamped) := refinedTable s (ldBytes s (calAct s u) 128) (var 0) (var 1) (var 2)
      let s1 := stBytes s a tab
      let s2 := wr (wr s1 (calBase u + 8) (BitVec.ofNat 32 a)) (calBase u + 0xC) (BitVec.ofNat 32 (a / 2 ^ 32))
      let s3 := setBits s2 (calStatus u) 8
      if clamped then tfuEvent (bump s3 R.tfuCalrefClampCnt) 6 else s3
  else s

/-! ### The output (R372 to R375) -/

/-- The block of a SOLVE job made of a descriptor (R361): its reserved bytes keep their place among the block's. -/
def solveBlock (d : List Byte) : List Byte :=
  [0x20] ++ slice d 32 5 ++ slice d 38 2 ++ leBytes 4 0 ++ slice d 37 1 ++ leBytes 3 0 ++ slice d 40 6 ++ leBytes 2 0 ++
    slice d 46 6 ++ leBytes 2 0 ++ slice d 52 6 ++ leBytes 2 0 ++ slice d 58 6 ++ leBytes 18 0

/-- Fields of a SOLVE block. -/
def solveImage (b : List Byte) : Nat := rec8 b 16 8
def solveOut (b : List Byte) : Nat := rec8 b 24 8

/-- A cost as reported at e_C. -/
def costMant (c : Int) : Int := let m := rne c 32; if ovfS 32 m then 0x7FFFFFFF else m

/-- How a solve ends: what its record shows beside the job. -/
structure Ending where
  accept : DWord
  deadline : Option DWord
  hash : DWord
  v : Nat
  cls : Nat
  status : Nat
  flags : Nat
  iters : Nat
  accepted : Nat
  lam : Int
  cost0 : Int
  cost : Int
  expC : Int
  rescales : Nat
  clamps : Nat
  matched : Nat
  stop : Nat
  vals : List (List Byte)
  hr : List Nat
deriving DecidableEq, Repr

/-- The solve record. -/
def solveRecord (s : State) (j : Job) (e : Ending) : List Byte :=
  let body := leBytes 8 e.accept.toNat ++ leBytes 8 s.dt.now.toNat ++ leBytes 8 e.hash.toNat ++ leBytes 4 e.v ++
    leBytes 1 e.cls ++ leBytes 1 e.status ++ leBytes 2 e.flags ++ leBytes 1 e.iters ++ leBytes 1 e.accepted ++
    leBytesI 1 e.lam ++ leBytes 1 (rec8 j.block 1 1) ++ leBytesI 4 e.cost0 ++ leBytesI 4 e.cost ++ leBytesI 1 e.expC ++
    leBytes 1 j.ctx ++ leBytes 2 (min 0xFFFF e.rescales) ++ leBytes 4 (min 0xFFFFFFFF e.clamps) ++ leBytes 4 e.matched ++
    leBytes 4 e.stop
  body ++ leBytes 4 (crc32c body)

/-- The result words (R375). -/
def solveResult (e : Ending) : List Byte :=
  leBytes 1 e.iters ++ leBytes 1 e.accepted ++ leBytesI 1 e.lam ++ leBytesI 1 e.expC ++ leBytesI 4 e.cost ++ leBytes 2 e.flags ++
    leBytes 2 (min 0xFFFF e.rescales) ++ leBytes 4 e.stop

/-- LSE_CTL_EVENT and the counters of an ending. -/
def countEnding (s : State) (e : Ending) : State :=
  let ctl := fun (b : Nat) (s : State) => setBits s R.lseCtlEvent (bitW b)
  let s1 := bumpWrap s R.lseSolves
  let s2 := if e.status = 0x20 then ctl 0 (bump s1 R.lseDlMissCnt) else s1
  let s3 := if e.flags / 4 % 2 = 1 then ctl 1 (bump s2 R.lseCappedCnt) else s2
  let s4 := if e.status = 0x26 then ctl 3 s3 else s3
  let s5 := if e.status = 0x2A then setBits (bump s4 R.lsePatternCnt) R.lseEvent 2 else s4
  let s6 := if e.status = 0x22 then bump s5 R.lseSatCnt else s5
  let s7 := wr s6 R.lseLastEnd (BitVec.ofNat 32 (e.status * 0x1000000 + e.accepted % 256 * 256 + e.iters % 256))
  let s8 := match e.deadline with
    | some d => wr s7 R.lseLastMargin (BitVec.ofInt 32 (satS 32 ((d.toNat : Int) - s.dt.now.toNat)))
    | none => s7
  syncLast s8 e.hr

/-- SOLVE_END: record, variable records, counters, report; a CAL solve may refine a camera table. The next solve, taken while
this one ran, stays; one that ends at its acceptance leaves the engine's hand. -/
def endSolve (s : State) (j : Job) (e : Ending) : State :=
  let out := solveOut j.block
  let s0 := setLse s fun l => { l with solve := none, taken := if l.solve.isNone then none else l.taken }
  let vs := if e.flags % 2 = 1 then e.vals.flatten else []
  let s1 := jobStore j s0 out (solveRecord s j e ++ vs)
  let s2 := finish (countEnding s1 e) j.owner e.status (solveResult e)
  let s3 := if e.cls = 2 ∧ e.status < 0x20 then calrefRefine s2 j.ctx (rec8 j.block 1 1) e.vals else s2
  syncLse s3

/-- An ending before the first assembly pass. -/
def earlyEnding (s : State) (dl : Option DWord) (st : Nat) : Ending :=
  ⟨s.dt.now, dl, 0, 0, 0, st, 0, 0, 0, 0, 0, 0, 0, 0, 0, 0, 0xFFFFFFFF, [], List.replicate 7 31⟩

/-- A solve refused: only the status byte of its record is written (R363, R326). -/
def refuseSolve (s : State) (j : Job) (dl : Option DWord) (kind index byte : Nat) : State :=
  let out := solveOut j.block
  let s0 := setLse s fun l => { l with taken := none }
  let s1 := if engineRange s out 64 then jobStore j s0 (out + 29) [0x23] else s0
  let e := earlyEnding s dl 0x23
  syncLse (finish (countEnding (lseErr s1 kind index byte 0x20) e) j.owner 0x23 (solveResult e))

/-! ### Acceptance (R362, R363, R368, R369) -/

/-- SOLVE: a started SOLVE job stands in the engine's queue until it is accepted. -/
def execSolve (s : State) : Out :=
  lseWork 0x20 (fun s j => match s.lse.taken with
    | some _ => setStarted s 0x13 (j :: startedAt s 0x13)
    | none => setLse s fun l => { l with taken := some j }) s

/-- The field checks of R363; `v` is V of the image header. -/
def solveChecks (s : State) (j : Job) : List (Nat × Bool) :=
  let b := j.block
  let warm := rec8 b 2 1 % 2 == 1
  let loaded := match schedSlot s (slotKey j.ctx (rec8 b 1 1)) with
    | some x => x.sched.isSome
    | none => false
  let h := ldBytes s (solveImage b) 64
  let n := 64 + 64 * rec8 h 4 4
  let out := solveOut b
  [(1, decide (rec8 b 1 1 < 64) && loaded), (2, decide (rec8 b 2 1 < 2)), (3, decide (1 ≤ rec8 b 3 1 ∧ rec8 b 3 1 ≤ 64)),
    (4, decide (1 ≤ rec8 b 4 1 ∧ rec8 b 4 1 ≤ 63)), (5, decide (1 ≤ rec8 b 5 1 ∧ rec8 b 5 1 ≤ 63)),
    (6, decide (rec8 b 6 2 ≤ 1000)), (12, zeros b 12 4), (16, engineRange s (solveImage b) 64),
    (24, decide (out % 64 = 0) && engineRange s out n && (imageRanges (solveImage b) h).all fun r => !overlaps out n r.1 r.2),
    (32, !warm || engineRange s (rec8 b 32 8) 64), (40, zeros b 40 24)]

/-- The records of a warm table that may be used. -/
def warmTable (s : State) (a : Nat) : Option (DWord × List (List Byte)) :=
  let r := ldBytes s a 64
  let v := rec8 r 24 4
  if crc32c (r.take 60) ≠ rec8 r 60 4 ∨ rec8 r 30 1 % 2 = 0 ∨ engineRange s a (64 + 64 * v) = false then none
  else some (BitVec.ofNat 64 (rec8 r 16 8), loadRecs s (a + 64) 64 v)

/-- What a warm start reads (R368). -/
def warmReads (s : State) (j : Job) : List (Nat × Nat) :=
  let a := rec8 j.block 32 8
  if rec8 j.block 2 1 % 2 = 0 then []
  else (a, 64) :: (match warmTable s a with
    | some (_, recs) => [(a + 64, 64 * recs.length)]
    | none => [])

/-- The warm record of a variable: the first of its ID, when it has its kind. -/
def warmMatch (w : List (List Byte)) (v : List Byte) : Option (List Byte) :=
  if vFree v && !vTomb v then
    match w.find? fun r => rec8 r 0 4 == rec8 v 0 4 with
    | some r => if vKind r = vKind v then some (v.take 8 ++ slice r 8 48 ++ v.drop 56) else none
    | none => none
  else none

/-- The outcome of a warm start: values, M, flags of the record. -/
def warmStart (s : State) (j : Job) (pr : Problem) (hash : DWord) : List (List Byte) × Nat × Nat :=
  if rec8 j.block 2 1 % 2 = 0 then (pr.vars, 0, 0)
  else
    let a := rec8 j.block 32 8
    match warmTable s a with
    | none => (pr.vars, 0, 64)
    | some (wh, recs) =>
      let free := (pr.vars.filter fun v => vFree v && !vTomb v).length
      let m := (pr.vars.filter fun v => (warmMatch recs v).isSome).length
      let warm := pr.vars.map fun v => (warmMatch recs v).getD v
      if wh = hash ∧ m = free then (warm, m, 16)
      else if m * 1000 < rec8 j.block 6 2 * free then (pr.vars, m, 64)
      else (warm, m, 32)

/-- WARM_START as the registers show it. -/
def countWarm (s : State) (m fl : Nat) : State :=
  let s1 := wr s R.lseWsMatched (BitVec.ofNat 32 m)
  let s2 := if fl = 32 then bump s1 R.lseWarmPartialCnt else s1
  if fl = 64 then setBits (bump s2 R.lseColdCnt) R.lseCtlEvent 4 else s2

/-- The saturation of an assembly or a step as the registers show it. -/
def satEvent (s : State) (cost : Bool) : State := setBits s R.lseArEvent (if cost then 8 else 4)

/-- Factors skipped for TOMB or a bad PREINT record, counted once per solve (R327). -/
def countSkips (s : State) (pr : Problem) : State :=
  let d := (pr.facs.filter (dangling pr)).length
  let b := (pr.facs.filter fun f => !dangling pr f && preintBad s pr f).length
  let s1 := bumpN (bumpN s R.lseDanglingCnt d) R.lseBadmeasCnt b
  if d = 0 then s1 else setBits s1 R.lseEvent 1

/-- Least headroom with an assembly's kinds and the cost writeback. -/
def asmHr (hr : List Nat) (r : AsmRun) (cost : Option Int) : List Nat :=
  let h := lowHr (lowHr hr 0 r.hrA) 3 r.hrG
  match cost with
  | some c => lowHr h 6 (32 - widthS (rne c 32))
  | none => h

/-- Exponents A and G of the exponent table replaced. -/
def putExps (exps : List (List Int)) (a g : List Int) : List (List Int) :=
  (List.range exps.length).map fun i => ((exps.getD i []).set 0 (a.getD i 0)).set 3 (g.getD i 0)

/-- A kind of exponents of the table. -/
def kindExps (exps : List (List Int)) (kind : Nat) : List Int := exps.map fun l => l.getD kind 0

/-- The low 6 bits of a group exponent, sign-extended (R338). -/
def sext6 (x : Int) : Int := (x + 32) % 64 - 32

/-- The exponent table at a solve's acceptance: the schedule's group exponents as 6-bit signed values (R338). -/
def startExps (sc : Schedule) : List (List Int) := sc.nodes.map fun n => n.exps.map sext6

/-- The rest of an acceptance: image, structure, deadline, warm start, first pass (R326, R332, R364, R369, R373). -/
def acceptChecked (s : State) (j : Job) (dl : Option DWord) (sc : Schedule) : State :=
  let b := j.block
  match imageBad s (solveImage b) with
  | some (k, i, byte) => refuseSolve s j dl k i byte
  | none =>
    let pr := loadProblem s (solveImage b)
    let hash : DWord := BitVec.ofNat 64 (crc64 (structBytes pr))
    let e0 : Ending := { earlyEnding s dl 0x2A with hash := hash, v := pr.v, cls := pr.cls, lam := sc.lamInit, expC := sc.expC }
    let s1 := wr s R.lseLambda (BitVec.ofInt 32 (sc.lamInit % 256))
    let late := match dl with
      | some d => decide (d.toNat ≤ s.dt.now.toNat)
      | none => false
    if pr.cls ≠ sc.cls ∨ pr.v ≠ sc.v ∨ pr.f ≠ sc.f ∨ hash ≠ sc.hash then endSolve s1 j e0
    else if abortAsked s j.owner then endSolve s1 j { e0 with status := 0x28, flags := 1, vals := pr.vars }
    else if late then endSolve s1 j { e0 with status := 0x20, flags := 1, vals := pr.vars }
    else
      let (vals, m, fl) := warmStart s1 j pr hash
      let s2 := countSkips (countWarm s1 m fl) pr
      let exps := startExps sc
      let ly := layout sc pr.vars
      let (r, s3) := assemble s2 pr sc ly (kindExps exps 0) (kindExps exps 3) vals
      let exps1 := putExps exps r.expA r.expG
      let fl1 := fl + (if r.rescales = 0 then 0 else 128)
      match r.out with
      | .pattern => endSolve s3 j { e0 with flags := fl1, matched := m, rescales := r.rescales, hr := asmHr (List.replicate 7 31) r none }
      | .saturated c => endSolve (satEvent (syncAll s3 (asmHr (List.replicate 7 31) r none)) c) j { e0 with
          status := 0x22, flags := fl1 + 1, matched := m, rescales := r.rescales, vals := vals
          hr := asmHr (List.replicate 7 31) r none }
      | .ok a =>
        let hr := asmHr (List.replicate 7 31) r (some a.cost)
        syncLse (setLse (syncAll s3 hr) fun l => { l with
          taken := none
          solve := some ⟨j, s.dt.now, dl, rec8 b 1 1, sc, hash, a, exps1, sc.lamInit, 0, 0, fl1 + 256, m, a.cost, r.rescales, 0,
            hr, s.mst.committed⟩ })

/-- The deadline of a solve accepted now: absolute for a descriptor, relative for a block (R362). -/
def solveDeadline (s : State) (j : Job) : Option DWord :=
  match j.latch with
  | d :: _ => if d = 0 then none else some (BitVec.ofNat 64 d)
  | [] => if rec8 j.block 8 4 = 0 then none else some (s.dt.now + BitVec.ofNat 64 (rec8 j.block 8 4))

/-- SOLVE_ACCEPT: the engine takes the next solve when none runs. -/
def execSolveAccept (s : State) : Out :=
  fabric s fun s =>
    match s.lse.taken, s.lse.solve with
    | some j, none =>
      if engineHeld s 0x13 then s else
      let dl := solveDeadline s j
      match firstBad (solveChecks s j), schedSlot s (slotKey j.ctx (rec8 j.block 1 1)) with
      | none, some ⟨some sc, _, _, _, _, _, _⟩ =>
        jobIo s (imageRanges (solveImage j.block) (ldBytes s (solveImage j.block) 64) ++ warmReads s j) []
          (fun s => endSolve s j (earlyEnding s dl 0x26)) fun s => acceptChecked s j dl sc
      | some byte, _ => refuseSolve s j dl 3 0 byte
      | none, _ => refuseSolve s j dl 3 0 1
    | _, _ => s

/-! ### The step (R354) -/

/-- A field moved by a step component of mantissa −`m` at exponent `e`: the new value, none where it saturates. -/
def moveField (bits frac : Nat) (v m e : Int) : Option Int :=
  let k := 31 - e - frac
  let d := if 0 ≤ k then rne (-m) k.toNat else -m * 2 ^ (-k).toNat
  let x := v + d
  if ovfS bits x then none else some x

/-- The quaternion after a rotation step of mantissas −`m` at exponent `e`, in Q2.30. -/
def moveQuat (q m : List Int) (e : Int) : Option (List Int) :=
  let d := m.map fun x => scale2 (-x * fx1) (e - 31)
  let h := vDot d d / 4
  let near := fun (t : Nat) (x : Int) => fxTo 30 x + max (-1) (min 1 (Config.lseDev (200 + t) x))
  let w := near 0 (fxCosSq h)
  let sc := near 1 (fxSincSq h / 2)
  let dq := w :: m.map fun x => let k := 31 - e; if 0 ≤ k then rne (-(x * sc)) k.toNat else -(x * sc) * 2 ^ (-k).toNat
  let p := fun i j => vAt q i * vAt dq j
  let r := [p 0 0 - p 1 1 - p 2 2 - p 3 3, p 0 1 + p 1 0 + p 2 3 - p 3 2, p 0 2 - p 1 3 + p 2 0 + p 3 1,
    p 0 3 + p 1 2 - p 2 1 + p 3 0].map fun x => rne x 30
  let n2 := rne ((r.map fun x => x * x).sum) 30
  let (mr, er) := if n2 ≤ 0 then (Config.lseWide n2, 0) else rsqrt n2.toNat 1
  let u := r.map fun x => if er ≤ 31 then rne (x * mr) (31 - er).toNat else x * mr * 2 ^ (er - 31).toNat
  if u.any (ovfS 32) then none else some u

/-- Fields of a variable record replaced. -/
def putFields (v : List Byte) (off w : Nat) (xs : List Int) : List Byte :=
  v.take off ++ (xs.map (leBytesI w)).flatten ++ v.drop (off + w * xs.length)

/-- `n` fields of a record moved by `n` step components. -/
def moveAll (v : List Byte) (off w frac : Nat) (m : List Int) (e : Int) : Option (List Byte) :=
  (allSome ((List.range m.length).map fun i => moveField (8 * w) frac (recS v (off + w * i) w) (vAt m i) e)).map fun xs =>
    putFields v off w xs

/-- fx, fy, cx, cy are unsigned fields. -/
def moveUnsigned (v : List Byte) (m : List Int) (e : Int) : Option (List Byte) :=
  (allSome ((List.range m.length).map fun i => (moveField 34 16 (rec8 v (8 + 4 * i) 4) (vAt m i) e).bind fun x =>
    if (satU 32 x : Int) = x then some x else none)).map fun xs => putFields v 8 4 xs

/-- A rotation of a record moved. -/
def moveRot (v : List Byte) (off : Nat) (m : List Int) (e : Int) : Option (List Byte) :=
  (moveQuat ((List.range 4).map fun i => recS v (off + 4 * i) 4) m e).map fun q => putFields v off 4 q

/-- A variable moved by its step (R313); none where a value saturates. -/
def moveVar (v : List Byte) (m : List Int) (e : Int) : Option (List Byte) :=
  let part := fun (o n : Nat) => slice m o n
  match vKind v with
  | 1 => (moveAll v 8 8 24 (part 0 3) e).bind fun v => moveRot v 32 (part 3 3) e
  | 2 => moveAll v 8 8 24 m e
  | 3 => ((moveAll v 8 4 16 (part 0 3) e).bind fun v => moveAll v 20 4 20 (part 3 3) e).bind fun v => moveAll v 32 4 16 (part 6 3) e
  | 4 => (moveUnsigned v (part 0 4) e).bind fun v => moveAll v 24 4 28 (part 4 5) e
  | _ => (moveAll v 8 4 16 (part 0 3) e).bind fun v => moveRot v 20 (part 3 3) e

/-- The trial values: every free variable that is not TOMB takes its step. -/
def trialVals (ly : Layout) (vals : List (List Byte)) (f : FUnit) : Option (List (List Byte)) :=
  allSome ((List.range vals.length).map fun i =>
    let v := vals.getD i []
    let n := tabGet 0 ly.node i
    if vFixed v || vTomb v || n == 0 then some v
    else moveVar v ((varCols vals ly.base i).map fun c => (tabGet (0, 0) f.x c).1) (grpExp f.exps (n - 1) 5))

/-! ### Iterations (R364 to R367) -/

/-- The events of the factor unit as the registers show them: rescales and clamps. -/
def fuEvents (s : State) (l : List FEvent) : State :=
  l.foldl (fun s e =>
    match e with
    | .rescale n k kind => rescaleEvent s n k kind
    | .clamp n c => wr (setBits (bump s R.lseClampCnt) R.lseArEvent 2) R.lseClampLast
        (BitVec.ofNat 32 (c % 512 * 0x100000 + n % 0x100000))) s

/-- Rescales and clamps among events. -/
def isRescale : FEvent → Bool
  | .rescale _ _ _ => true
  | .clamp _ _ => false

/-- A solve after work of the factor unit. -/
def afterFu (v : Solve) (f : FUnit) : Solve :=
  let r := (f.events.filter isRescale).length
  let c := f.events.length - r
  { v with
    exps := f.exps, hr := f.hr, rescales := v.rescales + r, clamps := v.clamps + c
    flags := Nat.lor v.flags ((if c = 0 then 0 else 8) + (if r = 0 then 0 else 128)) }

/-- The ending of a running solve. -/
def endingOf (v : Solve) (st fl stop : Nat) : Ending :=
  ⟨v.accept, v.deadline, v.hash, v.sched.v, v.sched.cls, st, Nat.lor v.flags (fl + 1), v.iters, v.accepted, v.lam,
    costMant v.cost0, costMant v.asm.cost, v.sched.expC, v.rescales, v.clamps, v.matched, stop, v.asm.vals, v.hr⟩

/-- The status of a solve that ends without error (R374). -/
def qualifier (fl : Nat) : Nat :=
  if fl / 8 % 2 = 1 then 6 else if fl / 4 % 2 = 1 then 2 else if fl / 64 % 2 = 1 then 4 else if fl / 32 % 2 = 1 then 3 else 0

/-- Whether an accepted iteration has converged (R366). -/
def converged (tc ts : Nat) (prev cur : Int) (sc : Schedule) (ly : Layout) (f : FUnit) : Bool :=
  cur == 0 ||
    (decide ((prev - cur) * 2 ^ tc < prev) &&
      f.x.all fun e =>
        let n := nodeOfCol ly.plan e.1
        let d := grpExp f.exps n 5 - ((startExps sc).getD n []).getD 5 0
        decide ((e.2.1.natAbs : Int) * 2 ^ d.toNat < 2 ^ (31 - ts)))

/-- What the factor unit reads of an assembly. -/
def blocksOf (a : Assembly) : ABlocks := ⟨a.a, a.g, a.expA, a.expG⟩

/-- A free number below a bound. -/
def drawBelow (s : State) (n : Nat) : Nat × State := let (x, s1) := drawNat s; (x % max 1 n, s1)

/-- A running solve stops at a check point inside an iteration: a supernode boundary of the factorisation or a substitution
pass, a boundary of 4,096 factors of the assembly pass, or the iteration boundary before them; which one is open. -/
def stopAtCheck (s : State) (v : Solve) (st : Nat) : State :=
  let pr := loadProblem s (solveImage v.job.block)
  let ly := layout v.sched pr.vars
  let n := 3 * ly.plan.nodes.length
  let (t, s1) := drawBelow s (n + 1)
  let f := fuRun ly.plan (blocksOf v.asm) v.lam v.sched.dfloor v.exps v.hr t
  let v1 := afterFu v f
  let s2 := fuEvents s1 f.events
  match f.stopped with
  | some k => endSolve (satEvent s2 false) v.job (endingOf v1 0x22 0 k)
  | none =>
    let stop := if t = 0 then 0xFFFFFFFF else (((fuSteps ly.plan.nodes.length).map Prod.snd).getD (t - 1) 0xFFFFFFFF)
    if t < n then endSolve (syncAll s2 v1.hr) v.job (endingOf v1 st 0 stop)
    else
      let (q, s3) := drawBelow s2 (pr.f / 4096 + 1)
      match trialVals ly v.asm.vals f with
      | none => endSolve (satEvent s3 false) v.job (endingOf v1 0x22 0 0xFFFFFFFF)
      | some vals =>
        if q = 0 then endSolve (syncAll s3 v1.hr) v.job (endingOf v1 st 0 stop)
        else
          let p := facPass s3 pr v.sched ly (kindExps v1.exps 0) (kindExps v1.exps 3) vals (pr.facs.take (4096 * q))
          let v2 := { v1 with hr := lowHr (lowHr v1.hr 0 p.hrA) 3 p.hrG }
          let s4 := bumpN (bumpN s3 R.lseAsmFactors p.factors) R.lseCheiralCnt p.cheiral
          endSolve (syncAll s4 v2.hr) v.job (endingOf v2 st 0 0xFFFFFFFF)

/-- The tests at the end of an iteration (R364, R366, R367, R370). -/
def iterationTests (s : State) (v : Solve) (conv : Bool) : State :=
  let late := match v.deadline with
    | some d => decide (d.toNat ≤ s.dt.now.toNat)
    | none => false
  let done := fun (fl : Nat) => endSolve s v.job (endingOf v (qualifier (Nat.lor v.flags fl)) fl 0xFFFFFFFF)
  if conv then done 2
  else if rec8 v.job.block 3 1 ≤ v.iters then done 4
  else if late then endSolve s v.job (endingOf v 0x20 0 0xFFFFFFFF)
  else syncLse (setLse s fun l => { l with solve := some v })

/-- One iteration of the running solve, from the factorisation to its tests. -/
def iterate (s : State) (v : Solve) : State :=
  let pr := loadProblem s (solveImage v.job.block)
  let ly := layout v.sched pr.vars
  let f := fuRun ly.plan (blocksOf v.asm) v.lam v.sched.dfloor v.exps v.hr (3 * ly.plan.nodes.length)
  let v1 := afterFu v f
  let s1 := syncAll (fuEvents s f.events) v1.hr
  match f.stopped with
  | some k => endSolve (satEvent s1 false) v.job (endingOf v1 0x22 0 k)
  | none =>
    match trialVals ly v.asm.vals f with
    | none => endSolve (satEvent s1 false) v.job (endingOf v1 0x22 0 0xFFFFFFFF)
    | some vals =>
      let (r, s2) := assemble s1 pr v.sched ly (kindExps v1.exps 0) (kindExps v1.exps 3) vals
      let v2 := { v1 with
        exps := putExps v1.exps r.expA r.expG, rescales := v1.rescales + r.rescales
        flags := Nat.lor v1.flags (if r.rescales = 0 then 0 else 128) }
      match r.out with
      | .pattern => endSolve s2 v.job { endingOf { v2 with iters := 0, accepted := 0 } 0x2A 0 0xFFFFFFFF with
          flags := v2.flags / 2 * 2 }
      | .saturated c =>
        let v3 := { v2 with hr := asmHr v2.hr r none }
        endSolve (satEvent (syncAll s2 v3.hr) c) v.job (endingOf v3 0x22 0 0xFFFFFFFF)
      | .ok a =>
        let ok := decide (a.cost < v.asm.cost)
        let lam := if ok then max (v.lam - v.sched.down) v.sched.lamMin else min (v.lam + v.sched.up) v.sched.lamMax
        let hr := asmHr v2.hr r (some a.cost)
        let v3 := { v2 with
          hr := hr, lam := lam, iters := v.iters + 1, accepted := v.accepted + ok.toNat, asm := if ok then a else v.asm }
        let s3 := wr (syncAll s2 hr) R.lseLambda (BitVec.ofInt 32 (lam % 256))
        iterationTests s3 v3
          (ok && converged (rec8 v.job.block 4 1) (rec8 v.job.block 5 1) v.asm.cost a.cost v.sched ly f)

/-- SOLVE_ITERATION_END: one iteration of the running solve; an abort or poisoned data ends it instead. -/
def execSolveIterationEnd (s : State) : Out :=
  fabric s fun s =>
    match s.lse.solve with
    | none => s
    | some v =>
      let a := solveImage v.job.block
      if abortAsked s v.job.owner then stopAtCheck s v 0x28
      else jobIo s (imageRanges a (ldBytes s a 64)) [] (fun s => endSolve s v.job (endingOf v 0x26 0 0xFFFFFFFF)) fun s => iterate s v

/-- SOLVE_DEADLINE_MISS: DT is at or past the deadline at a check point inside an iteration (R371). -/
def execSolveDeadlineMiss (s : State) : Out :=
  fabric s fun s =>
    match s.lse.solve with
    | none => s
    | some v =>
      match v.deadline with
      | none => s
      | some d =>
        if d.toNat ≤ s.dt.now.toNat then stopAtCheck s v (if abortAsked s v.job.owner then 0x28 else 0x20) else s

/-- A fault of the engine ends the running solve with the last accepted iterate (R373, R480). -/
def solveFault (s : State) : State :=
  let s1 := match s.lse.solve with
    | some v => endSolve s v.job (endingOf v 0x26 0 0xFFFFFFFF)
    | none => s
  (startedAt s1 0x13).foldl (fun st j => report st j.owner 0x26) (setStarted s1 0x13 [])

/-- A FAILED engine ends a job with ERR_FAULT without running it (R480). -/
def solveDead (s : State) (j : Job) : State :=
  if rec8 j.block 0 1 = 0x20 then endSolve s j (earlyEnding s (solveDeadline s j) 0x26) else report s j.owner 0x26

/-! ### PREINT (R324, R325) -/

/-- The addresses of the records of a slot that are still in its ring, oldest first; outputs formed and not yet written are none
of them. -/
def ringAddrs (s : State) (i : Nat) : List Nat :=
  let slots := 2 ^ rf s (R.ifcIsOutcfg i) 3 0
  let base := (rd64 s (R.ifcIsOutLo i) (R.ifcIsOutHi i)).toNat
  let next := (ifcSlot s i).seq.toNat - (ifcSlot s i).due.length
  (List.range (min slots next)).reverse.map fun k => base + 64 * ((next - 1 - k) % slots)

/-- Time, sequence and flags of an output record. -/
def recTime (r : List Byte) : Int := recS r 0 8
def recSeq (r : List Byte) : Nat := rec8 r 8 4
def recFlags (r : List Byte) : Nat := rec8 r 12 2

/-- The preintegrated quantities: ΔR, Δv, Δp, covariance of (δp, δv, δθ), J_Rg, J_vg, J_va, J_pg, J_pa. -/
structure Preint where
  dr : List (List Int)
  dv : List Int
  dp : List Int
  cov : List (List Int)
  jrg : List (List Int)
  jvg : List (List Int)
  jva : List (List Int)
  jpg : List (List Int)
  jpa : List (List Int)
deriving DecidableEq, Repr

/-- The start. -/
def preint0 : Preint := ⟨mId 3, [0, 0, 0], [0, 0, 0], mZero 9 9, mZero 3 3, mZero 3 3, mZero 3 3, mZero 3 3, mZero 3 3⟩

/-- A matrix of 3 × 3 blocks. -/
def blocks3 (l : List (List (List (List Int)))) : List (List Int) :=
  (l.map fun row => row.foldl mHcat [[], [], []]).flatten

/-- One held sample: bias-free angular rate and acceleration over `t`, noise densities of gyro and accelerometer. The steps of
R324 are taken in the order written (DEDUCED), so that Δp and Δv see the rotation after the sample, and Δp the velocity before
it; covariance and bias Jacobians are their exact first-order linearisation. -/
def preintStep (ng na : Int) (p : Preint) (w a : List Int) (t : Int) : Preint :=
  let th := vScale t w
  let et := mTr (quatMat (quatExp th))
  let jr := mScale t (jrOf th)
  let dr := mMul p.dr (mTr et)
  let ra := mVec dr a
  let t2 := fxm t t / 2
  let k := mMul dr (skew a)
  let i3 := mId 3
  let z := mZero 3 3
  let ke := mMul k et
  let kj := mMul k jr
  let ph := blocks3 [[i3, mScale t i3, mNeg (mScale t2 ke)], [z, i3, mNeg (mScale t ke)], [z, z, et]]
  let g := blocks3 [[mNeg (mScale t2 kj), mScale t2 dr], [mNeg (mScale t kj), mScale t dr], [jr, z]]
  let q := mGen 6 6 fun i j => if i ≠ j then 0 else fxd (if i < 3 then ng else na) t
  let jrg := mSub (mMul et p.jrg) jr
  { dr := dr
    dp := vAdd p.dp (vAdd (vScale t p.dv) (vScale t2 ra))
    dv := vAdd p.dv (vScale t ra)
    cov := mAdd (mMul (mMul ph p.cov) (mTr ph)) (mMul (mMul g q) (mTr g))
    jrg := jrg
    jvg := mSub p.jvg (mScale t (mMul k jrg))
    jva := mSub p.jva (mScale t dr)
    jpg := mSub (mAdd p.jpg (mScale t p.jvg)) (mScale t2 (mMul k jrg))
    jpa := mSub (mAdd p.jpa (mScale t p.jva)) (mScale t2 dr) }

/-- One elimination step of an inversion: row `i` normalised and cleared from the others. -/
def gaussStep (m : List (List Int)) (i : Nat) : List (List Int) :=
  let piv := mAt m i i
  let row := (m.getD i []).map fun x => fxd x piv
  (List.range m.length).map fun r => if r = i then row else vSub (m.getD r []) (vScale (mAt m r i) row)

/-- The inverse of a symmetric positive matrix. -/
def mInv (m : List (List Int)) : List (List Int) :=
  let n := m.length
  ((List.range n).foldl gaussStep (mHcat m (mId n))).map fun r => r.drop n

/-- Rows of the lower Cholesky factor of a matrix. -/
def cholRows (m : List (List Int)) : List (List Int) :=
  (List.range m.length).foldl (fun ls i =>
    let row := (List.range i).foldl (fun row j =>
      row ++ [fxd (mAt m i j - ((List.range j).map fun k => fxm (vAt row k) (mAt ls j k)).sum) (mAt ls j j)]) []
    ls ++ [row ++ [fxSqrt (mAt m i i - (row.map fun x => fxm x x).sum)]]) []

/-- Upper triangle of U by rows: U = L^T where Σ⁻¹ = L L^T. -/
def infoRoot (cov : List (List Int)) : List Int :=
  let l := cholRows (mInv cov)
  ((List.range 9).map fun i => (List.range (9 - i)).map fun k => mAt l (i + k) i).flatten

/-- A value stored as a count of 2^−k: the spec gives no rounding, so one that lies between two counts takes either. -/
def eitherCount (tag k : Nat) (x : Int) : Int :=
  let q := x / 2 ^ (100 - k)
  satS 32 (if x = q * 2 ^ (100 - k) then q else q + (Config.preUp tag x).toNat)

/-- Fields in sequence, tagged from `t`. -/
def preFields (t k : Nat) (l : List Int) : List Byte :=
  (((List.range l.length).zip l).map fun e => leBytesI 4 (eitherCount (t + e.1) k e.2)).flatten

/-- U as stored with its exponent EU: the least of magnitude that holds every entry (R317, R324). -/
def storeInfo (u : List Int) : List Byte × Int :=
  let unit := fun (j : Nat) => [3, 3, 3, -2, -2, -2, -6, -6, -6].getD j (0 : Int)
  let cols := ((List.range 9).map fun i => (List.range (9 - i)).map fun k => i + k).flatten
  let v := (u.zip cols).map fun e => scale2 e.1 (unit e.2)
  let big := v.foldl (fun m x => max m x.natAbs) 0
  let eu : Int := max 0 ((bitLen big : Int) - 107)
  ((((List.range v.length).zip v).map fun e => leBytesI 4 (eitherCount (100 + e.1) 0 (scale2 e.2 (24 - eu)))).flatten, eu)

/-- The record. -/
def preintRecord (s : State) (b : List Byte) (used : List (List Byte)) : List Byte :=
  let i := rec8 b 1 1
  let t0 : Int := rec8 b 8 8
  let t1 : Int := rec8 b 16 8
  let gfs : Int := (rd s R.tfuGyroFs).toNat
  let afs : Int := (rd s R.tfuAccFs).toNat
  let bg := fields b 24 3 4 20
  let ba := fields b 36 3 4 16
  let ng := covVal (rec8 b 56 2)
  let na := covVal (rec8 b 58 2)
  let from_ := fun (k : Nat) => if k = 0 then t0 else recTime (used.getD k [])
  let to_ := fun (k : Nat) => if k + 1 < used.length then recTime (used.getD (k + 1) []) else t1
  let p := (List.range used.length).foldl (fun p k =>
    let r := used.getD k []
    let w := vSub ([0, 1, 2].map fun c => fxOf (recS r (16 + 4 * c) 4 * gfs) 46) bg
    let a := vSub ([3, 4, 5].map fun c => fxOf (recS r (16 + 4 * c) 4 * afs) 46) ba
    preintStep ng na p w a (fxOf (to_ k - from_ k) 0 / 1000000000)) preint0
  let (u, eu) := storeInfo (infoRoot p.cov)
  let walk := fun (c : Nat) => covCode (fxm (covVal c) (fxOf (t1 - t0) 0 / 1000000000)) 100
  let flagged := used.any fun r => recFlags r % 8 != 0
  let body := slice b 8 16 ++ leBytes 4 used.length ++ leBytes 1 i ++ leBytes 1 0 ++ leBytes 2 flagged.toNat ++
    preFields 0 30 p.dr.flatten ++ preFields 10 16 p.dv ++ preFields 14 20 p.dp ++ slice b 24 24 ++
    preFields 20 24 p.jrg.flatten ++ preFields 30 24 p.jvg.flatten ++ preFields 40 24 p.jva.flatten ++
    preFields 50 24 p.jpg.flatten ++ preFields 60 24 p.jpa.flatten ++ u ++ leBytesI 1 eu ++ leBytes 3 0 ++
    leBytes 2 (walk (rec8 b 60 2)) ++ leBytes 2 (walk (rec8 b 62 2)) ++ leBytes 32 0
  body ++ leBytes 4 (crc32c body)

/-- The checks of a PREINT block. -/
def preintChecks (s : State) (b : List Byte) : List (Nat × Bool) :=
  let t0 := rec8 b 8 8
  let t1 := rec8 b 16 8
  let code := fun (o : Nat) => rec8 b o 2 != 0 && rec8 b o 2 != 0xFFFF
  [(1, decide (rec8 b 1 1 < 4) && rb s (R.ifcIsCfg (rec8 b 1 1)) 31), (2, zeros b 2 6),
    (16, decide (t0 + 1000000 ≤ t1 ∧ t1 ≤ t0 + 4000000000)),
    (48, decide (rec8 b 48 8 % 64 = 0) && engineRange s (rec8 b 48 8) 512), (56, code 56), (58, code 58), (60, code 60),
    (62, code 62)]

/-- Whether a range of records has what R325 asks: the slot delivers, no record is missing, the record at t_i is still in the
ring, and the outputs reach t_j. -/
def preintOk (s : State) (b : List Byte) (all used : List (List Byte)) : Bool :=
  let i := rec8 b 1 1
  let t0 : Int := rec8 b 8 8
  let t1 : Int := rec8 b 16 8
  let seqs := used.map recSeq
  !rb s (R.ingIsStatus i) 1 &&
    ((List.range (seqs.length - 1)).all fun k => seqs.getD (k + 1) 0 == (seqs.getD k 0 + 1) % 2 ^ 32) &&
    (match all.head? with
     | some r => decide (recTime r ≤ t0) || recSeq r == 0
     | none => false) &&
    (match all.getLast? with
     | some r => decide (t1 - slotPeriod s i ≤ recTime r)
     | none => false)

/-- The work of a PREINT job. -/
def preintJob (s : State) (j : Job) : State :=
  let b := j.block
  let a := rec8 b 48 8
  let s0 := bumpWrap s R.lsePreintCnt
  match firstBad (preintChecks s b) with
  | some byte => report (lseErr s0 3 0 byte 0x10) j.owner 0x23
  | none =>
    let ring := (ringAddrs s (rec8 b 1 1)).map fun x => (x, ldBytes s x 64)
    let t0 : Int := rec8 b 8 8
    let t1 : Int := rec8 b 16 8
    let mine := ring.filter fun r => decide (t0 ≤ recTime r.2) && decide (recTime r.2 < t1)
    let all := ring.map Prod.snd
    let used := mine.map Prod.snd
    jobIo s0 (mine.map fun r => (r.1, 64)) [] (fun s => report s j.owner 0x26) fun s0 =>
    if preintOk s b all used then report (jobStore j s0 a (preintRecord s b used)) j.owner 0
    else report (jobStore j s0 (a + 21) [0x25]) j.owner 0x25

/-- PREINT. -/
def execPreint (s : State) : Out := lseWork 0x10 preintJob s

/-! ### BUILD (R333, R334) -/

/-- BUILD: the job is checked and its build starts. -/
def buildJob (s : State) (j : Job) : State :=
  let b := j.block
  let key := slotKey j.ctx (rec8 b 1 1)
  let img := rec8 b 8 8
  let refuse := fun (k i byte : Nat) => report (lseErr s k i byte 0x11) j.owner 0x23
  match schedSlot s key with
  | none => refuse 3 0 1
  | some x =>
    match firstBad [(1, decide (rec8 b 1 1 < 64) && x.buildable), (2, zeros b 2 6), (8, engineRange s img 64), (16, zeros b 16 48)] with
    | some byte => refuse 3 0 byte
    | none =>
      jobIo s (imageRanges img (ldBytes s img 64)) [] (fun s => report s j.owner 0x26) fun s =>
      match imageBad s img with
        | some (k, i, byte) => refuse k i byte
        | none =>
          let p := loadProblem s img
          if p.cls ≠ 1 then refuse 0 0 0
          else if x.maxPoses < p.v then refuse 0 0 4
          else if x.maxFactors < p.f then refuse 0 0 8
          else
            let s1 := setSched s key (some { x with building := true })
            syncLse (setLse s1 fun l => { l with builds := l.builds ++ [⟨j, key, structBytes p⟩] })

/-- BUILD. -/
def execBuild (s : State) : Out := lseWork 0x11 buildJob s

/-- The free poses of a pose graph, and the pairs its RELPOSE factors join, from the bytes of its structure. -/
def graphVars (t : List Byte) : List Nat :=
  (List.range (rec8 t 1 4)).filter fun i => rec8 t (5 + 2 * i + 1) 1 == 0
def graphEdges (t : List Byte) : List (Nat × Nat) :=
  let v := rec8 t 1 4
  let f0 := 5 + 2 * v
  let free := graphVars t
  ((List.range (rec8 t f0 4)).map fun k => (rec8 t (f0 + 4 + 17 * k + 1) 4, rec8 t (f0 + 4 + 17 * k + 5) 4)).filter fun e =>
    free.contains e.1 && free.contains e.2

/-- The order: rising rank, ties to the lower table index. -/
def insertRank (rank : Nat → Nat) (v : Nat) : List Nat → List Nat
  | [] => [v]
  | w :: t => if rank w ≤ rank v then w :: insertRank rank v t else v :: w :: t

/-- Later neighbours of each variable in order, with the fill that its elimination makes. -/
def fillOf (edges : List (Nat × Nat)) : List Nat → List (Nat × List Nat)
  | [] => []
  | v :: rest =>
    let nb := rest.filter fun w => edges.contains (v, w) || edges.contains (w, v)
    (v, nb) :: fillOf (edges ++ (allPairs nb).filter fun e => e.1 != e.2) rest

/-- Supernodes of an order: at most 64 variables each. -/
def cutNodes (cut : Nat → Bool) : Nat → List Nat → List Nat → List (List Nat)
  | _, [], cur => if cur.isEmpty then [] else [cur]
  | i, v :: t, cur =>
    if (cut i && !cur.isEmpty) || decide (64 ≤ cur.length) then cur :: cutNodes cut (i + 1) t [v]
    else cutNodes cut (i + 1) t (cur ++ [v])

/-- The schedule that the builder makes for a structure; scalars and evaluation exponents are the package's. -/
def builtSchedule (decl : Schedule) (t : List Byte) : Schedule :=
  let edges := graphEdges t
  let order := (graphVars t).foldl (fun l v => insertRank (Config.amdRank edges) v l) []
  let fill := fillOf edges order
  let nodes := cutNodes (Config.nodeCut edges) 0 order []
  let below := fun (n : List Nat) => order.filter fun w =>
    !n.contains w && n.any fun v => (fill.find? fun e => e.1 == v).any fun e => e.2.contains w
  let ex := fun (i k : Nat) => max (-32) (min 31 (Config.buildExp edges i k))
  { decl with
    cls := 1, v := rec8 t 1 4, f := rec8 t (5 + 2 * rec8 t 1 4) 4, hash := BitVec.ofNat 64 (crc64 t)
    nodes := ((List.range nodes.length).zip nodes).map fun e =>
      ⟨e.2, below e.2, (List.range 6).map (ex e.1), max (-128) (min 127 (Config.buildExp edges e.1 6))⟩ }

/-- BUILD_END: the oldest build completes and its schedule becomes the slot's (R334). -/
def execBuildEnd (s : State) : Out :=
  fabric s fun s =>
    match s.lse.builds with
    | [] => s
    | b :: rest =>
      let s0 := setLse s fun l => { l with builds := rest }
      match schedSlot s0 b.key with
      | none => syncLse (report s0 b.job.owner 0x23)
      | some x =>
        let more := rest.any fun r => r.key == b.key
        let s1 := setSched s0 b.key (some { x with
          sched := some (builtSchedule x.decl b.tables), gen := (x.gen + 1) % 2 ^ 32, building := more })
        syncLse (report (setBits (bumpWrap s1 R.lseBuildCnt) R.lseEvent 4) b.job.owner 0)

/-- A control-pair switchover ends every build with ERR_FAULT and leaves the schedules unchanged (R334). -/
def failBuilds (s : State) : State :=
  let s1 := s.lse.builds.foldl (fun s b =>
    let s1 := match schedSlot s b.key with
      | some x => setSched s b.key (some { x with building := false })
      | none => s
    report s1 b.job.owner 0x26) s
  syncLse (setLse s1 fun l => { l with builds := [] })

end Sys2Proof.Machine
end

