-- ==== Sys2Proof/Machine/Gates.lean ====
section
/-! DEFINITION. Start gates and trigger pins (R56 to R72, R74, R75). -/

namespace Sys2Proof.Machine

/-! ### The gate entry -/

/-- Fields of SG_GATEn_CTRL. -/
def gateArmed (s : State) (n : Nat) : Bool := rb s (R.sgGateCtrl n) 0
def gateAction (s : State) (n : Nat) : Nat := rf s (R.sgGateCtrl n) 4 2
def gatePeriodic (s : State) (n : Nat) : Bool := rb s (R.sgGateCtrl n) 5
def gateCtx (s : State) (n : Nat) : Nat := rf s (R.sgGateCtrl n) 15 12
def gateTarget (s : State) (n : Nat) : Nat := rf s (R.sgGatePt n) 31 16

/-- The 16-bit phase of a gate's fire time (R64). -/
def gatePhase (s : State) (n : Nat) : Nat := (tabGet 0 s.sg.phase n).toNat

/-- A period in 2^−16 ns. -/
def gatePeriod (s : State) (n : Nat) : Nat := (rd s (R.sgGatePeriodNs n)).toNat * 65536 + rf s (R.sgGatePt n) 15 0

/-- The fields of a write to SG_GATEn_CTRL that a write can change while the gate is disarmed. -/
def gateFields : Word := 0x0000F03C

/-- The start gates replaced. -/
def setSg (s : State) (f : Sg → Sg) : State := { s with sg := f s.sg }

/-- Descriptors held at the dispatch point for gate `n`: released by its firing, or lost with its disarming. A firing in the cycle
in which the hold began does not count, so the disarming that it brings loses the descriptor (R455). -/
def holdsGate (n : Nat) (d : Desc) : Bool := decide (d.stage = .gateHold) && rec8 d.bytes 28 4 == n
def releaseDesc (s : State) (n : Nat) (fired : Bool) (d : Desc) : Desc :=
  if !holdsGate n d then d
  else if !fired then { d with gateLost := true }
  else if d.heldAt ≠ s.dt.now then { d with stage := .gateFired }
  else { d with gateLost := !gatePeriodic s n }
def releaseGate (s : State) (n : Nat) (fired : Bool) : State :=
  { s with hif := { s.hif with descs := s.hif.descs.map (releaseDesc s n fired) } }

/-- The gate is disarmed without firing. -/
def disarmGate (s : State) (n : Nat) : State :=
  let s1 := setSg s fun g => { g with due := g.due.filter fun d => d.gate != n }
  releaseGate (wf s1 (R.sgGateCtrl n) 0 0 0) n false

/-! ### Arming (R58, R59, R62, R64) -/

/-- The checks of R58 and R59 on what an arm would fire. -/
def gateTargetOk (s : State) (n : Nat) : Bool :=
  let t := gateTarget s n
  (!gatePeriodic s n || decide (1000 * 65536 ≤ gatePeriod s n)) &&
  (match gateAction s n with
   | 0 => decide (t < 64)
   | 1 => decide (t < 4096) && (decide (n < 32) || decide (256 ≤ t))
   | 2 => decide (t < 16)
   | 3 => decide (t < 256)
   | 4 => decide (t < 64)
   | _ => false)

/-- How an arm ends. -/
inductive Armed where
  | armed | badTarget | late
deriving DecidableEq, Repr

/-- The checks of an arm, DT against FIRE included. -/
def armTest (s : State) (n : Nat) : Armed :=
  if !gateTargetOk s n then .badTarget
  else if (rd s R.sgLateTol).toNat < s.dt.now.toNat - (gateFire s n).toNat then .late
  else .armed

/-- An arm of an entry whose fields are in place. -/
def armGate (s : State) (n : Nat) : State × Armed :=
  match armTest s n with
  | .armed => (wf (setSg s fun g => { g with phase := tabSet 0 g.phase n 0 }) (R.sgGateCtrl n) 0 0 1, .armed)
  | .badTarget => (sgErr s 2 n, .badTarget)
  | .late => (sgErr s 0 n, .late)

/-- A host write to a gate that belongs to firmware (R56). -/
def gateForbidden (who : Agent) (n : Nat) : Bool := decide (who = .host) && decide (n < 32)

/-- A write to SG_GATEn_CTRL of a disarmed entry: the fields, then the arm. -/
def ctrlWrite (s : State) (n : Nat) (v : Word) : State :=
  let s1 := wr s (R.sgGateCtrl n) ((rd s (R.sgGateCtrl n) &&& ~~~gateFields) ||| (v &&& gateFields))
  if bit v 0 then (armGate s1 n).1 else s1

/-- Whether a write to an armed entry changes ACTION, PERIODIC or CTX. -/
def changesArmed (s : State) (n : Nat) (v : Word) : Bool := (rd s (R.sgGateCtrl n) &&& gateFields) != (v &&& gateFields)

/-! ### Trigger pins (R69 to R71) -/

/-- The stamp of an active edge. -/
def stampTrig (s : State) (p : Nat) (t : DWord) : State :=
  wr (wr (setSg s fun g => { g with stamp := tabSet 0 g.stamp p t }) (R.sgTrigStampLo p) (lo32 t)) (R.sgTrigStampHi p) (hi32 t)

/-- The pulse of a pin. -/
def pulseOf (s : State) (p : Nat) : Pulse := tabGet ⟨false, 0⟩ s.sg.pulse p

/-- TRIG_PULSE_START: the pin's active edge leaves the ball at `t`; a pulse that overlaps restarts the width (R69, R70). -/
def startPulse (s : State) (p : Nat) (width : Word) (t : DWord) : State :=
  if rb s (R.sgTrigCfg p) 0 then s
  else
    let x := pulseOf s p
    let w := max 16 ((width.toNat + 3) / 4 * 4)
    let s1 := setSg s fun g => { g with pulse := tabSet ⟨false, 0⟩ g.pulse p ⟨true, t + BitVec.ofNat 64 w⟩ }
    if x.active ∧ t.toNat < x.ends.toNat then bump s1 R.sgTrigOvlCnt else stampTrig s1 p t

/-- The level of a pin's ball (R69, R71): active while its pulse runs, at the level that POL makes active; none for high
impedance, which an input pin and an output with DRIVE 0 present. -/
def trigBall (s : State) (p : Nat) : Option Bool :=
  if rb s (R.sgTrigCfg p) 0 || !rb s (R.sgTrigCfg p) 2 then none else some ((pulseOf s p).active != rb s (R.sgTrigCfg p) 1)

/-- TRIG_PULSE_END. -/
def execTrigPulseEnd (p : Fin 16) (s : State) : Out :=
  fabric s fun s =>
    let x := pulseOf s p.val
    if x.active ∧ x.ends.toNat ≤ s.dt.now.toNat then
      setSg s fun g => { g with pulse := tabSet ⟨false, 0⟩ g.pulse p.val ⟨false, 0⟩ }
    else s

/-- TRIG_INPUT_EDGE: an active edge on an input pin is stamped and requests its source; an output pin sees nothing. -/
def execTrigInputEdge (p : Fin 16) (rising : Bool) (s : State) : Out :=
  fabric s fun s =>
    if rb s (R.sgTrigCfg p.val) 0 && (rising != rb s (R.sgTrigCfg p.val) 1) then
      raiseEdge (stampTrig s p.val s.dt.now) (13 + p.val)
    else s

/-- SG_TRIG_STAMP_LO_READ. -/
def execSgTrigStampLoRead (p : Fin 16) (s : State) : Out :=
  fabric s fun s => capture s (R.sgTrigStampLo p.val) (tabGet 0 s.sg.stamp p.val)

/-- SG_FIRE_LO_READ: the fire time and its fraction. -/
def execSgFireLoRead (n : Fin 512) (s : State) : Out :=
  fabric s fun s =>
    { capture s (R.sgGateFireLo n.val) (gateFire s n.val) with
      capFrac := tabSet 0 s.capFrac (R.sgGateFireLo n.val) (BitVec.ofNat 32 (gatePhase s n.val)) }

/-! ### Firing (R60, R61, R64 to R66) -/

/-- The fixed part of the compensation of an action. -/
def compFixed (a : Nat) : Nat := [24, 20, 16, 28, 32].getD a 0

/-- C of a gate. -/
def gateComp (s : State) (n : Nat) : Nat :=
  compFixed (gateAction s n) + (if gateAction s n = 2 then 4 * rf s (R.sgTrigCfg (gateTarget s n)) 7 4 else 0)

/-- Whether a gate is in the list of those due. -/
def isDue (s : State) (n : Nat) : Bool := s.sg.due.any fun d => d.gate == n

/-- GATE_DUE: DT has reached FIRE − C of an armed gate. -/
def execGateDue (n : Fin 512) (s : State) : Out :=
  fabric s fun s =>
    if gateArmed s n.val && !isDue s n.val && decide ((gateFire s n.val).toNat ≤ s.dt.now.toNat + gateComp s n.val) then
      setSg s fun g => { g with due := g.due ++ [⟨n.val, s.dt.now, false⟩] }
    else s

/-- The action of a gate at its dispatch, and whether the firing failed. -/
def gateAct (s : State) (n : Nat) : State × Bool :=
  let t := gateTarget s n
  let arg := rd s (R.sgGateArg n)
  match gateAction s n with
  | 0 => launchByGate s t (gateCtx s n) n
  | 1 => (semAddOp s 0 t arg, false)
  | 2 => (startPulse s t arg (s.dt.now + 16), false)
  | 3 => startGateCopy s n (gateCtx s n) t
  | _ =>
    match tabGet [] s.lse.slots (slotKey (gateCtx s n) t) with
    | [] => (s, true)
    | b =>
      if !unitReady s 0x13 then (s, true)
      else (joinQueue s 0x13 ⟨.startGate n, 0x13, gateCtx s n, 0, b, none, []⟩, false)

/-- The periods by which FIRE advances: 1, or, where points of the grid were passed over, as many as bring it past the DT that
passed them: that of the step or of the setting of RUN (R65, R75), or DT now where the dispatch was held back for a whole
period (R66). -/
def gateAdvance (s : State) (n : Nat) (d : DueGate) : Nat :=
  let p := gatePeriod s n
  let f := (gateFire s n).toNat * 65536 + gatePhase s n
  let held := decide (p ≤ (s.dt.now.toNat - d.dueDt.toNat) * 65536)
  let t := (if held then s.dt.now.toNat else d.dueDt.toNat) * 65536
  if (d.passed || held) && decide (f ≤ t) && decide (p ≠ 0) then (t - f) / p + 1 else 1

/-- FIRE and phase advanced by `k` periods, the skips counted. -/
def advanceGate (s : State) (n k : Nat) : State :=
  let f := (gateFire s n).toNat * 65536 + gatePhase s n + k * gatePeriod s n
  let fire : DWord := BitVec.ofNat 64 (f / 65536)
  let s1 := wr (wr s (R.sgGateFireLo n) (lo32 fire)) (R.sgGateFireHi n) (hi32 fire)
  let s2 := setSg s1 fun g => { g with phase := tabSet 0 g.phase n (BitVec.ofNat 16 (f % 65536)) }
  bumpN (bumpN s2 (R.sgGateSkips n) (k - 1)) R.sgSkipCnt (k - 1)

/-- The gates dispatched at the present TIME_CLK edge. -/
def firedNow (s : State) : List Nat := if s.sg.slotDt = s.dt.now then s.sg.fired else []

/-- A gate fires: flags, counters, action, next fire time, descriptors held for it. -/
def fireGate (s : State) (d : DueGate) : State :=
  let n := d.gate
  let delayed := d.dueDt != s.dt.now
  let late := d.passed || decide ((gateFire s n).toNat + 40 < s.dt.now.toNat + compFixed (gateAction s n))
  let s1 := setSg s fun g => { g with
    due := g.due.filter fun x => x.gate != n, fired := firedNow s ++ [n], slotDt := s.dt.now }
  let s2 := wf (wf (bumpWrap s1 (R.sgGateFires n)) (R.sgGateCtrl n) 7 7 late.toNat) (R.sgGateCtrl n) 6 6 delayed.toNat
  let s3 := when delayed (fun s => bump s R.sgDelayCnt) s2
  let s4 := when late (fun s => bump s R.sgLateCnt) s3
  let (s5, failed) := gateAct s4 n
  let s6 := when failed (fun s => sgErr s 2 n) s5
  let s7 := if gatePeriodic s n then advanceGate s6 n (gateAdvance s n d) else wf s6 (R.sgGateCtrl n) 0 0 0
  releaseGate s7 n true

/-- Whether a due gate may take a dispatch slot now: gates run, fewer than four were dispatched at this edge, and no due gate
has a lower index (R61). -/
def canDispatch (s : State) (n : Nat) : Bool :=
  rb s R.sgCtrl 0 && decide ((firedNow s).length < 4) && s.sg.due.all fun d => decide (n ≤ d.gate)

/-- A disarm of gate `n`: where it comes in the cycle in which the gate can be dispatched (R61), the gate fires first (R63).
Answers whether the gate fired in that cycle. -/
def disarmIn (s : State) (n : Nat) (sameCycle : Bool) : State × Bool :=
  match s.sg.due.find? (fun d => d.gate == n) with
  | some d => if sameCycle && canDispatch s n then (disarmGate (fireGate s d) n, true) else (disarmGate s n, false)
  | none => (disarmGate s n, sameCycle && (firedNow s).contains n)

/-- GATE_DISPATCH. -/
def execGateDispatch (n : Fin 512) (s : State) : Out :=
  fabric s fun s =>
    match s.sg.due.find? (fun d => d.gate == n.val) with
    | some d => if canDispatch s n.val then fireGate s d else s
    | none => s

/-- GATE_ARM: a write of SG_GATEn_CTRL that sets ARMED; to an armed entry it changes nothing (R58). -/
def execGateArm (who : Agent) (n : Fin 512) (ctrl : Word) (s : State) : Out :=
  fabric s fun s =>
    if gateForbidden who n.val then sgErr s 3 n.val
    else if gateArmed s n.val then (if changesArmed s n.val ctrl then sgErr s 1 n.val else s)
    else ctrlWrite s n.val (setBit ctrl 0 true)

/-- GATE_DISARM: a write of SG_GATEn_CTRL that clears ARMED; one that comes in the cycle of the gate's dispatch does not stop
the firing (R58, R63). -/
def execGateDisarm (who : Agent) (n : Fin 512) (ctrl : Word) (sameCycle : Bool) (s : State) : Out :=
  fabric s fun s =>
    if gateForbidden who n.val then sgErr s 3 n.val
    else if gateArmed s n.val then
      (if changesArmed s n.val ctrl then sgErr s 1 n.val
       else (disarmIn s n.val sameCycle).1)
    else ctrlWrite s n.val (setBit ctrl 0 false)

/-- GATE_ENTRY_WRITE: FIRE_LO, FIRE_HI, PERIOD_NS, PT, ARG (R58). -/
def execGateEntryWrite (who : Agent) (n : Fin 512) (reg : Fin 5) (v : Word) (s : State) : Out :=
  fabric s fun s =>
    if gateForbidden who n.val then sgErr s 3 n.val
    else if gateArmed s n.val then sgErr s 1 n.val
    else wr s (R.sgGateCtrl n.val + 4 * (reg.val + 1)) v

/-- SG_RUN: a write of SG_CTRL; setting RUN makes passed gates fire once LATE, and gates already due ordinary due gates of the
next cycle (R75). -/
def execSgRun (v : Word) (s : State) : Out :=
  fabric s fun s =>
    let s1 := wr s R.sgCtrl (v &&& 1)
    if bit v 0 && !rb s R.sgCtrl 0 then
      passOver (setSg s1 fun g => { g with due := g.due.map fun d => { d with dueDt := s.dt.now } }) s.dt.now
    else s1

end Sys2Proof.Machine
end

