-- ==== Sys2Proof/Machine/Units.lean ====
section
/-! DEFINITION. Units take jobs from the heads of their queues (R218, R502). -/

namespace Sys2Proof.Machine

/-- Whether the unit can take the job at the head of its queue: a vision engine, the TFU and the PRS run one job at a time
(R394), a predict that is due goes ahead of a TFU job (R294), the tiles start a job when its tiles and state slots are free (R242), the LSE holds one job before its acceptance
(R361), a copy engine group and the map store keep their own queues (R268, R418). -/
def unitIdle (s : State) (u : UnitId) (j : Job) : Bool :=
  match u with
  | .vision v => (visJob s (visCode v)).isNone
  | .tfu => (startedAt s 0x12).isEmpty && !predictDue s && !s.safe.katDue
  | .prs => (startedAt s 0x14).isEmpty && s.prs.run.isNone
  | .tiles => (startedAt s 0x10).isEmpty && tileMayStart s j.ctx (jobBlock s j)
  | .lse => (startedAt s 0x13).isEmpty && s.lse.taken.isNone
  | .copyGroup _ | .mst => true

/-- A job joins those a unit has started. -/
def addStarted (s : State) (u : Nat) (j : Job) : State := setStarted s u (startedAt s u ++ [j])

/-- The start of a TFU job: BUSY, and for a MOTION the latches of its lidar and camera slots (R193, R307, R310). -/
def tfuStart (s : State) (j : Job) : State :=
  let at_ := fun (k : Nat) => (rd s (R.pjeSlotLatch (rec8 j.block k 1 % 16))).toNat
  addStarted (setBits s R.tfuStatus 0x100) 0x12 { j with latch := [at_ 1, at_ 2] }

/-- UNIT_JOB_START: the unit starts the job at the head of its queue and frees its entry. -/
def execUnitJobStart (u : UnitId) (s : State) : Out :=
  fabric s fun s =>
    match queueOf s (unitCode u) with
    | [] => s
    | j :: rest =>
      if !unitIdle s u j || engineHeld s (unitCode u) then s
      else
        let s1 := setQueue s (unitCode u) rest
        if !unitReady s1 j.unit then refuseWork s1 j.owner
        else
          let j1 := { j with block := jobBlock s1 j }
          let s2 := markRunning s1 j.owner
          if engineDead s (unitCode u) then
            (match u with
             | .lse => solveDead s2 j1
             | _ => report (stampStatus s2 j1 0x26) j1.owner 0x26)
          else
          match u with
          | .vision v => visStart s2 v j1
          | .tfu => tfuStart s2 j1
          | .mst => addStarted (setBits s2 R.mstStatus 2) 0x15 j1
          | .prs => addStarted (setBits s2 R.prsStatus 2) 0x14 j1
          | _ => addStarted s2 (unitCode u) j1

end Sys2Proof.Machine
end

