-- ==== Sys2Proof/Machine/Flash.lean ====
section
/-! DEFINITION. Flash channels as the map store uses them: blocks, zones, stripes, pages, lost pages (R404 to R409, R436,
R437, R441). -/

namespace Sys2Proof.Machine

/-! ### Channels and blocks -/

/-- Whether channel `c` is lost, and the channels in use. -/
def lostCh (s : State) (c : Nat) : Bool := rb s (R.flcStatus c) 31
def usableCh (s : State) : List Nat := (List.range 8).filter fun c => !lostCh s c

/-- The map store and its flash replaced. -/
def setMst (s : State) (f : Mst → Mst) : State := { s with mst := f s.mst }
def setFlash (s : State) (f : Flash → Flash) : State := setMst s fun m => { m with flash := f m.flash }

/-- The die positions in use: those that answer on every channel in use (R404). -/
def commonDies (s : State) : Nat := (usableCh s).foldl (fun m c => Nat.land m (s.mst.flash.nand.dies.getD c 0)) 0xFFFF

/-- The key of a block, and the root blocks, one on FC0 and one on FC4 (R427). -/
def blockKey (c b : Nat) : Nat := 2 ^ 24 * c + b
def rootBlock (c b : Nat) : Bool := (c == 0 || c == 4) && b == 0

/-- Whether a block may hold data: its die is in use, and it is neither bad nor a root block (R404, R408). -/
def goodBlock (s : State) (c b : Nat) : Bool :=
  (commonDies s).testBit (b / s.mst.flash.nand.blocks) && tabGet 0 s.mst.flash.bad (blockKey c b) == 0 && !rootBlock c b

/-- The blocks of a channel. -/
def blocksOfCh (s : State) : List Nat := List.range (16 * s.mst.flash.nand.blocks)

/-- Whether a block belongs to a zone. -/
def zoneHas (c b : Nat) (e : Nat × Option Zone) : Bool :=
  match e.2 with
  | some z => z.blocks.contains (c, b)
  | none => false
def inZone (s : State) (c b : Nat) : Bool := s.mst.flash.zones.any (zoneHas c b)

/-- The free blocks of a channel. -/
def freeBlocks (s : State) (c : Nat) : List Nat := (blocksOfCh s).filter fun b => goodBlock s c b && !inZone s c b

/-- The erase count of a block. -/
def eraseCount (s : State) (c b : Nat) : Nat := tabGet 0 s.mst.flash.erase (blockKey c b)

/-- The free block of least erase count of a channel (R409). -/
def leastWorn (s : State) (c : Nat) : Option Nat :=
  (freeBlocks s c).foldl (fun m b => match m with
    | none => some b
    | some a => if eraseCount s c b < eraseCount s c a then some b else some a) none

/-- The least of a list; 0 for none. -/
def leastOf : List Nat → Nat
  | [] => 0
  | a :: l => l.foldl min a

/-- Zones that could still be formed. -/
def zonesFree (s : State) : Nat := leastOf ((usableCh s).map fun c => (freeBlocks s c).length)

/-- Pages of a block in a mode, and data pages of a stripe. -/
def blockPages (s : State) (native : Bool) : Nat := if native then s.mst.flash.nand.natPages else s.mst.flash.nand.slcPages
def perStripe (s : State) : Nat := (usableCh s).length - 1

/-- A zone. -/
def zoneOf (s : State) (z : Nat) : Option Zone := tabGet none s.mst.flash.zones z

/-- One of the two zones being filled. -/
def curZone (s : State) (native : Bool) : Option Nat := if native then s.mst.flash.natZone else s.mst.flash.slcZone

/-- A list of results, if none is missing. -/
def sequenceOpt {α : Type} : List (Option α) → Option (List α)
  | [] => some []
  | none :: _ => none
  | some a :: t => (sequenceOpt t).map fun l => a :: l

/-- A new zone of a kind is formed and becomes the one being filled (R406, R409). -/
def newZone (s : State) (native : Bool) : Option (Nat × State) :=
  (sequenceOpt ((usableCh s).map fun c => (leastWorn s c).map fun b => (c, b))).map fun bs =>
    let z := s.mst.flash.nextZone
    (z, setFlash s fun f => { f with
      zones := tabSet none f.zones z (some ⟨native, bs, 0⟩), nextZone := z + 1
      natZone := if native then some z else f.natZone, slcZone := if native then f.slcZone else some z })

/-- The zone of a kind that takes the next stripe. -/
def openZone (s : State) (native : Bool) : Option (Nat × State) :=
  match curZone s native with
  | some z =>
    match zoneOf s z with
    | some x => if x.written < blockPages s native ∧ x.blocks.map Prod.fst = usableCh s then some (z, s) else newZone s native
    | none => newZone s native
  | none => newZone s native

/-! ### Stripes and pages (R406, R407, R411) -/

/-- The parity channel of a stripe, and the channels of its data pages in order. -/
def parityCh (t : Stripe) : Nat := t.chans.getD (t.seq % t.chans.length) 0
def dataChs (t : Stripe) : List Nat := t.chans.filter fun c => c != parityCh t

/-- The 16,384 bytes of data page `i` of a stripe. -/
def pageBytes (t : Stripe) (i : Nat) (p : FPage) : List Byte :=
  let h := leBytes 4 p.head ++ leBytes 1 p.kind ++ leBytes 1 i ++ leBytes 2 0 ++ leBytes 8 t.seq ++ leBytes 8 p.epoch ++
    leBytes 4 t.zone ++ leBytes 4 p.owner ++ leBytes 4 p.index ++ leBytes 20 0 ++ leBytes 4 p.body.length
  let b := padTo 16320 p.body
  h ++ leBytes 4 (crc32c (h ++ leBytes 4 0 ++ b)) ++ b

/-- The CRC of a page as its header holds it. -/
def pageCrc (t : Stripe) (i : Nat) (p : FPage) : List Byte := slice (pageBytes t i p) 60 4

/-- The XOR of two pages, and the parity page of a stripe. -/
def xorBytes : List Byte → List Byte → List Byte
  | [], l => l
  | l, [] => l
  | a :: x, b :: y => (a ^^^ b) :: xorBytes x y
def parityBytes (t : Stripe) : List Byte :=
  ((List.range t.pages.length).zip t.pages).foldl (fun l e => xorBytes l (pageBytes t e.1 e.2)) (List.replicate 16384 0)

/-- A stripe of pages written in a zone of a kind: its sequence (R406, R437). -/
def writeStripe (s : State) (native : Bool) (pages : List FPage) : Option (Nat × State) :=
  (openZone s native).map fun e =>
    let s1 := e.2
    let q := s1.mst.flash.nextSeq
    let row := match zoneOf s1 e.1 with
      | some z => z.written
      | none => 0
    let t : Stripe := ⟨q, e.1, row, usableCh s1, pages, []⟩
    let s2 := setFlash s1 fun f => { f with
      stripes := f.stripes ++ [t], nextSeq := q + 1
      zones := match tabGet none f.zones e.1 with
        | some z => tabSet none f.zones e.1 (some { z with written := z.written + 1 })
        | none => f.zones }
    (q, (usableCh s1).foldl (fun s c => bumpWrap s (R.flcProgs c)) s2)

/-- A fresh page number. -/
def newPid (s : State) : Nat × State :=
  (s.mst.flash.nextPid, setFlash s fun f => { f with nextPid := f.nextPid + 1 })

/-- The stripe of a sequence. -/
def stripeOf (s : State) (q : Nat) : Option Stripe := s.mst.flash.stripes.find? fun t => t.seq == q

/-- The die of a stripe's block on a channel. -/
def dieOf (s : State) (t : Stripe) (c : Nat) : Nat :=
  ((zoneOf s t.zone).bind fun z => z.blocks.find? fun e => e.1 == c).elim 0 fun e => e.2 / max 1 s.mst.flash.nand.blocks % 16

/-- The dies that programmed a stripe have reported ready (R436). -/
def answered (s : State) (q : Nat) : State :=
  match stripeOf s q with
  | some t => setFlash s fun f => { f with late := f.late.filter fun e => !(t.chans.contains e.1 && dieOf s t e.1 == e.2) }
  | none => s

/-- Where a page lies in a stripe. -/
def pageIn (pid : Nat) (t : Stripe) : Option (Stripe × Nat × FPage) :=
  ((dataChs t).zip t.pages).findSome? fun e => if e.2.pid = pid then some (t, e.1, e.2) else none

/-- The stripe, channel and page of a page number. -/
def findPage (s : State) (pid : Nat) : Option (Stripe × Nat × FPage) := s.mst.flash.stripes.findSome? (pageIn pid)

/-- The channels of a stripe whose page cannot be read. -/
def deadChs (s : State) (t : Stripe) : List Nat := t.chans.filter fun c => lostCh s c || t.unread.contains c

/-- Whether a page can be neither read nor rebuilt: two pages of its stripe cannot be read, its own among them (R406), or the
groomer left it behind for that reason. Pages of the open journal stripe have not been written yet. -/
def pageLost (s : State) (pid : Nat) : Bool :=
  match findPage s pid with
  | some (t, c, _) => (deadChs s t).contains c && decide (2 ≤ (deadChs s t).length)
  | none => !(s.mst.pages.any fun p => p.pid == pid)

/-- The body of a page. -/
def pageBody (s : State) (pid : Nat) : List Byte :=
  match findPage s pid with
  | some (_, _, p) => p.body
  | none => []

/-! ### What is still needed (R415, R434) -/

/-- Pages that a record of the open epoch names. -/
def recPages : JRec → List Nat
  | .put o => [o.page]
  | .tomb _ _ p => [p]
  | .side _ => []
  | .index _ => []
  | .version _ v => v.pages
  | .moved l => l.map fun e => e.2.2
  | .removed _ => []

/-- Pages that an epoch needs. -/
def objPage (e : Nat × Option MapObj) : List Nat :=
  match e.2 with
  | some o => [o.page]
  | none => []
def viewPages (v : View) : List Nat := (v.objs.map objPage).flatten ++ (v.lists.map fun e => e.2.pages).flatten

/-- Every page still needed beside the journal. -/
def livePids (s : State) : List Nat :=
  (s.mst.views.map viewPages).flatten ++ (s.mst.records.map recPages).flatten ++ s.mst.flash.dirs

/-- The first journal stripe since the checkpoint. -/
def journalStart (s : State) : Nat :=
  s.mst.flash.roots.foldl (fun m r => max m r.start) 0

/-- Whether a zone is native. -/
def zoneNative (s : State) (z : Nat) : Bool :=
  match zoneOf s z with
  | some x => x.native
  | none => false

/-- Whether a stripe still holds something needed. -/
def stripeLive (s : State) (live : List Nat) (t : Stripe) : Bool :=
  (t.pages.any fun p => p.pid != 0 && live.contains p.pid) || (!zoneNative s t.zone && decide (journalStart s ≤ t.seq))

/-- The blocks of a zone erased and returned to the free pool. -/
def eraseZone (s : State) (z : Nat) : State :=
  match zoneOf s z with
  | none => s
  | some x =>
    let s1 := setFlash s fun f => { f with
      zones := tabSet none f.zones z none
      slcZone := if f.slcZone = some z then none else f.slcZone
      natZone := if f.natZone = some z then none else f.natZone
      erase := x.blocks.foldl (fun t b => tabSet 0 t (blockKey b.1 b.2) (tabGet 0 t (blockKey b.1 b.2) + 1)) f.erase }
    x.blocks.foldl (fun s b => bumpWrap s (R.flcErases b.1)) s1

/-- Dead stripes dropped and zones without a live stripe erased, but for those being filled. -/
def reclaimZones (s : State) : State :=
  let live := livePids s
  let s1 := setFlash s fun f => { f with stripes := f.stripes.filter (stripeLive s live) }
  (s1.mst.flash.zones.map Prod.fst).foldl (fun s z =>
    if s.mst.flash.slcZone = some z ∨ s.mst.flash.natZone = some z ∨ (s.mst.flash.stripes.any fun t => t.zone == z) = true then s
    else eraseZone s z) s1

/-! ### Registers (R440, R441) -/

/-- Good blocks of a channel. -/
def goodBlocks (s : State) (c : Nat) : Nat := ((blocksOfCh s).filter (goodBlock s c)).length

/-- MiB of a number of data pages. -/
def pagesMib (n : Nat) : Nat := n / 64

/-- Stripes that still have a page on a lost channel (R437). -/
def toReprotect (s : State) : List Stripe := s.mst.flash.stripes.filter fun t => t.chans.any (lostCh s)

/-- Bad blocks of a channel of a kind. -/
def badCount (s : State) (c k : Nat) : Nat :=
  (s.mst.flash.bad.filter fun e => e.1 / 2 ^ 24 == c && e.2 == k).length

/-- MST_CAP, MST_FREE, MST_ZONES_FREE, MST_ERASE_SPREAD, MST_REPROT_LEFT and FLC_BAD_BLOCKS. -/
def syncFlash (s : State) : State :=
  let n := perStripe s
  let counts := ((usableCh s).map fun c => ((blocksOfCh s).filter (goodBlock s c)).map (eraseCount s c)).flatten
  let room := match s.mst.flash.natZone.bind (zoneOf s) with
    | some z => blockPages s true - z.written
    | none => 0
  let s1 := wr s R.mstCap (BitVec.ofNat 32 (pagesMib (leastOf ((usableCh s).map (goodBlocks s)) * blockPages s true * n)))
  let s2 := wr s1 R.mstFree (BitVec.ofNat 32 (pagesMib ((zonesFree s * blockPages s true + room) * n)))
  let s3 := wr s2 R.mstZonesFree (BitVec.ofNat 32 (zonesFree s))
  let s4 := wr s3 R.mstEraseSpread (BitVec.ofNat 32 (min 0xFFFF (counts.foldl max 0) * 65536 + min 0xFFFF (leastOf counts)))
  let s5 := wr s4 R.mstReprotLeft (BitVec.ofNat 32 (toReprotect s).length)
  (List.range 8).foldl (fun s c =>
    wr s (R.flcBadBlocks c) (BitVec.ofNat 32 (min 0xFFFF (badCount s c 2) * 65536 + min 0xFFFF (badCount s c 1)))) s5

/-- An FLC_EVENT bit. -/
def flcEvent (s : State) (c b : Nat) : State := setBits s (R.flcEvent c) (bitW b)

/-- An MST_EVENT bit, and bits of MST_STATUS. -/
def mstEvent (s : State) (b : Nat) : State := setBits s R.mstEvent (bitW b)
def mstStatus (s : State) (b : Nat) : Bool := rb s R.mstStatus b

end Sys2Proof.Machine
end

