-- ==== Sys2Proof/Machine/MapStore.lean ====
section
/-! DEFINITION. The map store's write lane: journal, PUT, DELETE, COMMIT, PIN, UNPIN, and the programming of their stripes
(R410 to R421, R424 to R426, R435). -/

namespace Sys2Proof.Machine

/-! ### Epochs (R412, R415) -/

/-- The open epoch. -/
def openEpoch (s : State) : Nat := s.mst.committed + 1

/-- An epoch that shows nothing. -/
def emptyView (e : Nat) : View := ⟨e, [], [], []⟩

/-- The view of an epoch, and of the last committed one. -/
def viewOf (s : State) (e : Nat) : Option View := s.mst.views.find? fun v => v.epoch == e
def lastView (s : State) : View := (viewOf s s.mst.committed).getD (emptyView 0)

/-- Whether an epoch is retained, and whether work in flight holds it. -/
def retained (s : State) (e : Nat) : Bool := e != 0 && (e == s.mst.committed || s.mst.pins.contains e)
def heldBy (s : State) (e : Nat) : Bool :=
  (match s.prs.run with
   | some r => rec8 r.job.block 0 1 == 1 && r.epoch == e
   | none => false) ||
  (match s.lse.solve with
   | some v => v.epoch == e
   | none => false)

/-- Views that nothing needs are dropped. -/
def dropViews (s : State) : State :=
  setMst s fun m => { m with views := m.views.filter fun v => retained s v.epoch || heldBy s v.epoch }

/-! ### Records (R411) -/

/-- The bytes of a record: header, body, padding. -/
def recordBytes (kind type id epoch : Nat) (body : List Byte) : List Byte :=
  let h := leBytes 1 kind ++ leBytes 1 type ++ leBytes 2 body.length ++ leBytes 4 id ++ leBytes 4 epoch
  h ++ leBytes 4 (crc32c (h ++ body)) ++ body ++ List.replicate ((16 - body.length % 16) % 16) 0

/-- The stripe of the open journal pages is issued; none where no zone is left. -/
def issueJournal (s : State) : Option State :=
  if s.mst.pages = [] then some s
  else
    (writeStripe s false s.mst.pages).map fun e =>
      let t := (stripeOf e.2 e.1).getD ⟨0, 0, 0, [], [], []⟩
      let crcs := (((List.range t.pages.length).zip t.pages).map fun p => pageCrc t p.1 p.2).flatten
      bump (setMst e.2 fun m => { m with
        pages := [], firstSeq := if m.nstripes = 0 then e.1 else m.firstSeq, nstripes := m.nstripes + 1, crcs := m.crcs ++ crcs
        programming := m.programming ++ [⟨e.1, .journal⟩] }) R.mstJrnlUsed

/-- The last journal page with a record added. -/
def addToLast : List FPage → List Byte → List FPage
  | [], _ => []
  | [p], b => [{ p with head := p.head + 1, body := p.body ++ b }]
  | p :: t, b => p :: addToLast t b

/-- A new journal page that begins with a record. -/
def newJournalPage (s : State) (b : List Byte) : Nat × State :=
  let (pid, s1) := newPid s
  (pid, setMst s1 fun m => { m with pages := m.pages ++ [⟨pid, 3, 0, m.pages.length, openEpoch s, 1, b⟩] })

/-- A record appended to the journal: the page that holds it; none where the flash has no zone left. -/
def appendRecord (s : State) (b : List Byte) : Option (Nat × State) :=
  match s.mst.pages.getLast? with
  | some p =>
    if p.body.length + b.length ≤ 16320 then some (p.pid, setMst s fun m => { m with pages := addToLast m.pages b })
    else if s.mst.pages.length < perStripe s then some (newJournalPage s b)
    else (issueJournal s).map fun s1 => newJournalPage s1 b
  | none => some (newJournalPage s b)

/-- A list cut into pieces of at most `n`; `fuel` bounds their number. -/
def pieces {α : Type} (n : Nat) : Nat → List α → List (List α)
  | 0, _ => []
  | k + 1, l => if l.length ≤ n then [l] else l.take n :: pieces n k (l.drop n)

/-- A record too long for a page goes into records of its kind that carry its parts in order. -/
def appendParts (s : State) (kind id : Nat) (body : List Byte) : Option State :=
  ((List.range (body.length / 16304 + 1)).zip (pieces 16304 (body.length / 16304 + 1) body)).foldl
    (fun o e => o.bind fun s => (appendRecord s (recordBytes kind 0 (if kind = 4 then e.1 else id) (openEpoch s) e.2)).map Prod.snd)
    (some s)

/-- A record joins the open epoch. -/
def addRecord (s : State) (r : JRec) : State := setMst s fun m => { m with records := m.records ++ [r] }

/-! ### What a commit publishes -/

/-- The key of an object. -/
def objKey (type id : Nat) : Nat := 2 ^ 32 * type + id

/-- An object of a view. -/
def objOf (v : View) (type id : Nat) : Option MapObj := tabGet none v.objs (objKey type id)

/-- An object that has lain unchanged since it was moved takes its new page. -/
def moveObj (t : Tab (Option MapObj)) (e : Nat × Nat × Nat) : Tab (Option MapObj) :=
  match tabGet none t e.1 with
  | some o => if o.epoch = e.2.1 then tabSet none t e.1 (some { o with page := e.2.2 }) else t
  | none => t

/-- One record applied to a view; removals come after all the rest, in `purge`. -/
def applyRecord (v : View) : JRec → View
  | .put o => { v with objs := tabSet none v.objs (objKey o.type o.id) (some o) }
  | .tomb ty id _ =>
    match objOf v ty id with
    | some o => { v with objs := tabSet none v.objs (objKey ty id) (some { o with tomb := true, epoch := v.epoch }) }
    | none => v
  | .side _ => v
  | .index im => { v with index := im }
  | .version n x => { v with lists := tabSet ⟨[], none⟩ v.lists n x }
  | .moved l => { v with objs := l.foldl moveObj v.objs }
  | .removed _ => v

/-- Slots of an EDGE that name a variable: the kind wanted (9: any, 11: POSE or none, 14 and 24: INTRIN) and the ID. -/
def edgeSlots (body : List Byte) : List (Nat × Nat) :=
  let fr := slice body 16 32
  ((List.range 4).map fun i => ((slotKinds (rec8 fr 0 1)).getD i 0, facSlot fr i)).filter fun e =>
    e.1 != 0 && !(e.1 == 11 && e.2 == 0xFFFFFFFF)

/-- The objects of a view. -/
def objsOf (v : View) : List MapObj := v.objs.filterMap Prod.snd

/-- The live edges of an epoch, in ascending ID. -/
def liveEdges (v : View) : List MapObj := (objsOf v).filter fun o => o.type == 4 && !o.tomb

/-- The ID of a KEYFRAME's VELBIAS, where it has one. -/
def velId (o : MapObj) : Option Nat := if (slice o.body 64 64).all (fun x => x == 0) then none else some (rec8 o.body 64 4)

/-- The KEYFRAME whose POSE or VELBIAS has an ID. -/
def frameOf (v : View) (id : Nat) : Option MapObj :=
  match objOf v 1 id with
  | some o => some o
  | none => (objsOf v).find? fun o => o.type == 1 && velId o == some id

/-- Whether a live EDGE names a tombstoned KEYFRAME. DEDUCED, log entry 20: by its POSE or by its VELBIAS. -/
def tombFrame (v : View) (id : Nat) : Bool := (frameOf v id).any MapObj.tomb
def danglingEdge (v : View) (o : MapObj) : Bool :=
  o.type == 4 && !o.tomb && (edgeSlots o.body).any fun e => tombFrame v e.2

/-- Whether an edge names a KEYFRAME of a list. -/
def namesAny (v : View) (frames : List Nat) (o : MapObj) : Bool :=
  (edgeSlots o.body).any fun e => (frameOf v e.2).any fun f => frames.contains f.id

/-- KEYFRAMEs that stay with those in `held`: an edge that names one that stays stays itself, and keeps the others it names. -/
def holdFrames (v : View) (edges : List MapObj) : Nat → List Nat → List Nat
  | 0, held => held
  | n + 1, held =>
    let more := ((edges.filter (namesAny v held)).map fun o =>
      (edgeSlots o.body).filterMap fun e => (frameOf v e.2).map MapObj.id).flatten
    holdFrames v edges n (held ++ more).dedup

/-- What a removal takes out of a view, of the objects named for it: tombstoned objects and edges on tombstoned KEYFRAMEs, but
no KEYFRAME that an edge left behind still names (R432). -/
def removalSet (v : View) (cands : List MapObj) : List MapObj :=
  let gone := cands.filter MapObj.tomb
  let frames := (gone.filter fun o => o.type == 1).map MapObj.id
  let edges := (liveEdges v).filter (namesAny v frames)
  let left := edges.filter fun o => !cands.contains o
  let held := holdFrames v edges edges.length (frames.filter fun f => left.any (namesAny v [f]))
  (gone.filter fun o => !(o.type == 1 && held.contains o.id)) ++
    edges.filter fun o => cands.contains o && !namesAny v held o

/-- The removals of the open epoch's VERSION records, of objects that the epoch has not put or tombstoned anew (R34, R432). -/
def purge (v : View) (rs : List JRec) : View :=
  let keys := (rs.map fun r => match r with
    | .removed l => l
    | _ => []).flatten
  let cands := keys.dedup.filterMap fun k => (tabGet none v.objs k).filter fun o => o.epoch != v.epoch
  { v with objs := (removalSet v cands).foldl (fun t o => tabSet none t (objKey o.type o.id) none) v.objs }

/-- The view that committing the open epoch makes. -/
def nextView (s : State) : View :=
  purge (s.mst.records.foldl applyRecord { lastView s with epoch := openEpoch s }) s.mst.records

/-- The index in force in the open epoch (empty: none). -/
def openIndex (s : State) : List Byte := (nextView s).index

/-! ### Jobs of the lanes (R418, R419) -/

/-- Whether an opcode is of the read lane. -/
def readOp (o : Nat) : Bool := o == 4 || o == 5

/-- Opcode of a job block. -/
def jobOp (j : Job) : Nat := rec8 j.block 0 1

/-- MST_STATUS.BUSY. -/
def syncMst (s : State) : State :=
  wf s R.mstStatus 1 1 (!(startedAt s 0x15).isEmpty || s.mst.write.isSome).toNat

/-- A job of the map store ends. -/
def mstReport (s : State) (j : Job) (st : Nat) (res : List Byte) : State := syncMst (finish s j.owner st res)

/-- MST_ERR.JOB and ERR_DESCRIPTOR. -/
def mstRefuse (s : State) (j : Job) (byte : Nat) : State :=
  mstReport (errInfo s R.mstErr 0 R.mstErrInfo (BitVec.ofNat 32 (byte % 65536 * 65536 + jobOp j))) j 0x23 []

/-- The next job of a lane. -/
def laneJob (s : State) (read : Bool) : Option Job := (startedAt s 0x15).find? fun j => readOp (jobOp j) == read

/-- A job leaves its lane. -/
def takeJob (s : State) (j : Job) : State := setStarted s 0x15 ((startedAt s 0x15).erase j)

/-- The next write-lane job, when it has opcode `op`, does its work; while the store is not mounted, stopped or read-only it
ends with the status the spec names (R419, R425, R438, R551), and an opcode the store does not know is refused. -/
def writeLane (op : Nat) (f : State → Job → State) (s : State) : Out :=
  fabric s fun s =>
    match laneJob s false, s.mst.write with
    | some j, none =>
      let o := jobOp j
      let s1 := takeJob s j
      if o ≠ op ∧ 1 ≤ o ∧ o ≤ 7 then s
      else if !mstStatus s 0 then mstReport s1 j 0x26 []
      else if mstStatus s 3 then mstReport s1 j 0x28 []
      else if mstStatus s 8 then mstReport s1 j 0x26 []
      else if o = op then f s1 j
      else mstRefuse s1 j 0
    | _, _ => s

/-- Whether `n` bytes from an address may be read or written by a job. -/
def jobRange (s : State) (a n : Nat) : Bool := n == 0 || engineRange s a n

/-! ### PUT and DELETE (R420, R421) -/

/-- `n` PUT entries that fill an array exactly. -/
def splitPuts : Nat → List Byte → Option (List (List Byte))
  | 0, l => if l = [] then some [] else none
  | n + 1, l =>
    let z := 16 + (rec8 l 2 2 + 15) / 16 * 16
    if l.length < 16 ∨ l.length < z then none else (splitPuts n (l.drop z)).map fun t => l.take z :: t

/-- Whether a body suits its type, with the variable records in it (R410, R420). -/
def bodyOk (type id : Nat) (b : List Byte) : Bool :=
  let var := fun (o : Nat) (kinds : List Nat) => rec8 b o 4 == id && kinds.contains (rec8 b (o + 4) 1)
  match type with
  | 1 => b.length == 144 && var 0 [1] &&
      ((slice b 64 64).all (fun x => x == 0) ||
        (rec8 b 68 1 == 3 && rec8 b 64 4 != 0xFFFFFFFF && rec8 b 64 4 != id))
  | 2 => b.length == 64 && var 0 [2]
  | 3 => b.length == 64 && var 0 [4, 5]
  | 4 => decide (1 ≤ rec8 b 16 1 ∧ rec8 b 16 1 ≤ 9) && b.length == 48 + measBytes (rec8 b 16 1)
  | 5 => decide (1 ≤ b.length) && decide (b.length ≤ 4032)
  | _ => false

/-- Whether a PUT entry is taken. -/
def putOk (e : List Byte) : Bool :=
  rec8 e 0 1 == 1 && zeros e 8 8 && rec8 e 4 4 != 0xFFFFFFFF && bodyOk (rec8 e 1 1) (rec8 e 4 4) (slice e 16 (rec8 e 2 2))

/-- Whether a DELETE entry is taken. -/
def deleteOk (e : List Byte) : Bool :=
  decide (1 ≤ rec8 e 0 1 ∧ rec8 e 0 1 ≤ 5) && zeros e 1 3 && rec8 e 4 4 != 0xFFFFFFFF

/-- Whether the journal takes no more PUT and DELETE entries. -/
def journalFull (s : State) : Bool := decide (rf s R.mstJrnlMax 15 0 < (rd s R.mstJrnlUsed).toNat + 64)

/-- One entry of a PUT or DELETE: its output word. -/
def writeEntry (put : Bool) (s : State) (e : List Byte) : Nat × State :=
  let ok := if put then putOk e else deleteOk e
  if !ok then (2, s)
  else if journalFull s then (4, mstEvent s 2)
  else
    let ty := if put then rec8 e 1 1 else rec8 e 0 1
    let id := rec8 e 4 4
    let body := if put then slice e 16 (rec8 e 2 2) else []
    match appendRecord s (recordBytes (if put then 1 else 2) ty id (openEpoch s) body) with
    | some (pid, s1) =>
      (1, addRecord s1 (if put then .put ⟨ty, id, body, false, openEpoch s, pid⟩ else .tomb ty id pid))
    | none => (4, mstEvent s 2)

/-- The entries in order, with their output words. -/
def writeEntries (put : Bool) : List (List Byte) → State → List Nat → State × List Nat
  | [], s, w => (s, w)
  | e :: t, s, w => let (x, s1) := writeEntry put s e; writeEntries put t s1 (w ++ [x])

/-- The rest of a PUT or DELETE; one that was asked to abort stops after an entry that the spec leaves open (R424). -/
def runEntries (put : Bool) (s : State) (j : Job) (es : List (List Byte)) : State :=
  let b := j.block
  let (k, s0) := drawNat s
  let ab := abortAsked s j.owner
  let (s1, ws) := writeEntries put (if ab then es.take (k % es.length + 1) else es) s0 []
  let n := (ws.filter fun w => w == 1).length
  let s2 := jobStore j s1 (rec8 b 24 8) (ws.map (leBytes 4)).flatten
  mstReport s2 j (if ab then 0x28 else if n < es.length then 1 else 0) (leBytes 4 n ++ leBytes 4 (openEpoch s))

/-- PUT. -/
def execPut (s : State) : Out :=
  writeLane 1 (fun s j =>
    let b := j.block
    let n := rec8 b 4 4
    let z := rec8 b 8 4
    match firstBad [(1, zeros b 1 3), (4, decide (1 ≤ n ∧ n ≤ 65536)), (12, zeros b 12 4), (16, jobRange s (rec8 b 16 8) z),
        (24, jobRange s (rec8 b 24 8) (4 * n)), (32, zeros b 32 32)] with
    | some k => mstRefuse s j k
    | none =>
      jobIo s [(rec8 b 16 8, max 1 z)] [] (fun s => mstReport s j 0x26 []) fun s =>
      match splitPuts n (ldBytes s (rec8 b 16 8) z) with
        | some es => runEntries true s j es
        | none => mstRefuse s j 8) s

/-- MST_DELETE. -/
def execMstDelete (s : State) : Out :=
  writeLane 2 (fun s j =>
    let b := j.block
    let n := rec8 b 4 4
    match firstBad [(1, zeros b 1 3), (4, decide (1 ≤ n ∧ n ≤ 65536)), (8, zeros b 8 8), (16, jobRange s (rec8 b 16 8) (8 * n)),
        (24, jobRange s (rec8 b 24 8) (4 * n)), (32, zeros b 32 32)] with
    | some k => mstRefuse s j k
    | none =>
      jobIo s [(rec8 b 16 8, 8 * n)] [] (fun s => mstReport s j 0x26 []) fun s =>
      runEntries false s j (loadRecs s (rec8 b 16 8) 8 n)) s

/-! ### COMMIT (R412 to R414, R435) -/

/-- Journal records that carry a record of the open epoch: a long body takes several. -/
def recordParts : JRec → Nat
  | .index im => (im.length + 16303) / 16304
  | .version _ v => (8 + 4 * v.pages.length + 16303) / 16304
  | .moved l => (16 * l.length + 16303) / 16304
  | .removed l => (8 * l.length + 16303) / 16304
  | _ => 1
def recordCount (s : State) : Nat := (s.mst.records.map recordParts).sum

/-- The commit record. -/
def commitRecord (s : State) (dt mirrored : Nat) : List Byte :=
  let first := if s.mst.nstripes = 0 then s.mst.flash.nextSeq else s.mst.firstSeq
  let body := leBytes 8 (openEpoch s) ++ leBytes 8 dt ++ leBytes 8 first ++ leBytes 4 s.mst.nstripes ++
    leBytes 4 (recordCount s) ++ leBytes 4 (crc32c s.mst.crcs) ++ leBytes 4 0 ++ (s.mst.pins.map (leBytes 8)).flatten ++
    leBytes 4 s.mst.side.length ++ leBytes 4 mirrored ++ leBytes 52 0
  body ++ leBytes 4 (crc32c body)

/-- Pages of a body. -/
def bodyPages (kind owner epoch : Nat) (body : List Byte) (pid : Nat) : List FPage :=
  let l := pieces 16320 (body.length / 16320 + 1) body
  ((List.range l.length).zip l).map fun e => ⟨pid, kind, owner, e.1, epoch, 0, e.2⟩

/-- The commit stripe is issued with the mirrored records in `mst.mirroring`; the DT it holds is that of a moment to come. -/
def writeCommit (s : State) : Option State :=
  let (dt, s1) := drawNat s
  let body := commitRecord s1 dt s1.mst.mirroring.length ++ s1.mst.mirroring.flatten
  (writeStripe s1 false (bodyPages 3 0 (openEpoch s) body 0)).map fun e =>
    bump (setMst e.2 fun m => { m with
      programming := m.programming ++ [⟨e.1, .commit⟩], write := m.write.map fun w => { w with issued := true } }) R.mstJrnlUsed

/-- The write job in flight ends. -/
def writeEnds (s : State) (st : Nat) (res : List Byte) : State :=
  match s.mst.write with
  | some w => mstReport (setMst s fun m => { m with write := none }) w.job st res
  | none => s

/-- The commit stripe of the COMMIT in flight, with the latest 1,024 black-box records since the last commit. -/
def issueCommit (s : State) : State :=
  let l := s.mst.bbxSince
  let drop := l.length - 1024
  let s1 := bumpN (setMst s fun m => { m with mirroring := l.drop drop, bbxSince := [] }) R.mstBbxDrop drop
  (writeCommit s1).getD (writeEnds s1 0x26 [])

/-- Whether journal stripes are still being programmed. -/
def journalBusy (s : State) : Bool := s.mst.programming.any fun p => p.kind == .journal

/-- COMMIT: the journal stripe closes; the commit stripe follows once every journal stripe has programmed. -/
def execCommit (s : State) : Out :=
  writeLane 3 (fun s j =>
    match firstBad [(1, zeros j.block 1 31), (32, zeros j.block 32 32)] with
    | some k => mstRefuse s j k
    | none =>
      match issueJournal s with
      | none => mstReport s j 0x26 []
      | some s1 =>
        let s2 := syncMst (setMst s1 fun m => { m with write := some ⟨j, openEpoch s, false⟩ })
        if journalBusy s2 then s2 else issueCommit s2) s

/-- PRS_STATUS, PRS_INDEX and PRS_SIDE_USED (R402). -/
def syncPrs (s : State) : State :=
  let ix := (lastView s).index
  let used := s.mst.side.length
  let busy := !(startedAt s 0x14).isEmpty || s.prs.run.isSome
  let deg := (List.range 8).any (lostCh s)
  let st := deg.toNat * 256 + (decide (16777216 ≤ used)).toNat * 16 + busy.toNat * 2 + (!ix.isEmpty).toNat
  let w := if ix.isEmpty then 0 else (rec8 ix 0 4 - 1) % 65536 * 65536 + rec8 ix 5 1 % 16 * 256 + rec8 ix 4 1 % 16
  wr (wr (wr s R.prsStatus (BitVec.ofNat 32 st)) R.prsIndex (BitVec.ofNat 32 w)) R.prsSideUsed (BitVec.ofNat 32 used)

/-- GLB_EPOCH and MST_DANGLING show the committed epoch. -/
def syncEpoch (s : State) : State :=
  let e : DWord := BitVec.ofNat 64 s.mst.committed
  let d := ((objsOf (lastView s)).filter (danglingEdge (lastView s))).length
  wr (wr (wr s R.glbEpochLo (lo32 e)) R.glbEpochHi (hi32 e)) R.mstDangling (BitVec.ofNat 32 d)

/-- The records of a commit stripe become readable by GET (R423, R435). -/
def mirrorAll (s : State) : State :=
  setMst s fun m => { m with mirror := m.mirroring.foldl (fun t r => tabSet [] t (rec8 r 0 4) r) m.mirror, mirroring := [] }

/-- A query accepted in the very cycle of the commit and without an epoch of its own searches the epoch just committed (R389). -/
def acceptedNow (s : State) : State :=
  let f : PrsRun → PrsRun := fun r =>
    if rec8 r.job.block 0 1 = 1 ∧ rec8 r.job.block 8 8 = 0 ∧ r.accept = s.dt.now ∧ r.coarseDone = false
    then { r with epoch := s.mst.committed } else r
  { s with prs := { s.prs with run := s.prs.run.map f } }

/-- The open epoch becomes the committed one. -/
def publish (s : State) : State :=
  let v := nextView s
  let s1 := setMst s fun m => { m with
    views := m.views ++ [v], committed := v.epoch, records := [], nstripes := 0, firstSeq := 0, crcs := []
    past := m.past ++ [⟨v, m.side.filter fun e => e.stamp == v.epoch⟩] }
  syncPrs (syncEpoch (mirrorAll (dropViews (acceptedNow s1))))

/-- The commit stripe at the head of those being programmed is durable; none where there is no such stripe. Table swaps of
the vision engines follow the durable commit (R204). -/
def commitDone (s : State) : State :=
  match s.mst.programming with
  | ⟨q, .commit⟩ :: rest =>
    let res := leBytes 8 (openEpoch s) ++ leBytes 4 s.mst.nstripes ++ leBytes 4 (recordCount s)
    let s1 := publish (answered (setMst s fun m => { m with programming := rest }) q)
    let s2 := bumpWrap (mstEvent s1 0) R.mstCommits
    writeEnds { s2 with vis := { s2.vis with swapDue := some (BitVec.ofNat 64 s2.mst.committed) } } 0 res
  | _ => s

/-- COMMIT_DURABLE: every page of the commit stripe has programmed (R27, R412). -/
def execCommitDurable (s : State) : Out := fabric s commitDone

/-! ### PIN and UNPIN (R416) -/

/-- Pins held. -/
def pinCount (s : State) : Nat := (s.mst.pins.filter fun e => e != 0).length

/-- MST_PINS and MST_PINi. -/
def syncPins (s : State) : State :=
  let s1 := wr s R.mstPins (BitVec.ofNat 32 (pinCount s))
  (List.range 3).foldl (fun s i =>
    let e : DWord := BitVec.ofNat 64 (s.mst.pins.getD i 0)
    wr (wr s (R.mstPinLo i) (lo32 e)) (R.mstPinHi i) (hi32 e)) s1

/-- The result words of a PIN or UNPIN. -/
def pinResult (s : State) (e : Nat) : List Byte := leBytes 8 e ++ leBytes 4 (pinCount s)

/-- The record of a PIN or UNPIN written into a stripe of its own. -/
def writePin (s : State) (kind e : Nat) : Option State :=
  (writeStripe s false (bodyPages 3 0 (openEpoch s) (recordBytes kind 0 0 (openEpoch s) (leBytes 8 e)) 0)).map fun x =>
    bump (setMst x.2 fun m => { m with
      programming := m.programming ++ [⟨x.1, .pin⟩], write := m.write.map fun w => { w with issued := true } }) R.mstJrnlUsed

/-- A PIN or UNPIN starts its stripe. -/
def startPin (s : State) (j : Job) (kind e : Nat) : State :=
  let s1 := syncMst (setMst s fun m => { m with write := some ⟨j, e, false⟩ })
  (writePin s1 kind e).getD (writeEnds s1 0x26 [])

/-- The epoch a PIN or UNPIN names, and the checks both share. -/
def pinEpoch (s : State) (j : Job) : Nat := if rec8 j.block 8 8 = 0 then s.mst.committed else rec8 j.block 8 8
def pinBad (j : Job) : Option Nat := firstBad [(1, zeros j.block 1 7), (16, zeros j.block 16 48)]

/-- PIN. -/
def execPin (s : State) : Out :=
  writeLane 6 (fun s j =>
    let e := pinEpoch s j
    match pinBad j with
    | some k => mstRefuse s j k
    | none =>
      if !retained s e then mstReport s j 0x24 []
      else if s.mst.pins.contains e then mstReport (mstEvent s 1) j 0 (pinResult s e)
      else if 3 ≤ pinCount s then
        mstReport (errInfo s R.mstErr 2 R.mstErrInfo (BitVec.ofNat 32 (8 * 65536 + 6))) j 0x23 []
      else startPin s j 6 e) s

/-- UNPIN. -/
def execUnpin (s : State) : Out :=
  writeLane 7 (fun s j =>
    let e := pinEpoch s j
    match pinBad j with
    | some k => mstRefuse s j k
    | none => if e ≠ 0 ∧ s.mst.pins.contains e = true then startPin s j 7 e else mstReport s j 0x24 []) s

/-- The lowest free place of the pins takes an epoch. -/
def addPin (e : Nat) : List Nat → List Nat
  | [] => []
  | p :: t => if p = 0 then e :: t else p :: addPin e t

/-- The pins once the stripe `q` of a PIN or UNPIN is durable, with what recovery finds of it. -/
def setPins (s : State) (w : WriteJob) (q : Nat) : State :=
  let pins := if jobOp w.job = 6 then addPin w.epoch s.mst.pins else s.mst.pins.map fun p => if p = w.epoch then 0 else p
  setMst s fun m => { m with pins := pins, pinLog := m.pinLog ++ [⟨openEpoch s, q, pins⟩] }

/-- The stripe of the PIN or UNPIN in flight is durable. -/
def pinDone (s : State) (w : WriteJob) (q : Nat) : State :=
  let s1 := syncPins (dropViews (setPins s w q))
  writeEnds (mstEvent s1 1) 0 (pinResult s1 w.epoch)

/-- STRIPE_PROGRAMMED: the oldest stripe being programmed, unless it is a commit stripe, has programmed with pass status. -/
def execStripeProgrammed (s : State) : Out :=
  fabric s fun s =>
    match s.mst.programming, s.mst.write with
    | ⟨q, .journal⟩ :: rest, some w =>
      let s1 := answered (setMst s fun m => { m with programming := rest }) q
      if jobOp w.job = 3 ∧ w.issued = false ∧ journalBusy s1 = false then issueCommit s1 else s1
    | ⟨q, .journal⟩ :: rest, none => answered (setMst s fun m => { m with programming := rest }) q
    | ⟨q, .pin⟩ :: rest, some w => pinDone (answered (setMst s fun m => { m with programming := rest }) q) w q
    | _, _ => s

/-- MST_PIN_LO_READ. -/
def execMstPinLoRead (i : Fin 3) (s : State) : Out :=
  fabric s fun s => capture s (R.mstPinLo i.val) (BitVec.ofNat 64 (s.mst.pins.getD i.val 0))

end Sys2Proof.Machine
end

