-- ==== Sys2Proof/Machine/MapReads.lean ====
section
/-! DEFINITION. The map store's read lane: READ and GET (R418, R419, R422 to R424). -/

namespace Sys2Proof.Machine

/-- The next read-lane job, when `p` says that the command is about it, does its work; one the two READ or GET commands share
no form of is refused. -/
def readLane (op : Nat) (p : Job → Bool) (f : State → Job → State) (s : State) : Out :=
  fabric s fun s =>
    match laneJob s true with
    | none => s
    | some j =>
      if jobOp j ≠ op ∨ p j = false then s
      else if !mstStatus s 0 then mstReport (takeJob s j) j 0x26 []
      else f (takeJob s j) j

/-- The epoch a READ or GET names. -/
def readEpoch (s : State) (j : Job) : Nat := if rec8 j.block 8 8 = 0 then s.mst.committed else rec8 j.block 8 8

/-- A number of 64 KiB units of a block. -/
def capacity (j : Job) : Nat := 65536 * rec8 j.block 2 2

/-! ### Variables and edges of an epoch (R410, R422) -/

/-- A variable of an image before its index: its record, whether TOMB, the page it comes from. -/
structure ImgVar where
  bytes : List Byte
  tomb : Bool
  page : Nat
deriving DecidableEq, Repr

/-- A variable record as an image holds it: TOMB set when its object is tombstoned. -/
def imgRec (v : ImgVar) : List Byte :=
  if v.tomb then v.bytes.take 5 ++ [BitVec.ofNat 8 (Nat.lor (rec8 v.bytes 5 1) 2)] ++ v.bytes.drop 6 else v.bytes

/-- The POSE and, where it has one, the VELBIAS of a KEYFRAME. -/
def poseVar (o : MapObj) : ImgVar := ⟨o.body.take 64, o.tomb, o.page⟩
def velVar (o : MapObj) : Option ImgVar :=
  if (slice o.body 64 64).all (fun x => x == 0) then none else some ⟨slice o.body 64 64, o.tomb, o.page⟩

/-- Whether an ID of the variable space names an object. -/
def namesObj (v : View) (id : Nat) : Bool :=
  (objOf v 2 id).isSome || (objOf v 3 id).isSome || (frameOf v id).isSome

/-- Factor type of an edge. -/
def edgeType (o : MapObj) : Nat := rec8 o.body 16 1

/-- Whether a slot (kind wanted, ID) asks for a POSE or a VELBIAS; a slot that takes any kind does when it names one. -/
def frameSlot (v : View) (e : Nat × Nat) : Bool :=
  e.1 == 1 || e.1 == 3 || e.1 == 11 || (e.1 == 9 && (frameOf v e.2).isSome)

/-- An edge whose slots all name objects. -/
def edgeWhole (v : View) (o : MapObj) : Bool := (edgeSlots o.body).all fun e => namesObj v e.2

/-- An image to be written: class, variables, edges, orphans. -/
structure Image where
  cls : Nat
  vars : List ImgVar
  edges : List MapObj
  orphans : Nat
deriving DecidableEq, Repr

/-- IDs named in slots of edges for which an object of a type exists, ascending. -/
def namedOf (v : View) (type : Nat) (es : List MapObj) : List MapObj :=
  let ids := (es.map fun o => (edgeSlots o.body).map Prod.snd).flatten
  (objsOf v).filter fun o => o.type == type && ids.contains o.id

/-- A WINDOW image (R422). -/
def windowImage (v : View) (frames : List MapObj) : Image :=
  let listed := fun (id : Nat) => (frameOf v id).any fun o => frames.contains o
  let cand := (liveEdges v).filter fun o => edgeType o != 9 && (edgeSlots o.body).all fun e => !frameSlot v e || listed e.2
  let es := cand.filter (edgeWhole v)
  let whole := fun (o : MapObj) => (⟨o.body.take 64, o.tomb, o.page⟩ : ImgVar)
  ⟨0, (frames.map fun o => poseVar o :: (velVar o).toList).flatten ++ (namedOf v 3 es).map whole ++ (namedOf v 2 es).map whole,
    es, cand.length - es.length⟩

/-- A GRAPH image (R422): an edge on variables other than poses has no place in it. -/
def graphImage (v : View) : Image :=
  let cand := (liveEdges v).filter fun o => edgeType o == 7 || edgeType o == 8
  let es := (cand.filter (edgeWhole v)).filter fun o => (edgeSlots o.body).all fun e => (objOf v 1 e.2).isSome
  let orphans := (cand.filter fun o => !edgeWhole v o).length
  let named := (es.map fun o => (edgeSlots o.body).map Prod.snd).flatten
  ⟨1, ((objsOf v).filter fun o => o.type == 1 && (!o.tomb || named.contains o.id)).map poseVar, es, orphans⟩

/-- The table index of a variable ID. -/
def varIndex (vars : List ImgVar) (id : Nat) : Nat := vars.findIdx fun v => rec8 v.bytes 0 4 == id

/-- A factor record with its slots translated and the offset of its measurement. -/
def imgFactor (vars : List ImgVar) (o : MapObj) (off : Nat) : List Byte :=
  let fr := slice o.body 16 32
  let used := edgeSlots o.body
  fr.take 4 ++ ((List.range 4).map fun i =>
    leBytes 4 (if used.any (fun e => e.2 == facSlot fr i) then varIndex vars (facSlot fr i) else 0xFFFFFFFF)).flatten ++
    leBytes 4 off ++ slice fr 24 8

/-- The measurement area: (edge, offset) in order, and its size. -/
def measLayout : List MapObj → Nat → List (MapObj × Nat) × Nat
  | [], z => ([], z)
  | o :: t, z =>
    let a := measAlign (edgeType o)
    let off := (z + a - 1) / a * a
    let (l, e) := measLayout t (off + measBytes (edgeType o))
    ((o, off) :: l, e)

/-- The bytes of an image at an address. -/
def imageBytes (im : Image) (a : Nat) : List Byte :=
  let v := im.vars.length
  let f := im.edges.length
  let (ms, area) := measLayout im.edges 0
  let ft := a + 64 + 64 * v
  let ma := up64 (ft + 32 * f)
  let head := leBytes 1 im.cls ++ leBytes 3 0 ++ leBytes 4 v ++ leBytes 4 f ++ leBytes 4 area ++ leBytes 8 (a + 64) ++
    leBytes 8 ft ++ leBytes 8 ma ++ leBytes 24 0
  head ++ (im.vars.map imgRec).flatten ++ (ms.map fun e => imgFactor im.vars e.1 e.2).flatten ++
    List.replicate (ma - (ft + 32 * f)) 0 ++
    ms.foldl (fun l e => l ++ List.replicate (e.2 - l.length) 0 ++ e.1.body.drop 48) []

/-- The limits of R315. -/
def imageFits (im : Image) : Bool :=
  let vs := im.vars.map ImgVar.bytes
  decide (vs.length ≤ maxVars im.cls) && decide (im.edges.length ≤ maxFactors im.cls) &&
    vs.all fun v => decide (countKind im.cls (vKind v) vs ≤ kindLimit im.cls (vKind v))

/-- A READ writes its image. -/
def writeImage (s : State) (j : Job) (v : View) (im : Image) : State :=
  let a := rec8 j.block 24 8
  let bytes := imageBytes im a
  let dang := (im.edges.filter (danglingEdge v)).length
  if im.vars.any (fun x => pageLost s x.page) || im.edges.any (fun o => pageLost s o.page) then mstReport s j 0x26 []
  else if !imageFits im then mstRefuse s j 24
  else if capacity j < bytes.length then mstRefuse s j 2
  else mstReport (jobStore j s a bytes) j 0
    (leBytes 4 im.vars.length ++ leBytes 4 im.edges.length ++ leBytes 4 dang ++ leBytes 4 im.orphans)

/-- The checks of a READ block. -/
def readBad (s : State) (j : Job) : Option Nat :=
  let b := j.block
  let n := rec8 b 4 4
  let w := rec8 b 1 1 == 0
  firstBad [(1, decide (rec8 b 1 1 ≤ 1)), (2, decide (1 ≤ rec8 b 2 2)),
    (4, if w then decide (1 ≤ n ∧ n ≤ 64) else n == 0), (16, !w || jobRange s (rec8 b 16 8) (4 * n)),
    (24, jobRange s (rec8 b 24 8) (capacity j)), (32, zeros b 32 32)]

/-- A READ in either mode; one that was asked to abort ends ERR_ABORTED, its output being invalid. -/
def runRead (s : State) (j : Job) (f : View → Option Image) : State :=
  match readBad s j with
  | some k => mstRefuse s j k
  | none =>
    if !retained s (readEpoch s j) then mstReport s j 0x24 []
    else if abortAsked s j.owner then mstReport s j 0x28 []
    else
      let v := (viewOf s (readEpoch s j)).getD (emptyView 0)
      match f v with
      | some im => writeImage s j v im
      | none => mstRefuse s j 16

/-- READ_WINDOW; a mode the store does not know is refused here. -/
def execReadWindow (s : State) : Out :=
  readLane 4 (fun j => rec8 j.block 1 1 != 1) (fun s j =>
    let a := rec8 j.block 16 8
    let n := rec8 j.block 4 4
    jobIo s (if (readBad s j).isNone then [(a, 4 * n)] else []) [] (fun s => mstReport s j 0x26 []) fun s =>
      runRead s j fun v =>
        (sequenceOpt ((List.range n).map fun i => objOf v 1 (ldN s (a + 4 * i) 4))).map (windowImage v)) s

/-- READ_GRAPH. -/
def execReadGraph (s : State) : Out :=
  readLane 4 (fun j => rec8 j.block 1 1 == 1) (fun s j => runRead s j fun v => some (graphImage v)) s

/-! ### GET (R423) -/

/-- The checks of a GET block. -/
def getBad (s : State) (j : Job) : Option Nat :=
  let b := j.block
  let n := rec8 b 4 4
  let t := rec8 b 1 1
  firstBad [(1, decide (1 ≤ t ∧ t ≤ 5) || t == 0x7E), (2, decide (1 ≤ rec8 b 2 2)), (4, decide (1 ≤ n ∧ n ≤ 65536)),
    (16, jobRange s (rec8 b 16 8) (4 * n)), (24, jobRange s (rec8 b 24 8) (capacity j)), (32, zeros b 32 32)]

/-- Records written in order until one would not fit the capacity: their bytes, their number, and how many were missing. -/
def takeRecords (cap : Nat) : List (List Byte × Bool) → List Byte → Nat → Nat → List Byte × Nat × Nat
  | [], l, n, m => (l, n, m)
  | (r, miss) :: t, l, n, m =>
    if cap < l.length + r.length then (l, n, m) else takeRecords cap t (l ++ r) (n + 1) (m + miss.toNat)

/-- The end of a GET. -/
def writeRecords (s : State) (j : Job) (rs : List (List Byte × Bool)) : State :=
  let (l, n, m) := takeRecords (capacity j) rs [] 0 0
  mstReport (jobStore j s (rec8 j.block 24 8) l) j (if n < rs.length then 1 else 0) (leBytes 4 n ++ leBytes 4 m)

/-- A GET past its checks, of a list of records that the IDs of the list name, none where a page needed is lost. -/
def runGet (s : State) (j : Job) (f : State → View → Option (List (List Byte × Bool))) : State :=
  match getBad s j with
  | some k => mstRefuse s j k
  | none =>
    if !retained s (readEpoch s j) then mstReport s j 0x24 []
    else if abortAsked s j.owner then mstReport s j 0x28 []
    else
      jobIo s [(rec8 j.block 16 8, 4 * rec8 j.block 4 4)] [] (fun s => mstReport s j 0x26 []) fun s =>
      let s1 := { s with fresh := s.fresh + 1 }
      match f s ((viewOf s (readEpoch s j)).getD (emptyView 0)) with
      | some rs => writeRecords s1 j rs
      | none => mstReport s1 j 0x26 []

/-- The record of an object: PUT, TOMB with the last body, or, for a missing one, a header of kind 0 whose epoch field the
spec leaves open. -/
def getRecord (s : State) (v : View) (type id : Nat) : List Byte × Bool :=
  match objOf v type id with
  | some o => (recordBytes (if o.tomb then 2 else 1) type id (o.epoch % 2 ^ 32) o.body, false)
  | none => (recordBytes 0 0 id (Config.freeNat s.fresh % 2 ^ 32) [], true)

/-- GET; a type the store does not know is refused here. -/
def execGet (s : State) : Out :=
  readLane 5 (fun j => rec8 j.block 1 1 != 0x7E) (fun s j =>
    let t := rec8 j.block 1 1
    let ids := (List.range (rec8 j.block 4 4)).map fun i => ldN s (rec8 j.block 16 8 + 4 * i) 4
    runGet s j fun s v =>
      if ids.any (fun i => (objOf v t i).any fun o => pageLost s o.page) then none else some (ids.map (getRecord s v t))) s

/-- GET_BBX: mirrored black-box records from the sequence in the first ID on. -/
def execGetBbx (s : State) : Out :=
  readLane 5 (fun j => rec8 j.block 1 1 == 0x7E) (fun s j =>
    let first := ldN s (rec8 j.block 16 8) 4
    runGet s j fun s _ => some ((List.range (rec8 j.block 4 4)).map fun i =>
      let q := (first + i) % 2 ^ 32
      let r := tabGet [] s.mst.mirror q
      (recordBytes 0 0 q (Config.freeNat s.fresh % 2 ^ 32) r, r.isEmpty))) s

end Sys2Proof.Machine
end

