-- ==== Sys2Proof/Machine/Groomer.lean ====
section
/-! DEFINITION. Page reads, failed programs, lost channels, the groomer, mounting, formatting and power loss of the map store
(R405, R408, R409, R425 to R440). -/

namespace Sys2Proof.Machine

/-! ### Pages of the running query (R383, R397) -/

/-- The pages of the running query. -/
def runPages (s : State) : List PrsPage :=
  match s.prs.run with
  | some r => r.pages
  | none => []

/-- A schuss unit's registers: pages queued, busy, off. -/
def syncSu (s : State) : State :=
  let ps := runPages s
  (List.range 8).foldl (fun s c =>
    let n := (ps.filter fun p => p.su == c).length
    wr s (R.prsSuStatus c) (BitVec.ofNat 32 ((decide (0 < n)).toNat * 0x80000000 + (lostCh s c).toNat * 0x40000000 + min n 0xFFFF))) s

/-- The running query replaced. -/
def setRunPrs (s : State) (f : PrsRun → PrsRun) : State := { s with prs := { s.prs with run := s.prs.run.map f } }

/-- A page of the running query that can be neither read nor rebuilt is skipped. -/
def skipPage (s : State) (pid : Nat) : State :=
  setBits (bump (setRunPrs s fun r => { r with
    flags := Nat.lor r.flags 8, pages := r.pages.filter fun p => p.pid != pid }) R.prsPageLostCnt) R.prsEvent 8

/-- The unit that scans a page: the one of its channel, or, where that is lost, the one of the stripe's parity channel. -/
def scanUnit (s : State) (pid : Nat) : Nat :=
  match findPage s pid with
  | some (t, c, _) => if lostCh s c then parityCh t else c
  | none => 0

/-- The page that a unit waits for in a stripe has come, read or rebuilt, or is lost. -/
def pageArrives (s : State) (q ch : Nat) : State :=
  let ps := (runPages s).filter fun p => !p.arrived && p.su == ch && (findPage s p.pid).any fun e => e.1.seq == q
  syncSu (ps.foldl (fun s p =>
    if pageLost s p.pid then skipPage s p.pid
    else setRunPrs s fun r => { r with
      pages := r.pages.map fun x => if x.pid = p.pid then { x with arrived := true } else x }) s)

/-! ### Reading (R405, R406) -/

/-- Data pages still needed that are lost. -/
def lostPages (s : State) : Nat := ((livePids s).dedup.filter (pageLost s)).length

/-- MST_PAGES_LOST counts the pages that a change of the flash lost. -/
def countLost (before : Nat) (s : State) : State := bumpN s R.mstPagesLost (lostPages s - before)

/-- Bits corrected in a codeword. -/
def cwBits : CwRead → Nat
  | .hard b => b
  | .retry b => b
  | .soft b => b
  | .uncorrectable => 0

/-- Whether a codeword queues its page for refresh. -/
def cwRefresh (thr : Nat) : CwRead → Bool
  | .hard b => decide (thr < b)
  | _ => true

/-- One codeword decoded, as the channel's registers count it; `addr` is the page's address. -/
def countCw (c addr : Nat) (s : State) (w : CwRead) : State :=
  let mx := fun (s : State) => wf s (R.flcMaxBits c) 7 0 (max (rf s (R.flcMaxBits c) 7 0) (min 255 (cwBits w)))
  match w with
  | .hard b => if b = 0 then s else mx (flcEvent (bump s (R.flcCorrCw c)) c 0)
  | .retry _ | .soft _ => mx (flcEvent (bump s (R.flcRetryCw c)) c 1)
  | .uncorrectable =>
    let s1 := if rb s (R.flcEvent c) 2 then s else wr s (R.flcErrAddr c) (BitVec.ofNat 32 addr)
    flcEvent (bump s1 (R.flcUncorrCw c)) c 2

/-- Die and page address of a stripe's page on a channel. -/
def flashAddr (s : State) (t : Stripe) (c : Nat) : Nat :=
  let n := max 1 s.mst.flash.nand.blocks
  match zoneOf s t.zone with
  | some z =>
    let b := ((z.blocks.find? fun e => e.1 == c).map Prod.snd).getD 0
    b / n % 16 * 2 ^ 28 + (b % n * blockPages s z.native + t.row) % 2 ^ 28
  | none => 0

/-- A stripe changed. -/
def setStripe (s : State) (q : Nat) (f : Stripe → Stripe) : State :=
  setFlash s fun x => { x with stripes := x.stripes.map fun t => if t.seq = q then f t else t }

/-- A page joins the refresh queue. -/
def queueRefresh (s : State) (q c : Nat) : State :=
  setFlash s fun x => { x with refresh := if x.refresh.contains (q, c) then x.refresh else x.refresh ++ [(q, c)] }

/-! ### Moving pages -/

/-- Pages written into stripes of a kind of zone, as many to a stripe as it takes. -/
def writePages : Nat → State → Bool → List FPage → Option State
  | 0, s, _, _ => some s
  | _ + 1, s, _, [] => some s
  | n + 1, s, native, l =>
    (writeStripe s native (l.take (perStripe s))).bind fun e => writePages n e.2 native (l.drop (perStripe s))

/-- The old copies of pages become dead. -/
def killPages (s : State) (pids : List Nat) : State :=
  setFlash s fun x => { x with stripes := x.stripes.map fun t => { t with
    pages := t.pages.map fun p => if pids.contains p.pid then { p with pid := 0 } else p } }

/-- Pages moved into new stripes; none where no zone is left. -/
def movePages (s : State) (native : Bool) (l : List FPage) : Option State :=
  if l = [] then some s else writePages (l.length + 1) (killPages s (l.map FPage.pid)) native l

/-- The pages of a stripe that are needed and can be read or rebuilt. -/
def keptPages (s : State) (live : List Nat) (t : Stripe) : List FPage :=
  t.pages.filter fun p => p.pid != 0 && live.contains p.pid && !pageLost s p.pid

/-! ### Failed programs and erases (R408, R414) -/

/-- A block becomes a grown bad block. -/
def growBad (s : State) (c b : Nat) : State :=
  let s1 := setFlash s fun x => { x with bad := tabSet 0 x.bad (blockKey c b) 2 }
  flcEvent s1 c 3

/-- The stripe whose program fails on a channel: the oldest being programmed, else the last native stripe. -/
def failingStripe (s : State) (c : Nat) : Option Stripe :=
  match s.mst.programming.filterMap (fun p => (stripeOf s p.seq).filter fun t => t.chans.contains c) with
  | t :: _ => some t
  | [] => (s.mst.flash.stripes.filter fun t => zoneNative s t.zone && t.chans.contains c).getLast?

/-- The data of a failed program is written again in the next stripe: the page of the channel, or, for a commit or pin stripe
and for a parity page, the whole stripe. -/
def rewriteFailed (s : State) (t : Stripe) (c : Nat) : State :=
  let prog := s.mst.programming.find? fun p => p.seq == t.seq
  let whole := parityCh t == c || prog.any fun p => p.kind != .journal
  let native := zoneNative s t.zone
  let l := if whole then t.pages else (((dataChs t).zip t.pages).filter fun e => e.1 == c).map Prod.snd
  let s1 := setStripe s t.seq fun t => { t with unread := if t.unread.contains c then t.unread else t.unread ++ [c] }
  match writeStripe (killPages s1 ((l.map FPage.pid).filter fun p => p != 0)) native (l.take (perStripe s)) with
  | none => s1
  | some (q, s2) =>
    match prog with
    | some p => bump (setMst s2 fun m => { m with
        programming := m.programming.map fun x => if x = p then { x with seq := q } else x }) R.mstJrnlUsed
    | none => s2

/-- FLASH_PROGRAM_FAIL: a program of the stripe in hand, or an erase of a free block, fails on a channel. -/
def execFlashProgramFail (ch : Fin 8) (erase : Bool) (block : Nat) (s : State) : Out :=
  fabric s fun s =>
    let c := ch.val
    if lostCh s c then s
    else if erase then
      (if (freeBlocks s c).contains block then syncFlash (growBad (bump s (R.flcEraseFail c)) c block) else s)
    else
      match failingStripe s c with
      | none => s
      | some t =>
        let s1 := bump s (R.flcProgFail c)
        let s2 := match (zoneOf s t.zone).bind fun z => z.blocks.find? fun e => e.1 == c with
          | some e => growBad s1 c e.2
          | none => s1
        let s3 := setFlash s2 fun x => { x with
          natZone := if x.natZone = some t.zone then none else x.natZone
          slcZone := if x.slcZone = some t.zone then none else x.slcZone }
        syncFlash (rewriteFailed s3 t c)

/-! ### Losing a channel (R436 to R438) -/

/-- Stripes being programmed are issued again on the channels left. -/
def reissue (s : State) : State :=
  s.mst.programming.foldl (fun s p =>
    match stripeOf s p.seq with
    | none => s
    | some t =>
      match writeStripe (killPages s ((t.pages.map FPage.pid).filter fun x => x != 0)) false (t.pages.take (perStripe s)) with
      | none => s
      | some (q, s1) =>
        let rest := t.pages.drop (perStripe s)
        let s2 := bump (setMst s1 fun m => { m with
          programming := m.programming.map fun x => if x = p then { x with seq := q } else x }) R.mstJrnlUsed
        if rest = [] then s2
        else match writeStripe s2 false rest with
          | none => s2
          | some (q2, s3) => bump (setMst s3 fun m => { m with programming := ⟨q2, p.kind⟩ :: m.programming }) R.mstJrnlUsed) s

/-- Journal pages beyond what a stripe now takes are issued. -/
def shrinkJournal (s : State) : State :=
  if s.mst.pages.length ≤ perStripe s then s
  else
    let rest := s.mst.pages.drop (perStripe s)
    match issueJournal (setMst s fun m => { m with pages := m.pages.take (perStripe s) }) with
    | none => s
    | some s1 => setMst s1 fun m => { m with pages := rest }

/-- The pages of the running query that a lost channel's unit was to scan go to the parity channels' units, or are lost. -/
def reroutePages (s : State) : State :=
  let s1 := (runPages s).foldl (fun s p =>
    if !lostCh s p.su then s
    else if pageLost s p.pid then skipPage s p.pid
    else setRunPrs s fun r => { r with
      pages := r.pages.map fun x => if x.pid = p.pid then { x with su := scanUnit s p.pid, arrived := false } else x }) s
  syncSu (setRunPrs s1 fun r => { r with flags := if rec8 r.job.block 0 1 = 1 then Nat.lor r.flags 4 else r.flags })

/-- A channel's loss as every register shows it. -/
def channelDown (s : State) (c : Nat) : State :=
  let s1 := flcEvent (setBits s (R.flcStatus c) 0x80000000) c 4
  let s2 := setBits (mstEvent s1 3) R.mstStatus 0x80
  let s3 := if (usableCh s).length = 8 then wf s2 R.mstStatus 6 4 c else setBits s2 R.mstStatus 0x100
  let s4 := clrBits s3 R.glbCap (bitW (16 + c))
  clrBits (bbx s4 0x0302 (0x20 + c) (leBytes 1 c) true) R.mstStatus 0x200

/-- What follows for the work in hand. -/
def channelWork (s : State) : State :=
  let s1 := if mstStatus s 8 then
      writeEnds (setMst s fun m => { m with programming := [] }) 0x26 []
    else shrinkJournal (reissue s)
  syncPrs (syncFlash (reroutePages s1))

/-- A channel is declared lost. -/
def loseChannel (s : State) (c : Nat) : State :=
  if lostCh s c then s
  else channelWork (countLost (lostPages s) (channelDown s c))

/-- FLASH_CHANNEL_LOST: a channel is declared lost where what other commands show does not declare it, as when its interface
cannot be trained (R436). -/
def execFlashChannelLost (ch : Fin 8) (s : State) : Out :=
  fabric s fun s => loseChannel s ch.val

/-- A die has not reported ready within 10 ms; on two consecutive commands that loses its channel (R436). -/
def dieLate (s : State) (c d : Nat) : State :=
  let s1 := bump s (R.flcTimeouts c)
  if s.mst.flash.late.contains (c, d) then loseChannel s1 c
  else setFlash s1 fun x => { x with late := x.late ++ [(c, d)] }

/-- An uncorrectable codeword of a die; on two dies of a channel within one second it loses the channel (R436). -/
def dieUncorr (s : State) (c d : Nat) : State :=
  let other := s.mst.flash.uncorr.any fun e => e.1 == c && e.2.1 != d && decide (s.dt.now.toNat ≤ e.2.2.toNat + 1000000000)
  let s1 := setFlash s fun x => { x with uncorr := (x.uncorr.filter fun e => !(e.1 == c && e.2.1 == d)) ++ [(c, d, s.dt.now)] }
  if other then loseChannel s1 c else s1

/-- FLASH_PAGE_READ: the page of a stripe on a channel has been read; its four codewords were decoded as given. With none, its
die has not reported ready. -/
def execFlashPageRead (ch : Fin 8) (seq : Nat) (cws : List CwRead) (s : State) : Out :=
  fabric s fun s =>
    match stripeOf s seq with
    | none => s
    | some t =>
      let d := dieOf s t ch.val
      if lostCh s ch.val || !t.chans.contains ch.val then s
      else if cws = [] then dieLate s ch.val d
      else
        let before := lostPages s
        let l := cws.take 4
        let s0 := setFlash s fun x => { x with late := x.late.filter fun e => e != (ch.val, d) }
        let s1 := l.foldl (countCw ch.val (flashAddr s t ch.val)) (bumpWrap s0 (R.flcReads ch.val))
        let s2 := if l.any (cwRefresh (rf s R.mstRefreshThr 7 0)) then queueRefresh s1 seq ch.val else s1
        let s3 := if l.contains .uncorrectable then
            setStripe s2 seq fun t => { t with unread := if t.unread.contains ch.val then t.unread else t.unread ++ [ch.val] }
          else s2
        let s4 := pageArrives (countLost before s3) seq ch.val
        if l.contains .uncorrectable then dieUncorr s4 ch.val d else s4

/-! ### The groomer (R430 to R435) -/

/-- Side-list entries that every retained or held epoch has folded leave the list. -/
def entryNeeded (s : State) (e : SideEntry) : Bool :=
  s.mst.views == [] || s.mst.views.any fun v =>
    match (tabGet ⟨[], none⟩ v.lists e.list).cut with
    | some c => decide (c < e.index)
    | none => true
def reclaimSide (s : State) : State := setMst s fun m => { m with side := m.side.filter (entryNeeded s) }

/-- Everything dead is reclaimed. -/
def reclaim (s : State) : State := reclaimZones (reclaimSide (dropViews s))

/-- Re-protection of the next stripe that had a page on a lost channel (R437). -/
def reprotect (s : State) : Option State :=
  if mstStatus s 7 && !mstStatus s 9 then
    match toReprotect s with
    | [] => some (setBits s R.mstStatus 0x200)
    | t :: _ =>
      let live := livePids s
      let all := !zoneNative s t.zone && decide (journalStart s ≤ t.seq)
      let l := if all then t.pages else keptPages s live t
      ((movePages s (zoneNative s t.zone) l).map fun s1 =>
        setFlash s1 fun x => { x with stripes := x.stripes.filter fun u => u.seq != t.seq }).map fun s1 =>
          if toReprotect s1 = [] then setBits s1 R.mstStatus 0x200 else s1
  else none

/-- Whether a block is a grown bad block. -/
def isBad (s : State) (e : Nat × Nat) : Bool := tabGet 0 s.mst.flash.bad (blockKey e.1 e.2) == 2

/-- A zone with a bad block gets a good one in its place, with the data that was in it, rebuilt where it must be (R408). -/
def replaceBad (s : State) : Option State :=
  s.mst.flash.zones.findSome? fun e =>
    match e.2 with
    | none => none
    | some z =>
      match z.blocks.find? (isBad s) with
      | none => none
      | some old =>
        (leastWorn s old.1).map fun b =>
          let s1 := setFlash s fun x => { x with
            zones := tabSet none x.zones e.1 (some { z with blocks := z.blocks.map fun y => if y = old then (old.1, b) else y }) }
          setFlash s1 fun x => { x with stripes := x.stripes.map fun t =>
            if t.zone = e.1 ∧ (deadChs s t).length ≤ 1 then { t with unread := t.unread.filter fun c => c != old.1 } else t }

/-- Refresh of the next queued page; a parity page goes with its stripe (R405). -/
def refreshPage (s : State) : Option State :=
  match s.mst.flash.refresh with
  | [] => none
  | (q, c) :: rest =>
    let s1 := setFlash s fun x => { x with refresh := rest }
    match stripeOf s1 q with
    | none => some s1
    | some t =>
      let live := livePids s1
      let l := (keptPages s1 live t).filter fun p =>
        parityCh t == c || ((dataChs t).zip t.pages).any fun e => e.1 == c && e.2.pid == p.pid
      (movePages s1 (zoneNative s1 t.zone) l).orElse fun _ => some s1

/-- An item of a list page: ID, segment, code. -/
structure Item where
  id : Nat
  seg : Nat
  code : List Byte
deriving DecidableEq, Repr

/-- The items of a list page's body (R382). -/
def pageItems (head : Nat) (b : List Byte) : List (Item × Bool) :=
  (List.range (min 408 (head / 65536))).map fun i =>
    (⟨rec8 b (13056 + 4 * i) 4, rec8 b (14688 + 3 * i) 3, slice b (32 * i) 32⟩, rec8 b (15912 + i) 1 % 2 == 1)

/-- The body of a list page of items. -/
def listBody (l : List Item) : List Byte :=
  padTo 13056 (l.map Item.code).flatten ++ padTo 1632 (l.map fun i => leBytes 4 i.id).flatten ++
    padTo 1224 (l.map fun i => leBytes 3 i.seg).flatten ++ List.replicate l.length 1

/-- The valid items of a page. -/
def validItems (s : State) (pid : Nat) : List Item :=
  match findPage s pid with
  | some (_, _, p) => ((pageItems p.head p.body).filter Prod.snd).map Prod.fst
  | none => []

/-- Whether an entry lies beyond a cut. -/
def beyondCut (cut : Option Nat) (i : Nat) : Bool :=
  match cut with
  | some c => decide (c < i)
  | none => true

/-- The version of a list in a view. -/
def listVer (v : View) (n : Nat) : ListVer := tabGet ⟨[], none⟩ v.lists n

/-- Entries of list `n` visible in a view and beyond its cut, oldest first. -/
def openEntries (s : State) (v : View) (n : Nat) : List SideEntry :=
  s.mst.side.filter fun e => e.list == n && decide (e.stamp ≤ v.epoch) && beyondCut (listVer v n).cut e.index

/-- An entry applied to a list's items: a tombstone leaves out what it kills. -/
def foldEntry (l : List Item) (e : SideEntry) : List Item :=
  if e.tomb then l.filter fun i => i.id != e.id else l ++ [⟨e.id, e.seg, e.code⟩]

/-- Pages of a list numbered from the flash's next page number. -/
def listPages (n epoch pid : Nat) (l : List Item) : List FPage :=
  let ps := if l = [] then [] else pieces 408 (l.length / 408 + 1) l
  ((List.range ps.length).zip ps).filterMap fun e =>
    if e.2 = [] then none else some ⟨pid + e.1, 1, n, e.1, epoch, n % 65536 + 65536 * e.2.length, listBody e.2⟩

/-- Pages take the next page numbers. -/
def usePids (s : State) (n : Nat) : State := setFlash s fun x => { x with nextPid := x.nextPid + n }

/-- Bytes of a VERSION record: the model's own layout of list, cut and pages. -/
def versionBytes (v : ListVer) : List Byte :=
  leBytes 4 (v.cut.getD 0xFFFFFFFF) ++ leBytes 4 v.pages.length ++ (v.pages.map (leBytes 4)).flatten

/-- Whether the open epoch already has a version of a list. -/
def hasVersion (s : State) (n : Nat) : Bool := s.mst.records.any fun r =>
  match r with
  | .version m _ => m == n
  | _ => false

/-- One list folded: its new pages written, its VERSION record appended. -/
def foldList (s : State) (n : Nat) : Option State :=
  let v := lastView s
  let es := openEntries s v n
  match es.getLast? with
  | none => some s
  | some last =>
    if hasVersion s n || (listVer v n).pages.any (pageLost s) then some s
    else
      let items := es.foldl foldEntry ((listVer v n).pages.map (validItems s)).flatten
      let ps := listPages n (openEpoch s) s.mst.flash.nextPid items
      let nv : ListVer := ⟨ps.map FPage.pid, some last.index⟩
      (movePages (usePids s ps.length) true ps).bind fun s1 =>
        (appendParts s1 5 n (versionBytes nv)).map fun s2 => addRecord s2 (.version n nv)

/-- Whether an object's record lies in a journal page. -/
def inJournal (s : State) (o : MapObj) : Bool :=
  match findPage s o.page with
  | some (_, _, p) => p.kind == 3
  | none => false

/-- Objects packed into object pages: (page number, objects, bytes). -/
def packObjs (pid : Nat) : List MapObj → List (Nat × List MapObj × List Byte) → List (Nat × List MapObj × List Byte)
  | [], acc => acc
  | o :: t, acc =>
    let b := recordBytes (if o.tomb then 2 else 1) o.type o.id (o.epoch % 2 ^ 32) o.body
    match acc.getLast? with
    | some (p, os, bs) =>
      if bs.length + b.length ≤ 16320 then packObjs pid t (acc.dropLast ++ [(p, os ++ [o], bs ++ b)])
      else packObjs pid t (acc ++ [(p + 1, [o], b)])
    | none => packObjs pid t (acc ++ [(pid, [o], b)])

/-- Objects still in the journal go into object pages; their VERSION record is appended. -/
def foldObjs (s : State) : Option State :=
  let os := (objsOf (lastView s)).filter (inJournal s)
  if os = [] then some s
  else
    let packs := packObjs s.mst.flash.nextPid os []
    let ps := ((List.range packs.length).zip packs).map fun e =>
      (⟨e.2.1, 2, e.1, 0, openEpoch s, 0, e.2.2.2⟩ : FPage)
    let mv := (packs.map fun p => p.2.1.map fun o => (objKey o.type o.id, o.epoch, p.1)).flatten
    (movePages (usePids s ps.length) true ps).bind fun s1 =>
      (appendParts s1 5 0 (mv.map fun e => leBytes 8 e.1 ++ leBytes 8 e.2.2).flatten).map fun s2 => addRecord s2 (.moved mv)

/-- Tombstoned objects that no retained or held epoch shows live, with the edges that name a KEYFRAME among them (R432). -/
def removable (s : State) : List Nat :=
  let v := lastView s
  let unseen := fun (o : MapObj) => s.mst.views.all fun w =>
    match objOf w o.type o.id with
    | some x => x.tomb || danglingEdge w x
    | none => true
  (removalSet v ((objsOf v).filter fun o => (o.tomb || danglingEdge v o) && unseen o)).map fun o => objKey o.type o.id

/-- The removals of a fold. -/
def foldRemovals (s : State) : Option State :=
  match removable s with
  | [] => some s
  | l => (appendParts s 5 0 (l.map (leBytes 8)).flatten).map fun s1 => addRecord s1 (.removed l)

/-- Whether a fold is due (R430). -/
def foldDue (s : State) : Bool :=
  let v := lastView s
  let lists := (s.mst.side.map SideEntry.list).dedup
  !v.index.isEmpty &&
    (decide ((rd s R.mstGroomSide).toNat < s.mst.side.length) ||
      lists.any fun n => decide (256 < ((openEntries s v n).filter SideEntry.tomb).length)) &&
    lists.any fun n => !(openEntries s v n).isEmpty && !hasVersion s n

/-- Folding of every list, and of objects. -/
def foldTask (s : State) : Option State :=
  if foldDue s then
    (((s.mst.side.map SideEntry.list).dedup.foldl (fun o n => o.bind fun s => foldList s n) (some s)).bind foldObjs).bind
      foldRemovals
  else none

/-- The directory of an epoch: the model's own layout. -/
def dirBytes (v : View) : List Byte :=
  leBytes 8 v.epoch ++ ((objsOf v).map fun o => leBytes 8 (objKey o.type o.id) ++ leBytes 8 o.page).flatten ++
    (v.lists.map fun e => leBytes 4 e.1 ++ versionBytes e.2).flatten

/-- Pages with numbers of their own. -/
def numberPages (pid : Nat) (l : List FPage) : List FPage :=
  ((List.range l.length).zip l).map fun e => { e.2 with pid := pid + e.1 }

/-- CHECKPOINT (R434, R435): directories, the black-box area, then the root copies. -/
def checkpoint (s : State) : Option State :=
  if rf s R.mstJrnlMax 15 0 < 2 * (rd s R.mstJrnlUsed).toNat ∧ s.mst.committed ≠ 0 then
    let pid := s.mst.flash.nextPid
    let ds := numberPages pid (s.mst.views.map fun v => bodyPages 4 0 (openEpoch s) (dirBytes v) 0).flatten
    let keep := s.mst.mirror.drop (s.mst.mirror.length - 65536)
    let bs := if keep = [] then [] else
      numberPages (pid + ds.length) (bodyPages 6 0 (openEpoch s) (keep.map Prod.snd).flatten 0)
    (movePages (usePids s (ds.length + bs.length)) true ds).bind fun s1 =>
      (movePages s1 false bs).map fun s2 =>
        let start := if s.mst.nstripes = 0 then s2.mst.flash.nextSeq else s.mst.firstSeq
        let gen := s.mst.flash.roots.foldl (fun m r => max m r.gen) 0 + 1
        let r : Root := ⟨gen, s.mst.committed, start⟩
        let s3 := setFlash s2 fun x => { x with roots := [r, r], dirs := (ds ++ bs).map FPage.pid }
        wr (setMst s3 fun m => { m with
          mirror := keep, base := ⟨m.committed, m.views.filter fun v => retained s v.epoch, m.pins, m.side⟩, past := [], pinLog := [] })
          R.mstJrnlUsed (BitVec.ofNat 32 s.mst.nstripes)
  else none

/-- Needed pages of a zone. -/
def zonePages (s : State) (live : List Nat) (z : Nat) : List FPage :=
  ((s.mst.flash.stripes.filter fun t => t.zone == z).map (keptPages s live)).flatten

/-- The data of a zone moved elsewhere. -/
def emptyZone (s : State) (z : Nat) : Option State := movePages s (zoneNative s z) (zonePages s (livePids s) z)

/-- Zones not being filled, of a kind. -/
def closedZones (s : State) (p : Zone → Bool) : List Nat :=
  s.mst.flash.zones.filterMap fun e =>
    match e.2 with
    | some z => if p z && s.mst.flash.natZone != some e.1 && s.mst.flash.slcZone != some e.1 then some e.1 else none
    | none => none

/-- Compaction of the native zone with the most dead pages, while free zones are few (R430). -/
def compact (s : State) : Option State :=
  if (rd s R.mstGroomFree).toNat ≤ zonesFree s then none
  else
    let live := livePids s
    let dead := fun (z : Nat) => match zoneOf s z with
      | some x => x.written * (x.blocks.length - 1) - (zonePages s live z).length
      | none => 0
    match (closedZones s Zone.native).foldl (fun m z => match m with
        | none => if dead z = 0 then none else some z
        | some y => if dead y < dead z then some z else some y) none with
    | some z => emptyZone s z
    | none => none

/-- The least erase count of a zone's blocks. -/
def zoneWear (s : State) (z : Nat) : Nat :=
  match zoneOf s z with
  | some x => leastOf (x.blocks.map fun e => eraseCount s e.1 e.2)
  | none => 0

/-- Wear levelling (R409). -/
def levelWear (s : State) : Option State :=
  let spread := (usableCh s).any fun c =>
    let l := ((blocksOfCh s).filter (goodBlock s c)).map (eraseCount s c)
    decide (rf s R.mstWearGap 15 0 < l.foldl max 0 - leastOf l)
  if spread then
    match (closedZones s Zone.native).foldl (fun m z => match m with
        | none => some z
        | some y => if zoneWear s z < zoneWear s y then some z else some y) none with
    | some z => emptyZone s z
    | none => none
  else none

/-- The tasks in order of precedence; the first that is due and can go on is done. -/
def groom (s : State) : Option State :=
  (reprotect s).orElse fun _ => (replaceBad s).orElse fun _ => (refreshPage s).orElse fun _ => (foldTask s).orElse fun _ =>
    (checkpoint s).orElse fun _ => (compact s).orElse fun _ => levelWear s

/-- GROOM_TASK: the groomer does its next task. It runs while the store is mounted, not stopped and not read-only, and
appends no VERSION while a COMMIT, PIN or UNPIN is in flight. -/
def execGroomTask (s : State) : Out :=
  fabric s fun s =>
    if rb s R.mstCtrl 1 && mstStatus s 0 && !mstStatus s 3 && !mstStatus s 8 && s.mst.write.isNone then
      let s0 := reclaim s
      let s1 := match groom s0 with
        | some t => setBits (reclaim t) R.mstStatus 4
        | none => clrBits s0 R.mstStatus 4
      syncPrs (syncFlash s1)
    else s

/-! ### Mounting, formatting, power loss (R425 to R429, R439, R440, R551) -/

/-- The open epoch and everything of it is gone. -/
def discardOpen (s : State) : State :=
  setMst s fun m => { m with
    records := [], pages := [], nstripes := 0, firstSeq := 0, crcs := [], write := none, programming := []
    side := m.side.filter fun e => decide (e.stamp ≤ m.committed)
    bbxSince := m.mirroring ++ m.bbxSince, mirroring := [] }

/-- The stripe in flight when the supply fell, which recovery may or may not find complete. -/
def recoverInFlight (s : State) : State :=
  let (k, s1) := drawNat s
  if k % 2 = 0 then s1
  else match s1.mst.programming, s1.mst.write with
    | [⟨_, .commit⟩], _ => publish s1
    | [⟨q, .pin⟩], some w => setPins s1 w q
    | _, _ => s1

/-- Every register that shows the mounted store. -/
def syncMount (s : State) : State := syncFlash (syncPins (syncPrs (syncEpoch s)))

/-- Whether a stripe is one of the journal since the checkpoint. -/
def journalStripe (s : State) (t : Stripe) : Bool :=
  !zoneNative s t.zone && decide (journalStart s ≤ t.seq) && t.pages.any fun p => p.kind == 3

/-- The open epoch of a journal stripe. -/
def stripeEpoch (t : Stripe) : Nat := (t.pages.head?.map FPage.epoch).getD 0

/-- The journal stripe at which recovery stops, for two of its pages cannot be read: its epoch and sequence (R427). -/
def journalBreak (s : State) : Option (Nat × Nat) :=
  (s.mst.flash.stripes.filter fun t => journalStripe s t && decide (2 ≤ (deadChs s t).length)).foldl (fun o t =>
    match o with
    | none => some (stripeEpoch t, t.seq)
    | some (e, q) => if stripeEpoch t < e ∨ (stripeEpoch t = e ∧ t.seq < q) then some (stripeEpoch t, t.seq) else some (e, q)) none

/-- The store as the checkpoint and the journal before the stripe (e, q) give it: the epochs committed before `e`, and the pins
of records read before that stripe. -/
def replay (s : State) (e q : Nat) : State :=
  let m := s.mst
  let past := m.past.filter fun p => decide (p.view.epoch < e)
  let pins := m.pinLog.filter fun p => decide (p.epoch < e) || (p.epoch == e && decide (p.seq < q))
  let s1 := setMst s fun m => { m with
    committed := (past.getLast?.map fun p => p.view.epoch).getD m.base.epoch, views := m.base.views ++ past.map PastEpoch.view
    pins := (pins.getLast?.map PinRec.pins).getD m.base.pins, side := m.base.side ++ (past.map PastEpoch.side).flatten
    past := past, pinLog := pins }
  setFlash s1 fun x => { x with stripes := x.stripes.filter fun t =>
    !(journalStripe s t && (decide (e < stripeEpoch t) || (stripeEpoch t == e && decide (q ≤ t.seq)))) }

/-- The journal replayed up to the first stripe that cannot be read, if there is one. -/
def replayJournal (s : State) : State :=
  match journalBreak s with
  | some (e, q) => replay s e q
  | none => s

/-- The root copies that can be read, on FC0 and FC4. -/
def readableRoots (s : State) : List Root := ((s.mst.flash.roots.zip [0, 4]).filter fun r => !lostCh s r.2).map Prod.fst

/-- MAP_MOUNT: the store is recovered. Channels of which no die answers are lost. -/
def mapMount (s : State) : State :=
  let s0 := (List.range 8).foldl (fun s c =>
    if s.mst.flash.nand.dies.getD c 0 = 0 ∧ lostCh s c = false then channelDown s c else s) s
  if readableRoots s0 = [] then setBits s0 R.mstStatus 0x400
  else
    let s1 := discardOpen (replayJournal (recoverInFlight s0))
    let s2 := setFlash (setMst s1 fun m => { m with views := m.views.filter fun v => retained s1 v.epoch }) fun x => { x with
      slcZone := none, natZone := none, refresh := [], late := [], uncorr := [] }
    let n := (s2.mst.flash.stripes.filter (journalStripe s2)).length
    let s3 := reclaimZones s2
    let (us, s4) := drawNat s3
    let s5 := wr (wr s4 R.mstMountUs (BitVec.ofNat 32 (us % (40001 + 45 * n)))) R.mstJrnlUsed (BitVec.ofNat 32 n)
    let s6 := bbx s5 0x0301 0x28 (leBytes 8 s5.mst.committed) true
    setBits (syncMount (setBits (mstEvent s6 4) R.mstStatus 1)) R.glbStatus 8

/-- MAP_MOUNT: once memory is trained, before READY (R427, R548). -/
def execMapMount (s : State) : Out :=
  fabric s fun s => if decide (s.aon.boot ≠ .trained) || mstStatus s 0 || mstStatus s 10 then s else mapMount s

/-- A running query loses every page it still waits for. -/
def losePages (s : State) : State :=
  match s.prs.run with
  | some r => syncSu (r.pages.foldl (fun s p => skipPage s p.pid) s)
  | none => s

/-- MST_FORMAT: a write of the register. A store that has stopped for a power failure issues no erase. -/
def execMstFormat (v : Word) (s : State) : Out :=
  fabric s fun s =>
    if fld v 31 24 ≠ 0xC3 ∨ rb s R.mstCtrl 0 = true ∨ mstStatus s 3 = true then s
    else
      let s0 := writeEnds (losePages s) 0x26 []
      let factory := s0.mst.flash.nand.factory.foldl (fun t e => tabSet 0 t (blockKey e.1 e.2) 1) s0.mst.flash.bad
      let s1 := setFlash s0 fun x => { x with bad := factory, zones := [], slcZone := none, natZone := none }
      let s2 := (usableCh s1).foldl (fun s c =>
        let bs := (blocksOfCh s).filter fun b => goodBlock s c b || rootBlock c b
        bumpWrapN (setFlash s fun x => { x with
          erase := bs.foldl (fun t b => tabSet 0 t (blockKey c b) (tabGet 0 t (blockKey c b) + 1)) x.erase }) (R.flcErases c)
          bs.length) s1
      let gen := s.mst.flash.roots.foldl (fun m r => max m r.gen) 0 + 1
      let r : Root := ⟨gen, 0, s2.mst.flash.nextSeq⟩
      let s3 := setFlash s2 fun x => { x with stripes := [], roots := [r, r], refresh := [], dirs := [] }
      let s4 := discardOpen (setMst s3 fun m => { m with
        views := [], committed := 0, pins := [0, 0, 0], side := [], nextSide := 0, mirror := [], base := Mst.blank.base, past := []
        pinLog := [] })
      let s5 := wr (clrBits (setBits s4 R.mstStatus 1) R.mstStatus 0x400) R.mstJrnlUsed 0
      setBits (syncMst (syncMount s5)) R.glbStatus 8

/-- A job whose completion has been reported goes on for nobody. -/
def orphanJob (w : WriteJob) : WriteJob := { w with job := { w.job with owner := .firmware } }

/-- What a falling PWR_FAIL_N does to the store (R425): a COMMIT goes on, for its journal stripes have all been issued; a PIN
or UNPIN ends ERR_ABORTED, though its stripe may yet be durable. -/
def mstStop (s : State) : State :=
  let s1 := setBits (mstEvent s 5) R.mstStatus 8
  match s1.mst.write with
  | some w =>
    if jobOp w.job = 3 then s1
    else syncMst (setMst (finish s1 w.job.owner 0x28 []) fun m => { m with write := m.write.map orphanJob })
  | none => s1

end Sys2Proof.Machine
end

