-- ==== Sys2Proof/Machine/Place.lean ====
section
/-! DEFINITION. Place recognition: the coordinator's jobs, the coarse stage, the scan, the side list, the filter bitmap and
the merge (R378 to R403). -/

namespace Sys2Proof.Machine

/-! ### The index (R378 to R381) -/

/-- C, table shift and distance shift of an index image. -/
def ixC (ix : List Byte) : Nat := rec8 ix 0 4
def ixTsh (ix : List Byte) : Nat := rec8 ix 4 1
def ixDsh (ix : List Byte) : Nat := rec8 ix 5 1

/-- Bytes of an index image of C centroids. -/
def ixSize (c : Nat) : Nat := 64 + 256 * c + 65536

/-- Signed bytes from an offset. -/
def sbytes (l : List Byte) (off n : Nat) : List Int := (slice l off n).map fun b => b.toInt

/-- Centroid n, and codeword j of sub-quantiser m. -/
def centroid (ix : List Byte) (n : Nat) : List Int := sbytes ix (64 + 256 * n) 256
def codeword (ix : List Byte) (m j : Nat) : List Int := sbytes ix (64 + 256 * ixC ix + 2048 * m + 8 * j) 8

/-- Σ x·y, and Σ (x − y)². -/
def dotB (x y : List Int) : Int := ((x.zip y).map fun e => e.1 * e.2).sum
def dist2 (x y : List Int) : Nat := (dotB (List.zipWith (· - ·) x y) (List.zipWith (· - ·) x y)).toNat

/-- B_n, and the table of centroids with their B_n that the device keeps for the centroid program; its layout, 260 bytes a
centroid, is a DESIGN CHOICE (log entry 19). -/
def centroidB (ix : List Byte) (n : Nat) : Nat := (dotB (centroid ix n) (centroid ix n) / 2).toNat
def centroidTable (ix : List Byte) : List Byte :=
  ((List.range (ixC ix)).map fun n => slice ix (64 + 256 * n) 256 ++ leBytes 4 (centroidB ix n)).flatten

/-- A list number placed among those kept, best score first, ties to the lower number. -/
def placeList (score : Nat → Int) (n : Nat) : List Nat → List Nat
  | [] => [n]
  | m :: t => if score m < score n then n :: m :: t else m :: placeList score n t

/-- The `p` lists of greatest score, of `c`. -/
def bestLists (score : Nat → Int) (c p : Nat) : List Nat :=
  (List.range c).foldl (fun l n => (placeList score n l).take p) []

/-- The j of least squared distance, ties to the lower j. -/
def nearestWord (ix : List Byte) (m : Nat) (x : List Int) : Nat :=
  ((List.range 256).foldl (fun b j => if dist2 x (codeword ix m j) < dist2 x (codeword ix m b) then j else b) 0)

/-- The code of a descriptor. -/
def encode (ix : List Byte) (x : List Int) : List Byte :=
  (List.range 32).map fun m => BitVec.ofNat 8 (nearestWord ix m (slice x (8 * m) 8))

/-- T[m][j]. -/
def tableAt (ix : List Byte) (q : List Int) (m j : Nat) : Nat :=
  min 0xFFFF (rne (dist2 (slice q (8 * m) 8) (codeword ix m j)) (ixTsh ix)).toNat

/-- D of a code (R383), and the reported distance (R384). -/
def codeDist (ix : List Byte) (q : List Int) (code : List Byte) : Nat :=
  ((List.range 32).map fun m => tableAt ix q m (rec8 code m 1)).sum
def reported (ix : List Byte) (d : Nat) : Nat := min 0xFFFE (d / 2 ^ ixDsh ix)

/-! ### Candidates (R383, R385) -/

/-- Whether candidate `a` ranks before `b`. -/
def ranksBefore (a b : PlaceCand) : Bool :=
  if a.d ≠ b.d then decide (a.d < b.d)
  else if a.id ≠ b.id then decide (a.id < b.id)
  else if a.list ≠ b.list then decide (a.list < b.list)
  else match a.side, b.side with
    | none, some _ => true
    | some x, some y => decide (x < y)
    | _, none => false

/-- A candidate placed in rank order. -/
def placeCand (c : PlaceCand) : List PlaceCand → List PlaceCand
  | [] => [c]
  | x :: t => if ranksBefore c x then c :: x :: t else x :: placeCand c t

/-- A candidate among the 1,024 best of its source. -/
def keepCand (l : List PlaceCand) (c : PlaceCand) : List PlaceCand := (placeCand c l).take 1024

/-- Whether the filter bitmap forbids a segment (R393). -/
def segBlocked (s : State) (seg : Nat) : Bool := s.prs.blocked.any fun r => decide (r.1 ≤ seg) && decide (seg < r.2)

/-! ### Jobs (R394, R395) -/

/-- The coordinator replaced. -/
def setPrs (s : State) (f : Prs → Prs) : State := { s with prs := f s.prs }

/-- A job of the coordinator ends. -/
def prsReport (s : State) (j : Job) (st : Nat) (res : List Byte) : State :=
  syncPrs (finish (dropViews (setPrs s fun p => { p with run := none })) j.owner st res)

/-- PRS_ERR.JOB and ERR_DESCRIPTOR; of a QUERY only the status byte of its result header is written. -/
def prsRefuse (s : State) (j : Job) (byte : Nat) : State :=
  let s1 := errInfo s R.prsErr 0 R.prsErrInfo (BitVec.ofNat 32 (byte % 65536 * 65536 + jobOp j))
  let a := rec8 j.block 24 8 + 13
  prsReport (if jobOp j = 1 ∧ engineRange s a 1 = true then jobStore j s1 a [0x23] else s1) j 0x23 []

/-- The job the coordinator has taken, when it has opcode `op` and `p` holds of its block, does its work; an opcode the
coordinator does not know is refused. While the map store is not mounted every job ends ERR_FAULT (R551). -/
def prsWork (op : Nat) (p : List Byte → Bool) (f : State → Job → State) (s : State) : Out :=
  fabric s fun s =>
    match startedAt s 0x14, s.prs.run with
    | j :: rest, none =>
      let o := jobOp j
      let s1 := setStarted s 0x14 rest
      if (o ≠ op ∧ 1 ≤ o ∧ o ≤ 5) ∨ (o = op ∧ p j.block = false) then s
      else if !mstStatus s 0 then prsReport s1 j 0x26 []
      else if o = op then f s1 j
      else prsRefuse s1 j 0
    | _, _ => s

/-- Whether the coarse stage has its context and program. -/
def coarseReady (s : State) : Bool := (progOf s (rf s R.prsCfg 27 24) (rf s R.prsCfg 9 0)).isSome

/-- Working buffers of the coordinator in the firmware GDDR6 region: inputs, record, scores. DESIGN CHOICE, log entry 19: where
they lie. -/
def prsBuf (s : State) (k : Nat) : Nat := gdrBase + gdrBytes s - 0x2200000 + [0x1000000, 0, 0x10000].getD k 0

/-- The score that the centroid program wrote for centroid `n` and descriptor `row`, taken unchecked (R380). DESIGN CHOICE, log
entry 19: the scores of a descriptor follow one another, those of the next row after them. -/
def coarseScore (s : State) (ix : List Byte) (row n : Nat) : Int := ldS s (prsBuf s 2 + 4 * (row * ixC ix + n)) 4

/-- The lists the coordinator chooses for a descriptor of the coarse job. -/
def chosenLists (s : State) (ix : List Byte) (row p : Nat) : List Nat := bestLists (coarseScore s ix row) (ixC ix) p

/-- What the coarse job is handed: the descriptors, and from 0x2000 on the address of the centroid table. -/
def coarseInput (s : State) (ds : List (List Byte)) : List Byte := padTo 0x2000 ds.flatten ++ leBytes 8 (prsBuf s 0 + 0x3000)

/-- The coarse job of up to 32 descriptors enters the tile unit's queue (R380). -/
def startCoarse (s : State) (ix : List Byte) (ds : List (List Byte)) : State :=
  let s1 := stBytes (stBytes s (prsBuf s 0 + 0x3000) (centroidTable ix)) (prsBuf s 0) (coarseInput s ds)
  let block := [1, 0] ++ leBytes 2 (rf s R.prsCfg 9 0) ++ leBytes 4 0 ++ leBytes 8 (prsBuf s 0) ++ leBytes 8 (prsBuf s 2) ++
    leBytes 8 (prsBuf s 1) ++ leBytes 32 0
  joinQueue s1 0x10 ⟨.coordinator, 0x10, rf s R.prsCfg 27 24, 0, block, none, []⟩

/-! ### The end of a query (R391, R392, R396 to R400) -/

/-- Fields of a QUERY block. -/
def qK (b : List Byte) : Nat := rec8 b 2 2
def qP (b : List Byte) : Nat := rec8 b 4 1
def qFilt (b : List Byte) : Bool := rec8 b 1 1 % 2 == 1

/-- What the end of a query adds to its run: status, live items in rank order, candidates killed, margin, entries walked. -/
structure QueryEnd where
  status : Nat
  items : List PlaceCand
  killed : Nat
  margin : Nat
  walked : Nat
deriving DecidableEq, Repr

/-- The result header. -/
def queryHeader (s : State) (r : PrsRun) (e : QueryEnd) (flags : Nat) : List Byte :=
  let b := r.job.block
  let body := leBytes 8 r.accept.toNat ++ leBytes 4 e.items.length ++ leBytes 1 (qP b) ++ leBytes 1 e.status ++ leBytes 2 flags ++
    leBytes 8 r.epoch ++ leBytes 4 (min 0xFFFFFFFF r.scored) ++ leBytes 4 (min 0xFFFFFFFF r.filtered) ++ leBytes 4 e.killed ++
    leBytes 2 e.margin ++ leBytes 2 (qK b) ++ leBytes 4 r.read ++ leBytes 4 e.walked ++ leBytes 8 s.dt.now.toNat ++ leBytes 4 0
  body ++ leBytes 4 (crc32c body)

/-- A result entry, and an empty one. -/
def queryEntry (ix : List Byte) (c : PlaceCand) : List Byte :=
  leBytes 4 c.id ++ leBytes 2 (reported ix c.d) ++ leBytes 2 c.list ++ leBytes 3 c.seg ++ leBytes 1 c.side.isSome.toNat ++
    leBytes 4 c.d
def emptyEntry : List Byte := leBytes 4 0xFFFFFFFF ++ leBytes 2 0xFFFF ++ leBytes 10 0

/-- A query ends: result, counters, report. An error other than a lost page leaves a header alone. -/
def endQuery (s : State) (r : PrsRun) (e : QueryEnd) : State :=
  let b := r.job.block
  let flags := Nat.lor r.flags (decide (0 < r.filtered)).toNat
  let ix := ((viewOf s r.epoch).getD (emptyView 0)).index
  let rows := if e.status < 0x20 ∨ r.flags / 8 % 2 = 1 then
      (e.items.map (queryEntry ix)).flatten ++ (List.replicate (qK b - e.items.length) emptyEntry).flatten
    else []
  let s1 := bumpWrap (jobStore r.job s (rec8 b 24 8) (queryHeader s r e flags ++ rows)) R.prsQueries
  let s2 := if e.status = 1 then bump s1 R.prsShortCnt else s1
  let s3 := if flags / 2 % 2 = 1 then setBits (bump s2 R.prsCappedCnt) R.prsEvent 4 else s2
  let us := min 0xFFFFFFFF ((s.dt.now.toNat - r.accept.toNat) / 1000)
  let s4 := wr (wr s3 R.prsLastQuery (BitVec.ofNat 32 (e.status * 0x1000000 + flags % 256 * 0x10000 + e.items.length % 512)))
    R.prsLastUs (BitVec.ofNat 32 us)
  syncSu (prsReport s4 r.job e.status (leBytes 4 e.items.length ++ leBytes 4 (r.epoch % 2 ^ 32) ++
    leBytes 4 (min 0xFFFFFFFF r.scored) ++ leBytes 4 r.read))

/-- An ending with a count of 0. -/
def emptyEnd (st : Nat) : QueryEnd := ⟨st, [], 0, 0, 0⟩

/-- Whether a descriptor's deadline has come; a gate job has none (R396). -/
def prsLate (s : State) (j : Job) : Bool :=
  match j.latch with
  | d :: _ => d != 0 && decide (d ≤ s.dt.now.toNat)
  | [] => false

/-! ### QUERY (R389, R395, R396) -/

/-- The checks of a QUERY block. -/
def queryBad (s : State) (b : List Byte) : Option Nat :=
  firstBad [(1, decide (rec8 b 1 1 < 2)), (2, decide (1 ≤ qK b ∧ qK b ≤ 256)), (4, decide (1 ≤ qP b ∧ qP b ≤ 64)), (5, zeros b 5 3),
    (16, engineRange s (rec8 b 16 8) 256), (24, engineRange s (rec8 b 24 8) (64 + 16 * qK b)), (32, zeros b 32 32),
    (0, coarseReady s)]

/-- A run that begins. -/
def newRun (s : State) (j : Job) (e : Nat) : PrsRun := ⟨j, s.dt.now, e, none, false, 0, [], [], [], 0, 0, 0, 0, [], 0⟩

/-- QUERY: the coordinator accepts a query and starts its coarse stage. -/
def execQuery (s : State) : Out :=
  prsWork 1 (fun _ => !(List.range 8).any fun n => engineHeld s (0x40 + n)) (fun s j =>
    let b := j.block
    let e := if rec8 b 8 8 = 0 then s.mst.committed else rec8 b 8 8
    let r := newRun s j e
    match queryBad s b with
    | some k => prsRefuse s j k
    | none =>
      if (List.range 8).any fun n => engineDead s (0x40 + n) then endQuery s r (emptyEnd 0x26)
      else if prsLate s j then endQuery s r (emptyEnd 0x20)
      else if abortAsked s j.owner then endQuery s r (emptyEnd 0x28)
      else if !retained s e then endQuery s r (emptyEnd 0x24)
      else if ((viewOf s e).getD (emptyView 0)).index.isEmpty then endQuery s r (emptyEnd 1)
      else jobIo s [(rec8 b 16 8, 256)] [] (fun s => endQuery s r (emptyEnd 0x26)) fun s =>
        syncPrs (startCoarse (setPrs s fun p => { p with run := some r }) ((viewOf s e).getD (emptyView 0)).index
          [ldBytes s (rec8 b 16 8) 256])) s

/-- The query's descriptor as the coarse stage took it. -/
def queryVec (s : State) (r : PrsRun) : List Int := sbytes (ldBytes s (rec8 r.job.block 16 8) 256) 0 256

/-- The pages of the probed lists in the version of E, with the unit that scans each. -/
def probePages (s : State) (v : View) (lists : List Nat) : List PrsPage :=
  ((lists.map fun n => (listVer v n).pages).flatten).map fun p => ⟨p, scanUnit s p, false⟩

/-- The end of a query's coarse stage. -/
def queryCoarse (s : State) (r : PrsRun) (st : Nat) : State :=
  if 0x20 ≤ st then endQuery s r (emptyEnd st)
  else if abortAsked s r.job.owner then endQuery s r (emptyEnd 0x28)
  else if prsLate s r.job then endQuery s r (emptyEnd 0x20)
  else
    let v := (viewOf s r.epoch).getD (emptyView 0)
    let lists := chosenLists s v.index 0 (qP r.job.block)
    let deg := decide (st = 5) || (List.range 8).any (lostCh s)
    let ps := probePages s v lists
    let s1 := setPrs s fun p => { p with run := some { r with
      coarse := some st, coarseDone := true, lists := lists, pages := ps, flags := Nat.lor r.flags (4 * deg.toNat) } }
    syncSu ((ps.filter fun p => pageLost s p.pid).foldl (fun s p => skipPage s p.pid) s1)

/-! ### The scan (R383) -/

/-- One item of a page scored. -/
def scanItem (s : State) (ix : List Byte) (q : List Int) (list su : Nat) (filt : Bool) (r : PrsRun) (e : Item × Bool) : PrsRun :=
  if !e.2 then r
  else
    let r1 := { r with scored := r.scored + 1 }
    if filt && segBlocked s e.1.seg then { r1 with filtered := r1.filtered + 1 }
    else
      let c : PlaceCand := ⟨codeDist ix q e.1.code, e.1.id, list, e.1.seg, none⟩
      { r1 with cands := tabSet [] r1.cands su (keepCand (tabGet [] r1.cands su) c) }

/-- A page scanned by a unit. -/
def scanPage (s : State) (r : PrsRun) (p : PrsPage) : State :=
  let ix := ((viewOf s r.epoch).getD (emptyView 0)).index
  let q := queryVec s r
  let (head, body) := match findPage s p.pid with
    | some (_, _, x) => (x.head, x.body)
    | none => (0, [])
  let r1 := (pageItems head body).foldl (scanItem s ix q (head % 65536) p.su (qFilt r.job.block)) r
  let r2 := { r1 with pages := r1.pages.filter fun x => x.pid != p.pid, read := r1.read + 1 }
  syncSu (bump (setPrs s fun x => { x with run := some r2 }) (R.prsSuPages p.su))

/-- PRS_PAGE_SCAN: a unit scores the oldest page that has come to it; a query asked to abort stops instead. -/
def execPrsPageScan (su : Fin 8) (s : State) : Out :=
  fabric s fun s =>
    match s.prs.run with
    | none => s
    | some r =>
      match r.pages.find? fun p => p.su == su.val && p.arrived with
      | none => s
      | some p => if abortAsked s r.job.owner then endQuery s r (emptyEnd 0x28) else scanPage s r p

/-! ### The side list and the merge (R386, R390, R391) -/

/-- The entries of a probed list that the walk meets. -/
def chainOf (s : State) (v : View) (n : Nat) : List SideEntry :=
  s.mst.side.filter fun e => e.list == n && beyondCut (listVer v n).cut e.index

/-- A visible insert scored by the coordinator; unit 8 stands for the side list. -/
def walkEntry (s : State) (ix : List Byte) (q : List Int) (filt : Bool) (r : PrsRun) (e : SideEntry) : PrsRun :=
  if e.tomb || decide (r.epoch < e.stamp) then r
  else
    let r1 := { r with scored := r.scored + 1 }
    if filt && segBlocked s e.seg then { r1 with filtered := r1.filtered + 1 }
    else
      let c : PlaceCand := ⟨codeDist ix q e.code, e.id, e.list, e.seg, some e.index⟩
      { r1 with cands := tabSet [] r1.cands 8 (keepCand (tabGet [] r1.cands 8) c) }

/-- Whether a tombstone kills a candidate (R390). -/
def killedBy (ts : List SideEntry) (c : PlaceCand) : Bool :=
  ts.any fun t => t.list == c.list && t.id == c.id &&
    match c.side with
    | none => true
    | some i => decide (i < t.index)

/-- The merge. -/
def mergeQuery (s : State) (r : PrsRun) : State :=
  let v := (viewOf s r.epoch).getD (emptyView 0)
  let q := queryVec s r
  let es := (r.lists.map (chainOf s v)).flatten
  let ts := es.filter fun e => e.tomb && decide (e.stamp ≤ r.epoch)
  let r1 := es.foldl (walkEntry s v.index q (qFilt r.job.block)) r
  let k := qK r.job.block
  let margin := min ts.length (1024 - k)
  let capped := decide (1024 - k < ts.length)
  let all := (List.range 9).foldl (fun l u => ((tabGet [] r1.cands u).take (k + margin)).foldl (fun l c => placeCand c l) l) []
  let live := (all.filter fun c => !killedBy ts c).take k
  let r2 : PrsRun := { r1 with flags := Nat.lor r1.flags (2 * capped.toNat) }
  let st : Nat := if r2.flags / 8 % 2 = 1 then 0x26 else if live.length < k then 1 else if r2.flags / 4 % 2 = 1 then 5 else 0
  endQuery s r2 ⟨st, live, (all.filter (killedBy ts)).length, margin, es.length⟩

/-- PRS_QUERY_END: every page of the running query is scanned or skipped. -/
def execPrsQueryEnd (s : State) : Out :=
  fabric s fun s =>
    match s.prs.run with
    | none => s
    | some r =>
      if jobOp r.job ≠ 1 ∨ r.coarseDone = false then s
      else if abortAsked s r.job.owner then endQuery s r (emptyEnd 0x28)
      else if r.pages = [] then mergeQuery s r
      else s

/-! ### INSERT and DELETE (R386 to R388) -/

/-- A side-list entry's 64 bytes. -/
def sideBytes (e : SideEntry) : List Byte :=
  leBytes 4 e.id ++ leBytes 3 e.seg ++ leBytes 1 (if e.tomb then 2 else 1) ++ leBytes 2 e.list ++ leBytes 2 0 ++ leBytes 4 e.prev ++
    leBytes 8 e.stamp ++ leBytes 8 0 ++ padTo 32 e.code

/-- The index of a list's newest entry. -/
def listHead (s : State) (n : Nat) : Nat :=
  match (s.mst.side.filter fun e => e.list == n).getLast? with
  | some e => e.index
  | none => 0xFFFFFFFF

/-- An entry appended to the side list and journaled; none when the list or the journal is full. -/
def appendSide (s : State) (id seg : Nat) (tomb : Bool) (list : Nat) (code : List Byte) : Option State :=
  if 16777216 ≤ s.mst.side.length ∨ rf s R.mstJrnlMax 15 0 < (rd s R.mstJrnlUsed).toNat then none
  else
    let i := s.mst.nextSide
    let e : SideEntry := ⟨i, id, seg, tomb, list, listHead s list, openEpoch s, code⟩
    (appendRecord s (recordBytes 3 0 i (openEpoch s) (sideBytes e))).map fun x =>
      let s1 := addRecord (setMst x.2 fun m => { m with side := m.side ++ [e], nextSide := (i + 1) % 0xFFFFFFFF }) (.side i)
      let s2 := bump s1 (if tomb then R.prsTombs else R.prsInserts)
      syncPrs (if s2.mst.side.length = (rd s2 R.prsSideHigh).toNat then setBits s2 R.prsEvent 2 else s2)

/-- PRS_EVENT.SIDE_FULL when the list is full. -/
def sideFull (s : State) : State := if 16777216 ≤ s.mst.side.length then setBits s R.prsEvent 1 else s

/-- The outcome of a run of entries: words, entries appended, whether one found the list full. -/
structure Appended where
  words : List Nat
  count : Nat
  full : Bool
deriving DecidableEq, Repr

/-- One entry: refused, appended, or, once the list is full, left out. -/
def takeEntry (s : State) (a : Appended) (ok : Bool) (id seg : Nat) (tomb : Bool) (list : Nat) (code : List Byte) :
    State × Appended :=
  if !ok then (s, { a with words := a.words ++ [list + 0x20000] })
  else if a.full then (s, { a with words := a.words ++ [list] })
  else match appendSide s id seg tomb list code with
    | some s1 => (s1, { a with words := a.words ++ [list + 0x10000], count := a.count + 1 })
    | none => (sideFull s, { a with words := a.words ++ [list], full := true })

/-- The end of an INSERT or DELETE. -/
def endEntries (s : State) (j : Job) (a : Appended) (st : Nat) : State :=
  prsReport (jobStore j s (rec8 j.block 24 8) (a.words.map (leBytes 4)).flatten) j st
    (leBytes 4 a.count ++ leBytes 4 (openEpoch s))

/-- The status that keeps the side list from taking entries, if any: the store is stopped or read-only. -/
def sideClosed (s : State) : Option Nat := if mstStatus s 3 then some 0x28 else if mstStatus s 8 then some 0x26 else none

/-- The checks of an INSERT and of a DELETE block. -/
def insertBad (s : State) (b : List Byte) : Option Nat :=
  let n := rec8 b 4 4
  firstBad [(1, zeros b 1 3), (4, decide (1 ≤ n ∧ n ≤ 4096)), (8, zeros b 8 8), (16, engineRange s (rec8 b 16 8) (264 * n)),
    (24, engineRange s (rec8 b 24 8) (4 * n)), (32, zeros b 32 32), (0, !(openIndex s).isEmpty && coarseReady s)]
def deleteBad (s : State) (b : List Byte) : Option Nat :=
  let n := rec8 b 4 4
  firstBad [(1, zeros b 1 3), (4, decide (1 ≤ n ∧ n ≤ 65536)), (8, zeros b 8 8), (16, engineRange s (rec8 b 16 8) (8 * n)),
    (24, engineRange s (rec8 b 24 8) (4 * n)), (32, zeros b 32 32), (0, !(openIndex s).isEmpty)]

/-- The insert entries of the group in hand. -/
def groupEntries (s : State) (r : PrsRun) : List (List Byte) :=
  loadRecs s (rec8 r.job.block 16 8 + 264 * r.group) 264 (min 32 (rec8 r.job.block 4 4 - r.group))

/-- The coarse stage of the group in hand starts. -/
def startGroup (s : State) (r : PrsRun) : State :=
  startCoarse (setPrs s fun p => { p with run := some { r with coarse := none } }) (openIndex s)
    ((groupEntries s r).map fun e => slice e 8 256)

/-- INSERT. -/
def execInsert (s : State) : Out :=
  prsWork 2 (fun _ => true) (fun s j =>
    let b := j.block
    match insertBad s b with
    | some k => prsRefuse s j k
    | none =>
      match sideClosed s with
      | some st => prsReport s j st []
      | none =>
        jobIo s [(rec8 b 16 8, 264 * rec8 b 4 4)] [] (fun s => prsReport s j 0x26 []) fun s =>
        if abortAsked s j.owner then prsReport s j 0x28 []
        else syncPrs (startGroup s (newRun s j (openEpoch s)))) s

/-- Whether an insert entry is not refused (R387). DESIGN CHOICE, log entry 19: a non-zero byte 7 refuses the entry, not the job. -/
def insertEntryOk (e : List Byte) : Bool := rec8 e 0 4 != 0xFFFFFFFF && rec8 e 7 1 == 0

/-- The entries of a group appended in order, each with the list chosen for its row. -/
def insertGroup (ix : List Byte) : List (List Byte × Nat) → State → Appended → State × Appended
  | [], s, a => (s, a)
  | (e, list) :: t, s, a =>
    let (s1, a1) := takeEntry s a (insertEntryOk e) (rec8 e 0 4) (rec8 e 4 3) false list (encode ix (sbytes e 8 256))
    insertGroup ix t s1 a1

/-- The entries of a group with the list of greatest score of each (R387). -/
def rowLists (s : State) (ix : List Byte) (es : List (List Byte)) : List (List Byte × Nat) :=
  (es.zip (List.range es.length)).map fun e => (e.1, (chosenLists s ix e.2 1).headD 0)

/-- The words of entries that come after the list was found full, in groups without a coarse stage: their list is open. -/
def restWords : List (List Byte) → State → Appended → State × Appended
  | [], s, a => (s, a)
  | e :: t, s, a =>
    let (k, s1) := drawNat s
    let (s2, a1) := takeEntry s1 a (insertEntryOk e) 0 0 false (k % 65536) []
    restWords t s2 a1

/-- The end of the coarse stage of an INSERT's group. A job asked to abort stops after an entry that the spec leaves open; a
coarse stage of OK_DEGRADED degrades the job (R33). -/
def insertCoarse (s : State) (r : PrsRun) (st : Nat) : State :=
  let a0 : Appended := ⟨r.words, r.appended, false⟩
  let es := groupEntries s r
  let next := r.group + es.length
  let n := rec8 r.job.block 4 4
  let ix := openIndex s
  let rows := rowLists s ix es
  let r := if st = 5 then { r with flags := Nat.lor r.flags 4 } else r
  if s.mst.write.isSome then s
  else if 0x20 ≤ st then endEntries s r.job a0 st
  else match sideClosed s with
    | some c => endEntries s r.job a0 c
    | none =>
      if abortAsked s r.job.owner then
        let (k, s1) := drawNat s
        let (s2, a) := insertGroup ix (rows.take (k % (es.length + 1))) s1 a0
        endEntries s2 r.job a 0x28
      else
        let (s1, a) := insertGroup ix rows s a0
        if a.full then
          let (s2, b) := restWords (loadRecs s (rec8 r.job.block 16 8 + 264 * next) 264 (n - next)) s1 a
          endEntries s2 r.job b 1
        else if n ≤ next then endEntries s1 r.job a (if r.flags / 4 % 2 = 1 then 5 else 0)
        else startGroup s1 { r with group := next, words := a.words, appended := a.count }

/-- PRS_COARSE_END: the coarse tile job has ended. -/
def execPrsCoarseEnd (s : State) : Out :=
  fabric s fun s =>
    match s.prs.run with
    | none => s
    | some r =>
      match r.coarse with
      | none => s
      | some st =>
        if r.coarseDone then s
        else if jobOp r.job = 1 then queryCoarse s r st
        else insertCoarse s r st

/-- Delete entries in order. -/
def deleteEntries (c : Nat) : List (List Byte) → State → Appended → State × Appended
  | [], s, a => (s, a)
  | e :: t, s, a =>
    let ok := rec8 e 0 4 != 0xFFFFFFFF && decide (rec8 e 4 2 < c) && zeros e 6 2
    let (s1, a1) := takeEntry s a ok (rec8 e 0 4) 0 true (rec8 e 4 2) []
    deleteEntries c t s1 a1

/-- PRS_DELETE; it waits while a COMMIT, PIN or UNPIN holds the write lane. -/
def execPrsDelete (s : State) : Out :=
  if s.mst.write.isSome then .next s
  else prsWork 3 (fun _ => true) (fun s j =>
    let b := j.block
    match deleteBad s b with
    | some k => prsRefuse s j k
    | none =>
      match sideClosed s with
      | some st => prsReport s j st []
      | none =>
        jobIo s [(rec8 b 16 8, 8 * rec8 b 4 4)] [] (fun s => prsReport s j 0x26 []) fun s =>
          let es := loadRecs s (rec8 b 16 8) 8 (rec8 b 4 4)
          let (k, s0) := drawNat s
          let ab := abortAsked s j.owner
          let (s1, a) := deleteEntries (ixC (openIndex s)) (if ab then es.take (k % es.length + 1) else es) s0 ⟨[], 0, false⟩
          endEntries s1 j a (if ab then 0x28 else if a.full then 1 else 0)) s

/-! ### FILTER (R393) -/

/-- The last bit plus one. -/
def filterEnd : Nat := 2 ^ 24

/-- A run of bits taken out of the runs of 0. -/
def allowRange (a b : Nat) : List (Nat × Nat) → List (Nat × Nat)
  | [] => []
  | (x, y) :: t =>
    (if x < min y a then [(x, min y a)] else []) ++ (if max x b < y then [(max x b, y)] else []) ++ allowRange a b t

/-- A run of bits put among the runs of 0, which have nothing in it; runs that touch become one. -/
def insertRun (a b : Nat) : List (Nat × Nat) → List (Nat × Nat)
  | [] => [(a, b)]
  | (x, y) :: t => if y < a then (x, y) :: insertRun a b t
    else if y = a then insertRun x b t
    else if x = b then (a, y) :: t
    else (a, b) :: (x, y) :: t
def blockRange (a b : Nat) (l : List (Nat × Nat)) : List (Nat × Nat) := insertRun a b (allowRange a b l)

/-- A FILTER job with operation `op`; an operation the coordinator does not know is refused by each. DEDUCED, log entry 19: FIRST
and COUNT are fields of the operations on a range alone. -/
def filterJob (op : Nat) (f : Nat → Nat → List (Nat × Nat) → List (Nat × Nat)) (s : State) : Out :=
  prsWork 4 (fun b => rec8 b 1 1 == op || decide (3 < rec8 b 1 1)) (fun s j =>
    let b := j.block
    let a := rec8 b 4 4
    let n := rec8 b 8 4
    let range := decide (op < 2) || (decide (1 ≤ n ∧ n ≤ filterEnd) && decide (a + n ≤ filterEnd))
    match firstBad [(1, rec8 b 1 1 == op), (2, zeros b 2 2), (4, range), (12, zeros b 12 4), (16, zeros b 16 48)] with
    | some k => prsRefuse s j k
    | none =>
      if abortAsked s j.owner then prsReport s j 0x28 []
      else prsReport (setPrs s fun p => { p with blocked := f a (a + n) p.blocked }) j 0 []) s

/-- FILTER_SET_ALL, FILTER_CLEAR_ALL, FILTER_SET_RANGE, FILTER_CLEAR_RANGE. -/
def execFilterSetAll (s : State) : Out := filterJob 0 (fun _ _ _ => []) s
def execFilterClearAll (s : State) : Out := filterJob 1 (fun _ _ _ => [(0, filterEnd)]) s
def execFilterSetRange (s : State) : Out := filterJob 2 allowRange s
def execFilterClearRange (s : State) : Out := filterJob 3 blockRange s

/-! ### DEFINE (R379) -/

/-- Whether a list version holds an item. -/
def versionHolds (s : State) (e : Nat × ListVer) : Bool := e.2.pages.any fun p => !(validItems s p).isEmpty

/-- The checks of an image whose header lies in memory. -/
def imageOk (s : State) (a : Nat) : Bool :=
  let c := ldN s a 4
  let im := ldBytes s a (ixSize c)
  engineRange s a 64 && decide (1 ≤ c ∧ c ≤ 65536) && engineRange s a (ixSize c) && decide (ixTsh im ≤ 4) && decide (ixDsh im ≤ 5) &&
    zeros im 6 54 && rec8 im 60 4 == crc32c (im.take 60 ++ im.drop 64) && s.mst.side.isEmpty &&
    !(s.mst.views.any fun v => retained s v.epoch && v.lists.any (versionHolds s))

/-- DEFINE: the image is checked and journaled in the open epoch. -/
def execDefine (s : State) : Out :=
  if s.mst.write.isSome then .next s
  else prsWork 5 (fun _ => true) (fun s j =>
    let b := j.block
    let a := rec8 b 16 8
    match firstBad [(1, zeros b 1 15), (16, imageOk s a), (24, zeros b 24 40)] with
    | some k => prsRefuse s j k
    | none =>
      match sideClosed s with
      | some st => prsReport s j st []
      | none =>
        jobIo s [(a, ixSize (ldN s a 4))] [] (fun s => prsReport s j 0x26 []) fun s =>
        if abortAsked s j.owner then prsReport s j 0x28 []
        else
          let im := ldBytes s a (ixSize (ldN s a 4))
          if rf s R.mstJrnlMax 15 0 < (rd s R.mstJrnlUsed).toNat then prsReport s j 0x26 []
          else match appendParts s 4 0 im with
            | some s1 => prsReport (addRecord s1 (.index im)) j 0 []
            | none => prsReport s j 0x26 []) s

/-- A fault of a schuss unit ends the running query (R480). -/
def placeFault (s : State) : State :=
  match s.prs.run with
  | some r => if jobOp r.job = 1 then endQuery s r (emptyEnd 0x26) else s
  | none => s

end Sys2Proof.Machine
end

