-- ==== Sys2Proof/Machine/Rings.lean ====
section
/-! DEFINITION. The host interface beside its descriptors: doorbells, fetch, ring set-up, MSI-X, the debug window, link and
PCIe resets (R443 to R453, R464, R465, R472, R474, R552, R554). -/

namespace Sys2Proof.Machine

/-- A HIF_ERR bit with ring and offset; the error vector is sent when HIF_ERR leaves 0 (R473). -/
def hifErr (s : State) (b ring off : Nat) : State :=
  let s1 := errInfo s R.hifErr b R.hifErrInfo (BitVec.ofNat 32 (ring % 64 * 65536 + off % 65536))
  if rd s R.hifErr = 0 ∧ rb s R.hifErrVec 31 = true then msixSend s1 (rf s R.hifErrVec 6 0) else s1

/-- SQ `k` is enabled; its size, head and tail. -/
def sqEn (s : State) (k : Nat) : Bool := rb s (R.hifSqCfg k) 31
def sqSize (s : State) (k : Nat) : Nat := 2 ^ rf s (R.hifSqCfg k) 4 0
def sqHead (s : State) (k : Nat) : Nat := rf s (R.hifSqStatus k) 15 0
def sqTail (s : State) (k : Nat) : Nat := rf s (R.hifSqTail k) 15 0

/-! ### Doorbells (R447, R448, R465) -/

/-- SQ_TAIL_DOORBELL: a good index becomes the tail. -/
def execSqTailDoorbell (k : Fin 64) (v : Word) (s : State) : Out :=
  fabric s fun s =>
    if sqEn s k.val && decide (fld v 15 0 < sqSize s k.val) then wf s (R.hifSqTail k.val) 15 0 (fld v 15 0)
    else hifErr s 2 k.val 0

/-- Whether an index lies from the head of CQ `k` up to its tail. -/
def cqIndexOk (s : State) (k i : Nat) : Bool :=
  let n := cqSize s k
  decide (i < n) && decide ((i + n - cqHead s k) % n ≤ (cqTail s k + n - cqHead s k) % n)

/-- The head moved to `i`: the entries passed leave, the ring is armed and evaluated at once. -/
def takeHead (s : State) (k i : Nat) : State :=
  let n := cqSize s k
  let c := cqOf s k
  let s1 := setCq (wf s (R.hifCqHead k) 15 0 i) k { c with entries := c.entries.drop ((i + n - cqHead s k) % n), doorbell := s.dt.now }
  cqEvaluate (syncFull (setBits s1 (R.hifCqStatus k) (bitW 29)) k) k

/-- CQ_HEAD_DOORBELL. -/
def execCqHeadDoorbell (k : Fin 64) (v : Word) (s : State) : Out :=
  fabric s fun s =>
    if cqEn s k.val && cqIndexOk s k.val (fld v 15 0) then takeHead s k.val (fld v 15 0) else hifErr s 2 k.val 4

/-- CQ_COALESCE_TIMER: TIME has passed for an armed ring with a pending entry. -/
def execCqCoalesceTimer (k : Fin 64) (s : State) : Out :=
  fabric s fun s => if cqTimed s k.val then cqEvaluate s k.val else s

/-- Runs kept in flight by a full hold store leave while it has room (R222). -/
def leaveRuns (s : State) : State :=
  (s.fgs.runs.filter Run.recorded).foldl (fun st r => match graphOf st r.graph with | some g => runLeave st g r | none => st) s

/-- COMPLETION_HOLD_RELEASE: held completions are written while the ring has room; completions that wait in the sequencer
follow them (R222, R450). -/
def execCompletionHoldRelease (k : Fin 64) (s : State) : Out :=
  fabric s fun s => leaveRuns (releaseHeld s.hif.hold.length s k.val)

/-! ### Fetch (R448, R449, R453) -/

/-- The descriptors of SQ `k` fetched ahead of its dispatch point. -/
def fetchedAhead (s : State) (k : Nat) : Nat := (s.hif.descs.filter fun d => d.sq == k && decide (d.stage = .fetched)).length

/-- Whether SQ `k` may fetch its next entry. -/
def mayFetch (s : State) (k : Nat) : Bool :=
  rb s R.hifCtrl 0 && sqEn s k && sqHead s k != sqTail s k && decide (fetchedAhead s k < 4)

/-- The host address of the entry at the head of SQ `k`. -/
def sqEntry (s : State) (k : Nat) : Nat := (rd64 s (R.hifSqBaseLo k) (R.hifSqBaseHi k)).toNat + 64 * sqHead s k

/-- A descriptor as it is fetched. -/
def newDesc (s : State) (k : Nat) : Desc where
  id := s.hif.nextDesc
  sq := k
  cq := rf s (R.hifSqCfg k) 21 16
  bytes := ldBytes s (hostBase + sqEntry s k) 64
  stage := .fetched
  gateLost := false
  heldAt := 0
  lost := false
  status := 0
  result := []
  endDt := 0
  noSignal := false

/-- The entry is copied into the device and the head advances past it. -/
def fetchEntry (s : State) (k : Nat) : State :=
  let s1 := { s with hif := { s.hif with descs := s.hif.descs ++ [newDesc s k], nextDesc := s.hif.nextDesc + 1 } }
  let s2 := wf s1 (R.hifSqStatus k) 15 0 ((sqHead s k + 1) % sqSize s k)
  syncSq (bumpWrap s2 (R.hifSqFetched k)) k

/-- A fetch that fails stops the SQ (R449). -/
def fetchFail (s : State) (k : Nat) : State :=
  hifErr (syncSq (clrBits s (R.hifSqCfg k) (bitW 31)) k) 3 k (0x1008 + 0x20 * k)

/-- The priority class of SQ `k`, and how far it stands behind the ring its class served last. -/
def sqClass (s : State) (k : Nat) : Nat := rf s (R.hifSqCfg k) 29 28
def sqAfter (s : State) (turn : List Nat) (k : Nat) : Nat := (k + 63 - turn.getD (sqClass s k) 63) % 64

/-- The SQ that a slot serves, of those that contend for it: the highest class, within a class the rings in turn (R453). -/
def sqServed (s : State) (turn : List Nat) (l : List Nat) : Option Nat :=
  l.foldl (fun o k => match o with
    | none => some k
    | some q => if sqClass s q < sqClass s k ∨ (sqClass s q = sqClass s k ∧ sqAfter s turn k < sqAfter s turn q) then some k else some q) none

/-- The read of the entry at the head of SQ `k` completes. -/
def fetchFrom (s : State) (k : Nat) (ok : Bool) : State :=
  let s1 := { s with hif := { s.hif with fetchTurn := s.hif.fetchTurn.set (sqClass s k) k } }
  if ok && !poisoned s (hostBase + sqEntry s k) 64 then fetchEntry s1 k else fetchFail s1 k

/-- DESCRIPTOR_FETCH: the read of a head entry completes; `ok` says whether without error or timeout. A poisoned line is an
error as well. Of the SQs that contend for the slot with SQ `k` one is served. -/
def execDescriptorFetch (k : Fin 64) (ok : Bool) (rivals : List (Fin 64)) (s : State) : Out :=
  fabric s fun s =>
    match sqServed s s.hif.fetchTurn ((k.val :: rivals.map Fin.val).filter (mayFetch s)) with
    | some q => fetchFrom s q ok
    | none => s

/-! ### Ring set-up (R446, R452, R474) -/

/-- The checks of R446 on size exponent, base and last byte of a ring of entries of `e` bytes. -/
def ringOk (size base e : Nat) : Bool :=
  decide (4 ≤ size) && decide (size ≤ 16) && decide (base < 2 ^ 47) && decide (base + 2 ^ size * e ≤ 2 ^ 47)

/-- An SQ enabled: head and tail 0. -/
def enableSq (s : State) (k : Nat) (v : Word) : State :=
  syncSq (wf (wf (wr s (R.hifSqCfg k) v) (R.hifSqStatus k) 15 0 0) (R.hifSqTail k) 15 0 0) k

/-- SQ_CONFIG_WRITE. -/
def execSqConfigWrite (k : Fin 64) (v : Word) (s : State) : Out :=
  fabric s fun s =>
    let w := v &&& 0xB03F001F
    let off := 0x1008 + 0x20 * k.val
    let base := (rd64 s (R.hifSqBaseLo k.val) (R.hifSqBaseHi k.val)).toNat
    if sqEn s k.val then
      (if bit v 31 then hifErr s 1 k.val off else syncSq (wr s (R.hifSqCfg k.val) w) k.val)
    else if !bit v 31 then wr s (R.hifSqCfg k.val) w
    else if rb s (R.hifSqStatus k.val) 31 then hifErr s 1 k.val off
    else if ringOk (fld v 4 0) base 64 && cqEn s (fld v 21 16) then enableSq s k.val w
    else hifErr s 0 k.val off

/-- Whether an enabled SQ names CQ `k`. -/
def cqNamed (s : State) (k : Nat) : Bool := (List.range 64).any fun q => sqEn s q && rf s (R.hifSqCfg q) 21 16 == k

/-- A CQ enabled: head and tail 0, phase 1, armed. -/
def enableCq (s : State) (k : Nat) (v : Word) : State :=
  let s1 := wr (wr (wr s (R.hifCqCfg k) v) (R.hifCqStatus k) 0xA0000000) (R.hifCqHead k) 0
  syncFull (setCq s1 k ⟨[], s.dt.now, none⟩) k

/-- CQ_CONFIG_WRITE. -/
def execCqConfigWrite (k : Fin 64) (v : Word) (s : State) : Out :=
  fabric s fun s =>
    let w := v &&& 0xC07F001F
    let off := 0x2008 + 0x20 * k.val
    let base := (rd64 s (R.hifCqBaseLo k.val) (R.hifCqBaseHi k.val)).toNat
    if cqEn s k.val then
      (if bit v 31 || cqNamed s k.val then hifErr s 1 k.val off
       else
        let s1 := clrBits (wr s (R.hifCqCfg k.val) w) (R.hifCqStatus k.val) (bitW 29)
        releaseHeld s1.hif.hold.length s1 k.val)
    else if !bit v 31 then wr s (R.hifCqCfg k.val) w
    else if ringOk (fld v 4 0) base 32 then enableCq s k.val w
    else hifErr s 0 k.val off

/-- A configuration write of the pose or event ring: its register, mask, base registers, entry size. -/
def outRingWrite (s : State) (cfg lo hi e : Nat) (mask v : Word) : State :=
  let off := cfg % 65536
  if rb s cfg 31 then (if bit v 31 then hifErr s 1 0 off else wr s cfg (v &&& mask))
  else if !bit v 31 then wr s cfg (v &&& mask)
  else if ringOk (fld v 4 0) (rd64 s lo hi).toNat e then wr s cfg (v &&& mask)
  else hifErr s 0 0 off

/-- POSE_RING_CONFIG_WRITE. -/
def execPoseRingConfigWrite (v : Word) (s : State) : Out :=
  fabric s fun s => outRingWrite s R.hifPoseCfg R.hifPoseLo R.hifPoseHi 128 0x807FFF1F v

/-- EVT_RING_CONFIG_WRITE. -/
def execEvtRingConfigWrite (v : Word) (s : State) : Out :=
  fabric s fun s => outRingWrite s R.hifEvtCfg R.hifEvtLo R.hifEvtHi 32 0x807F001F v

/-! ### MSI-X (R464) -/

/-- A vector unmasked: a pending message is sent. -/
def unmaskVec (s : State) (v : Nat) : State :=
  let s1 := clrBits s (R.hifMsixTable (4 * v + 3)) 1
  if rb s (R.hifMsixPba (v / 32)) (v % 32) then msixSend (clrBits s1 (R.hifMsixPba (v / 32)) (bitW (v % 32))) v else s1

/-- MSIX_UNMASK. -/
def execMsixUnmask (vec : Fin 128) (s : State) : Out := fabric s fun s => unmaskVec s vec.val

/-! ### The debug window (R445) -/

/-- Size of BAR4. -/
def bar4Size : Nat := 0x4000000

/-- The device address of a BAR4 offset. -/
def winAddr (s : State) (off : Nat) : Nat := rf s R.hifWinBase 21 0 * 0x4000000 + off

/-- Whether `n` bytes from a device address lie in the slab or in usable GDDR6. -/
def inDebugWindow (s : State) (a n : Nat) : Bool :=
  (decide (slabBase ≤ a) && decide (a + n ≤ slabBase + 0x3000000)) ||
    (decide (gdrBase ≤ a) && decide (a + n ≤ gdrBase + gdrBytes s))

/-- The data of a BAR4 read: the bytes at the address, what an access refused in GLIDE returns being open (R507). -/
def windowRead (s : State) (a n : Nat) : State :=
  if glideRefused s a n then
    let (v, s1) := drawNat (glideErr s)
    { s1 with rdata := BitVec.ofNat 64 v }
  else { noteReads s [(a, n)] with rdata := BitVec.ofNat 64 (ldN s a n) }

/-- BAR4_ACCESS: refused in secure mode and outside slab and GDDR6; otherwise a read or a write at the device address. -/
def execBar4Access (off : Nat) (acc : Bar4Access) (s : State) : Out :=
  fabric s fun s =>
    let zero := fun (st : State) => match acc with
      | .read _ => { st with rdata := 0 }
      | .write _ => st
    let n := match acc with
      | .read n => n
      | .write bs => bs.length
    if bar4Size ≤ off then s
    else if rb s R.glbStatus 4 then glbErr (zero s) 3 off
    else if !inDebugWindow s (winAddr s off) n then hifErr (zero s) 4 0 (off % 65536)
    else match acc with
      | .read n => windowRead s (winAddr s off) (min n 8)
      | .write bs => stBytes s (winAddr s off) bs

/-! ### Link and PCIe resets (R472, R552, R554) -/

/-- A descriptor that a link down leaves in the device: work already dispatched, its completion to be discarded. -/
def keepDispatched (d : Desc) : Option Desc :=
  if d.stage = .dispatched ∨ d.stage = .ended ∨ d.stage = .signalled then some { d with lost := true } else none

/-- The waits of the descriptors that are dropped end. -/
def dropDescWaits (s : State) : State :=
  s.hif.descs.foldl (fun st d => dropWaits st (.descriptor d.id)) s

/-- R472: every HIF register but HIF_DISCARD_CNT at its reset value, every ring off, what is not dispatched dropped, held
completions discarded and counted. -/
def hifReset (s : State) : State :=
  let s1 := dropDescWaits s
  let keep := rd s R.hifDiscardCnt
  let s2 := { s1 with
    regs := s1.regs.filter (fun e => decide (e.1 / 65536 ≠ 0x30))
    evtNext := 0
    hif := { s1.hif with descs := s1.hif.descs.filterMap keepDispatched, cq := [], hold := [] } }
  bumpN (wr s2 R.hifDiscardCnt keep) R.hifDiscardCnt s.hif.hold.length

/-- PCIE_RESET: PERST_N, a link down or a Function Level Reset; source 387 rises. -/
def execPcieReset (kind : PcieReset) (s : State) : Out :=
  let s1 := match kind with
    | .perst => { s with aon := { s.aon with perstLow := true } }
    | .linkDown | .functionLevel => s
  .next (if s.up then raiseEdge (hifReset s1) 387 else s1)

/-- PERST_RELEASE: PERST_N rises; link training starts. -/
def execPerstRelease (s : State) : Out := .next { s with aon := { s.aon with perstLow := false } }

/-- LINK_UP: training completes at a speed (1 to 5) and a width, which LANE_CFG limits to 4 lanes (R443). -/
def execLinkUp (speed : Nat) (width : Nat) (s : State) : Out :=
  fabric s fun s =>
    if s.aon.perstLow ∨ speed < 1 ∨ 5 < speed ∨ width < 1 ∨ 8 < width then s
    else
      let w := if s.straps.getLsbD 3 then min width 4 else width
      wf (wf (setBits s R.hifStatus 1) R.hifStatus 23 20 speed) R.hifStatus 19 16 w

end Sys2Proof.Machine
end

