-- ==== Sys2Proof/Machine/Descriptors.lean ====
section
/-! DEFINITION. Descriptors: header checks, dispatch, completion, and every opcode but LOAD and UNLOAD (R454 to R463). -/

namespace Sys2Proof.Machine

/-! ### The header (R454) -/

/-- Fields of the common header. -/
def dOpcode (d : Desc) : Nat := rec8 d.bytes 0 2
def dCtx (d : Desc) : Nat := rec8 d.bytes 2 1
def dFlag (d : Desc) (b : Nat) : Bool := rec8 d.bytes 3 1 / 2 ^ b % 2 == 1
def dTag (d : Desc) : Nat := rec8 d.bytes 4 4
def dDeadline (d : Desc) : Nat := rec8 d.bytes 8 8
def dWait (d : Desc) : Nat := rec8 d.bytes 16 2
def dSignal (d : Desc) : Nat := rec8 d.bytes 18 2
def dGate (d : Desc) : Nat := rec8 d.bytes 28 4

/-- The opcodes of the opcode table. -/
def knownOpcode (o : Nat) : Bool :=
  [0x0000, 0x0001, 0x0010, 0x0011, 0x0020, 0x0021, 0x0030, 0x0031, 0x0040, 0x0050, 0x0060, 0x0070].contains o

/-- The byte offset of the first header field that fails its check. -/
def descHeaderBad (d : Desc) : Option Nat :=
  firstBad [(0, knownOpcode (dOpcode d)), (2, decide (dCtx d < 16)), (3, decide (rec8 d.bytes 3 1 < 16)), (16, semFieldOk (dWait d)),
    (18, semFieldOk (dSignal d)), (28, dGate d == 0xFFFFFFFF || (decide (32 ≤ dGate d) && decide (dGate d ≤ 511)))]

/-! ### Moving a descriptor through its holds (R455) -/

/-- The work of descriptor `d` ends in the HIF itself. -/
def endDesc (s : State) (d : Desc) (st : Nat) (res : List Byte) : State := syncSq (finish s (.descriptor d.id) st res) d.sq

/-- Descriptor `d` at a stage. -/
def stageDesc (s : State) (d : Desc) (g : DescStage) : State := syncSq (setDesc s d.id fun x => { x with stage := g }) d.sq

/-- Whether a stage lies before the hand-over to a unit. -/
def beforeUnit (g : DescStage) : Bool := decide (g ≠ .dispatched ∧ g ≠ .ended ∧ g ≠ .signalled)

/-- The descriptor at the dispatch point of SQ `k`. -/
def headDesc (s : State) (k : Nat) : Option Desc := s.hif.descs.find? fun d => d.sq == k && beforeUnit d.stage

/-- Whether the work of an earlier descriptor of its SQ has not ended with its signal applied (R455, FENCE). -/
def fenceBlocked (s : State) (d : Desc) : Bool :=
  s.hif.descs.any fun x => x.sq == d.sq && decide (x.id < d.id) && decide (x.stage ≠ .signalled)

/-- The wait step. -/
def waitStep (s : State) (d : Desc) : State :=
  if dWait d = 0xFFFF then stageDesc s d .waited
  else
    let expiry := if dDeadline d = 0 then none else some (dDeadline d)
    stageDesc (startWait s (.descriptor d.id) (dWait d % 4096) (BitVec.ofNat 32 (rec8 d.bytes 20 4)) (dFlag d 0) expiry) d .waitHold

/-- The gate step. -/
def gateStep (s : State) (d : Desc) : State :=
  if dGate d = 0xFFFFFFFF then waitStep s d
  else if gateArmed s (dGate d) then stageDesc (setDesc s d.id fun x => { x with heldAt := s.dt.now }) d .gateHold
  else endDesc s d 0x23 []

/-- The fence step. -/
def fenceStep (s : State) (d : Desc) : State :=
  if dFlag d 2 && fenceBlocked s d then stageDesc s d .fenceHold else gateStep s d

/-- The header check, then the fence step; a descriptor that fails the check waits for nothing and applies no signal. -/
def checkStep (s : State) (d : Desc) : State :=
  match descHeaderBad d with
  | some b => endDesc (setDesc s d.id fun x => { x with noSignal := true }) d 0x23 (leBytes 2 b)
  | none => fenceStep s d

/-- The outcome of a wait, taken from where SEM_POLL left it. -/
def takeOutcome (s : State) (o : Waiting) : Option Bool × State :=
  match s.sem.done.find? (fun e => decide (e.1 = o)) with
  | some e => (some e.2, { s with sem := { s.sem with done := s.sem.done.filter fun x => decide (x.1 ≠ o) } })
  | none => (none, s)

/-- A descriptor waiting on its semaphore goes on when the wait has succeeded, and ends when it has expired. -/
def waitDone (s : State) (d : Desc) : State :=
  match takeOutcome s (.descriptor d.id) with
  | (some true, s1) => stageDesc s1 d .waited
  | (some false, s1) => endDesc s1 d 0x20 []
  | (none, s1) => s1

/-- Whether the descriptor at the dispatch point of SQ `k` can go on. An SQ whose completion ring is full does not dispatch while
the hold store is full (R450). -/
def mayDispatch (s : State) (k : Nat) : Bool :=
  match headDesc s k with
  | none => false
  | some d => cqRoom s d.cq && match d.stage with
    | .fetched | .gateFired => true
    | .fenceHold => !fenceBlocked s d
    | .gateHold => d.gateLost
    | .waitHold => s.sem.done.any fun e => decide (e.1 = .descriptor d.id)
    | _ => false

/-- The descriptor at the dispatch point of SQ `k` goes as far as it can. -/
def dispatchSq (s : State) (k : Nat) : State :=
  match headDesc s k with
  | none => s
  | some d => match d.stage with
    | .fetched => checkStep s d
    | .fenceHold => fenceStep s d
    | .gateHold => if d.gateLost then endDesc s d 0x28 [] else s
    | .gateFired => waitStep s d
    | .waitHold => waitDone s d
    | _ => s

/-- DESCRIPTOR_DISPATCH: of the SQs that contend for the slot with SQ `k`, the one that is served dispatches (R453, R455). -/
def execDescriptorDispatch (k : Fin 64) (rivals : List (Fin 64)) (s : State) : Out :=
  fabric s fun s =>
    match sqServed s s.hif.dispatchTurn ((k.val :: rivals.map Fin.val).filter (mayDispatch s)) with
    | some q => dispatchSq { s with hif := { s.hif with dispatchTurn := s.hif.dispatchTurn.set (sqClass s q) q } } q
    | none => s

/-- The unit code that an opcode hands to, for the opcodes that a unit's queue takes. -/
def queueCode (o : Nat) : Option Nat :=
  match o with
  | 0x0040 => some 0x11
  | 0x0050 => some 0x13
  | 0x0060 => some 0x14
  | 0x0070 => some 0x15
  | _ => none

/-- Whether the queue of a unit is full (R218). -/
def queueFull (s : State) (u : Nat) : Bool := decide (8 ≤ (queueOf s u).length)

/-- Whether descriptor `d` is held now, other than by its semaphore wait, whose expiry its poll decides (R81, R82). -/
def heldNow (s : State) (d : Desc) : Bool :=
  match d.stage with
  | .fenceHold | .gateHold => true
  | .waited => match queueCode (dOpcode d) with
    | some u => queueFull s u
    | none => false
  | _ => false

/-- DESCRIPTOR_DEADLINE: the descriptor at the dispatch point reaches its deadline while it is held. -/
def execDescriptorDeadline (k : Fin 64) (s : State) : Out :=
  fabric s fun s =>
    match headDesc s k.val with
    | none => s
    | some d =>
      if d.stage = .waitHold then waitDone s d
      else if dDeadline d ≠ 0 ∧ dDeadline d ≤ s.dt.now.toNat ∧ heldNow s d = true then endDesc s d 0x20 []
      else s

/-! ### Completion (R456, R457) -/

/-- Step 1 of R456: whether the signal is applied. -/
def signals (d : Desc) : Bool :=
  !d.noSignal && (decide (d.status < 0x20) || dFlag d 1) && dSignal d != 0xFFFF

/-- The signal of a descriptor whose work has ended. -/
def signalStep (s : State) (d : Desc) : State :=
  let s1 := if signals d then signal s 10 (dSignal d) (BitVec.ofNat 32 (rec8 d.bytes 24 4)) else s
  setDesc s1 d.id fun x => { x with stage := .signalled }

/-- The descriptor's completion. -/
def descCompletion (d : Desc) : Completion :=
  ⟨d.cq, some d.sq, dTag d, d.status, signals d, d.endDt, d.result, dFlag d 3⟩

/-- Steps 2 and 3: the completion leaves when its ring or the hold store has room; after a link down it is discarded and
counted (R450, R472). -/
def leaveStep (s : State) (d : Desc) : State :=
  let drop := fun (st : State) => { st with hif := { st.hif with descs := st.hif.descs.filter fun x => x.id != d.id } }
  if d.lost then syncSq (bump (drop s) R.hifDiscardCnt) d.sq
  else if cqRoom s d.cq then syncSq (postCompletion (drop s) (descCompletion d)) d.sq
  else syncSq s d.sq

/-- DESCRIPTOR_COMPLETE: signal, completion, message. -/
def execDescriptorComplete (d : Nat) (s : State) : Out :=
  fabric s fun s =>
    match findDesc s d with
    | none => s
    | some x =>
      if x.stage = .ended then leaveStep (signalStep s x) x
      else if x.stage = .signalled then leaveStep s x
      else s

/-! ### Opcodes (R458 to R462) -/

/-- Descriptor `d`, when it is past its waits and carries opcode `o`. -/
def handed (s : State) (d o : Nat) : Option Desc :=
  (findDesc s d).bind fun x => if x.stage = .waited ∧ dOpcode x = o ∧ cqRoom s x.cq = true then some x else none

/-- Run `f` on a descriptor that is ready for opcode `o`. -/
def onDesc (s : State) (d o : Nat) (f : Desc → State) : Out :=
  fabric s fun s0 => match handed s0 d o with
    | some x => f x
    | none => s0

/-- Reserved bytes of a descriptor are 0. -/
def dZero (d : Desc) (off n : Nat) : Bool := zeros d.bytes off n

/-- Whether context `c` is loaded. -/
def ctxLoaded (s : State) (c : Nat) : Bool := (tabGet none s.memx.ctx c).isSome

/-- NOP. -/
def execNop (d : Nat) (s : State) : Out :=
  onDesc s d 0x0000 fun x => endDesc s x (if dZero x 32 32 then 0 else 0x23) []

/-- The layout of a CONFIG. -/
def configForm (x : Desc) : Bool := dZero x 34 6 && dZero x 48 16

/-- The signed value of a CONFIG. -/
def configValue (x : Desc) : Int := recS x.bytes 40 8

/-- CONFIG of parameter `p` with range, previous value and setter; an unknown parameter is refused. -/
def configOp (s : State) (x : Desc) (p : Nat) (lo hi prev : Int) (set : Int → State) : State :=
  let q := rec8 x.bytes 32 2
  if q = p then
    (if configForm x && decide (lo ≤ configValue x) && decide (configValue x ≤ hi) then
      endDesc (set (configValue x)) x 0 (leBytesI 8 prev)
     else endDesc s x 0x23 [])
  else if q = 1 ∨ q = 2 then s
  else endDesc s x 0x23 []

/-- CONFIG_PTP_ASYM. -/
def execConfigPtpAsym (d : Nat) (s : State) : Out :=
  onDesc s d 0x0001 fun x => configOp s x 1 (-1000000) 1000000 s.ptp.asym fun v => { s with ptp := { s.ptp with asym := v } }

/-- CONFIG_PTP_ANN_TMO. -/
def execConfigPtpAnnTmo (d : Nat) (s : State) : Out :=
  onDesc s d 0x0001 fun x => configOp s x 2 2 10 s.ptp.annTmo fun v => { s with ptp := { s.ptp with annTmo := v.toNat } }

/-- LAUNCH: an accepted launch ends with its run, a refused one with ERR_ABORTED (R214, R462). A refusal also shows in the
sequencer's registers as R224 has them; DEDUCED: FGS_ERR.LAUNCH for the first three tests of R214, with start gate 0, the OVR
counter and event for the last two, as a start gate's launch has it. -/
def execLaunch (d : Nat) (s : State) : Out :=
  onDesc s d 0x0020 fun x =>
    let g := rec8 x.bytes 32 1
    if !dZero x 33 31 || decide (64 ≤ g) || !ctxLoaded s (dCtx x) then endDesc s x 0x23 []
    else match launchTest s g (dCtx x) with
      | .accepted => createRun (stageDesc s x .dispatched) g 1 (dTag x) (some x.id)
      | .failed => endDesc (fgsErr s 0 g 0) x 0x28 []
      | .overrun => endDesc (launchOverrun s g) x 0x28 []

/-- ABORT (R223, R225, R458). -/
def execAbort (d : Nat) (s : State) : Out :=
  onDesc s d 0x0021 fun x =>
    let g := rec8 x.bytes 32 1
    if !dZero x 33 31 || decide (64 ≤ g) then endDesc s x 0x23 []
    else if (graphOf s g).isNone then endDesc (fgsErr s 1 g 0) x 0x23 []
    else
      let (s1, n) := abortGraph (stageDesc s x .dispatched) g
      endDesc s1 x 0 (leBytes 4 n)

/-- The gate entry that an ARM writes. -/
def writeArm (s : State) (x : Desc) : State :=
  let n := rec8 x.bytes 32 2
  let pa := rec8 x.bytes 34 1
  let ctrl := BitVec.ofNat 32 (dCtx x % 16 * 4096 + pa % 2 * 32 + pa / 2 % 8 * 4)
  let w := fun (o : Nat) => BitVec.ofNat 32 (rec8 x.bytes o 4)
  let s1 := wr s (R.sgGateCtrl n) ((rd s (R.sgGateCtrl n) &&& ~~~gateFields) ||| (ctrl &&& gateFields))
  let s2 := wr (wr (wr s1 (R.sgGateFireLo n) (w 40)) (R.sgGateFireHi n) (w 44)) (R.sgGatePeriodNs n) (w 48)
  wr (wr s2 (R.sgGatePt n) (BitVec.ofNat 32 (rec8 x.bytes 36 2 * 65536 + rec8 x.bytes 38 2))) (R.sgGateArg n) (w 52)

/-- The layout of an ARM, and its context where the action needs one (R458). -/
def armForm (s : State) (x : Desc) : Bool :=
  let n := rec8 x.bytes 32 2
  let a := rec8 x.bytes 34 1 / 2 % 8
  decide (32 ≤ n ∧ n ≤ 511) && decide (rec8 x.bytes 34 1 < 16) && dZero x 35 1 && dZero x 56 8 &&
    (a == 1 || a == 2 || ctxLoaded s (dCtx x))

/-- ARM (R461). -/
def execArm (d : Nat) (s : State) : Out :=
  onDesc s d 0x0030 fun x =>
    let n := rec8 x.bytes 32 2
    if !armForm s x || gateArmed s n then endDesc s x 0x23 []
    else match armGate (writeArm s x) n with
      | (s1, .armed) => endDesc s1 x 0 (leBytes 8 s.dt.now.toNat)
      | (s1, .late) => endDesc s1 x 0x29 []
      | (s1, .badTarget) => endDesc s1 x 0x23 []

/-- The outcome of a DISARM: FIRES, and whether the gate fired in the cycle of the disarm (R63). -/
def disarmResult (s : State) (n : Nat) (fired : Bool) : List Byte :=
  leBytes 4 (rd s (R.sgGateFires n)).toNat ++ leBytes 1 fired.toNat

/-- DISARM (R63, R461): one that comes in the cycle of the gate's dispatch does not stop the firing. -/
def execDisarm (d : Nat) (sameCycle : Bool) (s : State) : Out :=
  onDesc s d 0x0031 fun x =>
    let n := rec8 x.bytes 32 2
    if !dZero x 34 30 || decide (n < 32) || decide (511 < n) then endDesc s x 0x23 []
    else if !gateArmed s n then endDesc s x 0 (disarmResult s n (sameCycle && (firedNow s).contains n))
    else
      let (s1, fired) := disarmIn s n sameCycle
      endDesc s1 x 0 (disarmResult s1 n fired)

/-! ### Jobs for units -/

/-- Descriptor `x` handed to the queue of a unit; a full queue holds it (R455). -/
def toQueue (s : State) (x : Desc) (u : Nat) (block : List Byte) (latch : List Nat) : State :=
  if queueFull s u then stageDesc s x .waited
  else
    let j : Job := ⟨.descriptor x.id, u, dCtx x, 0, block, none, latch⟩
    setQueue (stageDesc s x .dispatched) u (queueOf s u ++ [j])

/-- Whether an entry array lies in one valid range outside semaphore memory (R462). -/
def arrayOk (s : State) (a n : Nat) : Bool :=
  a % 64 == 0 && decide (1 ≤ n ∧ n ≤ 256) && rangeOk s a (64 * n) && !(decide (semBase ≤ a) && decide (a < semBase + 0x4000))

/-- DESC_COPY: a plan, or an entry array. -/
def execDescCopy (d : Nat) (s : State) : Out :=
  onDesc s d 0x0040 fun x =>
    let m := rec8 x.bytes 32 1
    let k := rec8 x.bytes 34 2
    let a := rec8 x.bytes 40 8
    if !dZero x 33 1 || !dZero x 36 4 || !dZero x 48 16 || !ctxLoaded s (dCtx x) then endDesc s x 0x23 []
    else if m = 0 ∧ k ≤ 255 then toQueue s x 0x11 ([3, 0] ++ leBytes 2 k ++ leBytes 60 0) []
    else if m = 1 ∧ arrayOk s a k = true then toQueue s x 0x11 (leBytes 64 0) [k, a]
    else endDesc s x 0x23 []

/-- A descriptor's deadline for a unit that sees it (R455). -/
def deadlineLatch (x : Desc) : List Nat := if dDeadline x = 0 then [] else [dDeadline x]

/-- DESC_SOLVE: a solve with an absolute deadline; only the descriptor's own reserved bytes are checked here (R458). -/
def execDescSolve (d : Nat) (s : State) : Out :=
  onDesc s d 0x0050 fun x =>
    if !dZero x 37 1 || !dZero x 58 6 || !ctxLoaded s (dCtx x) then endDesc s x 0x23 []
    else toQueue s x 0x13 (solveBlock x.bytes) (deadlineLatch x)

/-- DESC_PRS: bytes 0 to 31 of a PRS block (R394). -/
def execDescPrs (d : Nat) (s : State) : Out :=
  onDesc s d 0x0060 fun x => toQueue s x 0x14 (slice x.bytes 32 32 ++ leBytes 32 0) (deadlineLatch x)

/-- DESC_MST: bytes 0 to 31 of an MST block (R418). -/
def execDescMst (d : Nat) (s : State) : Out :=
  onDesc s d 0x0070 fun x => toQueue s x 0x15 (slice x.bytes 32 32 ++ leBytes 32 0) []

end Sys2Proof.Machine
end

