-- ==== Sys2Proof/Machine/Security.lean ====
section
/-! DEFINITION. Signed images, owner keys and version records, the security lock and the fuse commits (R522 to R528, R531 to
R533, R542, R543). -/

namespace Sys2Proof.Machine

/-- The security state replaced. -/
def setSec (s : State) (f : Sec → Sec) : State := { s with sec := f s.sec }

/-- A record of the security chapter, posted but for ACSER_AUTH (R542). -/
def secRec (s : State) (code : Nat) (args : List Byte) (post : Bool) : State := bbx s code 0x33 args post

/-- A SEC_EVENT bit. -/
def secEvent (s : State) (b : Nat) : State := setBits s R.secEvent (bitW b)

/-! ### The NOR (R522) -/

/-- `n` bytes of the NOR from an offset; none where no NOR answers. -/
def norBytes (s : State) (a n : Nat) : Option (List Byte) :=
  s.sec.nor.map fun f => (List.range n).map fun i => tabGet 0xFF f.bytes (a + i)

/-- The region of slot A, B or recovery. -/
def slotBase (slot : Nat) : Nat := [0x00100000, 0x00900000, 0x01100000].getD slot 0
def slotSize : Nat := 0x800000

/-- The directory in force: the good copy of higher generation. -/
def norDir (s : State) : Option NorDir :=
  match s.sec.nor with
  | some f => match f.dir0, f.dir1 with
    | some a, some b => if a.gen < b.gen then some b else some a
    | some a, none => some a
    | none, b => b
  | none => none

/-! ### Keys and records (R526, R527) -/

/-- Key `i` of a key record, x ‖ y. -/
def recordKey (r : List Byte) (i : Nat) : List Byte := slice r (16 + 96 * i) 96

/-- Whether a 512-byte record has its format, its zero bytes from `z`, and a signature by key `k` over bytes 0 to 415. -/
def signedRecord (r k : List Byte) (zs : List (Nat × Nat)) : Bool :=
  rec8 r 0 4 == 1 && (zs.all fun z => zeros r z.1 z.2) && ecdsaVerify k (slice r 0 416) (slice r 416 96)

/-- The owner key record, where it is bound, or, with no owner set, signed by its own key 0. -/
def keyRecord (s : State) : Option (List Byte) :=
  (norBytes s 0x3000 512).bind fun r =>
    let bound := !s.sec.ownerSet || s.sec.ownerHash == some (sha384 (recordKey r 0))
    if bound && signedRecord r (recordKey r 0) [(10, 6), (400, 16)] then some r else none

/-- The version record, where it is accepted. -/
def versionRecord (s : State) : Option (List Byte) :=
  match norBytes s 0x4000 512, keyRecord s with
  | some v, some r =>
    if signedRecord v (recordKey r 0) [(16, 400)] && decide (s.sec.fuseVr ≤ rec8 v 4 4) then some v else none
  | _, _ => none

/-- The minimum package SVN and the minimum key-record counter; 0 without an accepted version record. -/
def minSvn (s : State) : Nat := match versionRecord s with | some v => rec8 v 8 4 | none => 0
def minRecord (s : State) : Nat := match versionRecord s with | some v => rec8 v 12 4 | none => 0

/-- Owner signing key `i`, where it may sign. -/
def signingKey (s : State) (i : Nat) : Option (List Byte) :=
  (keyRecord s).bind fun r =>
    if decide (1 ≤ i ∧ i ≤ 3) && (rec8 r 8 1).testBit i && !(rec8 r 9 1).testBit i && decide (minRecord s ≤ rec8 r 4 4) then
      some (recordKey r i)
    else none

/-- The firmware key. -/
def fwKeyBytes : List Byte := (List.range 96).map Config.fwKey

/-! ### Images (R523) -/

/-- Fields of an image header. -/
def imgKind (h : List Byte) : Nat := rec8 h 4 1
def imgKey (h : List Byte) : Nat := rec8 h 5 1
def imgSvn (h : List Byte) : Nat := rec8 h 8 4
def imgBody (h : List Byte) : Nat := rec8 h 12 4

/-- Whether a firmware image (header and what follows it) is valid for a kind and at least a minimum SVN. -/
def firmwareValid (img : List Byte) (kind least : Nat) : Bool :=
  let h := slice img 0 512
  rec8 h 0 4 == 1 && imgKind h == kind && zeros h 6 2 && zeros h 64 352 && imgKey h == 0xFF && decide (least ≤ imgSvn h) &&
    decide (512 + imgBody h ≤ img.length) && slice h 16 48 == sha384 (slice img 512 (imgBody h)) &&
    ecdsaVerify fwKeyBytes (slice h 0 416) (slice h 416 96)

/-- The reason of R528 for which a package header and body fail, the lowest given. -/
def packageReason (s : State) (size : Nat) (h body : List Byte) : Option Nat :=
  let key := signingKey s (imgKey h)
  firstBad [
    (1, rec8 h 0 4 == 1 && imgKind h == 3 && zeros h 6 2 && zeros h 64 352),
    (2, key.isSome),
    (3, ecdsaVerify (key.getD []) (slice h 0 416) (slice h 416 96)),
    (4, 512 + imgBody h == size && slice h 16 48 == sha384 body),
    (5, decide (minSvn s ≤ imgSvn h)),
    (6, !s.sec.lockFuse || rb s R.glbStatus 4)]

/-- A LOAD that fails its authentication: counters, event, record. -/
def authFail (s : State) (ctx reason svn : Nat) : State :=
  let s1 := secEvent (bump s R.secAuthFailCnt) 2
  let s2 := wr s1 R.secLastAuth (BitVec.ofNat 32 (ctx % 16 * 0x1000000 + reason))
  secRec s2 0x0602 (leBytes 1 ctx ++ leBytes 1 reason ++ leBytes 2 0 ++ leBytes 4 svn) true

/-! ### The lock and the fuse counters (R525, R527, R531) -/

/-- SEC_LOCK_WRITE: KEY 0x3C sets the lock while an owner is set; another key does nothing. -/
def execSecLockWrite (v : Word) (s : State) : Out :=
  fabric s fun s =>
    if fld v 31 24 ≠ 0x3C then s
    else if !s.sec.ownerSet then setBits s R.secErr 2
    else
      let s1 := setBits (setBits s R.glbStatus 0x10) R.secStatus 1
      if rb s R.glbStatus 4 then s1 else secRec (secEvent s1 1) 0x0603 [] true

/-- SEC_STATUS.RECOVERY: a recovery image runs. -/
def recoveryRuns (s : State) : Bool := rb s R.secStatus 3

/-- SVN_COMMIT_FW: raises the firmware counter to the SVN of the running firmware. -/
def execSvnCommitFw (v : Word) (s : State) : Out :=
  fabric s fun s =>
    if fld v 31 24 ≠ 0x96 ∨ bit v 0 = false then s
    else
      let n := (rd s R.secFwSvn).toNat
      if recoveryRuns s || decide (n ≤ s.sec.fuseSvn) || decide (64 < n) then setBits s R.secErr 1
      else
        secRec (wr (setSec s fun c => { c with fuseSvn := n }) R.secFuseSvn (BitVec.ofNat 32 n)) 0x0607
          (leBytes 4 0 ++ leBytes 4 n) true

/-- SVN_COMMIT_VR: raises the version-record counter to that of the accepted record. -/
def execSvnCommitVr (v : Word) (s : State) : Out :=
  fabric s fun s =>
    if fld v 31 24 ≠ 0x96 ∨ bit v 1 = false then s
    else
      let n := match versionRecord s with | some r => rec8 r 4 4 | none => 0
      if recoveryRuns s || decide (n ≤ s.sec.fuseVr) || decide (64 < n) then setBits s R.secErr 1
      else
        secRec (wr (setSec s fun c => { c with fuseVr := n }) R.secVrCnt (BitVec.ofNat 32 n)) 0x0607
          (leBytes 4 1 ++ leBytes 4 n) true

end Sys2Proof.Machine
end

