-- ==== Sys2Proof/Machine/Load.lean ====
section
/-! DEFINITION. LOAD and UNLOAD: authentication, content checks, placement in the tiers, and the freeing of a context (R210 to
R213, R232, R256 to R265, R269, R271, R460). -/

namespace Sys2Proof.Machine

/-! ### Graph images (R210 to R213) -/

/-- A gate entry from its 32 bytes. -/
def gateEntry (b : List Byte) : GateEntry where
  unit := rec8 b 0 1
  consume := rec8 b 1 1 % 2 == 1
  sigAlways := rec8 b 1 1 / 2 % 2 == 1
  pair := rec8 b 2 1
  dep := rec8 b 3 1
  waitSem := rec8 b 4 2
  sigSem := rec8 b 6 2
  waitN := BitVec.ofNat 32 (rec8 b 8 4)
  sigAdd := BitVec.ofNat 32 (rec8 b 12 4)
  needs := rec8 b 16 3
  timeout := rec8 b 20 4
  job := rec8 b 24 8

/-- A graph from its image. -/
def graphOfBytes (b : List Byte) : Graph where
  ngates := rec8 b 0 2
  ctx := rec8 b 2 1
  prio := rec8 b 3 1 % 4
  maxrun := rec8 b 3 1 / 4 % 8
  jring := rec8 b 4 1
  cq := rec8 b 5 1
  endSem := rec8 b 6 2
  endAdd := BitVec.ofNat 32 (rec8 b 8 4)
  jstride := rec8 b 12 4
  deadline := rec8 b 16 8
  records := rec8 b 24 8
  gates := (List.range (rec8 b 0 2)).map fun i => gateEntry (slice b (64 + 32 * i) 32)
  raw := b

/-- The unit codes of the unit-code table. -/
def knownUnit (u : Nat) : Bool := decide (u ≤ 0x06) || (decide (0x10 ≤ u) && decide (u ≤ 0x15))

/-- R212: a gate entry of index `i`, in a graph with its JRING and JSTRIDE. -/
def gateFormOk (s : State) (g : Graph) (i : Nat) (b : List Byte) : Bool :=
  let e := gateEntry b
  let mode := e.pair / 32 % 4
  knownUnit e.unit && decide (rec8 b 1 1 < 4) && e.pair / 4 % 8 == 0 && (decide (e.pair < 128) || mode == 1 || mode == 2) &&
    (e.dep == 0xFF || decide (e.dep < i)) && semFieldOk e.waitSem && semFieldOk e.sigSem && decide (rec8 b 18 1 < 16) &&
    zeros b 19 1 && (e.unit == 0 || rangeOk s e.job ((g.jring - 1) * g.jstride + 64))

/-- R212: a graph image for context `c`. -/
def graphFormOk (s : State) (c : Nat) (b : List Byte) : Bool :=
  let g := graphOfBytes b
  decide (1 ≤ g.ngates ∧ g.ngates ≤ 256) && b.length == 64 + 32 * g.ngates && g.ctx == c && decide (rec8 b 3 1 < 32) &&
    decide (1 ≤ g.maxrun ∧ g.maxrun ≤ 4) && decide (1 ≤ g.jring ∧ g.jring ≤ 8) && (decide (g.cq < 64) || g.cq == 0xFF) &&
    semFieldOk g.endSem && g.jstride % 64 == 0 && zeros b 32 32 && g.records % 64 == 0 &&
    rangeOk s g.records ((g.jring - 1) * up64 (recordSize g) + recordSize g) &&
    ((List.range g.ngates).all fun i => gateFormOk s g i (slice b (64 + 32 * i) 32))

/-! ### Free space (R258) -/

/-- Units of a tier that contexts may use: tile-local, slab, LSE, GDDR6. -/
def tierUnits (s : State) (t : Nat) : Nat :=
  match t with
  | 0 => 128
  | 1 => 704
  | 2 => 128
  | _ => gdrBytes s / 0x100000 - (rd s R.memFwGdr).toNat

/-- The window register of a context in a tier, and its quota. -/
def winRegOf (c t : Nat) : Nat :=
  match t with
  | 0 => R.memCtxWinTile c
  | 1 => R.memCtxWinSlab c
  | 2 => R.memCtxWinLse c
  | _ => R.memCtxWinGdr c
def quotaOf (s : State) (c t : Nat) : Nat :=
  (rd s (match t with
    | 0 => R.memCtxQuotaTile c
    | 1 => R.memCtxQuotaSlab c
    | 2 => R.memCtxQuotaLse c
    | _ => R.memCtxQuotaGdr c)).toNat

/-- The runs of a tier in use as (base, size): the windows of loaded contexts and the host system region. -/
def usedRuns (s : State) (t : Nat) : List (Nat × Nat) :=
  let slab := rd s R.memSysSlab
  let gdr := rd s R.memSysGdr
  let sys := match t with
    | 1 => [(fld slab 25 16, fld slab 9 0)]
    | 3 => [(fld gdr 31 16, fld gdr 15 0)]
    | _ => []
  (((List.range 16).map fun c => winReg s (winRegOf c t)) ++ sys).filter fun r => r.2 != 0

/-- The free run that starts at `a`: its length, 0 where `a` is in use. -/
def freeFrom (cap : Nat) (used : List (Nat × Nat)) (a : Nat) : Nat :=
  if used.any (fun r => decide (r.1 ≤ a ∧ a < r.1 + r.2)) then 0
  else (used.foldl (fun m r => if a ≤ r.1 then min m r.1 else m) cap) - a

/-- Where free runs can start: 0 and the end of each run in use. -/
def runStarts (used : List (Nat × Nat)) : List Nat := 0 :: used.map fun r => r.1 + r.2

/-- The longest free run, and the lowest start of a free run of `n` units. -/
def longestRun (cap : Nat) (used : List (Nat × Nat)) : Nat := (runStarts used).foldl (fun m a => max m (freeFrom cap used a)) 0
def lowestRun (cap n : Nat) (used : List (Nat × Nat)) : Option Nat :=
  (runStarts used).foldl (fun m a =>
    if n ≤ freeFrom cap used a then some (match m with | some b => min a b | none => a) else m) none

/-- The demand of a package in a tier, shadows included (R258, R265). -/
def demandOf (p : Package) (t : Nat) : Nat :=
  match t with
  | 0 => p.tile
  | 1 => p.slab
  | 2 => p.lse
  | _ => p.gdr + (p.nbr + 1) / 2

/-- The base of a package's window in a tier, or the result words that refuse it. -/
def placeTier (s : State) (c : Nat) (p : Package) (t : Nat) : Except (List Byte) Nat :=
  let need := demandOf p t
  let cap := tierUnits s t
  let used := usedRuns s t
  let words := fun (why : Nat) => leBytes 1 t ++ leBytes 1 why ++ leBytes 2 0 ++ leBytes 4 need ++ leBytes 4 (quotaOf s c t) ++
    leBytes 4 (longestRun cap used)
  if quotaOf s c t < need then .error (words 0)
  else if need = 0 then .ok 0
  else match lowestRun cap need used with
    | some b => .ok b
    | none => .error (words 1)

/-- The first tier that refuses a package. -/
def nofit (s : State) (c : Nat) (p : Package) : Option (List Byte) :=
  [0, 1, 2, 3].findSome? fun t => match placeTier s c p t with
    | .error w => some w
    | .ok _ => none

/-- The windows a package takes; a tier that refuses it stands at 0 for the checks of its content (R460). -/
def placeBase (s : State) (c : Nat) (p : Package) (t : Nat) : Nat :=
  match placeTier s c p t with
  | .ok b => b
  | .error _ => 0

/-! ### Neighbour slots (R264, R265) -/

/-- Whether a loaded package names a logical tile. -/
def tileNamed (s : State) (l : Nat) : Bool :=
  (List.range 16).any fun c => match tabGet none s.memx.ctx c with
    | some x => x.tiles.contains l
    | none => false

/-- Whether a physical tile is lendable. -/
def lendable (s : State) (n : Nat) : Bool :=
  (ttLogical s n == 0xFF && ttState s n == 3) ||
    (decide (ttLogical s n < 64) && ttState s n != 4 && s.memx.parked.contains (ttLogical s n) && !tileNamed s (ttLogical s n))

/-- The lowest lendable tile, and the lowest free grant. -/
def lendTile (s : State) : Option Nat := (List.range 68).find? fun n => lendable s n
def freeGrant (s : State) : Option Nat := (List.range 16).find? fun j => !rb s (R.memNbr j) 31

/-- Firmware has parked what it has parked of the logical tiles that no loaded package names, and this one neither (R264). -/
def parkTiles (s : State) (p : Package) : State :=
  let idle := (List.range 64).filter fun l =>
    !s.memx.parked.contains l && !tileNamed s l && !p.tiles.contains l && Config.parks s.fresh l
  { s with fresh := s.fresh + 1, memx := { s.memx with parked := s.memx.parked ++ idle } }

/-- The tile range through which tile `t` is reached: its own, or, after a rotation step has redirected the two, the other's
(R262; DEDUCED, log entry 23). -/
def homeRange (s : State) (t : Nat) : Nat :=
  let here := fun (r : Nat) => decide (redirBase (rd s (R.memRedir r)) = t * 0x80000)
  if here t then t else ((List.range 68).find? here).getD t

/-- Slots `k` to `n` − 1 of context `c` placed: the grants taken, none for a slot on its shadow. -/
def placeSlots (c n top : Nat) : Nat → Nat → State → State × List (Option Nat)
  | 0, _, s => (s, [])
  | m + 1, k, s =>
    match lendTile s, freeGrant s with
    | some t, some j =>
      let r := homeRange s t
      let w := 0x80000000 + c * 0x1000000 + r * 0x10000 + (top - (n - k))
      let s0 := if redirBase (rd s (R.memRedir r)) = t * 0x80000 then s else wr s (R.memRedir r) (toTile t)
      let s1 := wr (setTtState s0 t 4) (R.memNbr j) (BitVec.ofNat 32 w)
      let (s2, l) := placeSlots c n top m (k + 1) s1
      (s2, some j :: l)
    | _, _ =>
      let (s1, l) := placeSlots c n top m (k + 1) s
      (s1, none :: l)

/-- A load that names a parked logical tile takes it back: a grant on it is evacuated before the load completes (R266). -/
def unpark (s : State) (l : Nat) : State :=
  if s.memx.parked.contains l then
    let s1 := { s with memx := { s.memx with parked := s.memx.parked.filter fun x => x != l } }
    match tileOf s1 l with
    | some t =>
      let s2 := match grantOn s1 t with
        | some j =>
          let r := rf s1 (R.memNbr j) 22 16
          finishMove (evacuate s1 j) r ⟨toArea (shadowArea s1 j), some j, none⟩
        | none => s1
      setTtState s2 t 1
    | none => s1
  else s

/-! ### Relocation (R256, R262) -/

/-- The address that firmware gives an address of a package of context `c`, its windows and neighbour slots placed: home tiles
and the tile window for logical tiles, home tile or shadow for neighbour slots, the window base in the other tiers. Host memory
is not relocated; an address of a slot the package does not have becomes invalid. -/
def relocate (s : State) (c : Nat) (nbr : List (Option Nat)) (a : Nat) : Nat :=
  let w := winOf s c
  let r := a / 0x80000
  if r < 64 then homeOf r * 0x80000 + w.tile.1 * 0x1000 + a % 0x80000
  else if a < slabBase then
    match nbr[r - 64]? with
    | some (some j) => rf s (R.memNbr j) 22 16 * 0x80000 + a % 0x80000
    | some none => gdrBase + (w.gdr.1 + w.gdr.2) * 0x100000 - 0x80000 * (nbr.length - (r - 64)) + a % 0x80000
    | none => 68 * 0x80000 + a % 0x80000
  else if a < lseBase then a + w.slab.1 * 0x10000
  else if a < semBase then a + w.lse.1 * 0x10000
  else if gdrBase ≤ a ∧ a < hostBase then a + w.gdr.1 * 0x100000
  else a

/-- An 8-byte address field at `off` relocated. -/
def fixField (f : Nat → Nat) (off : Nat) (b : List Byte) : List Byte :=
  if b.length < off + 8 then b else b.take off ++ leBytes 8 (f (rec8 b off 8)) ++ b.drop (off + 8)

/-- A graph image relocated: the run records and the gates' job blocks. -/
def fixGraph (f : Nat → Nat) (b : List Byte) : List Byte :=
  (List.range (rec8 b 0 2)).foldl (fun b i => fixField f (64 + 32 * i + 24) b) (fixField f 24 b)

/-- A copy entry relocated; a FILL has no source. -/
def fixEntry (f : Nat → Nat) (e : List Byte) : List Byte :=
  fixField f 24 (if isCopy e then fixField f 16 e else e)

/-- A tile program relocated: the region of its slots, and the offsets in local memory by the tile window. -/
def fixProg (f : Nat → Nat) (ofs : Nat) (x : TileProg) : TileProg :=
  let own := fun (r : TileRef) (o : Nat) => match r with
    | .local _ => o + ofs
    | .input | .output | .slots => o
  { x with
    slotBase := f x.slotBase
    passes := x.passes.map fun p => { p with
      aOff := own p.a p.aOff, wOff := p.wOff + ofs, chOff := p.chOff + ofs, dOff := own p.dst p.dOff
      nl := p.nl.map fun b => (b.1, b.2 + ofs) } }

/-- A package relocated to the windows and slots placed in `s`. -/
def relocated (s : State) (c : Nat) (nbr : List (Option Nat)) (p : Package) : Package :=
  let f := relocate s c nbr
  { p with
    graphs := p.graphs.map (fixGraph f)
    plans := p.plans.map fun x => (x.1, x.2.map (fixEntry f))
    progs := p.progs.map fun x => (x.1, fixProg f ((winOf s c).tile.1 * 0x1000) x.2)
    solves := p.solves.map fun x => (x.1, fixField f 32 (fixField f 24 (fixField f 16 x.2)))
    data := p.data.map fun d => ⟨f d.addr, d.fixups.foldl (fun b o => fixField f o b) d.bytes, d.fixups⟩ }

/-! ### Content (R212, R232, R269, R271) -/

/-- The bytes of a source or destination row of an entry meet those of another's destination. -/
def readsWritten (a b : List Byte) : Bool :=
  isCopy b && (entryRows b).any fun r => (entryRows a).any fun q => overlaps r.1 (rec8 b 4 4) q.2 (rec8 a 4 4)

/-- Whether entry `e`, after the entries `done` of its plan (newest first), reads what one of them writes with no FENCE in
between. -/
def hazard (e : List Byte) : List (List Byte) → Bool
  | [] => false
  | a :: t => readsWritten a e || (!fenceFlag a && hazard e t)

/-- Whether no entry of a plan reads an earlier one's bytes without a FENCE between them. -/
def planOrderOk : List (List Byte) → List (List Byte) → Bool
  | _, [] => true
  | seen, e :: t => (fenceFlag e || !hazard e seen) && planOrderOk (e :: seen) t

/-- The entries of a plan checked against the windows of context `c` in turn (MEM_ERR.RANGE where only those refuse one). -/
def planEntries (w : Win) (c : Nat) : List (List Byte) → Nat → State → Bool × State
  | [], _, s => (true, s)
  | e :: t, i, s =>
    let (ok, s1) := checkEntry s w c i e
    if ok then planEntries w c t (i + 1) s1 else (false, s1)

/-- A copy plan. -/
def planOk (w : Win) (c : Nat) (s : State) (x : Nat × List (List Byte)) : Bool × State :=
  if decide (x.1 ≤ 255) && decide (1 ≤ x.2.length ∧ x.2.length ≤ 256) && (x.2.all fun e => e.length == 64) && planOrderOk [] x.2
  then planEntries w c x.2 0 s else (false, s)

/-- All plans. -/
def plansOk (w : Win) (c : Nat) : List (Nat × List (List Byte)) → State → Bool × State
  | [], s => (true, s)
  | x :: t, s =>
    let (ok, s1) := planOk w c s x
    if ok then plansOk w c t s1 else (false, s1)

/-- The channel records of a program's passes, in the data the package places (R232). -/
def progOk (s : State) (x : Nat × TileProg) : Bool :=
  (x.2.tiles.all fun l => decide (l < 64)) && x.2.passes.all fun q =>
    (List.range 32).all fun j => chanOk (ldBytes s (localBase q.tile + q.chOff + 32 * j) 32)

/-- A schedule: its slot, its class, and its supernodes over the variables it declares (R331). -/
def schedOk (x : SchedDecl) : Bool :=
  decide (x.index < 64) && (match x.sched with
    | some c => c.nodes.all fun n => n.exps.length == 6 && (n.vars.all fun v => decide (v < c.v)) && n.below.all fun v => decide (v < c.v)
    | none => x.buildable)

/-- The data of a package in place. -/
def placeData (s : State) (l : List PkgDatum) : State := l.foldl (fun st d => stBytes st d.addr d.bytes) s

/-- Everything but the plans. -/
def contentOk (s : State) (c : Nat) (p : Package) : Bool :=
  let s1 := placeData s p.data
  (p.graphs.all fun g => graphFormOk s c g) && (p.progs.all fun x => progOk s1 x) && p.scheds.all schedOk &&
    (p.solves.all fun x => decide (x.1 < 64) && x.2.length == 64) && p.tiles.all fun l => decide (l < 64)

/-! ### Granting (R256, R264, R460) -/

/-- The free graph slots. -/
def freeGraphs (s : State) : List Nat := (List.range 64).filter fun g => (graphOf s g).isNone

/-- FGS_GRAPHg_CFG of a graph. -/
def graphCfg (g : Graph) : Word :=
  BitVec.ofNat 32 (0x80000000 + g.ctx % 16 * 0x1000000 + g.prio % 4 * 0x100000 + g.maxrun % 8 * 0x10000 + g.ngates % 512)

/-- A graph resident in a slot, its run count at 0 (R215). -/
def putGraph (s : State) (x : Nat × List Byte) : State :=
  let g := graphOfBytes x.2
  wr { s with fgs := { s.fgs with graphs := tabSet none s.fgs.graphs x.1 (some g), runCount := tabSet 0 s.fgs.runCount x.1 0 } }
    (R.fgsGraphCfg x.1) (graphCfg g)

/-- The schedules and solve slots of a package in place. -/
def putSched (c : Nat) (s : State) (x : SchedDecl) : State :=
  setSched s (slotKey c x.index) (some ⟨x.sched, x.decl, x.buildable, x.maxPoses, x.maxFactors, 0, false⟩)
def putSolve (c : Nat) (s : State) (x : Nat × List Byte) : State :=
  { s with lse := { s.lse with slots := tabSet [] s.lse.slots (slotKey c x.1) x.2 } }

/-- A table from a list of entries. -/
def tabOf {α : Type} [DecidableEq α] (d : α) (l : List (Nat × α)) : Tab α := l.foldl (fun t x => tabSet d t x.1 x.2) []

/-- The windows of context `c` shown in its registers. -/
def putWindows (s : State) (c : Nat) (p : Package) (base : Nat → Nat) : State :=
  [0, 1, 2, 3].foldl (fun st t => wr st (winRegOf c t) (BitVec.ofNat 32 (base t * 65536 + demandOf p t))) s

/-- Windows and neighbour slots of a package taken, and the package relocated to them (R256, R262 to R266). -/
def placePackage (s : State) (c : Nat) (p : Package) : State × List (Option Nat) × Package :=
  let s1 := p.tiles.foldl unpark (putWindows (parkTiles s p) c p (placeBase s c p))
  let (s2, nbr) := placeSlots c p.nbr (2 * demandOf p 3) p.nbr 0 s1
  (s2, nbr, relocated s2 c nbr p)

/-- What MEM_CTXc_STATE shows of a loaded context; the four bits of its slot count state nothing of 16 and more. -/
def ctxStateWord (s : State) (p : Package) : Word :=
  let n := if p.nbr < 16 then p.nbr else Config.freeNat s.fresh % 16
  BitVec.ofNat 32 (0x80000000 + n * 0x10000 + p.plans.length % 65536)

/-- A relocated package granted: graphs, plans, programs, schedules, data. -/
def grant (s : State) (c : Nat) (nbr : List (Option Nat)) (p : Package) (hash : List Byte) : State :=
  let slots := (freeGraphs s).take p.graphs.length
  let x : Ctx := ⟨p.tiles, tabOf [] p.plans, tabOf none (p.progs.map fun q => (q.1, some q.2)), slots, nbr⟩
  let s1 := wr { s with memx := { s.memx with ctx := tabSet none s.memx.ctx c (some x) }, fresh := s.fresh + 1 }
    (R.memCtxState c) (ctxStateWord s p)
  let s2 := (slots.zip p.graphs).foldl putGraph s1
  let s3 := p.solves.foldl (putSolve c) (p.scheds.foldl (putSched c) s2)
  let s4 := if p.aux = [] then s3 else { s3 with tfu := { s3.tfu with auxDecl := p.aux } }
  setSec (placeData s4 p.data) fun q => { q with pkg := tabSet [] q.pkg c hash }

/-- The result words of a load refused for want of graph slots (R210, R258). -/
def noSlots (need free : Nat) : List Byte :=
  leBytes 1 4 ++ leBytes 1 1 ++ leBytes 2 0 ++ leBytes 4 need ++ leBytes 4 free ++ leBytes 4 free

/-- The content of a package as placed by `x`, with the state its plans' check leaves (R212, R232, R271). -/
def goodContent (c : Nat) (x : State × List (Option Nat) × Package) : Bool × State :=
  let (ok, s1) := plansOk (winOf x.1 c) c x.2.2.plans x.1
  (ok && contentOk x.1 c x.2.2, s1)

/-- Phases 2 and 3 of R460: the state, status and result words. A refused load leaves what it found but for MEM_ERR. -/
def loadPhases (s : State) (c : Nat) (p : Package) (hash : List Byte) : State × Nat × List Byte :=
  let x := placePackage s c p
  let (ok, s1) := goodContent c x
  if !ok then (wr (wr s R.memErr (rd s1 R.memErr)) R.memErrInfo (rd s1 R.memErrInfo), 0x23, [])
  else match nofit s c p with
    | some w => (s, 0x21, w)
    | none =>
      if (freeGraphs s).length < p.graphs.length then (s, 0x21, noSlots p.graphs.length (freeGraphs s).length)
      else (grant x.1 c x.2.1 x.2.2 hash, 0, [])

/-- The layout of a LOAD (load table). -/
def loadForm (s : State) (x : Desc) : Bool :=
  let a := rec8 x.bytes 32 8
  let n := rec8 x.bytes 40 4
  a % 64 == 0 && decide (4096 ≤ n ∧ n ≤ 2 ^ 30) && rangeOk s a n && dZero x 44 20

/-- LOAD: authentication of the bytes in memory, then the content `p` that the body holds, then space. One that a control-pair
switchover cuts ends ERR_FAULT and grants nothing (R486). -/
def execLoad (d : Nat) (p : Package) (s : State) : Out :=
  onDesc s d 0x0010 fun x =>
    let a := rec8 x.bytes 32 8
    let n := rec8 x.bytes 40 4
    let c := dCtx x
    if !loadForm s x || ctxLoaded s c then endDesc s x 0x23 []
    else if s.safe.switching.isSome then endDesc s x 0x26 []
    else if badData s [(a, n)] then endDesc (noteReads s [(a, n)]) x 0x26 []
    else
      let s := noteReads s [(a, n)]
      let h := ldBytes s a 512
      match packageReason s n h (ldBytes s (a + 512) (n - 512)) with
      | some r => endDesc (authFail s c r (imgSvn h)) x 0x27 []
      | none =>
        let (s1, st, res) := loadPhases s c p (slice h 16 48)
        endDesc s1 x st res

/-! ### UNLOAD (R261) -/

/-- The copy jobs of context `c` that have not reached an engine. -/
def ctxCopy (c : Nat) (j : Job) : Bool := j.ctx == c

/-- A copy job of the context that waits is ended. -/
def dropCopy (s : State) (j : Job) : State :=
  match j.owner with
  | .gate _ _ | .descriptor _ => finish s j.owner 0x28 []
  | .startGate _ | .coordinator | .firmware => s

/-- The waiting copy jobs of a context in a list held by `get`/`set` are ended. -/
def dropWaiting (s : State) (c : Nat) (l : List Job) (put : State → List Job → State) : State :=
  (l.filter (ctxCopy c)).foldl dropCopy (put s (l.filter fun j => !ctxCopy c j))

/-- The running copy jobs of a context are asked to abort. -/
def abortCopies (s : State) (c : Nat) : State :=
  (List.range 16).foldl (fun st e => match ceJob st e with
    | some j =>
      if j.job.ctx = c ∧ st.fgs.abortAsked.contains j.job.owner = false then
        { st with fgs := { st.fgs with abortAsked := st.fgs.abortAsked ++ [j.job.owner] } }
      else st
    | none => st) s

/-- The graphs of a context. -/
def ctxGraphs (s : State) (c : Nat) : List Nat := match tabGet none s.memx.ctx c with | some x => x.graphs | none => []

/-- Every run and copy job of a context aborted; the number of runs. -/
def abortCtx (s : State) (c : Nat) : State × Nat :=
  let (s1, n) := (ctxGraphs s c).foldl (fun (q : State × Nat) g =>
    let (t, k) := abortGraph q.1 g
    (t, q.2 + k)) (s, 0)
  let s2 := dropWaiting s1 c (queueOf s1 0x11) fun st l => setQueue st 0x11 l
  let s3 := dropWaiting s2 c (startedAt s2 0x11) fun st l => setStarted st 0x11 l
  let s4 := dropWaiting s3 c (startedAt s3 sgCopyKey) fun st l => setStarted st sgCopyKey l
  (abortCopies s4 c, n)

/-- Whether a run or a copy job of a context is still in flight. -/
def ctxBusy (s : State) (c : Nat) : Bool :=
  (s.fgs.runs.any fun r => (ctxGraphs s c).contains r.graph) ||
    (List.range 16).any fun e => match ceJob s e with | some j => j.job.ctx == c | none => false

/-- The tile of a piste that holds no logical tile and that no range reaches. -/
def orphanTile (s : State) (p : Nat) : Option Nat :=
  ((List.range 17).map fun k => 17 * p + k).find? fun t =>
    ttLogical s t == 0xFF && !(List.range 68).any fun r => decide (redirBase (rd s (R.memRedir r)) = t * 0x80000)

/-- A neighbour grant freed: a move of it is completed first, the tile it lies on is free again, or parked; the range of a grant
on its shadow is given the tile that nothing reaches, if there is one, so that the tile can be lent again. -/
def freeNbr (s : State) (j : Nat) : State :=
  let r := rf s (R.memNbr j) 22 16
  let s1 := match tabGet none s.memx.moves r with
    | some m => finishMove s r m
    | none => s
  let t := rf s1 (R.memRedir r) 22 16
  let s2 := if rb s1 (R.memNbr j) 30 then (match orphanTile s1 (r / 17) with | some o => wr s1 (R.memRedir r) (toTile o) | none => s1)
    else if ttLogical s1 t = 0xFF then tileFree s1 t else setTtState s1 t 1
  let s3 := wr s2 (R.memNbr j) 0
  { s3 with
    memx := { s3.memx with restore := tabSet none s3.memx.restore j none }
    safe := { s3.safe with rot := s3.safe.rot.map fun e =>
      (e.1, e.2.map fun x => if x.grant = some j then { x with grant := none } else x) } }

/-- A graph slot released (R211). -/
def freeGraph (s : State) (g : Nat) : State :=
  wr (wr { s with fgs := { s.fgs with graphs := tabSet none s.fgs.graphs g none, runCount := tabSet 0 s.fgs.runCount g 0 } }
    (R.fgsGraphCfg g) 0) (R.fgsGraphState g) 0

/-- Everything a context holds is freed; its contents are not cleared. -/
def freeCtx (s : State) (c : Nat) : State :=
  let s1 := (ctxGraphs s c).foldl freeGraph s
  let mine := (List.range 16).filter fun j => rb s (R.memNbr j) 31 && rf s (R.memNbr j) 27 24 == c
  let s2 := mine.foldl freeNbr s1
  let s3 := [0, 1, 2, 3].foldl (fun st t => wr st (winRegOf c t) 0) (wr s2 (R.memCtxState c) 0)
  let s4 := { s3 with
    memx := { s3.memx with ctx := tabSet none s3.memx.ctx c none }
    lse := { s3.lse with
      sched := s3.lse.sched.filter fun e => e.1 / 64 != c
      slots := s3.lse.slots.filter fun e => e.1 / 64 != c } }
  syncSched (setSec s4 fun q => { q with pkg := tabSet [] q.pkg c [] })

/-- UNLOAD: the first time its work is aborted; it completes when nothing of the context is in flight. -/
def execUnload (d : Nat) (s : State) : Out :=
  fabric s fun s =>
    match findDesc s d with
    | none => s
    | some x =>
      if dOpcode x ≠ 0x0011 then s
      else if x.stage = .waited ∧ cqRoom s x.cq = true then
        (if !dZero x 32 32 then endDesc s x 0x23 []
         else if !ctxLoaded s (dCtx x) then endDesc s x 0 []
         else
          let (s1, n) := abortCtx (stageDesc s x .dispatched) (dCtx x)
          if ctxBusy s1 (dCtx x) then setDesc s1 d fun y => { y with result := leBytes 4 n }
          else endDesc (freeCtx s1 (dCtx x)) x 0 (leBytes 4 n))
      else if x.stage = .dispatched ∧ ctxBusy s (dCtx x) = false then endDesc (freeCtx s (dCtx x)) x 0 x.result
      else s

end Sys2Proof.Machine
end

