-- ==== Sys2Proof/Machine/Faults.lean ====
section
/-! DEFINITION. Faults: control-pair switchover, the lanes of the track filter, restarts and self-tests of engines, checkers,
tile rotation, and the writer of the black box (R475 to R498). -/

namespace Sys2Proof.Machine

/-- Bits [23:16] of a block's BAR0 base, from the offset of one of its registers (R491). -/
def unitOf (a : Nat) : Nat := a / 0x10000 % 256

/-- A checker number for a transient whose checker R493 does not name. -/
def freeChecker (s : State) : Nat × State := let (v, s1) := drawNat s; (v % 5, s1)

/-- SAFE replaced. -/
def setSafe (s : State) (f : Safe → Safe) : State := { s with safe := f s.safe }

/-- SELFTEST_FAIL: tests 0 rotation, 1 core, 2 engine, 3 latent. -/
def selftestFail (s : State) (unit inst test : Nat) : State :=
  faultRec (safeEvent s 2) 0x0203 unit inst (leBytes 2 inst ++ leBytes 1 test) true

/-- UNIT_FAILED of a class row. -/
def unitFailed (s : State) (unit inst row : Nat) : State :=
  faultRec (safeEvent s 4) 0x0205 unit inst (leBytes 2 inst ++ leBytes 1 row) true

/-! ### Control pairs (R484 to R486) -/

/-- The active pair. -/
def activePair (s : State) : Nat := rf s R.glbStatus 1 1

/-- STANDBY_OK set or cleared. -/
def standbyOk (s : State) (b : Bool) : State := wf s R.glbStatus 2 2 b.toNat

/-- A pair stays off: STANDBY_LOST (R480, R485). -/
def retirePair (s : State) (p : Nat) : State :=
  let s1 := setSafe (setBits (standbyOk s false) R.safeStatus 0x100) fun f =>
    { f with retired := if f.retired.contains p then f.retired else f.retired ++ [p], coreTest := none }
  faultRec (safeEvent s1 3) 0x0204 (unitOf R.safeCtrl) p (leBytes 1 p) true

/-- A fault of the active pair: switchover where a standby is ready, else safe state (R480, R484, R485). -/
def pairFault (s : State) : State :=
  let p := activePair s
  if s.safe.switching.isSome || !rb s R.glbStatus 2 then safeState s 5 (unitOf R.safeCtrl) p
  else raiseEdge (setSafe s fun f => { f with switching := some (p, s.dt.now) }) 421

/-- CONTROL_PAIR_FAULT: the lockstep compare flags the active pair. -/
def execControlPairFault (s : State) : Out := fabric s pairFault

/-- WATCHDOG_EXPIRE: source 422, then as a fault of the pair. -/
def execWatchdogExpire (s : State) : Out := fabric s fun s => pairFault (raiseEdge s 422)

/-- Every source active at a target is completed (R102). -/
def completeAll (s : State) (t : Nat) : State := (activeAt s t).foldl (fun st n => completeSource st t n) s

/-- SWITCHOVER_COMPLETE: the standby has checked and loaded the mirror and replayed the log; a bad mirror leads to safe state.
The old active pair starts its core self-test (R484 to R486). -/
def execSwitchoverComplete (mirrorOk : Bool) (s : State) : Out :=
  fabric s fun s =>
    match s.safe.switching with
    | none => s
    | some (p, _) =>
      if !mirrorOk || s.safe.mirror.isNone then safeState s 5 (unitOf R.safeCtrl) (1 - p)
      else
        let s1 := completeAll (setSafe s fun f => { f with switching := none, coreTest := some (p, true) }) p
        let s2 := standbyOk (wf s1 R.glbStatus 1 1 (1 - p)) false
        takeoverDone (failBuilds (bump s2 R.safeSwitchCnt)) (unitOf R.safeCtrl) p (1 - p) 0 1

/-- A standby that has passed its test is mirrored and ready. -/
def standbyReady (s : State) : State :=
  standbyOk (setSafe s fun f => { f with coreTest := none, mirror := some s.dt.now }) true

/-- STANDBY_SELFTEST_END: the core self-test of a pair ends. After a fault, a pass restores the standby, unless R482 retires
it; at start-up it only makes it ready (R485, R558). -/
def execStandbySelftestEnd (pass : Bool) (s : State) : Out :=
  fabric s fun s =>
    match s.safe.coreTest with
    | none => s
    | some (p, fault) =>
      let u := unitOf R.safeCtrl
      if !pass then retirePair (selftestFail s u p 1) p
      else if !fault then standbyReady s
      else if transientExhausted s u p then retirePair (transient s u p 2) p
      else faultRec (standbyReady (transient s u p 2)) 0x0207 u p (leBytes 1 p) true

/-- STANDBY_FAULT: the standby is retired; while it is taking over, no standby is left (R480). -/
def execStandbyFault (s : State) : Out :=
  fabric s fun s =>
    let p := 1 - activePair s
    if s.safe.switching.isSome then safeState s 5 (unitOf R.safeCtrl) p
    else if rb s R.glbStatus 2 then retirePair s p else s

/-! ### Track filter lanes, filter chain, writers (R480, R487, R488) -/

/-- A lane is retired: the track filter goes on with the other one, after an interruption of at most 150 µs. -/
def laneLost (s : State) (lane : Nat) : State :=
  if rb s R.safeStatus 9 then safeState s 6 (unitOf R.tfuCtrl) lane
  else
    let (v, s1) := drawNat s
    takeoverDone (setBits (setSafe s1 fun f => { f with katDue := false }) R.safeStatus 0x200) (unitOf R.tfuCtrl) lane (1 - lane)
      (v % 150001) 2

/-- TFU_LANE_MISMATCH: `again` says that the operation's second run disagreed too. -/
def execTfuLaneMismatch (again : Bool) (s : State) : Out :=
  fabric s fun s =>
    let u := unitOf R.tfuCtrl
    let lost := fun (s : State) =>
      if rb s R.safeStatus 9 then safeState s 6 u 0 else setSafe s fun f => { f with katDue := true }
    if again then lost s
    else if transientExhausted s u 0 then lost (transient s u 0 3)
    else transient s u 0 3

/-- TFU_KAT_END: whether each lane passed; a lane is retired when exactly one failed, else neither is identified (R487). -/
def execTfuKatEnd (laneA laneB : Bool) (s : State) : Out :=
  fabric s fun s =>
    if !s.safe.katDue then s
    else if laneA && !laneB then laneLost s 1
    else if !laneA && laneB then laneLost s 0
    else safeState (setSafe s fun f => { f with katDue := false }) 6 (unitOf R.tfuCtrl) 0

/-- The filter chain is FAILED. -/
def failIfc (s : State) : State :=
  unitFailed (setBits { s with ifc := { s.ifc with failed := true } } R.safeStatus 0x400) (unitOf R.ifcCtrl) 0 8

/-- IFC_MISMATCH: recomputed on the first, FAILED on the second of one output (R488). -/
def execIfcMismatch (again : Bool) (s : State) : Out :=
  fabric s fun s =>
    let u := unitOf R.ifcCtrl
    if s.ifc.failed then s
    else if again then failIfc s
    else
      let (c, s1) := freeChecker s
      if transientExhausted s u 0 then failIfc (transient s1 u 0 c) else transient s1 u 0 c

/-- HIF_WRITER_MISMATCH: the writer restarts; on repeat, safe state (R480). -/
def execHifWriterMismatch (again : Bool) (s : State) : Out :=
  fabric s fun s =>
    let u := unitOf R.hifCtrl
    if again then safeState s 9 u 0
    else
      let (c, s1) := freeChecker s
      if transientExhausted s u 0 then safeState (transient s1 u 0 c) 9 u 0 else transient s1 u 0 c

/-- A fault of duplicated control logic; which block it struck, the command does not say. -/
def fabricFault (s : State) : State := let (u, s1) := drawNat s; safeState s1 10 (u % 256) 0

/-- FABRIC_LOGIC_MISMATCH. -/
def execFabricLogicMismatch (s : State) : Out := fabric s fabricFault

/-! ### Engines (R480) -/

/-- Unit code, block and instance of an engine. -/
def engineCode (e : Engine) : Nat := match e with | .vision u => visCode u | .lse => 0x13 | .schuss n => 0x40 + n.val
def engineUnit (e : Engine) : Nat :=
  match e with
  | .vision (.fdd k) => unitOf (R.fddCtrl k.val)
  | .vision (.tme k) => unitOf (R.tmeCtrl k.val)
  | .vision .sde => unitOf R.sdeCtrl
  | .vision .pje => unitOf R.pjeCtrl
  | .lse => unitOf R.lseCtrl
  | .schuss n => unitOf (R.flcCtrl n.val)
def engineInst (e : Engine) : Nat :=
  match e with
  | .vision (.fdd k) => k.val
  | .vision (.tme k) => k.val
  | .vision .sde | .vision .pje | .lse => 0
  | .schuss n => n.val

/-- The job that an engine's fault ends. -/
def endEngineJob (s : State) (e : Engine) : State :=
  match e with
  | .vision u =>
    (match visJob s (visCode u) with
     | some j => visComplete (stampStatus s j 0x26) u j 0x26
     | none => s)
  | .lse => solveFault s
  | .schuss _ => placeFault s

/-- ENGINE_FAULT: the job ends ERR_FAULT, the engine restarts and tests itself. -/
def execEngineFault (e : Engine) (s : State) : Out :=
  fabric s fun s =>
    let c := engineCode e
    if engineDead s c || engineHeld s c then s
    else endEngineJob (setSafe s fun f => { f with engineTest := f.engineTest ++ [c] }) e

/-- The solve that a FAILED engine still holds ends without running. -/
def dropTaken (s : State) : State := match s.lse.taken with | some j => solveDead s j | none => s

/-- An engine is FAILED: jobs that wait at it end ERR_FAULT without running. -/
def failEngine (s : State) (e : Engine) : State :=
  let c := engineCode e
  let s1 := setSafe s fun f => { f with
    engineTest := f.engineTest.filter fun x => x ≠ c
    engineFailed := if f.engineFailed.contains c then f.engineFailed else f.engineFailed ++ [c] }
  let s2 := match e with
    | .vision u => setBits s1 R.safeStatus (bitW (11 + visCode u))
    | .lse => dropTaken (setBits s1 R.safeStatus 0x800)
    | .schuss _ => s1
  unitFailed s2 (engineUnit e) (engineInst e) 11

/-- ENGINE_SELFTEST_END: the engine returns, its fault counted as a transient, or is FAILED. -/
def execEngineSelftestEnd (e : Engine) (pass : Bool) (s : State) : Out :=
  fabric s fun s =>
    let c := engineCode e
    if !engineHeld s c then s
    else if !pass then failEngine (selftestFail s (engineUnit e) (engineInst e) 2) e
    else
      let (k, s1) := freeChecker (setSafe s fun f => { f with engineTest := f.engineTest.filter fun x => x ≠ c })
      let s2 := transient s1 (engineUnit e) (engineInst e) k
      if transientExhausted s (engineUnit e) (engineInst e) then failEngine s2 e else s2

/-! ### Tests (R480, R481) -/

/-- PERIODIC_TEST: device time and the rail monitors are tested; a failure leads to safe state. -/
def execPeriodicTest (fault : Option (Fin 2)) (s : State) : Out :=
  fabric s fun s =>
    match fault with
    | none => s
    | some 0 => safeState s 16 (unitOf R.dtCtrl) 0
    | some _ => safeState s 15 (unitOf R.pwrReq) 0

/-- A tile counts as permanently failed: its jobs halt there and a takeover may move its logical tile (R248, R249). -/
def tileFails (s : State) (n : Nat) : State :=
  tileHalt s n

/-- The block and instance a checker guards. -/
def checkedUnit (s : State) (u : CheckedUnit) : Nat × Nat :=
  match u with
  | .tile t => (unitOf (R.ttStatus 0), t.val)
  | .activePair => (unitOf R.safeCtrl, activePair s)
  | .standbyPair => (unitOf R.safeCtrl, 1 - activePair s)
  | .tfuLane b => (unitOf R.tfuCtrl, b.toNat)
  | .ifc => (unitOf R.ifcCtrl, 0)
  | .writers => (unitOf R.hifCtrl, 0)
  | .fabricLogic => (unitOf R.safeCtrl, 0)
  | .engine e => (engineUnit e, engineInst e)

/-- CHECKER_TEST: a checker that fails its injection counts as a permanent fault of the unit it guards (R481). -/
def execCheckerTest (unit : CheckedUnit) (pass : Bool) (s : State) : Out :=
  fabric s fun s =>
    if pass then s
    else
      let (u, i) := checkedUnit s unit
      let s1 := selftestFail (safeEvent s 5) u i 3
      match unit with
      | .tile t => tileFails s1 t.val
      | .activePair => pairFault s1
      | .standbyPair => retirePair s1 (1 - activePair s)
      | .tfuLane b => laneLost s1 b.toNat
      | .ifc => failIfc s1
      | .writers => safeState s1 9 u 0
      | .fabricLogic => fabricFault s1
      | .engine e => failEngine s1 e

/-! ### Tile rotation (R489, R490) -/

/-- The rotation step of a piste. -/
def rotOf (s : State) (p : Nat) : Option RotStep := tabGet none s.safe.rot p
def setRot (s : State) (p : Nat) (r : Option RotStep) : State :=
  let s1 := setSafe s fun f => { f with rot := tabSet none f.rot p r }
  wf s1 R.safeStatus p p r.isSome.toNat

/-- The next logical tile to rotate from place `k` on: one that sits alone on a tile of its piste. -/
def nextRotated (s : State) (p k : Nat) : Option (Nat × Nat) :=
  ((List.range 16).map fun i => 16 * p + (k + i) % 16).findSome? fun l =>
    match tileOf s l with
    | some n => if n / 17 = p ∧ ttLogical s n = l ∧ ttLogical2 s n = 0xFF then some (l, n) else none
    | none => none

/-- ROT_STOPPED of a piste without a free tile. -/
def rotStopped (s : State) (p : Nat) : State :=
  if rb s R.safeStatus (4 + p) then s
  else faultRec (setBits s R.safeStatus (bitW (4 + p))) 0x0208 (unitOf R.safeCtrl) p (leBytes 1 p) true

/-- At a job boundary the move begins: a grant on the stand-in is evacuated, the home range fenced and copied. -/
def rotBegin (s : State) (p : Nat) (r : RotStep) : State :=
  if s.safe.takeover.isSome || s.tiles.running.any fun t => t.p.tiles.contains r.logical then s
  else
    let g := grantOn s r.standIn
    let s1 := match g with
      | some j => setTtState (evacuate s j) r.standIn 6
      | none => s
    setRot (startMove s1 (homeOf r.logical) ⟨toTile r.standIn, none, none⟩) p (some { r with stage := .moving, grant := g })

/-- ROTATION_STEP: a piste begins a step, or, where one waits, tries its job boundary again. -/
def execRotationStep (p : Fin 4) (s : State) : Out :=
  fabric s fun s =>
    match rotOf s p.val with
    | some r => if r.stage = .waiting then rotBegin s p.val r else s
    | none =>
      if !rb s R.safeCtrl 0 || rb s R.safeStatus (4 + p.val) then s
      else
        match freeTile s p.val, nextRotated s p.val (rf s R.safeRotPos (7 * p.val + 6) (7 * p.val) % 16) with
        | none, _ => rotStopped s p.val
        | some _, none => s
        | some f, some (l, n) =>
          let r : RotStep := ⟨l, n, f, s.dt.now, .waiting, none⟩
          let s1 := wf s R.safeRotPos (7 * p.val + 6) (7 * p.val) (16 * p.val + (l + 1) % 16)
          rotBegin (setRot s1 p.val (some r)) p.val r

/-- ROTATION_WAIT_TIMEOUT: no job boundary came within SAFE_ROT_WAIT. -/
def execRotationWaitTimeout (p : Fin 4) (s : State) : Out :=
  fabric s fun s =>
    match rotOf s p.val with
    | some r =>
      if r.stage = .waiting ∧ r.since.toNat + 1000 * (rd s R.safeRotWait).toNat ≤ s.dt.now.toNat then
        bump (setRot s p.val none) R.safeRotSkip
      else s
    | none => s

/-- The range other than `r` that the redirect table sends to physical tile `t`. -/
def rangeOn (s : State) (r t : Nat) : Option Nat :=
  (List.range 68).find? fun k => k != r && !bit (rd s (R.memRedir k)) 31 && rf s (R.memRedir k) 22 16 == t

/-- The move of a rotation step is done: the stand-in holds the logical tile and its banks, the two home ranges name each
other's tiles, the released tile tests itself (R262, R489). -/
def rotSwap (s : State) (p : Nat) (r : RotStep) : State :=
  let s1 := match rangeOn s (homeOf r.logical) r.standIn with
    | some k => wr s (R.memRedir k) (toTile r.old)
    | none => s
  let s2 := showBanks (wr s1 (R.ttStatus r.standIn) (BitVec.ofNat 32 (r.logical * 0x1000000 + 0xFF0000 + ttState s r.old)))
    r.standIn r.logical
  setRot (wr s2 (R.ttStatus r.old) 0xFFFF0005) p (some { r with stage := .testing })

/-- The rotation step whose logical tile's range has just been released goes on. -/
def rotMoved (s : State) (range : Nat) : State :=
  match (List.range 4).findSome? fun p => (rotOf s p).bind fun r =>
      if r.stage = .moving ∧ homeOf r.logical = range then some (p, r) else none with
  | some (p, r) => rotSwap s p r
  | none => s

/-- FENCE_RELEASE: the fenced range's contents have moved, its entry changes, the held accesses go on in order (R263); it
waits for a range that still lies where the move ends (R249, R489). -/
def execFenceRelease (tile : Fin 68) (s : State) : Out :=
  fabric s fun s =>
    match tabGet none s.memx.moves tile.val with
    | some m => if targetBusy s tile.val m then s else rotMoved (finishMove s tile.val m) tile.val
    | none => s

/-- ROTATION_SELFTEST_END: the released tile becomes the free tile, and a grant that the step evacuated is to be restored to
it, or it is FAILED (R489, R490). -/
def execRotationSelftestEnd (p : Fin 4) (pass : Bool) (s : State) : Out :=
  fabric s fun s =>
    match rotOf s p.val with
    | none => s
    | some r =>
      if r.stage ≠ .testing then s
      else
        let s1 := setRot s p.val none
        if pass then
          let s2 := tileFree s1 r.old
          match r.grant with
          | some j => { s2 with memx := { s2.memx with restore := tabSet none s2.memx.restore j (some r.old) } }
          | none => s2
        else
          let s2 := wf (setTtState s1 r.old 7) R.glbCap 26 24 (rf s R.glbCap 26 24 - 1)
          let s3 := selftestFail s2 (unitOf (R.ttStatus 0)) r.old 0
          if (freeTile s3 p.val).isNone then rotStopped s3 p.val else s3

/-! ### Scheduling boundaries and the black box (R484, R491 to R496) -/

/-- SCHEDULING_BOUNDARY: the active pair writes its mirror while a standby receives it. On the way to GLIDE, CPB hands over
to CPA there, without record or flag (R505). -/
def execSchedulingBoundary (s : State) : Out :=
  fabric s fun s =>
    if !rb s R.glbStatus 2 || s.safe.switching.isSome then s
    else
      let s1 := setSafe s fun f => { f with mirror := some s.dt.now }
      if s.pwr.target = some .glide ∧ activePair s = 1 then wf (completeAll s1 1) R.glbStatus 1 1 0 else s1

/-- Bytes written to the MRAM. -/
def mramWrite (b : Bbx) (a : Nat) (l : List Byte) : Bbx :=
  { b with mram := ((List.range l.length).zip l).foldl (fun m e => tabSet 0 m (a + e.1) e.2) b.mram }

/-- Whether a slot is pinned. -/
def isPinned (b : Bbx) (k : Nat) : Bool := decide ((k + b.slots - b.pinFirst) % b.slots < b.pinned)

/-- The slot that the next record takes. -/
def nextSlot (b : Bbx) : Nat := if isPinned b b.slot then (b.pinFirst + b.pinned) % b.slots else b.slot

/-- The header for its next write (R494). -/
def bbxHeader (b : Bbx) : List Byte :=
  let body := leBytes 4 b.gen.toNat ++ leBytes 4 b.seq.toNat ++ leBytes 4 b.slot ++ leBytes 4 b.boot.toNat ++
    leBytes 4 b.pinFirst ++ leBytes 2 b.pinned ++ leBytes 2 b.flags ++ leBytes 36 0
  body ++ leBytes 4 (crc32c body)

/-- The header written to the copy whose turn it is. -/
def writeHeader (b : Bbx) : Bbx :=
  let b1 := { b with gen := b.gen + 1 }
  mramWrite b1 (if b1.gen.toNat % 2 = 1 then 2048 else 0) (bbxHeader b1)

/-- A record as it lies in the MRAM (R491). -/
def bbxBytes (b : Bbx) (r : BbxRec) : List Byte :=
  let body := leBytes 4 b.seq.toNat ++ leBytes 8 r.dt.toNat ++ leBytes 2 r.code ++ leBytes 2 r.unit ++ padTo 36 r.args ++
    leBytes 4 b.boot.toNat ++ leBytes 4 0
  body ++ leBytes 4 (crc32c body)

/-- Pinning of the record just written to slot `k` (R496). -/
def pinRecord (b : Bbx) (k code : Nat) : Bbx :=
  let fatal := code == 0x0206
  let flags := if fatal && decide (0 < b.pinned) then 1 else b.flags
  if b.pinned = 0 then (if fatal then { b with pinFirst := k, pinned := 1 } else b)
  else { b with pinned := min 512 (b.pinned + 1), flags := flags }

/-- SAFE_BBX_SEQ, SAFE_BBX_PINNED and SAFE_BOOT_CNT show the writer's state. -/
def syncBbx (s : State) : State :=
  let b := s.bbx
  wr (wr (wr s R.safeBbxSeq b.seq) R.safeBbxPinned (BitVec.ofNat 32 (b.flags % 2 * 0x80000000 + b.pinned % 1024)))
    R.safeBootCnt b.boot

/-- BBX_RECORD_WRITTEN: the oldest queued record and the header are in the MRAM; its event is posted then (R495). -/
def execBbxRecordWritten (s : State) : Out :=
  .next (match s.bbxQueue with
    | [] => s
    | r :: rest =>
      let k := nextSlot s.bbx
      let l := bbxBytes s.bbx r
      let b := pinRecord (mramWrite s.bbx (4096 + 64 * k) l) k r.code
      let s1 := syncBbx { s with
        bbxQueue := rest
        bbx := writeHeader { b with seq := b.seq + 1, slot := (k + 1) % b.slots }
        mst := { s.mst with bbxSince := s.mst.bbxSince ++ [l] } }
      if r.post && s.up then postEvent s1 r.dt r.code (r.unit % 256) (r.args.take 12) else s1)

end Sys2Proof.Machine
end

