-- ==== Sys2Proof/Machine/Power.lean ====
section
/-! DEFINITION. Power states, parked domains, the governor, thermal limits, the VDD_CORE target, PWR_FAIL_N, and the clock and
rail monitors (R480, R499 to R521, R566). -/

namespace Sys2Proof.Machine

/-- Power, and the always-on domain, replaced. -/
def setPwr (s : State) (f : Pwr → Pwr) : State := { s with pwr := f s.pwr }
def setAon (s : State) (f : Aon → Aon) : State := { s with aon := f s.aon }

/-- A PWR_EVENT bit. -/
def pwrEvent (s : State) (b : Nat) : State := setBits s R.pwrEvent (bitW b)

/-- The code of a power state. -/
def pstateCode (p : PState) : Nat := match p with | .run => 0 | .glide => 1 | .hold => 2

/-- A record of the power-event table. -/
def powerRec (s : State) (code : Nat) (args : List Byte) (post : Bool) : State := bbx s code (unitOf R.pwrReq) args post

/-! ### Domains (R499 to R502) -/

/-- Whether any inertial slot is enabled, at ingress or at the filter chain. -/
def inertialOn (s : State) (i : Nat) : Bool := rb s (R.ingIsCfg i) 31 || rb s (R.ifcIsCfg i) 31

/-- Whether a job is queued or running at a unit code. -/
def unitBusy (s : State) (u : Nat) : Bool :=
  !(queueOf s u).isEmpty || !(startedAt s u).isEmpty ||
  (match u with
   | 0x10 => !s.tiles.running.isEmpty
   | 0x11 => (List.range 16).any fun e => (ceJob s e).isSome
   | 0x13 => s.lse.taken.isSome || s.lse.solve.isSome || !s.lse.builds.isEmpty
   | 0x14 => s.prs.run.isSome
   | 0x15 => s.mst.write.isSome
   | _ => (visJob s u).isSome)

/-- Whether the domain of a bit of `PWR_PARK` is in use (R501). -/
def parkInUse (s : State) (b : Nat) : Bool :=
  if b ≤ 5 then unitBusy s (b + 1)
  else if b ≤ 7 then unitBusy s 0x13
  else if b = 8 then (List.range 16).any fun n => fsEn s n && fsType s n == 0
  else if b = 9 then ((List.range 16).any fun n => fsEn s n && fsType s n == 1) || dtSel s == 1
  else (List.range 4).any fun i => rb s (R.ifcIsCfg i) 31

/-- PWR_PARK_WRITE: parks and unparks domains; bits 6 and 7 go together, and with them goes the LSE memory (R499, R501). -/
def execPwrParkWrite (v : Word) (s : State) : Out :=
  fabric s fun s =>
    let both : Word := if bit v 6 || bit v 7 then 0xC0 else 0
    let new : Word := (v &&& 0x73F) ||| both
    let old := rd s R.pwrPark
    if (List.range 11).any fun b => bit new b && !bit old b && parkInUse s b then errFree s R.pwrErr 1 R.pwrErrInfo 0xF
    else
      let s1 := wr s R.pwrPark new
      if bit new 6 && !bit old 6 then forget s1 lseBase 0x800000 else s1

/-- Whether a switched domain is on (R436, R499 to R501). -/
def domainOn (s : State) (d : Nat) : Bool :=
  let parked := decide (76 ≤ d) && decide (d ≤ 83) && rb s R.pwrPark (d - 76) || decide (92 ≤ d) && decide (d ≤ 94) && rb s R.pwrPark (d - 84)
  if s.pwr.pstate = .glide then (d == 76 || d == 78 || d == 92 || d == 94) && !parked
  else if d < 68 then ttState s d != 0 && ttState s d != 3 && ttState s d != 7
  else if d < 76 then !lostCh s (d - 68)
  else !parked

/-- PWR_DOM_ONw. -/
def domainWord (s : State) (w : Nat) : Word :=
  BitVec.ofNat 32 ((List.range 32).foldl (fun v b => if domainOn s (32 * w + b) then v + 2 ^ b else v) 0)

/-! ### Requests (R503, R504, R508) -/

/-- Whether a device address range lies in the slab, or in the slab or host memory. -/
def inSlab (a n : Nat) : Bool := decide (slabBase ≤ a) && decide (a + n ≤ slabBase + 0x3000000)
def slabOrHost (a n : Nat) : Bool := inSlab a n || decide (hostBase ≤ a)

/-- Whether a graph names no unit but FDD0, TME0, TFU and SYNC. -/
def glideGraph (g : Graph) : Bool := g.gates.all fun e => e.unit == 0 || e.unit == 1 || e.unit == 3 || e.unit == 0x12

/-- The conditions of R504. -/
def glideOk (s : State) : Bool :=
  let n := rf s R.pwrGlideCfg 3 0
  let i := rf s R.pwrGlideCfg 9 8
  let bufs := fsNbuf s n
  fsEn s n && fsType s n == 0 && pyrEngine s n == some 0 &&
  inSlab (fsBuf s n 0) (fsBuf s n (bufs - 1) + fsBytes s n - fsBuf s n 0) &&
  inSlab (pyrBuf s 0 n 0) (pyrBuf s 0 n (bufs - 1) + levelOfs s n (builtLevels s 0 n) - pyrBuf s 0 n 0) &&
  rb s (R.ifcIsCfg i) 31 && rb s R.tfuEgoCfg 31 && rf s R.tfuEgoCfg 29 28 == i &&
  slabOrHost (rd64 s (R.ifcIsOutLo i) (R.ifcIsOutHi i)).toNat (64 * 2 ^ rf s (R.ifcIsOutcfg i) 3 0) &&
  slabOrHost (rd64 s R.tfuInnovLo R.tfuInnovHi).toNat (32 * 2 ^ rf s R.tfuInnovCfg 3 0) &&
  ((List.range 16).all fun k => k == n || !fsEn s k) && ((List.range 4).all fun k => k == i || !inertialOn s k) &&
  dtSel s != 1 &&
  (s.fgs.runs.all fun r => match graphOf s r.graph with | some g => glideGraph g | none => true) &&
  ([2, 4, 5, 6, 0x10, 0x11, 0x13, 0x14, 0x15].all fun u => !unitBusy s u) && s.mst.programming.isEmpty &&
  (activePair s == 0 || rb s R.glbStatus 2)

/-- Why a request is refused (R503); `none` is target code 0b11. DESIGN CHOICE, log entry 25: the lowest reason that applies. -/
def requestBad (s : State) (t : Option PState) (acser : Bool) : Option Nat :=
  if s.pwr.target.isSome then some 1
  else match t with
    | none => if s.aon.failLow then some 3 else some 6
    | some p =>
      if p = s.pwr.pstate then some 2
      else if s.aon.failLow ∧ p ≠ .hold then some 3
      else if p = .glide ∧ glideOk s = false then some 4
      else if p = .hold ∧ acser = false ∧ rb s R.glbStatus 4 = true then some 5
      else none

/-- A request accepted: work outside the target's set stops (R502), HOLD entry stops the map store (R508). -/
def powerAccept (s : State) (p : PState) (acser : Bool) : State :=
  let s1 := setBits (setPwr s fun w => { w with target := some p, since := s.dt.now, acser := acser }) R.pwrStatus 8
  if p = .hold then mstStop s1 else s1

/-- A request through PWR_REQ. -/
def powerRequest (t : Option PState) (s : State) : State :=
  match requestBad s t false, t with
  | none, some p => powerAccept s p false
  | some r, _ => errInfo s R.pwrErr 0 R.pwrErrInfo (BitVec.ofNat 32 r)
  | none, none => s

/-- REQUEST_RUN, REQUEST_GLIDE, REQUEST_HOLD. -/
def execRequestRun (s : State) : Out := fabric s (powerRequest (some .run))
def execRequestGlide (s : State) : Out := fabric s (powerRequest (some .glide))
def execRequestHold (s : State) : Out := fabric s (powerRequest (some .hold))

/-- The change is complete: state, event, record. -/
def powerEntered (s : State) (p : PState) : State :=
  let us := min 0xFFFFFFFF ((s.dt.now - s.pwr.since).toNat / 1000)
  let args := leBytes 1 (pstateCode s.pwr.pstate) ++ leBytes 1 (pstateCode p) ++ leBytes 2 0 ++ leBytes 4 us
  let s1 := setPwr (setAon s fun a => { a with lastChange := pstateCode s.pwr.pstate + 256 * pstateCode p }) fun w => { w with
    pstate := p, target := none }
  let s2 := wf (wf (clrBits s1 R.pwrStatus 8) R.pwrStatus 1 0 (pstateCode p % 2)) R.glbStatus 7 6 (pstateCode p % 2)
  powerRec (pwrEvent s2 4) 0x0401 args true

/-- HOLD: the core rails are off, and the wake latches armed; what the always-on domain keeps is taken over. -/
def enterHold (s : State) : State :=
  let s1 := setAon s fun a => { a with
    boot := .hold, wakeEn := (rd s R.pwrWakeEn).toNat % 32, wakeTimer := (rd s R.pwrWakeTimer).toNat, wakeDue := none }
  { armWake s1 with up := false }

/-- CPB is switched on and tests itself (R505). -/
def startStandby (s : State) : State :=
  if s.safe.retired.isEmpty then setSafe s fun f => { f with coreTest := some (1 - activePair s, false) } else s

/-- PSTATE_CHANGE_COMPLETE: GLIDE is complete once CPA is active and the vision engines of the glide set are between jobs
(R503 to R508). -/
def execPstateChangeComplete (s : State) : Out :=
  fabric s fun s =>
    match s.pwr.target with
    | none => s
    | some .glide =>
      if activePair s = 1 ∨ (visJob s 1).isSome ∨ (visJob s 3).isSome then s
      else powerEntered (setSafe (standbyOk (setBits s R.gdrStatus 4) false) fun f => { f with coreTest := none }) .glide
    | some .run =>
      if (visJob s 1).isSome ∨ (visJob s 3).isSome then s else startStandby (powerEntered (clrBits s R.gdrStatus 4) .run)
    | some .hold => enterHold (powerEntered s .hold)

/-! ### Wake (R509, R518) -/

/-- A wake with its cause: deferred while PWR_FAIL_N is low, refused after a thermal shutdown while it is still hot. -/
def wakeUp (s : State) (cause : Nat) : State :=
  if s.aon.boot ≠ .hold ∨ (s.aon.shutdown ∧ 95 * 16 ≤ s.aon.temp) then s
  else if s.aon.failLow then setAon s fun a => { a with wakeDue := some (Nat.lor (a.wakeDue.getD 0) cause) }
  else setAon (setPwr s fun w => { w with since := s.dt.now }) fun a => { a with
    boot := .rails, wakeCause := cause, wakeDue := none, shutdown := false }

/-- The bits of `PWR_WAKE_EN` whose latches are set. -/
def wakeBits (s : State) : Nat :=
  (inSet s.evc.wake 12).toNat + 2 * ((List.range 16).any fun k => inSet s.evc.wake (13 + k)).toNat +
  4 * (inSet s.evc.wake 464).toNat + 8 * (inSet s.evc.wake 384).toNat

/-- HOLD_WAKE: an enabled latch ends HOLD. -/
def execHoldWake (s : State) : Out :=
  let c := Nat.land (wakeBits s) s.aon.wakeEn
  .next (if c = 0 then s else wakeUp s c)

/-- HOLD_WAKE_TIMER. -/
def execHoldWakeTimer (s : State) : Out :=
  .next (if s.aon.wakeEn / 16 % 2 = 1 ∧ s.aon.wakeTimer ≠ 0 then wakeUp s 16 else s)

/-! ### ARRAY_CLK and VDD_CORE (R515, R566) -/

/-- The ARRAY_CLK step in effect. -/
def clockStep (s : State) : Nat := rf s R.pwrStatus 11 8

/-- The VDD_CORE target of a step, in mV. -/
def voltOf (k : Nat) : Nat := 650 + 5 * (Config.avsStep k % 31)

/-- A new target goes out, unless the last one is not yet reported reached. -/
def avsRequest (s : State) (mv : Nat) : State :=
  if s.pwr.avs.isSome || mv == s.pwr.volt then s else setPwr s fun w => { w with avs := some mv }

/-- The lower of the two clocks takes effect: downwards the clock first and then the voltage, upwards the voltage first. -/
def applyClock (s : State) : State :=
  let want := max s.pwr.gov s.pwr.therm
  let cur := clockStep s
  if cur ≤ want then
    let s1 := wf (setPwr s fun w => { w with raise := none }) R.pwrStatus 11 8 want
    if cur < want then avsRequest s1 (voltOf want) else s1
  else if s.pwr.avs.isNone ∧ voltOf want ≤ s.pwr.volt then
    avsRequest (wf (setPwr s fun w => { w with raise := none }) R.pwrStatus 11 8 want) (voltOf want)
  else avsRequest (setPwr s fun w => { w with raise := some want }) (voltOf want)

/-- AVS_TARGET_REACHED: the regulator reports its target reached; a raise that waits for it proceeds. -/
def execAvsTargetReached (s : State) : Out :=
  fabric s fun s =>
    match s.pwr.avs with
    | none => s
    | some mv =>
      let s1 := setPwr s fun w => { w with volt := mv, avs := none }
      match s1.pwr.raise with
      | some _ => applyClock s1
      | none => avsRequest s1 (voltOf (clockStep s1))

/-! ### The governor (R512 to R514) -/

/-- The cap in force. -/
def powerCap (s : State) : Nat :=
  let c := (rd s R.pwrCap).toNat
  if 10000 ≤ c ∧ c ≤ 40000 then c else 40000

/-- Samples above the cap, and the mean of the window. -/
def excess (s : State) : Nat := (s.pwr.window.filter fun p => decide (powerCap s < p)).length
def meanPower (s : State) : Nat := s.pwr.window.sum / max 1 s.pwr.window.length

/-- The governor lowers ARRAY_CLK to a step at least `k`. -/
def govern (s : State) (k : Nat) : State := applyClock (setPwr s fun w => { w with gov := min 12 (max w.gov k) })

/-- LIMIT entered or left. -/
def limitRecord (s : State) (enter : Bool) : State :=
  let args := leBytes 1 enter.toNat ++ leBytes 3 0 ++ leBytes 4 (meanPower s) ++ leBytes 1 (clockStep s)
  powerRec (wf (setPwr (pwrEvent s 1) fun w => { w with limit := enter }) R.pwrStatus 4 4 enter.toNat) 0x0402 args true

/-- LIMIT ends when the clock is back at 2.0 GHz and E is below 100 ms. -/
def leaveLimit (s : State) : State :=
  if s.pwr.limit ∧ clockStep s = 0 ∧ excess s < 1000 then limitRecord s false else s

/-- POWER_SAMPLE. -/
def execPowerSample (mw : Nat) (s : State) : Out :=
  fabric s fun s =>
    let s1 := setPwr s fun w => { w with window := (mw :: w.window).take 20000 }
    let s2 := wr (wr (wr s1 R.pwrNow (BitVec.ofNat 32 mw)) R.pwrAvg (BitVec.ofNat 32 (meanPower s1))) R.pwrExcess
      (BitVec.ofNat 32 (100 * excess s1))
    let s3 := if 0 < clockStep s2 then bumpN s2 R.pwrThrotUs 100 else s2
    let s4 := if 48000 < mw then govern (pwrEvent s3 1) (s3.pwr.gov + 1) else s3
    let s5 := if 1999 ≤ excess s4 ∧ powerCap s4 < mw then govern s4 12 else s4
    leaveLimit s5

/-- GOVERNOR_LIMIT: E has reached 190 ms. -/
def execGovernorLimit (s : State) : Out :=
  fabric s fun s => if s.pwr.limit ∨ excess s < 1900 then s else limitRecord (bump s R.pwrLimitCnt) true

/-- GOVERNOR_TICK: a 1 ms boundary in LIMIT. -/
def execGovernorTick (s : State) : Out :=
  fabric s fun s =>
    if !s.pwr.limit then s
    else
      let n := min 10 (s.pwr.sinceRaise + 1)
      let s1 := setPwr s fun w => { w with sinceRaise := n }
      let last := s.pwr.window.headD 0
      if powerCap s < last then govern s1 (s.pwr.gov + 1)
      else if last + 1000 < powerCap s ∧ meanPower s < powerCap s ∧ n = 10 ∧ 0 < s.pwr.gov then
        leaveLimit (applyClock (setPwr s1 fun w => { w with gov := w.gov - 1, sinceRaise := 0 }))
      else leaveLimit s1

/-! ### Thermal limits (R516 to R518) -/

/-- The highest reading and its sensor. -/
def hottest (l : List Int) : Int × Nat :=
  ((List.range l.length).zip l).foldl (fun m e => if m.1 < e.2 then (e.2, e.1) else m) (l.headD 0, 0)

/-- THERMAL_SHUTDOWN: the core rails go off and HOLD is held until the device has cooled. -/
def thermalShutdown (s : State) (tj : Int) (sensor : Nat) : State :=
  let s1 := powerRec s 0x0404 (leBytes 2 0 ++ leBytesI 2 tj ++ leBytes 1 sensor) false
  let s2 := enterHold (alertOn (mstStop s1) 1)
  setAon (setPwr s2 fun w => { w with pstate := .hold, target := none }) fun a =>
    { a with shutdown := true, lastChange := pstateCode s.pwr.pstate + 256 * pstateCode .hold }

/-- THERMAL_SAMPLE: the sixteen sensors of the die and the always-on sensor, in 1/16 °C. -/
def execThermalSample (tj : List Int) (aon : Int) (s : State) : Out :=
  let s0 := setAon s fun a => { a with temp := aon }
  .next (if !s.up then s0
    else
      let (t, k) := hottest tj
      let s1 := wr s0 R.pwrTj (BitVec.ofNat 32 (k % 32 * 65536 + (t % 65536).toNat))
      let top := max (sext 16 (rf s R.pwrTjMax 15 0)) t
      let s2 := wr s1 R.pwrTjMax (BitVec.ofNat 32 (top % 65536).toNat)
      let s3 := if ((rd s R.pwrTalarm).toNat : Int) * 16 ≤ t then pwrEvent s2 2 else s2
      if 115 * 16 ≤ t then thermalShutdown s3 t k else s3)

/-- THROTTLE entered or left. -/
def throttleRecord (s : State) (enter : Bool) : State :=
  let args := leBytes 1 enter.toNat ++ leBytes 1 0 ++ leBytes 2 (rf s R.pwrTj 15 0) ++ leBytes 1 (rf s R.pwrTj 20 16)
  powerRec (wf (pwrEvent s 3) R.pwrStatus 5 5 enter.toNat) 0x0403 args true

/-- The thermal step moved. -/
def setTherm (s : State) (k : Nat) : State :=
  let s1 := applyClock (setPwr s fun w => { w with therm := k })
  if s.pwr.therm = 0 ∧ 0 < k then throttleRecord s1 true
  else if 0 < s.pwr.therm ∧ k = 0 then throttleRecord s1 false
  else s1

/-- THERMAL_STEP: a 1 ms boundary; `tenMs` says that it is a 10 ms boundary too. -/
def execThermalStep (tenMs : Bool) (s : State) : Out :=
  fabric s fun s =>
    let tj := sext 16 (rf s R.pwrTj 15 0)
    if 105 * 16 ≤ tj then setTherm s (min 12 (s.pwr.therm + 1))
    else if tenMs ∧ tj < 102 * 16 ∧ 0 < s.pwr.therm then setTherm s (s.pwr.therm - 1)
    else s

/-! ### PWR_FAIL_N, clocks and rails (R425, R480, R503, R509, R511, R546) -/

/-- Whether the core rails are on, or coming on. -/
def coreOn (s : State) : Bool :=
  match s.aon.boot with
  | .off | .aonReset | .railDefer | .rails | .railsFailed | .hold => false
  | .rom | .recovery | .training | .trained | .ready | .coreHeld | .failed => true

/-- PWR_FAIL: PWR_FAIL_N falls. -/
def execPwrFail (s : State) : Out :=
  let s1 := setAon s fun a => { a with failLow := true }
  .next (if s.aon.failLow ∨ s.aon.boot = .off then s1
    else
      let s2 := powerRec s1 0x0405 (leBytes 1 (pstateCode s.pwr.pstate)) true
      if s.up then mstStop (pwrEvent s2 0) else s2)

/-- PWR_FAIL_N_RISE: a deferred wake, or PWR_EN_CORE held back, goes on. -/
def execPwrFailNRise (s : State) : Out :=
  let s1 := setAon s fun a => { a with failLow := false }
  .next (match s.aon.wakeDue with
    | some c => wakeUp s1 c
    | none => if s.aon.boot = .railDefer then setAon s1 fun a => { a with boot := .rails } else s1)

/-- CLOCK_FAULT: safe state, or, in HOLD, a CLOCK record and the loss of DT (R511). -/
def execClockFault (s : State) : Out :=
  .next (if s.up then safeState s 14 (unitOf R.pwrReq) 0
    else if s.aon.boot = .hold then
      setAon (wr { powerRec s 0x0406 (leBytes 1 0) false with dt := Dt.reset } R.dtFreq 0) fun a => { a with clockLost := true }
    else s)

/-- RAIL_FAULT: a rail monitor trips, or PWR_GOOD_CORE falls, while the core is on. -/
def execRailFault (s : State) : Out :=
  .next (if coreOn s && !s.safe.inSafe then safeState s 15 (unitOf R.pwrReq) 0 else s)

end Sys2Proof.Machine
end

