-- ==== Sys2Proof/Machine/Startup.lean ====
section
/-! DEFINITION. Resets and start-up: what a reset of the fabric domain leaves, the order of the boot, its failures, recovery
(R38, R524, R529, R545 to R559, R575). -/

namespace Sys2Proof.Machine

/-! ### What a reset leaves (R38, R520, R543, R555) -/

/-- The identity key's hash: SHA-384 of the public key in uncompressed form (R529). -/
def devId : List Byte := sha384 (4 :: (List.range 96).map Config.idKey)

/-- The words of a 48-byte value in a row of registers. -/
def putWords (s : State) (reg : Nat → Nat) (l : List Byte) : State :=
  (List.range 12).foldl (fun st w => wr st (reg w) (BitVec.ofNat 32 (rec8 l (4 * w) 4))) s

/-- The SEC registers as fuses, identity and session show them. -/
def syncSec (s : State) : State :=
  let c := s.sec
  let st := c.lockFuse.toNat * 128 + c.ownerSet.toNat * 64 + c.idOk.toNat * 32 + c.session.toNat * 16
  let s1 := wr s R.secStatus ((rd s R.secStatus &&& 0x30F) ||| BitVec.ofNat 32 st)
  let s2 := wr (wr s1 R.secFuseSvn (BitVec.ofNat 32 c.fuseSvn)) R.secVrCnt (BitVec.ofNat 32 c.fuseVr)
  putWords s2 R.secDevid (if c.idOk then devId else [])

/-- DT after a reset of the fabric domain: the holdover counter and the frequency estimate go on (R38). -/
def carriedDt (d : Dt) : Dt :=
  { Dt.reset with now := d.now, prev := d.prev, frac := d.frac, everSet := d.everSet, servo := if d.everSet then .free else .unset }

/-- Power after a reset of the fabric domain: an exit from HOLD is a change that completes with READY. -/
def carriedPwr (p : Pwr) : Pwr := if p.pstate = .hold then { Pwr.reset with pstate := .hold, target := some .run, since := p.since } else Pwr.reset

/-- Host memory, which no reset of the device touches. -/
def hostCells (m : List Host.Cell) : List Host.Cell := m.filter fun e => decide (hostBase ≤ e.1)

/-- The fabric domain and every switched domain reset. The map store recovers what a power loss leaves it (R429); the
always-on domain, the flash and the MRAM stay. -/
def fabricReset (s : State) : State :=
  let q := discardOpen (recoverInFlight s)
  { State.reset with
    pending := s.pending, up := true, straps := s.straps, gradeX := s.gradeX, rdata := s.rdata
    mem := hostCells s.mem, poison := s.poison.filter fun u => decide (hostBase ≤ u)
    msixSent := s.msixSent, bbxQueue := s.bbxQueue, fresh := q.fresh
    dt := carriedDt s.dt, pwr := carriedPwr s.pwr
    evc := { Evc.reset with wake := s.evc.wake, wakeMask := s.evc.wakeMask, wakeArmed := s.evc.wakeArmed }
    mst := q.mst, bbx := s.bbx, aon := { s.aon with released := s.dt.now, fromSafe := false, clockLost := false }
    sec := { s.sec with pkg := [], header := [], fallback := false, slot := 0, recovery := none, recovered := none } }

/-- The registers that show at once what the always-on domain, the straps, the part and the fuses hold. -/
def showKept (old s : State) : State :=
  let f := rd old R.dtFreq
  let s1 := wr (wr s R.glbId (if s.gradeX then 0x4807B058 else 0x4807B043)) R.glbStrap (s.straps.setWidth 32)
  let s2 := wr (wr s1 R.dtFreq f) R.dtRate f
  let s3 := wr (wr (wr s2 R.pwrTj (rd old R.pwrTj)) R.pwrTjMax (rd old R.pwrTjMax)) R.pwrWakeCause (BitVec.ofNat 32 s.aon.wakeCause)
  syncSec (syncBbx (if s.pwr.target.isSome then setBits s3 R.pwrStatus 8 else s3))

/-- A record of a start-up: unit of the AON mirror. -/
def startRec (s : State) (code : Nat) (args : List Byte) : State := bbx s code 0x34 args false

/-- RESET, with kind and cause. -/
def resetRec (s : State) (kind cause : Nat) : State := startRec s 0x0702 (leBytes 1 kind ++ leBytes 1 cause)

/-- The boot count increases by 1 (R491). -/
def bumpBoot (s : State) : State := { s with bbx := { s.bbx with boot := s.bbx.boot + 1 } }

/-- Milliseconds since the fabric reset was released. -/
def sinceRelease (s : State) : Nat := if s.up then (s.dt.now - s.aon.released).toNat / 1000000 else 0

/-- A start-up stops at a stage (R557): the fabric is held in reset, ALERT_N falls; before the rails are on they stay off. -/
def startFail (s : State) (stage which : Nat) : State :=
  let args := leBytes 1 stage ++ leBytes 1 which ++ leBytes 2 0 ++ leBytes 4 (sinceRelease s)
  let s1 := alertOn (startRec s 0x0701 args) 2
  setAon { s1 with up := false } fun a => { a with boot := if stage ≤ 2 then .railsFailed else .failed, window := false }

/-! ### Supply and crystal (R545, R546, R555) -/

/-- What survives without supply: straps and part as the board has them, host memory, the NAND, the MRAM, the NOR and the
fuses. -/
def supplyOff (s : State) (b : Boot) : State :=
  let q := discardOpen (recoverInFlight s)
  { State.reset with
    pending := s.pending, straps := s.straps, gradeX := s.gradeX, mem := hostCells s.mem
    poison := s.poison.filter fun u => decide (hostBase ≤ u), msixSent := s.msixSent, fresh := q.fresh, mst := q.mst
    bbx := { s.bbx with pinRead := [] }
    aon := { Aon.reset with boot := b, failLow := s.aon.failLow, perstLow := s.aon.perstLow, temp := s.aon.temp }
    sec := { Sec.blank with
      fuseSvn := s.sec.fuseSvn, fuseVr := s.sec.fuseVr, ownerHash := s.sec.ownerHash, ownerSet := s.sec.ownerHash.isSome
      lockFuse := s.sec.lockFuse, nor := s.sec.nor } }

/-- POWER_ON_RESET: VDD_AON falls below its limit, or rises into it. -/
def execPowerOnReset (rise : Bool) (s : State) : Out :=
  .next (if rise then (if s.aon.boot = .off then supplyOff s .aonReset else s) else supplyOff s .off)

/-- CRYSTAL_STABLE: AON_CLK is checked, the AOM released, the identity derived (`idFail` 0 reconstruction, 1 helper CRC), the
boot count raised; PWR_EN_CORE rises unless PWR_FAIL_N is low. -/
def execCrystalStable (inWindow : Bool) (idFail : Option Nat) (s : State) : Out :=
  .next (if s.aon.boot ≠ .aonReset then s
    else if !inWindow then startFail s 1 0
    else
      let s1 := resetRec (bumpBoot (setSec s fun c => { c with idOk := idFail.isNone, ownerSet := c.ownerHash.isSome })) 0 0
      let s2 := match idFail with
        | some k => secRec s1 0x0604 (leBytes 1 k) true
        | none => s1
      setAon s2 fun a => { a with boot := if a.failLow then .railDefer else .rails })

/-- PWR_GOOD_TIMEOUT: the core rails have not come up within 100 ms. -/
def execPwrGoodTimeout (s : State) : Out := .next (if s.aon.boot = .rails then startFail s 2 0 else s)

/-! ### The boot ROM (R547, R550, R559) -/

/-- BOOT_SRC and SAFE_BOOT as sampled. -/
def bootSrc (s : State) : Nat := s.straps.toNat % 4
def safeBoot (s : State) : Bool := s.straps.getLsbD 2

/-- The release of the fabric reset: straps sampled, the boot ROM's lockstep self-test run on CPA and, where it fails there,
on CPB. -/
def releaseFabric (s : State) (cpa cpb : Bool) : State :=
  let wait := decide (2 ≤ bootSrc s)
  let s1 := setAon (showKept s (fabricReset s)) fun a => { a with
    boot := if wait then .recovery else .rom, window := bootSrc s == 1 }
  if cpa then s1
  else if cpb then retirePair (wf s1 R.glbStatus 1 1 1) 0
  else startFail s1 4 0

/-- PWR_GOOD_CORE_RISE: the PLLs start and the fabric reset is released; after HOLD this is the exit of R509. -/
def execPwrGoodCoreRise (cpa cpb : Bool) (s : State) : Out :=
  .next (if s.aon.boot ≠ .rails then s
    else releaseFabric (if s.pwr.pstate = .hold then resetRec s 2 3 else s) cpa cpb)

/-- CORE_RESET_RELEASE: 100 µs after a core reset, unless PWR_FAIL_N is low. -/
def execCoreResetRelease (cpa cpb : Bool) (s : State) : Out :=
  .next (if s.aon.boot ≠ .coreHeld ∨ s.aon.failLow then s
    else releaseFabric (resetRec (bumpBoot s) 1 (if s.aon.fromSafe then 2 else 1)) cpa cpb)

/-- RECOVER_WINDOW_TIMEOUT: no RECOVER BEGIN in the window of BOOT_SRC 0b01. -/
def execRecoverWindowTimeout (s : State) : Out :=
  fabric s fun s => if s.aon.boot = .rom then setAon s fun a => { a with window := false } else s

/-- The image in a slot of the NOR, header and body. -/
def slotImage (s : State) (slot : Nat) : List Byte :=
  match norBytes s (slotBase slot) 512 with
  | some h => if imgBody h + 512 ≤ slotSize then (norBytes s (slotBase slot) (512 + imgBody h)).getD [] else []
  | none => []

/-- A recovery image in the slab, where RECOVER has put it. -/
def slabImage (s : State) : List Byte :=
  let h := ldBytes s slabBase 512
  if imgBody h + 512 ≤ slotSize then ldBytes s slabBase (512 + imgBody h) else []

/-- The order in which images are tried (R524). -/
def tryOrder (s : State) : List Nat :=
  if safeBoot s then [2]
  else
    let a := match norDir s with | some d => d.slot | none => 0
    if a = 0 then [0, 1, 2] else if a = 1 then [1, 0, 2] else [2, 0, 1]

/-- The image that boots, with its bytes. -/
def chooseImage (s : State) : Option (Nat × List Byte) :=
  match s.sec.recovered with
  | some 3 => some (3, slabImage s)
  | some _ => some (2, slotImage s 2)
  | none => (tryOrder s).findSome? fun k =>
      let img := slotImage s k
      if firmwareValid img (if k = 2 then 2 else 1) s.sec.fuseSvn then some (k, img) else none

/-- The running image as SEC shows it, and the BOOT record. -/
def showImage (s : State) (slot : Nat) (img : List Byte) : State :=
  let h := slice img 0 512
  let active := match norDir s with | some d => d.slot | none => 0
  let fb := slot != active
  let s1 := setSec s fun c => { c with slot := slot, header := h, fallback := fb, recovered := none, recovery := none }
  let s2 := wr (wf (wf s1 R.secStatus 9 8 slot) R.secStatus 3 3 (imgKind h == 2).toNat) R.secFwSvn (BitVec.ofNat 32 (imgSvn h))
  let s3 := putWords (if fb then secEvent s2 0 else s2) R.secFwhash (sha384 h)
  secRec s3 0x0601 (leBytes 1 slot ++ leBytes 3 0 ++ leBytes 4 (imgSvn h) ++ leBytes 1 (fb.toNat + 2 * (safeBoot s).toNat)) true

/-! ### Firmware start-up (R227, R249, R404, R548, R549) -/

/-- The map of R227: logical tiles at home, the free tile of each piste. -/
def homeTiles (s : State) : State :=
  (List.range 68).foldl (fun st n =>
    wr st (R.ttStatus n) (if n % 17 = 16 then 0xFFFF0003 else BitVec.ofNat 32 ((n / 17 * 16 + n % 17) * 0x1000000 + 0xFF0001))) s

/-- A tile that fails its start-up self-test: FAILED, its logical tile placed by the order of R249 without a takeover
record. -/
def placeFailed (s : State) (n : Nat) : State :=
  let l := ttLogical s n
  let s1 := selftestFail s (unitOf (R.ttStatus 0)) n 1
  let s2 := wr s1 (R.ttStatus n) 0xFFFF0007
  if 64 ≤ l then s2
  else match takeoverTarget s2 n l with
    | some (f, how) =>
      if how = 2 then
        let (a, s3) := foldArea s2
        wr (wf s3 (R.ttStatus f) 23 16 l) (R.memRedir (homeOf l)) (toArea a)
      else
        wr (wr s2 (R.ttStatus f) (BitVec.ofNat 32 (l * 0x1000000 + 0xFF0000 + (decide (how = 1)).toNat * 16 + 1)))
          (R.memRedir (homeOf l)) (toTile f)
    | none => s2

/-- The failed tiles, each once: they are FAILED before any logical tile is placed. -/
def placeTiles (s : State) (bad : List Nat) : State :=
  let l := (List.range 68).filter fun n => bad.contains n
  let spare := (l.filter fun n => n % 17 == 16).foldl placeFailed s
  (l.filter fun n => n % 17 != 16).foldl (fun st n =>
    placeFailed (l.foldl (fun t m => if ttState t m = 1 ∧ ttLogical t m = m / 17 * 16 + m % 17 then wf t (R.ttStatus m) 3 0 7 else t) st) n)
    spare

/-- The flash channels trained, with the dies that answer. -/
def trainFlash (s : State) : State :=
  (List.range 8).foldl (fun st c =>
    let d := st.mst.flash.nand.dies.getD c 0 % 65536
    wr st (R.flcStatus c) (BitVec.ofNat 32 (d + (decide (d ≠ 0)).toNat * 65536))) s

/-- Raw capacity of the dies in use, in bytes, and the firmware GDDR6 region (R575). -/
def rawCapacity (s : State) : Nat :=
  let f := s.mst.flash.nand
  (usableCh s).length * popcount 16 (commonDies s) * f.blocks * f.natPages * 16384
def firmwareRegion (s : State) : Nat := 1664 + ceilDiv (rawCapacity s) (64 * 2 ^ 30)

/-- FIRMWARE_START: the boot ROM tries the images; firmware starts training and self-tests, and fixes the size of its
GDDR6 region. `badTiles` are the tiles that fail their self-test. -/
def execFirmwareStart (badTiles : List Nat) (s : State) : Out :=
  fabric s fun s =>
    if s.aon.boot ≠ .rom ∨ s.aon.window then s
    else match chooseImage s with
      | none => startFail s 6 0
      | some (slot, img) =>
        let s1 := trainFlash (showImage s slot img)
        let s2 := wr s1 R.memFwGdr (BitVec.ofNat 32 (firmwareRegion s1))
        setAon (startStandby (syncDegraded (placeTiles (homeTiles s2) badTiles))) fun a => { a with boot := .training }

/-- GDDR6_TRAINING_END: every channel is trained, or one has failed three attempts (R558). -/
def execGddr6TrainingEnd (failed : Option (Fin 16)) (s : State) : Out :=
  fabric s fun s =>
    if s.aon.boot ≠ .training then s
    else match failed with
      | some k => startFail s 5 k.val
      | none =>
        let (r, s1) := drawNat s
        let cfg := (s.straps.getLsbD 4).toNat * 256 + 14 + r % 7
        let s2 := wr (wr s1 R.gdrCfg (BitVec.ofNat 32 cfg)) R.gdrStatus 0xFFFF0001
        setAon ((List.range 16).foldl (fun st k => setBits st (R.gdrChStatus k) 1) s2) fun a => { a with boot := .trained }

/-- GLB_CAP: what start-up found. -/
def capWord (s : State) : Word :=
  let spares := ((List.range 68).filter fun n => ttState s n == 3 && ttLogical s n == 0xFF).length
  let active := ((List.range 68).filter fun n => ttLogical s n != 0xFF && ttState s n != 7).length
  let fc := (List.range 8).foldl (fun v c => if rb s (R.flcStatus c) 16 && !lostCh s c then v + 2 ^ c else v) 0
  BitVec.ofNat 32 (min 4 spares * 0x1000000 + fc * 0x10000 + active * 256 + gdrBytes s / 0x40000000)

/-- STARTUP_READY: once memory is trained and the mount has ended, GLB_CAP is written and READY set; an exit from HOLD is then
complete (R503, R548, R551). -/
def execStartupReady (s : State) : Out :=
  fabric s fun s =>
    if s.aon.boot ≠ .trained ∨ (!mstStatus s 0 ∧ !mstStatus s 10) then s
    else
      let s1 := setAon (setBits (wr s R.glbCap (capWord s)) R.glbStatus 1) fun a => { a with boot := .ready }
      if s1.pwr.pstate = .hold then powerEntered s1 .run else s1

end Sys2Proof.Machine
end

