-- ==== Sys2Proof/Machine/Acser.lean ====
section
/-! DEFINITION. The Acser port: frames, sessions, its commands, firmware recovery, quotes (R496, R530, R534 to R541, R556). -/

namespace Sys2Proof.Machine

/-! ### Frames (R534 to R536, R538, R539) -/

/-- A response frame. -/
def acserFrame (cmd : Nat) (seq : Byte) (status : Nat) (data : List Byte) : List Byte :=
  let body := leBytes 1 (cmd + 128) ++ [seq] ++ leBytes 2 (1 + data.length) ++ leBytes 1 status ++ data
  body ++ leBytes 4 (crc32c body)

/-- What a command answers: status and data, and the state it leaves. -/
structure Answer where
  status : Nat
  data : List Byte
  next : State

/-- An answer without data. -/
def answer (s : State) (status : Nat) : Answer := ⟨status, [], s⟩

/-- Whether the port answers at all: the always-on domain has supply and is out of reset. -/
def portUp (s : State) : Bool := match s.aon.boot with | .off | .aonReset => false | _ => true

/-- Whether the lock is set. -/
def secure (s : State) : Bool := rb s R.glbStatus 4

/-- A request arrives: refused frames are not run, a repeated request gets its stored response, an authorised command under the
lock needs a session, one that needs the core needs READY. -/
def acser (cmd : Nat) (authorised core : Bool) (seq : Byte) (payload : List Byte) (crcOk : Bool) (run : State → Answer) (s : State) : Out :=
  .next (if !portUp s then s
    else if !crcOk || decide (256 < payload.length) then setSec s fun c => { c with resp := acserFrame cmd seq 1 [] }
    else if s.sec.lastRun && s.sec.lastCmd == cmd && s.sec.lastSeq == seq.toNat then
      setSec s fun c => { c with resp := c.lastResp }
    else
      let a := if authorised && secure s && !s.sec.session then answer s 3
        else if core && !(s.up && rb s R.glbStatus 0) then answer s 4
        else run s
      let f := acserFrame cmd seq a.status a.data
      setSec a.next fun c => { c with lastRun := true, lastCmd := cmd, lastSeq := seq.toNat, resp := f, lastResp := f })

/-! ### HEALTH, BBX_READ, TIME (R496, R537) -/

/-- The causes of ALERT_N as a mask: bit 0 safe state, 1 thermal shutdown, 2 start-up failure. -/
def alertMask (l : List Nat) : Nat := l.foldl (fun v k => Nat.lor v (2 ^ k)) 0

/-- HEALTH. -/
def healthRun (s : State) : Answer :=
  ⟨0, leBytes 1 (pstateCode s.pwr.pstate) ++ leBytes 4 (rd s R.glbStatus).toNat ++ leBytes 4 (rd s R.safeStatus).toNat ++
    leBytes 4 (rd s R.safeLastFault).toNat ++ leBytes 4 s.bbx.seq.toNat ++ leBytes 2 s.bbx.pinned ++
    leBytes 4 (rd s R.pwrTj).toNat ++ leBytes 4 s.bbx.boot.toNat ++ leBytes 1 (alertMask s.aon.alerts) ++ leBytes 4 s.bbx.pinFirst, s⟩

/-- HEALTH (command 0x01). -/
def execHealth (seq : Byte) (payload : List Byte) (crcOk : Bool) (s : State) : Out :=
  acser 0x01 false false seq payload crcOk (fun s => if payload.isEmpty then healthRun s else answer s 2) s

/-- `n` bytes of the MRAM. -/
def mramBytes (b : Bbx) (a n : Nat) : List Byte := (List.range n).map fun i => tabGet 0 b.mram (a + i)

/-- The pinned slots among those read are noted by their place in the set. -/
def notePins (b : Bbx) (slots : List Nat) : Bbx :=
  let l := (slots.filter (isPinned b)).map fun k => (k + b.slots - b.pinFirst) % b.slots
  { b with pinRead := b.pinRead ++ l.filter fun i => !b.pinRead.contains i }

/-- The pins released, once every pinned record has been read. -/
def releasePins (b : Bbx) : Bbx :=
  if (List.range b.pinned).all fun i => b.pinRead.contains i then writeHeader { b with pinned := 0, flags := 0, pinRead := [] } else b

/-- BBX_READ: records of up to three slots. -/
def bbxReadRun (p : List Byte) (s : State) : Answer :=
  let n := rec8 p 1 3
  let k := rec8 p 4 4
  if p.length ≠ 8 ∨ n < 1 ∨ 3 < n ∨ s.bbx.slots ≤ k then answer s 2
  else
    let slots := (List.range n).filterMap fun i => if k + i < s.bbx.slots then some (k + i) else none
    let b := notePins s.bbx slots
    let b1 := if rec8 p 0 1 % 2 = 1 then releasePins b else b
    ⟨0, (slots.map fun i => mramBytes s.bbx (4096 + 64 * i) 64).flatten, syncBbx { s with bbx := b1 }⟩

/-- BBX_READ (command 0x02): authorised with RELEASE. -/
def execBbxRead (seq : Byte) (payload : List Byte) (crcOk : Bool) (s : State) : Out :=
  acser 0x02 (rec8 payload 0 1 % 2 == 1) false seq payload crcOk (bbxReadRun payload) s

/-- DT_STATUS (R48, R73). -/
def dtStatus (s : State) : Word :=
  let st := match s.dt.servo with
    | .unset => 0 | .free => 1 | .acquire => 2 | .locked => 3 | .qualify => 4 | .refusing => 5 | .holdover => 6
  BitVec.ofNat 32 (s.dt.armed.isSome.toNat * 65536 + min 8 s.dt.lock * 4096 + min 8 s.dt.qual * 256 + s.dt.everSet.toNat * 8 + st)

/-- TIME (command 0x07). -/
def execTime (seq : Byte) (payload : List Byte) (crcOk : Bool) (s : State) : Out :=
  acser 0x07 false false seq payload crcOk (fun s =>
    if payload.isEmpty then ⟨0, leBytes 8 s.dt.now.toNat ++ leBytes 4 (if s.up then (dtStatus s).toNat else 0), s⟩ else answer s 2) s

/-! ### CORE_RESET, POWER, SEM_SET (R91, R503, R509, R556) -/

/-- A core reset: a commit stripe being programmed finishes, then the fabric and every switched domain are held. Before the
fabric reset was ever released there is nothing to restart; core rails that failed to come up are tried again; in HOLD the
fabric is without supply already. -/
def coreReset (s : State) : State :=
  match s.aon.boot with
  | .off | .aonReset | .railDefer | .rails | .hold => s
  | .railsFailed => setAon s fun a => { a with boot := if a.failLow then .railDefer else .rails }
  | .rom | .recovery | .training | .trained | .ready | .coreHeld | .failed =>
    setAon { commitDone s with up := false } fun a => { a with boot := .coreHeld, fromSafe := s.safe.inSafe, window := false }

/-- CORE_RESET (command 0x03). -/
def execCoreReset (seq : Byte) (payload : List Byte) (crcOk : Bool) (s : State) : Out :=
  acser 0x03 true false seq payload crcOk (fun s => if payload.isEmpty then answer (coreReset s) 0 else answer s 2) s

/-- POWER: a request as through PWR_REQ; in HOLD, the target RUN wakes the device. -/
def powerRun (t : PState) (s : State) : Answer :=
  if s.aon.boot = .hold then
    match t with
    | .run => if s.aon.shutdown ∧ 95 * 16 ≤ s.aon.temp then answer s 7 else ⟨0, [0], wakeUp s 4⟩
    | .glide => ⟨0, [4], s⟩
    | .hold => ⟨0, [2], s⟩
  else if !s.up || !rb s R.glbStatus 0 then answer s 7
  else match requestBad s (some t) true with
    | none => ⟨0, [0], powerAccept s t true⟩
    | some r => ⟨0, leBytes 1 r, errInfo s R.pwrErr 0 R.pwrErrInfo (BitVec.ofNat 32 r)⟩

/-- POWER (command 0x04). -/
def execAcserPower (seq : Byte) (payload : List Byte) (crcOk : Bool) (s : State) : Out :=
  acser 0x04 true false seq payload crcOk (fun s =>
    if payload.length ≠ 1 then answer s 2
    else match rec8 payload 0 1 with
      | 0 => powerRun .run s
      | 1 => powerRun .glide s
      | 2 => powerRun .hold s
      | _ => answer s 2) s

/-- SEM_SET (command 0x08): the old count is answered. -/
def execAcserSemSet (seq : Byte) (payload : List Byte) (crcOk : Bool) (s : State) : Out :=
  acser 0x08 true true seq payload crcOk (fun s =>
    let i := rec8 payload 0 2
    if payload.length ≠ 8 ∨ 4096 ≤ i then answer s 2
    else ⟨0, leBytes 4 (semCount s i).toNat, semSetOp s 12 i (BitVec.ofNat 32 (rec8 payload 4 4)) 1⟩) s

/-! ### ATTEST (R530) -/

/-- The hash of a region of the NOR; zeros where no NOR answers. -/
def norHash (s : State) (a : Nat) : List Byte := match norBytes s a 512 with | some r => sha384 r | none => leBytes 48 0

/-- The package measurement. -/
def packageMeasure (s : State) : List Byte :=
  sha384 ((List.range 16).map fun c => padTo 48 (if s.up then tabGet [] s.sec.pkg c else [])).flatten

/-- The signed part of a quote. -/
def quoteBody (s : State) (nonce : List Byte) : List Byte :=
  let h := if s.up then s.sec.header else []
  let loaded := (List.range 16).foldl (fun v c => if s.up ∧ (tabGet none s.memx.ctx c).isSome then v + 2 ^ c else v) 0
  let fl := (secure s).toNat + 2 * s.sec.ownerSet.toNat + 4 * (safeBoot s).toNat +
    8 * (!h.isEmpty && imgKind h == 2).toNat + 16 * s.sec.fallback.toNat + 32 * (coreOn s).toNat
  leBytes 4 1 ++ leBytes 4 s.bbx.boot.toNat ++ leBytes 8 s.dt.now.toNat ++ padTo 48 nonce ++
    (if h.isEmpty then leBytes 48 0 else sha384 h) ++ norHash s 0x3000 ++ norHash s 0x4000 ++ packageMeasure s ++
    leBytes 4 (imgSvn h) ++ leBytes 4 s.sec.fuseSvn ++ leBytes 4 s.sec.fuseVr ++ leBytes 2 loaded ++ leBytes 1 fl ++
    leBytes 1 (pstateCode s.pwr.pstate) ++ padTo 48 devId ++ leBytes 96 0

/-- ATTEST: fragment 0 makes the quote, whose signature the identity key alone could give; the others read on. -/
def attestRun (p : List Byte) (s : State) : Answer :=
  let k := rec8 p 0 1
  if !s.sec.idOk then answer s 5
  else if k = 0 ∧ p.length = 49 then
    let (sig, s1) := freeBytes 96 s
    let q := quoteBody s (p.drop 1) ++ sig
    ⟨0, q.take 128, setSec s1 fun c => { c with quote := q }⟩
  else if 1 ≤ k ∧ k ≤ 3 ∧ p.length = 1 ∧ s.sec.quote.isEmpty = false then ⟨0, slice s.sec.quote (128 * k) 128, s⟩
  else answer s 2

/-- ATTEST (command 0x05). -/
def execAttest (seq : Byte) (payload : List Byte) (crcOk : Bool) (s : State) : Out :=
  acser 0x05 false false seq payload crcOk (attestRun payload) s

/-! ### RECOVER (R541, R559) -/

/-- The NOR replaced. -/
def setNor (s : State) (f : Nor → Nor) : State := setSec s fun c => { c with nor := c.nor.map f }

/-- Whether an image goes to the slab: the boot ROM waits for it under BOOT_SRC 0b10 or 0b11. -/
def toSlab (s : State) : Bool := decide (s.aon.boot = .recovery) && decide (2 ≤ bootSrc s)

/-- The recovery slot erased. -/
def eraseSlot (f : Nor) : Nor :=
  { f with bytes := f.bytes.filter fun e => decide (e.1 < slotBase 2 ∨ slotBase 2 + slotSize ≤ e.1) }

/-- Bytes programmed into the NOR. -/
def programNor (f : Nor) (a : Nat) (l : List Byte) : Nor :=
  { f with bytes := ((List.range l.length).zip l).foldl (fun m e => tabSet 0xFF m (a + e.1) e.2) f.bytes }

/-- BEGIN. In the window of BOOT_SRC 0b01 the boot ROM then waits for the image. -/
def recoverStart (p : List Byte) (s : State) : Answer :=
  let z := rec8 p 4 4
  if p.length ≠ 8 ∨ rec8 p 0 1 ≠ 0 ∨ slotSize < z ∨ (toSlab s = false ∧ s.sec.nor.isNone) then answer s 2
  else
    let s1 := setSec (if toSlab s then s else setNor s eraseSlot) fun c => { c with recovery := some ⟨z, 0, toSlab s⟩ }
    let s2 := if s.aon.boot = .rom ∧ s.aon.window then setAon s1 fun a => { a with boot := .recovery, window := false } else s1
    ⟨0, leBytes 4 0, s2⟩

/-- DATA. -/
def recoverMore (p : List Byte) (s : State) : Answer :=
  let d := p.drop 8
  match s.sec.recovery with
  | none => answer s 2
  | some r =>
    if p.length < 8 ∨ rec8 p 0 1 ≠ 1 ∨ rec8 p 4 4 ≠ r.got ∨ 248 < d.length ∨ r.size < r.got + d.length then answer s 2
    else
      let s1 := if r.slab then stBytes s (slabBase + r.got) d else setNor s fun f => programNor f (slotBase 2 + r.got) d
      let n := r.got + d.length
      ⟨0, leBytes 4 n, setSec s1 fun c => { c with recovery := some { r with got := n } }⟩

/-- The directory's next generation names the recovery slot, in the copy that is not in force. -/
def nameRecovery (s : State) : State :=
  let g := match norDir s with | some d => d.gen | none => 0
  setNor s fun f =>
    if f.dir0 = norDir s ∧ f.dir0.isSome then { f with dir1 := some ⟨g + 1, 2⟩ } else { f with dir0 := some ⟨g + 1, 2⟩ }

/-- RECOVERY: 0 accepted, 1 VERIFY_FAIL. -/
def recoveryRec (s : State) (r size : Nat) : State := secRec s 0x0606 (leBytes 1 r ++ leBytes 3 0 ++ leBytes 4 size) true

/-- END: a valid image is named by the directory, or, where the boot ROM waits for it, started. -/
def recoverStop (p : List Byte) (s : State) : Answer :=
  match s.sec.recovery with
  | none => answer s 2
  | some r =>
    if p.isEmpty ∨ rec8 p 0 1 ≠ 2 ∨ r.got ≠ r.size then answer s 2
    else
      let img := if r.slab then ldBytes s slabBase r.size else (norBytes s (slotBase 2) r.size).getD []
      let s1 := setSec s fun c => { c with recovery := none }
      if 512 ≤ img.length ∧ firmwareValid img 2 s.sec.fuseSvn = true then
        let s2 := recoveryRec (if r.slab then s1 else nameRecovery s1) 0 r.size
        let s3 := if s.aon.boot = .recovery then
            setAon (setSec s2 fun c => { c with recovered := some (if r.slab then 3 else 2) }) fun a => { a with boot := .rom }
          else s2
        ⟨0, leBytes 4 r.size, s3⟩
      else answer (recoveryRec s1 1 r.size) 6

/-- RECOVER (command 0x06), its three forms. -/
def execRecoverBegin (seq : Byte) (payload : List Byte) (crcOk : Bool) (s : State) : Out :=
  acser 0x06 true false seq payload crcOk (recoverStart payload) s
def execRecoverData (seq : Byte) (payload : List Byte) (crcOk : Bool) (s : State) : Out :=
  acser 0x06 true false seq payload crcOk (recoverMore payload) s
def execRecoverEnd (seq : Byte) (payload : List Byte) (crcOk : Bool) (s : State) : Out :=
  acser 0x06 true false seq payload crcOk (recoverStop payload) s

/-! ### CHALLENGE, AUTH, OWNER, sessions (R537, R538) -/

/-- CHALLENGE (command 0x09): a fresh nonce. -/
def execChallenge (seq : Byte) (payload : List Byte) (crcOk : Bool) (s : State) : Out :=
  acser 0x09 false false seq payload crcOk (fun s =>
    if payload.isEmpty then
      let (n, s1) := freeBytes 48 s
      ⟨0, n, setSec s1 fun c => { c with challenge := some n }⟩
    else answer s 2) s

/-- SESSION set or cleared, and shown. -/
def setSession (s : State) (b : Bool) : State := syncSec (setSec s fun c => { c with session := b })

/-- A failed AUTH: reason 0 bad signature, 1 no challenge. -/
def authBad (s : State) (key reason : Nat) : Answer :=
  answer (secRec (secEvent (setSession s false) 3) 0x0605 (leBytes 1 key ++ leBytes 1 reason) false) 6

/-- AUTH: the signature over the latest challenge and SEC_DEVID; the challenge is spent. -/
def authRun (p : List Byte) (s : State) : Answer :=
  let k := rec8 p 0 1
  if !s.sec.idOk then answer s 5
  else if p.length ≠ 97 ∨ k < 1 ∨ 3 < k then answer s 2
  else match s.sec.challenge with
    | none => authBad s k 1
    | some n =>
      let s1 := setSec s fun c => { c with challenge := none }
      match signingKey s k with
      | some key => if ecdsaVerify key (n ++ devId) (p.drop 1) then answer (setSession s1 true) 0 else authBad s1 k 0
      | none => authBad s1 k 0

/-- AUTH (command 0x0A). -/
def execAuth (seq : Byte) (payload : List Byte) (crcOk : Bool) (s : State) : Out :=
  acser 0x0A false false seq payload crcOk (authRun payload) s

/-- OWNER (command 0x0B): the owner root hash is burnt, and counts from the next power-on reset. -/
def execOwner (seq : Byte) (payload : List Byte) (crcOk : Bool) (s : State) : Out :=
  acser 0x0B true false seq payload crcOk (fun s =>
    if payload.length ≠ 48 ∨ s.sec.ownerSet ∨ s.sec.ownerHash.isSome then answer s 2
    else answer (setSec s fun c => { c with ownerHash := some payload }) 0) s

/-- ACSER_SESSION_TIMEOUT: 60 s after the last authorised command. -/
def execAcserSessionTimeout (s : State) : Out := .next (if s.sec.session then setSession s false else s)

/-- The causes that a HEALTH response reports. -/
def reportedCauses (resp : List Byte) : Nat := if rec8 resp 0 1 = 0x81 ∧ rec8 resp 4 1 = 0 then rec8 resp 32 1 else 0

/-- ACSER_RESPONSE_READ: the controller reads the response; `full` says that it read to the end, which releases ALERT_N of
the causes a HEALTH response reports (R540). -/
def execAcserResponseRead (full : Bool) (s : State) : Out :=
  .next (if full then
      let m := reportedCauses s.sec.resp
      setAon s fun a => { a with alerts := a.alerts.filter fun k => !m.testBit k }
    else s)

end Sys2Proof.Machine
end

