-- ==== Sys2Proof/Machine/Ingress.lean ====
section
/-! DEFINITION. Sensor ingress: camera frames, lidar sweeps, inertial samples, frame time, stream loss and stereo pairs
(R106 to R128, R577, R578). -/

namespace Sys2Proof.Machine

/-- A frame slot that holds nothing. -/
def frameSlot0 : FrameSlot where
  frame := none
  nextBuf := 0
  count := 0
  window := []
  unwrapped := none
  outliers := 0
  good := 0
  drift := false
  lossFrom := 0

/-- An inertial slot that holds nothing. -/
def imuSlot0 : ImuSlot where
  running := none
  sent := []
  stamp := 0
  gaps := []
  lossFrom := 0

/-- Slot `n`. -/
def fsSlot (s : State) (n : Nat) : FrameSlot := tabGet frameSlot0 s.ing.fs n

/-- The judging counts, DRIFT, map valid and frame open as the status register shows them (R126). -/
def fsStatusWord (old : Word) (x : FrameSlot) : Word :=
  setFld (setFld (setBit (setBit (setBit old 0 x.frame.isSome) 1 (decide (2 ≤ x.window.length))) 2 x.drift) 15 8
    (min 255 x.outliers)) 23 16 (min 255 x.good)

/-- Whether a slot of engine `e` has a pyramid frame open (`FDD_STATUS.BUILDING`). -/
def building (s : State) (e : Nat) : Bool :=
  (List.range 16).any fun n => decide (pyrEngine s n = some e) && tabGet false s.vis.builder n &&
    (match (fsSlot s n).frame with
     | some f => f.buf.isSome
     | none => false)

/-- Slot `n` replaced, with its status register and BUILDING. -/
def setFsSlot (s : State) (n : Nat) (x : FrameSlot) : State :=
  let s1 := { s with ing := { s.ing with fs := tabSet frameSlot0 s.ing.fs n x } }
  let s2 := wr s1 (R.ingFsStatus n) (fsStatusWord (rd s1 (R.ingFsStatus n)) x)
  wf (wf s2 (R.fddStatus 0) 1 1 (building s2 0).toNat) (R.fddStatus 1) 1 1 (building s2 1).toNat

/-- An event bit of slot `n`. -/
def fsEvent (s : State) (n b : Nat) : State := setBits s (R.ingFsEvent n) (bitW b)

/-- The fallback time: the frame-start stamp less LAT. -/
def fallback (s : State) (n : Nat) (stamp : DWord) : Int := stamp.toNat - (rd s (R.ingFsLat n)).toNat

/-- Ingress takes anything from its ports (R578). -/
def ingOn (s : State) : Bool := rb s R.ingCtrl 0

/-! ### The time map (R116, R120, R121) -/

/-- R116: a field of `n` bits extended by the high bits of the previous unwrapped value. -/
def unwrap (n : Nat) (prev : Option Nat) (v : Nat) : Nat :=
  match prev with
  | none => v
  | some p =>
    if 64 ≤ n then v
    else
      let m := 2 ^ n
      let c := p / m * m + v
      (if v < p % m ∧ m / 2 < p % m - v then c + m else c) % 2 ^ 64

/-- The least-squares line at abscissa `x` (in 2^−16 ns), rounded to 1 ns; `d` where all abscissas are equal and no line
exists (R121). -/
def mapAt (w : List (Nat × Int)) (d : Int) (x : Nat) : Int :=
  let n : Int := w.length
  let sx : Int := (w.map fun p => (p.1 : Int)).sum
  let sy : Int := (w.map Prod.snd).sum
  let sxx : Int := (w.map fun p => (p.1 : Int) * p.1).sum
  let sxy : Int := (w.map fun p => (p.1 : Int) * p.2).sum
  let den := n * sxx - sx * sx
  if den ≤ 0 then d else divRne (sy * den + (n * x - sx) * (n * sxy - sx * sy)) (n * den).toNat

/-- The residual register and record field: saturated at ±(2^31 − 1). -/
def satResid (r : Int) : Int := max (-(2 ^ 31 - 1)) (min r (2 ^ 31 - 1))

/-- R121: the slot's time map judges sensor time `sv` (unwrapped ticks) with fallback time `f`. The frame's time, flags,
residual and map stand in `judged`. -/
def judge (s : State) (n sv : Nat) (f : Int) : State × Judged :=
  let x := fsSlot s n
  let win := rf s (R.ingFsMap n) 5 0
  let sx := sv * (rd s (R.ingFsTick n)).toNat
  let enter := fun (w : List (Nat × Int)) => ((sx, f) :: w).take win
  let (d, s1) := drawInt s
  let (r0, s2) := drawInt s1
  if x.window.length < 2 then
    (setFsSlot s2 n { x with window := enter x.window }, ⟨f, 2 * x.drift.toNat, satResid r0, none, some x.window⟩)
  else
    let m := mapAt x.window d sx
    let r := m - f
    let s3 := wr s2 (R.ingFsResid n) (BitVec.ofInt 32 (satResid r))
    if fsPeriod s n < r.natAbs then
      let raise := decide (x.outliers + 1 = 4) && !x.drift
      let x1 := { x with outliers := x.outliers + 1, good := 0, drift := x.drift || raise
                         window := if raise then [(sx, f)] else x.window }
      let s4 := bump (setFsSlot s3 n x1) (R.ingFsOutliers n)
      (when raise (fun s => fsEvent s n 2) s4, ⟨f, 2 * x1.drift.toNat + 4, satResid r, none, if raise then some [] else none⟩)
    else if x.drift && decide (x.good + 1 < 8) then
      (setFsSlot s3 n { x with outliers := 0, good := x.good + 1, window := enter x.window },
        ⟨f, 2, satResid r, none, some x.window⟩)
    else
      let x1 := { x with outliers := 0, good := if x.drift then 0 else x.good, drift := false, window := enter x.window }
      (when x.drift (fun s => fsEvent s n 3) (setFsSlot s3 n x1), ⟨m, 1, satResid r, some x.window, some x.window⟩)

/-- The frame's time for a frame without a sensor time: the fallback time, no flag, no residual. -/
def unjudged (s : State) (f : Int) : State × Judged :=
  let (r, s1) := drawInt s
  (s1, ⟨f, 0, satResid r, none, none⟩)

/-- TIME_MAP_UPDATE: the frame's time, by the map when the frame has a sensor time (R120, R121). -/
def assignTime (s : State) (n : Nat) (fr : OpenFrame) : State × OpenFrame :=
  if fr.judged.isSome then (s, fr)
  else
    let f := fallback s n fr.start
    let (s1, j) := match fr.sensor with
      | some v => judge s n v f
      | none => unjudged s f
    (s1, { fr with judged := some j })

/-! ### Frame records (R119) and stereo pairs (R125) -/

/-- The frame record. -/
def frameRecordBytes (n pair : Nat) (fr : OpenFrame) (end_ : DWord) (lines extra : Nat) : List Byte :=
  let jd := fr.judged.getD ⟨0, 0, 0, none, none⟩
  let flags := jd.flags + 8 * fr.size.toNat + 16 * fr.err.toNat + 32 * fr.trunc.toNat + 256 * fr.returned.toNat + extra
  let body := leBytes 8 fr.start.toNat ++ leBytes 8 end_.toNat ++ leBytesI 8 jd.time ++ leBytes 8 (fr.sensor.getD 0) ++
    leBytes 4 fr.count ++ leBytes 1 n ++ leBytes 1 0 ++ leBytes 2 flags ++ leBytes 4 lines ++ leBytesI 4 jd.resid ++
    leBytes 4 pair ++ leBytes 8 0
  body ++ leBytes 4 (crc32c body)

/-- The pair a slot belongs to and whether it is the right camera. -/
def pairOf (s : State) (n : Nat) : Option (Nat × Bool) :=
  (((List.range 4).filter fun p => rb s (R.ingPairCfg p) 31).map fun p =>
    if pairLeft s p = n then some (p, false) else if pairRight s p = n then some (p, true) else none).findSome? id

/-- A frame record rewritten with a pair decision bit: 6 PAIRED, 7 MONO. -/
def stampPair (s : State) (f : PairFrame) (b : Nat) : State :=
  let a := fsBuf s f.slot f.buf
  let r := ldBytes s a 60
  let fl := Nat.lor (rec8 r 38 2) (2 ^ b)
  let body := slice r 0 38 ++ leBytes 2 fl ++ slice r 40 20
  stBytes s a (body ++ leBytes 4 (crc32c body))

/-- R183: a pairing decision replaces the latch of pair `p`; a latch no job has taken is counted. -/
def latchPair (s : State) (p : Nat) (w : Word) : State :=
  let s1 := if rb s (R.sdePairLatch p) 31 && !tabGet false s.vis.pairTaken p then bump s (R.sdePairOvr p) else s
  wr { s1 with vis := { s1.vis with pairTaken := tabSet false s1.vis.pairTaken p false } } (R.sdePairLatch p) w

/-- The undecided frames of pair `p` replaced. -/
def setWaiting (s : State) (p : Nat) (l : List PairFrame) : State :=
  { s with ing := { s.ing with waiting := tabSet [] s.ing.waiting p l } }

/-- A frame of pair `p` is decided: its time is remembered. -/
def markDecided (s : State) (p : Nat) (f : PairFrame) : State :=
  let k := 2 * p + f.right.toNat
  { s with ing := { s.ing with decided := tabSet [] s.ing.decided k (f.time :: tabGet [] s.ing.decided k) } }

/-- A MONO decision: record, count, latch, pair semaphore. The other buffer's field of the latch is free. -/
def decideMono (s : State) (p : Nat) (f : PairFrame) : State :=
  let (v, s0) := drawNat s
  let w := if f.right then 0x80000000 + f.buf % 16 * 0x10000 + v % 16 else 0x80000000 + v % 16 * 0x10000 + f.buf % 16
  let s1 := latchPair (bump (markDecided (stampPair s0 f 7) p f) (R.ingPairSkip p)) p (BitVec.ofNat 32 w)
  signalAfter s1 [(fsBuf s f.slot f.buf, fsBytes s f.slot)] 1 (rf s (R.ingPairSem p) 15 0) 1

/-- A PAIRED decision of frames `f` and `g` of pair `p`. -/
def decidePaired (s : State) (p : Nat) (f g : PairFrame) : State :=
  let l := if f.right then g else f
  let r := if f.right then f else g
  let s1 := markDecided (markDecided (stampPair (stampPair s f 6) g 6) p f) p g
  let s2 := latchPair s1 p (BitVec.ofNat 32 (0xC0000000 + r.buf % 16 * 0x10000 + l.buf % 16))
  signalAfter s2 [(fsBuf s f.slot f.buf, fsBytes s f.slot), (fsBuf s g.slot g.buf, fsBytes s g.slot)] 1 (rf s (R.ingPairSem p) 15 0) 1

/-- PAIR_DECISION: a frame of pair `p` has ended (R125). -/
def pairFrame (s : State) (p : Nat) (f : PairFrame) : State :=
  let near := fun (t : Int) => decide (2 * (t - f.time).natAbs ≤ fsPeriod s f.slot)
  let w := tabGet [] s.ing.waiting p
  match w.find? (fun g => g.right != f.right && near g.time) with
  | some g => decidePaired (setWaiting s p (w.filter fun x => x ≠ g)) p f g
  | none =>
    if (tabGet [] s.ing.decided (2 * p + (!f.right).toNat)).any near then decideMono s p f
    else setWaiting s p (w ++ [f])

/-- PAIR_WAIT_EXPIRE: the oldest frame of one side whose wait has passed becomes MONO. -/
def execPairWaitExpire (p : Fin 4) (right : Bool) (s : State) : Out :=
  fabric s fun s =>
    let w := tabGet [] s.ing.waiting p.val
    match w.find? (fun g => g.right == right &&
        decide (g.ends.toNat + (rd s (R.ingPairWait p.val)).toNat < s.dt.now.toNat)) with
    | some f => decideMono (setWaiting s p.val (w.filter fun x => x ≠ f)) p.val f
    | none => s

/-! ### Frame start and frame end (R109, R117 to R119, R122, R123, R193) -/

/-- The image lines from `y0` up to HEIGHT written as 0 (R109). -/
def zeroLines (s : State) (n k y0 : Nat) : State :=
  (List.range (fsHeight s n)).foldl (fun st y => if y0 ≤ y then stZero st (lineAddr s n (fsBuf s n k) y) (fsPitch s n) else st) s

/-- The map's entry of the open frame of slot `n` taken back (R577). -/
def forgetEntry (s : State) (n : Nat) (j : Option Judged) : State :=
  match j with
  | some ⟨_, _, _, _, some w⟩ => setFsSlot s n { fsSlot s n with window := w }
  | _ => s

/-- A frame ends with the given stamp: zero fill, pyramid, frame time, record, end semaphore, pair decision. A dropped frame
writes and signals nothing, and still enters the time map (R118). With `noMap` the map takes no entry for it (R577). -/
def closeFrame (s : State) (n : Nat) (end_ : DWord) (noMap : Bool) : State :=
  match (fsSlot s n).frame with
  | none => s
  | some fr0 =>
    let csi := fsType s n == 0
    let short := csi && decide (fr0.rows < fsHeight s n)
    let fr1 := { fr0 with size := fr0.size || short }
    let (s1, fr) := if noMap && fr1.judged.isNone then
        (let (s', j) := unjudged s (fallback s n fr1.start); (s', { fr1 with judged := some j }))
      else assignTime (when noMap (fun s => forgetEntry s n fr1.judged) s) n fr1
    let s2 := setFsSlot s1 n { fsSlot s1 n with frame := none }
    let s3 := when fr.size (fun s => fsEvent s n 5) s2
    match fr.buf with
    | none => s3
    | some k =>
      let s4 := if csi then buildPyramid (zeroLines s3 n k fr.rows) n k else s3
      let pr := pairOf s n
      let lines := if csi then fsHeight s n else fr.points
      let s5 := stBytes s4 (fsBuf s n k) (frameRecordBytes n ((pr.map Prod.fst).getD 0) fr end_ lines 0)
      let s6 := wr s5 (R.pjeSlotLatch n) (BitVec.ofNat 32 (0x80000000 + k))
      let s7 := signalAfter s6 [(fsBuf s n k, fsBytes s n)] 1 (rf s (R.ingFsSem n) 15 0) 1
      match pr with
      | some (p, r) => pairFrame s7 p ⟨r, n, k, (fr.judged.map Judged.time).getD 0, end_⟩
      | none => s7

/-- R118: the buffer of a starting frame: one WAITSUB 1 on the free semaphore, no poll. -/
def takeBuffer (s : State) (n : Nat) : State × Option Nat :=
  let sem := rf s (R.ingFsSem n) 31 16
  let x := fsSlot s n
  let ok := sem == 0xFFFF || semTest s (sem % 4096) 1
  let s1 := if sem = 0xFFFF then s else semWaitsubOp s 1 (sem % 4096) 1
  if ok then (setFsSlot s1 n { x with nextBuf := (x.nextBuf + 1) % max 1 (fsNbuf s n) }, some x.nextBuf)
  else (fsEvent (bump s1 (R.ingFsDrops n)) n 4, none)

/-- A frame starts in slot `n` at a stamp: an open frame closes with SIZE, the slot returns from loss, a buffer is taken or
the frame dropped. -/
def openFrame (s : State) (n : Nat) (stamp : DWord) (sensor : Option Nat) : State :=
  let s0 := match (fsSlot s n).frame with
    | some f => closeFrame (setFsSlot s n { fsSlot s n with frame := some { f with size := f.size || fsType s n == 0 } }) n
        stamp false
    | none => s
  let lost := rb s0 (R.ingFsStatus n) 3
  let s1 := when lost (fun s => fsEvent (clrBits s (R.ingFsStatus n) 8) n 1) s0
  let s2 := bumpWrap s1 (R.ingFsFrames n)
  let (s3, buf) := takeBuffer s2 n
  let x := fsSlot s3 n
  let fr : OpenFrame := ⟨stamp, stamp, buf, 0, 0, 0, none, sensor, false, none, false, false, false, lost, x.count⟩
  let s4 := setFsSlot s3 n { x with frame := some fr, count := (x.count + 1) % 2 ^ 32, lossFrom := stamp
                                    unwrapped := match sensor with | some v => some v | none => x.unwrapped }
  match buf with
  | some k => if fsType s n = 0 then stZero s4 (stampTable s n (fsBuf s n k)) (8 * fsHeight s n) else s4
  | none => s4

/-! ### CSI-2 (R107 to R109) -/

/-- The frame of slot `n` updated. -/
def updFrame (s : State) (n : Nat) (f : OpenFrame → OpenFrame) : State :=
  match (fsSlot s n).frame with
  | some fr => setFsSlot s n { fsSlot s n with frame := some (f fr) }
  | none => s

/-- The enabled CSI slots of a port and virtual channel, for image data also of a data type (R107). -/
def csiSlots (s : State) (p vc : Nat) (dt : Option Nat) : List Nat :=
  (List.range 16).filter fun n => fsEn s n && fsType s n == 0 && fsPort s n == p && fsVc s n == vc &&
    (match dt with | some d => fsDtype s n == d | none => true)

/-- A saturating counter counts one; a change of it raises source `n` (R128). -/
def countRaise (s : State) (reg n : Nat) : State := if rd s reg = 0xFFFFFFFF then s else raiseEdge (bump s reg) n

/-- A change of an error counter of port `p` (R128). -/
def csiCount (s : State) (p reg : Nat) : State := countRaise s reg (52 + p)

/-- Whether CSI port `p` takes packets. -/
def csiOn (s : State) (p : Nat) : Bool := ingOn s && rb s (R.ingCsiCfg p) 31 && blockOn s 8

/-- A packet reaches port `p`: the header's ECC is judged, then every matching slot takes it, or it is counted unmatched.
`hdr` is 0 for a good header, 1 for a corrected one, 2 for an uncorrectable one. -/
def csiPacket (s : State) (p vc : Nat) (dt : Option Nat) (hdr : Nat) (f : State → Nat → State) : State :=
  if !(csiOn s p) then s
  else if hdr = 2 then csiCount s p (R.ingCsiEccUncorr p)
  else
    let s1 := if hdr = 1 then csiCount s p (R.ingCsiEccCorr p) else s
    match csiSlots s p vc dt with
    | [] => csiCount s1 p (R.ingCsiUnmatched p)
    | l => l.foldl f s1

/-- The sensor time of a frame with TSRC trigger: the last active edge of the pin plus EXPOFS (R120). DESIGN CHOICE (log entry
10): a pin that has had no active edge gives its stamp's reset value 0, and the sum is taken modulo 2^64. -/
def trigSensor (s : State) (n : Nat) : Option Nat :=
  if fsTsrc s n = 2 then
    some (((tabGet 0 s.sg.stamp (rf s (R.ingFsCfg n) 13 10)).toNat + (rd s (R.ingFsExpofs n)).toInt) % 2 ^ 64).toNat
  else none

/-- CSI_FRAME_START. -/
def execCsiFrameStart (p : Fin 4) (vc : Fin 4) (hdr : Fin 3) (s : State) : Out :=
  fabric s fun s => csiPacket s p.val vc.val none hdr.val fun st n => openFrame st n st.dt.now (trigSensor st n)

/-- CSI_LINE_START: a line-start short packet, with LSTAMP set the stamp of the coming line (R115); or, with `isEnd`, a line-end
short packet, which is matched and counted as the others are and carries nothing (R107). -/
def execCsiLineStart (p : Fin 4) (vc : Fin 4) (hdr : Fin 3) (isEnd : Bool) (s : State) : Out :=
  fabric s fun s => csiPacket s p.val vc.val none hdr.val fun st n =>
    match (fsSlot st n).frame with
    | some ⟨_, _, some k, rows, _, _, _, _, _, _, _, _, _, _, _⟩ =>
      if !isEnd ∧ rb st (R.ingFsCfg n) 16 = true ∧ rows < fsHeight st n then
        stN st (stampTable st n (fsBuf st n k) + 8 * rows) 8 st.dt.now.toNat
      else st
    | _ => st

/-- The bytes of a line as held in memory: unused upper bits of a sample are 0 (R107). -/
def lineBytes (dt : Nat) : List Byte → List Byte
  | [] => []
  | [b] => [b]
  | a :: b :: t =>
    a :: (if dt = 0x2B then b &&& 0x03 else if dt = 0x2C then b &&& 0x0F else b) :: lineBytes dt t

/-- An image line for slot `n` (R108, R109): truncated or padded to WIDTH; lines beyond HEIGHT discarded. -/
def takeLine (dt : Nat) (crcOk : Bool) (payload : List Byte) (s : State) (n : Nat) : State :=
  match (fsSlot s n).frame with
  | none => s
  | some fr =>
    let want := fsWidth s n * bytesPerPixel dt
    let bs := if dt = 0x2A then payload else lineBytes dt payload
    let odd := fr.size || decide (payload.length ≠ want) || decide (fsHeight s n ≤ fr.rows)
    let s1 := updFrame s n fun f => { f with rows := f.rows + 1, size := odd, err := f.err || !crcOk }
    match fr.buf with
    | none => s1
    | some k =>
      if fr.rows < fsHeight s n then stBytes s1 (lineAddr s n (fsBuf s n k) fr.rows) (padTo (fsPitch s n) (bs.take want)) else s1

/-- CSI_LINE: a long packet of image data. `payload` is the line as samples of 1 or 2 bytes in the order received. A CRC
failure counts in ING_CSIp_CRC also where no slot matches the packet (DESIGN CHOICE, log entry 10). -/
def execCsiLine (p : Fin 4) (vc : Fin 4) (dtype : BitVec 6) (hdr : Fin 3) (crcOk : Bool) (payload : List Byte) (s : State) :
    Out :=
  fabric s fun s =>
    let s1 := if csiOn s p.val && hdr.val != 2 && !crcOk then csiCount s p.val (R.ingCsiCrc p.val) else s
    csiPacket s1 p.val vc.val (some dtype.toNat) hdr.val (takeLine dtype.toNat crcOk payload)

/-- The first embedded-data packet of a frame gives its sensor time when the slot's source is embedded data and the field
lies inside the packet (R120). -/
def takeEmbedded (crcOk : Bool) (payload : List Byte) (s : State) (n : Nat) : State :=
  match (fsSlot s n).frame with
  | none => s
  | some fr =>
    let tl := rd s (R.ingFsTsloc n)
    let w := fld tl 11 8
    let off := fld tl 31 16
    let s1 := updFrame s n fun f => { f with embSeen := true, err := f.err || !crcOk }
    if fsTsrc s n = 1 ∧ fr.embSeen = false ∧ off + w ≤ payload.length then
      let bs := slice payload off w
      let x := fsSlot s1 n
      let v := unwrap (8 * w) x.unwrapped (if bit tl 0 then beVal bs else leVal bs)
      updFrame (setFsSlot s1 n { x with unwrapped := some v }) n fun f => { f with sensor := some v }
    else s1

/-- CSI_EMBEDDED_DATA. -/
def execCsiEmbeddedData (p : Fin 4) (vc : Fin 4) (hdr : Fin 3) (crcOk : Bool) (payload : List Byte) (s : State) : Out :=
  fabric s fun s =>
    let s1 := if csiOn s p.val && hdr.val != 2 && !crcOk then csiCount s p.val (R.ingCsiCrc p.val) else s
    csiPacket s1 p.val vc.val none hdr.val (takeEmbedded crcOk payload)

/-- CSI_FRAME_END. -/
def execCsiFrameEnd (p : Fin 4) (vc : Fin 4) (hdr : Fin 3) (s : State) : Out :=
  fabric s fun s => csiPacket s p.val vc.val none hdr.val fun st n => closeFrame st n st.dt.now false

/-! ### Ethernet lidar (R110 to R112) -/

/-- The ones-complement sum of a byte list taken as 16-bit words, first byte high. -/
def onesSum : List Byte → Nat
  | [] => 0
  | [a] => a.toNat * 256
  | a :: b :: t => a.toNat * 256 + b.toNat + onesSum t

/-- Folding of carries; 0xFFFF for a correct checksum. -/
def foldSum (n : Nat) : Nat :=
  let a := n / 65536 + n % 65536
  a / 65536 + a % 65536

/-- A UDP datagram: source address, destination port, payload. -/
structure Udp where
  src : Nat
  dport : Nat
  payload : List Byte
deriving DecidableEq, Repr

/-- R110: the IPv4 UDP datagram of a frame (destination address to end of payload, no FCS), if it is offered to the
templates. An IEEE 802.1Q tag has EtherType 0x8100 or, as an 802.1Q service tag, 0x88A8 (DESIGN CHOICE, log entry 10: R110 names
no EtherType). -/
def parseUdp (f : List Byte) : Option Udp :=
  let be := fun (l : List Byte) (o n : Nat) => beVal (slice l o n)
  let ip := if be f 12 2 = 0x8100 ∨ be f 12 2 = 0x88A8 then f.drop 18 else f.drop 14
  let ety := if be f 12 2 = 0x8100 ∨ be f 12 2 = 0x88A8 then be f 16 2 else be f 12 2
  let ihl := be ip 0 1 % 16 * 4
  let tot := be ip 2 2
  let udp := slice ip ihl (tot - ihl)
  let ul := be udp 4 2
  let pseudo := slice ip 12 8 ++ [0, 17] ++ slice udp 4 2 ++ udp.take ul
  if f.length ≤ 9014 ∧ ety = 0x0800 ∧ be ip 0 1 / 16 = 4 ∧ 20 ≤ ihl ∧ ihl ≤ tot ∧ tot ≤ ip.length ∧
      foldSum (onesSum (ip.take ihl)) = 0xFFFF ∧ be ip 6 2 % 0x4000 = 0 ∧ be ip 9 1 = 17 ∧ 8 ≤ ul ∧ ul ≤ udp.length ∧
      (be udp 6 2 = 0 ∨ foldSum (onesSum pseudo) = 0xFFFF) then
    some ⟨be ip 12 4, be udp 2 2, slice udp 8 (ul - 8)⟩
  else none

/-- A PTP message: EtherType 0x88F7, or UDP ports 319 and 320; it goes to the time block (R42, R110). -/
def isPtp (f : List Byte) : Bool :=
  beVal (slice f 12 2) == 0x88F7 ||
  (match parseUdp f with
   | some u => u.dport == 319 || u.dport == 320
   | none => false)

/-- Whether template `t` of port `e` matches (R110): mask bit b covers bits [8b+7:8b] of the magic word. -/
def templateMatch (s : State) (e t : Nat) (u : Udp) : Bool :=
  let cfg := rd s (R.ingEthTCfg e t)
  let src := (rd s (R.ingEthTSrc e t)).toNat
  let ml := rd s (R.ingEthTMagloc e t)
  let off := fld ml 31 16
  let mg := rd s (R.ingEthTMagic e t)
  bit cfg 31 && fld cfg 15 0 == u.dport && (src == 0 || src == u.src) &&
    (List.range 4).all fun b => !bit ml b ||
      (u.payload.getD (off + 3 - b) 0 == BitVec.ofNat 8 (fld mg (8 * b + 7) (8 * b)) && decide (off + 3 - b < u.payload.length))

/-- A field of a packet. -/
def pktField (l : List Byte) (off w : Nat) (big : Bool) : Nat := if big then beVal (slice l off w) else leVal (slice l off w)

/-- The bytes a width code selects; the reserved code's width is open. -/
def widthOf (l : List Nat) (code : Nat) : Nat := l.getD code (1 + Config.reservedWidth % 8)

/-- A point of a packet: its raw coordinates scaled, its intensity, or none when ZDROP skips it (R111). -/
def packetPoint (s : State) (e t : Nat) (pl : List Byte) (j : Nat) : Option (List Int × Nat) :=
  let lay := rd s (R.ingEthTLayout e t)
  let fmt := rd s (R.ingEthTXyzFmt e t)
  let base := fld lay 31 16 + j * fld lay 15 0
  let w := widthOf [2, 3, 4] (fld fmt 5 4)
  let raw := fun (o : Nat) =>
    let v := pktField pl (base + o) w (bit fmt 1)
    if bit fmt 0 then sext (8 * w) v else (v : Int)
  let rs := [raw (fld fmt 31 24), raw (fld fmt 23 16), raw (fld fmt 15 8)]
  let it := rd s (R.ingEthTInt e t)
  let inten := if bit it 31 then (pl.getD (base + fld it 15 8) 0).toNat else 0
  if bit fmt 7 ∧ rs = [0, 0, 0] then none
  else some (rs.map fun r => satS 32 (rne (r * (rd s (R.ingEthTXyzMul e t)).toNat) 16), inten)

/-- The sensor time of a packet, unwrapped against the slot's previous value (R111, R116). -/
def packetSensor (s : State) (e t n : Nat) (pl : List Byte) : Nat :=
  let ts := rd s (R.ingEthTTs e t)
  let w := widthOf [4, 6, 8] (fld ts 5 4)
  unwrap (8 * w) (fsSlot s n).unwrapped (pktField pl (fld ts 31 16) w (bit ts 1))

/-- The time of a packet on the time line: by the map of its sweep, or its own stamp less LAT (R121). -/
def packetTime (s : State) (n sv : Nat) (stamp : DWord) (fr : OpenFrame) : Int :=
  if fr.packets = 0 then (fr.judged.map Judged.time).getD 0
  else match fr.judged with
    | some ⟨_, _, _, some w, _⟩ => mapAt w (fallback s n stamp) (sv * (rd s (R.ingFsTick n)).toNat)
    | _ => fallback s n stamp

/-- The offset of a point from the sweep's frame time in units of 16 ns; none beyond the field (R112). `x` is in 2^−16 ns. -/
def pointOffset (x : Int) : Int :=
  let q := x / 1048576
  if x % 1048576 ≠ 0 ∧ Config.pointUp x then q + 1 else q

/-- A sweep starts with a packet: the frame opens and the time map judges it at once. -/
def openSweep (s : State) (n sv : Nat) (stamp : DWord) : State :=
  let s1 := openFrame s n stamp (if fsTsrc s n = 3 then some sv else none)
  match (fsSlot s1 n).frame with
  | some fr =>
    let (s2, fr2) := assignTime s1 n fr
    setFsSlot s2 n { fsSlot s2 n with frame := some fr2 }
  | none => s1

/-- The points of a packet from index `j` on (R111, R112). -/
def packetPoints (e t n sv : Nat) (stamp : DWord) (pl : List Byte) : Nat → Nat → State → State
  | 0, _, s => s
  | k + 1, j, s =>
    match packetPoint s e t pl j with
    | none => packetPoints e t n sv stamp pl k (j + 1) s
    | some (xyz, inten) =>
      let step := j * (rd s (R.ingEthTPtDt e t)).toNat
      let ofs := fun (fr : OpenFrame) =>
        pointOffset ((packetTime s n sv stamp fr - (fr.judged.map Judged.time).getD 0) * 65536 + step)
      let past : Bool := match (fsSlot s n).frame with
        | some fr => decide (0xFFFFFF < ofs fr)
        | none => false
      let s1 := if past then openSweep (closeFrame s n (match (fsSlot s n).frame with | some fr => fr.last | none => stamp) false)
          n sv stamp else s
      let s2 := match (fsSlot s1 n).frame with
        | none => s1
        | some fr =>
          let (free, s1) := drawNat s1
          let off := if ofs fr < 0 then free else (ofs fr).toNat
          if (rd s (R.ingFsSize n)).toNat ≤ fr.points then updFrame s1 n fun f => { f with trunc := true, last := stamp }
          else
            let s3 := updFrame s1 n fun f => { f with points := f.points + 1, last := stamp }
            match fr.buf with
            | none => s3
            | some b => stBytes s3 (fsBuf s n b + 0x1000 + 16 * fr.points)
                ((xyz.map (leBytesI 4)).flatten ++ leBytes 3 (off % 0x1000000) ++ leBytes 1 inten)
      packetPoints e t n sv stamp pl k (j + 1) s2

/-- A packet taken by template `t` for slot `n` (R111, R112). The sweep rules 0b10 and 0b11, to which R112 gives no meaning, end
no sweep (DESIGN CHOICE, log entry 10). -/
def takePacket (s : State) (e t n : Nat) (pl0 : List Byte) : State :=
  let npts := rf s (R.ingEthTNpts e t) 10 0
  let lay := rd s (R.ingEthTLayout e t)
  let need := fld lay 31 16 + npts * (fld lay 15 0 + 256)
  let pl := pl0 ++ (List.range (need - pl0.length)).map fun i => BitVec.ofNat 8 (Config.freeNat (s.fresh + i))
  let s0 := { s with fresh := s.fresh + (need - pl0.length) }
  let stamp := rxStamp s0
  let sv := packetSensor s0 e t n pl
  let sw := rd s (R.ingEthTSweep e t)
  let field := pktField pl (fld sw 15 0) 2 Config.sweepBig
  let ends : Bool := match (fsSlot s0 n).frame with
    | some fr => fld sw 31 30 == 1 && (match fr.prevField with | some p => decide (field < p) | none => false)
    | none => false
  let s1 := if ends then closeFrame s0 n (match (fsSlot s0 n).frame with | some fr => fr.last | none => stamp) false else s0
  let s2 := if (fsSlot s1 n).frame.isSome then s1 else openSweep s1 n sv stamp
  let s3 := setFsSlot s2 n { fsSlot s2 n with unwrapped := some sv }
  let s4 := packetPoints e t n sv stamp pl npts 0 s3
  let s5 := updFrame s4 n fun f => { f with last := stamp, packets := f.packets + 1, prevField := some field }
  match (fsSlot s5 n).frame with
  | some fr => if fld sw 31 30 = 0 ∧ fld sw 29 16 ≤ fr.packets then closeFrame s5 n stamp false else s5
  | none => s5

/-- ETH_FRAME_RX: a frame, from its destination address to the end of its payload (R110). -/
def execEthFrameRx (e : Fin 2) (frame : List Byte) (s : State) : Out :=
  fabric s fun s =>
    if isPtp frame || !ingOn s || !blockOn s 9 then s
    else
      let drop := countRaise s (R.ingEthDiscard e.val) (56 + e.val)
      match parseUdp frame with
      | none => drop
      | some u =>
        match (List.range 8).find? (fun t => templateMatch s e.val t u) with
        | none => drop
        | some t =>
          let n := rf s (R.ingEthTCfg e.val t) 27 24
          if fsEn s n && fsType s n == 1 && fsPort s n == e.val then
            takePacket (bumpWrap s (R.ingEthTPkts e.val t)) e.val t n u.payload
          else drop

/-! ### Inertial SPI (R113, R114) -/

/-- Inertial slot `i`. -/
def imuSlot (s : State) (i : Nat) : ImuSlot := tabGet imuSlot0 s.ing.imu i

/-- Inertial slot `i` replaced, with its status register. -/
def setImuSlot (s : State) (i : Nat) (x : ImuSlot) : State :=
  wf { s with ing := { s.ing with imu := tabSet imuSlot0 s.ing.imu i x } } (R.ingIsStatus i) 0 0 x.running.isSome.toNat

/-- The command bytes of a transaction: CMD_LEN bytes of ING_ISn_CMD, the first in [31:24] (R113). -/
def imuCmd (s : State) (i : Nat) : List Byte :=
  ((leBytes 4 (rd s (R.ingIsCmd i)).toNat).reverse).take (min 4 (rf s (R.ingIsXfer i) 23 21))

/-- IMU_DATA_READY: an edge of the data-ready input to level `high`; a transaction it starts sends its command bytes. -/
def execImuDataReady (i : Fin 4) (high : Bool) (s : State) : Out :=
  fabric s fun s =>
    let cfg := rd s (R.ingIsCfg i.val)
    if !(ingOn s && bit cfg 31) || high == bit cfg 28 then s
    else
      let lost := rb s (R.ingIsStatus i.val) 1
      let s1 := when lost (fun s => setBits (clrBits s (R.ingIsStatus i.val) 2) (R.ingIsEvent i.val) 2) s
      let x := { imuSlot s1 i.val with stamp := s.dt.now, lossFrom := s.dt.now }
      if x.running.isSome then
        setBits (bump (setImuSlot s1 i.val { x with gaps := x.gaps ++ [s.dt.now] }) (R.ingIsOvr i.val)) (R.ingIsEvent i.val) 4
      else setImuSlot s1 i.val { x with running := some s.dt.now, sent := imuCmd s i.val }

/-- The bytes a transaction has read: READ_LEN of those the device drives; what a field would take past them is free. -/
def imuRead (s : State) (i : Nat) (data : List Byte) : List Byte × State :=
  let got := data.take (rf s (R.ingIsXfer i) 31 24)
  let k := 64 - got.length
  (got ++ (List.range k).map fun j => BitVec.ofNat 8 (Config.freeNat (s.fresh + j)), { s with fresh := s.fresh + k })

/-- The sample of channel `c` from the bytes read (R113); none for a channel that is not enabled. An unsigned sample of 24 bits
is taken as the signed 24-bit value of the same bits (DESIGN CHOICE, log entry 10: R113 extends to 24 bits and no further). -/
def imuChannel (s : State) (i : Nat) (data : List Byte) (c : Nat) : Option Int :=
  let w := rd s (R.ingIsCh i c)
  if bit w 31 ∧ c < rf s (R.ingIsCfg i) 7 4 then
    let n := widthOf [1, 2, 3] (fld w 5 4)
    let v := pktField data (fld w 12 8) n (bit w 1)
    some (if bit w 0 then sext (8 * n) v else sext 24 v)
  else none

/-- IMU_TRANSACTION_END: the samples pass to the filter chain with the edge's stamp, and behind them a gap marker for every
edge that came during the transaction (R113, R114). -/
def execImuTransactionEnd (i : Fin 4) (data : List Byte) (s : State) : Out :=
  fabric s fun s =>
    let x := imuSlot s i.val
    match x.running with
    | none => s
    | some t =>
      let (bytes, s0) := imuRead s i.val data
      let s1 := bumpWrap (setImuSlot s0 i.val { x with running := none, gaps := [] }) (R.ingIsSamples i.val)
      let s2 := ifcSample s1 i.val (some ((List.range 8).map (imuChannel s i.val bytes))) t
      x.gaps.foldl (fun st g => ifcSample st i.val none g) s2

/-- ING_IS_STAMP_LO_READ. -/
def execIngIsStampLoRead (i : Fin 4) (s : State) : Out :=
  fabric s fun s => capture s (R.ingIsStampLo i.val) (imuSlot s i.val).stamp

/-! ### Stream loss (R122) -/

/-- STREAM_LOST: DT has passed the loss limit of an enabled slot, and the cycle in which it did so, whose own frame start or
edge counts as in time, is over: the edge before the present one was past the limit (R122). An inertial slot's loss restarts its
filter chain slot (R140), and takes the track filter to its alternate unit (R290). -/
def execStreamLost (st : Stream) (s : State) : Out :=
  fabric s fun s =>
    match st with
    | .frame n =>
      if fsEn s n.val && !rb s (R.ingFsStatus n.val) 3 && decide ((fsSlot s n.val).lossFrom.toNat +
          rf s (R.ingFsMap n.val) 15 8 * fsPeriod s n.val < s.dt.prev.toNat) then
        fsEvent (setBits s (R.ingFsStatus n.val) 8) n.val 0
      else s
    | .inertial i =>
      if rb s (R.ingIsCfg i.val) 31 && !rb s (R.ingIsStatus i.val) 1 && decide ((imuSlot s i.val).lossFrom.toNat +
          rf s (R.ingIsLoss i.val) 7 0 * (rd s (R.ingIsPeriod i.val)).toNat < s.dt.prev.toNat) then
        when (rb s (R.ifcIsCfg i.val) 31) (fun s => ifcRestart s i.val)
          (when (rf s R.tfuEgoCfg 29 28 == i.val) (fun s => { s with tfu := { s.tfu with alt := true } })
            (setBits (setBits s (R.ingIsStatus i.val) 2) (R.ingIsEvent i.val) 1))
      else s

/-! ### Configuration (R124, R126, R127, R577, R578) -/

/-- An ING_ERR bit with the offset of the first error. -/
def ingErr (s : State) (b off : Nat) : State := errInfo s R.ingErr b R.ingErrInfo (BitVec.ofNat 32 (off % 0x10000))

/-- R127: whether frame slot `n` may be enabled. The ring's bytes run from buffer 0 to the last byte the last buffer needs
(DEDUCED, log entry 10), and each must have a valid address. -/
def fsEnableOk (s : State) (n : Nat) : Bool :=
  let ts := fsTsrc s n
  let tl := rd s (R.ingFsTsloc n)
  let sem := rd s (R.ingFsSem n)
  let nb := fsNbuf s n
  let stride := rf s (R.ingFsBufcfg n) 31 8 * 0x10000
  decide (2 ≤ nb ∧ nb ≤ 8) && semFieldOk (fld sem 31 16) && semFieldOk (fld sem 15 0) &&
  decide (1 ≤ rf s (R.ingFsMap n) 15 8) && decide (4 ≤ rf s (R.ingFsMap n) 5 0 ∧ rf s (R.ingFsMap n) 5 0 ≤ 32) &&
  bytesValid s 80 (fsBuf s n 0) ((nb - 1) * stride + fsBytes s n) &&
  (if fsType s n = 0 then
    decide (ts ≠ 3) && imageType (fsDtype s n) && decide (1 ≤ fsWidth s n ∧ fsWidth s n ≤ 8192) &&
      decide (1 ≤ fsHeight s n ∧ fsHeight s n ≤ 4096) && decide (fsPyr s n ≤ 2) &&
      (ts != 1 || decide (1 ≤ fld tl 11 8 ∧ fld tl 11 8 ≤ 8))
   else
    decide (fsType s n = 1) && decide (ts = 0 ∨ ts = 3) && decide (fsPort s n < 2) &&
      decide (1 ≤ (rd s (R.ingFsSize n)).toNat ∧ (rd s (R.ingFsSize n)).toNat ≤ 4194304))

/-- Whether inertial slot `i` may be enabled (R126, R127). -/
def isEnableOk (s : State) (i : Nat) : Bool :=
  let x := rd s (R.ingIsXfer i)
  decide (1 ≤ fld x 31 24 ∧ fld x 31 24 ≤ 32) && decide (fld x 23 21 ≤ 4) &&
  decide (1 ≤ rf s (R.ingIsCfg i) 7 4 ∧ rf s (R.ingIsCfg i) 7 4 ≤ 8) && decide (1 ≤ rf s (R.ingIsLoss i) 7 0) &&
  (List.range 8).all fun c => decide (rf s (R.ingIsCh i c) 5 4 ≤ 2)

/-- Whether template `t` may be enabled. -/
def tmplEnableOk (s : State) (e t : Nat) : Bool :=
  decide (1 ≤ rf s (R.ingEthTNpts e t) 10 0 ∧ rf s (R.ingEthTNpts e t) 10 0 ≤ 1024)

/-- R124: whether pair `p` may be enabled. A pair that names one slot twice is refused, since a slot belongs to one side of a pair
(DESIGN CHOICE, log entry 10). -/
def pairEnableOk (s : State) (p : Nat) : Bool :=
  let l := pairLeft s p
  let r := pairRight s p
  decide (l ≠ r) && fsType s l == 0 && fsType s r == 0 && fsPeriod s l == fsPeriod s r &&
  rd s (R.ingFsSize l) == rd s (R.ingFsSize r) && fsDtype s l == fsDtype s r &&
  ((List.range 4).all fun q => q == p || !rb s (R.ingPairCfg q) 31 ||
    (pairLeft s q != l && pairLeft s q != r && pairRight s q != l && pairRight s q != r))

/-- A write of a configuration register `a` with an EN bit [31]: of an enabled owner only a write that clears EN is taken;
an enable that fails its checks leaves EN 0 and sets error bit `eb`. -/
def enWrite (s : State) (a : Nat) (v : Word) (ok : State → Bool) (eb : Nat) (onEnable onDisable : State → State) : State :=
  if rb s a 31 then (if bit v 31 then ingErr s 1 a else onDisable (wr s a v))
  else if bit v 31 then
    let s1 := wr s a v
    if ok s1 then onEnable s1 else ingErr (wr s a (setBit v 31 false)) eb a
  else wr s a v

/-- R577: a frame slot is disabled: an open frame closes with SIZE at the DT of the disable, no map entry, LOST clears. -/
def closeOnDisable (s : State) (n : Nat) : State :=
  match (fsSlot s n).frame with
  | some f => closeFrame (setFsSlot s n { fsSlot s n with frame := some { f with size := true } }) n s.dt.now true
  | none => s

/-- The disable of frame slot `n`: the frame closes under the old configuration, then the write is stored. -/
def fsCfgWrite (s : State) (n : Nat) (v : Word) : State :=
  let a := R.ingFsCfg n
  if rb s a 31 && !bit v 31 then clrBits (wr (closeOnDisable s n) a v) (R.ingFsStatus n) 8
  else enWrite s a v (fun s => fsEnableOk s n) 0
    (fun s => builderEnable (setFsSlot s n { frameSlot0 with lossFrom := s.dt.now }) n) id

/-- ING_CONFIG_WRITE: a write of 32 bits to a configuration register of ING (R126). A CSI port is no slot, template or pair: its
row stores what is written, also a LANES other than 1, 2 or 4, with which it receives as before (DESIGN CHOICE, log entry 10). A
pair semaphore out of range refuses the pair's enable as an invalid field (R127). -/
def execIngConfigWrite (addr : BitVec 24) (v : Word) (s : State) : Out :=
  fabric s fun s =>
    let a := addr.toNat
    match regRow? a with
    | none => s
    | some r =>
      let w := v &&& r.rw
      if a < 0x60100 ∨ r.rw = 0 then s
      else if a < 0x60200 then wr s a w
      else if a < 0x61000 then
        let p := (a - 0x60200) / 0x10
        if a = R.ingPairCfg p then
          let semOk := semFieldOk (rf s (R.ingPairSem p) 15 0)
          enWrite s a w (fun s => semOk && pairEnableOk s p) (if semOk then 2 else 0) id fun s =>
            { s with ing := { s.ing with waiting := tabSet [] s.ing.waiting p []
                                         decided := tabSet [] (tabSet [] s.ing.decided (2 * p) []) (2 * p + 1) [] } }
        else if rb s (R.ingPairCfg p) 31 then ingErr s 1 a
        else wr s a w
      else if a < 0x62000 then
        let n := (a - 0x61000) / 0x80
        if a = R.ingFsCfg n then fsCfgWrite s n w
        else if fsEn s n then ingErr s 1 a
        else wr s a w
      else if a < 0x63000 then
        let e := (a - 0x62000) / 0x400
        let t := (a - 0x62000) % 0x400 / 0x80
        if a = R.ingEthTCfg e t then enWrite s a w (fun s => tmplEnableOk s e t) 0 id id
        else if rb s (R.ingEthTCfg e t) 31 then ingErr s 1 a
        else wr s a w
      else
        let i := (a - 0x63000) / 0x100
        if a = R.ingIsCfg i then
          enWrite s a w (fun s => isEnableOk s i) 0
            (fun s => setImuSlot s i { imuSlot0 with stamp := (imuSlot s i).stamp, lossFrom := s.dt.now })
            (fun s => clrBits (setImuSlot s i { imuSlot s i with running := none, gaps := [] }) (R.ingIsStatus i) 2)
        else if rb s (R.ingIsCfg i) 31 then ingErr s 1 a
        else wr s a w

/-- ING_CTRL_WRITE: clearing EN closes every open frame as R577 states (R578). -/
def execIngCtrlWrite (v : Word) (s : State) : Out :=
  fabric s fun s =>
    let s1 := wr s R.ingCtrl (v &&& 1)
    if rb s R.ingCtrl 0 && !bit v 0 then (List.range 16).foldl closeOnDisable s1 else s1

end Sys2Proof.Machine
end

