-- ==== Sys2Proof/Machine/Registers.lean ====
section
/-! DEFINITION. Access to BAR0: the access codes of R3, undefined offsets, byte enables, what each block lets its writer
write, and the registers that are a view of other state (R3 to R6, R12 to R18, R89, R105 and the block maps). -/

namespace Sys2Proof.Machine

/-- The always-on registers that the AON mirror reflects (R15, R497, R520): the temperatures, the wake cause, the last state
change (from and to, coded as in R519's arguments), and what SAFE shows of the black box. -/
def aonWords (s : State) : List Word :=
  [rd s R.pwrTj, rd s R.pwrTjMax, rd s R.pwrWakeCause, BitVec.ofNat 32 s.aon.lastChange, rd s R.safeBbxSeq, rd s R.safeBbxPinned,
    rd s R.safeBootCnt, rd s R.safeBbxDrop]

/-- The state that a meaning leaves. -/
def outState (o : Out) (s : State) : State :=
  match o with
  | .next t => t
  | .fault _ | .refused _ => s

/-- An index below `m`. -/
def finOf (m : Nat) (h : 0 < m) (n : Nat) : Fin m := ⟨n % m, Nat.mod_lt n h⟩

/-! ### Access codes (R3 to R6) -/

/-- GLB_STATUS.SECURE. -/
def locked (s : State) : Bool := rb s R.glbStatus 4

/-- A write under the access codes: RW bits take the value, RWL bits too until the lock is set, a 1 clears a W1C bit, every
other bit keeps its value. A write that reaches a locked RWL field sets GLB_ERR.LOCKED. -/
def plainWrite (s : State) (r : RegRow) (a : Nat) (v : Word) : State :=
  let m := if locked s then r.rw else r.rw ||| r.rwl
  let old := rd s a
  let s1 := wr s a (((old &&& ~~~m) ||| (v &&& m)) &&& ~~~(v &&& r.w1c))
  if locked s && r.rwl != 0 then glbErr s1 2 a else s1

/-- Whether a row is one of those with the given first offsets. -/
def rowIn (r : RegRow) (l : List Nat) : Bool := l.contains r.base

/-- Index of a register of an array row. -/
def rowIdx (r : RegRow) (a : Nat) : Nat := (a - r.base) % r.outer.2 / r.inner.2

/-! ### Writes block by block -/

/-- DT_STEP_CTRL (R53, R54): another key than 0xA5 and 0x5A makes an armed step lapse and does nothing more. -/
def stepCtrlWrite (v : Word) (s : State) : Out :=
  let mode : StepMode := match fld v 1 0 with
    | 0 => .relative
    | 1 => .absolute
    | _ => .source
  if fld v 1 0 = 3 then execStepCancel (BitVec.ofNat 8 (fld v 31 24)) s
  else if fld v 31 24 = 0xA5 then execStepArm mode s
  else if fld v 31 24 = 0x5A then execStepCommit mode s
  else fabric s stepLapse

/-- A write to the DT block. -/
def writeDt (s : State) (r : RegRow) (a : Nat) (v : Word) : State :=
  if a = R.dtCtrl then outState (execDtCtrlWrite v s) s
  else if a = R.dtPtpCfg then outState (execDtPtpCfgWrite v s) s
  else if a = R.dtStepCtrl then outState (stepCtrlWrite v s) s
  else if a = R.dtStepLo then outState (execDtStepValueWrite false v s) s
  else if a = R.dtStepHi then outState (execDtStepValueWrite true v s) s
  else plainWrite s r a v

/-- A write to a word of gate entry `n` (R56, R58). -/
def writeGate (who : Agent) (s : State) (n : Fin 512) (k : Nat) (v : Word) : State :=
  if k = 0 then outState (if bit v 0 then execGateArm who n v s else execGateDisarm who n v false s) s
  else if k ≤ 5 then outState (execGateEntryWrite who n (finOf 5 (by decide) (k - 1)) v s) s
  else if gateForbidden who n.val then sgErr s 3 n.val
  else s

/-- A write to the SG block. -/
def writeSg (who : Agent) (s : State) (r : RegRow) (a : Nat) (v : Word) : State :=
  if a = R.sgCtrl then outState (execSgRun v s) s
  else if 0x21000 ≤ a then
    writeGate who s (finOf 512 (by decide) ((a - 0x21000) / 0x20)) ((a - 0x21000) % 0x20 / 4) v
  else plainWrite s r a v

/-- SEM_HOST_OP (R90, R91). -/
def semHostOp (v : Word) (s : State) : State :=
  let i : BitVec 12 := BitVec.ofNat 12 (fld v 11 0)
  match fld v 31 29 with
  | 0 => outState (execSemHostAdd i s) s
  | 1 => outState (execSemHostSub i s) s
  | 2 => outState (execSemHostSet i s) s
  | _ => semErr s 4 i.toNat  -- BAD_OP alone, also where the index is a firmware one (DESIGN CHOICE, log entry 8)

/-- A write to the SEM control block. -/
def writeSem (s : State) (r : RegRow) (a : Nat) (v : Word) : State :=
  if a = R.semHostOp then semHostOp v s
  else if a = R.semShadowCtrl then outState (execSemShadowCfgWrite .ctrl v s) s
  else if rowIn r [R.semShadowCfg 0] then
    outState (execSemShadowCfgWrite (.slot (finOf 64 (by decide) (rowIdx r a))) v s) s
  else plainWrite s r a v

/-- The enables of a target changed. -/
def setEnables (s : State) (t : Nat) (f : BitVec 512 → BitVec 512) : State :=
  { s with evc := { s.evc with en := tabSet 0 s.evc.en t (f (tabGet 0 s.evc.en t)) } }

/-- The target and the word of a register of the EVC's enable and active arrays. -/
def evcTarget (r : RegRow) (a : Nat) : Nat := (a - r.base) / r.outer.2

/-- A write to the EVC block: the host may write none of it (R105). -/
def writeEvc (who : Agent) (s : State) (r : RegRow) (a : Nat) (v : Word) : State :=
  let k := rowIdx r a
  if who = .host then evcHostWr s
  else if rowIn r [R.evcPendSet 0] then outState (execEvcPendSet who (finOf 16 (by decide) k) v s) s
  else if rowIn r [R.evcPendClr 0] then outState (execEvcPendClr who (finOf 16 (by decide) k) v s) s
  else if rowIn r [R.evcEnSet 0 0] then setEnables s (evcTarget r a) fun e => (e ||| wordSet k v) &&& ~~~1#512
  else if rowIn r [R.evcEnClr 0 0] then setEnables s (evcTarget r a) fun e => e &&& ~~~(wordSet k v)
  else if rowIn r [R.evcTComplete 0] then
    outState (execEvcComplete (finOf 3 (by decide) k) (BitVec.ofNat 10 (fld v 9 0)) s) s
  else plainWrite s r a v

/-- A write to the ING block. -/
def writeIng (s : State) (r : RegRow) (a : Nat) (v : Word) : State :=
  if a = R.ingCtrl then outState (execIngCtrlWrite v s) s
  else if r.rw ≠ 0 then outState (execIngConfigWrite (BitVec.ofNat 24 a) v s) s
  else plainWrite s r a v

/-- A write to the IFC block. -/
def writeIfc (s : State) (r : RegRow) (a : Nat) (v : Word) : State :=
  if a = R.ifcCtrl then outState (execIfcCtrlWrite v s) s
  else if rowIn r [R.ifcDetCfg 0, R.ifcDetW 0, R.ifcDetThr 0] then
    outState (execIfcDetCfgWrite (finOf 32 (by decide) (rowIdx r a)) (finOf 3 (by decide) ((r.base - R.ifcDetCfg 0) / 4)) v s) s
  else if rowIn r [R.ifcIsChCfg 0 0] then
    outState (execIfcChannelSwitch (finOf 4 (by decide) ((a - r.base) / r.outer.2)) (finOf 8 (by decide) (rowIdx r a)) v s) s
  else if r.rw ≠ 0 then outState (execIfcConfigWrite (BitVec.ofNat 24 a) v s) s
  else plainWrite s r a v

/-- A write to an FDD block: the pyramid set-up of an enabled slot is refused (R179). -/
def writeFdd (s : State) (r : RegRow) (a : Nat) (v : Word) : State :=
  let e := (a - 0x80000) / 0x10000
  let n := a % 0x100 / 0x10
  if rowIn r [R.fddPair 0 0] then
    outState (execFddPairWrite (finOf 2 (by decide) e) (BitVec.ofNat 8 (rowIdx r a)) v s) s
  else if rowIn r [R.fddPyrLo 0 0, R.fddPyrHi 0 0, R.fddPyrCfg 0 0] && fsEn s n then
    errInfo s (R.fddErr e) 1 (R.fddErrInfo e) (BitVec.ofNat 32 (a % 0x10000 * 0x10000 + n))
  else plainWrite s r a v

/-- CAL_CTRL: ARM, then DISARM. -/
def calCtrlWrite (u : CalUnit) (v : Word) (s : State) : State :=
  let s1 := if bit v 0 then outState (execCalArm u s) s else s
  if bit v 1 then outState (execCalDisarm u s1) s1 else s1

/-- A write to a calibration entry: no new address while a check runs or the entry is armed (R203). -/
def writeCal (s : State) (r : RegRow) (u : CalUnit) (a : Nat) (v : Word) : State :=
  if a = calBase u then calCtrlWrite u v s
  else if (a = calBase u + 8 ∨ a = calBase u + 0xC) ∧ (rb s (calStatus u) 3 || rb s (calStatus u) 0) = true then calErr u 2 a s
  else plainWrite s r a v

/-- A write to the SDE or PJE block. -/
def writeSde (s : State) (r : RegRow) (a : Nat) (v : Word) : State :=
  if R.sdeCalCtrl 0 ≤ a then writeCal s r (.sde (finOf 4 (by decide) ((a - R.sdeCalCtrl 0) / 0x40))) a v else plainWrite s r a v
def writePje (s : State) (r : RegRow) (a : Nat) (v : Word) : State :=
  if R.pjeCalCtrl 0 ≤ a then writeCal s r (.pje (finOf 16 (by decide) ((a - R.pjeCalCtrl 0) / 0x40))) a v else plainWrite s r a v

/-- A write to a tile's block (R252). -/
def writeTt (who : Agent) (s : State) (r : RegRow) (a : Nat) (v : Word) : State :=
  if who = .host && !rowIn r [R.ttEvent 0] then setBits s (R.ttEvent ((a - 0x100000) / 0x1000)) 0x20 else plainWrite s r a v

/-- Whether any context is loaded. -/
def anyCtxLoaded (s : State) : Bool := (List.range 16).any (ctxLoaded s)

/-- A write to the MEM block (R257, R260, R283). -/
def writeMem (who : Agent) (s : State) (r : RegRow) (a : Nat) (v : Word) : State :=
  let c := (a - R.memCtxQuotaTile 0) / 0x40 % 16
  if rowIn r [R.memSysSlab, R.memSysGdr] then
    (if anyCtxLoaded s then memErr s 1 0 a else plainWrite s r a v)
  else if rowIn r [R.memCtxQuotaTile 0, R.memCtxQuotaSlab 0, R.memCtxQuotaLse 0, R.memCtxQuotaGdr 0] then
    (if ctxLoaded s c then memErr s 1 c a else plainWrite s r a v)
  else if who = .host && !rowIn r [R.memCtrl, R.memErr, R.memEvent] then memErr s 0 0 a
  else plainWrite s r a v

/-- A write to the set-up of object filter `k` (R304): an enable starts it without a state. -/
def writeObj (s : State) (r : RegRow) (k a : Nat) (v : Word) : State :=
  if rb s (R.tfuObjCfg k) 31 then
    (if a = R.tfuObjCfg k ∧ bit v 31 = false then plainWrite s r a v else tfuErr s 2 (a % 0x10000) 0)
  else
    let s1 := plainWrite s r a v
    if a = R.tfuObjCfg k ∧ bit v 31 = true then
      clrBits { s1 with tfu := { s1.tfu with objs := tabSet none s1.tfu.objs k none } } a 0x20000000
    else s1

/-- A write to the TFU block (R304, R310). -/
def writeTfu (s : State) (r : RegRow) (a : Nat) (v : Word) : State :=
  if a = R.tfuEgoCfg then outState (execTfuEgoCfgWrite v s) s
  else if rowIn r [R.tfuGrav, R.tfuGyroFs, R.tfuAccFs, R.tfuInnovLo, R.tfuInnovHi, R.tfuInnovCfg] && rb s R.tfuEgoCfg 31 then
    tfuErr s 2 (a % 0x10000) 0
  else if rowIn r [R.tfuObjCfg 0, R.tfuObjTrack 0, R.tfuObjQ 0, R.tfuObjVinit 0] then writeObj s r (rowIdx r a) a v
  else plainWrite s r a v

/-- A write to the LSE block (R335, R358, R376). -/
def writeLse (who : Agent) (s : State) (r : RegRow) (a : Nat) (v : Word) : State :=
  if who = .host && !rowIn r [R.lseCtrl, R.lseErr, R.lseEvent, R.lseSchedSel] then errFree s R.lseErr 1 R.lseErrInfo 0xFFFF03FF
  else if a = R.lseSchedSel then syncSched (plainWrite s r a v)
  else plainWrite s r a v

/-- A write to a register that its block keeps from the host, where it is an RWL field under the lock as well (R3). -/
def lockedRow (s : State) (r : RegRow) (a : Nat) : State := if locked s && r.rwl != 0 then glbErr s 2 a else s

/-- A write to a flash channel (R441). -/
def writeFlc (who : Agent) (s : State) (r : RegRow) (a : Nat) (v : Word) : State :=
  if who = .host && !rowIn r [R.flcEvent 0] then lockedRow s r a else plainWrite s r a v

/-- A write to the MST block (R440). -/
def writeMst (who : Agent) (s : State) (r : RegRow) (a : Nat) (v : Word) : State :=
  if a = R.mstFormat then outState (execMstFormat v s) s
  else if who = .host && !rowIn r [R.mstCtrl, R.mstErr, R.mstEvent, R.mstGroomBw, R.mstGroomSide, R.mstGroomFree] then
    errFree (lockedRow s r a) R.mstErr 1 R.mstErrInfo 0xFFFF00FF
  else plainWrite s r a v

/-- A write to the PRS block (R402). -/
def writePrs (who : Agent) (s : State) (r : RegRow) (a : Nat) (v : Word) : State :=
  let may := rowIn r [R.prsCtrl, R.prsErr, R.prsEvent, R.prsSideHigh] || a == R.prsCfg && !rb s R.prsCtrl 0
  if who = .host && !may then errFree (lockedRow s r a) R.prsErr 1 R.prsErrInfo 0xFFFF00FF else plainWrite s r a v

/-- A write of an MSI-X table entry; one that clears the mask bit sends a pending message (R464). The vector-control word is
kept whole: the map says "per PCIe" of it and nothing of its bits 31 to 1 (DESIGN CHOICE, log entry 1). -/
def msixWrite (s : State) (r : RegRow) (a : Nat) (v : Word) : State :=
  let s1 := plainWrite s r a v
  if a % 16 = 12 ∧ rb s a 0 = true ∧ bit v 0 = false then
    unmaskVec s1 ((a - R.hifMsixTable 0) / 16)
  else s1

/-- The configuration register of the ring whose base register `a` is, and the ring's number. -/
def ringOfBase (r : RegRow) (a : Nat) : Option (Nat × Nat) :=
  if rowIn r [R.hifSqBaseLo 0, R.hifSqBaseHi 0] then some (R.hifSqCfg (rowIdx r a), rowIdx r a)
  else if rowIn r [R.hifCqBaseLo 0, R.hifCqBaseHi 0] then some (R.hifCqCfg (rowIdx r a), rowIdx r a)
  else if rowIn r [R.hifPoseLo, R.hifPoseHi] then some (R.hifPoseCfg, 0)
  else if rowIn r [R.hifEvtLo, R.hifEvtHi] then some (R.hifEvtCfg, 0)
  else none

/-- A write to the HIF block (R446, R474, R553). -/
def writeHif (s : State) (r : RegRow) (a : Nat) (v : Word) : State :=
  if a = R.hifCtrl then
    (if bit v 0 ∧ rb s R.glbStatus 0 = false then hifErr s 1 0 0 else plainWrite s r a v)
  else if rowIn r [R.hifCqCoal 0] then cqEvaluate (plainWrite s r a v) (rowIdx r a)
  else if rowIn r [R.hifSqCfg 0] then outState (execSqConfigWrite (finOf 64 (by decide) (rowIdx r a)) v s) s
  else if rowIn r [R.hifCqCfg 0] then outState (execCqConfigWrite (finOf 64 (by decide) (rowIdx r a)) v s) s
  else if a = R.hifPoseCfg then outState (execPoseRingConfigWrite v s) s
  else if a = R.hifEvtCfg then outState (execEvtRingConfigWrite v s) s
  else if rowIn r [R.hifMsixTable 0] then msixWrite s r a v
  else
    match ringOfBase r a with
    | some (cfg, k) => if rb s cfg 31 then hifErr s 1 k (a % 0x10000) else plainWrite s r a v
    | none => plainWrite s r a v

/-- A write to the SAFE block (R497). -/
def writeSafe (who : Agent) (s : State) (r : RegRow) (a : Nat) (v : Word) : State :=
  let may := rowIn r [R.safeCtrl, R.safeErr, R.safeEvent] || r.rwl != 0 && !locked s
  if who = .host && !may then setBits (lockedRow s r a) R.safeErr 1 else plainWrite s r a v

/-- A write to the PWR block. -/
def writePwr (s : State) (r : RegRow) (a : Nat) (v : Word) : State :=
  if a = R.pwrReq then
    match fld v 1 0 with
    | 0 => powerRequest (some .run) s
    | 1 => powerRequest (some .glide) s
    | 2 => powerRequest (some .hold) s
    | _ => powerRequest none s
  else if a = R.pwrPark then outState (execPwrParkWrite v s) s
  else plainWrite s r a v

/-- A write to the SEC block (R525, R527, R531, R543). -/
def writeSec (who : Agent) (s : State) (r : RegRow) (a : Nat) (v : Word) : State :=
  if a = R.secLock then outState (execSecLockWrite v s) s
  else if a = R.secSvnCommit then
    let s1 := outState (execSvnCommitFw v s) s
    outState (execSvnCommitVr v s1) s1
  else if who = .host && !rowIn r [R.secErr, R.secEvent] then setBits s R.secErr 4
  else plainWrite s r a v

/-- A write of a defined register, by the 64 KiB block it lies in (R12). -/
def writeBlock (who : Agent) (s : State) (r : RegRow) (a : Nat) (v : Word) : State :=
  match a / 0x10000 with
  | 0x01 => writeDt s r a v
  | 0x02 => writeSg who s r a v
  | 0x03 => writeSem s r a v
  | 0x05 => writeEvc who s r a v
  | 0x06 => writeIng s r a v
  | 0x07 => writeIfc s r a v
  | 0x08 | 0x09 => writeFdd s r a v
  | 0x0C => writeSde s r a v
  | 0x0D => writePje s r a v
  | 0x0E => if a = R.fgsAbort then outState (execFgsAbort v s) s else plainWrite s r a v
  | 0x10 | 0x11 | 0x12 | 0x13 | 0x14 => writeTt who s r a v
  | 0x18 => writeMem who s r a v
  | 0x1A => writeTfu s r a v
  | 0x1C => writeLse who s r a v
  | 0x20 | 0x21 | 0x22 | 0x23 | 0x24 | 0x25 | 0x26 | 0x27 => writeFlc who s r a v
  | 0x28 => writeMst who s r a v
  | 0x2A => writePrs who s r a v
  | 0x30 => writeHif s r a v
  | 0x31 => writeSafe who s r a v
  | 0x32 => writePwr s r a v
  | 0x33 => writeSec who s r a v
  | _ => plainWrite s r a v

/-- Whether an offset lies in the SEM memory window, or in the AON mirror block. -/
def inSemWindow (a : Nat) : Bool := decide (0x40000 ≤ a) && decide (a < 0x44000)
def inAonMirror (a : Nat) : Bool := decide (0x340000 ≤ a) && decide (a < 0x350000)

/-- A write of one 32-bit register (R14). -/
def writeReg (who : Agent) (s : State) (a : Nat) (v : Word) : State :=
  if inSemWindow a then outState (execSemWindowWrite (BitVec.ofNat 12 ((a - 0x40000) / 4)) v s) s
  else if inAonMirror a then s
  else
    match regRow? a with
    | none => glbErr s 0 a
    | some r => writeBlock who s r a v

/-! ### Reads -/

/-- Bits 32k to 32k + 31 of a set of sources given by a test. -/
def wordOf (p : Nat → Bool) (k : Nat) : Word :=
  BitVec.ofNat 32 ((List.range 32).foldl (fun v b => if p (32 * k + b) then v + 2 ^ b else v) 0)

/-- A read of the AON mirror: the always-on register that stands at the offset; the spec gives no map of the block, so which
one it is, is a constant of the part, and where none stands the value is free. -/
def aonRead (s : State) (a : Nat) : State × Word :=
  match Config.aonMirror (a % 0x10000) with
  | some k => (s, (aonWords s).getD (k % (aonWords s).length) 0)
  | none =>
    let (v, s1) := drawNat s
    (s1, BitVec.ofNat 32 v)

/-- A register of the EVC that shows other state (R105). -/
def evcView (s : State) (r : RegRow) (a : Nat) : Word :=
  let k := rowIdx r a
  if rowIn r [R.evcLevel 0] then wordOf (fun n => decide (n ≠ 0) && evcLevel s n) k
  else if rowIn r [R.evcPend 0, R.evcPendSet 0, R.evcPendClr 0] then wordOf (fun n => decide (n ≠ 0) && evcPending s n) k
  else if rowIn r [R.evcEnSet 0 0, R.evcEnClr 0 0] then wordOf (inSet (tabGet 0 s.evc.en (evcTarget r a))) k
  else if rowIn r [R.evcActive 0 0] then wordOf (inSet (tabGet 0 s.evc.active (evcTarget r a))) k
  else if rowIn r [R.evcTRunning 0] then
    match runningGroup s k with
    | none => 0x100
    | some g => BitVec.ofNat 32 g
  else if rowIn r [R.evcTBest 0] then BitVec.ofNat 32 (evcBest s k [])
  else rd s a

/-- IFC_ISi_STATUS: outputs that are still to carry UNSETTLED (none in SCS mode), SCS, RUNNING (R138, R141, R143, R147). -/
def ifcStatusWord (s : State) (i : Nat) : Word :=
  let sl := ifcSlot s i
  let sw := (List.range 8).foldl (fun m c => if ifcChEn s i c then max m (tabGet ifcChan0 sl.ch c).switchLeft else m) 0
  let run := rb s (R.ifcIsCfg i) 31 && rb s R.ifcCtrl 0
  let left := if run && !ifcScs s i then min 255 (max (ifcUnsettled s i - sl.k) sw) else 0
  BitVec.ofNat 32 (left * 256 + (ifcScs s i).toNat * 2 + run.toNat)

/-- Bytes of the gate store of one graph, and of the whole store (R211, R224). -/
def graphStore : Nat := 8256
def gateStoreSize : Nat := 528384

/-- FGS_GSTORE_DATA (R225). -/
def gstoreWord (s : State) : Word :=
  let o := (rd s R.fgsGstoreAddr).toNat
  if gateStoreSize ≤ o ∨ locked s = true then 0
  else
    match graphOf s (o / graphStore) with
    | some g => BitVec.ofNat 32 (rec8 g.raw (o % graphStore) 4)
    | none => 0

/-- SAFE_MIRROR_AGE, in µs. -/
def mirrorAge (s : State) : Word :=
  match s.safe.mirror with
  | some t => BitVec.ofNat 32 (min 0xFFFFFFFF ((s.dt.now - t).toNat / 1000))
  | none => rd s R.safeMirrorAge

/-- The registers that return the upper half of a capture, 4 above the register that captures (R18). -/
def captureHighs : List Nat :=
  [R.glbEpochHi, R.dtNowHi, R.dtOffsetHi, R.dtPpsStampHi, R.sgGateFireHi 0, R.sgTrigStampHi 0, R.ingIsStampHi 0,
    R.ifcDetPowerHi 0, R.gdrErrAddrHi, R.lseSchedHashHi, R.mstPinHi 0]

/-- GLB_ID: part, stepping and the grade of the part (R16). -/
def glbIdWord (s : State) : Word := if s.gradeX then 0x4807B058 else 0x4807B043

/-- The value a read of a defined register returns where the read changes nothing. -/
def viewReg (s : State) (r : RegRow) (a : Nat) : Word :=
  if rowIn r captureHighs then hi32 (tabGet 0 s.cap (a - 4))
  else if a = R.dtNowFrac then tabGet 0 s.capFrac R.dtNowLo
  else if a = R.glbId then glbIdWord s
  else if a = R.dtStatus then dtStatus s
  else if a = R.dtPtpCfg then ptpCfg s
  else if a / 0x10000 = 0x05 then evcView s r a
  else if rowIn r [R.ifcIsStatus 0] then ifcStatusWord s (rowIdx r a)
  else if rowIn r [R.ttStatus 0] then (if s.pwr.pstate = .glide then setFld (rd s a) 3 0 0 else rd s a)
  else if a = R.fgsGstoreData then gstoreWord s
  else if a = R.safeMirrorAge then mirrorAge s
  else if rowIn r [R.pwrDomOn 0] then domainWord s (rowIdx r a)
  else rd s a

/-- GLB_EPOCH_LO_READ captures the committed epoch (R18). -/
def execGlbEpochLoRead (s : State) : Out :=
  fabric s fun s => capture s R.glbEpochLo (BitVec.ofNat 64 s.mst.committed)

/-- The capture that a read of a register makes, where it is one that captures. -/
def captureRead (s : State) (r : RegRow) (a : Nat) : Option Out :=
  let n := rowIdx r a
  if a = R.glbEpochLo then some (execGlbEpochLoRead s)
  else if a = R.dtNowLo then some (execDtNowLoRead s)
  else if a = R.dtOffsetLo then some (execDtOffsetLoRead s)
  else if a = R.dtPpsStampLo then some (execDtPpsStampLoRead s)
  else if rowIn r [R.sgGateFireLo 0] then some (execSgFireLoRead (finOf 512 (by decide) n) s)
  else if rowIn r [R.sgTrigStampLo 0] then some (execSgTrigStampLoRead (finOf 16 (by decide) n) s)
  else if rowIn r [R.ingIsStampLo 0] then some (execIngIsStampLoRead (finOf 4 (by decide) n) s)
  else if rowIn r [R.ifcDetPowerLo 0] then some (execDetPowerLoRead (finOf 32 (by decide) n) s)
  else if a = R.lseSchedHashLo then some (execLseSchedHashLoRead s)
  else if a = R.gdrErrAddrLo then some (execGdrErrAddrLoRead s)
  else if rowIn r [R.mstPinLo 0] then some (execMstPinLoRead (finOf 3 (by decide) n) s)
  else none

/-- A claim read by a target's own core (R100): firmware reads as the active pair, the AOM as target 2; the host claims
nothing and reads 0 (R105). -/
def claimRead (who : Agent) (s : State) (t : Nat) : State × Word :=
  let own := match who with
    | .host => false
    | .firmware => t == activePair s
    | .aom => t == 2
  if own then
    let s1 := outState (execEvcClaim (finOf 3 (by decide) t) false s) s
    (s1, tabGet 0 s1.evc.response t)
  else (s, 0)

/-- A read of one 32-bit register: the state and the value (R14, R15, R18, R89). -/
def readReg (who : Agent) (s : State) (a : Nat) : State × Word :=
  if inSemWindow a then (s, semCount s ((a - 0x40000) / 4))
  else if inAonMirror a then aonRead s a
  else
    match regRow? a with
    | none => (glbErr s 0 a, 0)
    | some r =>
      match captureRead s r a with
      | some o =>
        let s1 := outState o s
        (s1, lo32 (tabGet 0 s1.cap a))
      | none => if rowIn r [R.evcTClaim 0] then claimRead who s (rowIdx r a) else (s, viewReg s r a)

/-! ### The access (R13) -/

/-- The byte enables of one register of the pair are all set; or none is. -/
def beFull (be : BitVec 8) (h : Nat) : Bool := be.toNat / 16 ^ h % 16 == 15
def beNone (be : BitVec 8) (h : Nat) : Bool := be.toNat / 16 ^ h % 16 == 0

/-- A write of up to 8 bytes: one or two whole registers, in address order, or GLB_ERR.SIZE. -/
def busWrite (who : Agent) (s : State) (a : Nat) (be : BitVec 8) (v : DWord) : State :=
  let base := a / 8 * 8
  if be ≠ 0 ∧ ((beFull be 0 || beNone be 0) && (beFull be 1 || beNone be 1)) = true then
    let s1 := if beFull be 0 then writeReg who s base (lo32 v) else s
    if beFull be 1 then writeReg who s1 (base + 4) (hi32 v) else s1
  else glbErr s 1 (a / 4 * 4)

/-- R4: a W1C bit that hardware sets in the cycle of the write that clears it ends set: the bits `m` of the register at `a`
that stood before the write `old` stand after it. -/
def keepSet (old s : State) (a : Nat) (m : Word) : State :=
  match regRow? a with
  | some r => if rd old a &&& m &&& r.w1c = 0 then s else setBits s a (rd old a &&& m &&& r.w1c)
  | none => s

/-- REGISTER_WRITE: an access of BAR0. -/
def execRegisterWrite (who : Agent) (addr : BitVec 24) (acc : RegAccess) (s : State) : Out :=
  fabric s fun s =>
    let a := addr.toNat / 4 * 4
    match acc with
    | .write be v sets =>
      let b := addr.toNat / 8 * 8
      keepSet s (keepSet s (busWrite who s addr.toNat be v) b (lo32 sets)) (b + 4) (hi32 sets)
    | .read4 =>
      let (s1, v) := readReg who s a
      { s1 with rdata := v.setWidth 64 }
    | .read8 =>
      let (s1, lo) := readReg who s a
      let (s2, hi) := readReg who s1 (a + 4)
      { s2 with rdata := join64 hi lo }

end Sys2Proof.Machine
end

