-- ==== Sys2Proof/Machine/Dispatch.lean ====
section
/-! DEFINITION. What each command does: one arm per row of the table of operations and events. -/

namespace Sys2Proof.Machine

def exec (i : Instr) (s : State) : Host.Outcome State Fault Refusal :=
  match i with
  | .registerWrite who addr acc => Sys2Proof.Machine.execRegisterWrite who addr acc s
  | .glbEpochLoRead => Sys2Proof.Machine.execGlbEpochLoRead s
  | .dtNowLoRead => Sys2Proof.Machine.execDtNowLoRead s
  | .dtOffsetLoRead => Sys2Proof.Machine.execDtOffsetLoRead s
  | .dtPpsStampLoRead => Sys2Proof.Machine.execDtPpsStampLoRead s
  | .sgFireLoRead n => Sys2Proof.Machine.execSgFireLoRead n s
  | .sgTrigStampLoRead p => Sys2Proof.Machine.execSgTrigStampLoRead p s
  | .ingIsStampLoRead n => Sys2Proof.Machine.execIngIsStampLoRead n s
  | .detPowerLoRead k => Sys2Proof.Machine.execDetPowerLoRead k s
  | .lseSchedHashLoRead => Sys2Proof.Machine.execLseSchedHashLoRead s
  | .gdrErrAddrLoRead => Sys2Proof.Machine.execGdrErrAddrLoRead s
  | .mstPinLoRead n => Sys2Proof.Machine.execMstPinLoRead n s
  | .ptpMessageRx port layer2 msg => Sys2Proof.Machine.execPtpMessageRx port layer2 msg s
  | .servoOffset => Sys2Proof.Machine.execServoOffset s
  | .ppsEdge rising => Sys2Proof.Machine.execPpsEdge rising s
  | .servoLossTimeout => Sys2Proof.Machine.execServoLossTimeout s
  | .announceTimeout => Sys2Proof.Machine.execAnnounceTimeout s
  | .dtCtrlWrite v => Sys2Proof.Machine.execDtCtrlWrite v s
  | .dtPtpCfgWrite v => Sys2Proof.Machine.execDtPtpCfgWrite v s
  | .stepArm mode => Sys2Proof.Machine.execStepArm mode s
  | .stepCommit mode => Sys2Proof.Machine.execStepCommit mode s
  | .stepCancel key => Sys2Proof.Machine.execStepCancel key s
  | .dtStepValueWrite hi v => Sys2Proof.Machine.execDtStepValueWrite hi v s
  | .stepArmLapse => Sys2Proof.Machine.execStepArmLapse s
  | .timeStepped => Sys2Proof.Machine.execTimeStepped s
  | .gateArm who n ctrl => Sys2Proof.Machine.execGateArm who n ctrl s
  | .gateDisarm who n ctrl sameCycle => Sys2Proof.Machine.execGateDisarm who n ctrl sameCycle s
  | .gateEntryWrite who n reg v => Sys2Proof.Machine.execGateEntryWrite who n reg v s
  | .sgRun v => Sys2Proof.Machine.execSgRun v s
  | .gateDue n => Sys2Proof.Machine.execGateDue n s
  | .gateDispatch n => Sys2Proof.Machine.execGateDispatch n s
  | .trigPulseEnd p => Sys2Proof.Machine.execTrigPulseEnd p s
  | .trigInputEdge p rising => Sys2Proof.Machine.execTrigInputEdge p rising s
  | .semAdd req idx n rivals => Sys2Proof.Machine.execSemAdd req idx n rivals s
  | .semSub req idx n rivals => Sys2Proof.Machine.execSemSub req idx n rivals s
  | .semWait req idx n rivals => Sys2Proof.Machine.execSemWait req idx n rivals s
  | .semWaitsub req idx n rivals => Sys2Proof.Machine.execSemWaitsub req idx n rivals s
  | .semSet req idx v rivals => Sys2Proof.Machine.execSemSet req idx v rivals s
  | .semPoll waiter rivals => Sys2Proof.Machine.execSemPoll waiter rivals s
  | .semHostAdd idx => Sys2Proof.Machine.execSemHostAdd idx s
  | .semHostSub idx => Sys2Proof.Machine.execSemHostSub idx s
  | .semHostSet idx => Sys2Proof.Machine.execSemHostSet idx s
  | .semWindowWrite off v => Sys2Proof.Machine.execSemWindowWrite off v s
  | .semShadowCfgWrite reg v => Sys2Proof.Machine.execSemShadowCfgWrite reg v s
  | .semShadowWrite k => Sys2Proof.Machine.execSemShadowWrite k s
  | .evcClaim t sameCycle => Sys2Proof.Machine.execEvcClaim t sameCycle s
  | .evcComplete t id => Sys2Proof.Machine.execEvcComplete t id s
  | .evcPendSet who k mask => Sys2Proof.Machine.execEvcPendSet who k mask s
  | .evcPendClr who k mask => Sys2Proof.Machine.execEvcPendClr who k mask s
  | .wakeEdge src => Sys2Proof.Machine.execWakeEdge src s
  | .wakeLatchTake => Sys2Proof.Machine.execWakeLatchTake s
  | .csiFrameStart p vc hdr => Sys2Proof.Machine.execCsiFrameStart p vc hdr s
  | .csiLineStart p vc hdr isEnd => Sys2Proof.Machine.execCsiLineStart p vc hdr isEnd s
  | .csiLine p vc dtype hdr crcOk payload => Sys2Proof.Machine.execCsiLine p vc dtype hdr crcOk payload s
  | .csiEmbeddedData p vc hdr crcOk payload => Sys2Proof.Machine.execCsiEmbeddedData p vc hdr crcOk payload s
  | .csiFrameEnd p vc hdr => Sys2Proof.Machine.execCsiFrameEnd p vc hdr s
  | .pairWaitExpire p right => Sys2Proof.Machine.execPairWaitExpire p right s
  | .ethFrameRx e frame => Sys2Proof.Machine.execEthFrameRx e frame s
  | .imuDataReady n high => Sys2Proof.Machine.execImuDataReady n high s
  | .imuTransactionEnd n data => Sys2Proof.Machine.execImuTransactionEnd n data s
  | .streamLost st => Sys2Proof.Machine.execStreamLost st s
  | .ingConfigWrite addr v => Sys2Proof.Machine.execIngConfigWrite addr v s
  | .ingCtrlWrite v => Sys2Proof.Machine.execIngCtrlWrite v s
  | .ifcOutputRecord n => Sys2Proof.Machine.execIfcOutputRecord n s
  | .ifcChannelSwitch n c v => Sys2Proof.Machine.execIfcChannelSwitch n c v s
  | .ifcConfigWrite addr v => Sys2Proof.Machine.execIfcConfigWrite addr v s
  | .ifcDetCfgWrite k reg v => Sys2Proof.Machine.execIfcDetCfgWrite k reg v s
  | .ifcCtrlWrite v => Sys2Proof.Machine.execIfcCtrlWrite v s
  | .fddPairWrite e n v => Sys2Proof.Machine.execFddPairWrite e n v s
  | .detect e => Sys2Proof.Machine.execDetect e s
  | .track e => Sys2Proof.Machine.execTrack e s
  | .seed e => Sys2Proof.Machine.execSeed e s
  | .matchSets e => Sys2Proof.Machine.execMatchSets e s
  | .depth => Sys2Proof.Machine.execDepth s
  | .project => Sys2Proof.Machine.execProject s
  | .visionJobEnd u => Sys2Proof.Machine.execVisionJobEnd u s
  | .calArm u => Sys2Proof.Machine.execCalArm u s
  | .calCheckEnd u => Sys2Proof.Machine.execCalCheckEnd u s
  | .calDisarm u => Sys2Proof.Machine.execCalDisarm u s
  | .calSwap => Sys2Proof.Machine.execCalSwap s
  | .gateEvaluate run rivals => Sys2Proof.Machine.execGateEvaluate run rivals s
  | .gateHoldExpire run => Sys2Proof.Machine.execGateHoldExpire run s
  | .unitJobStart u => Sys2Proof.Machine.execUnitJobStart u s
  | .gateEnd run gate => Sys2Proof.Machine.execGateEnd run gate s
  | .fgsAbort v => Sys2Proof.Machine.execFgsAbort v s
  | .tileRun => Sys2Proof.Machine.execTileRun s
  | .tilePassCheck job tile errs residue => Sys2Proof.Machine.execTilePassCheck job tile errs residue s
  | .tileJobEnd job => Sys2Proof.Machine.execTileJobEnd job s
  | .tileTakeover tile => Sys2Proof.Machine.execTileTakeover tile s
  | .tileTakeoverComplete tile => Sys2Proof.Machine.execTileTakeoverComplete tile s
  | .fenceRelease tile => Sys2Proof.Machine.execFenceRelease tile s
  | .restore grant => Sys2Proof.Machine.execRestore grant s
  | .copyJobStart g => Sys2Proof.Machine.execCopyJobStart g s
  | .copy e => Sys2Proof.Machine.execCopy e s
  | .fill e => Sys2Proof.Machine.execFill e s
  | .plan e => Sys2Proof.Machine.execPlan e s
  | .copyJobEnd e => Sys2Proof.Machine.execCopyJobEnd e s
  | .gdrRetrain ch ok => Sys2Proof.Machine.execGdrRetrain ch ok s
  | .gdrScrubRead => Sys2Proof.Machine.execGdrScrubRead s
  | .tfuPredict => Sys2Proof.Machine.execTfuPredict s
  | .tfuTimerPredict => Sys2Proof.Machine.execTfuTimerPredict s
  | .update => Sys2Proof.Machine.execUpdate s
  | .tfuReset => Sys2Proof.Machine.execTfuReset s
  | .motion => Sys2Proof.Machine.execMotion s
  | .report => Sys2Proof.Machine.execReport s
  | .tfuAidTimeout => Sys2Proof.Machine.execTfuAidTimeout s
  | .tfuEgoCfgWrite v => Sys2Proof.Machine.execTfuEgoCfgWrite v s
  | .solve => Sys2Proof.Machine.execSolve s
  | .solveAccept => Sys2Proof.Machine.execSolveAccept s
  | .solveIterationEnd => Sys2Proof.Machine.execSolveIterationEnd s
  | .solveDeadlineMiss => Sys2Proof.Machine.execSolveDeadlineMiss s
  | .preint => Sys2Proof.Machine.execPreint s
  | .build => Sys2Proof.Machine.execBuild s
  | .buildEnd => Sys2Proof.Machine.execBuildEnd s
  | .query => Sys2Proof.Machine.execQuery s
  | .prsCoarseEnd => Sys2Proof.Machine.execPrsCoarseEnd s
  | .prsPageScan su => Sys2Proof.Machine.execPrsPageScan su s
  | .prsQueryEnd => Sys2Proof.Machine.execPrsQueryEnd s
  | .insert => Sys2Proof.Machine.execInsert s
  | .prsDelete => Sys2Proof.Machine.execPrsDelete s
  | .filterSetAll => Sys2Proof.Machine.execFilterSetAll s
  | .filterClearAll => Sys2Proof.Machine.execFilterClearAll s
  | .filterSetRange => Sys2Proof.Machine.execFilterSetRange s
  | .filterClearRange => Sys2Proof.Machine.execFilterClearRange s
  | .define => Sys2Proof.Machine.execDefine s
  | .put => Sys2Proof.Machine.execPut s
  | .mstDelete => Sys2Proof.Machine.execMstDelete s
  | .commit => Sys2Proof.Machine.execCommit s
  | .commitDurable => Sys2Proof.Machine.execCommitDurable s
  | .readWindow => Sys2Proof.Machine.execReadWindow s
  | .readGraph => Sys2Proof.Machine.execReadGraph s
  | .get => Sys2Proof.Machine.execGet s
  | .getBbx => Sys2Proof.Machine.execGetBbx s
  | .pin => Sys2Proof.Machine.execPin s
  | .unpin => Sys2Proof.Machine.execUnpin s
  | .flashPageRead ch seq cws => Sys2Proof.Machine.execFlashPageRead ch seq cws s
  | .flashProgramFail ch erase block => Sys2Proof.Machine.execFlashProgramFail ch erase block s
  | .flashChannelLost ch => Sys2Proof.Machine.execFlashChannelLost ch s
  | .groomTask => Sys2Proof.Machine.execGroomTask s
  | .mapMount => Sys2Proof.Machine.execMapMount s
  | .mstFormat v => Sys2Proof.Machine.execMstFormat v s
  | .pwrFail => Sys2Proof.Machine.execPwrFail s
  | .sqTailDoorbell k v => Sys2Proof.Machine.execSqTailDoorbell k v s
  | .cqHeadDoorbell k v => Sys2Proof.Machine.execCqHeadDoorbell k v s
  | .descriptorFetch k ok rivals => Sys2Proof.Machine.execDescriptorFetch k ok rivals s
  | .descriptorDispatch k rivals => Sys2Proof.Machine.execDescriptorDispatch k rivals s
  | .descriptorDeadline k => Sys2Proof.Machine.execDescriptorDeadline k s
  | .descriptorComplete d => Sys2Proof.Machine.execDescriptorComplete d s
  | .completionHoldRelease k => Sys2Proof.Machine.execCompletionHoldRelease k s
  | .cqCoalesceTimer k => Sys2Proof.Machine.execCqCoalesceTimer k s
  | .nop d => Sys2Proof.Machine.execNop d s
  | .configPtpAsym d => Sys2Proof.Machine.execConfigPtpAsym d s
  | .configPtpAnnTmo d => Sys2Proof.Machine.execConfigPtpAnnTmo d s
  | .load d p => Sys2Proof.Machine.execLoad d p s
  | .unload d => Sys2Proof.Machine.execUnload d s
  | .launch d => Sys2Proof.Machine.execLaunch d s
  | .abort d => Sys2Proof.Machine.execAbort d s
  | .arm d => Sys2Proof.Machine.execArm d s
  | .disarm d sameCycle => Sys2Proof.Machine.execDisarm d sameCycle s
  | .descCopy d => Sys2Proof.Machine.execDescCopy d s
  | .descSolve d => Sys2Proof.Machine.execDescSolve d s
  | .descPrs d => Sys2Proof.Machine.execDescPrs d s
  | .descMst d => Sys2Proof.Machine.execDescMst d s
  | .sqConfigWrite k v => Sys2Proof.Machine.execSqConfigWrite k v s
  | .cqConfigWrite k v => Sys2Proof.Machine.execCqConfigWrite k v s
  | .poseRingConfigWrite v => Sys2Proof.Machine.execPoseRingConfigWrite v s
  | .evtRingConfigWrite v => Sys2Proof.Machine.execEvtRingConfigWrite v s
  | .msixUnmask vec => Sys2Proof.Machine.execMsixUnmask vec s
  | .bar4Access off acc => Sys2Proof.Machine.execBar4Access off acc s
  | .pcieReset kind => Sys2Proof.Machine.execPcieReset kind s
  | .perstRelease => Sys2Proof.Machine.execPerstRelease s
  | .controlPairFault => Sys2Proof.Machine.execControlPairFault s
  | .watchdogExpire => Sys2Proof.Machine.execWatchdogExpire s
  | .switchoverComplete mirrorOk => Sys2Proof.Machine.execSwitchoverComplete mirrorOk s
  | .standbySelftestEnd pass => Sys2Proof.Machine.execStandbySelftestEnd pass s
  | .standbyFault => Sys2Proof.Machine.execStandbyFault s
  | .tfuLaneMismatch again => Sys2Proof.Machine.execTfuLaneMismatch again s
  | .tfuKatEnd laneA laneB => Sys2Proof.Machine.execTfuKatEnd laneA laneB s
  | .ifcMismatch again => Sys2Proof.Machine.execIfcMismatch again s
  | .hifWriterMismatch again => Sys2Proof.Machine.execHifWriterMismatch again s
  | .fabricLogicMismatch => Sys2Proof.Machine.execFabricLogicMismatch s
  | .engineFault e => Sys2Proof.Machine.execEngineFault e s
  | .engineSelftestEnd e pass => Sys2Proof.Machine.execEngineSelftestEnd e pass s
  | .clockFault => Sys2Proof.Machine.execClockFault s
  | .railFault => Sys2Proof.Machine.execRailFault s
  | .periodicTest fault => Sys2Proof.Machine.execPeriodicTest fault s
  | .checkerTest unit pass => Sys2Proof.Machine.execCheckerTest unit pass s
  | .rotationStep p => Sys2Proof.Machine.execRotationStep p s
  | .rotationWaitTimeout p => Sys2Proof.Machine.execRotationWaitTimeout p s
  | .rotationSelftestEnd p pass => Sys2Proof.Machine.execRotationSelftestEnd p pass s
  | .bbxRecordWritten => Sys2Proof.Machine.execBbxRecordWritten s
  | .requestRun => Sys2Proof.Machine.execRequestRun s
  | .requestGlide => Sys2Proof.Machine.execRequestGlide s
  | .requestHold => Sys2Proof.Machine.execRequestHold s
  | .pstateChangeComplete => Sys2Proof.Machine.execPstateChangeComplete s
  | .holdWake => Sys2Proof.Machine.execHoldWake s
  | .holdWakeTimer => Sys2Proof.Machine.execHoldWakeTimer s
  | .pwrParkWrite v => Sys2Proof.Machine.execPwrParkWrite v s
  | .powerSample mw => Sys2Proof.Machine.execPowerSample mw s
  | .governorLimit => Sys2Proof.Machine.execGovernorLimit s
  | .governorTick => Sys2Proof.Machine.execGovernorTick s
  | .thermalSample tj aon => Sys2Proof.Machine.execThermalSample tj aon s
  | .thermalStep tenMs => Sys2Proof.Machine.execThermalStep tenMs s
  | .secLockWrite v => Sys2Proof.Machine.execSecLockWrite v s
  | .svnCommitFw v => Sys2Proof.Machine.execSvnCommitFw v s
  | .svnCommitVr v => Sys2Proof.Machine.execSvnCommitVr v s
  | .health seq payload crcOk => Sys2Proof.Machine.execHealth seq payload crcOk s
  | .bbxRead seq payload crcOk => Sys2Proof.Machine.execBbxRead seq payload crcOk s
  | .coreReset seq payload crcOk => Sys2Proof.Machine.execCoreReset seq payload crcOk s
  | .coreResetRelease cpa cpb => Sys2Proof.Machine.execCoreResetRelease cpa cpb s
  | .acserPower seq payload crcOk => Sys2Proof.Machine.execAcserPower seq payload crcOk s
  | .attest seq payload crcOk => Sys2Proof.Machine.execAttest seq payload crcOk s
  | .recoverBegin seq payload crcOk => Sys2Proof.Machine.execRecoverBegin seq payload crcOk s
  | .recoverData seq payload crcOk => Sys2Proof.Machine.execRecoverData seq payload crcOk s
  | .recoverEnd seq payload crcOk => Sys2Proof.Machine.execRecoverEnd seq payload crcOk s
  | .time seq payload crcOk => Sys2Proof.Machine.execTime seq payload crcOk s
  | .acserSemSet seq payload crcOk => Sys2Proof.Machine.execAcserSemSet seq payload crcOk s
  | .challenge seq payload crcOk => Sys2Proof.Machine.execChallenge seq payload crcOk s
  | .auth seq payload crcOk => Sys2Proof.Machine.execAuth seq payload crcOk s
  | .owner seq payload crcOk => Sys2Proof.Machine.execOwner seq payload crcOk s
  | .acserResponseRead full => Sys2Proof.Machine.execAcserResponseRead full s
  | .acserSessionTimeout => Sys2Proof.Machine.execAcserSessionTimeout s
  | .powerOnReset rise => Sys2Proof.Machine.execPowerOnReset rise s
  | .pwrGoodCoreRise cpa cpb => Sys2Proof.Machine.execPwrGoodCoreRise cpa cpb s
  | .pwrGoodTimeout => Sys2Proof.Machine.execPwrGoodTimeout s
  | .firmwareStart badTiles => Sys2Proof.Machine.execFirmwareStart badTiles s
  | .gddr6TrainingEnd failed => Sys2Proof.Machine.execGddr6TrainingEnd failed s
  | .startupReady => Sys2Proof.Machine.execStartupReady s
  | .recoverWindowTimeout => Sys2Proof.Machine.execRecoverWindowTimeout s
  | .pwrFailNRise => Sys2Proof.Machine.execPwrFailNRise s
  | .stripeProgrammed => Sys2Proof.Machine.execStripeProgrammed s
  | .linkUp speed width => Sys2Proof.Machine.execLinkUp speed width s
  | .ptpStatus => Sys2Proof.Machine.execPtpStatus s
  | .delayReq => Sys2Proof.Machine.execDelayReq s
  | .avsTargetReached => Sys2Proof.Machine.execAvsTargetReached s
  | .schedulingBoundary => Sys2Proof.Machine.execSchedulingBoundary s
  | .crystalStable inWindow idFail => Sys2Proof.Machine.execCrystalStable inWindow idFail s

end Sys2Proof.Machine
end

