-- ==== Sys2Proof/Safety.lean ====
section
/-! DEFINITION. What claims say of states and runs: the canonical form of every byte memory and of the register file, the
bounds the spec puts on counters and queues, and what a command may never change. -/

namespace Sys2Proof.Machine

/-- The canonical form of byte memory: addresses strictly rising, no byte equal to the 0 that an unlisted address reads as. -/
def Memory.wf (m : List Host.Cell) : Bool := tabWf (fun _ => 0) m

/-- The canonical form of the register file: offsets strictly rising, no register at its reset value. -/
def Regs.wf (r : Tab Word) : Bool := tabWf resetVal r

/-- The boot flash holds its bytes in canonical form over 0xFF. -/
def norWf (n : Option Nor) : Bool := n.all fun f => tabWf (fun _ => 0xFF) f.bytes

/-- What every step keeps: canonical memories, register file and semaphore counts; the AOM's record queue within its 64
entries (R495); the two fuse counters within the 64 that can be burnt (R525, R527); only stores to tile ranges held behind a fence (R263). -/
structure Inv (s : State) : Prop where
  mem : Memory.wf s.mem = true
  regs : Regs.wf s.regs = true
  sems : tabWf (fun _ => 0) s.sem.count = true
  mram : Memory.wf s.bbx.mram = true
  nor : norWf s.sec.nor = true
  queue : s.bbxQueue.length ≤ 64
  svn : s.sec.fuseSvn ≤ 64
  vr : s.sec.fuseVr ≤ 64
  held : ∀ e ∈ s.heldWrites, e.addr < 68 * 0x80000

/-- What no command changes in a way the part cannot: the queue of waiting commands is its own affair, the straps and the part
stay, a fuse counter never falls and the owner hash, once burnt, stays (R525, R527, R542). -/
structure Keeps (s t : State) : Prop where
  pending : t.pending = s.pending
  straps : t.straps = s.straps
  gradeX : t.gradeX = s.gradeX
  svn : s.sec.fuseSvn ≤ t.sec.fuseSvn
  vr : s.sec.fuseVr ≤ t.sec.fuseVr
  owner : ∀ h, s.sec.ownerHash = some h → t.sec.ownerHash = some h
  inv : Inv s → Inv t

/-- A command answers a next state of which `P` holds. -/
def Runs (c : Instr) (s : State) (P : State → Prop) : Prop := ∃ t, exec c s = .next t ∧ P t

/-- Every byte that the model reads is the same. -/
def SameBytes (s t : State) : Prop := ∀ a, ldByte t a = ldByte s a

/-- Every register but those listed holds the same. -/
def SameRegsBut (l : List Nat) (s t : State) : Prop := ∀ a, a ∉ l → rd t a = rd s a

/-- Nothing but the `n` bytes from device address `a` changes: every other address that does not reach the place of one of
them reads as before (semaphore memory, which shows the counts, aside). -/
def OnlyBytes (s t : State) (a n : Nat) : Prop :=
  ∀ x, x < semBase ∨ semBase + 0x4000 ≤ x → (∀ i, i < n → x ≠ a + i ∧ physAddr s x ≠ physAddr s (a + i)) → ldByte t x = ldByte s x

/-- `n` bytes from `a` lie in the slab, in LSE memory, in host memory or, outside GLIDE, in GDDR6: places a store reaches
directly. -/
def plainRam (s : State) (a n : Nat) : Prop :=
  slabBase ≤ a ∧ a + n ≤ slabBase + 0x3000000 ∨ lseBase ≤ a ∧ a + n ≤ lseBase + 0x800000 ∨
    gdrBase ≤ a ∧ a + n ≤ gdrBase + gdrBytes s ∧ s.pwr.pstate ≠ .glide ∨ hostBase ≤ a ∧ a + n ≤ hostBase + 0x800000000000

/-- Device time with its fraction, as one 96-bit count of 2^−32 ns. -/
def dt96 (s : State) : BitVec 96 := s.dt.now ++ s.dt.frac

/-- The commands that the always-on domain takes, whether or not the fabric domain runs: power and reset, wakes, supply and
clock events, the host link's reset, the Acser port, and the black-box writer. -/
def alwaysOn : Instr → Bool
  | .wakeEdge _ | .pcieReset _ | .perstRelease | .clockFault | .railFault | .bbxRecordWritten | .holdWake | .holdWakeTimer
  | .thermalSample _ _ | .health _ _ _ | .bbxRead _ _ _ | .coreReset _ _ _ | .coreResetRelease _ _ | .acserPower _ _ _
  | .attest _ _ _ | .recoverBegin _ _ _ | .recoverData _ _ _ | .recoverEnd _ _ _ | .time _ _ _ | .acserSemSet _ _ _
  | .challenge _ _ _ | .auth _ _ _ | .owner _ _ _ | .acserResponseRead _ | .acserSessionTimeout | .powerOnReset _
  | .pwrGoodCoreRise _ _ | .pwrGoodTimeout | .pwrFail | .pwrFailNRise | .crystalStable _ _ => true
  | _ => false

end Sys2Proof.Machine
end

