-- ==== Sys2Proof/Certificates/Slice0/Obligations.lean ====
section
/-! DEFINITION. The statements for the provers. `Runs c s P` says that the command answers a next state of which `P` holds. -/

open Sys2Proof Sys2Proof.Machine

/-! ### The block as a whole -/

/-- One step takes the command at the front of the queue and runs it on the state with the queue's rest. -/
def Obligations.StepRunsTheFrontCommand : Prop :=
  ∀ (c : Instr) (rest : List Instr) (s : State), s.pending = c :: rest → step s = exec c { s with pending := rest }

/-- On an empty queue, with no committed step waiting, one clock edge passes. While the fabric domain runs it is an edge of
TIME_CLK: `frac` takes 4 × DT_RATE, DT takes 4 ns and the signed carry, together one sum in 96 bits (R35); beside device time only
the errors of memory that the environment may bring at an edge change, and the HELD bits of the GDDR6 channels fall (log entry
33). While it is held and the always-on clock runs, it is an AON_CLK edge of 40 ns plus the trim of the frequency estimate (R39)
and nothing else changes. Where no clock runs nothing changes. That a step on an empty queue is such an edge is the model's
choice (log entry 3). -/
def Obligations.IdleStepAdvancesDeviceTime : Prop :=
  ∀ s : State, s.pending = [] → s.dt.commit = none →
    (s.up = true → ∃ t, step s = .next t ∧ dt96 t = dt96 s + BitVec.ofInt 96 (4 * 2 ^ 32 + 4 * (rd s R.dtRate).toInt) ∧
      SameRegsBut ((List.range 16).map R.gdrChStatus) s t ∧ (∀ k : Fin 16, rb t (R.gdrChStatus k.val) 1 = false) ∧
      t = { s with
        regs := t.regs, fresh := s.fresh + 1, poison := t.poison, flips := t.flips, edc := t.edc
        dt := { s.dt with prev := s.dt.now, now := t.dt.now, frac := t.dt.frac } }) ∧
    (s.up = false → clockRuns s = true → ∃ t, step s = .next t ∧
      dt96 t = dt96 s + BitVec.ofInt 96 (40 * 2 ^ 32 + 40 * (rd s R.dtFreq).toInt) ∧
      t = { s with dt := { s.dt with prev := s.dt.now, now := t.dt.now, frac := t.dt.frac } }) ∧
    (clockRuns s = false → step s = .next s)

/-- Every command, in every state, answers a next state: none faults and none is refused. -/
def Obligations.EveryCommandAnswersANextState : Prop := ∀ (c : Instr) (s : State), ∃ t, exec c s = .next t

/-- Memory, boot flash, MRAM, register file and semaphore counts keep their canonical form, the AOM's queue never exceeds its 64
entries, the fuse counters never exceed the 64 that can be burnt, a fence holds stores to tile ranges only: what a step keeps
from any state that has it. -/
def Obligations.EveryStepKeepsTheInvariant : Prop := ∀ s t : State, Inv s → step s = .next t → Inv t

/-- The state after reset meets the invariant. -/
def ruleResetInvariant : Prop := Inv State.reset

/-- No command changes the queue, the straps or the part; a fuse counter never falls; an owner hash once burnt stays. -/
def Obligations.NoCommandUndoesWhatIsFixed : Prop :=
  ∀ (c : Instr) (s t : State), exec c s = .next t →
    t.pending = s.pending ∧ t.straps = s.straps ∧ t.gradeX = s.gradeX ∧ s.sec.fuseSvn ≤ t.sec.fuseSvn ∧
      s.sec.fuseVr ≤ t.sec.fuseVr ∧ ∀ h, s.sec.ownerHash = some h → t.sec.ownerHash = some h

/-- While the fabric domain is off or held in reset, every command but those of the always-on domain changes nothing. -/
def Obligations.HeldFabricTakesNoCommand : Prop :=
  ∀ (c : Instr) (s : State), s.up = false → alwaysOn c = false → exec c s = .next s

/-- What the spec gives for a power-on reset (R38, R48, R77, R97, R303, R545): nothing waits, the fabric domain is off, DT and the
trim are 0 with the servo UNSET, every count is 0, no enable is set, and registers of each block hold the values of their block
maps. -/
def ruleResetState : Prop :=
  State.reset.pending = [] ∧ State.reset.up = false ∧ dt96 State.reset = 0 ∧ State.reset.dt.servo = .unset ∧
    (∀ i, semCount State.reset i = 0) ∧ (∀ t, tabGet 0 State.reset.evc.en t = 0) ∧ State.reset.fgs.runs = [] ∧
    State.reset.bbxQueue = [] ∧ State.reset.sec.session = false ∧
    (∀ a, rd State.reset a = resetVal a) ∧ resetVal R.dtRate = 0 ∧ resetVal R.dtFreq = 0 ∧ resetVal R.pwrCap = 40000 ∧
    resetVal R.safeCtrl = 1 ∧ resetVal R.pwrTalarm = 100 ∧ (∀ t : Fin 68, resetVal (R.memRedir t.val) = BitVec.ofNat 32 t.val) ∧
    (∀ p : Fin 16, resetVal (R.sgTrigCfg p.val) &&& 1 = 1)

/-- The state after reset meets the invariant, and is what the spec gives for a power-on reset (R38, R48, R77, R97, R303, R545). -/
def Obligations.ResetMeetsTheInvariant : Prop :=
  ruleResetInvariant ∧ ruleResetState

/-! ### Registers -/

/-- R14: a read of an offset that no block defines returns 0, a write to it is ignored; both set GLB_ERR.UNMAPPED and complete. -/
def Obligations.UndefinedOffsetReadsZero : Prop :=
  ∀ (s : State) (who : Agent) (a : BitVec 24) (v : DWord), s.up = true →
    let undef := fun (x : Nat) => regRow? x = none ∧ inSemWindow x = false ∧ inAonMirror x = false
    let r := a.toNat / 4 * 4
    let w := a.toNat / 8 * 8
    let flagged := fun (t : State) => rd t R.glbErr = rd s R.glbErr ||| 1 ∧ SameRegsBut [R.glbErr, R.glbErrAddr] s t ∧
      t = { s with regs := t.regs, rdata := t.rdata };
    (undef r → Runs (.registerWrite who a .read4) s fun t => t.rdata = 0 ∧ flagged t) ∧
    (undef r → undef (r + 4) → Runs (.registerWrite who a .read8) s fun t => t.rdata = 0 ∧ flagged t) ∧
    (undef r → Runs (.registerWrite who a .read8) s fun t => lo32 t.rdata = 0 ∧ rb t R.glbErr 0 = true) ∧
    (undef (r + 4) → Runs (.registerWrite who a .read8) s fun t => hi32 t.rdata = 0 ∧ rb t R.glbErr 0 = true) ∧
    (undef w → Runs (.registerWrite who a (.write 0x0F v 0)) s fun t => flagged t ∧ t.rdata = s.rdata) ∧
    (undef (w + 4) → Runs (.registerWrite who a (.write 0xF0 v 0)) s fun t => flagged t ∧ t.rdata = s.rdata) ∧
    (undef w → undef (w + 4) → Runs (.registerWrite who a (.write 0xFF v 0)) s fun t => flagged t ∧ t.rdata = s.rdata)

/-- R17: the address register takes the offset of the access that set a bit while all bits were 0, and does not change while any
is set; here for an access of an undefined offset. -/
def ruleErrorAddressHoldsTheFirstError : Prop :=
  ∀ (s : State) (who : Agent) (a : BitVec 24), s.up = true → a.toNat % 4 = 0 → regRow? a.toNat = none →
    inSemWindow a.toNat = false → inAonMirror a.toNat = false →
    (rd s R.glbErr = 0 → Runs (.registerWrite who a .read4) s fun t => rd t R.glbErrAddr = a.setWidth 32) ∧
    (rd s R.glbErr ≠ 0 → Runs (.registerWrite who a .read4) s fun t => rd t R.glbErrAddr = rd s R.glbErrAddr)

/-- R13: a read of 4 bytes returns the whole register addressed, one of 8 bytes two registers in address order; a write of two whole
registers is one of each in turn, and a write whose byte enables do not cover one or two whole registers is ignored and sets
GLB_ERR.SIZE. -/
def Obligations.AccessesAreOfWholeRegisters : Prop :=
  ∀ (s : State) (who : Agent) (a : BitVec 24) (be : BitVec 8) (v : DWord), s.up = true →
    let at_ := fun (x : Nat) (acc : RegAccess) => Instr.registerWrite who (BitVec.ofNat 24 x) acc
    (Runs (.registerWrite who a .read4) s fun t => t.rdata.toNat < 2 ^ 32 ∧ exec (at_ (a.toNat / 4 * 4) .read4) s = .next t) ∧
    (∀ t1 t2, a.toNat % 8 = 0 → exec (at_ a.toNat .read4) s = .next t1 → t1.up = true → exec (at_ (a.toNat + 4) .read4) t1 = .next t2 →
      Runs (.registerWrite who a .read8) s fun t => lo32 t.rdata = lo32 t1.rdata ∧ hi32 t.rdata = lo32 t2.rdata) ∧
    (∀ t1, exec (.registerWrite who a (.write 0x0F v 0)) s = .next t1 → t1.up = true →
      exec (.registerWrite who a (.write 0xFF v 0)) s = exec (.registerWrite who a (.write 0xF0 v 0)) t1) ∧
    (be ≠ 0x0F → be ≠ 0xF0 → be ≠ 0xFF → Runs (.registerWrite who a (.write be v 0)) s fun t => rd t R.glbErr = rd s R.glbErr ||| 2 ∧
      SameRegsBut [R.glbErr, R.glbErrAddr] s t ∧ t = { s with regs := t.regs })

/-- The access codes of R3, R5 and R6 on the registers whose block gives writes no rule of its own (GLB, TME, GDR): a write gives RW
bits the value written, RWL bits too while the security lock is open, clears the W1C bits written 1 and leaves every other bit;
under the lock a write that reaches an RWL field sets GLB_ERR.LOCKED as well. R4: a W1C bit among `k`, those that hardware sets in the
write's own cycle, stays 1. -/
def ruleWriteFollowsTheAccessCodes : Prop :=
  ∀ (s : State) (who : Agent) (a : BitVec 24) (r : RegRow) (v k : Word), s.up = true → a.toNat % 4 = 0 →
    regRow? a.toNat = some r → a.toNat / 0x10000 ∈ [0x00, 0x0A, 0x0B, 0x19] →
    let m := if locked s then r.rw else r.rw ||| r.rwl
    let c := if a.toNat % 8 = 0 then Instr.registerWrite who a (.write 0x0F (v.setWidth 64) (k.setWidth 64))
      else .registerWrite who a (.write 0xF0 (v.setWidth 64 <<< 32) (k.setWidth 64 <<< 32))
    (locked s = false ∨ r.rwl = 0 → Runs c s fun t =>
      rd t a.toNat = (((rd s a.toNat &&& ~~~m) ||| (v &&& m)) &&& ~~~(v &&& r.w1c)) ||| (rd s a.toNat &&& k &&& r.w1c) ∧ SameRegsBut [a.toNat] s t ∧
        t = { s with regs := t.regs }) ∧
    (locked s = true → r.rwl ≠ 0 → Runs c s fun t =>
      rd t a.toNat = (((rd s a.toNat &&& ~~~r.rw) ||| (v &&& r.rw)) &&& ~~~(v &&& r.w1c)) ||| (rd s a.toNat &&& k &&& r.w1c) ∧ rd t R.glbErr = rd s R.glbErr ||| 4 ∧
        SameRegsBut [a.toNat, R.glbErr, R.glbErrAddr] s t)

/-- R3, R5, R6, R17: what a register write stores, and what the address register of the error register holds. -/
def Obligations.WritesFollowTheAccessCodes : Prop :=
  ruleWriteFollowsTheAccessCodes ∧ ruleErrorAddressHoldsTheFirstError

/-- R18 and the capture rules of the chapters: a read of each capturing LO register answers the low half of the 64-bit value of
that moment and holds the whole value; it changes no byte of memory and no register but those the capture itself loads. -/
def ruleLowReadsCaptureTheWholeValue : Prop :=
  ∀ s : State, s.up = true →
    let got := fun (c : Instr) (a : Nat) (v : DWord) => Runs c s fun t =>
      tabGet 0 t.cap a = v ∧ t.rdata = (lo32 v).setWidth 64 ∧ t = { s with cap := t.cap, capFrac := t.capFrac, rdata := t.rdata } ∧
        ∀ b, b ≠ a → tabGet 0 t.cap b = tabGet 0 s.cap b
    got .glbEpochLoRead R.glbEpochLo (BitVec.ofNat 64 s.mst.committed) ∧
    got .dtNowLoRead R.dtNowLo s.dt.now ∧
    Runs .dtNowLoRead s (fun t => tabGet 0 t.capFrac R.dtNowLo = s.dt.frac) ∧
    got .dtOffsetLoRead R.dtOffsetLo (BitVec.ofInt 64 s.dt.offset) ∧
    got .dtPpsStampLoRead R.dtPpsStampLo s.dt.ppsStamp ∧
    (∀ n : Fin 512, got (.sgFireLoRead n) (R.sgGateFireLo n.val) (gateFire s n.val)) ∧
    (∀ p : Fin 16, got (.sgTrigStampLoRead p) (R.sgTrigStampLo p.val) (tabGet 0 s.sg.stamp p.val)) ∧
    (∀ i : Fin 4, got (.ingIsStampLoRead i) (R.ingIsStampLo i.val) (imuSlot s i.val).stamp) ∧
    got .lseSchedHashLoRead R.lseSchedHashLo (selectedHash s) ∧
    got .gdrErrAddrLoRead R.gdrErrAddrLo (rd64 s R.gdrErrAddrLo R.gdrErrAddrHi) ∧
    (∀ i : Fin 3, got (.mstPinLoRead i) (R.mstPinLo i.val) (BitVec.ofNat 64 (s.mst.pins.getD i.val 0))) ∧
    (∀ k : Fin 32, Runs (.detPowerLoRead k) s fun t =>
      tabGet 0 t.cap (R.ifcDetPowerLo k.val) = (detGet s k.val).power ∧ t.rdata = (lo32 (detGet s k.val).power).setWidth 64 ∧
        rd t (R.ifcDetPhase k.val) = (detGet s k.val).phase.setWidth 32 ∧ rd t (R.ifcDetInfo k.val) = (detGet s k.val).info ∧
        SameBytes s t)

/-- R18, R40: a read of the register above a capturing LO register returns the upper half of the last capture, and DT_NOW_FRAC
the fraction captured with DT_NOW_LO; nothing else changes. -/
def ruleHighReadsReturnTheLastCapture : Prop :=
  ∀ (s : State) (who : Agent), s.up = true →
    (∀ a ∈ [R.glbEpochHi, R.dtNowHi, R.dtOffsetHi, R.dtPpsStampHi, R.gdrErrAddrHi, R.lseSchedHashHi],
      Runs (.registerWrite who (BitVec.ofNat 24 a) .read4) s fun t =>
        t = { s with rdata := (hi32 (tabGet 0 s.cap (a - 4))).setWidth 64 }) ∧
    Runs (.registerWrite who (BitVec.ofNat 24 R.dtNowFrac) .read4) s fun t =>
      t = { s with rdata := (tabGet 0 s.capFrac R.dtNowLo).setWidth 64 }

/-- R18, R40: a LO read captures the whole value, the read above it returns the rest of that capture. -/
def Obligations.PairedReadsReturnOneValue : Prop :=
  ruleLowReadsCaptureTheWholeValue ∧ ruleHighReadsReturnTheLastCapture

/-! ### Device time -/

/-- PTP is selected and firmware holds a whole measurement `raw` of the selected master, whose sync interval is `t` ns (R43, R44). -/
def offered (s : State) (raw : Int) (t : Nat) : Prop :=
  s.up = true ∧ dtSel s = 1 ∧ s.ptp.msOffset = some raw ∧
    ∃ m, s.ptp.master = some m ∧ -7 ≤ m.logSync ∧ m.logSync ≤ 1 ∧ t = syncInterval m.logSync

/-- R46, R47, R55: from UNSET the first offset, the measurement less the asymmetry, steps DT by −o: the servo is in ACQUIRE with its
three counts at 0, STEPPED is set, a TIME_STEPPED record with the step, the old DT, the new DT and mode 3 is queued while the
AOM's queue has room, the trim stays. -/
def ruleFirstOffsetSetsDeviceTime : Prop :=
  ∀ (s : State) (raw : Int) (t : Nat), offered s raw t → s.dt.servo = .unset →
    let o := raw - s.ptp.asym
    Runs .servoOffset s fun u =>
      let new := s.dt.now - BitVec.ofInt 64 o
      u.dt = { s.dt with now := new, prev := s.dt.now, servo := .acquire, everSet := true, lock := 0, unlock := 0, qual := 0, commit := none,
                         offset := o, offsetAt := some new, interval := t, lossFrom := new,
                         ppsPrev := s.dt.ppsPrev.map (· + (new - s.dt.now)) } ∧
      rd u R.dtEvent = rd s R.dtEvent ||| 0x10 ∧ rd u R.dtRate = rd s R.dtRate ∧ rd u R.dtFreq = rd s R.dtFreq ∧ SameBytes s u ∧
      (s.bbxQueue.length < 64 → ∃ r, u.bbxQueue = s.bbxQueue ++ [r] ∧ r.code = 0x0105 ∧ r.post = true ∧
        r.args = padTo 36 (leBytes 8 (new - s.dt.now).toNat ++ leBytes 8 s.dt.now.toNat ++ leBytes 8 new.toNat ++ [3]))

/-- R47 in ACQUIRE and LOCKED, for an offset within DT_JUMP_MAX over `t` ns: the estimate and the trim take the values of the
pseudocode, the lock and unlock counts and the state follow, LOCKED_EV is set on entry to LOCKED; DT itself is not touched, no
register but DT_RATE, DT_FREQ and DT_EVENT changes, and the measurement is taken once. -/
def ruleAcceptedOffsetTrimsTheClock : Prop :=
  ∀ (s : State) (raw : Int) (t : Nat), offered s raw t → s.dt.servo = .acquire ∨ s.dt.servo = .locked →
    let o := raw - s.ptp.asym
    let e := divRne (o * 2 ^ 32) t
    let freq := max (-214748) (min 214748 ((rd s R.dtFreq).toInt - e / 2 ^ rf s R.dtCtrl 11 8))
    let slew := max (-858993) (min 858993 (-(e / 2 ^ rf s R.dtCtrl 7 4)))
    let near := o.natAbs ≤ (rd s R.dtLockThr).toNat
    o.natAbs ≤ (rd s R.dtJumpMax).toNat →
    Runs .servoOffset s fun u =>
      rd u R.dtFreq = BitVec.ofInt 32 freq ∧ rd u R.dtRate = BitVec.ofInt 32 (freq + slew) ∧
      u.dt.now = s.dt.now ∧ u.dt.frac = s.dt.frac ∧ u.dt.qual = s.dt.qual ∧
      (near → u.dt.lock = s.dt.lock + 1) ∧ (¬ near → u.dt.lock = 0) ∧
      (s.dt.servo = .acquire → near → 7 ≤ s.dt.lock → u.dt.servo = .locked ∧ rd u R.dtEvent = rd s R.dtEvent ||| 1) ∧
      (s.dt.servo = .acquire → ¬ near ∨ s.dt.lock < 7 → u.dt.servo = .acquire ∧ rd u R.dtEvent = rd s R.dtEvent) ∧
      (s.dt.servo = .locked → near → u.dt.unlock = 0 ∧ u.dt.servo = .locked) ∧
      (s.dt.servo = .locked → ¬ near → s.dt.unlock < 7 → u.dt.unlock = s.dt.unlock + 1 ∧ u.dt.servo = .locked) ∧
      (s.dt.servo = .locked → ¬ near → 7 ≤ s.dt.unlock → u.dt.servo = .acquire) ∧
      SameRegsBut [R.dtFreq, R.dtRate, R.dtEvent] s u ∧
      u = { s with regs := u.regs, dt := u.dt, ptp := { s.ptp with msOffset := none } }

/-- R47, R49: an offset above DT_JUMP_MAX in ACQUIRE or LOCKED is refused: REFUSING, the trim at the frequency estimate, the
refusal counted, TIME_JUMP_REFUSED set and recorded; DT and the estimate stand. In QUALIFY and REFUSING an offset above it is
counted and empties the qualification count, one within it counts until the eighth ends the wait with QUALIFIED. Without a whole
measurement of the selected master the servo is not fed. -/
def ruleJumpsAreRefusedUntilQualified : Prop :=
  (∀ (s : State) (raw : Int) (t : Nat), offered s raw t →
    let o := raw - s.ptp.asym
    let jump := (rd s R.dtJumpMax).toNat < o.natAbs
    (s.dt.servo = .acquire ∨ s.dt.servo = .locked → jump → Runs .servoOffset s fun u =>
      u.dt.servo = .refusing ∧ u.dt.qual = 0 ∧ u.dt.now = s.dt.now ∧ u.dt.frac = s.dt.frac ∧ rd u R.dtRate = rd s R.dtFreq ∧
      rd u R.dtFreq = rd s R.dtFreq ∧ rd u R.dtRefuseCnt = incSat (rd s R.dtRefuseCnt) ∧
      rd u R.dtEvent = rd s R.dtEvent ||| 2 ∧
      (s.bbxQueue.length < 64 → ∃ r, u.bbxQueue = s.bbxQueue ++ [r] ∧ r.code = 0x0101 ∧ r.post = true)) ∧
    (s.dt.servo = .qualify ∨ s.dt.servo = .refusing → jump → Runs .servoOffset s fun u =>
      u.dt.servo = s.dt.servo ∧ u.dt.qual = 0 ∧ u.dt.now = s.dt.now ∧ rd u R.dtRate = rd s R.dtFreq ∧
      rd u R.dtRefuseCnt = incSat (rd s R.dtRefuseCnt) ∧ SameRegsBut [R.dtRate, R.dtRefuseCnt] s u) ∧
    (s.dt.servo = .qualify ∨ s.dt.servo = .refusing → ¬ jump → s.dt.qual < 7 → Runs .servoOffset s fun u =>
      u.dt.servo = s.dt.servo ∧ u.dt.qual = s.dt.qual + 1 ∧ rd u R.dtRate = rd s R.dtFreq ∧ SameRegsBut [R.dtRate] s u) ∧
    (s.dt.servo = .qualify ∨ s.dt.servo = .refusing → ¬ jump → 7 ≤ s.dt.qual → Runs .servoOffset s fun u =>
      (u.dt.servo = .acquire ∨ u.dt.servo = .locked) ∧ u.dt.now = s.dt.now ∧ bit (rd u R.dtEvent) 6 = true)) ∧
  ∀ s : State, s.up = true → dtSel s ≠ 1 ∨ s.ptp.msOffset = none ∨ s.ptp.master = none → Runs .servoOffset s fun u => u = s

/-- R51, R52: losing a followed source, by LOSS silent sync intervals (0 is taken as 1) or under PTP by the announce timeout, puts
the servo in HOLDOVER at the frequency estimate with its event; before the time has passed nothing changes. A write of DT_CTRL
that changes the source, or of DT_PTP_CFG that changes anything under PTP, qualifies anew where DT has been set; selecting none
leaves the servo FREE; both changes of source raise TIME_MASTER_CHANGED. Other writes only store their fields. -/
def ruleSourceLossAndSourceChange : Prop :=
  ∀ s : State, s.up = true →
    let lost := fun u => u.dt.servo = .holdover ∧ rd u R.dtRate = rd s R.dtFreq ∧ bit (rd u R.dtEvent) 2 = true ∧
      u.evtNext = s.evtNext + 1 ∧ u.dt.now = s.dt.now
    let silent := (s.dt.now - s.dt.lossFrom).toNat
    let unheard := (s.dt.now - s.ptp.annAt).toNat
    (∀ t, sourceInterval s = some t → max 1 (rf s R.dtCtrl 19 16) * t ≤ silent → s.dt.servo ≠ .holdover →
      Runs .servoLossTimeout s lost) ∧
    (∀ t, sourceInterval s = some t → silent < max 1 (rf s R.dtCtrl 19 16) * t → Runs .servoLossTimeout s fun u => u = s) ∧
    (∀ m, dtSel s = 1 → s.ptp.master = some m → s.ptp.annTmo * syncInterval m.logAnnounce ≤ unheard →
      s.dt.servo ≠ .holdover → Runs .announceTimeout s fun u => lost u ∧ u.ptp.master = none) ∧
    (∀ m, s.ptp.master = some m → dtSel s ≠ 1 ∨ unheard < s.ptp.annTmo * syncInterval m.logAnnounce →
      Runs .announceTimeout s fun u => u = s) ∧
    (∀ v : Word, let sel := fld (v &&& 0xF0FF3) 1 0
      let changed := fun u => rd u R.dtCtrl = v &&& 0xF0FF3 ∧ rd u R.dtRate = rd s R.dtFreq ∧ u.dt.now = s.dt.now ∧
        bit (rd u R.dtEvent) 3 = true ∧ u.evtNext = s.evtNext + 1
      (sel % 3 = dtSel s → Runs (.dtCtrlWrite v) s fun u => u = wr s R.dtCtrl (v &&& 0xF0FF3)) ∧
      (sel % 3 ≠ 0 → sel % 3 ≠ dtSel s → s.dt.servo ≠ .unset → s.dt.everSet = true → Runs (.dtCtrlWrite v) s fun u =>
        changed u ∧ u.dt.servo = .qualify ∧ u.dt.qual = 0) ∧
      (sel % 3 = 0 → dtSel s ≠ 0 → s.dt.servo ≠ .unset → s.dt.everSet = true → Runs (.dtCtrlWrite v) s fun u =>
        changed u ∧ u.dt.servo = .free)) ∧
    (∀ v : Word, dtSel s ≠ 1 ∨ ptpCfg (wr s R.dtPtpCfg (v &&& 0xFFF)) = ptpCfg s →
      Runs (.dtPtpCfgWrite v) s fun u => u = wr s R.dtPtpCfg (v &&& 0xFFF)) ∧
    (∀ v : Word, dtSel s = 1 → ptpCfg (wr s R.dtPtpCfg (v &&& 0xFFF)) ≠ ptpCfg s → s.dt.servo ≠ .unset → s.dt.everSet = true →
      Runs (.dtPtpCfgWrite v) s fun u => rd u R.dtPtpCfg = v &&& 0xFFF ∧ u.dt.servo = .qualify ∧ u.ptp.master = none) ∧
    (dtSel s = 1 → Runs .ptpStatus s fun u => u.evtNext = s.evtNext + 1 ∧ u.dt = s.dt ∧ u.ptp = s.ptp)

/-- R47, R49, R51, R52: the servo trims by accepted offsets, refuses jumps, and holds over or changes source when its source is lost. -/
def Obligations.TheServoFollowsItsSource : Prop :=
  ruleAcceptedOffsetTrimsTheClock ∧ ruleJumpsAreRefusedUntilQualified ∧ ruleSourceLossAndSourceChange

/-- R42 to R44 at the port and over the transport of DT_PTP_CFG: an Announce of the domain and in the sync range with no master yet
is selected; a one-step Sync of the selected master gives the offset receive stamp + DT_PTP_RX_LAT − origin − correction − path
delay; its Delay_Resp, or under peer delay a Pdelay_Resp, gives the mean path delay; a message on the other port or over the
other transport changes nothing. Stamps are DT at the PCS. A Delay_Req keeps its stamp less DT_PTP_TX_LAT and goes out on the
configured port. That the half of an odd sum is rounded down is the model's choice (log entry 29). -/
def rulePtpMeasuresTheOffset : Prop :=
  ∀ (s : State) (p : Fin 2) (l2 : Bool), s.up = true → blockOn s 9 = true →
    let here := rf s R.dtPtpCfg 8 8 = p.val ∧ onLayer2 s = l2
    let rx := s.dt.now + BitVec.ofNat 64 (rf s R.dtPtpLat 15 0)
    (∀ m, ¬ here → Runs (.ptpMessageRx p l2 m) s fun u => u = s) ∧
    (∀ a : Announce, here → a.domain.toNat = rf s R.dtPtpCfg 7 0 → -7 ≤ a.logSync → a.logSync ≤ 1 →
      s.ptp.master = none →
      Runs (.ptpMessageRx p l2 (.announce a)) s fun u => u = { s with ptp := { s.ptp with master := some a, annAt := s.dt.now } }) ∧
    (∀ (a : Announce), here → a.logSync < -7 ∨ 1 < a.logSync → Runs (.ptpMessageRx p l2 (.announce a)) s fun u => u = s) ∧
    (∀ q m a origin corr, here → s.ptp.master = some a → a.identity = m →
      Runs (.ptpMessageRx p l2 (.sync q m false origin corr)) s fun u =>
        let d := (rx - origin).toInt - corr
        u = { s with ptp := { s.ptp with sync := none, fwd := some d, msOffset := some (d - s.ptp.pathDelay) } }) ∧
    (∀ q m a rcv corr t3 f, here → peerDelay s = false → s.ptp.master = some a → a.identity = m → s.ptp.delay = some (q, t3) →
      s.ptp.fwd = some f → Runs (.ptpMessageRx p l2 (.delayResp q m rcv corr)) s fun u =>
        u = { s with ptp := { s.ptp with delay := none, pathDelay := (f + ((rcv - t3).toInt - corr)) / 2 } }) ∧
    (∀ q r corr t1, here → peerDelay s = true → s.ptp.delay = some (q, t1) →
      Runs (.ptpMessageRx p l2 (.pdelayResp q false r corr)) s fun u =>
        u = { s with ptp := { s.ptp with delay := none, pathDelay := ((rx - t1).toInt - corr) / 2 } }) ∧
    Runs .delayReq s (fun u =>
      let t3 := s.dt.now - BitVec.ofNat 64 (rf s R.dtPtpLat 31 16)
      u.ptp.delay = some (s.ptp.seq, t3) ∧ u.ptp.seq = s.ptp.seq + 1 ∧
        (∃ m, u.ptp.sent = s.ptp.sent ++ [m] ∧ m.1.val = rf s R.dtPtpCfg 8 8 ∧
          (peerDelay s = true → m.2 = .pdelayReq s.ptp.seq t3) ∧ (peerDelay s = false → m.2 = .delayReq s.ptp.seq t3)) ∧
        u = { s with ptp := u.ptp })

/-- R45: an active edge of PPS_IN, at least 100 ns after the last one stamped, is stamped and raises source 12 whatever is selected;
an inactive or early edge, or one while EN is 0, changes nothing. With PPS selected the servo takes the offset reduced modulo one
second, over an interval of 1 s. -/
def rulePpsEdgesAreStamped : Prop :=
  ∀ (s : State) (rising : Bool), s.up = true →
    let active := rising ≠ rb s R.dtPpsCfg 1
    let early := ∃ p, s.dt.ppsPrev = some p ∧ (s.dt.now - p).toNat < 100
    let caught := (s.evc.wakeArmed && inSet s.evc.wakeMask 12) = true
    (rb s R.dtPpsCfg 0 = false ∨ ¬ active ∨ early → Runs (.ppsEdge rising) s fun u => u = s) ∧
    (rb s R.dtPpsCfg 0 = true → active → ¬ early → Runs (.ppsEdge rising) s fun u =>
      u.dt.ppsStamp = s.dt.now ∧ (caught → inSet u.evc.wake 12 = true) ∧
        (¬ caught → activeAny s 12 = false → inSet u.evc.held 12 = true) ∧
        (¬ caught → activeAny s 12 = true → inSet u.evc.latch 12 = true) ∧
        (dtSel s ≠ 2 → u.dt.ppsPrev = some s.dt.now ∧ SameRegsBut [] s u) ∧
        (dtSel s = 2 → s.dt.servo ≠ .unset → u.dt.interval = 1000000000 ∧ u.dt.offset =
          ((s.dt.now.toNat : Int) - (rd s R.dtPpsPhase).toNat + 500000000) % 1000000000 - 500000000))

/-- R42 to R45: what PTP messages and PPS edges give the servo. -/
def Obligations.TimeSourcesAreMeasured : Prop :=
  rulePtpMeasuresTheOffset ∧ rulePpsEdgesAreStamped

/-- R53, R54: STEP_ARM arms, for SOURCE with an offset of the last two sync intervals (without one the arm lapses at once); the
matching STEP_COMMIT within 1,000,000 ns hands the step to the next edge; any other write of the step registers, STEP_CANCEL and
the lapse drop an armed step and set STEP_ABORT, and a commit without an arm sets it too. -/
def ruleForcedStepsAreArmedThenCommitted : Prop :=
  ∀ s : State, s.up = true →
    let abort := rd s R.dtEvent ||| 0x20
    let recent := ∃ a, s.dt.offsetAt = some a ∧ (s.dt.now - a).toNat ≤ 2 * s.dt.interval
    (∀ m, m = .source → recent → Runs (.stepArm m) s fun u => u.dt = { s.dt with armed := some (m, s.dt.now) } ∧
      (s.dt.armed = none → rd u R.dtEvent = rd s R.dtEvent) ∧ (s.dt.armed ≠ none → rd u R.dtEvent = abort)) ∧
    (∀ m, m ≠ .source → Runs (.stepArm m) s fun u => u.dt = { s.dt with armed := some (m, s.dt.now) } ∧
      (s.dt.armed = none → rd u R.dtEvent = rd s R.dtEvent) ∧ (s.dt.armed ≠ none → rd u R.dtEvent = abort)) ∧
    (¬ recent → Runs (.stepArm .source) s fun u => u.dt = { s.dt with armed := none } ∧ rd u R.dtEvent = abort) ∧
    (∀ m t, s.dt.armed = some (m, t) → (s.dt.now - t).toNat ≤ 1000000 → (m = .source → recent) →
      Runs (.stepCommit m) s fun u => u = { s with dt := { s.dt with armed := none, commit := some m } }) ∧
    (∀ m m' t, s.dt.armed = some (m', t) → m ≠ m' → Runs (.stepCommit m) s fun u =>
      u.dt = { s.dt with armed := none } ∧ rd u R.dtEvent = abort) ∧
    (∀ m, s.dt.armed = none → Runs (.stepCommit m) s fun u => u.dt = s.dt ∧ rd u R.dtEvent = abort) ∧
    (∀ k, s.dt.armed ≠ none → Runs (.stepCancel k) s fun u => u.dt = { s.dt with armed := none } ∧ rd u R.dtEvent = abort) ∧
    (∀ hi v, Runs (.dtStepValueWrite hi v) s fun u => rd u (if hi then R.dtStepHi else R.dtStepLo) = v ∧
      u.dt = { s.dt with armed := none } ∧ (s.dt.armed ≠ none → rd u R.dtEvent = abort)) ∧
    (∀ m t, s.dt.armed = some (m, t) → 1000000 < (s.dt.now - t).toNat ∨ (m = .source ∧ ¬ recent) →
      Runs .stepArmLapse s fun u => u.dt = { s.dt with armed := none } ∧ rd u R.dtEvent = abort) ∧
    (∀ m t, s.dt.armed = some (m, t) → (s.dt.now - t).toNat ≤ 1000000 → (m = .source → recent) →
      Runs .stepArmLapse s fun u => u = s)

/-- R53, R55: at the first edge after the commit, RELATIVE adds DT_STEP as a signed value, ABSOLUTE sets DT to it, SOURCE takes off the
last measured offset; the servo is in ACQUIRE with its counts at 0 and STEPPED is set. The estimate stays. -/
def ruleCommittedStepMovesDeviceTime : Prop :=
  ∀ (s : State) (m : StepMode), s.up = true → s.dt.commit = some m →
    Runs .timeStepped s fun u =>
      u.dt.now = (match m with
        | .relative => s.dt.now + rd64 s R.dtStepLo R.dtStepHi
        | .absolute => rd64 s R.dtStepLo R.dtStepHi
        | .source => s.dt.now - BitVec.ofInt 64 s.dt.offset) ∧
      u.dt.servo = .acquire ∧ u.dt.lock = 0 ∧ u.dt.unlock = 0 ∧ u.dt.qual = 0 ∧ u.dt.commit = none ∧ u.dt.frac = s.dt.frac ∧
      rd u R.dtEvent = rd s R.dtEvent ||| 0x10 ∧ rd u R.dtFreq = rd s R.dtFreq ∧ SameBytes s u

/-- R46, R47, R53 to R55: the steps of DT: the first offset's, and the forced step from its arming over its commit to the edge
that makes it. -/
def Obligations.DeviceTimeIsSteppedAsArmed : Prop :=
  ruleFirstOffsetSetsDeviceTime ∧ ruleForcedStepsAreArmedThenCommitted ∧ ruleCommittedStepMovesDeviceTime

/-! ### Start gates and trigger pins -/

/-- What R58 and R59 ask of an arm of gate `n` with control word `v`. The bounds of a copy plan and a solve slot index are those the
model reads from the sizes of their tables (log entry 7). -/
def gateArmOk (s : State) (n : Nat) (v : Word) : Prop :=
  let t := rf s (R.sgGatePt n) 31 16
  (bit v 5 = true → 1000 ≤ (rd s (R.sgGatePeriodNs n)).toNat) ∧
    (fld v 4 2 = 0 ∧ t < 64 ∨ fld v 4 2 = 1 ∧ t < 4096 ∧ (n < 32 ∨ 256 ≤ t) ∨ fld v 4 2 = 2 ∧ t < 16 ∨
      fld v 4 2 = 3 ∧ t < 256 ∨ fld v 4 2 = 4 ∧ t < 64)

/-- R56, R58, R59, R62, R64: an arm of a disarmed entry stores ACTION, PERIODIC and CTX and arms it with phase 0, unless the target is
refused or DT is past FIRE by more than SG_LATE_TOL, which set SG_ERR.TARGET or LATE and leave ARMED 0; a host write to SG0 to
SG31 is ignored with FW_GATE; an armed entry ignores a write that changes those fields or any other word, with BUSY. -/
def ruleArmingIsChecked : Prop :=
  ∀ (s : State) (who : Agent) (n : Fin 512) (v : Word), s.up = true →
    let c := R.sgGateCtrl n.val
    let may := who ≠ .host ∨ 32 ≤ n.val
    let late := (rd s R.sgLateTol).toNat < s.dt.now.toNat - (gateFire s n.val).toNat
    let fields := (rd s c &&& ~~~0xF03C) ||| (v &&& 0xF03C)
    (may → rb s c 0 = false → gateArmOk s n.val v → ¬ late → Runs (.gateArm who n v) s fun u =>
      rd u c = fields ||| 1 ∧ tabGet 0 u.sg.phase n.val = 0 ∧ SameRegsBut [c] s u ∧ u.dt = s.dt ∧ SameBytes s u) ∧
    (may → rb s c 0 = false → ¬ gateArmOk s n.val v → Runs (.gateArm who n v) s fun u =>
      rd u c = fields ∧ rd u R.sgErr = rd s R.sgErr ||| 4 ∧ u.sg = s.sg) ∧
    (may → rb s c 0 = false → gateArmOk s n.val v → late → Runs (.gateArm who n v) s fun u =>
      rd u c = fields ∧ rd u R.sgErr = rd s R.sgErr ||| 1 ∧ u.sg = s.sg) ∧
    (may → rb s c 0 = true → rd s c &&& 0xF03C ≠ v &&& 0xF03C →
      Runs (.gateArm who n v) s (fun u => rd u R.sgErr = rd s R.sgErr ||| 2 ∧ rd u c = rd s c ∧ u.sg = s.sg) ∧
      ∀ b, Runs (.gateDisarm who n v b) s fun u => rd u R.sgErr = rd s R.sgErr ||| 2 ∧ rd u c = rd s c ∧ u.sg = s.sg) ∧
    (¬ may → Runs (.gateArm who n v) s (fun u => rd u R.sgErr = rd s R.sgErr ||| 8 ∧ rd u c = rd s c ∧ u.sg = s.sg) ∧
      ∀ k, Runs (.gateEntryWrite who n k v) s fun u => rd u R.sgErr = rd s R.sgErr ||| 8 ∧ u.sg = s.sg) ∧
    (∀ k : Fin 5, may → rb s c 0 = false → Runs (.gateEntryWrite who n k v) s fun u => u = wr s (c + 4 * (k.val + 1)) v) ∧
    (∀ k : Fin 5, may → rb s c 0 = true → Runs (.gateEntryWrite who n k v) s fun u =>
      rd u R.sgErr = rd s R.sgErr ||| 2 ∧ SameRegsBut [R.sgErr, R.sgErrGate] s u ∧ u = { s with regs := u.regs })

/-- R58, R63: a disarm of an armed entry that keeps its fields clears ARMED and takes it out of the gates due without firing; one that
comes in the cycle of its dispatch lets it fire, counted once, and leaves it disarmed; the gate is dispatched in that cycle if gates
run, fewer than four have fired in it and no due gate has a lower index (R61). A descriptor held for a gate that is
disarmed without firing learns so (R455). -/
def ruleDisarmStopsAllButTheFiringOfItsCycle : Prop :=
  ∀ (s : State) (who : Agent) (n : Fin 512) (v : Word), s.up = true → who ≠ .host ∨ 32 ≤ n.val →
    rb s (R.sgGateCtrl n.val) 0 = true → rd s (R.sgGateCtrl n.val) &&& 0xF03C = v &&& 0xF03C →
    let now := firedNow s
    Runs (.gateDisarm who n v false) s (fun u => rb u (R.sgGateCtrl n.val) 0 = false ∧ isDue u n.val = false ∧
      rd u (R.sgGateFires n.val) = rd s (R.sgGateFires n.val) ∧ SameRegsBut [R.sgGateCtrl n.val] s u ∧
      (∀ d ∈ u.hif.descs, d.stage = .gateHold → rec8 d.bytes 28 4 = n.val → d.gateLost = true) ∧
      (∀ m, m ≠ n.val → isDue u m = isDue s m)) ∧
    (rb s R.sgCtrl 0 = true → isDue s n.val = true → now.length < 4 → (∀ d ∈ s.sg.due, n.val ≤ d.gate) →
      Runs (.gateDisarm who n v true) s fun u =>
        rb u (R.sgGateCtrl n.val) 0 = false ∧ isDue u n.val = false ∧
          rd u (R.sgGateFires n.val) = rd s (R.sgGateFires n.val) + 1) ∧
    (rb s R.sgCtrl 0 = false ∨ 4 ≤ now.length ∨ (∃ d ∈ s.sg.due, d.gate < n.val) → Runs (.gateDisarm who n v true) s fun u =>
      rb u (R.sgGateCtrl n.val) 0 = false ∧ isDue u n.val = false ∧ rd u (R.sgGateFires n.val) = rd s (R.sgGateFires n.val))

/-- R56, R58, R59, R62 to R64: arming and disarming of start gates. -/
def Obligations.GatesAreArmedAndDisarmed : Prop :=
  ruleArmingIsChecked ∧ ruleDisarmStopsAllButTheFiringOfItsCycle

/-- R60: an armed gate falls due when DT has reached FIRE − C. R75: setting RUN makes every gate already due one of the next cycle and
every passed gate due once, flagged as passed; clearing it stores the bit. -/
def ruleGatesFallDue : Prop :=
  ∀ s : State, s.up = true →
    (∀ n : Fin 512, rb s (R.sgGateCtrl n.val) 0 = true → isDue s n.val = false →
      ((gateFire s n.val).toNat ≤ s.dt.now.toNat + gateComp s n.val → Runs (.gateDue n) s fun u =>
        u = { s with sg := { s.sg with due := s.sg.due ++ [⟨n.val, s.dt.now, false⟩] } }) ∧
      (s.dt.now.toNat + gateComp s n.val < (gateFire s n.val).toNat → Runs (.gateDue n) s fun u => u = s)) ∧
    (∀ n, gateAction s n = 0 → gateComp s n = 24) ∧ (∀ n, gateAction s n = 1 → gateComp s n = 20) ∧
    (∀ n, gateAction s n = 2 → gateComp s n = 16 + 4 * rf s (R.sgTrigCfg (gateTarget s n)) 7 4) ∧
    (∀ n, gateAction s n = 3 → gateComp s n = 28) ∧ (∀ n, gateAction s n = 4 → gateComp s n = 32) ∧
    (∀ v : Word, bit v 0 = false → Runs (.sgRun v) s fun u => u = wr s R.sgCtrl (v &&& 1)) ∧
    (∀ v : Word, bit v 0 = true → rb s R.sgCtrl 0 = false → Runs (.sgRun v) s fun u =>
      rd u R.sgCtrl = 1 ∧ (∀ n : Fin 512, rb s (R.sgGateCtrl n.val) 0 = true → (gateFire s n.val).toNat < s.dt.now.toNat →
        ∃ d ∈ u.sg.due, d.gate = n.val ∧ d.passed = true) ∧ ∀ d ∈ u.sg.due, d.dueDt = s.dt.now)

/-- R59, R61, R64: a due one-shot semaphore gate that takes a dispatch slot in the cycle it fell due adds ARG to its semaphore, counts
the firing, disarms and is due no more; a periodic one stays armed and moves FIRE and phase on by one period. The dispatch takes
a slot, so the same edge gives at most four, the lowest index first. -/
def ruleDueGateFires : Prop :=
  ∀ (s : State) (n : Fin 512) (d : DueGate), s.up = true → rb s R.sgCtrl 0 = true →
    s.sg.due.find? (fun x => x.gate == n.val) = some d → (∀ x ∈ s.sg.due, n.val ≤ x.gate) →
    ((firedNow s).length < 4 → gateAction s n.val = 1 → d.passed = false → d.dueDt = s.dt.now →
      let i := gateTarget s n.val
      Runs (.gateDispatch n) s fun u =>
        (semCount u i).toNat = min ((semCount s i).toNat + (rd s (R.sgGateArg n.val)).toNat) 0xFFFFFFFF ∧
        (∀ j, j ≠ i → semCount u j = semCount s j) ∧ isDue u n.val = false ∧ firedNow u = firedNow s ++ [n.val] ∧
        rd u (R.sgGateFires n.val) = rd s (R.sgGateFires n.val) + 1 ∧ rb u (R.sgGateCtrl n.val) 6 = false ∧
        (gatePeriodic s n.val = false → rb u (R.sgGateCtrl n.val) 0 = false ∧ gateFire u n.val = gateFire s n.val) ∧
        (gatePeriodic s n.val = true → rb u (R.sgGateCtrl n.val) 0 = rb s (R.sgGateCtrl n.val) 0 ∧
          let f := (gateFire s n.val).toNat * 65536 + gatePhase s n.val + gatePeriod s n.val
          gateFire u n.val = BitVec.ofNat 64 (f / 65536) ∧ gatePhase u n.val = f % 65536)) ∧
    (4 ≤ (firedNow s).length → Runs (.gateDispatch n) s fun u => u = s)

/-- R69 to R71: an active edge on an input pin is stamped and requests its source, an output pin sees nothing from outside, and an
active pulse ends when DT reaches its end. -/
def ruleTriggerPins : Prop :=
  ∀ (s : State) (p : Fin 16), s.up = true →
    (∀ r, rb s (R.sgTrigCfg p.val) 0 = true → r ≠ rb s (R.sgTrigCfg p.val) 1 → Runs (.trigInputEdge p r) s fun u =>
      tabGet 0 u.sg.stamp p.val = s.dt.now ∧ rd64 u (R.sgTrigStampLo p.val) (R.sgTrigStampHi p.val) = s.dt.now ∧
      (activeAny s (13 + p.val) = false → (s.evc.wakeArmed && inSet s.evc.wakeMask (13 + p.val)) = false →
        evcLevel u (13 + p.val) = true) ∧ u.dt = s.dt ∧ SameBytes s u) ∧
    (∀ r, rb s (R.sgTrigCfg p.val) 0 = false ∨ r = rb s (R.sgTrigCfg p.val) 1 → Runs (.trigInputEdge p r) s fun u => u = s) ∧
    ((pulseOf s p.val).active = true → (pulseOf s p.val).ends.toNat ≤ s.dt.now.toNat → Runs (.trigPulseEnd p) s fun u =>
      (pulseOf u p.val).active = false ∧ (∀ q, q ≠ p.val → pulseOf u q = pulseOf s q) ∧ u = { s with sg := u.sg }) ∧
    ((pulseOf s p.val).active = true → s.dt.now.toNat < (pulseOf s p.val).ends.toNat → Runs (.trigPulseEnd p) s fun u => u = s)

/-- R59 to R61, R64, R69 to R71, R75: gates fall due and fire; trigger pins are stamped and pulsed. -/
def Obligations.GatesFireWhenDue : Prop :=
  ruleGatesFallDue ∧ ruleDueGateFires ∧ ruleTriggerPins

/-! ### Semaphores -/

/-- R78: ADD, SUB and SET give the count of the operation table to the semaphore named and to no other, and hand the new count back;
nothing else moves but the bank's pointer, the shadows that mirror it, the SEM registers, and for SET its record. -/
def ruleSemaphoreCountsFollowTheTable : Prop :=
  ∀ (s : State) (req : Fin 14) (idx : BitVec 12) (n : Word), s.up = true →
    let i := idx.toNat
    let only := fun (u : State) (c : Nat) => (semCount u i).toNat = c ∧ (∀ j, j ≠ i → semCount u j = semCount s j) ∧
      u.sem.waiters = s.sem.waiters ∧ u.sem.done = s.sem.done ∧ u.mem = s.mem ∧ u.dt = s.dt
    Runs (.semAdd req idx n []) s (fun u => only u (min ((semCount s i).toNat + n.toNat) 0xFFFFFFFF) ∧
      u.sem.result = some (req.val, true, semCount u i) ∧ u = { s with sem := u.sem, regs := u.regs }) ∧
    Runs (.semSub req idx n []) s (fun u => only u ((semCount s i).toNat - n.toNat) ∧
      u.sem.result = some (req.val, true, semCount u i) ∧ u = { s with sem := u.sem, regs := u.regs }) ∧
    (req.val = 12 ∨ req.val = 10 ∧ 256 ≤ i → Runs (.semSet req idx n []) s fun u => only u n.toNat ∧
      rd u R.semHandCnt = incSat (rd s R.semHandCnt) ∧ u.sem.result = some (req.val, true, n)) ∧
    (req.val ≠ 12 → req.val ≠ 10 → Runs (.semSet req idx n []) s fun u => u = s)

/-- R79: ADD saturates at 0xFFFF_FFFF with OVF and its counter, SUB at 0 with UNF and its counter; the result is the saturated count
and the operation succeeds; WAITSUB and SET set neither flag; each flag drives its source; SEM_ERR_IDX takes the first one. -/
def Obligations.SaturationIsFlagged : Prop :=
  ∀ (s : State) (req : Fin 14) (idx : BitVec 12) (n : Word), s.up = true →
    let i := idx.toNat
    let flagged := fun (u : State) (b : Word) => rd u R.semStatus = rd s R.semStatus ||| b ∧
      rd u R.semErrIdx = if rd s R.semStatus = 0 then BitVec.ofNat 32 i else rd s R.semErrIdx
    (0xFFFFFFFF < (semCount s i).toNat + n.toNat → Runs (.semAdd req idx n []) s fun u =>
      semCount u i = 0xFFFFFFFF ∧ u.sem.result = some (req.val, true, 0xFFFFFFFF) ∧ flagged u 1 ∧
        rd u R.semOvfCnt = incSat (rd s R.semOvfCnt) ∧ rd u R.semUnfCnt = rd s R.semUnfCnt ∧ evcLevel u 29 = true) ∧
    ((semCount s i).toNat + n.toNat ≤ 0xFFFFFFFF → Runs (.semAdd req idx n []) s (SameRegsBut [] s)) ∧
    ((semCount s i).toNat < n.toNat → Runs (.semSub req idx n []) s fun u =>
      semCount u i = 0 ∧ u.sem.result = some (req.val, true, 0) ∧ flagged u 2 ∧
        rd u R.semUnfCnt = incSat (rd s R.semUnfCnt) ∧ rd u R.semOvfCnt = rd s R.semOvfCnt ∧ evcLevel u 30 = true) ∧
    (n.toNat ≤ (semCount s i).toNat → Runs (.semSub req idx n []) s (SameRegsBut [] s)) ∧
    Runs (.semWaitsub req idx n []) s (fun u => SameRegsBut [] s u ∧ (semCount u i).toNat ≤ (semCount s i).toNat) ∧
    Runs (.semSet req idx n []) s (fun u => bit (rd u R.semStatus) 0 = bit (rd s R.semStatus) 0 ∧
      bit (rd u R.semStatus) 1 = bit (rd s R.semStatus) 1)

/-- R78, R81 to R83: a sample succeeds when the count is at least n; a WAIT changes no count, a successful WAITSUB takes n off it, a
failed one takes nothing. A poll samples first: success ends the wait whatever its expiry; only a failed sample is tested against
it, and one that expires leaves the count. That the DT seen lags by up to 6 ns is free. -/
def ruleWaitsSampleBeforeTheirExpiry : Prop :=
  ∀ (s : State), s.up = true →
    (∀ (req : Fin 14) (idx : BitVec 12) (n : Word), let i := idx.toNat
      let ok := decide (n.toNat ≤ (semCount s i).toNat)
      Runs (.semWait req idx n []) s (fun u => u.sem.result = some (req.val, ok, semCount s i) ∧ u.sem.count = s.sem.count ∧
        u = { s with sem := u.sem }) ∧
      (ok = true → Runs (.semWaitsub req idx n []) s fun u => semCount u i = semCount s i - n ∧
        (∀ j, j ≠ i → semCount u j = semCount s j) ∧ u.sem.result = some (req.val, true, semCount s i - n) ∧
        u = { s with sem := u.sem }) ∧
      (ok = false → Runs (.semWaitsub req idx n []) s fun u => u.sem.result = some (req.val, false, semCount s i) ∧
        u.sem.count = s.sem.count ∧ u = { s with sem := u.sem })) ∧
    (∀ (w : Waiter) (b : Nat), s.sem.waiters = [w] → w.owner = .descriptor b →
      (w.n.toNat ≤ (semCount s w.idx).toNat → Runs (.semPoll w.id []) s fun u => u.sem.waiters = [] ∧
        semCount u w.idx = (if w.sub then semCount s w.idx - w.n else semCount s w.idx)) ∧
      (∀ e, (semCount s w.idx).toNat < w.n.toNat → w.expiry = some e → e + 6 ≤ s.dt.now.toNat →
        Runs (.semPoll w.id []) s fun u => u.sem.waiters = [] ∧ u.sem.count = s.sem.count) ∧
      (∀ e, (semCount s w.idx).toNat < w.n.toNat → w.expiry = some e → s.dt.now.toNat < e →
        Runs (.semPoll w.id []) s fun u => u.sem.waiters = [w] ∧ u.sem.count = s.sem.count))

/-- The command that presents an operation to its bank, with those of the same cycle. -/
def semCommand (q : SemReq) (rivals : List SemReq) : Instr :=
  match q.kind with
  | .add => .semAdd q.req q.idx q.n rivals
  | .sub => .semSub q.req q.idx q.n rivals
  | .wait => .semWait q.req q.idx q.n rivals
  | .waitsub => .semWaitsub q.req q.idx q.n rivals
  | .set => .semSet q.req q.idx q.n rivals

/-- What the semaphore memory and its registers hold is the same. -/
def sameSems (a b : State) : Prop := a.sem.count = b.sem.count ∧ a.sem.rr = b.sem.rr ∧ a.regs = b.regs ∧ a.bbxQueue = b.bbxQueue

/-- R80, R83: of two operations of one cycle at one bank, that of the requester who stands nearer past the bank's pointer is served
first, and the second sees what it left: counts, flags, pointer and records end as after the two in that order. An operation at
another bank does not contend. -/
def ruleBanksServeInTurn : Prop :=
  ∀ (s : State) (q r : SemReq), s.up = true → q.req ≠ r.req →
    let i := q.idx.toNat
    let turn := fun (x : SemReq) => (x.req.val + 14 - tabGet 0 s.sem.rr (i % 4)) % 14
    let after := fun (x y : SemReq) => ∃ a b, exec (semCommand x []) s = .next a ∧ exec (semCommand y []) a = .next b ∧
      Runs (semCommand q [r]) s (sameSems b)
    (r.idx.toNat % 4 = i % 4 → turn r < turn q → after r q) ∧
    (r.idx.toNat % 4 = i % 4 → turn q < turn r → after q r) ∧
    (r.idx.toNat % 4 ≠ i % 4 → ∃ b, exec (semCommand q []) s = .next b ∧ Runs (semCommand q [r]) s (sameSems b))

/-- R89 to R91: a host operation applies SEM_HOST_N, as requester 10; one that names SEM0 to SEM255 is ignored with FW_SEM; a write to
the window is ignored with WINDOW_WR and the index it would have changed; a hand-set from either path is counted and recorded. -/
def ruleHostSemaphoreOperations : Prop :=
  ∀ (s : State) (idx : BitVec 12), s.up = true →
    let i := idx.toNat
    let n := rd s R.semHostN
    let turned := fun (u : State) (b : Word) => rd u R.semStatus = rd s R.semStatus ||| b ∧ u = { s with regs := u.regs }
    (256 ≤ i →
      Runs (.semHostAdd idx) s (fun u => (semCount u i).toNat = min ((semCount s i).toNat + n.toNat) 0xFFFFFFFF ∧
        u.sem.result = some (10, true, semCount u i)) ∧
      Runs (.semHostSub idx) s (fun u => (semCount u i).toNat = (semCount s i).toNat - n.toNat ∧
        u.sem.result = some (10, true, semCount u i)) ∧
      Runs (.semHostSet idx) s (fun u => semCount u i = n ∧ rd u R.semHandCnt = incSat (rd s R.semHandCnt) ∧
        (s.bbxQueue.length < 64 → ∃ r, u.bbxQueue = s.bbxQueue ++ [r] ∧ r.code = 0x0801 ∧ r.post = true ∧
          r.args = padTo 36 (leBytes 2 i ++ [0, 0] ++ leBytes 4 (semCount s i).toNat ++ leBytes 4 n.toNat)))) ∧
    (i < 256 → Runs (.semHostAdd idx) s (turned · 4) ∧ Runs (.semHostSub idx) s (turned · 4) ∧
      Runs (.semHostSet idx) s (turned · 4)) ∧
    (∀ v, Runs (.semWindowWrite idx v) s fun u => turned u 8 ∧
      (rd s R.semStatus = 0 → rd u R.semErrIdx = BitVec.ofNat 32 i))

/-- R78, R80, R89 to R91: units' and the host's operations on semaphores, and the order in which a bank serves them. -/
def Obligations.SemaphoresFollowTheTable : Prop :=
  ruleSemaphoreCountsFollowTheTable ∧ ruleHostSemaphoreOperations ∧ ruleBanksServeInTurn

/-- R87, R93: a slot that starts mirroring owes a write of the present count; a due write puts the count at SEM_SHADOW_BASE + 4 k of
host memory, is flagged instead at or above 2^47, and is not made while the slot or the block is off. The invariant rules out a host address
among the stores a fence holds. -/
def ruleShadowsMirrorTheCount : Prop :=
  ∀ (s : State) (k : Fin 64), s.up = true →
    let h := (rd64 s R.semShadowBaseLo R.semShadowBaseHi).toNat + 4 * k.val
    let i := rf s (R.semShadowCfg k.val) 11 0
    let off := k.val ∉ s.sem.shadowDue
    (∀ v : Word, Runs (.semShadowCfgWrite (.slot k) v) s fun u => rd u (R.semShadowCfg k.val) = v &&& 0x80000FFF ∧
      (rb s R.semShadowCtrl 0 = true → bit v 31 = true → rb s (R.semShadowCfg k.val) 31 = false → k.val ∈ u.sem.shadowDue) ∧
      (rb s R.semShadowCtrl 0 = false → u.sem = s.sem)) ∧
    (∀ v : Word, Runs (.semShadowCfgWrite .ctrl v) s fun u => rd u R.semShadowCtrl = v &&& 1 ∧
      (bit v 0 = true → rb s R.semShadowCtrl 0 = false → rb s (R.semShadowCfg k.val) 31 = true → k.val ∈ u.sem.shadowDue)) ∧
    (off → Runs (.semShadowWrite k) s fun u => u = s) ∧
    (¬ off → rb s R.semShadowCtrl 0 = true → rb s (R.semShadowCfg k.val) 31 = true → h + 4 ≤ 0x800000000000 →
      rb s R.hifStatus 0 = true → s.gated = false → Inv s → Runs (.semShadowWrite k) s fun u =>
        ldN u (hostBase + h) 4 = (semCount s i).toNat ∧ k.val ∉ u.sem.shadowDue ∧
        (∀ a, a < hostBase + h ∨ hostBase + h + 4 ≤ a → ldByte u a = ldByte s a)) ∧
    (¬ off → rb s R.semShadowCtrl 0 = true → rb s (R.semShadowCfg k.val) 31 = true → 0x800000000000 ≤ h →
      Runs (.semShadowWrite k) s fun u => rd u R.semStatus = rd s R.semStatus ||| 0x20 ∧ SameBytes s u) ∧
    (¬ off → rb s R.semShadowCtrl 0 = false → Runs (.semShadowWrite k) s fun u => SameBytes s u ∧ k.val ∉ u.sem.shadowDue)

/-- R81 to R83, R87, R93: waits sample the count, shadow slots mirror it. -/
def Obligations.WaitsAndShadowsFollowTheCount : Prop :=
  ruleWaitsSampleBeforeTheirExpiry ∧ ruleShadowsMirrorTheCount

/-! ### Event controller -/

/-- R97, R99: source `m` may be claimed by target `t` now. -/
def claimable (s : State) (t m : Nat) : Prop :=
  1 ≤ m ∧ m < 512 ∧ evcPending s m = true ∧ inSet (tabGet 0 s.evc.en t) m = true ∧ rb s (R.evcSrcCfg (m - 1)) (8 + t) = true ∧
    evcPrio s m ≠ 0 ∧ ∀ g, runningGroup s t = some g → g < evcGroup s t m

/-- R98 to R100: a claim takes the most urgent source that may be claimed, the lower ID among equals; it becomes active at the target,
its software latch clears, and the response carries its PRIO and ID. With none to claim the response is 0. No register changes. -/
def ruleClaimTakesTheMostUrgentSource : Prop :=
  ∀ (s : State) (t : Fin 3), s.up = true →
    (∀ m, claimable s t.val m → Runs (.evcClaim t false) s fun u => ∃ n, claimable s t.val n ∧
      (evcPrio s m < evcPrio s n ∨ evcPrio s m = evcPrio s n ∧ n ≤ m) ∧
      tabGet 0 u.evc.response t.val = BitVec.ofNat 32 (evcPrio s n * 65536 + n) ∧
      tabGet 0 u.evc.active t.val = addSet (tabGet 0 s.evc.active t.val) n ∧ u.evc.latch = delSet s.evc.latch n ∧
      (∀ k, k ≠ t.val → tabGet 0 u.evc.active k = tabGet 0 s.evc.active k) ∧ u = { s with evc := u.evc }) ∧
    ((∀ m, ¬ claimable s t.val m) → Runs (.evcClaim t false) s fun u => tabGet 0 u.evc.response t.val = 0 ∧
      u.evc.active = s.evc.active ∧ u.evc.latch = s.evc.latch ∧ u = { s with evc := u.evc })

/-- R100: the claims of one cycle are evaluated in the order CPA, CPB, AOM, whichever came first: the responses, the active sources
and the latches end the same. Where two targets find the same source the later in that order gets 0x3FF. -/
def ruleClaimsOfOneCycleGoInOrder : Prop :=
  ∀ (s : State) (t1 t2 : Fin 3), s.up = true → t1 < t2 →
    ∃ a b x y, exec (.evcClaim t2 false) s = .next a ∧ exec (.evcClaim t1 true) a = .next x ∧
      exec (.evcClaim t1 false) s = .next b ∧ exec (.evcClaim t2 true) b = .next y ∧
      (∀ k, tabGet 0 x.evc.response k = tabGet 0 y.evc.response k) ∧ (∀ k, tabGet 0 x.evc.active k = tabGet 0 y.evc.active k) ∧
      x.evc.latch = y.evc.latch ∧ tabGet 0 y.evc.response t1.val = tabGet 0 b.evc.response t1.val ∧
      (tabGet 0 a.evc.response t2.val = tabGet 0 b.evc.response t1.val → tabGet 0 b.evc.response t1.val ≠ 0 →
        tabGet 0 y.evc.response t2.val = 0x3FF)

/-- R101, R104: a completion of a source active at the target ends it there; its own level or its latch then decides whether it is
pending again. 0 and 0x3FF are ignored; any other ID sets BAD_COMPLETE. -/
def ruleCompletionEndsTheSource : Prop :=
  ∀ (s : State) (t : Fin 3) (id : BitVec 10), s.up = true →
    let n := id.toNat
    (n = 0 ∨ n = 0x3FF → Runs (.evcComplete t id) s fun u => u = s) ∧
    (n ≠ 0 → n < 512 → inSet (tabGet 0 s.evc.active t.val) n = true → Runs (.evcComplete t id) s fun u =>
      inSet (tabGet 0 u.evc.active t.val) n = false ∧ inSet u.evc.held n = false ∧ u.evc.latch = s.evc.latch ∧
        (∀ m, m ≠ n → m < 512 → inSet (tabGet 0 u.evc.active t.val) m = inSet (tabGet 0 s.evc.active t.val) m) ∧
        (∀ k, k ≠ t.val → tabGet 0 u.evc.active k = tabGet 0 s.evc.active k) ∧ u = { s with evc := u.evc }) ∧
    (n ≠ 0 → n ≠ 0x3FF → n < 512 → inSet (tabGet 0 s.evc.active t.val) n = false → Runs (.evcComplete t id) s fun u =>
      rd u R.evcErr = rd s R.evcErr ||| 1 ∧ u.evc = s.evc ∧ SameRegsBut [R.evcErr, R.evcErrInfo] s u) ∧
    (512 ≤ n → n ≠ 0x3FF → Runs (.evcComplete t id) s fun u => rd u R.evcErr = rd s R.evcErr ||| 1 ∧ u.evc = s.evc)

/-- R97 to R101, R104: claim and completion of event sources. -/
def Obligations.SourcesAreClaimedAndCompleted : Prop :=
  ruleClaimTakesTheMostUrgentSource ∧ ruleCompletionEndsTheSource ∧ ruleClaimsOfOneCycleGoInOrder

/-- R96, R105: firmware sets and clears the software latches of the sources whose bits it writes as 1, never that of source 0; a host
write changes no latch and sets HOST_WR. -/
def ruleSoftwareLatches : Prop :=
  ∀ (s : State) (who : Agent) (k : Fin 16) (m : Word), s.up = true →
    (who ≠ .host → ∀ b, b < 32 → 0 < 32 * k.val + b →
      Runs (.evcPendSet who k m) s (fun u => inSet u.evc.latch (32 * k.val + b) = (inSet s.evc.latch (32 * k.val + b) || bit m b) ∧
        u = { s with evc := { s.evc with latch := u.evc.latch } }) ∧
      Runs (.evcPendClr who k m) s fun u => inSet u.evc.latch (32 * k.val + b) = (inSet s.evc.latch (32 * k.val + b) && !bit m b) ∧
        u = { s with evc := { s.evc with latch := u.evc.latch } }) ∧
    (who ≠ .host → ∀ n, n / 32 ≠ k.val →
      Runs (.evcPendSet who k m) s (fun u => inSet u.evc.latch n = inSet s.evc.latch n) ∧
      Runs (.evcPendClr who k m) s fun u => inSet u.evc.latch n = inSet s.evc.latch n) ∧
    (who = .host → Runs (.evcPendSet who k m) s (fun u => rd u R.evcErr = rd s R.evcErr ||| 2 ∧ u.evc = s.evc) ∧
      Runs (.evcPendClr who k m) s fun u => rd u R.evcErr = rd s R.evcErr ||| 2 ∧ u.evc = s.evc)

/-- R103, R104: an armed wake latch catches an edge of a source in its mask, in any domain state; taking the latches makes each caught
source's level high until its completion, empties them and disarms them; an edge that no armed latch awaits takes the level path,
where the input is one whose edge requests its source: PPS_IN while enabled (R45), a TRIG pin while an input (R71), PCIe wake and
Acser chip select, not the levels of 448 and 449 (R521). -/
def ruleWakeLatches : Prop :=
  ∀ (s : State) (src : BitVec 9),
    (wakeCapable src.toNat = true → s.evc.wakeArmed = true → inSet s.evc.wakeMask src.toNat = true →
      Runs (.wakeEdge src) s fun u => inSet u.evc.wake src.toNat = true ∧
        (∀ n, n < 512 → n ≠ src.toNat → inSet u.evc.wake n = inSet s.evc.wake n) ∧ u = { s with evc := { s.evc with wake := u.evc.wake } }) ∧
    (wakeCapable src.toNat = true → s.evc.wakeArmed = true → inSet s.evc.wakeMask src.toNat = false →
      Runs (.wakeEdge src) s fun u => u = s) ∧
    (wakeCapable src.toNat = true → s.evc.wakeArmed = false → s.up = false ∨ edgeSource s src.toNat = false →
      Runs (.wakeEdge src) s fun u => u = s) ∧
    (edgeSource s 12 = rb s R.dtPpsCfg 0 ∧ (∀ p : Fin 16, edgeSource s (13 + p.val) = rb s (R.sgTrigCfg p.val) 0) ∧
      edgeSource s 448 = false ∧ edgeSource s 449 = false ∧ edgeSource s 384 = true ∧ edgeSource s 464 = true) ∧
    (wakeCapable src.toNat = true → s.evc.wakeArmed = false → s.up = true → edgeSource s src.toNat = true →
      activeAny s src.toNat = false →
      Runs (.wakeEdge src) s fun u => evcLevel u src.toNat = true ∧ u = { s with evc := { s.evc with held := u.evc.held } }) ∧
    (wakeCapable src.toNat = false → Runs (.wakeEdge src) s fun u => u = s) ∧
    (s.up = true → Runs .wakeLatchTake s fun u => (∀ n, inSet s.evc.wake n = true → evcLevel u n = true) ∧
      u.evc.wake = 0 ∧ u.evc.wakeArmed = false ∧ u = { s with evc := u.evc })

/-- R96, R103 to R105: software latches and wake latches. -/
def Obligations.LatchesAreSetAndTaken : Prop :=
  ruleSoftwareLatches ∧ ruleWakeLatches

/-! ### Sensor ingress -/

/-- R107, R109, R117 to R119: at a frame start the one slot that takes the packet opens a frame at DT, with the next buffer where its
free semaphore gives one, dropped and counted where it does not; at a frame end the frame closes and, with a buffer, its latch for
projection is loaded and the end semaphore signalled, once no store to the buffer is held by a fence. A packet that no slot takes, or whose header cannot be corrected, is counted
only. (The slots are distinct; of a port and channel one is enabled.) -/
def ruleCameraFramesOpenAndClose : Prop :=
  ∀ (s : State) (p vc : Fin 4), s.up = true → rb s R.ingCtrl 0 = true → rb s (R.ingCsiCfg p.val) 31 = true → blockOn s 8 = true →
    (∀ n : Fin 16, csiSlots s p.val vc.val none = [n.val] →
      let x := fsSlot s n.val
      let free := rf s (R.ingFsSem n.val) 31 16
      let done := rf s (R.ingFsSem n.val) 15 0
      (x.frame = none → free < 4096 → semCount s free ≠ 0 → Runs (.csiFrameStart p vc 0) s fun u =>
        ∃ f, (fsSlot u n.val).frame = some f ∧ f.start = s.dt.now ∧ f.buf = some x.nextBuf ∧ f.rows = 0 ∧ f.count = x.count ∧
          (fsSlot u n.val).nextBuf = (x.nextBuf + 1) % max 1 (fsNbuf s n.val) ∧ semCount u free = semCount s free - 1 ∧
          rd u (R.ingFsFrames n.val) = rd s (R.ingFsFrames n.val) + 1) ∧
      (x.frame = none → free < 4096 → semCount s free = 0 → Runs (.csiFrameStart p vc 0) s fun u =>
        ∃ f, (fsSlot u n.val).frame = some f ∧ f.buf = none ∧ rd u (R.ingFsDrops n.val) = incSat (rd s (R.ingFsDrops n.val)) ∧
          bit (rd u (R.ingFsEvent n.val)) 4 = true ∧ SameBytes s u ∧ u.sem.count = s.sem.count) ∧
      (∀ f k, x.frame = some f → f.buf = some k → k < 16 → pairOf s n.val = none → done < 4096 →
        Runs (.csiFrameEnd p vc 0) s fun u => (fsSlot u n.val).frame = none ∧
          rd u (R.pjeSlotLatch n.val) = BitVec.ofNat 32 (0x80000000 + k) ∧
          let held := heldIn u [(fsBuf s n.val k, fsBytes s n.val)]
          (held = [] → (semCount u done).toNat = min ((semCount s done).toNat + 1) 0xFFFFFFFF) ∧
          (held ≠ [] → semCount u done = semCount s done)) ∧
      (∀ f, x.frame = some f → f.buf = none → Runs (.csiFrameEnd p vc 0) s fun u => (fsSlot u n.val).frame = none ∧
        SameBytes s u ∧ u.sem = s.sem)) ∧
    (csiSlots s p.val vc.val none = [] → Runs (.csiFrameStart p vc 0) s fun u =>
      rd u (R.ingCsiUnmatched p.val) = incSat (rd s (R.ingCsiUnmatched p.val)) ∧ u.ing = s.ing ∧ SameBytes s u) ∧
    Runs (.csiFrameStart p vc 2) s (fun u => rd u (R.ingCsiEccUncorr p.val) = incSat (rd s (R.ingCsiEccUncorr p.val)) ∧
      u.ing = s.ing ∧ SameRegsBut [R.ingCsiEccUncorr p.val] s u)

/-- R107 to R109, R115, R120: a line of the right width is stored, padded to the pitch, at its row of the frame's buffer and counted;
a wrong CRC marks the frame; a line start stamps its line where LSTAMP is set, a line end carries nothing; the first embedded packet of a frame gives the
sensor time its location names. A dropped frame's lines are counted and stored nowhere. -/
def ruleCameraLinesReachTheBuffer : Prop :=
  ∀ (s : State) (p vc : Fin 4) (n : Fin 16) (f : OpenFrame) (k : Nat), s.up = true → rb s R.ingCtrl 0 = true →
    rb s (R.ingCsiCfg p.val) 31 = true → blockOn s 8 = true → (fsSlot s n.val).frame = some f → f.rows < fsHeight s n.val → Inv s →
    let row := lineAddr s n.val (fsBuf s n.val k) f.rows
    (∀ (dt : BitVec 6) (ok : Bool) (bs : List Byte), csiSlots s p.val vc.val (some dt.toNat) = [n.val] →
      bs.length = fsWidth s n.val * bytesPerPixel dt.toNat →
      (f.buf = some k → plainRam s row (fsPitch s n.val) → dt = 0x2A → Runs (.csiLine p vc dt 0 ok bs) s fun u =>
        (fsSlot u n.val).frame = some { f with rows := f.rows + 1, err := f.err || !ok } ∧
        ldBytes u row (fsPitch s n.val) = padTo (fsPitch s n.val) bs ∧ OnlyBytes s u row (fsPitch s n.val)) ∧
      (f.buf = none → Runs (.csiLine p vc dt 0 ok bs) s fun u =>
        (fsSlot u n.val).frame = some { f with rows := f.rows + 1, err := f.err || !ok } ∧ SameBytes s u)) ∧
    (csiSlots s p.val vc.val none = [n.val] →
      let stamp := stampTable s n.val (fsBuf s n.val k) + 8 * f.rows
      (f.buf = some k → rb s (R.ingFsCfg n.val) 16 = true → plainRam s stamp 8 → Runs (.csiLineStart p vc 0 false) s fun u =>
        ldN u stamp 8 = s.dt.now.toNat ∧ OnlyBytes s u stamp 8 ∧ u.ing = s.ing) ∧
      (rb s (R.ingFsCfg n.val) 16 = false → Runs (.csiLineStart p vc 0 false) s fun u => u = s) ∧
      Runs (.csiLineStart p vc 0 true) s (fun u => u = s) ∧
      (∀ (ok : Bool) (bs : List Byte), let loc := rd s (R.ingFsTsloc n.val)
        fsTsrc s n.val = 1 → f.embSeen = false → fld loc 31 16 + fld loc 11 8 ≤ bs.length → bit loc 0 = false →
        Runs (.csiEmbeddedData p vc 0 ok bs) s fun u => ∃ g, (fsSlot u n.val).frame = some g ∧ g.embSeen = true ∧
          g.err = (f.err || !ok) ∧ SameBytes s u ∧ g.sensor = some (unwrap (8 * fld loc 11 8) (fsSlot s n.val).unwrapped
            (leVal (slice bs (fld loc 31 16) (fld loc 11 8))))))

/-- R124, R125: a frame whose partner has not come within the pair's wait is decided MONO: it leaves the waiting frames, the skip is
counted, the pair's latch becomes valid and unpaired, and the pair's semaphore is signalled, once no store to the frame's buffer is
held by a fence. -/
def ruleUnpairedFrameIsDecidedMono : Prop :=
  ∀ (s : State) (p : Fin 4) (f : PairFrame), s.up = true → tabGet [] s.ing.waiting p.val = [f] →
    f.ends.toNat + (rd s (R.ingPairWait p.val)).toNat < s.dt.now.toNat → rf s (R.ingPairSem p.val) 15 0 < 4096 →
    let held := fun (u : State) => heldIn u [(fsBuf s f.slot f.buf, fsBytes s f.slot)]
    let m := rf s (R.ingPairSem p.val) 15 0
    Runs (.pairWaitExpire p f.right) s (fun u => tabGet [] u.ing.waiting p.val = [] ∧
      rd u (R.ingPairSkip p.val) = incSat (rd s (R.ingPairSkip p.val)) ∧ bit (rd u (R.sdePairLatch p.val)) 31 = true ∧
      bit (rd u (R.sdePairLatch p.val)) 30 = false ∧
      (held u = [] → (semCount u m).toNat = min ((semCount s m).toNat + 1) 0xFFFFFFFF) ∧
      (held u ≠ [] → semCount u m = semCount s m)) ∧
    Runs (.pairWaitExpire p (!f.right)) s fun u => u = s

/-- R107 to R109, R115 to R120, R124, R125: camera frames from their start to their decision. -/
def Obligations.CameraFramesReachTheirBuffers : Prop :=
  ruleCameraFramesOpenAndClose ∧ ruleCameraLinesReachTheBuffer ∧ ruleUnpairedFrameIsDecidedMono

/-- R110 to R112: a PTP frame passes by, a frame that is no UDP datagram for a template is counted as discarded with source 56 or 57, a
datagram for a template counts in it and, for a template of one point, adds that point and the packet to the open sweep. -/
def ruleLidarPackets : Prop :=
  ∀ (s : State) (e : Fin 2) (fr : List Byte), s.up = true →
    (isPtp fr = true ∨ rb s R.ingCtrl 0 = false ∨ blockOn s 9 = false → Runs (.ethFrameRx e fr) s fun u => u = s) ∧
    (isPtp fr = false → rb s R.ingCtrl 0 = true → blockOn s 9 = true → parseUdp fr = none → Runs (.ethFrameRx e fr) s fun u =>
      rd u (R.ingEthDiscard e.val) = incSat (rd s (R.ingEthDiscard e.val)) ∧ SameRegsBut [R.ingEthDiscard e.val] s u ∧
        (rd s (R.ingEthDiscard e.val) ≠ 0xFFFFFFFF → (s.evc.wakeArmed && inSet s.evc.wakeMask (56 + e.val)) = false →
          activeAny s (56 + e.val) = false → evcLevel u (56 + e.val) = true) ∧ u.ing = s.ing ∧ SameBytes s u) ∧
    (∀ (d : Udp) (t n : Nat) (f : OpenFrame) (pt : List Int × Nat), let pl := d.payload
      isPtp fr = false → rb s R.ingCtrl 0 = true → blockOn s 9 = true → parseUdp fr = some d → (List.range 8).find? (fun t => templateMatch s e.val t d) = some t →
      n = rf s (R.ingEthTCfg e.val t) 27 24 → fsEn s n = true → fsType s n = 1 → fsPort s n = e.val →
      (fsSlot s n).frame = some f → f.points < (rd s (R.ingFsSize n)).toNat → rf s (R.ingEthTNpts e.val t) 10 0 = 1 →
      rf s (R.ingEthTLayout e.val t) 31 16 + rf s (R.ingEthTLayout e.val t) 15 0 + 256 ≤ pl.length →
      packetPoint s e.val t pl 0 = some pt → rf s (R.ingEthTSweep e.val t) 31 30 = 0 →
      f.packets + 1 < rf s (R.ingEthTSweep e.val t) 29 16 →
      packetTime s n (packetSensor s e.val t n pl) (rxStamp s) f - (f.judged.map Judged.time).getD 0 < 0xFFFFFF0 →
      Runs (.ethFrameRx e fr) s fun u => rd u (R.ingEthTPkts e.val t) = rd s (R.ingEthTPkts e.val t) + 1 ∧
        rd u (R.ingEthDiscard e.val) = rd s (R.ingEthDiscard e.val) ∧ ∃ g, (fsSlot u n).frame = some g ∧
          g.points = f.points + 1 ∧ g.packets = f.packets + 1 ∧ g.last = rxStamp s)

/-- R113, R114, R122: the data-ready edge of the configured polarity starts a transaction with its stamp and sends the command bytes, one that comes during a
transaction is counted and waits as a gap; the transaction's end counts the sample and clears the transaction. A slot that has
heard nothing for its loss limit, when the cycle that passed the limit is over, shows LOST with its event; the next edge takes it back. -/
def ruleInertialSamplesAndStreamLoss : Prop :=
  ∀ (s : State) (i : Fin 4), s.up = true →
    let x := imuSlot s i.val
    let on := rb s R.ingCtrl 0 = true ∧ rb s (R.ingIsCfg i.val) 31 = true
    let limit := rf s (R.ingIsLoss i.val) 7 0 * (rd s (R.ingIsPeriod i.val)).toNat
    (∀ h, on → h ≠ rb s (R.ingIsCfg i.val) 28 → x.running = none → Runs (.imuDataReady i h) s fun u =>
      (imuSlot u i.val).running = some s.dt.now ∧ (imuSlot u i.val).sent = imuCmd s i.val ∧ (imuSlot u i.val).stamp = s.dt.now ∧ rb u (R.ingIsStatus i.val) 1 = false ∧
        rb u (R.ingIsStatus i.val) 0 = true ∧ SameBytes s u) ∧
    (∀ h t, on → h ≠ rb s (R.ingIsCfg i.val) 28 → x.running = some t → Runs (.imuDataReady i h) s fun u =>
      (imuSlot u i.val).running = some t ∧ (imuSlot u i.val).gaps = x.gaps ++ [s.dt.now] ∧
        rd u (R.ingIsOvr i.val) = incSat (rd s (R.ingIsOvr i.val)) ∧ bit (rd u (R.ingIsEvent i.val)) 2 = true) ∧
    (∀ h, h = rb s (R.ingIsCfg i.val) 28 → Runs (.imuDataReady i h) s fun u => u = s) ∧
    (∀ t d, x.running = some t → Runs (.imuTransactionEnd i d) s fun u => (imuSlot u i.val).running = none ∧
      (imuSlot u i.val).gaps = [] ∧ rd u (R.ingIsSamples i.val) = rd s (R.ingIsSamples i.val) + 1 ∧
      (imuSlot u i.val).stamp = x.stamp) ∧
    (rb s (R.ingIsCfg i.val) 31 = true → rb s (R.ingIsStatus i.val) 1 = false → x.lossFrom.toNat + limit < s.dt.prev.toNat →
      Runs (.streamLost (.inertial i)) s fun u => rb u (R.ingIsStatus i.val) 1 = true ∧ bit (rd u (R.ingIsEvent i.val)) 0 = true) ∧
    (s.dt.prev.toNat ≤ x.lossFrom.toNat + limit → Runs (.streamLost (.inertial i)) s fun u => u = s) ∧
    (∀ n : Fin 16, fsEn s n.val = true → rb s (R.ingFsStatus n.val) 3 = false →
      (fsSlot s n.val).lossFrom.toNat + rf s (R.ingFsMap n.val) 15 8 * fsPeriod s n.val < s.dt.prev.toNat →
      Runs (.streamLost (.frame n)) s fun u => rb u (R.ingFsStatus n.val) 3 = true ∧ bit (rd u (R.ingFsEvent n.val)) 0 = true ∧
        SameRegsBut [R.ingFsStatus n.val, R.ingFsEvent n.val] s u ∧ u = { s with regs := u.regs })

/-- R110 to R114, R122: lidar packets and inertial samples. -/
def Obligations.LidarAndInertialSamplesArrive : Prop :=
  ruleLidarPackets ∧ ruleInertialSamplesAndStreamLoss

/-- R124, R126, R127, R577, R578: a register of an enabled owner (pair, frame slot, template, inertial slot) other than its CFG ignores a
write and sets ING_ERR.BUSY, one of a disabled owner stores its bits; an enable is taken only where its checks pass, a pair's
semaphore among them, an error otherwise leaving EN 0; clearing ING_CTRL.EN closes every open frame. -/
def Obligations.IngressConfiguration : Prop :=
  ∀ (s : State) (a : BitVec 24) (r : RegRow) (v : Word), s.up = true → regRow? a.toNat = some r → r.rw ≠ 0 →
    let b := a.toNat
    let w := v &&& r.rw
    let p := (b - 0x60200) / 0x10
    let n := (b - 0x61000) / 0x80
    let e := (b - 0x62000) / 0x400
    let m := (b - 0x62000) % 0x400 / 0x80
    let i := (b - 0x63000) / 0x100
    let c := Instr.ingConfigWrite a v
    let stored := fun u => u = wr s b w
    let failed := fun (u : State) (bits : Word) => rd u R.ingErr = rd s R.ingErr ||| bits ∧ u.ing = s.ing ∧
      SameRegsBut [b, R.ingErr, R.ingErrInfo] s u
    let busy := fun (u : State) => failed u 2 ∧ (b ≠ R.ingErrInfo → rd u b = rd s b)
    (0x60100 ≤ b → b < 0x60200 → Runs c s stored) ∧
    (∀ o ∈ [(0x60200, 0x61000, R.ingPairCfg p), (0x61000, 0x62000, R.ingFsCfg n), (0x62000, 0x63000, R.ingEthTCfg e m),
        (0x63000, 0x70000, R.ingIsCfg i)], o.1 ≤ b → b < o.2.1 → b ≠ o.2.2 →
      (rb s o.2.2 31 = true → Runs c s busy) ∧
      (rb s o.2.2 31 = false → Runs c s stored)) ∧
    (let t := wr s b w
      let sem := semFieldOk (rf s (R.ingPairSem p) 15 0)
      ∀ o ∈ [(0x60200, 0x61000, R.ingPairCfg p, sem && pairEnableOk t p, if sem then (4 : Word) else 1), (0x61000, 0x62000, R.ingFsCfg n, fsEnableOk t n, 1),
        (0x62000, 0x63000, R.ingEthTCfg e m, tmplEnableOk t e m, 1), (0x63000, 0x70000, R.ingIsCfg i, isEnableOk t i, 1)],
      o.1 ≤ b → b < o.2.1 → b = o.2.2.1 →
      (rb s b 31 = true → bit w 31 = true → Runs c s busy) ∧ (rb s b 31 = false → bit w 31 = false → Runs c s stored) ∧
      (rb s b 31 = false → bit w 31 = true → o.2.2.2.1 = true → Runs c s fun u => rb u b 31 = true ∧ rd u R.ingErr = rd s R.ingErr) ∧
      (rb s b 31 = false → bit w 31 = true → o.2.2.2.1 = false → Runs c s fun u => rb u b 31 = false ∧ failed u o.2.2.2.2) ∧
      (b = R.ingIsCfg i → 0x63000 ≤ b → rb s b 31 = false → bit w 31 = true → o.2.2.2.1 = true → Runs c s fun u =>
        (imuSlot u i).running = none ∧ (imuSlot u i).lossFrom = s.dt.now)) ∧
    (∀ w : Word, bit w 0 = true → Runs (.ingCtrlWrite w) s fun u => u = wr s R.ingCtrl 1) ∧
    (∀ w : Word, bit w 0 = false → rb s R.ingCtrl 0 = true → Runs (.ingCtrlWrite w) s fun u =>
      (∀ m : Fin 16, (fsSlot u m.val).frame = none) ∧ rb u R.ingCtrl 0 = false)

/-! ### Inertial filter chain -/

/-- R136, R137, R139: a sample that ends its transaction enters its slot; with every R-th input, and only then, one output is due, at the
sample's stamp less GDELAY, with the slot's next sequence number and the channels then enabled. The oldest due record goes, with its CRC, to its place in the ring, OUT_SEM is
signalled behind it and the samples are delivered to the track filter. -/
def ruleFilterChainOutputs : Prop :=
  ∀ (s : State) (i : Fin 4), s.up = true →
    let x := ifcSlot s i.val
    (∀ t d, (imuSlot s i.val).running = some t → (imuSlot s i.val).gaps = [] → ifcTakes s i.val = true →
      Runs (.imuTransactionEnd i d) s fun u => (ifcSlot u i.val).n = x.n + 1 ∧
        ((x.n + 1) % ifcR s i.val = 0 → ∃ o, (ifcSlot u i.val).due = x.due ++ [o] ∧
          o.time = (t.toNat : Int) - (rd s (R.ifcIsGdelay i.val)).toNat ∧ o.samples.length = 8 ∧ o.mask = ifcMask s i.val ∧
          o.seq = x.seq ∧ (ifcSlot u i.val).seq = x.seq + 1 ∧ (ifcSlot u i.val).k = x.k + 1) ∧
        ((x.n + 1) % ifcR s i.val ≠ 0 → (ifcSlot u i.val).due = x.due ∧ (ifcSlot u i.val).k = x.k)) ∧
    (∀ o rest, x.due = o :: rest → Inv s →
      let sem := rf s (R.ifcIsOutcfg i.val) 31 16
      let at_ := (rd64 s (R.ifcIsOutLo i.val) (R.ifcIsOutHi i.val)).toNat + 64 * (o.seq.toNat % 2 ^ rf s (R.ifcIsOutcfg i.val) 3 0)
      plainRam s at_ 64 → sem < 4096 ∨ sem = 0xFFFF → o.samples.length = 8 → Runs (.ifcOutputRecord i) s fun u =>
        ldS u at_ 8 = sext 64 (leVal (leBytesI 8 o.time)) ∧ ldN u (at_ + 8) 4 = o.seq.toNat ∧ ldN u (at_ + 12) 2 = o.flags % 65536 ∧
        ldN u (at_ + 14) 1 = i.val ∧ ldN u (at_ + 15) 1 = o.mask % 256 ∧ ldN u (at_ + 60) 4 = crc32c (ldBytes u at_ 60) ∧ OnlyBytes s u at_ 64 ∧
        (ifcSlot u i.val).due = rest ∧ (ifcSlot u i.val).seq = x.seq ∧ rd u (R.ifcIsSeq i.val) = o.seq ∧
        u.ifc.delivered = s.ifc.delivered ++ [⟨i.val, o.time, o.flags, o.samples⟩] ∧
        (sem = 0xFFFF → u.sem = s.sem) ∧
        (sem < 4096 → (semCount u sem).toNat = min ((semCount s sem).toNat + 1) 0xFFFFFFFF)) ∧
    (x.due = [] → Runs (.ifcOutputRecord i) s fun u => u = s)

/-- R135, R141, R143, R146 to R148: of an enabled slot a configuration write that changes anything but EN is ignored with BUSY, an
enable whose checks fail leaves EN 0, one whose checks pass restarts the slot with its sequence at 0; a write that changes only
SRC of an enabled channel arranges a switch; a detector is written while disabled, and disabling it abandons its block; enabling
the chain restarts every enabled slot. -/
def ruleFilterChainConfiguration : Prop :=
  ∀ (s : State) (i : Fin 4), s.up = true →
    let cfg := R.ifcIsCfg i.val
    let busy := fun (u : State) => rd u R.ifcErr = rd s R.ifcErr ||| 2 ∧ u.ifc = s.ifc ∧ SameRegsBut [R.ifcErr, R.ifcErrInfo] s u
    (∀ v : Word, let new := v &&& 0xCE7F07FF
      let run := fun P => Runs (.ifcConfigWrite (BitVec.ofNat 24 cfg) v) s P
      (rb s cfg 31 = true → bit new 31 = true → new ≠ rd s cfg → run busy) ∧
      (rb s cfg 31 = true → bit new 31 = false → run fun u => u = wr s cfg new) ∧
      (rb s cfg 31 = false → bit new 31 = true → ifcEnableOk (wr s cfg new) i.val = true → run fun u =>
        rd u cfg = new ∧ (ifcSlot u i.val).seq = 0 ∧ (ifcSlot u i.val).due = (ifcSlot s i.val).due ∧ (ifcSlot u i.val).n = 0 ∧
          (ifcSlot u i.val).ch = [] ∧ bit (rd u (R.ifcIsEvent i.val)) 0 = true) ∧
      (rb s cfg 31 = false → bit new 31 = true → ifcEnableOk (wr s cfg new) i.val = false → run fun u =>
        rb u cfg 31 = false ∧ rd u R.ifcErr = rd s R.ifcErr ||| 1 ∧ u.ifc = s.ifc)) ∧
    (∀ (c : Fin 8) (v : Word), let a := R.ifcIsChCfg i.val c.val
      rb s cfg 31 = true → rb s a 31 = true → bit v 31 = true → fld v 2 0 = rf s a 2 0 → fld v 18 16 ≠ rf s a 18 16 →
      Runs (.ifcChannelSwitch i c v) s fun u => rf u a 18 16 = fld v 18 16 ∧
        (tabGet ifcChan0 (ifcSlot u i.val).ch c.val).pendingSrc = true ∧ SameRegsBut [a] s u ∧
        (ifcSlot u i.val).due = (ifcSlot s i.val).due) ∧
    (∀ (c : Fin 8) (v : Word), let a := R.ifcIsChCfg i.val c.val
      rb s cfg 31 = true → rb s a 31 = true → bit v 31 = true → fld v 2 0 ≠ rf s a 2 0 → Runs (.ifcChannelSwitch i c v) s busy) ∧
    (∀ (k : Fin 32) (r : Fin 3) (v : Word), let new := if r.val = 0 then v &&& 0xC001FFFF else v
      (rb s (R.ifcDetCfg k.val) 31 = false → Runs (.ifcDetCfgWrite k r v) s fun u => u = wr s (detReg k.val r.val) new) ∧
      (rb s (R.ifcDetCfg k.val) 31 = true → r.val ≠ 0 ∨ bit v 31 = true → Runs (.ifcDetCfgWrite k r v) s busy) ∧
      (rb s (R.ifcDetCfg k.val) 31 = true → r.val = 0 → bit v 31 = false → Runs (.ifcDetCfgWrite k r v) s fun u =>
        rd u (R.ifcDetCfg k.val) = new ∧ (detGet u k.val).n = 0 ∧ (detGet u k.val).power = (detGet s k.val).power)) ∧
    (∀ v : Word, bit v 0 = false → Runs (.ifcCtrlWrite v) s fun u => u = wr s R.ifcCtrl 0) ∧
    (∀ v : Word, bit v 0 = true → rb s R.ifcCtrl 0 = false → Runs (.ifcCtrlWrite v) s fun u => rd u R.ifcCtrl = 1 ∧
      (rb s cfg 31 = true → (ifcSlot u i.val).n = 0 ∧ (ifcSlot u i.val).ch = [] ∧ bit (rd u (R.ifcIsEvent i.val)) 0 = true) ∧
      ∀ k : Fin 32, (detGet u k.val).n = 0)

/-- The inertial filter chain: its outputs, and its configuration writes. -/
def Obligations.TheFilterChainFollowsItsConfiguration : Prop :=
  ruleFilterChainOutputs ∧ ruleFilterChainConfiguration

/-! ### Vision engines -/

/-- The job running at vision unit `u` has opcode `op` and its work is still to be done. -/
def visDue (s : State) (u op : Nat) (j : Job) : Prop :=
  visJob s u = some j ∧ j.unit = u ∧ j.status = none ∧ abortAsked s j.owner = false ∧ rec8 j.block 0 1 = op

/-- Memory without an uncorrectable unit or a failing burst, outside GLIDE: no read is poisoned and no access refused (R255, R277,
R279, R507). -/
def clean (s : State) : Prop := s.poison = [] ∧ s.edc = [] ∧ s.pwr.pstate ≠ .glide

/-- R150, R157 to R176: a running DETECT, TRACK, SEED or MATCH job whose block passes its checks and whose data is good does its work and
ends with status 0; the counters take what its header counts (DETECT features, SEED and TRACK tracks, MATCH queries and accepted
pairs), and the header carries the status. TRACK with no later detect record ends with ERR_NO_FRAME, and a job whose block lies in an
uncorrectable unit with ERR_FAULT. Candidate order and other open choices are the model's free functions; the statement holds for
each. -/
def ruleFeatureJobsDoTheirWork : Prop :=
  ∀ (s : State) (e : Fin 2) (j : Job), s.up = true → Inv s →
    let b := j.block
    let out := outHeader j
    let ended := fun (u : State) (st : Nat) => visJob u j.unit = some { j with status := some st }
    (visDue s (1 + e.val) 1 j → firstBad (detectChecks s e.val b) = none → clean s →
      Runs (.detect e) s fun u => ended u 0 ∧ ∃ k c, rd u (R.fddFeatures e.val) = addSat (rd s (R.fddFeatures e.val)) k ∧
        rd u (R.fddCand e.val) = addSat (rd s (R.fddCand e.val)) c ∧ k ≤ c ∧
        (plainRam s out 64 → rec8 b 3 1 / 8 % 2 = 0 → k < 2 ^ 32 → ldN u (out + 16) 4 = k ∧ ldN u (out + 13) 1 = 0)) ∧
    (visDue s (3 + e.val) 1 j → firstBad (trackChecks s b) = none → clean s → let tab := loadTracks s (rec8 b 16 8)
      (currentEntry (tabGet [] s.vis.detects (rec8 b 1 1)) (ldN s (rec8 b 16 8 + 8) 4) = none →
        Runs (.track e) s fun u => ended u 0x25 ∧ rd u (R.tmeTracked e.val) = rd s (R.tmeTracked e.val)) ∧
      (∀ kc cc, currentEntry (tabGet [] s.vis.detects (rec8 b 1 1)) (ldN s (rec8 b 16 8 + 8) 4) = some (kc, cc) →
        Runs (.track e) s fun u => ended u 0 ∧ ∃ k l, k + l ≤ tab.length ∧
          rd u (R.tmeTracked e.val) = addSat (rd s (R.tmeTracked e.val)) k ∧
          rd u (R.tmeLost e.val) = addSat (rd s (R.tmeLost e.val)) l)) ∧
    (visDue s (3 + e.val) 2 j → firstBad (seedChecks s b) = none → clean s →
      let cap := if rec8 b 1 1 % 2 = 1 then rec8 b 32 4 else (loadTracks s (rec8 b 16 8)).length
      Runs (.seed e) s fun u => ended u 0 ∧ ∃ k, k ≤ cap ∧ rd u (R.tmeSeeded e.val) = addSat (rd s (R.tmeSeeded e.val)) k) ∧
    (visDue s (3 + e.val) 3 j → firstBad (matchChecks s b) = none → clean s →
      let q := (matchSet s (rec8 b 2 1) (rec8 b 16 8)).length
      Runs (.matchSets e) s fun u => ended u 0 ∧ ∃ k, k ≤ q ∧ rd u (R.tmeMatched e.val) = addSat (rd s (R.tmeMatched e.val)) k ∧
        (plainRam s out 64 → q < 2 ^ 32 → ldN u out 4 = q ∧ ldN u (out + 4) 4 = k)) ∧
    (∀ m ∈ [(1 + e.val, 1, Instr.detect e, firstBad (detectChecks s e.val b)), (3 + e.val, 1, .track e, firstBad (trackChecks s b)),
        (3 + e.val, 2, .seed e, firstBad (seedChecks s b)), (3 + e.val, 3, .matchSets e, firstBad (matchChecks s b))],
      visDue s m.1 m.2.1 j → m.2.2.2 = none → poisoned s j.addr 64 = true → Runs m.2.2.1 s fun u => ended u 0x26)

/-- R150, R184 to R199: a running DEPTH job with a paired latch, and a PROJECT job with a valid lidar sweep, whose checks pass and whose
data is good, end with status 0; the depth counters split the pixels of the map, the projection counters the points of the sweep.
An unpaired latch ends DEPTH with ERR_NO_FRAME, a missing or lost sweep PROJECT. -/
def ruleDepthAndProjectionDoTheirWork : Prop :=
  ∀ (s : State) (j : Job), s.up = true → Inv s → clean s →
    let b := j.block
    let ended := fun (u : State) (st : Nat) => visJob u j.unit = some { j with status := some st }
    (visDue s 5 1 j → firstBad (depthChecks s j) = none →
      let lw := BitVec.ofNat 32 (j.latch.headD 0)
      let paired := bit lw 31 = true ∧ bit lw 30 = true
      (¬ paired → Runs .depth s fun u => ended u 0x25 ∧ rd u R.sdeValid = rd s R.sdeValid) ∧
      (paired → let (rw, rh) := workSize s b (j.latch.getD 1 0)
        Runs .depth s fun u => ended u 0 ∧ ∃ nv nt oc rg, rd u R.sdeValid = addSat (rd s R.sdeValid) nv ∧
          rd u R.sdeNotex = addSat (rd s R.sdeNotex) nt ∧ rd u R.sdeOccl = addSat (rd s R.sdeOccl) oc ∧
          rd u R.sdeRange = addSat (rd s R.sdeRange) rg ∧
          (plainRam s (rec8 b 24 8) (64 + rh * up64 (2 * rw)) → plainRam s (rec8 b 32 8) (rh * up64 rw) →
            rec8 b 24 8 + 64 + rh * up64 (2 * rw) ≤ rec8 b 32 8 → nv < 2 ^ 32 → ldN u (rec8 b 24 8 + 24) 4 = nv))) ∧
    (visDue s 6 1 j → firstBad (projectChecks s j) = none →
      let lw := BitVec.ofNat 32 (j.latch.getD 1 0)
      let pts := rec8 (ldBytes s (fsBuf s (rec8 b 2 1) (fld lw 3 0)) 64) 40 4
      let there := bit lw 31 = true ∧ j.latch.getD 2 0 ≠ 1
      (¬ there → Runs .project s fun u => ended u 0x25 ∧ rd u R.pjePoints = rd s R.pjePoints) ∧
      (there → Runs .project s fun u => ended u 0 ∧ rd u R.pjePoints = addSat (rd s R.pjePoints) pts ∧
          ∃ k, k ≤ pts ∧ rd u R.pjeLanded = addSat (rd s R.pjeLanded) k ∧ rd u R.pjeDropped = addSat (rd s R.pjeDropped) (pts - k)))

/-- What the jobs of the feature, depth and projection engines do. -/
def Obligations.VisionEnginesDoTheirWork : Prop :=
  ruleFeatureJobsDoTheirWork ∧ ruleDepthAndProjectionDoTheirWork

/-- R150, R178: a vision job whose block fails a check ends with ERR_DESCRIPTOR, its engine's JOB error and no change of memory beyond
the status byte of its output header; a job whose work is done completes: BUSY clears, the job is counted and its gate's report
carries the status, once no store of the job is held by a fence; one asked to abort before reports ERR_ABORTED. While work is
still to do, nothing ends. -/
def Obligations.VisionJobsEndAndReport : Prop :=
  ∀ s : State, s.up = true →
    (∀ (e : Fin 2) (j : Job) (k : Nat), visDue s (1 + e.val) 1 j → firstBad (detectChecks s e.val j.block) = some k →
      Runs (.detect e) s fun u => visJob u (1 + e.val) = some { j with status := some 0x23 } ∧
        bit (rd u (R.fddErr e.val)) 0 = true ∧
        (rd s (R.fddErr e.val) = 0 → rd u (R.fddErrInfo e.val) = BitVec.ofNat 32 (k * 0x10000 + rec8 j.block 1 1 % 16)) ∧
        OnlyBytes s u (outHeader j + 13) 1 ∧ u.sem = s.sem) ∧
    (∀ (v : VisionUnit) (j : Job) (st r g : Nat), visJob s (visCode v) = some j → j.owner = .gate r g →
      let told := fun (u : State) (c : Nat) => visJob u (visCode v) = none ∧ rb u (visStatusReg (visCode v)) 0 = false ∧
        rd u (visJobsReg v) = rd s (visJobsReg v) + 1 ∧
        (unacked u j.owner = false → u.fgs.reports = s.fgs.reports ++ [⟨j.owner, c⟩] ∧ abortAsked u j.owner = false) ∧
        (unacked u j.owner = true → u.memx.deferred = s.memx.deferred ++ [(j.owner, c, [])] ∧ u.fgs.reports = s.fgs.reports)
      (j.status = some st → abortAsked s j.owner = false → Runs (.visionJobEnd v) s (told · st)) ∧
      (abortAsked s j.owner = true → Runs (.visionJobEnd v) s (told · 0x28)) ∧
      (j.status = none → abortAsked s j.owner = false → Runs (.visionJobEnd v) s fun u => u = s))

/-- R163, R203 to R205: a pair table is written while the engine is idle and the points lie in the disc; an arm starts the check of a
staged table, refused with BUSY while one runs or is armed; a check that fails sets CAL and leaves ARMED 0; one that passes arms the
entry, or makes it active at once where none was; a disarm clears ARMED. -/
def ruleCalibrationTablesAreStaged : Prop :=
  ∀ (s : State) (c : CalUnit), s.up = true →
    let st := calStatus c
    let err := match c with | .sde _ => R.sdeErr | .pje _ => R.pjeErr
    (rb s st 3 = false → rb s st 0 = false → Runs (.calArm c) s fun u => u = setBits s st 8) ∧
    (rb s st 3 = true ∨ rb s st 0 = true → Runs (.calArm c) s fun u => rd u err = rd s err ||| 4 ∧ rd u st = rd s st) ∧
    (rb s st 3 = true → calTableOk s c = false → Runs (.calCheckEnd c) s fun u => bit (rd u err) 1 = true ∧
      rb u st 3 = false ∧ rb u st 0 = rb s st 0 ∧ SameBytes s u) ∧
    (rb s st 3 = true → calTableOk s c = true → rb s st 1 = true → Runs (.calCheckEnd c) s fun u =>
      rb u st 0 = true ∧ rb u st 3 = false ∧ rd u (calBase c + 0x10) = BitVec.ofNat 32 (ldN s (calStg s c) 4) ∧
        rd u err = rd s err ∧ calAct u c = calAct s c) ∧
    (rb s st 3 = true → calTableOk s c = true → rb s st 1 = false → rb s st 0 = false → Runs (.calCheckEnd c) s fun u =>
      rb u st 0 = false ∧ rb u st 1 = true ∧ rd u (calBase c + 0x14) = BitVec.ofNat 32 (ldN s (calStg s c) 4) ∧
        calAct u c = calStg s c ∧ rd u (calBase c + 0x1C) = 0 ∧ bit (rd u (calEventReg c)) (calIdx c) = true) ∧
    Runs (.calDisarm c) s (fun u => u = clrBits s st 1) ∧
    (∀ (e : Fin 2) (i : BitVec 8) (v : Word), visJob s (1 + e.val) = none → pairInDisc v = true →
      Runs (.fddPairWrite e i v) s fun u => u = wr s (R.fddPair e.val i.toNat) (v &&& 0x1F1F1F1F)) ∧
    (∀ (e : Fin 2) (i : BitVec 8) (v : Word), visJob s (1 + e.val) ≠ none → Runs (.fddPairWrite e i v) s fun u =>
      rd u (R.fddErr e.val) = rd s (R.fddErr e.val) ||| 2 ∧ SameRegsBut [R.fddErr e.val, R.fddErrInfo e.val] s u)

/-- R204: when a durable commit reaches the engines every armed table becomes active: its version moves to ACT_VER, the old one to
RET_VER, ARMED clears, SWAP_EPOCH takes the low half of the epoch, the entry's event bit is set; an entry not armed keeps all of
it. With no commit to take, nothing changes. -/
def ruleArmedTablesSwapAtTheCommit : Prop :=
  ∀ (s : State) (e : DWord), s.up = true → s.vis.swapDue = some e →
    Runs .calSwap s (fun u => u.vis.swapDue = none ∧ SameBytes s u ∧ ∀ c ∈ calUnits,
      (rb s (calStatus c) 0 = true → rd u (calBase c + 0x18) = rd s (calBase c + 0x14) ∧
        rd u (calBase c + 0x14) = rd s (calBase c + 0x10) ∧ calAct u c = calStg s c ∧ rb u (calStatus c) 0 = false ∧
        rd u (calBase c + 0x1C) = lo32 e ∧ bit (rd u (calEventReg c)) (calIdx c) = true) ∧
      (rb s (calStatus c) 0 = false → rd u (calBase c + 0x18) = rd s (calBase c + 0x18) ∧
        rd u (calBase c + 0x14) = rd s (calBase c + 0x14) ∧ rd u (calStatus c) = rd s (calStatus c))) ∧
    Runs .calSwap { s with vis := { s.vis with swapDue := none } } fun u => u = { s with vis := { s.vis with swapDue := none } }

/-- Calibration tables are staged, armed and swapped in at the commit. -/
def Obligations.CalibrationIsStagedAndSwapped : Prop :=
  ruleCalibrationTablesAreStaged ∧ ruleArmedTablesSwapAtTheCommit

/-! ### Frame graphs -/

/-- Run `r` of graph `g` is in flight, its cursor stands at a gate that is not the last, and nothing keeps it from evaluating. -/
def mayEvaluate (s : State) (r : Run) (g : Graph) : Prop :=
  findRun s r.id = some r ∧ graphOf s r.graph = some g ∧ r.aborted = false ∧ r.recorded = false ∧
    r.cursor + 1 < g.ngates ∧ r.gates.length = g.ngates ∧ (gateRunAt r r.cursor).stage = .idle ∧ inOrder s r = true

/-- The run of an id stands with its cursor past gate `i`, which is final with a status and flags. -/
def gateDecided (u : State) (id i st flags : Nat) : Prop :=
  ∃ q, findRun u id = some q ∧ q.cursor = i + 1 ∧ (gateRunAt q i).stage = .final ∧ (gateRunAt q i).status = st ∧
    (gateRunAt q i).flags % 4 = flags

/-- R215 to R218: the tests of an evaluation in their order: past the deadline the gate ends ERR_DEADLINE and skipped; with a needed slot
lost ERR_STREAM_LOST and skipped; with the other pair decision skipped with status 0; with a wait it waits, its poll started with the
gate's count and expiry (the earlier of deadline and timeout); otherwise its job joins its unit's queue and the cursor goes on, or is
held while jobs and the cursors that go before it fill the eight places. -/
def Obligations.GatesAreEvaluatedInOrder : Prop :=
  ∀ (s : State) (r : Run) (g : Graph), s.up = true → mayEvaluate s r g →
    let i := r.cursor
    let e := gateAt g i
    let due := (r.launchDt.getD s.dt.now).toNat + g.deadline
    let tmo := s.dt.now.toNat + e.timeout
    let inTime := g.deadline = 0 ∨ s.dt.now.toNat < due
    let before := (queueOf s e.unit).length + (holdersBefore s e.unit r).length
    let run := fun P => Runs (.gateEvaluate r.id []) s P
    (¬ inTime → run fun u => gateDecided u r.id i 0x20 1) ∧
    (inTime → e.dep = 0xFF → needsLost s e.needs = true → run fun u => gateDecided u r.id i 0x25 1) ∧
    (inTime → e.dep = 0xFF → needsLost s e.needs = false → pairDiffers s e.pair = true → run fun u => gateDecided u r.id i 0 1) ∧
    (inTime → e.dep = 0xFF → needsLost s e.needs = false → pairDiffers s e.pair = false →
      (e.waitSem < 4096 → run fun u => (∃ w, u.sem.waiters = s.sem.waiters ++ [w] ∧ w.owner = .gate r.id i ∧ w.idx = e.waitSem ∧
        w.n = e.waitN ∧ w.sub = e.consume ∧ w.expiry = (if g.deadline = 0 ∧ e.timeout = 0 then none else if g.deadline = 0 then
        some tmo else if e.timeout = 0 then some due else some (min due tmo))) ∧ u.sem.count = s.sem.count ∧ ∃ q, findRun u r.id = some q ∧ q.cursor = i ∧
        (gateRunAt q i).stage = .waiting) ∧
      (e.waitSem = 0xFFFF → e.unit = 0 → run fun u => gateDecided u r.id i 0 0) ∧
      (e.waitSem = 0xFFFF → e.unit ≠ 0 → unitPowered s e.unit = false → run fun u => gateDecided u r.id i 0x28 1) ∧
      (e.waitSem = 0xFFFF → e.unit ≠ 0 → unitPowered s e.unit = true → before < 8 → joiningAt s e.unit = [] → run fun u =>
        queueOf u e.unit = queueOf s e.unit ++ [gateJob g r i] ∧ rd u R.fgsDispatched = incSat (rd s R.fgsDispatched) ∧
        ∃ q, findRun u r.id = some q ∧ q.cursor = i + 1 ∧ (gateRunAt q i).stage = .queued) ∧
      (e.waitSem = 0xFFFF → e.unit ≠ 0 → unitPowered s e.unit = true → 8 ≤ before → run fun u =>
        queueOf u e.unit = queueOf s e.unit ∧ ∃ q, findRun u r.id = some q ∧ q.cursor = i ∧ (gateRunAt q i).stage = .queueHold)) ∧
    (∀ d, d = gateRunAt r e.dep → inTime → e.dep ≠ 0xFF → d.stage = .final → d.flags % 2 = 1 →
      run fun u => gateDecided u r.id i d.status 1) ∧
    (∀ d, d = gateRunAt r e.dep → inTime → e.dep ≠ 0xFF → d.stage = .final → d.flags % 2 = 0 → 0x20 ≤ d.status →
      run fun u => gateDecided u r.id i 0x28 1)

/-- R216, R218, R219: a hold whose expiry has come ends its gate with ERR_DEADLINE and the timeout flag, unless what it waits for has
come: its DEP gate has ended, whose status then decides, or its unit's queue has a place, which the job takes; a unit's report ends its gate with the
status it carries, and signals the gate's semaphore when that is below 0x20 or the gate always signals, once. -/
def ruleGatesEnd : Prop :=
  ∀ (s : State) (r : Run) (g : Graph), s.up = true → findRun s r.id = some r → graphOf s r.graph = some g → r.aborted = false →
    r.recorded = false → r.cursor < g.ngates → r.gates.length = g.ngates →
    (∀ x, r.expiry = some x → x ≤ s.dt.now.toNat → r.cursor + 1 < g.ngates →
      let c := r.cursor
      let e := gateAt g c
      let d := gateRunAt r e.dep
      let full := 8 ≤ (queueOf s e.unit).length + (holdersBefore s e.unit r).length
      let run := fun P => Runs (.gateHoldExpire r.id) s P
      ((gateRunAt r c).stage = .depHold ∧ d.stage ≠ .final ∨
          (gateRunAt r c).stage = .queueHold ∧ full ∧ unitPowered s e.unit = true →
        run fun u => gateDecided u r.id c 0x20 2 ∧ rd u R.fgsWaitTmo = incSat (rd s R.fgsWaitTmo)) ∧
      ((gateRunAt r c).stage = .depHold → d.stage = .final → e.dep ≠ 0xFF → d.flags % 2 = 1 →
        run fun u => gateDecided u r.id c d.status 1) ∧
      ((gateRunAt r c).stage = .depHold → d.stage = .final → e.dep ≠ 0xFF → d.flags % 2 = 0 → 0x20 ≤ d.status →
        run fun u => gateDecided u r.id c 0x28 1) ∧
      ((gateRunAt r c).stage = .queueHold → ¬ full → e.unit ≠ 0 → unitPowered s e.unit = true → joiningAt s e.unit = [] →
        run fun u => queueOf u e.unit = queueOf s e.unit ++ [gateJob g r c] ∧
          ∃ q, findRun u r.id = some q ∧ q.cursor = c + 1 ∧ (gateRunAt q c).stage = .queued)) ∧
    (∀ x, r.expiry = some x → s.dt.now.toNat < x → Runs (.gateHoldExpire r.id) s fun u => u = s) ∧
    (∀ i st, i < g.ngates → s.fgs.reports = [⟨.gate r.id i, st⟩] →
      let e := gateAt g i
      Runs (.gateEnd r.id i) s fun u => u.fgs.reports = [] ∧
        (∃ q, findRun u r.id = some q ∧ q.cursor = r.cursor ∧ (gateRunAt q i).stage = .final ∧ (gateRunAt q i).status = st) ∧
        (st < 0x20 ∨ e.sigAlways = true → e.sigSem < 4096 →
          (semCount u e.sigSem).toNat = min ((semCount s e.sigSem).toNat + e.sigAdd.toNat) 0xFFFFFFFF) ∧
        (0x20 ≤ st → e.sigAlways = false → u.sem = s.sem))

/-- R222: when the last gate of a run ends, its cursor being past them all, the run ends: the end semaphore is signalled, the run is
counted and leaves the device, and its descriptor, where it has one, ends. The signal waits where a fence holds bytes of the run's
record (R85, R263). -/
def ruleRunsEnd : Prop :=
  ∀ (s : State) (r : Run) (g : Graph) (i st : Nat), s.up = true → s.fgs.runs = [r] → graphOf s r.graph = some g → r.aborted = false →
    r.recorded = false → g.ngates ≤ r.cursor → r.gates.length = g.ngates → i < g.ngates → s.fgs.reports = [⟨.gate r.id i, st⟩] →
    (∀ k, k < g.ngates → k ≠ i → (gateRunAt r k).stage = .final) → g.cq = 0xFF → (gateAt g i).sigSem = 0xFFFF →
    Runs (.gateEnd r.id i) s fun u => u.fgs.runs = [] ∧ rd u R.fgsRuns = rd s R.fgsRuns + 1 ∧ rf u R.fgsStatus 7 0 = 0 ∧
      (g.endSem = 0xFFFF → u.sem = s.sem) ∧
      (let held := heldIn u [(g.records + r.count % max 1 g.jring * up64 (recordSize g), recordSize g)]
       (g.endSem < 4096 → held = [] →
          (semCount u g.endSem).toNat = min ((semCount s g.endSem).toNat + g.endAdd.toNat) 0xFFFFFFFF) ∧
       (held ≠ [] → u.sem = s.sem ∧ u.memx.signals = s.memx.signals ++ [⟨held, 2, g.endSem, g.endAdd⟩])) ∧
      (∀ d x, r.desc = some d → unacked s (.descriptor d) = false → x ∈ s.hif.descs → x.id = d → ∃ y ∈ u.hif.descs, y.id = d ∧ y.stage = .ended ∧ y.endDt = s.dt.now)

/-- R222: a run whose record is written and whose completion is held leaves when its completion ring has room, and stays until
then. -/
def ruleHeldRunsLeaveWhenTheRingHasRoom : Prop :=
  ∀ (s : State) (r : Run) (g : Graph), s.up = true → s.fgs.runs = [r] → graphOf s r.graph = some g → r.recorded = true → g.cq ≠ 0xFF →
    (cqRoom s g.cq = true → Runs (.gateEvaluate r.id []) s fun u => u.fgs.runs = [] ∧ rd u R.fgsRuns = rd s R.fgsRuns + 1) ∧
    (cqRoom s g.cq = false → Runs (.gateEvaluate r.id []) s fun u => u.fgs.runs = [r] ∧ SameBytes s u ∧ u.sem = s.sem)

/-- R218, R502: a unit that is free and ready takes the job at the head of its queue, whose place the first that waits to join
takes; a unit that is not ready
refuses it, and a descriptor's job then ends ERR_ABORTED; a busy unit takes none. -/
def Obligations.UnitsTakeJobsFromTheirQueues : Prop :=
  ∀ (s : State) (v : UnitId) (j : Job) (rest : List Job), s.up = true → queueOf s (unitCode v) = j :: rest →
    engineHeld s (unitCode v) = false → engineDead s (unitCode v) = false →
    (unitIdle s v j = true → unitReady s j.unit = true → j.unit = unitCode v → Runs (.unitJobStart v) s fun u =>
      queueOf u (unitCode v) = rest ++ (joiningAt s (unitCode v)).take (8 - rest.length) ∧
      (match v with
        | .vision _ => ∃ k, visJob u (unitCode v) = some k ∧ k.owner = j.owner ∧ k.addr = j.addr ∧ k.block = jobBlock s j
        | .tfu => ∃ l, startedAt u 0x12 = startedAt s 0x12 ++ [{ j with block := jobBlock s j, latch := l }]
        | _ => startedAt u (unitCode v) = startedAt s (unitCode v) ++ [{ j with block := jobBlock s j }])) ∧
    (∀ d x, j.owner = .descriptor d → x ∈ s.hif.descs → x.id = d → unacked s j.owner = false → unitIdle s v j = true →
      unitReady s j.unit = false → Runs (.unitJobStart v) s fun u =>
        queueOf u (unitCode v) = rest ++ (joiningAt s (unitCode v)).take (8 - rest.length) ∧
        ∃ y ∈ u.hif.descs, y.id = d ∧ y.stage = .ended ∧ y.status = 0x28) ∧
    (unitIdle s v j = false → Runs (.unitJobStart v) s fun u => u = s)

/-- R223, R225: an abort leaves no gate of a run queued, held or waiting: each is final, or runs with its unit
asked to stop or its report come; a gate the cursor never reached is marked so, the gate at the cursor is not; naming a
graph that is not resident sets FGS_ERR; a write without GO does nothing. -/
def ruleAbortLeavesNoGateWaiting : Prop :=
  ∀ (s : State) (v : Word), s.up = true →
    (bit v 31 = false → Runs (.fgsAbort v) s fun u => u = s) ∧
    (bit v 31 = true → graphOf s (fld v 5 0) = none → Runs (.fgsAbort v) s fun u =>
      rd u R.fgsErr = rd s R.fgsErr ||| 2 ∧ u.fgs = s.fgs) ∧
    (∀ r g, bit v 31 = true → graphOf s (fld v 5 0) = some g → s.fgs.runs = [r] → r.graph = fld v 5 0 → r.recorded = false →
      r.gates.length = g.ngates → Runs (.fgsAbort v) s fun u => ∀ q ∈ u.fgs.runs, q.id = r.id ∧ q.aborted = true ∧
        (∀ i, i < g.ngates → (gateRunAt q i).stage = .final ∨
          (gateRunAt q i).stage = .running ∧
            (abortAsked u (.gate r.id i) = true ∨ ∃ x ∈ u.fgs.reports, x.owner = .gate r.id i)) ∧
        ∀ i, i < g.ngates → (gateRunAt r i).stage = .idle → (gateRunAt q i).status = 0x28 ∧ (gateRunAt q i).flags % 2 = 1 ∧
          ((gateRunAt q i).flags / 8 % 2 = 1 ↔ i ≠ r.cursor))

/-- Gates and runs end, and an abort leaves no gate waiting. -/
def Obligations.RunsAndTheirGatesEnd : Prop :=
  ruleGatesEnd ∧ ruleRunsEnd ∧ ruleHeldRunsLeaveWhenTheRingHasRoom ∧ ruleAbortLeavesNoGateWaiting

/-! ### Tensor tiles -/

/-- A job of owner `o` ends with status `st` and without result words: it is reported when no store of it is held by a fence, and
waits for that otherwise (R85, R150, R263). -/
def ends (s u : State) (o : Owner) (st : Nat) : Prop :=
  (unacked u o = false → u.fgs.reports = s.fgs.reports ++ [⟨o, st⟩]) ∧
  (unacked u o = true → u.fgs.reports = s.fgs.reports ∧ u.memx.deferred = s.memx.deferred ++ [(o, st, [])])

/-- The running tile job of an id. -/
def tileJob (s : State) (id : Nat) : Option TileJob := s.tiles.running.find? fun t => t.id == id

/-- R241, R242, R245: the job that the tile unit has taken starts when its tiles and slots are free: it runs with every pass of its
program to come, and leaves the unit's hand; a block that fails its checks, or names no program, ends ERR_DESCRIPTOR and writes
only its record's status byte; a job whose tiles are busy waits. That a program takes this form is the model's choice (log entry 14). -/
def ruleTileJobsStart : Prop :=
  ∀ (s : State) (j : Job) (rest : List Job), s.up = true → startedAt s 0x10 = j :: rest →
    let prog := progOf s j.ctx (rec8 j.block 2 2)
    (∀ p, tileMayStart s j.ctx j.block = true → prog = some p → tileBlockOk s j.block p = true → Runs .tileRun s fun u =>
      startedAt u 0x10 = rest ∧ ∃ t, u.tiles.running = s.tiles.running ++ [t] ∧ t.id = s.tiles.nextJob ∧ t.job = j ∧
        t.left = p.passes ∧ t.passes = 0 ∧ t.startDt = s.dt.now ∧
        (rec8 j.block 1 1 / 2 % 2 = 1 → t.seed = rec8 j.block 4 2) ∧
        ((∀ l ∈ p.tiles, tileOf s l ≠ none) → badData s [(p.slotBase + 512 * rec8 j.block 32 2, 512 * rec8 j.block 34 2)] = false →
          t.status = none)) ∧
    (∀ r g, tileMayStart s j.ctx j.block = true → j.owner = .gate r g →
      (prog = none ∨ ∃ p, prog = some p ∧ tileBlockOk s j.block p = false) → Runs .tileRun s fun u =>
      startedAt u 0x10 = rest ∧ u.tiles = s.tiles ∧ ends s u j.owner 0x23 ∧
        OnlyBytes s u (rec8 j.block 24 8 + 13) 1) ∧
    (tileMayStart s j.ctx j.block = false → Runs .tileRun s fun u => u = s)

/-- R246 to R248, R482: at each comparison of a pass the accumulators, with what faults have added, are held against the checksum column
and row. Where all agree the pass goes on to its next comparison, or is done at its end: it leaves the passes to come and is counted
for its job and its tile, as a transient of the tile when it was a second try. A first mismatch writes nothing, records the lowest
failing row and column and has the pass run again; a second is permanent: it halts the tile and sets the event. A residue that differs
at the end counts as a mismatch. -/
def ruleTilePassesAreChecked : Prop :=
  ∀ (s : State) (n : Fin 68) (id : Nat) (t : TileJob) (p : TilePass) (left : List TilePass) (errs : List AccErr) (residue : Bool),
    s.up = true → tileJob s id = some t → nextPass (tilesOn s n.val) [] t.left = some (p, left) → t.status = none →
    abortAsked s t.job.owner = false → fenced s (localBase p.tile) = false → ttState s n.val ≠ 7 →
    let part := tabGet ⟨0, []⟩ t.part p.tile
    let k := pointK p part.points
    let bad := failing p.mode (passSums s t p k (part.errs ++ errs))
    let agree := bad = ([], []) ∧ (residue = false ∨ k < p.k)
    let done := fun (u : State) => rd u (R.ttPasses n.val) = rd s (R.ttPasses n.val) + 1 ∧ ∃ q, tileJob u id = some q ∧ q.left = left ∧
      q.passes = t.passes + 1 ∧ q.reexec = t.reexec ∧ q.lastTile = n.val ∧ tabGet ⟨0, []⟩ q.part p.tile = ⟨0, []⟩
    let run := fun P => Runs (.tilePassCheck id n errs residue) s P
    (tileHalted s n.val = true → run fun u => u = s) ∧
    (tileHalted s n.val = false →
      (agree → k < p.k → run fun u => SameBytes s u ∧ rd u (R.ttPasses n.val) = rd s (R.ttPasses n.val) ∧ ∃ q, tileJob u id = some q ∧
        q.left = t.left ∧ tabGet ⟨0, []⟩ q.part p.tile = ⟨part.points + 1, part.errs ++ errs⟩) ∧
      (agree → k = p.k → t.retry.contains p.tile = false → run done) ∧
      (agree → k = p.k → t.retry.contains p.tile = true → transientExhausted s 0x10 n.val = false → run fun u => done u ∧
        rd u (R.ttChkTransient n.val) = incSat (rd s (R.ttChkTransient n.val)) ∧ bit (rd u (R.ttEvent n.val)) 2 = true) ∧
      (¬ agree → t.retry.contains p.tile = false → run fun u => SameBytes s u ∧
        rd u (R.ttChkLast n.val) = chkWord bad.1 bad.2 false ∧ ∃ q, tileJob u id = some q ∧ q.left = t.left ∧ q.passes = t.passes ∧
          q.lanes = t.lanes ∧ q.reexec = t.reexec + 1 ∧ q.retry = t.retry ++ [p.tile]) ∧
      (¬ agree → t.retry.contains p.tile = true → run fun u => SameBytes s u ∧ tileHalted u n.val = true ∧
        bit (rd u (R.ttEvent n.val)) 3 = true ∧ ∃ q, tileJob u id = some q ∧ q.left = t.left))

/-- R243 to R245, R251: a job with no pass to come ends with status 0, or 5 where a logical tile was moved, and leaves its tiles; one asked
to abort ends ERR_ABORTED, and commits no slot when a pass was still to come, so its slots read as before; one with a fault ends with
that status; otherwise it goes on. -/
def ruleTileJobsEnd : Prop :=
  ∀ (s : State) (id : Nat) (t : TileJob) (r g : Nat), s.up = true → tileJob s id = some t → t.job.owner = .gate r g →
    let moved := 0 < t.takeovers ∨ ∃ l ∈ t.p.tiles, remapped s l = true
    let gone := fun (u : State) (st : Nat) => tileJob u id = none ∧ ends s u t.job.owner st
    (t.status = none →
      (t.left = [] → abortAsked s t.job.owner = false → ¬ moved → Runs (.tileJobEnd id) s (gone · 0)) ∧
      (t.left = [] → abortAsked s t.job.owner = false → moved → Runs (.tileJobEnd id) s (gone · 5)) ∧
      (t.left = [] → abortAsked s t.job.owner = true → Runs (.tileJobEnd id) s (gone · 0x28)) ∧
      (t.left ≠ [] → abortAsked s t.job.owner = true → rec8 t.job.block 1 1 % 2 = 0 → Runs (.tileJobEnd id) s fun u =>
        gone u 0x28 ∧ OnlyBytes s u (rec8 t.job.block 24 8) 64) ∧
      (t.left ≠ [] → abortAsked s t.job.owner = false → Runs (.tileJobEnd id) s fun u => u = s)) ∧
    (∀ st, t.status = some st → rec8 t.job.block 1 1 % 2 = 0 → Runs (.tileJobEnd id) s fun u =>
      gone u st ∧ OnlyBytes s u (rec8 t.job.block 24 8) 64)

/-- R241 to R245, R251: tile jobs start and end. That a program takes this form is the model's choice (log entry 14). -/
def Obligations.TileJobsStartAndEnd : Prop :=
  ruleTileJobsStart ∧ ruleTileJobsEnd

/-- R249, R250: a permanently failed tile's logical tile is moved, one takeover at a time, to the free tile of its piste, whose home range
is fenced for the copy; with no tile to take it, and none to fold onto, it reads FAILED; when the moves are done the new tile
shows the logical tile with TAKEOVER set, the takeover is counted and a spare is spent. -/
def ruleTilesAreTakenOver : Prop :=
  ∀ (s : State) (n : Fin 68), s.up = true →
    let l := ttLogical s n.val
    (s.safe.takeover = none → rb s (R.ttChkLast n.val) 30 = true → l < 64 → rotMoving s (n.val / 17) = false →
      (∀ f, freeTile s (l / 16) = some f → f < 68 → Runs (.tileTakeover n) s fun u =>
        (∃ t, u.safe.takeover = some t ∧ t.failed = n.val ∧ t.logical = l ∧ t.new = f ∧ t.how = 0) ∧
        fenced u (localBase l) = true ∧ ttState u f = 6) ∧
      (takeoverTarget s n.val l = none → Runs (.tileTakeover n) s fun u => ttState u n.val = 7 ∧ u.safe = s.safe)) ∧
    (s.safe.takeover ≠ none → Runs (.tileTakeover n) s fun u => u = s) ∧
    (∀ t, s.safe.takeover = some t → t.failed = n.val → t.how = 0 → t.new < 68 → t.new ≠ n.val → t.logical < 64 →
      (∀ r ∈ t.ranges, tabGet none s.memx.moves r = none) → Runs (.tileTakeoverComplete n) s fun u =>
        u.safe.takeover = none ∧ u.safe.poseTakeover = true ∧ ttLogical u t.new = t.logical ∧ bit (rd u (R.ttEvent t.new)) 4 = true ∧
        rd u R.glbTakeoverCnt = incSat (rd s R.glbTakeoverCnt)) ∧
    (∀ t r, s.safe.takeover = some t → r ∈ t.ranges → tabGet none s.memx.moves r ≠ none →
      Runs (.tileTakeoverComplete n) s fun u => u = s)

/-- R246 to R250: passes are checked, and a permanently failed tile is taken over. -/
def Obligations.TileFaultsAreChecked : Prop :=
  ruleTilePassesAreChecked ∧ ruleTilesAreTakenOver

/-! ### Memory tiers and copy engines -/

/-- The entry in hand of engine `e` is `x`, passes the checks of R271, and its job is neither ended nor asked to abort; where it carries
FENCE every store of its job has been acknowledged; no burst of GDDR6 fails, and the device is not in GLIDE. -/
def entryRuns (s : State) (e : Nat) (c : CopyJob) (x : List Byte) : Prop :=
  ceJob s e = some c ∧ c.status = none ∧ abortAsked s c.job.owner = false ∧ curEntry s c = x ∧ entryForm s x = true ∧
    entryInWindow s (winOf s c.job.ctx) x = true ∧ (fenceFlag x && unacked s c.job.owner) = false ∧ s.edc = [] ∧ s.pwr.pstate ≠ .glide

/-- R269 to R273: a COPY entry whose rows pass the checks writes every row's source bytes at its destination, a FILL entry its pattern from
each row's start, and no other byte; the lines are counted and the job goes on to its next entry or its end. A row whose first
line is poisoned writes nothing and ends ERR_FAULT; an entry that fails a check writes nothing and ends ERR_DESCRIPTOR. An entry with
FENCE waits while a store of its job is unacknowledged. -/
def Obligations.CopyEntriesMoveTheirRows : Prop :=
  ∀ (s : State) (e : Fin 16) (c : CopyJob) (x : List Byte), s.up = true → Inv s →
    let n := rec8 x 4 4
    let goes := fun (u : State) => ceJob u e.val = some (nextEntry c (entryLines x).length) ∧
      rd u R.memLines = addSat (rd s R.memLines) (entryLines x).length
    let apart := fun (u : State) => ∀ a, a < semBase ∨ semBase + 0x4000 ≤ a →
      (∀ r ∈ entryRows x, ∀ i, i < n → a ≠ r.2 + i ∧ physAddr s a ≠ r.2 + i) → ldByte u a = ldByte s a
    (entryRuns s e.val c x → rec8 x 0 1 = 1 → (∀ r ∈ entryRows x, poisoned s r.1 n = false) → Runs (.copy e) s goes) ∧
    (entryRuns s e.val c x → rec8 x 0 1 = 1 → (∀ r ∈ entryRows x, poisoned s r.1 n = false ∧ plainRam s r.1 n ∧ plainRam s r.2 n) →
      Runs (.copy e) s fun u => apart u ∧ ∀ r ∈ entryRows x, ldBytes u r.2 n = ldBytes s r.1 n) ∧
    (entryRuns s e.val c x → rec8 x 0 1 = 2 → Runs (.fill e) s goes) ∧
    (entryRuns s e.val c x → rec8 x 0 1 = 2 → (∀ r ∈ entryRows x, plainRam s r.2 n) → Runs (.fill e) s fun u => apart u ∧
      ∀ r ∈ entryRows x, ∀ i, i < n → ldByte u (r.2 + i) = BitVec.ofNat 8 (rec8 x 12 4 / 256 ^ (i % 4))) ∧
    (entryRuns s e.val c x → rec8 x 0 1 = 1 → poisoned s (rec8 x 16 8) (min n (64 - rec8 x 24 8 % 64)) = true →
      Runs (.copy e) s fun u => ceJob u e.val = some { c with lines := 0, status := some 0x26 } ∧ SameBytes s u) ∧
    (ceJob s e.val = some c → c.status = none → abortAsked s c.job.owner = false → curEntry s c = x → rec8 x 0 1 = 1 →
      (fenceFlag x && unacked s c.job.owner) = false → entryForm s x = false ∨ entryInWindow s (winOf s c.job.ctx) x = false →
      Runs (.copy e) s fun u => ceJob u e.val = some { c with lines := 0, status := some 0x23 } ∧ SameBytes s u ∧
        (entryForm s x = true → bit (rd u R.memErr) 2 = true)) ∧
    (ceJob s e.val = some c → c.status = none → abortAsked s c.job.owner = false → curEntry s c = x → rec8 x 0 1 = 1 →
      fenceFlag x = true → unacked s c.job.owner = true → Runs (.copy e) s fun u => u = s)

/-- R268, R269, R274: a waiting job takes the lowest idle engine of its group; a PLAN block takes the entries of the plan it names, or ends
ERR_DESCRIPTOR where none is loaded; a job whose work has ended and whose every store has been acknowledged leaves its engine, is
counted and reports its status, the lines of its last entry and that entry's index. -/
def Obligations.CopyJobsStartAndEnd : Prop :=
  ∀ s : State, s.up = true →
    (∀ (g : Fin 2) (j : Job) (rest : List Job) (e : Nat), let k := if g.val = 0 then 0x11 else 0x1F
      startedAt s k = j :: rest → idleEngine s g.val = some e → Runs (.copyJobStart g) s fun u =>
        startedAt u k = rest ∧ ceJob u e = some ⟨j, [j.block], 0, 0, none⟩ ∧ (∀ f, f ≠ e → ceJob u f = ceJob s f) ∧
          bit (rd u (R.memCeStatus e)) 31 = true) ∧
    (∀ (g : Fin 2), idleEngine s g.val = none → Runs (.copyJobStart g) s fun u => u = s) ∧
    (∀ (e : Fin 16) (c : CopyJob), ceJob s e.val = some c → c.status = none → abortAsked s c.job.owner = false →
      c.job.latch = [] → let x := c.entries.headD []
      rec8 x 0 1 = 3 → rec8 x 1 1 < 2 → zeros x 40 24 = true →
      (∀ l, planOf s c.job.ctx (rec8 x 2 2) = some l → Runs (.plan e) s fun u =>
        ceJob u e.val = some { c with entries := l, idx := 0 }) ∧
      (planOf s c.job.ctx (rec8 x 2 2) = none → Runs (.plan e) s fun u =>
        ceJob u e.val = some { c with status := some 0x23 })) ∧
    (∀ (e : Fin 16) (c : CopyJob) (st d : Nat) (y : Desc), ceJob s e.val = some c → c.status = some st → c.job.owner = .descriptor d →
      y ∈ s.hif.descs → y.id = d →
      (unacked s c.job.owner = false → Runs (.copyJobEnd e) s fun u => ceJob u e.val = none ∧
        rd u R.memCopies = rd s R.memCopies + 1 ∧ rd u (R.memCeStatus e.val) = 0 ∧ SameBytes s u ∧
        ∃ z ∈ u.hif.descs, z.id = d ∧ z.stage = .ended ∧ z.status = (if abortAsked s c.job.owner then 0x28 else st) ∧
          z.result = padTo 16 (leBytes 4 c.lines ++ leBytes 2 c.idx)) ∧
      (unacked s c.job.owner = true → Runs (.copyJobEnd e) s fun u => u = s)) ∧
    (∀ (e : Fin 16) (c : CopyJob), ceJob s e.val = some c → c.status = none → abortAsked s c.job.owner = false →
      Runs (.copyJobEnd e) s fun u => u = s)

/-- R262, R263: when a fenced range is released its redirect entry names the new place and every byte of the range reads as before; a
range that another still has to leave waits. R266, R267: an evacuated grant whose tile is free again is fenced and starts back. -/
def ruleFencedMovesKeepTheContents : Prop :=
  ∀ (s : State) (t : Fin 68), s.up = true → Inv s →
    (∀ m, tabGet none s.memx.moves t.val = some m → targetBusy s t.val m = false → s.heldWrites = [] → bit m.target 30 = false →
      (∀ j ∈ m.evac, j < 16) → (∀ j ∈ m.restore, j < 16) →
      Runs (.fenceRelease t) s fun u => rd u (R.memRedir t.val) = m.target ∧ tabGet none u.memx.moves t.val = none ∧
        ∀ a, a / 0x80000 = t.val → ldByte u a = ldByte s a) ∧
    (∀ m, tabGet none s.memx.moves t.val = some m → targetBusy s t.val m = true → Runs (.fenceRelease t) s fun u => u = s) ∧
    (tabGet none s.memx.moves t.val = none → Runs (.fenceRelease t) s fun u => u = s) ∧
    (∀ (j : Fin 16), tabGet none s.memx.restore j.val = some t.val → rb s (R.memNbr j.val) 31 = true → rb s (R.memNbr j.val) 30 = true →
      rf s (R.memNbr j.val) 22 16 < 68 → Runs (.restore j.val) s fun u => let h := rf s (R.memNbr j.val) 22 16
        rb u (R.memRedir h) 30 = true ∧ tabGet none u.memx.moves h = some ⟨BitVec.ofNat 32 (t.val * 0x10000), none, some j.val⟩ ∧
          tabGet none u.memx.restore j.val = none)

/-- R85, R263, R274: a release issues the stores that its range's fence holds: they leave the held ones, and when none is held any more
no store is unacknowledged, and every completion that waited for one is reported. -/
def ruleReleasedStoresAreAcknowledged : Prop :=
  ∀ (s : State) (t : Fin 68) (m : Move), s.up = true → tabGet none s.memx.moves t.val = some m → targetBusy s t.val m = false →
    bit m.target 30 = false → m.evac = none → m.restore = none →
    Runs (.fenceRelease t) s fun u => u.heldWrites = s.heldWrites.filter (fun e => decide (e.addr / 0x80000 ≠ t.val)) ∧
      ((∀ e ∈ s.heldWrites, e.addr / 0x80000 = t.val) → u.memx.unacked = [] ∧ u.memx.deferred = [] ∧ u.memx.signals = [] ∧
        ∀ d ∈ s.memx.deferred, ∀ r g, d.1 = .gate r g → ⟨d.1, d.2.1⟩ ∈ u.fgs.reports)

/-- R255, R276, R277, R279 to R281: the retrain interval takes the next channel in turn, counted and held, with an event when it fails.
The patrol reads its next line and moves on: a line in order leaves all else as it was, an error that the code corrects is counted
and gone, an uncorrectable line is counted, the address of the first of them captured; failing bursts of the line's channel are
repeated, retrain it when they go on, and set EDC_FAIL when they go on after that. -/
def ruleMemoryControllerPatrols : Prop :=
  ∀ (s : State), s.up = true → rb s R.gdrStatus 0 = true →
    (∀ (ch : Fin 16) (ok : Bool), ch.val = s.memx.retrain % 16 → Runs (.gdrRetrain ch ok) s fun u =>
      u.memx.retrain = (ch.val + 1) % 16 ∧ rd u R.gdrRetrainCnt = incSat (rd s R.gdrRetrainCnt) ∧
        bit (rd u (R.gdrChStatus ch.val)) 1 = true ∧ (ok = true → rd u R.gdrEvent = rd s R.gdrEvent) ∧
        (ok = false → bit (rd u R.gdrEvent) 3 = true) ∧ SameBytes s u) ∧
    (rb s R.gdrScrub 31 = true → s.memx.scrub < fittedLines s →
      let line := gdrBase + 64 * s.memx.scrub
      let moved := fun (u : State) => u.memx.scrub = (s.memx.scrub + 1) % fittedLines s ∧ SameBytes s u ∧ u.poison = s.poison
      (s.edc = [] → unitsIn s.flips line 64 = [] → unitsIn s.poison line 64 = [] → Runs .gdrScrubRead s fun u => moved u ∧
        SameRegsBut [R.gdrScrubPos] s u) ∧
      (s.edc = [] → unitsIn s.flips line 64 = [line] → unitsIn s.poison line 64 = [] → Runs .gdrScrubRead s fun u => moved u ∧
        line ∉ u.flips ∧ rd u R.gdrEccCorr = incSat (rd s R.gdrEccCorr) ∧ bit (rd u R.gdrEvent) 0 = true) ∧
      (s.edc = [] → unitsIn s.flips line 64 = [] → unitsIn s.poison line 64 = [line] → Runs .gdrScrubRead s fun u => moved u ∧
        rd u R.gdrEccUncorr = incSat (rd s R.gdrEccUncorr) ∧ bit (rd u R.gdrEvent) 1 = true ∧
        (rb s R.gdrEvent 1 = false → rd u R.gdrErrAddrLo = BitVec.ofNat 32 line)) ∧
      (∀ m, s.edc = [(channelOf line, m)] → Runs .gdrScrubRead s fun u => moved u ∧ u.edc = [] ∧
        rd u R.gdrEdcRetry = addSat (rd s R.gdrEdcRetry) (min m (edcMax s)) ∧
        (edcMax s < m → rd u R.gdrRetrainCnt = incSat (rd s R.gdrRetrainCnt) ∧ bit (rd u (R.gdrChStatus (channelOf line))) 1 = true) ∧
        (edcMax s + 1 < m → bit (rd u R.gdrEvent) 2 = true))) ∧
    (rb s R.gdrScrub 31 = false → Runs .gdrScrubRead s fun u => u = s)

/-- R262 to R267, R277 to R281: fenced moves keep what they move; the GDDR6 controller patrols and retrains. -/
def Obligations.TheMemoryTiersKeepTheirContents : Prop :=
  ruleFencedMovesKeepTheContents ∧ ruleReleasedStoresAreAcknowledged ∧ ruleMemoryControllerPatrols

/-! ### Fusion -/

/-- The covariance is symmetric with no diagonal entry below 1 LSB. -/
def covSound (s : State) : Prop := ∀ i j, i < tfuN s → j < tfuN s → mAt s.tfu.p i j = mAt s.tfu.p j i ∧ 1 ≤ mAt s.tfu.p i i

/-- What every predict does with its pose: it becomes the newest of the history, the covariance is sound, and the PDIV-th predict
since the last record forms one. -/
def predicted (s u : State) : Prop :=
  u.tfu.hist = (u.tfu.pose :: s.tfu.hist).take 2048 ∧ covSound u ∧
    (max 1 (rf s R.tfuEgoCfg 23 16) ≤ s.tfu.count + 1 → u.tfu.seq = s.tfu.seq + 1 ∧ rd u R.tfuPoseSeq = s.tfu.seq ∧ u.tfu.count = 0) ∧
    (s.tfu.count + 1 < max 1 (rf s R.tfuEgoCfg 23 16) → u.tfu.seq = s.tfu.seq ∧ u.tfu.count = s.tfu.count + 1 ∧ SameBytes s u)

/-- R288 to R294, R302, R303, R311: an enabled ego filter predicts with an output of the slot it takes, to that output's time, and takes
one of another slot off without a predict, keeping its samples where they are settled; with no slot delivering, the timer predicts to
DT with zero rate and velocity held; both wait while a job runs or the lanes take their known-answer test; after TFU_AID_TMO without
an applied update AIDED falls to INERTIAL; an enable that passes its checks clears the filter, another sets CONFIG and stays disabled,
one while enabled sets BUSY. -/
def Obligations.PredictsFollowTheInertialSource : Prop :=
  ∀ s : State, s.up = true →
    let en := rb s R.tfuEgoCfg 31
    (∀ o rest c, s.ifc.delivered = o :: rest → predictHeld s = false → takesOutput s o = some c → Runs .tfuPredict s fun u =>
      u.ifc.delivered = rest ∧ u.tfu.pose.time = o.time ∧ tfuSource u = c ∧ predicted s u) ∧
    (∀ o rest, s.ifc.delivered = o :: rest → predictHeld s = false → takesOutput s o = none →
      Runs .tfuPredict s fun u => u = noteGood { s with ifc := { s.ifc with delivered := rest } } o) ∧
    (predictHeld s = true → Runs .tfuPredict s fun u => u = s) ∧
    (en = true → noneDelivers s = true → predictHeld s = false → Runs .tfuTimerPredict s fun u =>
      u.tfu.pose.time = s.dt.now.toNat ∧ u.tfu.pose.vel = s.tfu.pose.vel ∧ u.tfu.rate = [0, 0, 0] ∧ tfuSource u = 2 ∧ predicted s u) ∧
    (en = false ∨ noneDelivers s = false ∨ predictHeld s = true → Runs .tfuTimerPredict s fun u => u = s) ∧
    (∀ t, s.tfu.aided = some t → tfuMode s = 2 → t.toNat + (rd s R.tfuAidTmo).toNat ≤ s.dt.now.toNat →
      Runs .tfuAidTimeout s fun u => tfuMode u = 1 ∧ rd u R.tfuEvent = rd s R.tfuEvent ||| 8 ∧
        SameRegsBut [R.tfuStatus, R.tfuEvent] s u ∧ u = { s with regs := u.regs }) ∧
    (s.tfu.aided = none ∨ tfuMode s ≠ 2 → Runs .tfuAidTimeout s fun u => u = s) ∧
    (∀ v : Word, let new := v &&& 0xFCFFFF00
      (en = true → bit new 31 = true → Runs (.tfuEgoCfgWrite v) s fun u => rd u R.tfuErr = rd s R.tfuErr ||| 4 ∧
        SameRegsBut [R.tfuErr, R.tfuErrInfo] s u ∧ u.tfu = s.tfu) ∧
      (bit new 31 = false → Runs (.tfuEgoCfgWrite v) s fun u => u = wr s R.tfuEgoCfg new) ∧
      (en = false → bit new 31 = true → egoEnableOk s new = true → Runs (.tfuEgoCfgWrite v) s fun u =>
        rd u R.tfuEgoCfg = new ∧ tfuMode u = 0 ∧ u.tfu.hist = [] ∧ u.tfu.pose = pose0 ∧ u.tfu.count = 0 ∧ u.tfu.seq = s.tfu.seq ∧
          SameBytes s u) ∧
      (en = false → bit new 31 = true → egoEnableOk s new = false → Runs (.tfuEgoCfgWrite v) s fun u =>
        rd u R.tfuEgoCfg = setBit new 31 false ∧ rd u R.tfuErr = rd s R.tfuErr ||| 2 ∧ u.tfu = s.tfu))

/-- The TFU has taken job `j`, of opcode `op`, and no known-answer test of its lanes is due. -/
def tfuDue (s : State) (op : Nat) (j : Job) (rest : List Job) : Prop := startedAt s 0x12 = j :: rest ∧ rec8 j.block 0 1 = op ∧
  s.safe.katDue = false

/-- R294 to R309: the job that the TFU has taken leaves it with its status. UPDATE of the ego filter corrects the pose by the gain of R298, or
ends ERR_NUMERIC where a pivot is not positive, ERR_LATE before the history; of an object, starts or updates its filter. RESET takes
the block's pose and clears the history. MOTION, with the latches of its start, writes its knots, REPORT the 2,048 bytes of its report, and no other byte. A block or
measurement record that fails a check ends ERR_DESCRIPTOR with TFU_ERR bit 0 set. While a known-answer test is due no job is worked. -/
def Obligations.FusionJobsDoTheirWork : Prop :=
  ∀ (s : State) (j : Job) (rest : List Job), s.up = true → Inv s →
    let b := j.block
    let a := rec8 b 8 8
    let done := fun (u : State) (st : Nat) => startedAt u 0x12 = rest ∧
      ∀ r g, j.owner = .gate r g → ends s u j.owner st
    (tfuDue s 1 j rest → ∀ units h, firstBad (updateChecks s b) = none → measUnits (rec8 b 2 1) = some units →
      badData s [(a, 160)] = false → let r := ldBytes s a 160
      let late := decide (s.tfu.pose.time < (rec8 r 0 8 : Int))
      let t := if late then s.tfu.pose.time else (rec8 r 0 8 : Int)
      let form := measForm r (rec8 b 2 1) units.length
      (form = false → Runs .update s fun u => done u 0x23 ∧ bit (rd u R.tfuErr) 0 = true ∧ SameBytes s u ∧ u.tfu = s.tfu) ∧
      (form = true →
        (histAt t s.tfu.hist none = none → Runs .update s fun u => done u 0x29 ∧ u.tfu.innov = s.tfu.innov + 1 ∧
          u.tfu.pose = s.tfu.pose ∧ u.tfu.p = s.tfu.p) ∧
        (histAt t s.tfu.hist none = some h → rec8 b 1 1 = 0 → rec8 b 2 1 = 3 → histAt (rec8 r 8 8) s.tfu.hist none = none →
          Runs .update s fun u => done u 0x29 ∧ u.tfu.pose = s.tfu.pose) ∧
        (histAt t s.tfu.hist none = some h →
          (rec8 b 1 1 = 0 → ∀ rp, rp = h ∧ rec8 b 2 1 ≠ 3 ∨ histAt (rec8 r 8 8) s.tfu.hist none = some rp ∧ rec8 b 2 1 = 3 →
            let im := egoInnov (tfuN s) (rec8 b 2 1) r h rp
            let k := kalman s.tfu.p (normH im.2 units ((List.range (tfuN s)).map (tfuExp s))) (measR r units.length)
              (List.zipWith raw24 im.1 units)
            (k.1 = none → Runs .update s fun u => done u 0x22 ∧ u.tfu.pose = s.tfu.pose ∧ u.tfu.innov = s.tfu.innov + 1) ∧
            (∀ x, k.1 = some x → Runs .update s fun u => done u (if late then 6 else tfuOk s) ∧
              u.tfu.pose = (fold s.tfu x.delta).pose ∧ rd u R.tfuUpdates = rd s R.tfuUpdates + 1 ∧ u.tfu.aided = some s.dt.now ∧
              tfuMode u = (if tfuMode s = 0 then 0 else 2) ∧ u.tfu.innov = s.tfu.innov + 1)) ∧
          (rec8 b 1 1 ≠ 0 → let k := rec8 b 1 1 - 1
            (tabGet none s.tfu.objs k = none → Runs .update s fun u => done u (if late then 6 else tfuOk s) ∧
              ∃ o, tabGet none u.tfu.objs k = some o ∧ o.time = t ∧ o.updates = 1) ∧
            (∀ o, tabGet none s.tfu.objs k = some o → Runs .update s fun u => u.tfu.pose = s.tfu.pose ∧
              ∃ q, tabGet none u.tfu.objs k = some q ∧ q.time = max t o.time ∧
                (done u 0x22 ∧ q.updates = o.updates ∨ done u (if late then 6 else tfuOk s) ∧ q.updates = o.updates + 1)))))) ∧
    (tfuDue s 1 j rest → ∀ k, firstBad (updateChecks s b) = some k → Runs .update s fun u => done u 0x23 ∧ bit (rd u R.tfuErr) 0 = true ∧
      SameBytes s u ∧ u.tfu = s.tfu) ∧
    (tfuDue s 2 j rest → firstBad [(0, rb s R.tfuEgoCfg 31), (8, engineRange s a 128), (24, zeros b 24 40)] = none →
      badData s [(a, 128)] = false → let r := ldBytes s a 128
      zeros r 32 16 = false → zeros r 60 4 = true → zeros r 112 16 = true → Runs .tfuReset s fun u => done u (tfuOk s) ∧
        u.tfu.hist = [] ∧ u.tfu.pose.time = rec8 r 0 8 ∧ u.tfu.pose.pos = [recS r 8 8, recS r 16 8, recS r 24 8] ∧
        u.tfu.pose.vel = [recS r 48 4, recS r 52 4, recS r 56 4] ∧ u.tfu.bg = [0, 0, 0] ∧ u.tfu.ba = [0, 0, 0] ∧
        tfuMode u = (if tfuMode s = 0 then 1 else tfuMode s) ∧ bit (rd u R.tfuEvent) 0 = true ∧ SameBytes s u) ∧
    (tfuDue s 3 j rest → let m := rec8 b 1 1
      let n := rec8 b 2 1
      let nk := rec8 b 3 1
      firstBad [(1, decide (m < 16) && fsEn s m && fsType s m == 1), (2, decide (n < 16) && fsEn s n && fsType s n == 0),
        (3, decide (2 ≤ nk ∧ nk ≤ 33)), (8, engineRange s a 48), (16, engineRange s (rec8 b 16 8) (64 * nk)), (24, zeros b 24 40)] = none →
      let lw := BitVec.ofNat 32 (j.latch.getD 0 0)
      let cw := BitVec.ofNat 32 (j.latch.getD 1 0)
      let la := fsBuf s m (fld lw 3 0)
      (bit lw 31 = false ∨ bit cw 31 = false → Runs .motion s fun u => done u 0x25 ∧ SameBytes s u ∧ u.tfu = s.tfu) ∧
      (bit lw 31 = true → bit cw 31 = true → s.tfu.hist ≠ [] →
        badData s [(la, 64), (fsBuf s n (fld cw 3 0), 64), (a, 48)] = false → badOut s [(rec8 b 16 8, 64 * nk)] = false →
        Runs .motion s fun u => u.tfu = s.tfu ∧ (done u (tfuOk s) ∨ done u 6) ∧ OnlyBytes s u (rec8 b 16 8) (64 * nk) ∧
          (plainRam s (rec8 b 16 8) (64 * nk) → ldN u (rec8 b 16 8) 8 = rec8 (ldBytes s la 64) 16 8))) ∧
    (tfuDue s 4 j rest → firstBad [(8, engineRange s a 2048), (24, zeros b 24 40)] = none → badOut s [(a, 2048)] = false →
      Runs .report s fun u => done u (tfuOk s) ∧ u.tfu.pose = s.tfu.pose ∧ u.tfu.p = s.tfu.p ∧ OnlyBytes s u a 2048 ∧
        (plainRam s a 2048 → ldBytes u a 8 = leBytesI 8 s.tfu.pose.time ∧
          ldN u (a + 16) 1 = ((List.range 31).filter fun k => rb s (R.tfuObjCfg k) 31).length)) ∧
    (s.safe.katDue = true → ∀ c ∈ [Instr.update, .tfuReset, .motion, .report], Runs c s fun u => u = s)

/-! ### Solver -/

/-- The job of gate owner `o` has left the engine with status `st`. -/
def reportedLast (s u : State) (o : Owner) (st : Nat) : Prop := ∀ r g, o = .gate r g → ends s u o st

/-- R361 to R364, R369, R372, R374: a started SOLVE is taken while none is; acceptance refuses a block that fails a check, writing one
byte, ends a solve whose pattern is not the schedule's with ERR_PATTERN, one past its deadline with ERR_DEADLINE before a pass,
and otherwise leaves iterate 0 running, or ends it where its first pass saturates or finds a pattern fault. -/
def Obligations.SolvesAreAcceptedInTurn : Prop :=
  ∀ (s : State) (j : Job), s.up = true →
    (∀ rest, startedAt s 0x13 = j :: rest → rec8 j.block 0 1 = 0x20 →
      (s.lse.taken = none → Runs .solve s fun u => u.lse = { s.lse with taken := some j } ∧ startedAt u 0x13 = rest ∧ u.mem = s.mem ∧
        u.regs = s.regs) ∧
      (s.lse.taken ≠ none → Runs .solve s fun u => u.lse = s.lse ∧ startedAt u 0x13 = j :: rest ∧ u.mem = s.mem ∧ u.regs = s.regs)) ∧
    (∀ rest, startedAt s 0x13 = j :: rest → rec8 j.block 0 1 ∉ [0x10, 0x11, 0x20] →
      ∀ c ∈ [Instr.solve, .preint, .build], Runs c s fun u => reportedLast s u j.owner 0x23 ∧ startedAt u 0x13 = rest ∧
        bit (rd u R.lseErr) 0 = true ∧ SameBytes s u) ∧
    (s.lse.taken = none ∨ s.lse.solve ≠ none ∨ engineHeld s 0x13 = true → Runs .solveAccept s fun u => u = s) ∧
    (s.lse.taken = some j → s.lse.solve = none → engineHeld s 0x13 = false →
      let dl := solveDeadline s j
      let img := solveImage j.block
      let out := solveOut j.block
      let ended := fun (u : State) (st : Nat) => u.lse.taken = none ∧ u.lse.solve = none ∧ reportedLast s u j.owner st ∧
        rd u R.lseSolves = rd s R.lseSolves + 1
      (∀ k, firstBad (solveChecks s j) = some k → Runs .solveAccept s fun u => ended u 0x23 ∧ bit (rd u R.lseErr) 0 = true ∧
        OnlyBytes s u (out + 29) 1) ∧
      (∀ sc x, firstBad (solveChecks s j) = none → schedSlot s (slotKey j.ctx (rec8 j.block 1 1)) = some x → x.sched = some sc →
        let reads := imageRanges img (ldBytes s img 64) ++ warmReads s j
        (badData s reads = true → Runs .solveAccept s fun u => ended u 0x26) ∧
        (badData s reads = false →
        (∀ k, imageBad s img = some k → Runs .solveAccept s fun u => ended u 0x23 ∧ OnlyBytes s u (out + 29) 1) ∧
        (imageBad s img = none → let pr := loadProblem s img
          let fits := pr.cls = sc.cls ∧ pr.v = sc.v ∧ pr.f = sc.f ∧ BitVec.ofNat 64 (crc64 (structBytes pr)) = sc.hash
          (¬ fits → Runs .solveAccept s fun u => ended u 0x2A ∧ rd u R.lsePatternCnt = incSat (rd s R.lsePatternCnt)) ∧
          (fits → abortAsked s j.owner = true → Runs .solveAccept s fun u => ended u 0x28) ∧
          (∀ d, fits → abortAsked s j.owner = false → dl = some d → d.toNat ≤ s.dt.now.toNat →
            Runs .solveAccept s fun u => ended u 0x20 ∧ rd u R.lseDlMissCnt = incSat (rd s R.lseDlMissCnt)) ∧
          (fits → abortAsked s j.owner = false → (∀ d, dl = some d → s.dt.now.toNat < d.toNat) →
            Runs .solveAccept s fun u => ended u 0x2A ∨ ended u 0x22 ∨
              ∃ v, u.lse.solve = some v ∧ u.lse.taken = none ∧ v.job = j ∧ v.accept = s.dt.now ∧ v.deadline = dl ∧ v.sched = sc ∧
                v.iters = 0 ∧ v.accepted = 0 ∧ v.lam = sc.lamInit ∧ v.epoch = s.mst.committed ∧ SameBytes s u ∧ u.fgs = s.fgs)))))

/-- R364 to R371: an iteration of the running solve is accepted when its cost is below the last and lowers the damping, else keeps the
iterate and raises it, and the solve goes on below its iteration limit and before its deadline; or the solve ends, its report
carrying a status the chapter gives, with the next solve, if one is taken, still in hand. An abort, a poisoned image and a
deadline seen at a check point end it with their statuses. -/
def ruleIterationsLowerTheCost : Prop :=
  ∀ (s : State) (v : Solve), s.up = true → s.lse.solve = some v →
    let ended := fun (u : State) (st : Nat) => u.lse.solve = none ∧ u.lse.taken = s.lse.taken ∧ reportedLast s u v.job.owner st ∧
      rd u R.lseSolves = rd s R.lseSolves + 1
    let img := solveImage v.job.block
    let bad := badData s (imageRanges img (ldBytes s img 64))
    (abortAsked s v.job.owner = false → bad = false → Runs .solveIterationEnd s fun u =>
      (∃ st ∈ [0, 2, 3, 4, 6, 0x20, 0x22, 0x2A], ended u st) ∨
      ∃ w, u.lse.solve = some w ∧ w.iters = v.iters + 1 ∧ w.job = v.job ∧ w.sched = v.sched ∧ w.iters < rec8 v.job.block 3 1 ∧
        (∀ d, v.deadline = some d → s.dt.now.toNat < d.toNat) ∧ SameBytes s u ∧ u.fgs = s.fgs ∧
        (w.accepted = v.accepted + 1 ∧ w.asm.cost < v.asm.cost ∧ w.lam = max (v.lam - v.sched.down) v.sched.lamMin ∨
          w.accepted = v.accepted ∧ w.asm = v.asm ∧ w.lam = min (v.lam + v.sched.up) v.sched.lamMax)) ∧
    (abortAsked s v.job.owner = true → Runs .solveIterationEnd s fun u => ended u 0x28 ∨ ended u 0x22) ∧
    (abortAsked s v.job.owner = false → bad = true → Runs .solveIterationEnd s fun u => ended u 0x26) ∧
    (∀ d, v.deadline = some d → d.toNat ≤ s.dt.now.toNat →
      Runs .solveDeadlineMiss s fun u => ended u (if abortAsked s v.job.owner then 0x28 else 0x20) ∨ ended u 0x22) ∧
    (v.deadline = none ∨ (∃ d, v.deadline = some d ∧ s.dt.now.toNat < d.toNat) → Runs .solveDeadlineMiss s fun u => u = s)

/-- R324, R325, R333, R334: a PREINT job whose block passes its checks writes the 512 bytes of its record and ends with status 0, or,
where the records of its slot do not cover its time, its status byte and ERR_STREAM_LOST's code; one that reads poisoned records ends with ERR_FAULT. A BUILD of a pose graph within
the slot's limits starts; when it ends, its schedule is the slot's under a new generation. What the builder orders is the
model's free choice; the statement holds for each. -/
def rulePreintegrationAndBuilds : Prop :=
  ∀ s : State, s.up = true →
    (∀ (j : Job) (rest : List Job), startedAt s 0x13 = j :: rest →
      let b := j.block
      let done := fun (u : State) (st : Nat) => startedAt u 0x13 = rest ∧ reportedLast s u j.owner st
      (rec8 b 0 1 = 0x10 →
        (∀ k, firstBad (preintChecks s b) = some k → Runs .preint s fun u => done u 0x23 ∧ bit (rd u R.lseErr) 0 = true ∧ SameBytes s u) ∧
        (firstBad (preintChecks s b) = none →
          let ring := (ringAddrs s (rec8 b 1 1)).map fun x => (x, ldBytes s x 64)
          let mine := ring.filter fun r => decide ((rec8 b 8 8 : Int) ≤ recTime r.2) && decide (recTime r.2 < (rec8 b 16 8 : Int))
          let covered := preintOk s b (ring.map Prod.snd) (mine.map Prod.snd)
          (badData s (mine.map fun r => (r.1, 64)) = true → Runs .preint s fun u => done u 0x26 ∧ SameBytes s u ∧ u.lse = s.lse) ∧
          (badData s (mine.map fun r => (r.1, 64)) = false → covered = true → Runs .preint s fun u => done u 0 ∧ OnlyBytes s u (rec8 b 48 8) 512 ∧
            rd u R.lsePreintCnt = rd s R.lsePreintCnt + 1 ∧ u.lse = s.lse) ∧
          (badData s (mine.map fun r => (r.1, 64)) = false → covered = false → Runs .preint s fun u => done u 0x25 ∧ OnlyBytes s u (rec8 b 48 8 + 21) 1 ∧ u.lse = s.lse))) ∧
      (rec8 b 0 1 = 0x11 → schedSlot s (slotKey j.ctx (rec8 b 1 1)) = none → Runs .build s fun u => done u 0x23 ∧ u.lse = s.lse) ∧
      (rec8 b 0 1 = 0x11 → ∀ x, schedSlot s (slotKey j.ctx (rec8 b 1 1)) = some x →
        let img := rec8 b 8 8
        let ok := firstBad [(1, decide (rec8 b 1 1 < 64) && x.buildable), (2, zeros b 2 6), (8, engineRange s img 64), (16, zeros b 16 48)]
        (∀ k, ok = some k → Runs .build s fun u => done u 0x23 ∧ u.lse = s.lse ∧ SameBytes s u) ∧
        (ok = none → badData s (imageRanges img (ldBytes s img 64)) = false → imageBad s img = none → let p := loadProblem s img
          (p.cls = 1 → p.v ≤ x.maxPoses → p.f ≤ x.maxFactors → Runs .build s fun u => startedAt u 0x13 = rest ∧ u.fgs.reports = s.fgs.reports ∧
            u.lse.builds = s.lse.builds ++ [⟨j, slotKey j.ctx (rec8 b 1 1), structBytes p⟩] ∧ rb u R.lseStatus 2 = true ∧
            schedSlot u (slotKey j.ctx (rec8 b 1 1)) = some { x with building := true } ∧ SameBytes s u) ∧
          (p.cls ≠ 1 ∨ x.maxPoses < p.v ∨ x.maxFactors < p.f → Runs .build s fun u => done u 0x23 ∧ u.lse = s.lse ∧ SameBytes s u)))) ∧
    (∀ (b : Build) (rest : List Build) (x : SchedSlot), s.lse.builds = b :: rest → schedSlot s b.key = some x →
      Runs .buildEnd s fun u => u.lse.builds = rest ∧ reportedLast s u b.job.owner 0 ∧ rd u R.lseBuildCnt = rd s R.lseBuildCnt + 1 ∧
        bit (rd u R.lseEvent) 2 = true ∧ SameBytes s u ∧ ∃ y, schedSlot u b.key = some y ∧
          y.sched = some (builtSchedule x.decl b.tables) ∧ y.gen = (x.gen + 1) % 2 ^ 32 ∧ (rest = [] → y.building = false)) ∧
    (s.lse.builds = [] → Runs .buildEnd s fun u => u = s)

/-- Iterations lower the cost; preintegration and builds leave their results. -/
def Obligations.SolverJobsDoTheirWork : Prop :=
  ruleIterationsLowerTheCost ∧ rulePreintegrationAndBuilds

/-! ### Place recognition -/

/-- The coordinator has taken job `j`, of opcode `op`, the map store is mounted, no query or insert runs and no commit or pin holds the
write lane. -/
def prsDue (s : State) (op : Nat) (j : Job) (rest : List Job) : Prop :=
  startedAt s 0x14 = j :: rest ∧ jobOp j = op ∧ s.prs.run = none ∧ mstStatus s 0 = true ∧ s.mst.write = none

/-- A query of block `b` has ended with status `st`: the coordinator is free, the query is counted, and its result is written where the
block says and nowhere else. -/
def queryEnded (s u : State) (j : Job) (st : Nat) : Prop :=
  u.prs.run = none ∧ reportedLast s u j.owner st ∧ rd u R.prsQueries = rd s R.prsQueries + 1 ∧
    OnlyBytes s u (rec8 j.block 24 8) (64 + 16 * qK j.block) ∧
    (plainRam s (rec8 j.block 24 8) (64 + 16 * qK j.block) → ldN u (rec8 j.block 24 8 + 13) 1 = st)

/-- The coordinator has handed a coarse job to the tiles: the job stands behind those that wait for the tiles, and the descriptors and the
centroid table of image `ix` lie in the coordinator's buffer (its layout is the model's choice, log entry 19). -/
def asksTiles (s u : State) (ix : List Byte) : Prop :=
  OnlyBytes s u (prsBuf s 0) (0x3000 + 260 * ixC ix) ∧ ∃ x, x.owner = .coordinator ∧ x.ctx = rf s R.prsCfg 27 24 ∧
    queueOf u 0x10 ++ joiningAt u 0x10 = queueOf s 0x10 ++ joiningAt s 0x10 ++ [x]

/-- R380 to R400: a QUERY that passes its checks hands its descriptor to the tiles, or ends at once where it is late, names an epoch that is
not retained, or finds no index; when the coarse job has ended, the lists of the best centroids are probed and their pages asked for; a unit scores
a page's valid items; with no page to come the merge ends the query, with at most K entries. -/
def Obligations.QueriesRunTheirStages : Prop :=
  ∀ (s : State), s.up = true → Inv s →
    (∀ (j : Job) (rest : List Job), prsDue s 1 j rest → ((List.range 8).any fun n => engineHeld s (0x40 + n)) = false →
      let b := j.block
      let e := if rec8 b 8 8 = 0 then s.mst.committed else rec8 b 8 8
      let fine := ((List.range 8).any fun n => engineDead s (0x40 + n)) = false ∧ abortAsked s j.owner = false
      (∀ k, queryBad s b = some k → Runs .query s fun u => u.prs.run = none ∧ reportedLast s u j.owner 0x23 ∧
        bit (rd u R.prsErr) 0 = true ∧ OnlyBytes s u (rec8 b 24 8 + 13) 1) ∧
      (queryBad s b = none → fine → prsLate s j = true → Runs .query s fun u => queryEnded s u j 0x20) ∧
      (queryBad s b = none → fine → prsLate s j = false → retained s e = false → Runs .query s fun u => queryEnded s u j 0x24) ∧
      (queryBad s b = none → fine → prsLate s j = false → retained s e = true → ((viewOf s e).getD (emptyView 0)).index = [] →
        Runs .query s fun u => queryEnded s u j 1) ∧
      (queryBad s b = none → fine → prsLate s j = false → retained s e = true → ((viewOf s e).getD (emptyView 0)).index ≠ [] →
        badData s [(rec8 b 16 8, 256)] = false → Runs .query s fun u => u.prs.run = some (newRun s j e) ∧ startedAt u 0x14 = rest ∧
          u.fgs.reports = s.fgs.reports ∧ asksTiles s u ((viewOf s e).getD (emptyView 0)).index)) ∧
    (∀ (r : PrsRun), s.prs.run = some r → jobOp r.job = 1 →
      (∀ st, r.coarse = some st → r.coarseDone = false → 0x20 ≤ st → st < 256 → Runs .prsCoarseEnd s fun u => queryEnded s u r.job st) ∧
      (∀ st, r.coarse = some st → r.coarseDone = false → st < 0x20 → abortAsked s r.job.owner = false → prsLate s r.job = false →
        let v := (viewOf s r.epoch).getD (emptyView 0)
        let lists := chosenLists s v.index 0 (qP r.job.block)
        (∀ p ∈ probePages s v lists, pageLost s p.pid = false) → Runs .prsCoarseEnd s fun u => SameBytes s u ∧ u.fgs = s.fgs ∧
          ∃ q, u.prs.run = some q ∧ q.coarseDone = true ∧ q.lists = lists ∧ q.pages = probePages s v lists ∧ q.job = r.job) ∧
      (∀ (su : Fin 8) p, r.pages.find? (fun p => p.su == su.val && p.arrived) = some p →
        (abortAsked s r.job.owner = true → Runs (.prsPageScan su) s fun u => queryEnded s u r.job 0x28) ∧
        (∀ t c x, abortAsked s r.job.owner = false → findPage s p.pid = some (t, c, x) → Runs (.prsPageScan su) s fun u =>
          SameBytes s u ∧ u.fgs = s.fgs ∧ rd u (R.prsSuPages p.su) = incSat (rd s (R.prsSuPages p.su)) ∧ ∃ q, u.prs.run = some q ∧
            q.pages = r.pages.filter (fun x => x.pid != p.pid) ∧ q.read = r.read + 1 ∧ q.lists = r.lists ∧ q.job = r.job ∧
            q.scored = r.scored + ((pageItems x.head x.body).filter Prod.snd).length)) ∧
      (∀ (su : Fin 8), r.pages.find? (fun p => p.su == su.val && p.arrived) = none → Runs (.prsPageScan su) s fun u => u = s) ∧
      (r.coarseDone = true → abortAsked s r.job.owner = false → r.pages = [] → Runs .prsQueryEnd s fun u =>
        ∃ st ∈ [0, 1, 5, 0x26], queryEnded s u r.job st ∧ (plainRam s (rec8 r.job.block 24 8) (64 + 16 * qK r.job.block) →
          ldN u (rec8 r.job.block 24 8 + 8) 4 ≤ qK r.job.block ∧
          (st = 0 → ldN u (rec8 r.job.block 24 8 + 8) 4 = qK r.job.block))) ∧
      (r.coarseDone = true → abortAsked s r.job.owner = true → Runs .prsQueryEnd s fun u => queryEnded s u r.job 0x28) ∧
      (r.coarseDone = false → Runs .prsQueryEnd s fun u => u = s) ∧
      (abortAsked s r.job.owner = false → r.pages ≠ [] → Runs .prsQueryEnd s fun u => u = s)) ∧
    (s.prs.run = none → ∀ c, c = .prsCoarseEnd ∨ c = .prsQueryEnd ∨ (∃ su, c = .prsPageScan su) → Runs c s fun u => u = s)

/-- R379, R386 to R388, R393, R395: inserts and deletes append entries to the side list, stamped with the open epoch, and never take one off;
the FILTER operations allow or forbid exactly the segments they name; DEFINE puts an image in force in the open epoch. A block
that fails its checks, or of an opcode the coordinator does not know, ends ERR_DESCRIPTOR. -/
def Obligations.TheSideListAndTheFilter : Prop :=
  ∀ (s : State) (j : Job) (rest : List Job), s.up = true →
    let b := j.block
    let done := fun (u : State) (st : Nat) => u.prs.run = none ∧ startedAt u 0x14 = rest ∧ reportedLast s u j.owner st
    let grows := fun (u : State) (n : Nat) (tomb : Bool) => ∃ l, u.mst.side = s.mst.side ++ l ∧ l.length ≤ n ∧
      ∀ e ∈ l, e.tomb = tomb ∧ e.stamp = openEpoch s
    let data := (rec8 b 16 8, 264 * rec8 b 4 4)
    (prsDue s 2 j rest → ∀ k, insertBad s b = some k → Runs .insert s fun u => done u 0x23 ∧ u.mst.side = s.mst.side ∧ SameBytes s u) ∧
    (prsDue s 2 j rest → insertBad s b = none → sideClosed s = none → badData s [data] = false → abortAsked s j.owner = false →
      Runs .insert s fun u => u.prs.run = some (newRun s j (openEpoch s)) ∧ startedAt u 0x14 = rest ∧ u.mst.side = s.mst.side ∧
        asksTiles s u (openIndex s)) ∧
    (∀ r, s.prs.run = some r → jobOp r.job = 2 → r.coarseDone = false →
      (∀ st, r.coarse = some st → s.mst.write ≠ none → Runs .prsCoarseEnd s fun u => u = s) ∧
      (∀ st, r.coarse = some st → s.mst.write = none → 0x20 ≤ st → Runs .prsCoarseEnd s fun u => u.prs.run = none ∧
        reportedLast s u r.job.owner st ∧ u.mst.side = s.mst.side ∧
        OnlyBytes s u (rec8 r.job.block 24 8) (4 * r.words.length)) ∧
      (∀ st, r.coarse = some st → s.mst.write = none → st < 0x20 → sideClosed s = none → abortAsked s r.job.owner = false →
        let n := rec8 r.job.block 4 4
        let next := r.group + min 32 (n - r.group)
        Runs .prsCoarseEnd s fun u => grows u (min 32 (n - r.group)) false ∧
          (u.prs.run = none ∧ (n ≤ next ∧ reportedLast s u r.job.owner (if st = 5 ∨ r.flags / 4 % 2 = 1 then 5 else 0) ∨
            reportedLast s u r.job.owner 1) ∨
            ∃ q, u.prs.run = some q ∧ q.group = next ∧ next < n ∧ q.words.length = r.words.length + min 32 (n - r.group)))) ∧
    (prsDue s 3 j rest → ∀ k, deleteBad s b = some k → Runs .prsDelete s fun u => done u 0x23 ∧ u.mst.side = s.mst.side ∧ SameBytes s u) ∧
    (prsDue s 3 j rest → deleteBad s b = none → sideClosed s = none → badData s [(rec8 b 16 8, 8 * rec8 b 4 4)] = false →
      abortAsked s j.owner = false → Runs .prsDelete s fun u => grows u (rec8 b 4 4) true ∧ (done u 0 ∨ done u 1) ∧
        OnlyBytes s u (rec8 b 24 8) (4 * rec8 b 4 4)) ∧
    (s.mst.write ≠ none → Runs .prsDelete s (fun u => u = s) ∧ Runs .define s fun u => u = s) ∧
    (prsDue s 4 j rest → zeros b 2 2 = true → zeros b 12 4 = true → zeros b 16 48 = true → abortAsked s j.owner = false →
      let a := rec8 b 4 4
      let n := rec8 b 8 4
      let only := fun (u : State) => done u 0 ∧ SameBytes s u ∧ u.mst.side = s.mst.side
      (rec8 b 1 1 = 0 → Runs .filterSetAll s fun u => only u ∧ ∀ g, segBlocked u g = false) ∧
      (rec8 b 1 1 = 1 → Runs .filterClearAll s fun u => only u ∧ ∀ g, g < 2 ^ 24 → segBlocked u g = true) ∧
      (rec8 b 1 1 = 2 → 1 ≤ n → a + n ≤ 2 ^ 24 → Runs .filterSetRange s fun u => only u ∧
        ∀ g, segBlocked u g = (segBlocked s g && !(decide (a ≤ g) && decide (g < a + n)))) ∧
      (rec8 b 1 1 = 3 → 1 ≤ n → a + n ≤ 2 ^ 24 → Runs .filterClearRange s fun u => only u ∧
        ∀ g, segBlocked u g = (segBlocked s g || (decide (a ≤ g) && decide (g < a + n)))) ∧
      (rec8 b 1 1 ∈ [2, 3] → n = 0 ∨ 2 ^ 24 < a + n → ∀ c, c = .filterSetRange ∧ rec8 b 1 1 = 2 ∨ c = .filterClearRange ∧ rec8 b 1 1 = 3 →
        Runs c s fun u => done u 0x23 ∧ u.prs.blocked = s.prs.blocked)) ∧
    (prsDue s 5 j rest → firstBad [(1, zeros b 1 15), (16, imageOk s (rec8 b 16 8)), (24, zeros b 24 40)] = none → sideClosed s = none →
      let im := ldBytes s (rec8 b 16 8) (ixSize (ldN s (rec8 b 16 8) 4))
      badData s [(rec8 b 16 8, im.length)] = false → abortAsked s j.owner = false → Runs .define s fun u => SameBytes s u ∧
        u.mst.side = s.mst.side ∧ (done u 0 ∧ openIndex u = im ∨ done u 0x26)) ∧
    (∀ op, prsDue s op j rest → op = 0 ∨ 5 < op → ∀ c ∈ [Instr.query, .insert, .prsDelete, .filterSetAll, .define], Runs c s fun u =>
      done u 0x23 ∧ bit (rd u R.prsErr) 0 = true ∧ SameBytes s u)

/-! ### Map store -/

/-- The next job of a lane of the map store is `j`, of opcode `op`, and the store takes it: mounted, and for the write lane not stopped,
not read-only and with no commit or pin in flight. -/
def mstDue (s : State) (read : Bool) (op : Nat) (j : Job) : Prop :=
  laneJob s read = some j ∧ jobOp j = op ∧ mstStatus s 0 = true ∧
    (read = false → s.mst.write = none ∧ mstStatus s 3 = false ∧ mstStatus s 8 = false)

/-- Job `j` of the map store has left its lane with status `st`. -/
def mstDone (s u : State) (j : Job) (st : Nat) : Prop :=
  startedAt u 0x15 = (startedAt s 0x15).erase j ∧ reportedLast s u j.owner st

/-- R411 to R421, R425, R438: PUT and DELETE add their records to the open epoch and change no epoch that a reader sees; COMMIT closes the
journal and waits for it; once the commit stripe is durable the open epoch is the committed one, its view visible, its swap due;
PIN and UNPIN change the pins when their stripe is durable. A stopped or read-only store ends what it has not begun. -/
def Obligations.WritesJoinTheOpenEpoch : Prop :=
  ∀ (s : State), s.up = true →
    let entries := fun (c : Instr) (j : Job) (n : Nat) (p : JRec → Prop) => Runs c s fun u => ∃ l, u.mst.records = s.mst.records ++ l ∧
      l.length ≤ n ∧ (∀ r ∈ l, p r) ∧ mstDone s u j (if l.length = n then 0 else 1) ∧ u.mst.committed = s.mst.committed ∧
      u.mst.views = s.mst.views ∧ OnlyBytes s u (rec8 j.block 24 8) (4 * n)
    let putChecks := fun (j : Job) => let b := j.block
      firstBad [(1, zeros b 1 3), (4, decide (1 ≤ rec8 b 4 4 ∧ rec8 b 4 4 ≤ 65536)), (12, zeros b 12 4),
        (16, jobRange s (rec8 b 16 8) (rec8 b 8 4)), (24, jobRange s (rec8 b 24 8) (4 * rec8 b 4 4)), (32, zeros b 32 32)]
    let delChecks := fun (j : Job) => let b := j.block
      firstBad [(1, zeros b 1 3), (4, decide (1 ≤ rec8 b 4 4 ∧ rec8 b 4 4 ≤ 65536)), (8, zeros b 8 8),
        (16, jobRange s (rec8 b 16 8) (8 * rec8 b 4 4)), (24, jobRange s (rec8 b 24 8) (4 * rec8 b 4 4)), (32, zeros b 32 32)]
    (∀ (j : Job) es, mstDue s false 1 j → putChecks j = none → badData s [(rec8 j.block 16 8, max 1 (rec8 j.block 8 4))] = false →
      splitPuts (rec8 j.block 4 4) (ldBytes s (rec8 j.block 16 8) (rec8 j.block 8 4)) = some es → abortAsked s j.owner = false →
      entries .put j (rec8 j.block 4 4) fun r => ∃ o, r = .put o ∧ o.epoch = openEpoch s ∧ o.tomb = false) ∧
    (∀ (j : Job) k, mstDue s false 1 j → putChecks j = some k → Runs .put s fun u => mstDone s u j 0x23 ∧ u.mst = s.mst ∧ SameBytes s u) ∧
    (∀ (j : Job), mstDue s false 2 j → delChecks j = none → badData s [(rec8 j.block 16 8, 8 * rec8 j.block 4 4)] = false →
      abortAsked s j.owner = false → entries .mstDelete j (rec8 j.block 4 4) fun r => ∃ ty id p, r = .tomb ty id p) ∧
    (∀ (j : Job) k, mstDue s false 2 j → delChecks j = some k →
      Runs .mstDelete s fun u => mstDone s u j 0x23 ∧ u.mst = s.mst ∧ SameBytes s u) ∧
    (∀ (j : Job), mstDue s false 3 j → firstBad [(1, zeros j.block 1 31), (32, zeros j.block 32 32)] = none → Runs .commit s fun u =>
      u.mst.committed = s.mst.committed ∧ u.mst.records = s.mst.records ∧ SameBytes s u ∧
        ((∃ w, u.mst.write = some w ∧ w.job = j ∧ w.epoch = openEpoch s ∧ u.mst.pages = [] ∧ u.fgs.reports = s.fgs.reports) ∨
          u.mst.write = none ∧ mstDone s u j 0x26)) ∧
    (∀ q rest w, s.mst.programming = ⟨q, .commit⟩ :: rest → s.mst.write = some w → Runs .commitDurable s fun u =>
      u.mst.committed = openEpoch s ∧ nextView s ∈ u.mst.views ∧ u.mst.records = [] ∧ u.mst.write = none ∧ u.mst.programming = rest ∧
        reportedLast s u w.job.owner 0 ∧ rd u R.mstCommits = rd s R.mstCommits + 1 ∧ bit (rd u R.mstEvent) 0 = true ∧
        rd u R.glbEpochLo = BitVec.ofNat 32 (openEpoch s) ∧ u.vis.swapDue = some (BitVec.ofNat 64 (openEpoch s)) ∧ SameBytes s u) ∧
    ((∀ q rest, s.mst.programming ≠ ⟨q, .commit⟩ :: rest) → Runs .commitDurable s fun u => u = s) ∧
    (∀ q rest, s.mst.programming = ⟨q, .journal⟩ :: rest → s.mst.write = none →
      Runs .stripeProgrammed s fun u => u = answered { s with mst := { s.mst with programming := rest } } q) ∧
    (∀ q rest w, s.mst.programming = ⟨q, .journal⟩ :: rest → s.mst.write = some w →
      (jobOp w.job ≠ 3 ∨ w.issued = true ∨ (∃ p ∈ rest, p.kind = .journal) →
        Runs .stripeProgrammed s fun u => u = answered { s with mst := { s.mst with programming := rest } } q) ∧
      (jobOp w.job = 3 → w.issued = false → (∀ p ∈ rest, p.kind ≠ .journal) → Runs .stripeProgrammed s fun u =>
        u.mst.committed = s.mst.committed ∧ SameBytes s u ∧ ((∃ k, u.mst.write = some { w with issued := true } ∧
          u.mst.programming = rest ++ [⟨k, .commit⟩]) ∨ u.mst.write = none ∧ reportedLast s u w.job.owner 0x26))) ∧
    (∀ q rest w, s.mst.programming = ⟨q, .pin⟩ :: rest → s.mst.write = some w → Runs .stripeProgrammed s fun u =>
      u.mst.programming = rest ∧ u.mst.write = none ∧ reportedLast s u w.job.owner 0 ∧ bit (rd u R.mstEvent) 1 = true ∧
        (jobOp w.job = 6 → u.mst.pins = addPin w.epoch s.mst.pins) ∧
        (jobOp w.job ≠ 6 → w.epoch ≠ 0 → w.epoch ∉ u.mst.pins)) ∧
    (∀ (j : Job) (pin : Bool), mstDue s false (if pin then 6 else 7) j → pinBad j = none →
      let e := pinEpoch s j
      let run := fun P => Runs (if pin then .pin else .unpin) s P
      let starts := fun (u : State) => u.mst.pins = s.mst.pins ∧ SameBytes s u ∧
        (u.mst.write = some ⟨j, e, true⟩ ∧ u.fgs.reports = s.fgs.reports ∨ u.mst.write = none ∧ mstDone s u j 0x26)
      (pin = true → retained s e = false → run fun u => mstDone s u j 0x24 ∧ u.mst = s.mst) ∧
      (pin = true → retained s e = true → s.mst.pins.contains e = true → run fun u => mstDone s u j 0 ∧ u.mst = s.mst) ∧
      (pin = true → retained s e = true → s.mst.pins.contains e = false → 3 ≤ pinCount s → run fun u => mstDone s u j 0x23 ∧
        bit (rd u R.mstErr) 2 = true ∧ u.mst = s.mst) ∧
      (pin = true → retained s e = true → s.mst.pins.contains e = false → pinCount s < 3 → run starts) ∧
      (pin = false → e ≠ 0 → s.mst.pins.contains e = true → run starts) ∧
      (pin = false → e = 0 ∨ s.mst.pins.contains e = false → run fun u => mstDone s u j 0x24 ∧ u.mst = s.mst)) ∧
    (∀ c ∈ [Instr.put, .mstDelete, .commit, .pin, .unpin], (s.mst.write ≠ none → Runs c s fun u => u = s) ∧
      ∀ j, laneJob s false = some j → s.mst.write = none → jobOp j = 0 ∨ 7 < jobOp j →
        (mstStatus s 0 = true → mstStatus s 3 = true → Runs c s fun u => mstDone s u j 0x28 ∧ u.mst = s.mst) ∧
        (mstStatus s 0 = true → mstStatus s 3 = false → mstStatus s 8 = true → Runs c s fun u => mstDone s u j 0x26 ∧ u.mst = s.mst) ∧
        (mstStatus s 0 = true → mstStatus s 3 = false → mstStatus s 8 = false → Runs c s fun u => mstDone s u j 0x23 ∧ u.mst = s.mst))

/-- R418, R419, R422 to R424: a READ of a retained epoch writes the image that the epoch gives, where its block says and nowhere else, and a
GET the records of its IDs while they fit; an epoch that is not retained ends ERR_EPOCH, a KEYFRAME the epoch lacks
ERR_DESCRIPTOR, a lost page ERR_FAULT. The map store itself does not change. -/
def Obligations.ReadsShowOneEpoch : Prop :=
  ∀ (s : State) (j : Job), s.up = true → Inv s →
    let b := j.block
    let a := rec8 b 24 8
    let v := (viewOf s (readEpoch s j)).getD (emptyView 0)
    let wrote := fun (u : State) (l : List Byte) => OnlyBytes s u a l.length ∧ (plainRam s a l.length → ldBytes u a l.length = l)
    let image := fun (c : Instr) (im : Image) =>
      let lost := (im.vars.any fun x => pageLost s x.page) || (im.edges.any fun o => pageLost s o.page)
      (lost = true → Runs c s fun u => mstDone s u j 0x26 ∧ SameBytes s u ∧ u.mst = s.mst) ∧
      (lost = false → imageFits im = true → (imageBytes im a).length ≤ capacity j →
        Runs c s fun u => mstDone s u j 0 ∧ wrote u (imageBytes im a) ∧ u.mst = s.mst) ∧
      (lost = false → imageFits im = false ∨ capacity j < (imageBytes im a).length →
        Runs c s fun u => mstDone s u j 0x23 ∧ SameBytes s u ∧ u.mst = s.mst)
    let records := fun (c : Instr) (rs : List (List Byte × Bool)) => let t := takeRecords (capacity j) rs [] 0 0
      Runs c s fun u => mstDone s u j (if t.2.1 < rs.length then 1 else 0) ∧ wrote u t.1 ∧ u.mst = s.mst
    (mstDue s true 4 j → readBad s j = none → rec8 b 1 1 = 0 → badData s [(rec8 b 16 8, 4 * rec8 b 4 4)] = false →
      (retained s (readEpoch s j) = false → Runs .readWindow s fun u => mstDone s u j 0x24 ∧ u.mst = s.mst) ∧
      (retained s (readEpoch s j) = true → abortAsked s j.owner = false →
        let fs := sequenceOpt ((List.range (rec8 b 4 4)).map fun i => objOf v 1 (ldN s (rec8 b 16 8 + 4 * i) 4))
        (∀ l, fs = some l → image .readWindow (windowImage v l)) ∧
        (fs = none → Runs .readWindow s fun u => mstDone s u j 0x23 ∧ SameBytes s u))) ∧
    (mstDue s true 4 j → ∀ k, readBad s j = some k → rec8 b 1 1 ≠ 1 → Runs .readWindow s fun u => mstDone s u j 0x23 ∧ SameBytes s u) ∧
    (mstDue s true 4 j → readBad s j = none → rec8 b 1 1 = 1 →
      (retained s (readEpoch s j) = false → Runs .readGraph s fun u => mstDone s u j 0x24 ∧ u.mst = s.mst) ∧
      (retained s (readEpoch s j) = true → abortAsked s j.owner = false → image .readGraph (graphImage v)) ∧
      (retained s (readEpoch s j) = true → abortAsked s j.owner = true → Runs .readGraph s fun u => mstDone s u j 0x28 ∧ u.mst = s.mst)) ∧
    (mstDue s true 5 j → getBad s j = none → retained s (readEpoch s j) = true → abortAsked s j.owner = false →
      badData s [(rec8 b 16 8, 4 * rec8 b 4 4)] = false →
      let ids := (List.range (rec8 b 4 4)).map fun i => ldN s (rec8 b 16 8 + 4 * i) 4
      let lost := ids.any fun i => (objOf v (rec8 b 1 1) i).any fun o => pageLost s o.page
      (rec8 b 1 1 ≠ 0x7E → lost = false → records .get (ids.map (getRecord s v (rec8 b 1 1)))) ∧
      (rec8 b 1 1 ≠ 0x7E → lost = true → Runs .get s fun u => mstDone s u j 0x26 ∧ SameBytes s u) ∧
      (rec8 b 1 1 = 0x7E → let first := ldN s (rec8 b 16 8) 4
        Runs .getBbx s fun u => ∃ e, let rs := (List.range (rec8 b 4 4)).map fun i => let q := (first + i) % 2 ^ 32
            (recordBytes 0 0 q e (tabGet [] s.mst.mirror q), (tabGet [] s.mst.mirror q).isEmpty)
          let t := takeRecords (capacity j) rs [] 0 0
          mstDone s u j (if t.2.1 < rs.length then 1 else 0) ∧ wrote u t.1 ∧ u.mst = s.mst)) ∧
    (mstDue s true 5 j → getBad s j = none → retained s (readEpoch s j) = false →
      (rec8 b 1 1 ≠ 0x7E → Runs .get s fun u => mstDone s u j 0x24 ∧ u.mst = s.mst) ∧
      (rec8 b 1 1 = 0x7E → Runs .getBbx s fun u => mstDone s u j 0x24 ∧ u.mst = s.mst)) ∧
    (mstDue s true 4 j → rec8 b 1 1 ≠ 1 → Runs .readGraph s fun u => u = s)

/-- R405, R408, R425 to R430, R436 to R440: a page read counts its codewords and marks a page that cannot be read; a die that does not report
ready twice in a row, or a second die with an uncorrectable codeword within a second, loses its channel; a failed program or erase
makes its block bad; a lost channel is off for good, the second makes the store read-only; the groomer works without changing
what is committed or pinned; mounting drops the open epoch, keeps what was committed while no journal stripe is beyond repair, and fails when no root can be
read; a format empties the store, and a falling PWR_FAIL_N stops it. -/
def Obligations.TheFlashIsKept : Prop :=
  ∀ (s : State), s.up = true →
    (∀ (ch : Fin 8) (q : Nat) (cws : List CwRead), (∀ t, stripeOf s q = some t → lostCh s ch.val = false → ch.val ∈ t.chans →
        let d := dieOf s t ch.val
        let kept := fun (u : State) => SameBytes s u ∧ u.mst.committed = s.mst.committed
        let other := s.mst.flash.uncorr.any fun e => e.1 == ch.val && e.2.1 != d && decide (s.dt.now.toNat ≤ e.2.2.toNat + 1000000000)
        (cws = [] → Runs (.flashPageRead ch q cws) s fun u => kept u ∧
          rd u (R.flcTimeouts ch.val) = incSat (rd s (R.flcTimeouts ch.val)) ∧
          ((ch.val, d) ∉ s.mst.flash.late → (ch.val, d) ∈ u.mst.flash.late ∧ lostCh u ch.val = false) ∧
          ((ch.val, d) ∈ s.mst.flash.late → lostCh u ch.val = true)) ∧
        (cws ≠ [] → Runs (.flashPageRead ch q cws) s fun u => kept u ∧ rd u (R.flcReads ch.val) = rd s (R.flcReads ch.val) + 1 ∧
          ((∀ w ∈ cws.take 4, w = .hard 0) → rd u (R.flcEvent ch.val) = rd s (R.flcEvent ch.val) ∧
            u.mst = (setFlash s fun x => { x with late := x.late.filter fun e => e != (ch.val, d) }).mst) ∧
          (.uncorrectable ∈ cws.take 4 → bit (rd u (R.flcEvent ch.val)) 2 = true ∧ (other = true → lostCh u ch.val = true) ∧
            (other = false → (q, ch.val) ∈ u.mst.flash.refresh ∧ ∃ x, stripeOf u q = some x ∧ ch.val ∈ x.unread)))) ∧
      (stripeOf s q = none ∨ lostCh s ch.val = true → Runs (.flashPageRead ch q cws) s fun u => u = s)) ∧
    (∀ (ch : Fin 8) (blk : Nat), lostCh s ch.val = false →
      (blk ∈ freeBlocks s ch.val → Runs (.flashProgramFail ch true blk) s fun u =>
        rd u (R.flcEraseFail ch.val) = incSat (rd s (R.flcEraseFail ch.val)) ∧ bit (rd u (R.flcEvent ch.val)) 3 = true ∧
          tabGet 0 u.mst.flash.bad (blockKey ch.val blk) = 2 ∧ u.mst.committed = s.mst.committed) ∧
      (blk ∉ freeBlocks s ch.val → Runs (.flashProgramFail ch true blk) s fun u => u = s) ∧
      (failingStripe s ch.val = none → Runs (.flashProgramFail ch false blk) s fun u => u = s) ∧
      (∀ t z e, failingStripe s ch.val = some t → zoneOf s t.zone = some z → z.blocks.find? (fun e => e.1 == ch.val) = some e →
        Runs (.flashProgramFail ch false blk) s fun u => rd u (R.flcProgFail ch.val) = incSat (rd s (R.flcProgFail ch.val)) ∧
          bit (rd u (R.flcEvent ch.val)) 3 = true ∧ tabGet 0 u.mst.flash.bad (blockKey ch.val e.2) = 2 ∧
          u.mst.committed = s.mst.committed)) ∧
    (∀ ch : Fin 8, (lostCh s ch.val = true → Runs (.flashChannelLost ch) s fun u => u = s) ∧
      (lostCh s ch.val = false → Runs (.flashChannelLost ch) s fun u => lostCh u ch.val = true ∧ bit (rd u (R.flcEvent ch.val)) 4 = true ∧
        mstStatus u 7 = true ∧ bit (rd u R.glbCap) (16 + ch.val) = false ∧ u.mst.committed = s.mst.committed ∧
        ((usableCh s).length = 8 → rf u R.mstStatus 6 4 = ch.val ∧ mstStatus u 8 = mstStatus s 8) ∧
        ((usableCh s).length < 8 → mstStatus u 8 = true ∧ u.mst.programming = [] ∧ u.mst.write = none) ∧
        (s.bbxQueue.length < 64 → ∃ r, u.bbxQueue = s.bbxQueue ++ [r] ∧ r.code = 0x0302))) ∧
    (let on := rb s R.mstCtrl 1 && mstStatus s 0 && !mstStatus s 3 && !mstStatus s 8 && s.mst.write.isNone;
      (on = false → Runs .groomTask s fun u => u = s) ∧
      (on = true → Runs .groomTask s fun u => u.mst.committed = s.mst.committed ∧ u.mst.pins = s.mst.pins ∧
        (∀ e ∈ u.mst.side, e ∈ s.mst.side) ∧ mstStatus u 2 = (groom (reclaim s)).isSome ∧ SameBytes s u)) ∧
    (let due := decide (s.aon.boot = .trained) && !mstStatus s 0 && !mstStatus s 10;
      (due = false → Runs .mapMount s fun u => u = s) ∧
      (due = true → Runs .mapMount s fun u => ∀ c, c < 8 → s.mst.flash.nand.dies.getD c 0 = 0 → lostCh u c = true) ∧
      (due = true → (∀ c, c < 8 → s.mst.flash.nand.dies.getD c 0 ≠ 0 ∨ lostCh s c = true) →
        (readableRoots s = [] → Runs .mapMount s fun u => mstStatus u 10 = true ∧ mstStatus u 0 = false) ∧
        (readableRoots s ≠ [] → Runs .mapMount s fun u => mstStatus u 0 = true ∧ rb u R.glbStatus 3 = true ∧
          bit (rd u R.mstEvent) 4 = true ∧ u.mst.records = [] ∧ u.mst.pages = [] ∧ u.mst.write = none ∧ u.mst.programming = [] ∧
          (∀ e ∈ u.mst.side, e.stamp ≤ u.mst.committed) ∧
          ((∀ t ∈ s.mst.flash.stripes, journalStripe s t = true → (deadChs s t).length < 2) →
            u.mst.committed = s.mst.committed ∨ u.mst.committed = openEpoch s)))) ∧
    (∀ v : Word, let go := decide (fld v 31 24 = 0xC3) && !rb s R.mstCtrl 0 && !mstStatus s 3;
      (go = false → Runs (.mstFormat v) s fun u => u = s) ∧
      (go = true → Runs (.mstFormat v) s fun u => mstStatus u 0 = true ∧ mstStatus u 10 = false ∧ rb u R.glbStatus 3 = true ∧
        u.mst.committed = 0 ∧ u.mst.views = [] ∧ u.mst.side = [] ∧ u.mst.records = [] ∧ u.mst.pins = [0, 0, 0] ∧
        u.mst.flash.stripes = [] ∧ u.mst.write = none ∧ rd u R.mstJrnlUsed = 0)) ∧
    (s.aon.failLow = true ∨ s.aon.boot = .off → Runs .pwrFail s fun u => u = { s with aon := { s.aon with failLow := true } }) ∧
    (s.aon.failLow = false → s.aon.boot ≠ .off → Runs .pwrFail s fun u => u.aon.failLow = true ∧ mstStatus u 3 = true ∧
      bit (rd u R.mstEvent) 5 = true ∧ bit (rd u R.pwrEvent) 0 = true ∧ (s.bbxQueue.length < 64 → ∃ r, u.bbxQueue = s.bbxQueue ++ [r] ∧
        r.code = 0x0405) ∧ ∀ w, s.mst.write = some w → jobOp w.job ≠ 3 → reportedLast s u w.job.owner 0x28)

/-! ### Host rings -/

/-- R446 to R453, R464, R465, R474: a good tail index is taken, a bad one sets HIF_ERR bit 2; a good head index frees its entries; of the SQs that contend for
a fetch the highest class goes first, and within a class the rings in turn; a fetch copies the entry at the head and advances it, a failed one stops its SQ; a ring is enabled only with a good size and base, an SQ only on
an enabled CQ; a disabled CQ discards what was held for it; an unmasked vector sends its pending message. -/
def Obligations.RingsFollowTheirRules : Prop :=
  ∀ (s : State), s.up = true →
    let err := fun (u : State) (b : Nat) => rd u R.hifErr = rd s R.hifErr ||| bitW b ∧ SameBytes s u ∧ u.hif = s.hif
    (∀ (k : Fin 64) (v : Word),
      (sqEn s k.val = true → fld v 15 0 < sqSize s k.val →
        Runs (.sqTailDoorbell k v) s fun u => u = wf s (R.hifSqTail k.val) 15 0 (fld v 15 0)) ∧
      (sqEn s k.val = false ∨ sqSize s k.val ≤ fld v 15 0 →
        Runs (.sqTailDoorbell k v) s fun u => err u 2 ∧ sqTail u k.val = sqTail s k.val) ∧
      (cqEn s k.val = true → cqIndexOk s k.val (fld v 15 0) = true → Runs (.cqHeadDoorbell k v) s fun u =>
        cqHead u k.val = fld v 15 0 ∧ SameBytes s u ∧ (cqOf u k.val).doorbell = s.dt.now ∧ let n := cqSize s k.val
          (cqOf u k.val).entries = (cqOf s k.val).entries.drop ((fld v 15 0 + n - cqHead s k.val) % n)) ∧
      (cqEn s k.val = false ∨ cqIndexOk s k.val (fld v 15 0) = false →
        Runs (.cqHeadDoorbell k v) s fun u => err u 2 ∧ cqHead u k.val = cqHead s k.val)) ∧
    (∀ k : Fin 64,
      (cqTimed s k.val = false → Runs (.cqCoalesceTimer k) s fun u => u = s) ∧
      (cqTimed s k.val = true → cqEn s k.val = true → bit (rd s (R.hifCqCfg k.val)) 30 = true → rb s (R.hifCqStatus k.val) 29 = true →
        Runs (.cqCoalesceTimer k) s fun u => rb u (R.hifCqStatus k.val) 29 = false ∧ SameBytes s u ∧ u.hif.descs = s.hif.descs ∧
          u.hif.hold = s.hif.hold ∧ cqOf u k.val = { cqOf s k.val with sent := some s.dt.now } ∧
          let v := fld (rd s (R.hifCqCfg k.val)) 22 16
          let again := (cqOf s k.val).sent = some s.dt.now ∧ (cqOf s k.val).doorbell = s.dt.now
          (again → u.msixSent = s.msixSent) ∧
          (¬ again → rb s (R.hifMsixTable (4 * v + 3)) 0 = false → hostReach s = true → u.msixSent = s.msixSent ++ [v])) ∧
      let still := ∀ r ∈ s.fgs.runs, r.recorded = false
      (still → (∀ c ∈ s.hif.hold, c.cq ≠ k.val) → Runs (.completionHoldRelease k) s fun u => u = s) ∧
      (still → (∃ c ∈ s.hif.hold, c.cq = k.val) → cqEn s k.val = true → cqFull s k.val = true →
        Runs (.completionHoldRelease k) s fun u => u = s) ∧
      (still → (∃ c ∈ s.hif.hold, c.cq = k.val) → cqEn s k.val = true → cqFull s k.val = false →
        Runs (.completionHoldRelease k) s fun u => u.hif.hold.length < s.hif.hold.length)) ∧
    (∀ (k : Fin 64) (rivals : List (Fin 64)) (ok : Bool),
      let l := (k.val :: rivals.map Fin.val).filter (mayFetch s)
      (l = [] → Runs (.descriptorFetch k ok rivals) s fun u => u = s) ∧
      (∀ q, sqServed s s.hif.fetchTurn l = some q →
        let good := ok && !poisoned s (hostBase + sqEntry s q) 64
        q ∈ l ∧ (∀ p ∈ l, sqClass s p ≤ sqClass s q ∧
          (sqClass s p = sqClass s q → sqAfter s s.hif.fetchTurn q ≤ sqAfter s s.hif.fetchTurn p)) ∧
        (good = true → Runs (.descriptorFetch k ok rivals) s fun u => u.hif.descs = s.hif.descs ++ [newDesc s q] ∧
          sqHead u q = (sqHead s q + 1) % sqSize s q % 65536 ∧ rd u (R.hifSqFetched q) = rd s (R.hifSqFetched q) + 1 ∧
          SameBytes s u) ∧
        (good = false → Runs (.descriptorFetch k ok rivals) s fun u => rd u R.hifErr = rd s R.hifErr ||| 8 ∧ SameBytes s u ∧
          u.hif = { s.hif with fetchTurn := s.hif.fetchTurn.set (sqClass s q) q } ∧ sqEn u q = false ∧ sqHead u q = sqHead s q))) ∧
    (∀ (k : Fin 64) (v : Word),
      (let base := (rd64 s (R.hifSqBaseLo k.val) (R.hifSqBaseHi k.val)).toNat
        let ok := ringOk (fld v 4 0) base 64 && cqEn s (fld v 21 16)
        let w := v &&& 0xB03F001F
        (bit v 31 = true → sqEn s k.val = true ∨ rb s (R.hifSqStatus k.val) 31 = true → Runs (.sqConfigWrite k v) s fun u =>
          err u 1 ∧ rd u (R.hifSqCfg k.val) = rd s (R.hifSqCfg k.val)) ∧
        (bit v 31 = false → Runs (.sqConfigWrite k v) s fun u => rd u (R.hifSqCfg k.val) = w ∧ u.hif = s.hif ∧ SameBytes s u) ∧
        (bit v 31 = true → sqEn s k.val = false → rb s (R.hifSqStatus k.val) 31 = false → ok = true →
          Runs (.sqConfigWrite k v) s fun u => rd u (R.hifSqCfg k.val) = w ∧ sqHead u k.val = 0 ∧ sqTail u k.val = 0 ∧ u.hif = s.hif) ∧
        (bit v 31 = true → sqEn s k.val = false → rb s (R.hifSqStatus k.val) 31 = false → ok = false →
          Runs (.sqConfigWrite k v) s fun u => err u 0 ∧ sqEn u k.val = false)) ∧
      (let ok := ringOk (fld v 4 0) (rd64 s (R.hifCqBaseLo k.val) (R.hifCqBaseHi k.val)).toNat 32
        let w := v &&& 0xC07F001F
        (cqEn s k.val = true → bit v 31 = true ∨ cqNamed s k.val = true → Runs (.cqConfigWrite k v) s fun u =>
          err u 1 ∧ rd u (R.hifCqCfg k.val) = rd s (R.hifCqCfg k.val)) ∧
        (cqEn s k.val = true → bit v 31 = false → cqNamed s k.val = false → Runs (.cqConfigWrite k v) s fun u =>
          rd u (R.hifCqCfg k.val) = w ∧ (∀ c ∈ u.hif.hold, c.cq ≠ k.val) ∧ SameBytes s u) ∧
        (cqEn s k.val = false → bit v 31 = false → Runs (.cqConfigWrite k v) s fun u => u = wr s (R.hifCqCfg k.val) w) ∧
        (cqEn s k.val = false → bit v 31 = true → ok = true → Runs (.cqConfigWrite k v) s fun u => rd u (R.hifCqCfg k.val) = w ∧
          cqHead u k.val = 0 ∧ cqTail u k.val = 0 ∧ rb u (R.hifCqStatus k.val) 31 = true ∧ rb u (R.hifCqStatus k.val) 29 = true ∧
          cqOf u k.val = ⟨[], s.dt.now, none⟩) ∧
        (cqEn s k.val = false → bit v 31 = true → ok = false → Runs (.cqConfigWrite k v) s fun u => err u 0 ∧ cqEn u k.val = false))) ∧
    (∀ (v : Word), ∀ x ∈ [(Instr.poseRingConfigWrite v, R.hifPoseCfg, R.hifPoseLo, R.hifPoseHi, 128, (0x807FFF1F : Word)),
        (Instr.evtRingConfigWrite v, R.hifEvtCfg, R.hifEvtLo, R.hifEvtHi, 32, (0x807F001F : Word))],
      let (c, cfg, lo, hi, e, m) := x
      let ok := ringOk (fld v 4 0) (rd64 s lo hi).toNat e
      (bit v 31 = true → rb s cfg 31 = true → Runs c s fun u => err u 1 ∧ rd u cfg = rd s cfg) ∧
      (bit v 31 = false ∨ rb s cfg 31 = false ∧ ok = true → Runs c s fun u => u = wr s cfg (v &&& m)) ∧
      (bit v 31 = true → rb s cfg 31 = false → ok = false → Runs c s fun u => err u 0 ∧ rd u cfg = rd s cfg)) ∧
    (∀ v : Fin 128, Runs (.msixUnmask v) s fun u => rb u (R.hifMsixTable (4 * v.val + 3)) 0 = false ∧ SameBytes s u ∧
      rb u (R.hifMsixPba (v.val / 32)) (v.val % 32) = false ∧
      (rb s (R.hifMsixPba (v.val / 32)) (v.val % 32) = true → hostReach s = true → u.msixSent = s.msixSent ++ [v.val]) ∧
      (rb s (R.hifMsixPba (v.val / 32)) (v.val % 32) = false → u.msixSent = s.msixSent))

/-- The work of the descriptor of an id has ended with a status. -/
def descEnded (u : State) (id st : Nat) : Prop := ∃ y ∈ u.hif.descs, y.id = id ∧ y.stage = .ended ∧ y.status = st

/-- Descriptor `d` stands at a stage. -/
def descAt (u : State) (d : Desc) (g : DescStage) : Prop := ∃ y ∈ u.hif.descs, y.id = d.id ∧ y.stage = g ∧ y.bytes = d.bytes

/-- R450, R453 to R457: of the SQs that contend for a dispatch one is served, as for a fetch; at the dispatch point of an SQ a descriptor is checked, held by its fence, its gate and its semaphore in that order,
and goes on; a bad header ends it ERR_DESCRIPTOR and its deadline, while it is held, ERR_DEADLINE; when its work has ended it signals
and its completion is written, held for a full ring, or counted as discarded. -/
def Obligations.DescriptorsPassTheirHolds : Prop :=
  ∀ (s : State), s.up = true →
    (∀ (k : Fin 64) (rivals : List (Fin 64)), let l := (k.val :: rivals.map Fin.val).filter (mayDispatch s)
      (l = [] → Runs (.descriptorDispatch k rivals) s fun u => u = s) ∧
      (∀ q d, sqServed s s.hif.dispatchTurn l = some q → headDesc s q = some d → unacked s (.descriptor d.id) = false →
        let run := fun P => Runs (.descriptorDispatch k rivals) s P
        let waits := fun (P : Prop) =>
          (P → dWait d = 0xFFFF → run fun u => descAt u d .waited ∧ u.sem = s.sem ∧ SameBytes s u) ∧
          (P → dWait d ≠ 0xFFFF → run fun u => descAt u d .waitHold ∧ u.sem.count = s.sem.count ∧ ∃ w,
            u.sem.waiters = s.sem.waiters ++ [w] ∧ w.owner = .descriptor d.id ∧ w.idx = dWait d % 4096 ∧ w.sub = dFlag d 0 ∧
            w.expiry = (if dDeadline d = 0 then none else some (dDeadline d)))
        let blocked := dFlag d 2 && fenceBlocked s d
        let atFence := (d.stage = .fetched ∧ descHeaderBad d = none) ∨ d.stage = .fenceHold
        cqRoom s d.cq = true ∧ q ∈ l ∧ (∀ p ∈ l, sqClass s p ≤ sqClass s q ∧
          (sqClass s p = sqClass s q → sqAfter s s.hif.dispatchTurn q ≤ sqAfter s s.hif.dispatchTurn p)) ∧
        (∀ b, d.stage = .fetched → descHeaderBad d = some b → run fun u => descEnded u d.id 0x23 ∧ u.sem = s.sem ∧
          ∃ y ∈ u.hif.descs, y.id = d.id ∧ y.noSignal = true ∧ y.result = padTo 16 (leBytes 2 b)) ∧
        (atFence → blocked = true → run fun u => descAt u d .fenceHold ∧ u.sem = s.sem) ∧
        (atFence → blocked = false → dGate d ≠ 0xFFFFFFFF → gateArmed s (dGate d) = true → run fun u => descAt u d .gateHold ∧ u.sem = s.sem) ∧
        (atFence → blocked = false → dGate d ≠ 0xFFFFFFFF → gateArmed s (dGate d) = false → run fun u => descEnded u d.id 0x23) ∧
        waits (atFence ∧ blocked = false ∧ dGate d = 0xFFFFFFFF) ∧ waits (d.stage = .gateFired) ∧
        (d.stage = .gateHold → run fun u => descEnded u d.id 0x28) ∧
        (∀ ok, d.stage = .waitHold → s.sem.done = [(.descriptor d.id, ok)] → run fun u => u.sem.done = [] ∧
          (ok = true → descAt u d .waited) ∧ (ok = false → descEnded u d.id 0x20)))) ∧
    (∀ (k : Fin 64) (d : Desc), headDesc s k.val = some d →
      (cqRoom s d.cq = false ∨ d.stage = .gateHold ∧ d.gateLost = false → Runs (.descriptorDispatch k []) s fun u => u = s) ∧
      (d.stage ≠ .waitHold → dDeadline d ≠ 0 → dDeadline d ≤ s.dt.now.toNat → heldNow s d = true →
        unacked s (.descriptor d.id) = false → Runs (.descriptorDeadline k) s fun u => descEnded u d.id 0x20) ∧
      (d.stage ≠ .waitHold → dDeadline d = 0 ∨ s.dt.now.toNat < dDeadline d ∨ heldNow s d = false →
        Runs (.descriptorDeadline k) s fun u => u = s)) ∧
    (∀ (k : Fin 64), headDesc s k.val = none → Runs (.descriptorDispatch k []) s (fun u => u = s) ∧
      Runs (.descriptorDeadline k) s fun u => u = s) ∧
    (∀ (x : Desc), findDesc s x.id = some x → x.stage = .ended →
      let run := fun P => Runs (.descriptorComplete x.id) s P
      let gone := fun (u : State) => u.hif.descs = s.hif.descs.filter fun y => y.id != x.id
      let entry := hostBase + (rd64 s (R.hifCqBaseLo x.cq) (R.hifCqBaseHi x.cq)).toNat + 32 * cqTail s x.cq
      (signals x = true → dSignal x < 4096 → run fun u =>
        (semCount u (dSignal x)).toNat = min ((semCount s (dSignal x)).toNat + rec8 x.bytes 24 4) 0xFFFFFFFF) ∧
      (signals x = false → run fun u => u.sem = s.sem) ∧
      (x.sq < 64 → x.cq < 64 → x.lost = true → run fun u => gone u ∧ rd u R.hifDiscardCnt = incSat (rd s R.hifDiscardCnt) ∧
        u.mem = s.mem) ∧
      (x.sq < 64 → x.cq < 64 → x.lost = false → cqEn s x.cq = false →
        run fun u => gone u ∧ rd u R.hifDiscardCnt = incSat (rd s R.hifDiscardCnt)) ∧
      (x.sq < 64 → x.cq < 64 → x.lost = false → cqEn s x.cq = true → cqBlocked s x.cq = false → run fun u => gone u ∧
        u.hif.hold = s.hif.hold ∧ rd u R.hifDescCnt = rd s R.hifDescCnt + 1 ∧
        (hostReach s = true → entry + 32 ≤ hostBase + 0x800000000000 → ldN u entry 4 = dTag x ∧ ldN u (entry + 4) 1 = x.status % 256)) ∧
      (x.sq < 64 → x.cq < 64 → x.lost = false → cqEn s x.cq = true → cqBlocked s x.cq = true → s.hif.hold.length < 512 →
        run fun u => gone u ∧ u.hif.hold = s.hif.hold ++ [descCompletion x]) ∧
      (x.lost = false → cqEn s x.cq = true → cqBlocked s x.cq = true → 512 ≤ s.hif.hold.length → run fun u => descAt u x .signalled)) ∧
    (∀ d, findDesc s d = none → Runs (.descriptorComplete d) s fun u => u = s)

/-- R458 to R463: what each opcode does with a descriptor that has passed its waits: NOP and a good CONFIG end with status 0, LAUNCH creates a run,
ABORT reports how many it aborted, ARM arms its gate or says why not, DISARM reports the gate's firings, the job opcodes join the
queue of their unit or wait for room, LOAD makes its context resident only when authentic, well-formed and fitting, and with no
switchover of the control pair in progress, UNLOAD frees
it when nothing of it is in flight. A form an opcode does not have ends ERR_DESCRIPTOR. -/
def Obligations.OpcodesDoTheirWork : Prop :=
  ∀ (s : State) (d : Nat), s.up = true → unacked s (.descriptor d) = false →
    (∀ p : Package, ∀ x ∈ [(Instr.nop d, 0x00), (.configPtpAsym d, 0x01), (.configPtpAnnTmo d, 0x01), (.launch d, 0x20), (.abort d, 0x21),
        (.arm d, 0x30), (.disarm d true, 0x31), (.disarm d false, 0x31), (.descCopy d, 0x40), (.descSolve d, 0x50), (.descPrs d, 0x60),
        (.descMst d, 0x70), (.load d p, 0x10)], handed s d x.2 = none → Runs x.1 s fun u => u = s) ∧
    (∀ x, handed s d 0x00 = some x → Runs (.nop d) s fun u => descEnded u d (if dZero x 32 32 then 0 else 0x23) ∧ SameBytes s u ∧
      u.sem = s.sem ∧ u.fgs.runs = s.fgs.runs) ∧
    (∀ x, handed s d 0x01 = some x → let q := rec8 x.bytes 32 2
      (q = 1 → configForm x = true → -1000000 ≤ configValue x → configValue x ≤ 1000000 → Runs (.configPtpAsym d) s fun u =>
        descEnded u d 0 ∧ u.ptp = { s.ptp with asym := configValue x }) ∧
      (q = 1 → configForm x = false ∨ configValue x < -1000000 ∨ 1000000 < configValue x → Runs (.configPtpAsym d) s fun u =>
        descEnded u d 0x23 ∧ u.ptp = s.ptp) ∧
      (q = 2 → configForm x = true → 2 ≤ configValue x → configValue x ≤ 10 → Runs (.configPtpAnnTmo d) s fun u =>
        descEnded u d 0 ∧ u.ptp = { s.ptp with annTmo := (configValue x).toNat }) ∧
      (q = 2 → configForm x = false ∨ configValue x < 2 ∨ 10 < configValue x → Runs (.configPtpAnnTmo d) s fun u =>
        descEnded u d 0x23 ∧ u.ptp = s.ptp) ∧
      (q ≠ 1 → q ≠ 2 → ∀ c ∈ [Instr.configPtpAsym d, .configPtpAnnTmo d], Runs c s fun u => descEnded u d 0x23 ∧ u.ptp = s.ptp)) ∧
    (∀ x, handed s d 0x20 = some x → let g := rec8 x.bytes 32 1
      let bad := !dZero x 33 31 || decide (64 ≤ g) || !ctxLoaded s (dCtx x)
      (bad = true → Runs (.launch d) s fun u => descEnded u d 0x23 ∧ u.fgs.runs = s.fgs.runs) ∧
      (bad = false → launchTest s g (dCtx x) = .accepted → Runs (.launch d) s fun u => descAt u x .dispatched ∧
        ∃ r, u.fgs.runs = s.fgs.runs ++ [r] ∧ r.graph = g ∧ r.cursor = 0 ∧ r.desc = some d) ∧
      (bad = false → launchTest s g (dCtx x) = .failed → Runs (.launch d) s fun u => descEnded u d 0x28 ∧ u.fgs.runs = s.fgs.runs ∧
        bit (rd u R.fgsErr) 0 = true) ∧
      (bad = false → launchTest s g (dCtx x) = .overrun → Runs (.launch d) s fun u => descEnded u d 0x28 ∧ u.fgs.runs = s.fgs.runs ∧
        rd u (R.fgsGraphOvr g) = incSat (rd s (R.fgsGraphOvr g)))) ∧
    (∀ x, handed s d 0x21 = some x → let g := rec8 x.bytes 32 1
      (dZero x 33 31 = false ∨ 64 ≤ g → Runs (.abort d) s fun u => descEnded u d 0x23 ∧ u.fgs.runs = s.fgs.runs) ∧
      (dZero x 33 31 = true → g < 64 → graphOf s g = none → Runs (.abort d) s fun u => descEnded u d 0x23 ∧ bit (rd u R.fgsErr) 1 = true) ∧
      (dZero x 33 31 = true → g < 64 → graphOf s g ≠ none → Runs (.abort d) s fun u => descEnded u d 0 ∧
        ∃ y ∈ u.hif.descs, y.id = d ∧ y.result = padTo 16 (leBytes 4 (runsOf s g).length))) ∧
    (∀ x, handed s d 0x30 = some x → let n := rec8 x.bytes 32 2
      (armForm s x = false ∨ gateArmed s n = true → Runs (.arm d) s fun u => descEnded u d 0x23 ∧ gateArmed u n = gateArmed s n) ∧
      (armForm s x = true → gateArmed s n = false →
        (armTest (writeArm s x) n = .armed → Runs (.arm d) s fun u => descEnded u d 0 ∧ gateArmed u n = true ∧
          gateFire u n = BitVec.ofNat 64 (rec8 x.bytes 40 8)) ∧
        (armTest (writeArm s x) n = .late → Runs (.arm d) s fun u => descEnded u d 0x29 ∧ gateArmed u n = false) ∧
        (armTest (writeArm s x) n = .badTarget → Runs (.arm d) s fun u => descEnded u d 0x23 ∧ gateArmed u n = false))) ∧
    (∀ x b, handed s d 0x31 = some x → let n := rec8 x.bytes 32 2
      let bad := !dZero x 34 30 || decide (n < 32) || decide (511 < n)
      let said := fun (u : State) (v : State) (f : Bool) => descEnded u d 0 ∧
        ∃ y ∈ u.hif.descs, y.id = d ∧ y.result = padTo 16 (disarmResult v n f)
      let z := disarmIn s n b
      (bad = true → Runs (.disarm d b) s fun u => descEnded u d 0x23 ∧ gateArmed u n = gateArmed s n) ∧
      (bad = false → gateArmed s n = false → Runs (.disarm d b) s fun u => said u s (b && (firedNow s).contains n) ∧ u.sg = s.sg) ∧
      (bad = false → gateArmed s n = true → Runs (.disarm d b) s fun u => said u z.1 z.2 ∧ gateArmed u n = false ∧
        ∀ q ∈ u.sg.due, q.gate ≠ n)) ∧
    (let joins := fun (c : Instr) (x : Desc) (k : Nat) (b : List Byte) (l : List Nat) =>
        ((queueOf s k).length < 8 → joiningAt s k = [] → Runs c s fun u => descAt u x .dispatched ∧
          queueOf u k = queueOf s k ++ [⟨.descriptor d, k, dCtx x, 0, b, none, l⟩] ∧ SameBytes s u) ∧
        (8 ≤ (queueOf s k).length → Runs c s fun u => descAt u x .waited ∧ queueOf u k = queueOf s k ∧ SameBytes s u);
      (∀ x, handed s d 0x40 = some x → let m := rec8 x.bytes 32 1
        let k := rec8 x.bytes 34 2
        let ok := dZero x 33 1 && dZero x 36 4 && dZero x 48 16 && ctxLoaded s (dCtx x)
        (ok = true → m = 0 → k ≤ 255 → joins (.descCopy d) x 0x11 ([3, 0] ++ leBytes 2 k ++ leBytes 60 0) []) ∧
        (ok = true → m = 1 → arrayOk s (rec8 x.bytes 40 8) k = true → joins (.descCopy d) x 0x11 (leBytes 64 0) [k, rec8 x.bytes 40 8]) ∧
        (ok = false ∨ 1 < m ∨ m = 0 ∧ 255 < k ∨ m = 1 ∧ arrayOk s (rec8 x.bytes 40 8) k = false →
          Runs (.descCopy d) s fun u => descEnded u d 0x23 ∧ u.fgs.queues = s.fgs.queues)) ∧
      (∀ x, handed s d 0x50 = some x → let ok := dZero x 37 1 && dZero x 58 6 && ctxLoaded s (dCtx x)
        (ok = true → joins (.descSolve d) x 0x13 (solveBlock x.bytes) (deadlineLatch x)) ∧
        (ok = false → Runs (.descSolve d) s fun u => descEnded u d 0x23 ∧ u.fgs.queues = s.fgs.queues)) ∧
      (∀ x, handed s d 0x60 = some x → joins (.descPrs d) x 0x14 (slice x.bytes 32 32 ++ leBytes 32 0) (deadlineLatch x)) ∧
      (∀ x, handed s d 0x70 = some x → joins (.descMst d) x 0x15 (slice x.bytes 32 32 ++ leBytes 32 0) [])) ∧
    (∀ x p, handed s d 0x10 = some x → let c := dCtx x
      let a := rec8 x.bytes 32 8
      let n := rec8 x.bytes 40 4
      let s1 := noteReads s [(a, n)]
      let why := packageReason s1 n (ldBytes s1 a 512) (ldBytes s1 (a + 512) (n - 512))
      let good := (goodContent c (placePackage s1 c p)).1
      let room := (nofit s1 c p).isNone && decide (p.graphs.length ≤ (freeGraphs s1).length)
      let run := fun P => Runs (.load d p) s P
      (loadForm s x = false ∨ ctxLoaded s c = true → run fun u => descEnded u d 0x23 ∧ u.memx = s.memx) ∧
      (loadForm s x = true → ctxLoaded s c = false →
        (s.safe.switching ≠ none → run fun u => descEnded u d 0x26 ∧ u.memx = s.memx) ∧
        (s.safe.switching = none →
          (badData s [(a, n)] = true → run fun u => descEnded u d 0x26 ∧ u.memx = s.memx) ∧
          (badData s [(a, n)] = false → why ≠ none → run fun u => descEnded u d 0x27 ∧ u.memx = s.memx) ∧
          (badData s [(a, n)] = false → why = none →
            (good = false → run fun u => descEnded u d 0x23 ∧ u.memx = s.memx) ∧
            (good = true → room = false → run fun u => descEnded u d 0x21 ∧ u.memx = s.memx) ∧
            (good = true → room = true → run fun u => descEnded u d 0 ∧ ctxLoaded u c = true))))) ∧
    (∀ x, findDesc s d = some x → dOpcode x = 0x11 →
      (x.stage = .waited → cqRoom s x.cq = true → dZero x 32 32 = false → Runs (.unload d) s fun u => descEnded u d 0x23 ∧ u.memx = s.memx) ∧
      (x.stage = .waited → cqRoom s x.cq = true → dZero x 32 32 = true →
        (ctxLoaded s (dCtx x) = false → Runs (.unload d) s fun u => descEnded u d 0 ∧ u.memx = s.memx) ∧
        (ctxLoaded s (dCtx x) = true → s.fgs.runs = [] → (∀ e, ceJob s e = none) →
          Runs (.unload d) s fun u => descEnded u d 0 ∧ ctxLoaded u (dCtx x) = false)) ∧
      (x.stage = .dispatched → ctxBusy s (dCtx x) = false → Runs (.unload d) s fun u => descEnded u d 0 ∧ ctxLoaded u (dCtx x) = false) ∧
      (x.stage = .dispatched → ctxBusy s (dCtx x) = true → Runs (.unload d) s fun u => u = s))

/-- R443, R445, R472, R507, R552, R554: the debug window reads and writes the slab and usable GDDR6, is refused elsewhere and in secure mode; a
PCIe reset puts every HIF register but HIF_DISCARD_CNT at its reset value, counts the completions it discards and raises source
387; the link comes up at the speed and width trained, no wider than the straps allow. -/
def Obligations.WindowAndLink : Prop :=
  ∀ (s : State),
    (s.up = true → ∀ (off : Nat), let a := winAddr s off
      let inside := fun n => inDebugWindow s a n
      (bar4Size ≤ off → ∀ acc, Runs (.bar4Access off acc) s fun u => u = s) ∧
      (off < bar4Size → rb s R.glbStatus 4 = true → (∀ n, Runs (.bar4Access off (.read n)) s fun u => u.rdata = 0 ∧
          rd u R.glbErr = rd s R.glbErr ||| 8 ∧ SameBytes s u) ∧
        (∀ l, Runs (.bar4Access off (.write l)) s fun u => rd u R.glbErr = rd s R.glbErr ||| 8 ∧ SameBytes s u)) ∧
      (off < bar4Size → rb s R.glbStatus 4 = false →
        (∀ n, inside n = false → Runs (.bar4Access off (.read n)) s fun u => u.rdata = 0 ∧ rd u R.hifErr = rd s R.hifErr ||| 16 ∧
          SameBytes s u) ∧
        (∀ l, inside l.length = false → Runs (.bar4Access off (.write l)) s fun u => rd u R.hifErr = rd s R.hifErr ||| 16 ∧
          SameBytes s u) ∧
        (∀ n, inside n = true → glideRefused s a (min n 8) = false → Runs (.bar4Access off (.read n)) s fun u =>
          u = { noteReads s [(a, min n 8)] with rdata := BitVec.ofNat 64 (ldN s a (min n 8)) }) ∧
        (∀ l, inside l.length = true → plainRam s a l.length → Runs (.bar4Access off (.write l)) s fun u =>
          OnlyBytes s u a l.length ∧ ldBytes u a l.length = l ∧
            (s.flips = [] → s.poison = [] → s.edc = [] → u.regs = s.regs)))) ∧
    (∀ k : PcieReset, (s.up = false → Runs (.pcieReset k) s fun u =>
        u = { s with aon := { s.aon with perstLow := s.aon.perstLow || decide (k = .perst) } }) ∧
      (s.up = true → Runs (.pcieReset k) s fun u => (∀ b, b / 65536 = 0x30 → b ≠ R.hifDiscardCnt → rd u b = resetVal b) ∧
        rd u R.hifDiscardCnt = addSat (rd s R.hifDiscardCnt) s.hif.hold.length ∧ u.hif.hold = [] ∧ u.hif.cq = [] ∧ u.evtNext = 0 ∧
        (∀ y ∈ u.hif.descs, y.lost = true ∧ beforeUnit y.stage = false) ∧ SameBytes s u ∧
        (∀ b, b / 65536 ≠ 0x30 → rd u b = rd s b) ∧
        (activeAny s 387 = false → inSet u.evc.held 387 = true) ∧ (activeAny s 387 = true → inSet u.evc.latch 387 = true))) ∧
    Runs .perstRelease s (fun u => u = { s with aon := { s.aon with perstLow := false } }) ∧
    (∀ (speed width : Nat), s.up = true → let ok := !s.aon.perstLow && decide (1 ≤ speed) && decide (speed ≤ 5) && decide (1 ≤ width) && decide (width ≤ 8)
      (ok = true → Runs (.linkUp speed width) s fun u => rb u R.hifStatus 0 = true ∧ rf u R.hifStatus 23 20 = speed ∧
        rf u R.hifStatus 19 16 = (if s.straps.getLsbD 3 then min width 4 else width) ∧ SameRegsBut [R.hifStatus] s u ∧
          u = { s with regs := u.regs }) ∧
      (ok = false → Runs (.linkUp speed width) s fun u => u = s))

/-! ### Faults -/

/-- Safe state for a class row: the fabric held, the writers gated, ALERT_N low, and a FATAL record of the row where the AOM's queue has
room. -/
def wentSafe (s u : State) (row : Nat) : Prop :=
  u.up = false ∧ u.gated = true ∧ u.safe.inSafe = true ∧ 0 ∈ u.aon.alerts ∧ u.mem = s.mem ∧
    (s.bbxQueue.length < 64 → ∃ r ∈ u.bbxQueue, r.code = 0x0206 ∧ r.dt = s.dt.now ∧ rec8 r.args 0 1 = row)

/-- One transient counted, the fabric running on. -/
def wasTransient (s u : State) : Prop :=
  u.up = true ∧ rd u R.safeTransientCnt = incSat (rd s R.safeTransientCnt) ∧ bit (rd u R.safeEvent) 0 = true ∧ SameBytes s u ∧
    (s.bbxQueue.length < 64 → ∃ r, u.bbxQueue = s.bbxQueue ++ [r] ∧ r.code = 0x0202)

/-- Event source `n` has been raised. -/
def raised (s u : State) (n : Nat) : Prop :=
  (activeAny s n = false → inSet u.evc.held n = true) ∧ (activeAny s n = true → inSet u.evc.latch n = true)

/-- Control pair `p` is retired: STANDBY_OK is 0 and the loss is flagged. -/
def pairRetired (u : State) (p : Nat) : Prop :=
  p ∈ u.safe.retired ∧ rb u R.glbStatus 2 = false ∧ rb u R.safeStatus 8 = true ∧ bit (rd u R.safeEvent) 3 = true ∧ u.safe.coreTest = none

/-- R478, R480 to R488, R511: each detected fault takes the action of its class row. A fault of the active pair, or its watchdog, starts a
switchover where a standby is ready and leads to safe state where none is; the switchover makes the other pair active and tests the
old one, whose pass restores the standby and whose failure retires it. A lane mismatch that repeats calls for known-answer tests,
which retire the lane that fails. The filter chain fails on a repeated mismatch; a repeated writer mismatch, fabric logic, the
periodic tests and the clock monitor lead to safe state. A first mismatch is a transient, until the retirement count. -/
def Obligations.FaultsTakeTheirActions : Prop :=
  ∀ (s : State), s.up = true →
    let u0 := unitOf R.safeCtrl
    let ready := rb s R.glbStatus 2 && s.safe.switching.isNone
    (ready = true → Runs .controlPairFault s (fun u => u.safe.switching = some (activePair s, s.dt.now) ∧ raised s u 421 ∧ u.up = true ∧
        SameRegsBut [] s u) ∧
      Runs .watchdogExpire s fun u => u.safe.switching = some (activePair s, s.dt.now) ∧ raised s u 422 ∧ raised s u 421 ∧ u.up = true) ∧
    (ready = false → Runs .controlPairFault s (wentSafe s · 5) ∧ Runs .watchdogExpire s (wentSafe s · 5)) ∧
    (∀ ok, s.safe.switching = none → Runs (.switchoverComplete ok) s fun u => u = s) ∧
    (∀ ok p t, s.safe.switching = some (p, t) → p ≤ 1 → let good := ok && s.safe.mirror.isSome
      (good = true → Runs (.switchoverComplete ok) s fun u => activePair u = 1 - p ∧ rb u R.glbStatus 2 = false ∧
        u.safe.switching = none ∧ u.safe.coreTest = some (p, true) ∧ rd u R.safeSwitchCnt = incSat (rd s R.safeSwitchCnt) ∧
        rd u R.glbTakeoverCnt = incSat (rd s R.glbTakeoverCnt) ∧ u.safe.poseTakeover = true ∧ activeAt u p = []) ∧
      (good = false → Runs (.switchoverComplete ok) s (wentSafe s · 5))) ∧
    (∀ pass, s.safe.coreTest = none → Runs (.standbySelftestEnd pass) s fun u => u = s) ∧
    (∀ pass p f, s.safe.coreTest = some (p, f) →
      (pass = false → Runs (.standbySelftestEnd pass) s fun u => pairRetired u p ∧ bit (rd u R.safeEvent) 2 = true) ∧
      (pass = true → f = true → transientExhausted s u0 p = true → Runs (.standbySelftestEnd pass) s fun u => pairRetired u p) ∧
      (pass = true → f = false ∨ transientExhausted s u0 p = false → Runs (.standbySelftestEnd pass) s fun u =>
        rb u R.glbStatus 2 = true ∧ u.safe.coreTest = none ∧ u.safe.mirror = some s.dt.now ∧ u.safe.retired = s.safe.retired ∧
        (f = true → rd u R.safeTransientCnt = incSat (rd s R.safeTransientCnt)))) ∧
    (s.safe.switching ≠ none → Runs .standbyFault s (wentSafe s · 5)) ∧
    (s.safe.switching = none → rb s R.glbStatus 2 = true → Runs .standbyFault s fun u => pairRetired u (1 - activePair s)) ∧
    (s.safe.switching = none → rb s R.glbStatus 2 = false → Runs .standbyFault s fun u => u = s) ∧
    (let out := transientExhausted s (unitOf R.tfuCtrl) 0;
      (out = false → Runs (.tfuLaneMismatch false) s fun u => wasTransient s u ∧ u.safe.katDue = s.safe.katDue) ∧
      (∀ again, again = true ∨ out = true → rb s R.safeStatus 9 = false → Runs (.tfuLaneMismatch again) s fun u => u.safe.katDue = true ∧
        u.up = true ∧ u.tfu = s.tfu) ∧
      (rb s R.safeStatus 9 = true → Runs (.tfuLaneMismatch true) s (wentSafe s · 6))) ∧
    (∀ a b, s.safe.katDue = false → Runs (.tfuKatEnd a b) s fun u => u = s) ∧
    (∀ a b, s.safe.katDue = true → a ≠ b → rb s R.safeStatus 9 = false → Runs (.tfuKatEnd a b) s fun u => rb u R.safeStatus 9 = true ∧
      u.safe.katDue = false ∧ rd u R.glbTakeoverCnt = incSat (rd s R.glbTakeoverCnt) ∧ u.safe.poseTakeover = true ∧ u.up = true ∧
      rb u R.glbStatus 5 = true) ∧
    (∀ a b, s.safe.katDue = true → a = b ∨ rb s R.safeStatus 9 = true → Runs (.tfuKatEnd a b) s (wentSafe s · 6)) ∧
    (∀ again, s.ifc.failed = true → Runs (.ifcMismatch again) s fun u => u = s) ∧
    (∀ again, s.ifc.failed = false → let bad := again || transientExhausted s (unitOf R.ifcCtrl) 0
      (bad = false → Runs (.ifcMismatch again) s fun u => wasTransient s u ∧ u.ifc = s.ifc) ∧
      (bad = true → Runs (.ifcMismatch again) s fun u => u.ifc.failed = true ∧ rb u R.safeStatus 10 = true ∧
        bit (rd u R.safeEvent) 4 = true ∧ u.up = true)) ∧
    (let out := transientExhausted s (unitOf R.hifCtrl) 0;
      (out = false → Runs (.hifWriterMismatch false) s (wasTransient s)) ∧
      Runs (.hifWriterMismatch true) s (wentSafe s · 9) ∧
      (out = true → Runs (.hifWriterMismatch false) s fun u => u.up = false ∧ u.gated = true ∧ u.safe.inSafe = true)) ∧
    Runs .fabricLogicMismatch s (wentSafe s · 10) ∧ Runs (.periodicTest none) s (fun u => u = s) ∧
    Runs (.periodicTest (some 0)) s (wentSafe s · 16) ∧ Runs (.periodicTest (some 1)) s (wentSafe s · 15) ∧
    Runs .clockFault s (wentSafe s · 14)

/-- R480, R481, R489, R490: a faulty engine ends its job ERR_FAULT and tests itself, returning after a pass and FAILED after a failure; a checker
that fails its injection counts as a permanent fault of what it guards. A rotation step fences the range of the next logical tile
of its piste and moves it to the free tile, gives up when no job boundary comes in time, and makes the released tile free again
after its test, or FAILED. -/
def Obligations.EnginesAndTilesAreTested : Prop :=
  ∀ (s : State), s.up = true →
    (∀ e : Engine, let c := engineCode e
      (engineDead s c = true ∨ engineHeld s c = true → Runs (.engineFault e) s fun u => u = s) ∧
      (engineDead s c = false → engineHeld s c = false →
        Runs (.engineFault e) s (fun u => engineHeld u c = true ∧ engineDead u c = false ∧ u.up = true) ∧
        (∀ v j, e = .vision v → visJob s (visCode v) = some j → Runs (.engineFault e) s fun u =>
          visJob u (visCode v) = none ∧ reportedLast s u j.owner 0x26) ∧
        (∀ v, e = .lse → s.lse.solve = some v → startedAt s 0x13 = [] → Runs (.engineFault e) s fun u =>
          u.lse.solve = none ∧ u.lse.taken = s.lse.taken ∧ reportedLast s u v.job.owner 0x26) ∧
        (∀ n r, e = .schuss n → s.prs.run = some r → jobOp r.job = 1 → Runs (.engineFault e) s fun u => queryEnded s u r.job 0x26)) ∧
      (∀ pass, engineHeld s c = false → Runs (.engineSelftestEnd e pass) s fun u => u = s) ∧
      (engineHeld s c = true → transientExhausted s (engineUnit e) (engineInst e) = false →
        Runs (.engineSelftestEnd e true) s fun u => wasTransient s u ∧ engineHeld u c = false ∧ u.safe.engineFailed = s.safe.engineFailed) ∧
      (∀ pass, engineHeld s c = true → pass = false ∨ transientExhausted s (engineUnit e) (engineInst e) = true →
        Runs (.engineSelftestEnd e pass) s fun u => engineHeld u c = false ∧ engineDead u c = true ∧ bit (rd u R.safeEvent) 4 = true)) ∧
    (∀ k, Runs (.checkerTest k true) s fun u => u = s) ∧
    (let failed := fun (k : CheckedUnit) (P : State → Prop) => Runs (.checkerTest k false) s fun u => P u ∧ bit (rd u R.safeEvent) 2 = true ∧
        bit (rd u R.safeEvent) 5 = true;
      (∀ n : Fin 68, failed (.tile n) fun u => rb u (R.ttChkLast n.val) 30 = true ∧ bit (rd u (R.ttEvent n.val)) 3 = true) ∧
      (rb s R.glbStatus 2 = true → s.safe.switching = none → failed .activePair fun u =>
        u.safe.switching = some (activePair s, s.dt.now) ∧ raised s u 421) ∧
      (rb s R.glbStatus 2 = false ∨ s.safe.switching ≠ none → failed .activePair fun u => u.safe.inSafe = true ∧ u.up = false) ∧
      failed .standbyPair (fun u => pairRetired u (1 - activePair s)) ∧
      (∀ b, rb s R.safeStatus 9 = false → failed (.tfuLane b) fun u => rb u R.safeStatus 9 = true ∧ u.safe.poseTakeover = true) ∧
      (∀ b, rb s R.safeStatus 9 = true → failed (.tfuLane b) fun u => u.safe.inSafe = true ∧ u.up = false) ∧
      failed .ifc (fun u => u.ifc.failed = true ∧ rb u R.safeStatus 10 = true) ∧
      failed .writers (fun u => u.safe.inSafe = true ∧ u.up = false) ∧
      failed .fabricLogic (fun u => u.safe.inSafe = true ∧ u.up = false) ∧
      (∀ e, failed (.engine e) fun u => engineDead u (engineCode e) = true)) ∧
    (∀ p : Fin 4,
      let at_ := rf s R.safeRotPos (7 * p.val + 6) (7 * p.val) % 16
      let idle := !rb s R.safeCtrl 0 || rb s R.safeStatus (4 + p.val)
      (rotOf s p.val = none → idle = true → Runs (.rotationStep p) s fun u => u = s) ∧
      (rotOf s p.val = none → idle = false → freeTile s p.val = none → Runs (.rotationStep p) s fun u => rb u R.safeStatus (4 + p.val) = true ∧
        u.safe = s.safe ∧ u.memx = s.memx) ∧
      (∀ f l n, rotOf s p.val = none → idle = false → freeTile s p.val = some f → nextRotated s p.val at_ = some (l, n) →
        s.safe.takeover = none → (∀ t ∈ s.tiles.running, l ∉ t.p.tiles) → l < 64 → Runs (.rotationStep p) s fun u =>
          (∃ r, rotOf u p.val = some r ∧ r.stage = .moving ∧ r.logical = l ∧ r.old = n ∧ r.standIn = f) ∧
          fenced u (localBase l) = true ∧ tabGet none u.memx.moves (homeOf l) = some ⟨toTile f, none, none⟩) ∧
      (∀ f l n, rotOf s p.val = none → idle = false → freeTile s p.val = some f → nextRotated s p.val at_ = some (l, n) →
        s.safe.takeover ≠ none ∨ (∃ t ∈ s.tiles.running, l ∈ t.p.tiles) → Runs (.rotationStep p) s fun u =>
          ∃ r, rotOf u p.val = some r ∧ r.stage = .waiting ∧ r.logical = l ∧ r.since = s.dt.now) ∧
      (∀ r, rotOf s p.val = some r → r.stage = .waiting → r.since.toNat + 1000 * (rd s R.safeRotWait).toNat ≤ s.dt.now.toNat →
        Runs (.rotationWaitTimeout p) s fun u => rotOf u p.val = none ∧ rd u R.safeRotSkip = incSat (rd s R.safeRotSkip) ∧ u.memx = s.memx) ∧
      (rotOf s p.val = none ∨ (∃ r, rotOf s p.val = some r ∧ (r.stage ≠ .waiting ∨
          s.dt.now.toNat < r.since.toNat + 1000 * (rd s R.safeRotWait).toNat)) →
        Runs (.rotationWaitTimeout p) s fun u => u = s) ∧
      (∀ r pass, rotOf s p.val = some r → r.stage = .testing → r.old < 68 → Runs (.rotationSelftestEnd p pass) s fun u =>
        rotOf u p.val = none ∧ (pass = true → ttState u r.old = 3 ∧ ∀ j, r.grant = some j →
          tabGet none u.memx.restore j = some r.old) ∧
        (pass = false → ttState u r.old = 7 ∧ bit (rd u R.safeEvent) 2 = true)) ∧
      (∀ pass, (rotOf s p.val = none ∨ ∃ r, rotOf s p.val = some r ∧ r.stage ≠ .testing) →
        Runs (.rotationSelftestEnd p pass) s fun u => u = s))

/-- R484, R491 to R496, R505: the oldest queued record is written with the writer's sequence, boot count and CRC into its slot of the MRAM and
leaves the queue; at a scheduling boundary the active pair writes its mirror while a standby receives it, and on the way to GLIDE
CPB hands over to CPA. -/
def Obligations.RecordsAndMirrorsAreWritten : Prop :=
  ∀ (s : State),
    (s.bbxQueue = [] → Runs .bbxRecordWritten s fun u => u = s) ∧
    (∀ r rest, s.bbxQueue = r :: rest → s.bbx.slots ≤ 16384 → 0 < s.bbx.slots → nextSlot s.bbx < s.bbx.slots →
      Runs .bbxRecordWritten s fun u => u.bbxQueue = rest ∧
      u.bbx.seq = s.bbx.seq + 1 ∧ u.bbx.gen = s.bbx.gen + 1 ∧ rd u R.safeBbxSeq = s.bbx.seq + 1 ∧
      (∀ i, i < 64 → tabGet 0 u.bbx.mram (4096 + 64 * nextSlot s.bbx + i) = (bbxBytes s.bbx r).getD i 0) ∧
      u.mst.bbxSince = s.mst.bbxSince ++ [bbxBytes s.bbx r] ∧ (r.post = false → SameBytes s u ∧ u.evtNext = s.evtNext) ∧
      (r.post = true → s.up = true → u.evtNext = s.evtNext + 1)) ∧
    (s.up = true → rb s R.glbStatus 2 = false ∨ s.safe.switching ≠ none → Runs .schedulingBoundary s fun u => u = s) ∧
    (s.up = true → rb s R.glbStatus 2 = true → s.safe.switching = none →
      (s.pwr.target = some .glide → activePair s = 1 → Runs .schedulingBoundary s fun u => activePair u = 0 ∧
        u.safe.mirror = some s.dt.now ∧ activeAt u 1 = [] ∧ u.bbxQueue = s.bbxQueue) ∧
      (s.pwr.target ≠ some .glide ∨ activePair s = 0 → Runs .schedulingBoundary s fun u =>
        u = { s with safe := { s.safe with mirror := some s.dt.now } }))

/-! ### Power -/

/-- A wake event `cause`: nothing outside HOLD or while hot after a thermal shutdown; kept for later while PWR_FAIL_N is low; else the
core rails come on for RUN. -/
def wakes (c : Instr) (s : State) (cause : Nat) : Prop :=
  let hot := s.aon.shutdown = true ∧ 95 * 16 ≤ s.aon.temp
  (s.aon.boot ≠ .hold ∨ hot → Runs c s fun u => u = s) ∧
  (s.aon.boot = .hold → ¬hot → s.aon.failLow = true → Runs c s fun u => u.aon.boot = .hold ∧ (∃ n, u.aon.wakeDue = some n) ∧
    u.aon.shutdown = s.aon.shutdown ∧ u.regs = s.regs ∧ u.mem = s.mem) ∧
  (s.aon.boot = .hold → ¬hot → s.aon.failLow = false → Runs c s fun u => u.aon.boot = .rails ∧ u.aon.wakeCause = cause ∧
    u.aon.shutdown = false ∧ u.pwr.since = s.dt.now ∧ u.regs = s.regs ∧ u.mem = s.mem)

/-- R501, R503 to R509: a request is refused for the lowest reason that applies and otherwise opens the change, which writes nothing else
but, for HOLD, the map store's stop; the change completes in the state asked for, GLIDE only on pair A with its vision engines
between jobs, HOLD with the fabric off and the wakes armed. A park write that parks a domain in use is refused whole; one
that parks the LSE loses the contents of its memory (that they then read as unwritten memory is the model's choice, log entry 25). An enabled
latch, the wake timer or a late rise of PWR_FAIL_N ends HOLD. Parking both parts of the solver's unit by either bit is the model's
choice (log entry 25). -/
def Obligations.PowerStatesChange : Prop :=
  ∀ (s : State),
    (s.up = true →
      (∀ p c, (p, c) ∈ [(PState.run, Instr.requestRun), (.glide, .requestGlide), (.hold, .requestHold)] →
        let refused := fun (r : Nat) => Runs c s fun u => u.pwr = s.pwr ∧ bit (rd u R.pwrErr) 0 = true ∧ SameBytes s u ∧
          (rd s R.pwrErr = 0 → rd u R.pwrErrInfo = BitVec.ofNat 32 r) ∧ SameRegsBut [R.pwrErr, R.pwrErrInfo] s u
        let free := s.pwr.target = none ∧ p ≠ s.pwr.pstate
        (s.pwr.target ≠ none → refused 1) ∧ (s.pwr.target = none → p = s.pwr.pstate → refused 2) ∧
        (free → s.aon.failLow = true → p ≠ .hold → refused 3) ∧
        (free → s.aon.failLow = false → p = .glide → glideOk s = false → refused 4) ∧
        (free → p = .hold → rb s R.glbStatus 4 = true → refused 5) ∧
        (free → s.aon.failLow = false ∨ p = .hold → (p = .glide → glideOk s = true) → (p = .hold → rb s R.glbStatus 4 = false) →
          Runs c s fun u => u.pwr = { s.pwr with target := some p, since := s.dt.now, acser := false } ∧ rb u R.pwrStatus 3 = true ∧
            rd u R.pwrErr = rd s R.pwrErr ∧ (p ≠ .hold → SameBytes s u ∧ SameRegsBut [R.pwrStatus] s u) ∧
            (p = .hold → rb u R.mstStatus 3 = true))) ∧
      (let entered := fun (u : State) (p : PState) => u.pwr.pstate = p ∧ u.pwr.target = none ∧ rb u R.pwrStatus 3 = false ∧
          bit (rd u R.pwrEvent) 4 = true ∧ u.mem = s.mem ∧
          u.aon.lastChange = pstateCode s.pwr.pstate + 256 * pstateCode p ∧ (s.bbxQueue.length < 64 → ∃ r, u.bbxQueue = s.bbxQueue ++ [r] ∧ r.code = 0x0401 ∧ rec8 r.args 1 1 = pstateCode p)
        let busy := visJob s 1 ≠ none ∨ visJob s 3 ≠ none;
        (s.pwr.target = none → Runs .pstateChangeComplete s fun u => u = s) ∧
        (s.pwr.target = some .glide → activePair s = 1 ∨ busy → Runs .pstateChangeComplete s fun u => u = s) ∧
        (s.pwr.target = some .glide → activePair s = 0 → ¬busy → Runs .pstateChangeComplete s fun u => entered u .glide ∧ u.up = true ∧
          rb u R.glbStatus 2 = false ∧ rf u R.glbStatus 7 6 = 1 ∧ rb u R.gdrStatus 2 = true) ∧
        (s.pwr.target = some .run → busy → Runs .pstateChangeComplete s fun u => u = s) ∧
        (s.pwr.target = some .run → ¬busy → Runs .pstateChangeComplete s fun u => entered u .run ∧ u.up = true ∧
          rf u R.glbStatus 7 6 = 0 ∧ rb u R.gdrStatus 2 = false ∧
          (s.safe.retired = [] → u.safe.coreTest = some (1 - activePair s, false))) ∧
        (s.pwr.target = some .hold → Runs .pstateChangeComplete s fun u => entered u .hold ∧ u.up = false ∧ u.aon.boot = .hold ∧
          u.aon.wakeEn = (rd s R.pwrWakeEn).toNat % 32 ∧ u.aon.wakeTimer = (rd s R.pwrWakeTimer).toNat ∧ u.evc.wakeArmed = true ∧
          u.evc.wake = 0)) ∧
      (∀ v : Word, let new := (v &&& 0x73F) ||| (if bit v 6 || bit v 7 then 0xC0 else 0)
        let bad := ∃ b, b < 11 ∧ bit new b = true ∧ rb s R.pwrPark b = false ∧ parkInUse s b = true;
        (bad → Runs (.pwrParkWrite v) s fun u => rd u R.pwrPark = rd s R.pwrPark ∧ bit (rd u R.pwrErr) 1 = true ∧ SameBytes s u ∧
          SameRegsBut [R.pwrErr, R.pwrErrInfo] s u) ∧
        (¬bad → Runs (.pwrParkWrite v) s fun u => rd u R.pwrPark = new ∧ SameRegsBut [R.pwrPark] s u ∧
          (bit new 6 = false ∨ rb s R.pwrPark 6 = true → SameBytes s u) ∧
          (bit new 6 = true → rb s R.pwrPark 6 = false →
            ∀ a, ldByte u a = if lseBase ≤ a ∧ a < lseBase + 0x800000 then 0 else ldByte s a)))) ∧
    (let c := Nat.land (wakeBits s) s.aon.wakeEn;
      (c = 0 → Runs .holdWake s fun u => u = s) ∧ (c ≠ 0 → wakes .holdWake s c)) ∧
    (let due := s.aon.wakeEn / 16 % 2 = 1 ∧ s.aon.wakeTimer ≠ 0;
      (¬due → Runs .holdWakeTimer s fun u => u = s) ∧ (due → wakes .holdWakeTimer s 16)) ∧
    Runs .pwrFailNRise s (fun u => u.aon.failLow = false ∧ u.regs = s.regs ∧ u.mem = s.mem ∧
      (∀ n, s.aon.wakeDue = some n → s.aon.boot = .hold → ¬(s.aon.shutdown = true ∧ 95 * 16 ≤ s.aon.temp) →
        u.aon.boot = .rails ∧ u.aon.wakeCause = n ∧ u.aon.wakeDue = none) ∧
      (s.aon.wakeDue = none → s.aon.boot = .railDefer → u.aon.boot = .rails) ∧
      (s.aon.wakeDue = none → s.aon.boot ≠ .railDefer → u.aon.boot = s.aon.boot))

/-- ARRAY_CLK moves to step `want`: downwards at once; upwards once VDD_CORE is high enough and no request to the regulator is out. -/
def clockFollows (s u : State) (want : Nat) : Prop :=
  (clockStep s ≤ want → clockStep u = want ∧ u.pwr.raise = none) ∧
  (want < clockStep s → s.pwr.avs = none → voltOf want ≤ s.pwr.volt → clockStep u = want ∧ u.pwr.raise = none) ∧
  (want < clockStep s → s.pwr.avs ≠ none ∨ s.pwr.volt < voltOf want → clockStep u = clockStep s ∧ u.pwr.raise = some want)

/-- R480, R511 to R518, R566: a power sample enters the window and its mean and excess are shown; one above 48 W, or above the cap with the
excess at its bound, lowers the clock. LIMIT opens at 190 ms of excess, acts at 1 ms boundaries and closes with the clock back and
the excess below 100 ms. A temperature sample shows the hottest sensor and raises the alarm; 115 °C turns the core off into HOLD.
The thermal step moves at its boundaries. The clock is the lower of the two, with the voltage ahead of a raise. A rail fault is a
fault while the core is on; a clock fault in HOLD loses device time. Which samples end LIMIT is the model's reading (log entry 25). -/
def Obligations.PowerAndHeatAreLimited : Prop :=
  ∀ (s : State),
    (s.up = true → s.pwr.gov ≤ 12 → s.pwr.therm ≤ 12 →
      let cap := powerCap s
      let E := fun (w : List Nat) => (w.filter fun p => decide (cap < p)).length;
      (∀ mw, let w := (mw :: s.pwr.window).take 20000
        Runs (.powerSample mw) s fun u => u.pwr.window = w ∧ rd u R.pwrNow = BitVec.ofNat 32 mw ∧
          rd u R.pwrAvg = BitVec.ofNat 32 (w.sum / w.length) ∧ rd u R.pwrExcess = BitVec.ofNat 32 (100 * E w) ∧ u.mem = s.mem ∧
          u.pwr.therm = s.pwr.therm ∧
          (mw ≤ 48000 → E w < 1999 ∨ mw ≤ cap → u.pwr.gov = s.pwr.gov ∧ clockStep u = clockStep s) ∧
          (48000 < mw → E w < 1999 → u.pwr.gov = min 12 (s.pwr.gov + 1) ∧ bit (rd u R.pwrEvent) 1 = true ∧
            clockFollows s u (max u.pwr.gov s.pwr.therm)) ∧
          (1999 ≤ E w → cap < mw → u.pwr.gov = 12 ∧ (clockStep s ≤ 12 → clockStep u = 12))) ∧
      (s.pwr.limit = true ∨ excess s < 1900 → Runs .governorLimit s fun u => u = s) ∧
      (s.pwr.limit = false → 1900 ≤ excess s → Runs .governorLimit s fun u => u.pwr.limit = true ∧ rb u R.pwrStatus 4 = true ∧
        bit (rd u R.pwrEvent) 1 = true ∧ rd u R.pwrLimitCnt = incSat (rd s R.pwrLimitCnt) ∧ u.pwr.gov = s.pwr.gov ∧ u.mem = s.mem ∧
        clockStep u = clockStep s) ∧
      (s.pwr.limit = false → Runs .governorTick s fun u => u = s) ∧
      (s.pwr.limit = true →
        let last := s.pwr.window.headD 0
        let headroom := last + 1000 < cap ∧ meanPower s < cap ∧ 9 ≤ s.pwr.sinceRaise ∧ 0 < s.pwr.gov
        let closed := fun (u : State) => u.pwr.limit = !(clockStep u == 0 && decide (excess s < 1000))
        (cap < last → Runs .governorTick s fun u => u.pwr.gov = min 12 (s.pwr.gov + 1) ∧ u.pwr.limit = true ∧
          clockFollows s u (max u.pwr.gov s.pwr.therm)) ∧
        (headroom → Runs .governorTick s fun u => u.pwr.gov = s.pwr.gov - 1 ∧ closed u ∧
          clockFollows s u (max u.pwr.gov s.pwr.therm) ∧ u.pwr.sinceRaise = 0) ∧
        (last ≤ cap → ¬headroom → Runs .governorTick s fun u => u.pwr.gov = s.pwr.gov ∧ clockStep u = clockStep s ∧ closed u)) ∧
      (∀ tenMs, let tj := sext 16 (rf s R.pwrTj 15 0)
        let moved := fun (k : Nat) => Runs (.thermalStep tenMs) s fun u => u.pwr.therm = k ∧ u.pwr.gov = s.pwr.gov ∧
          clockFollows s u (max s.pwr.gov k) ∧ u.mem = s.mem ∧ (s.pwr.therm = 0 → 0 < k → rb u R.pwrStatus 5 = true) ∧
          (0 < s.pwr.therm → k = 0 → rb u R.pwrStatus 5 = false) ∧
          ((s.pwr.therm = 0 ↔ k = 0) → rb u R.pwrStatus 5 = rb s R.pwrStatus 5)
        (105 * 16 ≤ tj → moved (min 12 (s.pwr.therm + 1))) ∧
        (tenMs = true → tj < 102 * 16 → 0 < s.pwr.therm → moved (s.pwr.therm - 1)) ∧
        (tj < 105 * 16 → tenMs = false ∨ 102 * 16 ≤ tj ∨ s.pwr.therm = 0 → Runs (.thermalStep tenMs) s fun u => u = s)) ∧
      (s.pwr.avs = none → Runs .avsTargetReached s fun u => u = s) ∧
      (∀ mv, s.pwr.avs = some mv → Runs .avsTargetReached s fun u => u.pwr.volt = mv ∧ u.mem = s.mem ∧
        (s.pwr.raise = none → clockStep u = clockStep s ∧
          u.pwr.avs = if voltOf (clockStep s) = mv then none else some (voltOf (clockStep s))) ∧
        (s.pwr.raise ≠ none → clockFollows { s with pwr := { s.pwr with volt := mv, avs := none } } u (max s.pwr.gov s.pwr.therm)))) ∧
    (∀ (l : List Int) (a : Int), s.up = false → Runs (.thermalSample l a) s fun u => u = { s with aon := { s.aon with temp := a } }) ∧
    (∀ (l : List Int) (a t : Int) (k : Nat), s.up = true → l[k]? = some t → (∀ x ∈ l, x ≤ t) → (∀ i x, i < k → l[i]? = some x → x < t) →
      k < 16 → Runs (.thermalSample l a) s fun u => u.aon.temp = a ∧ rf u R.pwrTj 20 16 = k ∧
        (-32768 ≤ t → t < 32768 → sext 16 (rf u R.pwrTj 15 0) = t ∧
          sext 16 (rf u R.pwrTjMax 15 0) = max (sext 16 (rf s R.pwrTjMax 15 0)) t) ∧ u.mem = s.mem ∧
        (((rd s R.pwrTalarm).toNat : Int) * 16 ≤ t → bit (rd u R.pwrEvent) 2 = true) ∧
        (t < 115 * 16 → u.up = true ∧ u.pwr = s.pwr ∧ u.aon.boot = s.aon.boot ∧
          SameRegsBut [R.pwrTj, R.pwrTjMax, R.pwrEvent] s u) ∧
        (115 * 16 ≤ t → u.up = false ∧ u.aon.boot = .hold ∧ u.aon.shutdown = true ∧ u.pwr.pstate = .hold ∧ 1 ∈ u.aon.alerts ∧
          (s.bbxQueue.length < 64 → ∃ r ∈ u.bbxQueue, r.code = 0x0404))) ∧
    (coreOn s = true → s.safe.inSafe = false → Runs .railFault s (wentSafe s · 15)) ∧
    (coreOn s = false ∨ s.safe.inSafe = true → Runs .railFault s fun u => u = s) ∧
    (s.up = false → s.aon.boot = .hold → Runs .clockFault s fun u => u.aon.clockLost = true ∧ u.dt = Dt.reset ∧ u.mem = s.mem ∧
      u.aon.boot = .hold ∧ SameRegsBut [R.dtFreq, R.safeEvent, R.safeBbxDrop] s u) ∧
    (s.up = false → s.aon.boot ≠ .hold → Runs .clockFault s fun u => u = s)

/-! ### Security and the Acser port -/

/-- R525, R527, R531: the lock key sets SECURE while an owner is set and an error otherwise; a fuse commit with its key raises the counter to
the running firmware's or the accepted version record's number, or is refused and burns nothing. That a number above the 64 a
counter can hold is refused is the model's choice (log entry 28). -/
def Obligations.LockAndFusesAreCommitted : Prop :=
  ∀ (s : State) (v : Word), s.up = true →
    (fld v 31 24 ≠ 0x3C → Runs (.secLockWrite v) s fun u => u = s) ∧
    (fld v 31 24 = 0x3C → s.sec.ownerSet = false → Runs (.secLockWrite v) s fun u => rd u R.secErr = rd s R.secErr ||| 2 ∧
      SameRegsBut [R.secErr] s u ∧ u.sec = s.sec) ∧
    (fld v 31 24 = 0x3C → s.sec.ownerSet = true → Runs (.secLockWrite v) s fun u => rb u R.glbStatus 4 = true ∧ rb u R.secStatus 0 = true ∧
      u.sec = s.sec ∧ u.mem = s.mem ∧
      (rb s R.glbStatus 4 = false → bit (rd u R.secEvent) 1 = true ∧ SameRegsBut [R.glbStatus, R.secStatus, R.secEvent, R.safeEvent, R.safeBbxDrop] s u ∧
        (s.bbxQueue.length < 64 → ∃ r, u.bbxQueue = s.bbxQueue ++ [r] ∧ r.code = 0x0603))) ∧
    (let keyed := fun (b : Nat) => fld v 31 24 = 0x96 ∧ bit v b = true
      let vr := match versionRecord s with | some r => rec8 r 4 4 | none => 0
      let refused := fun (c : Instr) => Runs c s fun u => rd u R.secErr = rd s R.secErr ||| 1 ∧ SameRegsBut [R.secErr] s u ∧ u.sec = s.sec
      let raises := fun (old n : Nat) => recoveryRuns s = false ∧ old < n ∧ n ≤ 64
      let frame := fun (u : State) (r : Nat) => u.mem = s.mem ∧ SameRegsBut [r, R.safeEvent, R.safeBbxDrop] s u ∧
        (s.bbxQueue.length < 64 → ∃ x, u.bbxQueue = s.bbxQueue ++ [x] ∧ x.code = 0x0607);
      (¬keyed 0 → Runs (.svnCommitFw v) s fun u => u = s) ∧ (¬keyed 1 → Runs (.svnCommitVr v) s fun u => u = s) ∧
      (keyed 0 → ¬raises s.sec.fuseSvn (rd s R.secFwSvn).toNat → refused (.svnCommitFw v)) ∧
      (keyed 0 → raises s.sec.fuseSvn (rd s R.secFwSvn).toNat → Runs (.svnCommitFw v) s fun u =>
        u.sec = { s.sec with fuseSvn := (rd s R.secFwSvn).toNat } ∧ rd u R.secFuseSvn = rd s R.secFwSvn ∧ frame u R.secFuseSvn) ∧
      (keyed 1 → ¬raises s.sec.fuseVr vr → refused (.svnCommitVr v)) ∧
      (keyed 1 → raises s.sec.fuseVr vr → Runs (.svnCommitVr v) s fun u =>
        u.sec = { s.sec with fuseVr := vr } ∧ rd u R.secVrCnt = BitVec.ofNat 32 vr ∧ frame u R.secVrCnt))

/-- The Acser commands, each with its code, whether it needs a session under the lock, and whether it needs the core (R537). -/
def acserForms : List ((Byte → List Byte → Bool → Instr) × Nat × (List Byte → Bool) × Bool) := [
  (.health, 0x01, fun _ => false, false), (.bbxRead, 0x02, fun p => rec8 p 0 1 % 2 == 1, false),
  (.coreReset, 0x03, fun _ => true, false), (.acserPower, 0x04, fun _ => true, false), (.attest, 0x05, fun _ => false, false),
  (.recoverBegin, 0x06, fun _ => true, false), (.recoverData, 0x06, fun _ => true, false),
  (.recoverEnd, 0x06, fun _ => true, false), (.time, 0x07, fun _ => false, false), (.acserSemSet, 0x08, fun _ => true, true),
  (.challenge, 0x09, fun _ => false, false), (.auth, 0x0A, fun _ => false, false), (.owner, 0x0B, fun _ => true, false)]

/-- A request of command `cmd` that the port runs: it answers, the frame is good and no repetition, and no session is missing. -/
def portRuns (s : State) (cmd : Nat) (seq : Byte) (p : List Byte) (session : Bool) : Prop :=
  portUp s = true ∧ p.length ≤ 256 ∧ ¬(s.sec.lastRun = true ∧ s.sec.lastCmd = cmd ∧ s.sec.lastSeq = seq.toNat) ∧
    (session = true → secure s = true → s.sec.session = true)

/-- The response stored and shown. -/
def responded (u : State) (cmd : Nat) (seq : Byte) (st : Nat) (data : List Byte) : Prop :=
  u.sec.resp = acserFrame cmd seq st data ∧ u.sec.lastResp = acserFrame cmd seq st data ∧ u.sec.lastRun = true ∧
    u.sec.lastCmd = cmd ∧ u.sec.lastSeq = seq.toNat

/-- Nothing but the response changes. -/
def onlyResponse (s u : State) : Prop :=
  u = { s with sec := { s.sec with
    resp := u.sec.resp, lastResp := u.sec.lastResp, lastRun := u.sec.lastRun, lastCmd := u.sec.lastCmd, lastSeq := u.sec.lastSeq } }

/-- R534 to R537, R539, R540: a bad frame is not run, a repeated one gets the stored response, an authorised one without its session is DENIED,
one that needs the core without it gets CORE_OFF, a wrong payload BAD_ARG. HEALTH, TIME, CHALLENGE, ATTEST and BBX_READ answer
their data; the read of a HEALTH response to its end raises ALERT_N for the causes reported. A wait for a session ends it. The order
of HEALTH's fields and of the checks, and BAD_ARG for a wrong length, are the model's choice (log entry 27). -/
def Obligations.AcserFramesAreAnswered : Prop :=
  ∀ (s : State) (seq : Byte) (p : List Byte),
    (∀ f ∈ acserForms, let c := f.1 seq p true
      let code := f.2.1
      let same := s.sec.lastRun = true ∧ s.sec.lastCmd = code ∧ s.sec.lastSeq = seq.toNat
      (portUp s = false → ∀ ok, Runs (f.1 seq p ok) s fun u => u = s) ∧
      (portUp s = true → ∀ ok, ok = false ∨ 256 < p.length → Runs (f.1 seq p ok) s fun u =>
        u = { s with sec := { s.sec with resp := acserFrame code seq 1 [] } }) ∧
      (portUp s = true → p.length ≤ 256 → same → Runs c s fun u => u = { s with sec := { s.sec with resp := s.sec.lastResp } }) ∧
      (portUp s = true → p.length ≤ 256 → ¬same → f.2.2.1 p = true → secure s = true → s.sec.session = false →
        Runs c s fun u => responded u code seq 3 [] ∧ onlyResponse s u) ∧
      (portRuns s code seq p (f.2.2.1 p) → f.2.2.2 = true → s.up = false ∨ rb s R.glbStatus 0 = false →
        Runs c s fun u => responded u code seq 4 [] ∧ onlyResponse s u)) ∧
    (portRuns s 0x01 seq p false → p ≠ [] → Runs (.health seq p true) s fun u => responded u 0x01 seq 2 [] ∧ onlyResponse s u) ∧
    (portRuns s 0x01 seq [] false → Runs (.health seq [] true) s fun u => ∃ d, responded u 0x01 seq 0 d ∧ onlyResponse s u ∧ d.length = 32 ∧
      rec8 d 0 1 = pstateCode s.pwr.pstate ∧ rec8 d 1 4 = (rd s R.glbStatus).toNat ∧ rec8 d 5 4 = (rd s R.safeStatus).toNat ∧
      rec8 d 9 4 = (rd s R.safeLastFault).toNat ∧ rec8 d 13 4 = s.bbx.seq.toNat ∧ rec8 d 19 4 = (rd s R.pwrTj).toNat ∧
      rec8 d 23 4 = s.bbx.boot.toNat) ∧
    (portRuns s 0x07 seq p false → p ≠ [] → Runs (.time seq p true) s fun u => responded u 0x07 seq 2 [] ∧ onlyResponse s u) ∧
    (portRuns s 0x07 seq [] false → Runs (.time seq [] true) s fun u => ∃ d, responded u 0x07 seq 0 d ∧ onlyResponse s u ∧
      d.take 8 = leBytes 8 s.dt.now.toNat ∧ d.length = 12 ∧ (s.up = false → rec8 d 8 4 = 0)) ∧
    (portRuns s 0x09 seq p false → p ≠ [] → Runs (.challenge seq p true) s fun u => responded u 0x09 seq 2 [] ∧ onlyResponse s u) ∧
    (portRuns s 0x09 seq [] false → Runs (.challenge seq [] true) s fun u => ∃ n, responded u 0x09 seq 0 n ∧ n.length = 48 ∧
      u.sec.challenge = some n ∧ u.regs = s.regs ∧ u.mem = s.mem) ∧
    (portRuns s 0x05 seq p false → s.sec.idOk = false → Runs (.attest seq p true) s fun u => responded u 0x05 seq 5 [] ∧ onlyResponse s u) ∧
    (portRuns s 0x05 seq p false → s.sec.idOk = true →
      (rec8 p 0 1 = 0 → p.length = 49 → Runs (.attest seq p true) s fun u => ∃ sig, sig.length = 96 ∧
        u.sec.quote = quoteBody s (p.drop 1) ++ sig ∧ slice u.sec.quote 16 48 = p.drop 1 ∧ responded u 0x05 seq 0 (u.sec.quote.take 128) ∧
        u.regs = s.regs ∧ u.mem = s.mem) ∧
      (∀ k, 1 ≤ k → k ≤ 3 → p = [BitVec.ofNat 8 k] → s.sec.quote ≠ [] → Runs (.attest seq p true) s fun u =>
        responded u 0x05 seq 0 (slice s.sec.quote (128 * k) 128) ∧ onlyResponse s u) ∧
      (¬(rec8 p 0 1 = 0 ∧ p.length = 49) → ¬(1 ≤ rec8 p 0 1 ∧ rec8 p 0 1 ≤ 3 ∧ p.length = 1 ∧ s.sec.quote ≠ []) →
        Runs (.attest seq p true) s fun u => responded u 0x05 seq 2 [] ∧ onlyResponse s u)) ∧
    (let n := rec8 p 1 3
      let k := rec8 p 4 4
      let good := p.length = 8 ∧ 1 ≤ n ∧ n ≤ 3 ∧ k < s.bbx.slots
      let release := rec8 p 0 1 % 2 == 1
      let read := fun (i : Nat) => i ∈ s.bbx.pinRead ∨ ∃ j, j < n ∧ k + j < s.bbx.slots ∧ (s.bbx.pinFirst + i) % s.bbx.slots = k + j;
      portRuns s 0x02 seq p release →
      (¬good → Runs (.bbxRead seq p true) s fun u => responded u 0x02 seq 2 [] ∧ onlyResponse s u) ∧
      (good → s.bbx.pinFirst < s.bbx.slots → s.bbx.pinned ≤ s.bbx.slots → Runs (.bbxRead seq p true) s fun u => ∃ d, responded u 0x02 seq 0 d ∧
        d.length = 64 * min n (s.bbx.slots - k) ∧ u.mem = s.mem ∧ u.bbx.seq = s.bbx.seq ∧
        (∀ i, i < d.length → d.getD i 0 = tabGet 0 s.bbx.mram (4096 + 64 * k + i)) ∧
        (release = true → (∀ i, i < s.bbx.pinned → read i) → u.bbx.pinned = 0) ∧
        (release = false ∨ (∃ i, i < s.bbx.pinned ∧ ¬read i) → u.bbx.pinned = s.bbx.pinned ∧ u.bbx.mram = s.bbx.mram))) ∧
    (∀ full, Runs (.acserResponseRead full) s fun u => u = { s with aon := { s.aon with alerts := u.aon.alerts } } ∧
      (full = false → u.aon.alerts = s.aon.alerts) ∧
      (full = true → ∀ k, k ∈ u.aon.alerts ↔ k ∈ s.aon.alerts ∧ (reportedCauses s.sec.resp).testBit k = false)) ∧
    Runs .acserSessionTimeout s (fun u => u.sec.session = false ∧ (s.sec.session = false → u = s) ∧
      (s.sec.session = true → rb u R.secStatus 4 = false ∧ u.sec = { s.sec with session := false }))

/-- R91, R503, R509, R522, R538, R541, R542, R556, R559: a core reset holds the fabric; a power request goes as through PWR_REQ, and wakes the device
in HOLD; SEM_SET answers the old count and sets the new; an image is written piece by piece and accepted only where it verifies;
AUTH opens a session with a good signature over the latest challenge, which is spent either way; OWNER burns the hash once. -/
def Obligations.AcserCommandsDoTheirWork : Prop :=
  ∀ (s : State) (seq : Byte) (p : List Byte),
    (∀ c code, (c, code) ∈ [(Instr.coreReset seq p true, 0x03), (.owner seq p true, 0x0B)] → portRuns s code seq p true →
      (code = 0x03 ∧ p ≠ []) ∨ (code = 0x0B ∧ (p.length ≠ 48 ∨ s.sec.ownerSet = true ∨ s.sec.ownerHash ≠ none)) →
      Runs c s fun u => responded u code seq 2 [] ∧ onlyResponse s u) ∧
    (portRuns s 0x03 seq [] true →
      (s.aon.boot ∈ [Boot.rom, .recovery, .training, .trained, .ready, .coreHeld, .failed] → Runs (.coreReset seq [] true) s fun u =>
        responded u 0x03 seq 0 [] ∧ u.up = false ∧ u.aon.boot = .coreHeld ∧ u.aon.fromSafe = s.safe.inSafe) ∧
      (s.aon.boot ∈ [Boot.railDefer, .rails, .hold] → Runs (.coreReset seq [] true) s fun u => responded u 0x03 seq 0 [] ∧ onlyResponse s u) ∧
      (s.aon.boot = .railsFailed → Runs (.coreReset seq [] true) s fun u => responded u 0x03 seq 0 [] ∧ u.regs = s.regs ∧
        u.aon = { s.aon with boot := if s.aon.failLow then .railDefer else .rails })) ∧
    (portRuns s 0x0B seq p true → p.length = 48 → s.sec.ownerSet = false → s.sec.ownerHash = none → Runs (.owner seq p true) s fun u =>
      responded u 0x0B seq 0 [] ∧ u.sec.ownerHash = some p ∧ u.sec.ownerSet = false ∧ u.regs = s.regs) ∧
    (portRuns s 0x04 seq p true → p.length ≠ 1 ∨ 2 < rec8 p 0 1 → Runs (.acserPower seq p true) s fun u => responded u 0x04 seq 2 [] ∧ onlyResponse s u) ∧
    (∀ t, p = [BitVec.ofNat 8 (pstateCode t)] → portRuns s 0x04 seq p true →
      let c := Instr.acserPower seq p true
      let hot := s.aon.shutdown = true ∧ 95 * 16 ≤ s.aon.temp
      (s.aon.boot = .hold → t = .run → hot → Runs c s fun u => responded u 0x04 seq 7 [] ∧ onlyResponse s u) ∧
      (s.aon.boot = .hold → t = .run → ¬hot → s.aon.failLow = false → Runs c s fun u => responded u 0x04 seq 0 [0] ∧ u.aon.boot = .rails ∧
        u.aon.wakeCause = 4) ∧
      (s.aon.boot = .hold → t = .glide → Runs c s fun u => responded u 0x04 seq 0 [4] ∧ onlyResponse s u) ∧
      (s.aon.boot = .hold → t = .hold → Runs c s fun u => responded u 0x04 seq 0 [2] ∧ onlyResponse s u) ∧
      (s.aon.boot ≠ .hold → s.up = false ∨ rb s R.glbStatus 0 = false → Runs c s fun u => responded u 0x04 seq 7 [] ∧ onlyResponse s u) ∧
      (s.aon.boot ≠ .hold → s.up = true → rb s R.glbStatus 0 = true →
        (∀ r, requestBad s (some t) true = some r → Runs c s fun u => responded u 0x04 seq 0 [BitVec.ofNat 8 r] ∧ u.pwr = s.pwr ∧
          bit (rd u R.pwrErr) 0 = true) ∧
        (requestBad s (some t) true = none → Runs c s fun u => responded u 0x04 seq 0 [0] ∧ u.pwr.target = some t ∧ u.pwr.acser = true))) ∧
    (portRuns s 0x08 seq p true → s.up = true → rb s R.glbStatus 0 = true → let i := rec8 p 0 2
      (p.length ≠ 8 ∨ 4096 ≤ i → Runs (.acserSemSet seq p true) s fun u => responded u 0x08 seq 2 [] ∧ onlyResponse s u) ∧
      (p.length = 8 → i < 4096 → Runs (.acserSemSet seq p true) s fun u => responded u 0x08 seq 0 (leBytes 4 (semCount s i).toNat) ∧
        semCount u i = BitVec.ofNat 32 (rec8 p 4 4) ∧ rd u R.semHandCnt = incSat (rd s R.semHandCnt))) ∧
    (portRuns s 0x06 seq p true →
      let slot := slotBase 2
      let good := p.length = 8 ∧ rec8 p 0 1 = 0 ∧ rec8 p 4 4 ≤ slotSize ∧ (toSlab s = true ∨ s.sec.nor ≠ none)
      (¬good → Runs (.recoverBegin seq p true) s fun u => responded u 0x06 seq 2 [] ∧ onlyResponse s u) ∧
      (good → Runs (.recoverBegin seq p true) s fun u => responded u 0x06 seq 0 (leBytes 4 0) ∧ u.mem = s.mem ∧ u.regs = s.regs ∧
        u.sec.recovery = some ⟨rec8 p 4 4, 0, toSlab s⟩ ∧ (toSlab s = true → u.sec.nor = s.sec.nor) ∧
        (toSlab s = false → ∀ i, norBytes u i 1 = if slot ≤ i ∧ i < slot + slotSize then some [0xFF] else norBytes s i 1)) ∧
      (s.sec.recovery = none → ∀ c ∈ [Instr.recoverData seq p true, .recoverEnd seq p true], Runs c s fun u =>
        responded u 0x06 seq 2 [] ∧ onlyResponse s u) ∧
      (∀ r, s.sec.recovery = some r → let d := p.drop 8
        let fits := 8 ≤ p.length ∧ rec8 p 0 1 = 1 ∧ rec8 p 4 4 = r.got ∧ d.length ≤ 248 ∧ r.got + d.length ≤ r.size
        let more := fun (u : State) => responded u 0x06 seq 0 (leBytes 4 (r.got + d.length)) ∧ u.regs = s.regs ∧
          u.sec.recovery = some { r with got := r.got + d.length }
        (¬fits → Runs (.recoverData seq p true) s fun u => responded u 0x06 seq 2 [] ∧ onlyResponse s u) ∧
        (fits → r.slab = true → r.size ≤ slotSize → Runs (.recoverData seq p true) s fun u => more u ∧ u.sec.nor = s.sec.nor ∧
          OnlyBytes s u (slabBase + r.got) d.length ∧ ∀ i, i < d.length → ldByte u (slabBase + r.got + i) = d.getD i 0) ∧
        (fits → r.slab = false → s.sec.nor ≠ none → Runs (.recoverData seq p true) s fun u => more u ∧ u.mem = s.mem ∧
          ∀ a, norBytes u a 1 = if slot + r.got ≤ a ∧ a < slot + r.got + d.length then some [d.getD (a - (slot + r.got)) 0]
            else norBytes s a 1)) ∧
      (∀ r, s.sec.recovery = some r →
        let img := if r.slab then ldBytes s slabBase r.size else (norBytes s slot r.size).getD []
        let ends := rec8 p 0 1 = 2 ∧ p ≠ [] ∧ r.got = r.size
        let valid := 512 ≤ img.length ∧ firmwareValid img 2 s.sec.fuseSvn = true
        let noted := fun (u : State) (n : Nat) => u.sec.recovery = none ∧
          (s.bbxQueue.length < 64 → ∃ x, u.bbxQueue = s.bbxQueue ++ [x] ∧ x.code = 0x0606 ∧ rec8 x.args 0 1 = n)
        (¬ends → Runs (.recoverEnd seq p true) s fun u => responded u 0x06 seq 2 [] ∧ onlyResponse s u) ∧
        (ends → ¬valid → Runs (.recoverEnd seq p true) s fun u => responded u 0x06 seq 6 [] ∧ noted u 1 ∧ u.sec.nor = s.sec.nor ∧
          u.aon = s.aon) ∧
        (ends → valid → Runs (.recoverEnd seq p true) s fun u => responded u 0x06 seq 0 (leBytes 4 r.size) ∧ noted u 0 ∧
          (r.slab = true → u.sec.nor = s.sec.nor) ∧ (r.slab = false → ∃ x, norDir u = some x ∧ x.slot = 2) ∧
          (s.aon.boot = .recovery → u.aon.boot = .rom ∧ u.sec.recovered = some (if r.slab then 3 else 2)) ∧
          (s.aon.boot ≠ .recovery → u.aon = s.aon)))) ∧
    (portRuns s 0x0A seq p false →
      let k := rec8 p 0 1
      let good := p.length = 97 ∧ 1 ≤ k ∧ k ≤ 3
      let verified := ∃ n key, s.sec.challenge = some n ∧ signingKey s k = some key ∧ ecdsaVerify key (n ++ devId) (p.drop 1) = true
      (s.sec.idOk = false → Runs (.auth seq p true) s fun u => responded u 0x0A seq 5 [] ∧ onlyResponse s u) ∧
      (s.sec.idOk = true → ¬good → Runs (.auth seq p true) s fun u => responded u 0x0A seq 2 [] ∧ onlyResponse s u) ∧
      (s.sec.idOk = true → good → verified → Runs (.auth seq p true) s fun u => responded u 0x0A seq 0 [] ∧ u.sec.session = true ∧
        rb u R.secStatus 4 = true ∧ u.sec.challenge = none ∧ u.bbxQueue = s.bbxQueue) ∧
      (s.sec.idOk = true → good → ¬verified → Runs (.auth seq p true) s fun u => responded u 0x0A seq 6 [] ∧ u.sec.session = false ∧
        rb u R.secStatus 4 = false ∧ u.sec.challenge = none ∧ bit (rd u R.secEvent) 3 = true ∧
        (s.bbxQueue.length < 64 → ∃ r, u.bbxQueue = s.bbxQueue ++ [r] ∧ r.code = 0x0605)))

/-! ### Resets and start-up -/

/-- A start-up stops at `stage`, naming `which`. -/
def startStops (s u : State) (stage which : Nat) : Prop :=
  u.up = false ∧ 2 ∈ u.aon.alerts ∧ u.aon.boot = (if stage ≤ 2 then .railsFailed else .failed) ∧
    (s.bbxQueue.length < 62 → ∃ r ∈ u.bbxQueue, r.code = 0x0701 ∧ rec8 r.args 0 1 = stage ∧ rec8 r.args 1 1 = which)

/-- What a reset without supply leaves, and what one of the fabric domain leaves too: host memory, straps, MRAM, boot flash and fuses. -/
def survives (s u : State) : Prop :=
  (∀ a, hostBase ≤ a → tabGet 0 u.mem a = tabGet 0 s.mem a) ∧ (∀ a, a < hostBase → tabGet 0 u.mem a = 0) ∧
  u.straps = s.straps ∧ u.gradeX = s.gradeX ∧ u.bbx.mram = s.bbx.mram ∧ u.bbx.seq = s.bbx.seq ∧ u.bbx.pinned = s.bbx.pinned ∧
  u.sec.nor = s.sec.nor ∧ u.sec.fuseSvn = s.sec.fuseSvn ∧ u.sec.fuseVr = s.sec.fuseVr ∧ u.sec.ownerHash = s.sec.ownerHash ∧
  u.sec.lockFuse = s.sec.lockFuse

/-- The registers that show at once what the always-on domain, the straps, the part and the fuses hold. -/
def shownAtRelease : List Nat :=
  [R.glbId, R.glbStrap, R.dtFreq, R.dtRate, R.pwrTj, R.pwrTjMax, R.pwrWakeCause, R.pwrStatus, R.safeBbxSeq, R.safeBbxPinned,
    R.safeBootCnt, R.secStatus, R.secFuseSvn, R.secVrCnt] ++ (List.range 12).map R.secDevid

/-- The fabric domain has been released: it runs, its registers but `l` at their reset values, the holdover count and the frequency
estimate carried over. -/
def fabricReleased (s u : State) (l : List Nat) : Prop :=
  u.up = true ∧ survives s u ∧ (∀ a, a ∉ shownAtRelease ++ l → rd u a = resetVal a) ∧ rd u R.glbStrap = s.straps.setWidth 32 ∧
  u.dt.now = s.dt.now ∧ u.dt.frac = s.dt.frac ∧ u.dt.servo = (if s.dt.everSet then .free else .unset) ∧ rd u R.dtFreq = rd s R.dtFreq ∧
  rd u R.dtRate = rd s R.dtFreq ∧ u.evc.wake = s.evc.wake ∧ u.sec.session = s.sec.session ∧ u.sec.ownerSet = s.sec.ownerSet ∧
  u.aon.boot = (if 2 ≤ s.straps.toNat % 4 then .recovery else .rom) ∧ u.aon.window = (s.straps.toNat % 4 == 1) ∧
  u.heldWrites = [] ∧ u.sem.count = []

/-- R38, R520, R543, R545 to R547, R550, R555, R556: a fall of VDD_AON leaves only what needs no supply, and its rise waits for the crystal; a stable
crystal counts the boot, derives the identity and asks for the core rails, which come up within 100 ms or stop the start-up; the
release of the fabric, after the rails' rise or a core reset, leaves registers at their reset values and runs on pair A, on pair B
where A fails its test, or stops where both fail. Memories whose contents a reset loses read 0 after it: the model's choice (log entry 2). -/
def Obligations.ResetsLeaveWhatTheyKeep : Prop :=
  ∀ (s : State),
    (s.aon.boot ≠ .off → Runs (.powerOnReset true) s fun u => u = s) ∧
    (∀ rise, rise = false ∨ s.aon.boot = .off → Runs (.powerOnReset rise) s fun u => u.up = false ∧ survives s u ∧
      u.aon.boot = (if rise then .aonReset else .off) ∧ (∀ a, rd u a = resetVal a) ∧ u.dt = Dt.reset ∧ u.aon.alerts = [] ∧
      u.sec.session = false ∧ u.sec.ownerSet = s.sec.ownerHash.isSome ∧ u.evc.wake = 0 ∧ u.bbxQueue = []) ∧
    (∀ ok i, s.aon.boot ≠ .aonReset → Runs (.crystalStable ok i) s fun u => u = s) ∧
    (s.aon.boot = .aonReset → ∀ i,
      Runs (.crystalStable false i) s (startStops s · 1 0) ∧
      Runs (.crystalStable true i) s fun u => u.aon = { s.aon with boot := if s.aon.failLow then .railDefer else .rails } ∧
        u.bbx.boot = s.bbx.boot + 1 ∧ u.sec.idOk = i.isNone ∧ u.sec.ownerSet = s.sec.ownerHash.isSome ∧ u.mem = s.mem ∧
        (s.bbxQueue.length < 62 → (∃ r ∈ u.bbxQueue, r.code = 0x0702 ∧ rec8 r.args 0 1 = 0) ∧
          (∀ k, i = some k → ∃ r ∈ u.bbxQueue, r.code = 0x0604))) ∧
    (s.aon.boot = .rails → Runs .pwrGoodTimeout s (startStops s · 2 0)) ∧
    (s.aon.boot ≠ .rails → Runs .pwrGoodTimeout s fun u => u = s) ∧
    (∀ a b, s.aon.boot ≠ .rails → Runs (.pwrGoodCoreRise a b) s fun u => u = s) ∧
    (∀ a b, s.aon.boot ≠ .coreHeld ∨ s.aon.failLow = true → Runs (.coreResetRelease a b) s fun u => u = s) ∧
    (∀ a b c core, (c, core) ∈ [(Instr.pwrGoodCoreRise a b, false), (.coreResetRelease a b, true)] →
      (core = false → s.aon.boot = .rails) → (core = true → s.aon.boot = .coreHeld ∧ s.aon.failLow = false) →
      let counted := fun (u : State) => u.bbx.boot = (if core then s.bbx.boot + 1 else s.bbx.boot) ∧
        (s.pwr.pstate = .hold → u.pwr = { Pwr.reset with pstate := .hold, target := some .run, since := s.pwr.since }) ∧
        (s.pwr.pstate ≠ .hold → u.pwr = Pwr.reset) ∧
        (s.bbxQueue.length < 62 → core = true ∨ s.pwr.pstate = .hold → ∃ r ∈ u.bbxQueue, r.code = 0x0702 ∧
          rec8 r.args 0 1 = (if core then 1 else 2) ∧ rec8 r.args 1 1 = (if core then if s.aon.fromSafe then 2 else 1 else 3))
      (a = true → Runs c s fun u => fabricReleased s u [] ∧ counted u ∧ activePair u = 0 ∧ u.safe = Safe.reset) ∧
      (a = false → b = true → Runs c s fun u =>
        fabricReleased s u [R.glbStatus, R.safeStatus, R.safeEvent, R.safeLastFault, R.safeBbxDrop] ∧ counted u ∧ activePair u = 1 ∧
        u.safe.retired = [0] ∧ rb u R.safeStatus 8 = true) ∧
      (a = false → b = false → Runs c s fun u => startStops s u 4 0 ∧ counted u))

/-- R227, R249, R284, R503, R524, R548, R549, R551, R557 to R559: firmware starts from the first valid image in the order tried, shows its version,
maps the logical tiles at home but for tiles that fail their test, which are FAILED, and starts training; without a valid image the
start-up stops at stage 6. Training leaves memory ready or stops at stage 5 with the channel; READY comes with the capabilities once
the mount has ended, and completes an exit from HOLD. The data rate found is free between its limits. -/
def Obligations.StartUpReachesReady : Prop :=
  ∀ (s : State), s.up = true →
    (s.aon.boot = .rom → Runs .recoverWindowTimeout s fun u => u = { s with aon := { s.aon with window := false } }) ∧
    (s.aon.boot ≠ .rom → Runs .recoverWindowTimeout s fun u => u = s) ∧
    (∀ bad, s.aon.boot ≠ .rom ∨ s.aon.window = true → Runs (.firmwareStart bad) s fun u => u = s) ∧
    (∀ bad, s.aon.boot = .rom → s.aon.window = false →
      (chooseImage s = none → Runs (.firmwareStart bad) s (startStops s · 6 0)) ∧
      (∀ slot img, chooseImage s = some (slot, img) → Runs (.firmwareStart bad) s fun u => u.up = true ∧ u.aon.boot = .training ∧
        rd u R.secFwSvn = BitVec.ofNat 32 (imgSvn img) ∧ rf u R.secStatus 9 8 = slot % 4 ∧ u.sec.header = slice img 0 512 ∧ u.mem = s.mem ∧
        (s.bbxQueue.length < 62 → ∃ r ∈ u.bbxQueue, r.code = 0x0601 ∧ r.post = true) ∧
        (∀ n, n < 68 → n ∈ bad → ttState u n = 7) ∧
        (∀ n, n < 68 → n ∉ bad → n % 17 ≠ 16 → ttState u n = 1 ∧ ttLogical u n = n / 17 * 16 + n % 17) ∧
        (bad = [] → ∀ n, n < 68 → rd u (R.memRedir n) = rd s (R.memRedir n) ∧ (n % 17 = 16 → rd u (R.ttStatus n) = 0xFFFF0003)))) ∧
    (∀ f, s.aon.boot ≠ .training → Runs (.gddr6TrainingEnd f) s fun u => u = s) ∧
    (s.aon.boot = .training →
      (∀ k : Fin 16, Runs (.gddr6TrainingEnd (some k)) s (startStops s · 5 k.val)) ∧
      Runs (.gddr6TrainingEnd none) s (fun u => u.aon = { s.aon with boot := .trained } ∧ rd u R.gdrStatus = 0xFFFF0001 ∧
        (∀ k, k < 16 → rb u (R.gdrChStatus k) 0 = true) ∧ 14 ≤ rf u R.gdrCfg 4 0 ∧ rf u R.gdrCfg 4 0 ≤ 20 ∧
        rb u R.gdrCfg 8 = s.straps.getLsbD 4 ∧ u.mem = s.mem ∧
        SameRegsBut ([R.gdrCfg, R.gdrStatus] ++ (List.range 16).map R.gdrChStatus) s u)) ∧
    (let ended := rb s R.mstStatus 0 = true ∨ rb s R.mstStatus 10 = true;
      (s.aon.boot ≠ .trained ∨ ¬ended → Runs .startupReady s fun u => u = s) ∧
      (s.aon.boot = .trained → ended → Runs .startupReady s fun u => u.aon = { s.aon with boot := .ready } ∧ rb u R.glbStatus 0 = true ∧
        rd u R.glbCap = capWord s ∧ u.mem = s.mem ∧
        (s.pwr.pstate = .hold → u.pwr.pstate = .run ∧ u.pwr.target = none ∧ bit (rd u R.pwrEvent) 4 = true) ∧
        (s.pwr.pstate ≠ .hold → u.pwr = s.pwr ∧ SameRegsBut [R.glbCap, R.glbStatus] s u)))

/-! ### Every command completes -/

/-- R150, R157 to R199: a vision job whose checks pass and whose data is good ends its work with status 0; a job whose work is done leaves
its engine. -/
def ruleVisionCompletes : Prop :=
  ∀ (s : State) (j : Job), s.up = true → Inv s →
    let ended := fun (u : State) => visJob u j.unit = some { j with status := some 0 }
    let b := j.block
    (clean s → ∀ e : Fin 2,
      (visDue s (1 + e.val) 1 j → firstBad (detectChecks s e.val b) = none → Runs (.detect e) s ended) ∧
      (visDue s (3 + e.val) 1 j → firstBad (trackChecks s b) = none →
        currentEntry (tabGet [] s.vis.detects (rec8 b 1 1)) (ldN s (rec8 b 16 8 + 8) 4) ≠ none → Runs (.track e) s ended) ∧
      (visDue s (3 + e.val) 2 j → firstBad (seedChecks s b) = none → Runs (.seed e) s ended) ∧
      (visDue s (3 + e.val) 3 j → firstBad (matchChecks s b) = none → Runs (.matchSets e) s ended)) ∧
    (clean s → visDue s 5 1 j → firstBad (depthChecks s j) = none → j.latch.headD 0 / 0x40000000 % 4 = 3 → Runs .depth s ended) ∧
    (clean s → visDue s 6 1 j → firstBad (projectChecks s j) = none → j.latch.getD 1 0 / 0x80000000 % 2 = 1 → j.latch.getD 2 0 ≠ 1 →
      Runs .project s ended) ∧
    (∀ v st, visJob s (visCode v) = some j → j.status = some st → abortAsked s j.owner = false →
      Runs (.visionJobEnd v) s fun u => visJob u (visCode v) = none)

/-- R215 to R223: a gate without a job is passed with status 0; a hold for a gate that has not ended ends at its expiry; a free unit takes
the job at the head of its queue; a reported gate is final with the status reported; the runs of an aborted graph are aborted. -/
def ruleGatesComplete : Prop :=
  ∀ (s : State) (r : Run) (g : Graph), s.up = true →
    (mayEvaluate s r g → g.deadline = 0 → let e := gateAt g r.cursor
      e.dep = 0xFF → needsLost s e.needs = false → pairDiffers s e.pair = false → e.waitSem = 0xFFFF → e.unit = 0 →
      Runs (.gateEvaluate r.id []) s fun u => gateDecided u r.id r.cursor 0 0) ∧
    (findRun s r.id = some r → graphOf s r.graph = some g → r.aborted = false → r.recorded = false → r.gates.length = g.ngates →
      r.cursor + 1 < g.ngates → (gateRunAt r r.cursor).stage = .depHold → (gateRunAt r (gateAt g r.cursor).dep).stage ≠ .final →
      (∃ x, r.expiry = some x ∧ x ≤ s.dt.now.toNat) →
      Runs (.gateHoldExpire r.id) s fun u => gateDecided u r.id r.cursor 0x20 2) ∧
    (findRun s r.id = some r → graphOf s r.graph = some g → r.aborted = false → r.recorded = false → r.gates.length = g.ngates →
      r.cursor < g.ngates → ∀ i st, i < g.ngates → s.fgs.reports = [⟨.gate r.id i, st⟩] →
      Runs (.gateEnd r.id i) s fun u => u.fgs.reports = [] ∧
        ∃ q, findRun u r.id = some q ∧ (gateRunAt q i).stage = .final ∧ (gateRunAt q i).status = st) ∧
    (∀ (v : UnitId) (j : Job) (rest : List Job), queueOf s (unitCode v) = j :: rest → joiningAt s (unitCode v) = [] →
      engineHeld s (unitCode v) = false → engineDead s (unitCode v) = false → unitIdle s v j = true → unitReady s j.unit = true →
      j.unit = unitCode v → Runs (.unitJobStart v) s fun u => queueOf u (unitCode v) = rest) ∧
    (∀ v : Word, bit v 31 = true → graphOf s (fld v 5 0) = some g → s.fgs.runs = [r] → r.graph = fld v 5 0 → r.recorded = false →
      r.gates.length = g.ngates → Runs (.fgsAbort v) s fun u => ∀ q ∈ u.fgs.runs, q.id = r.id ∧ q.aborted = true)

/-- R241 to R250: a tile job starts when its tiles are free; a pass whose sums agree at its end is counted; a job with no pass to come
leaves the tiles; a failed tile's logical tile moves to the free tile, and the takeover ends when its ranges are moved. -/
def ruleTilesComplete : Prop :=
  ∀ s : State, s.up = true →
    (∀ (j : Job) rest p, startedAt s 0x10 = j :: rest → tileMayStart s j.ctx j.block = true → progOf s j.ctx (rec8 j.block 2 2) = some p →
      tileBlockOk s j.block p = true → Runs .tileRun s fun u => startedAt u 0x10 = rest ∧
        ∃ t, u.tiles.running = s.tiles.running ++ [t] ∧ t.job = j) ∧
    (∀ (n : Fin 68) id t p left, tileJob s id = some t → nextPass (tilesOn s n.val) [] t.left = some (p, left) → t.status = none →
      abortAsked s t.job.owner = false → fenced s (localBase p.tile) = false → ttState s n.val ≠ 7 → tileHalted s n.val = false →
      t.retry.contains p.tile = false → let part := tabGet ⟨0, []⟩ t.part p.tile
      pointK p part.points = p.k → failing p.mode (passSums s t p p.k part.errs) = ([], []) →
      Runs (.tilePassCheck id n [] false) s fun u => rd u (R.ttPasses n.val) = rd s (R.ttPasses n.val) + 1 ∧
        ∃ q, tileJob u id = some q ∧ q.left = left) ∧
    (∀ id t, tileJob s id = some t → t.status = none → t.left = [] → abortAsked s t.job.owner = false →
      Runs (.tileJobEnd id) s fun u => tileJob u id = none) ∧
    (∀ n : Fin 68, s.safe.takeover = none → rb s (R.ttChkLast n.val) 30 = true → ttLogical s n.val < 64 →
      rotMoving s (n.val / 17) = false → ∀ f, freeTile s (ttLogical s n.val / 16) = some f → f < 68 → Runs (.tileTakeover n) s fun u =>
        ∃ t, u.safe.takeover = some t ∧ t.failed = n.val ∧ t.logical = ttLogical s n.val ∧ t.new = f) ∧
    (∀ n : Fin 68, ∀ t, s.safe.takeover = some t → t.failed = n.val → t.how = 0 → t.new < 68 → t.new ≠ n.val → t.logical < 64 →
      (∀ r ∈ t.ranges, tabGet none s.memx.moves r = none) →
      Runs (.tileTakeoverComplete n) s fun u => u.safe.takeover = none ∧ ttLogical u t.new = t.logical)

/-- R262 to R281: a fenced range is released to its new place, a grant starts back, copy jobs take an idle engine, do their entry and
leave, and the memory controller retrains and patrols. -/
def ruleMemoryCompletes : Prop :=
  ∀ s : State, s.up = true →
    (∀ (t : Fin 68) m, tabGet none s.memx.moves t.val = some m → targetBusy s t.val m = false → bit m.target 30 = false →
      m.evac = none → m.restore = none → Runs (.fenceRelease t) s fun u => rd u (R.memRedir t.val) = m.target ∧
        tabGet none u.memx.moves t.val = none) ∧
    (∀ (j : Fin 16) t, t < 68 → tabGet none s.memx.restore j.val = some t → rb s (R.memNbr j.val) 31 = true →
      rb s (R.memNbr j.val) 30 = true → rf s (R.memNbr j.val) 22 16 < 68 →
      Runs (.restore j.val) s fun u => tabGet none u.memx.restore j.val = none) ∧
    (∀ (g : Fin 2) (j : Job) rest e, startedAt s (if g.val = 0 then 0x11 else 0x1F) = j :: rest → idleEngine s g.val = some e →
      j.latch = [] → Runs (.copyJobStart g) s fun u => startedAt u (if g.val = 0 then 0x11 else 0x1F) = rest ∧
        ceJob u e = some ⟨j, [j.block], 0, 0, none⟩) ∧
    (∀ (e : Fin 16) c x, entryRuns s e.val c x →
      (rec8 x 0 1 = 1 → (∀ r ∈ entryRows x, poisoned s r.1 (rec8 x 4 4) = false) →
        Runs (.copy e) s fun u => ceJob u e.val = some (nextEntry c (entryLines x).length)) ∧
      (rec8 x 0 1 = 2 → Runs (.fill e) s fun u => ceJob u e.val = some (nextEntry c (entryLines x).length))) ∧
    (∀ (e : Fin 16) c l, ceJob s e.val = some c → c.status = none → abortAsked s c.job.owner = false → c.job.latch = [] →
      let x := c.entries.headD []
      rec8 x 0 1 = 3 → rec8 x 1 1 < 2 → zeros x 40 24 = true → planOf s c.job.ctx (rec8 x 2 2) = some l →
      Runs (.plan e) s fun u => ceJob u e.val = some { c with entries := l, idx := 0 }) ∧
    (∀ (e : Fin 16) c st d y, ceJob s e.val = some c → c.status = some st → c.job.owner = .descriptor d → y ∈ s.hif.descs → y.id = d →
      unacked s c.job.owner = false → Runs (.copyJobEnd e) s fun u => ceJob u e.val = none ∧
        rd u R.memCopies = rd s R.memCopies + 1) ∧
    (∀ (ch : Fin 16) ok, rb s R.gdrStatus 0 = true → ch.val = s.memx.retrain % 16 →
      Runs (.gdrRetrain ch ok) s fun u => u.memx.retrain = (ch.val + 1) % 16) ∧
    (rb s R.gdrStatus 0 = true → rb s R.gdrScrub 31 = true → s.memx.scrub < fittedLines s → s.edc = [] →
      Runs .gdrScrubRead s fun u => u.memx.scrub = (s.memx.scrub + 1) % fittedLines s)

/-- R288 to R309: the ego filter predicts to the time of its output or of the timer, falls back to INERTIAL, and is configured; the jobs of
the track filter do their work. -/
def ruleFusionCompletes : Prop :=
  ∀ s : State, s.up = true → Inv s →
    (∀ o rest c, s.ifc.delivered = o :: rest → predictHeld s = false → takesOutput s o = some c →
      Runs .tfuPredict s fun u => u.ifc.delivered = rest ∧ u.tfu.pose.time = o.time) ∧
    (rb s R.tfuEgoCfg 31 = true → noneDelivers s = true → predictHeld s = false →
      Runs .tfuTimerPredict s fun u => u.tfu.pose.time = s.dt.now.toNat) ∧
    (∀ t, s.tfu.aided = some t → tfuMode s = 2 → t.toNat + (rd s R.tfuAidTmo).toNat ≤ s.dt.now.toNat →
      Runs .tfuAidTimeout s fun u => tfuMode u = 1) ∧
    (∀ v : Word, bit v 31 = false → Runs (.tfuEgoCfgWrite v) s fun u => rd u R.tfuEgoCfg = v &&& 0xFCFFFF00) ∧
    (∀ (j : Job) rest, let b := j.block
      let a := rec8 b 8 8
      (tfuDue s 1 j rest → firstBad (updateChecks s b) = none → ∀ units, measUnits (rec8 b 2 1) = some units → badData s [(a, 160)] = false →
        let r := ldBytes s a 160
        measForm r (rec8 b 2 1) units.length = true → rec8 b 1 1 ≠ 0 → tabGet none s.tfu.objs (rec8 b 1 1 - 1) = none →
        (rec8 r 0 8 : Int) ≤ s.tfu.pose.time → (histAt (rec8 r 0 8 : Int) s.tfu.hist none).isSome = true →
        Runs .update s fun u => startedAt u 0x12 = rest ∧
          ∃ o, tabGet none u.tfu.objs (rec8 b 1 1 - 1) = some o ∧ o.time = (rec8 r 0 8 : Int) ∧ o.updates = 1) ∧
      (tfuDue s 2 j rest → firstBad [(0, rb s R.tfuEgoCfg 31), (8, engineRange s a 128), (24, zeros b 24 40)] = none →
        badData s [(a, 128)] = false → let r := ldBytes s a 128
        zeros r 32 16 = false → zeros r 60 4 = true → zeros r 112 16 = true →
        Runs .tfuReset s fun u => startedAt u 0x12 = rest ∧ u.tfu.pose.time = rec8 r 0 8 ∧ u.tfu.hist = []) ∧
      (tfuDue s 3 j rest → let m := rec8 b 1 1
        let n := rec8 b 2 1
        let nk := rec8 b 3 1
        firstBad [(1, decide (m < 16) && fsEn s m && fsType s m == 1), (2, decide (n < 16) && fsEn s n && fsType s n == 0),
          (3, decide (2 ≤ nk ∧ nk ≤ 33)), (8, engineRange s a 48), (16, engineRange s (rec8 b 16 8) (64 * nk)), (24, zeros b 24 40)] = none →
        let lw := BitVec.ofNat 32 (j.latch.getD 0 0)
        let cw := BitVec.ofNat 32 (j.latch.getD 1 0)
        bit lw 31 = true → bit cw 31 = true → s.tfu.hist ≠ [] →
        badData s [(fsBuf s m (fld lw 3 0), 64), (fsBuf s n (fld cw 3 0), 64), (a, 48)] = false →
        badOut s [(rec8 b 16 8, 64 * nk)] = false →
        Runs .motion s fun u => startedAt u 0x12 = rest ∧ OnlyBytes s u (rec8 b 16 8) (64 * nk)) ∧
      (tfuDue s 4 j rest → firstBad [(8, engineRange s a 2048), (24, zeros b 24 40)] = none → badOut s [(a, 2048)] = false →
        Runs .report s fun u => startedAt u 0x12 = rest ∧ OnlyBytes s u a 2048))

/-- R324, R333, R361 to R372: a solve is taken, accepted, iterated and, past its deadline, ended; PREINT and BUILD jobs leave their
results. -/
def ruleSolverCompletes : Prop :=
  ∀ (s : State) (j : Job) (rest : List Job), s.up = true →
    let b := j.block
    (startedAt s 0x13 = j :: rest → rec8 b 0 1 = 0x20 → s.lse.taken = none →
      Runs .solve s fun u => u.lse.taken = some j ∧ startedAt u 0x13 = rest) ∧
    (s.lse.taken = some j → s.lse.solve = none → engineHeld s 0x13 = false → Runs .solveAccept s fun u => u.lse.taken = none) ∧
    (∀ v, s.lse.solve = some v → Runs .solveIterationEnd s fun u =>
      u.lse.solve = none ∧ rd u R.lseSolves = rd s R.lseSolves + 1 ∨ ∃ w, u.lse.solve = some w ∧ w.iters = v.iters + 1 ∧ w.job = v.job) ∧
    (∀ v d, s.lse.solve = some v → v.deadline = some d → d.toNat ≤ s.dt.now.toNat →
      Runs .solveDeadlineMiss s fun u => u.lse.solve = none ∧ rd u R.lseSolves = rd s R.lseSolves + 1) ∧
    (startedAt s 0x13 = j :: rest → rec8 b 0 1 = 0x10 → firstBad (preintChecks s b) = none →
      let ring := (ringAddrs s (rec8 b 1 1)).map fun x => (x, ldBytes s x 64)
      let mine := ring.filter fun r => decide ((rec8 b 8 8 : Int) ≤ recTime r.2) && decide (recTime r.2 < (rec8 b 16 8 : Int))
      badData s (mine.map fun r => (r.1, 64)) = false → preintOk s b (ring.map Prod.snd) (mine.map Prod.snd) = true →
      Runs .preint s fun u => startedAt u 0x13 = rest ∧ rd u R.lsePreintCnt = rd s R.lsePreintCnt + 1) ∧
    (∀ x, startedAt s 0x13 = j :: rest → rec8 b 0 1 = 0x11 → rec8 b 1 1 < 64 → schedSlot s (slotKey j.ctx (rec8 b 1 1)) = some x →
      x.buildable = true → zeros b 2 6 = true → engineRange s (rec8 b 8 8) 64 = true → zeros b 16 48 = true →
      let img := rec8 b 8 8
      badData s (imageRanges img (ldBytes s img 64)) = false → imageBad s img = none → let p := loadProblem s img
      p.cls = 1 → p.v ≤ x.maxPoses → p.f ≤ x.maxFactors → Runs .build s fun u => startedAt u 0x13 = rest ∧
        u.lse.builds = s.lse.builds ++ [⟨j, slotKey j.ctx (rec8 b 1 1), structBytes p⟩]) ∧
    (∀ (k : Build) more x, s.lse.builds = k :: more → schedSlot s k.key = some x →
      Runs .buildEnd s fun u => u.lse.builds = more ∧ rd u R.lseBuildCnt = rd s R.lseBuildCnt + 1)

/-- R379 to R395: queries and inserts start their run, a page is scanned, a query ends; deletes, filters and DEFINE leave the
coordinator. -/
def rulePlaceRecognitionCompletes : Prop :=
  ∀ (s : State) (j : Job) (rest : List Job), s.up = true →
    let b := j.block
    let gone := fun (u : State) => startedAt u 0x14 = rest ∧ u.prs.run = none
    (prsDue s 1 j rest → ((List.range 8).any fun n => engineHeld s (0x40 + n)) = false →
      ((List.range 8).any fun n => engineDead s (0x40 + n)) = false → abortAsked s j.owner = false → queryBad s b = none →
      prsLate s j = false → let e := if rec8 b 8 8 = 0 then s.mst.committed else rec8 b 8 8
      retained s e = true → ((viewOf s e).getD (emptyView 0)).index ≠ [] → badData s [(rec8 b 16 8, 256)] = false →
      Runs .query s fun u => u.prs.run = some (newRun s j e) ∧ startedAt u 0x14 = rest) ∧
    (prsDue s 2 j rest → insertBad s b = none → sideClosed s = none → badData s [(rec8 b 16 8, 264 * rec8 b 4 4)] = false →
      abortAsked s j.owner = false → Runs .insert s fun u => u.prs.run = some (newRun s j (openEpoch s)) ∧ startedAt u 0x14 = rest) ∧
    (∀ r, s.prs.run = some r → jobOp r.job = 1 → abortAsked s r.job.owner = false →
      (∀ st, r.coarse = some st → r.coarseDone = false → st < 0x20 → prsLate s r.job = false →
        let v := (viewOf s r.epoch).getD (emptyView 0)
        let lists := chosenLists s v.index 0 (qP r.job.block)
        (∀ p ∈ probePages s v lists, pageLost s p.pid = false) → Runs .prsCoarseEnd s fun u =>
          ∃ q, u.prs.run = some q ∧ q.coarseDone = true ∧ q.pages = probePages s v lists) ∧
      (∀ (su : Fin 8) p t c x, r.pages.find? (fun p => p.su == su.val && p.arrived) = some p → findPage s p.pid = some (t, c, x) →
        Runs (.prsPageScan su) s fun u => ∃ q, u.prs.run = some q ∧ q.pages = r.pages.filter (fun x => x.pid != p.pid) ∧
          q.read = r.read + 1) ∧
      (r.coarseDone = true → r.pages = [] → Runs .prsQueryEnd s fun u => u.prs.run = none ∧
        rd u R.prsQueries = rd s R.prsQueries + 1)) ∧
    (prsDue s 3 j rest → deleteBad s b = none → sideClosed s = none → badData s [(rec8 b 16 8, 8 * rec8 b 4 4)] = false →
      abortAsked s j.owner = false → Runs .prsDelete s gone) ∧
    (prsDue s 4 j rest → zeros b 2 2 = true → zeros b 12 4 = true → zeros b 16 48 = true → abortAsked s j.owner = false →
      let a := rec8 b 4 4
      let n := rec8 b 8 4
      (rec8 b 1 1 = 0 → Runs .filterSetAll s fun u => gone u ∧ ∀ g, segBlocked u g = false) ∧
      (rec8 b 1 1 = 1 → Runs .filterClearAll s fun u => gone u ∧ ∀ g, g < 2 ^ 24 → segBlocked u g = true) ∧
      (rec8 b 1 1 = 2 → 1 ≤ n → a + n ≤ 2 ^ 24 → Runs .filterSetRange s fun u => gone u ∧ ∀ g, a ≤ g → g < a + n → segBlocked u g = false) ∧
      (rec8 b 1 1 = 3 → 1 ≤ n → a + n ≤ 2 ^ 24 → Runs .filterClearRange s fun u => gone u ∧ ∀ g, a ≤ g → g < a + n → segBlocked u g = true)) ∧
    (prsDue s 5 j rest → firstBad [(1, zeros b 1 15), (16, imageOk s (rec8 b 16 8)), (24, zeros b 24 40)] = none → sideClosed s = none →
      badData s [(rec8 b 16 8, ixSize (ldN s (rec8 b 16 8) 4))] = false → abortAsked s j.owner = false → Runs .define s gone)

/-- R408 to R440: the jobs of the map store leave their lane or start their stripe, a stripe that is durable takes effect, and the
flash is read, kept, mounted and formatted. -/
def ruleMapStoreCompletes : Prop :=
  ∀ s : State, s.up = true →
    (∀ (j : Job), let b := j.block
      let left := fun (u : State) => startedAt u 0x15 = (startedAt s 0x15).erase j
      (∀ es, mstDue s false 1 j → firstBad [(1, zeros b 1 3), (4, decide (1 ≤ rec8 b 4 4 ∧ rec8 b 4 4 ≤ 65536)), (12, zeros b 12 4),
          (16, jobRange s (rec8 b 16 8) (rec8 b 8 4)), (24, jobRange s (rec8 b 24 8) (4 * rec8 b 4 4)), (32, zeros b 32 32)] = none →
        badData s [(rec8 b 16 8, max 1 (rec8 b 8 4))] = false → splitPuts (rec8 b 4 4) (ldBytes s (rec8 b 16 8) (rec8 b 8 4)) = some es →
        abortAsked s j.owner = false → Runs .put s fun u => left u ∧ ∃ l, u.mst.records = s.mst.records ++ l) ∧
      (mstDue s false 2 j → firstBad [(1, zeros b 1 3), (4, decide (1 ≤ rec8 b 4 4 ∧ rec8 b 4 4 ≤ 65536)), (8, zeros b 8 8),
          (16, jobRange s (rec8 b 16 8) (8 * rec8 b 4 4)), (24, jobRange s (rec8 b 24 8) (4 * rec8 b 4 4)), (32, zeros b 32 32)] = none →
        badData s [(rec8 b 16 8, 8 * rec8 b 4 4)] = false → abortAsked s j.owner = false →
        Runs .mstDelete s fun u => left u ∧ ∃ l, u.mst.records = s.mst.records ++ l) ∧
      (mstDue s false 3 j → firstBad [(1, zeros b 1 31), (32, zeros b 32 32)] = none → Runs .commit s fun u =>
        (∃ w, u.mst.write = some w ∧ w.job = j ∧ w.epoch = openEpoch s) ∨ left u) ∧
      (mstDue s false 6 j → pinBad j = none → retained s (pinEpoch s j) = true → s.mst.pins.contains (pinEpoch s j) = true →
        Runs .pin s fun u => left u ∧ u.mst = s.mst) ∧
      (mstDue s false 7 j → pinBad j = none → pinEpoch s j ≠ 0 → s.mst.pins.contains (pinEpoch s j) = true → Runs .unpin s fun u =>
        u.mst.write = some ⟨j, pinEpoch s j, true⟩ ∨ left u) ∧
      (mstDue s true 4 j → readBad s j = none → retained s (readEpoch s j) = true → abortAsked s j.owner = false →
        (rec8 b 1 1 = 0 → badData s [(rec8 b 16 8, 4 * rec8 b 4 4)] = false → Runs .readWindow s left) ∧
        (rec8 b 1 1 = 1 → Runs .readGraph s left)) ∧
      (mstDue s true 5 j → getBad s j = none → retained s (readEpoch s j) = true → abortAsked s j.owner = false →
        badData s [(rec8 b 16 8, 4 * rec8 b 4 4)] = false →
        (rec8 b 1 1 ≠ 0x7E → Runs .get s left) ∧ (rec8 b 1 1 = 0x7E → Runs .getBbx s left))) ∧
    (∀ q rest w, s.mst.programming = ⟨q, .commit⟩ :: rest → s.mst.write = some w →
      Runs .commitDurable s fun u => u.mst.committed = openEpoch s ∧ u.mst.write = none) ∧
    (∀ q rest, s.mst.programming = ⟨q, .journal⟩ :: rest → s.mst.write = none →
      Runs .stripeProgrammed s fun u => u.mst.programming = rest) ∧
    (∀ (ch : Fin 8) q t cws, stripeOf s q = some t → lostCh s ch.val = false → ch.val ∈ t.chans → cws ≠ [] →
      Runs (.flashPageRead ch q cws) s fun u => rd u (R.flcReads ch.val) = rd s (R.flcReads ch.val) + 1) ∧
    (∀ (ch : Fin 8) blk, lostCh s ch.val = false → blk ∈ freeBlocks s ch.val →
      Runs (.flashProgramFail ch true blk) s fun u => rd u (R.flcEraseFail ch.val) = incSat (rd s (R.flcEraseFail ch.val)) ∧
        tabGet 0 u.mst.flash.bad (blockKey ch.val blk) = 2) ∧
    (∀ ch : Fin 8, lostCh s ch.val = false → Runs (.flashChannelLost ch) s fun u => lostCh u ch.val = true) ∧
    (rb s R.mstCtrl 1 = true → mstStatus s 0 = true → mstStatus s 3 = false → mstStatus s 8 = false → s.mst.write = none →
      Runs .groomTask s fun u => u.mst.committed = s.mst.committed ∧ mstStatus u 2 = (groom (reclaim s)).isSome) ∧
    (s.aon.boot = .trained → mstStatus s 0 = false → mstStatus s 10 = false → readableRoots s ≠ [] →
      (∀ c, c < 8 → s.mst.flash.nand.dies.getD c 0 ≠ 0 ∨ lostCh s c = true) →
      Runs .mapMount s fun u => mstStatus u 0 = true ∧ u.mst.records = []) ∧
    (∀ v : Word, fld v 31 24 = 0xC3 → rb s R.mstCtrl 0 = false → mstStatus s 3 = false →
      Runs (.mstFormat v) s fun u => u.mst.committed = 0 ∧ mstStatus u 0 = true) ∧
    (s.aon.failLow = false → s.aon.boot ≠ .off → Runs .pwrFail s fun u => u.aon.failLow = true ∧ bit (rd u R.pwrEvent) 0 = true)

/-- R446 to R472: ring indices, fetches, dispatches, completions, opcodes, ring configuration and link events do what they say. -/
def ruleHostRingsComplete : Prop :=
  ∀ s : State, s.up = true →
    (∀ (k : Fin 64) (v : Word),
      (sqEn s k.val = true → fld v 15 0 < sqSize s k.val → Runs (.sqTailDoorbell k v) s fun u => sqTail u k.val = fld v 15 0) ∧
      (cqEn s k.val = true → cqIndexOk s k.val (fld v 15 0) = true → Runs (.cqHeadDoorbell k v) s fun u => cqHead u k.val = fld v 15 0) ∧
      (bit v 31 = false → Runs (.sqConfigWrite k v) s fun u => rd u (R.hifSqCfg k.val) = v &&& 0xB03F001F) ∧
      (cqEn s k.val = false → bit v 31 = false → Runs (.cqConfigWrite k v) s fun u => rd u (R.hifCqCfg k.val) = v &&& 0xC07F001F) ∧
      (bit v 31 = false → Runs (.poseRingConfigWrite v) s (fun u => rd u R.hifPoseCfg = v &&& 0x807FFF1F) ∧
        Runs (.evtRingConfigWrite v) s fun u => rd u R.hifEvtCfg = v &&& 0x807F001F)) ∧
    (∀ k : Fin 64,
      (cqTimed s k.val = true → cqEn s k.val = true → bit (rd s (R.hifCqCfg k.val)) 30 = true → rb s (R.hifCqStatus k.val) 29 = true →
        Runs (.cqCoalesceTimer k) s fun u => rb u (R.hifCqStatus k.val) 29 = false) ∧
      ((∀ r ∈ s.fgs.runs, r.recorded = false) → (∃ c ∈ s.hif.hold, c.cq = k.val) → cqEn s k.val = true → cqFull s k.val = false →
        Runs (.completionHoldRelease k) s fun u => u.hif.hold.length < s.hif.hold.length) ∧
      (sqServed s s.hif.fetchTurn ([k.val].filter (mayFetch s)) = some k.val → poisoned s (hostBase + sqEntry s k.val) 64 = false →
        Runs (.descriptorFetch k true []) s fun u => u.hif.descs = s.hif.descs ++ [newDesc s k.val]) ∧
      (∀ d, sqServed s s.hif.dispatchTurn ([k.val].filter (mayDispatch s)) = some k.val → headDesc s k.val = some d →
        unacked s (.descriptor d.id) = false → d.stage = .gateFired → dWait d = 0xFFFF →
        Runs (.descriptorDispatch k []) s fun u => descAt u d .waited) ∧
      (∀ d, headDesc s k.val = some d → d.stage ≠ .waitHold → dDeadline d ≠ 0 → dDeadline d ≤ s.dt.now.toNat → heldNow s d = true →
        unacked s (.descriptor d.id) = false → Runs (.descriptorDeadline k) s fun u => descEnded u d.id 0x20)) ∧
    (∀ x, findDesc s x.id = some x → x.stage = .ended → x.sq < 64 → x.cq < 64 → x.lost = false → cqEn s x.cq = true →
      cqBlocked s x.cq = false →
      Runs (.descriptorComplete x.id) s fun u => u.hif.descs = s.hif.descs.filter fun y => y.id != x.id) ∧
    (∀ v : Fin 128, Runs (.msixUnmask v) s fun u => rb u (R.hifMsixTable (4 * v.val + 3)) 0 = false) ∧
    (∀ off n, off < bar4Size → rb s R.glbStatus 4 = false → inDebugWindow s (winAddr s off) n = true →
      glideRefused s (winAddr s off) (min n 8) = false →
      Runs (.bar4Access off (.read n)) s fun u => u.rdata = BitVec.ofNat 64 (ldN s (winAddr s off) (min n 8))) ∧
    (∀ k : PcieReset, Runs (.pcieReset k) s fun u => u.hif.hold = [] ∧ u.hif.cq = []) ∧
    Runs .perstRelease s (fun u => u.aon.perstLow = false) ∧
    (∀ speed width : Nat, s.aon.perstLow = false → 1 ≤ speed → speed ≤ 5 → 1 ≤ width → width ≤ 8 →
      Runs (.linkUp speed width) s fun u => rb u R.hifStatus 0 = true)

/-- R458 to R463: the opcodes of descriptors that have passed their waits. -/
def ruleOpcodesComplete : Prop :=
  ∀ (s : State) (d : Nat) (x : Desc), s.up = true → unacked s (.descriptor d) = false →
    (handed s d 0x00 = some x → dZero x 32 32 = true → Runs (.nop d) s fun u => descEnded u d 0) ∧
    (handed s d 0x01 = some x → configForm x = true →
      (rec8 x.bytes 32 2 = 1 → -1000000 ≤ configValue x → configValue x ≤ 1000000 →
        Runs (.configPtpAsym d) s fun u => descEnded u d 0 ∧ u.ptp.asym = configValue x) ∧
      (rec8 x.bytes 32 2 = 2 → 2 ≤ configValue x → configValue x ≤ 10 →
        Runs (.configPtpAnnTmo d) s fun u => descEnded u d 0 ∧ u.ptp.annTmo = (configValue x).toNat)) ∧
    (handed s d 0x20 = some x → dZero x 33 31 = true → rec8 x.bytes 32 1 < 64 → ctxLoaded s (dCtx x) = true →
      launchTest s (rec8 x.bytes 32 1) (dCtx x) = .accepted → Runs (.launch d) s fun u => descAt u x .dispatched ∧
        ∃ r, u.fgs.runs = s.fgs.runs ++ [r] ∧ r.graph = rec8 x.bytes 32 1) ∧
    (handed s d 0x21 = some x → dZero x 33 31 = true → rec8 x.bytes 32 1 < 64 → graphOf s (rec8 x.bytes 32 1) ≠ none →
      Runs (.abort d) s fun u => descEnded u d 0) ∧
    (handed s d 0x30 = some x → armForm s x = true → gateArmed s (rec8 x.bytes 32 2) = false →
      armTest (writeArm s x) (rec8 x.bytes 32 2) = .armed →
      Runs (.arm d) s fun u => descEnded u d 0 ∧ gateArmed u (rec8 x.bytes 32 2) = true) ∧
    (∀ b, handed s d 0x31 = some x → dZero x 34 30 = true → 32 ≤ rec8 x.bytes 32 2 → rec8 x.bytes 32 2 ≤ 511 →
      Runs (.disarm d b) s fun u => descEnded u d 0) ∧
    (let joined := fun (u : State) (k : Nat) => descAt u x .dispatched ∧ ∃ j, queueOf u k = queueOf s k ++ [j] ∧ j.owner = .descriptor d
      let room := fun (k : Nat) => (queueOf s k).length < 8 ∧ joiningAt s k = [];
      (handed s d 0x40 = some x → rec8 x.bytes 32 1 = 0 → rec8 x.bytes 34 2 ≤ 255 → dZero x 33 1 = true → dZero x 36 4 = true →
        dZero x 48 16 = true → ctxLoaded s (dCtx x) = true → room 0x11 → Runs (.descCopy d) s (joined · 0x11)) ∧
      (handed s d 0x50 = some x → dZero x 37 1 = true → dZero x 58 6 = true → ctxLoaded s (dCtx x) = true → room 0x13 →
        Runs (.descSolve d) s (joined · 0x13)) ∧
      (handed s d 0x60 = some x → room 0x14 → Runs (.descPrs d) s (joined · 0x14)) ∧
      (handed s d 0x70 = some x → room 0x15 → Runs (.descMst d) s (joined · 0x15))) ∧
    (∀ p, handed s d 0x10 = some x → loadForm s x = true → ctxLoaded s (dCtx x) = false → s.safe.switching = none →
      let a := rec8 x.bytes 32 8
      let n := rec8 x.bytes 40 4
      let s1 := noteReads s [(a, n)]
      badData s [(a, n)] = false → packageReason s1 n (ldBytes s1 a 512) (ldBytes s1 (a + 512) (n - 512)) = none →
      (goodContent (dCtx x) (placePackage s1 (dCtx x) p)).1 = true → nofit s1 (dCtx x) p = none →
      p.graphs.length ≤ (freeGraphs s1).length → Runs (.load d p) s fun u => descEnded u d 0 ∧ ctxLoaded u (dCtx x) = true) ∧
    (findDesc s d = some x → dOpcode x = 0x11 → x.stage = .dispatched → ctxBusy s (dCtx x) = false →
      Runs (.unload d) s fun u => descEnded u d 0 ∧ ctxLoaded u (dCtx x) = false)

/-- R478 to R518: detected faults, tests and rotations, samples and clock steps act. -/
def ruleFaultsAndPowerComplete : Prop :=
  ∀ s : State, s.up = true →
    (rb s R.glbStatus 2 = true → s.safe.switching = none → ∀ c ∈ [Instr.controlPairFault, .watchdogExpire], Runs c s fun u =>
      u.safe.switching = some (activePair s, s.dt.now)) ∧
    (∀ p t, s.safe.switching = some (p, t) → p ≤ 1 → s.safe.mirror.isSome = true → Runs (.switchoverComplete true) s fun u =>
      activePair u = 1 - p ∧ u.safe.switching = none) ∧
    (∀ p f, s.safe.coreTest = some (p, f) → Runs (.standbySelftestEnd false) s fun u => p ∈ u.safe.retired) ∧
    (s.safe.switching = none → rb s R.glbStatus 2 = true → Runs .standbyFault s fun u => 1 - activePair s ∈ u.safe.retired) ∧
    (rb s R.safeStatus 9 = false → Runs (.tfuLaneMismatch true) s fun u => u.safe.katDue = true) ∧
    (s.safe.katDue = true → rb s R.safeStatus 9 = false → Runs (.tfuKatEnd true false) s fun u => u.safe.katDue = false ∧
      rb u R.safeStatus 9 = true) ∧
    (s.ifc.failed = false → Runs (.ifcMismatch true) s fun u => u.ifc.failed = true) ∧
    (∀ c ∈ [Instr.hifWriterMismatch true, .fabricLogicMismatch, .clockFault, .periodicTest (some 0)], Runs c s fun u =>
      u.safe.inSafe = true ∧ u.up = false) ∧
    (coreOn s = true → s.safe.inSafe = false → Runs .railFault s fun u => u.safe.inSafe = true ∧ u.up = false) ∧
    (∀ e : Engine, (engineDead s (engineCode e) = false → engineHeld s (engineCode e) = false →
        Runs (.engineFault e) s fun u => engineHeld u (engineCode e) = true) ∧
      (engineHeld s (engineCode e) = true → Runs (.engineSelftestEnd e false) s fun u => engineHeld u (engineCode e) = false ∧
        engineDead u (engineCode e) = true)) ∧
    Runs (.checkerTest .ifc false) s (fun u => u.ifc.failed = true) ∧
    (∀ p : Fin 4,
      (rotOf s p.val = none → rb s R.safeCtrl 0 = true → rb s R.safeStatus (4 + p.val) = false → freeTile s p.val = none →
        Runs (.rotationStep p) s fun u => rb u R.safeStatus (4 + p.val) = true) ∧
      (∀ r, rotOf s p.val = some r → r.stage = .waiting → r.since.toNat + 1000 * (rd s R.safeRotWait).toNat ≤ s.dt.now.toNat →
        Runs (.rotationWaitTimeout p) s fun u => rotOf u p.val = none) ∧
      (∀ r ok, rotOf s p.val = some r → r.stage = .testing → r.old < 68 →
        Runs (.rotationSelftestEnd p ok) s fun u => rotOf u p.val = none)) ∧
    (∀ mw, s.pwr.gov ≤ 12 → s.pwr.therm ≤ 12 → Runs (.powerSample mw) s fun u => u.pwr.window = (mw :: s.pwr.window).take 20000) ∧
    (s.pwr.limit = false → 1900 ≤ excess s → Runs .governorLimit s fun u => u.pwr.limit = true) ∧
    (s.pwr.limit = true → powerCap s < s.pwr.window.headD 0 → s.pwr.gov ≤ 12 → s.pwr.therm ≤ 12 →
      Runs .governorTick s fun u => u.pwr.gov = min 12 (s.pwr.gov + 1)) ∧
    (∀ t, 105 * 16 ≤ sext 16 (rf s R.pwrTj 15 0) → s.pwr.gov ≤ 12 → s.pwr.therm ≤ 12 →
      Runs (.thermalStep t) s fun u => u.pwr.therm = min 12 (s.pwr.therm + 1)) ∧
    (∀ mv, s.pwr.avs = some mv → Runs .avsTargetReached s fun u => u.pwr.volt = mv) ∧
    (rb s R.glbStatus 2 = true → s.safe.switching = none → s.pwr.target ≠ some .glide →
      Runs .schedulingBoundary s fun u => u.safe.mirror = some s.dt.now)

/-- R491 to R559: power states are asked for and reached, samples are taken, the lock and the fuses are set, the Acser port answers, and the
device starts up step by step. -/
def rulePowerAndStartUpComplete : Prop :=
  ∀ s : State,
    (s.up = true → s.pwr.target = none →
      (s.pwr.pstate ≠ .run → s.aon.failLow = false → Runs .requestRun s fun u => u.pwr.target = some .run) ∧
      (s.pwr.pstate ≠ .glide → s.aon.failLow = false → glideOk s = true → Runs .requestGlide s fun u => u.pwr.target = some .glide) ∧
      (s.pwr.pstate ≠ .hold → rb s R.glbStatus 4 = false → Runs .requestHold s fun u => u.pwr.target = some .hold)) ∧
    (s.up = true → s.pwr.target = some .hold → Runs .pstateChangeComplete s fun u => u.pwr.pstate = .hold ∧ u.up = false) ∧
    (s.up = true → Runs (.pwrParkWrite 0) s fun u => rd u R.pwrPark = 0) ∧
    (s.aon.boot = .hold → s.aon.shutdown = false → s.aon.failLow = false →
      (Nat.land (wakeBits s) s.aon.wakeEn ≠ 0 → Runs .holdWake s fun u => u.aon.boot = .rails) ∧
      (s.aon.wakeEn / 16 % 2 = 1 → s.aon.wakeTimer ≠ 0 → Runs .holdWakeTimer s fun u => u.aon.boot = .rails)) ∧
    Runs .pwrFailNRise s (fun u => u.aon.failLow = false) ∧
    (∀ l a, s.up = false → Runs (.thermalSample l a) s fun u => u.aon.temp = a) ∧
    (∀ v : Word, s.up = true →
      (fld v 31 24 = 0x3C → s.sec.ownerSet = true → Runs (.secLockWrite v) s fun u => rb u R.secStatus 0 = true) ∧
      (fld v 31 24 = 0x96 → bit v 0 = true → recoveryRuns s = false → s.sec.fuseSvn < (rd s R.secFwSvn).toNat →
        (rd s R.secFwSvn).toNat ≤ 64 → Runs (.svnCommitFw v) s fun u => u.sec.fuseSvn = (rd s R.secFwSvn).toNat) ∧
      (∀ r, fld v 31 24 = 0x96 → bit v 1 = true → recoveryRuns s = false → versionRecord s = some r → s.sec.fuseVr < rec8 r 4 4 →
        rec8 r 4 4 ≤ 64 → Runs (.svnCommitVr v) s fun u => u.sec.fuseVr = rec8 r 4 4)) ∧
    (∀ (seq : Byte) (p : List Byte), let ok := fun (code : Nat) (u : State) => ∃ d, responded u code seq 0 d
      (portRuns s 0x01 seq [] false → Runs (.health seq [] true) s (ok 0x01)) ∧
      (portRuns s 0x02 seq p (rec8 p 0 1 % 2 == 1) → p.length = 8 → 1 ≤ rec8 p 1 3 → rec8 p 1 3 ≤ 3 → rec8 p 4 4 < s.bbx.slots →
        s.bbx.pinFirst < s.bbx.slots → s.bbx.pinned ≤ s.bbx.slots → Runs (.bbxRead seq p true) s (ok 0x02)) ∧
      (portRuns s 0x03 seq [] true → s.aon.boot = .ready → Runs (.coreReset seq [] true) s fun u => ok 0x03 u ∧ u.aon.boot = .coreHeld) ∧
      (portRuns s 0x04 seq p true → s.aon.boot ≠ .hold → s.up = true → rb s R.glbStatus 0 = true →
        requestBad s (some .run) true = none → p = [BitVec.ofNat 8 (pstateCode .run)] →
        Runs (.acserPower seq p true) s fun u => ok 0x04 u ∧ u.pwr.target = some .run) ∧
      (portRuns s 0x05 seq p false → s.sec.idOk = true → rec8 p 0 1 = 0 → p.length = 49 → Runs (.attest seq p true) s (ok 0x05)) ∧
      (portRuns s 0x06 seq p true → p.length = 8 → rec8 p 0 1 = 0 → rec8 p 4 4 ≤ slotSize → toSlab s = true ∨ s.sec.nor ≠ none →
        Runs (.recoverBegin seq p true) s fun u => ok 0x06 u ∧ u.sec.recovery = some ⟨rec8 p 4 4, 0, toSlab s⟩) ∧
      (∀ r, portRuns s 0x06 seq p true → s.sec.recovery = some r →
        (8 ≤ p.length → rec8 p 0 1 = 1 → rec8 p 4 4 = r.got → (p.drop 8).length ≤ 248 → r.got + (p.drop 8).length ≤ r.size →
          r.size ≤ slotSize → r.slab = true ∨ s.sec.nor ≠ none → Runs (.recoverData seq p true) s fun u => ok 0x06 u ∧
            u.sec.recovery = some { r with got := r.got + (p.drop 8).length }) ∧
        (rec8 p 0 1 = 2 → p ≠ [] → r.got = r.size →
          (let img := if r.slab then ldBytes s slabBase r.size else (norBytes s (slotBase 2) r.size).getD [];
            512 ≤ img.length → firmwareValid img 2 s.sec.fuseSvn = true → Runs (.recoverEnd seq p true) s fun u => ok 0x06 u ∧
              u.sec.recovery = none))) ∧
      (portRuns s 0x07 seq [] false → Runs (.time seq [] true) s (ok 0x07)) ∧
      (portRuns s 0x08 seq p true → s.up = true → rb s R.glbStatus 0 = true → p.length = 8 → rec8 p 0 2 < 4096 →
        Runs (.acserSemSet seq p true) s fun u => ok 0x08 u ∧ semCount u (rec8 p 0 2) = BitVec.ofNat 32 (rec8 p 4 4)) ∧
      (portRuns s 0x09 seq [] false → Runs (.challenge seq [] true) s (ok 0x09)) ∧
      (∀ n key, portRuns s 0x0A seq p false → s.sec.idOk = true → p.length = 97 → 1 ≤ rec8 p 0 1 → rec8 p 0 1 ≤ 3 →
        s.sec.challenge = some n → signingKey s (rec8 p 0 1) = some key → ecdsaVerify key (n ++ devId) (p.drop 1) = true →
        Runs (.auth seq p true) s fun u => ok 0x0A u ∧ u.sec.session = true) ∧
      (portRuns s 0x0B seq p true → p.length = 48 → s.sec.ownerSet = false → s.sec.ownerHash = none →
        Runs (.owner seq p true) s fun u => ok 0x0B u ∧ u.sec.ownerHash = some p)) ∧
    Runs (.acserResponseRead true) s (fun u => ∀ k, k ∈ u.aon.alerts ↔ k ∈ s.aon.alerts ∧ (reportedCauses s.sec.resp).testBit k = false) ∧
    Runs .acserSessionTimeout s (fun u => u.sec.session = false) ∧
    (∀ r rest, s.bbxQueue = r :: rest → s.bbx.slots ≤ 16384 → nextSlot s.bbx < s.bbx.slots →
      Runs .bbxRecordWritten s fun u => u.bbxQueue = rest ∧ u.bbx.seq = s.bbx.seq + 1) ∧
    (s.aon.boot = .off → Runs (.powerOnReset true) s fun u => u.aon.boot = .aonReset) ∧
    (s.aon.boot = .aonReset → Runs (.crystalStable true none) s fun u => u.aon.boot = (if s.aon.failLow then .railDefer else .rails) ∧
      u.bbx.boot = s.bbx.boot + 1) ∧
    (s.aon.boot = .rails → (∀ b, Runs (.pwrGoodCoreRise true b) s fun u => u.up = true ∧ activePair u = 0) ∧
      Runs .pwrGoodTimeout s fun u => u.aon.boot = .railsFailed) ∧
    (s.aon.boot = .coreHeld → s.aon.failLow = false → ∀ b, Runs (.coreResetRelease true b) s fun u => u.up = true ∧ activePair u = 0) ∧
    (s.up = true → (s.aon.boot = .rom → Runs .recoverWindowTimeout s fun u => u.aon.window = false) ∧
      (∀ slot img bad, s.aon.boot = .rom → s.aon.window = false → chooseImage s = some (slot, img) →
        Runs (.firmwareStart bad) s fun u => u.aon.boot = .training) ∧
      (s.aon.boot = .training → Runs (.gddr6TrainingEnd none) s fun u => u.aon.boot = .trained) ∧
      (s.aon.boot = .trained → rb s R.mstStatus 0 = true → Runs .startupReady s fun u => u.aon.boot = .ready ∧ rb u R.glbStatus 0 = true))

/-- Every command of the chapters 06 to 21 does, under conditions on the state and its operands alone, what its chapter gives as its
effect. -/
def Obligations.CommandsCompleteWithTheirEffect : Prop :=
  ruleVisionCompletes ∧ ruleGatesComplete ∧ ruleTilesComplete ∧ ruleMemoryCompletes ∧ ruleFusionCompletes ∧ ruleSolverCompletes ∧
    rulePlaceRecognitionCompletes ∧ ruleMapStoreCompletes ∧ ruleHostRingsComplete ∧ ruleOpcodesComplete ∧ ruleFaultsAndPowerComplete ∧
    rulePowerAndStartUpComplete
end

