-- ==== Sys2Proof/Laws/Tab.lean ====
section
/-! SUPPORT. Laws of sparse tables: read after write, and that a write keeps the canonical form. -/

namespace Sys2Proof.Machine

variable {α : Type}

theorem tabGet_del_same (d : α) (t : Tab α) (k : Nat) : tabGet d (tabDel k t) k = d := by
  induction t with
  | nil => rfl
  | cons e t ih =>
    obtain ⟨k', v⟩ := e
    by_cases h : k = k'
    · simp [tabDel, h]; simpa [h] using ih
    · simp [tabDel, h, tabGet, ih]

theorem tabGet_del_other (d : α) (t : Tab α) {k a : Nat} (h : a ≠ k) :
    tabGet d (tabDel k t) a = tabGet d t a := by
  induction t with
  | nil => rfl
  | cons e t ih =>
    obtain ⟨k', v⟩ := e
    by_cases hk : k = k'
    · subst hk; simp [tabDel, tabGet, h, ih]
    · simp [tabDel, hk, tabGet, ih]

theorem tabGet_ins_same (d : α) (t : Tab α) (k : Nat) (v : α) (hd : ∀ e ∈ t, e.1 ≠ k) :
    tabGet d (tabIns k v t) k = v := by
  induction t with
  | nil => simp [tabIns, tabGet]
  | cons e t ih =>
    obtain ⟨k', v'⟩ := e
    have hne : k ≠ k' := fun h => hd (k', v') (by simp) h.symm
    by_cases hlt : k < k'
    · simp [tabIns, hlt, tabGet]
    · simp [tabIns, hlt, tabGet, hne]
      exact ih fun e he => hd e (by simp [he])

theorem tabGet_ins_other (d : α) (t : Tab α) {k a : Nat} (v : α) (h : a ≠ k) :
    tabGet d (tabIns k v t) a = tabGet d t a := by
  induction t with
  | nil => simp [tabIns, tabGet, h]
  | cons e t ih =>
    obtain ⟨k', v'⟩ := e
    by_cases hlt : k < k'
    · simp [tabIns, hlt, tabGet, h]
    · simp [tabIns, hlt, tabGet, ih]

theorem tabDel_not_mem (t : Tab α) (k : Nat) : ∀ e ∈ tabDel k t, e.1 ≠ k := by
  induction t with
  | nil => simp [tabDel]
  | cons e t ih =>
    obtain ⟨k', v⟩ := e
    by_cases hk : k = k'
    · intro e he; exact ih e (by simpa [tabDel, hk] using he)
    · intro e he
      rcases (by simpa [tabDel, hk] using he : e = (k', v) ∨ e ∈ tabDel k t) with rfl | he
      · exact fun h => hk h.symm
      · exact ih e he

/-- A read of the key just written gives the value written. -/
@[simp] theorem tabGet_set_same [DecidableEq α] (d : α) (t : Tab α) (k : Nat) (v : α) :
    tabGet d (tabSet d t k v) k = v := by
  by_cases h : v = d
  · simp [tabSet, h, tabGet_del_same]
  · simp [tabSet, h, tabGet_ins_same d _ k v (tabDel_not_mem t k)]

/-- A write leaves every other key alone. -/
theorem tabGet_set_other [DecidableEq α] (d d' : α) (t : Tab α) {k a : Nat} (v : α) (h : a ≠ k) :
    tabGet d' (tabSet d t k v) a = tabGet d' t a := by
  by_cases hv : v = d
  · simp [tabSet, hv, tabGet_del_other d' t h]
  · simp [tabSet, hv, tabGet_ins_other d' _ v h, tabGet_del_other d' t h]

theorem tabSorted_weaken {t : Tab α} {b c : Nat} (hbc : c ≤ b) (h : tabSorted b t = true) :
    tabSorted c t = true := by
  cases t with
  | nil => rfl
  | cons e t =>
    simp [tabSorted] at h ⊢
    exact ⟨by omega, h.2⟩

theorem tabSorted_del {t : Tab α} (k : Nat) : ∀ {b : Nat}, tabSorted b t = true →
    tabSorted b (tabDel k t) = true := by
  induction t with
  | nil => intro b _; rfl
  | cons e t ih =>
    intro b h
    simp [tabSorted] at h
    by_cases hk : k = e.1
    · simp [tabDel, hk]
      exact tabSorted_weaken (by omega) (hk ▸ ih h.2)
    · simp [tabDel, hk, tabSorted]
      exact ⟨h.1, ih h.2⟩

theorem tabSorted_ins {t : Tab α} {k : Nat} (v : α) : ∀ {b : Nat}, tabSorted b t = true → b ≤ k →
    (∀ e ∈ t, e.1 ≠ k) → tabSorted b (tabIns k v t) = true := by
  induction t with
  | nil => intro b _ hb _; simp [tabIns, tabSorted, hb]
  | cons e t ih =>
    intro b h hb hn
    obtain ⟨k', v'⟩ := e
    simp [tabSorted] at h
    have hne : k' ≠ k := hn (k', v') (by simp)
    by_cases hlt : k < k'
    · simp [tabIns, hlt, tabSorted, hb, h.2]
    · simp [tabIns, hlt, tabSorted, h.1]
      exact ih h.2 (by omega) fun e he => hn e (by simp [he])

theorem mem_tabIns {t : Tab α} {k : Nat} {v : α} {e : Nat × α} (h : e ∈ tabIns k v t) :
    e = (k, v) ∨ e ∈ t := by
  induction t with
  | nil => simpa [tabIns] using h
  | cons e' t ih =>
    obtain ⟨k', v'⟩ := e'
    by_cases hlt : k < k'
    · simpa [tabIns, hlt] using h
    · rcases (by simpa [tabIns, hlt] using h : e = (k', v') ∨ e ∈ tabIns k v t) with h | h
      · simp [h]
      · rcases ih h with h | h <;> simp [h]

theorem mem_tabDel {t : Tab α} {k : Nat} {e : Nat × α} (h : e ∈ tabDel k t) : e ∈ t := by
  induction t with
  | nil => simp [tabDel] at h
  | cons e' t ih =>
    obtain ⟨k', v'⟩ := e'
    by_cases hk : k = k'
    · simp [tabDel, hk] at h; simp [ih (hk ▸ h)]
    · rcases (by simpa [tabDel, hk] using h : e = (k', v') ∨ e ∈ tabDel k t) with h | h
      · simp [h]
      · simp [ih h]

/-- Every write keeps the canonical form. -/
theorem tabSet_wf [DecidableEq α] (d : Nat → α) (t : Tab α) (k : Nat) (v : α)
    (h : tabWf d t = true) : tabWf d (tabSet (d k) t k v) = true := by
  simp [tabWf] at h ⊢
  obtain ⟨hs, hd⟩ := h
  by_cases hv : v = d k
  · simp [tabSet, hv]
    exact ⟨tabSorted_del k hs, fun a b he => hd a b (mem_tabDel he)⟩
  · simp [tabSet, hv]
    refine ⟨tabSorted_ins v (tabSorted_del k hs) (Nat.zero_le _) (tabDel_not_mem t k), ?_⟩
    intro a b he
    rcases mem_tabIns he with h | h
    · cases h; exact hv
    · exact hd a b (mem_tabDel h)

end Sys2Proof.Machine
end

