-- ==== Sys2Proof/Laws/Keeps.lean ====
section
/-! SUPPORT. `Keeps s t`: how it is composed, and the few operations that touch what it speaks of. Every other function keeps
it because it changes neither memory, nor registers, nor counts, nor fuses but through these. -/

namespace Sys2Proof.Machine

theorem Keeps.refl (s : State) : Keeps s s := ⟨rfl, rfl, rfl, Nat.le_refl _, Nat.le_refl _, fun _ h => h, id⟩

theorem Keeps.trans {s t u : State} (a : Keeps s t) (b : Keeps t u) : Keeps s u :=
  ⟨b.pending.trans a.pending, b.straps.trans a.straps, b.gradeX.trans a.gradeX, Nat.le_trans a.svn b.svn,
    Nat.le_trans a.vr b.vr, fun h e => b.owner h (a.owner h e), fun i => b.inv (a.inv i)⟩

/-- A state that agrees with `t` on all that `Keeps` speaks of. -/
theorem Keeps.same {s t u : State} (h : Keeps s t) (hp : u.pending = t.pending) (hs : u.straps = t.straps)
    (hg : u.gradeX = t.gradeX) (hr : u.regs = t.regs) (hm : u.mem = t.mem) (hc : u.sem.count = t.sem.count)
    (hb : u.bbx.mram = t.bbx.mram) (hq : u.bbxQueue = t.bbxQueue) (hf : u.sec.fuseSvn = t.sec.fuseSvn)
    (hv : u.sec.fuseVr = t.sec.fuseVr) (ho : u.sec.ownerHash = t.sec.ownerHash) (hn : u.sec.nor = t.sec.nor)
    (hw : u.heldWrites = t.heldWrites) : Keeps s u :=
  ⟨hp.trans h.pending, hs.trans h.straps, hg.trans h.gradeX, hf ▸ h.svn, hv ▸ h.vr, fun k e => ho.trans (h.owner k e),
    fun i => let j := h.inv i
      ⟨hm ▸ j.mem, hr ▸ j.regs, hc ▸ j.sems, hb ▸ j.mram, hn ▸ j.nor, hq ▸ j.queue, hf ▸ j.svn, hv ▸ j.vr, hw ▸ j.held⟩⟩

/-- The same for a state written out, as a record update is. -/
theorem Keeps.mk_same {s t : State} {pending' : List Instr} {up' : Bool} {straps' : BitVec 5} {gradeX' : Bool}
    {regs' : Tab Word} {cap' : Tab DWord} {capFrac' : Tab Word} {rdata' : DWord} {mem' : List Host.Cell}
    {poison' flips' : List Nat} {edc' : Tab Nat} {heldWrites' : List HeldByte} {msixSent' : List Nat} {evtNext' : Word}
    {bbxQueue' : List BbxRec} {gated' : Bool} {fresh' : Nat} {dt' : Dt} {ptp' : Ptp} {sg' : Sg} {sem' : Sem} {evc' : Evc}
    {ing' : Ing} {ifc' : Ifc} {vis' : Vis} {fgs' : Fgs} {pwr' : Pwr} {hif' : Hif} {tiles' : Tiles} {memx' : Mem}
    {tfu' : Tfu} {lse' : Lse} {mst' : Mst} {prs' : Prs} {safe' : Safe} {bbx' : Bbx} {aon' : Aon} {sec' : Sec}
    (h : Keeps s t) (hp : pending' = t.pending) (hs : straps' = t.straps) (hg : gradeX' = t.gradeX) (hr : regs' = t.regs)
    (hm : mem' = t.mem) (hc : sem'.count = t.sem.count) (hb : bbx'.mram = t.bbx.mram) (hq : bbxQueue' = t.bbxQueue)
    (hf : sec'.fuseSvn = t.sec.fuseSvn) (hv : sec'.fuseVr = t.sec.fuseVr) (ho : sec'.ownerHash = t.sec.ownerHash)
    (hn : sec'.nor = t.sec.nor) (hw : heldWrites' = t.heldWrites) : Keeps s (State.mk pending' up' straps' gradeX' regs' cap' capFrac' rdata' mem' poison'
    flips' edc' heldWrites' msixSent' evtNext' bbxQueue' gated' fresh' dt' ptp' sg' sem' evc' ing' ifc' vis' fgs' pwr' hif' tiles'
    memx' tfu' lse' mst' prs' safe' bbx' aon' sec') :=
  h.same hp hs hg hr hm hc hb hq hf hv ho hn hw

/-- One step further where only part of the invariant is at stake. -/
theorem Keeps.step {s t u : State} (h : Keeps s t) (hp : u.pending = t.pending) (hs : u.straps = t.straps)
    (hg : u.gradeX = t.gradeX) (hf : t.sec.fuseSvn ≤ u.sec.fuseSvn) (hv : t.sec.fuseVr ≤ u.sec.fuseVr)
    (ho : ∀ k, t.sec.ownerHash = some k → u.sec.ownerHash = some k) (hi : Inv t → Inv u) : Keeps s u :=
  h.trans ⟨hp, hs, hg, hf, hv, ho, hi⟩

theorem Keeps.ite {s : State} {c : Prop} [Decidable c] {a b : State} (ha : Keeps s a) (hb : Keeps s b) :
    Keeps s (if c then a else b) := by split <;> assumption

theorem Keeps.foldl {α : Type} {s : State} (f : State → α → State) (l : List α) (t : State) (ht : Keeps s t)
    (hf : ∀ u x, Keeps s u → Keeps s (f u x)) : Keeps s (l.foldl f t) := by
  induction l generalizing t with
  | nil => exact ht
  | cons x l ih => exact ih (f t x) (hf t x ht)

theorem Keeps.of_snd {α : Type} {s : State} {p : α × State} {a : α} {t : State} (e : p = (a, t)) (h : Keeps s p.2) : Keeps s t := by
  subst e; exact h

theorem Keeps.of_last {α β : Type} {s : State} {p : α × β × State} {a : α} {b : β} {t : State} (e : p = (a, b, t))
    (h : Keeps s p.2.2) : Keeps s t := by
  subst e; exact h

theorem Keeps.of_fst {α : Type} {s : State} {p : State × α} {a : α} {t : State} (e : p = (t, a)) (h : Keeps s p.1) : Keeps s t := by
  subst e; exact h

/-- Every state an option holds is kept. -/
def KeepsOpt (s : State) (o : Option State) : Prop := ∀ t, o = some t → Keeps s t

/-- Every state an outcome goes on with is kept. -/
def KeepsOut (s : State) (o : Out) : Prop := ∀ t, o = .next t → Keeps s t

theorem KeepsOut.ite {s : State} {c : Prop} [Decidable c] {a b : Out} (ha : KeepsOut s a) (hb : KeepsOut s b) :
    KeepsOut s (if c then a else b) := by split <;> assumption

theorem KeepsOpt.ite {s : State} {c : Prop} [Decidable c] {a b : Option State} (ha : KeepsOpt s a) (hb : KeepsOpt s b) :
    KeepsOpt s (if c then a else b) := by split <;> assumption

theorem KeepsOpt.none {s : State} : KeepsOpt s none := by intro t e; cases e

theorem KeepsOpt.some {s t : State} (h : Keeps s t) : KeepsOpt s (some t) := by intro u e; cases e; exact h

theorem KeepsOpt.map {α : Type} {s : State} {o : Option α} {f : α → State} (h : ∀ x, o = Option.some x → Keeps s (f x)) :
    KeepsOpt s (o.map f) := by
  cases o with
  | none => exact KeepsOpt.none
  | some x => exact KeepsOpt.some (h x rfl)

theorem KeepsOpt.bind {α : Type} {s : State} {o : Option α} {f : α → Option State}
    (h : ∀ x, o = Option.some x → KeepsOpt s (f x)) : KeepsOpt s (o.bind f) := by
  cases o with
  | none => exact KeepsOpt.none
  | some x => exact h x rfl

theorem KeepsOpt.of {s t : State} {o : Option State} (e : o = Option.some t) (h : KeepsOpt s o) : Keeps s t := h t e

theorem KeepsOpt.getD {s d : State} {o : Option State} (h : KeepsOpt s o) (k : Keeps s d) : Keeps s (o.getD d) := by
  cases o with
  | none => exact k
  | some x => exact h x rfl

theorem KeepsOpt.orElse {s : State} {o : Option State} {f : Unit → Option State} (h : KeepsOpt s o) (k : KeepsOpt s (f ())) :
    KeepsOpt s (o.orElse f) := by
  cases o with
  | none => exact k
  | some x => exact h

theorem KeepsOpt.findSome {α : Type} {s : State} {l : List α} {f : α → Option State} (h : ∀ x, KeepsOpt s (f x)) :
    KeepsOpt s (l.findSome? f) := by
  intro t e
  obtain ⟨x, -, hx⟩ := List.exists_of_findSome?_eq_some e
  exact h x t hx

theorem KeepsOpt.foldl {α : Type} {s : State} (f : Option State → α → Option State) (l : List α) (o : Option State)
    (h : KeepsOpt s o) (hf : ∀ u x, KeepsOpt s u → KeepsOpt s (f u x)) : KeepsOpt s (l.foldl f o) := by
  induction l generalizing o with
  | nil => exact h
  | cons x l ih => exact ih _ (hf o x h)

/-- Every state an optional pair holds is kept. -/
def KeepsPair {α : Type} (s : State) (o : Option (α × State)) : Prop := ∀ x, o = some x → Keeps s x.2

theorem KeepsPair.none {α : Type} {s : State} : KeepsPair (α := α) s none := by intro x e; cases e

theorem KeepsPair.some {α : Type} {s : State} {x : α × State} (h : Keeps s x.2) : KeepsPair s (some x) := by
  intro u e; cases e; exact h

theorem KeepsPair.ite {α : Type} {s : State} {c : Prop} [Decidable c] {a b : Option (α × State)} (ha : KeepsPair s a)
    (hb : KeepsPair s b) : KeepsPair s (if c then a else b) := by split <;> assumption

theorem KeepsPair.map {α β : Type} {s : State} {o : Option β} {f : β → α × State}
    (h : ∀ x, o = Option.some x → Keeps s (f x).2) : KeepsPair s (o.map f) := by
  cases o with
  | none => exact KeepsPair.none
  | some x => exact KeepsPair.some (h x rfl)

theorem KeepsPair.bind {α β : Type} {s : State} {o : Option β} {f : β → Option (α × State)}
    (h : ∀ x, o = Option.some x → KeepsPair s (f x)) : KeepsPair s (o.bind f) := by
  cases o with
  | none => exact KeepsPair.none
  | some x => exact h x rfl

theorem KeepsPair.of {α : Type} {s t : State} {o : Option (α × State)} {a : α} (e : o = Option.some (a, t))
    (h : KeepsPair s o) : Keeps s t := h (a, t) e

theorem KeepsPair.at {α : Type} {s : State} {o : Option (α × State)} {x : α × State} (e : o = Option.some x)
    (h : KeepsPair s o) : Keeps s x.2 := h x e

theorem KeepsOut.next {s t : State} (h : Keeps s t) : KeepsOut s (.next t) := by
  intro u e; cases e; exact h

theorem fabric_keeps {s0 : State} (s : State) (f : State → State) (h : Keeps s0 s) (hf : ∀ t, Keeps s0 t → Keeps s0 (f t)) :
    KeepsOut s0 (fabric s f) := by
  unfold fabric
  split
  · exact KeepsOut.next (hf s h)
  · exact KeepsOut.next h

theorem when_keeps {s0 : State} (c : Bool) (f : State → State) (s : State) (h : Keeps s0 s)
    (hf : ∀ t, Keeps s0 t → Keeps s0 (f t)) : Keeps s0 (when c f s) := Keeps.ite (hf s h) h

/-! ### The operations that touch memory, registers, counts and the queue -/

theorem wr_keeps {s0 : State} (s : State) (a : Nat) (v : Word) (h : Keeps s0 s) : Keeps s0 (wr s a v) :=
  h.step rfl rfl rfl (Nat.le_refl _) (Nat.le_refl _) (fun _ e => e) fun i =>
    ⟨i.mem, tabSet_wf resetVal s.regs a v i.regs, i.sems, i.mram, i.nor, i.queue, i.svn, i.vr, i.held⟩

theorem stPhys_keeps {s0 : State} (s : State) (p : Nat) (b : Byte) (h : Keeps s0 s) : Keeps s0 (stPhys s p b) :=
  h.step rfl rfl rfl (Nat.le_refl _) (Nat.le_refl _) (fun _ e => e) fun i =>
    ⟨tabSet_wf (fun _ => 0) s.mem p b i.mem, i.regs, i.sems, i.mram, i.nor, i.queue, i.svn, i.vr, i.held⟩

theorem semStore_keeps {s0 : State} (s : State) (i : Nat) (v : Word) (h : Keeps s0 s) : Keeps s0 (semStore s i v) := by
  unfold semStore
  split
  · exact h
  · exact h.step rfl rfl rfl (Nat.le_refl _) (Nat.le_refl _) (fun _ e => e) fun j =>
      ⟨j.mem, j.regs, tabSet_wf (fun _ => 0) s.sem.count i v j.sems, j.mram, j.nor, j.queue, j.svn, j.vr, j.held⟩

theorem setSec_keeps {s0 : State} (s : State) (f : Sec → Sec)
    (hf : ∀ c, (f c).fuseSvn = c.fuseSvn ∧ (f c).fuseVr = c.fuseVr ∧ (f c).ownerHash = c.ownerHash ∧ (f c).nor = c.nor)
    (h : Keeps s0 s) : Keeps s0 (setSec s f) :=
  h.same rfl rfl rfl rfl rfl rfl rfl rfl (hf _).1 (hf _).2.1 (hf _).2.2.1 (hf _).2.2.2 rfl

/-- A table less some of its entries keeps its form. -/
theorem tabWf_filter {α : Type} [DecidableEq α] (d : Nat → α) (t : Tab α) (p : Nat × α → Bool) (h : tabWf d t = true) :
    tabWf d (t.filter p) = true := by
  have go : ∀ (t : Tab α) (b : Nat), tabSorted b t = true → tabSorted b (t.filter p) = true := by
    intro t
    induction t with
    | nil => intro _ _; rfl
    | cons e t ih =>
      intro b hb
      simp [tabSorted] at hb
      by_cases hp : p e = true
      · simp [List.filter, hp, tabSorted]; exact ⟨hb.1, ih _ hb.2⟩
      · simp [List.filter, hp]; exact tabSorted_weaken (by omega) (ih _ hb.2)
  simp [tabWf] at h ⊢
  exact ⟨go t 0 h.1, fun a b he => Or.inr (h.2 a b he)⟩

/-- Writes in a row keep the form. -/
theorem tabWf_foldl {α β : Type} [DecidableEq α] (d : α) (l : List β) (k : β → Nat) (v : β → α) (t : Tab α)
    (h : tabWf (fun _ => d) t = true) : tabWf (fun _ => d) (l.foldl (fun m e => tabSet d m (k e) (v e)) t) = true := by
  induction l generalizing t with
  | nil => exact h
  | cons e l ih => exact ih _ (tabSet_wf (fun _ => d) t (k e) (v e) h)

end Sys2Proof.Machine
end

