-- ==== Sys2Proof/Laws/KeepsOps.lean ====
section
/-! SUPPORT. What the functions of Machine/Ops.lean keep: the queue of commands, the straps, the fuses and the canonical forms. -/

namespace Sys2Proof.Machine

theorem setBits_keeps {s0 : State} : ∀ s1 x1 x2, Keeps s0 s1 → Keeps s0 (setBits s1 x1 x2) := by
  intro s1 x1 x2 h0
  unfold setBits
  apply wr_keeps
  assumption

theorem clrBits_keeps {s0 : State} : ∀ s1 x1 x2, Keeps s0 s1 → Keeps s0 (clrBits s1 x1 x2) := by
  intro s1 x1 x2 h0
  unfold clrBits
  apply wr_keeps
  assumption

theorem bump_keeps {s0 : State} : ∀ s1 x1, Keeps s0 s1 → Keeps s0 (bump s1 x1) := by
  intro s1 x1 h0
  unfold bump
  apply wr_keeps
  assumption

theorem bumpN_keeps {s0 : State} : ∀ s1 x1 x2, Keeps s0 s1 → Keeps s0 (bumpN s1 x1 x2) := by
  intro s1 x1 x2 h0
  unfold bumpN
  apply wr_keeps
  assumption

theorem bumpWrapN_keeps {s0 : State} : ∀ s1 x1 x2, Keeps s0 s1 → Keeps s0 (bumpWrapN s1 x1 x2) := by
  intro s1 x1 x2 h0
  unfold bumpWrapN
  apply wr_keeps
  assumption

theorem bumpWrap_keeps {s0 : State} : ∀ s1 x1, Keeps s0 s1 → Keeps s0 (bumpWrap s1 x1) := by
  intro s1 x1 h0
  unfold bumpWrap
  apply bumpWrapN_keeps
  assumption

theorem wf_keeps {s0 : State} : ∀ s1 x1 x2 x3 x4, Keeps s0 s1 → Keeps s0 (wf s1 x1 x2 x3 x4) := by
  intro s1 x1 x2 x3 x4 h0
  unfold wf
  apply wr_keeps
  assumption

theorem errInfo_keeps {s0 : State} : ∀ s1 x1 x2 x3 x4, Keeps s0 s1 → Keeps s0 (errInfo s1 x1 x2 x3 x4) := by
  intro s1 x1 x2 x3 x4 h0
  unfold errInfo
  apply setBits_keeps
  apply Keeps.ite
  · apply wr_keeps
    assumption
  · assumption

theorem glbErr_keeps {s0 : State} : ∀ s1 x1 x2, Keeps s0 s1 → Keeps s0 (glbErr s1 x1 x2) := by
  intro s1 x1 x2 h0
  unfold glbErr
  apply errInfo_keeps
  assumption

theorem capture_keeps {s0 : State} : ∀ s1 x1 x2, Keeps s0 s1 → Keeps s0 (capture s1 x1 x2) := by
  intro s1 x1 x2 h0
  unfold capture
  refine Keeps.mk_same ?_ rfl rfl rfl rfl rfl rfl rfl rfl rfl rfl rfl rfl rfl
  assumption

theorem drawNat_keeps {s0 : State} : ∀ s1, Keeps s0 s1 → Keeps s0 (drawNat s1).2 := by
  intro s1 h0
  unfold drawNat
  dsimp only
  refine Keeps.mk_same ?_ rfl rfl rfl rfl rfl rfl rfl rfl rfl rfl rfl rfl rfl
  assumption

theorem drawInt_keeps {s0 : State} : ∀ s1, Keeps s0 s1 → Keeps s0 (drawInt s1).2 := by
  intro s1 h0
  unfold drawInt
  dsimp only
  refine Keeps.mk_same ?_ rfl rfl rfl rfl rfl rfl rfl rfl rfl rfl rfl rfl rfl
  assumption

theorem errFree_keeps {s0 : State} : ∀ s1 x1 x2 x3 x4, Keeps s0 s1 → Keeps s0 (errFree s1 x1 x2 x3 x4) := by
  intro s1 x1 x2 x3 x4 h0
  unfold errFree
  split
  apply errInfo_keeps
  refine Keeps.of_snd (by assumption) ?_
  apply drawNat_keeps
  assumption

theorem glideErr_keeps {s0 : State} : ∀ s1, Keeps s0 s1 → Keeps s0 (glideErr s1) := by
  intro s1 h0
  unfold glideErr
  apply errFree_keeps
  assumption

theorem stByte_keeps {s0 : State} : ∀ s1 x1 x2, Keeps s0 s1 → Keeps s0 (stByte s1 x1 x2) := by
  intro s1 x1 x2 h0
  unfold stByte
  split
  · assumption
  · split
    · rename_i hf
      refine h0.step rfl rfl rfl (Nat.le_refl _) (Nat.le_refl _) (fun _ e => e) fun i =>
        ⟨i.mem, i.regs, i.sems, i.mram, i.nor, i.queue, i.svn, i.vr, fun e he => ?_⟩
      rcases List.mem_append.mp he with h | h
      · exact i.held e h
      · simp only [List.mem_singleton] at h
        subst h
        simp only [fenced, Bool.and_eq_true, decide_eq_true_eq] at hf
        exact hf.1
    · split
      · apply glideErr_keeps
        assumption
      · apply stPhys_keeps
        assumption

theorem stAll_keeps {s0 : State} : ∀ s1 x1 x2, Keeps s0 s1 → Keeps s0 (stAll s1 x1 x2) := by
  intro s1 x1 x2 h0
  induction x2 generalizing s1 x1 with
  | nil => exact h0
  | cons b t ih => exact ih _ _ (stByte_keeps _ _ _ h0)

theorem corrected_keeps {s0 : State} : ∀ s1 x1, Keeps s0 s1 → Keeps s0 (corrected s1 x1) := by
  intro s1 x1 h0
  unfold corrected
  apply Keeps.ite
  · extract_lets +onlyGivenNames v119
    have kv119 : Keeps s0 v119 := by
      subst v119
      apply setBits_keeps
      apply bump_keeps
      with_reducible assumption
    clear_value v119
    refine Keeps.mk_same ?_ rfl rfl rfl rfl rfl rfl rfl rfl rfl rfl rfl rfl rfl
    with_reducible assumption
  · apply Keeps.ite
    · apply bump_keeps
      with_reducible assumption
    · apply Keeps.ite
      · apply bump_keeps
        with_reducible assumption
      · apply bump_keeps
        with_reducible assumption

theorem uncorrectable_keeps {s0 : State} : ∀ s1 x1, Keeps s0 s1 → Keeps s0 (uncorrectable s1 x1) := by
  intro s1 x1 h0
  unfold uncorrectable
  apply Keeps.ite
  · extract_lets +onlyGivenNames v119
    have kv119 : Keeps s0 v119 := by
      subst v119
      apply Keeps.ite
      · with_reducible assumption
      · apply wr_keeps
        apply wr_keeps
        with_reducible assumption
    clear_value v119
    apply setBits_keeps
    apply bump_keeps
    with_reducible assumption
  · apply Keeps.ite
    · apply bump_keeps
      with_reducible assumption
    · apply Keeps.ite
      · apply bump_keeps
        with_reducible assumption
      · with_reducible assumption

theorem retrain_keeps {s0 : State} : ∀ s1 x1 x2, Keeps s0 s1 → Keeps s0 (retrain s1 x1 x2) := by
  intro s1 x1 x2 h0
  unfold retrain
  extract_lets +onlyGivenNames v120
  have kv120 : Keeps s0 v120 := by
    subst v120
    apply setBits_keeps
    apply bump_keeps
    with_reducible assumption
  clear_value v120
  apply Keeps.ite
  · with_reducible assumption
  · apply setBits_keeps
    with_reducible assumption

theorem edcMeet_keeps {s0 : State} : ∀ x0 x1 x2 s4 x4, Keeps s0 s4 → Keeps s0 (edcMeet x0 x1 x2 s4 x4) := by
  intro x0 x1 x2 s4 x4 h0
  unfold edcMeet
  split
  · with_reducible assumption
  · extract_lets +onlyGivenNames v119
    clear_value v119
    extract_lets +onlyGivenNames v118
    clear_value v118
    extract_lets +onlyGivenNames v117
    have kv117 : Keeps s0 v117 := by
      subst v117
      apply bumpN_keeps
      refine Keeps.mk_same ?_ rfl rfl rfl rfl rfl rfl rfl rfl rfl rfl rfl rfl rfl
      with_reducible assumption
    clear_value v117
    extract_lets +onlyGivenNames v116
    have kv116 : Keeps s0 v116 := by
      subst v116
      apply wf_keeps
      with_reducible assumption
    clear_value v116
    apply Keeps.ite
    · split
      extract_lets +onlyGivenNames v113
      have kv113 : Keeps s0 v113 := by
        subst v113
        apply retrain_keeps
        refine Keeps.of_snd (by assumption) ?_
        apply drawNat_keeps
        with_reducible assumption
      clear_value v113
      apply Keeps.ite
      · extract_lets +onlyGivenNames v111
        have kv111 : Keeps s0 v111 := by
          subst v111
          apply setBits_keeps
          with_reducible assumption
        clear_value v111
        apply Keeps.ite
        · refine Keeps.mk_same ?_ rfl rfl rfl rfl rfl rfl rfl rfl rfl rfl rfl rfl rfl
          with_reducible assumption
        · with_reducible assumption
      · with_reducible assumption
    · with_reducible assumption

theorem noteRead_keeps {s0 : State} : ∀ s1 x1 x2, Keeps s0 s1 → Keeps s0 (noteRead s1 x1 x2) := by
  intro s1 x1 x2 h0
  unfold noteRead
  extract_lets +onlyGivenNames v120
  clear_value v120
  extract_lets +onlyGivenNames v119
  have kv119 : Keeps s0 v119 := by
    subst v119
    apply Keeps.foldl
    · with_reducible assumption
    · intro _ _
      intro _
      apply edcMeet_keeps
      with_reducible assumption
  clear_value v119
  extract_lets +onlyGivenNames v118
  have kv118 : Keeps s0 v118 := by
    subst v118
    apply Keeps.foldl
    · with_reducible assumption
    · intro _ _
      intro _
      apply corrected_keeps
      with_reducible assumption
  clear_value v118
  apply Keeps.foldl
  · with_reducible assumption
  · intro _ _
    intro _
    apply uncorrectable_keeps
    with_reducible assumption

theorem noteWrite_keeps {s0 : State} : ∀ s1 x1 x2, Keeps s0 s1 → Keeps s0 (noteWrite s1 x1 x2) := by
  intro s1 x1 x2 h0
  unfold noteWrite
  extract_lets +onlyGivenNames v120
  clear_value v120
  extract_lets +onlyGivenNames v119
  clear_value v119
  extract_lets +onlyGivenNames v118
  have kv118 : Keeps s0 v118 := by
    subst v118
    apply Keeps.foldl
    · with_reducible assumption
    · intro _ _
      intro _
      apply corrected_keeps
      with_reducible assumption
  clear_value v118
  extract_lets +onlyGivenNames v117
  have kv117 : Keeps s0 v117 := by
    subst v117
    apply Keeps.foldl
    · with_reducible assumption
    · intro _ _
      intro _
      apply uncorrectable_keeps
      with_reducible assumption
  clear_value v117
  extract_lets +onlyGivenNames v116
  have kv116 : Keeps s0 v116 := by
    subst v116
    refine Keeps.mk_same ?_ rfl rfl rfl rfl rfl rfl rfl rfl rfl rfl rfl rfl rfl
    with_reducible assumption
  clear_value v116
  apply Keeps.foldl
  · with_reducible assumption
  · intro _ _
    intro _
    apply edcMeet_keeps
    with_reducible assumption

theorem stBytes_keeps {s0 : State} : ∀ s1 x1 x2, Keeps s0 s1 → Keeps s0 (stBytes s1 x1 x2) := by
  intro s1 x1 x2 h0
  unfold stBytes
  extract_lets +onlyGivenNames v120
  have kv120 : Keeps s0 v120 := by
    subst v120
    apply stAll_keeps
    with_reducible assumption
  clear_value v120
  apply Keeps.ite
  · with_reducible assumption
  · apply Keeps.ite
    · refine Keeps.mk_same ?_ rfl rfl rfl rfl rfl rfl rfl rfl rfl rfl rfl rfl rfl
      with_reducible assumption
    · apply Keeps.ite
      · with_reducible assumption
      · apply noteWrite_keeps
        with_reducible assumption

theorem stN_keeps {s0 : State} : ∀ s1 x1 x2 x3, Keeps s0 s1 → Keeps s0 (stN s1 x1 x2 x3) := by
  intro s1 x1 x2 x3 h0
  unfold stN
  apply stBytes_keeps
  assumption

theorem stZero_keeps {s0 : State} : ∀ s1 x1 x2, Keeps s0 s1 → Keeps s0 (stZero s1 x1 x2) := by
  intro s1 x1 x2 h0
  unfold stZero
  apply stBytes_keeps
  assumption

theorem hostWrite_keeps {s0 : State} : ∀ s1 x1 x2, Keeps s0 s1 → Keeps s0 (hostWrite s1 x1 x2) := by
  intro s1 x1 x2 h0
  unfold hostWrite
  apply Keeps.ite
  · apply stBytes_keeps
    assumption
  · assumption

theorem msixSend_keeps {s0 : State} : ∀ s1 x1, Keeps s0 s1 → Keeps s0 (msixSend s1 x1) := by
  intro s1 x1 h0
  unfold msixSend
  apply Keeps.ite
  · apply setBits_keeps
    assumption
  · apply Keeps.ite
    · refine Keeps.mk_same ?_ rfl rfl rfl rfl rfl rfl rfl rfl rfl rfl rfl rfl rfl
      assumption
    · assumption

theorem postEvent_keeps {s0 : State} : ∀ s1 x1 x2 x3 x4, Keeps s0 s1 → Keeps s0 (postEvent s1 x1 x2 x3 x4) := by
  intro s1 x1 x2 x3 x4 h0
  unfold postEvent
  extract_lets +onlyGivenNames v200
  clear_value v200
  extract_lets +onlyGivenNames v199
  clear_value v199
  extract_lets +onlyGivenNames v198
  clear_value v198
  extract_lets +onlyGivenNames v197
  clear_value v197
  extract_lets +onlyGivenNames v196
  clear_value v196
  extract_lets +onlyGivenNames v195
  have kv195 : Keeps s0 v195 := by
    subst v195
    apply wr_keeps
    refine Keeps.mk_same ?_ rfl rfl rfl rfl rfl rfl rfl rfl rfl rfl rfl rfl rfl
    assumption
  clear_value v195
  apply Keeps.ite
  · apply msixSend_keeps
    apply hostWrite_keeps
    assumption
  · apply bump_keeps
    assumption

theorem bbx_keeps {s0 : State} : ∀ s1 x1 x2 x3 x4, Keeps s0 s1 → Keeps s0 (bbx s1 x1 x2 x3 x4) := by
  intro s1 x1 x2 x3 x4 h0
  unfold bbx
  split
  · exact bump_keeps _ _ (setBits_keeps _ _ _ h0)
  · next hq =>
    exact h0.step rfl rfl rfl (Nat.le_refl _) (Nat.le_refl _) (fun _ e => e) fun i =>
      ⟨i.mem, i.regs, i.sems, i.mram, i.nor, by simp; omega, i.svn, i.vr, i.held⟩

theorem semErr_keeps {s0 : State} : ∀ s1 x1 x2, Keeps s0 s1 → Keeps s0 (semErr s1 x1 x2) := by
  intro s1 x1 x2 h0
  unfold semErr
  apply errInfo_keeps
  assumption

theorem semResult_keeps {s0 : State} : ∀ s1 x1 x2 x3, Keeps s0 s1 → Keeps s0 (semResult s1 x1 x2 x3) := by
  intro s1 x1 x2 x3 h0
  unfold semResult
  refine Keeps.mk_same ?_ rfl rfl rfl rfl rfl rfl rfl rfl rfl rfl rfl rfl rfl
  assumption

theorem semServe_keeps {s0 : State} : ∀ s1 x1 x2, Keeps s0 s1 → Keeps s0 (semServe s1 x1 x2) := by
  intro s1 x1 x2 h0
  unfold semServe
  refine Keeps.mk_same ?_ rfl rfl rfl rfl rfl rfl rfl rfl rfl rfl rfl rfl rfl
  assumption

theorem semAddOp_keeps {s0 : State} : ∀ s1 x1 x2 x3, Keeps s0 s1 → Keeps s0 (semAddOp s1 x1 x2 x3) := by
  intro s1 x1 x2 x3 h0
  unfold semAddOp
  extract_lets +onlyGivenNames v200
  clear_value v200
  extract_lets +onlyGivenNames v199
  have kv199 : Keeps s0 v199 := by
    subst v199
    apply semStore_keeps
    apply semServe_keeps
    assumption
  clear_value v199
  extract_lets +onlyGivenNames v198
  have kv198 : Keeps s0 v198 := by
    subst v198
    apply Keeps.ite
    · apply semErr_keeps
      apply bump_keeps
      assumption
    · assumption
  clear_value v198
  apply semResult_keeps
  assumption

theorem semSubOp_keeps {s0 : State} : ∀ s1 x1 x2 x3, Keeps s0 s1 → Keeps s0 (semSubOp s1 x1 x2 x3) := by
  intro s1 x1 x2 x3 h0
  unfold semSubOp
  extract_lets +onlyGivenNames v200
  clear_value v200
  extract_lets +onlyGivenNames v199
  have kv199 : Keeps s0 v199 := by
    subst v199
    apply semStore_keeps
    apply semServe_keeps
    assumption
  clear_value v199
  extract_lets +onlyGivenNames v198
  have kv198 : Keeps s0 v198 := by
    subst v198
    apply Keeps.ite
    · apply semErr_keeps
      apply bump_keeps
      assumption
    · assumption
  clear_value v198
  apply semResult_keeps
  assumption

theorem semWaitOp_keeps {s0 : State} : ∀ s1 x1 x2 x3, Keeps s0 s1 → Keeps s0 (semWaitOp s1 x1 x2 x3) := by
  intro s1 x1 x2 x3 h0
  unfold semWaitOp
  apply semResult_keeps
  apply semServe_keeps
  assumption

theorem semWaitsubOp_keeps {s0 : State} : ∀ s1 x1 x2 x3, Keeps s0 s1 → Keeps s0 (semWaitsubOp s1 x1 x2 x3) := by
  intro s1 x1 x2 x3 h0
  unfold semWaitsubOp
  extract_lets +onlyGivenNames v200
  clear_value v200
  extract_lets +onlyGivenNames v199
  have kv199 : Keeps s0 v199 := by
    subst v199
    apply semServe_keeps
    assumption
  clear_value v199
  apply semResult_keeps
  apply Keeps.ite
  · apply semStore_keeps
    assumption
  · assumption

theorem semSetOp_keeps {s0 : State} : ∀ s1 x1 x2 x3 x4, Keeps s0 s1 → Keeps s0 (semSetOp s1 x1 x2 x3 x4) := by
  intro s1 x1 x2 x3 x4 h0
  unfold semSetOp
  extract_lets +onlyGivenNames v200
  clear_value v200
  extract_lets +onlyGivenNames v199
  have kv199 : Keeps s0 v199 := by
    subst v199
    apply bump_keeps
    apply semStore_keeps
    apply semServe_keeps
    assumption
  clear_value v199
  extract_lets +onlyGivenNames v198
  clear_value v198
  apply semResult_keeps
  apply bbx_keeps
  assumption

theorem signal_keeps {s0 : State} : ∀ s1 x1 x2 x3, Keeps s0 s1 → Keeps s0 (signal s1 x1 x2 x3) := by
  intro s1 x1 x2 x3 h0
  unfold signal
  apply Keeps.ite
  · assumption
  · apply semAddOp_keeps
    assumption

theorem signalAfter_keeps {s0 : State} : ∀ s1 x1 x2 x3 x4, Keeps s0 s1 → Keeps s0 (signalAfter s1 x1 x2 x3 x4) := by
  intro s1 x1 x2 x3 x4 h0
  unfold signalAfter
  split
  · apply signal_keeps
    with_reducible assumption
  · refine Keeps.mk_same ?_ rfl rfl rfl rfl rfl rfl rfl rfl rfl rfl rfl rfl rfl
    with_reducible assumption

theorem startWait_keeps {s0 : State} : ∀ s1 x1 x2 x3 x4 x5, Keeps s0 s1 → Keeps s0 (startWait s1 x1 x2 x3 x4 x5) := by
  intro s1 x1 x2 x3 x4 x5 h0
  unfold startWait
  refine Keeps.mk_same ?_ rfl rfl rfl rfl rfl rfl rfl rfl rfl rfl rfl rfl rfl
  assumption

theorem dropWaits_keeps {s0 : State} : ∀ s1 x1, Keeps s0 s1 → Keeps s0 (dropWaits s1 x1) := by
  intro s1 x1 h0
  unfold dropWaits
  refine Keeps.mk_same ?_ rfl rfl rfl rfl rfl rfl rfl rfl rfl rfl rfl rfl rfl
  assumption

end Sys2Proof.Machine
end

