-- ==== Sys2Proof/Laws/KeepsEvents.lean ====
section
/-! SUPPORT. What the functions of Machine/Events.lean keep: the queue of commands, the straps, the fuses and the canonical forms. -/

namespace Sys2Proof.Machine

theorem raiseEdge_keeps {s0 : State} : ∀ s1 x1, Keeps s0 s1 → Keeps s0 (raiseEdge s1 x1) := by
  intro s1 x1 h0
  unfold raiseEdge
  apply Keeps.ite
  · refine Keeps.mk_same ?_ rfl rfl rfl rfl rfl rfl rfl rfl rfl rfl rfl rfl rfl
    with_reducible assumption
  · apply Keeps.ite
    · refine Keeps.mk_same ?_ rfl rfl rfl rfl rfl rfl rfl rfl rfl rfl rfl rfl rfl
      with_reducible assumption
    · refine Keeps.mk_same ?_ rfl rfl rfl rfl rfl rfl rfl rfl rfl rfl rfl rfl rfl
      with_reducible assumption

theorem claimAnswer_keeps {s0 : State} : ∀ s1 x1 x2, Keeps s0 s1 → Keeps s0 (claimAnswer s1 x1 x2) := by
  intro s1 x1 x2 h0
  unfold claimAnswer
  refine Keeps.mk_same ?_ rfl rfl rfl rfl rfl rfl rfl rfl rfl rfl rfl rfl rfl
  assumption

theorem claimOne_keeps {s0 : State} : ∀ s1 x1, Keeps s0 s1 → Keeps s0 (claimOne s1 x1) := by
  intro s1 x1 h0
  unfold claimOne
  extract_lets +onlyGivenNames v120
  clear_value v120
  extract_lets +onlyGivenNames v119
  clear_value v119
  extract_lets +onlyGivenNames v118
  clear_value v118
  extract_lets +onlyGivenNames v117
  clear_value v117
  extract_lets +onlyGivenNames v116
  have kv116 : Keeps s0 v116 := by
    subst v116
    refine Keeps.mk_same ?_ rfl rfl rfl rfl rfl rfl rfl rfl rfl rfl rfl rfl rfl
    with_reducible assumption
  clear_value v116
  apply Keeps.ite
  · apply claimAnswer_keeps
    with_reducible assumption
  · apply Keeps.ite
    · apply claimAnswer_keeps
      with_reducible assumption
    · apply claimAnswer_keeps
      refine Keeps.mk_same ?_ rfl rfl rfl rfl rfl rfl rfl rfl rfl rfl rfl rfl rfl
      with_reducible assumption

theorem unclaim_keeps {s0 : State} : ∀ s1 x1, Keeps s0 s1 → Keeps s0 (unclaim s1 x1) := by
  intro s1 x1 h0
  unfold unclaim
  apply Keeps.ite
  · with_reducible assumption
  · refine Keeps.mk_same ?_ rfl rfl rfl rfl rfl rfl rfl rfl rfl rfl rfl rfl rfl
    with_reducible assumption

theorem execEvcClaim_keeps {s0 : State} : ∀ x0 x1 s3, Keeps s0 s3 → KeepsOut s0 (execEvcClaim x0 x1 s3) := by
  intro x0 x1 s3 h0
  unfold execEvcClaim
  apply fabric_keeps
  · with_reducible assumption
  · intro _ _
    extract_lets +onlyGivenNames v117
    clear_value v117
    extract_lets +onlyGivenNames v116
    clear_value v116
    extract_lets +onlyGivenNames v115
    clear_value v115
    extract_lets +onlyGivenNames v114
    have kv114 : Keeps s0 v114 := by
      subst v114
      apply Keeps.foldl
      · with_reducible assumption
      · intro _ _
        intro _
        apply unclaim_keeps
        with_reducible assumption
    clear_value v114
    extract_lets +onlyGivenNames v113
    clear_value v113
    extract_lets +onlyGivenNames v112
    have kv112 : Keeps s0 v112 := by
      subst v112
      refine Keeps.mk_same ?_ rfl rfl rfl rfl rfl rfl rfl rfl rfl rfl rfl rfl rfl
      with_reducible assumption
    clear_value v112
    apply Keeps.foldl
    · apply claimOne_keeps
      with_reducible assumption
    · intro _ _
      intro _
      apply claimOne_keeps
      with_reducible assumption

theorem completeSource_keeps {s0 : State} : ∀ s1 x1 x2, Keeps s0 s1 → Keeps s0 (completeSource s1 x1 x2) := by
  intro s1 x1 x2 h0
  unfold completeSource
  refine Keeps.mk_same ?_ rfl rfl rfl rfl rfl rfl rfl rfl rfl rfl rfl rfl rfl
  assumption

theorem execEvcComplete_keeps {s0 : State} : ∀ x0 x1 s3, Keeps s0 s3 → KeepsOut s0 (execEvcComplete x0 x1 s3) := by
  intro x0 x1 s3 h0
  unfold execEvcComplete
  apply fabric_keeps
  · assumption
  · intro _ _
    extract_lets +onlyGivenNames v197
    clear_value v197
    apply Keeps.ite
    · assumption
    · apply Keeps.ite
      · apply completeSource_keeps
        assumption
      · apply errInfo_keeps
        assumption

theorem evcHostWr_keeps {s0 : State} : ∀ s1, Keeps s0 s1 → Keeps s0 (evcHostWr s1) := by
  intro s1 h0
  unfold evcHostWr
  apply errFree_keeps
  assumption

theorem execEvcPendSet_keeps {s0 : State} : ∀ x0 x1 x2 s4, Keeps s0 s4 → KeepsOut s0 (execEvcPendSet x0 x1 x2 s4) := by
  intro x0 x1 x2 s4 h0
  unfold execEvcPendSet
  apply fabric_keeps
  · assumption
  · intro _ _
    apply Keeps.ite
    · apply evcHostWr_keeps
      assumption
    · refine Keeps.mk_same ?_ rfl rfl rfl rfl rfl rfl rfl rfl rfl rfl rfl rfl rfl
      assumption

theorem execEvcPendClr_keeps {s0 : State} : ∀ x0 x1 x2 s4, Keeps s0 s4 → KeepsOut s0 (execEvcPendClr x0 x1 x2 s4) := by
  intro x0 x1 x2 s4 h0
  unfold execEvcPendClr
  apply fabric_keeps
  · assumption
  · intro _ _
    apply Keeps.ite
    · apply evcHostWr_keeps
      assumption
    · refine Keeps.mk_same ?_ rfl rfl rfl rfl rfl rfl rfl rfl rfl rfl rfl rfl rfl
      assumption

theorem armWake_keeps {s0 : State} : ∀ s1, Keeps s0 s1 → Keeps s0 (armWake s1) := by
  intro s1 h0
  unfold armWake
  refine Keeps.mk_same ?_ rfl rfl rfl rfl rfl rfl rfl rfl rfl rfl rfl rfl rfl
  assumption

theorem execWakeEdge_keeps {s0 : State} : ∀ x0 s2, Keeps s0 s2 → KeepsOut s0 (execWakeEdge x0 s2) := by
  intro x0 s2 h0
  unfold execWakeEdge
  extract_lets +onlyGivenNames v200
  clear_value v200
  apply KeepsOut.next
  apply Keeps.ite
  · assumption
  · apply Keeps.ite
    · apply Keeps.ite
      · refine Keeps.mk_same ?_ rfl rfl rfl rfl rfl rfl rfl rfl rfl rfl rfl rfl rfl
        assumption
      · assumption
    · apply Keeps.ite
      · apply raiseEdge_keeps
        assumption
      · assumption

theorem execWakeLatchTake_keeps {s0 : State} : ∀ s1, Keeps s0 s1 → KeepsOut s0 (execWakeLatchTake s1) := by
  intro s1 h0
  unfold execWakeLatchTake
  apply fabric_keeps
  · assumption
  · intro _ _
    refine Keeps.mk_same ?_ rfl rfl rfl rfl rfl rfl rfl rfl rfl rfl rfl rfl rfl
    assumption

end Sys2Proof.Machine
end

