-- ==== Sys2Proof/Laws/KeepsDeviceTime.lean ====
section
/-! SUPPORT. What the functions of Machine/DeviceTime.lean keep: the queue of commands, the straps, the fuses and the canonical forms. -/

namespace Sys2Proof.Machine

theorem setRate_keeps {s0 : State} : ∀ s1 x1, Keeps s0 s1 → Keeps s0 (setRate s1 x1) := by
  intro s1 x1 h0
  unfold setRate
  apply wr_keeps
  assumption

theorem dtEvent_keeps {s0 : State} : ∀ s1 x1, Keeps s0 s1 → Keeps s0 (dtEvent s1 x1) := by
  intro s1 x1 h0
  unfold dtEvent
  apply setBits_keeps
  assumption

theorem dtTick_keeps {s0 : State} : ∀ s1, Keeps s0 s1 → Keeps s0 (dtTick s1) := by
  intro s1 h0
  unfold dtTick
  extract_lets +onlyGivenNames v200
  clear_value v200
  extract_lets +onlyGivenNames v199
  clear_value v199
  extract_lets +onlyGivenNames v198
  clear_value v198
  refine Keeps.mk_same ?_ rfl rfl rfl rfl rfl rfl rfl rfl rfl rfl rfl rfl rfl
  assumption

theorem passOver_keeps {s0 : State} : ∀ s1 x1, Keeps s0 s1 → Keeps s0 (passOver s1 x1) := by
  intro s1 x1 h0
  unfold passOver
  extract_lets +onlyGivenNames v200
  clear_value v200
  refine Keeps.mk_same ?_ rfl rfl rfl rfl rfl rfl rfl rfl rfl rfl rfl rfl rfl
  assumption

theorem unDue_keeps {s0 : State} : ∀ s1 x1, Keeps s0 s1 → Keeps s0 (unDue s1 x1) := by
  intro s1 x1 h0
  unfold unDue
  refine Keeps.mk_same ?_ rfl rfl rfl rfl rfl rfl rfl rfl rfl rfl rfl rfl rfl
  assumption

theorem stepDt_keeps {s0 : State} : ∀ s1 x1 x2, Keeps s0 s1 → Keeps s0 (stepDt s1 x1 x2) := by
  intro s1 x1 x2 h0
  unfold stepDt
  extract_lets +onlyGivenNames v120
  clear_value v120
  extract_lets +onlyGivenNames v119
  clear_value v119
  extract_lets +onlyGivenNames v118
  clear_value v118
  extract_lets +onlyGivenNames v117
  clear_value v117
  extract_lets +onlyGivenNames v116
  clear_value v116
  extract_lets +onlyGivenNames v115
  have kv115 : Keeps s0 v115 := by
    subst v115
    refine Keeps.mk_same ?_ rfl rfl rfl rfl rfl rfl rfl rfl rfl rfl rfl rfl rfl
    with_reducible assumption
  clear_value v115
  extract_lets +onlyGivenNames v114
  clear_value v114
  extract_lets +onlyGivenNames v113
  have kv113 : Keeps s0 v113 := by
    subst v113
    apply bbx_keeps
    apply dtEvent_keeps
    with_reducible assumption
  clear_value v113
  apply Keeps.ite
  · apply when_keeps
    · with_reducible assumption
    · intro _ _
      apply passOver_keeps
      with_reducible assumption
  · apply unDue_keeps
    with_reducible assumption

theorem masterChanged_keeps {s0 : State} : ∀ s1, Keeps s0 s1 → Keeps s0 (masterChanged s1) := by
  intro s1 h0
  unfold masterChanged
  apply postEvent_keeps
  apply dtEvent_keeps
  with_reducible assumption

theorem newSource_keeps {s0 : State} : ∀ s1, Keeps s0 s1 → Keeps s0 (newSource s1) := by
  intro s1 h0
  unfold newSource
  apply Keeps.ite
  · refine Keeps.mk_same ?_ rfl rfl rfl rfl rfl rfl rfl rfl rfl rfl rfl rfl rfl
    with_reducible assumption
  · apply masterChanged_keeps
    apply setRate_keeps
    refine Keeps.mk_same ?_ rfl rfl rfl rfl rfl rfl rfl rfl rfl rfl rfl rfl rfl
    with_reducible assumption

theorem servoApply_keeps {s0 : State} : ∀ s1 x1 x2, Keeps s0 s1 → Keeps s0 (servoApply s1 x1 x2) := by
  intro s1 x1 x2 h0
  unfold servoApply
  extract_lets +onlyGivenNames v200
  clear_value v200
  extract_lets +onlyGivenNames v199
  clear_value v199
  extract_lets +onlyGivenNames v198
  clear_value v198
  extract_lets +onlyGivenNames v197
  clear_value v197
  extract_lets +onlyGivenNames v196
  clear_value v196
  extract_lets +onlyGivenNames v195
  clear_value v195
  extract_lets +onlyGivenNames v194
  have kv194 : Keeps s0 v194 := by
    subst v194
    apply setRate_keeps
    apply wr_keeps
    assumption
  clear_value v194
  extract_lets +onlyGivenNames v193
  clear_value v193
  extract_lets +onlyGivenNames v192
  clear_value v192
  extract_lets +onlyGivenNames v191
  clear_value v191
  extract_lets +onlyGivenNames v190
  clear_value v190
  extract_lets +onlyGivenNames v189
  clear_value v189
  extract_lets +onlyGivenNames v188
  have kv188 : Keeps s0 v188 := by
    subst v188
    apply when_keeps
    · assumption
    · intro _ _
      apply dtEvent_keeps
      assumption
  clear_value v188
  refine Keeps.mk_same ?_ rfl rfl rfl rfl rfl rfl rfl rfl rfl rfl rfl rfl rfl
  assumption

theorem servoRefuse_keeps {s0 : State} : ∀ s1 x1, Keeps s0 s1 → Keeps s0 (servoRefuse s1 x1) := by
  intro s1 x1 h0
  unfold servoRefuse
  extract_lets +onlyGivenNames v200
  clear_value v200
  extract_lets +onlyGivenNames v199
  have kv199 : Keeps s0 v199 := by
    subst v199
    apply bump_keeps
    apply setRate_keeps
    refine Keeps.mk_same ?_ rfl rfl rfl rfl rfl rfl rfl rfl rfl rfl rfl rfl rfl
    assumption
  clear_value v199
  extract_lets +onlyGivenNames v198
  clear_value v198
  apply bbx_keeps
  apply dtEvent_keeps
  assumption

theorem servoOn_keeps {s0 : State} : ∀ s1 x1 x2, Keeps s0 s1 → Keeps s0 (servoOn s1 x1 x2) := by
  intro s1 x1 x2 h0
  unfold servoOn
  extract_lets +onlyGivenNames v200
  clear_value v200
  split
  · apply stepDt_keeps
    assumption
  · extract_lets +onlyGivenNames v198
    clear_value v198
    extract_lets +onlyGivenNames v197
    clear_value v197
    extract_lets +onlyGivenNames v196
    have kv196 : Keeps s0 v196 := by
      subst v196
      refine Keeps.mk_same ?_ rfl rfl rfl rfl rfl rfl rfl rfl rfl rfl rfl rfl rfl
      assumption
    clear_value v196
    apply Keeps.ite
    · apply setRate_keeps
      apply when_keeps
      · assumption
      · intro _ _
        apply bump_keeps
        assumption
    · extract_lets +onlyGivenNames v194
      clear_value v194
      extract_lets +onlyGivenNames v193
      have kv193 : Keeps s0 v193 := by
        subst v193
        apply bbx_keeps
        apply dtEvent_keeps
        refine Keeps.mk_same ?_ rfl rfl rfl rfl rfl rfl rfl rfl rfl rfl rfl rfl rfl
        assumption
      clear_value v193
      apply servoApply_keeps
      assumption
  · extract_lets +onlyGivenNames v198
    clear_value v198
    extract_lets +onlyGivenNames v197
    clear_value v197
    extract_lets +onlyGivenNames v196
    have kv196 : Keeps s0 v196 := by
      subst v196
      refine Keeps.mk_same ?_ rfl rfl rfl rfl rfl rfl rfl rfl rfl rfl rfl rfl rfl
      assumption
    clear_value v196
    apply Keeps.ite
    · apply setRate_keeps
      apply when_keeps
      · assumption
      · intro _ _
        apply bump_keeps
        assumption
    · extract_lets +onlyGivenNames v194
      clear_value v194
      extract_lets +onlyGivenNames v193
      have kv193 : Keeps s0 v193 := by
        subst v193
        apply bbx_keeps
        apply dtEvent_keeps
        refine Keeps.mk_same ?_ rfl rfl rfl rfl rfl rfl rfl rfl rfl rfl rfl rfl rfl
        assumption
      clear_value v193
      apply servoApply_keeps
      assumption
  · apply Keeps.ite
    · apply servoRefuse_keeps
      assumption
    · apply servoApply_keeps
      assumption

theorem measured_keeps {s0 : State} : ∀ s1 x1 x2, Keeps s0 s1 → Keeps s0 (measured s1 x1 x2) := by
  intro s1 x1 x2 h0
  unfold measured
  extract_lets +onlyGivenNames v200
  clear_value v200
  extract_lets +onlyGivenNames v199
  have kv199 : Keeps s0 v199 := by
    subst v199
    refine Keeps.mk_same ?_ rfl rfl rfl rfl rfl rfl rfl rfl rfl rfl rfl rfl rfl
    assumption
  clear_value v199
  apply servoOn_keeps
  apply Keeps.ite
  · apply newSource_keeps
    assumption
  · assumption

theorem execServoOffset_keeps {s0 : State} : ∀ s1, Keeps s0 s1 → KeepsOut s0 (execServoOffset s1) := by
  intro s1 h0
  unfold execServoOffset
  apply fabric_keeps
  · with_reducible assumption
  · intro _ _
    apply Keeps.ite
    · with_reducible assumption
    · split
      · apply measured_keeps
        refine Keeps.mk_same ?_ rfl rfl rfl rfl rfl rfl rfl rfl rfl rfl rfl rfl rfl
        with_reducible assumption
      · with_reducible assumption

theorem execPpsEdge_keeps {s0 : State} : ∀ x0 s2, Keeps s0 s2 → KeepsOut s0 (execPpsEdge x0 s2) := by
  intro x0 s2 h0
  unfold execPpsEdge
  apply fabric_keeps
  · assumption
  · intro _ _
    extract_lets +onlyGivenNames v197
    clear_value v197
    extract_lets +onlyGivenNames v196
    clear_value v196
    apply Keeps.ite
    · assumption
    · extract_lets +onlyGivenNames v194
      clear_value v194
      extract_lets +onlyGivenNames v193
      have kv193 : Keeps s0 v193 := by
        subst v193
        apply raiseEdge_keeps
        refine Keeps.mk_same ?_ rfl rfl rfl rfl rfl rfl rfl rfl rfl rfl rfl rfl rfl
        assumption
      clear_value v193
      apply Keeps.ite
      · apply measured_keeps
        assumption
      · assumption

theorem toHoldover_keeps {s0 : State} : ∀ s1, Keeps s0 s1 → Keeps s0 (toHoldover s1) := by
  intro s1 h0
  unfold toHoldover
  apply Keeps.ite
  · with_reducible assumption
  · extract_lets +onlyGivenNames v119
    clear_value v119
    extract_lets +onlyGivenNames v118
    have kv118 : Keeps s0 v118 := by
      subst v118
      apply setRate_keeps
      refine Keeps.mk_same ?_ rfl rfl rfl rfl rfl rfl rfl rfl rfl rfl rfl rfl rfl
      with_reducible assumption
    clear_value v118
    apply postEvent_keeps
    apply dtEvent_keeps
    with_reducible assumption

theorem execServoLossTimeout_keeps {s0 : State} : ∀ s1, Keeps s0 s1 → KeepsOut s0 (execServoLossTimeout s1) := by
  intro s1 h0
  unfold execServoLossTimeout
  apply fabric_keeps
  · with_reducible assumption
  · intro _ _
    split
    · apply Keeps.ite
      · apply toHoldover_keeps
        with_reducible assumption
      · with_reducible assumption
    · with_reducible assumption

theorem execAnnounceTimeout_keeps {s0 : State} : ∀ s1, Keeps s0 s1 → KeepsOut s0 (execAnnounceTimeout s1) := by
  intro s1 h0
  unfold execAnnounceTimeout
  apply fabric_keeps
  · assumption
  · intro _ _
    apply Keeps.ite
    · extract_lets +onlyGivenNames v196
      have kv196 : Keeps s0 v196 := by
        subst v196
        apply toHoldover_keeps
        assumption
      clear_value v196
      refine Keeps.mk_same ?_ rfl rfl rfl rfl rfl rfl rfl rfl rfl rfl rfl rfl rfl
      assumption
    · assumption

theorem sourceChanged_keeps {s0 : State} : ∀ s1, Keeps s0 s1 → Keeps s0 (sourceChanged s1) := by
  intro s1 h0
  unfold sourceChanged
  extract_lets +onlyGivenNames v120
  clear_value v120
  extract_lets +onlyGivenNames v119
  have kv119 : Keeps s0 v119 := by
    subst v119
    refine Keeps.mk_same ?_ rfl rfl rfl rfl rfl rfl rfl rfl rfl rfl rfl rfl rfl
    with_reducible assumption
  clear_value v119
  apply Keeps.ite
  · apply newSource_keeps
    with_reducible assumption
  · apply Keeps.ite
    · apply setRate_keeps
      refine Keeps.mk_same ?_ rfl rfl rfl rfl rfl rfl rfl rfl rfl rfl rfl rfl rfl
      with_reducible assumption
    · apply masterChanged_keeps
      apply setRate_keeps
      refine Keeps.mk_same ?_ rfl rfl rfl rfl rfl rfl rfl rfl rfl rfl rfl rfl rfl
      with_reducible assumption

theorem execDtCtrlWrite_keeps {s0 : State} : ∀ x0 s2, Keeps s0 s2 → KeepsOut s0 (execDtCtrlWrite x0 s2) := by
  intro x0 s2 h0
  unfold execDtCtrlWrite
  apply fabric_keeps
  · assumption
  · intro _ _
    extract_lets +onlyGivenNames v197
    have kv197 : Keeps s0 v197 := by
      subst v197
      apply wr_keeps
      assumption
    clear_value v197
    apply Keeps.ite
    · assumption
    · apply sourceChanged_keeps
      assumption

theorem execDtPtpCfgWrite_keeps {s0 : State} : ∀ x0 s2, Keeps s0 s2 → KeepsOut s0 (execDtPtpCfgWrite x0 s2) := by
  intro x0 s2 h0
  unfold execDtPtpCfgWrite
  apply fabric_keeps
  · assumption
  · intro _ _
    extract_lets +onlyGivenNames v197
    have kv197 : Keeps s0 v197 := by
      subst v197
      apply wr_keeps
      assumption
    clear_value v197
    apply Keeps.ite
    · apply newSource_keeps
      refine Keeps.mk_same ?_ rfl rfl rfl rfl rfl rfl rfl rfl rfl rfl rfl rfl rfl
      assumption
    · assumption

theorem announceRx_keeps {s0 : State} : ∀ s1 x1, Keeps s0 s1 → Keeps s0 (announceRx s1 x1) := by
  intro s1 x1 h0
  unfold announceRx
  apply Keeps.ite
  · assumption
  · extract_lets +onlyGivenNames v199
    clear_value v199
    extract_lets +onlyGivenNames v198
    clear_value v198
    apply Keeps.ite
    · assumption
    · extract_lets +onlyGivenNames v196
      clear_value v196
      extract_lets +onlyGivenNames v195
      have kv195 : Keeps s0 v195 := by
        subst v195
        refine Keeps.mk_same ?_ rfl rfl rfl rfl rfl rfl rfl rfl rfl rfl rfl rfl rfl
        assumption
      clear_value v195
      apply Keeps.ite
      · apply newSource_keeps
        assumption
      · assumption

theorem syncDone_keeps {s0 : State} : ∀ s1 x1 x2 x3, Keeps s0 s1 → Keeps s0 (syncDone s1 x1 x2 x3) := by
  intro s1 x1 x2 x3 h0
  unfold syncDone
  refine Keeps.mk_same ?_ rfl rfl rfl rfl rfl rfl rfl rfl rfl rfl rfl rfl rfl
  assumption

theorem ptpSend_keeps {s0 : State} : ∀ s1 x1 x2, Keeps s0 s1 → Keeps s0 (ptpSend s1 x1 x2) := by
  intro s1 x1 x2 h0
  unfold ptpSend
  refine Keeps.mk_same ?_ rfl rfl rfl rfl rfl rfl rfl rfl rfl rfl rfl rfl rfl
  with_reducible assumption

theorem answerPdelay_keeps {s0 : State} : ∀ s1 x1 x2, Keeps s0 s1 → Keeps s0 (answerPdelay s1 x1 x2) := by
  intro s1 x1 x2 h0
  unfold answerPdelay
  split
  apply ptpSend_keeps
  apply ptpSend_keeps
  refine Keeps.of_snd (by assumption) ?_
  apply drawNat_keeps
  with_reducible assumption

theorem ptpRx_keeps {s0 : State} : ∀ s1 x1 x2, Keeps s0 s1 → Keeps s0 (ptpRx s1 x1 x2) := by
  intro s1 x1 x2 h0
  unfold ptpRx
  split
  · apply announceRx_keeps
    with_reducible assumption
  · apply Keeps.ite
    · with_reducible assumption
    · apply Keeps.ite
      · refine Keeps.mk_same ?_ rfl rfl rfl rfl rfl rfl rfl rfl rfl rfl rfl rfl rfl
        with_reducible assumption
      · apply syncDone_keeps
        with_reducible assumption
  · split
    · apply Keeps.ite
      · apply syncDone_keeps
        with_reducible assumption
      · with_reducible assumption
    · with_reducible assumption
  · split
    · apply Keeps.ite
      · refine Keeps.mk_same ?_ rfl rfl rfl rfl rfl rfl rfl rfl rfl rfl rfl rfl rfl
        with_reducible assumption
      · with_reducible assumption
    · with_reducible assumption
  · apply Keeps.ite
    · apply answerPdelay_keeps
      with_reducible assumption
    · with_reducible assumption
  · split
    · apply Keeps.ite
      · with_reducible assumption
      · apply Keeps.ite
        · refine Keeps.mk_same ?_ rfl rfl rfl rfl rfl rfl rfl rfl rfl rfl rfl rfl rfl
          with_reducible assumption
        · refine Keeps.mk_same ?_ rfl rfl rfl rfl rfl rfl rfl rfl rfl rfl rfl rfl rfl
          with_reducible assumption
    · with_reducible assumption
  · split
    · apply Keeps.ite
      · refine Keeps.mk_same ?_ rfl rfl rfl rfl rfl rfl rfl rfl rfl rfl rfl rfl rfl
        with_reducible assumption
      · with_reducible assumption
    · with_reducible assumption

theorem execPtpMessageRx_keeps {s0 : State} : ∀ x0 x1 x2 s4, Keeps s0 s4 → KeepsOut s0 (execPtpMessageRx x0 x1 x2 s4) := by
  intro x0 x1 x2 s4 h0
  unfold execPtpMessageRx
  apply fabric_keeps
  · with_reducible assumption
  · intro _ _
    apply Keeps.ite
    · apply ptpRx_keeps
      with_reducible assumption
    · with_reducible assumption

theorem execDelayReq_keeps {s0 : State} : ∀ s1, Keeps s0 s1 → KeepsOut s0 (execDelayReq s1) := by
  intro s1 h0
  unfold execDelayReq
  apply fabric_keeps
  · with_reducible assumption
  · intro _ _
    extract_lets +onlyGivenNames v117
    clear_value v117
    extract_lets +onlyGivenNames v116
    clear_value v116
    extract_lets +onlyGivenNames v115
    clear_value v115
    apply Keeps.ite
    · with_reducible assumption
    · apply ptpSend_keeps
      refine Keeps.mk_same ?_ rfl rfl rfl rfl rfl rfl rfl rfl rfl rfl rfl rfl rfl
      with_reducible assumption

theorem execPtpStatus_keeps {s0 : State} : ∀ s1, Keeps s0 s1 → KeepsOut s0 (execPtpStatus s1) := by
  intro s1 h0
  unfold execPtpStatus
  apply fabric_keeps
  · assumption
  · intro _ _
    apply Keeps.ite
    · apply postEvent_keeps
      assumption
    · assumption

theorem execDtNowLoRead_keeps {s0 : State} : ∀ s1, Keeps s0 s1 → KeepsOut s0 (execDtNowLoRead s1) := by
  intro s1 h0
  unfold execDtNowLoRead
  apply fabric_keeps
  · assumption
  · intro _ _
    extract_lets +onlyGivenNames v197
    have kv197 : Keeps s0 v197 := by
      subst v197
      apply capture_keeps
      assumption
    clear_value v197
    refine Keeps.mk_same ?_ rfl rfl rfl rfl rfl rfl rfl rfl rfl rfl rfl rfl rfl
    assumption

theorem execDtOffsetLoRead_keeps {s0 : State} : ∀ s1, Keeps s0 s1 → KeepsOut s0 (execDtOffsetLoRead s1) := by
  intro s1 h0
  unfold execDtOffsetLoRead
  apply fabric_keeps
  · assumption
  · intro _ _
    apply capture_keeps
    assumption

theorem execDtPpsStampLoRead_keeps {s0 : State} : ∀ s1, Keeps s0 s1 → KeepsOut s0 (execDtPpsStampLoRead s1) := by
  intro s1 h0
  unfold execDtPpsStampLoRead
  apply fabric_keeps
  · assumption
  · intro _ _
    apply capture_keeps
    assumption

theorem stepLapse_keeps {s0 : State} : ∀ s1, Keeps s0 s1 → Keeps s0 (stepLapse s1) := by
  intro s1 h0
  unfold stepLapse
  split
  · apply dtEvent_keeps
    refine Keeps.mk_same ?_ rfl rfl rfl rfl rfl rfl rfl rfl rfl rfl rfl rfl rfl
    assumption
  · assumption

theorem execStepArm_keeps {s0 : State} : ∀ x0 s2, Keeps s0 s2 → KeepsOut s0 (execStepArm x0 s2) := by
  intro x0 s2 h0
  unfold execStepArm
  apply fabric_keeps
  · with_reducible assumption
  · intro _ _
    extract_lets +onlyGivenNames v117
    have kv117 : Keeps s0 v117 := by
      subst v117
      apply stepLapse_keeps
      with_reducible assumption
    clear_value v117
    extract_lets +onlyGivenNames v116
    clear_value v116
    extract_lets +onlyGivenNames v115
    have kv115 : Keeps s0 v115 := by
      subst v115
      refine Keeps.mk_same ?_ rfl rfl rfl rfl rfl rfl rfl rfl rfl rfl rfl rfl rfl
      with_reducible assumption
    clear_value v115
    apply Keeps.ite
    · apply stepLapse_keeps
      with_reducible assumption
    · with_reducible assumption

theorem execStepCommit_keeps {s0 : State} : ∀ x0 s2, Keeps s0 s2 → KeepsOut s0 (execStepCommit x0 s2) := by
  intro x0 s2 h0
  unfold execStepCommit
  apply fabric_keeps
  · assumption
  · intro _ _
    split
    · apply Keeps.ite
      · refine Keeps.mk_same ?_ rfl rfl rfl rfl rfl rfl rfl rfl rfl rfl rfl rfl rfl
        assumption
      · apply stepLapse_keeps
        assumption
    · apply dtEvent_keeps
      assumption

theorem execStepCancel_keeps {s0 : State} : ∀ x0 s2, Keeps s0 s2 → KeepsOut s0 (execStepCancel x0 s2) := by
  intro x0 s2 h0
  unfold execStepCancel
  apply fabric_keeps
  · assumption
  · intro _ _
    apply stepLapse_keeps
    assumption

theorem execDtStepValueWrite_keeps {s0 : State} : ∀ x0 x1 s3, Keeps s0 s3 → KeepsOut s0 (execDtStepValueWrite x0 x1 s3) := by
  intro x0 x1 s3 h0
  unfold execDtStepValueWrite
  apply fabric_keeps
  · assumption
  · intro _ _
    apply wr_keeps
    apply stepLapse_keeps
    assumption

theorem execStepArmLapse_keeps {s0 : State} : ∀ s1, Keeps s0 s1 → KeepsOut s0 (execStepArmLapse s1) := by
  intro s1 h0
  unfold execStepArmLapse
  apply fabric_keeps
  · assumption
  · intro _ _
    split
    · apply Keeps.ite
      · apply stepLapse_keeps
        assumption
      · assumption
    · assumption

theorem applyCommit_keeps {s0 : State} : ∀ s1 x1, Keeps s0 s1 → Keeps s0 (applyCommit s1 x1) := by
  intro s1 x1 h0
  unfold applyCommit
  extract_lets +onlyGivenNames v200
  clear_value v200
  split
  · apply stepDt_keeps
    assumption
  · apply stepDt_keeps
    assumption
  · apply stepDt_keeps
    assumption

theorem execTimeStepped_keeps {s0 : State} : ∀ s1, Keeps s0 s1 → KeepsOut s0 (execTimeStepped s1) := by
  intro s1 h0
  unfold execTimeStepped
  apply fabric_keeps
  · assumption
  · intro _ _
    split
    · apply applyCommit_keeps
      assumption
    · assumption

theorem upsetTick_keeps {s0 : State} : ∀ s1, Keeps s0 s1 → Keeps s0 (upsetTick s1) := by
  intro s1 h0
  unfold upsetTick
  extract_lets +onlyGivenNames v120
  clear_value v120
  extract_lets +onlyGivenNames v119
  have kv119 : Keeps s0 v119 := by
    subst v119
    refine Keeps.mk_same ?_ rfl rfl rfl rfl rfl rfl rfl rfl rfl rfl rfl rfl rfl
    with_reducible assumption
  clear_value v119
  extract_lets +onlyGivenNames v118
  clear_value v118
  apply Keeps.ite
  · refine Keeps.mk_same ?_ rfl rfl rfl rfl rfl rfl rfl rfl rfl rfl rfl rfl rfl
    with_reducible assumption
  · apply Keeps.ite
    · with_reducible assumption
    · apply Keeps.ite
      · refine Keeps.mk_same ?_ rfl rfl rfl rfl rfl rfl rfl rfl rfl rfl rfl rfl rfl
        with_reducible assumption
      · apply Keeps.ite
        · refine Keeps.mk_same ?_ rfl rfl rfl rfl rfl rfl rfl rfl rfl rfl rfl rfl rfl
          with_reducible assumption
        · with_reducible assumption

theorem heldOver_keeps {s0 : State} : ∀ s1, Keeps s0 s1 → Keeps s0 (heldOver s1) := by
  intro s1 h0
  unfold heldOver
  apply Keeps.foldl
  · with_reducible assumption
  · intro _ _
    intro _
    apply when_keeps
    · with_reducible assumption
    · intro _ _
      apply clrBits_keeps
      with_reducible assumption

theorem idleTick_keeps {s0 : State} : ∀ s1, Keeps s0 s1 → Keeps s0 (idleTick s1) := by
  intro s1 h0
  unfold idleTick
  extract_lets +onlyGivenNames v120
  have kv120 : Keeps s0 v120 := by
    subst v120
    apply when_keeps
    · with_reducible assumption
    · intro _ _
      apply heldOver_keeps
      apply upsetTick_keeps
      with_reducible assumption
  clear_value v120
  split
  · apply Keeps.ite
    · apply applyCommit_keeps
      with_reducible assumption
    · apply when_keeps
      · with_reducible assumption
      · intro _ _
        apply dtTick_keeps
        with_reducible assumption
  · apply when_keeps
    · with_reducible assumption
    · intro _ _
      apply dtTick_keeps
      with_reducible assumption

end Sys2Proof.Machine
end

