-- ==== Sys2Proof/Laws/KeepsFaultRecords.lean ====
section
/-! SUPPORT. What the functions of Machine/FaultRecords.lean keep: the queue of commands, the straps, the fuses and the canonical forms. -/

namespace Sys2Proof.Machine

theorem safeEvent_keeps {s0 : State} : ∀ s1 x1, Keeps s0 s1 → Keeps s0 (safeEvent s1 x1) := by
  intro s1 x1 h0
  unfold safeEvent
  apply setBits_keeps
  assumption

theorem faultRec_keeps {s0 : State} : ∀ s1 x1 x2 x3 x4 x5, Keeps s0 s1 → Keeps s0 (faultRec s1 x1 x2 x3 x4 x5) := by
  intro s1 x1 x2 x3 x4 x5 h0
  unfold faultRec
  extract_lets +onlyGivenNames v200
  clear_value v200
  apply bbx_keeps
  apply wr_keeps
  assumption

theorem transient_keeps {s0 : State} : ∀ s1 x1 x2 x3, Keeps s0 s1 → Keeps s0 (transient s1 x1 x2 x3) := by
  intro s1 x1 x2 x3 h0
  unfold transient
  extract_lets +onlyGivenNames v200
  clear_value v200
  extract_lets +onlyGivenNames v199
  clear_value v199
  extract_lets +onlyGivenNames v198
  clear_value v198
  extract_lets +onlyGivenNames v197
  clear_value v197
  extract_lets +onlyGivenNames v196
  have kv196 : Keeps s0 v196 := by
    subst v196
    refine Keeps.mk_same ?_ rfl rfl rfl rfl rfl rfl rfl rfl rfl rfl rfl rfl rfl
    assumption
  clear_value v196
  extract_lets +onlyGivenNames v195
  clear_value v195
  apply faultRec_keeps
  apply safeEvent_keeps
  apply bump_keeps
  assumption

theorem syncDegraded_keeps {s0 : State} : ∀ s1, Keeps s0 s1 → Keeps s0 (syncDegraded s1) := by
  intro s1 h0
  unfold syncDegraded
  extract_lets +onlyGivenNames v200
  clear_value v200
  apply wf_keeps
  assumption

theorem takeoverDone_keeps {s0 : State} : ∀ s1 x1 x2 x3 x4 x5, Keeps s0 s1 → Keeps s0 (takeoverDone s1 x1 x2 x3 x4 x5) := by
  intro s1 x1 x2 x3 x4 x5 h0
  unfold takeoverDone
  extract_lets +onlyGivenNames v200
  clear_value v200
  extract_lets +onlyGivenNames v199
  have kv199 : Keeps s0 v199 := by
    subst v199
    apply faultRec_keeps
    apply safeEvent_keeps
    apply bump_keeps
    assumption
  clear_value v199
  extract_lets +onlyGivenNames v198
  have kv198 : Keeps s0 v198 := by
    subst v198
    apply postEvent_keeps
    assumption
  clear_value v198
  apply syncDegraded_keeps
  refine Keeps.mk_same ?_ rfl rfl rfl rfl rfl rfl rfl rfl rfl rfl rfl rfl rfl
  assumption

theorem alertOn_keeps {s0 : State} : ∀ s1 x1, Keeps s0 s1 → Keeps s0 (alertOn s1 x1) := by
  intro s1 x1 h0
  unfold alertOn
  apply Keeps.ite
  · assumption
  · refine Keeps.mk_same ?_ rfl rfl rfl rfl rfl rfl rfl rfl rfl rfl rfl rfl rfl
    assumption

theorem freeBytes_keeps {s0 : State} : ∀ x0 s2, Keeps s0 s2 → Keeps s0 (freeBytes x0 s2).2 := by
  intro x0 s2 h0
  fun_induction freeBytes x0 s2
  · with_reducible assumption
  · dsimp only
    refine Keeps.of_snd (by assumption) ?_
    apply_assumption
    refine Keeps.of_snd (by assumption) ?_
    apply drawNat_keeps
    with_reducible assumption

theorem safeState_keeps {s0 : State} : ∀ s1 x1 x2 x3, Keeps s0 s1 → Keeps s0 (safeState s1 x1 x2 x3) := by
  intro s1 x1 x2 x3 h0
  unfold safeState
  split
  extract_lets +onlyGivenNames v199
  clear_value v199
  extract_lets +onlyGivenNames v198
  have kv198 : Keeps s0 v198 := by
    subst v198
    apply faultRec_keeps
    refine Keeps.of_snd (by assumption) ?_
    apply freeBytes_keeps
    assumption
  clear_value v198
  apply alertOn_keeps
  refine Keeps.mk_same ?_ rfl rfl rfl rfl rfl rfl rfl rfl rfl rfl rfl rfl rfl
  assumption

end Sys2Proof.Machine
end

