-- ==== Sys2Proof/Laws/KeepsFrames.lean ====
section
/-! SUPPORT. What the functions of Machine/Frames.lean keep: the queue of commands, the straps, the fuses and the canonical forms. -/

namespace Sys2Proof.Machine

theorem sgErr_keeps {s0 : State} : ∀ s1 x1 x2, Keeps s0 s1 → Keeps s0 (sgErr s1 x1 x2) := by
  intro s1 x1 x2 h0
  unfold sgErr
  apply errInfo_keeps
  assumption

theorem setDesc_keeps {s0 : State} : ∀ s1 x1 x2, Keeps s0 s1 → Keeps s0 (setDesc s1 x1 x2) := by
  intro s1 x1 x2 h0
  unfold setDesc
  refine Keeps.mk_same ?_ rfl rfl rfl rfl rfl rfl rfl rfl rfl rfl rfl rfl rfl
  assumption

theorem finishNow_keeps {s0 : State} : ∀ s1 x1 x2 x3, Keeps s0 s1 → Keeps s0 (finishNow s1 x1 x2 x3) := by
  intro s1 x1 x2 x3 h0
  unfold finishNow
  split
  · refine Keeps.mk_same ?_ rfl rfl rfl rfl rfl rfl rfl rfl rfl rfl rfl rfl rfl
    with_reducible assumption
  · apply setDesc_keeps
    refine Keeps.mk_same ?_ rfl rfl rfl rfl rfl rfl rfl rfl rfl rfl rfl rfl rfl
    with_reducible assumption
  · refine Keeps.mk_same ?_ rfl rfl rfl rfl rfl rfl rfl rfl rfl rfl rfl rfl rfl
    with_reducible assumption
  · refine Keeps.mk_same ?_ rfl rfl rfl rfl rfl rfl rfl rfl rfl rfl rfl rfl rfl
    with_reducible assumption
  · with_reducible assumption

theorem issued_keeps {s0 : State} : ∀ x0 s2 s3, Keeps s0 s2 → Keeps s0 s3 → Keeps s0 (issued x0 s2 s3) := by
  intro x0 s2 s3 h0 h1
  unfold issued
  extract_lets +onlyGivenNames v120
  clear_value v120
  refine Keeps.mk_same ?_ rfl rfl rfl rfl rfl rfl rfl rfl rfl rfl rfl rfl rfl
  with_reducible assumption

theorem finish_keeps {s0 : State} : ∀ s1 x1 x2 x3, Keeps s0 s1 → Keeps s0 (finish s1 x1 x2 x3) := by
  intro s1 x1 x2 x3 h0
  unfold finish
  apply Keeps.ite
  · refine Keeps.mk_same ?_ rfl rfl rfl rfl rfl rfl rfl rfl rfl rfl rfl rfl rfl
    with_reducible assumption
  · apply finishNow_keeps
    with_reducible assumption

theorem report_keeps {s0 : State} : ∀ s1 x1 x2, Keeps s0 s1 → Keeps s0 (report s1 x1 x2) := by
  intro s1 x1 x2 h0
  unfold report
  apply finish_keeps
  assumption

theorem setStarted_keeps {s0 : State} : ∀ s1 x1 x2, Keeps s0 s1 → Keeps s0 (setStarted s1 x1 x2) := by
  intro s1 x1 x2 h0
  unfold setStarted
  refine Keeps.mk_same ?_ rfl rfl rfl rfl rfl rfl rfl rfl rfl rfl rfl rfl rfl
  assumption

theorem setQueue_keeps {s0 : State} : ∀ s1 x1 x2, Keeps s0 s1 → Keeps s0 (setQueue s1 x1 x2) := by
  intro s1 x1 x2 h0
  unfold setQueue
  refine Keeps.mk_same ?_ rfl rfl rfl rfl rfl rfl rfl rfl rfl rfl rfl rfl rfl
  assumption

theorem joinQueue_keeps {s0 : State} : ∀ s1 x1 x2, Keeps s0 s1 → Keeps s0 (joinQueue s1 x1 x2) := by
  intro s1 x1 x2 h0
  unfold joinQueue
  apply setQueue_keeps
  refine Keeps.mk_same ?_ rfl rfl rfl rfl rfl rfl rfl rfl rfl rfl rfl rfl rfl
  with_reducible assumption

theorem noteReads_keeps {s0 : State} : ∀ s1 x1, Keeps s0 s1 → Keeps s0 (noteReads s1 x1) := by
  intro s1 x1 h0
  fun_induction noteReads s1 x1
  · with_reducible assumption
  · apply glideErr_keeps
    with_reducible assumption
  · apply noteRead_keeps
    with_reducible assumption
  · apply_assumption
    apply noteRead_keeps
    with_reducible assumption

theorem jobStore_keeps {s0 : State} : ∀ x0 s2 x2 x3, Keeps s0 s2 → Keeps s0 (jobStore x0 s2 x2 x3) := by
  intro x0 s2 x2 x3 h0
  unfold jobStore
  apply issued_keeps
  · with_reducible assumption
  · apply stBytes_keeps
    with_reducible assumption

theorem noteIo_keeps {s0 : State} : ∀ s1 x1 x2, Keeps s0 s1 → Keeps s0 (noteIo s1 x1 x2) := by
  intro s1 x1 x2 h0
  unfold noteIo
  extract_lets +onlyGivenNames v120
  have kv120 : Keeps s0 v120 := by
    subst v120
    apply noteReads_keeps
    with_reducible assumption
  clear_value v120
  apply Keeps.ite
  · apply glideErr_keeps
    with_reducible assumption
  · with_reducible assumption

theorem jobIo_keeps {s0 : State} : ∀ s1 x1 x2 f3 f4, Keeps s0 s1 → (∀ t, Keeps s0 t → Keeps s0 (f3 t)) → (∀ t, Keeps s0 t → Keeps s0 (f4 t)) → Keeps s0 (jobIo s1 x1 x2 f3 f4) := by
  intro s1 x1 x2 f3 f4 h0 h1 h2
  unfold jobIo
  extract_lets +onlyGivenNames v120
  have kv120 : Keeps s0 v120 := by
    subst v120
    apply noteIo_keeps
    with_reducible assumption
  clear_value v120
  apply Keeps.ite
  · apply h1
    with_reducible assumption
  · apply h2
    with_reducible assumption

end Sys2Proof.Machine
end

