-- ==== Sys2Proof/Laws/KeepsCompletions.lean ====
section
/-! SUPPORT. What the functions of Machine/Completions.lean keep: the queue of commands, the straps, the fuses and the canonical forms. -/

namespace Sys2Proof.Machine

theorem setCq_keeps {s0 : State} : ∀ s1 x1 x2, Keeps s0 s1 → Keeps s0 (setCq s1 x1 x2) := by
  intro s1 x1 x2 h0
  unfold setCq
  refine Keeps.mk_same ?_ rfl rfl rfl rfl rfl rfl rfl rfl rfl rfl rfl rfl rfl
  assumption

theorem syncFull_keeps {s0 : State} : ∀ s1 x1, Keeps s0 s1 → Keeps s0 (syncFull s1 x1) := by
  intro s1 x1 h0
  unfold syncFull
  apply wf_keeps
  assumption

theorem syncSq_keeps {s0 : State} : ∀ s1 x1, Keeps s0 s1 → Keeps s0 (syncSq s1 x1) := by
  intro s1 x1 h0
  unfold syncSq
  apply wf_keeps
  assumption

theorem syncOwner_keeps {s0 : State} : ∀ s1 x1, Keeps s0 s1 → Keeps s0 (syncOwner s1 x1) := by
  intro s1 x1 h0
  unfold syncOwner
  split
  · apply syncSq_keeps
    assumption
  · assumption

theorem cqEvaluate_keeps {s0 : State} : ∀ s1 x1, Keeps s0 s1 → Keeps s0 (cqEvaluate s1 x1) := by
  intro s1 x1 h0
  unfold cqEvaluate
  extract_lets +onlyGivenNames v120
  clear_value v120
  apply Keeps.ite
  · extract_lets +onlyGivenNames v118
    clear_value v118
    extract_lets +onlyGivenNames v117
    have kv117 : Keeps s0 v117 := by
      subst v117
      apply setCq_keeps
      apply clrBits_keeps
      with_reducible assumption
    clear_value v117
    apply Keeps.ite
    · with_reducible assumption
    · apply msixSend_keeps
      with_reducible assumption
  · with_reducible assumption

theorem writeCompletion_keeps {s0 : State} : ∀ s1 x1, Keeps s0 s1 → Keeps s0 (writeCompletion s1 x1) := by
  intro s1 x1 h0
  unfold writeCompletion
  extract_lets +onlyGivenNames v200
  clear_value v200
  extract_lets +onlyGivenNames v199
  clear_value v199
  extract_lets +onlyGivenNames v198
  clear_value v198
  extract_lets +onlyGivenNames v197
  have kv197 : Keeps s0 v197 := by
    subst v197
    apply bumpWrap_keeps
    apply hostWrite_keeps
    assumption
  clear_value v197
  extract_lets +onlyGivenNames v196
  clear_value v196
  extract_lets +onlyGivenNames v195
  have kv195 : Keeps s0 v195 := by
    subst v195
    apply wf_keeps
    assumption
  clear_value v195
  extract_lets +onlyGivenNames v194
  have kv194 : Keeps s0 v194 := by
    subst v194
    apply Keeps.ite
    · apply wr_keeps
      assumption
    · assumption
  clear_value v194
  apply cqEvaluate_keeps
  apply syncFull_keeps
  apply setCq_keeps
  assumption

theorem cqStall_keeps {s0 : State} : ∀ s1 x1, Keeps s0 s1 → Keeps s0 (cqStall s1 x1) := by
  intro s1 x1 h0
  unfold cqStall
  apply postEvent_keeps
  apply setBits_keeps
  assumption

theorem postCompletion_keeps {s0 : State} : ∀ s1 x1, Keeps s0 s1 → Keeps s0 (postCompletion s1 x1) := by
  intro s1 x1 h0
  unfold postCompletion
  apply Keeps.ite
  · apply bump_keeps
    with_reducible assumption
  · apply Keeps.ite
    · extract_lets +onlyGivenNames v118
      clear_value v118
      extract_lets +onlyGivenNames v117
      clear_value v117
      extract_lets +onlyGivenNames v116
      have kv116 : Keeps s0 v116 := by
        subst v116
        apply syncOwner_keeps
        refine Keeps.mk_same ?_ rfl rfl rfl rfl rfl rfl rfl rfl rfl rfl rfl rfl rfl
        with_reducible assumption
      clear_value v116
      apply Keeps.ite
      · apply cqStall_keeps
        with_reducible assumption
      · apply setBits_keeps
        with_reducible assumption
    · apply writeCompletion_keeps
      with_reducible assumption

theorem releaseHeld_keeps {s0 : State} : ∀ x0 s2 x2, Keeps s0 s2 → Keeps s0 (releaseHeld x0 s2 x2) := by
  intro n
  induction n with
  | zero => intro s k h; exact h
  | succ n ih =>
    intro s k h
    unfold releaseHeld
    split
    · exact h
    · apply Keeps.ite
      · apply ih
        apply syncOwner_keeps
        apply bump_keeps
        exact Keeps.mk_same h rfl rfl rfl rfl rfl rfl rfl rfl rfl rfl rfl rfl rfl
      · apply Keeps.ite
        · exact h
        · apply ih
          apply syncOwner_keeps
          apply writeCompletion_keeps
          exact Keeps.mk_same h rfl rfl rfl rfl rfl rfl rfl rfl rfl rfl rfl rfl rfl

end Sys2Proof.Machine
end

