-- ==== Sys2Proof/Laws/KeepsSemaphores.lean ====
section
/-! SUPPORT. What the functions of Machine/Semaphores.lean keep: the queue of commands, the straps, the fuses and the canonical forms. -/

namespace Sys2Proof.Machine

theorem hostSem_keeps {s0 : State} : ∀ s1 x1 f2, Keeps s0 s1 → (∀ t, Keeps s0 t → Keeps s0 (f2 t)) → Keeps s0 (hostSem s1 x1 f2) := by
  intro s1 x1 f2 h0 h1
  unfold hostSem
  apply Keeps.ite
  · apply semErr_keeps
    assumption
  · apply h1
    assumption

theorem semSetBy_keeps {s0 : State} : ∀ s1 x1 x2 x3, Keeps s0 s1 → Keeps s0 (semSetBy s1 x1 x2 x3) := by
  intro s1 x1 x2 x3 h0
  unfold semSetBy
  apply Keeps.ite
  · apply hostSem_keeps
    · with_reducible assumption
    · intro _ _
      apply semSetOp_keeps
      with_reducible assumption
  · apply Keeps.ite
    · apply semSetOp_keeps
      with_reducible assumption
    · with_reducible assumption

theorem semApply_keeps {s0 : State} : ∀ s1 x1, Keeps s0 s1 → Keeps s0 (semApply s1 x1) := by
  intro s1 x1 h0
  unfold semApply
  split
  · apply semAddOp_keeps
    with_reducible assumption
  · apply semSubOp_keeps
    with_reducible assumption
  · apply semWaitOp_keeps
    with_reducible assumption
  · apply semWaitsubOp_keeps
    with_reducible assumption
  · apply semSetBy_keeps
    with_reducible assumption

theorem semStep_keeps {s0 : State} : ∀ s1 x1, Keeps s0 s1 → Keeps s0 (semStep s1 x1) := by
  intro s1 x1 h0
  unfold semStep
  extract_lets +onlyGivenNames v120
  subst v120
  extract_lets +onlyGivenNames v119
  have kv119 : Keeps s0 v119 := by
    subst v119
    apply semApply_keeps
    refine Keeps.mk_same ?_ rfl rfl rfl rfl rfl rfl rfl rfl rfl rfl rfl rfl rfl
    with_reducible assumption
  clear_value v119
  refine Keeps.mk_same ?_ rfl rfl rfl rfl rfl rfl rfl rfl rfl rfl rfl rfl rfl
  with_reducible assumption

theorem semContend_keeps {s0 : State} : ∀ s1 x1 x2, Keeps s0 s1 → Keeps s0 (semContend s1 x1 x2) := by
  intro s1 x1 x2 h0
  unfold semContend
  extract_lets +onlyGivenNames v120
  clear_value v120
  extract_lets +onlyGivenNames v119
  subst v119
  extract_lets +onlyGivenNames v118
  have kv118 : Keeps s0 v118 := by
    subst v118
    apply Keeps.foldl
    · refine Keeps.mk_same ?_ rfl rfl rfl rfl rfl rfl rfl rfl rfl rfl rfl rfl rfl
      with_reducible assumption
    · intro _ _
      intro _
      apply semStep_keeps
      with_reducible assumption
  clear_value v118
  refine Keeps.mk_same ?_ rfl rfl rfl rfl rfl rfl rfl rfl rfl rfl rfl rfl rfl
  with_reducible assumption

theorem semPresent_keeps {s0 : State} : ∀ s1 x1 x2, Keeps s0 s1 → Keeps s0 (semPresent s1 x1 x2) := by
  intro s1 x1 x2 h0
  unfold semPresent
  apply Keeps.ite
  · apply semApply_keeps
    with_reducible assumption
  · apply semContend_keeps
    with_reducible assumption

theorem execSemAdd_keeps {s0 : State} : ∀ x0 x1 x2 x3 s5, Keeps s0 s5 → KeepsOut s0 (execSemAdd x0 x1 x2 x3 s5) := by
  intro x0 x1 x2 x3 s5 h0
  unfold execSemAdd
  apply fabric_keeps
  · with_reducible assumption
  · intro _ _
    apply semPresent_keeps
    with_reducible assumption

theorem execSemSub_keeps {s0 : State} : ∀ x0 x1 x2 x3 s5, Keeps s0 s5 → KeepsOut s0 (execSemSub x0 x1 x2 x3 s5) := by
  intro x0 x1 x2 x3 s5 h0
  unfold execSemSub
  apply fabric_keeps
  · with_reducible assumption
  · intro _ _
    apply semPresent_keeps
    with_reducible assumption

theorem execSemWait_keeps {s0 : State} : ∀ x0 x1 x2 x3 s5, Keeps s0 s5 → KeepsOut s0 (execSemWait x0 x1 x2 x3 s5) := by
  intro x0 x1 x2 x3 s5 h0
  unfold execSemWait
  apply fabric_keeps
  · with_reducible assumption
  · intro _ _
    apply semPresent_keeps
    with_reducible assumption

theorem execSemWaitsub_keeps {s0 : State} : ∀ x0 x1 x2 x3 s5, Keeps s0 s5 → KeepsOut s0 (execSemWaitsub x0 x1 x2 x3 s5) := by
  intro x0 x1 x2 x3 s5 h0
  unfold execSemWaitsub
  apply fabric_keeps
  · with_reducible assumption
  · intro _ _
    apply semPresent_keeps
    with_reducible assumption

theorem execSemSet_keeps {s0 : State} : ∀ x0 x1 x2 x3 s5, Keeps s0 s5 → KeepsOut s0 (execSemSet x0 x1 x2 x3 s5) := by
  intro x0 x1 x2 x3 s5 h0
  unfold execSemSet
  apply fabric_keeps
  · with_reducible assumption
  · intro _ _
    apply semPresent_keeps
    with_reducible assumption

theorem execSemHostAdd_keeps {s0 : State} : ∀ x0 s2, Keeps s0 s2 → KeepsOut s0 (execSemHostAdd x0 s2) := by
  intro x0 s2 h0
  unfold execSemHostAdd
  apply fabric_keeps
  · assumption
  · intro _ _
    apply hostSem_keeps
    · assumption
    · intro _ _
      apply semAddOp_keeps
      assumption

theorem execSemHostSub_keeps {s0 : State} : ∀ x0 s2, Keeps s0 s2 → KeepsOut s0 (execSemHostSub x0 s2) := by
  intro x0 s2 h0
  unfold execSemHostSub
  apply fabric_keeps
  · assumption
  · intro _ _
    apply hostSem_keeps
    · assumption
    · intro _ _
      apply semSubOp_keeps
      assumption

theorem execSemHostSet_keeps {s0 : State} : ∀ x0 s2, Keeps s0 s2 → KeepsOut s0 (execSemHostSet x0 s2) := by
  intro x0 s2 h0
  unfold execSemHostSet
  apply fabric_keeps
  · assumption
  · intro _ _
    apply hostSem_keeps
    · assumption
    · intro _ _
      apply semSetOp_keeps
      assumption

theorem execSemWindowWrite_keeps {s0 : State} : ∀ x0 x1 s3, Keeps s0 s3 → KeepsOut s0 (execSemWindowWrite x0 x1 s3) := by
  intro x0 x1 s3 h0
  unfold execSemWindowWrite
  apply fabric_keeps
  · assumption
  · intro _ _
    apply semErr_keeps
    assumption

theorem endWait_keeps {s0 : State} : ∀ s1 x1 x2, Keeps s0 s1 → Keeps s0 (endWait s1 x1 x2) := by
  intro s1 x1 x2 h0
  unfold endWait
  refine Keeps.mk_same ?_ rfl rfl rfl rfl rfl rfl rfl rfl rfl rfl rfl rfl rfl
  assumption

theorem pollWaiter_keeps {s0 : State} : ∀ s1 x1, Keeps s0 s1 → Keeps s0 (pollWaiter s1 x1).1 := by
  intro s1 x1 h0
  unfold pollWaiter
  extract_lets +onlyGivenNames v200
  clear_value v200
  extract_lets +onlyGivenNames v199
  have kv199 : Keeps s0 v199 := by
    subst v199
    apply Keeps.ite
    · apply semWaitsubOp_keeps
      assumption
    · apply semWaitOp_keeps
      assumption
  clear_value v199
  split
  · assumption
  · split
    split
    · split
      · dsimp only
        refine Keeps.of_snd (by assumption) ?_
        apply drawNat_keeps
        assumption
      · dsimp only
        refine Keeps.of_snd (by assumption) ?_
        apply drawNat_keeps
        assumption
    · dsimp only
      refine Keeps.of_snd (by assumption) ?_
      apply drawNat_keeps
      assumption

theorem pollAmong_keeps {s0 : State} : ∀ s1 x1 x2, Keeps s0 s1 → Keeps s0 (pollAmong s1 x1 x2).1 := by
  intro s1 x1 x2 h0
  unfold pollAmong
  extract_lets +onlyGivenNames v120
  clear_value v120
  extract_lets +onlyGivenNames v119
  clear_value v119
  split
  dsimp only
  apply Keeps.foldl
  · refine Keeps.of_fst (by assumption) ?_
    apply pollWaiter_keeps
    apply Keeps.foldl
    · with_reducible assumption
    · intro _ _
      intro _
      apply semStep_keeps
      with_reducible assumption
  · intro _ _
    intro _
    apply semStep_keeps
    with_reducible assumption

theorem startShadow_keeps {s0 : State} : ∀ s1 x1, Keeps s0 s1 → Keeps s0 (startShadow s1 x1) := by
  intro s1 x1 h0
  unfold startShadow
  refine Keeps.mk_same ?_ rfl rfl rfl rfl rfl rfl rfl rfl rfl rfl rfl rfl rfl
  assumption

theorem execSemShadowCfgWrite_keeps {s0 : State} : ∀ x0 x1 s3, Keeps s0 s3 → KeepsOut s0 (execSemShadowCfgWrite x0 x1 s3) := by
  intro x0 x1 s3 h0
  unfold execSemShadowCfgWrite
  apply fabric_keeps
  · assumption
  · intro _ _
    split
    · extract_lets +onlyGivenNames v196
      clear_value v196
      extract_lets +onlyGivenNames v195
      clear_value v195
      extract_lets +onlyGivenNames v194
      have kv194 : Keeps s0 v194 := by
        subst v194
        apply wr_keeps
        assumption
      clear_value v194
      extract_lets +onlyGivenNames v193
      clear_value v193
      apply Keeps.ite
      · apply startShadow_keeps
        assumption
      · assumption
    · extract_lets +onlyGivenNames v196
      have kv196 : Keeps s0 v196 := by
        subst v196
        apply wr_keeps
        assumption
      clear_value v196
      apply Keeps.ite
      · apply startShadow_keeps
        assumption
      · assumption

theorem execSemShadowWrite_keeps {s0 : State} : ∀ x0 s2, Keeps s0 s2 → KeepsOut s0 (execSemShadowWrite x0 s2) := by
  intro x0 s2 h0
  unfold execSemShadowWrite
  apply fabric_keeps
  · with_reducible assumption
  · intro _ _
    apply Keeps.ite
    · with_reducible assumption
    · extract_lets +onlyGivenNames v116
      subst v116
      extract_lets +onlyGivenNames v115
      have kv115 : Keeps s0 v115 := by
        subst v115
        refine Keeps.mk_same ?_ rfl rfl rfl rfl rfl rfl rfl rfl rfl rfl rfl rfl rfl
        with_reducible assumption
      clear_value v115
      extract_lets +onlyGivenNames v114
      clear_value v114
      extract_lets +onlyGivenNames v113
      clear_value v113
      apply Keeps.ite
      · with_reducible assumption
      · apply Keeps.ite
        · apply semErr_keeps
          with_reducible assumption
        · apply hostWrite_keeps
          with_reducible assumption

end Sys2Proof.Machine
end

