-- ==== Sys2Proof/Laws/KeepsVision.lean ====
section
/-! SUPPORT. What the functions of Machine/Vision.lean keep: the queue of commands, the straps, the fuses and the canonical forms. -/

namespace Sys2Proof.Machine

theorem buildLevel_keeps {s0 : State} : ∀ x0 x1 x2 s4 x4, Keeps s0 s4 → Keeps s0 (buildLevel x0 x1 x2 s4 x4) := by
  intro x0 x1 x2 s4 x4 h0
  unfold buildLevel
  extract_lets +onlyGivenNames v200
  clear_value v200
  apply Keeps.foldl
  · assumption
  · intro _ _
    intro _
    apply stBytes_keeps
    assumption

theorem builderEnable_keeps {s0 : State} : ∀ s1 x1, Keeps s0 s1 → Keeps s0 (builderEnable s1 x1) := by
  intro s1 x1 h0
  unfold builderEnable
  extract_lets +onlyGivenNames v120
  clear_value v120
  extract_lets +onlyGivenNames v119
  have kv119 : Keeps s0 v119 := by
    subst v119
    apply wr_keeps
    apply wr_keeps
    refine Keeps.mk_same ?_ rfl rfl rfl rfl rfl rfl rfl rfl rfl rfl rfl rfl rfl
    with_reducible assumption
  clear_value v119
  split
  · with_reducible assumption
  · extract_lets +onlyGivenNames v117
    clear_value v117
    extract_lets +onlyGivenNames v116
    have kv116 : Keeps s0 v116 := by
      subst v116
      refine Keeps.mk_same ?_ rfl rfl rfl rfl rfl rfl rfl rfl rfl rfl rfl rfl rfl
      with_reducible assumption
    clear_value v116
    apply Keeps.ite
    · with_reducible assumption
    · apply errInfo_keeps
      with_reducible assumption

theorem buildPyramid_keeps {s0 : State} : ∀ s1 x1 x2, Keeps s0 s1 → Keeps s0 (buildPyramid s1 x1 x2) := by
  intro s1 x1 x2 h0
  unfold buildPyramid
  split
  · assumption
  · apply Keeps.ite
    · apply Keeps.foldl
      · assumption
      · intro _ _
        intro _
        apply buildLevel_keeps
        assumption
    · assumption

theorem setVisJob_keeps {s0 : State} : ∀ s1 x1 x2, Keeps s0 s1 → Keeps s0 (setVisJob s1 x1 x2) := by
  intro s1 x1 x2 h0
  unfold setVisJob
  extract_lets +onlyGivenNames v200
  have kv200 : Keeps s0 v200 := by
    subst v200
    apply wf_keeps
    assumption
  clear_value v200
  refine Keeps.mk_same ?_ rfl rfl rfl rfl rfl rfl rfl rfl rfl rfl rfl rfl rfl
  assumption

theorem stampStatus_keeps {s0 : State} : ∀ s1 x1 x2, Keeps s0 s1 → Keeps s0 (stampStatus s1 x1 x2) := by
  intro s1 x1 x2 h0
  unfold stampStatus
  apply Keeps.ite
  · apply stN_keeps
    assumption
  · assumption

theorem visDone_keeps {s0 : State} : ∀ s1 x1 x2, Keeps s0 s1 → Keeps s0 (visDone s1 x1 x2) := by
  intro s1 x1 x2 h0
  unfold visDone
  apply setVisJob_keeps
  apply stampStatus_keeps
  assumption

theorem visIo_keeps {s0 : State} : ∀ s1 x1 x2 x3 f4, Keeps s0 s1 → (∀ t, Keeps s0 t → Keeps s0 (f4 t)) → Keeps s0 (visIo s1 x1 x2 x3 f4) := by
  intro s1 x1 x2 x3 f4 h0 h1
  unfold visIo
  apply jobIo_keeps
  · with_reducible assumption
  · intro _ _
    apply visDone_keeps
    with_reducible assumption
  · with_reducible assumption

theorem visRefuse_keeps {s0 : State} : ∀ s1 x1 x2 x3, Keeps s0 s1 → Keeps s0 (visRefuse s1 x1 x2 x3) := by
  intro s1 x1 x2 x3 h0
  unfold visRefuse
  apply visDone_keeps
  apply errInfo_keeps
  assumption

theorem visWork_keeps {s0 : State} : ∀ x0 x1 f2 s4, (∀ t y1, Keeps s0 t → Keeps s0 (f2 t y1)) → Keeps s0 s4 → KeepsOut s0 (visWork x0 x1 f2 s4) := by
  intro x0 x1 f2 s4 h0 h1
  unfold visWork
  apply fabric_keeps
  · with_reducible assumption
  · intro _ _
    split
    · extract_lets +onlyGivenNames v116
      clear_value v116
      apply Keeps.ite
      · with_reducible assumption
      · apply Keeps.ite
        · apply issued_keeps
          · with_reducible assumption
          · apply h0
            with_reducible assumption
        · apply Keeps.ite
          · with_reducible assumption
          · apply visRefuse_keeps
            with_reducible assumption
    · with_reducible assumption

theorem detectJob_keeps {s0 : State} : ∀ x0 s2 x2, Keeps s0 s2 → Keeps s0 (detectJob x0 s2 x2) := by
  intro x0 s2 x2 h0
  unfold detectJob
  extract_lets +onlyGivenNames v120
  clear_value v120
  split
  · apply visRefuse_keeps
    with_reducible assumption
  · extract_lets +onlyGivenNames v118
    clear_value v118
    extract_lets +onlyGivenNames v117
    clear_value v117
    extract_lets +onlyGivenNames v116
    clear_value v116
    extract_lets +onlyGivenNames v115
    clear_value v115
    extract_lets +onlyGivenNames v114
    clear_value v114
    extract_lets +onlyGivenNames v113
    subst v113
    extract_lets +onlyGivenNames v112
    clear_value v112
    apply visIo_keeps
    · with_reducible assumption
    · intro _ _
      extract_lets +onlyGivenNames v108
      clear_value v108
      extract_lets +onlyGivenNames v107
      clear_value v107
      extract_lets +onlyGivenNames v106
      clear_value v106
      extract_lets +onlyGivenNames v105
      clear_value v105
      extract_lets +onlyGivenNames v104
      clear_value v104
      extract_lets +onlyGivenNames v103
      clear_value v103
      extract_lets +onlyGivenNames v102
      clear_value v102
      extract_lets +onlyGivenNames v101
      have kv101 : Keeps s0 v101 := by
        subst v101
        apply stBytes_keeps
        with_reducible assumption
      clear_value v101
      extract_lets +onlyGivenNames v100
      have kv100 : Keeps s0 v100 := by
        subst v100
        apply Keeps.ite
        · apply stBytes_keeps
          with_reducible assumption
        · with_reducible assumption
      clear_value v100
      apply visDone_keeps
      apply bumpN_keeps
      apply bumpN_keeps
      with_reducible assumption

theorem execDetect_keeps {s0 : State} : ∀ x0 s2, Keeps s0 s2 → KeepsOut s0 (execDetect x0 s2) := by
  intro x0 s2 h0
  unfold execDetect
  apply visWork_keeps
  · intro _ _
    intro _
    apply detectJob_keeps
    assumption
  · assumption

theorem fddStart_keeps {s0 : State} : ∀ s1 x1 x2, Keeps s0 s1 → Keeps s0 (fddStart s1 x1 x2).1 := by
  intro s1 x1 x2 h0
  unfold fddStart
  extract_lets +onlyGivenNames v200
  clear_value v200
  split
  · extract_lets +onlyGivenNames v198
    clear_value v198
    dsimp only
    apply wf_keeps
    assumption
  · assumption

theorem fddEnd_keeps {s0 : State} : ∀ s1 x1 x2 x3, Keeps s0 s1 → Keeps s0 (fddEnd s1 x1 x2 x3) := by
  intro s1 x1 x2 x3 h0
  unfold fddEnd
  extract_lets +onlyGivenNames v200
  clear_value v200
  split
  · assumption
  · extract_lets +onlyGivenNames v198
    have kv198 : Keeps s0 v198 := by
      subst v198
      apply wf_keeps
      apply wf_keeps
      assumption
    clear_value v198
    apply Keeps.ite
    · extract_lets +onlyGivenNames v196
      clear_value v196
      refine Keeps.mk_same ?_ rfl rfl rfl rfl rfl rfl rfl rfl rfl rfl rfl rfl rfl
      assumption
    · assumption

theorem trackJob_keeps {s0 : State} : ∀ x0 s2 x2, Keeps s0 s2 → Keeps s0 (trackJob x0 s2 x2) := by
  intro x0 s2 x2 h0
  unfold trackJob
  extract_lets +onlyGivenNames v120
  clear_value v120
  split
  · apply visRefuse_keeps
    with_reducible assumption
  · extract_lets +onlyGivenNames v118
    clear_value v118
    extract_lets +onlyGivenNames v117
    clear_value v117
    extract_lets +onlyGivenNames v116
    clear_value v116
    extract_lets +onlyGivenNames v115
    clear_value v115
    extract_lets +onlyGivenNames v114
    clear_value v114
    extract_lets +onlyGivenNames v113
    clear_value v113
    extract_lets +onlyGivenNames v112
    clear_value v112
    extract_lets +onlyGivenNames v111
    clear_value v111
    extract_lets +onlyGivenNames v110
    clear_value v110
    extract_lets +onlyGivenNames v109
    clear_value v109
    extract_lets +onlyGivenNames v108
    clear_value v108
    extract_lets +onlyGivenNames v107
    clear_value v107
    apply visIo_keeps
    · with_reducible assumption
    · intro _ _
      split
      · apply visDone_keeps
        with_reducible assumption
      · extract_lets +onlyGivenNames v102
        clear_value v102
        extract_lets +onlyGivenNames v101
        clear_value v101
        extract_lets +onlyGivenNames v100
        clear_value v100
        extract_lets +onlyGivenNames v99
        clear_value v99
        extract_lets +onlyGivenNames v98
        clear_value v98
        extract_lets +onlyGivenNames v97
        clear_value v97
        extract_lets +onlyGivenNames v96
        clear_value v96
        extract_lets +onlyGivenNames v95
        clear_value v95
        extract_lets +onlyGivenNames v94
        clear_value v94
        extract_lets +onlyGivenNames v93
        clear_value v93
        extract_lets +onlyGivenNames v92
        have kv92 : Keeps s0 v92 := by
          subst v92
          apply stBytes_keeps
          with_reducible assumption
        clear_value v92
        extract_lets +onlyGivenNames v91
        have kv91 : Keeps s0 v91 := by
          subst v91
          apply stBytes_keeps
          with_reducible assumption
        clear_value v91
        extract_lets +onlyGivenNames v90
        have kv90 : Keeps s0 v90 := by
          subst v90
          apply bumpN_keeps
          with_reducible assumption
        clear_value v90
        apply visDone_keeps
        apply bumpN_keeps
        with_reducible assumption

theorem execTrack_keeps {s0 : State} : ∀ x0 s2, Keeps s0 s2 → KeepsOut s0 (execTrack x0 s2) := by
  intro x0 s2 h0
  unfold execTrack
  apply visWork_keeps
  · intro _ _
    intro _
    apply trackJob_keeps
    assumption
  · assumption

theorem seedJob_keeps {s0 : State} : ∀ x0 s2 x2, Keeps s0 s2 → Keeps s0 (seedJob x0 s2 x2) := by
  intro x0 s2 x2 h0
  unfold seedJob
  extract_lets +onlyGivenNames v120
  clear_value v120
  split
  · apply visRefuse_keeps
    with_reducible assumption
  · extract_lets +onlyGivenNames v118
    clear_value v118
    extract_lets +onlyGivenNames v117
    clear_value v117
    extract_lets +onlyGivenNames v116
    clear_value v116
    extract_lets +onlyGivenNames v115
    clear_value v115
    extract_lets +onlyGivenNames v114
    clear_value v114
    extract_lets +onlyGivenNames v113
    clear_value v113
    extract_lets +onlyGivenNames v112
    clear_value v112
    extract_lets +onlyGivenNames v111
    clear_value v111
    extract_lets +onlyGivenNames v110
    clear_value v110
    apply visIo_keeps
    · with_reducible assumption
    · intro _ _
      extract_lets +onlyGivenNames v106
      clear_value v106
      split
      extract_lets +onlyGivenNames v104
      clear_value v104
      split
      extract_lets +onlyGivenNames v102
      clear_value v102
      extract_lets +onlyGivenNames v101
      have kv101 : Keeps s0 v101 := by
        subst v101
        apply stBytes_keeps
        with_reducible assumption
      clear_value v101
      apply visDone_keeps
      apply bumpN_keeps
      with_reducible assumption

theorem execSeed_keeps {s0 : State} : ∀ x0 s2, Keeps s0 s2 → KeepsOut s0 (execSeed x0 s2) := by
  intro x0 s2 h0
  unfold execSeed
  apply visWork_keeps
  · intro _ _
    intro _
    apply seedJob_keeps
    assumption
  · assumption

theorem matchJob_keeps {s0 : State} : ∀ x0 s2 x2, Keeps s0 s2 → Keeps s0 (matchJob x0 s2 x2) := by
  intro x0 s2 x2 h0
  unfold matchJob
  extract_lets +onlyGivenNames v120
  clear_value v120
  split
  · apply visRefuse_keeps
    with_reducible assumption
  · extract_lets +onlyGivenNames v118
    clear_value v118
    apply visIo_keeps
    · with_reducible assumption
    · intro _ _
      extract_lets +onlyGivenNames v114
      clear_value v114
      extract_lets +onlyGivenNames v113
      clear_value v113
      extract_lets +onlyGivenNames v112
      clear_value v112
      extract_lets +onlyGivenNames v111
      have kv111 : Keeps s0 v111 := by
        subst v111
        apply stBytes_keeps
        with_reducible assumption
      clear_value v111
      apply visDone_keeps
      apply bumpN_keeps
      with_reducible assumption

theorem execMatchSets_keeps {s0 : State} : ∀ x0 s2, Keeps s0 s2 → KeepsOut s0 (execMatchSets x0 s2) := by
  intro x0 s2 h0
  unfold execMatchSets
  apply visWork_keeps
  · intro _ _
    intro _
    apply matchJob_keeps
    assumption
  · assumption

theorem execFddPairWrite_keeps {s0 : State} : ∀ x0 x1 x2 s4, Keeps s0 s4 → KeepsOut s0 (execFddPairWrite x0 x1 x2 s4) := by
  intro x0 x1 x2 s4 h0
  unfold execFddPairWrite
  apply fabric_keeps
  · assumption
  · intro _ _
    extract_lets +onlyGivenNames v197
    clear_value v197
    apply Keeps.ite
    · apply errInfo_keeps
      assumption
    · apply Keeps.ite
      · apply errInfo_keeps
        assumption
      · apply wr_keeps
        assumption

end Sys2Proof.Machine
end

