-- ==== Sys2Proof/Laws/KeepsStereo.lean ====
section
/-! SUPPORT. What the functions of Machine/Stereo.lean keep: the queue of commands, the straps, the fuses and the canonical forms. -/

namespace Sys2Proof.Machine

theorem depthJob_keeps {s0 : State} : ∀ s1 x1, Keeps s0 s1 → Keeps s0 (depthJob s1 x1) := by
  intro s1 x1 h0
  unfold depthJob
  extract_lets +onlyGivenNames v120
  clear_value v120
  extract_lets +onlyGivenNames v119
  clear_value v119
  split
  · apply visRefuse_keeps
    with_reducible assumption
  · extract_lets +onlyGivenNames v117
    clear_value v117
    apply Keeps.ite
    · apply visDone_keeps
      with_reducible assumption
    · extract_lets +onlyGivenNames v115
      clear_value v115
      extract_lets +onlyGivenNames v114
      clear_value v114
      split
      extract_lets +onlyGivenNames v112
      clear_value v112
      extract_lets +onlyGivenNames v111
      clear_value v111
      extract_lets +onlyGivenNames v110
      clear_value v110
      extract_lets +onlyGivenNames v109
      clear_value v109
      extract_lets +onlyGivenNames v108
      clear_value v108
      extract_lets +onlyGivenNames v107
      clear_value v107
      extract_lets +onlyGivenNames v106
      clear_value v106
      apply visIo_keeps
      · with_reducible assumption
      · intro _ _
        extract_lets +onlyGivenNames v102
        clear_value v102
        extract_lets +onlyGivenNames v101
        clear_value v101
        extract_lets +onlyGivenNames v100
        clear_value v100
        extract_lets +onlyGivenNames v99
        clear_value v99
        extract_lets +onlyGivenNames v98
        clear_value v98
        extract_lets +onlyGivenNames v97
        clear_value v97
        extract_lets +onlyGivenNames v96
        clear_value v96
        extract_lets +onlyGivenNames v95
        clear_value v95
        extract_lets +onlyGivenNames v94
        have kv94 : Keeps s0 v94 := by
          subst v94
          apply stBytes_keeps
          with_reducible assumption
        clear_value v94
        extract_lets +onlyGivenNames v93
        have kv93 : Keeps s0 v93 := by
          subst v93
          apply Keeps.foldl
          · with_reducible assumption
          · intro _ _
            intro _
            apply stBytes_keeps
            apply stBytes_keeps
            with_reducible assumption
        clear_value v93
        extract_lets +onlyGivenNames v92
        have kv92 : Keeps s0 v92 := by
          subst v92
          apply bumpN_keeps
          apply bumpN_keeps
          with_reducible assumption
        clear_value v92
        apply visDone_keeps
        apply bumpN_keeps
        apply bumpN_keeps
        with_reducible assumption

theorem execDepth_keeps {s0 : State} : ∀ s1, Keeps s0 s1 → KeepsOut s0 (execDepth s1) := by
  intro s1 h0
  unfold execDepth
  apply visWork_keeps
  · intro _ _
    intro _
    apply depthJob_keeps
    assumption
  · assumption

theorem calErr_keeps {s0 : State} : ∀ x0 x1 x2 s4, Keeps s0 s4 → Keeps s0 (calErr x0 x1 x2 s4) := by
  intro x0 x1 x2 s4 h0
  unfold calErr
  extract_lets +onlyGivenNames v200
  clear_value v200
  split
  · apply errInfo_keeps
    assumption
  · apply errInfo_keeps
    assumption

theorem execCalArm_keeps {s0 : State} : ∀ x0 s2, Keeps s0 s2 → KeepsOut s0 (execCalArm x0 s2) := by
  intro x0 s2 h0
  unfold execCalArm
  apply fabric_keeps
  · assumption
  · intro _ _
    apply Keeps.ite
    · apply calErr_keeps
      assumption
    · apply setBits_keeps
      assumption

theorem calActivate_keeps {s0 : State} : ∀ x0 x1 s3, Keeps s0 s3 → Keeps s0 (calActivate x0 x1 s3) := by
  intro x0 x1 s3 h0
  unfold calActivate
  extract_lets +onlyGivenNames v120
  have kv120 : Keeps s0 v120 := by
    subst v120
    apply wr_keeps
    with_reducible assumption
  clear_value v120
  extract_lets +onlyGivenNames v119
  have kv119 : Keeps s0 v119 := by
    subst v119
    apply wr_keeps
    apply wr_keeps
    with_reducible assumption
  clear_value v119
  extract_lets +onlyGivenNames v118
  have kv118 : Keeps s0 v118 := by
    subst v118
    apply wr_keeps
    with_reducible assumption
  clear_value v118
  apply setBits_keeps
  apply setBits_keeps
  apply clrBits_keeps
  with_reducible assumption

theorem calrefFailed_keeps {s0 : State} : ∀ s1 x1, Keeps s0 s1 → Keeps s0 (calrefFailed s1 x1) := by
  intro s1 x1 h0
  unfold calrefFailed
  split
  · assumption
  · apply Keeps.ite
    · apply setBits_keeps
      apply bump_keeps
      assumption
    · assumption

theorem execCalCheckEnd_keeps {s0 : State} : ∀ x0 s2, Keeps s0 s2 → KeepsOut s0 (execCalCheckEnd x0 s2) := by
  intro x0 s2 h0
  unfold execCalCheckEnd
  apply fabric_keeps
  · with_reducible assumption
  · intro _ _
    apply Keeps.ite
    · with_reducible assumption
    · extract_lets +onlyGivenNames v116
      have kv116 : Keeps s0 v116 := by
        subst v116
        apply clrBits_keeps
        apply noteReads_keeps
        with_reducible assumption
      clear_value v116
      apply Keeps.ite
      · apply calrefFailed_keeps
        apply calErr_keeps
        with_reducible assumption
      · extract_lets +onlyGivenNames v114
        have kv114 : Keeps s0 v114 := by
          subst v114
          apply wr_keeps
          with_reducible assumption
        clear_value v114
        apply Keeps.ite
        · apply setBits_keeps
          with_reducible assumption
        · apply calActivate_keeps
          with_reducible assumption

theorem execCalDisarm_keeps {s0 : State} : ∀ x0 s2, Keeps s0 s2 → KeepsOut s0 (execCalDisarm x0 s2) := by
  intro x0 s2 h0
  unfold execCalDisarm
  apply fabric_keeps
  · assumption
  · intro _ _
    apply clrBits_keeps
    assumption

theorem calSwapOne_keeps {s0 : State} : ∀ x0 s2 x2, Keeps s0 s2 → Keeps s0 (calSwapOne x0 s2 x2) := by
  intro x0 s2 x2 h0
  unfold calSwapOne
  apply Keeps.ite
  · extract_lets +onlyGivenNames v199
    have kv199 : Keeps s0 v199 := by
      subst v199
      apply wr_keeps
      assumption
    clear_value v199
    apply calActivate_keeps
    apply Keeps.ite
    · apply setBits_keeps
      assumption
    · assumption
  · assumption

theorem execCalSwap_keeps {s0 : State} : ∀ s1, Keeps s0 s1 → KeepsOut s0 (execCalSwap s1) := by
  intro s1 h0
  unfold execCalSwap
  apply fabric_keeps
  · assumption
  · intro _ _
    split
    · assumption
    · apply Keeps.foldl
      · refine Keeps.mk_same ?_ rfl rfl rfl rfl rfl rfl rfl rfl rfl rfl rfl rfl rfl
        assumption
      · intro _ _
        intro _
        apply calSwapOne_keeps
        assumption

theorem projectWrite_keeps {s0 : State} : ∀ s1 x1 x2 x3 x4 x5, Keeps s0 s1 → Keeps s0 (projectWrite s1 x1 x2 x3 x4 x5) := by
  intro s1 x1 x2 x3 x4 x5 h0
  unfold projectWrite
  extract_lets +onlyGivenNames v200
  clear_value v200
  extract_lets +onlyGivenNames v199
  have kv199 : Keeps s0 v199 := by
    subst v199
    apply stBytes_keeps
    assumption
  clear_value v199
  apply Keeps.foldl
  · assumption
  · intro _ _
    intro _
    extract_lets +onlyGivenNames v194
    clear_value v194
    extract_lets +onlyGivenNames v193
    have kv193 : Keeps s0 v193 := by
      subst v193
      apply stBytes_keeps
      assumption
    clear_value v193
    apply stBytes_keeps
    assumption

theorem projectJob_keeps {s0 : State} : ∀ s1 x1, Keeps s0 s1 → Keeps s0 (projectJob s1 x1) := by
  intro s1 x1 h0
  unfold projectJob
  extract_lets +onlyGivenNames v120
  clear_value v120
  extract_lets +onlyGivenNames v119
  clear_value v119
  extract_lets +onlyGivenNames v118
  clear_value v118
  split
  · apply visRefuse_keeps
    with_reducible assumption
  · extract_lets +onlyGivenNames v116
    clear_value v116
    extract_lets +onlyGivenNames v115
    clear_value v115
    extract_lets +onlyGivenNames v114
    clear_value v114
    extract_lets +onlyGivenNames v113
    clear_value v113
    extract_lets +onlyGivenNames v112
    clear_value v112
    extract_lets +onlyGivenNames v111
    clear_value v111
    extract_lets +onlyGivenNames v110
    clear_value v110
    extract_lets +onlyGivenNames v109
    clear_value v109
    extract_lets +onlyGivenNames v108
    clear_value v108
    extract_lets +onlyGivenNames v107
    clear_value v107
    apply Keeps.ite
    · split
      apply visIo_keeps
      · with_reducible assumption
      · intro _ _
        apply visDone_keeps
        apply projectWrite_keeps
        with_reducible assumption
    · extract_lets +onlyGivenNames v105
      clear_value v105
      extract_lets +onlyGivenNames v104
      clear_value v104
      apply visIo_keeps
      · with_reducible assumption
      · intro _ _
        extract_lets +onlyGivenNames v100
        clear_value v100
        extract_lets +onlyGivenNames v99
        clear_value v99
        extract_lets +onlyGivenNames v98
        clear_value v98
        extract_lets +onlyGivenNames v97
        have kv97 : Keeps s0 v97 := by
          subst v97
          apply projectWrite_keeps
          with_reducible assumption
        clear_value v97
        extract_lets +onlyGivenNames v96
        have kv96 : Keeps s0 v96 := by
          subst v96
          apply bumpN_keeps
          apply bumpN_keeps
          with_reducible assumption
        clear_value v96
        apply visDone_keeps
        apply bumpN_keeps
        with_reducible assumption

theorem execProject_keeps {s0 : State} : ∀ s1, Keeps s0 s1 → KeepsOut s0 (execProject s1) := by
  intro s1 h0
  unfold execProject
  apply visWork_keeps
  · intro _ _
    intro _
    apply projectJob_keeps
    assumption
  · assumption

theorem visStart_keeps {s0 : State} : ∀ s1 x1 x2, Keeps s0 s1 → Keeps s0 (visStart s1 x1 x2) := by
  intro s1 x1 x2 h0
  unfold visStart
  split
  · split
    apply setVisJob_keeps
    refine Keeps.of_fst (by assumption) ?_
    apply fddStart_keeps
    with_reducible assumption
  · apply setVisJob_keeps
    with_reducible assumption
  · extract_lets +onlyGivenNames v119
    subst v119
    extract_lets +onlyGivenNames v118
    clear_value v118
    extract_lets +onlyGivenNames v117
    clear_value v117
    apply setVisJob_keeps
    apply Keeps.ite
    · refine Keeps.mk_same ?_ rfl rfl rfl rfl rfl rfl rfl rfl rfl rfl rfl rfl rfl
      with_reducible assumption
    · with_reducible assumption
  · extract_lets +onlyGivenNames v119
    subst v119
    extract_lets +onlyGivenNames v118
    clear_value v118
    extract_lets +onlyGivenNames v117
    clear_value v117
    apply setVisJob_keeps
    with_reducible assumption

theorem visRelease_keeps {s0 : State} : ∀ s1 x1 x2 x3, Keeps s0 s1 → Keeps s0 (visRelease s1 x1 x2 x3) := by
  intro s1 x1 x2 x3 h0
  unfold visRelease
  split
  · apply fddEnd_keeps
    assumption
  · assumption
  · apply clrBits_keeps
    assumption
  · apply clrBits_keeps
    assumption

theorem visComplete_keeps {s0 : State} : ∀ s1 x1 x2 x3, Keeps s0 s1 → Keeps s0 (visComplete s1 x1 x2 x3) := by
  intro s1 x1 x2 x3 h0
  unfold visComplete
  apply report_keeps
  apply bumpWrap_keeps
  apply setVisJob_keeps
  apply visRelease_keeps
  assumption

theorem execVisionJobEnd_keeps {s0 : State} : ∀ x0 s2, Keeps s0 s2 → KeepsOut s0 (execVisionJobEnd x0 s2) := by
  intro x0 s2 h0
  unfold execVisionJobEnd
  apply fabric_keeps
  · with_reducible assumption
  · intro _ _
    split
    · apply Keeps.ite
      · apply visComplete_keeps
        apply issued_keeps
        · with_reducible assumption
        · apply stampStatus_keeps
          with_reducible assumption
      · split
        · apply visComplete_keeps
          with_reducible assumption
        · with_reducible assumption
    · with_reducible assumption

end Sys2Proof.Machine
end

