-- ==== Sys2Proof/Laws/KeepsFrameGraphs.lean ====
section
/-! SUPPORT. What the functions of Machine/FrameGraphs.lean keep: the queue of commands, the straps, the fuses and the canonical forms. -/

namespace Sys2Proof.Machine

theorem syncRuns_keeps {s0 : State} : ∀ s1 x1, Keeps s0 s1 → Keeps s0 (syncRuns s1 x1) := by
  intro s1 x1 h0
  unfold syncRuns
  extract_lets +onlyGivenNames v200
  clear_value v200
  extract_lets +onlyGivenNames v199
  have kv199 : Keeps s0 v199 := by
    subst v199
    apply wf_keeps
    assumption
  clear_value v199
  apply wf_keeps
  apply wf_keeps
  assumption

theorem setRun_keeps {s0 : State} : ∀ s1 x1, Keeps s0 s1 → Keeps s0 (setRun s1 x1) := by
  intro s1 x1 h0
  unfold setRun
  apply syncRuns_keeps
  refine Keeps.mk_same ?_ rfl rfl rfl rfl rfl rfl rfl rfl rfl rfl rfl rfl rfl
  assumption

theorem fgsErr_keeps {s0 : State} : ∀ s1 x1 x2 x3, Keeps s0 s1 → Keeps s0 (fgsErr s1 x1 x2 x3) := by
  intro s1 x1 x2 x3 h0
  unfold fgsErr
  apply errInfo_keeps
  assumption

theorem createRun_keeps {s0 : State} : ∀ s1 x1 x2 x3 x4, Keeps s0 s1 → Keeps s0 (createRun s1 x1 x2 x3 x4) := by
  intro s1 x1 x2 x3 x4 h0
  unfold createRun
  split
  · assumption
  · extract_lets +onlyGivenNames v199
    clear_value v199
    extract_lets +onlyGivenNames v198
    clear_value v198
    extract_lets +onlyGivenNames v197
    clear_value v197
    extract_lets +onlyGivenNames v196
    have kv196 : Keeps s0 v196 := by
      subst v196
      refine Keeps.mk_same ?_ rfl rfl rfl rfl rfl rfl rfl rfl rfl rfl rfl rfl rfl
      assumption
    clear_value v196
    apply bumpWrap_keeps
    apply syncRuns_keeps
    assumption

theorem launchOverrun_keeps {s0 : State} : ∀ s1 x1, Keeps s0 s1 → Keeps s0 (launchOverrun s1 x1) := by
  intro s1 x1 h0
  unfold launchOverrun
  apply setBits_keeps
  apply bump_keeps
  with_reducible assumption

theorem launchByGate_keeps {s0 : State} : ∀ s1 x1 x2 x3, Keeps s0 s1 → Keeps s0 (launchByGate s1 x1 x2 x3).1 := by
  intro s1 x1 x2 x3 h0
  unfold launchByGate
  split
  · dsimp only
    apply createRun_keeps
    assumption
  · dsimp only
    apply fgsErr_keeps
    assumption
  · dsimp only
    apply setBits_keeps
    apply bump_keeps
    assumption

theorem runLeave_keeps {s0 : State} : ∀ s1 x1 x2, Keeps s0 s1 → Keeps s0 (runLeave s1 x1 x2) := by
  intro s1 x1 x2 h0
  unfold runLeave
  apply Keeps.ite
  · apply setRun_keeps
    assumption
  · extract_lets +onlyGivenNames v199
    clear_value v199
    extract_lets +onlyGivenNames v198
    have kv198 : Keeps s0 v198 := by
      subst v198
      apply Keeps.ite
      · assumption
      · apply postCompletion_keeps
        assumption
    clear_value v198
    extract_lets +onlyGivenNames v197
    clear_value v197
    extract_lets +onlyGivenNames v196
    have kv196 : Keeps s0 v196 := by
      subst v196
      apply syncRuns_keeps
      refine Keeps.mk_same ?_ rfl rfl rfl rfl rfl rfl rfl rfl rfl rfl rfl rfl rfl
      assumption
    clear_value v196
    extract_lets +onlyGivenNames v195
    have kv195 : Keeps s0 v195 := by
      subst v195
      apply wr_keeps
      apply bumpWrap_keeps
      assumption
    clear_value v195
    extract_lets +onlyGivenNames v194
    have kv194 : Keeps s0 v194 := by
      subst v194
      apply when_keeps
      · assumption
      · intro _ _
        apply setBits_keeps
        assumption
    clear_value v194
    extract_lets +onlyGivenNames v193
    have kv193 : Keeps s0 v193 := by
      subst v193
      apply when_keeps
      · assumption
      · intro _ _
        apply setBits_keeps
        assumption
    clear_value v193
    split
    · apply finish_keeps
      assumption
    · assumption

theorem runEnd_keeps {s0 : State} : ∀ s1 x1 x2, Keeps s0 s1 → Keeps s0 (runEnd s1 x1 x2) := by
  intro s1 x1 x2 h0
  unfold runEnd
  split
  extract_lets +onlyGivenNames v119
  clear_value v119
  extract_lets +onlyGivenNames v118
  clear_value v118
  extract_lets +onlyGivenNames v117
  have kv117 : Keeps s0 v117 := by
    subst v117
    apply stBytes_keeps
    refine Keeps.of_snd (by assumption) ?_
    apply drawNat_keeps
    with_reducible assumption
  clear_value v117
  apply runLeave_keeps
  apply signalAfter_keeps
  with_reducible assumption

theorem abortSignals_keeps {s0 : State} : ∀ x0 x1 x2 s4 x4, Keeps s0 s4 → Keeps s0 (abortSignals x0 x1 x2 s4 x4).1 := by
  intro x0 x1 x2 s4 x4 h0
  fun_induction abortSignals x0 x1 x2 s4 x4
  · with_reducible assumption
  · apply_assumption
    apply signal_keeps
    with_reducible assumption
  · apply_assumption
    with_reducible assumption

theorem runCheck_keeps {s0 : State} : ∀ s1 x1 x2, Keeps s0 s1 → Keeps s0 (runCheck s1 x1 x2) := by
  intro s1 x1 x2 h0
  unfold runCheck
  apply Keeps.ite
  · apply setRun_keeps
    assumption
  · apply Keeps.ite
    · split
      apply runEnd_keeps
      apply setRun_keeps
      refine Keeps.of_fst (by assumption) ?_
      apply abortSignals_keeps
      assumption
    · apply runEnd_keeps
      apply setRun_keeps
      assumption

theorem gateTime_keeps {s0 : State} : ∀ s1 x1, Keeps s0 s1 → Keeps s0 (gateTime s1 x1).2 := by
  intro s1 x1 h0
  unfold gateTime
  split
  extract_lets +onlyGivenNames v199
  clear_value v199
  dsimp only
  refine Keeps.of_snd (by assumption) ?_
  apply drawNat_keeps
  assumption

theorem endGate_keeps {s0 : State} : ∀ s1 x1 x2 x3 x4 x5, Keeps s0 s1 → Keeps s0 (endGate s1 x1 x2 x3 x4 x5).1 := by
  intro s1 x1 x2 x3 x4 x5 h0
  unfold endGate
  extract_lets +onlyGivenNames v200
  clear_value v200
  split
  extract_lets +onlyGivenNames v198
  have kv198 : Keeps s0 v198 := by
    subst v198
    apply when_keeps
    · refine Keeps.of_snd (by assumption) ?_
      apply gateTime_keeps
      assumption
    · intro _ _
      apply bump_keeps
      assumption
  clear_value v198
  extract_lets +onlyGivenNames v197
  have kv197 : Keeps s0 v197 := by
    subst v197
    apply when_keeps
    · assumption
    · intro _ _
      apply bump_keeps
      assumption
  clear_value v197
  extract_lets +onlyGivenNames v196
  clear_value v196
  extract_lets +onlyGivenNames v195
  have kv195 : Keeps s0 v195 := by
    subst v195
    apply when_keeps
    · assumption
    · intro _ _
      apply signal_keeps
      assumption
  clear_value v195
  assumption

theorem decideGate_keeps {s0 : State} : ∀ s1 x1 x2 x3 x4, Keeps s0 s1 → Keeps s0 (decideGate s1 x1 x2 x3 x4) := by
  intro s1 x1 x2 x3 x4 h0
  unfold decideGate
  split
  apply runCheck_keeps
  refine Keeps.of_fst (by assumption) ?_
  apply endGate_keeps
  assumption

theorem enqueueGate_keeps {s0 : State} : ∀ s1 x1 x2, Keeps s0 s1 → Keeps s0 (enqueueGate s1 x1 x2) := by
  intro s1 x1 x2 h0
  unfold enqueueGate
  extract_lets +onlyGivenNames v200
  clear_value v200
  extract_lets +onlyGivenNames v199
  clear_value v199
  apply Keeps.ite
  · apply decideGate_keeps
    assumption
  · apply Keeps.ite
    · apply decideGate_keeps
      assumption
    · apply Keeps.ite
      · apply setRun_keeps
        assumption
      · extract_lets +onlyGivenNames v195
        have kv195 : Keeps s0 v195 := by
          subst v195
          apply bump_keeps
          apply setQueue_keeps
          assumption
        clear_value v195
        apply runCheck_keeps
        assumption

theorem afterDep_keeps {s0 : State} : ∀ s1 x1 x2, Keeps s0 s1 → Keeps s0 (afterDep s1 x1 x2) := by
  intro s1 x1 x2 h0
  unfold afterDep
  extract_lets +onlyGivenNames v200
  clear_value v200
  extract_lets +onlyGivenNames v199
  clear_value v199
  apply Keeps.ite
  · apply decideGate_keeps
    assumption
  · apply Keeps.ite
    · apply decideGate_keeps
      assumption
    · apply Keeps.ite
      · apply setRun_keeps
        apply startWait_keeps
        assumption
      · apply enqueueGate_keeps
        assumption

theorem depStep_keeps {s0 : State} : ∀ s1 x1 x2, Keeps s0 s1 → Keeps s0 (depStep s1 x1 x2) := by
  intro s1 x1 x2 h0
  unfold depStep
  extract_lets +onlyGivenNames v200
  clear_value v200
  extract_lets +onlyGivenNames v199
  clear_value v199
  apply Keeps.ite
  · apply afterDep_keeps
    assumption
  · extract_lets +onlyGivenNames v197
    clear_value v197
    apply Keeps.ite
    · apply setRun_keeps
      assumption
    · apply Keeps.ite
      · apply decideGate_keeps
        assumption
      · apply Keeps.ite
        · apply decideGate_keeps
          assumption
        · apply afterDep_keeps
          assumption

theorem beginGate_keeps {s0 : State} : ∀ s1 x1 x2, Keeps s0 s1 → Keeps s0 (beginGate s1 x1 x2) := by
  intro s1 x1 x2 h0
  unfold beginGate
  extract_lets +onlyGivenNames v200
  clear_value v200
  extract_lets +onlyGivenNames v199
  clear_value v199
  extract_lets +onlyGivenNames v198
  clear_value v198
  extract_lets +onlyGivenNames v197
  clear_value v197
  extract_lets +onlyGivenNames v196
  clear_value v196
  extract_lets +onlyGivenNames v195
  clear_value v195
  apply Keeps.ite
  · apply decideGate_keeps
    assumption
  · apply depStep_keeps
    assumption

theorem endHold_keeps {s0 : State} : ∀ s1 x1 x2, Keeps s0 s1 → KeepsOpt s0 (endHold s1 x1 x2) := by
  intro s1 x1 x2 h0
  unfold endHold
  extract_lets +onlyGivenNames v120
  clear_value v120
  split
  · apply KeepsOpt.ite
    · apply KeepsOpt.some
      apply depStep_keeps
      with_reducible assumption
    · apply KeepsOpt.none
  · apply KeepsOpt.ite
    · apply KeepsOpt.none
    · apply KeepsOpt.some
      apply enqueueGate_keeps
      with_reducible assumption
  · apply KeepsOpt.none

theorem evaluateRun_keeps {s0 : State} : ∀ s1 x1, Keeps s0 s1 → Keeps s0 (evaluateRun s1 x1) := by
  intro s1 x1 h0
  unfold evaluateRun
  split
  · with_reducible assumption
  · split
    · with_reducible assumption
    · apply Keeps.ite
      · apply runLeave_keeps
        with_reducible assumption
      · apply Keeps.ite
        · with_reducible assumption
        · split
          · apply Keeps.ite
            · apply beginGate_keeps
              with_reducible assumption
            · with_reducible assumption
          · apply KeepsOpt.getD
            · apply endHold_keeps
              with_reducible assumption
            · with_reducible assumption

theorem execGateEvaluate_keeps {s0 : State} : ∀ x0 x1 s3, Keeps s0 s3 → KeepsOut s0 (execGateEvaluate x0 x1 s3) := by
  intro x0 x1 s3 h0
  unfold execGateEvaluate
  apply fabric_keeps
  · with_reducible assumption
  · intro _ _
    apply Keeps.foldl
    · with_reducible assumption
    · intro _ _
      intro _
      apply evaluateRun_keeps
      with_reducible assumption

theorem execGateHoldExpire_keeps {s0 : State} : ∀ x0 s2, Keeps s0 s2 → KeepsOut s0 (execGateHoldExpire x0 s2) := by
  intro x0 s2 h0
  unfold execGateHoldExpire
  apply fabric_keeps
  · with_reducible assumption
  · intro _ _
    split
    · with_reducible assumption
    · split
      · extract_lets +onlyGivenNames v115
        clear_value v115
        apply Keeps.ite
        · apply KeepsOpt.getD
          · apply endHold_keeps
            with_reducible assumption
          · apply decideGate_keeps
            with_reducible assumption
        · with_reducible assumption
      · with_reducible assumption

theorem execSemPoll_keeps {s0 : State} : ∀ x0 x1 s3, Keeps s0 s3 → KeepsOut s0 (execSemPoll x0 x1 s3) := by
  intro x0 x1 s3 h0
  unfold execSemPoll
  apply fabric_keeps
  · with_reducible assumption
  · intro _ _
    split
    · with_reducible assumption
    · split
      split
      · split
        · apply dropWaits_keeps
          refine Keeps.of_fst (by assumption) ?_
          apply pollAmong_keeps
          with_reducible assumption
        · split
          · apply dropWaits_keeps
            refine Keeps.of_fst (by assumption) ?_
            apply pollAmong_keeps
            with_reducible assumption
          · split
            · apply enqueueGate_keeps
              apply dropWaits_keeps
              refine Keeps.of_fst (by assumption) ?_
              apply pollAmong_keeps
              with_reducible assumption
            · apply Keeps.ite
              · apply decideGate_keeps
                apply dropWaits_keeps
                refine Keeps.of_fst (by assumption) ?_
                apply pollAmong_keeps
                with_reducible assumption
              · apply decideGate_keeps
                apply dropWaits_keeps
                refine Keeps.of_fst (by assumption) ?_
                apply pollAmong_keeps
                with_reducible assumption
            · apply Keeps.ite
              · apply decideGate_keeps
                apply dropWaits_keeps
                refine Keeps.of_fst (by assumption) ?_
                apply pollAmong_keeps
                with_reducible assumption
              · refine Keeps.of_fst (by assumption) ?_
                apply pollAmong_keeps
                with_reducible assumption
      · split
        · apply endWait_keeps
          refine Keeps.of_fst (by assumption) ?_
          apply pollAmong_keeps
          with_reducible assumption
        · refine Keeps.of_fst (by assumption) ?_
          apply pollAmong_keeps
          with_reducible assumption

theorem refuseWork_keeps {s0 : State} : ∀ s1 x1, Keeps s0 s1 → Keeps s0 (refuseWork s1 x1) := by
  intro s1 x1 h0
  unfold refuseWork
  split
  · split
    · assumption
    · split
      · assumption
      · split
        apply runCheck_keeps
        refine Keeps.of_fst (by assumption) ?_
        apply endGate_keeps
        assumption
  · apply finish_keeps
    assumption
  · apply sgErr_keeps
    assumption
  · apply finish_keeps
    assumption
  · assumption

theorem markRunning_keeps {s0 : State} : ∀ s1 x1, Keeps s0 s1 → Keeps s0 (markRunning s1 x1) := by
  intro s1 x1 h0
  unfold markRunning
  split
  · split
    · apply setRun_keeps
      assumption
    · assumption
  · assumption
  · assumption
  · assumption
  · assumption

theorem execGateEnd_keeps {s0 : State} : ∀ x0 x1 s3, Keeps s0 s3 → KeepsOut s0 (execGateEnd x0 x1 s3) := by
  intro x0 x1 s3 h0
  unfold execGateEnd
  apply fabric_keeps
  · assumption
  · intro _ _
    split
    · assumption
    · extract_lets +onlyGivenNames v116
      clear_value v116
      extract_lets +onlyGivenNames v115
      have kv115 : Keeps s0 v115 := by
        subst v115
        refine Keeps.mk_same ?_ rfl rfl rfl rfl rfl rfl rfl rfl rfl rfl rfl rfl rfl
        assumption
      clear_value v115
      split
      · assumption
      · split
        · assumption
        · split
          apply runCheck_keeps
          refine Keeps.of_fst (by assumption) ?_
          apply endGate_keeps
          assumption

theorem abortGate_keeps {s0 : State} : ∀ s1 x1 x2 x3, Keeps s0 s1 → Keeps s0 (abortGate s1 x1 x2 x3).1 := by
  intro s1 x1 x2 x3 h0
  unfold abortGate
  extract_lets +onlyGivenNames v120
  clear_value v120
  extract_lets +onlyGivenNames v119
  clear_value v119
  extract_lets +onlyGivenNames v118
  clear_value v118
  split
  · with_reducible assumption
  · apply endGate_keeps
    with_reducible assumption
  · apply endGate_keeps
    with_reducible assumption
  · apply endGate_keeps
    with_reducible assumption
  · apply endGate_keeps
    apply dropWaits_keeps
    with_reducible assumption
  · apply endGate_keeps
    apply setQueue_keeps
    with_reducible assumption
  · split
    · with_reducible assumption
    · dsimp only
      refine Keeps.mk_same ?_ rfl rfl rfl rfl rfl rfl rfl rfl rfl rfl rfl rfl rfl
      with_reducible assumption

theorem abortGates_keeps {s0 : State} : ∀ x0 x1 x2 s4 x4, Keeps s0 s4 → Keeps s0 (abortGates x0 x1 x2 s4 x4).1 := by
  intro x0 x1 x2 s4 x4 h0
  fun_induction abortGates x0 x1 x2 s4 x4
  · with_reducible assumption
  · apply_assumption
    refine Keeps.of_fst (by assumption) ?_
    apply abortGate_keeps
    with_reducible assumption

theorem abortRun_keeps {s0 : State} : ∀ s1 x1 x2, Keeps s0 s1 → Keeps s0 (abortRun s1 x1 x2) := by
  intro s1 x1 x2 h0
  unfold abortRun
  apply Keeps.ite
  · assumption
  · split
    apply runCheck_keeps
    refine Keeps.of_fst (by assumption) ?_
    apply abortGates_keeps
    assumption

theorem abortGraph_keeps {s0 : State} : ∀ s1 x1, Keeps s0 s1 → Keeps s0 (abortGraph s1 x1).1 := by
  intro s1 x1 h0
  unfold abortGraph
  split
  · assumption
  · dsimp only
    apply Keeps.foldl
    · assumption
    · intro _ _
      intro _
      apply abortRun_keeps
      assumption

theorem execFgsAbort_keeps {s0 : State} : ∀ x0 s2, Keeps s0 s2 → KeepsOut s0 (execFgsAbort x0 s2) := by
  intro x0 s2 h0
  unfold execFgsAbort
  apply fabric_keeps
  · assumption
  · intro _ _
    apply Keeps.ite
    · assumption
    · apply Keeps.ite
      · apply fgsErr_keeps
        assumption
      · apply abortGraph_keeps
        assumption

end Sys2Proof.Machine
end

