-- ==== Sys2Proof/Laws/State.lean ====
section
/-! SUPPORT. One lemma per field for each update of the register file: what it leaves alone, and what a register holds after. -/

namespace Sys2Proof.Machine

/-- Two states with equal fields are equal. -/
theorem State.ext_fields {s t : State} (e0 : s.pending = t.pending) (e1 : s.up = t.up) (e2 : s.straps = t.straps) (e3 : s.gradeX = t.gradeX) (e4 : s.regs = t.regs) (e5 : s.cap = t.cap) (e6 : s.capFrac = t.capFrac) (e7 : s.rdata = t.rdata) (e8 : s.mem = t.mem) (e9 : s.poison = t.poison) (e10 : s.flips = t.flips) (e11 : s.edc = t.edc) (e12 : s.heldWrites = t.heldWrites) (e13 : s.msixSent = t.msixSent) (e14 : s.evtNext = t.evtNext) (e15 : s.bbxQueue = t.bbxQueue) (e16 : s.gated = t.gated) (e17 : s.fresh = t.fresh) (e18 : s.dt = t.dt) (e19 : s.ptp = t.ptp) (e20 : s.sg = t.sg) (e21 : s.sem = t.sem) (e22 : s.evc = t.evc) (e23 : s.ing = t.ing) (e24 : s.ifc = t.ifc) (e25 : s.vis = t.vis) (e26 : s.fgs = t.fgs) (e27 : s.pwr = t.pwr) (e28 : s.hif = t.hif) (e29 : s.tiles = t.tiles) (e30 : s.memx = t.memx) (e31 : s.tfu = t.tfu) (e32 : s.lse = t.lse) (e33 : s.mst = t.mst) (e34 : s.prs = t.prs) (e35 : s.safe = t.safe) (e36 : s.bbx = t.bbx) (e37 : s.aon = t.aon) (e38 : s.sec = t.sec) : s = t := by
  cases s; cases t; simp_all

variable (s : State)

/-! ### wr -/

@[simp] theorem wr_pending (a : Nat) (v : Word) : (wr s a v).pending = s.pending := rfl
@[simp] theorem wr_up (a : Nat) (v : Word) : (wr s a v).up = s.up := rfl
@[simp] theorem wr_straps (a : Nat) (v : Word) : (wr s a v).straps = s.straps := rfl
@[simp] theorem wr_gradeX (a : Nat) (v : Word) : (wr s a v).gradeX = s.gradeX := rfl
@[simp] theorem wr_cap (a : Nat) (v : Word) : (wr s a v).cap = s.cap := rfl
@[simp] theorem wr_capFrac (a : Nat) (v : Word) : (wr s a v).capFrac = s.capFrac := rfl
@[simp] theorem wr_rdata (a : Nat) (v : Word) : (wr s a v).rdata = s.rdata := rfl
@[simp] theorem wr_mem (a : Nat) (v : Word) : (wr s a v).mem = s.mem := rfl
@[simp] theorem wr_poison (a : Nat) (v : Word) : (wr s a v).poison = s.poison := rfl
@[simp] theorem wr_flips (a : Nat) (v : Word) : (wr s a v).flips = s.flips := rfl
@[simp] theorem wr_edc (a : Nat) (v : Word) : (wr s a v).edc = s.edc := rfl
@[simp] theorem wr_heldWrites (a : Nat) (v : Word) : (wr s a v).heldWrites = s.heldWrites := rfl
@[simp] theorem wr_msixSent (a : Nat) (v : Word) : (wr s a v).msixSent = s.msixSent := rfl
@[simp] theorem wr_evtNext (a : Nat) (v : Word) : (wr s a v).evtNext = s.evtNext := rfl
@[simp] theorem wr_bbxQueue (a : Nat) (v : Word) : (wr s a v).bbxQueue = s.bbxQueue := rfl
@[simp] theorem wr_gated (a : Nat) (v : Word) : (wr s a v).gated = s.gated := rfl
@[simp] theorem wr_fresh (a : Nat) (v : Word) : (wr s a v).fresh = s.fresh := rfl
@[simp] theorem wr_dt (a : Nat) (v : Word) : (wr s a v).dt = s.dt := rfl
@[simp] theorem wr_ptp (a : Nat) (v : Word) : (wr s a v).ptp = s.ptp := rfl
@[simp] theorem wr_sg (a : Nat) (v : Word) : (wr s a v).sg = s.sg := rfl
@[simp] theorem wr_sem (a : Nat) (v : Word) : (wr s a v).sem = s.sem := rfl
@[simp] theorem wr_evc (a : Nat) (v : Word) : (wr s a v).evc = s.evc := rfl
@[simp] theorem wr_ing (a : Nat) (v : Word) : (wr s a v).ing = s.ing := rfl
@[simp] theorem wr_ifc (a : Nat) (v : Word) : (wr s a v).ifc = s.ifc := rfl
@[simp] theorem wr_vis (a : Nat) (v : Word) : (wr s a v).vis = s.vis := rfl
@[simp] theorem wr_fgs (a : Nat) (v : Word) : (wr s a v).fgs = s.fgs := rfl
@[simp] theorem wr_pwr (a : Nat) (v : Word) : (wr s a v).pwr = s.pwr := rfl
@[simp] theorem wr_hif (a : Nat) (v : Word) : (wr s a v).hif = s.hif := rfl
@[simp] theorem wr_tiles (a : Nat) (v : Word) : (wr s a v).tiles = s.tiles := rfl
@[simp] theorem wr_memx (a : Nat) (v : Word) : (wr s a v).memx = s.memx := rfl
@[simp] theorem wr_tfu (a : Nat) (v : Word) : (wr s a v).tfu = s.tfu := rfl
@[simp] theorem wr_lse (a : Nat) (v : Word) : (wr s a v).lse = s.lse := rfl
@[simp] theorem wr_mst (a : Nat) (v : Word) : (wr s a v).mst = s.mst := rfl
@[simp] theorem wr_prs (a : Nat) (v : Word) : (wr s a v).prs = s.prs := rfl
@[simp] theorem wr_safe (a : Nat) (v : Word) : (wr s a v).safe = s.safe := rfl
@[simp] theorem wr_bbx (a : Nat) (v : Word) : (wr s a v).bbx = s.bbx := rfl
@[simp] theorem wr_aon (a : Nat) (v : Word) : (wr s a v).aon = s.aon := rfl
@[simp] theorem wr_sec (a : Nat) (v : Word) : (wr s a v).sec = s.sec := rfl
theorem wr_frame (a : Nat) (v : Word) : wr s a v = { s with regs := (wr s a v).regs } := rfl

/-! ### setBits -/

@[simp] theorem setBits_pending (a : Nat) (m : Word) : (setBits s a m).pending = s.pending := rfl
@[simp] theorem setBits_up (a : Nat) (m : Word) : (setBits s a m).up = s.up := rfl
@[simp] theorem setBits_straps (a : Nat) (m : Word) : (setBits s a m).straps = s.straps := rfl
@[simp] theorem setBits_gradeX (a : Nat) (m : Word) : (setBits s a m).gradeX = s.gradeX := rfl
@[simp] theorem setBits_cap (a : Nat) (m : Word) : (setBits s a m).cap = s.cap := rfl
@[simp] theorem setBits_capFrac (a : Nat) (m : Word) : (setBits s a m).capFrac = s.capFrac := rfl
@[simp] theorem setBits_rdata (a : Nat) (m : Word) : (setBits s a m).rdata = s.rdata := rfl
@[simp] theorem setBits_mem (a : Nat) (m : Word) : (setBits s a m).mem = s.mem := rfl
@[simp] theorem setBits_poison (a : Nat) (m : Word) : (setBits s a m).poison = s.poison := rfl
@[simp] theorem setBits_flips (a : Nat) (m : Word) : (setBits s a m).flips = s.flips := rfl
@[simp] theorem setBits_edc (a : Nat) (m : Word) : (setBits s a m).edc = s.edc := rfl
@[simp] theorem setBits_heldWrites (a : Nat) (m : Word) : (setBits s a m).heldWrites = s.heldWrites := rfl
@[simp] theorem setBits_msixSent (a : Nat) (m : Word) : (setBits s a m).msixSent = s.msixSent := rfl
@[simp] theorem setBits_evtNext (a : Nat) (m : Word) : (setBits s a m).evtNext = s.evtNext := rfl
@[simp] theorem setBits_bbxQueue (a : Nat) (m : Word) : (setBits s a m).bbxQueue = s.bbxQueue := rfl
@[simp] theorem setBits_gated (a : Nat) (m : Word) : (setBits s a m).gated = s.gated := rfl
@[simp] theorem setBits_fresh (a : Nat) (m : Word) : (setBits s a m).fresh = s.fresh := rfl
@[simp] theorem setBits_dt (a : Nat) (m : Word) : (setBits s a m).dt = s.dt := rfl
@[simp] theorem setBits_ptp (a : Nat) (m : Word) : (setBits s a m).ptp = s.ptp := rfl
@[simp] theorem setBits_sg (a : Nat) (m : Word) : (setBits s a m).sg = s.sg := rfl
@[simp] theorem setBits_sem (a : Nat) (m : Word) : (setBits s a m).sem = s.sem := rfl
@[simp] theorem setBits_evc (a : Nat) (m : Word) : (setBits s a m).evc = s.evc := rfl
@[simp] theorem setBits_ing (a : Nat) (m : Word) : (setBits s a m).ing = s.ing := rfl
@[simp] theorem setBits_ifc (a : Nat) (m : Word) : (setBits s a m).ifc = s.ifc := rfl
@[simp] theorem setBits_vis (a : Nat) (m : Word) : (setBits s a m).vis = s.vis := rfl
@[simp] theorem setBits_fgs (a : Nat) (m : Word) : (setBits s a m).fgs = s.fgs := rfl
@[simp] theorem setBits_pwr (a : Nat) (m : Word) : (setBits s a m).pwr = s.pwr := rfl
@[simp] theorem setBits_hif (a : Nat) (m : Word) : (setBits s a m).hif = s.hif := rfl
@[simp] theorem setBits_tiles (a : Nat) (m : Word) : (setBits s a m).tiles = s.tiles := rfl
@[simp] theorem setBits_memx (a : Nat) (m : Word) : (setBits s a m).memx = s.memx := rfl
@[simp] theorem setBits_tfu (a : Nat) (m : Word) : (setBits s a m).tfu = s.tfu := rfl
@[simp] theorem setBits_lse (a : Nat) (m : Word) : (setBits s a m).lse = s.lse := rfl
@[simp] theorem setBits_mst (a : Nat) (m : Word) : (setBits s a m).mst = s.mst := rfl
@[simp] theorem setBits_prs (a : Nat) (m : Word) : (setBits s a m).prs = s.prs := rfl
@[simp] theorem setBits_safe (a : Nat) (m : Word) : (setBits s a m).safe = s.safe := rfl
@[simp] theorem setBits_bbx (a : Nat) (m : Word) : (setBits s a m).bbx = s.bbx := rfl
@[simp] theorem setBits_aon (a : Nat) (m : Word) : (setBits s a m).aon = s.aon := rfl
@[simp] theorem setBits_sec (a : Nat) (m : Word) : (setBits s a m).sec = s.sec := rfl
theorem setBits_frame (a : Nat) (m : Word) : setBits s a m = { s with regs := (setBits s a m).regs } := rfl

/-! ### clrBits -/

@[simp] theorem clrBits_pending (a : Nat) (m : Word) : (clrBits s a m).pending = s.pending := rfl
@[simp] theorem clrBits_up (a : Nat) (m : Word) : (clrBits s a m).up = s.up := rfl
@[simp] theorem clrBits_straps (a : Nat) (m : Word) : (clrBits s a m).straps = s.straps := rfl
@[simp] theorem clrBits_gradeX (a : Nat) (m : Word) : (clrBits s a m).gradeX = s.gradeX := rfl
@[simp] theorem clrBits_cap (a : Nat) (m : Word) : (clrBits s a m).cap = s.cap := rfl
@[simp] theorem clrBits_capFrac (a : Nat) (m : Word) : (clrBits s a m).capFrac = s.capFrac := rfl
@[simp] theorem clrBits_rdata (a : Nat) (m : Word) : (clrBits s a m).rdata = s.rdata := rfl
@[simp] theorem clrBits_mem (a : Nat) (m : Word) : (clrBits s a m).mem = s.mem := rfl
@[simp] theorem clrBits_poison (a : Nat) (m : Word) : (clrBits s a m).poison = s.poison := rfl
@[simp] theorem clrBits_flips (a : Nat) (m : Word) : (clrBits s a m).flips = s.flips := rfl
@[simp] theorem clrBits_edc (a : Nat) (m : Word) : (clrBits s a m).edc = s.edc := rfl
@[simp] theorem clrBits_heldWrites (a : Nat) (m : Word) : (clrBits s a m).heldWrites = s.heldWrites := rfl
@[simp] theorem clrBits_msixSent (a : Nat) (m : Word) : (clrBits s a m).msixSent = s.msixSent := rfl
@[simp] theorem clrBits_evtNext (a : Nat) (m : Word) : (clrBits s a m).evtNext = s.evtNext := rfl
@[simp] theorem clrBits_bbxQueue (a : Nat) (m : Word) : (clrBits s a m).bbxQueue = s.bbxQueue := rfl
@[simp] theorem clrBits_gated (a : Nat) (m : Word) : (clrBits s a m).gated = s.gated := rfl
@[simp] theorem clrBits_fresh (a : Nat) (m : Word) : (clrBits s a m).fresh = s.fresh := rfl
@[simp] theorem clrBits_dt (a : Nat) (m : Word) : (clrBits s a m).dt = s.dt := rfl
@[simp] theorem clrBits_ptp (a : Nat) (m : Word) : (clrBits s a m).ptp = s.ptp := rfl
@[simp] theorem clrBits_sg (a : Nat) (m : Word) : (clrBits s a m).sg = s.sg := rfl
@[simp] theorem clrBits_sem (a : Nat) (m : Word) : (clrBits s a m).sem = s.sem := rfl
@[simp] theorem clrBits_evc (a : Nat) (m : Word) : (clrBits s a m).evc = s.evc := rfl
@[simp] theorem clrBits_ing (a : Nat) (m : Word) : (clrBits s a m).ing = s.ing := rfl
@[simp] theorem clrBits_ifc (a : Nat) (m : Word) : (clrBits s a m).ifc = s.ifc := rfl
@[simp] theorem clrBits_vis (a : Nat) (m : Word) : (clrBits s a m).vis = s.vis := rfl
@[simp] theorem clrBits_fgs (a : Nat) (m : Word) : (clrBits s a m).fgs = s.fgs := rfl
@[simp] theorem clrBits_pwr (a : Nat) (m : Word) : (clrBits s a m).pwr = s.pwr := rfl
@[simp] theorem clrBits_hif (a : Nat) (m : Word) : (clrBits s a m).hif = s.hif := rfl
@[simp] theorem clrBits_tiles (a : Nat) (m : Word) : (clrBits s a m).tiles = s.tiles := rfl
@[simp] theorem clrBits_memx (a : Nat) (m : Word) : (clrBits s a m).memx = s.memx := rfl
@[simp] theorem clrBits_tfu (a : Nat) (m : Word) : (clrBits s a m).tfu = s.tfu := rfl
@[simp] theorem clrBits_lse (a : Nat) (m : Word) : (clrBits s a m).lse = s.lse := rfl
@[simp] theorem clrBits_mst (a : Nat) (m : Word) : (clrBits s a m).mst = s.mst := rfl
@[simp] theorem clrBits_prs (a : Nat) (m : Word) : (clrBits s a m).prs = s.prs := rfl
@[simp] theorem clrBits_safe (a : Nat) (m : Word) : (clrBits s a m).safe = s.safe := rfl
@[simp] theorem clrBits_bbx (a : Nat) (m : Word) : (clrBits s a m).bbx = s.bbx := rfl
@[simp] theorem clrBits_aon (a : Nat) (m : Word) : (clrBits s a m).aon = s.aon := rfl
@[simp] theorem clrBits_sec (a : Nat) (m : Word) : (clrBits s a m).sec = s.sec := rfl
theorem clrBits_frame (a : Nat) (m : Word) : clrBits s a m = { s with regs := (clrBits s a m).regs } := rfl

/-! ### bump -/

@[simp] theorem bump_pending (a : Nat) : (bump s a).pending = s.pending := rfl
@[simp] theorem bump_up (a : Nat) : (bump s a).up = s.up := rfl
@[simp] theorem bump_straps (a : Nat) : (bump s a).straps = s.straps := rfl
@[simp] theorem bump_gradeX (a : Nat) : (bump s a).gradeX = s.gradeX := rfl
@[simp] theorem bump_cap (a : Nat) : (bump s a).cap = s.cap := rfl
@[simp] theorem bump_capFrac (a : Nat) : (bump s a).capFrac = s.capFrac := rfl
@[simp] theorem bump_rdata (a : Nat) : (bump s a).rdata = s.rdata := rfl
@[simp] theorem bump_mem (a : Nat) : (bump s a).mem = s.mem := rfl
@[simp] theorem bump_poison (a : Nat) : (bump s a).poison = s.poison := rfl
@[simp] theorem bump_flips (a : Nat) : (bump s a).flips = s.flips := rfl
@[simp] theorem bump_edc (a : Nat) : (bump s a).edc = s.edc := rfl
@[simp] theorem bump_heldWrites (a : Nat) : (bump s a).heldWrites = s.heldWrites := rfl
@[simp] theorem bump_msixSent (a : Nat) : (bump s a).msixSent = s.msixSent := rfl
@[simp] theorem bump_evtNext (a : Nat) : (bump s a).evtNext = s.evtNext := rfl
@[simp] theorem bump_bbxQueue (a : Nat) : (bump s a).bbxQueue = s.bbxQueue := rfl
@[simp] theorem bump_gated (a : Nat) : (bump s a).gated = s.gated := rfl
@[simp] theorem bump_fresh (a : Nat) : (bump s a).fresh = s.fresh := rfl
@[simp] theorem bump_dt (a : Nat) : (bump s a).dt = s.dt := rfl
@[simp] theorem bump_ptp (a : Nat) : (bump s a).ptp = s.ptp := rfl
@[simp] theorem bump_sg (a : Nat) : (bump s a).sg = s.sg := rfl
@[simp] theorem bump_sem (a : Nat) : (bump s a).sem = s.sem := rfl
@[simp] theorem bump_evc (a : Nat) : (bump s a).evc = s.evc := rfl
@[simp] theorem bump_ing (a : Nat) : (bump s a).ing = s.ing := rfl
@[simp] theorem bump_ifc (a : Nat) : (bump s a).ifc = s.ifc := rfl
@[simp] theorem bump_vis (a : Nat) : (bump s a).vis = s.vis := rfl
@[simp] theorem bump_fgs (a : Nat) : (bump s a).fgs = s.fgs := rfl
@[simp] theorem bump_pwr (a : Nat) : (bump s a).pwr = s.pwr := rfl
@[simp] theorem bump_hif (a : Nat) : (bump s a).hif = s.hif := rfl
@[simp] theorem bump_tiles (a : Nat) : (bump s a).tiles = s.tiles := rfl
@[simp] theorem bump_memx (a : Nat) : (bump s a).memx = s.memx := rfl
@[simp] theorem bump_tfu (a : Nat) : (bump s a).tfu = s.tfu := rfl
@[simp] theorem bump_lse (a : Nat) : (bump s a).lse = s.lse := rfl
@[simp] theorem bump_mst (a : Nat) : (bump s a).mst = s.mst := rfl
@[simp] theorem bump_prs (a : Nat) : (bump s a).prs = s.prs := rfl
@[simp] theorem bump_safe (a : Nat) : (bump s a).safe = s.safe := rfl
@[simp] theorem bump_bbx (a : Nat) : (bump s a).bbx = s.bbx := rfl
@[simp] theorem bump_aon (a : Nat) : (bump s a).aon = s.aon := rfl
@[simp] theorem bump_sec (a : Nat) : (bump s a).sec = s.sec := rfl
theorem bump_frame (a : Nat) : bump s a = { s with regs := (bump s a).regs } := rfl

/-! ### bumpWrap -/

@[simp] theorem bumpWrap_pending (a : Nat) : (bumpWrap s a).pending = s.pending := rfl
@[simp] theorem bumpWrap_up (a : Nat) : (bumpWrap s a).up = s.up := rfl
@[simp] theorem bumpWrap_straps (a : Nat) : (bumpWrap s a).straps = s.straps := rfl
@[simp] theorem bumpWrap_gradeX (a : Nat) : (bumpWrap s a).gradeX = s.gradeX := rfl
@[simp] theorem bumpWrap_cap (a : Nat) : (bumpWrap s a).cap = s.cap := rfl
@[simp] theorem bumpWrap_capFrac (a : Nat) : (bumpWrap s a).capFrac = s.capFrac := rfl
@[simp] theorem bumpWrap_rdata (a : Nat) : (bumpWrap s a).rdata = s.rdata := rfl
@[simp] theorem bumpWrap_mem (a : Nat) : (bumpWrap s a).mem = s.mem := rfl
@[simp] theorem bumpWrap_poison (a : Nat) : (bumpWrap s a).poison = s.poison := rfl
@[simp] theorem bumpWrap_flips (a : Nat) : (bumpWrap s a).flips = s.flips := rfl
@[simp] theorem bumpWrap_edc (a : Nat) : (bumpWrap s a).edc = s.edc := rfl
@[simp] theorem bumpWrap_heldWrites (a : Nat) : (bumpWrap s a).heldWrites = s.heldWrites := rfl
@[simp] theorem bumpWrap_msixSent (a : Nat) : (bumpWrap s a).msixSent = s.msixSent := rfl
@[simp] theorem bumpWrap_evtNext (a : Nat) : (bumpWrap s a).evtNext = s.evtNext := rfl
@[simp] theorem bumpWrap_bbxQueue (a : Nat) : (bumpWrap s a).bbxQueue = s.bbxQueue := rfl
@[simp] theorem bumpWrap_gated (a : Nat) : (bumpWrap s a).gated = s.gated := rfl
@[simp] theorem bumpWrap_fresh (a : Nat) : (bumpWrap s a).fresh = s.fresh := rfl
@[simp] theorem bumpWrap_dt (a : Nat) : (bumpWrap s a).dt = s.dt := rfl
@[simp] theorem bumpWrap_ptp (a : Nat) : (bumpWrap s a).ptp = s.ptp := rfl
@[simp] theorem bumpWrap_sg (a : Nat) : (bumpWrap s a).sg = s.sg := rfl
@[simp] theorem bumpWrap_sem (a : Nat) : (bumpWrap s a).sem = s.sem := rfl
@[simp] theorem bumpWrap_evc (a : Nat) : (bumpWrap s a).evc = s.evc := rfl
@[simp] theorem bumpWrap_ing (a : Nat) : (bumpWrap s a).ing = s.ing := rfl
@[simp] theorem bumpWrap_ifc (a : Nat) : (bumpWrap s a).ifc = s.ifc := rfl
@[simp] theorem bumpWrap_vis (a : Nat) : (bumpWrap s a).vis = s.vis := rfl
@[simp] theorem bumpWrap_fgs (a : Nat) : (bumpWrap s a).fgs = s.fgs := rfl
@[simp] theorem bumpWrap_pwr (a : Nat) : (bumpWrap s a).pwr = s.pwr := rfl
@[simp] theorem bumpWrap_hif (a : Nat) : (bumpWrap s a).hif = s.hif := rfl
@[simp] theorem bumpWrap_tiles (a : Nat) : (bumpWrap s a).tiles = s.tiles := rfl
@[simp] theorem bumpWrap_memx (a : Nat) : (bumpWrap s a).memx = s.memx := rfl
@[simp] theorem bumpWrap_tfu (a : Nat) : (bumpWrap s a).tfu = s.tfu := rfl
@[simp] theorem bumpWrap_lse (a : Nat) : (bumpWrap s a).lse = s.lse := rfl
@[simp] theorem bumpWrap_mst (a : Nat) : (bumpWrap s a).mst = s.mst := rfl
@[simp] theorem bumpWrap_prs (a : Nat) : (bumpWrap s a).prs = s.prs := rfl
@[simp] theorem bumpWrap_safe (a : Nat) : (bumpWrap s a).safe = s.safe := rfl
@[simp] theorem bumpWrap_bbx (a : Nat) : (bumpWrap s a).bbx = s.bbx := rfl
@[simp] theorem bumpWrap_aon (a : Nat) : (bumpWrap s a).aon = s.aon := rfl
@[simp] theorem bumpWrap_sec (a : Nat) : (bumpWrap s a).sec = s.sec := rfl
theorem bumpWrap_frame (a : Nat) : bumpWrap s a = { s with regs := (bumpWrap s a).regs } := rfl

/-! ### bumpN -/

@[simp] theorem bumpN_pending (a n : Nat) : (bumpN s a n).pending = s.pending := rfl
@[simp] theorem bumpN_up (a n : Nat) : (bumpN s a n).up = s.up := rfl
@[simp] theorem bumpN_straps (a n : Nat) : (bumpN s a n).straps = s.straps := rfl
@[simp] theorem bumpN_gradeX (a n : Nat) : (bumpN s a n).gradeX = s.gradeX := rfl
@[simp] theorem bumpN_cap (a n : Nat) : (bumpN s a n).cap = s.cap := rfl
@[simp] theorem bumpN_capFrac (a n : Nat) : (bumpN s a n).capFrac = s.capFrac := rfl
@[simp] theorem bumpN_rdata (a n : Nat) : (bumpN s a n).rdata = s.rdata := rfl
@[simp] theorem bumpN_mem (a n : Nat) : (bumpN s a n).mem = s.mem := rfl
@[simp] theorem bumpN_poison (a n : Nat) : (bumpN s a n).poison = s.poison := rfl
@[simp] theorem bumpN_flips (a n : Nat) : (bumpN s a n).flips = s.flips := rfl
@[simp] theorem bumpN_edc (a n : Nat) : (bumpN s a n).edc = s.edc := rfl
@[simp] theorem bumpN_heldWrites (a n : Nat) : (bumpN s a n).heldWrites = s.heldWrites := rfl
@[simp] theorem bumpN_msixSent (a n : Nat) : (bumpN s a n).msixSent = s.msixSent := rfl
@[simp] theorem bumpN_evtNext (a n : Nat) : (bumpN s a n).evtNext = s.evtNext := rfl
@[simp] theorem bumpN_bbxQueue (a n : Nat) : (bumpN s a n).bbxQueue = s.bbxQueue := rfl
@[simp] theorem bumpN_gated (a n : Nat) : (bumpN s a n).gated = s.gated := rfl
@[simp] theorem bumpN_fresh (a n : Nat) : (bumpN s a n).fresh = s.fresh := rfl
@[simp] theorem bumpN_dt (a n : Nat) : (bumpN s a n).dt = s.dt := rfl
@[simp] theorem bumpN_ptp (a n : Nat) : (bumpN s a n).ptp = s.ptp := rfl
@[simp] theorem bumpN_sg (a n : Nat) : (bumpN s a n).sg = s.sg := rfl
@[simp] theorem bumpN_sem (a n : Nat) : (bumpN s a n).sem = s.sem := rfl
@[simp] theorem bumpN_evc (a n : Nat) : (bumpN s a n).evc = s.evc := rfl
@[simp] theorem bumpN_ing (a n : Nat) : (bumpN s a n).ing = s.ing := rfl
@[simp] theorem bumpN_ifc (a n : Nat) : (bumpN s a n).ifc = s.ifc := rfl
@[simp] theorem bumpN_vis (a n : Nat) : (bumpN s a n).vis = s.vis := rfl
@[simp] theorem bumpN_fgs (a n : Nat) : (bumpN s a n).fgs = s.fgs := rfl
@[simp] theorem bumpN_pwr (a n : Nat) : (bumpN s a n).pwr = s.pwr := rfl
@[simp] theorem bumpN_hif (a n : Nat) : (bumpN s a n).hif = s.hif := rfl
@[simp] theorem bumpN_tiles (a n : Nat) : (bumpN s a n).tiles = s.tiles := rfl
@[simp] theorem bumpN_memx (a n : Nat) : (bumpN s a n).memx = s.memx := rfl
@[simp] theorem bumpN_tfu (a n : Nat) : (bumpN s a n).tfu = s.tfu := rfl
@[simp] theorem bumpN_lse (a n : Nat) : (bumpN s a n).lse = s.lse := rfl
@[simp] theorem bumpN_mst (a n : Nat) : (bumpN s a n).mst = s.mst := rfl
@[simp] theorem bumpN_prs (a n : Nat) : (bumpN s a n).prs = s.prs := rfl
@[simp] theorem bumpN_safe (a n : Nat) : (bumpN s a n).safe = s.safe := rfl
@[simp] theorem bumpN_bbx (a n : Nat) : (bumpN s a n).bbx = s.bbx := rfl
@[simp] theorem bumpN_aon (a n : Nat) : (bumpN s a n).aon = s.aon := rfl
@[simp] theorem bumpN_sec (a n : Nat) : (bumpN s a n).sec = s.sec := rfl
theorem bumpN_frame (a n : Nat) : bumpN s a n = { s with regs := (bumpN s a n).regs } := rfl

/-! ### bumpWrapN -/

@[simp] theorem bumpWrapN_pending (a n : Nat) : (bumpWrapN s a n).pending = s.pending := rfl
@[simp] theorem bumpWrapN_up (a n : Nat) : (bumpWrapN s a n).up = s.up := rfl
@[simp] theorem bumpWrapN_straps (a n : Nat) : (bumpWrapN s a n).straps = s.straps := rfl
@[simp] theorem bumpWrapN_gradeX (a n : Nat) : (bumpWrapN s a n).gradeX = s.gradeX := rfl
@[simp] theorem bumpWrapN_cap (a n : Nat) : (bumpWrapN s a n).cap = s.cap := rfl
@[simp] theorem bumpWrapN_capFrac (a n : Nat) : (bumpWrapN s a n).capFrac = s.capFrac := rfl
@[simp] theorem bumpWrapN_rdata (a n : Nat) : (bumpWrapN s a n).rdata = s.rdata := rfl
@[simp] theorem bumpWrapN_mem (a n : Nat) : (bumpWrapN s a n).mem = s.mem := rfl
@[simp] theorem bumpWrapN_poison (a n : Nat) : (bumpWrapN s a n).poison = s.poison := rfl
@[simp] theorem bumpWrapN_flips (a n : Nat) : (bumpWrapN s a n).flips = s.flips := rfl
@[simp] theorem bumpWrapN_edc (a n : Nat) : (bumpWrapN s a n).edc = s.edc := rfl
@[simp] theorem bumpWrapN_heldWrites (a n : Nat) : (bumpWrapN s a n).heldWrites = s.heldWrites := rfl
@[simp] theorem bumpWrapN_msixSent (a n : Nat) : (bumpWrapN s a n).msixSent = s.msixSent := rfl
@[simp] theorem bumpWrapN_evtNext (a n : Nat) : (bumpWrapN s a n).evtNext = s.evtNext := rfl
@[simp] theorem bumpWrapN_bbxQueue (a n : Nat) : (bumpWrapN s a n).bbxQueue = s.bbxQueue := rfl
@[simp] theorem bumpWrapN_gated (a n : Nat) : (bumpWrapN s a n).gated = s.gated := rfl
@[simp] theorem bumpWrapN_fresh (a n : Nat) : (bumpWrapN s a n).fresh = s.fresh := rfl
@[simp] theorem bumpWrapN_dt (a n : Nat) : (bumpWrapN s a n).dt = s.dt := rfl
@[simp] theorem bumpWrapN_ptp (a n : Nat) : (bumpWrapN s a n).ptp = s.ptp := rfl
@[simp] theorem bumpWrapN_sg (a n : Nat) : (bumpWrapN s a n).sg = s.sg := rfl
@[simp] theorem bumpWrapN_sem (a n : Nat) : (bumpWrapN s a n).sem = s.sem := rfl
@[simp] theorem bumpWrapN_evc (a n : Nat) : (bumpWrapN s a n).evc = s.evc := rfl
@[simp] theorem bumpWrapN_ing (a n : Nat) : (bumpWrapN s a n).ing = s.ing := rfl
@[simp] theorem bumpWrapN_ifc (a n : Nat) : (bumpWrapN s a n).ifc = s.ifc := rfl
@[simp] theorem bumpWrapN_vis (a n : Nat) : (bumpWrapN s a n).vis = s.vis := rfl
@[simp] theorem bumpWrapN_fgs (a n : Nat) : (bumpWrapN s a n).fgs = s.fgs := rfl
@[simp] theorem bumpWrapN_pwr (a n : Nat) : (bumpWrapN s a n).pwr = s.pwr := rfl
@[simp] theorem bumpWrapN_hif (a n : Nat) : (bumpWrapN s a n).hif = s.hif := rfl
@[simp] theorem bumpWrapN_tiles (a n : Nat) : (bumpWrapN s a n).tiles = s.tiles := rfl
@[simp] theorem bumpWrapN_memx (a n : Nat) : (bumpWrapN s a n).memx = s.memx := rfl
@[simp] theorem bumpWrapN_tfu (a n : Nat) : (bumpWrapN s a n).tfu = s.tfu := rfl
@[simp] theorem bumpWrapN_lse (a n : Nat) : (bumpWrapN s a n).lse = s.lse := rfl
@[simp] theorem bumpWrapN_mst (a n : Nat) : (bumpWrapN s a n).mst = s.mst := rfl
@[simp] theorem bumpWrapN_prs (a n : Nat) : (bumpWrapN s a n).prs = s.prs := rfl
@[simp] theorem bumpWrapN_safe (a n : Nat) : (bumpWrapN s a n).safe = s.safe := rfl
@[simp] theorem bumpWrapN_bbx (a n : Nat) : (bumpWrapN s a n).bbx = s.bbx := rfl
@[simp] theorem bumpWrapN_aon (a n : Nat) : (bumpWrapN s a n).aon = s.aon := rfl
@[simp] theorem bumpWrapN_sec (a n : Nat) : (bumpWrapN s a n).sec = s.sec := rfl
theorem bumpWrapN_frame (a n : Nat) : bumpWrapN s a n = { s with regs := (bumpWrapN s a n).regs } := rfl

/-! ### wf -/

@[simp] theorem wf_pending (a hi lo v : Nat) : (wf s a hi lo v).pending = s.pending := rfl
@[simp] theorem wf_up (a hi lo v : Nat) : (wf s a hi lo v).up = s.up := rfl
@[simp] theorem wf_straps (a hi lo v : Nat) : (wf s a hi lo v).straps = s.straps := rfl
@[simp] theorem wf_gradeX (a hi lo v : Nat) : (wf s a hi lo v).gradeX = s.gradeX := rfl
@[simp] theorem wf_cap (a hi lo v : Nat) : (wf s a hi lo v).cap = s.cap := rfl
@[simp] theorem wf_capFrac (a hi lo v : Nat) : (wf s a hi lo v).capFrac = s.capFrac := rfl
@[simp] theorem wf_rdata (a hi lo v : Nat) : (wf s a hi lo v).rdata = s.rdata := rfl
@[simp] theorem wf_mem (a hi lo v : Nat) : (wf s a hi lo v).mem = s.mem := rfl
@[simp] theorem wf_poison (a hi lo v : Nat) : (wf s a hi lo v).poison = s.poison := rfl
@[simp] theorem wf_flips (a hi lo v : Nat) : (wf s a hi lo v).flips = s.flips := rfl
@[simp] theorem wf_edc (a hi lo v : Nat) : (wf s a hi lo v).edc = s.edc := rfl
@[simp] theorem wf_heldWrites (a hi lo v : Nat) : (wf s a hi lo v).heldWrites = s.heldWrites := rfl
@[simp] theorem wf_msixSent (a hi lo v : Nat) : (wf s a hi lo v).msixSent = s.msixSent := rfl
@[simp] theorem wf_evtNext (a hi lo v : Nat) : (wf s a hi lo v).evtNext = s.evtNext := rfl
@[simp] theorem wf_bbxQueue (a hi lo v : Nat) : (wf s a hi lo v).bbxQueue = s.bbxQueue := rfl
@[simp] theorem wf_gated (a hi lo v : Nat) : (wf s a hi lo v).gated = s.gated := rfl
@[simp] theorem wf_fresh (a hi lo v : Nat) : (wf s a hi lo v).fresh = s.fresh := rfl
@[simp] theorem wf_dt (a hi lo v : Nat) : (wf s a hi lo v).dt = s.dt := rfl
@[simp] theorem wf_ptp (a hi lo v : Nat) : (wf s a hi lo v).ptp = s.ptp := rfl
@[simp] theorem wf_sg (a hi lo v : Nat) : (wf s a hi lo v).sg = s.sg := rfl
@[simp] theorem wf_sem (a hi lo v : Nat) : (wf s a hi lo v).sem = s.sem := rfl
@[simp] theorem wf_evc (a hi lo v : Nat) : (wf s a hi lo v).evc = s.evc := rfl
@[simp] theorem wf_ing (a hi lo v : Nat) : (wf s a hi lo v).ing = s.ing := rfl
@[simp] theorem wf_ifc (a hi lo v : Nat) : (wf s a hi lo v).ifc = s.ifc := rfl
@[simp] theorem wf_vis (a hi lo v : Nat) : (wf s a hi lo v).vis = s.vis := rfl
@[simp] theorem wf_fgs (a hi lo v : Nat) : (wf s a hi lo v).fgs = s.fgs := rfl
@[simp] theorem wf_pwr (a hi lo v : Nat) : (wf s a hi lo v).pwr = s.pwr := rfl
@[simp] theorem wf_hif (a hi lo v : Nat) : (wf s a hi lo v).hif = s.hif := rfl
@[simp] theorem wf_tiles (a hi lo v : Nat) : (wf s a hi lo v).tiles = s.tiles := rfl
@[simp] theorem wf_memx (a hi lo v : Nat) : (wf s a hi lo v).memx = s.memx := rfl
@[simp] theorem wf_tfu (a hi lo v : Nat) : (wf s a hi lo v).tfu = s.tfu := rfl
@[simp] theorem wf_lse (a hi lo v : Nat) : (wf s a hi lo v).lse = s.lse := rfl
@[simp] theorem wf_mst (a hi lo v : Nat) : (wf s a hi lo v).mst = s.mst := rfl
@[simp] theorem wf_prs (a hi lo v : Nat) : (wf s a hi lo v).prs = s.prs := rfl
@[simp] theorem wf_safe (a hi lo v : Nat) : (wf s a hi lo v).safe = s.safe := rfl
@[simp] theorem wf_bbx (a hi lo v : Nat) : (wf s a hi lo v).bbx = s.bbx := rfl
@[simp] theorem wf_aon (a hi lo v : Nat) : (wf s a hi lo v).aon = s.aon := rfl
@[simp] theorem wf_sec (a hi lo v : Nat) : (wf s a hi lo v).sec = s.sec := rfl
theorem wf_frame (a hi lo v : Nat) : wf s a hi lo v = { s with regs := (wf s a hi lo v).regs } := rfl

/-! ### errInfo -/

@[simp] theorem errInfo_pending (e b i : Nat) (w : Word) : (errInfo s e b i w).pending = s.pending := by unfold errInfo; split <;> rfl
@[simp] theorem errInfo_up (e b i : Nat) (w : Word) : (errInfo s e b i w).up = s.up := by unfold errInfo; split <;> rfl
@[simp] theorem errInfo_straps (e b i : Nat) (w : Word) : (errInfo s e b i w).straps = s.straps := by unfold errInfo; split <;> rfl
@[simp] theorem errInfo_gradeX (e b i : Nat) (w : Word) : (errInfo s e b i w).gradeX = s.gradeX := by unfold errInfo; split <;> rfl
@[simp] theorem errInfo_cap (e b i : Nat) (w : Word) : (errInfo s e b i w).cap = s.cap := by unfold errInfo; split <;> rfl
@[simp] theorem errInfo_capFrac (e b i : Nat) (w : Word) : (errInfo s e b i w).capFrac = s.capFrac := by unfold errInfo; split <;> rfl
@[simp] theorem errInfo_rdata (e b i : Nat) (w : Word) : (errInfo s e b i w).rdata = s.rdata := by unfold errInfo; split <;> rfl
@[simp] theorem errInfo_mem (e b i : Nat) (w : Word) : (errInfo s e b i w).mem = s.mem := by unfold errInfo; split <;> rfl
@[simp] theorem errInfo_poison (e b i : Nat) (w : Word) : (errInfo s e b i w).poison = s.poison := by unfold errInfo; split <;> rfl
@[simp] theorem errInfo_flips (e b i : Nat) (w : Word) : (errInfo s e b i w).flips = s.flips := by unfold errInfo; split <;> rfl
@[simp] theorem errInfo_edc (e b i : Nat) (w : Word) : (errInfo s e b i w).edc = s.edc := by unfold errInfo; split <;> rfl
@[simp] theorem errInfo_heldWrites (e b i : Nat) (w : Word) : (errInfo s e b i w).heldWrites = s.heldWrites := by unfold errInfo; split <;> rfl
@[simp] theorem errInfo_msixSent (e b i : Nat) (w : Word) : (errInfo s e b i w).msixSent = s.msixSent := by unfold errInfo; split <;> rfl
@[simp] theorem errInfo_evtNext (e b i : Nat) (w : Word) : (errInfo s e b i w).evtNext = s.evtNext := by unfold errInfo; split <;> rfl
@[simp] theorem errInfo_bbxQueue (e b i : Nat) (w : Word) : (errInfo s e b i w).bbxQueue = s.bbxQueue := by unfold errInfo; split <;> rfl
@[simp] theorem errInfo_gated (e b i : Nat) (w : Word) : (errInfo s e b i w).gated = s.gated := by unfold errInfo; split <;> rfl
@[simp] theorem errInfo_fresh (e b i : Nat) (w : Word) : (errInfo s e b i w).fresh = s.fresh := by unfold errInfo; split <;> rfl
@[simp] theorem errInfo_dt (e b i : Nat) (w : Word) : (errInfo s e b i w).dt = s.dt := by unfold errInfo; split <;> rfl
@[simp] theorem errInfo_ptp (e b i : Nat) (w : Word) : (errInfo s e b i w).ptp = s.ptp := by unfold errInfo; split <;> rfl
@[simp] theorem errInfo_sg (e b i : Nat) (w : Word) : (errInfo s e b i w).sg = s.sg := by unfold errInfo; split <;> rfl
@[simp] theorem errInfo_sem (e b i : Nat) (w : Word) : (errInfo s e b i w).sem = s.sem := by unfold errInfo; split <;> rfl
@[simp] theorem errInfo_evc (e b i : Nat) (w : Word) : (errInfo s e b i w).evc = s.evc := by unfold errInfo; split <;> rfl
@[simp] theorem errInfo_ing (e b i : Nat) (w : Word) : (errInfo s e b i w).ing = s.ing := by unfold errInfo; split <;> rfl
@[simp] theorem errInfo_ifc (e b i : Nat) (w : Word) : (errInfo s e b i w).ifc = s.ifc := by unfold errInfo; split <;> rfl
@[simp] theorem errInfo_vis (e b i : Nat) (w : Word) : (errInfo s e b i w).vis = s.vis := by unfold errInfo; split <;> rfl
@[simp] theorem errInfo_fgs (e b i : Nat) (w : Word) : (errInfo s e b i w).fgs = s.fgs := by unfold errInfo; split <;> rfl
@[simp] theorem errInfo_pwr (e b i : Nat) (w : Word) : (errInfo s e b i w).pwr = s.pwr := by unfold errInfo; split <;> rfl
@[simp] theorem errInfo_hif (e b i : Nat) (w : Word) : (errInfo s e b i w).hif = s.hif := by unfold errInfo; split <;> rfl
@[simp] theorem errInfo_tiles (e b i : Nat) (w : Word) : (errInfo s e b i w).tiles = s.tiles := by unfold errInfo; split <;> rfl
@[simp] theorem errInfo_memx (e b i : Nat) (w : Word) : (errInfo s e b i w).memx = s.memx := by unfold errInfo; split <;> rfl
@[simp] theorem errInfo_tfu (e b i : Nat) (w : Word) : (errInfo s e b i w).tfu = s.tfu := by unfold errInfo; split <;> rfl
@[simp] theorem errInfo_lse (e b i : Nat) (w : Word) : (errInfo s e b i w).lse = s.lse := by unfold errInfo; split <;> rfl
@[simp] theorem errInfo_mst (e b i : Nat) (w : Word) : (errInfo s e b i w).mst = s.mst := by unfold errInfo; split <;> rfl
@[simp] theorem errInfo_prs (e b i : Nat) (w : Word) : (errInfo s e b i w).prs = s.prs := by unfold errInfo; split <;> rfl
@[simp] theorem errInfo_safe (e b i : Nat) (w : Word) : (errInfo s e b i w).safe = s.safe := by unfold errInfo; split <;> rfl
@[simp] theorem errInfo_bbx (e b i : Nat) (w : Word) : (errInfo s e b i w).bbx = s.bbx := by unfold errInfo; split <;> rfl
@[simp] theorem errInfo_aon (e b i : Nat) (w : Word) : (errInfo s e b i w).aon = s.aon := by unfold errInfo; split <;> rfl
@[simp] theorem errInfo_sec (e b i : Nat) (w : Word) : (errInfo s e b i w).sec = s.sec := by unfold errInfo; split <;> rfl
theorem errInfo_frame (e b i : Nat) (w : Word) : errInfo s e b i w = { s with regs := (errInfo s e b i w).regs } := by unfold errInfo; split <;> rfl

/-! ### glbErr -/

@[simp] theorem glbErr_pending (b o : Nat) : (glbErr s b o).pending = s.pending := by simp [glbErr]
@[simp] theorem glbErr_up (b o : Nat) : (glbErr s b o).up = s.up := by simp [glbErr]
@[simp] theorem glbErr_straps (b o : Nat) : (glbErr s b o).straps = s.straps := by simp [glbErr]
@[simp] theorem glbErr_gradeX (b o : Nat) : (glbErr s b o).gradeX = s.gradeX := by simp [glbErr]
@[simp] theorem glbErr_cap (b o : Nat) : (glbErr s b o).cap = s.cap := by simp [glbErr]
@[simp] theorem glbErr_capFrac (b o : Nat) : (glbErr s b o).capFrac = s.capFrac := by simp [glbErr]
@[simp] theorem glbErr_rdata (b o : Nat) : (glbErr s b o).rdata = s.rdata := by simp [glbErr]
@[simp] theorem glbErr_mem (b o : Nat) : (glbErr s b o).mem = s.mem := by simp [glbErr]
@[simp] theorem glbErr_poison (b o : Nat) : (glbErr s b o).poison = s.poison := by simp [glbErr]
@[simp] theorem glbErr_flips (b o : Nat) : (glbErr s b o).flips = s.flips := by simp [glbErr]
@[simp] theorem glbErr_edc (b o : Nat) : (glbErr s b o).edc = s.edc := by simp [glbErr]
@[simp] theorem glbErr_heldWrites (b o : Nat) : (glbErr s b o).heldWrites = s.heldWrites := by simp [glbErr]
@[simp] theorem glbErr_msixSent (b o : Nat) : (glbErr s b o).msixSent = s.msixSent := by simp [glbErr]
@[simp] theorem glbErr_evtNext (b o : Nat) : (glbErr s b o).evtNext = s.evtNext := by simp [glbErr]
@[simp] theorem glbErr_bbxQueue (b o : Nat) : (glbErr s b o).bbxQueue = s.bbxQueue := by simp [glbErr]
@[simp] theorem glbErr_gated (b o : Nat) : (glbErr s b o).gated = s.gated := by simp [glbErr]
@[simp] theorem glbErr_fresh (b o : Nat) : (glbErr s b o).fresh = s.fresh := by simp [glbErr]
@[simp] theorem glbErr_dt (b o : Nat) : (glbErr s b o).dt = s.dt := by simp [glbErr]
@[simp] theorem glbErr_ptp (b o : Nat) : (glbErr s b o).ptp = s.ptp := by simp [glbErr]
@[simp] theorem glbErr_sg (b o : Nat) : (glbErr s b o).sg = s.sg := by simp [glbErr]
@[simp] theorem glbErr_sem (b o : Nat) : (glbErr s b o).sem = s.sem := by simp [glbErr]
@[simp] theorem glbErr_evc (b o : Nat) : (glbErr s b o).evc = s.evc := by simp [glbErr]
@[simp] theorem glbErr_ing (b o : Nat) : (glbErr s b o).ing = s.ing := by simp [glbErr]
@[simp] theorem glbErr_ifc (b o : Nat) : (glbErr s b o).ifc = s.ifc := by simp [glbErr]
@[simp] theorem glbErr_vis (b o : Nat) : (glbErr s b o).vis = s.vis := by simp [glbErr]
@[simp] theorem glbErr_fgs (b o : Nat) : (glbErr s b o).fgs = s.fgs := by simp [glbErr]
@[simp] theorem glbErr_pwr (b o : Nat) : (glbErr s b o).pwr = s.pwr := by simp [glbErr]
@[simp] theorem glbErr_hif (b o : Nat) : (glbErr s b o).hif = s.hif := by simp [glbErr]
@[simp] theorem glbErr_tiles (b o : Nat) : (glbErr s b o).tiles = s.tiles := by simp [glbErr]
@[simp] theorem glbErr_memx (b o : Nat) : (glbErr s b o).memx = s.memx := by simp [glbErr]
@[simp] theorem glbErr_tfu (b o : Nat) : (glbErr s b o).tfu = s.tfu := by simp [glbErr]
@[simp] theorem glbErr_lse (b o : Nat) : (glbErr s b o).lse = s.lse := by simp [glbErr]
@[simp] theorem glbErr_mst (b o : Nat) : (glbErr s b o).mst = s.mst := by simp [glbErr]
@[simp] theorem glbErr_prs (b o : Nat) : (glbErr s b o).prs = s.prs := by simp [glbErr]
@[simp] theorem glbErr_safe (b o : Nat) : (glbErr s b o).safe = s.safe := by simp [glbErr]
@[simp] theorem glbErr_bbx (b o : Nat) : (glbErr s b o).bbx = s.bbx := by simp [glbErr]
@[simp] theorem glbErr_aon (b o : Nat) : (glbErr s b o).aon = s.aon := by simp [glbErr]
@[simp] theorem glbErr_sec (b o : Nat) : (glbErr s b o).sec = s.sec := by simp [glbErr]
theorem glbErr_frame (b o : Nat) : glbErr s b o = { s with regs := (glbErr s b o).regs } := errInfo_frame s _ _ _ _

/-! ### errFree -/

@[simp] theorem errFree_pending (e b i : Nat) (w : Word) : (errFree s e b i w).pending = s.pending := by simp [errFree, drawNat]
@[simp] theorem errFree_up (e b i : Nat) (w : Word) : (errFree s e b i w).up = s.up := by simp [errFree, drawNat]
@[simp] theorem errFree_straps (e b i : Nat) (w : Word) : (errFree s e b i w).straps = s.straps := by simp [errFree, drawNat]
@[simp] theorem errFree_gradeX (e b i : Nat) (w : Word) : (errFree s e b i w).gradeX = s.gradeX := by simp [errFree, drawNat]
@[simp] theorem errFree_cap (e b i : Nat) (w : Word) : (errFree s e b i w).cap = s.cap := by simp [errFree, drawNat]
@[simp] theorem errFree_capFrac (e b i : Nat) (w : Word) : (errFree s e b i w).capFrac = s.capFrac := by simp [errFree, drawNat]
@[simp] theorem errFree_rdata (e b i : Nat) (w : Word) : (errFree s e b i w).rdata = s.rdata := by simp [errFree, drawNat]
@[simp] theorem errFree_mem (e b i : Nat) (w : Word) : (errFree s e b i w).mem = s.mem := by simp [errFree, drawNat]
@[simp] theorem errFree_poison (e b i : Nat) (w : Word) : (errFree s e b i w).poison = s.poison := by simp [errFree, drawNat]
@[simp] theorem errFree_flips (e b i : Nat) (w : Word) : (errFree s e b i w).flips = s.flips := by simp [errFree, drawNat]
@[simp] theorem errFree_edc (e b i : Nat) (w : Word) : (errFree s e b i w).edc = s.edc := by simp [errFree, drawNat]
@[simp] theorem errFree_heldWrites (e b i : Nat) (w : Word) : (errFree s e b i w).heldWrites = s.heldWrites := by simp [errFree, drawNat]
@[simp] theorem errFree_msixSent (e b i : Nat) (w : Word) : (errFree s e b i w).msixSent = s.msixSent := by simp [errFree, drawNat]
@[simp] theorem errFree_evtNext (e b i : Nat) (w : Word) : (errFree s e b i w).evtNext = s.evtNext := by simp [errFree, drawNat]
@[simp] theorem errFree_bbxQueue (e b i : Nat) (w : Word) : (errFree s e b i w).bbxQueue = s.bbxQueue := by simp [errFree, drawNat]
@[simp] theorem errFree_gated (e b i : Nat) (w : Word) : (errFree s e b i w).gated = s.gated := by simp [errFree, drawNat]
@[simp] theorem errFree_dt (e b i : Nat) (w : Word) : (errFree s e b i w).dt = s.dt := by simp [errFree, drawNat]
@[simp] theorem errFree_ptp (e b i : Nat) (w : Word) : (errFree s e b i w).ptp = s.ptp := by simp [errFree, drawNat]
@[simp] theorem errFree_sg (e b i : Nat) (w : Word) : (errFree s e b i w).sg = s.sg := by simp [errFree, drawNat]
@[simp] theorem errFree_sem (e b i : Nat) (w : Word) : (errFree s e b i w).sem = s.sem := by simp [errFree, drawNat]
@[simp] theorem errFree_evc (e b i : Nat) (w : Word) : (errFree s e b i w).evc = s.evc := by simp [errFree, drawNat]
@[simp] theorem errFree_ing (e b i : Nat) (w : Word) : (errFree s e b i w).ing = s.ing := by simp [errFree, drawNat]
@[simp] theorem errFree_ifc (e b i : Nat) (w : Word) : (errFree s e b i w).ifc = s.ifc := by simp [errFree, drawNat]
@[simp] theorem errFree_vis (e b i : Nat) (w : Word) : (errFree s e b i w).vis = s.vis := by simp [errFree, drawNat]
@[simp] theorem errFree_fgs (e b i : Nat) (w : Word) : (errFree s e b i w).fgs = s.fgs := by simp [errFree, drawNat]
@[simp] theorem errFree_pwr (e b i : Nat) (w : Word) : (errFree s e b i w).pwr = s.pwr := by simp [errFree, drawNat]
@[simp] theorem errFree_hif (e b i : Nat) (w : Word) : (errFree s e b i w).hif = s.hif := by simp [errFree, drawNat]
@[simp] theorem errFree_tiles (e b i : Nat) (w : Word) : (errFree s e b i w).tiles = s.tiles := by simp [errFree, drawNat]
@[simp] theorem errFree_memx (e b i : Nat) (w : Word) : (errFree s e b i w).memx = s.memx := by simp [errFree, drawNat]
@[simp] theorem errFree_tfu (e b i : Nat) (w : Word) : (errFree s e b i w).tfu = s.tfu := by simp [errFree, drawNat]
@[simp] theorem errFree_lse (e b i : Nat) (w : Word) : (errFree s e b i w).lse = s.lse := by simp [errFree, drawNat]
@[simp] theorem errFree_mst (e b i : Nat) (w : Word) : (errFree s e b i w).mst = s.mst := by simp [errFree, drawNat]
@[simp] theorem errFree_prs (e b i : Nat) (w : Word) : (errFree s e b i w).prs = s.prs := by simp [errFree, drawNat]
@[simp] theorem errFree_safe (e b i : Nat) (w : Word) : (errFree s e b i w).safe = s.safe := by simp [errFree, drawNat]
@[simp] theorem errFree_bbx (e b i : Nat) (w : Word) : (errFree s e b i w).bbx = s.bbx := by simp [errFree, drawNat]
@[simp] theorem errFree_aon (e b i : Nat) (w : Word) : (errFree s e b i w).aon = s.aon := by simp [errFree, drawNat]
@[simp] theorem errFree_sec (e b i : Nat) (w : Word) : (errFree s e b i w).sec = s.sec := by simp [errFree, drawNat]
theorem errFree_frame (e b i : Nat) (w : Word) : errFree s e b i w = { s with regs := (errFree s e b i w).regs, fresh := (errFree s e b i w).fresh } := by unfold errFree errInfo; dsimp only [drawNat]; split <;> rfl

/-! ### capture -/

@[simp] theorem capture_pending (a : Nat) (v : DWord) : (capture s a v).pending = s.pending := rfl
@[simp] theorem capture_up (a : Nat) (v : DWord) : (capture s a v).up = s.up := rfl
@[simp] theorem capture_straps (a : Nat) (v : DWord) : (capture s a v).straps = s.straps := rfl
@[simp] theorem capture_gradeX (a : Nat) (v : DWord) : (capture s a v).gradeX = s.gradeX := rfl
@[simp] theorem capture_regs (a : Nat) (v : DWord) : (capture s a v).regs = s.regs := rfl
@[simp] theorem capture_capFrac (a : Nat) (v : DWord) : (capture s a v).capFrac = s.capFrac := rfl
@[simp] theorem capture_mem (a : Nat) (v : DWord) : (capture s a v).mem = s.mem := rfl
@[simp] theorem capture_poison (a : Nat) (v : DWord) : (capture s a v).poison = s.poison := rfl
@[simp] theorem capture_flips (a : Nat) (v : DWord) : (capture s a v).flips = s.flips := rfl
@[simp] theorem capture_edc (a : Nat) (v : DWord) : (capture s a v).edc = s.edc := rfl
@[simp] theorem capture_heldWrites (a : Nat) (v : DWord) : (capture s a v).heldWrites = s.heldWrites := rfl
@[simp] theorem capture_msixSent (a : Nat) (v : DWord) : (capture s a v).msixSent = s.msixSent := rfl
@[simp] theorem capture_evtNext (a : Nat) (v : DWord) : (capture s a v).evtNext = s.evtNext := rfl
@[simp] theorem capture_bbxQueue (a : Nat) (v : DWord) : (capture s a v).bbxQueue = s.bbxQueue := rfl
@[simp] theorem capture_gated (a : Nat) (v : DWord) : (capture s a v).gated = s.gated := rfl
@[simp] theorem capture_fresh (a : Nat) (v : DWord) : (capture s a v).fresh = s.fresh := rfl
@[simp] theorem capture_dt (a : Nat) (v : DWord) : (capture s a v).dt = s.dt := rfl
@[simp] theorem capture_ptp (a : Nat) (v : DWord) : (capture s a v).ptp = s.ptp := rfl
@[simp] theorem capture_sg (a : Nat) (v : DWord) : (capture s a v).sg = s.sg := rfl
@[simp] theorem capture_sem (a : Nat) (v : DWord) : (capture s a v).sem = s.sem := rfl
@[simp] theorem capture_evc (a : Nat) (v : DWord) : (capture s a v).evc = s.evc := rfl
@[simp] theorem capture_ing (a : Nat) (v : DWord) : (capture s a v).ing = s.ing := rfl
@[simp] theorem capture_ifc (a : Nat) (v : DWord) : (capture s a v).ifc = s.ifc := rfl
@[simp] theorem capture_vis (a : Nat) (v : DWord) : (capture s a v).vis = s.vis := rfl
@[simp] theorem capture_fgs (a : Nat) (v : DWord) : (capture s a v).fgs = s.fgs := rfl
@[simp] theorem capture_pwr (a : Nat) (v : DWord) : (capture s a v).pwr = s.pwr := rfl
@[simp] theorem capture_hif (a : Nat) (v : DWord) : (capture s a v).hif = s.hif := rfl
@[simp] theorem capture_tiles (a : Nat) (v : DWord) : (capture s a v).tiles = s.tiles := rfl
@[simp] theorem capture_memx (a : Nat) (v : DWord) : (capture s a v).memx = s.memx := rfl
@[simp] theorem capture_tfu (a : Nat) (v : DWord) : (capture s a v).tfu = s.tfu := rfl
@[simp] theorem capture_lse (a : Nat) (v : DWord) : (capture s a v).lse = s.lse := rfl
@[simp] theorem capture_mst (a : Nat) (v : DWord) : (capture s a v).mst = s.mst := rfl
@[simp] theorem capture_prs (a : Nat) (v : DWord) : (capture s a v).prs = s.prs := rfl
@[simp] theorem capture_safe (a : Nat) (v : DWord) : (capture s a v).safe = s.safe := rfl
@[simp] theorem capture_bbx (a : Nat) (v : DWord) : (capture s a v).bbx = s.bbx := rfl
@[simp] theorem capture_aon (a : Nat) (v : DWord) : (capture s a v).aon = s.aon := rfl
@[simp] theorem capture_sec (a : Nat) (v : DWord) : (capture s a v).sec = s.sec := rfl
theorem capture_frame (a : Nat) (v : DWord) : capture s a v = { s with cap := (capture s a v).cap, rdata := (capture s a v).rdata } := rfl

/-! ### Reads -/

@[simp] theorem rd_wr_same (a : Nat) (v : Word) : rd (wr s a v) a = v := by simp [rd, wr]

theorem rd_wr_other {a b : Nat} (v : Word) (h : b ≠ a) : rd (wr s a v) b = rd s b := by
  simp only [rd, wr]
  exact tabGet_set_other _ _ _ _ h

@[simp] theorem rd_setBits_same (a : Nat) (m : Word) : rd (setBits s a m) a = rd s a ||| m := by simp [setBits]

theorem rd_setBits_other {a b : Nat} (m : Word) (h : b ≠ a) : rd (setBits s a m) b = rd s b := rd_wr_other s _ h

@[simp] theorem rd_clrBits_same (a : Nat) (m : Word) : rd (clrBits s a m) a = rd s a &&& ~~~m := by simp [clrBits]

theorem rd_clrBits_other {a b : Nat} (m : Word) (h : b ≠ a) : rd (clrBits s a m) b = rd s b := rd_wr_other s _ h

@[simp] theorem rd_bump_same (a : Nat) : rd (bump s a) a = incSat (rd s a) := by simp [bump]

theorem rd_bump_other {a b : Nat} (h : b ≠ a) : rd (bump s a) b = rd s b := rd_wr_other s _ h

@[simp] theorem rd_bumpN_same (a n : Nat) : rd (bumpN s a n) a = addSat (rd s a) n := by simp [bumpN]

theorem rd_bumpN_other {a b : Nat} (n : Nat) (h : b ≠ a) : rd (bumpN s a n) b = rd s b := rd_wr_other s _ h

@[simp] theorem rd_bumpWrapN_same (a n : Nat) : rd (bumpWrapN s a n) a = rd s a + BitVec.ofNat 32 n := by simp [bumpWrapN]

theorem rd_bumpWrapN_other {a b : Nat} (n : Nat) (h : b ≠ a) : rd (bumpWrapN s a n) b = rd s b := rd_wr_other s _ h

@[simp] theorem rd_bumpWrap_same (a : Nat) : rd (bumpWrap s a) a = rd s a + 1 := by simp [bumpWrap]

theorem rd_bumpWrap_other {a b : Nat} (h : b ≠ a) : rd (bumpWrap s a) b = rd s b := rd_wr_other s _ h

@[simp] theorem rd_wf_same (a hi lo v : Nat) : rd (wf s a hi lo v) a = setFld (rd s a) hi lo v := by simp [wf]

theorem rd_wf_other {a b : Nat} (hi lo v : Nat) (h : b ≠ a) : rd (wf s a hi lo v) b = rd s b := rd_wr_other s _ h

/-- An error is recorded: its bit. -/
theorem rd_errInfo_same {e i : Nat} (b : Nat) (w : Word) (h : e ≠ i) :
    rd (errInfo s e b i w) e = rd s e ||| bitW b := by
  unfold errInfo
  split
  · rw [rd_setBits_same, rd_wr_other _ _ h]
  · rw [rd_setBits_same]

/-- The information register takes the first error's word alone. -/
theorem rd_errInfo_info {e i : Nat} (b : Nat) (w : Word) (h : i ≠ e) :
    rd (errInfo s e b i w) i = if rd s e = 0 then w else rd s i := by
  unfold errInfo
  rw [rd_setBits_other _ _ h]
  split
  · rw [rd_wr_same]
  · rfl

/-- Every other register is left alone. -/
theorem rd_errInfo_other {a e i : Nat} (b : Nat) (w : Word) (h : a ≠ e) (k : a ≠ i) : rd (errInfo s e b i w) a = rd s a := by
  unfold errInfo
  rw [rd_setBits_other _ _ h]
  split
  · rw [rd_wr_other _ _ k]
  · rfl

@[simp] theorem rd_capture (a b : Nat) (v : DWord) : rd (capture s a v) b = rd s b := rfl

@[simp] theorem tabGet_capture (a : Nat) (v : DWord) : tabGet 0 (capture s a v).cap a = v := by simp [capture]

end Sys2Proof.Machine
end

