-- ==== Sys2Proof/Laws/Ops.lean ====
section
/-! SUPPORT. What each shared operation does, said once: what it leaves alone, field by field, and the values it gives. -/

namespace Sys2Proof.Machine

variable (s : State)

/-- A command of the fabric domain acts while the domain runs. -/
theorem fabric_up {f : State → State} (h : s.up = true) : fabric s f = .next (f s) := by simp [fabric, h]

/-- While the domain is held it changes nothing. -/
theorem fabric_held {f : State → State} (h : s.up = false) : fabric s f = .next s := by simp [fabric, h]

/-- What every step of a fold leaves alone, the fold leaves alone. -/
theorem foldl_keep {α β γ : Type} (g : α → β → α) (f : α → γ) (h : ∀ t x, f (g t x) = f t) (l : List β) (t : α) :
    f (l.foldl g t) = f t := by
  induction l generalizing t with
  | nil => rfl
  | cons x l ih => exact (ih _).trans (h t x)

/-! ### corrected -/

@[simp] theorem corrected_pending (u : Nat) : (corrected s u).pending = s.pending := by unfold corrected; (repeat' split) <;> simp
@[simp] theorem corrected_up (u : Nat) : (corrected s u).up = s.up := by unfold corrected; (repeat' split) <;> simp
@[simp] theorem corrected_straps (u : Nat) : (corrected s u).straps = s.straps := by unfold corrected; (repeat' split) <;> simp
@[simp] theorem corrected_gradeX (u : Nat) : (corrected s u).gradeX = s.gradeX := by unfold corrected; (repeat' split) <;> simp
@[simp] theorem corrected_cap (u : Nat) : (corrected s u).cap = s.cap := by unfold corrected; (repeat' split) <;> simp
@[simp] theorem corrected_capFrac (u : Nat) : (corrected s u).capFrac = s.capFrac := by unfold corrected; (repeat' split) <;> simp
@[simp] theorem corrected_rdata (u : Nat) : (corrected s u).rdata = s.rdata := by unfold corrected; (repeat' split) <;> simp
@[simp] theorem corrected_mem (u : Nat) : (corrected s u).mem = s.mem := by unfold corrected; (repeat' split) <;> simp
@[simp] theorem corrected_poison (u : Nat) : (corrected s u).poison = s.poison := by unfold corrected; (repeat' split) <;> simp
@[simp] theorem corrected_edc (u : Nat) : (corrected s u).edc = s.edc := by unfold corrected; (repeat' split) <;> simp
@[simp] theorem corrected_heldWrites (u : Nat) : (corrected s u).heldWrites = s.heldWrites := by unfold corrected; (repeat' split) <;> simp
@[simp] theorem corrected_msixSent (u : Nat) : (corrected s u).msixSent = s.msixSent := by unfold corrected; (repeat' split) <;> simp
@[simp] theorem corrected_evtNext (u : Nat) : (corrected s u).evtNext = s.evtNext := by unfold corrected; (repeat' split) <;> simp
@[simp] theorem corrected_bbxQueue (u : Nat) : (corrected s u).bbxQueue = s.bbxQueue := by unfold corrected; (repeat' split) <;> simp
@[simp] theorem corrected_gated (u : Nat) : (corrected s u).gated = s.gated := by unfold corrected; (repeat' split) <;> simp
@[simp] theorem corrected_fresh (u : Nat) : (corrected s u).fresh = s.fresh := by unfold corrected; (repeat' split) <;> simp
@[simp] theorem corrected_dt (u : Nat) : (corrected s u).dt = s.dt := by unfold corrected; (repeat' split) <;> simp
@[simp] theorem corrected_ptp (u : Nat) : (corrected s u).ptp = s.ptp := by unfold corrected; (repeat' split) <;> simp
@[simp] theorem corrected_sg (u : Nat) : (corrected s u).sg = s.sg := by unfold corrected; (repeat' split) <;> simp
@[simp] theorem corrected_sem (u : Nat) : (corrected s u).sem = s.sem := by unfold corrected; (repeat' split) <;> simp
@[simp] theorem corrected_evc (u : Nat) : (corrected s u).evc = s.evc := by unfold corrected; (repeat' split) <;> simp
@[simp] theorem corrected_ing (u : Nat) : (corrected s u).ing = s.ing := by unfold corrected; (repeat' split) <;> simp
@[simp] theorem corrected_ifc (u : Nat) : (corrected s u).ifc = s.ifc := by unfold corrected; (repeat' split) <;> simp
@[simp] theorem corrected_vis (u : Nat) : (corrected s u).vis = s.vis := by unfold corrected; (repeat' split) <;> simp
@[simp] theorem corrected_fgs (u : Nat) : (corrected s u).fgs = s.fgs := by unfold corrected; (repeat' split) <;> simp
@[simp] theorem corrected_pwr (u : Nat) : (corrected s u).pwr = s.pwr := by unfold corrected; (repeat' split) <;> simp
@[simp] theorem corrected_hif (u : Nat) : (corrected s u).hif = s.hif := by unfold corrected; (repeat' split) <;> simp
@[simp] theorem corrected_tiles (u : Nat) : (corrected s u).tiles = s.tiles := by unfold corrected; (repeat' split) <;> simp
@[simp] theorem corrected_memx (u : Nat) : (corrected s u).memx = s.memx := by unfold corrected; (repeat' split) <;> simp
@[simp] theorem corrected_tfu (u : Nat) : (corrected s u).tfu = s.tfu := by unfold corrected; (repeat' split) <;> simp
@[simp] theorem corrected_lse (u : Nat) : (corrected s u).lse = s.lse := by unfold corrected; (repeat' split) <;> simp
@[simp] theorem corrected_mst (u : Nat) : (corrected s u).mst = s.mst := by unfold corrected; (repeat' split) <;> simp
@[simp] theorem corrected_prs (u : Nat) : (corrected s u).prs = s.prs := by unfold corrected; (repeat' split) <;> simp
@[simp] theorem corrected_safe (u : Nat) : (corrected s u).safe = s.safe := by unfold corrected; (repeat' split) <;> simp
@[simp] theorem corrected_bbx (u : Nat) : (corrected s u).bbx = s.bbx := by unfold corrected; (repeat' split) <;> simp
@[simp] theorem corrected_aon (u : Nat) : (corrected s u).aon = s.aon := by unfold corrected; (repeat' split) <;> simp
@[simp] theorem corrected_sec (u : Nat) : (corrected s u).sec = s.sec := by unfold corrected; (repeat' split) <;> simp
theorem corrected_frame (u : Nat) : corrected s u = { s with regs := (corrected s u).regs, flips := (corrected s u).flips } := by
  apply State.ext_fields <;> simp

/-! ### uncorrectable -/

@[simp] theorem uncorrectable_pending (u : Nat) : (uncorrectable s u).pending = s.pending := by unfold uncorrectable; (repeat' split) <;> simp
@[simp] theorem uncorrectable_up (u : Nat) : (uncorrectable s u).up = s.up := by unfold uncorrectable; (repeat' split) <;> simp
@[simp] theorem uncorrectable_straps (u : Nat) : (uncorrectable s u).straps = s.straps := by unfold uncorrectable; (repeat' split) <;> simp
@[simp] theorem uncorrectable_gradeX (u : Nat) : (uncorrectable s u).gradeX = s.gradeX := by unfold uncorrectable; (repeat' split) <;> simp
@[simp] theorem uncorrectable_cap (u : Nat) : (uncorrectable s u).cap = s.cap := by unfold uncorrectable; (repeat' split) <;> simp
@[simp] theorem uncorrectable_capFrac (u : Nat) : (uncorrectable s u).capFrac = s.capFrac := by unfold uncorrectable; (repeat' split) <;> simp
@[simp] theorem uncorrectable_rdata (u : Nat) : (uncorrectable s u).rdata = s.rdata := by unfold uncorrectable; (repeat' split) <;> simp
@[simp] theorem uncorrectable_mem (u : Nat) : (uncorrectable s u).mem = s.mem := by unfold uncorrectable; (repeat' split) <;> simp
@[simp] theorem uncorrectable_poison (u : Nat) : (uncorrectable s u).poison = s.poison := by unfold uncorrectable; (repeat' split) <;> simp
@[simp] theorem uncorrectable_flips (u : Nat) : (uncorrectable s u).flips = s.flips := by unfold uncorrectable; (repeat' split) <;> simp
@[simp] theorem uncorrectable_edc (u : Nat) : (uncorrectable s u).edc = s.edc := by unfold uncorrectable; (repeat' split) <;> simp
@[simp] theorem uncorrectable_heldWrites (u : Nat) : (uncorrectable s u).heldWrites = s.heldWrites := by unfold uncorrectable; (repeat' split) <;> simp
@[simp] theorem uncorrectable_msixSent (u : Nat) : (uncorrectable s u).msixSent = s.msixSent := by unfold uncorrectable; (repeat' split) <;> simp
@[simp] theorem uncorrectable_evtNext (u : Nat) : (uncorrectable s u).evtNext = s.evtNext := by unfold uncorrectable; (repeat' split) <;> simp
@[simp] theorem uncorrectable_bbxQueue (u : Nat) : (uncorrectable s u).bbxQueue = s.bbxQueue := by unfold uncorrectable; (repeat' split) <;> simp
@[simp] theorem uncorrectable_gated (u : Nat) : (uncorrectable s u).gated = s.gated := by unfold uncorrectable; (repeat' split) <;> simp
@[simp] theorem uncorrectable_fresh (u : Nat) : (uncorrectable s u).fresh = s.fresh := by unfold uncorrectable; (repeat' split) <;> simp
@[simp] theorem uncorrectable_dt (u : Nat) : (uncorrectable s u).dt = s.dt := by unfold uncorrectable; (repeat' split) <;> simp
@[simp] theorem uncorrectable_ptp (u : Nat) : (uncorrectable s u).ptp = s.ptp := by unfold uncorrectable; (repeat' split) <;> simp
@[simp] theorem uncorrectable_sg (u : Nat) : (uncorrectable s u).sg = s.sg := by unfold uncorrectable; (repeat' split) <;> simp
@[simp] theorem uncorrectable_sem (u : Nat) : (uncorrectable s u).sem = s.sem := by unfold uncorrectable; (repeat' split) <;> simp
@[simp] theorem uncorrectable_evc (u : Nat) : (uncorrectable s u).evc = s.evc := by unfold uncorrectable; (repeat' split) <;> simp
@[simp] theorem uncorrectable_ing (u : Nat) : (uncorrectable s u).ing = s.ing := by unfold uncorrectable; (repeat' split) <;> simp
@[simp] theorem uncorrectable_ifc (u : Nat) : (uncorrectable s u).ifc = s.ifc := by unfold uncorrectable; (repeat' split) <;> simp
@[simp] theorem uncorrectable_vis (u : Nat) : (uncorrectable s u).vis = s.vis := by unfold uncorrectable; (repeat' split) <;> simp
@[simp] theorem uncorrectable_fgs (u : Nat) : (uncorrectable s u).fgs = s.fgs := by unfold uncorrectable; (repeat' split) <;> simp
@[simp] theorem uncorrectable_pwr (u : Nat) : (uncorrectable s u).pwr = s.pwr := by unfold uncorrectable; (repeat' split) <;> simp
@[simp] theorem uncorrectable_hif (u : Nat) : (uncorrectable s u).hif = s.hif := by unfold uncorrectable; (repeat' split) <;> simp
@[simp] theorem uncorrectable_tiles (u : Nat) : (uncorrectable s u).tiles = s.tiles := by unfold uncorrectable; (repeat' split) <;> simp
@[simp] theorem uncorrectable_memx (u : Nat) : (uncorrectable s u).memx = s.memx := by unfold uncorrectable; (repeat' split) <;> simp
@[simp] theorem uncorrectable_tfu (u : Nat) : (uncorrectable s u).tfu = s.tfu := by unfold uncorrectable; (repeat' split) <;> simp
@[simp] theorem uncorrectable_lse (u : Nat) : (uncorrectable s u).lse = s.lse := by unfold uncorrectable; (repeat' split) <;> simp
@[simp] theorem uncorrectable_mst (u : Nat) : (uncorrectable s u).mst = s.mst := by unfold uncorrectable; (repeat' split) <;> simp
@[simp] theorem uncorrectable_prs (u : Nat) : (uncorrectable s u).prs = s.prs := by unfold uncorrectable; (repeat' split) <;> simp
@[simp] theorem uncorrectable_safe (u : Nat) : (uncorrectable s u).safe = s.safe := by unfold uncorrectable; (repeat' split) <;> simp
@[simp] theorem uncorrectable_bbx (u : Nat) : (uncorrectable s u).bbx = s.bbx := by unfold uncorrectable; (repeat' split) <;> simp
@[simp] theorem uncorrectable_aon (u : Nat) : (uncorrectable s u).aon = s.aon := by unfold uncorrectable; (repeat' split) <;> simp
@[simp] theorem uncorrectable_sec (u : Nat) : (uncorrectable s u).sec = s.sec := by unfold uncorrectable; (repeat' split) <;> simp
theorem uncorrectable_frame (u : Nat) : uncorrectable s u = { s with regs := (uncorrectable s u).regs } := by
  apply State.ext_fields <;> simp

/-! ### retrain -/

@[simp] theorem retrain_pending (c : Nat) (k : Bool) : (retrain s c k).pending = s.pending := by unfold retrain; dsimp only; split <;> simp
@[simp] theorem retrain_up (c : Nat) (k : Bool) : (retrain s c k).up = s.up := by unfold retrain; dsimp only; split <;> simp
@[simp] theorem retrain_straps (c : Nat) (k : Bool) : (retrain s c k).straps = s.straps := by unfold retrain; dsimp only; split <;> simp
@[simp] theorem retrain_gradeX (c : Nat) (k : Bool) : (retrain s c k).gradeX = s.gradeX := by unfold retrain; dsimp only; split <;> simp
@[simp] theorem retrain_cap (c : Nat) (k : Bool) : (retrain s c k).cap = s.cap := by unfold retrain; dsimp only; split <;> simp
@[simp] theorem retrain_capFrac (c : Nat) (k : Bool) : (retrain s c k).capFrac = s.capFrac := by unfold retrain; dsimp only; split <;> simp
@[simp] theorem retrain_rdata (c : Nat) (k : Bool) : (retrain s c k).rdata = s.rdata := by unfold retrain; dsimp only; split <;> simp
@[simp] theorem retrain_mem (c : Nat) (k : Bool) : (retrain s c k).mem = s.mem := by unfold retrain; dsimp only; split <;> simp
@[simp] theorem retrain_poison (c : Nat) (k : Bool) : (retrain s c k).poison = s.poison := by unfold retrain; dsimp only; split <;> simp
@[simp] theorem retrain_flips (c : Nat) (k : Bool) : (retrain s c k).flips = s.flips := by unfold retrain; dsimp only; split <;> simp
@[simp] theorem retrain_edc (c : Nat) (k : Bool) : (retrain s c k).edc = s.edc := by unfold retrain; dsimp only; split <;> simp
@[simp] theorem retrain_heldWrites (c : Nat) (k : Bool) : (retrain s c k).heldWrites = s.heldWrites := by unfold retrain; dsimp only; split <;> simp
@[simp] theorem retrain_msixSent (c : Nat) (k : Bool) : (retrain s c k).msixSent = s.msixSent := by unfold retrain; dsimp only; split <;> simp
@[simp] theorem retrain_evtNext (c : Nat) (k : Bool) : (retrain s c k).evtNext = s.evtNext := by unfold retrain; dsimp only; split <;> simp
@[simp] theorem retrain_bbxQueue (c : Nat) (k : Bool) : (retrain s c k).bbxQueue = s.bbxQueue := by unfold retrain; dsimp only; split <;> simp
@[simp] theorem retrain_gated (c : Nat) (k : Bool) : (retrain s c k).gated = s.gated := by unfold retrain; dsimp only; split <;> simp
@[simp] theorem retrain_fresh (c : Nat) (k : Bool) : (retrain s c k).fresh = s.fresh := by unfold retrain; dsimp only; split <;> simp
@[simp] theorem retrain_dt (c : Nat) (k : Bool) : (retrain s c k).dt = s.dt := by unfold retrain; dsimp only; split <;> simp
@[simp] theorem retrain_ptp (c : Nat) (k : Bool) : (retrain s c k).ptp = s.ptp := by unfold retrain; dsimp only; split <;> simp
@[simp] theorem retrain_sg (c : Nat) (k : Bool) : (retrain s c k).sg = s.sg := by unfold retrain; dsimp only; split <;> simp
@[simp] theorem retrain_sem (c : Nat) (k : Bool) : (retrain s c k).sem = s.sem := by unfold retrain; dsimp only; split <;> simp
@[simp] theorem retrain_evc (c : Nat) (k : Bool) : (retrain s c k).evc = s.evc := by unfold retrain; dsimp only; split <;> simp
@[simp] theorem retrain_ing (c : Nat) (k : Bool) : (retrain s c k).ing = s.ing := by unfold retrain; dsimp only; split <;> simp
@[simp] theorem retrain_ifc (c : Nat) (k : Bool) : (retrain s c k).ifc = s.ifc := by unfold retrain; dsimp only; split <;> simp
@[simp] theorem retrain_vis (c : Nat) (k : Bool) : (retrain s c k).vis = s.vis := by unfold retrain; dsimp only; split <;> simp
@[simp] theorem retrain_fgs (c : Nat) (k : Bool) : (retrain s c k).fgs = s.fgs := by unfold retrain; dsimp only; split <;> simp
@[simp] theorem retrain_pwr (c : Nat) (k : Bool) : (retrain s c k).pwr = s.pwr := by unfold retrain; dsimp only; split <;> simp
@[simp] theorem retrain_hif (c : Nat) (k : Bool) : (retrain s c k).hif = s.hif := by unfold retrain; dsimp only; split <;> simp
@[simp] theorem retrain_tiles (c : Nat) (k : Bool) : (retrain s c k).tiles = s.tiles := by unfold retrain; dsimp only; split <;> simp
@[simp] theorem retrain_memx (c : Nat) (k : Bool) : (retrain s c k).memx = s.memx := by unfold retrain; dsimp only; split <;> simp
@[simp] theorem retrain_tfu (c : Nat) (k : Bool) : (retrain s c k).tfu = s.tfu := by unfold retrain; dsimp only; split <;> simp
@[simp] theorem retrain_lse (c : Nat) (k : Bool) : (retrain s c k).lse = s.lse := by unfold retrain; dsimp only; split <;> simp
@[simp] theorem retrain_mst (c : Nat) (k : Bool) : (retrain s c k).mst = s.mst := by unfold retrain; dsimp only; split <;> simp
@[simp] theorem retrain_prs (c : Nat) (k : Bool) : (retrain s c k).prs = s.prs := by unfold retrain; dsimp only; split <;> simp
@[simp] theorem retrain_safe (c : Nat) (k : Bool) : (retrain s c k).safe = s.safe := by unfold retrain; dsimp only; split <;> simp
@[simp] theorem retrain_bbx (c : Nat) (k : Bool) : (retrain s c k).bbx = s.bbx := by unfold retrain; dsimp only; split <;> simp
@[simp] theorem retrain_aon (c : Nat) (k : Bool) : (retrain s c k).aon = s.aon := by unfold retrain; dsimp only; split <;> simp
@[simp] theorem retrain_sec (c : Nat) (k : Bool) : (retrain s c k).sec = s.sec := by unfold retrain; dsimp only; split <;> simp
theorem retrain_frame (c : Nat) (k : Bool) : retrain s c k = { s with regs := (retrain s c k).regs } := by
  apply State.ext_fields <;> simp

/-! ### edcMeet -/

@[simp] theorem edcMeet_pending (w : Bool) (p n : Nat) (e : Nat × Nat) : (edcMeet w p n s e).pending = s.pending := by
  unfold edcMeet; dsimp only [drawNat]; (repeat' split) <;> simp
@[simp] theorem edcMeet_up (w : Bool) (p n : Nat) (e : Nat × Nat) : (edcMeet w p n s e).up = s.up := by
  unfold edcMeet; dsimp only [drawNat]; (repeat' split) <;> simp
@[simp] theorem edcMeet_straps (w : Bool) (p n : Nat) (e : Nat × Nat) : (edcMeet w p n s e).straps = s.straps := by
  unfold edcMeet; dsimp only [drawNat]; (repeat' split) <;> simp
@[simp] theorem edcMeet_gradeX (w : Bool) (p n : Nat) (e : Nat × Nat) : (edcMeet w p n s e).gradeX = s.gradeX := by
  unfold edcMeet; dsimp only [drawNat]; (repeat' split) <;> simp
@[simp] theorem edcMeet_cap (w : Bool) (p n : Nat) (e : Nat × Nat) : (edcMeet w p n s e).cap = s.cap := by
  unfold edcMeet; dsimp only [drawNat]; (repeat' split) <;> simp
@[simp] theorem edcMeet_capFrac (w : Bool) (p n : Nat) (e : Nat × Nat) : (edcMeet w p n s e).capFrac = s.capFrac := by
  unfold edcMeet; dsimp only [drawNat]; (repeat' split) <;> simp
@[simp] theorem edcMeet_rdata (w : Bool) (p n : Nat) (e : Nat × Nat) : (edcMeet w p n s e).rdata = s.rdata := by
  unfold edcMeet; dsimp only [drawNat]; (repeat' split) <;> simp
@[simp] theorem edcMeet_mem (w : Bool) (p n : Nat) (e : Nat × Nat) : (edcMeet w p n s e).mem = s.mem := by
  unfold edcMeet; dsimp only [drawNat]; (repeat' split) <;> simp
@[simp] theorem edcMeet_flips (w : Bool) (p n : Nat) (e : Nat × Nat) : (edcMeet w p n s e).flips = s.flips := by
  unfold edcMeet; dsimp only [drawNat]; (repeat' split) <;> simp
@[simp] theorem edcMeet_heldWrites (w : Bool) (p n : Nat) (e : Nat × Nat) : (edcMeet w p n s e).heldWrites = s.heldWrites := by
  unfold edcMeet; dsimp only [drawNat]; (repeat' split) <;> simp
@[simp] theorem edcMeet_msixSent (w : Bool) (p n : Nat) (e : Nat × Nat) : (edcMeet w p n s e).msixSent = s.msixSent := by
  unfold edcMeet; dsimp only [drawNat]; (repeat' split) <;> simp
@[simp] theorem edcMeet_evtNext (w : Bool) (p n : Nat) (e : Nat × Nat) : (edcMeet w p n s e).evtNext = s.evtNext := by
  unfold edcMeet; dsimp only [drawNat]; (repeat' split) <;> simp
@[simp] theorem edcMeet_bbxQueue (w : Bool) (p n : Nat) (e : Nat × Nat) : (edcMeet w p n s e).bbxQueue = s.bbxQueue := by
  unfold edcMeet; dsimp only [drawNat]; (repeat' split) <;> simp
@[simp] theorem edcMeet_gated (w : Bool) (p n : Nat) (e : Nat × Nat) : (edcMeet w p n s e).gated = s.gated := by
  unfold edcMeet; dsimp only [drawNat]; (repeat' split) <;> simp
@[simp] theorem edcMeet_dt (w : Bool) (p n : Nat) (e : Nat × Nat) : (edcMeet w p n s e).dt = s.dt := by
  unfold edcMeet; dsimp only [drawNat]; (repeat' split) <;> simp
@[simp] theorem edcMeet_ptp (w : Bool) (p n : Nat) (e : Nat × Nat) : (edcMeet w p n s e).ptp = s.ptp := by
  unfold edcMeet; dsimp only [drawNat]; (repeat' split) <;> simp
@[simp] theorem edcMeet_sg (w : Bool) (p n : Nat) (e : Nat × Nat) : (edcMeet w p n s e).sg = s.sg := by
  unfold edcMeet; dsimp only [drawNat]; (repeat' split) <;> simp
@[simp] theorem edcMeet_sem (w : Bool) (p n : Nat) (e : Nat × Nat) : (edcMeet w p n s e).sem = s.sem := by
  unfold edcMeet; dsimp only [drawNat]; (repeat' split) <;> simp
@[simp] theorem edcMeet_evc (w : Bool) (p n : Nat) (e : Nat × Nat) : (edcMeet w p n s e).evc = s.evc := by
  unfold edcMeet; dsimp only [drawNat]; (repeat' split) <;> simp
@[simp] theorem edcMeet_ing (w : Bool) (p n : Nat) (e : Nat × Nat) : (edcMeet w p n s e).ing = s.ing := by
  unfold edcMeet; dsimp only [drawNat]; (repeat' split) <;> simp
@[simp] theorem edcMeet_ifc (w : Bool) (p n : Nat) (e : Nat × Nat) : (edcMeet w p n s e).ifc = s.ifc := by
  unfold edcMeet; dsimp only [drawNat]; (repeat' split) <;> simp
@[simp] theorem edcMeet_vis (w : Bool) (p n : Nat) (e : Nat × Nat) : (edcMeet w p n s e).vis = s.vis := by
  unfold edcMeet; dsimp only [drawNat]; (repeat' split) <;> simp
@[simp] theorem edcMeet_fgs (w : Bool) (p n : Nat) (e : Nat × Nat) : (edcMeet w p n s e).fgs = s.fgs := by
  unfold edcMeet; dsimp only [drawNat]; (repeat' split) <;> simp
@[simp] theorem edcMeet_pwr (w : Bool) (p n : Nat) (e : Nat × Nat) : (edcMeet w p n s e).pwr = s.pwr := by
  unfold edcMeet; dsimp only [drawNat]; (repeat' split) <;> simp
@[simp] theorem edcMeet_hif (w : Bool) (p n : Nat) (e : Nat × Nat) : (edcMeet w p n s e).hif = s.hif := by
  unfold edcMeet; dsimp only [drawNat]; (repeat' split) <;> simp
@[simp] theorem edcMeet_tiles (w : Bool) (p n : Nat) (e : Nat × Nat) : (edcMeet w p n s e).tiles = s.tiles := by
  unfold edcMeet; dsimp only [drawNat]; (repeat' split) <;> simp
@[simp] theorem edcMeet_memx (w : Bool) (p n : Nat) (e : Nat × Nat) : (edcMeet w p n s e).memx = s.memx := by
  unfold edcMeet; dsimp only [drawNat]; (repeat' split) <;> simp
@[simp] theorem edcMeet_tfu (w : Bool) (p n : Nat) (e : Nat × Nat) : (edcMeet w p n s e).tfu = s.tfu := by
  unfold edcMeet; dsimp only [drawNat]; (repeat' split) <;> simp
@[simp] theorem edcMeet_lse (w : Bool) (p n : Nat) (e : Nat × Nat) : (edcMeet w p n s e).lse = s.lse := by
  unfold edcMeet; dsimp only [drawNat]; (repeat' split) <;> simp
@[simp] theorem edcMeet_mst (w : Bool) (p n : Nat) (e : Nat × Nat) : (edcMeet w p n s e).mst = s.mst := by
  unfold edcMeet; dsimp only [drawNat]; (repeat' split) <;> simp
@[simp] theorem edcMeet_prs (w : Bool) (p n : Nat) (e : Nat × Nat) : (edcMeet w p n s e).prs = s.prs := by
  unfold edcMeet; dsimp only [drawNat]; (repeat' split) <;> simp
@[simp] theorem edcMeet_safe (w : Bool) (p n : Nat) (e : Nat × Nat) : (edcMeet w p n s e).safe = s.safe := by
  unfold edcMeet; dsimp only [drawNat]; (repeat' split) <;> simp
@[simp] theorem edcMeet_bbx (w : Bool) (p n : Nat) (e : Nat × Nat) : (edcMeet w p n s e).bbx = s.bbx := by
  unfold edcMeet; dsimp only [drawNat]; (repeat' split) <;> simp
@[simp] theorem edcMeet_aon (w : Bool) (p n : Nat) (e : Nat × Nat) : (edcMeet w p n s e).aon = s.aon := by
  unfold edcMeet; dsimp only [drawNat]; (repeat' split) <;> simp
@[simp] theorem edcMeet_sec (w : Bool) (p n : Nat) (e : Nat × Nat) : (edcMeet w p n s e).sec = s.sec := by
  unfold edcMeet; dsimp only [drawNat]; (repeat' split) <;> simp
theorem edcMeet_read_poison (p n : Nat) (e : Nat × Nat) : (edcMeet false p n s e).poison = s.poison := by
  unfold edcMeet; dsimp only [drawNat]; (repeat' split) <;> simp_all

/-! ### noteRead -/

@[simp] theorem noteRead_pending (a n : Nat) : (noteRead s a n).pending = s.pending := by
  unfold noteRead; dsimp only
  rw [foldl_keep uncorrectable State.pending uncorrectable_pending, foldl_keep corrected State.pending corrected_pending,
    foldl_keep (edcMeet false (physAddr s a) n) State.pending fun t x => edcMeet_pending t false _ _ x]
@[simp] theorem noteRead_up (a n : Nat) : (noteRead s a n).up = s.up := by
  unfold noteRead; dsimp only
  rw [foldl_keep uncorrectable State.up uncorrectable_up, foldl_keep corrected State.up corrected_up,
    foldl_keep (edcMeet false (physAddr s a) n) State.up fun t x => edcMeet_up t false _ _ x]
@[simp] theorem noteRead_straps (a n : Nat) : (noteRead s a n).straps = s.straps := by
  unfold noteRead; dsimp only
  rw [foldl_keep uncorrectable State.straps uncorrectable_straps, foldl_keep corrected State.straps corrected_straps,
    foldl_keep (edcMeet false (physAddr s a) n) State.straps fun t x => edcMeet_straps t false _ _ x]
@[simp] theorem noteRead_gradeX (a n : Nat) : (noteRead s a n).gradeX = s.gradeX := by
  unfold noteRead; dsimp only
  rw [foldl_keep uncorrectable State.gradeX uncorrectable_gradeX, foldl_keep corrected State.gradeX corrected_gradeX,
    foldl_keep (edcMeet false (physAddr s a) n) State.gradeX fun t x => edcMeet_gradeX t false _ _ x]
@[simp] theorem noteRead_cap (a n : Nat) : (noteRead s a n).cap = s.cap := by
  unfold noteRead; dsimp only
  rw [foldl_keep uncorrectable State.cap uncorrectable_cap, foldl_keep corrected State.cap corrected_cap,
    foldl_keep (edcMeet false (physAddr s a) n) State.cap fun t x => edcMeet_cap t false _ _ x]
@[simp] theorem noteRead_capFrac (a n : Nat) : (noteRead s a n).capFrac = s.capFrac := by
  unfold noteRead; dsimp only
  rw [foldl_keep uncorrectable State.capFrac uncorrectable_capFrac, foldl_keep corrected State.capFrac corrected_capFrac,
    foldl_keep (edcMeet false (physAddr s a) n) State.capFrac fun t x => edcMeet_capFrac t false _ _ x]
@[simp] theorem noteRead_rdata (a n : Nat) : (noteRead s a n).rdata = s.rdata := by
  unfold noteRead; dsimp only
  rw [foldl_keep uncorrectable State.rdata uncorrectable_rdata, foldl_keep corrected State.rdata corrected_rdata,
    foldl_keep (edcMeet false (physAddr s a) n) State.rdata fun t x => edcMeet_rdata t false _ _ x]
@[simp] theorem noteRead_mem (a n : Nat) : (noteRead s a n).mem = s.mem := by
  unfold noteRead; dsimp only
  rw [foldl_keep uncorrectable State.mem uncorrectable_mem, foldl_keep corrected State.mem corrected_mem,
    foldl_keep (edcMeet false (physAddr s a) n) State.mem fun t x => edcMeet_mem t false _ _ x]
@[simp] theorem noteRead_heldWrites (a n : Nat) : (noteRead s a n).heldWrites = s.heldWrites := by
  unfold noteRead; dsimp only
  rw [foldl_keep uncorrectable State.heldWrites uncorrectable_heldWrites, foldl_keep corrected State.heldWrites corrected_heldWrites,
    foldl_keep (edcMeet false (physAddr s a) n) State.heldWrites fun t x => edcMeet_heldWrites t false _ _ x]
@[simp] theorem noteRead_msixSent (a n : Nat) : (noteRead s a n).msixSent = s.msixSent := by
  unfold noteRead; dsimp only
  rw [foldl_keep uncorrectable State.msixSent uncorrectable_msixSent, foldl_keep corrected State.msixSent corrected_msixSent,
    foldl_keep (edcMeet false (physAddr s a) n) State.msixSent fun t x => edcMeet_msixSent t false _ _ x]
@[simp] theorem noteRead_evtNext (a n : Nat) : (noteRead s a n).evtNext = s.evtNext := by
  unfold noteRead; dsimp only
  rw [foldl_keep uncorrectable State.evtNext uncorrectable_evtNext, foldl_keep corrected State.evtNext corrected_evtNext,
    foldl_keep (edcMeet false (physAddr s a) n) State.evtNext fun t x => edcMeet_evtNext t false _ _ x]
@[simp] theorem noteRead_bbxQueue (a n : Nat) : (noteRead s a n).bbxQueue = s.bbxQueue := by
  unfold noteRead; dsimp only
  rw [foldl_keep uncorrectable State.bbxQueue uncorrectable_bbxQueue, foldl_keep corrected State.bbxQueue corrected_bbxQueue,
    foldl_keep (edcMeet false (physAddr s a) n) State.bbxQueue fun t x => edcMeet_bbxQueue t false _ _ x]
@[simp] theorem noteRead_gated (a n : Nat) : (noteRead s a n).gated = s.gated := by
  unfold noteRead; dsimp only
  rw [foldl_keep uncorrectable State.gated uncorrectable_gated, foldl_keep corrected State.gated corrected_gated,
    foldl_keep (edcMeet false (physAddr s a) n) State.gated fun t x => edcMeet_gated t false _ _ x]
@[simp] theorem noteRead_dt (a n : Nat) : (noteRead s a n).dt = s.dt := by
  unfold noteRead; dsimp only
  rw [foldl_keep uncorrectable State.dt uncorrectable_dt, foldl_keep corrected State.dt corrected_dt,
    foldl_keep (edcMeet false (physAddr s a) n) State.dt fun t x => edcMeet_dt t false _ _ x]
@[simp] theorem noteRead_ptp (a n : Nat) : (noteRead s a n).ptp = s.ptp := by
  unfold noteRead; dsimp only
  rw [foldl_keep uncorrectable State.ptp uncorrectable_ptp, foldl_keep corrected State.ptp corrected_ptp,
    foldl_keep (edcMeet false (physAddr s a) n) State.ptp fun t x => edcMeet_ptp t false _ _ x]
@[simp] theorem noteRead_sg (a n : Nat) : (noteRead s a n).sg = s.sg := by
  unfold noteRead; dsimp only
  rw [foldl_keep uncorrectable State.sg uncorrectable_sg, foldl_keep corrected State.sg corrected_sg,
    foldl_keep (edcMeet false (physAddr s a) n) State.sg fun t x => edcMeet_sg t false _ _ x]
@[simp] theorem noteRead_sem (a n : Nat) : (noteRead s a n).sem = s.sem := by
  unfold noteRead; dsimp only
  rw [foldl_keep uncorrectable State.sem uncorrectable_sem, foldl_keep corrected State.sem corrected_sem,
    foldl_keep (edcMeet false (physAddr s a) n) State.sem fun t x => edcMeet_sem t false _ _ x]
@[simp] theorem noteRead_evc (a n : Nat) : (noteRead s a n).evc = s.evc := by
  unfold noteRead; dsimp only
  rw [foldl_keep uncorrectable State.evc uncorrectable_evc, foldl_keep corrected State.evc corrected_evc,
    foldl_keep (edcMeet false (physAddr s a) n) State.evc fun t x => edcMeet_evc t false _ _ x]
@[simp] theorem noteRead_ing (a n : Nat) : (noteRead s a n).ing = s.ing := by
  unfold noteRead; dsimp only
  rw [foldl_keep uncorrectable State.ing uncorrectable_ing, foldl_keep corrected State.ing corrected_ing,
    foldl_keep (edcMeet false (physAddr s a) n) State.ing fun t x => edcMeet_ing t false _ _ x]
@[simp] theorem noteRead_ifc (a n : Nat) : (noteRead s a n).ifc = s.ifc := by
  unfold noteRead; dsimp only
  rw [foldl_keep uncorrectable State.ifc uncorrectable_ifc, foldl_keep corrected State.ifc corrected_ifc,
    foldl_keep (edcMeet false (physAddr s a) n) State.ifc fun t x => edcMeet_ifc t false _ _ x]
@[simp] theorem noteRead_vis (a n : Nat) : (noteRead s a n).vis = s.vis := by
  unfold noteRead; dsimp only
  rw [foldl_keep uncorrectable State.vis uncorrectable_vis, foldl_keep corrected State.vis corrected_vis,
    foldl_keep (edcMeet false (physAddr s a) n) State.vis fun t x => edcMeet_vis t false _ _ x]
@[simp] theorem noteRead_fgs (a n : Nat) : (noteRead s a n).fgs = s.fgs := by
  unfold noteRead; dsimp only
  rw [foldl_keep uncorrectable State.fgs uncorrectable_fgs, foldl_keep corrected State.fgs corrected_fgs,
    foldl_keep (edcMeet false (physAddr s a) n) State.fgs fun t x => edcMeet_fgs t false _ _ x]
@[simp] theorem noteRead_pwr (a n : Nat) : (noteRead s a n).pwr = s.pwr := by
  unfold noteRead; dsimp only
  rw [foldl_keep uncorrectable State.pwr uncorrectable_pwr, foldl_keep corrected State.pwr corrected_pwr,
    foldl_keep (edcMeet false (physAddr s a) n) State.pwr fun t x => edcMeet_pwr t false _ _ x]
@[simp] theorem noteRead_hif (a n : Nat) : (noteRead s a n).hif = s.hif := by
  unfold noteRead; dsimp only
  rw [foldl_keep uncorrectable State.hif uncorrectable_hif, foldl_keep corrected State.hif corrected_hif,
    foldl_keep (edcMeet false (physAddr s a) n) State.hif fun t x => edcMeet_hif t false _ _ x]
@[simp] theorem noteRead_tiles (a n : Nat) : (noteRead s a n).tiles = s.tiles := by
  unfold noteRead; dsimp only
  rw [foldl_keep uncorrectable State.tiles uncorrectable_tiles, foldl_keep corrected State.tiles corrected_tiles,
    foldl_keep (edcMeet false (physAddr s a) n) State.tiles fun t x => edcMeet_tiles t false _ _ x]
@[simp] theorem noteRead_memx (a n : Nat) : (noteRead s a n).memx = s.memx := by
  unfold noteRead; dsimp only
  rw [foldl_keep uncorrectable State.memx uncorrectable_memx, foldl_keep corrected State.memx corrected_memx,
    foldl_keep (edcMeet false (physAddr s a) n) State.memx fun t x => edcMeet_memx t false _ _ x]
@[simp] theorem noteRead_tfu (a n : Nat) : (noteRead s a n).tfu = s.tfu := by
  unfold noteRead; dsimp only
  rw [foldl_keep uncorrectable State.tfu uncorrectable_tfu, foldl_keep corrected State.tfu corrected_tfu,
    foldl_keep (edcMeet false (physAddr s a) n) State.tfu fun t x => edcMeet_tfu t false _ _ x]
@[simp] theorem noteRead_lse (a n : Nat) : (noteRead s a n).lse = s.lse := by
  unfold noteRead; dsimp only
  rw [foldl_keep uncorrectable State.lse uncorrectable_lse, foldl_keep corrected State.lse corrected_lse,
    foldl_keep (edcMeet false (physAddr s a) n) State.lse fun t x => edcMeet_lse t false _ _ x]
@[simp] theorem noteRead_mst (a n : Nat) : (noteRead s a n).mst = s.mst := by
  unfold noteRead; dsimp only
  rw [foldl_keep uncorrectable State.mst uncorrectable_mst, foldl_keep corrected State.mst corrected_mst,
    foldl_keep (edcMeet false (physAddr s a) n) State.mst fun t x => edcMeet_mst t false _ _ x]
@[simp] theorem noteRead_prs (a n : Nat) : (noteRead s a n).prs = s.prs := by
  unfold noteRead; dsimp only
  rw [foldl_keep uncorrectable State.prs uncorrectable_prs, foldl_keep corrected State.prs corrected_prs,
    foldl_keep (edcMeet false (physAddr s a) n) State.prs fun t x => edcMeet_prs t false _ _ x]
@[simp] theorem noteRead_safe (a n : Nat) : (noteRead s a n).safe = s.safe := by
  unfold noteRead; dsimp only
  rw [foldl_keep uncorrectable State.safe uncorrectable_safe, foldl_keep corrected State.safe corrected_safe,
    foldl_keep (edcMeet false (physAddr s a) n) State.safe fun t x => edcMeet_safe t false _ _ x]
@[simp] theorem noteRead_bbx (a n : Nat) : (noteRead s a n).bbx = s.bbx := by
  unfold noteRead; dsimp only
  rw [foldl_keep uncorrectable State.bbx uncorrectable_bbx, foldl_keep corrected State.bbx corrected_bbx,
    foldl_keep (edcMeet false (physAddr s a) n) State.bbx fun t x => edcMeet_bbx t false _ _ x]
@[simp] theorem noteRead_aon (a n : Nat) : (noteRead s a n).aon = s.aon := by
  unfold noteRead; dsimp only
  rw [foldl_keep uncorrectable State.aon uncorrectable_aon, foldl_keep corrected State.aon corrected_aon,
    foldl_keep (edcMeet false (physAddr s a) n) State.aon fun t x => edcMeet_aon t false _ _ x]
@[simp] theorem noteRead_sec (a n : Nat) : (noteRead s a n).sec = s.sec := by
  unfold noteRead; dsimp only
  rw [foldl_keep uncorrectable State.sec uncorrectable_sec, foldl_keep corrected State.sec corrected_sec,
    foldl_keep (edcMeet false (physAddr s a) n) State.sec fun t x => edcMeet_sec t false _ _ x]
theorem noteRead_frame (a n : Nat) : noteRead s a n = { s with regs := (noteRead s a n).regs, fresh := (noteRead s a n).fresh, edc := (noteRead s a n).edc, flips := (noteRead s a n).flips, poison := (noteRead s a n).poison } := by
  apply State.ext_fields <;> simp

@[simp] theorem noteRead_poison (a n : Nat) : (noteRead s a n).poison = s.poison := by
  unfold noteRead; dsimp only
  rw [foldl_keep uncorrectable State.poison uncorrectable_poison, foldl_keep corrected State.poison corrected_poison,
    foldl_keep (edcMeet false (physAddr s a) n) State.poison fun t x => edcMeet_read_poison t _ _ x]

/-! ### noteWrite -/

@[simp] theorem noteWrite_pending (p n : Nat) : (noteWrite s p n).pending = s.pending := by
  unfold noteWrite; dsimp only
  rw [foldl_keep (edcMeet true p n) State.pending fun t x => edcMeet_pending t true _ _ x]
  dsimp only
  rw [foldl_keep uncorrectable State.pending uncorrectable_pending, foldl_keep corrected State.pending corrected_pending]
@[simp] theorem noteWrite_up (p n : Nat) : (noteWrite s p n).up = s.up := by
  unfold noteWrite; dsimp only
  rw [foldl_keep (edcMeet true p n) State.up fun t x => edcMeet_up t true _ _ x]
  dsimp only
  rw [foldl_keep uncorrectable State.up uncorrectable_up, foldl_keep corrected State.up corrected_up]
@[simp] theorem noteWrite_straps (p n : Nat) : (noteWrite s p n).straps = s.straps := by
  unfold noteWrite; dsimp only
  rw [foldl_keep (edcMeet true p n) State.straps fun t x => edcMeet_straps t true _ _ x]
  dsimp only
  rw [foldl_keep uncorrectable State.straps uncorrectable_straps, foldl_keep corrected State.straps corrected_straps]
@[simp] theorem noteWrite_gradeX (p n : Nat) : (noteWrite s p n).gradeX = s.gradeX := by
  unfold noteWrite; dsimp only
  rw [foldl_keep (edcMeet true p n) State.gradeX fun t x => edcMeet_gradeX t true _ _ x]
  dsimp only
  rw [foldl_keep uncorrectable State.gradeX uncorrectable_gradeX, foldl_keep corrected State.gradeX corrected_gradeX]
@[simp] theorem noteWrite_cap (p n : Nat) : (noteWrite s p n).cap = s.cap := by
  unfold noteWrite; dsimp only
  rw [foldl_keep (edcMeet true p n) State.cap fun t x => edcMeet_cap t true _ _ x]
  dsimp only
  rw [foldl_keep uncorrectable State.cap uncorrectable_cap, foldl_keep corrected State.cap corrected_cap]
@[simp] theorem noteWrite_capFrac (p n : Nat) : (noteWrite s p n).capFrac = s.capFrac := by
  unfold noteWrite; dsimp only
  rw [foldl_keep (edcMeet true p n) State.capFrac fun t x => edcMeet_capFrac t true _ _ x]
  dsimp only
  rw [foldl_keep uncorrectable State.capFrac uncorrectable_capFrac, foldl_keep corrected State.capFrac corrected_capFrac]
@[simp] theorem noteWrite_rdata (p n : Nat) : (noteWrite s p n).rdata = s.rdata := by
  unfold noteWrite; dsimp only
  rw [foldl_keep (edcMeet true p n) State.rdata fun t x => edcMeet_rdata t true _ _ x]
  dsimp only
  rw [foldl_keep uncorrectable State.rdata uncorrectable_rdata, foldl_keep corrected State.rdata corrected_rdata]
@[simp] theorem noteWrite_mem (p n : Nat) : (noteWrite s p n).mem = s.mem := by
  unfold noteWrite; dsimp only
  rw [foldl_keep (edcMeet true p n) State.mem fun t x => edcMeet_mem t true _ _ x]
  dsimp only
  rw [foldl_keep uncorrectable State.mem uncorrectable_mem, foldl_keep corrected State.mem corrected_mem]
@[simp] theorem noteWrite_heldWrites (p n : Nat) : (noteWrite s p n).heldWrites = s.heldWrites := by
  unfold noteWrite; dsimp only
  rw [foldl_keep (edcMeet true p n) State.heldWrites fun t x => edcMeet_heldWrites t true _ _ x]
  dsimp only
  rw [foldl_keep uncorrectable State.heldWrites uncorrectable_heldWrites, foldl_keep corrected State.heldWrites corrected_heldWrites]
@[simp] theorem noteWrite_msixSent (p n : Nat) : (noteWrite s p n).msixSent = s.msixSent := by
  unfold noteWrite; dsimp only
  rw [foldl_keep (edcMeet true p n) State.msixSent fun t x => edcMeet_msixSent t true _ _ x]
  dsimp only
  rw [foldl_keep uncorrectable State.msixSent uncorrectable_msixSent, foldl_keep corrected State.msixSent corrected_msixSent]
@[simp] theorem noteWrite_evtNext (p n : Nat) : (noteWrite s p n).evtNext = s.evtNext := by
  unfold noteWrite; dsimp only
  rw [foldl_keep (edcMeet true p n) State.evtNext fun t x => edcMeet_evtNext t true _ _ x]
  dsimp only
  rw [foldl_keep uncorrectable State.evtNext uncorrectable_evtNext, foldl_keep corrected State.evtNext corrected_evtNext]
@[simp] theorem noteWrite_bbxQueue (p n : Nat) : (noteWrite s p n).bbxQueue = s.bbxQueue := by
  unfold noteWrite; dsimp only
  rw [foldl_keep (edcMeet true p n) State.bbxQueue fun t x => edcMeet_bbxQueue t true _ _ x]
  dsimp only
  rw [foldl_keep uncorrectable State.bbxQueue uncorrectable_bbxQueue, foldl_keep corrected State.bbxQueue corrected_bbxQueue]
@[simp] theorem noteWrite_gated (p n : Nat) : (noteWrite s p n).gated = s.gated := by
  unfold noteWrite; dsimp only
  rw [foldl_keep (edcMeet true p n) State.gated fun t x => edcMeet_gated t true _ _ x]
  dsimp only
  rw [foldl_keep uncorrectable State.gated uncorrectable_gated, foldl_keep corrected State.gated corrected_gated]
@[simp] theorem noteWrite_dt (p n : Nat) : (noteWrite s p n).dt = s.dt := by
  unfold noteWrite; dsimp only
  rw [foldl_keep (edcMeet true p n) State.dt fun t x => edcMeet_dt t true _ _ x]
  dsimp only
  rw [foldl_keep uncorrectable State.dt uncorrectable_dt, foldl_keep corrected State.dt corrected_dt]
@[simp] theorem noteWrite_ptp (p n : Nat) : (noteWrite s p n).ptp = s.ptp := by
  unfold noteWrite; dsimp only
  rw [foldl_keep (edcMeet true p n) State.ptp fun t x => edcMeet_ptp t true _ _ x]
  dsimp only
  rw [foldl_keep uncorrectable State.ptp uncorrectable_ptp, foldl_keep corrected State.ptp corrected_ptp]
@[simp] theorem noteWrite_sg (p n : Nat) : (noteWrite s p n).sg = s.sg := by
  unfold noteWrite; dsimp only
  rw [foldl_keep (edcMeet true p n) State.sg fun t x => edcMeet_sg t true _ _ x]
  dsimp only
  rw [foldl_keep uncorrectable State.sg uncorrectable_sg, foldl_keep corrected State.sg corrected_sg]
@[simp] theorem noteWrite_sem (p n : Nat) : (noteWrite s p n).sem = s.sem := by
  unfold noteWrite; dsimp only
  rw [foldl_keep (edcMeet true p n) State.sem fun t x => edcMeet_sem t true _ _ x]
  dsimp only
  rw [foldl_keep uncorrectable State.sem uncorrectable_sem, foldl_keep corrected State.sem corrected_sem]
@[simp] theorem noteWrite_evc (p n : Nat) : (noteWrite s p n).evc = s.evc := by
  unfold noteWrite; dsimp only
  rw [foldl_keep (edcMeet true p n) State.evc fun t x => edcMeet_evc t true _ _ x]
  dsimp only
  rw [foldl_keep uncorrectable State.evc uncorrectable_evc, foldl_keep corrected State.evc corrected_evc]
@[simp] theorem noteWrite_ing (p n : Nat) : (noteWrite s p n).ing = s.ing := by
  unfold noteWrite; dsimp only
  rw [foldl_keep (edcMeet true p n) State.ing fun t x => edcMeet_ing t true _ _ x]
  dsimp only
  rw [foldl_keep uncorrectable State.ing uncorrectable_ing, foldl_keep corrected State.ing corrected_ing]
@[simp] theorem noteWrite_ifc (p n : Nat) : (noteWrite s p n).ifc = s.ifc := by
  unfold noteWrite; dsimp only
  rw [foldl_keep (edcMeet true p n) State.ifc fun t x => edcMeet_ifc t true _ _ x]
  dsimp only
  rw [foldl_keep uncorrectable State.ifc uncorrectable_ifc, foldl_keep corrected State.ifc corrected_ifc]
@[simp] theorem noteWrite_vis (p n : Nat) : (noteWrite s p n).vis = s.vis := by
  unfold noteWrite; dsimp only
  rw [foldl_keep (edcMeet true p n) State.vis fun t x => edcMeet_vis t true _ _ x]
  dsimp only
  rw [foldl_keep uncorrectable State.vis uncorrectable_vis, foldl_keep corrected State.vis corrected_vis]
@[simp] theorem noteWrite_fgs (p n : Nat) : (noteWrite s p n).fgs = s.fgs := by
  unfold noteWrite; dsimp only
  rw [foldl_keep (edcMeet true p n) State.fgs fun t x => edcMeet_fgs t true _ _ x]
  dsimp only
  rw [foldl_keep uncorrectable State.fgs uncorrectable_fgs, foldl_keep corrected State.fgs corrected_fgs]
@[simp] theorem noteWrite_pwr (p n : Nat) : (noteWrite s p n).pwr = s.pwr := by
  unfold noteWrite; dsimp only
  rw [foldl_keep (edcMeet true p n) State.pwr fun t x => edcMeet_pwr t true _ _ x]
  dsimp only
  rw [foldl_keep uncorrectable State.pwr uncorrectable_pwr, foldl_keep corrected State.pwr corrected_pwr]
@[simp] theorem noteWrite_hif (p n : Nat) : (noteWrite s p n).hif = s.hif := by
  unfold noteWrite; dsimp only
  rw [foldl_keep (edcMeet true p n) State.hif fun t x => edcMeet_hif t true _ _ x]
  dsimp only
  rw [foldl_keep uncorrectable State.hif uncorrectable_hif, foldl_keep corrected State.hif corrected_hif]
@[simp] theorem noteWrite_tiles (p n : Nat) : (noteWrite s p n).tiles = s.tiles := by
  unfold noteWrite; dsimp only
  rw [foldl_keep (edcMeet true p n) State.tiles fun t x => edcMeet_tiles t true _ _ x]
  dsimp only
  rw [foldl_keep uncorrectable State.tiles uncorrectable_tiles, foldl_keep corrected State.tiles corrected_tiles]
@[simp] theorem noteWrite_memx (p n : Nat) : (noteWrite s p n).memx = s.memx := by
  unfold noteWrite; dsimp only
  rw [foldl_keep (edcMeet true p n) State.memx fun t x => edcMeet_memx t true _ _ x]
  dsimp only
  rw [foldl_keep uncorrectable State.memx uncorrectable_memx, foldl_keep corrected State.memx corrected_memx]
@[simp] theorem noteWrite_tfu (p n : Nat) : (noteWrite s p n).tfu = s.tfu := by
  unfold noteWrite; dsimp only
  rw [foldl_keep (edcMeet true p n) State.tfu fun t x => edcMeet_tfu t true _ _ x]
  dsimp only
  rw [foldl_keep uncorrectable State.tfu uncorrectable_tfu, foldl_keep corrected State.tfu corrected_tfu]
@[simp] theorem noteWrite_lse (p n : Nat) : (noteWrite s p n).lse = s.lse := by
  unfold noteWrite; dsimp only
  rw [foldl_keep (edcMeet true p n) State.lse fun t x => edcMeet_lse t true _ _ x]
  dsimp only
  rw [foldl_keep uncorrectable State.lse uncorrectable_lse, foldl_keep corrected State.lse corrected_lse]
@[simp] theorem noteWrite_mst (p n : Nat) : (noteWrite s p n).mst = s.mst := by
  unfold noteWrite; dsimp only
  rw [foldl_keep (edcMeet true p n) State.mst fun t x => edcMeet_mst t true _ _ x]
  dsimp only
  rw [foldl_keep uncorrectable State.mst uncorrectable_mst, foldl_keep corrected State.mst corrected_mst]
@[simp] theorem noteWrite_prs (p n : Nat) : (noteWrite s p n).prs = s.prs := by
  unfold noteWrite; dsimp only
  rw [foldl_keep (edcMeet true p n) State.prs fun t x => edcMeet_prs t true _ _ x]
  dsimp only
  rw [foldl_keep uncorrectable State.prs uncorrectable_prs, foldl_keep corrected State.prs corrected_prs]
@[simp] theorem noteWrite_safe (p n : Nat) : (noteWrite s p n).safe = s.safe := by
  unfold noteWrite; dsimp only
  rw [foldl_keep (edcMeet true p n) State.safe fun t x => edcMeet_safe t true _ _ x]
  dsimp only
  rw [foldl_keep uncorrectable State.safe uncorrectable_safe, foldl_keep corrected State.safe corrected_safe]
@[simp] theorem noteWrite_bbx (p n : Nat) : (noteWrite s p n).bbx = s.bbx := by
  unfold noteWrite; dsimp only
  rw [foldl_keep (edcMeet true p n) State.bbx fun t x => edcMeet_bbx t true _ _ x]
  dsimp only
  rw [foldl_keep uncorrectable State.bbx uncorrectable_bbx, foldl_keep corrected State.bbx corrected_bbx]
@[simp] theorem noteWrite_aon (p n : Nat) : (noteWrite s p n).aon = s.aon := by
  unfold noteWrite; dsimp only
  rw [foldl_keep (edcMeet true p n) State.aon fun t x => edcMeet_aon t true _ _ x]
  dsimp only
  rw [foldl_keep uncorrectable State.aon uncorrectable_aon, foldl_keep corrected State.aon corrected_aon]
@[simp] theorem noteWrite_sec (p n : Nat) : (noteWrite s p n).sec = s.sec := by
  unfold noteWrite; dsimp only
  rw [foldl_keep (edcMeet true p n) State.sec fun t x => edcMeet_sec t true _ _ x]
  dsimp only
  rw [foldl_keep uncorrectable State.sec uncorrectable_sec, foldl_keep corrected State.sec corrected_sec]
theorem noteWrite_frame (p n : Nat) : noteWrite s p n = { s with regs := (noteWrite s p n).regs, fresh := (noteWrite s p n).fresh, edc := (noteWrite s p n).edc, flips := (noteWrite s p n).flips, poison := (noteWrite s p n).poison } := by
  apply State.ext_fields <;> simp

/-! ### glideErr -/

@[simp] theorem glideErr_pending  : (glideErr s ).pending = s.pending := by simp [glideErr]
@[simp] theorem glideErr_up  : (glideErr s ).up = s.up := by simp [glideErr]
@[simp] theorem glideErr_straps  : (glideErr s ).straps = s.straps := by simp [glideErr]
@[simp] theorem glideErr_gradeX  : (glideErr s ).gradeX = s.gradeX := by simp [glideErr]
@[simp] theorem glideErr_cap  : (glideErr s ).cap = s.cap := by simp [glideErr]
@[simp] theorem glideErr_capFrac  : (glideErr s ).capFrac = s.capFrac := by simp [glideErr]
@[simp] theorem glideErr_rdata  : (glideErr s ).rdata = s.rdata := by simp [glideErr]
@[simp] theorem glideErr_mem  : (glideErr s ).mem = s.mem := by simp [glideErr]
@[simp] theorem glideErr_poison  : (glideErr s ).poison = s.poison := by simp [glideErr]
@[simp] theorem glideErr_flips  : (glideErr s ).flips = s.flips := by simp [glideErr]
@[simp] theorem glideErr_edc  : (glideErr s ).edc = s.edc := by simp [glideErr]
@[simp] theorem glideErr_heldWrites  : (glideErr s ).heldWrites = s.heldWrites := by simp [glideErr]
@[simp] theorem glideErr_msixSent  : (glideErr s ).msixSent = s.msixSent := by simp [glideErr]
@[simp] theorem glideErr_evtNext  : (glideErr s ).evtNext = s.evtNext := by simp [glideErr]
@[simp] theorem glideErr_bbxQueue  : (glideErr s ).bbxQueue = s.bbxQueue := by simp [glideErr]
@[simp] theorem glideErr_gated  : (glideErr s ).gated = s.gated := by simp [glideErr]
@[simp] theorem glideErr_dt  : (glideErr s ).dt = s.dt := by simp [glideErr]
@[simp] theorem glideErr_ptp  : (glideErr s ).ptp = s.ptp := by simp [glideErr]
@[simp] theorem glideErr_sg  : (glideErr s ).sg = s.sg := by simp [glideErr]
@[simp] theorem glideErr_sem  : (glideErr s ).sem = s.sem := by simp [glideErr]
@[simp] theorem glideErr_evc  : (glideErr s ).evc = s.evc := by simp [glideErr]
@[simp] theorem glideErr_ing  : (glideErr s ).ing = s.ing := by simp [glideErr]
@[simp] theorem glideErr_ifc  : (glideErr s ).ifc = s.ifc := by simp [glideErr]
@[simp] theorem glideErr_vis  : (glideErr s ).vis = s.vis := by simp [glideErr]
@[simp] theorem glideErr_fgs  : (glideErr s ).fgs = s.fgs := by simp [glideErr]
@[simp] theorem glideErr_pwr  : (glideErr s ).pwr = s.pwr := by simp [glideErr]
@[simp] theorem glideErr_hif  : (glideErr s ).hif = s.hif := by simp [glideErr]
@[simp] theorem glideErr_tiles  : (glideErr s ).tiles = s.tiles := by simp [glideErr]
@[simp] theorem glideErr_memx  : (glideErr s ).memx = s.memx := by simp [glideErr]
@[simp] theorem glideErr_tfu  : (glideErr s ).tfu = s.tfu := by simp [glideErr]
@[simp] theorem glideErr_lse  : (glideErr s ).lse = s.lse := by simp [glideErr]
@[simp] theorem glideErr_mst  : (glideErr s ).mst = s.mst := by simp [glideErr]
@[simp] theorem glideErr_prs  : (glideErr s ).prs = s.prs := by simp [glideErr]
@[simp] theorem glideErr_safe  : (glideErr s ).safe = s.safe := by simp [glideErr]
@[simp] theorem glideErr_bbx  : (glideErr s ).bbx = s.bbx := by simp [glideErr]
@[simp] theorem glideErr_aon  : (glideErr s ).aon = s.aon := by simp [glideErr]
@[simp] theorem glideErr_sec  : (glideErr s ).sec = s.sec := by simp [glideErr]
theorem glideErr_frame  : glideErr s  = { s with regs := (glideErr s ).regs, fresh := (glideErr s ).fresh } := by
  apply State.ext_fields <;> simp

/-! ### stByte -/

@[simp] theorem stByte_pending (a : Nat) (b : Byte) : (stByte s a b).pending = s.pending := by unfold stByte; (repeat' split) <;> simp [stPhys]
@[simp] theorem stByte_up (a : Nat) (b : Byte) : (stByte s a b).up = s.up := by unfold stByte; (repeat' split) <;> simp [stPhys]
@[simp] theorem stByte_straps (a : Nat) (b : Byte) : (stByte s a b).straps = s.straps := by unfold stByte; (repeat' split) <;> simp [stPhys]
@[simp] theorem stByte_gradeX (a : Nat) (b : Byte) : (stByte s a b).gradeX = s.gradeX := by unfold stByte; (repeat' split) <;> simp [stPhys]
@[simp] theorem stByte_cap (a : Nat) (b : Byte) : (stByte s a b).cap = s.cap := by unfold stByte; (repeat' split) <;> simp [stPhys]
@[simp] theorem stByte_capFrac (a : Nat) (b : Byte) : (stByte s a b).capFrac = s.capFrac := by unfold stByte; (repeat' split) <;> simp [stPhys]
@[simp] theorem stByte_rdata (a : Nat) (b : Byte) : (stByte s a b).rdata = s.rdata := by unfold stByte; (repeat' split) <;> simp [stPhys]
@[simp] theorem stByte_poison (a : Nat) (b : Byte) : (stByte s a b).poison = s.poison := by unfold stByte; (repeat' split) <;> simp [stPhys]
@[simp] theorem stByte_flips (a : Nat) (b : Byte) : (stByte s a b).flips = s.flips := by unfold stByte; (repeat' split) <;> simp [stPhys]
@[simp] theorem stByte_edc (a : Nat) (b : Byte) : (stByte s a b).edc = s.edc := by unfold stByte; (repeat' split) <;> simp [stPhys]
@[simp] theorem stByte_msixSent (a : Nat) (b : Byte) : (stByte s a b).msixSent = s.msixSent := by unfold stByte; (repeat' split) <;> simp [stPhys]
@[simp] theorem stByte_evtNext (a : Nat) (b : Byte) : (stByte s a b).evtNext = s.evtNext := by unfold stByte; (repeat' split) <;> simp [stPhys]
@[simp] theorem stByte_bbxQueue (a : Nat) (b : Byte) : (stByte s a b).bbxQueue = s.bbxQueue := by unfold stByte; (repeat' split) <;> simp [stPhys]
@[simp] theorem stByte_gated (a : Nat) (b : Byte) : (stByte s a b).gated = s.gated := by unfold stByte; (repeat' split) <;> simp [stPhys]
@[simp] theorem stByte_dt (a : Nat) (b : Byte) : (stByte s a b).dt = s.dt := by unfold stByte; (repeat' split) <;> simp [stPhys]
@[simp] theorem stByte_ptp (a : Nat) (b : Byte) : (stByte s a b).ptp = s.ptp := by unfold stByte; (repeat' split) <;> simp [stPhys]
@[simp] theorem stByte_sg (a : Nat) (b : Byte) : (stByte s a b).sg = s.sg := by unfold stByte; (repeat' split) <;> simp [stPhys]
@[simp] theorem stByte_sem (a : Nat) (b : Byte) : (stByte s a b).sem = s.sem := by unfold stByte; (repeat' split) <;> simp [stPhys]
@[simp] theorem stByte_evc (a : Nat) (b : Byte) : (stByte s a b).evc = s.evc := by unfold stByte; (repeat' split) <;> simp [stPhys]
@[simp] theorem stByte_ing (a : Nat) (b : Byte) : (stByte s a b).ing = s.ing := by unfold stByte; (repeat' split) <;> simp [stPhys]
@[simp] theorem stByte_ifc (a : Nat) (b : Byte) : (stByte s a b).ifc = s.ifc := by unfold stByte; (repeat' split) <;> simp [stPhys]
@[simp] theorem stByte_vis (a : Nat) (b : Byte) : (stByte s a b).vis = s.vis := by unfold stByte; (repeat' split) <;> simp [stPhys]
@[simp] theorem stByte_fgs (a : Nat) (b : Byte) : (stByte s a b).fgs = s.fgs := by unfold stByte; (repeat' split) <;> simp [stPhys]
@[simp] theorem stByte_pwr (a : Nat) (b : Byte) : (stByte s a b).pwr = s.pwr := by unfold stByte; (repeat' split) <;> simp [stPhys]
@[simp] theorem stByte_hif (a : Nat) (b : Byte) : (stByte s a b).hif = s.hif := by unfold stByte; (repeat' split) <;> simp [stPhys]
@[simp] theorem stByte_tiles (a : Nat) (b : Byte) : (stByte s a b).tiles = s.tiles := by unfold stByte; (repeat' split) <;> simp [stPhys]
@[simp] theorem stByte_memx (a : Nat) (b : Byte) : (stByte s a b).memx = s.memx := by unfold stByte; (repeat' split) <;> simp [stPhys]
@[simp] theorem stByte_tfu (a : Nat) (b : Byte) : (stByte s a b).tfu = s.tfu := by unfold stByte; (repeat' split) <;> simp [stPhys]
@[simp] theorem stByte_lse (a : Nat) (b : Byte) : (stByte s a b).lse = s.lse := by unfold stByte; (repeat' split) <;> simp [stPhys]
@[simp] theorem stByte_mst (a : Nat) (b : Byte) : (stByte s a b).mst = s.mst := by unfold stByte; (repeat' split) <;> simp [stPhys]
@[simp] theorem stByte_prs (a : Nat) (b : Byte) : (stByte s a b).prs = s.prs := by unfold stByte; (repeat' split) <;> simp [stPhys]
@[simp] theorem stByte_safe (a : Nat) (b : Byte) : (stByte s a b).safe = s.safe := by unfold stByte; (repeat' split) <;> simp [stPhys]
@[simp] theorem stByte_bbx (a : Nat) (b : Byte) : (stByte s a b).bbx = s.bbx := by unfold stByte; (repeat' split) <;> simp [stPhys]
@[simp] theorem stByte_aon (a : Nat) (b : Byte) : (stByte s a b).aon = s.aon := by unfold stByte; (repeat' split) <;> simp [stPhys]
@[simp] theorem stByte_sec (a : Nat) (b : Byte) : (stByte s a b).sec = s.sec := by unfold stByte; (repeat' split) <;> simp [stPhys]
theorem stByte_frame (a : Nat) (b : Byte) : stByte s a b = { s with mem := (stByte s a b).mem, heldWrites := (stByte s a b).heldWrites, regs := (stByte s a b).regs, fresh := (stByte s a b).fresh } := by
  apply State.ext_fields <;> simp

/-! ### stAll -/

@[simp] theorem stAll_pending (a : Nat) (l : List Byte) : (stAll s a l).pending = s.pending := by
  induction l generalizing s a with
  | nil => rfl
  | cons b l ih => simp [stAll, ih]
@[simp] theorem stAll_up (a : Nat) (l : List Byte) : (stAll s a l).up = s.up := by
  induction l generalizing s a with
  | nil => rfl
  | cons b l ih => simp [stAll, ih]
@[simp] theorem stAll_straps (a : Nat) (l : List Byte) : (stAll s a l).straps = s.straps := by
  induction l generalizing s a with
  | nil => rfl
  | cons b l ih => simp [stAll, ih]
@[simp] theorem stAll_gradeX (a : Nat) (l : List Byte) : (stAll s a l).gradeX = s.gradeX := by
  induction l generalizing s a with
  | nil => rfl
  | cons b l ih => simp [stAll, ih]
@[simp] theorem stAll_cap (a : Nat) (l : List Byte) : (stAll s a l).cap = s.cap := by
  induction l generalizing s a with
  | nil => rfl
  | cons b l ih => simp [stAll, ih]
@[simp] theorem stAll_capFrac (a : Nat) (l : List Byte) : (stAll s a l).capFrac = s.capFrac := by
  induction l generalizing s a with
  | nil => rfl
  | cons b l ih => simp [stAll, ih]
@[simp] theorem stAll_rdata (a : Nat) (l : List Byte) : (stAll s a l).rdata = s.rdata := by
  induction l generalizing s a with
  | nil => rfl
  | cons b l ih => simp [stAll, ih]
@[simp] theorem stAll_poison (a : Nat) (l : List Byte) : (stAll s a l).poison = s.poison := by
  induction l generalizing s a with
  | nil => rfl
  | cons b l ih => simp [stAll, ih]
@[simp] theorem stAll_flips (a : Nat) (l : List Byte) : (stAll s a l).flips = s.flips := by
  induction l generalizing s a with
  | nil => rfl
  | cons b l ih => simp [stAll, ih]
@[simp] theorem stAll_edc (a : Nat) (l : List Byte) : (stAll s a l).edc = s.edc := by
  induction l generalizing s a with
  | nil => rfl
  | cons b l ih => simp [stAll, ih]
@[simp] theorem stAll_msixSent (a : Nat) (l : List Byte) : (stAll s a l).msixSent = s.msixSent := by
  induction l generalizing s a with
  | nil => rfl
  | cons b l ih => simp [stAll, ih]
@[simp] theorem stAll_evtNext (a : Nat) (l : List Byte) : (stAll s a l).evtNext = s.evtNext := by
  induction l generalizing s a with
  | nil => rfl
  | cons b l ih => simp [stAll, ih]
@[simp] theorem stAll_bbxQueue (a : Nat) (l : List Byte) : (stAll s a l).bbxQueue = s.bbxQueue := by
  induction l generalizing s a with
  | nil => rfl
  | cons b l ih => simp [stAll, ih]
@[simp] theorem stAll_gated (a : Nat) (l : List Byte) : (stAll s a l).gated = s.gated := by
  induction l generalizing s a with
  | nil => rfl
  | cons b l ih => simp [stAll, ih]
@[simp] theorem stAll_dt (a : Nat) (l : List Byte) : (stAll s a l).dt = s.dt := by
  induction l generalizing s a with
  | nil => rfl
  | cons b l ih => simp [stAll, ih]
@[simp] theorem stAll_ptp (a : Nat) (l : List Byte) : (stAll s a l).ptp = s.ptp := by
  induction l generalizing s a with
  | nil => rfl
  | cons b l ih => simp [stAll, ih]
@[simp] theorem stAll_sg (a : Nat) (l : List Byte) : (stAll s a l).sg = s.sg := by
  induction l generalizing s a with
  | nil => rfl
  | cons b l ih => simp [stAll, ih]
@[simp] theorem stAll_sem (a : Nat) (l : List Byte) : (stAll s a l).sem = s.sem := by
  induction l generalizing s a with
  | nil => rfl
  | cons b l ih => simp [stAll, ih]
@[simp] theorem stAll_evc (a : Nat) (l : List Byte) : (stAll s a l).evc = s.evc := by
  induction l generalizing s a with
  | nil => rfl
  | cons b l ih => simp [stAll, ih]
@[simp] theorem stAll_ing (a : Nat) (l : List Byte) : (stAll s a l).ing = s.ing := by
  induction l generalizing s a with
  | nil => rfl
  | cons b l ih => simp [stAll, ih]
@[simp] theorem stAll_ifc (a : Nat) (l : List Byte) : (stAll s a l).ifc = s.ifc := by
  induction l generalizing s a with
  | nil => rfl
  | cons b l ih => simp [stAll, ih]
@[simp] theorem stAll_vis (a : Nat) (l : List Byte) : (stAll s a l).vis = s.vis := by
  induction l generalizing s a with
  | nil => rfl
  | cons b l ih => simp [stAll, ih]
@[simp] theorem stAll_fgs (a : Nat) (l : List Byte) : (stAll s a l).fgs = s.fgs := by
  induction l generalizing s a with
  | nil => rfl
  | cons b l ih => simp [stAll, ih]
@[simp] theorem stAll_pwr (a : Nat) (l : List Byte) : (stAll s a l).pwr = s.pwr := by
  induction l generalizing s a with
  | nil => rfl
  | cons b l ih => simp [stAll, ih]
@[simp] theorem stAll_hif (a : Nat) (l : List Byte) : (stAll s a l).hif = s.hif := by
  induction l generalizing s a with
  | nil => rfl
  | cons b l ih => simp [stAll, ih]
@[simp] theorem stAll_tiles (a : Nat) (l : List Byte) : (stAll s a l).tiles = s.tiles := by
  induction l generalizing s a with
  | nil => rfl
  | cons b l ih => simp [stAll, ih]
@[simp] theorem stAll_memx (a : Nat) (l : List Byte) : (stAll s a l).memx = s.memx := by
  induction l generalizing s a with
  | nil => rfl
  | cons b l ih => simp [stAll, ih]
@[simp] theorem stAll_tfu (a : Nat) (l : List Byte) : (stAll s a l).tfu = s.tfu := by
  induction l generalizing s a with
  | nil => rfl
  | cons b l ih => simp [stAll, ih]
@[simp] theorem stAll_lse (a : Nat) (l : List Byte) : (stAll s a l).lse = s.lse := by
  induction l generalizing s a with
  | nil => rfl
  | cons b l ih => simp [stAll, ih]
@[simp] theorem stAll_mst (a : Nat) (l : List Byte) : (stAll s a l).mst = s.mst := by
  induction l generalizing s a with
  | nil => rfl
  | cons b l ih => simp [stAll, ih]
@[simp] theorem stAll_prs (a : Nat) (l : List Byte) : (stAll s a l).prs = s.prs := by
  induction l generalizing s a with
  | nil => rfl
  | cons b l ih => simp [stAll, ih]
@[simp] theorem stAll_safe (a : Nat) (l : List Byte) : (stAll s a l).safe = s.safe := by
  induction l generalizing s a with
  | nil => rfl
  | cons b l ih => simp [stAll, ih]
@[simp] theorem stAll_bbx (a : Nat) (l : List Byte) : (stAll s a l).bbx = s.bbx := by
  induction l generalizing s a with
  | nil => rfl
  | cons b l ih => simp [stAll, ih]
@[simp] theorem stAll_aon (a : Nat) (l : List Byte) : (stAll s a l).aon = s.aon := by
  induction l generalizing s a with
  | nil => rfl
  | cons b l ih => simp [stAll, ih]
@[simp] theorem stAll_sec (a : Nat) (l : List Byte) : (stAll s a l).sec = s.sec := by
  induction l generalizing s a with
  | nil => rfl
  | cons b l ih => simp [stAll, ih]
theorem stAll_frame (a : Nat) (l : List Byte) : stAll s a l = { s with mem := (stAll s a l).mem, heldWrites := (stAll s a l).heldWrites, regs := (stAll s a l).regs, fresh := (stAll s a l).fresh } := by
  apply State.ext_fields <;> simp

/-! ### stBytes -/

@[simp] theorem stBytes_pending (a : Nat) (l : List Byte) : (stBytes s a l).pending = s.pending := by unfold stBytes; dsimp only; (repeat' split) <;> simp
@[simp] theorem stBytes_up (a : Nat) (l : List Byte) : (stBytes s a l).up = s.up := by unfold stBytes; dsimp only; (repeat' split) <;> simp
@[simp] theorem stBytes_straps (a : Nat) (l : List Byte) : (stBytes s a l).straps = s.straps := by unfold stBytes; dsimp only; (repeat' split) <;> simp
@[simp] theorem stBytes_gradeX (a : Nat) (l : List Byte) : (stBytes s a l).gradeX = s.gradeX := by unfold stBytes; dsimp only; (repeat' split) <;> simp
@[simp] theorem stBytes_cap (a : Nat) (l : List Byte) : (stBytes s a l).cap = s.cap := by unfold stBytes; dsimp only; (repeat' split) <;> simp
@[simp] theorem stBytes_capFrac (a : Nat) (l : List Byte) : (stBytes s a l).capFrac = s.capFrac := by unfold stBytes; dsimp only; (repeat' split) <;> simp
@[simp] theorem stBytes_rdata (a : Nat) (l : List Byte) : (stBytes s a l).rdata = s.rdata := by unfold stBytes; dsimp only; (repeat' split) <;> simp
@[simp] theorem stBytes_msixSent (a : Nat) (l : List Byte) : (stBytes s a l).msixSent = s.msixSent := by unfold stBytes; dsimp only; (repeat' split) <;> simp
@[simp] theorem stBytes_evtNext (a : Nat) (l : List Byte) : (stBytes s a l).evtNext = s.evtNext := by unfold stBytes; dsimp only; (repeat' split) <;> simp
@[simp] theorem stBytes_bbxQueue (a : Nat) (l : List Byte) : (stBytes s a l).bbxQueue = s.bbxQueue := by unfold stBytes; dsimp only; (repeat' split) <;> simp
@[simp] theorem stBytes_gated (a : Nat) (l : List Byte) : (stBytes s a l).gated = s.gated := by unfold stBytes; dsimp only; (repeat' split) <;> simp
@[simp] theorem stBytes_dt (a : Nat) (l : List Byte) : (stBytes s a l).dt = s.dt := by unfold stBytes; dsimp only; (repeat' split) <;> simp
@[simp] theorem stBytes_ptp (a : Nat) (l : List Byte) : (stBytes s a l).ptp = s.ptp := by unfold stBytes; dsimp only; (repeat' split) <;> simp
@[simp] theorem stBytes_sg (a : Nat) (l : List Byte) : (stBytes s a l).sg = s.sg := by unfold stBytes; dsimp only; (repeat' split) <;> simp
@[simp] theorem stBytes_sem (a : Nat) (l : List Byte) : (stBytes s a l).sem = s.sem := by unfold stBytes; dsimp only; (repeat' split) <;> simp
@[simp] theorem stBytes_evc (a : Nat) (l : List Byte) : (stBytes s a l).evc = s.evc := by unfold stBytes; dsimp only; (repeat' split) <;> simp
@[simp] theorem stBytes_ing (a : Nat) (l : List Byte) : (stBytes s a l).ing = s.ing := by unfold stBytes; dsimp only; (repeat' split) <;> simp
@[simp] theorem stBytes_ifc (a : Nat) (l : List Byte) : (stBytes s a l).ifc = s.ifc := by unfold stBytes; dsimp only; (repeat' split) <;> simp
@[simp] theorem stBytes_vis (a : Nat) (l : List Byte) : (stBytes s a l).vis = s.vis := by unfold stBytes; dsimp only; (repeat' split) <;> simp
@[simp] theorem stBytes_fgs (a : Nat) (l : List Byte) : (stBytes s a l).fgs = s.fgs := by unfold stBytes; dsimp only; (repeat' split) <;> simp
@[simp] theorem stBytes_pwr (a : Nat) (l : List Byte) : (stBytes s a l).pwr = s.pwr := by unfold stBytes; dsimp only; (repeat' split) <;> simp
@[simp] theorem stBytes_hif (a : Nat) (l : List Byte) : (stBytes s a l).hif = s.hif := by unfold stBytes; dsimp only; (repeat' split) <;> simp
@[simp] theorem stBytes_tiles (a : Nat) (l : List Byte) : (stBytes s a l).tiles = s.tiles := by unfold stBytes; dsimp only; (repeat' split) <;> simp
@[simp] theorem stBytes_memx (a : Nat) (l : List Byte) : (stBytes s a l).memx = s.memx := by unfold stBytes; dsimp only; (repeat' split) <;> simp
@[simp] theorem stBytes_tfu (a : Nat) (l : List Byte) : (stBytes s a l).tfu = s.tfu := by unfold stBytes; dsimp only; (repeat' split) <;> simp
@[simp] theorem stBytes_lse (a : Nat) (l : List Byte) : (stBytes s a l).lse = s.lse := by unfold stBytes; dsimp only; (repeat' split) <;> simp
@[simp] theorem stBytes_mst (a : Nat) (l : List Byte) : (stBytes s a l).mst = s.mst := by unfold stBytes; dsimp only; (repeat' split) <;> simp
@[simp] theorem stBytes_prs (a : Nat) (l : List Byte) : (stBytes s a l).prs = s.prs := by unfold stBytes; dsimp only; (repeat' split) <;> simp
@[simp] theorem stBytes_safe (a : Nat) (l : List Byte) : (stBytes s a l).safe = s.safe := by unfold stBytes; dsimp only; (repeat' split) <;> simp
@[simp] theorem stBytes_bbx (a : Nat) (l : List Byte) : (stBytes s a l).bbx = s.bbx := by unfold stBytes; dsimp only; (repeat' split) <;> simp
@[simp] theorem stBytes_aon (a : Nat) (l : List Byte) : (stBytes s a l).aon = s.aon := by unfold stBytes; dsimp only; (repeat' split) <;> simp
@[simp] theorem stBytes_sec (a : Nat) (l : List Byte) : (stBytes s a l).sec = s.sec := by unfold stBytes; dsimp only; (repeat' split) <;> simp
theorem stBytes_frame (a : Nat) (l : List Byte) : stBytes s a l = { s with mem := (stBytes s a l).mem, heldWrites := (stBytes s a l).heldWrites, regs := (stBytes s a l).regs, fresh := (stBytes s a l).fresh, poison := (stBytes s a l).poison, flips := (stBytes s a l).flips, edc := (stBytes s a l).edc } := by
  apply State.ext_fields <;> simp

/-! ### stN -/

@[simp] theorem stN_pending (a n v : Nat) : (stN s a n v).pending = s.pending := by simp [stN]
@[simp] theorem stN_up (a n v : Nat) : (stN s a n v).up = s.up := by simp [stN]
@[simp] theorem stN_straps (a n v : Nat) : (stN s a n v).straps = s.straps := by simp [stN]
@[simp] theorem stN_gradeX (a n v : Nat) : (stN s a n v).gradeX = s.gradeX := by simp [stN]
@[simp] theorem stN_cap (a n v : Nat) : (stN s a n v).cap = s.cap := by simp [stN]
@[simp] theorem stN_capFrac (a n v : Nat) : (stN s a n v).capFrac = s.capFrac := by simp [stN]
@[simp] theorem stN_rdata (a n v : Nat) : (stN s a n v).rdata = s.rdata := by simp [stN]
@[simp] theorem stN_msixSent (a n v : Nat) : (stN s a n v).msixSent = s.msixSent := by simp [stN]
@[simp] theorem stN_evtNext (a n v : Nat) : (stN s a n v).evtNext = s.evtNext := by simp [stN]
@[simp] theorem stN_bbxQueue (a n v : Nat) : (stN s a n v).bbxQueue = s.bbxQueue := by simp [stN]
@[simp] theorem stN_gated (a n v : Nat) : (stN s a n v).gated = s.gated := by simp [stN]
@[simp] theorem stN_dt (a n v : Nat) : (stN s a n v).dt = s.dt := by simp [stN]
@[simp] theorem stN_ptp (a n v : Nat) : (stN s a n v).ptp = s.ptp := by simp [stN]
@[simp] theorem stN_sg (a n v : Nat) : (stN s a n v).sg = s.sg := by simp [stN]
@[simp] theorem stN_sem (a n v : Nat) : (stN s a n v).sem = s.sem := by simp [stN]
@[simp] theorem stN_evc (a n v : Nat) : (stN s a n v).evc = s.evc := by simp [stN]
@[simp] theorem stN_ing (a n v : Nat) : (stN s a n v).ing = s.ing := by simp [stN]
@[simp] theorem stN_ifc (a n v : Nat) : (stN s a n v).ifc = s.ifc := by simp [stN]
@[simp] theorem stN_vis (a n v : Nat) : (stN s a n v).vis = s.vis := by simp [stN]
@[simp] theorem stN_fgs (a n v : Nat) : (stN s a n v).fgs = s.fgs := by simp [stN]
@[simp] theorem stN_pwr (a n v : Nat) : (stN s a n v).pwr = s.pwr := by simp [stN]
@[simp] theorem stN_hif (a n v : Nat) : (stN s a n v).hif = s.hif := by simp [stN]
@[simp] theorem stN_tiles (a n v : Nat) : (stN s a n v).tiles = s.tiles := by simp [stN]
@[simp] theorem stN_memx (a n v : Nat) : (stN s a n v).memx = s.memx := by simp [stN]
@[simp] theorem stN_tfu (a n v : Nat) : (stN s a n v).tfu = s.tfu := by simp [stN]
@[simp] theorem stN_lse (a n v : Nat) : (stN s a n v).lse = s.lse := by simp [stN]
@[simp] theorem stN_mst (a n v : Nat) : (stN s a n v).mst = s.mst := by simp [stN]
@[simp] theorem stN_prs (a n v : Nat) : (stN s a n v).prs = s.prs := by simp [stN]
@[simp] theorem stN_safe (a n v : Nat) : (stN s a n v).safe = s.safe := by simp [stN]
@[simp] theorem stN_bbx (a n v : Nat) : (stN s a n v).bbx = s.bbx := by simp [stN]
@[simp] theorem stN_aon (a n v : Nat) : (stN s a n v).aon = s.aon := by simp [stN]
@[simp] theorem stN_sec (a n v : Nat) : (stN s a n v).sec = s.sec := by simp [stN]
theorem stN_frame (a n v : Nat) : stN s a n v = { s with mem := (stN s a n v).mem, heldWrites := (stN s a n v).heldWrites, regs := (stN s a n v).regs, fresh := (stN s a n v).fresh, poison := (stN s a n v).poison, flips := (stN s a n v).flips, edc := (stN s a n v).edc } := by
  apply State.ext_fields <;> simp

/-! ### hostWrite -/

@[simp] theorem hostWrite_pending (h : Nat) (l : List Byte) : (hostWrite s h l).pending = s.pending := by unfold hostWrite; split <;> simp
@[simp] theorem hostWrite_up (h : Nat) (l : List Byte) : (hostWrite s h l).up = s.up := by unfold hostWrite; split <;> simp
@[simp] theorem hostWrite_straps (h : Nat) (l : List Byte) : (hostWrite s h l).straps = s.straps := by unfold hostWrite; split <;> simp
@[simp] theorem hostWrite_gradeX (h : Nat) (l : List Byte) : (hostWrite s h l).gradeX = s.gradeX := by unfold hostWrite; split <;> simp
@[simp] theorem hostWrite_cap (h : Nat) (l : List Byte) : (hostWrite s h l).cap = s.cap := by unfold hostWrite; split <;> simp
@[simp] theorem hostWrite_capFrac (h : Nat) (l : List Byte) : (hostWrite s h l).capFrac = s.capFrac := by unfold hostWrite; split <;> simp
@[simp] theorem hostWrite_rdata (h : Nat) (l : List Byte) : (hostWrite s h l).rdata = s.rdata := by unfold hostWrite; split <;> simp
@[simp] theorem hostWrite_msixSent (h : Nat) (l : List Byte) : (hostWrite s h l).msixSent = s.msixSent := by unfold hostWrite; split <;> simp
@[simp] theorem hostWrite_evtNext (h : Nat) (l : List Byte) : (hostWrite s h l).evtNext = s.evtNext := by unfold hostWrite; split <;> simp
@[simp] theorem hostWrite_bbxQueue (h : Nat) (l : List Byte) : (hostWrite s h l).bbxQueue = s.bbxQueue := by unfold hostWrite; split <;> simp
@[simp] theorem hostWrite_gated (h : Nat) (l : List Byte) : (hostWrite s h l).gated = s.gated := by unfold hostWrite; split <;> simp
@[simp] theorem hostWrite_dt (h : Nat) (l : List Byte) : (hostWrite s h l).dt = s.dt := by unfold hostWrite; split <;> simp
@[simp] theorem hostWrite_ptp (h : Nat) (l : List Byte) : (hostWrite s h l).ptp = s.ptp := by unfold hostWrite; split <;> simp
@[simp] theorem hostWrite_sg (h : Nat) (l : List Byte) : (hostWrite s h l).sg = s.sg := by unfold hostWrite; split <;> simp
@[simp] theorem hostWrite_sem (h : Nat) (l : List Byte) : (hostWrite s h l).sem = s.sem := by unfold hostWrite; split <;> simp
@[simp] theorem hostWrite_evc (h : Nat) (l : List Byte) : (hostWrite s h l).evc = s.evc := by unfold hostWrite; split <;> simp
@[simp] theorem hostWrite_ing (h : Nat) (l : List Byte) : (hostWrite s h l).ing = s.ing := by unfold hostWrite; split <;> simp
@[simp] theorem hostWrite_ifc (h : Nat) (l : List Byte) : (hostWrite s h l).ifc = s.ifc := by unfold hostWrite; split <;> simp
@[simp] theorem hostWrite_vis (h : Nat) (l : List Byte) : (hostWrite s h l).vis = s.vis := by unfold hostWrite; split <;> simp
@[simp] theorem hostWrite_fgs (h : Nat) (l : List Byte) : (hostWrite s h l).fgs = s.fgs := by unfold hostWrite; split <;> simp
@[simp] theorem hostWrite_pwr (h : Nat) (l : List Byte) : (hostWrite s h l).pwr = s.pwr := by unfold hostWrite; split <;> simp
@[simp] theorem hostWrite_hif (h : Nat) (l : List Byte) : (hostWrite s h l).hif = s.hif := by unfold hostWrite; split <;> simp
@[simp] theorem hostWrite_tiles (h : Nat) (l : List Byte) : (hostWrite s h l).tiles = s.tiles := by unfold hostWrite; split <;> simp
@[simp] theorem hostWrite_memx (h : Nat) (l : List Byte) : (hostWrite s h l).memx = s.memx := by unfold hostWrite; split <;> simp
@[simp] theorem hostWrite_tfu (h : Nat) (l : List Byte) : (hostWrite s h l).tfu = s.tfu := by unfold hostWrite; split <;> simp
@[simp] theorem hostWrite_lse (h : Nat) (l : List Byte) : (hostWrite s h l).lse = s.lse := by unfold hostWrite; split <;> simp
@[simp] theorem hostWrite_mst (h : Nat) (l : List Byte) : (hostWrite s h l).mst = s.mst := by unfold hostWrite; split <;> simp
@[simp] theorem hostWrite_prs (h : Nat) (l : List Byte) : (hostWrite s h l).prs = s.prs := by unfold hostWrite; split <;> simp
@[simp] theorem hostWrite_safe (h : Nat) (l : List Byte) : (hostWrite s h l).safe = s.safe := by unfold hostWrite; split <;> simp
@[simp] theorem hostWrite_bbx (h : Nat) (l : List Byte) : (hostWrite s h l).bbx = s.bbx := by unfold hostWrite; split <;> simp
@[simp] theorem hostWrite_aon (h : Nat) (l : List Byte) : (hostWrite s h l).aon = s.aon := by unfold hostWrite; split <;> simp
@[simp] theorem hostWrite_sec (h : Nat) (l : List Byte) : (hostWrite s h l).sec = s.sec := by unfold hostWrite; split <;> simp
theorem hostWrite_frame (h : Nat) (l : List Byte) : hostWrite s h l = { s with mem := (hostWrite s h l).mem, heldWrites := (hostWrite s h l).heldWrites, regs := (hostWrite s h l).regs, fresh := (hostWrite s h l).fresh, poison := (hostWrite s h l).poison, flips := (hostWrite s h l).flips, edc := (hostWrite s h l).edc } := by
  apply State.ext_fields <;> simp

/-! ### msixSend -/

@[simp] theorem msixSend_pending (v : Nat) : (msixSend s v).pending = s.pending := by unfold msixSend; (repeat' split) <;> simp
@[simp] theorem msixSend_up (v : Nat) : (msixSend s v).up = s.up := by unfold msixSend; (repeat' split) <;> simp
@[simp] theorem msixSend_straps (v : Nat) : (msixSend s v).straps = s.straps := by unfold msixSend; (repeat' split) <;> simp
@[simp] theorem msixSend_gradeX (v : Nat) : (msixSend s v).gradeX = s.gradeX := by unfold msixSend; (repeat' split) <;> simp
@[simp] theorem msixSend_cap (v : Nat) : (msixSend s v).cap = s.cap := by unfold msixSend; (repeat' split) <;> simp
@[simp] theorem msixSend_capFrac (v : Nat) : (msixSend s v).capFrac = s.capFrac := by unfold msixSend; (repeat' split) <;> simp
@[simp] theorem msixSend_rdata (v : Nat) : (msixSend s v).rdata = s.rdata := by unfold msixSend; (repeat' split) <;> simp
@[simp] theorem msixSend_mem (v : Nat) : (msixSend s v).mem = s.mem := by unfold msixSend; (repeat' split) <;> simp
@[simp] theorem msixSend_poison (v : Nat) : (msixSend s v).poison = s.poison := by unfold msixSend; (repeat' split) <;> simp
@[simp] theorem msixSend_flips (v : Nat) : (msixSend s v).flips = s.flips := by unfold msixSend; (repeat' split) <;> simp
@[simp] theorem msixSend_edc (v : Nat) : (msixSend s v).edc = s.edc := by unfold msixSend; (repeat' split) <;> simp
@[simp] theorem msixSend_heldWrites (v : Nat) : (msixSend s v).heldWrites = s.heldWrites := by unfold msixSend; (repeat' split) <;> simp
@[simp] theorem msixSend_evtNext (v : Nat) : (msixSend s v).evtNext = s.evtNext := by unfold msixSend; (repeat' split) <;> simp
@[simp] theorem msixSend_bbxQueue (v : Nat) : (msixSend s v).bbxQueue = s.bbxQueue := by unfold msixSend; (repeat' split) <;> simp
@[simp] theorem msixSend_gated (v : Nat) : (msixSend s v).gated = s.gated := by unfold msixSend; (repeat' split) <;> simp
@[simp] theorem msixSend_fresh (v : Nat) : (msixSend s v).fresh = s.fresh := by unfold msixSend; (repeat' split) <;> simp
@[simp] theorem msixSend_dt (v : Nat) : (msixSend s v).dt = s.dt := by unfold msixSend; (repeat' split) <;> simp
@[simp] theorem msixSend_ptp (v : Nat) : (msixSend s v).ptp = s.ptp := by unfold msixSend; (repeat' split) <;> simp
@[simp] theorem msixSend_sg (v : Nat) : (msixSend s v).sg = s.sg := by unfold msixSend; (repeat' split) <;> simp
@[simp] theorem msixSend_sem (v : Nat) : (msixSend s v).sem = s.sem := by unfold msixSend; (repeat' split) <;> simp
@[simp] theorem msixSend_evc (v : Nat) : (msixSend s v).evc = s.evc := by unfold msixSend; (repeat' split) <;> simp
@[simp] theorem msixSend_ing (v : Nat) : (msixSend s v).ing = s.ing := by unfold msixSend; (repeat' split) <;> simp
@[simp] theorem msixSend_ifc (v : Nat) : (msixSend s v).ifc = s.ifc := by unfold msixSend; (repeat' split) <;> simp
@[simp] theorem msixSend_vis (v : Nat) : (msixSend s v).vis = s.vis := by unfold msixSend; (repeat' split) <;> simp
@[simp] theorem msixSend_fgs (v : Nat) : (msixSend s v).fgs = s.fgs := by unfold msixSend; (repeat' split) <;> simp
@[simp] theorem msixSend_pwr (v : Nat) : (msixSend s v).pwr = s.pwr := by unfold msixSend; (repeat' split) <;> simp
@[simp] theorem msixSend_hif (v : Nat) : (msixSend s v).hif = s.hif := by unfold msixSend; (repeat' split) <;> simp
@[simp] theorem msixSend_tiles (v : Nat) : (msixSend s v).tiles = s.tiles := by unfold msixSend; (repeat' split) <;> simp
@[simp] theorem msixSend_memx (v : Nat) : (msixSend s v).memx = s.memx := by unfold msixSend; (repeat' split) <;> simp
@[simp] theorem msixSend_tfu (v : Nat) : (msixSend s v).tfu = s.tfu := by unfold msixSend; (repeat' split) <;> simp
@[simp] theorem msixSend_lse (v : Nat) : (msixSend s v).lse = s.lse := by unfold msixSend; (repeat' split) <;> simp
@[simp] theorem msixSend_mst (v : Nat) : (msixSend s v).mst = s.mst := by unfold msixSend; (repeat' split) <;> simp
@[simp] theorem msixSend_prs (v : Nat) : (msixSend s v).prs = s.prs := by unfold msixSend; (repeat' split) <;> simp
@[simp] theorem msixSend_safe (v : Nat) : (msixSend s v).safe = s.safe := by unfold msixSend; (repeat' split) <;> simp
@[simp] theorem msixSend_bbx (v : Nat) : (msixSend s v).bbx = s.bbx := by unfold msixSend; (repeat' split) <;> simp
@[simp] theorem msixSend_aon (v : Nat) : (msixSend s v).aon = s.aon := by unfold msixSend; (repeat' split) <;> simp
@[simp] theorem msixSend_sec (v : Nat) : (msixSend s v).sec = s.sec := by unfold msixSend; (repeat' split) <;> simp
theorem msixSend_frame (v : Nat) : msixSend s v = { s with regs := (msixSend s v).regs, msixSent := (msixSend s v).msixSent } := by
  apply State.ext_fields <;> simp

/-! ### postEvent -/

@[simp] theorem postEvent_pending (d : DWord) (c u : Nat) (l : List Byte) : (postEvent s d c u l).pending = s.pending := by unfold postEvent; dsimp only; split <;> simp
@[simp] theorem postEvent_up (d : DWord) (c u : Nat) (l : List Byte) : (postEvent s d c u l).up = s.up := by unfold postEvent; dsimp only; split <;> simp
@[simp] theorem postEvent_straps (d : DWord) (c u : Nat) (l : List Byte) : (postEvent s d c u l).straps = s.straps := by unfold postEvent; dsimp only; split <;> simp
@[simp] theorem postEvent_gradeX (d : DWord) (c u : Nat) (l : List Byte) : (postEvent s d c u l).gradeX = s.gradeX := by unfold postEvent; dsimp only; split <;> simp
@[simp] theorem postEvent_cap (d : DWord) (c u : Nat) (l : List Byte) : (postEvent s d c u l).cap = s.cap := by unfold postEvent; dsimp only; split <;> simp
@[simp] theorem postEvent_capFrac (d : DWord) (c u : Nat) (l : List Byte) : (postEvent s d c u l).capFrac = s.capFrac := by unfold postEvent; dsimp only; split <;> simp
@[simp] theorem postEvent_rdata (d : DWord) (c u : Nat) (l : List Byte) : (postEvent s d c u l).rdata = s.rdata := by unfold postEvent; dsimp only; split <;> simp
@[simp] theorem postEvent_bbxQueue (d : DWord) (c u : Nat) (l : List Byte) : (postEvent s d c u l).bbxQueue = s.bbxQueue := by unfold postEvent; dsimp only; split <;> simp
@[simp] theorem postEvent_gated (d : DWord) (c u : Nat) (l : List Byte) : (postEvent s d c u l).gated = s.gated := by unfold postEvent; dsimp only; split <;> simp
@[simp] theorem postEvent_dt (d : DWord) (c u : Nat) (l : List Byte) : (postEvent s d c u l).dt = s.dt := by unfold postEvent; dsimp only; split <;> simp
@[simp] theorem postEvent_ptp (d : DWord) (c u : Nat) (l : List Byte) : (postEvent s d c u l).ptp = s.ptp := by unfold postEvent; dsimp only; split <;> simp
@[simp] theorem postEvent_sg (d : DWord) (c u : Nat) (l : List Byte) : (postEvent s d c u l).sg = s.sg := by unfold postEvent; dsimp only; split <;> simp
@[simp] theorem postEvent_sem (d : DWord) (c u : Nat) (l : List Byte) : (postEvent s d c u l).sem = s.sem := by unfold postEvent; dsimp only; split <;> simp
@[simp] theorem postEvent_evc (d : DWord) (c u : Nat) (l : List Byte) : (postEvent s d c u l).evc = s.evc := by unfold postEvent; dsimp only; split <;> simp
@[simp] theorem postEvent_ing (d : DWord) (c u : Nat) (l : List Byte) : (postEvent s d c u l).ing = s.ing := by unfold postEvent; dsimp only; split <;> simp
@[simp] theorem postEvent_ifc (d : DWord) (c u : Nat) (l : List Byte) : (postEvent s d c u l).ifc = s.ifc := by unfold postEvent; dsimp only; split <;> simp
@[simp] theorem postEvent_vis (d : DWord) (c u : Nat) (l : List Byte) : (postEvent s d c u l).vis = s.vis := by unfold postEvent; dsimp only; split <;> simp
@[simp] theorem postEvent_fgs (d : DWord) (c u : Nat) (l : List Byte) : (postEvent s d c u l).fgs = s.fgs := by unfold postEvent; dsimp only; split <;> simp
@[simp] theorem postEvent_pwr (d : DWord) (c u : Nat) (l : List Byte) : (postEvent s d c u l).pwr = s.pwr := by unfold postEvent; dsimp only; split <;> simp
@[simp] theorem postEvent_hif (d : DWord) (c u : Nat) (l : List Byte) : (postEvent s d c u l).hif = s.hif := by unfold postEvent; dsimp only; split <;> simp
@[simp] theorem postEvent_tiles (d : DWord) (c u : Nat) (l : List Byte) : (postEvent s d c u l).tiles = s.tiles := by unfold postEvent; dsimp only; split <;> simp
@[simp] theorem postEvent_memx (d : DWord) (c u : Nat) (l : List Byte) : (postEvent s d c u l).memx = s.memx := by unfold postEvent; dsimp only; split <;> simp
@[simp] theorem postEvent_tfu (d : DWord) (c u : Nat) (l : List Byte) : (postEvent s d c u l).tfu = s.tfu := by unfold postEvent; dsimp only; split <;> simp
@[simp] theorem postEvent_lse (d : DWord) (c u : Nat) (l : List Byte) : (postEvent s d c u l).lse = s.lse := by unfold postEvent; dsimp only; split <;> simp
@[simp] theorem postEvent_mst (d : DWord) (c u : Nat) (l : List Byte) : (postEvent s d c u l).mst = s.mst := by unfold postEvent; dsimp only; split <;> simp
@[simp] theorem postEvent_prs (d : DWord) (c u : Nat) (l : List Byte) : (postEvent s d c u l).prs = s.prs := by unfold postEvent; dsimp only; split <;> simp
@[simp] theorem postEvent_safe (d : DWord) (c u : Nat) (l : List Byte) : (postEvent s d c u l).safe = s.safe := by unfold postEvent; dsimp only; split <;> simp
@[simp] theorem postEvent_bbx (d : DWord) (c u : Nat) (l : List Byte) : (postEvent s d c u l).bbx = s.bbx := by unfold postEvent; dsimp only; split <;> simp
@[simp] theorem postEvent_aon (d : DWord) (c u : Nat) (l : List Byte) : (postEvent s d c u l).aon = s.aon := by unfold postEvent; dsimp only; split <;> simp
@[simp] theorem postEvent_sec (d : DWord) (c u : Nat) (l : List Byte) : (postEvent s d c u l).sec = s.sec := by unfold postEvent; dsimp only; split <;> simp
theorem postEvent_frame (d : DWord) (c u : Nat) (l : List Byte) : postEvent s d c u l = { s with mem := (postEvent s d c u l).mem, heldWrites := (postEvent s d c u l).heldWrites, regs := (postEvent s d c u l).regs, fresh := (postEvent s d c u l).fresh, poison := (postEvent s d c u l).poison, flips := (postEvent s d c u l).flips, edc := (postEvent s d c u l).edc, msixSent := (postEvent s d c u l).msixSent, evtNext := (postEvent s d c u l).evtNext } := by
  apply State.ext_fields <;> simp

/-! ### bbx -/

@[simp] theorem bbx_pending (c u : Nat) (l : List Byte) (p : Bool) : (bbx s c u l p).pending = s.pending := by unfold bbx; split <;> simp
@[simp] theorem bbx_up (c u : Nat) (l : List Byte) (p : Bool) : (bbx s c u l p).up = s.up := by unfold bbx; split <;> simp
@[simp] theorem bbx_straps (c u : Nat) (l : List Byte) (p : Bool) : (bbx s c u l p).straps = s.straps := by unfold bbx; split <;> simp
@[simp] theorem bbx_gradeX (c u : Nat) (l : List Byte) (p : Bool) : (bbx s c u l p).gradeX = s.gradeX := by unfold bbx; split <;> simp
@[simp] theorem bbx_cap (c u : Nat) (l : List Byte) (p : Bool) : (bbx s c u l p).cap = s.cap := by unfold bbx; split <;> simp
@[simp] theorem bbx_capFrac (c u : Nat) (l : List Byte) (p : Bool) : (bbx s c u l p).capFrac = s.capFrac := by unfold bbx; split <;> simp
@[simp] theorem bbx_rdata (c u : Nat) (l : List Byte) (p : Bool) : (bbx s c u l p).rdata = s.rdata := by unfold bbx; split <;> simp
@[simp] theorem bbx_mem (c u : Nat) (l : List Byte) (p : Bool) : (bbx s c u l p).mem = s.mem := by unfold bbx; split <;> simp
@[simp] theorem bbx_poison (c u : Nat) (l : List Byte) (p : Bool) : (bbx s c u l p).poison = s.poison := by unfold bbx; split <;> simp
@[simp] theorem bbx_flips (c u : Nat) (l : List Byte) (p : Bool) : (bbx s c u l p).flips = s.flips := by unfold bbx; split <;> simp
@[simp] theorem bbx_edc (c u : Nat) (l : List Byte) (p : Bool) : (bbx s c u l p).edc = s.edc := by unfold bbx; split <;> simp
@[simp] theorem bbx_heldWrites (c u : Nat) (l : List Byte) (p : Bool) : (bbx s c u l p).heldWrites = s.heldWrites := by unfold bbx; split <;> simp
@[simp] theorem bbx_msixSent (c u : Nat) (l : List Byte) (p : Bool) : (bbx s c u l p).msixSent = s.msixSent := by unfold bbx; split <;> simp
@[simp] theorem bbx_evtNext (c u : Nat) (l : List Byte) (p : Bool) : (bbx s c u l p).evtNext = s.evtNext := by unfold bbx; split <;> simp
@[simp] theorem bbx_gated (c u : Nat) (l : List Byte) (p : Bool) : (bbx s c u l p).gated = s.gated := by unfold bbx; split <;> simp
@[simp] theorem bbx_fresh (c u : Nat) (l : List Byte) (p : Bool) : (bbx s c u l p).fresh = s.fresh := by unfold bbx; split <;> simp
@[simp] theorem bbx_dt (c u : Nat) (l : List Byte) (p : Bool) : (bbx s c u l p).dt = s.dt := by unfold bbx; split <;> simp
@[simp] theorem bbx_ptp (c u : Nat) (l : List Byte) (p : Bool) : (bbx s c u l p).ptp = s.ptp := by unfold bbx; split <;> simp
@[simp] theorem bbx_sg (c u : Nat) (l : List Byte) (p : Bool) : (bbx s c u l p).sg = s.sg := by unfold bbx; split <;> simp
@[simp] theorem bbx_sem (c u : Nat) (l : List Byte) (p : Bool) : (bbx s c u l p).sem = s.sem := by unfold bbx; split <;> simp
@[simp] theorem bbx_evc (c u : Nat) (l : List Byte) (p : Bool) : (bbx s c u l p).evc = s.evc := by unfold bbx; split <;> simp
@[simp] theorem bbx_ing (c u : Nat) (l : List Byte) (p : Bool) : (bbx s c u l p).ing = s.ing := by unfold bbx; split <;> simp
@[simp] theorem bbx_ifc (c u : Nat) (l : List Byte) (p : Bool) : (bbx s c u l p).ifc = s.ifc := by unfold bbx; split <;> simp
@[simp] theorem bbx_vis (c u : Nat) (l : List Byte) (p : Bool) : (bbx s c u l p).vis = s.vis := by unfold bbx; split <;> simp
@[simp] theorem bbx_fgs (c u : Nat) (l : List Byte) (p : Bool) : (bbx s c u l p).fgs = s.fgs := by unfold bbx; split <;> simp
@[simp] theorem bbx_pwr (c u : Nat) (l : List Byte) (p : Bool) : (bbx s c u l p).pwr = s.pwr := by unfold bbx; split <;> simp
@[simp] theorem bbx_hif (c u : Nat) (l : List Byte) (p : Bool) : (bbx s c u l p).hif = s.hif := by unfold bbx; split <;> simp
@[simp] theorem bbx_tiles (c u : Nat) (l : List Byte) (p : Bool) : (bbx s c u l p).tiles = s.tiles := by unfold bbx; split <;> simp
@[simp] theorem bbx_memx (c u : Nat) (l : List Byte) (p : Bool) : (bbx s c u l p).memx = s.memx := by unfold bbx; split <;> simp
@[simp] theorem bbx_tfu (c u : Nat) (l : List Byte) (p : Bool) : (bbx s c u l p).tfu = s.tfu := by unfold bbx; split <;> simp
@[simp] theorem bbx_lse (c u : Nat) (l : List Byte) (p : Bool) : (bbx s c u l p).lse = s.lse := by unfold bbx; split <;> simp
@[simp] theorem bbx_mst (c u : Nat) (l : List Byte) (p : Bool) : (bbx s c u l p).mst = s.mst := by unfold bbx; split <;> simp
@[simp] theorem bbx_prs (c u : Nat) (l : List Byte) (p : Bool) : (bbx s c u l p).prs = s.prs := by unfold bbx; split <;> simp
@[simp] theorem bbx_safe (c u : Nat) (l : List Byte) (p : Bool) : (bbx s c u l p).safe = s.safe := by unfold bbx; split <;> simp
@[simp] theorem bbx_bbx (c u : Nat) (l : List Byte) (p : Bool) : (bbx s c u l p).bbx = s.bbx := by unfold bbx; split <;> simp
@[simp] theorem bbx_aon (c u : Nat) (l : List Byte) (p : Bool) : (bbx s c u l p).aon = s.aon := by unfold bbx; split <;> simp
@[simp] theorem bbx_sec (c u : Nat) (l : List Byte) (p : Bool) : (bbx s c u l p).sec = s.sec := by unfold bbx; split <;> simp
theorem bbx_frame (c u : Nat) (l : List Byte) (p : Bool) : bbx s c u l p = { s with regs := (bbx s c u l p).regs, bbxQueue := (bbx s c u l p).bbxQueue } := by
  apply State.ext_fields <;> simp

/-! ### semStore -/

@[simp] theorem semStore_pending (i : Nat) (v : Word) : (semStore s i v).pending = s.pending := by unfold semStore; split <;> rfl
@[simp] theorem semStore_up (i : Nat) (v : Word) : (semStore s i v).up = s.up := by unfold semStore; split <;> rfl
@[simp] theorem semStore_straps (i : Nat) (v : Word) : (semStore s i v).straps = s.straps := by unfold semStore; split <;> rfl
@[simp] theorem semStore_gradeX (i : Nat) (v : Word) : (semStore s i v).gradeX = s.gradeX := by unfold semStore; split <;> rfl
@[simp] theorem semStore_regs (i : Nat) (v : Word) : (semStore s i v).regs = s.regs := by unfold semStore; split <;> rfl
@[simp] theorem semStore_cap (i : Nat) (v : Word) : (semStore s i v).cap = s.cap := by unfold semStore; split <;> rfl
@[simp] theorem semStore_capFrac (i : Nat) (v : Word) : (semStore s i v).capFrac = s.capFrac := by unfold semStore; split <;> rfl
@[simp] theorem semStore_rdata (i : Nat) (v : Word) : (semStore s i v).rdata = s.rdata := by unfold semStore; split <;> rfl
@[simp] theorem semStore_mem (i : Nat) (v : Word) : (semStore s i v).mem = s.mem := by unfold semStore; split <;> rfl
@[simp] theorem semStore_poison (i : Nat) (v : Word) : (semStore s i v).poison = s.poison := by unfold semStore; split <;> rfl
@[simp] theorem semStore_flips (i : Nat) (v : Word) : (semStore s i v).flips = s.flips := by unfold semStore; split <;> rfl
@[simp] theorem semStore_edc (i : Nat) (v : Word) : (semStore s i v).edc = s.edc := by unfold semStore; split <;> rfl
@[simp] theorem semStore_heldWrites (i : Nat) (v : Word) : (semStore s i v).heldWrites = s.heldWrites := by unfold semStore; split <;> rfl
@[simp] theorem semStore_msixSent (i : Nat) (v : Word) : (semStore s i v).msixSent = s.msixSent := by unfold semStore; split <;> rfl
@[simp] theorem semStore_evtNext (i : Nat) (v : Word) : (semStore s i v).evtNext = s.evtNext := by unfold semStore; split <;> rfl
@[simp] theorem semStore_bbxQueue (i : Nat) (v : Word) : (semStore s i v).bbxQueue = s.bbxQueue := by unfold semStore; split <;> rfl
@[simp] theorem semStore_gated (i : Nat) (v : Word) : (semStore s i v).gated = s.gated := by unfold semStore; split <;> rfl
@[simp] theorem semStore_fresh (i : Nat) (v : Word) : (semStore s i v).fresh = s.fresh := by unfold semStore; split <;> rfl
@[simp] theorem semStore_dt (i : Nat) (v : Word) : (semStore s i v).dt = s.dt := by unfold semStore; split <;> rfl
@[simp] theorem semStore_ptp (i : Nat) (v : Word) : (semStore s i v).ptp = s.ptp := by unfold semStore; split <;> rfl
@[simp] theorem semStore_sg (i : Nat) (v : Word) : (semStore s i v).sg = s.sg := by unfold semStore; split <;> rfl
@[simp] theorem semStore_evc (i : Nat) (v : Word) : (semStore s i v).evc = s.evc := by unfold semStore; split <;> rfl
@[simp] theorem semStore_ing (i : Nat) (v : Word) : (semStore s i v).ing = s.ing := by unfold semStore; split <;> rfl
@[simp] theorem semStore_ifc (i : Nat) (v : Word) : (semStore s i v).ifc = s.ifc := by unfold semStore; split <;> rfl
@[simp] theorem semStore_vis (i : Nat) (v : Word) : (semStore s i v).vis = s.vis := by unfold semStore; split <;> rfl
@[simp] theorem semStore_fgs (i : Nat) (v : Word) : (semStore s i v).fgs = s.fgs := by unfold semStore; split <;> rfl
@[simp] theorem semStore_pwr (i : Nat) (v : Word) : (semStore s i v).pwr = s.pwr := by unfold semStore; split <;> rfl
@[simp] theorem semStore_hif (i : Nat) (v : Word) : (semStore s i v).hif = s.hif := by unfold semStore; split <;> rfl
@[simp] theorem semStore_tiles (i : Nat) (v : Word) : (semStore s i v).tiles = s.tiles := by unfold semStore; split <;> rfl
@[simp] theorem semStore_memx (i : Nat) (v : Word) : (semStore s i v).memx = s.memx := by unfold semStore; split <;> rfl
@[simp] theorem semStore_tfu (i : Nat) (v : Word) : (semStore s i v).tfu = s.tfu := by unfold semStore; split <;> rfl
@[simp] theorem semStore_lse (i : Nat) (v : Word) : (semStore s i v).lse = s.lse := by unfold semStore; split <;> rfl
@[simp] theorem semStore_mst (i : Nat) (v : Word) : (semStore s i v).mst = s.mst := by unfold semStore; split <;> rfl
@[simp] theorem semStore_prs (i : Nat) (v : Word) : (semStore s i v).prs = s.prs := by unfold semStore; split <;> rfl
@[simp] theorem semStore_safe (i : Nat) (v : Word) : (semStore s i v).safe = s.safe := by unfold semStore; split <;> rfl
@[simp] theorem semStore_bbx (i : Nat) (v : Word) : (semStore s i v).bbx = s.bbx := by unfold semStore; split <;> rfl
@[simp] theorem semStore_aon (i : Nat) (v : Word) : (semStore s i v).aon = s.aon := by unfold semStore; split <;> rfl
@[simp] theorem semStore_sec (i : Nat) (v : Word) : (semStore s i v).sec = s.sec := by unfold semStore; split <;> rfl
theorem semStore_frame (i : Nat) (v : Word) : semStore s i v = { s with sem := (semStore s i v).sem } := by
  apply State.ext_fields <;> simp

/-! ### semServe -/

@[simp] theorem semServe_pending (r i : Nat) : (semServe s r i).pending = s.pending := rfl
@[simp] theorem semServe_up (r i : Nat) : (semServe s r i).up = s.up := rfl
@[simp] theorem semServe_straps (r i : Nat) : (semServe s r i).straps = s.straps := rfl
@[simp] theorem semServe_gradeX (r i : Nat) : (semServe s r i).gradeX = s.gradeX := rfl
@[simp] theorem semServe_regs (r i : Nat) : (semServe s r i).regs = s.regs := rfl
@[simp] theorem semServe_cap (r i : Nat) : (semServe s r i).cap = s.cap := rfl
@[simp] theorem semServe_capFrac (r i : Nat) : (semServe s r i).capFrac = s.capFrac := rfl
@[simp] theorem semServe_rdata (r i : Nat) : (semServe s r i).rdata = s.rdata := rfl
@[simp] theorem semServe_mem (r i : Nat) : (semServe s r i).mem = s.mem := rfl
@[simp] theorem semServe_poison (r i : Nat) : (semServe s r i).poison = s.poison := rfl
@[simp] theorem semServe_flips (r i : Nat) : (semServe s r i).flips = s.flips := rfl
@[simp] theorem semServe_edc (r i : Nat) : (semServe s r i).edc = s.edc := rfl
@[simp] theorem semServe_heldWrites (r i : Nat) : (semServe s r i).heldWrites = s.heldWrites := rfl
@[simp] theorem semServe_msixSent (r i : Nat) : (semServe s r i).msixSent = s.msixSent := rfl
@[simp] theorem semServe_evtNext (r i : Nat) : (semServe s r i).evtNext = s.evtNext := rfl
@[simp] theorem semServe_bbxQueue (r i : Nat) : (semServe s r i).bbxQueue = s.bbxQueue := rfl
@[simp] theorem semServe_gated (r i : Nat) : (semServe s r i).gated = s.gated := rfl
@[simp] theorem semServe_fresh (r i : Nat) : (semServe s r i).fresh = s.fresh := rfl
@[simp] theorem semServe_dt (r i : Nat) : (semServe s r i).dt = s.dt := rfl
@[simp] theorem semServe_ptp (r i : Nat) : (semServe s r i).ptp = s.ptp := rfl
@[simp] theorem semServe_sg (r i : Nat) : (semServe s r i).sg = s.sg := rfl
@[simp] theorem semServe_evc (r i : Nat) : (semServe s r i).evc = s.evc := rfl
@[simp] theorem semServe_ing (r i : Nat) : (semServe s r i).ing = s.ing := rfl
@[simp] theorem semServe_ifc (r i : Nat) : (semServe s r i).ifc = s.ifc := rfl
@[simp] theorem semServe_vis (r i : Nat) : (semServe s r i).vis = s.vis := rfl
@[simp] theorem semServe_fgs (r i : Nat) : (semServe s r i).fgs = s.fgs := rfl
@[simp] theorem semServe_pwr (r i : Nat) : (semServe s r i).pwr = s.pwr := rfl
@[simp] theorem semServe_hif (r i : Nat) : (semServe s r i).hif = s.hif := rfl
@[simp] theorem semServe_tiles (r i : Nat) : (semServe s r i).tiles = s.tiles := rfl
@[simp] theorem semServe_memx (r i : Nat) : (semServe s r i).memx = s.memx := rfl
@[simp] theorem semServe_tfu (r i : Nat) : (semServe s r i).tfu = s.tfu := rfl
@[simp] theorem semServe_lse (r i : Nat) : (semServe s r i).lse = s.lse := rfl
@[simp] theorem semServe_mst (r i : Nat) : (semServe s r i).mst = s.mst := rfl
@[simp] theorem semServe_prs (r i : Nat) : (semServe s r i).prs = s.prs := rfl
@[simp] theorem semServe_safe (r i : Nat) : (semServe s r i).safe = s.safe := rfl
@[simp] theorem semServe_bbx (r i : Nat) : (semServe s r i).bbx = s.bbx := rfl
@[simp] theorem semServe_aon (r i : Nat) : (semServe s r i).aon = s.aon := rfl
@[simp] theorem semServe_sec (r i : Nat) : (semServe s r i).sec = s.sec := rfl
theorem semServe_frame (r i : Nat) : semServe s r i = { s with sem := (semServe s r i).sem } := by
  apply State.ext_fields <;> simp

/-! ### semResult -/

@[simp] theorem semResult_pending (r : Nat) (o : Bool) (i : Nat) : (semResult s r o i).pending = s.pending := rfl
@[simp] theorem semResult_up (r : Nat) (o : Bool) (i : Nat) : (semResult s r o i).up = s.up := rfl
@[simp] theorem semResult_straps (r : Nat) (o : Bool) (i : Nat) : (semResult s r o i).straps = s.straps := rfl
@[simp] theorem semResult_gradeX (r : Nat) (o : Bool) (i : Nat) : (semResult s r o i).gradeX = s.gradeX := rfl
@[simp] theorem semResult_regs (r : Nat) (o : Bool) (i : Nat) : (semResult s r o i).regs = s.regs := rfl
@[simp] theorem semResult_cap (r : Nat) (o : Bool) (i : Nat) : (semResult s r o i).cap = s.cap := rfl
@[simp] theorem semResult_capFrac (r : Nat) (o : Bool) (i : Nat) : (semResult s r o i).capFrac = s.capFrac := rfl
@[simp] theorem semResult_rdata (r : Nat) (o : Bool) (i : Nat) : (semResult s r o i).rdata = s.rdata := rfl
@[simp] theorem semResult_mem (r : Nat) (o : Bool) (i : Nat) : (semResult s r o i).mem = s.mem := rfl
@[simp] theorem semResult_poison (r : Nat) (o : Bool) (i : Nat) : (semResult s r o i).poison = s.poison := rfl
@[simp] theorem semResult_flips (r : Nat) (o : Bool) (i : Nat) : (semResult s r o i).flips = s.flips := rfl
@[simp] theorem semResult_edc (r : Nat) (o : Bool) (i : Nat) : (semResult s r o i).edc = s.edc := rfl
@[simp] theorem semResult_heldWrites (r : Nat) (o : Bool) (i : Nat) : (semResult s r o i).heldWrites = s.heldWrites := rfl
@[simp] theorem semResult_msixSent (r : Nat) (o : Bool) (i : Nat) : (semResult s r o i).msixSent = s.msixSent := rfl
@[simp] theorem semResult_evtNext (r : Nat) (o : Bool) (i : Nat) : (semResult s r o i).evtNext = s.evtNext := rfl
@[simp] theorem semResult_bbxQueue (r : Nat) (o : Bool) (i : Nat) : (semResult s r o i).bbxQueue = s.bbxQueue := rfl
@[simp] theorem semResult_gated (r : Nat) (o : Bool) (i : Nat) : (semResult s r o i).gated = s.gated := rfl
@[simp] theorem semResult_fresh (r : Nat) (o : Bool) (i : Nat) : (semResult s r o i).fresh = s.fresh := rfl
@[simp] theorem semResult_dt (r : Nat) (o : Bool) (i : Nat) : (semResult s r o i).dt = s.dt := rfl
@[simp] theorem semResult_ptp (r : Nat) (o : Bool) (i : Nat) : (semResult s r o i).ptp = s.ptp := rfl
@[simp] theorem semResult_sg (r : Nat) (o : Bool) (i : Nat) : (semResult s r o i).sg = s.sg := rfl
@[simp] theorem semResult_evc (r : Nat) (o : Bool) (i : Nat) : (semResult s r o i).evc = s.evc := rfl
@[simp] theorem semResult_ing (r : Nat) (o : Bool) (i : Nat) : (semResult s r o i).ing = s.ing := rfl
@[simp] theorem semResult_ifc (r : Nat) (o : Bool) (i : Nat) : (semResult s r o i).ifc = s.ifc := rfl
@[simp] theorem semResult_vis (r : Nat) (o : Bool) (i : Nat) : (semResult s r o i).vis = s.vis := rfl
@[simp] theorem semResult_fgs (r : Nat) (o : Bool) (i : Nat) : (semResult s r o i).fgs = s.fgs := rfl
@[simp] theorem semResult_pwr (r : Nat) (o : Bool) (i : Nat) : (semResult s r o i).pwr = s.pwr := rfl
@[simp] theorem semResult_hif (r : Nat) (o : Bool) (i : Nat) : (semResult s r o i).hif = s.hif := rfl
@[simp] theorem semResult_tiles (r : Nat) (o : Bool) (i : Nat) : (semResult s r o i).tiles = s.tiles := rfl
@[simp] theorem semResult_memx (r : Nat) (o : Bool) (i : Nat) : (semResult s r o i).memx = s.memx := rfl
@[simp] theorem semResult_tfu (r : Nat) (o : Bool) (i : Nat) : (semResult s r o i).tfu = s.tfu := rfl
@[simp] theorem semResult_lse (r : Nat) (o : Bool) (i : Nat) : (semResult s r o i).lse = s.lse := rfl
@[simp] theorem semResult_mst (r : Nat) (o : Bool) (i : Nat) : (semResult s r o i).mst = s.mst := rfl
@[simp] theorem semResult_prs (r : Nat) (o : Bool) (i : Nat) : (semResult s r o i).prs = s.prs := rfl
@[simp] theorem semResult_safe (r : Nat) (o : Bool) (i : Nat) : (semResult s r o i).safe = s.safe := rfl
@[simp] theorem semResult_bbx (r : Nat) (o : Bool) (i : Nat) : (semResult s r o i).bbx = s.bbx := rfl
@[simp] theorem semResult_aon (r : Nat) (o : Bool) (i : Nat) : (semResult s r o i).aon = s.aon := rfl
@[simp] theorem semResult_sec (r : Nat) (o : Bool) (i : Nat) : (semResult s r o i).sec = s.sec := rfl
theorem semResult_frame (r : Nat) (o : Bool) (i : Nat) : semResult s r o i = { s with sem := (semResult s r o i).sem } := by
  apply State.ext_fields <;> simp

/-! ### semErr -/

@[simp] theorem semErr_pending (b i : Nat) : (semErr s b i).pending = s.pending := by simp [semErr]
@[simp] theorem semErr_up (b i : Nat) : (semErr s b i).up = s.up := by simp [semErr]
@[simp] theorem semErr_straps (b i : Nat) : (semErr s b i).straps = s.straps := by simp [semErr]
@[simp] theorem semErr_gradeX (b i : Nat) : (semErr s b i).gradeX = s.gradeX := by simp [semErr]
@[simp] theorem semErr_cap (b i : Nat) : (semErr s b i).cap = s.cap := by simp [semErr]
@[simp] theorem semErr_capFrac (b i : Nat) : (semErr s b i).capFrac = s.capFrac := by simp [semErr]
@[simp] theorem semErr_rdata (b i : Nat) : (semErr s b i).rdata = s.rdata := by simp [semErr]
@[simp] theorem semErr_mem (b i : Nat) : (semErr s b i).mem = s.mem := by simp [semErr]
@[simp] theorem semErr_poison (b i : Nat) : (semErr s b i).poison = s.poison := by simp [semErr]
@[simp] theorem semErr_flips (b i : Nat) : (semErr s b i).flips = s.flips := by simp [semErr]
@[simp] theorem semErr_edc (b i : Nat) : (semErr s b i).edc = s.edc := by simp [semErr]
@[simp] theorem semErr_heldWrites (b i : Nat) : (semErr s b i).heldWrites = s.heldWrites := by simp [semErr]
@[simp] theorem semErr_msixSent (b i : Nat) : (semErr s b i).msixSent = s.msixSent := by simp [semErr]
@[simp] theorem semErr_evtNext (b i : Nat) : (semErr s b i).evtNext = s.evtNext := by simp [semErr]
@[simp] theorem semErr_bbxQueue (b i : Nat) : (semErr s b i).bbxQueue = s.bbxQueue := by simp [semErr]
@[simp] theorem semErr_gated (b i : Nat) : (semErr s b i).gated = s.gated := by simp [semErr]
@[simp] theorem semErr_fresh (b i : Nat) : (semErr s b i).fresh = s.fresh := by simp [semErr]
@[simp] theorem semErr_dt (b i : Nat) : (semErr s b i).dt = s.dt := by simp [semErr]
@[simp] theorem semErr_ptp (b i : Nat) : (semErr s b i).ptp = s.ptp := by simp [semErr]
@[simp] theorem semErr_sg (b i : Nat) : (semErr s b i).sg = s.sg := by simp [semErr]
@[simp] theorem semErr_sem (b i : Nat) : (semErr s b i).sem = s.sem := by simp [semErr]
@[simp] theorem semErr_evc (b i : Nat) : (semErr s b i).evc = s.evc := by simp [semErr]
@[simp] theorem semErr_ing (b i : Nat) : (semErr s b i).ing = s.ing := by simp [semErr]
@[simp] theorem semErr_ifc (b i : Nat) : (semErr s b i).ifc = s.ifc := by simp [semErr]
@[simp] theorem semErr_vis (b i : Nat) : (semErr s b i).vis = s.vis := by simp [semErr]
@[simp] theorem semErr_fgs (b i : Nat) : (semErr s b i).fgs = s.fgs := by simp [semErr]
@[simp] theorem semErr_pwr (b i : Nat) : (semErr s b i).pwr = s.pwr := by simp [semErr]
@[simp] theorem semErr_hif (b i : Nat) : (semErr s b i).hif = s.hif := by simp [semErr]
@[simp] theorem semErr_tiles (b i : Nat) : (semErr s b i).tiles = s.tiles := by simp [semErr]
@[simp] theorem semErr_memx (b i : Nat) : (semErr s b i).memx = s.memx := by simp [semErr]
@[simp] theorem semErr_tfu (b i : Nat) : (semErr s b i).tfu = s.tfu := by simp [semErr]
@[simp] theorem semErr_lse (b i : Nat) : (semErr s b i).lse = s.lse := by simp [semErr]
@[simp] theorem semErr_mst (b i : Nat) : (semErr s b i).mst = s.mst := by simp [semErr]
@[simp] theorem semErr_prs (b i : Nat) : (semErr s b i).prs = s.prs := by simp [semErr]
@[simp] theorem semErr_safe (b i : Nat) : (semErr s b i).safe = s.safe := by simp [semErr]
@[simp] theorem semErr_bbx (b i : Nat) : (semErr s b i).bbx = s.bbx := by simp [semErr]
@[simp] theorem semErr_aon (b i : Nat) : (semErr s b i).aon = s.aon := by simp [semErr]
@[simp] theorem semErr_sec (b i : Nat) : (semErr s b i).sec = s.sec := by simp [semErr]
theorem semErr_frame (b i : Nat) : semErr s b i = { s with regs := (semErr s b i).regs } := by
  apply State.ext_fields <;> simp

/-! ### semAddOp -/

@[simp] theorem semAddOp_pending (r i : Nat) (n : Word) : (semAddOp s r i n).pending = s.pending := by unfold semAddOp; dsimp only; split <;> simp
@[simp] theorem semAddOp_up (r i : Nat) (n : Word) : (semAddOp s r i n).up = s.up := by unfold semAddOp; dsimp only; split <;> simp
@[simp] theorem semAddOp_straps (r i : Nat) (n : Word) : (semAddOp s r i n).straps = s.straps := by unfold semAddOp; dsimp only; split <;> simp
@[simp] theorem semAddOp_gradeX (r i : Nat) (n : Word) : (semAddOp s r i n).gradeX = s.gradeX := by unfold semAddOp; dsimp only; split <;> simp
@[simp] theorem semAddOp_cap (r i : Nat) (n : Word) : (semAddOp s r i n).cap = s.cap := by unfold semAddOp; dsimp only; split <;> simp
@[simp] theorem semAddOp_capFrac (r i : Nat) (n : Word) : (semAddOp s r i n).capFrac = s.capFrac := by unfold semAddOp; dsimp only; split <;> simp
@[simp] theorem semAddOp_rdata (r i : Nat) (n : Word) : (semAddOp s r i n).rdata = s.rdata := by unfold semAddOp; dsimp only; split <;> simp
@[simp] theorem semAddOp_mem (r i : Nat) (n : Word) : (semAddOp s r i n).mem = s.mem := by unfold semAddOp; dsimp only; split <;> simp
@[simp] theorem semAddOp_poison (r i : Nat) (n : Word) : (semAddOp s r i n).poison = s.poison := by unfold semAddOp; dsimp only; split <;> simp
@[simp] theorem semAddOp_flips (r i : Nat) (n : Word) : (semAddOp s r i n).flips = s.flips := by unfold semAddOp; dsimp only; split <;> simp
@[simp] theorem semAddOp_edc (r i : Nat) (n : Word) : (semAddOp s r i n).edc = s.edc := by unfold semAddOp; dsimp only; split <;> simp
@[simp] theorem semAddOp_heldWrites (r i : Nat) (n : Word) : (semAddOp s r i n).heldWrites = s.heldWrites := by unfold semAddOp; dsimp only; split <;> simp
@[simp] theorem semAddOp_msixSent (r i : Nat) (n : Word) : (semAddOp s r i n).msixSent = s.msixSent := by unfold semAddOp; dsimp only; split <;> simp
@[simp] theorem semAddOp_evtNext (r i : Nat) (n : Word) : (semAddOp s r i n).evtNext = s.evtNext := by unfold semAddOp; dsimp only; split <;> simp
@[simp] theorem semAddOp_bbxQueue (r i : Nat) (n : Word) : (semAddOp s r i n).bbxQueue = s.bbxQueue := by unfold semAddOp; dsimp only; split <;> simp
@[simp] theorem semAddOp_gated (r i : Nat) (n : Word) : (semAddOp s r i n).gated = s.gated := by unfold semAddOp; dsimp only; split <;> simp
@[simp] theorem semAddOp_fresh (r i : Nat) (n : Word) : (semAddOp s r i n).fresh = s.fresh := by unfold semAddOp; dsimp only; split <;> simp
@[simp] theorem semAddOp_dt (r i : Nat) (n : Word) : (semAddOp s r i n).dt = s.dt := by unfold semAddOp; dsimp only; split <;> simp
@[simp] theorem semAddOp_ptp (r i : Nat) (n : Word) : (semAddOp s r i n).ptp = s.ptp := by unfold semAddOp; dsimp only; split <;> simp
@[simp] theorem semAddOp_sg (r i : Nat) (n : Word) : (semAddOp s r i n).sg = s.sg := by unfold semAddOp; dsimp only; split <;> simp
@[simp] theorem semAddOp_evc (r i : Nat) (n : Word) : (semAddOp s r i n).evc = s.evc := by unfold semAddOp; dsimp only; split <;> simp
@[simp] theorem semAddOp_ing (r i : Nat) (n : Word) : (semAddOp s r i n).ing = s.ing := by unfold semAddOp; dsimp only; split <;> simp
@[simp] theorem semAddOp_ifc (r i : Nat) (n : Word) : (semAddOp s r i n).ifc = s.ifc := by unfold semAddOp; dsimp only; split <;> simp
@[simp] theorem semAddOp_vis (r i : Nat) (n : Word) : (semAddOp s r i n).vis = s.vis := by unfold semAddOp; dsimp only; split <;> simp
@[simp] theorem semAddOp_fgs (r i : Nat) (n : Word) : (semAddOp s r i n).fgs = s.fgs := by unfold semAddOp; dsimp only; split <;> simp
@[simp] theorem semAddOp_pwr (r i : Nat) (n : Word) : (semAddOp s r i n).pwr = s.pwr := by unfold semAddOp; dsimp only; split <;> simp
@[simp] theorem semAddOp_hif (r i : Nat) (n : Word) : (semAddOp s r i n).hif = s.hif := by unfold semAddOp; dsimp only; split <;> simp
@[simp] theorem semAddOp_tiles (r i : Nat) (n : Word) : (semAddOp s r i n).tiles = s.tiles := by unfold semAddOp; dsimp only; split <;> simp
@[simp] theorem semAddOp_memx (r i : Nat) (n : Word) : (semAddOp s r i n).memx = s.memx := by unfold semAddOp; dsimp only; split <;> simp
@[simp] theorem semAddOp_tfu (r i : Nat) (n : Word) : (semAddOp s r i n).tfu = s.tfu := by unfold semAddOp; dsimp only; split <;> simp
@[simp] theorem semAddOp_lse (r i : Nat) (n : Word) : (semAddOp s r i n).lse = s.lse := by unfold semAddOp; dsimp only; split <;> simp
@[simp] theorem semAddOp_mst (r i : Nat) (n : Word) : (semAddOp s r i n).mst = s.mst := by unfold semAddOp; dsimp only; split <;> simp
@[simp] theorem semAddOp_prs (r i : Nat) (n : Word) : (semAddOp s r i n).prs = s.prs := by unfold semAddOp; dsimp only; split <;> simp
@[simp] theorem semAddOp_safe (r i : Nat) (n : Word) : (semAddOp s r i n).safe = s.safe := by unfold semAddOp; dsimp only; split <;> simp
@[simp] theorem semAddOp_bbx (r i : Nat) (n : Word) : (semAddOp s r i n).bbx = s.bbx := by unfold semAddOp; dsimp only; split <;> simp
@[simp] theorem semAddOp_aon (r i : Nat) (n : Word) : (semAddOp s r i n).aon = s.aon := by unfold semAddOp; dsimp only; split <;> simp
@[simp] theorem semAddOp_sec (r i : Nat) (n : Word) : (semAddOp s r i n).sec = s.sec := by unfold semAddOp; dsimp only; split <;> simp
theorem semAddOp_frame (r i : Nat) (n : Word) : semAddOp s r i n = { s with sem := (semAddOp s r i n).sem, regs := (semAddOp s r i n).regs } := by
  apply State.ext_fields <;> simp

/-! ### semSubOp -/

@[simp] theorem semSubOp_pending (r i : Nat) (n : Word) : (semSubOp s r i n).pending = s.pending := by unfold semSubOp; dsimp only; split <;> simp
@[simp] theorem semSubOp_up (r i : Nat) (n : Word) : (semSubOp s r i n).up = s.up := by unfold semSubOp; dsimp only; split <;> simp
@[simp] theorem semSubOp_straps (r i : Nat) (n : Word) : (semSubOp s r i n).straps = s.straps := by unfold semSubOp; dsimp only; split <;> simp
@[simp] theorem semSubOp_gradeX (r i : Nat) (n : Word) : (semSubOp s r i n).gradeX = s.gradeX := by unfold semSubOp; dsimp only; split <;> simp
@[simp] theorem semSubOp_cap (r i : Nat) (n : Word) : (semSubOp s r i n).cap = s.cap := by unfold semSubOp; dsimp only; split <;> simp
@[simp] theorem semSubOp_capFrac (r i : Nat) (n : Word) : (semSubOp s r i n).capFrac = s.capFrac := by unfold semSubOp; dsimp only; split <;> simp
@[simp] theorem semSubOp_rdata (r i : Nat) (n : Word) : (semSubOp s r i n).rdata = s.rdata := by unfold semSubOp; dsimp only; split <;> simp
@[simp] theorem semSubOp_mem (r i : Nat) (n : Word) : (semSubOp s r i n).mem = s.mem := by unfold semSubOp; dsimp only; split <;> simp
@[simp] theorem semSubOp_poison (r i : Nat) (n : Word) : (semSubOp s r i n).poison = s.poison := by unfold semSubOp; dsimp only; split <;> simp
@[simp] theorem semSubOp_flips (r i : Nat) (n : Word) : (semSubOp s r i n).flips = s.flips := by unfold semSubOp; dsimp only; split <;> simp
@[simp] theorem semSubOp_edc (r i : Nat) (n : Word) : (semSubOp s r i n).edc = s.edc := by unfold semSubOp; dsimp only; split <;> simp
@[simp] theorem semSubOp_heldWrites (r i : Nat) (n : Word) : (semSubOp s r i n).heldWrites = s.heldWrites := by unfold semSubOp; dsimp only; split <;> simp
@[simp] theorem semSubOp_msixSent (r i : Nat) (n : Word) : (semSubOp s r i n).msixSent = s.msixSent := by unfold semSubOp; dsimp only; split <;> simp
@[simp] theorem semSubOp_evtNext (r i : Nat) (n : Word) : (semSubOp s r i n).evtNext = s.evtNext := by unfold semSubOp; dsimp only; split <;> simp
@[simp] theorem semSubOp_bbxQueue (r i : Nat) (n : Word) : (semSubOp s r i n).bbxQueue = s.bbxQueue := by unfold semSubOp; dsimp only; split <;> simp
@[simp] theorem semSubOp_gated (r i : Nat) (n : Word) : (semSubOp s r i n).gated = s.gated := by unfold semSubOp; dsimp only; split <;> simp
@[simp] theorem semSubOp_fresh (r i : Nat) (n : Word) : (semSubOp s r i n).fresh = s.fresh := by unfold semSubOp; dsimp only; split <;> simp
@[simp] theorem semSubOp_dt (r i : Nat) (n : Word) : (semSubOp s r i n).dt = s.dt := by unfold semSubOp; dsimp only; split <;> simp
@[simp] theorem semSubOp_ptp (r i : Nat) (n : Word) : (semSubOp s r i n).ptp = s.ptp := by unfold semSubOp; dsimp only; split <;> simp
@[simp] theorem semSubOp_sg (r i : Nat) (n : Word) : (semSubOp s r i n).sg = s.sg := by unfold semSubOp; dsimp only; split <;> simp
@[simp] theorem semSubOp_evc (r i : Nat) (n : Word) : (semSubOp s r i n).evc = s.evc := by unfold semSubOp; dsimp only; split <;> simp
@[simp] theorem semSubOp_ing (r i : Nat) (n : Word) : (semSubOp s r i n).ing = s.ing := by unfold semSubOp; dsimp only; split <;> simp
@[simp] theorem semSubOp_ifc (r i : Nat) (n : Word) : (semSubOp s r i n).ifc = s.ifc := by unfold semSubOp; dsimp only; split <;> simp
@[simp] theorem semSubOp_vis (r i : Nat) (n : Word) : (semSubOp s r i n).vis = s.vis := by unfold semSubOp; dsimp only; split <;> simp
@[simp] theorem semSubOp_fgs (r i : Nat) (n : Word) : (semSubOp s r i n).fgs = s.fgs := by unfold semSubOp; dsimp only; split <;> simp
@[simp] theorem semSubOp_pwr (r i : Nat) (n : Word) : (semSubOp s r i n).pwr = s.pwr := by unfold semSubOp; dsimp only; split <;> simp
@[simp] theorem semSubOp_hif (r i : Nat) (n : Word) : (semSubOp s r i n).hif = s.hif := by unfold semSubOp; dsimp only; split <;> simp
@[simp] theorem semSubOp_tiles (r i : Nat) (n : Word) : (semSubOp s r i n).tiles = s.tiles := by unfold semSubOp; dsimp only; split <;> simp
@[simp] theorem semSubOp_memx (r i : Nat) (n : Word) : (semSubOp s r i n).memx = s.memx := by unfold semSubOp; dsimp only; split <;> simp
@[simp] theorem semSubOp_tfu (r i : Nat) (n : Word) : (semSubOp s r i n).tfu = s.tfu := by unfold semSubOp; dsimp only; split <;> simp
@[simp] theorem semSubOp_lse (r i : Nat) (n : Word) : (semSubOp s r i n).lse = s.lse := by unfold semSubOp; dsimp only; split <;> simp
@[simp] theorem semSubOp_mst (r i : Nat) (n : Word) : (semSubOp s r i n).mst = s.mst := by unfold semSubOp; dsimp only; split <;> simp
@[simp] theorem semSubOp_prs (r i : Nat) (n : Word) : (semSubOp s r i n).prs = s.prs := by unfold semSubOp; dsimp only; split <;> simp
@[simp] theorem semSubOp_safe (r i : Nat) (n : Word) : (semSubOp s r i n).safe = s.safe := by unfold semSubOp; dsimp only; split <;> simp
@[simp] theorem semSubOp_bbx (r i : Nat) (n : Word) : (semSubOp s r i n).bbx = s.bbx := by unfold semSubOp; dsimp only; split <;> simp
@[simp] theorem semSubOp_aon (r i : Nat) (n : Word) : (semSubOp s r i n).aon = s.aon := by unfold semSubOp; dsimp only; split <;> simp
@[simp] theorem semSubOp_sec (r i : Nat) (n : Word) : (semSubOp s r i n).sec = s.sec := by unfold semSubOp; dsimp only; split <;> simp
theorem semSubOp_frame (r i : Nat) (n : Word) : semSubOp s r i n = { s with sem := (semSubOp s r i n).sem, regs := (semSubOp s r i n).regs } := by
  apply State.ext_fields <;> simp

/-! ### semWaitOp -/

@[simp] theorem semWaitOp_pending (r i : Nat) (n : Word) : (semWaitOp s r i n).pending = s.pending := rfl
@[simp] theorem semWaitOp_up (r i : Nat) (n : Word) : (semWaitOp s r i n).up = s.up := rfl
@[simp] theorem semWaitOp_straps (r i : Nat) (n : Word) : (semWaitOp s r i n).straps = s.straps := rfl
@[simp] theorem semWaitOp_gradeX (r i : Nat) (n : Word) : (semWaitOp s r i n).gradeX = s.gradeX := rfl
@[simp] theorem semWaitOp_regs (r i : Nat) (n : Word) : (semWaitOp s r i n).regs = s.regs := rfl
@[simp] theorem semWaitOp_cap (r i : Nat) (n : Word) : (semWaitOp s r i n).cap = s.cap := rfl
@[simp] theorem semWaitOp_capFrac (r i : Nat) (n : Word) : (semWaitOp s r i n).capFrac = s.capFrac := rfl
@[simp] theorem semWaitOp_rdata (r i : Nat) (n : Word) : (semWaitOp s r i n).rdata = s.rdata := rfl
@[simp] theorem semWaitOp_mem (r i : Nat) (n : Word) : (semWaitOp s r i n).mem = s.mem := rfl
@[simp] theorem semWaitOp_poison (r i : Nat) (n : Word) : (semWaitOp s r i n).poison = s.poison := rfl
@[simp] theorem semWaitOp_flips (r i : Nat) (n : Word) : (semWaitOp s r i n).flips = s.flips := rfl
@[simp] theorem semWaitOp_edc (r i : Nat) (n : Word) : (semWaitOp s r i n).edc = s.edc := rfl
@[simp] theorem semWaitOp_heldWrites (r i : Nat) (n : Word) : (semWaitOp s r i n).heldWrites = s.heldWrites := rfl
@[simp] theorem semWaitOp_msixSent (r i : Nat) (n : Word) : (semWaitOp s r i n).msixSent = s.msixSent := rfl
@[simp] theorem semWaitOp_evtNext (r i : Nat) (n : Word) : (semWaitOp s r i n).evtNext = s.evtNext := rfl
@[simp] theorem semWaitOp_bbxQueue (r i : Nat) (n : Word) : (semWaitOp s r i n).bbxQueue = s.bbxQueue := rfl
@[simp] theorem semWaitOp_gated (r i : Nat) (n : Word) : (semWaitOp s r i n).gated = s.gated := rfl
@[simp] theorem semWaitOp_fresh (r i : Nat) (n : Word) : (semWaitOp s r i n).fresh = s.fresh := rfl
@[simp] theorem semWaitOp_dt (r i : Nat) (n : Word) : (semWaitOp s r i n).dt = s.dt := rfl
@[simp] theorem semWaitOp_ptp (r i : Nat) (n : Word) : (semWaitOp s r i n).ptp = s.ptp := rfl
@[simp] theorem semWaitOp_sg (r i : Nat) (n : Word) : (semWaitOp s r i n).sg = s.sg := rfl
@[simp] theorem semWaitOp_evc (r i : Nat) (n : Word) : (semWaitOp s r i n).evc = s.evc := rfl
@[simp] theorem semWaitOp_ing (r i : Nat) (n : Word) : (semWaitOp s r i n).ing = s.ing := rfl
@[simp] theorem semWaitOp_ifc (r i : Nat) (n : Word) : (semWaitOp s r i n).ifc = s.ifc := rfl
@[simp] theorem semWaitOp_vis (r i : Nat) (n : Word) : (semWaitOp s r i n).vis = s.vis := rfl
@[simp] theorem semWaitOp_fgs (r i : Nat) (n : Word) : (semWaitOp s r i n).fgs = s.fgs := rfl
@[simp] theorem semWaitOp_pwr (r i : Nat) (n : Word) : (semWaitOp s r i n).pwr = s.pwr := rfl
@[simp] theorem semWaitOp_hif (r i : Nat) (n : Word) : (semWaitOp s r i n).hif = s.hif := rfl
@[simp] theorem semWaitOp_tiles (r i : Nat) (n : Word) : (semWaitOp s r i n).tiles = s.tiles := rfl
@[simp] theorem semWaitOp_memx (r i : Nat) (n : Word) : (semWaitOp s r i n).memx = s.memx := rfl
@[simp] theorem semWaitOp_tfu (r i : Nat) (n : Word) : (semWaitOp s r i n).tfu = s.tfu := rfl
@[simp] theorem semWaitOp_lse (r i : Nat) (n : Word) : (semWaitOp s r i n).lse = s.lse := rfl
@[simp] theorem semWaitOp_mst (r i : Nat) (n : Word) : (semWaitOp s r i n).mst = s.mst := rfl
@[simp] theorem semWaitOp_prs (r i : Nat) (n : Word) : (semWaitOp s r i n).prs = s.prs := rfl
@[simp] theorem semWaitOp_safe (r i : Nat) (n : Word) : (semWaitOp s r i n).safe = s.safe := rfl
@[simp] theorem semWaitOp_bbx (r i : Nat) (n : Word) : (semWaitOp s r i n).bbx = s.bbx := rfl
@[simp] theorem semWaitOp_aon (r i : Nat) (n : Word) : (semWaitOp s r i n).aon = s.aon := rfl
@[simp] theorem semWaitOp_sec (r i : Nat) (n : Word) : (semWaitOp s r i n).sec = s.sec := rfl
theorem semWaitOp_frame (r i : Nat) (n : Word) : semWaitOp s r i n = { s with sem := (semWaitOp s r i n).sem } := by
  apply State.ext_fields <;> simp

/-! ### semWaitsubOp -/

@[simp] theorem semWaitsubOp_pending (r i : Nat) (n : Word) : (semWaitsubOp s r i n).pending = s.pending := by unfold semWaitsubOp; dsimp only; split <;> simp
@[simp] theorem semWaitsubOp_up (r i : Nat) (n : Word) : (semWaitsubOp s r i n).up = s.up := by unfold semWaitsubOp; dsimp only; split <;> simp
@[simp] theorem semWaitsubOp_straps (r i : Nat) (n : Word) : (semWaitsubOp s r i n).straps = s.straps := by unfold semWaitsubOp; dsimp only; split <;> simp
@[simp] theorem semWaitsubOp_gradeX (r i : Nat) (n : Word) : (semWaitsubOp s r i n).gradeX = s.gradeX := by unfold semWaitsubOp; dsimp only; split <;> simp
@[simp] theorem semWaitsubOp_regs (r i : Nat) (n : Word) : (semWaitsubOp s r i n).regs = s.regs := by unfold semWaitsubOp; dsimp only; split <;> simp
@[simp] theorem semWaitsubOp_cap (r i : Nat) (n : Word) : (semWaitsubOp s r i n).cap = s.cap := by unfold semWaitsubOp; dsimp only; split <;> simp
@[simp] theorem semWaitsubOp_capFrac (r i : Nat) (n : Word) : (semWaitsubOp s r i n).capFrac = s.capFrac := by unfold semWaitsubOp; dsimp only; split <;> simp
@[simp] theorem semWaitsubOp_rdata (r i : Nat) (n : Word) : (semWaitsubOp s r i n).rdata = s.rdata := by unfold semWaitsubOp; dsimp only; split <;> simp
@[simp] theorem semWaitsubOp_mem (r i : Nat) (n : Word) : (semWaitsubOp s r i n).mem = s.mem := by unfold semWaitsubOp; dsimp only; split <;> simp
@[simp] theorem semWaitsubOp_poison (r i : Nat) (n : Word) : (semWaitsubOp s r i n).poison = s.poison := by unfold semWaitsubOp; dsimp only; split <;> simp
@[simp] theorem semWaitsubOp_flips (r i : Nat) (n : Word) : (semWaitsubOp s r i n).flips = s.flips := by unfold semWaitsubOp; dsimp only; split <;> simp
@[simp] theorem semWaitsubOp_edc (r i : Nat) (n : Word) : (semWaitsubOp s r i n).edc = s.edc := by unfold semWaitsubOp; dsimp only; split <;> simp
@[simp] theorem semWaitsubOp_heldWrites (r i : Nat) (n : Word) : (semWaitsubOp s r i n).heldWrites = s.heldWrites := by unfold semWaitsubOp; dsimp only; split <;> simp
@[simp] theorem semWaitsubOp_msixSent (r i : Nat) (n : Word) : (semWaitsubOp s r i n).msixSent = s.msixSent := by unfold semWaitsubOp; dsimp only; split <;> simp
@[simp] theorem semWaitsubOp_evtNext (r i : Nat) (n : Word) : (semWaitsubOp s r i n).evtNext = s.evtNext := by unfold semWaitsubOp; dsimp only; split <;> simp
@[simp] theorem semWaitsubOp_bbxQueue (r i : Nat) (n : Word) : (semWaitsubOp s r i n).bbxQueue = s.bbxQueue := by unfold semWaitsubOp; dsimp only; split <;> simp
@[simp] theorem semWaitsubOp_gated (r i : Nat) (n : Word) : (semWaitsubOp s r i n).gated = s.gated := by unfold semWaitsubOp; dsimp only; split <;> simp
@[simp] theorem semWaitsubOp_fresh (r i : Nat) (n : Word) : (semWaitsubOp s r i n).fresh = s.fresh := by unfold semWaitsubOp; dsimp only; split <;> simp
@[simp] theorem semWaitsubOp_dt (r i : Nat) (n : Word) : (semWaitsubOp s r i n).dt = s.dt := by unfold semWaitsubOp; dsimp only; split <;> simp
@[simp] theorem semWaitsubOp_ptp (r i : Nat) (n : Word) : (semWaitsubOp s r i n).ptp = s.ptp := by unfold semWaitsubOp; dsimp only; split <;> simp
@[simp] theorem semWaitsubOp_sg (r i : Nat) (n : Word) : (semWaitsubOp s r i n).sg = s.sg := by unfold semWaitsubOp; dsimp only; split <;> simp
@[simp] theorem semWaitsubOp_evc (r i : Nat) (n : Word) : (semWaitsubOp s r i n).evc = s.evc := by unfold semWaitsubOp; dsimp only; split <;> simp
@[simp] theorem semWaitsubOp_ing (r i : Nat) (n : Word) : (semWaitsubOp s r i n).ing = s.ing := by unfold semWaitsubOp; dsimp only; split <;> simp
@[simp] theorem semWaitsubOp_ifc (r i : Nat) (n : Word) : (semWaitsubOp s r i n).ifc = s.ifc := by unfold semWaitsubOp; dsimp only; split <;> simp
@[simp] theorem semWaitsubOp_vis (r i : Nat) (n : Word) : (semWaitsubOp s r i n).vis = s.vis := by unfold semWaitsubOp; dsimp only; split <;> simp
@[simp] theorem semWaitsubOp_fgs (r i : Nat) (n : Word) : (semWaitsubOp s r i n).fgs = s.fgs := by unfold semWaitsubOp; dsimp only; split <;> simp
@[simp] theorem semWaitsubOp_pwr (r i : Nat) (n : Word) : (semWaitsubOp s r i n).pwr = s.pwr := by unfold semWaitsubOp; dsimp only; split <;> simp
@[simp] theorem semWaitsubOp_hif (r i : Nat) (n : Word) : (semWaitsubOp s r i n).hif = s.hif := by unfold semWaitsubOp; dsimp only; split <;> simp
@[simp] theorem semWaitsubOp_tiles (r i : Nat) (n : Word) : (semWaitsubOp s r i n).tiles = s.tiles := by unfold semWaitsubOp; dsimp only; split <;> simp
@[simp] theorem semWaitsubOp_memx (r i : Nat) (n : Word) : (semWaitsubOp s r i n).memx = s.memx := by unfold semWaitsubOp; dsimp only; split <;> simp
@[simp] theorem semWaitsubOp_tfu (r i : Nat) (n : Word) : (semWaitsubOp s r i n).tfu = s.tfu := by unfold semWaitsubOp; dsimp only; split <;> simp
@[simp] theorem semWaitsubOp_lse (r i : Nat) (n : Word) : (semWaitsubOp s r i n).lse = s.lse := by unfold semWaitsubOp; dsimp only; split <;> simp
@[simp] theorem semWaitsubOp_mst (r i : Nat) (n : Word) : (semWaitsubOp s r i n).mst = s.mst := by unfold semWaitsubOp; dsimp only; split <;> simp
@[simp] theorem semWaitsubOp_prs (r i : Nat) (n : Word) : (semWaitsubOp s r i n).prs = s.prs := by unfold semWaitsubOp; dsimp only; split <;> simp
@[simp] theorem semWaitsubOp_safe (r i : Nat) (n : Word) : (semWaitsubOp s r i n).safe = s.safe := by unfold semWaitsubOp; dsimp only; split <;> simp
@[simp] theorem semWaitsubOp_bbx (r i : Nat) (n : Word) : (semWaitsubOp s r i n).bbx = s.bbx := by unfold semWaitsubOp; dsimp only; split <;> simp
@[simp] theorem semWaitsubOp_aon (r i : Nat) (n : Word) : (semWaitsubOp s r i n).aon = s.aon := by unfold semWaitsubOp; dsimp only; split <;> simp
@[simp] theorem semWaitsubOp_sec (r i : Nat) (n : Word) : (semWaitsubOp s r i n).sec = s.sec := by unfold semWaitsubOp; dsimp only; split <;> simp
theorem semWaitsubOp_frame (r i : Nat) (n : Word) : semWaitsubOp s r i n = { s with sem := (semWaitsubOp s r i n).sem } := by
  apply State.ext_fields <;> simp

/-! ### semSetOp -/

@[simp] theorem semSetOp_pending (r i : Nat) (v : Word) (p : Nat) : (semSetOp s r i v p).pending = s.pending := by simp [semSetOp]
@[simp] theorem semSetOp_up (r i : Nat) (v : Word) (p : Nat) : (semSetOp s r i v p).up = s.up := by simp [semSetOp]
@[simp] theorem semSetOp_straps (r i : Nat) (v : Word) (p : Nat) : (semSetOp s r i v p).straps = s.straps := by simp [semSetOp]
@[simp] theorem semSetOp_gradeX (r i : Nat) (v : Word) (p : Nat) : (semSetOp s r i v p).gradeX = s.gradeX := by simp [semSetOp]
@[simp] theorem semSetOp_cap (r i : Nat) (v : Word) (p : Nat) : (semSetOp s r i v p).cap = s.cap := by simp [semSetOp]
@[simp] theorem semSetOp_capFrac (r i : Nat) (v : Word) (p : Nat) : (semSetOp s r i v p).capFrac = s.capFrac := by simp [semSetOp]
@[simp] theorem semSetOp_rdata (r i : Nat) (v : Word) (p : Nat) : (semSetOp s r i v p).rdata = s.rdata := by simp [semSetOp]
@[simp] theorem semSetOp_mem (r i : Nat) (v : Word) (p : Nat) : (semSetOp s r i v p).mem = s.mem := by simp [semSetOp]
@[simp] theorem semSetOp_poison (r i : Nat) (v : Word) (p : Nat) : (semSetOp s r i v p).poison = s.poison := by simp [semSetOp]
@[simp] theorem semSetOp_flips (r i : Nat) (v : Word) (p : Nat) : (semSetOp s r i v p).flips = s.flips := by simp [semSetOp]
@[simp] theorem semSetOp_edc (r i : Nat) (v : Word) (p : Nat) : (semSetOp s r i v p).edc = s.edc := by simp [semSetOp]
@[simp] theorem semSetOp_heldWrites (r i : Nat) (v : Word) (p : Nat) : (semSetOp s r i v p).heldWrites = s.heldWrites := by simp [semSetOp]
@[simp] theorem semSetOp_msixSent (r i : Nat) (v : Word) (p : Nat) : (semSetOp s r i v p).msixSent = s.msixSent := by simp [semSetOp]
@[simp] theorem semSetOp_evtNext (r i : Nat) (v : Word) (p : Nat) : (semSetOp s r i v p).evtNext = s.evtNext := by simp [semSetOp]
@[simp] theorem semSetOp_gated (r i : Nat) (v : Word) (p : Nat) : (semSetOp s r i v p).gated = s.gated := by simp [semSetOp]
@[simp] theorem semSetOp_fresh (r i : Nat) (v : Word) (p : Nat) : (semSetOp s r i v p).fresh = s.fresh := by simp [semSetOp]
@[simp] theorem semSetOp_dt (r i : Nat) (v : Word) (p : Nat) : (semSetOp s r i v p).dt = s.dt := by simp [semSetOp]
@[simp] theorem semSetOp_ptp (r i : Nat) (v : Word) (p : Nat) : (semSetOp s r i v p).ptp = s.ptp := by simp [semSetOp]
@[simp] theorem semSetOp_sg (r i : Nat) (v : Word) (p : Nat) : (semSetOp s r i v p).sg = s.sg := by simp [semSetOp]
@[simp] theorem semSetOp_evc (r i : Nat) (v : Word) (p : Nat) : (semSetOp s r i v p).evc = s.evc := by simp [semSetOp]
@[simp] theorem semSetOp_ing (r i : Nat) (v : Word) (p : Nat) : (semSetOp s r i v p).ing = s.ing := by simp [semSetOp]
@[simp] theorem semSetOp_ifc (r i : Nat) (v : Word) (p : Nat) : (semSetOp s r i v p).ifc = s.ifc := by simp [semSetOp]
@[simp] theorem semSetOp_vis (r i : Nat) (v : Word) (p : Nat) : (semSetOp s r i v p).vis = s.vis := by simp [semSetOp]
@[simp] theorem semSetOp_fgs (r i : Nat) (v : Word) (p : Nat) : (semSetOp s r i v p).fgs = s.fgs := by simp [semSetOp]
@[simp] theorem semSetOp_pwr (r i : Nat) (v : Word) (p : Nat) : (semSetOp s r i v p).pwr = s.pwr := by simp [semSetOp]
@[simp] theorem semSetOp_hif (r i : Nat) (v : Word) (p : Nat) : (semSetOp s r i v p).hif = s.hif := by simp [semSetOp]
@[simp] theorem semSetOp_tiles (r i : Nat) (v : Word) (p : Nat) : (semSetOp s r i v p).tiles = s.tiles := by simp [semSetOp]
@[simp] theorem semSetOp_memx (r i : Nat) (v : Word) (p : Nat) : (semSetOp s r i v p).memx = s.memx := by simp [semSetOp]
@[simp] theorem semSetOp_tfu (r i : Nat) (v : Word) (p : Nat) : (semSetOp s r i v p).tfu = s.tfu := by simp [semSetOp]
@[simp] theorem semSetOp_lse (r i : Nat) (v : Word) (p : Nat) : (semSetOp s r i v p).lse = s.lse := by simp [semSetOp]
@[simp] theorem semSetOp_mst (r i : Nat) (v : Word) (p : Nat) : (semSetOp s r i v p).mst = s.mst := by simp [semSetOp]
@[simp] theorem semSetOp_prs (r i : Nat) (v : Word) (p : Nat) : (semSetOp s r i v p).prs = s.prs := by simp [semSetOp]
@[simp] theorem semSetOp_safe (r i : Nat) (v : Word) (p : Nat) : (semSetOp s r i v p).safe = s.safe := by simp [semSetOp]
@[simp] theorem semSetOp_bbx (r i : Nat) (v : Word) (p : Nat) : (semSetOp s r i v p).bbx = s.bbx := by simp [semSetOp]
@[simp] theorem semSetOp_aon (r i : Nat) (v : Word) (p : Nat) : (semSetOp s r i v p).aon = s.aon := by simp [semSetOp]
@[simp] theorem semSetOp_sec (r i : Nat) (v : Word) (p : Nat) : (semSetOp s r i v p).sec = s.sec := by simp [semSetOp]
theorem semSetOp_frame (r i : Nat) (v : Word) (p : Nat) : semSetOp s r i v p = { s with sem := (semSetOp s r i v p).sem, regs := (semSetOp s r i v p).regs, bbxQueue := (semSetOp s r i v p).bbxQueue } := by
  apply State.ext_fields <;> simp

/-! ### raiseEdge -/

@[simp] theorem raiseEdge_pending (n : Nat) : (raiseEdge s n).pending = s.pending := by unfold raiseEdge; (repeat' split) <;> rfl
@[simp] theorem raiseEdge_up (n : Nat) : (raiseEdge s n).up = s.up := by unfold raiseEdge; (repeat' split) <;> rfl
@[simp] theorem raiseEdge_straps (n : Nat) : (raiseEdge s n).straps = s.straps := by unfold raiseEdge; (repeat' split) <;> rfl
@[simp] theorem raiseEdge_gradeX (n : Nat) : (raiseEdge s n).gradeX = s.gradeX := by unfold raiseEdge; (repeat' split) <;> rfl
@[simp] theorem raiseEdge_regs (n : Nat) : (raiseEdge s n).regs = s.regs := by unfold raiseEdge; (repeat' split) <;> rfl
@[simp] theorem raiseEdge_cap (n : Nat) : (raiseEdge s n).cap = s.cap := by unfold raiseEdge; (repeat' split) <;> rfl
@[simp] theorem raiseEdge_capFrac (n : Nat) : (raiseEdge s n).capFrac = s.capFrac := by unfold raiseEdge; (repeat' split) <;> rfl
@[simp] theorem raiseEdge_rdata (n : Nat) : (raiseEdge s n).rdata = s.rdata := by unfold raiseEdge; (repeat' split) <;> rfl
@[simp] theorem raiseEdge_mem (n : Nat) : (raiseEdge s n).mem = s.mem := by unfold raiseEdge; (repeat' split) <;> rfl
@[simp] theorem raiseEdge_poison (n : Nat) : (raiseEdge s n).poison = s.poison := by unfold raiseEdge; (repeat' split) <;> rfl
@[simp] theorem raiseEdge_flips (n : Nat) : (raiseEdge s n).flips = s.flips := by unfold raiseEdge; (repeat' split) <;> rfl
@[simp] theorem raiseEdge_edc (n : Nat) : (raiseEdge s n).edc = s.edc := by unfold raiseEdge; (repeat' split) <;> rfl
@[simp] theorem raiseEdge_heldWrites (n : Nat) : (raiseEdge s n).heldWrites = s.heldWrites := by unfold raiseEdge; (repeat' split) <;> rfl
@[simp] theorem raiseEdge_msixSent (n : Nat) : (raiseEdge s n).msixSent = s.msixSent := by unfold raiseEdge; (repeat' split) <;> rfl
@[simp] theorem raiseEdge_evtNext (n : Nat) : (raiseEdge s n).evtNext = s.evtNext := by unfold raiseEdge; (repeat' split) <;> rfl
@[simp] theorem raiseEdge_bbxQueue (n : Nat) : (raiseEdge s n).bbxQueue = s.bbxQueue := by unfold raiseEdge; (repeat' split) <;> rfl
@[simp] theorem raiseEdge_gated (n : Nat) : (raiseEdge s n).gated = s.gated := by unfold raiseEdge; (repeat' split) <;> rfl
@[simp] theorem raiseEdge_fresh (n : Nat) : (raiseEdge s n).fresh = s.fresh := by unfold raiseEdge; (repeat' split) <;> rfl
@[simp] theorem raiseEdge_dt (n : Nat) : (raiseEdge s n).dt = s.dt := by unfold raiseEdge; (repeat' split) <;> rfl
@[simp] theorem raiseEdge_ptp (n : Nat) : (raiseEdge s n).ptp = s.ptp := by unfold raiseEdge; (repeat' split) <;> rfl
@[simp] theorem raiseEdge_sg (n : Nat) : (raiseEdge s n).sg = s.sg := by unfold raiseEdge; (repeat' split) <;> rfl
@[simp] theorem raiseEdge_sem (n : Nat) : (raiseEdge s n).sem = s.sem := by unfold raiseEdge; (repeat' split) <;> rfl
@[simp] theorem raiseEdge_ing (n : Nat) : (raiseEdge s n).ing = s.ing := by unfold raiseEdge; (repeat' split) <;> rfl
@[simp] theorem raiseEdge_ifc (n : Nat) : (raiseEdge s n).ifc = s.ifc := by unfold raiseEdge; (repeat' split) <;> rfl
@[simp] theorem raiseEdge_vis (n : Nat) : (raiseEdge s n).vis = s.vis := by unfold raiseEdge; (repeat' split) <;> rfl
@[simp] theorem raiseEdge_fgs (n : Nat) : (raiseEdge s n).fgs = s.fgs := by unfold raiseEdge; (repeat' split) <;> rfl
@[simp] theorem raiseEdge_pwr (n : Nat) : (raiseEdge s n).pwr = s.pwr := by unfold raiseEdge; (repeat' split) <;> rfl
@[simp] theorem raiseEdge_hif (n : Nat) : (raiseEdge s n).hif = s.hif := by unfold raiseEdge; (repeat' split) <;> rfl
@[simp] theorem raiseEdge_tiles (n : Nat) : (raiseEdge s n).tiles = s.tiles := by unfold raiseEdge; (repeat' split) <;> rfl
@[simp] theorem raiseEdge_memx (n : Nat) : (raiseEdge s n).memx = s.memx := by unfold raiseEdge; (repeat' split) <;> rfl
@[simp] theorem raiseEdge_tfu (n : Nat) : (raiseEdge s n).tfu = s.tfu := by unfold raiseEdge; (repeat' split) <;> rfl
@[simp] theorem raiseEdge_lse (n : Nat) : (raiseEdge s n).lse = s.lse := by unfold raiseEdge; (repeat' split) <;> rfl
@[simp] theorem raiseEdge_mst (n : Nat) : (raiseEdge s n).mst = s.mst := by unfold raiseEdge; (repeat' split) <;> rfl
@[simp] theorem raiseEdge_prs (n : Nat) : (raiseEdge s n).prs = s.prs := by unfold raiseEdge; (repeat' split) <;> rfl
@[simp] theorem raiseEdge_safe (n : Nat) : (raiseEdge s n).safe = s.safe := by unfold raiseEdge; (repeat' split) <;> rfl
@[simp] theorem raiseEdge_bbx (n : Nat) : (raiseEdge s n).bbx = s.bbx := by unfold raiseEdge; (repeat' split) <;> rfl
@[simp] theorem raiseEdge_aon (n : Nat) : (raiseEdge s n).aon = s.aon := by unfold raiseEdge; (repeat' split) <;> rfl
@[simp] theorem raiseEdge_sec (n : Nat) : (raiseEdge s n).sec = s.sec := by unfold raiseEdge; (repeat' split) <;> rfl
theorem raiseEdge_frame (n : Nat) : raiseEdge s n = { s with evc := (raiseEdge s n).evc } := by
  apply State.ext_fields <;> simp

/-! ### Registers behind the shared operations -/

/-- A black-box record touches no register below the SAFE block. -/
theorem rd_bbx_low {a : Nat} (c u : Nat) (l : List Byte) (p : Bool) (h : a < 0x310000) : rd (bbx s c u l p) a = rd s a := by
  unfold bbx
  split
  · rw [rd_bump_other _ (by simp [R.safeBbxDrop]; omega), rd_setBits_other _ _ (by simp [R.safeEvent]; omega)]
  · rfl

/-- A store touches no register below the MEM block. -/
theorem rd_stByte_low {a : Nat} (d : Nat) (b : Byte) (h : a < 0x180000) : rd (stByte s d b) a = rd s a := by
  unfold stByte
  repeat' split
  · rfl
  · rfl
  · simp only [glideErr, errFree, drawNat]
    exact rd_errInfo_other _ _ _ (by simp [R.memErr]; omega) (by simp [R.memErrInfo]; omega)
  · rfl

theorem rd_stAll_low {a : Nat} (d : Nat) (l : List Byte) (h : a < 0x180000) : rd (stAll s d l) a = rd s a := by
  induction l generalizing s d with
  | nil => rfl
  | cons b l ih => rw [stAll, ih, rd_stByte_low _ _ _ h]

/-- What memory's errors leave in the registers lies at or above the TT block. -/
theorem rd_corrected_low {a : Nat} (u : Nat) (h : a < 0x100000) : rd (corrected s u) a = rd s a := by
  unfold corrected
  repeat' split
  · show rd (setBits (bump s R.gdrEccCorr) R.gdrEvent 1) a = rd s a
    rw [rd_setBits_other _ _ (by simp [R.gdrEvent]; omega), rd_bump_other _ (by simp [R.gdrEccCorr]; omega)]
  · exact rd_bump_other _ (by simp [R.lseMemEccCorr]; omega)
  · exact rd_bump_other _ (by simp [R.memSlabEccCorr]; omega)
  · exact rd_bump_other _ (by simp [R.ttEccCorr]; omega)

theorem rd_uncorrectable_low {a : Nat} (u : Nat) (h : a < 0x100000) : rd (uncorrectable s u) a = rd s a := by
  unfold uncorrectable
  dsimp only
  repeat' split
  · rw [rd_setBits_other _ _ (by simp [R.gdrEvent]; omega), rd_bump_other _ (by simp [R.gdrEccUncorr]; omega)]
  · rw [rd_setBits_other _ _ (by simp [R.gdrEvent]; omega), rd_bump_other _ (by simp [R.gdrEccUncorr]; omega),
      rd_wr_other _ _ (by simp [R.gdrErrAddrHi]; omega), rd_wr_other _ _ (by simp [R.gdrErrAddrLo]; omega)]
  · exact rd_bump_other _ (by simp [R.lseMemEccUncorr]; omega)
  · exact rd_bump_other _ (by simp [R.memSlabEccUncorr]; omega)
  · rfl

theorem rd_retrain_low {a : Nat} (c : Nat) (k : Bool) (h : a < 0x100000) : rd (retrain s c k) a = rd s a := by
  have e : rd (setBits (bump s R.gdrRetrainCnt) (R.gdrChStatus c) 2) a = rd s a := by
    rw [rd_setBits_other _ _ (by simp [R.gdrChStatus]; omega), rd_bump_other _ (by simp [R.gdrRetrainCnt]; omega)]
  unfold retrain
  dsimp only
  split
  · exact e
  · rw [rd_setBits_other _ _ (by simp [R.gdrEvent]; omega), e]

theorem rd_edcMeet_low {a : Nat} (w : Bool) (p n : Nat) (e : Nat × Nat) (h : a < 0x100000) :
    rd (edcMeet w p n s e) a = rd s a := by
  unfold edcMeet
  dsimp only [drawNat]
  split
  · rfl
  · have k : ∀ (t : State) (c v : Nat), rd t a = rd s a → rd (wf t (R.gdrChStatus c) 31 16 v) a = rd s a := fun t c v q =>
      (rd_wf_other t 31 16 v (by simp [R.gdrChStatus]; omega)).trans q
    have b : ∀ (t : State) (m : Nat), rd t a = rd s a → rd (bumpN t R.gdrEdcRetry m) a = rd s a := fun t m q =>
      (rd_bumpN_other t m (by simp [R.gdrEdcRetry]; omega)).trans q
    have v : ∀ (t : State) (m : Word), rd t a = rd s a → rd (setBits t R.gdrEvent m) a = rd s a := fun t m q =>
      (rd_setBits_other t m (by simp [R.gdrEvent]; omega)).trans q
    have r : ∀ (t : State) (c : Nat) (o : Bool), rd t a = rd s a → rd (retrain t c o) a = rd s a := fun t c o q =>
      (rd_retrain_low t c o h).trans q
    have z : rd { s with edc := tabSet 0 s.edc e.1 0 } a = rd s a := rfl
    have f : ∀ (t : State) (m : Nat), rd t a = rd s a → rd { t with fresh := m } a = rd s a := fun t m q => q
    have vp : ∀ (t : State) (m : Word) (l : List Nat), rd t a = rd s a →
        rd { setBits t R.gdrEvent m with poison := l } a = rd s a := fun t m _ q => v t m q
    repeat' split
    · exact vp _ _ _ (r _ _ _ (f _ _ (k _ _ _ (b _ _ z))))
    · exact v _ _ (r _ _ _ (f _ _ (k _ _ _ (b _ _ z))))
    · exact r _ _ _ (f _ _ (k _ _ _ (b _ _ z)))
    · exact k _ _ _ (b _ _ z)

theorem rd_noteRead_low {a : Nat} (d n : Nat) (h : a < 0x100000) : rd (noteRead s d n) a = rd s a := by
  unfold noteRead
  dsimp only
  rw [foldl_keep uncorrectable (fun t => rd t a) fun t x => rd_uncorrectable_low t x h,
    foldl_keep corrected (fun t => rd t a) fun t x => rd_corrected_low t x h,
    foldl_keep (edcMeet false (physAddr s d) n) (fun t => rd t a) fun t x => rd_edcMeet_low t _ _ _ x h]

theorem rd_noteWrite_low {a : Nat} (p n : Nat) (h : a < 0x100000) : rd (noteWrite s p n) a = rd s a := by
  unfold noteWrite
  dsimp only
  rw [foldl_keep (edcMeet true p n) (fun t => rd t a) fun t x => rd_edcMeet_low t _ _ _ x h]
  have c : ∀ (l : List Nat) (t : State), rd (l.foldl corrected t) a = rd t a :=
    foldl_keep corrected (fun t => rd t a) fun t x => rd_corrected_low t x h
  have u : ∀ (l : List Nat) (t : State), rd (l.foldl uncorrectable t) a = rd t a :=
    foldl_keep uncorrectable (fun t => rd t a) fun t x => rd_uncorrectable_low t x h
  exact (u _ _).trans (c _ _)

theorem rd_stBytes_low {a : Nat} (d : Nat) (l : List Byte) (h : a < 0x100000) : rd (stBytes s d l) a = rd s a := by
  have e := rd_stAll_low s d l (a := a) (by omega)
  unfold stBytes
  dsimp only
  repeat' split
  · exact e
  · exact e
  · exact e
  · exact (rd_noteWrite_low _ _ _ h).trans e

theorem rd_stN_low {a : Nat} (d n v : Nat) (h : a < 0x100000) : rd (stN s d n v) a = rd s a := rd_stBytes_low s d _ h

theorem rd_hostWrite_low {a : Nat} (d : Nat) (l : List Byte) (h : a < 0x100000) : rd (hostWrite s d l) a = rd s a := by
  unfold hostWrite
  split
  · exact rd_stBytes_low s _ l h
  · rfl

theorem rd_msixSend_low {a : Nat} (v : Nat) (h : a < 0x300000) : rd (msixSend s v) a = rd s a := by
  unfold msixSend
  split
  · exact rd_setBits_other _ _ (by simp [R.hifMsixPba]; omega)
  · split <;> rfl

/-- An event posted touches no register below the TT block. -/
theorem rd_postEvent_low {a : Nat} (d : DWord) (c u : Nat) (l : List Byte) (h : a < 0x100000) :
    rd (postEvent s d c u l) a = rd s a := by
  unfold postEvent
  dsimp only
  have k : rd (wr { s with evtNext := s.evtNext + 1 } R.hifEvtSeq s.evtNext) a = rd s a :=
    rd_wr_other _ _ (by simp [R.hifEvtSeq]; omega)
  split
  · rw [rd_msixSend_low _ _ (by omega), rd_hostWrite_low _ _ _ h, k]
  · rw [rd_bump_other _ (by simp [R.hifEvtDrop]; omega), k]

@[simp] theorem rd_semServe (r i a : Nat) : rd (semServe s r i) a = rd s a := rfl
@[simp] theorem rd_semResult (r i a : Nat) (o : Bool) : rd (semResult s r o i) a = rd s a := rfl
@[simp] theorem rd_semStore (i a : Nat) (v : Word) : rd (semStore s i v) a = rd s a := by unfold semStore; split <;> rfl
@[simp] theorem rd_raiseEdge (n a : Nat) : rd (raiseEdge s n) a = rd s a := by unfold raiseEdge; (repeat' split) <;> rfl

/-! ### Counts -/

@[simp] theorem semServe_count (r i : Nat) : (semServe s r i).sem.count = s.sem.count := rfl
@[simp] theorem semResult_count (r i : Nat) (o : Bool) : (semResult s r o i).sem.count = s.sem.count := rfl

@[simp] theorem semCount_store_same (i : Nat) (v : Word) : semCount (semStore s i v) i = v := by
  unfold semStore
  split
  · assumption
  · simp [semCount]

theorem semCount_store_other {i j : Nat} (v : Word) (h : j ≠ i) : semCount (semStore s i v) j = semCount s j := by
  unfold semStore
  split
  · rfl
  · exact tabGet_set_other _ _ _ _ h

@[simp] theorem semCount_serve (r i j : Nat) : semCount (semServe s r i) j = semCount s j := rfl
@[simp] theorem semCount_result (r i j : Nat) (o : Bool) : semCount (semResult s r o i) j = semCount s j := rfl
@[simp] theorem semCount_wr (a j : Nat) (v : Word) : semCount (wr s a v) j = semCount s j := rfl
@[simp] theorem semCount_bump (a j : Nat) : semCount (bump s a) j = semCount s j := rfl
@[simp] theorem semCount_semErr (b i j : Nat) : semCount (semErr s b i) j = semCount s j := by simp [semCount]
@[simp] theorem semCount_bbx (c u j : Nat) (l : List Byte) (p : Bool) : semCount (bbx s c u l p) j = semCount s j := by simp [semCount]

/-- ADD leaves the sum, or the highest count. -/
theorem semCount_add_same (r i : Nat) (n : Word) :
    semCount (semAddOp s r i n) i = BitVec.ofNat 32 (min ((semCount s i).toNat + n.toNat) 0xFFFFFFFF) := by
  unfold semAddOp
  dsimp only
  split <;> simp

theorem semCount_add_other {i j : Nat} (r : Nat) (n : Word) (h : j ≠ i) : semCount (semAddOp s r i n) j = semCount s j := by
  unfold semAddOp
  dsimp only
  split <;> simp [semCount_store_other _ _ h]

/-- SUB leaves the difference, or 0. -/
theorem semCount_sub_same (r i : Nat) (n : Word) :
    semCount (semSubOp s r i n) i = BitVec.ofNat 32 ((semCount s i).toNat - n.toNat) := by
  unfold semSubOp
  dsimp only
  split <;> simp

theorem semCount_sub_other {i j : Nat} (r : Nat) (n : Word) (h : j ≠ i) : semCount (semSubOp s r i n) j = semCount s j := by
  unfold semSubOp
  dsimp only
  split <;> simp [semCount_store_other _ _ h]

/-- SET leaves its value. -/
theorem semCount_set_same (r i p : Nat) (v : Word) : semCount (semSetOp s r i v p) i = v := by simp [semSetOp]

theorem semCount_set_other {i j : Nat} (r p : Nat) (v : Word) (h : j ≠ i) : semCount (semSetOp s r i v p) j = semCount s j := by
  simp [semSetOp, semCount_store_other _ _ h]

/-- An ADD touches no register but the overflow count, SEM_STATUS and the index it records. -/
theorem rd_semAddOp_other {a : Nat} (r i : Nat) (n : Word) (h : a ≠ R.semOvfCnt) (k : a ≠ R.semStatus) (l : a ≠ R.semErrIdx) :
    rd (semAddOp s r i n) a = rd s a := by
  unfold semAddOp
  dsimp only
  split
  · simp only [rd_semResult, semErr]
    rw [rd_errInfo_other _ _ _ k l, rd_bump_other _ h]
    simp
  · simp

/-! ### Bytes -/

/-- A byte reads the same where memory, held stores, counts and the redirect table are the same. -/
theorem ldByte_same {t : State} (hr : ∀ k, rd t (R.memRedir k) = rd s (R.memRedir k)) (hm : t.mem = s.mem)
    (hh : t.heldWrites = s.heldWrites) (hc : t.sem.count = s.sem.count) (a : Nat) : ldByte t a = ldByte s a := by
  simp [ldByte, physAddr, semCount, hr, hm, hh, hc]

end Sys2Proof.Machine
end

