-- ==== Sys2Proof/Laws/KeepsMemory.lean ====
section
/-! SUPPORT. What the functions of Machine/Memory.lean keep: the queue of commands, the straps, the fuses and the canonical forms. -/

namespace Sys2Proof.Machine

theorem moveRange_keeps {s0 : State} : ∀ s1 x1 x2, Keeps s0 s1 → Keeps s0 (moveRange s1 x1 x2) := by
  intro s1 x1 x2 h0
  unfold moveRange
  split
  · exact h0
  · extract_lets here src m0 sA sB new
    have kB : Keeps s0 sB := Keeps.foldl _ _ _ (Keeps.foldl _ _ _ h0 fun u x hu => corrected_keeps u x hu) fun u x hu =>
      uncorrectable_keeps u x hu
    have em : sB.mem = s1.mem :=
      (foldl_keep uncorrectable State.mem uncorrectable_mem _ _).trans (foldl_keep corrected State.mem corrected_mem _ _)
    exact kB.step rfl rfl rfl (Nat.le_refl _) (Nat.le_refl _) (fun _ e => e) fun i =>
      ⟨tabWf_foldl 0 _ (fun e : Host.Cell => e.1 - x1 + x2) (fun e => e.2) _ (tabWf_filter _ _ _ (em ▸ i.mem)), i.regs, i.sems,
        i.mram, i.nor, i.queue, i.svn, i.vr, i.held⟩

theorem startMove_keeps {s0 : State} : ∀ s1 x1 x2, Keeps s0 s1 → Keeps s0 (startMove s1 x1 x2) := by
  intro s1 x1 x2 h0
  unfold startMove
  apply setBits_keeps
  refine Keeps.mk_same ?_ rfl rfl rfl rfl rfl rfl rfl rfl rfl rfl rfl rfl rfl
  assumption

theorem evacuate_keeps {s0 : State} : ∀ s1 x1, Keeps s0 s1 → Keeps s0 (evacuate s1 x1) := by
  intro s1 x1 h0
  unfold evacuate
  apply startMove_keeps
  assumption

theorem releaseWrites_keeps {s0 : State} : ∀ s1 x1, Keeps s0 s1 → Keeps s0 (releaseWrites s1 x1) := by
  intro s r h
  unfold releaseWrites
  extract_lets mine l sA mm sB sC
  have h0 : Keeps s0 { s with heldWrites := s.heldWrites.filter fun e => !mine e } :=
    h.step rfl rfl rfl (Nat.le_refl _) (Nat.le_refl _) (fun _ e => e) fun i =>
      ⟨i.mem, i.regs, i.sems, i.mram, i.nor, i.queue, i.svn, i.vr, fun e he => i.held e (List.mem_filter.mp he).1⟩
  have hA : Keeps s0 sA := Keeps.foldl _ _ _ h0 fun u x hu => stBytes_keeps _ _ _ hu
  have hB : Keeps s0 sB := Keeps.mk_same hA rfl rfl rfl rfl rfl rfl rfl rfl rfl rfl rfl rfl rfl
  have hC : Keeps s0 sC := Keeps.foldl _ _ _ hB fun u x hu => finish_keeps _ _ _ _ hu
  exact Keeps.foldl _ _ _ hC fun u x hu => signal_keeps _ _ _ _ hu

theorem finishMove_keeps {s0 : State} : ∀ s1 x1 x2, Keeps s0 s1 → Keeps s0 (finishMove s1 x1 x2) := by
  intro s1 x1 x2 h0
  unfold finishMove
  extract_lets +onlyGivenNames v200
  have kv200 : Keeps s0 v200 := by
    subst v200
    apply moveRange_keeps
    assumption
  clear_value v200
  extract_lets +onlyGivenNames v199
  clear_value v199
  extract_lets +onlyGivenNames v198
  have kv198 : Keeps s0 v198 := by
    subst v198
    apply wr_keeps
    refine Keeps.mk_same ?_ rfl rfl rfl rfl rfl rfl rfl rfl rfl rfl rfl rfl rfl
    assumption
  clear_value v198
  extract_lets +onlyGivenNames v197
  have kv197 : Keeps s0 v197 := by
    subst v197
    apply releaseWrites_keeps
    assumption
  clear_value v197
  extract_lets +onlyGivenNames v196
  have kv196 : Keeps s0 v196 := by
    subst v196
    split
    · apply bump_keeps
      apply setBits_keeps
      apply setBits_keeps
      assumption
    · assumption
  clear_value v196
  split
  · apply setBits_keeps
    apply clrBits_keeps
    assumption
  · assumption

theorem execRestore_keeps {s0 : State} : ∀ x0 s2, Keeps s0 s2 → KeepsOut s0 (execRestore x0 s2) := by
  intro x0 s2 h0
  unfold execRestore
  apply fabric_keeps
  · assumption
  · intro _ _
    split
    · apply Keeps.ite
      · extract_lets +onlyGivenNames v195
        clear_value v195
        extract_lets +onlyGivenNames v194
        have kv194 : Keeps s0 v194 := by
          subst v194
          refine Keeps.mk_same ?_ rfl rfl rfl rfl rfl rfl rfl rfl rfl rfl rfl rfl rfl
          assumption
        clear_value v194
        apply wf_keeps
        apply startMove_keeps
        assumption
      · assumption
    · assumption

theorem memErr_keeps {s0 : State} : ∀ s1 x1 x2 x3, Keeps s0 s1 → Keeps s0 (memErr s1 x1 x2 x3) := by
  intro s1 x1 x2 x3 h0
  unfold memErr
  apply errInfo_keeps
  assumption

theorem checkEntry_keeps {s0 : State} : ∀ s1 x1 x2 x3 x4, Keeps s0 s1 → Keeps s0 (checkEntry s1 x1 x2 x3 x4).2 := by
  intro s1 x1 x2 x3 x4 h0
  unfold checkEntry
  split
  · assumption
  · split
    · assumption
    · dsimp only
      apply memErr_keeps
      assumption

theorem moveLines_keeps {s0 : State} : ∀ x0 x1 s3 x3, Keeps s0 s3 → Keeps s0 (moveLines x0 x1 s3 x3).1 := by
  intro e l
  induction l with
  | nil => intro s n h; exact h
  | cons x l ih =>
    intro s n h
    unfold moveLines
    split
    · exact glideErr_keeps _ h
    · extract_lets s1
      have h1 : Keeps s0 s1 := Keeps.ite (noteRead_keeps _ _ _ h) h
      clear_value s1
      split
      · exact h1
      · exact ih _ _ (stBytes_keeps _ _ _ h1)

theorem setCe_keeps {s0 : State} : ∀ s1 x1 x2, Keeps s0 s1 → Keeps s0 (setCe s1 x1 x2) := by
  intro s1 x1 x2 h0
  unfold setCe
  extract_lets +onlyGivenNames v200
  clear_value v200
  apply wr_keeps
  refine Keeps.mk_same ?_ rfl rfl rfl rfl rfl rfl rfl rfl rfl rfl rfl rfl rfl
  assumption

theorem execCopyJobStart_keeps {s0 : State} : ∀ x0 s2, Keeps s0 s2 → KeepsOut s0 (execCopyJobStart x0 s2) := by
  intro x0 s2 h0
  unfold execCopyJobStart
  apply fabric_keeps
  · assumption
  · intro _ _
    extract_lets +onlyGivenNames v197
    clear_value v197
    split
    · apply setCe_keeps
      apply setStarted_keeps
      assumption
    · assumption

theorem runEntry_keeps {s0 : State} : ∀ x0 x1 s3, Keeps s0 s3 → Keeps s0 (runEntry x0 x1 s3) := by
  intro x0 x1 s3 h0
  unfold runEntry
  split
  · with_reducible assumption
  · apply Keeps.ite
    · with_reducible assumption
    · extract_lets +onlyGivenNames v118
      clear_value v118
      apply Keeps.ite
      · with_reducible assumption
      · apply Keeps.ite
        · with_reducible assumption
        · apply Keeps.ite
          · with_reducible assumption
          · split
            apply Keeps.ite
            · apply setCe_keeps
              refine Keeps.of_snd (by assumption) ?_
              apply checkEntry_keeps
              with_reducible assumption
            · split
              extract_lets +onlyGivenNames v111
              have kv111 : Keeps s0 v111 := by
                subst v111
                apply issued_keeps
                · with_reducible assumption
                · apply bumpN_keeps
                  refine Keeps.of_fst (by assumption) ?_
                  apply moveLines_keeps
                  refine Keeps.of_snd (by assumption) ?_
                  apply checkEntry_keeps
                  with_reducible assumption
              clear_value v111
              apply Keeps.ite
              · apply setCe_keeps
                with_reducible assumption
              · apply setCe_keeps
                with_reducible assumption

theorem execCopy_keeps {s0 : State} : ∀ x0 s2, Keeps s0 s2 → KeepsOut s0 (execCopy x0 s2) := by
  intro x0 s2 h0
  unfold execCopy
  apply fabric_keeps
  · assumption
  · intro _ _
    apply runEntry_keeps
    assumption

theorem execFill_keeps {s0 : State} : ∀ x0 s2, Keeps s0 s2 → KeepsOut s0 (execFill x0 s2) := by
  intro x0 s2 h0
  unfold execFill
  apply fabric_keeps
  · assumption
  · intro _ _
    apply runEntry_keeps
    assumption

theorem execPlan_keeps {s0 : State} : ∀ x0 s2, Keeps s0 s2 → KeepsOut s0 (execPlan x0 s2) := by
  intro x0 s2 h0
  unfold execPlan
  apply fabric_keeps
  · assumption
  · intro _ _
    split
    · assumption
    · extract_lets +onlyGivenNames v196
      clear_value v196
      apply Keeps.ite
      · assumption
      · apply Keeps.ite
        · split
          · apply setCe_keeps
            assumption
          · apply setCe_keeps
            assumption
        · apply setCe_keeps
          assumption

theorem copyDone_keeps {s0 : State} : ∀ s1 x1 x2 x3 x4, Keeps s0 s1 → Keeps s0 (copyDone s1 x1 x2 x3 x4) := by
  intro s1 x1 x2 x3 x4 h0
  unfold copyDone
  apply finish_keeps
  apply bumpWrap_keeps
  apply setCe_keeps
  assumption

theorem execCopyJobEnd_keeps {s0 : State} : ∀ x0 s2, Keeps s0 s2 → KeepsOut s0 (execCopyJobEnd x0 s2) := by
  intro x0 s2 h0
  unfold execCopyJobEnd
  apply fabric_keeps
  · with_reducible assumption
  · intro _ _
    split
    · with_reducible assumption
    · split
      · apply Keeps.ite
        · with_reducible assumption
        · apply copyDone_keeps
          with_reducible assumption
      · apply Keeps.ite
        · extract_lets +onlyGivenNames v114
          clear_value v114
          split
          split
          extract_lets +onlyGivenNames v111
          clear_value v111
          split
          extract_lets +onlyGivenNames v109
          have kv109 : Keeps s0 v109 := by
            subst v109
            apply issued_keeps
            · with_reducible assumption
            · apply bumpN_keeps
              refine Keeps.of_fst (by assumption) ?_
              apply moveLines_keeps
              refine Keeps.of_snd (by assumption) ?_
              apply drawNat_keeps
              refine Keeps.of_snd (by assumption) ?_
              apply checkEntry_keeps
              with_reducible assumption
          clear_value v109
          apply Keeps.ite
          · apply setCe_keeps
            with_reducible assumption
          · apply copyDone_keeps
            with_reducible assumption
        · with_reducible assumption

theorem startGateCopy_keeps {s0 : State} : ∀ s1 x1 x2 x3, Keeps s0 s1 → Keeps s0 (startGateCopy s1 x1 x2 x3).1 := by
  intro s1 x1 x2 x3 h0
  unfold startGateCopy
  split
  · assumption
  · extract_lets +onlyGivenNames v199
    clear_value v199
    extract_lets +onlyGivenNames v198
    have kv198 : Keeps s0 v198 := by
      subst v198
      apply setStarted_keeps
      assumption
    clear_value v198
    extract_lets +onlyGivenNames v197
    clear_value v197
    dsimp only
    apply when_keeps
    · assumption
    · intro _ _
      apply setBits_keeps
      apply bump_keeps
      assumption

theorem execGdrRetrain_keeps {s0 : State} : ∀ x0 x1 s3, Keeps s0 s3 → KeepsOut s0 (execGdrRetrain x0 x1 s3) := by
  intro x0 x1 s3 h0
  unfold execGdrRetrain
  apply fabric_keeps
  · with_reducible assumption
  · intro _ _
    apply Keeps.ite
    · apply retrain_keeps
      refine Keeps.mk_same ?_ rfl rfl rfl rfl rfl rfl rfl rfl rfl rfl rfl rfl rfl
      with_reducible assumption
    · with_reducible assumption

theorem execGdrScrubRead_keeps {s0 : State} : ∀ s1, Keeps s0 s1 → KeepsOut s0 (execGdrScrubRead s1) := by
  intro s1 h0
  unfold execGdrScrubRead
  apply fabric_keeps
  · with_reducible assumption
  · intro _ _
    apply Keeps.ite
    · with_reducible assumption
    · extract_lets +onlyGivenNames v116
      clear_value v116
      extract_lets +onlyGivenNames v115
      clear_value v115
      apply noteRead_keeps
      apply wr_keeps
      refine Keeps.mk_same ?_ rfl rfl rfl rfl rfl rfl rfl rfl rfl rfl rfl rfl rfl
      with_reducible assumption

theorem execGdrErrAddrLoRead_keeps {s0 : State} : ∀ s1, Keeps s0 s1 → KeepsOut s0 (execGdrErrAddrLoRead s1) := by
  intro s1 h0
  unfold execGdrErrAddrLoRead
  apply fabric_keeps
  · assumption
  · intro _ _
    apply capture_keeps
    assumption

end Sys2Proof.Machine
end

