-- ==== Sys2Proof/Laws/KeepsTiles.lean ====
section
/-! SUPPORT. What the functions of Machine/Tiles.lean keep: the queue of commands, the straps, the fuses and the canonical forms. -/

namespace Sys2Proof.Machine

theorem setTtState_keeps {s0 : State} : ∀ s1 x1 x2, Keeps s0 s1 → Keeps s0 (setTtState s1 x1 x2) := by
  intro s1 x1 x2 h0
  unfold setTtState
  apply wf_keeps
  assumption

theorem forget_keeps {s0 : State} : ∀ s1 x1 x2, Keeps s0 s1 → Keeps s0 (forget s1 x1 x2) := by
  intro s1 x1 x2 h0
  exact h0.step rfl rfl rfl (Nat.le_refl _) (Nat.le_refl _) (fun _ e => e) fun i =>
    ⟨tabWf_filter _ _ _ i.mem, i.regs, i.sems, i.mram, i.nor, i.queue, i.svn, i.vr, i.held⟩

theorem tileFree_keeps {s0 : State} : ∀ s1 x1, Keeps s0 s1 → Keeps s0 (tileFree s1 x1) := by
  intro s1 x1 h0
  unfold tileFree
  apply forget_keeps
  apply setTtState_keeps
  with_reducible assumption

theorem ttEvent_keeps {s0 : State} : ∀ s1 x1 x2, Keeps s0 s1 → Keeps s0 (ttEvent s1 x1 x2) := by
  intro s1 x1 x2 h0
  unfold ttEvent
  apply setBits_keeps
  assumption

theorem loadBank_keeps {s0 : State} : ∀ s1 x1 x2 x3 x4, Keeps s0 s1 → Keeps s0 (loadBank s1 x1 x2 x3 x4) := by
  intro s1 x1 x2 x3 x4 h0
  unfold loadBank
  apply Keeps.foldl
  · with_reducible assumption
  · intro _ _
    intro _
    extract_lets +onlyGivenNames v116
    clear_value v116
    extract_lets +onlyGivenNames v115
    clear_value v115
    extract_lets +onlyGivenNames v114
    have kv114 : Keeps s0 v114 := by
      subst v114
      refine Keeps.mk_same ?_ rfl rfl rfl rfl rfl rfl rfl rfl rfl rfl rfl rfl rfl
      with_reducible assumption
    clear_value v114
    apply wr_keeps
    with_reducible assumption

theorem setTileJob_keeps {s0 : State} : ∀ s1 x1, Keeps s0 s1 → Keeps s0 (setTileJob s1 x1) := by
  intro s1 x1 h0
  unfold setTileJob
  refine Keeps.mk_same ?_ rfl rfl rfl rfl rfl rfl rfl rfl rfl rfl rfl rfl rfl
  assumption

theorem dropTileJob_keeps {s0 : State} : ∀ s1 x1, Keeps s0 s1 → Keeps s0 (dropTileJob s1 x1) := by
  intro s1 x1 h0
  unfold dropTileJob
  refine Keeps.mk_same ?_ rfl rfl rfl rfl rfl rfl rfl rfl rfl rfl rfl rfl rfl
  assumption

theorem tileRefuse_keeps {s0 : State} : ∀ s1 x1, Keeps s0 s1 → Keeps s0 (tileRefuse s1 x1) := by
  intro s1 x1 h0
  unfold tileRefuse
  extract_lets +onlyGivenNames v120
  clear_value v120
  apply report_keeps
  apply Keeps.ite
  · apply jobStore_keeps
    with_reducible assumption
  · with_reducible assumption

theorem tileStart_keeps {s0 : State} : ∀ s1 x1 x2, Keeps s0 s1 → Keeps s0 (tileStart s1 x1 x2) := by
  intro s1 x1 x2 h0
  unfold tileStart
  extract_lets +onlyGivenNames v120
  clear_value v120
  extract_lets +onlyGivenNames v119
  clear_value v119
  extract_lets +onlyGivenNames v118
  clear_value v118
  extract_lets +onlyGivenNames v117
  clear_value v117
  extract_lets +onlyGivenNames v116
  have kv116 : Keeps s0 v116 := by
    subst v116
    apply noteReads_keeps
    with_reducible assumption
  clear_value v116
  extract_lets +onlyGivenNames v115
  clear_value v115
  extract_lets +onlyGivenNames v114
  clear_value v114
  extract_lets +onlyGivenNames v113
  clear_value v113
  extract_lets +onlyGivenNames v112
  have kv112 : Keeps s0 v112 := by
    subst v112
    refine Keeps.mk_same ?_ rfl rfl rfl rfl rfl rfl rfl rfl rfl rfl rfl rfl rfl
    with_reducible assumption
  clear_value v112
  apply Keeps.foldl
  · with_reducible assumption
  · intro _ _
    intro _
    split
    · apply setTtState_keeps
      apply wr_keeps
      apply bumpWrap_keeps
      with_reducible assumption
    · with_reducible assumption

theorem execTileRun_keeps {s0 : State} : ∀ s1, Keeps s0 s1 → KeepsOut s0 (execTileRun s1) := by
  intro s1 h0
  unfold execTileRun
  apply fabric_keeps
  · assumption
  · intro _ _
    split
    · assumption
    · apply Keeps.ite
      · assumption
      · extract_lets +onlyGivenNames v195
        have kv195 : Keeps s0 v195 := by
          subst v195
          apply setStarted_keeps
          assumption
        clear_value v195
        split
        · apply tileRefuse_keeps
          assumption
        · apply Keeps.ite
          · apply tileStart_keeps
            assumption
          · apply tileRefuse_keeps
            assumption

theorem passDone_keeps {s0 : State} : ∀ s1 x1 x2 x3 x4 x5, Keeps s0 s1 → Keeps s0 (passDone s1 x1 x2 x3 x4 x5) := by
  intro s1 x1 x2 x3 x4 x5 h0
  unfold passDone
  extract_lets +onlyGivenNames v120
  have kv120 : Keeps s0 v120 := by
    subst v120
    apply Keeps.foldl
    · apply noteReads_keeps
      with_reducible assumption
    · intro _ _
      intro _
      apply loadBank_keeps
      with_reducible assumption
  clear_value v120
  extract_lets +onlyGivenNames v119
  clear_value v119
  extract_lets +onlyGivenNames v118
  clear_value v118
  extract_lets +onlyGivenNames v117
  have kv117 : Keeps s0 v117 := by
    subst v117
    apply bumpWrap_keeps
    with_reducible assumption
  clear_value v117
  apply Keeps.ite
  · apply setTileJob_keeps
    with_reducible assumption
  · extract_lets +onlyGivenNames v115
    have kv115 : Keeps s0 v115 := by
      subst v115
      apply bumpN_keeps
      apply bumpN_keeps
      with_reducible assumption
    clear_value v115
    extract_lets +onlyGivenNames v114
    clear_value v114
    split
    · apply setTileJob_keeps
      with_reducible assumption
    · apply setTileJob_keeps
      apply issued_keeps
      · with_reducible assumption
      · apply Keeps.foldl
        · with_reducible assumption
        · intro _ _
          intro _
          apply stBytes_keeps
          with_reducible assumption
    · apply setTileJob_keeps
      apply issued_keeps
      · with_reducible assumption
      · apply Keeps.foldl
        · with_reducible assumption
        · intro _ _
          intro _
          apply stBytes_keeps
          with_reducible assumption
    · apply setTileJob_keeps
      apply issued_keeps
      · with_reducible assumption
      · apply Keeps.foldl
        · with_reducible assumption
        · intro _ _
          intro _
          apply stBytes_keeps
          with_reducible assumption

theorem tileHalt_keeps {s0 : State} : ∀ s1 x1, Keeps s0 s1 → Keeps s0 (tileHalt s1 x1) := by
  intro s1 x1 h0
  unfold tileHalt
  apply ttEvent_keeps
  apply setBits_keeps
  with_reducible assumption

theorem passMismatch_keeps {s0 : State} : ∀ s1 x1 x2 x3 x4 x5, Keeps s0 s1 → Keeps s0 (passMismatch s1 x1 x2 x3 x4 x5) := by
  intro s1 x1 x2 x3 x4 x5 h0
  unfold passMismatch
  extract_lets +onlyGivenNames v120
  clear_value v120
  extract_lets +onlyGivenNames v119
  have kv119 : Keeps s0 v119 := by
    subst v119
    apply wr_keeps
    with_reducible assumption
  clear_value v119
  extract_lets +onlyGivenNames v118
  clear_value v118
  apply Keeps.ite
  · apply setTileJob_keeps
    apply tileHalt_keeps
    with_reducible assumption
  · apply setTileJob_keeps
    with_reducible assumption

theorem passTransient_keeps {s0 : State} : ∀ s1 x1, Keeps s0 s1 → Keeps s0 (passTransient s1 x1) := by
  intro s1 x1 h0
  unfold passTransient
  apply transient_keeps
  apply ttEvent_keeps
  apply bump_keeps
  assumption

theorem execTilePassCheck_keeps {s0 : State} : ∀ x0 x1 x2 x3 s5, Keeps s0 s5 → KeepsOut s0 (execTilePassCheck x0 x1 x2 x3 s5) := by
  intro x0 x1 x2 x3 s5 h0
  unfold execTilePassCheck
  apply fabric_keeps
  · with_reducible assumption
  · intro _ _
    extract_lets +onlyGivenNames v117
    clear_value v117
    split
    · with_reducible assumption
    · split
      · with_reducible assumption
      · apply Keeps.ite
        · with_reducible assumption
        · extract_lets +onlyGivenNames v113
          clear_value v113
          extract_lets +onlyGivenNames v112
          clear_value v112
          extract_lets +onlyGivenNames v111
          clear_value v111
          extract_lets +onlyGivenNames v110
          clear_value v110
          apply Keeps.ite
          · apply passMismatch_keeps
            with_reducible assumption
          · apply Keeps.ite
            · apply setTileJob_keeps
              with_reducible assumption
            · apply Keeps.ite
              · apply Keeps.ite
                · apply setTileJob_keeps
                  apply tileHalt_keeps
                  apply passTransient_keeps
                  with_reducible assumption
                · apply passDone_keeps
                  apply passTransient_keeps
                  with_reducible assumption
              · apply passDone_keeps
                with_reducible assumption

theorem freeTiles_keeps {s0 : State} : ∀ s1 x1 x2, Keeps s0 s1 → Keeps s0 (freeTiles s1 x1 x2) := by
  intro s1 x1 x2 h0
  unfold freeTiles
  apply Keeps.foldl
  · assumption
  · intro _ _
    intro _
    split
    · extract_lets +onlyGivenNames v195
      have kv195 : Keeps s0 v195 := by
        subst v195
        apply Keeps.ite
        · apply ttEvent_keeps
          assumption
        · assumption
      clear_value v195
      apply Keeps.ite
      · apply setTtState_keeps
        assumption
      · assumption
    · assumption

theorem tileEnd_keeps {s0 : State} : ∀ s1 x1 x2 x3, Keeps s0 s1 → Keeps s0 (tileEnd s1 x1 x2 x3) := by
  intro s1 x1 x2 x3 h0
  unfold tileEnd
  extract_lets +onlyGivenNames v120
  clear_value v120
  extract_lets +onlyGivenNames v119
  clear_value v119
  extract_lets +onlyGivenNames v118
  clear_value v118
  extract_lets +onlyGivenNames v117
  have kv117 : Keeps s0 v117 := by
    subst v117
    apply Keeps.ite
    · apply stBytes_keeps
      with_reducible assumption
    · with_reducible assumption
  clear_value v117
  extract_lets +onlyGivenNames v116
  clear_value v116
  extract_lets +onlyGivenNames v115
  have kv115 : Keeps s0 v115 := by
    subst v115
    apply stBytes_keeps
    with_reducible assumption
  clear_value v115
  extract_lets +onlyGivenNames v114
  have kv114 : Keeps s0 v114 := by
    subst v114
    apply Keeps.ite
    · apply stBytes_keeps
      with_reducible assumption
    · with_reducible assumption
  clear_value v114
  extract_lets +onlyGivenNames v113
  have kv113 : Keeps s0 v113 := by
    subst v113
    apply issued_keeps
    · with_reducible assumption
    · with_reducible assumption
  clear_value v113
  extract_lets +onlyGivenNames v112
  have kv112 : Keeps s0 v112 := by
    subst v112
    apply Keeps.ite
    · apply ttEvent_keeps
      with_reducible assumption
    · with_reducible assumption
  clear_value v112
  apply report_keeps
  apply dropTileJob_keeps
  apply freeTiles_keeps
  with_reducible assumption

theorem execTileJobEnd_keeps {s0 : State} : ∀ x0 s2, Keeps s0 s2 → KeepsOut s0 (execTileJobEnd x0 s2) := by
  intro x0 s2 h0
  unfold execTileJobEnd
  apply fabric_keeps
  · assumption
  · intro _ _
    split
    · assumption
    · split
      · apply tileEnd_keeps
        assumption
      · extract_lets +onlyGivenNames v195
        clear_value v195
        apply Keeps.ite
        · apply tileEnd_keeps
          assumption
        · apply Keeps.ite
          · apply tileEnd_keeps
            assumption
          · assumption

theorem giveUp_keeps {s0 : State} : ∀ s1 x1, Keeps s0 s1 → Keeps s0 (giveUp s1 x1) := by
  intro s1 x1 h0
  unfold giveUp
  apply releaseWrites_keeps
  apply clrBits_keeps
  refine Keeps.mk_same ?_ rfl rfl rfl rfl rfl rfl rfl rfl rfl rfl rfl rfl rfl
  with_reducible assumption

theorem dropRestores_keeps {s0 : State} : ∀ s1 x1, Keeps s0 s1 → Keeps s0 (dropRestores s1 x1) := by
  intro s1 x1 h0
  unfold dropRestores
  extract_lets +onlyGivenNames v120
  clear_value v120
  extract_lets +onlyGivenNames v119
  have kv119 : Keeps s0 v119 := by
    subst v119
    refine Keeps.mk_same ?_ rfl rfl rfl rfl rfl rfl rfl rfl rfl rfl rfl rfl rfl
    with_reducible assumption
  clear_value v119
  apply Keeps.foldl
  · with_reducible assumption
  · intro _ _
    intro _
    apply giveUp_keeps
    with_reducible assumption

theorem endRot_keeps {s0 : State} : ∀ s1 x1, Keeps s0 s1 → Keeps s0 (endRot s1 x1) := by
  intro s1 x1 h0
  unfold endRot
  apply clrBits_keeps
  refine Keeps.mk_same ?_ rfl rfl rfl rfl rfl rfl rfl rfl rfl rfl rfl rfl rfl
  with_reducible assumption

theorem abandonTest_keeps {s0 : State} : ∀ s1 x1 x2, Keeps s0 s1 → Keeps s0 (abandonTest s1 x1 x2) := by
  intro s1 x1 x2 h0
  unfold abandonTest
  extract_lets +onlyGivenNames v120
  have kv120 : Keeps s0 v120 := by
    subst v120
    apply dropRestores_keeps
    with_reducible assumption
  clear_value v120
  extract_lets +onlyGivenNames v119
  clear_value v119
  extract_lets +onlyGivenNames v118
  have kv118 : Keeps s0 v118 := by
    subst v118
    apply Keeps.foldl
    · with_reducible assumption
    · intro _ _
      intro _
      apply Keeps.ite
      · apply endRot_keeps
        with_reducible assumption
      · with_reducible assumption
  clear_value v118
  apply Keeps.ite
  · apply endRot_keeps
    with_reducible assumption
  · with_reducible assumption

theorem failJobs_keeps {s0 : State} : ∀ s1 x1, Keeps s0 s1 → Keeps s0 (failJobs s1 x1) := by
  intro s1 x1 h0
  unfold failJobs
  refine Keeps.mk_same ?_ rfl rfl rfl rfl rfl rfl rfl rfl rfl rfl rfl rfl rfl
  assumption

theorem foldArea_keeps {s0 : State} : ∀ s1, Keeps s0 s1 → Keeps s0 (foldArea s1).2 := by
  intro s1 h0
  unfold foldArea
  split
  extract_lets +onlyGivenNames v119
  clear_value v119
  dsimp only
  refine Keeps.of_snd (by assumption) ?_
  apply drawNat_keeps
  with_reducible assumption

theorem execTileTakeover_keeps {s0 : State} : ∀ x0 s2, Keeps s0 s2 → KeepsOut s0 (execTileTakeover x0 s2) := by
  intro x0 s2 h0
  unfold execTileTakeover
  apply fabric_keeps
  · assumption
  · intro _ _
    extract_lets +onlyGivenNames v197
    clear_value v197
    extract_lets +onlyGivenNames v196
    clear_value v196
    apply Keeps.ite
    · assumption
    · split
      · apply setTtState_keeps
        apply failJobs_keeps
        assumption
      · apply Keeps.ite
        · split
          extract_lets +onlyGivenNames v191
          have kv191 : Keeps s0 v191 := by
            subst v191
            apply startMove_keeps
            refine Keeps.of_snd (by assumption) ?_
            apply drawNat_keeps
            assumption
          clear_value v191
          refine Keeps.mk_same ?_ rfl rfl rfl rfl rfl rfl rfl rfl rfl rfl rfl rfl rfl
          assumption
        · extract_lets +onlyGivenNames v192
          clear_value v192
          extract_lets +onlyGivenNames v191
          have kv191 : Keeps s0 v191 := by
            subst v191
            apply abandonTest_keeps
            assumption
          clear_value v191
          extract_lets +onlyGivenNames v190
          have kv190 : Keeps s0 v190 := by
            subst v190
            split
            · apply evacuate_keeps
              assumption
            · assumption
          clear_value v190
          extract_lets +onlyGivenNames v189
          have kv189 : Keeps s0 v189 := by
            subst v189
            apply startMove_keeps
            assumption
          clear_value v189
          extract_lets +onlyGivenNames v188
          clear_value v188
          extract_lets +onlyGivenNames v187
          have kv187 : Keeps s0 v187 := by
            subst v187
            apply setTtState_keeps
            assumption
          clear_value v187
          refine Keeps.mk_same ?_ rfl rfl rfl rfl rfl rfl rfl rfl rfl rfl rfl rfl rfl
          assumption

theorem showBanks_keeps {s0 : State} : ∀ s1 x1 x2, Keeps s0 s1 → Keeps s0 (showBanks s1 x1 x2) := by
  intro s1 x1 x2 h0
  unfold showBanks
  apply Keeps.foldl
  · with_reducible assumption
  · intro _ _
    intro _
    apply wr_keeps
    apply wr_keeps
    with_reducible assumption

theorem remap_keeps {s0 : State} : ∀ s1 x1, Keeps s0 s1 → Keeps s0 (remap s1 x1) := by
  intro s1 x1 h0
  unfold remap
  extract_lets +onlyGivenNames v120
  clear_value v120
  extract_lets +onlyGivenNames v119
  have kv119 : Keeps s0 v119 := by
    subst v119
    apply wf_keeps
    with_reducible assumption
  clear_value v119
  extract_lets +onlyGivenNames v118
  clear_value v118
  extract_lets +onlyGivenNames v117
  have kv117 : Keeps s0 v117 := by
    subst v117
    apply Keeps.ite
    · apply Keeps.ite
      · apply setTtState_keeps
        with_reducible assumption
      · with_reducible assumption
    · apply showBanks_keeps
      apply wr_keeps
      with_reducible assumption
  clear_value v117
  extract_lets +onlyGivenNames v116
  clear_value v116
  apply Keeps.ite
  · apply wr_keeps
    with_reducible assumption
  · apply wr_keeps
    with_reducible assumption

theorem resumeJobs_keeps {s0 : State} : ∀ s1 x1, Keeps s0 s1 → Keeps s0 (resumeJobs s1 x1) := by
  intro s1 x1 h0
  unfold resumeJobs
  extract_lets +onlyGivenNames v200
  clear_value v200
  extract_lets +onlyGivenNames v199
  clear_value v199
  extract_lets +onlyGivenNames v198
  have kv198 : Keeps s0 v198 := by
    subst v198
    refine Keeps.mk_same ?_ rfl rfl rfl rfl rfl rfl rfl rfl rfl rfl rfl rfl rfl
    assumption
  clear_value v198
  apply Keeps.ite
  · apply failJobs_keeps
    assumption
  · assumption

theorem capDown_keeps {s0 : State} : ∀ s1 x1, Keeps s0 s1 → Keeps s0 (capDown s1 x1) := by
  intro s1 x1 h0
  unfold capDown
  apply Keeps.ite
  · apply wf_keeps
    assumption
  · apply wf_keeps
    assumption

theorem execTileTakeoverComplete_keeps {s0 : State} : ∀ x0 s2, Keeps s0 s2 → KeepsOut s0 (execTileTakeoverComplete x0 s2) := by
  intro x0 s2 h0
  unfold execTileTakeoverComplete
  apply fabric_keeps
  · assumption
  · intro _ _
    split
    · assumption
    · apply Keeps.ite
      · assumption
      · extract_lets +onlyGivenNames v195
        clear_value v195
        extract_lets +onlyGivenNames v194
        have kv194 : Keeps s0 v194 := by
          subst v194
          apply resumeJobs_keeps
          apply remap_keeps
          refine Keeps.mk_same ?_ rfl rfl rfl rfl rfl rfl rfl rfl rfl rfl rfl rfl rfl
          assumption
        clear_value v194
        apply takeoverDone_keeps
        apply capDown_keeps
        apply ttEvent_keeps
        assumption

end Sys2Proof.Machine
end

