-- ==== Sys2Proof/Laws/KeepsSolverImage.lean ====
section
/-! SUPPORT. What the functions of Machine/SolverImage.lean keep: the queue of commands, the straps, the fuses and the canonical forms. -/

namespace Sys2Proof.Machine

theorem countPass_keeps {s0 : State} : ∀ s1 x1, Keeps s0 s1 → Keeps s0 (countPass s1 x1) := by
  intro s1 x1 h0
  unfold countPass
  apply bumpN_keeps
  apply bumpN_keeps
  apply bumpWrap_keeps
  assumption

theorem rescaleEvent_keeps {s0 : State} : ∀ s1 x1 x2 x3, Keeps s0 s1 → Keeps s0 (rescaleEvent s1 x1 x2 x3) := by
  intro s1 x1 x2 x3 h0
  unfold rescaleEvent
  extract_lets +onlyGivenNames v200
  have kv200 : Keeps s0 v200 := by
    subst v200
    apply setBits_keeps
    apply bump_keeps
    assumption
  clear_value v200
  apply wr_keeps
  assumption

theorem assemble_keeps {s0 : State} : ∀ s1 x1 x2 x3 x4 x5 x6, Keeps s0 s1 → Keeps s0 (assemble s1 x1 x2 x3 x4 x5 x6).2 := by
  intro s1 x1 x2 x3 x4 x5 x6 h0
  unfold assemble
  extract_lets +onlyGivenNames v200
  clear_value v200
  extract_lets +onlyGivenNames v199
  clear_value v199
  extract_lets +onlyGivenNames v198
  have kv198 : Keeps s0 v198 := by
    subst v198
    apply countPass_keeps
    assumption
  clear_value v198
  split
  · assumption
  · extract_lets +onlyGivenNames v196
    clear_value v196
    extract_lets +onlyGivenNames v195
    clear_value v195
    extract_lets +onlyGivenNames v194
    have kv194 : Keeps s0 v194 := by
      subst v194
      apply Keeps.foldl
      · assumption
      · intro _ _
        intro _
        apply rescaleEvent_keeps
        assumption
    clear_value v194
    extract_lets +onlyGivenNames v193
    have kv193 : Keeps s0 v193 := by
      subst v193
      apply Keeps.foldl
      · assumption
      · intro _ _
        intro _
        apply rescaleEvent_keeps
        assumption
    clear_value v193
    extract_lets +onlyGivenNames v192
    clear_value v192
    dsimp only
    apply countPass_keeps
    assumption

end Sys2Proof.Machine
end

