-- ==== Sys2Proof/Laws/KeepsFilterChain.lean ====
section
/-! SUPPORT. What the functions of Machine/FilterChain.lean keep: the queue of commands, the straps, the fuses and the canonical forms. -/

namespace Sys2Proof.Machine

theorem setIfcSlot_keeps {s0 : State} : ∀ s1 x1 x2, Keeps s0 s1 → Keeps s0 (setIfcSlot s1 x1 x2) := by
  intro s1 x1 x2 h0
  unfold setIfcSlot
  refine Keeps.mk_same ?_ rfl rfl rfl rfl rfl rfl rfl rfl rfl rfl rfl rfl rfl
  assumption

theorem detSet_keeps {s0 : State} : ∀ s1 x1 x2, Keeps s0 s1 → Keeps s0 (detSet s1 x1 x2) := by
  intro s1 x1 x2 h0
  unfold detSet
  refine Keeps.mk_same ?_ rfl rfl rfl rfl rfl rfl rfl rfl rfl rfl rfl rfl rfl
  assumption

theorem ifcSatEvent_keeps {s0 : State} : ∀ s1 x1 x2, Keeps s0 s1 → Keeps s0 (ifcSatEvent s1 x1 x2) := by
  intro s1 x1 x2 h0
  unfold ifcSatEvent
  apply Keeps.ite
  · assumption
  · apply setBits_keeps
    apply bumpN_keeps
    assumption

theorem detBlockEnd_keeps {s0 : State} : ∀ s1 x1 x2 x3, Keeps s0 s1 → Keeps s0 (detBlockEnd s1 x1 x2 x3) := by
  intro s1 x1 x2 x3 h0
  unfold detBlockEnd
  extract_lets +onlyGivenNames v120
  clear_value v120
  extract_lets +onlyGivenNames v119
  clear_value v119
  extract_lets +onlyGivenNames v118
  have kv118 : Keeps s0 v118 := by
    subst v118
    apply detSet_keeps
    with_reducible assumption
  clear_value v118
  extract_lets +onlyGivenNames v117
  have kv117 : Keeps s0 v117 := by
    subst v117
    apply setBits_keeps
    with_reducible assumption
  clear_value v117
  apply Keeps.ite
  · apply setBits_keeps
    with_reducible assumption
  · with_reducible assumption

theorem detSample_keeps {s0 : State} : ∀ s1 x1 x2 x3 x4, Keeps s0 s1 → Keeps s0 (detSample s1 x1 x2 x3 x4) := by
  intro s1 x1 x2 x3 x4 h0
  unfold detSample
  apply Keeps.ite
  · assumption
  · extract_lets +onlyGivenNames v199
    clear_value v199
    extract_lets +onlyGivenNames v198
    clear_value v198
    extract_lets +onlyGivenNames v197
    clear_value v197
    extract_lets +onlyGivenNames v196
    clear_value v196
    apply Keeps.ite
    · apply detBlockEnd_keeps
      assumption
    · apply detSet_keeps
      assumption

theorem detAbandon_keeps {s0 : State} : ∀ s1 x1, Keeps s0 s1 → Keeps s0 (detAbandon s1 x1) := by
  intro s1 x1 h0
  unfold detAbandon
  apply detSet_keeps
  assumption

theorem chanSample_keeps {s0 : State} : ∀ x0 x1 x2 x3 s5 x5, Keeps s0 s5 → Keeps s0 (chanSample x0 x1 x2 x3 s5 x5) := by
  intro x0 x1 x2 x3 s5 x5 h0
  unfold chanSample
  apply Keeps.ite
  · assumption
  · extract_lets +onlyGivenNames v199
    clear_value v199
    extract_lets +onlyGivenNames v198
    clear_value v198
    extract_lets +onlyGivenNames v197
    clear_value v197
    extract_lets +onlyGivenNames v196
    clear_value v196
    extract_lets +onlyGivenNames v195
    clear_value v195
    extract_lets +onlyGivenNames v194
    have kv194 : Keeps s0 v194 := by
      subst v194
      apply Keeps.ite
      · apply setBits_keeps
        apply detAbandon_keeps
        assumption
      · assumption
    clear_value v194
    extract_lets +onlyGivenNames v193
    clear_value v193
    extract_lets +onlyGivenNames v192
    clear_value v192
    extract_lets +onlyGivenNames v191
    clear_value v191
    extract_lets +onlyGivenNames v190
    have kv190 : Keeps s0 v190 := by
      subst v190
      apply ifcSatEvent_keeps
      assumption
    clear_value v190
    extract_lets +onlyGivenNames v189
    clear_value v189
    extract_lets +onlyGivenNames v188
    have kv188 : Keeps s0 v188 := by
      subst v188
      apply setIfcSlot_keeps
      assumption
    clear_value v188
    apply Keeps.ite
    · assumption
    · apply detSample_keeps
      assumption

theorem formOutput_keeps {s0 : State} : ∀ s1 x1 x2 x3, Keeps s0 s1 → Keeps s0 (formOutput s1 x1 x2 x3) := by
  intro s1 x1 x2 x3 h0
  unfold formOutput
  extract_lets +onlyGivenNames v120
  clear_value v120
  extract_lets +onlyGivenNames v119
  clear_value v119
  extract_lets +onlyGivenNames v118
  clear_value v118
  extract_lets +onlyGivenNames v117
  clear_value v117
  extract_lets +onlyGivenNames v116
  clear_value v116
  extract_lets +onlyGivenNames v115
  have kv115 : Keeps s0 v115 := by
    subst v115
    apply setIfcSlot_keeps
    with_reducible assumption
  clear_value v115
  apply Keeps.foldl
  · with_reducible assumption
  · intro _ _
    intro _
    apply Keeps.ite
    · apply detSample_keeps
      with_reducible assumption
    · with_reducible assumption

theorem ifcSample_keeps {s0 : State} : ∀ s1 x1 x2 x3, Keeps s0 s1 → Keeps s0 (ifcSample s1 x1 x2 x3) := by
  intro s1 x1 x2 x3 h0
  unfold ifcSample
  apply Keeps.ite
  · assumption
  · extract_lets +onlyGivenNames v199
    have kv199 : Keeps s0 v199 := by
      subst v199
      apply Keeps.ite
      · apply setBits_keeps
        apply bump_keeps
        assumption
      · assumption
    clear_value v199
    extract_lets +onlyGivenNames v198
    clear_value v198
    extract_lets +onlyGivenNames v197
    have kv197 : Keeps s0 v197 := by
      subst v197
      apply Keeps.foldl
      · assumption
      · intro _ _
        intro _
        apply chanSample_keeps
        assumption
    clear_value v197
    extract_lets +onlyGivenNames v196
    clear_value v196
    extract_lets +onlyGivenNames v195
    clear_value v195
    extract_lets +onlyGivenNames v194
    have kv194 : Keeps s0 v194 := by
      subst v194
      apply setIfcSlot_keeps
      refine Keeps.mk_same ?_ rfl rfl rfl rfl rfl rfl rfl rfl rfl rfl rfl rfl rfl
      assumption
    clear_value v194
    apply Keeps.ite
    · apply formOutput_keeps
      assumption
    · assumption

theorem ifcRestart_keeps {s0 : State} : ∀ s1 x1, Keeps s0 s1 → Keeps s0 (ifcRestart s1 x1) := by
  intro s1 x1 h0
  unfold ifcRestart
  extract_lets +onlyGivenNames v120
  clear_value v120
  extract_lets +onlyGivenNames v119
  have kv119 : Keeps s0 v119 := by
    subst v119
    apply setIfcSlot_keeps
    with_reducible assumption
  clear_value v119
  apply setBits_keeps
  apply Keeps.foldl
  · with_reducible assumption
  · intro _ _
    intro _
    apply detAbandon_keeps
    with_reducible assumption

theorem execIfcOutputRecord_keeps {s0 : State} : ∀ x0 s2, Keeps s0 s2 → KeepsOut s0 (execIfcOutputRecord x0 s2) := by
  intro x0 s2 h0
  unfold execIfcOutputRecord
  apply fabric_keeps
  · with_reducible assumption
  · intro _ _
    extract_lets +onlyGivenNames v117
    clear_value v117
    split
    · with_reducible assumption
    · extract_lets +onlyGivenNames v115
      clear_value v115
      extract_lets +onlyGivenNames v114
      clear_value v114
      extract_lets +onlyGivenNames v113
      clear_value v113
      extract_lets +onlyGivenNames v112
      have kv112 : Keeps s0 v112 := by
        subst v112
        apply stBytes_keeps
        with_reducible assumption
      clear_value v112
      extract_lets +onlyGivenNames v111
      have kv111 : Keeps s0 v111 := by
        subst v111
        apply wr_keeps
        apply setIfcSlot_keeps
        with_reducible assumption
      clear_value v111
      extract_lets +onlyGivenNames v110
      have kv110 : Keeps s0 v110 := by
        subst v110
        apply signalAfter_keeps
        with_reducible assumption
      clear_value v110
      refine Keeps.mk_same ?_ rfl rfl rfl rfl rfl rfl rfl rfl rfl rfl rfl rfl rfl
      with_reducible assumption

theorem ifcErr_keeps {s0 : State} : ∀ s1 x1 x2, Keeps s0 s1 → Keeps s0 (ifcErr s1 x1 x2) := by
  intro s1 x1 x2 h0
  unfold ifcErr
  apply errInfo_keeps
  assumption

theorem ifcCfgWrite_keeps {s0 : State} : ∀ s1 x1 x2, Keeps s0 s1 → Keeps s0 (ifcCfgWrite s1 x1 x2) := by
  intro s1 x1 x2 h0
  unfold ifcCfgWrite
  extract_lets +onlyGivenNames v120
  clear_value v120
  extract_lets +onlyGivenNames v119
  clear_value v119
  apply Keeps.ite
  · apply Keeps.ite
    · apply wr_keeps
      with_reducible assumption
    · apply Keeps.ite
      · with_reducible assumption
      · apply ifcErr_keeps
        with_reducible assumption
  · apply Keeps.ite
    · apply wr_keeps
      with_reducible assumption
    · extract_lets +onlyGivenNames v116
      have kv116 : Keeps s0 v116 := by
        subst v116
        apply wr_keeps
        with_reducible assumption
      clear_value v116
      apply Keeps.ite
      · apply ifcRestart_keeps
        apply setIfcSlot_keeps
        with_reducible assumption
      · apply ifcErr_keeps
        apply wr_keeps
        with_reducible assumption

theorem ifcSwitch_keeps {s0 : State} : ∀ s1 x1 x2 x3, Keeps s0 s1 → Keeps s0 (ifcSwitch s1 x1 x2 x3) := by
  intro s1 x1 x2 x3 h0
  unfold ifcSwitch
  extract_lets +onlyGivenNames v120
  clear_value v120
  extract_lets +onlyGivenNames v119
  clear_value v119
  extract_lets +onlyGivenNames v118
  clear_value v118
  apply wr_keeps
  apply setIfcSlot_keeps
  with_reducible assumption

theorem ifcChWrite_keeps {s0 : State} : ∀ s1 x1 x2 x3, Keeps s0 s1 → Keeps s0 (ifcChWrite s1 x1 x2 x3) := by
  intro s1 x1 x2 x3 h0
  unfold ifcChWrite
  extract_lets +onlyGivenNames v120
  clear_value v120
  extract_lets +onlyGivenNames v119
  clear_value v119
  extract_lets +onlyGivenNames v118
  clear_value v118
  apply Keeps.ite
  · apply wr_keeps
    with_reducible assumption
  · apply Keeps.ite
    · apply Keeps.ite
      · with_reducible assumption
      · apply Keeps.ite
        · apply ifcErr_keeps
          with_reducible assumption
        · apply Keeps.ite
          · apply ifcSwitch_keeps
            with_reducible assumption
          · apply wr_keeps
            with_reducible assumption
    · apply Keeps.ite
      · apply ifcErr_keeps
        with_reducible assumption
      · apply wr_keeps
        with_reducible assumption

theorem execIfcConfigWrite_keeps {s0 : State} : ∀ x0 x1 s3, Keeps s0 s3 → KeepsOut s0 (execIfcConfigWrite x0 x1 s3) := by
  intro x0 x1 s3 h0
  unfold execIfcConfigWrite
  apply fabric_keeps
  · with_reducible assumption
  · intro _ _
    extract_lets +onlyGivenNames v117
    clear_value v117
    split
    · with_reducible assumption
    · extract_lets +onlyGivenNames v115
      clear_value v115
      extract_lets +onlyGivenNames v114
      clear_value v114
      apply Keeps.ite
      · with_reducible assumption
      · apply Keeps.ite
        · apply Keeps.ite
          · apply ifcErr_keeps
            with_reducible assumption
          · apply wr_keeps
            with_reducible assumption
        · apply Keeps.ite
          · with_reducible assumption
          · apply Keeps.ite
            · apply ifcCfgWrite_keeps
              with_reducible assumption
            · apply Keeps.ite
              · apply ifcChWrite_keeps
                with_reducible assumption
              · apply Keeps.ite
                · apply Keeps.ite
                  · with_reducible assumption
                  · apply ifcErr_keeps
                    with_reducible assumption
                · apply wr_keeps
                  with_reducible assumption

theorem execIfcChannelSwitch_keeps {s0 : State} : ∀ x0 x1 x2 s4, Keeps s0 s4 → KeepsOut s0 (execIfcChannelSwitch x0 x1 x2 s4) := by
  intro x0 x1 x2 s4 h0
  unfold execIfcChannelSwitch
  apply fabric_keeps
  · with_reducible assumption
  · intro _ _
    apply ifcChWrite_keeps
    with_reducible assumption

theorem execIfcDetCfgWrite_keeps {s0 : State} : ∀ x0 x1 x2 s4, Keeps s0 s4 → KeepsOut s0 (execIfcDetCfgWrite x0 x1 x2 s4) := by
  intro x0 x1 x2 s4 h0
  unfold execIfcDetCfgWrite
  apply fabric_keeps
  · assumption
  · intro _ _
    extract_lets +onlyGivenNames v197
    clear_value v197
    extract_lets +onlyGivenNames v196
    clear_value v196
    apply Keeps.ite
    · apply Keeps.ite
      · apply wr_keeps
        apply detAbandon_keeps
        assumption
      · apply ifcErr_keeps
        assumption
    · apply wr_keeps
      assumption

theorem execIfcCtrlWrite_keeps {s0 : State} : ∀ x0 s2, Keeps s0 s2 → KeepsOut s0 (execIfcCtrlWrite x0 s2) := by
  intro x0 s2 h0
  unfold execIfcCtrlWrite
  apply fabric_keeps
  · with_reducible assumption
  · intro _ _
    extract_lets +onlyGivenNames v117
    have kv117 : Keeps s0 v117 := by
      subst v117
      apply wr_keeps
      with_reducible assumption
    clear_value v117
    apply Keeps.ite
    · extract_lets +onlyGivenNames v115
      have kv115 : Keeps s0 v115 := by
        subst v115
        apply Keeps.foldl
        · with_reducible assumption
        · intro _ _
          intro _
          apply detAbandon_keeps
          with_reducible assumption
      clear_value v115
      apply Keeps.foldl
      · with_reducible assumption
      · intro _ _
        intro _
        apply Keeps.ite
        · apply ifcRestart_keeps
          with_reducible assumption
        · with_reducible assumption
    · with_reducible assumption

theorem execDetPowerLoRead_keeps {s0 : State} : ∀ x0 s2, Keeps s0 s2 → KeepsOut s0 (execDetPowerLoRead x0 s2) := by
  intro x0 s2 h0
  unfold execDetPowerLoRead
  apply fabric_keeps
  · assumption
  · intro _ _
    extract_lets +onlyGivenNames v197
    clear_value v197
    extract_lets +onlyGivenNames v196
    have kv196 : Keeps s0 v196 := by
      subst v196
      apply capture_keeps
      assumption
    clear_value v196
    extract_lets +onlyGivenNames v195
    have kv195 : Keeps s0 v195 := by
      subst v195
      apply wr_keeps
      assumption
    clear_value v195
    extract_lets +onlyGivenNames v194
    have kv194 : Keeps s0 v194 := by
      subst v194
      apply wr_keeps
      apply wr_keeps
      assumption
    clear_value v194
    apply wr_keeps
    assumption

end Sys2Proof.Machine
end

