-- ==== Sys2Proof/Laws/KeepsFusion.lean ====
section
/-! SUPPORT. What the functions of Machine/Fusion.lean keep: the queue of commands, the straps, the fuses and the canonical forms. -/

namespace Sys2Proof.Machine

theorem tfuEvent_keeps {s0 : State} : ∀ s1 x1, Keeps s0 s1 → Keeps s0 (tfuEvent s1 x1) := by
  intro s1 x1 h0
  unfold tfuEvent
  apply setBits_keeps
  assumption

theorem tfuErr_keeps {s0 : State} : ∀ s1 x1 x2 x3, Keeps s0 s1 → Keeps s0 (tfuErr s1 x1 x2 x3) := by
  intro s1 x1 x2 x3 h0
  unfold tfuErr
  apply errInfo_keeps
  assumption

theorem setMode_keeps {s0 : State} : ∀ s1 x1, Keeps s0 s1 → Keeps s0 (setMode s1 x1) := by
  intro s1 x1 h0
  unfold setMode
  apply Keeps.ite
  · assumption
  · apply tfuEvent_keeps
    apply wf_keeps
    assumption

theorem poseFlag_keeps {s0 : State} : ∀ s1 x1, Keeps s0 s1 → Keeps s0 (poseFlag s1 x1) := by
  intro s1 x1 h0
  unfold poseFlag
  refine Keeps.mk_same ?_ rfl rfl rfl rfl rfl rfl rfl rfl rfl rfl rfl rfl rfl
  assumption

theorem covSat_keeps {s0 : State} : ∀ s1 x1, Keeps s0 s1 → Keeps s0 (covSat s1 x1) := by
  intro s1 x1 h0
  unfold covSat
  apply Keeps.ite
  · with_reducible assumption
  · apply poseFlag_keeps
    apply tfuEvent_keeps
    apply bumpN_keeps
    with_reducible assumption

theorem setCov_keeps {s0 : State} : ∀ s1 x1 x2, Keeps s0 s1 → Keeps s0 (setCov s1 x1 x2) := by
  intro s1 x1 x2 h0
  unfold setCov
  split
  extract_lets +onlyGivenNames v119
  clear_value v119
  extract_lets +onlyGivenNames v118
  have kv118 : Keeps s0 v118 := by
    subst v118
    apply bumpN_keeps
    refine Keeps.mk_same ?_ rfl rfl rfl rfl rfl rfl rfl rfl rfl rfl rfl rfl rfl
    with_reducible assumption
  clear_value v118
  apply Keeps.foldl
  · apply covSat_keeps
    with_reducible assumption
  · intro _ _
    intro _
    apply wr_keeps
    with_reducible assumption

theorem formPose_keeps {s0 : State} : ∀ x0 s2, Keeps s0 s2 → Keeps s0 (formPose x0 s2) := by
  intro x0 s2 h0
  unfold formPose
  extract_lets +onlyGivenNames v120
  clear_value v120
  extract_lets +onlyGivenNames v119
  clear_value v119
  extract_lets +onlyGivenNames v118
  clear_value v118
  extract_lets +onlyGivenNames v117
  clear_value v117
  extract_lets +onlyGivenNames v116
  clear_value v116
  extract_lets +onlyGivenNames v115
  clear_value v115
  extract_lets +onlyGivenNames v114
  clear_value v114
  extract_lets +onlyGivenNames v113
  clear_value v113
  extract_lets +onlyGivenNames v112
  clear_value v112
  extract_lets +onlyGivenNames v111
  have kv111 : Keeps s0 v111 := by
    subst v111
    apply wr_keeps
    refine Keeps.mk_same ?_ rfl rfl rfl rfl rfl rfl rfl rfl rfl rfl rfl rfl rfl
    with_reducible assumption
  clear_value v111
  apply Keeps.ite
  · extract_lets +onlyGivenNames v109
    have kv109 : Keeps s0 v109 := by
      subst v109
      apply hostWrite_keeps
      with_reducible assumption
    clear_value v109
    apply Keeps.ite
    · apply msixSend_keeps
      with_reducible assumption
    · with_reducible assumption
  · apply bump_keeps
    with_reducible assumption

theorem predictCov_keeps {s0 : State} : ∀ s1 x1 x2 x3, Keeps s0 s1 → Keeps s0 (predictCov s1 x1 x2 x3) := by
  intro s1 x1 x2 x3 h0
  unfold predictCov
  extract_lets +onlyGivenNames v200
  clear_value v200
  extract_lets +onlyGivenNames v199
  clear_value v199
  split
  split
  apply setCov_keeps
  assumption

theorem pushHist_keeps {s0 : State} : ∀ s1, Keeps s0 s1 → Keeps s0 (pushHist s1) := by
  intro s1 h0
  unfold pushHist
  refine Keeps.mk_same ?_ rfl rfl rfl rfl rfl rfl rfl rfl rfl rfl rfl rfl rfl
  assumption

theorem afterPredict_keeps {s0 : State} : ∀ x0 s2, Keeps s0 s2 → Keeps s0 (afterPredict x0 s2) := by
  intro x0 s2 h0
  unfold afterPredict
  extract_lets +onlyGivenNames v120
  clear_value v120
  extract_lets +onlyGivenNames v119
  clear_value v119
  extract_lets +onlyGivenNames v118
  have kv118 : Keeps s0 v118 := by
    subst v118
    apply pushHist_keeps
    refine Keeps.mk_same ?_ rfl rfl rfl rfl rfl rfl rfl rfl rfl rfl rfl rfl rfl
    with_reducible assumption
  clear_value v118
  apply Keeps.ite
  · apply formPose_keeps
    with_reducible assumption
  · with_reducible assumption

theorem setSource_keeps {s0 : State} : ∀ s1 x1, Keeps s0 s1 → Keeps s0 (setSource s1 x1) := by
  intro s1 x1 h0
  unfold setSource
  apply Keeps.ite
  · assumption
  · extract_lets +onlyGivenNames v199
    have kv199 : Keeps s0 v199 := by
      subst v199
      apply wf_keeps
      assumption
    clear_value v199
    apply Keeps.ite
    · apply tfuEvent_keeps
      assumption
    · apply poseFlag_keeps
      apply tfuEvent_keeps
      assumption

theorem noteGood_keeps {s0 : State} : ∀ s1 x1, Keeps s0 s1 → Keeps s0 (noteGood s1 x1) := by
  intro s1 x1 h0
  unfold noteGood
  apply Keeps.ite
  · with_reducible assumption
  · refine Keeps.mk_same ?_ rfl rfl rfl rfl rfl rfl rfl rfl rfl rfl rfl rfl rfl
    with_reducible assumption

theorem usedSamples_keeps {s0 : State} : ∀ s1 x1, Keeps s0 s1 → Keeps s0 (usedSamples s1 x1).2 := by
  intro s1 x1 h0
  unfold usedSamples
  split
  · dsimp only
    apply poseFlag_keeps
    with_reducible assumption
  · dsimp only
    apply noteGood_keeps
    with_reducible assumption

theorem predictWith_keeps {s0 : State} : ∀ s1 x1, Keeps s0 s1 → Keeps s0 (predictWith s1 x1) := by
  intro s1 x1 h0
  unfold predictWith
  split
  extract_lets +onlyGivenNames v199
  have kv199 : Keeps s0 v199 := by
    subst v199
    apply Keeps.ite
    · refine Keeps.of_snd (by assumption) ?_
      apply usedSamples_keeps
      assumption
    · apply poseFlag_keeps
      refine Keeps.of_snd (by assumption) ?_
      apply usedSamples_keeps
      assumption
  clear_value v199
  extract_lets +onlyGivenNames v198
  clear_value v198
  extract_lets +onlyGivenNames v197
  clear_value v197
  extract_lets +onlyGivenNames v196
  clear_value v196
  extract_lets +onlyGivenNames v195
  clear_value v195
  extract_lets +onlyGivenNames v194
  clear_value v194
  extract_lets +onlyGivenNames v193
  clear_value v193
  extract_lets +onlyGivenNames v192
  clear_value v192
  extract_lets +onlyGivenNames v191
  clear_value v191
  extract_lets +onlyGivenNames v190
  clear_value v190
  extract_lets +onlyGivenNames v189
  clear_value v189
  extract_lets +onlyGivenNames v188
  have kv188 : Keeps s0 v188 := by
    subst v188
    refine Keeps.mk_same ?_ rfl rfl rfl rfl rfl rfl rfl rfl rfl rfl rfl rfl rfl
    assumption
  clear_value v188
  apply afterPredict_keeps
  apply predictCov_keeps
  assumption

theorem execTfuPredict_keeps {s0 : State} : ∀ s1, Keeps s0 s1 → KeepsOut s0 (execTfuPredict s1) := by
  intro s1 h0
  unfold execTfuPredict
  apply fabric_keeps
  · with_reducible assumption
  · intro _ _
    split
    · with_reducible assumption
    · apply Keeps.ite
      · with_reducible assumption
      · extract_lets +onlyGivenNames v115
        clear_value v115
        extract_lets +onlyGivenNames v114
        have kv114 : Keeps s0 v114 := by
          subst v114
          refine Keeps.mk_same ?_ rfl rfl rfl rfl rfl rfl rfl rfl rfl rfl rfl rfl rfl
          with_reducible assumption
        clear_value v114
        split
        · extract_lets +onlyGivenNames v112
          clear_value v112
          extract_lets +onlyGivenNames v111
          have kv111 : Keeps s0 v111 := by
            subst v111
            refine Keeps.mk_same ?_ rfl rfl rfl rfl rfl rfl rfl rfl rfl rfl rfl rfl rfl
            with_reducible assumption
          clear_value v111
          apply predictWith_keeps
          apply setSource_keeps
          with_reducible assumption
        · apply noteGood_keeps
          with_reducible assumption

theorem execTfuTimerPredict_keeps {s0 : State} : ∀ s1, Keeps s0 s1 → KeepsOut s0 (execTfuTimerPredict s1) := by
  intro s1 h0
  unfold execTfuTimerPredict
  apply fabric_keeps
  · with_reducible assumption
  · intro _ _
    apply Keeps.ite
    · with_reducible assumption
    · extract_lets +onlyGivenNames v116
      have kv116 : Keeps s0 v116 := by
        subst v116
        apply setSource_keeps
        with_reducible assumption
      clear_value v116
      extract_lets +onlyGivenNames v115
      clear_value v115
      extract_lets +onlyGivenNames v114
      clear_value v114
      extract_lets +onlyGivenNames v113
      clear_value v113
      extract_lets +onlyGivenNames v112
      clear_value v112
      extract_lets +onlyGivenNames v111
      clear_value v111
      extract_lets +onlyGivenNames v110
      clear_value v110
      extract_lets +onlyGivenNames v109
      clear_value v109
      extract_lets +onlyGivenNames v108
      have kv108 : Keeps s0 v108 := by
        subst v108
        refine Keeps.mk_same ?_ rfl rfl rfl rfl rfl rfl rfl rfl rfl rfl rfl rfl rfl
        with_reducible assumption
      clear_value v108
      apply afterPredict_keeps
      apply predictCov_keeps
      with_reducible assumption

theorem execTfuAidTimeout_keeps {s0 : State} : ∀ s1, Keeps s0 s1 → KeepsOut s0 (execTfuAidTimeout s1) := by
  intro s1 h0
  unfold execTfuAidTimeout
  apply fabric_keeps
  · assumption
  · intro _ _
    split
    · apply Keeps.ite
      · apply setMode_keeps
        assumption
      · assumption
    · assumption

theorem tfuWork_keeps {s0 : State} : ∀ x0 f1 s3, (∀ t y1, Keeps s0 t → Keeps s0 (f1 t y1)) → Keeps s0 s3 → KeepsOut s0 (tfuWork x0 f1 s3) := by
  intro x0 f1 s3 h0 h1
  unfold tfuWork
  apply fabric_keeps
  · with_reducible assumption
  · intro _ _
    split
    · with_reducible assumption
    · extract_lets +onlyGivenNames v116
      clear_value v116
      apply Keeps.ite
      · with_reducible assumption
      · extract_lets +onlyGivenNames v114
        have kv114 : Keeps s0 v114 := by
          subst v114
          apply wf_keeps
          apply setStarted_keeps
          with_reducible assumption
        clear_value v114
        apply Keeps.ite
        · apply h0
          with_reducible assumption
        · apply Keeps.ite
          · with_reducible assumption
          · apply report_keeps
            apply tfuErr_keeps
            with_reducible assumption

theorem tfuRefuse_keeps {s0 : State} : ∀ s1 x1 x2, Keeps s0 s1 → Keeps s0 (tfuRefuse s1 x1 x2) := by
  intro s1 x1 x2 h0
  unfold tfuRefuse
  apply report_keeps
  apply tfuErr_keeps
  assumption

theorem innovate_keeps {s0 : State} : ∀ s1 x1 x2 x3 x4 x5 x6, Keeps s0 s1 → Keeps s0 (innovate s1 x1 x2 x3 x4 x5 x6) := by
  intro s1 x1 x2 x3 x4 x5 x6 h0
  unfold innovate
  extract_lets +onlyGivenNames v120
  clear_value v120
  extract_lets +onlyGivenNames v119
  clear_value v119
  extract_lets +onlyGivenNames v118
  clear_value v118
  extract_lets +onlyGivenNames v117
  clear_value v117
  extract_lets +onlyGivenNames v116
  clear_value v116
  extract_lets +onlyGivenNames v115
  have kv115 : Keeps s0 v115 := by
    subst v115
    apply jobStore_keeps
    with_reducible assumption
  clear_value v115
  extract_lets +onlyGivenNames v114
  clear_value v114
  extract_lets +onlyGivenNames v113
  have kv113 : Keeps s0 v113 := by
    subst v113
    apply wr_keeps
    refine Keeps.mk_same ?_ rfl rfl rfl rfl rfl rfl rfl rfl rfl rfl rfl rfl rfl
    with_reducible assumption
  clear_value v113
  extract_lets +onlyGivenNames v112
  have kv112 : Keeps s0 v112 := by
    subst v112
    apply signalAfter_keeps
    with_reducible assumption
  clear_value v112
  extract_lets +onlyGivenNames v111
  clear_value v111
  apply Keeps.ite
  · with_reducible assumption
  · extract_lets +onlyGivenNames v109
    have kv109 : Keeps s0 v109 := by
      subst v109
      apply bumpWrap_keeps
      with_reducible assumption
    clear_value v109
    apply Keeps.ite
    · with_reducible assumption
    · extract_lets +onlyGivenNames v107
      clear_value v107
      apply wr_keeps
      with_reducible assumption

theorem egoUpdate_keeps {s0 : State} : ∀ s1 x1 x2 x3 x4 x5 x6, Keeps s0 s1 → Keeps s0 (egoUpdate s1 x1 x2 x3 x4 x5 x6) := by
  intro s1 x1 x2 x3 x4 x5 x6 h0
  unfold egoUpdate
  extract_lets +onlyGivenNames v120
  clear_value v120
  extract_lets +onlyGivenNames v119
  clear_value v119
  split
  extract_lets +onlyGivenNames v117
  clear_value v117
  split
  · extract_lets +onlyGivenNames v115
    have kv115 : Keeps s0 v115 := by
      subst v115
      apply bump_keeps
      apply tfuEvent_keeps
      apply covSat_keeps
      with_reducible assumption
    clear_value v115
    apply report_keeps
    apply innovate_keeps
    with_reducible assumption
  · extract_lets +onlyGivenNames v115
    clear_value v115
    extract_lets +onlyGivenNames v114
    have kv114 : Keeps s0 v114 := by
      subst v114
      apply setCov_keeps
      refine Keeps.mk_same ?_ rfl rfl rfl rfl rfl rfl rfl rfl rfl rfl rfl rfl rfl
      with_reducible assumption
    clear_value v114
    extract_lets +onlyGivenNames v113
    have kv113 : Keeps s0 v113 := by
      subst v113
      apply poseFlag_keeps
      apply bumpWrap_keeps
      with_reducible assumption
    clear_value v113
    extract_lets +onlyGivenNames v112
    have kv112 : Keeps s0 v112 := by
      subst v112
      apply Keeps.ite
      · with_reducible assumption
      · apply setMode_keeps
        with_reducible assumption
    clear_value v112
    extract_lets +onlyGivenNames v111
    clear_value v111
    apply report_keeps
    apply innovate_keeps
    with_reducible assumption

theorem objInit_keeps {s0 : State} : ∀ s1 x1 x2 x3 x4 x5, Keeps s0 s1 → Keeps s0 (objInit s1 x1 x2 x3 x4 x5).2.2 := by
  intro s1 x1 x2 x3 x4 x5 h0
  unfold objInit
  extract_lets
  repeat' split
  exact Keeps.of_snd (by assumption) (drawNat_keeps _ h0)

theorem setObj_keeps {s0 : State} : ∀ s1 x1 x2, Keeps s0 s1 → Keeps s0 (setObj s1 x1 x2) := by
  intro s1 x1 x2 h0
  unfold setObj
  refine Keeps.mk_same ?_ rfl rfl rfl rfl rfl rfl rfl rfl rfl rfl rfl rfl rfl
  assumption

theorem objSat_keeps {s0 : State} : ∀ s1 x1, Keeps s0 s1 → Keeps s0 (objSat s1 x1) := by
  intro s1 x1 h0
  unfold objSat
  apply bumpN_keeps
  apply Keeps.ite
  · with_reducible assumption
  · apply tfuEvent_keeps
    apply bumpN_keeps
    with_reducible assumption

theorem objUpdate_keeps {s0 : State} : ∀ s1 x1 x2 x3 x4 x5 x6, Keeps s0 s1 → Keeps s0 (objUpdate s1 x1 x2 x3 x4 x5 x6) := by
  intro s1 x1 x2 x3 x4 x5 x6 h0
  unfold objUpdate
  extract_lets +onlyGivenNames k ty m st
  clear_value st m ty k
  split
  · split
    next o c s1 e =>
    have h1 : Keeps s0 s1 := Keeps.of_snd (congrArg Prod.snd e) (objInit_keeps _ _ _ _ _ _ h0)
    extract_lets +onlyGivenNames s2
    have h2 : Keeps s0 s2 := wf_keeps _ _ _ _ _ (bumpWrap_keeps _ _ (setObj_keeps _ _ _ (objSat_keeps _ _ h1)))
    clear_value s2
    split
    next free s3 e2 =>
    exact report_keeps _ _ _ (innovate_keeps _ _ _ _ _ _ _ (Keeps.of_snd e2 (drawNat_keeps _ h2)))
  · split
    next o sat _ =>
    extract_lets +onlyGivenNames n rt x hm nu s1'
    have h1 : Keeps s0 s1' := objSat_keeps _ _ h0
    clear_value s1' nu hm x rt n
    split
    · extract_lets +onlyGivenNames s1
      exact report_keeps _ _ _ (innovate_keeps _ _ _ _ _ _ _ (bump_keeps _ _ (tfuEvent_keeps _ _ (objSat_keeps _ _ (setObj_keeps _ _ _ h1)))))
    · extract_lets +onlyGivenNames xn
      clear_value xn
      split
      extract_lets +onlyGivenNames s1
      have h1 : Keeps s0 s1 := objSat_keeps _ _ (setObj_keeps _ _ _ h1)
      clear_value s1
      exact report_keeps _ _ _ (innovate_keeps _ _ _ _ _ _ _ (bumpWrap_keeps _ _ h1))

theorem updateJob_keeps {s0 : State} : ∀ s1 x1, Keeps s0 s1 → Keeps s0 (updateJob s1 x1) := by
  intro s1 x1 h0
  unfold updateJob
  extract_lets +onlyGivenNames v120
  clear_value v120
  split
  · apply tfuRefuse_keeps
    with_reducible assumption
  · apply tfuRefuse_keeps
    with_reducible assumption
  · extract_lets +onlyGivenNames v118
    clear_value v118
    apply jobIo_keeps
    · with_reducible assumption
    · intro _ _
      apply report_keeps
      with_reducible assumption
    · intro _ _
      extract_lets +onlyGivenNames v114
      clear_value v114
      apply Keeps.ite
      · apply tfuRefuse_keeps
        with_reducible assumption
      · extract_lets +onlyGivenNames v112
        clear_value v112
        extract_lets +onlyGivenNames v111
        clear_value v111
        extract_lets +onlyGivenNames v110
        clear_value v110
        extract_lets +onlyGivenNames v109
        clear_value v109
        extract_lets +onlyGivenNames v108
        clear_value v108
        split
        · apply report_keeps
          apply innovate_keeps
          with_reducible assumption
        · apply Keeps.ite
          · apply Keeps.ite
            · split
              · apply egoUpdate_keeps
                with_reducible assumption
              · apply report_keeps
                apply innovate_keeps
                with_reducible assumption
            · apply egoUpdate_keeps
              with_reducible assumption
          · apply objUpdate_keeps
            with_reducible assumption

theorem execUpdate_keeps {s0 : State} : ∀ s1, Keeps s0 s1 → KeepsOut s0 (execUpdate s1) := by
  intro s1 h0
  unfold execUpdate
  apply tfuWork_keeps
  · intro _ _
    intro _
    apply updateJob_keeps
    assumption
  · assumption

theorem resetJob_keeps {s0 : State} : ∀ s1 x1, Keeps s0 s1 → Keeps s0 (resetJob s1 x1) := by
  intro s1 x1 h0
  unfold resetJob
  extract_lets +onlyGivenNames v120
  clear_value v120
  extract_lets +onlyGivenNames v119
  clear_value v119
  split
  · apply tfuRefuse_keeps
    with_reducible assumption
  · apply jobIo_keeps
    · with_reducible assumption
    · intro _ _
      apply report_keeps
      with_reducible assumption
    · intro _ _
      extract_lets +onlyGivenNames v114
      clear_value v114
      extract_lets +onlyGivenNames v113
      clear_value v113
      apply Keeps.ite
      · apply tfuRefuse_keeps
        with_reducible assumption
      · extract_lets +onlyGivenNames v111
        clear_value v111
        extract_lets +onlyGivenNames v110
        clear_value v110
        split
        extract_lets +onlyGivenNames v108
        clear_value v108
        extract_lets +onlyGivenNames v107
        have kv107 : Keeps s0 v107 := by
          subst v107
          refine Keeps.mk_same ?_ rfl rfl rfl rfl rfl rfl rfl rfl rfl rfl rfl rfl rfl
          with_reducible assumption
        clear_value v107
        extract_lets +onlyGivenNames v106
        have kv106 : Keeps s0 v106 := by
          subst v106
          apply poseFlag_keeps
          apply tfuEvent_keeps
          apply setCov_keeps
          with_reducible assumption
        clear_value v106
        apply report_keeps
        apply Keeps.ite
        · apply setMode_keeps
          with_reducible assumption
        · with_reducible assumption

theorem execTfuReset_keeps {s0 : State} : ∀ s1, Keeps s0 s1 → KeepsOut s0 (execTfuReset s1) := by
  intro s1 h0
  unfold execTfuReset
  apply tfuWork_keeps
  · intro _ _
    intro _
    apply resetJob_keeps
    assumption
  · assumption

theorem motionJob_keeps {s0 : State} : ∀ s1 x1, Keeps s0 s1 → Keeps s0 (motionJob s1 x1) := by
  intro s1 x1 h0
  unfold motionJob
  extract_lets +onlyGivenNames v120
  clear_value v120
  extract_lets +onlyGivenNames v119
  clear_value v119
  extract_lets +onlyGivenNames v118
  clear_value v118
  extract_lets +onlyGivenNames v117
  clear_value v117
  extract_lets +onlyGivenNames v116
  clear_value v116
  extract_lets +onlyGivenNames v115
  clear_value v115
  split
  · apply tfuRefuse_keeps
    with_reducible assumption
  · extract_lets +onlyGivenNames v113
    clear_value v113
    extract_lets +onlyGivenNames v112
    clear_value v112
    apply Keeps.ite
    · apply report_keeps
      with_reducible assumption
    · extract_lets +onlyGivenNames v110
      clear_value v110
      extract_lets +onlyGivenNames v109
      clear_value v109
      apply jobIo_keeps
      · with_reducible assumption
      · intro _ _
        apply report_keeps
        with_reducible assumption
      · intro _ _
        extract_lets +onlyGivenNames v105
        clear_value v105
        extract_lets +onlyGivenNames v104
        clear_value v104
        extract_lets +onlyGivenNames v103
        clear_value v103
        extract_lets +onlyGivenNames v102
        clear_value v102
        extract_lets +onlyGivenNames v101
        clear_value v101
        split
        · apply report_keeps
          with_reducible assumption
        · extract_lets +onlyGivenNames v99
          clear_value v99
          extract_lets +onlyGivenNames v98
          have kv98 : Keeps s0 v98 := by
            subst v98
            apply jobStore_keeps
            with_reducible assumption
          clear_value v98
          apply report_keeps
          with_reducible assumption

theorem execMotion_keeps {s0 : State} : ∀ s1, Keeps s0 s1 → KeepsOut s0 (execMotion s1) := by
  intro s1 h0
  unfold execMotion
  apply tfuWork_keeps
  · intro _ _
    intro _
    apply motionJob_keeps
    assumption
  · assumption

theorem predictAll_keeps {s0 : State} : ∀ s1 x1, Keeps s0 s1 → Keeps s0 (predictAll s1 x1) := by
  intro s1 x1 h0
  unfold predictAll
  apply Keeps.foldl
  · with_reducible assumption
  · intro _ _
    intro _
    split
    · apply Keeps.ite
      · split
        apply objSat_keeps
        apply setObj_keeps
        with_reducible assumption
      · with_reducible assumption
    · with_reducible assumption

theorem reportJob_keeps {s0 : State} : ∀ s1 x1, Keeps s0 s1 → Keeps s0 (reportJob s1 x1) := by
  intro s1 x1 h0
  unfold reportJob
  extract_lets +onlyGivenNames v120
  clear_value v120
  extract_lets +onlyGivenNames v119
  clear_value v119
  split
  · apply tfuRefuse_keeps
    with_reducible assumption
  · apply jobIo_keeps
    · with_reducible assumption
    · intro _ _
      apply report_keeps
      with_reducible assumption
    · intro _ _
      extract_lets +onlyGivenNames v114
      clear_value v114
      extract_lets +onlyGivenNames v113
      have kv113 : Keeps s0 v113 := by
        subst v113
        apply predictAll_keeps
        with_reducible assumption
      clear_value v113
      extract_lets +onlyGivenNames v112
      clear_value v112
      extract_lets +onlyGivenNames v111
      clear_value v111
      extract_lets +onlyGivenNames v110
      clear_value v110
      apply report_keeps
      apply jobStore_keeps
      with_reducible assumption

theorem execReport_keeps {s0 : State} : ∀ s1, Keeps s0 s1 → KeepsOut s0 (execReport s1) := by
  intro s1 h0
  unfold execReport
  apply tfuWork_keeps
  · intro _ _
    intro _
    apply reportJob_keeps
    assumption
  · assumption

theorem egoClear_keeps {s0 : State} : ∀ s1, Keeps s0 s1 → Keeps s0 (egoClear s1) := by
  intro s1 h0
  unfold egoClear
  extract_lets +onlyGivenNames v120
  clear_value v120
  extract_lets +onlyGivenNames v119
  clear_value v119
  extract_lets +onlyGivenNames v118
  have kv118 : Keeps s0 v118 := by
    subst v118
    refine Keeps.mk_same ?_ rfl rfl rfl rfl rfl rfl rfl rfl rfl rfl rfl rfl rfl
    with_reducible assumption
  clear_value v118
  extract_lets +onlyGivenNames v117
  have kv117 : Keeps s0 v117 := by
    subst v117
    apply Keeps.foldl
    · with_reducible assumption
    · intro _ _
      intro _
      apply wr_keeps
      with_reducible assumption
  clear_value v117
  apply wf_keeps
  apply setMode_keeps
  with_reducible assumption

theorem execTfuEgoCfgWrite_keeps {s0 : State} : ∀ x0 s2, Keeps s0 s2 → KeepsOut s0 (execTfuEgoCfgWrite x0 s2) := by
  intro x0 s2 h0
  unfold execTfuEgoCfgWrite
  apply fabric_keeps
  · assumption
  · intro _ _
    extract_lets +onlyGivenNames v197
    clear_value v197
    extract_lets +onlyGivenNames v196
    clear_value v196
    apply Keeps.ite
    · apply Keeps.ite
      · apply tfuErr_keeps
        assumption
      · apply wr_keeps
        assumption
    · apply Keeps.ite
      · apply wr_keeps
        assumption
      · apply Keeps.ite
        · apply egoClear_keeps
          apply wr_keeps
          assumption
        · apply tfuErr_keeps
          apply wr_keeps
          assumption

end Sys2Proof.Machine
end

