-- ==== Sys2Proof/Laws/KeepsSolver.lean ====
section
/-! SUPPORT. What the functions of Machine/Solver.lean keep: the queue of commands, the straps, the fuses and the canonical forms. -/

namespace Sys2Proof.Machine

theorem setLse_keeps {s0 : State} : ∀ s1 x1, Keeps s0 s1 → Keeps s0 (setLse s1 x1) := by
  intro s1 x1 h0
  unfold setLse
  refine Keeps.mk_same ?_ rfl rfl rfl rfl rfl rfl rfl rfl rfl rfl rfl rfl rfl
  assumption

theorem syncSched_keeps {s0 : State} : ∀ s1, Keeps s0 s1 → Keeps s0 (syncSched s1) := by
  intro s1 h0
  unfold syncSched
  extract_lets +onlyGivenNames v120
  clear_value v120
  extract_lets +onlyGivenNames v119
  have kv119 : ∀ z0 z1 z2 z3 z4 z5, Keeps s0 (v119 z0 z1 z2 z3 z4 z5) := by
    subst v119
    intro _ _
    intro _ _
    intro _ _
    beta_reduce
    extract_lets +onlyGivenNames v111
    have kv111 : Keeps s0 v111 := by
      subst v111
      apply wr_keeps
      apply wr_keeps
      assumption
    clear_value v111
    extract_lets +onlyGivenNames v110
    have kv110 : Keeps s0 v110 := by
      subst v110
      apply wr_keeps
      apply wr_keeps
      assumption
    clear_value v110
    extract_lets +onlyGivenNames v109
    have kv109 : Keeps s0 v109 := by
      subst v109
      apply wr_keeps
      assumption
    clear_value v109
    apply wr_keeps
    assumption
  clear_value v119
  split
  · apply kv119
  · extract_lets +onlyGivenNames v117
    clear_value v117
    split
    · apply kv119
    · apply kv119

theorem setSched_keeps {s0 : State} : ∀ s1 x1 x2, Keeps s0 s1 → Keeps s0 (setSched s1 x1 x2) := by
  intro s1 x1 x2 h0
  unfold setSched
  apply syncSched_keeps
  apply setLse_keeps
  assumption

theorem execLseSchedHashLoRead_keeps {s0 : State} : ∀ s1, Keeps s0 s1 → KeepsOut s0 (execLseSchedHashLoRead s1) := by
  intro s1 h0
  unfold execLseSchedHashLoRead
  apply fabric_keeps
  · assumption
  · intro _ _
    apply capture_keeps
    assumption

theorem lseErr_keeps {s0 : State} : ∀ s1 x1 x2 x3 x4, Keeps s0 s1 → Keeps s0 (lseErr s1 x1 x2 x3 x4) := by
  intro s1 x1 x2 x3 x4 h0
  unfold lseErr
  extract_lets +onlyGivenNames v200
  have kv200 : Keeps s0 v200 := by
    subst v200
    apply Keeps.ite
    · apply wr_keeps
      assumption
    · assumption
  clear_value v200
  apply errInfo_keeps
  assumption

theorem syncLse_keeps {s0 : State} : ∀ s1, Keeps s0 s1 → Keeps s0 (syncLse s1) := by
  intro s1 h0
  unfold syncLse
  extract_lets +onlyGivenNames v200
  clear_value v200
  extract_lets +onlyGivenNames v199
  clear_value v199
  apply wr_keeps
  apply wr_keeps
  assumption

theorem syncAll_keeps {s0 : State} : ∀ s1 x1, Keeps s0 s1 → Keeps s0 (syncAll s1 x1) := by
  intro s1 x1 h0
  unfold syncAll
  apply Keeps.foldl
  · assumption
  · intro _ _
    intro _
    apply wf_keeps
    assumption

theorem syncLast_keeps {s0 : State} : ∀ s1 x1, Keeps s0 s1 → Keeps s0 (syncLast s1 x1) := by
  intro s1 x1 h0
  unfold syncLast
  apply Keeps.foldl
  · assumption
  · intro _ _
    intro _
    apply wf_keeps
    assumption

theorem lseWork_keeps {s0 : State} : ∀ x0 f1 s3, (∀ t y1, Keeps s0 t → Keeps s0 (f1 t y1)) → Keeps s0 s3 → KeepsOut s0 (lseWork x0 f1 s3) := by
  intro x0 f1 s3 h0 h1
  unfold lseWork
  apply fabric_keeps
  · assumption
  · intro _ _
    split
    · assumption
    · extract_lets +onlyGivenNames v116
      clear_value v116
      extract_lets +onlyGivenNames v115
      have kv115 : Keeps s0 v115 := by
        subst v115
        apply setStarted_keeps
        assumption
      clear_value v115
      apply Keeps.ite
      · apply h0
        assumption
      · apply Keeps.ite
        · assumption
        · apply report_keeps
          apply lseErr_keeps
          assumption

theorem calrefSkip_keeps {s0 : State} : ∀ s1, Keeps s0 s1 → Keeps s0 (calrefSkip s1) := by
  intro s1 h0
  unfold calrefSkip
  apply tfuEvent_keeps
  apply bump_keeps
  assumption

theorem calrefRefine_keeps {s0 : State} : ∀ s1 x1 x2 x3, Keeps s0 s1 → Keeps s0 (calrefRefine s1 x1 x2 x3) := by
  intro s1 x1 x2 x3 h0
  unfold calrefRefine
  extract_lets +onlyGivenNames v120
  clear_value v120
  extract_lets +onlyGivenNames v119
  clear_value v119
  split
  · extract_lets +onlyGivenNames v117
    clear_value v117
    apply Keeps.ite
    · with_reducible assumption
    · apply Keeps.ite
      · apply calrefSkip_keeps
        with_reducible assumption
      · extract_lets +onlyGivenNames v114
        clear_value v114
        extract_lets +onlyGivenNames v113
        clear_value v113
        split
        extract_lets +onlyGivenNames v111
        have kv111 : Keeps s0 v111 := by
          subst v111
          apply stBytes_keeps
          with_reducible assumption
        clear_value v111
        extract_lets +onlyGivenNames v110
        have kv110 : Keeps s0 v110 := by
          subst v110
          apply wr_keeps
          apply wr_keeps
          with_reducible assumption
        clear_value v110
        extract_lets +onlyGivenNames v109
        have kv109 : Keeps s0 v109 := by
          subst v109
          apply setBits_keeps
          with_reducible assumption
        clear_value v109
        apply Keeps.ite
        · apply tfuEvent_keeps
          apply bump_keeps
          with_reducible assumption
        · with_reducible assumption
  · with_reducible assumption

theorem countEnding_keeps {s0 : State} : ∀ s1 x1, Keeps s0 s1 → Keeps s0 (countEnding s1 x1) := by
  intro s1 x1 h0
  unfold countEnding
  extract_lets +onlyGivenNames v120
  have kv120 : ∀ z0 z1, Keeps s0 z1 → Keeps s0 (v120 z0 z1) := by
    subst v120
    intro _ _
    intro _
    beta_reduce
    apply setBits_keeps
    assumption
  clear_value v120
  extract_lets +onlyGivenNames v119
  have kv119 : Keeps s0 v119 := by
    subst v119
    apply bumpWrap_keeps
    assumption
  clear_value v119
  extract_lets +onlyGivenNames v118
  have kv118 : Keeps s0 v118 := by
    subst v118
    apply Keeps.ite
    · apply kv120
      apply bump_keeps
      assumption
    · assumption
  clear_value v118
  extract_lets +onlyGivenNames v117
  have kv117 : Keeps s0 v117 := by
    subst v117
    apply Keeps.ite
    · apply kv120
      apply bump_keeps
      assumption
    · assumption
  clear_value v117
  extract_lets +onlyGivenNames v116
  have kv116 : Keeps s0 v116 := by
    subst v116
    apply Keeps.ite
    · apply kv120
      assumption
    · assumption
  clear_value v116
  extract_lets +onlyGivenNames v115
  have kv115 : Keeps s0 v115 := by
    subst v115
    apply Keeps.ite
    · apply setBits_keeps
      apply bump_keeps
      assumption
    · assumption
  clear_value v115
  extract_lets +onlyGivenNames v114
  have kv114 : Keeps s0 v114 := by
    subst v114
    apply Keeps.ite
    · apply bump_keeps
      assumption
    · assumption
  clear_value v114
  extract_lets +onlyGivenNames v113
  have kv113 : Keeps s0 v113 := by
    subst v113
    apply wr_keeps
    assumption
  clear_value v113
  extract_lets +onlyGivenNames v112
  have kv112 : Keeps s0 v112 := by
    subst v112
    split
    · apply wr_keeps
      assumption
    · assumption
  clear_value v112
  apply syncLast_keeps
  assumption

theorem endSolve_keeps {s0 : State} : ∀ s1 x1 x2, Keeps s0 s1 → Keeps s0 (endSolve s1 x1 x2) := by
  intro s1 x1 x2 h0
  unfold endSolve
  extract_lets +onlyGivenNames v120
  clear_value v120
  extract_lets +onlyGivenNames v119
  have kv119 : Keeps s0 v119 := by
    subst v119
    apply setLse_keeps
    with_reducible assumption
  clear_value v119
  extract_lets +onlyGivenNames v118
  clear_value v118
  extract_lets +onlyGivenNames v117
  have kv117 : Keeps s0 v117 := by
    subst v117
    apply jobStore_keeps
    with_reducible assumption
  clear_value v117
  extract_lets +onlyGivenNames v116
  have kv116 : Keeps s0 v116 := by
    subst v116
    apply finish_keeps
    apply countEnding_keeps
    with_reducible assumption
  clear_value v116
  extract_lets +onlyGivenNames v115
  have kv115 : Keeps s0 v115 := by
    subst v115
    apply Keeps.ite
    · apply calrefRefine_keeps
      with_reducible assumption
    · with_reducible assumption
  clear_value v115
  apply syncLse_keeps
  with_reducible assumption

theorem refuseSolve_keeps {s0 : State} : ∀ s1 x1 x2 x3 x4 x5, Keeps s0 s1 → Keeps s0 (refuseSolve s1 x1 x2 x3 x4 x5) := by
  intro s1 x1 x2 x3 x4 x5 h0
  unfold refuseSolve
  extract_lets +onlyGivenNames v120
  clear_value v120
  extract_lets +onlyGivenNames v119
  have kv119 : Keeps s0 v119 := by
    subst v119
    apply setLse_keeps
    with_reducible assumption
  clear_value v119
  extract_lets +onlyGivenNames v118
  have kv118 : Keeps s0 v118 := by
    subst v118
    apply Keeps.ite
    · apply jobStore_keeps
      with_reducible assumption
    · with_reducible assumption
  clear_value v118
  extract_lets +onlyGivenNames v117
  clear_value v117
  apply syncLse_keeps
  apply finish_keeps
  apply countEnding_keeps
  apply lseErr_keeps
  with_reducible assumption

theorem execSolve_keeps {s0 : State} : ∀ s1, Keeps s0 s1 → KeepsOut s0 (execSolve s1) := by
  intro s1 h0
  unfold execSolve
  apply lseWork_keeps
  · intro _ _
    intro _
    split
    · apply setStarted_keeps
      assumption
    · apply setLse_keeps
      assumption
  · assumption

theorem countWarm_keeps {s0 : State} : ∀ s1 x1 x2, Keeps s0 s1 → Keeps s0 (countWarm s1 x1 x2) := by
  intro s1 x1 x2 h0
  unfold countWarm
  extract_lets +onlyGivenNames v200
  have kv200 : Keeps s0 v200 := by
    subst v200
    apply wr_keeps
    assumption
  clear_value v200
  extract_lets +onlyGivenNames v199
  have kv199 : Keeps s0 v199 := by
    subst v199
    apply Keeps.ite
    · apply bump_keeps
      assumption
    · assumption
  clear_value v199
  apply Keeps.ite
  · apply setBits_keeps
    apply bump_keeps
    assumption
  · assumption

theorem satEvent_keeps {s0 : State} : ∀ s1 x1, Keeps s0 s1 → Keeps s0 (satEvent s1 x1) := by
  intro s1 x1 h0
  unfold satEvent
  apply setBits_keeps
  assumption

theorem countSkips_keeps {s0 : State} : ∀ s1 x1, Keeps s0 s1 → Keeps s0 (countSkips s1 x1) := by
  intro s1 x1 h0
  unfold countSkips
  extract_lets +onlyGivenNames v200
  clear_value v200
  extract_lets +onlyGivenNames v199
  clear_value v199
  extract_lets +onlyGivenNames v198
  have kv198 : Keeps s0 v198 := by
    subst v198
    apply bumpN_keeps
    apply bumpN_keeps
    assumption
  clear_value v198
  apply Keeps.ite
  · assumption
  · apply setBits_keeps
    assumption

theorem acceptChecked_keeps {s0 : State} : ∀ s1 x1 x2 x3, Keeps s0 s1 → Keeps s0 (acceptChecked s1 x1 x2 x3) := by
  intro s1 x1 x2 x3 h0
  unfold acceptChecked
  extract_lets +onlyGivenNames v200
  clear_value v200
  split
  · apply refuseSolve_keeps
    assumption
  · extract_lets +onlyGivenNames v198
    clear_value v198
    extract_lets +onlyGivenNames v197
    clear_value v197
    extract_lets +onlyGivenNames v196
    clear_value v196
    extract_lets +onlyGivenNames v195
    clear_value v195
    extract_lets +onlyGivenNames v194
    have kv194 : Keeps s0 v194 := by
      subst v194
      apply wr_keeps
      assumption
    clear_value v194
    extract_lets +onlyGivenNames v193
    clear_value v193
    apply Keeps.ite
    · apply endSolve_keeps
      assumption
    · apply Keeps.ite
      · apply endSolve_keeps
        assumption
      · apply Keeps.ite
        · apply endSolve_keeps
          assumption
        · split
          extract_lets +onlyGivenNames v188
          have kv188 : Keeps s0 v188 := by
            subst v188
            apply countSkips_keeps
            apply countWarm_keeps
            assumption
          clear_value v188
          extract_lets +onlyGivenNames v187
          clear_value v187
          extract_lets +onlyGivenNames v186
          clear_value v186
          split
          extract_lets +onlyGivenNames v184
          clear_value v184
          extract_lets +onlyGivenNames v183
          clear_value v183
          split
          · apply endSolve_keeps
            refine Keeps.of_snd (by assumption) ?_
            apply assemble_keeps
            assumption
          · apply endSolve_keeps
            apply satEvent_keeps
            apply syncAll_keeps
            refine Keeps.of_snd (by assumption) ?_
            apply assemble_keeps
            assumption
          · extract_lets +onlyGivenNames v181
            clear_value v181
            apply syncLse_keeps
            apply setLse_keeps
            apply syncAll_keeps
            refine Keeps.of_snd (by assumption) ?_
            apply assemble_keeps
            assumption

theorem execSolveAccept_keeps {s0 : State} : ∀ s1, Keeps s0 s1 → KeepsOut s0 (execSolveAccept s1) := by
  intro s1 h0
  unfold execSolveAccept
  apply fabric_keeps
  · with_reducible assumption
  · intro _ _
    split
    · apply Keeps.ite
      · with_reducible assumption
      · extract_lets +onlyGivenNames v115
        clear_value v115
        split
        · apply jobIo_keeps
          · with_reducible assumption
          · intro _ _
            apply endSolve_keeps
            with_reducible assumption
          · intro _ _
            apply acceptChecked_keeps
            with_reducible assumption
        · apply refuseSolve_keeps
          with_reducible assumption
        · apply refuseSolve_keeps
          with_reducible assumption
    · with_reducible assumption

theorem fuEvents_keeps {s0 : State} : ∀ s1 x1, Keeps s0 s1 → Keeps s0 (fuEvents s1 x1) := by
  intro s1 x1 h0
  unfold fuEvents
  apply Keeps.foldl
  · assumption
  · intro _ _
    intro _
    split
    · apply rescaleEvent_keeps
      assumption
    · apply wr_keeps
      apply setBits_keeps
      apply bump_keeps
      assumption

theorem drawBelow_keeps {s0 : State} : ∀ s1 x1, Keeps s0 s1 → Keeps s0 (drawBelow s1 x1).2 := by
  intro s1 x1 h0
  unfold drawBelow
  split
  dsimp only
  refine Keeps.of_snd (by assumption) ?_
  apply drawNat_keeps
  assumption

theorem stopAtCheck_keeps {s0 : State} : ∀ s1 x1 x2, Keeps s0 s1 → Keeps s0 (stopAtCheck s1 x1 x2) := by
  intro s1 x1 x2 h0
  unfold stopAtCheck
  extract_lets +onlyGivenNames v120
  clear_value v120
  extract_lets +onlyGivenNames v119
  clear_value v119
  extract_lets +onlyGivenNames v118
  clear_value v118
  split
  extract_lets +onlyGivenNames v116
  clear_value v116
  extract_lets +onlyGivenNames v115
  clear_value v115
  extract_lets +onlyGivenNames v114
  have kv114 : Keeps s0 v114 := by
    subst v114
    apply fuEvents_keeps
    refine Keeps.of_snd (by assumption) ?_
    apply drawBelow_keeps
    with_reducible assumption
  clear_value v114
  split
  · apply endSolve_keeps
    apply satEvent_keeps
    with_reducible assumption
  · extract_lets +onlyGivenNames v112
    clear_value v112
    apply Keeps.ite
    · apply endSolve_keeps
      apply syncAll_keeps
      with_reducible assumption
    · split
      split
      · apply endSolve_keeps
        apply satEvent_keeps
        refine Keeps.of_snd (by assumption) ?_
        apply drawBelow_keeps
        with_reducible assumption
      · apply Keeps.ite
        · apply endSolve_keeps
          apply syncAll_keeps
          refine Keeps.of_snd (by assumption) ?_
          apply drawBelow_keeps
          with_reducible assumption
        · extract_lets +onlyGivenNames v107
          clear_value v107
          extract_lets +onlyGivenNames v106
          clear_value v106
          extract_lets +onlyGivenNames v105
          have kv105 : Keeps s0 v105 := by
            subst v105
            apply bumpN_keeps
            apply bumpN_keeps
            refine Keeps.of_snd (by assumption) ?_
            apply drawBelow_keeps
            with_reducible assumption
          clear_value v105
          apply endSolve_keeps
          apply syncAll_keeps
          with_reducible assumption

theorem iterationTests_keeps {s0 : State} : ∀ s1 x1 x2, Keeps s0 s1 → Keeps s0 (iterationTests s1 x1 x2) := by
  intro s1 x1 x2 h0
  unfold iterationTests
  extract_lets +onlyGivenNames v120
  clear_value v120
  extract_lets +onlyGivenNames v119
  have kv119 : ∀ z0, Keeps s0 (v119 z0) := by
    subst v119
    intro _
    beta_reduce
    apply endSolve_keeps
    assumption
  clear_value v119
  apply Keeps.ite
  · apply kv119
  · apply Keeps.ite
    · apply kv119
    · apply Keeps.ite
      · apply endSolve_keeps
        assumption
      · apply syncLse_keeps
        apply setLse_keeps
        assumption

theorem iterate_keeps {s0 : State} : ∀ s1 x1, Keeps s0 s1 → Keeps s0 (iterate s1 x1) := by
  intro s1 x1 h0
  unfold iterate
  extract_lets +onlyGivenNames v200
  clear_value v200
  extract_lets +onlyGivenNames v199
  clear_value v199
  extract_lets +onlyGivenNames v198
  clear_value v198
  extract_lets +onlyGivenNames v197
  clear_value v197
  extract_lets +onlyGivenNames v196
  have kv196 : Keeps s0 v196 := by
    subst v196
    apply syncAll_keeps
    apply fuEvents_keeps
    assumption
  clear_value v196
  split
  · apply endSolve_keeps
    apply satEvent_keeps
    assumption
  · split
    · apply endSolve_keeps
      apply satEvent_keeps
      assumption
    · split
      extract_lets +onlyGivenNames v192
      clear_value v192
      split
      · apply endSolve_keeps
        refine Keeps.of_snd (by assumption) ?_
        apply assemble_keeps
        assumption
      · extract_lets +onlyGivenNames v190
        clear_value v190
        apply endSolve_keeps
        apply satEvent_keeps
        apply syncAll_keeps
        refine Keeps.of_snd (by assumption) ?_
        apply assemble_keeps
        assumption
      · extract_lets +onlyGivenNames v190
        clear_value v190
        extract_lets +onlyGivenNames v189
        clear_value v189
        extract_lets +onlyGivenNames v188
        clear_value v188
        extract_lets +onlyGivenNames v187
        clear_value v187
        extract_lets +onlyGivenNames v186
        have kv186 : Keeps s0 v186 := by
          subst v186
          apply wr_keeps
          apply syncAll_keeps
          refine Keeps.of_snd (by assumption) ?_
          apply assemble_keeps
          assumption
        clear_value v186
        apply iterationTests_keeps
        assumption

theorem execSolveIterationEnd_keeps {s0 : State} : ∀ s1, Keeps s0 s1 → KeepsOut s0 (execSolveIterationEnd s1) := by
  intro s1 h0
  unfold execSolveIterationEnd
  apply fabric_keeps
  · with_reducible assumption
  · intro _ _
    split
    · with_reducible assumption
    · extract_lets +onlyGivenNames v116
      clear_value v116
      apply Keeps.ite
      · apply stopAtCheck_keeps
        with_reducible assumption
      · apply jobIo_keeps
        · with_reducible assumption
        · intro _ _
          apply endSolve_keeps
          with_reducible assumption
        · intro _ _
          apply iterate_keeps
          with_reducible assumption

theorem execSolveDeadlineMiss_keeps {s0 : State} : ∀ s1, Keeps s0 s1 → KeepsOut s0 (execSolveDeadlineMiss s1) := by
  intro s1 h0
  unfold execSolveDeadlineMiss
  apply fabric_keeps
  · assumption
  · intro _ _
    split
    · assumption
    · split
      · assumption
      · apply Keeps.ite
        · apply stopAtCheck_keeps
          assumption
        · assumption

theorem solveFault_keeps {s0 : State} : ∀ s1, Keeps s0 s1 → Keeps s0 (solveFault s1) := by
  intro s1 h0
  unfold solveFault
  extract_lets +onlyGivenNames v199
  have kv199 : Keeps s0 v199 := by
    subst v199
    split
    · apply endSolve_keeps
      assumption
    · assumption
  clear_value v199
  apply Keeps.foldl
  · apply setStarted_keeps
    assumption
  · intro _ _
    intro _
    apply report_keeps
    assumption

theorem solveDead_keeps {s0 : State} : ∀ s1 x1, Keeps s0 s1 → Keeps s0 (solveDead s1 x1) := by
  intro s1 x1 h0
  unfold solveDead
  apply Keeps.ite
  · apply endSolve_keeps
    assumption
  · apply report_keeps
    assumption

theorem preintJob_keeps {s0 : State} : ∀ s1 x1, Keeps s0 s1 → Keeps s0 (preintJob s1 x1) := by
  intro s1 x1 h0
  unfold preintJob
  extract_lets +onlyGivenNames v120
  clear_value v120
  extract_lets +onlyGivenNames v119
  clear_value v119
  extract_lets +onlyGivenNames v118
  have kv118 : Keeps s0 v118 := by
    subst v118
    apply bumpWrap_keeps
    with_reducible assumption
  clear_value v118
  split
  · apply report_keeps
    apply lseErr_keeps
    with_reducible assumption
  · extract_lets +onlyGivenNames v116
    clear_value v116
    extract_lets +onlyGivenNames v115
    clear_value v115
    extract_lets +onlyGivenNames v114
    clear_value v114
    extract_lets +onlyGivenNames v113
    clear_value v113
    extract_lets +onlyGivenNames v112
    clear_value v112
    extract_lets +onlyGivenNames v111
    clear_value v111
    apply jobIo_keeps
    · with_reducible assumption
    · intro _ _
      apply report_keeps
      with_reducible assumption
    · intro _ _
      apply Keeps.ite
      · apply report_keeps
        apply jobStore_keeps
        with_reducible assumption
      · apply report_keeps
        apply jobStore_keeps
        with_reducible assumption

theorem execPreint_keeps {s0 : State} : ∀ s1, Keeps s0 s1 → KeepsOut s0 (execPreint s1) := by
  intro s1 h0
  unfold execPreint
  apply lseWork_keeps
  · intro _ _
    intro _
    apply preintJob_keeps
    assumption
  · assumption

theorem buildJob_keeps {s0 : State} : ∀ s1 x1, Keeps s0 s1 → Keeps s0 (buildJob s1 x1) := by
  intro s1 x1 h0
  unfold buildJob
  extract_lets +onlyGivenNames v120
  clear_value v120
  extract_lets +onlyGivenNames v119
  clear_value v119
  extract_lets +onlyGivenNames v118
  clear_value v118
  extract_lets +onlyGivenNames v117
  have kv117 : ∀ z0 z1 z2, Keeps s0 (v117 z0 z1 z2) := by
    subst v117
    intro _ _
    intro _
    beta_reduce
    apply report_keeps
    apply lseErr_keeps
    with_reducible assumption
  clear_value v117
  split
  · apply kv117
  · split
    · apply kv117
    · apply jobIo_keeps
      · with_reducible assumption
      · intro _ _
        apply report_keeps
        with_reducible assumption
      · intro _ _
        split
        · apply kv117
        · extract_lets +onlyGivenNames v110
          clear_value v110
          apply Keeps.ite
          · apply kv117
          · apply Keeps.ite
            · apply kv117
            · apply Keeps.ite
              · apply kv117
              · extract_lets +onlyGivenNames v106
                have kv106 : Keeps s0 v106 := by
                  subst v106
                  apply setSched_keeps
                  with_reducible assumption
                clear_value v106
                apply syncLse_keeps
                apply setLse_keeps
                with_reducible assumption

theorem execBuild_keeps {s0 : State} : ∀ s1, Keeps s0 s1 → KeepsOut s0 (execBuild s1) := by
  intro s1 h0
  unfold execBuild
  apply lseWork_keeps
  · intro _ _
    intro _
    apply buildJob_keeps
    assumption
  · assumption

theorem execBuildEnd_keeps {s0 : State} : ∀ s1, Keeps s0 s1 → KeepsOut s0 (execBuildEnd s1) := by
  intro s1 h0
  unfold execBuildEnd
  apply fabric_keeps
  · assumption
  · intro _ _
    split
    · assumption
    · extract_lets +onlyGivenNames v196
      have kv196 : Keeps s0 v196 := by
        subst v196
        apply setLse_keeps
        assumption
      clear_value v196
      split
      · apply syncLse_keeps
        apply report_keeps
        assumption
      · extract_lets +onlyGivenNames v194
        clear_value v194
        extract_lets +onlyGivenNames v193
        have kv193 : Keeps s0 v193 := by
          subst v193
          apply setSched_keeps
          assumption
        clear_value v193
        apply syncLse_keeps
        apply report_keeps
        apply setBits_keeps
        apply bumpWrap_keeps
        assumption

theorem failBuilds_keeps {s0 : State} : ∀ s1, Keeps s0 s1 → Keeps s0 (failBuilds s1) := by
  intro s1 h0
  unfold failBuilds
  extract_lets +onlyGivenNames v200
  have kv200 : Keeps s0 v200 := by
    subst v200
    apply Keeps.foldl
    · assumption
    · intro _ _
      intro _
      extract_lets +onlyGivenNames v195
      have kv195 : Keeps s0 v195 := by
        subst v195
        split
        · apply setSched_keeps
          assumption
        · assumption
      clear_value v195
      apply report_keeps
      assumption
  clear_value v200
  apply syncLse_keeps
  apply setLse_keeps
  assumption

end Sys2Proof.Machine
end

