-- ==== Sys2Proof/Laws/KeepsGates.lean ====
section
/-! SUPPORT. What the functions of Machine/Gates.lean keep: the queue of commands, the straps, the fuses and the canonical forms. -/

namespace Sys2Proof.Machine

theorem setSg_keeps {s0 : State} : ∀ s1 x1, Keeps s0 s1 → Keeps s0 (setSg s1 x1) := by
  intro s1 x1 h0
  unfold setSg
  refine Keeps.mk_same ?_ rfl rfl rfl rfl rfl rfl rfl rfl rfl rfl rfl rfl rfl
  assumption

theorem releaseGate_keeps {s0 : State} : ∀ s1 x1 x2, Keeps s0 s1 → Keeps s0 (releaseGate s1 x1 x2) := by
  intro s1 x1 x2 h0
  unfold releaseGate
  refine Keeps.mk_same ?_ rfl rfl rfl rfl rfl rfl rfl rfl rfl rfl rfl rfl rfl
  assumption

theorem disarmGate_keeps {s0 : State} : ∀ s1 x1, Keeps s0 s1 → Keeps s0 (disarmGate s1 x1) := by
  intro s1 x1 h0
  unfold disarmGate
  extract_lets +onlyGivenNames v200
  have kv200 : Keeps s0 v200 := by
    subst v200
    apply setSg_keeps
    assumption
  clear_value v200
  apply releaseGate_keeps
  apply wf_keeps
  assumption

theorem armGate_keeps {s0 : State} : ∀ s1 x1, Keeps s0 s1 → Keeps s0 (armGate s1 x1).1 := by
  intro s1 x1 h0
  unfold armGate
  split
  · dsimp only
    apply wf_keeps
    apply setSg_keeps
    assumption
  · dsimp only
    apply sgErr_keeps
    assumption
  · dsimp only
    apply sgErr_keeps
    assumption

theorem ctrlWrite_keeps {s0 : State} : ∀ s1 x1 x2, Keeps s0 s1 → Keeps s0 (ctrlWrite s1 x1 x2) := by
  intro s1 x1 x2 h0
  unfold ctrlWrite
  extract_lets +onlyGivenNames v200
  have kv200 : Keeps s0 v200 := by
    subst v200
    apply wr_keeps
    assumption
  clear_value v200
  apply Keeps.ite
  · apply armGate_keeps
    assumption
  · assumption

theorem stampTrig_keeps {s0 : State} : ∀ s1 x1 x2, Keeps s0 s1 → Keeps s0 (stampTrig s1 x1 x2) := by
  intro s1 x1 x2 h0
  unfold stampTrig
  apply wr_keeps
  apply wr_keeps
  apply setSg_keeps
  assumption

theorem startPulse_keeps {s0 : State} : ∀ s1 x1 x2 x3, Keeps s0 s1 → Keeps s0 (startPulse s1 x1 x2 x3) := by
  intro s1 x1 x2 x3 h0
  unfold startPulse
  apply Keeps.ite
  · assumption
  · extract_lets +onlyGivenNames v199
    clear_value v199
    extract_lets +onlyGivenNames v198
    clear_value v198
    extract_lets +onlyGivenNames v197
    have kv197 : Keeps s0 v197 := by
      subst v197
      apply setSg_keeps
      assumption
    clear_value v197
    apply Keeps.ite
    · apply bump_keeps
      assumption
    · apply stampTrig_keeps
      assumption

theorem execTrigPulseEnd_keeps {s0 : State} : ∀ x0 s2, Keeps s0 s2 → KeepsOut s0 (execTrigPulseEnd x0 s2) := by
  intro x0 s2 h0
  unfold execTrigPulseEnd
  apply fabric_keeps
  · assumption
  · intro _ _
    extract_lets +onlyGivenNames v197
    clear_value v197
    apply Keeps.ite
    · apply setSg_keeps
      assumption
    · assumption

theorem execTrigInputEdge_keeps {s0 : State} : ∀ x0 x1 s3, Keeps s0 s3 → KeepsOut s0 (execTrigInputEdge x0 x1 s3) := by
  intro x0 x1 s3 h0
  unfold execTrigInputEdge
  apply fabric_keeps
  · assumption
  · intro _ _
    apply Keeps.ite
    · apply raiseEdge_keeps
      apply stampTrig_keeps
      assumption
    · assumption

theorem execSgTrigStampLoRead_keeps {s0 : State} : ∀ x0 s2, Keeps s0 s2 → KeepsOut s0 (execSgTrigStampLoRead x0 s2) := by
  intro x0 s2 h0
  unfold execSgTrigStampLoRead
  apply fabric_keeps
  · assumption
  · intro _ _
    apply capture_keeps
    assumption

theorem execSgFireLoRead_keeps {s0 : State} : ∀ x0 s2, Keeps s0 s2 → KeepsOut s0 (execSgFireLoRead x0 s2) := by
  intro x0 s2 h0
  unfold execSgFireLoRead
  apply fabric_keeps
  · assumption
  · intro _ _
    extract_lets +onlyGivenNames v197
    have kv197 : Keeps s0 v197 := by
      subst v197
      apply capture_keeps
      assumption
    clear_value v197
    refine Keeps.mk_same ?_ rfl rfl rfl rfl rfl rfl rfl rfl rfl rfl rfl rfl rfl
    assumption

theorem execGateDue_keeps {s0 : State} : ∀ x0 s2, Keeps s0 s2 → KeepsOut s0 (execGateDue x0 s2) := by
  intro x0 s2 h0
  unfold execGateDue
  apply fabric_keeps
  · assumption
  · intro _ _
    apply Keeps.ite
    · apply setSg_keeps
      assumption
    · assumption

theorem gateAct_keeps {s0 : State} : ∀ s1 x1, Keeps s0 s1 → Keeps s0 (gateAct s1 x1).1 := by
  intro s1 x1 h0
  unfold gateAct
  extract_lets +onlyGivenNames v120
  clear_value v120
  extract_lets +onlyGivenNames v119
  clear_value v119
  split
  · apply launchByGate_keeps
    with_reducible assumption
  · dsimp only
    apply semAddOp_keeps
    with_reducible assumption
  · dsimp only
    apply startPulse_keeps
    with_reducible assumption
  · apply startGateCopy_keeps
    with_reducible assumption
  · split
    · with_reducible assumption
    · split
      · with_reducible assumption
      · dsimp only
        apply joinQueue_keeps
        with_reducible assumption

theorem advanceGate_keeps {s0 : State} : ∀ s1 x1 x2, Keeps s0 s1 → Keeps s0 (advanceGate s1 x1 x2) := by
  intro s1 x1 x2 h0
  unfold advanceGate
  extract_lets +onlyGivenNames v200
  clear_value v200
  extract_lets +onlyGivenNames v199
  clear_value v199
  extract_lets +onlyGivenNames v198
  have kv198 : Keeps s0 v198 := by
    subst v198
    apply wr_keeps
    apply wr_keeps
    assumption
  clear_value v198
  extract_lets +onlyGivenNames v197
  have kv197 : Keeps s0 v197 := by
    subst v197
    apply setSg_keeps
    assumption
  clear_value v197
  apply bumpN_keeps
  apply bumpN_keeps
  assumption

theorem fireGate_keeps {s0 : State} : ∀ s1 x1, Keeps s0 s1 → Keeps s0 (fireGate s1 x1) := by
  intro s1 x1 h0
  unfold fireGate
  extract_lets +onlyGivenNames v120
  clear_value v120
  extract_lets +onlyGivenNames v119
  clear_value v119
  extract_lets +onlyGivenNames v118
  clear_value v118
  extract_lets +onlyGivenNames v117
  have kv117 : Keeps s0 v117 := by
    subst v117
    apply setSg_keeps
    assumption
  clear_value v117
  extract_lets +onlyGivenNames v116
  have kv116 : Keeps s0 v116 := by
    subst v116
    apply wf_keeps
    apply wf_keeps
    apply bumpWrap_keeps
    assumption
  clear_value v116
  extract_lets +onlyGivenNames v115
  have kv115 : Keeps s0 v115 := by
    subst v115
    apply when_keeps
    · assumption
    · intro _ _
      apply bump_keeps
      assumption
  clear_value v115
  extract_lets +onlyGivenNames v114
  have kv114 : Keeps s0 v114 := by
    subst v114
    apply when_keeps
    · assumption
    · intro _ _
      apply bump_keeps
      assumption
  clear_value v114
  split
  extract_lets +onlyGivenNames v112
  have kv112 : Keeps s0 v112 := by
    subst v112
    apply when_keeps
    · refine Keeps.of_fst (by assumption) ?_
      apply gateAct_keeps
      assumption
    · intro _ _
      apply sgErr_keeps
      assumption
  clear_value v112
  extract_lets +onlyGivenNames v111
  have kv111 : Keeps s0 v111 := by
    subst v111
    apply Keeps.ite
    · apply advanceGate_keeps
      assumption
    · apply wf_keeps
      assumption
  clear_value v111
  apply releaseGate_keeps
  assumption

theorem disarmIn_keeps {s0 : State} : ∀ s1 x1 x2, Keeps s0 s1 → Keeps s0 (disarmIn s1 x1 x2).1 := by
  intro s1 x1 x2 h0
  unfold disarmIn
  split
  · split
    · dsimp only
      apply disarmGate_keeps
      apply fireGate_keeps
      with_reducible assumption
    · dsimp only
      apply disarmGate_keeps
      with_reducible assumption
  · dsimp only
    apply disarmGate_keeps
    with_reducible assumption

theorem execGateDispatch_keeps {s0 : State} : ∀ x0 s2, Keeps s0 s2 → KeepsOut s0 (execGateDispatch x0 s2) := by
  intro x0 s2 h0
  unfold execGateDispatch
  apply fabric_keeps
  · assumption
  · intro _ _
    split
    · apply Keeps.ite
      · apply fireGate_keeps
        assumption
      · assumption
    · assumption

theorem execGateArm_keeps {s0 : State} : ∀ x0 x1 x2 s4, Keeps s0 s4 → KeepsOut s0 (execGateArm x0 x1 x2 s4) := by
  intro x0 x1 x2 s4 h0
  unfold execGateArm
  apply fabric_keeps
  · assumption
  · intro _ _
    apply Keeps.ite
    · apply sgErr_keeps
      assumption
    · apply Keeps.ite
      · apply Keeps.ite
        · apply sgErr_keeps
          assumption
        · assumption
      · apply ctrlWrite_keeps
        assumption

theorem execGateDisarm_keeps {s0 : State} : ∀ x0 x1 x2 x3 s5, Keeps s0 s5 → KeepsOut s0 (execGateDisarm x0 x1 x2 x3 s5) := by
  intro x0 x1 x2 x3 s5 h0
  unfold execGateDisarm
  apply fabric_keeps
  · with_reducible assumption
  · intro _ _
    apply Keeps.ite
    · apply sgErr_keeps
      with_reducible assumption
    · apply Keeps.ite
      · apply Keeps.ite
        · apply sgErr_keeps
          with_reducible assumption
        · apply disarmIn_keeps
          with_reducible assumption
      · apply ctrlWrite_keeps
        with_reducible assumption

theorem execGateEntryWrite_keeps {s0 : State} : ∀ x0 x1 x2 x3 s5, Keeps s0 s5 → KeepsOut s0 (execGateEntryWrite x0 x1 x2 x3 s5) := by
  intro x0 x1 x2 x3 s5 h0
  unfold execGateEntryWrite
  apply fabric_keeps
  · assumption
  · intro _ _
    apply Keeps.ite
    · apply sgErr_keeps
      assumption
    · apply Keeps.ite
      · apply sgErr_keeps
        assumption
      · apply wr_keeps
        assumption

theorem execSgRun_keeps {s0 : State} : ∀ x0 s2, Keeps s0 s2 → KeepsOut s0 (execSgRun x0 s2) := by
  intro x0 s2 h0
  unfold execSgRun
  apply fabric_keeps
  · assumption
  · intro _ _
    extract_lets +onlyGivenNames v197
    have kv197 : Keeps s0 v197 := by
      subst v197
      apply wr_keeps
      assumption
    clear_value v197
    apply Keeps.ite
    · apply passOver_keeps
      apply setSg_keeps
      assumption
    · assumption

end Sys2Proof.Machine
end

