-- ==== Sys2Proof/Laws/KeepsUnits.lean ====
section
/-! SUPPORT. What the functions of Machine/Units.lean keep: the queue of commands, the straps, the fuses and the canonical forms. -/

namespace Sys2Proof.Machine

theorem addStarted_keeps {s0 : State} : ∀ s1 x1 x2, Keeps s0 s1 → Keeps s0 (addStarted s1 x1 x2) := by
  intro s1 x1 x2 h0
  unfold addStarted
  apply setStarted_keeps
  assumption

theorem tfuStart_keeps {s0 : State} : ∀ s1 x1, Keeps s0 s1 → Keeps s0 (tfuStart s1 x1) := by
  intro s1 x1 h0
  unfold tfuStart
  extract_lets +onlyGivenNames v120
  clear_value v120
  apply addStarted_keeps
  apply setBits_keeps
  with_reducible assumption

theorem execUnitJobStart_keeps {s0 : State} : ∀ x0 s2, Keeps s0 s2 → KeepsOut s0 (execUnitJobStart x0 s2) := by
  intro x0 s2 h0
  unfold execUnitJobStart
  apply fabric_keeps
  · with_reducible assumption
  · intro _ _
    split
    · with_reducible assumption
    · apply Keeps.ite
      · with_reducible assumption
      · extract_lets +onlyGivenNames v115
        have kv115 : Keeps s0 v115 := by
          subst v115
          apply setQueue_keeps
          with_reducible assumption
        clear_value v115
        apply Keeps.ite
        · apply refuseWork_keeps
          with_reducible assumption
        · extract_lets +onlyGivenNames v113
          clear_value v113
          extract_lets +onlyGivenNames v112
          have kv112 : Keeps s0 v112 := by
            subst v112
            apply markRunning_keeps
            with_reducible assumption
          clear_value v112
          apply Keeps.ite
          · split
            · apply solveDead_keeps
              with_reducible assumption
            · apply report_keeps
              apply stampStatus_keeps
              with_reducible assumption
          · split
            · apply visStart_keeps
              with_reducible assumption
            · apply tfuStart_keeps
              with_reducible assumption
            · apply addStarted_keeps
              apply setBits_keeps
              with_reducible assumption
            · apply addStarted_keeps
              apply setBits_keeps
              with_reducible assumption
            · apply addStarted_keeps
              with_reducible assumption

end Sys2Proof.Machine
end

