-- ==== Sys2Proof/Laws/KeepsFlash.lean ====
section
/-! SUPPORT. What the functions of Machine/Flash.lean keep: the queue of commands, the straps, the fuses and the canonical forms. -/

namespace Sys2Proof.Machine

theorem setMst_keeps {s0 : State} : ∀ s1 x1, Keeps s0 s1 → Keeps s0 (setMst s1 x1) := by
  intro s1 x1 h0
  unfold setMst
  refine Keeps.mk_same ?_ rfl rfl rfl rfl rfl rfl rfl rfl rfl rfl rfl rfl rfl
  assumption

theorem setFlash_keeps {s0 : State} : ∀ s1 x1, Keeps s0 s1 → Keeps s0 (setFlash s1 x1) := by
  intro s1 x1 h0
  unfold setFlash
  apply setMst_keeps
  assumption

theorem newZone_keeps {s0 : State} : ∀ s1 x1, Keeps s0 s1 → KeepsPair s0 (newZone s1 x1) := by
  intro s1 x1 h0
  unfold newZone
  apply KeepsPair.map
  intro _ _
  extract_lets +onlyGivenNames v117
  clear_value v117
  dsimp only
  apply setFlash_keeps
  with_reducible assumption

theorem openZone_keeps {s0 : State} : ∀ s1 x1, Keeps s0 s1 → KeepsPair s0 (openZone s1 x1) := by
  intro s1 x1 h0
  unfold openZone
  split
  · split
    · apply KeepsPair.ite
      · apply KeepsPair.some
        with_reducible assumption
      · apply newZone_keeps
        with_reducible assumption
    · apply newZone_keeps
      with_reducible assumption
  · apply newZone_keeps
    with_reducible assumption

theorem writeStripe_keeps {s0 : State} : ∀ s1 x1 x2, Keeps s0 s1 → KeepsPair s0 (writeStripe s1 x1 x2) := by
  intro s1 x1 x2 h0
  unfold writeStripe
  apply KeepsPair.map
  intro _ _
  extract_lets +onlyGivenNames v117
  have kv117 : Keeps s0 v117 := by
    subst v117
    refine KeepsPair.at (by assumption) ?_
    apply openZone_keeps
    with_reducible assumption
  clear_value v117
  extract_lets +onlyGivenNames v116
  clear_value v116
  extract_lets +onlyGivenNames v115
  clear_value v115
  extract_lets +onlyGivenNames v114
  clear_value v114
  extract_lets +onlyGivenNames v113
  have kv113 : Keeps s0 v113 := by
    subst v113
    apply setFlash_keeps
    with_reducible assumption
  clear_value v113
  dsimp only
  apply Keeps.foldl
  · with_reducible assumption
  · intro _ _
    intro _
    apply bumpWrap_keeps
    with_reducible assumption

theorem newPid_keeps {s0 : State} : ∀ s1, Keeps s0 s1 → Keeps s0 (newPid s1).2 := by
  intro s1 h0
  unfold newPid
  dsimp only
  apply setFlash_keeps
  assumption

theorem answered_keeps {s0 : State} : ∀ s1 x1, Keeps s0 s1 → Keeps s0 (answered s1 x1) := by
  intro s1 x1 h0
  unfold answered
  split
  · apply setFlash_keeps
    with_reducible assumption
  · with_reducible assumption

theorem eraseZone_keeps {s0 : State} : ∀ s1 x1, Keeps s0 s1 → Keeps s0 (eraseZone s1 x1) := by
  intro s1 x1 h0
  unfold eraseZone
  split
  · assumption
  · extract_lets +onlyGivenNames v199
    have kv199 : Keeps s0 v199 := by
      subst v199
      apply setFlash_keeps
      assumption
    clear_value v199
    apply Keeps.foldl
    · assumption
    · intro _ _
      intro _
      apply bumpWrap_keeps
      assumption

theorem reclaimZones_keeps {s0 : State} : ∀ s1, Keeps s0 s1 → Keeps s0 (reclaimZones s1) := by
  intro s1 h0
  unfold reclaimZones
  extract_lets +onlyGivenNames v200
  clear_value v200
  extract_lets +onlyGivenNames v199
  have kv199 : Keeps s0 v199 := by
    subst v199
    apply setFlash_keeps
    assumption
  clear_value v199
  apply Keeps.foldl
  · assumption
  · intro _ _
    intro _
    apply Keeps.ite
    · assumption
    · apply eraseZone_keeps
      assumption

theorem syncFlash_keeps {s0 : State} : ∀ s1, Keeps s0 s1 → Keeps s0 (syncFlash s1) := by
  intro s1 h0
  unfold syncFlash
  extract_lets +onlyGivenNames v120
  clear_value v120
  extract_lets +onlyGivenNames v119
  clear_value v119
  extract_lets +onlyGivenNames v118
  clear_value v118
  extract_lets +onlyGivenNames v117
  have kv117 : Keeps s0 v117 := by
    subst v117
    apply wr_keeps
    with_reducible assumption
  clear_value v117
  extract_lets +onlyGivenNames v116
  have kv116 : Keeps s0 v116 := by
    subst v116
    apply wr_keeps
    with_reducible assumption
  clear_value v116
  extract_lets +onlyGivenNames v115
  have kv115 : Keeps s0 v115 := by
    subst v115
    apply wr_keeps
    with_reducible assumption
  clear_value v115
  extract_lets +onlyGivenNames v114
  have kv114 : Keeps s0 v114 := by
    subst v114
    apply wr_keeps
    with_reducible assumption
  clear_value v114
  extract_lets +onlyGivenNames v113
  have kv113 : Keeps s0 v113 := by
    subst v113
    apply wr_keeps
    with_reducible assumption
  clear_value v113
  apply Keeps.foldl
  · with_reducible assumption
  · intro _ _
    intro _
    apply wr_keeps
    with_reducible assumption

theorem flcEvent_keeps {s0 : State} : ∀ s1 x1 x2, Keeps s0 s1 → Keeps s0 (flcEvent s1 x1 x2) := by
  intro s1 x1 x2 h0
  unfold flcEvent
  apply setBits_keeps
  assumption

theorem mstEvent_keeps {s0 : State} : ∀ s1 x1, Keeps s0 s1 → Keeps s0 (mstEvent s1 x1) := by
  intro s1 x1 h0
  unfold mstEvent
  apply setBits_keeps
  assumption

end Sys2Proof.Machine
end

