-- ==== Sys2Proof/Laws/KeepsMapStore.lean ====
section
/-! SUPPORT. What the functions of Machine/MapStore.lean keep: the queue of commands, the straps, the fuses and the canonical forms. -/

namespace Sys2Proof.Machine

theorem dropViews_keeps {s0 : State} : ∀ s1, Keeps s0 s1 → Keeps s0 (dropViews s1) := by
  intro s1 h0
  unfold dropViews
  apply setMst_keeps
  assumption

theorem issueJournal_keeps {s0 : State} : ∀ s1, Keeps s0 s1 → KeepsOpt s0 (issueJournal s1) := by
  intro s1 h0
  unfold issueJournal
  apply KeepsOpt.ite
  · apply KeepsOpt.some
    with_reducible assumption
  · apply KeepsOpt.map
    intro _ _
    extract_lets +onlyGivenNames v116
    clear_value v116
    extract_lets +onlyGivenNames v115
    clear_value v115
    apply bump_keeps
    apply setMst_keeps
    refine KeepsPair.at (by assumption) ?_
    apply writeStripe_keeps
    with_reducible assumption

theorem newJournalPage_keeps {s0 : State} : ∀ s1 x1, Keeps s0 s1 → Keeps s0 (newJournalPage s1 x1).2 := by
  intro s1 x1 h0
  unfold newJournalPage
  split
  dsimp only
  apply setMst_keeps
  refine Keeps.of_snd (by assumption) ?_
  apply newPid_keeps
  assumption

theorem appendRecord_keeps {s0 : State} : ∀ s1 x1, Keeps s0 s1 → KeepsPair s0 (appendRecord s1 x1) := by
  intro s1 x1 h0
  unfold appendRecord
  split
  · apply KeepsPair.ite
    · apply KeepsPair.some
      dsimp only
      apply setMst_keeps
      with_reducible assumption
    · apply KeepsPair.ite
      · apply KeepsPair.some
        apply newJournalPage_keeps
        with_reducible assumption
      · apply KeepsPair.map
        intro _ _
        apply newJournalPage_keeps
        refine KeepsOpt.of (by assumption) ?_
        apply issueJournal_keeps
        with_reducible assumption
  · apply KeepsPair.some
    apply newJournalPage_keeps
    with_reducible assumption

theorem appendParts_keeps {s0 : State} : ∀ s1 x1 x2 x3, Keeps s0 s1 → KeepsOpt s0 (appendParts s1 x1 x2 x3) := by
  intro s1 x1 x2 x3 h0
  unfold appendParts
  apply KeepsOpt.foldl
  · apply KeepsOpt.some
    with_reducible assumption
  · intro _ _
    intro _
    apply KeepsOpt.bind
    intro _ _
    apply KeepsOpt.map
    intro _ _
    refine KeepsPair.at (by assumption) ?_
    apply appendRecord_keeps
    refine KeepsOpt.of (by assumption) ?_
    with_reducible assumption

theorem addRecord_keeps {s0 : State} : ∀ s1 x1, Keeps s0 s1 → Keeps s0 (addRecord s1 x1) := by
  intro s1 x1 h0
  unfold addRecord
  apply setMst_keeps
  assumption

theorem syncMst_keeps {s0 : State} : ∀ s1, Keeps s0 s1 → Keeps s0 (syncMst s1) := by
  intro s1 h0
  unfold syncMst
  apply wf_keeps
  assumption

theorem mstReport_keeps {s0 : State} : ∀ s1 x1 x2 x3, Keeps s0 s1 → Keeps s0 (mstReport s1 x1 x2 x3) := by
  intro s1 x1 x2 x3 h0
  unfold mstReport
  apply syncMst_keeps
  apply finish_keeps
  assumption

theorem mstRefuse_keeps {s0 : State} : ∀ s1 x1 x2, Keeps s0 s1 → Keeps s0 (mstRefuse s1 x1 x2) := by
  intro s1 x1 x2 h0
  unfold mstRefuse
  apply mstReport_keeps
  apply errInfo_keeps
  assumption

theorem takeJob_keeps {s0 : State} : ∀ s1 x1, Keeps s0 s1 → Keeps s0 (takeJob s1 x1) := by
  intro s1 x1 h0
  unfold takeJob
  apply setStarted_keeps
  assumption

theorem writeLane_keeps {s0 : State} : ∀ x0 f1 s3, (∀ t y1, Keeps s0 t → Keeps s0 (f1 t y1)) → Keeps s0 s3 → KeepsOut s0 (writeLane x0 f1 s3) := by
  intro x0 f1 s3 h0 h1
  unfold writeLane
  apply fabric_keeps
  · assumption
  · intro _ _
    split
    · extract_lets +onlyGivenNames v116
      clear_value v116
      extract_lets +onlyGivenNames v115
      have kv115 : Keeps s0 v115 := by
        subst v115
        apply takeJob_keeps
        assumption
      clear_value v115
      apply Keeps.ite
      · assumption
      · apply Keeps.ite
        · apply mstReport_keeps
          assumption
        · apply Keeps.ite
          · apply mstReport_keeps
            assumption
          · apply Keeps.ite
            · apply mstReport_keeps
              assumption
            · apply Keeps.ite
              · apply h0
                assumption
              · apply mstRefuse_keeps
                assumption
    · assumption

theorem writeEntry_keeps {s0 : State} : ∀ x0 s2 x2, Keeps s0 s2 → Keeps s0 (writeEntry x0 s2 x2).2 := by
  intro x0 s2 x2 h0
  unfold writeEntry
  extract_lets +onlyGivenNames v120
  clear_value v120
  split
  · with_reducible assumption
  · split
    · dsimp only
      apply mstEvent_keeps
      with_reducible assumption
    · extract_lets +onlyGivenNames v117
      clear_value v117
      extract_lets +onlyGivenNames v116
      clear_value v116
      extract_lets +onlyGivenNames v115
      clear_value v115
      split
      · dsimp only
        apply addRecord_keeps
        refine KeepsPair.of (by assumption) ?_
        apply appendRecord_keeps
        with_reducible assumption
      · dsimp only
        apply mstEvent_keeps
        with_reducible assumption

theorem writeEntries_keeps {s0 : State} : ∀ x0 x1 s3 x3, Keeps s0 s3 → Keeps s0 (writeEntries x0 x1 s3 x3).1 := by
  intro x0 x1 s3 x3 h0
  fun_induction writeEntries x0 x1 s3 x3
  · with_reducible assumption
  · apply_assumption
    refine Keeps.of_snd (by assumption) ?_
    apply writeEntry_keeps
    with_reducible assumption

theorem runEntries_keeps {s0 : State} : ∀ x0 s2 x2 x3, Keeps s0 s2 → Keeps s0 (runEntries x0 s2 x2 x3) := by
  intro x0 s2 x2 x3 h0
  unfold runEntries
  extract_lets +onlyGivenNames v120
  clear_value v120
  split
  extract_lets +onlyGivenNames v118
  clear_value v118
  split
  extract_lets +onlyGivenNames v116
  clear_value v116
  extract_lets +onlyGivenNames v115
  have kv115 : Keeps s0 v115 := by
    subst v115
    apply jobStore_keeps
    refine Keeps.of_fst (by assumption) ?_
    apply writeEntries_keeps
    refine Keeps.of_snd (by assumption) ?_
    apply drawNat_keeps
    with_reducible assumption
  clear_value v115
  apply mstReport_keeps
  with_reducible assumption

theorem execPut_keeps {s0 : State} : ∀ s1, Keeps s0 s1 → KeepsOut s0 (execPut s1) := by
  intro s1 h0
  unfold execPut
  apply writeLane_keeps
  · intro _ _
    intro _
    extract_lets +onlyGivenNames v116
    clear_value v116
    extract_lets +onlyGivenNames v115
    clear_value v115
    extract_lets +onlyGivenNames v114
    clear_value v114
    split
    · apply mstRefuse_keeps
      with_reducible assumption
    · apply jobIo_keeps
      · with_reducible assumption
      · intro _ _
        apply mstReport_keeps
        with_reducible assumption
      · intro _ _
        split
        · apply runEntries_keeps
          with_reducible assumption
        · apply mstRefuse_keeps
          with_reducible assumption
  · with_reducible assumption

theorem execMstDelete_keeps {s0 : State} : ∀ s1, Keeps s0 s1 → KeepsOut s0 (execMstDelete s1) := by
  intro s1 h0
  unfold execMstDelete
  apply writeLane_keeps
  · intro _ _
    intro _
    extract_lets +onlyGivenNames v116
    clear_value v116
    extract_lets +onlyGivenNames v115
    clear_value v115
    split
    · apply mstRefuse_keeps
      with_reducible assumption
    · apply jobIo_keeps
      · with_reducible assumption
      · intro _ _
        apply mstReport_keeps
        with_reducible assumption
      · intro _ _
        apply runEntries_keeps
        with_reducible assumption
  · with_reducible assumption

theorem writeCommit_keeps {s0 : State} : ∀ s1, Keeps s0 s1 → KeepsOpt s0 (writeCommit s1) := by
  intro s1 h0
  unfold writeCommit
  split
  extract_lets +onlyGivenNames v119
  clear_value v119
  apply KeepsOpt.map
  intro _ _
  apply bump_keeps
  apply setMst_keeps
  refine KeepsPair.at (by assumption) ?_
  apply writeStripe_keeps
  refine Keeps.of_snd (by assumption) ?_
  apply drawNat_keeps
  with_reducible assumption

theorem writeEnds_keeps {s0 : State} : ∀ s1 x1 x2, Keeps s0 s1 → Keeps s0 (writeEnds s1 x1 x2) := by
  intro s1 x1 x2 h0
  unfold writeEnds
  split
  · apply mstReport_keeps
    apply setMst_keeps
    assumption
  · assumption

theorem issueCommit_keeps {s0 : State} : ∀ s1, Keeps s0 s1 → Keeps s0 (issueCommit s1) := by
  intro s1 h0
  unfold issueCommit
  extract_lets +onlyGivenNames v120
  clear_value v120
  extract_lets +onlyGivenNames v119
  clear_value v119
  extract_lets +onlyGivenNames v118
  have kv118 : Keeps s0 v118 := by
    subst v118
    apply bumpN_keeps
    apply setMst_keeps
    with_reducible assumption
  clear_value v118
  apply KeepsOpt.getD
  · apply writeCommit_keeps
    with_reducible assumption
  · apply writeEnds_keeps
    with_reducible assumption

theorem execCommit_keeps {s0 : State} : ∀ s1, Keeps s0 s1 → KeepsOut s0 (execCommit s1) := by
  intro s1 h0
  unfold execCommit
  apply writeLane_keeps
  · intro _ _
    intro _
    split
    · apply mstRefuse_keeps
      with_reducible assumption
    · split
      · apply mstReport_keeps
        with_reducible assumption
      · extract_lets +onlyGivenNames v114
        have kv114 : Keeps s0 v114 := by
          subst v114
          apply syncMst_keeps
          apply setMst_keeps
          refine KeepsOpt.of (by assumption) ?_
          apply issueJournal_keeps
          with_reducible assumption
        clear_value v114
        apply Keeps.ite
        · with_reducible assumption
        · apply issueCommit_keeps
          with_reducible assumption
  · with_reducible assumption

theorem syncPrs_keeps {s0 : State} : ∀ s1, Keeps s0 s1 → Keeps s0 (syncPrs s1) := by
  intro s1 h0
  unfold syncPrs
  extract_lets +onlyGivenNames v200
  clear_value v200
  extract_lets +onlyGivenNames v199
  clear_value v199
  extract_lets +onlyGivenNames v198
  clear_value v198
  extract_lets +onlyGivenNames v197
  clear_value v197
  extract_lets +onlyGivenNames v196
  clear_value v196
  extract_lets +onlyGivenNames v195
  clear_value v195
  apply wr_keeps
  apply wr_keeps
  apply wr_keeps
  assumption

theorem syncEpoch_keeps {s0 : State} : ∀ s1, Keeps s0 s1 → Keeps s0 (syncEpoch s1) := by
  intro s1 h0
  unfold syncEpoch
  extract_lets +onlyGivenNames v200
  clear_value v200
  extract_lets +onlyGivenNames v199
  clear_value v199
  apply wr_keeps
  apply wr_keeps
  apply wr_keeps
  assumption

theorem mirrorAll_keeps {s0 : State} : ∀ s1, Keeps s0 s1 → Keeps s0 (mirrorAll s1) := by
  intro s1 h0
  unfold mirrorAll
  apply setMst_keeps
  assumption

theorem acceptedNow_keeps {s0 : State} : ∀ s1, Keeps s0 s1 → Keeps s0 (acceptedNow s1) := by
  intro s1 h0
  unfold acceptedNow
  extract_lets +onlyGivenNames v120
  clear_value v120
  refine Keeps.mk_same ?_ rfl rfl rfl rfl rfl rfl rfl rfl rfl rfl rfl rfl rfl
  with_reducible assumption

theorem publish_keeps {s0 : State} : ∀ s1, Keeps s0 s1 → Keeps s0 (publish s1) := by
  intro s1 h0
  unfold publish
  extract_lets +onlyGivenNames v120
  clear_value v120
  extract_lets +onlyGivenNames v119
  have kv119 : Keeps s0 v119 := by
    subst v119
    apply setMst_keeps
    with_reducible assumption
  clear_value v119
  apply syncPrs_keeps
  apply syncEpoch_keeps
  apply mirrorAll_keeps
  apply dropViews_keeps
  apply acceptedNow_keeps
  with_reducible assumption

theorem commitDone_keeps {s0 : State} : ∀ s1, Keeps s0 s1 → Keeps s0 (commitDone s1) := by
  intro s1 h0
  unfold commitDone
  split
  · extract_lets +onlyGivenNames v119
    clear_value v119
    extract_lets +onlyGivenNames v118
    have kv118 : Keeps s0 v118 := by
      subst v118
      apply publish_keeps
      apply answered_keeps
      apply setMst_keeps
      with_reducible assumption
    clear_value v118
    extract_lets +onlyGivenNames v117
    have kv117 : Keeps s0 v117 := by
      subst v117
      apply bumpWrap_keeps
      apply mstEvent_keeps
      with_reducible assumption
    clear_value v117
    apply writeEnds_keeps
    refine Keeps.mk_same ?_ rfl rfl rfl rfl rfl rfl rfl rfl rfl rfl rfl rfl rfl
    with_reducible assumption
  · with_reducible assumption

theorem execCommitDurable_keeps {s0 : State} : ∀ s1, Keeps s0 s1 → KeepsOut s0 (execCommitDurable s1) := by
  intro s1 h0
  unfold execCommitDurable
  apply fabric_keeps
  · assumption
  · intro _ _
    apply commitDone_keeps
    assumption

theorem syncPins_keeps {s0 : State} : ∀ s1, Keeps s0 s1 → Keeps s0 (syncPins s1) := by
  intro s1 h0
  unfold syncPins
  extract_lets +onlyGivenNames v120
  have kv120 : Keeps s0 v120 := by
    subst v120
    apply wr_keeps
    with_reducible assumption
  clear_value v120
  apply Keeps.foldl
  · with_reducible assumption
  · intro _ _
    intro _
    extract_lets +onlyGivenNames v115
    clear_value v115
    apply wr_keeps
    apply wr_keeps
    with_reducible assumption

theorem writePin_keeps {s0 : State} : ∀ s1 x1 x2, Keeps s0 s1 → KeepsOpt s0 (writePin s1 x1 x2) := by
  intro s1 x1 x2 h0
  unfold writePin
  apply KeepsOpt.map
  intro _ _
  apply bump_keeps
  apply setMst_keeps
  refine KeepsPair.at (by assumption) ?_
  apply writeStripe_keeps
  with_reducible assumption

theorem startPin_keeps {s0 : State} : ∀ s1 x1 x2 x3, Keeps s0 s1 → Keeps s0 (startPin s1 x1 x2 x3) := by
  intro s1 x1 x2 x3 h0
  unfold startPin
  extract_lets +onlyGivenNames v120
  have kv120 : Keeps s0 v120 := by
    subst v120
    apply syncMst_keeps
    apply setMst_keeps
    with_reducible assumption
  clear_value v120
  apply KeepsOpt.getD
  · apply writePin_keeps
    with_reducible assumption
  · apply writeEnds_keeps
    with_reducible assumption

theorem execPin_keeps {s0 : State} : ∀ s1, Keeps s0 s1 → KeepsOut s0 (execPin s1) := by
  intro s1 h0
  unfold execPin
  apply writeLane_keeps
  · intro _ _
    intro _
    extract_lets +onlyGivenNames v196
    clear_value v196
    split
    · apply mstRefuse_keeps
      assumption
    · apply Keeps.ite
      · apply mstReport_keeps
        assumption
      · apply Keeps.ite
        · apply mstReport_keeps
          apply mstEvent_keeps
          assumption
        · apply Keeps.ite
          · apply mstReport_keeps
            apply errInfo_keeps
            assumption
          · apply startPin_keeps
            assumption
  · assumption

theorem execUnpin_keeps {s0 : State} : ∀ s1, Keeps s0 s1 → KeepsOut s0 (execUnpin s1) := by
  intro s1 h0
  unfold execUnpin
  apply writeLane_keeps
  · intro _ _
    intro _
    extract_lets +onlyGivenNames v196
    clear_value v196
    split
    · apply mstRefuse_keeps
      assumption
    · apply Keeps.ite
      · apply startPin_keeps
        assumption
      · apply mstReport_keeps
        assumption
  · assumption

theorem setPins_keeps {s0 : State} : ∀ s1 x1 x2, Keeps s0 s1 → Keeps s0 (setPins s1 x1 x2) := by
  intro s1 x1 x2 h0
  unfold setPins
  extract_lets +onlyGivenNames v120
  clear_value v120
  apply setMst_keeps
  with_reducible assumption

theorem pinDone_keeps {s0 : State} : ∀ s1 x1 x2, Keeps s0 s1 → Keeps s0 (pinDone s1 x1 x2) := by
  intro s1 x1 x2 h0
  unfold pinDone
  extract_lets +onlyGivenNames v120
  have kv120 : Keeps s0 v120 := by
    subst v120
    apply syncPins_keeps
    apply dropViews_keeps
    apply setPins_keeps
    with_reducible assumption
  clear_value v120
  apply writeEnds_keeps
  apply mstEvent_keeps
  with_reducible assumption

theorem execStripeProgrammed_keeps {s0 : State} : ∀ s1, Keeps s0 s1 → KeepsOut s0 (execStripeProgrammed s1) := by
  intro s1 h0
  unfold execStripeProgrammed
  apply fabric_keeps
  · with_reducible assumption
  · intro _ _
    split
    · extract_lets +onlyGivenNames v116
      have kv116 : Keeps s0 v116 := by
        subst v116
        apply answered_keeps
        apply setMst_keeps
        with_reducible assumption
      clear_value v116
      apply Keeps.ite
      · apply issueCommit_keeps
        with_reducible assumption
      · with_reducible assumption
    · apply answered_keeps
      apply setMst_keeps
      with_reducible assumption
    · apply pinDone_keeps
      apply answered_keeps
      apply setMst_keeps
      with_reducible assumption
    · with_reducible assumption

theorem execMstPinLoRead_keeps {s0 : State} : ∀ x0 s2, Keeps s0 s2 → KeepsOut s0 (execMstPinLoRead x0 s2) := by
  intro x0 s2 h0
  unfold execMstPinLoRead
  apply fabric_keeps
  · assumption
  · intro _ _
    apply capture_keeps
    assumption

end Sys2Proof.Machine
end

