-- ==== Sys2Proof/Laws/KeepsMapReads.lean ====
section
/-! SUPPORT. What the functions of Machine/MapReads.lean keep: the queue of commands, the straps, the fuses and the canonical forms. -/

namespace Sys2Proof.Machine

theorem readLane_keeps {s0 : State} : ∀ x0 x1 f2 s4, (∀ t y1, Keeps s0 t → Keeps s0 (f2 t y1)) → Keeps s0 s4 → KeepsOut s0 (readLane x0 x1 f2 s4) := by
  intro x0 x1 f2 s4 h0 h1
  unfold readLane
  apply fabric_keeps
  · assumption
  · intro _ _
    split
    · assumption
    · apply Keeps.ite
      · assumption
      · apply Keeps.ite
        · apply mstReport_keeps
          apply takeJob_keeps
          assumption
        · apply h0
          apply takeJob_keeps
          assumption

theorem writeImage_keeps {s0 : State} : ∀ s1 x1 x2 x3, Keeps s0 s1 → Keeps s0 (writeImage s1 x1 x2 x3) := by
  intro s1 x1 x2 x3 h0
  unfold writeImage
  extract_lets +onlyGivenNames v120
  clear_value v120
  extract_lets +onlyGivenNames v119
  clear_value v119
  extract_lets +onlyGivenNames v118
  clear_value v118
  apply Keeps.ite
  · apply mstReport_keeps
    with_reducible assumption
  · apply Keeps.ite
    · apply mstRefuse_keeps
      with_reducible assumption
    · apply Keeps.ite
      · apply mstRefuse_keeps
        with_reducible assumption
      · apply mstReport_keeps
        apply jobStore_keeps
        with_reducible assumption

theorem runRead_keeps {s0 : State} : ∀ s1 x1 x2, Keeps s0 s1 → Keeps s0 (runRead s1 x1 x2) := by
  intro s1 x1 x2 h0
  unfold runRead
  split
  · apply mstRefuse_keeps
    assumption
  · apply Keeps.ite
    · apply mstReport_keeps
      assumption
    · apply Keeps.ite
      · apply mstReport_keeps
        assumption
      · extract_lets +onlyGivenNames v197
        clear_value v197
        split
        · apply writeImage_keeps
          assumption
        · apply mstRefuse_keeps
          assumption

theorem execReadWindow_keeps {s0 : State} : ∀ s1, Keeps s0 s1 → KeepsOut s0 (execReadWindow s1) := by
  intro s1 h0
  unfold execReadWindow
  apply readLane_keeps
  · intro _ _
    intro _
    extract_lets +onlyGivenNames v116
    clear_value v116
    extract_lets +onlyGivenNames v115
    clear_value v115
    apply jobIo_keeps
    · with_reducible assumption
    · intro _ _
      apply mstReport_keeps
      with_reducible assumption
    · intro _ _
      apply runRead_keeps
      with_reducible assumption
  · with_reducible assumption

theorem execReadGraph_keeps {s0 : State} : ∀ s1, Keeps s0 s1 → KeepsOut s0 (execReadGraph s1) := by
  intro s1 h0
  unfold execReadGraph
  apply readLane_keeps
  · intro _ _
    intro _
    apply runRead_keeps
    assumption
  · assumption

theorem writeRecords_keeps {s0 : State} : ∀ s1 x1 x2, Keeps s0 s1 → Keeps s0 (writeRecords s1 x1 x2) := by
  intro s1 x1 x2 h0
  unfold writeRecords
  split
  apply mstReport_keeps
  apply jobStore_keeps
  with_reducible assumption

theorem runGet_keeps {s0 : State} : ∀ s1 x1 x2, Keeps s0 s1 → Keeps s0 (runGet s1 x1 x2) := by
  intro s1 x1 x2 h0
  unfold runGet
  split
  · apply mstRefuse_keeps
    with_reducible assumption
  · apply Keeps.ite
    · apply mstReport_keeps
      with_reducible assumption
    · apply Keeps.ite
      · apply mstReport_keeps
        with_reducible assumption
      · apply jobIo_keeps
        · with_reducible assumption
        · intro _ _
          apply mstReport_keeps
          with_reducible assumption
        · intro _ _
          extract_lets +onlyGivenNames v114
          have kv114 : Keeps s0 v114 := by
            subst v114
            refine Keeps.mk_same ?_ rfl rfl rfl rfl rfl rfl rfl rfl rfl rfl rfl rfl rfl
            with_reducible assumption
          clear_value v114
          split
          · apply writeRecords_keeps
            with_reducible assumption
          · apply mstReport_keeps
            with_reducible assumption

theorem execGet_keeps {s0 : State} : ∀ s1, Keeps s0 s1 → KeepsOut s0 (execGet s1) := by
  intro s1 h0
  unfold execGet
  apply readLane_keeps
  · intro _ _
    intro _
    extract_lets +onlyGivenNames v196
    clear_value v196
    extract_lets +onlyGivenNames v195
    clear_value v195
    apply runGet_keeps
    assumption
  · assumption

theorem execGetBbx_keeps {s0 : State} : ∀ s1, Keeps s0 s1 → KeepsOut s0 (execGetBbx s1) := by
  intro s1 h0
  unfold execGetBbx
  apply readLane_keeps
  · intro _ _
    intro _
    extract_lets +onlyGivenNames v196
    clear_value v196
    apply runGet_keeps
    assumption
  · assumption

end Sys2Proof.Machine
end

