-- ==== Sys2Proof/Laws/KeepsGroomer.lean ====
section
/-! SUPPORT. What the functions of Machine/Groomer.lean keep: the queue of commands, the straps, the fuses and the canonical forms. -/

namespace Sys2Proof.Machine

theorem syncSu_keeps {s0 : State} : ∀ s1, Keeps s0 s1 → Keeps s0 (syncSu s1) := by
  intro s1 h0
  unfold syncSu
  extract_lets +onlyGivenNames v120
  clear_value v120
  apply Keeps.foldl
  · with_reducible assumption
  · intro _ _
    intro _
    extract_lets +onlyGivenNames v115
    clear_value v115
    apply wr_keeps
    with_reducible assumption

theorem setRunPrs_keeps {s0 : State} : ∀ s1 x1, Keeps s0 s1 → Keeps s0 (setRunPrs s1 x1) := by
  intro s1 x1 h0
  unfold setRunPrs
  refine Keeps.mk_same ?_ rfl rfl rfl rfl rfl rfl rfl rfl rfl rfl rfl rfl rfl
  assumption

theorem skipPage_keeps {s0 : State} : ∀ s1 x1, Keeps s0 s1 → Keeps s0 (skipPage s1 x1) := by
  intro s1 x1 h0
  unfold skipPage
  apply setBits_keeps
  apply bump_keeps
  apply setRunPrs_keeps
  assumption

theorem pageArrives_keeps {s0 : State} : ∀ s1 x1 x2, Keeps s0 s1 → Keeps s0 (pageArrives s1 x1 x2) := by
  intro s1 x1 x2 h0
  unfold pageArrives
  extract_lets +onlyGivenNames v200
  clear_value v200
  apply syncSu_keeps
  apply Keeps.foldl
  · assumption
  · intro _ _
    intro _
    apply Keeps.ite
    · apply skipPage_keeps
      assumption
    · apply setRunPrs_keeps
      assumption

theorem countLost_keeps {s0 : State} : ∀ x0 s2, Keeps s0 s2 → Keeps s0 (countLost x0 s2) := by
  intro x0 s2 h0
  unfold countLost
  apply bumpN_keeps
  assumption

theorem countCw_keeps {s0 : State} : ∀ x0 x1 s3 x3, Keeps s0 s3 → Keeps s0 (countCw x0 x1 s3 x3) := by
  intro x0 x1 s3 x3 h0
  unfold countCw
  extract_lets +onlyGivenNames v120
  have kv120 : ∀ z0, Keeps s0 z0 → Keeps s0 (v120 z0) := by
    subst v120
    intro _ _
    beta_reduce
    apply wf_keeps
    assumption
  clear_value v120
  split
  · apply Keeps.ite
    · assumption
    · apply kv120
      apply flcEvent_keeps
      apply bump_keeps
      assumption
  · apply kv120
    apply flcEvent_keeps
    apply bump_keeps
    assumption
  · apply kv120
    apply flcEvent_keeps
    apply bump_keeps
    assumption
  · extract_lets +onlyGivenNames v118
    have kv118 : Keeps s0 v118 := by
      subst v118
      apply Keeps.ite
      · assumption
      · apply wr_keeps
        assumption
    clear_value v118
    apply flcEvent_keeps
    apply bump_keeps
    assumption

theorem setStripe_keeps {s0 : State} : ∀ s1 x1 x2, Keeps s0 s1 → Keeps s0 (setStripe s1 x1 x2) := by
  intro s1 x1 x2 h0
  unfold setStripe
  apply setFlash_keeps
  assumption

theorem queueRefresh_keeps {s0 : State} : ∀ s1 x1 x2, Keeps s0 s1 → Keeps s0 (queueRefresh s1 x1 x2) := by
  intro s1 x1 x2 h0
  unfold queueRefresh
  apply setFlash_keeps
  assumption

theorem writePages_keeps {s0 : State} : ∀ x0 s2 x2 x3, Keeps s0 s2 → KeepsOpt s0 (writePages x0 s2 x2 x3) := by
  intro n
  induction n with
  | zero => intro s native l h; exact KeepsOpt.some h
  | succ n ih =>
    intro s native l h
    cases l with
    | nil => exact KeepsOpt.some h
    | cons p l => exact KeepsOpt.bind fun e he => ih _ _ _ (writeStripe_keeps _ _ _ h e he)

theorem killPages_keeps {s0 : State} : ∀ s1 x1, Keeps s0 s1 → Keeps s0 (killPages s1 x1) := by
  intro s1 x1 h0
  unfold killPages
  apply setFlash_keeps
  assumption

theorem movePages_keeps {s0 : State} : ∀ s1 x1 x2, Keeps s0 s1 → KeepsOpt s0 (movePages s1 x1 x2) := by
  intro s1 x1 x2 h0
  unfold movePages
  apply KeepsOpt.ite
  · apply KeepsOpt.some
    assumption
  · apply writePages_keeps
    apply killPages_keeps
    assumption

theorem growBad_keeps {s0 : State} : ∀ s1 x1 x2, Keeps s0 s1 → Keeps s0 (growBad s1 x1 x2) := by
  intro s1 x1 x2 h0
  unfold growBad
  extract_lets +onlyGivenNames v200
  have kv200 : Keeps s0 v200 := by
    subst v200
    apply setFlash_keeps
    assumption
  clear_value v200
  apply flcEvent_keeps
  assumption

theorem rewriteFailed_keeps {s0 : State} : ∀ s1 x1 x2, Keeps s0 s1 → Keeps s0 (rewriteFailed s1 x1 x2) := by
  intro s1 x1 x2 h0
  unfold rewriteFailed
  extract_lets +onlyGivenNames v120
  clear_value v120
  extract_lets +onlyGivenNames v119
  clear_value v119
  extract_lets +onlyGivenNames v118
  clear_value v118
  extract_lets +onlyGivenNames v117
  clear_value v117
  extract_lets +onlyGivenNames v116
  have kv116 : Keeps s0 v116 := by
    subst v116
    apply setStripe_keeps
    with_reducible assumption
  clear_value v116
  split
  · with_reducible assumption
  · split
    · apply bump_keeps
      apply setMst_keeps
      refine KeepsPair.of (by assumption) ?_
      apply writeStripe_keeps
      apply killPages_keeps
      with_reducible assumption
    · refine KeepsPair.of (by assumption) ?_
      apply writeStripe_keeps
      apply killPages_keeps
      with_reducible assumption

theorem execFlashProgramFail_keeps {s0 : State} : ∀ x0 x1 x2 s4, Keeps s0 s4 → KeepsOut s0 (execFlashProgramFail x0 x1 x2 s4) := by
  intro x0 x1 x2 s4 h0
  unfold execFlashProgramFail
  apply fabric_keeps
  · with_reducible assumption
  · intro _ _
    extract_lets +onlyGivenNames v117
    clear_value v117
    apply Keeps.ite
    · with_reducible assumption
    · apply Keeps.ite
      · apply Keeps.ite
        · apply syncFlash_keeps
          apply growBad_keeps
          apply bump_keeps
          with_reducible assumption
        · with_reducible assumption
      · split
        · with_reducible assumption
        · extract_lets +onlyGivenNames v113
          have kv113 : Keeps s0 v113 := by
            subst v113
            apply bump_keeps
            with_reducible assumption
          clear_value v113
          extract_lets +onlyGivenNames v112
          have kv112 : Keeps s0 v112 := by
            subst v112
            split
            · apply growBad_keeps
              with_reducible assumption
            · with_reducible assumption
          clear_value v112
          extract_lets +onlyGivenNames v111
          have kv111 : Keeps s0 v111 := by
            subst v111
            apply setFlash_keeps
            with_reducible assumption
          clear_value v111
          apply syncFlash_keeps
          apply rewriteFailed_keeps
          with_reducible assumption

theorem reissue_keeps {s0 : State} : ∀ s1, Keeps s0 s1 → Keeps s0 (reissue s1) := by
  intro s1 h0
  unfold reissue
  apply Keeps.foldl
  · with_reducible assumption
  · intro _ _
    intro _
    split
    · with_reducible assumption
    · split
      · with_reducible assumption
      · extract_lets +onlyGivenNames v114
        clear_value v114
        extract_lets +onlyGivenNames v113
        have kv113 : Keeps s0 v113 := by
          subst v113
          apply bump_keeps
          apply setMst_keeps
          refine KeepsPair.of (by assumption) ?_
          apply writeStripe_keeps
          apply killPages_keeps
          with_reducible assumption
        clear_value v113
        apply Keeps.ite
        · with_reducible assumption
        · split
          · with_reducible assumption
          · apply bump_keeps
            apply setMst_keeps
            refine KeepsPair.of (by assumption) ?_
            apply writeStripe_keeps
            with_reducible assumption

theorem shrinkJournal_keeps {s0 : State} : ∀ s1, Keeps s0 s1 → Keeps s0 (shrinkJournal s1) := by
  intro s1 h0
  unfold shrinkJournal
  apply Keeps.ite
  · with_reducible assumption
  · extract_lets +onlyGivenNames v119
    clear_value v119
    split
    · with_reducible assumption
    · apply setMst_keeps
      refine KeepsOpt.of (by assumption) ?_
      apply issueJournal_keeps
      apply setMst_keeps
      with_reducible assumption

theorem reroutePages_keeps {s0 : State} : ∀ s1, Keeps s0 s1 → Keeps s0 (reroutePages s1) := by
  intro s1 h0
  unfold reroutePages
  extract_lets +onlyGivenNames v120
  have kv120 : Keeps s0 v120 := by
    subst v120
    apply Keeps.foldl
    · with_reducible assumption
    · intro _ _
      intro _
      apply Keeps.ite
      · with_reducible assumption
      · apply Keeps.ite
        · apply skipPage_keeps
          with_reducible assumption
        · apply setRunPrs_keeps
          with_reducible assumption
  clear_value v120
  apply syncSu_keeps
  apply setRunPrs_keeps
  with_reducible assumption

theorem channelDown_keeps {s0 : State} : ∀ s1 x1, Keeps s0 s1 → Keeps s0 (channelDown s1 x1) := by
  intro s1 x1 h0
  unfold channelDown
  extract_lets +onlyGivenNames v200
  have kv200 : Keeps s0 v200 := by
    subst v200
    apply flcEvent_keeps
    apply setBits_keeps
    assumption
  clear_value v200
  extract_lets +onlyGivenNames v199
  have kv199 : Keeps s0 v199 := by
    subst v199
    apply setBits_keeps
    apply mstEvent_keeps
    assumption
  clear_value v199
  extract_lets +onlyGivenNames v198
  have kv198 : Keeps s0 v198 := by
    subst v198
    apply Keeps.ite
    · apply wf_keeps
      assumption
    · apply setBits_keeps
      assumption
  clear_value v198
  extract_lets +onlyGivenNames v197
  have kv197 : Keeps s0 v197 := by
    subst v197
    apply clrBits_keeps
    assumption
  clear_value v197
  apply clrBits_keeps
  apply bbx_keeps
  assumption

theorem channelWork_keeps {s0 : State} : ∀ s1, Keeps s0 s1 → Keeps s0 (channelWork s1) := by
  intro s1 h0
  unfold channelWork
  extract_lets +onlyGivenNames v200
  have kv200 : Keeps s0 v200 := by
    subst v200
    apply Keeps.ite
    · apply writeEnds_keeps
      apply setMst_keeps
      assumption
    · apply shrinkJournal_keeps
      apply reissue_keeps
      assumption
  clear_value v200
  apply syncPrs_keeps
  apply syncFlash_keeps
  apply reroutePages_keeps
  assumption

theorem loseChannel_keeps {s0 : State} : ∀ s1 x1, Keeps s0 s1 → Keeps s0 (loseChannel s1 x1) := by
  intro s1 x1 h0
  unfold loseChannel
  apply Keeps.ite
  · with_reducible assumption
  · apply channelWork_keeps
    apply countLost_keeps
    apply channelDown_keeps
    with_reducible assumption

theorem execFlashChannelLost_keeps {s0 : State} : ∀ x0 s2, Keeps s0 s2 → KeepsOut s0 (execFlashChannelLost x0 s2) := by
  intro x0 s2 h0
  unfold execFlashChannelLost
  apply fabric_keeps
  · with_reducible assumption
  · intro _ _
    apply loseChannel_keeps
    with_reducible assumption

theorem dieLate_keeps {s0 : State} : ∀ s1 x1 x2, Keeps s0 s1 → Keeps s0 (dieLate s1 x1 x2) := by
  intro s1 x1 x2 h0
  unfold dieLate
  extract_lets +onlyGivenNames v120
  have kv120 : Keeps s0 v120 := by
    subst v120
    apply bump_keeps
    with_reducible assumption
  clear_value v120
  apply Keeps.ite
  · apply loseChannel_keeps
    with_reducible assumption
  · apply setFlash_keeps
    with_reducible assumption

theorem dieUncorr_keeps {s0 : State} : ∀ s1 x1 x2, Keeps s0 s1 → Keeps s0 (dieUncorr s1 x1 x2) := by
  intro s1 x1 x2 h0
  unfold dieUncorr
  extract_lets +onlyGivenNames v120
  clear_value v120
  extract_lets +onlyGivenNames v119
  have kv119 : Keeps s0 v119 := by
    subst v119
    apply setFlash_keeps
    with_reducible assumption
  clear_value v119
  apply Keeps.ite
  · apply loseChannel_keeps
    with_reducible assumption
  · with_reducible assumption

theorem execFlashPageRead_keeps {s0 : State} : ∀ x0 x1 x2 s4, Keeps s0 s4 → KeepsOut s0 (execFlashPageRead x0 x1 x2 s4) := by
  intro x0 x1 x2 s4 h0
  unfold execFlashPageRead
  apply fabric_keeps
  · with_reducible assumption
  · intro _ _
    split
    · with_reducible assumption
    · extract_lets +onlyGivenNames v116
      clear_value v116
      apply Keeps.ite
      · with_reducible assumption
      · apply Keeps.ite
        · apply dieLate_keeps
          with_reducible assumption
        · extract_lets +onlyGivenNames v113
          clear_value v113
          extract_lets +onlyGivenNames v112
          clear_value v112
          extract_lets +onlyGivenNames v111
          have kv111 : Keeps s0 v111 := by
            subst v111
            apply setFlash_keeps
            with_reducible assumption
          clear_value v111
          extract_lets +onlyGivenNames v110
          have kv110 : Keeps s0 v110 := by
            subst v110
            apply Keeps.foldl
            · apply bumpWrap_keeps
              with_reducible assumption
            · intro _ _
              intro _
              apply countCw_keeps
              with_reducible assumption
          clear_value v110
          extract_lets +onlyGivenNames v109
          have kv109 : Keeps s0 v109 := by
            subst v109
            apply Keeps.ite
            · apply queueRefresh_keeps
              with_reducible assumption
            · with_reducible assumption
          clear_value v109
          extract_lets +onlyGivenNames v108
          have kv108 : Keeps s0 v108 := by
            subst v108
            apply Keeps.ite
            · apply setStripe_keeps
              with_reducible assumption
            · with_reducible assumption
          clear_value v108
          extract_lets +onlyGivenNames v107
          have kv107 : Keeps s0 v107 := by
            subst v107
            apply pageArrives_keeps
            apply countLost_keeps
            with_reducible assumption
          clear_value v107
          apply Keeps.ite
          · apply dieUncorr_keeps
            with_reducible assumption
          · with_reducible assumption

theorem reclaimSide_keeps {s0 : State} : ∀ s1, Keeps s0 s1 → Keeps s0 (reclaimSide s1) := by
  intro s1 h0
  unfold reclaimSide
  apply setMst_keeps
  assumption

theorem reclaim_keeps {s0 : State} : ∀ s1, Keeps s0 s1 → Keeps s0 (reclaim s1) := by
  intro s1 h0
  unfold reclaim
  apply reclaimZones_keeps
  apply reclaimSide_keeps
  apply dropViews_keeps
  assumption

theorem reprotect_keeps {s0 : State} : ∀ s1, Keeps s0 s1 → KeepsOpt s0 (reprotect s1) := by
  intro s1 h0
  unfold reprotect
  apply KeepsOpt.ite
  · split
    · apply KeepsOpt.some
      apply setBits_keeps
      with_reducible assumption
    · extract_lets +onlyGivenNames v118
      clear_value v118
      extract_lets +onlyGivenNames v117
      clear_value v117
      extract_lets +onlyGivenNames v116
      clear_value v116
      apply KeepsOpt.map
      intro _ _
      apply Keeps.ite
      · apply setBits_keeps
        refine KeepsOpt.of (by assumption) ?_
        apply KeepsOpt.map
        intro _ _
        apply setFlash_keeps
        refine KeepsOpt.of (by assumption) ?_
        apply movePages_keeps
        with_reducible assumption
      · refine KeepsOpt.of (by assumption) ?_
        apply KeepsOpt.map
        intro _ _
        apply setFlash_keeps
        refine KeepsOpt.of (by assumption) ?_
        apply movePages_keeps
        with_reducible assumption
  · apply KeepsOpt.none

theorem replaceBad_keeps {s0 : State} : ∀ s1, Keeps s0 s1 → KeepsOpt s0 (replaceBad s1) := by
  intro s1 h0
  unfold replaceBad
  apply KeepsOpt.findSome
  intro _
  split
  · apply KeepsOpt.none
  · split
    · apply KeepsOpt.none
    · apply KeepsOpt.map
      intro _ _
      extract_lets +onlyGivenNames v113
      have kv113 : Keeps s0 v113 := by
        subst v113
        apply setFlash_keeps
        with_reducible assumption
      clear_value v113
      apply setFlash_keeps
      with_reducible assumption

theorem refreshPage_keeps {s0 : State} : ∀ s1, Keeps s0 s1 → KeepsOpt s0 (refreshPage s1) := by
  intro s1 h0
  unfold refreshPage
  split
  · apply KeepsOpt.none
  · extract_lets +onlyGivenNames v119
    have kv119 : Keeps s0 v119 := by
      subst v119
      apply setFlash_keeps
      with_reducible assumption
    clear_value v119
    split
    · apply KeepsOpt.some
      with_reducible assumption
    · extract_lets +onlyGivenNames v117
      clear_value v117
      extract_lets +onlyGivenNames v116
      clear_value v116
      apply KeepsOpt.orElse
      · apply movePages_keeps
        with_reducible assumption
      · apply KeepsOpt.some
        with_reducible assumption

theorem usePids_keeps {s0 : State} : ∀ s1 x1, Keeps s0 s1 → Keeps s0 (usePids s1 x1) := by
  intro s1 x1 h0
  unfold usePids
  apply setFlash_keeps
  assumption

theorem foldList_keeps {s0 : State} : ∀ s1 x1, Keeps s0 s1 → KeepsOpt s0 (foldList s1 x1) := by
  intro s1 x1 h0
  unfold foldList
  extract_lets +onlyGivenNames v120
  clear_value v120
  extract_lets +onlyGivenNames v119
  clear_value v119
  split
  · apply KeepsOpt.some
    with_reducible assumption
  · apply KeepsOpt.ite
    · apply KeepsOpt.some
      with_reducible assumption
    · extract_lets +onlyGivenNames v116
      clear_value v116
      extract_lets +onlyGivenNames v115
      clear_value v115
      extract_lets +onlyGivenNames v114
      clear_value v114
      apply KeepsOpt.bind
      intro _ _
      apply KeepsOpt.map
      intro _ _
      apply addRecord_keeps
      refine KeepsOpt.of (by assumption) ?_
      apply appendParts_keeps
      refine KeepsOpt.of (by assumption) ?_
      apply movePages_keeps
      apply usePids_keeps
      with_reducible assumption

theorem foldObjs_keeps {s0 : State} : ∀ s1, Keeps s0 s1 → KeepsOpt s0 (foldObjs s1) := by
  intro s1 h0
  unfold foldObjs
  extract_lets +onlyGivenNames v120
  clear_value v120
  apply KeepsOpt.ite
  · apply KeepsOpt.some
    with_reducible assumption
  · extract_lets +onlyGivenNames v118
    clear_value v118
    extract_lets +onlyGivenNames v117
    clear_value v117
    extract_lets +onlyGivenNames v116
    clear_value v116
    apply KeepsOpt.bind
    intro _ _
    apply KeepsOpt.map
    intro _ _
    apply addRecord_keeps
    refine KeepsOpt.of (by assumption) ?_
    apply appendParts_keeps
    refine KeepsOpt.of (by assumption) ?_
    apply movePages_keeps
    apply usePids_keeps
    with_reducible assumption

theorem foldRemovals_keeps {s0 : State} : ∀ s1, Keeps s0 s1 → KeepsOpt s0 (foldRemovals s1) := by
  intro s1 h0
  unfold foldRemovals
  split
  · apply KeepsOpt.some
    with_reducible assumption
  · apply KeepsOpt.map
    intro _ _
    apply addRecord_keeps
    refine KeepsOpt.of (by assumption) ?_
    apply appendParts_keeps
    with_reducible assumption

theorem foldTask_keeps {s0 : State} : ∀ s1, Keeps s0 s1 → KeepsOpt s0 (foldTask s1) := by
  intro s1 h0
  unfold foldTask
  apply KeepsOpt.ite
  · apply KeepsOpt.bind
    intro _ _
    apply foldRemovals_keeps
    refine KeepsOpt.of (by assumption) ?_
    apply KeepsOpt.bind
    intro _ _
    apply foldObjs_keeps
    refine KeepsOpt.of (by assumption) ?_
    apply KeepsOpt.foldl
    · apply KeepsOpt.some
      with_reducible assumption
    · intro _ _
      intro _
      apply KeepsOpt.bind
      intro _ _
      apply foldList_keeps
      refine KeepsOpt.of (by assumption) ?_
      with_reducible assumption
  · apply KeepsOpt.none

theorem checkpoint_keeps {s0 : State} : ∀ s1, Keeps s0 s1 → KeepsOpt s0 (checkpoint s1) := by
  intro s1 h0
  unfold checkpoint
  apply KeepsOpt.ite
  · extract_lets +onlyGivenNames v119
    clear_value v119
    extract_lets +onlyGivenNames v118
    clear_value v118
    extract_lets +onlyGivenNames v117
    clear_value v117
    extract_lets +onlyGivenNames v116
    clear_value v116
    apply KeepsOpt.bind
    intro _ _
    apply KeepsOpt.map
    intro _ _
    extract_lets +onlyGivenNames v109
    clear_value v109
    extract_lets +onlyGivenNames v108
    clear_value v108
    extract_lets +onlyGivenNames v107
    clear_value v107
    extract_lets +onlyGivenNames v106
    have kv106 : Keeps s0 v106 := by
      subst v106
      apply setFlash_keeps
      refine KeepsOpt.of (by assumption) ?_
      apply movePages_keeps
      refine KeepsOpt.of (by assumption) ?_
      apply movePages_keeps
      apply usePids_keeps
      with_reducible assumption
    clear_value v106
    apply wr_keeps
    apply setMst_keeps
    with_reducible assumption
  · apply KeepsOpt.none

theorem emptyZone_keeps {s0 : State} : ∀ s1 x1, Keeps s0 s1 → KeepsOpt s0 (emptyZone s1 x1) := by
  intro s1 x1 h0
  unfold emptyZone
  apply movePages_keeps
  assumption

theorem compact_keeps {s0 : State} : ∀ s1, Keeps s0 s1 → KeepsOpt s0 (compact s1) := by
  intro s1 h0
  unfold compact
  apply KeepsOpt.ite
  · apply KeepsOpt.none
  · extract_lets +onlyGivenNames v199
    clear_value v199
    extract_lets +onlyGivenNames v198
    clear_value v198
    split
    · apply emptyZone_keeps
      assumption
    · apply KeepsOpt.none

theorem levelWear_keeps {s0 : State} : ∀ s1, Keeps s0 s1 → KeepsOpt s0 (levelWear s1) := by
  intro s1 h0
  unfold levelWear
  extract_lets +onlyGivenNames v200
  clear_value v200
  apply KeepsOpt.ite
  · split
    · apply emptyZone_keeps
      assumption
    · apply KeepsOpt.none
  · apply KeepsOpt.none

theorem groom_keeps {s0 : State} : ∀ s1, Keeps s0 s1 → KeepsOpt s0 (groom s1) := by
  intro s1 h0
  unfold groom
  apply KeepsOpt.orElse
  · apply reprotect_keeps
    with_reducible assumption
  · apply KeepsOpt.orElse
    · apply replaceBad_keeps
      with_reducible assumption
    · apply KeepsOpt.orElse
      · apply refreshPage_keeps
        with_reducible assumption
      · apply KeepsOpt.orElse
        · apply foldTask_keeps
          with_reducible assumption
        · apply KeepsOpt.orElse
          · apply checkpoint_keeps
            with_reducible assumption
          · apply KeepsOpt.orElse
            · apply compact_keeps
              with_reducible assumption
            · apply levelWear_keeps
              with_reducible assumption

theorem execGroomTask_keeps {s0 : State} : ∀ s1, Keeps s0 s1 → KeepsOut s0 (execGroomTask s1) := by
  intro s1 h0
  unfold execGroomTask
  apply fabric_keeps
  · with_reducible assumption
  · intro _ _
    apply Keeps.ite
    · extract_lets +onlyGivenNames v116
      have kv116 : Keeps s0 v116 := by
        subst v116
        apply reclaim_keeps
        with_reducible assumption
      clear_value v116
      extract_lets +onlyGivenNames v115
      have kv115 : Keeps s0 v115 := by
        subst v115
        split
        · apply setBits_keeps
          apply reclaim_keeps
          refine KeepsOpt.of (by assumption) ?_
          apply groom_keeps
          with_reducible assumption
        · apply clrBits_keeps
          with_reducible assumption
      clear_value v115
      apply syncPrs_keeps
      apply syncFlash_keeps
      with_reducible assumption
    · with_reducible assumption

theorem discardOpen_keeps {s0 : State} : ∀ s1, Keeps s0 s1 → Keeps s0 (discardOpen s1) := by
  intro s1 h0
  unfold discardOpen
  apply setMst_keeps
  assumption

theorem recoverInFlight_keeps {s0 : State} : ∀ s1, Keeps s0 s1 → Keeps s0 (recoverInFlight s1) := by
  intro s1 h0
  unfold recoverInFlight
  split
  apply Keeps.ite
  · refine Keeps.of_snd (by assumption) ?_
    apply drawNat_keeps
    with_reducible assumption
  · split
    · apply publish_keeps
      refine Keeps.of_snd (by assumption) ?_
      apply drawNat_keeps
      with_reducible assumption
    · apply setPins_keeps
      refine Keeps.of_snd (by assumption) ?_
      apply drawNat_keeps
      with_reducible assumption
    · refine Keeps.of_snd (by assumption) ?_
      apply drawNat_keeps
      with_reducible assumption

theorem syncMount_keeps {s0 : State} : ∀ s1, Keeps s0 s1 → Keeps s0 (syncMount s1) := by
  intro s1 h0
  unfold syncMount
  apply syncFlash_keeps
  apply syncPins_keeps
  apply syncPrs_keeps
  apply syncEpoch_keeps
  with_reducible assumption

theorem replay_keeps {s0 : State} : ∀ s1 x1 x2, Keeps s0 s1 → Keeps s0 (replay s1 x1 x2) := by
  intro s1 x1 x2 h0
  unfold replay
  extract_lets +onlyGivenNames v120
  clear_value v120
  extract_lets +onlyGivenNames v119
  clear_value v119
  extract_lets +onlyGivenNames v118
  clear_value v118
  extract_lets +onlyGivenNames v117
  have kv117 : Keeps s0 v117 := by
    subst v117
    apply setMst_keeps
    with_reducible assumption
  clear_value v117
  apply setFlash_keeps
  with_reducible assumption

theorem replayJournal_keeps {s0 : State} : ∀ s1, Keeps s0 s1 → Keeps s0 (replayJournal s1) := by
  intro s1 h0
  unfold replayJournal
  split
  · apply replay_keeps
    with_reducible assumption
  · with_reducible assumption

theorem mapMount_keeps {s0 : State} : ∀ s1, Keeps s0 s1 → Keeps s0 (mapMount s1) := by
  intro s1 h0
  unfold mapMount
  extract_lets +onlyGivenNames v120
  have kv120 : Keeps s0 v120 := by
    subst v120
    apply Keeps.foldl
    · with_reducible assumption
    · intro _ _
      intro _
      apply Keeps.ite
      · apply channelDown_keeps
        with_reducible assumption
      · with_reducible assumption
  clear_value v120
  apply Keeps.ite
  · apply setBits_keeps
    with_reducible assumption
  · extract_lets +onlyGivenNames v118
    have kv118 : Keeps s0 v118 := by
      subst v118
      apply discardOpen_keeps
      apply replayJournal_keeps
      apply recoverInFlight_keeps
      with_reducible assumption
    clear_value v118
    extract_lets +onlyGivenNames v117
    have kv117 : Keeps s0 v117 := by
      subst v117
      apply setFlash_keeps
      apply setMst_keeps
      with_reducible assumption
    clear_value v117
    extract_lets +onlyGivenNames v116
    clear_value v116
    extract_lets +onlyGivenNames v115
    have kv115 : Keeps s0 v115 := by
      subst v115
      apply reclaimZones_keeps
      with_reducible assumption
    clear_value v115
    split
    extract_lets +onlyGivenNames v113
    have kv113 : Keeps s0 v113 := by
      subst v113
      apply wr_keeps
      apply wr_keeps
      refine Keeps.of_snd (by assumption) ?_
      apply drawNat_keeps
      with_reducible assumption
    clear_value v113
    extract_lets +onlyGivenNames v112
    have kv112 : Keeps s0 v112 := by
      subst v112
      apply bbx_keeps
      with_reducible assumption
    clear_value v112
    apply setBits_keeps
    apply syncMount_keeps
    apply setBits_keeps
    apply mstEvent_keeps
    with_reducible assumption

theorem execMapMount_keeps {s0 : State} : ∀ s1, Keeps s0 s1 → KeepsOut s0 (execMapMount s1) := by
  intro s1 h0
  unfold execMapMount
  apply fabric_keeps
  · assumption
  · intro _ _
    apply Keeps.ite
    · assumption
    · apply mapMount_keeps
      assumption

theorem losePages_keeps {s0 : State} : ∀ s1, Keeps s0 s1 → Keeps s0 (losePages s1) := by
  intro s1 h0
  unfold losePages
  split
  · apply syncSu_keeps
    apply Keeps.foldl
    · assumption
    · intro _ _
      intro _
      apply skipPage_keeps
      assumption
  · assumption

theorem execMstFormat_keeps {s0 : State} : ∀ x0 s2, Keeps s0 s2 → KeepsOut s0 (execMstFormat x0 s2) := by
  intro x0 s2 h0
  unfold execMstFormat
  apply fabric_keeps
  · with_reducible assumption
  · intro _ _
    apply Keeps.ite
    · with_reducible assumption
    · extract_lets +onlyGivenNames v116
      have kv116 : Keeps s0 v116 := by
        subst v116
        apply writeEnds_keeps
        apply losePages_keeps
        with_reducible assumption
      clear_value v116
      extract_lets +onlyGivenNames v115
      clear_value v115
      extract_lets +onlyGivenNames v114
      have kv114 : Keeps s0 v114 := by
        subst v114
        apply setFlash_keeps
        with_reducible assumption
      clear_value v114
      extract_lets +onlyGivenNames v113
      have kv113 : Keeps s0 v113 := by
        subst v113
        apply Keeps.foldl
        · with_reducible assumption
        · intro _ _
          intro _
          extract_lets +onlyGivenNames v108
          clear_value v108
          apply bumpWrapN_keeps
          apply setFlash_keeps
          with_reducible assumption
      clear_value v113
      extract_lets +onlyGivenNames v112
      clear_value v112
      extract_lets +onlyGivenNames v111
      clear_value v111
      extract_lets +onlyGivenNames v110
      have kv110 : Keeps s0 v110 := by
        subst v110
        apply setFlash_keeps
        with_reducible assumption
      clear_value v110
      extract_lets +onlyGivenNames v109
      have kv109 : Keeps s0 v109 := by
        subst v109
        apply discardOpen_keeps
        apply setMst_keeps
        with_reducible assumption
      clear_value v109
      extract_lets +onlyGivenNames v108
      have kv108 : Keeps s0 v108 := by
        subst v108
        apply wr_keeps
        apply clrBits_keeps
        apply setBits_keeps
        with_reducible assumption
      clear_value v108
      apply setBits_keeps
      apply syncMst_keeps
      apply syncMount_keeps
      with_reducible assumption

theorem mstStop_keeps {s0 : State} : ∀ s1, Keeps s0 s1 → Keeps s0 (mstStop s1) := by
  intro s1 h0
  unfold mstStop
  extract_lets +onlyGivenNames v120
  have kv120 : Keeps s0 v120 := by
    subst v120
    apply setBits_keeps
    apply mstEvent_keeps
    assumption
  clear_value v120
  split
  · apply Keeps.ite
    · assumption
    · apply syncMst_keeps
      apply setMst_keeps
      apply finish_keeps
      assumption
  · assumption

end Sys2Proof.Machine
end

