-- ==== Sys2Proof/Laws/KeepsPlace.lean ====
section
/-! SUPPORT. What the functions of Machine/Place.lean keep: the queue of commands, the straps, the fuses and the canonical forms. -/

namespace Sys2Proof.Machine

theorem setPrs_keeps {s0 : State} : ∀ s1 x1, Keeps s0 s1 → Keeps s0 (setPrs s1 x1) := by
  intro s1 x1 h0
  unfold setPrs
  refine Keeps.mk_same ?_ rfl rfl rfl rfl rfl rfl rfl rfl rfl rfl rfl rfl rfl
  assumption

theorem prsReport_keeps {s0 : State} : ∀ s1 x1 x2 x3, Keeps s0 s1 → Keeps s0 (prsReport s1 x1 x2 x3) := by
  intro s1 x1 x2 x3 h0
  unfold prsReport
  apply syncPrs_keeps
  apply finish_keeps
  apply dropViews_keeps
  apply setPrs_keeps
  assumption

theorem prsRefuse_keeps {s0 : State} : ∀ s1 x1 x2, Keeps s0 s1 → Keeps s0 (prsRefuse s1 x1 x2) := by
  intro s1 x1 x2 h0
  unfold prsRefuse
  extract_lets +onlyGivenNames v120
  have kv120 : Keeps s0 v120 := by
    subst v120
    apply errInfo_keeps
    with_reducible assumption
  clear_value v120
  extract_lets +onlyGivenNames v119
  clear_value v119
  apply prsReport_keeps
  apply Keeps.ite
  · apply jobStore_keeps
    with_reducible assumption
  · with_reducible assumption

theorem prsWork_keeps {s0 : State} : ∀ x0 x1 f2 s4, (∀ t y1, Keeps s0 t → Keeps s0 (f2 t y1)) → Keeps s0 s4 → KeepsOut s0 (prsWork x0 x1 f2 s4) := by
  intro x0 x1 f2 s4 h0 h1
  unfold prsWork
  apply fabric_keeps
  · assumption
  · intro _ _
    split
    · extract_lets +onlyGivenNames v116
      clear_value v116
      extract_lets +onlyGivenNames v115
      have kv115 : Keeps s0 v115 := by
        subst v115
        apply setStarted_keeps
        assumption
      clear_value v115
      apply Keeps.ite
      · assumption
      · apply Keeps.ite
        · apply prsReport_keeps
          assumption
        · apply Keeps.ite
          · apply h0
            assumption
          · apply prsRefuse_keeps
            assumption
    · assumption

theorem startCoarse_keeps {s0 : State} : ∀ s1 x1 x2, Keeps s0 s1 → Keeps s0 (startCoarse s1 x1 x2) := by
  intro s1 x1 x2 h0
  unfold startCoarse
  extract_lets +onlyGivenNames v120
  have kv120 : Keeps s0 v120 := by
    subst v120
    apply stBytes_keeps
    apply stBytes_keeps
    with_reducible assumption
  clear_value v120
  extract_lets +onlyGivenNames v119
  clear_value v119
  apply joinQueue_keeps
  with_reducible assumption

theorem endQuery_keeps {s0 : State} : ∀ s1 x1 x2, Keeps s0 s1 → Keeps s0 (endQuery s1 x1 x2) := by
  intro s1 x1 x2 h0
  unfold endQuery
  extract_lets +onlyGivenNames v120
  clear_value v120
  extract_lets +onlyGivenNames v119
  clear_value v119
  extract_lets +onlyGivenNames v118
  clear_value v118
  extract_lets +onlyGivenNames v117
  clear_value v117
  extract_lets +onlyGivenNames v116
  have kv116 : Keeps s0 v116 := by
    subst v116
    apply bumpWrap_keeps
    apply jobStore_keeps
    with_reducible assumption
  clear_value v116
  extract_lets +onlyGivenNames v115
  have kv115 : Keeps s0 v115 := by
    subst v115
    apply Keeps.ite
    · apply bump_keeps
      with_reducible assumption
    · with_reducible assumption
  clear_value v115
  extract_lets +onlyGivenNames v114
  have kv114 : Keeps s0 v114 := by
    subst v114
    apply Keeps.ite
    · apply setBits_keeps
      apply bump_keeps
      with_reducible assumption
    · with_reducible assumption
  clear_value v114
  extract_lets +onlyGivenNames v113
  clear_value v113
  extract_lets +onlyGivenNames v112
  have kv112 : Keeps s0 v112 := by
    subst v112
    apply wr_keeps
    apply wr_keeps
    with_reducible assumption
  clear_value v112
  apply syncSu_keeps
  apply prsReport_keeps
  with_reducible assumption

theorem execQuery_keeps {s0 : State} : ∀ s1, Keeps s0 s1 → KeepsOut s0 (execQuery s1) := by
  intro s1 h0
  unfold execQuery
  apply prsWork_keeps
  · intro _ _
    intro _
    extract_lets +onlyGivenNames v116
    clear_value v116
    extract_lets +onlyGivenNames v115
    clear_value v115
    extract_lets +onlyGivenNames v114
    clear_value v114
    split
    · apply prsRefuse_keeps
      with_reducible assumption
    · apply Keeps.ite
      · apply endQuery_keeps
        with_reducible assumption
      · apply Keeps.ite
        · apply endQuery_keeps
          with_reducible assumption
        · apply Keeps.ite
          · apply endQuery_keeps
            with_reducible assumption
          · apply Keeps.ite
            · apply endQuery_keeps
              with_reducible assumption
            · apply Keeps.ite
              · apply endQuery_keeps
                with_reducible assumption
              · apply jobIo_keeps
                · with_reducible assumption
                · intro _ _
                  apply endQuery_keeps
                  with_reducible assumption
                · intro _ _
                  apply syncPrs_keeps
                  apply startCoarse_keeps
                  apply setPrs_keeps
                  with_reducible assumption
  · with_reducible assumption

theorem queryCoarse_keeps {s0 : State} : ∀ s1 x1 x2, Keeps s0 s1 → Keeps s0 (queryCoarse s1 x1 x2) := by
  intro s1 x1 x2 h0
  unfold queryCoarse
  apply Keeps.ite
  · apply endQuery_keeps
    assumption
  · apply Keeps.ite
    · apply endQuery_keeps
      assumption
    · apply Keeps.ite
      · apply endQuery_keeps
        assumption
      · extract_lets +onlyGivenNames v197
        clear_value v197
        extract_lets +onlyGivenNames v196
        clear_value v196
        extract_lets +onlyGivenNames v195
        clear_value v195
        extract_lets +onlyGivenNames v194
        clear_value v194
        extract_lets +onlyGivenNames v193
        have kv193 : Keeps s0 v193 := by
          subst v193
          apply setPrs_keeps
          assumption
        clear_value v193
        apply syncSu_keeps
        apply Keeps.foldl
        · assumption
        · intro _ _
          intro _
          apply skipPage_keeps
          assumption

theorem scanPage_keeps {s0 : State} : ∀ s1 x1 x2, Keeps s0 s1 → Keeps s0 (scanPage s1 x1 x2) := by
  intro s1 x1 x2 h0
  unfold scanPage
  extract_lets +onlyGivenNames v120
  clear_value v120
  extract_lets +onlyGivenNames v119
  clear_value v119
  split
  extract_lets +onlyGivenNames v117
  clear_value v117
  extract_lets +onlyGivenNames v116
  clear_value v116
  apply syncSu_keeps
  apply bump_keeps
  apply setPrs_keeps
  with_reducible assumption

theorem execPrsPageScan_keeps {s0 : State} : ∀ x0 s2, Keeps s0 s2 → KeepsOut s0 (execPrsPageScan x0 s2) := by
  intro x0 s2 h0
  unfold execPrsPageScan
  apply fabric_keeps
  · with_reducible assumption
  · intro _ _
    split
    · with_reducible assumption
    · split
      · with_reducible assumption
      · apply Keeps.ite
        · apply endQuery_keeps
          with_reducible assumption
        · apply scanPage_keeps
          with_reducible assumption

theorem mergeQuery_keeps {s0 : State} : ∀ s1 x1, Keeps s0 s1 → Keeps s0 (mergeQuery s1 x1) := by
  intro s1 x1 h0
  unfold mergeQuery
  extract_lets +onlyGivenNames v200
  clear_value v200
  extract_lets +onlyGivenNames v199
  clear_value v199
  extract_lets +onlyGivenNames v198
  clear_value v198
  extract_lets +onlyGivenNames v197
  clear_value v197
  extract_lets +onlyGivenNames v196
  clear_value v196
  extract_lets +onlyGivenNames v195
  clear_value v195
  extract_lets +onlyGivenNames v194
  clear_value v194
  extract_lets +onlyGivenNames v193
  clear_value v193
  extract_lets +onlyGivenNames v192
  clear_value v192
  extract_lets +onlyGivenNames v191
  clear_value v191
  extract_lets +onlyGivenNames v190
  clear_value v190
  extract_lets +onlyGivenNames v189
  clear_value v189
  apply endQuery_keeps
  assumption

theorem execPrsQueryEnd_keeps {s0 : State} : ∀ s1, Keeps s0 s1 → KeepsOut s0 (execPrsQueryEnd s1) := by
  intro s1 h0
  unfold execPrsQueryEnd
  apply fabric_keeps
  · assumption
  · intro _ _
    split
    · assumption
    · apply Keeps.ite
      · assumption
      · apply Keeps.ite
        · apply endQuery_keeps
          assumption
        · apply Keeps.ite
          · apply mergeQuery_keeps
            assumption
          · assumption

theorem appendSide_keeps {s0 : State} : ∀ s1 x1 x2 x3 x4 x5, Keeps s0 s1 → KeepsOpt s0 (appendSide s1 x1 x2 x3 x4 x5) := by
  intro s1 x1 x2 x3 x4 x5 h0
  unfold appendSide
  apply KeepsOpt.ite
  · apply KeepsOpt.none
  · extract_lets +onlyGivenNames v119
    clear_value v119
    extract_lets +onlyGivenNames v118
    clear_value v118
    apply KeepsOpt.map
    intro _ _
    extract_lets +onlyGivenNames v114
    have kv114 : Keeps s0 v114 := by
      subst v114
      apply addRecord_keeps
      apply setMst_keeps
      refine KeepsPair.at (by assumption) ?_
      apply appendRecord_keeps
      with_reducible assumption
    clear_value v114
    extract_lets +onlyGivenNames v113
    have kv113 : Keeps s0 v113 := by
      subst v113
      apply bump_keeps
      with_reducible assumption
    clear_value v113
    apply syncPrs_keeps
    apply Keeps.ite
    · apply setBits_keeps
      with_reducible assumption
    · with_reducible assumption

theorem sideFull_keeps {s0 : State} : ∀ s1, Keeps s0 s1 → Keeps s0 (sideFull s1) := by
  intro s1 h0
  unfold sideFull
  apply Keeps.ite
  · apply setBits_keeps
    assumption
  · assumption

theorem takeEntry_keeps {s0 : State} : ∀ s1 x1 x2 x3 x4 x5 x6 x7, Keeps s0 s1 → Keeps s0 (takeEntry s1 x1 x2 x3 x4 x5 x6 x7).1 := by
  intro s1 x1 x2 x3 x4 x5 x6 x7 h0
  unfold takeEntry
  split
  · with_reducible assumption
  · split
    · with_reducible assumption
    · split
      · dsimp only
        refine KeepsOpt.of (by assumption) ?_
        apply appendSide_keeps
        with_reducible assumption
      · dsimp only
        apply sideFull_keeps
        with_reducible assumption

theorem endEntries_keeps {s0 : State} : ∀ s1 x1 x2 x3, Keeps s0 s1 → Keeps s0 (endEntries s1 x1 x2 x3) := by
  intro s1 x1 x2 x3 h0
  unfold endEntries
  apply prsReport_keeps
  apply jobStore_keeps
  with_reducible assumption

theorem startGroup_keeps {s0 : State} : ∀ s1 x1, Keeps s0 s1 → Keeps s0 (startGroup s1 x1) := by
  intro s1 x1 h0
  unfold startGroup
  apply startCoarse_keeps
  apply setPrs_keeps
  assumption

theorem execInsert_keeps {s0 : State} : ∀ s1, Keeps s0 s1 → KeepsOut s0 (execInsert s1) := by
  intro s1 h0
  unfold execInsert
  apply prsWork_keeps
  · intro _ _
    intro _
    extract_lets +onlyGivenNames v116
    clear_value v116
    split
    · apply prsRefuse_keeps
      with_reducible assumption
    · split
      · apply prsReport_keeps
        with_reducible assumption
      · apply jobIo_keeps
        · with_reducible assumption
        · intro _ _
          apply prsReport_keeps
          with_reducible assumption
        · intro _ _
          apply Keeps.ite
          · apply prsReport_keeps
            with_reducible assumption
          · apply syncPrs_keeps
            apply startGroup_keeps
            with_reducible assumption
  · with_reducible assumption

theorem insertGroup_keeps {s0 : State} : ∀ x0 x1 s3 x3, Keeps s0 s3 → Keeps s0 (insertGroup x0 x1 s3 x3).1 := by
  intro x0 x1 s3 x3 h0
  fun_induction insertGroup x0 x1 s3 x3
  · with_reducible assumption
  · apply_assumption
    refine Keeps.of_fst (by assumption) ?_
    apply takeEntry_keeps
    with_reducible assumption

theorem restWords_keeps {s0 : State} : ∀ x0 s2 x2, Keeps s0 s2 → Keeps s0 (restWords x0 s2 x2).1 := by
  intro x0 s2 x2 h0
  fun_induction restWords x0 s2 x2
  · with_reducible assumption
  · apply_assumption
    refine Keeps.of_fst (by assumption) ?_
    apply takeEntry_keeps
    refine Keeps.of_snd (by assumption) ?_
    apply drawNat_keeps
    with_reducible assumption

theorem insertCoarse_keeps {s0 : State} : ∀ s1 x1 x2, Keeps s0 s1 → Keeps s0 (insertCoarse s1 x1 x2) := by
  intro s1 x1 x2 h0
  unfold insertCoarse
  extract_lets +onlyGivenNames v120
  clear_value v120
  extract_lets +onlyGivenNames v119
  clear_value v119
  extract_lets +onlyGivenNames v118
  clear_value v118
  extract_lets +onlyGivenNames v117
  clear_value v117
  apply Keeps.ite
  · assumption
  · apply Keeps.ite
    · apply endEntries_keeps
      assumption
    · split
      · apply endEntries_keeps
        assumption
      · apply Keeps.ite
        · split
          split
          apply endEntries_keeps
          refine Keeps.of_fst (by assumption) ?_
          apply insertGroup_keeps
          refine Keeps.of_snd (by assumption) ?_
          apply drawNat_keeps
          assumption
        · split
          apply Keeps.ite
          · split
            apply endEntries_keeps
            refine Keeps.of_fst (by assumption) ?_
            apply restWords_keeps
            refine Keeps.of_fst (by assumption) ?_
            apply insertGroup_keeps
            assumption
          · apply Keeps.ite
            · apply endEntries_keeps
              refine Keeps.of_fst (by assumption) ?_
              apply insertGroup_keeps
              assumption
            · apply startGroup_keeps
              refine Keeps.of_fst (by assumption) ?_
              apply insertGroup_keeps
              assumption

theorem execPrsCoarseEnd_keeps {s0 : State} : ∀ s1, Keeps s0 s1 → KeepsOut s0 (execPrsCoarseEnd s1) := by
  intro s1 h0
  unfold execPrsCoarseEnd
  apply fabric_keeps
  · assumption
  · intro _ _
    split
    · assumption
    · split
      · assumption
      · apply Keeps.ite
        · assumption
        · apply Keeps.ite
          · apply queryCoarse_keeps
            assumption
          · apply insertCoarse_keeps
            assumption

theorem deleteEntries_keeps {s0 : State} : ∀ x0 x1 s3 x3, Keeps s0 s3 → Keeps s0 (deleteEntries x0 x1 s3 x3).1 := by
  intro x0 x1 s3 x3 h0
  fun_induction deleteEntries x0 x1 s3 x3
  · with_reducible assumption
  · apply_assumption
    refine Keeps.of_fst (by assumption) ?_
    apply takeEntry_keeps
    with_reducible assumption

theorem execPrsDelete_keeps {s0 : State} : ∀ s1, Keeps s0 s1 → KeepsOut s0 (execPrsDelete s1) := by
  intro s1 h0
  unfold execPrsDelete
  apply KeepsOut.ite
  · apply KeepsOut.next
    with_reducible assumption
  · apply prsWork_keeps
    · intro _ _
      intro _
      extract_lets +onlyGivenNames v115
      clear_value v115
      split
      · apply prsRefuse_keeps
        with_reducible assumption
      · split
        · apply prsReport_keeps
          with_reducible assumption
        · apply jobIo_keeps
          · with_reducible assumption
          · intro _ _
            apply prsReport_keeps
            with_reducible assumption
          · intro _ _
            extract_lets +onlyGivenNames v109
            clear_value v109
            split
            extract_lets +onlyGivenNames v107
            clear_value v107
            split
            apply endEntries_keeps
            refine Keeps.of_fst (by assumption) ?_
            apply deleteEntries_keeps
            refine Keeps.of_snd (by assumption) ?_
            apply drawNat_keeps
            with_reducible assumption
    · with_reducible assumption

theorem filterJob_keeps {s0 : State} : ∀ x0 x1 s3, Keeps s0 s3 → KeepsOut s0 (filterJob x0 x1 s3) := by
  intro x0 x1 s3 h0
  unfold filterJob
  apply prsWork_keeps
  · intro _ _
    intro _
    extract_lets +onlyGivenNames v196
    clear_value v196
    extract_lets +onlyGivenNames v195
    clear_value v195
    extract_lets +onlyGivenNames v194
    clear_value v194
    extract_lets +onlyGivenNames v193
    clear_value v193
    split
    · apply prsRefuse_keeps
      assumption
    · apply Keeps.ite
      · apply prsReport_keeps
        assumption
      · apply prsReport_keeps
        apply setPrs_keeps
        assumption
  · assumption

theorem execFilterSetAll_keeps {s0 : State} : ∀ s1, Keeps s0 s1 → KeepsOut s0 (execFilterSetAll s1) := by
  intro s1 h0
  unfold execFilterSetAll
  apply filterJob_keeps
  assumption

theorem execFilterClearAll_keeps {s0 : State} : ∀ s1, Keeps s0 s1 → KeepsOut s0 (execFilterClearAll s1) := by
  intro s1 h0
  unfold execFilterClearAll
  apply filterJob_keeps
  assumption

theorem execFilterSetRange_keeps {s0 : State} : ∀ s1, Keeps s0 s1 → KeepsOut s0 (execFilterSetRange s1) := by
  intro s1 h0
  unfold execFilterSetRange
  apply filterJob_keeps
  assumption

theorem execFilterClearRange_keeps {s0 : State} : ∀ s1, Keeps s0 s1 → KeepsOut s0 (execFilterClearRange s1) := by
  intro s1 h0
  unfold execFilterClearRange
  apply filterJob_keeps
  assumption

theorem execDefine_keeps {s0 : State} : ∀ s1, Keeps s0 s1 → KeepsOut s0 (execDefine s1) := by
  intro s1 h0
  unfold execDefine
  apply KeepsOut.ite
  · apply KeepsOut.next
    with_reducible assumption
  · apply prsWork_keeps
    · intro _ _
      intro _
      extract_lets +onlyGivenNames v115
      clear_value v115
      extract_lets +onlyGivenNames v114
      clear_value v114
      split
      · apply prsRefuse_keeps
        with_reducible assumption
      · split
        · apply prsReport_keeps
          with_reducible assumption
        · apply jobIo_keeps
          · with_reducible assumption
          · intro _ _
            apply prsReport_keeps
            with_reducible assumption
          · intro _ _
            apply Keeps.ite
            · apply prsReport_keeps
              with_reducible assumption
            · extract_lets +onlyGivenNames v107
              clear_value v107
              apply Keeps.ite
              · apply prsReport_keeps
                with_reducible assumption
              · split
                · apply prsReport_keeps
                  apply addRecord_keeps
                  refine KeepsOpt.of (by assumption) ?_
                  apply appendParts_keeps
                  with_reducible assumption
                · apply prsReport_keeps
                  with_reducible assumption
    · with_reducible assumption

theorem placeFault_keeps {s0 : State} : ∀ s1, Keeps s0 s1 → Keeps s0 (placeFault s1) := by
  intro s1 h0
  unfold placeFault
  split
  · apply Keeps.ite
    · apply endQuery_keeps
      assumption
    · assumption
  · assumption

end Sys2Proof.Machine
end

