-- ==== Sys2Proof/Laws/KeepsRings.lean ====
section
/-! SUPPORT. What the functions of Machine/Rings.lean keep: the queue of commands, the straps, the fuses and the canonical forms. -/

namespace Sys2Proof.Machine

theorem hifErr_keeps {s0 : State} : ∀ s1 x1 x2 x3, Keeps s0 s1 → Keeps s0 (hifErr s1 x1 x2 x3) := by
  intro s1 x1 x2 x3 h0
  unfold hifErr
  extract_lets +onlyGivenNames v200
  have kv200 : Keeps s0 v200 := by
    subst v200
    apply errInfo_keeps
    assumption
  clear_value v200
  apply Keeps.ite
  · apply msixSend_keeps
    assumption
  · assumption

theorem execSqTailDoorbell_keeps {s0 : State} : ∀ x0 x1 s3, Keeps s0 s3 → KeepsOut s0 (execSqTailDoorbell x0 x1 s3) := by
  intro x0 x1 s3 h0
  unfold execSqTailDoorbell
  apply fabric_keeps
  · assumption
  · intro _ _
    apply Keeps.ite
    · apply wf_keeps
      assumption
    · apply hifErr_keeps
      assumption

theorem takeHead_keeps {s0 : State} : ∀ s1 x1 x2, Keeps s0 s1 → Keeps s0 (takeHead s1 x1 x2) := by
  intro s1 x1 x2 h0
  unfold takeHead
  extract_lets +onlyGivenNames v200
  clear_value v200
  extract_lets +onlyGivenNames v199
  clear_value v199
  extract_lets +onlyGivenNames v198
  have kv198 : Keeps s0 v198 := by
    subst v198
    apply setCq_keeps
    apply wf_keeps
    assumption
  clear_value v198
  apply cqEvaluate_keeps
  apply syncFull_keeps
  apply setBits_keeps
  assumption

theorem execCqHeadDoorbell_keeps {s0 : State} : ∀ x0 x1 s3, Keeps s0 s3 → KeepsOut s0 (execCqHeadDoorbell x0 x1 s3) := by
  intro x0 x1 s3 h0
  unfold execCqHeadDoorbell
  apply fabric_keeps
  · assumption
  · intro _ _
    apply Keeps.ite
    · apply takeHead_keeps
      assumption
    · apply hifErr_keeps
      assumption

theorem execCqCoalesceTimer_keeps {s0 : State} : ∀ x0 s2, Keeps s0 s2 → KeepsOut s0 (execCqCoalesceTimer x0 s2) := by
  intro x0 s2 h0
  unfold execCqCoalesceTimer
  apply fabric_keeps
  · assumption
  · intro _ _
    apply Keeps.ite
    · apply cqEvaluate_keeps
      assumption
    · assumption

theorem leaveRuns_keeps {s0 : State} : ∀ s1, Keeps s0 s1 → Keeps s0 (leaveRuns s1) := by
  intro s1 h0
  unfold leaveRuns
  apply Keeps.foldl
  · with_reducible assumption
  · intro _ _
    intro _
    split
    · apply runLeave_keeps
      with_reducible assumption
    · with_reducible assumption

theorem execCompletionHoldRelease_keeps {s0 : State} : ∀ x0 s2, Keeps s0 s2 → KeepsOut s0 (execCompletionHoldRelease x0 s2) := by
  intro x0 s2 h0
  unfold execCompletionHoldRelease
  apply fabric_keeps
  · with_reducible assumption
  · intro _ _
    apply leaveRuns_keeps
    apply releaseHeld_keeps
    with_reducible assumption

theorem fetchEntry_keeps {s0 : State} : ∀ s1 x1, Keeps s0 s1 → Keeps s0 (fetchEntry s1 x1) := by
  intro s1 x1 h0
  unfold fetchEntry
  extract_lets +onlyGivenNames v200
  clear_value v200
  extract_lets +onlyGivenNames v199
  have kv199 : Keeps s0 v199 := by
    subst v199
    refine Keeps.mk_same ?_ rfl rfl rfl rfl rfl rfl rfl rfl rfl rfl rfl rfl rfl
    assumption
  clear_value v199
  extract_lets +onlyGivenNames v198
  have kv198 : Keeps s0 v198 := by
    subst v198
    apply wf_keeps
    assumption
  clear_value v198
  apply syncSq_keeps
  apply bumpWrap_keeps
  assumption

theorem fetchFail_keeps {s0 : State} : ∀ s1 x1, Keeps s0 s1 → Keeps s0 (fetchFail s1 x1) := by
  intro s1 x1 h0
  unfold fetchFail
  apply hifErr_keeps
  apply syncSq_keeps
  apply clrBits_keeps
  assumption

theorem fetchFrom_keeps {s0 : State} : ∀ s1 x1 x2, Keeps s0 s1 → Keeps s0 (fetchFrom s1 x1 x2) := by
  intro s1 x1 x2 h0
  unfold fetchFrom
  extract_lets +onlyGivenNames v120
  clear_value v120
  extract_lets +onlyGivenNames v119
  have kv119 : Keeps s0 v119 := by
    subst v119
    refine Keeps.mk_same ?_ rfl rfl rfl rfl rfl rfl rfl rfl rfl rfl rfl rfl rfl
    with_reducible assumption
  clear_value v119
  apply Keeps.ite
  · apply fetchEntry_keeps
    with_reducible assumption
  · apply fetchFail_keeps
    with_reducible assumption

theorem execDescriptorFetch_keeps {s0 : State} : ∀ x0 x1 x2 s4, Keeps s0 s4 → KeepsOut s0 (execDescriptorFetch x0 x1 x2 s4) := by
  intro x0 x1 x2 s4 h0
  unfold execDescriptorFetch
  apply fabric_keeps
  · with_reducible assumption
  · intro _ _
    split
    · apply fetchFrom_keeps
      with_reducible assumption
    · with_reducible assumption

theorem enableSq_keeps {s0 : State} : ∀ s1 x1 x2, Keeps s0 s1 → Keeps s0 (enableSq s1 x1 x2) := by
  intro s1 x1 x2 h0
  unfold enableSq
  apply syncSq_keeps
  apply wf_keeps
  apply wf_keeps
  apply wr_keeps
  assumption

theorem execSqConfigWrite_keeps {s0 : State} : ∀ x0 x1 s3, Keeps s0 s3 → KeepsOut s0 (execSqConfigWrite x0 x1 s3) := by
  intro x0 x1 s3 h0
  unfold execSqConfigWrite
  apply fabric_keeps
  · assumption
  · intro _ _
    extract_lets +onlyGivenNames v197
    clear_value v197
    extract_lets +onlyGivenNames v196
    clear_value v196
    extract_lets +onlyGivenNames v195
    clear_value v195
    apply Keeps.ite
    · apply Keeps.ite
      · apply hifErr_keeps
        assumption
      · apply syncSq_keeps
        apply wr_keeps
        assumption
    · apply Keeps.ite
      · apply wr_keeps
        assumption
      · apply Keeps.ite
        · apply hifErr_keeps
          assumption
        · apply Keeps.ite
          · apply enableSq_keeps
            assumption
          · apply hifErr_keeps
            assumption

theorem enableCq_keeps {s0 : State} : ∀ s1 x1 x2, Keeps s0 s1 → Keeps s0 (enableCq s1 x1 x2) := by
  intro s1 x1 x2 h0
  unfold enableCq
  extract_lets +onlyGivenNames v200
  have kv200 : Keeps s0 v200 := by
    subst v200
    apply wr_keeps
    apply wr_keeps
    apply wr_keeps
    assumption
  clear_value v200
  apply syncFull_keeps
  apply setCq_keeps
  assumption

theorem execCqConfigWrite_keeps {s0 : State} : ∀ x0 x1 s3, Keeps s0 s3 → KeepsOut s0 (execCqConfigWrite x0 x1 s3) := by
  intro x0 x1 s3 h0
  unfold execCqConfigWrite
  apply fabric_keeps
  · assumption
  · intro _ _
    extract_lets +onlyGivenNames v197
    clear_value v197
    extract_lets +onlyGivenNames v196
    clear_value v196
    extract_lets +onlyGivenNames v195
    clear_value v195
    apply Keeps.ite
    · apply Keeps.ite
      · apply hifErr_keeps
        assumption
      · extract_lets +onlyGivenNames v192
        have kv192 : Keeps s0 v192 := by
          subst v192
          apply clrBits_keeps
          apply wr_keeps
          assumption
        clear_value v192
        apply releaseHeld_keeps
        assumption
    · apply Keeps.ite
      · apply wr_keeps
        assumption
      · apply Keeps.ite
        · apply enableCq_keeps
          assumption
        · apply hifErr_keeps
          assumption

theorem outRingWrite_keeps {s0 : State} : ∀ s1 x1 x2 x3 x4 x5 x6, Keeps s0 s1 → Keeps s0 (outRingWrite s1 x1 x2 x3 x4 x5 x6) := by
  intro s1 x1 x2 x3 x4 x5 x6 h0
  unfold outRingWrite
  extract_lets +onlyGivenNames v200
  clear_value v200
  apply Keeps.ite
  · apply Keeps.ite
    · apply hifErr_keeps
      assumption
    · apply wr_keeps
      assumption
  · apply Keeps.ite
    · apply wr_keeps
      assumption
    · apply Keeps.ite
      · apply wr_keeps
        assumption
      · apply hifErr_keeps
        assumption

theorem execPoseRingConfigWrite_keeps {s0 : State} : ∀ x0 s2, Keeps s0 s2 → KeepsOut s0 (execPoseRingConfigWrite x0 s2) := by
  intro x0 s2 h0
  unfold execPoseRingConfigWrite
  apply fabric_keeps
  · assumption
  · intro _ _
    apply outRingWrite_keeps
    assumption

theorem execEvtRingConfigWrite_keeps {s0 : State} : ∀ x0 s2, Keeps s0 s2 → KeepsOut s0 (execEvtRingConfigWrite x0 s2) := by
  intro x0 s2 h0
  unfold execEvtRingConfigWrite
  apply fabric_keeps
  · assumption
  · intro _ _
    apply outRingWrite_keeps
    assumption

theorem unmaskVec_keeps {s0 : State} : ∀ s1 x1, Keeps s0 s1 → Keeps s0 (unmaskVec s1 x1) := by
  intro s1 x1 h0
  unfold unmaskVec
  extract_lets +onlyGivenNames v200
  have kv200 : Keeps s0 v200 := by
    subst v200
    apply clrBits_keeps
    assumption
  clear_value v200
  apply Keeps.ite
  · apply msixSend_keeps
    apply clrBits_keeps
    assumption
  · assumption

theorem execMsixUnmask_keeps {s0 : State} : ∀ x0 s2, Keeps s0 s2 → KeepsOut s0 (execMsixUnmask x0 s2) := by
  intro x0 s2 h0
  unfold execMsixUnmask
  apply fabric_keeps
  · assumption
  · intro _ _
    apply unmaskVec_keeps
    assumption

theorem windowRead_keeps {s0 : State} : ∀ s1 x1 x2, Keeps s0 s1 → Keeps s0 (windowRead s1 x1 x2) := by
  intro s1 x1 x2 h0
  unfold windowRead
  apply Keeps.ite
  · split
    refine Keeps.mk_same ?_ rfl rfl rfl rfl rfl rfl rfl rfl rfl rfl rfl rfl rfl
    refine Keeps.of_snd (by assumption) ?_
    apply drawNat_keeps
    apply glideErr_keeps
    with_reducible assumption
  · extract_lets +onlyGivenNames v119
    have kv119 : Keeps s0 v119 := by
      subst v119
      apply noteReads_keeps
      with_reducible assumption
    clear_value v119
    refine Keeps.mk_same ?_ rfl rfl rfl rfl rfl rfl rfl rfl rfl rfl rfl rfl rfl
    with_reducible assumption

theorem execBar4Access_keeps {s0 : State} : ∀ x0 x1 s3, Keeps s0 s3 → KeepsOut s0 (execBar4Access x0 x1 s3) := by
  intro x0 x1 s3 h0
  unfold execBar4Access
  apply fabric_keeps
  · assumption
  · intro _ _
    extract_lets +onlyGivenNames v117
    have kv117 : ∀ z0, Keeps s0 z0 → Keeps s0 (v117 z0) := by
      subst v117
      intro _ _
      beta_reduce
      split
      · refine Keeps.mk_same ?_ rfl rfl rfl rfl rfl rfl rfl rfl rfl rfl rfl rfl rfl
        assumption
      · assumption
    clear_value v117
    extract_lets +onlyGivenNames v116
    clear_value v116
    apply Keeps.ite
    · assumption
    · apply Keeps.ite
      · apply glbErr_keeps
        apply kv117
        assumption
      · apply Keeps.ite
        · apply hifErr_keeps
          apply kv117
          assumption
        · split
          · apply windowRead_keeps
            assumption
          · apply stBytes_keeps
            assumption

theorem dropDescWaits_keeps {s0 : State} : ∀ s1, Keeps s0 s1 → Keeps s0 (dropDescWaits s1) := by
  intro s1 h0
  unfold dropDescWaits
  apply Keeps.foldl
  · assumption
  · intro _ _
    intro _
    apply dropWaits_keeps
    assumption

theorem hifReset_keeps {s0 : State} : ∀ s1, Keeps s0 s1 → Keeps s0 (hifReset s1) := by
  intro s1 h0
  unfold hifReset
  apply bumpN_keeps
  apply wr_keeps
  refine (dropDescWaits_keeps _ h0).step rfl rfl rfl (Nat.le_refl _) (Nat.le_refl _) (fun _ e => e) fun i => ?_
  exact ⟨i.mem, tabWf_filter resetVal _ _ i.regs, i.sems, i.mram, i.nor, i.queue, i.svn, i.vr, i.held⟩

theorem execPcieReset_keeps {s0 : State} : ∀ x0 s2, Keeps s0 s2 → KeepsOut s0 (execPcieReset x0 s2) := by
  intro x0 s2 h0
  unfold execPcieReset
  extract_lets +onlyGivenNames v200
  clear_value v200
  extract_lets +onlyGivenNames v199
  have kv199 : Keeps s0 v199 := by
    subst v199
    split
    · refine Keeps.mk_same ?_ rfl rfl rfl rfl rfl rfl rfl rfl rfl rfl rfl rfl rfl
      assumption
    · assumption
    · assumption
  clear_value v199
  apply KeepsOut.next
  apply Keeps.ite
  · apply raiseEdge_keeps
    apply hifReset_keeps
    assumption
  · assumption

theorem execPerstRelease_keeps {s0 : State} : ∀ s1, Keeps s0 s1 → KeepsOut s0 (execPerstRelease s1) := by
  intro s1 h0
  unfold execPerstRelease
  apply KeepsOut.next
  refine Keeps.mk_same ?_ rfl rfl rfl rfl rfl rfl rfl rfl rfl rfl rfl rfl rfl
  assumption

theorem execLinkUp_keeps {s0 : State} : ∀ x0 x1 s3, Keeps s0 s3 → KeepsOut s0 (execLinkUp x0 x1 s3) := by
  intro x0 x1 s3 h0
  unfold execLinkUp
  apply fabric_keeps
  · assumption
  · intro _ _
    apply Keeps.ite
    · assumption
    · extract_lets +onlyGivenNames v196
      clear_value v196
      apply wf_keeps
      apply wf_keeps
      apply setBits_keeps
      assumption

end Sys2Proof.Machine
end

