-- ==== Sys2Proof/Laws/KeepsDescriptors.lean ====
section
/-! SUPPORT. What the functions of Machine/Descriptors.lean keep: the queue of commands, the straps, the fuses and the canonical forms. -/

namespace Sys2Proof.Machine

theorem endDesc_keeps {s0 : State} : ∀ s1 x1 x2 x3, Keeps s0 s1 → Keeps s0 (endDesc s1 x1 x2 x3) := by
  intro s1 x1 x2 x3 h0
  unfold endDesc
  apply syncSq_keeps
  apply finish_keeps
  assumption

theorem stageDesc_keeps {s0 : State} : ∀ s1 x1 x2, Keeps s0 s1 → Keeps s0 (stageDesc s1 x1 x2) := by
  intro s1 x1 x2 h0
  unfold stageDesc
  apply syncSq_keeps
  apply setDesc_keeps
  assumption

theorem waitStep_keeps {s0 : State} : ∀ s1 x1, Keeps s0 s1 → Keeps s0 (waitStep s1 x1) := by
  intro s1 x1 h0
  unfold waitStep
  apply Keeps.ite
  · apply stageDesc_keeps
    assumption
  · extract_lets +onlyGivenNames v199
    clear_value v199
    apply stageDesc_keeps
    apply startWait_keeps
    assumption

theorem gateStep_keeps {s0 : State} : ∀ s1 x1, Keeps s0 s1 → Keeps s0 (gateStep s1 x1) := by
  intro s1 x1 h0
  unfold gateStep
  apply Keeps.ite
  · apply waitStep_keeps
    with_reducible assumption
  · apply Keeps.ite
    · apply stageDesc_keeps
      apply setDesc_keeps
      with_reducible assumption
    · apply endDesc_keeps
      with_reducible assumption

theorem fenceStep_keeps {s0 : State} : ∀ s1 x1, Keeps s0 s1 → Keeps s0 (fenceStep s1 x1) := by
  intro s1 x1 h0
  unfold fenceStep
  apply Keeps.ite
  · apply stageDesc_keeps
    assumption
  · apply gateStep_keeps
    assumption

theorem checkStep_keeps {s0 : State} : ∀ s1 x1, Keeps s0 s1 → Keeps s0 (checkStep s1 x1) := by
  intro s1 x1 h0
  unfold checkStep
  split
  · apply endDesc_keeps
    apply setDesc_keeps
    assumption
  · apply fenceStep_keeps
    assumption

theorem takeOutcome_keeps {s0 : State} : ∀ s1 x1, Keeps s0 s1 → Keeps s0 (takeOutcome s1 x1).2 := by
  intro s1 x1 h0
  unfold takeOutcome
  split
  · dsimp only
    refine Keeps.mk_same ?_ rfl rfl rfl rfl rfl rfl rfl rfl rfl rfl rfl rfl rfl
    assumption
  · assumption

theorem waitDone_keeps {s0 : State} : ∀ s1 x1, Keeps s0 s1 → Keeps s0 (waitDone s1 x1) := by
  intro s1 x1 h0
  unfold waitDone
  split
  · apply stageDesc_keeps
    refine Keeps.of_snd (by assumption) ?_
    apply takeOutcome_keeps
    assumption
  · apply endDesc_keeps
    refine Keeps.of_snd (by assumption) ?_
    apply takeOutcome_keeps
    assumption
  · refine Keeps.of_snd (by assumption) ?_
    apply takeOutcome_keeps
    assumption

theorem dispatchSq_keeps {s0 : State} : ∀ s1 x1, Keeps s0 s1 → Keeps s0 (dispatchSq s1 x1) := by
  intro s1 x1 h0
  unfold dispatchSq
  split
  · with_reducible assumption
  · split
    · apply checkStep_keeps
      with_reducible assumption
    · apply fenceStep_keeps
      with_reducible assumption
    · apply Keeps.ite
      · apply endDesc_keeps
        with_reducible assumption
      · with_reducible assumption
    · apply waitStep_keeps
      with_reducible assumption
    · apply waitDone_keeps
      with_reducible assumption
    · with_reducible assumption

theorem execDescriptorDispatch_keeps {s0 : State} : ∀ x0 x1 s3, Keeps s0 s3 → KeepsOut s0 (execDescriptorDispatch x0 x1 s3) := by
  intro x0 x1 s3 h0
  unfold execDescriptorDispatch
  apply fabric_keeps
  · with_reducible assumption
  · intro _ _
    split
    · apply dispatchSq_keeps
      refine Keeps.mk_same ?_ rfl rfl rfl rfl rfl rfl rfl rfl rfl rfl rfl rfl rfl
      with_reducible assumption
    · with_reducible assumption

theorem execDescriptorDeadline_keeps {s0 : State} : ∀ x0 s2, Keeps s0 s2 → KeepsOut s0 (execDescriptorDeadline x0 s2) := by
  intro x0 s2 h0
  unfold execDescriptorDeadline
  apply fabric_keeps
  · assumption
  · intro _ _
    split
    · assumption
    · apply Keeps.ite
      · apply waitDone_keeps
        assumption
      · apply Keeps.ite
        · apply endDesc_keeps
          assumption
        · assumption

theorem signalStep_keeps {s0 : State} : ∀ s1 x1, Keeps s0 s1 → Keeps s0 (signalStep s1 x1) := by
  intro s1 x1 h0
  unfold signalStep
  extract_lets +onlyGivenNames v200
  have kv200 : Keeps s0 v200 := by
    subst v200
    apply Keeps.ite
    · apply signal_keeps
      assumption
    · assumption
  clear_value v200
  apply setDesc_keeps
  assumption

theorem leaveStep_keeps {s0 : State} : ∀ s1 x1, Keeps s0 s1 → Keeps s0 (leaveStep s1 x1) := by
  intro s1 x1 h0
  unfold leaveStep
  extract_lets +onlyGivenNames v120
  have kv120 : ∀ z0, Keeps s0 z0 → Keeps s0 (v120 z0) := by
    subst v120
    intro _ _
    beta_reduce
    refine Keeps.mk_same ?_ rfl rfl rfl rfl rfl rfl rfl rfl rfl rfl rfl rfl rfl
    assumption
  clear_value v120
  apply Keeps.ite
  · apply syncSq_keeps
    apply bump_keeps
    apply kv120
    assumption
  · apply Keeps.ite
    · apply syncSq_keeps
      apply postCompletion_keeps
      apply kv120
      assumption
    · apply syncSq_keeps
      assumption

theorem execDescriptorComplete_keeps {s0 : State} : ∀ x0 s2, Keeps s0 s2 → KeepsOut s0 (execDescriptorComplete x0 s2) := by
  intro x0 s2 h0
  unfold execDescriptorComplete
  apply fabric_keeps
  · assumption
  · intro _ _
    split
    · assumption
    · apply Keeps.ite
      · apply leaveStep_keeps
        apply signalStep_keeps
        assumption
      · apply Keeps.ite
        · apply leaveStep_keeps
          assumption
        · assumption

theorem onDesc_keeps {s0 : State} : ∀ s1 x1 x2 f3, Keeps s0 s1 → (∀ y0, Keeps s0 (f3 y0)) → KeepsOut s0 (onDesc s1 x1 x2 f3) := by
  intro s1 x1 x2 f3 h0 h1
  unfold onDesc
  apply fabric_keeps
  · assumption
  · intro _ _
    split
    · apply h1
    · assumption

theorem execNop_keeps {s0 : State} : ∀ x0 s2, Keeps s0 s2 → KeepsOut s0 (execNop x0 s2) := by
  intro x0 s2 h0
  unfold execNop
  apply onDesc_keeps
  · assumption
  · intro _
    apply endDesc_keeps
    assumption

theorem configOp_keeps {s0 : State} : ∀ s1 x1 x2 x3 x4 x5 f6, Keeps s0 s1 → (∀ y0, Keeps s0 (f6 y0)) → Keeps s0 (configOp s1 x1 x2 x3 x4 x5 f6) := by
  intro s1 x1 x2 x3 x4 x5 f6 h0 h1
  unfold configOp
  extract_lets +onlyGivenNames v120
  clear_value v120
  apply Keeps.ite
  · apply Keeps.ite
    · apply endDesc_keeps
      apply h1
    · apply endDesc_keeps
      assumption
  · apply Keeps.ite
    · assumption
    · apply endDesc_keeps
      assumption

theorem execConfigPtpAsym_keeps {s0 : State} : ∀ x0 s2, Keeps s0 s2 → KeepsOut s0 (execConfigPtpAsym x0 s2) := by
  intro x0 s2 h0
  unfold execConfigPtpAsym
  apply onDesc_keeps
  · assumption
  · intro _
    apply configOp_keeps
    · assumption
    · intro _
      refine Keeps.mk_same ?_ rfl rfl rfl rfl rfl rfl rfl rfl rfl rfl rfl rfl rfl
      assumption

theorem execConfigPtpAnnTmo_keeps {s0 : State} : ∀ x0 s2, Keeps s0 s2 → KeepsOut s0 (execConfigPtpAnnTmo x0 s2) := by
  intro x0 s2 h0
  unfold execConfigPtpAnnTmo
  apply onDesc_keeps
  · assumption
  · intro _
    apply configOp_keeps
    · assumption
    · intro _
      refine Keeps.mk_same ?_ rfl rfl rfl rfl rfl rfl rfl rfl rfl rfl rfl rfl rfl
      assumption

theorem execLaunch_keeps {s0 : State} : ∀ x0 s2, Keeps s0 s2 → KeepsOut s0 (execLaunch x0 s2) := by
  intro x0 s2 h0
  unfold execLaunch
  apply onDesc_keeps
  · with_reducible assumption
  · intro _
    extract_lets +onlyGivenNames v118
    clear_value v118
    apply Keeps.ite
    · apply endDesc_keeps
      with_reducible assumption
    · split
      · apply createRun_keeps
        apply stageDesc_keeps
        with_reducible assumption
      · apply endDesc_keeps
        apply fgsErr_keeps
        with_reducible assumption
      · apply endDesc_keeps
        apply launchOverrun_keeps
        with_reducible assumption

theorem execAbort_keeps {s0 : State} : ∀ x0 s2, Keeps s0 s2 → KeepsOut s0 (execAbort x0 s2) := by
  intro x0 s2 h0
  unfold execAbort
  apply onDesc_keeps
  · assumption
  · intro _
    extract_lets +onlyGivenNames v118
    clear_value v118
    apply Keeps.ite
    · apply endDesc_keeps
      assumption
    · apply Keeps.ite
      · apply endDesc_keeps
        apply fgsErr_keeps
        assumption
      · split
        apply endDesc_keeps
        refine Keeps.of_fst (by assumption) ?_
        apply abortGraph_keeps
        apply stageDesc_keeps
        assumption

theorem writeArm_keeps {s0 : State} : ∀ s1 x1, Keeps s0 s1 → Keeps s0 (writeArm s1 x1) := by
  intro s1 x1 h0
  unfold writeArm
  extract_lets +onlyGivenNames v120
  clear_value v120
  extract_lets +onlyGivenNames v119
  clear_value v119
  extract_lets +onlyGivenNames v118
  clear_value v118
  extract_lets +onlyGivenNames v117
  clear_value v117
  extract_lets +onlyGivenNames v116
  have kv116 : Keeps s0 v116 := by
    subst v116
    apply wr_keeps
    with_reducible assumption
  clear_value v116
  extract_lets +onlyGivenNames v115
  have kv115 : Keeps s0 v115 := by
    subst v115
    apply wr_keeps
    apply wr_keeps
    apply wr_keeps
    with_reducible assumption
  clear_value v115
  apply wr_keeps
  apply wr_keeps
  with_reducible assumption

theorem execArm_keeps {s0 : State} : ∀ x0 s2, Keeps s0 s2 → KeepsOut s0 (execArm x0 s2) := by
  intro x0 s2 h0
  unfold execArm
  apply onDesc_keeps
  · with_reducible assumption
  · intro _
    extract_lets +onlyGivenNames v118
    clear_value v118
    apply Keeps.ite
    · apply endDesc_keeps
      with_reducible assumption
    · split
      · apply endDesc_keeps
        refine Keeps.of_fst (by assumption) ?_
        apply armGate_keeps
        apply writeArm_keeps
        with_reducible assumption
      · apply endDesc_keeps
        refine Keeps.of_fst (by assumption) ?_
        apply armGate_keeps
        apply writeArm_keeps
        with_reducible assumption
      · apply endDesc_keeps
        refine Keeps.of_fst (by assumption) ?_
        apply armGate_keeps
        apply writeArm_keeps
        with_reducible assumption

theorem execDisarm_keeps {s0 : State} : ∀ x0 x1 s3, Keeps s0 s3 → KeepsOut s0 (execDisarm x0 x1 s3) := by
  intro x0 x1 s3 h0
  unfold execDisarm
  apply onDesc_keeps
  · with_reducible assumption
  · intro _
    extract_lets +onlyGivenNames v118
    clear_value v118
    apply Keeps.ite
    · apply endDesc_keeps
      with_reducible assumption
    · apply Keeps.ite
      · apply endDesc_keeps
        with_reducible assumption
      · split
        apply endDesc_keeps
        refine Keeps.of_fst (by assumption) ?_
        apply disarmIn_keeps
        with_reducible assumption

theorem toQueue_keeps {s0 : State} : ∀ s1 x1 x2 x3 x4, Keeps s0 s1 → Keeps s0 (toQueue s1 x1 x2 x3 x4) := by
  intro s1 x1 x2 x3 x4 h0
  unfold toQueue
  apply Keeps.ite
  · apply stageDesc_keeps
    assumption
  · extract_lets +onlyGivenNames v199
    clear_value v199
    apply setQueue_keeps
    apply stageDesc_keeps
    assumption

theorem execDescCopy_keeps {s0 : State} : ∀ x0 s2, Keeps s0 s2 → KeepsOut s0 (execDescCopy x0 s2) := by
  intro x0 s2 h0
  unfold execDescCopy
  apply onDesc_keeps
  · assumption
  · intro _
    extract_lets +onlyGivenNames v198
    clear_value v198
    extract_lets +onlyGivenNames v197
    clear_value v197
    extract_lets +onlyGivenNames v196
    clear_value v196
    apply Keeps.ite
    · apply endDesc_keeps
      assumption
    · apply Keeps.ite
      · apply toQueue_keeps
        assumption
      · apply Keeps.ite
        · apply toQueue_keeps
          assumption
        · apply endDesc_keeps
          assumption

theorem execDescSolve_keeps {s0 : State} : ∀ x0 s2, Keeps s0 s2 → KeepsOut s0 (execDescSolve x0 s2) := by
  intro x0 s2 h0
  unfold execDescSolve
  apply onDesc_keeps
  · assumption
  · intro _
    apply Keeps.ite
    · apply endDesc_keeps
      assumption
    · apply toQueue_keeps
      assumption

theorem execDescPrs_keeps {s0 : State} : ∀ x0 s2, Keeps s0 s2 → KeepsOut s0 (execDescPrs x0 s2) := by
  intro x0 s2 h0
  unfold execDescPrs
  apply onDesc_keeps
  · assumption
  · intro _
    apply toQueue_keeps
    assumption

theorem execDescMst_keeps {s0 : State} : ∀ x0 s2, Keeps s0 s2 → KeepsOut s0 (execDescMst x0 s2) := by
  intro x0 s2 h0
  unfold execDescMst
  apply onDesc_keeps
  · assumption
  · intro _
    apply toQueue_keeps
    assumption

end Sys2Proof.Machine
end

