-- ==== Sys2Proof/Laws/KeepsSecurity.lean ====
section
/-! SUPPORT. What the functions of Machine/Security.lean keep: the queue of commands, the straps, the fuses and the canonical forms. -/

namespace Sys2Proof.Machine

theorem secRec_keeps {s0 : State} : ∀ s1 x1 x2 x3, Keeps s0 s1 → Keeps s0 (secRec s1 x1 x2 x3) := by
  intro s1 x1 x2 x3 h0
  unfold secRec
  apply bbx_keeps
  assumption

theorem secEvent_keeps {s0 : State} : ∀ s1 x1, Keeps s0 s1 → Keeps s0 (secEvent s1 x1) := by
  intro s1 x1 h0
  unfold secEvent
  apply setBits_keeps
  assumption

theorem authFail_keeps {s0 : State} : ∀ s1 x1 x2 x3, Keeps s0 s1 → Keeps s0 (authFail s1 x1 x2 x3) := by
  intro s1 x1 x2 x3 h0
  unfold authFail
  extract_lets +onlyGivenNames v200
  have kv200 : Keeps s0 v200 := by
    subst v200
    apply secEvent_keeps
    apply bump_keeps
    assumption
  clear_value v200
  extract_lets +onlyGivenNames v199
  have kv199 : Keeps s0 v199 := by
    subst v199
    apply wr_keeps
    assumption
  clear_value v199
  apply secRec_keeps
  assumption

theorem execSecLockWrite_keeps {s0 : State} : ∀ x0 s2, Keeps s0 s2 → KeepsOut s0 (execSecLockWrite x0 s2) := by
  intro x0 s2 h0
  unfold execSecLockWrite
  apply fabric_keeps
  · assumption
  · intro _ _
    apply Keeps.ite
    · assumption
    · apply Keeps.ite
      · apply setBits_keeps
        assumption
      · extract_lets +onlyGivenNames v195
        have kv195 : Keeps s0 v195 := by
          subst v195
          apply setBits_keeps
          apply setBits_keeps
          assumption
        clear_value v195
        apply Keeps.ite
        · assumption
        · apply secRec_keeps
          apply secEvent_keeps
          assumption

theorem execSvnCommitFw_keeps {s0 : State} : ∀ x0 s2, Keeps s0 s2 → KeepsOut s0 (execSvnCommitFw x0 s2) := by
  intro v s h0
  unfold execSvnCommitFw
  apply fabric_keeps
  · exact h0
  · intro t ht
    split
    · exact ht
    · extract_lets n
      split
      · exact setBits_keeps _ _ _ ht
      · next hc =>
        simp only [Bool.or_eq_true, decide_eq_true_eq, not_or, Nat.not_le, Nat.not_lt] at hc
        apply secRec_keeps
        apply wr_keeps
        refine ht.step rfl rfl rfl (Nat.le_of_lt hc.1.2) (Nat.le_refl _) (fun _ e => e) fun i => ?_
        exact ⟨i.mem, i.regs, i.sems, i.mram, i.nor, i.queue, hc.2, i.vr, i.held⟩

theorem execSvnCommitVr_keeps {s0 : State} : ∀ x0 s2, Keeps s0 s2 → KeepsOut s0 (execSvnCommitVr x0 s2) := by
  intro v s h0
  unfold execSvnCommitVr
  apply fabric_keeps
  · exact h0
  · intro t ht
    split
    · exact ht
    · extract_lets n
      split
      · exact setBits_keeps _ _ _ ht
      · next hc =>
        simp only [Bool.or_eq_true, decide_eq_true_eq, not_or, Nat.not_le, Nat.not_lt] at hc
        apply secRec_keeps
        apply wr_keeps
        refine ht.step rfl rfl rfl (Nat.le_refl _) (Nat.le_of_lt hc.1.2) (fun _ e => e) fun i => ?_
        exact ⟨i.mem, i.regs, i.sems, i.mram, i.nor, i.queue, i.svn, hc.2, i.held⟩

end Sys2Proof.Machine
end

