-- ==== Sys2Proof/Laws/KeepsLoad.lean ====
section
/-! SUPPORT. What the functions of Machine/Load.lean keep: the queue of commands, the straps, the fuses and the canonical forms. -/

namespace Sys2Proof.Machine

theorem parkTiles_keeps {s0 : State} : ∀ s1 x1, Keeps s0 s1 → Keeps s0 (parkTiles s1 x1) := by
  intro s1 x1 h0
  unfold parkTiles
  extract_lets +onlyGivenNames v120
  clear_value v120
  refine Keeps.mk_same ?_ rfl rfl rfl rfl rfl rfl rfl rfl rfl rfl rfl rfl rfl
  with_reducible assumption

theorem placeSlots_keeps {s0 : State} : ∀ x0 x1 x2 x3 x4 s6, Keeps s0 s6 → Keeps s0 (placeSlots x0 x1 x2 x3 x4 s6).1 := by
  intro c n top m
  induction m with
  | zero => intro k s h; exact h
  | succ m ih =>
    intro k s h
    unfold placeSlots
    split
    · exact ih _ _ (wr_keeps _ _ _ (setTtState_keeps _ _ _ (Keeps.ite h (wr_keeps _ _ _ h))))
    · exact ih _ _ h

theorem unpark_keeps {s0 : State} : ∀ s1 x1, Keeps s0 s1 → Keeps s0 (unpark s1 x1) := by
  intro s1 x1 h0
  unfold unpark
  apply Keeps.ite
  · extract_lets +onlyGivenNames v199
    clear_value v199
    extract_lets +onlyGivenNames v198
    have kv198 : Keeps s0 v198 := by
      subst v198
      refine Keeps.mk_same ?_ rfl rfl rfl rfl rfl rfl rfl rfl rfl rfl rfl rfl rfl
      assumption
    clear_value v198
    split
    · extract_lets +onlyGivenNames v196
      have kv196 : Keeps s0 v196 := by
        subst v196
        split
        · extract_lets +onlyGivenNames v194
          clear_value v194
          apply finishMove_keeps
          apply evacuate_keeps
          assumption
        · assumption
      clear_value v196
      apply setTtState_keeps
      assumption
    · assumption
  · assumption

theorem planEntries_keeps {s0 : State} : ∀ x0 x1 x2 x3 s5, Keeps s0 s5 → Keeps s0 (planEntries x0 x1 x2 x3 s5).2 := by
  intro x0 x1 x2 x3 s5 h0
  fun_induction planEntries x0 x1 x2 x3 s5
  · with_reducible assumption
  · apply_assumption
    refine Keeps.of_snd (by assumption) ?_
    apply checkEntry_keeps
    with_reducible assumption
  · dsimp only
    refine Keeps.of_snd (by assumption) ?_
    apply checkEntry_keeps
    with_reducible assumption

theorem planOk_keeps {s0 : State} : ∀ x0 x1 s3 x3, Keeps s0 s3 → Keeps s0 (planOk x0 x1 s3 x3).2 := by
  intro x0 x1 s3 x3 h0
  unfold planOk
  split
  · apply planEntries_keeps
    assumption
  · assumption

theorem plansOk_keeps {s0 : State} : ∀ x0 x1 x2 s4, Keeps s0 s4 → Keeps s0 (plansOk x0 x1 x2 s4).2 := by
  intro x0 x1 x2 s4 h0
  fun_induction plansOk x0 x1 x2 s4
  · with_reducible assumption
  · apply_assumption
    refine Keeps.of_snd (by assumption) ?_
    apply planOk_keeps
    with_reducible assumption
  · dsimp only
    refine Keeps.of_snd (by assumption) ?_
    apply planOk_keeps
    with_reducible assumption

theorem placeData_keeps {s0 : State} : ∀ s1 x1, Keeps s0 s1 → Keeps s0 (placeData s1 x1) := by
  intro s1 x1 h0
  unfold placeData
  apply Keeps.foldl
  · assumption
  · intro _ _
    intro _
    apply stBytes_keeps
    assumption

theorem putGraph_keeps {s0 : State} : ∀ s1 x1, Keeps s0 s1 → Keeps s0 (putGraph s1 x1) := by
  intro s1 x1 h0
  unfold putGraph
  extract_lets +onlyGivenNames v200
  clear_value v200
  apply wr_keeps
  refine Keeps.mk_same ?_ rfl rfl rfl rfl rfl rfl rfl rfl rfl rfl rfl rfl rfl
  assumption

theorem putSched_keeps {s0 : State} : ∀ x0 s2 x2, Keeps s0 s2 → Keeps s0 (putSched x0 s2 x2) := by
  intro x0 s2 x2 h0
  unfold putSched
  apply setSched_keeps
  assumption

theorem putSolve_keeps {s0 : State} : ∀ x0 s2 x2, Keeps s0 s2 → Keeps s0 (putSolve x0 s2 x2) := by
  intro x0 s2 x2 h0
  unfold putSolve
  refine Keeps.mk_same ?_ rfl rfl rfl rfl rfl rfl rfl rfl rfl rfl rfl rfl rfl
  assumption

theorem putWindows_keeps {s0 : State} : ∀ s1 x1 x2 x3, Keeps s0 s1 → Keeps s0 (putWindows s1 x1 x2 x3) := by
  intro s1 x1 x2 x3 h0
  unfold putWindows
  apply Keeps.foldl
  · assumption
  · intro _ _
    intro _
    apply wr_keeps
    assumption

theorem placePackage_keeps {s0 : State} : ∀ s1 x1 x2, Keeps s0 s1 → Keeps s0 (placePackage s1 x1 x2).1 := by
  intro s1 x1 x2 h0
  unfold placePackage
  extract_lets +onlyGivenNames v120
  have kv120 : Keeps s0 v120 := by
    subst v120
    apply Keeps.foldl
    · apply putWindows_keeps
      apply parkTiles_keeps
      with_reducible assumption
    · intro _ _
      intro _
      apply unpark_keeps
      with_reducible assumption
  clear_value v120
  split
  dsimp only
  refine Keeps.of_fst (by assumption) ?_
  apply placeSlots_keeps
  with_reducible assumption

theorem grant_keeps {s0 : State} : ∀ s1 x1 x2 x3 x4, Keeps s0 s1 → Keeps s0 (grant s1 x1 x2 x3 x4) := by
  intro s1 x1 x2 x3 x4 h0
  unfold grant
  extract_lets +onlyGivenNames v120
  clear_value v120
  extract_lets +onlyGivenNames v119
  clear_value v119
  extract_lets +onlyGivenNames v118
  clear_value v118
  extract_lets +onlyGivenNames v117
  have kv117 : Keeps s0 v117 := by
    subst v117
    apply wr_keeps
    refine Keeps.mk_same ?_ rfl rfl rfl rfl rfl rfl rfl rfl rfl rfl rfl rfl rfl
    with_reducible assumption
  clear_value v117
  extract_lets +onlyGivenNames v116
  have kv116 : Keeps s0 v116 := by
    subst v116
    apply Keeps.foldl
    · with_reducible assumption
    · intro _ _
      intro _
      apply putGraph_keeps
      with_reducible assumption
  clear_value v116
  extract_lets +onlyGivenNames v115
  have kv115 : Keeps s0 v115 := by
    subst v115
    apply Keeps.foldl
    · apply Keeps.foldl
      · with_reducible assumption
      · intro _ _
        intro _
        apply putSched_keeps
        with_reducible assumption
    · intro _ _
      intro _
      apply putSolve_keeps
      with_reducible assumption
  clear_value v115
  extract_lets +onlyGivenNames v114
  clear_value v114
  extract_lets +onlyGivenNames v113
  have kv113 : Keeps s0 v113 := by
    subst v113
    apply Keeps.ite
    · with_reducible assumption
    · refine Keeps.mk_same ?_ rfl rfl rfl rfl rfl rfl rfl rfl rfl rfl rfl rfl rfl
      with_reducible assumption
  clear_value v113
  apply setSec_keeps
  · intro _
    exact ⟨rfl, rfl, rfl, rfl⟩
  · apply placeData_keeps
    with_reducible assumption

theorem goodContent_keeps {s0 : State} : ∀ x0 x1, Keeps s0 x1.1 → Keeps s0 (goodContent x0 x1).2 := by
  intro c x h
  unfold goodContent
  exact plansOk_keeps _ _ _ _ h

theorem loadPhases_keeps {s0 : State} : ∀ s1 x1 x2 x3, Keeps s0 s1 → Keeps s0 (loadPhases s1 x1 x2 x3).1 := by
  intro s1 x1 x2 x3 h0
  unfold loadPhases
  extract_lets +onlyGivenNames v120
  have kv120 : Keeps s0 v120.1 := by
    subst v120
    apply placePackage_keeps
    with_reducible assumption
  clear_value v120
  split
  split
  · dsimp only
    apply wr_keeps
    apply wr_keeps
    with_reducible assumption
  · split
    · with_reducible assumption
    · split
      · with_reducible assumption
      · dsimp only
        apply grant_keeps
        with_reducible assumption

theorem execLoad_keeps {s0 : State} : ∀ x0 x1 s3, Keeps s0 s3 → KeepsOut s0 (execLoad x0 x1 s3) := by
  intro x0 x1 s3 h0
  unfold execLoad
  apply onDesc_keeps
  · with_reducible assumption
  · intro _
    extract_lets +onlyGivenNames v118
    clear_value v118
    extract_lets +onlyGivenNames v117
    clear_value v117
    extract_lets +onlyGivenNames v116
    clear_value v116
    apply Keeps.ite
    · apply endDesc_keeps
      with_reducible assumption
    · apply Keeps.ite
      · apply endDesc_keeps
        with_reducible assumption
      · apply Keeps.ite
        · apply endDesc_keeps
          apply noteReads_keeps
          with_reducible assumption
        · extract_lets +onlyGivenNames v112
          have kv112 : Keeps s0 v112 := by
            subst v112
            apply noteReads_keeps
            with_reducible assumption
          clear_value v112
          extract_lets +onlyGivenNames v111
          clear_value v111
          split
          · apply endDesc_keeps
            apply authFail_keeps
            with_reducible assumption
          · split
            apply endDesc_keeps
            refine Keeps.of_fst (by assumption) ?_
            apply loadPhases_keeps
            with_reducible assumption

theorem dropCopy_keeps {s0 : State} : ∀ s1 x1, Keeps s0 s1 → Keeps s0 (dropCopy s1 x1) := by
  intro s1 x1 h0
  unfold dropCopy
  split
  · apply finish_keeps
    assumption
  · apply finish_keeps
    assumption
  · assumption
  · assumption
  · assumption

theorem dropWaiting_keeps {s0 : State} : ∀ s1 x1 x2 f3, Keeps s0 s1 → (∀ t y1, Keeps s0 t → Keeps s0 (f3 t y1)) → Keeps s0 (dropWaiting s1 x1 x2 f3) := by
  intro s1 x1 x2 f3 h0 h1
  unfold dropWaiting
  apply Keeps.foldl
  · apply h1
    assumption
  · intro _ _
    intro _
    apply dropCopy_keeps
    assumption

theorem abortCopies_keeps {s0 : State} : ∀ s1 x1, Keeps s0 s1 → Keeps s0 (abortCopies s1 x1) := by
  intro s1 x1 h0
  unfold abortCopies
  apply Keeps.foldl
  · with_reducible assumption
  · intro _ _
    intro _
    split
    · apply Keeps.ite
      · refine Keeps.mk_same ?_ rfl rfl rfl rfl rfl rfl rfl rfl rfl rfl rfl rfl rfl
        with_reducible assumption
      · with_reducible assumption
    · with_reducible assumption

theorem foldl_pair_keeps {α β : Type} {s0 : State} (f : State × β → α → State × β) (l : List α) (q : State × β)
    (h : Keeps s0 q.1) (hf : ∀ q x, Keeps s0 q.1 → Keeps s0 (f q x).1) : Keeps s0 (l.foldl f q).1 := by
  induction l generalizing q with
  | nil => exact h
  | cons x l ih => exact ih _ (hf q x h)

theorem abortCtx_keeps {s0 : State} : ∀ s1 x1, Keeps s0 s1 → Keeps s0 (abortCtx s1 x1).1 := by
  intro s c h
  unfold abortCtx
  split
  next t n e =>
    have ht : Keeps s0 t := by
      refine Keeps.of_fst e (foldl_pair_keeps _ _ _ h ?_)
      intro q x hq
      exact abortGraph_keeps _ _ hq
    clear e
    dsimp only
    apply abortCopies_keeps
    apply dropWaiting_keeps
    · apply dropWaiting_keeps
      · apply dropWaiting_keeps
        · exact ht
        · intro t l ht; exact setQueue_keeps _ _ _ ht
      · intro t l ht; exact setStarted_keeps _ _ _ ht
    · intro t l ht; exact setStarted_keeps _ _ _ ht

theorem freeNbr_keeps {s0 : State} : ∀ s1 x1, Keeps s0 s1 → Keeps s0 (freeNbr s1 x1) := by
  intro s1 x1 h0
  unfold freeNbr
  extract_lets +onlyGivenNames v120
  clear_value v120
  extract_lets +onlyGivenNames v119
  have kv119 : Keeps s0 v119 := by
    subst v119
    split
    · apply finishMove_keeps
      with_reducible assumption
    · with_reducible assumption
  clear_value v119
  extract_lets +onlyGivenNames v118
  clear_value v118
  extract_lets +onlyGivenNames v117
  have kv117 : Keeps s0 v117 := by
    subst v117
    apply Keeps.ite
    · split
      · apply wr_keeps
        with_reducible assumption
      · with_reducible assumption
    · apply Keeps.ite
      · apply tileFree_keeps
        with_reducible assumption
      · apply setTtState_keeps
        with_reducible assumption
  clear_value v117
  extract_lets +onlyGivenNames v116
  have kv116 : Keeps s0 v116 := by
    subst v116
    apply wr_keeps
    with_reducible assumption
  clear_value v116
  refine Keeps.mk_same ?_ rfl rfl rfl rfl rfl rfl rfl rfl rfl rfl rfl rfl rfl
  with_reducible assumption

theorem freeGraph_keeps {s0 : State} : ∀ s1 x1, Keeps s0 s1 → Keeps s0 (freeGraph s1 x1) := by
  intro s1 x1 h0
  unfold freeGraph
  apply wr_keeps
  apply wr_keeps
  refine Keeps.mk_same ?_ rfl rfl rfl rfl rfl rfl rfl rfl rfl rfl rfl rfl rfl
  assumption

theorem freeCtx_keeps {s0 : State} : ∀ s1 x1, Keeps s0 s1 → Keeps s0 (freeCtx s1 x1) := by
  intro s1 x1 h0
  unfold freeCtx
  extract_lets +onlyGivenNames v120
  have kv120 : Keeps s0 v120 := by
    subst v120
    apply Keeps.foldl
    · assumption
    · intro _ _
      intro _
      apply freeGraph_keeps
      assumption
  clear_value v120
  extract_lets +onlyGivenNames v119
  clear_value v119
  extract_lets +onlyGivenNames v118
  have kv118 : Keeps s0 v118 := by
    subst v118
    apply Keeps.foldl
    · assumption
    · intro _ _
      intro _
      apply freeNbr_keeps
      assumption
  clear_value v118
  extract_lets +onlyGivenNames v117
  have kv117 : Keeps s0 v117 := by
    subst v117
    apply Keeps.foldl
    · apply wr_keeps
      assumption
    · intro _ _
      intro _
      apply wr_keeps
      assumption
  clear_value v117
  extract_lets +onlyGivenNames v116
  clear_value v116
  extract_lets +onlyGivenNames v115
  clear_value v115
  extract_lets +onlyGivenNames v114
  have kv114 : Keeps s0 v114 := by
    subst v114
    refine Keeps.mk_same ?_ rfl rfl rfl rfl rfl rfl rfl rfl rfl rfl rfl rfl rfl
    assumption
  clear_value v114
  apply syncSched_keeps
  apply setSec_keeps
  · intro _
    exact ⟨rfl, rfl, rfl, rfl⟩
  · assumption

theorem execUnload_keeps {s0 : State} : ∀ x0 s2, Keeps s0 s2 → KeepsOut s0 (execUnload x0 s2) := by
  intro x0 s2 h0
  unfold execUnload
  apply fabric_keeps
  · with_reducible assumption
  · intro _ _
    split
    · with_reducible assumption
    · apply Keeps.ite
      · with_reducible assumption
      · apply Keeps.ite
        · apply Keeps.ite
          · apply endDesc_keeps
            with_reducible assumption
          · apply Keeps.ite
            · apply endDesc_keeps
              with_reducible assumption
            · split
              apply Keeps.ite
              · apply setDesc_keeps
                refine Keeps.of_fst (by assumption) ?_
                apply abortCtx_keeps
                apply stageDesc_keeps
                with_reducible assumption
              · apply endDesc_keeps
                apply freeCtx_keeps
                refine Keeps.of_fst (by assumption) ?_
                apply abortCtx_keeps
                apply stageDesc_keeps
                with_reducible assumption
        · apply Keeps.ite
          · apply endDesc_keeps
            apply freeCtx_keeps
            with_reducible assumption
          · with_reducible assumption

end Sys2Proof.Machine
end

