-- ==== Sys2Proof/Laws/KeepsFaults.lean ====
section
/-! SUPPORT. What the functions of Machine/Faults.lean keep: the queue of commands, the straps, the fuses and the canonical forms. -/

namespace Sys2Proof.Machine

theorem freeChecker_keeps {s0 : State} : ∀ s1, Keeps s0 s1 → Keeps s0 (freeChecker s1).2 := by
  intro s1 h0
  unfold freeChecker
  split
  dsimp only
  refine Keeps.of_snd (by assumption) ?_
  apply drawNat_keeps
  assumption

theorem setSafe_keeps {s0 : State} : ∀ s1 x1, Keeps s0 s1 → Keeps s0 (setSafe s1 x1) := by
  intro s1 x1 h0
  unfold setSafe
  refine Keeps.mk_same ?_ rfl rfl rfl rfl rfl rfl rfl rfl rfl rfl rfl rfl rfl
  assumption

theorem selftestFail_keeps {s0 : State} : ∀ s1 x1 x2 x3, Keeps s0 s1 → Keeps s0 (selftestFail s1 x1 x2 x3) := by
  intro s1 x1 x2 x3 h0
  unfold selftestFail
  apply faultRec_keeps
  apply safeEvent_keeps
  assumption

theorem unitFailed_keeps {s0 : State} : ∀ s1 x1 x2 x3, Keeps s0 s1 → Keeps s0 (unitFailed s1 x1 x2 x3) := by
  intro s1 x1 x2 x3 h0
  unfold unitFailed
  apply faultRec_keeps
  apply safeEvent_keeps
  assumption

theorem standbyOk_keeps {s0 : State} : ∀ s1 x1, Keeps s0 s1 → Keeps s0 (standbyOk s1 x1) := by
  intro s1 x1 h0
  unfold standbyOk
  apply wf_keeps
  assumption

theorem retirePair_keeps {s0 : State} : ∀ s1 x1, Keeps s0 s1 → Keeps s0 (retirePair s1 x1) := by
  intro s1 x1 h0
  unfold retirePair
  extract_lets +onlyGivenNames v200
  have kv200 : Keeps s0 v200 := by
    subst v200
    apply setSafe_keeps
    apply setBits_keeps
    apply standbyOk_keeps
    assumption
  clear_value v200
  apply faultRec_keeps
  apply safeEvent_keeps
  assumption

theorem pairFault_keeps {s0 : State} : ∀ s1, Keeps s0 s1 → Keeps s0 (pairFault s1) := by
  intro s1 h0
  unfold pairFault
  extract_lets +onlyGivenNames v200
  clear_value v200
  apply Keeps.ite
  · apply safeState_keeps
    assumption
  · apply raiseEdge_keeps
    apply setSafe_keeps
    assumption

theorem execControlPairFault_keeps {s0 : State} : ∀ s1, Keeps s0 s1 → KeepsOut s0 (execControlPairFault s1) := by
  intro s1 h0
  unfold execControlPairFault
  apply fabric_keeps
  · assumption
  · intro _ _
    apply pairFault_keeps
    assumption

theorem execWatchdogExpire_keeps {s0 : State} : ∀ s1, Keeps s0 s1 → KeepsOut s0 (execWatchdogExpire s1) := by
  intro s1 h0
  unfold execWatchdogExpire
  apply fabric_keeps
  · assumption
  · intro _ _
    apply pairFault_keeps
    apply raiseEdge_keeps
    assumption

theorem completeAll_keeps {s0 : State} : ∀ s1 x1, Keeps s0 s1 → Keeps s0 (completeAll s1 x1) := by
  intro s1 x1 h0
  unfold completeAll
  apply Keeps.foldl
  · assumption
  · intro _ _
    intro _
    apply completeSource_keeps
    assumption

theorem execSwitchoverComplete_keeps {s0 : State} : ∀ x0 s2, Keeps s0 s2 → KeepsOut s0 (execSwitchoverComplete x0 s2) := by
  intro x0 s2 h0
  unfold execSwitchoverComplete
  apply fabric_keeps
  · assumption
  · intro _ _
    split
    · assumption
    · apply Keeps.ite
      · apply safeState_keeps
        assumption
      · extract_lets +onlyGivenNames v115
        have kv115 : Keeps s0 v115 := by
          subst v115
          apply completeAll_keeps
          apply setSafe_keeps
          assumption
        clear_value v115
        extract_lets +onlyGivenNames v114
        have kv114 : Keeps s0 v114 := by
          subst v114
          apply standbyOk_keeps
          apply wf_keeps
          assumption
        clear_value v114
        apply takeoverDone_keeps
        apply failBuilds_keeps
        apply bump_keeps
        assumption

theorem standbyReady_keeps {s0 : State} : ∀ s1, Keeps s0 s1 → Keeps s0 (standbyReady s1) := by
  intro s1 h0
  unfold standbyReady
  apply standbyOk_keeps
  apply setSafe_keeps
  assumption

theorem execStandbySelftestEnd_keeps {s0 : State} : ∀ x0 s2, Keeps s0 s2 → KeepsOut s0 (execStandbySelftestEnd x0 s2) := by
  intro x0 s2 h0
  unfold execStandbySelftestEnd
  apply fabric_keeps
  · assumption
  · intro _ _
    split
    · assumption
    · extract_lets +onlyGivenNames v196
      clear_value v196
      apply Keeps.ite
      · apply retirePair_keeps
        apply selftestFail_keeps
        assumption
      · apply Keeps.ite
        · apply standbyReady_keeps
          assumption
        · apply Keeps.ite
          · apply retirePair_keeps
            apply transient_keeps
            assumption
          · apply faultRec_keeps
            apply standbyReady_keeps
            apply transient_keeps
            assumption

theorem execStandbyFault_keeps {s0 : State} : ∀ s1, Keeps s0 s1 → KeepsOut s0 (execStandbyFault s1) := by
  intro s1 h0
  unfold execStandbyFault
  apply fabric_keeps
  · assumption
  · intro _ _
    extract_lets +onlyGivenNames v197
    clear_value v197
    apply Keeps.ite
    · apply safeState_keeps
      assumption
    · apply Keeps.ite
      · apply retirePair_keeps
        assumption
      · assumption

theorem laneLost_keeps {s0 : State} : ∀ s1 x1, Keeps s0 s1 → Keeps s0 (laneLost s1 x1) := by
  intro s1 x1 h0
  unfold laneLost
  apply Keeps.ite
  · apply safeState_keeps
    assumption
  · split
    apply takeoverDone_keeps
    apply setBits_keeps
    apply setSafe_keeps
    refine Keeps.of_snd (by assumption) ?_
    apply drawNat_keeps
    assumption

theorem execTfuLaneMismatch_keeps {s0 : State} : ∀ x0 s2, Keeps s0 s2 → KeepsOut s0 (execTfuLaneMismatch x0 s2) := by
  intro x0 s2 h0
  unfold execTfuLaneMismatch
  apply fabric_keeps
  · assumption
  · intro _ _
    extract_lets +onlyGivenNames v117
    clear_value v117
    extract_lets +onlyGivenNames v116
    have kv116 : ∀ z0, Keeps s0 z0 → Keeps s0 (v116 z0) := by
      subst v116
      intro _ _
      beta_reduce
      apply Keeps.ite
      · apply safeState_keeps
        assumption
      · apply setSafe_keeps
        assumption
    clear_value v116
    apply Keeps.ite
    · apply kv116
      assumption
    · apply Keeps.ite
      · apply kv116
        apply transient_keeps
        assumption
      · apply transient_keeps
        assumption

theorem execTfuKatEnd_keeps {s0 : State} : ∀ x0 x1 s3, Keeps s0 s3 → KeepsOut s0 (execTfuKatEnd x0 x1 s3) := by
  intro x0 x1 s3 h0
  unfold execTfuKatEnd
  apply fabric_keeps
  · assumption
  · intro _ _
    apply Keeps.ite
    · assumption
    · apply Keeps.ite
      · apply laneLost_keeps
        assumption
      · apply Keeps.ite
        · apply laneLost_keeps
          assumption
        · apply safeState_keeps
          apply setSafe_keeps
          assumption

theorem failIfc_keeps {s0 : State} : ∀ s1, Keeps s0 s1 → Keeps s0 (failIfc s1) := by
  intro s1 h0
  unfold failIfc
  apply unitFailed_keeps
  apply setBits_keeps
  refine Keeps.mk_same ?_ rfl rfl rfl rfl rfl rfl rfl rfl rfl rfl rfl rfl rfl
  assumption

theorem execIfcMismatch_keeps {s0 : State} : ∀ x0 s2, Keeps s0 s2 → KeepsOut s0 (execIfcMismatch x0 s2) := by
  intro x0 s2 h0
  unfold execIfcMismatch
  apply fabric_keeps
  · assumption
  · intro _ _
    extract_lets +onlyGivenNames v197
    clear_value v197
    apply Keeps.ite
    · assumption
    · apply Keeps.ite
      · apply failIfc_keeps
        assumption
      · split
        apply Keeps.ite
        · apply failIfc_keeps
          apply transient_keeps
          refine Keeps.of_snd (by assumption) ?_
          apply freeChecker_keeps
          assumption
        · apply transient_keeps
          refine Keeps.of_snd (by assumption) ?_
          apply freeChecker_keeps
          assumption

theorem execHifWriterMismatch_keeps {s0 : State} : ∀ x0 s2, Keeps s0 s2 → KeepsOut s0 (execHifWriterMismatch x0 s2) := by
  intro x0 s2 h0
  unfold execHifWriterMismatch
  apply fabric_keeps
  · assumption
  · intro _ _
    extract_lets +onlyGivenNames v197
    clear_value v197
    apply Keeps.ite
    · apply safeState_keeps
      assumption
    · split
      apply Keeps.ite
      · apply safeState_keeps
        apply transient_keeps
        refine Keeps.of_snd (by assumption) ?_
        apply freeChecker_keeps
        assumption
      · apply transient_keeps
        refine Keeps.of_snd (by assumption) ?_
        apply freeChecker_keeps
        assumption

theorem fabricFault_keeps {s0 : State} : ∀ s1, Keeps s0 s1 → Keeps s0 (fabricFault s1) := by
  intro s1 h0
  unfold fabricFault
  split
  apply safeState_keeps
  refine Keeps.of_snd (by assumption) ?_
  apply drawNat_keeps
  assumption

theorem execFabricLogicMismatch_keeps {s0 : State} : ∀ s1, Keeps s0 s1 → KeepsOut s0 (execFabricLogicMismatch s1) := by
  intro s1 h0
  unfold execFabricLogicMismatch
  apply fabric_keeps
  · assumption
  · intro _ _
    apply fabricFault_keeps
    assumption

theorem endEngineJob_keeps {s0 : State} : ∀ s1 x1, Keeps s0 s1 → Keeps s0 (endEngineJob s1 x1) := by
  intro s1 x1 h0
  unfold endEngineJob
  split
  · split
    · apply visComplete_keeps
      apply stampStatus_keeps
      assumption
    · assumption
  · apply solveFault_keeps
    assumption
  · apply placeFault_keeps
    assumption

theorem execEngineFault_keeps {s0 : State} : ∀ x0 s2, Keeps s0 s2 → KeepsOut s0 (execEngineFault x0 s2) := by
  intro x0 s2 h0
  unfold execEngineFault
  apply fabric_keeps
  · assumption
  · intro _ _
    extract_lets +onlyGivenNames v197
    clear_value v197
    apply Keeps.ite
    · assumption
    · apply endEngineJob_keeps
      apply setSafe_keeps
      assumption

theorem dropTaken_keeps {s0 : State} : ∀ s1, Keeps s0 s1 → Keeps s0 (dropTaken s1) := by
  intro s1 h0
  unfold dropTaken
  split
  · apply solveDead_keeps
    assumption
  · assumption

theorem failEngine_keeps {s0 : State} : ∀ s1 x1, Keeps s0 s1 → Keeps s0 (failEngine s1 x1) := by
  intro s1 x1 h0
  unfold failEngine
  extract_lets +onlyGivenNames v200
  clear_value v200
  extract_lets +onlyGivenNames v199
  have kv199 : Keeps s0 v199 := by
    subst v199
    apply setSafe_keeps
    assumption
  clear_value v199
  extract_lets +onlyGivenNames v198
  have kv198 : Keeps s0 v198 := by
    subst v198
    split
    · apply setBits_keeps
      assumption
    · apply dropTaken_keeps
      apply setBits_keeps
      assumption
    · assumption
  clear_value v198
  apply unitFailed_keeps
  assumption

theorem execEngineSelftestEnd_keeps {s0 : State} : ∀ x0 x1 s3, Keeps s0 s3 → KeepsOut s0 (execEngineSelftestEnd x0 x1 s3) := by
  intro x0 x1 s3 h0
  unfold execEngineSelftestEnd
  apply fabric_keeps
  · assumption
  · intro _ _
    extract_lets +onlyGivenNames v197
    clear_value v197
    apply Keeps.ite
    · assumption
    · apply Keeps.ite
      · apply failEngine_keeps
        apply selftestFail_keeps
        assumption
      · split
        extract_lets +onlyGivenNames v193
        have kv193 : Keeps s0 v193 := by
          subst v193
          apply transient_keeps
          refine Keeps.of_snd (by assumption) ?_
          apply freeChecker_keeps
          apply setSafe_keeps
          assumption
        clear_value v193
        apply Keeps.ite
        · apply failEngine_keeps
          assumption
        · assumption

theorem execPeriodicTest_keeps {s0 : State} : ∀ x0 s2, Keeps s0 s2 → KeepsOut s0 (execPeriodicTest x0 s2) := by
  intro x0 s2 h0
  unfold execPeriodicTest
  apply fabric_keeps
  · assumption
  · intro _ _
    split
    · assumption
    · apply safeState_keeps
      assumption
    · apply safeState_keeps
      assumption

theorem tileFails_keeps {s0 : State} : ∀ s1 x1, Keeps s0 s1 → Keeps s0 (tileFails s1 x1) := by
  intro s1 x1 h0
  unfold tileFails
  apply tileHalt_keeps
  with_reducible assumption

theorem execCheckerTest_keeps {s0 : State} : ∀ x0 x1 s3, Keeps s0 s3 → KeepsOut s0 (execCheckerTest x0 x1 s3) := by
  intro x0 x1 s3 h0
  unfold execCheckerTest
  apply fabric_keeps
  · assumption
  · intro _ _
    apply Keeps.ite
    · assumption
    · split
      extract_lets +onlyGivenNames v195
      have kv195 : Keeps s0 v195 := by
        subst v195
        apply selftestFail_keeps
        apply safeEvent_keeps
        assumption
      clear_value v195
      split
      · apply tileFails_keeps
        assumption
      · apply pairFault_keeps
        assumption
      · apply retirePair_keeps
        assumption
      · apply laneLost_keeps
        assumption
      · apply failIfc_keeps
        assumption
      · apply safeState_keeps
        assumption
      · apply fabricFault_keeps
        assumption
      · apply failEngine_keeps
        assumption

theorem setRot_keeps {s0 : State} : ∀ s1 x1 x2, Keeps s0 s1 → Keeps s0 (setRot s1 x1 x2) := by
  intro s1 x1 x2 h0
  unfold setRot
  extract_lets +onlyGivenNames v200
  have kv200 : Keeps s0 v200 := by
    subst v200
    apply setSafe_keeps
    assumption
  clear_value v200
  apply wf_keeps
  assumption

theorem rotStopped_keeps {s0 : State} : ∀ s1 x1, Keeps s0 s1 → Keeps s0 (rotStopped s1 x1) := by
  intro s1 x1 h0
  unfold rotStopped
  apply Keeps.ite
  · assumption
  · apply faultRec_keeps
    apply setBits_keeps
    assumption

theorem rotBegin_keeps {s0 : State} : ∀ s1 x1 x2, Keeps s0 s1 → Keeps s0 (rotBegin s1 x1 x2) := by
  intro s1 x1 x2 h0
  unfold rotBegin
  apply Keeps.ite
  · assumption
  · extract_lets +onlyGivenNames v199
    clear_value v199
    extract_lets +onlyGivenNames v198
    have kv198 : Keeps s0 v198 := by
      subst v198
      split
      · apply setTtState_keeps
        apply evacuate_keeps
        assumption
      · assumption
    clear_value v198
    apply setRot_keeps
    apply startMove_keeps
    assumption

theorem execRotationStep_keeps {s0 : State} : ∀ x0 s2, Keeps s0 s2 → KeepsOut s0 (execRotationStep x0 s2) := by
  intro x0 s2 h0
  unfold execRotationStep
  apply fabric_keeps
  · assumption
  · intro _ _
    split
    · apply Keeps.ite
      · apply rotBegin_keeps
        assumption
      · assumption
    · apply Keeps.ite
      · assumption
      · split
        · apply rotStopped_keeps
          assumption
        · assumption
        · extract_lets +onlyGivenNames v194
          clear_value v194
          extract_lets +onlyGivenNames v193
          have kv193 : Keeps s0 v193 := by
            subst v193
            apply wf_keeps
            assumption
          clear_value v193
          apply rotBegin_keeps
          apply setRot_keeps
          assumption

theorem execRotationWaitTimeout_keeps {s0 : State} : ∀ x0 s2, Keeps s0 s2 → KeepsOut s0 (execRotationWaitTimeout x0 s2) := by
  intro x0 s2 h0
  unfold execRotationWaitTimeout
  apply fabric_keeps
  · assumption
  · intro _ _
    split
    · apply Keeps.ite
      · apply bump_keeps
        apply setRot_keeps
        assumption
      · assumption
    · assumption

theorem rotSwap_keeps {s0 : State} : ∀ s1 x1 x2, Keeps s0 s1 → Keeps s0 (rotSwap s1 x1 x2) := by
  intro s1 x1 x2 h0
  unfold rotSwap
  extract_lets +onlyGivenNames v120
  have kv120 : Keeps s0 v120 := by
    subst v120
    split
    · apply wr_keeps
      with_reducible assumption
    · with_reducible assumption
  clear_value v120
  extract_lets +onlyGivenNames v119
  have kv119 : Keeps s0 v119 := by
    subst v119
    apply showBanks_keeps
    apply wr_keeps
    with_reducible assumption
  clear_value v119
  apply setRot_keeps
  apply wr_keeps
  with_reducible assumption

theorem rotMoved_keeps {s0 : State} : ∀ s1 x1, Keeps s0 s1 → Keeps s0 (rotMoved s1 x1) := by
  intro s1 x1 h0
  unfold rotMoved
  split
  · apply rotSwap_keeps
    assumption
  · assumption

theorem execFenceRelease_keeps {s0 : State} : ∀ x0 s2, Keeps s0 s2 → KeepsOut s0 (execFenceRelease x0 s2) := by
  intro x0 s2 h0
  unfold execFenceRelease
  apply fabric_keeps
  · assumption
  · intro _ _
    split
    · apply Keeps.ite
      · assumption
      · apply rotMoved_keeps
        apply finishMove_keeps
        assumption
    · assumption

theorem execRotationSelftestEnd_keeps {s0 : State} : ∀ x0 x1 s3, Keeps s0 s3 → KeepsOut s0 (execRotationSelftestEnd x0 x1 s3) := by
  intro x0 x1 s3 h0
  unfold execRotationSelftestEnd
  apply fabric_keeps
  · with_reducible assumption
  · intro _ _
    split
    · with_reducible assumption
    · apply Keeps.ite
      · with_reducible assumption
      · extract_lets +onlyGivenNames v115
        have kv115 : Keeps s0 v115 := by
          subst v115
          apply setRot_keeps
          with_reducible assumption
        clear_value v115
        apply Keeps.ite
        · extract_lets +onlyGivenNames v113
          have kv113 : Keeps s0 v113 := by
            subst v113
            apply tileFree_keeps
            with_reducible assumption
          clear_value v113
          split
          · refine Keeps.mk_same ?_ rfl rfl rfl rfl rfl rfl rfl rfl rfl rfl rfl rfl rfl
            with_reducible assumption
          · with_reducible assumption
        · extract_lets +onlyGivenNames v113
          have kv113 : Keeps s0 v113 := by
            subst v113
            apply wf_keeps
            apply setTtState_keeps
            with_reducible assumption
          clear_value v113
          extract_lets +onlyGivenNames v112
          have kv112 : Keeps s0 v112 := by
            subst v112
            apply selftestFail_keeps
            with_reducible assumption
          clear_value v112
          apply Keeps.ite
          · apply rotStopped_keeps
            with_reducible assumption
          · with_reducible assumption

theorem execSchedulingBoundary_keeps {s0 : State} : ∀ s1, Keeps s0 s1 → KeepsOut s0 (execSchedulingBoundary s1) := by
  intro s1 h0
  unfold execSchedulingBoundary
  apply fabric_keeps
  · assumption
  · intro _ _
    apply Keeps.ite
    · assumption
    · extract_lets +onlyGivenNames v116
      have kv116 : Keeps s0 v116 := by
        subst v116
        apply setSafe_keeps
        assumption
      clear_value v116
      apply Keeps.ite
      · apply wf_keeps
        apply completeAll_keeps
        assumption
      · assumption

theorem syncBbx_keeps {s0 : State} : ∀ s1, Keeps s0 s1 → Keeps s0 (syncBbx s1) := by
  intro s1 h0
  unfold syncBbx
  extract_lets +onlyGivenNames v200
  clear_value v200
  apply wr_keeps
  apply wr_keeps
  apply wr_keeps
  assumption

theorem mramWrite_wf {b : Bbx} (a : Nat) (l : List Byte) (h : Memory.wf b.mram = true) :
    Memory.wf (mramWrite b a l).mram = true :=
  tabWf_foldl 0 _ (fun e : Nat × Byte => a + e.1) (fun e => e.2) _ h

theorem writeHeader_wf {b : Bbx} (h : Memory.wf b.mram = true) : Memory.wf (writeHeader b).mram = true :=
  mramWrite_wf _ _ h

theorem pinRecord_mram (b : Bbx) (k code : Nat) : (pinRecord b k code).mram = b.mram := by
  unfold pinRecord
  dsimp only
  repeat' split
  all_goals rfl

theorem execBbxRecordWritten_keeps {s0 : State} : ∀ s1, Keeps s0 s1 → KeepsOut s0 (execBbxRecordWritten s1) := by
  intro s h
  refine KeepsOut.next ?_
  split
  · exact h
  · next r rest e =>
    have k : Keeps s0 (syncBbx { s with
        bbxQueue := rest
        bbx := writeHeader { pinRecord (mramWrite s.bbx (4096 + 64 * nextSlot s.bbx) (bbxBytes s.bbx r)) (nextSlot s.bbx) r.code with
          seq := (pinRecord (mramWrite s.bbx (4096 + 64 * nextSlot s.bbx) (bbxBytes s.bbx r)) (nextSlot s.bbx) r.code).seq + 1,
          slot := (nextSlot s.bbx + 1) %
            (pinRecord (mramWrite s.bbx (4096 + 64 * nextSlot s.bbx) (bbxBytes s.bbx r)) (nextSlot s.bbx) r.code).slots }
        mst := { s.mst with bbxSince := s.mst.bbxSince ++ [bbxBytes s.bbx r] } }) := by
      apply syncBbx_keeps
      refine h.step rfl rfl rfl (Nat.le_refl _) (Nat.le_refl _) (fun _ e => e) fun i => ?_
      refine ⟨i.mem, i.regs, i.sems, writeHeader_wf ?_, i.nor, ?_, i.svn, i.vr, i.held⟩
      · exact (congrArg Memory.wf (pinRecord_mram _ _ _)).trans (mramWrite_wf _ _ i.mram)
      · have q := i.queue
        rw [e] at q
        exact Nat.le_of_succ_le q
    dsimp only
    split
    · exact postEvent_keeps _ _ _ _ _ k
    · exact k

end Sys2Proof.Machine
end

