-- ==== Sys2Proof/Laws/KeepsPower.lean ====
section
/-! SUPPORT. What the functions of Machine/Power.lean keep: the queue of commands, the straps, the fuses and the canonical forms. -/

namespace Sys2Proof.Machine

theorem setPwr_keeps {s0 : State} : ∀ s1 x1, Keeps s0 s1 → Keeps s0 (setPwr s1 x1) := by
  intro s1 x1 h0
  unfold setPwr
  refine Keeps.mk_same ?_ rfl rfl rfl rfl rfl rfl rfl rfl rfl rfl rfl rfl rfl
  assumption

theorem setAon_keeps {s0 : State} : ∀ s1 x1, Keeps s0 s1 → Keeps s0 (setAon s1 x1) := by
  intro s1 x1 h0
  unfold setAon
  refine Keeps.mk_same ?_ rfl rfl rfl rfl rfl rfl rfl rfl rfl rfl rfl rfl rfl
  assumption

theorem pwrEvent_keeps {s0 : State} : ∀ s1 x1, Keeps s0 s1 → Keeps s0 (pwrEvent s1 x1) := by
  intro s1 x1 h0
  unfold pwrEvent
  apply setBits_keeps
  assumption

theorem powerRec_keeps {s0 : State} : ∀ s1 x1 x2 x3, Keeps s0 s1 → Keeps s0 (powerRec s1 x1 x2 x3) := by
  intro s1 x1 x2 x3 h0
  unfold powerRec
  apply bbx_keeps
  assumption

theorem execPwrParkWrite_keeps {s0 : State} : ∀ x0 s2, Keeps s0 s2 → KeepsOut s0 (execPwrParkWrite x0 s2) := by
  intro x0 s2 h0
  unfold execPwrParkWrite
  apply fabric_keeps
  · with_reducible assumption
  · intro _ _
    extract_lets +onlyGivenNames v117
    clear_value v117
    extract_lets +onlyGivenNames v116
    clear_value v116
    extract_lets +onlyGivenNames v115
    clear_value v115
    apply Keeps.ite
    · apply errFree_keeps
      with_reducible assumption
    · extract_lets +onlyGivenNames v113
      have kv113 : Keeps s0 v113 := by
        subst v113
        apply wr_keeps
        with_reducible assumption
      clear_value v113
      apply Keeps.ite
      · apply forget_keeps
        with_reducible assumption
      · with_reducible assumption

theorem powerAccept_keeps {s0 : State} : ∀ s1 x1 x2, Keeps s0 s1 → Keeps s0 (powerAccept s1 x1 x2) := by
  intro s1 x1 x2 h0
  unfold powerAccept
  extract_lets +onlyGivenNames v200
  have kv200 : Keeps s0 v200 := by
    subst v200
    apply setBits_keeps
    apply setPwr_keeps
    assumption
  clear_value v200
  apply Keeps.ite
  · apply mstStop_keeps
    assumption
  · assumption

theorem powerRequest_keeps {s0 : State} : ∀ x0 s2, Keeps s0 s2 → Keeps s0 (powerRequest x0 s2) := by
  intro x0 s2 h0
  unfold powerRequest
  split
  · apply powerAccept_keeps
    assumption
  · apply errInfo_keeps
    assumption
  · assumption

theorem execRequestRun_keeps {s0 : State} : ∀ s1, Keeps s0 s1 → KeepsOut s0 (execRequestRun s1) := by
  intro s1 h0
  unfold execRequestRun
  apply fabric_keeps
  · assumption
  · intro _ _
    apply powerRequest_keeps
    assumption

theorem execRequestGlide_keeps {s0 : State} : ∀ s1, Keeps s0 s1 → KeepsOut s0 (execRequestGlide s1) := by
  intro s1 h0
  unfold execRequestGlide
  apply fabric_keeps
  · assumption
  · intro _ _
    apply powerRequest_keeps
    assumption

theorem execRequestHold_keeps {s0 : State} : ∀ s1, Keeps s0 s1 → KeepsOut s0 (execRequestHold s1) := by
  intro s1 h0
  unfold execRequestHold
  apply fabric_keeps
  · assumption
  · intro _ _
    apply powerRequest_keeps
    assumption

theorem powerEntered_keeps {s0 : State} : ∀ s1 x1, Keeps s0 s1 → Keeps s0 (powerEntered s1 x1) := by
  intro s1 x1 h0
  unfold powerEntered
  extract_lets +onlyGivenNames v120
  clear_value v120
  extract_lets +onlyGivenNames v119
  clear_value v119
  extract_lets +onlyGivenNames v118
  have kv118 : Keeps s0 v118 := by
    subst v118
    apply setPwr_keeps
    apply setAon_keeps
    with_reducible assumption
  clear_value v118
  extract_lets +onlyGivenNames v117
  have kv117 : Keeps s0 v117 := by
    subst v117
    apply wf_keeps
    apply wf_keeps
    apply clrBits_keeps
    with_reducible assumption
  clear_value v117
  apply powerRec_keeps
  apply pwrEvent_keeps
  with_reducible assumption

theorem enterHold_keeps {s0 : State} : ∀ s1, Keeps s0 s1 → Keeps s0 (enterHold s1) := by
  intro s1 h0
  unfold enterHold
  extract_lets +onlyGivenNames v200
  have kv200 : Keeps s0 v200 := by
    subst v200
    apply setAon_keeps
    assumption
  clear_value v200
  extract_lets +onlyGivenNames v199
  have kv199 : Keeps s0 v199 := by
    subst v199
    apply armWake_keeps
    assumption
  clear_value v199
  refine Keeps.mk_same ?_ rfl rfl rfl rfl rfl rfl rfl rfl rfl rfl rfl rfl rfl
  assumption

theorem startStandby_keeps {s0 : State} : ∀ s1, Keeps s0 s1 → Keeps s0 (startStandby s1) := by
  intro s1 h0
  unfold startStandby
  apply Keeps.ite
  · apply setSafe_keeps
    assumption
  · assumption

theorem execPstateChangeComplete_keeps {s0 : State} : ∀ s1, Keeps s0 s1 → KeepsOut s0 (execPstateChangeComplete s1) := by
  intro s1 h0
  unfold execPstateChangeComplete
  apply fabric_keeps
  · assumption
  · intro _ _
    split
    · assumption
    · apply Keeps.ite
      · assumption
      · apply powerEntered_keeps
        apply setSafe_keeps
        apply standbyOk_keeps
        apply setBits_keeps
        assumption
    · apply Keeps.ite
      · assumption
      · apply startStandby_keeps
        apply powerEntered_keeps
        apply clrBits_keeps
        assumption
    · apply enterHold_keeps
      apply powerEntered_keeps
      assumption

theorem wakeUp_keeps {s0 : State} : ∀ s1 x1, Keeps s0 s1 → Keeps s0 (wakeUp s1 x1) := by
  intro s1 x1 h0
  unfold wakeUp
  apply Keeps.ite
  · assumption
  · apply Keeps.ite
    · apply setAon_keeps
      assumption
    · apply setAon_keeps
      apply setPwr_keeps
      assumption

theorem execHoldWake_keeps {s0 : State} : ∀ s1, Keeps s0 s1 → KeepsOut s0 (execHoldWake s1) := by
  intro s1 h0
  unfold execHoldWake
  extract_lets +onlyGivenNames v200
  clear_value v200
  apply KeepsOut.next
  apply Keeps.ite
  · assumption
  · apply wakeUp_keeps
    assumption

theorem execHoldWakeTimer_keeps {s0 : State} : ∀ s1, Keeps s0 s1 → KeepsOut s0 (execHoldWakeTimer s1) := by
  intro s1 h0
  unfold execHoldWakeTimer
  apply KeepsOut.next
  apply Keeps.ite
  · apply wakeUp_keeps
    assumption
  · assumption

theorem avsRequest_keeps {s0 : State} : ∀ s1 x1, Keeps s0 s1 → Keeps s0 (avsRequest s1 x1) := by
  intro s1 x1 h0
  unfold avsRequest
  apply Keeps.ite
  · assumption
  · apply setPwr_keeps
    assumption

theorem applyClock_keeps {s0 : State} : ∀ s1, Keeps s0 s1 → Keeps s0 (applyClock s1) := by
  intro s1 h0
  unfold applyClock
  extract_lets +onlyGivenNames v200
  clear_value v200
  extract_lets +onlyGivenNames v199
  clear_value v199
  apply Keeps.ite
  · extract_lets +onlyGivenNames v197
    have kv197 : Keeps s0 v197 := by
      subst v197
      apply wf_keeps
      apply setPwr_keeps
      assumption
    clear_value v197
    apply Keeps.ite
    · apply avsRequest_keeps
      assumption
    · assumption
  · apply Keeps.ite
    · apply avsRequest_keeps
      apply wf_keeps
      apply setPwr_keeps
      assumption
    · apply avsRequest_keeps
      apply setPwr_keeps
      assumption

theorem execAvsTargetReached_keeps {s0 : State} : ∀ s1, Keeps s0 s1 → KeepsOut s0 (execAvsTargetReached s1) := by
  intro s1 h0
  unfold execAvsTargetReached
  apply fabric_keeps
  · assumption
  · intro _ _
    split
    · assumption
    · extract_lets +onlyGivenNames v196
      have kv196 : Keeps s0 v196 := by
        subst v196
        apply setPwr_keeps
        assumption
      clear_value v196
      split
      · apply applyClock_keeps
        assumption
      · apply avsRequest_keeps
        assumption

theorem govern_keeps {s0 : State} : ∀ s1 x1, Keeps s0 s1 → Keeps s0 (govern s1 x1) := by
  intro s1 x1 h0
  unfold govern
  apply applyClock_keeps
  apply setPwr_keeps
  assumption

theorem limitRecord_keeps {s0 : State} : ∀ s1 x1, Keeps s0 s1 → Keeps s0 (limitRecord s1 x1) := by
  intro s1 x1 h0
  unfold limitRecord
  extract_lets +onlyGivenNames v200
  clear_value v200
  apply powerRec_keeps
  apply wf_keeps
  apply setPwr_keeps
  apply pwrEvent_keeps
  assumption

theorem leaveLimit_keeps {s0 : State} : ∀ s1, Keeps s0 s1 → Keeps s0 (leaveLimit s1) := by
  intro s1 h0
  unfold leaveLimit
  apply Keeps.ite
  · apply limitRecord_keeps
    assumption
  · assumption

theorem execPowerSample_keeps {s0 : State} : ∀ x0 s2, Keeps s0 s2 → KeepsOut s0 (execPowerSample x0 s2) := by
  intro x0 s2 h0
  unfold execPowerSample
  apply fabric_keeps
  · assumption
  · intro _ _
    extract_lets +onlyGivenNames v197
    have kv197 : Keeps s0 v197 := by
      subst v197
      apply setPwr_keeps
      assumption
    clear_value v197
    extract_lets +onlyGivenNames v196
    have kv196 : Keeps s0 v196 := by
      subst v196
      apply wr_keeps
      apply wr_keeps
      apply wr_keeps
      assumption
    clear_value v196
    extract_lets +onlyGivenNames v195
    have kv195 : Keeps s0 v195 := by
      subst v195
      apply Keeps.ite
      · apply bumpN_keeps
        assumption
      · assumption
    clear_value v195
    extract_lets +onlyGivenNames v194
    have kv194 : Keeps s0 v194 := by
      subst v194
      apply Keeps.ite
      · apply govern_keeps
        apply pwrEvent_keeps
        assumption
      · assumption
    clear_value v194
    extract_lets +onlyGivenNames v193
    have kv193 : Keeps s0 v193 := by
      subst v193
      apply Keeps.ite
      · apply govern_keeps
        assumption
      · assumption
    clear_value v193
    apply leaveLimit_keeps
    assumption

theorem execGovernorLimit_keeps {s0 : State} : ∀ s1, Keeps s0 s1 → KeepsOut s0 (execGovernorLimit s1) := by
  intro s1 h0
  unfold execGovernorLimit
  apply fabric_keeps
  · assumption
  · intro _ _
    apply Keeps.ite
    · assumption
    · apply limitRecord_keeps
      apply bump_keeps
      assumption

theorem execGovernorTick_keeps {s0 : State} : ∀ s1, Keeps s0 s1 → KeepsOut s0 (execGovernorTick s1) := by
  intro s1 h0
  unfold execGovernorTick
  apply fabric_keeps
  · assumption
  · intro _ _
    apply Keeps.ite
    · assumption
    · extract_lets +onlyGivenNames v196
      clear_value v196
      extract_lets +onlyGivenNames v195
      have kv195 : Keeps s0 v195 := by
        subst v195
        apply setPwr_keeps
        assumption
      clear_value v195
      extract_lets +onlyGivenNames v194
      clear_value v194
      apply Keeps.ite
      · apply govern_keeps
        assumption
      · apply Keeps.ite
        · apply leaveLimit_keeps
          apply applyClock_keeps
          apply setPwr_keeps
          assumption
        · apply leaveLimit_keeps
          assumption

theorem thermalShutdown_keeps {s0 : State} : ∀ s1 x1 x2, Keeps s0 s1 → Keeps s0 (thermalShutdown s1 x1 x2) := by
  intro s1 x1 x2 h0
  unfold thermalShutdown
  extract_lets +onlyGivenNames v200
  have kv200 : Keeps s0 v200 := by
    subst v200
    apply powerRec_keeps
    assumption
  clear_value v200
  extract_lets +onlyGivenNames v199
  have kv199 : Keeps s0 v199 := by
    subst v199
    apply enterHold_keeps
    apply alertOn_keeps
    apply mstStop_keeps
    assumption
  clear_value v199
  apply setAon_keeps
  apply setPwr_keeps
  assumption

theorem execThermalSample_keeps {s0 : State} : ∀ x0 x1 s3, Keeps s0 s3 → KeepsOut s0 (execThermalSample x0 x1 s3) := by
  intro x0 x1 s3 h0
  unfold execThermalSample
  extract_lets +onlyGivenNames v200
  have kv200 : Keeps s0 v200 := by
    subst v200
    apply setAon_keeps
    assumption
  clear_value v200
  apply KeepsOut.next
  apply Keeps.ite
  · assumption
  · split
    extract_lets +onlyGivenNames v196
    have kv196 : Keeps s0 v196 := by
      subst v196
      apply wr_keeps
      assumption
    clear_value v196
    extract_lets +onlyGivenNames v195
    clear_value v195
    extract_lets +onlyGivenNames v194
    have kv194 : Keeps s0 v194 := by
      subst v194
      apply wr_keeps
      assumption
    clear_value v194
    extract_lets +onlyGivenNames v193
    have kv193 : Keeps s0 v193 := by
      subst v193
      apply Keeps.ite
      · apply pwrEvent_keeps
        assumption
      · assumption
    clear_value v193
    apply Keeps.ite
    · apply thermalShutdown_keeps
      assumption
    · assumption

theorem throttleRecord_keeps {s0 : State} : ∀ s1 x1, Keeps s0 s1 → Keeps s0 (throttleRecord s1 x1) := by
  intro s1 x1 h0
  unfold throttleRecord
  extract_lets +onlyGivenNames v200
  clear_value v200
  apply powerRec_keeps
  apply wf_keeps
  apply pwrEvent_keeps
  assumption

theorem setTherm_keeps {s0 : State} : ∀ s1 x1, Keeps s0 s1 → Keeps s0 (setTherm s1 x1) := by
  intro s1 x1 h0
  unfold setTherm
  extract_lets +onlyGivenNames v200
  have kv200 : Keeps s0 v200 := by
    subst v200
    apply applyClock_keeps
    apply setPwr_keeps
    assumption
  clear_value v200
  apply Keeps.ite
  · apply throttleRecord_keeps
    assumption
  · apply Keeps.ite
    · apply throttleRecord_keeps
      assumption
    · assumption

theorem execThermalStep_keeps {s0 : State} : ∀ x0 s2, Keeps s0 s2 → KeepsOut s0 (execThermalStep x0 s2) := by
  intro x0 s2 h0
  unfold execThermalStep
  apply fabric_keeps
  · assumption
  · intro _ _
    extract_lets +onlyGivenNames v197
    clear_value v197
    apply Keeps.ite
    · apply setTherm_keeps
      assumption
    · apply Keeps.ite
      · apply setTherm_keeps
        assumption
      · assumption

theorem execPwrFail_keeps {s0 : State} : ∀ s1, Keeps s0 s1 → KeepsOut s0 (execPwrFail s1) := by
  intro s1 h0
  unfold execPwrFail
  extract_lets +onlyGivenNames v200
  have kv200 : Keeps s0 v200 := by
    subst v200
    apply setAon_keeps
    assumption
  clear_value v200
  apply KeepsOut.next
  apply Keeps.ite
  · assumption
  · extract_lets +onlyGivenNames v197
    have kv197 : Keeps s0 v197 := by
      subst v197
      apply powerRec_keeps
      assumption
    clear_value v197
    apply Keeps.ite
    · apply mstStop_keeps
      apply pwrEvent_keeps
      assumption
    · assumption

theorem execPwrFailNRise_keeps {s0 : State} : ∀ s1, Keeps s0 s1 → KeepsOut s0 (execPwrFailNRise s1) := by
  intro s1 h0
  unfold execPwrFailNRise
  extract_lets +onlyGivenNames v200
  have kv200 : Keeps s0 v200 := by
    subst v200
    apply setAon_keeps
    assumption
  clear_value v200
  apply KeepsOut.next
  split
  · apply wakeUp_keeps
    assumption
  · apply Keeps.ite
    · apply setAon_keeps
      assumption
    · assumption

theorem execClockFault_keeps {s0 : State} : ∀ s1, Keeps s0 s1 → KeepsOut s0 (execClockFault s1) := by
  intro s1 h0
  unfold execClockFault
  apply KeepsOut.next
  apply Keeps.ite
  · apply safeState_keeps
    assumption
  · apply Keeps.ite
    · apply setAon_keeps
      apply wr_keeps
      extract_lets +onlyGivenNames v195
      have kv195 : Keeps s0 v195 := by
        subst v195
        apply powerRec_keeps
        assumption
      clear_value v195
      refine Keeps.mk_same ?_ rfl rfl rfl rfl rfl rfl rfl rfl rfl rfl rfl rfl rfl
      assumption
    · assumption

theorem execRailFault_keeps {s0 : State} : ∀ s1, Keeps s0 s1 → KeepsOut s0 (execRailFault s1) := by
  intro s1 h0
  unfold execRailFault
  apply KeepsOut.next
  apply Keeps.ite
  · apply safeState_keeps
    assumption
  · assumption

end Sys2Proof.Machine
end

