-- ==== Sys2Proof/Laws/KeepsStartup.lean ====
section
/-! SUPPORT. What the functions of Machine/Startup.lean keep: the queue of commands, the straps, the fuses and the canonical forms. -/

namespace Sys2Proof.Machine

theorem putWords_keeps {s0 : State} : ∀ s1 x1 x2, Keeps s0 s1 → Keeps s0 (putWords s1 x1 x2) := by
  intro s1 x1 x2 h0
  unfold putWords
  apply Keeps.foldl
  · with_reducible assumption
  · intro _ _
    intro _
    apply wr_keeps
    with_reducible assumption

theorem syncSec_keeps {s0 : State} : ∀ s1, Keeps s0 s1 → Keeps s0 (syncSec s1) := by
  intro s1 h0
  unfold syncSec
  extract_lets +onlyGivenNames v120
  subst v120
  extract_lets +onlyGivenNames v119
  clear_value v119
  extract_lets +onlyGivenNames v118
  have kv118 : Keeps s0 v118 := by
    subst v118
    apply wr_keeps
    with_reducible assumption
  clear_value v118
  extract_lets +onlyGivenNames v117
  have kv117 : Keeps s0 v117 := by
    subst v117
    apply wr_keeps
    apply wr_keeps
    with_reducible assumption
  clear_value v117
  apply putWords_keeps
  with_reducible assumption

theorem fabricReset_keeps {s0 : State} : ∀ s1, Keeps s0 s1 → Keeps s0 (fabricReset s1) := by
  intro s1 h0
  exact h0.step rfl rfl rfl (Nat.le_refl _) (Nat.le_refl _) (fun _ e => e) fun i =>
    ⟨tabWf_filter _ _ _ i.mem, rfl, rfl, i.mram, i.nor, i.queue, i.svn, i.vr, nofun⟩

theorem showKept_keeps {s0 : State} : ∀ s1 s2, Keeps s0 s1 → Keeps s0 s2 → Keeps s0 (showKept s1 s2) := by
  intro s1 s2 h0 h1
  unfold showKept
  extract_lets +onlyGivenNames v200
  clear_value v200
  extract_lets +onlyGivenNames v199
  have kv199 : Keeps s0 v199 := by
    subst v199
    apply wr_keeps
    apply wr_keeps
    assumption
  clear_value v199
  extract_lets +onlyGivenNames v198
  have kv198 : Keeps s0 v198 := by
    subst v198
    apply wr_keeps
    apply wr_keeps
    assumption
  clear_value v198
  extract_lets +onlyGivenNames v197
  have kv197 : Keeps s0 v197 := by
    subst v197
    apply wr_keeps
    apply wr_keeps
    apply wr_keeps
    assumption
  clear_value v197
  apply syncSec_keeps
  apply syncBbx_keeps
  apply Keeps.ite
  · apply setBits_keeps
    assumption
  · assumption

theorem startRec_keeps {s0 : State} : ∀ s1 x1 x2, Keeps s0 s1 → Keeps s0 (startRec s1 x1 x2) := by
  intro s1 x1 x2 h0
  unfold startRec
  apply bbx_keeps
  assumption

theorem resetRec_keeps {s0 : State} : ∀ s1 x1 x2, Keeps s0 s1 → Keeps s0 (resetRec s1 x1 x2) := by
  intro s1 x1 x2 h0
  unfold resetRec
  apply startRec_keeps
  assumption

theorem bumpBoot_keeps {s0 : State} : ∀ s1, Keeps s0 s1 → Keeps s0 (bumpBoot s1) := by
  intro s1 h0
  unfold bumpBoot
  refine Keeps.mk_same ?_ rfl rfl rfl rfl rfl rfl rfl rfl rfl rfl rfl rfl rfl
  assumption

theorem startFail_keeps {s0 : State} : ∀ s1 x1 x2, Keeps s0 s1 → Keeps s0 (startFail s1 x1 x2) := by
  intro s1 x1 x2 h0
  unfold startFail
  extract_lets +onlyGivenNames v200
  clear_value v200
  extract_lets +onlyGivenNames v199
  have kv199 : Keeps s0 v199 := by
    subst v199
    apply alertOn_keeps
    apply startRec_keeps
    assumption
  clear_value v199
  apply setAon_keeps
  refine Keeps.mk_same ?_ rfl rfl rfl rfl rfl rfl rfl rfl rfl rfl rfl rfl rfl
  assumption

theorem supplyOff_keeps {s0 : State} : ∀ s1 x1, Keeps s0 s1 → Keeps s0 (supplyOff s1 x1) := by
  intro s1 x1 h0
  exact h0.step rfl rfl rfl (Nat.le_refl _) (Nat.le_refl _) (fun _ e => e) fun i =>
    ⟨tabWf_filter _ _ _ i.mem, rfl, rfl, i.mram, i.nor, Nat.zero_le _, i.svn, i.vr, nofun⟩

theorem execPowerOnReset_keeps {s0 : State} : ∀ x0 s2, Keeps s0 s2 → KeepsOut s0 (execPowerOnReset x0 s2) := by
  intro x0 s2 h0
  unfold execPowerOnReset
  apply KeepsOut.next
  apply Keeps.ite
  · apply Keeps.ite
    · apply supplyOff_keeps
      assumption
    · assumption
  · apply supplyOff_keeps
    assumption

theorem execCrystalStable_keeps {s0 : State} : ∀ x0 x1 s3, Keeps s0 s3 → KeepsOut s0 (execCrystalStable x0 x1 s3) := by
  intro x0 x1 s3 h0
  unfold execCrystalStable
  apply KeepsOut.next
  apply Keeps.ite
  · assumption
  · apply Keeps.ite
    · apply startFail_keeps
      assumption
    · extract_lets +onlyGivenNames v117
      have kv117 : Keeps s0 v117 := by
        subst v117
        apply resetRec_keeps
        apply bumpBoot_keeps
        apply setSec_keeps
        · intro _
          exact ⟨rfl, rfl, rfl, rfl⟩
        · assumption
      clear_value v117
      extract_lets +onlyGivenNames v116
      have kv116 : Keeps s0 v116 := by
        subst v116
        split
        · apply secRec_keeps
          assumption
        · assumption
      clear_value v116
      apply setAon_keeps
      assumption

theorem execPwrGoodTimeout_keeps {s0 : State} : ∀ s1, Keeps s0 s1 → KeepsOut s0 (execPwrGoodTimeout s1) := by
  intro s1 h0
  unfold execPwrGoodTimeout
  apply KeepsOut.next
  apply Keeps.ite
  · apply startFail_keeps
    assumption
  · assumption

theorem releaseFabric_keeps {s0 : State} : ∀ s1 x1 x2, Keeps s0 s1 → Keeps s0 (releaseFabric s1 x1 x2) := by
  intro s1 x1 x2 h0
  unfold releaseFabric
  extract_lets +onlyGivenNames v200
  clear_value v200
  extract_lets +onlyGivenNames v199
  have kv199 : Keeps s0 v199 := by
    subst v199
    apply setAon_keeps
    apply showKept_keeps
    · assumption
    · apply fabricReset_keeps
      assumption
  clear_value v199
  apply Keeps.ite
  · assumption
  · apply Keeps.ite
    · apply retirePair_keeps
      apply wf_keeps
      assumption
    · apply startFail_keeps
      assumption

theorem execPwrGoodCoreRise_keeps {s0 : State} : ∀ x0 x1 s3, Keeps s0 s3 → KeepsOut s0 (execPwrGoodCoreRise x0 x1 s3) := by
  intro x0 x1 s3 h0
  unfold execPwrGoodCoreRise
  apply KeepsOut.next
  apply Keeps.ite
  · assumption
  · apply releaseFabric_keeps
    apply Keeps.ite
    · apply resetRec_keeps
      assumption
    · assumption

theorem execCoreResetRelease_keeps {s0 : State} : ∀ x0 x1 s3, Keeps s0 s3 → KeepsOut s0 (execCoreResetRelease x0 x1 s3) := by
  intro x0 x1 s3 h0
  unfold execCoreResetRelease
  apply KeepsOut.next
  apply Keeps.ite
  · assumption
  · apply releaseFabric_keeps
    apply resetRec_keeps
    apply bumpBoot_keeps
    assumption

theorem execRecoverWindowTimeout_keeps {s0 : State} : ∀ s1, Keeps s0 s1 → KeepsOut s0 (execRecoverWindowTimeout s1) := by
  intro s1 h0
  unfold execRecoverWindowTimeout
  apply fabric_keeps
  · assumption
  · intro _ _
    apply Keeps.ite
    · apply setAon_keeps
      assumption
    · assumption

theorem showImage_keeps {s0 : State} : ∀ s1 x1 x2, Keeps s0 s1 → Keeps s0 (showImage s1 x1 x2) := by
  intro s1 x1 x2 h0
  unfold showImage
  extract_lets +onlyGivenNames v120
  clear_value v120
  extract_lets +onlyGivenNames v119
  clear_value v119
  extract_lets +onlyGivenNames v118
  clear_value v118
  extract_lets +onlyGivenNames v117
  have kv117 : Keeps s0 v117 := by
    subst v117
    apply setSec_keeps
    · intro _
      exact ⟨rfl, rfl, rfl, rfl⟩
    · assumption
  clear_value v117
  extract_lets +onlyGivenNames v116
  have kv116 : Keeps s0 v116 := by
    subst v116
    apply wr_keeps
    apply wf_keeps
    apply wf_keeps
    assumption
  clear_value v116
  extract_lets +onlyGivenNames v115
  have kv115 : Keeps s0 v115 := by
    subst v115
    apply putWords_keeps
    apply Keeps.ite
    · apply secEvent_keeps
      assumption
    · assumption
  clear_value v115
  apply secRec_keeps
  assumption

theorem homeTiles_keeps {s0 : State} : ∀ s1, Keeps s0 s1 → Keeps s0 (homeTiles s1) := by
  intro s1 h0
  unfold homeTiles
  apply Keeps.foldl
  · with_reducible assumption
  · intro _ _
    intro _
    apply wr_keeps
    with_reducible assumption

theorem placeFailed_keeps {s0 : State} : ∀ s1 x1, Keeps s0 s1 → Keeps s0 (placeFailed s1 x1) := by
  intro s1 x1 h0
  unfold placeFailed
  extract_lets +onlyGivenNames v200
  clear_value v200
  extract_lets +onlyGivenNames v199
  have kv199 : Keeps s0 v199 := by
    subst v199
    apply selftestFail_keeps
    assumption
  clear_value v199
  extract_lets +onlyGivenNames v198
  have kv198 : Keeps s0 v198 := by
    subst v198
    apply wr_keeps
    assumption
  clear_value v198
  apply Keeps.ite
  · assumption
  · split
    · apply Keeps.ite
      · split
        apply wr_keeps
        apply wf_keeps
        refine Keeps.of_snd (by assumption) ?_
        apply drawNat_keeps
        assumption
      · apply wr_keeps
        apply wr_keeps
        assumption
    · assumption

theorem placeTiles_keeps {s0 : State} : ∀ s1 x1, Keeps s0 s1 → Keeps s0 (placeTiles s1 x1) := by
  intro s1 x1 h0
  unfold placeTiles
  extract_lets +onlyGivenNames v200
  clear_value v200
  extract_lets +onlyGivenNames v199
  have kv199 : Keeps s0 v199 := by
    subst v199
    apply Keeps.foldl
    · assumption
    · intro _ _
      intro _
      apply placeFailed_keeps
      assumption
  clear_value v199
  apply Keeps.foldl
  · assumption
  · intro _ _
    intro _
    apply placeFailed_keeps
    apply Keeps.foldl
    · assumption
    · intro _ _
      intro _
      apply Keeps.ite
      · apply wf_keeps
        assumption
      · assumption

theorem trainFlash_keeps {s0 : State} : ∀ s1, Keeps s0 s1 → Keeps s0 (trainFlash s1) := by
  intro s1 h0
  unfold trainFlash
  apply Keeps.foldl
  · with_reducible assumption
  · intro _ _
    intro _
    extract_lets +onlyGivenNames v116
    clear_value v116
    apply wr_keeps
    with_reducible assumption

theorem execFirmwareStart_keeps {s0 : State} : ∀ x0 s2, Keeps s0 s2 → KeepsOut s0 (execFirmwareStart x0 s2) := by
  intro x0 s2 h0
  unfold execFirmwareStart
  apply fabric_keeps
  · with_reducible assumption
  · intro _ _
    apply Keeps.ite
    · with_reducible assumption
    · split
      · apply startFail_keeps
        with_reducible assumption
      · extract_lets +onlyGivenNames v115
        have kv115 : Keeps s0 v115 := by
          subst v115
          apply trainFlash_keeps
          apply showImage_keeps
          with_reducible assumption
        clear_value v115
        extract_lets +onlyGivenNames v114
        have kv114 : Keeps s0 v114 := by
          subst v114
          apply wr_keeps
          with_reducible assumption
        clear_value v114
        apply setAon_keeps
        apply startStandby_keeps
        apply syncDegraded_keeps
        apply placeTiles_keeps
        apply homeTiles_keeps
        with_reducible assumption

theorem execGddr6TrainingEnd_keeps {s0 : State} : ∀ x0 s2, Keeps s0 s2 → KeepsOut s0 (execGddr6TrainingEnd x0 s2) := by
  intro x0 s2 h0
  unfold execGddr6TrainingEnd
  apply fabric_keeps
  · with_reducible assumption
  · intro _ _
    apply Keeps.ite
    · with_reducible assumption
    · split
      · apply startFail_keeps
        with_reducible assumption
      · split
        extract_lets +onlyGivenNames v114
        clear_value v114
        extract_lets +onlyGivenNames v113
        have kv113 : Keeps s0 v113 := by
          subst v113
          apply wr_keeps
          apply wr_keeps
          refine Keeps.of_snd (by assumption) ?_
          apply drawNat_keeps
          with_reducible assumption
        clear_value v113
        apply setAon_keeps
        apply Keeps.foldl
        · with_reducible assumption
        · intro _ _
          intro _
          apply setBits_keeps
          with_reducible assumption

theorem execStartupReady_keeps {s0 : State} : ∀ s1, Keeps s0 s1 → KeepsOut s0 (execStartupReady s1) := by
  intro s1 h0
  unfold execStartupReady
  apply fabric_keeps
  · assumption
  · intro _ _
    apply Keeps.ite
    · assumption
    · extract_lets +onlyGivenNames v196
      have kv196 : Keeps s0 v196 := by
        subst v196
        apply setAon_keeps
        apply setBits_keeps
        apply wr_keeps
        assumption
      clear_value v196
      apply Keeps.ite
      · apply powerEntered_keeps
        assumption
      · assumption

end Sys2Proof.Machine
end

