-- ==== Sys2Proof/Laws/KeepsAcser.lean ====
section
/-! SUPPORT. What the functions of Machine/Acser.lean keep: the queue of commands, the straps, the fuses and the canonical forms. -/

namespace Sys2Proof.Machine

theorem answer_keeps {s0 : State} : ∀ s1 x1, Keeps s0 s1 → Keeps s0 (answer s1 x1).next := by
  intro s1 x1 h0
  unfold answer
  assumption

theorem acser_keeps {s0 : State} : ∀ x0 x1 x2 x3 x4 x5 f6 s8, (∀ t, Keeps s0 t → Keeps s0 (f6 t).next) → Keeps s0 s8 → KeepsOut s0 (acser x0 x1 x2 x3 x4 x5 f6 s8) := by
  intro x0 x1 x2 x3 x4 x5 f6 s8 h0 h1
  unfold acser
  apply KeepsOut.next
  apply Keeps.ite
  · assumption
  · apply Keeps.ite
    · apply setSec_keeps
      · intro _
        exact ⟨rfl, rfl, rfl, rfl⟩
      · assumption
    · apply Keeps.ite
      · apply setSec_keeps
        · intro _
          exact ⟨rfl, rfl, rfl, rfl⟩
        · assumption
      · extract_lets +onlyGivenNames v116
        have kv116 : Keeps s0 v116.next := by
          subst v116
          split
          · assumption
          · split
            · assumption
            · apply h0
              assumption
        clear_value v116
        extract_lets +onlyGivenNames v115
        clear_value v115
        apply setSec_keeps
        · intro _
          exact ⟨rfl, rfl, rfl, rfl⟩
        · assumption

theorem healthRun_keeps {s0 : State} : ∀ s1, Keeps s0 s1 → Keeps s0 (healthRun s1).next := by
  intro s1 h0
  unfold healthRun
  assumption

theorem execHealth_keeps {s0 : State} : ∀ x0 x1 x2 s4, Keeps s0 s4 → KeepsOut s0 (execHealth x0 x1 x2 s4) := by
  intro x0 x1 x2 s4 h0
  unfold execHealth
  apply acser_keeps
  · intro _ _
    split
    · assumption
    · assumption
  · assumption

theorem notePins_mram (b : Bbx) (l : List Nat) : (notePins b l).mram = b.mram := rfl

theorem releasePins_wf {b : Bbx} (h : Memory.wf b.mram = true) : Memory.wf (releasePins b).mram = true := by
  unfold releasePins
  split
  · exact writeHeader_wf h
  · exact h

theorem bbxReadRun_keeps {s0 : State} : ∀ x0 s2, Keeps s0 s2 → Keeps s0 (bbxReadRun x0 s2).next := by
  intro p s h
  unfold bbxReadRun
  dsimp only
  split
  · exact h
  · apply syncBbx_keeps
    refine h.step rfl rfl rfl (Nat.le_refl _) (Nat.le_refl _) (fun _ e => e) fun i => ?_
    refine ⟨i.mem, i.regs, i.sems, ?_, i.nor, i.queue, i.svn, i.vr, i.held⟩
    split
    · exact releasePins_wf i.mram
    · exact i.mram

theorem execBbxRead_keeps {s0 : State} : ∀ x0 x1 x2 s4, Keeps s0 s4 → KeepsOut s0 (execBbxRead x0 x1 x2 s4) := by
  intro x0 x1 x2 s4 h0
  unfold execBbxRead
  apply acser_keeps
  · intro _ _
    apply bbxReadRun_keeps
    with_reducible assumption
  · with_reducible assumption

theorem execTime_keeps {s0 : State} : ∀ x0 x1 x2 s4, Keeps s0 s4 → KeepsOut s0 (execTime x0 x1 x2 s4) := by
  intro x0 x1 x2 s4 h0
  unfold execTime
  apply acser_keeps
  · intro _ _
    split
    · assumption
    · assumption
  · assumption

theorem coreReset_keeps {s0 : State} : ∀ s1, Keeps s0 s1 → Keeps s0 (coreReset s1) := by
  intro s1 h0
  unfold coreReset
  split
  · assumption
  · assumption
  · assumption
  · assumption
  · assumption
  · apply setAon_keeps
    assumption
  · apply setAon_keeps
    extract_lets +onlyGivenNames v118
    have kv118 : Keeps s0 v118 := by
      subst v118
      apply commitDone_keeps
      assumption
    clear_value v118
    refine Keeps.mk_same ?_ rfl rfl rfl rfl rfl rfl rfl rfl rfl rfl rfl rfl rfl
    assumption
  · apply setAon_keeps
    extract_lets +onlyGivenNames v118
    have kv118 : Keeps s0 v118 := by
      subst v118
      apply commitDone_keeps
      assumption
    clear_value v118
    refine Keeps.mk_same ?_ rfl rfl rfl rfl rfl rfl rfl rfl rfl rfl rfl rfl rfl
    assumption
  · apply setAon_keeps
    extract_lets +onlyGivenNames v118
    have kv118 : Keeps s0 v118 := by
      subst v118
      apply commitDone_keeps
      assumption
    clear_value v118
    refine Keeps.mk_same ?_ rfl rfl rfl rfl rfl rfl rfl rfl rfl rfl rfl rfl rfl
    assumption
  · apply setAon_keeps
    extract_lets +onlyGivenNames v118
    have kv118 : Keeps s0 v118 := by
      subst v118
      apply commitDone_keeps
      assumption
    clear_value v118
    refine Keeps.mk_same ?_ rfl rfl rfl rfl rfl rfl rfl rfl rfl rfl rfl rfl rfl
    assumption
  · apply setAon_keeps
    extract_lets +onlyGivenNames v118
    have kv118 : Keeps s0 v118 := by
      subst v118
      apply commitDone_keeps
      assumption
    clear_value v118
    refine Keeps.mk_same ?_ rfl rfl rfl rfl rfl rfl rfl rfl rfl rfl rfl rfl rfl
    assumption
  · apply setAon_keeps
    extract_lets +onlyGivenNames v118
    have kv118 : Keeps s0 v118 := by
      subst v118
      apply commitDone_keeps
      assumption
    clear_value v118
    refine Keeps.mk_same ?_ rfl rfl rfl rfl rfl rfl rfl rfl rfl rfl rfl rfl rfl
    assumption
  · apply setAon_keeps
    extract_lets +onlyGivenNames v118
    have kv118 : Keeps s0 v118 := by
      subst v118
      apply commitDone_keeps
      assumption
    clear_value v118
    refine Keeps.mk_same ?_ rfl rfl rfl rfl rfl rfl rfl rfl rfl rfl rfl rfl rfl
    assumption

theorem execCoreReset_keeps {s0 : State} : ∀ x0 x1 x2 s4, Keeps s0 s4 → KeepsOut s0 (execCoreReset x0 x1 x2 s4) := by
  intro x0 x1 x2 s4 h0
  unfold execCoreReset
  apply acser_keeps
  · intro _ _
    split
    · apply answer_keeps
      apply coreReset_keeps
      assumption
    · assumption
  · assumption

theorem powerRun_keeps {s0 : State} : ∀ x0 s2, Keeps s0 s2 → Keeps s0 (powerRun x0 s2).next := by
  intro x0 s2 h0
  unfold powerRun
  split
  · split
    · split
      · assumption
      · dsimp only
        apply wakeUp_keeps
        assumption
    · assumption
    · assumption
  · split
    · assumption
    · split
      · dsimp only
        apply powerAccept_keeps
        assumption
      · dsimp only
        apply errInfo_keeps
        assumption

theorem execAcserPower_keeps {s0 : State} : ∀ x0 x1 x2 s4, Keeps s0 s4 → KeepsOut s0 (execAcserPower x0 x1 x2 s4) := by
  intro x0 x1 x2 s4 h0
  unfold execAcserPower
  apply acser_keeps
  · intro _ _
    split
    · assumption
    · split
      · apply powerRun_keeps
        assumption
      · apply powerRun_keeps
        assumption
      · apply powerRun_keeps
        assumption
      · assumption
  · assumption

theorem execAcserSemSet_keeps {s0 : State} : ∀ x0 x1 x2 s4, Keeps s0 s4 → KeepsOut s0 (execAcserSemSet x0 x1 x2 s4) := by
  intro x0 x1 x2 s4 h0
  unfold execAcserSemSet
  apply acser_keeps
  · intro _ _
    extract_lets +onlyGivenNames v117
    clear_value v117
    split
    · assumption
    · dsimp only
      apply semSetOp_keeps
      assumption
  · assumption

theorem attestRun_keeps {s0 : State} : ∀ x0 s2, Keeps s0 s2 → Keeps s0 (attestRun x0 s2).next := by
  intro x0 s2 h0
  unfold attestRun
  extract_lets +onlyGivenNames v120
  clear_value v120
  split
  · assumption
  · split
    · split
      extract_lets +onlyGivenNames v116
      clear_value v116
      dsimp only
      apply setSec_keeps
      · intro _
        exact ⟨rfl, rfl, rfl, rfl⟩
      · refine Keeps.of_snd (by assumption) ?_
        apply freeBytes_keeps
        assumption
    · split
      · assumption
      · assumption

theorem execAttest_keeps {s0 : State} : ∀ x0 x1 x2 s4, Keeps s0 s4 → KeepsOut s0 (execAttest x0 x1 x2 s4) := by
  intro x0 x1 x2 s4 h0
  unfold execAttest
  apply acser_keeps
  · intro _ _
    apply attestRun_keeps
    assumption
  · assumption

theorem eraseSlot_wf {f : Nor} (h : tabWf (fun _ => (0xFF : Byte)) f.bytes = true) :
    tabWf (fun _ => (0xFF : Byte)) (eraseSlot f).bytes = true := tabWf_filter _ _ _ h

theorem programNor_wf {f : Nor} (a : Nat) (l : List Byte) (h : tabWf (fun _ => (0xFF : Byte)) f.bytes = true) :
    tabWf (fun _ => (0xFF : Byte)) (programNor f a l).bytes = true :=
  tabWf_foldl 0xFF _ (fun e : Nat × Byte => a + e.1) (fun e => e.2) _ h

theorem setNor_keeps {s0 : State} : ∀ s1 x1, Keeps s0 s1 →
    (∀ f : Nor, tabWf (fun _ => (0xFF : Byte)) f.bytes = true → tabWf (fun _ => (0xFF : Byte)) (x1 f).bytes = true) →
    Keeps s0 (setNor s1 x1) := by
  intro s f h hf
  refine h.step rfl rfl rfl (Nat.le_refl _) (Nat.le_refl _) (fun _ e => e) fun i => ?_
  refine ⟨i.mem, i.regs, i.sems, i.mram, ?_, i.queue, i.svn, i.vr, i.held⟩
  have n := i.nor
  revert n
  simp only [setNor, setSec, norWf]
  cases s.sec.nor with
  | none => intro n; exact n
  | some x => intro n; exact hf x n

theorem recoverStart_keeps {s0 : State} : ∀ x0 s2, Keeps s0 s2 → Keeps s0 (recoverStart x0 s2).next := by
  intro x0 s2 h0
  unfold recoverStart
  extract_lets +onlyGivenNames v120
  clear_value v120
  split
  · apply answer_keeps
    with_reducible assumption
  · extract_lets +onlyGivenNames v118
    have kv118 : Keeps s0 v118 := by
      subst v118
      apply setSec_keeps
      · intro _
        exact ⟨rfl, rfl, rfl, rfl⟩
      · apply Keeps.ite
        · with_reducible assumption
        · apply setNor_keeps
          · with_reducible assumption
          · intro _ _
            exact eraseSlot_wf (by assumption)
    clear_value v118
    extract_lets +onlyGivenNames v117
    have kv117 : Keeps s0 v117 := by
      subst v117
      apply Keeps.ite
      · apply setAon_keeps
        with_reducible assumption
      · with_reducible assumption
    clear_value v117
    with_reducible assumption

theorem recoverMore_keeps {s0 : State} : ∀ x0 s2, Keeps s0 s2 → Keeps s0 (recoverMore x0 s2).next := by
  intro x0 s2 h0
  unfold recoverMore
  extract_lets +onlyGivenNames v120
  clear_value v120
  split
  · apply answer_keeps
    with_reducible assumption
  · split
    · apply answer_keeps
      with_reducible assumption
    · extract_lets +onlyGivenNames v117
      have kv117 : Keeps s0 v117 := by
        subst v117
        apply Keeps.ite
        · apply stBytes_keeps
          with_reducible assumption
        · apply setNor_keeps
          · with_reducible assumption
          · intro _ _
            exact programNor_wf _ _ (by assumption)
      clear_value v117
      extract_lets +onlyGivenNames v116
      clear_value v116
      dsimp only
      apply setSec_keeps
      · intro _
        exact ⟨rfl, rfl, rfl, rfl⟩
      · with_reducible assumption

theorem nameRecovery_keeps {s0 : State} : ∀ s1, Keeps s0 s1 → Keeps s0 (nameRecovery s1) := by
  intro s1 h0
  unfold nameRecovery
  extract_lets +onlyGivenNames v120
  clear_value v120
  apply setNor_keeps
  · with_reducible assumption
  · intro _ _
    split
    · with_reducible assumption
    · with_reducible assumption

theorem recoveryRec_keeps {s0 : State} : ∀ s1 x1 x2, Keeps s0 s1 → Keeps s0 (recoveryRec s1 x1 x2) := by
  intro s1 x1 x2 h0
  unfold recoveryRec
  apply secRec_keeps
  assumption

theorem recoverStop_keeps {s0 : State} : ∀ x0 s2, Keeps s0 s2 → Keeps s0 (recoverStop x0 s2).next := by
  intro x0 s2 h0
  unfold recoverStop
  split
  · assumption
  · split
    · assumption
    · extract_lets +onlyGivenNames v118
      clear_value v118
      extract_lets +onlyGivenNames v117
      have kv117 : Keeps s0 v117 := by
        subst v117
        apply setSec_keeps
        · intro _
          exact ⟨rfl, rfl, rfl, rfl⟩
        · assumption
      clear_value v117
      split
      · extract_lets +onlyGivenNames v115
        have kv115 : Keeps s0 v115 := by
          subst v115
          apply recoveryRec_keeps
          apply Keeps.ite
          · assumption
          · apply nameRecovery_keeps
            assumption
        clear_value v115
        extract_lets +onlyGivenNames v114
        have kv114 : Keeps s0 v114 := by
          subst v114
          apply Keeps.ite
          · apply setAon_keeps
            apply setSec_keeps
            · intro _
              exact ⟨rfl, rfl, rfl, rfl⟩
            · assumption
          · assumption
        clear_value v114
        assumption
      · apply answer_keeps
        apply recoveryRec_keeps
        assumption

theorem execRecoverBegin_keeps {s0 : State} : ∀ x0 x1 x2 s4, Keeps s0 s4 → KeepsOut s0 (execRecoverBegin x0 x1 x2 s4) := by
  intro x0 x1 x2 s4 h0
  unfold execRecoverBegin
  apply acser_keeps
  · intro _ _
    apply recoverStart_keeps
    assumption
  · assumption

theorem execRecoverData_keeps {s0 : State} : ∀ x0 x1 x2 s4, Keeps s0 s4 → KeepsOut s0 (execRecoverData x0 x1 x2 s4) := by
  intro x0 x1 x2 s4 h0
  unfold execRecoverData
  apply acser_keeps
  · intro _ _
    apply recoverMore_keeps
    assumption
  · assumption

theorem execRecoverEnd_keeps {s0 : State} : ∀ x0 x1 x2 s4, Keeps s0 s4 → KeepsOut s0 (execRecoverEnd x0 x1 x2 s4) := by
  intro x0 x1 x2 s4 h0
  unfold execRecoverEnd
  apply acser_keeps
  · intro _ _
    apply recoverStop_keeps
    assumption
  · assumption

theorem execChallenge_keeps {s0 : State} : ∀ x0 x1 x2 s4, Keeps s0 s4 → KeepsOut s0 (execChallenge x0 x1 x2 s4) := by
  intro x0 x1 x2 s4 h0
  unfold execChallenge
  apply acser_keeps
  · intro _ _
    split
    · split
      dsimp only
      apply setSec_keeps
      · intro _
        exact ⟨rfl, rfl, rfl, rfl⟩
      · refine Keeps.of_snd (by assumption) ?_
        apply freeBytes_keeps
        assumption
    · assumption
  · assumption

theorem setSession_keeps {s0 : State} : ∀ s1 x1, Keeps s0 s1 → Keeps s0 (setSession s1 x1) := by
  intro s1 x1 h0
  unfold setSession
  apply syncSec_keeps
  apply setSec_keeps
  · intro _
    exact ⟨rfl, rfl, rfl, rfl⟩
  · with_reducible assumption

theorem authBad_keeps {s0 : State} : ∀ s1 x1 x2, Keeps s0 s1 → Keeps s0 (authBad s1 x1 x2).next := by
  intro s1 x1 x2 h0
  unfold authBad
  apply answer_keeps
  apply secRec_keeps
  apply secEvent_keeps
  apply setSession_keeps
  with_reducible assumption

theorem authRun_keeps {s0 : State} : ∀ x0 s2, Keeps s0 s2 → Keeps s0 (authRun x0 s2).next := by
  intro x0 s2 h0
  unfold authRun
  extract_lets +onlyGivenNames v120
  clear_value v120
  split
  · apply answer_keeps
    with_reducible assumption
  · split
    · apply answer_keeps
      with_reducible assumption
    · split
      · apply authBad_keeps
        with_reducible assumption
      · extract_lets +onlyGivenNames v116
        have kv116 : Keeps s0 v116 := by
          subst v116
          apply setSec_keeps
          · intro _
            exact ⟨rfl, rfl, rfl, rfl⟩
          · with_reducible assumption
        clear_value v116
        split
        · split
          · apply answer_keeps
            apply setSession_keeps
            with_reducible assumption
          · apply authBad_keeps
            with_reducible assumption
        · apply authBad_keeps
          with_reducible assumption

theorem execAuth_keeps {s0 : State} : ∀ x0 x1 x2 s4, Keeps s0 s4 → KeepsOut s0 (execAuth x0 x1 x2 s4) := by
  intro x0 x1 x2 s4 h0
  unfold execAuth
  apply acser_keeps
  · intro _ _
    apply authRun_keeps
    assumption
  · assumption

theorem execOwner_keeps {s0 : State} : ∀ x0 x1 x2 s4, Keeps s0 s4 → KeepsOut s0 (execOwner x0 x1 x2 s4) := by
  intro x0 x1 x2 s4 h0
  unfold execOwner
  apply acser_keeps
  · intro t ht
    split
    · exact ht
    · next hc =>
      simp only [not_or, Bool.not_eq_true, Option.isSome_eq_false_iff, Option.isNone_iff_eq_none] at hc
      refine ht.step rfl rfl rfl (Nat.le_refl _) (Nat.le_refl _) ?_ fun i =>
        ⟨i.mem, i.regs, i.sems, i.mram, i.nor, i.queue, i.svn, i.vr, i.held⟩
      intro k e
      rw [hc.2.2] at e
      cases e
  · exact h0

theorem execAcserSessionTimeout_keeps {s0 : State} : ∀ s1, Keeps s0 s1 → KeepsOut s0 (execAcserSessionTimeout s1) := by
  intro s1 h0
  unfold execAcserSessionTimeout
  apply KeepsOut.next
  apply Keeps.ite
  · apply setSession_keeps
    with_reducible assumption
  · with_reducible assumption

theorem execAcserResponseRead_keeps {s0 : State} : ∀ x0 s2, Keeps s0 s2 → KeepsOut s0 (execAcserResponseRead x0 s2) := by
  intro x0 s2 h0
  unfold execAcserResponseRead
  apply KeepsOut.next
  apply Keeps.ite
  · extract_lets +onlyGivenNames v118
    clear_value v118
    apply setAon_keeps
    assumption
  · assumption

end Sys2Proof.Machine
end

