-- ==== Sys2Proof/Laws/KeepsIngress.lean ====
section
/-! SUPPORT. What the functions of Machine/Ingress.lean keep: the queue of commands, the straps, the fuses and the canonical forms. -/

namespace Sys2Proof.Machine

theorem setFsSlot_keeps {s0 : State} : ∀ s1 x1 x2, Keeps s0 s1 → Keeps s0 (setFsSlot s1 x1 x2) := by
  intro s1 x1 x2 h0
  unfold setFsSlot
  extract_lets +onlyGivenNames v200
  clear_value v200
  extract_lets +onlyGivenNames v199
  have kv199 : Keeps s0 v199 := by
    subst v199
    refine Keeps.mk_same ?_ rfl rfl rfl rfl rfl rfl rfl rfl rfl rfl rfl rfl rfl
    assumption
  clear_value v199
  extract_lets +onlyGivenNames v198
  have kv198 : Keeps s0 v198 := by
    subst v198
    apply wr_keeps
    assumption
  clear_value v198
  apply wf_keeps
  apply wf_keeps
  assumption

theorem fsEvent_keeps {s0 : State} : ∀ s1 x1 x2, Keeps s0 s1 → Keeps s0 (fsEvent s1 x1 x2) := by
  intro s1 x1 x2 h0
  unfold fsEvent
  apply setBits_keeps
  assumption

theorem judge_keeps {s0 : State} : ∀ s1 x1 x2 x3, Keeps s0 s1 → Keeps s0 (judge s1 x1 x2 x3).1 := by
  intro s1 x1 x2 x3 h0
  unfold judge
  extract_lets +onlyGivenNames v200
  clear_value v200
  extract_lets +onlyGivenNames v199
  clear_value v199
  extract_lets +onlyGivenNames v198
  clear_value v198
  extract_lets +onlyGivenNames v197
  clear_value v197
  split
  split
  split
  · dsimp only
    apply setFsSlot_keeps
    refine Keeps.of_snd (by assumption) ?_
    apply drawInt_keeps
    refine Keeps.of_snd (by assumption) ?_
    apply drawInt_keeps
    assumption
  · extract_lets +onlyGivenNames v193
    clear_value v193
    extract_lets +onlyGivenNames v192
    clear_value v192
    extract_lets +onlyGivenNames v191
    have kv191 : Keeps s0 v191 := by
      subst v191
      apply wr_keeps
      refine Keeps.of_snd (by assumption) ?_
      apply drawInt_keeps
      refine Keeps.of_snd (by assumption) ?_
      apply drawInt_keeps
      assumption
    clear_value v191
    split
    · extract_lets +onlyGivenNames v189
      clear_value v189
      extract_lets +onlyGivenNames v188
      clear_value v188
      extract_lets +onlyGivenNames v187
      have kv187 : Keeps s0 v187 := by
        subst v187
        apply bump_keeps
        apply setFsSlot_keeps
        assumption
      clear_value v187
      dsimp only
      apply when_keeps
      · assumption
      · intro _ _
        apply fsEvent_keeps
        assumption
    · split
      · dsimp only
        apply setFsSlot_keeps
        assumption
      · extract_lets +onlyGivenNames v188
        clear_value v188
        dsimp only
        apply when_keeps
        · apply setFsSlot_keeps
          assumption
        · intro _ _
          apply fsEvent_keeps
          assumption

theorem unjudged_keeps {s0 : State} : ∀ s1 x1, Keeps s0 s1 → Keeps s0 (unjudged s1 x1).1 := by
  intro s1 x1 h0
  unfold unjudged
  split
  dsimp only
  refine Keeps.of_snd (by assumption) ?_
  apply drawInt_keeps
  assumption

theorem assignTime_keeps {s0 : State} : ∀ s1 x1 x2, Keeps s0 s1 → Keeps s0 (assignTime s1 x1 x2).1 := by
  intro s1 x1 x2 h0
  unfold assignTime
  split
  · assumption
  · extract_lets +onlyGivenNames v119
    clear_value v119
    split
    dsimp only
    refine Keeps.of_fst (by assumption) ?_
    split
    · apply judge_keeps
      assumption
    · apply unjudged_keeps
      assumption

theorem stampPair_keeps {s0 : State} : ∀ s1 x1 x2, Keeps s0 s1 → Keeps s0 (stampPair s1 x1 x2) := by
  intro s1 x1 x2 h0
  unfold stampPair
  extract_lets +onlyGivenNames v200
  clear_value v200
  extract_lets +onlyGivenNames v199
  clear_value v199
  extract_lets +onlyGivenNames v198
  clear_value v198
  extract_lets +onlyGivenNames v197
  clear_value v197
  apply stBytes_keeps
  assumption

theorem latchPair_keeps {s0 : State} : ∀ s1 x1 x2, Keeps s0 s1 → Keeps s0 (latchPair s1 x1 x2) := by
  intro s1 x1 x2 h0
  unfold latchPair
  extract_lets +onlyGivenNames v200
  have kv200 : Keeps s0 v200 := by
    subst v200
    apply Keeps.ite
    · apply bump_keeps
      assumption
    · assumption
  clear_value v200
  apply wr_keeps
  refine Keeps.mk_same ?_ rfl rfl rfl rfl rfl rfl rfl rfl rfl rfl rfl rfl rfl
  assumption

theorem setWaiting_keeps {s0 : State} : ∀ s1 x1 x2, Keeps s0 s1 → Keeps s0 (setWaiting s1 x1 x2) := by
  intro s1 x1 x2 h0
  unfold setWaiting
  refine Keeps.mk_same ?_ rfl rfl rfl rfl rfl rfl rfl rfl rfl rfl rfl rfl rfl
  assumption

theorem markDecided_keeps {s0 : State} : ∀ s1 x1 x2, Keeps s0 s1 → Keeps s0 (markDecided s1 x1 x2) := by
  intro s1 x1 x2 h0
  unfold markDecided
  extract_lets +onlyGivenNames v200
  clear_value v200
  refine Keeps.mk_same ?_ rfl rfl rfl rfl rfl rfl rfl rfl rfl rfl rfl rfl rfl
  assumption

theorem decideMono_keeps {s0 : State} : ∀ s1 x1 x2, Keeps s0 s1 → Keeps s0 (decideMono s1 x1 x2) := by
  intro s1 x1 x2 h0
  unfold decideMono
  split
  extract_lets +onlyGivenNames v119
  clear_value v119
  extract_lets +onlyGivenNames v118
  have kv118 : Keeps s0 v118 := by
    subst v118
    apply latchPair_keeps
    apply bump_keeps
    apply markDecided_keeps
    apply stampPair_keeps
    refine Keeps.of_snd (by assumption) ?_
    apply drawNat_keeps
    with_reducible assumption
  clear_value v118
  apply signalAfter_keeps
  with_reducible assumption

theorem decidePaired_keeps {s0 : State} : ∀ s1 x1 x2 x3, Keeps s0 s1 → Keeps s0 (decidePaired s1 x1 x2 x3) := by
  intro s1 x1 x2 x3 h0
  unfold decidePaired
  extract_lets +onlyGivenNames v120
  clear_value v120
  extract_lets +onlyGivenNames v119
  clear_value v119
  extract_lets +onlyGivenNames v118
  have kv118 : Keeps s0 v118 := by
    subst v118
    apply markDecided_keeps
    apply markDecided_keeps
    apply stampPair_keeps
    apply stampPair_keeps
    with_reducible assumption
  clear_value v118
  extract_lets +onlyGivenNames v117
  have kv117 : Keeps s0 v117 := by
    subst v117
    apply latchPair_keeps
    with_reducible assumption
  clear_value v117
  apply signalAfter_keeps
  with_reducible assumption

theorem pairFrame_keeps {s0 : State} : ∀ s1 x1 x2, Keeps s0 s1 → Keeps s0 (pairFrame s1 x1 x2) := by
  intro s1 x1 x2 h0
  unfold pairFrame
  extract_lets +onlyGivenNames v200
  clear_value v200
  extract_lets +onlyGivenNames v199
  clear_value v199
  split
  · apply decidePaired_keeps
    apply setWaiting_keeps
    assumption
  · apply Keeps.ite
    · apply decideMono_keeps
      assumption
    · apply setWaiting_keeps
      assumption

theorem execPairWaitExpire_keeps {s0 : State} : ∀ x0 x1 s3, Keeps s0 s3 → KeepsOut s0 (execPairWaitExpire x0 x1 s3) := by
  intro x0 x1 s3 h0
  unfold execPairWaitExpire
  apply fabric_keeps
  · assumption
  · intro _ _
    extract_lets +onlyGivenNames v197
    clear_value v197
    split
    · apply decideMono_keeps
      apply setWaiting_keeps
      assumption
    · assumption

theorem zeroLines_keeps {s0 : State} : ∀ s1 x1 x2 x3, Keeps s0 s1 → Keeps s0 (zeroLines s1 x1 x2 x3) := by
  intro s1 x1 x2 x3 h0
  unfold zeroLines
  apply Keeps.foldl
  · assumption
  · intro _ _
    intro _
    apply Keeps.ite
    · apply stZero_keeps
      assumption
    · assumption

theorem forgetEntry_keeps {s0 : State} : ∀ s1 x1 x2, Keeps s0 s1 → Keeps s0 (forgetEntry s1 x1 x2) := by
  intro s1 x1 x2 h0
  unfold forgetEntry
  split
  · apply setFsSlot_keeps
    with_reducible assumption
  · with_reducible assumption

theorem closeFrame_keeps {s0 : State} : ∀ s1 x1 x2 x3, Keeps s0 s1 → Keeps s0 (closeFrame s1 x1 x2 x3) := by
  intro s1 x1 x2 x3 h0
  unfold closeFrame
  split
  · with_reducible assumption
  · extract_lets +onlyGivenNames v119
    clear_value v119
    extract_lets +onlyGivenNames v118
    clear_value v118
    extract_lets +onlyGivenNames v117
    clear_value v117
    split
    extract_lets +onlyGivenNames v115
    clear_value v115
    extract_lets +onlyGivenNames v114
    have kv114 : Keeps s0 v114 := by
      subst v114
      apply setFsSlot_keeps
      refine Keeps.of_fst (by assumption) ?_
      split
      · split
        dsimp only
        refine Keeps.of_fst (by assumption) ?_
        apply unjudged_keeps
        with_reducible assumption
      · apply assignTime_keeps
        apply when_keeps
        · with_reducible assumption
        · intro _ _
          apply forgetEntry_keeps
          with_reducible assumption
    clear_value v114
    extract_lets +onlyGivenNames v113
    have kv113 : Keeps s0 v113 := by
      subst v113
      apply when_keeps
      · with_reducible assumption
      · intro _ _
        apply fsEvent_keeps
        with_reducible assumption
    clear_value v113
    split
    · with_reducible assumption
    · extract_lets +onlyGivenNames v111
      have kv111 : Keeps s0 v111 := by
        subst v111
        apply Keeps.ite
        · apply buildPyramid_keeps
          apply zeroLines_keeps
          with_reducible assumption
        · with_reducible assumption
      clear_value v111
      extract_lets +onlyGivenNames v110
      clear_value v110
      extract_lets +onlyGivenNames v109
      clear_value v109
      extract_lets +onlyGivenNames v108
      have kv108 : Keeps s0 v108 := by
        subst v108
        apply stBytes_keeps
        with_reducible assumption
      clear_value v108
      extract_lets +onlyGivenNames v107
      have kv107 : Keeps s0 v107 := by
        subst v107
        apply wr_keeps
        with_reducible assumption
      clear_value v107
      extract_lets +onlyGivenNames v106
      have kv106 : Keeps s0 v106 := by
        subst v106
        apply signalAfter_keeps
        with_reducible assumption
      clear_value v106
      split
      · apply pairFrame_keeps
        with_reducible assumption
      · with_reducible assumption

theorem takeBuffer_keeps {s0 : State} : ∀ s1 x1, Keeps s0 s1 → Keeps s0 (takeBuffer s1 x1).1 := by
  intro s1 x1 h0
  unfold takeBuffer
  extract_lets +onlyGivenNames v200
  clear_value v200
  extract_lets +onlyGivenNames v199
  clear_value v199
  extract_lets +onlyGivenNames v198
  clear_value v198
  extract_lets +onlyGivenNames v197
  have kv197 : Keeps s0 v197 := by
    subst v197
    apply Keeps.ite
    · assumption
    · apply semWaitsubOp_keeps
      assumption
  clear_value v197
  split
  · dsimp only
    apply setFsSlot_keeps
    assumption
  · dsimp only
    apply fsEvent_keeps
    apply bump_keeps
    assumption

theorem openFrame_keeps {s0 : State} : ∀ s1 x1 x2 x3, Keeps s0 s1 → Keeps s0 (openFrame s1 x1 x2 x3) := by
  intro s1 x1 x2 x3 h0
  unfold openFrame
  extract_lets +onlyGivenNames v120
  clear_value v120
  extract_lets +onlyGivenNames v119
  have kv119 : Keeps s0 v119 := by
    subst v119
    split
    · apply closeFrame_keeps
      apply setFsSlot_keeps
      assumption
    · assumption
  clear_value v119
  extract_lets +onlyGivenNames v118
  clear_value v118
  extract_lets +onlyGivenNames v117
  have kv117 : Keeps s0 v117 := by
    subst v117
    apply when_keeps
    · assumption
    · intro _ _
      apply fsEvent_keeps
      apply clrBits_keeps
      assumption
  clear_value v117
  extract_lets +onlyGivenNames v116
  have kv116 : Keeps s0 v116 := by
    subst v116
    apply bumpWrap_keeps
    assumption
  clear_value v116
  split
  extract_lets +onlyGivenNames v114
  clear_value v114
  extract_lets +onlyGivenNames v113
  clear_value v113
  extract_lets +onlyGivenNames v112
  have kv112 : Keeps s0 v112 := by
    subst v112
    apply setFsSlot_keeps
    refine Keeps.of_fst (by assumption) ?_
    apply takeBuffer_keeps
    assumption
  clear_value v112
  split
  · apply Keeps.ite
    · apply stZero_keeps
      assumption
    · assumption
  · assumption

theorem updFrame_keeps {s0 : State} : ∀ s1 x1 x2, Keeps s0 s1 → Keeps s0 (updFrame s1 x1 x2) := by
  intro s1 x1 x2 h0
  unfold updFrame
  split
  · apply setFsSlot_keeps
    assumption
  · assumption

theorem countRaise_keeps {s0 : State} : ∀ s1 x1 x2, Keeps s0 s1 → Keeps s0 (countRaise s1 x1 x2) := by
  intro s1 x1 x2 h0
  unfold countRaise
  apply Keeps.ite
  · with_reducible assumption
  · apply raiseEdge_keeps
    apply bump_keeps
    with_reducible assumption

theorem csiCount_keeps {s0 : State} : ∀ s1 x1 x2, Keeps s0 s1 → Keeps s0 (csiCount s1 x1 x2) := by
  intro s1 x1 x2 h0
  unfold csiCount
  apply countRaise_keeps
  with_reducible assumption

theorem csiPacket_keeps {s0 : State} : ∀ s1 x1 x2 x3 x4 f5, Keeps s0 s1 → (∀ t y1, Keeps s0 t → Keeps s0 (f5 t y1)) → Keeps s0 (csiPacket s1 x1 x2 x3 x4 f5) := by
  intro s1 x1 x2 x3 x4 f5 h0 h1
  unfold csiPacket
  apply Keeps.ite
  · assumption
  · apply Keeps.ite
    · apply csiCount_keeps
      assumption
    · extract_lets +onlyGivenNames v198
      have kv198 : Keeps s0 v198 := by
        subst v198
        apply Keeps.ite
        · apply csiCount_keeps
          assumption
        · assumption
      clear_value v198
      split
      · apply csiCount_keeps
        assumption
      · apply Keeps.foldl
        · assumption
        · assumption

theorem execCsiFrameStart_keeps {s0 : State} : ∀ x0 x1 x2 s4, Keeps s0 s4 → KeepsOut s0 (execCsiFrameStart x0 x1 x2 s4) := by
  intro x0 x1 x2 s4 h0
  unfold execCsiFrameStart
  apply fabric_keeps
  · assumption
  · intro _ _
    apply csiPacket_keeps
    · assumption
    · intro _ _
      intro _
      apply openFrame_keeps
      assumption

theorem execCsiLineStart_keeps {s0 : State} : ∀ x0 x1 x2 x3 s5, Keeps s0 s5 → KeepsOut s0 (execCsiLineStart x0 x1 x2 x3 s5) := by
  intro x0 x1 x2 x3 s5 h0
  unfold execCsiLineStart
  apply fabric_keeps
  · with_reducible assumption
  · intro _ _
    apply csiPacket_keeps
    · with_reducible assumption
    · intro _ _
      intro _
      split
      · apply Keeps.ite
        · apply stN_keeps
          with_reducible assumption
        · with_reducible assumption
      · with_reducible assumption

theorem takeLine_keeps {s0 : State} : ∀ x0 x1 x2 s4 x4, Keeps s0 s4 → Keeps s0 (takeLine x0 x1 x2 s4 x4) := by
  intro x0 x1 x2 s4 x4 h0
  unfold takeLine
  split
  · assumption
  · extract_lets +onlyGivenNames v199
    clear_value v199
    extract_lets +onlyGivenNames v198
    clear_value v198
    extract_lets +onlyGivenNames v197
    clear_value v197
    extract_lets +onlyGivenNames v196
    have kv196 : Keeps s0 v196 := by
      subst v196
      apply updFrame_keeps
      assumption
    clear_value v196
    split
    · assumption
    · apply Keeps.ite
      · apply stBytes_keeps
        assumption
      · assumption

theorem execCsiLine_keeps {s0 : State} : ∀ x0 x1 x2 x3 x4 x5 s7, Keeps s0 s7 → KeepsOut s0 (execCsiLine x0 x1 x2 x3 x4 x5 s7) := by
  intro x0 x1 x2 x3 x4 x5 s7 h0
  unfold execCsiLine
  apply fabric_keeps
  · assumption
  · intro _ _
    extract_lets +onlyGivenNames v197
    have kv197 : Keeps s0 v197 := by
      subst v197
      apply Keeps.ite
      · apply csiCount_keeps
        assumption
      · assumption
    clear_value v197
    apply csiPacket_keeps
    · assumption
    · intro _ _
      intro _
      apply takeLine_keeps
      assumption

theorem takeEmbedded_keeps {s0 : State} : ∀ x0 x1 s3 x3, Keeps s0 s3 → Keeps s0 (takeEmbedded x0 x1 s3 x3) := by
  intro x0 x1 s3 x3 h0
  unfold takeEmbedded
  split
  · assumption
  · extract_lets +onlyGivenNames v199
    clear_value v199
    extract_lets +onlyGivenNames v198
    clear_value v198
    extract_lets +onlyGivenNames v197
    clear_value v197
    extract_lets +onlyGivenNames v196
    have kv196 : Keeps s0 v196 := by
      subst v196
      apply updFrame_keeps
      assumption
    clear_value v196
    apply Keeps.ite
    · extract_lets +onlyGivenNames v194
      clear_value v194
      extract_lets +onlyGivenNames v193
      clear_value v193
      extract_lets +onlyGivenNames v192
      clear_value v192
      apply updFrame_keeps
      apply setFsSlot_keeps
      assumption
    · assumption

theorem execCsiEmbeddedData_keeps {s0 : State} : ∀ x0 x1 x2 x3 x4 s6, Keeps s0 s6 → KeepsOut s0 (execCsiEmbeddedData x0 x1 x2 x3 x4 s6) := by
  intro x0 x1 x2 x3 x4 s6 h0
  unfold execCsiEmbeddedData
  apply fabric_keeps
  · assumption
  · intro _ _
    extract_lets +onlyGivenNames v197
    have kv197 : Keeps s0 v197 := by
      subst v197
      apply Keeps.ite
      · apply csiCount_keeps
        assumption
      · assumption
    clear_value v197
    apply csiPacket_keeps
    · assumption
    · intro _ _
      intro _
      apply takeEmbedded_keeps
      assumption

theorem execCsiFrameEnd_keeps {s0 : State} : ∀ x0 x1 x2 s4, Keeps s0 s4 → KeepsOut s0 (execCsiFrameEnd x0 x1 x2 s4) := by
  intro x0 x1 x2 s4 h0
  unfold execCsiFrameEnd
  apply fabric_keeps
  · assumption
  · intro _ _
    apply csiPacket_keeps
    · assumption
    · intro _ _
      intro _
      apply closeFrame_keeps
      assumption

theorem openSweep_keeps {s0 : State} : ∀ s1 x1 x2 x3, Keeps s0 s1 → Keeps s0 (openSweep s1 x1 x2 x3) := by
  intro s1 x1 x2 x3 h0
  unfold openSweep
  extract_lets +onlyGivenNames v120
  have kv120 : Keeps s0 v120 := by
    subst v120
    apply openFrame_keeps
    assumption
  clear_value v120
  split
  · split
    apply setFsSlot_keeps
    refine Keeps.of_fst (by assumption) ?_
    apply assignTime_keeps
    assumption
  · assumption

theorem packetPoints_keeps {s0 : State} : ∀ x0 x1 x2 x3 x4 x5 x6 x7 s9, Keeps s0 s9 →
    Keeps s0 (packetPoints x0 x1 x2 x3 x4 x5 x6 x7 s9) := by
  intro e t n sv stamp pl k
  induction k with
  | zero => intro j s h; exact h
  | succ k ih =>
    intro j s h
    unfold packetPoints
    split
    · exact ih _ _ h
    · extract_lets w ofs past s1 s2
      apply ih
      subst s2
      have h1 : Keeps s0 s1 := by
        subst s1
        exact Keeps.ite (openSweep_keeps _ _ _ _ (closeFrame_keeps _ _ _ _ h)) h
      clear_value s1
      split
      · exact h1
      · next fr _ =>
        have h2 := drawNat_keeps s1 h1
        dsimp only
        split
        · exact updFrame_keeps _ _ _ h2
        · split
          · exact updFrame_keeps _ _ _ h2
          · exact stBytes_keeps _ _ _ (updFrame_keeps _ _ _ h2)

theorem takePacket_keeps {s0 : State} : ∀ s1 x1 x2 x3 x4, Keeps s0 s1 → Keeps s0 (takePacket s1 x1 x2 x3 x4) := by
  intro s1 x1 x2 x3 x4 h0
  unfold takePacket
  extract_lets +onlyGivenNames v200
  clear_value v200
  extract_lets +onlyGivenNames v199
  clear_value v199
  extract_lets +onlyGivenNames v198
  clear_value v198
  extract_lets +onlyGivenNames v197
  clear_value v197
  extract_lets +onlyGivenNames v196
  have kv196 : Keeps s0 v196 := by
    subst v196
    refine Keeps.mk_same ?_ rfl rfl rfl rfl rfl rfl rfl rfl rfl rfl rfl rfl rfl
    assumption
  clear_value v196
  extract_lets +onlyGivenNames v195
  clear_value v195
  extract_lets +onlyGivenNames v194
  clear_value v194
  extract_lets +onlyGivenNames v193
  clear_value v193
  extract_lets +onlyGivenNames v192
  clear_value v192
  extract_lets +onlyGivenNames v191
  clear_value v191
  extract_lets +onlyGivenNames v190
  have kv190 : Keeps s0 v190 := by
    subst v190
    apply Keeps.ite
    · apply closeFrame_keeps
      assumption
    · assumption
  clear_value v190
  extract_lets +onlyGivenNames v189
  have kv189 : Keeps s0 v189 := by
    subst v189
    apply Keeps.ite
    · assumption
    · apply openSweep_keeps
      assumption
  clear_value v189
  extract_lets +onlyGivenNames v188
  clear_value v188
  extract_lets +onlyGivenNames v187
  have kv187 : Keeps s0 v187 := by
    subst v187
    apply setFsSlot_keeps
    assumption
  clear_value v187
  extract_lets +onlyGivenNames v186
  have kv186 : Keeps s0 v186 := by
    subst v186
    apply packetPoints_keeps
    assumption
  clear_value v186
  extract_lets +onlyGivenNames v185
  have kv185 : Keeps s0 v185 := by
    subst v185
    apply updFrame_keeps
    assumption
  clear_value v185
  split
  · apply Keeps.ite
    · apply closeFrame_keeps
      assumption
    · assumption
  · assumption

theorem execEthFrameRx_keeps {s0 : State} : ∀ x0 x1 s3, Keeps s0 s3 → KeepsOut s0 (execEthFrameRx x0 x1 s3) := by
  intro x0 x1 s3 h0
  unfold execEthFrameRx
  apply fabric_keeps
  · with_reducible assumption
  · intro _ _
    apply Keeps.ite
    · with_reducible assumption
    · extract_lets +onlyGivenNames v116
      have kv116 : Keeps s0 v116 := by
        subst v116
        apply countRaise_keeps
        with_reducible assumption
      clear_value v116
      split
      · with_reducible assumption
      · split
        · with_reducible assumption
        · extract_lets +onlyGivenNames v113
          clear_value v113
          apply Keeps.ite
          · apply takePacket_keeps
            apply bumpWrap_keeps
            with_reducible assumption
          · with_reducible assumption

theorem setImuSlot_keeps {s0 : State} : ∀ s1 x1 x2, Keeps s0 s1 → Keeps s0 (setImuSlot s1 x1 x2) := by
  intro s1 x1 x2 h0
  unfold setImuSlot
  apply wf_keeps
  refine Keeps.mk_same ?_ rfl rfl rfl rfl rfl rfl rfl rfl rfl rfl rfl rfl rfl
  assumption

theorem execImuDataReady_keeps {s0 : State} : ∀ x0 x1 s3, Keeps s0 s3 → KeepsOut s0 (execImuDataReady x0 x1 s3) := by
  intro x0 x1 s3 h0
  unfold execImuDataReady
  apply fabric_keeps
  · assumption
  · intro _ _
    extract_lets +onlyGivenNames v197
    clear_value v197
    apply Keeps.ite
    · assumption
    · extract_lets +onlyGivenNames v195
      clear_value v195
      extract_lets +onlyGivenNames v194
      have kv194 : Keeps s0 v194 := by
        subst v194
        apply when_keeps
        · assumption
        · intro _ _
          apply setBits_keeps
          apply clrBits_keeps
          assumption
      clear_value v194
      extract_lets +onlyGivenNames v193
      clear_value v193
      extract_lets +onlyGivenNames v192
      clear_value v192
      apply Keeps.ite
      · apply setBits_keeps
        apply bump_keeps
        apply setImuSlot_keeps
        assumption
      · apply setImuSlot_keeps
        assumption

theorem imuRead_keeps {s0 : State} : ∀ s1 x1 x2, Keeps s0 s1 → Keeps s0 (imuRead s1 x1 x2).2 := by
  intro s1 x1 x2 h0
  unfold imuRead
  extract_lets +onlyGivenNames v120
  clear_value v120
  extract_lets +onlyGivenNames v119
  clear_value v119
  dsimp only
  refine Keeps.mk_same ?_ rfl rfl rfl rfl rfl rfl rfl rfl rfl rfl rfl rfl rfl
  with_reducible assumption

theorem execImuTransactionEnd_keeps {s0 : State} : ∀ x0 x1 s3, Keeps s0 s3 → KeepsOut s0 (execImuTransactionEnd x0 x1 s3) := by
  intro x0 x1 s3 h0
  unfold execImuTransactionEnd
  apply fabric_keeps
  · with_reducible assumption
  · intro _ _
    extract_lets +onlyGivenNames v117
    clear_value v117
    split
    · with_reducible assumption
    · split
      extract_lets +onlyGivenNames v114
      have kv114 : Keeps s0 v114 := by
        subst v114
        apply bumpWrap_keeps
        apply setImuSlot_keeps
        refine Keeps.of_snd (by assumption) ?_
        apply imuRead_keeps
        with_reducible assumption
      clear_value v114
      extract_lets +onlyGivenNames v113
      have kv113 : Keeps s0 v113 := by
        subst v113
        apply ifcSample_keeps
        with_reducible assumption
      clear_value v113
      apply Keeps.foldl
      · with_reducible assumption
      · intro _ _
        intro _
        apply ifcSample_keeps
        with_reducible assumption

theorem execIngIsStampLoRead_keeps {s0 : State} : ∀ x0 s2, Keeps s0 s2 → KeepsOut s0 (execIngIsStampLoRead x0 s2) := by
  intro x0 s2 h0
  unfold execIngIsStampLoRead
  apply fabric_keeps
  · assumption
  · intro _ _
    apply capture_keeps
    assumption

theorem execStreamLost_keeps {s0 : State} : ∀ x0 s2, Keeps s0 s2 → KeepsOut s0 (execStreamLost x0 s2) := by
  intro x0 s2 h0
  unfold execStreamLost
  apply fabric_keeps
  · with_reducible assumption
  · intro _ _
    split
    · apply Keeps.ite
      · apply fsEvent_keeps
        apply setBits_keeps
        with_reducible assumption
      · with_reducible assumption
    · apply Keeps.ite
      · apply when_keeps
        · apply when_keeps
          · apply setBits_keeps
            apply setBits_keeps
            with_reducible assumption
          · intro _ _
            refine Keeps.mk_same ?_ rfl rfl rfl rfl rfl rfl rfl rfl rfl rfl rfl rfl rfl
            with_reducible assumption
        · intro _ _
          apply ifcRestart_keeps
          with_reducible assumption
      · with_reducible assumption

theorem ingErr_keeps {s0 : State} : ∀ s1 x1 x2, Keeps s0 s1 → Keeps s0 (ingErr s1 x1 x2) := by
  intro s1 x1 x2 h0
  unfold ingErr
  apply errInfo_keeps
  assumption

theorem enWrite_keeps {s0 : State} : ∀ s1 x1 x2 x3 x4 f5 f6, Keeps s0 s1 → (∀ t, Keeps s0 t → Keeps s0 (f5 t)) → (∀ t, Keeps s0 t → Keeps s0 (f6 t)) → Keeps s0 (enWrite s1 x1 x2 x3 x4 f5 f6) := by
  intro s1 x1 x2 x3 x4 f5 f6 h0 h1 h2
  unfold enWrite
  apply Keeps.ite
  · apply Keeps.ite
    · apply ingErr_keeps
      assumption
    · apply h2
      apply wr_keeps
      assumption
  · apply Keeps.ite
    · extract_lets +onlyGivenNames v118
      have kv118 : Keeps s0 v118 := by
        subst v118
        apply wr_keeps
        assumption
      clear_value v118
      apply Keeps.ite
      · apply h1
        assumption
      · apply ingErr_keeps
        apply wr_keeps
        assumption
    · apply wr_keeps
      assumption

theorem closeOnDisable_keeps {s0 : State} : ∀ s1 x1, Keeps s0 s1 → Keeps s0 (closeOnDisable s1 x1) := by
  intro s1 x1 h0
  unfold closeOnDisable
  split
  · apply closeFrame_keeps
    apply setFsSlot_keeps
    assumption
  · assumption

theorem fsCfgWrite_keeps {s0 : State} : ∀ s1 x1 x2, Keeps s0 s1 → Keeps s0 (fsCfgWrite s1 x1 x2) := by
  intro s1 x1 x2 h0
  unfold fsCfgWrite
  extract_lets +onlyGivenNames v200
  clear_value v200
  apply Keeps.ite
  · apply clrBits_keeps
    apply wr_keeps
    apply closeOnDisable_keeps
    assumption
  · apply enWrite_keeps
    · assumption
    · intro _ _
      apply builderEnable_keeps
      apply setFsSlot_keeps
      assumption
    · intro _ _
      assumption

theorem execIngConfigWrite_keeps {s0 : State} : ∀ x0 x1 s3, Keeps s0 s3 → KeepsOut s0 (execIngConfigWrite x0 x1 s3) := by
  intro x0 x1 s3 h0
  unfold execIngConfigWrite
  apply fabric_keeps
  · with_reducible assumption
  · intro _ _
    extract_lets +onlyGivenNames v117
    clear_value v117
    split
    · with_reducible assumption
    · extract_lets +onlyGivenNames v115
      clear_value v115
      apply Keeps.ite
      · with_reducible assumption
      · apply Keeps.ite
        · apply wr_keeps
          with_reducible assumption
        · apply Keeps.ite
          · extract_lets +onlyGivenNames v111
            clear_value v111
            apply Keeps.ite
            · extract_lets +onlyGivenNames v109
              clear_value v109
              apply enWrite_keeps
              · with_reducible assumption
              · intro _ _
                assumption
              · intro _ _
                refine Keeps.mk_same ?_ rfl rfl rfl rfl rfl rfl rfl rfl rfl rfl rfl rfl rfl
                with_reducible assumption
            · apply Keeps.ite
              · apply ingErr_keeps
                with_reducible assumption
              · apply wr_keeps
                with_reducible assumption
          · apply Keeps.ite
            · extract_lets +onlyGivenNames v110
              clear_value v110
              apply Keeps.ite
              · apply fsCfgWrite_keeps
                with_reducible assumption
              · apply Keeps.ite
                · apply ingErr_keeps
                  with_reducible assumption
                · apply wr_keeps
                  with_reducible assumption
            · apply Keeps.ite
              · extract_lets +onlyGivenNames v109
                clear_value v109
                extract_lets +onlyGivenNames v108
                clear_value v108
                apply Keeps.ite
                · apply enWrite_keeps
                  · with_reducible assumption
                  · intro _ _
                    assumption
                  · intro _ _
                    assumption
                · apply Keeps.ite
                  · apply ingErr_keeps
                    with_reducible assumption
                  · apply wr_keeps
                    with_reducible assumption
              · extract_lets +onlyGivenNames v109
                clear_value v109
                apply Keeps.ite
                · apply enWrite_keeps
                  · with_reducible assumption
                  · intro _ _
                    apply setImuSlot_keeps
                    with_reducible assumption
                  · intro _ _
                    apply clrBits_keeps
                    apply setImuSlot_keeps
                    with_reducible assumption
                · apply Keeps.ite
                  · apply ingErr_keeps
                    with_reducible assumption
                  · apply wr_keeps
                    with_reducible assumption

theorem execIngCtrlWrite_keeps {s0 : State} : ∀ x0 s2, Keeps s0 s2 → KeepsOut s0 (execIngCtrlWrite x0 s2) := by
  intro x0 s2 h0
  unfold execIngCtrlWrite
  apply fabric_keeps
  · with_reducible assumption
  · intro _ _
    extract_lets +onlyGivenNames v117
    have kv117 : Keeps s0 v117 := by
      subst v117
      apply wr_keeps
      with_reducible assumption
    clear_value v117
    apply Keeps.ite
    · apply Keeps.foldl
      · with_reducible assumption
      · intro _ _
        intro _
        apply closeOnDisable_keeps
        with_reducible assumption
    · with_reducible assumption

end Sys2Proof.Machine
end

