-- ==== Sys2Proof/Laws/KeepsRegisters.lean ====
section
/-! SUPPORT. What the functions of Machine/Registers.lean keep: the queue of commands, the straps, the fuses and the canonical forms. -/

namespace Sys2Proof.Machine

theorem outState_keeps {s0 : State} : ∀ x0 s2, KeepsOut s0 x0 → Keeps s0 s2 → Keeps s0 (outState x0 s2) := by
  intro o s ho h
  cases o with
  | next t => exact ho t rfl
  | fault r => exact h
  | refused r => exact h

theorem plainWrite_keeps {s0 : State} : ∀ s1 x1 x2 x3, Keeps s0 s1 → Keeps s0 (plainWrite s1 x1 x2 x3) := by
  intro s1 x1 x2 x3 h0
  unfold plainWrite
  extract_lets +onlyGivenNames v120
  clear_value v120
  extract_lets +onlyGivenNames v119
  clear_value v119
  extract_lets +onlyGivenNames v118
  have kv118 : Keeps s0 v118 := by
    subst v118
    apply wr_keeps
    with_reducible assumption
  clear_value v118
  apply Keeps.ite
  · apply glbErr_keeps
    with_reducible assumption
  · with_reducible assumption

theorem stepCtrlWrite_keeps {s0 : State} : ∀ x0 s2, Keeps s0 s2 → KeepsOut s0 (stepCtrlWrite x0 s2) := by
  intro x0 s2 h0
  unfold stepCtrlWrite
  extract_lets +onlyGivenNames v120
  clear_value v120
  apply KeepsOut.ite
  · apply execStepCancel_keeps
    with_reducible assumption
  · apply KeepsOut.ite
    · apply execStepArm_keeps
      with_reducible assumption
    · apply KeepsOut.ite
      · apply execStepCommit_keeps
        with_reducible assumption
      · apply fabric_keeps
        · with_reducible assumption
        · intro _ _
          apply stepLapse_keeps
          with_reducible assumption

theorem writeDt_keeps {s0 : State} : ∀ s1 x1 x2 x3, Keeps s0 s1 → Keeps s0 (writeDt s1 x1 x2 x3) := by
  intro s1 x1 x2 x3 h0
  unfold writeDt
  apply Keeps.ite
  · apply outState_keeps
    · apply execDtCtrlWrite_keeps
      with_reducible assumption
    · with_reducible assumption
  · apply Keeps.ite
    · apply outState_keeps
      · apply execDtPtpCfgWrite_keeps
        with_reducible assumption
      · with_reducible assumption
    · apply Keeps.ite
      · apply outState_keeps
        · apply stepCtrlWrite_keeps
          with_reducible assumption
        · with_reducible assumption
      · apply Keeps.ite
        · apply outState_keeps
          · apply execDtStepValueWrite_keeps
            with_reducible assumption
          · with_reducible assumption
        · apply Keeps.ite
          · apply outState_keeps
            · apply execDtStepValueWrite_keeps
              with_reducible assumption
            · with_reducible assumption
          · apply plainWrite_keeps
            with_reducible assumption

theorem writeGate_keeps {s0 : State} : ∀ x0 s2 x2 x3 x4, Keeps s0 s2 → Keeps s0 (writeGate x0 s2 x2 x3 x4) := by
  intro x0 s2 x2 x3 x4 h0
  unfold writeGate
  apply Keeps.ite
  · apply outState_keeps
    · apply KeepsOut.ite
      · apply execGateArm_keeps
        with_reducible assumption
      · apply execGateDisarm_keeps
        with_reducible assumption
    · with_reducible assumption
  · apply Keeps.ite
    · apply outState_keeps
      · apply execGateEntryWrite_keeps
        with_reducible assumption
      · with_reducible assumption
    · apply Keeps.ite
      · apply sgErr_keeps
        with_reducible assumption
      · with_reducible assumption

theorem writeSg_keeps {s0 : State} : ∀ x0 s2 x2 x3 x4, Keeps s0 s2 → Keeps s0 (writeSg x0 s2 x2 x3 x4) := by
  intro x0 s2 x2 x3 x4 h0
  unfold writeSg
  apply Keeps.ite
  · apply outState_keeps
    · apply execSgRun_keeps
      with_reducible assumption
    · with_reducible assumption
  · apply Keeps.ite
    · apply writeGate_keeps
      with_reducible assumption
    · apply plainWrite_keeps
      with_reducible assumption

theorem semHostOp_keeps {s0 : State} : ∀ x0 s2, Keeps s0 s2 → Keeps s0 (semHostOp x0 s2) := by
  intro x0 s2 h0
  unfold semHostOp
  extract_lets +onlyGivenNames v120
  clear_value v120
  split
  · apply outState_keeps
    · apply execSemHostAdd_keeps
      with_reducible assumption
    · with_reducible assumption
  · apply outState_keeps
    · apply execSemHostSub_keeps
      with_reducible assumption
    · with_reducible assumption
  · apply outState_keeps
    · apply execSemHostSet_keeps
      with_reducible assumption
    · with_reducible assumption
  · apply semErr_keeps
    with_reducible assumption

theorem writeSem_keeps {s0 : State} : ∀ s1 x1 x2 x3, Keeps s0 s1 → Keeps s0 (writeSem s1 x1 x2 x3) := by
  intro s1 x1 x2 x3 h0
  unfold writeSem
  apply Keeps.ite
  · apply semHostOp_keeps
    with_reducible assumption
  · apply Keeps.ite
    · apply outState_keeps
      · apply execSemShadowCfgWrite_keeps
        with_reducible assumption
      · with_reducible assumption
    · apply Keeps.ite
      · apply outState_keeps
        · apply execSemShadowCfgWrite_keeps
          with_reducible assumption
        · with_reducible assumption
      · apply plainWrite_keeps
        with_reducible assumption

theorem setEnables_keeps {s0 : State} : ∀ s1 x1 x2, Keeps s0 s1 → Keeps s0 (setEnables s1 x1 x2) := by
  intro s1 x1 x2 h0
  unfold setEnables
  refine Keeps.mk_same ?_ rfl rfl rfl rfl rfl rfl rfl rfl rfl rfl rfl rfl rfl
  with_reducible assumption

theorem writeEvc_keeps {s0 : State} : ∀ x0 s2 x2 x3 x4, Keeps s0 s2 → Keeps s0 (writeEvc x0 s2 x2 x3 x4) := by
  intro x0 s2 x2 x3 x4 h0
  unfold writeEvc
  extract_lets +onlyGivenNames v120
  clear_value v120
  apply Keeps.ite
  · apply evcHostWr_keeps
    with_reducible assumption
  · apply Keeps.ite
    · apply outState_keeps
      · apply execEvcPendSet_keeps
        with_reducible assumption
      · with_reducible assumption
    · apply Keeps.ite
      · apply outState_keeps
        · apply execEvcPendClr_keeps
          with_reducible assumption
        · with_reducible assumption
      · apply Keeps.ite
        · apply setEnables_keeps
          with_reducible assumption
        · apply Keeps.ite
          · apply setEnables_keeps
            with_reducible assumption
          · apply Keeps.ite
            · apply outState_keeps
              · apply execEvcComplete_keeps
                with_reducible assumption
              · with_reducible assumption
            · apply plainWrite_keeps
              with_reducible assumption

theorem writeIng_keeps {s0 : State} : ∀ s1 x1 x2 x3, Keeps s0 s1 → Keeps s0 (writeIng s1 x1 x2 x3) := by
  intro s1 x1 x2 x3 h0
  unfold writeIng
  apply Keeps.ite
  · apply outState_keeps
    · apply execIngCtrlWrite_keeps
      with_reducible assumption
    · with_reducible assumption
  · apply Keeps.ite
    · apply outState_keeps
      · apply execIngConfigWrite_keeps
        with_reducible assumption
      · with_reducible assumption
    · apply plainWrite_keeps
      with_reducible assumption

theorem writeIfc_keeps {s0 : State} : ∀ s1 x1 x2 x3, Keeps s0 s1 → Keeps s0 (writeIfc s1 x1 x2 x3) := by
  intro s1 x1 x2 x3 h0
  unfold writeIfc
  apply Keeps.ite
  · apply outState_keeps
    · apply execIfcCtrlWrite_keeps
      with_reducible assumption
    · with_reducible assumption
  · apply Keeps.ite
    · apply outState_keeps
      · apply execIfcDetCfgWrite_keeps
        with_reducible assumption
      · with_reducible assumption
    · apply Keeps.ite
      · apply outState_keeps
        · apply execIfcChannelSwitch_keeps
          with_reducible assumption
        · with_reducible assumption
      · apply Keeps.ite
        · apply outState_keeps
          · apply execIfcConfigWrite_keeps
            with_reducible assumption
          · with_reducible assumption
        · apply plainWrite_keeps
          with_reducible assumption

theorem writeFdd_keeps {s0 : State} : ∀ s1 x1 x2 x3, Keeps s0 s1 → Keeps s0 (writeFdd s1 x1 x2 x3) := by
  intro s1 x1 x2 x3 h0
  unfold writeFdd
  extract_lets +onlyGivenNames v120
  clear_value v120
  extract_lets +onlyGivenNames v119
  clear_value v119
  apply Keeps.ite
  · apply outState_keeps
    · apply execFddPairWrite_keeps
      with_reducible assumption
    · with_reducible assumption
  · apply Keeps.ite
    · apply errInfo_keeps
      with_reducible assumption
    · apply plainWrite_keeps
      with_reducible assumption

theorem calCtrlWrite_keeps {s0 : State} : ∀ x0 x1 s3, Keeps s0 s3 → Keeps s0 (calCtrlWrite x0 x1 s3) := by
  intro x0 x1 s3 h0
  unfold calCtrlWrite
  extract_lets +onlyGivenNames v120
  have kv120 : Keeps s0 v120 := by
    subst v120
    apply Keeps.ite
    · apply outState_keeps
      · apply execCalArm_keeps
        with_reducible assumption
      · with_reducible assumption
    · with_reducible assumption
  clear_value v120
  apply Keeps.ite
  · apply outState_keeps
    · apply execCalDisarm_keeps
      with_reducible assumption
    · with_reducible assumption
  · with_reducible assumption

theorem writeCal_keeps {s0 : State} : ∀ s1 x1 x2 x3 x4, Keeps s0 s1 → Keeps s0 (writeCal s1 x1 x2 x3 x4) := by
  intro s1 x1 x2 x3 x4 h0
  unfold writeCal
  apply Keeps.ite
  · apply calCtrlWrite_keeps
    with_reducible assumption
  · apply Keeps.ite
    · apply calErr_keeps
      with_reducible assumption
    · apply plainWrite_keeps
      with_reducible assumption

theorem writeSde_keeps {s0 : State} : ∀ s1 x1 x2 x3, Keeps s0 s1 → Keeps s0 (writeSde s1 x1 x2 x3) := by
  intro s1 x1 x2 x3 h0
  unfold writeSde
  apply Keeps.ite
  · apply writeCal_keeps
    with_reducible assumption
  · apply plainWrite_keeps
    with_reducible assumption

theorem writePje_keeps {s0 : State} : ∀ s1 x1 x2 x3, Keeps s0 s1 → Keeps s0 (writePje s1 x1 x2 x3) := by
  intro s1 x1 x2 x3 h0
  unfold writePje
  apply Keeps.ite
  · apply writeCal_keeps
    with_reducible assumption
  · apply plainWrite_keeps
    with_reducible assumption

theorem writeTt_keeps {s0 : State} : ∀ x0 s2 x2 x3 x4, Keeps s0 s2 → Keeps s0 (writeTt x0 s2 x2 x3 x4) := by
  intro x0 s2 x2 x3 x4 h0
  unfold writeTt
  apply Keeps.ite
  · apply setBits_keeps
    with_reducible assumption
  · apply plainWrite_keeps
    with_reducible assumption

theorem writeMem_keeps {s0 : State} : ∀ x0 s2 x2 x3 x4, Keeps s0 s2 → Keeps s0 (writeMem x0 s2 x2 x3 x4) := by
  intro x0 s2 x2 x3 x4 h0
  unfold writeMem
  extract_lets +onlyGivenNames v120
  clear_value v120
  apply Keeps.ite
  · apply Keeps.ite
    · apply memErr_keeps
      with_reducible assumption
    · apply plainWrite_keeps
      with_reducible assumption
  · apply Keeps.ite
    · apply Keeps.ite
      · apply memErr_keeps
        with_reducible assumption
      · apply plainWrite_keeps
        with_reducible assumption
    · apply Keeps.ite
      · apply memErr_keeps
        with_reducible assumption
      · apply plainWrite_keeps
        with_reducible assumption

theorem writeObj_keeps {s0 : State} : ∀ s1 x1 x2 x3 x4, Keeps s0 s1 → Keeps s0 (writeObj s1 x1 x2 x3 x4) := by
  intro s1 x1 x2 x3 x4 h0
  unfold writeObj
  apply Keeps.ite
  · apply Keeps.ite
    · apply plainWrite_keeps
      with_reducible assumption
    · apply tfuErr_keeps
      with_reducible assumption
  · extract_lets +onlyGivenNames v119
    have kv119 : Keeps s0 v119 := by
      subst v119
      apply plainWrite_keeps
      with_reducible assumption
    clear_value v119
    apply Keeps.ite
    · apply clrBits_keeps
      refine Keeps.mk_same ?_ rfl rfl rfl rfl rfl rfl rfl rfl rfl rfl rfl rfl rfl
      with_reducible assumption
    · with_reducible assumption

theorem writeTfu_keeps {s0 : State} : ∀ s1 x1 x2 x3, Keeps s0 s1 → Keeps s0 (writeTfu s1 x1 x2 x3) := by
  intro s1 x1 x2 x3 h0
  unfold writeTfu
  apply Keeps.ite
  · apply outState_keeps
    · apply execTfuEgoCfgWrite_keeps
      with_reducible assumption
    · with_reducible assumption
  · apply Keeps.ite
    · apply tfuErr_keeps
      with_reducible assumption
    · apply Keeps.ite
      · apply writeObj_keeps
        with_reducible assumption
      · apply plainWrite_keeps
        with_reducible assumption

theorem writeLse_keeps {s0 : State} : ∀ x0 s2 x2 x3 x4, Keeps s0 s2 → Keeps s0 (writeLse x0 s2 x2 x3 x4) := by
  intro x0 s2 x2 x3 x4 h0
  unfold writeLse
  apply Keeps.ite
  · apply errFree_keeps
    with_reducible assumption
  · apply Keeps.ite
    · apply syncSched_keeps
      apply plainWrite_keeps
      with_reducible assumption
    · apply plainWrite_keeps
      with_reducible assumption

theorem lockedRow_keeps {s0 : State} : ∀ s1 x1 x2, Keeps s0 s1 → Keeps s0 (lockedRow s1 x1 x2) := by
  intro s1 x1 x2 h0
  unfold lockedRow
  apply Keeps.ite
  · apply glbErr_keeps
    with_reducible assumption
  · with_reducible assumption

theorem writeFlc_keeps {s0 : State} : ∀ x0 s2 x2 x3 x4, Keeps s0 s2 → Keeps s0 (writeFlc x0 s2 x2 x3 x4) := by
  intro x0 s2 x2 x3 x4 h0
  unfold writeFlc
  apply Keeps.ite
  · apply lockedRow_keeps
    with_reducible assumption
  · apply plainWrite_keeps
    with_reducible assumption

theorem writeMst_keeps {s0 : State} : ∀ x0 s2 x2 x3 x4, Keeps s0 s2 → Keeps s0 (writeMst x0 s2 x2 x3 x4) := by
  intro x0 s2 x2 x3 x4 h0
  unfold writeMst
  apply Keeps.ite
  · apply outState_keeps
    · apply execMstFormat_keeps
      with_reducible assumption
    · with_reducible assumption
  · apply Keeps.ite
    · apply errFree_keeps
      apply lockedRow_keeps
      with_reducible assumption
    · apply plainWrite_keeps
      with_reducible assumption

theorem writePrs_keeps {s0 : State} : ∀ x0 s2 x2 x3 x4, Keeps s0 s2 → Keeps s0 (writePrs x0 s2 x2 x3 x4) := by
  intro x0 s2 x2 x3 x4 h0
  unfold writePrs
  extract_lets +onlyGivenNames v120
  clear_value v120
  apply Keeps.ite
  · apply errFree_keeps
    apply lockedRow_keeps
    with_reducible assumption
  · apply plainWrite_keeps
    with_reducible assumption

theorem msixWrite_keeps {s0 : State} : ∀ s1 x1 x2 x3, Keeps s0 s1 → Keeps s0 (msixWrite s1 x1 x2 x3) := by
  intro s1 x1 x2 x3 h0
  unfold msixWrite
  extract_lets +onlyGivenNames v120
  have kv120 : Keeps s0 v120 := by
    subst v120
    apply plainWrite_keeps
    with_reducible assumption
  clear_value v120
  apply Keeps.ite
  · apply unmaskVec_keeps
    with_reducible assumption
  · with_reducible assumption

theorem writeHif_keeps {s0 : State} : ∀ s1 x1 x2 x3, Keeps s0 s1 → Keeps s0 (writeHif s1 x1 x2 x3) := by
  intro s1 x1 x2 x3 h0
  unfold writeHif
  apply Keeps.ite
  · apply Keeps.ite
    · apply hifErr_keeps
      with_reducible assumption
    · apply plainWrite_keeps
      with_reducible assumption
  · apply Keeps.ite
    · apply cqEvaluate_keeps
      apply plainWrite_keeps
      with_reducible assumption
    · apply Keeps.ite
      · apply outState_keeps
        · apply execSqConfigWrite_keeps
          with_reducible assumption
        · with_reducible assumption
      · apply Keeps.ite
        · apply outState_keeps
          · apply execCqConfigWrite_keeps
            with_reducible assumption
          · with_reducible assumption
        · apply Keeps.ite
          · apply outState_keeps
            · apply execPoseRingConfigWrite_keeps
              with_reducible assumption
            · with_reducible assumption
          · apply Keeps.ite
            · apply outState_keeps
              · apply execEvtRingConfigWrite_keeps
                with_reducible assumption
              · with_reducible assumption
            · apply Keeps.ite
              · apply msixWrite_keeps
                with_reducible assumption
              · split
                · apply Keeps.ite
                  · apply hifErr_keeps
                    with_reducible assumption
                  · apply plainWrite_keeps
                    with_reducible assumption
                · apply plainWrite_keeps
                  with_reducible assumption

theorem writeSafe_keeps {s0 : State} : ∀ x0 s2 x2 x3 x4, Keeps s0 s2 → Keeps s0 (writeSafe x0 s2 x2 x3 x4) := by
  intro x0 s2 x2 x3 x4 h0
  unfold writeSafe
  extract_lets +onlyGivenNames v120
  clear_value v120
  apply Keeps.ite
  · apply setBits_keeps
    apply lockedRow_keeps
    with_reducible assumption
  · apply plainWrite_keeps
    with_reducible assumption

theorem writePwr_keeps {s0 : State} : ∀ s1 x1 x2 x3, Keeps s0 s1 → Keeps s0 (writePwr s1 x1 x2 x3) := by
  intro s1 x1 x2 x3 h0
  unfold writePwr
  apply Keeps.ite
  · split
    · apply powerRequest_keeps
      with_reducible assumption
    · apply powerRequest_keeps
      with_reducible assumption
    · apply powerRequest_keeps
      with_reducible assumption
    · apply powerRequest_keeps
      with_reducible assumption
  · apply Keeps.ite
    · apply outState_keeps
      · apply execPwrParkWrite_keeps
        with_reducible assumption
      · with_reducible assumption
    · apply plainWrite_keeps
      with_reducible assumption

theorem writeSec_keeps {s0 : State} : ∀ x0 s2 x2 x3 x4, Keeps s0 s2 → Keeps s0 (writeSec x0 s2 x2 x3 x4) := by
  intro x0 s2 x2 x3 x4 h0
  unfold writeSec
  apply Keeps.ite
  · apply outState_keeps
    · apply execSecLockWrite_keeps
      with_reducible assumption
    · with_reducible assumption
  · apply Keeps.ite
    · extract_lets +onlyGivenNames v118
      have kv118 : Keeps s0 v118 := by
        subst v118
        apply outState_keeps
        · apply execSvnCommitFw_keeps
          with_reducible assumption
        · with_reducible assumption
      clear_value v118
      apply outState_keeps
      · apply execSvnCommitVr_keeps
        with_reducible assumption
      · with_reducible assumption
    · apply Keeps.ite
      · apply setBits_keeps
        with_reducible assumption
      · apply plainWrite_keeps
        with_reducible assumption

theorem writeBlock_keeps {s0 : State} : ∀ x0 s2 x2 x3 x4, Keeps s0 s2 → Keeps s0 (writeBlock x0 s2 x2 x3 x4) := by
  intro x0 s2 x2 x3 x4 h0
  unfold writeBlock
  split
  · apply writeDt_keeps
    with_reducible assumption
  · apply writeSg_keeps
    with_reducible assumption
  · apply writeSem_keeps
    with_reducible assumption
  · apply writeEvc_keeps
    with_reducible assumption
  · apply writeIng_keeps
    with_reducible assumption
  · apply writeIfc_keeps
    with_reducible assumption
  · apply writeFdd_keeps
    with_reducible assumption
  · apply writeFdd_keeps
    with_reducible assumption
  · apply writeSde_keeps
    with_reducible assumption
  · apply writePje_keeps
    with_reducible assumption
  · apply Keeps.ite
    · apply outState_keeps
      · apply execFgsAbort_keeps
        with_reducible assumption
      · with_reducible assumption
    · apply plainWrite_keeps
      with_reducible assumption
  · apply writeTt_keeps
    with_reducible assumption
  · apply writeTt_keeps
    with_reducible assumption
  · apply writeTt_keeps
    with_reducible assumption
  · apply writeTt_keeps
    with_reducible assumption
  · apply writeTt_keeps
    with_reducible assumption
  · apply writeMem_keeps
    with_reducible assumption
  · apply writeTfu_keeps
    with_reducible assumption
  · apply writeLse_keeps
    with_reducible assumption
  · apply writeFlc_keeps
    with_reducible assumption
  · apply writeFlc_keeps
    with_reducible assumption
  · apply writeFlc_keeps
    with_reducible assumption
  · apply writeFlc_keeps
    with_reducible assumption
  · apply writeFlc_keeps
    with_reducible assumption
  · apply writeFlc_keeps
    with_reducible assumption
  · apply writeFlc_keeps
    with_reducible assumption
  · apply writeFlc_keeps
    with_reducible assumption
  · apply writeMst_keeps
    with_reducible assumption
  · apply writePrs_keeps
    with_reducible assumption
  · apply writeHif_keeps
    with_reducible assumption
  · apply writeSafe_keeps
    with_reducible assumption
  · apply writePwr_keeps
    with_reducible assumption
  · apply writeSec_keeps
    with_reducible assumption
  · apply plainWrite_keeps
    with_reducible assumption

theorem writeReg_keeps {s0 : State} : ∀ x0 s2 x2 x3, Keeps s0 s2 → Keeps s0 (writeReg x0 s2 x2 x3) := by
  intro x0 s2 x2 x3 h0
  unfold writeReg
  apply Keeps.ite
  · apply outState_keeps
    · apply execSemWindowWrite_keeps
      with_reducible assumption
    · with_reducible assumption
  · apply Keeps.ite
    · with_reducible assumption
    · split
      · apply glbErr_keeps
        with_reducible assumption
      · apply writeBlock_keeps
        with_reducible assumption

theorem aonRead_keeps {s0 : State} : ∀ s1 x1, Keeps s0 s1 → Keeps s0 (aonRead s1 x1).1 := by
  intro s1 x1 h0
  unfold aonRead
  split
  · with_reducible assumption
  · split
    dsimp only
    refine Keeps.of_snd (by assumption) ?_
    apply drawNat_keeps
    with_reducible assumption

theorem execGlbEpochLoRead_keeps {s0 : State} : ∀ s1, Keeps s0 s1 → KeepsOut s0 (execGlbEpochLoRead s1) := by
  intro s1 h0
  unfold execGlbEpochLoRead
  apply fabric_keeps
  · with_reducible assumption
  · intro _ _
    apply capture_keeps
    with_reducible assumption

theorem captureRead_keeps {s0 : State} : ∀ s1 x1 x2, Keeps s0 s1 → ∀ o, captureRead s1 x1 x2 = some o → KeepsOut s0 o := by
  intro s r a h o e
  unfold captureRead at e
  dsimp only at e
  repeat' (split at e)
  all_goals cases e
  · exact execGlbEpochLoRead_keeps _ h
  · exact execDtNowLoRead_keeps _ h
  · exact execDtOffsetLoRead_keeps _ h
  · exact execDtPpsStampLoRead_keeps _ h
  · exact execSgFireLoRead_keeps _ _ h
  · exact execSgTrigStampLoRead_keeps _ _ h
  · exact execIngIsStampLoRead_keeps _ _ h
  · exact execDetPowerLoRead_keeps _ _ h
  · exact execLseSchedHashLoRead_keeps _ h
  · exact execGdrErrAddrLoRead_keeps _ h
  · exact execMstPinLoRead_keeps _ _ h

theorem claimRead_keeps {s0 : State} : ∀ x0 s2 x2, Keeps s0 s2 → Keeps s0 (claimRead x0 s2 x2).1 := by
  intro x0 s2 x2 h0
  unfold claimRead
  extract_lets +onlyGivenNames v120
  clear_value v120
  split
  · extract_lets +onlyGivenNames v118
    have kv118 : Keeps s0 v118 := by
      subst v118
      apply outState_keeps
      · apply execEvcClaim_keeps
        with_reducible assumption
      · with_reducible assumption
    clear_value v118
    with_reducible assumption
  · with_reducible assumption

theorem readReg_keeps {s0 : State} : ∀ x0 s2 x2, Keeps s0 s2 → Keeps s0 (readReg x0 s2 x2).1 := by
  intro who s a h
  unfold readReg
  split
  · exact h
  · split
    · exact aonRead_keeps _ _ h
    · split
      · exact glbErr_keeps _ _ _ h
      · split
        · next o e => exact outState_keeps _ _ (captureRead_keeps _ _ _ h o e) h
        · split
          · exact claimRead_keeps _ _ _ h
          · exact h

theorem busWrite_keeps {s0 : State} : ∀ x0 s2 x2 x3 x4, Keeps s0 s2 → Keeps s0 (busWrite x0 s2 x2 x3 x4) := by
  intro x0 s2 x2 x3 x4 h0
  unfold busWrite
  extract_lets +onlyGivenNames v120
  clear_value v120
  apply Keeps.ite
  · extract_lets +onlyGivenNames v118
    have kv118 : Keeps s0 v118 := by
      subst v118
      apply Keeps.ite
      · apply writeReg_keeps
        with_reducible assumption
      · with_reducible assumption
    clear_value v118
    apply Keeps.ite
    · apply writeReg_keeps
      with_reducible assumption
    · with_reducible assumption
  · apply glbErr_keeps
    with_reducible assumption

theorem keepSet_keeps {s0 : State} : ∀ s1 s2 x2 x3, Keeps s0 s1 → Keeps s0 s2 → Keeps s0 (keepSet s1 s2 x2 x3) := by
  intro s1 s2 x2 x3 h0 h1
  unfold keepSet
  split
  · apply Keeps.ite
    · with_reducible assumption
    · apply setBits_keeps
      with_reducible assumption
  · with_reducible assumption

theorem execRegisterWrite_keeps {s0 : State} : ∀ x0 x1 x2 s4, Keeps s0 s4 → KeepsOut s0 (execRegisterWrite x0 x1 x2 s4) := by
  intro x0 x1 x2 s4 h0
  unfold execRegisterWrite
  apply fabric_keeps
  · with_reducible assumption
  · intro _ _
    extract_lets +onlyGivenNames v117
    clear_value v117
    split
    · extract_lets +onlyGivenNames v115
      clear_value v115
      apply keepSet_keeps
      · with_reducible assumption
      · apply keepSet_keeps
        · with_reducible assumption
        · apply busWrite_keeps
          with_reducible assumption
    · split
      refine Keeps.mk_same ?_ rfl rfl rfl rfl rfl rfl rfl rfl rfl rfl rfl rfl rfl
      refine Keeps.of_fst (by assumption) ?_
      apply readReg_keeps
      with_reducible assumption
    · split
      split
      refine Keeps.mk_same ?_ rfl rfl rfl rfl rfl rfl rfl rfl rfl rfl rfl rfl rfl
      refine Keeps.of_fst (by assumption) ?_
      apply readReg_keeps
      refine Keeps.of_fst (by assumption) ?_
      apply readReg_keeps
      with_reducible assumption

end Sys2Proof.Machine
end

