-- ==== Sys2Proof/Laws/Runs.lean ====
section
/-! SUPPORT. How a claim `Runs c s P` is met: by a command of the fabric domain while that domain runs, by one of the
always-on domain, and what keeps every byte and register the model reads. -/

namespace Sys2Proof.Machine

/-- A command whose meaning is one update under the fabric wrapper runs while the domain does. -/
theorem runs_fabric {c : Instr} {s : State} {f : State → State} {P : State → Prop} (hu : s.up = true)
    (h : exec c s = fabric s f) (hp : P (f s)) : Runs c s P := ⟨f s, by rw [h, fabric_up s hu], hp⟩

/-- A command whose meaning is one update outside the wrapper runs always. -/
theorem runs_next {c : Instr} {s t : State} {P : State → Prop} (h : exec c s = .next t) (hp : P t) : Runs c s P := ⟨t, h, hp⟩

/-- Runs is monotone in what it claims. -/
theorem Runs.imp {c : Instr} {s : State} {P Q : State → Prop} (h : Runs c s P) (hpq : ∀ t, P t → Q t) : Runs c s Q := by
  obtain ⟨t, ht, hp⟩ := h
  exact ⟨t, ht, hpq t hp⟩

/-- A state with the same redirect table, memory, held stores and counts reads the same bytes. -/
theorem sameBytes_of {s t : State} (hr : ∀ k, rd t (R.memRedir k) = rd s (R.memRedir k)) (hm : t.mem = s.mem)
    (hh : t.heldWrites = s.heldWrites) (hc : t.sem.count = s.sem.count) : SameBytes s t :=
  fun a => ldByte_same s hr hm hh hc a

/-- With the same register file, memory, held stores and counts every byte reads the same. -/
theorem sameBytes_of_regs {s t : State} (hr : t.regs = s.regs) (hm : t.mem = s.mem) (hh : t.heldWrites = s.heldWrites)
    (hc : t.sem.count = s.sem.count) : SameBytes s t :=
  sameBytes_of (fun k => by simp [rd, hr]) hm hh hc

end Sys2Proof.Machine
end

