-- ==== Sys2Proof/Laws/Tiles.lean ====
section
/-! SUPPORT. What the comparisons of a pass can say (R246): with no fault in any accumulator the sums agree. -/

namespace Sys2Proof.Machine

/-- The sum of products of two lists. -/
def dotL (u v : List Int) : Int := (List.zipWith (fun x y => x * y) u v).sum

theorem dotL_zero (u : List Int) (n : Nat) : dotL u (List.replicate n 0) = 0 := by
  induction u generalizing n with
  | nil => simp [dotL]
  | cons a u ih => cases n with
    | zero => simp [dotL]
    | succ n => simpa [dotL, List.replicate_succ] using ih n

theorem dotL_add (u a b : List Int) (ha : a.length = u.length) (hb : b.length = u.length) :
    dotL u (List.zipWith (fun x y => x + y) a b) = dotL u a + dotL u b := by
  induction u generalizing a b with
  | nil => simp [dotL]
  | cons x u ih =>
    cases a <;> cases b <;> simp [dotL] at ha hb ⊢
    rename_i p a q b
    have := ih a b ha hb
    simp only [dotL] at this
    rw [this, Int.mul_add]; omega

theorem dotL_comm (u v : List Int) : dotL u v = dotL v u := by
  simp only [dotL]; rw [List.zipWith_comm]; simp only [Int.mul_comm]

theorem dotL_total (u : List Int) (m : List (List Int)) (acc : List Int) (ha : acc.length = u.length)
    (hm : ∀ v ∈ m, v.length = u.length) :
    dotL u (m.foldl (List.zipWith fun x y => x + y) acc) = dotL u acc + (m.map (dotL u)).sum := by
  induction m generalizing acc with
  | nil => simp
  | cons v m ih =>
    have hv := hm v (by simp)
    rw [List.foldl_cons, ih _ (by simp [ha, hv]) fun w hw => hm w (by simp [hw]), dotL_add u acc v ha hv]
    simp; omega

theorem sext_congr (w : Nat) (x : Int) : (2 : Int) ^ w ∣ sext w (x % 2 ^ w).toNat - x := by
  have hp : (0 : Int) < 2 ^ w := Int.pow_pos (by decide)
  have h0 := Int.emod_nonneg x (Int.ne_of_gt hp)
  have hl := Int.emod_lt_of_pos x hp
  have hv : ((x % 2 ^ w).toNat : Int) = x % 2 ^ w := Int.toNat_of_nonneg h0
  have hm : (x % 2 ^ w).toNat % 2 ^ w = (x % 2 ^ w).toNat := by
    apply Nat.mod_eq_of_lt
    have : ((x % 2 ^ w).toNat : Int) < ((2 ^ w : Nat) : Int) := by rw [hv, Int.natCast_pow]; exact hl
    exact Int.ofNat_lt.mp this
  have hd : (2 : Int) ^ w ∣ x % 2 ^ w - x := by
    rw [Int.emod_def]; exact ⟨-(x / 2 ^ w), by rw [Int.mul_neg]; omega⟩
  unfold sext
  simp only [hm]
  split
  · rw [hv]; exact hd
  · rw [hv, show x % 2 ^ w - 2 ^ w - x = (x % 2 ^ w - x) - 2 ^ w by omega]; exact Int.dvd_sub hd (Int.dvd_refl _)

theorem sum_congr_mod (M : Int) (l : List (List Int)) (f g : List Int → Int) (h : ∀ x, M ∣ f x - g x) :
    M ∣ (l.map f).sum - (l.map g).sum := by
  induction l with
  | nil => simp
  | cons a l ih =>
    simp only [List.map_cons, List.sum_cons]
    rw [show f a + (l.map f).sum - (g a + (l.map g).sum) = (f a - g a) + ((l.map f).sum - (l.map g).sum) by omega]
    exact Int.dvd_add (h a) ih

/-- R246: without faults no comparison of a pass fails. -/
theorem pass_without_faults_agrees (s : State) (t : TileJob) (p : TilePass) (n : Nat) :
    failing p.mode (passSums s t p n []) = ([], []) := by
  have e : ∀ i j, errAt [] i j = 0 := fun _ _ => rfl
  unfold failing passSums
  simp only [e, Int.add_zero, Prod.mk.injEq, List.filter_eq_nil_iff, List.mem_range, decide_eq_true_eq, Classical.not_not]
  generalize hA : (List.range 32).map (fun i => (List.range n).map fun k => activation s t p i k) = A
  generalize hB : (List.range 32).map (fun j => (List.range n).map fun k => weight s p k j) = B
  have lA : A.length = 32 := by simp [← hA]
  have lB : B.length = 32 := by simp [← hB]
  have nA : ∀ v ∈ A, v.length = n := by intro v hv; rw [← hA] at hv; simp at hv; obtain ⟨_, _, rfl⟩ := hv; simp
  have nB : ∀ v ∈ B, v.length = n := by intro v hv; rw [← hB] at hv; simp at hv; obtain ⟨_, _, rfl⟩ := hv; simp
  have z : ∀ (l : List (List Int)) {β : Type} (f : List Int → β), l.zipIdx.map (fun a => f a.1) = l.map f :=
    fun l β f => List.ext_getElem (by simp) (by simp)
  have d : ∀ u v : List Int, (List.zipWith (fun x y => x * y) u v).sum = dotL u v := fun _ _ => rfl
  simp only [d]
  refine ⟨fun i hi => ?_, fun j hj => ?_⟩
  · apply Int.emod_eq_zero_of_dvd
    have hi' : i < A.length := by omega
    have ht := dotL_total A[i] B (List.replicate n 0) (by simp [nA A[i] (List.getElem_mem _)])
      (fun v hv => by rw [nB v hv, nA A[i] (List.getElem_mem _)])
    have hz := z B fun b => sext (accWidth p.mode) (dotL A[i] b % 2 ^ accWidth p.mode).toNat
    simp only [List.getD_eq_getElem?_getD, List.getElem?_map, List.getElem?_zipIdx, List.getElem?_eq_getElem hi', Option.map_some,
      Option.getD_some, ht, dotL_zero, Int.zero_add, hz]
    exact sum_congr_mod _ B _ _ fun x => sext_congr _ _
  · apply Int.emod_eq_zero_of_dvd
    have hj' : j < B.length := by omega
    have ht := dotL_total B[j] A (List.replicate n 0) (by simp [nB B[j] (List.getElem_mem _)])
      (fun v hv => by rw [nA v hv, nB B[j] (List.getElem_mem _)])
    have hz := z A fun a => sext (accWidth p.mode) (dotL B[j] a % 2 ^ accWidth p.mode).toNat
    simp only [List.getD_eq_getElem?_getD, List.map_map, Function.comp_def, List.getElem?_map, List.getElem?_zipIdx,
      List.getElem?_eq_getElem hj', Option.map_some, Option.getD_some, dotL_comm _ B[j], ht, dotL_zero, Int.zero_add, hz]
    exact sum_congr_mod _ A _ _ fun x => sext_congr _ _

end Sys2Proof.Machine
end

