-- ==== Sys2Proof/WellFormed.lean ====
section
/-! DEFINITION. Which commands can occur: the bounds on operands that their types do not carry. `exec` gives every command a
meaning, well formed or not. -/

namespace Sys2Proof

/-- The alignment of a BAR0 access: a write names the 8-byte group its byte enables select from (R13). -/
def accSize : RegAccess → Nat
  | .write _ _ _ => 8
  | .read4 => 4
  | .read8 => 8

/-- An announced data set within its fields (R44). -/
def announceOk (a : Announce) : Bool :=
  decide (a.priority1 < 256) && decide (a.clockClass < 256) && decide (a.accuracy < 256) && decide (a.variance < 65536) &&
    decide (a.priority2 < 256) && decide (a.stepsRemoved < 65536)

/-- A PTP message within its fields. -/
def ptpOk : PtpMsg → Bool
  | .announce a => announceOk a
  | .sync _ _ _ _ _ | .followUp _ _ _ _ | .delayResp _ _ _ _ | .pdelayReq _ | .pdelayResp _ _ _ _
  | .pdelayRespFollowUp _ _ _ => true

/-- Operations that contend with one of requester `r` on semaphore `i` in one cycle: each of another requester, none twice,
all on the same bank; only the host and the AOM present a SET (R78, R80). -/
def rivalsOk (r i : Nat) (l : List SemReq) : Bool :=
  l.all (fun q => q.idx.toNat % 4 == i % 4 && (q.kind != .set || q.req.val == 10 || q.req.val == 12)) &&
    decide (r :: l.map fun q => q.req.val).Nodup

/-- No more bits can have been corrected than the 36,864 of a codeword (R405). -/
def cwOk : CwRead → Bool
  | .hard b | .retry b | .soft b => decide (b ≤ 36864)
  | .uncorrectable => true

/-- The length of a BAR4 access. -/
def barLenOk : Bar4Access → Bool
  | .read n => decide (1 ≤ n) && decide (n ≤ 8)
  | .write l => decide (1 ≤ l.length) && decide (l.length ≤ 4096)

/-- A temperature of a 16-bit sensor. -/
def fits16 (x : Int) : Bool := decide (-32768 ≤ x) && decide (x ≤ 32767)

/-- The greatest K of a mode (R229), and whether a zero point is in its range (R230). -/
def kLimit (mode : Nat) : Nat := match mode with | 0 => 65536 | 1 => 131072 | 2 => 32768 | _ => 16384
def zpOk (mode : Nat) (z : Int) : Bool :=
  if mode ≤ 1 then decide (-128 ≤ z) && decide (z ≤ 127) else decide (-32768 ≤ z) && decide (z ≤ 32767)

/-- A tile program names tiles by number, its passes keep the limits of their mode, and it monitors no more channels than a
record can hold (R229, R230, R240). -/
def progOk (p : TileProg) : Bool :=
  p.tiles.all (fun t => decide (t < 64)) && decide (p.monitored ≤ 65536) &&
    p.passes.all (fun q => decide (q.tile < 64) && decide (q.mode ≤ 3) && decide (1 ≤ q.k ∧ q.k ≤ kLimit q.mode) && zpOk q.mode q.zpA &&
      q.mon.all fun m => m.all fun ch => decide (ch < p.monitored))

/-- Whether the exponents of a schedule fit the 6 signed bits of a scale group, and PMIN its 8 (R8, R338, R352). -/
def exp6 (e : Int) : Bool := decide (-32 ≤ e) && decide (e ≤ 31)
def schedFits (c : Schedule) : Bool :=
  exp6 c.expC && c.nodes.all fun n => n.exps.all exp6 && decide (-128 ≤ n.pmin) && decide (n.pmin ≤ 127)

/-- What a package body holds, within its tables. -/
def packageOk (p : Package) : Bool :=
  p.tiles.all (fun t => decide (t < 64)) && decide (p.graphs.length ≤ 64) && p.plans.all (fun e => decide (e.1 < 256)) &&
    p.progs.all (fun e => progOk e.2) &&
    p.scheds.all (fun d => decide (d.index < 64) && d.sched.all schedFits && schedFits d.decl) && p.solves.all (fun e => decide (e.1 < 64))

/-- Whether a command can occur. -/
def Instr.wellFormed : Instr → Bool
  | .registerWrite _ a acc => a.toNat % accSize acc == 0
  | .ptpMessageRx _ _ m => ptpOk m
  | .semAdd r k _ l | .semSub r k _ l | .semWait r k _ l | .semWaitsub r k _ l => rivalsOk r.val k.toNat l
  | .semSet r k _ l => (r.val == 10 || r.val == 12) && rivalsOk r.val k.toNat l
  | .semPoll _ l => decide (l.map fun q => q.req.val).Nodup
  | .csiLine _ _ _ _ _ l => decide (l.length < 0x20000)
  | .csiEmbeddedData _ _ _ _ l => decide (l.length < 0x10000)
  | .ethFrameRx _ l => decide (14 ≤ l.length)
  | .imuTransactionEnd _ l => decide (1 ≤ l.length) && decide (l.length ≤ 32)
  | .flashPageRead _ _ l => (l.length == 0 || l.length == 4) && l.all cwOk
  | .load _ p => packageOk p
  | .bar4Access off a => decide (off < 0x4000000) && barLenOk a
  | .powerSample w => decide (w < 2 ^ 32)
  | .thermalSample l a => l.length == 16 && l.all fits16 && fits16 a
  | .health _ l _ => decide (l.length < 0x10000)
  | .bbxRead _ l _ => decide (l.length < 0x10000)
  | .coreReset _ l _ => decide (l.length < 0x10000)
  | .acserPower _ l _ => decide (l.length < 0x10000)
  | .attest _ l _ => decide (l.length < 0x10000)
  | .recoverBegin _ l _ => decide (l.length < 0x10000)
  | .recoverData _ l _ => decide (l.length < 0x10000)
  | .recoverEnd _ l _ => decide (l.length < 0x10000)
  | .time _ l _ => decide (l.length < 0x10000)
  | .acserSemSet _ l _ => decide (l.length < 0x10000)
  | .challenge _ l _ => decide (l.length < 0x10000)
  | .auth _ l _ => decide (l.length < 0x10000)
  | .owner _ l _ => decide (l.length < 0x10000)
  | .firmwareStart l => l.all (fun n => decide (n < 68)) && decide l.Nodup
  | .linkUp sp w => decide (1 ≤ sp) && decide (sp ≤ 5) && [1, 2, 4, 8].contains w
  | .crystalStable _ f => f.all (fun k => decide (k ≤ 1))
  | .glbEpochLoRead | .dtNowLoRead | .dtOffsetLoRead | .dtPpsStampLoRead | .sgFireLoRead _ | .sgTrigStampLoRead _
  | .ingIsStampLoRead _ | .detPowerLoRead _ | .lseSchedHashLoRead | .gdrErrAddrLoRead | .gdrScrubRead | .mstPinLoRead _ | .ppsEdge _
  | .servoOffset | .servoLossTimeout | .announceTimeout | .dtCtrlWrite _ | .dtPtpCfgWrite _ | .stepArm _ | .stepCommit _ | .stepCancel _
  | .dtStepValueWrite _ _ | .stepArmLapse | .timeStepped | .gateArm _ _ _ | .gateDisarm _ _ _ _ | .gateEntryWrite _ _ _ _
  | .sgRun _ | .gateDue _ | .gateDispatch _ | .trigPulseEnd _ | .trigInputEdge _ _ | .semHostAdd _ | .semHostSub _ | .semHostSet _
  | .semWindowWrite _ _ | .semShadowCfgWrite _ _ | .semShadowWrite _ | .evcClaim _ _ | .evcComplete _ _ | .evcPendSet _ _ _
  | .evcPendClr _ _ _ | .wakeEdge _ | .wakeLatchTake | .csiFrameStart _ _ _ | .csiLineStart _ _ _ _ | .csiFrameEnd _ _ _
  | .pairWaitExpire _ _ | .imuDataReady _ _ | .streamLost _ | .ingConfigWrite _ _ | .ingCtrlWrite _ | .ifcOutputRecord _
  | .ifcChannelSwitch _ _ _ | .ifcConfigWrite _ _ | .ifcDetCfgWrite _ _ _ | .ifcCtrlWrite _ | .fddPairWrite _ _ _
  | .detect _ | .track _ | .seed _ | .matchSets _ | .depth | .project | .visionJobEnd _ | .calArm _ | .calCheckEnd _
  | .calDisarm _ | .calSwap | .gateEvaluate _ _ | .gateHoldExpire _ | .unitJobStart _ | .gateEnd _ _ | .fgsAbort _ | .tileRun
  | .tilePassCheck _ _ _ _ | .tileJobEnd _ | .tileTakeover _ | .tileTakeoverComplete _ | .fenceRelease _ | .restore _
  | .copyJobStart _ | .copy _ | .fill _ | .plan _ | .copyJobEnd _ | .gdrRetrain _ _ | .tfuPredict | .tfuTimerPredict
  | .update | .tfuReset | .motion | .report | .tfuAidTimeout | .tfuEgoCfgWrite _ | .solve | .solveAccept
  | .solveIterationEnd | .solveDeadlineMiss | .preint | .build | .buildEnd | .query | .prsCoarseEnd | .prsPageScan _
  | .prsQueryEnd | .insert | .prsDelete | .filterSetAll | .filterClearAll | .filterSetRange | .filterClearRange | .define
  | .put | .mstDelete | .commit | .commitDurable | .readWindow | .readGraph | .get | .getBbx | .pin | .unpin
  | .flashProgramFail _ _ _ | .flashChannelLost _ | .groomTask | .mapMount | .mstFormat _ | .pwrFail | .sqTailDoorbell _ _
  | .cqHeadDoorbell _ _ | .descriptorFetch _ _ _ | .descriptorDispatch _ _ | .descriptorDeadline _ | .descriptorComplete _
  | .completionHoldRelease _ | .cqCoalesceTimer _ | .nop _ | .configPtpAsym _ | .configPtpAnnTmo _ | .unload _ | .launch _
  | .abort _ | .arm _ | .disarm _ _ | .descCopy _ | .descSolve _ | .descPrs _ | .descMst _ | .sqConfigWrite _ _
  | .cqConfigWrite _ _ | .poseRingConfigWrite _ | .evtRingConfigWrite _ | .msixUnmask _ | .pcieReset _ | .perstRelease
  | .controlPairFault | .watchdogExpire | .switchoverComplete _ | .standbySelftestEnd _ | .standbyFault
  | .tfuLaneMismatch _ | .tfuKatEnd _ _ | .ifcMismatch _ | .hifWriterMismatch _ | .fabricLogicMismatch | .engineFault _
  | .engineSelftestEnd _ _ | .clockFault | .railFault | .periodicTest _ | .checkerTest _ _ | .rotationStep _
  | .rotationWaitTimeout _ | .rotationSelftestEnd _ _ | .bbxRecordWritten | .requestRun | .requestGlide | .requestHold
  | .pstateChangeComplete | .holdWake | .holdWakeTimer | .pwrParkWrite _ | .governorLimit | .governorTick | .thermalStep _
  | .secLockWrite _ | .svnCommitFw _ | .svnCommitVr _ | .coreResetRelease _ _ | .acserResponseRead _ | .acserSessionTimeout
  | .powerOnReset _ | .pwrGoodCoreRise _ _ | .pwrGoodTimeout | .gddr6TrainingEnd _ | .startupReady | .recoverWindowTimeout
  | .pwrFailNRise | .stripeProgrammed | .ptpStatus | .delayReq | .avsTargetReached | .schedulingBoundary => true

end Sys2Proof
end

