-- ==== Sys2Proof/Tests/Slice0.lean ====
section
/-! SUPPORT. Tests of the model: ill-formed commands are refused by each check, one step of small states, and, for every
statement with hypotheses, states and operands that meet them, clause by clause. The numbers come from the rules cited. -/

open Sys2Proof Sys2Proof.Machine

namespace Sys2Proof.Tests

set_option Elab.async false

/-! ### Small states -/

/-- The fabric domain running, every register at its reset value. -/
def onS : State := { State.reset with up := true }

/-- Registers given values. -/
def regs (s : State) (l : List (Nat × Word)) : State := l.foldl (fun st e => wr st e.1 e.2) s

/-- The running fabric with registers given. -/
def onR (l : List (Nat × Word)) : State := regs onS l

/-! ### Well-formed commands -/

/-- One ill-formed command for each check, all refused; the same commands at their bounds are accepted. -/
theorem test_ill_formed_refused :
    ([.registerWrite .host 2 .read4, .registerWrite .host 4 (.write 0xFF 0 0), .registerWrite .host 4 .read8,
      .ptpMessageRx 0 true (.announce ⟨0, 256, 0, 0, 6, 0x21, 0, 128, 0, 1⟩),
      .semAdd 10 300 1 [⟨10, .add, 300, 1⟩], .semAdd 10 300 1 [⟨0, .add, 301, 1⟩], .semSub 9 300 1 [⟨8, .set, 300, 1⟩], .semSet 9 300 1 [],
      .semPoll 0 [⟨0, .add, 1, 1⟩, ⟨0, .sub, 1, 1⟩],
      .flashPageRead 0 0 [.hard 0], .flashPageRead 0 0 [.hard 0, .retry 36865, .soft 0, .hard 0],
      .bar4Access 0x4000000 (.read 4), .bar4Access 0 (.read 9), .bar4Access 0 (.write []), .powerSample (2 ^ 32),
      .thermalSample [] 0, .thermalSample (List.replicate 16 32768) 0, .thermalSample (List.replicate 16 0) (-32769),
      .imuTransactionEnd 0 [], .ethFrameRx 0 [], .firmwareStart [68], .firmwareStart [1, 1], .linkUp 0 1, .linkUp 5 3,
      .crystalStable true (some 2)] : List Instr).all (fun c => !c.wellFormed) = true := by decide +kernel

/-- Lines, data and Acser payloads longer than their length fields can say. -/
theorem test_overlong_refused :
    (Instr.csiLine 0 0 0 0 true (List.replicate 0x20000 0)).wellFormed = false ∧
    (Instr.csiEmbeddedData 0 0 0 true (List.replicate 0x10000 0)).wellFormed = false ∧
    ∀ c ∈ [Instr.health, .bbxRead, .coreReset, .acserPower, .attest, .recoverBegin, .recoverData, .recoverEnd, .time, .acserSemSet,
      .challenge, .auth, .owner], (c 0 (List.replicate 0x10000 0) true).wellFormed = false := by
  refine ⟨?_, ?_, ?_⟩
  · simp only [Instr.wellFormed, List.length_replicate]; decide
  · simp only [Instr.wellFormed, List.length_replicate]; decide
  · intro c hc
    simp only [List.mem_cons, List.not_mem_nil, or_false] at hc
    rcases hc with rfl | rfl | rfl | rfl | rfl | rfl | rfl | rfl | rfl | rfl | rfl | rfl | rfl <;>
      (simp only [Instr.wellFormed, List.length_replicate]; decide)

/-- An empty package, a pass at its limits, and a schedule without variables. -/
def noPackage : Package := ⟨0, 0, 0, 0, 0, [], [], [], [], [], [], [], []⟩
def onePass (mode k : Nat) (z : Int) (mon : List (Option Nat)) : TileProg :=
  ⟨[63], 0, 0, 0, 0, 65536, 0, [⟨63, mode, k, z, .input, 0, 0, 0, 0, 0, .output, 0, 0, [], mon⟩]⟩
def noSchedule : Schedule := ⟨0, 0, 0, 0, [], 0, 0, 0, 0, 0, 0, 0, [], []⟩

/-- Each bound of a package body, one beyond it and at it (R8, R229, R230, R240, R338). -/
theorem test_package_bounds_refused :
    ([{ noPackage with tiles := [64] }, { noPackage with graphs := List.replicate 65 [] }, { noPackage with plans := [(256, [])] },
      { noPackage with progs := [(0, ⟨[64], 0, 0, 0, 0, 0, 0, []⟩)] }, { noPackage with progs := [(0, onePass 0 65537 0 [])] },
      { noPackage with progs := [(0, onePass 1 1 128 [])] }, { noPackage with progs := [(0, onePass 2 1 (-32769) [])] },
      { noPackage with progs := [(0, onePass 3 1 0 [some 65536])] }, { noPackage with solves := [(64, [])] },
      { noPackage with scheds := [⟨64, none, noSchedule, false, 0, 0⟩] },
      { noPackage with scheds := [⟨0, none, { noSchedule with expC := 32 }, false, 0, 0⟩] },
      { noPackage with scheds := [⟨0, none, { noSchedule with nodes := [⟨[], [], [-33], 0⟩] }, false, 0, 0⟩] }] : List Package).all
      (fun p => !(Instr.load 0 p).wellFormed) = true ∧
    ([noPackage, { noPackage with progs := [(0, onePass 0 65536 127 [some 65535]), (1, onePass 3 16384 (-32768) [])] }] : List Package).all
      (fun p => (Instr.load 0 p).wellFormed) = true := by decide +kernel

/-! ### Hypotheses met: the block, registers, device time -/

/-- A waiting command; an idle fabric, a held one with its clock, one without. -/
theorem test_met_step :
    ({ onS with pending := [.sgRun 1] } : State).pending = .sgRun 1 :: [] ∧
    (onS.pending = [] ∧ onS.dt.commit = none ∧ onS.up = true) ∧
    (State.reset.up = false ∧ clockRuns { State.reset with aon := { Aon.reset with boot := .hold } } = true ∧ clockRuns State.reset = false) ∧
    alwaysOn (.sgRun 1) = false := by decide +kernel

/-- A state that meets the invariant, and a step from it. -/
theorem test_met_invariant : Inv onS ∧ (∃ t, step onS = .next t) ∧ ∃ t, exec (.sgRun 1) onS = .next t :=
  ⟨⟨rfl, rfl, rfl, rfl, rfl, by decide, by decide, by decide, by simp [onS, State.reset]⟩, ⟨_, rfl⟩, ⟨_, rfl⟩⟩

/-- Undefined offsets: the last pair of the GLB block, and the pair beside GLB_SCRATCH. -/
theorem test_met_undefined : ∀ x ∈ [0x28, 0xFFF8, 0xFFFC], regRow? x = none ∧ inSemWindow x = false ∧ inAonMirror x = false := by
  decide +kernel

/-- A first read leaves the fabric up, and so does a first write. -/
theorem test_met_accesses :
    (∃ t1 t2, exec (.registerWrite .host 0x18 .read4) onS = .next t1 ∧ t1.up = true ∧
      exec (.registerWrite .host 0x1C .read4) t1 = .next t2) ∧
    ∃ t1, exec (.registerWrite .host 0x20 (.write 0x0F 7 0)) onS = .next t1 ∧ t1.up = true :=
  ⟨⟨_, _, rfl, rfl, rfl⟩, ⟨_, rfl, rfl⟩⟩

/-- GLB_SCRATCH (RW, upper half of its pair), GDR_RETRY (RWL) open and locked; errors none and one. -/
theorem test_met_access_codes :
    (∃ r, regRow? 0x24 = some r ∧ r.rwl = 0) ∧ (∃ r, regRow? R.gdrRetry = some r ∧ r.rwl ≠ 0) ∧
    locked onS = false ∧ locked (onR [(R.glbStatus, 0x10)]) = true ∧ rd onS R.glbErr = 0 ∧ rd (onR [(R.glbErr, 8)]) R.glbErr ≠ 0 :=
  ⟨⟨_, rfl, by decide⟩, ⟨_, rfl, by decide⟩, by decide +kernel, by decide +kernel, by decide +kernel, by decide +kernel⟩

/-- An announced master of domain 0. -/
def master : Announce := ⟨128, 6, 0x21, 0, 128, 0x42, 0, 0, -7, 1⟩

/-- A servo state with counts, PTP selected and a whole measurement `raw` of the master. -/
def servoS (sv : Servo) (n : Nat) (raw : Int) : State :=
  { onR [(R.dtCtrl, 1), (R.dtJumpMax, 1000), (R.dtLockThr, 100)] with
    dt := { Dt.reset with servo := sv, lock := n, unlock := n, qual := n, everSet := true },
    ptp := { Ptp.reset with master := some master, msOffset := some raw } }

theorem test_met_offered : offered (servoS .unset 0 5) 5 7812500 ∧ offered (servoS .acquire 7 1000) 1000 7812500 ∧
    offered (servoS .refusing 7 (-1001)) (-1001) 7812500 :=
  ⟨⟨by decide +kernel, by decide +kernel, by decide +kernel, master, by decide +kernel⟩,
    ⟨by decide +kernel, by decide +kernel, by decide +kernel, master, by decide +kernel⟩,
    ⟨by decide +kernel, by decide +kernel, by decide +kernel, master, by decide +kernel⟩⟩

/-- The servo: offsets at and one above DT_JUMP_MAX and DT_LOCK_THR, counts at 6 and 7; nothing measured, no master. -/
theorem test_met_servo :
    (∀ sv ∈ [Servo.unset, .acquire, .locked, .qualify, .refusing], ∀ n ∈ [6, 7], (servoS sv n 0).dt.servo = sv ∧
      ((servoS sv n 0).dt.lock < 7 ∨ 7 ≤ (servoS sv n 0).dt.lock)) ∧
    (let s := servoS .locked 6 (-1000);
      (-1000 - s.ptp.asym).natAbs ≤ (rd s R.dtJumpMax).toNat ∧ (rd s R.dtJumpMax).toNat < (1001 - s.ptp.asym).natAbs ∧
      (100 - s.ptp.asym).natAbs ≤ (rd s R.dtLockThr).toNat ∧ ¬(101 - s.ptp.asym).natAbs ≤ (rd s R.dtLockThr).toNat) ∧
    dtSel onS ≠ 1 ∧ onS.ptp.msOffset = none ∧ onS.ptp.master = none := by
  decide +kernel

/-- A source's loss: PPS selected, LOSS 0 taken as 1, 1 s since the last offset and 1 ns less; under PTP two announce intervals of 2 s;
sources changed, kept and taken away. -/
theorem test_met_source_loss :
    (let s := fun (n : DWord) => ({ onR [(R.dtCtrl, 2)] with dt := { Dt.reset with now := n, everSet := true, servo := .locked } } : State);
      sourceInterval (s 0) = some 1000000000 ∧ max 1 (rf (s 0) R.dtCtrl 19 16) * 1000000000 ≤ ((s 1000000000).dt.now - 0).toNat ∧
      ((s 999999999).dt.now - 0).toNat < max 1 (rf (s 0) R.dtCtrl 19 16) * 1000000000 ∧ (s 0).dt.servo ≠ .holdover ∧
      fld ((1 : Word) &&& 0xF0FF3) 1 0 % 3 ≠ dtSel (s 0) ∧ fld ((1 : Word) &&& 0xF0FF3) 1 0 % 3 ≠ 0 ∧
      fld ((3 : Word) &&& 0xF0FF3) 1 0 % 3 = 0 ∧ dtSel (s 0) ≠ 0 ∧ fld ((2 : Word) &&& 0xF0FF3) 1 0 % 3 = dtSel (s 0) ∧
      (s 0).dt.servo ≠ .unset ∧ (s 0).dt.everSet = true) ∧
    (let s := fun (n : DWord) => ({ servoS .locked 0 0 with dt := { Dt.reset with now := n }, ptp := { Ptp.reset with master := some master, annTmo := 2 } } : State);
      dtSel (s 0) = 1 ∧ (s 0).ptp.master = some master ∧ (s 0).ptp.annTmo * syncInterval master.logAnnounce ≤ ((s 4000000000).dt.now - (s 0).ptp.annAt).toNat ∧
      ((s 3999999999).dt.now - (s 0).ptp.annAt).toNat < (s 0).ptp.annTmo * syncInterval master.logAnnounce ∧
      ptpCfg (wr (s 0) R.dtPtpCfg ((0x101 : Word) &&& 0xFFF)) ≠ ptpCfg (s 0) ∧
      ptpCfg (wr (s 0) R.dtPtpCfg (rd (s 0) R.dtPtpCfg &&& 0xFFF)) = ptpCfg (s 0)) := by
  decide +kernel

/-- PTP at the configured port over the configured transport, and at the other; sync rates at −7 and 1, below and above; a selected
master and a whole Sync; peer delay and end-to-end; PPS edges 99 and 100 ns apart. -/
theorem test_met_time_sources :
    (let s := onR [(R.dtPtpCfg, 0)];
      blockOn s 9 = true ∧ rf s R.dtPtpCfg 8 8 = (0 : Fin 2).val ∧ rf s R.dtPtpCfg 8 8 ≠ (1 : Fin 2).val ∧
      (onLayer2 s = true ∨ onLayer2 s = false) ∧ master.domain.toNat = rf s R.dtPtpCfg 7 0 ∧ s.ptp.master = none) ∧
    (-7 ≤ master.logSync ∧ master.logSync ≤ 1 ∧ ({ master with logSync := 1 } : Announce).logSync ≤ 1 ∧
      ({ master with logSync := -8 } : Announce).logSync < -7 ∧ 1 < ({ master with logSync := 2 } : Announce).logSync) ∧
    (let s := { onR [(R.dtPtpCfg, 0)] with ptp := { Ptp.reset with master := some master, delay := some (0xFFFF, 5), fwd := some 3 } };
      s.ptp.master = some master ∧ master.identity = 0x42 ∧ s.ptp.delay = some (0xFFFF, 5) ∧ s.ptp.fwd = some 3 ∧ peerDelay s = false ∧
      peerDelay (wr s R.dtPtpCfg 0x800) = true ∧ onLayer2 (wr s R.dtPtpCfg 0x400) = true) ∧
    (let s := onR [(R.dtPpsCfg, 1)];
      rb s R.dtPpsCfg 0 = true ∧ true ≠ rb s R.dtPpsCfg 1 ∧ ¬ (false ≠ rb s R.dtPpsCfg 1) ∧ rb onS R.dtPpsCfg 0 = false ∧
      (s.evc.wakeArmed && inSet s.evc.wakeMask 12) = false ∧ activeAny s 12 = false) ∧
    ((199 : DWord) - 100).toNat < 100 ∧ ¬ ((200 : DWord) - 100).toNat < 100 := by
  decide +kernel

/-- A step armed at DT 4, exactly 1,000,000 ns ago and one more; SOURCE with an offset two intervals old; a committed step. -/
theorem test_met_steps :
    let s := fun (n : DWord) => ({ onS with dt := { Dt.reset with
      now := n, armed := some (.source, 4), offsetAt := some 4, interval := 500000, commit := some .relative } } : State)
    (s 1000004).dt.armed = some (.source, 4) ∧ ((s 1000004).dt.now - 4).toNat ≤ 1000000 ∧ ((s 1000004).dt.now - 4).toNat ≤ 2 * 500000 ∧
    1000000 < ((s 1000005).dt.now - 4).toNat ∧ StepMode.source ≠ .absolute ∧ onS.dt.armed = none ∧ (s 4).dt.commit = some .relative := by
  decide +kernel

/-- Gate 32 with a SEM action on SEM256, armed and not, in time and late by one more than the tolerance, refused for its target. -/
theorem test_met_gates :
    let c := R.sgGateCtrl 32
    let free := onR [(R.sgGatePt 32, 0x1000000)]
    let armed := onR [(R.sgGatePt 32, 0x1000000), (c, 5), (R.sgCtrl, 1)]
    rb free c 0 = false ∧ rb armed c 0 = true ∧ gateAction armed 32 = 1 ∧ gateTarget armed 32 = 256 ∧
    fld (4 : Word) 4 2 = 1 ∧ 32 ≤ 32 ∧ rf free (R.sgGatePt 32) 31 16 = 256 ∧
    rf (onR [(R.sgGatePt 32, 0xFF0000)]) (R.sgGatePt 32) 31 16 = 255 ∧
    rd armed c &&& 0xF03C = (5 : Word) &&& 0xF03C ∧ rd armed c &&& 0xF03C ≠ (1 : Word) &&& 0xF03C ∧
    (gateFire armed 32).toNat ≤ ({ armed with dt := { Dt.reset with now := 4 } } : State).dt.now.toNat + gateComp armed 32 ∧
    (let far := regs armed [(R.sgGateFireLo 32, 21)];
      far.dt.now.toNat + gateComp far 32 < (gateFire far 32).toNat) ∧
    (rd onS R.sgLateTol).toNat < ({ onS with dt := { Dt.reset with now := 0x100000000 } } : State).dt.now.toNat - (gateFire onS 32).toNat ∧
    (let s := { armed with sg := { Sg.reset with due := [⟨32, 0, false⟩], fired := [1, 2, 3] } };
      isDue s 32 = true ∧ s.sg.due.find? (fun x => x.gate == 32) = some ⟨32, 0, false⟩ ∧ (∀ x ∈ s.sg.due, 32 ≤ x.gate) ∧
        (firedNow s).length = 3 ∧ rb s R.sgCtrl 0 = true ∧ gatePeriodic s 32 = false) ∧
    (firedNow { armed with sg := { Sg.reset with fired := [1, 2, 3, 4] } }).length = 4 ∧ rb onS R.sgCtrl 0 = false ∧
    gatePeriodic (onR [(c, 0x25)]) 32 = true ∧ [0, 1, 2, 3, 4].map (fun k => gateAction (onR [(c, k * 4)]) 32) = [0, 1, 2, 3, 4] := by
  decide +kernel

/-- Trigger pin 15 as an input and as an output, its pulse at its end and 1 ns before. -/
theorem test_met_pins :
    rb onS (R.sgTrigCfg 15) 0 = true ∧ true ≠ rb onS (R.sgTrigCfg 15) 1 ∧ false = rb onS (R.sgTrigCfg 15) 1 ∧
    (let s := fun (n : DWord) => ({ onS with sg := { Sg.reset with pulse := [(15, ⟨true, 8⟩)] }, dt := { Dt.reset with now := n } } : State);
      (pulseOf (s 8) 15).active = true ∧ (pulseOf (s 8) 15).ends.toNat ≤ (s 8).dt.now.toNat ∧
        (s 7).dt.now.toNat < (pulseOf (s 7) 15).ends.toNat) := by
  decide +kernel

/-! ### Hypotheses met: semaphores, events, ingress -/

/-- Counts at the edges of saturation: 0xFFFF_FFFF + 0 and + 1, 1 − 1 and 1 − 2; host semaphores 255 and 256. -/
theorem test_met_saturation :
    let s := { onS with sem := { Sem.reset with count := [(256, 0xFFFFFFFF), (257, 1)] } }
    (semCount s 256).toNat + (0 : Word).toNat ≤ 0xFFFFFFFF ∧ 0xFFFFFFFF < (semCount s 256).toNat + (1 : Word).toNat ∧
    (1 : Word).toNat ≤ (semCount s 257).toNat ∧ (semCount s 257).toNat < (2 : Word).toNat ∧
    decide ((1 : Word).toNat ≤ (semCount s 257).toNat) = true ∧ decide ((2 : Word).toNat ≤ (semCount s 257).toNat) = false ∧
    256 ≤ (256 : BitVec 12).toNat ∧ (255 : BitVec 12).toNat < 256 ∧ rd s R.semStatus = 0 := by
  decide +kernel

/-- A descriptor's wait for 2 on a count of 1 and of 2, 6 ns past its expiry and 1 ns before it. -/
theorem test_met_waits :
    let w : Waiter := ⟨0, .descriptor 5, 300, 2, true, some 10⟩
    let s := fun (c : Word) (n : DWord) => ({ onS with
      sem := { Sem.reset with waiters := [w], count := [(300, c)] }, dt := { Dt.reset with now := n } } : State)
    (s 1 16).sem.waiters = [w] ∧ w.owner = .descriptor 5 ∧ w.n.toNat ≤ (semCount (s 2 16) w.idx).toNat ∧
    (semCount (s 1 16) w.idx).toNat < w.n.toNat ∧ w.expiry = some 10 ∧ 10 + 6 ≤ (s 1 16).dt.now.toNat ∧
    (s 1 9).dt.now.toNat < 10 := by
  decide +kernel

/-- Two requesters at bank 3, the pointer at requester 5: 5 goes before 4; semaphore 4092 is in another bank. -/
theorem test_met_banks :
    let s := { onS with sem := { Sem.reset with rr := [(3, 5)] } }
    let turn := fun (x : Nat) => (x + 14 - tabGet 0 s.sem.rr 3) % 14
    turn 5 < turn 4 ∧ (4095 : BitVec 12).toNat % 4 = 3 ∧ (3 : BitVec 12).toNat % 4 = 3 ∧ (4092 : BitVec 12).toNat % 4 ≠ 3 ∧
    (5 : Fin 14) ≠ 4 := by
  decide +kernel

/-- Shadow slot 63 of SEM256, its base at the last place below 2^47 and at 2^47. -/
def shadowS (lo hi : Word) : State :=
  { onR [(R.semShadowBaseLo, lo), (R.semShadowBaseHi, hi), (R.semShadowCtrl, 1), (R.semShadowCfg 63, 0x80000100), (R.hifStatus, 1)] with
    sem := { Sem.reset with shadowDue := [63] } }

theorem test_met_shadows :
    let h := fun s => (rd64 s R.semShadowBaseLo R.semShadowBaseHi).toNat + 4 * 63
    ¬ 63 ∉ (shadowS 0 0).sem.shadowDue ∧ 63 ∉ onS.sem.shadowDue ∧ rb (shadowS 0 0) R.semShadowCtrl 0 = true ∧ rb onS R.semShadowCtrl 0 = false ∧
    rb (shadowS 0 0) (R.semShadowCfg 63) 31 = true ∧ rb onS (R.semShadowCfg 63) 31 = false ∧
    h (shadowS 0xFFFFFF00 0x7FFF) + 4 ≤ 0x800000000000 ∧ 0x800000000000 ≤ h (shadowS 0 0x8000) ∧
    rb (shadowS 0 0) R.hifStatus 0 = true ∧ (shadowS 0 0).gated = false := by
  decide +kernel

theorem test_met_shadow_invariant : Inv (shadowS 0xFFFFFF00 0x7FFF) :=
  ⟨rfl, by decide +kernel, rfl, rfl, rfl, by decide, by decide, by decide, by simp [shadowS, onR, regs, onS, State.reset, wr]⟩

/-- Source 511 pending at PRIO 255, enabled and routed to target 2; running nothing there, and running itself. -/
def claimS : State :=
  { onR [(R.evcSrcCfg 510, 0x4FF)] with evc := { Evc.reset with
    latch := addSet 0 511, en := [(2, addSet 0 511)] } }

theorem test_met_claims :
    claimable claimS (2 : Fin 3).val 511 ∧ (∀ m, ¬ claimable onS 2 m) ∧
    inSet (tabGet 0 ({ onS with evc := { Evc.reset with active := [(2, addSet 0 511)] } } : State).evc.active 2) 511 = true ∧
    inSet (tabGet 0 onS.evc.active 2) 511 = false ∧ (512 : BitVec 10).toNat ≠ 0x3FF ∧ 512 ≤ (512 : BitVec 10).toNat := by
  refine ⟨⟨by decide, by decide, by decide +kernel, by decide +kernel, by decide +kernel, by decide +kernel, ?_⟩, ?_, ?_⟩
  · have h : runningGroup claimS 2 = none := by decide +kernel
    intro g hg; rw [show (2 : Fin 3).val = 2 from rfl, h] at hg; cases hg
  · intro m hm; have h := hm.2.2.2.1; simp [onS, State.reset, Evc.reset, tabGet, inSet] at h
  · decide +kernel

/-- Two targets that find the same source in one cycle, the later one first. -/
theorem test_met_claims_of_one_cycle :
    (1 : Fin 3) < 2 ∧ (let s := { claimS with regs := [(R.evcSrcCfg 510, 0x6FF)], evc := { claimS.evc with en := [(1, addSet 0 511), (2, addSet 0 511)] } };
      evcBest s 1 [] = 511 ∧ evcBest s 2 [] = 511) := by
  decide +kernel

/-- Wake sources: 12 awaited, 13 not awaited, 1 not able to wake; armed and not; the last bit of the last latch word. -/
theorem test_met_wake :
    let s := { onS with evc := { Evc.reset with wakeArmed := true, wakeMask := addSet 0 12 } }
    wakeCapable 12 = true ∧ wakeCapable 13 = true ∧ wakeCapable 1 = false ∧ inSet s.evc.wakeMask 12 = true ∧
    inSet s.evc.wakeMask 13 = false ∧ s.evc.wakeArmed = true ∧ onS.evc.wakeArmed = false ∧ activeAny onS 384 = false ∧ edgeSource onS 12 = false ∧ edgeSource onS 384 = true ∧
    edgeSource (onR [(R.dtPpsCfg, 1)]) 12 = true ∧
    31 < 32 ∧ 0 < 32 * 15 + 31 ∧ Agent.firmware ≠ .host := by
  decide +kernel

/-- Camera slot 0 on port 3, channel 3: RAW8, two pixels by two lines, two buffers in the slab, semaphores 256 and 257. -/
def camL : List (Nat × Word) := [(R.ingCtrl, 1), (R.ingCsiCfg 3, 0x80000000), (R.ingFsCfg 0, 0x9F530000), (R.ingFsSize 0, 0x20002),
  (R.ingFsBufcfg 0, 0x102), (R.ingFsBufLo 0, 0), (R.ingFsBufHi 0, 1), (R.ingFsSem 0, 0x01000101), (R.ingFsTsloc 0, 0x00000200)]

/-- A frame of it in buffer `b` with `r` lines. -/
def camF (b : Option Nat) (r : Nat) : OpenFrame := ⟨0, 0, b, r, 0, 0, none, none, false, none, false, false, false, false, 0⟩

/-- The state with that frame open, or none, and a count on its free semaphore. -/
def camS (f : Option OpenFrame) (c : Word) : State :=
  { onR camL with ing := { Ing.reset with fs := [(0, { frameSlot0 with frame := f })] }, sem := { Sem.reset with count := tabSet 0 [] 256 c } }

theorem test_met_camera :
    csiSlots (camS none 1) 3 3 none = [0] ∧ csiSlots (camS none 1) 3 2 none = [] ∧ csiSlots (camS none 1) 3 3 (some 0x2A) = [0] ∧
    rb (camS none 1) R.ingCtrl 0 = true ∧ blockOn (camS none 1) 8 = true ∧ heldIn (camS none 1) [(fsBuf (camS none 1) 0 1, fsBytes (camS none 1) 0)] = [] ∧
    heldIn { camS none 1 with heldWrites := [⟨0, 5, 0⟩] } [(0, 64)] ≠ [] ∧
    rb (camS none 1) (R.ingCsiCfg 3) 31 = true ∧ (fsSlot (camS none 1) 0).frame = none ∧
    rf (camS none 1) (R.ingFsSem 0) 31 16 = 256 ∧ rf (camS none 1) (R.ingFsSem 0) 15 0 = 257 ∧
    semCount (camS none 1) 256 ≠ 0 ∧ semCount (camS none 0) 256 = 0 ∧
    (fsSlot (camS (some (camF (some 1) 1)) 0) 0).frame = some (camF (some 1) 1) ∧ (camF (some 1) 1).buf = some 1 ∧
    (camF none 1).buf = none ∧ pairOf (camS none 0) 0 = none := by
  decide +kernel

theorem test_met_lines :
    let s := camS (some (camF (some 1) 1)) 0
    let row := lineAddr s 0 (fsBuf s 0 1) 1
    (camF (some 1) 1).rows < fsHeight s 0 ∧ [0x11, 0x22].length = fsWidth s 0 * bytesPerPixel 0x2A ∧ plainRam s row (fsPitch s 0) ∧
    rb s (R.ingFsCfg 0) 16 = true ∧ rb (regs s [(R.ingFsCfg 0, 0x9F520000)]) (R.ingFsCfg 0) 16 = false ∧
    plainRam s (stampTable s 0 (fsBuf s 0 1) + 8) 8 ∧ fsTsrc s 0 = 1 ∧
    (let loc := rd s (R.ingFsTsloc 0);
      fld loc 31 16 + fld loc 11 8 ≤ [1, 2].length ∧ bit loc 0 = false) ∧ (camF (some 1) 1).embSeen = false := by
  refine ⟨by decide +kernel, by decide +kernel, .inl (by decide +kernel), by decide +kernel, by decide +kernel, .inl (by decide +kernel), ?_⟩
  decide +kernel

theorem test_met_line_invariant : Inv (camS (some (camF (some 1) 1)) 0) :=
  ⟨rfl, by decide +kernel, rfl, rfl, rfl, by decide, by decide, by decide, by simp [camS, onR, regs, onS, State.reset, wr, camL]⟩

/-- A left frame that waits in pair 3, 1 ns past its wait. -/
theorem test_met_pair :
    let f : PairFrame := ⟨false, 0, 0, 0, 5⟩
    let s := { onR [(R.ingPairWait 3, 10), (R.ingPairSem 3, 0xFFFF0FFF)] with
      ing := { Ing.reset with waiting := [(3, [f])] }, dt := { Dt.reset with now := 16 } }
    tabGet [] s.ing.waiting 3 = [f] ∧ f.ends.toNat + (rd s (R.ingPairWait 3)).toNat < s.dt.now.toNat ∧
    rf s (R.ingPairSem 3) 15 0 < 4096 := by
  decide +kernel

/-- A UDP datagram of 256 zero bytes to port 2368. -/
def lidarFrame : List Byte := List.replicate 12 0 ++ [8, 0, 0x45, 0, 1, 0x1C, 0, 0, 0, 0, 0x40, 0x11, 0x65, 0xCF, 10, 0, 0, 1, 10, 0, 0, 2,
  0, 0, 9, 0x40, 1, 8, 0, 0] ++ List.replicate 256 0

/-- Slot 15 of port 1, one point a packet under template 7, a sweep open with a point. -/
def lidarS : State :=
  { onR [(R.ingCtrl, 1), (R.ingEthTCfg 1 7, 0x8F000940), (R.ingEthTNpts 1 7, 1), (R.ingEthTSweep 1 7, 3), (R.ingEthTXyzFmt 1 7, 0x00020400),
      (R.ingEthTSweep 1 7, 0x30000), (R.ingFsCfg 15, 0xA8000000), (R.ingFsSize 15, 2)] with
    ing := { Ing.reset with fs := [(15, { frameSlot0 with frame := some { camF none 0 with points := 1, packets := 1 } })] } }

theorem test_met_lidar :
    let f := { camF none 0 with points := 1, packets := 1 }
    let d : Udp := ⟨0x0A000001, 0x940, List.replicate 256 0⟩
    isPtp (List.replicate 12 0 ++ [0x88, 0xF7]) = true ∧ isPtp [] = false ∧ parseUdp [] = none ∧ rb onS R.ingCtrl 0 = false ∧ blockOn lidarS 9 = true ∧ blockOn (onR [(R.pwrPark, 0x200)]) 9 = false ∧
    (lidarS.evc.wakeArmed && inSet lidarS.evc.wakeMask 57) = false ∧ activeAny lidarS 57 = false ∧ rd lidarS (R.ingEthDiscard 1) ≠ 0xFFFFFFFF ∧
    isPtp lidarFrame = false ∧ rb lidarS R.ingCtrl 0 = true ∧ parseUdp lidarFrame = some d ∧
    (List.range 8).find? (fun t => templateMatch lidarS 1 t d) = some 7 ∧ rf lidarS (R.ingEthTCfg 1 7) 27 24 = 15 ∧ fsEn lidarS 15 = true ∧
    fsType lidarS 15 = 1 ∧ fsPort lidarS 15 = 1 ∧ (fsSlot lidarS 15).frame = some f ∧ f.points < (rd lidarS (R.ingFsSize 15)).toNat ∧
    rf lidarS (R.ingEthTNpts 1 7) 10 0 = 1 ∧
    rf lidarS (R.ingEthTLayout 1 7) 31 16 + rf lidarS (R.ingEthTLayout 1 7) 15 0 + 256 ≤ d.payload.length ∧
    packetPoint lidarS 1 7 d.payload 0 = some ([0, 0, 0], 0) ∧ rf lidarS (R.ingEthTSweep 1 7) 31 30 = 0 ∧
    f.packets + 1 < rf lidarS (R.ingEthTSweep 1 7) 29 16 ∧
    packetTime lidarS 15 (packetSensor lidarS 1 7 15 d.payload) (rxStamp lidarS) f - (f.judged.map Judged.time).getD 0
      < 0xFFFFFF0 := by
  decide +kernel

/-- Inertial slot 3: idle and in a transaction; 1 ns past its loss limit and at it; frame slot 15 past its own. -/
theorem test_met_inertial :
    let s := fun (r : Option DWord) (n : DWord) => ({ onR [(R.ingCtrl, 1), (R.ingIsCfg 3, 0x80000010), (R.ingIsLoss 3, 2), (R.ingIsPeriod 3, 5),
        (R.ingFsCfg 15, 0x80000000), (R.ingFsMap 15, 0x100), (R.ingFsPeriod 15, 10)] with
      ing := { Ing.reset with imu := [(3, { imuSlot0 with running := r, lossFrom := 7 })] }, dt := { Dt.reset with now := n + 4, prev := n } } : State)
    rb (s none 18) R.ingCtrl 0 = true ∧ rb (s none 18) (R.ingIsCfg 3) 31 = true ∧ true ≠ rb (s none 18) (R.ingIsCfg 3) 28 ∧
    false = rb (s none 18) (R.ingIsCfg 3) 28 ∧ (imuSlot (s none 18) 3).running = none ∧ (imuSlot (s (some 1) 18) 3).running = some 1 ∧
    rb (s none 18) (R.ingIsStatus 3) 1 = false ∧
    (imuSlot (s none 18) 3).lossFrom.toNat + rf (s none 18) (R.ingIsLoss 3) 7 0 * (rd (s none 18) (R.ingIsPeriod 3)).toNat < (s none 18).dt.prev.toNat ∧
    (s none 17).dt.prev.toNat ≤ (imuSlot (s none 17) 3).lossFrom.toNat + rf (s none 17) (R.ingIsLoss 3) 7 0 * (rd (s none 17) (R.ingIsPeriod 3)).toNat ∧
    fsEn (s none 18) 15 = true ∧ rb (s none 18) (R.ingFsStatus 15) 3 = false ∧
    (fsSlot (s none 18) 15).lossFrom.toNat + rf (s none 18) (R.ingFsMap 15) 15 8 * fsPeriod (s none 18) 15 < (s none 18).dt.prev.toNat := by
  decide +kernel

/-- Registers of port 3, pair 3, frame slot 15, template 7 and inertial slot 3; enables that pass and that fail. -/
theorem test_met_ingress_configuration :
    (∀ a ∈ [R.ingCsiCfg 3, R.ingPairSem 3, R.ingPairWait 3, R.ingPairCfg 3, R.ingFsSize 15, R.ingFsCfg 15, R.ingEthTSrc 1 7, R.ingEthTCfg 1 7,
      R.ingIsXfer 3, R.ingIsCfg 3], ∃ r ∈ (regRow? a).toList, r.rw ≠ 0) ∧
    [(R.ingPairSem 3 - 0x60200) / 0x10, (R.ingFsSize 15 - 0x61000) / 0x80, (R.ingEthTSrc 1 7 - 0x62000) / 0x400,
      (R.ingEthTSrc 1 7 - 0x62000) % 0x400 / 0x80, (R.ingIsXfer 3 - 0x63000) / 0x100] = [3, 15, 1, 7, 3] ∧
    (∀ a ∈ [R.ingPairCfg 3, R.ingFsCfg 15, R.ingEthTCfg 1 7, R.ingIsCfg 3], rb (onR [(a, 0x80000000)]) a 31 = true ∧ rb onS a 31 = false) ∧
    semFieldOk 255 = false ∧ semFieldOk 256 = true ∧
    isEnableOk (onR [(R.ingIsXfer 3, 0x20800000), (R.ingIsCfg 3, 0x80000080), (R.ingIsLoss 3, 1)]) 3 = true ∧
    isEnableOk (onR [(R.ingIsXfer 3, 0x21800000), (R.ingIsCfg 3, 0x80000080), (R.ingIsLoss 3, 1)]) 3 = false ∧
    tmplEnableOk (onR [(R.ingEthTNpts 1 7, 1024)]) 1 7 = true ∧ tmplEnableOk (onR [(R.ingEthTNpts 1 7, 1025)]) 1 7 = false ∧
    pairEnableOk (onR [(R.ingPairCfg 3, 0x80000000)]) 3 = false ∧ pairEnableOk (onR [(R.ingPairCfg 3, 0x80000001)]) 3 = true ∧
    fsEnableOk onS 15 = false ∧
    fsEnableOk (regs (camS none 1) [(R.ingFsMap 0, 0x104), (R.ingFsTsloc 0, 0x100), (R.ingFsCfg 0, 0x9F530000)]) 0 = true := by
  decide +kernel

/-! ### Hypotheses met: filter chain, vision, calibration -/

/-- The invariant as a check, for states that hold no store. -/
def invOk (s : State) : Bool :=
  Memory.wf s.mem && Regs.wf s.regs && tabWf (fun _ => 0) s.sem.count && Memory.wf s.bbx.mram && norWf s.sec.nor &&
    decide (s.bbxQueue.length ≤ 64) && decide (s.sec.fuseSvn ≤ 64) && decide (s.sec.fuseVr ≤ 64) && s.heldWrites.isEmpty

theorem inv_of (s : State) (h : invOk s = true) : Inv s := by
  simp only [invOk, Bool.and_eq_true, decide_eq_true_eq, List.isEmpty_iff] at h
  obtain ⟨⟨⟨⟨⟨⟨⟨⟨h1, h2⟩, h3⟩, h4⟩, h5⟩, h6⟩, h7⟩, h8⟩, h9⟩ := h
  exact ⟨h1, h2, h3, h4, h5, h6, h7, h8, by simp [h9]⟩

/-- A block of `n` bytes with fields given as offset, length and value. -/
def blkN (n : Nat) (l : List (Nat × Nat × Nat)) : List Byte :=
  l.foldl (fun b e => b.take e.1 ++ leBytes e.2.1 e.2.2 ++ b.drop (e.1 + e.2.1)) (List.replicate n 0)

/-- A job block. -/
def blk (l : List (Nat × Nat × Nat)) : List Byte := blkN 64 l

/-- A state with bytes stored. -/
def mems (s : State) (l : List (Nat × List Byte)) : State := l.foldl (fun st e => stBytes st e.1 e.2) s

/-- Slot 3 of the filter chain, sequence at its end, averaging two inputs of 0.5 ms, its 16 records below the slab's end. -/
def ifcS (n : Nat) (due : List IfcDue) (sem : Word) : State :=
  { onR [(R.ifcCtrl, 1), (R.ifcIsCfg 3, 0xC0000002), (R.ifcIsChCfg 3 7, 0x80000000), (R.ingIsPeriod 3, 500000),
      (R.ifcIsOutLo 3, 0x2FFFC00), (R.ifcIsOutHi 3, 1), (R.ifcIsOutcfg 3, sem * 0x10000 + 4), (R.ifcIsGdelay 3, 9)] with
    ifc := { State.reset.ifc with slot := [(3, { ifcSlot0 with n := n, seq := 0xFFFFFFFF, due := due })] }
    ing := { Ing.reset with imu := [(3, { imuSlot0 with running := some 5 })] } }

theorem test_met_filter_outputs :
    let o : IfcDue := ⟨-4, 0, 0x80, 0xFFFFFFFF, List.replicate 8 0⟩
    let s := ifcS 1 [o] 4095
    let at_ := (rd64 s (R.ifcIsOutLo 3) (R.ifcIsOutHi 3)).toNat + 64 * (o.seq.toNat % 2 ^ rf s (R.ifcIsOutcfg 3) 3 0)
    (Inv s ∧ plainRam s at_ 64) ∧ (imuSlot s 3).running = some 5 ∧ (imuSlot s 3).gaps = [] ∧ ifcTakes s 3 = true ∧
    ((ifcSlot s 3).n + 1) % ifcR s 3 = 0 ∧ ((ifcSlot (ifcS 0 [] 0) 3).n + 1) % ifcR s 3 ≠ 0 ∧ (ifcSlot s 3).due = [o] ∧
    at_ + 64 = slabBase + 0x3000000 ∧ rf s (R.ifcIsOutcfg 3) 31 16 = 4095 ∧ rf (ifcS 1 [o] 0xFFFF) (R.ifcIsOutcfg 3) 31 16 = 0xFFFF ∧
    o.samples.length = 8 ∧ (ifcSlot (ifcS 0 [] 0) 3).due = [] :=
  ⟨⟨inv_of _ (by decide +kernel), .inl (by decide +kernel)⟩, by decide +kernel⟩

theorem test_met_filter_configuration :
    let s := ifcS 0 [] 0xFFFF
    let off := wr s (R.ifcIsCfg 3) 0
    let new : Word := (0xC0000002 : Word) &&& 0xCE7F07FF
    rb s (R.ifcIsCfg 3) 31 = true ∧ bit new 31 = true ∧ (0xC0000003 : Word) &&& 0xCE7F07FF ≠ rd s (R.ifcIsCfg 3) ∧
    bit ((2 : Word) &&& 0xCE7F07FF) 31 = false ∧ rb off (R.ifcIsCfg 3) 31 = false ∧
    ifcEnableOk (wr off (R.ifcIsCfg 3) new) 3 = true ∧ ifcEnableOk (wr off (R.ifcIsCfg 3) 0xC0000001) 3 = false ∧
    rb s (R.ifcIsChCfg 3 7) 31 = true ∧ fld (0x80070000 : Word) 2 0 = rf s (R.ifcIsChCfg 3 7) 2 0 ∧
    fld (0x80070000 : Word) 18 16 ≠ rf s (R.ifcIsChCfg 3 7) 18 16 ∧ fld (0x80000001 : Word) 2 0 ≠ rf s (R.ifcIsChCfg 3 7) 2 0 ∧
    rb (onR [(R.ifcDetCfg 31, 0x80000000)]) (R.ifcDetCfg 31) 31 = true ∧ rb onS (R.ifcDetCfg 31) 31 = false ∧
    rb onS R.ifcCtrl 0 = false := by
  decide +kernel

/-- A job of unit `u` owned by a gate, its block at the slab's start. -/
def vjob (u : Nat) (b : List Byte) (latch : List Nat) : Job := ⟨.gate 0 0, u, 0, slabBase, b, none, latch⟩

/-- A state that runs a job at its unit. -/
def runsJob (s : State) (j : Job) : State := { s with vis := { s.vis with running := [(j.unit, some j)] } }

/-- Frame slot 15 as camera slot 0, with engine 1's builder running and frame 8 in its detect record. -/
def visS : State :=
  { onR ((camL.map fun e => (e.1 + (R.ingFsCfg 15 - R.ingFsCfg 0), e.2)) ++ [(R.ingFsCfg 15, 0x9F538000), (R.fddPyrCfg 1 15, 0x20), (R.fddPyrPtr 1 15, 0x8000)]) with
    vis := { State.reset.vis with builder := tabSet false [] 15 true, detects := [(15, [(0, 8)])] } }

/-- DETECT with the largest and the least fields its checks take; a slot of 16 is refused at byte 1. -/
def detectB (slot : Nat) : List Byte := blk [(0, 1, 1), (1, 1, slot), (2, 1, 6), (10, 1, 15), (11, 1, 7), (12, 2, 8192), (14, 1, 63), (15, 1, 5),
  (16, 1, 63), (24, 8, slabBase + 0x100000)]

theorem test_met_detect :
    let j := vjob 2 (detectB 15) [0]
    let s := runsJob visS j
    (Inv s ∧ plainRam s (outHeader j) 64 ∧ visDue s (1 + (1 : Fin 2).val) 1 j ∧ clean s) ∧ firstBad (detectChecks s 1 j.block) = none ∧
    (let p := { s with poison := [slabBase] }; firstBad (detectChecks p 1 j.block) = none ∧ poisoned p j.addr 64 = true) ∧
    rec8 j.block 3 1 / 8 % 2 = 0 ∧ (let k := vjob 2 (detectB 16) [0];
      visJob (runsJob visS k) 2 = some k ∧ firstBad (detectChecks (runsJob visS k) 1 k.block) = some 1) :=
  ⟨⟨inv_of _ (by decide +kernel), .inl (by decide +kernel), ⟨by decide +kernel, rfl, rfl, by decide +kernel, by decide +kernel⟩, ⟨by decide +kernel, by decide +kernel, by decide +kernel⟩⟩, by decide +kernel⟩

/-- A track table of one slot, of the frame before `c`, at the slab's second MiB. -/
def trackMem (s : State) (c : Nat) : State := mems s [(slabBase + 0x100008, leBytes 4 c), (slabBase + 0x100010, leBytes 4 1)]

theorem test_met_track :
    let j := vjob 4 (blk [(0, 1, 1), (1, 1, 15), (2, 1, 1), (3, 1, 7), (4, 1, 15), (16, 8, slabBase + 0x100000), (24, 8, slabBase + 0x200000),
      (32, 8, slabBase + 0x300000)]) []
    let s := fun c => runsJob (trackMem visS c) j
    let b := j.block
    (Inv (s 8) ∧ visDue (s 8) (3 + (1 : Fin 2).val) 1 j ∧ clean (s 8)) ∧ (∀ c ∈ [7, 8], firstBad (trackChecks (s c) b) = none) ∧
    currentEntry (tabGet [] (s 8).vis.detects (rec8 b 1 1)) (ldN (s 8) (rec8 b 16 8 + 8) 4) = none ∧
    currentEntry (tabGet [] (s 7).vis.detects (rec8 b 1 1)) (ldN (s 7) (rec8 b 16 8 + 8) 4) = some (0, 8) :=
  ⟨⟨inv_of _ (by decide +kernel), ⟨by decide +kernel, rfl, rfl, by decide +kernel, by decide +kernel⟩, ⟨by decide +kernel, by decide +kernel, by decide +kernel⟩⟩, by decide +kernel⟩

theorem test_met_seed :
    let j := vjob 3 (blk [(0, 1, 2), (1, 1, 1), (2, 2, 255), (4, 2, 256), (8, 8, slabBase + 0x100000), (24, 8, slabBase + 0x200000), (32, 4, 16384)]) []
    let k := vjob 3 (blk [(0, 1, 2), (2, 2, 1), (8, 8, slabBase), (16, 8, slabBase + 0x100000), (24, 8, slabBase + 0x200000)]) []
    let s := fun j => runsJob (trackMem visS 0) j
    (Inv (s k) ∧ visDue (s j) (3 + (0 : Fin 2).val) 2 j ∧ visDue (s k) 3 2 k ∧ clean (s j) ∧ clean (s k)) ∧ ∀ i ∈ [j, k], firstBad (seedChecks (s i) i.block) = none :=
  ⟨⟨inv_of _ (by decide +kernel), ⟨by decide +kernel, rfl, rfl, by decide +kernel, by decide +kernel⟩, ⟨by decide +kernel, rfl, rfl, by decide +kernel, by decide +kernel⟩, ⟨by decide +kernel, by decide +kernel, by decide +kernel⟩, ⟨by decide +kernel, by decide +kernel, by decide +kernel⟩⟩, by decide +kernel⟩

theorem test_met_match :
    let j := vjob 4 (blk [(0, 1, 3), (1, 1, 3), (2, 1, 2), (4, 2, 1023), (6, 1, 5), (8, 2, 256), (10, 2, 256), (12, 2, 1024), (16, 8, slabBase + 0x100000),
      (24, 8, slabBase + 0x400000), (32, 8, slabBase + 0x200000)]) []
    let s := runsJob (trackMem visS 0) j
    let b := j.block
    (Inv s ∧ visDue s (3 + (1 : Fin 2).val) 3 j ∧ plainRam s (outHeader j) 64 ∧ clean s) ∧ firstBad (matchChecks s b) = none ∧
      (matchSet s (rec8 b 2 1) (rec8 b 16 8)).length < 2 ^ 32 :=
  ⟨⟨inv_of _ (by decide +kernel), ⟨by decide +kernel, rfl, rfl, by decide +kernel, by decide +kernel⟩, .inl (by decide +kernel), ⟨by decide +kernel, by decide +kernel, by decide +kernel⟩⟩, by decide +kernel⟩

/-- Pair 3 of slots 0 and 15, 2 × 2 pixels each. -/
def pairS : State := regs visS (camL ++ [(R.ingPairCfg 3, 0x80000F00), (R.pjeCtrl, 1)])

theorem test_met_depth :
    let b := fun (rect : Nat) => blk [(0, 1, 1), (1, 1, 3), (2, 1, rect), (3, 1, 15), (4, 2, 3840), (6, 2, 256), (8, 1, 255), (9, 1, 15), (10, 2, 1023),
      (24, 8, slabBase + 0x200000), (32, 8, slabBase + 0x300000)]
    let j := fun (r lw : Nat) => vjob 5 (b r) [lw, slabBase + 0x100000, 1, 1]
    let s := fun (r lw : Nat) => runsJob (mems pairS [(slabBase + 0x100004, [0x80, 0, 0x40, 0, 4])]) (j r lw)
    (Inv (s 2 0xC0000000) ∧ visDue (s 2 0xC0000000) 5 1 (j 2 0xC0000000) ∧ visDue (s 0 0x80000000) 5 1 (j 0 0x80000000) ∧ clean (s 2 0xC0000000) ∧ clean (s 0 0x80000000)) ∧
    0xC0000000 / 0x40000000 % 4 = 3 ∧
    firstBad (depthChecks (s 2 0xC0000000) (j 2 0xC0000000)) = none ∧ firstBad (depthChecks (s 0 0x80000000) (j 0 0x80000000)) = none ∧
    (let lw := BitVec.ofNat 32 0xC0000000;
      bit lw 31 = true ∧ bit lw 30 = true) ∧ bit (BitVec.ofNat 32 0x80000000) 30 = false ∧
    (∀ r ∈ [0, 2], let k := j r 0xC0000000
      let t := s r 0xC0000000
      let tab := k.latch.getD 1 0
      let (rw, rh) := workSize t (b r) tab
      slabBase ≤ rec8 (b r) 24 8 ∧ rec8 (b r) 24 8 + 64 + rh * up64 (2 * rw) ≤ rec8 (b r) 32 8 ∧
      rec8 (b r) 32 8 + rh * up64 rw ≤ slabBase + 0x3000000) :=
  ⟨⟨inv_of _ (by decide +kernel), ⟨by decide +kernel, rfl, rfl, by decide +kernel, by decide +kernel⟩, ⟨by decide +kernel, rfl, rfl, by decide +kernel, by decide +kernel⟩, ⟨by decide +kernel, by decide +kernel, by decide +kernel⟩, ⟨by decide +kernel, by decide +kernel, by decide +kernel⟩⟩, by decide +kernel⟩

theorem test_met_project :
    let b := blk [(0, 1, 1), (1, 1, 15), (2, 1, 2), (4, 4, 0x7FFFFFFF), (8, 1, 2), (16, 8, slabBase + 0x100000), (24, 8, slabBase + 0x200000),
      (32, 8, slabBase + 0x300000)]
    let j := fun (lw lost : Nat) => vjob 6 b [0x80000000, lw, lost, slabBase + 0x400000, 1, 1]
    let s := fun (lw lost : Nat) => runsJob (regs (mems visS [(slabBase + 0x100040, [1]), (slabBase + 0x500028, [1])])
      [(R.ingFsCfg 2, 0xA0000000), (R.ingFsSize 2, 1), (R.ingFsBufLo 2, 0x500000), (R.ingFsBufHi 2, 1)]) (j lw lost)
    let t := s 0x80000000 0
    (Inv t ∧ visDue t 6 1 (j 0x80000000 0) ∧ clean t) ∧ (∀ x ∈ [(0x80000000, 0), (0x80000000, 1), (0, 0)],
      firstBad (projectChecks (s x.1 x.2) (j x.1 x.2)) = none) ∧ bit (BitVec.ofNat 32 0x80000000) 31 = true ∧
    rec8 (ldBytes t (fsBuf t 2 0) 64) 40 4 = 1 :=
  ⟨⟨inv_of _ (by decide +kernel), ⟨by decide +kernel, rfl, rfl, by decide +kernel, by decide +kernel⟩, ⟨by decide +kernel, by decide +kernel, by decide +kernel⟩⟩, by decide +kernel⟩

/-- A camera entry's table that passes its check, with the version of the last byte's caller. -/
def camTable : List Byte :=
  let b := blkN 124 [(0, 4, 1), (8, 4, 1), (12, 4, 1), (44, 4, 1)]
  b ++ leBytes 4 (crc32c b)

/-- Entry 15 of the projection tables staged at the slab's start, under check, armed, with or without an active table. -/
def calS (tab : List Byte) (st : Word) : State :=
  regs (mems onS [(slabBase, tab)]) [(calStatus (.pje 15), st), (calBase (.pje 15) + 0xC, 1)]

theorem test_met_calibration :
    let c : CalUnit := .pje 15
    let st := calStatus c
    let s := calS camTable
    rb (s 0) st 3 = false ∧ rb (s 0) st 0 = false ∧ rb (s 8) st 3 = true ∧ rb (s 1) st 0 = true ∧ calTableOk (s 8) c = true ∧
    calTableOk (calS [] 8) c = false ∧ rb (s 10) st 1 = true ∧ rb (s 10) st 3 = true ∧ calTableOk (s 10) c = true ∧ rb (s 8) st 1 = false ∧
    rb (s 8) st 0 = false ∧ pairInDisc 0x0F000F00 = true ∧ visJob onS 2 = none ∧ visJob (runsJob onS (vjob 2 [] [])) 2 ≠ none ∧ c ∈ calUnits := by
  decide +kernel

theorem test_met_vision_reports :
    let j := vjob 6 [] []
    let e := { j with status := some 0 }
    let a := runsJob onS j
    visJob a (visCode .pje) = some j ∧ j.owner = .gate 0 0 ∧ e.status = some 0 ∧ visJob (runsJob onS e) 6 = some e ∧
    abortAsked { a with fgs := { a.fgs with abortAsked := [j.owner] } } j.owner = true ∧ abortAsked a j.owner = false := by
  decide +kernel

/-! ### Hypotheses met: frame graphs, tiles, memory -/

/-- A gate of a graph: unit, dependency, semaphore waited for, semaphore signalled. -/
def gE (unit dep wait sig : Nat) : GateEntry := ⟨unit, true, true, 0, dep, wait, sig, 3, 2, 0x8000, 0, slabBase⟩

/-- Graph 63 of 64 gates: gate 62 is `e`, gate 63 ends the run. -/
def graphG (e : GateEntry) (deadline : Nat) : Graph :=
  ⟨64, 0, 3, 1, 1, 0xFF, 4095, 1, 0, deadline, slabBase, List.replicate 62 (gE 0 0xFF 0xFFFF 0xFFFF) ++ [e, gE 0 0xFF 0xFFFF 0xFFFF], []⟩

/-- A run of it at gate `c`: earlier gates final with `d`, the cursor's gate at `st`, an expiry, the rest idle. -/
def runG (c : Nat) (d : GateRun) (st : GateStage) (x : Option Nat) : Run :=
  ⟨7, 63, 0, 0, some 100, true, x, c, List.replicate c d ++ [⟨st, 0, 0, 0⟩] ++ List.replicate (63 - c) ⟨.idle, 0, 0, 0⟩, 0, 0, some 5, false, false⟩

/-- The state with that graph, run and job queue, at a device time. -/
def fgsS (e : GateEntry) (dl : Nat) (r : Run) (q : List Job) (now : DWord) : State :=
  { onR [(R.tmeCtrl 1, 1), (R.ingFsStatus 15, 8)] with
    fgs := { State.reset.fgs with graphs := [(63, some (graphG e dl))], runs := [r], queues := tabSet [] [] e.unit q }, dt := { Dt.reset with now := now } }

theorem test_met_graph_gates :
    let fin := fun st fl => (⟨.final, st, fl, 0⟩ : GateRun)
    let r := fun d => runG 62 d .idle none
    let s := fun e dl q now => fgsS e dl (r (fin 0 0)) q now
    let free : GateEntry := { gE 4 0xFF 0xFFFF 0xFFFF with needs := 0 }
    let ends := fun dl => ((r (fin 0 0)).launchDt.getD 0).toNat + (graphG free dl).deadline
    (∀ e ∈ [free, { free with unit := 0 }, { free with waitSem := 4095 }, { free with needs := 0x8000 }, { free with pair := 0xA0 }, { free with dep := 61 }],
      let t := s e 10 [] 109
      findRun t 7 = some (r (fin 0 0)) ∧ graphOf t 63 = some (graphG e 10) ∧ (r (fin 0 0)).cursor + 1 < (graphG e 10).ngates ∧
      (r (fin 0 0)).gates.length = (graphG e 10).ngates ∧ (gateRunAt (r (fin 0 0)) 62).stage = .idle ∧ inOrder t (r (fin 0 0)) = true ∧
      gateAt (graphG e 10) 62 = e) ∧
    109 < ends 10 ∧ ¬ 110 < ends 10 ∧ (graphG free 0).deadline = 0 ∧
    needsLost (s free 10 [] 109) 0x8000 = true ∧ needsLost (s free 10 [] 109) 0 = false ∧ pairDiffers onS 0xA0 = true ∧
    pairDiffers onS 0x80 = false ∧ pairDiffers onS 0 = false ∧ unitPowered (s free 10 [] 0) 4 = true ∧
    unitPowered (wr (s free 10 [] 0) R.pwrPark 8) 4 = false ∧
    (∀ n ∈ [7, 8], let t := s free 10 (List.replicate n (vjob 4 [] [])) 0
      (queueOf t 4).length + (holdersBefore t 4 (r (fin 0 0))).length = n ∧ joiningAt t 4 = []) ∧
    (let d := gateRunAt (r (fin 0x23 1)) 61;
      d.stage = .final ∧ d.flags % 2 = 1) ∧
    (let d := gateRunAt (r (fin 0x20 0)) 61;
      d.stage = .final ∧ d.flags % 2 = 0 ∧ 0x20 ≤ d.status) := by
  decide +kernel

theorem test_met_gate_ends :
    let r := fun c st x => runG c ⟨.final, 0, 0, 0⟩ st x
    let e := gE 4 0xFF 0xFFFF 4095
    let h := fgsS e 0 (r 62 .queueHold (some 10)) [] 10
    findRun h 7 = some (r 62 .queueHold (some 10)) ∧ graphOf h 63 = some (graphG e 0) ∧ (r 62 .queueHold (some 10)).cursor + 1 < (graphG e 0).ngates ∧
    10 ≤ h.dt.now.toNat ∧ (gateRunAt (r 62 .queueHold none) 62).stage = .queueHold ∧ (gateRunAt (r 62 .depHold none) 62).stage = .depHold ∧
    (fgsS e 0 (r 62 .depHold (some 10)) [] 9).dt.now.toNat < 10 ∧ 62 < (graphG e 0).ngates ∧
    (gateRunAt (r 62 .depHold none) 63).stage ≠ .final ∧ unitPowered h 4 = true ∧ joiningAt h 4 = [] ∧
    (queueOf h 4).length + (holdersBefore h 4 (r 62 .queueHold (some 10))).length = 0 ∧
    8 ≤ (queueOf (fgsS e 0 (r 62 .queueHold (some 10)) (List.replicate 8 (vjob 4 [] [])) 10) 4).length ∧
    (gateAt (graphG e 0) 62).sigAlways = true ∧ (gateAt (graphG e 0) 62).sigSem < 4096 ∧ (gateAt (graphG { e with sigAlways := false } 0) 62).sigAlways = false ∧
    0x1F < 0x20 ∧ 0x20 ≤ 0x20 := by
  decide +kernel

theorem test_met_run_ends :
    let q : Run := { runG 63 ⟨.final, 0, 0, 0⟩ .running none with cursor := 64 }
    let g := graphG (gE 4 0xFF 0xFFFF 4095) 0
    let s := fgsS (gE 4 0xFF 0xFFFF 4095) 0 q [] 0
    s.fgs.runs = [q] ∧ graphOf s q.graph = some g ∧ g.ngates ≤ q.cursor ∧ q.gates.length = g.ngates ∧ 63 < g.ngates ∧
    (∀ k, k < g.ngates → k ≠ 63 → (gateRunAt q k).stage = .final) ∧ g.cq = 0xFF ∧ (gateAt g 63).sigSem = 0xFFFF ∧ g.endSem < 4096 ∧
    q.desc = some 5 := by
  decide +kernel

/-- A run whose record is written waits for its completion ring: disabled, so with room, and full with 512 completions held. -/
theorem test_met_held_run :
    let q : Run := { runG 63 ⟨.final, 0, 0, 0⟩ .final none with cursor := 64, recorded := true }
    let g : Graph := { graphG (gE 4 0xFF 0xFFFF 4095) 0 with cq := 63 }
    let s := { fgsS (gE 4 0xFF 0xFFFF 4095) 0 q [] 0 with fgs := { State.reset.fgs with graphs := [(63, some g)], runs := [q] } }
    s.fgs.runs = [q] ∧ graphOf s q.graph = some g ∧ q.recorded = true ∧ g.cq ≠ 0xFF ∧ cqRoom s g.cq = true ∧
    cqRoom (let t := regs s [(R.hifCqCfg 63, 0x80000000)]; { t with hif := { t.hif with hold := List.replicate 512 (⟨63, none, 0, 0, false, 0, [], false⟩ : Completion) } }) 63 = false := by
  decide +kernel

theorem test_met_unit_starts :
    let j := vjob 4 [] []
    let d := { j with owner := .descriptor 5 }
    let s := fgsS (gE 4 0xFF 0xFFFF 0xFFFF) 0 (runG 0 ⟨.idle, 0, 0, 0⟩ .idle none) [j] 0
    queueOf s (unitCode (.vision (.tme 1))) = j :: [] ∧ engineHeld s 4 = false ∧ engineDead s 4 = false ∧ unitIdle s (.vision (.tme 1)) j = true ∧
    unitReady s j.unit = true ∧ unitReady onS d.unit = false ∧ unitIdle onS (.vision (.tme 1)) d = true ∧ unitIdle (runsJob s j) (.vision (.tme 1)) j = false ∧
    bit (0x8000003F : Word) 31 = true ∧ graphOf onS (fld (0x8000003F : Word) 5 0) = none ∧
    graphOf s (fld (0x8000003F : Word) 5 0) = some (graphG (gE 4 0xFF 0xFFFF 0xFFFF) 0) ∧ bit (0x3F : Word) 31 = false := by
  decide +kernel

/-- A pass of logical tile 63, and a program of one of them with one state slot of the last place. -/
def passP : TilePass := ⟨63, 0, 32, 0, .input, 0, 32, 0, 32, 0, .output, 0, 32, [], []⟩

def progP : TileProg := ⟨[63], 32, 32, 1, gdrBase, 0, 0, [passP]⟩

/-- Context 15 with that program at 1023, and a plan 255 of two entries. -/
def ctxS (l : List (Nat × Word)) : State :=
  { onR ([(R.memCtxWinSlab 15, 0x02FF0001), (R.ttStatus 66, 0x3FFF0003), (R.ttStatus 67, 0xFFFF0003)] ++ l) with
    memx := { State.reset.memx with ctx := [(15, some ⟨[63], [(255, [blk [], blk []])], [(1023, some progP)], [], []⟩)] } }

/-- The job block of that program. -/
def tileB : List Byte := blk [(0, 1, 1), (1, 1, 2), (2, 2, 1023), (4, 2, 1), (8, 8, slabBase), (16, 8, slabBase), (24, 8, slabBase + 0x2FFFFC0),
  (32, 2, 4095), (34, 2, 1)]

/-- Its job, and the job running with passes to come. -/
def tileJ (b : List Byte) : Job := { vjob 0x10 b [] with ctx := 15 }
def tileT (left : List TilePass) (retry : List Nat) : TileJob :=
  ⟨3, tileJ tileB, 1023, progP, 0, 1, 4095, [], left, [], 0, 0, [], 0, 0, retry, [], 0, none, 66⟩

theorem test_met_tile_start :
    let j := tileJ tileB
    let bad := tileJ (blk [(0, 1, 1), (2, 2, 1023)])
    let at_ := fun j run => ({ ctxS [] with fgs := { State.reset.fgs with started := [(0x10, [j])] }
                                            tiles := { State.reset.tiles with running := run } } : State)
    let s := at_ j []
    startedAt s 0x10 = [j] ∧ tileMayStart s j.ctx j.block = true ∧ progOf s j.ctx (rec8 j.block 2 2) = some progP ∧
    tileBlockOk s j.block progP = true ∧ rec8 j.block 1 1 / 2 % 2 = 1 ∧ (∀ l ∈ progP.tiles, tileOf s l ≠ none) ∧
    badData s [(progP.slotBase + 512 * rec8 j.block 32 2, 512 * rec8 j.block 34 2)] = false ∧ j.owner = .gate 0 0 ∧
    tileMayStart (at_ bad []) 15 bad.block = true ∧ tileBlockOk (at_ bad []) bad.block progP = false ∧ progOf onS 15 1023 = none ∧
    tileMayStart (at_ j [tileT [] []]) 15 j.block = false := by
  decide +kernel

/-- A pass without faults agrees at its end and, where K is one more than 16,384, at its first comparison; a residue that differs is
a mismatch, and so is one accumulator off by one (R246). -/
theorem test_met_tile_pass :
    let s := fun t => ({ ctxS [] with tiles := { State.reset.tiles with running := [t] } } : State)
    let t := tileT [passP] []
    let u := tileT [{ passP with k := 16385 }] []
    tileJob (s t) 3 = some t ∧ nextPass (tilesOn (s t) 66) [] t.left = some (passP, []) ∧ t.status = none ∧ abortAsked (s t) t.job.owner = false ∧
    fenced (s t) (localBase 63) = false ∧ ttState (s t) 66 ≠ 7 ∧ t.retry.contains 63 = false ∧ (tileT [passP] [63]).retry.contains 63 = true ∧
    tileHalted (s t) 66 = false ∧ tileHalted (ctxS [(R.ttChkLast 66, 0x40000000)]) 66 = true ∧ transientExhausted (s t) 0x10 66 = false ∧
    pointK passP 0 = passP.k ∧ pointK { passP with k := 16385 } 0 < 16385 ∧ nextPass (tilesOn (s u) 66) [] u.left = some ({ passP with k := 16385 }, []) ∧
    (let p := { passP with k := 1 };
      failing p.mode (passSums (s t) t p 1 [⟨31, 31, 1⟩]) = ([31], [31])) := by
  decide +kernel

theorem test_met_tile_agrees (s : State) (t : TileJob) : (∀ errs, errs = [] → failing passP.mode (passSums s t passP 32 errs) = ([], [])) ∧
    failing passP.mode (passSums s t { passP with k := 16385 } 16384 []) = ([], []) :=
  ⟨fun _ h => h ▸ pass_without_faults_agrees s t passP 32, pass_without_faults_agrees s t { passP with k := 16385 } 16384⟩

theorem test_met_tile_end :
    let s := fun (a : List Owner) (l : List (Nat × Word)) (t : TileJob) => ({ ctxS l with
      tiles := { State.reset.tiles with running := [t] }, fgs := { State.reset.fgs with abortAsked := a } } : State)
    let t := tileT [] []
    tileJob (s [] [] t) 3 = some t ∧ t.job.owner = .gate 0 0 ∧ t.status = none ∧ t.left = [] ∧ abortAsked (s [] [] t) t.job.owner = false ∧
    ¬ (0 < t.takeovers ∨ ∃ l ∈ t.p.tiles, remapped (s [] [] t) l = true) ∧
    (∃ l ∈ t.p.tiles, remapped (s [] [(R.ttStatus 66, 0x2A3F0003)] t) l = true) ∧ (tileT [passP] []).left ≠ [] ∧
    abortAsked (s [t.job.owner] [] t) t.job.owner = true ∧ rec8 t.job.block 1 1 % 2 = 0 := by
  decide +kernel

theorem test_met_takeover :
    let s := ctxS [(R.ttChkLast 66, 0x40000000)]
    let alone := ctxS [(R.ttChkLast 66, 0x40000000), (R.ttStatus 67, 0)]
    let t : Takeover := ⟨66, 63, 67, 0, [66]⟩
    let u := { s with safe := { State.reset.safe with takeover := some t } }
    ttLogical s 66 = 63 ∧ s.safe.takeover = none ∧ rb s (R.ttChkLast 66) 30 = true ∧ 63 < 64 ∧ rotMoving s (66 / 17) = false ∧
    freeTile s (63 / 16) = some 67 ∧ 67 < 68 ∧ takeoverTarget alone 66 (ttLogical alone 66) = none ∧ u.safe.takeover = some t ∧
    t.new ≠ 66 ∧ (∀ r ∈ t.ranges, tabGet none u.memx.moves r = none) ∧ 66 ∈ t.ranges ∧
    tabGet none ({ u with memx := { u.memx with moves := [(66, some ⟨0, none, none⟩)] } } : State).memx.moves 66 ≠ none := by
  decide +kernel

/-- A COPY, or FILL, entry of two rows of 100 bytes, the last source row ending at the slab's end. -/
def entryB (op : Nat) : List Byte := blk [(0, 1, op), (4, 4, 100), (8, 4, 2), (12, 4, 0xAABBCCDD), (16, 8, slabBase + 0x2FFFF38), (24, 8, slabBase + 0x2FF003F),
  (32, 4, 100), (36, 4, 128)]

/-- Engine 15 with an entry in hand. -/
def ceS (b : List Byte) (p : List Nat) (own : Owner) (st : Option Nat) : State :=
  let s := ctxS [(R.memCtrl, 1)]
  { s with memx := { s.memx with ce := [(15, some ⟨⟨own, 0x1F, 15, slabBase, b, none, []⟩, [b], 0, 0, st⟩)] }, poison := p }

theorem test_met_copy_entry :
    let own : Owner := .gate 0 0
    (∀ op ∈ [1, 2], let x := entryB op
      let s := ceS x [] own none
      let c : CopyJob := ⟨⟨own, 0x1F, 15, slabBase, x, none, []⟩, [x], 0, 0, none⟩
      Inv s ∧ entryRuns s 15 c x ∧ rec8 x 0 1 = op ∧ (∀ r ∈ entryRows x, poisoned s r.1 (rec8 x 4 4) = false) ∧
      ∀ r ∈ entryRows x, plainRam s r.1 (rec8 x 4 4) ∧ plainRam s r.2 (rec8 x 4 4)) ∧
    (let x := entryB 1;
      poisoned (ceS x [slabBase + 0x2FFFF38] own none) (rec8 x 16 8) (min (rec8 x 4 4) (64 - rec8 x 24 8 % 64)) = true ∧
      entryForm (ceS x [] own none) x = true ∧ entryForm onS (blk [(0, 1, 1)]) = false ∧
      (let f := blk [(0, 1, 1), (1, 1, 1), (4, 4, 100), (8, 4, 2), (16, 8, slabBase), (24, 8, slabBase), (32, 4, 100), (36, 4, 128)]
       let w := ceS f [] own none
       fenceFlag f = true ∧ unacked { w with memx := { w.memx with unacked := [(own, 0)] } } own = true) ∧
      entryInWindow (ceS x [] own none) ⟨(0, 0), (0, 0), (0, 0), (0, 0), []⟩ x = false) := by
  refine ⟨fun op h => ?_, by decide +kernel⟩
  simp only [List.mem_cons, List.not_mem_nil, or_false] at h
  have h1 : ∀ r ∈ entryRows (entryB 1), slabBase ≤ r.1 ∧ r.1 + rec8 (entryB 1) 4 4 ≤ slabBase + 0x3000000 ∧
      slabBase ≤ r.2 ∧ r.2 + rec8 (entryB 1) 4 4 ≤ slabBase + 0x3000000 := by decide +kernel
  have h2 : ∀ r ∈ entryRows (entryB 2), slabBase ≤ r.1 ∧ r.1 + rec8 (entryB 2) 4 4 ≤ slabBase + 0x3000000 ∧
      slabBase ≤ r.2 ∧ r.2 + rec8 (entryB 2) 4 4 ≤ slabBase + 0x3000000 := by decide +kernel
  rcases h with rfl | rfl
  · exact ⟨inv_of _ (by decide +kernel), ⟨by decide +kernel, rfl, by decide +kernel, by decide +kernel, by decide +kernel, by decide +kernel,
      by decide +kernel⟩, by decide +kernel, by decide +kernel, fun r hr => ⟨.inl ⟨(h1 r hr).1, (h1 r hr).2.1⟩, .inl (h1 r hr).2.2⟩⟩
  · exact ⟨inv_of _ (by decide +kernel), ⟨by decide +kernel, rfl, by decide +kernel, by decide +kernel, by decide +kernel, by decide +kernel,
      by decide +kernel⟩, by decide +kernel, by decide +kernel, fun r hr => ⟨.inl ⟨(h2 r hr).1, (h2 r hr).2.1⟩, .inl (h2 r hr).2.2⟩⟩

theorem test_met_copy_jobs :
    let j : Job := ⟨.descriptor 5, 0x1F, 15, slabBase, blk [(0, 1, 3), (2, 2, 255)], none, []⟩
    let s := { ctxS [] with fgs := { State.reset.fgs with started := [(0x1F, [j])] } }
    let busy := { s with memx := { s.memx with ce := [(12, some ⟨j, [], 0, 0, none⟩), (13, some ⟨j, [], 0, 0, none⟩), (14, some ⟨j, [], 0, 0, none⟩),
      (15, some ⟨j, [j.block], 0, 0, some 0⟩)] } }
    startedAt s 0x1F = [j] ∧ idleEngine s 1 = some 12 ∧ idleEngine busy 1 = none ∧ ceJob busy 15 = some ⟨j, [j.block], 0, 0, some 0⟩ ∧
    (let x := j.block;
      rec8 x 0 1 = 3 ∧ rec8 x 1 1 < 2 ∧ zeros x 40 24 = true ∧ planOf s 15 (rec8 x 2 2) = some [blk [], blk []] ∧ planOf s 15 254 = none) ∧
    abortAsked s j.owner = false ∧ j.latch = [] := by
  decide +kernel

theorem test_met_fence :
    let mv := fun (m : Move) (l : List (Nat × Word)) => { onR ((R.memRedir 67, 0x40000043) :: l) with memx := { State.reset.memx with moves := [(67, some m)] } }
    let m : Move := ⟨0x420000, none, none⟩
    let s := mv m [(R.memRedir 66, 0x430000)]
    let two := { s with memx := { s.memx with moves := [(66, some ⟨0, none, none⟩), (67, some m)] } }
    tabGet none s.memx.moves 67 = some m ∧ targetBusy s 67 m = false ∧ s.heldWrites = [] ∧ bit m.target 30 = false ∧
    targetBusy (wr two (R.memRedir 66) 0x420000) 67 m = true ∧ tabGet none onS.memx.moves 67 = none ∧
    (let g := { onR [(R.memNbr 15, 0xC0430000)] with memx := { State.reset.memx with restore := [(15, some 67)] } };
      tabGet none g.memx.restore 15 = some 67 ∧ rb g (R.memNbr 15) 31 = true ∧ rb g (R.memNbr 15) 30 = true ∧ rf g (R.memNbr 15) 22 16 < 68) := by
  decide +kernel

/-- A store of a gate's job, held by the fence of range 67 and the only one held, its completion and a signal waiting for it. -/
theorem test_met_held_store :
    let m : Move := ⟨0x420000, none, none⟩
    let s := { onR [(R.memRedir 67, 0x40000043)] with
      heldWrites := [⟨4, 67 * 0x80000 + 0x7FFFF, 9⟩]
      memx := { State.reset.memx with moves := [(67, some m)], unacked := [(.gate 7 0, 4)], deferred := [(.gate 7 0, 0, [])], signals := [⟨[4], 2, 300, 1⟩] } }
    tabGet none s.memx.moves 67 = some m ∧ targetBusy s 67 m = false ∧ bit m.target 30 = false ∧ m.evac = none ∧ m.restore = none ∧
    (∀ e ∈ s.heldWrites, e.addr / 0x80000 = 67) ∧ s.memx.deferred = [(.gate 7 0, 0, [])] := by
  decide +kernel

theorem test_met_fence_invariant :
    Inv { onR [(R.memRedir 66, 0x430000), (R.memRedir 67, 0x40000043)] with memx := { State.reset.memx with moves := [(67, some ⟨0x420000, none, none⟩)] } } :=
  inv_of _ (by decide +kernel)

theorem test_met_patrol :
    let s := { onR [(R.gdrStatus, 1)] with memx := { State.reset.memx with scrub := 16 * 0x1000000 - 1, retrain := 15 } }
    rb s R.gdrStatus 0 = true ∧ 15 = s.memx.retrain % 16 ∧ rb s R.gdrScrub 31 = true ∧ s.memx.scrub < fittedLines s ∧
    s.edc = [] ∧ (let line := gdrBase + 64 * s.memx.scrub;
      unitsIn s.flips line 64 = [] ∧ unitsIn s.poison line 64 = [] ∧ unitsIn [line] line 64 = [line] ∧ channelOf line < 16) ∧
    edcMax s < 18 ∧ edcMax s + 1 < 18 ∧ rb s R.gdrEvent 1 = false ∧ rb (wr s R.gdrScrub 0) R.gdrScrub 31 = false := by
  decide +kernel

/-! ### Hypotheses met: fusion and the solver -/

/-- The ego filter on slot 3, its MODE AIDED. -/
def tfuL : List (Nat × Word) := [(R.tfuEgoCfg, 0xB0010000), (R.tfuStatus, 2), (R.tfuAidTmo, 10), (R.ifcCtrl, 1), (R.ifcIsCfg 3, 0xC0000002),
  (R.ingIsPeriod 3, 500000), (R.tfuGyroFs, 1), (R.tfuAccFs, 1), (R.tfuInnovCfg, 0xFFFF0004), (R.tfuInnovLo, 0x100000), (R.tfuInnovHi, 1)]

/-- With outputs delivered, and one pose in the history at time 0. -/
def tfuS (l : List (Nat × Word)) (o : List IfcOut) : State :=
  { onR (tfuL ++ l) with
    ifc := { State.reset.ifc with delivered := o }, dt := { Dt.reset with now := 20 }
    tfu := { State.reset.tfu with p := mZero 15 15, hist := [pose0], pose := pose0, aided := some 10 } }

theorem test_met_predict :
    let o := fun i => (⟨i, 5, 0, List.replicate 8 0⟩ : IfcOut)
    let s := tfuS [] [o 3]
    let lost := tfuS [(R.ifcCtrl, 0)] [o 3]
    let idle := tfuS [(R.tfuEgoCfg, 0)] [o 3]
    let v : Word := 0xB0020000
    let kat : State := { s with safe := { s.safe with katDue := true } }
    rb s R.tfuEgoCfg 31 = true ∧ s.ifc.delivered = [o 3] ∧ predictHeld s = false ∧ predictHeld kat = true ∧ takesOutput s (o 3) = some 0 ∧
    (tfuS [] [o 2]).ifc.delivered = [o 2] ∧ predictHeld (tfuS [] [o 2]) = false ∧ takesOutput (tfuS [] [o 2]) (o 2) = none ∧
    noneDelivers lost = true ∧ rb lost R.tfuEgoCfg 31 = true ∧ predictHeld lost = false ∧
    noneDelivers (tfuS [(R.ingCtrl, 1), (R.ingIsCfg 3, 0x80000000)] []) = false ∧ rb idle R.tfuEgoCfg 31 = false ∧
    max 1 (rf s R.tfuEgoCfg 23 16) ≤ s.tfu.count + 1 ∧ s.tfu.count + 1 < max 1 (rf (tfuS [(R.tfuEgoCfg, v)] []) R.tfuEgoCfg 23 16) ∧
    s.tfu.aided = some 10 ∧ tfuMode s = 2 ∧ (10 : DWord).toNat + (rd s R.tfuAidTmo).toNat ≤ s.dt.now.toNat ∧ onS.tfu.aided = none ∧
    bit (v &&& 0xFCFFFF00) 31 = true ∧ egoEnableOk idle (v &&& 0xFCFFFF00) = true ∧ egoEnableOk idle (0xB0000000 &&& 0xFCFFFF00) = false ∧
    bit ((0 : Word) &&& 0xFCFFFF00) 31 = false := by
  decide +kernel

/-- A job block of the filter with its record at the slab's start. -/
def tfuB (op filter ty : Nat) : List Byte := blk [(0, 1, op), (1, 1, filter), (2, 1, ty), (8, 8, slabBase)]
def tfuJob (b : List Byte) : Job := vjob 0x12 b []

/-- The filter with that job taken and a record of unit variances (or none) at time `t`. -/
def tfuRun (b : List Byte) (t r : Nat) (objs : Tab (Option TfuObj)) : State :=
  let s := mems (tfuS [(R.tfuObjCfg 30, 0x80000000)] []) [(slabBase, blkN 160 [(0, 8, t), (8, 8, t), (64, 4, r), (72, 4, r), (84, 4, r)])]
  { s with fgs := { s.fgs with started := [(0x12, [tfuJob b])] }, tfu := { s.tfu with objs := objs } }

theorem test_met_update :
    let z : TfuObj := ⟨0, 1, List.replicate 9 0, mZero 9 9⟩
    (∀ x ∈ [(0, 1), (0, 3), (31, 16)], let b := tfuB 1 x.1 x.2
      let s := tfuRun b 0 0x1000000 [(30, some z)]
      startedAt s 0x12 = [tfuJob b] ∧ rec8 b 0 1 = 1 ∧ s.safe.katDue = false ∧ firstBad (updateChecks s b) = none ∧ (measUnits (rec8 b 2 1)).isSome = true ∧
      badData s [(rec8 b 8 8, 160)] = false ∧ measForm (ldBytes s (rec8 b 8 8) 160) (rec8 b 2 1) ((measUnits (rec8 b 2 1)).getD []).length = true ∧
      decide (s.tfu.pose.time < (rec8 (ldBytes s (rec8 b 8 8) 160) 0 8 : Int)) = false ∧ histAt 0 s.tfu.hist none = some (poseAt pose0) ∧
      tabGet none s.tfu.objs 30 = some z) ∧
    (let s := mems (tfuRun (tfuB 1 0 1) 0 1 []) [(slabBase + 148, [1])];
      measForm (ldBytes s slabBase 160) 1 3 = false) ∧
    ({ tfuRun (tfuB 1 0 1) 0 1 [] with safe := { State.reset.safe with katDue := true } } : State).safe.katDue = true ∧
    (let s := tfuRun (tfuB 1 0 3) 0 1 [];
      histAt 0 [] none = none ∧ histAt (-1) s.tfu.hist none = none ∧ tabGet none s.tfu.objs 30 = none) ∧
    firstBad (updateChecks (tfuRun (tfuB 1 32 1) 0 1 []) (tfuB 1 32 1)) = some 1 := by
  decide +kernel

/-- The gain exists with unit measurement variances and not with none. -/
theorem test_met_gain :
    let k := fun r => let s := tfuRun (tfuB 1 0 1) 0 r []
      let rec_ := ldBytes s slabBase 160
      let im := egoInnov (tfuN s) 1 rec_ (poseAt pose0) (poseAt pose0)
      kalman s.tfu.p (normH im.2 [3, 3, 3] ((List.range (tfuN s)).map (tfuExp s))) (measR rec_ 3) (List.zipWith raw24 im.1 [3, 3, 3])
    (k 0x1000000).1.isSome = true ∧ (k 0).1 = none := by
  decide +kernel

theorem test_met_fusion_invariant : Inv (tfuRun (tfuB 1 0 1) 0 0x1000000 []) := inv_of _ (by decide +kernel)

theorem test_met_fusion_jobs :
    (let b := tfuB 2 0 0
      let s := mems (tfuRun b 0 0 []) [(slabBase, blkN 128 [(32, 4, 0x40000000)])]
      let r := ldBytes s slabBase 128
      startedAt s 0x12 = [tfuJob b] ∧ firstBad [(0, rb s R.tfuEgoCfg 31), (8, engineRange s slabBase 128), (24, zeros b 24 40)] = none ∧
      badData s [(slabBase, 128)] = false ∧ zeros r 32 16 = false ∧ zeros r 60 4 = true ∧ zeros r 112 16 = true ∧ rec8 b 8 8 = slabBase) ∧
    (let b := blk [(0, 1, 3), (1, 1, 15), (2, 1, 0), (3, 1, 33), (8, 8, slabBase), (16, 8, slabBase + 0x100000)]
      let j := fun (l : List Nat) => ({ tfuJob b with latch := l } : Job)
      let s0 := regs (tfuRun b 0 0 []) (camL ++ [(R.ingFsCfg 15, 0xA0000000)])
      let s : State := { s0 with fgs := { s0.fgs with started := [(0x12, [j [0x80000000, 0x80000000]])] } }
      startedAt s 0x12 = [j [0x80000000, 0x80000000]] ∧ firstBad [(1, decide (rec8 b 1 1 < 16) && fsEn s 15 && fsType s 15 == 1),
        (2, decide (rec8 b 2 1 < 16) && fsEn s 0 && fsType s 0 == 0), (3, decide (2 ≤ rec8 b 3 1 ∧ rec8 b 3 1 ≤ 33)),
        (8, engineRange s slabBase 48), (16, engineRange s (rec8 b 16 8) (64 * 33)), (24, zeros b 24 40)] = none ∧
      bit (BitVec.ofNat 32 ((j [0x80000000, 0x80000000]).latch.getD 1 0)) 31 = true ∧
      bit (BitVec.ofNat 32 ((j [0x80000000]).latch.getD 1 0)) 31 = false ∧ s.tfu.hist ≠ [] ∧
      badData s [(fsBuf s 15 0, 64), (fsBuf s 0 0, 64), (slabBase, 48)] = false ∧ badOut s [(rec8 b 16 8, 64 * 33)] = false) ∧
    (let b := tfuB 4 0 0
      let s := tfuRun b 0 0 []
      startedAt s 0x12 = [tfuJob b] ∧ firstBad [(8, engineRange s slabBase 2048), (24, zeros b 24 40)] = none ∧ badOut s [(slabBase, 2048)] = false) := by
  decide +kernel

/-- A pose graph of one free pose at the slab's start, and the schedule of its pattern. -/
def imgS (s : State) : State :=
  mems s [(slabBase, [1, 0, 0, 0, 1]), (slabBase + 16, leBytes 8 (slabBase + 0x1000)), (slabBase + 0x1004, [1]), (slabBase + 0x1020, [0, 0, 0, 0x40])]

def schedP : Schedule :=
  let p := loadProblem (imgS onS) slabBase
  ⟨p.cls, p.v, p.f, BitVec.ofNat 64 (crc64 (structBytes p)), [⟨[0], [], [], 0⟩], 0, 0, 4, 1, 2, 0, 8, [], []⟩

/-- A SOLVE of slot 63 of context 15 on it, 1 ms before its deadline of 20 ns. -/
def solveB : List Byte := blk [(0, 1, 0x20), (1, 1, 63), (3, 1, 64), (4, 1, 63), (5, 1, 1), (6, 2, 1000), (16, 8, slabBase), (24, 8, slabBase + 0x2FFFF80)]
def solveJ (b : List Byte) (latch : List Nat) : Job := { vjob 0x13 b latch with ctx := 15 }

def lseS (j : Job) (sc : Schedule) (now : DWord) : State :=
  let s := imgS onS
  { s with
    lse := { State.reset.lse with taken := some j, sched := [(slotKey 15 63, some ⟨some sc, sc, true, 1, 0, 0, false⟩)] }
    dt := { Dt.reset with now := now } }

theorem test_met_solve_accepted :
    let j := solveJ solveB [20]
    let s := lseS j schedP 19
    let bad := solveJ (blk [(0, 1, 0x20), (1, 1, 64)]) []
    let st := fun b => ({ s with fgs := { s.fgs with started := [(0x13, [solveJ b []])] }, lse := { s.lse with taken := none } } : State)
    startedAt (st solveB) 0x13 = [solveJ solveB []] ∧ rec8 solveB 0 1 = 0x20 ∧ (st solveB).lse.taken = none ∧ s.lse.taken = some j ∧
    rec8 (blk []) 0 1 ∉ [0x10, 0x11, 0x20] ∧ startedAt (st (blk [])) 0x13 = [solveJ (blk []) []] ∧ s.lse.solve = none ∧
    engineHeld s 0x13 = false ∧ firstBad (solveChecks s j) = none ∧ firstBad (solveChecks (lseS bad schedP 0) bad) = some 1 ∧
    (schedSlot s (slotKey j.ctx (rec8 j.block 1 1))).isSome = true ∧
    badData s (imageRanges slabBase (ldBytes s slabBase 64) ++ warmReads s j) = false ∧
    badData ({ s with poison := [slabBase] } : State) (imageRanges slabBase (ldBytes s slabBase 64) ++ warmReads s j) = true ∧
    imageBad s slabBase = none ∧ imageBad (mems s [(slabBase, [4])]) slabBase = some (0, 0, 0) ∧
    (let pr := loadProblem s slabBase;
      pr.cls = schedP.cls ∧ pr.v = schedP.v ∧ pr.f = schedP.f ∧ BitVec.ofNat 64 (crc64 (structBytes pr)) = schedP.hash ∧ schedP.v = 1) ∧
    solveDeadline s j = some 20 ∧ s.dt.now.toNat < (20 : DWord).toNat ∧ (20 : DWord).toNat ≤ (lseS j schedP 20).dt.now.toNat ∧
    abortAsked s j.owner = false ∧ abortAsked ({ s with fgs := { s.fgs with abortAsked := [j.owner] } } : State) j.owner = true := by
  decide +kernel

theorem test_met_iteration :
    let j := solveJ solveB [20]
    let v : Solve := ⟨j, 0, some 20, slotKey 15 63, schedP, schedP.hash, ⟨[], [], [], [], [], 5⟩, [], 4, 0, 0, 0, 0, 5, 0, 0, [], 0⟩
    let s := fun now => ({ lseS j schedP now with lse := { State.reset.lse with solve := some v } } : State)
    (s 19).lse.solve = some v ∧ abortAsked (s 19) v.job.owner = false ∧
    badData (s 19) (imageRanges slabBase (ldBytes (s 19) slabBase 64)) = false ∧ v.deadline = some 20 ∧ (s 19).dt.now.toNat < (20 : DWord).toNat ∧
    (20 : DWord).toNat ≤ (s 20).dt.now.toNat := by
  decide +kernel

theorem test_met_preint_and_build :
    (let b := blk [(0, 1, 0x10), (1, 1, 3), (8, 8, 0), (16, 8, 1000000), (48, 8, slabBase + 0x2FFFE00), (56, 2, 1), (58, 2, 0xFFFE), (60, 2, 1), (62, 2, 1)]
      let s := ifcS 0 [] 0xFFFF
      let t := { wr (mems s [(slabBase, [0])]) (R.ifcIsOutLo 3) 0 with ifc := { s.ifc with slot := [(3, { ifcSlot0 with seq := 1 })] } }
      let ring := fun s => (ringAddrs s 3).map fun x => (x, ldBytes s x 64)
      let mine := fun s => (ring s).filter fun r => decide ((rec8 b 8 8 : Int) ≤ recTime r.2) && decide (recTime r.2 < (rec8 b 16 8 : Int))
      let covered := fun s => preintOk s b ((ring s).map Prod.snd) ((mine s).map Prod.snd)
      let hurt : State := { t with poison := [(ringAddrs t 3).getD 0 0] }
      firstBad (preintChecks t b) = none ∧ firstBad (preintChecks onS b) = some 1 ∧ covered t = true ∧ covered (ifcS 0 [] 0xFFFF) = false ∧
      firstBad (preintChecks (ifcS 0 [] 0xFFFF) b) = none ∧ badData t ((mine t).map fun r => (r.1, 64)) = false ∧
      badData hurt ((mine hurt).map fun r => (r.1, 64)) = true ∧ rec8 b 0 1 = 0x10) ∧
    (let b := blk [(0, 1, 0x11), (1, 1, 63), (8, 8, slabBase)]
      let x : SchedSlot := ⟨some schedP, schedP, true, 1, 0, 0xFFFFFFFF, false⟩
      let s := lseS (solveJ b []) schedP 0
      let ok := fun (b : List Byte) => firstBad [(1, decide (rec8 b 1 1 < 64) && x.buildable), (2, zeros b 2 6), (8, engineRange s (rec8 b 8 8) 64), (16, zeros b 16 48)]
      (schedSlot s (slotKey 15 63)).isSome = true ∧ schedSlot s (slotKey 15 62) = none ∧ ok b = none ∧ ok (blk [(0, 1, 0x11), (1, 1, 63), (2, 1, 1)]) = some 2 ∧
      imageBad s slabBase = none ∧ (loadProblem s slabBase).cls = 1 ∧ (loadProblem s slabBase).v ≤ x.maxPoses ∧ (loadProblem s slabBase).f ≤ x.maxFactors ∧
      (∃ k : Build, ({ s with lse := { s.lse with builds := [⟨solveJ b [], slotKey 15 63, []⟩] } } : State).lse.builds = [k]) ∧ s.lse.builds = []) := by
  refine ⟨by decide +kernel, by decide +kernel, by decide +kernel, by decide +kernel, by decide +kernel, by decide +kernel, by decide +kernel,
    by decide +kernel, by decide +kernel, ⟨_, rfl⟩, rfl⟩

/-! ### Hypotheses met: place recognition and the map store -/

/-- A job of a gate at a unit. -/
def uJob (u : Nat) (b : List Byte) : Job := vjob u b []

/-- An index of one zero centroid, a list page of one valid item on channel 0, and an epoch that shows them. -/
def indexP : List Byte := blkN 320 [(0, 4, 1)]
def pageP : FPage := ⟨9, 3, 0, 0, 1, 0x10000, blkN 15913 [(15912, 1, 1)]⟩
def stripeP : Stripe := ⟨4, 2, 0, [0, 1, 7], [pageP, { pageP with pid := 10 }], []⟩
def viewP : View := ⟨1, [(0x100000005, some ⟨1, 5, blkN 144 [(0, 4, 5), (4, 1, 1)], false, 1, 9⟩)], indexP, [(0, ⟨[9], none⟩)]⟩

/-- The map store mounted at epoch 1, with jobs the store has taken, and what else a test asks. -/
def mapS (l : List (Nat × Word)) (ms : List Job) (f : Mst → Mst) : State :=
  { ctxS ([(R.mstStatus, 1), (R.prsCfg, 0x0F0003FF), (R.mstCtrl, 2)] ++ l) with
    fgs := { State.reset.fgs with started := if ms = [] then [] else [(0x15, ms)] }
    mst := f { State.reset.mst with committed := 1, views := [viewP], pins := [1, 0, 0]
                                    flash := { State.reset.mst.flash with stripes := [stripeP], zones := [(2, some ⟨true, [(7, 30)], 1⟩)]
                                                                          nand := ⟨List.replicate 8 1, 32, 4, 2, []⟩ } } }

/-- The same with a job taken by the coordinator. -/
def placeS (j : List Job) (f : Mst → Mst) (run : Option PrsRun) : State :=
  let s := mapS [] [] f
  { s with fgs := { s.fgs with started := if j = [] then [] else [(0x14, j)] }, prs := { s.prs with run := run } }

def queryB (e : Nat) : List Byte := blk [(0, 1, 1), (2, 2, 256), (4, 1, 64), (8, 8, e), (16, 8, slabBase), (24, 8, slabBase + 0x1000)]

theorem test_met_query :
    let j := fun e l => vjob 0x14 (queryB e) l
    let s := fun e l => placeS [j e l] id none
    (Inv (s 0 []) ∧ prsDue (s 0 []) 1 (j 0 []) [] ∧ prsDue (s 2 [9]) 1 (j 2 [9]) []) ∧
    ((List.range 8).any fun n => engineHeld (s 0 []) (0x40 + n)) = false ∧ ((List.range 8).any fun n => engineDead (s 0 []) (0x40 + n)) = false ∧
    abortAsked (s 0 []) (j 0 []).owner = false ∧ queryBad (s 0 []) (queryB 0) = none ∧ queryBad onS (queryB 0) = some 0 ∧
    prsLate ({ s 2 [9] with dt := { Dt.reset with now := 9 } } : State) (j 2 [9]) = true ∧ prsLate (s 2 [9]) (j 2 [9]) = false ∧
    retained (s 2 [9]) 2 = false ∧ retained (s 0 []) 1 = true ∧ ((viewOf (s 0 []) 1).getD (emptyView 0)).index ≠ [] ∧
    ((viewOf (placeS [] (fun m => { m with views := [] }) none) 1).getD (emptyView 0)).index = [] ∧
    badData (s 0 []) [(rec8 (queryB 0) 16 8, 256)] = false :=
  ⟨⟨inv_of _ (by decide +kernel), ⟨by decide +kernel, by decide +kernel, rfl, by decide +kernel, rfl⟩,
    by decide +kernel, by decide +kernel, rfl, by decide +kernel, rfl⟩, by decide +kernel⟩

/-- A query whose coarse job has ended, with the page of list 0 to scan, come or still to come. -/
def runP (op : Nat) (coarse : Option Nat) (done : Bool) (ps : List PrsPage) : PrsRun :=
  ⟨vjob 0x14 (if op = 1 then queryB 0 else blk [(0, 1, 2), (4, 4, 33), (16, 8, slabBase), (24, 8, slabBase + 0x10000)]) [], 0, 1, coarse, done, 0, [],
    ps, [], 0, 0, 0, 32, [], 32⟩

theorem test_met_query_stages :
    let s := fun r => placeS [] id (some r)
    let c := runP 1 (some 5) false []
    let p := runP 1 (some 0) true [⟨9, 0, true⟩]
    let v := (viewOf (s c) 1).getD (emptyView 0)
    (s c).prs.run = some c ∧ jobOp c.job = 1 ∧ (5 < 0x20 ∧ 0x20 ≤ 255 ∧ 255 < 256) ∧ c.coarse = some 5 ∧ c.coarseDone = false ∧
    abortAsked (s c) c.job.owner = false ∧ prsLate (s c) c.job = false ∧ chosenLists (s c) v.index 0 (qP c.job.block) = [0] ∧
    probePages (s c) v [0] = [⟨9, 0, false⟩] ∧ (∀ p ∈ probePages (s c) v [0], pageLost (s c) p.pid = false) ∧
    p.pages.find? (fun p => p.su == 0 && p.arrived) = some ⟨9, 0, true⟩ ∧ p.pages.find? (fun p => p.su == 7 && p.arrived) = none ∧
    (findPage (s p) 9).isSome = true ∧ p.coarseDone = true ∧ (runP 1 (some 0) true []).pages = [] ∧ p.pages ≠ [] := by
  decide +kernel

theorem test_met_place_jobs :
    let s := fun b => placeS [uJob 0x14 b] id none
    let ins := blk [(0, 1, 2), (4, 4, 4096), (16, 8, slabBase), (24, 8, slabBase + 0x200000)]
    let del := blk [(0, 1, 3), (4, 4, 65536), (16, 8, slabBase), (24, 8, slabBase + 0x200000)]
    let flt := fun op a n => blk [(0, 1, 4), (1, 1, op), (4, 4, a), (8, 4, n)]
    let r := runP 2 (some 0) false []
    (∀ b ∈ [ins, del, flt 0 0 0, flt 3 0xFFFFFF 1, blk [], blk [(0, 1, 6)]], prsDue (s b) (rec8 b 0 1) (uJob 0x14 b) []) ∧
    (insertBad (s ins) ins = none ∧ insertBad onS ins = some 0 ∧ deleteBad (s del) del = none ∧ deleteBad onS del = some 0 ∧
    sideClosed (s ins) = none ∧ badData (s ins) [(rec8 ins 16 8, 264 * rec8 ins 4 4)] = false ∧
    badData (s del) [(rec8 del 16 8, 8 * rec8 del 4 4)] = false ∧ abortAsked (s ins) (uJob 0x14 ins).owner = false ∧
    (placeS [] id (some r)).prs.run = some r ∧ jobOp r.job = 2 ∧ r.coarseDone = false ∧ min 32 (rec8 r.job.block 4 4 - r.group) = 1 ∧
    (placeS [] (fun m => { m with write := some ⟨uJob 0x15 [], 2, false⟩ }) (some r)).mst.write ≠ none ∧ (s ins).mst.write = none ∧
    (let b := flt 3 0xFFFFFF 1;
      zeros b 2 2 = true ∧ zeros b 12 4 = true ∧ zeros b 16 48 = true ∧ rec8 b 1 1 = 3 ∧ 1 ≤ rec8 b 8 4 ∧ rec8 b 4 4 + rec8 b 8 4 ≤ 2 ^ 24) ∧
    2 ^ 24 < rec8 (flt 2 0xFFFFFF 2) 4 4 + rec8 (flt 2 0xFFFFFF 2) 8 4 ∧ rec8 (flt 2 0 0) 8 4 = 0) := by
  refine ⟨fun b h => ?_, by decide +kernel⟩
  simp only [List.mem_cons, List.not_mem_nil, or_false] at h
  rcases h with rfl | rfl | rfl | rfl | rfl | rfl <;> exact ⟨by decide +kernel, by decide +kernel, rfl, by decide +kernel, rfl⟩

/-- PUT of one BLOB without a body, and DELETE of one object, with the epoch's other states. -/
theorem test_met_writes :
    let put := blk [(0, 1, 1), (4, 4, 1), (8, 4, 16), (16, 8, slabBase), (24, 8, slabBase + 0x100)]
    let del := blk [(0, 1, 2), (4, 4, 65536), (16, 8, slabBase), (24, 8, slabBase + 0x100000)]
    let pin := fun op e => blk [(0, 1, op), (8, 8, e)]
    let s := fun b => mapS [] [uJob 0x15 b] id
    (∀ b ∈ [put, del, blk [(0, 1, 3)], pin 6 0, pin 7 1, pin 6 2], mstDue (s b) false (rec8 b 0 1) (uJob 0x15 b)) ∧
    (firstBad [(1, zeros put 1 3), (4, decide (1 ≤ rec8 put 4 4 ∧ rec8 put 4 4 ≤ 65536)), (12, zeros put 12 4), (16, jobRange (s put) slabBase 16),
      (24, jobRange (s put) (rec8 put 24 8) (4 * 1)), (32, zeros put 32 32)] = none ∧
    firstBad [(1, zeros del 1 3), (4, decide (1 ≤ rec8 del 4 4 ∧ rec8 del 4 4 ≤ 65536)), (8, zeros del 8 8),
      (16, jobRange (s del) slabBase (8 * 65536)), (24, jobRange (s del) (rec8 del 24 8) (4 * 65536)), (32, zeros del 32 32)] = none ∧
    badData (s put) [(slabBase, max 1 (rec8 put 8 4))] = false ∧ badData (s del) [(slabBase, 8 * 65536)] = false ∧
    (splitPuts 1 (ldBytes (s put) slabBase 16)).isSome = true ∧ abortAsked (s put) (uJob 0x15 put).owner = false ∧
    firstBad [(1, zeros (blk [(0, 1, 3)]) 1 31), (32, zeros (blk [(0, 1, 3)]) 32 32)] = none ∧ pinBad (uJob 0x15 (pin 6 0)) = none ∧
    pinEpoch (s (pin 6 0)) (uJob 0x15 (pin 6 0)) = 1 ∧ retained (s (pin 6 0)) 1 = true ∧ (s (pin 6 0)).mst.pins.contains 1 = true ∧
    retained (s (pin 6 2)) 2 = false ∧ (s (pin 6 2)).mst.pins.contains 2 = false ∧
    (let q := mapS [] [] fun m => { m with pins := [2, 3, 4] };
      retained q 1 = true ∧ q.mst.pins.contains 1 = false ∧ 3 ≤ pinCount q) ∧
    (let q := mapS [] [] fun m => { m with pins := [2, 3, 0] };
      retained q 1 = true ∧ q.mst.pins.contains 1 = false ∧ pinCount q < 3) ∧ pinEpoch (s (pin 7 1)) (uJob 0x15 (pin 7 1)) = 1) := by
  refine ⟨fun b h => ?_, by decide +kernel⟩
  simp only [List.mem_cons, List.not_mem_nil, or_false] at h
  rcases h with rfl | rfl | rfl | rfl | rfl | rfl <;>
    exact ⟨by decide +kernel, by decide +kernel, by decide +kernel, fun _ => ⟨rfl, by decide +kernel, by decide +kernel⟩⟩

theorem test_met_stripes :
    let w := fun op i => (⟨uJob 0x15 (blk [(0, 1, op)]), 2, i⟩ : WriteJob)
    let s := fun k w => mapS [] [] fun m => { m with programming := [⟨4, k⟩], write := w }
    (s .commit (some (w 3 true))).mst.programming = [⟨4, .commit⟩] ∧ (s .commit (some (w 3 true))).mst.write = some (w 3 true) ∧
    (s .journal none).mst.programming = [⟨4, .journal⟩] ∧ (s .journal none).mst.write = none ∧ jobOp (w 3 false).job = 3 ∧
    (w 3 false).issued = false ∧ jobOp (w 6 true).job = 6 ∧ jobOp (w 7 true).job ≠ 6 ∧ (w 7 true).epoch ≠ 0 ∧
    (s .pin (some (w 6 true))).mst.programming = [⟨4, .pin⟩] ∧
    (let q := fun l => mapS l [uJob 0x15 (blk [])] id;
      laneJob (q []) false = some (uJob 0x15 (blk [])) ∧ jobOp (uJob 0x15 (blk [])) = 0 ∧ jobOp (uJob 0x15 (blk [(0, 1, 8)])) = 8 ∧
      (q []).mst.write = none ∧ mstStatus (q []) 0 = true ∧ mstStatus (q []) 3 = false ∧ mstStatus (q []) 8 = false ∧
      mstStatus (q [(R.mstStatus, 9)]) 3 = true ∧ mstStatus (q [(R.mstStatus, 0x101)]) 8 = true) := by
  decide +kernel

theorem test_met_reads :
    let win := blk [(0, 1, 4), (2, 2, 1), (4, 4, 1), (16, 8, slabBase + 8), (24, 8, slabBase + 0x1000)]
    let gra := blk [(0, 1, 4), (1, 1, 1), (2, 2, 767), (8, 8, 1), (24, 8, slabBase)]
    let get := fun t e => blk [(0, 1, 5), (1, 1, t), (2, 2, 1), (4, 4, 1), (8, 8, e), (16, 8, slabBase + 8), (24, 8, slabBase + 0x1000)]
    let s := fun b => mems (mapS [] [uJob 0x15 b] id) [(slabBase + 8, [5])]
    let j := fun b => uJob 0x15 b
    (Inv (s win) ∧ ∀ b ∈ [win, gra, get 1 0, get 0x7E 0], mstDue (s b) true (rec8 b 0 1) (j b)) ∧
    (readBad (s win) (j win) = none ∧ readBad (s gra) (j gra) = none ∧ readBad (s win) (j (blk [(0, 1, 4), (1, 1, 2)])) = some 1 ∧
    badData (s win) [(slabBase + 8, 4)] = false ∧ retained (s win) (readEpoch (s win) (j win)) = true ∧ retained (s win) 2 = false ∧
    (let v := (viewOf (s win) 1).getD (emptyView 0)
      let o := objOf v 1 (ldN (s win) (slabBase + 8) 4)
      o.isSome = true ∧ sequenceOpt [objOf v 1 6] = none ∧ (∀ x ∈ o.toList,
        ((windowImage v [x]).vars.any fun x => pageLost (s win) x.page) = false ∧ imageFits (windowImage v [x]) = true ∧
        (imageBytes (windowImage v [x]) (slabBase + 0x1000)).length ≤ capacity (j win)) ∧
      imageFits (graphImage v) = true ∧ capacity (j win) = 65536 ∧ ((graphImage v).vars.any fun x => pageLost onS x.page) = true) ∧
    getBad (s (get 1 0)) (j (get 1 0)) = none ∧ getBad (s (get 0x7E 0)) (j (get 0x7E 0)) = none ∧
    readEpoch (s (get 1 2)) (j (get 1 2)) = 2 ∧ abortAsked (s win) (j win).owner = false) := by
  refine ⟨⟨inv_of _ (by decide +kernel), fun b h => ?_⟩, by decide +kernel⟩
  simp only [List.mem_cons, List.not_mem_nil, or_false] at h
  rcases h with rfl | rfl | rfl | rfl <;> exact ⟨by decide +kernel, by decide +kernel, by decide +kernel, fun h => nomatch h⟩

theorem test_met_flash :
    let s := mapS [] [] id
    let prog := mapS [] [] fun m => { m with programming := [⟨4, .journal⟩] }
    let lost := mapS [(R.flcStatus 7, 0x80000000), (R.mstStatus, 0x81)] [] id
    let late := mapS [] [] fun m => { m with flash := { m.flash with late := [(7, 0)], uncorr := [(7, 1, 0)] } }
    let other := fun (s : State) => s.mst.flash.uncorr.any fun e => e.1 == 7 && e.2.1 != dieOf s stripeP 7 &&
      decide (s.dt.now.toNat ≤ e.2.2.toNat + 1000000000)
    dieOf s stripeP 7 = 0 ∧ (7, 0) ∉ s.mst.flash.late ∧ (7, dieOf late stripeP 7) ∈ late.mst.flash.late ∧ other s = false ∧ other late = true ∧
    CwRead.uncorrectable ∈ [CwRead.hard 0, .uncorrectable].take 4 ∧ (∀ w ∈ [CwRead.hard 0].take 4, w = .hard 0) ∧
    (stripeOf s 4).isSome = true ∧ lostCh s 7 = false ∧ 7 ∈ stripeP.chans ∧ stripeOf s 5 = none ∧ lostCh lost 7 = true ∧ 31 ∈ freeBlocks s 7 ∧
    30 ∉ freeBlocks s 7 ∧ failingStripe s 3 = none ∧ (failingStripe prog 7).isSome = true ∧ stripeP.zone = 2 ∧ zoneOf prog 2 = some ⟨true, [(7, 30)], 1⟩ ∧
    [(7, 30)].find? (fun e => e.1 == 7) = some (7, 30) ∧ (usableCh s).length = 8 ∧ (usableCh lost).length < 8 ∧ lostCh lost 0 = false ∧
    (rb s R.mstCtrl 1 && mstStatus s 0 && !mstStatus s 3 && !mstStatus s 8 && s.mst.write.isNone) = true ∧
    (let m := { onS with aon := { State.reset.aon with boot := .trained, failLow := false } };
      (decide (m.aon.boot = .trained) && !mstStatus m 0 && !mstStatus m 10) = true ∧ m.aon.failLow = false ∧ m.aon.boot ≠ .off ∧
      (let r := fun (l : List Root) (t : List Stripe) =>
        ({ m with mst := { m.mst with flash := { m.mst.flash with
          roots := l, zones := [(2, some ⟨false, [(0, 9), (7, 30)], 1⟩)], stripes := t, nand := ⟨[4, 4, 4, 4, 4, 4, 4, 4], 32, 4, 2, []⟩ } } } : State)
      readableRoots (r [⟨1, 1, 0⟩] []) ≠ [] ∧ readableRoots (r [] []) = [] ∧ (∀ c, c < 8 → (r [] []).mst.flash.nand.dies.getD c 0 ≠ 0) ∧
      journalStripe (r [⟨1, 1, 0⟩] [stripeP]) stripeP = true ∧ (deadChs (r [⟨1, 1, 0⟩] [stripeP]) stripeP).length < 2 ∧
      ({ m with mst := { m.mst with flash := { m.mst.flash with nand := ⟨[0], 0, 0, 0, []⟩ } } } : State).mst.flash.nand.dies.getD 0 0 = 0)) ∧
    (decide (fld (0xC3000000 : Word) 31 24 = 0xC3) && !rb onS R.mstCtrl 0 && !mstStatus onS 3) = true ∧
    (decide (fld (0xC2000000 : Word) 31 24 = 0xC3) && !rb onS R.mstCtrl 0 && !mstStatus onS 3) = false := by
  decide +kernel

/-! ### Hypotheses met: host rings and descriptors -/

/-- Rings 63 at their largest: enabled SQ on CQ 63, its head one behind its tail. -/
def ringL : List (Nat × Word) := [(R.hifCtrl, 1), (R.hifStatus, 1), (R.hifSqCfg 63, 0x803F0010), (R.hifSqTail 63, 0xFFFF), (R.hifSqStatus 63, 0xFFFE),
  (R.hifCqCfg 63, 0xC07F0010), (R.hifCqStatus 63, 0xA0000005), (R.hifCqHead 63, 5), (R.hifCqCoal 63, 0x00020001)]

theorem test_met_rings :
    let s := onR ringL
    let full := onR (ringL ++ [(R.hifCqHead 63, 6)])
    let timed := { s with hif := { s.hif with cq := [(63, ⟨[(false, 7)], 9, none⟩)] }, dt := { Dt.reset with now := 2009 } }
    let again := onR (ringL ++ [(R.hifCqCoal 63, 1)])
    let again := { again with hif := { again.hif with cq := [(63, ⟨[(false, 7)], 9, some 9⟩)] }, dt := { Dt.reset with now := 9 } }
    let hold := fun s : State => ({ s with hif := { s.hif with hold := [⟨63, none, 0, 0, false, 0, [], false⟩] } } : State)
    sqEn s 63 = true ∧ fld (0xFFFF : Word) 15 0 < sqSize s 63 ∧ sqSize onS 63 ≤ fld (0xFFFF : Word) 15 0 ∧ sqEn onS 63 = false ∧ cqEn s 63 = true ∧
    cqIndexOk s 63 5 = true ∧ cqIndexOk s 63 6 = false ∧ cqEn onS 63 = false ∧ cqTimed s 63 = false ∧ cqTimed timed 63 = true ∧
    bit (rd s (R.hifCqCfg 63)) 30 = true ∧ rb s (R.hifCqStatus 63) 29 = true ∧ rb s (R.hifMsixTable (4 * 127 + 3)) 0 = true ∧
    rb (wr s (R.hifMsixTable (4 * 127 + 3)) 0) (R.hifMsixTable (4 * 127 + 3)) 0 = false ∧ hostReach s = true ∧
    (cqTimed again 63 = true ∧ (cqOf again 63).sent = some again.dt.now ∧ (cqOf again 63).doorbell = again.dt.now ∧
      (cqOf timed 63).sent ≠ some timed.dt.now ∧ (∀ r ∈ s.fgs.runs, r.recorded = false)) ∧
    (∀ c ∈ s.hif.hold, c.cq ≠ 63) ∧ (∃ c ∈ (hold s).hif.hold, c.cq = 63) ∧ cqFull full 63 = true ∧ cqFull s 63 = false ∧
    cqEn (hold full) 63 = true ∧ ([63, 0].filter (mayFetch s) = [63] ∧ sqServed s s.hif.fetchTurn [63] = some 63 ∧ [63].filter (mayFetch onS) = []) ∧ poisoned s (hostBase + sqEntry s 63) 64 = false ∧
    rb s (R.hifSqStatus 63) 31 = false ∧ rb (wr onS (R.hifSqStatus 63) 0x80000000) (R.hifSqStatus 63) 31 = true ∧
    ringOk 16 (2 ^ 47 - 2 ^ 22) 64 = true ∧ ringOk 16 (2 ^ 47 - 2 ^ 22 + 64) 64 = false ∧ ringOk 4 0 32 = true ∧ ringOk 3 0 32 = false ∧
    cqNamed s 63 = true ∧ cqNamed s 62 = false ∧ rb (onR [(R.hifPoseCfg, 0x80000004)]) R.hifPoseCfg 31 = true ∧ rb onS R.hifEvtCfg 31 = false ∧
    rb (onR [(R.hifMsixPba 3, 0x80000000)]) (R.hifMsixPba (127 / 32)) (127 % 32) = true ∧ rb onS (R.hifMsixPba 3) 31 = false := by
  decide +kernel

/-- A descriptor 5 of SQ 63 with its bytes at a stage. -/
def descD (b : List Byte) (st : DescStage) : Desc := ⟨5, 63, 63, b, st, false, 0, false, 0, [], 0, false⟩

/-- The state with it, and what it stands on. -/
def descS (d : Desc) (l : List (Nat × Word)) : State :=
  let s := ctxS (ringL ++ l)
  { s with hif := { s.hif with descs := [d], nextDesc := 6 }, dt := { Dt.reset with now := 100 } }

/-- A descriptor header: opcode, gate, semaphore waited for, deadline, flags; it signals semaphore 4095. -/
def descB (op gate wait dl fl : Nat) (l : List (Nat × Nat × Nat)) : List Byte :=
  blk ([(0, 2, op), (2, 1, 15), (3, 1, fl), (8, 8, dl), (16, 2, wait), (18, 2, 4095), (20, 4, 1), (24, 4, 1), (28, 4, gate)] ++ l)

theorem test_met_holds :
    let d := fun gate wait st => descD (descB 0 gate wait 100 4 []) st
    let s := fun d => descS d []
    let free := d 0xFFFFFFFF 0xFFFF .fetched
    let early := { (descD (descB 0 0xFFFFFFFF 0xFFFF 0 0 []) .dispatched) with id := 4 }
    let armed := descS (d 511 4095 .fetched) [(R.sgGateCtrl 511, 1)]
    headDesc (s free) 63 = some free ∧ headDesc (s free) 62 = none ∧ unacked (s free) (.descriptor 5) = false ∧
    ([63, 62].filter (mayDispatch (s free)) = [63] ∧ sqServed (s free) (s free).hif.dispatchTurn [63] = some 63 ∧ [62].filter (mayDispatch (s free)) = []) ∧
    ([DescStage.fenceHold, .gateFired].all fun g => mayDispatch (s (d 511 0xFFFF g)) 63) = true ∧
    mayDispatch (s { d 511 0xFFFF .gateHold with gateLost := true }) 63 = true ∧ mayDispatch (s (d 511 0xFFFF .gateHold)) 63 = false ∧
    (let w := s (d 511 0 .waitHold);
      mayDispatch { w with sem := { w.sem with done := [(.descriptor 5, true)] } } 63 = true) ∧ cqRoom (s free) 63 = true ∧
    (let h := ({ s free with hif := { (s free).hif with hold := List.replicate 512 ⟨63, none, 0, 0, false, 0, [], false⟩ } } : State);
      cqRoom h 63 = false) ∧
    descHeaderBad free = none ∧ descHeaderBad (descD (descB 2 0xFFFFFFFF 0xFFFF 0 0 []) .fetched) = some 0 ∧
    (let f := ({ s free with hif := { (s free).hif with descs := [early, free] } } : State);
      dFlag free 2 = true ∧ fenceBlocked f free = true ∧ fenceBlocked (s free) free = false ∧ headDesc f 63 = some free) ∧
    dGate (d 511 4095 .fetched) = 511 ∧ gateArmed armed 511 = true ∧ gateArmed (s (d 511 4095 .fetched)) 511 = false ∧ dGate free = 0xFFFFFFFF ∧
    dWait free = 0xFFFF ∧ dWait (d 511 4095 .fetched) ≠ 0xFFFF ∧ descHeaderBad (d 511 4095 .fetched) = none ∧
    headDesc (s (d 0xFFFFFFFF 0xFFFF .fenceHold)) 63 = some (d 0xFFFFFFFF 0xFFFF .fenceHold) ∧
    headDesc (s (d 511 0xFFFF .gateHold)) 63 = some (d 511 0xFFFF .gateHold) ∧ headDesc (s (d 511 0xFFFF .gateFired)) 63 = some (d 511 0xFFFF .gateFired) ∧
    headDesc (s (d 511 0 .waitHold)) 63 = some (d 511 0 .waitHold) ∧
    dDeadline free = 100 ∧ 100 ≤ (s free).dt.now.toNat ∧ heldNow (s free) (d 0 0 .fenceHold) = true ∧ heldNow (s free) free = false ∧
    (s free).dt.now.toNat < dDeadline (descD (descB 0 0 0 101 0 []) .fenceHold) := by
  decide +kernel

theorem test_met_completion :
    let x := { descD (descB 0 0xFFFFFFFF 0xFFFF 0 0 []) .ended with status := 0x1F }
    let s := descS x []
    let quiet := { x with status := 0x20 }
    findDesc s x.id = some x ∧ x.stage = .ended ∧ signals x = true ∧ dSignal x < 4096 ∧ signals quiet = false ∧ x.sq < 64 ∧ x.cq < 64 ∧
    ({ x with lost := true } : Desc).lost = true ∧ x.lost = false ∧ cqEn s 63 = true ∧ cqEn onS 63 = false ∧ cqBlocked s 63 = false ∧
    (let b := descS x [(R.hifCqHead 63, 6)];
      cqBlocked b 63 = true ∧ b.hif.hold.length < 512) ∧ hostReach s = true ∧
    hostBase + (rd64 s (R.hifCqBaseLo 63) (R.hifCqBaseHi 63)).toNat + 32 * cqTail s 63 + 32 ≤ hostBase + 0x800000000000 ∧
    512 ≤ (List.replicate 512 (⟨63, none, 0, 0, false, 0, [], false⟩ : Completion)).length ∧ findDesc s 6 = none := by
  decide +kernel

/-- The descriptor of an opcode that has passed its waits, with its operand bytes. -/
def readyD (op : Nat) (l : List (Nat × Nat × Nat)) : Desc := descD (descB op 0xFFFFFFFF 0xFFFF 0 0 l) .waited

theorem test_met_opcodes :
    (∀ o ∈ [0, 1, 0x10, 0x20, 0x21, 0x30, 0x31, 0x40, 0x50, 0x60, 0x70], let x := readyD o []
      handed (descS x []) 5 o = some x ∧ handed onS 5 o = none) ∧
    (let c := fun p v => readyD 1 [(32, 2, p), (40, 8, v)];
      configForm (c 1 1000000) = true ∧ configValue (c 1 1000000) = 1000000 ∧ configValue (c 1 (2 ^ 64 - 1000001)) = -1000001 ∧
      configValue (c 2 10) = 10 ∧ configValue (c 2 1) < 2 ∧ configForm (readyD 1 [(34, 1, 1)]) = false) ∧
    (let s := descS (readyD 0x20 [(32, 1, 63)]) [(R.fgsCtrl, 1)]
      let g := { graphG (gE 4 0xFF 0xFFFF 0xFFFF) 0 with ctx := 15 }
      let r := runG 0 ⟨.idle, 0, 0, 0⟩ .idle none
      let t := { s with fgs := { s.fgs with graphs := [(63, some g)] } }
      ctxLoaded s (dCtx (readyD 0x20 [])) = true ∧ launchTest t 63 15 = .accepted ∧ launchTest s 63 15 ≠ .accepted ∧
      launchTest ({ t with fgs := { t.fgs with runs := [r] } } : State) 63 15 = .overrun ∧ graphOf t 63 ≠ none ∧ graphOf s 63 = none) ∧
    (let x := fun n fire => readyD 0x30 [(32, 2, n), (34, 1, 4), (38, 2, 0), (40, 8, fire)]
      let s := descS (x 511 100) []
      armForm s (x 511 100) = true ∧ armForm s (x 512 100) = false ∧ gateArmed s 511 = false ∧ gateArmed (wr s (R.sgGateCtrl 511) 1) 511 = true ∧
      armTest (writeArm s (x 511 100)) 511 = .armed ∧ armTest (writeArm (descS (x 511 0) [(R.sgLateTol, 99)]) (x 511 0)) 511 = .late ∧
      armTest (writeArm s (readyD 0x30 [(32, 2, 511), (34, 1, 2), (38, 2, 0xFFFF)])) 511 = .badTarget) ∧
    (let q : DueGate := ⟨511, 50, false⟩;
      [q].find? (fun q => q.gate == 511) = some q ∧ rb (onR [(R.sgCtrl, 1)]) R.sgCtrl 0 = true ∧ rb onS R.sgCtrl 0 = false ∧
      dZero (readyD 0x31 [(32, 2, 511)]) 34 30 = true ∧ dZero (readyD 0x31 [(32, 2, 511), (63, 1, 1)]) 34 30 = false ∧
      (let s := descS (readyD 0x31 [(32, 2, 511)]) [(R.sgGateCtrl 511, 1)];
        gateArmed s 511 = true ∧ gateArmed onS 511 = false)) ∧
    (let x := fun m k a => readyD 0x40 [(32, 1, m), (34, 2, k), (40, 8, a)]
      let s := descS (x 0 255 0) []
      dZero (x 0 255 0) 33 1 = true ∧ dZero (x 0 255 0) 36 4 = true ∧ dZero (x 0 255 0) 48 16 = true ∧ rec8 (x 0 255 0).bytes 34 2 = 255 ∧
      rec8 (x 0 256 0).bytes 34 2 = 256 ∧ arrayOk s (slabBase + 0x3000000 - 0x4000) 256 = true ∧ arrayOk s (slabBase + 0x3000000 - 0x4000) 257 = false ∧
      (queueOf s 0x11).length < 8 ∧ joiningAt s 0x11 = [] ∧ unacked s (.descriptor 5) = false ∧ 8 ≤ (List.replicate 8 (vjob 0x11 [] [])).length) ∧
    (let x := readyD 0x50 [];
      (dZero x 37 1 && dZero x 58 6 && ctxLoaded (descS x []) (dCtx x)) = true ∧ dZero (readyD 0x50 [(58, 1, 1)]) 58 6 = false) := by
  decide +kernel

theorem test_met_unload :
    let x := readyD 0x11 []
    let s := descS x []
    let d := { x with stage := .dispatched }
    findDesc s 5 = some x ∧ dOpcode x = 0x11 ∧ x.stage = .waited ∧ cqRoom s x.cq = true ∧ dZero x 32 32 = true ∧
    dZero (readyD 0x11 [(63, 1, 1)]) 32 32 = false ∧ ctxLoaded s (dCtx x) = true ∧ ctxLoaded onS (dCtx x) = false ∧ s.fgs.runs = [] ∧
    (∀ e : Fin 16, ceJob s e.val = none) ∧ ctxBusy s (dCtx x) = false ∧ d.stage = .dispatched ∧
    (let c := ceS (entryB 1) [] (.descriptor 9) none;
      ctxBusy c 15 = true) := by
  decide +kernel

theorem test_met_window :
    let s := onR [(R.hifWinBase, BitVec.ofNat 32 (slabBase / 0x4000000))]
    let sec := wr s R.glbStatus 0x10
    winAddr s 0x2FFFFF8 = slabBase + 0x2FFFFF8 ∧ 0x2FFFFF8 < bar4Size ∧ bar4Size ≤ bar4Size ∧ rb sec R.glbStatus 4 = true ∧ rb s R.glbStatus 4 = false ∧
    inDebugWindow s (winAddr s 0x2FFFFF8) 8 = true ∧ inDebugWindow s (winAddr s 0x2FFFFF9) 8 = false ∧
    slabBase + 0x2FFFFF8 + 8 ≤ slabBase + 0x3000000 ∧ State.reset.up = false ∧ activeAny s 387 = false ∧
    activeAny ({ s with evc := { s.evc with active := [(0, addSet 0 387)] } } : State) 387 = true ∧
    ({ s.aon with perstLow := false } : Aon).perstLow = false := by
  decide +kernel

/-! ### An owner and a signed package (P-384 signatures made outside the model) -/

/-- The base point and its double, as the owner's key 0 and key 1. -/
def key0 : List Byte := beBytes 48 gx384 ++ beBytes 48 gy384
def key1 : List Byte :=
  beBytes 48 0x08d999057ba3d2d969260045c55b97f089025959a6f434d651d207d19fb96e9e4fe0e86ebe0e64f85b96a9c75295df61 ++
  beBytes 48 0x8e80f1fa5b1b3cedb7bfe8dffd6dba74b275d875bc6cc43e904e505f256ab4255ffd43e94d39e22d61501e700a940e80

/-- The owner key record that enables key 1, signed by key 0. -/
def keyRec : List Byte := blkN 416 [(0, 4, 1), (8, 1, 2)] |>.take 16 |>.append (key0 ++ key1 ++ List.replicate 208 0 ++
  beBytes 48 0x077a41d4606ffa1464793c7e5fdc7d98cb9d3910202dcd06bea4f240d3566da6b408bbae5026580d02d7e5c70500c831 ++
  beBytes 48 0x37bad38b800d0a3fd43e58720d79c534e133972ab9a80b42d4f97bc3c1456e64a63d86df9ab0faa7319fffe40afc6b62)

/-- A package of 4,096 bytes whose body is all zeros, signed by key 1. -/
def pkgHead : List Byte := blk [(0, 4, 1), (4, 1, 3), (5, 1, 1), (12, 4, 3584)] |>.take 16 |>.append
  (beBytes 48 0xc340853c6b56b67b30c141d995dad1db18ff6bf716e6d03e1d3452dccb6d301562c2451918780f48c619bb578f608c9e ++ List.replicate 352 0 ++
  beBytes 48 0x11de24a2c251c777573cac5ea025e467f208e51dbff98fc54f6661cbe56583b037882f4a1ca297e60abcdbc3836d84bc ++
  beBytes 48 0x6bd047378c9707614e88d2743ff0adaa25ea20e2fba935837caf2e63c7d5318261783adc84326b0b6738fb5d31927a04)

/-- Bytes at consecutive addresses, but for those equal to what an unlisted one reads as. -/
def placed : Nat → List Byte → Byte → List Host.Cell
  | _, [], _ => []
  | a, b :: l, d => if b = d then placed (a + 1) l d else (a, b) :: placed (a + 1) l d

/-- The boot flash with that record, and the package at the slab's start. -/
def ownedS : State :=
  let s := descS (readyD 0x10 [(32, 8, slabBase), (40, 4, 4096)]) []
  { s with mem := placed slabBase pkgHead 0
           memx := State.reset.memx, sec := { s.sec with ownerSet := false, nor := some ⟨none, none, placed 0x3000 keyRec 0xFF⟩ } }

/-- A byte of memory placed at `a` reads as placed, one beyond as nothing. -/
theorem tabGet_placed (d : Byte) (l : List Byte) : ∀ a i, tabGet d (placed a l d) (a + i) = l.getD i d ∧ ∀ k, k < a → tabGet d (placed a l d) k = d := by
  induction l with
  | nil => intro a i; simp [placed, tabGet]
  | cons b l ih =>
    intro a i
    have h0 := fun k hk => (ih (a + 1) 0).2 k hk
    refine ⟨?_, fun k hk => ?_⟩
    · cases i with
      | zero =>
        by_cases hb : b = d
        · simp [placed, hb, h0]
        · simp [placed, hb, tabGet]
      | succ i =>
        have h := (ih (a + 1) i).1
        rw [show a + 1 + i = a + (i + 1) by omega] at h
        by_cases hb : b = d
        · simpa [placed, hb] using h
        · simpa [placed, hb, tabGet] using h
    · by_cases hb : b = d
      · simpa [placed, hb] using h0 k (by omega)
      · simpa [placed, hb, tabGet, show k ≠ a by omega] using h0 k (by omega)

/-- Bytes read from the slab of a state whose memory holds only what is placed there. -/
theorem ldBytes_placed (s : State) (a : Nat) (l : List Byte) (hm : s.mem = placed a l 0) (hh : s.heldWrites = []) (ha : slabBase ≤ a) :
    ∀ n i, a + i + n ≤ slabBase + 0x3000000 → ldBytes s (a + i) n = (List.range' i n).map (l.getD · 0) := by
  intro n
  induction n with
  | zero => intro i _; rfl
  | succ n ih =>
    intro i hi
    have hb : slabBase = 0x100000000 := rfl
    have hs : semBase = 0x300000000 := rfl
    rw [ldBytes, List.range'_succ, List.map_cons, show a + i + 1 = a + (i + 1) by omega, ih (i + 1) (by omega)]
    congr 1
    rw [ldByte, if_neg (by omega), hh]
    simp only [List.reverse_nil, List.find?_nil]
    rw [physAddr, if_neg (by omega), hm, (tabGet_placed 0 l a i).1]

/-- Past a list's end its default comes. -/
theorem range_getD (l : List Byte) (m : Nat) : (List.range' 0 (l.length + m)).map (l.getD · 0) = l ++ List.replicate m 0 := by
  apply List.ext_getElem
  · simp
  · intro i h1 h2
    simp only [List.length_map, List.length_range'] at h1
    by_cases hi : i < l.length
    · simp [List.getElem_append_left, hi]
    · rw [List.getElem_append_right (by omega)]; simp [hi]

/-- The bytes of the package read back. -/
theorem package_bytes : ldBytes ownedS slabBase 512 = pkgHead ∧ ldBytes ownedS (slabBase + 512) 3584 = List.replicate 3584 0 := by
  have hl : pkgHead.length = 512 := by decide +kernel
  have h1 := ldBytes_placed ownedS slabBase pkgHead rfl rfl (Nat.le_refl _) 512 0 (by decide)
  have h2 := ldBytes_placed ownedS slabBase pkgHead rfl rfl (Nat.le_refl _) 3584 512 (by decide)
  refine ⟨?_, ?_⟩
  · have := range_getD pkgHead 0
    simpa [hl] using h1.trans (by simpa [hl] using this)
  · rw [h2, List.eq_replicate_iff]
    refine ⟨by simp, fun b hb => ?_⟩
    simp only [List.mem_map, List.mem_range'_1] at hb
    obtain ⟨i, hi, rfl⟩ := hb
    simp [List.getD_eq_getElem?_getD, List.getElem?_eq_none (show pkgHead.length ≤ i by omega)]

/-- Bytes of a NOR that holds only what is placed in it, read from within. -/
theorem norBytes_placed (s : State) (d0 d1 : Option NorDir) (a i n : Nat) (l : List Byte) (hn : s.sec.nor = some ⟨d0, d1, placed a l 0xFF⟩)
    (h : i + n ≤ l.length) : norBytes s (a + i) n = some (slice l i n) := by
  rw [norBytes, hn, Option.map_some]
  congr 1
  apply List.ext_getElem
  · simp [slice]; omega
  · intro k h1 h2
    simp only [List.length_map, List.length_range] at h1
    simp only [List.getElem_map, List.getElem_range, slice, List.getElem_take, List.getElem_drop]
    rw [show a + i + k = a + (i + k) by omega, (tabGet_placed 0xFF l a (i + k)).1, List.getD_eq_getElem?_getD,
      List.getElem?_eq_getElem (by omega)]
    rfl

/-- Beyond what is placed the NOR is erased. -/
theorem norBytes_beyond (s : State) (d0 d1 : Option NorDir) (a i n : Nat) (l : List Byte) (hn : s.sec.nor = some ⟨d0, d1, placed a l 0xFF⟩)
    (h : l.length ≤ i) : norBytes s (a + i) n = some (List.replicate n 0xFF) := by
  rw [norBytes, hn, Option.map_some]
  congr 1
  rw [List.eq_replicate_iff]
  refine ⟨by simp, fun b hb => ?_⟩
  simp only [List.mem_map, List.mem_range] at hb
  obtain ⟨k, _, rfl⟩ := hb
  rw [show a + i + k = a + (i + k) by omega, (tabGet_placed 0xFF l a _).1, List.getD_eq_getElem?_getD, List.getElem?_eq_none (by omega)]
  rfl

/-- The key record and, where none is, the version record of that flash. -/
theorem owned_records : norBytes ownedS 0x3000 512 = some keyRec ∧ norBytes ownedS 0x4000 512 = some (List.replicate 512 0xFF) := by
  have h := norBytes_placed ownedS none none 0x3000 0 512 keyRec rfl (by decide +kernel)
  exact ⟨h.trans (congrArg some (by decide +kernel)), norBytes_beyond ownedS none none 0x3000 4096 512 keyRec rfl (by decide +kernel)⟩

/-- Without an owner a key record needs its own signature only. -/
theorem keyRecord_unowned (s : State) (r : List Byte) (h : s.sec.ownerSet = false) (hn : norBytes s 0x3000 512 = some r) :
    keyRecord s = if signedRecord r (recordKey r 0) [(10, 6), (400, 16)] = true then some r else none := by
  simp [keyRecord, hn, h]

/-- The key record is accepted with no owner set, and its key 1 signs. -/
theorem owned_keys : keyRecord ownedS = some keyRec ∧ signingKey ownedS 1 = some key1 ∧ minSvn ownedS = 0 := by
  have hk : keyRecord ownedS = some keyRec := by
    rw [keyRecord, owned_records.1]
    decide +kernel
  have hv : versionRecord ownedS = none := by
    rw [versionRecord, owned_records.2, hk]
    decide +kernel
  refine ⟨hk, ?_, by rw [minSvn, hv]⟩
  rw [signingKey, hk, minRecord, hv]
  decide +kernel

/-- Its signatures and hash are good; told of another size it fails reason 4. -/
theorem test_package_authentic :
    packageReason ownedS 4096 (ldBytes ownedS slabBase 512) (ldBytes ownedS (slabBase + 512) 3584) = none ∧
    packageReason ownedS 4097 (ldBytes ownedS slabBase 512) (ldBytes ownedS (slabBase + 512) 3584) = some 4 := by
  rw [package_bytes.1, package_bytes.2]
  have h1 : imgKey pkgHead = 1 := by decide +kernel
  simp only [packageReason, h1, owned_keys.2.1, owned_keys.2.2]
  decide +kernel

/-- Reading the package meets no error, and leaves memory and counters as they are. -/
theorem package_read : badData ownedS [(slabBase, 4096)] = false ∧ noteReads ownedS [(slabBase, 4096)] = ownedS := by
  have h : badData ownedS [(slabBase, 4096)] = false := by decide +kernel
  refine ⟨h, ?_⟩
  rw [noteReads, if_neg (by simp [badData] at h; simp [h.2]), if_neg (by simp [badData] at h; simp [h.1]), noteReads]
  rfl

theorem test_met_load :
    let x := readyD 0x10 [(32, 8, slabBase), (40, 4, 4096)]
    let c := dCtx x
    let good := fun p => (goodContent c (placePackage ownedS c p)).1
    let room := fun p => (nofit ownedS c p).isNone && decide (p.graphs.length ≤ (freeGraphs ownedS).length)
    handed ownedS 5 0x10 = some x ∧ loadForm ownedS x = true ∧ loadForm ownedS (readyD 0x10 [(32, 8, slabBase), (40, 4, 4095)]) = false ∧
    ctxLoaded ownedS c = false ∧ ctxLoaded onS c = false ∧ unacked ownedS (.descriptor 5) = false ∧ ownedS.safe.switching = none ∧
    ({ ownedS.safe with switching := some (0, 7) } : Safe).switching ≠ none ∧
    badData ({ ownedS with poison := [slabBase + 4088] } : State) [(slabBase, 4096)] = true ∧ good noPackage = true ∧ room noPackage = true ∧
    good { noPackage with solves := [(0, [])] } = false ∧ room { noPackage with slab := 0x301 } = false ∧ good { noPackage with slab := 0x301 } = true := by
  decide +kernel

/-- A version record of number 1, signed by key 0, beside the key record. -/
def verRec : List Byte := blkN 416 [(0, 4, 1), (4, 4, 1)] ++ beBytes 48 0x11de24a2c251c777573cac5ea025e467f208e51dbff98fc54f6661cbe56583b037882f4a1ca297e60abcdbc3836d84bc ++ beBytes 48 0x28485d39e8a950ff372afd8bfd0fe9365360bd00a4b2c57b8eb5976fb1d097cd0262bd2cea088083b3d87fed89237878
def versionS : State := { ownedS with sec := { ownedS.sec with nor := some ⟨none, none, placed 0x3000 (keyRec ++ List.replicate 3584 0 ++ verRec) 0xFF⟩ } }

/-- The version record of number 1 is accepted, and commits. -/
theorem test_met_version_record :
    versionRecord versionS = some verRec ∧ recoveryRuns versionS = false ∧ versionS.sec.fuseVr < rec8 verRec 4 4 ∧ rec8 verRec 4 4 ≤ 64 := by
  have hl : (keyRec ++ List.replicate 3584 0 ++ verRec).length = 4608 := by decide +kernel
  have hn := fun i n h => norBytes_placed versionS none none 0x3000 i n (keyRec ++ List.replicate 3584 0 ++ verRec) rfl h
  have hk : norBytes versionS 0x3000 512 = some keyRec := (hn 0 512 (by omega)).trans (congrArg some (by decide +kernel))
  have hv : norBytes versionS 0x4000 512 = some verRec := (hn 4096 512 (by omega)).trans (congrArg some (by decide +kernel))
  have hr : keyRecord versionS = some keyRec := by
    rw [keyRecord_unowned _ _ rfl hk, ← keyRecord_unowned ownedS _ rfl owned_records.1, owned_keys.1]
  refine ⟨?_, by decide +kernel, by decide +kernel, by decide +kernel⟩
  rw [versionRecord, hv, hr]
  decide +kernel

/-- AUTH opens a session where key 1 signed the latest challenge; whether it did rests on the device's own identity key. -/
theorem test_met_auth (n p : List Byte) (hl : p.length = 97) (hp : rec8 p 0 1 = 1) (hv : ecdsaVerify key1 (n ++ devId) (p.drop 1) = true) :
    p.length = 97 ∧ 1 ≤ rec8 p 0 1 ∧ rec8 p 0 1 ≤ 3 ∧ signingKey ownedS (rec8 p 0 1) = some key1 ∧ ecdsaVerify key1 (n ++ devId) (p.drop 1) = true := by
  rw [hp]
  exact ⟨hl, Nat.le_refl 1, by decide, owned_keys.2.1, hv⟩

/-! ### An index image (R383): one centroid, all zeros but for its header and CRC -/

theorem crcBit_lt {p c : Nat} (hp : p < 2 ^ 32) (hc : c < 2 ^ 32) : crcBit p c < 2 ^ 32 := by
  unfold crcBit
  split
  · exact Nat.xor_lt_two_pow (by omega) hp
  · omega

theorem foldl_lt {α : Type} (f : Nat → α → Nat) (h : ∀ c a, c < 2 ^ 32 → f c a < 2 ^ 32) (l : List α) : ∀ c, c < 2 ^ 32 → l.foldl f c < 2 ^ 32 := by
  induction l with
  | nil => intro c hc; exact hc
  | cons a l ih => intro c hc; exact ih _ (h c a hc)

theorem crc32c_lt (l : List Byte) : crc32c l < 2 ^ 32 := by
  refine Nat.xor_lt_two_pow (foldl_lt _ (fun c b hc => ?_) l _ (by decide)) (by decide)
  exact foldl_lt _ (fun c _ hc => crcBit_lt (by decide) hc) _ _ (Nat.xor_lt_two_pow hc (by have := b.isLt; omega))

/-- The 60 bytes that name one centroid, the whole header, and what follows it. -/
def indexHead : List Byte := blkN 60 [(0, 4, 1)]
def indexBody : List Byte := List.replicate 65792 0
def indexBytes : List Byte := indexHead ++ leBytes 4 (crc32c (indexHead ++ indexBody))

theorem leBytes4 (v : Nat) : (leBytes 4 v).length = 4 ∧ leVal (leBytes 4 v) = v % 2 ^ 32 := by
  refine ⟨rfl, ?_⟩
  simp only [leBytes, leVal, BitVec.toNat_ofNat]
  omega

theorem indexBytes_length : indexBytes.length = 64 := by
  rw [indexBytes, List.length_append, (leBytes4 _).1, show indexHead.length = 60 by decide +kernel]

/-- The store mounted without lists, a DEFINE taken, the image at the slab's start. -/
def defineJ : Job := uJob 0x14 (blk [(0, 1, 5), (16, 8, slabBase)])
def defineS : State := { placeS [defineJ] (fun m => { m with views := [] }) none with mem := placed slabBase indexBytes 0 }

theorem image_bytes : ldBytes defineS slabBase 65856 = indexBytes ++ indexBody := by
  have h := ldBytes_placed defineS slabBase indexBytes rfl rfl (Nat.le_refl _) 65856 0 (by decide)
  have h2 := range_getD indexBytes 65792
  rw [indexBytes_length] at h2
  exact h.trans h2

/-- A field of the image's first 60 bytes is one of the header's. -/
theorem index_field (o n : Nat) (h : o + n ≤ 60) : rec8 (indexBytes ++ indexBody) o n = rec8 indexHead o n := by
  have hh : indexHead.length = 60 := by decide +kernel
  unfold rec8 slice indexBytes
  rw [List.append_assoc, List.drop_append_of_le_length (by omega), List.take_append_of_le_length (by simp; omega)]

/-- The parts of the image check. -/
theorem imageOk_of (s : State) (a c : Nat) (im : List Byte) (hc : ldN s a 4 = c) (him : ldBytes s a (ixSize c) = im)
    (h1 : engineRange s a 64 = true) (h2 : 1 ≤ c ∧ c ≤ 65536) (h3 : engineRange s a (ixSize c) = true) (h4 : rec8 im 4 1 ≤ 4) (h5 : rec8 im 5 1 ≤ 5)
    (h6 : rec8 im 6 54 = 0) (h7 : rec8 im 60 4 = crc32c (im.take 60 ++ im.drop 64)) (h8 : s.mst.side = []) (h9 : s.mst.views = []) :
    imageOk s a = true := by
  unfold imageOk
  simp [hc, him, h1, h3, ixTsh, ixDsh, zeros, h6, h7, h8, h9, h2, h4, h5]

theorem index_count : ldN defineS slabBase 4 = 1 := by
  have hh : indexHead.length = 60 := by decide +kernel
  have h := ldBytes_placed defineS slabBase indexBytes rfl rfl (Nat.le_refl _) 4 0 (by decide)
  rw [ldN, show slabBase = slabBase + 0 from rfl, h, List.map_congr_left (g := fun i => indexHead.getD i 0)]
  · decide +kernel
  · intro i hi
    simp only [List.mem_range'_1] at hi
    simp only [indexBytes, List.getD_eq_getElem?_getD]
    rw [List.getElem?_append_left (by omega)]

/-- A header of 60 bytes, 4 more and the rest, cut apart. -/
theorem cut_parts (h c b : List Byte) (hh : h.length = 60) (hc : c.length = 4) :
    (h ++ c ++ b).take 60 ++ (h ++ c ++ b).drop 64 = h ++ b ∧ slice (h ++ c ++ b) 60 4 = c := by
  constructor
  · rw [List.append_assoc, List.take_append_of_le_length (by omega), List.take_of_length_le (by omega), ← List.append_assoc,
      List.drop_append, List.drop_of_length_le (by rw [List.length_append]; omega), List.length_append, hh, hc, List.nil_append, Nat.sub_self,
      List.drop_zero]
  · rw [slice, List.append_assoc, List.drop_append, List.drop_of_length_le (by omega), hh, List.nil_append, Nat.sub_self, List.drop_zero,
      List.take_append_of_le_length (by omega), List.take_of_length_le (by omega)]

theorem index_crc : rec8 (indexBytes ++ indexBody) 60 4 =
    crc32c ((indexBytes ++ indexBody).take 60 ++ (indexBytes ++ indexBody).drop 64) := by
  have h := cut_parts indexHead (leBytes 4 (crc32c (indexHead ++ indexBody))) indexBody (by decide +kernel) (leBytes4 _).1
  rw [indexBytes, h.1, rec8, h.2, (leBytes4 _).2, Nat.mod_eq_of_lt (crc32c_lt _)]

theorem define_ranges : engineRange defineS slabBase 64 = true ∧ engineRange defineS slabBase (ixSize 1) = true := by decide +kernel

theorem test_met_define_image : imageOk defineS slabBase = true := by
  have h4 := index_field 4 1 (by decide)
  have h5 := index_field 5 1 (by decide)
  have h6 := index_field 6 54 (by decide)
  exact imageOk_of defineS slabBase 1 (indexBytes ++ indexBody) index_count image_bytes define_ranges.1 (by decide) define_ranges.2
    (by rw [h4]; decide +kernel) (by rw [h5]; decide +kernel) (by rw [h6]; decide +kernel) index_crc rfl rfl

theorem test_met_define :
    prsDue defineS 5 defineJ [] ∧ firstBad [(1, zeros defineJ.block 1 15), (16, imageOk defineS (rec8 defineJ.block 16 8)),
      (24, zeros defineJ.block 24 40)] = none ∧ sideClosed defineS = none ∧ badData defineS [(slabBase, 65856)] = false ∧
    abortAsked defineS defineJ.owner = false := by
  refine ⟨⟨by decide +kernel, by decide +kernel, rfl, by decide +kernel, rfl⟩, ?_, by decide +kernel, by decide +kernel, by decide +kernel⟩
  rw [show rec8 defineJ.block 16 8 = slabBase by decide +kernel, test_met_define_image]
  decide +kernel

/-! ### Hypotheses met: faults, power, security, resets -/

/-- The fabric running with both pairs, and a change of what SAFE keeps. -/
def pairUpS (f : Safe → Safe) : State := let s := onR [(R.glbStatus, 5)]; { s with safe := f s.safe }

theorem test_met_pair_faults :
    let t0 : DWord := 0
    let worn := pairUpS fun f => { f with recent := [(instKey (unitOf R.safeCtrl) 1, List.replicate 5 t0)] }
    rb (pairUpS id) R.glbStatus 2 = true ∧ (pairUpS id).safe.switching = none ∧ rb onS R.glbStatus 2 = false ∧
    (pairUpS fun f => { f with switching := some (1, 7) }).safe.switching = some (1, 7) ∧ (1 : Nat) ≤ 1 ∧
    (pairUpS fun f => { f with mirror := some 7 }).safe.mirror.isSome = true ∧ onS.safe.mirror.isSome = false ∧ onS.safe.coreTest = none ∧
    (pairUpS fun f => { f with coreTest := some (1, true) }).safe.coreTest = some (1, true) ∧
    transientExhausted worn (unitOf R.safeCtrl) 1 = true ∧ transientExhausted (pairUpS id) (unitOf R.safeCtrl) 1 = false := by
  decide +kernel

theorem test_met_unit_faults :
    let t0 : DWord := 0
    let worn := fun u => ({ onS with safe := { onS.safe with recent := [(instKey u 0, List.replicate 5 t0)] } } : State)
    (∀ a ∈ [R.tfuCtrl, R.ifcCtrl, R.hifCtrl], transientExhausted (worn (unitOf a)) (unitOf a) 0 = true ∧ transientExhausted onS (unitOf a) 0 = false) ∧
    rb onS R.safeStatus 9 = false ∧ rb (onR [(R.safeStatus, 0x200)]) R.safeStatus 9 = true ∧ onS.safe.katDue = false ∧
    ({ onS.safe with katDue := true } : Safe).katDue = true ∧ true ≠ false ∧ onS.ifc.failed = false ∧
    ({ onS.ifc with failed := true } : Ifc).failed = true := by
  decide +kernel

/-- Schuss unit 7: idle, under test and worn out; an engine running a vision job, a solve and a query. -/
theorem test_met_engines :
    let held := fun c => ({ onS with safe := { onS.safe with engineTest := [c] } } : State)
    let e : Engine := .schuss 7
    engineHeld onS (engineCode e) = false ∧ engineDead onS (engineCode e) = false ∧ engineHeld (held 0x47) (engineCode e) = true ∧
    (let v := vjob 6 [] [];
      visJob (runsJob onS v) (visCode .pje) = some v ∧ engineHeld (runsJob onS v) (engineCode (.vision .pje)) = false) ∧
    (let j := solveJ solveB []
      let v : Solve := ⟨j, 0, none, 0, schedP, 0, ⟨[], [], [], [], [], 5⟩, [], 4, 0, 0, 0, 0, 5, 0, 0, [], 0⟩
      let s := ({ onS with lse := { onS.lse with solve := some v } } : State)
      s.lse.solve = some v ∧ startedAt s 0x13 = [] ∧ engineHeld s 0x13 = false) ∧
    (let r := runP 1 none false [];
      (placeS [] id (some r)).prs.run = some r ∧ jobOp r.job = 1 ∧ engineHeld (placeS [] id (some r)) 0x47 = false) ∧
    transientExhausted (held 0x47) (engineUnit e) (engineInst e) = false ∧
    transientExhausted ({ held 0x47 with safe := { (held 0x47).safe with recent := [(instKey (engineUnit e) (engineInst e), List.replicate 5 0)] } } : State)
      (engineUnit e) (engineInst e) = true := by
  decide +kernel

theorem test_met_rotation :
    let on := fun l => ctxS ((R.safeCtrl, 1) :: l)
    let rot := fun st => (⟨63, 66, 67, 0, st, some 15⟩ : RotStep)
    let s := fun st now => ({ on [] with safe := { onS.safe with rot := [(3, some (rot st))] }, dt := { Dt.reset with now := now } } : State)
    rotOf (on []) 3 = none ∧ (!rb (on []) R.safeCtrl 0 || rb (on []) R.safeStatus 7) = false ∧ (!rb (on [(R.safeCtrl, 0)]) R.safeCtrl 0 || rb onS R.safeStatus 7) = true ∧
    freeTile (on []) 3 = some 67 ∧ freeTile (on [(R.ttStatus 67, 0)]) 3 = none ∧
    nextRotated (on [(R.ttStatus 66, 0xFFFF0001)]) 3 (rf (on []) R.safeRotPos 27 21 % 16) = none ∧
    nextRotated (on [(R.ttStatus 66, 0x3FFF0001)]) 3 15 = some (63, 66) ∧ onS.safe.takeover = none ∧
    (∀ t ∈ (on []).tiles.running, 63 ∉ t.p.tiles) ∧ 63 ∈ (tileT [] []).p.tiles ∧ rotOf (s .waiting 5) 3 = some (rot .waiting) ∧
    (0 : DWord).toNat + 1000 * (rd (s .waiting 5) R.safeRotWait).toNat ≤ 1000 * (rd (s .waiting 5) R.safeRotWait).toNat ∧
    rotOf (s .testing 5) 3 = some (rot .testing) ∧ (rot .testing).old < 68 := by
  decide +kernel

theorem test_met_records :
    let r : BbxRec := ⟨7, 0x0202, 0, [], true⟩
    let s := { onS with bbxQueue := [r] }
    s.bbxQueue = r :: [] ∧ s.bbx.slots ≤ 16384 ∧ 0 < s.bbx.slots ∧ nextSlot s.bbx < s.bbx.slots ∧ r.post = true ∧ s.up = true ∧
    (let t := pairUpS id;
      rb t R.glbStatus 2 = true ∧ activePair t = 0 ∧ t.safe.switching = none ∧ activePair (onR [(R.glbStatus, 7)]) = 1) ∧
    ({ onS.pwr with target := some .glide } : Pwr).target = some .glide := by
  decide +kernel

/-- The glide configuration: camera slot 15 on FDD0, inertial slot 3, all in the slab. -/
def glideS : State :=
  regs visS (tfuL ++ [(R.ingFsCfg 15, 0x9F534000), (R.fddPyrCfg 0 15, 0x20), (R.fddPyrLo 0 15, 0x200000), (R.fddPyrHi 0 15, 1), (R.pwrGlideCfg, 0x30F),
    (R.ifcIsOutLo 3, 0x100000), (R.ifcIsOutHi 3, 1), (R.ifcIsOutcfg 3, 4)])

theorem test_met_power :
    let p := fun (t : Option PState) (st : PState) (s : State) => ({ s with pwr := { s.pwr with target := t, pstate := st } } : State)
    glideOk glideS = true ∧ glideOk onS = false ∧ (p none .run onS).pwr.target = none ∧ PState.hold ≠ (p none .run onS).pwr.pstate ∧
    rb (onR [(R.glbStatus, 0x10)]) R.glbStatus 4 = true ∧ rb onS R.glbStatus 4 = false ∧ (p (some .glide) .run onS).pwr.target = some .glide ∧
    activePair onS = 0 ∧ visJob onS 1 = none ∧ visJob onS 3 = none ∧ visJob (runsJob onS (vjob 3 [] [])) 3 ≠ none ∧ onS.safe.retired = [] ∧
    bit (((0x700 : Word) &&& 0x73F) ||| 0) 8 = true ∧ rb onS R.pwrPark 8 = false ∧ parkInUse visS 8 = true ∧ parkInUse onS 8 = false := by
  decide +kernel

/-- Wakes: HOLD with a latched and an enabled cause, hot and cool, PWR_FAIL_N low and high; the timer. -/
theorem test_met_wakes :
    let a := { State.reset.aon with boot := .hold, wakeEn := 31, wakeTimer := 1, failLow := false }
    let s := { State.reset with aon := a, evc := { Evc.reset with wake := addSet 0 384 } }
    Nat.land (wakeBits s) s.aon.wakeEn = 8 ∧ Nat.land (wakeBits State.reset) 31 = 0 ∧ s.aon.boot = .hold ∧ s.aon.failLow = false ∧
    s.aon.shutdown = false ∧ (let h := { a with shutdown := true, temp := 95 * 16 };
      h.shutdown = true ∧ 95 * 16 ≤ h.temp) ∧ a.wakeEn / 16 % 2 = 1 ∧ a.wakeTimer ≠ 0 ∧
    ({ a with wakeDue := some 8 } : Aon).wakeDue = some 8 ∧ a.wakeDue = none ∧ ({ a with boot := .railDefer } : Aon).boot = .railDefer := by
  decide +kernel

/-- Power at its bounds: samples at the cap and above it, at 48 W and above it; temperatures at the steps. -/
theorem test_met_limits :
    let s := fun (w : List Nat) g l r => ({ onS with pwr := { onS.pwr with window := w, gov := g, limit := l, sinceRaise := r } } : State)
    powerCap onS = 40000 ∧ excess (s (List.replicate 19 40001) 0 false 0) < 1900 ∧ 40001 ≤ 48000 ∧ powerCap onS < 48001 ∧ 48000 < 48001 ∧
    (s [40001] 12 true 0).pwr.limit = true ∧ powerCap onS < (s [40001] 12 true 0).pwr.window.headD 0 ∧
    (let t := s [38999] 1 true 9;
      t.pwr.window.headD 0 + 1000 < powerCap t ∧ meanPower t < powerCap t ∧ 9 ≤ t.pwr.sinceRaise ∧ 0 < t.pwr.gov) ∧
    (s [39000] 1 true 9).pwr.window.headD 0 ≤ powerCap onS ∧ ¬ (s [39000] 1 true 9).pwr.window.headD 0 + 1000 < powerCap onS ∧
    105 * 16 ≤ sext 16 (rf (onR [(R.pwrTj, 105 * 16)]) R.pwrTj 15 0) ∧ sext 16 (rf (onR [(R.pwrTj, 102 * 16 - 1)]) R.pwrTj 15 0) < 102 * 16 ∧
    (onS.pwr.avs = none ∧ ({ onS.pwr with avs := some 650 } : Pwr).avs = some 650 ∧ onS.pwr.gov ≤ 12 ∧ onS.pwr.therm ≤ 12) ∧
    (let l : List Int := List.replicate 15 0 ++ [115 * 16];
      l[15]? = some (115 * 16) ∧ (∀ x ∈ l, x ≤ 115 * 16) ∧ (∀ i : Fin 15, ∀ x ∈ l[i.val]?, x < 115 * 16)) ∧
    coreOn ({ onS with aon := { onS.aon with boot := .ready } } : State) = true ∧ coreOn State.reset = false := by
  decide +kernel

/-- More excess than the bound, by counting. -/
theorem test_met_excess :
    let s := { onS with pwr := { onS.pwr with window := List.replicate 1999 40001 } }
    1900 ≤ excess s ∧ 1999 ≤ (s.pwr.window.filter fun p => decide (powerCap s < p)).length := by
  have h : powerCap { onS with pwr := { onS.pwr with window := List.replicate 1999 40001 } } = 40000 := by decide +kernel
  have hl : (List.replicate 1999 40001).filter (fun p => decide (40000 < p)) = List.replicate 1999 40001 :=
    List.filter_eq_self.2 fun p hp => by rw [List.eq_of_mem_replicate hp]; decide
  have hc : ((List.replicate 1999 40001).filter fun p => decide (40000 < p)).length = 1999 := by
    rw [hl, List.length_replicate]
  simp only [excess, h, hc]
  omega

theorem test_met_security :
    let set := { onS with sec := { onS.sec with ownerSet := true, fuseSvn := 63 } }
    fld (0x3C000000 : Word) 31 24 = 0x3C ∧ onS.sec.ownerSet = false ∧ set.sec.ownerSet = true ∧ rb set R.glbStatus 4 = false ∧
    fld (0x96000003 : Word) 31 24 = 0x96 ∧ bit (0x96000003 : Word) 0 = true ∧ recoveryRuns set = false ∧
    set.sec.fuseSvn < (rd (wr set R.secFwSvn 64) R.secFwSvn).toNat ∧ (rd (wr set R.secFwSvn 64) R.secFwSvn).toNat ≤ 64 ∧
    ¬ (rd (wr set R.secFwSvn 65) R.secFwSvn).toNat ≤ 64 ∧ ¬ set.sec.fuseSvn < (rd (wr set R.secFwSvn 63) R.secFwSvn).toNat := by
  decide +kernel

/-- The Acser port in a start-up state, under the lock or not. -/
def portS (b : Boot) (f : Sec → Sec) : State := { onS with aon := { onS.aon with boot := b, failLow := false }, sec := f onS.sec }

theorem test_met_acser :
    let seq : Byte := 255
    let s := portS .ready id
    let ready := wr s R.glbStatus 1
    portUp s = true ∧ portUp (portS .off id) = false ∧ (256 < 257 ∧ (List.replicate 48 (0 : Byte)).length ≤ 256) ∧ onS.sec.lastRun = false ∧
    (portS .ready fun c => { c with lastRun := true, lastCmd := 11, lastSeq := 255 }).sec.lastSeq = seq.toNat ∧ secure (wr s R.glbStatus 0x10) = true ∧
    s.sec.session = false ∧ rb ready R.glbStatus 0 = true ∧ rb s R.glbStatus 0 = false ∧ s.sec.idOk = false ∧
    (portS .ready fun c => { c with idOk := true, quote := [0] }).sec.quote ≠ [] ∧
    (let p : List Byte := [1, 3, 0, 0, 0xBF, 0x1F, 0, 0];
      rec8 p 1 3 = 3 ∧ rec8 p 4 4 = 8127 ∧ rec8 p 4 4 < s.bbx.slots ∧ p.length = 8 ∧ rec8 p 0 1 % 2 = 1 ∧ s.bbx.pinFirst < s.bbx.slots ∧
      s.bbx.pinned ≤ s.bbx.slots) ∧
    (portS .ready fun c => { c with session := true }).sec.session = true := by
  decide +kernel

theorem test_met_acser_commands :
    let s := portS .ready id
    s.aon.boot ∈ [Boot.rom, .recovery, .training, .trained, .ready, .coreHeld, .failed] ∧ (portS .hold id).aon.boot ∈ [Boot.railDefer, .rails, .hold] ∧
    (portS .railsFailed id).aon.boot = .railsFailed ∧ s.sec.ownerSet = false ∧ s.sec.ownerHash = none ∧ (List.replicate 48 (0 : Byte)).length = 48 ∧
    rec8 ([3] : List Byte) 0 1 = 3 ∧ [BitVec.ofNat 8 (pstateCode .hold)] = [(2 : Byte)] ∧ requestBad s (some .hold) true = none ∧
    requestBad s (some .run) true = some 2 ∧ rec8 ([0xFF, 0x0F, 0, 0, 1, 0, 0, 0] : List Byte) 0 2 = 4095 ∧
    (let p : List Byte := [0, 0, 0, 0, 0, 0, 0x80, 0];
      p.length = 8 ∧ rec8 p 0 1 = 0 ∧ rec8 p 4 4 = slotSize) ∧ toSlab (wr ({ portS .recovery id with straps := 2 } : State) R.glbStrap 2) = true ∧
    (portS .rom fun c => { c with nor := some ⟨none, none, []⟩ }).sec.nor ≠ none ∧
    (let r : Recovery := ⟨slotSize, slotSize - 248, true⟩;
      let p : List Byte := [1, 0, 0, 0] ++ leBytes 4 (slotSize - 248) ++ List.replicate 248 0;
      p.length = 256 ∧ rec8 p 0 1 = 1 ∧ rec8 p 4 4 = r.got ∧ (p.drop 8).length = 248 ∧ r.got + (p.drop 8).length = r.size) ∧
    (let r : Recovery := ⟨2, 2, false⟩;
      (portS .rom fun c => { c with recovery := some r, nor := some ⟨none, none, []⟩ }).sec.recovery = some r ∧ r.got = r.size ∧
      ¬ 512 ≤ ((norBytes (portS .rom fun c => { c with nor := some ⟨none, none, []⟩ }) (slotBase 2) r.size).getD []).length) ∧
    (portS .ready fun c => { c with idOk := true }).sec.idOk = true ∧ onS.sec.challenge = none := by
  decide +kernel

/-- A recovery image is accepted only where the firmware key signed it: what the rule for a valid one needs beyond the frame. -/
theorem test_met_valid_image (img : List Byte) (hl : 512 ≤ img.length) (hv : firmwareValid img 2 onS.sec.fuseSvn = true) :
    512 ≤ img.length ∧ firmwareValid img 2 onS.sec.fuseSvn = true ∧ (portS .recovery id).aon.boot = .recovery := ⟨hl, hv, rfl⟩

theorem test_met_resets :
    (∀ b ∈ [Boot.aonReset, .rails, .coreHeld, .rom, .training, .trained], (portS b id).aon.boot = b ∧ b ≠ .off) ∧
    (portS .coreHeld id).aon.failLow = false ∧ State.reset.bbxQueue.length < 62 ∧ State.reset.pwr.pstate ≠ .hold ∧
    ({ State.reset.pwr with pstate := .hold } : Pwr).pstate = .hold ∧ (portS .rom id).aon.window = false ∧
    chooseImage (portS .rom id) = none ∧ (chooseImage (portS .rom fun c => { c with recovered := some 3 })).isSome = true ∧
    67 < 68 ∧ 67 % 17 = 16 ∧ 66 % 17 ≠ 16 ∧ rb (onR [(R.mstStatus, 0x400)]) R.mstStatus 10 = true := by
  decide +kernel

end Sys2Proof.Tests
end

section
/-! SUPPORT. Access to the register file (R3 to R6, R13, R17): a read or a write of one register as an update of the state, what a
write under the access codes stores, and O10. -/

namespace Sys2Proof.Machine

/-! ### The halves of a bus word -/

@[simp] theorem lo32_setWidth (v : Word) : lo32 (v.setWidth 64) = v := by simp [lo32]

@[simp] theorem hi32_setWidth (v : Word) : hi32 (v.setWidth 64) = 0#32 := by
  apply BitVec.eq_of_toNat_eq
  have h := v.isLt
  simp [hi32, Nat.shiftRight_eq_div_pow]
  omega

@[simp] theorem lo32_shiftLeft (v : DWord) : lo32 (v <<< 32) = 0#32 := by
  apply BitVec.eq_of_getLsbD_eq
  intro i hi
  simp [lo32, hi]

@[simp] theorem hi32_shiftLeft_setWidth (v : Word) : hi32 (v.setWidth 64 <<< 32) = v := by
  apply BitVec.eq_of_getLsbD_eq
  intro i hi
  have h64 : i < 64 := by omega
  have hshift : 32 + i < 64 := by omega
  simp [hi32, hi, h64, hshift]

section
variable {s old : State} {a b : Nat} {r : RegRow} {k v : Word}

/-! ### Bits that hardware sets in the write's own cycle (R4) -/

theorem keepSet_of_row (h : regRow? a = some r) :
    keepSet old s a k = if rd old a &&& k &&& r.w1c = 0 then s else setBits s a (rd old a &&& k &&& r.w1c) := by
  simp [keepSet, h]

@[simp] theorem keepSet_zero : keepSet old s a 0#32 = s := by
  unfold keepSet
  split <;> simp

theorem rd_keepSet_same (h : regRow? a = some r) :
    rd (keepSet old s a k) a = rd s a ||| (rd old a &&& k &&& r.w1c) := by
  rw [keepSet_of_row h]
  split
  case isTrue h0 => simp [h0]
  case isFalse => exact rd_setBits_same s a _

theorem rd_keepSet_other (h : b ≠ a) : rd (keepSet old s a k) b = rd s b := by
  unfold keepSet
  split
  · split
    · rfl
    · exact rd_setBits_other s _ h
  · rfl

theorem keepSet_frame : keepSet old s a k = { s with regs := (keepSet old s a k).regs } := by
  unfold keepSet
  split
  · split
    · rfl
    · exact setBits_frame s a _
  · rfl

/-! ### One register of an access (R13) -/

theorem exec_registerWrite {a : BitVec 24} {acc : RegAccess} (who : Agent) :
    exec (.registerWrite who a acc) s = execRegisterWrite who a acc s := rfl

/-- A read of 4 bytes is one read of a register. -/
theorem exec_read4 {a : BitVec 24} (who : Agent) (hu : s.up = true) :
    exec (.registerWrite who a .read4) s =
      .next { (readReg who s (a.toNat / 4 * 4)).1 with rdata := (readReg who s (a.toNat / 4 * 4)).2.setWidth 64 } := by
  rw [exec_registerWrite, execRegisterWrite, fabric_up s hu]

/-- Byte enables 0x0F write the register at the aligned address alone. -/
theorem exec_writeLo {a : BitVec 24} (who : Agent) (hu : s.up = true) (h8 : a.toNat % 8 = 0) :
    exec (.registerWrite who a (.write 0x0F (v.setWidth 64) (k.setWidth 64))) s =
      .next (keepSet s (writeReg who s a.toNat v) a.toNat k) := by
  have ha : a.toNat / 8 * 8 = a.toNat := by omega
  rw [exec_registerWrite, execRegisterWrite, fabric_up s hu]
  simp [busWrite, beFull, beNone, ha]

/-- Byte enables 0xF0 write the register 4 above the aligned address alone. -/
theorem exec_writeHi {a : BitVec 24} (who : Agent) (hu : s.up = true) (h8 : a.toNat % 8 = 4) :
    exec (.registerWrite who a (.write 0xF0 (v.setWidth 64 <<< 32) (k.setWidth 64 <<< 32))) s =
      .next (keepSet s (writeReg who s a.toNat v) a.toNat k) := by
  have ha : a.toNat / 8 * 8 + 4 = a.toNat := by omega
  rw [exec_registerWrite, execRegisterWrite, fabric_up s hu]
  simp [busWrite, beFull, beNone, ha]

/-! ### Undefined offsets (R14, R17) -/

theorem readReg_undefined (who : Agent) (h : regRow? a = none) (hs : inSemWindow a = false) (hm : inAonMirror a = false) :
    readReg who s a = (glbErr s 0 a, 0) := by
  simp [readReg, h, hs, hm]

/-- R17: the address register takes the offset of the first error and keeps it. -/
theorem rd_glbErr_addr (bitNo off : Nat) :
    rd (glbErr s bitNo off) R.glbErrAddr = if rd s R.glbErr = 0 then BitVec.ofNat 32 off else rd s R.glbErrAddr :=
  rd_errInfo_info s _ _ (by decide)

theorem rd_glbErr_same (bitNo off : Nat) : rd (glbErr s bitNo off) R.glbErr = rd s R.glbErr ||| bitW bitNo :=
  rd_errInfo_same s _ _ (by decide)

theorem rd_glbErr_other (bitNo off : Nat) (h : b ≠ R.glbErr) (h' : b ≠ R.glbErrAddr) : rd (glbErr s bitNo off) b = rd s b :=
  rd_errInfo_other s _ _ h h'

/-! ### What a write under the access codes stores (R3, R5, R6) -/

/-- The value after a write of `v`: the bits in `m` take it, a 1 clears a bit in `w1c`, the others stand. -/
def codedValue (m w1c old v : Word) : Word := ((old &&& ~~~m) ||| (v &&& m)) &&& ~~~(v &&& w1c)

/-- The bits a write may change: RW, and RWL while the lock is open. -/
def writable (s : State) (r : RegRow) : Word := if locked s then r.rw else r.rw ||| r.rwl

theorem plainWrite_of_no_locked_field (h : locked s = false ∨ r.rwl = 0) :
    plainWrite s r a v = wr s a (codedValue (writable s r) r.w1c (rd s a) v) := by
  rcases h with h | h <;> simp [plainWrite, codedValue, writable, h]

theorem plainWrite_of_locked_field (hl : locked s = true) (hr : r.rwl ≠ 0) :
    plainWrite s r a v = glbErr (wr s a (codedValue r.rw r.w1c (rd s a) v)) 2 a := by
  have hr : r.rwl ≠ 0#32 := hr
  simp [plainWrite, codedValue, hl, hr]

/-- A register of GLB, TME or GDR has no rule of its own: its write is one under the access codes. -/
theorem writeReg_of_plain_block (who : Agent) (h : regRow? a = some r) (hb : a / 0x10000 ∈ [0x00, 0x0A, 0x0B, 0x19]) :
    writeReg who s a v = plainWrite s r a v := by
  simp only [List.mem_cons, List.not_mem_nil, or_false] at hb
  have hs : inSemWindow a = false := by simp [inSemWindow]; omega
  have hm : inAonMirror a = false := by simp [inAonMirror]; omega
  have hw : writeBlock who s r a v = plainWrite s r a v := by
    rcases hb with hb | hb | hb | hb <;> simp [writeBlock, hb]
  simp [writeReg, hs, hm, h, hw]

/-- A write of one whole register of those blocks, in either half of its pair, with the bits `k` that hardware sets meanwhile. -/
theorem exec_plainWrite {a : BitVec 24} (who : Agent) (hu : s.up = true) (h4 : a.toNat % 4 = 0) (hr : regRow? a.toNat = some r)
    (hb : a.toNat / 0x10000 ∈ [0x00, 0x0A, 0x0B, 0x19]) :
    exec (if a.toNat % 8 = 0 then Instr.registerWrite who a (.write 0x0F (v.setWidth 64) (k.setWidth 64))
      else .registerWrite who a (.write 0xF0 (v.setWidth 64 <<< 32) (k.setWidth 64 <<< 32))) s =
      .next (keepSet s (plainWrite s r a.toNat v) a.toNat k) := by
  rw [← writeReg_of_plain_block who hr hb]
  split
  case isTrue h8 => exact exec_writeLo who hu h8
  case isFalse h8 => exact exec_writeHi who hu (by omega)

/-- GLB_ERR and its address register hold no lockable field. -/
theorem row_with_rwl_is_not_glbErr (h : regRow? a = some r) (hr : r.rwl ≠ 0) : a ≠ R.glbErr ∧ a ≠ R.glbErrAddr := by
  have hrow : ∀ c ∈ [R.glbErr, R.glbErrAddr], ∀ q ∈ regRow? c, q.rwl = 0 := by decide
  constructor <;> rintro rfl <;> exact hr (hrow _ (by simp) r h)

end

/-! ### O10 -/

theorem write_follows_access_codes : ruleWriteFollowsTheAccessCodes := by
  intro s who a r v k hu h4 hr hb
  refine ⟨fun hopen => ⟨_, exec_plainWrite who hu h4 hr hb, ?_⟩, fun hl hrwl => ⟨_, exec_plainWrite who hu h4 hr hb, ?_⟩⟩
  · rw [plainWrite_of_no_locked_field hopen]
    refine ⟨?_, fun b hne => ?_, keepSet_frame⟩
    · rw [rd_keepSet_same hr, rd_wr_same]
      rfl
    · have hne : b ≠ a.toNat := by simpa using hne
      rw [rd_keepSet_other hne, rd_wr_other s _ hne]
  · obtain ⟨he, hi⟩ := row_with_rwl_is_not_glbErr hr hrwl
    rw [plainWrite_of_locked_field hl hrwl]
    refine ⟨?_, ?_, fun b hne => ?_⟩
    · rw [rd_keepSet_same hr, rd_glbErr_other _ _ he hi, rd_wr_same]
      rfl
    · rw [rd_keepSet_other he.symm, rd_glbErr_same, rd_wr_other s _ he.symm]
      rfl
    · obtain ⟨hne, hbe, hbi⟩ : b ≠ a.toNat ∧ b ≠ R.glbErr ∧ b ≠ R.glbErrAddr := by simpa using hne
      rw [rd_keepSet_other hne, rd_glbErr_other _ _ hbe hbi, rd_wr_other s _ hne]

theorem error_address_holds_first_error : ruleErrorAddressHoldsTheFirstError := by
  intro s who a hu h4 hr hs hm
  have ha : a.toNat / 4 * 4 = a.toNat := by omega
  have hread := exec_read4 (a := a) who hu
  rw [ha, readReg_undefined who hr hs hm] at hread
  have haddr := rd_glbErr_addr (s := s) 0 a.toNat
  refine ⟨fun h0 => ⟨_, hread, ?_⟩, fun h0 => ⟨_, hread, ?_⟩⟩
  · rw [if_pos h0, BitVec.ofNat_toNat] at haddr
    exact haddr
  · exact haddr.trans (if_neg h0)

/-- Settles O10: a write of one register is `plainWrite` of its row with the bits of R4 set again, and an access of an undefined
offset is one `glbErr`. -/
theorem writesFollowTheAccessCodes : Obligations.WritesFollowTheAccessCodes :=
  ⟨write_follows_access_codes, error_address_holds_first_error⟩

end Sys2Proof.Machine
end

section
/-! SUPPORT. The bus access (R13, R14, R18, R40): what one read of a register can do, the reads that capture and those that
return the rest of a capture, and O8, O9 and O11. -/

namespace Sys2Proof.Machine

section
variable {s : State} {a b : Nat} {r : RegRow} {v : DWord}

/-! ### The halves of a bus word -/

@[simp] theorem lo32_join64 (hi lo : Word) : lo32 (join64 hi lo) = lo := by
  apply BitVec.eq_of_getLsbD_eq
  intro i h
  rw [lo32, join64, BitVec.getLsbD_setWidth, BitVec.getLsbD_append]
  simp [h]

@[simp] theorem hi32_join64 (hi lo : Word) : hi32 (join64 hi lo) = hi := by
  apply BitVec.eq_of_getLsbD_eq
  intro i h
  rw [hi32, join64, BitVec.getLsbD_setWidth, BitVec.getLsbD_ushiftRight, BitVec.getLsbD_append]
  simp [h]

/-! ### A read that captures (R18) -/

/-- `t` is `s` after a capture of `v` at the LO register `a`. -/
def HoldsCapture (s : State) (a : Nat) (v : DWord) (t : State) : Prop :=
  tabGet 0 t.cap a = v ∧ t.rdata = (lo32 v).setWidth 64 ∧
    t = { s with cap := t.cap, capFrac := t.capFrac, rdata := t.rdata } ∧ ∀ b, b ≠ a → tabGet 0 t.cap b = tabGet 0 s.cap b

/-- A capture keeps every other capture, whatever fraction is held with it. -/
theorem capture_holdsCapture (w : Tab Word) : HoldsCapture s a v { capture s a v with capFrac := w } :=
  ⟨tabGet_capture s a v, rfl, rfl, fun _ h => tabGet_set_other 0 0 s.cap v h⟩

/-- What DET_POWER_LO_READ leaves: the capture, and the block's other results in their registers (R146). -/
def detCaptured (k : Fin 32) (s : State) : State :=
  let d := detGet s k.val
  wr (wr (wr (wr (capture s (R.ifcDetPowerLo k.val) d.power) (R.ifcDetPhase k.val) (d.phase.setWidth 32))
    (R.ifcDetStartLo k.val) (lo32 d.pstart)) (R.ifcDetStartHi k.val) (hi32 d.pstart)) (R.ifcDetInfo k.val) d.info

theorem execDetPowerLoRead_eq (k : Fin 32) : execDetPowerLoRead k s = fabric s (detCaptured k) := rfl

theorem rd_detCaptured_other (k : Fin 32) (h : b < 0x72000 ∨ 0x73000 ≤ b) : rd (detCaptured k s) b = rd s b := by
  unfold detCaptured
  rw [rd_wr_other _ _ (by simp [R.ifcDetInfo]; omega), rd_wr_other _ _ (by simp [R.ifcDetStartHi]; omega),
    rd_wr_other _ _ (by simp [R.ifcDetStartLo]; omega), rd_wr_other _ _ (by simp [R.ifcDetPhase]; omega), rd_capture]

theorem rd_detCaptured_phase (k : Fin 32) : rd (detCaptured k s) (R.ifcDetPhase k.val) = (detGet s k.val).phase.setWidth 32 := by
  unfold detCaptured
  rw [rd_wr_other _ _ (by simp [R.ifcDetInfo, R.ifcDetPhase]), rd_wr_other _ _ (by simp [R.ifcDetStartHi, R.ifcDetPhase]),
    rd_wr_other _ _ (by simp [R.ifcDetStartLo, R.ifcDetPhase]), rd_wr_same]

theorem rd_detCaptured_info (k : Fin 32) : rd (detCaptured k s) (R.ifcDetInfo k.val) = (detGet s k.val).info := rd_wr_same _ _ _

theorem detCaptured_sameBytes (k : Fin 32) : SameBytes s (detCaptured k s) :=
  sameBytes_of (fun n => rd_detCaptured_other k (.inr (by simp [R.memRedir]; omega))) rfl rfl rfl

/-- What a capturing read may do beside its capture: the same captures whatever was read last, and GLB_ERR left alone. -/
structure CapturesOnly (f : State → State) : Prop where
  cap_of_rdata : ∀ (s : State) (x : DWord), (f { s with rdata := x }).cap = (f s).cap
  glbErr : ∀ s, rd (f s) R.glbErr = rd s R.glbErr

/-- A read that captures in no state, or by one update in every state. -/
def CapturesAlike (g : State → Option Out) : Prop :=
  (∀ s, g s = none) ∨ ∃ f, (∀ s, g s = some (fabric s f)) ∧ CapturesOnly f

theorem CapturesAlike.ite {c : Prop} [Decidable c] {g h : State → Option Out} (hg : CapturesAlike g) (hh : CapturesAlike h) :
    CapturesAlike fun s => if c then g s else h s := by
  by_cases hc : c
  · simpa [hc] using hg
  · simpa [hc] using hh

/-- A command that is one update under the fabric wrapper; of most captures both conditions on the update are plain. -/
theorem CapturesAlike.update {g : State → Out} {f : State → State} (hg : ∀ s, g s = fabric s f)
    (hc : ∀ (s : State) (x : DWord), (f { s with rdata := x }).cap = (f s).cap := by intros; rfl)
    (he : ∀ s, rd (f s) R.glbErr = rd s R.glbErr := by intros; rfl) : CapturesAlike fun s => some (g s) :=
  .inr ⟨f, fun s => congrArg some (hg s), hc, he⟩

/-- Whether a read captures, and how, does not depend on the state: one update for each capturing register, in the order of
`captureRead`. -/
theorem captureRead_alike (r : RegRow) (a : Nat) : CapturesAlike fun s => captureRead s r a :=
  .ite (.update fun _ => rfl) <| .ite (.update fun _ => rfl) <| .ite (.update fun _ => rfl) <|
  .ite (.update fun _ => rfl) <| .ite (.update fun _ => rfl) <| .ite (.update fun _ => rfl) <|
  .ite (.update fun _ => rfl) <|
  .ite (.update (fun _ => execDetPowerLoRead_eq _) (he := fun _ => rd_detCaptured_other _ (.inl (by decide)))) <|
  .ite (.update fun _ => rfl) <| .ite (.update fun _ => rfl) <| .ite (.update fun _ => rfl) <| .inl fun _ => rfl

/-! ### A claim read -/

theorem rd_claimOne (t : Nat) : rd (claimOne s t) b = rd s b := by
  unfold claimOne
  dsimp only
  split
  · rfl
  · split <;> rfl

theorem mostUrgent_of_rdata (x : DWord) : ∀ l, mostUrgent { s with rdata := x } l = mostUrgent s l
  | [] => rfl
  | [_] => rfl
  | n :: m :: l => congrArg (moreUrgent s n) (mostUrgent_of_rdata x (m :: l))

theorem runningGroup_of_rdata (t : Nat) (x : DWord) : runningGroup { s with rdata := x } t = runningGroup s t := by
  have hactive : activeAt { s with rdata := x } t = activeAt s t := rfl
  have hgroup : evcGroup { s with rdata := x } t = evcGroup s t := rfl
  unfold runningGroup
  simp only [hactive, hgroup]

theorem evcPending_of_rdata (n : Nat) (x : DWord) : evcPending { s with rdata := x } n = evcPending s n := by
  unfold evcPending evcLevel
  rfl

theorem evcEligible_of_rdata (t n : Nat) (p : Bool) (g : Option Nat) (x : DWord) :
    evcEligible { s with rdata := x } t n p g = evcEligible s t n p g := by
  unfold evcEligible
  rfl

theorem evcBest_of_rdata (t : Nat) (l : List Nat) (x : DWord) :
    evcBest { s with rdata := x } t l = evcBest s t l := by
  simp only [evcBest, mostUrgent_of_rdata, runningGroup_of_rdata, evcPending_of_rdata, evcEligible_of_rdata]

/-- What a claim finds does not depend on the last answer of a read. -/
theorem claimOne_of_rdata (t : Nat) (x : DWord) : (claimOne { s with rdata := x } t).evc = (claimOne s t).evc := by
  unfold claimOne
  simp only [evcBest_of_rdata, show cycleTaken { s with rdata := x } = cycleTaken s from rfl]
  split
  · rfl
  · split <;> rfl

theorem outState_fabric (f : State → State) : outState (fabric s f) s = if s.up then f s else s := by
  unfold fabric
  split <;> rfl

/-- The state in which the claim of a new cycle is evaluated. -/
def freshCycle (s : State) : State := { s with evc := { s.evc with cycleClaims := [] } }

theorem execEvcClaim_alone (t : Fin 3) : execEvcClaim t false s = fabric s fun s => claimOne (freshCycle s) t.val := by
  simp [execEvcClaim, freshCycle]

/-- The target whose claim register is the reader's own (R100, R105). -/
def ownTarget (who : Agent) (s : State) (t : Nat) : Bool :=
  match who with
  | .host => false
  | .firmware => t == activePair s
  | .aom => t == 2

/-- What a claim read leaves: the claim, where the target is the reader's own. -/
def claimed (s : State) (t : Nat) : State := if s.up then claimOne (freshCycle s) (finOf 3 (by decide) t).val else s

theorem claimRead_eq (who : Agent) (t : Nat) :
    claimRead who s t = if ownTarget who s t then (claimed s t, tabGet 0 (claimed s t).evc.response t) else (s, 0) := by
  have h : claimed s t = outState (execEvcClaim (finOf 3 (by decide) t) false s) s := by
    rw [execEvcClaim_alone, outState_fabric, claimed]
  rw [h]
  rfl

theorem rd_claimRead (who : Agent) (t : Nat) : rd (claimRead who s t).1 b = rd s b := by
  have h : rd (claimed s t) b = rd s b := by
    unfold claimed
    split
    · exact rd_claimOne _
    · rfl
  rw [claimRead_eq]
  split
  · exact h
  · rfl

theorem claimRead_of_rdata (who : Agent) (t : Nat) (x : DWord) :
    (claimRead who { s with rdata := x } t).2 = (claimRead who s t).2 := by
  have hown : ownTarget who { s with rdata := x } t = ownTarget who s t := by cases who <;> rfl
  have hclaimed : (claimed { s with rdata := x } t).evc = (claimed s t).evc := by
    unfold claimed
    split
    · exact claimOne_of_rdata (s := freshCycle s) _ x
    · rfl
  rw [claimRead_eq, claimRead_eq, hown, hclaimed]
  split <;> rfl

/-! ### A read of one register -/

theorem evcView_of_rdata (r : RegRow) (a : Nat) (x : DWord) : evcView { s with rdata := x } r a = evcView s r a := by
  have hlevel : evcLevel { s with rdata := x } = evcLevel s := rfl
  have hpending : evcPending { s with rdata := x } = evcPending s := funext fun n => evcPending_of_rdata n x
  unfold evcView
  dsimp only
  rw [hlevel, hpending, runningGroup_of_rdata, evcBest_of_rdata]
  rfl

theorem viewReg_of_rdata (r : RegRow) (a : Nat) (x : DWord) : viewReg { s with rdata := x } r a = viewReg s r a := by
  unfold viewReg
  rw [evcView_of_rdata]
  rfl

/-- What a read returns does not depend on what the read before it returned. -/
theorem readReg_of_rdata (who : Agent) (a : Nat) (x : DWord) :
    (readReg who { s with rdata := x } a).2 = (readReg who s a).2 := by
  unfold readReg
  split
  · rfl
  split
  · unfold aonRead
    split <;> rfl
  split
  · rfl
  next r _ =>
    rcases captureRead_alike r a with hnone | ⟨f, hf, hcap, _⟩
    · simp only [hnone]
      split
      · exact claimRead_of_rdata who _ x
      · exact viewReg_of_rdata r a x
    · simp only [hf, outState_fabric]
      split
      · rw [hcap]
      · rfl

/-- A read clears no bit of GLB_ERR: it sets UNMAPPED where nothing is defined, and leaves the register alone elsewhere. -/
theorem rb_readReg_glbErr (who : Agent) (a i : Nat) (h : rb s R.glbErr i = true) : rb (readReg who s a).1 R.glbErr i = true := by
  unfold readReg
  split
  · exact h
  split
  · unfold aonRead
    split <;> exact h
  split
  · rw [rb, rd_glbErr_same]
    simpa [rb, bit] using .inl h
  next r _ =>
    rcases captureRead_alike r a with hnone | ⟨f, hf, _, herr⟩
    · simp only [hnone]
      split
      · rwa [rb, rd_claimRead]
      · exact h
    · simp only [hf, outState_fabric]
      split
      · rwa [rb, herr]
      · exact h

/-- A read of a register that neither captures nor claims returns its view and changes nothing. -/
theorem readReg_view (who : Agent) (hr : regRow? a = some r) (hs : inSemWindow a = false) (hm : inAonMirror a = false)
    (hc : captureRead s r a = none) (hclaim : rowIn r [R.evcTClaim 0] = false) : readReg who s a = (s, viewReg s r a) := by
  simp [readReg, hr, hs, hm, hc, hclaim]

/-! ### The whole access (R13) -/

/-- A read of 8 bytes is a read of each register of the pair, the lower first. -/
theorem exec_read8 {a : BitVec 24} (who : Agent) (hu : s.up = true) :
    exec (.registerWrite who a .read8) s =
      let lo := readReg who s (a.toNat / 4 * 4)
      let hi := readReg who lo.1 (a.toNat / 4 * 4 + 4)
      .next { hi.1 with rdata := join64 hi.2 lo.2 } := by
  rw [exec_registerWrite, execRegisterWrite, fabric_up s hu]

/-- A read of 4 bytes of a register that neither captures nor claims answers its view and changes nothing else. -/
theorem runs_read4_view (who : Agent) (hu : s.up = true) (h24 : a < 2 ^ 24) (h4 : a % 4 = 0)
    (hread : readReg who s a = (s, viewReg s r a)) :
    Runs (.registerWrite who (BitVec.ofNat 24 a) .read4) s fun t => t = { s with rdata := (viewReg s r a).setWidth 64 } := by
  have ha : (BitVec.ofNat 24 a).toNat / 4 * 4 = a := by rw [BitVec.toNat_ofNat, Nat.mod_eq_of_lt h24]; omega
  have h := exec_read4 (a := BitVec.ofNat 24 a) who hu
  rw [ha, hread] at h
  exact ⟨_, h, rfl⟩

/-- A read of an upper half answers that of the capture 4 below it. -/
theorem runs_read4_high (who : Agent) (hu : s.up = true) (h24 : a < 2 ^ 24) (h4 : a % 4 = 0)
    (hread : readReg who s a = (s, viewReg s r a)) (hhigh : rowIn r captureHighs = true) :
    Runs (.registerWrite who (BitVec.ofNat 24 a) .read4) s fun t =>
      t = { s with rdata := (hi32 (tabGet 0 s.cap (a - 4))).setWidth 64 } := by
  have h := runs_read4_view who hu h24 h4 hread
  rwa [viewReg, if_pos hhigh] at h

/-- A write in whose cycle hardware sets no bit is the bus write alone. -/
theorem exec_write {a : BitVec 24} {be : BitVec 8} (who : Agent) (hu : s.up = true) :
    exec (.registerWrite who a (.write be v 0)) s = .next (busWrite who s a.toNat be v) := by
  rw [exec_registerWrite, execRegisterWrite, fabric_up s hu]
  simp [lo32, hi32]

/-- R14: a write of an undefined offset is ignored and sets UNMAPPED. -/
theorem writeReg_undefined (who : Agent) {v : Word} (h : regRow? a = none) (hs : inSemWindow a = false)
    (hm : inAonMirror a = false) : writeReg who s a v = glbErr s 0 a := by
  simp [writeReg, h, hs, hm]

theorem busWrite_lo (who : Agent) : busWrite who s a 0x0F v = writeReg who s (a / 8 * 8) (lo32 v) := by
  simp [busWrite, beFull, beNone]

theorem busWrite_hi (who : Agent) : busWrite who s a 0xF0 v = writeReg who s (a / 8 * 8 + 4) (hi32 v) := by
  simp [busWrite, beFull, beNone]

theorem busWrite_both (who : Agent) :
    busWrite who s a 0xFF v = writeReg who (writeReg who s (a / 8 * 8) (lo32 v)) (a / 8 * 8 + 4) (hi32 v) := by
  simp [busWrite, beFull, beNone]

/-- Byte enables of no, or of part of, a register are an error of size. -/
theorem busWrite_partial (who : Agent) {be : BitVec 8} (h0 : be ≠ 0x0F) (h1 : be ≠ 0xF0) (h2 : be ≠ 0xFF) :
    busWrite who s a be v = glbErr s 1 (a / 4 * 4) := by
  have hbe : ∀ be : BitVec 8, be ≠ 0x0F → be ≠ 0xF0 → be ≠ 0xFF →
      ¬(be ≠ 0 ∧ ((beFull be 0 || beNone be 0) && (beFull be 1 || beNone be 1)) = true) := by decide
  exact if_neg (hbe be h0 h1 h2)

/-! ### One error, recorded once or twice -/

/-- No register but GLB_ERR and its address changes. -/
theorem glbErr_sameRegsBut (bitNo off : Nat) : SameRegsBut [R.glbErr, R.glbErrAddr] s (glbErr s bitNo off) := by
  intro b hb
  obtain ⟨he, hi⟩ : b ≠ R.glbErr ∧ b ≠ R.glbErrAddr := by simpa using hb
  exact rd_glbErr_other _ _ he hi

theorem rb_glbErr_same (off : Nat) : rb (glbErr s 0 off) R.glbErr 0 = true := by
  rw [rb, rd_glbErr_same]
  simp [bit, bitW]

theorem rd_glbErr_twice (bitNo off off' : Nat) :
    rd (glbErr (glbErr s bitNo off) bitNo off') R.glbErr = rd s R.glbErr ||| bitW bitNo := by
  rw [rd_glbErr_same, rd_glbErr_same, BitVec.or_assoc, BitVec.or_self]

theorem glbErr_twice_sameRegsBut (bitNo off off' : Nat) :
    SameRegsBut [R.glbErr, R.glbErrAddr] s (glbErr (glbErr s bitNo off) bitNo off') :=
  fun b hb => (glbErr_sameRegsBut bitNo off' b hb).trans (glbErr_sameRegsBut bitNo off b hb)

theorem glbErr_twice_frame (bitNo off off' : Nat) :
    glbErr (glbErr s bitNo off) bitNo off' = { s with regs := (glbErr (glbErr s bitNo off) bitNo off').regs } := by
  rw [glbErr_frame (glbErr s bitNo off), glbErr_frame s]

end

/-! ### O8 -/

/-- Settles O8: an access of an undefined offset is one `glbErr`, one of two such offsets is two, which set the same bit; beside a
defined register the bit stands because no read clears it. -/
theorem undefinedOffsetReadsZero : Obligations.UndefinedOffsetReadsZero := by
  intro s who a v hu undef r w flagged
  have hread {s : State} {x : Nat} (h : undef x) : readReg who s x = (glbErr s 0 x, 0) := by
    obtain ⟨hrow, hsem, haon⟩ := h
    exact readReg_undefined who hrow hsem haon
  have hwrite {s : State} {x : Nat} {v : Word} (h : undef x) : writeReg who s x v = glbErr s 0 x := by
    obtain ⟨hrow, hsem, haon⟩ := h
    exact writeReg_undefined who hrow hsem haon
  have answered {t : State} (x : DWord) (h : flagged t) : flagged { t with rdata := x } := by
    obtain ⟨herr, hregs, hframe⟩ := h
    exact ⟨herr, hregs, congrArg (fun u : State => { u with rdata := x }) hframe⟩
  have once (off : Nat) : flagged (glbErr s 0 off) := ⟨rd_glbErr_same _ _, glbErr_sameRegsBut _ _, by rw [glbErr_frame s]⟩
  have twice (off off' : Nat) : flagged (glbErr (glbErr s 0 off) 0 off') :=
    ⟨rd_glbErr_twice _ _ _, glbErr_twice_sameRegsBut _ _ _, by rw [glbErr_twice_frame]⟩
  refine ⟨fun hr => ⟨_, exec_read4 who hu, ?_⟩, fun hr hr4 => ⟨_, exec_read8 who hu, ?_⟩,
    fun hr => ⟨_, exec_read8 who hu, ?_⟩, fun hr4 => ⟨_, exec_read8 who hu, ?_⟩, fun hw => ⟨_, exec_write who hu, ?_⟩,
    fun hw4 => ⟨_, exec_write who hu, ?_⟩, fun hw hw4 => ⟨_, exec_write who hu, ?_⟩⟩
  · rw [hread hr]
    exact ⟨rfl, answered _ (once _)⟩
  · rw [hread hr, hread hr4]
    exact ⟨(by decide : join64 0 0 = 0), answered _ (twice _ _)⟩
  · rw [hread hr]
    exact ⟨lo32_join64 _ _, rb_readReg_glbErr who _ 0 (rb_glbErr_same _)⟩
  · dsimp only
    rw [hread hr4]
    exact ⟨hi32_join64 _ _, rb_glbErr_same _⟩
  · rw [busWrite_lo, hwrite hw]
    exact ⟨once _, glbErr_rdata _ _ _⟩
  · rw [busWrite_hi, hwrite hw4]
    exact ⟨once _, glbErr_rdata _ _ _⟩
  · rw [busWrite_both, hwrite hw, hwrite hw4]
    exact ⟨twice _ _, by simp⟩

/-! ### O9 -/

/-- A register's own address is aligned. -/
theorem toNat_ofNat_div4 (a : BitVec 24) : (BitVec.ofNat 24 (a.toNat / 4 * 4)).toNat / 4 * 4 = a.toNat / 4 * 4 := by
  rw [BitVec.toNat_ofNat, Nat.mod_eq_of_lt (by omega)]
  omega

/-- The upper register of an aligned pair lies in BAR0 with the lower. -/
theorem toNat_ofNat_add4 {a : BitVec 24} (h : a.toNat % 8 = 0) :
    (BitVec.ofNat 24 (a.toNat + 4)).toNat / 4 * 4 = a.toNat + 4 := by
  rw [BitVec.toNat_ofNat, Nat.mod_eq_of_lt (by omega)]
  omega

/-- Settles O9: both accesses of a pair are `readReg` or `writeReg` of its registers in turn, and what the second read
returns does not depend on the answer of the first. -/
theorem accessesAreOfWholeRegisters : Obligations.AccessesAreOfWholeRegisters := by
  intro s who a be v hu at_
  refine ⟨⟨_, exec_read4 who hu, ?_, ?_⟩, ?_, ?_, ?_⟩
  · simp only [BitVec.toNat_setWidth]
    omega
  · simp only [at_]
    rw [exec_read4 who hu, toNat_ofNat_div4]
  · intro t1 t2 h8 h1 hu1 h2
    have ha : a.toNat / 4 * 4 = a.toNat := by omega
    simp only [at_, BitVec.ofNat_toNat, BitVec.setWidth_eq] at h1 h2
    rw [exec_read4 who hu, ha] at h1
    rw [exec_read4 who hu1, toNat_ofNat_add4 h8] at h2
    obtain rfl := Host.Outcome.next.inj h1
    obtain rfl := Host.Outcome.next.inj h2
    refine ⟨_, exec_read8 who hu, ?_⟩
    simp [ha, readReg_of_rdata]
  · intro t1 h1 hu1
    rw [exec_write who hu, busWrite_lo] at h1
    obtain rfl := Host.Outcome.next.inj h1
    rw [exec_write who hu, exec_write who hu1, busWrite_both, busWrite_hi]
  · intro h0 h1 h2
    refine ⟨_, exec_write who hu, ?_⟩
    rw [busWrite_partial who h0 h1 h2]
    exact ⟨rd_glbErr_same _ _, glbErr_sameRegsBut _ _, glbErr_frame _ _ _⟩

/-! ### O11 -/

theorem low_reads_capture_the_whole_value : ruleLowReadsCaptureTheWholeValue := by
  intro s hu got
  have captured {c : Instr} {a : Nat} {v : DWord} (w : Tab Word)
      (h : exec c s = .next { capture s a v with capFrac := w }) : got c a v := ⟨_, h, capture_holdsCapture w⟩
  have alone {c : Instr} {a : Nat} {v : DWord} (h : exec c s = .next (capture s a v)) : got c a v := captured s.capFrac h
  -- each command is its capture under `fabric`, whose test is that the domain is up
  exact ⟨alone (if_pos hu), captured _ (if_pos hu), ⟨_, if_pos hu, tabGet_set_same _ _ _ _⟩, alone (if_pos hu),
    alone (if_pos hu), fun _ => captured _ (if_pos hu), fun _ => alone (if_pos hu), fun _ => alone (if_pos hu),
    alone (if_pos hu), alone (if_pos hu), fun _ => alone (if_pos hu), fun k => runs_fabric hu (execDetPowerLoRead_eq k)
      ⟨tabGet_capture s _ _, rfl, rd_detCaptured_phase k, rd_detCaptured_info k, detCaptured_sameBytes k⟩⟩

theorem high_reads_return_the_last_capture : ruleHighReadsReturnTheLastCapture := by
  intro s who hu
  constructor
  · intro a ha
    simp only [List.mem_cons, List.not_mem_nil, or_false] at ha
    rcases ha with rfl | rfl | rfl | rfl | rfl | rfl <;>
      exact runs_read4_high who hu (by decide) rfl (readReg_view who rfl rfl rfl rfl rfl) rfl
  · exact runs_read4_view (a := R.dtNowFrac) who hu (by decide) rfl (readReg_view who rfl rfl rfl rfl rfl)

/-- Settles O11: each LO read is one `capture`, and the register above it is a view of what was captured. -/
theorem pairedReadsReturnOneValue : Obligations.PairedReadsReturnOneValue :=
  ⟨low_reads_capture_the_whole_value, high_reads_return_the_last_capture⟩

end Sys2Proof.Machine
end

section
/-! SUPPORT. A clock edge of device time (R35, R39; O2) and the state after reset (O7). -/

namespace Sys2Proof.Machine
variable {s : State} {a b : Nat}

/-! ### A clock edge (R35, R39) -/

/-- The release of one channel held by a retrain. -/
def releaseChannel (s : State) (k : Nat) : State :=
  when (rb s (R.gdrChStatus k) 1) (fun s => clrBits s (R.gdrChStatus k) 2) s

theorem heldOver_eq : heldOver s = (List.range 16).foldl releaseChannel s := rfl

theorem rd_releaseChannel_other {k : Nat} (h : a ≠ R.gdrChStatus k) : rd (releaseChannel s k) a = rd s a := by
  unfold releaseChannel when
  split
  · exact rd_clrBits_other s _ h
  · rfl

theorem rb_releaseChannel_same {k : Nat} : rb (releaseChannel s k) (R.gdrChStatus k) 1 = false := by
  unfold releaseChannel when
  split
  case isTrue => simp [rb, bit]
  case isFalse h => simpa using h

theorem releaseChannel_frame (k : Nat) : releaseChannel s k = { s with regs := (releaseChannel s k).regs } := by
  unfold releaseChannel when
  split <;> rfl

theorem rd_releaseChannels_other (l : List Nat) (h : a ∉ l.map R.gdrChStatus) : rd (l.foldl releaseChannel s) a = rd s a := by
  induction l generalizing s with
  | nil => rfl
  | cons k l ih =>
    obtain ⟨hk, hl⟩ : a ≠ R.gdrChStatus k ∧ a ∉ l.map R.gdrChStatus := by simpa using h
    rw [List.foldl_cons, ih hl, rd_releaseChannel_other hk]

theorem rb_releaseChannels (l : List Nat) {k : Nat} (h : k ∈ l ∨ rb s (R.gdrChStatus k) 1 = false) :
    rb (l.foldl releaseChannel s) (R.gdrChStatus k) 1 = false := by
  induction l generalizing s with
  | nil => simpa using h
  | cons j l ih =>
    rw [List.foldl_cons]
    by_cases hj : k = j
    · subst hj
      exact ih (.inr rb_releaseChannel_same)
    · have hne : R.gdrChStatus k ≠ R.gdrChStatus j := by simpa using hj
      refine ih (h.imp (fun h => (List.mem_cons.mp h).resolve_left hj) fun h => ?_)
      rw [rb, rd_releaseChannel_other hne]
      exact h

theorem releaseChannels_frame (l : List Nat) : ∃ r, l.foldl releaseChannel s = { s with regs := r } := by
  induction l generalizing s with
  | nil => exact ⟨s.regs, rfl⟩
  | cons k l ih =>
    obtain ⟨r, hr⟩ := ih (s := releaseChannel s k)
    exact ⟨r, by rw [List.foldl_cons, hr, releaseChannel_frame]⟩

theorem upsetTick_frame : ∃ p f e, upsetTick s = { s with fresh := s.fresh + 1, poison := p, flips := f, edc := e } := by
  unfold upsetTick
  dsimp only
  (repeat' split) <;> exact ⟨_, _, _, rfl⟩

/-- One edge adds whole nanoseconds and trim to DT and its fraction as one sum. -/
theorem dt96_add (now : DWord) (frac : Word) (n r : Int) :
    ((now + BitVec.ofInt 64 (n + (frac.toNat + r) / 2 ^ 32)) ++ BitVec.ofInt 32 (frac.toNat + r) : BitVec 96) =
      (now ++ frac : BitVec 96) + BitVec.ofInt 96 (n * 2 ^ 32 + r) := by
  have hnow := now.isLt
  have hfrac := frac.isLt
  apply BitVec.eq_of_toNat_eq
  simp only [BitVec.toNat_append, BitVec.toNat_add, BitVec.toNat_ofInt, Nat.shiftLeft_eq]
  rw [← Nat.shiftLeft_eq, ← Nat.shiftLeft_eq, ← Nat.shiftLeft_add_eq_or_of_lt hfrac, ← Nat.shiftLeft_add_eq_or_of_lt (by omega)]
  simp only [Nat.shiftLeft_eq]
  push_cast
  omega

theorem dt96_dtTick_up (hu : s.up = true) :
    dt96 (dtTick s) = dt96 s + BitVec.ofInt 96 (4 * 2 ^ 32 + 4 * (rd s R.dtRate).toInt) := by
  simp only [dt96, dtTick, hu, if_true]
  exact dt96_add _ _ _ _

theorem dt96_dtTick_held (hu : s.up = false) :
    dt96 (dtTick s) = dt96 s + BitVec.ofInt 96 (40 * 2 ^ 32 + 40 * (rd s R.dtFreq).toInt) := by
  simp only [dt96, dtTick, hu, dtFreq, Bool.false_eq_true, if_false]
  exact dt96_add _ _ _ _

theorem step_idle (h : s.pending = []) : step s = .next (idleTick s) := by
  unfold step
  rw [h]

/-- What the environment does to memory at an edge, and the release of held channels, reach no more than this. -/
theorem heldOver_upsetTick_frame : ∃ r p f e,
    heldOver (upsetTick s) = { s with regs := r, fresh := s.fresh + 1, poison := p, flips := f, edc := e } := by
  obtain ⟨p, f, e, hu⟩ := upsetTick_frame (s := s)
  obtain ⟨r, hr⟩ := releaseChannels_frame (s := upsetTick s) (List.range 16)
  exact ⟨r, p, f, e, by rw [heldOver_eq, hr, hu]⟩

theorem idleTick_up (hu : s.up = true) (hc : s.dt.commit = none) : idleTick s = dtTick (heldOver (upsetTick s)) := by
  obtain ⟨r, p, f, e, h⟩ := heldOver_upsetTick_frame (s := s)
  have hup : (heldOver (upsetTick s)).up = true := by rw [h]; exact hu
  have hcommit : (heldOver (upsetTick s)).dt.commit = none := by rw [h]; exact hc
  simp [idleTick, when, clockRuns, hu, hup, hcommit]

theorem idleTick_held (hu : s.up = false) (hc : s.dt.commit = none) : idleTick s = when (clockRuns s) dtTick s := by
  simp [idleTick, when, hu, hc]

/-- Settles O2: the tick is `dtTick` after errors of memory and the release of held channels, neither of which touches DT. -/
theorem idleStepAdvancesDeviceTime : Obligations.IdleStepAdvancesDeviceTime := by
  intro s hp hc
  rw [step_idle hp]
  refine ⟨fun hu => ⟨_, rfl, ?_⟩, fun hu hr => ⟨_, rfl, ?_⟩, fun hr => ?_⟩
  · obtain ⟨r, p, f, e, h⟩ := heldOver_upsetTick_frame (s := s)
    have hrd : SameRegsBut ((List.range 16).map R.gdrChStatus) s (heldOver (upsetTick s)) := by
      intro a ha
      obtain ⟨p, f, e, hf⟩ := upsetTick_frame (s := s)
      rw [heldOver_eq, rd_releaseChannels_other _ ha, hf]
      rfl
    have hheld : ∀ k : Fin 16, rb (heldOver (upsetTick s)) (R.gdrChStatus k.val) 1 = false := fun k =>
      rb_releaseChannels _ (.inl (List.mem_range.mpr k.isLt))
    rw [idleTick_up hu hc]
    refine ⟨?_, hrd, hheld, ?_⟩
    · rw [dt96_dtTick_up (by rw [h]; exact hu), hrd _ (by decide), h]
      rfl
    · rw [h]
      rfl
  · rw [idleTick_held hu hc, when, if_pos hr]
    exact ⟨dt96_dtTick_held hu, rfl⟩
  · have hu : s.up = false := by
      by_contra h
      simp [clockRuns, h] at hr
    rw [idleTick_held hu hc, when, if_neg (by simp [hr])]

/-! ### The state after reset -/
/-- Settles O7: each part of the invariant and each value is that of the literal reset state. -/
theorem resetMeetsTheInvariant : Obligations.ResetMeetsTheInvariant := by
  constructor
  · refine ⟨rfl, rfl, rfl, rfl, rfl, ?_, ?_, ?_, ?_⟩ <;> decide
  · refine ⟨rfl, rfl, rfl, rfl, fun _ => rfl, fun _ => rfl, rfl, rfl, rfl, fun _ => rfl, ?_, ?_, ?_, ?_, ?_, ?_, ?_⟩ <;> decide
end Sys2Proof.Machine
end

section
/-! SUPPORT. What an offset that the servo accepts does to the estimate, the trim and the lock (R47). -/

namespace Sys2Proof.Machine
section
variable {s : State}

/-! ### What changes registers alone -/

/-- `t` is `s` but for its register file. -/
def OnlyRegs (s t : State) : Prop := ∃ r, t = { s with regs := r }

section
variable {t : State}

theorem OnlyRegs.refl : OnlyRegs s s := ⟨s.regs, rfl⟩

theorem OnlyRegs.wr (h : OnlyRegs s t) (a : Nat) (v : Word) : OnlyRegs s (wr t a v) := by
  obtain ⟨r, rfl⟩ := h
  exact ⟨_, rfl⟩

theorem OnlyRegs.setBits (h : OnlyRegs s t) (a : Nat) (m : Word) : OnlyRegs s (setBits t a m) := h.wr a _

theorem OnlyRegs.when {c : Bool} {f : State → State} (h : OnlyRegs s t) (hf : OnlyRegs s t → OnlyRegs s (f t)) :
    OnlyRegs s (when c f t) := by
  unfold Machine.when
  split
  · exact hf h
  · exact h

end

/-! ### Shared operations on the registers of device time -/

theorem rd_setRate_same (r : Int) : rd (setRate s r) R.dtRate = BitVec.ofInt 32 r := rd_wr_same _ _ _

theorem rd_setRate_other {a : Nat} (r : Int) (h : a ≠ R.dtRate) : rd (setRate s r) a = rd s a := rd_wr_other _ _ h

theorem rd_dtEvent_same (b : Nat) : rd (dtEvent s b) R.dtEvent = rd s R.dtEvent ||| bitW b := rd_setBits_same _ _ _

theorem rd_dtEvent_other {a : Nat} (b : Nat) (h : a ≠ R.dtEvent) : rd (dtEvent s b) a = rd s a := rd_setBits_other _ _ h

@[simp] theorem ofInt_dtFreq : BitVec.ofInt 32 (dtFreq s) = rd s R.dtFreq := BitVec.ofInt_toInt

/-! ### An accepted offset (the last part of the pseudocode of R47) -/

/-- The estimate and the trim that an accepted offset leaves. -/
def trimmed (s : State) (o : Int) (t : Nat) : State :=
  let e := divRne (o * 2 ^ 32) t
  let freq := max (-214748) (min 214748 (dtFreq s - e / 2 ^ rf s R.dtCtrl 11 8))
  let slew := max (-858993) (min 858993 (-(e / 2 ^ rf s R.dtCtrl 7 4)))
  setRate (wr s R.dtFreq (BitVec.ofInt 32 freq)) (freq + slew)

/-- Whether an offset lies within DT_LOCK_THR. -/
def near (s : State) (o : Int) : Prop := o.natAbs ≤ (rd s R.dtLockThr).toNat

/-- The counts and the state of the servo replaced. -/
def withServo (s : State) (lock unlock : Nat) (v : Servo) : State :=
  { s with dt := { s.dt with lock := lock, unlock := unlock, servo := v } }

theorem abs_le_of_near {o : Int} (hn : near s o) : |o| ≤ (rd s R.dtLockThr).toNat := by
  rw [Int.abs_eq_natAbs]
  exact Int.ofNat_le.mpr hn

theorem lt_abs_of_not_near {o : Int} (hn : ¬ near s o) : ((rd s R.dtLockThr).toNat : Int) < |o| := by
  rw [Int.abs_eq_natAbs]
  exact Int.ofNat_lt.mpr (not_le.mp hn)

theorem servoApply_enters {o : Int} (t : Nat) (hs : s.dt.servo = .acquire) (hn : near s o) (hl : 7 ≤ s.dt.lock) :
    servoApply s o t = withServo (dtEvent (trimmed s o t) 0) (s.dt.lock + 1) 0 .locked := by
  have h8 : 8 ≤ s.dt.lock + 1 := by omega
  simp [-Int.reducePow, servoApply, when, hs, abs_le_of_near hn, not_lt.mpr (abs_le_of_near hn), h8]
  rfl

theorem servoApply_waits {o : Int} (t : Nat) (hs : s.dt.servo = .acquire) (hn : near s o) (hl : s.dt.lock < 7) :
    servoApply s o t = withServo (trimmed s o t) (s.dt.lock + 1) s.dt.unlock .acquire := by
  have h8 : ¬ 8 ≤ s.dt.lock + 1 := by omega
  simp [-Int.reducePow, servoApply, when, hs, abs_le_of_near hn, h8]
  rw [withServo, ← hs]
  rfl

theorem servoApply_misses {o : Int} (t : Nat) (hs : s.dt.servo = .acquire) (hn : ¬ near s o) :
    servoApply s o t = withServo (trimmed s o t) 0 s.dt.unlock .acquire := by
  simp [-Int.reducePow, servoApply, when, hs, not_le.mpr (lt_abs_of_not_near hn)]
  rw [withServo, ← hs]
  rfl

theorem servoApply_holds {o : Int} (t : Nat) (hs : s.dt.servo = .locked) (hn : near s o) :
    servoApply s o t = withServo (trimmed s o t) (s.dt.lock + 1) 0 .locked := by
  simp [-Int.reducePow, servoApply, when, hs, abs_le_of_near hn, not_lt.mpr (abs_le_of_near hn)]
  rfl

theorem servoApply_strays {o : Int} (t : Nat) (hs : s.dt.servo = .locked) (hn : ¬ near s o) (hu : s.dt.unlock < 7) :
    servoApply s o t = withServo (trimmed s o t) 0 (s.dt.unlock + 1) .locked := by
  have h8 : ¬ 8 ≤ s.dt.unlock + 1 := by omega
  simp [-Int.reducePow, servoApply, when, hs, lt_abs_of_not_near hn, not_le.mpr (lt_abs_of_not_near hn), h8]
  rfl

theorem servoApply_drops {o : Int} (t : Nat) (hs : s.dt.servo = .locked) (hn : ¬ near s o) (hu : 7 ≤ s.dt.unlock) :
    servoApply s o t = withServo (trimmed s o t) 0 (s.dt.unlock + 1) .acquire := by
  have h8 : 8 ≤ s.dt.unlock + 1 := by omega
  simp [-Int.reducePow, servoApply, when, hs, lt_abs_of_not_near hn, not_le.mpr (lt_abs_of_not_near hn), h8]
  rfl

/-! ### A measured offset -/

/-- The measurement is recorded. -/
def noted (s : State) (o : Int) (t : Nat) : State :=
  { s with dt := { s.dt with offset := o, offsetAt := some s.dt.now, interval := t, lossFrom := s.dt.now } }

/-- The measurement of the last whole Sync is taken. -/
def taken (s : State) : State := { s with ptp := { s.ptp with msOffset := none } }

theorem exec_servoOffset {raw : Int} {t : Nat} (h : offered s raw t) :
    exec .servoOffset s = .next (measured (taken s) (raw - s.ptp.asym) t) := by
  obtain ⟨hu, hsel, ho, m, hm, -, -, rfl⟩ := h
  show execServoOffset s = _
  simp [execServoOffset, fabric_up s hu, hsel, ho, hm, taken]

theorem measured_follows {o : Int} (t : Nat) (h : s.dt.servo ≠ .holdover) : measured s o t = servoOn (noted s o t) o t := by
  simp [measured, h, noted]

theorem servoOn_accepts {o : Int} (t : Nat) (hs : s.dt.servo = .acquire ∨ s.dt.servo = .locked)
    (hj : o.natAbs ≤ (rd s R.dtJumpMax).toNat) : servoOn s o t = servoApply s o t := by
  rcases hs with hs | hs <;> simp only [servoOn, hs, if_neg (not_lt.mpr hj)]

theorem servoOn_refuses {o : Int} (t : Nat) (hs : s.dt.servo = .acquire ∨ s.dt.servo = .locked)
    (hj : (rd s R.dtJumpMax).toNat < o.natAbs) : servoOn s o t = servoRefuse s o := by
  rcases hs with hs | hs <;> simp only [servoOn, hs, if_pos hj]

/-- The qualification count replaced. -/
def withQual (s : State) (n : Nat) : State := { s with dt := { s.dt with qual := n } }

theorem servoOn_qualify_far {o : Int} (t : Nat) (hs : s.dt.servo = .qualify ∨ s.dt.servo = .refusing)
    (hj : (rd s R.dtJumpMax).toNat < o.natAbs) :
    servoOn s o t = setRate (bump (withQual s 0) R.dtRefuseCnt) (dtFreq s) := by
  rcases hs with hs | hs <;> simp [servoOn, hs, not_le.mpr hj, hj, when, withQual]

theorem servoOn_qualify_counts {o : Int} (t : Nat) (hs : s.dt.servo = .qualify ∨ s.dt.servo = .refusing)
    (hj : o.natAbs ≤ (rd s R.dtJumpMax).toNat) (hq : s.dt.qual < 7) :
    servoOn s o t = setRate (withQual s (s.dt.qual + 1)) (dtFreq s) := by
  have h8 : s.dt.qual + 1 < 8 := by omega
  rcases hs with hs | hs <;> simp [servoOn, hs, not_lt.mpr hj, hj, when, h8, withQual]

/-- The eighth offset in a row ends the wait: QUALIFIED, its record, and the servo in ACQUIRE. -/
def qualified (s : State) (n : Nat) : State :=
  bbx (dtEvent { s with dt := { s.dt with qual := n, servo := .acquire } } 6) 0x0102 0x01 [] true

theorem servoOn_qualify_ends {o : Int} (t : Nat) (hs : s.dt.servo = .qualify ∨ s.dt.servo = .refusing)
    (hj : o.natAbs ≤ (rd s R.dtJumpMax).toNat) (hq : 7 ≤ s.dt.qual) :
    servoOn s o t = servoApply (qualified s (s.dt.qual + 1)) o t := by
  have h8 : ¬ s.dt.qual + 1 < 8 := by omega
  rcases hs with hs | hs <;> simp [servoOn, hs, hj, h8, qualified]

theorem trimmed_frame (o : Int) (t : Nat) : trimmed s o t = { s with regs := (trimmed s o t).regs } := rfl

theorem rd_trimmed_other {a : Nat} (o : Int) (t : Nat) (h1 : a ≠ R.dtFreq) (h2 : a ≠ R.dtRate) :
    rd (trimmed s o t) a = rd s a := by
  rw [trimmed, rd_setRate_other _ h2, rd_wr_other _ _ h1]

@[simp] theorem rd_withServo (l n a : Nat) (v : Servo) : rd (withServo s l n v) a = rd s a := rfl

@[simp] theorem rd_noted (o : Int) (t a : Nat) : rd (noted s o t) a = rd s a := rfl

@[simp] theorem rd_taken (a : Nat) : rd (taken s) a = rd s a := rfl

/-- An accepted offset leaves the estimate and the trim, LOCKED_EV at most, the two counts and the state of the servo. -/
theorem servoApply_shape (o : Int) (t : Nat) : ∃ e l n v,
    servoApply s o t = withServo (when e (fun s => dtEvent s 0) (trimmed s o t)) l n v := ⟨_, _, _, _, rfl⟩

theorem rd_servoApply_not_event {a : Nat} (o : Int) (t : Nat) (h : a ≠ R.dtEvent) :
    rd (servoApply s o t) a = rd (trimmed s o t) a := by
  obtain ⟨e, l, n, v, hu⟩ := servoApply_shape (s := s) o t
  rw [hu, rd_withServo, when]
  split
  · exact rd_dtEvent_other 0 h
  · rfl

theorem rd_servoApply_freq (o : Int) (t : Nat) : rd (servoApply s o t) R.dtFreq =
    BitVec.ofInt 32 (max (-214748) (min 214748 ((rd s R.dtFreq).toInt - divRne (o * 2 ^ 32) t / 2 ^ rf s R.dtCtrl 11 8))) := by
  rw [rd_servoApply_not_event o t (by decide), trimmed, rd_setRate_other _ (by decide), rd_wr_same]
  rfl

theorem rd_servoApply_rate (o : Int) (t : Nat) : rd (servoApply s o t) R.dtRate =
    BitVec.ofInt 32 (max (-214748) (min 214748 ((rd s R.dtFreq).toInt - divRne (o * 2 ^ 32) t / 2 ^ rf s R.dtCtrl 11 8)) +
      max (-858993) (min 858993 (-(divRne (o * 2 ^ 32) t / 2 ^ rf s R.dtCtrl 7 4)))) := by
  rw [rd_servoApply_not_event o t (by decide), trimmed, rd_setRate_same]
  rfl

theorem servoApply_sameRegsBut (o : Int) (t : Nat) : SameRegsBut [R.dtFreq, R.dtRate, R.dtEvent] s (servoApply s o t) := by
  intro a ha
  simp only [List.mem_cons, List.not_mem_nil, or_false, not_or] at ha
  obtain ⟨h1, h2, h3⟩ := ha
  rw [rd_servoApply_not_event o t h3, rd_trimmed_other o t h1 h2]

theorem servoApply_frame (o : Int) (t : Nat) : ∃ r l n v, servoApply s o t =
    { s with regs := r, dt := { s.dt with lock := l, unlock := n, servo := v } } := by
  obtain ⟨e, l, n, v, hu⟩ := servoApply_shape (s := s) o t
  obtain ⟨r, hr⟩ : OnlyRegs s (when e (fun s => dtEvent s 0) (trimmed s o t)) :=
    ((OnlyRegs.refl.wr _ _).wr _ _).when fun h => h.setBits _ _
  rw [hu, hr]
  exact ⟨r, l, n, v, rfl⟩

theorem servoApply_now (o : Int) (t : Nat) : (servoApply s o t).dt.now = s.dt.now := by
  obtain ⟨r, l, n, v, h⟩ := servoApply_frame (s := s) o t
  rw [h]

theorem servoApply_frac (o : Int) (t : Nat) : (servoApply s o t).dt.frac = s.dt.frac := by
  obtain ⟨r, l, n, v, h⟩ := servoApply_frame (s := s) o t
  rw [h]

theorem servoApply_qual (o : Int) (t : Nat) : (servoApply s o t).dt.qual = s.dt.qual := by
  obtain ⟨r, l, n, v, h⟩ := servoApply_frame (s := s) o t
  rw [h]

theorem rd_trimmed_event (o : Int) (t : Nat) : rd (trimmed s o t) R.dtEvent = rd s R.dtEvent :=
  rd_trimmed_other o t (by decide) (by decide)

theorem servoApply_lock_near {o : Int} (t : Nat) (hs : s.dt.servo = .acquire ∨ s.dt.servo = .locked) (hn : near s o) :
    (servoApply s o t).dt.lock = s.dt.lock + 1 := by
  rcases hs with hs | hs
  · rcases Nat.lt_or_ge s.dt.lock 7 with hl | hl
    · rw [servoApply_waits t hs hn hl]; rfl
    · rw [servoApply_enters t hs hn hl]; rfl
  · rw [servoApply_holds t hs hn]; rfl

theorem servoApply_lock_far {o : Int} (t : Nat) (hs : s.dt.servo = .acquire ∨ s.dt.servo = .locked) (hn : ¬ near s o) :
    (servoApply s o t).dt.lock = 0 := by
  rcases hs with hs | hs
  · rw [servoApply_misses t hs hn]; rfl
  · rcases Nat.lt_or_ge s.dt.unlock 7 with hl | hl
    · rw [servoApply_strays t hs hn hl]; rfl
    · rw [servoApply_drops t hs hn hl]; rfl

theorem servoApply_enters_event {o : Int} (t : Nat) (hs : s.dt.servo = .acquire) (hn : near s o) (hl : 7 ≤ s.dt.lock) :
    (servoApply s o t).dt.servo = .locked ∧ rd (servoApply s o t) R.dtEvent = rd s R.dtEvent ||| 1 := by
  rw [servoApply_enters t hs hn hl, rd_withServo, rd_dtEvent_same, rd_trimmed_event]
  exact ⟨rfl, rfl⟩

theorem servoApply_stays_acquire {o : Int} (t : Nat) (hs : s.dt.servo = .acquire) (hn : ¬ near s o ∨ s.dt.lock < 7) :
    (servoApply s o t).dt.servo = .acquire ∧ rd (servoApply s o t) R.dtEvent = rd s R.dtEvent := by
  by_cases h : near s o
  · rw [servoApply_waits t hs h (hn.resolve_left (not_not_intro h)), rd_withServo, rd_trimmed_event]
    exact ⟨rfl, rfl⟩
  · rw [servoApply_misses t hs h, rd_withServo, rd_trimmed_event]
    exact ⟨rfl, rfl⟩

end

theorem accepted_offset_trims_the_clock : ruleAcceptedOffsetTrimsTheClock := by
  intro s raw t h hs o e freq slew hnear hj
  have hne : (taken s).dt.servo ≠ .holdover := by rcases hs with hs | hs <;> simp [taken, hs]
  refine ⟨_, exec_servoOffset h, ?_⟩
  rw [measured_follows t hne, servoOn_accepts (s := noted (taken s) o t) t hs hj]
  refine ⟨rd_servoApply_freq (s := noted (taken s) o t) o t, rd_servoApply_rate (s := noted (taken s) o t) o t, servoApply_now o t, servoApply_frac o t, servoApply_qual o t,
    servoApply_lock_near (s := noted (taken s) o t) t hs, servoApply_lock_far (s := noted (taken s) o t) t hs, servoApply_enters_event (s := noted (taken s) o t) t,
    servoApply_stays_acquire (s := noted (taken s) o t) t, fun hl hn => ?_, fun hl hn hu => ?_, fun hl hn hu => ?_,
    fun a ha => servoApply_sameRegsBut (s := noted (taken s) o t) o t a ha, ?_⟩
  · rw [servoApply_holds (s := noted (taken s) o t) t hl hn]
    exact ⟨rfl, rfl⟩
  · rw [servoApply_strays (s := noted (taken s) o t) t hl hn hu]
    exact ⟨rfl, rfl⟩
  · rw [servoApply_drops (s := noted (taken s) o t) t hl hn hu]
    rfl
  · obtain ⟨r, l, n, v, hu⟩ := servoApply_frame (s := noted (taken s) o t) o t
    rw [hu]
    rfl
end Sys2Proof.Machine
end

section
/-! SUPPORT. An offset that the servo refuses, and the offsets of a qualification (R49). -/

namespace Sys2Proof.Machine
section
variable {s : State}

/-! ### Records and events -/

theorem bbx_room {c u : Nat} {l : List Byte} {p : Bool} (h : s.bbxQueue.length < 64) :
    (bbx s c u l p).bbxQueue = s.bbxQueue ++ [⟨s.dt.now, c, u, padTo 36 l, p⟩] := by
  rw [bbx, if_neg (by omega)]

/-! ### A refused offset (R49) -/

theorem servoRefuse_servo (o : Int) : (servoRefuse s o).dt = { s.dt with servo := .refusing, qual := 0 } := by
  simp [servoRefuse, dtEvent, setRate]

theorem rd_servoRefuse_rate (o : Int) : rd (servoRefuse s o) R.dtRate = rd s R.dtFreq := by
  rw [servoRefuse, rd_bbx_low _ _ _ _ _ (by decide), rd_dtEvent_other _ (by decide), rd_bump_other _ (by decide),
    rd_setRate_same, ofInt_dtFreq]

theorem rd_servoRefuse_freq (o : Int) : rd (servoRefuse s o) R.dtFreq = rd s R.dtFreq := by
  rw [servoRefuse, rd_bbx_low _ _ _ _ _ (by decide), rd_dtEvent_other _ (by decide), rd_bump_other _ (by decide),
    rd_setRate_other _ (by decide)]
  rfl

theorem rd_servoRefuse_count (o : Int) : rd (servoRefuse s o) R.dtRefuseCnt = incSat (rd s R.dtRefuseCnt) := by
  rw [servoRefuse, rd_bbx_low _ _ _ _ _ (by decide), rd_dtEvent_other _ (by decide), rd_bump_same,
    rd_setRate_other _ (by decide)]
  rfl

theorem rd_servoRefuse_event (o : Int) : rd (servoRefuse s o) R.dtEvent = rd s R.dtEvent ||| 2 := by
  rw [servoRefuse, rd_bbx_low _ _ _ _ _ (by decide), rd_dtEvent_same, rd_bump_other _ (by decide),
    rd_setRate_other _ (by decide)]
  rfl

theorem servoRefuse_record (o : Int) (h : s.bbxQueue.length < 64) :
    ∃ r, (servoRefuse s o).bbxQueue = s.bbxQueue ++ [r] ∧ r.code = 0x0101 ∧ r.post = true := by
  rw [servoRefuse, bbx_room (by simpa [dtEvent, setRate] using h)]
  simp [dtEvent, setRate]

/-! ### Qualification -/

theorem qualified_now (n : Nat) : (qualified s n).dt.now = s.dt.now := by simp [qualified, dtEvent]

theorem qualified_servo (n : Nat) : (qualified s n).dt.servo = .acquire := by simp [qualified, dtEvent]

theorem rd_qualified_event (n : Nat) : rd (qualified s n) R.dtEvent = rd s R.dtEvent ||| bitW 6 := by
  rw [qualified, rd_bbx_low _ _ _ _ _ (by decide), rd_dtEvent_same]
  rfl

/-- An accepted offset clears no event. -/
theorem bit_servoApply_event (o : Int) (t : Nat) {i : Nat} (h : bit (rd s R.dtEvent) i = true) :
    bit (rd (servoApply s o t) R.dtEvent) i = true := by
  obtain ⟨e, l, n, v, hu⟩ := servoApply_shape (s := s) o t
  rw [hu, rd_withServo]
  cases e
  · exact (rd_trimmed_event (s := s) o t) ▸ h
  · show bit (rd (dtEvent (trimmed s o t) 0) R.dtEvent) i = true
    rw [rd_dtEvent_same, rd_trimmed_event, bit, BitVec.getLsbD_or]
    exact Bool.or_eq_true_iff.mpr (.inl h)

theorem servoApply_follows {o : Int} (t : Nat) (hs : s.dt.servo = .acquire) :
    (servoApply s o t).dt.servo = .acquire ∨ (servoApply s o t).dt.servo = .locked := by
  by_cases h : near s o ∧ 7 ≤ s.dt.lock
  · exact .inr (servoApply_enters_event t hs h.1 h.2).1
  · exact .inl (servoApply_stays_acquire t hs (by rw [← not_le]; exact not_and_or.mp h)).1
end

theorem exec_servoOffset_unfed {s : State} (hu : s.up = true) (h : dtSel s ≠ 1 ∨ s.ptp.msOffset = none ∨ s.ptp.master = none) :
    exec .servoOffset s = .next s := by
  show execServoOffset s = _
  rw [execServoOffset, fabric_up s hu]
  rcases h with h | h | h
  · simp [h]
  · simp [h]
  · cases hm : s.ptp.msOffset <;> simp [h]

theorem jumps_are_refused_until_qualified : ruleJumpsAreRefusedUntilQualified := by
  refine ⟨?_, fun s hu h => ⟨s, exec_servoOffset_unfed hu h, rfl⟩⟩
  intro s raw t h o jump
  refine ⟨fun hs hj => ⟨_, exec_servoOffset h, ?_⟩, fun hs hj => ⟨_, exec_servoOffset h, ?_⟩,
    fun hs hj hq => ⟨_, exec_servoOffset h, ?_⟩, fun hs hj hq => ⟨_, exec_servoOffset h, ?_⟩⟩
  all_goals rw [measured_follows t (by rcases hs with hs | hs <;> simp [taken, hs])]
  · rw [servoOn_refuses (s := noted (taken s) o t) t hs hj]
    refine ⟨?_, ?_, ?_, ?_, rd_servoRefuse_rate o, rd_servoRefuse_freq o, rd_servoRefuse_count o, rd_servoRefuse_event o,
      servoRefuse_record (s := noted (taken s) o t) o⟩ <;> rw [servoRefuse_servo] <;> rfl
  · rw [servoOn_qualify_far (s := noted (taken s) o t) t hs hj]
    refine ⟨rfl, rfl, rfl, ?_, ?_, fun a ha => ?_⟩
    · rw [rd_setRate_same]
      exact ofInt_dtFreq
    · rw [rd_setRate_other _ (by decide), rd_bump_same]
      rfl
    · simp only [List.mem_cons, List.not_mem_nil, or_false, not_or] at ha
      rw [rd_setRate_other _ ha.1, rd_bump_other _ ha.2]
      rfl
  · rw [servoOn_qualify_counts (s := noted (taken s) o t) t hs (not_lt.mp hj) hq]
    refine ⟨rfl, rfl, ?_, fun a ha => ?_⟩
    · rw [rd_setRate_same]
      exact ofInt_dtFreq
    · rw [rd_setRate_other _ (by simpa using ha)]
      rfl
  · rw [servoOn_qualify_ends (s := noted (taken s) o t) t hs (not_lt.mp hj) hq]
    refine ⟨servoApply_follows t (qualified_servo _), ?_, bit_servoApply_event o t ?_⟩
    · rw [servoApply_now, qualified_now]
      rfl
    · rw [rd_qualified_event]
      simp [bit, bitW]
end Sys2Proof.Machine
end

section
/-! SUPPORT. The loss and the change of the servo's source (R51, R52); O12. -/

namespace Sys2Proof.Machine
section
variable {s : State}

/-! ### The event ring -/

theorem postEvent_evtNext (d : DWord) (c u : Nat) (l : List Byte) : (postEvent s d c u l).evtNext = s.evtNext + 1 := by
  unfold postEvent
  dsimp only
  split <;> simp

/-! ### Loss and change of the source (R51, R52) -/

/-- The servo put in a state at the frequency estimate, with an event's bit and its entry in the event ring. -/
def servoEntered (s t : State) (v : Servo) (b : Nat) : Prop :=
  t.dt.servo = v ∧ rd t R.dtRate = rd s R.dtFreq ∧ bit (rd t R.dtEvent) b = true ∧ t.evtNext = s.evtNext + 1 ∧
    t.dt.now = s.dt.now

theorem bit_or_bitW (w : Word) {b : Nat} (h : b < 32) : bit (w ||| bitW b) b = true := by
  have hb : (bitW b).getLsbD b = true := by
    rw [bitW, BitVec.getLsbD_ofNat, Nat.testBit_two_pow_self]
    simpa using h
  rw [bit, BitVec.getLsbD_or, hb, Bool.or_true]

theorem toHoldover_enters (hsel : dtSel s ≠ 0) (hs : s.dt.servo ≠ .holdover) : servoEntered s (toHoldover s) .holdover 2 := by
  rw [toHoldover, if_neg (by simp [hsel, hs])]
  refine ⟨by simp [dtEvent, setRate], ?_, ?_, postEvent_evtNext .., by simp [dtEvent, setRate]⟩
  · rw [rd_postEvent_low _ _ _ _ _ (by decide), rd_dtEvent_other _ (by decide), rd_setRate_same, ofInt_dtFreq]
  · rw [rd_postEvent_low _ _ _ _ _ (by decide), rd_dtEvent_same]
    exact bit_or_bitW _ (by decide)

theorem rd_masterChanged_low {a : Nat} (h : a ≠ R.dtEvent) (h' : a < 0x100000) : rd (masterChanged s) a = rd s a := by
  rw [masterChanged, rd_postEvent_low _ _ _ _ _ h', rd_dtEvent_other _ h]

theorem bit_masterChanged_event : bit (rd (masterChanged s) R.dtEvent) 3 = true := by
  rw [masterChanged, rd_postEvent_low _ _ _ _ _ (by decide), rd_dtEvent_same]
  exact bit_or_bitW _ (by decide)

theorem masterChanged_evtNext : (masterChanged s).evtNext = s.evtNext + 1 := postEvent_evtNext ..

theorem masterChanged_dt : (masterChanged s).dt = s.dt := by simp [masterChanged, dtEvent]

theorem masterChanged_ptp : (masterChanged s).ptp = s.ptp := by simp [masterChanged, dtEvent]

/-- The servo in state `v` for a new source, the trim at the frequency estimate, the change announced (R51). -/
def followed (s : State) (v : Servo) (qual : Nat) : State :=
  masterChanged (setRate { s with dt := { s.dt with servo := v, qual := qual } } (dtFreq s))

theorem followed_dt (v : Servo) (n : Nat) : (followed s v n).dt = { s.dt with servo := v, qual := n } := masterChanged_dt

theorem followed_ptp (v : Servo) (n : Nat) : (followed s v n).ptp = s.ptp := masterChanged_ptp

theorem rd_followed_rate (v : Servo) (n : Nat) : rd (followed s v n) R.dtRate = rd s R.dtFreq := by
  rw [followed, rd_masterChanged_low (by decide) (by decide), rd_setRate_same, ofInt_dtFreq]

theorem rd_followed_low {a : Nat} (v : Servo) (n : Nat) (h : a < 0x100000) (h1 : a ≠ R.dtEvent) (h2 : a ≠ R.dtRate) :
    rd (followed s v n) a = rd s a := by
  rw [followed, rd_masterChanged_low h1 h, rd_setRate_other _ h2]
  rfl

/-- R51: a servo that has set DT before qualifies a new source anew. -/
theorem newSource_qualifies (hs : s.dt.servo ≠ .unset) (he : s.dt.everSet = true) : newSource s = followed s .qualify 0 := by
  simp [newSource, hs, he, followed]

theorem dtSel_eq : dtSel s = fld (rd s R.dtCtrl) 1 0 % 3 := by
  have h4 : fld (rd s R.dtCtrl) 1 0 < 4 := Nat.mod_lt _ (by decide)
  unfold dtSel rf
  split <;> omega

theorem dtSel_wr_ctrl (v : Word) : dtSel (wr s R.dtCtrl v) = fld v 1 0 % 3 := by rw [dtSel_eq, rd_wr_same]

/-- Silence is counted anew from the change. -/
def lossAnew (s : State) : State := { s with dt := { s.dt with lossFrom := s.dt.now } }

theorem sourceChanged_qualifies (hsel : dtSel s ≠ 0) (hs : s.dt.servo ≠ .unset) (he : s.dt.everSet = true) :
    sourceChanged s = followed (lossAnew s) .qualify 0 := by
  rw [sourceChanged, if_pos hsel]
  exact newSource_qualifies hs he

theorem sourceChanged_frees (hsel : dtSel s = 0) (hs : s.dt.servo ≠ .unset) (he : s.dt.everSet = true) :
    sourceChanged s = followed (lossAnew s) .free s.dt.qual := by
  simp [sourceChanged, hsel, hs, he, followed, lossAnew]
  rfl

theorem sourceInterval_followed {t : Nat} (h : sourceInterval s = some t) : dtSel s ≠ 0 := by
  intro h0
  simp [sourceInterval, h0] at h

theorem exec_servoLossTimeout {t : Nat} (hu : s.up = true) (h : sourceInterval s = some t) : exec .servoLossTimeout s =
    .next (if max 1 (rf s R.dtCtrl 19 16) * t ≤ (s.dt.now - s.dt.lossFrom).toNat then toHoldover s else s) := by
  show execServoLossTimeout s = _
  rw [execServoLossTimeout, fabric_up s hu, h]
  rfl

/-- R459: under PTP a selected master is lost when its announce intervals have passed in silence, and forgotten. -/
theorem exec_announceTimeout {m : Announce} (hu : s.up = true) (hm : s.ptp.master = some m) : exec .announceTimeout s =
    .next (if dtSel s = 1 ∧ s.ptp.annTmo * syncInterval m.logAnnounce ≤ (s.dt.now - s.ptp.annAt).toNat
      then { toHoldover s with ptp := { s.ptp with master := none } } else s) := by
  show execAnnounceTimeout s = _
  simp only [execAnnounceTimeout, fabric_up s hu, hm, decide_eq_true_eq]

theorem exec_ptpStatus (hu : s.up = true) (h : dtSel s = 1) : exec .ptpStatus s = .next (postEvent s s.dt.now 0x0106 0x01
    (leBytes 8 (gmIdentity s).toNat ++ leBytesI 4 (satS 32 s.ptp.pathDelay))) := by
  show execPtpStatus s = _
  rw [execPtpStatus, fabric_up s hu, if_pos h]

/-- What the servo knew of a master is forgotten with a change of DT_PTP_CFG (R51). -/
def masterForgotten (s : State) : State :=
  { lossAnew s with ptp := { s.ptp with
    master := none, sync := none, fwd := none, msOffset := none, delay := none, pdelay := none } }

theorem exec_dtPtpCfgWrite (v : Word) (hu : s.up = true) : exec (.dtPtpCfgWrite v) s =
    .next (if dtSel s = 1 ∧ ptpCfg (wr s R.dtPtpCfg (v &&& 0xFFF)) ≠ ptpCfg s
      then newSource (masterForgotten (wr s R.dtPtpCfg (v &&& 0xFFF))) else wr s R.dtPtpCfg (v &&& 0xFFF)) := if_pos hu

theorem exec_dtCtrlWrite (v : Word) (hu : s.up = true) : exec (.dtCtrlWrite v) s =
    .next (if fld (v &&& 0xF0FF3) 1 0 % 3 = dtSel s then wr s R.dtCtrl (v &&& 0xF0FF3)
      else sourceChanged (wr s R.dtCtrl (v &&& 0xF0FF3))) := by
  show execDtCtrlWrite v s = _
  simp only [execDtCtrlWrite, fabric_up s hu, dtSel_wr_ctrl]

/-- A write of DT_CTRL that changes the source. -/
theorem dtCtrl_changes {v : Word} {t : State} {w : Servo} {n : Nat} (ht : t = followed (lossAnew (wr s R.dtCtrl v)) w n) :
    rd t R.dtCtrl = v ∧ rd t R.dtRate = rd s R.dtFreq ∧ t.dt.now = s.dt.now ∧ bit (rd t R.dtEvent) 3 = true ∧
      t.evtNext = s.evtNext + 1 := by
  subst ht
  refine ⟨?_, ?_, ?_, bit_masterChanged_event, masterChanged_evtNext⟩
  · rw [rd_followed_low _ _ (by decide) (by decide) (by decide)]
    exact rd_wr_same _ _ _
  · rw [rd_followed_rate]
    exact rd_wr_other s v (by decide)
  · rw [followed_dt]
    rfl

end

theorem source_loss_and_source_change : ruleSourceLossAndSourceChange := by
  intro s hu lost silent unheard
  refine ⟨fun t ht hd hs => ⟨_, exec_servoLossTimeout hu ht, ?_⟩, fun t ht hd => ⟨_, exec_servoLossTimeout hu ht, ?_⟩,
    fun m hsel hm hd hs => ⟨_, exec_announceTimeout hu hm, ?_⟩, fun m hm hd => ⟨_, exec_announceTimeout hu hm, ?_⟩,
    ?_, fun v h => ⟨_, exec_dtPtpCfgWrite v hu, ?_⟩, fun v hsel hc hs he => ⟨_, exec_dtPtpCfgWrite v hu, ?_⟩,
    fun hsel => ⟨_, exec_ptpStatus hu hsel, postEvent_evtNext .., by simp, by simp⟩⟩
  · rw [if_pos hd]
    exact toHoldover_enters (sourceInterval_followed ht) hs
  · exact if_neg (not_le.mpr hd)
  · rw [if_pos ⟨hsel, hd⟩]
    exact ⟨toHoldover_enters (by rw [hsel]; decide) hs, rfl⟩
  · exact if_neg fun h => hd.elim (fun hn => hn h.1) fun hn => absurd h.2 (not_le.mpr hn)
  · intro v sel changed
    refine ⟨fun he => ⟨_, exec_dtCtrlWrite v hu, if_pos he⟩, fun h0 he hs hset => ⟨_, exec_dtCtrlWrite v hu, ?_⟩,
      fun h0 he hs hset => ⟨_, exec_dtCtrlWrite v hu, ?_⟩⟩
    · have hs1 : dtSel (wr s R.dtCtrl (v &&& 0xF0FF3)) ≠ 0 := by rw [dtSel_wr_ctrl]; exact h0
      rw [if_neg he, sourceChanged_qualifies hs1 hs hset]
      exact ⟨dtCtrl_changes rfl, by rw [followed_dt], by rw [followed_dt]⟩
    · have hs1 : dtSel (wr s R.dtCtrl (v &&& 0xF0FF3)) = 0 := by rw [dtSel_wr_ctrl]; exact h0
      have he' : fld (v &&& 0xF0FF3) 1 0 % 3 ≠ dtSel s := fun h => he (h.symm.trans h0)
      rw [if_neg he', sourceChanged_frees hs1 hs hset]
      exact ⟨dtCtrl_changes rfl, by rw [followed_dt]⟩
  · exact if_neg fun hc => h.elim (fun h => h hc.1) hc.2
  · rw [if_pos ⟨hsel, hc⟩, newSource_qualifies (s := masterForgotten (wr s R.dtPtpCfg (v &&& 0xFFF))) hs he]
    refine ⟨?_, by rw [followed_dt], by rw [followed_ptp]; rfl⟩
    rw [rd_followed_low _ _ (by decide) (by decide) (by decide)]
    exact rd_wr_same _ _ _

/-- Settles O12: by the cases of an accepted, refused or qualifying offset and of the loss or change of the source. -/
theorem theServoFollowsItsSource : Obligations.TheServoFollowsItsSource :=
  ⟨accepted_offset_trims_the_clock, jumps_are_refused_until_qualified, source_loss_and_source_change⟩

end Sys2Proof.Machine
end

section
/-! SUPPORT. What PTP messages and PPS edges give the servo (R42 to R45); O13. -/

namespace Sys2Proof.Machine
section
variable {s : State}

/-! ### PTP messages (R42 to R44) -/

/-- The message comes over the port and the transport of DT_PTP_CFG. -/
def arrivesHere (s : State) (p : Fin 2) (l2 : Bool) : Prop := rf s R.dtPtpCfg 8 8 = p.val ∧ onLayer2 s = l2

theorem exec_ptpMessageRx {p : Fin 2} {l2 : Bool} (m : PtpMsg) (hu : s.up = true) (hb : blockOn s 9 = true)
    (h : arrivesHere s p l2) : exec (.ptpMessageRx p l2 m) s = .next (ptpRx s p m) := by
  show execPtpMessageRx p l2 m s = _
  rw [execPtpMessageRx, fabric_up s hu, if_pos ⟨h.1, h.2, hb⟩]

theorem exec_ptpMessageRx_elsewhere {p : Fin 2} {l2 : Bool} (m : PtpMsg) (hu : s.up = true) (h : ¬ arrivesHere s p l2) :
    exec (.ptpMessageRx p l2 m) s = .next s := by
  show execPtpMessageRx p l2 m s = _
  rw [execPtpMessageRx, fabric_up s hu, if_neg fun hc => h ⟨hc.1, hc.2.1⟩]

theorem announceRx_first {a : Announce} (hd : a.domain.toNat = rf s R.dtPtpCfg 7 0) (h1 : -7 ≤ a.logSync) (h2 : a.logSync ≤ 1)
    (hm : s.ptp.master = none) : announceRx s a = { s with ptp := { s.ptp with master := some a, annAt := s.dt.now } } := by
  simp [announceRx, hd, hm, not_lt.mpr h1, not_lt.mpr h2]

theorem announceRx_out_of_range {a : Announce} (h : a.logSync < -7 ∨ 1 < a.logSync) : announceRx s a = s := if_pos (.inr h)

theorem fromMaster_selected {a : Announce} (hm : s.ptp.master = some a) : fromMaster s a.identity = true := by
  simp [fromMaster, hm]

theorem ptpRx_sync {a : Announce} (p : Fin 2) (q : Half) (origin : DWord) (corr : Int) (hm : s.ptp.master = some a) :
    ptpRx s p (.sync q a.identity false origin corr) = syncDone s (rxStamp s) origin corr := by
  simp [ptpRx, fromMaster_selected hm]

theorem ptpRx_delayResp {a : Announce} {q : Half} {t3 : DWord} {f : Int} (p : Fin 2) (rcv : DWord) (corr : Int)
    (hp : peerDelay s = false) (hm : s.ptp.master = some a) (hd : s.ptp.delay = some (q, t3)) (hf : s.ptp.fwd = some f) :
    ptpRx s p (.delayResp q a.identity rcv corr) =
      { s with ptp := { s.ptp with delay := none, pathDelay := (f + ((rcv - t3).toInt - corr)) / 2 } } := by
  simp [ptpRx, hd, hf, hp, fromMaster_selected hm, meanDelay]

theorem ptpRx_pdelayResp {q : Half} {t1 : DWord} (p : Fin 2) (r : DWord) (corr : Int) (hp : peerDelay s = true)
    (hd : s.ptp.delay = some (q, t1)) : ptpRx s p (.pdelayResp q false r corr) =
      { s with ptp := { s.ptp with delay := none, pathDelay := ((rxStamp s - t1).toInt - corr) / 2 } } := by
  simp [ptpRx, hd, hp, meanDelay, sub_eq_add_neg]

/-- The port of DT_PTP_CFG. -/
def ptpPort (s : State) : Fin 2 := if rf s R.dtPtpCfg 8 8 = 0 then 0 else 1

theorem ptpPort_val : (ptpPort s).val = rf s R.dtPtpCfg 8 8 := by
  have h2 : rf s R.dtPtpCfg 8 8 < 2 := Nat.mod_lt _ (by decide)
  unfold ptpPort
  split
  · omega
  · show 1 = _
    omega

/-- The exchange that a Delay_Req, or under peer delay a Pdelay_Req, opens. -/
def delayRequested (s : State) : Ptp :=
  let t := txStamp s s.dt.now
  { s.ptp with
    delay := some (s.ptp.seq, t), pdelay := none, seq := s.ptp.seq + 1
    sent := s.ptp.sent ++ [(ptpPort s, if peerDelay s then .pdelayReq s.ptp.seq t else .delayReq s.ptp.seq t)] }

theorem exec_delayReq (hu : s.up = true) (hb : blockOn s 9 = true) :
    exec .delayReq s = .next { s with ptp := delayRequested s } := by
  show execDelayReq s = _
  simp only [execDelayReq, fabric_up s hu, hb]
  rfl

end

theorem ptp_measures_the_offset : rulePtpMeasuresTheOffset := by
  intro s p l2 hu hb here rx
  refine ⟨fun m h => ⟨_, exec_ptpMessageRx_elsewhere m hu h, rfl⟩,
    fun a h hd h1 h2 hm => ⟨_, exec_ptpMessageRx _ hu hb h, announceRx_first hd h1 h2 hm⟩,
    fun a h hr => ⟨_, exec_ptpMessageRx _ hu hb h, announceRx_out_of_range hr⟩, fun q m a origin corr h hm hid => ?_,
    fun q m a rcv corr t3 f h hp hm hid hd hf => ?_,
    fun q r corr t1 h hp hd => ⟨_, exec_ptpMessageRx _ hu hb h, ptpRx_pdelayResp p r corr hp hd⟩,
    ⟨_, exec_delayReq hu hb, rfl, rfl, ⟨_, rfl, ptpPort_val, fun hp => if_pos hp, fun hp => if_neg (by simp [hp])⟩, rfl⟩⟩
  · subst hid
    exact ⟨_, exec_ptpMessageRx _ hu hb h, ptpRx_sync p q origin corr hm⟩
  · subst hid
    exact ⟨_, exec_ptpMessageRx _ hu hb h, ptpRx_delayResp p rcv corr hp hm hd hf⟩

section
variable {s : State}

/-! ### A step of DT (R55) -/

/-- DT moved by `delta`, the servo in ACQUIRE with its counts at 0, and the marks that firmware keeps in elapsed time moved along. -/
def stepped (s : State) (delta : Int) : State :=
  let new := s.dt.now + BitVec.ofInt 64 delta
  let mv := new - s.dt.now
  { s with
    dt := { s.dt with
      now := new, prev := s.dt.now, servo := .acquire, everSet := true, lock := 0, unlock := 0, qual := 0, commit := none
      lossFrom := s.dt.lossFrom + mv, offsetAt := s.dt.offsetAt.map (· + mv), ppsPrev := s.dt.ppsPrev.map (· + mv) }
    ptp := { s.ptp with annAt := s.ptp.annAt + mv } }

/-- The arguments of TIME_STEPPED: the step, the DT before it and after it, and the mode. -/
def stepArgs (s : State) (delta : Int) (mode : Nat) : List Byte :=
  let new := s.dt.now + BitVec.ofInt 64 delta
  leBytes 8 (new - s.dt.now).toNat ++ leBytes 8 s.dt.now.toNat ++ leBytes 8 new.toNat ++ leBytes 1 mode

/-- The step with STEPPED and its record. -/
def stepRecorded (s : State) (delta : Int) (mode : Nat) : State :=
  bbx (dtEvent (stepped s delta) 4) 0x0105 0x01 (stepArgs s delta mode) true

/-- Beside its record and event a step changes which gates are due. -/
theorem stepDt_shape (delta : Int) (mode : Nat) : ∃ d, stepDt s delta mode =
    { stepRecorded s delta mode with sg := { (stepRecorded s delta mode).sg with due := d } } := by
  unfold stepDt
  dsimp only
  split
  · unfold when
    split
    · exact ⟨_, rfl⟩
    · exact ⟨(stepRecorded s delta mode).sg.due, rfl⟩
  · exact ⟨_, rfl⟩

theorem stepDt_dt (delta : Int) (mode : Nat) : (stepDt s delta mode).dt = (stepped s delta).dt := by
  obtain ⟨d, h⟩ := stepDt_shape (s := s) delta mode
  simp [h, stepRecorded, dtEvent]

theorem stepDt_evc (delta : Int) (mode : Nat) : (stepDt s delta mode).evc = s.evc := by
  obtain ⟨d, h⟩ := stepDt_shape (s := s) delta mode
  simp [h, stepRecorded, dtEvent, stepped]

theorem stepDt_bbxQueue (delta : Int) (mode : Nat) (hq : s.bbxQueue.length < 64) : (stepDt s delta mode).bbxQueue =
    s.bbxQueue ++ [⟨s.dt.now + BitVec.ofInt 64 delta, 0x0105, 0x01, padTo 36 (stepArgs s delta mode), true⟩] := by
  obtain ⟨d, h⟩ := stepDt_shape (s := s) delta mode
  rw [h]
  exact bbx_room hq

theorem rd_stepDt_low {a : Nat} (delta : Int) (mode : Nat) (h : a < 0x310000) (h' : a ≠ R.dtEvent) :
    rd (stepDt s delta mode) a = rd s a := by
  obtain ⟨d, hd⟩ := stepDt_shape (s := s) delta mode
  rw [hd]
  show rd (stepRecorded s delta mode) a = rd s a
  rw [stepRecorded, rd_bbx_low _ _ _ _ _ h, rd_dtEvent_other _ h']
  rfl

theorem rd_stepDt_event (delta : Int) (mode : Nat) : rd (stepDt s delta mode) R.dtEvent = rd s R.dtEvent ||| 0x10 := by
  obtain ⟨d, hd⟩ := stepDt_shape (s := s) delta mode
  rw [hd]
  show rd (stepRecorded s delta mode) R.dtEvent = _
  rw [stepRecorded, rd_bbx_low _ _ _ _ _ (by decide), rd_dtEvent_same]
  rfl

/-- Bytes read the same where memory, held stores, counts and the 68 entries of the redirect table are the same. -/
theorem sameBytes_of_redirect {t : State} (hr : ∀ k, k < 68 → rd t (R.memRedir k) = rd s (R.memRedir k)) (hm : t.mem = s.mem)
    (hh : t.heldWrites = s.heldWrites) (hc : t.sem.count = s.sem.count) : SameBytes s t := by
  intro a
  have hp : physAddr t a = physAddr s a := by
    unfold physAddr
    split
    case isTrue ha => rw [hr _ (by omega)]
    case isFalse => rfl
  simp [ldByte, semCount, hp, hm, hh, hc]

theorem stepDt_sameBytes (delta : Int) (mode : Nat) : SameBytes s (stepDt s delta mode) := by
  obtain ⟨d, h⟩ := stepDt_shape (s := s) delta mode
  refine sameBytes_of_redirect (fun k hk => rd_stepDt_low _ _ (by simp [R.memRedir]; omega) (by simp [R.memRedir, R.dtEvent]; omega)) ?_ ?_ ?_ <;>
    simp [h, stepRecorded, dtEvent, stepped]

/-! ### A PPS edge (R45) -/

/-- `t` holds the stamp and the measurement of `s`, and its event controller. -/
def SameMeasure (s t : State) : Prop :=
  t.evc = s.evc ∧ t.dt.ppsStamp = s.dt.ppsStamp ∧ t.dt.offset = s.dt.offset ∧ t.dt.interval = s.dt.interval

theorem stepDt_sameMeasure (delta : Int) (mode : Nat) : SameMeasure s (stepDt s delta mode) := by
  rw [SameMeasure, stepDt_dt, stepDt_evc]
  exact ⟨rfl, rfl, rfl, rfl⟩

theorem servoApply_sameMeasure (o : Int) (t : Nat) : SameMeasure s (servoApply s o t) := by
  obtain ⟨r, l, n, v, h⟩ := servoApply_frame (s := s) o t
  rw [h]
  exact ⟨rfl, rfl, rfl, rfl⟩

theorem servoRefuse_sameMeasure (o : Int) : SameMeasure s (servoRefuse s o) := by
  rw [SameMeasure, servoRefuse_servo]
  exact ⟨by simp [servoRefuse, dtEvent, setRate], rfl, rfl, rfl⟩

theorem newSource_sameMeasure : SameMeasure s (newSource s) := by
  unfold newSource
  split
  · exact ⟨rfl, rfl, rfl, rfl⟩
  · simp [SameMeasure, masterChanged, dtEvent, setRate]

theorem qualified_sameMeasure (n : Nat) : SameMeasure s (qualified s n) := by simp [SameMeasure, qualified, dtEvent]

theorem SameMeasure.trans {r t : State} (h : SameMeasure r s) (h' : SameMeasure s t) : SameMeasure r t :=
  ⟨h'.1.trans h.1, h'.2.1.trans h.2.1, h'.2.2.1.trans h.2.2.1, h'.2.2.2.trans h.2.2.2⟩

theorem servoOn_sameMeasure (o : Int) (t : Nat) : SameMeasure s (servoOn s o t) := by
  by_cases hj : o.natAbs ≤ (rd s R.dtJumpMax).toNat
  · cases hs : s.dt.servo
    case unset => simpa only [servoOn, hs] using stepDt_sameMeasure (-o) 3
    case qualify | refusing =>
      by_cases hq : s.dt.qual < 7
      · rw [servoOn_qualify_counts t (by simp [hs]) hj hq]
        exact ⟨rfl, rfl, rfl, rfl⟩
      · rw [servoOn_qualify_ends t (by simp [hs]) hj (by omega)]
        exact (qualified_sameMeasure _).trans (servoApply_sameMeasure o t)
    all_goals
      simp only [servoOn, hs, if_neg (not_lt.mpr hj)]
      exact servoApply_sameMeasure o t
  · cases hs : s.dt.servo
    case unset => simpa only [servoOn, hs] using stepDt_sameMeasure (-o) 3
    case qualify | refusing =>
      rw [servoOn_qualify_far t (by simp [hs]) (not_le.mp hj)]
      exact ⟨rfl, rfl, rfl, rfl⟩
    all_goals
      simp only [servoOn, hs, if_pos (not_le.mp hj)]
      exact servoRefuse_sameMeasure o

theorem measured_sameMeasure (o : Int) (t : Nat) : SameMeasure (noted s o t) (measured s o t) := by
  have hn : SameMeasure (noted s o t) (if s.dt.servo = .holdover then newSource (noted s o t) else noted s o t) := by
    split
    · exact newSource_sameMeasure
    · exact ⟨rfl, rfl, rfl, rfl⟩
  exact hn.trans (servoOn_sameMeasure o t)

/-! ### An edge of a source (R104) -/

theorem inSet_addSet_same (b : BitVec 512) {n : Nat} (h : n < 512) : inSet (addSet b n) n = true := by
  simp [inSet, addSet, h]

theorem inSet_addSet_other (b : BitVec 512) {n m : Nat} (h : m ≠ n) : inSet (addSet b n) m = inSet b m := by
  have hne : ((1#512 <<< n).getLsbD m) = false := by
    rw [← BitVec.twoPow_eq, BitVec.getLsbD_twoPow]
    simp [h.symm]
  rw [inSet, addSet, BitVec.getLsbD_or, hne, Bool.or_false, inSet]

theorem raiseEdge_caught {n : Nat} (h : (s.evc.wakeArmed && inSet s.evc.wakeMask n) = true) :
    raiseEdge s n = { s with evc := { s.evc with wake := addSet s.evc.wake n } } := if_pos h

theorem raiseEdge_again {n : Nat} (h : ¬ (s.evc.wakeArmed && inSet s.evc.wakeMask n) = true) (ha : activeAny s n = true) :
    raiseEdge s n = { s with evc := { s.evc with latch := addSet s.evc.latch n } } := by
  rw [raiseEdge, if_neg h, if_pos ha]

theorem raiseEdge_held {n : Nat} (h : ¬ (s.evc.wakeArmed && inSet s.evc.wakeMask n) = true) (ha : activeAny s n = false) :
    raiseEdge s n = { s with evc := { s.evc with held := addSet s.evc.held n } } := by
  rw [raiseEdge, if_neg h, if_neg (by simp [ha])]

/-- Once DT has been set the offset of an edge is reduced modulo one second. -/
theorem ppsOffset_follows (t : DWord) (hs : s.dt.servo ≠ .unset) : ppsOffset s t =
    ((t.toNat : Int) - (rd s R.dtPpsPhase).toNat + 500000000) % 1000000000 - 500000000 := by
  unfold ppsOffset
  split
  · contradiction
  · rfl

/-- The edge stamped. -/
def ppsStamped (s : State) : State := { s with dt := { s.dt with ppsStamp := s.dt.now, ppsPrev := some s.dt.now } }

/-- An edge under 100 ns after the last one stamped. -/
def ppsEarly (s : State) : Prop := ∃ p, s.dt.ppsPrev = some p ∧ (s.dt.now - p).toNat < 100

theorem exec_ppsEdge_ignored {rising : Bool} (hu : s.up = true)
    (h : rb s R.dtPpsCfg 0 = false ∨ ¬ rising ≠ rb s R.dtPpsCfg 1 ∨ ppsEarly s) : exec (.ppsEdge rising) s = .next s := by
  show execPpsEdge rising s = _
  rw [execPpsEdge, fabric_up s hu]
  rcases h with h | h | ⟨p, hp, hn⟩
  · simp [h]
  · simp [not_not.mp h]
  · simp only [hp, decide_eq_true hn, Bool.or_true, if_true]

theorem exec_ppsEdge_stamped {rising : Bool} (hu : s.up = true) (he : rb s R.dtPpsCfg 0 = true) (ha : rising ≠ rb s R.dtPpsCfg 1)
    (hn : ¬ ppsEarly s) : exec (.ppsEdge rising) s = .next (if dtSel s = 2
      then measured (raiseEdge (ppsStamped s) 12) (ppsOffset s s.dt.now) 1000000000 else raiseEdge (ppsStamped s) 12) := by
  show execPpsEdge rising s = _
  rw [execPpsEdge, fabric_up s hu]
  cases hp : s.dt.ppsPrev with
  | none => simp [he, ha, ppsStamped]
  | some p =>
    have h100 : ¬ (s.dt.now - p).toNat < 100 := fun h => hn ⟨p, hp, h⟩
    simp only [he, bne_iff_ne.mpr ha, decide_eq_false h100]
    rfl

/-- Whatever is selected, the edge leaves the stamp and the sources as the stamping does. -/
theorem exec_ppsEdge_sameMeasure {rising : Bool} (hu : s.up = true) (he : rb s R.dtPpsCfg 0 = true)
    (ha : rising ≠ rb s R.dtPpsCfg 1) (hn : ¬ ppsEarly s) : Runs (.ppsEdge rising) s fun u =>
      u.evc = (raiseEdge (ppsStamped s) 12).evc ∧ u.dt.ppsStamp = s.dt.now ∧
      (dtSel s ≠ 2 → u = raiseEdge (ppsStamped s) 12) ∧
      (dtSel s = 2 → u.dt.interval = 1000000000 ∧ u.dt.offset = ppsOffset s s.dt.now) := by
  refine ⟨_, exec_ppsEdge_stamped hu he ha hn, ?_⟩
  by_cases h2 : dtSel s = 2
  · rw [if_pos h2]
    obtain ⟨hevc, hstamp, hoff, hint⟩ := measured_sameMeasure (s := raiseEdge (ppsStamped s) 12) (ppsOffset s s.dt.now) 1000000000
    exact ⟨hevc, by rw [hstamp]; simp [noted, ppsStamped], fun h => absurd h2 h, fun _ => ⟨hint, hoff⟩⟩
  · rw [if_neg h2]
    exact ⟨rfl, by simp [ppsStamped], fun _ => rfl, fun h => absurd h h2⟩

end

theorem pps_edges_are_stamped : rulePpsEdgesAreStamped := by
  intro s rising hu active early caught
  refine ⟨fun h => ⟨_, exec_ppsEdge_ignored hu h, rfl⟩, fun he ha hn => (exec_ppsEdge_sameMeasure hu he ha hn).imp ?_⟩
  rintro u ⟨hevc, hstamp, hother, hpps⟩
  refine ⟨hstamp, fun hc => ?_, fun hc ha => ?_, fun hc ha => ?_, fun h2 => ?_, fun h2 hs => ?_⟩
  · rw [hevc, raiseEdge_caught (s := ppsStamped s) hc]
    exact inSet_addSet_same _ (by decide)
  · rw [hevc, raiseEdge_held (s := ppsStamped s) hc ha]
    exact inSet_addSet_same _ (by decide)
  · rw [hevc, raiseEdge_again (s := ppsStamped s) hc ha]
    exact inSet_addSet_same _ (by decide)
  · rw [hother h2]
    exact ⟨by simp [ppsStamped], fun a _ => rd_raiseEdge _ _ _⟩
  · obtain ⟨hint, hoff⟩ := hpps h2
    exact ⟨hint, hoff.trans (ppsOffset_follows _ hs)⟩

/-- Settles O13: each message and each edge by the case of `ptpRx` or `execPpsEdge` that it meets. -/
theorem timeSourcesAreMeasured : Obligations.TimeSourcesAreMeasured := ⟨ptp_measures_the_offset, pps_edges_are_stamped⟩

end Sys2Proof.Machine
end

section
/-! SUPPORT. The first offset and forced steps of device time (R46, R53 to R55); O14. -/

namespace Sys2Proof.Machine
section
variable {s : State}

/-! ### The first offset (R46, R47) -/

theorem add_ofInt_neg (a : DWord) (o : Int) : a + BitVec.ofInt 64 (-o) = a - BitVec.ofInt 64 o := by
  rw [BitVec.ofInt_neg, BitVec.sub_eq_add_neg]

theorem servoOn_unset (o : Int) (t : Nat) (hs : s.dt.servo = .unset) : servoOn s o t = stepDt s (-o) 3 := by
  simp only [servoOn, hs]

end

theorem first_offset_sets_device_time : ruleFirstOffsetSetsDeviceTime := by
  intro s raw t h hs o
  refine ⟨_, exec_servoOffset h, ?_⟩
  rw [measured_follows t (by simp [taken, hs]), servoOn_unset (s := noted (taken s) o t) o t hs]
  beta_reduce
  intro new
  have hnew : s.dt.now + BitVec.ofInt 64 (-o) = new := add_ofInt_neg _ _
  refine ⟨?_, rd_stepDt_event _ _, rd_stepDt_low _ _ (by decide) (by decide), rd_stepDt_low _ _ (by decide) (by decide),
    fun a => stepDt_sameBytes (s := noted (taken s) o t) _ _ a, fun hq => ⟨_, stepDt_bbxQueue _ _ hq, rfl, rfl, ?_⟩⟩
  · rw [stepDt_dt]
    simp [stepped, noted, taken, hnew]
  · simp only [stepArgs, noted, taken, hnew]
    rfl

section
variable {s : State}
/-! ### Forced steps (R53, R54) -/

theorem stepLapse_dt : (stepLapse s).dt = { s.dt with armed := none } := by
  unfold stepLapse
  split
  case h_1 => rfl
  case h_2 h => rw [← h]

theorem rd_stepLapse_other {a : Nat} (h : a ≠ R.dtEvent) : rd (stepLapse s) a = rd s a := by
  unfold stepLapse
  split
  · exact rd_dtEvent_other _ h
  · rfl

theorem rd_stepLapse_armed (h : s.dt.armed ≠ none) : rd (stepLapse s) R.dtEvent = rd s R.dtEvent ||| 0x20 := by
  unfold stepLapse
  split
  · exact rd_dtEvent_same _
  · contradiction

theorem stepLapse_unarmed (h : s.dt.armed = none) : stepLapse s = s := by rw [stepLapse, h]

/-- R54: an offset was measured within the last two sync intervals. -/
theorem offsetRecent_iff : offsetRecent s = true ↔ ∃ a, s.dt.offsetAt = some a ∧ (s.dt.now - a).toNat ≤ 2 * s.dt.interval := by
  unfold offsetRecent
  cases s.dt.offsetAt <;> simp

/-- R54: an armed step stands for 1,000,000 ns, and for SOURCE while its offset is recent. -/
theorem armStale_iff {m : StepMode} {t : DWord} : armStale s m t = true ↔ 1000000 < (s.dt.now - t).toNat ∨
    m = .source ∧ ¬ ∃ a, s.dt.offsetAt = some a ∧ (s.dt.now - a).toNat ≤ 2 * s.dt.interval := by
  rw [← offsetRecent_iff]
  simp [armStale]

/-- An offset was measured within the last two sync intervals. -/
def recentOffset (s : State) : Prop := ∃ a, s.dt.offsetAt = some a ∧ (s.dt.now - a).toNat ≤ 2 * s.dt.interval

/-- The step armed, in place of one armed before. -/
def armedAnew (s : State) (m : StepMode) : State :=
  { stepLapse s with dt := { (stepLapse s).dt with armed := some (m, (stepLapse s).dt.now) } }

theorem armedAnew_dt (m : StepMode) : (armedAnew s m).dt = { s.dt with armed := some (m, s.dt.now) } := by
  simp only [armedAnew, stepLapse_dt]

theorem rd_armedAnew (m : StepMode) (a : Nat) : rd (armedAnew s m) a = rd (stepLapse s) a := rfl

theorem exec_stepArm (m : StepMode) (hu : s.up = true) : exec (.stepArm m) s =
    .next (if armStale (armedAnew s m) m s.dt.now then stepLapse (armedAnew s m) else armedAnew s m) := by
  show execStepArm m s = _
  have hnow : (stepLapse s).dt.now = s.dt.now := by rw [stepLapse_dt]
  rw [← hnow]
  exact fabric_up s hu

theorem armStale_armedAnew {m : StepMode} : armStale (armedAnew s m) m s.dt.now = true ↔ m = .source ∧ ¬ recentOffset s := by
  rw [armStale_iff, armedAnew_dt]
  simp [recentOffset]

theorem stepArm_stands {m : StepMode} (hu : s.up = true) (h : m = .source → recentOffset s) :
    Runs (.stepArm m) s fun u => u.dt = { s.dt with armed := some (m, s.dt.now) } ∧
      (s.dt.armed = none → rd u R.dtEvent = rd s R.dtEvent) ∧ (s.dt.armed ≠ none → rd u R.dtEvent = rd s R.dtEvent ||| 0x20) := by
  refine ⟨_, exec_stepArm m hu, ?_⟩
  rw [if_neg fun hs => (armStale_armedAnew.mp hs).2 (h (armStale_armedAnew.mp hs).1)]
  refine ⟨armedAnew_dt m, fun ha => ?_, rd_stepLapse_armed⟩
  rw [rd_armedAnew, stepLapse_unarmed ha]

theorem stepArm_lapses (hu : s.up = true) (h : ¬ recentOffset s) : Runs (.stepArm .source) s fun u =>
    u.dt = { s.dt with armed := none } ∧ rd u R.dtEvent = rd s R.dtEvent ||| 0x20 := by
  refine ⟨_, exec_stepArm .source hu, ?_⟩
  have harmed : (armedAnew s .source).dt.armed ≠ none := by simp [armedAnew_dt]
  rw [if_pos (armStale_armedAnew.mpr ⟨rfl, h⟩)]
  refine ⟨by rw [stepLapse_dt, armedAnew_dt], ?_⟩
  rw [rd_stepLapse_armed harmed, rd_armedAnew]
  by_cases ha : s.dt.armed = none
  · rw [stepLapse_unarmed ha]
  · rw [rd_stepLapse_armed ha, BitVec.or_assoc, BitVec.or_self]

theorem exec_stepCommit_armed {m' : StepMode} {t : DWord} (m : StepMode) (hu : s.up = true) (h : s.dt.armed = some (m', t)) :
    exec (.stepCommit m) s = .next (if m' = m ∧ armStale s m' t = false
      then { s with dt := { s.dt with armed := none, commit := some m } } else stepLapse s) := by
  show execStepCommit m s = _
  rw [execStepCommit, fabric_up s hu, h]

theorem exec_stepCommit_unarmed (m : StepMode) (hu : s.up = true) (h : s.dt.armed = none) :
    exec (.stepCommit m) s = .next (dtEvent s 5) := by
  show execStepCommit m s = _
  rw [execStepCommit, fabric_up s hu, h]

theorem exec_stepArmLapse {m : StepMode} {t : DWord} (hu : s.up = true) (h : s.dt.armed = some (m, t)) :
    exec .stepArmLapse s = .next (if armStale s m t then stepLapse s else s) := by
  show execStepArmLapse s = _
  rw [execStepArmLapse, fabric_up s hu, h]

/-- Dropping an armed step sets STEP_ABORT. -/
theorem stepLapse_aborts (h : s.dt.armed ≠ none) :
    (stepLapse s).dt = { s.dt with armed := none } ∧ rd (stepLapse s) R.dtEvent = rd s R.dtEvent ||| 0x20 :=
  ⟨stepLapse_dt, rd_stepLapse_armed h⟩

theorem armStale_of_recent {m : StepMode} {t : DWord} (h : (s.dt.now - t).toNat ≤ 1000000) (hr : m = .source → recentOffset s) :
    armStale s m t = false := by
  rw [Bool.eq_false_iff]
  exact fun hs => (armStale_iff.mp hs).elim (not_lt.mpr h) fun hm => hm.2 (hr hm.1)

end

theorem forced_steps_are_armed_then_committed : ruleForcedStepsAreArmedThenCommitted := by
  intro s hu abort recent
  refine ⟨fun m hm hr => stepArm_stands hu fun _ => hr, fun m hm => stepArm_stands hu fun h => absurd h hm, stepArm_lapses hu,
    fun m t ha ht hr => ⟨_, exec_stepCommit_armed m hu ha, if_pos ⟨rfl, armStale_of_recent ht hr⟩⟩,
    fun m m' t ha hm => ⟨_, exec_stepCommit_armed m hu ha, ?_⟩, fun m ha => ⟨_, exec_stepCommit_unarmed m hu ha, rfl, ?_⟩,
    fun k ha => ⟨_, if_pos hu, stepLapse_aborts ha⟩, fun hi v => ⟨_, if_pos hu, rd_wr_same _ _ _, stepLapse_dt, fun ha => ?_⟩,
    fun m t ha hs => ⟨_, exec_stepArmLapse hu ha, ?_⟩,
    fun m t ha ht hr => ⟨_, exec_stepArmLapse hu ha, if_neg (by simp [armStale_of_recent ht hr])⟩⟩
  · rw [if_neg fun h => hm h.1.symm]
    exact stepLapse_aborts (by simp [ha])
  · exact rd_dtEvent_same _
  · rw [rd_wr_other _ _ (by cases hi <;> decide)]
    exact rd_stepLapse_armed ha
  · rw [if_pos (armStale_iff.mpr hs)]
    exact stepLapse_aborts (by simp [ha])

theorem exec_timeStepped {s : State} {m : StepMode} (hu : s.up = true) (h : s.dt.commit = some m) :
    exec .timeStepped s = .next (applyCommit s m) := by
  show execTimeStepped s = _
  rw [execTimeStepped, fabric_up s hu, h]

/-- The amount and the mode of a committed step (R53). -/
def commitDelta (s : State) : StepMode → Int × Nat
  | .relative => ((rd64 s R.dtStepLo R.dtStepHi).toInt, 0)
  | .absolute => ((rd64 s R.dtStepLo R.dtStepHi).toNat - s.dt.now.toNat, 1)
  | .source => (-s.dt.offset, 2)

theorem applyCommit_eq (s : State) (m : StepMode) : applyCommit s m = stepDt s (commitDelta s m).1 (commitDelta s m).2 := by
  cases m <;> rfl

theorem now_add_commitDelta (s : State) (m : StepMode) : s.dt.now + BitVec.ofInt 64 (commitDelta s m).1 = match m with
    | .relative => s.dt.now + rd64 s R.dtStepLo R.dtStepHi
    | .absolute => rd64 s R.dtStepLo R.dtStepHi
    | .source => s.dt.now - BitVec.ofInt 64 s.dt.offset := by
  cases m with
  | relative => simp [commitDelta]
  | absolute =>
    simp only [commitDelta, Int.sub_eq_add_neg, BitVec.ofInt_add, BitVec.ofInt_neg, BitVec.ofInt_natCast, BitVec.ofNat_toNat, BitVec.setWidth_eq]
    rw [← BitVec.sub_eq_add_neg]
    exact add_sub_cancel _ _
  | source => exact add_ofInt_neg _ _

theorem committed_step_moves_device_time : ruleCommittedStepMovesDeviceTime := by
  intro s m hu hc
  refine ⟨_, exec_timeStepped hu hc, ?_⟩
  rw [applyCommit_eq]
  refine ⟨?_, ?_, ?_, ?_, ?_, ?_, ?_, rd_stepDt_event _ _, rd_stepDt_low _ _ (by decide) (by decide), stepDt_sameBytes _ _⟩
  all_goals rw [stepDt_dt]
  · exact now_add_commitDelta s m
  all_goals rfl

/-- Settles O14: every step of DT is one `stepDt`, the first offset's by −o, a committed one by what its mode asks. -/
theorem deviceTimeIsSteppedAsArmed : Obligations.DeviceTimeIsSteppedAsArmed :=
  ⟨first_offset_sets_device_time, forced_steps_are_armed_then_committed, committed_step_moves_device_time⟩

end Sys2Proof.Machine
end

section
/-! SUPPORT. Software latches and wake latches (R96, R103 to R105); O21. -/

namespace Sys2Proof.Machine
section
variable {s : State}

/-! ### Software latches (R96, R105) -/

/-- A bit of word `k` as a source. -/
theorem inSet_wordSet {k : Nat} (m : Word) {b : Nat} (hk : k < 16) (hb : b < 32) (h0 : 0 < 32 * k + b) :
    inSet (wordSet k m) (32 * k + b) = bit m b := by
  have h512 : 32 * k + b < 512 := by omega
  have hsub : 32 * k + b - 32 * k = b := by omega
  have hb512 : b < 512 := by omega
  have hzero : ¬ k = 0 ∨ ¬ b = 0 := by omega
  rw [inSet, wordSet, BitVec.getLsbD_and, BitVec.getLsbD_shiftLeft, BitVec.getLsbD_setWidth, BitVec.getLsbD_not,
    BitVec.getLsbD_one, hsub, bit]
  simpa [h512, hb512] using fun _ => hzero

theorem inSet_wordSet_other {k n : Nat} (m : Word) (h : n / 32 ≠ k) : inSet (wordSet k m) n = false := by
  rw [inSet, wordSet, BitVec.getLsbD_and, BitVec.getLsbD_shiftLeft, BitVec.getLsbD_setWidth]
  by_cases hn : n < 32 * k
  · simp [hn]
  · have hbit : m.getLsbD (n - 32 * k) = false := BitVec.getLsbD_of_ge _ _ (by omega)
    simp [hbit]

theorem inSet_or (a b : BitVec 512) (n : Nat) : inSet (a ||| b) n = (inSet a n || inSet b n) := BitVec.getLsbD_or

theorem inSet_diff (a b : BitVec 512) (n : Nat) : inSet (a &&& ~~~b) n = (inSet a n && !inSet b n) := by
  by_cases h : n < 512
  · simp [inSet, h]
  · simp [inSet, BitVec.getLsbD_of_ge _ _ (not_lt.mp h)]

theorem exec_pendSet {who : Agent} (k : Fin 16) (m : Word) (hu : s.up = true) (h : who ≠ .host) : exec (.evcPendSet who k m) s =
    .next { s with evc := { s.evc with latch := s.evc.latch ||| wordSet k.val m } } := by
  show execEvcPendSet who k m s = _
  rw [execEvcPendSet, fabric_up s hu, if_neg h]

theorem exec_pendClr {who : Agent} (k : Fin 16) (m : Word) (hu : s.up = true) (h : who ≠ .host) : exec (.evcPendClr who k m) s =
    .next { s with evc := { s.evc with latch := s.evc.latch &&& ~~~(wordSet k.val m) } } := by
  show execEvcPendClr who k m s = _
  rw [execEvcPendClr, fabric_up s hu, if_neg h]

theorem rd_errFree_same {e i : Nat} (b : Nat) (w : Word) (h : e ≠ i) : rd (errFree s e b i w) e = rd s e ||| bitW b :=
  rd_errInfo_same { s with fresh := s.fresh + 1 } b _ h

theorem evcHostWr_flagged : rd (evcHostWr s) R.evcErr = rd s R.evcErr ||| 2 ∧ (evcHostWr s).evc = s.evc :=
  ⟨rd_errFree_same 1 _ (by decide), by simp [evcHostWr]⟩

end

theorem software_latches : ruleSoftwareLatches := by
  intro s who k m hu
  refine ⟨fun hw b hb h0 => ⟨⟨_, exec_pendSet k m hu hw, ?_, rfl⟩, ⟨_, exec_pendClr k m hu hw, ?_, rfl⟩⟩,
    fun hw n hn => ⟨⟨_, exec_pendSet k m hu hw, ?_⟩, ⟨_, exec_pendClr k m hu hw, ?_⟩⟩, ?_⟩
  · rw [inSet_or, inSet_wordSet m k.isLt hb h0]
  · rw [inSet_diff, inSet_wordSet m k.isLt hb h0]
  · exact (inSet_or _ _ n).trans (by rw [inSet_wordSet_other m hn, Bool.or_false])
  · exact (inSet_diff _ _ n).trans (by rw [inSet_wordSet_other m hn, Bool.not_false, Bool.and_true])
  · rintro rfl
    exact ⟨⟨_, if_pos hu, evcHostWr_flagged⟩, ⟨_, if_pos hu, evcHostWr_flagged⟩⟩

section
variable {s : State}
/-! ### Wake latches (R103, R104) -/

theorem exec_wakeEdge (src : BitVec 9) : exec (.wakeEdge src) s = .next (if !wakeCapable src.toNat then s
    else if s.evc.wakeArmed then
      (if inSet s.evc.wakeMask src.toNat then { s with evc := { s.evc with wake := addSet s.evc.wake src.toNat } } else s)
    else if s.up && edgeSource s src.toNat then raiseEdge s src.toNat else s) := rfl

theorem exec_wakeEdge_level {src : BitVec 9} (hc : wakeCapable src.toNat = true) (ha : s.evc.wakeArmed = false) (hu : s.up = true)
    (he : edgeSource s src.toNat = true) : exec (.wakeEdge src) s = .next (raiseEdge s src.toNat) := by
  rw [exec_wakeEdge, hc, ha, hu, he]
  rfl

theorem edgeSource_trig (p : Fin 16) : edgeSource s (13 + p.val) = rb s (R.sgTrigCfg p.val) 0 := by
  have h1 : 13 + p.val ≠ 12 := by omega
  have h2 : 13 ≤ 13 + p.val ∧ 13 + p.val ≤ 28 := by omega
  rw [edgeSource, if_neg h1, if_pos h2, Nat.add_sub_cancel_left]

theorem evcLevel_of_held {n : Nat} (h : inSet s.evc.held n = true) : evcLevel s n = true := by
  simp [evcLevel, h]

end

theorem wake_latches : ruleWakeLatches := by
  intro s src
  have h512 : src.toNat < 512 := src.isLt
  refine ⟨fun hc ha hm => ⟨_, exec_wakeEdge src, ?_⟩, fun hc ha hm => ⟨_, exec_wakeEdge src, ?_⟩,
    fun hc ha hn => ⟨_, exec_wakeEdge src, ?_⟩, ⟨rfl, edgeSource_trig, rfl, rfl, rfl, rfl⟩,
    fun hc ha hu he hact => ⟨_, exec_wakeEdge_level hc ha hu he, ?_⟩, fun hc => ⟨_, exec_wakeEdge src, ?_⟩,
    fun hu => ⟨_, if_pos hu, fun n hn => ?_, rfl, rfl, rfl⟩⟩
  · rw [hc, ha, hm]
    exact ⟨inSet_addSet_same _ h512, fun n _ hn => inSet_addSet_other _ hn, rfl⟩
  · simp [hc, ha, hm]
  · rcases hn with hn | hn <;> simp [hc, ha, hn]
  · have hw : ¬ (s.evc.wakeArmed && inSet s.evc.wakeMask src.toNat) = true := by simp [ha]
    rw [raiseEdge_held hw hact]
    exact ⟨evcLevel_of_held (inSet_addSet_same _ h512), rfl⟩
  · simp [hc]
  · exact evcLevel_of_held (by simp [inSet_or, hn])

/-- Settles O21: a software latch is a bit of `wordSet`, a wake latch one that `raiseEdge` or the edge itself adds. -/
theorem latchesAreSetAndTaken : Obligations.LatchesAreSetAndTaken := ⟨software_latches, wake_latches⟩

end Sys2Proof.Machine
end

section
/-! SUPPORT. A state in which disarming a gate in the cycle of its dispatch loses the count of its firing; O15. -/

namespace Sys2Proof.Machine

/-- A running table of start gates whose gate 0 is armed and due for a pulse on pin 483, beyond the 16 pins: its stamp lies where
SG_GATE0_FIRES does. -/
def pulseBeyondPins : State :=
  { State.reset with
    up := true
    regs := [(R.sgCtrl, 1), (R.sgGateCtrl 0, 0x9), (R.sgGatePt 0, 0x01E30000)]
    sg := { State.reset.sg with due := [⟨0, 0, false⟩] } }

theorem stamp_of_pin_483_is_fires : R.sgTrigStampHi 483 = R.sgGateFires 0 := by decide

/-- The pulse's stamp overwrites the count of the firing. -/
theorem disarm_of_pulseBeyondPins : exec (.gateDisarm .firmware 0 8 true) pulseBeyondPins =
    .next (disarmGate (fireGate pulseBeyondPins ⟨0, 0, false⟩) 0) := by rfl

theorem rd_fires_of_pulseBeyondPins :
    rd (disarmGate (fireGate pulseBeyondPins ⟨0, 0, false⟩) 0) (R.sgGateFires 0) = 0 := by decide

/-- Refutes O15: a gate armed for a pulse on a pin beyond the sixteen stamps it over its own SG_GATE_FIRES, so the firing is not
counted. No arm that the model accepts leads there, but the statement speaks of every state. -/
theorem not_gatesAreArmedAndDisarmed : ¬ Obligations.GatesAreArmedAndDisarmed := by
  intro h
  obtain ⟨-, hfires, -⟩ := h.2 pulseBeyondPins .firmware 0 8 rfl (.inl (by decide)) (by decide) (by decide)
  obtain ⟨t, ht, -, -, hcount⟩ := hfires (by decide) (by decide) (by decide) (by decide)
  rw [disarm_of_pulseBeyondPins] at ht
  obtain rfl := Host.Outcome.next.inj ht
  exact absurd (rd_fires_of_pulseBeyondPins.symm.trans hcount) (by decide)

end Sys2Proof.Machine
end

section
/-! SUPPORT. Fields of a word, and how start gates fall due (R60, R75). -/

namespace Sys2Proof.Machine
section
variable {s : State}

/-! ### Fields of a word -/

/-- A field replaced holds the value; the other bits stand. -/
theorem getLsbD_setFld {w : Word} {hi lo v i : Nat} (hhi : hi < 32) (hlo : lo ≤ hi) :
    (setFld w hi lo v).getLsbD i = if lo ≤ i ∧ i ≤ hi then v.testBit (i - lo) else w.getLsbD i := by
  by_cases h32 : i < 32
  · simp only [setFld, BitVec.getLsbD_or, BitVec.getLsbD_and, BitVec.getLsbD_not, BitVec.getLsbD_ofNat, h32, decide_true,
      Bool.true_and, Nat.testBit_mul_two_pow, Nat.testBit_two_pow_sub_one, Nat.testBit_mod_two_pow]
    by_cases hin : lo ≤ i ∧ i ≤ hi
    · have hlt : i - lo < hi + 1 - lo := by omega
      simp [hin, hlt]
    · have hlt : lo ≤ i → ¬ i - lo < hi + 1 - lo := by omega
      rw [if_neg hin]
      by_cases h1 : lo ≤ i
      · simp [h1, hlt h1]
      · simp [h1]
  · rw [BitVec.getLsbD_of_ge _ _ (by omega), BitVec.getLsbD_of_ge _ _ (by omega), if_neg (by omega)]

theorem testBit_fld (w : Word) (hi lo i : Nat) : (fld w hi lo).testBit i = (decide (i < hi + 1 - lo) && w.getLsbD (lo + i)) := by
  rw [fld, Nat.testBit_mod_two_pow, Nat.testBit_div_two_pow, BitVec.testBit_toNat, Nat.add_comm lo i]

/-- A field whose bits stand reads the same. -/
theorem fld_congr {w x : Word} {hi lo : Nat} (h : ∀ i, lo ≤ i → i ≤ hi → w.getLsbD i = x.getLsbD i) : fld w hi lo = fld x hi lo := by
  apply Nat.eq_of_testBit_eq
  intro i
  rw [testBit_fld, testBit_fld]
  by_cases hi' : i < hi + 1 - lo
  · rw [h _ (by omega) (by omega)]
  · simp [hi']

theorem bit_setFld_same {w : Word} {i : Nat} (v : Bool) (h : i < 32) : bit (setFld w i i v.toNat) i = v := by
  rw [bit, getLsbD_setFld h le_rfl, if_pos ⟨le_rfl, le_rfl⟩, Nat.sub_self]
  cases v <;> rfl

theorem bit_setFld_other {w : Word} {i j : Nat} (v : Nat) (h : i < 32) (hj : j ≠ i) : bit (setFld w i i v) j = bit w j := by
  rw [bit, getLsbD_setFld h le_rfl, if_neg (by omega), bit]

/-! ### Gates fall due (R60, R75) -/

theorem exec_gateDue (n : Fin 512) (hu : s.up = true) (ha : rb s (R.sgGateCtrl n.val) 0 = true) (hd : isDue s n.val = false) :
    exec (.gateDue n) s = .next (if (gateFire s n.val).toNat ≤ s.dt.now.toNat + gateComp s n.val
      then { s with sg := { s.sg with due := s.sg.due ++ [⟨n.val, s.dt.now, false⟩] } } else s) := by
  show execGateDue n s = _
  simp only [execGateDue, fabric_up s hu, gateArmed, ha, hd, Bool.not_false, Bool.true_and, decide_eq_true_eq]
  rfl

theorem gateComp_of_action {n a : Nat} (h : gateAction s n = a) (h2 : a ≠ 2) : gateComp s n = compFixed a := by
  rw [gateComp, h, if_neg h2, Nat.add_zero]

/-- The due gates as setting RUN finds them: each due from this cycle on (R75). -/
def redated (s : State) (v : Word) : State :=
  setSg (wr s R.sgCtrl (v &&& 1)) fun g => { g with due := g.due.map fun d => { d with dueDt := s.dt.now } }

theorem exec_sgRun_set {v : Word} (hu : s.up = true) (hv : bit v 0 = true) (hr : rb s R.sgCtrl 0 = false) :
    exec (.sgRun v) s = .next (passOver (redated s v) s.dt.now) := by
  show execSgRun v s = _
  simp only [execSgRun, fabric_up s hu, hv, hr]
  rfl

theorem exec_sgRun_clear {v : Word} (hu : s.up = true) (hv : bit v 0 = false) :
    exec (.sgRun v) s = .next (wr s R.sgCtrl (v &&& 1)) := by
  show execSgRun v s = _
  simp only [execSgRun, fabric_up s hu, hv]
  rfl

/-- An armed gate whose FIRE has passed is due once, flagged as passed (R65, R75). -/
theorem passOver_passed {t : DWord} {n : Nat} (hn : n < 512) (ha : rb s (R.sgGateCtrl n) 0 = true)
    (hf : (gateFire s n).toNat < t.toNat) : (⟨n, t, true⟩ : DueGate) ∈ (passOver s t).sg.due := by
  refine List.mem_append_right _ (List.mem_map.mpr ⟨n, List.mem_filter.mpr ⟨List.mem_filter.mpr ⟨List.mem_range.mpr hn, ha⟩, ?_⟩, rfl⟩)
  exact decide_eq_true hf

theorem passOver_dueDt {t : DWord} (h : ∀ d ∈ s.sg.due, d.dueDt = t) : ∀ d ∈ (passOver s t).sg.due, d.dueDt = t := by
  intro d hd
  rcases List.mem_append.mp hd with hd | hd
  · exact h d (List.mem_filter.mp hd).1
  · obtain ⟨n, -, rfl⟩ := List.mem_map.mp hd
    rfl

theorem rd_redated_other {a : Nat} (v : Word) (h : a ≠ R.sgCtrl) : rd (redated s v) a = rd s a := rd_wr_other s _ h

end

theorem gates_fall_due : ruleGatesFallDue := by
  intro s hu
  refine ⟨fun n ha hd => ⟨fun h => ⟨_, exec_gateDue n hu ha hd, if_pos h⟩, fun h => ⟨_, exec_gateDue n hu ha hd, if_neg (not_le.mpr h)⟩⟩,
    fun n h => gateComp_of_action h (by decide), fun n h => gateComp_of_action h (by decide), fun n h => by rw [gateComp, h, if_pos rfl]; rfl,
    fun n h => gateComp_of_action h (by decide), fun n h => gateComp_of_action h (by decide),
    fun v hv => ⟨_, exec_sgRun_clear hu hv, rfl⟩, fun v hv hr => ⟨_, exec_sgRun_set hu hv hr, ?_, fun n ha hf => ?_, ?_⟩⟩
  · have hone : v &&& 1 = 1 := by
      apply BitVec.eq_of_getLsbD_eq
      intro i hi
      by_cases h0 : i = 0
      · simpa [bit, h0] using hv
      · simp [h0]
    exact (rd_wr_same s R.sgCtrl _).trans hone
  · refine ⟨_, passOver_passed (s := redated s v) n.isLt ?_ ?_, rfl, rfl⟩
    · rw [rb, rd_redated_other v (by simp only [R.sgGateCtrl, R.sgCtrl]; omega)]
      exact ha
    · rw [gateFire, rd64, rd_redated_other v (by simp only [R.sgGateFireHi, R.sgCtrl]; omega),
        rd_redated_other v (by simp only [R.sgGateFireLo, R.sgCtrl]; omega)]
      exact hf
  · apply passOver_dueDt
    intro d hd
    obtain ⟨d', -, rfl⟩ := List.mem_map.mp hd
    rfl
end Sys2Proof.Machine
end

section
/-! SUPPORT. A semaphore gate's firing and the dispatch slots (R59, R61, R64). -/

namespace Sys2Proof.Machine
section
variable {s : State}

/-! ### A gate fires (R61, R64) -/

@[simp] theorem rd_setSg (f : Sg → Sg) (a : Nat) : rd (setSg s f) a = rd s a := rfl
@[simp] theorem setSg_sem (f : Sg → Sg) : (setSg s f).sem = s.sem := rfl
@[simp] theorem setSg_dt (f : Sg → Sg) : (setSg s f).dt = s.dt := rfl
@[simp] theorem setSg_sg (f : Sg → Sg) : (setSg s f).sg = f s.sg := rfl

theorem bit_clear_same {w : Word} {i : Nat} (h : i < 32) : bit (setFld w i i 0) i = false := bit_setFld_same false h

/-- The gate has taken its slot; its firing is counted and flagged, late where `l`, delayed where `y`. -/
def firingNoted (s : State) (n : Nat) (l y : Bool) : State :=
  let s1 := setSg s fun g => { g with
    due := g.due.filter fun x => x.gate != n, fired := firedNow s ++ [n], slotDt := s.dt.now }
  let s2 := wf (wf (bumpWrap s1 (R.sgGateFires n)) (R.sgGateCtrl n) 7 7 l.toNat) (R.sgGateCtrl n) 6 6 y.toNat
  when l (fun s => bump s R.sgLateCnt) (when y (fun s => bump s R.sgDelayCnt) s2)

/-- A firing of a semaphore gate, in the state that has noted it. -/
def semaphoreFired (s : State) (n : Nat) : State := semAddOp s 0 (gateTarget s n) (rd s (R.sgGateArg n))

/-- What follows the action: the next fire time of a periodic gate, else the gate is disarmed (R64). -/
def rearmed (s : State) (periodic : Bool) (n k : Nat) : State :=
  if periodic then advanceGate s n k else wf s (R.sgGateCtrl n) 0 0 0

theorem OnlyRegs.bumpWhen {r t : State} (h : OnlyRegs r t) (c : Bool) (a : Nat) : OnlyRegs r (Machine.when c (fun s => Machine.bump s a) t) :=
  h.when fun h => h.wr a _

theorem firingNoted_onlyRegs (n : Nat) (l y : Bool) : OnlyRegs (setSg s fun g => { g with
    due := g.due.filter fun x => x.gate != n, fired := firedNow s ++ [n], slotDt := s.dt.now }) (firingNoted s n l y) :=
  ((((OnlyRegs.refl.wr _ _).wr _ _).wr _ _).bumpWhen y _).bumpWhen l _

theorem rd_firingNoted_other {n a : Nat} (l y : Bool) (hf : a ≠ R.sgGateFires n) (hc : a ≠ R.sgGateCtrl n) (hl : a ≠ R.sgLateCnt)
    (hd : a ≠ R.sgDelayCnt) : rd (firingNoted s n l y) a = rd s a := by
  cases l <;> cases y <;>
    simp [firingNoted, when, rd_bump_other, rd_wf_other, rd_bumpWrap_other, hf, hc, hl, hd]

theorem rd_firingNoted_fires (n : Nat) (l y : Bool) :
    rd (firingNoted s n l y) (R.sgGateFires n) = rd s (R.sgGateFires n) + 1 := by
  have h1 : R.sgGateFires n ≠ R.sgLateCnt := by simp only [R.sgGateFires, R.sgLateCnt]; omega
  have h2 : R.sgGateFires n ≠ R.sgDelayCnt := by simp only [R.sgGateFires, R.sgDelayCnt]; omega
  cases l <;> cases y <;> simp [firingNoted, when, rd_bump_other, rd_wf_other, h1, h2]

theorem rd_firingNoted_ctrl (n : Nat) (l y : Bool) : rd (firingNoted s n l y) (R.sgGateCtrl n) =
    setFld (setFld (rd s (R.sgGateCtrl n)) 7 7 l.toNat) 6 6 y.toNat := by
  have h1 : R.sgGateCtrl n ≠ R.sgLateCnt := by simp only [R.sgGateCtrl, R.sgLateCnt]; omega
  have h2 : R.sgGateCtrl n ≠ R.sgDelayCnt := by simp only [R.sgGateCtrl, R.sgDelayCnt]; omega
  cases l <;> cases y <;> simp [firingNoted, when, rd_bump_other, rd_bumpWrap_other, h1, h2]

/-- The flags of a firing are bits 7 and 6: the action reads as before. -/
theorem gateAction_firingNoted (n : Nat) (l y : Bool) : gateAction (firingNoted s n l y) n = gateAction s n := by
  rw [gateAction, rf, rd_firingNoted_ctrl]
  refine fld_congr fun i _ hi => ?_
  rw [getLsbD_setFld (by decide) le_rfl, if_neg (by omega), getLsbD_setFld (by decide) le_rfl, if_neg (by omega)]

/-- R74: a firing is late where its gate was passed over or its dispatch was held back by more than 40 ns. -/
def firesLate (s : State) (d : DueGate) : Bool :=
  d.passed || decide ((gateFire s d.gate).toNat + 40 < s.dt.now.toNat + compFixed (gateAction s d.gate))

/-- A gate's firing: its note, its action, its next fire time, and the descriptors held for it. -/
theorem fireGate_of_act {d : DueGate} {t : State} {failed : Bool}
    (h : gateAct (firingNoted s d.gate (firesLate s d) (d.dueDt != s.dt.now)) d.gate = (t, failed)) : fireGate s d =
    releaseGate (rearmed (when failed (fun s => sgErr s 2 d.gate) t) (gatePeriodic s d.gate) d.gate (gateAdvance s d.gate d))
      d.gate true := by
  simp only [firingNoted, firesLate] at h
  simp only [fireGate, h, rearmed]

theorem gateAct_semaphore {n : Nat} (h : gateAction s n = 1) : gateAct s n = (semaphoreFired s n, false) := by
  simp only [gateAct, h]
  rfl

theorem fireGate_semaphore {d : DueGate} (h : gateAction s d.gate = 1) : fireGate s d =
    releaseGate (rearmed (semaphoreFired (firingNoted s d.gate (firesLate s d) (d.dueDt != s.dt.now)) d.gate)
      (gatePeriodic s d.gate) d.gate (gateAdvance s d.gate d)) d.gate true := by
  rw [fireGate_of_act (gateAct_semaphore ((gateAction_firingNoted _ _ _).trans h)), when, if_neg Bool.false_ne_true]

/-! ### The next fire time (R64) -/

/-- The fire time of a gate with its phase, in 2^−16 ns. -/
def fireTime (s : State) (n : Nat) : Nat := (gateFire s n).toNat * 65536 + gatePhase s n

theorem gateAdvance_once {n : Nat} {d : DueGate} (hp : d.passed = false) (hd : d.dueDt = s.dt.now) : gateAdvance s n d = 1 := by
  by_cases h0 : gatePeriod s n = 0 <;> simp [gateAdvance, hp, hd, h0]

theorem rd_advanceGate_other {n a : Nat} (k : Nat) (h1 : a ≠ R.sgGateFireLo n) (h2 : a ≠ R.sgGateFireHi n)
    (h3 : a ≠ R.sgGateSkips n) (h4 : a ≠ R.sgSkipCnt) : rd (advanceGate s n k) a = rd s a := by
  rw [advanceGate, rd_bumpN_other _ _ h4, rd_bumpN_other _ _ h3, rd_setSg, rd_wr_other _ _ h2, rd_wr_other _ _ h1]

theorem join64_halves (v : DWord) : join64 (hi32 v) (lo32 v) = v := by
  apply BitVec.eq_of_toNat_eq
  have hv := v.isLt
  simp only [join64, hi32, lo32, BitVec.toNat_append, BitVec.toNat_setWidth, BitVec.toNat_ushiftRight]
  rw [← Nat.shiftLeft_add_eq_or_of_lt (Nat.mod_lt _ (by decide)), Nat.shiftLeft_eq, Nat.shiftRight_eq_div_pow]
  omega

theorem gateFire_advanceGate (n k : Nat) : gateFire (advanceGate s n k) n =
    BitVec.ofNat 64 ((fireTime s n + k * gatePeriod s n) / 65536) := by
  have hlo1 : R.sgGateFireLo n ≠ R.sgSkipCnt := by simp only [R.sgGateFireLo, R.sgSkipCnt]; omega
  have hlo2 : R.sgGateFireLo n ≠ R.sgGateSkips n := by simp only [R.sgGateFireLo, R.sgGateSkips]; omega
  have hlo3 : R.sgGateFireLo n ≠ R.sgGateFireHi n := by simp only [R.sgGateFireLo, R.sgGateFireHi]; omega
  have hhi1 : R.sgGateFireHi n ≠ R.sgSkipCnt := by simp only [R.sgGateFireHi, R.sgSkipCnt]; omega
  have hhi2 : R.sgGateFireHi n ≠ R.sgGateSkips n := by simp only [R.sgGateFireHi, R.sgGateSkips]; omega
  have hlo : rd (advanceGate s n k) (R.sgGateFireLo n) = lo32 (BitVec.ofNat 64 ((fireTime s n + k * gatePeriod s n) / 65536)) := by
    rw [advanceGate, rd_bumpN_other _ _ hlo1, rd_bumpN_other _ _ hlo2, rd_setSg, rd_wr_other _ _ hlo3, rd_wr_same]
    rfl
  have hhi : rd (advanceGate s n k) (R.sgGateFireHi n) = hi32 (BitVec.ofNat 64 ((fireTime s n + k * gatePeriod s n) / 65536)) := by
    rw [advanceGate, rd_bumpN_other _ _ hhi1, rd_bumpN_other _ _ hhi2, rd_setSg, rd_wr_same]
    rfl
  rw [gateFire, rd64, hlo, hhi, join64_halves]

theorem gatePhase_advanceGate (n k : Nat) : gatePhase (advanceGate s n k) n = (fireTime s n + k * gatePeriod s n) % 65536 := by
  have hphase : tabGet 0 (advanceGate s n k).sg.phase n = BitVec.ofNat 16 ((fireTime s n + k * gatePeriod s n) % 65536) := by
    simp only [advanceGate, bumpN_sg, setSg]
    exact tabGet_set_same _ _ _ _
  rw [gatePhase, hphase, BitVec.toNat_ofNat]
  exact Nat.mod_mod _ _
/-! ### A semaphore gate's firing as a whole -/

@[simp] theorem rd_releaseGate (n a : Nat) (f : Bool) : rd (releaseGate s n f) a = rd s a := rfl
@[simp] theorem gateFire_releaseGate (n m : Nat) (f : Bool) : gateFire (releaseGate s n f) m = gateFire s m := rfl
@[simp] theorem gatePhase_releaseGate (n m : Nat) (f : Bool) : gatePhase (releaseGate s n f) m = gatePhase s m := rfl

theorem rd_semaphoreFired {a : Nat} (n : Nat) (h : a < 0x30000) : rd (semaphoreFired s n) a = rd s a :=
  rd_semAddOp_other s _ _ _ (by simp only [R.semOvfCnt]; omega) (by simp only [R.semStatus]; omega)
    (by simp only [R.semErrIdx]; omega)

/-- The words of the entry between its control and its count stand through the note of the firing. -/
theorem rd_firingNoted_between {n a : Nat} (l y : Bool) (h1 : R.sgGateCtrl n < a) (h2 : a < R.sgGateFires n) :
    rd (firingNoted s n l y) a = rd s a :=
  rd_firingNoted_other l y h2.ne h1.ne' (by simp only [R.sgGateCtrl, R.sgLateCnt] at *; omega)
    (by simp only [R.sgGateCtrl, R.sgDelayCnt] at *; omega)

/-- The gate's state when its semaphore has been added to, before the next fire time. -/
def gateAdded (s : State) (n : Nat) (l : Bool) : State := semaphoreFired (firingNoted s n l false) n

theorem rd_gateAdded_between {n a : Nat} (l : Bool) (hn : n < 512) (h1 : R.sgGateCtrl n < a) (h2 : a < R.sgGateFires n) :
    rd (gateAdded s n l) a = rd s a := by
  rw [gateAdded, rd_semaphoreFired n (by simp only [R.sgGateFires] at h2; omega), rd_firingNoted_between l false h1 h2]

theorem gateFire_gateAdded {n : Nat} (l : Bool) (hn : n < 512) : gateFire (gateAdded s n l) n = gateFire s n := by
  rw [gateFire, rd64, rd_gateAdded_between l hn (by simp only [R.sgGateCtrl, R.sgGateFireHi]; omega)
      (by simp only [R.sgGateFires, R.sgGateFireHi]; omega),
    rd_gateAdded_between l hn (by simp only [R.sgGateCtrl, R.sgGateFireLo]; omega)
      (by simp only [R.sgGateFires, R.sgGateFireLo]; omega)]
  rfl

theorem gatePeriod_gateAdded {n : Nat} (l : Bool) (hn : n < 512) : gatePeriod (gateAdded s n l) n = gatePeriod s n := by
  rw [gatePeriod, rf, rd_gateAdded_between l hn (by simp only [R.sgGateCtrl, R.sgGatePeriodNs]; omega)
      (by simp only [R.sgGateFires, R.sgGatePeriodNs]; omega),
    rd_gateAdded_between l hn (by simp only [R.sgGateCtrl, R.sgGatePt]; omega)
      (by simp only [R.sgGateFires, R.sgGatePt]; omega)]
  rfl

theorem gateAdded_sg (n : Nat) (l : Bool) : (gateAdded s n l).sg = { s.sg with
    due := s.sg.due.filter fun x => x.gate != n, fired := firedNow s ++ [n], slotDt := s.dt.now } := by
  obtain ⟨r, h⟩ := firingNoted_onlyRegs (s := s) n l false
  simp [gateAdded, semaphoreFired, h, setSg]

theorem gateAdded_dt (n : Nat) (l : Bool) : (gateAdded s n l).dt = s.dt := by
  obtain ⟨r, h⟩ := firingNoted_onlyRegs (s := s) n l false
  simp [gateAdded, semaphoreFired, h, setSg]

theorem gateTarget_firingNoted {n : Nat} (l y : Bool) : gateTarget (firingNoted s n l y) n = gateTarget s n := by
  rw [gateTarget, rf, rd_firingNoted_between l y (by simp only [R.sgGateCtrl, R.sgGatePt]; omega)
    (by simp only [R.sgGateFires, R.sgGatePt]; omega)]
  rfl

theorem semCount_firingNoted (n i : Nat) (l y : Bool) : semCount (firingNoted s n l y) i = semCount s i := by
  obtain ⟨r, h⟩ := firingNoted_onlyRegs (s := s) n l y
  rw [h]
  rfl

theorem rd_arg_firingNoted (n : Nat) (l y : Bool) : rd (firingNoted s n l y) (R.sgGateArg n) = rd s (R.sgGateArg n) :=
  rd_firingNoted_between l y (by simp only [R.sgGateCtrl, R.sgGateArg]; omega) (by simp only [R.sgGateFires, R.sgGateArg]; omega)

theorem semCount_gateAdded_target (n : Nat) (l : Bool) : (semCount (gateAdded s n l) (gateTarget s n)).toNat =
    min ((semCount s (gateTarget s n)).toNat + (rd s (R.sgGateArg n)).toNat) 0xFFFFFFFF := by
  rw [gateAdded, semaphoreFired, gateTarget_firingNoted, semCount_add_same, semCount_firingNoted, rd_arg_firingNoted,
    BitVec.toNat_ofNat]
  exact Nat.mod_eq_of_lt (by omega)

theorem semCount_gateAdded_other {n j : Nat} (l : Bool) (h : j ≠ gateTarget s n) :
    semCount (gateAdded s n l) j = semCount s j := by
  rw [gateAdded, semaphoreFired, gateTarget_firingNoted, semCount_add_other _ _ _ h, semCount_firingNoted]

theorem rd_gateAdded_fires {n : Nat} (l : Bool) (hn : n < 512) :
    rd (gateAdded s n l) (R.sgGateFires n) = rd s (R.sgGateFires n) + 1 := by
  rw [gateAdded, rd_semaphoreFired n (by simp only [R.sgGateFires]; omega), rd_firingNoted_fires]

theorem rd_gateAdded_ctrl {n : Nat} (l : Bool) (hn : n < 512) : rd (gateAdded s n l) (R.sgGateCtrl n) =
    setFld (setFld (rd s (R.sgGateCtrl n)) 7 7 l.toNat) 6 6 0 := by
  rw [gateAdded, rd_semaphoreFired n (by simp only [R.sgGateCtrl]; omega), rd_firingNoted_ctrl]
  rfl

/-! #### What follows the action -/

theorem advanceGate_sem (n k : Nat) : (advanceGate s n k).sem = s.sem := by
  rw [advanceGate, bumpN_sem, bumpN_sem, setSg_sem, wr_sem, wr_sem]

theorem advanceGate_dt (n k : Nat) : (advanceGate s n k).dt = s.dt := by
  rw [advanceGate, bumpN_dt, bumpN_dt, setSg_dt, wr_dt, wr_dt]

theorem advanceGate_sg (n k : Nat) : ∃ p, (advanceGate s n k).sg = { s.sg with phase := p } := by
  rw [advanceGate, bumpN_sg, bumpN_sg, setSg_sg, wr_sg, wr_sg]
  exact ⟨_, rfl⟩

theorem rearmed_sem (p : Bool) (n k : Nat) : (rearmed s p n k).sem = s.sem := by
  cases p
  · exact wf_sem ..
  · exact advanceGate_sem n k

theorem rearmed_dt (p : Bool) (n k : Nat) : (rearmed s p n k).dt = s.dt := by
  cases p
  · exact wf_dt ..
  · exact advanceGate_dt n k

theorem rearmed_sg (p : Bool) (n k : Nat) : ∃ h, (rearmed s p n k).sg = { s.sg with phase := h } := by
  cases p
  · exact ⟨s.sg.phase, wf_sg ..⟩
  · exact advanceGate_sg n k

theorem rd_rearmed_fires (p : Bool) (n k : Nat) : rd (rearmed s p n k) (R.sgGateFires n) = rd s (R.sgGateFires n) := by
  cases p
  · exact rd_wf_other _ _ _ _ (by simp only [R.sgGateFires, R.sgGateCtrl]; omega)
  · exact rd_advanceGate_other k (by simp only [R.sgGateFires, R.sgGateFireLo]; omega)
      (by simp only [R.sgGateFires, R.sgGateFireHi]; omega) (by simp only [R.sgGateFires, R.sgGateSkips]; omega)
      (by simp only [R.sgGateFires, R.sgSkipCnt]; omega)

theorem rd_rearmed_ctrl (p : Bool) (n k : Nat) : rd (rearmed s p n k) (R.sgGateCtrl n) =
    if p then rd s (R.sgGateCtrl n) else setFld (rd s (R.sgGateCtrl n)) 0 0 0 := by
  cases p
  · exact rd_wf_same _ _ _ _ _
  · exact rd_advanceGate_other k (by simp only [R.sgGateCtrl, R.sgGateFireLo]; omega)
      (by simp only [R.sgGateCtrl, R.sgGateFireHi]; omega) (by simp only [R.sgGateCtrl, R.sgGateSkips]; omega)
      (by simp only [R.sgGateCtrl, R.sgSkipCnt]; omega)

theorem gateFire_rearmed_once (n k : Nat) : gateFire (rearmed s false n k) n = gateFire s n := by
  rw [gateFire, rd64, rearmed, if_neg Bool.false_ne_true, rd_wf_other _ _ _ _ (by simp only [R.sgGateFireHi, R.sgGateCtrl]; omega),
    rd_wf_other _ _ _ _ (by simp only [R.sgGateFireLo, R.sgGateCtrl]; omega)]
  rfl

theorem gatePhase_gateAdded (n : Nat) (l : Bool) : gatePhase (gateAdded s n l) n = gatePhase s n := by
  rw [gatePhase, gateAdded_sg]
  rfl

/-! #### The state that the firing leaves -/

/-- A due semaphore gate has fired: its action done, its next fire time set or the gate disarmed, its descriptors released. -/
def gateFired (s : State) (n : Nat) (l : Bool) : State :=
  releaseGate (rearmed (gateAdded s n l) (gatePeriodic s n) n 1) n true

theorem fireGate_in_its_cycle {d : DueGate} {n : Nat} (hn : d.gate = n) (ha : gateAction s n = 1) (hp : d.passed = false)
    (hd : d.dueDt = s.dt.now) : fireGate s d = gateFired s n (firesLate s d) := by
  subst hn
  rw [fireGate_semaphore ha, gateAdvance_once hp hd, bne_eq_false_iff_eq.mpr hd]
  rfl

theorem semCount_gateFired (n i : Nat) (l : Bool) : semCount (gateFired s n l) i = semCount (gateAdded s n l) i := by
  have hsem : (gateFired s n l).sem = (gateAdded s n l).sem := rearmed_sem _ _ _
  rw [semCount, hsem, semCount]

theorem gateFired_sg (n : Nat) (l : Bool) : ∃ p, (gateFired s n l).sg = { s.sg with
    phase := p, due := s.sg.due.filter fun x => x.gate != n, fired := firedNow s ++ [n], slotDt := s.dt.now } := by
  obtain ⟨p, hsg⟩ := rearmed_sg (s := gateAdded s n l) (gatePeriodic s n) n 1
  rw [gateAdded_sg] at hsg
  exact ⟨p, hsg⟩

theorem gateFired_dt (n : Nat) (l : Bool) : (gateFired s n l).dt = s.dt :=
  (rearmed_dt (s := gateAdded s n l) _ _ _).trans (gateAdded_dt n l)

theorem isDue_gateFired (n : Nat) (l : Bool) : isDue (gateFired s n l) n = false := by
  obtain ⟨p, h⟩ := gateFired_sg (s := s) n l
  simp [isDue, h]

theorem firedNow_gateFired (n : Nat) (l : Bool) : firedNow (gateFired s n l) = firedNow s ++ [n] := by
  obtain ⟨p, h⟩ := gateFired_sg (s := s) n l
  rw [firedNow, gateFired_dt, h]
  exact if_pos rfl

theorem rd_gateFired_fires {n : Nat} (l : Bool) (hn : n < 512) :
    rd (gateFired s n l) (R.sgGateFires n) = rd s (R.sgGateFires n) + 1 := by
  rw [gateFired, rd_releaseGate, rd_rearmed_fires, rd_gateAdded_fires l hn]

/-- DELAYED is bit 6 of the control word; the firing keeps ARMED, bit 0, of a periodic gate. -/
theorem bit_gateFired_ctrl {n i : Nat} (l : Bool) (hn : n < 512) (hi : i = 6 ∨ i = 0) : rb (gateFired s n l) (R.sgGateCtrl n) i =
    if i = 6 ∨ gatePeriodic s n = false then false else rb s (R.sgGateCtrl n) i := by
  rw [rb, gateFired, rd_releaseGate, rd_rearmed_ctrl, rd_gateAdded_ctrl l hn, rb]
  cases gatePeriodic s n <;> rcases hi with rfl | rfl <;>
    simp [bit_setFld_other, bit_clear_same]

end

/-! ### A dispatch slot (R61) -/

section
variable {s : State}


theorem canDispatch_iff {n : Nat} : canDispatch s n = true ↔
    rb s R.sgCtrl 0 = true ∧ (firedNow s).length < 4 ∧ ∀ d ∈ s.sg.due, n ≤ d.gate := by
  simp [canDispatch, and_assoc]

theorem exec_gateDispatch {n : Fin 512} {d : DueGate} (hu : s.up = true) (hd : s.sg.due.find? (fun x => x.gate == n.val) = some d) :
    exec (.gateDispatch n) s = .next (if canDispatch s n.val then fireGate s d else s) := by
  show execGateDispatch n s = _
  rw [execGateDispatch, fabric_up s hu, hd]

end

theorem due_gate_fires : ruleDueGateFires := by
  intro s n d hu hrun hd hleast
  have hgate : d.gate = n.val := by simpa using List.find?_some hd
  refine ⟨?_, fun hlen => ⟨_, exec_gateDispatch hu hd, if_neg fun h => absurd (canDispatch_iff.mp h).2.1 (not_lt.mpr hlen)⟩⟩
  intro hlen hact hp hnow i
  refine ⟨_, exec_gateDispatch hu hd, ?_⟩
  rw [if_pos (canDispatch_iff.mpr ⟨hrun, hlen, hleast⟩), fireGate_in_its_cycle hgate hact hp hnow]
  have hn := n.isLt
  refine ⟨?_, fun j hj => ?_, isDue_gateFired _ _, firedNow_gateFired _ _, rd_gateFired_fires _ hn, bit_gateFired_ctrl _ hn (.inl rfl),
    fun hper => ⟨?_, ?_⟩, fun hper => ⟨?_, ?_⟩⟩
  · rw [semCount_gateFired, semCount_gateAdded_target]
  · rw [semCount_gateFired, semCount_gateAdded_other _ hj]
  · rw [bit_gateFired_ctrl _ hn (.inr rfl), if_pos (.inr hper)]
  · rw [gateFired, hper, gateFire_releaseGate, gateFire_rearmed_once, gateFire_gateAdded _ hn]
  · rw [bit_gateFired_ctrl _ hn (.inr rfl), if_neg (by simp [hper])]
  · have hf : fireTime (gateAdded s n.val (firesLate s d)) n.val + 1 * gatePeriod (gateAdded s n.val (firesLate s d)) n.val =
        (gateFire s n.val).toNat * 65536 + gatePhase s n.val + gatePeriod s n.val := by
      rw [fireTime, gateFire_gateAdded _ hn, gatePhase_gateAdded, gatePeriod_gateAdded _ hn, Nat.one_mul]
    rw [gateFired, hper, gateFire_releaseGate, gatePhase_releaseGate, rearmed, if_pos rfl, gateFire_advanceGate,
      gatePhase_advanceGate, hf]
    exact ⟨rfl, rfl⟩

end Sys2Proof.Machine
end

section
/-! SUPPORT. Trigger pins (R69 to R71); O16. -/

namespace Sys2Proof.Machine
section
variable {s : State}

/-! ### Trigger pins (R69 to R71) -/

theorem exec_trigInputEdge {p : Fin 16} {r : Bool} (hu : s.up = true) (hi : rb s (R.sgTrigCfg p.val) 0 = true)
    (hr : r ≠ rb s (R.sgTrigCfg p.val) 1) :
    exec (.trigInputEdge p r) s = .next (raiseEdge (stampTrig s p.val s.dt.now) (13 + p.val)) := by
  show execTrigInputEdge p r s = _
  rw [execTrigInputEdge, fabric_up s hu, hi, bne_iff_ne.mpr hr]
  rfl

theorem exec_trigInputEdge_ignored {p : Fin 16} {r : Bool} (hu : s.up = true)
    (h : rb s (R.sgTrigCfg p.val) 0 = false ∨ r = rb s (R.sgTrigCfg p.val) 1) : exec (.trigInputEdge p r) s = .next s := by
  show execTrigInputEdge p r s = _
  rw [execTrigInputEdge, fabric_up s hu]
  rcases h with h | h <;> simp [h]

theorem exec_trigPulseEnd {p : Fin 16} (hu : s.up = true) (ha : (pulseOf s p.val).active = true) : exec (.trigPulseEnd p) s =
    .next (if (pulseOf s p.val).ends.toNat ≤ s.dt.now.toNat
      then setSg s fun g => { g with pulse := tabSet ⟨false, 0⟩ g.pulse p.val ⟨false, 0⟩ } else s) := by
  show execTrigPulseEnd p s = _
  simp only [execTrigPulseEnd, fabric_up s hu, ha, true_and]

theorem stampTrig_stamp (p : Nat) (t : DWord) : tabGet 0 (stampTrig s p t).sg.stamp p = t := tabGet_set_same _ _ _ _

theorem stampTrig_evc (p : Nat) (t : DWord) : (stampTrig s p t).evc = s.evc := rfl

theorem stampTrig_dt (p : Nat) (t : DWord) : (stampTrig s p t).dt = s.dt := rfl

theorem rd64_stampTrig (p : Nat) (t : DWord) : rd64 (stampTrig s p t) (R.sgTrigStampLo p) (R.sgTrigStampHi p) = t := by
  have hne : R.sgTrigStampLo p ≠ R.sgTrigStampHi p := by simp only [R.sgTrigStampLo, R.sgTrigStampHi]; omega
  rw [rd64, stampTrig, rd_wr_same, rd_wr_other _ _ hne, rd_wr_same, join64_halves]

theorem rd_stampTrig_other {p a : Nat} (t : DWord) (hl : a ≠ R.sgTrigStampLo p) (hh : a ≠ R.sgTrigStampHi p) :
    rd (stampTrig s p t) a = rd s a := by
  rw [stampTrig, rd_wr_other _ _ hh, rd_wr_other _ _ hl, rd_setSg]

theorem stampTrig_sameBytes {p : Nat} (hp : p < 16) (t : DWord) : SameBytes s (stampTrig s p t) :=
  sameBytes_of_redirect (fun k _ => rd_stampTrig_other t (by simp only [R.memRedir, R.sgTrigStampLo]; omega)
    (by simp only [R.memRedir, R.sgTrigStampHi]; omega)) rfl rfl rfl

theorem raiseEdge_sameBytes (n : Nat) : SameBytes s (raiseEdge s n) :=
  sameBytes_of_regs (raiseEdge_regs s n) (raiseEdge_mem s n) (raiseEdge_heldWrites s n) (by rw [raiseEdge_sem])

end

theorem trigger_pins : ruleTriggerPins := by
  intro s p hu
  have h512 : 13 + p.val < 512 := by omega
  refine ⟨fun r hi hr => ⟨_, exec_trigInputEdge hu hi hr, ?_, ?_, fun ha hw => ?_, ?_, fun a => ?_⟩,
    fun r h => ⟨_, exec_trigInputEdge_ignored hu h, rfl⟩, fun ha he => ⟨_, exec_trigPulseEnd hu ha, ?_⟩,
    fun ha he => ⟨_, exec_trigPulseEnd hu ha, if_neg (not_le.mpr he)⟩⟩
  · rw [raiseEdge_sg, stampTrig_stamp]
  · rw [rd64, rd_raiseEdge, rd_raiseEdge]
    exact rd64_stampTrig _ _
  · rw [raiseEdge_held (s := stampTrig s p.val s.dt.now) (by rw [stampTrig_evc, hw]; exact Bool.false_ne_true) ha]
    exact evcLevel_of_held (inSet_addSet_same _ h512)
  · rw [raiseEdge_dt, stampTrig_dt]
  · rw [raiseEdge_sameBytes, stampTrig_sameBytes p.isLt]
  · rw [if_pos he]
    refine ⟨?_, fun q hq => ?_, rfl⟩
    · rw [pulseOf, setSg_sg, tabGet_set_same]
    · rw [pulseOf, setSg_sg, tabGet_set_other _ _ _ _ hq, pulseOf]

/-- Settles O16: gates fall due by `passOver` and GATE_DUE, a semaphore gate's firing is `gateFired`, an edge on a pin is stamped and
raised. -/
theorem gatesFireWhenDue : Obligations.GatesFireWhenDue := ⟨gates_fall_due, due_gate_fires, trigger_pins⟩

end Sys2Proof.Machine
end

section
/-! SUPPORT. What a fall of the supply and a reset of the fabric domain leave, and how a start-up goes on or stops (O58). -/

namespace Sys2Proof.Machine
section
variable {s : State}

/-! ### Host memory (R38) -/

theorem tabGet_hostCells (m : List Host.Cell) (a : Nat) :
    tabGet 0 (hostCells m) a = if hostBase ≤ a then tabGet 0 m a else 0 := by
  induction m with
  | nil => simp [hostCells, tabGet]
  | cons e m ih =>
    obtain ⟨k, v⟩ := e
    rw [hostCells] at ih ⊢
    by_cases hk : hostBase ≤ k <;> by_cases ha : a = k <;> simp_all [tabGet]

/-- Host memory and what needs no supply stand: the conjuncts of `survives`, read off a state's fields. -/
theorem survives_of_hostCells {u : State} (hm : u.mem = hostCells s.mem) (hs : u.straps = s.straps) (hg : u.gradeX = s.gradeX)
    (hb : u.bbx.mram = s.bbx.mram ∧ u.bbx.seq = s.bbx.seq ∧ u.bbx.pinned = s.bbx.pinned)
    (hc : u.sec.nor = s.sec.nor ∧ u.sec.fuseSvn = s.sec.fuseSvn ∧ u.sec.fuseVr = s.sec.fuseVr ∧
      u.sec.ownerHash = s.sec.ownerHash ∧ u.sec.lockFuse = s.sec.lockFuse) : survives s u := by
  obtain ⟨hmram, hseq, hpin⟩ := hb
  refine ⟨fun a ha => ?_, fun a ha => ?_, hs, hg, hmram, hseq, hpin, hc⟩
  · rw [hm, tabGet_hostCells, if_pos ha]
  · rw [hm, tabGet_hostCells, if_neg (by omega)]

/-! ### The supply (R555) -/

theorem survives_supplyOff (b : Boot) : survives s (supplyOff s b) :=
  survives_of_hostCells rfl rfl rfl ⟨rfl, rfl, rfl⟩ ⟨rfl, rfl, rfl, rfl, rfl⟩

theorem rd_supplyOff (b : Boot) (a : Nat) : rd (supplyOff s b) a = resetVal a := rfl

theorem exec_powerOnReset {rise : Bool} (h : rise = false ∨ s.aon.boot = .off) :
    exec (.powerOnReset rise) s = .next (supplyOff s (if rise then .aonReset else .off)) := by
  show execPowerOnReset rise s = _
  cases rise with
  | false => rfl
  | true => simp [execPowerOnReset, h.resolve_left (by simp)]

theorem exec_powerOnReset_on (h : s.aon.boot ≠ .off) : exec (.powerOnReset true) s = .next s := by
  show execPowerOnReset true s = _
  simp [execPowerOnReset, h]

/-! ### The records of a start-up (R557) -/

theorem startRec_queue (c : Nat) (l : List Byte) (h : s.bbxQueue.length < 64) :
    (startRec s c l).bbxQueue = s.bbxQueue ++ [⟨s.dt.now, c, 0x34, padTo 36 l, false⟩] := bbx_room h

theorem bbx_queue_length (c u : Nat) (l : List Byte) (p : Bool) :
    (bbx s c u l p).bbxQueue.length ≤ s.bbxQueue.length + 1 := by
  unfold bbx
  split <;> simp

theorem mem_bbx_queue (c u : Nat) (l : List Byte) (p : Bool) {r : BbxRec} (h : r ∈ s.bbxQueue) :
    r ∈ (bbx s c u l p).bbxQueue := by
  unfold bbx
  split
  · exact h
  · exact List.mem_append_left _ h

/-- A RESET record is queued, with its kind and its cause, where there is room. -/
theorem resetRec_queue {k c : Nat} (hk : k < 256) (hc : c < 256) (h : s.bbxQueue.length < 64) :
    ∃ r ∈ (resetRec s k c).bbxQueue, r.code = 0x0702 ∧ rec8 r.args 0 1 = k ∧ rec8 r.args 1 1 = c := by
  rw [resetRec, startRec_queue _ _ h]
  refine ⟨_, List.mem_append_right _ (List.mem_singleton_self _), rfl, ?_, ?_⟩
  · simp [rec8, slice, padTo, leBytes, leVal]; omega
  · simp [rec8, slice, padTo, leBytes, leVal]; omega

/-! ### A start-up that stops (R557) -/

theorem setAon_queue (f : Aon → Aon) : (setAon s f).bbxQueue = s.bbxQueue := rfl

theorem alertOn_mem (s : State) (c : Nat) : c ∈ (alertOn s c).aon.alerts := by
  unfold alertOn
  split
  · next h => exact List.contains_iff_mem.mp h
  · simp

@[simp] theorem alertOn_queue (c : Nat) : (alertOn s c).bbxQueue = s.bbxQueue := by unfold alertOn; split <;> rfl
@[simp] theorem alertOn_bbx (c : Nat) : (alertOn s c).bbx = s.bbx := by unfold alertOn; split <;> rfl
@[simp] theorem alertOn_pwr (c : Nat) : (alertOn s c).pwr = s.pwr := by unfold alertOn; split <;> rfl

theorem startFail_bbx (st w : Nat) : (startFail s st w).bbx = s.bbx := by simp [startFail, setAon, startRec]
theorem startFail_pwr (st w : Nat) : (startFail s st w).pwr = s.pwr := by simp [startFail, setAon, startRec]

theorem mem_startFail_queue (st w : Nat) {r : BbxRec} (h : r ∈ s.bbxQueue) : r ∈ (startFail s st w).bbxQueue := by
  simp only [startFail, setAon, alertOn_queue]
  exact mem_bbx_queue _ _ _ _ h

theorem startFail_queue {st w : Nat} (hst : st < 256) (hw : w < 256) (h : s.bbxQueue.length < 64) :
    ∃ r ∈ (startFail s st w).bbxQueue, r.code = 0x0701 ∧ rec8 r.args 0 1 = st ∧ rec8 r.args 1 1 = w := by
  simp only [startFail, setAon, alertOn_queue]
  rw [startRec_queue _ _ h]
  refine ⟨_, List.mem_append_right _ (List.mem_singleton_self _), rfl, ?_, ?_⟩
  · simp [rec8, slice, padTo, leBytes, leVal]; omega
  · simp [rec8, slice, padTo, leBytes, leVal]; omega

/-- A start-up that stops after at most one record of its own stops as the obligation says. -/
theorem startStops_startFail {t : State} {st w : Nat} (hst : st < 256) (hw : w < 256)
    (hq : t.bbxQueue.length ≤ s.bbxQueue.length + 1) : startStops s (startFail t st w) st w :=
  ⟨rfl, alertOn_mem _ 2, rfl, fun _ => startFail_queue hst hw (by omega)⟩

/-! ### The crystal and the core rails (R545, R546) -/

/-- The state in which the AOM has been released: the boot counted, the identity derived, the record queued. -/
def aomReleased (s : State) (i : Option Nat) : State :=
  resetRec (bumpBoot (setSec s fun c => { c with idOk := i.isNone, ownerSet := c.ownerHash.isSome })) 0 0

/-- The record of an identity that could not be derived (R529). -/
def idRecord (s : State) (i : Option Nat) : State :=
  match i with
  | some k => secRec s 0x0604 (leBytes 1 k) true
  | none => s

theorem exec_crystalStable_early (ok : Bool) (i : Option Nat) (h : s.aon.boot ≠ .aonReset) :
    exec (.crystalStable ok i) s = .next s := by
  show execCrystalStable ok i s = _
  rw [execCrystalStable, if_pos h]

theorem exec_crystalStable_outside (i : Option Nat) (h : s.aon.boot = .aonReset) :
    exec (.crystalStable false i) s = .next (startFail s 1 0) := by
  show execCrystalStable false i s = _
  simp [execCrystalStable, h]

theorem exec_crystalStable (i : Option Nat) (h : s.aon.boot = .aonReset) : exec (.crystalStable true i) s =
    .next (setAon (idRecord (aomReleased s i) i) fun a => { a with boot := if a.failLow then .railDefer else .rails }) := by
  show execCrystalStable true i s = _
  cases i <;> simp [execCrystalStable, h, idRecord, aomReleased]

theorem exec_pwrGoodTimeout : exec .pwrGoodTimeout s = .next (if s.aon.boot = .rails then startFail s 2 0 else s) := rfl

@[simp] theorem idRecord_aon (i : Option Nat) : (idRecord s i).aon = s.aon := by cases i <;> simp [idRecord, secRec]
@[simp] theorem idRecord_bbx (i : Option Nat) : (idRecord s i).bbx = s.bbx := by cases i <;> simp [idRecord, secRec]
@[simp] theorem idRecord_sec (i : Option Nat) : (idRecord s i).sec = s.sec := by cases i <;> simp [idRecord, secRec]
@[simp] theorem idRecord_mem (i : Option Nat) : (idRecord s i).mem = s.mem := by cases i <;> simp [idRecord, secRec]

theorem mem_idRecord_queue (i : Option Nat) {r : BbxRec} (h : r ∈ s.bbxQueue) : r ∈ (idRecord s i).bbxQueue := by
  cases i with
  | none => exact h
  | some k => exact mem_bbx_queue _ _ _ _ h

theorem idRecord_queue (k : Nat) (h : s.bbxQueue.length < 64) : ∃ r ∈ (idRecord s (some k)).bbxQueue, r.code = 0x0604 := by
  simp only [idRecord, secRec]
  rw [bbx_room h]
  exact ⟨_, List.mem_append_right _ (List.mem_singleton_self _), rfl⟩

theorem aomReleased_queue (i : Option Nat) (h : s.bbxQueue.length < 62) :
    (∃ r ∈ (aomReleased s i).bbxQueue, r.code = 0x0702 ∧ rec8 r.args 0 1 = 0) ∧ (aomReleased s i).bbxQueue.length < 64 := by
  have hq : (bumpBoot (setSec s fun c => { c with idOk := i.isNone, ownerSet := c.ownerHash.isSome })).bbxQueue.length < 62 := h
  constructor
  · obtain ⟨r, hr, hcode, hkind, -⟩ := resetRec_queue (k := 0) (c := 0) (by decide) (by decide) (Nat.lt_of_lt_of_le hq (by decide))
    exact ⟨r, hr, hcode, hkind⟩
  · exact Nat.lt_of_le_of_lt (bbx_queue_length _ _ _ _) (by omega)

theorem crystalStable_runs (i : Option Nat) (h : s.aon.boot = .aonReset) :
    Runs (.crystalStable true i) s fun u => u.aon = { s.aon with boot := if s.aon.failLow then .railDefer else .rails } ∧
      u.bbx.boot = s.bbx.boot + 1 ∧ u.sec.idOk = i.isNone ∧ u.sec.ownerSet = s.sec.ownerHash.isSome ∧ u.mem = s.mem ∧
      (s.bbxQueue.length < 62 → (∃ r ∈ u.bbxQueue, r.code = 0x0702 ∧ rec8 r.args 0 1 = 0) ∧
        (∀ k, i = some k → ∃ r ∈ u.bbxQueue, r.code = 0x0604)) := by
  refine runs_next (exec_crystalStable i h) ⟨?_, ?_, ?_, ?_, ?_, fun hq => ⟨?_, ?_⟩⟩
  · simp [setAon, aomReleased, resetRec, startRec, bumpBoot, setSec]
  · simp [setAon, aomReleased, resetRec, startRec, bumpBoot, setSec]
  · simp [setAon, aomReleased, resetRec, startRec, bumpBoot, setSec]
  · simp [setAon, aomReleased, resetRec, startRec, bumpBoot, setSec]
  · simp [setAon, aomReleased, resetRec, startRec, bumpBoot, setSec]
  · obtain ⟨r, hr, hcode⟩ := (aomReleased_queue i hq).1
    rw [setAon_queue]
    exact ⟨r, mem_idRecord_queue (s := aomReleased s i) i hr, hcode⟩
  · rintro k rfl
    rw [setAon_queue]
    exact idRecord_queue (s := aomReleased s (some k)) k (aomReleased_queue _ hq).2

/-! ### What the registers show at a release (R38, R491, R529) -/

theorem OnlyRegs.putWords {r t : State} (h : OnlyRegs r t) (reg : Nat → Nat) (l : List Byte) :
    OnlyRegs r (putWords t reg l) := by
  rw [Machine.putWords]
  generalize List.range 12 = ws
  induction ws generalizing t with
  | nil => exact h
  | cons w ws ih => exact ih (h.wr _ _)

theorem rd_putWords_other {reg : Nat → Nat} (l : List Byte) {a : Nat} (h : ∀ w, w < 12 → a ≠ reg w) :
    rd (putWords s reg l) a = rd s a := by
  rw [putWords]
  suffices hf : ∀ ws : List Nat, (∀ w ∈ ws, w < 12) → ∀ t : State,
      rd (ws.foldl (fun st w => wr st (reg w) (BitVec.ofNat 32 (rec8 l (4 * w) 4))) t) a = rd t a from
    hf _ (fun w hw => List.mem_range.mp hw) s
  intro ws
  induction ws with
  | nil => exact fun _ _ => rfl
  | cons w ws ih =>
    intro hw t
    rw [List.foldl_cons, ih fun v hv => hw v (List.mem_cons_of_mem _ hv), rd_wr_other _ _ (h w (hw w List.mem_cons_self))]

theorem OnlyRegs.syncSec {r t : State} (h : OnlyRegs r t) : OnlyRegs r (syncSec t) :=
  (((h.wr _ _).wr _ _).wr _ _).putWords _ _

theorem OnlyRegs.syncBbx {r t : State} (h : OnlyRegs r t) : OnlyRegs r (syncBbx t) :=
  ((h.wr _ _).wr _ _).wr _ _

/-- The registers in which `syncSec` shows fuses, identity and session. -/
def secShown (a : Nat) : Prop := a = R.secStatus ∨ a = R.secFuseSvn ∨ a = R.secVrCnt ∨ ∃ w < 12, a = R.secDevid w

theorem rd_syncSec_other {a : Nat} (h : ¬ secShown a) : rd (syncSec s) a = rd s a := by
  simp only [secShown, not_or, not_exists, not_and] at h
  obtain ⟨hst, hsvn, hvr, hid⟩ := h
  simp only [syncSec]
  rw [rd_putWords_other _ hid, rd_wr_other _ _ hvr, rd_wr_other _ _ hsvn, rd_wr_other _ _ hst]

theorem rd_syncBbx_other {a : Nat} (hs : a ≠ R.safeBbxSeq) (hp : a ≠ R.safeBbxPinned) (hb : a ≠ R.safeBootCnt) :
    rd (syncBbx s) a = rd s a := by
  simp only [syncBbx]
  rw [rd_wr_other _ _ hb, rd_wr_other _ _ hp, rd_wr_other _ _ hs]

/-- The first registers of `showKept`: identity and straps, the rate, the temperatures and the wake cause. -/
def showLive (old s : State) : State :=
  let f := rd old R.dtFreq
  let s1 := wr (wr s R.glbId (if s.gradeX then 0x4807B058 else 0x4807B043)) R.glbStrap (s.straps.setWidth 32)
  let s2 := wr (wr s1 R.dtFreq f) R.dtRate f
  wr (wr (wr s2 R.pwrTj (rd old R.pwrTj)) R.pwrTjMax (rd old R.pwrTjMax)) R.pwrWakeCause (BitVec.ofNat 32 s.aon.wakeCause)

theorem showKept_eq (old s : State) : showKept old s =
    syncSec (syncBbx (if s.pwr.target.isSome then setBits (showLive old s) R.pwrStatus 8 else showLive old s)) := rfl

theorem showLive_onlyRegs (old s : State) : OnlyRegs s (showLive old s) :=
  ((((((OnlyRegs.refl.wr _ _).wr _ _).wr _ _).wr _ _).wr _ _).wr _ _).wr _ _

theorem showKept_onlyRegs (old s : State) : OnlyRegs s (showKept old s) := by
  rw [showKept_eq]
  split
  · exact ((showLive_onlyRegs old s).setBits _ _).syncBbx.syncSec
  · exact (showLive_onlyRegs old s).syncBbx.syncSec

/-- What the writes after those of `showLive` leave. -/
theorem rd_showKept_live {old : State} {a : Nat} (hsec : ¬ secShown a)
    (h : a ∉ [R.pwrStatus, R.safeBbxSeq, R.safeBbxPinned, R.safeBootCnt]) : rd (showKept old s) a = rd (showLive old s) a := by
  simp only [List.mem_cons, List.not_mem_nil, not_or, or_false] at h
  obtain ⟨hstat, hseq, hpin, hboot⟩ := h
  rw [showKept_eq, rd_syncSec_other hsec, rd_syncBbx_other hseq hpin hboot]
  split
  · exact rd_setBits_other _ _ hstat
  · rfl

theorem rd_showLive_other {old : State} {a : Nat} (h : a ∉ [R.glbId, R.glbStrap, R.dtFreq, R.dtRate, R.pwrTj, R.pwrTjMax,
    R.pwrWakeCause]) : rd (showLive old s) a = rd s a := by
  simp only [List.mem_cons, List.not_mem_nil, not_or, or_false] at h
  obtain ⟨hid, hstrap, hfreq, hrate, htj, htjm, hwake⟩ := h
  simp only [showLive]
  rw [rd_wr_other _ _ hwake, rd_wr_other _ _ htjm, rd_wr_other _ _ htj, rd_wr_other _ _ hrate, rd_wr_other _ _ hfreq,
    rd_wr_other _ _ hstrap, rd_wr_other _ _ hid]

theorem rd_showLive_glbStrap (old : State) : rd (showLive old s) R.glbStrap = s.straps.setWidth 32 := by
  simp only [showLive]
  rw [rd_wr_other _ _ (by decide), rd_wr_other _ _ (by decide), rd_wr_other _ _ (by decide), rd_wr_other _ _ (by decide),
    rd_wr_other _ _ (by decide), rd_wr_same]

theorem rd_showLive_dtFreq (old : State) : rd (showLive old s) R.dtFreq = rd old R.dtFreq := by
  simp only [showLive]
  rw [rd_wr_other _ _ (by decide), rd_wr_other _ _ (by decide), rd_wr_other _ _ (by decide), rd_wr_other _ _ (by decide),
    rd_wr_same]

theorem rd_showLive_dtRate (old : State) : rd (showLive old s) R.dtRate = rd old R.dtFreq := by
  simp only [showLive]
  rw [rd_wr_other _ _ (by decide), rd_wr_other _ _ (by decide), rd_wr_other _ _ (by decide), rd_wr_same]

/-- The security registers lie above those of identity, time and power. -/
theorem not_secShown_of_lt {a : Nat} (h : a < R.secStatus) : ¬ secShown a := by
  have hsec : R.secStatus ≤ R.secFuseSvn ∧ R.secStatus ≤ R.secVrCnt ∧ ∀ w, R.secStatus ≤ R.secDevid w := by
    simp [R.secStatus, R.secFuseSvn, R.secVrCnt, R.secDevid]; omega
  obtain ⟨hsvn, hvr, hid⟩ := hsec
  rintro (rfl | rfl | rfl | ⟨w, -, rfl⟩)
  · omega
  · omega
  · omega
  · have := hid w; omega

theorem rd_showKept_glbStrap (old : State) : rd (showKept old s) R.glbStrap = s.straps.setWidth 32 := by
  rw [rd_showKept_live (not_secShown_of_lt (by decide)) (by decide), rd_showLive_glbStrap]

theorem rd_showKept_dtFreq (old : State) : rd (showKept old s) R.dtFreq = rd old R.dtFreq := by
  rw [rd_showKept_live (not_secShown_of_lt (by decide)) (by decide), rd_showLive_dtFreq]

theorem rd_showKept_dtRate (old : State) : rd (showKept old s) R.dtRate = rd old R.dtFreq := by
  rw [rd_showKept_live (not_secShown_of_lt (by decide)) (by decide), rd_showLive_dtRate]

theorem rd_showKept_other {old : State} {a : Nat} (h : a ∉ shownAtRelease) : rd (showKept old s) a = rd s a := by
  simp only [shownAtRelease, List.mem_append, List.mem_cons, List.not_mem_nil, or_false, not_or, List.mem_map, List.mem_range,
    not_exists, not_and] at h
  obtain ⟨⟨hid, hstrap, hfreq, hrate, htj, htjm, hwake, hstat, hseq, hpin, hboot, hsec, hsvn, hvr⟩, hdev⟩ := h
  have hs : ¬ secShown a := by
    rintro (h | h | h | ⟨w, hw, h⟩)
    · exact hsec h
    · exact hsvn h
    · exact hvr h
    · exact hdev w hw h.symm
  rw [rd_showKept_live hs (by simp [hstat, hseq, hpin, hboot]),
    rd_showLive_other (by simp [hid, hstrap, hfreq, hrate, htj, htjm, hwake])]

/-! ### The fabric released (R38, R520, R543, R547) -/

/-- The fabric after its reset, before the boot ROM's self-test. -/
def released (s : State) : State :=
  setAon (showKept s (fabricReset s)) fun a => { a with
    boot := if decide (2 ≤ bootSrc s) then .recovery else .rom, window := bootSrc s == 1 }

theorem released_eq : ∃ r, released s = { fabricReset s with
    regs := r
    aon := { (fabricReset s).aon with boot := if decide (2 ≤ bootSrc s) then .recovery else .rom, window := bootSrc s == 1 } } := by
  obtain ⟨r, hr⟩ := showKept_onlyRegs s (fabricReset s)
  exact ⟨r, by rw [released, hr]; rfl⟩

theorem rd_setAon (f : Aon → Aon) (a : Nat) : rd (setAon s f) a = rd s a := rfl

theorem rd_released (a : Nat) : rd (released s) a = rd (showKept s (fabricReset s)) a := rd_setAon _ a

theorem rd_fabricReset (a : Nat) : rd (fabricReset s) a = resetVal a := by
  rw [rd, fabricReset]
  rfl

theorem rd_released_other {a : Nat} (h : a ∉ shownAtRelease) : rd (released s) a = resetVal a := by
  rw [rd_released, rd_showKept_other h, rd_fabricReset]

theorem fabricReleased_released : fabricReleased s (released s) [] := by
  have hstrap : rd (released s) R.glbStrap = s.straps.setWidth 32 := by
    rw [rd_released, rd_showKept_glbStrap, fabricReset]
  have hfreq : rd (released s) R.dtFreq = rd s R.dtFreq := by rw [rd_released, rd_showKept_dtFreq]
  have hrate : rd (released s) R.dtRate = rd s R.dtFreq := by rw [rd_released, rd_showKept_dtRate]
  have hother : ∀ a, a ∉ shownAtRelease ++ [] → rd (released s) a = resetVal a := fun a ha =>
    rd_released_other (by rwa [List.append_nil] at ha)
  obtain ⟨r, hu⟩ := released_eq (s := s)
  generalize released s = u at *
  have hboot : u.aon.boot = if 2 ≤ s.straps.toNat % 4 then .recovery else .rom := by
    by_cases hwait : 2 ≤ s.straps.toNat % 4 <;> simp [hu, bootSrc, hwait]
  have hsurv : survives s u := survives_of_hostCells (by simp [hu, fabricReset]) (by simp [hu, fabricReset])
    (by simp [hu, fabricReset]) (by simp [hu, fabricReset]) (by simp [hu, fabricReset])
  refine ⟨?_, hsurv, hother, hstrap, ?_, ?_, ?_, hfreq, hrate, ?_, ?_, ?_, hboot, ?_, ?_, ?_⟩
  all_goals simp [hu, fabricReset, carriedDt, bootSrc, State.reset, Sem.reset]

/-- A released fabric stays so where since then only registers `l`, the record queue and the safety state have been written. -/
theorem fabricReleased_framed {t u : State} {r : Tab Word} {q : List BbxRec} {f : Safe} {l : List Nat}
    (h : fabricReleased s t []) (hu : u = { t with regs := r, bbxQueue := q, safe := f })
    (hr : ∀ a, a ∉ l → rd u a = rd t a) (hl : R.glbStrap ∉ l ∧ R.dtFreq ∉ l ∧ R.dtRate ∉ l) : fabricReleased s u l := by
  obtain ⟨hup, hsurv, hother, hstrap, hnow, hfrac, hservo, hfreq, hrate, hrest⟩ := h
  have hother' : ∀ a, a ∉ shownAtRelease ++ l → rd u a = resetVal a := fun a ha => by
    rw [List.mem_append, not_or] at ha
    rw [hr a ha.2, hother a (by rw [List.append_nil]; exact ha.1)]
  rw [← hr _ hl.1] at hstrap
  rw [← hr _ hl.2.1] at hfreq
  rw [← hr _ hl.2.2] at hrate
  subst hu
  exact ⟨hup, hsurv, hother', hstrap, hnow, hfrac, hservo, hfreq, hrate, hrest⟩

theorem released_safe : (released s).safe = Safe.reset := by
  obtain ⟨r, hr⟩ := released_eq (s := s)
  simp [hr, fabricReset, State.reset]

theorem released_bbx : (released s).bbx = s.bbx := by
  obtain ⟨r, hr⟩ := released_eq (s := s)
  simp [hr, fabricReset]

theorem released_pwr : (released s).pwr = carriedPwr s.pwr := by
  obtain ⟨r, hr⟩ := released_eq (s := s)
  simp [hr, fabricReset]

theorem released_queue : (released s).bbxQueue = s.bbxQueue := by
  obtain ⟨r, hr⟩ := released_eq (s := s)
  simp [hr, fabricReset]

theorem activePair_released : activePair (released s) = 0 := by
  rw [activePair, rf, rd_released_other (by decide)]
  decide

/-! ### Pair A retired (R480, R547) -/

theorem faultRec_frame (c u i : Nat) (l : List Byte) (p : Bool) :
    ∃ r q, faultRec s c u i l p = { s with regs := r, bbxQueue := q } := by
  rw [faultRec, bbx_frame]
  exact ⟨_, _, by rw [wr]⟩

theorem retirePair_frame (p : Nat) : ∃ r q f, retirePair s p = { s with regs := r, bbxQueue := q, safe := f } := by
  obtain ⟨r₁, h₁⟩ : OnlyRegs s (setBits (standbyOk s false) R.safeStatus 0x100) := (OnlyRegs.refl.wr _ _).setBits _ _
  rw [retirePair, h₁]
  obtain ⟨r₂, h₂⟩ : OnlyRegs (setSafe { s with regs := r₁ } _) (safeEvent (setSafe { s with regs := r₁ } _) 3) :=
    OnlyRegs.refl.setBits _ _
  rw [h₂]
  obtain ⟨r, q, h⟩ := faultRec_frame (s := { setSafe { s with regs := r₁ } _ with regs := r₂ }) 0x0204 (unitOf R.safeCtrl) p
    (leBytes 1 p) true
  exact ⟨r, q, _, h⟩

theorem retirePair_retired {p : Nat} (h : s.safe.retired = []) : (retirePair s p).safe.retired = [p] := by
  simp [retirePair, faultRec, safeEvent, setSafe, standbyOk, h]

theorem rd_bbx_other {c u : Nat} {l : List Byte} {p : Bool} {a : Nat} (he : a ≠ R.safeEvent) (hd : a ≠ R.safeBbxDrop) :
    rd (bbx s c u l p) a = rd s a := by
  unfold bbx
  split
  · rw [rd_bump_other _ hd, rd_setBits_other _ _ he]
  · rfl

theorem rd_setSafe (f : Safe → Safe) (a : Nat) : rd (setSafe s f) a = rd s a := rfl

theorem rd_retirePair_status {p a : Nat} (he : a ≠ R.safeEvent) (hf : a ≠ R.safeLastFault) (hd : a ≠ R.safeBbxDrop) :
    rd (retirePair s p) a = rd (setBits (standbyOk s false) R.safeStatus 0x100) a := by
  rw [retirePair, faultRec, rd_bbx_other he hd, rd_wr_other _ _ hf, safeEvent, rd_setBits_other _ _ he, rd_setSafe]

theorem rd_retirePair_other {p a : Nat} (h : a ∉ [R.glbStatus, R.safeStatus, R.safeEvent, R.safeLastFault, R.safeBbxDrop]) :
    rd (retirePair s p) a = rd s a := by
  simp only [List.mem_cons, List.not_mem_nil, not_or, or_false] at h
  obtain ⟨hg, hs, he, hf, hd⟩ := h
  rw [rd_retirePair_status he hf hd, rd_setBits_other _ _ hs, standbyOk, rd_wf_other _ _ _ _ hg]

theorem rd_retirePair_glbStatus (p : Nat) : rd (retirePair s p) R.glbStatus = setFld (rd s R.glbStatus) 2 2 0 := by
  rw [rd_retirePair_status (by decide) (by decide) (by decide), rd_setBits_other _ _ (by decide), standbyOk, rd_wf_same]
  rfl

theorem rb_retirePair_safeStatus (p : Nat) : rb (retirePair s p) R.safeStatus 8 = true := by
  have hbit : (0x100 : Word) = bitW 8 := by decide
  rw [rb, rd_retirePair_status (by decide) (by decide) (by decide), rd_setBits_same, hbit]
  exact bit_or_bitW _ (by decide)

theorem mem_retirePair_queue (p : Nat) {r : BbxRec} (h : r ∈ s.bbxQueue) : r ∈ (retirePair s p).bbxQueue := by
  rw [retirePair, faultRec]
  exact mem_bbx_queue _ _ _ _ (by simpa [safeEvent, setSafe, standbyOk] using h)

/-- The fabric goes on with pair B, pair A being retired. -/
def onPairB (s : State) : State := retirePair (wf s R.glbStatus 1 1 1) 0

theorem rd_onPairB_other {a : Nat} (h : a ∉ [R.glbStatus, R.safeStatus, R.safeEvent, R.safeLastFault, R.safeBbxDrop]) :
    rd (onPairB s) a = rd s a := by
  have hg : a ≠ R.glbStatus := fun e => h (by rw [e]; exact List.mem_cons_self)
  rw [onPairB, rd_retirePair_other h, rd_wf_other _ _ _ _ hg]

theorem onPairB_frame : ∃ r q f, onPairB s = { s with regs := r, bbxQueue := q, safe := f } := by
  obtain ⟨r, q, f, h⟩ := retirePair_frame (s := wf s R.glbStatus 1 1 1) 0
  exact ⟨r, q, f, h⟩

theorem fabricReleased_onPairB {t : State} (h : fabricReleased s t []) : fabricReleased s (onPairB t)
    [R.glbStatus, R.safeStatus, R.safeEvent, R.safeLastFault, R.safeBbxDrop] := by
  obtain ⟨r, q, f, hu⟩ := onPairB_frame (s := t)
  exact fabricReleased_framed h hu (fun a ha => rd_onPairB_other ha) (by decide)

theorem activePair_onPairB : activePair (onPairB s) = 1 := by
  rw [activePair, rf, onPairB, rd_retirePair_glbStatus, rd_wf_same]
  generalize rd s R.glbStatus = w
  have hbit : bit (setFld (setFld w 1 1 1) 2 2 0) 1 = true := by
    rw [bit_setFld_other 0 (by decide) (by decide)]
    exact bit_setFld_same true (by decide)
  calc fld (setFld (setFld w 1 1 1) 2 2 0) 1 1 = fld (2 : Word) 1 1 := fld_congr fun i hlo hhi => by
        obtain rfl : i = 1 := by omega
        exact hbit
    _ = 1 := by decide

theorem onPairB_retired (h : s.safe.retired = []) : (onPairB s).safe.retired = [0] := by
  rw [onPairB, retirePair_retired]
  rwa [wf_safe]

/-! ### The two commands that release the fabric (R509, R546) -/

theorem releaseFabric_pass (b : Bool) : releaseFabric s true b = released s := rfl

theorem releaseFabric_pairB : releaseFabric s false true = onPairB (released s) := rfl

theorem releaseFabric_fail : releaseFabric s false false = startFail (released s) 4 0 := by
  rw [releaseFabric, released]
  simp only [Bool.false_eq_true, if_false]

/-- What a release counts and records, whatever the self-test finds: the boot count and PWR_STATUS carried on, the queue kept. -/
structure CountedAs (s u : State) : Prop where
  boot : u.bbx.boot = s.bbx.boot
  pwr : u.pwr = carriedPwr s.pwr
  queue : ∀ r ∈ s.bbxQueue, r ∈ u.bbxQueue

theorem countedAs_released : CountedAs s (released s) :=
  ⟨by rw [released_bbx], released_pwr, fun r h => by rwa [released_queue]⟩

theorem CountedAs.onPairB {t : State} (h : CountedAs s t) : CountedAs s (onPairB t) := by
  obtain ⟨hboot, hpwr, hqueue⟩ := h
  obtain ⟨r, q, f, hu⟩ := onPairB_frame (s := t)
  exact ⟨by rw [hu]; exact hboot, by rw [hu]; exact hpwr, fun r h => mem_retirePair_queue 0 (hqueue r h)⟩

theorem CountedAs.startFail {t : State} (h : CountedAs s t) (st w : Nat) : CountedAs s (startFail t st w) := by
  obtain ⟨hboot, hpwr, hqueue⟩ := h
  exact ⟨by rw [startFail_bbx, hboot], by rw [startFail_pwr, hpwr], fun r h => mem_startFail_queue st w (hqueue r h)⟩

theorem releaseFabric_counted (a b : Bool) : CountedAs s (releaseFabric s a b) := by
  cases a with
  | true => rw [releaseFabric_pass]; exact countedAs_released
  | false =>
    cases b with
    | true => rw [releaseFabric_pairB]; exact countedAs_released.onPairB
    | false => rw [releaseFabric_fail]; exact countedAs_released.startFail 4 0

/-- The state in which PWR_GOOD_CORE_RISE releases the fabric. -/
def railsUp (s : State) : State := if s.pwr.pstate = .hold then resetRec s 2 3 else s

/-- The state in which CORE_RESET_RELEASE releases the fabric. -/
def coreRestart (s : State) : State := resetRec (bumpBoot s) 1 (if s.aon.fromSafe then 2 else 1)

theorem exec_pwrGoodCoreRise {a b : Bool} (h : s.aon.boot = .rails) :
    exec (.pwrGoodCoreRise a b) s = .next (releaseFabric (railsUp s) a b) := by
  show execPwrGoodCoreRise a b s = _
  simp [execPwrGoodCoreRise, h, railsUp]

theorem exec_pwrGoodCoreRise_early {a b : Bool} (h : s.aon.boot ≠ .rails) : exec (.pwrGoodCoreRise a b) s = .next s := by
  show execPwrGoodCoreRise a b s = _
  simp [execPwrGoodCoreRise, h]

theorem exec_coreResetRelease {a b : Bool} (h : s.aon.boot = .coreHeld) (hf : s.aon.failLow = false) :
    exec (.coreResetRelease a b) s = .next (releaseFabric (coreRestart s) a b) := by
  show execCoreResetRelease a b s = _
  simp [execCoreResetRelease, h, hf, coreRestart]

theorem exec_coreResetRelease_early {a b : Bool} (h : s.aon.boot ≠ .coreHeld ∨ s.aon.failLow = true) :
    exec (.coreResetRelease a b) s = .next s := by
  show execCoreResetRelease a b s = _
  rw [execCoreResetRelease, if_pos h]

/-! ### The release seen from the state before the command -/

theorem fabricReleased_resetRec {u : State} {k c : Nat} {l : List Nat} :
    fabricReleased (resetRec s k c) u l ↔ fabricReleased s u l := by
  simp [fabricReleased, survives, resetRec, startRec, rd_bbx_low _ _ _ _ _ (show R.dtFreq < 0x310000 by decide)]

theorem fabricReleased_bumpBoot {u : State} {l : List Nat} : fabricReleased (bumpBoot s) u l ↔ fabricReleased s u l := Iff.rfl

/-- The RESET record of a release: kind 1 with its cause after a core reset, kind 2 at the exit from HOLD. -/
def releaseRecord (s u : State) (core : Bool) : Prop :=
  s.bbxQueue.length < 62 → core = true ∨ s.pwr.pstate = .hold → ∃ r ∈ u.bbxQueue, r.code = 0x0702 ∧
    rec8 r.args 0 1 = (if core then 1 else 2) ∧ rec8 r.args 1 1 = (if core then if s.aon.fromSafe then 2 else 1 else 3)

/-- The state `t` in which a release command finds the fabric: what the command has changed before `releaseFabric`. -/
structure ReleaseStart (s t : State) (core : Bool) : Prop where
  released : ∀ {u l}, fabricReleased t u l → fabricReleased s u l
  room : t.bbxQueue.length ≤ s.bbxQueue.length + 1
  boot : t.bbx.boot = if core then s.bbx.boot + 1 else s.bbx.boot
  pwr : t.pwr = s.pwr
  record : releaseRecord s t core

theorem railsUp_start : ReleaseStart s (railsUp s) false := by
  unfold railsUp
  split
  · exact ⟨fabricReleased_resetRec.mp, bbx_queue_length _ _ _ _, by simp [resetRec, startRec], by simp [resetRec, startRec],
      fun hq _ => resetRec_queue (by decide) (by decide) (by omega)⟩
  · next hold => exact ⟨id, by omega, rfl, rfl, fun _ h => absurd (h.resolve_left (by decide)) hold⟩

theorem coreRestart_start : ReleaseStart s (coreRestart s) true := by
  refine ⟨fun h => fabricReleased_bumpBoot.mp (fabricReleased_resetRec.mp h), bbx_queue_length _ _ _ _, ?_, ?_, fun hq _ => ?_⟩
  · simp [coreRestart, resetRec, startRec, bumpBoot]
  · simp [coreRestart, resetRec, startRec, bumpBoot]
  · have hroom : (bumpBoot s).bbxQueue.length < 64 := Nat.lt_trans hq (by decide)
    exact resetRec_queue (by decide) (by split <;> decide) hroom

/-- Each of the two commands releases the fabric from such a state. -/
theorem release_command {a b core : Bool} {c : Instr}
    (hc : (c, core) ∈ [(Instr.pwrGoodCoreRise a b, false), (.coreResetRelease a b, true)])
    (hrails : core = false → s.aon.boot = .rails) (hheld : core = true → s.aon.boot = .coreHeld ∧ s.aon.failLow = false) :
    ∃ t, exec c s = .next (releaseFabric t a b) ∧ ReleaseStart s t core := by
  simp only [List.mem_cons, Prod.mk.injEq, List.not_mem_nil, or_false] at hc
  obtain ⟨rfl, rfl⟩ | ⟨rfl, rfl⟩ := hc
  · exact ⟨_, exec_pwrGoodCoreRise (hrails rfl), railsUp_start⟩
  · obtain ⟨hboot, hlow⟩ := hheld rfl
    exact ⟨_, exec_coreResetRelease hboot hlow, coreRestart_start⟩

/-- The boot count, the power state and the RESET record after a release, whatever the self-test finds. -/
theorem ReleaseStart.counted {t u : State} {core : Bool} (h : ReleaseStart s t core) (hu : CountedAs t u) :
    u.bbx.boot = (if core then s.bbx.boot + 1 else s.bbx.boot) ∧
      (s.pwr.pstate = .hold → u.pwr = { Pwr.reset with pstate := .hold, target := some .run, since := s.pwr.since }) ∧
      (s.pwr.pstate ≠ .hold → u.pwr = Pwr.reset) ∧ releaseRecord s u core := by
  refine ⟨hu.boot.trans h.boot, fun hold => ?_, fun hold => ?_, fun hq hrec => ?_⟩
  · rw [hu.pwr, h.pwr, carriedPwr, if_pos hold]
  · rw [hu.pwr, h.pwr, carriedPwr, if_neg hold]
  · obtain ⟨r, hr, hfields⟩ := h.record hq hrec
    exact ⟨r, hu.queue r hr, hfields⟩

/-! ### The obligation -/

/-- Settles O58: every branch of the reset and start-up commands is one of the equations above; what a release leaves is read
off `released`, and RESET records and the boot count off the state in which the command calls it. -/
theorem resetsLeaveWhatTheyKeep : Obligations.ResetsLeaveWhatTheyKeep := by
  unfold Obligations.ResetsLeaveWhatTheyKeep
  intro s
  refine ⟨fun h => runs_next (exec_powerOnReset_on h) rfl, fun rise h => ?_,
    fun ok i h => runs_next (exec_crystalStable_early ok i h) rfl,
    fun h i => ⟨?_, crystalStable_runs i h⟩, fun h => ?_, fun h => ?_, fun a b h => runs_next (exec_pwrGoodCoreRise_early h) rfl,
    fun a b h => runs_next (exec_coreResetRelease_early h) rfl, ?_⟩
  · exact runs_next (exec_powerOnReset h) ⟨rfl, survives_supplyOff _, rfl, fun a => rd_supplyOff _ a, rfl, rfl, rfl, rfl, rfl, rfl⟩
  · exact runs_next (exec_crystalStable_outside i h) (startStops_startFail (by decide) (by decide) (Nat.le_succ _))
  · refine runs_next exec_pwrGoodTimeout ?_
    rw [if_pos h]
    exact startStops_startFail (by decide) (by decide) (Nat.le_succ _)
  · exact runs_next exec_pwrGoodTimeout (if_neg h)
  · intro a b c core hc hrails hheld counted
    obtain ⟨t, hexec, hstart⟩ := release_command hc hrails hheld
    have hcounted : counted (releaseFabric t a b) := hstart.counted (releaseFabric_counted a b)
    refine ⟨?_, ?_, ?_⟩
    · rintro rfl
      refine runs_next hexec ⟨?_, hcounted, ?_⟩
      · rw [releaseFabric_pass]
        exact hstart.released fabricReleased_released
      · rw [releaseFabric_pass]
        exact ⟨activePair_released, released_safe⟩
    · rintro rfl rfl
      refine runs_next hexec ⟨?_, hcounted, ?_⟩
      · rw [releaseFabric_pairB]
        exact hstart.released (fabricReleased_onPairB fabricReleased_released)
      · rw [releaseFabric_pairB]
        exact ⟨activePair_onPairB, onPairB_retired (by rw [released_safe]; rfl), rb_retirePair_safeStatus 0⟩
    · rintro rfl rfl
      refine runs_next hexec ⟨?_, hcounted⟩
      rw [releaseFabric_fail]
      exact startStops_startFail (by decide) (by decide) (by rw [released_queue]; exact hstart.room)

end
end Sys2Proof.Machine
end

section
/-! SUPPORT. Semaphore operations (R78, R79, R91): each as an update of the state, what saturation flags and what SET leaves
alone; O17. -/

namespace Sys2Proof.Machine
section
variable {s : State} {r i a : Nat} {n v : Word}

/-! ### An operation presented alone -/

theorem exec_semCommand (q : SemReq) (hu : s.up = true) : exec (semCommand q []) s = .next (semApply s q) := by
  obtain ⟨req, kind, idx, n⟩ := q
  cases kind
  case add => exact (fabric_up s hu : execSemAdd req idx n [] s = _)
  case sub => exact (fabric_up s hu : execSemSub req idx n [] s = _)
  case wait => exact (fabric_up s hu : execSemWait req idx n [] s = _)
  case waitsub => exact (fabric_up s hu : execSemWaitsub req idx n [] s = _)
  case set => exact (fabric_up s hu : execSemSet req idx n [] s = _)

/-- An operation that no other contends with is applied at once. -/
theorem runs_semCommand (q : SemReq) {P : State → Prop} (hu : s.up = true) (h : P (semApply s q)) :
    Runs (semCommand q []) s P := ⟨_, exec_semCommand q hu, h⟩

/-! ### ADD and SUB (R78, R79) -/

/-- An operation that leaves `v` and saturates nothing. -/
def semDone (s : State) (r i : Nat) (v : Word) : State := semResult (semStore (semServe s r i) i v) r true i

/-- An operation that saturates at `v`: it counts in `c` and sets flag `b`. -/
def semSaturated (s : State) (r i : Nat) (v : Word) (c b : Nat) : State :=
  semResult (semErr (bump (semStore (semServe s r i) i v) c) b i) r true i

theorem semAddOp_saturated (h : 0xFFFFFFFF < (semCount s i).toNat + n.toNat) :
    semAddOp s r i n = semSaturated s r i 0xFFFFFFFF R.semOvfCnt 0 := by
  rw [semAddOp, if_pos h, min_eq_right h.le]
  rfl

theorem semAddOp_within (h : (semCount s i).toNat + n.toNat ≤ 0xFFFFFFFF) :
    semAddOp s r i n = semDone s r i (BitVec.ofNat 32 ((semCount s i).toNat + n.toNat)) := by
  rw [semAddOp, if_neg (not_lt.mpr h), min_eq_left h]
  rfl

theorem semSubOp_saturated (h : (semCount s i).toNat < n.toNat) : semSubOp s r i n = semSaturated s r i 0 R.semUnfCnt 1 := by
  rw [semSubOp, if_pos h, Nat.sub_eq_zero_of_le h.le]
  rfl

theorem semSubOp_within (h : n.toNat ≤ (semCount s i).toNat) :
    semSubOp s r i n = semDone s r i (BitVec.ofNat 32 ((semCount s i).toNat - n.toNat)) := by
  rw [semSubOp, if_neg (not_lt.mpr h)]
  rfl

theorem semResult_result (o : Bool) : (semResult s r o i).sem.result = some (r, o, semCount s i) := rfl

theorem semDone_sameRegs : SameRegsBut [] s (semDone s r i v) := fun a _ => by simp [semDone]

theorem semCount_semSaturated (c b : Nat) : semCount (semSaturated s r i v c b) i = v := by simp [semSaturated]

theorem semSaturated_result (c b : Nat) : (semSaturated s r i v c b).sem.result = some (r, true, v) := by
  rw [semSaturated, semResult_result]
  simp

theorem rd_semSaturated (c b : Nat) :
    rd (semSaturated s r i v c b) a = rd (semErr (bump (semStore (semServe s r i) i v) c) b i) a := by
  rw [semSaturated, rd_semResult]

theorem rd_semSaturated_status {c : Nat} (b : Nat) (h : R.semStatus ≠ c) :
    rd (semSaturated s r i v c b) R.semStatus = rd s R.semStatus ||| bitW b := by
  rw [rd_semSaturated, semErr, rd_errInfo_same _ _ _ (by decide), rd_bump_other _ h]
  simp

theorem rd_semSaturated_index {c : Nat} (b : Nat) (h : R.semStatus ≠ c) (h' : R.semErrIdx ≠ c) (hi : i < 4096) :
    rd (semSaturated s r i v c b) R.semErrIdx = if rd s R.semStatus = 0 then BitVec.ofNat 32 i else rd s R.semErrIdx := by
  rw [rd_semSaturated, semErr, rd_errInfo_info _ _ _ (by decide), rd_bump_other _ h, rd_bump_other _ h', Nat.mod_eq_of_lt hi]
  simp

theorem rd_semSaturated_low {c : Nat} (b : Nat) (h : a ≠ R.semStatus) (h' : a ≠ R.semErrIdx) :
    rd (semSaturated s r i v c b) a = if a = c then incSat (rd s a) else rd s a := by
  rw [rd_semSaturated, semErr, rd_errInfo_other _ _ _ h h']
  split
  · subst a
    simp
  · rw [rd_bump_other _ ‹_›]
    simp

/-! ### Sources (R94, R95) -/

theorem evcLevel_of_cause {k : Nat} {m : Word} (hc : evcCause k = some (a, m)) (h : rd s a &&& m ≠ 0) : evcLevel s k = true := by
  have h' : ¬ rd s a &&& m = 0#32 := h
  simp [evcLevel, hc, h']

theorem or_bitW_and_bitW_ne_zero (w : Word) {b : Nat} (hb : b < 32) : (w ||| bitW b) &&& bitW b ≠ 0 := by
  intro h
  have hbit : (bitW b).getLsbD b = true := by
    rw [bitW, BitVec.getLsbD_ofNat, Nat.testBit_two_pow_self]
    simp [hb]
  have hand := congrArg (BitVec.getLsbD · b) h
  simp [hbit] at hand

/-! ### WAITSUB and SET -/

theorem semWaitsubOp_sameRegs : SameRegsBut [] s (semWaitsubOp s r i n) := fun a _ => by
  rw [semWaitsubOp, rd_semResult]
  split <;> simp

theorem semWaitsubOp_count_le : (semCount (semWaitsubOp s r i n) i).toNat ≤ (semCount s i).toNat := by
  simp only [semWaitsubOp, semTest, decide_eq_true_eq, semCount_result]
  split
  case isTrue h =>
    rw [semCount_store_same, BitVec.toNat_sub_of_le (BitVec.le_def.mpr h)]
    exact Nat.sub_le _ _
  case isFalse => exact le_rfl

/-- SET touches the count of hand-sets and, for its record, registers of the SAFE block. -/
theorem rd_semSetOp_other (p : Nat) (h : a ≠ R.semHandCnt) (hlow : a < 0x310000) : rd (semSetOp s r i v p) a = rd s a := by
  simp [semSetOp, rd_bbx_low _ _ _ _ _ hlow, rd_bump_other _ h]

/-- Who may not SET is refused or flagged FW_SEM: neither sets OVF or UNF. -/
theorem semSetBy_keeps_saturation_flags {b : Nat} (hb : b < 2) :
    bit (rd (semSetBy s r i v) R.semStatus) b = bit (rd s R.semStatus) b := by
  have hset : ∀ p, rd (semSetOp s r i v p) R.semStatus = rd s R.semStatus := fun p =>
    rd_semSetOp_other p (by decide) (by decide)
  have herr : bit (rd (semErr s 2 i) R.semStatus) b = bit (rd s R.semStatus) b := by
    rw [semErr, rd_errInfo_same _ _ _ (by decide)]
    rcases (by omega : b = 0 ∨ b = 1) with rfl | rfl <;> simp [bit, bitW]
  unfold semSetBy hostSem
  repeat' split
  · exact herr
  · subst r; rw [hset]
  · subst r; rw [hset]
  · rfl

end

/-- Settles O17: an ADD or SUB is `semSaturated` where the true count lies outside 32 bits and `semDone` elsewhere. -/
theorem saturationIsFlagged : Obligations.SaturationIsFlagged := by
  intro s req idx n hu i flagged
  have hi : i < 4096 := idx.isLt
  refine ⟨fun h => runs_semCommand ⟨req, .add, idx, n⟩ hu ?_, fun h => runs_semCommand ⟨req, .add, idx, n⟩ hu ?_,
    fun h => runs_semCommand ⟨req, .sub, idx, n⟩ hu ?_, fun h => runs_semCommand ⟨req, .sub, idx, n⟩ hu ?_,
    runs_semCommand ⟨req, .waitsub, idx, n⟩ hu ⟨semWaitsubOp_sameRegs, semWaitsubOp_count_le⟩,
    runs_semCommand ⟨req, .set, idx, n⟩ hu
      ⟨semSetBy_keeps_saturation_flags (by decide), semSetBy_keeps_saturation_flags (by decide)⟩⟩
  all_goals dsimp only [semApply]
  · rw [semAddOp_saturated h]
    have hstatus := rd_semSaturated_status (s := s) (r := req.val) (i := i) (v := 0xFFFFFFFF) (c := R.semOvfCnt) 0 (by decide)
    exact ⟨semCount_semSaturated _ _, semSaturated_result _ _, ⟨hstatus, rd_semSaturated_index _ (by decide) (by decide) hi⟩,
      rd_semSaturated_low _ (by decide) (by decide), rd_semSaturated_low _ (by decide) (by decide),
      evcLevel_of_cause (a := R.semStatus) (m := bitW 0) rfl (hstatus ▸ or_bitW_and_bitW_ne_zero _ (by decide))⟩
  · rw [semAddOp_within h]
    exact semDone_sameRegs
  · rw [semSubOp_saturated h]
    have hstatus := rd_semSaturated_status (s := s) (r := req.val) (i := i) (v := 0) (c := R.semUnfCnt) 1 (by decide)
    exact ⟨semCount_semSaturated _ _, semSaturated_result _ _, ⟨hstatus, rd_semSaturated_index _ (by decide) (by decide) hi⟩,
      rd_semSaturated_low _ (by decide) (by decide), rd_semSaturated_low _ (by decide) (by decide),
      evcLevel_of_cause (a := R.semStatus) (m := bitW 1) rfl (hstatus ▸ or_bitW_and_bitW_ne_zero _ (by decide))⟩
  · rw [semSubOp_within h]
    exact semDone_sameRegs

end Sys2Proof.Machine
end

section
/-! SUPPORT. The operation table for units and for the host (R78, R89 to R91). -/

namespace Sys2Proof.Machine
section
variable {s : State} {r i j : Nat} {n v : Word}

/-! ### What an operation leaves of the semaphore state (R78) -/

@[simp] theorem semStore_waiters (i : Nat) (v : Word) : (semStore s i v).sem.waiters = s.sem.waiters := by
  unfold semStore
  split <;> rfl

@[simp] theorem semStore_done (i : Nat) (v : Word) : (semStore s i v).sem.done = s.sem.done := by
  unfold semStore
  split <;> rfl

@[simp] theorem semServe_waiters (r i : Nat) : (semServe s r i).sem.waiters = s.sem.waiters := rfl
@[simp] theorem semServe_done (r i : Nat) : (semServe s r i).sem.done = s.sem.done := rfl
@[simp] theorem semResult_waiters (r i : Nat) (o : Bool) : (semResult s r o i).sem.waiters = s.sem.waiters := rfl
@[simp] theorem semResult_done (r i : Nat) (o : Bool) : (semResult s r o i).sem.done = s.sem.done := rfl

/-- The count of semaphore `i` is `c`; no other count, no wait, no byte and no time has changed. -/
def OnlyCount (s : State) (i c : Nat) (u : State) : Prop := (semCount u i).toNat = c ∧ (∀ j, j ≠ i → semCount u j = semCount s j) ∧
  u.sem.waiters = s.sem.waiters ∧ u.sem.done = s.sem.done ∧ u.mem = s.mem ∧ u.dt = s.dt

theorem toNat_semAdd (r i : Nat) (n : Word) :
    (semCount (semAddOp s r i n) i).toNat = min ((semCount s i).toNat + n.toNat) 0xFFFFFFFF := by
  rw [semCount_add_same, BitVec.toNat_ofNat, Nat.mod_eq_of_lt (by omega)]

theorem toNat_semSub (r i : Nat) (n : Word) : (semCount (semSubOp s r i n) i).toNat = (semCount s i).toNat - n.toNat := by
  have h := (semCount s i).isLt
  rw [semCount_sub_same, BitVec.toNat_ofNat, Nat.mod_eq_of_lt (by omega)]

theorem onlyCount_semAddOp (r i : Nat) (n : Word) :
    OnlyCount s i (min ((semCount s i).toNat + n.toNat) 0xFFFFFFFF) (semAddOp s r i n) := by
  refine ⟨toNat_semAdd r i n, fun j hj => semCount_add_other s r n hj, ?_, ?_, semAddOp_mem .., semAddOp_dt ..⟩
  all_goals
    unfold semAddOp
    dsimp only
    split <;> simp

theorem onlyCount_semSubOp (r i : Nat) (n : Word) :
    OnlyCount s i ((semCount s i).toNat - n.toNat) (semSubOp s r i n) := by
  refine ⟨toNat_semSub r i n, fun j hj => semCount_sub_other s r n hj, ?_, ?_, semSubOp_mem .., semSubOp_dt ..⟩
  all_goals
    unfold semSubOp
    dsimp only
    split <;> simp

theorem onlyCount_semSetOp (r i p : Nat) (v : Word) : OnlyCount s i v.toNat (semSetOp s r i v p) :=
  ⟨by rw [semCount_set_same], fun j hj => semCount_set_other s r p v hj, by simp [semSetOp], by simp [semSetOp], semSetOp_mem ..,
    semSetOp_dt ..⟩

/-- An operation hands the new count back. -/
theorem semAddOp_result (r i : Nat) (n : Word) :
    (semAddOp s r i n).sem.result = some (r, true, semCount (semAddOp s r i n) i) := rfl

theorem semSubOp_result (r i : Nat) (n : Word) :
    (semSubOp s r i n).sem.result = some (r, true, semCount (semSubOp s r i n) i) := rfl

theorem semSetOp_result (r i p : Nat) (v : Word) : (semSetOp s r i v p).sem.result = some (r, true, v) := by
  rw [semSetOp, semResult_result]
  simp

/-- R91: a hand-set is counted. -/
theorem rd_semSetOp_handCnt (r i p : Nat) (v : Word) : rd (semSetOp s r i v p) R.semHandCnt = incSat (rd s R.semHandCnt) := by
  have hlow : R.semHandCnt < 0x310000 := by decide
  simp [semSetOp, rd_bbx_low _ _ _ _ _ hlow]

/-- R91: a hand-set is recorded, where the AOM's queue has room. -/
theorem semSetOp_queue (r i p : Nat) (v : Word) (h : s.bbxQueue.length < 64) : (semSetOp s r i v p).bbxQueue = s.bbxQueue ++
    [⟨s.dt.now, 0x0801, 0x03, padTo 36 (leBytes 2 i ++ leBytes 1 p ++ leBytes 1 0 ++ leBytes 4 (semCount s i).toNat ++
      leBytes 4 v.toNat), true⟩] := by
  have hroom : ¬ 64 ≤ s.bbxQueue.length := not_le.mpr h
  simp [semSetOp, bbx, hroom]

/-! ### Who may SET (R78, R91) -/

theorem semSetBy_aom : semSetBy s 12 i v = semSetOp s 12 i v 1 := rfl

theorem semSetBy_host (h : 256 ≤ i) : semSetBy s 10 i v = semSetOp s 10 i v 0 := by
  rw [semSetBy, if_pos rfl, hostSem, if_neg (not_lt.mpr h)]

theorem semSetBy_other (h : r ≠ 12) (h' : r ≠ 10) : semSetBy s r i v = s := by
  rw [semSetBy, if_neg h', if_neg h]

end

theorem semaphore_counts_follow_the_table : ruleSemaphoreCountsFollowTheTable := by
  intro s req idx n hu i only
  have hset {P : State → Prop} (h : P (semSetBy s req.val i n)) : Runs (.semSet req idx n []) s P :=
    runs_semCommand ⟨req, .set, idx, n⟩ hu h
  refine ⟨runs_semCommand ⟨req, .add, idx, n⟩ hu ⟨onlyCount_semAddOp _ _ _, semAddOp_result _ _ _, semAddOp_frame ..⟩,
    runs_semCommand ⟨req, .sub, idx, n⟩ hu ⟨onlyCount_semSubOp _ _ _, semSubOp_result _ _ _, semSubOp_frame ..⟩,
    fun hreq => hset ?_, fun h12 h10 => hset (semSetBy_other h12 h10)⟩
  rcases hreq with h12 | ⟨h10, hi⟩
  · rw [h12, semSetBy_aom]
    exact ⟨onlyCount_semSetOp _ _ _ _, rd_semSetOp_handCnt _ _ _ _, semSetOp_result _ _ _ _⟩
  · rw [h10, semSetBy_host hi]
    exact ⟨onlyCount_semSetOp _ _ _ _, rd_semSetOp_handCnt _ _ _ _, semSetOp_result _ _ _ _⟩

/-! ### The host's operations (R89 to R91) -/

section
variable {s : State} {i : Nat}

theorem rd_semErr_status (b : Nat) : rd (semErr s b i) R.semStatus = rd s R.semStatus ||| bitW b :=
  rd_errInfo_same _ _ _ (by decide)

theorem rd_semErr_index (b : Nat) (hi : i < 4096) (h : rd s R.semStatus = 0) : rd (semErr s b i) R.semErrIdx = BitVec.ofNat 32 i := by
  rw [semErr, rd_errInfo_info _ _ _ (by decide), if_pos h, Nat.mod_eq_of_lt hi]

theorem hostSem_of_ge {f : State → State} (h : 256 ≤ i) : hostSem s i f = f s := if_neg (not_lt.mpr h)
theorem hostSem_of_lt {f : State → State} (h : i < 256) : hostSem s i f = semErr s 2 i := if_pos h

theorem exec_semHostAdd (idx : BitVec 12) (hu : s.up = true) : exec (.semHostAdd idx) s =
    .next (hostSem s idx.toNat fun s => semAddOp s 10 idx.toNat (rd s R.semHostN)) :=
  (fabric_up s hu : execSemHostAdd idx s = _)

theorem exec_semHostSub (idx : BitVec 12) (hu : s.up = true) : exec (.semHostSub idx) s =
    .next (hostSem s idx.toNat fun s => semSubOp s 10 idx.toNat (rd s R.semHostN)) :=
  (fabric_up s hu : execSemHostSub idx s = _)

theorem exec_semHostSet (idx : BitVec 12) (hu : s.up = true) : exec (.semHostSet idx) s =
    .next (hostSem s idx.toNat fun s => semSetOp s 10 idx.toNat (rd s R.semHostN) 0) :=
  (fabric_up s hu : execSemHostSet idx s = _)

theorem exec_semWindowWrite (idx : BitVec 12) (v : Word) (hu : s.up = true) : exec (.semWindowWrite idx v) s =
    .next (semErr s 3 idx.toNat) :=
  (fabric_up s hu : execSemWindowWrite idx v s = _)

end

theorem host_semaphore_operations : ruleHostSemaphoreOperations := by
  intro s idx hu i n turned
  have hi : i < 4096 := idx.isLt
  have hturned : ∀ b, turned (semErr s b i) (bitW b) := fun b => ⟨rd_semErr_status b, semErr_frame ..⟩
  refine ⟨fun hge => ⟨⟨_, exec_semHostAdd idx hu, ?_⟩, ⟨_, exec_semHostSub idx hu, ?_⟩, ⟨_, exec_semHostSet idx hu, ?_⟩⟩,
    fun hlt => ⟨⟨_, exec_semHostAdd idx hu, ?_⟩, ⟨_, exec_semHostSub idx hu, ?_⟩, ⟨_, exec_semHostSet idx hu, ?_⟩⟩,
    fun v => ⟨_, exec_semWindowWrite idx v hu, hturned 3, rd_semErr_index 3 hi⟩⟩
  · rw [hostSem_of_ge hge]
    exact ⟨toNat_semAdd _ _ _, semAddOp_result _ _ _⟩
  · rw [hostSem_of_ge hge]
    exact ⟨toNat_semSub _ _ _, semSubOp_result _ _ _⟩
  · rw [hostSem_of_ge hge]
    exact ⟨semCount_set_same .., rd_semSetOp_handCnt _ _ _ _, fun hroom => ⟨_, semSetOp_queue _ _ _ _ hroom, rfl, rfl, rfl⟩⟩
  all_goals
    rw [hostSem_of_lt hlt]
    exact hturned 2

end Sys2Proof.Machine
end

section
/-! SUPPORT. The order in which a bank serves the operations of one cycle (R80, R83); O18. -/

namespace Sys2Proof.Machine
section
variable {s : State} {r i : Nat} {n v : Word}

/-! ### States that differ in the results alone -/

/-- The state with other results of the last operations: what an operation leaves but never reads. -/
def withResults (s : State) (x : Option (Nat × Bool × Word)) (l : List (Nat × Bool × Word)) : State :=
  { s with sem := { s.sem with result := x, results := l } }

variable {x : Option (Nat × Bool × Word)} {l : List (Nat × Bool × Word)}

@[simp] theorem rd_withResults (a : Nat) : rd (withResults s x l) a = rd s a := rfl
@[simp] theorem semCount_withResults (i : Nat) : semCount (withResults s x l) i = semCount s i := rfl
@[simp] theorem withResults_withResults (y : Option (Nat × Bool × Word)) (k : List (Nat × Bool × Word)) :
    withResults (withResults s x l) y k = withResults s y k := rfl
@[simp] theorem semServe_withResults : semServe (withResults s x l) r i = withResults (semServe s r i) x l := rfl
@[simp] theorem bump_withResults (a : Nat) : bump (withResults s x l) a = withResults (bump s a) x l := rfl

@[simp] theorem semResult_withResults (o : Bool) :
    semResult (withResults s x l) r o i = withResults (semResult s r o i) (semResult s r o i).sem.result l := rfl

theorem withResults_ite {c : Prop} [Decidable c] {a b : State} :
    (if c then withResults a x l else withResults b x l) = withResults (if c then a else b) x l := by split <;> rfl

@[simp] theorem semStore_withResults : semStore (withResults s x l) i v = withResults (semStore s i v) x l := by
  rw [semStore, semStore, ← withResults_ite]
  rfl

@[simp] theorem semErr_withResults (b : Nat) : semErr (withResults s x l) b i = withResults (semErr s b i) x l := by
  have hwr (a : Nat) (w : Word) : wr (withResults s x l) a w = withResults (wr s a w) x l := rfl
  rw [semErr, semErr, errInfo, errInfo, rd_withResults, hwr, withResults_ite]
  rfl

@[simp] theorem bbx_withResults (c u : Nat) (m : List Byte) (p : Bool) :
    bbx (withResults s x l) c u m p = withResults (bbx s c u m p) x l := by
  rw [bbx, bbx, ← withResults_ite]
  rfl

theorem semAddOp_withResults :
    semAddOp (withResults s x l) r i n = withResults (semAddOp s r i n) (semAddOp s r i n).sem.result l := by
  simp only [semAddOp, semCount_withResults, semServe_withResults, semStore_withResults, bump_withResults, semErr_withResults,
    withResults_ite, semResult_withResults]

theorem semSubOp_withResults :
    semSubOp (withResults s x l) r i n = withResults (semSubOp s r i n) (semSubOp s r i n).sem.result l := by
  simp only [semSubOp, semCount_withResults, semServe_withResults, semStore_withResults, bump_withResults, semErr_withResults,
    withResults_ite, semResult_withResults]

theorem semWaitsubOp_withResults :
    semWaitsubOp (withResults s x l) r i n = withResults (semWaitsubOp s r i n) (semWaitsubOp s r i n).sem.result l := by
  simp only [semWaitsubOp, semTest, semCount_withResults, semServe_withResults, semStore_withResults, withResults_ite,
    semResult_withResults]
  rfl

theorem semSetOp_withResults (p : Nat) :
    semSetOp (withResults s x l) r i v p = withResults (semSetOp s r i v p) (semSetOp s r i v p).sem.result l := by
  simp only [semSetOp, semCount_withResults, semServe_withResults, semStore_withResults, bump_withResults, bbx_withResults,
    semResult_withResults]

theorem semSetBy_withResults : ∃ y, semSetBy (withResults s x l) r i v = withResults (semSetBy s r i v) y l := by
  unfold semSetBy hostSem
  repeat' split
  · exact ⟨x, semErr_withResults 2⟩
  · exact ⟨_, semSetOp_withResults 0⟩
  · exact ⟨_, semSetOp_withResults 1⟩
  · exact ⟨x, rfl⟩

/-- What an operation does depends on no result. -/
theorem semApply_withResults (q : SemReq) : ∃ y, semApply (withResults s x l) q = withResults (semApply s q) y l := by
  obtain ⟨req, kind, idx, n⟩ := q
  cases kind
  case add => exact ⟨_, semAddOp_withResults⟩
  case sub => exact ⟨_, semSubOp_withResults⟩
  case wait => exact ⟨_, rfl⟩
  case waitsub => exact ⟨_, semWaitsubOp_withResults⟩
  case set => exact semSetBy_withResults

/-! ### Two operations of one cycle (R80, R83) -/

/-- The state with the result in hand kept among those of the cycle. -/
def resultKept (s : State) : State := withResults s s.sem.result (s.sem.results ++ s.sem.result.toList)

/-- An operation in its turn does what it does alone. -/
theorem semStep_withResults (q : SemReq) : ∃ y k, semStep (withResults s x l) q = withResults (semApply s q) y k := by
  obtain ⟨y, h⟩ := semApply_withResults (s := s) (x := none) (l := l) q
  have hstep : semStep (withResults s x l) q = resultKept (semApply (withResults s none l) q) := rfl
  rw [hstep, h]
  exact ⟨_, _, rfl⟩

theorem semOrder_pair (q r : SemReq) : semOrder s i [q, r] =
    if semTurn s i q.req.val < semTurn s i r.req.val then [q, r] else [r, q] := rfl

/-- Operations of one cycle leave what they leave in turn, but for the results. -/
theorem foldl_semStep : ∀ (ops : List SemReq) (s : State) (x : Option (Nat × Bool × Word)) (l : List (Nat × Bool × Word)),
    ∃ y k, ops.foldl semStep (withResults s x l) = withResults (ops.foldl semApply s) y k
  | [], _, x, l => ⟨x, l, rfl⟩
  | q :: ops, s, x, l => by
    obtain ⟨y, k, h⟩ := semStep_withResults (s := s) (x := x) (l := l) q
    rw [List.foldl_cons, List.foldl_cons, h]
    exact foldl_semStep ops (semApply s q) y k

theorem semContend_eq (q : SemReq) (rivals : List SemReq) : ∃ y k, semContend s q rivals = withResults ((semOrder s q.idx.toNat
    (q :: rivals.filter fun x => x.idx.toNat % 4 == q.idx.toNat % 4)).foldl semApply s) y k := by
  obtain ⟨y, k, h⟩ := foldl_semStep (semOrder s q.idx.toNat (q :: rivals.filter fun x => x.idx.toNat % 4 == q.idx.toNat % 4)) s
    s.sem.result []
  unfold semContend
  exact ⟨_, k, congrArg (fun t : State => withResults t (t.sem.results.find? fun r => r.1 == q.req.val) t.sem.results) h⟩

theorem sameSems_withResults (s : State) : sameSems s (withResults s x l) := ⟨rfl, rfl, rfl, rfl⟩

theorem exec_semCommand_rival (q r : SemReq) (hu : s.up = true) : exec (semCommand q [r]) s = .next (semContend s q [r]) := by
  obtain ⟨req, kind, idx, n⟩ := q
  cases kind
  case add => exact (fabric_up s hu : execSemAdd req idx n [r] s = _)
  case sub => exact (fabric_up s hu : execSemSub req idx n [r] s = _)
  case wait => exact (fabric_up s hu : execSemWait req idx n [r] s = _)
  case waitsub => exact (fabric_up s hu : execSemWaitsub req idx n [r] s = _)
  case set => exact (fabric_up s hu : execSemSet req idx n [r] s = _)

theorem semApply_up (q : SemReq) : (semApply s q).up = s.up := by
  obtain ⟨req, kind, idx, n⟩ := q
  cases kind
  case add => exact semAddOp_up ..
  case sub => exact semSubOp_up ..
  case wait => exact semWaitOp_up ..
  case waitsub => exact semWaitsubOp_up ..
  case set =>
    show (semSetBy s _ _ _).up = s.up
    unfold semSetBy hostSem
    repeat' split
    all_goals simp

/-- Of two operations at one bank the first served is `a`, the second `b`. -/
theorem served_in_order {q r a b : SemReq} (hu : s.up = true) (hbank : r.idx.toNat % 4 = q.idx.toNat % 4)
    (h : semOrder s q.idx.toNat [q, r] = [a, b]) : ∃ t u, exec (semCommand a []) s = .next t ∧ exec (semCommand b []) t = .next u ∧
      Runs (semCommand q [r]) s (sameSems u) := by
  obtain ⟨y, k, hc⟩ := semContend_eq (s := s) q [r]
  have hfilter : ([r].filter fun x => x.idx.toNat % 4 == q.idx.toNat % 4) = [r] := by simp [hbank]
  rw [hfilter, h] at hc
  exact ⟨_, _, exec_semCommand a hu, exec_semCommand b ((semApply_up a).trans hu), _, exec_semCommand_rival q r hu,
    hc ▸ sameSems_withResults _⟩

/-- An operation at another bank does not contend. -/
theorem served_alone {q r : SemReq} (hu : s.up = true) (hbank : r.idx.toNat % 4 ≠ q.idx.toNat % 4) :
    ∃ t, exec (semCommand q []) s = .next t ∧ Runs (semCommand q [r]) s (sameSems t) := by
  obtain ⟨y, k, hc⟩ := semContend_eq (s := s) q [r]
  have hfilter : ([r].filter fun x => x.idx.toNat % 4 == q.idx.toNat % 4) = [] := by simp [hbank]
  rw [hfilter] at hc
  exact ⟨_, exec_semCommand q hu, _, exec_semCommand_rival q r hu, hc ▸ sameSems_withResults _⟩

end

theorem banks_serve_in_turn : ruleBanksServeInTurn := by
  intro s q r hu _ i turn after
  refine ⟨fun hbank hturn => served_in_order hu hbank ?_, fun hbank hturn => served_in_order hu hbank ?_, served_alone hu⟩
  · exact (semOrder_pair q r).trans (if_neg (not_lt.mpr (le_of_lt hturn)))
  · exact (semOrder_pair q r).trans (if_pos hturn)

/-- Settles O18: an operation depends on no result left by another, so contending ones do in turn what they do alone. -/
theorem semaphoresFollowTheTable : Obligations.SemaphoresFollowTheTable :=
  ⟨semaphore_counts_follow_the_table, host_semaphore_operations, banks_serve_in_turn⟩

end Sys2Proof.Machine
end

section
/-! SUPPORT. Sets of sources, and what a claim finds (R97 to R100). -/

namespace Sys2Proof.Machine
section
variable {s : State}

/-! ### Sets of sources -/

theorem inSet_single {n : Nat} (m : Nat) (h : n < 512) : inSet (1#512 <<< n) m = decide (m = n) := by
  rw [inSet, BitVec.getLsbD_shiftLeft, BitVec.getLsbD_one]
  by_cases hm : m = n
  · simp [hm, h]
  · by_cases hlt : m < n
    · simp [hlt, hm]
    · have hsub : m - n ≠ 0 := by omega
      simp [hm, hsub]

theorem inSet_delSet_same (b : BitVec 512) {n : Nat} (h : n < 512) : inSet (delSet b n) n = false := by
  rw [delSet, inSet_diff, inSet_single n h]
  simp

theorem inSet_delSet_other (b : BitVec 512) {n m : Nat} (hn : n < 512) (h : m ≠ n) : inSet (delSet b n) m = inSet b m := by
  rw [delSet, inSet_diff, inSet_single m hn]
  simp [h]

/-- Two sets with the same sources are one. -/
theorem set_ext {a b : BitVec 512} (h : ∀ m, m < 512 → inSet a m = inSet b m) : a = b := BitVec.eq_of_getLsbD_eq h

theorem delSet_addSet {b : BitVec 512} {n : Nat} (hn : n < 512) (h : inSet b n = false) : delSet (addSet b n) n = b := by
  refine set_ext fun m _ => ?_
  by_cases hm : m = n
  · rw [hm, inSet_delSet_same _ hn, h]
  · rw [inSet_delSet_other _ hn hm, inSet_addSet_other _ hm]

/-- A source taken out of a set and put back where it was. -/
theorem restore_delSet (b : BitVec 512) {n : Nat} (hn : n < 512) :
    (if inSet b n then addSet (delSet b n) n else delSet b n) = b := by
  refine set_ext fun m _ => ?_
  by_cases hm : m = n
  · subst m
    split
    case isTrue h => rw [inSet_addSet_same _ hn, h]
    case isFalse h => rw [inSet_delSet_same _ hn, Bool.eq_false_iff.mpr h]
  · split
    · rw [inSet_addSet_other _ hm, inSet_delSet_other _ hn hm]
    · rw [inSet_delSet_other _ hn hm]

/-! ### The most urgent source (R98) -/

/-- `a` goes before `b`: of higher PRIO, or of the same PRIO and no higher ID. -/
def asUrgent (s : State) (a b : Nat) : Prop := evcPrio s b < evcPrio s a ∨ evcPrio s b = evcPrio s a ∧ a ≤ b

theorem moreUrgent_eq_or (a b : Nat) : moreUrgent s a b = a ∨ moreUrgent s a b = b := by
  unfold moreUrgent
  split
  · exact .inl rfl
  · exact .inr rfl

theorem asUrgent_moreUrgent (a b : Nat) : asUrgent s (moreUrgent s a b) a ∧ asUrgent s (moreUrgent s a b) b := by
  unfold moreUrgent asUrgent
  split <;> omega

theorem asUrgent.trans {a b c : Nat} (h : asUrgent s a b) (h' : asUrgent s b c) : asUrgent s a c := by
  unfold asUrgent at *
  omega

theorem mostUrgent_mem : ∀ {l : List Nat}, l ≠ [] → mostUrgent s l ∈ l
  | [_], _ => List.mem_singleton_self _
  | n :: m :: l, _ => by
    have hl : mostUrgent s (m :: l) ∈ m :: l := mostUrgent_mem (List.cons_ne_nil m l)
    show moreUrgent s n (mostUrgent s (m :: l)) ∈ _
    rcases moreUrgent_eq_or (s := s) n (mostUrgent s (m :: l)) with h | h
    · rw [h]
      exact List.mem_cons_self
    · rw [h]
      exact List.mem_cons_of_mem _ hl

theorem asUrgent_mostUrgent : ∀ {l : List Nat} {m : Nat}, m ∈ l → asUrgent s (mostUrgent s l) m
  | [n], m, h => by
    rw [List.mem_singleton.mp h]
    exact .inr ⟨rfl, le_rfl⟩
  | n :: k :: l, m, h => by
    obtain ⟨hn, hl⟩ := asUrgent_moreUrgent (s := s) n (mostUrgent s (k :: l))
    rcases List.mem_cons.mp h with rfl | h
    · exact hn
    · exact hl.trans (asUrgent_mostUrgent h)

/-! ### What a claim finds (R97, R99) -/

/-- The sources that a claim by target `t` may find, those of `earlier` counting as pending. -/
def eligible (s : State) (t : Nat) (earlier : List Nat) : List Nat :=
  ((List.range 512).filter (fun n => decide (1 ≤ n))).filter fun n =>
    evcEligible s t n (evcPending s n || earlier.contains n) (runningGroup s t)

theorem evcBest_eq (t : Nat) (earlier : List Nat) : evcBest s t earlier = mostUrgent s (eligible s t earlier) := rfl

theorem evcEligible_iff {t n : Nat} {p : Bool} {g : Option Nat} : evcEligible s t n p g = true ↔
    p = true ∧ inSet (tabGet 0 s.evc.en t) n = true ∧ rb s (R.evcSrcCfg (n - 1)) (8 + t) = true ∧ evcPrio s n ≠ 0 ∧
      ∀ k, g = some k → k < evcGroup s t n := by
  cases g <;> simp [evcEligible, and_assoc]

theorem mem_eligible {t m : Nat} {earlier : List Nat} : m ∈ eligible s t earlier ↔
    1 ≤ m ∧ m < 512 ∧ evcEligible s t m (evcPending s m || earlier.contains m) (runningGroup s t) = true := by
  simp only [eligible, List.mem_filter, List.mem_range, decide_eq_true_eq]
  tauto

theorem mem_eligible_alone {t m : Nat} : m ∈ eligible s t [] ↔ claimable s t m := by
  rw [mem_eligible, evcEligible_iff, claimable, List.contains_nil, Bool.or_false]

/-- A claim finds a source that may be claimed, as urgent as any. -/
theorem evcBest_of_claimable {t m : Nat} (h : claimable s t m) :
    claimable s t (evcBest s t []) ∧ asUrgent s (evcBest s t []) m := by
  have hm := mem_eligible_alone.mpr h
  rw [evcBest_eq]
  exact ⟨mem_eligible_alone.mp (mostUrgent_mem (List.ne_nil_of_mem hm)), asUrgent_mostUrgent hm⟩

theorem evcBest_of_none {t : Nat} (h : ∀ m, ¬ claimable s t m) : evcBest s t [] = 0 := by
  have hnil : eligible s t [] = [] := List.eq_nil_iff_forall_not_mem.mpr fun m hm => h m (mem_eligible_alone.mp hm)
  rw [evcBest_eq, hnil]
  rfl

/-- What a claim finds: nothing, or a source eligible for it. -/
theorem evcBest_zero_or_mem (t : Nat) (earlier : List Nat) :
    evcBest s t earlier = 0 ∨ evcBest s t earlier ∈ eligible s t earlier := by
  rw [evcBest_eq]
  rcases eq_or_ne (eligible s t earlier) [] with h | h
  · exact .inl (by rw [h]; rfl)
  · exact .inr (mostUrgent_mem h)

theorem evcBest_lt (t : Nat) (earlier : List Nat) : evcBest s t earlier < 512 := by
  rcases evcBest_zero_or_mem (s := s) t earlier with h | h
  · omega
  · exact (mem_eligible.mp h).2.1

end
end Sys2Proof.Machine
end

section
/-! SUPPORT. Claims, one after another and of one cycle, and completions (R98 to R101, R104); O20. -/

namespace Sys2Proof.Machine
section
variable {s : State} {t : Nat}

/-! ### One claim (R98, R100) -/

/-- The source that a claim by target `t` takes: 0 for none, 0x3FF where an earlier claim of the cycle has it. -/
def claimResult (s : State) (t : Nat) : Nat :=
  let n := evcBest s t (cycleTaken s)
  if n = 0 then 0 else if (cycleTaken s).contains n then 0x3FF else n

/-- Whether a claim result names a source. -/
def namesSource (n : Nat) : Bool := decide (n ≠ 0 ∧ n ≠ 0x3FF)

/-- The active sources of target `t` after a claim with result `n`. -/
def activeAfter (s : State) (t n : Nat) : Tab (BitVec 512) :=
  if namesSource n then tabSet 0 s.evc.active t (addSet (tabGet 0 s.evc.active t) n) else s.evc.active

/-- What a claim with result `n` leaves. -/
def claimLeaves (s : State) (t n : Nat) (latched : Bool) : State := { s with evc := { s.evc with
  cycleClaims := s.evc.cycleClaims ++ [⟨t, n, latched⟩]
  response := tabSet 0 s.evc.response t (claimWord s n)
  active := activeAfter s t n
  latch := if namesSource n then delSet s.evc.latch n else s.evc.latch } }

theorem claimOne_eq (s : State) (t : Nat) :
    claimOne s t = claimLeaves s t (claimResult s t) (inSet s.evc.latch (evcBest s t (cycleTaken s))) := by
  have hlt := evcBest_lt (s := s) t (cycleTaken s)
  unfold claimOne claimResult
  dsimp only
  generalize evcBest s t (cycleTaken s) = n at hlt
  by_cases h0 : n = 0
  · simp only [h0, if_true]
    rfl
  · rcases Bool.eq_false_or_eq_true ((cycleTaken s).contains n) with hlost | hlost
    · simp only [h0, hlost, if_false, if_true, ne_eq, not_false_eq_true, and_self]
      rfl
    · have hnames : namesSource n = true := by
        have h3ff : n ≠ 0x3FF := by omega
        simp [namesSource, h0, h3ff]
      simp only [h0, hlost, Bool.false_eq_true, and_false, if_false, claimLeaves, activeAfter, hnames, if_true]
      rfl

theorem claimLeaves_up (n : Nat) (l : Bool) : (claimLeaves s t n l).up = s.up := rfl

theorem claimLeaves_response (n k : Nat) (l : Bool) : tabGet 0 (claimLeaves s t n l).evc.response k =
    if k = t then claimWord s n else tabGet 0 s.evc.response k := by
  split
  · subst k
    exact tabGet_set_same ..
  · exact tabGet_set_other _ _ _ _ ‹_›

theorem tabGet_activeAfter (n k : Nat) : tabGet 0 (activeAfter s t n) k =
    if k = t ∧ namesSource n = true then addSet (tabGet 0 s.evc.active k) n else tabGet 0 s.evc.active k := by
  unfold activeAfter
  by_cases hn : namesSource n = true
  · by_cases hk : k = t
    · subst k
      simp [hn]
    · simp [hn, hk, tabGet_set_other]
  · simp [hn]

/-! ### States that claims do not tell apart -/

/-- All that decides what a claim finds is the same. -/
structure ClaimsAlike (a b : State) : Prop where
  regs : ∀ x, rd b x = rd a x
  failLow : b.aon.failLow = a.aon.failLow
  en : b.evc.en = a.evc.en
  held : b.evc.held = a.evc.held
  latch : b.evc.latch = a.evc.latch
  active : ∀ k, tabGet 0 b.evc.active k = tabGet 0 a.evc.active k

variable {a b : State}

theorem mostUrgent_of_prio (h : ∀ n, evcPrio b n = evcPrio a n) : ∀ l, mostUrgent b l = mostUrgent a l
  | [] => rfl
  | [_] => rfl
  | n :: m :: l => by
    show moreUrgent b n _ = moreUrgent a n _
    rw [mostUrgent_of_prio h (m :: l), moreUrgent, moreUrgent, h, h]

namespace ClaimsAlike

theorem prio (h : ClaimsAlike a b) (n : Nat) : evcPrio b n = evcPrio a n := by simp only [evcPrio, rf, h.regs]

theorem claimWord (h : ClaimsAlike a b) (n : Nat) : claimWord b n = Machine.claimWord a n := by
  simp only [Machine.claimWord, h.prio]

theorem evcLevel (h : ClaimsAlike a b) (n : Nat) : evcLevel b n = Machine.evcLevel a n := by
  have hany : ∀ k, anyGraphEvent b k = anyGraphEvent a k := fun k => by simp only [anyGraphEvent, rb, h.regs]
  unfold Machine.evcLevel
  rw [h.held, h.failLow]
  cases evcCause n
  case none => rw [hany]
  case some c => simp only [h.regs]

theorem evcPending (h : ClaimsAlike a b) (n : Nat) : evcPending b n = Machine.evcPending a n := by
  simp only [Machine.evcPending, activeAny, h.active, h.evcLevel, h.latch]

theorem evcGroup (h : ClaimsAlike a b) (t n : Nat) : evcGroup b t n = Machine.evcGroup a t n := by
  simp only [Machine.evcGroup, rf, h.regs, h.prio]

theorem runningGroup (h : ClaimsAlike a b) (t : Nat) : runningGroup b t = Machine.runningGroup a t := by
  have hactive : activeAt b t = activeAt a t :=
    congrArg (fun A => (List.range 512).filter fun n => inSet A n) (h.active t)
  unfold Machine.runningGroup
  rw [hactive]
  simp only [h.evcGroup]

theorem evcEligible (h : ClaimsAlike a b) (t n : Nat) (p : Bool) (g : Option Nat) :
    evcEligible b t n p g = Machine.evcEligible a t n p g := by
  simp only [Machine.evcEligible, rb, h.regs, h.en, h.prio, h.evcGroup]

theorem evcBest (h : ClaimsAlike a b) (t : Nat) (l : List Nat) : evcBest b t l = Machine.evcBest a t l := by
  simp only [Machine.evcBest, mostUrgent_of_prio h.prio, h.runningGroup, h.evcPending, h.evcEligible]

theorem freshCycle (s : State) : ClaimsAlike s (freshCycle s) := ⟨fun _ => rfl, rfl, rfl, rfl, rfl, fun _ => rfl⟩

theorem freshCycled (h : ClaimsAlike a b) : ClaimsAlike a (Machine.freshCycle b) := ⟨h.regs, h.failLow, h.en, h.held, h.latch, h.active⟩

/-- With the same claims evaluated before, a claim has the same result. -/
theorem claimResult (h : ClaimsAlike a b) (hc : b.evc.cycleClaims = a.evc.cycleClaims) (t : Nat) :
    claimResult b t = Machine.claimResult a t := by
  have htaken : cycleTaken b = cycleTaken a := by rw [cycleTaken, hc, cycleTaken]
  rw [Machine.claimResult, Machine.claimResult, htaken, h.evcBest]

theorem response (h : ClaimsAlike a b) (hc : b.evc.cycleClaims = a.evc.cycleClaims) (t : Nat) :
    Machine.claimWord b (Machine.claimResult b t) = Machine.claimWord a (Machine.claimResult a t) := by
  rw [h.claimWord, h.claimResult hc]

/-- With the same result, claims leave states that claims do not tell apart. -/
theorem claimLeaves (h : ClaimsAlike a b) (t n : Nat) (l k : Bool) :
    ClaimsAlike (claimLeaves a t n l) (claimLeaves b t n k) where
  regs := h.regs
  failLow := h.failLow
  en := h.en
  held := h.held
  latch := by
    show (if _ then delSet b.evc.latch n else b.evc.latch) = if _ then delSet a.evc.latch n else a.evc.latch
    rw [h.latch]
  active k := by
    show tabGet 0 (activeAfter b t n) k = tabGet 0 (activeAfter a t n) k
    rw [tabGet_activeAfter, tabGet_activeAfter, h.active]

end ClaimsAlike

theorem ClaimsAlike.claimOne (h : ClaimsAlike a b) (hc : b.evc.cycleClaims = a.evc.cycleClaims) (t : Nat) :
    ClaimsAlike (claimOne a t) (claimOne b t) ∧ (claimOne b t).evc.cycleClaims = (claimOne a t).evc.cycleClaims := by
  have htaken : cycleTaken b = cycleTaken a := by rw [cycleTaken, hc, cycleTaken]
  rw [claimOne_eq, claimOne_eq, h.claimResult hc]
  refine ⟨h.claimLeaves _ _ _ _, ?_⟩
  show b.evc.cycleClaims ++ _ = a.evc.cycleClaims ++ _
  rw [hc, htaken, h.evcBest, h.latch]

theorem claimOne_response (s : State) (t k : Nat) : tabGet 0 (claimOne s t).evc.response k =
    if k = t then claimWord s (claimResult s t) else tabGet 0 s.evc.response k := by
  rw [claimOne_eq, claimLeaves_response]

/-! ### The first claim of a cycle -/

theorem exec_evcClaim {t : Fin 3} (hu : s.up = true) : exec (.evcClaim t false) s = .next (claimOne (freshCycle s) t.val) := by
  show execEvcClaim t false s = _
  rw [execEvcClaim_alone, fabric_up s hu]

theorem claimResult_freshCycle (s : State) (t : Nat) : claimResult (freshCycle s) t = evcBest s t [] := by
  have htaken : cycleTaken (freshCycle s) = [] := rfl
  unfold claimResult
  rw [htaken, (ClaimsAlike.freshCycle s).evcBest]
  dsimp only
  generalize evcBest s t [] = n
  by_cases h : n = 0 <;> simp [h]

/-- Alone in its cycle a claim takes what it finds. -/
theorem claimOne_freshCycle (s : State) (t : Nat) :
    claimOne (freshCycle s) t = claimLeaves (freshCycle s) t (evcBest s t []) (inSet s.evc.latch (evcBest s t [])) := by
  have htaken : cycleTaken (freshCycle s) = [] := rfl
  rw [claimOne_eq, claimResult_freshCycle, htaken, (ClaimsAlike.freshCycle s).evcBest]
  generalize evcBest s t [] = n
  rfl

theorem namesSource_iff_of_lt {n : Nat} (h : n < 512) : namesSource n = true ↔ n ≠ 0 := by
  have h3ff : n ≠ 0x3FF := by omega
  simp [namesSource, h3ff]

theorem claimWord_eq {n : Nat} (h : n < 512) : n ≠ 0 → claimWord s n = BitVec.ofNat 32 (evcPrio s n * 65536 + n) := by
  intro h0
  have h3ff : ¬ (n = 0 ∨ n = 0x3FF) := by omega
  rw [claimWord, if_neg h3ff]

theorem claimWord_zero : claimWord s 0 = 0 := by simp [claimWord]

end

theorem claim_takes_most_urgent_source : ruleClaimTakesTheMostUrgentSource := by
  intro s t hu
  refine ⟨fun m hm => ⟨_, exec_evcClaim hu, ?_⟩, fun hm => ⟨_, exec_evcClaim hu, ?_⟩⟩
  · obtain ⟨hn, hurgent⟩ := evcBest_of_claimable hm
    rw [claimOne_freshCycle]
    generalize evcBest s t.val [] = n at hn hurgent
    obtain ⟨hpos, hlt, -⟩ := id hn
    have hnames := (namesSource_iff_of_lt hlt).mpr (by omega)
    refine ⟨n, hn, hurgent.imp_right fun h => ⟨h.1, h.2⟩, ?_, ?_, ?_, fun k hk => ?_, rfl⟩
    · rw [claimLeaves_response, if_pos rfl, ← claimWord_eq hlt (by omega)]
      rfl
    · exact (tabGet_activeAfter ..).trans (if_pos ⟨rfl, hnames⟩)
    · exact if_pos hnames
    · exact (tabGet_activeAfter ..).trans (if_neg fun h => hk h.1)
  · rw [claimOne_freshCycle, evcBest_of_none hm]
    refine ⟨?_, rfl, rfl, rfl⟩
    rw [claimLeaves_response, if_pos rfl, claimWord_zero]

section
variable {s : State} {t : Nat}

/-! ### The claims of one cycle (R100) -/

theorem exec_evcClaim_after {t' n : Nat} {l : Bool} {t : Fin 3} (hu : s.up = true) (hc : s.evc.cycleClaims = [⟨t', n, l⟩])
    (h : t' < t.val) : exec (.evcClaim t true) s = .next (claimOne s t.val) := by
  show execEvcClaim t true s = _
  have hself : { s with evc := { s.evc with cycleClaims := [⟨t', n, l⟩] } } = s := by rw [← hc]
  have hne : t' ≠ t.val := by omega
  have hnot : ¬ t.val < t' := by omega
  rw [execEvcClaim, fabric_up s hu]
  simp [hc, h, hne, hnot, hself]

theorem exec_evcClaim_before {t' n : Nat} {l : Bool} {t : Fin 3} (hu : s.up = true) (hc : s.evc.cycleClaims = [⟨t', n, l⟩])
    (h : t.val < t') :
    exec (.evcClaim t true) s = .next (claimOne (claimOne (freshCycle (unclaim s ⟨t', n, l⟩)) t.val) t') := by
  show execEvcClaim t true s = _
  have hne : t' ≠ t.val := by omega
  have hnot : ¬ t' < t.val := by omega
  rw [execEvcClaim, fabric_up s hu]
  simp [hc, h, hne, hnot, freshCycle]

theorem not_active_of_claimable {n : Nat} (h : claimable s t n) (ht : t < 3) : inSet (tabGet 0 s.evc.active t) n = false := by
  obtain ⟨-, -, hpending, -⟩ := h
  have hany : activeAny s n = false := by
    rw [evcPending, Bool.and_eq_true, Bool.not_eq_true'] at hpending
    exact hpending.1
  have hall := List.any_eq_false.mp hany t (List.mem_range.mpr ht)
  exact Bool.eq_false_iff.mpr hall

theorem unclaim_response (c : ClaimRec) : (unclaim s c).evc.response = s.evc.response := by
  unfold unclaim
  split <;> rfl

theorem freshCycle_response : (freshCycle s).evc.response = s.evc.response := rfl

theorem unclaimed_response {k : Nat} (c : ClaimRec) (h : k ≠ t) :
    tabGet 0 (freshCycle (unclaim (claimOne s t) c)).evc.response k = tabGet 0 s.evc.response k := by
  rw [freshCycle_response, unclaim_response, claimOne_response, if_neg h]

/-- A claim taken back leaves what claims find as it was before it. -/
theorem unclaim_alike {n : Nat} (h : n = 0 ∨ claimable s t n) (ht : t < 3) :
    ClaimsAlike s (unclaim (claimLeaves s t n (inSet s.evc.latch n)) ⟨t, n, inSet s.evc.latch n⟩) := by
  rcases h with rfl | h
  · have hnames : namesSource 0 = false := rfl
    refine ⟨fun _ => rfl, rfl, rfl, rfl, rfl, fun k => ?_⟩
    show tabGet 0 (activeAfter s t 0) k = _
    rw [tabGet_activeAfter, hnames, if_neg fun h => Bool.false_ne_true h.2]
  · obtain ⟨hpos, hlt, -⟩ := id h
    have hreal : ¬ (n = 0 ∨ n = 0x3FF) := by omega
    have hnames := (namesSource_iff_of_lt hlt).mpr (by omega)
    rw [unclaim, if_neg hreal]
    refine ⟨fun _ => rfl, rfl, rfl, rfl, ?_, fun k => ?_⟩
    · show (if inSet s.evc.latch n then addSet (if _ then delSet s.evc.latch n else _) n else if _ then delSet s.evc.latch n else _) = _
      rw [if_pos hnames, restore_delSet _ hlt]
    · show tabGet 0 (tabSet 0 (activeAfter s t n) t (delSet (tabGet 0 (activeAfter s t n) t) n)) k = _
      by_cases hk : k = t
      · subst k
        rw [tabGet_set_same, tabGet_activeAfter, if_pos ⟨rfl, hnames⟩, delSet_addSet hlt (not_active_of_claimable h ht)]
      · rw [tabGet_set_other _ _ _ _ hk, tabGet_activeAfter, if_neg fun h => hk h.1]

theorem evcPending_claimLeaves {n m : Nat} (l : Bool) (hn : n < 512) (h : m ≠ n) :
    evcPending (claimLeaves s t n l) m = evcPending s m := by
  have hlatch : inSet (claimLeaves s t n l).evc.latch m = inSet s.evc.latch m := by
    show inSet (if _ then delSet s.evc.latch n else s.evc.latch) m = _
    split
    · exact inSet_delSet_other _ hn h
    · rfl
  have hactive : ∀ k, inSet (tabGet 0 (claimLeaves s t n l).evc.active k) m = inSet (tabGet 0 s.evc.active k) m := fun k => by
    show inSet (tabGet 0 (activeAfter s t n) k) m = _
    rw [tabGet_activeAfter]
    split
    · exact inSet_addSet_other _ h
    · rfl
  have hlevel : evcLevel (claimLeaves s t n l) m = evcLevel s m := by
    unfold evcLevel
    rfl
  simp only [evcPending, activeAny, hactive, hlevel, hlatch]

/-- R100: a source that another target has claimed in the same cycle is found again, as if it still were pending. -/
theorem evcBest_claimLeaves {t' n : Nat} (l : Bool) (h : claimable s t' n) (hne : t ≠ t') :
    evcBest (claimLeaves s t' n l) t [n] = evcBest s t [] := by
  obtain ⟨-, hlt, hpending, -⟩ := h
  have hrunning : runningGroup (claimLeaves s t' n l) t = runningGroup s t := by
    have hactive : activeAt (claimLeaves s t' n l) t = activeAt s t :=
      congrArg (fun A => (List.range 512).filter fun n => inSet A n)
        ((tabGet_activeAfter ..).trans (if_neg fun h => hne h.1))
    have hgroup : evcGroup (claimLeaves s t' n l) t = evcGroup s t := rfl
    unfold runningGroup
    rw [hactive]
    simp only [hgroup]
  have heligible : eligible (claimLeaves s t' n l) t [n] = eligible s t [] := by
    unfold eligible
    refine List.filter_congr fun m _ => ?_
    have hp : (evcPending (claimLeaves s t' n l) m || [n].contains m) = (evcPending s m || [].contains m) := by
      by_cases hm : m = n
      · subst m
        simp [hpending]
      · rw [evcPending_claimLeaves l hlt hm]
        simp [hm]
    have hsame : ∀ p g, evcEligible (claimLeaves s t' n l) t m p g = evcEligible s t m p g := fun _ _ => rfl
    rw [hp, hrunning, hsame]
  have hprio : ∀ m, evcPrio (claimLeaves s t' n l) m = evcPrio s m := fun _ => rfl
  rw [evcBest_eq, heligible, mostUrgent_of_prio hprio, evcBest_eq]

theorem claimWord_inj {m n : Nat} (hm : m < 512) (hn : n < 512) (h : claimWord s m = claimWord s n) : m = n := by
  have hmod := congrArg (fun w => w.toNat % 65536) h
  simp only [claimWord, BitVec.toNat_ofNat] at hmod
  omega

/-- The claims of a cycle after the first of them. -/
theorem freshCycle_claims (s : State) (t : Nat) : (claimOne (freshCycle s) t).evc.cycleClaims =
    [⟨t, evcBest s t [], inSet s.evc.latch (evcBest s t [])⟩] := by
  rw [claimOne_freshCycle]
  generalize evcBest s t [] = n
  rfl

theorem claimOne_up (s : State) (t : Nat) : (claimOne s t).up = s.up := by
  rw [claimOne_eq, claimLeaves_up]

/-- The responses that two claims leave, the later one's over the earlier one's. -/
theorem twoClaims_response (s : State) (t t' k : Nat) : tabGet 0 (claimOne (claimOne s t) t').evc.response k =
    if k = t' then claimWord (claimOne s t) (claimResult (claimOne s t) t') else
      if k = t then claimWord s (claimResult s t) else tabGet 0 s.evc.response k := by
  rw [claimOne_response, claimOne_response s t]

theorem evcBest_zero_or_claimable (s : State) (t : Nat) : evcBest s t [] = 0 ∨ claimable s t (evcBest s t []) :=
  (evcBest_zero_or_mem t []).imp_right mem_eligible_alone.mp

/-- Taking back the one claim of a cycle leaves what claims find as it was before the cycle. -/
theorem unclaim_freshCycle_alike (ht : t < 3) : ClaimsAlike (freshCycle s)
    (freshCycle (unclaim (claimOne (freshCycle s) t) ⟨t, evcBest s t [], inSet s.evc.latch (evcBest s t [])⟩)) := by
  have hbest := (ClaimsAlike.freshCycle s).evcBest t []
  have hsource := evcBest_zero_or_claimable (freshCycle s) t
  rw [hbest] at hsource
  rw [claimOne_freshCycle]
  generalize evcBest s t [] = n at hsource
  exact (unclaim_alike (s := freshCycle s) hsource ht).freshCycled

/-- R100: where an earlier target of the cycle has the source that a claim finds, the claim gets 0x3FF. -/
theorem claimResult_lost {t' n : Nat} (hne : t ≠ t') (h : evcBest s t' [] = n) (h' : evcBest s t [] = n) (h0 : n ≠ 0) :
    claimResult (claimOne (freshCycle s) t') t = 0x3FF := by
  have hfresh := ClaimsAlike.freshCycle s
  have hn : claimable (freshCycle s) t' n := by
    have hsource := evcBest_zero_or_claimable (freshCycle s) t'
    rw [hfresh.evcBest, h] at hsource
    exact hsource.resolve_left h0
  obtain ⟨hpos, hlt, -⟩ := id hn
  have h3ff : n ≠ 0x3FF := by omega
  have htaken : cycleTaken (claimOne (freshCycle s) t') = [n] := by
    rw [cycleTaken, freshCycle_claims, h]
    simp [h0, h3ff]
  have hbest : evcBest (claimOne (freshCycle s) t') t [n] = n := by
    rw [claimOne_freshCycle, h, evcBest_claimLeaves _ hn hne, hfresh.evcBest, h']
  unfold claimResult
  rw [htaken, hbest]
  simp [h0]

end

theorem claims_of_one_cycle_go_in_order : ruleClaimsOfOneCycleGoInOrder := by
  intro s t1 t2 hu hlt
  have hne : t2.val ≠ t1.val := fun h => by omega
  have hundone := unclaim_freshCycle_alike (s := s) t2.isLt
  obtain ⟨hfirst, hclaims⟩ := hundone.claimOne rfl t1.val
  obtain ⟨hboth, -⟩ := hfirst.claimOne hclaims t2.val
  refine ⟨_, _, _, _, exec_evcClaim hu, exec_evcClaim_before ((claimOne_up ..).trans hu) (freshCycle_claims s t2.val) hlt,
    exec_evcClaim hu, exec_evcClaim_after ((claimOne_up ..).trans hu) (freshCycle_claims s t1.val) hlt, fun k => ?_,
    hboth.active, hboth.latch, ?_, fun hsame h0 => ?_⟩
  · rw [twoClaims_response, twoClaims_response]
    split
    · exact hfirst.response hclaims _
    · split
      · exact hundone.response rfl _
      · exact unclaimed_response _ ‹_›
  · exact (claimOne_response _ t2.val t1.val).trans (if_neg hne.symm)
  · rw [claimOne_response, claimOne_response, if_pos rfl, if_pos rfl, claimResult_freshCycle, claimResult_freshCycle] at hsame
    rw [claimOne_response, if_pos rfl, claimResult_freshCycle] at h0
    have hsource := claimWord_inj (evcBest_lt _ _) (evcBest_lt _ _) hsame
    have hn0 : evcBest s t1.val [] ≠ 0 := fun h => h0 (by rw [h, claimWord_zero])
    rw [claimOne_response, if_pos rfl, claimResult_lost hne rfl hsource hn0]
    simp [claimWord]

/-! ### Completion (R101, R104) -/

theorem exec_evcComplete {s : State} {t : Fin 3} {id : BitVec 10} (hu : s.up = true) : exec (.evcComplete t id) s = .next (
    if id.toNat = 0 ∨ id.toNat = 0x3FF then s
    else if id.toNat < 512 ∧ inSet (tabGet 0 s.evc.active t.val) id.toNat then completeSource s t.val id.toNat
    else errInfo s R.evcErr 0 R.evcErrInfo (BitVec.ofNat 32 (t.val * 65536 + id.toNat))) := by
  show execEvcComplete t id s = _
  rw [execEvcComplete, fabric_up s hu]

theorem completion_ends_the_source : ruleCompletionEndsTheSource := by
  intro s t id hu n
  refine ⟨fun h => ⟨_, exec_evcComplete hu, if_pos h⟩, fun h0 hlt hact => ⟨_, exec_evcComplete hu, ?_⟩,
    fun h0 h3ff hlt hact => ⟨_, exec_evcComplete hu, ?_⟩, fun hge h3ff => ⟨_, exec_evcComplete hu, ?_⟩⟩
  · have hreal : ¬ (n = 0 ∨ n = 0x3FF) := by omega
    rw [if_neg hreal, if_pos ⟨hlt, hact⟩]
    have hactive : tabGet 0 (completeSource s t.val n).evc.active t.val = delSet (tabGet 0 s.evc.active t.val) n :=
      tabGet_set_same ..
    refine ⟨?_, inSet_delSet_same _ hlt, rfl, fun m hm _ => ?_, fun k hk => tabGet_set_other _ _ _ _ hk, rfl⟩
    · rw [hactive, inSet_delSet_same _ hlt]
    · rw [hactive, inSet_delSet_other _ hlt hm]
  · have hreal : ¬ (n = 0 ∨ n = 0x3FF) := by omega
    have hno : ¬ (n < 512 ∧ inSet (tabGet 0 s.evc.active t.val) n = true) := fun h => Bool.false_ne_true (hact ▸ h.2)
    rw [if_neg hreal, if_neg hno]
    refine ⟨rd_errInfo_same _ _ _ (by decide), errInfo_evc .., fun a ha => ?_⟩
    obtain ⟨he, hi⟩ : a ≠ R.evcErr ∧ a ≠ R.evcErrInfo := by simpa using ha
    exact rd_errInfo_other _ _ _ he hi
  · have hreal : ¬ (n = 0 ∨ n = 0x3FF) := by omega
    have hno : ¬ (n < 512 ∧ inSet (tabGet 0 s.evc.active t.val) n = true) := fun h => by omega
    rw [if_neg hreal, if_neg hno]
    exact ⟨rd_errInfo_same _ _ _ (by decide), errInfo_evc ..⟩

/-- Settles O20: a claim takes the head of `eligible` by urgency; a claim of the same cycle taken back leaves a state that claims do
not tell from the one before it. -/
theorem sourcesAreClaimedAndCompleted : Obligations.SourcesAreClaimedAndCompleted :=
  ⟨claim_takes_most_urgent_source, completion_ends_the_source, claims_of_one_cycle_go_in_order⟩

end Sys2Proof.Machine
end

section
/-! SUPPORT. Waits: what one sample does, and how a poll ends (R78, R81 to R83). -/

namespace Sys2Proof.Machine
section
variable {s : State} {r i j : Nat} {n : Word}

/-! ### One sample (R78) -/

theorem semTest_eq (i : Nat) (n : Word) : semTest s i n = decide (n.toNat ≤ (semCount s i).toNat) := rfl

theorem semWaitOp_result : (semWaitOp s r i n).sem.result = some (r, semTest s i n, semCount s i) := rfl

theorem semWaitOp_count : (semWaitOp s r i n).sem.count = s.sem.count := rfl

/-- A sample that succeeds takes `n` off the count, one that fails takes nothing. -/
theorem semWaitsubOp_of_enough (h : semTest s i n = true) :
    semWaitsubOp s r i n = semResult (semStore (semServe s r i) i (semCount s i - n)) r true i := by
  simp only [semWaitsubOp, h, if_true]

theorem semWaitsubOp_of_short (h : semTest s i n = false) : semWaitsubOp s r i n = semResult (semServe s r i) r false i := by
  simp only [semWaitsubOp, h, Bool.false_eq_true, if_false]

@[simp] theorem semWaitOp_waiters : (semWaitOp s r i n).sem.waiters = s.sem.waiters := rfl

@[simp] theorem semWaitsubOp_waiters : (semWaitsubOp s r i n).sem.waiters = s.sem.waiters := by
  rw [semWaitsubOp, semResult_waiters]
  split <;> simp

/-! ### A poll (R81, R82) -/

/-- What a waiter's next sample leaves, whatever comes of it. -/
def sampled (s : State) (w : Waiter) : State :=
  if w.sub then semWaitsubOp s (waiterReq w.owner) w.idx w.n else semWaitOp s (waiterReq w.owner) w.idx w.n

theorem sampled_waiters (w : Waiter) : (sampled s w).sem.waiters = s.sem.waiters := by
  unfold sampled
  split <;> simp

theorem semCount_sampled_of_enough (w : Waiter) (h : semTest s w.idx w.n = true) :
    semCount (sampled s w) w.idx = if w.sub then semCount s w.idx - w.n else semCount s w.idx := by
  unfold sampled
  split
  · rw [semWaitsubOp_of_enough h]
    simp
  · rfl

theorem sampled_count_of_short (w : Waiter) (h : semTest s w.idx w.n = false) : (sampled s w).sem.count = s.sem.count := by
  unfold sampled
  split
  · rw [semWaitsubOp_of_short h]
    rfl
  · rfl

theorem sampled_dt (w : Waiter) : (sampled s w).dt = s.dt := by
  unfold sampled
  split <;> simp

theorem pollWaiter_of_enough {w : Waiter} (h : semTest s w.idx w.n = true) : pollWaiter s w = (sampled s w, some true) := by
  simp only [pollWaiter, h, if_true]
  rfl

/-- Only a sample that fails is tested against the expiry, with a DT that lags by at most 6 ns. -/
theorem pollWaiter_of_short {w : Waiter} {e : Nat} (h : semTest s w.idx w.n = false) (he : w.expiry = some e) :
    ∃ lag ≤ 6, pollWaiter s w = ({ sampled s w with fresh := (sampled s w).fresh + 1 },
      if e ≤ s.dt.now.toNat - lag then some false else none) := by
  refine ⟨Config.freeNat (sampled s w).fresh % 7, by omega, ?_⟩
  rw [← sampled_dt (s := s) w]
  simp only [pollWaiter, h, Bool.false_eq_true, if_false, he]
  change (if e ≤ (sampled s w).dt.now.toNat - _ then (_, _) else (_, _)) = _
  rw [← apply_ite (Prod.mk _)]
  rfl

/-- A wait of a descriptor ends with the outcome of its sample, or goes on. -/
def polled (s : State) (w : Waiter) (outcome : Option Bool) : State :=
  match outcome with
  | some ok => endWait s w ok
  | none => s

theorem exec_semPoll_descriptor {w : Waiter} {b : Nat} (hu : s.up = true) (hw : s.sem.waiters = [w]) (ho : w.owner = .descriptor b) :
    exec (.semPoll w.id []) s = .next (polled (pollWaiter s w).1 w (pollWaiter s w).2) := by
  show execSemPoll w.id [] s = _
  have hfind : [w].find? (fun x => x.id == w.id) = some w := by simp
  have hamong : pollAmong s w [] = pollWaiter s w := rfl
  simp only [execSemPoll, fabric_up s hu, hw, hfind, hamong, ho]
  rfl

theorem endWait_waiters {w : Waiter} (ok : Bool) (hw : s.sem.waiters = [w]) : (endWait s w ok).sem.waiters = [] := by
  simp [endWait, hw]

end

theorem waits_sample_before_their_expiry : ruleWaitsSampleBeforeTheirExpiry := by
  intro s hu
  refine ⟨fun req idx n => ⟨runs_semCommand ⟨req, .wait, idx, n⟩ hu ⟨rfl, rfl, rfl⟩,
    fun hok => runs_semCommand ⟨req, .waitsub, idx, n⟩ hu ?_, fun hok => runs_semCommand ⟨req, .waitsub, idx, n⟩ hu ?_⟩,
    fun w b hw ho => ⟨fun hn => ⟨_, exec_semPoll_descriptor hu hw ho, ?_⟩, fun e hn he hle => ⟨_, exec_semPoll_descriptor hu hw ho, ?_⟩,
      fun e hn he hlt => ⟨_, exec_semPoll_descriptor hu hw ho, ?_⟩⟩⟩
  · have happly : semApply s ⟨req, .waitsub, idx, n⟩ = _ := semWaitsubOp_of_enough hok
    refine ⟨?_, fun j hj => ?_, ?_, semWaitsubOp_frame ..⟩
    · rw [happly]
      simp
    · rw [happly]
      exact semCount_store_other _ _ hj
    · rw [happly, semResult_result]
      simp
  · have happly : semApply s ⟨req, .waitsub, idx, n⟩ = _ := semWaitsubOp_of_short hok
    rw [happly]
    exact ⟨rfl, rfl, rfl⟩
  · have hok : semTest s w.idx w.n = true := decide_eq_true hn
    rw [pollWaiter_of_enough hok]
    exact ⟨endWait_waiters true ((sampled_waiters w).trans hw), semCount_sampled_of_enough w hok⟩
  · have hok : semTest s w.idx w.n = false := decide_eq_false (not_le.mpr hn)
    obtain ⟨lag, hlag, hpoll⟩ := pollWaiter_of_short hok he
    rw [hpoll, if_pos (by omega)]
    exact ⟨endWait_waiters false ((sampled_waiters w).trans hw), sampled_count_of_short w hok⟩
  · have hok : semTest s w.idx w.n = false := decide_eq_false (not_le.mpr hn)
    obtain ⟨lag, hlag, hpoll⟩ := pollWaiter_of_short hok he
    rw [hpoll, if_neg (by omega)]
    exact ⟨(sampled_waiters w).trans hw, sampled_count_of_short w hok⟩

end Sys2Proof.Machine
end

section
/-! SUPPORT. Bytes stored at host addresses: what such a store places, and what every other byte then reads. -/

namespace Sys2Proof.Machine
section
variable {s : State} {a p : Nat} {l : List Byte}

/-! ### Little-endian values -/

theorem leBytes_length (n v : Nat) : (leBytes n v).length = n := by
  induction n generalizing v with
  | zero => rfl
  | succ n ih => rw [leBytes, List.length_cons, ih]

theorem leVal_leBytes (n v : Nat) : leVal (leBytes n v) = v % 256 ^ n := by
  induction n generalizing v with
  | zero => rw [pow_zero, Nat.mod_one]; rfl
  | succ n ih => rw [leBytes, leVal, ih, BitVec.toNat_ofNat, pow_succ' 256, Nat.mod_mul]

/-! ### Addresses -/

/-- No address but a host address itself reaches it: the redirect table leads into tiles or GDDR6. -/
theorem physAddr_eq_host_iff (x : Nat) (hp : hostBase ≤ p) : physAddr s x = p ↔ x = p := by
  unfold physAddr
  split
  case isFalse => rfl
  case isTrue hx =>
    have hbase : hostBase = 0x800000000000 := rfl
    have hgdr : gdrBase = 0x1000000000 := rfl
    have hmoved : fld (rd s (R.memRedir (x / 0x80000))) 15 0 < 2 ^ 16 := Nat.mod_lt _ (by decide)
    have htile : fld (rd s (R.memRedir (x / 0x80000))) 22 16 < 2 ^ 7 := Nat.mod_lt _ (by decide)
    dsimp only
    split <;> omega

theorem not_sem_of_host (ha : hostBase ≤ a) : ¬ (semBase ≤ a ∧ a < semBase + 0x4000) := by
  have hbase : hostBase = 0x800000000000 := rfl
  have hsem : semBase = 0x300000000 := rfl
  omega

theorem fenced_host (ha : hostBase ≤ a) : fenced s a = false := by
  have hbase : hostBase = 0x800000000000 := rfl
  have hout : ¬ a < 68 * 0x80000 := by omega
  simp [fenced, hout]

theorem gdrClosed_host (ha : hostBase ≤ a) : gdrClosed s a = false := by
  have hbase : hostBase = 0x800000000000 := rfl
  have hgdr : gdrBase = 0x1000000000 := rfl
  have hsize : gdrBytes s ≤ 30 * 0x40000000 := by
    unfold gdrBytes
    split <;> omega
  have hout : ¬ a < gdrBase + gdrBytes s := by omega
  simp [gdrClosed, hout]

/-! ### What a store places -/

theorem stByte_host (ha : hostBase ≤ a) (b : Byte) : stByte s a b = stPhys s a b := by
  have hphys : physAddr s a = a := (physAddr_eq_host_iff a ha).mpr rfl
  rw [stByte, if_neg (not_sem_of_host ha), if_neg (by simp [fenced_host ha]), hphys, if_neg (by simp [gdrClosed_host ha])]

theorem stAll_host_frame (ha : hostBase ≤ a) : stAll s a l = { s with mem := (stAll s a l).mem } := by
  induction l generalizing s a with
  | nil => rfl
  | cons b l ih =>
    rw [stAll, stByte_host ha, ih (by omega)]
    rfl

theorem stAll_host_mem (ha : hostBase ≤ a) (x : Nat) : tabGet 0 (stAll s a l).mem x =
    if a ≤ x ∧ x < a + l.length then l.getD (x - a) 0 else tabGet 0 s.mem x := by
  induction l generalizing s a with
  | nil => rw [stAll, if_neg (by simp)]
  | cons b l ih =>
    rw [stAll, stByte_host ha, ih (by omega), List.length_cons]
    rcases lt_trichotomy x a with hlt | rfl | hgt
    · rw [if_neg (by omega), if_neg (by omega)]
      exact tabGet_set_other _ _ _ _ (by omega)
    · rw [if_neg (by omega), if_pos (by omega), Nat.sub_self]
      exact tabGet_set_same ..
    · obtain ⟨i, rfl⟩ : ∃ i, x = a + 1 + i := ⟨x - (a + 1), by omega⟩
      rw [show a + 1 + i - (a + 1) = i by omega, show a + 1 + i - a = i + 1 by omega, List.getD_cons_succ]
      by_cases hi : i < l.length
      · rw [if_pos (by omega), if_pos (by omega)]
      · rw [if_neg (by omega), if_neg (by omega)]
        exact tabGet_set_other _ _ _ _ (by omega)

/-! ### What a store does beside placing bytes -/

/-- A unit that a store to host memory meets lies in GDDR6 or above: nothing below the GDR block is written for it. -/
theorem rd_corrected_of_gdr {u r : Nat} (hu : gdrBase ≤ u) (hr : r < 0x190000) : rd (corrected s u) r = rd s r := by
  rw [corrected, if_pos hu]
  show rd (setBits (bump s R.gdrEccCorr) R.gdrEvent 1) r = rd s r
  rw [rd_setBits_other _ _ (by simp [R.gdrEvent]; omega), rd_bump_other _ (by simp [R.gdrEccCorr]; omega)]

theorem rd_uncorrectable_of_gdr {u r : Nat} (hu : gdrBase ≤ u) (hr : r < 0x190000) : rd (uncorrectable s u) r = rd s r := by
  rw [uncorrectable, if_pos hu]
  dsimp only
  rw [rd_setBits_other _ _ (by simp [R.gdrEvent]; omega), rd_bump_other _ (by simp [R.gdrEccUncorr]; omega)]
  split
  · rfl
  · rw [rd_wr_other _ _ (by simp [R.gdrErrAddrHi]; omega), rd_wr_other _ _ (by simp [R.gdrErrAddrLo]; omega)]

theorem gdrBase_le_of_unitsIn {us : List Nat} {n u : Nat} (hp : hostBase ≤ p) (h : u ∈ unitsIn us p n) : gdrBase ≤ u := by
  have hbase : hostBase = 0x800000000000 := rfl
  have hgdr : gdrBase = 0x1000000000 := rfl
  have hunit : unitBytes u ≤ 64 := by
    unfold unitBytes
    split <;> omega
  simp only [unitsIn, List.mem_filter, Bool.and_eq_true, decide_eq_true_eq] at h
  omega

/-- A fold of a function that keeps register `r` at every element met keeps it. -/
theorem rd_foldl_of_mem {f : State → Nat → State} {r : Nat} (us : List Nat) (h : ∀ u ∈ us, ∀ t, rd (f t u) r = rd t r) (t : State) :
    rd (us.foldl f t) r = rd t r := by
  induction us generalizing t with
  | nil => rfl
  | cons u us ih => rw [List.foldl_cons, ih fun x hx => h x (List.mem_cons_of_mem _ hx), h u List.mem_cons_self]

/-- No failing burst of GDDR6 meets host memory. -/
theorem edcMeet_host (w : Bool) (n : Nat) (e : Nat × Nat) (hp : hostBase ≤ p) : edcMeet w p n s e = s := by
  simp [edcMeet, firstOn, hp]

theorem rd_noteWrite_host {r : Nat} (n : Nat) (hp : hostBase ≤ p) (hr : r < 0x190000) : rd (noteWrite s p n) r = rd s r := by
  unfold noteWrite
  dsimp only
  rw [foldl_keep (edcMeet true p n) (fun t => rd t r) fun t e => by rw [edcMeet_host true n e hp]]
  refine (rd_foldl_of_mem _ (fun u hu t => rd_uncorrectable_of_gdr ?_ hr) _).trans
    (rd_foldl_of_mem _ (fun u hu t => rd_corrected_of_gdr ?_ hr) _)
  all_goals exact gdrBase_le_of_unitsIn hp (List.mem_of_mem_filter hu)

/-! ### What is read afterwards -/

theorem stBytes_host (ha : hostBase ≤ a) : stBytes s a l = noteWrite (stAll s a l) a l.length := by
  have hphys : physAddr s a = a := (physAddr_eq_host_iff a ha).mpr rfl
  simp only [stBytes, if_neg (not_sem_of_host ha), fenced_host ha, hphys, gdrClosed_host ha, Bool.false_eq_true, if_false]

theorem find_reverse_none_of_host {hw : List HeldByte} (hheld : ∀ e ∈ hw, e.addr < 68 * 0x80000) (ha : hostBase ≤ a) :
    hw.reverse.find? (fun e => e.addr == a) = none := by
  have hbase : hostBase = 0x800000000000 := rfl
  rw [List.find?_eq_none]
  intro e he
  have := hheld e (List.mem_reverse.mp he)
  simp only [beq_iff_eq]
  omega

/-- A byte stored to host memory reads as stored, every other byte as before. -/
theorem ldByte_stBytes_host (ha : hostBase ≤ a) (hheld : ∀ e ∈ s.heldWrites, e.addr < 68 * 0x80000) (x : Nat) :
    ldByte (stBytes s a l) x = if a ≤ x ∧ x < a + l.length then l.getD (x - a) 0 else ldByte s x := by
  have hheldWrites : (stAll s a l).heldWrites = s.heldWrites := by rw [stAll_host_frame ha]
  have hredir : ∀ k, k < 68 → rd (stBytes s a l) (R.memRedir k) = rd s (R.memRedir k) := fun k hk => by
    rw [stBytes_host ha, rd_noteWrite_host _ ha (show 0x180900 + 0x4 * k < 0x190000 by omega), stAll_host_frame ha]
    rfl
  have hphys : physAddr (stBytes s a l) x = physAddr s x := by
    unfold physAddr
    split
    case isTrue hx => rw [hredir _ (by omega)]
    case isFalse => rfl
  have hmem : (stBytes s a l).mem = (stAll s a l).mem := by rw [stBytes_host ha, noteWrite_mem]
  have hheld' : (stBytes s a l).heldWrites = s.heldWrites := by rw [stBytes_host ha, noteWrite_heldWrites, hheldWrites]
  split
  case isTrue hx =>
    have hxhost : hostBase ≤ x := by omega
    rw [ldByte, if_neg (not_sem_of_host hxhost), hheld', find_reverse_none_of_host hheld hxhost]
    simp only
    rw [(physAddr_eq_host_iff x hxhost).mpr rfl, hmem, stAll_host_mem ha, if_pos hx]
  case isFalse hx =>
    have hout : ¬ (a ≤ physAddr s x ∧ physAddr s x < a + l.length) := fun h =>
      hx ((physAddr_eq_host_iff x (ha.trans h.1)).mp rfl ▸ h)
    simp only [ldByte, semCount, stBytes_sem, hheld', hphys, hmem, stAll_host_mem ha, if_neg hout]

theorem ldBytes_of_ldByte (h : ∀ i, i < l.length → ldByte s (a + i) = l.getD i 0) : ldBytes s a l.length = l := by
  induction l generalizing a with
  | nil => rfl
  | cons b l ih =>
    rw [List.length_cons, ldBytes, ih fun i hi => ?_]
    · rw [show ldByte s a = b from h 0 (by simp)]
    · rw [Nat.add_assoc, Nat.add_comm 1 i]
      exact h (i + 1) (by simp; omega)

theorem ldBytes_stBytes_host (ha : hostBase ≤ a) (hheld : ∀ e ∈ s.heldWrites, e.addr < 68 * 0x80000) :
    ldBytes (stBytes s a l) a l.length = l :=
  ldBytes_of_ldByte fun i hi => by
    rw [ldByte_stBytes_host ha hheld, if_pos (by omega), Nat.add_sub_cancel_left]

end
end Sys2Proof.Machine
end

section
/-! SUPPORT. Shadow slots: when one comes to owe a write, and what a due write does (R87, R93); O19. -/

namespace Sys2Proof.Machine
section
variable {s : State} {k : Nat}

theorem mem_addSlots {x : Nat} {l m : List Nat} : x ∈ addSlots l m ↔ x ∈ l ∨ x ∈ m := by
  simp only [addSlots, List.mem_append, List.mem_filter, Bool.not_eq_true', List.contains_eq_mem, decide_eq_false_iff_not]
  tauto

theorem mem_startShadow {ks : List Nat} (h : k ∈ ks) : k ∈ (startShadow s ks).sem.shadowDue := mem_addSlots.mpr (.inr h)

theorem rd_startShadow (ks : List Nat) (a : Nat) : rd (startShadow s ks) a = rd s a := rfl

/-- The configuration of a slot keeps its enable bit and its index. -/
theorem bit_shadowCfg (v : Word) : bit (v &&& 0x80000FFF) 31 = bit v 31 := by simp [bit]

/-! ### Configuration writes (R93) -/

/-- A write of a slot's configuration starts the slot's mirroring. -/
def slotStarts (s : State) (k : Nat) (new : Word) : Bool :=
  rb s R.semShadowCtrl 0 && bit new 31 && (!bit (rd s (R.semShadowCfg k)) 31 || fld (rd s (R.semShadowCfg k)) 11 0 != fld new 11 0)

theorem exec_semShadowCfgWrite_slot (k : Fin 64) (v : Word) (hu : s.up = true) : exec (.semShadowCfgWrite (.slot k) v) s =
    .next (if slotStarts s k.val (v &&& 0x80000FFF) then startShadow (wr s (R.semShadowCfg k.val) (v &&& 0x80000FFF)) [k.val]
      else wr s (R.semShadowCfg k.val) (v &&& 0x80000FFF)) :=
  (fabric_up s hu : execSemShadowCfgWrite (.slot k) v s = _)

theorem exec_semShadowCfgWrite_ctrl (v : Word) (hu : s.up = true) : exec (.semShadowCfgWrite .ctrl v) s =
    .next (if bit v 0 && !rb s R.semShadowCtrl 0 then
        startShadow (wr s R.semShadowCtrl (v &&& 1)) ((List.range 64).filter fun k => rb s (R.semShadowCfg k) 31)
      else wr s R.semShadowCtrl (v &&& 1)) :=
  (fabric_up s hu : execSemShadowCfgWrite .ctrl v s = _)

theorem slot_write_starts_mirroring (k : Fin 64) (v : Word) (hu : s.up = true) :
    Runs (.semShadowCfgWrite (.slot k) v) s fun u => rd u (R.semShadowCfg k.val) = v &&& 0x80000FFF ∧
      (rb s R.semShadowCtrl 0 = true → bit v 31 = true → rb s (R.semShadowCfg k.val) 31 = false → k.val ∈ u.sem.shadowDue) ∧
      (rb s R.semShadowCtrl 0 = false → u.sem = s.sem) := by
  refine ⟨_, exec_semShadowCfgWrite_slot k v hu, ?_⟩
  split
  case isTrue hstarts =>
    refine ⟨(rd_startShadow ..).trans (rd_wr_same ..), fun _ _ _ => mem_startShadow List.mem_cons_self, fun hoff => ?_⟩
    simp [slotStarts, hoff] at hstarts
  case isFalse hstays =>
    refine ⟨rd_wr_same .., fun hon hv hold => absurd ?_ hstays, fun _ => rfl⟩
    have hold' : bit (rd s (R.semShadowCfg k.val)) 31 = false := hold
    simp only [slotStarts, bit_shadowCfg, hon, hv, hold', Bool.not_false, Bool.true_or, Bool.and_self]

theorem ctrl_write_starts_mirroring (k : Fin 64) (v : Word) (hu : s.up = true) :
    Runs (.semShadowCfgWrite .ctrl v) s fun u => rd u R.semShadowCtrl = v &&& 1 ∧
      (bit v 0 = true → rb s R.semShadowCtrl 0 = false → rb s (R.semShadowCfg k.val) 31 = true → k.val ∈ u.sem.shadowDue) := by
  refine ⟨_, exec_semShadowCfgWrite_ctrl v hu, ?_⟩
  split
  case isTrue =>
    refine ⟨(rd_startShadow ..).trans (rd_wr_same ..), fun _ _ hslot => mem_startShadow ?_⟩
    exact List.mem_filter.mpr ⟨List.mem_range.mpr k.isLt, hslot⟩
  case isFalse hstays =>
    exact ⟨rd_wr_same .., fun hv hoff _ => absurd (by simp [hv, hoff]) hstays⟩

/-! ### Due writes (R87) -/

/-- The state in which slot `k` owes no write. -/
def shadowMade (s : State) (k : Nat) : State :=
  { s with sem := { s.sem with shadowDue := s.sem.shadowDue.filter (fun x => x ≠ k) } }

theorem not_mem_shadowMade : k ∉ (shadowMade s k).sem.shadowDue := by simp [shadowMade]

theorem shadowMade_sameBytes : SameBytes s (shadowMade s k) := sameBytes_of_regs rfl rfl rfl rfl

/-- The host address that slot `k` writes to, and whether slot and block are on. -/
def shadowPlace (s : State) (k : Nat) : Nat := (rd64 s R.semShadowBaseLo R.semShadowBaseHi).toNat + 4 * k
def shadowOn (s : State) (k : Nat) : Bool := rb s R.semShadowCtrl 0 && rb s (R.semShadowCfg k) 31

theorem exec_semShadowWrite (k : Fin 64) (hu : s.up = true) : exec (.semShadowWrite k) s =
    .next (if !s.sem.shadowDue.contains k.val then s
      else if !shadowOn s k.val then shadowMade s k.val
      else if 0x800000000000 ≤ shadowPlace s k.val then semErr (shadowMade s k.val) 5 (rf s (R.semShadowCfg k.val) 11 0)
      else hostWrite (shadowMade s k.val) (shadowPlace s k.val)
        (leBytes 4 (semCount s (rf s (R.semShadowCfg k.val) 11 0)).toNat)) :=
  (fabric_up s hu : execSemShadowWrite k s = _)

theorem hostWrite_reached {h : Nat} (l : List Byte) (hlink : rb s R.hifStatus 0 = true) (hgate : s.gated = false)
    (hh : h < 0x800000000000) : hostWrite s h l = stBytes s (hostBase + h) l := by
  rw [hostWrite, if_pos ⟨by simp [hostReach, hlink, hgate], hh⟩]

theorem semErr_sameBytes (b i : Nat) : SameBytes s (semErr s b i) :=
  sameBytes_of_redirect (fun k hk => rd_errInfo_other _ _ _ (show 0x180900 + 0x4 * k ≠ 0x30000 by omega) (show 0x180900 + 0x4 * k ≠ 0x30004 by omega))
    (by simp) (by simp) (by simp)

theorem due_write_places_the_count (k : Fin 64) {i h : Nat} (hu : s.up = true) (hi : i = rf s (R.semShadowCfg k.val) 11 0)
    (hplace : h = shadowPlace s k.val) (hdue : k.val ∈ s.sem.shadowDue) (hon : shadowOn s k.val = true) (hh : h + 4 ≤ 0x800000000000)
    (hlink : rb s R.hifStatus 0 = true) (hgate : s.gated = false) (hheld : ∀ e ∈ s.heldWrites, e.addr < 68 * 0x80000) :
    Runs (.semShadowWrite k) s fun u => ldN u (hostBase + h) 4 = (semCount s i).toNat ∧ k.val ∉ u.sem.shadowDue ∧
      (∀ a, a < hostBase + h ∨ hostBase + h + 4 ≤ a → ldByte u a = ldByte s a) := by
  subst hi hplace
  have hbase : hostBase ≤ hostBase + shadowPlace s k.val := Nat.le_add_right ..
  refine ⟨_, exec_semShadowWrite k hu, ?_⟩
  rw [if_neg (by simpa using hdue), if_neg (by simp [hon]), if_neg (by omega), hostWrite_reached (s := shadowMade s k.val) _ hlink hgate (by omega)]
  generalize hl : leBytes 4 (semCount s (rf s (R.semShadowCfg k.val) 11 0)).toNat = l
  have hlen : l.length = 4 := hl ▸ leBytes_length ..
  refine ⟨?_, ?_, fun a ha => ?_⟩
  · rw [ldN, ← hlen, ldBytes_stBytes_host (s := shadowMade s k.val) hbase hheld, ← hl, leVal_leBytes]
    exact Nat.mod_eq_of_lt (BitVec.isLt _)
  · rw [stBytes_sem]
    exact not_mem_shadowMade
  · rw [ldByte_stBytes_host (s := shadowMade s k.val) hbase hheld, if_neg (by omega)]
    exact shadowMade_sameBytes a

end

theorem shadows_mirror_the_count : ruleShadowsMirrorTheCount := by
  intro s k hu h i off
  refine ⟨fun v => slot_write_starts_mirroring k v hu, fun v => ctrl_write_starts_mirroring k v hu, fun hoff => ⟨_, exec_semShadowWrite k hu, ?_⟩,
    fun hdue hctrl hslot hh hlink hgate hinv => due_write_places_the_count k hu rfl rfl (not_not.mp hdue) (by simp [shadowOn, hctrl, hslot]) hh
      hlink hgate hinv.held,
    fun hdue hctrl hslot hh => ⟨_, exec_semShadowWrite k hu, ?_⟩, fun hdue hctrl => ⟨_, exec_semShadowWrite k hu, ?_⟩⟩
  · rw [if_pos (by simpa using hoff)]
  · rw [if_neg (by simpa using not_not.mp hdue), if_neg (by simp [shadowOn, hctrl, hslot]), if_pos (show 0x800000000000 ≤ shadowPlace s k.val from hh)]
    exact ⟨rd_semErr_status 5, fun a => (semErr_sameBytes (s := shadowMade s k.val) 5 _ a).trans (shadowMade_sameBytes a)⟩
  · rw [if_neg (by simpa using not_not.mp hdue), if_pos (by simp [shadowOn, hctrl])]
    exact ⟨shadowMade_sameBytes, not_mem_shadowMade⟩

/-- Settles O19: a wait's sample and a poll by their cases, a shadow write by the branches of its command; the bytes at a host
address come from the rules of stores to host memory. -/
theorem waitsAndShadowsFollowTheCount : Obligations.WaitsAndShadowsFollowTheCount :=
  ⟨waits_sample_before_their_expiry, shadows_mirror_the_count⟩

end Sys2Proof.Machine
end

section
/-! SUPPORT. A piece of an image stored over a slab word that the check code corrects; O57. -/

namespace Sys2Proof.Machine

/-! ### The counterexample to O57 -/

/-- A recovery into the slab, of one byte, while the word at the slab's base has an error that its check code corrects. -/
def flippedSlab : State :=
  { State.reset with
    flips := [slabBase]
    aon := { State.reset.aon with boot := .recovery }
    sec := { State.reset.sec with recovery := some ⟨1, 0, true⟩ } }

/-- DATA of one byte at offset 0. -/
def onePiece : List Byte := [1, 0, 0, 0, 0, 0, 0, 0, 0xAB]

theorem portRuns_onePiece : portRuns flippedSlab 0x06 0 onePiece true := by
  refine ⟨rfl, by decide, by decide +kernel, fun _ h => ?_⟩
  exact absurd h (by decide +kernel)

/-- A store to part of a word with such an error reads it first, and counts the correction. -/
theorem slabEccCorr_stBytes_part : rd (stBytes flippedSlab slabBase [0xAB]) R.memSlabEccCorr = 1 := by decide +kernel

/-- A piece that fits is stored behind those before it. -/
theorem recoverMore_of_fits {s : State} {p : List Byte} {r : Recovery} (hr : s.sec.recovery = some r) (hslab : r.slab = true)
    (hfits : 8 ≤ p.length ∧ rec8 p 0 1 = 1 ∧ rec8 p 4 4 = r.got ∧ (p.drop 8).length ≤ 248 ∧ r.got + (p.drop 8).length ≤ r.size) :
    ∃ f : Sec → Sec, (recoverMore p s).next = setSec (stBytes s (slabBase + r.got) (p.drop 8)) f := by
  obtain ⟨hhead, hkind, hat, hlen, hsize⟩ := hfits
  refine ⟨fun c => { c with recovery := some { r with got := r.got + (p.drop 8).length } }, ?_⟩
  simp only [recoverMore, hr, hkind, hat, hslab, if_true]
  rw [if_neg (by omega)]

/-- A request that the port runs ends in what its work leaves, but for the response. -/
theorem acser_of_portRuns {s : State} {cmd : Nat} {seq : Byte} {p : List Byte} {run : State → Answer} (h : portRuns s cmd seq p true) :
    ∃ f : Sec → Sec, acser cmd true false seq p true run s = .next (setSec (run s).next f) := by
  obtain ⟨hport, hlen, hnew, hsession⟩ := h
  have hsame : (s.sec.lastRun && s.sec.lastCmd == cmd && s.sec.lastSeq == seq.toNat) = false := by
    by_contra hcon
    simp only [Bool.not_eq_false, Bool.and_eq_true, beq_iff_eq] at hcon
    exact hnew ⟨hcon.1.1, hcon.1.2, hcon.2⟩
  have hopen : (secure s && !s.sec.session) = false := by
    cases hsec : secure s
    · rfl
    · simp [hsession rfl hsec]
  refine ⟨fun c => { c with
    lastRun := true, lastCmd := cmd, lastSeq := seq.toNat
    resp := acserFrame cmd seq (run s).status (run s).data, lastResp := acserFrame cmd seq (run s).status (run s).data }, ?_⟩
  have hshort : decide (256 < p.length) = false := decide_eq_false (not_lt.mpr hlen)
  simp only [acser, hport, hshort, hsame, hopen, Bool.not_true, Bool.true_and, Bool.false_and, Bool.or_self, Bool.false_eq_true, if_false]

theorem regs_recoverData_flippedSlab {u : State} (h : exec (.recoverData 0 onePiece true) flippedSlab = .next u) :
    u.regs ≠ flippedSlab.regs := by
  obtain ⟨f, hf⟩ := acser_of_portRuns (run := recoverMore onePiece) portRuns_onePiece
  obtain ⟨g, hg⟩ := recoverMore_of_fits (s := flippedSlab) (p := onePiece) (r := ⟨1, 0, true⟩) rfl rfl (by decide)
  have hu : setSec (recoverMore onePiece flippedSlab).next f = u :=
    Host.Outcome.next.inj ((hf : exec (.recoverData 0 onePiece true) flippedSlab = _).symm.trans h)
  have hcount : rd u R.memSlabEccCorr = 1 := by
    rw [← hu, hg]
    exact slabEccCorr_stBytes_part
  intro hregs
  have hzero : rd u R.memSlabEccCorr = 0 := by
    rw [rd, hregs]
    decide +kernel
  exact absurd (hcount.symm.trans hzero) (by decide)

/-- Refutes O57: a piece of an image is placed in the slab by a store, and a store that covers part of a word with a correctable
error counts the correction in MEM_SLAB_ECC_CORR (R277, R278); the statement holds every register still. -/
theorem not_acserCommandsDoTheirWork : ¬ Obligations.AcserCommandsDoTheirWork := by
  intro h
  obtain ⟨-, -, -, -, -, -, hrecover, -⟩ := h flippedSlab 0 onePiece
  obtain ⟨-, -, -, hdata, -⟩ := hrecover portRuns_onePiece
  obtain ⟨-, hslab, -⟩ := hdata ⟨1, 0, true⟩ rfl
  obtain ⟨u, hu, ⟨-, hregs, -⟩, -⟩ := hslab (by decide) rfl (by decide)
  exact regs_recoverData_flippedSlab hu hregs

end Sys2Proof.Machine
end

section
/-! SUPPORT. What a run whose completion is held leaves, and a graph number whose registers lie on the redirect table; O31. -/

namespace Sys2Proof.Machine

/-! ### A run that cannot leave -/

section
variable {s : State} {r : Run} {g : Graph}

theorem findRun_alone (hruns : s.fgs.runs = [r]) : findRun s r.id = some r := by simp [findRun, hruns]

theorem exec_gateEvaluate_alone (hu : s.up = true) (hruns : s.fgs.runs = [r]) :
    exec (.gateEvaluate r.id []) s = .next (evaluateRun s r.id) := by
  refine (fabric_up s hu : execGateEvaluate r.id [] s = _).trans ?_
  simp [findRun_alone hruns, placeRun]

/-- A run whose record is written and whose completion ring has no room stays. -/
theorem evaluateRun_of_no_room (hruns : s.fgs.runs = [r]) (hg : graphOf s r.graph = some g) (hrec : r.recorded = true)
    (hcq : g.cq ≠ 0xFF) (hroom : cqRoom s g.cq = false) : evaluateRun s r.id = setRun s { r with recorded := true } := by
  simp only [evaluateRun, findRun_alone hruns, hg, hrec, if_true, runLeave]
  rw [if_pos ⟨hcq, hroom⟩]

end

/-! ### The counterexample to O31 -/

/-- A run of graph 0x5040, whose GRAPH_STATE would lie at the entry of tile 1 in the redirect table. -/
def crossedRun : Run := ⟨0, 0x5040, 0, 0, none, true, none, 0, [], 0, 0, none, false, true⟩

def crossedGraph : Graph := ⟨1, 0, 0, 1, 0, 0, 0xFFFF, 0, 0, 0, 0, [], []⟩

def waitingCompletion : Completion := ⟨0, none, 0, 0, false, 0, [], false⟩

/-- The run alone, the HIF full of completions for its ring, one byte in tile 1. -/
def crossedRuns : State :=
  { State.reset with
    up := true
    regs := [(R.hifCqCfg 0, 0x80000000)]
    mem := [(0x80000, 1)]
    fgs := { State.reset.fgs with runs := [crossedRun], graphs := [(0x5040, some crossedGraph)] }
    hif := { State.reset.hif with hold := List.replicate 512 waitingCompletion } }

theorem graphState_eq_memRedir : R.fgsGraphState 0x5040 = R.memRedir 1 := rfl

theorem cqRoom_crossedRuns : cqRoom crossedRuns 0 = false := by
  have hon : cqEn crossedRuns 0 = true := by decide +kernel
  have hhold : crossedRuns.hif.hold = List.replicate 512 waitingCompletion := rfl
  have hblocked : cqBlocked crossedRuns 0 = true := by
    rw [cqBlocked, hhold, List.any_replicate]
    exact Bool.or_true _
  have hfull : ¬ crossedRuns.hif.hold.length < 512 := by rw [hhold, List.length_replicate]; decide
  simp [cqRoom, hon, hblocked, hfull]

/-- The cursor and the number of runs, written where the redirect table stands, lead the reads of tile 1 elsewhere. -/
theorem ldByte_crossedRuns : ldByte crossedRuns 0x80000 = 0 ∧ ldByte (setRun crossedRuns crossedRun) 0x80000 = 1 := by
  decide +kernel

/-- Refutes O31: the clause of a run whose ring has no room says that every byte reads as before for any graph number, and for
graph 0x5040 the state register that the run keeps up to date is the redirect entry of tile 1. -/
theorem not_runsAndTheirGatesEnd : ¬ Obligations.RunsAndTheirGatesEnd := by
  intro h
  obtain ⟨-, -, hheld, -⟩ := h
  obtain ⟨-, hstays⟩ := hheld crossedRuns crossedRun crossedGraph rfl rfl rfl rfl (by decide)
  obtain ⟨u, hu, -, hbytes, -⟩ := hstays cqRoom_crossedRuns
  have hleft : evaluateRun crossedRuns crossedRun.id = setRun crossedRuns crossedRun :=
    evaluateRun_of_no_room (g := crossedGraph) rfl rfl rfl (by decide) cqRoom_crossedRuns
  have heq : setRun crossedRuns crossedRun = u :=
    hleft ▸ Host.Outcome.next.inj ((exec_gateEvaluate_alone rfl rfl).symm.trans hu)
  obtain ⟨hbefore, hafter⟩ := ldByte_crossedRuns
  have hsame : ldByte (setRun crossedRuns crossedRun) 0x80000 = ldByte crossedRuns 0x80000 := heq ▸ hbytes 0x80000
  rw [hbefore, hafter] at hsame
  exact absurd hsame (by decide)

end Sys2Proof.Machine
end

section
/-! SUPPORT. Work on one frame slot: what a step of it leaves of the rest of the state (R116 to R121, R126). -/

namespace Sys2Proof.Machine
section
variable {s t u : State} {n : Nat}

/-! ### A slot replaced (R126) -/

/-- The registers that a frame slot's own work writes: its status, event and counts, and BUILDING of the FDD engines. -/
def slotReg (n a : Nat) : Prop := (0x61030 + 0x80 * n ≤ a ∧ a < 0x61048 + 0x80 * n) ∨ a = 0x80004 ∨ a = 0x90004

@[simp] theorem fsSlot_setFsSlot_same (n : Nat) (x : FrameSlot) : fsSlot (setFsSlot s n x) n = x := tabGet_set_same ..

theorem fsSlot_setFsSlot_other {m : Nat} (x : FrameSlot) (h : m ≠ n) : fsSlot (setFsSlot s n x) m = fsSlot s m :=
  tabGet_set_other _ _ _ _ h

theorem rd_setFsSlot_of_ne {a : Nat} (x : FrameSlot) (h : a ≠ R.ingFsStatus n) (h0 : a ≠ R.fddStatus 0) (h1 : a ≠ R.fddStatus 1) :
    rd (setFsSlot s n x) a = rd s a := by
  unfold setFsSlot
  dsimp only
  rw [rd_wf_other _ _ _ _ h1, rd_wf_other _ _ _ _ h0, rd_wr_other _ _ h]
  rfl

/-- `t` is `s` but for frame slot `n`, its registers and the free values drawn. -/
structure SlotOnly (n : Nat) (s t : State) : Prop where
  frame : ∃ fs r f, t = { s with ing := { s.ing with fs := fs }, regs := r, fresh := f }
  other : ∀ m, m ≠ n → fsSlot t m = fsSlot s m
  regs : ∀ a, ¬ slotReg n a → rd t a = rd s a

namespace SlotOnly

theorem refl : SlotOnly n s s := ⟨⟨_, _, _, rfl⟩, fun _ _ => rfl, fun _ _ => rfl⟩

theorem trans (h : SlotOnly n s t) (k : SlotOnly n t u) : SlotOnly n s u := by
  obtain ⟨⟨_, _, _, rfl⟩, ho, hr⟩ := h
  obtain ⟨⟨fs, r, f, rfl⟩, ko, kr⟩ := k
  exact ⟨⟨fs, r, f, rfl⟩, fun m hm => (ko m hm).trans (ho m hm), fun a ha => (kr a ha).trans (hr a ha)⟩

theorem setFsSlot (h : SlotOnly n s t) (x : FrameSlot) : SlotOnly n s (setFsSlot t n x) :=
  h.trans ⟨⟨_, _, _, rfl⟩, fun _ hm => fsSlot_setFsSlot_other x hm, fun a ha => by
    unfold slotReg at ha
    exact rd_setFsSlot_of_ne x (by simp only [R.ingFsStatus]; omega) (by simp only [R.fddStatus]; omega) (by simp only [R.fddStatus]; omega)⟩

theorem wr (h : SlotOnly n s t) {a : Nat} (ha : slotReg n a) (v : Word) : SlotOnly n s (wr t a v) :=
  h.trans ⟨⟨_, _, _, rfl⟩, fun _ _ => rfl, fun _ hb => rd_wr_other _ _ fun e => hb (e ▸ ha)⟩

theorem fsEvent (h : SlotOnly n s t) (b : Nat) : SlotOnly n s (fsEvent t n b) :=
  h.wr (.inl (by simp only [R.ingFsEvent]; omega)) _

theorem drawn (h : SlotOnly n s t) (f : Nat) : SlotOnly n s { t with fresh := f } :=
  h.trans ⟨⟨_, _, _, rfl⟩, fun _ _ => rfl, fun _ _ => rfl⟩

theorem when {c : Bool} {f : State → State} (h : SlotOnly n s t) (hf : ∀ t, SlotOnly n s t → SlotOnly n s (f t)) :
    SlotOnly n s (when c f t) := by
  unfold Machine.when
  split
  · exact hf t h
  · exact h

theorem sem (h : SlotOnly n s t) : t.sem = s.sem := by
  obtain ⟨⟨_, _, _, rfl⟩, -, -⟩ := h
  rfl

theorem heldWrites (h : SlotOnly n s t) : t.heldWrites = s.heldWrites := by
  obtain ⟨⟨_, _, _, rfl⟩, -, -⟩ := h
  rfl

theorem mem (h : SlotOnly n s t) : t.mem = s.mem := by
  obtain ⟨⟨_, _, _, rfl⟩, -, -⟩ := h
  rfl

theorem sameBytes (h : SlotOnly n s t) (hn : n < 16) : SameBytes s t :=
  sameBytes_of_redirect (fun k _ => h.regs _ (by simp only [slotReg, R.memRedir]; omega)) h.mem h.heldWrites (by rw [h.sem])

end SlotOnly

/-! ### The frame's time (R116, R120, R121) -/

theorem slotOnly_judge (sv : Nat) (f : Int) : SlotOnly n s (judge s n sv f).1 := by
  have hout : ∀ t, SlotOnly n s t → SlotOnly n s (bump t (R.ingFsOutliers n)) := fun t h =>
    h.wr (.inl (by simp only [R.ingFsOutliers]; omega)) _
  unfold judge
  dsimp only [drawInt]
  have hresid : ∀ v f, SlotOnly n s (wr { s with fresh := f } (R.ingFsResid n) v) := fun v f =>
    (SlotOnly.refl.drawn f).wr (.inl (by simp only [R.ingFsResid]; omega)) _
  split
  case isTrue => exact (SlotOnly.refl.drawn _).setFsSlot _
  case isFalse =>
    split
    case isTrue => exact (hout _ ((hresid _ _).setFsSlot _)).when fun _ h => h.fsEvent 2
    case isFalse =>
      split
      case isTrue => exact (hresid _ _).setFsSlot _
      case isFalse => exact ((hresid _ _).setFsSlot _).when fun _ h => h.fsEvent 3

theorem slotOnly_assignTime (fr : OpenFrame) : SlotOnly n s (assignTime s n fr).1 := by
  unfold assignTime
  split
  case isTrue => exact .refl
  case isFalse =>
    cases fr.sensor with
    | none => exact SlotOnly.refl.drawn _
    | some v => exact slotOnly_judge v _

theorem assignTime_buf (fr : OpenFrame) : (assignTime s n fr).2.buf = fr.buf := by
  unfold assignTime
  split <;> rfl

theorem slotOnly_forgetEntry (j : Option Judged) : SlotOnly n s (forgetEntry s n j) := by
  unfold forgetEntry
  split
  · exact SlotOnly.refl.setFsSlot _
  · exact .refl

end
end Sys2Proof.Machine
end

section
/-! SUPPORT. Stores: what they leave of the state beside memory, and what plain memory reads afterwards (R20, R262, R263). -/

namespace Sys2Proof.Machine
section
variable {s t u : State} {a n k : Nat} {l : List Byte}

/-! ### What a store leaves alone -/

/-- No error of memory is counted in the redirect table: its 68 entries lie between the tiles' and the GDR block's registers. -/
theorem rd_corrected_redir (v : Nat) (hk : k < 68) : rd (corrected s v) (R.memRedir k) = rd s (R.memRedir k) := by
  have hbump : ∀ b, R.memRedir k ≠ b → rd (bump s b) (R.memRedir k) = rd s (R.memRedir k) := fun b hb => rd_bump_other s hb
  unfold corrected
  simp only [R.memRedir, R.lseMemEccCorr, R.memSlabEccCorr, R.ttEccCorr] at hbump ⊢
  repeat' split
  · show rd (setBits (bump s R.gdrEccCorr) R.gdrEvent 1) _ = _
    rw [rd_setBits_other _ _ (by simp only [R.gdrEvent]; omega), hbump _ (by simp only [R.gdrEccCorr]; omega)]
  · exact hbump _ (by omega)
  · exact hbump _ (by omega)
  · exact hbump _ (by omega)

theorem rd_uncorrectable_redir (v : Nat) (hk : k < 68) : rd (uncorrectable s v) (R.memRedir k) = rd s (R.memRedir k) := by
  by_cases hv : gdrBase ≤ v
  · exact rd_uncorrectable_of_gdr hv (by simp only [R.memRedir]; omega)
  · rw [uncorrectable, if_neg hv]
    repeat' split
    · exact rd_bump_other s (by simp only [R.memRedir, R.lseMemEccUncorr]; omega)
    · exact rd_bump_other s (by simp only [R.memRedir, R.memSlabEccUncorr]; omega)
    · rfl

theorem rd_retrain_redir (c : Nat) (ok : Bool) (hk : k < 68) : rd (retrain s c ok) (R.memRedir k) = rd s (R.memRedir k) := by
  have hheld : rd (setBits (bump s R.gdrRetrainCnt) (R.gdrChStatus c) 2) (R.memRedir k) = rd s (R.memRedir k) := by
    rw [rd_setBits_other _ _ (by simp only [R.memRedir, R.gdrChStatus]; omega), rd_bump_other _ (by simp only [R.memRedir, R.gdrRetrainCnt]; omega)]
  unfold retrain
  dsimp only
  split
  · exact hheld
  · rw [rd_setBits_other _ _ (by simp only [R.memRedir, R.gdrEvent]; omega), hheld]

theorem rd_edcMeet_redir (w : Bool) (p : Nat) (e : Nat × Nat) (hk : k < 68) :
    rd (edcMeet w p n s e) (R.memRedir k) = rd s (R.memRedir k) := by
  have hev : ∀ (t : State) (m : Word), rd (setBits t R.gdrEvent m) (R.memRedir k) = rd t (R.memRedir k) := fun t m =>
    rd_setBits_other t m (by simp only [R.memRedir, R.gdrEvent]; omega)
  have hmet : ∀ x y, rd (wf (bumpN { s with edc := tabSet 0 s.edc e.1 0 } R.gdrEdcRetry x) (R.gdrChStatus e.1) 31 16 y) (R.memRedir k) =
      rd s (R.memRedir k) := fun x y => by
    rw [rd_wf_other _ _ _ _ (by simp only [R.memRedir, R.gdrChStatus]; omega), rd_bumpN_other _ _ (by simp only [R.memRedir, R.gdrEdcRetry]; omega)]
    rfl
  unfold edcMeet
  dsimp only [drawNat]
  split
  · rfl
  · repeat' split
    · exact (hev _ 4).trans ((rd_retrain_redir _ _ hk).trans (hmet _ _))
    · exact (hev _ 4).trans ((rd_retrain_redir _ _ hk).trans (hmet _ _))
    · exact (rd_retrain_redir _ _ hk).trans (hmet _ _)
    · exact hmet _ _

theorem rd_noteWrite_redir (p : Nat) (hk : k < 68) : rd (noteWrite s p n) (R.memRedir k) = rd s (R.memRedir k) := by
  unfold noteWrite
  dsimp only
  rw [foldl_keep (edcMeet true p n) (fun t => rd t (R.memRedir k)) fun t e => rd_edcMeet_redir true p e hk]
  exact (rd_foldl_of_mem _ (fun v _ t => rd_uncorrectable_redir v hk) _).trans (rd_foldl_of_mem _ (fun v _ t => rd_corrected_redir v hk) _)

theorem rd_stAll_redir (hk : k < 68) : rd (stAll s a l) (R.memRedir k) = rd s (R.memRedir k) := by
  induction l generalizing s a with
  | nil => rfl
  | cons b l ih =>
    rw [stAll, ih]
    unfold stByte
    repeat' split
    · rfl
    · rfl
    · exact rd_errInfo_other _ _ _ (by simp only [R.memRedir, R.memErr]; omega) (by simp only [R.memRedir, R.memErrInfo]; omega)
    · rfl

theorem rd_stBytes_redir (hk : k < 68) : rd (stBytes s a l) (R.memRedir k) = rd s (R.memRedir k) := by
  unfold stBytes
  dsimp only
  repeat' split
  · exact rd_stAll_redir hk
  · exact rd_stAll_redir hk
  · exact rd_stAll_redir hk
  · exact (rd_noteWrite_redir _ hk).trans (rd_stAll_redir hk)

theorem stBytes_mem_eq : (stBytes s a l).mem = (stAll s a l).mem := by
  unfold stBytes
  dsimp only
  repeat' split
  all_goals simp

theorem stBytes_heldWrites_eq : (stBytes s a l).heldWrites = (stAll s a l).heldWrites := by
  unfold stBytes
  dsimp only
  repeat' split
  all_goals simp

/-- `t` is `s` after stores: ingress and the semaphores stand, and so do the registers below the TT block, where memory's errors
are counted. -/
structure Stored (s t : State) : Prop where
  ing : t.ing = s.ing
  sem : t.sem = s.sem
  regs : ∀ a, a < 0x100000 → rd t a = rd s a

namespace Stored

theorem refl : Stored s s := ⟨rfl, rfl, fun _ _ => rfl⟩

theorem trans (h : Stored s t) (k : Stored t u) : Stored s u :=
  ⟨k.ing.trans h.ing, k.sem.trans h.sem, fun a ha => (k.regs a ha).trans (h.regs a ha)⟩

theorem stBytes (h : Stored s t) (a : Nat) (l : List Byte) : Stored s (stBytes t a l) :=
  h.trans ⟨by simp, by simp, fun _ ha => rd_stBytes_low t a l ha⟩

theorem foldl {α : Type} {f : State → α → State} (h : Stored s t) (hf : ∀ t x, Stored t (f t x)) (xs : List α) :
    Stored s (xs.foldl f t) := by
  induction xs generalizing t with
  | nil => exact h
  | cons x xs ih => exact ih (h.trans (hf t x))

end Stored

/-! ### Plain memory -/

/-- Address `p` is neither semaphore memory nor in a tile, nor in GDDR6 while that is closed: a store reaches it at once. -/
structure Direct (s : State) (p : Nat) : Prop where
  sem : ¬ (semBase ≤ p ∧ p < semBase + 0x4000)
  tile : 68 * 0x80000 ≤ p
  gdr : gdrClosed s p = false

theorem direct_of_plainRam {i : Nat} (h : plainRam s a n) (hi : i < n) : Direct s (a + i) := by
  have hgdr : gdrBytes s ≤ 30 * 0x40000000 := by
    unfold gdrBytes
    split <;> omega
  have hslab : slabBase = 0x100000000 := rfl
  have hlse : lseBase = 0x200000000 := rfl
  have hsem : semBase = 0x300000000 := rfl
  have hbase : gdrBase = 0x1000000000 := rfl
  have hhost : hostBase = 0x800000000000 := rfl
  have hbelow : ∀ p, p < gdrBase → gdrClosed s p = false := fun p hp => by simp [gdrClosed, hp]
  rcases h with h | h | ⟨h, h', hglide⟩ | h
  · exact ⟨by omega, by omega, hbelow _ (by omega)⟩
  · exact ⟨by omega, by omega, hbelow _ (by omega)⟩
  · exact ⟨by omega, by omega, by simp [gdrClosed, hglide]⟩
  · exact ⟨by omega, by omega, gdrClosed_host (by omega)⟩

theorem Direct.phys {p : Nat} (h : Direct s p) : physAddr s p = p := if_neg (not_lt.mpr h.tile)

theorem Direct.stByte {p : Nat} (h : Direct s p) (b : Byte) : stByte s p b = stPhys s p b := by
  have hout : ¬ p < 68 * 0x80000 := not_lt.mpr h.tile
  rw [Machine.stByte, if_neg h.sem, if_neg (by simp [fenced, hout]), h.phys, if_neg (by simp [h.gdr])]

/-- The bytes stored at such addresses are placed; no other place changes, and no store is held. -/
theorem stAll_of_direct (h : ∀ i, i < l.length → Direct s (a + i)) : (stAll s a l).heldWrites = s.heldWrites ∧
    (∀ i, i < l.length → tabGet 0 (stAll s a l).mem (a + i) = l.getD i 0) ∧
    ∀ x, (∀ i, i < l.length → x ≠ a + i) → tabGet 0 (stAll s a l).mem x = tabGet 0 s.mem x := by
  induction l generalizing s a with
  | nil => exact ⟨rfl, fun i hi => absurd hi (Nat.not_lt_zero i), fun _ _ => rfl⟩
  | cons b l ih =>
    have hnext : ∀ i, a + 1 + i = a + (i + 1) := fun i => by omega
    obtain ⟨hheld, hin, hout⟩ := @ih (stPhys s a b) (a + 1) fun i hi => by
      obtain ⟨hsem, htile, hgdr⟩ := h (i + 1) (Nat.succ_lt_succ hi)
      rw [hnext]
      exact ⟨hsem, htile, hgdr⟩
    have hfirst : Direct s a := h 0 (Nat.succ_pos _)
    rw [stAll, hfirst.stByte]
    refine ⟨hheld, fun i hi => ?_, fun x hx => (hout x fun i hi => ?_).trans (tabGet_set_other _ _ _ _ (hx 0 (Nat.succ_pos _)))⟩
    · cases i with
      | zero => exact (hout a fun i _ => by omega).trans (tabGet_set_same ..)
      | succ i => exact hnext i ▸ hin i (Nat.lt_of_succ_lt_succ hi)
    · exact hnext i ▸ hx (i + 1) (Nat.succ_lt_succ hi)

/-- The places that addresses reach are the same, and so is what stands there and what is held before them. -/
structure SamePlaces (s t : State) : Prop where
  redirect : ∀ k, k < 68 → rd t (R.memRedir k) = rd s (R.memRedir k)
  mem : t.mem = s.mem
  held : t.heldWrites = s.heldWrites
  sem : t.sem.count = s.sem.count
  pwr : t.pwr = s.pwr
  straps : t.straps = s.straps

namespace SamePlaces

theorem refl : SamePlaces s s := ⟨fun _ _ => rfl, rfl, rfl, rfl, rfl, rfl⟩

theorem trans (h : SamePlaces s t) (k : SamePlaces t u) : SamePlaces s u :=
  ⟨fun i hi => (k.redirect i hi).trans (h.redirect i hi), k.mem.trans h.mem, k.held.trans h.held, k.sem.trans h.sem, k.pwr.trans h.pwr,
    k.straps.trans h.straps⟩

theorem sameBytes (h : SamePlaces s t) : SameBytes s t := sameBytes_of_redirect h.redirect h.mem h.held h.sem

theorem plainRam (h : SamePlaces s t) (hp : plainRam s a n) : plainRam t a n := by
  simpa only [Machine.plainRam, gdrBytes, h.pwr, h.straps] using hp

end SamePlaces

theorem physAddr_stBytes (x : Nat) : physAddr (stBytes s a l) x = physAddr s x := by
  unfold physAddr
  split
  case isTrue hx => rw [rd_stBytes_redir (by omega)]
  case isFalse => rfl

/-- No store is held for an address outside the tiles. -/
theorem find_held_none {hw : List HeldByte} (hheld : ∀ e ∈ hw, e.addr < 68 * 0x80000) {p : Nat} (hp : 68 * 0x80000 ≤ p) :
    hw.reverse.find? (fun e => e.addr == p) = none := by
  rw [List.find?_eq_none]
  intro e he
  have hlow := hheld e (List.mem_reverse.mp he)
  simp only [beq_iff_eq]
  omega

/-- What reads as stored after a store to plain memory, and what reads as before. -/
theorem ldByte_stBytes_plain (hp : plainRam s a l.length) (hheld : ∀ e ∈ s.heldWrites, e.addr < 68 * 0x80000) :
    (∀ i, i < l.length → ldByte (stBytes s a l) (a + i) = l.getD i 0) ∧
      ∀ x, (∀ i, i < l.length → physAddr s x ≠ a + i) → ldByte (stBytes s a l) x = ldByte s x := by
  obtain ⟨hstays, hin, hout⟩ := stAll_of_direct (l := l) fun i hi => direct_of_plainRam hp hi
  have hheld' : (stBytes s a l).heldWrites = s.heldWrites := stBytes_heldWrites_eq.trans hstays
  refine ⟨fun i hi => ?_, fun x hx => ?_⟩
  · have hat := direct_of_plainRam hp hi
    rw [ldByte, if_neg hat.sem, hheld', find_held_none hheld hat.tile]
    simp only
    rw [physAddr_stBytes, hat.phys, stBytes_mem_eq, hin i hi]
  · simp only [ldByte, semCount, stBytes_sem, hheld', physAddr_stBytes, stBytes_mem_eq, hout _ hx]

/-- A store to plain memory, made where the places are those of `s`, is read back, and changes no other byte. -/
theorem stBytes_plain (h : SamePlaces s t) (hp : plainRam s a l.length) (hheld : ∀ e ∈ s.heldWrites, e.addr < 68 * 0x80000) :
    ldBytes (stBytes t a l) a l.length = l ∧ OnlyBytes s (stBytes t a l) a l.length := by
  obtain ⟨hin, hout⟩ := ldByte_stBytes_plain (h.plainRam hp) (h.held ▸ hheld)
  refine ⟨ldBytes_of_ldByte hin, fun x _ hx => (hout x fun i hi => ?_).trans (h.sameBytes x)⟩
  have hphys : physAddr t x = physAddr s x := by
    unfold physAddr
    split
    case isTrue hlow => rw [h.redirect _ (by omega)]
    case isFalse => rfl
  rw [hphys, ← (direct_of_plainRam hp hi).phys]
  exact (hx i hi).2

end
end Sys2Proof.Machine
end

section
/-! SUPPORT. Frames that end: what a close leaves, with a buffer and without one, and the signals and pair decisions behind it (R85,
R109, R117 to R119, R125, R577). -/

namespace Sys2Proof.Machine
section
variable {s t u : State} {n k : Nat}

/-! ### Signals behind stores (R85, R263) -/

theorem signalAfter_free {rs : List (Nat × Nat)} {r f : Nat} {c : Word} (h : heldIn s rs = []) :
    signalAfter s rs r f c = signal s r f c := by rw [signalAfter, h]

theorem signalAfter_held {rs : List (Nat × Nat)} {r f : Nat} {c : Word} (h : heldIn s rs ≠ []) :
    ∃ m, signalAfter s rs r f c = { s with memx := m } := by
  unfold signalAfter
  split
  · contradiction
  · exact ⟨_, rfl⟩

/-- A signal, at once or behind stores, changes semaphores, their status and the signals that wait. -/
theorem signalAfter_stands (rs : List (Nat × Nat)) (r f : Nat) (c : Word) :
    (signalAfter s rs r f c).ing = s.ing ∧ (signalAfter s rs r f c).heldWrites = s.heldWrites ∧
      ∀ a, a ≠ R.semOvfCnt → a ≠ R.semStatus → a ≠ R.semErrIdx → rd (signalAfter s rs r f c) a = rd s a := by
  by_cases h : heldIn s rs = []
  · rw [signalAfter_free h, signal]
    split
    · exact ⟨rfl, rfl, fun _ _ _ _ => rfl⟩
    · exact ⟨semAddOp_ing .., semAddOp_heldWrites .., fun a h₁ h₂ h₃ => rd_semAddOp_other s _ _ _ h₁ h₂ h₃⟩
  · obtain ⟨m, hm⟩ := signalAfter_held (r := r) (f := f) (c := c) h
    rw [hm]
    exact ⟨rfl, rfl, fun _ _ _ _ => rfl⟩

theorem rd_signalAfter_high {rs : List (Nat × Nat)} {r f a : Nat} {c : Word} (h : 0x31000 ≤ a) : rd (signalAfter s rs r f c) a = rd s a := by
  obtain ⟨-, -, hregs⟩ := signalAfter_stands (s := s) rs r f c
  exact hregs a (by simp only [R.semOvfCnt]; omega) (by simp only [R.semStatus]; omega) (by simp only [R.semErrIdx]; omega)

theorem heldIn_congr {rs : List (Nat × Nat)} (h : t.heldWrites = s.heldWrites) : heldIn t rs = heldIn s rs := by rw [heldIn, h, heldIn]

/-- The semaphore named is added 1 where no store to the ranges is held, and stands where one is. -/
theorem semCount_signalAfter {rs : List (Nat × Nat)} {r f : Nat} (hf : f < 4096) :
    let v := signalAfter s rs r f 1
    (heldIn v rs = [] → (semCount v f).toNat = min ((semCount s f).toNat + 1) 0xFFFFFFFF) ∧
      (heldIn v rs ≠ [] → semCount v f = semCount s f) := by
  intro v
  have hsame : heldIn v rs = heldIn s rs := heldIn_congr (signalAfter_stands rs r f 1).2.1
  rw [hsame]
  refine ⟨fun h => ?_, fun h => ?_⟩
  · have hnamed : f ≠ 0xFFFF := by omega
    show (semCount (signalAfter s rs r f 1) f).toNat = _
    rw [signalAfter_free h, signal, if_neg hnamed, Nat.mod_eq_of_lt hf]
    exact toNat_semAdd r f 1
  · obtain ⟨m, hm⟩ := signalAfter_held (r := r) (f := f) (c := 1) h
    show semCount (signalAfter s rs r f 1) f = _
    rw [hm]
    rfl

/-! ### Lines and levels written at a close (R109, R154) -/

theorem stored_zeroLines (h : Stored s t) (n k y : Nat) : Stored s (zeroLines t n k y) := by
  refine h.foldl (fun v x => ?_) _
  split
  · exact Stored.refl.stBytes _ _
  · exact .refl

theorem stored_buildLevel (e n k l : Nat) : Stored s (buildLevel e n k s l) :=
  Stored.refl.foldl (fun _ _ => Stored.refl.stBytes _ _) _

theorem stored_buildPyramid (h : Stored s t) (n k : Nat) : Stored s (buildPyramid t n k) := by
  unfold buildPyramid
  split
  · exact h
  · split
    · exact h.foldl (fun _ l => stored_buildLevel _ n k l) _
    · exact h

/-! ### A frame closes (R109, R117 to R119) -/

/-- The time of a frame that closes; without the map it is the fallback time, and an entry the map took for it is taken back. -/
def frameTimed (s : State) (n : Nat) (noMap : Bool) (fr : OpenFrame) : State × OpenFrame :=
  if noMap && fr.judged.isNone then
    ((unjudged s (fallback s n fr.start)).1, { fr with judged := some (unjudged s (fallback s n fr.start)).2 })
  else assignTime (when noMap (fun s => forgetEntry s n fr.judged) s) n fr

theorem slotOnly_frameTimed (noMap : Bool) (fr : OpenFrame) : SlotOnly n s (frameTimed s n noMap fr).1 := by
  unfold frameTimed
  split
  · exact SlotOnly.refl.drawn _
  · exact (SlotOnly.refl.when fun _ h => h.trans (slotOnly_forgetEntry _)).trans (slotOnly_assignTime fr)

theorem frameTimed_buf (noMap : Bool) (fr : OpenFrame) : (frameTimed s n noMap fr).2.buf = fr.buf := by
  unfold frameTimed
  split
  · rfl
  · exact assignTime_buf fr

/-- A closing frame with its SIZE flag: a camera frame short of lines has it (R109). -/
def sized (s : State) (n : Nat) (fr : OpenFrame) : OpenFrame :=
  { fr with size := fr.size || (fsType s n == 0 && decide (fr.rows < fsHeight s n)) }

/-- The slot once its frame has closed, before anything is written. -/
def frameClosed (s : State) (n : Nat) (noMap : Bool) (fr : OpenFrame) : State :=
  let p := frameTimed s n noMap (sized s n fr)
  when p.2.size (fun s => fsEvent s n 5) (setFsSlot p.1 n { fsSlot p.1 n with frame := none })

theorem slotOnly_frameClosed (noMap : Bool) (fr : OpenFrame) : SlotOnly n s (frameClosed s n noMap fr) :=
  ((slotOnly_frameTimed noMap _).setFsSlot _).when fun _ h => h.fsEvent 5

@[simp] theorem fsSlot_when_fsEvent (c : Bool) (b m : Nat) : fsSlot (when c (fun s => fsEvent s n b) s) m = fsSlot s m := by
  cases c <;> rfl

theorem frameClosed_frame (noMap : Bool) (fr : OpenFrame) : (fsSlot (frameClosed s n noMap fr) n).frame = none := by
  rw [frameClosed, fsSlot_when_fsEvent, fsSlot_setFsSlot_same]

/-- The buffer filled up and the frame record written (R109, R119, R154). -/
def recordWritten (s : State) (n k : Nat) (noMap : Bool) (fr : OpenFrame) (end_ : DWord) : State :=
  let f := (frameTimed s n noMap (sized s n fr)).2
  let t := frameClosed s n noMap fr
  stBytes (if fsType s n == 0 then buildPyramid (zeroLines t n k f.rows) n k else t) (fsBuf s n k)
    (frameRecordBytes n (((pairOf s n).map Prod.fst).getD 0) f end_ (if fsType s n == 0 then fsHeight s n else f.points) 0)

theorem stored_recordWritten (noMap : Bool) (fr : OpenFrame) (end_ : DWord) :
    Stored (frameClosed s n noMap fr) (recordWritten s n k noMap fr end_) := by
  unfold recordWritten
  dsimp only
  split
  · exact (stored_buildPyramid (stored_zeroLines .refl n k _) n k).stBytes _ _
  · exact Stored.refl.stBytes _ _

/-- What follows the frame record: the latch for projection, and the end semaphore behind the buffer's stores. -/
def frameLanded (s t : State) (n k : Nat) : State :=
  signalAfter (wr t (R.pjeSlotLatch n) (BitVec.ofNat 32 (0x80000000 + k))) [(fsBuf s n k, fsBytes s n)] 1 (rf s (R.ingFsSem n) 15 0) 1

theorem closeFrame_none {end_ : DWord} {noMap : Bool} (h : (fsSlot s n).frame = none) : closeFrame s n end_ noMap = s := by
  rw [closeFrame, h]

theorem closeFrame_dropped {fr : OpenFrame} (end_ : DWord) (noMap : Bool) (h : (fsSlot s n).frame = some fr) (hb : fr.buf = none) :
    closeFrame s n end_ noMap = frameClosed s n noMap fr := by
  have hbuf : (frameTimed s n noMap (sized s n fr)).2.buf = none := (frameTimed_buf noMap _).trans hb
  unfold closeFrame
  rw [h]
  show (match (frameTimed s n noMap (sized s n fr)).2.buf with | none => frameClosed s n noMap fr | some k => _) = _
  rw [hbuf]

theorem closeFrame_landed {fr : OpenFrame} (end_ : DWord) (noMap : Bool) (h : (fsSlot s n).frame = some fr) (hb : fr.buf = some k) :
    closeFrame s n end_ noMap = (pairOf s n).elim (frameLanded s (recordWritten s n k noMap fr end_) n k) fun x =>
      pairFrame (frameLanded s (recordWritten s n k noMap fr end_) n k) x.1
        ⟨x.2, n, k, ((frameTimed s n noMap (sized s n fr)).2.judged.map Judged.time).getD 0, end_⟩ := by
  have hbuf : (frameTimed s n noMap (sized s n fr)).2.buf = some k := (frameTimed_buf noMap _).trans hb
  unfold closeFrame
  rw [h]
  show (match (frameTimed s n noMap (sized s n fr)).2.buf with | none => frameClosed s n noMap fr | some k => _) = _
  rw [hbuf]
  unfold recordWritten
  rcases pairOf s n with _ | ⟨p, r⟩ <;> rfl

/-! ### The latch of a pair (R183) -/

theorem rd_latchPair_other {p a : Nat} (w : Word) (h : a ≠ R.sdePairLatch p) (h' : a ≠ R.sdePairOvr p) : rd (latchPair s p w) a = rd s a := by
  unfold latchPair
  dsimp only
  rw [rd_wr_other _ _ h]
  split
  · exact rd_bump_other s h'
  · rfl

theorem latchPair_stands {p : Nat} (w : Word) : (latchPair s p w).ing = s.ing ∧ (latchPair s p w).sem = s.sem := by
  unfold latchPair
  dsimp only
  split <;> exact ⟨rfl, rfl⟩

/-! ### Frames and the enable of ingress through a close -/

/-- Every slot's state and ING_CTRL stand. -/
structure SlotsStand (s t : State) : Prop where
  slot : ∀ m, fsSlot t m = fsSlot s m
  ctrl : rd t R.ingCtrl = rd s R.ingCtrl

namespace SlotsStand

theorem refl : SlotsStand s s := ⟨fun _ => rfl, rfl⟩

theorem trans (h : SlotsStand s t) (k : SlotsStand t u) : SlotsStand s u :=
  ⟨fun m => (k.slot m).trans (h.slot m), k.ctrl.trans h.ctrl⟩

theorem of_ing (hi : t.ing.fs = s.ing.fs) (hc : rd t R.ingCtrl = rd s R.ingCtrl) : SlotsStand s t :=
  ⟨fun m => by rw [fsSlot, hi, fsSlot], hc⟩

theorem stored (h : Stored s t) : SlotsStand s t := of_ing (by rw [h.ing]) (h.regs _ (by decide))

theorem signalAfter (h : SlotsStand s t) (rs : List (Nat × Nat)) (r f : Nat) (c : Word) : SlotsStand s (signalAfter t rs r f c) :=
  h.trans (of_ing (by rw [(signalAfter_stands rs r f c).1]) (rd_signalAfter_high (by decide)))

theorem wr (h : SlotsStand s t) {a : Nat} (v : Word) (ha : R.ingCtrl ≠ a) : SlotsStand s (wr t a v) :=
  h.trans (of_ing rfl (rd_wr_other _ _ ha))

theorem stampPair (h : SlotsStand s t) (f : PairFrame) (b : Nat) : SlotsStand s (stampPair t f b) :=
  h.trans (stored (Stored.refl.stBytes _ _))

theorem markDecided (h : SlotsStand s t) (p : Nat) (f : PairFrame) : SlotsStand s (markDecided t p f) := h.trans (of_ing rfl rfl)

theorem latchPair (h : SlotsStand s t) (p : Nat) (w : Word) : SlotsStand s (latchPair t p w) :=
  h.trans (of_ing (by rw [(latchPair_stands w).1])
    (rd_latchPair_other w (by simp only [R.ingCtrl, R.sdePairLatch]; omega) (by simp only [R.ingCtrl, R.sdePairOvr]; omega)))

theorem decideMono (h : SlotsStand s t) (p : Nat) (f : PairFrame) : SlotsStand s (decideMono t p f) := by
  have hdrawn : SlotsStand t { t with fresh := t.fresh + 1 } := of_ing rfl rfl
  exact ((SlotsStand.wr (((h.trans hdrawn).stampPair f 7).markDecided p f) _ (by simp only [R.ingCtrl, R.ingPairSkip]; omega)).latchPair p
    _).signalAfter _ _ _ _

theorem decidePaired (h : SlotsStand s t) (p : Nat) (f g : PairFrame) : SlotsStand s (decidePaired t p f g) :=
  (((((h.stampPair f 6).stampPair g 6).markDecided p f).markDecided p g).latchPair p _).signalAfter _ _ _ _

theorem pairFrame (h : SlotsStand s t) (p : Nat) (f : PairFrame) : SlotsStand s (pairFrame t p f) := by
  have hwait : ∀ l, SlotsStand s (setWaiting t p l) := fun l => h.trans (of_ing rfl rfl)
  unfold Machine.pairFrame
  dsimp only
  split
  · exact (hwait _).decidePaired p f _
  · split
    · exact h.decideMono p f
    · exact hwait _

theorem frameLanded (h : SlotsStand s t) (n k : Nat) : SlotsStand s (frameLanded u t n k) :=
  (h.wr _ (by simp only [R.ingCtrl, R.pjeSlotLatch]; omega)).signalAfter _ _ _ _

end SlotsStand

/-- A close writes its frame, and leaves the slots as they stand once the frame is closed. -/
theorem closeFrame_slots {fr : OpenFrame} (end_ : DWord) (noMap : Bool) (h : (fsSlot s n).frame = some fr) :
    SlotsStand (frameClosed s n noMap fr) (closeFrame s n end_ noMap) := by
  cases hb : fr.buf with
  | none =>
    rw [closeFrame_dropped end_ noMap h hb]
    exact .refl
  | some k =>
    have hland : SlotsStand (frameClosed s n noMap fr) (frameLanded s (recordWritten s n k noMap fr end_) n k) :=
      (SlotsStand.stored (stored_recordWritten noMap fr end_)).frameLanded n k
    rw [closeFrame_landed end_ noMap h hb]
    cases pairOf s n with
    | none => exact hland
    | some x => exact hland.pairFrame _ _

/-- The frame open in slot `n`, if any, is closed; the frames of the other slots and ING_CTRL stand. -/
structure ClosesFrame (n : Nat) (s t : State) : Prop where
  closed : (fsSlot t n).frame = none
  other : ∀ m, m ≠ n → (fsSlot t m).frame = (fsSlot s m).frame
  ctrl : rd t R.ingCtrl = rd s R.ingCtrl

theorem closeFrame_closes (end_ : DWord) (noMap : Bool) : ClosesFrame n s (closeFrame s n end_ noMap) := by
  cases h : (fsSlot s n).frame with
  | none =>
    rw [closeFrame_none h]
    exact ⟨h, fun _ _ => rfl, rfl⟩
  | some fr =>
    have hslots := closeFrame_slots end_ noMap h
    have hclosed := slotOnly_frameClosed (s := s) (n := n) noMap fr
    refine ⟨?_, fun m hm => ?_, hslots.ctrl.trans (hclosed.regs _ (by simp only [slotReg, R.ingCtrl]; omega))⟩
    · rw [hslots.slot, frameClosed_frame]
    · rw [hslots.slot, hclosed.other m hm]

theorem closeOnDisable_closes : ClosesFrame n s (closeOnDisable s n) := by
  unfold closeOnDisable
  split
  case h_1 f h =>
    obtain ⟨hclosed, hother, hctrl⟩ := closeFrame_closes (n := n)
      (s := setFsSlot s n { fsSlot s n with frame := some { f with size := true } }) s.dt.now true
    have hset := SlotOnly.refl.setFsSlot (s := s) (n := n) { fsSlot s n with frame := some { f with size := true } }
    exact ⟨hclosed, fun m hm => (hother m hm).trans (by rw [hset.other m hm]),
      hctrl.trans (hset.regs _ (by simp only [slotReg, R.ingCtrl]; omega))⟩
  case h_2 h => exact ⟨h, fun _ _ => rfl, rfl⟩

/-- R578: closing slot after slot leaves no frame open in any of them. -/
theorem foldl_closeOnDisable (l : List Nat) :
    (∀ m, m ∈ l ∨ (fsSlot s m).frame = none → (fsSlot (l.foldl closeOnDisable s) m).frame = none) ∧
    rd (l.foldl closeOnDisable s) R.ingCtrl = rd s R.ingCtrl := by
  induction l generalizing s with
  | nil => exact ⟨fun m h => h.resolve_left List.not_mem_nil, rfl⟩
  | cons n l ih =>
    obtain ⟨hclosed, hother, hctrl⟩ := closeOnDisable_closes (s := s) (n := n)
    obtain ⟨hframes, hctrl'⟩ := @ih (closeOnDisable s n)
    refine ⟨fun m hm => hframes m ?_, hctrl'.trans hctrl⟩
    rcases eq_or_ne m n with rfl | hne
    · exact .inr hclosed
    · rw [hother m hne]
      exact hm.imp_left fun h => (List.mem_cons.mp h).resolve_left hne

end
end Sys2Proof.Machine
end

section
/-! SUPPORT. Writes of the ingress configuration: busy owners, enables and their checks, the enable of ingress (R124, R126, R127,
R577, R578); O24. -/

namespace Sys2Proof.Machine
section
variable {s t u : State} {b n : Nat} {w : Word}

/-! ### Errors of configuration (R126, R127) -/

/-- `u` is `s` after a refused write at `b`: ingress stands, and `bits` of ING_ERR are set. -/
def ConfigFailed (s : State) (b : Nat) (bits : Word) (u : State) : Prop :=
  rd u R.ingErr = rd s R.ingErr ||| bits ∧ u.ing = s.ing ∧ SameRegsBut [b, R.ingErr, R.ingErrInfo] s u

/-- `u` is `s` after a write ignored because its owner is enabled. -/
def ConfigBusy (s : State) (b : Nat) (u : State) : Prop := ConfigFailed s b 2 u ∧ (b ≠ R.ingErrInfo → rd u b = rd s b)

theorem ingErr_failed (e off : Nat) : ConfigFailed s b (bitW e) (ingErr s e off) := by
  refine ⟨rd_errInfo_same s e _ (by decide), errInfo_ing .., fun a ha => ?_⟩
  simp only [List.mem_cons, List.not_mem_nil, or_false, not_or] at ha
  obtain ⟨-, herr, hinfo⟩ := ha
  exact rd_errInfo_other s e _ herr hinfo

theorem ingErr_busy (off : Nat) (hb : b ≠ R.ingErr) : ConfigBusy s b (ingErr s 1 off) :=
  ⟨ingErr_failed 1 off, fun hinfo => rd_errInfo_other s 1 _ hb hinfo⟩

/-- An enable that fails its checks: the register takes the write with EN 0. -/
theorem ingErr_wr_failed (e off : Nat) (x : Word) (hb : b ≠ R.ingErr) (hinfo : b ≠ R.ingErrInfo) :
    rd (ingErr (wr s b x) e off) b = x ∧ ConfigFailed s b (bitW e) (ingErr (wr s b x) e off) := by
  obtain ⟨herr, hing, hregs⟩ := ingErr_failed (s := wr s b x) (b := b) e off
  refine ⟨(rd_errInfo_other _ e _ hb hinfo).trans (rd_wr_same ..), ?_, hing, fun a ha => (hregs a ha).trans ?_⟩
  · rw [herr, rd_wr_other _ _ hb.symm]
  · exact rd_wr_other _ _ fun h => ha (h ▸ List.mem_cons_self)

/-! ### A register that an owner protects (R126) -/

/-- A write of register `b` of the owner whose CFG is `cfg`: `enable` is what a write of CFG itself leaves. -/
def ownedWrite (s : State) (b cfg : Nat) (w : Word) (enable : State) : State :=
  if b = cfg then enable else if rb s cfg 31 then ingErr s 1 b else wr s b w

theorem owned_register {c : Instr} {cfg : Nat} {enable : State} (hx : exec c s = .next (ownedWrite s b cfg w enable)) (hne : b ≠ cfg)
    (hb : b ≠ R.ingErr) : (rb s cfg 31 = true → Runs c s (ConfigBusy s b)) ∧ (rb s cfg 31 = false → Runs c s fun u => u = wr s b w) := by
  rw [ownedWrite, if_neg hne] at hx
  refine ⟨fun hen => ⟨_, hx, ?_⟩, fun hen => ⟨_, hx, ?_⟩⟩
  · rw [if_pos hen]
    exact ingErr_busy b hb
  · rw [if_neg (by simp [hen])]

/-! ### Enables (R124, R127) -/

theorem enWrite_busy {ok : State → Bool} {e : Nat} {f g : State → State} (hen : rb s b 31 = true) (hw : bit w 31 = true) :
    enWrite s b w ok e f g = ingErr s 1 b := by rw [enWrite, if_pos hen, if_pos hw]

theorem enWrite_stored {ok : State → Bool} {e : Nat} {f g : State → State} (hen : rb s b 31 = false) (hw : bit w 31 = false) :
    enWrite s b w ok e f g = wr s b w := by rw [enWrite, if_neg (by simp [hen]), if_neg (by simp [hw])]

theorem enWrite_taken {ok : State → Bool} {e : Nat} {f g : State → State} (hen : rb s b 31 = false) (hw : bit w 31 = true)
    (hok : ok (wr s b w) = true) : enWrite s b w ok e f g = f (wr s b w) := by
  rw [enWrite, if_neg (by simp [hen]), if_pos hw]
  exact if_pos hok

theorem enWrite_refused {ok : State → Bool} {e : Nat} {f g : State → State} (hen : rb s b 31 = false) (hw : bit w 31 = true)
    (hok : ok (wr s b w) = false) : enWrite s b w ok e f g = ingErr (wr s b (setBit w 31 false)) e b := by
  rw [enWrite, if_neg (by simp [hen]), if_pos hw]
  exact if_neg (by simp [hok])

/-- What a write of `w` to the CFG register `b` does while its owner is enabled and EN stays, and while it is disabled: `ok` are
the checks of an enable, `bits` the errors where they fail. -/
def EnableFollowsChecks (c : Instr) (s : State) (b : Nat) (w : Word) (ok : Bool) (bits : Word) : Prop :=
  (rb s b 31 = true → bit w 31 = true → Runs c s (ConfigBusy s b)) ∧
  (rb s b 31 = false → bit w 31 = false → Runs c s fun u => u = wr s b w) ∧
  (rb s b 31 = false → bit w 31 = true → ok = true → Runs c s fun u => rb u b 31 = true ∧ rd u R.ingErr = rd s R.ingErr) ∧
  (rb s b 31 = false → bit w 31 = true → ok = false → Runs c s fun u => rb u b 31 = false ∧ ConfigFailed s b bits u)

theorem enable_follows_checks {c : Instr} {ok : State → Bool} {e : Nat} {f g : State → State}
    (hx : rb s b 31 = false ∨ bit w 31 = true → exec c s = .next (enWrite s b w ok e f g)) (hb : b ≠ R.ingErr) (hinfo : b ≠ R.ingErrInfo)
    (hcfg : ∀ t, rd (f t) b = rd t b) (herr : ∀ t, rd (f t) R.ingErr = rd t R.ingErr) :
    EnableFollowsChecks c s b w (ok (wr s b w)) (bitW e) := by
  refine ⟨fun hen hw => ⟨_, hx (.inr hw), ?_⟩, fun hen hw => ⟨_, hx (.inl hen), ?_⟩, fun hen hw hok => ⟨_, hx (.inl hen), ?_⟩,
    fun hen hw hok => ⟨_, hx (.inl hen), ?_⟩⟩
  · rw [enWrite_busy hen hw]
    exact ingErr_busy b hb
  · rw [enWrite_stored hen hw]
  · rw [enWrite_taken hen hw hok]
    refine ⟨?_, (herr _).trans (rd_wr_other _ _ hb.symm)⟩
    rw [rb, hcfg, rd_wr_same, hw]
  · rw [enWrite_refused hen hw hok]
    obtain ⟨hrd, hfailed⟩ := ingErr_wr_failed (s := s) e b (setBit w 31 false) hb hinfo
    refine ⟨?_, hfailed⟩
    rw [rb, hrd]
    exact bit_setFld_same false (by decide)

/-! ### The command's ranges (R126) -/

section
variable {a : BitVec 24} {v : Word} {r : RegRow}

/-- What a write of a pair's, a frame slot's, a template's and an inertial slot's CFG register leaves. -/
def pairCfgWritten (s : State) (b : Nat) (w : Word) (p : Nat) : State :=
  enWrite s b w (fun t => semFieldOk (rf s (R.ingPairSem p) 15 0) && pairEnableOk t p)
    (if semFieldOk (rf s (R.ingPairSem p) 15 0) then 2 else 0) id fun s =>
    { s with ing := { s.ing with waiting := tabSet [] s.ing.waiting p []
                                 decided := tabSet [] (tabSet [] s.ing.decided (2 * p) []) (2 * p + 1) [] } }

def tmplCfgWritten (s : State) (b : Nat) (w : Word) (e m : Nat) : State := enWrite s b w (fun s => tmplEnableOk s e m) 0 id id

def isCfgWritten (s : State) (b : Nat) (w : Word) (i : Nat) : State :=
  enWrite s b w (fun s => isEnableOk s i) 0
    (fun s => setImuSlot s i { imuSlot0 with stamp := (imuSlot s i).stamp, lossFrom := s.dt.now })
    (fun s => clrBits (setImuSlot s i { imuSlot s i with running := none, gaps := [] }) (R.ingIsStatus i) 2)

/-- What a configuration write at offset `b` leaves, range by range: ports, pairs, frame slots, templates, inertial slots. -/
def ingConfigured (s : State) (b : Nat) (w : Word) : State :=
  if b < 0x60200 then wr s b w
  else if b < 0x61000 then
    ownedWrite s b (R.ingPairCfg ((b - 0x60200) / 0x10)) w (pairCfgWritten s b w ((b - 0x60200) / 0x10))
  else if b < 0x62000 then ownedWrite s b (R.ingFsCfg ((b - 0x61000) / 0x80)) w (fsCfgWrite s ((b - 0x61000) / 0x80) w)
  else if b < 0x63000 then
    ownedWrite s b (R.ingEthTCfg ((b - 0x62000) / 0x400) ((b - 0x62000) % 0x400 / 0x80)) w
      (tmplCfgWritten s b w ((b - 0x62000) / 0x400) ((b - 0x62000) % 0x400 / 0x80))
  else ownedWrite s b (R.ingIsCfg ((b - 0x63000) / 0x100)) w (isCfgWritten s b w ((b - 0x63000) / 0x100))

theorem exec_ingConfigWrite (hu : s.up = true) (hr : regRow? a.toNat = some r) (hrw : r.rw ≠ 0) (hlo : 0x60100 ≤ a.toNat) :
    exec (.ingConfigWrite a v) s = .next (ingConfigured s a.toNat (v &&& r.rw)) := by
  show execIngConfigWrite a v s = _
  rw [execIngConfigWrite, fabric_up s hu]
  dsimp only
  rw [hr]
  dsimp only
  rw [if_neg (not_or.mpr ⟨not_lt.mpr hlo, hrw⟩)]
  rfl

/-! #### Owners one by one -/

theorem rd_builderEnable_low {x : Nat} (hx : x < 0x80000) : rd (builderEnable s n) x = rd s x := by
  have hptr : ∀ e, rd (wr s (R.fddPyrPtr e n) 0) x = rd s x := fun e => rd_wr_other _ _ (by simp only [R.fddPyrPtr]; omega)
  have hboth : rd (wr (wr s (R.fddPyrPtr 0 n) 0) (R.fddPyrPtr 1 n) 0) x = rd s x :=
    (rd_wr_other _ _ (by simp only [R.fddPyrPtr]; omega)).trans (hptr 0)
  unfold builderEnable
  dsimp only
  split
  · exact hboth
  · split
    · exact hboth
    · exact (rd_errInfo_other _ _ _ (by simp only [R.fddErr]; omega) (by simp only [R.fddErrInfo]; omega)).trans hboth

theorem rd_setImuSlot_other {x : Nat} (i : Nat) (y : ImuSlot) (h : x ≠ R.ingIsStatus i) : rd (setImuSlot s i y) x = rd s x :=
  (rd_wf_other _ _ _ _ h).trans rfl

@[simp] theorem imuSlot_setImuSlot_same (i : Nat) (y : ImuSlot) : imuSlot (setImuSlot s i y) i = y := tabGet_set_same ..

theorem fsCfgWrite_enable (h : rb s (R.ingFsCfg n) 31 = false ∨ bit w 31 = true) : fsCfgWrite s n w =
    enWrite s (R.ingFsCfg n) w (fun s => fsEnableOk s n) 0
      (fun s => builderEnable (setFsSlot s n { frameSlot0 with lossFrom := s.dt.now }) n) id := by
  unfold fsCfgWrite
  dsimp only
  rw [if_neg]
  rcases h with h | h <;> simp [h]

theorem bitW_ite (c : Bool) : bitW (if c then 2 else 0) = if c then 4 else 1 := by cases c <;> rfl

theorem pair_enable {c : Instr} {p : Nat} (hlo : 0x60200 ≤ b) (hx : exec c s = .next (pairCfgWritten s b w p)) :
    EnableFollowsChecks c s b w (semFieldOk (rf s (R.ingPairSem p) 15 0) && pairEnableOk (wr s b w) p)
      (if semFieldOk (rf s (R.ingPairSem p) 15 0) then 4 else 1) := by
  rw [← bitW_ite]
  exact enable_follows_checks (fun _ => hx) (by simp only [R.ingErr]; omega) (by simp only [R.ingErrInfo]; omega) (fun _ => rfl) (fun _ => rfl)

theorem fs_enable {c : Instr} (hb : b = R.ingFsCfg n) (hhi : b < 0x62000) (hx : exec c s = .next (fsCfgWrite s n w)) :
    EnableFollowsChecks c s b w (fsEnableOk (wr s b w) n) 1 := by
  subst hb
  have hslot : ∀ (t : State) (x : Nat) (y : FrameSlot), x ≠ R.ingFsStatus n → x < 0x80000 →
      rd (builderEnable (setFsSlot t n y) n) x = rd t x := fun t x y hn hlow =>
    (rd_builderEnable_low hlow).trans
      (rd_setFsSlot_of_ne y hn (by simp only [R.fddStatus]; omega) (by simp only [R.fddStatus]; omega))
  simp only [R.ingFsCfg] at hhi
  exact enable_follows_checks (fun h => hx.trans (congrArg _ (fsCfgWrite_enable h))) (by simp only [R.ingFsCfg, R.ingErr]; omega)
    (by simp only [R.ingFsCfg, R.ingErrInfo]; omega)
    (fun t => hslot t _ _ (by simp only [R.ingFsCfg, R.ingFsStatus]; omega) (by simp only [R.ingFsCfg]; omega))
    (fun t => hslot t _ _ (by simp only [R.ingErr, R.ingFsStatus]; omega) (by decide))

theorem tmpl_enable {c : Instr} {e m : Nat} (hlo : 0x62000 ≤ b) (hx : exec c s = .next (tmplCfgWritten s b w e m)) :
    EnableFollowsChecks c s b w (tmplEnableOk (wr s b w) e m) 1 :=
  enable_follows_checks (fun _ => hx) (by simp only [R.ingErr]; omega) (by simp only [R.ingErrInfo]; omega) (fun _ => rfl) (fun _ => rfl)

theorem is_enable {c : Instr} {i : Nat} (hb : b = R.ingIsCfg i) (hx : exec c s = .next (isCfgWritten s b w i)) :
    EnableFollowsChecks c s b w (isEnableOk (wr s b w) i) 1 ∧
      (rb s b 31 = false → bit w 31 = true → isEnableOk (wr s b w) i = true → Runs c s fun u =>
        (imuSlot u i).running = none ∧ (imuSlot u i).lossFrom = s.dt.now) := by
  subst hb
  refine ⟨enable_follows_checks (fun _ => hx) (by simp only [R.ingIsCfg, R.ingErr]; omega)
    (by simp only [R.ingIsCfg, R.ingErrInfo]; omega) (fun t => rd_setImuSlot_other i _ (by simp only [R.ingIsCfg, R.ingIsStatus]; omega))
    (fun t => rd_setImuSlot_other i _ (by simp only [R.ingErr, R.ingIsStatus]; omega)), fun hen hw hok => ⟨_, hx, ?_⟩⟩
  rw [isCfgWritten, enWrite_taken hen hw hok]
  dsimp only
  rw [imuSlot_setImuSlot_same]
  exact ⟨rfl, rfl⟩

/-! #### The ranges apart -/

section
variable (hu : s.up = true) (hr : regRow? a.toNat = some r) (hrw : r.rw ≠ 0) (hb : b = a.toNat) (hw : w = v &&& r.rw)
include hu hr hrw hb hw

theorem exec_ingConfigWrite_pair (hlo : 0x60200 ≤ b) (hhi : b < 0x61000) : exec (.ingConfigWrite a v) s = .next
    (ownedWrite s b (R.ingPairCfg ((b - 0x60200) / 0x10)) w (pairCfgWritten s b w ((b - 0x60200) / 0x10))) := by
  rw [exec_ingConfigWrite hu hr hrw (by omega), ← hb, ← hw, ingConfigured, if_neg (by omega), if_pos hhi]

theorem exec_ingConfigWrite_frameSlot (hlo : 0x61000 ≤ b) (hhi : b < 0x62000) : exec (.ingConfigWrite a v) s = .next
    (ownedWrite s b (R.ingFsCfg ((b - 0x61000) / 0x80)) w (fsCfgWrite s ((b - 0x61000) / 0x80) w)) := by
  rw [exec_ingConfigWrite hu hr hrw (by omega), ← hb, ← hw, ingConfigured, if_neg (by omega), if_neg (by omega), if_pos hhi]

theorem exec_ingConfigWrite_template (hlo : 0x62000 ≤ b) (hhi : b < 0x63000) : exec (.ingConfigWrite a v) s = .next
    (ownedWrite s b (R.ingEthTCfg ((b - 0x62000) / 0x400) ((b - 0x62000) % 0x400 / 0x80)) w
      (tmplCfgWritten s b w ((b - 0x62000) / 0x400) ((b - 0x62000) % 0x400 / 0x80))) := by
  rw [exec_ingConfigWrite hu hr hrw (by omega), ← hb, ← hw, ingConfigured, if_neg (by omega), if_neg (by omega), if_neg (by omega), if_pos hhi]

theorem exec_ingConfigWrite_inertial (hlo : 0x63000 ≤ b) : exec (.ingConfigWrite a v) s = .next
    (ownedWrite s b (R.ingIsCfg ((b - 0x63000) / 0x100)) w (isCfgWritten s b w ((b - 0x63000) / 0x100))) := by
  rw [exec_ingConfigWrite hu hr hrw (by omega), ← hb, ← hw, ingConfigured, if_neg (by omega), if_neg (by omega), if_neg (by omega),
    if_neg (by omega)]

end

theorem ownedWrite_cfg {cfg : Nat} {enable : State} (h : b = cfg) : ownedWrite s b cfg w enable = enable := if_pos h

end

/-! ### The enable of ingress (R578) -/

theorem exec_ingCtrlWrite (v : Word) (hu : s.up = true) : exec (.ingCtrlWrite v) s =
    .next (if rb s R.ingCtrl 0 && !bit v 0 then (List.range 16).foldl closeOnDisable (wr s R.ingCtrl (v &&& 1))
      else wr s R.ingCtrl (v &&& 1)) := (fabric_up s hu : execIngCtrlWrite v s = _)

theorem and_one_eq (v : Word) : v &&& 1 = if bit v 0 then 1 else 0 := by
  show v &&& 1#32 = _
  rw [BitVec.and_one_eq_setWidth_ofBool_getLsbD, bit]
  cases v.getLsbD 0 <;> rfl

end

/-- Settles O24: a register that no enable owns is stored, one of an owner goes by its owner's CFG, and a CFG register by the
checks of its enable; clearing ING_CTRL.EN closes slot after slot. -/
theorem ingressConfiguration : Obligations.IngressConfiguration := by
  intro s a r v hu hr hrw b w p n e m i c stored failed busy
  have hpair := exec_ingConfigWrite_pair hu hr hrw (rfl : b = _) (rfl : w = _)
  have hslot := exec_ingConfigWrite_frameSlot hu hr hrw (rfl : b = _) (rfl : w = _)
  have htmpl := exec_ingConfigWrite_template hu hr hrw (rfl : b = _) (rfl : w = _)
  have hinert := exec_ingConfigWrite_inertial hu hr hrw (rfl : b = _) (rfl : w = _)
  have hing : ∀ x, x ≤ b → 0x60200 ≤ x → b ≠ R.ingErr := fun x h h' => by simp only [R.ingErr]; omega
  refine ⟨fun hlo hhi => ⟨_, exec_ingConfigWrite hu hr hrw hlo, if_pos hhi⟩, fun o ho => ?_, ?_,
    fun w hw => ⟨_, exec_ingCtrlWrite w hu, ?_⟩,
    fun w hw hen => ⟨_, exec_ingCtrlWrite w hu, ?_⟩⟩
  · simp only [List.mem_cons, List.not_mem_nil, or_false] at ho
    rcases ho with rfl | rfl | rfl | rfl
    · intro (hlo : 0x60200 ≤ b) (hhi : b < 0x61000) hne
      exact owned_register (hpair hlo hhi) hne (hing _ hlo (by decide))
    · intro (hlo : 0x61000 ≤ b) (hhi : b < 0x62000) hne
      exact owned_register (hslot hlo hhi) hne (hing _ hlo (by decide))
    · intro (hlo : 0x62000 ≤ b) (hhi : b < 0x63000) hne
      exact owned_register (htmpl hlo hhi) hne (hing _ hlo (by decide))
    · intro (hlo : 0x63000 ≤ b) _ hne
      exact owned_register (hinert hlo) hne (hing _ hlo (by decide))
  · intro t sem o ho
    have hout : ∀ x, b < x → x ≤ 0x63000 → ¬ 0x63000 ≤ b := fun x h h' => by omega
    simp only [List.mem_cons, List.not_mem_nil, or_false] at ho
    rcases ho with rfl | rfl | rfl | rfl
    · intro (hlo : 0x60200 ≤ b) (hhi : b < 0x61000) hcfg
      obtain ⟨h₁, h₂, h₃, h₄⟩ := pair_enable hlo ((hpair hlo hhi).trans (congrArg _ (ownedWrite_cfg hcfg)))
      exact ⟨h₁, h₂, h₃, h₄, fun _ h => absurd h (hout _ hhi (by decide))⟩
    · intro (hlo : 0x61000 ≤ b) (hhi : b < 0x62000) hcfg
      obtain ⟨h₁, h₂, h₃, h₄⟩ := fs_enable hcfg hhi ((hslot hlo hhi).trans (congrArg _ (ownedWrite_cfg hcfg)))
      exact ⟨h₁, h₂, h₃, h₄, fun _ h => absurd h (hout _ hhi (by decide))⟩
    · intro (hlo : 0x62000 ≤ b) (hhi : b < 0x63000) hcfg
      obtain ⟨h₁, h₂, h₃, h₄⟩ := tmpl_enable hlo ((htmpl hlo hhi).trans (congrArg _ (ownedWrite_cfg hcfg)))
      exact ⟨h₁, h₂, h₃, h₄, fun _ h => absurd h (hout _ hhi (by decide))⟩
    · intro (hlo : 0x63000 ≤ b) _ hcfg
      obtain ⟨⟨h₁, h₂, h₃, h₄⟩, h₅⟩ := is_enable hcfg ((hinert hlo).trans (congrArg _ (ownedWrite_cfg hcfg)))
      exact ⟨h₁, h₂, h₃, h₄, fun _ _ => h₅⟩
  · rw [if_neg (by simp [hw]), and_one_eq, if_pos hw]
  · rw [if_pos (by simp [hw, hen]), and_one_eq, if_neg (by simp [hw])]
    obtain ⟨hframes, hctrl⟩ := foldl_closeOnDisable (s := wr s R.ingCtrl 0) (List.range 16)
    refine ⟨fun m => hframes m (.inl (List.mem_range.mpr m.isLt)), ?_⟩
    rw [rb, hctrl, rd_wr_same]
    rfl

end Sys2Proof.Machine
end

section
/-! SUPPORT. Packets at a CSI port, and the start and end of a camera frame (R107, R109, R117 to R119, R128); a part of O22. -/

namespace Sys2Proof.Machine
section
variable {s t : State} {a p vc n k : Nat}

/-! ### Counters that raise a source (R128) -/

/-- `t` is `s` but for register `reg` and the event controller's latches. -/
structure CountOnly (reg : Nat) (s t : State) : Prop where
  frame : ∃ r e, t = { s with regs := r, evc := e }
  regs : ∀ a, a ≠ reg → rd t a = rd s a

namespace CountOnly
variable {reg : Nat}

theorem refl : CountOnly reg s s := ⟨⟨_, _, rfl⟩, fun _ _ => rfl⟩

theorem ing (h : CountOnly reg s t) : t.ing = s.ing := by
  obtain ⟨⟨_, _, rfl⟩, -⟩ := h
  rfl

theorem slot (h : CountOnly reg s t) (n : Nat) : fsSlot t n = fsSlot s n := by rw [fsSlot, h.ing, fsSlot]

theorem samePlaces (h : CountOnly reg s t) (hr : reg < 0x180000) : SamePlaces s t := by
  obtain ⟨⟨_, _, rfl⟩, hregs⟩ := h
  exact ⟨fun k _ => hregs _ (by simp only [R.memRedir]; omega), rfl, rfl, rfl, rfl, rfl⟩

end CountOnly

theorem countOnly_countRaise (reg m : Nat) : CountOnly reg s (countRaise s reg m) := by
  unfold countRaise
  split
  · exact .refl
  · refine ⟨⟨(bump s reg).regs, (raiseEdge (bump s reg) m).evc, ?_⟩, fun a ha => ?_⟩
    · rw [raiseEdge_frame]
      rfl
    · rw [rd_raiseEdge, rd_bump_other _ ha]

theorem rd_countRaise_same (reg m : Nat) : rd (countRaise s reg m) reg = incSat (rd s reg) := by
  unfold countRaise
  split
  case isTrue h => rw [h]; rfl
  case isFalse => rw [rd_raiseEdge, rd_bump_same]

/-! ### A packet and its slot (R107) -/

/-- A port that takes packets, with ingress and the CSI block on. -/
theorem csiOn_of (hi : rb s R.ingCtrl 0 = true) (hp : rb s (R.ingCsiCfg p) 31 = true) (hb : blockOn s 8 = true) : csiOn s p = true := by
  rw [csiOn, ingOn, hi, hp, hb]
  rfl

variable {dt : Option Nat} {f : State → Nat → State}

theorem csiPacket_one_slot (hon : csiOn s p = true) (hs : csiSlots s p vc dt = [n]) : csiPacket s p vc dt 0 f = f s n := by
  simp [csiPacket, hon, hs]

theorem csiPacket_no_slot (hon : csiOn s p = true) (hs : csiSlots s p vc dt = []) :
    csiPacket s p vc dt 0 f = csiCount s p (R.ingCsiUnmatched p) := by
  simp [csiPacket, hon, hs]

theorem csiPacket_bad_header (hon : csiOn s p = true) : csiPacket s p vc dt 2 f = csiCount s p (R.ingCsiEccUncorr p) := by
  simp [csiPacket, hon]

/-- The slots of CSI packets are camera slots. -/
theorem fsType_of_csiSlots (hs : csiSlots s p vc dt = [n]) : fsType s n = 0 := by
  have hmem : n ∈ csiSlots s p vc dt := hs ▸ List.mem_singleton_self n
  simp only [csiSlots, List.mem_filter, Bool.and_eq_true, beq_iff_eq] at hmem
  obtain ⟨-, ⟨⟨⟨-, htype⟩, -⟩, -⟩, -⟩ := hmem
  exact htype

/-! ### A frame opens (R109, R117, R118) -/

/-- A frame start is counted, and takes a LOST slot back. -/
def startCounted (s : State) (n : Nat) : State :=
  bumpWrap (when (rb s (R.ingFsStatus n) 3) (fun s => fsEvent (clrBits s (R.ingFsStatus n) 8) n 1) s) (R.ingFsFrames n)

/-- The frame that a start opens, and the slot with it. -/
def startedFrame (x : FrameSlot) (stamp : DWord) (buf sensor : Option Nat) (lost : Bool) : OpenFrame :=
  ⟨stamp, stamp, buf, 0, 0, 0, none, sensor, false, none, false, false, false, lost, x.count⟩

def startedSlot (x : FrameSlot) (stamp : DWord) (buf sensor : Option Nat) (lost : Bool) : FrameSlot :=
  { x with
    frame := some (startedFrame x stamp buf sensor lost), count := (x.count + 1) % 2 ^ 32, lossFrom := stamp
    unwrapped := match sensor with | some v => some v | none => x.unwrapped }

/-- Slot `n` of `t` with the frame that a start in state `s` opens. -/
def frameStarted (s t : State) (n : Nat) (stamp : DWord) (buf sensor : Option Nat) : State :=
  setFsSlot t n (startedSlot (fsSlot t n) stamp buf sensor (rb s (R.ingFsStatus n) 3))

theorem openFrame_buffered {stamp : DWord} {sensor : Option Nat} (h : (fsSlot s n).frame = none) (hcsi : fsType s n = 0)
    (hbuf : takeBuffer (startCounted s n) n = (t, some k)) : openFrame s n stamp sensor =
      stZero (frameStarted s t n stamp (some k) sensor) (stampTable s n (fsBuf s n k)) (8 * fsHeight s n) := by
  unfold startCounted at hbuf
  unfold openFrame
  rw [h]
  dsimp only
  rw [hbuf]
  exact if_pos hcsi

theorem openFrame_dropped {stamp : DWord} {sensor : Option Nat} (h : (fsSlot s n).frame = none)
    (hbuf : takeBuffer (startCounted s n) n = (t, none)) : openFrame s n stamp sensor = frameStarted s t n stamp none sensor := by
  unfold startCounted at hbuf
  unfold openFrame
  rw [h]
  dsimp only
  rw [hbuf]
  rfl

theorem semTest_one (i : Nat) : semTest s i 1 = decide (semCount s i ≠ 0) := by
  rw [semTest_eq, decide_eq_decide, Ne, ← BitVec.toNat_inj]
  exact Nat.one_le_iff_ne_zero

/-- The slot once its free semaphore has given the next buffer, and once it has given none. -/
def bufferTaken (s : State) (n : Nat) : State :=
  setFsSlot (semWaitsubOp s 1 (rf s (R.ingFsSem n) 31 16) 1) n
    { fsSlot s n with nextBuf := ((fsSlot s n).nextBuf + 1) % max 1 (fsNbuf s n) }

def bufferMissed (s : State) (n : Nat) : State :=
  fsEvent (bump (semWaitsubOp s 1 (rf s (R.ingFsSem n) 31 16) 1) (R.ingFsDrops n)) n 4

theorem semCount_of_sem (h : t.sem = s.sem) (i : Nat) : semCount t i = semCount s i := by rw [semCount, h, semCount]

theorem semCount_semWaitsubOp (r : Nat) {i : Nat} {c : Word} (h : semTest s i c = true) :
    semCount (semWaitsubOp s r i c) i = semCount s i - c := by
  rw [semWaitsubOp_of_enough h, semCount_result, semCount_store_same]

theorem semCount_bufferTaken (hc : semCount s (rf s (R.ingFsSem n) 31 16) ≠ 0) :
    semCount (bufferTaken s n) (rf s (R.ingFsSem n) 31 16) = semCount s (rf s (R.ingFsSem n) 31 16) - 1 := by
  rw [bufferTaken, semCount_of_sem (SlotOnly.refl.setFsSlot _).sem]
  exact semCount_semWaitsubOp 1 (by rw [semTest_one, decide_eq_true hc])

theorem fsSlot_bufferTaken : fsSlot (bufferTaken s n) n =
    { fsSlot s n with nextBuf := ((fsSlot s n).nextBuf + 1) % max 1 (fsNbuf s n) } := fsSlot_setFsSlot_same ..

theorem slotOnly_bufferMissed : SlotOnly n (semWaitsubOp s 1 (rf s (R.ingFsSem n) 31 16) 1) (bufferMissed s n) :=
  (SlotOnly.refl.wr (.inl (by simp only [R.ingFsDrops]; omega)) _).fsEvent 4

theorem rd_bufferMissed_drops : rd (bufferMissed s n) (R.ingFsDrops n) = incSat (rd s (R.ingFsDrops n)) := by
  rw [bufferMissed, fsEvent, rd_setBits_other _ _ (by simp only [R.ingFsDrops, R.ingFsEvent]; omega), rd_bump_same,
    semWaitsubOp_sameRegs _ List.not_mem_nil]

theorem bufferMissed_event : bit (rd (bufferMissed s n) (R.ingFsEvent n)) 4 = true := by
  rw [bufferMissed, fsEvent, rd_setBits_same]
  exact bit_or_bitW _ (by decide)

/-- R118: with a count on the free semaphore the next buffer is taken. -/
theorem takeBuffer_free (hf : rf s (R.ingFsSem n) 31 16 < 4096) (hc : semCount s (rf s (R.ingFsSem n) 31 16) ≠ 0) :
    takeBuffer s n = (bufferTaken s n, some (fsSlot s n).nextBuf) := by
  have hnamed : rf s (R.ingFsSem n) 31 16 ≠ 0xFFFF := by omega
  have htest : semTest s (rf s (R.ingFsSem n) 31 16) 1 = true := by rw [semTest_one, decide_eq_true hc]
  unfold takeBuffer
  dsimp only
  rw [Nat.mod_eq_of_lt hf, if_neg hnamed, htest, Bool.or_true, if_pos rfl]
  rfl

/-- R118: without one the frame is dropped, with its count and its event. -/
theorem takeBuffer_empty (hf : rf s (R.ingFsSem n) 31 16 < 4096) (hc : semCount s (rf s (R.ingFsSem n) 31 16) = 0) :
    takeBuffer s n = (bufferMissed s n, none) := by
  have hnamed : rf s (R.ingFsSem n) 31 16 ≠ 0xFFFF := by omega
  have htest : semTest s (rf s (R.ingFsSem n) 31 16) 1 = false := by rw [semTest_one, decide_eq_false (not_not.mpr hc)]
  unfold takeBuffer
  dsimp only
  rw [Nat.mod_eq_of_lt hf, if_neg hnamed, htest, beq_false_of_ne hnamed, Bool.or_false, if_neg Bool.false_ne_true]
  rfl

theorem slotOnly_startCounted : SlotOnly n s (startCounted s n) :=
  (SlotOnly.refl.when fun _ h =>
    (h.wr (a := R.ingFsStatus n) (.inl (by simp only [R.ingFsStatus]; omega)) _).fsEvent 1).wr (.inl (by simp only [R.ingFsFrames]; omega)) _

theorem fsSlot_startCounted (m : Nat) : fsSlot (startCounted s n) m = fsSlot s m := by
  unfold startCounted when
  split <;> rfl

theorem rd_startCounted_other (h : a ≠ R.ingFsStatus n) (h' : a ≠ R.ingFsEvent n) (h'' : a ≠ R.ingFsFrames n) :
    rd (startCounted s n) a = rd s a := by
  rw [startCounted, rd_bumpWrap_other _ h'', when]
  split
  · rw [fsEvent, rd_setBits_other _ _ h', rd_clrBits_other _ _ h]
  · rfl

theorem rd_startCounted_frames : rd (startCounted s n) (R.ingFsFrames n) = rd s (R.ingFsFrames n) + 1 := by
  rw [startCounted, rd_bumpWrap_same, when]
  split
  · rw [fsEvent, rd_setBits_other _ _ (by simp only [R.ingFsFrames, R.ingFsEvent]; omega),
      rd_clrBits_other _ _ (by simp only [R.ingFsFrames, R.ingFsStatus]; omega)]
  · rfl

/-- No register of slot `n` below its status is one that the slot's work writes. -/
theorem not_slotReg {a : Nat} (hn : n < 16) (ha : a < 0x61030 + 0x80 * n) : ¬ slotReg n a := by
  unfold slotReg
  omega

theorem slotOnly_frameStarted (stamp : DWord) (buf sensor : Option Nat) : SlotOnly n t (frameStarted s t n stamp buf sensor) :=
  SlotOnly.refl.setFsSlot _

@[simp] theorem fsSlot_frameStarted (stamp : DWord) (buf sensor : Option Nat) : fsSlot (frameStarted s t n stamp buf sensor) n =
    startedSlot (fsSlot t n) stamp buf sensor (rb s (R.ingFsStatus n) 3) := fsSlot_setFsSlot_same ..

theorem rd_frameStarted {a : Nat} (stamp : DWord) (buf sensor : Option Nat) (ha : 0x61034 + 0x80 * n ≤ a)
    (ha' : a < 0x61048 + 0x80 * n) : rd (frameStarted s t n stamp buf sensor) a = rd t a :=
  rd_setFsSlot_of_ne _ (by simp only [R.ingFsStatus]; omega) (by simp only [R.fddStatus]; omega) (by simp only [R.fddStatus]; omega)

theorem fsSlot_semWaitsubOp (r i m : Nat) (c : Word) : fsSlot (semWaitsubOp s r i c) m = fsSlot s m := by
  rw [fsSlot, semWaitsubOp_ing, fsSlot]

/-- What a frame start leaves where the free semaphore gives a buffer. -/
def BufferTaken (s : State) (n : Nat) (stamp : DWord) (u : State) : Prop :=
  let x := fsSlot s n
  let free := rf s (R.ingFsSem n) 31 16
  ∃ f, (fsSlot u n).frame = some f ∧ f.start = stamp ∧ f.buf = some x.nextBuf ∧ f.rows = 0 ∧ f.count = x.count ∧
    (fsSlot u n).nextBuf = (x.nextBuf + 1) % max 1 (fsNbuf s n) ∧ semCount u free = semCount s free - 1 ∧
    rd u (R.ingFsFrames n) = rd s (R.ingFsFrames n) + 1

section
variable {stamp : DWord} {sensor : Option Nat} (hn : n < 16) (h : (fsSlot s n).frame = none) (hf : rf s (R.ingFsSem n) 31 16 < 4096)
include hn

/-- The count of a frame start changes neither the slot's configuration nor its free semaphore. -/
theorem startCounted_stands : rf (startCounted s n) (R.ingFsSem n) 31 16 = rf s (R.ingFsSem n) 31 16 ∧
    fsNbuf (startCounted s n) n = fsNbuf s n ∧ ∀ i, semCount (startCounted s n) i = semCount s i := by
  have hstart := slotOnly_startCounted (s := s) (n := n)
  refine ⟨?_, ?_, semCount_of_sem hstart.sem⟩
  · rw [rf, hstart.regs _ (not_slotReg hn (by simp only [R.ingFsSem]; omega)), rf]
  · rw [fsNbuf, rf, hstart.regs _ (not_slotReg hn (by simp only [R.ingFsBufcfg]; omega)), fsNbuf, rf]

include h hf

theorem openFrame_takes_buffer (hcsi : fsType s n = 0) (hc : semCount s (rf s (R.ingFsSem n) 31 16) ≠ 0) :
    BufferTaken s n stamp (openFrame s n stamp sensor) := by
  obtain ⟨hsem, hnbuf, hcount⟩ := startCounted_stands (s := s) hn
  have hbuf := takeBuffer_free (s := startCounted s n) (n := n) (by rwa [hsem]) (by rwa [hsem, hcount])
  rw [fsSlot_startCounted] at hbuf
  rw [openFrame_buffered h hcsi hbuf]
  generalize ht : bufferTaken (startCounted s n) n = t
  have hslot : fsSlot t n = { fsSlot s n with nextBuf := ((fsSlot s n).nextBuf + 1) % max 1 (fsNbuf s n) } := by
    rw [← ht, fsSlot_bufferTaken, fsSlot_startCounted, hnbuf]
  have hstored : Stored (frameStarted s t n stamp (some (fsSlot s n).nextBuf) sensor) (stZero (frameStarted s t n stamp
      (some (fsSlot s n).nextBuf) sensor) (stampTable s n (fsBuf s n (fsSlot s n).nextBuf)) (8 * fsHeight s n)) := Stored.refl.stBytes _ _
  have hopen := (SlotsStand.stored hstored).slot n
  rw [fsSlot_frameStarted, hslot] at hopen
  refine ⟨_, congrArg FrameSlot.frame hopen, rfl, rfl, rfl, rfl, congrArg FrameSlot.nextBuf hopen, ?_, ?_⟩
  · rw [semCount_of_sem hstored.sem, semCount_of_sem (slotOnly_frameStarted ..).sem, ← ht, ← hcount, ← hsem]
    exact semCount_bufferTaken (by rwa [hsem, hcount])
  · rw [hstored.regs _ (by simp only [R.ingFsFrames]; omega), rd_frameStarted _ _ _ (by simp only [R.ingFsFrames]; omega)
      (by simp only [R.ingFsFrames]; omega), ← ht, bufferTaken, rd_setFsSlot_of_ne _ (by simp only [R.ingFsFrames, R.ingFsStatus]; omega)
      (by simp only [R.ingFsFrames, R.fddStatus]; omega) (by simp only [R.ingFsFrames, R.fddStatus]; omega),
      semWaitsubOp_sameRegs _ List.not_mem_nil, rd_startCounted_frames]

/-- What a frame start leaves where the free semaphore gives none. -/
def FrameDropped (s : State) (n : Nat) (u : State) : Prop :=
  ∃ f, (fsSlot u n).frame = some f ∧ f.buf = none ∧ rd u (R.ingFsDrops n) = incSat (rd s (R.ingFsDrops n)) ∧
    bit (rd u (R.ingFsEvent n)) 4 = true ∧ SameBytes s u ∧ u.sem.count = s.sem.count

theorem openFrame_drops_frame (hc : semCount s (rf s (R.ingFsSem n) 31 16) = 0) :
    FrameDropped s n (openFrame s n stamp sensor) := by
  obtain ⟨hsem, -, hcount⟩ := startCounted_stands (s := s) hn
  have hbuf := takeBuffer_empty (s := startCounted s n) (n := n) (by rwa [hsem]) (by rwa [hsem, hcount])
  rw [openFrame_dropped h hbuf]
  have hshort : semTest (startCounted s n) (rf (startCounted s n) (R.ingFsSem n) 31 16) 1 = false := by
    rw [semTest_one, hsem, hcount, decide_eq_false (not_not.mpr hc)]
  have hstart := slotOnly_startCounted (s := s) (n := n)
  have hmiss := slotOnly_bufferMissed (s := startCounted s n) (n := n)
  have hopen := slotOnly_frameStarted (s := s) (t := bufferMissed (startCounted s n) n) (n := n) stamp none sensor
  have hsub : (semWaitsubOp (startCounted s n) 1 (rf (startCounted s n) (R.ingFsSem n) 31 16) 1).sem.count = s.sem.count := by
    rw [semWaitsubOp_of_short hshort, semResult_count, semServe_count, hstart.sem]
  have hwait : SameBytes (startCounted s n) (semWaitsubOp (startCounted s n) 1 (rf (startCounted s n) (R.ingFsSem n) 31 16) 1) :=
    sameBytes_of_redirect (fun _ _ => semWaitsubOp_sameRegs _ List.not_mem_nil) (semWaitsubOp_mem ..) (semWaitsubOp_heldWrites ..)
      (by rw [hsub, hstart.sem])
  refine ⟨_, congrArg FrameSlot.frame (fsSlot_frameStarted ..), rfl, ?_, ?_, fun x => ?_, ?_⟩
  · rw [rd_frameStarted _ _ _ (by simp only [R.ingFsDrops]; omega) (by simp only [R.ingFsDrops]; omega), rd_bufferMissed_drops,
      rd_startCounted_other (by simp only [R.ingFsDrops, R.ingFsStatus]; omega) (by simp only [R.ingFsDrops, R.ingFsEvent]; omega)
      (by simp only [R.ingFsDrops, R.ingFsFrames]; omega)]
  · rw [rd_frameStarted _ _ _ (by simp only [R.ingFsEvent]; omega) (by simp only [R.ingFsEvent]; omega)]
    exact bufferMissed_event
  · exact (hopen.sameBytes hn x).trans ((hmiss.sameBytes hn x).trans ((hwait x).trans (hstart.sameBytes hn x)))
  · rw [hopen.sem, hmiss.sem, hsub]

end

/-! ### A frame ends (R109, R117 to R119) -/

/-- What the end of a camera frame with buffer `k` leaves, outside pairs. -/
theorem closeFrame_signals {f : OpenFrame} {end_ : DWord} (h : (fsSlot s n).frame = some f) (hb : f.buf = some k)
    (hpair : pairOf s n = none) (hd : rf s (R.ingFsSem n) 15 0 < 4096) :
    let u := closeFrame s n end_ false
    let done := rf s (R.ingFsSem n) 15 0
    let held := heldIn u [(fsBuf s n k, fsBytes s n)]
    (fsSlot u n).frame = none ∧ rd u (R.pjeSlotLatch n) = BitVec.ofNat 32 (0x80000000 + k) ∧
      (held = [] → (semCount u done).toNat = min ((semCount s done).toNat + 1) 0xFFFFFFFF) ∧
      (held ≠ [] → semCount u done = semCount s done) := by
  have hland := closeFrame_landed end_ false h hb
  rw [hpair, Option.elim_none] at hland
  rw [hland]
  have hrec := stored_recordWritten (s := s) (n := n) (k := k) false f end_
  have hcount : ∀ i, semCount (recordWritten s n k false f end_) i = semCount s i := fun i =>
    (semCount_of_sem hrec.sem i).trans (semCount_of_sem (slotOnly_frameClosed false f).sem i)
  refine ⟨?_, ?_, ?_⟩
  · rw [← hland, (closeFrame_closes end_ false).closed]
  · exact (rd_signalAfter_high (by simp only [R.pjeSlotLatch]; omega)).trans (rd_wr_same ..)
  · rw [← hcount]
    exact semCount_signalAfter hd

theorem closeFrame_of_dropped {f : OpenFrame} {end_ : DWord} (hn : n < 16) (h : (fsSlot s n).frame = some f) (hb : f.buf = none) :
    let u := closeFrame s n end_ false
    (fsSlot u n).frame = none ∧ SameBytes s u ∧ u.sem = s.sem := by
  rw [closeFrame_dropped end_ false h hb]
  have hclosed := slotOnly_frameClosed (s := s) (n := n) false f
  exact ⟨frameClosed_frame false f, hclosed.sameBytes hn, hclosed.sem⟩

/-! ### The commands (R107, R109) -/

theorem exec_csiFrameStart {p vc : Fin 4} {hdr : Fin 3} (hu : s.up = true) : exec (.csiFrameStart p vc hdr) s =
    .next (csiPacket s p.val vc.val none hdr.val fun st n => openFrame st n st.dt.now (trigSensor st n)) :=
  (fabric_up s hu : execCsiFrameStart p vc hdr s = _)

theorem exec_csiFrameEnd {p vc : Fin 4} {hdr : Fin 3} (hu : s.up = true) : exec (.csiFrameEnd p vc hdr) s =
    .next (csiPacket s p.val vc.val none hdr.val fun st n => closeFrame st n st.dt.now false) :=
  (fabric_up s hu : execCsiFrameEnd p vc hdr s = _)

end

theorem camera_frames_open_and_close : ruleCameraFramesOpenAndClose := by
  intro s p vc hu hi hp hb
  have hon := csiOn_of hi hp hb
  refine ⟨fun n hs => ?_, fun hs => ⟨_, exec_csiFrameStart hu, ?_⟩, ⟨_, exec_csiFrameStart hu, ?_⟩⟩
  · have hstart := (exec_csiFrameStart (hdr := 0) hu).trans (congrArg _ (csiPacket_one_slot hon hs))
    have hend := (exec_csiFrameEnd (hdr := 0) hu).trans (congrArg _ (csiPacket_one_slot hon hs))
    exact ⟨fun h hf hc => ⟨_, hstart, openFrame_takes_buffer n.isLt h hf (fsType_of_csiSlots hs) hc⟩,
      fun h hf hc => ⟨_, hstart, openFrame_drops_frame n.isLt h hf hc⟩,
      fun f k h hk _ hpair hd => ⟨_, hend, closeFrame_signals h hk hpair hd⟩,
      fun f h hk => ⟨_, hend, closeFrame_of_dropped n.isLt h hk⟩⟩
  · have hcount := countOnly_countRaise (s := s) (R.ingCsiUnmatched p.val) (52 + p.val)
    rw [show (0 : Fin 3).val = 0 from rfl, csiPacket_no_slot hon hs]
    exact ⟨rd_countRaise_same .., hcount.ing, (hcount.samePlaces (by simp only [R.ingCsiUnmatched]; omega)).sameBytes⟩
  · have hcount := countOnly_countRaise (s := s) (R.ingCsiEccUncorr p.val) (52 + p.val)
    rw [show (2 : Fin 3).val = 2 from rfl, csiPacket_bad_header hon]
    exact ⟨rd_countRaise_same .., hcount.ing, fun a ha => hcount.regs a fun h => ha (h ▸ List.mem_singleton_self _)⟩

end Sys2Proof.Machine
end

section
/-! SUPPORT. The packets of a camera frame, and a frame that is decided alone (R107 to R109, R115, R120, R124, R125); O22. -/

namespace Sys2Proof.Machine
section
variable {s t : State} {p vc n k : Nat} {f : OpenFrame}

/-! ### A packet whose CRC is checked (R107) -/

/-- A wrong CRC is counted at the port. -/
def crcChecked (s : State) (p : Nat) (ok : Bool) : State :=
  if csiOn s p && !ok then csiCount s p (R.ingCsiCrc p) else s

theorem countOnly_crcChecked (ok : Bool) : CountOnly (R.ingCsiCrc p) s (crcChecked s p ok) := by
  unfold crcChecked
  split
  · exact countOnly_countRaise _ _
  · exact .refl

/-- A count at a port leaves the registers of the slots. -/
theorem CountOnly.slotRegs {a : Nat} (h : CountOnly (R.ingCsiCrc p) s t) (hp : p < 4) (ha : 0x61000 ≤ a) : rd t a = rd s a :=
  h.regs a (by simp only [R.ingCsiCrc]; omega)

theorem csiSlots_crcChecked {dt : Option Nat} (ok : Bool) (hp : p < 4) : csiSlots (crcChecked s p ok) p vc dt = csiSlots s p vc dt := by
  have hcfg : ∀ m, rd (crcChecked s p ok) (R.ingFsCfg m) = rd s (R.ingFsCfg m) := fun m =>
    (countOnly_crcChecked ok).slotRegs hp (by simp only [R.ingFsCfg]; omega)
  simp only [csiSlots, fsEn, fsType, fsPort, fsVc, fsDtype, rb, rf, hcfg]

theorem csiOn_crcChecked (ok : Bool) (hp : p < 4) (hi : rb s R.ingCtrl 0 = true) (hc : rb s (R.ingCsiCfg p) 31 = true)
    (hb : blockOn s 8 = true) : csiOn (crcChecked s p ok) p = true := by
  have hcount := countOnly_crcChecked (s := s) (p := p) ok
  have hrd : ∀ a b, a ≠ R.ingCsiCrc p → rb s a b = true → rb (crcChecked s p ok) a b = true := fun a b ha h => by
    rw [rb, hcount.regs a ha]
    exact h
  refine csiOn_of (hrd _ _ (by simp only [R.ingCtrl, R.ingCsiCrc]; omega) hi) (hrd _ _ (by simp only [R.ingCsiCfg, R.ingCsiCrc]; omega) hc) ?_
  have hpwr : (crcChecked s p ok).pwr = s.pwr := (hcount.samePlaces (by simp only [R.ingCsiCrc]; omega)).pwr
  rw [blockOn, rb, hcount.regs R.pwrPark (by simp only [R.pwrPark, R.ingCsiCrc]; omega), gliding, hpwr]
  exact hb

/-! ### A line (R107 to R109, R115) -/

/-- The open frame of slot `n` replaced. -/
def withFrame (s : State) (n : Nat) (f : OpenFrame) : State := setFsSlot s n { fsSlot s n with frame := some f }

theorem updFrame_open {g : OpenFrame → OpenFrame} (h : (fsSlot s n).frame = some f) : updFrame s n g = withFrame s n (g f) := by
  rw [updFrame, h]
  rfl

@[simp] theorem fsSlot_withFrame : fsSlot (withFrame s n f) n = { fsSlot s n with frame := some f } := fsSlot_setFsSlot_same ..

theorem updFrame_setFsSlot {g : OpenFrame → OpenFrame} {x : FrameSlot} (hx : x.frame = some f) :
    updFrame (setFsSlot s n x) n g = withFrame (setFsSlot s n x) n (g f) :=
  updFrame_open (by rw [fsSlot_setFsSlot_same, hx])

theorem slotOnly_withFrame : SlotOnly n s (withFrame s n f) := SlotOnly.refl.setFsSlot _

theorem SlotOnly.samePlaces (h : SlotOnly n s t) (hn : n < 16) : SamePlaces s t := by
  have hregs := h.regs
  obtain ⟨⟨_, _, _, rfl⟩, -, -⟩ := h
  exact ⟨fun k _ => hregs _ (by simp only [slotReg, R.memRedir]; omega), rfl, rfl, rfl, rfl, rfl⟩

/-- The frame with one more line of the right width. -/
def lineTaken (f : OpenFrame) (ok : Bool) : OpenFrame := { f with rows := f.rows + 1, err := f.err || !ok }

theorem takeLine_dropped {dt : Nat} {ok : Bool} {bs : List Byte} (h : (fsSlot s n).frame = some f) (hrows : f.rows < fsHeight s n)
    (hlen : bs.length = fsWidth s n * bytesPerPixel dt) (hb : f.buf = none) :
    takeLine dt ok bs s n = withFrame s n (lineTaken f ok) := by
  have hfull : ¬ fsHeight s n ≤ f.rows := not_le.mpr hrows
  simp only [takeLine, h, hb, updFrame_open h, hlen, ne_eq, not_true_eq_false, decide_false, decide_eq_false hfull, Bool.or_false,
    lineTaken]

theorem takeLine_landed {ok : Bool} {bs : List Byte} (h : (fsSlot s n).frame = some f) (hrows : f.rows < fsHeight s n)
    (hlen : bs.length = fsWidth s n * bytesPerPixel 0x2A) (hb : f.buf = some k) :
    takeLine 0x2A ok bs s n =
      stBytes (withFrame s n (lineTaken f ok)) (lineAddr s n (fsBuf s n k) f.rows) (padTo (fsPitch s n) bs) := by
  have hfull : ¬ fsHeight s n ≤ f.rows := not_le.mpr hrows
  simp only [takeLine, h, hb, updFrame_open h, hlen, ne_eq, not_true_eq_false, decide_false, decide_eq_false hfull, Bool.or_false,
    if_true, if_pos hrows, List.take_of_length_le hlen.le, lineTaken]

theorem length_padTo (m : Nat) (bs : List Byte) : (padTo m bs).length = m := by
  rw [padTo, List.length_append, List.length_take, List.length_replicate]
  omega

/-- Where the registers of the frame slots stand, so do the size of a slot's image and the addresses of its buffers. -/
theorem image_of_regs (h : ∀ a, 0x61000 ≤ a → rd t a = rd s a) (n : Nat) : fsWidth t n = fsWidth s n ∧ fsHeight t n = fsHeight s n ∧
    fsPitch t n = fsPitch s n ∧ ∀ k y, lineAddr t n (fsBuf t n k) y = lineAddr s n (fsBuf s n k) y := by
  have hsize : rd t (R.ingFsSize n) = rd s (R.ingFsSize n) := h _ (by simp only [R.ingFsSize]; omega)
  have hpitch : fsPitch t n = fsPitch s n := by
    rw [fsPitch, fsWidth, rf, hsize, fsDtype, rf, h _ (by simp only [R.ingFsCfg]; omega), fsPitch, fsWidth, rf, fsDtype, rf]
  refine ⟨by rw [fsWidth, rf, hsize, fsWidth, rf], by rw [fsHeight, rf, hsize, fsHeight, rf], hpitch, fun k y => ?_⟩
  rw [lineAddr, hpitch, fsBuf, rd64, h _ (by simp only [R.ingFsBufHi]; omega), h _ (by simp only [R.ingFsBufLo]; omega), rf,
    h _ (by simp only [R.ingFsBufcfg]; omega), lineAddr, fsBuf, rd64, rf]

theorem exec_csiLine {p vc : Fin 4} {dt : BitVec 6} {ok : Bool} {bs : List Byte} (hu : s.up = true) : exec (.csiLine p vc dt 0 ok bs) s =
    .next (csiPacket (crcChecked s p.val ok) p.val vc.val (some dt.toNat) 0 (takeLine dt.toNat ok bs)) := by
  show execCsiLine p vc dt 0 ok bs s = _
  rw [execCsiLine, fabric_up s hu, crcChecked]
  cases csiOn s p.val <;> rfl

section
variable {ok : Bool} {bs : List Byte} (hp : p < 4) (hn : n < 16) (h : (fsSlot s n).frame = some f) (hrows : f.rows < fsHeight s n)
include hp hn h hrows

/-- A line of the right width is counted, padded and stored at its row (R107, R109, R115). -/
theorem takeLine_stores (hlen : bs.length = fsWidth s n * bytesPerPixel 0x2A) (hb : f.buf = some k) (hinv : Inv s)
    (hplain : plainRam s (lineAddr s n (fsBuf s n k) f.rows) (fsPitch s n)) :
    let u := takeLine 0x2A ok bs (crcChecked s p ok) n
    let row := lineAddr s n (fsBuf s n k) f.rows
    (fsSlot u n).frame = some (lineTaken f ok) ∧ ldBytes u row (fsPitch s n) = padTo (fsPitch s n) bs ∧ OnlyBytes s u row (fsPitch s n) := by
  have hcount := countOnly_crcChecked (s := s) (p := p) ok
  obtain ⟨hwidth, hheight, hpitch, hline⟩ := image_of_regs (fun a ha => hcount.slotRegs hp ha) n
  have hplaces := (hcount.samePlaces (by simp only [R.ingCsiCrc]; omega)).trans
    ((slotOnly_withFrame (f := lineTaken f ok)).samePlaces hn)
  rw [takeLine_landed (by rwa [hcount.slot]) (by rwa [hheight]) (by rwa [hwidth]) hb, hpitch, hline]
  obtain ⟨hread, honly⟩ := stBytes_plain (l := padTo (fsPitch s n) bs) hplaces (by rwa [length_padTo]) hinv.held
  rw [length_padTo] at hread honly
  refine ⟨?_, hread, honly⟩
  rw [(SlotsStand.stored (Stored.refl.stBytes _ _)).slot, fsSlot_withFrame]

/-- A dropped frame's line is counted alone (R118). -/
theorem takeLine_counts {dt : Nat} (hlen : bs.length = fsWidth s n * bytesPerPixel dt) (hb : f.buf = none) :
    let u := takeLine dt ok bs (crcChecked s p ok) n
    (fsSlot u n).frame = some (lineTaken f ok) ∧ SameBytes s u := by
  have hcount := countOnly_crcChecked (s := s) (p := p) ok
  obtain ⟨hwidth, hheight, -, -⟩ := image_of_regs (fun a ha => hcount.slotRegs hp ha) n
  rw [takeLine_dropped (by rwa [hcount.slot]) (by rwa [hheight]) (by rwa [hwidth]) hb]
  exact ⟨congrArg FrameSlot.frame fsSlot_withFrame,
    ((hcount.samePlaces (by simp only [R.ingCsiCrc]; omega)).trans (slotOnly_withFrame.samePlaces hn)).sameBytes⟩

end

/-! ### Line starts (R107, R115) -/

/-- What a line-start short packet does for slot `n`, and a line-end one with `isEnd`. -/
def lineMarked (isEnd : Bool) (s : State) (n : Nat) : State :=
  match (fsSlot s n).frame with
  | some ⟨_, _, some k, rows, _, _, _, _, _, _, _, _, _, _, _⟩ =>
    if !isEnd ∧ rb s (R.ingFsCfg n) 16 = true ∧ rows < fsHeight s n then
      stN s (stampTable s n (fsBuf s n k) + 8 * rows) 8 s.dt.now.toNat
    else s
  | _ => s

theorem exec_csiLineStart {p vc : Fin 4} {hdr : Fin 3} {isEnd : Bool} (hu : s.up = true) : exec (.csiLineStart p vc hdr isEnd) s =
    .next (csiPacket s p.val vc.val none hdr.val (lineMarked isEnd)) :=
  (fabric_up s hu : execCsiLineStart p vc hdr isEnd s = _)

theorem lineMarked_stamped (h : (fsSlot s n).frame = some f) (hb : f.buf = some k) (hrows : f.rows < fsHeight s n)
    (hl : rb s (R.ingFsCfg n) 16 = true) :
    lineMarked false s n = stN s (stampTable s n (fsBuf s n k) + 8 * f.rows) 8 s.dt.now.toNat := by
  obtain ⟨start, last, buf, rows⟩ := f
  cases hb
  rw [lineMarked, h]
  exact if_pos ⟨rfl, hl, hrows⟩

theorem lineMarked_unstamped {isEnd : Bool} (hl : rb s (R.ingFsCfg n) 16 = false ∨ isEnd = true) : lineMarked isEnd s n = s := by
  unfold lineMarked
  split
  · exact if_neg (by rcases hl with h | h <;> simp [h])
  · rfl

theorem stN_plain (a v : Nat) (hinv : Inv s) (hplain : plainRam s a k) :
    ldN (stN s a k v) a k = v % 256 ^ k ∧ OnlyBytes s (stN s a k v) a k ∧ (stN s a k v).ing = s.ing := by
  obtain ⟨hread, honly⟩ := stBytes_plain (l := leBytes k v) .refl (by rwa [leBytes_length]) hinv.held
  rw [leBytes_length] at hread honly
  refine ⟨?_, honly, stN_ing ..⟩
  rw [ldN, stN, hread, leVal_leBytes]

/-! ### Embedded data (R108, R120) -/

theorem exec_csiEmbeddedData {p vc : Fin 4} {ok : Bool} {bs : List Byte} (hu : s.up = true) : exec (.csiEmbeddedData p vc 0 ok bs) s =
    .next (csiPacket (crcChecked s p.val ok) p.val vc.val none 0 (takeEmbedded ok bs)) := by
  show execCsiEmbeddedData p vc 0 ok bs s = _
  rw [execCsiEmbeddedData, fabric_up s hu, crcChecked]
  cases csiOn s p.val <;> rfl

/-- The sensor time that a packet of embedded data gives a slot. -/
def embeddedTime (s : State) (n : Nat) (bs : List Byte) : Nat :=
  let loc := rd s (R.ingFsTsloc n)
  unwrap (8 * fld loc 11 8) (fsSlot s n).unwrapped (leVal (slice bs (fld loc 31 16) (fld loc 11 8)))

theorem takeEmbedded_first {ok : Bool} {bs : List Byte} (h : (fsSlot s n).frame = some f) (hsrc : fsTsrc s n = 1) (hfirst : f.embSeen = false)
    (hin : fld (rd s (R.ingFsTsloc n)) 31 16 + fld (rd s (R.ingFsTsloc n)) 11 8 ≤ bs.length) (hle : bit (rd s (R.ingFsTsloc n)) 0 = false) :
    (fsSlot (takeEmbedded ok bs s n) n).frame =
        some { f with embSeen := true, err := f.err || !ok, sensor := some (embeddedTime s n bs) } ∧
      SlotOnly n s (takeEmbedded ok bs s n) := by
  simp only [takeEmbedded, h, updFrame_open h, hsrc, hfirst, hin, hle]
  simp only [and_self, if_true, Bool.false_eq_true, if_false, fsSlot_withFrame]
  rw [updFrame_setFsSlot (f := { f with embSeen := true, err := f.err || !ok }) rfl]
  exact ⟨congrArg FrameSlot.frame fsSlot_withFrame, (slotOnly_withFrame.setFsSlot _).trans slotOnly_withFrame⟩

/-- The first embedded packet of a frame, once its CRC is checked: what it leaves of the frame and of memory. -/
theorem embedded_gives_time {p : Nat} {ok : Bool} {bs : List Byte} (hp : p < 4) (hn : n < 16) (hf : (fsSlot s n).frame = some f)
    (hsrc : fsTsrc s n = 1) (hfirst : f.embSeen = false)
    (hin : fld (rd s (R.ingFsTsloc n)) 31 16 + fld (rd s (R.ingFsTsloc n)) 11 8 ≤ bs.length) (hle : bit (rd s (R.ingFsTsloc n)) 0 = false) :
    ∃ g, (fsSlot (takeEmbedded ok bs (crcChecked s p ok) n) n).frame = some g ∧ g.embSeen = true ∧ g.err = (f.err || !ok) ∧
      SameBytes s (takeEmbedded ok bs (crcChecked s p ok) n) ∧ g.sensor = some (embeddedTime s n bs) := by
  have hcount := countOnly_crcChecked (s := s) (p := p) ok
  have hregs : ∀ a, 0x61000 ≤ a → rd (crcChecked s p ok) a = rd s a := fun a ha => hcount.slotRegs hp ha
  have hloc : rd (crcChecked s p ok) (R.ingFsTsloc n) = rd s (R.ingFsTsloc n) := hregs _ (by simp only [R.ingFsTsloc]; omega)
  obtain ⟨hframe, honly⟩ := takeEmbedded_first (s := crcChecked s p ok) (n := n) (ok := ok) (bs := bs)
    ((congrArg FrameSlot.frame (hcount.slot _)).trans hf)
    (by rwa [fsTsrc, rf, hregs _ (by simp only [R.ingFsCfg]; omega)]) hfirst (by rwa [hloc]) (by rwa [hloc])
  refine ⟨_, hframe, rfl, rfl, ((hcount.samePlaces (by simp only [R.ingCsiCrc]; omega)).trans (honly.samePlaces hn)).sameBytes, ?_⟩
  rw [embeddedTime, hloc, hcount.slot, embeddedTime]

end

theorem camera_lines_reach_the_buffer : ruleCameraLinesReachTheBuffer := by
  intro s p vc n f k hu hi hc hb hf hrows hinv row
  refine ⟨fun dt ok bs hs hlen => ?_, fun hs => ?_⟩
  · have hx : exec (.csiLine p vc dt 0 ok bs) s = .next (takeLine dt.toNat ok bs (crcChecked s p.val ok) n.val) :=
      (exec_csiLine hu).trans (congrArg _ (csiPacket_one_slot (csiOn_crcChecked ok p.isLt hi hc hb)
        ((csiSlots_crcChecked ok p.isLt).trans hs)))
    refine ⟨fun hk hplain hdt => ?_, fun hk => ⟨_, hx, takeLine_counts p.isLt n.isLt hf hrows hlen hk⟩⟩
    subst hdt
    exact ⟨_, hx, takeLine_stores p.isLt n.isLt hf hrows hlen hk hinv hplain⟩
  · have hmark : ∀ isEnd, exec (.csiLineStart p vc 0 isEnd) s = .next (lineMarked isEnd s n.val) := fun isEnd =>
      (exec_csiLineStart hu).trans (congrArg _ (csiPacket_one_slot (csiOn_of hi hc hb) hs))
    refine ⟨fun hk hl hplain => ⟨_, hmark false, ?_⟩, fun hl => ⟨_, hmark false, lineMarked_unstamped (.inl hl)⟩,
      ⟨_, hmark true, lineMarked_unstamped (.inr rfl)⟩, fun ok bs => ?_⟩
    · obtain ⟨hread, hrest⟩ := stN_plain (s := s) (stampTable s n.val (fsBuf s n.val k) + 8 * f.rows) s.dt.now.toNat hinv hplain
      rw [lineMarked_stamped hf hk hrows hl]
      exact ⟨hread.trans (Nat.mod_eq_of_lt s.dt.now.isLt), hrest⟩
    · exact fun hsrc hfirst hin hle => ⟨_, (exec_csiEmbeddedData hu).trans (congrArg _ (csiPacket_one_slot (csiOn_crcChecked ok p.isLt hi hc hb)
        ((csiSlots_crcChecked ok p.isLt).trans hs))), embedded_gives_time p.isLt n.isLt hf hsrc hfirst hin hle⟩

end Sys2Proof.Machine
end

section
/-! SUPPORT. A camera frame that is decided alone (R124, R125, R183); O22. -/

namespace Sys2Proof.Machine
section
variable {s t : State} {p : Nat} {f : PairFrame}

/-! ### A MONO decision (R125, R183) -/

/-- The pair's latch after a MONO decision: valid, not paired, the other buffer's field free. -/
def monoLatch (s : State) (f : PairFrame) : Word :=
  BitVec.ofNat 32 (if f.right then 0x80000000 + f.buf % 16 * 0x10000 + Config.freeNat s.fresh % 16
    else 0x80000000 + Config.freeNat s.fresh % 16 * 0x10000 + f.buf % 16)

/-- A MONO decision up to the pair's signal: record, count and latch. -/
def monoLatched (s : State) (p : Nat) (f : PairFrame) : State :=
  latchPair (bump (markDecided (stampPair { s with fresh := s.fresh + 1 } f 7) p f) (R.ingPairSkip p)) p (monoLatch s f)

theorem decideMono_eq : decideMono s p f =
    signalAfter (monoLatched s p f) [(fsBuf s f.slot f.buf, fsBytes s f.slot)] 1 (rf s (R.ingPairSem p) 15 0) 1 := rfl

/-- A word of bit 31 and bits below 30. -/
theorem bits_of_valid_latch {r : Nat} (hr : r < 2 ^ 30) :
    bit (BitVec.ofNat 32 (2 ^ 31 + r)) 31 = true ∧ bit (BitVec.ofNat 32 (2 ^ 31 + r)) 30 = false := by
  rw [bit, bit, BitVec.getLsbD_ofNat, BitVec.getLsbD_ofNat, Nat.testBit_two_pow_add_eq, Nat.testBit_two_pow_add_gt (by decide),
    Nat.testBit_lt_two_pow hr, Nat.testBit_lt_two_pow (hr.trans (by decide))]
  exact ⟨rfl, rfl⟩

theorem monoLatch_bits : bit (monoLatch s f) 31 = true ∧ bit (monoLatch s f) 30 = false := by
  unfold monoLatch
  split
  · rw [show 0x80000000 + f.buf % 16 * 0x10000 + Config.freeNat s.fresh % 16 =
      2 ^ 31 + (f.buf % 16 * 0x10000 + Config.freeNat s.fresh % 16) by omega]
    exact bits_of_valid_latch (by omega)
  · rw [show 0x80000000 + Config.freeNat s.fresh % 16 * 0x10000 + f.buf % 16 =
      2 ^ 31 + (Config.freeNat s.fresh % 16 * 0x10000 + f.buf % 16) by omega]
    exact bits_of_valid_latch (by omega)

theorem rd_latchPair_same (w : Word) : rd (latchPair s p w) (R.sdePairLatch p) = w := rd_wr_same ..

theorem stored_stampPair (b : Nat) : Stored s (stampPair s f b) := by
  unfold stampPair
  exact Stored.refl.stBytes _ _

theorem stored_fresh (k : Nat) : Stored s { s with fresh := k } := ⟨rfl, rfl, fun _ _ => rfl⟩

/-- The record rewritten for a MONO decision, once the free value of its latch is drawn. -/
theorem stored_monoStamped : Stored s (stampPair { s with fresh := s.fresh + 1 } f 7) := (stored_fresh _).trans (stored_stampPair 7)

theorem markDecided_waiting : (markDecided s p f).ing.waiting = s.ing.waiting := rfl

theorem markDecided_sem : (markDecided s p f).sem = s.sem := rfl

theorem rd_markDecided (a : Nat) : rd (markDecided s p f) a = rd s a := rfl

theorem monoLatched_waiting : (monoLatched s p f).ing.waiting = s.ing.waiting := by
  rw [monoLatched, (latchPair_stands _).1, bump_ing, markDecided_waiting, stored_monoStamped.ing]

theorem monoLatched_sem : (monoLatched s p f).sem = s.sem := by
  rw [monoLatched, (latchPair_stands _).2, bump_sem, markDecided_sem, stored_monoStamped.sem]

theorem rd_monoLatched_skip (hp : p < 4) : rd (monoLatched s p f) (R.ingPairSkip p) = incSat (rd s (R.ingPairSkip p)) := by
  rw [monoLatched, rd_latchPair_other _ (by simp only [R.ingPairSkip, R.sdePairLatch]; omega)
    (by simp only [R.ingPairSkip, R.sdePairOvr]; omega), rd_bump_same, rd_markDecided,
    stored_monoStamped.regs _ (by simp only [R.ingPairSkip]; omega)]

/-- What a MONO decision leaves. -/
theorem decideMono_decides (hp : p < 4) (hsem : rf s (R.ingPairSem p) 15 0 < 4096) :
    let u := decideMono s p f
    let m := rf s (R.ingPairSem p) 15 0
    let held := heldIn u [(fsBuf s f.slot f.buf, fsBytes s f.slot)]
    u.ing.waiting = s.ing.waiting ∧ rd u (R.ingPairSkip p) = incSat (rd s (R.ingPairSkip p)) ∧ bit (rd u (R.sdePairLatch p)) 31 = true ∧
      bit (rd u (R.sdePairLatch p)) 30 = false ∧ (held = [] → (semCount u m).toNat = min ((semCount s m).toNat + 1) 0xFFFFFFFF) ∧
      (held ≠ [] → semCount u m = semCount s m) := by
  obtain ⟨hvalid, hmono⟩ := monoLatch_bits (s := s) (f := f)
  have hlatch : rd (decideMono s p f) (R.sdePairLatch p) = monoLatch s f :=
    (rd_signalAfter_high (by simp only [R.sdePairLatch]; omega)).trans (rd_latchPair_same _)
  refine ⟨?_, ?_, by rwa [hlatch], by rwa [hlatch], ?_⟩
  · rw [decideMono_eq, (signalAfter_stands _ _ _ _).1, monoLatched_waiting]
  · rw [decideMono_eq, rd_signalAfter_high (by simp only [R.ingPairSkip]; omega), rd_monoLatched_skip hp]
  · rw [← semCount_of_sem (t := monoLatched s p f) monoLatched_sem]
    exact semCount_signalAfter hsem

theorem exec_pairWaitExpire {p : Fin 4} (right : Bool) (hu : s.up = true) : exec (.pairWaitExpire p right) s =
    .next (((tabGet [] s.ing.waiting p.val).find? fun g => g.right == right &&
        decide (g.ends.toNat + (rd s (R.ingPairWait p.val)).toNat < s.dt.now.toNat)).elim s fun f =>
      decideMono (setWaiting s p.val ((tabGet [] s.ing.waiting p.val).filter fun x => x ≠ f)) p.val f) := by
  show execPairWaitExpire p right s = _
  rw [execPairWaitExpire, fabric_up s hu]
  dsimp only
  cases (tabGet [] s.ing.waiting p.val).find? fun g => g.right == right &&
    decide (g.ends.toNat + (rd s (R.ingPairWait p.val)).toNat < s.dt.now.toNat) <;> rfl

end

theorem unpaired_frame_is_decided_mono : ruleUnpairedFrameIsDecidedMono := by
  intro s p f hu hw hlate hsem held m
  refine ⟨⟨_, exec_pairWaitExpire f.right hu, ?_⟩, ⟨_, exec_pairWaitExpire (!f.right) hu, ?_⟩⟩
  · rw [hw, List.find?_cons_of_pos (by simpa using hlate), Option.elim_some]
    obtain ⟨hwait, hskip, hvalid, hmono, hsignal⟩ :=
      decideMono_decides (s := setWaiting s p.val ([f].filter fun x => x ≠ f)) (f := f) p.isLt hsem
    refine ⟨?_, hskip, hvalid, hmono, hsignal⟩
    rw [hwait]
    exact (tabGet_set_same ..).trans (by simp)
  · rw [hw, List.find?_cons_of_neg (by simp), List.find?_nil, Option.elim_none]

/-- Settles O22: a frame's start and end by what its slot's buffer allows, its lines by their stores to plain memory, a frame without
its partner by the MONO decision. -/
theorem cameraFramesReachTheirBuffers : Obligations.CameraFramesReachTheirBuffers :=
  ⟨camera_frames_open_and_close, camera_lines_reach_the_buffer, unpaired_frame_is_decided_mono⟩

end Sys2Proof.Machine
end

section
/-! SUPPORT. Lidar packets and the points of a sweep (R110 to R112); a part of O23. -/

namespace Sys2Proof.Machine
section
variable {s t : State} {e n k : Nat} {f : OpenFrame}

/-! ### A point of a packet (R111, R112) -/

/-- A point that lies within the offsets of its sweep. -/
theorem pointOffset_le {d : Int} (h : d < 0xFFFFFF0) : pointOffset (d * 65536) ≤ 0xFFFFFF := by
  have hq : d * 65536 / 1048576 = d / 16 := by omega
  unfold pointOffset
  dsimp only
  rw [hq]
  split <;> omega

/-- The time of a packet is read from registers that the work of a slot leaves. -/
theorem packetTime_slotOnly {sv : Nat} {stamp : DWord} (h : SlotOnly n s t) (hn : n < 16) (f : OpenFrame) :
    packetTime t n sv stamp f = packetTime s n sv stamp f := by
  simp only [packetTime, fallback, h.regs _ (not_slotReg hn (show R.ingFsLat n < _ by simp only [R.ingFsLat]; omega)),
    h.regs _ (not_slotReg hn (show R.ingFsTick n < _ by simp only [R.ingFsTick]; omega))]

/-- Where the registers of a template stand, its points do. -/
theorem packetPoint_of_regs {m j : Nat} (pl : List Byte)
    (h : ∀ a, 0x62000 + 0x400 * e + 0x80 * m ≤ a → a < 0x62030 + 0x400 * e + 0x80 * m → rd t a = rd s a) :
    packetPoint t e m pl j = packetPoint s e m pl j := by
  have hlay : rd t (R.ingEthTLayout e m) = rd s (R.ingEthTLayout e m) :=
    h _ (by simp only [R.ingEthTLayout]; omega) (by simp only [R.ingEthTLayout]; omega)
  have hfmt : rd t (R.ingEthTXyzFmt e m) = rd s (R.ingEthTXyzFmt e m) :=
    h _ (by simp only [R.ingEthTXyzFmt]; omega) (by simp only [R.ingEthTXyzFmt]; omega)
  have hmul : rd t (R.ingEthTXyzMul e m) = rd s (R.ingEthTXyzMul e m) :=
    h _ (by simp only [R.ingEthTXyzMul]; omega) (by simp only [R.ingEthTXyzMul]; omega)
  have hint : rd t (R.ingEthTInt e m) = rd s (R.ingEthTInt e m) :=
    h _ (by simp only [R.ingEthTInt]; omega) (by simp only [R.ingEthTInt]; omega)
  simp only [packetPoint, hlay, hfmt, hmul, hint]

/-- The frame with one more point. -/
def pointTaken (f : OpenFrame) (stamp : DWord) : OpenFrame := { f with points := f.points + 1, last := stamp }

/-- The one point of a packet enters the slot's frame; then its record is stored, where the frame has a buffer. -/
theorem packetPoints_one {m sv : Nat} {stamp : DWord} {pl : List Byte} {pt : List Int × Nat} (h : (fsSlot s n).frame = some f)
    (hpt : packetPoint s e m pl 0 = some pt) (hroom : f.points < (rd s (R.ingFsSize n)).toNat)
    (hnear : packetTime s n sv stamp f - (f.judged.map Judged.time).getD 0 < 0xFFFFFF0) :
    Stored (withFrame { s with fresh := s.fresh + 1 } n (pointTaken f stamp)) (packetPoints e m n sv stamp pl 1 0 s) := by
  obtain ⟨xyz, inten⟩ := pt
  have hofs : ¬ 0xFFFFFF < pointOffset ((packetTime s n sv stamp f - (f.judged.map Judged.time).getD 0) * 65536) :=
    not_lt.mpr (pointOffset_le hnear)
  have hpoints : ∀ fr, (fsSlot { s with fresh := fr } n).frame = some f := fun _ => h
  simp only [packetPoints, hpt, h, Nat.zero_mul, Nat.cast_zero, add_zero, decide_eq_false hofs, Bool.false_eq_true, if_false, drawNat,
    if_neg (not_le.mpr hroom), updFrame_open (hpoints _)]
  split
  · exact .refl
  · exact Stored.refl.stBytes _ _

/-! ### A packet of one point in an open sweep (R112) -/

/-- The slot as a packet finds it in an open sweep: its sensor time is remembered. -/
def timed (s : State) (n : Nat) (f : OpenFrame) (sv : Nat) : State := setFsSlot s n { fsSlot s n with frame := some f, unwrapped := some sv }

theorem timed_slotOnly {sv : Nat} : SlotOnly n s (timed s n f sv) := SlotOnly.refl.setFsSlot _

@[simp] theorem fsSlot_timed {sv : Nat} : fsSlot (timed s n f sv) n = { fsSlot s n with frame := some f, unwrapped := some sv } :=
  fsSlot_setFsSlot_same ..

/-- The frame with one more packet. -/
def packetTaken (f : OpenFrame) (stamp : DWord) (field : Nat) : OpenFrame :=
  { f with last := stamp, packets := f.packets + 1, prevField := some field }

/-- A packet of one point in an open sweep, but for the end of the sweep after it. -/
def packetWork (s : State) (e m n : Nat) (pl : List Byte) (f : OpenFrame) (field : Nat) : State :=
  let sv := packetSensor s e m n pl
  updFrame (packetPoints e m n sv (rxStamp s) pl 1 0 (timed s n f sv)) n fun f => packetTaken f (rxStamp s) field

/-- A packet long enough for its one point, under the sweep rule by packet count, is its point; then the count decides on the sweep. -/
theorem takePacket_one_point {m : Nat} {pl : List Byte} (hopen : (fsSlot s n).frame = some f) (hnpts : rf s (R.ingEthTNpts e m) 10 0 = 1)
    (hlen : rf s (R.ingEthTLayout e m) 31 16 + rf s (R.ingEthTLayout e m) 15 0 + 256 ≤ pl.length)
    (hrule : rf s (R.ingEthTSweep e m) 31 30 = 0) :
    ∃ field, takePacket s e m n pl = match (fsSlot (packetWork s e m n pl f field) n).frame with
      | some g => if rf s (R.ingEthTSweep e m) 29 16 ≤ g.packets then closeFrame (packetWork s e m n pl f field) n (rxStamp s) false
          else packetWork s e m n pl f field
      | none => packetWork s e m n pl f field := by
  have hneed : fld (rd s (R.ingEthTLayout e m)) 31 16 + 1 * (fld (rd s (R.ingEthTLayout e m)) 15 0 + 256) - pl.length = 0 := by
    simp only [rf] at hlen
    omega
  simp only [rf] at hnpts hrule
  refine ⟨pktField pl (fld (rd s (R.ingEthTSweep e m)) 15 0) 2 Config.sweepBig, ?_⟩
  have hself : { s with fresh := s.fresh + 0 } = s := rfl
  have hrun : ((0 : Nat) == 1) = false := rfl
  unfold takePacket
  simp only [rf, hnpts, hneed, hrule, hself, hrun, List.range_zero, List.map_nil, List.append_nil, hopen, Bool.false_and, Bool.false_eq_true,
    if_false, Option.isSome_some, if_true, true_and]
  rfl

/-- The work of a packet of one point whose record has room adds the point and the packet to the frame, and touches no other register. -/
theorem packetWork_frame {m field : Nat} {pl : List Byte} {pt : List Int × Nat} (hn : n < 16) (he : e < 2) (hm : m < 8)
    (hpt : packetPoint s e m pl 0 = some pt) (hroom : f.points < (rd s (R.ingFsSize n)).toNat)
    (hnear : packetTime s n (packetSensor s e m n pl) (rxStamp s) f - (f.judged.map Judged.time).getD 0 < 0xFFFFFF0) :
    (fsSlot (packetWork s e m n pl f field) n).frame = some (packetTaken (pointTaken f (rxStamp s)) (rxStamp s) field) ∧
      ∀ a, a < 0x100000 → ¬ slotReg n a → rd (packetWork s e m n pl f field) a = rd s a := by
  unfold packetWork
  dsimp only
  generalize packetSensor s e m n pl = sv at hnear ⊢
  generalize rxStamp s = stamp at hnear ⊢
  have htimed : SlotOnly n s (timed s n f sv) := timed_slotOnly
  have hpoint : packetPoint (timed s n f sv) e m pl 0 = some pt := by
    rw [packetPoint_of_regs pl fun a _ _ => htimed.regs a fun hout => by unfold slotReg at hout; omega, hpt]
  have hsize : rd (timed s n f sv) (R.ingFsSize n) = rd s (R.ingFsSize n) := htimed.regs _ (not_slotReg hn (by simp only [R.ingFsSize]; omega))
  have hwork := packetPoints_one (stamp := stamp) (sv := sv) (congrArg FrameSlot.frame fsSlot_timed) hpoint (by rw [hsize]; exact hroom)
    (by rw [packetTime_slotOnly htimed hn]; exact hnear)
  generalize packetPoints e m n sv stamp pl 1 0 (timed s n f sv) = t at hwork
  have hframe : (fsSlot t n).frame = some (pointTaken f stamp) := by
    rw [(SlotsStand.stored hwork).slot, fsSlot_withFrame]
  rw [updFrame_open hframe]
  refine ⟨congrArg FrameSlot.frame fsSlot_withFrame, fun a ha hout => ?_⟩
  rw [slotOnly_withFrame.regs a hout, hwork.regs a ha, slotOnly_withFrame.regs a hout, ← htimed.regs a hout]
  rfl

/-! ### A frame on a sensor port (R110) -/

/-- A port that takes packets, with ingress and the Ethernet block on. -/
theorem exec_ethFrameRx {e : Fin 2} {fr : List Byte} (hu : s.up = true) (hp : isPtp fr = false) (hi : rb s R.ingCtrl 0 = true)
    (hb : blockOn s 9 = true) : exec (.ethFrameRx e fr) s = .next (match parseUdp fr with
      | none => countRaise s (R.ingEthDiscard e.val) (56 + e.val)
      | some d => match (List.range 8).find? (fun t => templateMatch s e.val t d) with
        | none => countRaise s (R.ingEthDiscard e.val) (56 + e.val)
        | some t =>
          let n := rf s (R.ingEthTCfg e.val t) 27 24
          if fsEn s n && fsType s n == 1 && fsPort s n == e.val then
            takePacket (bumpWrap s (R.ingEthTPkts e.val t)) e.val t n d.payload
          else countRaise s (R.ingEthDiscard e.val) (56 + e.val)) := by
  have hrun : exec (.ethFrameRx e fr) s = .next _ := (fabric_up s hu : execEthFrameRx e fr s = _)
  rw [hrun, ingOn, hp, hi, hb]
  rfl

theorem exec_ethFrameRx_passes {e : Fin 2} {fr : List Byte} (hu : s.up = true)
    (h : isPtp fr = true ∨ rb s R.ingCtrl 0 = false ∨ blockOn s 9 = false) : exec (.ethFrameRx e fr) s = .next s := by
  have hrun : exec (.ethFrameRx e fr) s = .next _ := (fabric_up s hu : execEthFrameRx e fr s = _)
  rw [hrun, if_pos]
  rw [ingOn]
  rcases h with h | h | h <;> simp [h]

/-- A source that no target serves and no wake catches holds its level when a counter raises it. -/
theorem evcLevel_countRaise {reg m : Nat} (hm : m < 512) (hroom : rd s reg ≠ 0xFFFFFFFF)
    (hw : (s.evc.wakeArmed && inSet s.evc.wakeMask m) = false) (ha : activeAny s m = false) : evcLevel (countRaise s reg m) m = true := by
  rw [countRaise, if_neg hroom, raiseEdge_held (s := bump s reg) (by rw [bump_evc, hw]; exact Bool.false_ne_true) ha]
  exact evcLevel_of_held (inSet_addSet_same _ hm)

theorem fld_four_lt (v : Word) (lo : Nat) : fld v (lo + 3) lo < 16 := by
  rw [fld, show lo + 3 + 1 - lo = 4 by omega]
  exact Nat.mod_lt _ (by decide)

/-- What a packet reads of the state is not the packet counter of its template. -/
theorem packetSensor_bumpWrap {m : Nat} {pl : List Byte} :
    packetSensor (bumpWrap s (R.ingEthTPkts e m)) e m n pl = packetSensor s e m n pl := by
  simp only [packetSensor, rd_bumpWrap_other s (show R.ingEthTTs e m ≠ R.ingEthTPkts e m by simp only [R.ingEthTTs, R.ingEthTPkts]; omega)]
  rfl

theorem packetTime_bumpWrap {m sv : Nat} {stamp : DWord} :
    packetTime (bumpWrap s (R.ingEthTPkts e m)) n sv stamp f = packetTime s n sv stamp f := by
  simp only [packetTime, fallback,
    rd_bumpWrap_other s (show R.ingFsLat n ≠ R.ingEthTPkts e m by simp only [R.ingFsLat, R.ingEthTPkts]; omega),
    rd_bumpWrap_other s (show R.ingFsTick n ≠ R.ingEthTPkts e m by simp only [R.ingFsTick, R.ingEthTPkts]; omega)]

theorem rxStamp_bumpWrap {m : Nat} : rxStamp (bumpWrap s (R.ingEthTPkts e m)) = rxStamp s := by
  simp only [rxStamp, rf, rd_bumpWrap_other s (show R.dtPtpLat ≠ R.ingEthTPkts e m by simp only [R.dtPtpLat, R.ingEthTPkts]; omega)]
  rfl

/-- A packet of one point for an open sweep with room, short of the count that ends it: the point and the packet are added. -/
theorem takePacket_adds_point {m : Nat} {pl : List Byte} {pt : List Int × Nat} (hn : n < 16) (he : e < 2) (hm : m < 8)
    (hopen : (fsSlot s n).frame = some f) (hnpts : rf s (R.ingEthTNpts e m) 10 0 = 1)
    (hlen : rf s (R.ingEthTLayout e m) 31 16 + rf s (R.ingEthTLayout e m) 15 0 + 256 ≤ pl.length)
    (hrule : rf s (R.ingEthTSweep e m) 31 30 = 0) (hpt : packetPoint s e m pl 0 = some pt)
    (hroom : f.points < (rd s (R.ingFsSize n)).toNat) (hcount : f.packets + 1 < rf s (R.ingEthTSweep e m) 29 16)
    (hnear : packetTime s n (packetSensor s e m n pl) (rxStamp s) f - (f.judged.map Judged.time).getD 0 < 0xFFFFFF0) :
    ∃ field, (fsSlot (takePacket s e m n pl) n).frame = some (packetTaken (pointTaken f (rxStamp s)) (rxStamp s) field) ∧
      ∀ a, a < 0x100000 → ¬ slotReg n a → rd (takePacket s e m n pl) a = rd s a := by
  obtain ⟨field, hrun⟩ := takePacket_one_point hopen hnpts hlen hrule
  obtain ⟨hframe, hregs⟩ := packetWork_frame (field := field) hn he hm hpt hroom hnear
  have hgoes : takePacket s e m n pl = packetWork s e m n pl f field := by
    rw [hrun, hframe]
    exact if_neg (not_le.mpr hcount)
  rw [hgoes]
  exact ⟨field, hframe, hregs⟩

theorem lidar_packets : ruleLidarPackets := by
  intro s e fr hu
  have he : e.val < 2 := e.isLt
  refine ⟨fun h => ⟨_, exec_ethFrameRx_passes hu h, rfl⟩, fun hp hi hb hnone => ?_, ?_⟩
  · refine ⟨_, exec_ethFrameRx hu hp hi hb, ?_⟩
    rw [hnone]
    have hcount := countOnly_countRaise (s := s) (R.ingEthDiscard e.val) (56 + e.val)
    exact ⟨rd_countRaise_same _ _, fun a ha => hcount.regs a fun h => ha (List.mem_singleton.mpr h),
      fun hroom hw ha => evcLevel_countRaise (by omega) hroom hw ha, hcount.ing,
      (hcount.samePlaces (by simp only [R.ingEthDiscard]; omega)).sameBytes⟩
  · intro d m n f pt pl hp hi hb hparse hfind hslot hen htype hport hopen hroom hnpts hlen hpt hrule hcount hnear
    have hm : m < 8 := List.mem_range.mp (List.mem_of_find?_eq_some hfind)
    have hn : n < 16 := hslot ▸ fld_four_lt _ 24
    refine ⟨_, exec_ethFrameRx hu hp hi hb, ?_⟩
    simp only [hparse, hfind, ← hslot, hen, htype, hport, beq_self_eq_true, Bool.and_self, if_true]
    have hreg : ∀ a, a ≠ R.ingEthTPkts e.val m → rd (bumpWrap s (R.ingEthTPkts e.val m)) a = rd s a := fun _ h => rd_bumpWrap_other s h
    obtain ⟨field, hframe, hregs⟩ := takePacket_adds_point (s := bumpWrap s (R.ingEthTPkts e.val m)) (pl := d.payload) (pt := pt) hn he hm hopen
      (by rw [rf, hreg _ (by simp only [R.ingEthTNpts, R.ingEthTPkts]; omega)]; exact hnpts)
      (by rw [rf, rf, hreg _ (by simp only [R.ingEthTLayout, R.ingEthTPkts]; omega)]; exact hlen)
      (by rw [rf, hreg _ (by simp only [R.ingEthTSweep, R.ingEthTPkts]; omega)]; exact hrule)
      (by rw [packetPoint_of_regs d.payload fun a _ h => hreg a (by simp only [R.ingEthTPkts]; omega)]; exact hpt)
      (by rw [hreg _ (by simp only [R.ingFsSize, R.ingEthTPkts]; omega)]; exact hroom)
      (by rw [rf, hreg _ (by simp only [R.ingEthTSweep, R.ingEthTPkts]; omega)]; exact hcount)
      (by rw [packetSensor_bumpWrap, rxStamp_bumpWrap, packetTime_bumpWrap]; exact hnear)
    refine ⟨?_, ?_, _, hframe, rfl, rfl, rxStamp_bumpWrap⟩
    · rw [hregs _ (by simp only [R.ingEthTPkts]; omega) (by simp only [slotReg, R.ingEthTPkts]; omega), rd_bumpWrap_same]
    · rw [hregs _ (by simp only [R.ingEthDiscard]; omega) (by simp only [slotReg, R.ingEthDiscard]; omega),
        hreg _ (by simp only [R.ingEthDiscard, R.ingEthTPkts]; omega)]

end
end Sys2Proof.Machine
end

section
/-! SUPPORT. Inertial transactions and the loss of a stream (R113, R114, R122); settles O23. -/

namespace Sys2Proof.Machine
section
variable {s t u : State} {i : Nat}

/-! ### What the filter chain leaves (R136, R140) -/

/-- `t` is `s` but for the filter chain: ingress and every register below the chain's page stand. -/
structure FilterOnly (s t : State) : Prop where
  ing : t.ing = s.ing
  regs : ∀ a, a < 0x70000 → rd t a = rd s a

namespace FilterOnly

theorem refl : FilterOnly s s := ⟨rfl, fun _ _ => rfl⟩

theorem trans (h : FilterOnly s t) (k : FilterOnly t u) : FilterOnly s u :=
  ⟨k.ing.trans h.ing, fun a ha => (k.regs a ha).trans (h.regs a ha)⟩

theorem wr (h : FilterOnly s t) {a : Nat} (ha : 0x70000 ≤ a) (v : Word) : FilterOnly s (wr t a v) :=
  h.trans ⟨rfl, fun _ hb => rd_wr_other _ _ (by omega)⟩

theorem setIfcSlot (h : FilterOnly s t) (x : IfcSlot) : FilterOnly s (setIfcSlot t i x) := h.trans ⟨rfl, fun _ _ => rfl⟩

theorem detSet (h : FilterOnly s t) (k : Nat) (d : Detector) : FilterOnly s (detSet t k d) := h.trans ⟨rfl, fun _ _ => rfl⟩

theorem drawn (h : FilterOnly s t) (f : Nat) : FilterOnly s { t with fresh := f } := h.trans ⟨rfl, fun _ _ => rfl⟩

theorem ite {p : Prop} [Decidable p] (h : FilterOnly s t) (k : FilterOnly s u) : FilterOnly s (if p then t else u) := by
  split
  · exact h
  · exact k

theorem foldl {α : Type} {f : State → α → State} (h : FilterOnly s t) (hf : ∀ t x, FilterOnly s t → FilterOnly s (f t x)) (xs : List α) :
    FilterOnly s (xs.foldl f t) := by
  induction xs generalizing t with
  | nil => exact h
  | cons x xs ih => exact ih (hf t x h)

theorem detBlockEnd (h : FilterOnly s t) (k : Nat) (d : Detector) (nn : Nat) : FilterOnly s (detBlockEnd t k d nn) := by
  unfold Machine.detBlockEnd
  have hdone := fun d v => (h.detSet k d).wr (a := R.ifcDetEvent) (by decide) v
  exact ite ((hdone _ _).wr (by decide) _) (hdone _ _)

theorem detSample (h : FilterOnly s t) (k : Nat) (x : Int) (at_ : DWord) (filled : Bool) : FilterOnly s (detSample t k x at_ filled) := by
  unfold Machine.detSample
  exact ite h (ite (h.detBlockEnd _ _ _) (h.detSet _ _))

theorem chanSample (h : FilterOnly s t) (n c : Nat) (xs : Option (List (Option Int))) (at_ : DWord) :
    FilterOnly s (chanSample i n xs at_ t c) := by
  have hsat : ∀ t m, FilterOnly s t → FilterOnly s (ifcSatEvent t i m) := fun t m ht => by
    unfold ifcSatEvent
    exact ite ht ((ht.wr (by simp only [R.ifcIsSatCnt]; omega) _).wr (by simp only [R.ifcIsEvent]; omega) _)
  have hswitch : ∀ c : Bool, ∀ k, FilterOnly s (if c then setBits (detAbandon t k) (R.ifcIsEvent i) 8 else t) := fun c k =>
    ite ((h.detSet _ _).wr (by simp only [R.ifcIsEvent]; omega) _) h
  unfold Machine.chanSample
  have hstages := fun b k m x => (hsat _ m (hswitch b k)).setIfcSlot (i := i) x
  exact ite h (ite (hstages _ _ _ _) ((hstages _ _ _ _).detSample _ _ _ _))

theorem formOutput (h : FilterOnly s t) (at_ : DWord) (gap : Bool) : FilterOnly s (formOutput t i at_ gap) := by
  unfold Machine.formOutput
  exact (h.setIfcSlot _).foldl (fun t c ht => ite (ht.detSample _ _ _ _) ht) _

theorem ifcSample (h : FilterOnly s t) (xs : Option (List (Option Int))) (at_ : DWord) : FilterOnly s (ifcSample t i xs at_) := by
  have hgap : ∀ c : Bool, FilterOnly s (if c then setBits (bump t (R.ifcIsGapCnt i)) (R.ifcIsEvent i) 2 else t) := fun c =>
    ite ((h.wr (by simp only [R.ifcIsGapCnt]; omega) _).wr (by simp only [R.ifcIsEvent]; omega) _) h
  unfold Machine.ifcSample
  split
  case isTrue => exact h
  case isFalse =>
    dsimp only
    specialize hgap xs.isNone
    generalize (if xs.isNone then setBits (bump t (R.ifcIsGapCnt i)) (R.ifcIsEvent i) 2 else t) = t0 at hgap ⊢
    have hchans := hgap.foldl (fun _ c ht => ht.chanSample (i := i) (ifcSlot t0 i).n c xs at_) (List.range 8)
    exact ite ((hchans.drawn _).setIfcSlot _ |>.formOutput _ _) ((hchans.drawn _).setIfcSlot _)

theorem ifcRestart (h : FilterOnly s t) : FilterOnly s (ifcRestart t i) :=
  ((h.setIfcSlot _).foldl (fun _ _ ht => ht.detSet _ _) _).wr (by simp only [R.ifcIsEvent]; omega) _

end FilterOnly

/-! ### The data-ready edge (R113, R114, R122) -/

theorem bit_and_not_bitW (w : Word) {b : Nat} (h : b < 32) : bit (w &&& ~~~bitW b) b = false := by
  have hb : (bitW b).getLsbD b = true := by
    rw [bitW, BitVec.getLsbD_ofNat, Nat.testBit_two_pow_self]
    simpa using h
  rw [bit, BitVec.getLsbD_and, BitVec.getLsbD_not, hb, Bool.not_true, Bool.and_false, Bool.and_false]

theorem bitW_one : (2 : Word) = bitW 1 := rfl

theorem bitW_two : (4 : Word) = bitW 2 := rfl

/-- The slot with a lost stream taken back: LOST off, its event posted. -/
def streamBack (s : State) (i : Nat) : State :=
  when (rb s (R.ingIsStatus i) 1) (fun s => setBits (clrBits s (R.ingIsStatus i) 2) (R.ingIsEvent i) 2) s

/-- A stream's return writes the status and the event register of its slot. -/
theorem streamBack_frame : ∃ r, streamBack s i = { s with regs := r } := by
  unfold streamBack when
  split
  · exact ⟨_, rfl⟩
  · exact ⟨_, rfl⟩

theorem imuSlot_streamBack (k : Nat) : imuSlot (streamBack s i) k = imuSlot s k := by
  obtain ⟨r, h⟩ := streamBack_frame (s := s) (i := i)
  rw [h]
  rfl

theorem rd_streamBack_other {a : Nat} (hs : a ≠ R.ingIsStatus i) (he : a ≠ R.ingIsEvent i) : rd (streamBack s i) a = rd s a := by
  unfold streamBack when
  split
  · rw [rd_setBits_other _ _ he, rd_clrBits_other _ _ hs]
  · rfl

theorem rb_streamBack_lost : rb (streamBack s i) (R.ingIsStatus i) 1 = false := by
  unfold streamBack when
  split
  case isTrue =>
    rw [rb, rd_setBits_other _ _ (by simp only [R.ingIsStatus, R.ingIsEvent]; omega), rd_clrBits_same, bitW_one]
    exact bit_and_not_bitW _ (by decide)
  case isFalse h => exact Bool.not_eq_true _ ▸ h

/-- The slot once an edge has started a transaction. -/
def started (x : ImuSlot) (now : DWord) (cmd : List Byte) : ImuSlot := { x with stamp := now, lossFrom := now, running := some now, sent := cmd }

/-- The slot once an edge has come during a transaction. -/
def overrun (x : ImuSlot) (now : DWord) : ImuSlot := { x with stamp := now, lossFrom := now, gaps := x.gaps ++ [now] }

/-- What an edge of the configured polarity does: it starts a transaction, or it is an overrun. -/
def edgeTaken (s : State) (i : Nat) : State :=
  if (imuSlot s i).running.isSome then
    setBits (bump (setImuSlot (streamBack s i) i (overrun (imuSlot s i) s.dt.now)) (R.ingIsOvr i)) (R.ingIsEvent i) 4
  else setImuSlot (streamBack s i) i (started (imuSlot s i) s.dt.now (imuCmd s i))

theorem exec_imuDataReady {i : Fin 4} {h : Bool} (hu : s.up = true) (hing : rb s R.ingCtrl 0 = true) (hen : rb s (R.ingIsCfg i.val) 31 = true)
    (hh : h ≠ rb s (R.ingIsCfg i.val) 28) : exec (.imuDataReady i h) s = .next (edgeTaken s i.val) := by
  have hrun : exec (.imuDataReady i h) s = .next _ := (fabric_up s hu : execImuDataReady i h s = _)
  have hpol : (h == bit (rd s (R.ingIsCfg i.val)) 28) = false := beq_eq_false_iff_ne.mpr hh
  have hon : (ingOn s && bit (rd s (R.ingIsCfg i.val)) 31) = true := Bool.and_eq_true_iff.mpr ⟨hing, hen⟩
  rw [hrun]
  refine congrArg Host.Outcome.next ((if_neg (by simp only [hpol, hon]; decide)).trans ?_)
  rw [edgeTaken, ← imuSlot_streamBack (s := s) (i := i.val) i.val]
  rfl

theorem exec_imuDataReady_polarity {i : Fin 4} (hu : s.up = true) : exec (.imuDataReady i (rb s (R.ingIsCfg i.val) 28)) s = .next s := by
  have hrun : exec (.imuDataReady i (rb s (R.ingIsCfg i.val) 28)) s = .next _ := (fabric_up s hu : execImuDataReady i _ s = _)
  rw [hrun, if_pos]
  exact Bool.or_eq_true_iff.mpr (.inr (beq_self_eq_true _))

theorem rd_setImuSlot_status (x : ImuSlot) : rd (setImuSlot s i x) (R.ingIsStatus i) = setFld (rd s (R.ingIsStatus i)) 0 0 x.running.isSome.toNat :=
  rd_wf_same ..

theorem setImuSlot_sameBytes (hi : i < 4) (x : ImuSlot) : SameBytes s (setImuSlot s i x) :=
  sameBytes_of_redirect (fun _ _ => rd_setImuSlot_other i x (by simp only [R.memRedir, R.ingIsStatus]; omega)) rfl rfl rfl

theorem streamBack_sameBytes (hi : i < 4) : SameBytes s (streamBack s i) := by
  have hregs : ∀ k, k < 68 → rd (streamBack s i) (R.memRedir k) = rd s (R.memRedir k) := fun k hk =>
    rd_streamBack_other (by simp only [R.memRedir, R.ingIsStatus]; omega) (by simp only [R.memRedir, R.ingIsEvent]; omega)
  obtain ⟨r, h⟩ := streamBack_frame (s := s) (i := i)
  rw [h] at hregs ⊢
  exact sameBytes_of_redirect hregs rfl rfl rfl

theorem imuSlot_setBits (a k : Nat) (m : Word) : imuSlot (setBits s a m) k = imuSlot s k := rfl

theorem imuSlot_bump (a k : Nat) : imuSlot (bump s a) k = imuSlot s k := rfl

theorem imuSlot_bumpWrap (a k : Nat) : imuSlot (bumpWrap s a) k = imuSlot s k := rfl

theorem edge_starts_transaction (hi : i < 4) (hx : (imuSlot s i).running = none) :
    (imuSlot (edgeTaken s i) i).running = some s.dt.now ∧ (imuSlot (edgeTaken s i) i).sent = imuCmd s i ∧
      (imuSlot (edgeTaken s i) i).stamp = s.dt.now ∧ rb (edgeTaken s i) (R.ingIsStatus i) 1 = false ∧
      rb (edgeTaken s i) (R.ingIsStatus i) 0 = true ∧ SameBytes s (edgeTaken s i) := by
  have hedge : edgeTaken s i = setImuSlot (streamBack s i) i (started (imuSlot s i) s.dt.now (imuCmd s i)) := if_neg (by rw [hx]; decide)
  rw [hedge, imuSlot_setImuSlot_same]
  refine ⟨rfl, rfl, rfl, ?_, ?_, fun a => (setImuSlot_sameBytes hi _ a).trans (streamBack_sameBytes hi a)⟩
  · rw [rb, rd_setImuSlot_status, bit_setFld_other _ (by decide) (by decide)]
    exact rb_streamBack_lost
  · rw [rb, rd_setImuSlot_status, bit_setFld_same _ (by decide)]
    rfl

theorem edge_overruns {w : DWord} (hx : (imuSlot s i).running = some w) :
    (imuSlot (edgeTaken s i) i).running = some w ∧ (imuSlot (edgeTaken s i) i).gaps = (imuSlot s i).gaps ++ [s.dt.now] ∧
      rd (edgeTaken s i) (R.ingIsOvr i) = incSat (rd s (R.ingIsOvr i)) ∧ bit (rd (edgeTaken s i) (R.ingIsEvent i)) 2 = true := by
  have hedge : edgeTaken s i = setBits (bump (setImuSlot (streamBack s i) i (overrun (imuSlot s i) s.dt.now)) (R.ingIsOvr i))
      (R.ingIsEvent i) 4 := if_pos (by rw [hx]; rfl)
  have hslot : imuSlot (edgeTaken s i) i = overrun (imuSlot s i) s.dt.now := by
    rw [hedge, imuSlot_setBits, imuSlot_bump, imuSlot_setImuSlot_same]
  refine ⟨by rw [hslot]; exact hx, by rw [hslot]; rfl, ?_, ?_⟩
  · rw [hedge, rd_setBits_other _ _ (by simp only [R.ingIsOvr, R.ingIsEvent]; omega), rd_bump_same,
      rd_setImuSlot_other _ _ (by simp only [R.ingIsOvr, R.ingIsStatus]; omega),
      rd_streamBack_other (by simp only [R.ingIsOvr, R.ingIsStatus]; omega) (by simp only [R.ingIsOvr, R.ingIsEvent]; omega)]
  · rw [hedge, rd_setBits_same, bitW_two]
    exact bit_or_bitW _ (by decide)

/-! ### The end of a transaction (R113) -/

/-- The slot at the end of its transaction, before the sample passes on. -/
def sampleCounted (s : State) (i k : Nat) : State :=
  bumpWrap (setImuSlot { s with fresh := k } i { imuSlot s i with running := none, gaps := [] }) (R.ingIsSamples i)

theorem exec_imuTransactionEnd {i : Fin 4} {d : List Byte} {w : DWord} (hu : s.up = true) (hx : (imuSlot s i.val).running = some w) :
    ∃ k t, exec (.imuTransactionEnd i d) s = .next t ∧ FilterOnly (sampleCounted s i.val k) t := by
  have hrun : exec (.imuTransactionEnd i d) s = .next _ := (fabric_up s hu : execImuTransactionEnd i d s = _)
  simp only [hx] at hrun
  exact ⟨_, _, hrun, (FilterOnly.refl.ifcSample _ _).foldl (fun _ _ h => h.ifcSample _ _) _⟩

theorem transaction_end_counts {k : Nat} (h : FilterOnly (sampleCounted s i k) t) (hi : i < 4) :
    (imuSlot t i).running = none ∧ (imuSlot t i).gaps = [] ∧ rd t (R.ingIsSamples i) = rd s (R.ingIsSamples i) + 1 ∧
      (imuSlot t i).stamp = (imuSlot s i).stamp := by
  have hslot : imuSlot t i = { imuSlot s i with running := none, gaps := [] } := by
    rw [imuSlot, h.ing, ← imuSlot, sampleCounted, imuSlot_bumpWrap, imuSlot_setImuSlot_same]
  refine ⟨by rw [hslot], by rw [hslot], ?_, by rw [hslot]⟩
  rw [h.regs _ (by simp only [R.ingIsSamples]; omega), sampleCounted, rd_bumpWrap_same,
    rd_setImuSlot_other _ _ (by simp only [R.ingIsSamples, R.ingIsStatus]; omega)]
  rfl

/-! ### The loss of a stream (R122) -/

theorem exec_streamLost_inertial {i : Fin 4} (hu : s.up = true) : exec (.streamLost (.inertial i)) s = .next
    (if rb s (R.ingIsCfg i.val) 31 && !rb s (R.ingIsStatus i.val) 1 && decide ((imuSlot s i.val).lossFrom.toNat +
        rf s (R.ingIsLoss i.val) 7 0 * (rd s (R.ingIsPeriod i.val)).toNat < s.dt.prev.toNat) then
      when (rb s (R.ifcIsCfg i.val) 31) (fun s => ifcRestart s i.val)
        (when (rf s R.tfuEgoCfg 29 28 == i.val) (fun s => { s with tfu := { s.tfu with alt := true } })
          (setBits (setBits s (R.ingIsStatus i.val) 2) (R.ingIsEvent i.val) 1))
    else s) := (fabric_up s hu : execStreamLost (.inertial i) s = _)

theorem exec_streamLost_frame {n : Fin 16} (hu : s.up = true) : exec (.streamLost (.frame n)) s = .next
    (if fsEn s n.val && !rb s (R.ingFsStatus n.val) 3 && decide ((fsSlot s n.val).lossFrom.toNat +
        rf s (R.ingFsMap n.val) 15 8 * fsPeriod s n.val < s.dt.prev.toNat) then
      fsEvent (setBits s (R.ingFsStatus n.val) 8) n.val 0
    else s) := (fabric_up s hu : execStreamLost (.frame n) s = _)

/-- What follows the loss of an inertial stream, in the filter chain and in the track filter unit, leaves its status and its event. -/
theorem loss_followed (c b : Bool) :
    FilterOnly s (when c (fun s => ifcRestart s i) (when b (fun s => { s with tfu := { s.tfu with alt := true } }) s)) := by
  have halt : FilterOnly s (when b (fun s => { s with tfu := { s.tfu with alt := true } }) s) := FilterOnly.ite ⟨rfl, fun _ _ => rfl⟩ .refl
  exact FilterOnly.ite halt.ifcRestart halt

theorem inertial_samples_and_stream_loss : ruleInertialSamplesAndStreamLoss := by
  intro s i hu x on limit
  have hi : i.val < 4 := i.isLt
  refine ⟨fun h hon hh hx => ⟨_, exec_imuDataReady hu hon.1 hon.2 hh, edge_starts_transaction hi hx⟩,
    fun h w hon hh hx => ⟨_, exec_imuDataReady hu hon.1 hon.2 hh, edge_overruns hx⟩,
    fun h hh => ⟨_, hh ▸ exec_imuDataReady_polarity hu, rfl⟩, fun w d hx => ?_, fun hen hst hlim => ?_, fun hlim => ?_,
    fun n hen hst hlim => ?_⟩
  · obtain ⟨k, t, hrun, h⟩ := exec_imuTransactionEnd (d := d) hu hx
    exact ⟨t, hrun, transaction_end_counts h hi⟩
  · refine ⟨_, exec_streamLost_inertial hu, ?_⟩
    rw [hen, hst, decide_eq_true hlim, if_pos (by decide)]
    have h := loss_followed (s := setBits (setBits s (R.ingIsStatus i.val) 2) (R.ingIsEvent i.val) 1) (i := i.val)
      (rb s (R.ifcIsCfg i.val) 31) (rf s R.tfuEgoCfg 29 28 == i.val)
    constructor
    · rw [rb, h.regs _ (by simp only [R.ingIsStatus]; omega),
        rd_setBits_other _ _ (by simp only [R.ingIsStatus, R.ingIsEvent]; omega), rd_setBits_same, bitW_one]
      exact bit_or_bitW _ (by decide)
    · rw [h.regs _ (by simp only [R.ingIsEvent]; omega), rd_setBits_same]
      exact bit_or_bitW (b := 0) _ (by decide)
  · refine ⟨_, exec_streamLost_inertial hu, ?_⟩
    rw [decide_eq_false (not_lt.mpr hlim), Bool.and_false]
    rfl
  · refine ⟨_, exec_streamLost_frame hu, ?_⟩
    rw [hen, hst, decide_eq_true hlim, if_pos (by decide)]
    refine ⟨?_, ?_, fun a ha => ?_, rfl⟩
    · rw [rb, fsEvent, rd_setBits_other _ _ (by simp only [R.ingFsStatus, R.ingFsEvent]; omega), rd_setBits_same]
      exact bit_or_bitW (b := 3) _ (by decide)
    · rw [fsEvent, rd_setBits_same]
      exact bit_or_bitW _ (by decide)
    · obtain ⟨hs, he⟩ : a ≠ R.ingFsStatus n.val ∧ a ≠ R.ingFsEvent n.val := by simpa using ha
      rw [fsEvent, rd_setBits_other _ _ he, rd_setBits_other _ _ hs]

/-- Settles O23: a packet of one point is followed through its template to the frame it joins (`lidar_packets`); an inertial edge and
the end of its transaction touch the slot and, beyond it, only the filter chain (`FilterOnly`). -/
theorem lidarAndInertialSamplesArrive : Obligations.LidarAndInertialSamplesArrive := ⟨lidar_packets, inertial_samples_and_stream_loss⟩

end
end Sys2Proof.Machine
end

section
/-! SUPPORT. One input of the filter chain: what its channels and detectors leave of the slot it enters, and the output that it ends
(R136, R137, R139); a part of O25. -/

namespace Sys2Proof.Machine
section
variable {s t u : State} {i : Nat}

/-! ### What channels and detectors leave (R136, R144) -/

/-- The registers in which an input of slot `i` leaves counts and events. -/
def inputRegs (i : Nat) : List Nat := [R.ifcIsEvent i, R.ifcIsSatCnt i, R.ifcDetEvent, R.ifcDetAlarm]

/-- `t` is `s` after work of channels and detectors on an input of slot `i`: the slot's numbering and its due records stand, and
every register but those of counts and events. -/
structure ChannelWork (i : Nat) (s t : State) : Prop where
  n : (ifcSlot t i).n = (ifcSlot s i).n
  k : (ifcSlot t i).k = (ifcSlot s i).k
  seq : (ifcSlot t i).seq = (ifcSlot s i).seq
  due : (ifcSlot t i).due = (ifcSlot s i).due
  regs : SameRegsBut (inputRegs i) s t

@[simp] theorem ifcSlot_setIfcSlot_same (x : IfcSlot) : ifcSlot (setIfcSlot s i x) i = x := tabGet_set_same ..

namespace ChannelWork

theorem refl : ChannelWork i s s := ⟨rfl, rfl, rfl, rfl, fun _ _ => rfl⟩

theorem trans (h : ChannelWork i s t) (h' : ChannelWork i t u) : ChannelWork i s u :=
  ⟨h'.n.trans h.n, h'.k.trans h.k, h'.seq.trans h.seq, h'.due.trans h.due, fun a ha => (h'.regs a ha).trans (h.regs a ha)⟩

theorem wr (h : ChannelWork i s t) {a : Nat} (ha : a ∈ inputRegs i) (v : Word) : ChannelWork i s (wr t a v) :=
  h.trans ⟨rfl, rfl, rfl, rfl, fun _ hb => rd_wr_other _ _ fun hab => hb (hab ▸ ha)⟩

theorem detSet (h : ChannelWork i s t) (j : Nat) (d : Detector) : ChannelWork i s (detSet t j d) :=
  h.trans ⟨rfl, rfl, rfl, rfl, fun _ _ => rfl⟩

theorem setChannels (h : ChannelWork i s t) (ch : Tab IfcChan) : ChannelWork i s (setIfcSlot t i { ifcSlot t i with ch := ch }) := by
  refine h.trans ⟨?_, ?_, ?_, ?_, fun _ _ => rfl⟩ <;> rw [ifcSlot_setIfcSlot_same]

theorem ite {p : Prop} [Decidable p] (h : ChannelWork i s t) (h' : ChannelWork i s u) : ChannelWork i s (if p then t else u) := by
  split
  · exact h
  · exact h'

theorem foldl {α : Type} {f : State → α → State} (h : ChannelWork i s t) (hf : ∀ t x, ChannelWork i s t → ChannelWork i s (f t x))
    (xs : List α) : ChannelWork i s (xs.foldl f t) := by
  induction xs generalizing t with
  | nil => exact h
  | cons x xs ih => exact ih (hf t x h)

theorem detBlockEnd (h : ChannelWork i s t) (j : Nat) (d : Detector) (nn : Nat) : ChannelWork i s (detBlockEnd t j d nn) := by
  unfold Machine.detBlockEnd
  have hdone := fun d v => (h.detSet j d).wr (a := R.ifcDetEvent) (by simp [inputRegs]) v
  exact ite ((hdone _ _).wr (by simp [inputRegs]) _) (hdone _ _)

theorem detSample (h : ChannelWork i s t) (j : Nat) (x : Int) (w : DWord) (filled : Bool) :
    ChannelWork i s (detSample t j x w filled) := by
  unfold Machine.detSample
  exact ite h (ite (h.detBlockEnd _ _ _) (h.detSet _ _))

theorem ifcSatEvent (h : ChannelWork i s t) (m : Nat) : ChannelWork i s (ifcSatEvent t i m) := by
  unfold Machine.ifcSatEvent
  exact ite h ((h.wr (by simp [inputRegs]) _).wr (by simp [inputRegs]) _)

theorem chanSample (h : ChannelWork i s t) (n c : Nat) (xs : Option (List (Option Int))) (w : DWord) :
    ChannelWork i s (chanSample i n xs w t c) := by
  have hswitch : ∀ b : Bool, ∀ j, ChannelWork i s (if b then setBits (detAbandon t j) (R.ifcIsEvent i) 8 else t) := fun b j =>
    ite ((h.detSet _ _).wr (by simp [inputRegs]) _) h
  have hstages := fun b j m ch => ((hswitch b j).ifcSatEvent m).setChannels ch
  unfold Machine.chanSample
  exact ite h (ite (hstages _ _ _ _) ((hstages _ _ _ _).detSample _ _ _ _))

end ChannelWork

/-! ### The output of an input (R136, R137) -/

/-- `o` is an output that slot `i` gives for an input stamped `w` (R137). -/
structure OutputOf (s : State) (i : Nat) (w : DWord) (o : IfcDue) : Prop where
  time : o.time = (w.toNat : Int) - (rd s (R.ifcIsGdelay i)).toNat
  samples : o.samples.length = 8
  mask : o.mask = ifcMask s i
  seq : o.seq = (ifcSlot s i).seq

/-- An output is formed: it is due behind the others and takes the slot's next number; its samples go to detectors. -/
theorem formOutput_adds_due (w : DWord) (gap : Bool) : ∃ o x, ChannelWork i (setIfcSlot s i x) (formOutput s i w gap) ∧ OutputOf s i w o ∧
    x.due = (ifcSlot s i).due ++ [o] ∧ x.seq = (ifcSlot s i).seq + 1 ∧ x.k = (ifcSlot s i).k + 1 ∧ x.n = (ifcSlot s i).n := by
  unfold formOutput
  refine ⟨_, _, ChannelWork.refl.foldl (fun t c ht => ?_) _, ?_, rfl, rfl, rfl, rfl⟩
  · exact .ite (ht.detSample _ _ _ _) ht
  · exact ⟨rfl, by simp, rfl, rfl⟩

/-! ### An input (R136) -/

/-- What an input stamped `w` leaves in slot `i`: its count and, where it ends a period of R inputs and only there, one output due. -/
structure InputTaken (s : State) (i : Nat) (w : DWord) (u : State) : Prop where
  count : (ifcSlot u i).n = (ifcSlot s i).n + 1
  output : ((ifcSlot s i).n + 1) % ifcR s i = 0 → ∃ o, (ifcSlot u i).due = (ifcSlot s i).due ++ [o] ∧ OutputOf s i w o ∧
    (ifcSlot u i).seq = (ifcSlot s i).seq + 1 ∧ (ifcSlot u i).k = (ifcSlot s i).k + 1
  noOutput : ((ifcSlot s i).n + 1) % ifcR s i ≠ 0 → (ifcSlot u i).due = (ifcSlot s i).due ∧ (ifcSlot u i).k = (ifcSlot s i).k

/-- An output depends on the slot's numbering and on the chain's configuration. -/
theorem OutputOf.congr {w : DWord} {o : IfcDue} (h : OutputOf t i w o) (hseq : (ifcSlot t i).seq = (ifcSlot s i).seq)
    (hdelay : rd t (R.ifcIsGdelay i) = rd s (R.ifcIsGdelay i)) (hch : ∀ c, c < 8 → rd t (R.ifcIsChCfg i c) = rd s (R.ifcIsChCfg i c)) :
    OutputOf s i w o := by
  have hmask : ifcMask t i = ifcMask s i := by
    unfold ifcMask
    refine congrArg List.sum (List.map_congr_left fun c hc => ?_)
    rw [ifcChEn, rb, hch c (List.mem_range.mp hc), ← rb, ← ifcChEn]
  exact ⟨hdelay ▸ h.time, h.samples, h.mask.trans hmask, h.seq.trans hseq⟩

theorem ifcR_congr (h : rd t (R.ifcIsCfg i) = rd s (R.ifcIsCfg i)) : ifcR t i = ifcR s i := by
  have hbit : ∀ b, rb t (R.ifcIsCfg i) b = rb s (R.ifcIsCfg i) b := fun b => by rw [rb, h, ← rb]
  have hfld : ∀ b c, rf t (R.ifcIsCfg i) b c = rf s (R.ifcIsCfg i) b c := fun b c => by rw [rf, h, ← rf]
  have hscs : ifcScs t i = ifcScs s i := hbit 30
  unfold ifcR ifcD ifcFdec ifcH
  rw [hscs, hfld, hfld, hfld, hfld]

/-- An input that has been counted ends an output where it ends a period. -/
theorem inputTaken_of_counted {w : DWord} {gap : Bool} (hn : (ifcSlot t i).n = (ifcSlot s i).n + 1)
    (hk : (ifcSlot t i).k = (ifcSlot s i).k) (hseq : (ifcSlot t i).seq = (ifcSlot s i).seq) (hdue : (ifcSlot t i).due = (ifcSlot s i).due)
    (hregs : SameRegsBut (inputRegs i) s t) :
    InputTaken s i w (if ((ifcSlot s i).n + 1) % ifcR s i = 0 then formOutput t i w gap else t) := by
  have hdelay := hregs (R.ifcIsGdelay i) (by simp [inputRegs, R.ifcIsGdelay, R.ifcIsEvent, R.ifcIsSatCnt, R.ifcDetEvent, R.ifcDetAlarm]; omega)
  have hch : ∀ c, c < 8 → rd t (R.ifcIsChCfg i c) = rd s (R.ifcIsChCfg i c) := fun c hc =>
    hregs _ (by simp [inputRegs, R.ifcIsChCfg, R.ifcIsEvent, R.ifcIsSatCnt, R.ifcDetEvent, R.ifcDetAlarm]; omega)
  split
  case isTrue hr =>
    obtain ⟨o, x, hwork, ho, hxdue, hxseq, hxk, hxn⟩ := formOutput_adds_due (s := t) (i := i) w gap
    refine ⟨?_, fun _ => ⟨o, ?_, ho.congr hseq hdelay hch, ?_, ?_⟩, fun h => absurd hr h⟩
    · rw [hwork.n, ifcSlot_setIfcSlot_same, hxn, hn]
    · rw [hwork.due, ifcSlot_setIfcSlot_same, hxdue, hdue]
    · rw [hwork.seq, ifcSlot_setIfcSlot_same, hxseq, hseq]
    · rw [hwork.k, ifcSlot_setIfcSlot_same, hxk, hk]
  case isFalse hr => exact ⟨hn, fun h => absurd h hr, fun _ => ⟨hdue, hk⟩⟩

/-- A slot that takes samples takes one: its channels work on it, and it is counted. -/
theorem ifcSample_taken (h : ifcTakes s i = true) (l : List (Option Int)) (w : DWord) :
    InputTaken s i w (ifcSample s i (some l) w) := by
  have hwork : ChannelWork i s ((List.range 8).foldl (chanSample i (ifcSlot s i).n (some l) w) s) :=
    ChannelWork.refl.foldl (fun _ c ht => ht.chanSample _ c _ w) _
  unfold ifcSample
  rw [if_neg (by simp [h])]
  refine inputTaken_of_counted ?_ ?_ ?_ ?_ hwork.regs <;> rw [ifcSlot_setIfcSlot_same]
  · rfl
  · exact hwork.k
  · exact hwork.seq
  · exact hwork.due

/-! ### The end of a transaction (R113, R136) -/

theorem exec_imuTransactionEnd_alone {i : Fin 4} {d : List Byte} {w : DWord} (hu : s.up = true) (hx : (imuSlot s i.val).running = some w)
    (hgaps : (imuSlot s i.val).gaps = []) :
    ∃ k l, exec (.imuTransactionEnd i d) s = .next (ifcSample (sampleCounted s i.val k) i.val (some l) w) := by
  have hrun : exec (.imuTransactionEnd i d) s = .next _ := (fabric_up s hu : execImuTransactionEnd i d s = _)
  simp only [hx, hgaps] at hrun
  exact ⟨_, _, hrun⟩

theorem rd_sampleCounted_high {k a : Nat} (hi : i < 4) (ha : 0x64000 ≤ a) : rd (sampleCounted s i k) a = rd s a := by
  rw [sampleCounted, rd_bumpWrap_other _ (by simp only [R.ingIsSamples]; omega),
    rd_setImuSlot_other _ _ (by simp only [R.ingIsStatus]; omega)]
  rfl

/-- The end of a transaction turns no stream LOST and switches nothing off. -/
theorem ifcTakes_sampleCounted {k : Nat} (hi : i < 4) : ifcTakes (sampleCounted s i k) i = ifcTakes s i := by
  have hlost : rb (sampleCounted s i k) (R.ingIsStatus i) 1 = rb s (R.ingIsStatus i) 1 := by
    rw [rb, sampleCounted, rd_bumpWrap_other _ (by simp only [R.ingIsStatus, R.ingIsSamples]; omega), rd_setImuSlot_status,
      bit_setFld_other _ (by decide) (by decide)]
    rfl
  have hon : ∀ a b, 0x64000 ≤ a → rb (sampleCounted s i k) a b = rb s a b := fun a b ha => by rw [rb, rd_sampleCounted_high hi ha, ← rb]
  unfold ifcTakes blockOn
  rw [hlost, hon _ _ (by decide), hon _ _ (by simp only [R.ifcIsCfg]; omega), hon _ _ (by decide)]
  rfl

theorem InputTaken.of_sampleCounted {k : Nat} {w : DWord} (hi : i < 4) (h : InputTaken (sampleCounted s i k) i w u) : InputTaken s i w u := by
  have hr : ifcR (sampleCounted s i k) i = ifcR s i := ifcR_congr (rd_sampleCounted_high hi (by simp only [R.ifcIsCfg]; omega))
  refine ⟨h.count, fun hend => ?_, fun hmid => h.noOutput (hr ▸ hmid)⟩
  obtain ⟨o, hdue, ho, hnext⟩ := h.output (hr ▸ hend)
  exact ⟨o, hdue, ho.congr rfl (rd_sampleCounted_high hi (by simp only [R.ifcIsGdelay]; omega)) fun c _ =>
    rd_sampleCounted_high hi (by simp only [R.ifcIsChCfg]; omega), hnext⟩

end
end Sys2Proof.Machine
end

section
/-! SUPPORT. The records of the filter chain: the bytes that a due record places in the ring, the signal behind them and the delivery
(R85, R137); a part of O25. -/

namespace Sys2Proof.Machine
section
variable {s t u : State} {i a n : Nat} {l m : List Byte}

/-! ### Bytes in a row -/

/-- The bytes from `a` are those of `l`. -/
def Holds (s : State) (a : Nat) (l : List Byte) : Prop := ldBytes s a l.length = l

theorem ldBytes_length (a n : Nat) : (ldBytes s a n).length = n := by
  induction n generalizing a with
  | zero => rfl
  | succ n ih => rw [ldBytes, List.length_cons, ih]

theorem ldBytes_add (a n k : Nat) : ldBytes s a (n + k) = ldBytes s a n ++ ldBytes s (a + n) k := by
  induction n generalizing a with
  | zero => rw [Nat.zero_add]; rfl
  | succ n ih => rw [Nat.add_right_comm, ldBytes, ih, ldBytes, Nat.add_assoc, Nat.add_comm 1 n, List.cons_append]

theorem holds_append : Holds s a (l ++ m) ↔ Holds s a l ∧ Holds s (a + l.length) m := by
  unfold Holds
  rw [List.length_append, ldBytes_add]
  exact ⟨fun h => List.append_inj h (ldBytes_length _ _), fun ⟨h, h'⟩ => by rw [h, h']⟩

theorem ldN_of_holds {v : Nat} (h : Holds s a (leBytes n v)) : ldN s a n = v % 256 ^ n := by
  rw [Holds, leBytes_length] at h
  rw [ldN, h, leVal_leBytes]

theorem ldN_of_holds_of_lt {v : Nat} (h : Holds s a (leBytes n v)) (hv : v < 256 ^ n) : ldN s a n = v := by
  rw [ldN_of_holds h, Nat.mod_eq_of_lt hv]

/-! ### The fields of a record (R137) -/

/-- CRC-32C has 32 bits: each step of it keeps them. -/
theorem crc32c_lt_two_pow (l : List Byte) : crc32c l < 2 ^ 32 := by
  have hbit : ∀ c, c < 2 ^ 32 → crcBit 0x82F63B78 c < 2 ^ 32 := fun c hc => by
    unfold crcBit
    split
    · exact Nat.xor_lt_two_pow (by omega) (by decide)
    · omega
  have hbyte : ∀ c, c < 2 ^ 32 → ∀ b : Byte, crcByte 0x82F63B78 c b < 2 ^ 32 := fun c hc b =>
    List.foldlRecOn (motive := (· < 2 ^ 32)) _ _ (Nat.xor_lt_two_pow hc (by omega)) fun c hc _ _ => hbit c hc
  exact Nat.xor_lt_two_pow (List.foldlRecOn (motive := (· < 2 ^ 32)) _ _ (by decide) fun c hc b _ => hbyte c hc b) (by decide)

/-- The samples of a record take 4 bytes each. -/
theorem length_samples (xs : List Int) : (xs.map (leBytesI 4)).flatten.length = 4 * xs.length := by
  have h : ∀ x, (leBytesI 4 x).length = 4 := fun x => leBytes_length ..
  simp [List.length_flatten, Function.comp_def, h, Nat.mul_comm]

/-- The fields at their places, once the record's bytes stand. -/
structure RecordStands (u : State) (i a : Nat) (o : IfcDue) : Prop where
  time : ldS u a 8 = sext 64 (leVal (leBytesI 8 o.time))
  seq : ldN u (a + 8) 4 = o.seq.toNat
  flags : ldN u (a + 12) 2 = o.flags % 65536
  slot : ldN u (a + 14) 1 = i
  mask : ldN u (a + 15) 1 = o.mask % 256
  crc : ldN u (a + 60) 4 = crc32c (ldBytes u a 60)

/-- The first 60 bytes of a record, which its CRC covers. -/
def recordBody (i : Nat) (o : IfcDue) : List Byte :=
  leBytesI 8 o.time ++ leBytes 4 o.seq.toNat ++ leBytes 2 o.flags ++ leBytes 1 i ++ leBytes 1 o.mask ++
    (o.samples.map (leBytesI 4)).flatten ++ leBytes 12 0

theorem ifcRecord_eq (o : IfcDue) : ifcRecord i o = recordBody i o ++ leBytes 4 (crc32c (recordBody i o)) := rfl

theorem length_recordBody {o : IfcDue} (h8 : o.samples.length = 8) : (recordBody i o).length = 60 := by
  simp only [recordBody, List.length_append, length_samples, h8, leBytesI, leBytes_length]

theorem length_ifcRecord {o : IfcDue} (h8 : o.samples.length = 8) : (ifcRecord i o).length = 64 := by
  rw [ifcRecord_eq, List.length_append, length_recordBody h8, leBytes_length]

theorem recordStands_of_holds {o : IfcDue} (hi : i < 4) (h8 : o.samples.length = 8) (h : Holds u a (ifcRecord i o)) :
    RecordStands u i a o := by
  rw [ifcRecord_eq, holds_append] at h
  obtain ⟨hbody, hcrc⟩ := h
  have hbytes : ldBytes u a 60 = recordBody i o := length_recordBody (i := i) h8 ▸ hbody
  rw [length_recordBody h8] at hcrc
  simp only [recordBody, holds_append, List.length_append, leBytesI, leBytes_length, and_assoc] at hbody
  obtain ⟨htime, hseq, hflags, hslot, hmask, -⟩ := hbody
  refine ⟨?_, ldN_of_holds_of_lt hseq o.seq.isLt, ldN_of_holds hflags, ldN_of_holds_of_lt hslot (by omega), ldN_of_holds hmask, ?_⟩
  · rw [Holds, leBytes_length] at htime
    rw [ldS, ldN, htime]
    rfl
  · rw [hbytes]
    exact ldN_of_holds_of_lt hcrc (crc32c_lt_two_pow _)

/-! ### A record goes out (R85, R137) -/

theorem ldByte_outside_sem (hr : ∀ k, k < 68 → rd t (R.memRedir k) = rd s (R.memRedir k)) (hm : t.mem = s.mem)
    (hh : t.heldWrites = s.heldWrites) {x : Nat} (hx : ¬ (semBase ≤ x ∧ x < semBase + 0x4000)) : ldByte t x = ldByte s x := by
  calc ldByte t x = ldByte { t with sem := s.sem } x := by
        rw [ldByte, ldByte, if_neg hx, if_neg hx]
        rfl
    _ = ldByte s x := sameBytes_of_redirect (t := { t with sem := s.sem }) hr hm hh rfl x

/-- A signal touches neither memory nor the filter chain. -/
theorem signal_stands (r f : Nat) (c : Word) : (signal s r f c).ifc = s.ifc ∧ (signal s r f c).mem = s.mem ∧
    (signal s r f c).heldWrites = s.heldWrites := by
  unfold signal
  split
  · exact ⟨rfl, rfl, rfl⟩
  · exact ⟨semAddOp_ifc .., semAddOp_mem .., semAddOp_heldWrites ..⟩

theorem rd_signal_high {a : Nat} (r f : Nat) (c : Word) (ha : 0x31000 ≤ a) : rd (signal s r f c) a = rd s a := by
  unfold signal
  split
  · rfl
  · exact rd_semAddOp_other s _ _ _ (by simp only [R.semOvfCnt]; omega) (by simp only [R.semStatus]; omega)
      (by simp only [R.semErrIdx]; omega)

/-- Where the record of output `o` goes: its place in the ring of slot `i`. -/
def recordAddr (s : State) (i : Nat) (o : IfcDue) : Nat :=
  (rd64 s (R.ifcIsOutLo i) (R.ifcIsOutHi i)).toNat + 64 * (o.seq.toNat % 2 ^ rf s (R.ifcIsOutcfg i) 3 0)

/-- The state once the record of `o` stands in the ring and `rest` is still due. -/
def recordPlaced (s : State) (i : Nat) (o : IfcDue) (rest : List IfcDue) : State :=
  wr (setIfcSlot (stBytes s (recordAddr s i o) (ifcRecord i o)) i { ifcSlot s i with due := rest }) (R.ifcIsSeq i) o.seq

/-- The record's samples handed to the track filter unit. -/
def sampleDelivered (s : State) (i : Nat) (o : IfcDue) : State :=
  { s with ifc := { s.ifc with delivered := s.ifc.delivered ++ [⟨i, o.time, o.flags, o.samples⟩] } }

theorem exec_ifcOutputRecord {i : Fin 4} {o : IfcDue} {rest : List IfcDue} (hu : s.up = true) (hdue : (ifcSlot s i.val).due = o :: rest) :
    exec (.ifcOutputRecord i) s = .next (sampleDelivered (signalAfter (recordPlaced s i.val o rest) [(recordAddr s i.val o, 64)] 13
      (rf s (R.ifcIsOutcfg i.val) 31 16) 1) i.val o) := by
  have hrun : exec (.ifcOutputRecord i) s = .next _ := (fabric_up s hu : execIfcOutputRecord i s = _)
  simp only [hdue] at hrun
  exact hrun

theorem exec_ifcOutputRecord_none {i : Fin 4} (hu : s.up = true) (hdue : (ifcSlot s i.val).due = []) :
    exec (.ifcOutputRecord i) s = .next s := by
  have hrun : exec (.ifcOutputRecord i) s = .next _ := (fabric_up s hu : execIfcOutputRecord i s = _)
  simp only [hdue] at hrun
  exact hrun

/-- The state after a due record's command. -/
def recordSent (s : State) (i : Nat) (o : IfcDue) (rest : List IfcDue) : State :=
  sampleDelivered (signal (recordPlaced s i o rest) 13 (rf s (R.ifcIsOutcfg i) 31 16) 1) i o

/-- Outside semaphore memory every byte reads as the store of the record leaves it. -/
theorem ldByte_recordSent {o : IfcDue} {rest : List IfcDue} {x : Nat} (hx : ¬ (semBase ≤ x ∧ x < semBase + 0x4000)) (hi : i < 4) :
    ldByte (recordSent s i o rest) x = ldByte (stBytes s (recordAddr s i o) (ifcRecord i o)) x := by
  obtain ⟨-, hmem, hheld⟩ := signal_stands (s := recordPlaced s i o rest) 13 (rf s (R.ifcIsOutcfg i) 31 16) 1
  have hredirect : ∀ k, k < 68 → rd (recordPlaced s i o rest) (R.memRedir k) = rd (stBytes s (recordAddr s i o) (ifcRecord i o)) (R.memRedir k) :=
    fun k _ => rd_wr_other _ _ (by simp only [R.memRedir, R.ifcIsSeq]; omega)
  exact ldByte_outside_sem (fun k hk => (rd_signal_high _ _ _ (by simp only [R.memRedir]; omega)).trans (hredirect k hk)) hmem hheld hx

section
variable {o : IfcDue} {rest : List IfcDue} (h8 : o.samples.length = 8) (hplain : plainRam s (recordAddr s i o) 64)
include h8 hplain

theorem heldWrites_recordPlaced : (recordPlaced s i o rest).heldWrites = s.heldWrites := by
  have hdirect := fun j (hj : j < (ifcRecord i o).length) => direct_of_plainRam hplain (length_ifcRecord (i := i) h8 ▸ hj)
  exact stBytes_heldWrites_eq.trans (stAll_of_direct hdirect).1

/-- No store to the ring is held by a fence: the signal comes at once. -/
theorem signalAfter_recordPlaced (hinv : Inv s) (r f : Nat) (c : Word) :
    signalAfter (recordPlaced s i o rest) [(recordAddr s i o, 64)] r f c = signal (recordPlaced s i o rest) r f c := by
  have hfree : ∀ e ∈ s.heldWrites, ¬ (recordAddr s i o ≤ e.addr ∧ e.addr < recordAddr s i o + 64) := fun e he h => by
    have htile := (direct_of_plainRam hplain (i := 0) (by decide)).tile
    have hlow := hinv.held e he
    omega
  refine signalAfter_free ?_
  rw [heldIn_congr (heldWrites_recordPlaced h8 hplain), heldIn, List.filter_eq_nil_iff.mpr]
  · rfl
  · simpa using hfree

/-- The record stands at its place, and no other byte has changed. -/
theorem record_stands (hinv : Inv s) (hi : i < 4) :
    RecordStands (recordSent s i o rest) i (recordAddr s i o) o ∧ OnlyBytes s (recordSent s i o rest) (recordAddr s i o) 64 := by
  have hlen : (ifcRecord i o).length = 64 := length_ifcRecord h8
  have hplain' : plainRam s (recordAddr s i o) (ifcRecord i o).length := hlen ▸ hplain
  obtain ⟨hin, -⟩ := ldByte_stBytes_plain hplain' hinv.held
  obtain ⟨-, hout⟩ := stBytes_plain .refl hplain' hinv.held
  refine ⟨recordStands_of_holds hi h8 (ldBytes_of_ldByte fun j hj => ?_), fun x hx hfar => ?_⟩
  · rw [ldByte_recordSent (direct_of_plainRam hplain' hj).sem hi, hin j hj]
  · rw [ldByte_recordSent (by omega) hi]
    exact hout x hx (hlen ▸ hfar)

end

/-- What is left of the slot, and what the track filter unit is given. -/
theorem recordSent_ifc {o : IfcDue} {rest : List IfcDue} : ifcSlot (recordSent s i o rest) i = { ifcSlot s i with due := rest } ∧
    (recordSent s i o rest).ifc.delivered = s.ifc.delivered ++ [⟨i, o.time, o.flags, o.samples⟩] := by
  obtain ⟨hifc, -, -⟩ := signal_stands (s := recordPlaced s i o rest) 13 (rf s (R.ifcIsOutcfg i) 31 16) 1
  have hplaced : (recordPlaced s i o rest).ifc = (setIfcSlot s i { ifcSlot s i with due := rest }).ifc := by
    simp [recordPlaced, setIfcSlot]
  constructor
  · show tabGet ifcSlot0 (signal _ _ _ _).ifc.slot i = _
    rw [hifc, hplaced]
    exact ifcSlot_setIfcSlot_same _
  · show (signal _ _ _ _).ifc.delivered ++ _ = _
    rw [hifc, hplaced]
    rfl

theorem rd_recordSent_seq {o : IfcDue} {rest : List IfcDue} : rd (recordSent s i o rest) (R.ifcIsSeq i) = o.seq :=
  (rd_signal_high _ _ _ (by simp only [R.ifcIsSeq]; omega)).trans (rd_wr_same ..)

/-- OUT_SEM, where it names a semaphore, is added 1. -/
theorem recordSent_sem {o : IfcDue} {rest : List IfcDue} : let f := rf s (R.ifcIsOutcfg i) 31 16
    (f = 0xFFFF → (recordSent s i o rest).sem = s.sem) ∧
      (f < 4096 → (semCount (recordSent s i o rest) f).toNat = min ((semCount s f).toNat + 1) 0xFFFFFFFF) := by
  intro f
  have hplaced : (recordPlaced s i o rest).sem = s.sem := by simp [recordPlaced, setIfcSlot]
  refine ⟨fun hf => ?_, fun hf => ?_⟩
  · show (signal (recordPlaced s i o rest) 13 f 1).sem = s.sem
    rw [signal, if_pos hf, hplaced]
  · show (semCount (signal (recordPlaced s i o rest) 13 f 1) f).toNat = _
    rw [signal, if_neg (by omega), Nat.mod_eq_of_lt hf, toNat_semAdd, semCount_of_sem hplaced]
    rfl

theorem filter_chain_outputs : ruleFilterChainOutputs := by
  intro s i hu x
  have hi : i.val < 4 := i.isLt
  refine ⟨fun w d hx hgaps htakes => ?_, fun o rest hdue hinv => ?_, fun hdue => ⟨s, exec_ifcOutputRecord_none hu hdue, rfl⟩⟩
  · obtain ⟨k, l, hrun⟩ := exec_imuTransactionEnd_alone (d := d) hu hx hgaps
    have htaken := (ifcSample_taken ((ifcTakes_sampleCounted (k := k) hi).trans htakes) l w).of_sampleCounted hi
    refine ⟨_, hrun, htaken.count, fun hend => ?_, htaken.noOutput⟩
    obtain ⟨o, hdue, ho, hseq, hk⟩ := htaken.output hend
    exact ⟨o, hdue, ho.time, ho.samples, ho.mask, ho.seq, hseq, hk⟩
  · intro sem at_ hplain _ h8
    obtain ⟨hrec, honly⟩ := record_stands (rest := rest) h8 hplain hinv hi
    obtain ⟨hslot, hdelivered⟩ := recordSent_ifc (s := s) (i := i.val) (o := o) (rest := rest)
    have hrun : exec (.ifcOutputRecord i) s = .next (recordSent s i.val o rest) := by
      rw [exec_ifcOutputRecord hu hdue, signalAfter_recordPlaced h8 hplain hinv]
      rfl
    exact ⟨_, hrun, hrec.time, hrec.seq, hrec.flags, hrec.slot, hrec.mask, hrec.crc, honly, by rw [hslot], by rw [hslot],
      rd_recordSent_seq, hdelivered, recordSent_sem⟩

end
end Sys2Proof.Machine
end

section
/-! SUPPORT. The configuration of the filter chain: enables and their checks, channel switches, detectors, the enable of the chain (R135,
R141, R143, R146 to R148); settles O25. -/

namespace Sys2Proof.Machine
section
variable {s t u : State} {i : Nat}

/-! ### A write that is refused (R141, R146) -/

/-- `u` is `s` after a write that error bit `bits` of IFC_ERR tells of: the chain's state stands, and every other register. -/
def ChainError (s : State) (bits : Word) (u : State) : Prop :=
  rd u R.ifcErr = rd s R.ifcErr ||| bits ∧ u.ifc = s.ifc ∧ SameRegsBut [R.ifcErr, R.ifcErrInfo] s u

theorem ifcErr_chainError (e off : Nat) : ChainError s (bitW e) (ifcErr s e off) := by
  refine ⟨rd_errInfo_same s e _ (by decide), errInfo_ifc .., fun a ha => ?_⟩
  simp only [List.mem_cons, List.not_mem_nil, or_false, not_or] at ha
  obtain ⟨herr, hinfo⟩ := ha
  exact rd_errInfo_other s e _ herr hinfo

/-! ### A restart (R140) -/

/-- Slot `i` stands as a restart leaves it, which its event tells. -/
structure Restarted (u : State) (i : Nat) : Prop where
  n : (ifcSlot u i).n = 0
  ch : (ifcSlot u i).ch = []
  event : bit (rd u (R.ifcIsEvent i)) 0 = true

theorem ifcSlot_setIfcSlot_other {j : Nat} (x : IfcSlot) (h : j ≠ i) : ifcSlot (setIfcSlot s i x) j = ifcSlot s j :=
  tabGet_set_other _ _ _ _ h

theorem detGet_detAbandon_same (k : Nat) : detGet (detAbandon s k) k =
    { detGet s k with n := 0, s1 := 0, s2 := 0, re := 0, im := 0, gap := false } := tabGet_set_same ..

theorem detGet_detAbandon_other {k j : Nat} (h : k ≠ j) : detGet (detAbandon s j) k = detGet s k := tabGet_set_other _ _ _ _ h

theorem ifcSlot_setBits (a j : Nat) (m : Word) : ifcSlot (setBits s a m) j = ifcSlot s j := rfl

theorem detGet_wr (a k : Nat) (v : Word) : detGet (wr s a v) k = detGet s k := rfl

theorem detGet_setBits (a k : Nat) (m : Word) : detGet (setBits s a m) k = detGet s k := rfl

/-- A detector between blocks, or abandoned among others, is between blocks. -/
theorem foldl_detAbandon_idle {k : Nat} (f : Nat → Nat) (xs : List Nat) (h : (detGet s k).n = 0 ∨ k ∈ xs.map f) :
    (detGet (xs.foldl (fun s c => detAbandon s (f c)) s) k).n = 0 := by
  induction xs generalizing s with
  | nil => simpa using h
  | cons x xs ih =>
    refine ih ?_
    by_cases hk : k = f x
    · exact .inl (by rw [hk, detGet_detAbandon_same])
    · rw [detGet_detAbandon_other hk]
      exact h.imp_right fun hmem => (List.mem_cons.mp hmem).resolve_left hk

theorem rd_foldl_detAbandon {a : Nat} (xs : List Nat) : rd (xs.foldl detAbandon s) a = rd s a :=
  foldl_keep detAbandon (fun s => rd s a) (fun _ _ => rfl) xs s

theorem rd_ifcRestart_other {a : Nat} (h : a ≠ R.ifcIsEvent i) : rd (ifcRestart s i) a = rd s a := by
  rw [ifcRestart, rd_setBits_other _ _ h, foldl_keep (fun s c => detAbandon s (8 * i + c)) (fun s => rd s a) fun _ _ => rfl]
  rfl

theorem rd_ifcRestart_event : rd (ifcRestart s i) (R.ifcIsEvent i) = rd s (R.ifcIsEvent i) ||| 1 := by
  rw [ifcRestart, rd_setBits_same, foldl_keep (fun s c => detAbandon s (8 * i + c)) (fun s => rd s (R.ifcIsEvent i)) fun _ _ => rfl]
  rfl

theorem ifcSlot_ifcRestart (j : Nat) : ifcSlot (ifcRestart s i) j =
    if j = i then { ifcSlot s i with n := 0, k := 0, gapAge := none, restart := true, ch := [] } else ifcSlot s j := by
  rw [ifcRestart, ifcSlot_setBits, foldl_keep (fun s c => detAbandon s (8 * i + c)) (fun s => ifcSlot s j) fun _ _ => rfl]
  split
  case isTrue h => rw [h, ifcSlot_setIfcSlot_same]
  case isFalse h => rw [ifcSlot_setIfcSlot_other _ h]

theorem restarted_ifcRestart : Restarted (ifcRestart s i) i := by
  refine ⟨by rw [ifcSlot_ifcRestart, if_pos rfl], by rw [ifcSlot_ifcRestart, if_pos rfl], ?_⟩
  rw [rd_ifcRestart_event]
  exact bit_or_bitW (b := 0) _ (by decide)

/-- A restart of any slot leaves a restarted slot restarted. -/
theorem Restarted.ifcRestart (h : Restarted s i) (j : Nat) : Restarted (ifcRestart s j) i := by
  by_cases hj : i = j
  · exact hj ▸ restarted_ifcRestart
  · refine ⟨?_, ?_, ?_⟩
    · rw [ifcSlot_ifcRestart, if_neg hj, h.n]
    · rw [ifcSlot_ifcRestart, if_neg hj, h.ch]
    · rw [rd_ifcRestart_other (by simp only [R.ifcIsEvent]; omega), h.event]

theorem detGet_ifcRestart_idle {k : Nat} (h : (detGet s k).n = 0) : (detGet (ifcRestart s i) k).n = 0 := by
  rw [ifcRestart, detGet_setBits]
  exact foldl_detAbandon_idle (8 * i + ·) (List.range 8) (.inl h)

/-! ### A slot's configuration register (R135, R141) -/

section
variable {i : Fin 4} {v : Word}

theorem exec_ifcConfigWrite_cfg (hu : s.up = true) :
    exec (.ifcConfigWrite (BitVec.ofNat 24 (R.ifcIsCfg i.val)) v) s = .next (ifcCfgWrite s i.val v) := by
  have hrow : ∀ j : Fin 4, ∃ r, regRow? (R.ifcIsCfg j.val) = some r ∧ r.rw ≠ 0 := by decide
  obtain ⟨r, hr, hrw⟩ := hrow i
  have haddr : (BitVec.ofNat 24 (R.ifcIsCfg i.val)).toNat = R.ifcIsCfg i.val := by
    rw [BitVec.toNat_ofNat, Nat.mod_eq_of_lt (by simp only [R.ifcIsCfg]; omega)]
  have hrun : exec (.ifcConfigWrite (BitVec.ofNat 24 (R.ifcIsCfg i.val)) v) s = .next _ := (fabric_up s hu : execIfcConfigWrite _ v s = _)
  rw [hrun]
  simp only [haddr, hr, if_neg hrw]
  rw [if_neg (by simp only [R.ifcIsCfg]; omega), if_neg (by simp only [R.ifcIsCfg]; omega), if_pos (by simp only [R.ifcIsCfg]; omega)]
  congr 2
  simp only [R.ifcIsCfg]
  omega

end

/-- Of an enabled slot, a write that changes anything but EN is ignored. -/
theorem ifcCfgWrite_busy {v : Word} (hen : rb s (R.ifcIsCfg i) 31 = true) (hv : bit (v &&& 0xCE7F07FF) 31 = true)
    (hne : v &&& 0xCE7F07FF ≠ rd s (R.ifcIsCfg i)) : ifcCfgWrite s i v = ifcErr s 1 (R.ifcIsCfg i) := by
  unfold ifcCfgWrite
  rw [if_pos hen, hv]
  exact if_neg hne

theorem ifcCfgWrite_disables {v : Word} (hen : rb s (R.ifcIsCfg i) 31 = true) (hv : bit (v &&& 0xCE7F07FF) 31 = false) :
    ifcCfgWrite s i v = wr s (R.ifcIsCfg i) (v &&& 0xCE7F07FF) := by
  unfold ifcCfgWrite
  rw [if_pos hen, hv]
  rfl

section
variable {v : Word} (hen : rb s (R.ifcIsCfg i) 31 = false) (hv : bit (v &&& 0xCE7F07FF) 31 = true)
include hen hv

theorem ifcCfgWrite_enables (hok : ifcEnableOk (wr s (R.ifcIsCfg i) (v &&& 0xCE7F07FF)) i = true) : ifcCfgWrite s i v =
    ifcRestart (setIfcSlot (wr s (R.ifcIsCfg i) (v &&& 0xCE7F07FF)) i { ifcSlot s i with seq := 0 }) i := by
  unfold ifcCfgWrite
  rw [if_neg (by rw [hen]; decide), hv]
  exact if_pos hok

theorem ifcCfgWrite_refused (hok : ifcEnableOk (wr s (R.ifcIsCfg i) (v &&& 0xCE7F07FF)) i = false) : ifcCfgWrite s i v =
    ifcErr (wr s (R.ifcIsCfg i) (setBit (v &&& 0xCE7F07FF) 31 false)) 0 (R.ifcIsCfg i) := by
  unfold ifcCfgWrite
  rw [if_neg (by rw [hen]; decide), hv]
  exact if_neg (Bool.eq_false_iff.mp hok)

end

/-- An enable that passes its checks restarts the slot, its sequence at 0. -/
theorem enabled_slot (w : Word) : let u := ifcRestart (setIfcSlot (wr s (R.ifcIsCfg i) w) i { ifcSlot s i with seq := 0 }) i
    rd u (R.ifcIsCfg i) = w ∧ (ifcSlot u i).seq = 0 ∧ (ifcSlot u i).due = (ifcSlot s i).due ∧ Restarted u i := by
  intro u
  refine ⟨?_, ?_, ?_, restarted_ifcRestart⟩
  · rw [rd_ifcRestart_other (by simp only [R.ifcIsCfg, R.ifcIsEvent]; omega)]
    exact rd_wr_same _ _ _
  · rw [ifcSlot_ifcRestart, if_pos rfl, ifcSlot_setIfcSlot_same]
  · rw [ifcSlot_ifcRestart, if_pos rfl, ifcSlot_setIfcSlot_same]

/-- One that fails them leaves EN 0. -/
theorem refused_slot (w : Word) : let u := ifcErr (wr s (R.ifcIsCfg i) (setBit w 31 false)) 0 (R.ifcIsCfg i)
    rb u (R.ifcIsCfg i) 31 = false ∧ rd u R.ifcErr = rd s R.ifcErr ||| 1 ∧ u.ifc = s.ifc := by
  intro u
  obtain ⟨herr, hifc, hregs⟩ := ifcErr_chainError (s := wr s (R.ifcIsCfg i) (setBit w 31 false)) 0 (R.ifcIsCfg i)
  refine ⟨?_, ?_, hifc⟩
  · rw [rb, hregs _ (by simp [R.ifcIsCfg, R.ifcErr, R.ifcErrInfo]; omega), rd_wr_same]
    exact bit_setFld_same false (by decide)
  · rw [herr, rd_wr_other _ _ (by simp only [R.ifcIsCfg, R.ifcErr]; omega)]
    rfl

/-! ### A channel's configuration (R141, R143) -/

/-- A field that a mask lets through whole. -/
theorem fld_and {w m : Word} {hi lo : Nat} (h : ∀ b, b ≤ hi → lo ≤ b → m.getLsbD b = true) : fld (w &&& m) hi lo = fld w hi lo :=
  fld_congr fun b hlo hhi => by rw [BitVec.getLsbD_and, h b hhi hlo, Bool.and_true]

theorem bit_and {w m : Word} {b : Nat} (h : m.getLsbD b = true) : bit (w &&& m) b = bit w b := by
  rw [bit, BitVec.getLsbD_and, h, Bool.and_true, ← bit]

section
variable {i : Fin 4} {c : Fin 8} {v : Word}

theorem exec_ifcChannelSwitch (hu : s.up = true) : exec (.ifcChannelSwitch i c v) s = .next (ifcChWrite s i.val c.val v) :=
  (fabric_up s hu : execIfcChannelSwitch i c v s = _)

end

section
variable {c : Nat} {v : Word} (hon : rb s (R.ifcIsCfg i) 31 = true) (hen : rb s (R.ifcIsChCfg i c) 31 = true) (hv : bit v 31 = true)

include hen hv in
/-- Of an enabled channel the bank is not changed. -/
theorem ifcChWrite_busy (hb : fld v 2 0 ≠ rf s (R.ifcIsChCfg i c) 2 0) : ifcChWrite s i c v = ifcErr s 1 (R.ifcIsChCfg i c) := by
  have hbank : fld (v &&& 0x80070007) 2 0 = fld v 2 0 := fld_and (by decide)
  have hne : v &&& 0x80070007 ≠ rd s (R.ifcIsChCfg i c) := fun h => hb (by rw [← hbank, h, rf])
  unfold ifcChWrite
  dsimp only
  rw [bit_and (by decide), hv, if_neg (by decide), if_pos hen, if_neg hne, hbank, if_pos hb]

include hon hen hv in
theorem ifcChWrite_switches (hb : fld v 2 0 = rf s (R.ifcIsChCfg i c) 2 0) (hsrc : fld v 18 16 ≠ rf s (R.ifcIsChCfg i c) 18 16) :
    ifcChWrite s i c v = ifcSwitch s i c (v &&& 0x80070007) := by
  have hbank : fld (v &&& 0x80070007) 2 0 = fld v 2 0 := fld_and (by decide)
  have hfield : fld (v &&& 0x80070007) 18 16 = fld v 18 16 := fld_and (by decide)
  have hne : v &&& 0x80070007 ≠ rd s (R.ifcIsChCfg i c) := fun h => hsrc (by rw [← hfield, h, rf])
  unfold ifcChWrite
  dsimp only
  rw [bit_and (by decide), hv, if_neg (by decide), if_pos hen, if_neg hne, hbank, if_neg (not_not.mpr hb), if_pos hon]

end

/-- A switch is pending, and nothing but SRC has changed. -/
theorem ifcSwitch_pending {c : Nat} (w : Word) : let u := ifcSwitch s i c w
    rd u (R.ifcIsChCfg i c) = w ∧ (tabGet ifcChan0 (ifcSlot u i).ch c).pendingSrc = true ∧ SameRegsBut [R.ifcIsChCfg i c] s u ∧
      (ifcSlot u i).due = (ifcSlot s i).due := by
  intro u
  have hslot : ifcSlot u i = _ := ifcSlot_setIfcSlot_same _
  refine ⟨rd_wr_same _ _ _, ?_, fun a ha => rd_wr_other _ _ (List.ne_of_not_mem_cons ha), ?_⟩
  · rw [hslot, tabGet_set_same]
  · rw [hslot]

/-! ### A detector's registers (R146) -/

/-- What a write of a detector's register leaves. -/
def detWritten (s : State) (k r : Nat) (v : Word) : State :=
  let new := if r = 0 then v &&& 0xC001FFFF else v
  if rb s (R.ifcDetCfg k) 31 = true then
    if r = 0 ∧ (!bit new 31) = true then wr (detAbandon s k) (detReg k r) new else ifcErr s 1 (detReg k r)
  else wr s (detReg k r) new

theorem exec_ifcDetCfgWrite {k : Fin 32} {r : Fin 3} {v : Word} (hu : s.up = true) :
    exec (.ifcDetCfgWrite k r v) s = .next (detWritten s k.val r.val v) := (fabric_up s hu : execIfcDetCfgWrite k r v s = _)

section
variable {k r : Nat} {v : Word}

theorem detWritten_disabled (hen : rb s (R.ifcDetCfg k) 31 = false) :
    detWritten s k r v = wr s (detReg k r) (if r = 0 then v &&& 0xC001FFFF else v) := if_neg (by rw [hen]; decide)

theorem detWritten_busy (hen : rb s (R.ifcDetCfg k) 31 = true) (h : r ≠ 0 ∨ bit v 31 = true) : detWritten s k r v = ifcErr s 1 (detReg k r) := by
  refine (if_pos hen).trans (if_neg fun ⟨hr, hbit⟩ => ?_)
  rw [if_pos hr, bit_and (by decide), h.resolve_left (not_not.mpr hr)] at hbit
  exact absurd hbit (by decide)

theorem detWritten_ends (hen : rb s (R.ifcDetCfg k) 31 = true) (hv : bit v 31 = false) :
    detWritten s k 0 v = wr (detAbandon s k) (R.ifcDetCfg k) (v &&& 0xC001FFFF) := by
  refine (if_pos hen).trans (if_pos ⟨rfl, ?_⟩)
  rw [if_pos rfl, bit_and (by decide), hv]
  rfl

end

/-! ### The enable of the chain (R147) -/

/-- A slot restarted where it is enabled. -/
def restartEnabled (s : State) (i : Nat) : State := if rb s (R.ifcIsCfg i) 31 then ifcRestart s i else s

theorem exec_ifcCtrlWrite_clear {v : Word} (hu : s.up = true) (hv : bit v 0 = false) :
    exec (.ifcCtrlWrite v) s = .next (wr s R.ifcCtrl 0) := by
  have hrun : exec (.ifcCtrlWrite v) s = .next _ := (fabric_up s hu : execIfcCtrlWrite v s = _)
  rw [hrun, hv, and_one_eq, hv]
  rfl

theorem exec_ifcCtrlWrite_set {v : Word} (hu : s.up = true) (hv : bit v 0 = true) (hoff : rb s R.ifcCtrl 0 = false) :
    exec (.ifcCtrlWrite v) s = .next ((List.range 4).foldl restartEnabled ((List.range 32).foldl detAbandon (wr s R.ifcCtrl 1))) := by
  have hrun : exec (.ifcCtrlWrite v) s = .next _ := (fabric_up s hu : execIfcCtrlWrite v s = _)
  rw [hrun, hv, hoff, and_one_eq, hv]
  rfl

/-- Restarts write nothing but events. -/
theorem rd_restartEnabled {a j : Nat} (h : a ≠ R.ifcIsEvent j) : rd (restartEnabled s j) a = rd s a := by
  unfold restartEnabled
  split
  · exact rd_ifcRestart_other h
  · rfl

theorem rd_foldl_restartEnabled {a : Nat} {l : List Nat} (h : ∀ j, a ≠ R.ifcIsEvent j) :
    rd (l.foldl restartEnabled s) a = rd s a :=
  foldl_keep restartEnabled (fun s => rd s a) (fun _ j => rd_restartEnabled (h j)) l s

/-- An enabled slot that is among those restarted, or was before, is restarted. -/
theorem restarted_foldl {l : List Nat} (hen : rb s (R.ifcIsCfg i) 31 = true) (h : Restarted s i ∨ i ∈ l) :
    Restarted (l.foldl restartEnabled s) i := by
  induction l generalizing s with
  | nil => simpa using h
  | cons j l ih =>
    refine ih ?_ ?_
    · rw [rb, rd_restartEnabled (by simp only [R.ifcIsCfg, R.ifcIsEvent]; omega), ← rb, hen]
    · by_cases hj : i = j
      · subst hj
        rw [restartEnabled, if_pos hen]
        exact .inl restarted_ifcRestart
      · refine h.imp (fun hs => ?_) fun hl => (List.mem_cons.mp hl).resolve_left hj
        unfold restartEnabled
        split
        · exact hs.ifcRestart j
        · exact hs

theorem detGet_foldl_restartEnabled_idle {k : Nat} (l : List Nat) (h : (detGet s k).n = 0) : (detGet (l.foldl restartEnabled s) k).n = 0 :=
  List.foldlRecOn (motive := fun s => (detGet s k).n = 0) l _ h fun t ht j _ => by
    unfold restartEnabled
    split
    · exact detGet_ifcRestart_idle ht
    · exact ht

end

/-! ### O25 -/

theorem filter_chain_configuration : ruleFilterChainConfiguration := by
  intro s i hu cfg busy
  have hi : i.val < 4 := i.isLt
  refine ⟨fun v => ?_, fun c v => ?_, fun c v => ?_, fun k r v => ?_,
    fun v hv => ⟨_, exec_ifcCtrlWrite_clear hu hv, rfl⟩, fun v hv hoff => ?_⟩
  · intro new run
    refine ⟨fun hen hv hne => ⟨_, exec_ifcConfigWrite_cfg hu, ?_⟩,
      fun hen hv => ⟨_, exec_ifcConfigWrite_cfg hu, ifcCfgWrite_disables hen hv⟩,
      fun hen hv hok => ⟨_, exec_ifcConfigWrite_cfg hu, ?_⟩, fun hen hv hok => ⟨_, exec_ifcConfigWrite_cfg hu, ?_⟩⟩
    · rw [ifcCfgWrite_busy hen hv hne]
      exact ifcErr_chainError 1 _
    · rw [ifcCfgWrite_enables hen hv hok]
      obtain ⟨hcfg, hseq, hdue, hrestarted⟩ := enabled_slot (s := s) (i := i.val) new
      exact ⟨hcfg, hseq, hdue, hrestarted.n, hrestarted.ch, hrestarted.event⟩
    · rw [ifcCfgWrite_refused hen hv hok]
      exact refused_slot new
  · intro a hon hen hv hb hsrc
    refine ⟨_, exec_ifcChannelSwitch hu, ?_⟩
    rw [ifcChWrite_switches hon hen hv hb hsrc]
    obtain ⟨hcfg, hrest⟩ := ifcSwitch_pending (s := s) (i := i.val) (c := c.val) (v &&& 0x80070007)
    refine ⟨?_, hrest⟩
    rw [rf, hcfg]
    exact fld_and (by decide)
  · intro a _ hen hv hb
    refine ⟨_, exec_ifcChannelSwitch hu, ?_⟩
    rw [ifcChWrite_busy hen hv hb]
    exact ifcErr_chainError 1 _
  · intro new
    refine ⟨fun hen => ⟨_, exec_ifcDetCfgWrite hu, detWritten_disabled hen⟩, fun hen h => ⟨_, exec_ifcDetCfgWrite hu, ?_⟩,
      fun hen hr hv => ⟨_, exec_ifcDetCfgWrite hu, ?_⟩⟩
    · rw [detWritten_busy hen h]
      exact ifcErr_chainError 1 _
    · rw [hr, detWritten_ends hen hv]
      refine ⟨(rd_wr_same _ _ _).trans (if_pos hr).symm, ?_, ?_⟩ <;> rw [detGet_wr, detGet_detAbandon_same]
  · refine ⟨_, exec_ifcCtrlWrite_set hu hv hoff, ?_, fun hen => ?_, fun k => ?_⟩
    · rw [rd_foldl_restartEnabled (fun j => by simp only [R.ifcCtrl, R.ifcIsEvent]; omega), rd_foldl_detAbandon, rd_wr_same]
    · have hon : rb ((List.range 32).foldl detAbandon (wr s R.ifcCtrl 1)) cfg 31 = true := by
        rw [rb, rd_foldl_detAbandon, rd_wr_other _ _ (by simp only [cfg, R.ifcIsCfg, R.ifcCtrl]; omega), ← rb, hen]
      have h := restarted_foldl (l := List.range 4) hon (.inr (List.mem_range.mpr hi))
      exact ⟨h.n, h.ch, h.event⟩
    · exact detGet_foldl_restartEnabled_idle _ (foldl_detAbandon_idle id _ (.inr (by simp)))

/-- Settles O25: channels and detectors leave a slot's numbering alone (`ChannelWork`), so a sample is counted and ends an output by R; a
record is read back from plain memory field by field (`Holds`); each configuration write is one branch of its command, and restarts
one after the other leave every enabled slot restarted. -/
theorem theFilterChainFollowsItsConfiguration : Obligations.TheFilterChainFollowsItsConfiguration :=
  ⟨filter_chain_outputs, filter_chain_configuration⟩

end Sys2Proof.Machine
end

section
/-! SUPPORT. The pair table's writes and the calibration entries: their registers, the check of a staged table, the table made active and
the swap at a commit (R163, R203 to R205); settles O28. -/

namespace Sys2Proof.Machine
section
variable {s t u : State} {c d : CalUnit} {e : Word}

/-! ### Places that a change of registers leaves (R262) -/

/-- Nothing but registers outside the redirect table changes: every address reaches its place as before. -/
theorem samePlaces_of_regs {l : List Nat} (h : OnlyRegs s t) (hregs : SameRegsBut l s t) (hl : ∀ a ∈ l, a < 0x180900 ∨ 0x180A10 ≤ a) :
    SamePlaces s t := by
  obtain ⟨r, rfl⟩ := h
  refine ⟨fun k hk => hregs _ fun hmem => ?_, rfl, rfl, rfl, rfl, rfl⟩
  have hout := hl _ hmem
  simp only [R.memRedir] at hout
  omega

theorem OnlyRegs.clrBits (h : OnlyRegs s t) (a : Nat) (m : Word) : OnlyRegs s (clrBits t a m) := h.wr a _

theorem onlyRegs_errInfo (r b i : Nat) (w : Word) : OnlyRegs s (errInfo s r b i w) := ⟨_, errInfo_frame s r b i w⟩

theorem sameRegsBut_errInfo (r b i : Nat) (w : Word) : SameRegsBut [r, i] s (errInfo s r b i w) := fun a ha => by
  simp only [List.mem_cons, List.not_mem_nil, or_false, not_or] at ha
  exact rd_errInfo_other s b w ha.1 ha.2

/-! ### Reads of a check (R255, R277, R279, R507) -/

/-- What a read notes of memory's errors leaves every place and the registers below the TT block. -/
structure OnlyNoted (s t : State) : Prop where
  places : SamePlaces s t
  low : ∀ a, a < 0x100000 → rd t a = rd s a

theorem OnlyNoted.trans (h : OnlyNoted s t) (k : OnlyNoted t u) : OnlyNoted s u :=
  ⟨h.places.trans k.places, fun a ha => (k.low a ha).trans (h.low a ha)⟩

theorem onlyNoted_noteRead (a n : Nat) : OnlyNoted s (noteRead s a n) := by
  refine ⟨⟨fun k hk => ?_, by simp, by simp, by simp, by simp, by simp⟩, fun r hr => rd_noteRead_low s a n hr⟩
  unfold noteRead
  dsimp only
  rw [foldl_keep uncorrectable (fun t => rd t (R.memRedir k)) fun t v => rd_uncorrectable_redir v hk,
    foldl_keep corrected (fun t => rd t (R.memRedir k)) fun t v => rd_corrected_redir v hk,
    foldl_keep (edcMeet false (physAddr s a) n) (fun t => rd t (R.memRedir k)) fun t x => rd_edcMeet_redir false _ x hk]

theorem onlyNoted_glideErr : OnlyNoted s (glideErr s) := by
  have hrd : ∀ a, a ≠ R.memErr → a ≠ R.memErrInfo → rd (glideErr s) a = rd s a := fun a herr hinfo =>
    rd_errInfo_other { s with fresh := s.fresh + 1 } 3 _ herr hinfo
  refine ⟨⟨fun k hk => hrd _ ?_ ?_, by simp, by simp, by simp, by simp, by simp⟩, fun a ha => hrd a ?_ ?_⟩ <;>
    simp only [R.memRedir, R.memErr, R.memErrInfo] <;> omega

theorem onlyNoted_noteReads (l : List (Nat × Nat)) : OnlyNoted s (noteReads s l) := by
  induction l generalizing s with
  | nil => exact ⟨.refl, fun _ _ => rfl⟩
  | cons r l ih =>
    unfold noteReads
    split
    · exact onlyNoted_glideErr
    · split
      · exact onlyNoted_noteRead ..
      · exact (onlyNoted_noteRead ..).trans ih

/-! ### The pair table (R163, R179) -/

theorem exec_fddPairWrite_idle {x : Fin 2} {i : BitVec 8} {v : Word} (hu : s.up = true) (hidle : visJob s (1 + x.val) = none)
    (hdisc : pairInDisc v = true) : exec (.fddPairWrite x i v) s = .next (wr s (R.fddPair x.val i.toNat) (v &&& 0x1F1F1F1F)) := by
  refine (fabric_up s hu : execFddPairWrite x i v s = _).trans ?_
  simp [hidle, hdisc]

theorem exec_fddPairWrite_busy {x : Fin 2} {i : BitVec 8} {v : Word} (hu : s.up = true) (hbusy : visJob s (1 + x.val) ≠ none) :
    exec (.fddPairWrite x i v) s = .next (errInfo s (R.fddErr x.val) 1 (R.fddErrInfo x.val)
      (BitVec.ofNat 32 ((0x1000 + 4 * i.toNat) * 0x10000))) := by
  refine (fabric_up s hu : execFddPairWrite x i v s = _).trans ?_
  rw [if_pos (Option.isSome_iff_ne_none.mpr hbusy)]

/-! ### The registers of an entry -/

/-- The error register and the information register of an entry's engine. -/
def calErrReg (c : CalUnit) : Nat := match c with | .sde _ => R.sdeErr | .pje _ => R.pjeErr
def calErrInfoReg (c : CalUnit) : Nat := match c with | .sde _ => R.sdeErrInfo | .pje _ => R.pjeErrInfo

theorem calErr_eq (b off : Nat) : calErr c b off s =
    errInfo s (calErrReg c) b (calErrInfoReg c) (BitVec.ofNat 32 (off % 0x10000 * 0x10000 + calIdx c)) := by
  cases c <;> rfl

/-- The entries stand below the TT block. -/
theorem calBase_low (c : CalUnit) : calBase c + 0x40 ≤ 0x100000 := by
  cases c <;> simp only [calBase, R.sdeCalCtrl, R.pjeCalCtrl] <;> omega

/-- A register below the TT block and outside the 64 bytes of every entry. -/
def OutsideEntries (r : Nat) : Prop := r < 0x100000 ∧ ∀ c, r < calBase c ∨ calBase c + 0x40 ≤ r

theorem OutsideEntries.ne {r k : Nat} (h : OutsideEntries r) (hk : k < 0x40) : calBase c + k ≠ r := by
  have hout := h.2 c
  omega

theorem outsideEntries_of {r : Nat} (h : r < 0xC0200 ∨ 0xC0300 ≤ r ∧ r < 0xD0400) : OutsideEntries r := by
  refine ⟨by omega, fun c => ?_⟩
  cases c <;> simp only [calBase, R.sdeCalCtrl, R.pjeCalCtrl] <;> omega

theorem calEventReg_outside : (c : CalUnit) → OutsideEntries (calEventReg c)
  | .sde _ => outsideEntries_of (r := R.sdeCalEvent) (by decide)
  | .pje _ => outsideEntries_of (r := R.pjeCalEvent) (by decide)

theorem calErrReg_outside : (c : CalUnit) → OutsideEntries (calErrReg c)
  | .sde _ => outsideEntries_of (r := R.sdeErr) (by decide)
  | .pje _ => outsideEntries_of (r := R.pjeErr) (by decide)

theorem calErrInfoReg_outside : (c : CalUnit) → OutsideEntries (calErrInfoReg c)
  | .sde _ => outsideEntries_of (r := R.sdeErrInfo) (by decide)
  | .pje _ => outsideEntries_of (r := R.pjeErrInfo) (by decide)

theorem calErrReg_ne_info : (c : CalUnit) → calErrReg c ≠ calErrInfoReg c
  | .sde _ => (by decide : R.sdeErr ≠ R.sdeErrInfo)
  | .pje _ => (by decide : R.pjeErr ≠ R.pjeErrInfo)

/-- The 64 bytes of two entries lie apart. -/
theorem calBase_apart (h : c ≠ d) : calBase c + 0x40 ≤ calBase d ∨ calBase d + 0x40 ≤ calBase c := by
  cases c <;> cases d <;> simp only [ne_eq, CalUnit.sde.injEq, CalUnit.pje.injEq, calBase, R.sdeCalCtrl, R.pjeCalCtrl] at h ⊢ <;> omega

theorem calIdx_lt : calIdx c < 32 := by
  cases c <;> simp only [calIdx] <;> omega

/-! ### Bits of a word -/

theorem bit_or_clear {w m : Word} {b : Nat} (h : m.getLsbD b = false) : bit (w ||| m) b = bit w b := by
  rw [bit, BitVec.getLsbD_or, h, Bool.or_false, ← bit]

theorem bit_or_of_bit {w : Word} (m : Word) {b : Nat} (h : bit w b = true) : bit (w ||| m) b = true := by
  rw [bit, BitVec.getLsbD_or, ← bit, h, Bool.true_or]

/-! ### A table becomes active (R204) -/

/-- The registers that the change of the active table writes. -/
def calActiveRegs (c : CalUnit) : List Nat :=
  [calStatus c, calBase c + 0x14, calBase c + 0x1C, calBase c + 0x20, calBase c + 0x24, calEventReg c]

/-- What a staged table that becomes active leaves in its entry and its engine's event register. -/
structure TableActive (s t : State) (c : CalUnit) (e : Word) : Prop where
  only : OnlyRegs s t
  regs : SameRegsBut (calActiveRegs c) s t
  version : rd t (calBase c + 0x14) = rd s (calBase c + 0x10)
  table : calAct t c = calStg s c
  epoch : rd t (calBase c + 0x1C) = e
  status : rd t (calStatus c) = rd s (calStatus c) &&& ~~~1 ||| 2
  event : rd t (calEventReg c) = rd s (calEventReg c) ||| bitW (calIdx c)

theorem tableActive_calActivate (s : State) (c : CalUnit) (e : Word) : TableActive s (calActivate c e s) c e := by
  have hev : ∀ k, k < 0x40 → calBase c + k ≠ calEventReg c := fun k hk => (calEventReg_outside c).ne hk
  have hown : ∀ k, k < 0x40 → ∀ (t : State) (v : Word), rd (wr t (calEventReg c) v) (calBase c + k) = rd t (calBase c + k) :=
    fun k hk t v => rd_wr_other t v (hev k hk)
  have hevent : ∀ k, k < 0x40 → ∀ (t : State) (v : Word), rd (wr t (calBase c + k) v) (calEventReg c) = rd t (calEventReg c) :=
    fun k hk t v => rd_wr_other t v (hev k hk).symm
  constructor
  case only => exact ((((((OnlyRegs.refl.wr ..).wr ..).wr ..).wr ..).clrBits ..).setBits ..).setBits ..
  case regs =>
    intro a ha
    simp only [calActiveRegs, calStatus, List.mem_cons, List.not_mem_nil, or_false, not_or] at ha
    obtain ⟨hstatus, hver, hepoch, hlo, hhi, hevt⟩ := ha
    simp only [calActivate, calStatus, rd_setBits_other _ _ hevt, rd_setBits_other _ _ hstatus, rd_clrBits_other _ _ hstatus,
      rd_wr_other _ _ hepoch, rd_wr_other _ _ hhi, rd_wr_other _ _ hlo, rd_wr_other _ _ hver]
  case version => simp [calActivate, calStatus, hown, setBits, clrBits, rd_wr_other]
  case table => simp [calActivate, calStatus, calAct, calStg, rd64, hown, setBits, clrBits, rd_wr_other]
  case epoch => simp [calActivate, calStatus, hown, setBits, clrBits, rd_wr_other]
  case status => simp [calActivate, calStatus, hown, setBits, clrBits, rd_wr_other]
  case event => simp [calActivate, calStatus, hevent, setBits, clrBits]

/-! ### Arming and disarming (R203, R205) -/

theorem exec_calArm_starts (hu : s.up = true) (hrun : rb s (calStatus c) 3 = false) (harmed : rb s (calStatus c) 0 = false) :
    exec (.calArm c) s = .next (setBits s (calStatus c) 8) := by
  refine (fabric_up s hu : execCalArm c s = _).trans ?_
  simp [hrun, harmed]

theorem exec_calArm_busy (hu : s.up = true) (hbusy : rb s (calStatus c) 3 = true ∨ rb s (calStatus c) 0 = true) :
    exec (.calArm c) s = .next (calErr c 2 (calBase c) s) := by
  refine (fabric_up s hu : execCalArm c s = _).trans ?_
  rw [if_pos (Bool.or_eq_true_iff.mpr hbusy)]

/-- A refused arm tells BUSY and leaves the entry's status. -/
theorem calErr_busy : rd (calErr c 2 (calBase c) s) (calErrReg c) = rd s (calErrReg c) ||| 4 ∧
    rd (calErr c 2 (calBase c) s) (calStatus c) = rd s (calStatus c) := by
  rw [calErr_eq]
  exact ⟨rd_errInfo_same s 2 _ (calErrReg_ne_info c),
    rd_errInfo_other s 2 _ ((calErrReg_outside c).ne (by decide)) ((calErrInfoReg_outside c).ne (by decide))⟩

/-! ### The check of a staged table (R203, R309) -/

/-- The state in which the check of an entry ends, before its outcome: the table read and the check's bit off. -/
def calChecked (s : State) (c : CalUnit) : State := clrBits (noteReads s (calReads s c)) (calStatus c) 8

theorem rd_calChecked_status : rd (calChecked s c) (calStatus c) = rd s (calStatus c) &&& ~~~8 := by
  have hlow := calBase_low c
  rw [calChecked, rd_clrBits_same, (onlyNoted_noteReads _).low _ (by rw [calStatus]; omega)]

theorem rd_calChecked_other {a : Nat} (h : a ≠ calStatus c) (ha : a < 0x100000) : rd (calChecked s c) a = rd s a :=
  (rd_clrBits_other _ _ h).trans ((onlyNoted_noteReads _).low a ha)

theorem samePlaces_calChecked : SamePlaces s (calChecked s c) := by
  have hlow := calBase_low c
  refine (onlyNoted_noteReads _).places.trans (samePlaces_of_regs (OnlyRegs.refl.clrBits _ _) (l := [calStatus c]) (fun a ha => ?_) ?_)
  · exact rd_clrBits_other _ _ (List.ne_of_not_mem_cons ha)
  · simp only [List.forall_mem_singleton, calStatus]
    omega

/-- The entry with the version of the table that passed. -/
def calPassed (s : State) (c : CalUnit) : State := wr (calChecked s c) (calBase c + 0x10) (BitVec.ofNat 32 (ldN s (calStg s c) 4))

theorem rd_calPassed_other {a : Nat} (h : a ≠ calStatus c) (hv : a ≠ calBase c + 0x10) (ha : a < 0x100000) :
    rd (calPassed s c) a = rd s a := (rd_wr_other _ _ hv).trans (rd_calChecked_other h ha)

theorem rd_calPassed_status : rd (calPassed s c) (calStatus c) = rd s (calStatus c) &&& ~~~8 :=
  (rd_wr_other _ _ (by rw [calStatus]; omega)).trans rd_calChecked_status

theorem exec_calCheckEnd_failed (hu : s.up = true) (hrun : rb s (calStatus c) 3 = true) (hok : calTableOk s c = false) :
    exec (.calCheckEnd c) s = .next (calrefFailed (calErr c 1 (calBase c) (calChecked s c)) c) := by
  refine (fabric_up s hu : execCalCheckEnd c s = _).trans ?_
  simp [hrun, hok, calChecked]

theorem exec_calCheckEnd_armed (hu : s.up = true) (hrun : rb s (calStatus c) 3 = true) (hok : calTableOk s c = true)
    (hact : rb s (calStatus c) 1 = true) : exec (.calCheckEnd c) s = .next (setBits (calPassed s c) (calStatus c) 1) := by
  refine (fabric_up s hu : execCalCheckEnd c s = _).trans ?_
  simp [hrun, hok, hact, calPassed, calChecked]

theorem exec_calCheckEnd_active (hu : s.up = true) (hrun : rb s (calStatus c) 3 = true) (hok : calTableOk s c = true)
    (hact : rb s (calStatus c) 1 = false) : exec (.calCheckEnd c) s = .next (calActivate c 0 (calPassed s c)) := by
  refine (fabric_up s hu : execCalCheckEnd c s = _).trans ?_
  simp [hrun, hok, hact, calPassed, calChecked]

/-- A refinement that is skipped is counted and told by TFU. -/
theorem calrefFailed_onlyTfu : OnlyRegs s (calrefFailed s c) ∧ SameRegsBut [R.tfuCalrefSkipCnt, R.tfuEvent] s (calrefFailed s c) := by
  unfold calrefFailed
  repeat' split
  · exact ⟨.refl, fun _ _ => rfl⟩
  · refine ⟨⟨_, rfl⟩, fun a ha => ?_⟩
    simp only [List.mem_cons, List.not_mem_nil, or_false, not_or] at ha
    rw [rd_setBits_other _ _ ha.2, rd_bump_other _ ha.1]
  · exact ⟨.refl, fun _ _ => rfl⟩

/-- A check that fails sets CAL, leaves ARMED as it was and stops. -/
theorem calCheck_failed : let v := calrefFailed (calErr c 1 (calBase c) (calChecked s c)) c
    bit (rd v (calErrReg c)) 1 = true ∧ rb v (calStatus c) 3 = false ∧ rb v (calStatus c) 0 = rb s (calStatus c) 0 ∧ SameBytes s v := by
  intro v
  have hlow := calBase_low c
  obtain ⟨herr, -⟩ := calErrReg_outside c
  obtain ⟨hinfo, -⟩ := calErrInfoReg_outside c
  obtain ⟨htfu, htfuRegs⟩ := calrefFailed_onlyTfu (s := calErr c 1 (calBase c) (calChecked s c)) (c := c)
  have hkept : ∀ a, a < 0x100000 → rd v a = rd (calErr c 1 (calBase c) (calChecked s c)) a := fun a ha =>
    htfuRegs a (by simp only [List.mem_cons, List.not_mem_nil, or_false, not_or, R.tfuCalrefSkipCnt, R.tfuEvent]; omega)
  have hstatus : rd v (calStatus c) = rd s (calStatus c) &&& ~~~8 := by
    rw [hkept _ (by rw [calStatus]; omega), calErr_eq, ← rd_calChecked_status]
    exact rd_errInfo_other _ _ _ ((calErrReg_outside c).ne (by decide)) ((calErrInfoReg_outside c).ne (by decide))
  refine ⟨?_, ?_, ?_, ?_⟩
  · rw [hkept _ (by omega), calErr_eq, rd_errInfo_same _ _ _ (calErrReg_ne_info c)]
    exact bit_or_bitW _ (by decide)
  · rw [rb, hstatus]
    exact bit_and_not_bitW (b := 3) _ (by decide)
  · rw [rb, hstatus, bit_and (by decide), ← rb]
  · have hplaces : SamePlaces (calChecked s c) (calErr c 1 (calBase c) (calChecked s c)) := by
      rw [calErr_eq]
      exact samePlaces_of_regs (onlyRegs_errInfo ..) (sameRegsBut_errInfo _ _ _ _) (by simp; omega)
    exact ((samePlaces_calChecked.trans hplaces).trans (samePlaces_of_regs htfu htfuRegs (by decide))).sameBytes

/-- A check that passes arms the entry where a table is active. -/
theorem calCheck_armed : let v := setBits (calPassed s c) (calStatus c) 1
    rb v (calStatus c) 0 = true ∧ rb v (calStatus c) 3 = false ∧ rd v (calBase c + 0x10) = BitVec.ofNat 32 (ldN s (calStg s c) 4) ∧
      rd v (calErrReg c) = rd s (calErrReg c) ∧ calAct v c = calAct s c := by
  intro v
  have hlow := calBase_low c
  have herr := calErrReg_outside c
  have hstatus : rd v (calStatus c) = rd s (calStatus c) &&& ~~~8 ||| 1 := by rw [rd_setBits_same, rd_calPassed_status]
  have hkept : ∀ a, a ≠ calStatus c → a ≠ calBase c + 0x10 → a < 0x100000 → rd v a = rd s a := fun a hst hver ha =>
    (rd_setBits_other _ _ hst).trans (rd_calPassed_other hst hver ha)
  refine ⟨?_, ?_, (rd_setBits_other _ _ (by rw [calStatus]; omega)).trans (rd_wr_same ..),
    hkept _ (herr.ne (by decide)).symm (herr.ne (by decide)).symm herr.1, ?_⟩
  · rw [rb, hstatus]
    exact bit_or_bitW (b := 0) _ (by decide)
  · rw [rb, hstatus, bit_or_clear (by decide)]
    exact bit_and_not_bitW (b := 3) _ (by decide)
  · rw [calAct, calAct, rd64, rd64, hkept _ (by rw [calStatus]; omega) (by omega) (by omega),
      hkept _ (by rw [calStatus]; omega) (by omega) (by omega)]

/-- A check that passes makes the table active at once where none is. -/
theorem calCheck_active : let v := calActivate c 0 (calPassed s c)
    rb v (calStatus c) 0 = false ∧ rb v (calStatus c) 1 = true ∧ rd v (calBase c + 0x14) = BitVec.ofNat 32 (ldN s (calStg s c) 4) ∧
      calAct v c = calStg s c ∧ rd v (calBase c + 0x1C) = 0 ∧ bit (rd v (calEventReg c)) (calIdx c) = true := by
  intro v
  have hlow := calBase_low c
  obtain ⟨-, -, hversion, htable, hepoch, hstatus, hevent⟩ := tableActive_calActivate (calPassed s c) c 0
  refine ⟨?_, ?_, hversion.trans (rd_wr_same ..), htable.trans ?_, hepoch, ?_⟩
  · rw [rb, hstatus, bit_or_clear (by decide)]
    exact bit_and_not_bitW (b := 0) _ (by decide)
  · rw [rb, hstatus]
    exact bit_or_bitW (b := 1) _ (by decide)
  · rw [calStg, calStg, rd64, rd64, rd_calPassed_other (by rw [calStatus]; omega) (by omega) (by omega),
      rd_calPassed_other (by rw [calStatus]; omega) (by omega) (by omega)]
  · rw [hevent]
    exact bit_or_bitW _ calIdx_lt

/-! ### One entry at the swap (R204) -/

/-- The registers that the swap of an entry writes. -/
def calSwapRegs (c : CalUnit) : List Nat := (calBase c + 0x18) :: calActiveRegs c

theorem calSwapRegs_within {a : Nat} (h : a ∈ calSwapRegs c) : (calBase c ≤ a ∧ a < calBase c + 0x40) ∨ a = calEventReg c := by
  simp only [calSwapRegs, calActiveRegs, calStatus, List.mem_cons, List.not_mem_nil, or_false] at h
  omega

/-- What the commit leaves of an entry: an armed one has changed its table, another one stands. -/
def EntrySwapped (s u : State) (c : CalUnit) (e : Word) : Prop :=
  (rb s (calStatus c) 0 = true → rd u (calBase c + 0x18) = rd s (calBase c + 0x14) ∧
    rd u (calBase c + 0x14) = rd s (calBase c + 0x10) ∧ calAct u c = calStg s c ∧ rb u (calStatus c) 0 = false ∧
    rd u (calBase c + 0x1C) = e ∧ bit (rd u (calEventReg c)) (calIdx c) = true) ∧
  (rb s (calStatus c) 0 = false → rd u (calBase c + 0x18) = rd s (calBase c + 0x18) ∧
    rd u (calBase c + 0x14) = rd s (calBase c + 0x14) ∧ rd u (calStatus c) = rd s (calStatus c))

/-- The entry with the version that goes out and, where a job runs with its table, the wait for that job's end. -/
def calRetired (s : State) (c : CalUnit) : State :=
  let s1 := wr s (calBase c + 0x18) (rd s (calBase c + 0x14))
  if calUser s c then setBits s1 (calStatus c) 4 else s1

theorem calRetired_only : OnlyRegs s (calRetired s c) := by
  unfold calRetired
  dsimp only
  split <;> exact ⟨_, rfl⟩

theorem rd_calRetired_other {a : Nat} (h : a ≠ calBase c + 0x18) (hst : a ≠ calStatus c) : rd (calRetired s c) a = rd s a := by
  unfold calRetired
  dsimp only
  split
  · rw [rd_setBits_other _ _ hst, rd_wr_other _ _ h]
  · exact rd_wr_other _ _ h

theorem rd_calRetired_version : rd (calRetired s c) (calBase c + 0x18) = rd s (calBase c + 0x14) := by
  unfold calRetired
  dsimp only
  split
  · rw [rd_setBits_other _ _ (by rw [calStatus]; omega), rd_wr_same]
  · exact rd_wr_same ..

theorem calSwapOne_armed (h : rb s (calStatus c) 0 = true) : calSwapOne e s c = calActivate c e (calRetired s c) := if_pos h

theorem calSwapOne_idle (h : rb s (calStatus c) 0 = false) : calSwapOne e s c = s := if_neg (by simp [h])

theorem calSwapOne_swaps : EntrySwapped s (calSwapOne e s c) c e := by
  refine ⟨fun harmed => ?_, fun hidle => ?_⟩
  · obtain ⟨-, hregs, hversion, htable, hepoch, hstatus, hevent⟩ := tableActive_calActivate (calRetired s c) c e
    have hkept : rd (calActivate c e (calRetired s c)) (calBase c + 0x18) = rd (calRetired s c) (calBase c + 0x18) := by
      refine hregs _ ?_
      simp only [calActiveRegs, calStatus, List.mem_cons, List.not_mem_nil, or_false, not_or]
      have hevt : calBase c + 0x18 ≠ calEventReg c := (calEventReg_outside c).ne (by decide)
      omega
    have hother : ∀ k, k ≠ 4 → k ≠ 0x18 → rd (calRetired s c) (calBase c + k) = rd s (calBase c + k) := fun k h4 h18 =>
      rd_calRetired_other (by omega) (by rw [calStatus]; omega)
    rw [calSwapOne_armed harmed]
    refine ⟨hkept.trans rd_calRetired_version, hversion.trans (hother _ (by decide) (by decide)), htable.trans ?_, ?_, hepoch, ?_⟩
    · rw [calStg, calStg, rd64, rd64, hother _ (by decide) (by decide), hother _ (by decide) (by decide)]
    · rw [rb, hstatus, bit_or_clear (by decide)]
      exact bit_and_not_bitW (b := 0) _ (by decide)
    · rw [hevent]
      exact bit_or_bitW _ calIdx_lt
  · rw [calSwapOne_idle hidle]
    exact ⟨rfl, rfl, rfl⟩

theorem calSwapOne_only : OnlyRegs s (calSwapOne e s c) := by
  cases h : rb s (calStatus c) 0
  · rw [calSwapOne_idle h]
    exact .refl
  · obtain ⟨r, hr⟩ := calRetired_only (s := s) (c := c)
    obtain ⟨r', hr'⟩ := (tableActive_calActivate (calRetired s c) c e).only
    rw [calSwapOne_armed h, hr', hr]
    exact ⟨r', rfl⟩

theorem calSwapOne_regs : SameRegsBut (calSwapRegs c) s (calSwapOne e s c) := by
  intro a ha
  obtain ⟨hretired, hactive⟩ := not_or.mp (List.mem_cons.not.mp ha)
  cases h : rb s (calStatus c) 0
  · rw [calSwapOne_idle h]
  · rw [calSwapOne_armed h, (tableActive_calActivate _ c e).regs a hactive, rd_calRetired_other hretired (List.ne_of_not_mem_cons hactive)]

theorem calSwapOne_places : SamePlaces s (calSwapOne e s c) := by
  refine samePlaces_of_regs calSwapOne_only calSwapOne_regs fun a ha => .inl ?_
  have hlow := calBase_low c
  obtain ⟨hevent, -⟩ := calEventReg_outside c
  rcases calSwapRegs_within ha with h | h <;> omega

/-- No swap takes an event bit away. -/
theorem calSwapOne_event {i : Nat} (h : bit (rd s (calEventReg c)) i = true) : bit (rd (calSwapOne e s d) (calEventReg c)) i = true := by
  cases harmed : rb s (calStatus d) 0
  · rwa [calSwapOne_idle harmed]
  · by_cases hcd : calEventReg c = calEventReg d
    · have hretired : rd (calRetired s d) (calEventReg d) = rd s (calEventReg d) :=
        rd_calRetired_other ((calEventReg_outside d).ne (by decide)).symm ((calEventReg_outside d).ne (by decide)).symm
      rw [calSwapOne_armed harmed, hcd, (tableActive_calActivate _ d e).event, hretired, ← hcd]
      exact bit_or_of_bit _ h
    · rw [calSwapOne_regs (c := d) _ fun hmem => ?_]
      · exact h
      · have hout := (calEventReg_outside c).2 d
        rcases calSwapRegs_within hmem with hin | hin
        · omega
        · exact hcd hin

/-! ### The swap of all entries (R204) -/

/-- The 64 bytes of an entry hold the same. -/
def EntrySame (s t : State) (c : CalUnit) : Prop := ∀ k, k < 0x40 → rd t (calBase c + k) = rd s (calBase c + k)

theorem calSwapOne_same (h : c ≠ d) : EntrySame s (calSwapOne e s d) c := by
  intro k hk
  refine calSwapOne_regs _ fun hmem => ?_
  have hapart := calBase_apart h
  rcases calSwapRegs_within hmem with hin | hin
  · omega
  · exact (calEventReg_outside d).ne hk hin

/-- A swap counts from any state in which the entry stands the same. -/
theorem EntrySwapped.of_before (h : EntrySwapped t u c e) (hs : EntrySame s t c) : EntrySwapped s u c e := by
  have hst : rd t (calStatus c) = rd s (calStatus c) := hs 4 (by decide)
  unfold EntrySwapped at h ⊢
  simpa only [rb, calStg, rd64, hst, hs 0x14 (by decide), hs 0x10 (by decide), hs 0x18 (by decide), hs 8 (by decide), hs 0xC (by decide)] using h

/-- An entry that has been swapped stays so while the others are. -/
theorem EntrySwapped.calSwapOne_other (h : EntrySwapped s t c e) (hcd : c ≠ d) : EntrySwapped s (calSwapOne e t d) c e := by
  have hs : EntrySame t (calSwapOne e t d) c := calSwapOne_same hcd
  have hst : rd (calSwapOne e t d) (calStatus c) = rd t (calStatus c) := hs 4 (by decide)
  obtain ⟨harmed, hidle⟩ := h
  unfold EntrySwapped
  simp only [rb, calAct, rd64, hst, hs 0x14 (by decide), hs 0x18 (by decide), hs 0x1C (by decide), hs 0x20 (by decide), hs 0x24 (by decide)]
  refine ⟨fun ha => ?_, hidle⟩
  obtain ⟨hret, hver, htable, hoff, hepoch, hevent⟩ := harmed ha
  exact ⟨hret, hver, htable, hoff, hepoch, calSwapOne_event hevent⟩

theorem foldl_calSwapOne_swaps {l : List CalUnit} (hl : l.Nodup) (hc : c ∈ l) : EntrySwapped s (l.foldl (calSwapOne e) s) c e := by
  induction l generalizing s with
  | nil => exact absurd hc List.not_mem_nil
  | cons d l ih =>
    obtain ⟨hd, hl⟩ := List.nodup_cons.mp hl
    rw [List.foldl_cons]
    by_cases hcd : c = d
    · subst hcd
      exact List.foldlRecOn (motive := fun t => EntrySwapped s t c e) l _ calSwapOne_swaps fun t ht x hx =>
        ht.calSwapOne_other fun h => hd (h ▸ hx)
    · exact (ih hl ((List.mem_cons.mp hc).resolve_left hcd)).of_before (calSwapOne_same hcd)

theorem nodup_calUnits : calUnits.Nodup := by decide

theorem foldl_calSwapOne_places (l : List CalUnit) : SamePlaces s (l.foldl (calSwapOne e) s) :=
  List.foldlRecOn (motive := SamePlaces s) l _ .refl fun _ ht _ _ => ht.trans calSwapOne_places

theorem foldl_calSwapOne_vis (l : List CalUnit) : (l.foldl (calSwapOne e) s).vis = s.vis :=
  foldl_keep (calSwapOne e) State.vis (fun t x => by
    obtain ⟨r, hr⟩ := calSwapOne_only (s := t) (c := x) (e := e)
    rw [hr]) l s

theorem exec_calSwap_due {x : DWord} (hu : s.up = true) (hdue : s.vis.swapDue = some x) : exec .calSwap s =
    .next (calUnits.foldl (calSwapOne (lo32 x)) { s with vis := { s.vis with swapDue := none } }) := by
  refine (fabric_up s hu : execCalSwap s = _).trans ?_
  simp only [hdue]

theorem exec_calSwap_none (hu : s.up = true) (hnone : s.vis.swapDue = none) : exec .calSwap s = .next s := by
  refine (fabric_up s hu : execCalSwap s = _).trans ?_
  simp only [hnone]

end

/-! ### O28 -/

theorem calibration_tables_staged : ruleCalibrationTablesAreStaged := by
  intro s c hu st err
  have herr : err = calErrReg c := rfl
  refine ⟨fun hrun harmed => ⟨_, exec_calArm_starts hu hrun harmed, rfl⟩, fun hbusy => ⟨_, exec_calArm_busy hu hbusy, herr ▸ calErr_busy⟩,
    fun hrun hok => ⟨_, exec_calCheckEnd_failed hu hrun hok, herr ▸ calCheck_failed⟩,
    fun hrun hok hact => ⟨_, exec_calCheckEnd_armed hu hrun hok hact, herr ▸ calCheck_armed⟩,
    fun hrun hok hact _ => ⟨_, exec_calCheckEnd_active hu hrun hok hact, calCheck_active⟩,
    ⟨_, (fabric_up s hu : execCalDisarm c s = _), rfl⟩,
    fun x i v hidle hdisc => ⟨_, exec_fddPairWrite_idle hu hidle hdisc, rfl⟩,
    fun x i v hbusy => ⟨_, exec_fddPairWrite_busy hu hbusy, ?_, sameRegsBut_errInfo _ _ _ _⟩⟩
  exact rd_errInfo_same s 1 _ (by simp only [R.fddErr, R.fddErrInfo]; omega)

theorem armed_tables_swap : ruleArmedTablesSwapAtTheCommit := by
  intro s x hu hdue
  refine ⟨⟨_, exec_calSwap_due hu hdue, ?_, ?_, fun c hc => ?_⟩, ⟨_, exec_calSwap_none hu rfl, rfl⟩⟩
  · rw [foldl_calSwapOne_vis]
  · exact (foldl_calSwapOne_places _).sameBytes
  · exact (foldl_calSwapOne_swaps nodup_calUnits hc).of_before fun _ _ => rfl

/-- Settles O28: each command is one branch of its meaning; the reads of a check leave the places and the registers below the TT block
(`OnlyNoted`), and at a commit an entry is swapped once, every other swap writing registers of its own entry and setting event bits. -/
theorem calibrationIsStagedAndSwapped : Obligations.CalibrationIsStagedAndSwapped :=
  ⟨calibration_tables_staged, armed_tables_swap⟩

end Sys2Proof.Machine
end

section
/-! SUPPORT. The cursor of a run at its gate: a run replaced, a gate decided, and the tests of an evaluation in their order
(R215 to R218); settles O29. -/

namespace Sys2Proof.Machine
section
variable {s t : State} {g : Graph} {r q : Run}

/-! ### A run replaced, a gate replaced -/

theorem findRun_setRun {x : Run} (h : findRun s q.id = some x) : findRun (setRun s q) q.id = some q := by
  have hpred : ((fun y : Run => y.id == q.id) ∘ fun y => if y.id = q.id then q else y) = fun y => y.id == q.id := by
    funext y
    by_cases hy : y.id = q.id <;> simp [hy]
  have hid : x.id = q.id := by simpa using List.find?_some h
  calc findRun (setRun s q) q.id = (s.fgs.runs.map fun y => if y.id = q.id then q else y).find? fun y => y.id == q.id := rfl
    _ = (findRun s q.id).map fun y => if y.id = q.id then q else y := by rw [List.find?_map, hpred]; rfl
    _ = some q := by rw [h, Option.map_some, if_pos hid]

theorem rd_setRun_dispatched : rd (setRun s q) R.fgsDispatched = rd s R.fgsDispatched := by
  have hstate : R.fgsDispatched ≠ R.fgsGraphState q.graph := by simp only [R.fgsDispatched, R.fgsGraphState]; omega
  unfold setRun syncRuns
  dsimp only
  rw [rd_wf_other _ _ _ _ hstate, rd_wf_other _ _ _ _ hstate, rd_wf_other _ _ _ _ (by decide)]
  rfl

theorem gateRunAt_setGate_same {i : Nat} (f : GateRun → GateRun) (h : i < r.gates.length) :
    gateRunAt (setGate r i f) i = f (gateRunAt r i) := by
  simp [gateRunAt, setGate, h]

theorem runCheck_short (hgoing : r.aborted = false) (hshort : r.cursor < g.ngates) : runCheck s g r = setRun s r := by
  simp [runCheck, hgoing, hshort]

/-! ### A gate decided (R219) -/

theorem signal_fgs (req f : Nat) (n : Word) : (signal s req f n).fgs = s.fgs := by
  unfold signal
  split
  · rfl
  · exact semAddOp_fgs ..

theorem when_fgs (c : Bool) {f : State → State} (h : ∀ t, (f t).fgs = t.fgs) : (when c f s).fgs = s.fgs := by
  unfold when
  split
  · exact h s
  · rfl

/-- The end of a gate counts and signals: the sequencer stands. -/
theorem endGate_fgs (i st flags : Nat) : (endGate s g r i st flags).1.fgs = s.fgs :=
  calc (endGate s g r i st flags).1.fgs = _ := when_fgs _ fun _ => signal_fgs ..
    _ = _ := when_fgs (f := (bump · R.fgsWaitTmo)) _ fun _ => rfl
    _ = s.fgs := when_fgs (f := (bump · R.fgsSkipped)) _ fun _ => rfl

/-- The run with its gate ended: final with the status and flags, SIGNALLED (4) as the gate's signal was given. -/
theorem endGate_run (i st flags : Nat) : ∃ (signalled : Bool) (time : Nat),
    (endGate s g r i st flags).2 = setGate r i fun _ => ⟨.final, st, flags + 4 * signalled.toNat, time⟩ := ⟨_, _, rfl⟩

/-- `r` is a form of a run in flight whose cursor stands before the last gate of its graph. -/
structure OnTheWay (s : State) (g : Graph) (r : Run) : Prop where
  known : ∃ x, findRun s r.id = some x
  going : r.aborted = false
  short : r.cursor + 1 < g.ngates
  listed : r.cursor < r.gates.length

/-- The run with its cursor past its gate, the evaluation of the next not begun. -/
def movedOn (r : Run) : Run := { r with cursor := r.cursor + 1, begun := false, expiry := none }

theorem runCheck_movedOn (h : OnTheWay s g r) (f : GateRun → GateRun) :
    runCheck t g (movedOn (setGate r r.cursor f)) = setRun t (movedOn (setGate r r.cursor f)) := runCheck_short h.going h.short

theorem findRun_setRun_form (h : OnTheWay s g r) (ht : t.fgs = s.fgs) (hid : q.id = r.id) : findRun (setRun t q) r.id = some q := by
  obtain ⟨x, hx⟩ := h.known
  rw [← hid] at hx ⊢
  exact findRun_setRun (x := x) (by rw [findRun, ht]; exact hx)

theorem decideGate_decides (h : OnTheWay s g r) (st : Nat) {flags : Nat} (hflags : flags < 4) :
    gateDecided (decideGate s g r st flags) r.id r.cursor st flags := by
  obtain ⟨signalled, time, hrun⟩ := endGate_run (s := s) (g := g) (r := r) r.cursor st flags
  have hsaved : decideGate s g r st flags = setRun (endGate s g r r.cursor st flags).1
      (movedOn (setGate r r.cursor fun _ => ⟨.final, st, flags + 4 * signalled.toNat, time⟩)) := by
    rw [← runCheck_movedOn h, ← hrun]
    rfl
  have hgate := gateRunAt_setGate_same (r := r) (fun _ => (⟨.final, st, flags + 4 * signalled.toNat, time⟩ : GateRun)) h.listed
  rw [hsaved]
  refine ⟨_, findRun_setRun_form h (endGate_fgs ..) rfl, rfl, ?_, ?_, ?_⟩
  · exact congrArg GateRun.stage hgate
  · exact congrArg GateRun.status hgate
  · calc _ = (flags + 4 * signalled.toNat) % 4 := congrArg (fun x : GateRun => x.flags % 4) hgate
      _ = flags := by omega

/-- A cursor that stays at its gate, whose stage changes. -/
theorem setRun_stage (h : OnTheWay s g r) (ht : t.fgs = s.fgs) (stage : GateStage) :
    ∃ q, findRun (setRun t (setGate r r.cursor fun x => { x with stage := stage })) r.id = some q ∧ q.cursor = r.cursor ∧
      (gateRunAt q r.cursor).stage = stage :=
  ⟨_, findRun_setRun_form h ht rfl, rfl, congrArg GateRun.stage (gateRunAt_setGate_same _ h.listed)⟩

/-! ### Past the wait (R218, R502) -/

theorem queueOf_setQueue_same (u : Nat) (l : List Job) : queueOf (setQueue s u l) u = l ++ (joiningAt s u).take (8 - l.length) :=
  tabGet_set_same ..

theorem enqueueGate_sync (hunit : (gateAt g r.cursor).unit = 0) : enqueueGate s g r = decideGate s g r 0 0 := if_pos hunit

theorem enqueueGate_unpowered (hunit : (gateAt g r.cursor).unit ≠ 0) (hoff : unitPowered s (gateAt g r.cursor).unit = false) :
    enqueueGate s g r = decideGate s g r 0x28 1 := by
  simp [enqueueGate, hunit, hoff]

/-- The jobs in a unit's queue with the cursors that go before a run's and hold for its places. -/
def jobsBefore (s : State) (u : Nat) (r : Run) : Nat := (queueOf s u).length + (holdersBefore s u r).length

theorem enqueueGate_full (hunit : (gateAt g r.cursor).unit ≠ 0) (hon : unitPowered s (gateAt g r.cursor).unit = true)
    (hfull : 8 ≤ jobsBefore s (gateAt g r.cursor).unit r) :
    enqueueGate s g r = setRun s (setGate r r.cursor fun x => { x with stage := .queueHold }) := by
  rw [jobsBefore] at hfull
  simp [enqueueGate, hunit, hon, hfull]

/-- The state whose unit's queue has taken the job of the gate at the cursor. -/
def jobQueued (s : State) (g : Graph) (r : Run) : State :=
  let u := (gateAt g r.cursor).unit
  bump (setQueue s u (queueOf s u ++ [gateJob g r r.cursor])) R.fgsDispatched

theorem enqueueGate_room (h : OnTheWay s g r) (hunit : (gateAt g r.cursor).unit ≠ 0)
    (hon : unitPowered s (gateAt g r.cursor).unit = true) (hroom : jobsBefore s (gateAt g r.cursor).unit r < 8) :
    enqueueGate s g r = setRun (jobQueued s g r) (movedOn (setGate r r.cursor fun x => { x with stage := .queued })) := by
  rw [jobsBefore] at hroom
  rw [← runCheck_movedOn h]
  simp [enqueueGate, hunit, hon, Nat.not_le.mpr hroom, movedOn, setGate, jobQueued]

theorem enqueueGate_enqueues (h : OnTheWay s g r) (hunit : (gateAt g r.cursor).unit ≠ 0)
    (hon : unitPowered s (gateAt g r.cursor).unit = true) (hroom : jobsBefore s (gateAt g r.cursor).unit r < 8)
    (hjoin : joiningAt s (gateAt g r.cursor).unit = []) :
    queueOf (enqueueGate s g r) (gateAt g r.cursor).unit = queueOf s (gateAt g r.cursor).unit ++ [gateJob g r r.cursor] ∧
      rd (enqueueGate s g r) R.fgsDispatched = incSat (rd s R.fgsDispatched) ∧
      ∃ q, findRun (enqueueGate s g r) r.id = some q ∧ q.cursor = r.cursor + 1 ∧ (gateRunAt q r.cursor).stage = .queued := by
  obtain ⟨x, hx⟩ := h.known
  rw [enqueueGate_room h hunit hon hroom]
  refine ⟨?_, ?_, _, findRun_setRun (x := x) hx, rfl, congrArg GateRun.stage (gateRunAt_setGate_same _ h.listed)⟩
  · refine (queueOf_setQueue_same _ _).trans ?_
    rw [hjoin, List.take_nil, List.append_nil]
  · exact rd_setRun_dispatched.trans (rd_bump_same _ _)

/-! ### The tests of an evaluation (R216) -/

theorem afterDep_lost (hlost : needsLost s (gateAt g r.cursor).needs = true) : afterDep s g r = decideGate s g r 0x25 1 := if_pos hlost

theorem afterDep_differs (hhas : needsLost s (gateAt g r.cursor).needs = false) (hpair : pairDiffers s (gateAt g r.cursor).pair = true) :
    afterDep s g r = decideGate s g r 0 1 := by
  simp [afterDep, hhas, hpair]

theorem afterDep_waits (hhas : needsLost s (gateAt g r.cursor).needs = false)
    (hpair : pairDiffers s (gateAt g r.cursor).pair = false) (hsem : (gateAt g r.cursor).waitSem < 4096) :
    afterDep s g r = setRun (startWait s (.gate r.id r.cursor) (gateAt g r.cursor).waitSem (gateAt g r.cursor).waitN
      (gateAt g r.cursor).consume r.expiry) (setGate r r.cursor fun x => { x with stage := .waiting }) := by
  have hnamed : (gateAt g r.cursor).waitSem ≠ 0xFFFF := by omega
  simp [afterDep, hhas, hpair, hnamed, Nat.mod_eq_of_lt hsem]

theorem afterDep_enqueues (hhas : needsLost s (gateAt g r.cursor).needs = false)
    (hpair : pairDiffers s (gateAt g r.cursor).pair = false) (hsem : (gateAt g r.cursor).waitSem = 0xFFFF) :
    afterDep s g r = enqueueGate s g r := by
  simp [afterDep, hhas, hpair, hsem]

theorem depStep_none (hdep : (gateAt g r.cursor).dep = 0xFF) : depStep s g r = afterDep s g r := if_pos hdep

theorem depStep_skipped (hdep : (gateAt g r.cursor).dep ≠ 0xFF) (hfinal : (gateRunAt r (gateAt g r.cursor).dep).stage = .final)
    (hskip : (gateRunAt r (gateAt g r.cursor).dep).flags % 2 = 1) :
    depStep s g r = decideGate s g r (gateRunAt r (gateAt g r.cursor).dep).status 1 := by
  simp [depStep, hdep, hfinal, hskip]

theorem depStep_failed (hdep : (gateAt g r.cursor).dep ≠ 0xFF) (hfinal : (gateRunAt r (gateAt g r.cursor).dep).stage = .final)
    (hran : (gateRunAt r (gateAt g r.cursor).dep).flags % 2 = 0) (hbad : 0x20 ≤ (gateRunAt r (gateAt g r.cursor).dep).status) :
    depStep s g r = decideGate s g r 0x28 1 := by
  simp [depStep, hdep, hfinal, hran, hbad]

/-! ### The start of an evaluation (R215, R216) -/

/-- When the graph's deadline falls for a run. -/
def runDue (s : State) (g : Graph) (r : Run) : Nat := (r.launchDt.getD s.dt.now).toNat + g.deadline

/-- The expiry of the gate at the cursor: the earlier of the deadline and the gate's timeout, of those there are. -/
def gateExpiry (s : State) (g : Graph) (r : Run) : Option Nat :=
  let e := gateAt g r.cursor
  let tmo := s.dt.now.toNat + e.timeout
  if g.deadline = 0 ∧ e.timeout = 0 then none
  else if g.deadline = 0 then some tmo
  else if e.timeout = 0 then some (runDue s g r)
  else some (min (runDue s g r) tmo)

/-- The run whose evaluation of the gate at its cursor has begun. -/
def evaluating (s : State) (g : Graph) (r : Run) : Run :=
  { r with launchDt := some (r.launchDt.getD s.dt.now), begun := true, expiry := gateExpiry s g r }

theorem beginGate_eq : beginGate s g r = if g.deadline ≠ 0 ∧ runDue s g r ≤ s.dt.now.toNat then
    decideGate s g (evaluating s g r) 0x20 1 else depStep s g (evaluating s g r) := rfl

theorem beginGate_late (h : ¬ (g.deadline = 0 ∨ s.dt.now.toNat < runDue s g r)) :
    beginGate s g r = decideGate s g (evaluating s g r) 0x20 1 := by
  rw [beginGate_eq, if_pos (by omega)]

theorem beginGate_inTime (h : g.deadline = 0 ∨ s.dt.now.toNat < runDue s g r) :
    beginGate s g r = depStep s g (evaluating s g r) := by
  rw [beginGate_eq, if_neg (by omega)]

/-- A run keeps its place at a queue when its evaluation begins: the launch DT it is given is the one it was compared by. -/
theorem jobsBefore_evaluating (u : Nat) : jobsBefore s u (evaluating s g r) = jobsBefore s u r := rfl

theorem exec_gateEvaluate_begins (hu : s.up = true) (hm : mayEvaluate s r g) :
    exec (.gateEvaluate r.id []) s = .next (beginGate s g r) := by
  obtain ⟨hrun, hgraph, hgoing, hopen, hshort, -, hidle, horder⟩ := hm
  have hleft : ¬ g.ngates ≤ r.cursor := by omega
  refine (fabric_up s hu : execGateEvaluate r.id [] s = _).trans ?_
  simp [hrun, placeRun, evaluateRun, hgraph, hopen, hgoing, hleft, hidle, horder]

theorem onTheWay_evaluating (hm : mayEvaluate s r g) : OnTheWay s g (evaluating s g r) := by
  obtain ⟨hrun, -, hgoing, -, hshort, hgates, -, -⟩ := hm
  exact ⟨⟨r, hrun⟩, hgoing, hshort, show r.cursor < r.gates.length by omega⟩

end

/-! ### O29 -/

/-- Settles O29: the evaluation of an idle gate is `beginGate`, which is the deadline test before `depStep`, that the DEP test before
`afterDep`, and that the tests of the slots, the pair and the wait before `enqueueGate`; a gate decided at the cursor stands so in the
run of its id. -/
theorem gatesAreEvaluatedInOrder : Obligations.GatesAreEvaluatedInOrder := by
  intro s r g hu hm i e due tmo inTime before run
  have hway := onTheWay_evaluating hm
  have hrun : ∀ {P : State → Prop} {u : State}, beginGate s g r = u → P u → run P := fun hu' hP =>
    ⟨_, (exec_gateEvaluate_begins hu hm).trans (congrArg _ hu'), hP⟩
  have hdep : inTime → e.dep = 0xFF → beginGate s g r = afterDep s g (evaluating s g r) := fun hin hnone =>
    (beginGate_inTime hin).trans (depStep_none hnone)
  refine ⟨fun hlate => hrun (beginGate_late hlate) (decideGate_decides hway _ (by decide)),
    fun hin hnone hlost => hrun ((hdep hin hnone).trans (afterDep_lost hlost)) (decideGate_decides hway _ (by decide)),
    fun hin hnone hhas hpair => hrun ((hdep hin hnone).trans (afterDep_differs hhas hpair)) (decideGate_decides hway _ (by decide)),
    fun hin hnone hhas hpair => ?_,
    fun d hd hin hgate hfinal hskip => ?_, fun d hd hin hgate hfinal hran hbad => ?_⟩
  · have hqueue : e.waitSem = 0xFFFF → beginGate s g r = enqueueGate s g (evaluating s g r) := fun hsem =>
      (hdep hin hnone).trans (afterDep_enqueues hhas hpair hsem)
    refine ⟨fun hsem => hrun ((hdep hin hnone).trans (afterDep_waits hhas hpair hsem))
        ⟨⟨_, rfl, rfl, rfl, rfl, rfl, rfl⟩, rfl, setRun_stage hway rfl .waiting⟩,
      fun hsem hsync => hrun ((hqueue hsem).trans (enqueueGate_sync hsync)) (decideGate_decides hway _ (by decide)),
      fun hsem hunit hoff => hrun ((hqueue hsem).trans (enqueueGate_unpowered hunit hoff)) (decideGate_decides hway _ (by decide)),
      fun hsem hunit hon hroom hjoin => hrun (hqueue hsem) (enqueueGate_enqueues hway hunit hon hroom hjoin),
      fun hsem hunit hon hfull => hrun ((hqueue hsem).trans (enqueueGate_full hunit hon hfull))
        ⟨rfl, setRun_stage hway rfl .queueHold⟩⟩
  · subst hd
    exact hrun ((beginGate_inTime hin).trans (depStep_skipped hgate hfinal hskip)) (decideGate_decides hway _ (by decide))
  · subst hd
    exact hrun ((beginGate_inTime hin).trans (depStep_failed hgate hfinal hran hbad)) (decideGate_decides hway _ (by decide))

end Sys2Proof.Machine
end

section
/-! SUPPORT. A unit at the head of its queue: what the sequencer notes of a start, what each unit takes, and a job refused
(R218, R502); settles O30. -/

namespace Sys2Proof.Machine
section
variable {s t : State} {j : Job} {o : Owner}

/-! ### The state a unit takes its job in -/

theorem jobBlock_setQueue (u : Nat) (l : List Job) : jobBlock (setQueue s u l) j = jobBlock s j := by
  have hbytes : ∀ n a, ldBytes (setQueue s u l) a n = ldBytes s a n := by
    intro n
    induction n with
    | zero => exact fun _ => rfl
    | succ n ih => exact fun a => congrArg₂ List.cons (sameBytes_of_regs rfl rfl rfl rfl a) (ih _)
  unfold jobBlock
  split
  · exact hbytes ..
  all_goals rfl

/-- The mark that a gate's job runs is in the runs and the registers that show them. -/
theorem markRunning_only : ∃ regs runs, markRunning s o = { s with regs := regs, fgs := { s.fgs with runs := runs } } := by
  unfold markRunning
  repeat' split
  all_goals exact ⟨_, _, rfl⟩

theorem queueOf_markRunning (u : Nat) : queueOf (markRunning s o) u = queueOf s u := by
  obtain ⟨_, _, h⟩ := markRunning_only (s := s) (o := o)
  rw [h]
  rfl

theorem startedAt_markRunning (u : Nat) : startedAt (markRunning s o) u = startedAt s u := by
  obtain ⟨_, _, h⟩ := markRunning_only (s := s) (o := o)
  rw [h]
  rfl

/-! ### What each unit takes -/

theorem visJob_setVisJob_same (u : Nat) (k : Option Job) : visJob (setVisJob s u k) u = k := tabGet_set_same ..

theorem startedAt_addStarted_same (u : Nat) : startedAt (addStarted s u j) u = startedAt s u ++ [j] := tabGet_set_same ..

/-- A vision engine takes a job by what it latches, and leaves the sequencer alone. -/
theorem visStart_takes (v : VisionUnit) (hunit : j.unit = visCode v) :
    (∃ l, visJob (visStart s v j) (visCode v) = some { j with latch := l }) ∧ (visStart s v j).fgs = s.fgs := by
  rw [← hunit]
  cases v with
  | fdd e =>
    simp only [visStart, fddStart]
    split <;> exact ⟨⟨_, visJob_setVisJob_same _ _⟩, rfl⟩
  | tme e => exact ⟨⟨_, visJob_setVisJob_same _ _⟩, rfl⟩
  | sde =>
    simp only [visStart]
    split <;> exact ⟨⟨_, visJob_setVisJob_same _ _⟩, rfl⟩
  | pje => exact ⟨⟨_, visJob_setVisJob_same _ _⟩, rfl⟩

/-- The start of job `j` at unit `v`. -/
def startAt (v : UnitId) (s : State) (j : Job) : State :=
  match v with
  | .vision v => visStart s v j
  | .tfu => tfuStart s j
  | .mst => addStarted (setBits s R.mstStatus 2) 0x15 j
  | .prs => addStarted (setBits s R.prsStatus 2) 0x14 j
  | .tiles => addStarted s 0x10 j
  | .copyGroup _ => addStarted s 0x11 j
  | .lse => addStarted s 0x13 j

theorem queueOf_startAt (v : UnitId) (u : Nat) (hunit : j.unit = unitCode v) : queueOf (startAt v s j) u = queueOf s u := by
  cases v with
  | vision v => exact congrArg (fun f : Fgs => tabGet [] f.queues u) (visStart_takes v hunit).2
  | _ => rfl

/-- The head of a queue taken off, its run marked: the state in which the unit starts it. -/
def headTaken (s : State) (v : UnitId) (j : Job) (rest : List Job) : State := markRunning (setQueue s (unitCode v) rest) j.owner

theorem queueOf_headTaken (v : UnitId) (rest : List Job) :
    queueOf (headTaken s v j rest) (unitCode v) = rest ++ (joiningAt s (unitCode v)).take (8 - rest.length) :=
  (queueOf_markRunning _).trans (queueOf_setQueue_same _ _)

theorem startedAt_headTaken (v : UnitId) (rest : List Job) (u : Nat) : startedAt (headTaken s v j rest) u = startedAt s u :=
  startedAt_markRunning _

end

/-! ### The command -/

section
variable {s : State} {v : UnitId} {j : Job} {rest : List Job}

theorem exec_unitJobStart_starts (hu : s.up = true) (hq : queueOf s (unitCode v) = j :: rest)
    (hheld : engineHeld s (unitCode v) = false) (hdead : engineDead s (unitCode v) = false) (hidle : unitIdle s v j = true)
    (hready : unitReady s j.unit = true) :
    exec (.unitJobStart v) s = .next (startAt v (headTaken s v j rest) { j with block := jobBlock s j }) := by
  have hready' : unitReady (setQueue s (unitCode v) rest) j.unit = true := hready
  refine (fabric_up s hu : execUnitJobStart v s = _).trans ?_
  simp only [hq, hidle, hheld, hready', hdead, jobBlock_setQueue, Bool.not_true, Bool.or_false, Bool.false_eq_true, if_false]
  cases v <;> rfl

theorem exec_unitJobStart_refuses (hu : s.up = true) (hq : queueOf s (unitCode v) = j :: rest)
    (hheld : engineHeld s (unitCode v) = false) (hidle : unitIdle s v j = true) (hready : unitReady s j.unit = false) :
    exec (.unitJobStart v) s = .next (refuseWork (setQueue s (unitCode v) rest) j.owner) := by
  have hready' : unitReady (setQueue s (unitCode v) rest) j.unit = false := hready
  refine (fabric_up s hu : execUnitJobStart v s = _).trans ?_
  simp [hq, hidle, hheld, hready']

theorem exec_unitJobStart_busy (hu : s.up = true) (hq : queueOf s (unitCode v) = j :: rest) (hbusy : unitIdle s v j = false) :
    exec (.unitJobStart v) s = .next s := by
  refine (fabric_up s hu : execUnitJobStart v s = _).trans ?_
  simp [hq, hbusy]

/-- A descriptor's job that is refused ends it with ERR_ABORTED at once, where no store of it is held. -/
theorem refuseWork_descriptor {d : Nat} (hacked : unacked s (.descriptor d) = false) :
    refuseWork s (.descriptor d) = finishNow s (.descriptor d) 0x28 [] := by
  simp [refuseWork, finish, hacked]

theorem mem_descs_finishNow {d st : Nat} {res : List Byte} {x : Desc} (hx : x ∈ s.hif.descs) (hid : x.id = d) :
    { x with stage := .ended, status := st, result := padTo 16 res, endDt := s.dt.now } ∈
      (finishNow s (.descriptor d) st res).hif.descs :=
  List.mem_map.mpr ⟨x, hx, if_pos hid⟩

end

/-! ### O30 -/

/-- Settles O30: the start takes the head off its queue with `setQueue`, marks its run and hands the job to the unit (`startAt`), which
files it as running or started; a refusal of a descriptor's job is its end. -/
theorem unitsTakeJobsFromTheirQueues : Obligations.UnitsTakeJobsFromTheirQueues := by
  intro s v j rest hu hq hheld hdead
  refine ⟨fun hidle hready hunit => ⟨_, exec_unitJobStart_starts hu hq hheld hdead hidle hready, ?_, ?_⟩,
    fun d x howner hx hid hacked hidle hready => ⟨_, exec_unitJobStart_refuses hu hq hheld hidle hready, ?_⟩,
    fun hbusy => ⟨_, exec_unitJobStart_busy hu hq hbusy, rfl⟩⟩
  · rw [queueOf_startAt v _ (j := { j with block := jobBlock s j }) hunit, queueOf_headTaken]
  · have htaken (u : Nat) (k : Job) : startedAt (headTaken s v j rest) u ++ [k] = startedAt s u ++ [k] := by
      rw [startedAt_headTaken]
    cases v with
    | vision v =>
      obtain ⟨l, hl⟩ := (visStart_takes (s := headTaken s (.vision v) j rest) (j := { j with block := jobBlock s j }) v hunit).1
      exact ⟨_, hl, rfl, rfl, rfl⟩
    | tfu => exact ⟨_, (startedAt_addStarted_same _).trans (htaken _ _)⟩
    | tiles | copyGroup _ | lse | prs | mst => exact (startedAt_addStarted_same _).trans (htaken _ _)
  · have hacked' : unacked (setQueue s (unitCode v) rest) (.descriptor d) = false := howner ▸ hacked
    rw [howner, refuseWork_descriptor hacked']
    exact ⟨queueOf_setQueue_same _ _, _, mem_descs_finishNow hx hid, hid, rfl, rfl⟩

end Sys2Proof.Machine
end

section
/-! SUPPORT. Any store by the bytes it changes, registers that stand beside memory's errors and the redirect table, and the end of a
gate's job (R20, R85, R255, R262, R263). -/

namespace Sys2Proof.Machine
section
variable {s t u : State} {a n x : Nat} {l : List Byte} {o : Owner}

/-! ### The bytes that a store changes (R20, R262, R263) -/

theorem physAddr_of_redirect (h : ∀ k, k < 68 → rd t (R.memRedir k) = rd s (R.memRedir k)) (x : Nat) : physAddr t x = physAddr s x := by
  unfold physAddr
  split
  case isTrue hx => rw [h _ (by omega)]
  case isFalse => rfl

/-- A byte stored is held, refused or placed: an address that is neither its own nor reaches its place reads as before. -/
theorem ldByte_stByte_other (b : Byte) (hne : x ≠ a) (hplace : physAddr s x ≠ physAddr s a) : ldByte (stByte s a b) x = ldByte s x := by
  unfold stByte
  split
  · rfl
  split
  · have hfind : (s.heldWrites ++ [(⟨s.fresh, a, b⟩ : HeldByte)]).reverse.find? (fun e => e.addr == x) =
        s.heldWrites.reverse.find? fun e => e.addr == x := by simp [Ne.symm hne]
    simp only [ldByte, hfind]
    rfl
  split
  · exact onlyNoted_glideErr.places.sameBytes x
  · have hout : tabGet 0 (stPhys s (physAddr s a) b).mem (physAddr s x) = tabGet 0 s.mem (physAddr s x) :=
      tabGet_set_other _ _ _ _ hplace
    have hphys : physAddr (stPhys s (physAddr s a) b) x = physAddr s x := rfl
    simp only [ldByte, hphys, hout]
    rfl

theorem ldByte_stAll_other (h : ∀ i, i < l.length → x ≠ a + i ∧ physAddr s x ≠ physAddr s (a + i)) :
    ldByte (stAll s a l) x = ldByte s x := by
  induction l generalizing s a with
  | nil => rfl
  | cons b l ih =>
    have hphys (y : Nat) : physAddr (stByte s a b) y = physAddr s y :=
      physAddr_of_redirect (fun k hk => (rd_stAll_redir hk : rd (stAll s a [b]) _ = _)) y
    obtain ⟨hne, hplace⟩ := h 0 (Nat.succ_pos _)
    refine (ih fun i hi => ?_).trans (ldByte_stByte_other b hne hplace)
    rw [hphys, hphys, show a + 1 + i = a + (i + 1) by omega]
    exact h (i + 1) (Nat.succ_lt_succ hi)

/-- A store changes no byte but its own, wherever it goes. -/
theorem onlyBytes_stBytes : OnlyBytes s (stBytes s a l) a l.length := fun x _ hx =>
  (sameBytes_of_redirect (fun _ hk => (rd_stBytes_redir hk).trans (rd_stAll_redir hk).symm) stBytes_mem_eq stBytes_heldWrites_eq
    (by simp) x : ldByte (stBytes s a l) x = ldByte (stAll s a l) x).trans (ldByte_stAll_other hx)

theorem OnlyBytes.after (h : OnlyBytes s t a n) (k : SamePlaces t u) : OnlyBytes s u a n :=
  fun x hsem hx => (k.sameBytes x).trans (h x hsem hx)

theorem OnlyBytes.before (k : SamePlaces s t) (h : OnlyBytes t u a n) : OnlyBytes s u a n := fun x hsem hx =>
  (h x hsem fun i hi => by simpa only [physAddr_of_redirect k.redirect] using hx i hi).trans (k.sameBytes x)

theorem OnlyBytes.none (a n : Nat) : OnlyBytes s s a n := fun _ _ _ => rfl

/-! ### Registers outside the redirect table (R262) -/

/-- `t` is `s` but for registers outside the redirect table. -/
structure RegsAside (s t : State) : Prop where
  only : OnlyRegs s t
  redirect : ∀ k, k < 68 → rd t (R.memRedir k) = rd s (R.memRedir k)

namespace RegsAside

theorem refl : RegsAside s s := ⟨.refl, fun _ _ => rfl⟩

theorem wr (h : RegsAside s t) (ha : ∀ k, k < 68 → R.memRedir k ≠ a) (v : Word) : RegsAside s (wr t a v) :=
  ⟨h.only.wr _ _, fun k hk => (rd_wr_other _ _ (ha k hk)).trans (h.redirect k hk)⟩

theorem trans (h : RegsAside s t) (k : RegsAside t u) : RegsAside s u := by
  obtain ⟨⟨r, rfl⟩, hr⟩ := h
  obtain ⟨⟨r', rfl⟩, hr'⟩ := k
  exact ⟨⟨r', rfl⟩, fun i hi => (hr' i hi).trans (hr i hi)⟩

theorem ttEvent (h : RegsAside s t) (n b : Nat) : RegsAside s (ttEvent t n b) :=
  h.wr (fun k hk => by simp only [R.memRedir, R.ttEvent]; omega) _

theorem setTtState (h : RegsAside s t) (n v : Nat) : RegsAside s (setTtState t n v) :=
  h.wr (fun k hk => by simp only [R.memRedir, R.ttStatus]; omega) _

theorem places (h : RegsAside s t) : SamePlaces s t := by
  obtain ⟨⟨r, rfl⟩, hr⟩ := h
  exact ⟨hr, rfl, rfl, rfl, rfl, rfl⟩

end RegsAside

/-! ### Registers below the MEM block (R255) -/

/-- A register below the MEM block that counts no error of memory. -/
def Uncounted (a : Nat) : Prop := a < 0x180000 ∧ ∀ k, a ≠ R.ttEccCorr k

theorem rd_corrected_uncounted (v : Nat) (ha : Uncounted a) : rd (corrected s v) a = rd s a := by
  obtain ⟨hlow, hcount⟩ := ha
  by_cases hv : gdrBase ≤ v
  · exact rd_corrected_of_gdr hv (by omega)
  · rw [corrected, if_neg hv]
    repeat' split
    · exact rd_bump_other s (by simp only [R.lseMemEccCorr]; omega)
    · exact rd_bump_other s (by simp only [R.memSlabEccCorr]; omega)
    · exact rd_bump_other s (hcount _)

theorem rd_uncorrectable_below (v : Nat) (ha : a < 0x180000) : rd (uncorrectable s v) a = rd s a := by
  by_cases hv : gdrBase ≤ v
  · exact rd_uncorrectable_of_gdr hv (by omega)
  · rw [uncorrectable, if_neg hv]
    repeat' split
    · exact rd_bump_other s (by simp only [R.lseMemEccUncorr]; omega)
    · exact rd_bump_other s (by simp only [R.memSlabEccUncorr]; omega)
    · rfl

theorem rd_retrain_below (c : Nat) (ok : Bool) (ha : a < 0x190000) : rd (retrain s c ok) a = rd s a := by
  have hheld : rd (setBits (bump s R.gdrRetrainCnt) (R.gdrChStatus c) 2) a = rd s a := by
    rw [rd_setBits_other _ _ (by simp only [R.gdrChStatus]; omega), rd_bump_other _ (by simp only [R.gdrRetrainCnt]; omega)]
  unfold retrain
  dsimp only
  split
  · exact hheld
  · rw [rd_setBits_other _ _ (by simp only [R.gdrEvent]; omega), hheld]

theorem rd_edcMeet_below (w : Bool) (p : Nat) (e : Nat × Nat) (ha : a < 0x190000) : rd (edcMeet w p n s e) a = rd s a := by
  have hevent (t : State) (m : Word) : rd (setBits t R.gdrEvent m) a = rd t a := rd_setBits_other t m (by simp only [R.gdrEvent]; omega)
  have hmet (i j : Nat) : rd (wf (bumpN { s with edc := tabSet 0 s.edc e.1 0 } R.gdrEdcRetry i) (R.gdrChStatus e.1) 31 16 j) a = rd s a := by
    rw [rd_wf_other _ _ _ _ (by simp only [R.gdrChStatus]; omega), rd_bumpN_other _ _ (by simp only [R.gdrEdcRetry]; omega)]
    rfl
  unfold edcMeet
  dsimp only [drawNat]
  split
  · rfl
  · repeat' split
    · exact (hevent _ 4).trans ((rd_retrain_below _ _ ha).trans (hmet _ _))
    · exact (hevent _ 4).trans ((rd_retrain_below _ _ ha).trans (hmet _ _))
    · exact (rd_retrain_below _ _ ha).trans (hmet _ _)
    · exact hmet _ _

theorem rd_noteRead_uncounted (d : Nat) (ha : Uncounted a) : rd (noteRead s d n) a = rd s a := by
  have hlow := ha.1
  unfold noteRead
  dsimp only
  rw [foldl_keep uncorrectable (fun t => rd t a) fun t v => rd_uncorrectable_below v hlow,
    foldl_keep corrected (fun t => rd t a) fun t v => rd_corrected_uncounted v ha,
    foldl_keep (edcMeet false (physAddr s d) n) (fun t => rd t a) fun t e => rd_edcMeet_below false _ e (by omega)]

theorem rd_glideErr_below (ha : a < 0x180000) : rd (glideErr s) a = rd s a :=
  rd_errInfo_other { s with fresh := s.fresh + 1 } 3 _ (by simp only [R.memErr]; omega) (by simp only [R.memErrInfo]; omega)

theorem rd_noteReads_uncounted (rs : List (Nat × Nat)) (ha : Uncounted a) : rd (noteReads s rs) a = rd s a := by
  induction rs generalizing s with
  | nil => rfl
  | cons r rs ih =>
    unfold noteReads
    repeat' split
    · exact rd_glideErr_below ha.1
    · exact rd_noteRead_uncounted _ ha
    · exact ih.trans (rd_noteRead_uncounted _ ha)

theorem rd_noteWrite_uncounted (p : Nat) (ha : Uncounted a) : rd (noteWrite s p n) a = rd s a := by
  have hlow := ha.1
  unfold noteWrite
  dsimp only
  rw [foldl_keep (edcMeet true p n) (fun t => rd t a) fun t e => rd_edcMeet_below true p e (by omega)]
  exact (rd_foldl_of_mem _ (fun v _ t => rd_uncorrectable_below v hlow) _).trans
    (rd_foldl_of_mem _ (fun v _ t => rd_corrected_uncounted v ha) _)

theorem rd_stBytes_uncounted (d : Nat) (l : List Byte) (ha : Uncounted a) : rd (stBytes s d l) a = rd s a := by
  have hall := rd_stAll_low s d l ha.1
  unfold stBytes
  dsimp only
  repeat' split
  · exact hall
  · exact hall
  · exact hall
  · exact (rd_noteWrite_uncounted _ ha).trans hall

theorem rd_postEvent_uncounted (d : DWord) (c i : Nat) (l : List Byte) (ha : Uncounted a) : rd (postEvent s d c i l) a = rd s a := by
  have hlow := ha.1
  have hhost (t : State) (h : Nat) (b : List Byte) : rd (hostWrite t h b) a = rd t a := by
    unfold hostWrite
    split
    · exact rd_stBytes_uncounted _ _ ha
    · rfl
  have hseq : rd (wr { s with evtNext := s.evtNext + 1 } R.hifEvtSeq s.evtNext) a = rd s a :=
    rd_wr_other _ _ (by simp only [R.hifEvtSeq]; omega)
  unfold postEvent
  dsimp only
  split
  · rw [rd_msixSend_low _ _ (by omega), hhost, hseq]
  · rw [rd_bump_other _ (by simp only [R.hifEvtDrop]; omega), hseq]

/-! ### The end of a gate's job (R85, R150, R219, R263) -/

theorem samePlaces_issued : SamePlaces t (issued o s t) := ⟨fun _ _ => rfl, rfl, rfl, rfl, rfl, rfl⟩

/-- The reads of a job's inputs leave the sequencer, the tiles and the copy engines' state. -/
theorem noteReads_stands (rs : List (Nat × Nat)) :
    (noteReads s rs).fgs = s.fgs ∧ (noteReads s rs).tiles = s.tiles ∧ (noteReads s rs).safe = s.safe := by
  induction rs generalizing s with
  | nil => exact ⟨rfl, rfl, rfl⟩
  | cons r rs ih =>
    unfold noteReads
    repeat' split
    · simp
    · simp
    · simpa using ih (s := noteRead s r.1 r.2)

section
variable {r g st : Nat}

/-- The report of a gate's job is in the sequencer's lists and the deferred completions; what is started stays. -/
theorem report_gate_only (s : State) (r g st : Nat) :
    ∃ f m, report s (.gate r g) st = { s with fgs := f, memx := m } ∧ f.started = s.fgs.started := by
  unfold report finish
  split
  · exact ⟨_, _, rfl, rfl⟩
  · exact ⟨_, _, rfl, rfl⟩

theorem samePlaces_report_gate : SamePlaces s (report s (.gate r g) st) := by
  obtain ⟨f, m, h, -⟩ := report_gate_only s r g st
  rw [h]
  exact ⟨fun _ _ => rfl, rfl, rfl, rfl, rfl, rfl⟩

/-- A gate's job that is reported where reports and deferred completions are those of `s` ends. -/
theorem ends_report_gate (hreports : t.fgs.reports = s.fgs.reports) (hdeferred : t.memx.deferred = s.memx.deferred) :
    ends s (report t (.gate r g) st) (.gate r g) st := by
  unfold report finish
  split
  case isTrue hheld =>
    refine ⟨fun hfree => absurd (hheld : unacked t _ = true) (by simp [show unacked t _ = false from hfree]), fun _ => ⟨hreports, ?_⟩⟩
    exact congrArg (· ++ _) hdeferred
  case isFalse hfree =>
    exact ⟨fun _ => congrArg (· ++ _) hreports, fun hheld => absurd hheld hfree⟩

end
end
end Sys2Proof.Machine
end

section
/-! SUPPORT. The start and the end of a tile job (R241 to R245, R251); settles O32. -/

namespace Sys2Proof.Machine

/-! ### The start (R241, R242, R245) -/

section
variable {s : State} {j : Job} {rest : List Job} {p : TileProg}

section
variable (hu : s.up = true) (hstarted : startedAt s 0x10 = j :: rest)
include hu hstarted

theorem exec_tileRun_waits (hmay : tileMayStart s j.ctx j.block = false) : exec .tileRun s = .next s := by
  refine (fabric_up s hu : execTileRun s = _).trans ?_
  simp [hstarted, hmay]

theorem exec_tileRun_starts (hmay : tileMayStart s j.ctx j.block = true) (hprog : progOf s j.ctx (rec8 j.block 2 2) = some p)
    (hok : tileBlockOk s j.block p = true) : exec .tileRun s = .next (tileStart (setStarted s 0x10 rest) j p) := by
  refine (fabric_up s hu : execTileRun s = _).trans ?_
  simp [hstarted, hmay, hprog, hok]

theorem exec_tileRun_refuses (hmay : tileMayStart s j.ctx j.block = true) (hbad : progOf s j.ctx (rec8 j.block 2 2) = none ∨
    ∃ p, progOf s j.ctx (rec8 j.block 2 2) = some p ∧ tileBlockOk s j.block p = false) :
    exec .tileRun s = .next (tileRefuse (setStarted s 0x10 rest) j) := by
  refine (fabric_up s hu : execTileRun s = _).trans ?_
  obtain hnone | ⟨p, hprog, hok⟩ := hbad
  · simp [hstarted, hmay, hnone]
  · simp [hstarted, hmay, hprog, hok]

end

theorem startedAt_setStarted_same (u : Nat) (js : List Job) : startedAt (setStarted s u js) u = js := tabGet_set_same ..

/-- The tiles of a job that starts show it in registers alone; the reads of its slots leave the sequencer. -/
theorem tileStart_fgs : (tileStart s j p).fgs = s.fgs := by
  unfold tileStart
  dsimp only
  rw [foldl_keep _ State.fgs fun u l => by split <;> simp [setTtState]]
  exact (noteReads_stands _).1

/-- The job that starts joins the running ones with every pass of its program to come. -/
theorem tileStart_running : ∃ t, (tileStart s j p).tiles.running = s.tiles.running ++ [t] ∧ t.id = s.tiles.nextJob ∧ t.job = j ∧
    t.left = p.passes ∧ t.passes = 0 ∧ t.startDt = s.dt.now ∧ (rec8 j.block 1 1 / 2 % 2 = 1 → t.seed = rec8 j.block 4 2) ∧
    ((∀ l ∈ p.tiles, tileOf s l ≠ none) → badData s [(p.slotBase + 512 * rec8 j.block 32 2, 512 * rec8 j.block 34 2)] = false →
      t.status = none) := by
  unfold tileStart
  dsimp only
  rw [foldl_keep _ State.tiles fun u l => by split <;> simp [setTtState]]
  refine ⟨_, rfl, rfl, rfl, rfl, rfl, rfl, fun hseed => if_pos hseed, fun htiles hgood => ?_⟩
  have hheld : (p.tiles.any fun l => (tileOf s l).isNone) = false := by
    simpa [Option.isNone_iff_eq_none] using htiles
  simp [hgood, hheld]

/-- A refusal changes the status byte of the job's record, and ends the job. -/
theorem tileRefuse_refuses {r g : Nat} (howner : j.owner = .gate r g) :
    startedAt (tileRefuse s j) 0x10 = startedAt s 0x10 ∧ (tileRefuse s j).tiles = s.tiles ∧ ends s (tileRefuse s j) j.owner 0x23 ∧
      OnlyBytes s (tileRefuse s j) (rec8 j.block 24 8 + 13) 1 := by
  have hstored : ∃ u, tileRefuse s j = report u (.gate r g) 0x23 ∧ u.fgs = s.fgs ∧ u.tiles = s.tiles ∧
      u.memx.deferred = s.memx.deferred ∧ OnlyBytes s u (rec8 j.block 24 8 + 13) 1 := by
    refine ⟨_, congrArg (report _ · 0x23) howner, ?_⟩
    split
    · exact ⟨by simp [jobStore, issued], by simp [jobStore, issued], by simp [jobStore, issued], onlyBytes_stBytes.after samePlaces_issued⟩
    · exact ⟨rfl, rfl, rfl, .none _ _⟩
  obtain ⟨u, hrefuse, hfgs, htiles, hdeferred, hbytes⟩ := hstored
  obtain ⟨f, m, hreport, hkept⟩ := report_gate_only u r g 0x23
  refine ⟨?_, ?_, ?_, ?_⟩
  · rw [hrefuse, hreport]
    exact congrArg (tabGet [] · 0x10) (hkept.trans (congrArg Fgs.started hfgs))
  · rw [hrefuse, hreport]
    exact htiles
  · rw [hrefuse, howner]
    exact ends_report_gate (congrArg Fgs.reports hfgs) hdeferred
  · rw [hrefuse]
    exact hbytes.after samePlaces_report_gate

end

/-- A block is held against its program with the started jobs as they are: taking the job from them changes neither what the slots
read nor where tiles lie, nor any byte. -/
theorem tile_jobs_start : ruleTileJobsStart := by
  intro s j rest hu hstarted
  refine ⟨fun p hmay hprog hok => ⟨_, exec_tileRun_starts hu hstarted hmay hprog hok, ?_, tileStart_running⟩,
    fun r g hmay howner hbad => ⟨_, exec_tileRun_refuses hu hstarted hmay hbad, ?_⟩,
    fun hmay => ⟨s, exec_tileRun_waits hu hstarted hmay, rfl⟩⟩
  · rw [startedAt, tileStart_fgs]
    exact startedAt_setStarted_same _ _
  · obtain ⟨hrest, htiles, hends, hbytes⟩ := tileRefuse_refuses (s := setStarted s 0x10 rest) howner
    exact ⟨hrest.trans (startedAt_setStarted_same _ _), htiles, hends,
      .before ⟨fun _ _ => rfl, rfl, rfl, rfl, rfl, rfl⟩ hbytes⟩

/-! ### The end (R239, R240, R243 to R245) -/

section
variable {s v : State} {t : TileJob} {id : Nat}

theorem length_tileRecord (st c : Nat) (moved : Bool) : (tileRecord s t st c moved).length = 64 := by
  simp [tileRecord, leBytes_length]

/-- Tiles that go back to IDLE change registers of theirs alone. -/
theorem regsAside_freeTiles (err : Bool) : RegsAside s (freeTiles s t err) := by
  unfold freeTiles
  refine List.foldlRecOn _ _ .refl fun u hkept l _ => ?_
  split
  case h_2 => exact hkept
  case h_1 n _ =>
    have herr : RegsAside s (if err then ttEvent u n 0 else u) := by
      split
      · exact hkept.ttEvent _ _
      · exact hkept
    dsimp only
    generalize (if err then ttEvent u n 0 else u) = w at herr ⊢
    split
    · exact herr.setTtState _ _
    · exact herr

/-- The stores of a job's end: the slots to commit, the record, the monitors where the job has them (R239, R240, R243). -/
def endStored (s : State) (t : TileJob) (st : Nat) (commit : Bool) : State :=
  let s1 := if commit then stBytes s (t.p.slotBase + 512 * t.first) t.slots else s
  let s2 := stBytes s1 (rec8 t.job.block 24 8)
    (tileRecord s t st (if commit then rec8 t.job.block 34 2 else 0) (t.p.tiles.any fun l => remapped s l))
  if rec8 t.job.block 1 1 % 2 = 1 then
    stBytes s2 (rec8 t.job.block 24 8 + 64) (((List.range t.p.monitored).map fun ch => monBytes (tabGet mon0 t.mons ch)).flatten)
  else s2

/-- The stores issued, the saturation event, the tiles back to IDLE: the state in which the job leaves and reports. -/
def endNoted (s : State) (t : TileJob) (st : Nat) (commit : Bool) : State :=
  let s3 := issued t.job.owner s (endStored s t st commit)
  freeTiles (if t.p.satBudget < t.satRq then ttEvent s3 t.lastTile 1 else s3) t (decide (0x20 ≤ st))

theorem tileEnd_eq (st : Nat) (c : Bool) :
    tileEnd s t st c = report (dropTileJob (endNoted s t st c) t.id) t.job.owner st := rfl

theorem endStored_stands (st : Nat) (c : Bool) : (endStored s t st c).fgs = s.fgs ∧ (endStored s t st c).memx = s.memx := by
  unfold endStored
  dsimp only
  repeat' split
  all_goals simp

theorem onlyBytes_endStored (st : Nat) (hmon : rec8 t.job.block 1 1 % 2 = 0) :
    OnlyBytes s (endStored s t st false) (rec8 t.job.block 24 8) 64 := by
  rw [endStored, if_neg (by omega), ← length_tileRecord (s := s) (t := t) st 0 (t.p.tiles.any fun l => remapped s l)]
  exact onlyBytes_stBytes

/-- After the stores the end of a job changes registers of the tiles, and whose the held stores are. -/
theorem regsAside_endNoted (st : Nat) (c : Bool) :
    RegsAside (issued t.job.owner s (endStored s t st c)) (endNoted s t st c) := by
  unfold endNoted
  dsimp only
  split
  · exact (RegsAside.refl.ttEvent _ _).trans (regsAside_freeTiles _)
  · exact regsAside_freeTiles _

theorem endNoted_stands (st : Nat) (c : Bool) : (endNoted s t st c).fgs = s.fgs ∧
    (endNoted s t st c).memx.deferred = s.memx.deferred := by
  obtain ⟨r, hr⟩ := (regsAside_endNoted (s := s) (t := t) st c).only
  obtain ⟨hfgs, hmemx⟩ := endStored_stands (s := s) (t := t) st c
  rw [hr]
  exact ⟨hfgs, (congrArg Mem.deferred hmemx :)⟩

theorem tileJob_dropTileJob : tileJob (dropTileJob s id) id = none := by
  simp [tileJob, dropTileJob]

theorem id_of_tileJob (h : tileJob s id = some t) : t.id = id := by
  simpa using List.find?_some h

/-- The end of a gate's job: it leaves the running jobs and ends with its status. -/
theorem tileEnd_gone {r g : Nat} (hjob : tileJob s id = some t) (howner : t.job.owner = .gate r g) (st : Nat) (c : Bool) :
    let u := tileEnd s t st c
    (tileJob u id = none ∧ ends s u t.job.owner st) ∧
      (c = false → rec8 t.job.block 1 1 % 2 = 0 → OnlyBytes s u (rec8 t.job.block 24 8) 64) := by
  obtain ⟨hfgs, hdeferred⟩ := endNoted_stands (s := s) (t := t) st c
  obtain ⟨f, m, hreport, -⟩ := report_gate_only (dropTileJob (endNoted s t st c) id) r g st
  dsimp only
  rw [tileEnd_eq, howner, id_of_tileJob hjob]
  refine ⟨⟨?_, ends_report_gate (congrArg Fgs.reports hfgs) hdeferred⟩, fun hc hmon => ?_⟩
  · rw [hreport]
    exact tileJob_dropTileJob
  · subst hc
    have hplaces := samePlaces_issued.trans (regsAside_endNoted (s := s) (t := t) st false).places
    have hdropped (v : State) : SamePlaces v (dropTileJob v id) := ⟨fun _ _ => rfl, rfl, rfl, rfl, rfl, rfl⟩
    exact (onlyBytes_endStored st hmon).after ((hplaces.trans (hdropped _)).trans samePlaces_report_gate)

/-! ### The command -/

section
variable (hu : s.up = true) (hfind : (s.tiles.running.find? fun t => t.id == id) = some t)
include hu hfind

theorem exec_tileJobEnd_fault {st : Nat} (hst : t.status = some st) : exec (.tileJobEnd id) s = .next (tileEnd s t st false) := by
  refine (fabric_up s hu : execTileJobEnd id s = _).trans ?_
  simp [hfind, hst]

/-- A job with no pass to come. -/
theorem exec_tileJobEnd_done (hst : t.status = none) (hleft : t.left = []) : exec (.tileJobEnd id) s = .next (tileEnd s t
    (if abortAsked s t.job.owner then 0x28 else if decide (0 < t.takeovers) || t.p.tiles.any fun l => remapped s l then 5 else 0)
    (decide (rec8 t.job.block 34 2 ≠ 0))) := by
  refine (fabric_up s hu : execTileJobEnd id s = _).trans ?_
  simp [hfind, hst, hleft]

theorem exec_tileJobEnd_aborts (hst : t.status = none) (hleft : t.left ≠ []) (habort : abortAsked s t.job.owner = true) :
    exec (.tileJobEnd id) s = .next (tileEnd s t 0x28 false) := by
  refine (fabric_up s hu : execTileJobEnd id s = _).trans ?_
  simp [hfind, hst, hleft, habort]

theorem exec_tileJobEnd_goes_on (hst : t.status = none) (hleft : t.left ≠ []) (habort : abortAsked s t.job.owner = false) :
    exec (.tileJobEnd id) s = .next s := by
  refine (fabric_up s hu : execTileJobEnd id s = _).trans ?_
  simp [hfind, hst, hleft, habort]

end

theorem moved_iff : (decide (0 < t.takeovers) || t.p.tiles.any fun l => remapped s l) = true ↔
    (0 < t.takeovers ∨ ∃ l ∈ t.p.tiles, remapped s l = true) := by
  simp

end

theorem tile_jobs_end : ruleTileJobsEnd := by
  intro s id t r g hu hjob howner
  have hgone (st : Nat) (c : Bool) := tileEnd_gone hjob howner st c
  have hquiet (st : Nat) (hmon : rec8 t.job.block 1 1 % 2 = 0) :=
    And.intro (hgone st false).1 ((hgone st false).2 rfl hmon)
  refine ⟨fun hst => ⟨fun hleft hgo hstay => ?_, fun hleft hgo hmoved => ?_, fun hleft habort => ?_,
      fun hleft habort hmon => ⟨_, exec_tileJobEnd_aborts hu hjob hst hleft habort, hquiet _ hmon⟩,
      fun hleft hgo => ⟨s, exec_tileJobEnd_goes_on hu hjob hst hleft hgo, rfl⟩⟩,
    fun st hst hmon => ⟨_, exec_tileJobEnd_fault hu hjob hst, hquiet _ hmon⟩⟩
  all_goals refine ⟨_, exec_tileJobEnd_done hu hjob hst hleft, ?_⟩
  · rw [if_neg (by simp [hgo]), if_neg (mt moved_iff.mp hstay)]
    exact (hgone _ _).1
  · rw [if_neg (by simp [hgo]), if_pos (moved_iff.mpr hmoved)]
    exact (hgone _ _).1
  · rw [if_pos habort]
    exact (hgone _ _).1

/-- Settles O32: a start or a refusal is one update of the state; an end is the job's stores, registers of its tiles outside the redirect
table, and the report of a gate's job, which ends at once or waits for its held stores. -/
theorem tileJobsStartAndEnd : Obligations.TileJobsStartAndEnd := ⟨tile_jobs_start, tile_jobs_end⟩

end Sys2Proof.Machine
end

section
/-! SUPPORT. The comparisons of a tile pass (R246 to R248, R482). -/

namespace Sys2Proof.Machine

/-! ### What a pass leaves of the tile's registers (R233 to R240, R247) -/

/-- A register of a tile that neither the errors of memory nor its banks show in. -/
structure TileReg (a : Nat) : Prop where
  uncounted : Uncounted a
  banks : a % 0x1000 < 0x800

theorem tileReg_of {n k : Nat} (hn : n < 68) (hk : k < 0x800) (hne : k ≠ 0x20) : TileReg (0x100000 + k + 0x1000 * n) :=
  ⟨⟨by omega, fun m => by simp only [R.ttEccCorr]; omega⟩, by omega⟩

section
variable {s v : State} {t q : TileJob} {p : TilePass} {n id a : Nat}

/-- A register written where the banks change. -/
theorem wr_withBanks (b : Tab Word) (r : Nat) (w : Word) :
    let u := wr { s with tiles := { s.tiles with banks := b } } r w
    u.tiles.running = s.tiles.running ∧ ∀ a, a ≠ r → rd u a = rd s a :=
  ⟨rfl, fun _ ha => rd_wr_other { s with tiles := { s.tiles with banks := b } } w ha⟩

theorem rd_loadBank (l b off : Nat) (ha : a % 0x1000 < 0x800) : rd (loadBank s n l b off) a = rd s a := by
  have hrange (i : Nat) (hi : i ∈ List.range 256) : i < 256 := List.mem_range.mp hi
  unfold loadBank
  generalize List.range 256 = is at hrange ⊢
  refine rd_foldl_of_mem is (fun i hi u => ?_) s
  have hlt := hrange i hi
  refine (wr_withBanks _ _ _).2 a ?_
  split
  · simp only [R.ttNl0]; omega
  · simp only [R.ttNl1]; omega

theorem loadBank_running (l b off : Nat) : (loadBank s n l b off).tiles.running = s.tiles.running := by
  unfold loadBank
  generalize List.range 256 = is
  exact foldl_keep _ (fun u : State => u.tiles.running) (fun u i => (wr_withBanks _ _ _).1) _ _

/-- The banks that a pass loads, behind the reads of its operands. -/
def banksLoaded (s : State) (n : Nat) (t : TileJob) (p : TilePass) : State :=
  p.nl.foldl (fun u b => loadBank u n p.tile b.1 b.2) (noteReads s (passReads t p))

theorem rd_banksLoaded (ha : TileReg a) : rd (banksLoaded s n t p) a = rd s a := by
  unfold banksLoaded
  refine (foldl_keep _ (fun u : State => rd u a) (fun u b => rd_loadBank _ _ _ ha.banks) _ _).trans ?_
  exact rd_noteReads_uncounted _ ha.uncounted

theorem banksLoaded_running : (banksLoaded s n t p).tiles.running = s.tiles.running := by
  unfold banksLoaded
  refine (foldl_keep _ (fun u : State => u.tiles.running) (fun u b => loadBank_running _ _ _) _ _).trans ?_
  rw [(noteReads_stands _).2.1]

/-- The job `q` is `t` after pass `p` on tile `n`, with the passes `left` to come. -/
structure PassOff (t : TileJob) (p : TilePass) (left : List TilePass) (n : Nat) (q : TileJob) : Prop where
  id : q.id = t.id
  left : q.left = left
  passes : q.passes = t.passes + 1
  reexec : q.reexec = t.reexec
  last : q.lastTile = n
  part : tabGet ⟨0, []⟩ q.part p.tile = ⟨0, []⟩

/-- The job `t` with pass `p` taken off on tile `n`. -/
def passedJob (t : TileJob) (p : TilePass) (left : List TilePass) (n : Nat) : TileJob :=
  restartPass { t with left := left, passes := t.passes + 1, lastTile := n, retry := t.retry.filter fun l => l ≠ p.tile } p.tile

theorem passOff_passedJob (left : List TilePass) : PassOff t p left n (passedJob t p left n) :=
  ⟨rfl, rfl, rfl, rfl, rfl, by rw [passedJob, restartPass, tabGet_set_same]⟩

/-- The stores of a pass leave the tiles and every register that counts no error of memory. -/
theorem foldl_stBytes_stands (d : Nat) (ws : List (Nat × List Byte)) :
    (ws.foldl (fun u w => stBytes u (d + w.1) w.2) s).tiles = s.tiles ∧
      ∀ a, Uncounted a → rd (ws.foldl (fun u w => stBytes u (d + w.1) w.2) s) a = rd s a :=
  ⟨foldl_keep _ State.tiles (fun _ _ => stBytes_tiles _ _ _) _ _,
    fun a ha => foldl_keep _ (fun u : State => rd u a) (fun _ _ => rd_stBytes_uncounted _ _ ha) _ _⟩

theorem rd_issued (o : Owner) : rd (issued o s v) a = rd v a := rfl

theorem issued_tiles (o : Owner) : (issued o s v).tiles = v.tiles := rfl

/-- A pass done replaces its job; of the tile's registers it counts the pass and saturations. -/
theorem passDone_replaces (left : List TilePass) (cells : List (List Int)) : ∃ v q,
    passDone s n t p left cells = setTileJob v q ∧ PassOff t p left n q ∧ v.tiles.running = s.tiles.running ∧
      ∀ a, TileReg a → a ≠ R.ttSatRq n → a ≠ R.ttSatNl n → rd v a = rd (bumpWrap (banksLoaded s n t p) (R.ttPasses n)) a := by
  have hload : p.nl.foldl (fun u b => loadBank u n p.tile b.1 b.2) (noteReads s (passReads t p)) = banksLoaded s n t p := by
    rw [banksLoaded]
  have hjob : restartPass { t with left := left, passes := t.passes + 1, lastTile := n, retry := t.retry.filter fun l => l ≠ p.tile }
      p.tile = passedJob t p left n := by rw [passedJob]
  have hrunning := banksLoaded_running (s := s) (n := n) (t := t) (p := p)
  have hsats (x y a : Nat) (hrq : a ≠ R.ttSatRq n) (hnl : a ≠ R.ttSatNl n) (u : State) :
      rd (bumpN (bumpN u (R.ttSatRq n) x) (R.ttSatNl n) y) a = rd u a := (rd_bumpN_other _ _ hnl).trans (rd_bumpN_other _ _ hrq)
  obtain ⟨hid, hleft, hpasses, hreexec, hlast, hpart⟩ := passOff_passedJob (t := t) (p := p) (n := n) left
  unfold passDone
  simp only [hload, hjob]
  generalize banksLoaded s n t p = b at hrunning ⊢
  generalize passElems b t p cells = acc
  generalize passedJob t p left n = t1 at *
  split
  · exact ⟨_, _, rfl, ⟨hid, hleft, hpasses, hreexec, hlast, hpart⟩, by rw [bumpWrap_tiles, hrunning], fun _ _ _ _ => rfl⟩
  · split
    case h_1 =>
      refine ⟨_, _, rfl, ⟨hid, hleft, hpasses, hreexec, hlast, hpart⟩, ?_, fun a _ hrq hnl => hsats _ _ a hrq hnl _⟩
      rw [bumpN_tiles, bumpN_tiles, bumpWrap_tiles, hrunning]
    all_goals
      obtain ⟨htiles, hregs⟩ := foldl_stBytes_stands (s := bumpN (bumpN (bumpWrap b (R.ttPasses n)) (R.ttSatRq n) acc.satRq)
        (R.ttSatNl n) acc.satNl) (refBase t.job p.dst) acc.writes
      refine ⟨_, _, rfl, ⟨hid, hleft, hpasses, hreexec, hlast, hpart⟩, ?_, fun a ha hrq hnl => ?_⟩
      · rw [issued_tiles, htiles, bumpN_tiles, bumpN_tiles, bumpWrap_tiles, hrunning]
      · rw [rd_issued, hregs a ha.uncounted, hsats _ _ a hrq hnl]

end

/-! ### Running jobs -/

section
variable {s v : State} {t q : TileJob} {id : Nat}

/-- A job put in the place of the running one of its id is that one. -/
theorem tileJob_setTileJob (hjob : tileJob s id = some t) (hrunning : v.tiles.running = s.tiles.running) (hq : q.id = id) :
    tileJob (setTileJob v q) id = some q := by
  subst hq
  have hsame : ((fun x : TileJob => x.id == q.id) ∘ fun x => if x.id = q.id then q else x) = fun x => x.id == q.id := by
    funext x
    by_cases hx : x.id = q.id <;> simp [hx]
  have hfind : (s.tiles.running.find? fun x => x.id == q.id) = some t := hjob
  simp only [tileJob, setTileJob, hrunning, List.find?_map, hsame, hfind, Option.map_some, id_of_tileJob hjob, if_true]

theorem rd_setTileJob (a : Nat) : rd (setTileJob v q) a = rd v a := rfl

theorem RegsAside.sameBytes_setTileJob (h : RegsAside s v) : SameBytes s (setTileJob v q) :=
  (h.places.trans ⟨fun _ _ => rfl, rfl, rfl, rfl, rfl, rfl⟩ : SamePlaces s (setTileJob v q)).sameBytes

end

/-! ### The command (R246 to R248, R480, R482) -/

/-- The comparisons that the pass in progress has passed, with the faults they met. -/
abbrev passPart (t : TileJob) (p : TilePass) : PartPass := tabGet ⟨0, []⟩ t.part p.tile
/-- The products that each cell has accumulated at the next comparison. -/
abbrev passReached (t : TileJob) (p : TilePass) : Nat := pointK p (passPart t p).points
/-- The sums that the next comparison reads, with the faults met by then. -/
abbrev passSumsHere (s : State) (t : TileJob) (p : TilePass) (errs : List AccErr) : PassSums :=
  passSums s t p (passReached t p) ((passPart t p).errs ++ errs)
/-- The rows and the columns that fail at the next comparison. -/
abbrev passFailing (s : State) (t : TileJob) (p : TilePass) (errs : List AccErr) : List Nat × List Nat :=
  failing p.mode (passSumsHere s t p errs)

theorem passReached_le (t : TileJob) (p : TilePass) : passReached t p ≤ p.k := Nat.min_le_left ..

/-- Pass `p` of job `t` is the next one on tile `n`, and may run there. -/
structure PassRuns (s : State) (n : Fin 68) (id : Nat) (t : TileJob) (p : TilePass) (left : List TilePass) : Prop where
  up : s.up = true
  find : (s.tiles.running.find? fun t => t.id == id) = some t
  next : nextPass (tilesOn s n.val) [] t.left = some (p, left)
  status : t.status = none
  goes : abortAsked s t.job.owner = false
  free : fenced s (localBase p.tile) = false
  live : ttState s n.val ≠ 7

section
variable {s : State} {n : Fin 68} {id : Nat} {t : TileJob} {p : TilePass} {left : List TilePass} {errs : List AccErr} {residue : Bool}
  (h : PassRuns s n id t p left)
include h

theorem exec_tilePassCheck_halted (hhalt : tileHalted s n.val = true) : exec (.tilePassCheck id n errs residue) s = .next s := by
  refine (fabric_up s h.up : execTilePassCheck id n errs residue s = _).trans ?_
  simp [h.find, h.next, hhalt]

variable (hhalt : tileHalted s n.val = false)
include hhalt

theorem exec_tilePassCheck_mismatch (hbad : ¬ (passFailing s t p errs = ([], []) ∧ (residue = false ∨ passReached t p < p.k))) :
    exec (.tilePassCheck id n errs residue) s =
      .next (passMismatch s n.val t p.tile (passFailing s t p errs).1 (passFailing s t p errs).2) := by
  have hle := passReached_le t p
  have hmeets : (!(passFailing s t p errs).1.isEmpty || !(passFailing s t p errs).2.isEmpty ||
      (residue && passReached t p == p.k)) = true := by
    by_contra hcon
    simp only [Bool.or_eq_true, Bool.not_eq_true', Bool.and_eq_true, beq_iff_eq, not_or, not_and, Bool.not_eq_false,
      List.isEmpty_iff] at hcon
    obtain ⟨⟨hrows, hcols⟩, hres⟩ := hcon
    refine hbad ⟨Prod.ext hrows hcols, ?_⟩
    cases residue
    · exact .inl rfl
    · exact .inr (lt_of_le_of_ne hle (hres rfl))
  refine (fabric_up s h.up : execTilePassCheck id n errs residue s = _).trans ?_
  simp only [h.find, h.next, h.status, h.goes, h.free, hhalt, hmeets]
  simp [h.live]

section
variable (hgood : passFailing s t p errs = ([], []))
include hgood

theorem exec_tilePassCheck_next (hlt : passReached t p < p.k) : exec (.tilePassCheck id n errs residue) s =
    .next (setTileJob s { t with part := tabSet ⟨0, []⟩ t.part p.tile ⟨(passPart t p).points + 1, (passPart t p).errs ++ errs⟩ }) := by
  refine (fabric_up s h.up : execTilePassCheck id n errs residue s = _).trans ?_
  simp only [h.find, h.next, h.status, h.goes, h.free, hhalt, hgood]
  simp [h.live, hlt, hlt.ne]

variable (hend : p.k ≤ passReached t p) (hres : residue = false)
include hend hres

theorem exec_tilePassCheck_done (hfirst : t.retry.contains p.tile = false) :
    exec (.tilePassCheck id n errs residue) s = .next (passDone s n.val t p left (passSumsHere s t p errs).cells) := by
  refine (fabric_up s h.up : execTilePassCheck id n errs residue s = _).trans ?_
  have hpast : ¬ passReached t p < p.k := by omega
  simp only [h.find, h.next, h.status, h.goes, h.free, hhalt, hgood, hres, hpast, hfirst]
  simp [h.live]

theorem exec_tilePassCheck_again (hagain : t.retry.contains p.tile = true) (hroom : transientExhausted s 0x10 n.val = false) :
    exec (.tilePassCheck id n errs residue) s =
      .next (passDone (passTransient s n.val) n.val t p left (passSumsHere s t p errs).cells) := by
  refine (fabric_up s h.up : execTilePassCheck id n errs residue s = _).trans ?_
  have hpast : ¬ passReached t p < p.k := by omega
  simp only [h.find, h.next, h.status, h.goes, h.free, hhalt, hgood, hres, hpast, hagain, hroom]
  simp [h.live]

end
end

/-! ### What each outcome leaves -/

section
variable {s : State} {t : TileJob} {p : TilePass} {n id : Nat}

/-- A transient is counted in the SAFE block, the black box and the tile's two registers. -/
theorem rd_transient_below {a : Nat} (c k w : Nat) (ha : a < 0x310000) : rd (transient s c k w) a = rd s a := by
  unfold transient faultRec safeEvent
  dsimp only
  rw [rd_bbx_low _ _ _ _ _ ha, rd_wr_other _ _ (by simp only [R.safeLastFault]; omega),
    rd_setBits_other _ _ (by simp only [R.safeEvent]; omega), rd_bump_other _ (by simp only [R.safeTransientCnt]; omega)]
  rfl

theorem transient_tiles (c k w : Nat) : (transient s c k w).tiles = s.tiles := by
  simp [transient, faultRec, safeEvent]

theorem tileHalt_tiles : (tileHalt s n).tiles = s.tiles := by
  rw [tileHalt, ttEvent, setBits_tiles, setBits_tiles]

theorem passTransient_tiles : (passTransient s n).tiles = s.tiles := by
  simp [passTransient, transient_tiles, ttEvent]

/-- Below the SAFE block a transient shows in its tile's count and event register. -/
theorem rd_passTransient {a : Nat} (ha : a < 0x310000) :
    rd (passTransient s n) a = rd (ttEvent (bump s (R.ttChkTransient n)) n 2) a := rd_transient_below _ _ _ ha

theorem passMismatch_of_first (rows cols : List Nat) (hfirst : t.retry.contains p.tile = false) :
    passMismatch s n t p.tile rows cols = setTileJob (wr s (R.ttChkLast n) (chkWord rows cols false))
      { restartPass t p.tile with retry := t.retry ++ [p.tile], reexec := t.reexec + 1 } := by
  rw [passMismatch, hfirst]
  exact if_neg (by decide)

theorem passMismatch_of_again (rows cols : List Nat) (hagain : t.retry.contains p.tile = true) :
    passMismatch s n t p.tile rows cols = setTileJob (tileHalt (wr s (R.ttChkLast n) (chkWord rows cols true)) n)
      { restartPass t p.tile with retry := t.retry.filter fun x => x ≠ p.tile } := by
  rw [passMismatch, hagain]
  exact if_pos rfl

section
variable (hjob : tileJob s id = some t) (left : List TilePass) (cells : List (List Int))
include hjob

/-- The job that a pass done leaves, and the tile's registers. -/
theorem passDone_leaves (hn : n < 68) : let u := passDone s n t p left cells
    (∃ q, tileJob u id = some q ∧ PassOff t p left n q) ∧ rd u (R.ttPasses n) = rd s (R.ttPasses n) + 1 ∧
      rd u (R.ttChkTransient n) = rd s (R.ttChkTransient n) ∧ rd u (R.ttEvent n) = rd s (R.ttEvent n) := by
  obtain ⟨v, q, hdone, hoff, hrunning, hregs⟩ := passDone_replaces (s := s) (t := t) (p := p) (n := n) left cells
  have hreg (k : Nat) (hk : k < 0x18) : rd (setTileJob v q) (0x100000 + k + 0x1000 * n) =
      rd (bumpWrap (banksLoaded s n t p) (R.ttPasses n)) (0x100000 + k + 0x1000 * n) :=
    hregs _ (tileReg_of hn (by omega) (by omega)) (by simp only [R.ttSatRq]; omega) (by simp only [R.ttSatNl]; omega)
  have hbanks (k : Nat) (hk : k < 0x18) : rd (banksLoaded s n t p) (0x100000 + k + 0x1000 * n) = rd s (0x100000 + k + 0x1000 * n) :=
    rd_banksLoaded (tileReg_of hn (by omega) (by omega))
  have hother (k : Nat) (hk : k < 0x18) (hne : k ≠ 0x10) : rd (setTileJob v q) (0x100000 + k + 0x1000 * n) =
      rd s (0x100000 + k + 0x1000 * n) :=
    (hreg k hk).trans ((rd_bumpWrap_other _ (by simp only [R.ttPasses]; omega)).trans (hbanks k hk))
  dsimp only
  rw [hdone]
  refine ⟨⟨q, tileJob_setTileJob hjob hrunning (hoff.id.trans (id_of_tileJob hjob)), hoff⟩, ?_, hother 0x14 (by decide) (by decide),
    hother 8 (by decide) (by decide)⟩
  exact (hreg 0x10 (by decide)).trans ((rd_bumpWrap_same _ _).trans (congrArg (· + 1) (hbanks 0x10 (by decide))))

/-- A first mismatch writes nothing, notes the lowest row and column that fail and has the pass begin again. -/
theorem passMismatch_first (rows cols : List Nat) (hfirst : t.retry.contains p.tile = false) :
    let u := passMismatch s n t p.tile rows cols
    SameBytes s u ∧ rd u (R.ttChkLast n) = chkWord rows cols false ∧ ∃ q, tileJob u id = some q ∧ q.left = t.left ∧
      q.passes = t.passes ∧ q.lanes = t.lanes ∧ q.reexec = t.reexec + 1 ∧ q.retry = t.retry ++ [p.tile] := by
  have hkept : RegsAside s (wr s (R.ttChkLast n) (chkWord rows cols false)) :=
    RegsAside.refl.wr (fun k hk => by simp only [R.memRedir, R.ttChkLast]; omega) _
  have hid : t.id = id := id_of_tileJob hjob
  rw [passMismatch_of_first rows cols hfirst]
  refine ⟨hkept.sameBytes_setTileJob, ?_, _, tileJob_setTileJob hjob (by rw [wr_tiles]) hid, rfl, rfl, rfl, rfl, rfl⟩
  rw [rd_setTileJob, rd_wr_same]

/-- A second mismatch halts the tile. -/
theorem passMismatch_second (rows cols : List Nat) (hagain : t.retry.contains p.tile = true) :
    let u := passMismatch s n t p.tile rows cols
    SameBytes s u ∧ tileHalted u n = true ∧ bit (rd u (R.ttEvent n)) 3 = true ∧ ∃ q, tileJob u id = some q ∧ q.left = t.left := by
  have hne : R.ttChkLast n ≠ R.ttEvent n := by simp only [R.ttChkLast, R.ttEvent]; omega
  have haside (k : Nat) (hk : k < 68) : R.memRedir k ≠ R.ttChkLast n := by simp only [R.memRedir, R.ttChkLast]; omega
  have hbit : (0x40000000 : Word) = bitW 30 := by decide
  have hkept : RegsAside s (tileHalt (wr s (R.ttChkLast n) (chkWord rows cols true)) n) := by
    rw [tileHalt, setBits]
    exact ((RegsAside.refl.wr haside _).wr haside _).ttEvent n 3
  have hid : t.id = id := id_of_tileJob hjob
  rw [passMismatch_of_again rows cols hagain]
  refine ⟨hkept.sameBytes_setTileJob, ?_, ?_, _, tileJob_setTileJob hjob (by rw [tileHalt_tiles, wr_tiles]) hid, rfl⟩
  · rw [tileHalted, rb, rd_setTileJob, tileHalt, ttEvent, rd_setBits_other _ _ hne, rd_setBits_same, hbit]
    exact bit_or_bitW _ (by decide)
  · rw [rd_setTileJob, tileHalt, ttEvent, rd_setBits_same]
    exact bit_or_bitW _ (by decide)

end
end

/-- What an outcome leaves is said of the update that the command makes of the state in each case. -/
theorem tile_passes_are_checked : ruleTilePassesAreChecked := by
  intro s n id t p left errs residue hu hjob hnext hst hgo hfree hlive
  have hid : t.id = id := id_of_tileJob hjob
  have h : PassRuns s n id t p left := ⟨hu, hjob, hnext, hst, hgo, hfree, hlive⟩
  refine ⟨fun hhalt => ⟨s, exec_tilePassCheck_halted h hhalt, rfl⟩, fun hhalt =>
    ⟨fun hagree hlt => ?_, fun hagree hend hfirst => ?_, fun hagree hend hagain hroom => ?_, fun hbad hfirst => ?_, fun hbad hagain => ?_⟩⟩
  · exact ⟨_, exec_tilePassCheck_next h hhalt hagree.1 hlt, RegsAside.refl.sameBytes_setTileJob, rfl, _,
      tileJob_setTileJob hjob rfl hid, rfl, by rw [tabGet_set_same]⟩
  · have hres := hagree.2.resolve_right hend.not_lt
    obtain ⟨⟨q, hq, hoff⟩, hpasses, -⟩ := passDone_leaves (p := p) hjob left (passSumsHere s t p errs).cells n.isLt
    exact ⟨_, exec_tilePassCheck_done h hhalt hagree.1 hend.ge hres hfirst, hpasses, q, hq, hoff.left, hoff.passes, hoff.reexec,
      hoff.last, hoff.part⟩
  · have hres := hagree.2.resolve_right hend.not_lt
    have hjob' : tileJob (passTransient s n.val) id = some t := by rw [tileJob, passTransient_tiles]; exact hjob
    obtain ⟨⟨q, hq, hoff⟩, hpasses, hcount, hevent⟩ := passDone_leaves (p := p) hjob' left (passSumsHere s t p errs).cells n.isLt
    refine ⟨_, exec_tilePassCheck_again h hhalt hagree.1 hend.ge hres hagain hroom, ⟨hpasses.trans ?_, q, hq, hoff.left, hoff.passes,
      hoff.reexec, hoff.last, hoff.part⟩, hcount.trans ?_, ?_⟩
    · rw [rd_passTransient (by simp only [R.ttPasses]; omega), ttEvent, rd_setBits_other _ _ (by simp only [R.ttPasses, R.ttEvent]; omega),
        rd_bump_other _ (by simp only [R.ttPasses, R.ttChkTransient]; omega)]
    · rw [rd_passTransient (by simp only [R.ttChkTransient]; omega), ttEvent,
        rd_setBits_other _ _ (by simp only [R.ttChkTransient, R.ttEvent]; omega), rd_bump_same]
    · rw [hevent, rd_passTransient (by simp only [R.ttEvent]; omega), ttEvent, rd_setBits_same]
      exact bit_or_bitW _ (by decide)
  · exact ⟨_, exec_tilePassCheck_mismatch h hhalt hbad, passMismatch_first hjob _ _ hfirst⟩
  · exact ⟨_, exec_tilePassCheck_mismatch h hhalt hbad, passMismatch_second hjob _ _ hagain⟩

end Sys2Proof.Machine
end

section
/-! SUPPORT. The takeover of a failed tile and its completion (R249, R250); with the checks of passes, settles O33. -/

namespace Sys2Proof.Machine

/-! ### Fields of the tile registers -/

theorem fld_setFld_same {w : Word} {hi lo v : Nat} (hhi : hi < 32) (hlo : lo ≤ hi) (hv : v < 2 ^ (hi + 1 - lo)) :
    fld (setFld w hi lo v) hi lo = v := by
  refine Nat.eq_of_testBit_eq fun i => ?_
  rw [testBit_fld, getLsbD_setFld hhi hlo]
  by_cases hi' : i < hi + 1 - lo
  · rw [if_pos (by omega), decide_eq_true hi', Bool.true_and, Nat.add_sub_cancel_left]
  · rw [decide_eq_false hi', Bool.false_and]
    exact (Nat.testBit_lt_two_pow (hv.trans_le (Nat.pow_le_pow_right (by decide) (by omega)))).symm

section
variable {s u : State} {n l f : Nat} {t : Takeover}

theorem ttState_setTtState {v : Nat} (hv : v < 16) : ttState (setTtState s n v) n = v := by
  rw [ttState, setTtState, rf, rd_wf_same]
  exact fld_setFld_same (by decide) (by decide) hv

/-! ### A takeover begins (R249, R263) -/

/-- The range of a move is fenced. -/
theorem rb_startMove (r : Nat) (m : Move) : rb (startMove s r m) (R.memRedir r) 30 = true := by
  rw [rb, startMove, rd_setBits_same]
  exact bit_or_bitW _ (by decide)

theorem homeOf_lt (hl : l < 64) : homeOf l < 68 := by
  unfold homeOf
  omega

theorem fenced_localBase (hl : l < 64) : fenced s (localBase l) = rb s (R.memRedir (homeOf l)) 30 := by
  have hhome := homeOf_lt hl
  rw [fenced, localBase, Nat.mul_div_cancel _ (by decide), decide_eq_true (by omega), Bool.true_and]

/-- The state in which the tile that takes over is free of its grant, and the ranges to be moved. -/
def grantLeft (s : State) (l f : Nat) : State :=
  match grantOn s f with
  | some j => evacuate (abandonTest s l f) j
  | none => abandonTest s l f
def takeoverRanges (s : State) (l f : Nat) : List Nat :=
  match grantOn s f with
  | some j => [rf s (R.memNbr j) 22 16, homeOf l]
  | none => [homeOf l]

/-- A takeover of logical tile `l` by the free tile `f` of the piste begun: the home range is fenced for the copy. -/
def takeoverBegun (s : State) (n l f : Nat) : State :=
  let s3 := startMove (grantLeft s l f) (homeOf l) ⟨toTile f, none, none⟩
  { setTtState s3 f 6 with safe := { s3.safe with takeover := some ⟨n, l, f, 0, takeoverRanges s l f⟩ } }

theorem rd_withSafe (x : Safe) (a : Nat) : rd { s with safe := x } a = rd s a := rfl

theorem takeoverBegun_shows (hl : l < 64) : fenced (takeoverBegun s n l f) (localBase l) = true ∧ ttState (takeoverBegun s n l f) f = 6 := by
  have hhome := homeOf_lt hl
  refine ⟨?_, ?_⟩
  · rw [fenced_localBase hl, rb, takeoverBegun, rd_withSafe, setTtState, rd_wf_other _ _ _ _ (by simp only [R.memRedir, R.ttStatus]; omega)]
    exact rb_startMove _ _
  · rw [ttState, rf, takeoverBegun, rd_withSafe]
    exact ttState_setTtState (by decide)

section
variable {n : Fin 68} (hu : s.up = true)
include hu

theorem exec_tileTakeover_waits (hnone : s.safe.takeover ≠ none) : exec (.tileTakeover n) s = .next s := by
  refine (fabric_up s hu : execTileTakeover n s = _).trans ?_
  simp [Option.isSome_iff_ne_none.mpr hnone]

variable (hnone : s.safe.takeover = none) (hhalt : rb s (R.ttChkLast n.val) 30 = true) (hl : ttLogical s n.val < 64)
  (hrot : rotMoving s (n.val / 17) = false)
include hnone hhalt hl hrot

theorem exec_tileTakeover_moves (hfree : freeTile s (ttLogical s n.val / 16) = some f) :
    exec (.tileTakeover n) s = .next (takeoverBegun s n.val (ttLogical s n.val) f) := by
  have htarget : takeoverTarget s n.val (ttLogical s n.val) = some (f, 0) := by simp [takeoverTarget, hfree]
  refine (fabric_up s hu : execTileTakeover n s = _).trans ?_
  simp only [hnone, hhalt, hrot, htarget, decide_eq_false hl.not_ge, Option.isSome_none, Bool.not_true, Bool.or_false,
    Bool.false_eq_true, if_false]
  rfl

theorem exec_tileTakeover_fails (htarget : takeoverTarget s n.val (ttLogical s n.val) = none) :
    exec (.tileTakeover n) s = .next (setTtState (failJobs s (ttLogical s n.val)) n.val 7) := by
  refine (fabric_up s hu : execTileTakeover n s = _).trans ?_
  simp [hnone, hhalt, hrot, htarget, hl]

end

/-! ### The completion (R32, R250) -/

/-- The banks shown are in the tile's registers from 0x800. -/
theorem rd_showBanks {a : Nat} (ha : a % 0x1000 < 0x800) : rd (showBanks s n l) a = rd s a := by
  have hrange (i : Nat) (hi : i ∈ List.range 256) : i < 256 := List.mem_range.mp hi
  unfold showBanks
  generalize List.range 256 = is at hrange ⊢
  refine rd_foldl_of_mem is (fun i hi u => ?_) s
  have hlt := hrange i hi
  rw [rd_wr_other _ _ (by simp only [R.ttNl1]; omega), rd_wr_other _ _ (by simp only [R.ttNl0]; omega)]

theorem showBanks_safe : (showBanks s n l).safe = s.safe := by
  unfold showBanks
  generalize List.range 256 = is
  exact foldl_keep _ State.safe (fun u i => by rw [wr_safe, wr_safe]) _ _

/-- After a takeover by a free tile of the piste the new tile names the logical tile, and the failed one reads FAILED. -/
theorem remap_of_free_tile (hhow : t.how = 0) (hl : t.logical < 64) : ∃ w w', fld w 31 24 = t.logical ∧
    remap s t = wr (showBanks (wr s (R.ttStatus t.new) w) t.new t.logical) (R.ttStatus t.failed) w' := by
  have hlogical (b : Nat) (hb : b ≤ 2) : fld (BitVec.ofNat 32 (t.logical * 0x1000000 + 0xFF0000 + b)) 31 24 = t.logical := by
    simp only [fld, BitVec.toNat_ofNat]
    omega
  unfold remap
  simp only [hhow, (by decide : (0 : Nat) ≠ 2), (by decide : decide ((0 : Nat) = 1) = false), if_false, Bool.toNat_false, Nat.zero_mul,
    Nat.add_zero]
  have hbusy : (if (s.tiles.running.any fun j => j.p.tiles.contains t.logical) = true then 2 else 1) ≤ 2 := by split <;> decide
  generalize (if (s.tiles.running.any fun j => j.p.tiles.contains t.logical) = true then 2 else 1) = b at hbusy ⊢
  refine ⟨BitVec.ofNat 32 (t.logical * 0x1000000 + 0xFF0000 + b), ?_⟩
  generalize showBanks _ _ _ = v
  split
  · exact ⟨_, hlogical b hbusy, rfl⟩
  · exact ⟨_, hlogical b hbusy, rfl⟩

theorem rd_resumeJobs (a : Nat) : rd (resumeJobs s l) a = rd s a := by
  unfold resumeJobs
  dsimp only
  split
  · rfl
  · rfl

theorem resumeJobs_safe : (resumeJobs s l).safe = s.safe := by
  unfold resumeJobs
  dsimp only
  split
  · rfl
  · rfl

theorem rd_capDown_other {a : Nat} (h : Nat) (ha : a ≠ R.glbCap) : rd (capDown s h) a = rd s a := by
  unfold capDown
  split
  · exact rd_wf_other _ _ _ _ ha
  · exact rd_wf_other _ _ _ _ ha

theorem capDown_safe (h : Nat) : (capDown s h).safe = s.safe := by
  unfold capDown
  split
  · rw [wf_safe]
  · rw [wf_safe]

/-- Of the registers below the MEM block a takeover done counts itself, and may set GLB_STATUS.DEGRADED. -/
theorem rd_takeoverDone {a : Nat} (c x y z k : Nat) (ha : Uncounted a) (hstatus : a ≠ R.glbStatus) :
    rd (takeoverDone s c x y z k) a = rd (bump s R.glbTakeoverCnt) a := by
  have hlow := ha.1
  unfold takeoverDone syncDegraded
  dsimp only
  rw [rd_wf_other _ _ _ _ hstatus]
  refine (rd_postEvent_uncounted (s := faultRec _ _ _ _ _ _) _ _ _ _ ha).trans ?_
  unfold faultRec safeEvent
  dsimp only
  rw [rd_bbx_low _ _ _ _ _ (by omega), rd_wr_other _ _ (by simp only [R.safeLastFault]; omega),
    rd_setBits_other _ _ (by simp only [R.safeEvent]; omega)]

theorem takeoverDone_safe (c x y z k : Nat) : (takeoverDone s c x y z k).safe = { s.safe with poseTakeover := true } := by
  simp [takeoverDone, syncDegraded, faultRec, safeEvent]

/-- The state in which a takeover is counted: the map and the jobs with the logical tile on its new tile, the event, the spare. -/
def takeoverMoved (s : State) (t : Takeover) : State :=
  capDown (ttEvent (resumeJobs (remap { s with safe := { s.safe with takeover := none } } t) t.logical) t.new 4) t.how

section
variable {n : Fin 68} (hu : s.up = true) (ht : s.safe.takeover = some t)
include hu ht

theorem exec_tileTakeoverComplete_ends (hfailed : t.failed = n.val) (hmoves : ∀ r ∈ t.ranges, tabGet none s.memx.moves r = none) :
    exec (.tileTakeoverComplete n) s = .next (takeoverDone (takeoverMoved s t) 0x10 t.failed t.new 0 0) := by
  have hstill : (t.ranges.any fun r => (tabGet none s.memx.moves r).isSome) = false := by
    simpa [Option.isNone_iff_eq_none] using hmoves
  refine (fabric_up s hu : execTileTakeoverComplete n s = _).trans ?_
  simp only [ht]
  rw [if_neg (by simp [hfailed, hstill])]
  rfl

theorem exec_tileTakeoverComplete_waits {r : Nat} (hr : r ∈ t.ranges) (hmove : tabGet none s.memx.moves r ≠ none) :
    exec (.tileTakeoverComplete n) s = .next s := by
  have hstill : (t.ranges.any fun r => (tabGet none s.memx.moves r).isSome) = true :=
    List.any_eq_true.mpr ⟨r, hr, Option.isSome_iff_ne_none.mpr hmove⟩
  refine (fabric_up s hu : execTileTakeoverComplete n s = _).trans ?_
  simp [ht, hstill]

end

/-- What the map shows of a takeover by a free tile of the piste when it is counted. -/
theorem takeoverMoved_shows (hhow : t.how = 0) (hl : t.logical < 64) (hne : t.new ≠ t.failed) : let u := takeoverMoved s t
    u.safe = { s.safe with takeover := none } ∧ fld (rd u (R.ttStatus t.new)) 31 24 = t.logical ∧
      bit (rd u (R.ttEvent t.new)) 4 = true ∧ rd u R.glbTakeoverCnt = rd s R.glbTakeoverCnt := by
  obtain ⟨w, w', hw, hmap⟩ := remap_of_free_tile (s := { s with safe := { s.safe with takeover := none } }) hhow hl
  dsimp only
  rw [takeoverMoved, hmap]
  refine ⟨?_, ?_, ?_, ?_⟩
  · rw [capDown_safe, ttEvent, setBits_safe, resumeJobs_safe, wr_safe, showBanks_safe, wr_safe]
  · rw [rd_capDown_other _ (by simp only [R.ttStatus, R.glbCap]; omega), ttEvent,
      rd_setBits_other _ _ (by simp only [R.ttStatus, R.ttEvent]; omega), rd_resumeJobs,
      rd_wr_other _ _ (by simp only [R.ttStatus]; omega), rd_showBanks (by simp only [R.ttStatus]; omega), rd_wr_same, hw]
  · rw [rd_capDown_other _ (by simp only [R.ttEvent, R.glbCap]; omega), ttEvent, rd_setBits_same]
    exact bit_or_bitW _ (by decide)
  · rw [rd_capDown_other _ (by decide), ttEvent, rd_setBits_other _ _ (by simp only [R.glbTakeoverCnt, R.ttEvent]; omega), rd_resumeJobs,
      rd_wr_other _ _ (by simp only [R.glbTakeoverCnt, R.ttStatus]; omega), rd_showBanks (by decide),
      rd_wr_other _ _ (by simp only [R.glbTakeoverCnt, R.ttStatus]; omega)]
    rfl

end

/-- A takeover begins with the fence of the logical tile's home range, and ends with the map, the event and the count of R250. -/
theorem tiles_are_taken_over : ruleTilesAreTakenOver := by
  intro s n hu
  refine ⟨fun hnone hhalt hl hrot => ⟨fun f hfree _ => ?_, fun htarget => ?_⟩,
    fun hsome => ⟨s, exec_tileTakeover_waits hu hsome, rfl⟩, fun t ht hfailed hhow hnew hne hl hmoves => ?_,
    fun t r ht hr hmove => ⟨s, exec_tileTakeoverComplete_waits hu ht hr hmove, rfl⟩⟩
  · exact ⟨_, exec_tileTakeover_moves hu hnone hhalt hl hrot hfree, ⟨_, rfl, rfl, rfl, rfl, rfl⟩, takeoverBegun_shows hl⟩
  · exact ⟨_, exec_tileTakeover_fails hu hnone hhalt hl hrot htarget, ttState_setTtState (by decide), rfl⟩
  · obtain ⟨hsafe, hlogical, hevent, hcount⟩ := takeoverMoved_shows (s := s) hhow hl (hfailed ▸ hne)
    have hkept (k : Nat) (hk : k < 0x20) :
        rd (takeoverDone (takeoverMoved s t) 0x10 t.failed t.new 0 0) (0x100000 + k + 0x1000 * t.new) =
          rd (takeoverMoved s t) (0x100000 + k + 0x1000 * t.new) :=
      (rd_takeoverDone _ _ _ _ _ (tileReg_of hnew (by omega) (by omega)).uncounted (by simp only [R.glbStatus]; omega)).trans
        (rd_bump_other _ (by simp only [R.glbTakeoverCnt]; omega))
    refine ⟨_, exec_tileTakeoverComplete_ends hu ht hfailed hmoves, ?_, ?_, ?_, ?_, ?_⟩
    · rw [takeoverDone_safe, hsafe]
    · rw [takeoverDone_safe]
    · exact (congrArg (fld · 31 24) (hkept 4 (by decide))).trans hlogical
    · exact (congrArg (bit · 4) (hkept 8 (by decide))).trans hevent
    · rw [rd_takeoverDone _ _ _ _ _ ⟨by decide, fun k => by simp only [R.glbTakeoverCnt, R.ttEccCorr]; omega⟩ (by decide), rd_bump_same,
        hcount]

/-- Settles O33: a comparison ends in one of four updates of the state, told apart by the sums and by whether the pass is a second try;
of a takeover the registers of the two tiles, the fence and the count are followed through the shared operations. -/
theorem tileFaultsAreChecked : Obligations.TileFaultsAreChecked := ⟨tile_passes_are_checked, tiles_are_taken_over⟩

end Sys2Proof.Machine
end

section
/-! SUPPORT. The start, the plan and the end of a copy job (R268, R269, R274); settles O35. -/

namespace Sys2Proof.Machine
section
variable {s : State} {c : CopyJob}

/-! ### The engines' table and status registers (R283) -/

@[simp] theorem ceJob_setCe_same (e : Nat) (o : Option CopyJob) : ceJob (setCe s e o) e = o := tabGet_set_same ..

theorem ceJob_setCe_other {e f : Nat} (o : Option CopyJob) (h : f ≠ e) : ceJob (setCe s e o) f = ceJob s f := tabGet_set_other _ _ _ _ h

theorem rd_setCe_other {e a : Nat} (o : Option CopyJob) (h : a ≠ R.memCeStatus e) : rd (setCe s e o) a = rd s a :=
  rd_wr_other { s with memx := { s.memx with ce := tabSet none s.memx.ce e o } } _ h

/-- The status register of an idle engine reads 0. -/
theorem rd_setCe_idle (e : Nat) : rd (setCe s e none) (R.memCeStatus e) = 0 := rd_wr_same ..

/-- BUSY of an engine with a job. -/
theorem busy_setCe (e : Nat) : bit (rd (setCe s e (some c)) (R.memCeStatus e)) 31 = true := by
  unfold setCe
  rw [rd_wr_same, bit, BitVec.getLsbD_ofNat, Nat.testBit_eq_decide_div_mod_eq]
  simp only [Nat.reduceLT, decide_true, Bool.true_and, decide_eq_true_eq]
  omega

/-- The status registers of the engines lie behind the redirect table. -/
theorem samePlaces_setCe (e : Nat) (o : Option CopyJob) : SamePlaces s (setCe s e o) :=
  ⟨fun k hk => rd_setCe_other o (by simp only [R.memRedir, R.memCeStatus]; omega), rfl, rfl, rfl, rfl, rfl⟩

/-! ### The start (R268) -/

/-- The key under which the jobs of group `g` wait for an engine. -/
def groupKey (g : Fin 2) : Nat := if g.val = 0 then 0x11 else sgCopyKey

theorem startedAt_setCe (e k : Nat) (o : Option CopyJob) : startedAt (setCe s e o) k = startedAt s k := rfl

theorem startedAt_taken {k e : Nat} {rest : List Job} {o : Option CopyJob} : startedAt (setCe (setStarted s k rest) e o) k = rest := by
  rw [startedAt_setCe, startedAt_setStarted_same]

theorem exec_copyJobStart_takes {g : Fin 2} {j : Job} {rest : List Job} {e : Nat} (hu : s.up = true)
    (hj : startedAt s (groupKey g) = j :: rest) (he : idleEngine s g.val = some e) : exec (.copyJobStart g) s =
      .next (setCe (setStarted s (groupKey g) rest) e (some ⟨j, [j.block], 0, 0, none⟩)) := by
  refine (fabric_up s hu : execCopyJobStart g s = _).trans ?_
  rw [groupKey] at hj ⊢
  simp only [hj, he]

theorem exec_copyJobStart_waits {g : Fin 2} (hu : s.up = true) (he : idleEngine s g.val = none) :
    exec (.copyJobStart g) s = .next s := by
  refine (fabric_up s hu : execCopyJobStart g s = _).trans ?_
  cases hj : startedAt s (groupKey g) <;> rw [groupKey] at hj <;> simp only [hj, he]

/-! ### The plan (R269) -/

section
variable {e : Fin 16} (hu : s.up = true) (hce : ceJob s e.val = some c) (hst : c.status = none) (habort : abortAsked s c.job.owner = false)
include hu hce hst habort

/-- A well-formed PLAN block on an engine takes the plan's entries, or fails where none is loaded. -/
theorem exec_plan (hlatch : c.job.latch = []) (hop : rec8 (c.entries.headD []) 0 1 = 3)
    (hform : rec8 (c.entries.headD []) 1 1 < 2 ∧ zeros (c.entries.headD []) 40 24 = true) :
    (∀ l, planOf s c.job.ctx (rec8 (c.entries.headD []) 2 2) = some l →
      exec (.plan e) s = .next (setCe s e.val (some { c with entries := l, idx := 0 }))) ∧
    (planOf s c.job.ctx (rec8 (c.entries.headD []) 2 2) = none →
      exec (.plan e) s = .next (setCe s e.val (some { c with status := some 0x23 }))) := by
  refine ⟨fun l hl => (fabric_up s hu : execPlan e s = _).trans ?_, fun hnone => (fabric_up s hu : execPlan e s = _).trans ?_⟩
  · simp only [hce, hst, habort, hop, hlatch, if_pos hform, hl]
    rfl
  · simp only [hce, hst, habort, hop, hlatch, if_pos hform, hnone]
    rfl

/-! ### The end (R274) -/

theorem exec_copyJobEnd_works_on : exec (.copyJobEnd e) s = .next s := by
  refine (fabric_up s hu : execCopyJobEnd e s = _).trans ?_
  simp [hce, hst, habort]

end

section
variable {e : Fin 16} {st : Nat} (hu : s.up = true) (hce : ceJob s e.val = some c) (hst : c.status = some st)
include hu hce hst

theorem exec_copyJobEnd_waits (hheld : unacked s c.job.owner = true) : exec (.copyJobEnd e) s = .next s := by
  refine (fabric_up s hu : execCopyJobEnd e s = _).trans ?_
  simp [hce, hst, hheld]

theorem exec_copyJobEnd_ends (hfree : unacked s c.job.owner = false) : exec (.copyJobEnd e) s =
    .next (copyDone s e.val c (if abortAsked s c.job.owner then 0x28 else st) c.lines) := by
  refine (fabric_up s hu : execCopyJobEnd e s = _).trans ?_
  simp [hce, hst, hfree]

end

theorem samePlaces_finishNow_descriptor {d st : Nat} {l : List Byte} : SamePlaces s (finishNow s (.descriptor d) st l) :=
  ⟨fun _ _ => rfl, rfl, rfl, rfl, rfl, rfl⟩

/-- What the end of a descriptor's copy job leaves, where no store of it is held. -/
theorem copyDone_descriptor {d : Nat} {y : Desc} (e st n : Nat) (howner : c.job.owner = .descriptor d)
    (hfree : unacked s c.job.owner = false)
    (hy : y ∈ s.hif.descs) (hid : y.id = d) : let u := copyDone s e c st n
    ceJob u e = none ∧ rd u R.memCopies = rd s R.memCopies + 1 ∧ rd u (R.memCeStatus e) = 0 ∧ SameBytes s u ∧
      ∃ z ∈ u.hif.descs, z.id = d ∧ z.stage = .ended ∧ z.status = st ∧ z.result = padTo 16 (leBytes 4 n ++ leBytes 2 c.idx) := by
  have hapart : R.memCopies ≠ R.memCeStatus e := by simp only [R.memCopies, R.memCeStatus]; omega
  have hnow : copyDone s e c st n =
      finishNow (bumpWrap (setCe s e none) R.memCopies) (.descriptor d) st (leBytes 4 n ++ leBytes 2 c.idx) := by
    rw [howner] at hfree
    rw [copyDone, howner]
    exact if_neg (by simp [show unacked (bumpWrap (setCe s e none) R.memCopies) (.descriptor d) = false from hfree])
  have hcounted : SamePlaces (setCe s e none) (bumpWrap (setCe s e none) R.memCopies) :=
    ⟨fun k hk => rd_bumpWrap_other _ (by simp only [R.memRedir, R.memCopies]; omega), rfl, rfl, rfl, rfl, rfl⟩
  have hcount : rd (bumpWrap (setCe s e none) R.memCopies) R.memCopies = rd s R.memCopies + 1 := by
    rw [rd_bumpWrap_same, rd_setCe_other _ hapart]
  have hstatus : rd (bumpWrap (setCe s e none) R.memCopies) (R.memCeStatus e) = 0 := by
    rw [rd_bumpWrap_other _ hapart.symm, rd_setCe_idle]
  have hce : ceJob (bumpWrap (setCe s e none) R.memCopies) e = none := ceJob_setCe_same (s := s) e none
  have hdesc : y ∈ (bumpWrap (setCe s e none) R.memCopies).hif.descs := hy
  dsimp only
  rw [hnow]
  exact ⟨hce, hcount, hstatus, (((samePlaces_setCe e none).trans hcounted).trans samePlaces_finishNow_descriptor).sameBytes, _,
    mem_descs_finishNow hdesc hid, hid, rfl, rfl, rfl⟩

end

/-- Settles O35: each of the three commands is one update of the engine's entry in the table (`setCe`); the end adds the count and the
descriptor's outcome. -/
theorem copyJobsStartAndEnd : Obligations.CopyJobsStartAndEnd := by
  intro s hu
  refine ⟨fun g j rest e => ?_, fun g he => ⟨s, exec_copyJobStart_waits hu he, rfl⟩, fun e c hce hst habort hlatch => ?_,
    fun e c st d y hce hst howner hy hid => ⟨fun hfree => ?_, fun hheld => ⟨s, exec_copyJobEnd_waits hu hce hst hheld, rfl⟩⟩,
    fun e c hce hst habort => ⟨s, exec_copyJobEnd_works_on hu hce hst habort, rfl⟩⟩
  · intro k hj he
    exact ⟨_, exec_copyJobStart_takes hu hj he, startedAt_taken, ceJob_setCe_same e _, fun f hf => ceJob_setCe_other _ hf, busy_setCe e⟩
  · intro x hop hflags hzero
    obtain ⟨htakes, hfails⟩ := exec_plan hu hce hst habort hlatch hop ⟨hflags, hzero⟩
    exact ⟨fun l hl => ⟨_, htakes l hl, ceJob_setCe_same _ _⟩, fun hnone => ⟨_, hfails hnone, ceJob_setCe_same _ _⟩⟩
  · exact ⟨_, exec_copyJobEnd_ends hu hce hst hfree, copyDone_descriptor _ _ _ howner hfree hy hid⟩

end Sys2Proof.Machine
end

section
/-! SUPPORT. The lines of a copy or fill entry moved one after another, and what they leave of the registers and of memory's errors (R272,
R273, R277). -/

namespace Sys2Proof.Machine
section
variable {s t : State} {x : List Byte} {a n : Nat}

/-! ### Registers that count no error of memory (R255, R277, R507) -/

/-- A register below the GDR block that no read or store of memory writes. -/
structure NotNoted (a : Nat) : Prop where
  below : a < 0x190000
  tile : ∀ k, a ≠ R.ttEccCorr k
  slab : a ≠ R.memSlabEccCorr ∧ a ≠ R.memSlabEccUncorr
  glide : a ≠ R.memErr ∧ a ≠ R.memErrInfo

namespace NotNoted

theorem memLines : NotNoted R.memLines :=
  ⟨by decide, fun k => by simp only [R.memLines, R.ttEccCorr]; omega, by decide, by decide⟩

theorem rd_corrected (ha : NotNoted a) (v : Nat) : rd (corrected s v) a = rd s a := by
  have hbelow := ha.below
  by_cases hv : gdrBase ≤ v
  · exact rd_corrected_of_gdr hv hbelow
  · rw [corrected, if_neg hv]
    repeat' split
    · exact rd_bump_other s (by simp only [R.lseMemEccCorr]; omega)
    · exact rd_bump_other s ha.slab.1
    · exact rd_bump_other s (ha.tile _)

theorem rd_uncorrectable (ha : NotNoted a) (v : Nat) : rd (uncorrectable s v) a = rd s a := by
  have hbelow := ha.below
  by_cases hv : gdrBase ≤ v
  · exact rd_uncorrectable_of_gdr hv hbelow
  · rw [uncorrectable, if_neg hv]
    repeat' split
    · exact rd_bump_other s (by simp only [R.lseMemEccUncorr]; omega)
    · exact rd_bump_other s ha.slab.2
    · rfl

theorem rd_noteRead (ha : NotNoted a) (d n : Nat) : rd (noteRead s d n) a = rd s a := by
  unfold noteRead
  dsimp only
  rw [foldl_keep uncorrectable (fun t => rd t a) fun t v => ha.rd_uncorrectable v,
    foldl_keep corrected (fun t => rd t a) fun t v => ha.rd_corrected v,
    foldl_keep (edcMeet false (physAddr s d) n) (fun t => rd t a) fun t e => rd_edcMeet_below false _ e ha.below]

theorem rd_noteWrite (ha : NotNoted a) (p n : Nat) : rd (noteWrite s p n) a = rd s a := by
  unfold noteWrite
  dsimp only
  rw [foldl_keep (edcMeet true p n) (fun t => rd t a) fun t e => rd_edcMeet_below true p e ha.below]
  exact (rd_foldl_of_mem _ (fun v _ t => ha.rd_uncorrectable v) _).trans (rd_foldl_of_mem _ (fun v _ t => ha.rd_corrected v) _)

theorem rd_stByte (ha : NotNoted a) (d : Nat) (b : Byte) : rd (stByte s d b) a = rd s a := by
  unfold stByte
  repeat' split
  · rfl
  · rfl
  · exact rd_errInfo_other { s with fresh := s.fresh + 1 } 3 _ ha.glide.1 ha.glide.2
  · rfl

theorem rd_stAll (ha : NotNoted a) (d : Nat) (l : List Byte) : rd (stAll s d l) a = rd s a := by
  induction l generalizing s d with
  | nil => rfl
  | cons b l ih => exact (ih _).trans (ha.rd_stByte d b)

theorem rd_stBytes (ha : NotNoted a) (d : Nat) (l : List Byte) : rd (stBytes s d l) a = rd s a := by
  unfold stBytes
  dsimp only
  repeat' split
  · exact ha.rd_stAll d l
  · exact ha.rd_stAll d l
  · exact ha.rd_stAll d l
  · exact (ha.rd_noteWrite _ _).trans (ha.rd_stAll d l)

end NotNoted

/-! ### Reads and stores where no burst fails (R277 to R279) -/

theorem noteRead_edc_of_nil (h : s.edc = []) (d n : Nat) : (noteRead s d n).edc = [] := by
  unfold noteRead
  dsimp only
  rw [h, List.foldl_nil, foldl_keep uncorrectable State.edc fun t v => uncorrectable_edc t v,
    foldl_keep corrected State.edc fun t v => corrected_edc t v, h]

/-- A store where no burst fails makes none fail and poisons nothing. -/
theorem noteWrite_of_edc_nil (h : s.edc = []) (p n : Nat) : (noteWrite s p n).edc = [] ∧ (noteWrite s p n).poison ⊆ s.poison := by
  have hedc (us vs : List Nat) : (vs.foldl uncorrectable (us.foldl corrected s)).edc = [] := by
    rw [foldl_keep uncorrectable State.edc fun t v => uncorrectable_edc t v,
      foldl_keep corrected State.edc fun t v => corrected_edc t v, h]
  have hpoison (us vs : List Nat) : (vs.foldl uncorrectable (us.foldl corrected s)).poison = s.poison := by
    rw [foldl_keep uncorrectable State.poison fun t v => uncorrectable_poison t v,
      foldl_keep corrected State.poison fun t v => corrected_poison t v]
  unfold noteWrite
  dsimp only
  simp only [hedc, List.foldl_nil, hpoison, true_and]
  exact fun v hv => List.mem_of_mem_filter hv

theorem stBytes_of_edc_nil (h : s.edc = []) (d : Nat) (l : List Byte) :
    (stBytes s d l).edc = [] ∧ (stBytes s d l).poison ⊆ s.poison := by
  have hall : (stAll s d l).edc = [] ∧ (stAll s d l).poison ⊆ s.poison :=
    ⟨by rw [stAll_edc, h], by rw [stAll_poison]; exact fun _ => id⟩
  unfold stBytes
  dsimp only
  repeat' split
  · exact hall
  · exact hall
  · exact hall
  · obtain ⟨hedc, hpoison⟩ := noteWrite_of_edc_nil hall.1 (physAddr s d) l.length
    exact ⟨hedc, fun v hv => hall.2 (hpoison hv)⟩

/-- Where no burst fails, data is poisoned by a unit that is. -/
theorem poisoned_of_edc_nil (h : s.edc = []) : poisoned s a n = !(unitsIn s.poison (physAddr s a) n).isEmpty := by
  simp [poisoned, h]

theorem glideRefused_awake (h : s.pwr.pstate ≠ .glide) : glideRefused s a n = false := by
  simp [glideRefused, gdrClosed, h]

/-! ### Lines moved one after another (R272, R273) -/

/-- `t` is `s` after lines of an entry: every address reaches its place as before, no burst fails, nothing else is poisoned, and the
count of lines and the engines stand. -/
structure LinesMoved (s t : State) : Prop where
  redirect : ∀ k, k < 68 → rd t (R.memRedir k) = rd s (R.memRedir k)
  edc : t.edc = []
  poison : t.poison ⊆ s.poison
  count : rd t R.memLines = rd s R.memLines
  memx : t.memx = s.memx
  pwr : t.pwr = s.pwr
  straps : t.straps = s.straps

/-- What one line leaves: its source is read, its bytes are stored. -/
def lineMoved (x : List Byte) (t : State) (l : Nat × Nat × Nat) : State :=
  stBytes (if isCopy x then noteRead t l.1 l.2.2 else t) l.2.1 (lineData t x l)

namespace LinesMoved

theorem refl (h : s.edc = []) : LinesMoved s s := ⟨fun _ _ => rfl, h, fun _ => id, rfl, rfl, rfl, rfl⟩

theorem noteRead (h : LinesMoved s t) (d n : Nat) : LinesMoved s (noteRead t d n) where
  redirect k hk := ((onlyNoted_noteRead d n).places.redirect k hk).trans (h.redirect k hk)
  edc := noteRead_edc_of_nil h.edc d n
  poison := by rw [noteRead_poison]; exact h.poison
  count := (NotNoted.memLines.rd_noteRead d n).trans h.count
  memx := by rw [noteRead_memx, h.memx]
  pwr := by rw [noteRead_pwr, h.pwr]
  straps := by rw [noteRead_straps, h.straps]

theorem stBytes (h : LinesMoved s t) (d : Nat) (l : List Byte) : LinesMoved s (stBytes t d l) where
  redirect k hk := (rd_stBytes_redir hk).trans (h.redirect k hk)
  edc := (stBytes_of_edc_nil h.edc d l).1
  poison _ hv := h.poison ((stBytes_of_edc_nil h.edc d l).2 hv)
  count := (NotNoted.memLines.rd_stBytes d l).trans h.count
  memx := by rw [stBytes_memx, h.memx]
  pwr := by rw [stBytes_pwr, h.pwr]
  straps := by rw [stBytes_straps, h.straps]

theorem read (h : LinesMoved s t) (c : Bool) (d n : Nat) : LinesMoved s (if c then Machine.noteRead t d n else t) := by
  cases c
  · exact h
  · exact h.noteRead d n

theorem lineMoved (h : LinesMoved s t) (l : Nat × Nat × Nat) : LinesMoved s (lineMoved x t l) := (h.read _ _ _).stBytes _ _

theorem foldl (h : LinesMoved s t) (ls : List (Nat × Nat × Nat)) : LinesMoved s (ls.foldl (Machine.lineMoved x) t) := by
  induction ls generalizing t with
  | nil => exact h
  | cons l ls ih => exact ih (h.lineMoved l)

/-- What was not poisoned before the lines is not poisoned behind them. -/
theorem poisoned (h : LinesMoved s t) (hedc : s.edc = []) (hp : poisoned s a n = false) : poisoned t a n = false := by
  rw [poisoned_of_edc_nil hedc] at hp
  rw [poisoned_of_edc_nil h.edc, physAddr_of_redirect h.redirect]
  simp only [unitsIn, Bool.not_eq_false', List.isEmpty_iff, List.filter_eq_nil_iff] at hp ⊢
  exact fun v hv => hp v (h.poison hv)

theorem plainRam (h : LinesMoved s t) (hp : plainRam s a n) : plainRam t a n := by
  simpa only [Machine.plainRam, gdrBytes, h.pwr, h.straps] using hp

end LinesMoved

/-- Outside GLIDE, lines whose sources are not poisoned are all moved. -/
theorem moveLines_all (hedc : s.edc = []) (hglide : s.pwr.pstate ≠ .glide) (ls : List (Nat × Nat × Nat))
    (hsound : isCopy x = true → ∀ l ∈ ls, poisoned s l.1 l.2.2 = false) (h : LinesMoved s t) (k : Nat) :
    moveLines x ls t k = (ls.foldl (lineMoved x) t, k + ls.length, true) := by
  induction ls generalizing t k with
  | nil => rfl
  | cons l ls ih =>
    have hawake (d m : Nat) : glideRefused t d m = false := glideRefused_awake (h.pwr ▸ hglide)
    have hclean : (isCopy x && poisoned t l.1 l.2.2) = false := by
      cases hx : isCopy x
      · rfl
      · exact h.poisoned hedc (hsound hx l List.mem_cons_self)
    rw [moveLines, hawake, hawake, hclean]
    simp only [Bool.and_false, Bool.or_false, Bool.false_eq_true, if_false]
    refine (ih (fun hx m hm => hsound hx m (List.mem_cons_of_mem _ hm)) (h.lineMoved l) (k + 1)).trans ?_
    rw [List.foldl_cons, List.length_cons, Nat.add_right_comm, Nat.add_assoc]

/-- A first line that is poisoned is read and nothing is written. -/
theorem moveLines_poisoned {l : Nat × Nat × Nat} {ls : List (Nat × Nat × Nat)} (hglide : s.pwr.pstate ≠ .glide) (hx : isCopy x = true)
    (hp : poisoned s l.1 l.2.2 = true) : moveLines x (l :: ls) s 0 = (noteRead s l.1 l.2.2, 0, false) := by
  simp [moveLines, glideRefused_awake hglide, hx, hp]

end
end Sys2Proof.Machine
end

section
/-! SUPPORT. Where the rows and lines of an entry lie, and the bytes that its lines place in plain memory (R270 to R273). -/

namespace Sys2Proof.Machine
section
variable {s t : State} {x : List Byte} {a n i o : Nat} {r : Nat × Nat} {l : Nat × Nat × Nat}

/-! ### Rows and lines (R270, R272) -/

theorem mem_entryRows : r ∈ entryRows x ↔
    ∃ k < rec8 x 8 4, r = (rec8 x 16 8 + k * rec8 x 32 4, rec8 x 24 8 + k * rec8 x 36 4) := by
  simp only [entryRows, List.mem_map, List.mem_range, eq_comm]

/-- Line `l` is that part of row `r` that starts `o` bytes into it. -/
structure LineAt (n : Nat) (r : Nat × Nat) (o : Nat) (l : Nat × Nat × Nat) : Prop where
  src : l.1 = r.1 + o
  dst : l.2.1 = r.2 + o
  pos : 0 < l.2.2
  fits : o + l.2.2 ≤ n

theorem lineAt_of_mem_rowLines {k src dst : Nat} (h : l ∈ rowLines k src dst n) : ∃ o, LineAt n (src, dst) o l := by
  induction k generalizing src dst n with
  | zero => exact absurd h List.not_mem_nil
  | succ k ih =>
    rw [rowLines] at h
    split at h
    · exact absurd h List.not_mem_nil
    · rcases List.mem_cons.mp h with rfl | h
      · exact ⟨0, rfl, rfl, by dsimp only; omega, by dsimp only; omega⟩
      · obtain ⟨o, hsrc, hdst, hpos, hfits⟩ := ih h
        dsimp only at hsrc hdst
        exact ⟨min n (64 - dst % 64) + o, by dsimp only; omega, by dsimp only; omega, hpos, by omega⟩

/-- Every byte of a row is in one of its lines. -/
theorem rowLines_cover {k src dst : Nat} (hk : n ≤ k) (hi : i < n) :
    ∃ l ∈ rowLines k src dst n, l.2.1 ≤ dst + i ∧ dst + i < l.2.1 + l.2.2 := by
  induction k generalizing src dst n i with
  | zero => omega
  | succ k ih =>
    rw [rowLines, if_neg (by omega)]
    by_cases hfirst : i < min n (64 - dst % 64)
    · exact ⟨_, List.mem_cons_self, by dsimp only; omega, by dsimp only; omega⟩
    · obtain ⟨l, hl, hle, hlt⟩ := @ih (n - min n (64 - dst % 64)) (i - min n (64 - dst % 64)) (src + min n (64 - dst % 64))
        (dst + min n (64 - dst % 64)) (by omega) (by omega)
      exact ⟨l, List.mem_cons_of_mem _ hl, by omega, by omega⟩

theorem lineAt_of_mem_entryLines (h : l ∈ entryLines x) : ∃ r ∈ entryRows x, ∃ o, LineAt (rec8 x 4 4) r o l := by
  obtain ⟨ls, hls, hl⟩ := List.mem_flatten.mp h
  obtain ⟨r, hr, rfl⟩ := List.mem_map.mp hls
  exact ⟨r, hr, lineAt_of_mem_rowLines hl⟩

theorem entryLines_cover (hr : r ∈ entryRows x) (hi : i < rec8 x 4 4) :
    ∃ l ∈ entryLines x, l.2.1 ≤ r.2 + i ∧ r.2 + i < l.2.1 + l.2.2 := by
  obtain ⟨l, hl, hin⟩ := rowLines_cover (src := r.1) (dst := r.2) (le_refl _) hi
  exact ⟨l, List.mem_flatten.mpr ⟨_, List.mem_map.mpr ⟨r, hr, rfl⟩, hl⟩, hin⟩

/-- The first line of an entry runs from the start of its first row to the end of the destination line. -/
theorem entryLines_first (hn : 1 ≤ rec8 x 4 4) (hrows : 1 ≤ rec8 x 8 4) :
    ∃ ls, entryLines x = (rec8 x 16 8, rec8 x 24 8, min (rec8 x 4 4) (64 - rec8 x 24 8 % 64)) :: ls := by
  obtain ⟨k, hk⟩ : ∃ k, rec8 x 8 4 = k + 1 := ⟨_, (Nat.sub_add_cancel hrows).symm⟩
  obtain ⟨m, hm⟩ : ∃ m, rec8 x 4 4 = m + 1 := ⟨_, (Nat.sub_add_cancel hn).symm⟩
  rw [entryLines, entryRows, hk, List.range_succ_eq_map, hm]
  simp only [List.map_cons, List.flatten_cons, rowLines, Nat.zero_mul, Nat.add_zero, Nat.add_one_ne_zero, if_false, List.cons_append]
  exact ⟨_, rfl⟩

/-! ### What the checks of an entry give (R271) -/

/-- The checks of R271 that the moves of an entry rest on. -/
structure EntryFormed (s : State) (x : List Byte) : Prop where
  bytes : 1 ≤ rec8 x 4 4
  rows : 1 ≤ rec8 x 8 4
  stride : rec8 x 4 4 ≤ rec8 x 36 4
  source : isCopy x = true → rec8 x 4 4 ≤ rec8 x 32 4
  range : isCopy x = true → ∀ r ∈ entryRows x, rangeOk s r.1 (rec8 x 4 4) = true
  apart : isCopy x = true → ∀ r ∈ entryRows x, ∀ q ∈ entryRows x, overlaps r.1 (rec8 x 4 4) q.2 (rec8 x 4 4) = false

theorem entryFormed_of_entryForm (h : entryForm s x = true) : EntryFormed s x := by
  simp only [entryForm, Bool.and_eq_true, Bool.or_eq_true, Bool.not_eq_true', decide_eq_true_eq, List.all_eq_true] at h
  obtain ⟨⟨⟨⟨⟨⟨⟨⟨-, -⟩, hn, -⟩, hrows, -⟩, hsource⟩, hstride⟩, -⟩, hrange⟩, hapart⟩ := h
  have hcopy {p : Prop} (hp : isCopy x = false ∨ p) (hx : isCopy x = true) : p := hp.resolve_left (by simp [hx])
  exact ⟨hn, hrows, hstride, hcopy hsource, fun hx r hr => hcopy (hrange r hr).2 hx, hcopy hapart⟩

/-- The places of a range lie on end: it is in one tile, or outside the redirect table (R20, R262). -/
theorem physAddr_add (h : rangeOk s a n = true) (ho : o < n) : physAddr s (a + o) = physAddr s a + o := by
  by_cases ha : a < 68 * 0x80000
  · have hin : a + n ≤ a / 0x80000 * 0x80000 + 0x80000 := by simpa [rangeOk, addrRange, ha] using h
    have hdiv : (a + o) / 0x80000 = a / 0x80000 := by omega
    have hmod : (a + o) % 0x80000 = a % 0x80000 + o := by omega
    rw [physAddr, physAddr, if_pos ha, if_pos (by omega), hdiv, hmod]
    dsimp only
    split <;> omega
  · rw [physAddr, physAddr, if_neg ha, if_neg (by omega)]

/-- A line of a row that is not poisoned is not poisoned. -/
theorem LineAt.sound (h : LineAt n r o l) (hedc : s.edc = []) (hrange : rangeOk s r.1 n = true) (hp : poisoned s r.1 n = false) :
    poisoned s l.1 l.2.2 = false := by
  obtain ⟨hsrc, -, hpos, hfits⟩ := h
  rw [poisoned_of_edc_nil hedc] at hp ⊢
  rw [hsrc, physAddr_add hrange (by omega)]
  simp only [unitsIn, Bool.not_eq_false', List.isEmpty_iff, List.filter_eq_nil_iff, Bool.and_eq_true, decide_eq_true_eq] at hp ⊢
  exact fun v hv hmeet => hp v hv (by omega)

/-! ### The bytes of an entry (R272, R273) -/

/-- The byte that an entry places at a destination address, by the row and the offset in the row that the address lies at. -/
def entryByte (s : State) (x : List Byte) (y : Nat) : Byte :=
  let row := (y - rec8 x 24 8) / rec8 x 36 4
  let off := (y - rec8 x 24 8) % rec8 x 36 4
  if isCopy x then ldByte s (rec8 x 16 8 + row * rec8 x 32 4 + off) else BitVec.ofNat 8 (rec8 x 12 4 / 256 ^ (off % 4))

/-- Offset `i` of row `r`, as the entry's byte there names it. -/
theorem entryByte_row (h : EntryFormed s x) (hr : r ∈ entryRows x) (hi : i < rec8 x 4 4) : entryByte s x (r.2 + i) =
    if isCopy x then ldByte s (r.1 + i) else BitVec.ofNat 8 (rec8 x 12 4 / 256 ^ (i % 4)) := by
  obtain ⟨k, -, rfl⟩ := mem_entryRows.mp hr
  have hlt : i < rec8 x 36 4 := hi.trans_le h.stride
  have hoff : rec8 x 24 8 + k * rec8 x 36 4 + i - rec8 x 24 8 = k * rec8 x 36 4 + i := by omega
  have hrow : (k * rec8 x 36 4 + i) / rec8 x 36 4 = k := by
    rw [Nat.mul_comm, Nat.mul_add_div (by omega), Nat.div_eq_of_lt hlt, Nat.add_zero]
  simp only [entryByte, hoff, hrow, Nat.mul_add_mod', Nat.mod_eq_of_lt hlt]

/-- Of starts at a stride, the last at or before address `a`. -/
theorem foldl_last_start {d0 st k N : Nat} (d : Nat) (hk : k < N) (hle : d0 + k * st ≤ a) (hlt : a < d0 + (k + 1) * st) :
    (List.range N).foldl (fun d j => if d0 + j * st ≤ a then d0 + j * st else d) d = d0 + k * st := by
  induction N with
  | zero => omega
  | succ N ih =>
    rw [List.range_succ, List.foldl_append, List.foldl_cons, List.foldl_nil]
    by_cases hN : k = N
    · rw [← hN, if_pos hle]
    · have hbeyond : (k + 1) * st ≤ N * st := Nat.mul_le_mul_right _ (by omega)
      rw [if_neg (by omega), ih (by omega)]

/-- The row of a FILL entry from whose start the pattern of a line is counted. -/
theorem fillRow_of_lineAt (h : EntryFormed s x) (hr : r ∈ entryRows x) (hl : LineAt (rec8 x 4 4) r o l) :
    (entryRows x).foldl (fun d q => if q.2 ≤ l.2.1 then q.2 else d) l.2.1 = r.2 := by
  obtain ⟨k, hk, rfl⟩ := mem_entryRows.mp hr
  obtain ⟨-, hdst, hpos, hfits⟩ := hl
  have hstride := h.stride
  rw [entryRows, List.foldl_map]
  exact foldl_last_start _ hk (by dsimp only at hdst; omega) (by rw [Nat.add_mul]; dsimp only at hdst; omega)

theorem getD_ldBytes (hi : i < n) : (ldBytes s a n).getD i 0 = ldByte s (a + i) := by
  induction n generalizing a i with
  | zero => omega
  | succ n ih =>
    cases i with
    | zero => rfl
    | succ i => exact (ih (by omega)).trans (by rw [show a + 1 + i = a + (i + 1) by omega])

theorem ldBytes_congr {b : Nat} (h : ∀ i, i < n → ldByte t (a + i) = ldByte s (b + i)) : ldBytes t a n = ldBytes s b n := by
  induction n generalizing a b with
  | zero => rfl
  | succ n ih =>
    have hrest := ih (a := a + 1) (b := b + 1) fun i hi => by
      rw [show a + 1 + i = a + (i + 1) by omega, show b + 1 + i = b + (i + 1) by omega]
      exact h (i + 1) (by omega)
    exact congrArg₂ List.cons (h 0 (Nat.succ_pos n)) hrest

theorem length_lineData : (lineData t x l).length = l.2.2 := by
  unfold lineData
  split
  · exact ldBytes_length _ _
  · simp

/-- The bytes of a line are the entry's bytes at its addresses, where its source reads as before. -/
theorem getD_lineData (h : EntryFormed s x) (hr : r ∈ entryRows x) (hl : LineAt (rec8 x 4 4) r o l) (hi : i < l.2.2)
    (hsrc : isCopy x = true → ldByte t (l.1 + i) = ldByte s (l.1 + i)) :
    (lineData t x l).getD i 0 = entryByte s x (l.2.1 + i) := by
  have hfits := hl.fits
  rw [hl.dst, Nat.add_assoc, entryByte_row h hr (by omega), lineData]
  split
  case isTrue hx => rw [getD_ldBytes hi, hsrc hx, hl.src, Nat.add_assoc]
  case isFalse =>
    dsimp only
    rw [fillRow_of_lineAt h hr hl, hl.dst, Nat.add_sub_cancel_left]
    simp [hi]

/-! ### The bytes that lines leave in plain memory (R20, R272) -/

/-- An entry whose rows lie in plain memory, where no burst fails and fences hold stores to tiles only. -/
structure PlainEntry (s : State) (x : List Byte) : Prop where
  form : EntryFormed s x
  edc : s.edc = []
  held : ∀ e ∈ s.heldWrites, e.addr < 68 * 0x80000
  dst : ∀ r ∈ entryRows x, plainRam s r.2 (rec8 x 4 4)
  src : isCopy x = true → ∀ r ∈ entryRows x, plainRam s r.1 (rec8 x 4 4)

/-- Address `y` reaches no byte of the entry's destinations. -/
def OffRows (s : State) (x : List Byte) (y : Nat) : Prop := ∀ r ∈ entryRows x, ∀ i, i < rec8 x 4 4 → physAddr s y ≠ r.2 + i

/-- The state `t` that lines of a plain entry have made of `s`. -/
structure PlainMoved (s : State) (x : List Byte) (t : State) : Prop where
  moved : LinesMoved s t
  held : t.heldWrites = s.heldWrites
  apart : ∀ y, OffRows s x y → ldByte t y = ldByte s y

theorem plainRam_within {m : Nat} (h : plainRam s a n) (ho : o + m ≤ n) : plainRam s (a + o) m := by
  unfold plainRam at h ⊢
  rcases h with h | h | ⟨h, h', hglide⟩ | h
  · exact .inl (by omega)
  · exact .inr (.inl (by omega))
  · exact .inr (.inr (.inl ⟨by omega, by omega, hglide⟩))
  · exact .inr (.inr (.inr (by omega)))

namespace PlainEntry

/-- No source byte of a COPY entry is a destination byte. -/
theorem source_offRows (h : PlainEntry s x) (hx : isCopy x = true) (hr : r ∈ entryRows x) (hi : i < rec8 x 4 4) :
    OffRows s x (r.1 + i) := by
  intro q hq j hj
  have hapart := h.form.apart hx r hr q hq
  rw [(direct_of_plainRam (h.src hx r hr) hi).phys]
  simp only [overlaps, Bool.and_eq_false_iff, decide_eq_false_iff_not] at hapart
  omega

/-- One line of a plain entry: its addresses then read the entry's bytes, and every other place reads as before. -/
theorem lineMoved (h : PlainEntry s x) (ht : PlainMoved s x t) (hl : l ∈ entryLines x) : PlainMoved s x (lineMoved x t l) ∧
    (∀ i, i < l.2.2 → ldByte (lineMoved x t l) (l.2.1 + i) = entryByte s x (l.2.1 + i)) ∧
    ∀ y, (∀ i, i < l.2.2 → physAddr s y ≠ l.2.1 + i) → ldByte (lineMoved x t l) y = ldByte t y := by
  obtain ⟨r, hr, o, hat⟩ := lineAt_of_mem_entryLines hl
  have hfits := hat.fits
  have hread : SamePlaces t (if isCopy x then noteRead t l.1 l.2.2 else t) := by
    split
    · exact (onlyNoted_noteRead _ _).places
    · exact .refl
  have hmoved := ht.moved.read (isCopy x) l.1 l.2.2
  have hlength : (lineData t x l).length = l.2.2 := length_lineData
  have hplain : plainRam (if isCopy x then noteRead t l.1 l.2.2 else t) l.2.1 (lineData t x l).length := by
    rw [hlength, hat.dst]
    exact hmoved.plainRam (plainRam_within (h.dst r hr) hfits)
  have hheld := hread.held.trans ht.held
  obtain ⟨hin, hout⟩ := ldByte_stBytes_plain hplain (hheld ▸ h.held)
  rw [hlength] at hin hout
  have hother (y : Nat) (hy : ∀ i, i < l.2.2 → physAddr s y ≠ l.2.1 + i) : ldByte (Machine.lineMoved x t l) y = ldByte t y :=
    (hout y fun i hi => by rw [physAddr_of_redirect hmoved.redirect]; exact hy i hi).trans (hread.sameBytes y)
  refine ⟨⟨ht.moved.lineMoved l, ?_, fun y hy => (hother y fun i hi => ?_).trans (ht.apart y hy)⟩, fun i hi => ?_, hother⟩
  · exact stBytes_heldWrites_eq.trans ((stAll_of_direct fun i hi => direct_of_plainRam hplain hi).1.trans hheld)
  · rw [hat.dst, Nat.add_assoc]
    exact hy r hr (o + i) (by omega)
  · refine (hin i hi).trans (getD_lineData h.form hr hat hi fun hx => ht.apart _ ?_)
    rw [hat.src, Nat.add_assoc]
    exact h.source_offRows hx hr (by omega)

/-- Lines of a plain entry: an address outside the tiles that reads the entry's byte, or lies in one of the lines, reads it afterwards. -/
theorem foldl_lineMoved (h : PlainEntry s x) (ls : List (Nat × Nat × Nat)) (hls : ∀ l ∈ ls, l ∈ entryLines x) (ht : PlainMoved s x t) :
    PlainMoved s x (ls.foldl (Machine.lineMoved x) t) ∧
    ∀ y, physAddr s y = y → (ldByte t y = entryByte s x y ∨ ∃ l ∈ ls, l.2.1 ≤ y ∧ y < l.2.1 + l.2.2) →
      ldByte (ls.foldl (Machine.lineMoved x) t) y = entryByte s x y := by
  induction ls generalizing t with
  | nil => exact ⟨ht, fun y _ hy => hy.resolve_right (by simp)⟩
  | cons l ls ih =>
    obtain ⟨hmoved, hin, hout⟩ := h.lineMoved ht (hls l List.mem_cons_self)
    obtain ⟨hend, hall⟩ := ih (fun m hm => hls m (List.mem_cons_of_mem _ hm)) hmoved
    refine ⟨hend, fun y hphys hy => hall y hphys ?_⟩
    by_cases hon : l.2.1 ≤ y ∧ y < l.2.1 + l.2.2
    · exact .inl (by simpa [Nat.add_sub_cancel' hon.1] using hin (y - l.2.1) (by omega))
    · rcases hy with hy | ⟨m, hm, hy⟩
      · exact .inl ((hout y fun i hi => by omega).trans hy)
      · rcases List.mem_cons.mp hm with rfl | hm
        · exact absurd hy hon
        · exact .inr ⟨m, hm, hy⟩

/-- All lines of a plain entry: its rows read their bytes, every other place reads as before. -/
theorem all_lines (h : PlainEntry s x) : let u := (entryLines x).foldl (Machine.lineMoved x) s
    (∀ y, OffRows s x y → ldByte u y = ldByte s y) ∧
    ∀ r ∈ entryRows x, ∀ i, i < rec8 x 4 4 → ldByte u (r.2 + i) =
      if isCopy x then ldByte s (r.1 + i) else BitVec.ofNat 8 (rec8 x 12 4 / 256 ^ (i % 4)) := by
  obtain ⟨hend, hall⟩ := h.foldl_lineMoved (entryLines x) (fun _ => id) ⟨.refl h.edc, rfl, fun _ _ => rfl⟩
  refine ⟨hend.apart, fun r hr i hi => ?_⟩
  rw [← entryByte_row h.form hr hi]
  exact hall _ (direct_of_plainRam (h.dst r hr) hi).phys (.inr (entryLines_cover hr hi))

end PlainEntry
end
end Sys2Proof.Machine
end

section
/-! SUPPORT. A copy or fill entry in the hand of its engine (R271 to R275, R576); settles O34. -/

namespace Sys2Proof.Machine
section
variable {s t : State} {c d : CopyJob} {x : List Byte} {op e n : Nat}

/-! ### The end of an entry (R273, R274) -/

/-- The state behind the lines of an entry: those moved are counted, those of its stores that a fence holds are the job's, and the job
goes on as `d`. -/
def entryDone (s t : State) (o : Owner) (e n : Nat) (d : CopyJob) : State := setCe (issued o s (bumpN t R.memLines n)) e (some d)

theorem ceJob_entryDone (o : Owner) : ceJob (entryDone s t o e n d) e = some d := ceJob_setCe_same _ _

theorem samePlaces_entryDone (o : Owner) : SamePlaces t (entryDone s t o e n d) := by
  have hcounted : SamePlaces t (bumpN t R.memLines n) :=
    ⟨fun k hk => rd_bumpN_other _ _ (by simp only [R.memRedir, R.memLines]; omega), rfl, rfl, rfl, rfl, rfl⟩
  exact (hcounted.trans samePlaces_issued).trans (samePlaces_setCe e _)

theorem rd_memLines_entryDone (o : Owner) : rd (entryDone s t o e n d) R.memLines = addSat (rd t R.memLines) n :=
  (rd_setCe_other _ (by simp only [R.memLines, R.memCeStatus]; omega)).trans (rd_bumpN_same _ _ _)

/-! ### What an engine does with the entry in its hand (R271, R272, R576) -/

/-- Engine `e` has entry `x`, a COPY or a FILL, in hand for a job that is neither ended nor asked to abort. -/
structure EntryInHand (s : State) (op e : Nat) (c : CopyJob) (x : List Byte) : Prop where
  job : ceJob s e = some c
  status : c.status = none
  going : abortAsked s c.job.owner = false
  entry : curEntry s c = x
  opcode : rec8 x 0 1 = op
  moves : op = 1 ∨ op = 2

/-- The entry refused by its checks: the error, where only the windows refuse it. -/
def entryRefused (s : State) (c : CopyJob) (x : List Byte) : State :=
  if entryForm s x then memErr s 2 c.job.ctx c.idx else s

theorem samePlaces_entryRefused : SamePlaces s (entryRefused s c x) := by
  unfold entryRefused
  split
  · exact samePlaces_of_regs (onlyRegs_errInfo _ _ _ _) (sameRegsBut_errInfo R.memErr 2 R.memErrInfo _) (by decide)
  · exact .refl

theorem rangeFlag_entryRefused (h : entryForm s x = true) : bit (rd (entryRefused s c x) R.memErr) 2 = true := by
  rw [entryRefused, if_pos h, memErr, rd_errInfo_same _ _ _ (by decide)]
  exact bit_or_bitW _ (by decide)

namespace EntryInHand

theorem waits (h : EntryInHand s op e c x) (hfence : fenceFlag x = true) (hheld : unacked s c.job.owner = true) : runEntry op e s = s := by
  obtain ⟨hjob, hstatus, hgoing, hentry, hop, -⟩ := h
  simp [runEntry, hjob, hstatus, hgoing, hentry, hop, hfence, hheld]

section
variable (h : EntryInHand s op e c x) (hfence : (fenceFlag x && unacked s c.job.owner) = false)
include h hfence

theorem refused (hbad : entryForm s x = false ∨ entryInWindow s (winOf s c.job.ctx) x = false) : runEntry op e s =
    setCe (entryRefused s c x) e (some { c with lines := 0, status := some 0x23 }) := by
  obtain ⟨hjob, hstatus, hgoing, hentry, hop, hmoves⟩ := h
  have hplan : ¬ (op = 3 ∧ c.job.latch = [] ∧ c.entries.length = 1 ∧ c.idx = 0) := fun hp => by omega
  have hcheck : checkEntry s (winOf s c.job.ctx) c.job.ctx c.idx x = (false, entryRefused s c x) := by
    cases hform : entryForm s x
    · simp [checkEntry, entryRefused, hform]
    · simp [checkEntry, entryRefused, hform, hbad.resolve_left (by simp [hform])]
  simp [runEntry, hjob, hstatus, hgoing, hentry, hop, hfence, hcheck, hplan]

theorem moved {k : Nat} {all : Bool} (hform : entryForm s x = true) (hwin : entryInWindow s (winOf s c.job.ctx) x = true)
    (hmove : moveLines x (entryLines x) s 0 = (t, k, all)) : runEntry op e s =
    entryDone s t c.job.owner e k (if all then nextEntry c k else { c with lines := k, status := some 0x26 }) := by
  obtain ⟨hjob, hstatus, hgoing, hentry, hop, hmoves⟩ := h
  have hplan : ¬ (op = 3 ∧ c.job.latch = [] ∧ c.entries.length = 1 ∧ c.idx = 0) := fun hp => by omega
  have hcheck : checkEntry s (winOf s c.job.ctx) c.job.ctx c.idx x = (true, s) := by simp [checkEntry, hform, hwin]
  cases all <;> simp [runEntry, hjob, hstatus, hgoing, hentry, hop, hfence, hcheck, hmove, hplan, entryDone]

end
end EntryInHand

theorem isCopy_iff : isCopy x = true ↔ rec8 x 0 1 = 1 := beq_iff_eq

/-- An entry that may run and whose sources are sound has all its lines moved. -/
theorem runEntry_moves_all (hruns : entryRuns s e c x) (hop : rec8 x 0 1 = op) (hmoves : op = 1 ∨ op = 2)
    (hsound : isCopy x = true → ∀ r ∈ entryRows x, poisoned s r.1 (rec8 x 4 4) = false) : runEntry op e s =
    entryDone s ((entryLines x).foldl (lineMoved x) s) c.job.owner e (entryLines x).length (nextEntry c (entryLines x).length) := by
  obtain ⟨hjob, hstatus, hgoing, hentry, hform, hwin, hfence, hedc, hglide⟩ := hruns
  have hformed := entryFormed_of_entryForm hform
  have hall := moveLines_all hedc hglide (entryLines x) (fun hx l hl => by
    obtain ⟨r, hr, o, hat⟩ := lineAt_of_mem_entryLines hl
    exact hat.sound hedc (hformed.range hx r hr) (hsound hx r hr)) (.refl hedc) 0
  rw [Nat.zero_add] at hall
  have hand : EntryInHand s op e c x := ⟨hjob, hstatus, hgoing, hentry, hop, hmoves⟩
  rw [hand.moved hfence hform hwin hall, if_pos rfl]

theorem runEntry_counts (hruns : entryRuns s e c x) (hop : rec8 x 0 1 = op) (hmoves : op = 1 ∨ op = 2)
    (hsound : isCopy x = true → ∀ r ∈ entryRows x, poisoned s r.1 (rec8 x 4 4) = false) :
    ceJob (runEntry op e s) e = some (nextEntry c (entryLines x).length) ∧
      rd (runEntry op e s) R.memLines = addSat (rd s R.memLines) (entryLines x).length := by
  obtain ⟨-, -, -, -, -, -, -, hedc, -⟩ := id hruns
  rw [runEntry_moves_all hruns hop hmoves hsound, rd_memLines_entryDone, ((LinesMoved.refl hedc).foldl _).count]
  exact ⟨ceJob_entryDone _, rfl⟩

/-- What an entry in plain memory leaves of the bytes. -/
theorem runEntry_places (hinv : Inv s) (hruns : entryRuns s e c x) (hop : rec8 x 0 1 = op) (hmoves : op = 1 ∨ op = 2)
    (hdst : ∀ r ∈ entryRows x, plainRam s r.2 (rec8 x 4 4))
    (hsrc : isCopy x = true → ∀ r ∈ entryRows x, poisoned s r.1 (rec8 x 4 4) = false ∧ plainRam s r.1 (rec8 x 4 4)) :
    (∀ y, OffRows s x y → ldByte (runEntry op e s) y = ldByte s y) ∧
    ∀ r ∈ entryRows x, ∀ i, i < rec8 x 4 4 → ldByte (runEntry op e s) (r.2 + i) =
      if isCopy x then ldByte s (r.1 + i) else BitVec.ofNat 8 (rec8 x 12 4 / 256 ^ (i % 4)) := by
  obtain ⟨-, -, -, -, hform, -, -, hedc, -⟩ := id hruns
  obtain ⟨hout, hin⟩ := PlainEntry.all_lines (s := s) (x := x)
    ⟨entryFormed_of_entryForm hform, hedc, hinv.held, hdst, fun hx r hr => (hsrc hx r hr).2⟩
  rw [runEntry_moves_all hruns hop hmoves fun hx r hr => (hsrc hx r hr).1]
  have hsame := (samePlaces_entryDone (s := s) (t := (entryLines x).foldl (lineMoved x) s) (e := e) (n := (entryLines x).length)
    (d := nextEntry c (entryLines x).length) c.job.owner).sameBytes
  exact ⟨fun y hy => (hsame y).trans (hout y hy), fun r hr i hi => (hsame _).trans (hin r hr i hi)⟩

/-- A first line that is poisoned ends the job with ERR_FAULT and writes nothing. -/
theorem runEntry_faults (hruns : entryRuns s e c x) (hop : rec8 x 0 1 = 1)
    (hp : poisoned s (rec8 x 16 8) (min (rec8 x 4 4) (64 - rec8 x 24 8 % 64)) = true) :
    ceJob (runEntry 1 e s) e = some { c with lines := 0, status := some 0x26 } ∧ SameBytes s (runEntry 1 e s) := by
  obtain ⟨hjob, hstatus, hgoing, hentry, hform, hwin, hfence, hedc, hglide⟩ := hruns
  have hformed := entryFormed_of_entryForm hform
  obtain ⟨ls, hls⟩ := entryLines_first hformed.bytes hformed.rows
  have hand : EntryInHand s 1 e c x := ⟨hjob, hstatus, hgoing, hentry, hop, .inl rfl⟩
  have hmove : moveLines x (entryLines x) s 0 = (noteRead s (rec8 x 16 8) (min (rec8 x 4 4) (64 - rec8 x 24 8 % 64)), 0, false) := by
    rw [hls]
    exact moveLines_poisoned hglide (isCopy_iff.mpr hop) hp
  rw [hand.moved hfence hform hwin hmove, if_neg Bool.false_ne_true]
  exact ⟨ceJob_entryDone _, ((onlyNoted_noteRead _ _).places.trans (samePlaces_entryDone _)).sameBytes⟩

theorem exec_copy (e : Fin 16) (hu : s.up = true) : exec (.copy e) s = .next (runEntry 1 e.val s) :=
  (fabric_up s hu : execCopy e s = _)

theorem exec_fill (e : Fin 16) (hu : s.up = true) : exec (.fill e) s = .next (runEntry 2 e.val s) :=
  (fabric_up s hu : execFill e s = _)

end

/-- Settles O34: the lines of an entry are stores one after another, none of which changes a source byte or writes a byte of another row
otherwise than the entry says (`PlainEntry.foldl_lineMoved`); refusals, faults and holds are the branches of `runEntry`. -/
theorem copyEntriesMoveTheirRows : Obligations.CopyEntriesMoveTheirRows := by
  intro s e c x hu hinv n goes apart
  have hcopied (hx : rec8 x 0 1 = 1) : isCopy x = true := isCopy_iff.mpr hx
  have hfilled (hx : rec8 x 0 1 = 2) : ¬ isCopy x = true := by rw [isCopy_iff]; omega
  have hoff {y : Nat} (hy : ∀ r ∈ entryRows x, ∀ i, i < n → y ≠ r.2 + i ∧ physAddr s y ≠ r.2 + i) : OffRows s x y :=
    fun r hr i hi => (hy r hr i hi).2
  refine ⟨fun hruns hop hsound => ⟨_, exec_copy e hu, runEntry_counts hruns hop (.inl rfl) fun _ => hsound⟩,
    fun hruns hop hrows => ?_,
    fun hruns hop => ⟨_, exec_fill e hu, runEntry_counts hruns hop (.inr rfl) fun hx => absurd hx (hfilled hop)⟩,
    fun hruns hop hrows => ?_, fun hruns hop hp => ⟨_, exec_copy e hu, runEntry_faults hruns hop hp⟩,
    fun hjob hst hgoing hentry hop hfence hbad => ?_, fun hjob hst hgoing hentry hop hfence hheld => ?_⟩
  · obtain ⟨hout, hin⟩ := runEntry_places hinv hruns hop (.inl rfl) (fun r hr => (hrows r hr).2.2) fun _ r hr =>
      ⟨(hrows r hr).1, (hrows r hr).2.1⟩
    refine ⟨_, exec_copy e hu, fun y _ hy => hout y (hoff hy), fun r hr => ldBytes_congr fun i hi => ?_⟩
    rw [hin r hr i hi, if_pos (hcopied hop)]
  · obtain ⟨hout, hin⟩ := runEntry_places hinv hruns hop (.inr rfl) hrows fun hx => absurd hx (hfilled hop)
    refine ⟨_, exec_fill e hu, fun y _ hy => hout y (hoff hy), fun r hr i hi => ?_⟩
    rw [hin r hr i hi, if_neg (hfilled hop)]
  · have hand : EntryInHand s 1 e.val c x := ⟨hjob, hst, hgoing, hentry, hop, .inl rfl⟩
    refine ⟨_, (exec_copy e hu).trans (congrArg _ (hand.refused hfence hbad)), ceJob_setCe_same _ _,
      (samePlaces_entryRefused.trans (samePlaces_setCe _ _)).sameBytes, fun hform => ?_⟩
    rw [rd_setCe_other _ (by simp only [R.memErr, R.memCeStatus]; omega)]
    exact rangeFlag_entryRefused hform
  · have hand : EntryInHand s 1 e.val c x := ⟨hjob, hst, hgoing, hentry, hop, .inl rfl⟩
    exact ⟨_, exec_copy e hu, hand.waits hfence hheld⟩

end Sys2Proof.Machine
end

section
/-! SUPPORT. A predict of the ego filter: the registers a store to host memory leaves, the covariance it stores, the pose it keeps and the
record it forms; the writes of the filter's configuration (R288 to R294, R302, R303, R311, R466); settles O37. -/

namespace Sys2Proof.Machine
section
variable {s t u : State} {a c n : Nat} {l : List Byte} {timer : Bool}

/-! ### Registers above the GDR block (R277, R466) -/

theorem rd_corrected_above (v : Nat) (hv : gdrBase ≤ v) (ha : 0x1A0000 ≤ a) : rd (corrected s v) a = rd s a := by
  rw [corrected, if_pos hv]
  show rd (setBits (bump s R.gdrEccCorr) R.gdrEvent 1) a = rd s a
  rw [rd_setBits_other _ _ (by simp only [R.gdrEvent]; omega), rd_bump_other _ (by simp only [R.gdrEccCorr]; omega)]

theorem rd_uncorrectable_above (v : Nat) (hv : gdrBase ≤ v) (ha : 0x1A0000 ≤ a) : rd (uncorrectable s v) a = rd s a := by
  rw [uncorrectable, if_pos hv]
  dsimp only
  rw [rd_setBits_other _ _ (by simp only [R.gdrEvent]; omega), rd_bump_other _ (by simp only [R.gdrEccUncorr]; omega)]
  split
  · rfl
  · rw [rd_wr_other _ _ (by simp only [R.gdrErrAddrHi]; omega), rd_wr_other _ _ (by simp only [R.gdrErrAddrLo]; omega)]

/-- A posted write to host memory counts errors of the GDR block at most. -/
theorem rd_hostWrite_above (h : Nat) (ha : 0x1A0000 ≤ a) : rd (hostWrite s h l) a = rd s a := by
  have hp : hostBase ≤ hostBase + h := Nat.le_add_right _ _
  unfold hostWrite
  split
  case isFalse => rfl
  case isTrue =>
    have hall : rd (stAll s (hostBase + h) l) a = rd s a := by rw [stAll_host_frame hp]; rfl
    rw [stBytes_host hp]
    unfold noteWrite
    dsimp only
    rw [foldl_keep (edcMeet true (hostBase + h) l.length) (fun t => rd t a) fun t e => by rw [edcMeet_host true _ e hp]]
    refine ((rd_foldl_of_mem _ (fun v hv t => rd_uncorrectable_above v ?_ ha) _).trans
      (rd_foldl_of_mem _ (fun v hv t => rd_corrected_above v ?_ ha) _)).trans hall
    all_goals exact gdrBase_le_of_unitsIn hp (List.mem_of_mem_filter hv)

/-! ### Matrices by formula -/

theorem mAt_mGen {r k i j : Nat} (f : Nat → Nat → Int) (hi : i < r) (hj : j < k) : mAt (mGen r k f) i j = f i j := by
  simp [mAt, mGen, hi, hj]

@[simp] theorem length_mGen (r k : Nat) (f : Nat → Nat → Int) : (mGen r k f).length = r := by simp [mGen]

/-- What `sym24` gives is symmetric: the lower triangle stands for the whole (R288). -/
theorem mAt_sym24_comm {i j : Nat} (f : Nat → Nat → Int) (hi : i < n) (hj : j < n) :
    mAt (sym24 n f).1 i j = mAt (sym24 n f).1 j i := by
  simp only [sym24]
  rw [mAt_mGen _ hi hj, mAt_mGen _ hj hi, max_comm, min_comm]

@[simp] theorem length_sym24 (f : Nat → Nat → Int) : (sym24 n f).1.length = n := length_mGen ..

theorem mAt_floorDiag {m : List (List Int)} {i j : Nat} (hi : i < m.length) (hj : j < m.length) :
    mAt (floorDiag m).1 i j = if i = j then max 1 (mAt m i j) else mAt m i j := mAt_mGen _ hi hj

/-! ### The registers of a predict (R288, R290) -/

/-- The registers that a predict works in, its record apart: TFU_STATUS, the event, the counters and the diagonal. -/
def predictRegs : List Nat := [R.tfuStatus, R.tfuEvent, R.tfuNumericCnt, R.tfuCovsatCnt] ++ (List.range 24).map R.tfuEgoDiag

theorem predictRegs_within (h : a ∈ predictRegs) : 0x1A0000 ≤ a := by
  simp only [predictRegs, List.mem_append, List.mem_cons, List.not_mem_nil, or_false, List.mem_map, List.mem_range] at h
  obtain h | ⟨i, hi, rfl⟩ := h <;> simp only [R.tfuEgoDiag, R.tfuStatus, R.tfuEvent, R.tfuNumericCnt, R.tfuCovsatCnt] at * <;> omega

/-- `t` is `s` but for those registers. -/
structure PredictRegs (s t : State) : Prop where
  only : OnlyRegs s t
  regs : SameRegsBut predictRegs s t

namespace PredictRegs

theorem refl : PredictRegs s s := ⟨.refl, fun _ _ => rfl⟩

theorem wr (h : PredictRegs s t) (ha : a ∈ predictRegs) (v : Word) : PredictRegs s (wr t a v) :=
  ⟨h.only.wr _ _, fun b hb => (rd_wr_other _ _ fun e => hb (by rwa [e])).trans (h.regs b hb)⟩

theorem places (h : PredictRegs s t) : SamePlaces s t :=
  samePlaces_of_regs h.only h.regs fun b hb => by have := predictRegs_within hb; omega

theorem tfu (h : PredictRegs s t) : t.tfu = s.tfu := by
  obtain ⟨r, rfl⟩ := h.only
  rfl

theorem ifc (h : PredictRegs s t) : t.ifc = s.ifc := by
  obtain ⟨r, rfl⟩ := h.only
  rfl

theorem tfuEvent (h : PredictRegs s t) (b : Nat) : PredictRegs s (tfuEvent t b) := h.wr (by simp [predictRegs]) _

theorem status (h : PredictRegs s t) (hi lo v : Nat) : PredictRegs s (wf t R.tfuStatus hi lo v) := h.wr (by simp [predictRegs]) _

end PredictRegs

/-- The 24 diagonal registers with the values `v`. -/
def diagShown (s : State) (v : Nat → Word) : State := (List.range 24).foldl (fun t i => wr t (R.tfuEgoDiag i) (v i)) s

theorem PredictRegs.diagShown (v : Nat → Word) (h : PredictRegs s t) : PredictRegs s (diagShown t v) :=
  List.foldlRecOn (motive := PredictRegs s) _ _ h fun _ ht _ hi => ht.wr (List.mem_append_right _ (List.mem_map_of_mem hi)) _

theorem rd_diagShown (v : Nat → Word) (ha : a < R.tfuEgoDiag 0) : rd (diagShown s v) a = rd s a :=
  foldl_keep _ (fun t => rd t a) (fun _ i => rd_wr_other _ _ (by simp only [R.tfuEgoDiag] at ha ⊢; omega)) _ _

/-! ### The work of a predict (R288, R292) -/

/-- `t` is `s` but for what a predict works in: its registers, and the fields of the filter apart from its history and its
numbers of predicts and records. -/
structure PredictWork (s t : State) : Prop where
  places : SamePlaces s t
  ifc : t.ifc = s.ifc
  hist : t.tfu.hist = s.tfu.hist
  count : t.tfu.count = s.tfu.count
  seq : t.tfu.seq = s.tfu.seq
  regs : SameRegsBut predictRegs s t

namespace PredictWork

theorem trans (h : PredictWork s t) (k : PredictWork t u) : PredictWork s u :=
  ⟨h.places.trans k.places, k.ifc.trans h.ifc, k.hist.trans h.hist, k.count.trans h.count, k.seq.trans h.seq,
    fun a ha => (k.regs a ha).trans (h.regs a ha)⟩

theorem of_regs (h : PredictRegs s t) : PredictWork s t := ⟨h.places, h.ifc, by rw [h.tfu], by rw [h.tfu], by rw [h.tfu], h.regs⟩

theorem refl : PredictWork s s := of_regs .refl

/-- Fields of the filter that a predict works in. -/
theorem filter (h : PredictWork s t) {f : Tfu} (hhist : f.hist = t.tfu.hist) (hcount : f.count = t.tfu.count)
    (hseq : f.seq = t.tfu.seq) : PredictWork s { t with tfu := f } :=
  h.trans ⟨⟨fun _ _ => rfl, rfl, rfl, rfl, rfl, rfl⟩, rfl, hhist, hcount, hseq, fun _ _ => rfl⟩

theorem poseFlag (h : PredictWork s t) (b : Nat) : PredictWork s (poseFlag t b) := h.filter rfl rfl rfl

theorem setSource (h : PredictWork s t) (c : Nat) : PredictWork s (setSource t c) := by
  have hstatus : PredictRegs t (wf t R.tfuStatus 5 4 c) := .status .refl ..
  unfold Machine.setSource
  dsimp only
  repeat' split
  · exact h
  · exact h.trans (.of_regs (hstatus.tfuEvent 1))
  · exact (h.trans (.of_regs (hstatus.tfuEvent 2))).poseFlag 6

theorem noteGood (h : PredictWork s t) (o : IfcOut) : PredictWork s (noteGood t o) := by
  unfold Machine.noteGood
  split
  · exact h
  · exact h.filter rfl rfl rfl

theorem usedSamples (h : PredictWork s t) (o : IfcOut) : PredictWork s (usedSamples t o).2 := by
  unfold Machine.usedSamples
  split
  · exact h.poseFlag 4
  · exact h.noteGood o

theorem covSat (h : PredictWork s t) (k : Nat) : PredictWork s (covSat t k) := by
  have hcount : PredictRegs t (bumpN t R.tfuCovsatCnt k) := PredictRegs.refl.wr (by simp [predictRegs]) _
  unfold Machine.covSat
  split
  · exact h
  · exact (h.trans (.of_regs (hcount.tfuEvent 5))).poseFlag 8

end PredictWork

/-! ### The covariance written back (R288) -/

/-- The covariance with its floor, counted. -/
def covFloored (s : State) (p : List (List Int)) : State :=
  bumpN { s with tfu := { s.tfu with p := (floorDiag p).1 } } R.tfuNumericCnt (floorDiag p).2

theorem setCov_eq (p : List (List Int)) (k : Nat) : setCov s p k =
    diagShown (covSat (covFloored s p) k) fun i => BitVec.ofInt 32 (mAt (floorDiag p).1 i i) := rfl

theorem PredictWork.setCov (h : PredictWork s t) (p : List (List Int)) (k : Nat) : PredictWork s (setCov t p k) := by
  have hfloor : PredictWork s (covFloored t p) := (h.filter (f := { t.tfu with p := (floorDiag p).1 }) rfl rfl rfl).trans
    (.of_regs (PredictRegs.refl.wr (by simp [predictRegs]) _))
  exact (hfloor.covSat k).trans (.of_regs (PredictRegs.refl.diagShown _))

theorem covSat_leaves (k : Nat) : let v := covSat s k
    v.tfu.pose = s.tfu.pose ∧ v.tfu.rate = s.tfu.rate ∧ v.tfu.p = s.tfu.p ∧ rd v R.tfuStatus = rd s R.tfuStatus := by
  unfold covSat
  split
  · exact ⟨rfl, rfl, rfl, rfl⟩
  · exact ⟨rfl, rfl, rfl, (rd_setBits_other _ _ (by decide)).trans (rd_bumpN_other _ _ (by decide))⟩

theorem setCov_leaves (p : List (List Int)) (k : Nat) : let v := setCov s p k
    v.tfu.pose = s.tfu.pose ∧ v.tfu.rate = s.tfu.rate ∧ v.tfu.p = (floorDiag p).1 ∧ tfuSource v = tfuSource s := by
  obtain ⟨hpose, hrate, hp, hstatus⟩ := covSat_leaves (s := covFloored s p) k
  dsimp only
  rw [setCov_eq, tfuSource, rf, rd_diagShown _ (by decide), hstatus, (PredictRegs.diagShown _ .refl).tfu]
  exact ⟨hpose, hrate, hp, by rw [covFloored, rd_bumpN_other _ _ (by decide)]; rfl⟩

/-- An entry of Φ P Φ^T + Q in 2^−48 (R292). -/
def predictEntry (s : State) (phi : List (List Int)) (ns k i j : Nat) : Int :=
  dot48 (mRow (gen24 (tfuN s) (tfuN s) fun i j => dot48 (mRow (satMat phi).1 i) (mRow s.tfu.p j)).1 i) (mRow (satMat phi).1 j) +
    if i = j then noiseOf s i ns k * 2 ^ 24 else 0

/-- A predict stores what `sym24` makes of these entries. -/
theorem predictCov_eq (phi : List (List Int)) (ns k : Nat) :
    ∃ c, predictCov s phi ns k = setCov s (sym24 (tfuN s) (predictEntry s phi ns k)).1 c := by
  unfold predictCov
  dsimp only
  exact ⟨_, rfl⟩

theorem PredictWork.predictCov (h : PredictWork s t) (phi : List (List Int)) (ns k : Nat) : PredictWork s (predictCov t phi ns k) := by
  obtain ⟨c, heq⟩ := predictCov_eq (s := t) phi ns k
  rw [heq]
  exact h.setCov _ c

theorem predictCov_leaves (phi : List (List Int)) (ns k : Nat) : let v := predictCov s phi ns k
    v.tfu.pose = s.tfu.pose ∧ v.tfu.rate = s.tfu.rate ∧ tfuSource v = tfuSource s := by
  obtain ⟨c, heq⟩ := predictCov_eq (s := s) phi ns k
  rw [heq]
  obtain ⟨hpose, hrate, -, hsource⟩ := setCov_leaves (s := s) (sym24 (tfuN s) (predictEntry s phi ns k)).1 c
  exact ⟨hpose, hrate, hsource⟩

theorem PredictWork.tfuN (h : PredictWork s t) : tfuN t = tfuN s := by
  rw [Machine.tfuN, Machine.tfuN, rf, h.regs _ (by decide), rf]

theorem covSound_predictCov (phi : List (List Int)) (ns k : Nat) : covSound (predictCov s phi ns k) := by
  obtain ⟨c, heq⟩ := predictCov_eq (s := s) phi ns k
  obtain ⟨-, -, hp, -⟩ := setCov_leaves (s := s) (sym24 (tfuN s) (predictEntry s phi ns k)).1 c
  intro i j hi hj
  rw [(PredictWork.refl.predictCov ..).tfuN] at hi hj
  have hlen {i : Nat} (h : i < tfuN s) : i < (sym24 (tfuN s) (predictEntry s phi ns k)).1.length := by rwa [length_sym24]
  rw [heq, hp, mAt_floorDiag (hlen hi) (hlen hj), mAt_floorDiag (hlen hj) (hlen hi), mAt_floorDiag (hlen hi) (hlen hi), if_pos rfl]
  refine ⟨?_, le_max_left _ _⟩
  by_cases hij : i = j
  · rw [hij]
  · rw [if_neg hij, if_neg (Ne.symm hij), mAt_sym24_comm _ hi hj]

/-! ### The record after a predict (R293, R302, R466) -/

/-- The number of the next record taken. -/
def recordNumbered (s : State) : State :=
  wr { s with tfu := { s.tfu with seq := s.tfu.seq + 1, flags := 0, count := 0 }, safe := { s.safe with poseTakeover := false } }
    R.tfuPoseSeq s.tfu.seq

/-- Where a record goes: a disabled ring counts it; else it is written to the host, with a message or without. -/
theorem formPose_cases : formPose timer s = bump (recordNumbered s) R.hifPoseDrop ∨
    ∃ h l, formPose timer s = hostWrite (recordNumbered s) h l ∨ ∃ v, formPose timer s = msixSend (hostWrite (recordNumbered s) h l) v := by
  unfold formPose
  extract_lets
  split
  · split
    · exact .inr ⟨_, _, .inr ⟨_, rfl⟩⟩
    · exact .inr ⟨_, _, .inl rfl⟩
  · exact .inl rfl

/-- It changes no register of the TFU after its number is taken. -/
theorem rd_formPose (ha : 0x1A0000 ≤ a) (hb : a < 0x1B0000) : rd (formPose timer s) a = rd (recordNumbered s) a := by
  obtain h | ⟨x, l, h | ⟨v, h⟩⟩ := formPose_cases (s := s) (timer := timer) <;> rw [h]
  · exact rd_bump_other _ (by simp only [R.hifPoseDrop]; omega)
  · exact rd_hostWrite_above x ha
  · exact (rd_msixSend_low _ v (by omega)).trans (rd_hostWrite_above x ha)

theorem formPose_tfu : (formPose timer s).tfu = { s.tfu with seq := s.tfu.seq + 1, flags := 0, count := 0 } := by
  obtain h | ⟨x, l, h | ⟨v, h⟩⟩ := formPose_cases (s := s) (timer := timer) <;> rw [h] <;> simp [recordNumbered]

theorem formPose_ifc : (formPose timer s).ifc = s.ifc := by
  obtain h | ⟨x, l, h | ⟨v, h⟩⟩ := formPose_cases (s := s) (timer := timer) <;> rw [h] <;> simp [recordNumbered]

theorem rd_formPose_other (ha : 0x1A0000 ≤ a) (hb : a < 0x1B0000) (hseq : a ≠ R.tfuPoseSeq) : rd (formPose timer s) a = rd s a :=
  (rd_formPose ha hb).trans (rd_wr_other _ _ hseq)

theorem rd_formPose_seq : rd (formPose timer s) R.tfuPoseSeq = s.tfu.seq := (rd_formPose (by decide) (by decide)).trans (rd_wr_same ..)

/-- The predict counted, its pose the newest of the history. -/
def predictCounted (s : State) : State := pushHist { s with tfu := { s.tfu with count := s.tfu.count + 1 } }

theorem afterPredict_forms (h : max 1 (rf s R.tfuEgoCfg 23 16) ≤ s.tfu.count + 1) : afterPredict timer s = formPose timer (predictCounted s) :=
  if_pos h

theorem afterPredict_counts (h : s.tfu.count + 1 < max 1 (rf s R.tfuEgoCfg 23 16)) : afterPredict timer s = predictCounted s :=
  if_neg (Nat.not_le.mpr h)

/-- What follows the work of a predict leaves of it. -/
theorem afterPredict_leaves : let v := afterPredict timer s
    v.ifc = s.ifc ∧ v.tfu.pose = s.tfu.pose ∧ v.tfu.rate = s.tfu.rate ∧ v.tfu.p = s.tfu.p ∧
      v.tfu.hist = (s.tfu.pose :: s.tfu.hist).take 2048 ∧ tfuSource v = tfuSource s ∧ tfuN v = tfuN s := by
  dsimp only
  obtain hforms | hcounts := le_or_gt (max 1 (rf s R.tfuEgoCfg 23 16)) (s.tfu.count + 1)
  · rw [afterPredict_forms hforms, formPose_tfu, formPose_ifc, tfuSource, rf, rd_formPose_other (by decide) (by decide) (by decide),
      tfuN, rf, rd_formPose_other (by decide) (by decide) (by decide)]
    exact ⟨rfl, rfl, rfl, rfl, rfl, rfl, rfl⟩
  · rw [afterPredict_counts hcounts]
    exact ⟨rfl, rfl, rfl, rfl, rfl, rfl, rfl⟩

/-- A predict whose covariance is sound ends as R288, R293 and R302 ask. -/
theorem predicted_afterPredict (hwork : PredictWork s t) (hsound : covSound t) : predicted s (afterPredict timer t) := by
  obtain ⟨-, hpose, -, hp, hhist, -, hn⟩ := afterPredict_leaves (s := t) (timer := timer)
  have hdiv : rf t R.tfuEgoCfg 23 16 = rf s R.tfuEgoCfg 23 16 := by rw [rf, hwork.regs _ (by decide), rf]
  refine ⟨by rw [hhist, hpose, hwork.hist], fun i j hi hj => ?_, fun hforms => ?_, fun hcounts => ?_⟩
  · rw [hp]
    exact hsound i j (hn ▸ hi) (hn ▸ hj)
  · rw [afterPredict_forms (by rwa [hdiv, hwork.count]), formPose_tfu, rd_formPose_seq, ← hwork.seq]
    exact ⟨rfl, rfl, rfl⟩
  · rw [afterPredict_counts (by rwa [hdiv, hwork.count])]
    exact ⟨hwork.seq, congrArg (· + 1) hwork.count, hwork.places.sameBytes⟩

/-! ### One predict (R289 to R292) -/

/-- The filter at a new pose, with its rate. -/
def filterMoved (s : State) (pose : TfuPose) (rate : List Int) : State := { s with tfu := { s.tfu with pose := pose, rate := rate } }

/-- The filter moved there, the predict of its covariance over `ns`, and what follows. -/
def predictTo (timer : Bool) (s : State) (pose : TfuPose) (rate : List Int) (phi : List (List Int)) (ns k : Nat) : State :=
  afterPredict timer (predictCov (filterMoved s pose rate) phi ns k)

theorem predictTo_leaves {pose : TfuPose} {rate : List Int} {phi : List (List Int)} {ns k : Nat} (hwork : PredictWork s t) :
    let v := predictTo timer t pose rate phi ns k
    v.ifc = s.ifc ∧ v.tfu.pose = pose ∧ v.tfu.rate = rate ∧ tfuSource v = tfuSource t ∧ predicted s v := by
  have hcov : PredictWork s (predictCov (filterMoved t pose rate) phi ns k) :=
    PredictWork.predictCov (hwork.filter (f := { t.tfu with pose := pose, rate := rate }) rfl rfl rfl) phi ns k
  obtain ⟨hpose, hrate, hsource⟩ := predictCov_leaves (s := filterMoved t pose rate) phi ns k
  obtain ⟨hifc, hpose', hrate', -, -, hsource', -⟩ := afterPredict_leaves (timer := timer) (s := predictCov (filterMoved t pose rate) phi ns k)
  exact ⟨hifc.trans hcov.ifc, hpose'.trans hpose, hrate'.trans hrate, hsource'.trans hsource,
    predicted_afterPredict hcov (covSound_predictCov phi ns k)⟩

theorem tfuSource_setSource (hc : c < 4) : tfuSource (setSource s c) = c := by
  have hset : tfuSource (wf s R.tfuStatus 5 4 c) = c := by
    rw [tfuSource, rf, rd_wf_same]
    exact fld_setFld_same (by decide) (by decide) hc
  have hevent (b : Nat) : tfuSource (tfuEvent (wf s R.tfuStatus 5 4 c) b) = c := by
    rw [tfuSource, rf, tfuEvent, rd_setBits_other _ _ (by decide)]
    exact hset
  unfold setSource
  dsimp only
  split
  case isTrue h => exact h
  case isFalse =>
    split
    · exact hevent 1
    · exact hevent 2

theorem rd_noteGood (o : IfcOut) : rd (noteGood s o) a = rd s a := by
  unfold noteGood
  split <;> rfl

theorem rd_usedSamples (o : IfcOut) : rd (usedSamples s o).2 a = rd s a := by
  unfold usedSamples
  split
  · rfl
  · exact rd_noteGood o

/-- The source of an output that the filter takes is IS_P or IS_A: it fits the field of TFU_STATUS. -/
theorem takesOutput_lt {o : IfcOut} (h : takesOutput s o = some c) : c < 4 := by
  unfold takesOutput at h
  repeat' split at h
  all_goals cases h
  all_goals decide

/-- An output's samples taken and its GAP or SAT noted for the next record: what the predict with it starts from (R289). -/
def samplesTaken (s : State) (o : IfcOut) : State :=
  if o.flags / 2 % 4 = 0 then (usedSamples s o).2 else poseFlag (usedSamples s o).2 5

theorem PredictWork.samplesTaken (h : PredictWork s t) (o : IfcOut) : PredictWork s (samplesTaken t o) := by
  unfold Machine.samplesTaken
  split
  · exact h.usedSamples o
  · exact (h.usedSamples o).poseFlag 5

theorem tfuSource_samplesTaken (o : IfcOut) : tfuSource (samplesTaken s o) = tfuSource s := by
  have hused : rd (samplesTaken s o) R.tfuStatus = rd (usedSamples s o).2 R.tfuStatus := by
    unfold samplesTaken
    split <;> rfl
  rw [tfuSource, rf, hused, rd_usedSamples, tfuSource, rf]

theorem predictWith_eq (o : IfcOut) : ∃ pose rate phi ns, predictWith s o = predictTo false (samplesTaken s o) pose rate phi ns 0 ∧
    pose.time = o.time := ⟨_, _, _, _, rfl, rfl⟩

theorem predictWith_leaves (hwork : PredictWork s t) (o : IfcOut) : let v := predictWith t o
    v.ifc = s.ifc ∧ v.tfu.pose.time = o.time ∧ tfuSource v = tfuSource t ∧ predicted s v := by
  obtain ⟨pose, rate, phi, ns, heq, htime⟩ := predictWith_eq (s := t) o
  obtain ⟨hifc, hpose, -, hsource, hpred⟩ := predictTo_leaves (timer := false) (pose := pose) (rate := rate) (phi := phi) (ns := ns)
    (k := 0) (hwork.samplesTaken o)
  rw [heq]
  exact ⟨hifc, by rw [hpose, htime], hsource.trans (tfuSource_samplesTaken o), hpred⟩

/-! ### The commands of a predict (R290, R291, R294) -/

/-- The oldest output taken off the queue. -/
def outputTaken (s : State) (rest : List IfcOut) : State := { s with ifc := { s.ifc with delivered := rest } }

/-- Whether the filter has gone over to IS_A, after an output of source `c` (R290). -/
def goneOver (s : State) (c : Nat) : Bool := s.tfu.alt && rb s (R.ingIsStatus (tfuPrimary s)) 1 || decide (c = 1)

/-- The state that the predict with that output starts from. -/
def predictFrom (s : State) (rest : List IfcOut) (c : Nat) : State :=
  setSource { outputTaken s rest with tfu := { s.tfu with alt := goneOver s c } } c

theorem exec_tfuPredict_takes {o : IfcOut} {rest : List IfcOut} (hu : s.up = true) (hq : s.ifc.delivered = o :: rest)
    (hheld : predictHeld s = false) (htakes : takesOutput s o = some c) :
    exec .tfuPredict s = .next (predictWith (predictFrom s rest c) o) := by
  refine (fabric_up s hu : execTfuPredict s = _).trans ?_
  simp only [hq, hheld, htakes, Bool.false_eq_true, if_false]
  rfl

theorem exec_tfuPredict_passes {o : IfcOut} {rest : List IfcOut} (hu : s.up = true) (hq : s.ifc.delivered = o :: rest)
    (hheld : predictHeld s = false) (htakes : takesOutput s o = none) : exec .tfuPredict s = .next (noteGood (outputTaken s rest) o) := by
  refine (fabric_up s hu : execTfuPredict s = _).trans ?_
  simp only [hq, hheld, htakes, Bool.false_eq_true, if_false]
  rfl

theorem exec_tfuPredict_waits (hu : s.up = true) (hheld : predictHeld s = true) : exec .tfuPredict s = .next s := by
  refine (fabric_up s hu : execTfuPredict s = _).trans ?_
  simp only [hheld, if_true]
  split <;> rfl

theorem exec_tfuTimerPredict_waits (hu : s.up = true) (h : rb s R.tfuEgoCfg 31 = false ∨ noneDelivers s = false ∨ predictHeld s = true) :
    exec .tfuTimerPredict s = .next s := by
  refine (fabric_up s hu : execTfuTimerPredict s = _).trans (congrArg _ (if_pos ?_))
  obtain h | h | h := h <;> simp [h]

theorem exec_tfuTimerPredict_predicts (hu : s.up = true) (hen : rb s R.tfuEgoCfg 31 = true) (hnone : noneDelivers s = true)
    (hheld : predictHeld s = false) : ∃ (pose : TfuPose) (phi : List (List Int)) (ns k : Nat),
      pose.time = s.dt.now.toNat ∧ pose.vel = s.tfu.pose.vel ∧
      exec .tfuTimerPredict s = .next (predictTo true (setSource s 2) pose [0, 0, 0] phi ns k) := by
  refine ⟨_, _, _, _, ?_, ?_, (fabric_up s hu : execTfuTimerPredict s = _).trans (congrArg _ (if_neg ?_))⟩
  · rfl
  · rfl
  · simp [hen, hnone, hheld]

/-! ### The mode (R303) -/

theorem tfuMode_setMode {m : Nat} (hm : m < 4) : tfuMode (setMode s m) = m := by
  unfold setMode
  split
  case isTrue h => exact h
  case isFalse =>
    rw [tfuMode, rf, tfuEvent, rd_setBits_other _ _ (by decide), rd_wf_same]
    exact fld_setFld_same (by decide) (by decide) hm

/-- A source shown leaves the mode as it was. -/
theorem tfuMode_source (c : Nat) : tfuMode (wf s R.tfuStatus 5 4 c) = tfuMode s := by
  rw [tfuMode, rf, rd_wf_same, tfuMode, rf]
  exact fld_congr fun i hlo hhi => by rw [getLsbD_setFld (by decide) (by decide), if_neg (by omega)]

theorem setMode_changes {m : Nat} (h : tfuMode s ≠ m) : setMode s m = tfuEvent (wf s R.tfuStatus 1 0 m) 3 := if_neg h

theorem PredictRegs.setMode (h : PredictRegs s t) (m : Nat) : PredictRegs s (setMode t m) := by
  unfold Machine.setMode
  split
  · exact h
  · exact (h.status ..).tfuEvent 3

theorem exec_tfuAidTimeout_falls {t : DWord} (hu : s.up = true) (haided : s.tfu.aided = some t) (hmode : tfuMode s = 2)
    (hdue : t.toNat + (rd s R.tfuAidTmo).toNat ≤ s.dt.now.toNat) : exec .tfuAidTimeout s = .next (setMode s 1) := by
  refine (fabric_up s hu : execTfuAidTimeout s = _).trans ?_
  simp only [haided, if_pos (And.intro hmode hdue)]

theorem exec_tfuAidTimeout_stays (hu : s.up = true) (h : s.tfu.aided = none ∨ tfuMode s ≠ 2) : exec .tfuAidTimeout s = .next s := by
  refine (fabric_up s hu : execTfuAidTimeout s = _).trans ?_
  obtain h | h := h
  · simp only [h]
  · simp only [h, false_and, if_false]
    split <;> rfl

/-- The fall to INERTIAL: its mode, its event and nothing else. -/
theorem setMode_falls (hmode : tfuMode s = 2) : let v := setMode s 1
    tfuMode v = 1 ∧ rd v R.tfuEvent = rd s R.tfuEvent ||| 8 ∧ SameRegsBut [R.tfuStatus, R.tfuEvent] s v ∧ v = { s with regs := v.regs } := by
  intro v
  have hv : v = tfuEvent (wf s R.tfuStatus 1 0 1) 3 := setMode_changes (by rw [hmode]; decide)
  refine ⟨tfuMode_setMode (by decide), ?_, fun a ha => ?_, by rw [hv]; rfl⟩
  · rw [hv, tfuEvent, rd_setBits_same, rd_wf_other _ _ _ _ (by decide)]
    rfl
  · simp only [List.mem_cons, List.not_mem_nil, or_false, not_or] at ha
    rw [hv, tfuEvent, rd_setBits_other _ _ ha.2, rd_wf_other _ _ _ _ ha.1]

/-! ### The filter's configuration (R292, R302, R311) -/

/-- The filter after an enable, before its registers are cleared. -/
def clearedFilter (s : State) : Tfu :=
  { s.tfu with
    pose := pose0, bg := [0, 0, 0], ba := [0, 0, 0], aux := List.replicate (tfuN s - 15) 0, p := mZero (tfuN s) (tfuN s), hist := []
    rate := [0, 0, 0], flags := 0, count := 0, good := [], aided := none, innov := 0
    alt := rb s (R.ingIsStatus (tfuPrimary s)) 1 }

theorem egoClear_eq : egoClear s =
    wf (setMode (diagShown { s with tfu := clearedFilter s } fun _ => 0) 0) R.tfuStatus 5 4 0 := rfl

theorem egoClear_leaves : let v := egoClear s
    rd v R.tfuEgoCfg = rd s R.tfuEgoCfg ∧ tfuMode v = 0 ∧ v.tfu = clearedFilter s ∧ SameBytes s v := by
  have hregs : PredictRegs { s with tfu := clearedFilter s } (egoClear s) := ((PredictRegs.refl.diagShown _).setMode 0).status ..
  refine ⟨hregs.regs _ (by decide), ?_, hregs.tfu, hregs.places.sameBytes⟩
  rw [egoClear_eq, tfuMode_source, tfuMode_setMode (by decide)]

section
variable {v : Word}

theorem exec_tfuEgoCfgWrite_busy (hu : s.up = true) (hen : rb s R.tfuEgoCfg 31 = true) (hnew : bit (v &&& 0xFCFFFF00) 31 = true) :
    exec (.tfuEgoCfgWrite v) s = .next (tfuErr s 2 (R.tfuEgoCfg % 65536) 0) := by
  refine (fabric_up s hu : execTfuEgoCfgWrite v s = _).trans ?_
  simp only [hen, hnew, if_true]

theorem exec_tfuEgoCfgWrite_disables (hu : s.up = true) (hnew : bit (v &&& 0xFCFFFF00) 31 = false) :
    exec (.tfuEgoCfgWrite v) s = .next (wr s R.tfuEgoCfg (v &&& 0xFCFFFF00)) := by
  refine (fabric_up s hu : execTfuEgoCfgWrite v s = _).trans ?_
  simp only [hnew, Bool.false_eq_true, if_false, Bool.not_false, if_true, ite_self]

theorem exec_tfuEgoCfgWrite_enables (hu : s.up = true) (hen : rb s R.tfuEgoCfg 31 = false) (hnew : bit (v &&& 0xFCFFFF00) 31 = true)
    (hok : egoEnableOk s (v &&& 0xFCFFFF00) = true) :
    exec (.tfuEgoCfgWrite v) s = .next (egoClear (wr s R.tfuEgoCfg (v &&& 0xFCFFFF00))) := by
  refine (fabric_up s hu : execTfuEgoCfgWrite v s = _).trans ?_
  simp only [hen, hnew, hok, Bool.false_eq_true, if_false, Bool.not_true, if_true]

theorem exec_tfuEgoCfgWrite_refuses (hu : s.up = true) (hen : rb s R.tfuEgoCfg 31 = false) (hnew : bit (v &&& 0xFCFFFF00) 31 = true)
    (hbad : egoEnableOk s (v &&& 0xFCFFFF00) = false) : exec (.tfuEgoCfgWrite v) s =
      .next (tfuErr (wr s R.tfuEgoCfg (setBit (v &&& 0xFCFFFF00) 31 false)) 1 (R.tfuEgoCfg % 65536) 0) := by
  refine (fabric_up s hu : execTfuEgoCfgWrite v s = _).trans ?_
  simp only [hen, hnew, hbad, Bool.false_eq_true, if_false, Bool.not_true]

end

theorem rd_tfuErr_same (b x op : Nat) : rd (tfuErr s b x op) R.tfuErr = rd s R.tfuErr ||| bitW b := rd_errInfo_same _ _ _ (by decide)

/-- An error recorded leaves the filter. -/
theorem tfuErr_tfu (b x op : Nat) : (tfuErr s b x op).tfu = s.tfu := errInfo_tfu ..

end

/-! ### O37 -/

/-- Settles O37: every predict is work on the filter's own registers and fields (`PredictWork`), after which its pose goes to the history
and, at the PDIV-th, a record is formed (`predictTo_leaves`); the other clauses are the branches of the commands. -/
theorem predictsFollowTheInertialSource : Obligations.PredictsFollowTheInertialSource := by
  intro s hu en
  refine ⟨fun o rest c hq hheld htakes => ⟨_, exec_tfuPredict_takes hu hq hheld htakes, ?_⟩,
    fun o rest hq hheld htakes => ⟨_, exec_tfuPredict_passes hu hq hheld htakes, rfl⟩,
    fun hheld => ⟨_, exec_tfuPredict_waits hu hheld, rfl⟩, fun hen hnone hheld => ?_,
    fun hwaits => ⟨_, exec_tfuTimerPredict_waits hu hwaits, rfl⟩,
    fun t haided hmode hdue => ⟨_, exec_tfuAidTimeout_falls hu haided hmode hdue, setMode_falls hmode⟩,
    fun hstays => ⟨_, exec_tfuAidTimeout_stays hu hstays, rfl⟩, fun v => ?_⟩
  · have hwork : PredictWork (outputTaken s rest) (predictFrom s rest c) :=
      ((PredictWork.refl (s := outputTaken s rest)).filter (f := { s.tfu with alt := goneOver s c }) rfl rfl rfl).setSource c
    obtain ⟨hifc, htime, hsource, hpred⟩ := predictWith_leaves hwork o
    exact ⟨by rw [hifc]; rfl, htime, hsource.trans (tfuSource_setSource (takesOutput_lt htakes)), hpred⟩
  · obtain ⟨pose, phi, ns, k, htime, hvel, hexec⟩ := exec_tfuTimerPredict_predicts hu hen hnone hheld
    obtain ⟨-, hpose, hrate, hsource, hpred⟩ := predictTo_leaves (timer := true) (pose := pose) (rate := [0, 0, 0]) (phi := phi)
      (ns := ns) (k := k) (PredictWork.refl.setSource (s := s) 2)
    exact ⟨_, hexec, by rw [hpose, htime], by rw [hpose, hvel], hrate, hsource.trans (tfuSource_setSource (by decide)), hpred⟩
  · intro new
    refine ⟨fun hen hnew => ?_, fun hnew => ⟨_, exec_tfuEgoCfgWrite_disables hu hnew, rfl⟩, fun hen hnew hok => ?_,
      fun hen hnew hbad => ?_⟩
    · exact ⟨_, exec_tfuEgoCfgWrite_busy hu hen hnew, rd_tfuErr_same 2 _ 0, sameRegsBut_errInfo _ _ _ _, tfuErr_tfu ..⟩
    · obtain ⟨hcfg, hmode, htfu, hbytes⟩ := egoClear_leaves (s := wr s R.tfuEgoCfg new)
      have hplaces : SamePlaces s (wr s R.tfuEgoCfg new) := samePlaces_of_regs (OnlyRegs.refl.wr ..) (l := [R.tfuEgoCfg])
        (fun a ha => rd_wr_other _ _ (List.ne_of_not_mem_cons ha)) (by decide)
      refine ⟨_, exec_tfuEgoCfgWrite_enables hu hen hnew hok, hcfg.trans (rd_wr_same ..), hmode, ?_⟩
      rw [htfu]
      exact ⟨rfl, rfl, rfl, rfl, fun a => (hbytes a).trans (hplaces.sameBytes a)⟩
    · refine ⟨_, exec_tfuEgoCfgWrite_refuses hu hen hnew hbad, ?_, ?_, tfuErr_tfu ..⟩
      · exact (rd_errInfo_other _ _ _ (by decide) (by decide)).trans (rd_wr_same ..)
      · rw [rd_tfuErr_same, rd_wr_other _ _ (by decide)]
        rfl

end Sys2Proof.Machine
end

section
/-! SUPPORT. What every command keeps, put together from what each of them keeps; and that every command but those of the
always-on domain acts through `fabric`. -/

namespace Sys2Proof.Machine

/-- Every command keeps what `Keeps` speaks of. -/
theorem exec_keeps (s : State) : ∀ c : Instr, KeepsOut s (exec c s)
  | .registerWrite who addr acc => execRegisterWrite_keeps who addr acc s (.refl s)
  | .glbEpochLoRead => execGlbEpochLoRead_keeps s (.refl s)
  | .dtNowLoRead => execDtNowLoRead_keeps s (.refl s)
  | .dtOffsetLoRead => execDtOffsetLoRead_keeps s (.refl s)
  | .dtPpsStampLoRead => execDtPpsStampLoRead_keeps s (.refl s)
  | .sgFireLoRead n => execSgFireLoRead_keeps n s (.refl s)
  | .sgTrigStampLoRead p => execSgTrigStampLoRead_keeps p s (.refl s)
  | .ingIsStampLoRead n => execIngIsStampLoRead_keeps n s (.refl s)
  | .detPowerLoRead k => execDetPowerLoRead_keeps k s (.refl s)
  | .lseSchedHashLoRead => execLseSchedHashLoRead_keeps s (.refl s)
  | .gdrErrAddrLoRead => execGdrErrAddrLoRead_keeps s (.refl s)
  | .mstPinLoRead n => execMstPinLoRead_keeps n s (.refl s)
  | .ptpMessageRx port layer2 msg => execPtpMessageRx_keeps port layer2 msg s (.refl s)
  | .servoOffset => execServoOffset_keeps s (.refl s)
  | .ppsEdge rising => execPpsEdge_keeps rising s (.refl s)
  | .servoLossTimeout => execServoLossTimeout_keeps s (.refl s)
  | .announceTimeout => execAnnounceTimeout_keeps s (.refl s)
  | .dtCtrlWrite v => execDtCtrlWrite_keeps v s (.refl s)
  | .dtPtpCfgWrite v => execDtPtpCfgWrite_keeps v s (.refl s)
  | .stepArm mode => execStepArm_keeps mode s (.refl s)
  | .stepCommit mode => execStepCommit_keeps mode s (.refl s)
  | .stepCancel key => execStepCancel_keeps key s (.refl s)
  | .dtStepValueWrite hi v => execDtStepValueWrite_keeps hi v s (.refl s)
  | .stepArmLapse => execStepArmLapse_keeps s (.refl s)
  | .timeStepped => execTimeStepped_keeps s (.refl s)
  | .gateArm who n ctrl => execGateArm_keeps who n ctrl s (.refl s)
  | .gateDisarm who n ctrl sameCycle => execGateDisarm_keeps who n ctrl sameCycle s (.refl s)
  | .gateEntryWrite who n reg v => execGateEntryWrite_keeps who n reg v s (.refl s)
  | .sgRun v => execSgRun_keeps v s (.refl s)
  | .gateDue n => execGateDue_keeps n s (.refl s)
  | .gateDispatch n => execGateDispatch_keeps n s (.refl s)
  | .trigPulseEnd p => execTrigPulseEnd_keeps p s (.refl s)
  | .trigInputEdge p rising => execTrigInputEdge_keeps p rising s (.refl s)
  | .semAdd req idx n rivals => execSemAdd_keeps req idx n rivals s (.refl s)
  | .semSub req idx n rivals => execSemSub_keeps req idx n rivals s (.refl s)
  | .semWait req idx n rivals => execSemWait_keeps req idx n rivals s (.refl s)
  | .semWaitsub req idx n rivals => execSemWaitsub_keeps req idx n rivals s (.refl s)
  | .semSet req idx v rivals => execSemSet_keeps req idx v rivals s (.refl s)
  | .semPoll waiter rivals => execSemPoll_keeps waiter rivals s (.refl s)
  | .semHostAdd idx => execSemHostAdd_keeps idx s (.refl s)
  | .semHostSub idx => execSemHostSub_keeps idx s (.refl s)
  | .semHostSet idx => execSemHostSet_keeps idx s (.refl s)
  | .semWindowWrite off v => execSemWindowWrite_keeps off v s (.refl s)
  | .semShadowCfgWrite reg v => execSemShadowCfgWrite_keeps reg v s (.refl s)
  | .semShadowWrite k => execSemShadowWrite_keeps k s (.refl s)
  | .evcClaim t sameCycle => execEvcClaim_keeps t sameCycle s (.refl s)
  | .evcComplete t id => execEvcComplete_keeps t id s (.refl s)
  | .evcPendSet who k mask => execEvcPendSet_keeps who k mask s (.refl s)
  | .evcPendClr who k mask => execEvcPendClr_keeps who k mask s (.refl s)
  | .wakeEdge src => execWakeEdge_keeps src s (.refl s)
  | .wakeLatchTake => execWakeLatchTake_keeps s (.refl s)
  | .csiFrameStart p vc hdr => execCsiFrameStart_keeps p vc hdr s (.refl s)
  | .csiLineStart p vc hdr isEnd => execCsiLineStart_keeps p vc hdr isEnd s (.refl s)
  | .csiLine p vc dtype hdr crcOk payload => execCsiLine_keeps p vc dtype hdr crcOk payload s (.refl s)
  | .csiEmbeddedData p vc hdr crcOk payload => execCsiEmbeddedData_keeps p vc hdr crcOk payload s (.refl s)
  | .csiFrameEnd p vc hdr => execCsiFrameEnd_keeps p vc hdr s (.refl s)
  | .pairWaitExpire p right => execPairWaitExpire_keeps p right s (.refl s)
  | .ethFrameRx e frame => execEthFrameRx_keeps e frame s (.refl s)
  | .imuDataReady n high => execImuDataReady_keeps n high s (.refl s)
  | .imuTransactionEnd n data => execImuTransactionEnd_keeps n data s (.refl s)
  | .streamLost st => execStreamLost_keeps st s (.refl s)
  | .ingConfigWrite addr v => execIngConfigWrite_keeps addr v s (.refl s)
  | .ingCtrlWrite v => execIngCtrlWrite_keeps v s (.refl s)
  | .ifcOutputRecord n => execIfcOutputRecord_keeps n s (.refl s)
  | .ifcChannelSwitch n c v => execIfcChannelSwitch_keeps n c v s (.refl s)
  | .ifcConfigWrite addr v => execIfcConfigWrite_keeps addr v s (.refl s)
  | .ifcDetCfgWrite k reg v => execIfcDetCfgWrite_keeps k reg v s (.refl s)
  | .ifcCtrlWrite v => execIfcCtrlWrite_keeps v s (.refl s)
  | .fddPairWrite e n v => execFddPairWrite_keeps e n v s (.refl s)
  | .detect e => execDetect_keeps e s (.refl s)
  | .track e => execTrack_keeps e s (.refl s)
  | .seed e => execSeed_keeps e s (.refl s)
  | .matchSets e => execMatchSets_keeps e s (.refl s)
  | .depth => execDepth_keeps s (.refl s)
  | .project => execProject_keeps s (.refl s)
  | .visionJobEnd u => execVisionJobEnd_keeps u s (.refl s)
  | .calArm u => execCalArm_keeps u s (.refl s)
  | .calCheckEnd u => execCalCheckEnd_keeps u s (.refl s)
  | .calDisarm u => execCalDisarm_keeps u s (.refl s)
  | .calSwap => execCalSwap_keeps s (.refl s)
  | .gateEvaluate run rivals => execGateEvaluate_keeps run rivals s (.refl s)
  | .gateHoldExpire run => execGateHoldExpire_keeps run s (.refl s)
  | .unitJobStart u => execUnitJobStart_keeps u s (.refl s)
  | .gateEnd run gate => execGateEnd_keeps run gate s (.refl s)
  | .fgsAbort v => execFgsAbort_keeps v s (.refl s)
  | .tileRun => execTileRun_keeps s (.refl s)
  | .tilePassCheck job tile errs residue => execTilePassCheck_keeps job tile errs residue s (.refl s)
  | .tileJobEnd job => execTileJobEnd_keeps job s (.refl s)
  | .tileTakeover tile => execTileTakeover_keeps tile s (.refl s)
  | .tileTakeoverComplete tile => execTileTakeoverComplete_keeps tile s (.refl s)
  | .fenceRelease tile => execFenceRelease_keeps tile s (.refl s)
  | .restore grant => execRestore_keeps grant s (.refl s)
  | .copyJobStart g => execCopyJobStart_keeps g s (.refl s)
  | .copy e => execCopy_keeps e s (.refl s)
  | .fill e => execFill_keeps e s (.refl s)
  | .plan e => execPlan_keeps e s (.refl s)
  | .copyJobEnd e => execCopyJobEnd_keeps e s (.refl s)
  | .gdrRetrain ch ok => execGdrRetrain_keeps ch ok s (.refl s)
  | .gdrScrubRead => execGdrScrubRead_keeps s (.refl s)
  | .tfuPredict => execTfuPredict_keeps s (.refl s)
  | .tfuTimerPredict => execTfuTimerPredict_keeps s (.refl s)
  | .update => execUpdate_keeps s (.refl s)
  | .tfuReset => execTfuReset_keeps s (.refl s)
  | .motion => execMotion_keeps s (.refl s)
  | .report => execReport_keeps s (.refl s)
  | .tfuAidTimeout => execTfuAidTimeout_keeps s (.refl s)
  | .tfuEgoCfgWrite v => execTfuEgoCfgWrite_keeps v s (.refl s)
  | .solve => execSolve_keeps s (.refl s)
  | .solveAccept => execSolveAccept_keeps s (.refl s)
  | .solveIterationEnd => execSolveIterationEnd_keeps s (.refl s)
  | .solveDeadlineMiss => execSolveDeadlineMiss_keeps s (.refl s)
  | .preint => execPreint_keeps s (.refl s)
  | .build => execBuild_keeps s (.refl s)
  | .buildEnd => execBuildEnd_keeps s (.refl s)
  | .query => execQuery_keeps s (.refl s)
  | .prsCoarseEnd => execPrsCoarseEnd_keeps s (.refl s)
  | .prsPageScan su => execPrsPageScan_keeps su s (.refl s)
  | .prsQueryEnd => execPrsQueryEnd_keeps s (.refl s)
  | .insert => execInsert_keeps s (.refl s)
  | .prsDelete => execPrsDelete_keeps s (.refl s)
  | .filterSetAll => execFilterSetAll_keeps s (.refl s)
  | .filterClearAll => execFilterClearAll_keeps s (.refl s)
  | .filterSetRange => execFilterSetRange_keeps s (.refl s)
  | .filterClearRange => execFilterClearRange_keeps s (.refl s)
  | .define => execDefine_keeps s (.refl s)
  | .put => execPut_keeps s (.refl s)
  | .mstDelete => execMstDelete_keeps s (.refl s)
  | .commit => execCommit_keeps s (.refl s)
  | .commitDurable => execCommitDurable_keeps s (.refl s)
  | .readWindow => execReadWindow_keeps s (.refl s)
  | .readGraph => execReadGraph_keeps s (.refl s)
  | .get => execGet_keeps s (.refl s)
  | .getBbx => execGetBbx_keeps s (.refl s)
  | .pin => execPin_keeps s (.refl s)
  | .unpin => execUnpin_keeps s (.refl s)
  | .flashPageRead ch seq cws => execFlashPageRead_keeps ch seq cws s (.refl s)
  | .flashProgramFail ch erase block => execFlashProgramFail_keeps ch erase block s (.refl s)
  | .flashChannelLost ch => execFlashChannelLost_keeps ch s (.refl s)
  | .groomTask => execGroomTask_keeps s (.refl s)
  | .mapMount => execMapMount_keeps s (.refl s)
  | .mstFormat v => execMstFormat_keeps v s (.refl s)
  | .pwrFail => execPwrFail_keeps s (.refl s)
  | .sqTailDoorbell k v => execSqTailDoorbell_keeps k v s (.refl s)
  | .cqHeadDoorbell k v => execCqHeadDoorbell_keeps k v s (.refl s)
  | .descriptorFetch k ok rivals => execDescriptorFetch_keeps k ok rivals s (.refl s)
  | .descriptorDispatch k rivals => execDescriptorDispatch_keeps k rivals s (.refl s)
  | .descriptorDeadline k => execDescriptorDeadline_keeps k s (.refl s)
  | .descriptorComplete d => execDescriptorComplete_keeps d s (.refl s)
  | .completionHoldRelease k => execCompletionHoldRelease_keeps k s (.refl s)
  | .cqCoalesceTimer k => execCqCoalesceTimer_keeps k s (.refl s)
  | .nop d => execNop_keeps d s (.refl s)
  | .configPtpAsym d => execConfigPtpAsym_keeps d s (.refl s)
  | .configPtpAnnTmo d => execConfigPtpAnnTmo_keeps d s (.refl s)
  | .load d p => execLoad_keeps d p s (.refl s)
  | .unload d => execUnload_keeps d s (.refl s)
  | .launch d => execLaunch_keeps d s (.refl s)
  | .abort d => execAbort_keeps d s (.refl s)
  | .arm d => execArm_keeps d s (.refl s)
  | .disarm d sameCycle => execDisarm_keeps d sameCycle s (.refl s)
  | .descCopy d => execDescCopy_keeps d s (.refl s)
  | .descSolve d => execDescSolve_keeps d s (.refl s)
  | .descPrs d => execDescPrs_keeps d s (.refl s)
  | .descMst d => execDescMst_keeps d s (.refl s)
  | .sqConfigWrite k v => execSqConfigWrite_keeps k v s (.refl s)
  | .cqConfigWrite k v => execCqConfigWrite_keeps k v s (.refl s)
  | .poseRingConfigWrite v => execPoseRingConfigWrite_keeps v s (.refl s)
  | .evtRingConfigWrite v => execEvtRingConfigWrite_keeps v s (.refl s)
  | .msixUnmask vec => execMsixUnmask_keeps vec s (.refl s)
  | .bar4Access off acc => execBar4Access_keeps off acc s (.refl s)
  | .pcieReset kind => execPcieReset_keeps kind s (.refl s)
  | .perstRelease => execPerstRelease_keeps s (.refl s)
  | .controlPairFault => execControlPairFault_keeps s (.refl s)
  | .watchdogExpire => execWatchdogExpire_keeps s (.refl s)
  | .switchoverComplete mirrorOk => execSwitchoverComplete_keeps mirrorOk s (.refl s)
  | .standbySelftestEnd pass => execStandbySelftestEnd_keeps pass s (.refl s)
  | .standbyFault => execStandbyFault_keeps s (.refl s)
  | .tfuLaneMismatch again => execTfuLaneMismatch_keeps again s (.refl s)
  | .tfuKatEnd laneA laneB => execTfuKatEnd_keeps laneA laneB s (.refl s)
  | .ifcMismatch again => execIfcMismatch_keeps again s (.refl s)
  | .hifWriterMismatch again => execHifWriterMismatch_keeps again s (.refl s)
  | .fabricLogicMismatch => execFabricLogicMismatch_keeps s (.refl s)
  | .engineFault e => execEngineFault_keeps e s (.refl s)
  | .engineSelftestEnd e pass => execEngineSelftestEnd_keeps e pass s (.refl s)
  | .clockFault => execClockFault_keeps s (.refl s)
  | .railFault => execRailFault_keeps s (.refl s)
  | .periodicTest fault => execPeriodicTest_keeps fault s (.refl s)
  | .checkerTest unit pass => execCheckerTest_keeps unit pass s (.refl s)
  | .rotationStep p => execRotationStep_keeps p s (.refl s)
  | .rotationWaitTimeout p => execRotationWaitTimeout_keeps p s (.refl s)
  | .rotationSelftestEnd p pass => execRotationSelftestEnd_keeps p pass s (.refl s)
  | .bbxRecordWritten => execBbxRecordWritten_keeps s (.refl s)
  | .requestRun => execRequestRun_keeps s (.refl s)
  | .requestGlide => execRequestGlide_keeps s (.refl s)
  | .requestHold => execRequestHold_keeps s (.refl s)
  | .pstateChangeComplete => execPstateChangeComplete_keeps s (.refl s)
  | .holdWake => execHoldWake_keeps s (.refl s)
  | .holdWakeTimer => execHoldWakeTimer_keeps s (.refl s)
  | .pwrParkWrite v => execPwrParkWrite_keeps v s (.refl s)
  | .powerSample mw => execPowerSample_keeps mw s (.refl s)
  | .governorLimit => execGovernorLimit_keeps s (.refl s)
  | .governorTick => execGovernorTick_keeps s (.refl s)
  | .thermalSample tj aon => execThermalSample_keeps tj aon s (.refl s)
  | .thermalStep tenMs => execThermalStep_keeps tenMs s (.refl s)
  | .secLockWrite v => execSecLockWrite_keeps v s (.refl s)
  | .svnCommitFw v => execSvnCommitFw_keeps v s (.refl s)
  | .svnCommitVr v => execSvnCommitVr_keeps v s (.refl s)
  | .health seq payload crcOk => execHealth_keeps seq payload crcOk s (.refl s)
  | .bbxRead seq payload crcOk => execBbxRead_keeps seq payload crcOk s (.refl s)
  | .coreReset seq payload crcOk => execCoreReset_keeps seq payload crcOk s (.refl s)
  | .coreResetRelease cpa cpb => execCoreResetRelease_keeps cpa cpb s (.refl s)
  | .acserPower seq payload crcOk => execAcserPower_keeps seq payload crcOk s (.refl s)
  | .attest seq payload crcOk => execAttest_keeps seq payload crcOk s (.refl s)
  | .recoverBegin seq payload crcOk => execRecoverBegin_keeps seq payload crcOk s (.refl s)
  | .recoverData seq payload crcOk => execRecoverData_keeps seq payload crcOk s (.refl s)
  | .recoverEnd seq payload crcOk => execRecoverEnd_keeps seq payload crcOk s (.refl s)
  | .time seq payload crcOk => execTime_keeps seq payload crcOk s (.refl s)
  | .acserSemSet seq payload crcOk => execAcserSemSet_keeps seq payload crcOk s (.refl s)
  | .challenge seq payload crcOk => execChallenge_keeps seq payload crcOk s (.refl s)
  | .auth seq payload crcOk => execAuth_keeps seq payload crcOk s (.refl s)
  | .owner seq payload crcOk => execOwner_keeps seq payload crcOk s (.refl s)
  | .acserResponseRead full => execAcserResponseRead_keeps full s (.refl s)
  | .acserSessionTimeout => execAcserSessionTimeout_keeps s (.refl s)
  | .powerOnReset rise => execPowerOnReset_keeps rise s (.refl s)
  | .pwrGoodCoreRise cpa cpb => execPwrGoodCoreRise_keeps cpa cpb s (.refl s)
  | .pwrGoodTimeout => execPwrGoodTimeout_keeps s (.refl s)
  | .firmwareStart badTiles => execFirmwareStart_keeps badTiles s (.refl s)
  | .gddr6TrainingEnd failed => execGddr6TrainingEnd_keeps failed s (.refl s)
  | .startupReady => execStartupReady_keeps s (.refl s)
  | .recoverWindowTimeout => execRecoverWindowTimeout_keeps s (.refl s)
  | .pwrFailNRise => execPwrFailNRise_keeps s (.refl s)
  | .stripeProgrammed => execStripeProgrammed_keeps s (.refl s)
  | .linkUp speed width => execLinkUp_keeps speed width s (.refl s)
  | .ptpStatus => execPtpStatus_keeps s (.refl s)
  | .delayReq => execDelayReq_keeps s (.refl s)
  | .avsTargetReached => execAvsTargetReached_keeps s (.refl s)
  | .schedulingBoundary => execSchedulingBoundary_keeps s (.refl s)
  | .crystalStable inWindow idFail => execCrystalStable_keeps inWindow idFail s (.refl s)

theorem step_keeps_inv {s t : State} (hs : Inv s) (h : step s = .next t) : Inv t := by
  match hp : s.pending with
  | c :: rest =>
    have hc : exec c { s with pending := rest } = .next t := by rwa [step, hp] at h
    exact (exec_keeps _ c t hc).inv ⟨hs.mem, hs.regs, hs.sems, hs.mram, hs.nor, hs.queue, hs.svn, hs.vr, hs.held⟩
  | [] =>
    have ht : t = idleTick s := (Host.Outcome.next.inj ((step_idle hp).symm.trans h)).symm
    exact ht ▸ (idleTick_keeps s (.refl s)).inv hs

/-- Settles O4: each command keeps the invariant, and so does an edge of the clock. -/
theorem everyStepKeepsTheInvariant : Obligations.EveryStepKeepsTheInvariant :=
  fun _ _ hs h => step_keeps_inv hs h

/-- Settles O5: each command keeps the queue, the straps, the part, the fuse counters and a burnt owner hash. -/
theorem noCommandUndoesWhatIsFixed : Obligations.NoCommandUndoesWhatIsFixed := by
  intro c s t h
  obtain ⟨hp, hs, hg, hf, hv, ho, -⟩ := exec_keeps s c t h
  exact ⟨hp, hs, hg, hf, hv, ho⟩

/-- Settles O1: `step` matches on the queue. -/
theorem stepRunsTheFrontCommand : Obligations.StepRunsTheFrontCommand := by
  intro c rest s h
  rw [step, h]

/-- A command's outcome is some function's, run where the fabric domain runs. -/
def OfFabric (s : State) (o : Out) : Prop := ∃ f, o = fabric s f

theorem OfFabric.same (s : State) : OfFabric s (.next s) := ⟨id, (ite_self _).symm⟩

theorem OfFabric.ite {s : State} {c : Prop} [Decidable c] {a b : Out} (ha : OfFabric s a) (hb : OfFabric s b) :
    OfFabric s (if c then a else b) := by split <;> assumption

theorem visWork_fabric (u op : Nat) (f : State → Job → State) (s : State) : OfFabric s (visWork u op f s) := ⟨_, rfl⟩

theorem tfuWork_fabric (op : Nat) (f : State → Job → State) (s : State) : OfFabric s (tfuWork op f s) := ⟨_, rfl⟩

theorem lseWork_fabric (op : Nat) (f : State → Job → State) (s : State) : OfFabric s (lseWork op f s) := ⟨_, rfl⟩

theorem prsWork_fabric (op : Nat) (p : List Byte → Bool) (f : State → Job → State) (s : State) : OfFabric s (prsWork op p f s) := ⟨_, rfl⟩

theorem filterJob_fabric (op : Nat) (f : Nat → Nat → List (Nat × Nat) → List (Nat × Nat)) (s : State) : OfFabric s (filterJob op f s) := prsWork_fabric ..

theorem writeLane_fabric (op : Nat) (f : State → Job → State) (s : State) : OfFabric s (writeLane op f s) := ⟨_, rfl⟩

theorem readLane_fabric (op : Nat) (p : Job → Bool) (f : State → Job → State) (s : State) : OfFabric s (readLane op p f s) := ⟨_, rfl⟩

theorem onDesc_fabric (s : State) (d o : Nat) (f : Desc → State) : OfFabric s (onDesc s d o f) := ⟨_, rfl⟩

/-- A command of the fabric domain acts where that domain runs, and nowhere else. -/
theorem exec_fabric (s : State) : ∀ c : Instr, alwaysOn c = false → OfFabric s (exec c s)
  | .registerWrite who addr acc => fun _ => (⟨_, rfl⟩ : OfFabric s (execRegisterWrite who addr acc s))
  | .glbEpochLoRead => fun _ => (⟨_, rfl⟩ : OfFabric s (execGlbEpochLoRead s))
  | .dtNowLoRead => fun _ => (⟨_, rfl⟩ : OfFabric s (execDtNowLoRead s))
  | .dtOffsetLoRead => fun _ => (⟨_, rfl⟩ : OfFabric s (execDtOffsetLoRead s))
  | .dtPpsStampLoRead => fun _ => (⟨_, rfl⟩ : OfFabric s (execDtPpsStampLoRead s))
  | .sgFireLoRead n => fun _ => (⟨_, rfl⟩ : OfFabric s (execSgFireLoRead n s))
  | .sgTrigStampLoRead p => fun _ => (⟨_, rfl⟩ : OfFabric s (execSgTrigStampLoRead p s))
  | .ingIsStampLoRead n => fun _ => (⟨_, rfl⟩ : OfFabric s (execIngIsStampLoRead n s))
  | .detPowerLoRead k => fun _ => (⟨_, rfl⟩ : OfFabric s (execDetPowerLoRead k s))
  | .lseSchedHashLoRead => fun _ => (⟨_, rfl⟩ : OfFabric s (execLseSchedHashLoRead s))
  | .gdrErrAddrLoRead => fun _ => (⟨_, rfl⟩ : OfFabric s (execGdrErrAddrLoRead s))
  | .mstPinLoRead n => fun _ => (⟨_, rfl⟩ : OfFabric s (execMstPinLoRead n s))
  | .ptpMessageRx port layer2 msg => fun _ => (⟨_, rfl⟩ : OfFabric s (execPtpMessageRx port layer2 msg s))
  | .servoOffset => fun _ => (⟨_, rfl⟩ : OfFabric s (execServoOffset s))
  | .ppsEdge rising => fun _ => (⟨_, rfl⟩ : OfFabric s (execPpsEdge rising s))
  | .servoLossTimeout => fun _ => (⟨_, rfl⟩ : OfFabric s (execServoLossTimeout s))
  | .announceTimeout => fun _ => (⟨_, rfl⟩ : OfFabric s (execAnnounceTimeout s))
  | .dtCtrlWrite v => fun _ => (⟨_, rfl⟩ : OfFabric s (execDtCtrlWrite v s))
  | .dtPtpCfgWrite v => fun _ => (⟨_, rfl⟩ : OfFabric s (execDtPtpCfgWrite v s))
  | .stepArm mode => fun _ => (⟨_, rfl⟩ : OfFabric s (execStepArm mode s))
  | .stepCommit mode => fun _ => (⟨_, rfl⟩ : OfFabric s (execStepCommit mode s))
  | .stepCancel key => fun _ => (⟨_, rfl⟩ : OfFabric s (execStepCancel key s))
  | .dtStepValueWrite hi v => fun _ => (⟨_, rfl⟩ : OfFabric s (execDtStepValueWrite hi v s))
  | .stepArmLapse => fun _ => (⟨_, rfl⟩ : OfFabric s (execStepArmLapse s))
  | .timeStepped => fun _ => (⟨_, rfl⟩ : OfFabric s (execTimeStepped s))
  | .gateArm who n ctrl => fun _ => (⟨_, rfl⟩ : OfFabric s (execGateArm who n ctrl s))
  | .gateDisarm who n ctrl sameCycle => fun _ => (⟨_, rfl⟩ : OfFabric s (execGateDisarm who n ctrl sameCycle s))
  | .gateEntryWrite who n reg v => fun _ => (⟨_, rfl⟩ : OfFabric s (execGateEntryWrite who n reg v s))
  | .sgRun v => fun _ => (⟨_, rfl⟩ : OfFabric s (execSgRun v s))
  | .gateDue n => fun _ => (⟨_, rfl⟩ : OfFabric s (execGateDue n s))
  | .gateDispatch n => fun _ => (⟨_, rfl⟩ : OfFabric s (execGateDispatch n s))
  | .trigPulseEnd p => fun _ => (⟨_, rfl⟩ : OfFabric s (execTrigPulseEnd p s))
  | .trigInputEdge p rising => fun _ => (⟨_, rfl⟩ : OfFabric s (execTrigInputEdge p rising s))
  | .semAdd req idx n rivals => fun _ => (⟨_, rfl⟩ : OfFabric s (execSemAdd req idx n rivals s))
  | .semSub req idx n rivals => fun _ => (⟨_, rfl⟩ : OfFabric s (execSemSub req idx n rivals s))
  | .semWait req idx n rivals => fun _ => (⟨_, rfl⟩ : OfFabric s (execSemWait req idx n rivals s))
  | .semWaitsub req idx n rivals => fun _ => (⟨_, rfl⟩ : OfFabric s (execSemWaitsub req idx n rivals s))
  | .semSet req idx v rivals => fun _ => (⟨_, rfl⟩ : OfFabric s (execSemSet req idx v rivals s))
  | .semPoll waiter rivals => fun _ => (⟨_, rfl⟩ : OfFabric s (execSemPoll waiter rivals s))
  | .semHostAdd idx => fun _ => (⟨_, rfl⟩ : OfFabric s (execSemHostAdd idx s))
  | .semHostSub idx => fun _ => (⟨_, rfl⟩ : OfFabric s (execSemHostSub idx s))
  | .semHostSet idx => fun _ => (⟨_, rfl⟩ : OfFabric s (execSemHostSet idx s))
  | .semWindowWrite off v => fun _ => (⟨_, rfl⟩ : OfFabric s (execSemWindowWrite off v s))
  | .semShadowCfgWrite reg v => fun _ => (⟨_, rfl⟩ : OfFabric s (execSemShadowCfgWrite reg v s))
  | .semShadowWrite k => fun _ => (⟨_, rfl⟩ : OfFabric s (execSemShadowWrite k s))
  | .evcClaim t sameCycle => fun _ => (⟨_, rfl⟩ : OfFabric s (execEvcClaim t sameCycle s))
  | .evcComplete t id => fun _ => (⟨_, rfl⟩ : OfFabric s (execEvcComplete t id s))
  | .evcPendSet who k mask => fun _ => (⟨_, rfl⟩ : OfFabric s (execEvcPendSet who k mask s))
  | .evcPendClr who k mask => fun _ => (⟨_, rfl⟩ : OfFabric s (execEvcPendClr who k mask s))
  | .wakeEdge _ => fun h => Bool.noConfusion h
  | .wakeLatchTake => fun _ => (⟨_, rfl⟩ : OfFabric s (execWakeLatchTake s))
  | .csiFrameStart p vc hdr => fun _ => (⟨_, rfl⟩ : OfFabric s (execCsiFrameStart p vc hdr s))
  | .csiLineStart p vc hdr isEnd => fun _ => (⟨_, rfl⟩ : OfFabric s (execCsiLineStart p vc hdr isEnd s))
  | .csiLine p vc dtype hdr crcOk payload => fun _ => (⟨_, rfl⟩ : OfFabric s (execCsiLine p vc dtype hdr crcOk payload s))
  | .csiEmbeddedData p vc hdr crcOk payload => fun _ => (⟨_, rfl⟩ : OfFabric s (execCsiEmbeddedData p vc hdr crcOk payload s))
  | .csiFrameEnd p vc hdr => fun _ => (⟨_, rfl⟩ : OfFabric s (execCsiFrameEnd p vc hdr s))
  | .pairWaitExpire p right => fun _ => (⟨_, rfl⟩ : OfFabric s (execPairWaitExpire p right s))
  | .ethFrameRx e frame => fun _ => (⟨_, rfl⟩ : OfFabric s (execEthFrameRx e frame s))
  | .imuDataReady n high => fun _ => (⟨_, rfl⟩ : OfFabric s (execImuDataReady n high s))
  | .imuTransactionEnd n data => fun _ => (⟨_, rfl⟩ : OfFabric s (execImuTransactionEnd n data s))
  | .streamLost st => fun _ => (⟨_, rfl⟩ : OfFabric s (execStreamLost st s))
  | .ingConfigWrite addr v => fun _ => (⟨_, rfl⟩ : OfFabric s (execIngConfigWrite addr v s))
  | .ingCtrlWrite v => fun _ => (⟨_, rfl⟩ : OfFabric s (execIngCtrlWrite v s))
  | .ifcOutputRecord n => fun _ => (⟨_, rfl⟩ : OfFabric s (execIfcOutputRecord n s))
  | .ifcChannelSwitch n c v => fun _ => (⟨_, rfl⟩ : OfFabric s (execIfcChannelSwitch n c v s))
  | .ifcConfigWrite addr v => fun _ => (⟨_, rfl⟩ : OfFabric s (execIfcConfigWrite addr v s))
  | .ifcDetCfgWrite k reg v => fun _ => (⟨_, rfl⟩ : OfFabric s (execIfcDetCfgWrite k reg v s))
  | .ifcCtrlWrite v => fun _ => (⟨_, rfl⟩ : OfFabric s (execIfcCtrlWrite v s))
  | .fddPairWrite e n v => fun _ => (⟨_, rfl⟩ : OfFabric s (execFddPairWrite e n v s))
  | .detect e => fun _ => (visWork_fabric .. : OfFabric s (execDetect e s))
  | .track e => fun _ => (visWork_fabric .. : OfFabric s (execTrack e s))
  | .seed e => fun _ => (visWork_fabric .. : OfFabric s (execSeed e s))
  | .matchSets e => fun _ => (visWork_fabric .. : OfFabric s (execMatchSets e s))
  | .depth => fun _ => (visWork_fabric .. : OfFabric s (execDepth s))
  | .project => fun _ => (visWork_fabric .. : OfFabric s (execProject s))
  | .visionJobEnd u => fun _ => (⟨_, rfl⟩ : OfFabric s (execVisionJobEnd u s))
  | .calArm u => fun _ => (⟨_, rfl⟩ : OfFabric s (execCalArm u s))
  | .calCheckEnd u => fun _ => (⟨_, rfl⟩ : OfFabric s (execCalCheckEnd u s))
  | .calDisarm u => fun _ => (⟨_, rfl⟩ : OfFabric s (execCalDisarm u s))
  | .calSwap => fun _ => (⟨_, rfl⟩ : OfFabric s (execCalSwap s))
  | .gateEvaluate run rivals => fun _ => (⟨_, rfl⟩ : OfFabric s (execGateEvaluate run rivals s))
  | .gateHoldExpire run => fun _ => (⟨_, rfl⟩ : OfFabric s (execGateHoldExpire run s))
  | .unitJobStart u => fun _ => (⟨_, rfl⟩ : OfFabric s (execUnitJobStart u s))
  | .gateEnd run gate => fun _ => (⟨_, rfl⟩ : OfFabric s (execGateEnd run gate s))
  | .fgsAbort v => fun _ => (⟨_, rfl⟩ : OfFabric s (execFgsAbort v s))
  | .tileRun => fun _ => (⟨_, rfl⟩ : OfFabric s (execTileRun s))
  | .tilePassCheck job tile errs residue => fun _ => (⟨_, rfl⟩ : OfFabric s (execTilePassCheck job tile errs residue s))
  | .tileJobEnd job => fun _ => (⟨_, rfl⟩ : OfFabric s (execTileJobEnd job s))
  | .tileTakeover tile => fun _ => (⟨_, rfl⟩ : OfFabric s (execTileTakeover tile s))
  | .tileTakeoverComplete tile => fun _ => (⟨_, rfl⟩ : OfFabric s (execTileTakeoverComplete tile s))
  | .fenceRelease tile => fun _ => (⟨_, rfl⟩ : OfFabric s (execFenceRelease tile s))
  | .restore grant => fun _ => (⟨_, rfl⟩ : OfFabric s (execRestore grant s))
  | .copyJobStart g => fun _ => (⟨_, rfl⟩ : OfFabric s (execCopyJobStart g s))
  | .copy e => fun _ => (⟨_, rfl⟩ : OfFabric s (execCopy e s))
  | .fill e => fun _ => (⟨_, rfl⟩ : OfFabric s (execFill e s))
  | .plan e => fun _ => (⟨_, rfl⟩ : OfFabric s (execPlan e s))
  | .copyJobEnd e => fun _ => (⟨_, rfl⟩ : OfFabric s (execCopyJobEnd e s))
  | .gdrRetrain ch ok => fun _ => (⟨_, rfl⟩ : OfFabric s (execGdrRetrain ch ok s))
  | .gdrScrubRead => fun _ => (⟨_, rfl⟩ : OfFabric s (execGdrScrubRead s))
  | .tfuPredict => fun _ => (⟨_, rfl⟩ : OfFabric s (execTfuPredict s))
  | .tfuTimerPredict => fun _ => (⟨_, rfl⟩ : OfFabric s (execTfuTimerPredict s))
  | .update => fun _ => (tfuWork_fabric .. : OfFabric s (execUpdate s))
  | .tfuReset => fun _ => (tfuWork_fabric .. : OfFabric s (execTfuReset s))
  | .motion => fun _ => (tfuWork_fabric .. : OfFabric s (execMotion s))
  | .report => fun _ => (tfuWork_fabric .. : OfFabric s (execReport s))
  | .tfuAidTimeout => fun _ => (⟨_, rfl⟩ : OfFabric s (execTfuAidTimeout s))
  | .tfuEgoCfgWrite v => fun _ => (⟨_, rfl⟩ : OfFabric s (execTfuEgoCfgWrite v s))
  | .solve => fun _ => (lseWork_fabric .. : OfFabric s (execSolve s))
  | .solveAccept => fun _ => (⟨_, rfl⟩ : OfFabric s (execSolveAccept s))
  | .solveIterationEnd => fun _ => (⟨_, rfl⟩ : OfFabric s (execSolveIterationEnd s))
  | .solveDeadlineMiss => fun _ => (⟨_, rfl⟩ : OfFabric s (execSolveDeadlineMiss s))
  | .preint => fun _ => (lseWork_fabric .. : OfFabric s (execPreint s))
  | .build => fun _ => (lseWork_fabric .. : OfFabric s (execBuild s))
  | .buildEnd => fun _ => (⟨_, rfl⟩ : OfFabric s (execBuildEnd s))
  | .query => fun _ => (prsWork_fabric .. : OfFabric s (execQuery s))
  | .prsCoarseEnd => fun _ => (⟨_, rfl⟩ : OfFabric s (execPrsCoarseEnd s))
  | .prsPageScan su => fun _ => (⟨_, rfl⟩ : OfFabric s (execPrsPageScan su s))
  | .prsQueryEnd => fun _ => (⟨_, rfl⟩ : OfFabric s (execPrsQueryEnd s))
  | .insert => fun _ => (prsWork_fabric .. : OfFabric s (execInsert s))
  | .prsDelete => fun _ => .ite (.same s) (prsWork_fabric ..)
  | .filterSetAll => fun _ => (filterJob_fabric .. : OfFabric s (execFilterSetAll s))
  | .filterClearAll => fun _ => (filterJob_fabric .. : OfFabric s (execFilterClearAll s))
  | .filterSetRange => fun _ => (filterJob_fabric .. : OfFabric s (execFilterSetRange s))
  | .filterClearRange => fun _ => (filterJob_fabric .. : OfFabric s (execFilterClearRange s))
  | .define => fun _ => .ite (.same s) (prsWork_fabric ..)
  | .put => fun _ => (writeLane_fabric .. : OfFabric s (execPut s))
  | .mstDelete => fun _ => (writeLane_fabric .. : OfFabric s (execMstDelete s))
  | .commit => fun _ => (writeLane_fabric .. : OfFabric s (execCommit s))
  | .commitDurable => fun _ => (⟨_, rfl⟩ : OfFabric s (execCommitDurable s))
  | .readWindow => fun _ => (readLane_fabric .. : OfFabric s (execReadWindow s))
  | .readGraph => fun _ => (readLane_fabric .. : OfFabric s (execReadGraph s))
  | .get => fun _ => (readLane_fabric .. : OfFabric s (execGet s))
  | .getBbx => fun _ => (readLane_fabric .. : OfFabric s (execGetBbx s))
  | .pin => fun _ => (writeLane_fabric .. : OfFabric s (execPin s))
  | .unpin => fun _ => (writeLane_fabric .. : OfFabric s (execUnpin s))
  | .flashPageRead ch seq cws => fun _ => (⟨_, rfl⟩ : OfFabric s (execFlashPageRead ch seq cws s))
  | .flashProgramFail ch erase block => fun _ => (⟨_, rfl⟩ : OfFabric s (execFlashProgramFail ch erase block s))
  | .flashChannelLost ch => fun _ => (⟨_, rfl⟩ : OfFabric s (execFlashChannelLost ch s))
  | .groomTask => fun _ => (⟨_, rfl⟩ : OfFabric s (execGroomTask s))
  | .mapMount => fun _ => (⟨_, rfl⟩ : OfFabric s (execMapMount s))
  | .mstFormat v => fun _ => (⟨_, rfl⟩ : OfFabric s (execMstFormat v s))
  | .pwrFail => fun h => Bool.noConfusion h
  | .sqTailDoorbell k v => fun _ => (⟨_, rfl⟩ : OfFabric s (execSqTailDoorbell k v s))
  | .cqHeadDoorbell k v => fun _ => (⟨_, rfl⟩ : OfFabric s (execCqHeadDoorbell k v s))
  | .descriptorFetch k ok rivals => fun _ => (⟨_, rfl⟩ : OfFabric s (execDescriptorFetch k ok rivals s))
  | .descriptorDispatch k rivals => fun _ => (⟨_, rfl⟩ : OfFabric s (execDescriptorDispatch k rivals s))
  | .descriptorDeadline k => fun _ => (⟨_, rfl⟩ : OfFabric s (execDescriptorDeadline k s))
  | .descriptorComplete d => fun _ => (⟨_, rfl⟩ : OfFabric s (execDescriptorComplete d s))
  | .completionHoldRelease k => fun _ => (⟨_, rfl⟩ : OfFabric s (execCompletionHoldRelease k s))
  | .cqCoalesceTimer k => fun _ => (⟨_, rfl⟩ : OfFabric s (execCqCoalesceTimer k s))
  | .nop d => fun _ => (onDesc_fabric .. : OfFabric s (execNop d s))
  | .configPtpAsym d => fun _ => (onDesc_fabric .. : OfFabric s (execConfigPtpAsym d s))
  | .configPtpAnnTmo d => fun _ => (onDesc_fabric .. : OfFabric s (execConfigPtpAnnTmo d s))
  | .load d p => fun _ => (onDesc_fabric .. : OfFabric s (execLoad d p s))
  | .unload d => fun _ => (⟨_, rfl⟩ : OfFabric s (execUnload d s))
  | .launch d => fun _ => (onDesc_fabric .. : OfFabric s (execLaunch d s))
  | .abort d => fun _ => (onDesc_fabric .. : OfFabric s (execAbort d s))
  | .arm d => fun _ => (onDesc_fabric .. : OfFabric s (execArm d s))
  | .disarm d sameCycle => fun _ => (onDesc_fabric .. : OfFabric s (execDisarm d sameCycle s))
  | .descCopy d => fun _ => (onDesc_fabric .. : OfFabric s (execDescCopy d s))
  | .descSolve d => fun _ => (onDesc_fabric .. : OfFabric s (execDescSolve d s))
  | .descPrs d => fun _ => (onDesc_fabric .. : OfFabric s (execDescPrs d s))
  | .descMst d => fun _ => (onDesc_fabric .. : OfFabric s (execDescMst d s))
  | .sqConfigWrite k v => fun _ => (⟨_, rfl⟩ : OfFabric s (execSqConfigWrite k v s))
  | .cqConfigWrite k v => fun _ => (⟨_, rfl⟩ : OfFabric s (execCqConfigWrite k v s))
  | .poseRingConfigWrite v => fun _ => (⟨_, rfl⟩ : OfFabric s (execPoseRingConfigWrite v s))
  | .evtRingConfigWrite v => fun _ => (⟨_, rfl⟩ : OfFabric s (execEvtRingConfigWrite v s))
  | .msixUnmask vec => fun _ => (⟨_, rfl⟩ : OfFabric s (execMsixUnmask vec s))
  | .bar4Access off acc => fun _ => (⟨_, rfl⟩ : OfFabric s (execBar4Access off acc s))
  | .pcieReset _ => fun h => Bool.noConfusion h
  | .perstRelease => fun h => Bool.noConfusion h
  | .controlPairFault => fun _ => (⟨_, rfl⟩ : OfFabric s (execControlPairFault s))
  | .watchdogExpire => fun _ => (⟨_, rfl⟩ : OfFabric s (execWatchdogExpire s))
  | .switchoverComplete mirrorOk => fun _ => (⟨_, rfl⟩ : OfFabric s (execSwitchoverComplete mirrorOk s))
  | .standbySelftestEnd pass => fun _ => (⟨_, rfl⟩ : OfFabric s (execStandbySelftestEnd pass s))
  | .standbyFault => fun _ => (⟨_, rfl⟩ : OfFabric s (execStandbyFault s))
  | .tfuLaneMismatch again => fun _ => (⟨_, rfl⟩ : OfFabric s (execTfuLaneMismatch again s))
  | .tfuKatEnd laneA laneB => fun _ => (⟨_, rfl⟩ : OfFabric s (execTfuKatEnd laneA laneB s))
  | .ifcMismatch again => fun _ => (⟨_, rfl⟩ : OfFabric s (execIfcMismatch again s))
  | .hifWriterMismatch again => fun _ => (⟨_, rfl⟩ : OfFabric s (execHifWriterMismatch again s))
  | .fabricLogicMismatch => fun _ => (⟨_, rfl⟩ : OfFabric s (execFabricLogicMismatch s))
  | .engineFault e => fun _ => (⟨_, rfl⟩ : OfFabric s (execEngineFault e s))
  | .engineSelftestEnd e pass => fun _ => (⟨_, rfl⟩ : OfFabric s (execEngineSelftestEnd e pass s))
  | .clockFault => fun h => Bool.noConfusion h
  | .railFault => fun h => Bool.noConfusion h
  | .periodicTest fault => fun _ => (⟨_, rfl⟩ : OfFabric s (execPeriodicTest fault s))
  | .checkerTest unit pass => fun _ => (⟨_, rfl⟩ : OfFabric s (execCheckerTest unit pass s))
  | .rotationStep p => fun _ => (⟨_, rfl⟩ : OfFabric s (execRotationStep p s))
  | .rotationWaitTimeout p => fun _ => (⟨_, rfl⟩ : OfFabric s (execRotationWaitTimeout p s))
  | .rotationSelftestEnd p pass => fun _ => (⟨_, rfl⟩ : OfFabric s (execRotationSelftestEnd p pass s))
  | .bbxRecordWritten => fun h => Bool.noConfusion h
  | .requestRun => fun _ => (⟨_, rfl⟩ : OfFabric s (execRequestRun s))
  | .requestGlide => fun _ => (⟨_, rfl⟩ : OfFabric s (execRequestGlide s))
  | .requestHold => fun _ => (⟨_, rfl⟩ : OfFabric s (execRequestHold s))
  | .pstateChangeComplete => fun _ => (⟨_, rfl⟩ : OfFabric s (execPstateChangeComplete s))
  | .holdWake => fun h => Bool.noConfusion h
  | .holdWakeTimer => fun h => Bool.noConfusion h
  | .pwrParkWrite v => fun _ => (⟨_, rfl⟩ : OfFabric s (execPwrParkWrite v s))
  | .powerSample mw => fun _ => (⟨_, rfl⟩ : OfFabric s (execPowerSample mw s))
  | .governorLimit => fun _ => (⟨_, rfl⟩ : OfFabric s (execGovernorLimit s))
  | .governorTick => fun _ => (⟨_, rfl⟩ : OfFabric s (execGovernorTick s))
  | .thermalSample _ _ => fun h => Bool.noConfusion h
  | .thermalStep tenMs => fun _ => (⟨_, rfl⟩ : OfFabric s (execThermalStep tenMs s))
  | .secLockWrite v => fun _ => (⟨_, rfl⟩ : OfFabric s (execSecLockWrite v s))
  | .svnCommitFw v => fun _ => (⟨_, rfl⟩ : OfFabric s (execSvnCommitFw v s))
  | .svnCommitVr v => fun _ => (⟨_, rfl⟩ : OfFabric s (execSvnCommitVr v s))
  | .health _ _ _ => fun h => Bool.noConfusion h
  | .bbxRead _ _ _ => fun h => Bool.noConfusion h
  | .coreReset _ _ _ => fun h => Bool.noConfusion h
  | .coreResetRelease _ _ => fun h => Bool.noConfusion h
  | .acserPower _ _ _ => fun h => Bool.noConfusion h
  | .attest _ _ _ => fun h => Bool.noConfusion h
  | .recoverBegin _ _ _ => fun h => Bool.noConfusion h
  | .recoverData _ _ _ => fun h => Bool.noConfusion h
  | .recoverEnd _ _ _ => fun h => Bool.noConfusion h
  | .time _ _ _ => fun h => Bool.noConfusion h
  | .acserSemSet _ _ _ => fun h => Bool.noConfusion h
  | .challenge _ _ _ => fun h => Bool.noConfusion h
  | .auth _ _ _ => fun h => Bool.noConfusion h
  | .owner _ _ _ => fun h => Bool.noConfusion h
  | .acserResponseRead _ => fun h => Bool.noConfusion h
  | .acserSessionTimeout => fun h => Bool.noConfusion h
  | .powerOnReset _ => fun h => Bool.noConfusion h
  | .pwrGoodCoreRise _ _ => fun h => Bool.noConfusion h
  | .pwrGoodTimeout => fun h => Bool.noConfusion h
  | .firmwareStart badTiles => fun _ => (⟨_, rfl⟩ : OfFabric s (execFirmwareStart badTiles s))
  | .gddr6TrainingEnd failed => fun _ => (⟨_, rfl⟩ : OfFabric s (execGddr6TrainingEnd failed s))
  | .startupReady => fun _ => (⟨_, rfl⟩ : OfFabric s (execStartupReady s))
  | .recoverWindowTimeout => fun _ => (⟨_, rfl⟩ : OfFabric s (execRecoverWindowTimeout s))
  | .pwrFailNRise => fun h => Bool.noConfusion h
  | .stripeProgrammed => fun _ => (⟨_, rfl⟩ : OfFabric s (execStripeProgrammed s))
  | .linkUp speed width => fun _ => (⟨_, rfl⟩ : OfFabric s (execLinkUp speed width s))
  | .ptpStatus => fun _ => (⟨_, rfl⟩ : OfFabric s (execPtpStatus s))
  | .delayReq => fun _ => (⟨_, rfl⟩ : OfFabric s (execDelayReq s))
  | .avsTargetReached => fun _ => (⟨_, rfl⟩ : OfFabric s (execAvsTargetReached s))
  | .schedulingBoundary => fun _ => (⟨_, rfl⟩ : OfFabric s (execSchedulingBoundary s))
  | .crystalStable _ _ => fun h => Bool.noConfusion h

/-- A command of the always-on domain answers the state it leaves. -/
theorem exec_alwaysOn (s : State) (c : Instr) (h : alwaysOn c = true) : ∃ t, exec c s = .next t := by
  cases c with
  | wakeEdge src => exact ⟨_, (rfl : execWakeEdge src s = _)⟩
  | pwrFail => exact ⟨_, (rfl : execPwrFail s = _)⟩
  | pcieReset kind => exact ⟨_, (rfl : execPcieReset kind s = _)⟩
  | perstRelease => exact ⟨_, (rfl : execPerstRelease s = _)⟩
  | clockFault => exact ⟨_, (rfl : execClockFault s = _)⟩
  | railFault => exact ⟨_, (rfl : execRailFault s = _)⟩
  | bbxRecordWritten => exact ⟨_, (rfl : execBbxRecordWritten s = _)⟩
  | holdWake => exact ⟨_, (rfl : execHoldWake s = _)⟩
  | holdWakeTimer => exact ⟨_, (rfl : execHoldWakeTimer s = _)⟩
  | thermalSample tj aon => exact ⟨_, (rfl : execThermalSample tj aon s = _)⟩
  | health seq payload crcOk => exact ⟨_, (rfl : execHealth seq payload crcOk s = _)⟩
  | bbxRead seq payload crcOk => exact ⟨_, (rfl : execBbxRead seq payload crcOk s = _)⟩
  | coreReset seq payload crcOk => exact ⟨_, (rfl : execCoreReset seq payload crcOk s = _)⟩
  | coreResetRelease cpa cpb => exact ⟨_, (rfl : execCoreResetRelease cpa cpb s = _)⟩
  | acserPower seq payload crcOk => exact ⟨_, (rfl : execAcserPower seq payload crcOk s = _)⟩
  | attest seq payload crcOk => exact ⟨_, (rfl : execAttest seq payload crcOk s = _)⟩
  | recoverBegin seq payload crcOk => exact ⟨_, (rfl : execRecoverBegin seq payload crcOk s = _)⟩
  | recoverData seq payload crcOk => exact ⟨_, (rfl : execRecoverData seq payload crcOk s = _)⟩
  | recoverEnd seq payload crcOk => exact ⟨_, (rfl : execRecoverEnd seq payload crcOk s = _)⟩
  | time seq payload crcOk => exact ⟨_, (rfl : execTime seq payload crcOk s = _)⟩
  | acserSemSet seq payload crcOk => exact ⟨_, (rfl : execAcserSemSet seq payload crcOk s = _)⟩
  | challenge seq payload crcOk => exact ⟨_, (rfl : execChallenge seq payload crcOk s = _)⟩
  | auth seq payload crcOk => exact ⟨_, (rfl : execAuth seq payload crcOk s = _)⟩
  | owner seq payload crcOk => exact ⟨_, (rfl : execOwner seq payload crcOk s = _)⟩
  | acserResponseRead full => exact ⟨_, (rfl : execAcserResponseRead full s = _)⟩
  | acserSessionTimeout => exact ⟨_, (rfl : execAcserSessionTimeout s = _)⟩
  | powerOnReset rise => exact ⟨_, (rfl : execPowerOnReset rise s = _)⟩
  | pwrGoodCoreRise cpa cpb => exact ⟨_, (rfl : execPwrGoodCoreRise cpa cpb s = _)⟩
  | pwrGoodTimeout => exact ⟨_, (rfl : execPwrGoodTimeout s = _)⟩
  | pwrFailNRise => exact ⟨_, (rfl : execPwrFailNRise s = _)⟩
  | crystalStable inWindow idFail => exact ⟨_, (rfl : execCrystalStable inWindow idFail s = _)⟩
  | _ => exact Bool.noConfusion h

/-- Settles O3: a command of the fabric domain answers through `fabric`, one of the always-on domain directly. -/
theorem everyCommandAnswersANextState : Obligations.EveryCommandAnswersANextState := by
  intro c s
  cases hc : alwaysOn c with
  | true => exact exec_alwaysOn s c hc
  | false =>
    obtain ⟨f, hf⟩ := exec_fabric s c hc
    cases hu : s.up with
    | true => exact ⟨f s, hf.trans (fabric_up s hu)⟩
    | false => exact ⟨s, hf.trans (fabric_held s hu)⟩

/-- Settles O6: such a command acts through `fabric`. -/
theorem heldFabricTakesNoCommand : Obligations.HeldFabricTakesNoCommand := by
  intro c s hu hc
  obtain ⟨f, hf⟩ := exec_fabric s c hc
  rw [hf, fabric_held s hu]

end Sys2Proof.Machine
end

section
/-! SUPPORT. A completion that a fence holds keeps its result words: the states in which a solve, a query, an insert or a map
job ends while a store of its gate is held (R263); O39, O40, O41, O42, O43, O44, O51. -/

namespace Sys2Proof.Machine

/-! ### What a held completion shows -/

/-- The state that a command leaves. -/
def leaves (c : Instr) (s : State) : State :=
  match exec c s with
  | .next t => t
  | _ => s

section
variable {c : Instr} {s : State} {o : Owner} {st : Nat} {P : State → Prop}

theorem Runs.leaves (h : Runs c s P) : P (leaves c s) := by
  obtain ⟨t, ht, hp⟩ := h
  rw [Machine.leaves, ht]
  exact hp

/-- What `ends` lets wait for a fence has no result words. -/
theorem deferred_of_ends {u : State} (h : ends s u o st) (hu : unacked u o = true) :
    u.memx.deferred = s.memx.deferred ++ [(o, st, [])] := (h.2 hu).2

end

/-- The gate whose store of a byte to tile 0 a fence holds. -/
def heldOwner : Owner := .gate 0 0

/-- The state after reset with the fabric domain running and that store not acknowledged. -/
def storeHeld : State :=
  { State.reset with
    up := true
    heldWrites := [⟨0, 0, 0⟩]
    memx := { State.reset.memx with unacked := [(heldOwner, 0)] } }

theorem inv_storeHeld : Inv storeHeld :=
  ⟨rfl, rfl, rfl, rfl, rfl, by decide, by decide, by decide, by decide⟩

/-- A job of that gate, of a block that starts with the bytes given and is 0 after them. -/
def heldJob (unit : Nat) (l : List Byte) : Job := ⟨heldOwner, unit, 0, 0, padTo 64 l, none, []⟩

/-! ### Solves -/

/-- A SOLVE of no loaded schedule at its acceptance. -/
def refusedSolve : State :=
  { storeHeld with lse := { storeHeld.lse with taken := some (heldJob 0x13 [0x20]) } }

/-- Refutes O39: the completion of a refused SOLVE carries its result words (R375) also where a fence holds it, and `ends` has a
held completion without any. -/
theorem not_solvesAreAcceptedInTurn : ¬ Obligations.SolvesAreAcceptedInTurn := by
  intro h
  obtain ⟨-, -, -, haccept⟩ := h refusedSolve (heldJob 0x13 [0x20]) rfl
  obtain ⟨hbad, -⟩ := haccept rfl rfl rfl
  obtain ⟨⟨-, -, hreport, -⟩, -⟩ := (hbad 1 (by decide +kernel)).leaves
  exact absurd (deferred_of_ends (hreport 0 0 rfl) (by decide +kernel)) (by decide +kernel)

/-- A solve of an empty problem, in its first iteration, whose image lies in a poisoned line of the slab. -/
def poisonedSolve : Solve :=
  ⟨heldJob 0x13 ([0x20] ++ List.replicate 15 0 ++ leBytes 8 slabBase), 0, none, 0, ⟨0, 0, 0, 0, [], 0, 0, 0, 0, 0, 0, 0, [], []⟩, 0,
    ⟨[], [], [], [], [], 0⟩, [], 0, 0, 0, 0, 0, 0, 0, 0, [], 0⟩

def poisonedImage : State :=
  { storeHeld with poison := [slabBase], lse := { storeHeld.lse with solve := some poisonedSolve } }

/-- Refutes O40: a solve that a poisoned image ends while a fence holds a store of its gate waits with its result words. -/
theorem not_solverJobsDoTheirWork : ¬ Obligations.SolverJobsDoTheirWork := by
  intro h
  obtain ⟨-, -, hpoison, -⟩ := h.1 poisonedImage poisonedSolve rfl rfl
  obtain ⟨-, -, hreport, -⟩ := (hpoison rfl (by decide +kernel)).leaves
  exact absurd (deferred_of_ends (hreport 0 0 rfl) (by decide +kernel)) (by decide +kernel)

/-- Refutes O51: a solve that a fault of the engine ends while a fence holds a store of its gate waits with its result words. -/
theorem not_enginesAndTilesAreTested : ¬ Obligations.EnginesAndTilesAreTested := by
  intro h
  obtain ⟨hengine, -⟩ := h poisonedImage rfl
  obtain ⟨-, hfault, -⟩ := hengine .lse
  obtain ⟨-, -, hsolve, -⟩ := hfault (by decide +kernel) (by decide +kernel)
  obtain ⟨-, -, hreport⟩ := (hsolve poisonedSolve rfl rfl rfl).leaves
  exact absurd (deferred_of_ends (hreport 0 0 rfl) (by decide +kernel)) (by decide +kernel)

/-! ### Queries and inserts -/

/-- A run of the coordinator whose coarse job has ended with status 0x26. -/
def faultedRun (op : Byte) : PrsRun :=
  ⟨heldJob 0x14 ([op] ++ List.replicate 23 0 ++ leBytes 8 slabBase), 0, 0, some 0x26, false, 0, [], [], [], 0, 0, 0, 0, [], 0⟩

def coarseFaulted (op : Byte) : State := { storeHeld with prs := { storeHeld.prs with run := some (faultedRun op) } }

theorem inv_coarseFaulted (op : Byte) : Inv (coarseFaulted op) :=
  ⟨rfl, rfl, rfl, rfl, rfl, inv_storeHeld.queue, inv_storeHeld.svn, inv_storeHeld.vr, inv_storeHeld.held⟩

/-- Refutes O41: a query whose coarse job failed waits for its fence with its result words (R398). -/
theorem not_queriesRunTheirStages : ¬ Obligations.QueriesRunTheirStages := by
  intro h
  obtain ⟨-, hrun, -⟩ := h (coarseFaulted 1) rfl (inv_coarseFaulted 1)
  obtain ⟨hcoarse, -⟩ := hrun (faultedRun 1) rfl rfl
  obtain ⟨-, hreport, -⟩ := (hcoarse 0x26 rfl rfl (by decide) (by decide)).leaves
  exact absurd (deferred_of_ends (hreport 0 0 rfl) (by decide +kernel)) (by decide +kernel)

/-- Refutes O42: so does an insert, with its count and the open epoch. -/
theorem not_theSideListAndTheFilter : ¬ Obligations.TheSideListAndTheFilter := by
  intro h
  obtain ⟨-, -, hinsert, -⟩ := h (coarseFaulted 2) (faultedRun 2).job [] rfl
  obtain ⟨-, hfault, -⟩ := hinsert (faultedRun 2) rfl rfl rfl
  obtain ⟨-, hreport, -⟩ := (hfault 0x26 rfl rfl (by decide)).leaves
  exact absurd (deferred_of_ends (hreport 0 0 rfl) (by decide +kernel)) (by decide +kernel)

/-! ### Jobs of the map store -/

/-- A mounted map store that retains epoch 1, pinned, with a job at its lane. -/
def mapJob (j : Job) : State :=
  { storeHeld with
    regs := [(R.mstStatus, 1)]
    fgs := { storeHeld.fgs with started := [(0x15, [j])] }
    mst := { storeHeld.mst with committed := 1, pins := [1] } }

theorem wf_mounted : Regs.wf [(R.mstStatus, 1)] = true := by decide +kernel

theorem inv_mapJob (j : Job) : Inv (mapJob j) :=
  ⟨rfl, wf_mounted, rfl, rfl, rfl, inv_storeHeld.queue, inv_storeHeld.svn, inv_storeHeld.vr, inv_storeHeld.held⟩

/-- A PIN of the committed epoch. -/
def pinJob : Job := heldJob 0x15 [6]

/-- Refutes O43: a PIN of a pinned epoch waits for its fence with the epoch and the number of pins (R416). -/
theorem not_writesJoinTheOpenEpoch : ¬ Obligations.WritesJoinTheOpenEpoch := by
  intro h
  obtain ⟨-, -, -, -, -, -, -, -, -, -, hpin, -⟩ := h (mapJob pinJob) rfl
  obtain ⟨-, hpinned, -⟩ := hpin pinJob true ⟨by decide +kernel, rfl, by decide +kernel, fun _ => by decide +kernel⟩ (by decide +kernel)
  obtain ⟨⟨-, hreport⟩, -⟩ := (hpinned rfl (by decide +kernel) (by decide +kernel)).leaves
  exact absurd (deferred_of_ends (hreport 0 0 rfl) (by decide +kernel)) (by decide +kernel)

/-- A READ of the committed epoch's graph to the slab. -/
def graphJob : Job := heldJob 0x15 ([4, 1, 1, 0] ++ List.replicate 20 0 ++ leBytes 8 slabBase)

/-- Refutes O44: a READ waits for its fence with the counts of its image (R422). -/
theorem not_readsShowOneEpoch : ¬ Obligations.ReadsShowOneEpoch := by
  intro h
  obtain ⟨-, -, hgraph, -⟩ := h (mapJob graphJob) graphJob rfl (inv_mapJob _)
  obtain ⟨-, hread, -⟩ := hgraph ⟨by decide +kernel, rfl, by decide +kernel, fun e => by cases e⟩ (by decide +kernel) rfl
  obtain ⟨-, hwritten, -⟩ := hread (by decide +kernel) (by decide +kernel)
  obtain ⟨⟨-, hreport⟩, -⟩ := (hwritten (by decide +kernel) (by decide +kernel) (by decide +kernel)).leaves
  exact absurd (deferred_of_ends (hreport 0 0 rfl) (by decide +kernel)) (by decide +kernel)

end Sys2Proof.Machine
end

section
/-! SUPPORT. Bytes that a fence holds outside the tiles, and what a start-up out of HOLD leaves: the states that refute O47, O49,
O53 and O59. -/

namespace Sys2Proof.Machine

/-! ### Held bytes outside the tiles -/

/-- The state after reset with the fabric domain running and a byte 0xFF, stored to `a`, held behind a fence. No fence holds a
store to another place than a tile (`Inv.held`), but the statements refuted here do not assume so. -/
def byteHeld (a : Nat) : State := { State.reset with up := true, heldWrites := [⟨0, a, 0xFF⟩] }

/-- A descriptor of SQ 0 whose work has ended, its tag 0. -/
def endedDesc : Desc := ⟨0, 0, 0, [], .ended, false, 0, false, 0, [], 0, true⟩

/-- The link up, CQ 0 enabled at the base of host memory with two entries, and that descriptor in the device. -/
def completionHeld : State :=
  { byteHeld hostBase with
    regs := [(R.hifStatus, 1), (R.hifCqCfg 0, 0x80000001)]
    hif := { State.reset.hif with descs := [endedDesc] } }

/-- Refutes O47: the tag of a completion is read back from its entry, where a held byte of the entry would stand before it. -/
theorem not_descriptorsPassTheirHolds : ¬ Obligations.DescriptorsPassTheirHolds := by
  intro h
  obtain ⟨-, -, -, hcomplete, -⟩ := h completionHeld rfl
  obtain ⟨-, -, -, -, hwritten, -⟩ := hcomplete endedDesc rfl rfl
  obtain ⟨-, -, -, hentry⟩ :=
    (hwritten (by decide) (by decide) rfl (by decide +kernel) (by decide +kernel)).leaves
  exact absurd (hentry (by decide +kernel) (by decide +kernel)).1 (by decide +kernel)

/-- The debug window set to the slab, whose first byte is held. -/
def windowHeld : State := { byteHeld slabBase with regs := [(R.hifWinBase, 0x40)] }

/-- Refutes O49: a write through BAR4 is read back, where a held byte would stand before it. -/
theorem not_windowAndLink : ¬ Obligations.WindowAndLink := by
  intro h
  obtain ⟨hwindow, -⟩ := h windowHeld
  obtain ⟨-, -, hopen⟩ := hwindow rfl 0
  obtain ⟨-, -, -, hwrite⟩ := hopen (by decide) (by decide +kernel)
  obtain ⟨-, hback, -⟩ := (hwrite [0] (by decide +kernel) (.inl (by decide +kernel))).leaves
  exact absurd hback (by decide +kernel)

/-- Refutes O53: parking the LSE empties its memory, but a held byte of it would still be read. -/
theorem not_powerStatesChange : ¬ Obligations.PowerStatesChange := by
  intro h
  obtain ⟨hrunning, -⟩ := h (byteHeld lseBase)
  obtain ⟨-, -, hpark⟩ := hrunning rfl
  have hfree : ¬ ∃ b, b < 11 ∧ bit 0xC0 b = true ∧ rb (byteHeld lseBase) R.pwrPark b = false ∧
      parkInUse (byteHeld lseBase) b = true := by decide +kernel
  obtain ⟨-, -, -, hlost⟩ := ((hpark 0x40).2 hfree).leaves
  have hzero := hlost (by decide +kernel) (by decide +kernel) lseBase
  exact absurd hzero (by decide +kernel)

/-! ### The end of a start-up out of HOLD -/

/-- A start-up out of HOLD with memory trained and the map store mounted. -/
def wokenUp : State :=
  { State.reset with
    up := true
    regs := [(R.mstStatus, 1)]
    aon := { State.reset.aon with boot := .trained }
    pwr := { State.reset.pwr with pstate := .hold } }

/-- Refutes O59: READY completes the exit from HOLD, and the always-on domain then shows that change as its last one; the
statement lets nothing of that domain change but the stage of the boot. -/
theorem not_startUpReachesReady : ¬ Obligations.StartUpReachesReady := by
  intro h
  obtain ⟨-, -, -, -, -, -, -, hready⟩ := h wokenUp rfl
  obtain ⟨haon, -⟩ := (hready rfl (.inl (by decide +kernel))).leaves
  have hchange : (leaves .startupReady wokenUp).aon.lastChange = 2 := by decide +kernel
  rw [haon] at hchange
  exact absurd hchange (by decide)

end Sys2Proof.Machine
end

section
/-! SUPPORT. How a claim that no register but those listed changes is built up, one register update at a time. -/

namespace Sys2Proof.Machine

variable {s t : State} {l : List Nat} {a : Nat}

theorem SameRegsBut.refl (l : List Nat) (s : State) : SameRegsBut l s s := fun _ _ => rfl

/-- A step that keeps every register outside the list extends the claim. -/
theorem SameRegsBut.step {u : State} (h : SameRegsBut l s t) (hu : ∀ b, b ∉ l → rd u b = rd t b) : SameRegsBut l s u :=
  fun b hb => (hu b hb).trans (h b hb)

theorem ne_of_not_mem {b : Nat} (ha : a ∈ l) (hb : b ∉ l) : b ≠ a := fun e => hb (e ▸ ha)

theorem SameRegsBut.wr (h : SameRegsBut l s t) (v : Word) (ha : a ∈ l) : SameRegsBut l s (wr t a v) :=
  h.step fun _ hb => rd_wr_other _ v (ne_of_not_mem ha hb)

theorem SameRegsBut.setBits (h : SameRegsBut l s t) (m : Word) (ha : a ∈ l) : SameRegsBut l s (setBits t a m) := h.wr _ ha

theorem SameRegsBut.clrBits (h : SameRegsBut l s t) (m : Word) (ha : a ∈ l) : SameRegsBut l s (clrBits t a m) := h.wr _ ha

theorem SameRegsBut.bump (h : SameRegsBut l s t) (ha : a ∈ l) : SameRegsBut l s (bump t a) := h.wr _ ha

theorem SameRegsBut.bumpWrap (h : SameRegsBut l s t) (ha : a ∈ l) : SameRegsBut l s (bumpWrap t a) := h.wr _ ha

theorem SameRegsBut.wf (h : SameRegsBut l s t) (hi lo v : Nat) (ha : a ∈ l) : SameRegsBut l s (wf t a hi lo v) := h.wr _ ha

theorem SameRegsBut.bbx (h : SameRegsBut l s t) (c u : Nat) (b : List Byte) (p : Bool) (he : R.safeEvent ∈ l)
    (hd : R.safeBbxDrop ∈ l) : SameRegsBut l s (bbx t c u b p) :=
  h.step fun _ hb => rd_bbx_other (ne_of_not_mem he hb) (ne_of_not_mem hd hb)

/-- With room in the queue a record joins it as its newest entry. -/
theorem bbx_joins {c u : Nat} {b : List Byte} {p : Bool} (h : s.bbxQueue.length < 64) :
    ∃ r, (bbx s c u b p).bbxQueue = s.bbxQueue ++ [r] ∧ r.code = c := ⟨_, bbx_room h, rfl⟩

end Sys2Proof.Machine
end

section
/-! SUPPORT. The security lock and the fuse commits (R525, R527, R531): O55. -/

namespace Sys2Proof.Machine

variable (s : State) (v : Word)

theorem rb_setBits_bit {a i : Nat} (hi : i < 32) : rb (setBits s a (bitW i)) a i = true := by
  rw [rb, rd_setBits_same]
  exact bit_or_bitW _ hi

/-- The lock is shown in both status registers. -/
def lockShown : State := setBits (setBits s R.glbStatus 0x10) R.secStatus 1

theorem rb_lockShown_glb : rb (lockShown s) R.glbStatus 4 = true := by
  rw [lockShown, rb, rd_setBits_other _ _ (by decide)]
  exact rb_setBits_bit s (i := 4) (by decide)

theorem rb_lockShown_sec : rb (lockShown s) R.secStatus 0 = true := rb_setBits_bit _ (i := 0) (by decide)

/-- The lock with its event and record. -/
def lockRecorded : State := secRec (secEvent (lockShown s) 1) 0x0603 [] true

theorem rd_lockRecorded_shown {a : Nat} (ha : a ≠ R.safeEvent) (hd : a ≠ R.safeBbxDrop) (he : a ≠ R.secEvent) :
    rd (lockRecorded s) a = rd (lockShown s) a := by
  rw [lockRecorded, secRec, rd_bbx_other ha hd, secEvent, rd_setBits_other _ _ he]

theorem execSecLockWrite_locks (hu : s.up = true) (hk : fld v 31 24 = 0x3C) (ho : s.sec.ownerSet = true) :
    exec (.secLockWrite v) s = .next (if rb s R.glbStatus 4 then lockShown s else lockRecorded s) := by
  have h : exec (.secLockWrite v) s = execSecLockWrite v s := rfl
  simp only [h, execSecLockWrite, fabric_up s hu, hk, ho]
  rfl

/-- What a lock by its key shows and leaves. -/
theorem secLockWrite_owned (hu : s.up = true) (hk : fld v 31 24 = 0x3C) (ho : s.sec.ownerSet = true) :
    Runs (.secLockWrite v) s fun u => rb u R.glbStatus 4 = true ∧ rb u R.secStatus 0 = true ∧ u.sec = s.sec ∧ u.mem = s.mem ∧
      (rb s R.glbStatus 4 = false → bit (rd u R.secEvent) 1 = true ∧
        SameRegsBut [R.glbStatus, R.secStatus, R.secEvent, R.safeEvent, R.safeBbxDrop] s u ∧
        (s.bbxQueue.length < 64 → ∃ r, u.bbxQueue = s.bbxQueue ++ [r] ∧ r.code = 0x0603)) := by
  refine runs_next (execSecLockWrite_locks s v hu hk ho) ?_
  cases hl : rb s R.glbStatus 4 with
  | true =>
    refine ⟨rb_lockShown_glb s, rb_lockShown_sec s, rfl, rfl, ?_⟩
    intro h
    exact absurd h (by decide)
  | false =>
    refine ⟨?_, ?_, ?_, ?_, fun _ => ⟨?_, ?_, ?_⟩⟩
    · simp only [Bool.false_eq_true, if_false, rb, rd_lockRecorded_shown s (a := R.glbStatus) (by decide) (by decide) (by decide)]
      exact rb_lockShown_glb s
    · simp only [Bool.false_eq_true, if_false, rb, rd_lockRecorded_shown s (a := R.secStatus) (by decide) (by decide) (by decide)]
      exact rb_lockShown_sec s
    · simp [lockRecorded, lockShown, secRec, secEvent]
    · simp [lockRecorded, lockShown, secRec, secEvent]
    · simp only [Bool.false_eq_true, if_false, lockRecorded, secRec]
      rw [rd_bbx_other (by decide) (by decide)]
      exact rb_setBits_bit (lockShown s) (i := 1) (by decide)
    · exact ((((SameRegsBut.refl _ s).setBits _ (by simp)).setBits _ (by simp)).setBits _ (by simp)).bbx _ _ _ _ (by simp) (by simp)
    · exact fun hq => bbx_joins (s := secEvent (lockShown s) 1) hq

/-- A refused commit burns nothing and sets SEC_ERR bit 0. -/
theorem commitRefused_shows : rd (setBits s R.secErr 1) R.secErr = rd s R.secErr ||| 1 ∧
    SameRegsBut [R.secErr] s (setBits s R.secErr 1) ∧ (setBits s R.secErr 1).sec = s.sec :=
  ⟨rd_setBits_same .., (SameRegsBut.refl _ s).setBits _ (by simp), rfl⟩

/-- A fuse counter raised to `n`: the fuses, the register that shows it, and the record. -/
def fuseRaised (f : Sec → Sec) (r n : Nat) (which : List Byte) : State :=
  secRec (wr (setSec s f) r (BitVec.ofNat 32 n)) 0x0607 (which ++ leBytes 4 n) true

theorem fuseRaised_shows (f : Sec → Sec) {r : Nat} (n : Nat) (which : List Byte) (he : r ≠ R.safeEvent) (hd : r ≠ R.safeBbxDrop) :
    (fuseRaised s f r n which).sec = f s.sec ∧ rd (fuseRaised s f r n which) r = BitVec.ofNat 32 n ∧
      (fuseRaised s f r n which).mem = s.mem ∧ SameRegsBut [r, R.safeEvent, R.safeBbxDrop] s (fuseRaised s f r n which) ∧
      (s.bbxQueue.length < 64 → ∃ x, (fuseRaised s f r n which).bbxQueue = s.bbxQueue ++ [x] ∧ x.code = 0x0607) := by
  refine ⟨?_, ?_, ?_, ?_, ?_⟩
  · simp [fuseRaised, secRec, setSec]
  · rw [fuseRaised, secRec, rd_bbx_other he hd, rd_wr_same]
  · simp [fuseRaised, secRec, setSec]
  · have h0 : SameRegsBut [r, R.safeEvent, R.safeBbxDrop] s (setSec s f) := SameRegsBut.refl _ s
    exact (h0.wr _ (by simp)).bbx _ _ _ _ (by simp) (by simp)
  · exact fun hq => bbx_joins (s := wr (setSec s f) r (BitVec.ofNat 32 n)) hq

theorem not_keyed {b : Nat} (h : ¬(fld v 31 24 = 0x96 ∧ bit v b = true)) : fld v 31 24 ≠ 0x96 ∨ bit v b = false := by
  by_cases hk : fld v 31 24 = 0x96
  · exact .inr (by simpa [hk] using h)
  · exact .inl hk

/-- A commit's refusal test is the negation of its condition. -/
theorem commitRefuses_iff (r : Bool) (old n : Nat) :
    (r || decide (n ≤ old) || decide (64 < n)) = true ↔ ¬(r = false ∧ old < n ∧ n ≤ 64) := by
  cases r
  · simp
    omega
  · simp

/-- The number of the accepted version record, 0 without one. -/
def acceptedVersion : Nat := match versionRecord s with | some r => rec8 r 4 4 | none => 0

variable {v}

theorem svnCommitFw_keyed (hu : s.up = true) (hk : fld v 31 24 = 0x96 ∧ bit v 0 = true) :
    exec (.svnCommitFw v) s = .next (if recoveryRuns s || decide ((rd s R.secFwSvn).toNat ≤ s.sec.fuseSvn) ||
      decide (64 < (rd s R.secFwSvn).toNat) then setBits s R.secErr 1
      else fuseRaised s (fun c => { c with fuseSvn := (rd s R.secFwSvn).toNat }) R.secFuseSvn (rd s R.secFwSvn).toNat (leBytes 4 0)) := by
  have h : exec (.svnCommitFw v) s = execSvnCommitFw v s := rfl
  have hn : ¬(fld v 31 24 ≠ 0x96 ∨ bit v 0 = false) := by simp [hk]
  rw [h, execSvnCommitFw, fabric_up s hu, if_neg hn]
  rfl

theorem svnCommitVr_keyed (hu : s.up = true) (hk : fld v 31 24 = 0x96 ∧ bit v 1 = true) :
    exec (.svnCommitVr v) s = .next (if recoveryRuns s || decide (acceptedVersion s ≤ s.sec.fuseVr) ||
      decide (64 < acceptedVersion s) then setBits s R.secErr 1
      else fuseRaised s (fun c => { c with fuseVr := acceptedVersion s }) R.secVrCnt (acceptedVersion s) (leBytes 4 1)) := by
  have h : exec (.svnCommitVr v) s = execSvnCommitVr v s := rfl
  have hn : ¬(fld v 31 24 ≠ 0x96 ∨ bit v 1 = false) := by simp [hk]
  rw [h, execSvnCommitVr, fabric_up s hu, if_neg hn]
  rfl

theorem svnCommitFw_unkeyed (hu : s.up = true) (hk : ¬(fld v 31 24 = 0x96 ∧ bit v 0 = true)) :
    Runs (.svnCommitFw v) s fun u => u = s :=
  runs_fabric hu (f := fun s => if fld v 31 24 ≠ 0x96 ∨ bit v 0 = false then s else _) rfl (if_pos (not_keyed v hk))

theorem svnCommitVr_unkeyed (hu : s.up = true) (hk : ¬(fld v 31 24 = 0x96 ∧ bit v 1 = true)) :
    Runs (.svnCommitVr v) s fun u => u = s :=
  runs_fabric hu (f := fun s => if fld v 31 24 ≠ 0x96 ∨ bit v 1 = false then s else _) rfl (if_pos (not_keyed v hk))

/-- Settles O55: each command is one case distinction, whose branches are a refusal, a lock or a raised counter. -/
theorem lockAndFusesAreCommitted : Obligations.LockAndFusesAreCommitted := by
  intro s v hu
  refine ⟨fun hk => ?_, fun hk ho => ?_, fun hk ho => secLockWrite_owned s v hu hk ho, ?_⟩
  · exact runs_fabric hu (f := fun s => if fld v 31 24 ≠ 0x3C then s else _) rfl (if_pos hk)
  · have h : exec (.secLockWrite v) s = .next (setBits s R.secErr 2) := by
      have h : exec (.secLockWrite v) s = execSecLockWrite v s := rfl
      simp only [h, execSecLockWrite, fabric_up s hu, hk, ho]
      rfl
    exact runs_next h ⟨rd_setBits_same .., (SameRegsBut.refl _ s).setBits _ (by simp), rfl⟩
  · refine ⟨svnCommitFw_unkeyed s hu, svnCommitVr_unkeyed s hu, fun hk hr => ?_, fun hk hr => ?_, fun hk hr => ?_, fun hk hr => ?_⟩
    · refine runs_next (svnCommitFw_keyed s hu hk) ?_
      rw [if_pos ((commitRefuses_iff ..).mpr hr)]
      exact commitRefused_shows s
    · refine runs_next (svnCommitFw_keyed s hu hk) ?_
      rw [if_neg (fun h => (commitRefuses_iff ..).mp h hr)]
      have h := fuseRaised_shows s (fun c => { c with fuseSvn := (rd s R.secFwSvn).toNat }) (r := R.secFuseSvn)
        (rd s R.secFwSvn).toNat (leBytes 4 0) (by decide) (by decide)
      rwa [BitVec.ofNat_toNat, BitVec.setWidth_eq] at h
    · refine runs_next (svnCommitVr_keyed s hu hk) ?_
      rw [if_pos ((commitRefuses_iff _ _ (acceptedVersion s)).mpr hr)]
      exact commitRefused_shows s
    · refine runs_next (svnCommitVr_keyed s hu hk) ?_
      rw [if_neg (fun h => (commitRefuses_iff _ _ (acceptedVersion s)).mp h hr)]
      exact fuseRaised_shows s (fun c => { c with fuseVr := acceptedVersion s }) (r := R.secVrCnt) (acceptedVersion s)
        (leBytes 4 1) (by decide) (by decide)

end Sys2Proof.Machine
end

section
/-! SUPPORT. Black-box records in the MRAM, mirrors at a scheduling boundary (R484, R491 to R496, R505): O52. -/

namespace Sys2Proof.Machine

variable {s : State}

/-! ### An event posted leaves the safety block -/

theorem fld_lt (w : Word) (hi lo : Nat) : fld w hi lo < 2 ^ (hi + 1 - lo) := Nat.mod_lt _ (Nat.two_pow_pos _)

theorem rd_msixSend_above {a v : Nat} (hv : v < 128) (ha : 0x310000 ≤ a) : rd (msixSend s v) a = rd s a := by
  unfold msixSend
  split
  · exact rd_setBits_other _ _ (by simp only [R.hifMsixPba]; omega)
  · split <;> rfl

theorem rd_postEvent_above {a : Nat} (d : DWord) (c u : Nat) (l : List Byte) (ha : 0x310000 ≤ a) :
    rd (postEvent s d c u l) a = rd s a := by
  unfold postEvent
  dsimp only
  have hseq : rd (wr { s with evtNext := s.evtNext + 1 } R.hifEvtSeq s.evtNext) a = rd s a :=
    rd_wr_other _ _ (by simp only [R.hifEvtSeq]; omega)
  split
  · rw [rd_msixSend_above (fld_lt _ 22 16) ha, rd_hostWrite_above _ (by omega), hseq]
  · rw [rd_bump_other _ (by simp only [R.hifEvtDrop]; omega), hseq]

/-! ### Bytes written to the MRAM -/

theorem mramWrite_nil (b : Bbx) (a : Nat) : mramWrite b a [] = b := rfl

/-- The last byte is written after the others. -/
theorem mramWrite_concat (b : Bbx) (a : Nat) (l : List Byte) (x : Byte) :
    (mramWrite b a (l ++ [x])).mram = tabSet 0 (mramWrite b a l).mram (a + l.length) x := by
  simp only [mramWrite, List.length_append, List.length_singleton, List.range_succ]
  rw [List.zip_append List.length_range, List.foldl_append]
  rfl

theorem tabGet_mramWrite_out (b : Bbx) {a x : Nat} {l : List Byte} (h : x < a ∨ a + l.length ≤ x) :
    tabGet 0 (mramWrite b a l).mram x = tabGet 0 b.mram x := by
  induction l using List.reverseRecOn with
  | nil => rfl
  | append_singleton l y ih =>
    rw [List.length_append, List.length_singleton] at h
    rw [mramWrite_concat, tabGet_set_other _ _ _ _ (by omega), ih (by omega)]

theorem tabGet_mramWrite_in (b : Bbx) (a : Nat) {l : List Byte} {i : Nat} (h : i < l.length) :
    tabGet 0 (mramWrite b a l).mram (a + i) = l.getD i 0 := by
  induction l using List.reverseRecOn with
  | nil => exact absurd h (by simp)
  | append_singleton l y ih =>
    rw [List.length_append, List.length_singleton] at h
    rw [mramWrite_concat]
    by_cases hi : i = l.length
    · subst hi
      simp [List.getD_eq_getElem?_getD]
    · rw [tabGet_set_other _ _ _ _ (by omega), ih (by omega), List.getD_append _ _ _ _ (by omega)]

theorem length_bbxBytes (b : Bbx) (r : BbxRec) : (bbxBytes b r).length = 64 := by
  simp only [bbxBytes, List.length_append, leBytes_length, length_padTo]

theorem length_bbxHeader (b : Bbx) : (bbxHeader b).length = 64 := by
  simp only [bbxHeader, List.length_append, leBytes_length]

/-- Both copies of the header lie below the record slots. -/
theorem tabGet_writeHeader_above (b : Bbx) {x : Nat} (h : 4096 ≤ x) : tabGet 0 (writeHeader b).mram x = tabGet 0 b.mram x := by
  simp only [writeHeader]
  refine tabGet_mramWrite_out { b with gen := b.gen + 1 } ?_
  rw [length_bbxHeader]
  split <;> omega

theorem pinRecord_counts (b : Bbx) (k c : Nat) :
    (pinRecord b k c).seq = b.seq ∧ (pinRecord b k c).gen = b.gen ∧ (pinRecord b k c).boot = b.boot := by
  unfold pinRecord
  dsimp only
  repeat' split
  all_goals exact ⟨rfl, rfl, rfl⟩

/-! ### The record written -/

/-- The writer after record `r`. -/
def writerAfter (b : Bbx) (r : BbxRec) : Bbx :=
  let c := pinRecord (mramWrite b (4096 + 64 * nextSlot b) (bbxBytes b r)) (nextSlot b) r.code
  writeHeader { c with seq := c.seq + 1, slot := (nextSlot b + 1) % c.slots }

theorem writerAfter_seq (b : Bbx) (r : BbxRec) : (writerAfter b r).seq = b.seq + 1 := by
  simp only [writerAfter, writeHeader, mramWrite]
  rw [(pinRecord_counts _ _ _).1]

theorem writerAfter_gen (b : Bbx) (r : BbxRec) : (writerAfter b r).gen = b.gen + 1 := by
  simp only [writerAfter, writeHeader, mramWrite]
  rw [(pinRecord_counts _ _ _).2.1]

/-- The record lies in its slot. -/
theorem tabGet_writerAfter (b : Bbx) (r : BbxRec) {i : Nat} (h : i < 64) :
    tabGet 0 (writerAfter b r).mram (4096 + 64 * nextSlot b + i) = (bbxBytes b r).getD i 0 := by
  rw [writerAfter, tabGet_writeHeader_above _ (by omega), pinRecord_mram]
  exact tabGet_mramWrite_in _ _ (by rwa [length_bbxBytes])

/-- The state with the front record taken from the queue and written. -/
def bbxWritten (s : State) (r : BbxRec) (rest : List BbxRec) : State :=
  syncBbx { s with
    bbxQueue := rest
    bbx := writerAfter s.bbx r
    mst := { s.mst with bbxSince := s.mst.bbxSince ++ [bbxBytes s.bbx r] } }

theorem bbxWritten_frame (s : State) (r : BbxRec) (rest : List BbxRec) : ∃ f, bbxWritten s r rest = { s with
    regs := f
    bbxQueue := rest
    bbx := writerAfter s.bbx r
    mst := { s.mst with bbxSince := s.mst.bbxSince ++ [bbxBytes s.bbx r] } } := OnlyRegs.refl.syncBbx

theorem rd_bbxWritten_seq (s : State) (r : BbxRec) (rest : List BbxRec) :
    rd (bbxWritten s r rest) R.safeBbxSeq = s.bbx.seq + 1 := by
  rw [bbxWritten]
  simp only [syncBbx]
  rw [rd_wr_other _ _ (by decide), rd_wr_other _ _ (by decide), rd_wr_same, writerAfter_seq]

theorem bbxWritten_sameBytes (s : State) (r : BbxRec) (rest : List BbxRec) : SameBytes s (bbxWritten s r rest) := by
  obtain ⟨f, hf⟩ := bbxWritten_frame s r rest
  refine sameBytes_of_redirect (fun k hk => ?_) (by rw [hf]) (by rw [hf]) (by rw [hf])
  rw [bbxWritten, rd_syncBbx_other (by simp only [R.memRedir, R.safeBbxSeq]; omega)
    (by simp only [R.memRedir, R.safeBbxPinned]; omega) (by simp only [R.memRedir, R.safeBootCnt]; omega)]
  rfl

theorem exec_bbxRecordWritten {r : BbxRec} {rest : List BbxRec} (h : s.bbxQueue = r :: rest) :
    exec .bbxRecordWritten s = .next (if r.post && s.up then
      postEvent (bbxWritten s r rest) r.dt r.code (r.unit % 256) (r.args.take 12) else bbxWritten s r rest) := by
  have he : exec .bbxRecordWritten s = execBbxRecordWritten s := rfl
  rw [he]
  simp only [execBbxRecordWritten, h, bbxWritten, writerAfter]

theorem bbxRecordWritten_empty (h : s.bbxQueue = []) : Runs .bbxRecordWritten s fun u => u = s := by
  have he : exec .bbxRecordWritten s = execBbxRecordWritten s := rfl
  refine runs_next (t := s) ?_ rfl
  rw [he]
  simp only [execBbxRecordWritten, h]

/-- Posting the record's event keeps what the writing of it left. -/
theorem bbxRecordWritten_writes {r : BbxRec} {rest : List BbxRec} (h : s.bbxQueue = r :: rest) :
    Runs .bbxRecordWritten s fun u => u.bbxQueue = rest ∧ u.bbx.seq = s.bbx.seq + 1 ∧ u.bbx.gen = s.bbx.gen + 1 ∧
      rd u R.safeBbxSeq = s.bbx.seq + 1 ∧
      (∀ i, i < 64 → tabGet 0 u.bbx.mram (4096 + 64 * nextSlot s.bbx + i) = (bbxBytes s.bbx r).getD i 0) ∧
      u.mst.bbxSince = s.mst.bbxSince ++ [bbxBytes s.bbx r] ∧ (r.post = false → SameBytes s u ∧ u.evtNext = s.evtNext) ∧
      (r.post = true → s.up = true → u.evtNext = s.evtNext + 1) := by
  have hseq := rd_bbxWritten_seq s r rest
  obtain ⟨f, hf⟩ := bbxWritten_frame s r rest
  refine runs_next (exec_bbxRecordWritten h) ?_
  cases hp : r.post && s.up with
  | true =>
    rw [if_pos rfl, rd_postEvent_above _ _ _ _ (by decide)]
    simp only [postEvent_bbxQueue, postEvent_bbx, postEvent_mst, postEvent_evtNext]
    obtain ⟨hpost, _⟩ := (Bool.and_eq_true _ _).mp hp
    refine ⟨by rw [hf], by rw [hf]; exact writerAfter_seq _ _, by rw [hf]; exact writerAfter_gen _ _, hseq,
      fun i hi => by rw [hf]; exact tabGet_writerAfter _ _ hi, by rw [hf], fun hn => ?_, fun _ _ => by rw [hf]⟩
    rw [hpost] at hn
    exact absurd hn (by decide)
  | false =>
    rw [if_neg (by decide)]
    refine ⟨by rw [hf], by rw [hf]; exact writerAfter_seq _ _, by rw [hf]; exact writerAfter_gen _ _, hseq,
      fun i hi => by rw [hf]; exact tabGet_writerAfter _ _ hi, by rw [hf],
      fun _ => ⟨bbxWritten_sameBytes s r rest, by rw [hf]⟩, fun hr hu => ?_⟩
    rw [hr, hu] at hp
    exact absurd hp (by decide)

/-! ### The scheduling boundary -/

/-- Completing sources one after another leaves active at the target what is not among them. -/
theorem completeSources_active (t : Nat) (l : List Nat) (hl : ∀ n ∈ l, n < 512) (s : State) (m : Nat) :
    inSet (tabGet 0 (l.foldl (fun st n => completeSource st t n) s).evc.active t) m =
      (inSet (tabGet 0 s.evc.active t) m && !l.contains m) := by
  induction l generalizing s with
  | nil => simp
  | cons n l ih =>
    have hn : n < 512 := hl n List.mem_cons_self
    rw [List.foldl_cons, ih fun k hk => hl k (List.mem_cons_of_mem _ hk), completeSource, tabGet_set_same]
    by_cases hm : m = n
    · subst hm
      simp [inSet_delSet_same _ hn]
    · simp [inSet_delSet_other _ hn hm, hm]

theorem activeAt_completeAll (s : State) (t : Nat) : activeAt (completeAll s t) t = [] := by
  have hlt : ∀ n ∈ activeAt s t, n < 512 := fun n hn => List.mem_range.mp (List.mem_filter.mp hn).1
  refine List.filter_eq_nil_iff.mpr fun m hm => ?_
  rw [completeAll, completeSources_active t _ hlt]
  cases hc : inSet (tabGet 0 s.evc.active t) m with
  | true =>
    have hin : m ∈ activeAt s t := List.mem_filter.mpr ⟨hm, hc⟩
    simp [hin]
  | false => simp

/-- Completing every source changes the event controller alone. -/
theorem completeAll_frame (s : State) (t : Nat) : ∃ e, completeAll s t = { s with evc := e } := by
  rw [completeAll]
  generalize activeAt s t = l
  induction l generalizing s with
  | nil => exact ⟨s.evc, rfl⟩
  | cons n l ih =>
    obtain ⟨e, he⟩ := ih (completeSource s t n)
    exact ⟨e, he⟩

theorem schedulingBoundary_idle (hu : s.up = true) (h : rb s R.glbStatus 2 = false ∨ s.safe.switching ≠ none) :
    Runs .schedulingBoundary s fun u => u = s := by
  refine runs_fabric hu (f := fun s => if !rb s R.glbStatus 2 || s.safe.switching.isSome then s else _) rfl (if_pos ?_)
  rw [Bool.or_eq_true, Bool.not_eq_true', Option.isSome_iff_ne_none]
  exact h

/-- The mirror written now. -/
def mirrored (s : State) : State := { s with safe := { s.safe with mirror := some s.dt.now } }

theorem exec_schedulingBoundary (hu : s.up = true) (hb : rb s R.glbStatus 2 = true) (hs : s.safe.switching = none) :
    exec .schedulingBoundary s = .next (if s.pwr.target = some .glide ∧ activePair s = 1 then
      wf (completeAll (mirrored s) 1) R.glbStatus 1 1 0 else mirrored s) := by
  have he : exec .schedulingBoundary s = execSchedulingBoundary s := rfl
  rw [he, execSchedulingBoundary, fabric_up s hu]
  simp only [hb, hs]
  rfl

theorem activePair_wf_zero (s : State) : activePair (wf s R.glbStatus 1 1 0) = 0 := by
  rw [activePair, rf, rd_wf_same]
  exact fld_setFld_same (by decide) le_rfl (by decide)

/-- On the way to GLIDE pair B hands over to pair A. -/
theorem handedOver (s : State) : activePair (wf (completeAll (mirrored s) 1) R.glbStatus 1 1 0) = 0 ∧
    (wf (completeAll (mirrored s) 1) R.glbStatus 1 1 0).safe.mirror = some s.dt.now ∧
    activeAt (wf (completeAll (mirrored s) 1) R.glbStatus 1 1 0) 1 = [] ∧
    (wf (completeAll (mirrored s) 1) R.glbStatus 1 1 0).bbxQueue = s.bbxQueue := by
  obtain ⟨e, he⟩ := completeAll_frame (mirrored s) 1
  refine ⟨activePair_wf_zero _, by rw [wf_safe, he]; rfl, ?_, by rw [wf_bbxQueue, he]; rfl⟩
  rw [activeAt, wf_evc]
  exact activeAt_completeAll (mirrored s) 1

/-- Settles O52: a record takes its slot of the MRAM above both headers; a boundary writes the mirror and may hand over. -/
theorem recordsAndMirrorsAreWritten : Obligations.RecordsAndMirrorsAreWritten := by
  intro s
  refine ⟨bbxRecordWritten_empty, ?_, ?_, ?_⟩
  · intro r rest h _ _ _
    exact bbxRecordWritten_writes h
  · exact schedulingBoundary_idle
  intro hu hb hs
  refine ⟨?_, ?_⟩
  · intro hg hp
    refine runs_next (exec_schedulingBoundary hu hb hs) ?_
    rw [if_pos ⟨hg, hp⟩]
    exact handedOver s
  · intro h
    refine runs_next (exec_schedulingBoundary hu hb hs) ?_
    have hn : ¬(s.pwr.target = some .glide ∧ activePair s = 1) := by
      rintro ⟨hg, hp⟩
      obtain h | h := h
      · exact h hg
      · omega
    rw [if_neg hn]
    rfl

end Sys2Proof.Machine
end

section
/-! SUPPORT. Safe state and the end of a job as every later fact uses them: what each leaves, and its record (R150, R219, R478). -/

namespace Sys2Proof.Machine

variable {s t u : State}

/-! ### Safe state -/

theorem freeBytes_frame (n : Nat) (s : State) : ∃ k, (freeBytes n s).2 = { s with fresh := k } := by
  induction n generalizing s with
  | zero => exact ⟨s.fresh, rfl⟩
  | succ n ih => exact ih { s with fresh := s.fresh + 1 }

/-- The arguments of a FATAL record begin with the class row. -/
theorem rec8_fatal_row {row : Nat} (hr : row < 256) (l : List Byte) : rec8 (padTo 36 (leBytes 1 row ++ l)) 0 1 = row := by
  simp [rec8, slice, padTo, leBytes, leVal, Nat.mod_eq_of_lt hr]

theorem alertOn_frame (s : State) (c : Nat) : ∃ l, alertOn s c = { s with aon := { s.aon with alerts := l } } := by
  unfold alertOn
  split
  · exact ⟨s.aon.alerts, rfl⟩
  · exact ⟨_, rfl⟩

/-- The fabric held and the writers gated after the FATAL record, with ALERT_N still to fall. -/
def fatalHeld (s : State) : State := { s with gated := true, up := false, safe := { s.safe with inSafe := true } }

theorem faultRec_queue {c x i : Nat} {l : List Byte} {p : Bool} (h : s.bbxQueue.length < 64) :
    (faultRec s c x i l p).bbxQueue = s.bbxQueue ++ [⟨s.dt.now, c, x + 256 * (i % 256), padTo 36 l, p⟩] :=
  bbx_room (s := wr s R.safeLastFault _) h

/-- SAFE_STATE is its record, the hold and the alert. -/
theorem safeState_eq (s : State) (row x i : Nat) : ∃ k cap, safeState s row x i =
    alertOn (fatalHeld (faultRec { s with fresh := k } 0x0206 x i (leBytes 1 row ++ (leBytes 3 0 ++ leBytes 8 s.dt.now.toNat ++ cap)) false)) 0 := by
  obtain ⟨k, hk⟩ := freeBytes_frame 24 s
  refine ⟨k, (freeBytes 24 s).1, ?_⟩
  rw [← hk, ← List.append_assoc, ← List.append_assoc]
  rfl

/-- SAFE_STATE holds the fabric, gates the writers, lowers ALERT_N, and records its row where the AOM's queue has room. -/
theorem safeState_wentSafe (s : State) {row : Nat} (x i : Nat) (hr : row < 256) : wentSafe s (safeState s row x i) row := by
  obtain ⟨k, cap, he⟩ := safeState_eq s row x i
  generalize hargs : leBytes 1 row ++ (leBytes 3 0 ++ leBytes 8 s.dt.now.toNat ++ cap) = args at he
  obtain ⟨l, hl⟩ := alertOn_frame (fatalHeld (faultRec { s with fresh := k } 0x0206 x i args false)) 0
  have hin := alertOn_mem (fatalHeld (faultRec { s with fresh := k } 0x0206 x i args false)) 0
  rw [← he] at hl hin
  refine ⟨by rw [hl]; rfl, by rw [hl]; rfl, by rw [hl]; rfl, hin, ?_, fun hq => ?_⟩
  · rw [hl]
    simp [fatalHeld, faultRec]
  · rw [hl]
    refine ⟨⟨s.dt.now, 0x0206, x + 256 * (i % 256), padTo 36 args, false⟩, ?_, rfl, rfl, ?_⟩
    · show _ ∈ (faultRec { s with fresh := k } 0x0206 x i args false).bbxQueue
      rw [faultRec_queue (s := { s with fresh := k }) hq]
      exact List.mem_append_right _ (List.mem_singleton.mpr rfl)
    · rw [← hargs]
      exact rec8_fatal_row hr _

/-! ### The end of a job -/

/-- A unit's report changes the frame-graph scheduler, the host interface, the place coordinator and the lists of stores alone. -/
theorem finish_frame (s : State) (o : Owner) (st : Nat) (l : List Byte) :
    ∃ f h p m, finish s o st l = { s with fgs := f, hif := h, prs := p, memx := m } := by
  unfold finish
  split
  · exact ⟨_, _, _, _, rfl⟩
  · cases o
    all_goals exact ⟨_, _, _, _, rfl⟩

/-- A stop of the map store leaves memory, the always-on domain, power and the AOM's queue. -/
theorem mstStop_frame (s : State) : ∃ r f h p m x, mstStop s = { s with regs := r, fgs := f, hif := h, prs := p, memx := m, mst := x } := by
  unfold mstStop
  dsimp only
  split
  · next w _ =>
    split
    · exact ⟨_, _, _, _, _, _, rfl⟩
    · obtain ⟨f, h, p, m, e⟩ := finish_frame (setBits (mstEvent s 5) R.mstStatus 8) w.job.owner 0x28 []
      rw [e]
      exact ⟨_, _, _, _, _, _, rfl⟩
  · exact ⟨_, _, _, _, _, _, rfl⟩

end Sys2Proof.Machine
end

section
/-! SUPPORT. ARRAY_CLK, the governor and LIMIT (R511 to R515, R566): part of O54. -/

namespace Sys2Proof.Machine

variable {s t u : State}

/-! ### What a change of the clock leaves -/

/-- Only the power state and registers change, and of PWR_STATUS the clock's step at most; the governor's, the thermal step, the
window and LIMIT stay. -/
structure ClockOnly (s u : State) : Prop where
  frame : u = { s with regs := u.regs, pwr := { s.pwr with avs := u.pwr.avs, raise := u.pwr.raise } }
  regs : SameRegsBut [R.pwrStatus] s u
  status : ∀ i, i < 8 → rb u R.pwrStatus i = rb s R.pwrStatus i

theorem ClockOnly.refl (s : State) : ClockOnly s s := ⟨rfl, SameRegsBut.refl _ s, fun _ _ => rfl⟩

theorem ClockOnly.trans (h : ClockOnly s t) (k : ClockOnly t u) : ClockOnly s u := by
  refine ⟨?_, fun a ha => (k.regs a ha).trans (h.regs a ha), fun i hi => (k.status i hi).trans (h.status i hi)⟩
  have hk := k.frame
  rw [h.frame] at hk
  exact hk

theorem ClockOnly.avsRequest (h : ClockOnly s t) (mv : Nat) : ClockOnly s (avsRequest t mv) := by
  refine h.trans ?_
  unfold Machine.avsRequest
  split
  · exact ClockOnly.refl t
  · exact ⟨rfl, SameRegsBut.refl _ t, fun _ _ => rfl⟩

theorem ClockOnly.raise (h : ClockOnly s t) (r : Option Nat) : ClockOnly s (setPwr t fun w => { w with raise := r }) :=
  h.trans ⟨rfl, SameRegsBut.refl _ t, fun _ _ => rfl⟩

theorem ClockOnly.step (h : ClockOnly s t) (k : Nat) : ClockOnly s (wf t R.pwrStatus 11 8 k) := by
  refine h.trans ⟨rfl, (SameRegsBut.refl _ t).wf _ _ _ (by simp), fun i hi => ?_⟩
  rw [rb, rd_wf_same, bit, getLsbD_setFld (by decide) (by decide), if_neg (by omega)]
  rfl

theorem clockStep_avsRequest (mv : Nat) : clockStep (avsRequest s mv) = clockStep s := by
  unfold avsRequest
  split <;> rfl

theorem raise_avsRequest (mv : Nat) : (avsRequest s mv).pwr.raise = s.pwr.raise := by
  unfold avsRequest
  split <;> rfl

theorem clockStep_wf {k : Nat} (hk : k < 16) : clockStep (wf s R.pwrStatus 11 8 k) = k := by
  rw [clockStep, rf, rd_wf_same]
  exact fld_setFld_same (by decide) (by decide) hk

theorem applyClock_only (s : State) : ClockOnly s (applyClock s) := by
  unfold applyClock
  dsimp only
  have hset := ((ClockOnly.refl s).raise none).step (max s.pwr.gov s.pwr.therm)
  split
  · split
    · exact hset.avsRequest _
    · exact hset
  · split
    · exact hset.avsRequest _
    · exact ((ClockOnly.refl s).raise _).avsRequest _

/-- The clock follows the lower of the two limits. -/
theorem applyClock_follows (hg : s.pwr.gov ≤ 12) (ht : s.pwr.therm ≤ 12) :
    clockFollows s (applyClock s) (max s.pwr.gov s.pwr.therm) := by
  have hw : max s.pwr.gov s.pwr.therm < 16 := by omega
  generalize hwant : max s.pwr.gov s.pwr.therm = want at hw
  have hset : clockStep (wf (setPwr s fun w => { w with raise := none }) R.pwrStatus 11 8 want) = want := clockStep_wf hw
  unfold applyClock clockFollows
  simp only [hwant]
  by_cases hle : clockStep s ≤ want
  · rw [if_pos hle]
    refine ⟨fun _ => ?_, fun h => absurd h (by omega), fun h => absurd h (by omega)⟩
    split
    · exact ⟨(clockStep_avsRequest _).trans hset, raise_avsRequest _⟩
    · exact ⟨hset, rfl⟩
  · rw [if_neg hle]
    refine ⟨fun h => absurd h hle, fun _ ha hv => ?_, fun _ hn => ?_⟩
    · rw [if_pos ⟨by rw [ha]; rfl, hv⟩]
      exact ⟨(clockStep_avsRequest _).trans hset, raise_avsRequest _⟩
    · have hno : ¬(s.pwr.avs.isNone = true ∧ voltOf want ≤ s.pwr.volt) := by
        rintro ⟨ha, hv⟩
        obtain hn | hn := hn
        · exact hn (Option.isNone_iff_eq_none.mp ha)
        · omega
      rw [if_neg hno]
      exact ⟨clockStep_avsRequest _, raise_avsRequest _⟩

/-- What the clock followed is what decides: its step, the regulator's request and the voltage. -/
theorem clockFollows_of {s' u' : State} {w : Nat} (h : clockFollows s u w) (hs : clockStep s' = clockStep s)
    (ha : s'.pwr.avs = s.pwr.avs) (hv : s'.pwr.volt = s.pwr.volt) (hu : clockStep u' = clockStep u)
    (hr : u'.pwr.raise = u.pwr.raise) : clockFollows s' u' w := by
  unfold clockFollows at h ⊢
  rw [hs, ha, hv, hu, hr]
  exact h

/-- With the clock at or above the governor's lowest step, it never lies below the step wanted. -/
theorem clockStep_applyClock_le (hg : s.pwr.gov ≤ 12) (ht : s.pwr.therm ≤ 12) (hc : clockStep s ≤ 12) : clockStep (applyClock s) ≤ 12 := by
  obtain ⟨h1, h2, h3⟩ := applyClock_follows hg ht
  by_cases hle : clockStep s ≤ max s.pwr.gov s.pwr.therm
  · have := (h1 hle).1
    omega
  · by_cases hr : s.pwr.avs = none ∧ voltOf (max s.pwr.gov s.pwr.therm) ≤ s.pwr.volt
    · have := (h2 (by omega) hr.1 hr.2).1
      omega
    · have hn : s.pwr.avs ≠ none ∨ s.pwr.volt < voltOf (max s.pwr.gov s.pwr.therm) := by
        by_cases ha : s.pwr.avs = none
        · exact .inr (not_le.mp fun hv => hr ⟨ha, hv⟩)
        · exact .inl ha
      have := (h3 (by omega) hn).1
      omega

/-! ### What a power sample's later steps leave -/

/-- The registers that a power sample's steps after its readings may change. -/
def powerRegs : List Nat := [R.pwrStatus, R.pwrEvent, R.pwrThrotUs, R.safeEvent, R.safeBbxDrop]

/-- Memory, the window, the thermal step and every register but the status and event ones stay; an event bit shown stays shown. -/
structure PowerKept (t u : State) : Prop where
  mem : u.mem = t.mem
  window : u.pwr.window = t.pwr.window
  therm : u.pwr.therm = t.pwr.therm
  regs : SameRegsBut powerRegs t u
  events : ∀ i, bit (rd t R.pwrEvent) i = true → bit (rd u R.pwrEvent) i = true

namespace PowerKept

theorem refl (s : State) : PowerKept s s := ⟨rfl, rfl, rfl, SameRegsBut.refl _ s, fun _ h => h⟩

theorem trans (h : PowerKept s t) (k : PowerKept t u) : PowerKept s u :=
  ⟨k.mem.trans h.mem, k.window.trans h.window, k.therm.trans h.therm, fun a ha => (k.regs a ha).trans (h.regs a ha),
    fun i hi => k.events i (h.events i hi)⟩

theorem excess (h : PowerKept s t) : excess t = excess s := by
  rw [Machine.excess, Machine.excess, powerCap, powerCap, h.regs _ (by decide), h.window]

theorem powerCap (h : PowerKept s t) : powerCap t = powerCap s := by
  rw [Machine.powerCap, Machine.powerCap, h.regs _ (by decide)]

end PowerKept

theorem ClockOnly.powerKept (h : ClockOnly s u) : PowerKept s u := by
  have hf := h.frame
  refine ⟨by rw [hf], by rw [hf], by rw [hf], fun a ha => h.regs a fun hm => ha ?_, fun i hi => ?_⟩
  · rw [List.mem_singleton.mp hm]
    decide
  · rw [h.regs _ (by decide)]
    exact hi

theorem pwrEvent_powerKept (s : State) (b : Nat) : PowerKept s (pwrEvent s b) := by
  refine ⟨rfl, rfl, rfl, (SameRegsBut.refl _ s).setBits _ (by simp [powerRegs]), fun i hi => ?_⟩
  rw [pwrEvent, rd_setBits_same, bit, BitVec.getLsbD_or, Bool.or_eq_true]
  exact .inl hi

theorem govern_powerKept (s : State) (k : Nat) : PowerKept s (govern s k) := by
  have h : PowerKept s (setPwr s fun w => { w with gov := min 12 (max w.gov k) }) :=
    ⟨rfl, rfl, rfl, SameRegsBut.refl _ s, fun _ h => h⟩
  exact h.trans (applyClock_only _).powerKept

theorem gov_applyClock : (applyClock s).pwr.gov = s.pwr.gov := by rw [(applyClock_only s).frame]

theorem gov_govern (k : Nat) : (govern s k).pwr.gov = min 12 (max s.pwr.gov k) := gov_applyClock

/-- A governed clock follows. -/
theorem govern_follows {k : Nat} (ht : s.pwr.therm ≤ 12) : clockFollows s (govern s k) (max (govern s k).pwr.gov s.pwr.therm) := by
  rw [gov_govern]
  exact clockFollows_of (applyClock_follows (s := setPwr s fun w => { w with gov := min 12 (max w.gov k) }) (min_le_left _ _) ht)
    rfl rfl rfl rfl rfl

/-! ### LIMIT entered and left -/

theorem clockStep_setFld_low {v i : Nat} (hi : i < 8) : clockStep (wf s R.pwrStatus i i v) = clockStep s := by
  rw [clockStep, rf, rd_wf_same, clockStep, rf]
  exact fld_congr fun j hj _ => by rw [getLsbD_setFld (by omega) le_rfl, if_neg (by omega)]

/-- A record of a limit: its event, the bit of PWR_STATUS that shows it, the record. -/
theorem powerRec_rd {c a : Nat} {l : List Byte} {p : Bool} (he : a ≠ R.safeEvent) (hd : a ≠ R.safeBbxDrop) :
    rd (powerRec s c l p) a = rd s a := rd_bbx_other he hd

theorem powerRec_powerKept (s : State) (c : Nat) (l : List Byte) (p : Bool) : PowerKept s (powerRec s c l p) := by
  refine ⟨bbx_mem .., by rw [powerRec, bbx_pwr], by rw [powerRec, bbx_pwr], ?_, fun i hi => ?_⟩
  · exact (SameRegsBut.refl _ s).bbx _ _ _ _ (by simp [powerRegs]) (by simp [powerRegs])
  · rw [powerRec_rd (by decide) (by decide)]
    exact hi

theorem clockStep_powerRec (s : State) (c : Nat) (l : List Byte) (p : Bool) : clockStep (powerRec s c l p) = clockStep s := by
  rw [clockStep, rf, powerRec_rd (by decide) (by decide)]
  rfl

theorem clockStep_pwrEvent (b : Nat) : clockStep (pwrEvent s b) = clockStep s := by
  rw [clockStep, rf, pwrEvent, rd_setBits_other _ _ (by decide)]
  rfl

/-- LIMIT as the record finds it: shown, its event raised. -/
def limitShown (s : State) (e : Bool) : State :=
  wf (setPwr (pwrEvent s 1) fun w => { w with limit := e }) R.pwrStatus 4 4 e.toNat

theorem limitShown_powerKept (s : State) (e : Bool) : PowerKept s (limitShown s e) := by
  have h : PowerKept (pwrEvent s 1) (limitShown s e) := by
    refine ⟨rfl, rfl, rfl, fun a ha => ?_, fun i hi => ?_⟩
    · rw [limitShown, rd_wf_other _ _ _ _ (ne_of_not_mem (by simp [powerRegs]) ha)]
      rfl
    · rw [limitShown, rd_wf_other _ _ _ _ (by decide)]
      exact hi
  exact (pwrEvent_powerKept s 1).trans h

theorem limitRecord_powerKept (s : State) (e : Bool) : PowerKept s (limitRecord s e) :=
  (limitShown_powerKept s e).trans (powerRec_powerKept _ _ _ _)

theorem clockStep_limitRecord (e : Bool) : clockStep (limitRecord s e) = clockStep s :=
  (clockStep_powerRec _ _ _ _).trans ((clockStep_setFld_low (i := 4) (by decide)).trans (clockStep_pwrEvent 1))

theorem limitRecord_pwr (e : Bool) : (limitRecord s e).pwr = { s.pwr with limit := e } := by
  rw [limitRecord, powerRec, bbx_pwr]
  rfl

theorem rb_limitRecord_status (e : Bool) : rb (limitRecord s e) R.pwrStatus 4 = e := by
  rw [rb, limitRecord, powerRec_rd (by decide) (by decide), rd_wf_same]
  exact bit_setFld_same e (by decide)

theorem limitRecord_event (e : Bool) : bit (rd (limitRecord s e) R.pwrEvent) 1 = true := by
  refine (powerRec_powerKept _ _ _ _).events 1 ?_
  rw [rd_wf_other _ _ _ _ (by decide)]
  show bit (rd (pwrEvent s 1) R.pwrEvent) 1 = true
  rw [pwrEvent, rd_setBits_same]
  exact bit_or_bitW _ (by decide)

/-- LIMIT is left where the clock is back and the excess is below 100 ms. -/
theorem leaveLimit_powerKept (s : State) : PowerKept s (leaveLimit s) := by
  unfold leaveLimit
  split
  · exact limitRecord_powerKept s false
  · exact PowerKept.refl s

theorem clockStep_leaveLimit : clockStep (leaveLimit s) = clockStep s := by
  unfold leaveLimit
  split
  · exact clockStep_limitRecord false
  · rfl

theorem leaveLimit_pwr : ∃ b, (leaveLimit s).pwr = { s.pwr with limit := b } := by
  unfold leaveLimit
  split
  · exact ⟨false, limitRecord_pwr false⟩
  · exact ⟨s.pwr.limit, rfl⟩

theorem limit_leaveLimit (h : s.pwr.limit = true) : (leaveLimit s).pwr.limit = !(clockStep s == 0 && decide (excess s < 1000)) := by
  unfold leaveLimit
  split
  · next hc =>
    obtain ⟨_, hz, he⟩ := hc
    rw [limitRecord_pwr, hz, decide_eq_true he]
    rfl
  · next hc =>
    rw [h]
    by_cases hz : clockStep s = 0
    · rw [hz, decide_eq_false fun he => hc ⟨h, hz, he⟩]
      rfl
    · rw [beq_false_of_ne hz]
      rfl

/-! ### A power sample -/

/-- The readings of a sample. -/
def sampleRead (s : State) (mw : Nat) : State :=
  let s1 := setPwr s fun w => { w with window := (mw :: w.window).take 20000 }
  wr (wr (wr s1 R.pwrNow (BitVec.ofNat 32 mw)) R.pwrAvg (BitVec.ofNat 32 (meanPower s1))) R.pwrExcess (BitVec.ofNat 32 (100 * excess s1))

/-- The readings with the time at a lowered clock counted. -/
def throttleCounted (s : State) (mw : Nat) : State :=
  if 0 < clockStep (sampleRead s mw) then bumpN (sampleRead s mw) R.pwrThrotUs 100 else sampleRead s mw

/-- A sample above 48 W. -/
def sampleOver (s : State) (mw : Nat) : State :=
  if 48000 < mw then govern (pwrEvent (throttleCounted s mw) 1) ((throttleCounted s mw).pwr.gov + 1) else throttleCounted s mw

/-- A sample above the cap with the excess at its bound. -/
def sampleBound (s : State) (mw : Nat) : State :=
  if 1999 ≤ excess (sampleOver s mw) ∧ powerCap (sampleOver s mw) < mw then govern (sampleOver s mw) 12 else sampleOver s mw

theorem exec_powerSample (mw : Nat) (hu : s.up = true) : exec (.powerSample mw) s = .next (leaveLimit (sampleBound s mw)) := by
  have h : exec (.powerSample mw) s = execPowerSample mw s := rfl
  rw [h, execPowerSample, fabric_up s hu]
  rfl

theorem throttleCounted_cases (mw : Nat) : PowerKept (sampleRead s mw) (throttleCounted s mw) ∧ (throttleCounted s mw).pwr = (sampleRead s mw).pwr ∧
    clockStep (throttleCounted s mw) = clockStep s := by
  have hstep : clockStep (sampleRead s mw) = clockStep s := by
    rw [clockStep, rf, sampleRead, rd_wr_other _ _ (by decide), rd_wr_other _ _ (by decide), rd_wr_other _ _ (by decide)]
    rfl
  unfold throttleCounted
  split
  · refine ⟨⟨rfl, rfl, rfl, fun a ha => rd_bumpN_other _ _ (ne_of_not_mem (by simp [powerRegs]) ha), fun i hi => ?_⟩, rfl, ?_⟩
    · rw [rd_bumpN_other _ _ (by decide)]
      exact hi
    · rw [← hstep, clockStep, rf, rd_bumpN_other _ _ (by decide)]
      rfl
  · exact ⟨PowerKept.refl _, rfl, hstep⟩

theorem sampleOver_powerKept (mw : Nat) : PowerKept (sampleRead s mw) (sampleOver s mw) := by
  refine (throttleCounted_cases mw).1.trans ?_
  unfold sampleOver
  split
  · exact (pwrEvent_powerKept _ 1).trans (govern_powerKept _ _)
  · exact PowerKept.refl _

theorem sampleBound_powerKept (mw : Nat) : PowerKept (sampleRead s mw) (sampleBound s mw) := by
  refine (sampleOver_powerKept mw).trans ?_
  unfold sampleBound
  split
  · exact govern_powerKept _ _
  · exact PowerKept.refl _

theorem sampled_powerKept (mw : Nat) : PowerKept (sampleRead s mw) (leaveLimit (sampleBound s mw)) :=
  (sampleBound_powerKept mw).trans (leaveLimit_powerKept _)

/-- The number of samples of a window above the cap. -/
def above (s : State) (w : List Nat) : Nat := (w.filter fun p => decide (powerCap s < p)).length

theorem sampleRead_measures (mw : Nat) : powerCap (sampleRead s mw) = powerCap s ∧
    excess (sampleRead s mw) = above s ((mw :: s.pwr.window).take 20000) := by
  have hcap : powerCap (sampleRead s mw) = powerCap s := by
    rw [powerCap, sampleRead, rd_wr_other _ _ (by decide), rd_wr_other _ _ (by decide), rd_wr_other _ _ (by decide)]
    rfl
  exact ⟨hcap, by rw [excess, hcap]; rfl⟩

theorem sampled_shows (mw : Nat) :
    (leaveLimit (sampleBound s mw)).pwr.window = (mw :: s.pwr.window).take 20000 ∧
    rd (leaveLimit (sampleBound s mw)) R.pwrNow = BitVec.ofNat 32 mw ∧
    rd (leaveLimit (sampleBound s mw)) R.pwrAvg =
      BitVec.ofNat 32 (((mw :: s.pwr.window).take 20000).sum / ((mw :: s.pwr.window).take 20000).length) ∧
    rd (leaveLimit (sampleBound s mw)) R.pwrExcess = BitVec.ofNat 32 (100 * above s ((mw :: s.pwr.window).take 20000)) ∧
    (leaveLimit (sampleBound s mw)).mem = s.mem ∧ (leaveLimit (sampleBound s mw)).pwr.therm = s.pwr.therm := by
  have h := sampled_powerKept (s := s) mw
  refine ⟨h.window, ?_, ?_, ?_, h.mem, h.therm⟩
  · rw [h.regs _ (by decide), sampleRead, rd_wr_other _ _ (by decide), rd_wr_other _ _ (by decide), rd_wr_same]
  · have hlen : 1 ≤ ((mw :: s.pwr.window).take 20000).length := by
      rw [List.length_take, List.length_cons]
      omega
    rw [h.regs _ (by decide), sampleRead, rd_wr_other _ _ (by decide), rd_wr_same, ← max_eq_right hlen]
    rfl
  · rw [h.regs _ (by decide), sampleRead, rd_wr_same]
    rfl

/-- The governor's test of the bound, in the sample's own measures. -/
theorem sampleBound_cond (mw : Nat) : (1999 ≤ excess (sampleOver s mw) ∧ powerCap (sampleOver s mw) < mw) ↔
    (1999 ≤ above s ((mw :: s.pwr.window).take 20000) ∧ powerCap s < mw) := by
  have h := sampleOver_powerKept (s := s) mw
  rw [h.excess, h.powerCap, (sampleRead_measures mw).1, (sampleRead_measures mw).2]

/-- A sample's last step leaves the governor's step, the clock and a raise that waits. -/
theorem leaveLimit_clock : (leaveLimit t).pwr.gov = t.pwr.gov ∧ clockStep (leaveLimit t) = clockStep t ∧
    (leaveLimit t).pwr.raise = t.pwr.raise := by
  obtain ⟨b, hb⟩ := leaveLimit_pwr (s := t)
  exact ⟨by rw [hb], clockStep_leaveLimit, by rw [hb]⟩

theorem powerSample_calm {mw : Nat} (hm : mw ≤ 48000) (h : above s ((mw :: s.pwr.window).take 20000) < 1999 ∨ mw ≤ powerCap s) :
    (leaveLimit (sampleBound s mw)).pwr.gov = s.pwr.gov ∧ clockStep (leaveLimit (sampleBound s mw)) = clockStep s := by
  have hno : ¬(1999 ≤ above s ((mw :: s.pwr.window).take 20000) ∧ powerCap s < mw) := by omega
  obtain ⟨_, hp, hc⟩ := throttleCounted_cases (s := s) mw
  obtain ⟨hg, hk, _⟩ := leaveLimit_clock (t := sampleBound s mw)
  rw [hg, hk, sampleBound, if_neg (mt (sampleBound_cond mw).mp hno), sampleOver, if_neg (by omega), hp]
  exact ⟨rfl, hc⟩

theorem powerSample_over {mw : Nat} (ht : s.pwr.therm ≤ 12) (hm : 48000 < mw)
    (h : above s ((mw :: s.pwr.window).take 20000) < 1999) :
    (leaveLimit (sampleBound s mw)).pwr.gov = min 12 (s.pwr.gov + 1) ∧
    bit (rd (leaveLimit (sampleBound s mw)) R.pwrEvent) 1 = true ∧
    clockFollows s (leaveLimit (sampleBound s mw)) (max (leaveLimit (sampleBound s mw)).pwr.gov s.pwr.therm) := by
  have hno : ¬(1999 ≤ above s ((mw :: s.pwr.window).take 20000) ∧ powerCap s < mw) := by omega
  obtain ⟨_, hp, hc⟩ := throttleCounted_cases (s := s) mw
  have hpwr : (throttleCounted s mw).pwr = { s.pwr with window := (mw :: s.pwr.window).take 20000 } := hp
  have hbound : sampleBound s mw = govern (pwrEvent (throttleCounted s mw) 1) ((throttleCounted s mw).pwr.gov + 1) := by
    rw [sampleBound, if_neg (mt (sampleBound_cond mw).mp hno), sampleOver, if_pos hm]
  obtain ⟨hg, hk, hr⟩ := leaveLimit_clock (t := sampleBound s mw)
  have hev : bit (rd (sampleBound s mw) R.pwrEvent) 1 = true := by
    rw [hbound]
    refine (govern_powerKept _ _).events 1 ?_
    rw [pwrEvent, rd_setBits_same]
    exact bit_or_bitW _ (by decide)
  have hfollow := govern_follows (s := pwrEvent (throttleCounted s mw) 1) (k := (throttleCounted s mw).pwr.gov + 1)
    (by show (throttleCounted s mw).pwr.therm ≤ 12; rw [hpwr]; exact ht)
  refine ⟨?_, (leaveLimit_powerKept _).events 1 hev, ?_⟩
  · rw [hg, hbound, gov_govern]
    show min 12 (max (throttleCounted s mw).pwr.gov ((throttleCounted s mw).pwr.gov + 1)) = _
    rw [hpwr, max_eq_right (Nat.le_succ _)]
  · rw [hg]
    rw [← hbound] at hfollow
    have htherm : (pwrEvent (throttleCounted s mw) 1).pwr.therm = s.pwr.therm := by
      show (throttleCounted s mw).pwr.therm = _
      rw [hpwr]
    rw [htherm] at hfollow
    refine clockFollows_of hfollow ?_ ?_ ?_ hk hr
    · rw [clockStep_pwrEvent, hc]
    · show s.pwr.avs = (throttleCounted s mw).pwr.avs
      rw [hpwr]
    · show s.pwr.volt = (throttleCounted s mw).pwr.volt
      rw [hpwr]

theorem sampleOver_limits {mw : Nat} (hg : s.pwr.gov ≤ 12) (ht : s.pwr.therm ≤ 12) : (sampleOver s mw).pwr.gov ≤ 12 ∧
    (clockStep s ≤ 12 → clockStep (sampleOver s mw) ≤ 12) := by
  obtain ⟨_, hp, hc⟩ := throttleCounted_cases (s := s) mw
  have hgov : (throttleCounted s mw).pwr.gov = s.pwr.gov := by rw [hp]; rfl
  have htherm : (throttleCounted s mw).pwr.therm = s.pwr.therm := by rw [hp]; rfl
  unfold sampleOver
  split
  · rw [gov_govern]
    refine ⟨min_le_left _ _, fun h => clockStep_applyClock_le (min_le_left _ _) (htherm ▸ ht) ?_⟩
    show clockStep (pwrEvent (throttleCounted s mw) 1) ≤ 12
    rw [clockStep_pwrEvent, hc]
    exact h
  · rw [hgov, hc]
    exact ⟨hg, fun h => h⟩

theorem powerSample_bound {mw : Nat} (hg : s.pwr.gov ≤ 12) (ht : s.pwr.therm ≤ 12)
    (he : 1999 ≤ above s ((mw :: s.pwr.window).take 20000)) (hm : powerCap s < mw) :
    (leaveLimit (sampleBound s mw)).pwr.gov = 12 ∧ (clockStep s ≤ 12 → clockStep (leaveLimit (sampleBound s mw)) = 12) := by
  have hover := sampleOver_limits (s := s) (mw := mw) hg ht
  have htherm : (sampleOver s mw).pwr.therm = s.pwr.therm := (sampleOver_powerKept mw).therm
  have hbound : sampleBound s mw = govern (sampleOver s mw) 12 := by
    rw [sampleBound, if_pos ((sampleBound_cond mw).mpr ⟨he, hm⟩)]
  obtain ⟨hgov, hk, _⟩ := leaveLimit_clock (t := sampleBound s mw)
  have htwelve : (govern (sampleOver s mw) 12).pwr.gov = 12 := by
    rw [gov_govern]
    omega
  rw [hgov, hk, hbound, htwelve]
  refine ⟨rfl, fun hc => ?_⟩
  have hfollow := govern_follows (s := sampleOver s mw) (k := 12) (htherm ▸ ht)
  rw [htwelve, htherm, max_eq_left ht] at hfollow
  exact (hfollow.1 (hover.2 hc)).1

end Sys2Proof.Machine
end

section
/-! SUPPORT. LIMIT's boundaries, the thermal step and sample, rails and clocks (R480, R511 to R518, R566): O54. -/

namespace Sys2Proof.Machine

variable {s t u : State}

/-! ### LIMIT opens and acts -/

/-- LIMIT opened at 190 ms of excess. -/
def limitOpened (s : State) : State := limitRecord (bump s R.pwrLimitCnt) true

theorem exec_governorLimit (hu : s.up = true) :
    exec .governorLimit s = .next (if s.pwr.limit = true ∨ excess s < 1900 then s else limitOpened s) := by
  have h : exec .governorLimit s = execGovernorLimit s := rfl
  rw [h, execGovernorLimit, fabric_up s hu]
  rfl

theorem limitOpened_shows : (limitOpened s).pwr.limit = true ∧ rb (limitOpened s) R.pwrStatus 4 = true ∧
    bit (rd (limitOpened s) R.pwrEvent) 1 = true ∧ rd (limitOpened s) R.pwrLimitCnt = incSat (rd s R.pwrLimitCnt) ∧
    (limitOpened s).pwr.gov = s.pwr.gov ∧ (limitOpened s).mem = s.mem ∧ clockStep (limitOpened s) = clockStep s := by
  have h := limitRecord_powerKept (bump s R.pwrLimitCnt) true
  have hpwr := limitRecord_pwr (s := bump s R.pwrLimitCnt) true
  refine ⟨by rw [limitOpened, hpwr], rb_limitRecord_status true, limitRecord_event true, ?_, by rw [limitOpened, hpwr]; rfl, h.mem, ?_⟩
  · rw [limitOpened, h.regs _ (by decide), rd_bump_same]
  · rw [limitOpened, clockStep_limitRecord, clockStep, rf, rd_bump_other _ (by decide)]
    rfl

/-- The count of boundaries since the last raise, as a boundary advances it. -/
def boundaryCounted (s : State) : State := setPwr s fun w => { w with sinceRaise := min 10 (s.pwr.sinceRaise + 1) }

/-- The governor's step raised by one boundary. -/
def governorEased (s : State) : State :=
  applyClock (setPwr (boundaryCounted s) fun w => { w with gov := w.gov - 1, sinceRaise := 0 })

/-- Whether a boundary eases the governor: power is 1 W below the cap, the mean too, and ten boundaries have passed. -/
def hasHeadroom (s : State) : Prop :=
  s.pwr.window.headD 0 + 1000 < powerCap s ∧ meanPower s < powerCap s ∧ 9 ≤ s.pwr.sinceRaise ∧ 0 < s.pwr.gov

theorem exec_governorTick (hu : s.up = true) (hl : s.pwr.limit = true) {t : State}
    (h1 : powerCap s < s.pwr.window.headD 0 → t = govern (boundaryCounted s) (s.pwr.gov + 1))
    (h2 : ¬powerCap s < s.pwr.window.headD 0 → hasHeadroom s → t = leaveLimit (governorEased s))
    (h3 : ¬powerCap s < s.pwr.window.headD 0 → ¬hasHeadroom s → t = leaveLimit (boundaryCounted s)) :
    exec .governorTick s = .next t := by
  have h : exec .governorTick s = execGovernorTick s := rfl
  have hten : min 10 (s.pwr.sinceRaise + 1) = 10 ↔ 9 ≤ s.pwr.sinceRaise := by omega
  rw [h, execGovernorTick, fabric_up s hu]
  simp only [hl, Bool.not_true, Bool.false_eq_true, if_false, hten]
  by_cases hc : powerCap s < s.pwr.window.headD 0
  · rw [if_pos hc, h1 hc]
    rfl
  · rw [if_neg hc]
    by_cases hr : hasHeadroom s
    · rw [if_pos (show _ ∧ _ ∧ _ ∧ _ from hr), h2 hc hr]
      rfl
    · rw [if_neg (show ¬(_ ∧ _ ∧ _ ∧ _) from hr), h3 hc hr]
      rfl

theorem governorTick_lowers (ht : s.pwr.therm ≤ 12) (hl : s.pwr.limit = true) :
    (govern (boundaryCounted s) (s.pwr.gov + 1)).pwr.gov = min 12 (s.pwr.gov + 1) ∧
    (govern (boundaryCounted s) (s.pwr.gov + 1)).pwr.limit = true ∧
    clockFollows s (govern (boundaryCounted s) (s.pwr.gov + 1)) (max (govern (boundaryCounted s) (s.pwr.gov + 1)).pwr.gov s.pwr.therm) := by
  have hgov : (govern (boundaryCounted s) (s.pwr.gov + 1)).pwr.gov = min 12 (s.pwr.gov + 1) := by
    rw [gov_govern]
    show min 12 (max s.pwr.gov (s.pwr.gov + 1)) = _
    rw [max_eq_right (Nat.le_succ _)]
  refine ⟨hgov, ?_, ?_⟩
  · rw [govern, (applyClock_only _).frame]
    exact hl
  · exact clockFollows_of (govern_follows (s := boundaryCounted s) (k := s.pwr.gov + 1) ht) rfl rfl rfl rfl rfl

theorem governorEased_pwr : (governorEased s).pwr.gov = s.pwr.gov - 1 ∧ (governorEased s).pwr.sinceRaise = 0 ∧
    (governorEased s).pwr.limit = s.pwr.limit ∧ excess (governorEased s) = excess s := by
  have h := applyClock_only (setPwr (boundaryCounted s) fun w => { w with gov := w.gov - 1, sinceRaise := 0 })
  have hf := h.frame
  exact ⟨by rw [governorEased, hf]; rfl, by rw [governorEased, hf]; rfl, by rw [governorEased, hf]; rfl, h.powerKept.excess⟩

/-- What closes LIMIT, in the measures before the boundary. -/
theorem limit_closed (hl : t.pwr.limit = true) (he : excess t = excess s) :
    (leaveLimit t).pwr.limit = !(clockStep (leaveLimit t) == 0 && decide (excess s < 1000)) := by
  rw [clockStep_leaveLimit, ← he]
  exact limit_leaveLimit hl

theorem governorTick_eases (hg : s.pwr.gov ≤ 12) (ht : s.pwr.therm ≤ 12) (hl : s.pwr.limit = true) :
    (leaveLimit (governorEased s)).pwr.gov = s.pwr.gov - 1 ∧
    (leaveLimit (governorEased s)).pwr.limit = !(clockStep (leaveLimit (governorEased s)) == 0 && decide (excess s < 1000)) ∧
    clockFollows s (leaveLimit (governorEased s)) (max (leaveLimit (governorEased s)).pwr.gov s.pwr.therm) ∧
    (leaveLimit (governorEased s)).pwr.sinceRaise = 0 := by
  obtain ⟨hgov, hsince, hlim, hexc⟩ := governorEased_pwr (s := s)
  obtain ⟨b, hb⟩ := leaveLimit_pwr (s := governorEased s)
  obtain ⟨hkg, hkc, hkr⟩ := leaveLimit_clock (t := governorEased s)
  refine ⟨hkg.trans hgov, limit_closed (hlim.trans hl) hexc, ?_, by rw [hb]; exact hsince⟩
  rw [hkg, hgov]
  have hfollow := applyClock_follows (s := setPwr (boundaryCounted s) fun w => { w with gov := w.gov - 1, sinceRaise := 0 })
    (show s.pwr.gov - 1 ≤ 12 by omega) ht
  exact clockFollows_of hfollow rfl rfl rfl hkc hkr

theorem governorTick_waits (hl : s.pwr.limit = true) : (leaveLimit (boundaryCounted s)).pwr.gov = s.pwr.gov ∧
    clockStep (leaveLimit (boundaryCounted s)) = clockStep s ∧
    (leaveLimit (boundaryCounted s)).pwr.limit = !(clockStep (leaveLimit (boundaryCounted s)) == 0 && decide (excess s < 1000)) := by
  obtain ⟨hkg, hkc, _⟩ := leaveLimit_clock (t := boundaryCounted s)
  exact ⟨hkg, hkc, limit_closed (s := s) hl rfl⟩

/-! ### The thermal step -/

/-- The clock at a thermal step. -/
def thermApplied (s : State) (k : Nat) : State := applyClock (setPwr s fun w => { w with therm := k })

theorem clockStep_throttleRecord (e : Bool) : clockStep (throttleRecord s e) = clockStep s :=
  (clockStep_powerRec _ _ _ _).trans ((clockStep_setFld_low (i := 5) (by decide)).trans (clockStep_pwrEvent 3))

theorem throttleRecord_rest (e : Bool) : (throttleRecord s e).pwr = s.pwr ∧ (throttleRecord s e).mem = s.mem ∧
    rb (throttleRecord s e) R.pwrStatus 5 = e := by
  refine ⟨by rw [throttleRecord, powerRec, bbx_pwr]; rfl, by rw [throttleRecord, powerRec, bbx_mem]; rfl, ?_⟩
  rw [rb, throttleRecord, powerRec_rd (by decide) (by decide), rd_wf_same]
  exact bit_setFld_same e (by decide)

/-- The thermal step set to `k`: the clock follows and THROTTLE shows it. -/
theorem setTherm_moved {k : Nat} (hg : s.pwr.gov ≤ 12) (hk : k ≤ 12) : (setTherm s k).pwr.therm = k ∧ (setTherm s k).pwr.gov = s.pwr.gov ∧
    clockFollows s (setTherm s k) (max s.pwr.gov k) ∧ (setTherm s k).mem = s.mem ∧
    (s.pwr.therm = 0 → 0 < k → rb (setTherm s k) R.pwrStatus 5 = true) ∧
    (0 < s.pwr.therm → k = 0 → rb (setTherm s k) R.pwrStatus 5 = false) ∧
    ((s.pwr.therm = 0 ↔ k = 0) → rb (setTherm s k) R.pwrStatus 5 = rb s R.pwrStatus 5) := by
  have honly := applyClock_only (setPwr s fun w => { w with therm := k })
  have hf := honly.frame
  have htherm : (thermApplied s k).pwr.therm = k := by rw [thermApplied, hf]; rfl
  have hgov : (thermApplied s k).pwr.gov = s.pwr.gov := by rw [thermApplied, hf]; rfl
  have hmem : (thermApplied s k).mem = s.mem := by rw [thermApplied, hf]; rfl
  have hfollow : clockFollows s (thermApplied s k) (max s.pwr.gov k) :=
    clockFollows_of (applyClock_follows (s := setPwr s fun w => { w with therm := k }) hg hk) rfl rfl rfl rfl rfl
  have hrecord (e : Bool) : (throttleRecord (thermApplied s k) e).pwr.therm = k ∧ (throttleRecord (thermApplied s k) e).pwr.gov = s.pwr.gov ∧
      clockFollows s (throttleRecord (thermApplied s k) e) (max s.pwr.gov k) ∧ (throttleRecord (thermApplied s k) e).mem = s.mem := by
    obtain ⟨hp, hm, _⟩ := throttleRecord_rest (s := thermApplied s k) e
    exact ⟨by rw [hp, htherm], by rw [hp, hgov], clockFollows_of hfollow rfl rfl rfl (clockStep_throttleRecord e) (by rw [hp]), hm.trans hmem⟩
  by_cases hup : s.pwr.therm = 0 ∧ 0 < k
  · have he : setTherm s k = throttleRecord (thermApplied s k) true := if_pos hup
    obtain ⟨h1, h2, h3, h4⟩ := hrecord true
    rw [he]
    exact ⟨h1, h2, h3, h4, fun _ _ => (throttleRecord_rest true).2.2, fun h _ => absurd h (by omega), fun h => absurd (h.mp hup.1) (by omega)⟩
  · by_cases hdown : 0 < s.pwr.therm ∧ k = 0
    · have he : setTherm s k = throttleRecord (thermApplied s k) false := (if_neg hup).trans (if_pos hdown)
      obtain ⟨h1, h2, h3, h4⟩ := hrecord false
      rw [he]
      exact ⟨h1, h2, h3, h4, fun h _ => absurd h (by omega), fun _ _ => (throttleRecord_rest false).2.2,
        fun h => absurd (h.mpr hdown.2) (by omega)⟩
    · have he : setTherm s k = thermApplied s k := (if_neg hup).trans (if_neg hdown)
      rw [he]
      exact ⟨htherm, hgov, hfollow, hmem, fun h h' => absurd ⟨h, h'⟩ hup, fun h h' => absurd ⟨h, h'⟩ hdown,
        fun _ => honly.status 5 (by decide)⟩

theorem exec_thermalStep (tenMs : Bool) (hu : s.up = true) : exec (.thermalStep tenMs) s = .next (
    if 105 * 16 ≤ sext 16 (rf s R.pwrTj 15 0) then setTherm s (min 12 (s.pwr.therm + 1))
    else if tenMs = true ∧ sext 16 (rf s R.pwrTj 15 0) < 102 * 16 ∧ 0 < s.pwr.therm then setTherm s (s.pwr.therm - 1) else s) := by
  have h : exec (.thermalStep tenMs) s = execThermalStep tenMs s := rfl
  rw [h, execThermalStep, fabric_up s hu]

/-! ### The regulator's target -/

theorem exec_avsTargetReached {mv : Nat} (hu : s.up = true) (ha : s.pwr.avs = some mv) : exec .avsTargetReached s = .next (
    match s.pwr.raise with
    | some _ => applyClock (setPwr s fun w => { w with volt := mv, avs := none })
    | none => avsRequest (setPwr s fun w => { w with volt := mv, avs := none }) (voltOf (clockStep s))) := by
  have h : exec .avsTargetReached s = execAvsTargetReached s := rfl
  rw [h, execAvsTargetReached, fabric_up s hu]
  simp only [ha]
  rfl

/-- The target reached, with what follows: the raise that waited, or the clock's own voltage. -/
theorem avsTargetReached_follows {mv : Nat} (hu : s.up = true) (hg : s.pwr.gov ≤ 12) (ht : s.pwr.therm ≤ 12) (ha : s.pwr.avs = some mv) :
    Runs .avsTargetReached s fun u => u.pwr.volt = mv ∧ u.mem = s.mem ∧
      (s.pwr.raise = none → clockStep u = clockStep s ∧
        u.pwr.avs = if voltOf (clockStep s) = mv then none else some (voltOf (clockStep s))) ∧
      (s.pwr.raise ≠ none → clockFollows { s with pwr := { s.pwr with volt := mv, avs := none } } u (max s.pwr.gov s.pwr.therm)) := by
  refine runs_next (exec_avsTargetReached hu ha) ?_
  cases hr : s.pwr.raise with
  | some w =>
    have hf := (applyClock_only (setPwr s fun w => { w with volt := mv, avs := none })).frame
    refine ⟨?_, ?_, fun h => absurd h (by simp), fun _ =>
      applyClock_follows (s := setPwr s fun w => { w with volt := mv, avs := none }) hg ht⟩
    · dsimp only
      rw [hf]
      rfl
    · dsimp only
      rw [hf]
      rfl
  | none =>
    refine ⟨?_, ?_, fun _ => ⟨clockStep_avsRequest _, ?_⟩, fun h => absurd rfl h⟩
    · dsimp only
      unfold avsRequest
      split <;> rfl
    · dsimp only
      unfold avsRequest
      split <;> rfl
    · by_cases hv : voltOf (clockStep s) = mv
      · simp [avsRequest, setPwr, hv]
      · simp [avsRequest, setPwr, hv]

/-! ### The hottest sensor -/

/-- How the scan of the sensors goes on. -/
def hotter (m : Int × Nat) (e : Nat × Int) : Int × Nat := if m.1 < e.2 then (e.2, e.1) else m

theorem hotter_keep {l : List (Nat × Int)} {m : Int × Nat} (h : ∀ e ∈ l, e.2 ≤ m.1) : l.foldl hotter m = m := by
  induction l with
  | nil => rfl
  | cons e l ih =>
    have he : ¬m.1 < e.2 := not_lt.mpr (h e List.mem_cons_self)
    rw [List.foldl_cons, hotter, if_neg he]
    exact ih fun x hx => h x (List.mem_cons_of_mem _ hx)

theorem hotter_below {l : List (Nat × Int)} {m : Int × Nat} {t : Int} (hm : m.1 < t) (h : ∀ e ∈ l, e.2 < t) : (l.foldl hotter m).1 < t := by
  induction l generalizing m with
  | nil => exact hm
  | cons e l ih =>
    refine ih ?_ fun x hx => h x (List.mem_cons_of_mem _ hx)
    unfold hotter
    split
    · exact h e List.mem_cons_self
    · exact hm

/-- The first of the highest readings is found. -/
theorem hottest_eq {l : List Int} {t : Int} {k : Nat} (hk : l[k]? = some t) (hmax : ∀ x ∈ l, x ≤ t)
    (hfirst : ∀ i x, i < k → l[i]? = some x → x < t) : hottest l = (t, k) := by
  obtain ⟨hlt, hget⟩ := List.getElem?_eq_some_iff.mp hk
  have hlen : k < ((List.range l.length).zip l).length := by simpa using hlt
  have hat : ((List.range l.length).zip l)[k] = (k, t) := by simp [hget]
  have hafter : ∀ e ∈ ((List.range l.length).zip l).drop (k + 1), e.2 ≤ t := fun e he =>
    hmax _ (List.of_mem_zip (List.mem_of_mem_drop he)).2
  have hbefore : ∀ e ∈ ((List.range l.length).zip l).take k, e.2 < t := by
    intro e he
    obtain ⟨i, hi, rfl⟩ := List.mem_take_iff_getElem.mp he
    have hik : i < k := by omega
    refine hfirst i _ hik ?_
    simp [List.getElem?_eq_getElem (show i < l.length by omega)]
  have hsplit : (List.range l.length).zip l =
      ((List.range l.length).zip l).take k ++ (k, t) :: ((List.range l.length).zip l).drop (k + 1) := by
    rw [← hat, List.getElem_cons_drop, List.take_append_drop]
  show ((List.range l.length).zip l).foldl hotter (l.headD 0, 0) = (t, k)
  rw [hsplit, List.foldl_append, List.foldl_cons]
  have hstep : hotter ((((List.range l.length).zip l).take k).foldl hotter (l.headD 0, 0)) (k, t) = (t, k) := by
    cases k with
    | zero =>
      have hhead : l.headD 0 = t := by
        cases l with
        | nil => exact absurd hlt (by simp)
        | cons x l => simpa using hget
      rw [List.take_zero, List.foldl_nil, hhead, hotter, if_neg (lt_irrefl _)]
    | succ k =>
      have hhead : l.headD 0 < t := by
        cases l with
        | nil => exact absurd hlt (by simp)
        | cons x l => exact hfirst 0 x (by omega) rfl
      rw [hotter, if_pos (hotter_below hhead hbefore)]
  rw [hstep]
  exact hotter_keep hafter

end Sys2Proof.Machine
end

section
/-! SUPPORT. Temperature samples, the thermal shutdown, rails and the clock monitor (R480, R511, R516, R518): O54. -/

namespace Sys2Proof.Machine

variable {s t u : State}

/-! ### What a temperature sample shows -/

/-- A reading in PWR_TJ. -/
def tjWord (t : Int) (k : Nat) : Word := BitVec.ofNat 32 (k % 32 * 65536 + (t % 65536).toNat)

theorem fld_tjWord_sensor (t : Int) {k : Nat} (hk : k < 16) : fld (tjWord t k) 20 16 = k := by
  simp only [fld, tjWord, BitVec.toNat_ofNat]
  omega

theorem sext_low_half {t : Int} (h1 : -32768 ≤ t) (h2 : t < 32768) (v : Nat) (hv : v % 65536 = (t % 65536).toNat) : sext 16 v = t := by
  unfold sext
  dsimp only
  split <;> omega

theorem sext_range (v : Nat) : -32768 ≤ sext 16 v ∧ sext 16 v < 32768 := by
  unfold sext
  dsimp only
  split <;> omega

theorem sext_tjWord {t : Int} (k : Nat) (h1 : -32768 ≤ t) (h2 : t < 32768) : sext 16 (fld (tjWord t k) 15 0) = t := by
  refine sext_low_half h1 h2 _ ?_
  simp only [fld, tjWord, BitVec.toNat_ofNat]
  omega

theorem sext_maxWord {t : Int} (h1 : -32768 ≤ t) (h2 : t < 32768) : sext 16 (fld (BitVec.ofNat 32 (t % 65536).toNat) 15 0) = t := by
  refine sext_low_half h1 h2 _ ?_
  simp only [fld, BitVec.toNat_ofNat]
  omega

/-- The readings shown, with the highest so far. -/
def tjShown (s : State) (a t : Int) (k : Nat) : State :=
  wr (wr (setAon s fun x => { x with temp := a }) R.pwrTj (tjWord t k)) R.pwrTjMax
    (BitVec.ofNat 32 (max (sext 16 (rf s R.pwrTjMax 15 0)) t % 65536).toNat)

/-- The readings with the alarm. -/
def tjAlarmed (s : State) (a t : Int) (k : Nat) : State :=
  if ((rd s R.pwrTalarm).toNat : Int) * 16 ≤ t then pwrEvent (tjShown s a t k) 2 else tjShown s a t k

theorem exec_thermalSample {l : List Int} {a t : Int} {k : Nat} (hu : s.up = true) (hh : hottest l = (t, k)) :
    exec (.thermalSample l a) s = .next (if 115 * 16 ≤ t then thermalShutdown (tjAlarmed s a t k) t k else tjAlarmed s a t k) := by
  have h : exec (.thermalSample l a) s = execThermalSample l a s := rfl
  rw [h, execThermalSample]
  simp only [hu, hh, Bool.not_true, Bool.false_eq_true, if_false]
  rfl

theorem tjAlarmed_frame (a t : Int) (k : Nat) : tjAlarmed s a t k =
    { s with regs := (tjAlarmed s a t k).regs, aon := { s.aon with temp := a } } := by
  unfold tjAlarmed
  split <;> rfl

theorem tjAlarmed_regs (a t : Int) (k : Nat) : SameRegsBut [R.pwrTj, R.pwrTjMax, R.pwrEvent] s (tjAlarmed s a t k) := by
  have h0 : SameRegsBut [R.pwrTj, R.pwrTjMax, R.pwrEvent] s (setAon s fun x => { x with temp := a }) := SameRegsBut.refl _ s
  have h : SameRegsBut [R.pwrTj, R.pwrTjMax, R.pwrEvent] s (tjShown s a t k) := (h0.wr _ (by simp)).wr _ (by simp)
  unfold tjAlarmed
  split
  · exact h.setBits _ (by simp)
  · exact h

theorem rd_tjAlarmed_tj (a t : Int) (k : Nat) : rd (tjAlarmed s a t k) R.pwrTj = tjWord t k := by
  have h : rd (tjShown s a t k) R.pwrTj = tjWord t k := by
    rw [tjShown, rd_wr_other _ _ (by decide), rd_wr_same]
  unfold tjAlarmed
  split
  · rw [pwrEvent, rd_setBits_other _ _ (by decide), h]
  · exact h

theorem rd_tjAlarmed_max (a t : Int) (k : Nat) : rd (tjAlarmed s a t k) R.pwrTjMax =
    BitVec.ofNat 32 (max (sext 16 (rf s R.pwrTjMax 15 0)) t % 65536).toNat := by
  have h : rd (tjShown s a t k) R.pwrTjMax = BitVec.ofNat 32 (max (sext 16 (rf s R.pwrTjMax 15 0)) t % 65536).toNat := by
    rw [tjShown, rd_wr_same]
  unfold tjAlarmed
  split
  · rw [pwrEvent, rd_setBits_other _ _ (by decide), h]
  · exact h

theorem tjAlarmed_event {a t : Int} {k : Nat} (h : ((rd s R.pwrTalarm).toNat : Int) * 16 ≤ t) :
    bit (rd (tjAlarmed s a t k) R.pwrEvent) 2 = true := by
  rw [tjAlarmed, if_pos h, pwrEvent, rd_setBits_same]
  exact bit_or_bitW _ (by decide)

/-! ### The thermal shutdown -/

/-- A stop of the map store writes its own status and event registers only. -/
theorem mstStop_regs (s : State) : SameRegsBut [R.mstEvent, R.mstStatus] s (mstStop s) := by
  have h : SameRegsBut [R.mstEvent, R.mstStatus] s (setBits (mstEvent s 5) R.mstStatus 8) :=
    ((SameRegsBut.refl _ s).setBits _ (by simp)).setBits _ (by simp)
  unfold mstStop
  dsimp only
  split
  · next w _ =>
    split
    · exact h
    · obtain ⟨f, i, p, m, e⟩ := finish_frame (setBits (mstEvent s 5) R.mstStatus 8) w.job.owner 0x28 []
      have hf : SameRegsBut [R.mstEvent, R.mstStatus] s (finish (setBits (mstEvent s 5) R.mstStatus 8) w.job.owner 0x28 []) := by
        rw [e]
        exact h
      have hset : SameRegsBut [R.mstEvent, R.mstStatus] s (setMst (finish (setBits (mstEvent s 5) R.mstStatus 8) w.job.owner 0x28 [])
        fun m => { m with write := m.write.map orphanJob }) := hf
      exact hset.wf _ _ _ (by simp)
  · exact h

/-- HOLD entered by a thermal shutdown, from a state `t` whose alert is on; `p` is the power state before. -/
def hotHeld (t : State) (p : PState) : State :=
  setAon (setPwr (enterHold t) fun w => { w with pstate := .hold, target := none })
    fun a => { a with shutdown := true, lastChange := pstateCode p + 256 * pstateCode .hold }

theorem hotHeld_frame (t : State) (p : PState) : (hotHeld t p).up = false ∧ (hotHeld t p).aon.boot = .hold ∧
    (hotHeld t p).aon.shutdown = true ∧ (hotHeld t p).pwr.pstate = .hold ∧ (hotHeld t p).aon.alerts = t.aon.alerts ∧
    (hotHeld t p).mem = t.mem ∧ (hotHeld t p).aon.temp = t.aon.temp ∧ (hotHeld t p).bbxQueue = t.bbxQueue ∧
    (hotHeld t p).regs = t.regs := ⟨rfl, rfl, rfl, rfl, rfl, rfl, rfl, rfl, rfl⟩

/-- The alert with the map store stopped leaves memory, the temperature and the AOM's queue. -/
theorem alertedStop_frame (w : State) : 1 ∈ (alertOn (mstStop w) 1).aon.alerts ∧ (alertOn (mstStop w) 1).mem = w.mem ∧
    (alertOn (mstStop w) 1).aon.temp = w.aon.temp ∧ (alertOn (mstStop w) 1).bbxQueue = w.bbxQueue ∧
    (alertOn (mstStop w) 1).regs = (mstStop w).regs := by
  obtain ⟨r, f, h, p, m, x, hs⟩ := mstStop_frame w
  obtain ⟨l, hl⟩ := alertOn_frame (mstStop w) 1
  have hmem : (mstStop w).mem = w.mem := by rw [hs]
  have htemp : (mstStop w).aon.temp = w.aon.temp := by rw [hs]
  have hqueue : (mstStop w).bbxQueue = w.bbxQueue := by rw [hs]
  refine ⟨alertOn_mem _ _, ?_, ?_, ?_, by rw [hl]⟩
  · rw [hl]
    exact hmem
  · rw [hl]
    exact htemp
  · rw [hl]
    exact hqueue

/-- The record of a thermal shutdown. -/
def shutdownRecorded (s : State) (tj : Int) (k : Nat) : State :=
  powerRec s 0x0404 (leBytes 2 0 ++ leBytesI 2 tj ++ leBytes 1 k) false

theorem thermalShutdown_eq (s : State) (tj : Int) (k : Nat) :
    thermalShutdown s tj k = hotHeld (alertOn (mstStop (shutdownRecorded s tj k)) 1) s.pwr.pstate := rfl

theorem shutdownRecorded_joins (tj : Int) (k : Nat) (h : s.bbxQueue.length < 64) :
    ∃ r ∈ (shutdownRecorded s tj k).bbxQueue, r.code = 0x0404 := by
  obtain ⟨r, he, hc⟩ := bbx_joins (s := s) (c := 0x0404) (u := unitOf R.pwrReq) (b := leBytes 2 0 ++ leBytesI 2 tj ++ leBytes 1 k) (p := false) h
  refine ⟨r, ?_, hc⟩
  rw [shutdownRecorded, powerRec, he]
  exact List.mem_append_right _ (List.mem_singleton.mpr rfl)

/-- What a thermal shutdown leaves and does: the core off in HOLD, its record queued first. -/
theorem thermalShutdown_holds (s : State) (tj : Int) (k : Nat) :
    (thermalShutdown s tj k).up = false ∧ (thermalShutdown s tj k).aon.boot = .hold ∧ (thermalShutdown s tj k).aon.shutdown = true ∧
    (thermalShutdown s tj k).pwr.pstate = .hold ∧ 1 ∈ (thermalShutdown s tj k).aon.alerts ∧ (thermalShutdown s tj k).mem = s.mem ∧
    (thermalShutdown s tj k).aon.temp = s.aon.temp ∧
    (s.bbxQueue.length < 64 → ∃ r ∈ (thermalShutdown s tj k).bbxQueue, r.code = 0x0404) ∧
    SameRegsBut [R.mstEvent, R.mstStatus, R.safeEvent, R.safeBbxDrop] s (thermalShutdown s tj k) := by
  have hmem : (shutdownRecorded s tj k).mem = s.mem := bbx_mem ..
  have haon : (shutdownRecorded s tj k).aon = s.aon := bbx_aon ..
  have hjoin := shutdownRecorded_joins (s := s) tj k
  have hregs : SameRegsBut [R.mstEvent, R.mstStatus, R.safeEvent, R.safeBbxDrop] s (shutdownRecorded s tj k) :=
    (SameRegsBut.refl _ s).bbx _ _ _ _ (by simp) (by simp)
  rw [thermalShutdown_eq]
  generalize shutdownRecorded s tj k = w at hmem haon hjoin hregs
  have hstop : SameRegsBut [R.mstEvent, R.mstStatus, R.safeEvent, R.safeBbxDrop] s (mstStop w) :=
    hregs.step fun b hb => mstStop_regs w b fun hm => hb (by simp only [List.mem_cons, List.not_mem_nil, or_false] at hm ⊢; tauto)
  obtain ⟨hin, hm, ht, hq, hr⟩ := alertedStop_frame w
  generalize alertOn (mstStop w) 1 = v at hin hm ht hq hr
  obtain ⟨h1, h2, h3, h4, h5, h6, h7, h8, h9⟩ := hotHeld_frame v s.pwr.pstate
  refine ⟨h1, h2, h3, h4, h5 ▸ hin, h6.trans (hm.trans hmem), h7.trans (ht.trans (congrArg Aon.temp haon)), fun h => ?_, fun a ha => ?_⟩
  · rw [h8, hq]
    exact hjoin h
  · rw [← hstop a ha, rd, h9, hr]
    rfl

/-! ### The clock monitor in HOLD -/

/-- DT lost in HOLD. -/
def clockLostInHold (s : State) : State :=
  setAon (wr { powerRec s 0x0406 (leBytes 1 0) false with dt := Dt.reset } R.dtFreq 0) fun a => { a with clockLost := true }

theorem clockLostInHold_shows (hb : s.aon.boot = .hold) : (clockLostInHold s).aon.clockLost = true ∧ (clockLostInHold s).dt = Dt.reset ∧
    (clockLostInHold s).mem = s.mem ∧ (clockLostInHold s).aon.boot = .hold ∧
    SameRegsBut [R.dtFreq, R.safeEvent, R.safeBbxDrop] s (clockLostInHold s) := by
  refine ⟨rfl, rfl, ?_, ?_, ?_⟩
  · simp [clockLostInHold, setAon, powerRec]
  · simp [clockLostInHold, setAon, powerRec, hb]
  · have h : SameRegsBut [R.dtFreq, R.safeEvent, R.safeBbxDrop] s ({ powerRec s 0x0406 (leBytes 1 0) false with dt := Dt.reset } : State) :=
      (SameRegsBut.refl _ s).bbx _ _ _ _ (by simp) (by simp)
    exact SameRegsBut.wr (a := R.dtFreq) h 0 (by simp)

/-! ### The statement, part by part -/

theorem powerSample_runs (mw : Nat) (hu : s.up = true) (hg : s.pwr.gov ≤ 12) (ht : s.pwr.therm ≤ 12) :
    Runs (.powerSample mw) s fun u => u.pwr.window = (mw :: s.pwr.window).take 20000 ∧ rd u R.pwrNow = BitVec.ofNat 32 mw ∧
      rd u R.pwrAvg = BitVec.ofNat 32 (((mw :: s.pwr.window).take 20000).sum / ((mw :: s.pwr.window).take 20000).length) ∧
      rd u R.pwrExcess = BitVec.ofNat 32 (100 * above s ((mw :: s.pwr.window).take 20000)) ∧ u.mem = s.mem ∧
      u.pwr.therm = s.pwr.therm ∧
      (mw ≤ 48000 → above s ((mw :: s.pwr.window).take 20000) < 1999 ∨ mw ≤ powerCap s →
        u.pwr.gov = s.pwr.gov ∧ clockStep u = clockStep s) ∧
      (48000 < mw → above s ((mw :: s.pwr.window).take 20000) < 1999 → u.pwr.gov = min 12 (s.pwr.gov + 1) ∧
        bit (rd u R.pwrEvent) 1 = true ∧ clockFollows s u (max u.pwr.gov s.pwr.therm)) ∧
      (1999 ≤ above s ((mw :: s.pwr.window).take 20000) → powerCap s < mw → u.pwr.gov = 12 ∧ (clockStep s ≤ 12 → clockStep u = 12)) := by
  obtain ⟨h1, h2, h3, h4, h5, h6⟩ := sampled_shows (s := s) mw
  exact runs_next (exec_powerSample mw hu) ⟨h1, h2, h3, h4, h5, h6, powerSample_calm, powerSample_over ht, powerSample_bound hg ht⟩

theorem thermalSample_runs {l : List Int} {a t : Int} {k : Nat} (hu : s.up = true) (hh : hottest l = (t, k)) (hk : k < 16) :
    Runs (.thermalSample l a) s fun u => u.aon.temp = a ∧ rf u R.pwrTj 20 16 = k ∧
      (-32768 ≤ t → t < 32768 → sext 16 (rf u R.pwrTj 15 0) = t ∧
        sext 16 (rf u R.pwrTjMax 15 0) = max (sext 16 (rf s R.pwrTjMax 15 0)) t) ∧ u.mem = s.mem ∧
      (((rd s R.pwrTalarm).toNat : Int) * 16 ≤ t → bit (rd u R.pwrEvent) 2 = true) ∧
      (t < 115 * 16 → u.up = true ∧ u.pwr = s.pwr ∧ u.aon.boot = s.aon.boot ∧ SameRegsBut [R.pwrTj, R.pwrTjMax, R.pwrEvent] s u) ∧
      (115 * 16 ≤ t → u.up = false ∧ u.aon.boot = .hold ∧ u.aon.shutdown = true ∧ u.pwr.pstate = .hold ∧ 1 ∈ u.aon.alerts ∧
        (s.bbxQueue.length < 64 → ∃ r ∈ u.bbxQueue, r.code = 0x0404)) := by
  have hframe := tjAlarmed_frame (s := s) a t k
  have htj := rd_tjAlarmed_tj (s := s) a t k
  have hmax := rd_tjAlarmed_max (s := s) a t k
  have htop (h1 : -32768 ≤ t) (h2 : t < 32768) : sext 16 (fld (BitVec.ofNat 32 (max (sext 16 (rf s R.pwrTjMax 15 0)) t % 65536).toNat) 15 0) =
      max (sext 16 (rf s R.pwrTjMax 15 0)) t := by
    obtain ⟨h3, h4⟩ := sext_range (rf s R.pwrTjMax 15 0)
    exact sext_maxWord (by omega) (by omega)
  refine runs_next (exec_thermalSample hu hh) ?_
  by_cases hot : 115 * 16 ≤ t
  · rw [if_pos hot]
    obtain ⟨hup, hboot, hshut, hstate, halert, hmem, htemp, hq, hregs⟩ := thermalShutdown_holds (tjAlarmed s a t k) t k
    refine ⟨?_, ?_, fun h1 h2 => ⟨?_, ?_⟩, ?_, fun h => ?_, fun h => absurd h (by omega), fun _ => ⟨hup, hboot, hshut, hstate, halert, fun h => ?_⟩⟩
    · rw [htemp, hframe]
    · rw [rf, hregs _ (by decide), htj]
      exact fld_tjWord_sensor t hk
    · rw [rf, hregs _ (by decide), htj]
      exact sext_tjWord k h1 h2
    · rw [rf, hregs _ (by decide), hmax]
      exact htop h1 h2
    · rw [hmem, hframe]
    · rw [hregs _ (by decide)]
      exact tjAlarmed_event h
    · exact hq (by rw [hframe]; exact h)
  · rw [if_neg hot]
    refine ⟨by rw [hframe], ?_, fun h1 h2 => ⟨?_, ?_⟩, by rw [hframe], fun h => tjAlarmed_event h,
      fun _ => ⟨by rw [hframe]; exact hu, by rw [hframe], by rw [hframe], tjAlarmed_regs a t k⟩, fun h => absurd h hot⟩
    · rw [rf, htj]
      exact fld_tjWord_sensor t hk
    · rw [rf, htj]
      exact sext_tjWord k h1 h2
    · rw [rf, hmax]
      exact htop h1 h2

theorem thermalStep_runs (tenMs : Bool) (hu : s.up = true) (hg : s.pwr.gov ≤ 12) (ht : s.pwr.therm ≤ 12) :
    let tj := sext 16 (rf s R.pwrTj 15 0)
    let moved := fun (k : Nat) => Runs (.thermalStep tenMs) s fun u => u.pwr.therm = k ∧ u.pwr.gov = s.pwr.gov ∧
      clockFollows s u (max s.pwr.gov k) ∧ u.mem = s.mem ∧ (s.pwr.therm = 0 → 0 < k → rb u R.pwrStatus 5 = true) ∧
      (0 < s.pwr.therm → k = 0 → rb u R.pwrStatus 5 = false) ∧ ((s.pwr.therm = 0 ↔ k = 0) → rb u R.pwrStatus 5 = rb s R.pwrStatus 5)
    (105 * 16 ≤ tj → moved (min 12 (s.pwr.therm + 1))) ∧ (tenMs = true → tj < 102 * 16 → 0 < s.pwr.therm → moved (s.pwr.therm - 1)) ∧
    (tj < 105 * 16 → tenMs = false ∨ 102 * 16 ≤ tj ∨ s.pwr.therm = 0 → Runs (.thermalStep tenMs) s fun u => u = s) := by
  intro tj moved
  refine ⟨fun h => ?_, fun hten hcool hpos => ?_, fun h hno => ?_⟩
  · refine runs_next (exec_thermalStep tenMs hu) ?_
    rw [if_pos h]
    exact setTherm_moved hg (min_le_left _ _)
  · refine runs_next (exec_thermalStep tenMs hu) ?_
    rw [if_neg (show ¬105 * 16 ≤ sext 16 (rf s R.pwrTj 15 0) by omega), if_pos ⟨hten, hcool, hpos⟩]
    exact setTherm_moved hg (by omega)
  · refine runs_next (exec_thermalStep tenMs hu) ?_
    have hnot : ¬(tenMs = true ∧ sext 16 (rf s R.pwrTj 15 0) < 102 * 16 ∧ 0 < s.pwr.therm) := by
      rintro ⟨hten, hcool, hpos⟩
      obtain hno | hno | hno := hno
      · rw [hten] at hno
        exact absurd hno (by decide)
      · exact absurd hcool (not_lt.mpr hno)
      · omega
    rw [if_neg (not_le.mpr h), if_neg hnot]

theorem governorTick_runs (hu : s.up = true) (hg : s.pwr.gov ≤ 12) (ht : s.pwr.therm ≤ 12) (hl : s.pwr.limit = true) :
    let closed := fun (u : State) => u.pwr.limit = !(clockStep u == 0 && decide (excess s < 1000))
    (powerCap s < s.pwr.window.headD 0 → Runs .governorTick s fun u => u.pwr.gov = min 12 (s.pwr.gov + 1) ∧ u.pwr.limit = true ∧
      clockFollows s u (max u.pwr.gov s.pwr.therm)) ∧
    (hasHeadroom s → Runs .governorTick s fun u => u.pwr.gov = s.pwr.gov - 1 ∧ closed u ∧
      clockFollows s u (max u.pwr.gov s.pwr.therm) ∧ u.pwr.sinceRaise = 0) ∧
    (s.pwr.window.headD 0 ≤ powerCap s → ¬hasHeadroom s → Runs .governorTick s fun u => u.pwr.gov = s.pwr.gov ∧
      clockStep u = clockStep s ∧ closed u) := by
  intro closed
  refine ⟨fun h => ?_, fun h => ?_, fun h hno => ?_⟩
  · exact runs_next (exec_governorTick hu hl (fun _ => rfl) (fun hn => absurd h hn) (fun hn => absurd h hn)) (governorTick_lowers ht hl)
  · have hn : ¬powerCap s < s.pwr.window.headD 0 := by
      have := h.1
      omega
    exact runs_next (exec_governorTick hu hl (fun h' => absurd h' hn) (fun _ _ => rfl) (fun _ h' => absurd h h')) (governorTick_eases hg ht hl)
  · exact runs_next (exec_governorTick hu hl (fun h' => absurd h' (not_lt.mpr h)) (fun _ h' => absurd h' hno) (fun _ _ => rfl))
      (governorTick_waits hl)

/-- Settles O54: the governor and the thermal step each set their limit, and the clock follows the lower of the two. -/
theorem powerAndHeatAreLimited : Obligations.PowerAndHeatAreLimited := by
  intro s
  refine ⟨fun hu hg ht => ⟨fun mw => powerSample_runs mw hu hg ht, ?_, ?_, ?_, governorTick_runs hu hg ht, fun tenMs => thermalStep_runs tenMs hu hg ht,
    ?_, fun mv ha => avsTargetReached_follows hu hg ht ha⟩, ?_, ?_, ?_, ?_, ?_, ?_⟩
  · exact fun h => runs_next (exec_governorLimit hu) (if_pos h)
  · intro hl he
    refine runs_next (exec_governorLimit hu) ?_
    have hno : ¬(s.pwr.limit = true ∨ excess s < 1900) := by
      rintro (h | h)
      · rw [hl] at h
        exact absurd h (by decide)
      · omega
    rw [if_neg hno]
    exact limitOpened_shows
  · intro hl
    exact runs_fabric hu (f := fun s => if !s.pwr.limit then s else _) rfl (if_pos (by rw [hl]; rfl))
  · intro ha
    have h : exec .avsTargetReached s = execAvsTargetReached s := rfl
    refine runs_next (t := s) ?_ rfl
    rw [h, execAvsTargetReached, fabric_up s hu]
    simp only [ha]
  · intro l a hd
    have h : exec (.thermalSample l a) s = execThermalSample l a s := rfl
    refine runs_next (t := setAon s fun x => { x with temp := a }) ?_ rfl
    rw [h, execThermalSample]
    simp only [setAon, hd, Bool.not_false, if_true]
  · intro l a t k hu hat hmax hfirst hk
    exact thermalSample_runs hu (hottest_eq hat hmax hfirst) hk
  · intro hon hsafe
    have h : exec .railFault s = execRailFault s := rfl
    refine runs_next (t := safeState s 15 (unitOf R.pwrReq) 0) ?_ (safeState_wentSafe s _ 0 (by decide))
    rw [h, execRailFault, hon, hsafe]
    rfl
  · intro hoff
    have h : exec .railFault s = execRailFault s := rfl
    refine runs_next (t := s) ?_ rfl
    rw [h, execRailFault]
    obtain hoff | hoff := hoff <;> simp [hoff]
  · intro hd hb
    have h : exec .clockFault s = execClockFault s := rfl
    refine runs_next (t := clockLostInHold s) ?_ (clockLostInHold_shows hb)
    rw [h, execClockFault, hd, if_neg (by decide), if_pos hb]
    rfl
  · intro hd hb
    have h : exec .clockFault s = execClockFault s := rfl
    refine runs_next (t := s) ?_ rfl
    rw [h, execClockFault, hd, if_neg (by decide), if_neg hb]

end Sys2Proof.Machine
end

section
/-! SUPPORT. Requests of the Acser port: what a frame that is not run leaves, what an answered one stores, and the commands that only
read (R534 to R540): O56. -/

namespace Sys2Proof.Machine

variable {s u : State}

/-! ### Little-endian fields of a record -/

/-- A field behind `a` and before `b`. -/
theorem rec8_field (a b : List Byte) (n v : Nat) : rec8 (a ++ (leBytes n v ++ b)) a.length n = v % 256 ^ n := by
  have hlen : n = (leBytes n v).length := (leBytes_length n v).symm
  rw [rec8, slice, List.drop_left' rfl]
  conv_lhs =>
    rw [hlen]
    rw [leBytes_length]
  rw [List.take_left' (leBytes_length n v), leVal_leBytes]

theorem slice_middle {α : Type} (a b c : List α) : slice (a ++ (b ++ c)) a.length b.length = b := by
  rw [slice, List.drop_left' rfl, List.take_left' rfl]

theorem word_field (w : Word) : w.toNat % 256 ^ 4 = w.toNat := Nat.mod_eq_of_lt (lt_of_lt_of_le w.isLt (by decide))

/-! ### How a request ends -/

/-- The answer of a request, stored and shown. -/
def portAnswered (cmd : Nat) (seq : Byte) (a : Answer) : State :=
  setSec a.next fun c => { c with
    lastRun := true, lastCmd := cmd, lastSeq := seq.toNat
    resp := acserFrame cmd seq a.status a.data, lastResp := acserFrame cmd seq a.status a.data }

theorem portAnswered_responded (cmd : Nat) (seq : Byte) (a : Answer) : responded (portAnswered cmd seq a) cmd seq a.status a.data :=
  ⟨rfl, rfl, rfl, rfl, rfl⟩

/-- An answer that leaves the state changes the response alone. -/
theorem portAnswered_onlyResponse (cmd : Nat) (seq : Byte) (s : State) (st : Nat) (d : List Byte) :
    onlyResponse s (portAnswered cmd seq ⟨st, d, s⟩) := rfl

theorem portAnswered_plain (cmd : Nat) (seq : Byte) (s : State) (st : Nat) :
    responded (portAnswered cmd seq (answer s st)) cmd seq st [] ∧ onlyResponse s (portAnswered cmd seq (answer s st)) :=
  ⟨portAnswered_responded .., portAnswered_onlyResponse ..⟩

section
variable {cmd : Nat} {auth core ok : Bool} {seq : Byte} {p : List Byte} {run : State → Answer}

theorem acser_down (h : portUp s = false) : acser cmd auth core seq p ok run s = .next s := by simp [acser, h]

theorem acser_bad (h : portUp s = true) (hbad : ok = false ∨ 256 < p.length) :
    acser cmd auth core seq p ok run s = .next { s with sec := { s.sec with resp := acserFrame cmd seq 1 [] } } := by
  have hc : (!ok || decide (256 < p.length)) = true := by
    obtain rfl | hl := hbad
    · rfl
    · simp [hl]
  simp only [acser, h, hc, Bool.not_true, Bool.false_eq_true, if_false, if_true]
  rfl

/-- What a request of a good frame does. -/
theorem acser_good (h : portUp s = true) (hl : p.length ≤ 256) : acser cmd auth core seq p true run s = .next (
    if s.sec.lastRun && s.sec.lastCmd == cmd && s.sec.lastSeq == seq.toNat then setSec s fun c => { c with resp := c.lastResp }
    else portAnswered cmd seq (if auth && secure s && !s.sec.session then answer s 3
      else if core && !(s.up && rb s R.glbStatus 0) then answer s 4 else run s)) := by
  have hc : decide (256 < p.length) = false := decide_eq_false (not_lt.mpr hl)
  simp only [acser, h, hc, Bool.not_true, Bool.or_self, Bool.false_eq_true, if_false]
  rfl

theorem repeated_iff : (s.sec.lastRun && s.sec.lastCmd == cmd && s.sec.lastSeq == seq.toNat) = true ↔
    s.sec.lastRun = true ∧ s.sec.lastCmd = cmd ∧ s.sec.lastSeq = seq.toNat := by
  rw [Bool.and_eq_true, Bool.and_eq_true, beq_iff_eq, beq_iff_eq, and_assoc]

theorem acser_repeated (h : portUp s = true) (hl : p.length ≤ 256)
    (hs : s.sec.lastRun = true ∧ s.sec.lastCmd = cmd ∧ s.sec.lastSeq = seq.toNat) :
    acser cmd auth core seq p true run s = .next { s with sec := { s.sec with resp := s.sec.lastResp } } := by
  rw [acser_good h hl, if_pos (repeated_iff.mpr hs)]
  rfl

/-- A request that is no repetition is answered. -/
theorem acser_new (h : portUp s = true) (hl : p.length ≤ 256)
    (hs : ¬(s.sec.lastRun = true ∧ s.sec.lastCmd = cmd ∧ s.sec.lastSeq = seq.toNat)) :
    acser cmd auth core seq p true run s = .next (portAnswered cmd seq (if auth && secure s && !s.sec.session then answer s 3
      else if core && !(s.up && rb s R.glbStatus 0) then answer s 4 else run s)) := by
  rw [acser_good h hl, if_neg (mt repeated_iff.mp hs)]

theorem acser_denied (h : portUp s = true) (hl : p.length ≤ 256)
    (hs : ¬(s.sec.lastRun = true ∧ s.sec.lastCmd = cmd ∧ s.sec.lastSeq = seq.toNat)) (ha : auth = true) (hsec : secure s = true)
    (hno : s.sec.session = false) : acser cmd auth core seq p true run s = .next (portAnswered cmd seq (answer s 3)) := by
  rw [acser_new h hl hs, if_pos (by simp [ha, hsec, hno])]

theorem open_of_portRuns (h : portRuns s cmd seq p auth) : ¬(auth && secure s && !s.sec.session) = true := by
  obtain ⟨_, _, _, hsession⟩ := h
  rw [Bool.and_eq_true, Bool.and_eq_true, Bool.not_eq_true']
  rintro ⟨⟨ha, hsec⟩, hno⟩
  rw [hsession ha hsec] at hno
  exact absurd hno (by decide)

theorem acser_coreOff (h : portRuns s cmd seq p auth) (hc : core = true) (hoff : s.up = false ∨ rb s R.glbStatus 0 = false) :
    acser cmd auth core seq p true run s = .next (portAnswered cmd seq (answer s 4)) := by
  have hopen := open_of_portRuns h
  obtain ⟨hport, hlen, hnew, _⟩ := h
  have hcore : (core && !(s.up && rb s R.glbStatus 0)) = true := by
    obtain hoff | hoff := hoff <;> simp [hc, hoff]
  rw [acser_new hport hlen hnew, if_neg hopen, if_pos hcore]

/-- A command that does not need the core does its work. -/
theorem acser_works (h : portRuns s cmd seq p auth) : acser cmd auth false seq p true run s = .next (portAnswered cmd seq (run s)) := by
  have hopen := open_of_portRuns h
  obtain ⟨hport, hlen, hnew, _⟩ := h
  rw [acser_new hport hlen hnew, if_neg hopen]
  rfl

end

/-- Every Acser command is a request of its code. -/
theorem acserForms_exec : ∀ f ∈ acserForms, ∀ (seq : Byte) (p : List Byte), ∃ run : State → Answer, ∀ (ok : Bool) (s : State),
    exec (f.1 seq p ok) s = acser f.2.1 (f.2.2.1 p) f.2.2.2 seq p ok run s := by
  intro f hf seq p
  simp only [acserForms, List.mem_cons, List.not_mem_nil, or_false] at hf
  obtain rfl | rfl | rfl | rfl | rfl | rfl | rfl | rfl | rfl | rfl | rfl | rfl | rfl := hf
  all_goals exact ⟨_, fun _ _ => rfl⟩

/-! ### HEALTH and TIME -/

theorem length_healthRun (s : State) : (healthRun s).data.length = 32 := by
  simp only [healthRun, List.length_append, leBytes_length]

theorem healthRun_fields (s : State) : rec8 (healthRun s).data 0 1 = pstateCode s.pwr.pstate ∧
    rec8 (healthRun s).data 1 4 = (rd s R.glbStatus).toNat ∧ rec8 (healthRun s).data 5 4 = (rd s R.safeStatus).toNat ∧
    rec8 (healthRun s).data 9 4 = (rd s R.safeLastFault).toNat ∧ rec8 (healthRun s).data 13 4 = s.bbx.seq.toNat ∧
    rec8 (healthRun s).data 19 4 = (rd s R.pwrTj).toNat ∧ rec8 (healthRun s).data 23 4 = s.bbx.boot.toNat := by
  have hcode : pstateCode s.pwr.pstate % 256 ^ 1 = pstateCode s.pwr.pstate := by
    cases s.pwr.pstate <;> rfl
  refine ⟨?_, ?_, ?_, ?_, ?_, ?_, ?_⟩ <;> simp only [healthRun, List.append_assoc]
  · exact (rec8_field [] _ 1 _).trans hcode
  all_goals refine Eq.trans ?_ (word_field _)
  · exact rec8_field (leBytes 1 _) _ 4 _
  · rw [← List.append_assoc]
    exact rec8_field (leBytes 1 _ ++ leBytes 4 _) _ 4 _
  · rw [← List.append_assoc, ← List.append_assoc]
    exact rec8_field (leBytes 1 _ ++ leBytes 4 _ ++ leBytes 4 _) _ 4 _
  · rw [← List.append_assoc, ← List.append_assoc, ← List.append_assoc]
    exact rec8_field (leBytes 1 _ ++ leBytes 4 _ ++ leBytes 4 _ ++ leBytes 4 _) _ 4 _
  · rw [← List.append_assoc, ← List.append_assoc, ← List.append_assoc, ← List.append_assoc, ← List.append_assoc]
    exact rec8_field (leBytes 1 _ ++ leBytes 4 _ ++ leBytes 4 _ ++ leBytes 4 _ ++ leBytes 4 _ ++ leBytes 2 _) _ 4 _
  · rw [← List.append_assoc, ← List.append_assoc, ← List.append_assoc, ← List.append_assoc, ← List.append_assoc, ← List.append_assoc]
    exact rec8_field (leBytes 1 _ ++ leBytes 4 _ ++ leBytes 4 _ ++ leBytes 4 _ ++ leBytes 4 _ ++ leBytes 2 _ ++ leBytes 4 _) _ 4 _

/-- What TIME answers. -/
def timeData (s : State) : List Byte := leBytes 8 s.dt.now.toNat ++ leBytes 4 (if s.up then (dtStatus s).toNat else 0)

theorem timeData_fields (s : State) : (timeData s).take 8 = leBytes 8 s.dt.now.toNat ∧ (timeData s).length = 12 ∧
    (s.up = false → rec8 (timeData s) 8 4 = 0) := by
  refine ⟨List.take_left' (leBytes_length ..), by simp only [timeData, List.length_append, leBytes_length], fun hd => ?_⟩
  have h := rec8_field (leBytes 8 s.dt.now.toNat) [] 4 (if s.up then (dtStatus s).toNat else 0)
  rw [List.append_nil, leBytes_length, hd] at h
  rw [timeData, hd]
  exact h

/-! ### CHALLENGE and ATTEST -/

theorem length_freeBytes (n : Nat) (s : State) : (freeBytes n s).1.length = n := by
  induction n generalizing s with
  | zero => rfl
  | succ n ih => exact congrArg Nat.succ (ih _)

/-- The nonce of a challenge taken. -/
def challenged (s : State) : Answer :=
  ⟨0, (freeBytes 48 s).1, setSec (freeBytes 48 s).2 fun c => { c with challenge := some (freeBytes 48 s).1 }⟩

theorem challenged_shows (seq : Byte) (s : State) : ∃ n, responded (portAnswered 0x09 seq (challenged s)) 0x09 seq 0 n ∧ n.length = 48 ∧
    (portAnswered 0x09 seq (challenged s)).sec.challenge = some n ∧ (portAnswered 0x09 seq (challenged s)).regs = s.regs ∧
    (portAnswered 0x09 seq (challenged s)).mem = s.mem := by
  obtain ⟨k, hk⟩ := freeBytes_frame 48 s
  refine ⟨(freeBytes 48 s).1, portAnswered_responded 0x09 seq (challenged s), length_freeBytes 48 s, rfl, ?_, ?_⟩
  · show (freeBytes 48 s).2.regs = s.regs
    rw [hk]
  · show (freeBytes 48 s).2.mem = s.mem
    rw [hk]

/-- A quote made for a nonce. -/
def quoted (s : State) (nonce : List Byte) : Answer :=
  ⟨0, (quoteBody s nonce ++ (freeBytes 96 s).1).take 128,
    setSec (freeBytes 96 s).2 fun c => { c with quote := quoteBody s nonce ++ (freeBytes 96 s).1 }⟩

theorem padTo_self {n : Nat} {l : List Byte} (h : l.length = n) : padTo n l = l := by
  subst h
  simp [padTo]

theorem slice_quoteBody (s : State) {nonce : List Byte} (h : nonce.length = 48) (l : List Byte) :
    slice (quoteBody s nonce ++ l) 16 48 = nonce := by
  have hpad := padTo_self h
  have hlen : (leBytes 4 1 ++ leBytes 4 s.bbx.boot.toNat ++ leBytes 8 s.dt.now.toNat).length = 16 := by
    simp only [List.length_append, leBytes_length]
  simp only [quoteBody, hpad]
  generalize leBytes 4 1 ++ leBytes 4 s.bbx.boot.toNat ++ leBytes 8 s.dt.now.toNat = a at hlen ⊢
  simp only [List.append_assoc]
  rw [← hlen, ← h]
  exact slice_middle a nonce _

theorem quoted_shows (seq : Byte) (s : State) {nonce : List Byte} (h : nonce.length = 48) : ∃ sig, sig.length = 96 ∧
    (portAnswered 0x05 seq (quoted s nonce)).sec.quote = quoteBody s nonce ++ sig ∧
    slice (portAnswered 0x05 seq (quoted s nonce)).sec.quote 16 48 = nonce ∧
    responded (portAnswered 0x05 seq (quoted s nonce)) 0x05 seq 0 ((portAnswered 0x05 seq (quoted s nonce)).sec.quote.take 128) ∧
    (portAnswered 0x05 seq (quoted s nonce)).regs = s.regs ∧ (portAnswered 0x05 seq (quoted s nonce)).mem = s.mem := by
  obtain ⟨k, hk⟩ := freeBytes_frame 96 s
  refine ⟨(freeBytes 96 s).1, length_freeBytes 96 s, rfl, slice_quoteBody s h _, portAnswered_responded 0x05 seq (quoted s nonce), ?_, ?_⟩
  · show (freeBytes 96 s).2.regs = s.regs
    rw [hk]
  · show (freeBytes 96 s).2.mem = s.mem
    rw [hk]

theorem attestRun_unidentified (p : List Byte) (h : s.sec.idOk = false) : attestRun p s = answer s 5 := by simp [attestRun, h]

theorem attestRun_quotes {p : List Byte} (h : s.sec.idOk = true) (hk : rec8 p 0 1 = 0) (hl : p.length = 49) :
    attestRun p s = quoted s (p.drop 1) := by
  simp only [attestRun, h, hk, hl, Bool.not_true, Bool.false_eq_true, if_false, and_self, if_true]
  rfl

theorem attestRun_reads {p : List Byte} {k : Nat} (h : s.sec.idOk = true) (h1 : 1 ≤ k) (h3 : k ≤ 3) (hp : p = [BitVec.ofNat 8 k])
    (hq : s.sec.quote ≠ []) : attestRun p s = ⟨0, slice s.sec.quote (128 * k) 128, s⟩ := by
  have hk : rec8 p 0 1 = k := by
    subst hp
    simp only [rec8, slice, leVal, List.drop_zero, List.take_succ_cons, List.take_zero, BitVec.toNat_ofNat]
    omega
  have hl : p.length = 1 := by rw [hp]; rfl
  have hne : s.sec.quote.isEmpty = false := by simpa using hq
  unfold attestRun
  simp only [hk, h]
  rw [if_neg (by decide), if_neg (by omega), if_pos ⟨h1, h3, hl, hne⟩]

theorem attestRun_refuses {p : List Byte} (h : s.sec.idOk = true) (h0 : ¬(rec8 p 0 1 = 0 ∧ p.length = 49))
    (hk : ¬(1 ≤ rec8 p 0 1 ∧ rec8 p 0 1 ≤ 3 ∧ p.length = 1 ∧ s.sec.quote ≠ [])) : attestRun p s = answer s 2 := by
  have hk' : ¬(1 ≤ rec8 p 0 1 ∧ rec8 p 0 1 ≤ 3 ∧ p.length = 1 ∧ s.sec.quote.isEmpty = false) := fun ⟨h1, h3, hl, he⟩ =>
    hk ⟨h1, h3, hl, by simpa using he⟩
  unfold attestRun
  simp only [h]
  rw [if_neg (by decide), if_neg h0, if_neg hk']

/-! ### The response read, and a session's end -/

theorem acserResponseRead_alerts (full : Bool) (s : State) : Runs (.acserResponseRead full) s fun u =>
    u = { s with aon := { s.aon with alerts := u.aon.alerts } } ∧ (full = false → u.aon.alerts = s.aon.alerts) ∧
      (full = true → ∀ k, k ∈ u.aon.alerts ↔ k ∈ s.aon.alerts ∧ (reportedCauses s.sec.resp).testBit k = false) := by
  cases full with
  | false => exact runs_next (t := s) rfl ⟨rfl, fun _ => rfl, fun h => absurd h (by decide)⟩
  | true =>
    refine runs_next (t := setAon s fun a => { a with alerts := a.alerts.filter fun k => !(reportedCauses s.sec.resp).testBit k }) rfl
      ⟨rfl, fun h => absurd h (by decide), fun _ k => ?_⟩
    rw [setAon, List.mem_filter, Bool.not_eq_true']

/-- `syncSec` shows the session in SEC_STATUS bit 4. -/
theorem rb_syncSec_session (s : State) : rb (syncSec s) R.secStatus 4 = s.sec.session := by
  have hdev : ∀ w, w < 12 → R.secStatus ≠ R.secDevid w := fun w hw => by simp only [R.secStatus, R.secDevid]; omega
  rw [rb, syncSec, rd_putWords_other _ hdev, rd_wr_other _ _ (by decide), rd_wr_other _ _ (by decide), rd_wr_same, bit, BitVec.getLsbD_or,
    BitVec.getLsbD_and]
  cases s.sec.lockFuse <;> cases s.sec.ownerSet <;> cases s.sec.idOk <;> cases s.sec.session <;> simp

theorem acserSessionTimeout_ends (s : State) : Runs .acserSessionTimeout s fun u => u.sec.session = false ∧
    (s.sec.session = false → u = s) ∧
    (s.sec.session = true → rb u R.secStatus 4 = false ∧ u.sec = { s.sec with session := false }) := by
  cases hs : s.sec.session with
  | false =>
    have h : exec .acserSessionTimeout s = .next s := by
      have he : exec .acserSessionTimeout s = execAcserSessionTimeout s := rfl
      rw [he, execAcserSessionTimeout, hs]
      rfl
    exact runs_next h ⟨hs, fun _ => rfl, fun h => absurd h (by decide)⟩
  | true =>
    have h : exec .acserSessionTimeout s = .next (setSession s false) := by
      have he : exec .acserSessionTimeout s = execAcserSessionTimeout s := rfl
      rw [he, execAcserSessionTimeout, hs]
      rfl
    have hsec : (setSession s false).sec = { s.sec with session := false } := by
      obtain ⟨r, hr⟩ := OnlyRegs.refl.syncSec (t := setSec s fun c => { c with session := false })
      rw [setSession, hr]
      rfl
    refine runs_next h ⟨by rw [hsec], fun h => absurd h (by decide), fun _ => ⟨?_, hsec⟩⟩
    exact rb_syncSec_session (setSec s fun c => { c with session := false })

end Sys2Proof.Machine
end

section
/-! SUPPORT. BBX_READ and the release of pins (R496, R537), and the statement of the Acser port put together: O56. -/

namespace Sys2Proof.Machine

variable {s : State}

/-! ### Records read -/

/-- The slots that a read of `n` from `k` covers. -/
theorem slots_read (n k m : Nat) : ((List.range n).filterMap fun i => if k + i < m then some (k + i) else none) =
    (List.range (min n (m - k))).map fun i => k + i := by
  induction n with
  | zero => simp
  | succ n ih =>
    rw [List.range_succ, List.filterMap_append, ih]
    by_cases h : k + n < m
    · rw [min_eq_left (by omega), min_eq_left (by omega), List.range_succ, List.map_append]
      simp [h]
    · rw [min_eq_right (by omega), min_eq_right (by omega)]
      simp [h]

theorem mramBytes_append (b : Bbx) (a n m : Nat) : mramBytes b a n ++ mramBytes b (a + n) m = mramBytes b a (n + m) := by
  simp only [mramBytes, List.range_add, List.map_append, List.map_map]
  congr 2
  funext i
  simp [Nat.add_assoc]

/-- Slots that follow one another lie one behind the other. -/
theorem mramBytes_slots (b : Bbx) (k m : Nat) :
    (((List.range m).map fun i => k + i).map fun i => mramBytes b (4096 + 64 * i) 64).flatten = mramBytes b (4096 + 64 * k) (64 * m) := by
  induction m with
  | zero => simp [mramBytes]
  | succ m ih =>
    rw [List.range_succ, List.map_append, List.map_append, List.flatten_append, ih]
    have hat : 4096 + 64 * (k + m) = 4096 + 64 * k + 64 * m := by omega
    simp only [List.map_cons, List.map_nil, List.flatten_cons, List.flatten_nil, List.append_nil, hat]
    exact mramBytes_append b _ _ _

theorem length_mramBytes (b : Bbx) (a n : Nat) : (mramBytes b a n).length = n := by simp [mramBytes]

theorem getD_mramBytes (b : Bbx) (a : Nat) {n i : Nat} (h : i < n) : (mramBytes b a n).getD i 0 = tabGet 0 b.mram (a + i) := by
  simp [mramBytes, List.getD_eq_getElem?_getD, h]

/-! ### Pins noted and released -/

/-- The slots of a read, by the block's own fields. -/
def slotsRead (b : Bbx) (k n : Nat) : List Nat := (List.range n).filterMap fun i => if k + i < b.slots then some (k + i) else none

theorem mem_slotsRead {b : Bbx} {k n x : Nat} : x ∈ slotsRead b k n ↔ ∃ j, j < n ∧ k + j < b.slots ∧ x = k + j := by
  unfold slotsRead
  rw [List.mem_filterMap]
  constructor
  · rintro ⟨j, hj, hx⟩
    by_cases h : k + j < b.slots
    · rw [if_pos h] at hx
      exact ⟨j, List.mem_range.mp hj, h, (Option.some.inj hx).symm⟩
    · rw [if_neg h] at hx
      exact absurd hx (by simp)
  · rintro ⟨j, hj, h, rfl⟩
    exact ⟨j, List.mem_range.mpr hj, if_pos h⟩

/-- The place of a slot in the pinned set, and the slot at a place, name each other. -/
theorem pin_place {m f i x : Nat} (hf : f < m) (hi : i < m) (hx : x < m) : (x + m - f) % m = i ↔ (f + i) % m = x := by
  by_cases h1 : x < f
  · rw [Nat.mod_eq_of_lt (show x + m - f < m by omega)]
    by_cases h2 : f + i < m
    · rw [Nat.mod_eq_of_lt h2]
      omega
    · rw [Nat.mod_eq_sub_mod (by omega), Nat.mod_eq_of_lt (show f + i - m < m by omega)]
      omega
  · rw [Nat.mod_eq_sub_mod (by omega), Nat.mod_eq_of_lt (show x + m - f - m < m by omega)]
    by_cases h2 : f + i < m
    · rw [Nat.mod_eq_of_lt h2]
      omega
    · rw [Nat.mod_eq_sub_mod (by omega), Nat.mod_eq_of_lt (show f + i - m < m by omega)]
      omega

/-- Whether the pinned record at place `i` has been read, this read counted. -/
def pinSeen (b : Bbx) (k n i : Nat) : Prop :=
  i ∈ b.pinRead ∨ ∃ j, j < n ∧ k + j < b.slots ∧ (b.pinFirst + i) % b.slots = k + j

theorem mem_notePins {b : Bbx} {k n i : Nat} (hf : b.pinFirst < b.slots) (hp : b.pinned ≤ b.slots) (hi : i < b.pinned) :
    i ∈ (notePins b (slotsRead b k n)).pinRead ↔ pinSeen b k n i := by
  have hplace : i ∈ ((slotsRead b k n).filter (isPinned b)).map (fun x => (x + b.slots - b.pinFirst) % b.slots) ↔
      ∃ j, j < n ∧ k + j < b.slots ∧ (b.pinFirst + i) % b.slots = k + j := by
    simp only [List.mem_map, List.mem_filter, mem_slotsRead]
    constructor
    · rintro ⟨x, ⟨⟨j, hj, hlt, rfl⟩, _⟩, hx⟩
      exact ⟨j, hj, hlt, (pin_place hf (by omega) hlt).mp hx⟩
    · rintro ⟨j, hj, hlt, hx⟩
      have hback := (pin_place hf (show i < b.slots by omega) hlt).mpr hx
      refine ⟨k + j, ⟨⟨j, hj, hlt, rfl⟩, ?_⟩, hback⟩
      rw [isPinned, hback]
      exact decide_eq_true hi
  rw [pinSeen, ← hplace, notePins]
  simp only [List.mem_append, List.mem_filter, Bool.not_eq_true', List.contains_eq_mem, decide_eq_false_iff_not]
  tauto

theorem releasePins_all {b : Bbx} (h : ∀ i, i < b.pinned → i ∈ b.pinRead) : (releasePins b).pinned = 0 := by
  have hc : ((List.range b.pinned).all fun i => b.pinRead.contains i) = true :=
    List.all_eq_true.mpr fun i hi => List.contains_iff_mem.mpr (h i (List.mem_range.mp hi))
  rw [releasePins, if_pos hc]
  rfl

theorem releasePins_some {b : Bbx} {i : Nat} (hi : i < b.pinned) (hno : i ∉ b.pinRead) : releasePins b = b := by
  have hc : ¬((List.range b.pinned).all fun i => b.pinRead.contains i) = true := fun h =>
    hno (List.contains_iff_mem.mp (List.all_eq_true.mp h i (List.mem_range.mpr hi)))
  rw [releasePins, if_neg hc]

theorem releasePins_seq (b : Bbx) : (releasePins b).seq = b.seq := by
  unfold releasePins
  split <;> rfl

/-! ### BBX_READ -/

/-- The writer's state after a read. -/
def bbxAfterRead (b : Bbx) (k n : Nat) (release : Bool) : Bbx :=
  if release then releasePins (notePins b (slotsRead b k n)) else notePins b (slotsRead b k n)

/-- The condition on a BBX_READ payload. -/
def bbxReadGood (s : State) (p : List Byte) : Prop := p.length = 8 ∧ 1 ≤ rec8 p 1 3 ∧ rec8 p 1 3 ≤ 3 ∧ rec8 p 4 4 < s.bbx.slots

theorem bbxReadRun_refuses {p : List Byte} (h : ¬bbxReadGood s p) : bbxReadRun p s = answer s 2 := by
  have hc : p.length ≠ 8 ∨ rec8 p 1 3 < 1 ∨ 3 < rec8 p 1 3 ∨ s.bbx.slots ≤ rec8 p 4 4 := by
    by_contra hn
    exact h (by unfold bbxReadGood; omega)
  rw [bbxReadRun]
  exact if_pos hc

theorem bbxReadRun_reads {p : List Byte} (h : bbxReadGood s p) : bbxReadRun p s =
    ⟨0, mramBytes s.bbx (4096 + 64 * rec8 p 4 4) (64 * min (rec8 p 1 3) (s.bbx.slots - rec8 p 4 4)),
      syncBbx { s with bbx := bbxAfterRead s.bbx (rec8 p 4 4) (rec8 p 1 3) (rec8 p 0 1 % 2 == 1) }⟩ := by
  obtain ⟨hlen, h1, h3, hk⟩ := h
  have hc : ¬(p.length ≠ 8 ∨ rec8 p 1 3 < 1 ∨ 3 < rec8 p 1 3 ∨ s.bbx.slots ≤ rec8 p 4 4) := by omega
  have hafter : bbxAfterRead s.bbx (rec8 p 4 4) (rec8 p 1 3) (rec8 p 0 1 % 2 == 1) =
      if rec8 p 0 1 % 2 = 1 then releasePins (notePins s.bbx (slotsRead s.bbx (rec8 p 4 4) (rec8 p 1 3)))
      else notePins s.bbx (slotsRead s.bbx (rec8 p 4 4) (rec8 p 1 3)) := by
    simp only [bbxAfterRead, beq_iff_eq]
  rw [← mramBytes_slots, ← slots_read, hafter, bbxReadRun]
  exact if_neg hc

theorem portAnswered_next (cmd : Nat) (seq : Byte) (a : Answer) : (portAnswered cmd seq a).mem = a.next.mem ∧
    (portAnswered cmd seq a).bbx = a.next.bbx := ⟨rfl, rfl⟩

theorem syncBbx_rest (t : State) : (syncBbx t).mem = t.mem ∧ (syncBbx t).bbx = t.bbx := by
  obtain ⟨r, hr⟩ := OnlyRegs.refl.syncBbx (t := t)
  rw [hr]
  exact ⟨rfl, rfl⟩

theorem bbxAfterRead_seq (b : Bbx) (k n : Nat) (release : Bool) : (bbxAfterRead b k n release).seq = b.seq := by
  unfold bbxAfterRead
  split
  · exact releasePins_seq _
  · rfl

/-- With every pinned record read a release leaves none. -/
theorem bbxAfterRead_released {b : Bbx} {k n : Nat} (hf : b.pinFirst < b.slots) (hp : b.pinned ≤ b.slots)
    (hall : ∀ i, i < b.pinned → pinSeen b k n i) : (bbxAfterRead b k n true).pinned = 0 :=
  releasePins_all fun i hi => (mem_notePins hf hp hi).mpr (hall i hi)

theorem bbxAfterRead_kept {b : Bbx} {k n : Nat} {release : Bool} (hf : b.pinFirst < b.slots) (hp : b.pinned ≤ b.slots)
    (hno : release = false ∨ ∃ i, i < b.pinned ∧ ¬pinSeen b k n i) :
    (bbxAfterRead b k n release).pinned = b.pinned ∧ (bbxAfterRead b k n release).mram = b.mram := by
  have hkept : bbxAfterRead b k n release = notePins b (slotsRead b k n) := by
    cases release with
    | false => rfl
    | true =>
      obtain hno | ⟨i, hi, hno⟩ := hno
      · exact absurd hno (by decide)
      · exact releasePins_some (b := notePins b (slotsRead b k n)) hi (mt (mem_notePins hf hp hi).mp hno)
  rw [hkept]
  exact ⟨rfl, rfl⟩

/-- What a read leaves: the bytes of its slots, and the pins released once every pinned record has been read. -/
theorem bbxRead_shows (seq : Byte) {p : List Byte} (h : bbxReadGood s p) (hf : s.bbx.pinFirst < s.bbx.slots)
    (hp : s.bbx.pinned ≤ s.bbx.slots) : ∃ d, responded (portAnswered 0x02 seq (bbxReadRun p s)) 0x02 seq 0 d ∧
      d.length = 64 * min (rec8 p 1 3) (s.bbx.slots - rec8 p 4 4) ∧ (portAnswered 0x02 seq (bbxReadRun p s)).mem = s.mem ∧
      (portAnswered 0x02 seq (bbxReadRun p s)).bbx.seq = s.bbx.seq ∧
      (∀ i, i < d.length → d.getD i 0 = tabGet 0 s.bbx.mram (4096 + 64 * rec8 p 4 4 + i)) ∧
      ((rec8 p 0 1 % 2 == 1) = true → (∀ i, i < s.bbx.pinned → pinSeen s.bbx (rec8 p 4 4) (rec8 p 1 3) i) →
        (portAnswered 0x02 seq (bbxReadRun p s)).bbx.pinned = 0) ∧
      ((rec8 p 0 1 % 2 == 1) = false ∨ (∃ i, i < s.bbx.pinned ∧ ¬pinSeen s.bbx (rec8 p 4 4) (rec8 p 1 3) i) →
        (portAnswered 0x02 seq (bbxReadRun p s)).bbx.pinned = s.bbx.pinned ∧
        (portAnswered 0x02 seq (bbxReadRun p s)).bbx.mram = s.bbx.mram) := by
  obtain ⟨hmem, hbbx⟩ := portAnswered_next 0x02 seq (bbxReadRun p s)
  have hresp := portAnswered_responded 0x02 seq (bbxReadRun p s)
  rw [bbxReadRun_reads h] at hmem hbbx hresp ⊢
  rw [(syncBbx_rest _).1] at hmem
  rw [(syncBbx_rest _).2] at hbbx
  rw [hmem, hbbx]
  refine ⟨_, hresp, length_mramBytes _ _ _, rfl, bbxAfterRead_seq _ _ _ _, fun i hi => ?_, fun hr hall => ?_, bbxAfterRead_kept hf hp⟩
  · rw [length_mramBytes] at hi
    exact getD_mramBytes _ _ hi
  · rw [hr]
    exact bbxAfterRead_released hf hp hall

/-! ### The statement -/

/-- A command that does not need the core ends as its work answers. -/
theorem runs_of_portRuns {c : Instr} {cmd : Nat} {auth : Bool} {seq : Byte} {p : List Byte} {run : State → Answer} {P : State → Prop}
    (he : exec c s = acser cmd auth false seq p true run s) (h : portRuns s cmd seq p auth) (hp : P (portAnswered cmd seq (run s))) :
    Runs c s P := runs_next (he.trans (acser_works h)) hp

/-- A payload where none belongs is a bad argument. -/
theorem runs_badArg {c : Instr} {cmd : Nat} {auth : Bool} {seq : Byte} {p : List Byte} {run : State → Answer}
    (he : exec c s = acser cmd auth false seq p true run s) (h : portRuns s cmd seq p auth) (hr : run s = answer s 2) :
    Runs c s fun u => responded u cmd seq 2 [] ∧ onlyResponse s u :=
  runs_of_portRuns he h (by rw [hr]; exact portAnswered_plain cmd seq s 2)

theorem runs_needsNone {c : Instr} {cmd : Nat} {seq : Byte} {p : List Byte} {run : State → Answer}
    (he : exec c s = acser cmd false false seq p true (fun s => if p.isEmpty then run s else answer s 2) s)
    (h : portRuns s cmd seq p false) (hp : p ≠ []) : Runs c s fun u => responded u cmd seq 2 [] ∧ onlyResponse s u :=
  runs_badArg he h (if_neg (by simpa using hp))

/-- A bare request of a command that takes no payload is answered with its data. -/
theorem exec_bare {c : Instr} {cmd : Nat} {seq : Byte} {run : State → Answer}
    (he : exec c s = acser cmd false false seq [] true (fun s => if ([] : List Byte).isEmpty then run s else answer s 2) s)
    (h : portRuns s cmd seq [] false) : exec c s = .next (portAnswered cmd seq (run s)) := by
  rw [he, acser_works h]
  rfl

/-- The part of the statement that holds for every command of the port. -/
theorem acserForms_answered (s : State) (seq : Byte) (p : List Byte) : ∀ f ∈ acserForms,
    let c := f.1 seq p true
    let code := f.2.1
    let same := s.sec.lastRun = true ∧ s.sec.lastCmd = code ∧ s.sec.lastSeq = seq.toNat
    (portUp s = false → ∀ ok, Runs (f.1 seq p ok) s fun u => u = s) ∧
    (portUp s = true → ∀ ok, ok = false ∨ 256 < p.length → Runs (f.1 seq p ok) s fun u =>
      u = { s with sec := { s.sec with resp := acserFrame code seq 1 [] } }) ∧
    (portUp s = true → p.length ≤ 256 → same → Runs c s fun u => u = { s with sec := { s.sec with resp := s.sec.lastResp } }) ∧
    (portUp s = true → p.length ≤ 256 → ¬same → f.2.2.1 p = true → secure s = true → s.sec.session = false →
      Runs c s fun u => responded u code seq 3 [] ∧ onlyResponse s u) ∧
    (portRuns s code seq p (f.2.2.1 p) → f.2.2.2 = true → s.up = false ∨ rb s R.glbStatus 0 = false →
      Runs c s fun u => responded u code seq 4 [] ∧ onlyResponse s u) := by
  intro f hf c code same
  obtain ⟨run, he⟩ := acserForms_exec f hf seq p
  refine ⟨fun hd ok => ?_, fun hport ok hbad => ?_, fun hport hl hs => ?_, fun hport hl hs ha hsec hno => ?_, fun hr hcore hoff => ?_⟩
  · exact runs_next ((he ok s).trans (acser_down hd)) rfl
  · exact runs_next ((he ok s).trans (acser_bad hport hbad)) rfl
  · exact runs_next ((he true s).trans (acser_repeated hport hl hs)) rfl
  · exact runs_next ((he true s).trans (acser_denied hport hl hs ha hsec hno)) (portAnswered_plain ..)
  · exact runs_next ((he true s).trans (acser_coreOff hr hcore hoff)) (portAnswered_plain ..)

/-- Settles O56: every command is a request of the port, which answers it with what its work answers. -/
theorem acserFramesAreAnswered : Obligations.AcserFramesAreAnswered := by
  intro s seq p
  refine ⟨acserForms_answered s seq p, ?_, ?_, ?_, ?_, ?_, ?_, ?_, ?_, ?_, fun full => acserResponseRead_alerts full s,
    acserSessionTimeout_ends s⟩
  · exact fun h hp => runs_needsNone (run := healthRun) rfl h hp
  · intro h
    obtain ⟨h0, h1, h2, h3, h4, h5, h6⟩ := healthRun_fields s
    exact runs_next (exec_bare (run := healthRun) rfl h) ⟨(healthRun s).data, portAnswered_responded 0x01 seq (healthRun s),
      portAnswered_onlyResponse 0x01 seq s 0 _, length_healthRun s, h0, h1, h2, h3, h4, h5, h6⟩
  · exact fun h hp => runs_needsNone (run := fun s => ⟨0, timeData s, s⟩) rfl h hp
  · intro h
    obtain ⟨h0, h1, h2⟩ := timeData_fields s
    exact runs_next (exec_bare (run := fun s => ⟨0, timeData s, s⟩) rfl h) ⟨timeData s, portAnswered_responded 0x07 seq ⟨0, timeData s, s⟩,
      portAnswered_onlyResponse 0x07 seq s 0 _, h0, h1, h2⟩
  · exact fun h hp => runs_needsNone (run := challenged) rfl h hp
  · intro h
    exact runs_next (exec_bare (run := challenged) rfl h) (challenged_shows seq s)
  · intro h hid
    refine runs_of_portRuns rfl h ?_
    rw [attestRun_unidentified p hid]
    exact portAnswered_plain 0x05 seq s 5
  · intro h hid
    refine ⟨fun hk hl => ?_, fun k h1 h3 hp hq => ?_, fun h0 hk => ?_⟩
    · refine runs_of_portRuns rfl h ?_
      rw [attestRun_quotes hid hk hl]
      exact quoted_shows seq s (by rw [List.length_drop, hl])
    · refine runs_of_portRuns rfl h ?_
      rw [attestRun_reads hid h1 h3 hp hq]
      exact ⟨portAnswered_responded .., portAnswered_onlyResponse ..⟩
    · exact runs_badArg rfl h (attestRun_refuses hid h0 hk)
  · intro n k good release read h
    refine ⟨fun hbad => ?_, fun hgood hf hp => ?_⟩
    · exact runs_badArg rfl h (bbxReadRun_refuses hbad)
    · exact runs_of_portRuns rfl h (bbxRead_shows seq hgood hf hp)

end Sys2Proof.Machine
end

section
/-! SUPPORT. A fault's event source whose wake latch is armed (R104, R484): O50. -/

namespace Sys2Proof.Machine

/-- Pair A active, pair B ready, and the wake latch armed for source 421. -/
def switchoverLatched : State :=
  setBits { State.reset with up := true, evc := { Evc.reset with wakeArmed := true, wakeMask := addSet 0 421 } } R.glbStatus 4

/-- The armed latch alone catches the edge that the fault raises. -/
theorem held_of_controlPairFault {u : State} (h : exec .controlPairFault switchoverLatched = .next u) : inSet u.evc.held 421 = false := by
  have hready : (switchoverLatched.safe.switching.isSome || !rb switchoverLatched R.glbStatus 2) = false := by decide +kernel
  have hpair : exec .controlPairFault switchoverLatched = .next (pairFault switchoverLatched) :=
    fabric_up switchoverLatched (f := pairFault) rfl
  have hedge : pairFault switchoverLatched =
      raiseEdge (setSafe switchoverLatched fun f => { f with switching := some (activePair switchoverLatched, switchoverLatched.dt.now) }) 421 := by
    unfold pairFault
    simp only [hready, Bool.false_eq_true, if_false]
  have hcaught : ((setSafe switchoverLatched fun f => { f with switching := some (activePair switchoverLatched, switchoverLatched.dt.now) }).evc.wakeArmed &&
      inSet (setSafe switchoverLatched fun f => { f with switching := some (activePair switchoverLatched, switchoverLatched.dt.now) }).evc.wakeMask 421) = true := by
    decide +kernel
  have hu : u = pairFault switchoverLatched := Host.Outcome.next.inj (h.symm.trans hpair)
  rw [hu, hedge, raiseEdge_caught hcaught]
  decide +kernel

/-- Refutes O50: the statement has a fault of the active pair hold source 421, and while that source's wake latch is armed the latch
alone catches the edge (R104). -/
theorem not_faultsTakeTheirActions : ¬ Obligations.FaultsTakeTheirActions := by
  intro h
  obtain ⟨hready, -⟩ := h switchoverLatched rfl
  obtain ⟨⟨u, hu, -, ⟨hheld, -⟩, -⟩, -⟩ := hready (by decide +kernel)
  have hno := held_of_controlPairFault hu
  rw [hheld (by decide +kernel)] at hno
  exact absurd hno (by decide)

end Sys2Proof.Machine
end

section
/-! SUPPORT. A rotation step whose stand-in lies beyond the tiles: its banks are shown over the redirect table (R262, R489); O36, O60. -/

namespace Sys2Proof.Machine

/-- The range of tile 0 fenced on its way to tile 1, for a rotation step whose stand-in is numbered 128. -/
def rotatedBeyond : State :=
  { State.reset with
    up := true
    safe := { State.reset.safe with rot := [(0, some ⟨0, 0, 128, 0, .moving, none⟩)] }
    memx := { State.reset.memx with moves := [(0, some ⟨toTile 1, none, none⟩)] } }

theorem rotatedBeyond_inv : Inv rotatedBeyond := by
  refine ⟨?_, ?_, ?_, ?_, ?_, ?_, ?_, ?_, fun e he => absurd he (by simp [rotatedBeyond, State.reset])⟩
  all_goals decide +kernel

theorem rotatedBeyond_due : tabGet none rotatedBeyond.memx.moves 0 = some ⟨toTile 1, none, none⟩ ∧
    targetBusy rotatedBeyond 0 ⟨toTile 1, none, none⟩ = false ∧ bit (toTile 1) 30 = false := by
  decide +kernel

theorem redir_fenceRelease_rotatedBeyond {u : State} (h : exec (.fenceRelease 0) rotatedBeyond = .next u) : rd u (R.memRedir 0) = 0 := by
  have hrel : exec (.fenceRelease 0) rotatedBeyond = .next (rotMoved (finishMove rotatedBeyond 0 ⟨toTile 1, none, none⟩) 0) := by
    have he : exec (.fenceRelease 0) rotatedBeyond = execFenceRelease 0 rotatedBeyond := rfl
    rw [he, execFenceRelease, fabric_up rotatedBeyond rfl]
    rfl
  rw [Host.Outcome.next.inj (h.symm.trans hrel)]
  decide +kernel

/-- Refutes O36: the statement has the redirect entry of a released range name its new place for every rotation step under way; the
banks of a step's stand-in numbered 128 are shown where the redirect table lies. -/
theorem not_theMemoryTiersKeepTheirContents : ¬ Obligations.TheMemoryTiersKeepTheirContents := by
  intro h
  obtain ⟨hmoves, -⟩ := h
  obtain ⟨hrelease, -⟩ := hmoves rotatedBeyond 0 rfl rotatedBeyond_inv
  obtain ⟨hmove, hfree, hplain⟩ := rotatedBeyond_due
  obtain ⟨u, hu, hredir, -⟩ := hrelease ⟨toTile 1, none, none⟩ hmove hfree rfl hplain (by simp) (by simp)
  have hzero := redir_fenceRelease_rotatedBeyond hu
  exact absurd (hredir.symm.trans hzero) (by decide)

/-- Refutes O60: its clause for the release of a fenced range fails in the same state, where the redirect entry of tile 0 reads 0. -/
theorem not_commandsCompleteWithTheirEffect : ¬ Obligations.CommandsCompleteWithTheirEffect := by
  intro h
  obtain ⟨-, -, -, hmemory, -⟩ := h
  obtain ⟨hrelease, -⟩ := hmemory rotatedBeyond rfl
  obtain ⟨hmove, hfree, hplain⟩ := rotatedBeyond_due
  obtain ⟨u, hu, hredir, -⟩ := hrelease 0 ⟨toTile 1, none, none⟩ hmove hfree hplain rfl rfl
  have hzero := redir_fenceRelease_rotatedBeyond hu
  exact absurd (hredir.symm.trans hzero) (by decide)

end Sys2Proof.Machine
end

section
/-! SUPPORT. Operations of the host rings: what they leave unchanged, and the ring that a slot serves (R446 to R453). -/

namespace Sys2Proof.Machine

variable {s t u : State} {a k : Nat}

/-! ### What the host interface leaves unchanged -/

/-- Between two states the registers below the host interface, the memory and the sequencer are the same. -/
structure HifOnly (s t : State) : Prop where
  below : ∀ a, a < 0x300000 → rd t a = rd s a
  mem : t.mem = s.mem
  held : t.heldWrites = s.heldWrites
  sem : t.sem = s.sem
  fgs : t.fgs = s.fgs

namespace HifOnly

theorem refl (s : State) : HifOnly s s := ⟨fun _ _ => rfl, rfl, rfl, rfl, rfl⟩

theorem trans (h : HifOnly s t) (g : HifOnly t u) : HifOnly s u :=
  ⟨fun a ha => (g.below a ha).trans (h.below a ha), g.mem.trans h.mem, g.held.trans h.held, g.sem.trans h.sem, g.fgs.trans h.fgs⟩

theorem sameBytes (h : HifOnly s t) : SameBytes s t :=
  sameBytes_of_redirect (fun _ hk => h.below _ (by simp only [R.memRedir]; omega)) h.mem h.held (by rw [h.sem])

/-- Another state of the rings beside their registers. -/
theorem rings (s : State) (x : Hif) : HifOnly s { s with hif := x } := ⟨fun _ _ => rfl, rfl, rfl, rfl, rfl⟩

theorem wr (h : HifOnly s t) (v : Word) (ha : 0x300000 ≤ a) : HifOnly s (Machine.wr t a v) :=
  h.trans ⟨fun _ hb => rd_wr_other _ v (by omega), rfl, rfl, rfl, rfl⟩

theorem wf (h : HifOnly s t) (hi lo v : Nat) (ha : 0x300000 ≤ a) : HifOnly s (Machine.wf t a hi lo v) := h.wr _ ha

theorem setBits (h : HifOnly s t) (m : Word) (ha : 0x300000 ≤ a) : HifOnly s (Machine.setBits t a m) := h.wr _ ha

theorem clrBits (h : HifOnly s t) (m : Word) (ha : 0x300000 ≤ a) : HifOnly s (Machine.clrBits t a m) := h.wr _ ha

theorem bump (h : HifOnly s t) (ha : 0x300000 ≤ a) : HifOnly s (Machine.bump t a) := h.wr _ ha

theorem bumpWrap (h : HifOnly s t) (ha : 0x300000 ≤ a) : HifOnly s (Machine.bumpWrap t a) := h.wr _ ha

theorem msixSend (h : HifOnly s t) (v : Nat) : HifOnly s (Machine.msixSend t v) :=
  h.trans ⟨fun _ ha => rd_msixSend_low _ v ha, by simp, by simp, by simp, by simp⟩

theorem setCq (h : HifOnly s t) (k : Nat) (c : CqState) : HifOnly s (Machine.setCq t k c) := h.trans (rings t _)

theorem syncSq (h : HifOnly s t) (q : Nat) : HifOnly s (Machine.syncSq t q) := h.wf _ _ _ (by simp only [R.hifSqStatus]; omega)

theorem syncOwner (h : HifOnly s t) (c : Completion) : HifOnly s (Machine.syncOwner t c) := by
  unfold Machine.syncOwner
  split
  · exact h.syncSq _
  · exact h

theorem syncFull (h : HifOnly s t) (k : Nat) : HifOnly s (Machine.syncFull t k) := h.wf _ _ _ (by simp only [R.hifCqStatus]; omega)

theorem cqEvaluate (h : HifOnly s t) (k : Nat) : HifOnly s (Machine.cqEvaluate t k) := by
  have hs : HifOnly s (Machine.clrBits t (R.hifCqStatus k) (bitW 29)) := h.clrBits _ (by simp only [R.hifCqStatus]; omega)
  unfold Machine.cqEvaluate
  dsimp only
  split
  · split
    · exact hs.setCq ..
    · exact (hs.setCq ..).msixSend _
  · exact h

theorem hifErr (h : HifOnly s t) (b r o : Nat) : HifOnly s (Machine.hifErr t b r o) := by
  have he : HifOnly s (errInfo t R.hifErr b R.hifErrInfo (BitVec.ofNat 32 (r % 64 * 65536 + o % 65536))) :=
    h.trans ⟨fun a ha => rd_errInfo_other _ _ _ (by simp only [R.hifErr]; omega) (by simp only [R.hifErrInfo]; omega),
      by simp, by simp, by simp, by simp⟩
  unfold Machine.hifErr
  dsimp only
  split
  · exact he.msixSend _
  · exact he

end HifOnly

/-! ### Registers of the rings -/

theorem rd_msixSend_ring (v : Nat) (h : a < 0x309000) : rd (msixSend s v) a = rd s a := by
  unfold msixSend
  split
  · exact rd_setBits_other _ _ (by simp only [R.hifMsixPba]; omega)
  · split <;> rfl

theorem rd_hifErr_same (b r o : Nat) : rd (hifErr s b r o) R.hifErr = rd s R.hifErr ||| bitW b := by
  have he := rd_errInfo_same s (e := R.hifErr) (i := R.hifErrInfo) b (BitVec.ofNat 32 (r % 64 * 65536 + o % 65536)) (by decide)
  unfold hifErr
  dsimp only
  split
  · rw [rd_msixSend_ring _ (by decide), he]
  · exact he

theorem rd_hifErr_ring (b r o : Nat) (hlo : 0x300010 ≤ a) (hhi : a < 0x309000) : rd (hifErr s b r o) a = rd s a := by
  have he := rd_errInfo_other s (a := a) (e := R.hifErr) (i := R.hifErrInfo) b (BitVec.ofNat 32 (r % 64 * 65536 + o % 65536))
    (by simp only [R.hifErr]; omega) (by simp only [R.hifErrInfo]; omega)
  unfold hifErr
  dsimp only
  split
  · rw [rd_msixSend_ring _ hhi, he]
  · exact he

@[simp] theorem hifErr_hif (b r o : Nat) : (hifErr s b r o).hif = s.hif := by
  unfold hifErr
  dsimp only
  split <;> simp

/-- An error of the host interface shows its bit and changes no byte and no ring. -/
theorem hifErr_shown (b r o : Nat) : rd (hifErr s b r o) R.hifErr = rd s R.hifErr ||| bitW b ∧ SameBytes s (hifErr s b r o) ∧
    (hifErr s b r o).hif = s.hif :=
  ⟨rd_hifErr_same .., ((HifOnly.refl s).hifErr ..).sameBytes, hifErr_hif ..⟩

theorem rd_syncSq_other (q : Nat) (h : a ≠ R.hifSqStatus q) : rd (syncSq s q) a = rd s a := rd_wf_other _ _ _ _ h

theorem rd_syncOwner_other (c : Completion) (h : ∀ q, a ≠ R.hifSqStatus q) : rd (syncOwner s c) a = rd s a := by
  unfold syncOwner
  split
  · exact rd_syncSq_other _ (h _)
  · rfl

@[simp] theorem rd_setCq (c : CqState) (a : Nat) : rd (setCq s k c) a = rd s a := rfl

@[simp] theorem syncSq_hif (q : Nat) : (syncSq s q).hif = s.hif := rfl

@[simp] theorem syncOwner_hif (c : Completion) : (syncOwner s c).hif = s.hif := by
  unfold syncOwner
  split <;> rfl

/-- The fields [31:29] of a status register leave its low half. -/
theorem sqHead_syncSq (q : Nat) : sqHead (syncSq s q) q = sqHead s q := by
  unfold sqHead rf syncSq
  rw [rd_wf_same]
  refine fld_congr fun i _ hi => ?_
  rw [getLsbD_setFld (by decide) (by decide), if_neg (by omega)]

theorem cqHead_syncFull (k : Nat) : cqHead (syncFull s k) k = cqHead s k := by
  unfold cqHead rf syncFull
  rw [rd_wf_other _ _ _ _ (by simp only [R.hifCqHead, R.hifCqStatus]; omega)]

/-- What an evaluation of a ring's interrupt leaves: every register below the pending bits but the ring's status. -/
theorem rd_cqEvaluate_other (h : a < 0x309000) (hne : a ≠ R.hifCqStatus k) : rd (cqEvaluate s k) a = rd s a := by
  have hs : rd (clrBits s (R.hifCqStatus k) (bitW 29)) a = rd s a := rd_clrBits_other _ _ hne
  unfold cqEvaluate
  dsimp only
  split
  · split
    · exact hs
    · rw [rd_msixSend_ring _ h]
      exact hs
  · rfl

/-- An evaluation keeps of a ring the entries and the time of the doorbell. -/
theorem cqOf_cqEvaluate : (cqOf (cqEvaluate s k) k).entries = (cqOf s k).entries ∧
    (cqOf (cqEvaluate s k) k).doorbell = (cqOf s k).doorbell := by
  unfold cqEvaluate
  dsimp only
  split
  · split <;> simp [cqOf, setCq]
  · exact ⟨rfl, rfl⟩

@[simp] theorem cqEvaluate_descs (k : Nat) : (cqEvaluate s k).hif.descs = s.hif.descs := by
  unfold cqEvaluate
  dsimp only
  (repeat' split) <;> simp [setCq]

@[simp] theorem cqEvaluate_hold (k : Nat) : (cqEvaluate s k).hif.hold = s.hif.hold := by
  unfold cqEvaluate
  dsimp only
  (repeat' split) <;> simp [setCq]

@[simp] theorem cqEvaluate_fgs (k : Nat) : (cqEvaluate s k).fgs = s.fgs := ((HifOnly.refl s).cqEvaluate k).fgs

/-! ### The ring that a slot serves (R453) -/

/-- Ring `q` comes before or with ring `p`: a higher class, or in the same class not after it in turn. -/
def notBehind (s : State) (turn : List Nat) (q p : Nat) : Prop :=
  sqClass s p ≤ sqClass s q ∧ (sqClass s p = sqClass s q → sqAfter s turn q ≤ sqAfter s turn p)

theorem notBehind.trans {turn : List Nat} {p q r : Nat} (h : notBehind s turn r q) (g : notBehind s turn q p) : notBehind s turn r p := by
  obtain ⟨hc, ht⟩ := h
  obtain ⟨gc, gt⟩ := g
  exact ⟨gc.trans hc, fun e => (ht (by omega)).trans (gt (by omega))⟩

/-- The better of the ring found so far and the next. -/
def betterRing (s : State) (turn : List Nat) (q k : Nat) : Nat :=
  if sqClass s q < sqClass s k ∨ (sqClass s q = sqClass s k ∧ sqAfter s turn k < sqAfter s turn q) then k else q

theorem betterRing_notBehind (turn : List Nat) (q k : Nat) :
    notBehind s turn (betterRing s turn q k) q ∧ notBehind s turn (betterRing s turn q k) k := by
  unfold betterRing notBehind
  split <;> constructor <;> constructor <;> omega

theorem betterRing_eq (turn : List Nat) (q k : Nat) : betterRing s turn q k = q ∨ betterRing s turn q k = k := by
  unfold betterRing
  split <;> simp

theorem sqServed_cons (turn : List Nat) (k : Nat) (l : List Nat) :
    sqServed s turn (k :: l) = some (l.foldl (betterRing s turn) k) := by
  show l.foldl _ (some k) = _
  induction l generalizing k with
  | nil => rfl
  | cons x l ih =>
    rw [List.foldl_cons, List.foldl_cons, ← ih]
    congr 1
    exact (apply_ite some _ _ _).symm

theorem foldl_betterRing (turn : List Nat) (l : List Nat) (k : Nat) :
    l.foldl (betterRing s turn) k ∈ k :: l ∧ ∀ p ∈ k :: l, notBehind s turn (l.foldl (betterRing s turn) k) p := by
  induction l generalizing k with
  | nil => simp [notBehind]
  | cons x l ih =>
    obtain ⟨hin, hbest⟩ := ih (betterRing s turn k x)
    obtain ⟨hk, hx⟩ := betterRing_notBehind (s := s) turn k x
    have hhead := hbest _ List.mem_cons_self
    simp only [List.foldl_cons, List.mem_cons, forall_eq_or_imp] at hin ⊢
    refine ⟨?_, hhead.trans hk, hhead.trans hx, fun p hp => hbest p (List.mem_cons_of_mem _ hp)⟩
    obtain h | h := hin
    · exact (betterRing_eq turn k x).imp (h.trans ·) fun e => .inl (h.trans e)
    · exact .inr (.inr h)

/-- The ring served contends, and none that contends comes before it. -/
theorem sqServed_spec {turn l : List Nat} {q : Nat} (h : sqServed s turn l = some q) : q ∈ l ∧ ∀ p ∈ l, notBehind s turn q p := by
  cases l with
  | nil => cases h
  | cons k l =>
    rw [sqServed_cons] at h
    cases h
    exact foldl_betterRing turn l k

/-! ### Held completions of a ring -/

/-- What releasing the held completions of a ring leaves of the sequencer, and how many completions stay held. -/
theorem writeCompletion_hold (c : Completion) : (writeCompletion s c).hif.hold = s.hif.hold ∧ (writeCompletion s c).fgs = s.fgs := by
  unfold writeCompletion
  dsimp only
  rw [cqEvaluate_hold, cqEvaluate_fgs]
  split <;> simp [syncFull, setCq]

theorem releaseHeld_frame (n : Nat) (s : State) (k : Nat) :
    (releaseHeld n s k).fgs = s.fgs ∧ (releaseHeld n s k).hif.hold.length ≤ s.hif.hold.length := by
  induction n generalizing s with
  | zero => exact ⟨rfl, le_rfl⟩
  | succ n ih =>
    unfold releaseHeld
    split
    · exact ⟨rfl, le_rfl⟩
    next c hc =>
      have herase : (s.hif.hold.erase c).length ≤ s.hif.hold.length := List.length_erase_le
      split
      · obtain ⟨hf, hl⟩ := ih (syncOwner (bump { s with hif := { s.hif with hold := s.hif.hold.erase c } } R.hifDiscardCnt) c)
        rw [syncOwner_hif] at hl
        exact ⟨hf.trans ((((HifOnly.rings s _).bump (by decide)).syncOwner c).fgs), hl.trans herase⟩
      · split
        · exact ⟨rfl, le_rfl⟩
        · obtain ⟨hw, hwf⟩ := writeCompletion_hold (s := { s with hif := { s.hif with hold := s.hif.hold.erase c } }) c
          obtain ⟨hf, hl⟩ := ih (syncOwner (writeCompletion { s with hif := { s.hif with hold := s.hif.hold.erase c } } c) c)
          rw [syncOwner_hif, hw] at hl
          exact ⟨hf.trans ((((HifOnly.refl _).syncOwner c).fgs).trans hwf), hl.trans herase⟩

/-- A completion held for a ring with room leaves. -/
theorem releaseHeld_shrinks {n : Nat} {c : Completion} (hc : s.hif.hold.find? (fun c => c.cq == k) = some c) (hen : cqEn s k = true)
    (hroom : cqFull s k = false) : (releaseHeld (n + 1) s k).hif.hold.length < s.hif.hold.length := by
  have hmem : c ∈ s.hif.hold := List.mem_of_find?_eq_some hc
  have hpos : 0 < s.hif.hold.length := List.length_pos_of_mem hmem
  have hone := List.length_erase_of_mem hmem
  unfold releaseHeld
  simp only [hc, hen, hroom, Bool.not_true, Bool.false_eq_true, if_false]
  obtain ⟨-, hl⟩ := releaseHeld_frame n
    (syncOwner (writeCompletion { s with hif := { s.hif with hold := s.hif.hold.erase c } } c) c) k
  rw [syncOwner_hif, (writeCompletion_hold c).1] at hl
  exact lt_of_le_of_lt hl (by rw [hone]; omega)

theorem releaseHeld_none {n : Nat} (h : ∀ c ∈ s.hif.hold, c.cq ≠ k) : releaseHeld n s k = s := by
  cases n with
  | zero => rfl
  | succ n =>
    have hnone : s.hif.hold.find? (fun c => c.cq == k) = none := by simpa [List.find?_eq_none] using h
    unfold releaseHeld
    rw [hnone]

theorem releaseHeld_full {n : Nat} (hen : cqEn s k = true) (hfull : cqFull s k = true) : releaseHeld n s k = s := by
  cases n with
  | zero => rfl
  | succ n =>
    unfold releaseHeld
    split
    · rfl
    · simp [hen, hfull]

/-- The completions held for a disabled ring are all discarded, and that is all. -/
theorem releaseHeld_disabled (n : Nat) (s : State) (k : Nat) (hen : cqEn s k = false) (hn : s.hif.hold.length ≤ n) (hk : k < 64) :
    HifOnly s (releaseHeld n s k) ∧ rd (releaseHeld n s k) (R.hifCqCfg k) = rd s (R.hifCqCfg k) ∧
      ∀ c ∈ (releaseHeld n s k).hif.hold, c.cq ≠ k := by
  induction n generalizing s with
  | zero =>
    have hnil : s.hif.hold = [] := List.length_eq_zero_iff.mp (Nat.le_zero.mp hn)
    exact ⟨.refl s, rfl, by simp [releaseHeld, hnil]⟩
  | succ n ih =>
    unfold releaseHeld
    split
    next hnone => exact ⟨.refl s, rfl, by simpa [List.find?_eq_none] using hnone⟩
    next c hc =>
      simp only [hen, Bool.not_false, if_true]
      have hmem : c ∈ s.hif.hold := List.mem_of_find?_eq_some hc
      have hone := List.length_erase_of_mem hmem
      generalize hx : { s with hif := { s.hif with hold := s.hif.hold.erase c } } = x
      have hsx : HifOnly s x := hx ▸ HifOnly.rings s _
      have hreg : ∀ a, rd x a = rd s a := fun a => hx ▸ rfl
      have hlen : x.hif.hold.length ≤ n := by
        rw [← hx]
        show (s.hif.hold.erase c).length ≤ n
        omega
      have hcfg : rd (syncOwner (bump x R.hifDiscardCnt) c) (R.hifCqCfg k) = rd s (R.hifCqCfg k) := by
        rw [rd_syncOwner_other _ fun q => by simp only [R.hifCqCfg, R.hifSqStatus]; omega,
          rd_bump_other _ (by simp only [R.hifCqCfg, R.hifDiscardCnt]; omega), hreg]
      obtain ⟨ho, hc', hall⟩ := ih (syncOwner (bump x R.hifDiscardCnt) c) (by rw [cqEn, rb, hcfg]; exact hen)
        (by rw [syncOwner_hif]; exact hlen)
      exact ⟨((hsx.bump (by decide)).syncOwner c).trans ho, hc'.trans hcfg, hall⟩

/-- With no run kept in flight none leaves. -/
theorem leaveRuns_still (h : ∀ r ∈ s.fgs.runs, r.recorded = false) : leaveRuns s = s := by
  have hnil : s.fgs.runs.filter Run.recorded = [] := List.filter_eq_nil_iff.mpr fun r hr => by simp [h r hr]
  rw [leaveRuns, hnil]
  rfl

end Sys2Proof.Machine
end

section
/-! SUPPORT. The clauses of the host rings (R446 to R453, R464, R465, R474), one part of the interface after the other: O46. -/

namespace Sys2Proof.Machine

variable {s : State} {k : Fin 64} {v : Word}

/-- What an error of the rings shows beside a register that it leaves. -/
theorem hifErr_leaves {a : Nat} (b r o : Nat) (hlo : 0x300010 ≤ a) (hhi : a < 0x309000) :
    (rd (hifErr s b r o) R.hifErr = rd s R.hifErr ||| bitW b ∧ SameBytes s (hifErr s b r o) ∧ (hifErr s b r o).hif = s.hif) ∧
      rd (hifErr s b r o) a = rd s a := ⟨hifErr_shown .., rd_hifErr_ring _ _ _ hlo hhi⟩

/-! ### Doorbells -/

theorem takeHead_spec (i : Nat) (hi : i < 2 ^ 16) : cqHead (takeHead s k.val i) k.val = i ∧ SameBytes s (takeHead s k.val i) ∧
    (cqOf (takeHead s k.val i) k.val).doorbell = s.dt.now ∧ (cqOf (takeHead s k.val i) k.val).entries =
      (cqOf s k.val).entries.drop ((i + cqSize s k.val - cqHead s k.val) % cqSize s k.val) := by
  have hk := k.isLt
  generalize hc : ({ cqOf s k.val with
    entries := (cqOf s k.val).entries.drop ((i + cqSize s k.val - cqHead s k.val) % cqSize s k.val), doorbell := s.dt.now } : CqState) = c
  generalize hx : setBits (setCq (wf s (R.hifCqHead k.val) 15 0 i) k.val c) (R.hifCqStatus k.val) (bitW 29) = x
  have hu : takeHead s k.val i = cqEvaluate (syncFull x k.val) k.val := by
    rw [← hx, ← hc]
    rfl
  have hcq : cqOf (syncFull x k.val) k.val = c := by
    rw [← hx]
    exact tabGet_set_same ..
  have hhead : rd x (R.hifCqHead k.val) = setFld (rd s (R.hifCqHead k.val)) 15 0 i := by
    rw [← hx, rd_setBits_other _ _ (by simp only [R.hifCqHead, R.hifCqStatus]; omega), rd_setCq, rd_wf_same]
  have hsx : HifOnly s x := hx ▸ (((HifOnly.refl s).wf _ _ _ (by simp only [R.hifCqHead]; omega)).setCq _ _).setBits _
    (by simp only [R.hifCqStatus]; omega)
  obtain ⟨hent, hdoor⟩ := cqOf_cqEvaluate (s := syncFull x k.val) (k := k.val)
  rw [hu]
  refine ⟨?_, ((hsx.syncFull _).cqEvaluate _).sameBytes, ?_, ?_⟩
  · rw [cqHead, rf, rd_cqEvaluate_other (by simp only [R.hifCqHead]; omega) (by simp only [R.hifCqHead, R.hifCqStatus]; omega)]
    rw [syncFull, rd_wf_other _ _ _ _ (by simp only [R.hifCqHead, R.hifCqStatus]; omega), hhead]
    exact fld_setFld_same (by decide) (by decide) (by simpa using hi)
  · rw [hdoor, hcq, ← hc]
  · rw [hent, hcq, ← hc]

theorem doorbells (hu : s.up = true) (k : Fin 64) (v : Word) :
    let err := fun (u : State) (b : Nat) => rd u R.hifErr = rd s R.hifErr ||| bitW b ∧ SameBytes s u ∧ u.hif = s.hif
    (sqEn s k.val = true → fld v 15 0 < sqSize s k.val →
      Runs (.sqTailDoorbell k v) s fun u => u = wf s (R.hifSqTail k.val) 15 0 (fld v 15 0)) ∧
    (sqEn s k.val = false ∨ sqSize s k.val ≤ fld v 15 0 →
      Runs (.sqTailDoorbell k v) s fun u => err u 2 ∧ sqTail u k.val = sqTail s k.val) ∧
    (cqEn s k.val = true → cqIndexOk s k.val (fld v 15 0) = true → Runs (.cqHeadDoorbell k v) s fun u =>
      cqHead u k.val = fld v 15 0 ∧ SameBytes s u ∧ (cqOf u k.val).doorbell = s.dt.now ∧ let n := cqSize s k.val
        (cqOf u k.val).entries = (cqOf s k.val).entries.drop ((fld v 15 0 + n - cqHead s k.val) % n)) ∧
    (cqEn s k.val = false ∨ cqIndexOk s k.val (fld v 15 0) = false →
      Runs (.cqHeadDoorbell k v) s fun u => err u 2 ∧ cqHead u k.val = cqHead s k.val) := by
  have hk := k.isLt
  intro err
  have htail : exec (.sqTailDoorbell k v) s = fabric s fun s =>
      if sqEn s k.val && decide (fld v 15 0 < sqSize s k.val) then wf s (R.hifSqTail k.val) 15 0 (fld v 15 0) else hifErr s 2 k.val 0 := rfl
  have hhead : exec (.cqHeadDoorbell k v) s = fabric s fun s =>
      if cqEn s k.val && cqIndexOk s k.val (fld v 15 0) then takeHead s k.val (fld v 15 0) else hifErr s 2 k.val 4 := rfl
  refine ⟨fun he hv => runs_fabric hu htail ?_, fun hbad => runs_fabric hu htail ?_, fun he hv => runs_fabric hu hhead ?_,
    fun hbad => runs_fabric hu hhead ?_⟩
  · simp [he, hv]
  · have hc : ¬(sqEn s k.val && decide (fld v 15 0 < sqSize s k.val)) = true := by
      rw [Bool.and_eq_true, decide_eq_true_eq]
      rintro ⟨h1, h2⟩
      exact hbad.elim (fun h => by simp [h] at h1) fun h => absurd h2 (not_lt.mpr h)
    rw [if_neg hc]
    obtain ⟨herr, hreg⟩ := hifErr_leaves (s := s) (a := R.hifSqTail k.val) 2 k.val 0 (by simp only [R.hifSqTail]; omega)
      (by simp only [R.hifSqTail]; omega)
    exact ⟨herr, by rw [sqTail, rf, hreg]; rfl⟩
  · rw [he, hv]
    exact takeHead_spec _ (fld_lt v 15 0)
  · have hc : ¬(cqEn s k.val && cqIndexOk s k.val (fld v 15 0)) = true := by
      rw [Bool.and_eq_true]
      rintro ⟨h1, h2⟩
      exact hbad.elim (fun h => by simp [h] at h1) fun h => by simp [h] at h2
    rw [if_neg hc]
    obtain ⟨herr, hreg⟩ := hifErr_leaves (s := s) (a := R.hifCqHead k.val) 2 k.val 4 (by simp only [R.hifCqHead]; omega)
      (by simp only [R.hifCqHead]; omega)
    exact ⟨herr, by rw [cqHead, rf, hreg]; rfl⟩

/-! ### Interrupts and held completions -/

/-- What `msixSend` adds to the messages sent. -/
theorem msixSent_of_open {v : Nat} (hmask : rb s (R.hifMsixTable (4 * v + 3)) 0 = false) (hr : hostReach s = true) :
    (msixSend s v).msixSent = s.msixSent ++ [v] := by simp [msixSend, hmask, hr]

/-- A ring whose time has passed sends its message and is disarmed. -/
theorem cqEvaluate_timed (hk : k.val < 64) (ht : cqTimed s k.val = true) (he : cqEn s k.val = true)
    (hirq : bit (rd s (R.hifCqCfg k.val)) 30 = true) (harm : rb s (R.hifCqStatus k.val) 29 = true) :
    let u := cqEvaluate s k.val
    rb u (R.hifCqStatus k.val) 29 = false ∧ SameBytes s u ∧ u.hif.descs = s.hif.descs ∧ u.hif.hold = s.hif.hold ∧
      cqOf u k.val = { cqOf s k.val with sent := some s.dt.now } ∧
      let v := fld (rd s (R.hifCqCfg k.val)) 22 16
      let again := (cqOf s k.val).sent = some s.dt.now ∧ (cqOf s k.val).doorbell = s.dt.now
      (again → u.msixSent = s.msixSent) ∧
      (¬ again → rb s (R.hifMsixTable (4 * v + 3)) 0 = false → hostReach s = true → u.msixSent = s.msixSent ++ [v]) := by
  intro u
  generalize hx : setCq (clrBits s (R.hifCqStatus k.val) (bitW 29)) k.val { cqOf s k.val with sent := some s.dt.now } = x
  have hu : u = if (cqOf s k.val).sent = some s.dt.now ∧ (cqOf s k.val).doorbell = s.dt.now then x
      else msixSend x (fld (rd s (R.hifCqCfg k.val)) 22 16) := by
    have hc : (bit (rd s (R.hifCqCfg k.val)) 31 && bit (rd s (R.hifCqCfg k.val)) 30 && rb s (R.hifCqStatus k.val) 29 &&
        (decide (max 1 (rf s (R.hifCqCoal k.val) 7 0) ≤ (cqPending s k.val).length) || cqTimed s k.val)) = true := by
      rw [show bit (rd s (R.hifCqCfg k.val)) 31 = true from he, hirq, harm, ht]
      simp
    show cqEvaluate s k.val = _
    unfold cqEvaluate
    dsimp only
    rw [if_pos hc, hx]
  have hreg : ∀ a, rd x a = rd (clrBits s (R.hifCqStatus k.val) (bitW 29)) a := fun a => hx ▸ rfl
  have hrest : u.hif = x.hif ∧ rd u (R.hifCqStatus k.val) = rd x (R.hifCqStatus k.val) := by
    rw [hu]
    split
    · exact ⟨rfl, rfl⟩
    · exact ⟨by simp, rd_msixSend_ring _ (by simp only [R.hifCqStatus]; omega)⟩
  obtain ⟨hhif, hst⟩ := hrest
  have hfar : ∀ {a}, a ≠ R.hifCqStatus k.val → rd x a = rd s a := fun h => (hreg _).trans (rd_clrBits_other _ _ h)
  refine ⟨?_, ((HifOnly.refl s).cqEvaluate k.val).sameBytes, cqEvaluate_descs _, cqEvaluate_hold _, ?_, fun h => ?_, fun h hm hr => ?_⟩
  · rw [rb, hst, hreg, rd_clrBits_same]
    exact bit_and_not_bitW _ (by decide)
  · rw [cqOf, hhif, ← hx]
    exact tabGet_set_same ..
  · rw [hu, if_pos h, ← hx]
    rfl
  · rw [hu, if_neg h, msixSent_of_open (by rw [rb, hfar (by simp only [R.hifMsixTable, R.hifCqStatus]; omega)]; exact hm)
      (by rw [hostReach, rb, hfar (by simp only [R.hifStatus, R.hifCqStatus]; omega), ← hx]; exact hr), ← hx]
    rfl

theorem coalesceAndHold (hu : s.up = true) (k : Fin 64) :
    (cqTimed s k.val = false → Runs (.cqCoalesceTimer k) s fun u => u = s) ∧
    (cqTimed s k.val = true → cqEn s k.val = true → bit (rd s (R.hifCqCfg k.val)) 30 = true → rb s (R.hifCqStatus k.val) 29 = true →
      Runs (.cqCoalesceTimer k) s fun u => rb u (R.hifCqStatus k.val) 29 = false ∧ SameBytes s u ∧ u.hif.descs = s.hif.descs ∧
        u.hif.hold = s.hif.hold ∧ cqOf u k.val = { cqOf s k.val with sent := some s.dt.now } ∧
        let v := fld (rd s (R.hifCqCfg k.val)) 22 16
        let again := (cqOf s k.val).sent = some s.dt.now ∧ (cqOf s k.val).doorbell = s.dt.now
        (again → u.msixSent = s.msixSent) ∧
        (¬ again → rb s (R.hifMsixTable (4 * v + 3)) 0 = false → hostReach s = true → u.msixSent = s.msixSent ++ [v])) ∧
    let still := ∀ r ∈ s.fgs.runs, r.recorded = false
    (still → (∀ c ∈ s.hif.hold, c.cq ≠ k.val) → Runs (.completionHoldRelease k) s fun u => u = s) ∧
    (still → (∃ c ∈ s.hif.hold, c.cq = k.val) → cqEn s k.val = true → cqFull s k.val = true →
      Runs (.completionHoldRelease k) s fun u => u = s) ∧
    (still → (∃ c ∈ s.hif.hold, c.cq = k.val) → cqEn s k.val = true → cqFull s k.val = false →
      Runs (.completionHoldRelease k) s fun u => u.hif.hold.length < s.hif.hold.length) := by
  have hafter : (∀ r ∈ s.fgs.runs, r.recorded = false) → ∀ n, leaveRuns (releaseHeld n s k.val) = releaseHeld n s k.val := fun hs n =>
    leaveRuns_still (by rw [(releaseHeld_frame n s k.val).1]; exact hs)
  have htimer : exec (.cqCoalesceTimer k) s = fabric s fun s => if cqTimed s k.val then cqEvaluate s k.val else s := rfl
  have hrelease : exec (.completionHoldRelease k) s =
      fabric s fun s => leaveRuns (releaseHeld s.hif.hold.length s k.val) := rfl
  refine ⟨fun h => runs_fabric hu htimer (by simp [h]), fun ht he hirq harm => runs_fabric hu htimer ?_,
    fun hs hno => runs_fabric hu hrelease ?_, fun hs _ he hf => runs_fabric hu hrelease ?_, fun hs hex he hf => runs_fabric hu hrelease ?_⟩
  · rw [if_pos ht]
    exact cqEvaluate_timed k.isLt ht he hirq harm
  · rw [hafter hs, releaseHeld_none hno]
  · rw [hafter hs, releaseHeld_full he hf]
  · obtain ⟨c, hc, hck⟩ := hex
    obtain ⟨d, hd⟩ : ∃ d, s.hif.hold.find? (fun c => c.cq == k.val) = some d :=
      Option.isSome_iff_exists.mp (List.find?_isSome.mpr ⟨c, hc, by simpa using hck⟩)
    obtain ⟨n, hn⟩ : ∃ n, s.hif.hold.length = n + 1 := Nat.exists_eq_add_one.mpr (List.length_pos_of_mem hc)
    have hless := releaseHeld_shrinks (n := n) hd he hf
    rw [hafter hs]
    rwa [← hn] at hless

/-! ### Fetch -/

/-- A good fetch. -/
theorem fetchEntry_spec {q : Nat} (hq : q < 64) (x : State) (hx : x = { s with hif := { s.hif with fetchTurn := x.hif.fetchTurn } }) :
    (fetchEntry x q).hif.descs = s.hif.descs ++ [newDesc s q] ∧ sqHead (fetchEntry x q) q = (sqHead s q + 1) % sqSize s q % 65536 ∧
      rd (fetchEntry x q) (R.hifSqFetched q) = rd s (R.hifSqFetched q) + 1 ∧ SameBytes s (fetchEntry x q) := by
  have hreg : ∀ a, rd x a = rd s a := fun a => by rw [hx]; rfl
  unfold fetchEntry
  dsimp only
  generalize hy : { x with hif := { x.hif with descs := x.hif.descs ++ [newDesc x q], nextDesc := x.hif.nextDesc + 1 } } = y
  have hyr : ∀ a, rd y a = rd s a := fun a => by rw [← hy]; exact hreg a
  have hsy : HifOnly s y := by
    rw [← hy, hx]
    exact (HifOnly.rings s _).trans (HifOnly.rings _ _)
  refine ⟨?_, ?_, ?_, ?_⟩
  · show y.hif.descs = _
    rw [← hy, hx]
    rfl
  · rw [sqHead_syncSq, sqHead, rf, rd_bumpWrap_other _ (by simp only [R.hifSqStatus, R.hifSqFetched]; omega), rd_wf_same]
    have hh : sqHead x q = sqHead s q := by rw [sqHead, rf, hreg]; rfl
    have hz : sqSize x q = sqSize s q := by rw [sqSize, rf, hreg]; rfl
    rw [hh, hz]
    refine Nat.eq_of_testBit_eq fun i => ?_
    rw [testBit_fld, getLsbD_setFld (by decide) (by decide), show (65536 : Nat) = 2 ^ 16 from rfl, Nat.testBit_mod_two_pow]
    by_cases hi : i < 16
    · simp [hi, show i ≤ 15 by omega]
    · simp [hi]
  · rw [rd_syncSq_other _ (by simp only [R.hifSqStatus, R.hifSqFetched]; omega), rd_bumpWrap_same,
      rd_wf_other _ _ _ _ (by simp only [R.hifSqStatus, R.hifSqFetched]; omega), hyr]
  · exact (((hsy.wf _ _ _ (by simp only [R.hifSqStatus]; omega)).bumpWrap (by simp only [R.hifSqFetched]; omega)).syncSq _).sameBytes

/-- A failed fetch. -/
theorem fetchFail_spec {q : Nat} (hq : q < 64) (x : State) (hx : x = { s with hif := { s.hif with fetchTurn := x.hif.fetchTurn } }) :
    rd (fetchFail x q) R.hifErr = rd s R.hifErr ||| 8 ∧ SameBytes s (fetchFail x q) ∧ (fetchFail x q).hif = x.hif ∧
      sqEn (fetchFail x q) q = false ∧ sqHead (fetchFail x q) q = sqHead s q := by
  have hreg : ∀ a, rd x a = rd s a := fun a => by rw [hx]; rfl
  have hsx : HifOnly s x := by
    rw [hx]
    exact HifOnly.rings s _
  unfold fetchFail
  refine ⟨?_, ?_, ?_, ?_, ?_⟩
  · rw [rd_hifErr_same, rd_syncSq_other _ (by simp only [R.hifSqStatus, R.hifErr]; omega),
      rd_clrBits_other _ _ (by simp only [R.hifSqCfg, R.hifErr]; omega), hreg]
    rfl
  · exact (((hsx.clrBits _ (by simp only [R.hifSqCfg]; omega)).syncSq q).hifErr _ _ _).sameBytes
  · rw [hifErr_hif]
    rfl
  · rw [sqEn, rb, rd_hifErr_ring _ _ _ (by simp only [R.hifSqCfg]; omega) (by simp only [R.hifSqCfg]; omega),
      rd_syncSq_other _ (by simp only [R.hifSqStatus, R.hifSqCfg]; omega), rd_clrBits_same]
    exact bit_and_not_bitW _ (by decide)
  · rw [sqHead, rf, rd_hifErr_ring _ _ _ (by simp only [R.hifSqStatus]; omega) (by simp only [R.hifSqStatus]; omega)]
    show sqHead (syncSq _ q) q = _
    rw [sqHead_syncSq, sqHead, rf, rd_clrBits_other _ _ (by simp only [R.hifSqStatus, R.hifSqCfg]; omega), hreg]
    rfl

theorem fetches (hu : s.up = true) (k : Fin 64) (rivals : List (Fin 64)) (ok : Bool) :
    let l := (k.val :: rivals.map Fin.val).filter (mayFetch s)
    (l = [] → Runs (.descriptorFetch k ok rivals) s fun u => u = s) ∧
    (∀ q, sqServed s s.hif.fetchTurn l = some q →
      let good := ok && !poisoned s (hostBase + sqEntry s q) 64
      q ∈ l ∧ (∀ p ∈ l, sqClass s p ≤ sqClass s q ∧
        (sqClass s p = sqClass s q → sqAfter s s.hif.fetchTurn q ≤ sqAfter s s.hif.fetchTurn p)) ∧
      (good = true → Runs (.descriptorFetch k ok rivals) s fun u => u.hif.descs = s.hif.descs ++ [newDesc s q] ∧
        sqHead u q = (sqHead s q + 1) % sqSize s q % 65536 ∧ rd u (R.hifSqFetched q) = rd s (R.hifSqFetched q) + 1 ∧
        SameBytes s u) ∧
      (good = false → Runs (.descriptorFetch k ok rivals) s fun u => rd u R.hifErr = rd s R.hifErr ||| 8 ∧ SameBytes s u ∧
        u.hif = { s.hif with fetchTurn := s.hif.fetchTurn.set (sqClass s q) q } ∧ sqEn u q = false ∧ sqHead u q = sqHead s q)) := by
  intro l
  have hfetch : exec (.descriptorFetch k ok rivals) s = fabric s fun s =>
      match sqServed s s.hif.fetchTurn ((k.val :: rivals.map Fin.val).filter (mayFetch s)) with
      | some q => fetchFrom s q ok
      | none => s := rfl
  refine ⟨fun hl => runs_fabric hu hfetch ?_, fun q hq => ?_⟩
  · show (match sqServed s s.hif.fetchTurn l with | some q => fetchFrom s q ok | none => s) = s
    rw [hl]
    rfl
  · intro good
    obtain ⟨hin, hbest⟩ := sqServed_spec hq
    have hq64 : q < 64 := by
      have hmem := List.mem_of_mem_filter hin
      simp only [List.mem_cons, List.mem_map] at hmem
      obtain h | ⟨x, -, h⟩ := hmem
      · exact h ▸ k.isLt
      · exact h ▸ x.isLt
    have hserve : ∀ {P : State → Prop}, P (fetchFrom s q ok) → Runs (.descriptorFetch k ok rivals) s P := fun h => by
      refine runs_fabric hu hfetch ?_
      simp only [show sqServed s s.hif.fetchTurn ((k.val :: rivals.map Fin.val).filter (mayFetch s)) = some q from hq]
      exact h
    refine ⟨hin, hbest, fun hg => hserve ?_, fun hg => hserve ?_⟩
    · rw [show fetchFrom s q ok = if good = true then fetchEntry _ q else fetchFail _ q from rfl, if_pos hg]
      exact fetchEntry_spec hq64 _ rfl
    · rw [show fetchFrom s q ok = if good = true then fetchEntry _ q else fetchFail _ q from rfl, if_neg (by simp [hg])]
      exact fetchFail_spec hq64 _ rfl

end Sys2Proof.Machine
end

section
/-! SUPPORT. Ring set-up and the vectors of the host interface (R446, R452, R464, R474): O46. -/

namespace Sys2Proof.Machine

variable {s : State} {k : Fin 64} {v : Word}

/-! ### Submission rings -/

theorem bit_of_mask {v m : Word} {i : Nat} (h : bit v i = false) : bit (v &&& m) i = false := by
  rw [bit, BitVec.getLsbD_and]
  simp [show v.getLsbD i = false from h]

/-- The fields [31:29] of an SQ's status shown leave the other registers. -/
theorem syncSq_spec (x : State) (hx : HifOnly s x) (hh : x.hif = s.hif) (w : Word) (hw : rd x (R.hifSqCfg k.val) = w) :
    rd (syncSq x k.val) (R.hifSqCfg k.val) = w ∧ (syncSq x k.val).hif = s.hif ∧ SameBytes s (syncSq x k.val) := by
  refine ⟨?_, hh, (hx.syncSq _).sameBytes⟩
  rw [rd_syncSq_other _ (by simp only [R.hifSqStatus, R.hifSqCfg]; omega), hw]

/-- A field of low bits written with 0 reads 0. -/
theorem fld_cleared (w : Word) : fld (setFld w 15 0 0) 15 0 = 0 := fld_setFld_same (by decide) (by decide) (by decide)

theorem enableSq_spec (w : Word) : rd (enableSq s k.val w) (R.hifSqCfg k.val) = w ∧ sqHead (enableSq s k.val w) k.val = 0 ∧
    sqTail (enableSq s k.val w) k.val = 0 ∧ (enableSq s k.val w).hif = s.hif := by
  unfold enableSq
  refine ⟨?_, ?_, ?_, rfl⟩
  · rw [rd_syncSq_other _ (by simp only [R.hifSqStatus, R.hifSqCfg]; omega),
      rd_wf_other _ _ _ _ (by simp only [R.hifSqTail, R.hifSqCfg]; omega),
      rd_wf_other _ _ _ _ (by simp only [R.hifSqStatus, R.hifSqCfg]; omega), rd_wr_same]
  · rw [sqHead_syncSq, sqHead, rf, rd_wf_other _ _ _ _ (by simp only [R.hifSqTail, R.hifSqStatus]; omega), rd_wf_same]
    exact fld_cleared _
  · rw [sqTail, rf, rd_syncSq_other _ (by simp only [R.hifSqStatus, R.hifSqTail]; omega), rd_wf_same]
    exact fld_cleared _

/-- The meaning of SQ_CONFIG_WRITE. -/
theorem exec_sqConfigWrite (hu : s.up = true) : exec (.sqConfigWrite k v) s = .next (
    if sqEn s k.val then
      (if bit v 31 then hifErr s 1 k.val (0x1008 + 0x20 * k.val) else syncSq (wr s (R.hifSqCfg k.val) (v &&& 0xB03F001F)) k.val)
    else if !bit v 31 then wr s (R.hifSqCfg k.val) (v &&& 0xB03F001F)
    else if rb s (R.hifSqStatus k.val) 31 then hifErr s 1 k.val (0x1008 + 0x20 * k.val)
    else if ringOk (fld v 4 0) (rd64 s (R.hifSqBaseLo k.val) (R.hifSqBaseHi k.val)).toNat 64 && cqEn s (fld v 21 16) then
      enableSq s k.val (v &&& 0xB03F001F)
    else hifErr s 0 k.val (0x1008 + 0x20 * k.val)) := by
  rw [show exec (.sqConfigWrite k v) s = execSqConfigWrite k v s from rfl, execSqConfigWrite, fabric_up s hu]

theorem sqConfigWrites (hu : s.up = true) (k : Fin 64) (v : Word) :
    let err := fun (u : State) (b : Nat) => rd u R.hifErr = rd s R.hifErr ||| bitW b ∧ SameBytes s u ∧ u.hif = s.hif
    let base := (rd64 s (R.hifSqBaseLo k.val) (R.hifSqBaseHi k.val)).toNat
    let ok := ringOk (fld v 4 0) base 64 && cqEn s (fld v 21 16)
    let w := v &&& 0xB03F001F
    (bit v 31 = true → sqEn s k.val = true ∨ rb s (R.hifSqStatus k.val) 31 = true → Runs (.sqConfigWrite k v) s fun u =>
      err u 1 ∧ rd u (R.hifSqCfg k.val) = rd s (R.hifSqCfg k.val)) ∧
    (bit v 31 = false → Runs (.sqConfigWrite k v) s fun u => rd u (R.hifSqCfg k.val) = w ∧ u.hif = s.hif ∧ SameBytes s u) ∧
    (bit v 31 = true → sqEn s k.val = false → rb s (R.hifSqStatus k.val) 31 = false → ok = true →
      Runs (.sqConfigWrite k v) s fun u => rd u (R.hifSqCfg k.val) = w ∧ sqHead u k.val = 0 ∧ sqTail u k.val = 0 ∧ u.hif = s.hif) ∧
    (bit v 31 = true → sqEn s k.val = false → rb s (R.hifSqStatus k.val) 31 = false → ok = false →
      Runs (.sqConfigWrite k v) s fun u => err u 0 ∧ sqEn u k.val = false) := by
  have hk := k.isLt
  intro err base ok w
  have hleaves := fun b => hifErr_leaves (s := s) (a := R.hifSqCfg k.val) b k.val (0x1008 + 0x20 * k.val) (by simp only [R.hifSqCfg]; omega)
    (by simp only [R.hifSqCfg]; omega)
  have hset : HifOnly s (wr s (R.hifSqCfg k.val) w) := (HifOnly.refl s).wr _ (by simp only [R.hifSqCfg]; omega)
  refine ⟨fun hv hbusy => runs_next (exec_sqConfigWrite hu) ?_, fun hv => runs_next (exec_sqConfigWrite hu) ?_,
    fun hv he ha hok => runs_next (exec_sqConfigWrite hu) ?_, fun hv he ha hok => runs_next (exec_sqConfigWrite hu) ?_⟩
  · by_cases he : sqEn s k.val = true
    · rw [if_pos he, if_pos hv]
      exact hleaves 1
    · rw [if_neg he, if_neg (by simp [hv]), if_pos (hbusy.resolve_left he)]
      exact hleaves 1
  · by_cases he : sqEn s k.val = true
    · rw [if_pos he, if_neg (by simp [hv])]
      exact syncSq_spec _ hset rfl w (rd_wr_same ..)
    · rw [if_neg he, if_pos (by simp [hv])]
      exact ⟨rd_wr_same .., rfl, hset.sameBytes⟩
  · rw [if_neg (by simp [he]), if_neg (by simp [hv]), if_neg (by simp [ha]), if_pos hok]
    exact enableSq_spec w
  · rw [if_neg (by simp [he]), if_neg (by simp [hv]), if_neg (by simp [ha]), if_neg (by exact ne_true_of_eq_false hok)]
    obtain ⟨herr, hreg⟩ := hleaves 0
    exact ⟨herr, by rw [sqEn, rb, hreg]; exact he⟩

/-! ### Completion rings -/

theorem enableCq_spec (w : Word) : rd (enableCq s k.val w) (R.hifCqCfg k.val) = w ∧ cqHead (enableCq s k.val w) k.val = 0 ∧
    cqTail (enableCq s k.val w) k.val = 0 ∧ rb (enableCq s k.val w) (R.hifCqStatus k.val) 31 = true ∧
    rb (enableCq s k.val w) (R.hifCqStatus k.val) 29 = true ∧ cqOf (enableCq s k.val w) k.val = ⟨[], s.dt.now, none⟩ := by
  generalize hx : setCq (wr (wr (wr s (R.hifCqCfg k.val) w) (R.hifCqStatus k.val) 0xA0000000) (R.hifCqHead k.val) 0) k.val
    ⟨[], s.dt.now, none⟩ = x
  have hu : enableCq s k.val w = syncFull x k.val := hx ▸ rfl
  have hreg : ∀ a, rd x a = rd (wr (wr (wr s (R.hifCqCfg k.val) w) (R.hifCqStatus k.val) 0xA0000000) (R.hifCqHead k.val) 0) a :=
    fun a => hx ▸ rfl
  have hstatus : rd x (R.hifCqStatus k.val) = 0xA0000000 := by
    rw [hreg, rd_wr_other _ _ (by simp only [R.hifCqHead, R.hifCqStatus]; omega), rd_wr_same]
  have hbit : ∀ i, i ≠ 30 → (rd (syncFull x k.val) (R.hifCqStatus k.val)).getLsbD i = (0xA0000000 : Word).getLsbD i := fun i hi => by
    rw [syncFull, rd_wf_same, getLsbD_setFld (by decide) (by decide), if_neg (by omega), hstatus]
  rw [hu]
  refine ⟨?_, ?_, ?_, hbit 31 (by decide), hbit 29 (by decide), ?_⟩
  · rw [syncFull, rd_wf_other _ _ _ _ (by simp only [R.hifCqCfg, R.hifCqStatus]; omega), hreg,
      rd_wr_other _ _ (by simp only [R.hifCqCfg, R.hifCqHead]; omega),
      rd_wr_other _ _ (by simp only [R.hifCqCfg, R.hifCqStatus]; omega), rd_wr_same]
  · rw [cqHead_syncFull, cqHead, rf, hreg, rd_wr_same]
    decide
  · rw [cqTail, rf, fld_congr fun i _ hi => hbit i (by omega)]
    decide
  · rw [← hx]
    exact tabGet_set_same ..

/-- A ring disabled discards what was held for it. -/
theorem cqDisabled (w : Word) (hw : bit w 31 = false) :
    let x := clrBits (wr s (R.hifCqCfg k.val) w) (R.hifCqStatus k.val) (bitW 29)
    let u := releaseHeld x.hif.hold.length x k.val
    rd u (R.hifCqCfg k.val) = w ∧ (∀ c ∈ u.hif.hold, c.cq ≠ k.val) ∧ SameBytes s u := by
  intro x u
  have hcfg : rd x (R.hifCqCfg k.val) = w := by
    rw [rd_clrBits_other _ _ (by simp only [R.hifCqCfg, R.hifCqStatus]; omega), rd_wr_same]
  have hx : HifOnly s x := ((HifOnly.refl s).wr _ (by simp only [R.hifCqCfg]; omega)).clrBits _ (by simp only [R.hifCqStatus]; omega)
  obtain ⟨ho, hc, hall⟩ := releaseHeld_disabled x.hif.hold.length x k.val (by rw [cqEn, rb, hcfg]; exact hw) le_rfl k.isLt
  exact ⟨hc.trans hcfg, hall, (hx.trans ho).sameBytes⟩

/-- The meaning of CQ_CONFIG_WRITE. -/
theorem exec_cqConfigWrite (hu : s.up = true) : exec (.cqConfigWrite k v) s = .next (
    if cqEn s k.val then
      (if bit v 31 || cqNamed s k.val then hifErr s 1 k.val (0x2008 + 0x20 * k.val)
       else
        let s1 := clrBits (wr s (R.hifCqCfg k.val) (v &&& 0xC07F001F)) (R.hifCqStatus k.val) (bitW 29)
        releaseHeld s1.hif.hold.length s1 k.val)
    else if !bit v 31 then wr s (R.hifCqCfg k.val) (v &&& 0xC07F001F)
    else if ringOk (fld v 4 0) (rd64 s (R.hifCqBaseLo k.val) (R.hifCqBaseHi k.val)).toNat 32 then enableCq s k.val (v &&& 0xC07F001F)
    else hifErr s 0 k.val (0x2008 + 0x20 * k.val)) := by
  rw [show exec (.cqConfigWrite k v) s = execCqConfigWrite k v s from rfl, execCqConfigWrite, fabric_up s hu]

theorem cqConfigWrites (hu : s.up = true) (k : Fin 64) (v : Word) :
    let err := fun (u : State) (b : Nat) => rd u R.hifErr = rd s R.hifErr ||| bitW b ∧ SameBytes s u ∧ u.hif = s.hif
    let ok := ringOk (fld v 4 0) (rd64 s (R.hifCqBaseLo k.val) (R.hifCqBaseHi k.val)).toNat 32
    let w := v &&& 0xC07F001F
    (cqEn s k.val = true → bit v 31 = true ∨ cqNamed s k.val = true → Runs (.cqConfigWrite k v) s fun u =>
      err u 1 ∧ rd u (R.hifCqCfg k.val) = rd s (R.hifCqCfg k.val)) ∧
    (cqEn s k.val = true → bit v 31 = false → cqNamed s k.val = false → Runs (.cqConfigWrite k v) s fun u =>
      rd u (R.hifCqCfg k.val) = w ∧ (∀ c ∈ u.hif.hold, c.cq ≠ k.val) ∧ SameBytes s u) ∧
    (cqEn s k.val = false → bit v 31 = false → Runs (.cqConfigWrite k v) s fun u => u = wr s (R.hifCqCfg k.val) w) ∧
    (cqEn s k.val = false → bit v 31 = true → ok = true → Runs (.cqConfigWrite k v) s fun u => rd u (R.hifCqCfg k.val) = w ∧
      cqHead u k.val = 0 ∧ cqTail u k.val = 0 ∧ rb u (R.hifCqStatus k.val) 31 = true ∧ rb u (R.hifCqStatus k.val) 29 = true ∧
      cqOf u k.val = ⟨[], s.dt.now, none⟩) ∧
    (cqEn s k.val = false → bit v 31 = true → ok = false → Runs (.cqConfigWrite k v) s fun u => err u 0 ∧ cqEn u k.val = false) := by
  have hk := k.isLt
  intro err ok w
  have hleaves := fun b => hifErr_leaves (s := s) (a := R.hifCqCfg k.val) b k.val (0x2008 + 0x20 * k.val) (by simp only [R.hifCqCfg]; omega)
    (by simp only [R.hifCqCfg]; omega)
  refine ⟨fun he hbusy => runs_next (exec_cqConfigWrite hu) ?_, fun he hv hn => runs_next (exec_cqConfigWrite hu) ?_,
    fun he hv => runs_next (exec_cqConfigWrite hu) ?_, fun he hv hok => runs_next (exec_cqConfigWrite hu) ?_,
    fun he hv hok => runs_next (exec_cqConfigWrite hu) ?_⟩
  · rw [if_pos he, if_pos (by simpa using hbusy)]
    exact hleaves 1
  · rw [if_pos he, if_neg (by simp [hv, hn])]
    exact cqDisabled w (bit_of_mask hv)
  · rw [if_neg (by simp [he]), if_pos (by simp [hv])]
  · rw [if_neg (by simp [he]), if_neg (by simp [hv]), if_pos hok]
    exact enableCq_spec w
  · rw [if_neg (by simp [he]), if_neg (by simp [hv]), if_neg (by exact ne_true_of_eq_false hok)]
    obtain ⟨herr, hreg⟩ := hleaves 0
    exact ⟨herr, by rw [cqEn, rb, hreg]; exact he⟩

/-! ### Pose and event rings -/

/-- A configuration write of a ring whose command is `outRingWrite`. -/
theorem outRingWrites {c : Instr} {cfg lo hi e : Nat} {m : Word} (hc : exec c s = .next (outRingWrite s cfg lo hi e m v))
    (hlo : 0x300010 ≤ cfg) (hhi : cfg < 0x309000) :
    let err := fun (u : State) (b : Nat) => rd u R.hifErr = rd s R.hifErr ||| bitW b ∧ SameBytes s u ∧ u.hif = s.hif
    let ok := ringOk (fld v 4 0) (rd64 s lo hi).toNat e
    (bit v 31 = true → rb s cfg 31 = true → Runs c s fun u => err u 1 ∧ rd u cfg = rd s cfg) ∧
    (bit v 31 = false ∨ rb s cfg 31 = false ∧ ok = true → Runs c s fun u => u = wr s cfg (v &&& m)) ∧
    (bit v 31 = true → rb s cfg 31 = false → ok = false → Runs c s fun u => err u 0 ∧ rd u cfg = rd s cfg) := by
  intro err ok
  refine ⟨fun hv he => runs_next hc ?_, fun h => runs_next hc ?_, fun hv he hok => runs_next hc ?_⟩
  · simp only [outRingWrite, he, hv, if_true]
    exact hifErr_leaves 1 _ _ hlo hhi
  · obtain hv | ⟨he, hok⟩ := h
    · cases he : rb s cfg 31 <;> simp [outRingWrite, he, hv]
    · simp [outRingWrite, he, show ringOk (fld v 4 0) (rd64 s lo hi).toNat e = true from hok]
  · simp only [outRingWrite, he, hv, show ringOk (fld v 4 0) (rd64 s lo hi).toNat e = false from hok, Bool.not_true, Bool.false_eq_true,
      if_false]
    exact hifErr_leaves 0 _ _ hlo hhi

/-! ### Vectors -/

/-- A vector's pending bit cleared, its mask cleared before. -/
theorem unmaskVec_spec {n : Nat} (hn : n < 128) : rb (unmaskVec s n) (R.hifMsixTable (4 * n + 3)) 0 = false ∧ SameBytes s (unmaskVec s n) ∧
    rb (unmaskVec s n) (R.hifMsixPba (n / 32)) (n % 32) = false ∧
    (rb s (R.hifMsixPba (n / 32)) (n % 32) = true → hostReach s = true → (unmaskVec s n).msixSent = s.msixSent ++ [n]) ∧
    (rb s (R.hifMsixPba (n / 32)) (n % 32) = false → (unmaskVec s n).msixSent = s.msixSent) := by
  have hlt : n / 32 < 4 := by omega
  generalize hx : clrBits s (R.hifMsixTable (4 * n + 3)) 1 = x
  have hsx : HifOnly s x := hx ▸ (HifOnly.refl s).clrBits _ (by simp only [R.hifMsixTable]; omega)
  have hmask : rb x (R.hifMsixTable (4 * n + 3)) 0 = false := by
    rw [← hx, rb, rd_clrBits_same]
    exact bit_and_not_bitW _ (b := 0) (by decide)
  have hsame : ∀ {a}, a ≠ R.hifMsixTable (4 * n + 3) → rd x a = rd s a := fun h => hx ▸ rd_clrBits_other _ _ h
  have hsent : x.msixSent = s.msixSent := hx ▸ rfl
  have hreach : hostReach x = hostReach s := by
    rw [hostReach, hostReach, rb, rb, hsame (by simp only [R.hifStatus, R.hifMsixTable]; omega), ← hx]
    rfl
  unfold unmaskVec
  simp only [hx]
  cases hp : rb s (R.hifMsixPba (n / 32)) (n % 32)
  · simp only [Bool.false_eq_true, if_false]
    refine ⟨hmask, hsx.sameBytes, ?_, nofun, fun _ => hsent⟩
    rw [rb, hsame (by simp only [R.hifMsixTable, R.hifMsixPba]; omega)]
    exact hp
  · simp only [if_true]
    generalize hy : clrBits x (R.hifMsixPba (n / 32)) (bitW (n % 32)) = y
    have hysame : ∀ {a}, a ≠ R.hifMsixPba (n / 32) → rd y a = rd x a := fun h => hy ▸ rd_clrBits_other _ _ h
    have hymask : rb y (R.hifMsixTable (4 * n + 3)) 0 = false := by
      rw [rb, hysame (by simp only [R.hifMsixTable, R.hifMsixPba]; omega)]
      exact hmask
    have hyreach : hostReach y = hostReach s := by
      rw [← hreach, hostReach, hostReach, rb, rb, hysame (by simp only [R.hifStatus, R.hifMsixPba]; omega), ← hy]
      rfl
    have hysent : y.msixSent = s.msixSent := hsent ▸ hy ▸ rfl
    have hregs : ∀ a, rd (msixSend y n) a = rd y a := fun a => by
      unfold msixSend
      rw [hymask]
      simp only [Bool.false_eq_true, if_false]
      split <;> rfl
    refine ⟨?_, ?_, ?_, fun _ hr => ?_, nofun⟩
    · rw [rb, hregs]
      exact hymask
    · exact (hy ▸ (hsx.clrBits _ (by simp only [R.hifMsixPba]; omega)).msixSend _ : HifOnly s (msixSend y n)).sameBytes
    · rw [rb, hregs, ← hy, rd_clrBits_same]
      exact bit_and_not_bitW _ (Nat.mod_lt _ (by decide))
    · rw [msixSent_of_open hymask (hyreach.trans hr), hysent]

/-- Settles O46, one part of the interface after the other. -/
theorem ringsFollowTheirRules : Obligations.RingsFollowTheirRules := by
  intro s hu
  refine ⟨doorbells hu, coalesceAndHold hu, fetches hu, fun k v => ⟨sqConfigWrites hu k v, cqConfigWrites hu k v⟩, fun v x hx => ?_,
    fun v => runs_next (fabric_up s hu (f := fun s => unmaskVec s v.val)) (unmaskVec_spec v.isLt)⟩
  simp only [List.mem_cons, List.not_mem_nil, or_false] at hx
  obtain rfl | rfl := hx
  · exact outRingWrites (fabric_up s hu (f := fun s => outRingWrite s R.hifPoseCfg R.hifPoseLo R.hifPoseHi 128 0x807FFF1F v)) (by decide)
      (by decide)
  · exact outRingWrites (fabric_up s hu (f := fun s => outRingWrite s R.hifEvtCfg R.hifEvtLo R.hifEvtHi 32 0x807F001F v)) (by decide)
      (by decide)

end Sys2Proof.Machine
end

section
/-! SUPPORT. A descriptor in the device stays there, with no store of its own unacknowledged, while others' work goes on
(R223, R261, R262, R460, R461). -/

namespace Sys2Proof.Machine

variable {s t u : State} {d : Nat}

/-- Descriptor `d` is in the device. -/
def inDevice (s : State) (d : Nat) : Prop := ∃ y ∈ s.hif.descs, y.id = d

/-- A descriptor in the device stays in it, and none of its stores comes to wait. -/
structure Carries (d : Nat) (s t : State) : Prop where
  desc : inDevice s d → inDevice t d
  acked : unacked s (.descriptor d) = false → unacked t (.descriptor d) = false

theorem setSg_hif (f : Sg → Sg) : (setSg s f).hif = s.hif := rfl
theorem setSg_memx (f : Sg → Sg) : (setSg s f).memx = s.memx := rfl
theorem syncRuns_hif (g : Nat) : (syncRuns s g).hif = s.hif := rfl
theorem syncRuns_memx (g : Nat) : (syncRuns s g).memx = s.memx := rfl

namespace Carries

theorem refl (s : State) : Carries d s s := ⟨id, id⟩

theorem trans (h : Carries d s t) (g : Carries d t u) : Carries d s u := ⟨g.desc ∘ h.desc, g.acked ∘ h.acked⟩

/-- With the same descriptors and the same stores that wait. -/
theorem of (hd : t.hif.descs = s.hif.descs) (hu : t.memx.unacked = s.memx.unacked) : Carries d s t :=
  ⟨fun h => by rwa [inDevice, hd], fun h => by rwa [unacked, hu]⟩

theorem same (hh : t.hif = s.hif) (hm : t.memx = s.memx) : Carries d s t := of (by rw [hh]) (by rw [hm])

/-- Descriptors changed one by one keep their numbers. -/
theorem mapped {f : Desc → Desc} (hd : t.hif.descs = s.hif.descs.map f) (hf : ∀ x, (f x).id = x.id) (hm : t.memx = s.memx) :
    Carries d s t where
  desc := by
    rintro ⟨y, hy, hid⟩
    exact ⟨f y, hd ▸ List.mem_map_of_mem hy, (hf y).trans hid⟩
  acked h := by rwa [unacked, hm]

theorem foldl {α : Type} {f : State → α → State} (h : ∀ t x, Carries d t (f t x)) (l : List α) (s : State) :
    Carries d s (l.foldl f s) := by
  induction l generalizing s with
  | nil => exact refl s
  | cons x l ih => exact (h s x).trans (ih _)

theorem when {c : Bool} {f : State → State} (h : ∀ t, Carries d t (f t)) (s : State) : Carries d s (Machine.when c f s) := by
  cases c
  · exact refl s
  · exact h s

/-- A step taken under a condition. -/
theorem andWhen {c : Bool} {f : State → State} (h : Carries d s t) (hf : ∀ t, Carries d t (f t)) : Carries d s (Machine.when c f t) :=
  h.trans (when hf t)

/-! ### Reads, stores, signals, records -/

theorem setDesc (s : State) (n : Nat) {f : Desc → Desc} (hf : ∀ x, (f x).id = x.id) : Carries d s (Machine.setDesc s n f) :=
  mapped rfl (fun x => by split <;> simp [hf]) rfl

theorem signal (s : State) (r f : Nat) (n : Word) : Carries d s (Machine.signal s r f n) := by
  unfold Machine.signal
  split
  · exact refl s
  · exact same (by simp) (by simp)

theorem signalAfter (s : State) (rs : List (Nat × Nat)) (r f : Nat) (n : Word) : Carries d s (Machine.signalAfter s rs r f n) := by
  unfold Machine.signalAfter
  split
  · exact signal ..
  · exact of rfl rfl

theorem noteReads (s : State) (l : List (Nat × Nat)) :
    Carries d s (Machine.noteReads s l) ∧ (Machine.noteReads s l).memx = s.memx := by
  induction l generalizing s with
  | nil => exact ⟨refl s, rfl⟩
  | cons r l ih =>
    unfold Machine.noteReads
    split
    · exact ⟨same (by simp) (by simp), by simp⟩
    · split
      · exact ⟨same (by simp) (by simp), by simp⟩
      · obtain ⟨hc, hm⟩ := ih (noteRead s r.1 r.2)
        exact ⟨(same (by simp) (by simp)).trans hc, hm.trans (by simp)⟩

/-! ### Completions -/

theorem cqEvaluate (s : State) (k : Nat) : Carries d s (Machine.cqEvaluate s k) := by
  refine of (cqEvaluate_descs k) ?_
  unfold Machine.cqEvaluate
  dsimp only
  (repeat' split) <;> simp [setCq]

theorem syncOwner (s : State) (c : Completion) : Carries d s (Machine.syncOwner s c) := by
  unfold Machine.syncOwner
  split
  · exact same rfl rfl
  · exact refl s

theorem writeCompletion (s : State) (c : Completion) : Carries d s (Machine.writeCompletion s c) := by
  unfold Machine.writeCompletion
  dsimp only
  refine trans ?_ (cqEvaluate ..)
  split <;> exact of (by simp [syncFull, setCq]) (by simp [syncFull, setCq])

theorem postCompletion (s : State) (c : Completion) : Carries d s (Machine.postCompletion s c) := by
  unfold Machine.postCompletion
  dsimp only
  split
  · exact same rfl rfl
  · split
    · refine ((of rfl rfl : Carries d s { s with hif := { s.hif with hold := s.hif.hold ++ [c] } }).trans (syncOwner _ c)).trans ?_
      split
      · exact same (by simp [cqStall]) (by simp [cqStall])
      · exact same rfl rfl
    · exact writeCompletion ..

/-- The end of a job's work, another's or the descriptor's own. -/
theorem finish (s : State) (o : Owner) (st : Nat) (res : List Byte) : Carries d s (Machine.finish s o st res) := by
  unfold Machine.finish
  split
  · exact of rfl rfl
  · unfold finishNow
    cases o with
    | descriptor n => exact mapped rfl (fun x => by split <;> rfl) rfl
    | gate | coordinator | startGate | firmware => exact same rfl rfl

/-! ### Runs and their aborts -/

theorem syncRuns (s : State) (g : Nat) : Carries d s (Machine.syncRuns s g) := same rfl rfl

theorem setRun (s : State) (r : Run) : Carries d s (Machine.setRun s r) := same rfl rfl

/-- A run that leaves the sequencer. -/
theorem runGone (s : State) (x : Fgs) (g a : Nat) (w : Word) :
    Carries d s (wr (bumpWrap (Machine.syncRuns { s with fgs := x } g) R.fgsRuns) a w) :=
  ((same rfl rfl : Carries d s { s with fgs := x }).trans (syncRuns _ g)).trans (same (by simp) (by simp))

theorem runLeave (s : State) (g : Graph) (r : Run) : Carries d s (Machine.runLeave s g r) := by
  unfold Machine.runLeave
  split
  · exact setRun ..
  · dsimp only
    have hpost : ∀ c, Carries d s (if g.cq = 0xFF then s else Machine.postCompletion s c) := fun c => by
      split
      · exact refl s
      · exact postCompletion ..
    have hshown : ∀ c x a w, Carries d s (Machine.when r.aborted (fun s => setBits s (R.fgsGraphEvent r.graph) 4)
        (Machine.when (decide (0x20 ≤ worstStatus r)) (fun s => setBits s (R.fgsGraphEvent r.graph) 2)
          (wr (bumpWrap (Machine.syncRuns { (if g.cq = 0xFF then s else Machine.postCompletion s c) with fgs := x } r.graph) R.fgsRuns)
            a w))) := fun c x a w =>
      andWhen (andWhen ((hpost c).trans (runGone ..)) fun t => same (by simp) (by simp)) fun t => same (by simp) (by simp)
    split
    · exact (hshown ..).trans (finish ..)
    · exact hshown ..

theorem runEnd (s : State) (g : Graph) (r : Run) : Carries d s (Machine.runEnd s g r) := by
  unfold Machine.runEnd drawNat
  dsimp only
  refine (trans ?_ (signalAfter ..)).trans (runLeave ..)
  exact same (by simp) (by simp)

theorem abortSignals (g : Graph) (n i : Nat) (s : State) (r : Run) : Carries d s (Machine.abortSignals g n i s r).1 := by
  induction n generalizing i s r with
  | zero => exact refl s
  | succ n ih =>
    unfold Machine.abortSignals
    dsimp only
    split
    · exact (signal ..).trans (ih ..)
    · exact ih ..

theorem runCheck (s : State) (g : Graph) (r : Run) : Carries d s (Machine.runCheck s g r) := by
  unfold Machine.runCheck
  split
  · exact setRun ..
  · split
    · exact ((abortSignals ..).trans (setRun ..)).trans (runEnd ..)
    · exact (setRun ..).trans (runEnd ..)

theorem endGate (s : State) (g : Graph) (r : Run) (i st flags : Nat) : Carries d s (Machine.endGate s g r i st flags).1 := by
  unfold Machine.endGate gateTime drawNat
  dsimp only
  refine andWhen (andWhen (andWhen ?_ ?_) ?_) ?_
  · exact same rfl rfl
  · exact fun t => same (by simp) (by simp)
  · exact fun t => same (by simp) (by simp)
  · exact fun t => signal ..

theorem abortGate (s : State) (g : Graph) (r : Run) (i : Nat) : Carries d s (Machine.abortGate s g r i).1 := by
  unfold Machine.abortGate
  dsimp only
  split
  · exact refl s
  · exact endGate ..
  · exact endGate ..
  · exact endGate ..
  · exact (same rfl rfl : Carries d s (dropWaits s (.gate r.id i))).trans (endGate ..)
  · exact (same rfl rfl : Carries d s (setQueue ..)).trans (endGate ..)
  · split
    · exact refl s
    · exact same rfl rfl

theorem abortGates (g : Graph) (n i : Nat) (s : State) (r : Run) : Carries d s (Machine.abortGates g n i s r).1 := by
  induction n generalizing i s r with
  | zero => exact refl s
  | succ n ih => exact (abortGate s g r i).trans (ih ..)

theorem abortRun (s : State) (g : Graph) (r : Run) : Carries d s (Machine.abortRun s g r) := by
  unfold Machine.abortRun
  split
  · exact refl s
  · exact (abortGates ..).trans (runCheck ..)

theorem abortGraph (s : State) (g : Nat) : Carries d s (Machine.abortGraph s g).1 := by
  unfold Machine.abortGraph
  split
  · exact refl s
  · exact foldl (fun t r => abortRun t _ r) _ s

/-! ### Start gates -/

theorem releaseGate (s : State) (n : Nat) (f : Bool) : Carries d s (Machine.releaseGate s n f) :=
  mapped rfl (fun x => by unfold releaseDesc; (repeat' split) <;> rfl) rfl

theorem disarmGate (s : State) (n : Nat) : Carries d s (Machine.disarmGate s n) :=
  (same rfl rfl : Carries d s (wf (setSg s fun g => { g with due := g.due.filter fun d => d.gate != n }) (R.sgGateCtrl n) 0 0 0)).trans
    (releaseGate ..)

theorem launchByGate (s : State) (g c n : Nat) : Carries d s (Machine.launchByGate s g c n).1 := by
  unfold Machine.launchByGate
  split
  · unfold createRun
    split
    · exact refl s
    · exact same (by rw [bumpWrap_hif, syncRuns_hif]) (by rw [bumpWrap_memx, syncRuns_memx])
  · exact same (by simp [fgsErr]) (by simp [fgsErr])
  · exact same (by simp [launchOverrun]) (by simp [launchOverrun])

theorem startPulse (s : State) (p : Nat) (w : Word) (t : DWord) : Carries d s (Machine.startPulse s p w t) := by
  unfold Machine.startPulse
  split
  · exact refl s
  · dsimp only
    split <;> exact same rfl rfl

theorem startGateCopy (s : State) (n c p : Nat) : Carries d s (Machine.startGateCopy s n c p).1 := by
  unfold Machine.startGateCopy
  split
  · exact refl s
  · dsimp only
    exact andWhen (same rfl rfl) fun t => same (by simp) (by simp)

theorem gateAct (s : State) (n : Nat) : Carries d s (Machine.gateAct s n).1 := by
  unfold Machine.gateAct
  dsimp only
  split
  · exact launchByGate ..
  · exact same (by simp) (by simp)
  · exact startPulse ..
  · exact startGateCopy ..
  · split
    · exact refl s
    · split
      · exact refl s
      · exact same rfl rfl

theorem advanced (s : State) (c : Bool) (n k : Nat) :
    Carries d s (if c then advanceGate s n k else wf s (R.sgGateCtrl n) 0 0 0) := by
  split
  · exact same (by rw [advanceGate, bumpN_hif, bumpN_hif, setSg_hif, wr_hif, wr_hif])
      (by rw [advanceGate, bumpN_memx, bumpN_memx, setSg_memx, wr_memx, wr_memx])
  · exact same (by simp) (by simp)

theorem fireGate (s : State) (g : DueGate) : Carries d s (Machine.fireGate s g) := by
  unfold Machine.fireGate
  dsimp only
  refine trans ?_ (releaseGate ..)
  refine trans (andWhen (trans (andWhen (andWhen ?_ ?_) ?_) (gateAct ..)) ?_) (advanced ..)
  · exact same (by rw [wf_hif, wf_hif, bumpWrap_hif, setSg_hif]) (by rw [wf_memx, wf_memx, bumpWrap_memx, setSg_memx])
  · exact fun t => same (by simp) (by simp)
  · exact fun t => same (by simp) (by simp)
  · exact fun t => same (by simp [sgErr]) (by simp [sgErr])

theorem disarmIn (s : State) (n : Nat) (b : Bool) : Carries d s (Machine.disarmIn s n b).1 := by
  unfold Machine.disarmIn
  split
  · split
    · exact (fireGate ..).trans (disarmGate ..)
    · exact disarmGate ..
  · exact disarmGate ..

end Carries

end Sys2Proof.Machine
end

section
/-! SUPPORT. Moves of ranges, loads and unloads carry a descriptor in the device along (R261 to R266, R460). -/

namespace Sys2Proof.Machine

variable {s t u : State} {d : Nat}

theorem startMove_hif (r : Nat) (m : Move) : (startMove s r m).hif = s.hif := rfl

theorem startMove_unacked (r : Nat) (m : Move) : (startMove s r m).memx.unacked = s.memx.unacked := rfl

theorem foldl_hif_memx {α : Type} {f : State → α → State} (h : ∀ t x, (f t x).hif = t.hif ∧ (f t x).memx = t.memx) (l : List α)
    (s : State) : (l.foldl f s).hif = s.hif ∧ (l.foldl f s).memx = s.memx := by
  induction l generalizing s with
  | nil => exact ⟨rfl, rfl⟩
  | cons x l ih =>
    obtain ⟨hh, hm⟩ := ih (f s x)
    obtain ⟨gh, gm⟩ := h s x
    exact ⟨hh.trans gh, hm.trans gm⟩

theorem syncSched_hif_memx (s : State) : (syncSched s).hif = s.hif ∧ (syncSched s).memx = s.memx := by
  unfold syncSched
  extract_lets key put
  have hput : ∀ i v f g m h, (put i v f g m h).hif = s.hif ∧ (put i v f g m h).memx = s.memx := fun i v f g m h =>
    ⟨by simp only [put, wr_hif], by simp only [put, wr_memx]⟩
  clear_value put
  split
  · exact hput ..
  · extract_lets flags
    split
    · exact hput ..
    · exact hput ..

namespace Carries

/-! ### One step after another -/

theorem foldlAfter {α : Type} {f : State → α → State} {l : List α} (h : Carries d s t) (hf : ∀ t x, Carries d t (f t x)) :
    Carries d s (l.foldl f t) := h.trans (foldl hf l t)

theorem wrAfter {a : Nat} {w : Word} (h : Carries d s t) : Carries d s (wr t a w) := h.trans (same (wr_hif ..) (wr_memx ..))

/-! ### Moves -/

theorem moveRange (s : State) (a b : Nat) : Carries d s (Machine.moveRange s a b) := by
  unfold Machine.moveRange
  split
  · exact refl s
  · dsimp only
    have hmet : ∀ l k : List Nat, Carries d s (List.foldl uncorrectable (List.foldl corrected s l) k) := fun l k =>
      foldlAfter (foldl (fun t x => same (by simp) (by simp)) l s) fun t x => same (by simp) (by simp)
    exact (hmet ..).trans (of rfl rfl)

/-- Held stores issued: fewer wait than before. -/
theorem releaseWrites (s : State) (r : Nat) : Carries d s (Machine.releaseWrites s r) := by
  unfold Machine.releaseWrites
  dsimp only
  refine trans ?_ (foldl (fun t e => signal ..) _ _)
  refine trans ?_ (foldl (fun t e => finish ..) _ _)
  obtain ⟨hh, hm⟩ := foldl_hif_memx (f := fun st (e : Nat × Nat × List Byte) => stBytes st e.2.1 e.2.2)
    (fun t x => ⟨stBytes_hif .., stBytes_memx ..⟩)
    (heldStores (s.heldWrites.filter fun e => decide (e.addr / 0x80000 = r)))
    { s with heldWrites := s.heldWrites.filter fun e => !decide (e.addr / 0x80000 = r) }
  generalize (heldStores (s.heldWrites.filter fun e => decide (e.addr / 0x80000 = r))).foldl (fun st e => stBytes st e.2.1 e.2.2)
    { s with heldWrites := s.heldWrites.filter fun e => !decide (e.addr / 0x80000 = r) } = x at hh hm ⊢
  refine ⟨fun h => ?_, fun h => ?_⟩
  · show inDevice x d
    rwa [inDevice, hh]
  · have hx : unacked x (.descriptor d) = false := by rwa [unacked, hm]
    simp only [unacked, List.any_eq_false, List.mem_filter] at hx ⊢
    exact fun e he => hx e he.1

theorem finishMove (s : State) (r : Nat) (m : Move) : Carries d s (Machine.finishMove s r m) := by
  unfold Machine.finishMove
  dsimp only
  have hmoved := moveRange (d := d) s (redirBase (rd s (R.memRedir r))) (redirBase m.target)
  generalize Machine.moveRange s (redirBase (rd s (R.memRedir r))) (redirBase m.target) = x at hmoved ⊢
  have hback : Carries d s (Machine.releaseWrites
      (wr { x with memx := { x.memx with moves := tabSet none x.memx.moves r none } } (R.memRedir r) m.target) r) := by
    refine trans (wrAfter ?_) (releaseWrites ..)
    exact hmoved.trans (of rfl rfl)
  generalize Machine.releaseWrites _ r = y at hback ⊢
  split <;> split
  · exact hback.trans (same (by simp) (by simp))
  · exact hback.trans (same (by simp) (by simp))
  · exact hback.trans (same (by simp) (by simp))
  · exact hback

theorem evacuate (s : State) (j : Nat) : Carries d s (Machine.evacuate s j) := of (by rw [Machine.evacuate, startMove_hif])
  (by rw [Machine.evacuate, startMove_unacked])

/-! ### Placing a package -/

theorem setTtState (s : State) (n v : Nat) : Carries d s (Machine.setTtState s n v) := same rfl rfl

theorem unpark (s : State) (l : Nat) : Carries d s (Machine.unpark s l) := by
  unfold Machine.unpark
  split
  · dsimp only
    have hidle : Carries d s { s with memx := { s.memx with parked := s.memx.parked.filter fun x => x != l } } := of rfl rfl
    generalize ({ s with memx := { s.memx with parked := s.memx.parked.filter fun x => x != l } } : State) = x at hidle ⊢
    split
    · refine trans ?_ (setTtState ..)
      split
      · exact (hidle.trans (evacuate ..)).trans (finishMove ..)
      · exact hidle
    · exact hidle
  · exact refl s

theorem placeSlots (c n top m k : Nat) (s : State) : Carries d s (Machine.placeSlots c n top m k s).1 := by
  induction m generalizing k s with
  | zero => exact refl s
  | succ m ih =>
    unfold Machine.placeSlots
    split
    · dsimp only
      refine trans ?_ (ih ..)
      refine trans (trans ?_ (setTtState ..)) (same (wr_hif ..) (wr_memx ..))
      split
      · exact refl s
      · exact same (wr_hif ..) (wr_memx ..)
    · exact ih ..

theorem wrAll {α : Type} (f : α → Nat) (g : α → Word) (l : List α) (s : State) : Carries d s (l.foldl (fun t x => wr t (f x) (g x)) s) :=
  foldl (fun _ _ => same (wr_hif ..) (wr_memx ..)) l s

theorem placePackage (s : State) (c : Nat) (p : Package) : Carries d s (Machine.placePackage s c p).1 := by
  unfold Machine.placePackage
  dsimp only
  refine trans (trans (trans ?_ (wrAll ..)) (foldl (fun t l => unpark ..) _ _)) (placeSlots ..)
  exact of rfl rfl

/-! ### Granting -/

theorem syncSched (s : State) : Carries d s (Machine.syncSched s) := same (syncSched_hif_memx s).1 (syncSched_hif_memx s).2

theorem placeData (s : State) (l : List PkgDatum) : Carries d s (Machine.placeData s l) :=
  foldl (fun _ _ => same (stBytes_hif ..) (stBytes_memx ..)) l s

theorem grant (s : State) (c : Nat) (n : List (Option Nat)) (p : Package) (h : List Byte) : Carries d s (Machine.grant s c n p h) := by
  unfold Machine.grant
  dsimp only
  refine (trans ?_ (placeData ..) : Carries d s (Machine.placeData _ _)).trans (same rfl rfl)
  have hput : ∀ x : State, Carries d x (if p.aux = [] then x else { x with tfu := { x.tfu with auxDecl := p.aux } }) := fun x => by
    split
    · exact refl x
    · exact same rfl rfl
  refine trans (foldlAfter (foldlAfter (foldlAfter (wrAfter ?_) fun t x => ?_) fun t x => ?_) fun t x => ?_) (hput _)
  · exact of rfl rfl
  · exact same (by rw [putGraph, wr_hif]) (by rw [putGraph, wr_memx])
  · exact (same rfl rfl : Carries d t (setLse t _)).trans (syncSched _)
  · exact same rfl rfl

/-! ### Unloading -/

theorem tileFree (s : State) (n : Nat) : Carries d s (Machine.tileFree s n) :=
  (setTtState s n 3).trans (same rfl rfl)

theorem freeNbr (s : State) (j : Nat) : Carries d s (Machine.freeNbr s j) := by
  unfold Machine.freeNbr
  extract_lets r s1 p s2 s3
  have hmoved : Carries d s s1 := by
    unfold s1
    split
    · exact finishMove ..
    · exact refl s
  clear_value s1
  have hleft : Carries d s1 s2 := by
    unfold s2
    split
    · split
      · exact wrAfter (refl s1)
      · exact refl s1
    · split
      · exact tileFree ..
      · exact setTtState ..
  clear_value s2
  have hcleared : Carries d s s3 := wrAfter (hmoved.trans hleft)
  clear_value s3
  exact hcleared.trans (of rfl rfl)

theorem freeCtx (s : State) (c : Nat) : Carries d s (Machine.freeCtx s c) := by
  unfold Machine.freeCtx
  extract_lets s1 mine s2 s3 s4
  have hgraphs : Carries d s s1 := foldl (fun t g => same (by rw [freeGraph, wr_hif, wr_hif]) (by rw [freeGraph, wr_memx, wr_memx])) _ s
  have hslots : Carries d s s2 := foldlAfter hgraphs fun t j => freeNbr t j
  clear_value s2
  have hwindows : Carries d s s3 := foldlAfter (wrAfter hslots) fun t x => wrAfter (refl t)
  clear_value s3
  refine trans ?_ (syncSched _)
  exact hwindows.trans (of rfl rfl)

theorem dropCopy (s : State) (j : Job) : Carries d s (Machine.dropCopy s j) := by
  unfold Machine.dropCopy
  split
  · exact finish ..
  · exact finish ..
  · exact refl s
  · exact refl s
  · exact refl s

theorem dropWaiting (s : State) (c : Nat) (l : List Job) {put : State → List Job → State} (hp : ∀ x, Carries d s (put s x)) :
    Carries d s (Machine.dropWaiting s c l put) := (hp _).trans (foldl (fun t j => dropCopy t j) _ _)

theorem abortCopies (s : State) (c : Nat) : Carries d s (Machine.abortCopies s c) := by
  refine foldl (fun t e => ?_) _ s
  split
  · split
    · exact same rfl rfl
    · exact refl t
  · exact refl t

theorem abortGraphs (l : List Nat) (q : State × Nat) : Carries d q.1 (l.foldl (fun (q : State × Nat) g =>
    ((Machine.abortGraph q.1 g).1, q.2 + (Machine.abortGraph q.1 g).2)) q).1 := by
  induction l generalizing q with
  | nil => exact refl _
  | cons g l ih => exact (abortGraph q.1 g).trans (ih ((Machine.abortGraph q.1 g).1, q.2 + (Machine.abortGraph q.1 g).2))

theorem setQueue (s : State) (n : Nat) (l : List Job) : Carries d s (Machine.setQueue s n l) := same rfl rfl

theorem setStarted (s : State) (n : Nat) (l : List Job) : Carries d s (Machine.setStarted s n l) := same rfl rfl

theorem abortCtx (s : State) (c : Nat) : Carries d s (Machine.abortCtx s c).1 := by
  unfold Machine.abortCtx
  dsimp only
  exact trans (trans (trans (trans (abortGraphs _ (s, 0)) (dropWaiting _ _ _ fun x => setQueue ..))
    (dropWaiting _ _ _ fun x => setStarted ..)) (dropWaiting _ _ _ fun x => setStarted ..)) (abortCopies ..)

end Carries

end Sys2Proof.Machine
end

section
/-! SUPPORT. How a descriptor's work ends in the host interface, and the opcodes that it works itself (R458 to R462): O48. -/

namespace Sys2Proof.Machine

variable {s t u : State} {d : Nat} {x : Desc}

/-! ### A descriptor in hand -/

theorem findDesc_spec (h : findDesc s d = some x) : x ∈ s.hif.descs ∧ x.id = d :=
  ⟨List.mem_of_find?_eq_some h, by simpa using List.find?_some h⟩

theorem handed_spec {o : Nat} (h : handed s d o = some x) : x ∈ s.hif.descs ∧ x.id = d ∧ x.stage = .waited := by
  obtain ⟨y, hy, hx⟩ := Option.bind_eq_some_iff.mp h
  split at hx
  case isTrue hc =>
    cases hx
    exact ⟨(findDesc_spec hy).1, (findDesc_spec hy).2, hc.1⟩
  case isFalse => cases hx

theorem onDesc_none {o : Nat} {f : Desc → State} (hu : s.up = true) (h : handed s d o = none) : onDesc s d o f = .next s := by
  rw [onDesc, fabric_up s hu, h]

theorem onDesc_some {o : Nat} {f : Desc → State} (hu : s.up = true) (h : handed s d o = some x) : onDesc s d o f = .next (f x) := by
  rw [onDesc, fabric_up s hu, h]

/-- A command that an opcode of a descriptor in hand runs. -/
theorem runs_onDesc {c : Instr} {o : Nat} {f : Desc → State} {P : State → Prop} (hu : s.up = true) (h : handed s d o = some x)
    (hc : exec c s = onDesc s d o f) (hp : P (f x)) : Runs c s P := runs_next (hc.trans (onDesc_some hu h)) hp

/-! ### How its work ends -/

/-- The work of descriptor `d` has ended in `u` with a status and result words, and nothing else of `t` has changed but a status
register of the rings and the aborts asked for. -/
structure EndsIn (d st : Nat) (res : List Byte) (t u : State) : Prop where
  desc : ∃ y ∈ u.hif.descs, y.id = d ∧ y.stage = .ended ∧ y.status = st ∧ y.result = padTo 16 res
  below : ∀ a, a < 0x300000 → rd u a = rd t a
  bytes : SameBytes t u
  sem : u.sem = t.sem
  sg : u.sg = t.sg
  ptp : u.ptp = t.ptp
  memx : u.memx = t.memx
  runs : u.fgs.runs = t.fgs.runs
  queues : u.fgs.queues = t.fgs.queues

theorem EndsIn.ended {st : Nat} {res : List Byte} (h : EndsIn d st res t u) : descEnded u d st := by
  obtain ⟨y, hy, hid, hstage, hst, -⟩ := h.desc
  exact ⟨y, hy, hid, hstage, hst⟩

theorem EndsIn.said {st : Nat} {res : List Byte} (h : EndsIn d st res t u) : ∃ y ∈ u.hif.descs, y.id = d ∧ y.result = padTo 16 res := by
  obtain ⟨y, hy, hid, -, -, hres⟩ := h.desc
  exact ⟨y, hy, hid, hres⟩

theorem endDesc_endsIn (hid : x.id = d) (hin : inDevice t d) (hack : unacked t (.descriptor d) = false) (st : Nat) (res : List Byte) :
    EndsIn d st res t (endDesc t x st res) := by
  obtain ⟨z, hz, hzd⟩ := hin
  unfold endDesc finish
  rw [hid, hack]
  simp only [Bool.false_eq_true, if_false, finishNow]
  generalize hv : setDesc { t with fgs := { t.fgs with abortAsked := t.fgs.abortAsked.filter fun y => y ≠ .descriptor d } } d
    (fun y => { y with stage := .ended, status := st, result := padTo 16 res, endDt := t.dt.now }) = v
  have hsync : ∀ a, a < 0x300000 → rd (syncSq v x.sq) a = rd v a := fun a ha =>
    rd_syncSq_other _ (by simp only [R.hifSqStatus]; omega)
  have hreg : ∀ a, rd v a = rd t a := fun a => hv ▸ rfl
  have htv : HifOnly v (syncSq v x.sq) := (HifOnly.refl v).syncSq _
  refine ⟨⟨{ z with stage := .ended, status := st, result := padTo 16 res, endDt := t.dt.now }, ?_, hzd, rfl, rfl, rfl⟩, fun a ha => (hsync a ha).trans (hreg a), fun a => ?_, hv ▸ rfl, hv ▸ rfl, hv ▸ rfl, hv ▸ rfl,
    hv ▸ rfl, hv ▸ rfl⟩
  · rw [syncSq_hif, ← hv]
    exact List.mem_map.mpr ⟨z, hz, by rw [if_pos hzd]⟩
  · exact (htv.sameBytes a).trans (sameBytes_of_regs (s := t) (t := v) (hv ▸ rfl) (hv ▸ rfl) (hv ▸ rfl) (hv ▸ rfl) a)

/-- The work of a descriptor in hand ends after steps that carry it along. -/
theorem endsIn_after {st : Nat} {res : List Byte} (hx : x ∈ s.hif.descs ∧ x.id = d) (hack : unacked s (.descriptor d) = false)
    (h : Carries d s t) : EndsIn d st res t (endDesc t x st res) :=
  endDesc_endsIn hx.2 (h.desc ⟨x, hx.1, hx.2⟩) (h.acked hack) st res

/-- A descriptor moved to a stage. -/
theorem stageDesc_at (hx : x ∈ s.hif.descs) (g : DescStage) : descAt (stageDesc s x g) x g :=
  ⟨{ x with stage := g }, List.mem_map.mpr ⟨x, hx, if_pos rfl⟩, rfl, rfl, rfl⟩

theorem stageDesc_sameBytes (x : Desc) (g : DescStage) : SameBytes s (stageDesc s x g) :=
  (((HifOnly.rings s _ : HifOnly s (setDesc s x.id fun y => { y with stage := g })).syncSq x.sq)).sameBytes

theorem Carries.stageDesc (s : State) (x : Desc) (g : DescStage) : Carries d s (Machine.stageDesc s x g) :=
  (Carries.setDesc s x.id (f := fun y => { y with stage := g }) fun _ => rfl).trans (same rfl rfl)

/-! ### NOP, CONFIG, LAUNCH, ABORT -/

section
variable (hu : s.up = true) (hack : unacked s (.descriptor d) = false)
include hu hack

theorem nopWorks (h : handed s d 0x00 = some x) : Runs (.nop d) s fun u =>
    descEnded u d (if dZero x 32 32 then 0 else 0x23) ∧ SameBytes s u ∧ u.sem = s.sem ∧ u.fgs.runs = s.fgs.runs := by
  obtain ⟨hx, hid, -⟩ := handed_spec h
  have hend := endsIn_after (st := if dZero x 32 32 then 0 else 0x23) (res := []) ⟨hx, hid⟩ hack (Carries.refl s)
  exact runs_onDesc hu h (f := fun x => endDesc s x (if dZero x 32 32 then 0 else 0x23) []) rfl
    ⟨hend.ended, hend.bytes, hend.sem, hend.runs⟩

omit hu in
/-- A CONFIG of a parameter in hand. -/
theorem configWorks {p : Nat} {lo hi prev : Int} {set : Int → State} (hp : p = 1 ∨ p = 2) (hx : x ∈ s.hif.descs ∧ x.id = d)
    (hset : ∀ v, Carries d s (set v)) :
    let q := rec8 x.bytes 32 2
    let u := configOp s x p lo hi prev set
    (q = p → configForm x = true → lo ≤ configValue x → configValue x ≤ hi → descEnded u d 0 ∧ u.ptp = (set (configValue x)).ptp) ∧
    (q = p → configForm x = false ∨ configValue x < lo ∨ hi < configValue x → descEnded u d 0x23 ∧ u.ptp = s.ptp) ∧
    (q ≠ 1 → q ≠ 2 → descEnded u d 0x23 ∧ u.ptp = s.ptp) := by
  intro q u
  have hbad := endsIn_after (st := 0x23) (res := []) hx hack (Carries.refl s)
  refine ⟨fun hq hf hlo hhi => ?_, fun hq hno => ?_, fun h1 h2 => ?_⟩
  · have hgood := endsIn_after (st := 0) (res := leBytesI 8 prev) hx hack (hset (configValue x))
    have hval : u = endDesc (set (configValue x)) x 0 (leBytesI 8 prev) := by
      show configOp s x p lo hi prev set = _
      simp only [configOp, show rec8 x.bytes 32 2 = p from hq, hf, hlo, hhi, decide_true, Bool.and_self, if_true]
    exact hval ▸ ⟨hgood.ended, hgood.ptp⟩
  · have hval : u = endDesc s x 0x23 [] := by
      have hc : ¬(configForm x && decide (lo ≤ configValue x) && decide (configValue x ≤ hi)) = true := by
        simp only [Bool.and_eq_true, decide_eq_true_eq]
        rintro ⟨⟨hf, hlo⟩, hhi⟩
        rcases hno with h | h | h
        · simp [h] at hf
        · omega
        · omega
      show configOp s x p lo hi prev set = _
      simp only [configOp, show rec8 x.bytes 32 2 = p from hq, if_true, if_neg hc]
    exact hval ▸ ⟨hbad.ended, hbad.ptp⟩
  · have hval : u = endDesc s x 0x23 [] := by
      have hq : rec8 x.bytes 32 2 ≠ p := fun e => hp.elim (fun h => h1 (e.trans h)) fun h => h2 (e.trans h)
      show configOp s x p lo hi prev set = _
      simp only [configOp, if_neg hq, show ¬(rec8 x.bytes 32 2 = 1 ∨ rec8 x.bytes 32 2 = 2) from not_or.mpr ⟨h1, h2⟩, if_false]
    exact hval ▸ ⟨hbad.ended, hbad.ptp⟩

theorem configsWork (h : handed s d 0x01 = some x) : let q := rec8 x.bytes 32 2
    (q = 1 → configForm x = true → -1000000 ≤ configValue x → configValue x ≤ 1000000 → Runs (.configPtpAsym d) s fun u =>
      descEnded u d 0 ∧ u.ptp = { s.ptp with asym := configValue x }) ∧
    (q = 1 → configForm x = false ∨ configValue x < -1000000 ∨ 1000000 < configValue x → Runs (.configPtpAsym d) s fun u =>
      descEnded u d 0x23 ∧ u.ptp = s.ptp) ∧
    (q = 2 → configForm x = true → 2 ≤ configValue x → configValue x ≤ 10 → Runs (.configPtpAnnTmo d) s fun u =>
      descEnded u d 0 ∧ u.ptp = { s.ptp with annTmo := (configValue x).toNat }) ∧
    (q = 2 → configForm x = false ∨ configValue x < 2 ∨ 10 < configValue x → Runs (.configPtpAnnTmo d) s fun u =>
      descEnded u d 0x23 ∧ u.ptp = s.ptp) ∧
    (q ≠ 1 → q ≠ 2 → ∀ c ∈ [Instr.configPtpAsym d, .configPtpAnnTmo d], Runs c s fun u => descEnded u d 0x23 ∧ u.ptp = s.ptp) := by
  obtain ⟨hx, hid, -⟩ := handed_spec h
  obtain ⟨ha1, ha2, ha3⟩ := configWorks (lo := -1000000) (hi := 1000000) (prev := s.ptp.asym)
    (set := fun v => { s with ptp := { s.ptp with asym := v } }) hack (.inl rfl) ⟨hx, hid⟩ fun _ => .same rfl rfl
  obtain ⟨ht1, ht2, ht3⟩ := configWorks (lo := 2) (hi := 10) (prev := s.ptp.annTmo)
    (set := fun v => { s with ptp := { s.ptp with annTmo := v.toNat } }) hack (.inr rfl) ⟨hx, hid⟩ fun _ => .same rfl rfl
  have hasym : exec (.configPtpAsym d) s = .next (configOp s x 1 (-1000000) 1000000 s.ptp.asym
      fun v => { s with ptp := { s.ptp with asym := v } }) := onDesc_some hu h
  have htmo : exec (.configPtpAnnTmo d) s = .next (configOp s x 2 2 10 s.ptp.annTmo
      fun v => { s with ptp := { s.ptp with annTmo := v.toNat } }) := onDesc_some hu h
  refine ⟨fun hq hf hl hh => runs_next hasym (ha1 hq hf hl hh), fun hq hno => runs_next hasym (ha2 hq hno),
    fun hq hf hl hh => runs_next htmo (ht1 hq hf hl hh), fun hq hno => runs_next htmo (ht2 hq hno), fun h1 h2 c hc => ?_⟩
  simp only [List.mem_cons, List.not_mem_nil, or_false] at hc
  obtain rfl | rfl := hc
  · exact runs_next hasym (ha3 h1 h2)
  · exact runs_next htmo (ht3 h1 h2)

end

theorem graphOf_of_accepted {g c : Nat} (h : launchTest s g c = .accepted) : ∃ gr, graphOf s g = some gr := by
  unfold launchTest at h
  split at h
  · cases h
  next gr hg => exact ⟨gr, hg⟩

/-- A launch that is accepted adds its run. -/
theorem createRun_spec {g c : Nat} {gr : Graph} (hg : graphOf s g = some gr) (idx : Nat) (o : Option Nat) :
    (createRun s g c idx o).hif = s.hif ∧ ∃ r, (createRun s g c idx o).fgs.runs = s.fgs.runs ++ [r] ∧ r.graph = g ∧ r.cursor = 0 ∧
      r.desc = o := by
  simp only [createRun, hg]
  exact ⟨by rw [bumpWrap_hif, syncRuns_hif], _, rfl, rfl, rfl, rfl⟩

section
variable (hu : s.up = true) (hack : unacked s (.descriptor d) = false)
include hu hack

theorem launchWorks (h : handed s d 0x20 = some x) : let g := rec8 x.bytes 32 1
    let bad := !dZero x 33 31 || decide (64 ≤ g) || !ctxLoaded s (dCtx x)
    (bad = true → Runs (.launch d) s fun u => descEnded u d 0x23 ∧ u.fgs.runs = s.fgs.runs) ∧
    (bad = false → launchTest s g (dCtx x) = .accepted → Runs (.launch d) s fun u => descAt u x .dispatched ∧
      ∃ r, u.fgs.runs = s.fgs.runs ++ [r] ∧ r.graph = g ∧ r.cursor = 0 ∧ r.desc = some d) ∧
    (bad = false → launchTest s g (dCtx x) = .failed → Runs (.launch d) s fun u => descEnded u d 0x28 ∧ u.fgs.runs = s.fgs.runs ∧
      bit (rd u R.fgsErr) 0 = true) ∧
    (bad = false → launchTest s g (dCtx x) = .overrun → Runs (.launch d) s fun u => descEnded u d 0x28 ∧ u.fgs.runs = s.fgs.runs ∧
      rd u (R.fgsGraphOvr g) = incSat (rd s (R.fgsGraphOvr g))) := by
  intro g bad
  obtain ⟨hx, hid, -⟩ := handed_spec h
  have hexec : exec (.launch d) s = .next (if bad then endDesc s x 0x23 []
      else match launchTest s g (dCtx x) with
        | .accepted => createRun (stageDesc s x .dispatched) g 1 (dTag x) (some x.id)
        | .failed => endDesc (fgsErr s 0 g 0) x 0x28 []
        | .overrun => endDesc (launchOverrun s g) x 0x28 []) := onDesc_some hu h
  refine ⟨fun hb => runs_next hexec ?_, fun hb ht => runs_next hexec ?_, fun hb ht => runs_next hexec ?_,
    fun hb ht => runs_next hexec ?_⟩
  · rw [if_pos hb]
    have hend := endsIn_after (st := 0x23) (res := []) ⟨hx, hid⟩ hack (Carries.refl s)
    exact ⟨hend.ended, hend.runs⟩
  · rw [if_neg (ne_true_of_eq_false hb), ht]
    obtain ⟨gr, hg⟩ := graphOf_of_accepted ht
    obtain ⟨hhif, r, hr, hrest⟩ := createRun_spec (s := stageDesc s x .dispatched) (c := 1) hg (dTag x) (some x.id)
    obtain ⟨y, hy, hyrest⟩ := stageDesc_at hx .dispatched
    exact ⟨⟨y, hhif ▸ hy, hyrest⟩, r, hr, hid ▸ hrest⟩
  · rw [if_neg (ne_true_of_eq_false hb), ht]
    have hend := endsIn_after (st := 0x28) (res := []) (t := fgsErr s 0 g 0) ⟨hx, hid⟩ hack
      (Carries.same (by simp [fgsErr]) (by simp [fgsErr]))
    refine ⟨hend.ended, hend.runs.trans (by simp [fgsErr]), ?_⟩
    rw [hend.below _ (by decide), fgsErr, rd_errInfo_same _ _ _ (by decide)]
    exact bit_or_bitW _ (by decide)
  · rw [if_neg (ne_true_of_eq_false hb), ht]
    have hg : g < 64 := by
      by_contra hge
      simp [bad, g, Nat.le_of_not_lt hge] at hb
    have hend := endsIn_after (st := 0x28) (res := []) (t := launchOverrun s g) ⟨hx, hid⟩ hack
      (Carries.same (by simp [launchOverrun]) (by simp [launchOverrun]))
    refine ⟨hend.ended, hend.runs.trans (by simp [launchOverrun]), ?_⟩
    rw [hend.below _ (by simp only [R.fgsGraphOvr]; omega), launchOverrun, Nat.mod_eq_of_lt hg,
      rd_setBits_other _ _ (by simp only [R.fgsGraphOvr, R.fgsGraphEvent]; omega), rd_bump_same]

theorem abortWorks (h : handed s d 0x21 = some x) : let g := rec8 x.bytes 32 1
    (dZero x 33 31 = false ∨ 64 ≤ g → Runs (.abort d) s fun u => descEnded u d 0x23 ∧ u.fgs.runs = s.fgs.runs) ∧
    (dZero x 33 31 = true → g < 64 → graphOf s g = none → Runs (.abort d) s fun u => descEnded u d 0x23 ∧ bit (rd u R.fgsErr) 1 = true) ∧
    (dZero x 33 31 = true → g < 64 → graphOf s g ≠ none → Runs (.abort d) s fun u => descEnded u d 0 ∧
      ∃ y ∈ u.hif.descs, y.id = d ∧ y.result = padTo 16 (leBytes 4 (runsOf s g).length)) := by
  intro g
  obtain ⟨hx, hid, -⟩ := handed_spec h
  have hexec : exec (.abort d) s = .next (if !dZero x 33 31 || decide (64 ≤ g) then endDesc s x 0x23 []
      else if (graphOf s g).isNone then endDesc (fgsErr s 1 g 0) x 0x23 []
      else endDesc (abortGraph (stageDesc s x .dispatched) g).1 x 0 (leBytes 4 (abortGraph (stageDesc s x .dispatched) g).2)) :=
    onDesc_some hu h
  refine ⟨fun hb => runs_next hexec ?_, fun hz hg hn => runs_next hexec ?_, fun hz hg hn => runs_next hexec ?_⟩
  · rw [if_pos (by simpa using hb)]
    have hend := endsIn_after (st := 0x23) (res := []) ⟨hx, hid⟩ hack (Carries.refl s)
    exact ⟨hend.ended, hend.runs⟩
  · rw [if_neg (by simp [hz, hg]), if_pos (by simp [hn])]
    have hend := endsIn_after (st := 0x23) (res := []) (t := fgsErr s 1 g 0) ⟨hx, hid⟩ hack
      (Carries.same (by simp [fgsErr]) (by simp [fgsErr]))
    refine ⟨hend.ended, ?_⟩
    rw [hend.below _ (by decide), fgsErr, rd_errInfo_same _ _ _ (by decide)]
    exact bit_or_bitW _ (by decide)
  · rw [if_neg (by simp [hz, hg]), if_neg (by simpa using hn)]
    have hcount : (abortGraph (stageDesc s x .dispatched) g).2 = (runsOf s g).length := by
      obtain ⟨gr, hgr⟩ := Option.ne_none_iff_exists'.mp hn
      have hgr' : graphOf (stageDesc s x .dispatched) g = some gr := hgr
      simp only [abortGraph, hgr']
      rfl
    have hend := endsIn_after (st := 0) (res := leBytes 4 (abortGraph (stageDesc s x .dispatched) g).2) ⟨hx, hid⟩ hack
      ((Carries.stageDesc s x .dispatched).trans (Carries.abortGraph _ g))
    exact ⟨hend.ended, hcount ▸ hend.said⟩

end

end Sys2Proof.Machine
end

section
/-! SUPPORT. The opcodes that arm and disarm gates and those that hand jobs to units (R455, R458, R461, R462): O48. -/

namespace Sys2Proof.Machine

variable {s t u : State} {d : Nat} {x : Desc}

/-! ### Fields of 64 bits in two halves -/

theorem leVal_lt (l : List Byte) : leVal l < 256 ^ l.length := by
  induction l with
  | nil => simp [leVal]
  | cons b l ih =>
    have hb := b.isLt
    simp only [leVal, List.length_cons, Nat.pow_succ]
    omega

theorem leVal_take_add (m n : Nat) (l : List Byte) :
    leVal (l.take (m + n)) = leVal (l.take m) + 256 ^ m * leVal ((l.drop m).take n) := by
  induction m generalizing l with
  | zero => simp [leVal]
  | succ m ih =>
    cases l with
    | nil => simp [leVal]
    | cons b l =>
      rw [Nat.add_right_comm, List.take_succ_cons, List.take_succ_cons, List.drop_succ_cons, leVal, leVal, ih, Nat.pow_succ]
      ring

theorem join64_rec8 (l : List Byte) (o : Nat) :
    join64 (BitVec.ofNat 32 (rec8 l (o + 4) 4)) (BitVec.ofNat 32 (rec8 l o 4)) = BitVec.ofNat 64 (rec8 l o 8) := by
  have hsplit : rec8 l o 8 = rec8 l o 4 + 2 ^ 32 * rec8 l (o + 4) 4 := by
    have h := leVal_take_add 4 4 (l.drop o)
    rwa [List.drop_drop] at h
  have hlt : ∀ k, rec8 l k 4 < 2 ^ 32 := fun k => by
    have h := leVal_lt (slice l k 4)
    have hlen : (slice l k 4).length ≤ 4 := by simp [slice]
    exact lt_of_lt_of_le h ((Nat.pow_le_pow_right (by decide) hlen).trans (by decide))
  have hlo := hlt o
  have hhi := hlt (o + 4)
  apply BitVec.eq_of_toNat_eq
  rw [join64, BitVec.toNat_append, ← Nat.shiftLeft_add_eq_or_of_lt (BitVec.isLt _), Nat.shiftLeft_eq]
  simp only [BitVec.toNat_ofNat]
  omega

/-! ### ARM -/

/-- What an ARM writes leaves the arming bit and holds its fire time. -/
theorem writeArm_spec : gateArmed (writeArm s x) (rec8 x.bytes 32 2) = gateArmed s (rec8 x.bytes 32 2) ∧
    gateFire (writeArm s x) (rec8 x.bytes 32 2) = BitVec.ofNat 64 (rec8 x.bytes 40 8) := by
  unfold writeArm
  generalize rec8 x.bytes 32 2 = n
  constructor
  · rw [gateArmed, rb, rd_wr_other _ _ (by simp only [R.sgGateCtrl, R.sgGateArg]; omega),
      rd_wr_other _ _ (by simp only [R.sgGateCtrl, R.sgGatePt]; omega),
      rd_wr_other _ _ (by simp only [R.sgGateCtrl, R.sgGatePeriodNs]; omega),
      rd_wr_other _ _ (by simp only [R.sgGateCtrl, R.sgGateFireHi]; omega),
      rd_wr_other _ _ (by simp only [R.sgGateCtrl, R.sgGateFireLo]; omega), rd_wr_same]
    simp [bit, gateFields, gateArmed, rb]
  · have hlo : ∀ v w : State, rd v (R.sgGateFireLo n) = rd w (R.sgGateFireLo n) → rd v (R.sgGateFireHi n) = rd w (R.sgGateFireHi n) →
        gateFire v n = gateFire w n := fun v w h g => by rw [gateFire, gateFire, rd64, rd64, h, g]
    rw [gateFire, rd64, rd_wr_other _ _ (by simp only [R.sgGateFireHi, R.sgGateArg]; omega),
      rd_wr_other _ _ (by simp only [R.sgGateFireHi, R.sgGatePt]; omega),
      rd_wr_other _ _ (by simp only [R.sgGateFireHi, R.sgGatePeriodNs]; omega), rd_wr_same,
      rd_wr_other _ _ (by simp only [R.sgGateFireLo, R.sgGateArg]; omega),
      rd_wr_other _ _ (by simp only [R.sgGateFireLo, R.sgGatePt]; omega),
      rd_wr_other _ _ (by simp only [R.sgGateFireLo, R.sgGatePeriodNs]; omega),
      rd_wr_other _ _ (by simp only [R.sgGateFireLo, R.sgGateFireHi]; omega), rd_wr_same]
    exact join64_rec8 x.bytes 40

theorem Carries.writeArm (s : State) (x : Desc) : Carries d s (Machine.writeArm s x) :=
  .same (by rw [Machine.writeArm, wr_hif, wr_hif, wr_hif, wr_hif, wr_hif, wr_hif])
    (by rw [Machine.writeArm, wr_memx, wr_memx, wr_memx, wr_memx, wr_memx, wr_memx])

/-- An arm refused changes no gate and carries on. -/
theorem sgErr_gate (b n m : Nat) (hm : m ≤ 511) : gateArmed (sgErr s b n) m = gateArmed s m := by
  rw [gateArmed, rb, sgErr, rd_errInfo_other _ _ _ (by simp only [R.sgGateCtrl, R.sgErr]; omega)
    (by simp only [R.sgGateCtrl, R.sgErrGate]; omega)]
  rfl

theorem gate_of_below {n : Nat} (hn : n ≤ 511) (h : ∀ a, a < 0x300000 → rd u a = rd t a) :
    gateArmed u n = gateArmed t n ∧ gateFire u n = gateFire t n := by
  refine ⟨?_, ?_⟩
  · rw [gateArmed, rb, h _ (by simp only [R.sgGateCtrl]; omega)]
    rfl
  · rw [gateFire, rd64, h _ (by simp only [R.sgGateFireHi]; omega), h _ (by simp only [R.sgGateFireLo]; omega)]
    rfl

theorem rd_endDesc_other {a st : Nat} {res : List Byte} (h : ∀ q, a ≠ R.hifSqStatus q) : rd (endDesc t x st res) a = rd t a := by
  obtain ⟨f, i, p, m, e⟩ := finish_frame t (.descriptor x.id) st res
  rw [endDesc, rd_syncSq_other _ (h _), e]
  rfl

section
variable (hu : s.up = true) (hack : unacked s (.descriptor d) = false)
include hu hack

theorem armWorks (h : handed s d 0x30 = some x) : let n := rec8 x.bytes 32 2
    (armForm s x = false ∨ gateArmed s n = true → Runs (.arm d) s fun u => descEnded u d 0x23 ∧ gateArmed u n = gateArmed s n) ∧
    (armForm s x = true → gateArmed s n = false →
      (armTest (writeArm s x) n = .armed → Runs (.arm d) s fun u => descEnded u d 0 ∧ gateArmed u n = true ∧
        gateFire u n = BitVec.ofNat 64 (rec8 x.bytes 40 8)) ∧
      (armTest (writeArm s x) n = .late → Runs (.arm d) s fun u => descEnded u d 0x29 ∧ gateArmed u n = false) ∧
      (armTest (writeArm s x) n = .badTarget → Runs (.arm d) s fun u => descEnded u d 0x23 ∧ gateArmed u n = false)) := by
  intro n
  obtain ⟨hx, hid, -⟩ := handed_spec h
  have hexec : exec (.arm d) s = .next (if !armForm s x || gateArmed s n then endDesc s x 0x23 []
      else match armGate (writeArm s x) n with
        | (s1, .armed) => endDesc s1 x 0 (leBytes 8 s.dt.now.toNat)
        | (s1, .late) => endDesc s1 x 0x29 []
        | (s1, .badTarget) => endDesc s1 x 0x23 []) := onDesc_some hu h
  refine ⟨fun hb => runs_next hexec ?_, fun hf hg => ?_⟩
  · rw [if_pos (by simpa using hb)]
    have hend := endsIn_after (st := 0x23) (res := []) ⟨hx, hid⟩ hack (Carries.refl s)
    refine ⟨hend.ended, ?_⟩
    rw [gateArmed, rb, rd_endDesc_other fun q => by simp only [R.sgGateCtrl, R.hifSqStatus]; omega]
    rfl
  · have hn : n ≤ 511 := by
      simp only [armForm, Bool.and_eq_true, decide_eq_true_eq] at hf
      obtain ⟨⟨⟨⟨⟨-, hn⟩, -⟩, -⟩, -⟩, -⟩ := hf
      exact hn
    obtain ⟨hkept, hfire⟩ := writeArm_spec (s := s) (x := x)
    have hno : ¬(!armForm s x || gateArmed s n) = true := by simp [hf, hg]
    have hcarry := Carries.writeArm (d := d) s x
    generalize writeArm s x = w at hexec hkept hfire hcarry ⊢
    have hrefused : ∀ b st res, EndsIn d st res (sgErr w b n) (endDesc (sgErr w b n) x st res) ∧
        gateArmed (endDesc (sgErr w b n) x st res) n = false := fun b st res => by
      have hend := endsIn_after (st := st) (res := res) (t := sgErr w b n) ⟨hx, hid⟩ hack
        (hcarry.trans (.same (by simp [sgErr]) (by simp [sgErr])))
      exact ⟨hend, ((gate_of_below hn hend.below).1.trans (sgErr_gate b n n hn)).trans (hkept.trans hg)⟩
    refine ⟨fun ht => runs_next hexec ?_, fun ht => runs_next hexec ?_, fun ht => runs_next hexec ?_⟩
    · rw [if_neg hno]
      simp only [armGate, ht]
      generalize hv : wf (setSg w fun g => { g with phase := tabSet 0 g.phase n 0 }) (R.sgGateCtrl n) 0 0 1 = v
      have hend := endsIn_after (st := 0) (res := leBytes 8 s.dt.now.toNat) (t := v) ⟨hx, hid⟩ hack
        (hcarry.trans (.same (by rw [← hv, wf_hif, setSg_hif]) (by rw [← hv, wf_memx, setSg_memx])))
      obtain ⟨harmed, hfires⟩ := gate_of_below hn hend.below
      refine ⟨hend.ended, harmed.trans ?_, (hfires.trans ?_).trans hfire⟩
      · rw [← hv, gateArmed, rb, rd_wf_same]
        exact bit_setFld_same true (by decide)
      · rw [← hv, gateFire, rd64, rd_wf_other _ _ _ _ (by simp only [R.sgGateFireHi, R.sgGateCtrl]; omega),
          rd_wf_other _ _ _ _ (by simp only [R.sgGateFireLo, R.sgGateCtrl]; omega)]
        rfl
    · rw [if_neg hno]
      simp only [armGate, ht]
      obtain ⟨hend, hoff⟩ := hrefused 0 0x29 []
      exact ⟨hend.ended, hoff⟩
    · rw [if_neg hno]
      simp only [armGate, ht]
      obtain ⟨hend, hoff⟩ := hrefused 2 0x23 []
      exact ⟨hend.ended, hoff⟩

end

/-! ### DISARM -/

/-- A disarmed gate is not armed and not due. -/
theorem disarmGate_spec (s : State) (n : Nat) : gateArmed (disarmGate s n) n = false ∧ ∀ q ∈ (disarmGate s n).sg.due, q.gate ≠ n := by
  refine ⟨?_, fun q hq => ?_⟩
  · show bit (rd (wf (setSg s _) (R.sgGateCtrl n) 0 0 0) (R.sgGateCtrl n)) 0 = false
    rw [rd_wf_same]
    exact bit_clear_same (by decide)
  · have hmem : q ∈ s.sg.due.filter fun d => d.gate != n := hq
    simpa using (List.mem_filter.mp hmem).2

theorem disarmIn_spec (s : State) (n : Nat) (b : Bool) :
    gateArmed (disarmIn s n b).1 n = false ∧ ∀ q ∈ (disarmIn s n b).1.sg.due, q.gate ≠ n := by
  unfold disarmIn
  split
  · split
    · exact disarmGate_spec ..
    · exact disarmGate_spec ..
  · exact disarmGate_spec ..

section
variable (hu : s.up = true) (hack : unacked s (.descriptor d) = false)
include hu hack

theorem disarmWorks (b : Bool) (h : handed s d 0x31 = some x) : let n := rec8 x.bytes 32 2
    let bad := !dZero x 34 30 || decide (n < 32) || decide (511 < n)
    let said := fun (u : State) (v : State) (f : Bool) => descEnded u d 0 ∧
      ∃ y ∈ u.hif.descs, y.id = d ∧ y.result = padTo 16 (disarmResult v n f)
    let z := disarmIn s n b
    (bad = true → Runs (.disarm d b) s fun u => descEnded u d 0x23 ∧ gateArmed u n = gateArmed s n) ∧
    (bad = false → gateArmed s n = false → Runs (.disarm d b) s fun u => said u s (b && (firedNow s).contains n) ∧ u.sg = s.sg) ∧
    (bad = false → gateArmed s n = true → Runs (.disarm d b) s fun u => said u z.1 z.2 ∧ gateArmed u n = false ∧
      ∀ q ∈ u.sg.due, q.gate ≠ n) := by
  intro n bad said z
  obtain ⟨hx, hid, -⟩ := handed_spec h
  have hexec : exec (.disarm d b) s = .next (if bad then endDesc s x 0x23 []
      else if !gateArmed s n then endDesc s x 0 (disarmResult s n (b && (firedNow s).contains n))
      else endDesc z.1 x 0 (disarmResult z.1 n z.2)) := onDesc_some hu h
  refine ⟨fun hb => runs_next hexec ?_, fun hb hg => runs_next hexec ?_, fun hb hg => runs_next hexec ?_⟩
  · rw [if_pos hb]
    have hend := endsIn_after (st := 0x23) (res := []) ⟨hx, hid⟩ hack (Carries.refl s)
    refine ⟨hend.ended, ?_⟩
    rw [gateArmed, rb, rd_endDesc_other fun q => by simp only [R.sgGateCtrl, R.hifSqStatus]; omega]
    rfl
  · rw [if_neg (ne_true_of_eq_false hb), if_pos (by simp [hg])]
    have hend := endsIn_after (st := 0) (res := disarmResult s n (b && (firedNow s).contains n)) ⟨hx, hid⟩ hack (Carries.refl s)
    exact ⟨⟨hend.ended, hend.said⟩, hend.sg⟩
  · rw [if_neg (ne_true_of_eq_false hb), if_neg (by simp [hg])]
    have hn : n ≤ 511 := by
      by_contra hgt
      simp [bad, show 511 < n from Nat.lt_of_not_le hgt] at hb
    obtain ⟨hoff, hdue⟩ := disarmIn_spec s n b
    have hend := endsIn_after (st := 0) (res := disarmResult z.1 n z.2) (t := z.1) ⟨hx, hid⟩ hack (Carries.disarmIn s n b)
    exact ⟨⟨hend.ended, hend.said⟩, (gate_of_below hn hend.below).1.trans hoff, hend.sg ▸ hdue⟩

/-! ### Jobs for units -/

omit hu hack in
theorem setQueue_sameBytes (k : Nat) (l : List Job) : SameBytes t (setQueue t k l) := sameBytes_of_regs rfl rfl rfl rfl

omit hu hack in
/-- A descriptor handed to a unit joins its queue, or waits for room. -/
theorem toQueue_spec (hx : x ∈ s.hif.descs ∧ x.id = d) (k : Nat) (b : List Byte) (l : List Nat) :
    ((queueOf s k).length < 8 → joiningAt s k = [] → descAt (toQueue s x k b l) x .dispatched ∧
      queueOf (toQueue s x k b l) k = queueOf s k ++ [⟨.descriptor d, k, dCtx x, 0, b, none, l⟩] ∧ SameBytes s (toQueue s x k b l)) ∧
    (8 ≤ (queueOf s k).length → descAt (toQueue s x k b l) x .waited ∧ queueOf (toQueue s x k b l) k = queueOf s k ∧
      SameBytes s (toQueue s x k b l)) := by
  obtain ⟨hmem, hid⟩ := hx
  refine ⟨fun hroom hnone => ?_, fun hfull => ?_⟩
  · have hval : toQueue s x k b l = setQueue (stageDesc s x .dispatched) k (queueOf s k ++ [⟨.descriptor d, k, dCtx x, 0, b, none, l⟩]) := by
      rw [toQueue, if_neg (by simpa [queueFull] using hroom), hid]
    rw [hval]
    refine ⟨stageDesc_at hmem .dispatched, ?_, fun a => (setQueue_sameBytes _ _ a).trans (stageDesc_sameBytes x .dispatched a)⟩
    rw [queueOf_setQueue_same, show joiningAt (stageDesc s x .dispatched) k = joiningAt s k from rfl, hnone, List.take_nil, List.append_nil]
  · have hval : toQueue s x k b l = stageDesc s x .waited := by
      rw [toQueue, if_pos (by simpa [queueFull] using hfull)]
    rw [hval]
    exact ⟨stageDesc_at hmem .waited, rfl, stageDesc_sameBytes x .waited⟩

omit hu hack in
/-- A command that hands the descriptor in hand to a unit. -/
theorem joins_of_toQueue {c : Instr} {k : Nat} {b : List Byte} {l : List Nat} (hx : x ∈ s.hif.descs ∧ x.id = d)
    (hc : exec c s = .next (toQueue s x k b l)) :
    ((queueOf s k).length < 8 → joiningAt s k = [] → Runs c s fun u => descAt u x .dispatched ∧
      queueOf u k = queueOf s k ++ [⟨.descriptor d, k, dCtx x, 0, b, none, l⟩] ∧ SameBytes s u) ∧
    (8 ≤ (queueOf s k).length → Runs c s fun u => descAt u x .waited ∧ queueOf u k = queueOf s k ∧ SameBytes s u) := by
  obtain ⟨hjoins, hwaits⟩ := toQueue_spec hx k b l
  exact ⟨fun h g => runs_next hc (hjoins h g), fun h => runs_next hc (hwaits h)⟩

theorem jobsWork :
    let joins := fun (c : Instr) (x : Desc) (k : Nat) (b : List Byte) (l : List Nat) =>
      ((queueOf s k).length < 8 → joiningAt s k = [] → Runs c s fun u => descAt u x .dispatched ∧
        queueOf u k = queueOf s k ++ [⟨.descriptor d, k, dCtx x, 0, b, none, l⟩] ∧ SameBytes s u) ∧
      (8 ≤ (queueOf s k).length → Runs c s fun u => descAt u x .waited ∧ queueOf u k = queueOf s k ∧ SameBytes s u)
    (∀ x, handed s d 0x40 = some x → let m := rec8 x.bytes 32 1
      let k := rec8 x.bytes 34 2
      let ok := dZero x 33 1 && dZero x 36 4 && dZero x 48 16 && ctxLoaded s (dCtx x)
      (ok = true → m = 0 → k ≤ 255 → joins (.descCopy d) x 0x11 ([3, 0] ++ leBytes 2 k ++ leBytes 60 0) []) ∧
      (ok = true → m = 1 → arrayOk s (rec8 x.bytes 40 8) k = true → joins (.descCopy d) x 0x11 (leBytes 64 0) [k, rec8 x.bytes 40 8]) ∧
      (ok = false ∨ 1 < m ∨ m = 0 ∧ 255 < k ∨ m = 1 ∧ arrayOk s (rec8 x.bytes 40 8) k = false →
        Runs (.descCopy d) s fun u => descEnded u d 0x23 ∧ u.fgs.queues = s.fgs.queues)) ∧
    (∀ x, handed s d 0x50 = some x → let ok := dZero x 37 1 && dZero x 58 6 && ctxLoaded s (dCtx x)
      (ok = true → joins (.descSolve d) x 0x13 (solveBlock x.bytes) (deadlineLatch x)) ∧
      (ok = false → Runs (.descSolve d) s fun u => descEnded u d 0x23 ∧ u.fgs.queues = s.fgs.queues)) ∧
    (∀ x, handed s d 0x60 = some x → joins (.descPrs d) x 0x14 (slice x.bytes 32 32 ++ leBytes 32 0) (deadlineLatch x)) ∧
    (∀ x, handed s d 0x70 = some x → joins (.descMst d) x 0x15 (slice x.bytes 32 32 ++ leBytes 32 0) []) := by
  intro joins
  have hrefused : ∀ {x}, x ∈ s.hif.descs ∧ x.id = d → descEnded (endDesc s x 0x23 []) d 0x23 ∧
      (endDesc s x 0x23 []).fgs.queues = s.fgs.queues := fun hx => by
    have hend := endsIn_after (st := 0x23) (res := []) hx hack (Carries.refl s)
    exact ⟨hend.ended, hend.queues⟩
  refine ⟨fun x h => ?_, fun x h => ?_, fun x h => ?_, fun x h => ?_⟩ <;> obtain ⟨hx, hid, -⟩ := handed_spec h
  · intro m k ok
    have hexec : exec (.descCopy d) s = .next (
        if !dZero x 33 1 || !dZero x 36 4 || !dZero x 48 16 || !ctxLoaded s (dCtx x) then endDesc s x 0x23 []
        else if m = 0 ∧ k ≤ 255 then toQueue s x 0x11 ([3, 0] ++ leBytes 2 k ++ leBytes 60 0) []
        else if m = 1 ∧ arrayOk s (rec8 x.bytes 40 8) k = true then toQueue s x 0x11 (leBytes 64 0) [k, rec8 x.bytes 40 8]
        else endDesc s x 0x23 []) := onDesc_some hu h
    have hform : (!dZero x 33 1 || !dZero x 36 4 || !dZero x 48 16 || !ctxLoaded s (dCtx x)) = !ok := by simp [ok, Bool.not_and]
    rw [hform] at hexec
    refine ⟨fun hok hm hk => joins_of_toQueue ⟨hx, hid⟩ ?_, fun hok hm ha => joins_of_toQueue ⟨hx, hid⟩ ?_,
      fun hno => runs_next hexec ?_⟩
    · rw [hexec, if_neg (by simp [hok]), if_pos ⟨hm, hk⟩]
    · rw [hexec, if_neg (by simp [hok]), if_neg (by omega), if_pos ⟨hm, ha⟩]
    · cases hok : ok
      · exact hrefused ⟨hx, hid⟩
      · have hrest := hno.resolve_left (by simp [hok])
        rw [if_neg (by simp), if_neg (by omega), if_neg ?_]
        · exact hrefused ⟨hx, hid⟩
        · rintro ⟨hm, ha⟩
          obtain h | h | h := hrest
          · omega
          · omega
          · simp [ha] at h
  · intro ok
    have hexec : exec (.descSolve d) s = .next (if !dZero x 37 1 || !dZero x 58 6 || !ctxLoaded s (dCtx x) then endDesc s x 0x23 []
        else toQueue s x 0x13 (solveBlock x.bytes) (deadlineLatch x)) := onDesc_some hu h
    have hform : (!dZero x 37 1 || !dZero x 58 6 || !ctxLoaded s (dCtx x)) = !ok := by simp [ok, Bool.not_and]
    rw [hform] at hexec
    refine ⟨fun hok => joins_of_toQueue ⟨hx, hid⟩ ?_, fun hok => runs_next hexec ?_⟩
    · rw [hexec, if_neg (by simp [hok])]
    · rw [if_pos (by simp [hok])]
      exact hrefused ⟨hx, hid⟩
  · exact joins_of_toQueue ⟨hx, hid⟩ (onDesc_some hu h)
  · exact joins_of_toQueue ⟨hx, hid⟩ (onDesc_some hu h)

end

end Sys2Proof.Machine
end

section
/-! SUPPORT. LOAD and UNLOAD (R256, R261, R460, R486), and the opcodes together: O48. -/

namespace Sys2Proof.Machine

variable {s t u : State} {d : Nat} {x : Desc}

/-! ### LOAD -/

/-- A package granted: its context is loaded. -/
theorem ctxLoaded_grant (s : State) (c : Nat) (n : List (Option Nat)) (p : Package) (h : List Byte) :
    ctxLoaded (grant s c n p h) c = true := by
  unfold grant
  extract_lets slots x m s1 s2 s3 tf s4
  have h1 : s1.memx.ctx = tabSet none s.memx.ctx c (some x) := by
    unfold s1
    rw [wr_memx]
  have h2 : s2.memx = s1.memx := (foldl_hif_memx (fun t y => ⟨by rw [putGraph, wr_hif], by rw [putGraph, wr_memx]⟩) _ s1).2
  have hscheds : (p.scheds.foldl (putSched c) s2).memx = s2.memx :=
    (foldl_hif_memx (f := putSched c) (fun t y => ⟨(syncSched_hif_memx _).1, (syncSched_hif_memx _).2⟩) p.scheds s2).2
  have h3 : s3.memx = s2.memx := (foldl_hif_memx (f := putSolve c) (fun t y => ⟨rfl, rfl⟩) p.solves _).2.trans hscheds
  have h4 : s4.memx = s3.memx := by
    unfold s4
    split <;> rfl
  have h5 : (placeData s4 p.data).memx = s4.memx := (foldl_hif_memx (fun t y => ⟨stBytes_hif .., stBytes_memx ..⟩) _ s4).2
  show (tabGet none (placeData s4 p.data).memx.ctx c).isSome = true
  rw [h5, h4, h3, h2, h1, tabGet_set_same]
  rfl

section
variable {c : Nat} {p : Package} {h : List Byte}

/-- A package whose content is bad changes MEM_ERR alone. -/
theorem loadPhases_bad (hg : (goodContent c (placePackage s c p)).1 = false) :
    ∃ v w, loadPhases s c p h = (wr (wr s R.memErr v) R.memErrInfo w, 0x23, []) :=
  ⟨rd (goodContent c (placePackage s c p)).2 R.memErr, rd (goodContent c (placePackage s c p)).2 R.memErrInfo,
    by simp only [loadPhases, hg, Bool.not_false, if_true]⟩

/-- A package for which there is no room changes nothing. -/
theorem loadPhases_full (hg : (goodContent c (placePackage s c p)).1 = true)
    (hr : ((nofit s c p).isNone && decide (p.graphs.length ≤ (freeGraphs s).length)) = false) :
    ∃ w, loadPhases s c p h = (s, 0x21, w) := by
  simp only [loadPhases, hg, Bool.not_true, Bool.false_eq_true, if_false]
  split
  next w _ => exact ⟨w, rfl⟩
  next hn =>
    rw [hn] at hr
    exact ⟨_, if_pos (Nat.lt_of_not_le (by simpa using hr))⟩

/-- A package that fits is granted. -/
theorem loadPhases_granted (hg : (goodContent c (placePackage s c p)).1 = true)
    (hr : ((nofit s c p).isNone && decide (p.graphs.length ≤ (freeGraphs s).length)) = true) :
    loadPhases s c p h =
      (grant (placePackage s c p).1 c (placePackage s c p).2.1 (placePackage s c p).2.2 h, 0, []) := by
  rw [Bool.and_eq_true, Option.isNone_iff_eq_none, decide_eq_true_eq] at hr
  obtain ⟨hn, hf⟩ := hr
  simp only [loadPhases, hg, hn, Bool.not_true, Bool.false_eq_true, if_false, if_neg (Nat.not_lt.mpr hf)]

end

theorem Carries.authFail (s : State) (c r v : Nat) : Carries d s (Machine.authFail s c r v) ∧ (Machine.authFail s c r v).memx = s.memx := by
  have hmemx : (Machine.authFail s c r v).memx = s.memx := by
    rw [Machine.authFail, secRec, bbx_memx, wr_memx, secEvent, setBits_memx, bump_memx]
  exact ⟨.same (by rw [Machine.authFail, secRec, bbx_hif, wr_hif, secEvent, setBits_hif, bump_hif]) hmemx, hmemx⟩

section
variable (hu : s.up = true) (hack : unacked s (.descriptor d) = false)
include hu hack

theorem loadWorks (p : Package) (h : handed s d 0x10 = some x) : let c := dCtx x
    let a := rec8 x.bytes 32 8
    let n := rec8 x.bytes 40 4
    let s1 := noteReads s [(a, n)]
    let why := packageReason s1 n (ldBytes s1 a 512) (ldBytes s1 (a + 512) (n - 512))
    let good := (goodContent c (placePackage s1 c p)).1
    let room := (nofit s1 c p).isNone && decide (p.graphs.length ≤ (freeGraphs s1).length)
    let run := fun P => Runs (.load d p) s P
    (loadForm s x = false ∨ ctxLoaded s c = true → run fun u => descEnded u d 0x23 ∧ u.memx = s.memx) ∧
    (loadForm s x = true → ctxLoaded s c = false →
      (s.safe.switching ≠ none → run fun u => descEnded u d 0x26 ∧ u.memx = s.memx) ∧
      (s.safe.switching = none →
        (badData s [(a, n)] = true → run fun u => descEnded u d 0x26 ∧ u.memx = s.memx) ∧
        (badData s [(a, n)] = false → why ≠ none → run fun u => descEnded u d 0x27 ∧ u.memx = s.memx) ∧
        (badData s [(a, n)] = false → why = none →
          (good = false → run fun u => descEnded u d 0x23 ∧ u.memx = s.memx) ∧
          (good = true → room = false → run fun u => descEnded u d 0x21 ∧ u.memx = s.memx) ∧
          (good = true → room = true → run fun u => descEnded u d 0 ∧ ctxLoaded u c = true)))) := by
  intro c a n s1 why good room run
  obtain ⟨hx, hid, -⟩ := handed_spec h
  obtain ⟨hcarry, hmemx⟩ := Carries.noteReads (d := d) s [(a, n)]
  have hexec : exec (.load d p) s = .next (if !loadForm s x || ctxLoaded s c then endDesc s x 0x23 []
      else if s.safe.switching.isSome then endDesc s x 0x26 []
      else if badData s [(a, n)] then endDesc s1 x 0x26 []
      else match why with
        | some r => endDesc (authFail s1 c r (imgSvn (ldBytes s1 a 512))) x 0x27 []
        | none => endDesc (loadPhases s1 c p (slice (ldBytes s1 a 512) 16 48)).1 x (loadPhases s1 c p (slice (ldBytes s1 a 512) 16 48)).2.1
            (loadPhases s1 c p (slice (ldBytes s1 a 512) 16 48)).2.2) := onDesc_some hu h
  have hends : ∀ {t} {st : Nat} {res : List Byte}, Carries d s t → t.memx = s.memx → descEnded (endDesc t x st res) d st ∧ (endDesc t x st res).memx = s.memx :=
    fun {_ st res} hc hm => by
      have hend := endsIn_after (st := st) (res := res) ⟨hx, hid⟩ hack hc
      exact ⟨hend.ended, hend.memx.trans hm⟩
  refine ⟨fun hb => runs_next hexec ?_, fun hf hl => ⟨fun hs => runs_next hexec ?_, fun hs =>
    ⟨fun hb => runs_next hexec ?_, fun hb hw => runs_next hexec ?_, fun hb hw => ?_⟩⟩⟩
  · rw [if_pos (by simpa using hb)]
    exact hends (.refl s) rfl
  · rw [if_neg (by simp [hf, hl]), if_pos (Option.isSome_iff_ne_none.mpr hs)]
    exact hends (.refl s) rfl
  · rw [if_neg (by simp [hf, hl]), if_neg (by simp [hs]), if_pos hb]
    exact hends hcarry hmemx
  · obtain ⟨r, hr⟩ := Option.ne_none_iff_exists'.mp hw
    rw [if_neg (by simp [hf, hl]), if_neg (by simp [hs]), if_neg (ne_true_of_eq_false hb), hr]
    obtain ⟨hauth, hsame⟩ := Carries.authFail (d := d) s1 c r (imgSvn (ldBytes s1 a 512))
    exact hends (hcarry.trans hauth) (hsame.trans hmemx)
  · rw [if_neg (by simp [hf, hl]), if_neg (by simp [hs]), if_neg (ne_true_of_eq_false hb), hw] at hexec
    refine ⟨fun hg => runs_next hexec ?_, fun hg hr => runs_next hexec ?_, fun hg hr => runs_next hexec ?_⟩
    · obtain ⟨v, w, he⟩ := loadPhases_bad (h := slice (ldBytes s1 a 512) 16 48) hg
      rw [he]
      exact hends (hcarry.trans (.same (by rw [wr_hif, wr_hif]) (by rw [wr_memx, wr_memx]))) (by rw [wr_memx, wr_memx]; exact hmemx)
    · obtain ⟨w, he⟩ := loadPhases_full (h := slice (ldBytes s1 a 512) 16 48) hg hr
      rw [he]
      exact hends hcarry hmemx
    · rw [loadPhases_granted hg hr]
      have hend := endsIn_after (st := 0) (res := []) ⟨hx, hid⟩ hack
        ((hcarry.trans (Carries.placePackage s1 c p)).trans (Carries.grant _ c (placePackage s1 c p).2.1 (placePackage s1 c p).2.2
          (slice (ldBytes s1 a 512) 16 48)))
      exact ⟨hend.ended, by rw [ctxLoaded, hend.memx]; exact ctxLoaded_grant ..⟩

end

/-! ### UNLOAD -/

theorem ctxLoaded_freeCtx (s : State) (c : Nat) : ctxLoaded (freeCtx s c) c = false := by
  unfold freeCtx
  extract_lets s1 mine s2 s3 s4
  rw [ctxLoaded, (syncSched_hif_memx _).2]
  show (tabGet none (tabSet none s3.memx.ctx c none) c).isSome = false
  rw [tabGet_set_same]
  rfl

/-- No run is in flight and no copy job runs. -/
def noWork (s : State) : Prop := s.fgs.runs = [] ∧ ∀ e, ceJob s e = none

theorem ctxBusy_of_noWork (h : noWork s) (c : Nat) : ctxBusy s c = false := by
  obtain ⟨hruns, hce⟩ := h
  simp [ctxBusy, hruns, hce]

/-- The end of a job starts no work. -/
theorem noWork_finish (h : noWork s) (o : Owner) (st : Nat) (l : List Byte) : noWork (finish s o st l) := by
  unfold finish
  split
  · exact h
  · unfold finishNow
    cases o <;> exact h

theorem noWork_dropWaiting {put : State → List Job → State} (hp : ∀ l, noWork (put s l)) (c : Nat) (l : List Job) :
    noWork (dropWaiting s c l put) := by
  refine List.foldlRecOn (motive := noWork) _ _ (hp _) fun t ht j _ => ?_
  unfold dropCopy
  split
  · exact noWork_finish ht ..
  · exact noWork_finish ht ..
  · exact ht
  · exact ht
  · exact ht

theorem abortGraph_still (h : s.fgs.runs = []) (g : Nat) : (abortGraph s g).1 = s := by
  unfold abortGraph
  split
  · rfl
  · simp [runsOf, h]

/-- The aborts of a context start no work. -/
theorem noWork_abortCtx (h : noWork s) (c : Nat) : noWork (abortCtx s c).1 := by
  have hgraphs : ∀ (l : List Nat) (q : State × Nat), noWork q.1 → noWork (l.foldl (fun (q : State × Nat) g =>
      ((abortGraph q.1 g).1, q.2 + (abortGraph q.1 g).2)) q).1 := fun l => by
    induction l with
    | nil => exact fun q hq => hq
    | cons g l ih => exact fun q hq => ih _ (by rw [abortGraph_still hq.1]; exact hq)
  have hcopies : ∀ t, noWork t → noWork (abortCopies t c) := fun t ht => by
    refine List.foldlRecOn (motive := noWork) _ _ ht fun v hv e _ => ?_
    rw [hv.2 e]
    exact hv
  have hstarted : ∀ t k l, noWork t → noWork (setStarted t k l) := fun _ _ _ ht => ht
  have hqueue : ∀ t k l, noWork t → noWork (setQueue t k l) := fun _ _ _ ht => ht
  have haborted := hgraphs (ctxGraphs s c) (s, 0) h
  unfold abortCtx
  dsimp only
  exact hcopies _ (noWork_dropWaiting (fun l => hstarted _ sgCopyKey l (noWork_dropWaiting (fun l => hstarted _ 0x11 l
    (noWork_dropWaiting (fun l => hqueue _ 0x11 l haborted) ..)) ..)) ..)

section
variable (hu : s.up = true) (hack : unacked s (.descriptor d) = false)
include hu hack

theorem unloadWorks (h : findDesc s d = some x) (ho : dOpcode x = 0x11) :
    (x.stage = .waited → cqRoom s x.cq = true → dZero x 32 32 = false → Runs (.unload d) s fun u => descEnded u d 0x23 ∧ u.memx = s.memx) ∧
    (x.stage = .waited → cqRoom s x.cq = true → dZero x 32 32 = true →
      (ctxLoaded s (dCtx x) = false → Runs (.unload d) s fun u => descEnded u d 0 ∧ u.memx = s.memx) ∧
      (ctxLoaded s (dCtx x) = true → s.fgs.runs = [] → (∀ e, ceJob s e = none) →
        Runs (.unload d) s fun u => descEnded u d 0 ∧ ctxLoaded u (dCtx x) = false)) ∧
    (x.stage = .dispatched → ctxBusy s (dCtx x) = false → Runs (.unload d) s fun u => descEnded u d 0 ∧ ctxLoaded u (dCtx x) = false) ∧
    (x.stage = .dispatched → ctxBusy s (dCtx x) = true → Runs (.unload d) s fun u => u = s) := by
  have hx := findDesc_spec h
  generalize hz : abortCtx (stageDesc s x .dispatched) (dCtx x) = z
  have hexec : exec (.unload d) s = .next (if x.stage = .waited ∧ cqRoom s x.cq = true then
        (if !dZero x 32 32 then endDesc s x 0x23 []
         else if !ctxLoaded s (dCtx x) then endDesc s x 0 []
         else if ctxBusy z.1 (dCtx x) then setDesc z.1 d fun y => { y with result := leBytes 4 z.2 }
         else endDesc (freeCtx z.1 (dCtx x)) x 0 (leBytes 4 z.2))
      else if x.stage = .dispatched ∧ ctxBusy s (dCtx x) = false then endDesc (freeCtx s (dCtx x)) x 0 x.result
      else s) := by
    rw [show exec (.unload d) s = execUnload d s from rfl, execUnload, fabric_up s hu, h, ← hz]
    simp only [ho, ne_eq, not_true_eq_false, if_false]
  have hfreed : ∀ {t} {res : List Byte}, Carries d s t → descEnded (endDesc (freeCtx t (dCtx x)) x 0 res) d 0 ∧
      ctxLoaded (endDesc (freeCtx t (dCtx x)) x 0 res) (dCtx x) = false := fun {_ res} hc => by
    have hend := endsIn_after (st := 0) (res := res) hx hack (hc.trans (Carries.freeCtx _ (dCtx x)))
    exact ⟨hend.ended, by rw [ctxLoaded, hend.memx]; exact ctxLoaded_freeCtx ..⟩
  refine ⟨fun hst hr hf => runs_next hexec ?_, fun hst hr hf => ⟨fun hl => runs_next hexec ?_, fun hl hruns hce => runs_next hexec ?_⟩,
    fun hst hb => runs_next hexec ?_, fun hst hb => runs_next hexec ?_⟩
  · rw [if_pos ⟨hst, hr⟩, if_pos (by simp [hf])]
    have hend := endsIn_after (st := 0x23) (res := []) hx hack (Carries.refl s)
    exact ⟨hend.ended, hend.memx⟩
  · rw [if_pos ⟨hst, hr⟩, if_neg (by simp [hf]), if_pos (by simp [hl])]
    have hend := endsIn_after (st := 0) (res := []) hx hack (Carries.refl s)
    exact ⟨hend.ended, hend.memx⟩
  · have hidle : ctxBusy z.1 (dCtx x) = false := by
      rw [← hz]
      exact ctxBusy_of_noWork (noWork_abortCtx (s := stageDesc s x .dispatched) ⟨hruns, hce⟩ _) _
    rw [if_pos ⟨hst, hr⟩, if_neg (by simp [hf]), if_neg (by simp [hl]), if_neg (ne_true_of_eq_false hidle)]
    exact hfreed (hz ▸ (Carries.stageDesc s x .dispatched).trans (Carries.abortCtx _ _))
  · rw [if_neg (by simp [hst]), if_pos ⟨hst, hb⟩]
    exact hfreed (.refl s)
  · rw [if_neg (by simp [hst]), if_neg (by simp [hb])]

end

/-- A command of an opcode that no descriptor in hand carries changes nothing. -/
theorem nothingHanded (hu : s.up = true) (p : Package) : ∀ x ∈ [(Instr.nop d, 0x00), (.configPtpAsym d, 0x01), (.configPtpAnnTmo d, 0x01),
    (.launch d, 0x20), (.abort d, 0x21), (.arm d, 0x30), (.disarm d true, 0x31), (.disarm d false, 0x31), (.descCopy d, 0x40),
    (.descSolve d, 0x50), (.descPrs d, 0x60), (.descMst d, 0x70), (.load d p, 0x10)],
    handed s d x.2 = none → Runs x.1 s fun u => u = s := by
  simp only [List.forall_mem_cons, List.not_mem_nil, IsEmpty.forall_iff, implies_true, and_true]
  refine ⟨?_, ?_, ?_, ?_, ?_, ?_, ?_, ?_, ?_, ?_, ?_, ?_, ?_⟩ <;> exact fun h => runs_next (onDesc_none hu h) rfl

/-- Settles O48, opcode by opcode. -/
theorem opcodesDoTheirWork : Obligations.OpcodesDoTheirWork := by
  intro s d hu hack
  exact ⟨nothingHanded hu, fun _ h => nopWorks hu hack h, fun _ h => configsWork hu hack h, fun _ h => launchWorks hu hack h,
    fun _ h => abortWorks hu hack h, fun _ h => armWorks hu hack h, fun _ b h => disarmWorks hu hack b h, jobsWork hu hack,
    fun _ p h => loadWorks hu hack p h, fun _ h ho => unloadWorks hu hack h ho⟩

end Sys2Proof.Machine
end

section
/-! SUPPORT. What stands while the track-filter unit works on a job: its own registers where memory's errors are counted, the job lists
and completions, and how a job leaves the unit (R255, R277, R294, R295). -/

namespace Sys2Proof.Machine

variable {s t u : State} {a n : Nat}

/-! ### Registers that no access to memory writes (R255, R277, R279) -/

/-- A register above the GDR block that counts no error of memory. -/
structure Unnoted (a : Nat) : Prop where
  above : 0x1A0000 ≤ a
  lse : a ≠ R.lseMemEccCorr ∧ a ≠ R.lseMemEccUncorr
  tile : ∀ k, a ≠ R.ttEccCorr k

/-- The registers of a block at or above the GDR block whose low bits no counter of a tile has. -/
theorem unnoted_of_mod (h : 0x1A0000 ≤ a) (hlse : a < 0x1C0000 ∨ 0x1D0000 ≤ a) (hmod : a % 0x1000 ≠ 0x020) : Unnoted a :=
  ⟨h, by simp only [R.lseMemEccCorr, R.lseMemEccUncorr]; omega, fun k => by simp only [R.ttEccCorr]; omega⟩

theorem channelOf_lt (p : Nat) : channelOf p < 16 :=
  Nat.xor_lt_two_pow (n := 4) (Nat.mod_lt _ (by decide)) (Nat.mod_lt _ (by decide))

/-- An access meets the failing bursts of the 16 channels alone (R276). -/
theorem lt_of_firstOn {p ch line : Nat} (h : firstOn p n ch = some line) : ch < 16 := by
  unfold firstOn at h
  split at h
  · cases h
  · obtain ⟨i, hi, -⟩ := Option.map_eq_some_iff.mp h
    have hch := List.find?_some hi
    rw [beq_iff_eq] at hch
    exact hch ▸ channelOf_lt _

namespace Unnoted

theorem rd_corrected (ha : Unnoted a) (v : Nat) : rd (corrected s v) a = rd s a := by
  by_cases hv : gdrBase ≤ v
  · exact rd_corrected_above v hv ha.above
  · have hslab := ha.above
    rw [corrected, if_neg hv]
    repeat' split
    · exact rd_bump_other s ha.lse.1
    · exact rd_bump_other s (by simp only [R.memSlabEccCorr]; omega)
    · exact rd_bump_other s (ha.tile _)

theorem rd_uncorrectable (ha : Unnoted a) (v : Nat) : rd (uncorrectable s v) a = rd s a := by
  by_cases hv : gdrBase ≤ v
  · exact rd_uncorrectable_above v hv ha.above
  · have hslab := ha.above
    rw [uncorrectable, if_neg hv]
    repeat' split
    · exact rd_bump_other s ha.lse.2
    · exact rd_bump_other s (by simp only [R.memSlabEccUncorr]; omega)
    · rfl

theorem rd_retrain (ha : Unnoted a) {c : Nat} (hc : c < 16) (ok : Bool) : rd (retrain s c ok) a = rd s a := by
  have habove := ha.above
  have hheld : rd (setBits (bump s R.gdrRetrainCnt) (R.gdrChStatus c) 2) a = rd s a := by
    rw [rd_setBits_other _ _ (by simp only [R.gdrChStatus]; omega), rd_bump_other _ (by simp only [R.gdrRetrainCnt]; omega)]
  unfold retrain
  dsimp only
  split
  · exact hheld
  · rw [rd_setBits_other _ _ (by simp only [R.gdrEvent]; omega), hheld]

theorem rd_edcMeet (ha : Unnoted a) (w : Bool) (p : Nat) (e : Nat × Nat) : rd (edcMeet w p n s e) a = rd s a := by
  have habove := ha.above
  have hevent (t : State) (m : Word) : rd (setBits t R.gdrEvent m) a = rd t a := rd_setBits_other t m (by simp only [R.gdrEvent]; omega)
  unfold edcMeet
  split
  case h_1 => rfl
  case h_2 line hline =>
    have hch := lt_of_firstOn hline
    have hmet (i j : Nat) :
        rd (wf (bumpN { s with edc := tabSet 0 s.edc e.1 0 } R.gdrEdcRetry i) (R.gdrChStatus e.1) 31 16 j) a = rd s a := by
      rw [rd_wf_other _ _ _ _ (by simp only [R.gdrChStatus]; omega), rd_bumpN_other _ _ (by simp only [R.gdrEdcRetry]; omega)]
      rfl
    dsimp only [drawNat]
    repeat' split
    · exact (hevent _ 4).trans ((ha.rd_retrain hch _).trans (hmet _ _))
    · exact (hevent _ 4).trans ((ha.rd_retrain hch _).trans (hmet _ _))
    · exact (ha.rd_retrain hch _).trans (hmet _ _)
    · exact hmet _ _

theorem rd_noteRead (ha : Unnoted a) (d n : Nat) : rd (noteRead s d n) a = rd s a := by
  unfold noteRead
  dsimp only
  rw [foldl_keep uncorrectable (fun t => rd t a) fun t v => ha.rd_uncorrectable v,
    foldl_keep corrected (fun t => rd t a) fun t v => ha.rd_corrected v,
    foldl_keep (edcMeet false (physAddr s d) n) (fun t => rd t a) fun t e => ha.rd_edcMeet false _ e]

theorem rd_noteWrite (ha : Unnoted a) (p n : Nat) : rd (noteWrite s p n) a = rd s a := by
  unfold noteWrite
  dsimp only
  rw [foldl_keep (edcMeet true p n) (fun t => rd t a) fun t e => ha.rd_edcMeet true p e]
  exact (rd_foldl_of_mem _ (fun v _ t => ha.rd_uncorrectable v) _).trans (rd_foldl_of_mem _ (fun v _ t => ha.rd_corrected v) _)

theorem rd_glideErr (ha : Unnoted a) : rd (glideErr s) a = rd s a := by
  have habove := ha.above
  exact rd_errInfo_other { s with fresh := s.fresh + 1 } 3 _ (by simp only [R.memErr]; omega) (by simp only [R.memErrInfo]; omega)

theorem rd_stByte (ha : Unnoted a) (d : Nat) (b : Byte) : rd (stByte s d b) a = rd s a := by
  unfold stByte
  repeat' split
  · rfl
  · rfl
  · exact ha.rd_glideErr
  · rfl

theorem rd_stAll (ha : Unnoted a) (d : Nat) (l : List Byte) : rd (stAll s d l) a = rd s a := by
  induction l generalizing s d with
  | nil => rfl
  | cons b l ih => exact (ih _).trans (ha.rd_stByte d b)

theorem rd_stBytes (ha : Unnoted a) (d : Nat) (l : List Byte) : rd (stBytes s d l) a = rd s a := by
  unfold stBytes
  dsimp only
  repeat' split
  · exact ha.rd_stAll d l
  · exact ha.rd_stAll d l
  · exact ha.rd_stAll d l
  · exact (ha.rd_noteWrite _ _).trans (ha.rd_stAll d l)

theorem rd_signalAfter (ha : Unnoted a) (rs : List (Nat × Nat)) (r f : Nat) (c : Word) : rd (signalAfter s rs r f c) a = rd s a :=
  rd_signalAfter_high (by have := ha.above; omega)

end Unnoted

/-! ### What a job's reads note (R255, R277, R279, R507) -/

/-- The reads of a job leave the job lists, the filters, every place and these registers. -/
structure ReadsNoted (s t : State) : Prop where
  fgs : t.fgs = s.fgs
  memx : t.memx = s.memx
  tfu : t.tfu = s.tfu
  dt : t.dt = s.dt
  places : SamePlaces s t
  regs : ∀ a, Unnoted a → rd t a = rd s a

namespace ReadsNoted

theorem refl : ReadsNoted s s := ⟨rfl, rfl, rfl, rfl, .refl, fun _ _ => rfl⟩

theorem trans (h : ReadsNoted s t) (k : ReadsNoted t u) : ReadsNoted s u :=
  ⟨k.fgs.trans h.fgs, k.memx.trans h.memx, k.tfu.trans h.tfu, k.dt.trans h.dt, h.places.trans k.places,
    fun a ha => (k.regs a ha).trans (h.regs a ha)⟩

theorem noteRead (s : State) (d n : Nat) : ReadsNoted s (noteRead s d n) :=
  ⟨by simp, by simp, by simp, by simp, (onlyNoted_noteRead d n).places, fun _ ha => ha.rd_noteRead d n⟩

theorem glideErr (s : State) : ReadsNoted s (glideErr s) :=
  ⟨by simp, by simp, by simp, by simp, onlyNoted_glideErr.places, fun _ ha => ha.rd_glideErr⟩

theorem noteReads (s : State) (l : List (Nat × Nat)) : ReadsNoted s (noteReads s l) := by
  induction l generalizing s with
  | nil => exact .refl
  | cons r l ih =>
    unfold Machine.noteReads
    repeat' split
    · exact .glideErr s
    · exact .noteRead s _ _
    · exact (ReadsNoted.noteRead s _ _).trans (ih _)

theorem noteIo (s : State) (ins outs : List (Nat × Nat)) : ReadsNoted s (noteIo s ins outs) := by
  unfold Machine.noteIo
  dsimp only
  split
  · exact (ReadsNoted.noteReads s ins).trans (.glideErr _)
  · exact .noteReads s ins

end ReadsNoted

/-- A job whose data is sound goes on after its reads. -/
theorem jobIo_good {ins outs : List (Nat × Nat)} (bad good : State → State) (hin : badData s ins = false) (hout : badOut s outs = false) :
    jobIo s ins outs bad good = good (noteIo s ins outs) := by
  simp [jobIo, hin, hout]

theorem gdrBytes_congr (h : t.straps = s.straps) : gdrBytes t = gdrBytes s := by rw [gdrBytes, h, ← gdrBytes]

theorem addrRange_congr (h : t.straps = s.straps) : addrRange t a = addrRange s a := by simp only [addrRange, gdrBytes_congr h]

theorem engineRange_congr (h : t.straps = s.straps) : engineRange t a n = engineRange s a n := by
  simp only [engineRange, rangeOk, addrRange_congr h]

theorem glideRefused_congr (h : SamePlaces s t) : glideRefused t a n = glideRefused s a n := by
  simp only [glideRefused, gdrClosed, gdrBytes_congr h.straps, h.pwr, physAddr_of_redirect h.redirect]

theorem badOut_congr (h : SamePlaces s t) (l : List (Nat × Nat)) : badOut t l = badOut s l := by
  simp only [badOut, glideRefused_congr h]

theorem badData_congr (h : SamePlaces s t) (hpoison : t.poison = s.poison) (hedc : t.edc = s.edc)
    (hmax : rd t R.gdrRetry = rd s R.gdrRetry) (l : List (Nat × Nat)) : badData t l = badData s l := by
  have hfatal (m : Nat) : edcFatal t m = edcFatal s m := by rw [edcFatal, edcMax, rf, hmax, ← rf, ← edcMax, ← edcFatal]
  simp only [badData, glideRefused_congr h, poisoned, physAddr_of_redirect h.redirect, hpoison, hedc, hfatal]

theorem ldBytes_places (h : SamePlaces s t) (d k : Nat) : ldBytes t d k = ldBytes s d k := ldBytes_congr fun _ _ => h.sameBytes _

/-! ### Jobs that leave the unit (R85, R150, R294) -/

theorem report_started (s : State) (o : Owner) (st : Nat) : (report s o st).fgs.started = s.fgs.started := by
  unfold report finish
  split
  · rfl
  · cases o <;> rfl

theorem samePlaces_report (s : State) (o : Owner) (st : Nat) : SamePlaces s (report s o st) := by
  obtain ⟨f, h, p, m, hreport⟩ := finish_frame s o st []
  rw [report, hreport]
  exact ⟨fun _ _ => rfl, rfl, rfl, rfl, rfl, rfl⟩

theorem rd_report (s : State) (o : Owner) (st a : Nat) : rd (report s o st) a = rd s a := by
  obtain ⟨f, h, p, m, hreport⟩ := finish_frame s o st []
  rw [report, hreport]
  rfl

theorem report_tfu (s : State) (o : Owner) (st : Nat) : (report s o st).tfu = s.tfu := by
  obtain ⟨f, h, p, m, hreport⟩ := finish_frame s o st []
  rw [report, hreport]

/-- Job `j` has left the unit with status `st`, and `rest` is what it has still taken. -/
def Left (s : State) (j : Job) (rest : List Job) (u : State) (st : Nat) : Prop :=
  startedAt u 0x12 = rest ∧ ∀ r g, j.owner = .gate r g → ends s u j.owner st

/-- `t` is `s` with a job of the TFU in work and `rest` still taken: nothing has been reported meanwhile. -/
structure Working (s : State) (rest : List Job) (t : State) : Prop where
  started : startedAt t 0x12 = rest
  reports : t.fgs.reports = s.fgs.reports
  deferred : t.memx.deferred = s.memx.deferred

namespace Working

variable {j : Job} {rest : List Job}

theorem step (h : Working s rest t) (hfgs : u.fgs = t.fgs) (hdeferred : u.memx.deferred = t.memx.deferred) : Working s rest u :=
  ⟨(congrArg (fun f : Fgs => tabGet [] f.started 0x12) hfgs).trans h.started, (congrArg Fgs.reports hfgs).trans h.reports,
    hdeferred.trans h.deferred⟩

theorem noted (h : Working s rest t) (k : ReadsNoted t u) : Working s rest u := h.step k.fgs (by rw [k.memx])

theorem left (h : Working s rest t) (st : Nat) : Left s j rest (report t j.owner st) st := by
  refine ⟨(congrArg (tabGet [] · 0x12) (report_started t j.owner st)).trans h.started, fun r g howner => ?_⟩
  rw [howner]
  exact ends_report_gate h.reports h.deferred

end Working

/-! ### A job taken up (R294) -/

/-- The state in which a job's work begins. -/
def tfuTaken (s : State) (rest : List Job) : State := wf (setStarted s 0x12 rest) R.tfuStatus 8 8 (!rest.isEmpty).toNat

theorem tfuWork_due {op : Nat} {j : Job} {rest : List Job} (f : State → Job → State) (hu : s.up = true) (h : tfuDue s op j rest) :
    tfuWork op f s = .next (f (tfuTaken s rest) j) := by
  obtain ⟨hstarted, hop, hkat⟩ := h
  refine (fabric_up s hu : tfuWork op f s = _).trans ?_
  simp [hstarted, hkat, hop, tfuTaken]

theorem tfuWork_test {op : Nat} (f : State → Job → State) (hu : s.up = true) (h : s.safe.katDue = true) : tfuWork op f s = .next s := by
  refine (fabric_up s hu : tfuWork op f s = _).trans ?_
  cases startedAt s 0x12 <;> simp [h]

/-- `t` is `s` where the work on a job begins, before or after its reads. -/
structure AtWork (s : State) (rest : List Job) (t : State) : Prop where
  working : Working s rest t
  tfu : t.tfu = s.tfu
  now : t.dt.now = s.dt.now
  places : SamePlaces s t
  regs : ∀ a, Unnoted a → a ≠ R.tfuStatus → rd t a = rd s a
  mode : tfuMode t = tfuMode s

namespace AtWork

variable {rest : List Job}

theorem taken (s : State) (rest : List Job) : AtWork s rest (tfuTaken s rest) := by
  have hother (a : Nat) (ha : a ≠ R.tfuStatus) : rd (tfuTaken s rest) a = rd s a := rd_wf_other _ _ _ _ ha
  refine ⟨⟨startedAt_setStarted_same .., rfl, rfl⟩, rfl, rfl, ⟨fun k hk => hother _ ?_, rfl, rfl, rfl, rfl, rfl⟩, fun a _ => hother a, ?_⟩
  · simp only [R.memRedir, R.tfuStatus]
    omega
  · rw [tfuMode, rf, tfuTaken, rd_wf_same]
    exact fld_congr fun i hi _ => by rw [getLsbD_setFld (by decide) le_rfl, if_neg (by omega)]; rfl

theorem noted (h : AtWork s rest t) (k : ReadsNoted t u) : AtWork s rest u :=
  ⟨h.working.noted k, k.tfu.trans h.tfu, by rw [k.dt, h.now], h.places.trans k.places, fun a ha hne => (k.regs a ha).trans (h.regs a ha hne), by
    rw [tfuMode, rf, k.regs _ (unnoted_of_mod (by decide) (by decide) (by decide)), ← rf, ← tfuMode, h.mode]⟩

theorem tfuOk (h : AtWork s rest t) : tfuOk t = tfuOk s := by
  rw [Machine.tfuOk, rb, h.regs _ (unnoted_of_mod (by decide) (by decide) (by decide)) (by decide), ← rb, ← Machine.tfuOk]

theorem tfuN (h : AtWork s rest t) : tfuN t = tfuN s := by
  rw [Machine.tfuN, rf, h.regs _ (unnoted_of_mod (by decide) (by decide) (by decide)) (by decide), ← rf, ← Machine.tfuN]

theorem tfuExp (h : AtWork s rest t) : tfuExp t = tfuExp s := by
  funext i
  rw [Machine.tfuExp, h.tfu, ← Machine.tfuExp]

/-- A refusal sets bit 0 of TFU_ERR and leaves bytes and filters. -/
theorem refused (h : AtWork s rest t) (j : Job) (byte : Nat) : let u := tfuRefuse t j byte
    Left s j rest u 0x23 ∧ bit (rd u R.tfuErr) 0 = true ∧ SameBytes s u ∧ u.tfu = s.tfu := by
  have herr : OnlyRegs t (tfuErr t 0 byte (rec8 j.block 0 1)) := onlyRegs_errInfo ..
  have hregs : SameRegsBut [R.tfuErr, R.tfuErrInfo] t (tfuErr t 0 byte (rec8 j.block 0 1)) :=
    sameRegsBut_errInfo R.tfuErr 0 R.tfuErrInfo _
  have hplaces := samePlaces_of_regs herr hregs fun b hb => by
    simp only [List.mem_cons, List.not_mem_nil, or_false] at hb
    obtain rfl | rfl := hb <;> decide
  refine ⟨(h.working.step ?_ ?_).left _, ?_, ((h.places.trans hplaces).trans (samePlaces_report ..)).sameBytes, ?_⟩
  · obtain ⟨r, hr⟩ := herr
    exact (congrArg State.fgs hr :)
  · obtain ⟨r, hr⟩ := herr
    exact (congrArg (·.memx.deferred) hr :)
  · show bit (rd (report _ _ _) _) 0 = true
    rw [rd_report]
    exact (congrArg (bit · 0) (rd_errInfo_same (s := t) 0 _ (by decide))).trans (bit_or_bitW _ (by decide))
  · obtain ⟨r, hr⟩ := herr
    exact (report_tfu ..).trans ((congrArg State.tfu hr).trans h.tfu)

end AtWork

end Sys2Proof.Machine
end

section
/-! SUPPORT. Work on the filters and the registers of the TFU block, and the RESET of the ego filter (R288, R299, R300, R303). -/

namespace Sys2Proof.Machine

variable {s t u : State} {a : Nat}

/-! ### Work on filters -/

/-- `t` is `s` but for the filters, the registers from the TFU block on and the free values drawn. -/
structure FilterWork (s t : State) : Prop where
  only : ∃ r f n, t = { s with regs := r, tfu := f, fresh := n }
  below : ∀ a, a < 0x1A0000 → rd t a = rd s a

namespace FilterWork

theorem refl : FilterWork s s := ⟨⟨_, _, _, rfl⟩, fun _ _ => rfl⟩

theorem trans (h : FilterWork s t) (k : FilterWork t u) : FilterWork s u := by
  obtain ⟨⟨r, f, n, rfl⟩, hbelow⟩ := h
  obtain ⟨⟨r', f', n', rfl⟩, hbelow'⟩ := k
  exact ⟨⟨_, _, _, rfl⟩, fun a ha => (hbelow' a ha).trans (hbelow a ha)⟩

theorem wr (h : FilterWork s t) (ha : 0x1A0000 ≤ a) (v : Word) : FilterWork s (wr t a v) :=
  h.trans ⟨⟨_, _, _, rfl⟩, fun b hb => rd_wr_other _ v (by omega)⟩

theorem filters (h : FilterWork s t) (f : Tfu) : FilterWork s { t with tfu := f } := h.trans ⟨⟨_, _, _, rfl⟩, fun _ _ => rfl⟩

theorem drawn (h : FilterWork s t) : FilterWork s (drawNat t).2 := h.trans ⟨⟨_, _, _, rfl⟩, fun _ _ => rfl⟩

theorem tfuEvent (h : FilterWork s t) (b : Nat) : FilterWork s (tfuEvent t b) := h.wr (by decide) _

theorem poseFlag (h : FilterWork s t) (b : Nat) : FilterWork s (poseFlag t b) := h.filters _

theorem places (h : FilterWork s t) : SamePlaces s t := by
  obtain ⟨⟨r, f, n, rfl⟩, hbelow⟩ := h
  exact ⟨fun k hk => hbelow _ (by simp only [R.memRedir]; omega), rfl, rfl, rfl, rfl, rfl⟩

theorem working (h : FilterWork t u) {rest : List Job} (k : Working s rest t) : Working s rest u := by
  obtain ⟨⟨r, f, n, rfl⟩, -⟩ := h
  exact k.step rfl rfl

theorem setMode (h : FilterWork s t) (m : Nat) : FilterWork s (setMode t m) := by
  unfold Machine.setMode
  split
  · exact h
  · exact (h.wr (a := R.tfuStatus) (by decide) _).tfuEvent 3

theorem covSat (h : FilterWork s t) (k : Nat) : FilterWork s (covSat t k) := by
  unfold Machine.covSat
  split
  · exact h
  · exact ((h.wr (a := R.tfuCovsatCnt) (by decide) _).tfuEvent 5).poseFlag 8

theorem setCov (h : FilterWork s t) (p : List (List Int)) (k : Nat) : FilterWork s (setCov t p k) := by
  have hfloor : FilterWork s (covFloored t p) := (h.filters _).wr (a := R.tfuNumericCnt) (by decide) _
  rw [setCov_eq]
  exact List.foldlRecOn (motive := FilterWork s) _ _ (hfloor.covSat k) fun _ ht _ _ => ht.wr (by simp only [R.tfuEgoDiag]; omega) _

end FilterWork

/-! ### What these operations leave of the filters -/

theorem covSat_tfu (s : State) (k : Nat) : ∃ f, (covSat s k).tfu = { s.tfu with flags := f } := by
  unfold covSat
  split
  · exact ⟨_, rfl⟩
  · exact ⟨_, rfl⟩

theorem setCov_tfu (s : State) (p : List (List Int)) (k : Nat) :
    ∃ f, (setCov s p k).tfu = { s.tfu with p := (floorDiag p).1, flags := f } := by
  obtain ⟨f, hf⟩ := covSat_tfu (covFloored s p) k
  rw [setCov_eq, (PredictRegs.diagShown _ .refl).tfu, hf]
  exact ⟨f, rfl⟩

/-- The registers in which a covariance written back shows, but for the diagonal. -/
def covRegs : List Nat := [R.tfuEvent, R.tfuNumericCnt, R.tfuCovsatCnt]

theorem rd_setCov (p : List (List Int)) (k : Nat) (ha : a ∉ covRegs) (hdiag : a < R.tfuEgoDiag 0) : rd (setCov s p k) a = rd s a := by
  simp only [covRegs, List.mem_cons, List.not_mem_nil, or_false, not_or] at ha
  obtain ⟨hevent, hnumeric, hsat⟩ := ha
  rw [setCov_eq, rd_diagShown _ hdiag]
  have hfloor : rd (covFloored s p) a = rd s a := rd_bumpN_other _ _ hnumeric
  unfold covSat
  split
  · exact hfloor
  · have hcount : rd (tfuEvent (bumpN (covFloored s p) R.tfuCovsatCnt k) 5) a = rd s a := by
      rw [tfuEvent, rd_setBits_other _ _ hevent, rd_bumpN_other _ _ hsat, hfloor]
    exact hcount

theorem setMode_tfu (s : State) (m : Nat) : (setMode s m).tfu = s.tfu := by
  unfold setMode
  split <;> rfl

theorem rd_setMode {m : Nat} (ha : a ≠ R.tfuStatus) (hevent : a ≠ R.tfuEvent) : rd (setMode s m) a = rd s a := by
  unfold setMode
  split
  · rfl
  · exact (rd_setBits_other _ _ hevent).trans (rd_wf_other _ _ _ _ ha)

/-- A change of MODE takes no event away. -/
theorem event_setMode {m b : Nat} (h : bit (rd s R.tfuEvent) b = true) : bit (rd (setMode s m) R.tfuEvent) b = true := by
  unfold setMode
  split
  · exact h
  · rw [tfuEvent, rd_setBits_same, rd_wf_other _ _ _ _ (by decide)]
    exact bit_or_of_bit _ h

/-! ### RESET (R300) -/

theorem leVal_eq_zero {l : List Byte} (h : leVal l = 0) : ∀ b ∈ l, b = 0 := by
  induction l with
  | nil => exact fun _ hb => absurd hb List.not_mem_nil
  | cons x l ih =>
    simp only [leVal] at h
    intro b hb
    obtain rfl | hb := List.mem_cons.mp hb
    · exact BitVec.eq_of_toNat_eq (by simp only [BitVec.ofNat_eq_ofNat, BitVec.toNat_ofNat]; omega)
    · exact ih (by omega) b hb

theorem rec8_lt (l : List Byte) (o n : Nat) : rec8 l o n < 256 ^ n :=
  (leVal_lt _).trans_le (Nat.pow_le_pow_right (by decide) (by simp [slice]))

/-- A signed field of 4 bytes is 0 where its bytes are. -/
theorem rec8_of_recS_zero {l : List Byte} {o : Nat} (h : recS l o 4 = 0) : rec8 l o 4 = 0 := by
  have hlt := rec8_lt l o 4
  simp only [recS, sext] at h
  split at h <;> omega

/-- Four signed fields in a row are 0 where their 16 bytes are. -/
theorem zeros_of_quat {l : List Byte} {o : Nat} (h : ∀ i < 4, recS l (o + 4 * i) 4 = 0) : zeros l o 16 = true := by
  have hpart (i : Nat) (hi : i < 4) := rec8_of_recS_zero (h i hi)
  have hsplit (m n k : Nat) : rec8 l (o + k) (m + n) = rec8 l (o + k) m + 256 ^ m * rec8 l (o + k + m) n := by
    have hadd := leVal_take_add m n (l.drop (o + k))
    rwa [List.drop_drop] at hadd
  have h12 := hsplit 4 4 8
  have h8 := hsplit 4 8 4
  have h0 := hsplit 4 12 0
  have z0 := hpart 0 (by decide)
  have z1 := hpart 1 (by decide)
  have z2 := hpart 2 (by decide)
  have z3 := hpart 3 (by decide)
  simp only [Nat.mul_zero, Nat.add_zero, Nat.mul_one, Nat.reduceMul, Nat.reduceAdd, Nat.add_assoc] at *
  rw [zeros, h0, h8, h12, z0, z1, z2, z3]
  rfl

/-- The filter with the block's pose, its covariance, an empty history and no bias. -/
def poseReset (s : State) (pose : TfuPose) (n : Nat) : State :=
  { s with tfu := { s.tfu with pose := pose, bg := [0, 0, 0], ba := [0, 0, 0], aux := List.replicate (n - 15) 0, hist := [] } }

/-- The events and the mode of a reset filter. -/
def resetShown (s : State) : State :=
  let s2 := poseFlag (tfuEvent s 0) 3
  if tfuMode s2 = 0 then setMode s2 1 else s2

theorem FilterWork.resetShown (h : FilterWork s t) : FilterWork s (resetShown t) := by
  have hflag : FilterWork s (Machine.poseFlag (Machine.tfuEvent t 0) 3) := (h.tfuEvent 0).poseFlag 3
  unfold Machine.resetShown
  dsimp only
  split
  · exact hflag.setMode 1
  · exact hflag

theorem resetShown_spec (s : State) : (∃ f, (resetShown s).tfu = { s.tfu with flags := f }) ∧
    tfuMode (resetShown s) = (if tfuMode s = 0 then 1 else tfuMode s) ∧ bit (rd (resetShown s) R.tfuEvent) 0 = true := by
  have hmode : tfuMode (poseFlag (tfuEvent s 0) 3) = tfuMode s := by
    rw [tfuMode, rf]
    exact congrArg (fld · 1 0) (rd_setBits_other s (bitW 0) (by decide))
  have hevent : bit (rd (poseFlag (tfuEvent s 0) 3) R.tfuEvent) 0 = true :=
    rb_setBits_bit (s := s) (a := R.tfuEvent) (by decide)
  unfold resetShown
  dsimp only
  split
  case isTrue hzero => exact ⟨⟨_, setMode_tfu ..⟩, by rw [tfuMode_setMode (by decide), if_pos (hmode ▸ hzero)], event_setMode hevent⟩
  case isFalse hzero => exact ⟨⟨_, rfl⟩, by rw [hmode, if_neg (hmode ▸ hzero)], hevent⟩

/-- The pose a RESET block gives. -/
def blockPose (r : List Byte) : TfuPose :=
  ⟨rec8 r 0 8, [0, 1, 2].map fun i => recS r (8 + 8 * i) 8,
    storeQuat (([0, 1, 2, 3].map fun i => recS r (32 + 4 * i) 4).map fun x => fxOf x 30), [0, 1, 2].map fun i => recS r (48 + 4 * i) 4⟩

/-- The covariance a RESET block gives, with its saturations. -/
def blockCov (s : State) (r : List Byte) : List (List Int) × Nat :=
  satMat (mGen (tfuN s) (tfuN s) fun i k => if i = k then codeEntry (rec8 r (64 + 2 * i) 2) (tfuExp s i) else 0)

/-- A RESET whose block passes its checks, with a pose record in form. -/
theorem resetJob_resets {j : Job} (hfirst : firstBad [(0, rb s R.tfuEgoCfg 31), (8, engineRange s (rec8 j.block 8 8) 128),
      (24, zeros j.block 24 40)] = none) (hgood : badData s [(rec8 j.block 8 8, 128)] = false) :
    let t := noteIo s [(rec8 j.block 8 8, 128)] []
    let r := ldBytes t (rec8 j.block 8 8) 128
    zeros r 32 16 = false → zeros r 60 4 = true → zeros r 112 16 = true →
      resetJob s j = report (resetShown (setCov (poseReset t (blockPose r) (tfuN t)) (blockCov t r).1 (blockCov t r).2)) j.owner
        (tfuOk t) := by
  intro t r hq hz hy
  have hquat : ¬ [0, 1, 2, 3].map (fun i => recS r (32 + 4 * i) 4) = [0, 0, 0, 0] := fun h => by
    simp only [List.map_cons, List.map_nil, List.cons.injEq, and_true] at h
    obtain ⟨h0, h1, h2, h3⟩ := h
    refine absurd (zeros_of_quat fun i hi => ?_) (Bool.eq_false_iff.mp hq)
    match i, hi with
    | 0, _ => exact h0
    | 1, _ => exact h1
    | 2, _ => exact h2
    | 3, _ => exact h3
  unfold resetJob
  dsimp only
  rw [hfirst]
  dsimp only
  rw [jobIo_good _ _ hgood rfl]
  exact if_neg fun h => h.elim hquat fun h => h.elim (by simp [hz, r, t]) (by simp [hy, r, t])

end Sys2Proof.Machine
end

section
/-! SUPPORT. The clauses of RESET, MOTION and REPORT: what each leaves of the filters, its output bytes and its status (R300, R305, R307);
a part of O38. -/

namespace Sys2Proof.Machine

variable {s t u : State} {a n : Nat} {j : Job} {rest : List Job}

namespace AtWork

/-- Registers of the TFU block and the safety block are read as before the job. -/
theorem rb_same (h : AtWork s rest t) (ha : Unnoted a) (hne : a ≠ R.tfuStatus) (i : Nat) : rb t a i = rb s a i := by
  rw [rb, h.regs a ha hne, ← rb]

theorem ldBytes (h : AtWork s rest t) (d k : Nat) : ldBytes t d k = ldBytes s d k := ldBytes_places h.places d k

end AtWork

theorem badData_taken (s : State) (rest : List Job) (l : List (Nat × Nat)) : badData (tfuTaken s rest) l = badData s l :=
  badData_congr (AtWork.taken s rest).places rfl rfl (rd_wf_other (setStarted s 0x12 rest) _ _ _ (by decide)) l

theorem badOut_taken (s : State) (rest : List Job) (l : List (Nat × Nat)) : badOut (tfuTaken s rest) l = badOut s l :=
  badOut_congr (AtWork.taken s rest).places l

theorem engineRange_taken (s : State) (rest : List Job) (a n : Nat) : engineRange (tfuTaken s rest) a n = engineRange s a n :=
  engineRange_congr rfl

/-! ### RESET (R300) -/

theorem rb_taken (s : State) (rest : List Job) (i : Nat) (ha : a ≠ R.tfuStatus) : rb (tfuTaken s rest) a i = rb s a i := by
  rw [rb, tfuTaken, rd_wf_other _ _ _ _ ha]
  rfl

/-- A filter reset: its pose, its biases, its mode and the event. -/
theorem poseReset_spec (h : AtWork s rest t) (pose : TfuPose) (m : Nat) (p : List (List Int)) (k : Nat) :
    let v := resetShown (setCov (poseReset t pose m) p k)
    FilterWork t v ∧ (∃ f, v.tfu = { (poseReset t pose m).tfu with p := (floorDiag p).1, flags := f }) ∧
      tfuMode v = (if tfuMode s = 0 then 1 else tfuMode s) ∧ bit (rd v R.tfuEvent) 0 = true := by
  obtain ⟨⟨f, htfu⟩, hmode, hevent⟩ := resetShown_spec (setCov (poseReset t pose m) p k)
  obtain ⟨f', hcov⟩ := setCov_tfu (poseReset t pose m) p k
  have hbefore : tfuMode (setCov (poseReset t pose m) p k) = tfuMode s := by
    rw [tfuMode, rf, rd_setCov p k (by decide) (by decide)]
    exact h.mode
  exact ⟨((FilterWork.refl.filters _).setCov p k).resetShown, ⟨f, htfu.trans (by rw [hcov])⟩, hmode.trans (by rw [hbefore]), hevent⟩

/-- Filters worked on and the job reported. -/
theorem filtered_spec (h : AtWork s rest t) (hwork : FilterWork t u) (st : Nat) : let v := report u j.owner st
    Left s j rest v st ∧ v.tfu = u.tfu ∧ tfuMode v = tfuMode u ∧ (∀ b, rd v b = rd u b) ∧ SameBytes s v := by
  refine ⟨(hwork.working h.working).left st, report_tfu .., ?_, rd_report _ _ _,
    ((h.places.trans hwork.places).trans (samePlaces_report ..)).sameBytes⟩
  rw [tfuMode, rf, rd_report, ← rf, ← tfuMode]

theorem reset_clause (hu : s.up = true) (hdue : tfuDue s 2 j rest)
    (hfirst : firstBad [(0, rb s R.tfuEgoCfg 31), (8, engineRange s (rec8 j.block 8 8) 128), (24, zeros j.block 24 40)] = none)
    (hgood : badData s [(rec8 j.block 8 8, 128)] = false) : let r := ldBytes s (rec8 j.block 8 8) 128
    zeros r 32 16 = false → zeros r 60 4 = true → zeros r 112 16 = true → Runs .tfuReset s fun u => Left s j rest u (tfuOk s) ∧
      u.tfu.hist = [] ∧ u.tfu.pose = blockPose r ∧ u.tfu.bg = [0, 0, 0] ∧ u.tfu.ba = [0, 0, 0] ∧
      tfuMode u = (if tfuMode s = 0 then 1 else tfuMode s) ∧ bit (rd u R.tfuEvent) 0 = true ∧ SameBytes s u := by
  intro r hq hz hy
  have hat := (AtWork.taken s rest).noted (.noteIo _ [(rec8 j.block 8 8, 128)] [])
  have hread := hat.ldBytes (rec8 j.block 8 8) 128
  have hjob := resetJob_resets (s := tfuTaken s rest) (j := j)
    (by rw [rb_taken (a := R.tfuEgoCfg) s rest 31 (by decide), engineRange_taken]; exact hfirst)
    ((badData_taken s rest _).trans hgood)
  dsimp only at hjob
  rw [hread] at hjob
  refine ⟨_, (tfuWork_due resetJob hu hdue :), ?_⟩
  rw [hjob hq hz hy, hat.tfuOk]
  obtain ⟨hwork, ⟨f, htfu⟩, hmode, hevent⟩ := poseReset_spec hat (blockPose r)
    (tfuN (noteIo (tfuTaken s rest) [(rec8 j.block 8 8, 128)] [])) (blockCov (noteIo (tfuTaken s rest) [(rec8 j.block 8 8, 128)] []) r).1
    (blockCov (noteIo (tfuTaken s rest) [(rec8 j.block 8 8, 128)] []) r).2
  obtain ⟨hleft, hkept, hmode', hregs, hbytes⟩ := filtered_spec (j := j) hat hwork (tfuOk s)
  rw [htfu] at hkept
  refine ⟨hleft, by rw [hkept]; rfl, by rw [hkept]; rfl, by rw [hkept]; rfl, by rw [hkept]; rfl, hmode'.trans hmode, ?_, hbytes⟩
  rw [hregs]
  exact hevent

/-! ### Output bytes (R305, R307) -/

theorem OnlyBytes.mono {m : Nat} (h : OnlyBytes s t a m) (hle : m ≤ n) : OnlyBytes s t a n :=
  fun x hsem hx => h x hsem fun i hi => hx i (hi.trans_le hle)

theorem plainRam_mono {m : Nat} (h : plainRam s a n) (hle : m ≤ n) : plainRam s a m := by
  unfold plainRam at *
  obtain ⟨h, h'⟩ | ⟨h, h'⟩ | ⟨h, h', hawake⟩ | ⟨h, h'⟩ := h
  · exact .inl ⟨h, by omega⟩
  · exact .inr (.inl ⟨h, by omega⟩)
  · exact .inr (.inr (.inl ⟨h, by omega, hawake⟩))
  · exact .inr (.inr (.inr ⟨h, by omega⟩))

theorem samePlaces_jobStore (j : Job) (t : State) (d : Nat) (l : List Byte) : SamePlaces (stBytes t d l) (jobStore j t d l) :=
  samePlaces_issued

/-- A job's output stored where the places are those of `s`: no other byte changes, and in plain memory it stands. -/
theorem jobStore_spec (hinv : Inv s) (h : SamePlaces s t) (j : Job) (d : Nat) (l : List Byte) : let u := jobStore j t d l
    OnlyBytes s u d l.length ∧ (plainRam s d l.length → Holds u d l) := by
  refine ⟨(onlyBytes_stBytes.after (samePlaces_jobStore j t d l)).before h, fun hp => ?_⟩
  obtain ⟨hholds, -⟩ := stBytes_plain h hp hinv.held
  rw [Holds, ldBytes_places (samePlaces_jobStore j t d l)]
  exact hholds

/-- A job that stores its output and is reported. -/
theorem stored_spec (hinv : Inv s) (hwork : Working s rest t) (hplaces : SamePlaces s t) (d : Nat) (l : List Byte) (st : Nat) :
    let u := report (jobStore j t d l) j.owner st
    Left s j rest u st ∧ u.tfu = t.tfu ∧ OnlyBytes s u d l.length ∧ (plainRam s d l.length → Holds u d l) := by
  intro u
  obtain ⟨honly, hholds⟩ := jobStore_spec hinv hplaces j d l
  have hreport := samePlaces_report (jobStore j t d l) j.owner st
  have hdeferred : (jobStore j t d l).memx.deferred = t.memx.deferred := by
    show (stBytes t d l).memx.deferred = _
    rw [stBytes_memx]
  refine ⟨(hwork.step (u := jobStore j t d l) (stBytes_fgs ..) hdeferred).left st,
    (report_tfu ..).trans (stBytes_tfu ..), honly.after hreport, fun hp => ?_⟩
  rw [Holds, ldBytes_places hreport]
  exact hholds hp

/-! ### MOTION (R307) -/

theorem leBytesI_length (k : Nat) (v : Int) : (leBytesI k v).length = k := leBytes_length ..

/-- A list of fields of equal size. -/
theorem length_fields (k : Nat) (l : List Int) (f : Int → Int) : ((l.map fun x => leBytesI k (f x)).flatten).length = l.length * k := by
  simp [List.length_flatten, Function.comp_def, leBytesI_length]

theorem length_mMul (m k : List (List Int)) : (mMul m k).length = m.length := by simp [mMul]

theorem length_mTr (m : List (List Int)) : (mTr m).length = (m.headD []).length := by simp [mTr]

theorem headD_mMul (m k : List (List Int)) (hm : m ≠ []) : ((mMul m k).headD []).length = (mTr k).length := by
  cases m with
  | nil => contradiction
  | cons r m => simp [mMul]

/-- The elements of a product. -/
theorem length_flatten_mMul (m k : List (List Int)) : (mMul m k).flatten.length = m.length * (mTr k).length := by
  simp [mMul, List.length_flatten, Function.comp_def]

theorem quatMat_head (q : List Int) : ((quatMat q).headD []).length = 3 := rfl

theorem length_motionKnot (ext : List Byte) (pc pk : PoseAt) (tk : Int) : (motionKnot ext pc pk tk).length = 64 := by
  have hquat (q : List Int) : quatMat q ≠ [] := fun h => absurd (quatMat_head q) (by rw [h]; decide)
  have hturn (q : List Int) : mTr (quatMat q) ≠ [] := fun h => absurd (length_mTr (quatMat q)) (by rw [h, quatMat_head]; decide)
  have hmount (f : Nat → Nat → Int) : (mTr (mGen 3 3 f)).length = 3 := by simp [mTr, mGen, List.range_succ]
  unfold motionKnot
  dsimp only
  rw [List.length_append, List.length_append, List.length_append, length_fields, length_fields, length_flatten_mMul, length_mTr (mMul _ _),
    headD_mMul _ _ (hturn _), length_mTr (mMul _ _), headD_mMul _ _ (hquat _), hmount, leBytesI_length, leBytes_length, mVec,
    List.length_map, hmount]

end Sys2Proof.Machine
end

section
/-! SUPPORT. MOTION and REPORT: their knots and records, the bytes they store and their status (R305, R307); a part of O38. -/

namespace Sys2Proof.Machine

variable {s t u : State} {a n : Nat} {j : Job} {rest : List Job}

theorem firstBad_eq_none {l : List (Nat × Bool)} : firstBad l = none ↔ ∀ x ∈ l, x.2 = true := by
  induction l with
  | nil => simp [firstBad]
  | cons x l ih => cases hx : x.2 <;> simp [firstBad, hx, ih]

theorem Holds.take {l : List Byte} (h : Holds s a l) (k : Nat) : Holds s a (l.take k) :=
  (holds_append.mp (by rwa [List.take_append_drop] : Holds s a (l.take k ++ l.drop k))).1

/-! ### MOTION (R307) -/

/-- A filter with a history gives a pose at any time. -/
theorem poseNear_some (h : s.tfu.hist ≠ []) (x : Int) : ∃ p o, poseNear s x = (some p, o) := by
  unfold poseNear
  split
  · exact ⟨_, _, rfl⟩
  · exact ⟨_, _, by rw [List.getLast?_eq_getLast_of_ne_nil h]; rfl⟩

/-- The knots of a motion table take 64 bytes each. -/
theorem length_knots {α : Type} (k : Nat) (f : Nat → List Byte × α) (hf : ∀ i, (f i).1.length = 64) :
    (((List.range k).map f).map Prod.fst).flatten.length = 64 * k := by
  simp [List.length_flatten, Function.comp_def, hf, Nat.mul_comm]

/-- The first knot's time stands first. -/
theorem take_knots {α : Type} {k : Nat} (f : Nat → List Byte × α) {v : Int} {l : List Byte} (hk : 0 < k)
    (hf : (f 0).1 = leBytesI 8 v ++ l) : (((List.range k).map f).map Prod.fst).flatten.take 8 = leBytesI 8 v := by
  obtain ⟨m, rfl⟩ := Nat.exists_eq_succ_of_ne_zero hk.ne'
  rw [List.range_succ_eq_map, List.map_cons, List.map_cons, List.flatten_cons, hf, List.append_assoc]
  exact List.take_left' (leBytesI_length ..)

/-- The checks of a MOTION block (R307). -/
def motionChecks (s : State) (b : List Byte) : List (Nat × Bool) :=
  let m := rec8 b 1 1
  let n := rec8 b 2 1
  [(1, decide (m < 16) && fsEn s m && fsType s m == 1), (2, decide (n < 16) && fsEn s n && fsType s n == 0),
    (3, decide (2 ≤ rec8 b 3 1 ∧ rec8 b 3 1 ≤ 33)), (8, engineRange s (rec8 b 8 8) 48),
    (16, engineRange s (rec8 b 16 8) (64 * rec8 b 3 1)), (24, zeros b 24 40)]

/-- The lidar's and the camera's latch of a job (R193). -/
def lidarLatch (j : Job) : Word := BitVec.ofNat 32 (j.latch.getD 0 0)
def cameraLatch (j : Job) : Word := BitVec.ofNat 32 (j.latch.getD 1 0)

/-- The buffers that the latches name. -/
def lidarBuf (s : State) (j : Job) : Nat := fsBuf s (rec8 j.block 1 1) (fld (lidarLatch j) 3 0)
def cameraBuf (s : State) (j : Job) : Nat := fsBuf s (rec8 j.block 2 1) (fld (cameraLatch j) 3 0)

/-- What a MOTION reads, and what it writes. -/
def motionIns (s : State) (j : Job) : List (Nat × Nat) := [(lidarBuf s j, 64), (cameraBuf s j, 64), (rec8 j.block 8 8, 48)]
def motionOuts (j : Job) : List (Nat × Nat) := [(rec8 j.block 16 8, 64 * rec8 j.block 3 1)]

/-- A knot of a table from time `t0` to `t1`, about the pose `pc` of the camera, with whether it lies outside the history. -/
def motionKnotAt (s : State) (j : Job) (pc : PoseAt) (t0 t1 k : Int) : List Byte × Bool :=
  let tk := t0 + k * (t1 - t0) / (rec8 j.block 3 1 - 1 : Nat)
  (motionKnot (ldBytes s (rec8 j.block 8 8) 48) pc ((poseNear s tk).1.getD pc) tk, (poseNear s tk).2)

theorem motionKnotAt_zero (j : Job) (pc : PoseAt) (t0 t1 : Int) : ∃ l, (motionKnotAt s j pc t0 t1 0).1 = leBytesI 8 t0 ++ l := by
  simp only [motionKnotAt, motionKnot, zero_mul, Int.zero_ediv, Int.add_zero, List.append_assoc]
  exact ⟨_, rfl⟩

/-- The knots of a table: the numbers of the knots are taken as integers first, as the model takes them. -/
def motionKnots (s : State) (j : Job) (pc : PoseAt) (t0 t1 : Int) : List (List Byte × Bool) :=
  (List.range (rec8 j.block 3 1)).map fun k =>
    let tk := t0 + (k : Int) * (t1 - t0) / (rec8 j.block 3 1 - 1 : Nat)
    (motionKnot (ldBytes s (rec8 j.block 8 8) 48) pc ((poseNear s tk).1.getD pc) tk, (poseNear s tk).2)

theorem motionKnots_eq (j : Job) (pc : PoseAt) (t0 t1 : Int) :
    motionKnots s j pc t0 t1 = (List.range (rec8 j.block 3 1)).map fun k : Nat => motionKnotAt s j pc t0 t1 k := by
  unfold motionKnots motionKnotAt
  rw [bind_pure_comp, List.map_eq_map, List.map_map]
  rfl

theorem length_motionKnots (j : Job) (pc : PoseAt) (t0 t1 : Int) :
    ((motionKnots s j pc t0 t1).map Prod.fst).flatten.length = 64 * rec8 j.block 3 1 := by
  rw [motionKnots_eq]
  exact length_knots _ _ fun _ => length_motionKnot ..

theorem take_motionKnots (hknots : 2 ≤ rec8 j.block 3 1) (pc : PoseAt) (t0 t1 : Int) :
    ((motionKnots s j pc t0 t1).map Prod.fst).flatten.take 8 = leBytesI 8 t0 := by
  obtain ⟨l, hl⟩ := motionKnotAt_zero (s := s) j pc t0 t1
  rw [motionKnots_eq]
  exact take_knots _ (by omega) hl

/-- A MOTION's work on sound data: the buffers at `la` and `ca` give its times. -/
def motionMoved (j : Job) (la ca : Nat) (s : State) : State :=
  let lr := ldBytes s la 64
  let t0 : Int := rec8 lr 16 8
  let t1 := max (t0 + ((rec8 lr 8 8 : Int) - rec8 lr 0 8) + rec8 j.block 4 4) (t0 + rec8 j.block 3 1 - 1)
  match poseNear s (rec8 (ldBytes s ca 64) 16 8) with
  | (none, _) => report s j.owner 0x25
  | (some pc, oc) =>
    let knots := motionKnots s j pc t0 t1
    report (jobStore j s (rec8 j.block 16 8) (knots.map Prod.fst).flatten) j.owner
      (if oc || knots.any Prod.snd then 0x06 else tfuOk s)

theorem motionJob_eq (s : State) (j : Job) : motionJob s j =
    match firstBad (motionChecks s j.block) with
    | some byte => tfuRefuse s j byte
    | none => if !bit (lidarLatch j) 31 || !bit (cameraLatch j) 31 then report s j.owner 0x25
      else jobIo s (motionIns s j) (motionOuts j) (fun s => report s j.owner 0x26) (motionMoved j (lidarBuf s j) (cameraBuf s j)) := rfl

theorem motionJob_unlatched (hfirst : firstBad (motionChecks s j.block) = none)
    (h : bit (lidarLatch j) 31 = false ∨ bit (cameraLatch j) 31 = false) : motionJob s j = report s j.owner 0x25 := by
  rw [motionJob_eq, hfirst]
  exact if_pos (by simpa using h)

/-- A table's bytes, and the status of its job. -/
theorem motionMoved_stores (la ca : Nat) (hhist : s.tfu.hist ≠ []) (hknots : 2 ≤ rec8 j.block 3 1) :
    ∃ l st, motionMoved j la ca s = report (jobStore j s (rec8 j.block 16 8) l) j.owner st ∧ (st = tfuOk s ∨ st = 6) ∧
      l.length = 64 * rec8 j.block 3 1 ∧ l.take 8 = leBytesI 8 (rec8 (ldBytes s la 64) 16 8) := by
  obtain ⟨pc, oc, hpc⟩ := poseNear_some hhist (rec8 (ldBytes s ca 64) 16 8)
  unfold motionMoved
  dsimp only
  rw [hpc]
  dsimp only
  refine ⟨_, _, rfl, ?_, length_motionKnots .., take_motionKnots hknots ..⟩
  split
  · exact .inr rfl
  · exact .inl rfl

theorem motionJob_latched (hfirst : firstBad (motionChecks s j.block) = none) (hl : bit (lidarLatch j) 31 = true)
    (hc : bit (cameraLatch j) 31 = true) (hgood : badData s (motionIns s j) = false) (hout : badOut s (motionOuts j) = false) :
    motionJob s j = motionMoved j (lidarBuf s j) (cameraBuf s j) (noteIo s (motionIns s j) (motionOuts j)) := by
  rw [motionJob_eq, hfirst]
  dsimp only
  rw [if_neg (by simp [hl, hc]), jobIo_good _ _ hgood hout]

/-! ### A MOTION taken up -/

theorem rd_taken_below (s : State) (rest : List Job) (ha : a < 0x100000) : rd (tfuTaken s rest) a = rd s a :=
  rd_wf_other (setStarted s 0x12 rest) _ _ _ (by simp only [R.tfuStatus]; omega)

theorem motionChecks_taken (s : State) (rest : List Job) (b : List Byte) : motionChecks (tfuTaken s rest) b = motionChecks s b := by
  have hslot (o : Nat) : rd (tfuTaken s rest) (R.ingFsCfg (rec8 b o 1)) = rd s (R.ingFsCfg (rec8 b o 1)) :=
    rd_taken_below s rest (by have := rec8_lt b o 1; simp only [R.ingFsCfg]; omega)
  simp only [motionChecks, fsEn, fsType, rb, rf, hslot, engineRange_taken]

theorem fsBuf_taken (s : State) (rest : List Job) {m : Nat} (hm : m < 256) (k : Nat) : fsBuf (tfuTaken s rest) m k = fsBuf s m k := by
  simp only [fsBuf, rd64, rf]
  have hlo : R.ingFsBufLo m < 0x100000 := by simp only [R.ingFsBufLo]; omega
  have hhi : R.ingFsBufHi m < 0x100000 := by simp only [R.ingFsBufHi]; omega
  have hcfg : R.ingFsBufcfg m < 0x100000 := by simp only [R.ingFsBufcfg]; omega
  rw [rd_taken_below s rest hlo, rd_taken_below s rest hhi, rd_taken_below s rest hcfg]

theorem lidarBuf_taken (s : State) (rest : List Job) (j : Job) : lidarBuf (tfuTaken s rest) j = lidarBuf s j :=
  fsBuf_taken s rest (rec8_lt _ 1 1) _

theorem cameraBuf_taken (s : State) (rest : List Job) (j : Job) : cameraBuf (tfuTaken s rest) j = cameraBuf s j :=
  fsBuf_taken s rest (rec8_lt _ 2 1) _

theorem motionIns_taken (s : State) (rest : List Job) (j : Job) : motionIns (tfuTaken s rest) j = motionIns s j := by
  rw [motionIns, lidarBuf_taken, cameraBuf_taken, ← motionIns]

theorem motion_unlatched (hu : s.up = true) (hdue : tfuDue s 3 j rest) (hfirst : firstBad (motionChecks s j.block) = none)
    (h : bit (lidarLatch j) 31 = false ∨ bit (cameraLatch j) 31 = false) :
    Runs .motion s fun u => Left s j rest u 0x25 ∧ SameBytes s u ∧ u.tfu = s.tfu := by
  have hat := AtWork.taken s rest
  obtain ⟨hleft, htfu, -, -, hbytes⟩ := filtered_spec (j := j) hat .refl 0x25
  refine ⟨_, (tfuWork_due motionJob hu hdue :), ?_⟩
  rw [motionJob_unlatched (by rw [motionChecks_taken]; exact hfirst) h]
  exact ⟨hleft, hbytes, htfu⟩

theorem motion_latched (hu : s.up = true) (hinv : Inv s) (hdue : tfuDue s 3 j rest) (hfirst : firstBad (motionChecks s j.block) = none)
    (hl : bit (lidarLatch j) 31 = true) (hc : bit (cameraLatch j) 31 = true) (hhist : s.tfu.hist ≠ [])
    (hgood : badData s (motionIns s j) = false) (hout : badOut s (motionOuts j) = false) : let a := rec8 j.block 16 8
    let n := 64 * rec8 j.block 3 1
    Runs .motion s fun u => u.tfu = s.tfu ∧ (Left s j rest u (tfuOk s) ∨ Left s j rest u 6) ∧ OnlyBytes s u a n ∧
      (plainRam s a n → ldN u a 8 = rec8 (ldBytes s (lidarBuf s j) 64) 16 8) := by
  intro a n
  have hat := (AtWork.taken s rest).noted (.noteIo _ (motionIns s j) (motionOuts j))
  have hknots : 2 ≤ rec8 j.block 3 1 := by
    have h := firstBad_eq_none.mp hfirst (3, decide (2 ≤ rec8 j.block 3 1 ∧ rec8 j.block 3 1 ≤ 33)) (by simp [motionChecks])
    exact (of_decide_eq_true h).1
  obtain ⟨l, st, hmoved, hst, hlen, htake⟩ := motionMoved_stores (s := noteIo (tfuTaken s rest) (motionIns s j) (motionOuts j)) (j := j)
    (lidarBuf s j) (cameraBuf s j) (by rw [hat.tfu]; exact hhist) hknots
  obtain ⟨hleft, htfu, honly, hholds⟩ := stored_spec (j := j) hinv hat.working hat.places a l st
  rw [hlen] at honly hholds
  rw [hat.tfuOk] at hst
  rw [hat.ldBytes] at htake
  refine ⟨_, (tfuWork_due motionJob hu hdue :), ?_⟩
  rw [motionJob_latched (by rw [motionChecks_taken]; exact hfirst) hl hc (by rw [motionIns_taken, badData_taken]; exact hgood)
    ((badOut_taken s rest _).trans hout), motionIns_taken, lidarBuf_taken, cameraBuf_taken, hmoved]
  refine ⟨htfu.trans hat.tfu, ?_, honly, fun hp => ?_⟩
  · obtain rfl | rfl := hst
    · exact .inl hleft
    · exact .inr hleft
  · have htime := (hholds hp).take 8
    rw [htake, leBytesI] at htime
    rw [ldN_of_holds htime]
    have hlt := rec8_lt (ldBytes s (lidarBuf s j) 64) 16 8
    omega

end Sys2Proof.Machine
end

section
/-! SUPPORT. The filters of objects and REPORT; the innovation record of an UPDATE (R288, R299, R304, R305); a part of O38. -/

namespace Sys2Proof.Machine

variable {s t u : State} {a n : Nat} {j : Job} {rest : List Job}

/-! ### Work on the filters of objects (R304) -/

/-- `t` is `s` but for the filters of objects and what their arithmetic counts. -/
structure ObjWork (s t : State) : Prop where
  work : FilterWork s t
  objs : ∃ o, t.tfu = { s.tfu with objs := o }
  regs : ∀ a, a ∉ covRegs → rd t a = rd s a

namespace ObjWork

theorem refl : ObjWork s s := ⟨.refl, ⟨_, rfl⟩, fun _ _ => rfl⟩

theorem trans (h : ObjWork s t) (k : ObjWork t u) : ObjWork s u := by
  obtain ⟨o, ho⟩ := h.objs
  obtain ⟨o', ho'⟩ := k.objs
  exact ⟨h.work.trans k.work, ⟨o', by rw [ho', ho]⟩, fun a ha => (k.regs a ha).trans (h.regs a ha)⟩

theorem setObj (h : ObjWork s t) (k : Nat) (o : Option TfuObj) : ObjWork s (setObj t k o) :=
  h.trans ⟨FilterWork.refl.filters _, ⟨_, rfl⟩, fun _ _ => rfl⟩

theorem drawn (h : ObjWork s t) : ObjWork s (drawNat t).2 := h.trans ⟨FilterWork.refl.drawn, ⟨_, rfl⟩, fun _ _ => rfl⟩

theorem wr (h : ObjWork s t) (ha : a ∈ covRegs) (v : Word) : ObjWork s (wr t a v) := by
  refine h.trans ⟨FilterWork.refl.wr ?_ v, ⟨_, rfl⟩, fun b hb => rd_wr_other _ v fun e => hb (by rwa [e])⟩
  simp only [covRegs, List.mem_cons, List.not_mem_nil, or_false] at ha
  obtain rfl | rfl | rfl := ha <;> decide

theorem objSat (h : ObjWork s t) (c : ObjCounts) : ObjWork s (objSat t c) := by
  have hcount : ObjWork s (if c.sat = 0 then t else Machine.tfuEvent (bumpN t R.tfuCovsatCnt c.sat) 5) := by
    split
    · exact h
    · exact (h.wr (a := R.tfuCovsatCnt) (by decide) _).wr (a := R.tfuEvent) (by decide) _
  exact hcount.wr (a := R.tfuNumericCnt) (by decide) _

theorem predictAll (h : ObjWork s t) (x : Int) : ObjWork s (predictAll t x) := by
  unfold Machine.predictAll
  refine List.foldlRecOn (motive := ObjWork s) _ _ h fun v hv k _ => ?_
  split
  · split
    · exact (hv.setObj k _).objSat _
    · exact hv
  · exact hv

end ObjWork

/-- The filter set is the one read back. -/
theorem tabGet_setObj (k : Nat) (o : Option TfuObj) : tabGet none (setObj s k o).tfu.objs k = o := tabGet_set_same ..

theorem objSat_tfu (c : ObjCounts) : (objSat s c).tfu = s.tfu := by
  unfold objSat
  split <;> rfl

/-! ### REPORT (R305) -/

theorem length_objRecord_le (s : State) (k : Nat) (o : TfuObj) : (objRecord s k o).length ≤ 64 := by
  simp [objRecord, leBytesI_length, leBytes_length, List.length_flatten, Function.comp_def]
  omega

/-- The number of filters enabled. -/
def objsEnabled (s : State) : Nat := ((List.range 31).filter fun k => rb s (R.tfuObjCfg k) 31).length

/-- The head of a report, and the records behind it. -/
def reportHead (s : State) : List Byte :=
  leBytesI 8 s.tfu.pose.time ++ leBytes 5 0 ++ leBytes 1 (tfuOk s) ++ leBytes 2 0 ++ leBytes 1 (objsEnabled s) ++ leBytes 47 0
def reportRecords (s : State) : List (List Byte) :=
  (List.range 31).map fun k =>
    match tabGet none s.tfu.objs k with
    | some o => if rb s (R.tfuObjCfg k) 31 then objRecord s k o else leBytes 64 0
    | none => leBytes 64 0

theorem length_reportHead (s : State) : (reportHead s).length = 64 := by simp [reportHead, leBytesI_length, leBytes_length]

theorem length_reportRecords_le (s : State) : (reportRecords s).flatten.length ≤ 31 * 64 := by
  have hle : ∀ l ∈ reportRecords s, l.length ≤ 64 := by
    intro l hl
    obtain ⟨k, -, rfl⟩ := List.mem_map.mp hl
    split
    · split
      · exact length_objRecord_le ..
      · exact (leBytes_length ..).le
    · exact (leBytes_length ..).le
  rw [List.length_flatten]
  have hsum := List.sum_le_card_nsmul ((reportRecords s).map List.length) 64 fun x hx => by
    obtain ⟨l, hl, rfl⟩ := List.mem_map.mp hx
    exact hle l hl
  simpa [reportRecords] using hsum

/-- A REPORT's work: the filters predicted, the bytes stored. -/
def reportMade (j : Job) (s : State) : State :=
  let s1 := predictAll s s.tfu.pose.time
  report (jobStore j s1 (rec8 j.block 8 8) (reportHead s ++ (reportRecords s1).flatten)) j.owner (tfuOk s)

theorem reportJob_good (hfirst : firstBad [(8, engineRange s (rec8 j.block 8 8) 2048), (24, zeros j.block 24 40)] = none)
    (hout : badOut s [(rec8 j.block 8 8, 2048)] = false) :
    reportJob s j = reportMade j (noteIo s [] [(rec8 j.block 8 8, 2048)]) := by
  unfold reportJob
  dsimp only
  rw [hfirst]
  dsimp only
  rw [jobIo_good _ _ rfl hout]
  generalize noteIo s [] [(rec8 j.block 8 8, 2048)] = t
  unfold reportMade reportHead reportRecords objsEnabled
  dsimp only <;> (generalize predictAll t t.tfu.pose.time = v; rfl)

/-- The time stands first, the number of enabled filters at byte 16. -/
theorem holds_reportHead {l : List Byte} (h : Holds u a (reportHead s ++ l)) :
    ldBytes u a 8 = leBytesI 8 s.tfu.pose.time ∧ ldN u (a + 16) 1 = objsEnabled s := by
  obtain ⟨hhead, -⟩ := holds_append.mp h
  simp only [reportHead, List.append_assoc] at hhead
  obtain ⟨htime, h8⟩ := holds_append.mp hhead
  obtain ⟨-, h13⟩ := holds_append.mp h8
  obtain ⟨-, h14⟩ := holds_append.mp h13
  obtain ⟨-, h16⟩ := holds_append.mp h14
  obtain ⟨hcount, -⟩ := holds_append.mp h16
  simp only [leBytesI_length, leBytes_length, Nat.add_assoc, Nat.reduceAdd] at hcount
  have hle : objsEnabled s ≤ 31 := (List.length_filter_le _ _).trans (by simp)
  refine ⟨?_, ldN_of_holds_of_lt hcount (by omega)⟩
  rwa [Holds, leBytesI_length] at htime

theorem objsEnabled_atWork (h : AtWork s rest t) : objsEnabled t = objsEnabled s := by
  unfold objsEnabled
  congr 1
  refine List.filter_congr fun k hk => ?_
  have hlt := List.mem_range.mp hk
  exact h.rb_same (unnoted_of_mod (by simp only [R.tfuObjCfg]; omega) (by simp only [R.tfuObjCfg]; omega)
    (by simp only [R.tfuObjCfg]; omega)) (by simp only [R.tfuObjCfg, R.tfuStatus]; omega) 31

theorem report_clause (hu : s.up = true) (hinv : Inv s) (hdue : tfuDue s 4 j rest)
    (hfirst : firstBad [(8, engineRange s (rec8 j.block 8 8) 2048), (24, zeros j.block 24 40)] = none)
    (hout : badOut s [(rec8 j.block 8 8, 2048)] = false) : let a := rec8 j.block 8 8
    Runs .report s fun u => Left s j rest u (tfuOk s) ∧ u.tfu.pose = s.tfu.pose ∧ u.tfu.p = s.tfu.p ∧ OnlyBytes s u a 2048 ∧
      (plainRam s a 2048 → ldBytes u a 8 = leBytesI 8 s.tfu.pose.time ∧ ldN u (a + 16) 1 = objsEnabled s) := by
  intro a
  have hat := (AtWork.taken s rest).noted (.noteIo _ [] [(a, 2048)])
  generalize ht : noteIo (tfuTaken s rest) [] [(a, 2048)] = t at hat
  have hwork := ObjWork.refl.predictAll (s := t) t.tfu.pose.time
  generalize hv : predictAll t t.tfu.pose.time = v at hwork
  obtain ⟨o, ho⟩ := hwork.objs
  have hlen : (reportHead t ++ (reportRecords v).flatten).length ≤ 2048 := by
    have hrecords := length_reportRecords_le v
    rw [List.length_append, length_reportHead]
    omega
  obtain ⟨hleft, htfu, honly, hholds⟩ := stored_spec (j := j) hinv (hwork.work.working hat.working)
    (hat.places.trans hwork.work.places) a (reportHead t ++ (reportRecords v).flatten) (tfuOk s)
  refine ⟨_, (tfuWork_due reportJob hu hdue :), ?_⟩
  rw [reportJob_good (by rw [engineRange_taken]; exact hfirst) ((badOut_taken s rest _).trans hout), ht, reportMade, hv, hat.tfuOk]
  refine ⟨hleft, by rw [htfu, ho, hat.tfu], by rw [htfu, ho, hat.tfu], honly.mono hlen, fun hp => ?_⟩
  obtain ⟨htime, hcount⟩ := holds_reportHead (hholds (plainRam_mono hp hlen))
  exact ⟨htime.trans (by rw [hat.tfu]), hcount.trans (objsEnabled_atWork hat)⟩

/-! ### The innovation record (R299) -/

theorem jobStore_tfu (j : Job) (d : Nat) (l : List Byte) : (jobStore j s d l).tfu = s.tfu := stBytes_tfu ..

theorem signalAfter_rest (rs : List (Nat × Nat)) (r f : Nat) (c : Word) : (signalAfter s rs r f c).fgs = s.fgs ∧
    (signalAfter s rs r f c).memx.deferred = s.memx.deferred ∧ (signalAfter s rs r f c).tfu = s.tfu := by
  by_cases h : heldIn s rs = []
  · rw [signalAfter_free h, signal]
    split
    · exact ⟨rfl, rfl, rfl⟩
    · exact ⟨semAddOp_fgs .., by rw [semAddOp_memx], semAddOp_tfu ..⟩
  · obtain ⟨m, hm⟩ : ∃ m : List LateSignal, signalAfter s rs r f c = { s with memx := { s.memx with signals := m } } := by
      unfold signalAfter
      split
      · contradiction
      · exact ⟨_, rfl⟩
    rw [hm]
    exact ⟨rfl, rfl, rfl⟩

/-- What an innovation leaves: the jobs, the completions, the filters but for the record's number, and registers below its statistics. -/
structure Innovated (s t : State) : Prop where
  fgs : t.fgs = s.fgs
  deferred : t.memx.deferred = s.memx.deferred
  tfu : t.tfu = { s.tfu with innov := s.tfu.innov + 1 }
  regs : ∀ a, Unnoted a → a ≠ R.tfuInnovSeq → a < R.tfuSensNis 0 → rd t a = rd s a

namespace Innovated

theorem wr (h : Innovated s t) (ha : R.tfuSensNis 0 ≤ a) (v : Word) : Innovated s (wr t a v) :=
  ⟨h.fgs, h.deferred, h.tfu, fun b hb hne hlt => (rd_wr_other _ v (by omega)).trans (h.regs b hb hne hlt)⟩

theorem working (h : Innovated t u) (k : Working s rest t) : Working s rest u := k.step h.fgs h.deferred

end Innovated

theorem innovate_leaves (s : State) (j : Job) (r : List Byte) (st nis m flags : Nat) : Innovated s (innovate s j r st nis m flags) := by
  have hstored (d : Nat) (l : List Byte) (rs : List (Nat × Nat)) (f : Nat) (c : Word) :
      let s1 := jobStore j s d l
      Innovated s (signalAfter (Machine.wr { s1 with tfu := { s1.tfu with innov := s.tfu.innov + 1 } } R.tfuInnovSeq s.tfu.innov) rs 7 f c) := by
    intro s1
    obtain ⟨hfgs, hdeferred, htfu⟩ := signalAfter_rest
      (s := Machine.wr { s1 with tfu := { s1.tfu with innov := s.tfu.innov + 1 } } R.tfuInnovSeq s.tfu.innov) rs 7 f c
    refine ⟨hfgs.trans (stBytes_fgs ..), hdeferred.trans ?_, htfu.trans ?_, fun a ha hne _ => (ha.rd_signalAfter ..).trans ?_⟩
    · show (stBytes s d l).memx.deferred = _
      rw [stBytes_memx]
    · show { s1.tfu with innov := s.tfu.innov + 1 } = _
      rw [show s1.tfu = s.tfu from jobStore_tfu ..]
    · exact (rd_wr_other _ _ hne).trans (ha.rd_stBytes d l)
  unfold innovate
  dsimp only
  split
  · exact hstored ..
  · split
    · exact (hstored ..).wr (a := R.tfuSensCnt _) (by simp only [R.tfuSensCnt, R.tfuSensNis]; omega) _
    · exact ((hstored ..).wr (a := R.tfuSensCnt _) (by simp only [R.tfuSensCnt, R.tfuSensNis]; omega) _).wr
        (a := R.tfuSensNis _) (by simp only [R.tfuSensNis]; omega) _

end Sys2Proof.Machine
end

section
/-! SUPPORT. UPDATE: the checks of its block and record, the update of the ego filter and of an object's (R295 to R299, R304); settles
O38. -/

namespace Sys2Proof.Machine

variable {s t u : State} {a n : Nat} {j : Job} {rest : List Job}

/-! ### A record whose checks are passed (R295, R296) -/

theorem updateChecks_taken (s : State) (rest : List Job) (b : List Byte) : updateChecks (tfuTaken s rest) b = updateChecks s b := by
  have hego : rb (tfuTaken s rest) R.tfuEgoCfg 31 = rb s R.tfuEgoCfg 31 := rb_taken s rest 31 (by decide)
  have hobj (k : Nat) : rb (tfuTaken s rest) (R.tfuObjCfg k) 31 = rb s (R.tfuObjCfg k) 31 :=
    rb_taken s rest 31 (by simp only [R.tfuObjCfg, R.tfuStatus]; omega)
  simp only [updateChecks, hego, hobj, engineRange_taken]

/-- Whether a measurement lies after the last pose, and the time it is taken at. -/
def measLate (s : State) (r : List Byte) : Bool := decide (s.tfu.pose.time < (rec8 r 0 8 : Int))
def measTime (s : State) (r : List Byte) : Int := if measLate s r then s.tfu.pose.time else rec8 r 0 8

theorem AtWork.measLate (h : AtWork s rest t) (r : List Byte) : measLate t r = measLate s r := by
  rw [Machine.measLate, h.tfu, ← Machine.measLate]

theorem AtWork.measTime (h : AtWork s rest t) (r : List Byte) : measTime t r = measTime s r := by
  rw [Machine.measTime, h.measLate, h.tfu, ← Machine.measTime]

/-- An UPDATE's work on a sound record `r` of units `us`. -/
def updateWith (s : State) (j : Job) (us : List Int) (r : List Byte) : State :=
  if !measForm r (rec8 j.block 2 1) us.length then tfuRefuse s j 8
  else
    let late := report (innovate s j r 0x29 0xFFFFFFFF us.length 2) j.owner 0x29
    match histAt (measTime s r) s.tfu.hist none with
    | none => late
    | some h =>
      if rec8 j.block 1 1 = 0 then
        if rec8 j.block 2 1 = 0x03 then
          match histAt (rec8 r 8 8) s.tfu.hist none with
          | some rp => egoUpdate s j r us h rp (measLate s r)
          | none => late
        else egoUpdate s j r us h h (measLate s r)
      else objUpdate s j r us (measTime s r) h (measLate s r)

theorem updateJob_good {us : List Int} (hfirst : firstBad (updateChecks s j.block) = none) (hunits : measUnits (rec8 j.block 2 1) = some us)
    (hgood : badData s [(rec8 j.block 8 8, 160)] = false) : let t := noteIo s [(rec8 j.block 8 8, 160)] []
    updateJob s j = updateWith t j us (ldBytes t (rec8 j.block 8 8) 160) := by
  intro t
  have hjob : updateJob s j = jobIo s [(rec8 j.block 8 8, 160)] [] (fun s => report s j.owner 0x26) fun v =>
      updateWith v j us (ldBytes v (rec8 j.block 8 8) 160) := by
    unfold updateJob
    dsimp only
    rw [hfirst, hunits]
    unfold updateWith measTime measLate
    rfl
  rw [hjob, jobIo_good _ _ hgood rfl]

theorem updateJob_refused {k : Nat} (hfirst : firstBad (updateChecks s j.block) = some k) : updateJob s j = tfuRefuse s j k := by
  unfold updateJob
  dsimp only
  rw [hfirst]

/-- A record that is late before the history, or whose reference is: an innovation without an update. -/
theorem innovated_spec (hat : AtWork s rest t) (r : List Byte) (st nis m flags : Nat) :
    let u := report (innovate t j r st nis m flags) j.owner st
    Left s j rest u st ∧ u.tfu = { s.tfu with innov := s.tfu.innov + 1 } := by
  have hleaves := innovate_leaves t j r st nis m flags
  exact ⟨(hleaves.working hat.working).left st, (report_tfu ..).trans (hleaves.tfu.trans (by rw [hat.tfu]))⟩

/-! ### The ego filter (R298) -/

/-- The gain of an ego update with its correction, at pose `h` and reference `rp`. -/
def egoKalman (s : State) (j : Job) (r : List Byte) (us : List Int) (h rp : PoseAt) : Option Updated × Nat :=
  let im := egoInnov (tfuN s) (rec8 j.block 2 1) r h rp
  kalman s.tfu.p (normH im.2 us ((List.range (tfuN s)).map (tfuExp s))) (measR r us.length) (List.zipWith raw24 im.1 us)

theorem egoKalman_atWork (hat : AtWork s rest t) (r : List Byte) (us : List Int) (h rp : PoseAt) :
    egoKalman t j r us h rp = egoKalman s j r us h rp := by
  simp only [egoKalman, hat.tfuN, hat.tfuExp, hat.tfu]

theorem egoUpdate_none {r : List Byte} {us : List Int} {h rp : PoseAt} (late : Bool) (hk : (egoKalman s j r us h rp).1 = none) :
    ∃ sat, egoUpdate s j r us h rp late =
      report (innovate (bump (tfuEvent (covSat s sat) 4) R.tfuNumericCnt) j r 0x22 0xFFFFFFFF us.length (2 + late.toNat)) j.owner 0x22 := by
  have hpair : egoKalman s j r us h rp = (none, (egoKalman s j r us h rp).2) := Prod.ext hk rfl
  refine ⟨(egoKalman s j r us h rp).2, ?_⟩
  unfold egoUpdate
  dsimp only
  rw [show kalman _ _ _ _ = _ from hpair]

/-- An update counted and shown in the mode. -/
def updateShown (s : State) : State :=
  let s2 := poseFlag (bumpWrap s R.tfuUpdates) 2
  if tfuMode s2 = 0 then s2 else setMode s2 2

theorem updateShown_spec (s : State) : FilterWork s (updateShown s) ∧ (∃ f, (updateShown s).tfu = { s.tfu with flags := f }) ∧
    rd (updateShown s) R.tfuUpdates = rd s R.tfuUpdates + 1 ∧ tfuMode (updateShown s) = (if tfuMode s = 0 then 0 else 2) := by
  have hcounted : FilterWork s (poseFlag (bumpWrap s R.tfuUpdates) 2) := (FilterWork.refl.wr (a := R.tfuUpdates) (by decide) _).poseFlag 2
  have hmode : tfuMode (poseFlag (bumpWrap s R.tfuUpdates) 2) = tfuMode s := by
    rw [tfuMode, rf]
    exact congrArg (fld · 1 0) (rd_bumpWrap_other s (by decide))
  have hcount : rd (poseFlag (bumpWrap s R.tfuUpdates) 2) R.tfuUpdates = rd s R.tfuUpdates + 1 := rd_bumpWrap_same s R.tfuUpdates
  unfold updateShown
  dsimp only
  split
  case isTrue hoff => exact ⟨hcounted, ⟨_, rfl⟩, hcount, by rw [if_pos (hmode ▸ hoff), hoff]⟩
  case isFalse hoff =>
    exact ⟨hcounted.setMode 2, ⟨_, setMode_tfu ..⟩, by rw [rd_setMode (by decide) (by decide), hcount],
      by rw [tfuMode_setMode (by decide), if_neg (hmode ▸ hoff)]⟩

/-- The filter with the correction folded in and its covariance. -/
def egoFolded (s : State) (x : Updated) (sat : Nat) : State :=
  setCov { s with tfu := { fold s.tfu x.delta with aided := some s.dt.now } } x.p sat

theorem egoUpdate_some {r : List Byte} {us : List Int} {h rp : PoseAt} {x : Updated} (late : Bool)
    (hk : (egoKalman s j r us h rp).1 = some x) : ∃ sat, egoUpdate s j r us h rp late =
      report (innovate (updateShown (egoFolded s x sat)) j r (if late then 6 else tfuOk s) x.nis us.length late.toNat) j.owner
        (if late then 6 else tfuOk s) := by
  have hpair : egoKalman s j r us h rp = (some x, (egoKalman s j r us h rp).2) := Prod.ext hk rfl
  refine ⟨(egoKalman s j r us h rp).2, ?_⟩
  unfold egoUpdate
  dsimp only
  rw [show kalman _ _ _ _ = _ from hpair]
  rfl

theorem egoFolded_spec (s : State) (x : Updated) (sat : Nat) : let v := updateShown (egoFolded s x sat)
    FilterWork s v ∧ v.tfu.pose = (fold s.tfu x.delta).pose ∧ v.tfu.aided = some s.dt.now ∧ v.tfu.innov = s.tfu.innov ∧
      rd v R.tfuUpdates = rd s R.tfuUpdates + 1 ∧ tfuMode v = (if tfuMode s = 0 then 0 else 2) := by
  obtain ⟨f, hf⟩ := setCov_tfu { s with tfu := { fold s.tfu x.delta with aided := some s.dt.now } } x.p sat
  obtain ⟨hwork, ⟨f', hshown⟩, hcount, hmode⟩ := updateShown_spec (egoFolded s x sat)
  have hrd (b : Nat) (hb : b ∉ covRegs) (hdiag : b < R.tfuEgoDiag 0) : rd (egoFolded s x sat) b = rd s b := rd_setCov x.p sat hb hdiag
  have hfold : FilterWork s (egoFolded s x sat) := (FilterWork.refl.filters _).setCov x.p sat
  have htfu : (updateShown (egoFolded s x sat)).tfu = _ := hshown.trans (congrArg (fun w : Tfu => { w with flags := f' }) hf)
  dsimp only
  rw [htfu, hcount, hmode, hrd _ (by decide) (by decide), tfuMode, rf, hrd _ (by decide) (by decide), ← rf, ← tfuMode]
  exact ⟨hfold.trans hwork, rfl, rfl, rfl, rfl, rfl⟩

/-- An ego update whose pivot is not positive. -/
theorem ego_numeric (hat : AtWork s rest t) {r : List Byte} {us : List Int} {h rp : PoseAt} (late : Bool)
    (hk : (egoKalman s j r us h rp).1 = none) : let u := egoUpdate t j r us h rp late
    Left s j rest u 0x22 ∧ u.tfu.pose = s.tfu.pose ∧ u.tfu.innov = s.tfu.innov + 1 := by
  intro u
  obtain ⟨sat, hu⟩ := egoUpdate_none late ((congrArg Prod.fst (egoKalman_atWork hat r us h rp)).trans hk)
  obtain ⟨f, hf⟩ := covSat_tfu t sat
  have hwork : FilterWork t (bump (tfuEvent (covSat t sat) 4) R.tfuNumericCnt) :=
    ((FilterWork.refl.covSat sat).tfuEvent 4).wr (a := R.tfuNumericCnt) (by decide) _
  have htfu : (bump (tfuEvent (covSat t sat) 4) R.tfuNumericCnt).tfu = { s.tfu with flags := f } := hf.trans (by rw [hat.tfu])
  have hleaves := innovate_leaves (bump (tfuEvent (covSat t sat) 4) R.tfuNumericCnt) j r 0x22 0xFFFFFFFF us.length (2 + late.toNat)
  have hkept := (report_tfu (innovate (bump (tfuEvent (covSat t sat) 4) R.tfuNumericCnt) j r 0x22 0xFFFFFFFF us.length
    (2 + late.toNat)) j.owner 0x22).trans hleaves.tfu
  rw [htfu] at hkept
  rw [show u = _ from hu, hkept]
  exact ⟨(hleaves.working (hwork.working hat.working)).left _, rfl, rfl⟩

/-- An ego update that corrects the pose. -/
theorem ego_corrects (hat : AtWork s rest t) {r : List Byte} {us : List Int} {h rp : PoseAt} {x : Updated} (late : Bool)
    (hk : (egoKalman s j r us h rp).1 = some x) : let u := egoUpdate t j r us h rp late
    Left s j rest u (if late then 6 else tfuOk s) ∧ u.tfu.pose = (fold s.tfu x.delta).pose ∧ rd u R.tfuUpdates = rd s R.tfuUpdates + 1 ∧
      u.tfu.aided = some s.dt.now ∧ tfuMode u = (if tfuMode s = 0 then 0 else 2) ∧ u.tfu.innov = s.tfu.innov + 1 := by
  intro u
  obtain ⟨sat, hu⟩ := egoUpdate_some late ((congrArg Prod.fst (egoKalman_atWork hat r us h rp)).trans hk)
  obtain ⟨hwork, hpose, haided, hinnov, hupdates, hmode⟩ := egoFolded_spec t x sat
  generalize updateShown (egoFolded t x sat) = v at hu hwork hpose haided hinnov hupdates hmode
  have hleaves := innovate_leaves v j r (if late then 6 else tfuOk t) x.nis us.length late.toNat
  rw [hat.tfuOk] at hu hleaves
  have hrd (b : Nat) (hb : Unnoted b) (hne : b ≠ R.tfuInnovSeq) (hlow : b < R.tfuSensNis 0) : rd u b = rd v b := by
    rw [show u = _ from hu, rd_report]
    exact hleaves.regs b hb hne hlow
  have htfu : u.tfu = { v.tfu with innov := v.tfu.innov + 1 } := by
    rw [show u = _ from hu, report_tfu]
    exact hleaves.tfu
  have hbefore : rd t R.tfuUpdates = rd s R.tfuUpdates :=
    hat.regs _ (unnoted_of_mod (by decide) (by decide) (by decide)) (by decide)
  refine ⟨?_, by rw [htfu, hpose, hat.tfu], ?_, by rw [htfu, haided, hat.now], ?_, by rw [htfu, hinnov, hat.tfu]⟩
  · rw [show u = _ from hu]
    exact (hleaves.working (hwork.working hat.working)).left _
  · rw [hrd _ (unnoted_of_mod (by decide) (by decide) (by decide)) (by decide) (by decide), hupdates, hbefore]
  · rw [tfuMode, rf, hrd _ (unnoted_of_mod (by decide) (by decide) (by decide)) (by decide) (by decide), ← rf, ← tfuMode, hmode, hat.mode]

/-! ### The filter of an object (R304) -/

/-- Filters of objects worked on, and the innovation recorded. -/
theorem objInnovated_spec (hat : AtWork s rest t) (hwork : FilterWork t u) (hpose : u.tfu.pose = t.tfu.pose) (r : List Byte)
    (st nis m flags : Nat) : let v := report (innovate u j r st nis m flags) j.owner st
    Left s j rest v st ∧ v.tfu.pose = s.tfu.pose ∧ v.tfu.objs = u.tfu.objs := by
  intro v
  have hleaves := innovate_leaves u j r st nis m flags
  have htfu : v.tfu = { u.tfu with innov := u.tfu.innov + 1 } := (report_tfu ..).trans hleaves.tfu
  exact ⟨(hleaves.working (hwork.working hat.working)).left st, by rw [htfu, hpose, hat.tfu], by rw [htfu]⟩

theorem objInit_spec (s : State) (k ty : Nat) (r : List Byte) (x : Int) (h : PoseAt) : (objInit s k ty r x h).1.time = x ∧
    (objInit s k ty r x h).1.updates = 1 ∧ (objInit s k ty r x h).2.2 = (drawNat s).2 := ⟨rfl, rfl, rfl⟩

/-- The state of a first update before its record. -/
def objStarted (s : State) (k : Nat) (o : TfuObj) (c : ObjCounts) : State :=
  wf (bumpWrap (setObj (objSat s c) k (some o)) R.tfuUpdates) (R.tfuObjCfg k) 29 29 1

theorem objUpdate_none {r : List Byte} {us : List Int} {x : Int} {h : PoseAt} (late : Bool)
    (hobj : tabGet none s.tfu.objs (rec8 j.block 1 1 - 1) = none) : let k := rec8 j.block 1 1 - 1
    let i := objInit s k (rec8 j.block 2 1) r x h
    let v := drawNat (objStarted (drawNat s).2 k i.1 i.2.1)
    objUpdate s j r us x h late = report (innovate v.2 j r (if late then 6 else tfuOk s) (v.1 % 2 ^ 32) us.length late.toNat) j.owner
      (if late then 6 else tfuOk s) := by
  dsimp only
  unfold objUpdate
  dsimp only
  rw [hobj]
  rfl

/-- An object's first update starts its filter. -/
theorem obj_starts (hat : AtWork s rest t) {r : List Byte} {us : List Int} {x : Int} {h : PoseAt} (late : Bool)
    (hobj : tabGet none s.tfu.objs (rec8 j.block 1 1 - 1) = none) : let u := objUpdate t j r us x h late
    Left s j rest u (if late then 6 else tfuOk s) ∧ ∃ o, tabGet none u.tfu.objs (rec8 j.block 1 1 - 1) = some o ∧ o.time = x ∧
      o.updates = 1 := by
  intro u
  have hu := objUpdate_none (r := r) (us := us) (x := x) (h := h) late (hat.tfu ▸ hobj)
  obtain ⟨htime, hupdates, -⟩ := objInit_spec t (rec8 j.block 1 1 - 1) (rec8 j.block 2 1) r x h
  dsimp only at hu
  rw [hat.tfuOk] at hu
  generalize objInit t (rec8 j.block 1 1 - 1) (rec8 j.block 2 1) r x h = i at hu htime hupdates
  have hset : ObjWork t (setObj (objSat (drawNat t).2 i.2.1) (rec8 j.block 1 1 - 1) (some i.1)) := (ObjWork.refl.drawn.objSat _).setObj _ _
  have hstarted : FilterWork t (objStarted (drawNat t).2 (rec8 j.block 1 1 - 1) i.1 i.2.1) :=
    (hset.work.wr (a := R.tfuUpdates) (by decide) _).wr (a := R.tfuObjCfg _) (by simp only [R.tfuObjCfg]; omega) _
  obtain ⟨o, ho⟩ := hset.objs
  obtain ⟨hleft, -, hobjs⟩ := objInnovated_spec (j := j) hat hstarted.drawn (congrArg Tfu.pose ho :) r (if late then 6 else tfuOk s)
    ((drawNat (objStarted (drawNat t).2 (rec8 j.block 1 1 - 1) i.1 i.2.1)).1 % 2 ^ 32) us.length late.toNat
  rw [show u = _ from hu]
  refine ⟨hleft, i.1, ?_, htime, hupdates⟩
  rw [hobjs]
  exact tabGet_setObj ..

theorem objPredict_spec (s : State) (k : Nat) (o : TfuObj) (x : Int) : (objPredict s k o x).1.time = max x o.time ∧
    (objPredict s k o x).1.updates = o.updates := by
  unfold objPredict
  split
  case isTrue hle => exact ⟨(max_eq_right hle).symm, rfl⟩
  case isFalse hlt =>
    have hlater : x = max x o.time := (max_eq_left (by omega)).symm
    exact ⟨hlater, rfl⟩

/-- The two ends of a later update: the prediction alone, or the correction. -/
theorem objUpdate_some {r : List Byte} {us : List Int} {x : Int} {h : PoseAt} (late : Bool) {o : TfuObj}
    (hobj : tabGet none s.tfu.objs (rec8 j.block 1 1 - 1) = some o) : let k := rec8 j.block 1 1 - 1
    let p := objPredict s k o x
    let st := if late then 6 else tfuOk s
    (∃ c nis flags, objUpdate s j r us x h late = report (innovate (bump (tfuEvent (objSat (setObj (objSat s p.2) k (some p.1)) c) 4)
        R.tfuNumericCnt) j r 0x22 nis us.length flags) j.owner 0x22) ∨
      ∃ xn pf c nis flags, objUpdate s j r us x h late = report (innovate (bumpWrap (objSat (setObj (objSat s p.2) k
        (some { p.1 with x := xn, p := pf, updates := p.1.updates + 1 })) c) R.tfuUpdates) j r st nis us.length flags) j.owner st := by
  dsimp only
  unfold objUpdate
  dsimp only
  rw [hobj]
  dsimp only
  split
  · exact .inl ⟨_, _, _, rfl⟩
  · exact .inr ⟨_, _, _, _, _, rfl⟩

/-- A later update predicts an object's filter, and corrects it unless a pivot is not positive. -/
theorem obj_corrects (hat : AtWork s rest t) {r : List Byte} {us : List Int} {x : Int} {h : PoseAt} (late : Bool) {o : TfuObj}
    (hobj : tabGet none s.tfu.objs (rec8 j.block 1 1 - 1) = some o) : let u := objUpdate t j r us x h late
    u.tfu.pose = s.tfu.pose ∧ ∃ q, tabGet none u.tfu.objs (rec8 j.block 1 1 - 1) = some q ∧ q.time = max x o.time ∧
      (Left s j rest u 0x22 ∧ q.updates = o.updates ∨ Left s j rest u (if late then 6 else tfuOk s) ∧ q.updates = o.updates + 1) := by
  intro u
  have hcases := objUpdate_some (r := r) (us := us) (x := x) (h := h) late (hat.tfu ▸ hobj)
  obtain ⟨htime, hupdates⟩ := objPredict_spec t (rec8 j.block 1 1 - 1) o x
  dsimp only at hcases
  rw [hat.tfuOk] at hcases
  generalize objPredict t (rec8 j.block 1 1 - 1) o x = p at hcases htime hupdates
  have hset (q : TfuObj) (c : ObjCounts) :
      ObjWork t (objSat (setObj (objSat t p.2) (rec8 j.block 1 1 - 1) (some q)) c) := ((ObjWork.refl.objSat _).setObj _ _).objSat c
  have hgot (q : TfuObj) (c : ObjCounts) :
      tabGet none (objSat (setObj (objSat t p.2) (rec8 j.block 1 1 - 1) (some q)) c).tfu.objs (rec8 j.block 1 1 - 1) = some q := by
    rw [objSat_tfu]
    exact tabGet_setObj ..
  obtain ⟨c, nis, flags, hu⟩ | ⟨xn, pf, c, nis, flags, hu⟩ := hcases
  · obtain ⟨o', ho'⟩ := (hset p.1 c).objs
    obtain ⟨hleft, hpose, hobjs⟩ := objInnovated_spec (j := j) hat (((hset p.1 c).work.tfuEvent 4).wr (a := R.tfuNumericCnt) (by decide) _)
      (congrArg Tfu.pose ho' :) r 0x22 nis us.length flags
    rw [show u = _ from hu]
    exact ⟨hpose, p.1, (congrArg (tabGet none · _) hobjs).trans (hgot p.1 c), htime, .inl ⟨hleft, hupdates⟩⟩
  · obtain ⟨o', ho'⟩ := (hset { p.1 with x := xn, p := pf, updates := p.1.updates + 1 } c).objs
    obtain ⟨hleft, hpose, hobjs⟩ := objInnovated_spec (j := j) hat
      ((hset { p.1 with x := xn, p := pf, updates := p.1.updates + 1 } c).work.wr (a := R.tfuUpdates) (by decide) _)
      (congrArg Tfu.pose ho' :) r (if late then 6 else tfuOk s) nis us.length flags
    rw [show u = _ from hu]
    exact ⟨hpose, _, (congrArg (tabGet none · _) hobjs).trans (hgot _ c), htime, .inr ⟨hleft, by rw [hupdates]⟩⟩

/-! ### UPDATE (R295 to R299) -/

theorem exec_update_good {us : List Int} (hu : s.up = true) (hdue : tfuDue s 1 j rest) (hfirst : firstBad (updateChecks s j.block) = none)
    (hunits : measUnits (rec8 j.block 2 1) = some us) (hgood : badData s [(rec8 j.block 8 8, 160)] = false) :
    ∃ t, AtWork s rest t ∧ exec .update s = .next (updateWith t j us (ldBytes s (rec8 j.block 8 8) 160)) := by
  have hat := (AtWork.taken s rest).noted (.noteIo _ [(rec8 j.block 8 8, 160)] [])
  refine ⟨_, hat, (tfuWork_due updateJob hu hdue :).trans ?_⟩
  rw [updateJob_good (by rw [updateChecks_taken]; exact hfirst) hunits ((badData_taken s rest _).trans hgood), hat.ldBytes]

section
variable {us : List Int} {r : List Byte}

theorem updateWith_misformed (hform : measForm r (rec8 j.block 2 1) us.length = false) : updateWith s j us r = tfuRefuse s j 8 := by
  simp [updateWith, hform]

variable (hat : AtWork s rest t) (hform : measForm r (rec8 j.block 2 1) us.length = true)
include hat hform

theorem updateWith_early (hhist : histAt (measTime s r) s.tfu.hist none = none) :
    updateWith t j us r = report (innovate t j r 0x29 0xFFFFFFFF us.length 2) j.owner 0x29 := by
  rw [updateWith, hform, hat.measTime, hat.tfu, hhist]
  rfl

variable {h : PoseAt} (hhist : histAt (measTime s r) s.tfu.hist none = some h)
include hhist

theorem updateWith_unreferenced (hego : rec8 j.block 1 1 = 0) (hrel : rec8 j.block 2 1 = 3)
    (href : histAt (rec8 r 8 8) s.tfu.hist none = none) :
    updateWith t j us r = report (innovate t j r 0x29 0xFFFFFFFF us.length 2) j.owner 0x29 := by
  rw [updateWith, hform, hat.measTime, hat.tfu, hhist, href]
  simp [hego, hrel]

theorem updateWith_ego {rp : PoseAt} (hego : rec8 j.block 1 1 = 0)
    (hrp : rp = h ∧ rec8 j.block 2 1 ≠ 3 ∨ histAt (rec8 r 8 8) s.tfu.hist none = some rp ∧ rec8 j.block 2 1 = 3) :
    updateWith t j us r = egoUpdate t j r us h rp (measLate s r) := by
  rw [updateWith, hform, hat.measTime, hat.measLate, hat.tfu, hhist]
  obtain ⟨rfl, hrel⟩ | ⟨href, hrel⟩ := hrp
  · simp [hego, hrel]
  · simp [hego, hrel, href]

theorem updateWith_object (hobj : rec8 j.block 1 1 ≠ 0) :
    updateWith t j us r = objUpdate t j r us (measTime s r) h (measLate s r) := by
  rw [updateWith, hform, hat.measTime, hat.measLate, hat.tfu, hhist]
  simp [hobj]

end

/-! ### The clauses of UPDATE -/

section
variable {us : List Int} {r : List Byte} {t : State} (hat : AtWork s rest t) (hexec : exec .update s = .next (updateWith t j us r))
include hat hexec

theorem update_ego_clause {h rp : PoseAt} (hform : measForm r (rec8 j.block 2 1) us.length = true)
    (hhist : histAt (measTime s r) s.tfu.hist none = some h) (hego : rec8 j.block 1 1 = 0)
    (hrp : rp = h ∧ rec8 j.block 2 1 ≠ 3 ∨ histAt (rec8 r 8 8) s.tfu.hist none = some rp ∧ rec8 j.block 2 1 = 3) :
    ((egoKalman s j r us h rp).1 = none → Runs .update s fun u => Left s j rest u 0x22 ∧ u.tfu.pose = s.tfu.pose ∧
        u.tfu.innov = s.tfu.innov + 1) ∧
      ∀ x, (egoKalman s j r us h rp).1 = some x → Runs .update s fun u => Left s j rest u (if measLate s r then 6 else tfuOk s) ∧
        u.tfu.pose = (fold s.tfu x.delta).pose ∧ rd u R.tfuUpdates = rd s R.tfuUpdates + 1 ∧ u.tfu.aided = some s.dt.now ∧
        tfuMode u = (if tfuMode s = 0 then 0 else 2) ∧ u.tfu.innov = s.tfu.innov + 1 := by
  rw [updateWith_ego hat hform hhist hego hrp] at hexec
  exact ⟨fun hk => ⟨_, hexec, ego_numeric hat _ hk⟩, fun x hk => ⟨_, hexec, ego_corrects hat _ hk⟩⟩

theorem update_object_clause {h : PoseAt} (hform : measForm r (rec8 j.block 2 1) us.length = true)
    (hhist : histAt (measTime s r) s.tfu.hist none = some h) (hobj : rec8 j.block 1 1 ≠ 0) : let k := rec8 j.block 1 1 - 1
    (tabGet none s.tfu.objs k = none → Runs .update s fun u => Left s j rest u (if measLate s r then 6 else tfuOk s) ∧
      ∃ o, tabGet none u.tfu.objs k = some o ∧ o.time = measTime s r ∧ o.updates = 1) ∧
    ∀ o, tabGet none s.tfu.objs k = some o → Runs .update s fun u => u.tfu.pose = s.tfu.pose ∧
      ∃ q, tabGet none u.tfu.objs k = some q ∧ q.time = max (measTime s r) o.time ∧
        (Left s j rest u 0x22 ∧ q.updates = o.updates ∨ Left s j rest u (if measLate s r then 6 else tfuOk s) ∧ q.updates = o.updates + 1) := by
  rw [updateWith_object hat hform hhist hobj] at hexec
  exact ⟨fun hnone => ⟨_, hexec, obj_starts hat _ hnone⟩, fun o hsome => ⟨_, hexec, obj_corrects hat _ hsome⟩⟩

end

/-- An UPDATE whose block passes its checks and whose record is sound. -/
theorem update_clause (hu : s.up = true) (hdue : tfuDue s 1 j rest) {us : List Int} (hfirst : firstBad (updateChecks s j.block) = none)
    (hunits : measUnits (rec8 j.block 2 1) = some us) (hgood : badData s [(rec8 j.block 8 8, 160)] = false) :
    let r := ldBytes s (rec8 j.block 8 8) 160
    (measForm r (rec8 j.block 2 1) us.length = false → Runs .update s fun u => Left s j rest u 0x23 ∧ bit (rd u R.tfuErr) 0 = true ∧
      SameBytes s u ∧ u.tfu = s.tfu) ∧
    (measForm r (rec8 j.block 2 1) us.length = true →
      (histAt (measTime s r) s.tfu.hist none = none → Runs .update s fun u => Left s j rest u 0x29 ∧ u.tfu.innov = s.tfu.innov + 1 ∧
        u.tfu.pose = s.tfu.pose ∧ u.tfu.p = s.tfu.p) ∧
      ∀ h, histAt (measTime s r) s.tfu.hist none = some h →
        (rec8 j.block 1 1 = 0 → rec8 j.block 2 1 = 3 → histAt (rec8 r 8 8) s.tfu.hist none = none →
          Runs .update s fun u => Left s j rest u 0x29 ∧ u.tfu.pose = s.tfu.pose)) := by
  obtain ⟨t, hat, hexec⟩ := exec_update_good hu hdue hfirst hunits hgood
  refine ⟨fun hform => ⟨_, hexec, ?_⟩, fun hform => ⟨fun hhist => ⟨_, hexec, ?_⟩, fun h hhist hego hrel href => ⟨_, hexec, ?_⟩⟩⟩
  · rw [updateWith_misformed hform]
    exact hat.refused j 8
  · rw [updateWith_early hat hform hhist]
    obtain ⟨hleft, htfu⟩ := innovated_spec (j := j) hat (ldBytes s (rec8 j.block 8 8) 160) 0x29 0xFFFFFFFF us.length 2
    exact ⟨hleft, by rw [htfu], by rw [htfu], by rw [htfu]⟩
  · rw [updateWith_unreferenced hat hform hhist hego hrel href]
    obtain ⟨hleft, htfu⟩ := innovated_spec (j := j) hat (ldBytes s (rec8 j.block 8 8) 160) 0x29 0xFFFFFFFF us.length 2
    exact ⟨hleft, by rw [htfu]⟩

theorem update_refused (hu : s.up = true) (hdue : tfuDue s 1 j rest) {k : Nat} (hfirst : firstBad (updateChecks s j.block) = some k) :
    Runs .update s fun u => Left s j rest u 0x23 ∧ bit (rd u R.tfuErr) 0 = true ∧ SameBytes s u ∧ u.tfu = s.tfu := by
  refine ⟨_, (tfuWork_due updateJob hu hdue :), ?_⟩
  rw [updateJob_refused (by rw [updateChecks_taken]; exact hfirst)]
  exact (AtWork.taken s rest).refused j k

/-- Settles O38, operation by operation: each job's work begins in a state that shows the same places and filters (`AtWork`), and
its report is the last thing done. -/
theorem fusionJobsDoTheirWork : Obligations.FusionJobsDoTheirWork := by
  intro s j rest hu hinv b a done
  refine ⟨?_, fun hdue k hfirst => update_refused hu hdue hfirst, ?_, ?_,
    fun hdue hfirst hout => report_clause hu hinv hdue hfirst hout, ?_⟩
  · intro hdue us h hfirst hunits hgood r late time form
    obtain ⟨hmis, hformed⟩ := update_clause hu hdue hfirst hunits hgood
    refine ⟨hmis, fun hform => ?_⟩
    obtain ⟨hearly, hunref⟩ := hformed hform
    obtain ⟨t, hat, hexec⟩ := exec_update_good hu hdue hfirst hunits hgood
    refine ⟨hearly, fun hhist => hunref h hhist, fun hhist => ⟨?_, ?_⟩⟩
    · intro hego rp hrp im k
      have hgain : egoKalman s j r us h rp = k := rfl
      have hclause := update_ego_clause hat hexec hform hhist hego hrp
      rw [hgain] at hclause
      exact hclause
    · intro hobj k
      exact update_object_clause hat hexec hform hhist hobj
  · intro hdue hfirst hgood r hq hz hy
    obtain ⟨v, hexec, hleft, hhist, hpose, hbg, hba, hmode, hevent, hbytes⟩ := reset_clause hu hdue hfirst hgood hq hz hy
    exact ⟨v, hexec, hleft, hhist, by rw [hpose]; rfl, by rw [hpose]; rfl, by rw [hpose]; rfl, hbg, hba, hmode, hevent, hbytes⟩
  · intro hdue m n nk hfirst lw cw la
    exact ⟨motion_unlatched hu hdue hfirst, fun hl hc hhist hgood hout => motion_latched hu hinv hdue hfirst hl hc hhist hgood hout⟩
  · intro hkat c hc
    simp only [List.mem_cons, List.not_mem_nil, or_false] at hc
    obtain rfl | rfl | rfl | rfl := hc
    · exact ⟨s, (tfuWork_test updateJob hu hkat :), rfl⟩
    · exact ⟨s, (tfuWork_test resetJob hu hkat :), rfl⟩
    · exact ⟨s, (tfuWork_test motionJob hu hkat :), rfl⟩
    · exact ⟨s, (tfuWork_test reportJob hu hkat :), rfl⟩

end Sys2Proof.Machine
end

section
/-! SUPPORT. What work on the flash leaves unchanged: memory, the committed epoch, the pins, and the registers that show faults of the
channels (R405 to R409, R430, R436 to R438). -/

namespace Sys2Proof.Machine

variable {s t u : State} {a c q : Nat}

/-! ### Registers that only a read, a fault or a loss of a channel writes -/

/-- A register below the flash channels but GLB_EPOCH, or a channel's status, event or count of reads and failures. -/
def KeptReg (a : Nat) : Prop := a < 0x200000 ∧ a ≠ R.glbEpochLo ∧ a ≠ R.glbEpochHi ∨
  0x200000 ≤ a ∧ a < 0x280000 ∧ (a % 0x10000 = 0x04 ∨ a % 0x10000 = 0x08 ∨ a % 0x10000 = 0x20 ∨ a % 0x10000 = 0x24 ∨
    a % 0x10000 = 0x2c ∨ a % 0x10000 = 0x30)

theorem keptReg_redir {k : Nat} (hk : k < 68) : KeptReg (R.memRedir k) :=
  .inl (by simp only [R.memRedir, R.glbEpochLo, R.glbEpochHi]; omega)

theorem keptReg_status (hc : c < 8) : KeptReg (R.flcStatus c) := .inr (by simp only [R.flcStatus]; omega)

theorem keptReg_event (hc : c < 8) : KeptReg (R.flcEvent c) := .inr (by simp only [R.flcEvent]; omega)

theorem not_keptReg_above (h : 0x280000 ≤ a) : ¬ KeptReg a := by
  unfold KeptReg
  omega

/-- A count of a channel's programs or erases, or a register of bad blocks, is none of them. -/
theorem not_keptReg_channel (h : 0x200000 ≤ a) (hmod : a % 0x10000 = 0x28 ∨ a % 0x10000 = 0x34 ∨ a % 0x10000 = 0x38) : ¬ KeptReg a := by
  unfold KeptReg
  omega

/-! ### Work of the store -/

/-- `t` is `s` after work of the map store that publishes nothing, pins nothing and adds no side entry. -/
structure MapWork (s t : State) : Prop where
  mem : t.mem = s.mem
  held : t.heldWrites = s.heldWrites
  sem : t.sem = s.sem
  queue : t.bbxQueue = s.bbxQueue
  dt : t.dt = s.dt
  committed : t.mst.committed = s.mst.committed
  pins : t.mst.pins = s.mst.pins
  side : ∀ e ∈ t.mst.side, e ∈ s.mst.side
  regs : ∀ a, KeptReg a → rd t a = rd s a

/-- The same where MST_STATUS keeps every bit but BUSY. -/
structure LaneWork (s t : State) : Prop extends MapWork s t where
  status : ∀ i, i ≠ 1 → (rd t R.mstStatus).getLsbD i = (rd s R.mstStatus).getLsbD i

namespace MapWork

theorem refl : MapWork s s := ⟨rfl, rfl, rfl, rfl, rfl, rfl, rfl, fun _ he => he, fun _ _ => rfl⟩

theorem trans (h : MapWork s t) (k : MapWork t u) : MapWork s u :=
  ⟨k.mem.trans h.mem, k.held.trans h.held, k.sem.trans h.sem, k.queue.trans h.queue, k.dt.trans h.dt, k.committed.trans h.committed,
    k.pins.trans h.pins, fun e he => h.side e (k.side e he), fun a ha => (k.regs a ha).trans (h.regs a ha)⟩

theorem sameBytes (h : MapWork s t) : SameBytes s t :=
  sameBytes_of_redirect (fun _ hk => h.regs _ (keptReg_redir hk)) h.mem h.held (by rw [h.sem])

theorem lostCh (h : MapWork s t) (hc : c < 8) : lostCh t c = lostCh s c := by
  rw [Machine.lostCh, rb, h.regs _ (keptReg_status hc), ← rb, ← Machine.lostCh]

/-- A change of the store that keeps what is committed and pinned, and adds no side entry. -/
theorem setMst (h : MapWork s t) {f : Mst → Mst} (hcommitted : (f t.mst).committed = t.mst.committed)
    (hpins : (f t.mst).pins = t.mst.pins) (hside : ∀ e ∈ (f t.mst).side, e ∈ t.mst.side) : MapWork s (setMst t f) :=
  h.trans ⟨rfl, rfl, rfl, rfl, rfl, hcommitted, hpins, hside, fun _ _ => rfl⟩

theorem setFlash (h : MapWork s t) (f : Flash → Flash) : MapWork s (setFlash t f) := h.setMst rfl rfl fun _ he => he

theorem wr (h : MapWork s t) (ha : ¬ KeptReg a) (v : Word) : MapWork s (wr t a v) :=
  h.trans ⟨rfl, rfl, rfl, rfl, rfl, rfl, rfl, fun _ he => he, fun _ hb => rd_wr_other _ v fun e => ha (e ▸ hb)⟩

end MapWork

namespace LaneWork

theorem refl : LaneWork s s := ⟨.refl, fun _ _ => rfl⟩

theorem trans (h : LaneWork s t) (k : LaneWork t u) : LaneWork s u :=
  ⟨h.toMapWork.trans k.toMapWork, fun i hi => (k.status i hi).trans (h.status i hi)⟩

theorem mstStatus (h : LaneWork s t) {i : Nat} (hi : i ≠ 1) : mstStatus t i = mstStatus s i := h.status i hi

theorem setMst (h : LaneWork s t) {f : Mst → Mst} (hcommitted : (f t.mst).committed = t.mst.committed)
    (hpins : (f t.mst).pins = t.mst.pins) (hside : ∀ e ∈ (f t.mst).side, e ∈ t.mst.side) : LaneWork s (setMst t f) :=
  ⟨h.toMapWork.setMst hcommitted hpins hside, h.status⟩

theorem setFlash (h : LaneWork s t) (f : Flash → Flash) : LaneWork s (setFlash t f) := h.setMst rfl rfl fun _ he => he

theorem wr (h : LaneWork s t) (ha : ¬ KeptReg a) (hne : a ≠ R.mstStatus) (v : Word) : LaneWork s (wr t a v) :=
  ⟨h.toMapWork.wr ha v, fun i hi => by rw [rd_wr_other _ _ hne.symm]; exact h.status i hi⟩

/-- A register from the MST block on, MST_STATUS apart. -/
theorem wrAbove (h : LaneWork s t) (ha : 0x280000 ≤ a) (hne : a ≠ R.mstStatus) (v : Word) : LaneWork s (Machine.wr t a v) :=
  h.wr (not_keptReg_above ha) hne v

theorem prs (h : LaneWork s t) (p : Prs) : LaneWork s { t with prs := p } :=
  h.trans ⟨⟨rfl, rfl, rfl, rfl, rfl, rfl, rfl, fun _ he => he, fun _ _ => rfl⟩, fun _ _ => rfl⟩

theorem finish (h : LaneWork s t) (o : Owner) (st : Nat) (res : List Byte) : LaneWork s (finish t o st res) := by
  obtain ⟨f, i, p, m, hfinish⟩ := finish_frame t o st res
  rw [hfinish]
  exact h.trans ⟨⟨rfl, rfl, rfl, rfl, rfl, rfl, rfl, fun _ he => he, fun _ _ => rfl⟩, fun _ _ => rfl⟩

theorem syncMst (h : LaneWork s t) : LaneWork s (syncMst t) := by
  refine ⟨h.toMapWork.wr (not_keptReg_above (by decide)) _, fun i hi => ?_⟩
  rw [Machine.syncMst, rd_wf_same, getLsbD_setFld (by decide) le_rfl, if_neg (by omega)]
  exact h.status i hi

theorem mstReport (h : LaneWork s t) (j : Job) (st : Nat) (res : List Byte) : LaneWork s (mstReport t j st res) := (h.finish ..).syncMst

theorem writeEnds (h : LaneWork s t) (st : Nat) (res : List Byte) : LaneWork s (writeEnds t st res) := by
  unfold Machine.writeEnds
  split
  · exact (h.setMst rfl rfl fun _ he => he).mstReport _ st res
  · exact h

/-! ### Stripes and pages -/

theorem newZone (h : LaneWork s t) {native : Bool} {e : Nat × State} (he : newZone t native = some e) : LaneWork s e.2 := by
  obtain ⟨bs, -, rfl⟩ := Option.map_eq_some_iff.mp he
  dsimp only
  exact h.setFlash _

theorem openZone (h : LaneWork s t) {native : Bool} {e : Nat × State} (he : openZone t native = some e) : LaneWork s e.2 := by
  unfold Machine.openZone at he
  split at he
  · split at he
    · split at he
      · cases he
        exact h
      · exact h.newZone he
    · exact h.newZone he
  · exact h.newZone he

theorem writeStripe (h : LaneWork s t) {native : Bool} {pages : List FPage} {e : Nat × State} (he : writeStripe t native pages = some e) :
    LaneWork s e.2 := by
  obtain ⟨z, hz, rfl⟩ := Option.map_eq_some_iff.mp he
  exact List.foldlRecOn (motive := LaneWork s) _ _ ((h.openZone hz).setFlash _) fun v hv c _ =>
    hv.wr (not_keptReg_channel (by simp only [R.flcProgs]; omega) (by simp only [R.flcProgs]; omega))
      (by simp only [R.flcProgs, R.mstStatus]; omega) _

theorem issueJournal (h : LaneWork s t) (ht : issueJournal t = some u) : LaneWork s u := by
  unfold Machine.issueJournal at ht
  split at ht
  · cases ht
    exact h
  · obtain ⟨e, he, rfl⟩ := Option.map_eq_some_iff.mp ht
    exact ((h.writeStripe he).setMst rfl rfl fun _ he => he).wrAbove (a := R.mstJrnlUsed) (by decide) (by decide) _

theorem killPages (h : LaneWork s t) (pids : List Nat) : LaneWork s (killPages t pids) := h.setFlash _

theorem writePages (h : LaneWork s t) {k : Nat} {native : Bool} {l : List FPage} (hw : writePages k t native l = some u) : LaneWork s u := by
  induction k generalizing t l with
  | zero =>
    cases hw
    exact h
  | succ k ih =>
    cases l with
    | nil =>
      cases hw
      exact h
    | cons p l =>
      obtain ⟨e, he, hrest⟩ := Option.bind_eq_some_iff.mp hw
      exact ih (h.writeStripe he) hrest

theorem movePages (h : LaneWork s t) {native : Bool} {l : List FPage} (hm : movePages t native l = some u) : LaneWork s u := by
  unfold Machine.movePages at hm
  split at hm
  · cases hm
    exact h
  · exact (h.killPages _).writePages hm

/-! ### Registers shown -/

theorem syncFlash (h : LaneWork s t) : LaneWork s (syncFlash t) := by
  unfold Machine.syncFlash
  dsimp only
  refine List.foldlRecOn (motive := LaneWork s) _ _ (((((h.wrAbove (a := R.mstCap) (by decide) (by decide) _).wrAbove (a := R.mstFree)
    (by decide) (by decide) _).wrAbove (a := R.mstZonesFree) (by decide) (by decide) _).wrAbove (a := R.mstEraseSpread) (by decide) (by decide)
    _).wrAbove (a := R.mstReprotLeft) (by decide) (by decide) _) fun v hv c _ => ?_
  exact hv.wr (not_keptReg_channel (by simp only [R.flcBadBlocks]; omega) (by simp only [R.flcBadBlocks]; omega))
    (by simp only [R.flcBadBlocks, R.mstStatus]; omega) _

theorem syncPrs (h : LaneWork s t) : LaneWork s (syncPrs t) :=
  ((h.wrAbove (a := R.prsStatus) (by decide) (by decide) _).wrAbove (a := R.prsIndex) (by decide) (by decide) _).wrAbove
    (a := R.prsSideUsed) (by decide) (by decide) _

theorem syncSu (h : LaneWork s t) : LaneWork s (syncSu t) := by
  unfold Machine.syncSu
  dsimp only
  exact List.foldlRecOn (motive := LaneWork s) _ _ h fun v hv c _ =>
    hv.wrAbove (a := R.prsSuStatus c) (by simp only [R.prsSuStatus]; omega) (by simp only [R.prsSuStatus, R.mstStatus]; omega) _

theorem setRunPrs (h : LaneWork s t) (f : PrsRun → PrsRun) : LaneWork s (setRunPrs t f) := h.prs _

theorem skipPage (h : LaneWork s t) (pid : Nat) : LaneWork s (skipPage t pid) :=
  ((h.setRunPrs _).wrAbove (a := R.prsPageLostCnt) (by decide) (by decide) _).wrAbove (a := R.prsEvent) (by decide) (by decide) _

theorem pageArrives (h : LaneWork s t) (q c : Nat) : LaneWork s (pageArrives t q c) := by
  unfold Machine.pageArrives
  dsimp only
  refine LaneWork.syncSu (List.foldlRecOn (motive := LaneWork s) _ _ h fun v hv p _ => ?_)
  split
  · exact hv.skipPage _
  · exact hv.setRunPrs _

theorem countLost (h : LaneWork s t) (before : Nat) : LaneWork s (countLost before t) :=
  h.wrAbove (a := R.mstPagesLost) (by decide) (by decide) _

/-! ### What follows the loss of a channel (R436 to R438) -/

theorem reroutePages (h : LaneWork s t) : LaneWork s (reroutePages t) := by
  unfold Machine.reroutePages
  dsimp only
  refine LaneWork.syncSu (LaneWork.setRunPrs (List.foldlRecOn (motive := LaneWork s) _ _ h fun v hv p _ => ?_) _)
  split
  · exact hv
  · split
    · exact hv.skipPage _
    · exact hv.setRunPrs _

theorem reissue (h : LaneWork s t) : LaneWork s (reissue t) := by
  unfold Machine.reissue
  refine List.foldlRecOn (motive := LaneWork s) _ _ h fun v hv p _ => ?_
  split
  · exact hv
  · split
    · exact hv
    · next q v1 hw =>
      have hagain : LaneWork s (bump (Machine.setMst v1 fun m => { m with
          programming := m.programming.map fun x => if x = p then { x with seq := q } else x }) R.mstJrnlUsed) :=
        (((hv.killPages _).writeStripe hw).setMst rfl rfl fun _ he => he).wrAbove (a := R.mstJrnlUsed) (by decide) (by decide) _
      dsimp only
      split
      · exact hagain
      · split
        · exact hagain
        · next q2 v2 hw2 =>
          exact ((hagain.writeStripe hw2).setMst rfl rfl fun _ he => he).wrAbove (a := R.mstJrnlUsed) (by decide) (by decide) _

theorem shrinkJournal (h : LaneWork s t) : LaneWork s (shrinkJournal t) := by
  unfold Machine.shrinkJournal
  split
  · exact h
  · dsimp only
    split
    · exact h
    · next v hv => exact ((h.setMst rfl rfl fun _ he => he).issueJournal hv).setMst rfl rfl fun _ he => he

theorem channelWork (h : LaneWork s t) : LaneWork s (channelWork t) := by
  unfold Machine.channelWork
  dsimp only
  refine LaneWork.syncPrs (LaneWork.syncFlash (LaneWork.reroutePages ?_))
  split
  · exact (h.setMst rfl rfl fun _ he => he).writeEnds ..
  · exact h.reissue.shrinkJournal

/-! ### A failed program (R408, R414) -/

theorem setStripe (h : LaneWork s t) (q : Nat) (f : Stripe → Stripe) : LaneWork s (setStripe t q f) := h.setFlash _

theorem rewriteFailed (h : LaneWork s t) (x : Stripe) (c : Nat) : LaneWork s (rewriteFailed t x c) := by
  unfold Machine.rewriteFailed
  dsimp only
  have hmarked := h.setStripe x.seq fun t => { t with unread := if t.unread.contains c then t.unread else t.unread ++ [c] }
  split
  · exact hmarked
  · next q v hw =>
    have hwritten := (hmarked.killPages _).writeStripe hw
    split
    · exact (hwritten.setMst rfl rfl fun _ he => he).wrAbove (a := R.mstJrnlUsed) (by decide) (by decide) _
    · exact hwritten

end LaneWork

end Sys2Proof.Machine
end

section
/-! SUPPORT. A channel that is lost, a page that is read, a program or an erase that fails (R405, R408, R436 to R438); a part of O45. -/

namespace Sys2Proof.Machine

variable {s t u : State} {a c d q : Nat}

/-! ### Work that leaves the store's state -/

@[simp] theorem syncFlash_mst (s : State) : (syncFlash s).mst = s.mst := by
  unfold syncFlash
  dsimp only
  rw [foldl_keep _ State.mst fun t i => wr_mst ..]
  rfl

@[simp] theorem syncPrs_mst (s : State) : (syncPrs s).mst = s.mst := rfl

@[simp] theorem syncSu_mst (s : State) : (syncSu s).mst = s.mst := by
  unfold syncSu
  dsimp only
  rw [foldl_keep _ State.mst fun t i => wr_mst ..]

@[simp] theorem skipPage_mst (s : State) (pid : Nat) : (skipPage s pid).mst = s.mst := rfl

@[simp] theorem setRunPrs_mst (s : State) (f : PrsRun → PrsRun) : (setRunPrs s f).mst = s.mst := rfl

@[simp] theorem pageArrives_mst (s : State) (q c : Nat) : (pageArrives s q c).mst = s.mst := by
  unfold pageArrives
  dsimp only
  rw [syncSu_mst, foldl_keep _ State.mst fun t p => by split <;> rfl]

@[simp] theorem reroutePages_mst (s : State) : (reroutePages s).mst = s.mst := by
  unfold reroutePages
  dsimp only
  rw [syncSu_mst, setRunPrs_mst, foldl_keep _ State.mst fun t p => by (repeat' split) <;> rfl]

@[simp] theorem finish_mst (s : State) (o : Owner) (st : Nat) (res : List Byte) : (finish s o st res).mst = s.mst := by
  obtain ⟨f, h, p, m, hfinish⟩ := finish_frame s o st res
  rw [hfinish]

theorem writeEnds_mst (s : State) (st : Nat) (res : List Byte) : (writeEnds s st res).mst = { s.mst with write := none } := by
  unfold writeEnds
  split
  · exact finish_mst ..
  · next hnone => rw [← hnone]

/-! ### A channel declared lost (R436 to R438) -/

/-- The loss shown at the channel and as an event of the store. -/
def downMarked (s : State) (c : Nat) : State := mstEvent (flcEvent (setBits s (R.flcStatus c) 0x80000000) c 4) 3

/-- MST_STATUS when channel `c` goes down. -/
def downWord (s : State) (c : Nat) : Word :=
  (if (usableCh s).length = 8 then setFld (rd s R.mstStatus ||| 0x80) 6 4 c else rd s R.mstStatus ||| 0x80 ||| 0x100) &&& ~~~0x200

theorem rd_channelDown_status (s : State) (hc : c < 8) : rd (channelDown s c) R.mstStatus = downWord s c := by
  have hmarked : rd (downMarked s c) R.mstStatus = rd s R.mstStatus := by
    rw [downMarked, mstEvent, flcEvent, rd_setBits_other _ _ (by decide),
      rd_setBits_other _ _ (by simp only [R.flcEvent, R.mstStatus]; omega),
      rd_setBits_other _ _ (by simp only [R.flcStatus, R.mstStatus]; omega)]
  unfold channelDown downWord
  dsimp only
  rw [rd_clrBits_same, rd_bbx_low _ _ _ _ _ (by decide), rd_clrBits_other _ _ (by decide), ← downMarked]
  split
  · rw [rd_wf_same, rd_setBits_same, hmarked]
  · rw [rd_setBits_same, rd_setBits_same, hmarked]

theorem rd_channelDown_marked (s : State) (hword : a ≠ R.mstStatus) (hcap : a ≠ R.glbCap) (hlow : a < 0x310000) :
    rd (channelDown s c) a = rd (downMarked s c) a := by
  unfold channelDown
  dsimp only
  rw [rd_clrBits_other _ _ hword, rd_bbx_low _ _ _ _ _ hlow, rd_clrBits_other _ _ hcap]
  split
  · rw [rd_wf_other _ _ _ _ hword, rd_setBits_other _ _ hword, downMarked]
  · rw [rd_setBits_other _ _ hword, rd_setBits_other _ _ hword, downMarked]

/-- The registers that the loss of channel `c` writes. -/
def downRegs (c : Nat) : List Nat := [R.flcStatus c, R.flcEvent c, R.mstEvent, R.mstStatus, R.glbCap]

theorem rd_channelDown_other (ha : a ∉ downRegs c) (hlow : a < 0x310000) : rd (channelDown s c) a = rd s a := by
  simp only [downRegs, List.mem_cons, List.not_mem_nil, or_false, not_or] at ha
  obtain ⟨hstatus, hevent, hmst, hword, hcap⟩ := ha
  rw [rd_channelDown_marked s hword hcap hlow, downMarked, mstEvent, flcEvent, rd_setBits_other _ _ hmst, rd_setBits_other _ _ hevent,
    rd_setBits_other _ _ hstatus]

/-- Its own registers show the loss. -/
theorem rd_channelDown_own (s : State) (hc : c < 8) : rd (channelDown s c) (R.flcStatus c) = rd s (R.flcStatus c) ||| 0x80000000 ∧
    rd (channelDown s c) (R.flcEvent c) = rd s (R.flcEvent c) ||| bitW 4 := by
  have hs : R.flcStatus c = 0x200004 + 0x10000 * c := rfl
  have he : R.flcEvent c = 0x200008 + 0x10000 * c := rfl
  have hword : R.mstStatus = 0x280004 := rfl
  have hmst : R.mstEvent = 0x280010 := rfl
  have hcap : R.glbCap = 8 := rfl
  constructor
  · rw [rd_channelDown_marked s (by omega) (by omega) (by omega), downMarked, mstEvent, flcEvent, rd_setBits_other _ _ (by omega),
      rd_setBits_other _ _ (by omega), rd_setBits_same]
  · rw [rd_channelDown_marked s (by omega) (by omega) (by omega), downMarked, mstEvent, flcEvent, rd_setBits_other _ _ (by omega),
      rd_setBits_same, rd_setBits_other _ _ (by omega)]

/-- GLB_CAP no longer shows it. -/
theorem cap_channelDown (s : State) (hc : c < 8) : bit (rd (channelDown s c) R.glbCap) (16 + c) = false := by
  unfold channelDown
  dsimp only
  rw [rd_clrBits_other _ _ (by decide), rd_bbx_low _ _ _ _ _ (by decide), rd_clrBits_same]
  exact bit_and_not_bitW _ (by omega)

/-- The registers shown, before the record of the loss. -/
def downShown (s : State) (c : Nat) : State :=
  let s2 := setBits (downMarked s c) R.mstStatus 0x80
  clrBits (if (usableCh s).length = 8 then wf s2 R.mstStatus 6 4 c else setBits s2 R.mstStatus 0x100) R.glbCap (bitW (16 + c))

theorem channelDown_eq (s : State) (c : Nat) :
    channelDown s c = clrBits (bbx (downShown s c) 0x0302 (0x20 + c) (leBytes 1 c) true) R.mstStatus 0x200 := rfl

theorem onlyRegs_downShown (s : State) (c : Nat) : OnlyRegs s (downShown s c) := by
  have hset : OnlyRegs s (setBits (downMarked s c) R.mstStatus 0x80) := (((OnlyRegs.refl.wr _ _).wr _ _).wr _ _).wr _ _
  have hword : OnlyRegs s (if (usableCh s).length = 8 then wf (setBits (downMarked s c) R.mstStatus 0x80) R.mstStatus 6 4 c
      else setBits (setBits (downMarked s c) R.mstStatus 0x80) R.mstStatus 0x100) := by
    split
    · exact hset.wr _ _
    · exact hset.wr _ _
  exact hword.wr _ _

@[simp] theorem channelDown_mst (s : State) (c : Nat) : (channelDown s c).mst = s.mst := by
  obtain ⟨r, hr⟩ := onlyRegs_downShown s c
  rw [channelDown_eq, clrBits_mst, bbx_mst, hr]

@[simp] theorem channelDown_dt (s : State) (c : Nat) : (channelDown s c).dt = s.dt := by
  obtain ⟨r, hr⟩ := onlyRegs_downShown s c
  rw [channelDown_eq, clrBits_dt, bbx_dt, hr]

theorem channelDown_queue (c : Nat) (h : s.bbxQueue.length < 64) :
    ∃ r, (channelDown s c).bbxQueue = s.bbxQueue ++ [r] ∧ r.code = 0x0302 := by
  obtain ⟨r, hr⟩ := onlyRegs_downShown s c
  have hqueue : (downShown s c).bbxQueue = s.bbxQueue := by rw [hr]
  refine ⟨⟨(downShown s c).dt.now, 0x0302, 0x20 + c, padTo 36 (leBytes 1 c), true⟩, ?_, rfl⟩
  rw [channelDown_eq, clrBits_bbxQueue, bbx_room (by rw [hqueue]; exact h), hqueue]

theorem sameBytes_channelDown (s : State) (c : Nat) : SameBytes s (channelDown s c) := by
  obtain ⟨r, hr⟩ := onlyRegs_downShown s c
  refine sameBytes_of_redirect (fun k hk => rd_channelDown_other ?_ ?_) ?_ ?_ ?_
  · simp only [downRegs, List.mem_cons, List.not_mem_nil, or_false, R.memRedir, R.flcStatus, R.flcEvent, R.mstEvent, R.mstStatus, R.glbCap]
    omega
  · simp only [R.memRedir]
    omega
  · rw [channelDown_eq, clrBits_mem, bbx_mem, hr]
  · rw [channelDown_eq, clrBits_heldWrites, bbx_heldWrites, hr]
  · rw [channelDown_eq, clrBits_sem, bbx_sem, hr]

theorem lostCh_channelDown (s : State) (hc : c < 8) : lostCh (channelDown s c) c = true := by
  rw [lostCh, rb, (rd_channelDown_own s hc).1]
  exact bit_or_bitW _ (b := 31) (by decide)

/-- No other channel is lost with it. -/
theorem lostCh_channelDown_other (hd : d < 8) (hne : d ≠ c) : lostCh (channelDown s c) d = lostCh s d := by
  rw [lostCh, rb, rd_channelDown_other ?_ (by simp only [R.flcStatus]; omega), ← rb, ← lostCh]
  simp only [downRegs, List.mem_cons, List.not_mem_nil, or_false, R.flcStatus, R.flcEvent, R.mstEvent, R.mstStatus, R.glbCap]
  omega

theorem getLsbD_clear9 (w : Word) {i : Nat} (hi : i ≠ 9) : (w &&& ~~~0x200).getLsbD i = w.getLsbD i := by
  have hpow : (0x200 : Word) = BitVec.twoPow 32 9 := by decide
  by_cases h : i < 32
  · rw [hpow, BitVec.getLsbD_and, BitVec.getLsbD_not, BitVec.getLsbD_twoPow]
    simp [h, hi.symm]
  · rw [BitVec.getLsbD_of_ge _ _ (by omega), BitVec.getLsbD_of_ge _ _ (by omega)]

/-- The bits of MST_STATUS that show the loss. -/
theorem status_channelDown (s : State) (hc : c < 8) : mstStatus (channelDown s c) 7 = true ∧
    ((usableCh s).length = 8 → rf (channelDown s c) R.mstStatus 6 4 = c ∧ mstStatus (channelDown s c) 8 = mstStatus s 8) ∧
    ((usableCh s).length < 8 → mstStatus (channelDown s c) 8 = true) := by
  simp only [mstStatus, rb, rf, rd_channelDown_status s hc, bit, downWord, getLsbD_clear9 _ (by decide : (7 : Nat) ≠ 9),
    getLsbD_clear9 _ (by decide : (8 : Nat) ≠ 9)]
  by_cases h8 : (usableCh s).length = 8
  · simp only [if_pos h8, getLsbD_setFld (by decide : (6 : Nat) < 32) (by decide : 4 ≤ 6)]
    refine ⟨by simp, fun _ => ⟨?_, by simp⟩, fun hlt => absurd hlt (by omega)⟩
    exact (fld_congr fun i hlo hhi => getLsbD_clear9 _ (by omega)).trans (fld_setFld_same (by decide) (by decide) hc)
  · simp only [if_neg h8]
    exact ⟨by simp, fun h => absurd h h8, fun _ => by simp⟩

/-! ### The work that a loss brings with it -/

theorem length_usableCh_le (s : State) : (usableCh s).length ≤ 8 := (List.length_filter_le _ _).trans (by simp)

/-- With a second channel lost nothing is written any more. -/
theorem channelWork_stops (h : mstStatus s 8 = true) : (channelWork s).mst.programming = [] ∧ (channelWork s).mst.write = none := by
  unfold channelWork
  dsimp only
  rw [syncPrs_mst, syncFlash_mst, reroutePages_mst, if_pos h, writeEnds_mst]
  exact ⟨rfl, rfl⟩

/-- A channel that was in use is declared lost. -/
def lossWork (s : State) (c : Nat) : State := channelWork (countLost (lostPages s) (channelDown s c))

theorem loseChannel_used (h : lostCh s c = false) : loseChannel s c = lossWork s c := by simp [loseChannel, lossWork, h]

theorem loseChannel_lost (h : lostCh s c = true) : loseChannel s c = s := by simp [loseChannel, h]

theorem laneWork_lossWork (s : State) (c : Nat) : LaneWork (channelDown s c) (lossWork s c) := (LaneWork.refl.countLost _).channelWork

theorem lossWork_lost (s : State) (hc : c < 8) : lostCh (lossWork s c) c = true :=
  ((laneWork_lossWork s c).lostCh hc).trans (lostCh_channelDown s hc)

/-- Registers of the channel that no loss writes. -/
theorem rd_lossWork (ha : KeptReg a) (hdown : a ∉ downRegs c) (hlow : a < 0x310000) : rd (lossWork s c) a = rd s a :=
  ((laneWork_lossWork s c).regs a ha).trans (rd_channelDown_other hdown hlow)

/-- What a loss of channel `c`, or none, leaves between two states: bytes, the committed epoch, the registers no loss writes; the
channel's event keeps its bits. -/
structure ChannelKept (c : Nat) (s u : State) : Prop where
  bytes : SameBytes s u
  committed : u.mst.committed = s.mst.committed
  regs : ∀ a, KeptReg a → a ∉ downRegs c → a < 0x310000 → rd u a = rd s a
  events : ∀ i, bit (rd s (R.flcEvent c)) i = true → bit (rd u (R.flcEvent c)) i = true

theorem ChannelKept.trans (h : ChannelKept c s t) (k : ChannelKept c t u) : ChannelKept c s u :=
  ⟨fun x => (k.bytes x).trans (h.bytes x), k.committed.trans h.committed,
    fun a ha hdown hlow => (k.regs a ha hdown hlow).trans (h.regs a ha hdown hlow), fun i hi => k.events i (h.events i hi)⟩

theorem LaneWork.channelKept (h : LaneWork s t) (hc : c < 8) : ChannelKept c s t :=
  ⟨h.sameBytes, h.committed, fun a ha _ _ => h.regs a ha, fun i hi => by rwa [h.regs _ (keptReg_event hc)]⟩

theorem lostCh_loseChannel (s : State) (hc : c < 8) : lostCh (loseChannel s c) c = true := by
  cases hlost : lostCh s c with
  | true => rwa [loseChannel_lost hlost]
  | false => rw [loseChannel_used hlost, lossWork_lost s hc]

theorem channelKept_loseChannel (s : State) (hc : c < 8) : ChannelKept c s (loseChannel s c) := by
  cases hlost : lostCh s c with
  | true =>
    rw [loseChannel_lost hlost]
    exact LaneWork.refl.channelKept hc
  | false =>
    have hwork := laneWork_lossWork s c
    rw [loseChannel_used hlost]
    refine ⟨fun x => (hwork.sameBytes x).trans (sameBytes_channelDown s c x),
      hwork.committed.trans (by rw [channelDown_mst]), fun a ha hdown hlow => rd_lossWork ha hdown hlow, fun i hi => ?_⟩
    rw [hwork.regs _ (keptReg_event hc), (rd_channelDown_own s hc).2]
    exact bit_or_of_bit _ hi

/-- R436 to R438: a channel declared lost. -/
theorem lossWork_spec (s : State) (hc : c < 8) : let u := lossWork s c
    lostCh u c = true ∧ bit (rd u (R.flcEvent c)) 4 = true ∧ mstStatus u 7 = true ∧ bit (rd u R.glbCap) (16 + c) = false ∧
      u.mst.committed = s.mst.committed ∧
      ((usableCh s).length = 8 → rf u R.mstStatus 6 4 = c ∧ mstStatus u 8 = mstStatus s 8) ∧
      ((usableCh s).length < 8 → mstStatus u 8 = true ∧ u.mst.programming = [] ∧ u.mst.write = none) ∧
      (s.bbxQueue.length < 64 → ∃ r, u.bbxQueue = s.bbxQueue ++ [r] ∧ r.code = 0x0302) := by
  have hwork := laneWork_lossWork s c
  obtain ⟨h7, hfirst, hsecond⟩ := status_channelDown s hc
  refine ⟨lossWork_lost s hc, ?_, (hwork.mstStatus (by decide)).trans h7, ?_, hwork.committed.trans (by rw [channelDown_mst]), fun h8 => ?_,
    fun hless => ?_, fun hroom => ?_⟩
  · rw [hwork.regs _ (keptReg_event hc), (rd_channelDown_own s hc).2]
    exact bit_or_bitW _ (by decide)
  · rw [hwork.regs R.glbCap (.inl (by decide))]
    exact cap_channelDown s hc
  · obtain ⟨hfield, h8'⟩ := hfirst h8
    exact ⟨(fld_congr fun i hlo _ => hwork.status i (by omega)).trans hfield, (hwork.mstStatus (by decide)).trans h8'⟩
  · have h8' := hsecond hless
    have hcounted : LaneWork (channelDown s c) (countLost (lostPages s) (channelDown s c)) := LaneWork.refl.countLost _
    exact ⟨(hwork.mstStatus (by decide)).trans h8', channelWork_stops ((hcounted.mstStatus (by decide)).trans h8')⟩
  · obtain ⟨r, hr, hcode⟩ := channelDown_queue c hroom
    exact ⟨r, hwork.queue.trans hr, hcode⟩

end Sys2Proof.Machine
end

section
/-! SUPPORT. A page that is read, and a program or an erase that fails (R405, R408, R414, R436); a part of O45. -/

namespace Sys2Proof.Machine

variable {s t u : State} {a c d q : Nat}

/-! ### Codewords counted (R405) -/

/-- `t` is `s` after codewords of channel `c` were counted: registers, none of the kept ones but the channel's event, which keeps its bits. -/
structure Counted (c : Nat) (s t : State) : Prop where
  only : OnlyRegs s t
  regs : ∀ a, KeptReg a → a ≠ R.flcEvent c → rd t a = rd s a
  events : ∀ i, bit (rd s (R.flcEvent c)) i = true → bit (rd t (R.flcEvent c)) i = true

namespace Counted

theorem refl : Counted c s s := ⟨.refl, fun _ _ _ => rfl, fun _ h => h⟩

theorem wr (h : Counted c s t) (ha : ¬ KeptReg a) (hc : c < 8) (v : Word) : Counted c s (wr t a v) :=
  ⟨h.only.wr _ _, fun b hb hne => (rd_wr_other t v fun e : b = a => ha (e ▸ hb)).trans (h.regs b hb hne), fun i hi => by
    rw [rd_wr_other t v fun e : R.flcEvent c = a => ha (e ▸ keptReg_event hc)]
    exact h.events i hi⟩

theorem event (h : Counted c s t) (b : Nat) : Counted c s (flcEvent t c b) :=
  ⟨h.only.wr _ _, fun a ha hne => (rd_setBits_other _ _ hne).trans (h.regs a ha hne), fun i hi => by
    rw [flcEvent, rd_setBits_same]
    exact bit_or_of_bit _ (h.events i hi)⟩

end Counted

/-- A channel's register of corrections or of error addresses is none of the kept ones. -/
theorem not_keptReg_correction (hc : c < 8) {o : Nat} (ho : o = 0x10 ∨ o = 0x14 ∨ o = 0x18 ∨ o = 0x1c ∨ o = 0x3c) :
    ¬ KeptReg (0x200000 + o + 0x10000 * c) := by
  unfold KeptReg
  omega

theorem Counted.countCw (h : Counted c s t) (hc : c < 8) (addr : Nat) (w : CwRead) : Counted c s (countCw c addr t w) := by
  have hcorr (o : Nat) (ho : o = 0x10 ∨ o = 0x14 ∨ o = 0x18 ∨ o = 0x1c ∨ o = 0x3c) := not_keptReg_correction hc ho
  cases w with
  | hard b =>
    dsimp only [Machine.countCw]
    split
    · exact h
    · exact ((h.wr (a := R.flcCorrCw c) (hcorr 0x10 (by decide)) hc _).event 0).wr (a := R.flcMaxBits c) (hcorr 0x1c (by decide)) hc _
  | retry b =>
    exact ((h.wr (a := R.flcRetryCw c) (hcorr 0x14 (by decide)) hc _).event 1).wr (a := R.flcMaxBits c) (hcorr 0x1c (by decide)) hc _
  | soft b =>
    exact ((h.wr (a := R.flcRetryCw c) (hcorr 0x14 (by decide)) hc _).event 1).wr (a := R.flcMaxBits c) (hcorr 0x1c (by decide)) hc _
  | uncorrectable =>
    have haddr : Counted c s (if rb t (R.flcEvent c) 2 then t else Machine.wr t (R.flcErrAddr c) (BitVec.ofNat 32 addr)) := by
      split
      · exact h
      · exact h.wr (a := R.flcErrAddr c) (hcorr 0x3c (by decide)) hc _
    exact (haddr.wr (a := R.flcUncorrCw c) (hcorr 0x18 (by decide)) hc _).event 2

theorem Counted.countAll (h : Counted c s t) (hc : c < 8) (addr : Nat) (l : List CwRead) : Counted c s (l.foldl (Machine.countCw c addr) t) :=
  List.foldlRecOn (motive := Counted c s) _ _ h fun _ hv w _ => hv.countCw hc addr w

/-- An uncorrectable codeword raises its event. -/
theorem uncorrectable_counted (hc : c < 8) (addr : Nat) {l : List CwRead} (h : CwRead.uncorrectable ∈ l) :
    bit (rd (l.foldl (countCw c addr) s) (R.flcEvent c)) 2 = true := by
  obtain ⟨l1, l2, rfl⟩ := List.append_of_mem h
  rw [List.foldl_append, List.foldl_cons]
  refine (Counted.refl.countAll hc addr l2).events 2 ?_
  exact rb_setBits_bit (s := bump (if rb _ (R.flcEvent c) 2 then _ else wr _ (R.flcErrAddr c) (BitVec.ofNat 32 addr)) (R.flcUncorrCw c))
    (a := R.flcEvent c) (by decide)

/-- Codewords without an error count nothing. -/
theorem clean_counted (addr : Nat) {l : List CwRead} (h : ∀ w ∈ l, w = .hard 0) : l.foldl (countCw c addr) s = s := by
  induction l with
  | nil => rfl
  | cons w l ih =>
    rw [List.foldl_cons, h w List.mem_cons_self]
    exact ih fun x hx => h x (List.mem_cons_of_mem _ hx)

/-! ### A page read (R405, R406, R436) -/

/-- The page's codewords counted, with its die heard of. -/
def pageCounted (s : State) (t : Stripe) (c : Nat) (cws : List CwRead) : State :=
  (cws.take 4).foldl (countCw c (flashAddr s t c))
    (bumpWrap (setFlash s fun x => { x with late := x.late.filter fun e => e != (c, dieOf s t c) }) (R.flcReads c))

/-- The page queued for refresh where a codeword asks for it, and marked where it cannot be read. -/
def pageMarked (s : State) (q c thr : Nat) (cws : List CwRead) : State :=
  let s2 := if (cws.take 4).any (cwRefresh thr) then queueRefresh s q c else s
  if (cws.take 4).contains .uncorrectable then
    setStripe s2 q fun t => { t with unread := if t.unread.contains c then t.unread else t.unread ++ [c] }
  else s2

/-- What follows: lost pages counted, the unit that waits served. -/
def pageServed (s : State) (before q c : Nat) : State := pageArrives (countLost before s) q c

theorem laneWork_pageMarked (s : State) (q c thr : Nat) (cws : List CwRead) : LaneWork s (pageMarked s q c thr cws) := by
  have hqueued : LaneWork s (if (cws.take 4).any (cwRefresh thr) then queueRefresh s q c else s) := by
    split
    · exact LaneWork.refl.setFlash _
    · exact .refl
  unfold pageMarked
  dsimp only
  split
  · exact hqueued.setStripe _ _
  · exact hqueued

theorem pageMarked_uncorr (s : State) (q c thr : Nat) (cws : List CwRead) :
    (pageMarked s q c thr cws).mst.flash.uncorr = s.mst.flash.uncorr := by
  unfold pageMarked
  dsimp only
  (repeat' split) <;> rfl

theorem laneWork_pageServed (s : State) (before q c : Nat) : LaneWork s (pageServed s before q c) := (LaneWork.refl.countLost _).pageArrives _ _

theorem pageServed_mst (s : State) (before q c : Nat) : (pageServed s before q c).mst = s.mst := pageArrives_mst ..

section
variable {t : Stripe} {ch : Fin 8} {cws : List CwRead} (hu : s.up = true) (ht : stripeOf s q = some t) (hlost : lostCh s ch.val = false)
  (hin : ch.val ∈ t.chans)
include hu ht hlost hin

theorem exec_flashPageRead_late : exec (.flashPageRead ch q []) s = .next (dieLate s ch.val (dieOf s t ch.val)) := by
  refine (fabric_up s hu : execFlashPageRead ch q [] s = _).trans ?_
  simp [ht, hlost, hin]

theorem exec_flashPageRead_words (hcws : cws ≠ []) : exec (.flashPageRead ch q cws) s = .next (
    let s4 := pageServed (pageMarked (pageCounted s t ch.val cws) q ch.val (rf s R.mstRefreshThr 7 0) cws)
      (lostPages s) q ch.val
    if (cws.take 4).contains .uncorrectable then dieUncorr s4 ch.val (dieOf s t ch.val) else s4) := by
  refine (fabric_up s hu : execFlashPageRead ch q cws s = _).trans ?_
  rw [ht]
  dsimp only
  rw [if_neg (by simp [hlost, hin]), if_neg hcws]
  rfl

end

/-- A register of the channel that counts its reads or its dies that are late. -/
theorem channelCount_kept (hc : c < 8) (ha : a = R.flcReads c ∨ a = R.flcTimeouts c) :
    KeptReg a ∧ a ∉ downRegs c ∧ a < 0x310000 ∧ a ≠ R.flcEvent c := by
  have hr : R.flcReads c = 0x200030 + 0x10000 * c := rfl
  have ht : R.flcTimeouts c = 0x20002c + 0x10000 * c := rfl
  have he : R.flcEvent c = 0x200008 + 0x10000 * c := rfl
  have hs : R.flcStatus c = 0x200004 + 0x10000 * c := rfl
  refine ⟨.inr (by omega), ?_, by omega, by omega⟩
  simp only [downRegs, List.mem_cons, List.not_mem_nil, or_false, R.mstEvent, R.mstStatus, R.glbCap]
  omega

/-- A channel's count raised, which leaves every byte, the store and the channel's event. -/
theorem channelKept_wr (hc : c < 8) (ha : a = R.flcReads c ∨ a = R.flcTimeouts c) (v : Word) :
    SameBytes s (wr s a v) ∧ (wr s a v).mst = s.mst ∧ rd (wr s a v) (R.flcEvent c) = rd s (R.flcEvent c) := by
  obtain ⟨-, -, -, hne⟩ := channelCount_kept hc ha
  refine ⟨sameBytes_of_redirect (fun k hk => rd_wr_other _ _ ?_) rfl rfl rfl, rfl, rd_wr_other _ _ hne.symm⟩
  simp only [R.memRedir]
  obtain rfl | rfl := ha
  · simp only [R.flcReads]
    omega
  · simp only [R.flcTimeouts]
    omega

/-- A die that does not report ready, once and twice (R436). -/
theorem dieLate_spec (s : State) (hc : c < 8) (d : Nat) (hlost : lostCh s c = false) : let u := dieLate s c d
    (SameBytes s u ∧ u.mst.committed = s.mst.committed) ∧ rd u (R.flcTimeouts c) = incSat (rd s (R.flcTimeouts c)) ∧
      ((c, d) ∉ s.mst.flash.late → (c, d) ∈ u.mst.flash.late ∧ lostCh u c = false) ∧
      ((c, d) ∈ s.mst.flash.late → lostCh u c = true) := by
  obtain ⟨hbytes, hmst, -⟩ := channelKept_wr (s := s) hc (.inr rfl) (incSat (rd s (R.flcTimeouts c)))
  obtain ⟨hkept, hdown, hlow, -⟩ := channelCount_kept (a := R.flcTimeouts c) hc (.inr rfl)
  have hcount : rd (bump s (R.flcTimeouts c)) (R.flcTimeouts c) = incSat (rd s (R.flcTimeouts c)) := rd_bump_same ..
  have hlate : (bump s (R.flcTimeouts c)).mst = s.mst := hmst
  unfold dieLate
  dsimp only
  split
  case isTrue hmem =>
    have hloss := channelKept_loseChannel (bump s (R.flcTimeouts c)) hc
    refine ⟨⟨fun x => (hloss.bytes x).trans (hbytes x), hloss.committed⟩, (hloss.regs _ hkept hdown hlow).trans hcount,
      fun hnot => absurd (List.contains_iff_mem.mp hmem) hnot, fun _ => lostCh_loseChannel _ hc⟩
  case isFalse hnot =>
    refine ⟨⟨hbytes, rfl⟩, hcount, fun _ => ⟨List.mem_append_right _ (List.mem_singleton.mpr rfl), ?_⟩,
      fun hmem => absurd (List.contains_iff_mem.mpr hmem) hnot⟩
    refine Eq.trans ?_ hlost
    rw [lostCh, rb, lostCh, rb]
    exact congrArg (bit · 31) (rd_bump_other s (by simp only [R.flcStatus, R.flcTimeouts]; omega))

/-- Whether another die of the channel had an uncorrectable codeword within a second. -/
def otherUncorr (s : State) (c d : Nat) : Bool :=
  s.mst.flash.uncorr.any fun e => e.1 == c && e.2.1 != d && decide (s.dt.now.toNat ≤ e.2.2.toNat + 1000000000)

theorem dieUncorr_spec (s : State) (hc : c < 8) (d : Nat) : let u := dieUncorr s c d
    ChannelKept c s u ∧ (otherUncorr s c d = true → lostCh u c = true) ∧
      (otherUncorr s c d = false → u.mst.flash.refresh = s.mst.flash.refresh ∧ u.mst.flash.stripes = s.mst.flash.stripes) := by
  have hnoted : LaneWork s (setFlash s fun x => { x with
      uncorr := (x.uncorr.filter fun e => !(e.1 == c && e.2.1 == d)) ++ [(c, d, s.dt.now)] }) := LaneWork.refl.setFlash _
  intro u
  have hu : u = if otherUncorr s c d then loseChannel (setFlash s fun x => { x with
      uncorr := (x.uncorr.filter fun e => !(e.1 == c && e.2.1 == d)) ++ [(c, d, s.dt.now)] }) c else setFlash s fun x => { x with
      uncorr := (x.uncorr.filter fun e => !(e.1 == c && e.2.1 == d)) ++ [(c, d, s.dt.now)] } := rfl
  cases hother : otherUncorr s c d with
  | true =>
    rw [hother, if_pos rfl] at hu
    rw [hu]
    exact ⟨(hnoted.channelKept hc).trans (channelKept_loseChannel _ hc), fun _ => lostCh_loseChannel _ hc, fun h => (nomatch h)⟩
  | false =>
    rw [hother, if_neg (by decide)] at hu
    rw [hu]
    exact ⟨hnoted.channelKept hc, fun h => (nomatch h), fun _ => ⟨rfl, rfl⟩⟩

/-! ### The page's words -/

section
variable {t : Stripe} {cws : List CwRead} (hc : c < 8)
include hc

theorem pageCounted_leaves : let v := pageCounted s t c cws
    v.mst = (setFlash s fun x => { x with late := x.late.filter fun e => e != (c, dieOf s t c) }).mst ∧ v.dt = s.dt ∧ SameBytes s v ∧
      rd v (R.flcReads c) = rd s (R.flcReads c) + 1 := by
  intro v
  obtain ⟨hbytes, -, -⟩ := channelKept_wr (s := setFlash s fun x => { x with late := x.late.filter fun e => e != (c, dieOf s t c) }) hc
    (.inl rfl) (rd s (R.flcReads c) + BitVec.ofNat 32 1)
  obtain ⟨hkept, -, -, hne⟩ := channelCount_kept (a := R.flcReads c) hc (.inl rfl)
  have hcounted : Counted c _ v := Counted.refl.countAll hc (flashAddr s t c) (cws.take 4)
  obtain ⟨r, hr⟩ := hcounted.only
  have hplaces : SameBytes _ v := sameBytes_of_redirect (fun k hk => hcounted.regs _ (keptReg_redir hk) (by
    simp only [R.memRedir, R.flcEvent]
    omega)) (by rw [hr]) (by rw [hr]) (by rw [hr])
  exact ⟨by rw [hr]; rfl, by rw [hr]; rfl, fun x => (hplaces x).trans (hbytes x), (hcounted.regs _ hkept hne).trans (rd_bumpWrap_same ..)⟩

/-- Words without an error leave the event, queue nothing and mark nothing. -/
theorem page_clean (hclean : ∀ w ∈ cws.take 4, w = .hard 0) (q thr : Nat) :
    rd (pageCounted s t c cws) (R.flcEvent c) = rd s (R.flcEvent c) ∧
      pageMarked (pageCounted s t c cws) q c thr cws = pageCounted s t c cws ∧ (cws.take 4).contains .uncorrectable = false := by
  obtain ⟨-, -, -, hne⟩ := channelCount_kept (a := R.flcReads c) hc (.inl rfl)
  have hno : (cws.take 4).contains .uncorrectable = false := by
    rw [Bool.eq_false_iff]
    intro h
    exact nomatch hclean _ (List.contains_iff_mem.mp h)
  have hqueue : (cws.take 4).any (cwRefresh thr) = false := by
    rw [List.any_eq_false]
    intro w hw
    rw [hclean w hw]
    simp [cwRefresh]
  refine ⟨?_, ?_, hno⟩
  · rw [pageCounted, clean_counted _ hclean]
    exact rd_bumpWrap_other _ hne.symm
  · rw [pageMarked, hqueue, hno]
    rfl

omit hc in
/-- A word beyond correction queues the page and marks it. -/
theorem page_marked (hbad : CwRead.uncorrectable ∈ cws.take 4) (hfound : stripeOf s q = some t) (thr : Nat) :
    let w := pageMarked s q c thr cws
    (q, c) ∈ w.mst.flash.refresh ∧ ∃ x, w.mst.flash.stripes.find? (fun t => t.seq == q) = some x ∧ c ∈ x.unread := by
  have hqueue : (cws.take 4).any (cwRefresh thr) = true := List.any_eq_true.mpr ⟨_, hbad, rfl⟩
  have hmem : (q, c) ∈ (queueRefresh s q c).mst.flash.refresh := by
    show (q, c) ∈ if s.mst.flash.refresh.contains (q, c) then s.mst.flash.refresh else s.mst.flash.refresh ++ [(q, c)]
    split
    · next h => exact List.contains_iff_mem.mp h
    · exact List.mem_append_right _ (List.mem_singleton.mpr rfl)
  intro w
  have hw : w = setStripe (queueRefresh s q c) q fun t => { t with unread := if t.unread.contains c then t.unread else t.unread ++ [c] } := by
    show pageMarked s q c thr cws = _
    rw [pageMarked, hqueue, List.contains_iff_mem.mpr hbad]
    rfl
  have hseq : t.seq = q := by
    have h := List.find?_some hfound
    exact beq_iff_eq.mp h
  rw [hw]
  refine ⟨hmem, { t with unread := if t.unread.contains c then t.unread else t.unread ++ [c] }, ?_, ?_⟩
  · show (s.mst.flash.stripes.map _).find? _ = _
    have hsame (x : Stripe) : ((if x.seq = q then { x with unread := if x.unread.contains c then x.unread else x.unread ++ [c] }
        else x).seq == q) = (x.seq == q) := by split <;> rfl
    rw [List.find?_map]
    simp only [Function.comp_def, hsame]
    rw [show s.mst.flash.stripes.find? (fun x => x.seq == q) = some t from hfound, Option.map_some, if_pos hseq]
  · show c ∈ if t.unread.contains c then t.unread else t.unread ++ [c]
    split
    · next h => exact List.contains_iff_mem.mp h
    · exact List.mem_append_right _ (List.mem_singleton.mpr rfl)

end

/-- A page read with words: its count, and what a word beyond correction brings (R405, R406, R436). -/
theorem pageRead_clause {t : Stripe} {ch : Fin 8} {cws : List CwRead} (hu : s.up = true) (ht : stripeOf s q = some t)
    (hlost : lostCh s ch.val = false) (hin : ch.val ∈ t.chans) (hcws : cws ≠ []) : Runs (.flashPageRead ch q cws) s fun u =>
      (SameBytes s u ∧ u.mst.committed = s.mst.committed) ∧ rd u (R.flcReads ch.val) = rd s (R.flcReads ch.val) + 1 ∧
      ((∀ w ∈ cws.take 4, w = .hard 0) → rd u (R.flcEvent ch.val) = rd s (R.flcEvent ch.val) ∧
        u.mst = (setFlash s fun x => { x with late := x.late.filter fun e => e != (ch.val, dieOf s t ch.val) }).mst) ∧
      (.uncorrectable ∈ cws.take 4 → bit (rd u (R.flcEvent ch.val)) 2 = true ∧
        (otherUncorr s ch.val (dieOf s t ch.val) = true → lostCh u ch.val = true) ∧
        (otherUncorr s ch.val (dieOf s t ch.val) = false → (q, ch.val) ∈ u.mst.flash.refresh ∧
          ∃ x, stripeOf u q = some x ∧ ch.val ∈ x.unread)) := by
  have hc := ch.isLt
  obtain ⟨hmst, hdt, hbytes, hreads⟩ := pageCounted_leaves (s := s) (t := t) (cws := cws) hc
  obtain ⟨hkept, hdown, hlow, -⟩ := channelCount_kept (a := R.flcReads ch.val) hc (.inl rfl)
  have hclean (h : ∀ w ∈ cws.take 4, w = .hard 0) :=
    page_clean (s := s) (t := t) hc h q (rf s R.mstRefreshThr 7 0)
  have hbad (h : CwRead.uncorrectable ∈ cws.take 4) : bit (rd (pageCounted s t ch.val cws) (R.flcEvent ch.val)) 2 = true :=
    uncorrectable_counted hc _ h
  refine ⟨_, exec_flashPageRead_words hu ht hlost hin hcws, ?_⟩
  generalize pageCounted s t ch.val cws = v at hmst hdt hbytes hreads hclean hbad
  have hmarked := laneWork_pageMarked v q ch.val (rf s R.mstRefreshThr 7 0) cws
  have hqueued (h : CwRead.uncorrectable ∈ cws.take 4) := page_marked (s := v) (c := ch.val) (q := q) (t := t) h
    (by rw [stripeOf, hmst]; exact ht) (rf s R.mstRefreshThr 7 0)
  have hnoted := pageMarked_uncorr v q ch.val (rf s R.mstRefreshThr 7 0) cws
  generalize pageMarked v q ch.val (rf s R.mstRefreshThr 7 0) cws = w at hclean hmarked hqueued hnoted
  have hserved := hmarked.trans (laneWork_pageServed w (lostPages s) q ch.val)
  have hstore := pageServed_mst w (lostPages s) q ch.val
  have huncorr : otherUncorr (pageServed w (lostPages s) q ch.val) ch.val (dieOf s t ch.val) = otherUncorr s ch.val (dieOf s t ch.val) := by
    rw [otherUncorr, hserved.dt, hdt, hstore, hnoted, hmst]
    rfl
  generalize pageServed w (lostPages s) q ch.val = p at hserved hstore huncorr
  dsimp only
  split
  case isFalse hno =>
    have hnot : CwRead.uncorrectable ∉ cws.take 4 := fun h => hno (List.contains_iff_mem.mpr h)
    refine ⟨⟨fun x => (hserved.sameBytes x).trans (hbytes x), hserved.committed.trans (by rw [hmst]; rfl)⟩,
      (hserved.regs _ hkept).trans hreads, fun h => ?_, fun h => absurd h hnot⟩
    obtain ⟨hevent, hsame, -⟩ := hclean h
    exact ⟨(hserved.regs _ (keptReg_event hc)).trans hevent, hstore.trans ((congrArg State.mst hsame).trans hmst)⟩
  case isTrue hyes =>
    have hmem := List.contains_iff_mem.mp hyes
    obtain ⟨hlate, hloses, hstays⟩ := dieUncorr_spec p hc (dieOf s t ch.val)
    rw [huncorr] at hloses hstays
    have hall := (hserved.channelKept hc).trans hlate
    refine ⟨⟨fun x => (hall.bytes x).trans (hbytes x), hall.committed.trans (by rw [hmst]; rfl)⟩, (hall.regs _ hkept hdown hlow).trans hreads,
      fun h => (nomatch h _ hmem), fun _ => ⟨hall.events 2 (hbad hmem), hloses, fun hother => ?_⟩⟩
    obtain ⟨hrefresh, hstripes⟩ := hstays hother
    obtain ⟨hq, x, hx, hunread⟩ := hqueued hmem
    exact ⟨by rw [hrefresh, hstore]; exact hq, x, by rw [stripeOf, hstripes, hstore]; exact hx, hunread⟩

theorem pageRead_ignored {ch : Fin 8} (cws : List CwRead) (hu : s.up = true) (h : stripeOf s q = none ∨ lostCh s ch.val = true) :
    exec (.flashPageRead ch q cws) s = .next s := by
  refine (fabric_up s hu : execFlashPageRead ch q cws s = _).trans ?_
  cases hfound : stripeOf s q with
  | none => rfl
  | some t =>
    obtain hnone | hlost := h
    · rw [hnone] at hfound
      cases hfound
    · simp [hlost]

/-! ### A program or an erase that fails (R408, R414) -/

theorem writeStripe_bad {native : Bool} {pages : List FPage} {e : Nat × State} (h : writeStripe s native pages = some e) :
    e.2.mst.flash.bad = s.mst.flash.bad := by
  have hnew {z : Nat × State} (hz : newZone s native = some z) : z.2.mst.flash.bad = s.mst.flash.bad := by
    obtain ⟨bs, -, rfl⟩ := Option.map_eq_some_iff.mp hz
    rfl
  obtain ⟨z, hz, rfl⟩ := Option.map_eq_some_iff.mp h
  dsimp only
  rw [foldl_keep _ (fun v : State => v.mst.flash.bad) fun v i => by rw [bumpWrap_mst]]
  show z.2.mst.flash.bad = _
  unfold openZone at hz
  split at hz
  · split at hz
    · split at hz
      · cases hz
        rfl
      · exact hnew hz
    · exact hnew hz
  · exact hnew hz

/-- Data written again changes no block's mark. -/
theorem rewriteFailed_bad (s : State) (t : Stripe) (c : Nat) : (rewriteFailed s t c).mst.flash.bad = s.mst.flash.bad := by
  unfold rewriteFailed
  dsimp only
  split
  · rfl
  · next q v hw =>
    have hwritten := writeStripe_bad hw
    split
    · exact hwritten
    · exact hwritten

/-- A register that counts failures of a channel. -/
theorem failCount_kept (hc : c < 8) (ha : a = R.flcProgFail c ∨ a = R.flcEraseFail c) : KeptReg a ∧ a ≠ R.flcEvent c := by
  have hp : R.flcProgFail c = 0x200020 + 0x10000 * c := rfl
  have he : R.flcEraseFail c = 0x200024 + 0x10000 * c := rfl
  have hv : R.flcEvent c = 0x200008 + 0x10000 * c := rfl
  exact ⟨.inr (by omega), by omega⟩

/-- A block marked bad after a failure that register `a` counts, with work of the store behind it that marks no other. -/
theorem grown_spec (hc : c < 8) (ha : a = R.flcProgFail c ∨ a = R.flcEraseFail c) {b : Nat} (h : LaneWork (growBad (bump s a) c b) u)
    (hbad : u.mst.flash.bad = (growBad (bump s a) c b).mst.flash.bad) :
    rd u a = incSat (rd s a) ∧ bit (rd u (R.flcEvent c)) 3 = true ∧ tabGet 0 u.mst.flash.bad (blockKey c b) = 2 ∧
      u.mst.committed = s.mst.committed := by
  obtain ⟨hkept, hne⟩ := failCount_kept hc ha
  refine ⟨?_, ?_, ?_, h.committed⟩
  · rw [h.regs _ hkept]
    exact (rd_setBits_other (setFlash (bump s a) fun x => { x with bad := tabSet 0 x.bad (blockKey c b) 2 }) _ hne).trans
      (rd_bump_same s a)
  · rw [h.regs _ (keptReg_event hc)]
    exact rb_setBits_bit (s := setFlash (bump s a) fun x => { x with bad := tabSet 0 x.bad (blockKey c b) 2 }) (by decide)
  · rw [hbad]
    show tabGet 0 (tabSet 0 s.mst.flash.bad (blockKey c b) 2) (blockKey c b) = 2
    exact tabGet_set_same ..

section
variable {ch : Fin 8} {b : Nat} (hu : s.up = true) (hlost : lostCh s ch.val = false)
include hu hlost

theorem eraseFail_clause (hfree : b ∈ freeBlocks s ch.val) : Runs (.flashProgramFail ch true b) s fun u =>
    rd u (R.flcEraseFail ch.val) = incSat (rd s (R.flcEraseFail ch.val)) ∧ bit (rd u (R.flcEvent ch.val)) 3 = true ∧
      tabGet 0 u.mst.flash.bad (blockKey ch.val b) = 2 ∧ u.mst.committed = s.mst.committed := by
  refine ⟨syncFlash (growBad (bump s (R.flcEraseFail ch.val)) ch.val b), (fabric_up s hu : execFlashProgramFail ch true b s = _).trans ?_,
    grown_spec ch.isLt (.inr rfl) LaneWork.refl.syncFlash (by rw [syncFlash_mst])⟩
  simp [hlost, hfree]

theorem eraseFail_ignored (hfree : b ∉ freeBlocks s ch.val) : exec (.flashProgramFail ch true b) s = .next s := by
  refine (fabric_up s hu : execFlashProgramFail ch true b s = _).trans ?_
  simp [hlost, hfree]

theorem programFail_ignored (hnone : failingStripe s ch.val = none) : exec (.flashProgramFail ch false b) s = .next s := by
  refine (fabric_up s hu : execFlashProgramFail ch false b s = _).trans ?_
  simp [hlost, hnone]

theorem programFail_clause {t : Stripe} {z : Zone} {e : Nat × Nat} (ht : failingStripe s ch.val = some t) (hz : zoneOf s t.zone = some z)
    (he : z.blocks.find? (fun e => e.1 == ch.val) = some e) : Runs (.flashProgramFail ch false b) s fun u =>
      rd u (R.flcProgFail ch.val) = incSat (rd s (R.flcProgFail ch.val)) ∧ bit (rd u (R.flcEvent ch.val)) 3 = true ∧
        tabGet 0 u.mst.flash.bad (blockKey ch.val e.2) = 2 ∧ u.mst.committed = s.mst.committed := by
  have hclosed : LaneWork (growBad (bump s (R.flcProgFail ch.val)) ch.val e.2) _ := LaneWork.refl.setFlash fun x => { x with
    natZone := if x.natZone = some t.zone then none else x.natZone, slcZone := if x.slcZone = some t.zone then none else x.slcZone }
  refine ⟨_, (fabric_up s hu : execFlashProgramFail ch false b s = _).trans ?_,
    grown_spec ch.isLt (.inl rfl) (hclosed.rewriteFailed t ch.val).syncFlash (by rw [syncFlash_mst, rewriteFailed_bad]; rfl)⟩
  simp [hlost, ht, hz, he]

end

/-! ### A channel declared lost by itself (R436) -/

theorem exec_flashChannelLost (ch : Fin 8) (hu : s.up = true) : exec (.flashChannelLost ch) s = .next (loseChannel s ch.val) :=
  fabric_up s hu (f := fun s => loseChannel s ch.val)

end Sys2Proof.Machine
end

section
/-! SUPPORT. The groomer's tasks: each moves data about and leaves what is committed and pinned (R405, R409, R430 to R437); a part of
O45. -/

namespace Sys2Proof.Machine

variable {s t u : State} {a c q : Nat}

theorem eq_some_of_orElse {α : Type} {o : Option α} {f : Unit → Option α} {x : α} (h : o.orElse f = some x) :
    o = some x ∨ f () = some x := by
  cases o with
  | none => exact .inr h
  | some y => exact .inl h

/-! ### The journal (R411) -/

namespace LaneWork

theorem newJournalPage (h : LaneWork s t) (b : List Byte) : LaneWork s (newJournalPage t b).2 := by
  have hnumbered : LaneWork s (newPid t).2 := h.setFlash fun f => { f with nextPid := f.nextPid + 1 }
  exact hnumbered.trans ⟨⟨rfl, rfl, rfl, rfl, rfl, rfl, rfl, fun _ he => he, fun _ _ => rfl⟩, fun _ _ => rfl⟩

theorem appendRecord (h : LaneWork s t) {b : List Byte} {e : Nat × State} (he : appendRecord t b = some e) : LaneWork s e.2 := by
  unfold Machine.appendRecord at he
  split at he
  · split at he
    · cases he
      dsimp only
      exact h.setMst rfl rfl fun _ he => he
    · split at he
      · cases he
        exact h.newJournalPage b
      · obtain ⟨v, hv, rfl⟩ := Option.map_eq_some_iff.mp he
        exact (h.issueJournal hv).newJournalPage b
  · cases he
    exact h.newJournalPage b

theorem appendParts (h : LaneWork s t) {kind id : Nat} {body : List Byte} (hu : appendParts t kind id body = some u) : LaneWork s u := by
  have hall : ∀ v ∈ Machine.appendParts t kind id body, LaneWork s v := by
    unfold Machine.appendParts
    refine List.foldlRecOn (motive := fun o : Option State => ∀ v ∈ o, LaneWork s v) _ _ (fun v hv => ?_) fun o ho e _ v hv => ?_
    · cases hv
      exact h
    · obtain ⟨w, hw, hadd⟩ := Option.bind_eq_some_iff.mp hv
      obtain ⟨e', he', rfl⟩ := Option.map_eq_some_iff.mp hadd
      exact (ho w hw).appendRecord he'
  exact hall u hu

theorem addRecord (h : LaneWork s t) (r : JRec) : LaneWork s (addRecord t r) := h.setMst rfl rfl fun _ he => he

theorem usePids (h : LaneWork s t) (k : Nat) : LaneWork s (usePids t k) := h.setFlash _

end LaneWork

/-! ### What is dead (R415, R430) -/

namespace MapWork

theorem lane (h : MapWork s t) (k : LaneWork t u) : MapWork s u := h.trans k.toMapWork

/-- A register from the MST block on. -/
theorem wrAbove (h : MapWork s t) (ha : 0x280000 ≤ a) (v : Word) : MapWork s (Machine.wr t a v) := h.wr (not_keptReg_above ha) v

theorem eraseZone (h : MapWork s t) (z : Nat) : MapWork s (eraseZone t z) := by
  unfold Machine.eraseZone
  split
  · exact h
  · exact List.foldlRecOn (motive := MapWork s) _ _ (h.setFlash _) fun v hv b _ => hv.wr (a := R.flcErases b.1)
      (not_keptReg_channel (by simp only [R.flcErases]; omega) (by simp only [R.flcErases]; omega)) _

theorem reclaimZones (h : MapWork s t) : MapWork s (reclaimZones t) := by
  unfold Machine.reclaimZones
  dsimp only
  refine List.foldlRecOn (motive := MapWork s) _ _ (h.setFlash _) fun v hv z _ => ?_
  split
  · exact hv
  · exact hv.eraseZone z

theorem reclaim (h : MapWork s t) : MapWork s (reclaim t) :=
  MapWork.reclaimZones ((h.setMst rfl rfl fun _ he => he : MapWork s (dropViews t)).setMst rfl rfl fun _ he => (List.mem_filter.mp he).1)

/-! ### The tasks -/

theorem reprotect (h : MapWork s t) (hu : reprotect t = some u) : MapWork s u := by
  unfold Machine.reprotect at hu
  split at hu
  · split at hu
    · cases hu
      exact h.wrAbove (a := R.mstStatus) (by decide) _
    · next x rest _ =>
      dsimp only at hu
      obtain ⟨w, hw, rfl⟩ := Option.map_eq_some_iff.mp hu
      obtain ⟨v, hv, rfl⟩ := Option.map_eq_some_iff.mp hw
      have hmoved := (h.lane (LaneWork.refl.movePages hv)).setFlash fun f => { f with stripes := f.stripes.filter fun u => u.seq != x.seq }
      split
      · exact hmoved.wrAbove (a := R.mstStatus) (by decide) _
      · exact hmoved
  · cases hu

theorem replaceBad (h : MapWork s t) (hu : replaceBad t = some u) : MapWork s u := by
  obtain ⟨e, -, he⟩ := List.exists_of_findSome?_eq_some hu
  split at he
  · cases he
  · split at he
    · cases he
    · obtain ⟨b, -, rfl⟩ := Option.map_eq_some_iff.mp he
      exact (h.setFlash _).setFlash _

theorem refreshPage (h : MapWork s t) (hu : refreshPage t = some u) : MapWork s u := by
  unfold Machine.refreshPage at hu
  split at hu
  · cases hu
  · next q c rest _ =>
    have hnext : MapWork s (Machine.setFlash t fun x => { x with refresh := rest }) := h.setFlash _
    dsimp only at hu
    split at hu
    · cases hu
      exact hnext
    · obtain hmoved | hsame := eq_some_of_orElse hu
      · exact hnext.lane (LaneWork.refl.movePages hmoved)
      · cases hsame
        exact hnext

end MapWork

theorem LaneWork.foldList (h : LaneWork s t) {k : Nat} (hu : foldList t k = some u) : LaneWork s u := by
  unfold Machine.foldList at hu
  dsimp only at hu
  split at hu
  · cases hu
    exact h
  · split at hu
    · cases hu
      exact h
    · obtain ⟨v, hv, hrest⟩ := Option.bind_eq_some_iff.mp hu
      obtain ⟨w, hw, rfl⟩ := Option.map_eq_some_iff.mp hrest
      exact (((h.usePids _).movePages hv).appendParts hw).addRecord _

theorem LaneWork.foldObjs (h : LaneWork s t) (hu : foldObjs t = some u) : LaneWork s u := by
  unfold Machine.foldObjs at hu
  dsimp only at hu
  split at hu
  · cases hu
    exact h
  · obtain ⟨v, hv, hrest⟩ := Option.bind_eq_some_iff.mp hu
    obtain ⟨w, hw, rfl⟩ := Option.map_eq_some_iff.mp hrest
    exact (((h.usePids _).movePages hv).appendParts hw).addRecord _

theorem LaneWork.foldRemovals (h : LaneWork s t) (hu : foldRemovals t = some u) : LaneWork s u := by
  unfold Machine.foldRemovals at hu
  split at hu
  · cases hu
    exact h
  · obtain ⟨w, hw, rfl⟩ := Option.map_eq_some_iff.mp hu
    exact (h.appendParts hw).addRecord _

theorem LaneWork.foldTask (h : LaneWork s t) (hu : foldTask t = some u) : LaneWork s u := by
  unfold Machine.foldTask at hu
  split at hu
  · obtain ⟨v, hv, hremove⟩ := Option.bind_eq_some_iff.mp hu
    obtain ⟨w, hw, hobjs⟩ := Option.bind_eq_some_iff.mp hv
    have hlists : ∀ x ∈ ((t.mst.side.map SideEntry.list).dedup.foldl (fun o n => o.bind fun s => Machine.foldList s n) (some t)),
        LaneWork s x := by
      refine List.foldlRecOn (motive := fun o : Option State => ∀ x ∈ o, LaneWork s x) _ _ (fun x hx => ?_) fun o ho k _ x hx => ?_
      · cases hx
        exact h
      · obtain ⟨y, hy, hfold⟩ := Option.bind_eq_some_iff.mp hx
        exact (ho y hy).foldList hfold
    exact ((hlists w hw).foldObjs hobjs).foldRemovals hremove
  · cases hu

theorem LaneWork.checkpoint (h : LaneWork s t) (hu : checkpoint t = some u) : LaneWork s u := by
  unfold Machine.checkpoint at hu
  split at hu
  · dsimp only at hu
    obtain ⟨v, hv, hrest⟩ := Option.bind_eq_some_iff.mp hu
    obtain ⟨w, hw, rfl⟩ := Option.map_eq_some_iff.mp hrest
    exact (((((h.usePids _).movePages hv).movePages hw).setFlash _).setMst rfl rfl fun _ he => he).wrAbove (a := R.mstJrnlUsed) (by decide)
      (by decide) _
  · cases hu

theorem LaneWork.emptyZone (h : LaneWork s t) {z : Nat} (hu : emptyZone t z = some u) : LaneWork s u := h.movePages hu

theorem LaneWork.compact (h : LaneWork s t) (hu : compact t = some u) : LaneWork s u := by
  unfold Machine.compact at hu
  split at hu
  · cases hu
  · dsimp only at hu
    split at hu
    · exact h.emptyZone hu
    · cases hu

theorem LaneWork.levelWear (h : LaneWork s t) (hu : levelWear t = some u) : LaneWork s u := by
  unfold Machine.levelWear at hu
  dsimp only at hu
  split at hu
  · split at hu
    · exact h.emptyZone hu
    · cases hu
  · cases hu

theorem MapWork.groom (h : MapWork s t) (hu : groom t = some u) : MapWork s u := by
  unfold Machine.groom at hu
  obtain hdone | hu := eq_some_of_orElse hu
  · exact h.reprotect hdone
  obtain hdone | hu := eq_some_of_orElse hu
  · exact h.replaceBad hdone
  obtain hdone | hu := eq_some_of_orElse hu
  · exact h.refreshPage hdone
  obtain hdone | hu := eq_some_of_orElse hu
  · exact h.lane (LaneWork.refl.foldTask hdone)
  obtain hdone | hu := eq_some_of_orElse hu
  · exact h.lane (LaneWork.refl.checkpoint hdone)
  obtain hdone | hu := eq_some_of_orElse hu
  · exact h.lane (LaneWork.refl.compact hdone)
  · exact h.lane (LaneWork.refl.levelWear hu)

/-! ### GROOM_TASK (R430) -/

/-- Whether the groomer works. -/
def groomOn (s : State) : Bool := rb s R.mstCtrl 1 && mstStatus s 0 && !mstStatus s 3 && !mstStatus s 8 && s.mst.write.isNone

theorem exec_groomTask_off (hu : s.up = true) (h : groomOn s = false) : exec .groomTask s = .next s := by
  refine (fabric_up s hu : execGroomTask s = _).trans ?_
  exact congrArg _ (if_neg (Bool.eq_false_iff.mp h))

/-- The task done, or none to do. -/
def groomed (s : State) : State :=
  match groom s with
  | some t => setBits (reclaim t) R.mstStatus 4
  | none => clrBits s R.mstStatus 4

theorem exec_groomTask_on (hu : s.up = true) (h : groomOn s = true) :
    exec .groomTask s = .next (syncPrs (syncFlash (groomed (reclaim s)))) := by
  refine (fabric_up s hu : execGroomTask s = _).trans ?_
  exact congrArg _ (if_pos h)

theorem groomed_spec (s : State) : MapWork s (groomed s) ∧ mstStatus (groomed s) 2 = (groom s).isSome := by
  unfold groomed
  split
  case h_1 t hsome =>
    refine ⟨((MapWork.refl.groom hsome).reclaim).wrAbove (a := R.mstStatus) (by decide) _, ?_⟩
    rw [hsome]
    exact rb_setBits_bit (s := reclaim t) (a := R.mstStatus) (i := 2) (by decide)
  case h_2 hnone =>
    refine ⟨MapWork.refl.wrAbove (a := R.mstStatus) (by decide) _, ?_⟩
    rw [hnone, mstStatus, rb, rd_clrBits_same]
    exact bit_and_not_bitW _ (b := 2) (by decide)

theorem groom_clause (hu : s.up = true) (h : groomOn s = true) : Runs .groomTask s fun u => u.mst.committed = s.mst.committed ∧
    u.mst.pins = s.mst.pins ∧ (∀ e ∈ u.mst.side, e ∈ s.mst.side) ∧ mstStatus u 2 = (groom (reclaim s)).isSome ∧ SameBytes s u := by
  obtain ⟨hwork, hbusy⟩ := groomed_spec (reclaim s)
  have hshown : LaneWork (groomed (reclaim s)) (syncPrs (syncFlash (groomed (reclaim s)))) := LaneWork.refl.syncFlash.syncPrs
  have hall := (MapWork.refl.reclaim.trans hwork).lane hshown
  exact ⟨_, exec_groomTask_on hu h, hall.committed, hall.pins, hall.side, (hshown.mstStatus (by decide)).trans hbusy, hall.sameBytes⟩

end Sys2Proof.Machine
end

section
/-! SUPPORT. A mount: the channels that do not answer, what recovery keeps, and the registers that show the store (R425 to R427, R437,
R440, R551); a part of O45. -/

namespace Sys2Proof.Machine

variable {s t u : State} {a c d q : Nat}

/-! ### The registers that show the store (R440) -/

/-- The registers that a mount or a format shows the store in. -/
def shownRegs : List Nat :=
  [R.mstCap, R.mstFree, R.mstZonesFree, R.mstEraseSpread, R.mstReprotLeft, R.mstPins, R.prsStatus, R.prsIndex, R.prsSideUsed,
    R.glbEpochLo, R.glbEpochHi, R.mstDangling] ++ (List.range 8).map R.flcBadBlocks ++ (List.range 3).map R.mstPinLo ++
    (List.range 3).map R.mstPinHi

/-- `t` is `s` but for those registers. -/
structure ShownOnly (s t : State) : Prop where
  only : OnlyRegs s t
  regs : SameRegsBut shownRegs s t

namespace ShownOnly

theorem refl : ShownOnly s s := ⟨.refl, fun _ _ => rfl⟩

theorem wr (h : ShownOnly s t) (ha : a ∈ shownRegs) (v : Word) : ShownOnly s (wr t a v) :=
  ⟨h.only.wr _ _, fun b hb => (rd_wr_other t v fun e : b = a => hb (e ▸ ha)).trans (h.regs b hb)⟩

theorem syncFlash (h : ShownOnly s t) : ShownOnly s (syncFlash t) := by
  unfold Machine.syncFlash
  dsimp only
  refine List.foldlRecOn (motive := ShownOnly s) _ _ (((((h.wr (a := R.mstCap) (by decide) _).wr (a := R.mstFree) (by decide) _).wr
    (a := R.mstZonesFree) (by decide) _).wr (a := R.mstEraseSpread) (by decide) _).wr (a := R.mstReprotLeft) (by decide) _)
    fun v hv c hc => hv.wr ?_ _
  simp only [shownRegs, List.mem_append]
  exact .inl (.inl (.inr (List.mem_map_of_mem hc)))

theorem syncPins (h : ShownOnly s t) : ShownOnly s (syncPins t) := by
  unfold Machine.syncPins
  refine List.foldlRecOn (motive := ShownOnly s) _ _ (h.wr (a := R.mstPins) (by decide) _) fun v hv i hi => (hv.wr ?_ _).wr ?_ _
  · simp only [shownRegs, List.mem_append]
    exact .inl (.inr (List.mem_map_of_mem hi))
  · simp only [shownRegs, List.mem_append]
    exact .inr (List.mem_map_of_mem hi)

theorem syncPrs (h : ShownOnly s t) : ShownOnly s (syncPrs t) :=
  ((h.wr (a := R.prsStatus) (by decide) _).wr (a := R.prsIndex) (by decide) _).wr (a := R.prsSideUsed) (by decide) _

theorem syncEpoch (h : ShownOnly s t) : ShownOnly s (syncEpoch t) :=
  ((h.wr (a := R.glbEpochLo) (by decide) _).wr (a := R.glbEpochHi) (by decide) _).wr (a := R.mstDangling) (by decide) _

theorem syncMount (h : ShownOnly s t) : ShownOnly s (syncMount t) := h.syncEpoch.syncPrs.syncPins.syncFlash

theorem mst (h : ShownOnly s t) : t.mst = s.mst := by
  obtain ⟨r, rfl⟩ := h.only
  rfl

end ShownOnly

theorem flcStatus_not_shown (hc : c < 8) : R.flcStatus c ∉ shownRegs := by
  simp only [shownRegs, List.mem_append, List.mem_cons, List.mem_map, List.mem_range, List.not_mem_nil, or_false, R.flcStatus, R.mstCap,
    R.mstFree, R.mstZonesFree, R.mstEraseSpread, R.mstReprotLeft, R.mstPins, R.prsStatus, R.prsIndex, R.prsSideUsed, R.glbEpochLo,
    R.glbEpochHi, R.mstDangling, R.flcBadBlocks, R.mstPinLo, R.mstPinHi]
  omega

/-! ### Channels that stay lost -/

/-- No channel that is lost comes back. -/
def LossKept (s t : State) : Prop := ∀ c, c < 8 → lostCh s c = true → lostCh t c = true

namespace LossKept

theorem refl : LossKept s s := fun _ _ h => h

theorem trans (h : LossKept s t) (k : LossKept t u) : LossKept s u := fun c hc hl => k c hc (h c hc hl)

theorem setMst (h : LossKept s t) (f : Mst → Mst) : LossKept s (setMst t f) := h

theorem wr (h : LossKept s t) (ha : ∀ c, c < 8 → R.flcStatus c ≠ a) (v : Word) : LossKept s (wr t a v) := fun c hc hl => by
  rw [lostCh, rb, rd_wr_other _ _ (ha c hc)]
  exact h c hc hl

theorem shown (h : LossKept s t) (k : ShownOnly t u) : LossKept s u := fun c hc hl => by
  rw [lostCh, rb, k.regs _ (flcStatus_not_shown hc)]
  exact h c hc hl

theorem work (h : LossKept s t) (k : MapWork t u) : LossKept s u := fun c hc hl => by
  rw [k.lostCh hc]
  exact h c hc hl

theorem bbx (h : LossKept s t) (code unit : Nat) (l : List Byte) (p : Bool) : LossKept s (bbx t code unit l p) := fun c hc hl => by
  rw [lostCh, rb, rd_bbx_low _ _ _ _ _ (by simp only [R.flcStatus]; omega)]
  exact h c hc hl

theorem channelDown (h : LossKept s t) (hc : c < 8) : LossKept s (channelDown t c) := fun d hd hl => by
  by_cases hne : d = c
  · rw [hne]
    exact lostCh_channelDown t hc
  · rw [lostCh_channelDown_other hd hne]
    exact h d hd hl

end LossKept

/-- A channel of which no die answers goes down. -/
def downIfSilent (s : State) (c : Nat) : State :=
  if s.mst.flash.nand.dies.getD c 0 = 0 ∧ lostCh s c = false then channelDown s c else s

theorem downIfSilent_mst (s : State) (c : Nat) : (downIfSilent s c).mst = s.mst := by
  unfold downIfSilent
  split
  · exact channelDown_mst s c
  · rfl

theorem LossKept.downIfSilent (h : LossKept s t) (hc : c < 8) : LossKept s (downIfSilent t c) := by
  unfold Machine.downIfSilent
  split
  · exact h.channelDown hc
  · exact h

theorem downIfSilent_silent (hc : c < 8) (h : s.mst.flash.nand.dies.getD c 0 = 0) : lostCh (downIfSilent s c) c = true := by
  unfold downIfSilent
  split
  · exact lostCh_channelDown s hc
  · next hnot => simpa using fun hl => hnot ⟨h, hl⟩

/-- Every channel asked for its dies. -/
def diesAsked (s : State) : State := (List.range 8).foldl downIfSilent s

theorem diesAsked_mst (s : State) : (diesAsked s).mst = s.mst := foldl_keep _ State.mst downIfSilent_mst _ _

theorem diesAsked_silent (hc : c < 8) (h : s.mst.flash.nand.dies.getD c 0 = 0) : lostCh (diesAsked s) c = true := by
  obtain ⟨l1, l2, hsplit⟩ := List.append_of_mem (List.mem_range.mpr hc)
  have hle : ∀ d ∈ l2, d < 8 := fun d hd => List.mem_range.mp (hsplit ▸ List.mem_append_right _ (List.mem_cons_of_mem _ hd))
  rw [diesAsked, hsplit, List.foldl_append, List.foldl_cons]
  have hmst : (l1.foldl downIfSilent s).mst = s.mst := foldl_keep _ State.mst downIfSilent_mst _ _
  have hdown := downIfSilent_silent (s := l1.foldl downIfSilent s) hc (by rw [hmst]; exact h)
  exact List.foldlRecOn (motive := LossKept (downIfSilent (l1.foldl downIfSilent s) c)) l2 _ .refl
    (fun v hv d hd => hv.downIfSilent (hle d hd)) c hc hdown

theorem diesAsked_answered (h : ∀ c, c < 8 → s.mst.flash.nand.dies.getD c 0 ≠ 0 ∨ lostCh s c = true) : diesAsked s = s := by
  refine List.foldlRecOn (motive := (· = s)) _ _ rfl fun v hv c hc => ?_
  rw [hv, downIfSilent, if_neg]
  rintro ⟨hdies, hlost⟩
  obtain hne | hl := h c (List.mem_range.mp hc)
  · exact hne hdies
  · rw [hl] at hlost
    cases hlost

/-! ### What recovery finds (R425, R427) -/

theorem bit_ofNat_top {n : Nat} (h : n < 2 ^ 31) : bit (BitVec.ofNat 32 n : Word) 31 = false := by
  rw [bit, BitVec.getLsbD_ofNat, Nat.testBit_lt_two_pow h, Bool.and_false]

theorem prsWord_top (x y z w : Bool) : bit (BitVec.ofNat 32 (x.toNat * 256 + y.toNat * 16 + z.toNat * 2 + w.toNat) : Word) 31 = false := by
  have hx := x.toNat_le
  have hy := y.toNat_le
  have hz := z.toNat_le
  have hw := w.toNat_le
  exact bit_ofNat_top (by omega)

theorem prsStatus_top : bit (rd (syncPrs s) R.prsStatus) 31 = false := by
  unfold syncPrs
  dsimp only
  rw [rd_wr_other _ _ (by decide), rd_wr_other _ _ (by decide), rd_wr_same]
  exact prsWord_top _ _ _ _

theorem rd_syncPrs_of_flcStatus (ha : R.flcStatus c ≠ R.prsStatus) : rd (syncPrs s) (R.flcStatus c) = rd s (R.flcStatus c) := by
  unfold syncPrs
  dsimp only
  rw [rd_wr_other _ _ (by simp only [R.flcStatus, R.prsSideUsed]; omega), rd_wr_other _ _ (by simp only [R.flcStatus, R.prsIndex]; omega),
    rd_wr_other _ _ ha]

/-- A channel that the coordinator's registers show as lost after a commit was lost before it: MST_STATUS and PRS_STATUS have the place
of a status of a channel past the eighth, and PRS_STATUS bit 31 is 0. -/
theorem lostCh_of_syncPrs (h : lostCh (syncPrs s) c = true) : lostCh s c = true := by
  by_cases ha : R.flcStatus c = R.prsStatus
  · rw [lostCh, rb, ha, prsStatus_top] at h
    cases h
  · rwa [lostCh, rb, rd_syncPrs_of_flcStatus ha] at h

theorem lostCh_syncEpoch (s : State) (c : Nat) : lostCh (syncEpoch s) c = lostCh s c := by
  unfold syncEpoch lostCh rb
  dsimp only
  rw [rd_wr_other _ _ (by simp only [R.flcStatus, R.mstDangling]; omega), rd_wr_other _ _ (by simp only [R.flcStatus, R.glbEpochHi]; omega),
    rd_wr_other _ _ (by simp only [R.flcStatus, R.glbEpochLo]; omega)]

theorem applyRecord_epoch (v : View) (r : JRec) : (applyRecord v r).epoch = v.epoch := by
  cases r with
  | tomb ty id p =>
    dsimp only [applyRecord]
    split <;> rfl
  | _ => rfl

theorem nextView_epoch (s : State) : (nextView s).epoch = openEpoch s :=
  foldl_keep applyRecord View.epoch applyRecord_epoch s.mst.records _

/-- `t` shows the flash of `s`, and no channel lost that was not. -/
structure SameFlash (s t : State) : Prop where
  flash : t.mst.flash = s.mst.flash
  lost : ∀ c, lostCh t c = true → lostCh s c = true

theorem publish_spec (s : State) : SameFlash s (publish s) ∧ (publish s).mst.committed = openEpoch s := by
  refine ⟨⟨rfl, fun c hl => ?_⟩, nextView_epoch s⟩
  have hbefore := lostCh_of_syncPrs hl
  rwa [lostCh_syncEpoch] at hbefore

theorem recoverInFlight_spec (s : State) : SameFlash s (recoverInFlight s) ∧
    ((recoverInFlight s).mst.committed = s.mst.committed ∨ (recoverInFlight s).mst.committed = openEpoch s) := by
  unfold recoverInFlight
  dsimp only [drawNat]
  split
  · exact ⟨⟨rfl, fun _ h => h⟩, .inl rfl⟩
  · split
    · obtain ⟨hflash, hcommitted⟩ := publish_spec { s with fresh := s.fresh + 1 }
      exact ⟨⟨hflash.flash, hflash.lost⟩, .inr hcommitted⟩
    · exact ⟨⟨rfl, fun _ h => h⟩, .inl rfl⟩
    · exact ⟨⟨rfl, fun _ h => h⟩, .inl rfl⟩

theorem LossKept.committed (h : LossKept s t) : LossKept s (syncPrs (syncEpoch t)) := h.shown ShownOnly.refl.syncEpoch.syncPrs

theorem LossKept.ofRegs (h : t.regs = s.regs) : LossKept s t := fun c _ hl => by
  rw [lostCh, rb, rd, h]
  exact hl

theorem LossKept.publish (h : LossKept s t) : LossKept s (publish t) := by
  unfold Machine.publish
  dsimp only
  refine h.trans (LossKept.committed ?_)
  refine LossKept.ofRegs ?_
  rfl

end Sys2Proof.Machine
end

section
/-! SUPPORT. A mount: the journal replayed, the open epoch dropped, the store shown (R425 to R427, R440, R551); a part of O45. -/

namespace Sys2Proof.Machine

variable {s t u : State}

/-! ### The journal (R427) -/

theorem SameFlash.journalStripe (h : SameFlash s t) (x : Stripe) : journalStripe t x = journalStripe s x := by
  unfold Machine.journalStripe zoneNative zoneOf journalStart
  rw [h.flash]

theorem SameFlash.deadChs_le (h : SameFlash s t) (x : Stripe) : (deadChs t x).length ≤ (deadChs s x).length := by
  refine (List.monotone_filter_right _ fun c hc => ?_).length_le
  rw [Bool.or_eq_true] at hc ⊢
  exact hc.imp_left (h.lost c)

/-- No journal stripe is beyond repair. -/
def JournalWhole (s : State) : Prop := ∀ t ∈ s.mst.flash.stripes, journalStripe s t = true → (deadChs s t).length < 2

theorem JournalWhole.same (h : JournalWhole s) (k : SameFlash s t) : JournalWhole t := fun x hx hj =>
  (k.deadChs_le x).trans_lt (h x (k.flash ▸ hx) (k.journalStripe x ▸ hj))

theorem JournalWhole.replay (h : JournalWhole s) : replayJournal s = s := by
  have hnone : (s.mst.flash.stripes.filter fun t => journalStripe s t && decide (2 ≤ (deadChs s t).length)) = [] := by
    refine List.filter_eq_nil_iff.mpr fun t ht hbad => ?_
    rw [Bool.and_eq_true, decide_eq_true_eq] at hbad
    exact absurd (h t ht hbad.1) (by omega)
  rw [replayJournal, journalBreak, hnone, List.foldl_nil]

/-! ### What recovery keeps of the channels -/

theorem LossKept.recover : LossKept s (recoverInFlight s) := by
  unfold recoverInFlight
  dsimp only [drawNat]
  split
  · exact .ofRegs rfl
  · have hdrawn : LossKept s { s with fresh := s.fresh + 1 } := .ofRegs rfl
    split
    · exact hdrawn.publish
    · exact .ofRegs rfl
    · exact hdrawn

theorem LossKept.replayed : LossKept s (replayJournal s) := by
  unfold replayJournal
  split
  · exact .ofRegs rfl
  · exact .refl

/-! ### Zones reclaimed -/

/-- The store of `t` is that of `s` but for the flash. -/
def FlashOnly (s t : State) : Prop := ∃ f, t.mst = { s.mst with flash := f }

namespace FlashOnly

theorem refl : FlashOnly s s := ⟨s.mst.flash, rfl⟩

theorem setFlash (h : FlashOnly s t) (f : Flash → Flash) : FlashOnly s (setFlash t f) := by
  obtain ⟨g, hg⟩ := h
  exact ⟨f t.mst.flash, congrArg (fun m : Mst => { m with flash := f t.mst.flash }) hg⟩

theorem eraseZone (h : FlashOnly s t) (z : Nat) : FlashOnly s (eraseZone t z) := by
  unfold Machine.eraseZone
  split
  · exact h
  · exact List.foldlRecOn (motive := FlashOnly s) _ _ (h.setFlash _) fun _ hv _ _ => hv

theorem reclaimZones (h : FlashOnly s t) : FlashOnly s (reclaimZones t) := by
  unfold Machine.reclaimZones
  dsimp only
  refine List.foldlRecOn (motive := FlashOnly s) _ _ (h.setFlash _) fun v hv z _ => ?_
  split
  · exact hv
  · exact hv.eraseZone z

end FlashOnly

/-! ### The mount -/

/-- The store that the journal and the stripe in flight give, with the open epoch gone. -/
def recovered (s : State) : State := discardOpen (replayJournal (recoverInFlight s))

/-- The recovered store, opened: no zone being filled, no page to refresh, no view but the retained ones. -/
def opened (s : State) : State :=
  setFlash (setMst (recovered s) fun m => { m with views := m.views.filter fun v => retained (recovered s) v.epoch }) fun x => { x with
    slcZone := none, natZone := none, refresh := [], late := [], uncorr := [] }

/-- The mounted store shown, with `n` journal stripes read in `us` microseconds. -/
def mountShown (s : State) (us n : Nat) : State :=
  let s1 := wr (wr s R.mstMountUs (BitVec.ofNat 32 us)) R.mstJrnlUsed (BitVec.ofNat 32 n)
  let s2 := bbx s1 0x0301 0x28 (leBytes 8 s1.mst.committed) true
  setBits (syncMount (setBits (mstEvent s2 4) R.mstStatus 1)) R.glbStatus 8

theorem diesAsked_eq : (List.range 8).foldl (fun s c =>
    if s.mst.flash.nand.dies.getD c 0 = 0 ∧ lostCh s c = false then channelDown s c else s) s = diesAsked s := rfl

theorem mapMount_failed (h : readableRoots (diesAsked s) = []) : mapMount s = setBits (diesAsked s) R.mstStatus 0x400 := by
  unfold mapMount
  dsimp only
  rw [diesAsked_eq, if_pos h]

theorem mapMount_mounted (h : readableRoots (diesAsked s) ≠ []) : ∃ us n, mapMount s =
    mountShown { reclaimZones (opened (diesAsked s)) with fresh := (reclaimZones (opened (diesAsked s))).fresh + 1 } us n := by
  unfold mapMount
  dsimp only [drawNat]
  rw [diesAsked_eq, if_neg h]
  exact ⟨_, _, rfl⟩

section
variable {us n : Nat}

theorem mountShown_mst : (mountShown s us n).mst = s.mst := by
  unfold mountShown
  dsimp only
  rw [setBits_mst, ShownOnly.refl.syncMount.mst, setBits_mst, mstEvent, setBits_mst, bbx_mst, wr_mst, wr_mst]

theorem LossKept.mountShown : LossKept s (mountShown s us n) := by
  have hne {a : Nat} (ha : 0x280000 ≤ a) (c : Nat) (hc : c < 8) : R.flcStatus c ≠ a := by
    simp only [R.flcStatus]
    omega
  unfold Machine.mountShown
  dsimp only
  have hread : LossKept s (Machine.wr (Machine.wr s R.mstMountUs (BitVec.ofNat 32 us)) R.mstJrnlUsed (BitVec.ofNat 32 n)) :=
    (refl.wr (hne (by decide)) _).wr (hne (by decide)) _
  refine wr (shown (wr (wr (hread.bbx _ _ _ _) ?_ _) ?_ _) ShownOnly.refl.syncMount) ?_ _
  · exact hne (by decide)
  · exact hne (by decide)
  · simp only [R.flcStatus, R.glbStatus]
    omega

/-- The registers that a mount sets show it. -/
theorem mountShown_regs : mstStatus (mountShown s us n) 0 = true ∧ rb (mountShown s us n) R.glbStatus 3 = true ∧
    bit (rd (mountShown s us n) R.mstEvent) 4 = true := by
  unfold mountShown
  dsimp only
  refine ⟨?_, rb_setBits_bit _ (i := 3) (by decide), ?_⟩
  · rw [mstStatus, rb, rd_setBits_other _ _ (by decide), ShownOnly.refl.syncMount.regs _ (by decide)]
    exact rb_setBits_bit _ (i := 0) (by decide)
  · rw [rd_setBits_other _ _ (by decide), ShownOnly.refl.syncMount.regs _ (by decide), rd_setBits_other _ _ (by decide)]
    exact rb_setBits_bit _ (i := 4) (by decide)

end

end Sys2Proof.Machine
end

section
/-! SUPPORT. What a mount does (R425 to R427, R437, R440, R551); a part of O45. -/

namespace Sys2Proof.Machine

variable {s t u : State} {c : Nat}

/-! ### The store mounted -/

theorem lossKept_mount : LossKept (diesAsked s) (mapMount s) := by
  by_cases hroots : readableRoots (diesAsked s) = []
  · rw [mapMount_failed hroots]
    refine LossKept.refl.wr (fun c hc => ?_) _
    simp only [R.flcStatus, R.mstStatus]
    omega
  · obtain ⟨us, n, hmount⟩ := mapMount_mounted hroots
    rw [hmount]
    have hopened : LossKept (recovered (diesAsked s)) (opened (diesAsked s)) := .ofRegs rfl
    have hrecovered : LossKept (replayJournal (recoverInFlight (diesAsked s))) (recovered (diesAsked s)) := .ofRegs rfl
    have hreclaimed := LossKept.refl.work (MapWork.refl.reclaimZones (t := opened (diesAsked s)))
    have hdrawn : LossKept (reclaimZones (opened (diesAsked s)))
        { reclaimZones (opened (diesAsked s)) with fresh := (reclaimZones (opened (diesAsked s))).fresh + 1 } := .ofRegs rfl
    exact (((((LossKept.recover.trans .replayed).trans hrecovered).trans hopened).trans hreclaimed).trans hdrawn).trans .mountShown

/-- The mounted store has nothing of the open epoch. -/
structure NoOpenEpoch (m : Mst) : Prop where
  records : m.records = []
  pages : m.pages = []
  write : m.write = none
  programming : m.programming = []
  side : ∀ e ∈ m.side, e.stamp ≤ m.committed

theorem noOpenEpoch_opened (s : State) : NoOpenEpoch (opened s).mst :=
  ⟨rfl, rfl, rfl, rfl, fun _ he => of_decide_eq_true (List.mem_filter.mp he).2⟩

theorem NoOpenEpoch.flashOnly (h : NoOpenEpoch s.mst) (k : FlashOnly s t) : NoOpenEpoch t.mst := by
  obtain ⟨f, hf⟩ := k
  rw [hf]
  exact ⟨h.records, h.pages, h.write, h.programming, h.side⟩

theorem FlashOnly.committed (k : FlashOnly s t) : t.mst.committed = s.mst.committed := by
  obtain ⟨f, hf⟩ := k
  rw [hf]

theorem opened_committed (s : State) : (opened s).mst.committed = (replayJournal (recoverInFlight s)).mst.committed := rfl

/-- With no journal stripe beyond repair, recovery keeps what was committed, or finds the commit in flight. -/
theorem opened_committed_of_whole (h : JournalWhole s) :
    (opened s).mst.committed = s.mst.committed ∨ (opened s).mst.committed = openEpoch s := by
  obtain ⟨hsame, hcommitted⟩ := recoverInFlight_spec s
  rw [opened_committed, (h.same hsame).replay]
  exact hcommitted

/-! ### The clauses -/

/-- Whether a mount is due: memory trained, the store neither mounted nor failed. -/
def mountDue (s : State) : Bool := decide (s.aon.boot = .trained) && !mstStatus s 0 && !mstStatus s 10

theorem mountDue_not (s : State) : (decide (s.aon.boot ≠ .trained) || mstStatus s 0 || mstStatus s 10) = !mountDue s := by
  rw [mountDue, Bool.not_and, Bool.not_and, Bool.not_not, Bool.not_not, decide_not]

theorem exec_mapMount_due (hu : s.up = true) (h : mountDue s = true) : exec .mapMount s = .next (mapMount s) := by
  refine (fabric_up s hu : execMapMount s = _).trans ?_
  refine congrArg _ (if_neg ?_)
  rw [mountDue_not, h]
  exact Bool.false_ne_true

theorem mount_ignored (hu : s.up = true) (h : mountDue s = false) : Runs .mapMount s fun u => u = s := by
  refine ⟨s, (fabric_up s hu : execMapMount s = _).trans ?_, rfl⟩
  refine congrArg _ (if_pos ?_)
  rw [mountDue_not, h]
  rfl

theorem mount_silent (hu : s.up = true) (h : mountDue s = true) :
    Runs .mapMount s fun u => ∀ c, c < 8 → s.mst.flash.nand.dies.getD c 0 = 0 → lostCh u c = true :=
  ⟨_, exec_mapMount_due hu h, fun c hc hdies => lossKept_mount c hc (diesAsked_silent hc hdies)⟩

section
variable (hu : s.up = true) (hdue : mountDue s = true) (hdies : ∀ c, c < 8 → s.mst.flash.nand.dies.getD c 0 ≠ 0 ∨ lostCh s c = true)
include hu hdue hdies

theorem mount_noRoot (h : readableRoots s = []) : Runs .mapMount s fun u => mstStatus u 10 = true ∧ mstStatus u 0 = false := by
  have hasked := diesAsked_answered hdies
  refine ⟨_, exec_mapMount_due hu hdue, ?_⟩
  rw [mapMount_failed (by rw [hasked]; exact h), hasked]
  refine ⟨rb_setBits_bit s (a := R.mstStatus) (i := 10) (by decide), ?_⟩
  have hbefore : mstStatus s 0 = false := by
    unfold mountDue at hdue
    simp only [Bool.and_eq_true, Bool.not_eq_true', decide_eq_true_eq] at hdue
    exact hdue.1.2
  rw [mstStatus, rb, bit] at hbefore ⊢
  rw [rd_setBits_same, BitVec.getLsbD_or, hbefore]
  decide

theorem mount_clause (h : readableRoots s ≠ []) : Runs .mapMount s fun u => mstStatus u 0 = true ∧ rb u R.glbStatus 3 = true ∧
    bit (rd u R.mstEvent) 4 = true ∧ u.mst.records = [] ∧ u.mst.pages = [] ∧ u.mst.write = none ∧ u.mst.programming = [] ∧
    (∀ e ∈ u.mst.side, e.stamp ≤ u.mst.committed) ∧
    ((∀ t ∈ s.mst.flash.stripes, journalStripe s t = true → (deadChs s t).length < 2) →
      u.mst.committed = s.mst.committed ∨ u.mst.committed = openEpoch s) := by
  have hasked := diesAsked_answered hdies
  refine ⟨_, exec_mapMount_due hu hdue, ?_⟩
  obtain ⟨us, n, hmount⟩ := mapMount_mounted (s := s) (by rw [hasked]; exact h)
  rw [hmount, hasked, mountShown_mst]
  obtain ⟨hmounted, hready, hevent⟩ := mountShown_regs (us := us) (n := n)
    (s := { reclaimZones (opened s) with fresh := (reclaimZones (opened s)).fresh + 1 })
  have hflash := FlashOnly.refl.reclaimZones (t := opened s)
  have hopen := (noOpenEpoch_opened s).flashOnly hflash
  exact ⟨hmounted, hready, hevent, hopen.records, hopen.pages, hopen.write, hopen.programming, hopen.side, fun hwhole =>
    hflash.committed ▸ opened_committed_of_whole hwhole⟩

end

end Sys2Proof.Machine
end

section
/-! SUPPORT. Formatting, and a falling PWR_FAIL_N (R425, R429, R439, R440); a part of O45. -/

namespace Sys2Proof.Machine

variable {s t u : State}

/-! ### The format (R429) -/

/-- Whether a write of MST_FORMAT formats the store. -/
def formatGo (s : State) (v : Word) : Bool := decide (fld v 31 24 = 0xC3) && !rb s R.mstCtrl 0 && !mstStatus s 3

/-- The store emptied, with the root `r` on both its copies. -/
def emptied (s : State) (r : Root) : State :=
  discardOpen (setMst (setFlash s fun x => { x with stripes := [], roots := [r, r], refresh := [], dirs := [] }) fun m => { m with
    views := [], committed := 0, pins := [0, 0, 0], side := [], nextSide := 0, mirror := [], base := Mst.blank.base, past := []
    pinLog := [] })

/-- The formatted store shown. -/
def formatShown (s : State) : State :=
  setBits (syncMst (syncMount (wr (clrBits (setBits s R.mstStatus 1) R.mstStatus 0x400) R.mstJrnlUsed 0))) R.glbStatus 8

theorem formatShown_mst : (formatShown s).mst = s.mst := by
  unfold formatShown
  rw [setBits_mst, show ∀ t, (syncMst t).mst = t.mst from fun _ => rfl, ShownOnly.refl.syncMount.mst, wr_mst, clrBits_mst, setBits_mst]

/-- MST_STATUS as a format sets it, but for the bit that shows work. -/
theorem formatShown_status {i : Nat} (hi : i ≠ 1) : mstStatus (formatShown s) i =
    bit ((rd s R.mstStatus ||| 1) &&& ~~~0x400) i := by
  unfold formatShown
  rw [mstStatus, rb, rd_setBits_other _ _ (by decide), ← rb, ← mstStatus, LaneWork.refl.syncMst.mstStatus hi, mstStatus, rb,
    ShownOnly.refl.syncMount.regs _ (by decide), rd_wr_other _ _ (by decide), rd_clrBits_same, rd_setBits_same]

theorem formatShown_jrnlUsed : rd (formatShown s) R.mstJrnlUsed = 0 := by
  unfold formatShown
  rw [rd_setBits_other _ _ (by decide), syncMst, wf, rd_wr_other _ _ (by decide), ShownOnly.refl.syncMount.regs _ (by decide),
    rd_wr_same]

theorem exec_format (v : Word) (hu : s.up = true) (h : formatGo s v = true) :
    ∃ t r, exec (.mstFormat v) s = .next (formatShown (emptied t r)) := by
  unfold formatGo at h
  simp only [Bool.and_eq_true, Bool.not_eq_true', decide_eq_true_eq] at h
  obtain ⟨⟨hkey, hctrl⟩, hstop⟩ := h
  have hnot : ¬ (fld v 31 24 ≠ 0xC3 ∨ rb s R.mstCtrl 0 = true ∨ mstStatus s 3 = true) := by
    rw [hctrl, hstop]
    simp [hkey]
  change ∃ t r, execMstFormat v s = .next (formatShown (emptied t r))
  rw [execMstFormat, fabric_up s hu]
  rw [if_neg hnot]
  exact ⟨_, _, rfl⟩

theorem format_ignored (v : Word) (hu : s.up = true) (h : formatGo s v = false) : Runs (.mstFormat v) s fun u => u = s := by
  refine ⟨s, (fabric_up s hu : execMstFormat v s = _).trans ?_, rfl⟩
  refine congrArg _ (if_pos ?_)
  by_contra hall
  push Not at hall
  obtain ⟨hkey, hctrl, hstop⟩ := hall
  rw [formatGo, Bool.eq_false_iff.mpr hctrl, Bool.eq_false_iff.mpr hstop, hkey] at h
  exact Bool.noConfusion h

theorem format_clause (v : Word) (hu : s.up = true) (h : formatGo s v = true) : Runs (.mstFormat v) s fun u => mstStatus u 0 = true ∧
    mstStatus u 10 = false ∧ rb u R.glbStatus 3 = true ∧ u.mst.committed = 0 ∧ u.mst.views = [] ∧ u.mst.side = [] ∧
    u.mst.records = [] ∧ u.mst.pins = [0, 0, 0] ∧ u.mst.flash.stripes = [] ∧ u.mst.write = none ∧ rd u R.mstJrnlUsed = 0 := by
  obtain ⟨t, r, hexec⟩ := exec_format v hu h
  refine ⟨_, hexec, ?_, ?_, rb_setBits_bit _ (i := 3) (by decide), ?_⟩
  · rw [formatShown_status (by decide), bit, BitVec.getLsbD_and, BitVec.getLsbD_or]
    simp
  · rw [formatShown_status (by decide), bit, BitVec.getLsbD_and, BitVec.getLsbD_or]
    simp
  · rw [formatShown_mst, formatShown_jrnlUsed]
    exact ⟨rfl, rfl, rfl, rfl, rfl, rfl, rfl, rfl⟩

/-! ### A falling PWR_FAIL_N (R425, R439) -/

/-- The record and the event of a falling PWR_FAIL_N. -/
def failShown (s : State) : State :=
  pwrEvent (powerRec (setAon s fun a => { a with failLow := true }) 0x0405 (leBytes 1 (pstateCode s.pwr.pstate)) true) 0

theorem pwrFail_ignored (h : s.aon.failLow = true ∨ s.aon.boot = .off) :
    Runs .pwrFail s fun u => u = { s with aon := { s.aon with failLow := true } } :=
  ⟨_, congrArg Host.Outcome.next (if_pos h), rfl⟩

theorem exec_pwrFail (hu : s.up = true) (hlow : s.aon.failLow = false) (hboot : s.aon.boot ≠ .off) :
    exec .pwrFail s = .next (mstStop (failShown s)) := by
  have hnot : ¬ (s.aon.failLow = true ∨ s.aon.boot = .off) := by
    rw [hlow]
    simpa using hboot
  exact congrArg Host.Outcome.next ((if_neg hnot).trans (if_pos hu))

theorem failShown_fgs : (failShown s).fgs = s.fgs := by
  unfold failShown powerRec
  rw [pwrEvent, setBits_fgs, bbx_fgs]
  rfl

theorem failShown_memx : (failShown s).memx = s.memx := by
  unfold failShown powerRec
  rw [pwrEvent, setBits_memx, bbx_memx]
  rfl

theorem failShown_mst : (failShown s).mst = s.mst := by
  unfold failShown powerRec
  rw [pwrEvent, setBits_mst, bbx_mst]
  rfl

theorem failShown_low : (failShown s).aon.failLow = true := by
  unfold failShown powerRec
  rw [pwrEvent, setBits_aon, bbx_aon]
  rfl

theorem failShown_event : bit (rd (failShown s) R.pwrEvent) 0 = true := rb_setBits_bit _ (i := 0) (by decide)

theorem failShown_record (h : s.bbxQueue.length < 64) : ∃ r, (failShown s).bbxQueue = s.bbxQueue ++ [r] ∧ r.code = 0x0405 := by
  unfold failShown powerRec
  rw [pwrEvent, setBits_bbxQueue, bbx_room (show (setAon s _).bbxQueue.length < 64 from h)]
  exact ⟨_, rfl, rfl⟩

/-- MST_STATUS.STOPPED and the event show the stop. -/
theorem mstStop_shown (s : State) : mstStatus (mstStop s) 3 = true ∧ bit (rd (mstStop s) R.mstEvent) 5 = true := by
  have hset : mstStatus (setBits (mstEvent s 5) R.mstStatus 8) 3 = true := rb_setBits_bit _ (i := 3) (by decide)
  have hevent : bit (rd (setBits (mstEvent s 5) R.mstStatus 8) R.mstEvent) 5 = true := by
    rw [rd_setBits_other _ _ (by decide)]
    exact rb_setBits_bit _ (i := 5) (by decide)
  unfold mstStop
  dsimp only
  split
  · split
    · exact ⟨hset, hevent⟩
    · next w hwrite hop =>
      have hfinished := LaneWork.refl.finish (t := setBits (mstEvent s 5) R.mstStatus 8) w.job.owner 0x28 []
      have horphan := hfinished.setMst (f := fun m => { m with write := m.write.map orphanJob }) rfl rfl fun _ he => he
      refine ⟨(horphan.syncMst.mstStatus (by decide)).trans hset, ?_⟩
      rw [syncMst, wf, rd_wr_other _ _ (by decide)]
      obtain ⟨_, _, _, _, hframe⟩ := finish_frame (setBits (mstEvent s 5) R.mstStatus 8) w.job.owner 0x28 []
      rw [hframe]
      exact hevent
  · exact ⟨hset, hevent⟩

/-- The job of a PIN or UNPIN in flight is reported, ERR_ABORTED, when the store stops. -/
theorem mstStop_reports {w : WriteJob} (hwrite : s.mst.write = some w) (hop : jobOp w.job ≠ 3) (hfgs : s.fgs = t.fgs)
    (hmemx : s.memx = t.memx) : reportedLast t (mstStop s) w.job.owner 0x28 := by
  intro r g howner
  rw [mstStop]
  rw [show (setBits (mstEvent s 5) R.mstStatus 8).mst.write = some w from hwrite]
  dsimp only
  rw [if_neg hop, howner]
  have hreported := ends_report_gate (s := t) (t := setBits (mstEvent s 5) R.mstStatus 8) (r := r) (g := g) (st := 0x28)
    (congrArg Fgs.reports hfgs) (congrArg Mem.deferred hmemx)
  exact hreported

theorem pwrFail_clause (hu : s.up = true) (hlow : s.aon.failLow = false) (hboot : s.aon.boot ≠ .off) :
    Runs .pwrFail s fun u => u.aon.failLow = true ∧ mstStatus u 3 = true ∧ bit (rd u R.mstEvent) 5 = true ∧
      bit (rd u R.pwrEvent) 0 = true ∧ (s.bbxQueue.length < 64 → ∃ r, u.bbxQueue = s.bbxQueue ++ [r] ∧ r.code = 0x0405) ∧
      ∀ w, s.mst.write = some w → jobOp w.job ≠ 3 → reportedLast s u w.job.owner 0x28 := by
  obtain ⟨hstopped, hevent⟩ := mstStop_shown (failShown s)
  obtain ⟨_, _, _, _, _, _, hframe⟩ := mstStop_frame (failShown s)
  have haon : (mstStop (failShown s)).aon = (failShown s).aon := by rw [hframe]
  have hqueue : (mstStop (failShown s)).bbxQueue = (failShown s).bbxQueue := by rw [hframe]
  refine ⟨_, exec_pwrFail hu hlow hboot, (congrArg Aon.failLow haon).trans failShown_low, hstopped, hevent, ?_, fun hroom => ?_,
    fun w hwrite hop => mstStop_reports ((congrArg Mst.write failShown_mst).trans hwrite) hop failShown_fgs failShown_memx⟩
  · rw [mstStop_regs _ _ (by decide)]
    exact failShown_event
  · rw [hqueue]
    exact failShown_record hroom

end Sys2Proof.Machine
end

section
/-! SUPPORT. The flash and its groomer, mounting, formatting and power loss together; settles O45. -/

namespace Sys2Proof.Machine

section
variable {s : State} {ch : Fin 8} (hu : s.up = true)
include hu

theorem pageLate_clause {t : Stripe} {q : Nat} (ht : stripeOf s q = some t) (hlost : lostCh s ch.val = false) (hin : ch.val ∈ t.chans) :
    Runs (.flashPageRead ch q []) s fun u => (SameBytes s u ∧ u.mst.committed = s.mst.committed) ∧
      rd u (R.flcTimeouts ch.val) = incSat (rd s (R.flcTimeouts ch.val)) ∧
      ((ch.val, dieOf s t ch.val) ∉ s.mst.flash.late → (ch.val, dieOf s t ch.val) ∈ u.mst.flash.late ∧ lostCh u ch.val = false) ∧
      ((ch.val, dieOf s t ch.val) ∈ s.mst.flash.late → lostCh u ch.val = true) :=
  ⟨_, exec_flashPageRead_late hu ht hlost hin, dieLate_spec s ch.isLt _ hlost⟩

theorem channelLost_ignored (h : lostCh s ch.val = true) : Runs (.flashChannelLost ch) s fun u => u = s :=
  ⟨_, exec_flashChannelLost ch hu, loseChannel_lost h⟩

theorem channelLost_clause (h : lostCh s ch.val = false) : Runs (.flashChannelLost ch) s fun u =>
    lostCh u ch.val = true ∧ bit (rd u (R.flcEvent ch.val)) 4 = true ∧ mstStatus u 7 = true ∧
      bit (rd u R.glbCap) (16 + ch.val) = false ∧ u.mst.committed = s.mst.committed ∧
      ((usableCh s).length = 8 → rf u R.mstStatus 6 4 = ch.val ∧ mstStatus u 8 = mstStatus s 8) ∧
      ((usableCh s).length < 8 → mstStatus u 8 = true ∧ u.mst.programming = [] ∧ u.mst.write = none) ∧
      (s.bbxQueue.length < 64 → ∃ r, u.bbxQueue = s.bbxQueue ++ [r] ∧ r.code = 0x0302) := by
  refine ⟨_, exec_flashChannelLost ch hu, ?_⟩
  rw [loseChannel_used h]
  exact lossWork_spec s ch.isLt

end

/-- Settles O45: the failures of the flash by the clauses of a page read, of a failed program or erase and of a lost channel; the
groomer by what map work keeps; the mount by what recovery keeps of the channels and of the journal. -/
theorem theFlashIsKept : Obligations.TheFlashIsKept := by
  unfold Obligations.TheFlashIsKept
  intro s hu
  refine ⟨fun ch q cws => ⟨fun t ht hlost hin => ⟨?_, pageRead_clause hu ht hlost hin⟩, fun h => ⟨s, pageRead_ignored cws hu h, rfl⟩⟩,
    fun ch blk hlost => ⟨eraseFail_clause hu hlost, fun h => ⟨s, eraseFail_ignored hu hlost h, rfl⟩,
      fun h => ⟨s, programFail_ignored hu hlost h, rfl⟩, fun t z e => programFail_clause hu hlost⟩,
    fun ch => ⟨channelLost_ignored hu, channelLost_clause hu⟩,
    ⟨fun h => ⟨s, exec_groomTask_off hu h, rfl⟩, groom_clause hu⟩,
    ⟨mount_ignored hu, mount_silent hu, fun hdue hdies => ⟨mount_noRoot hu hdue hdies, mount_clause hu hdue hdies⟩⟩,
    fun v => ⟨format_ignored v hu, format_clause v hu⟩, pwrFail_ignored, pwrFail_clause hu⟩
  intro hcws
  rw [hcws]
  exact pageLate_clause hu ht hlost hin

end Sys2Proof.Machine
end
